-- ==== Sys2Proof/Word.lean ====
section
/-! DEFINITION. Word.lean: the word types of the Joryon and the plain records that commands carry as operands. -/

namespace Sys2Proof

/-- A register or header word (R15). -/
abbrev Word := BitVec 32
/-- A command or message word (R259, R320). -/
abbrev Word64 := BitVec 64
/-- One byte of a memory or of a frame. -/
abbrev Byte := BitVec 8

/-- The fields of word 0 of a command that are not operands: the stream that decodes it and its FLAGS (R259).
`nw` is the number of words after word 0 that the sender wrote. -/
structure Hdr where
  stream : BitVec 8
  quiet  : Bool
  order  : Bool
  nw     : BitVec 3
  ackp   : Bool
  irq    : Bool
deriving DecidableEq, Repr

/-- An event packet (R200): header fields and its 32-bit records (R198). -/
structure Packet where
  dstCore : Nat
  srcCore : Nat
  delay   : BitVec 6
  ctxBase : BitVec 18
  matrix  : BitVec 8
  fixed   : Bool
  step    : BitVec 20
  records : List Word
deriving DecidableEq, Repr

/-- A fabric packet as a router sees it (R369, R371): the devices that its header names by a device number (`ddev`, `sdev`) with a unit or
by a logical core, the other fields of its header, HOP and ROUTE, and the payload words. `perType` is word 1 [31:6] (R370). `via` is no field of
the packet: it is the link in whose receive buffer the packet stands (R372). -/
structure FabPkt where
  type    : BitVec 4
  vc      : BitVec 2
  dstDev  : Nat
  srcDev  : Nat
  unit    : BitVec 4
  ddev    : Bool
  len     : Nat
  e2e     : BitVec 16
  hop     : BitVec 2
  route   : List (BitVec 5)
  payload : List Word
  dstCore : BitVec 10
  srcCore : BitVec 10
  srcUnit : BitVec 4
  sdev    : Bool
  delay   : BitVec 6
  perType : BitVec 26
  fixed   : Bool
  step    : BitVec 20
  via     : Option (BitVec 5)
deriving DecidableEq, Repr

/-- How an Ethernet frame comes in (R397-R401): its sub-port, its source address, the VID of its 802.1Q tag (none if untagged), its EtherType,
in UDP whether it is over IPv6 and its destination port, whether MACsec protects it and whether it then passes its ICV and replay check, and the
sequence number of its R-TAG (R415). -/
structure EthHead where
  sub    : BitVec 2
  src    : Nat
  vid    : Option (BitVec 12)
  etype  : BitVec 16
  udp    : Option (Bool × BitVec 16)
  macsec : Bool
  secOk  : Bool
  rtag   : Option (BitVec 16)
deriving DecidableEq, Repr

/-- Where frames for the host go (R411, R413): a port, its sub-port and an address. -/
structure HostTo where
  port : BitVec 1
  sub  : BitVec 2
  addr : Nat
deriving DecidableEq, Repr

/-- A transport frame (R401) with its payload bytes. `len` is its LEN field, and `noBuf` says that no transport buffer was free for it (R408). -/
structure TFrame where
  port   : BitVec 1
  ver    : BitVec 4
  type   : BitVec 4
  ackv   : Bool
  space  : BitVec 2
  device : BitVec 6
  stream : BitVec 8
  seq    : Word
  ack    : Word
  len    : Nat
  eth    : EthHead
  noBuf  : Bool
  payload : List Byte
deriving DecidableEq, Repr

/-- One observation record of an OBS frame (R238), its rows as byte strings. -/
structure ObsRec where
  channel : BitVec 12
  cfirst  : BitVec 18
  tstep   : BitVec 20
  zin     : BitVec 8
  rows    : List (List Byte)
  cut     : Bool
deriving DecidableEq, Repr

/-- A request to a slice (R337-R339): the source port, the 64-bit word, the kind (0 read, 1 write), the ALIAS code
(R342), the byte enables of a partial write, the data and whether it carries the vault attribute (R344). -/
structure SliceReq where
  port  : BitVec 7
  word  : BitVec 20
  write : Bool
  code  : BitVec 2
  mask  : BitVec 8
  data  : Word64
  vault : Bool
deriving DecidableEq, Repr

/-- A buoy operation as it reaches the sync unit (R303, R307): kind 0 SIGNAL, 1 DEC, 2 TAKE, 3 WAIT, 4 WATCH, and
the device, stream, CSEQ and binding that issued it. The unit's other messages have the same form (log entry 60): kind 5 a queue notice
(queue in `buoy`, TAG in `n`), 6 the answer to a beacon (watch number in `value`), 7 the end of a stream's blocked WAIT or TAKE. -/
structure BuoyReq where
  kind   : BitVec 3
  dev    : BitVec 6
  stream : BitVec 8
  cseq   : Word64
  buoy   : BitVec 16
  n      : BitVec 16
  eq     : Bool
  value  : Word
  tmo    : Word
  core   : BitVec 10
  cookie : Word64
  owner  : BitVec 6
deriving DecidableEq, Repr

/-- A circuit that another device sources and Keeper here has admitted (R385): its slots on every link, its slots at an endpoint port, whether a
core endpoint uses both ports, its destination device and port, and the links of its path. -/
structure FarCirc where
  slots  : BitVec 6
  xslots : BitVec 4
  xports : Bool
  ddev   : BitVec 6
  dport  : BitVec 7
  path   : List (BitVec 5)
deriving DecidableEq, Repr

/-- What Keeper has learnt from the other devices' Keepers by the end of a quiesce: logical numbers made ABSENT (R22), devices that have
announced their retirement (R383), the WIDTHs of other devices' links (device, link; 0 carries no packet; R376), circuits that other devices ask
to admit (source, number; R385), this device's circuits that another device rejects, with its cause, circuits of other devices whose slots are
free again, and snapshots, by binding and AT_STEP, that every other member device of the binding holds (R484). -/
structure QuiesceNews where
  gone    : List (BitVec 10)
  retired : List (BitVec 6)
  widths  : List (BitVec 6 × BitVec 5 × BitVec 2)
  asks    : List (BitVec 6 × BitVec 8 × FarCirc)
  rejects : List (BitVec 8 × BitVec 4)
  freed   : List (BitVec 6 × BitVec 8)
  snaps   : List (BitVec 6 × BitVec 48)
deriving DecidableEq, Repr

/-- What training found on a link (R364, R470, R471): whether the versions of its two ends agree, the peer, the lanes that the peer's fuses
mark bad, and of each soak in turn whether it saw an uncorrectable codeword and the bit errors of the four lanes. A link that fails to train
has no further soak. -/
structure LinkResult where
  version  : Bool
  peerDev  : BitVec 6
  peerLink : BitVec 5
  farBad   : BitVec 4
  soaks    : List (Bool × List Nat)
deriving DecidableEq, Repr

/-- What the cold or fast path finds, as the environment supplies it: the image's header, whether both signatures hold and the digests (R512,
R513), the memory and link tests (R468, R470), the system description with its CRC (R467): devices with their DEVID, cables as device, link,
REQUIRED or not, peer and peer link; and what the gate device reports of its image and description (R468). -/
structure BringupReport where
  bootSel    : BitVec 2
  header     : List Byte
  sigOk      : Bool
  desc       : List Byte
  descCrc    : Word
  hbmOk      : Bool
  badCores   : List Nat
  badSlices  : List Nat
  badRows    : List (Nat × Nat)
  links      : List LinkResult
  devs       : List (Word64 × BitVec 6)
  gate       : BitVec 6
  standby    : Option (BitVec 6)
  cores      : List Nat
  absent     : List Nat
  cables     : List (BitVec 6 × BitVec 5 × Bool × BitVec 6 × BitVec 5)
  gateFw     : List Word
  gateDesc   : List Byte
  ramp0      : BitVec 6
  pgtmo      : Byte
  fwHash     : List Word
  descHash   : List Byte
  edges      : List (Nat × Nat × Nat × Nat)
  micros     : Word
deriving DecidableEq, Repr

end Sys2Proof
end

