-- ==== Sys2Proof/Syntax.lean ====
section
/-! DEFINITION. Syntax.lean: the commands of the block, one constructor per row of spec/opcode_table.json, in the table's order.
A row that is a command of the command set (R273) carries its header and the operands of R274; a row that is a neuron
instruction carries the core whose lane group runs it and the fields of R70; a row that is an event carries what the event
brings from outside and names the unit it happens on. -/

namespace Sys2Proof

/-- The commands and events of a Joryon, as the block takes them from outside. -/
inductive Instr where
  -- the command set (R273, R274)
  | bind (h : Hdr) (kind : BitVec 4) (count : BitVec 19) (first : BitVec 18) (w1 w2 w3 : Word64)
  | unbind (h : Hdr) (kind : BitVec 4) (count : BitVec 19) (first : BitVec 18)
  | park (h : Hdr) (count : BitVec 19) (first : BitVec 18) (mref : Word64) (stride : Word)
  | unpark (h : Hdr) (count : BitVec 19) (first : BitVec 18) (res : BitVec 2) (stride : Word) (base : BitVec 48)
  | snapshot (h : Hdr) (atStep : BitVec 48) (mref : Word64) (limit : BitVec 38)
  | loadprog (h : Hdr) (core : BitVec 10) (slot : BitVec 6) (poff : BitVec 24) (mref : Word64)
  | loadmat (h : Hdr) (core : BitVec 10) (matrix : BitVec 8) (desc : List Word) (mref : Word64) (rowFirst rowCount : BitVec 17)
  | loadroute (h : Hdr) (core : BitVec 10) (slot : BitVec 6) (idxFirst : BitVec 17) (mref : Word64) (unitFirst units : BitVec 17)
  | loadrule (h : Hdr) (core : BitVec 10) (matrix : BitVec 8) (mref : Word64)
  | step (h : Hdr)
  | run (h : Hdr) (n : Word)
  | halt (h : Hdr)
  | epoch (h : Hdr) (group : BitVec 8) (len : BitVec 24) (base : BitVec 48)
  | apply (h : Hdr) (group : BitVec 8)
  | berth (h : Hdr) (core : BitVec 10) (matrix circuit : BitVec 8) (b : BitVec 1) (first last : BitVec 48) (base lines : BitVec 14)
  | copy (h : Hdr) (kind mask : BitVec 4) (count : BitVec 19) (first : BitVec 18) (src dst : Word64) (len : BitVec 38)
      (circuit : BitVec 8) (useCircuit : Bool)
  | signal (h : Hdr) (device : BitVec 6) (n buoy : BitVec 16)
  | wait (h : Hdr) (device : BitVec 6) (eq : Bool) (buoy : BitVec 16) (value tmo : Word)
  | watch (h : Hdr) (device : BitVec 6) (core : BitVec 10) (eq : Bool) (buoy : BitVec 16) (value tmo : Word) (cookie : Word64)
  | dec (h : Hdr) (device : BitVec 6) (n buoy : BitVec 16)
  | take (h : Hdr) (device : BitVec 6) (buoy : BitVec 16) (tmo : Word)
  | send (h : Hdr) (device : BitVec 6) (nm1 : BitVec 2) (tag : BitVec 16) (queue : BitVec 12) (msg : List Word64)
  | recv (h : Hdr) (queue : BitVec 12) (dst : Word64) (tmo : Word)
  | encode (h : Hdr) (cfirst : BitVec 18) (channel : BitVec 12) (src : Word64) (nrow : BitVec 16) (tstep : BitVec 20) (zin : BitVec 8)
  | decode (h : Hdr) (cfirst : BitVec 18) (channel : BitVec 12) (dst : Word64) (count : BitVec 19)
  | chancfg (h : Hdr) (channel : BitVec 12) (src : Word64)
  | fence (h : Hdr) (scope : BitVec 1)
  | timestamp (h : Hdr) (when' : BitVec 1) (dst : Word64)
  | hint (h : Hdr) (kind : BitVec 4) (watts : BitVec 12) (dur ahead : BitVec 16)
  | note (h : Hdr) (value : Word)
  | reservedOpcode (h : Hdr) (opcode : BitVec 8) (cut : Bool)
  | boundaryEffect (b : BitVec 6)
  -- neuron instructions (R70, R71): the core whose lane group executes them, then their fields
  | nop (core : BitVec 10)
  | movi (core : BitVec 10) (d : BitVec 4) (imm : BitVec 14)
  | ldf (core : BitVec 10) (d : BitVec 4) (sel : BitVec 8)
  | stf (core : BitVec 10) (a : BitVec 4) (sel : BitVec 8)
  | add (core : BitVec 10) (d a b : BitVec 4)
  | sub (core : BitVec 10) (d a b : BitVec 4)
  | mulq (core : BitVec 10) (d a b : BitVec 4) (k : BitVec 5)
  | mac (core : BitVec 10) (d a b : BitVec 4) (k : BitVec 5)
  | decay (core : BitVec 10) (d a : BitVec 4) (k1 k2 : BitVec 5)
  | min (core : BitVec 10) (d a b : BitVec 4)
  | max (core : BitVec 10) (d a b : BitVec 4)
  | clamp (core : BitVec 10) (d a b : BitVec 4)
  | cmpgt (core : BitVec 10) (d a b : BitVec 4)
  | cmpge (core : BitVec 10) (d a b : BitVec 4)
  | sel (core : BitVec 10) (d a b c : BitVec 4)
  | fire (core : BitVec 10) (d a b : BitVec 4)
  | rsub (core : BitVec 10) (d a b : BitVec 4)
  | rset (core : BitVec 10) (d a b : BitVec 4)
  | tbump (core : BitVec 10) (a : BitVec 4) (t : BitVec 2)
  | rand (core : BitVec 10) (d : BitVec 4) (k : BitVec 6)
  | endInstr (core : BitVec 10)
  -- steps, integration and emission
  | laneGroupStart (core : BitVec 10)
  | stepStart (core : BitVec 10)
  | lockedSlot (b : BitVec 6)
  | stepAdmit (b : BitVec 6)
  | windowSort (core : BitVec 10)
  | additionRun (core : BitVec 10)
  | rowRead (core : BitVec 10)
  | windowFlush (core : BitVec 10)
  | phase2Start (core : BitVec 10)
  | coreDone (core : BitVec 10)
  | routeExpansion (core : BitVec 10)
  | packetSend (dst : BitVec 10)
  | eventPacketAccept (src : BitVec 6) (pkt : Packet)
  | stagingJoin (core : BitVec 10)
  | acceptAckArrival (b : BitVec 6) (dst : BitVec 10)
  | stepBuoySignal (b : BitVec 6) (dev : BitVec 6) (step : BitVec 20) (gates : List (BitVec 8 × Bool)) (status : Byte)
  | stepEnd (b : BitVec 6)
  | stepEndReceipt (b : BitVec 6) (next : Option Word64) (gates : List (BitVec 8 × Bool))
      (epochs : List (BitVec 8 × BitVec 24 × BitVec 48))
  | learningPass (core : BitVec 10)
  | applyWindowOpen (b : BitVec 6) (granted : List (BitVec 8))
  | reductionChunkArrival (core : BitVec 10) (matrix : BitVec 8) (member : BitVec 10) (chunk : BitVec 18) (rows : List (Nat × List Byte))
  | chunkCommit (core : BitVec 10) (matrix : BitVec 8) (chunk : BitVec 18)
  | applyWindowClose (b : BitVec 6) (rows : List (BitVec 10 × BitVec 8 × Nat × Nat × List Byte))
      (others : List (BitVec 8 × Bool × Byte × BitVec 48))
  | delayVote (b : BitVec 6) (target : BitVec 10) (matrix group : BitVec 8) (votes : List (BitVec 2)) (remote : List Int)
      (due : BitVec 48)
  | reductionPartitioned (core : BitVec 10) (matrix : BitVec 8) (chunk : BitVec 18)
  | overlapRowCommit (core : BitVec 10) (matrix : BitVec 8) (rows : List (Nat × Nat × List Byte))
  | berthFillStart (core : BitVec 10) (b : BitVec 1)
  | berthReady (core : BitVec 10) (b : BitVec 1)
  -- converters
  | obsFrame (port : BitVec 1) (eth : EthHead) (device : BitVec 6) (recs : List ObsRec)
  | encodeInstance (channel : BitVec 12) (cidx : BitVec 18)
  | encodeWaitTimeout (channel : BitVec 12) (cidx : BitVec 18)
  | tapAccept (channel : BitVec 12) (cidx : BitVec 18) (neuron : BitVec 6) (n : BitVec 3)
  | decodeInstance (channel : BitVec 12) (cidx : BitVec 18)
  | actSnapshot (f : BitVec 8)
  | actFrameTransmit (f : BitVec 8)
  -- sync unit and queues
  | buoyOperation (o : BuoyReq) (answer : Option (Bool × Byte × Word))
  | signalMarkerArrival (stream : BitVec 8) (cseq : Word64)
  | waitTimeout (dev : BitVec 6) (stream : BitVec 8)
  | watchTimeout (w : BitVec 14)
  | beaconRetry (w : BitVec 14)
  | queueGrantArrival (dev : BitVec 6) (queue : BitVec 12) (b : BitVec 6) (wstream : BitVec 8) (gen : Word64) (rsize : BitVec 17) (answer : Option Bool)
  | queueMessageArrival (src : BitVec 6) (queue : BitVec 12) (gen : Word64) (offset : BitVec 17) (words : List Word64)
      (answer : Option (BitVec 6 × Bool))
  | creditReturnArrival (dev : BitVec 6) (queue : BitVec 12) (gen : Word64) (words : BitVec 17)
  | closeNoticeArrival (dev : BitVec 6) (queue : BitVec 12)
  | queueOpen (queue : BitVec 12)
  | queueClose (queue : BitVec 12)
  | inboxPop (core : BitVec 10)
  -- memories
  | sliceBankCycle (slice : BitVec 5) (bank : BitVec 2) (ce : Bool) (reqs : List SliceReq)
  | aliasWrite (slice : BitVec 5) (port : BitVec 7) (word : BitVec 20) (clear vault : Bool) (data : Word64)
  | vaultWipe
  | scrubRead (hbm : Bool) (unit : BitVec 6) (word : BitVec 35) (correctable uncorrectable : Bool)
  | hbmAccess (write : Bool) (addr : BitVec 38) (ce : Bool) (data : List Byte)
  | hbmRefreshDouble (stack : BitVec 2) (temp : BitVec 8)
  -- fabric
  | linkPacketReceive (l : BitVec 5) (lseq : BitVec 12) (hcrc : BitVec 16) (crc : Word) (pkt : FabPkt) (corrected uncorrectable : Nat)
  | linkAck (l : BitVec 5) (lseq : BitVec 12)
  | linkNak (l : BitVec 5) (lseq : BitVec 12)
  | linkCredit (l : BitVec 5) (vc cls : BitVec 2) (units : BitVec 10)
  | replayTimeout (l : BitVec 5)
  | linkFailure (dev : BitVec 6) (l : BitVec 5)
  | linkDownReceive (l : BitVec 5)
  | fecLockLoss (l : BitVec 5) (lane : BitVec 2)
  | e2ePacketReceive (pkt : FabPkt)
  | e2eackArrival (dev : BitVec 6) (vc : BitVec 2) (low : BitVec 16)
  | e2eackTimer (dev : BitVec 6) (vc : BitVec 2)
  | deviceLost (dev : BitVec 6) (cause : BitVec 2)
  | fabRetireReq
  | retireReady (confirmed : List (BitVec 6))
  | circuitArm (c : BitVec 8)
  | chunkackArrival (c : BitVec 8) (chunk : BitVec 18)
  | circuitChunkReceive (src : BitVec 6) (c : BitVec 8) (flow : Word64) (chunk : BitVec 18) (dst : Word64) (data : List Byte)
  | congestionSample (ports : List (List (Nat × Nat)))
  | congestionMap
  | quiesceRequest
  | quiesceAck (phys : BitVec 5)
  | quiesceRelease (news : QuiesceNews)
  | quiesceAckTimeout (phys : BitVec 5)
  -- Ethernet transport
  | transportFrameReceive (f : TFrame)
  | cmdFrame (stream : BitVec 8) (bytes : Nat) (words : List Word64)
  | ackFrame (space : BitVec 2) (device : BitVec 6) (stream : BitVec 8) (ack : Word) (missing : List Nat)
  | dataFrame (stream : BitVec 8) (expected : Bool) (tag offset : Word) (data : List Byte)
  | regrd (addrs : List Word)
  | regwr (writes : List (Word × Word))
  | transportRetxTimeout (space : BitVec 2) (device : BitVec 6) (stream : BitVec 8) (seq : Word)
  | completionFrameFlush (stream : BitVec 8)
  | ackSendTimer (space : BitVec 2) (device : BitVec 6) (stream : BitVec 8)
  | frameForward (f : TFrame)
  | restart (dev : BitVec 6)
  | gateTakeover
  | wakeFrame (port : BitVec 1) (mac : BitVec 48) (eth : EthHead) (pattern : List Word)
  | portModeWrite (port : BitVec 1) (mode : BitVec 4)
  -- power governor
  | governorWindow (counts : List (List Nat)) (unreachable : List Nat)
  | levelApply
  | pmbusRead (volts amps : List (Option Nat))
  | gainUpdate
  | pmbAlert (words : List (BitVec 16))
  | thermalCapUpdate
  | sensorSample (temps : List (BitVec 8)) (hbms : List (BitVec 8))
  | govx
  | thermtrip (sensor : BitVec 5)
  | overcapCheck
  | pgFall (n : BitVec 3)
  -- power states
  | psctrlRun
  | psctrlDoze
  | psctrlSleep (othersAsleep : Bool)
  | dozeAutoWake (kind : BitVec 2)
  | restore
  | pgTimeout (n : BitVec 3)
  | clockGate (phys : BitVec 5)
  | clockUngate (phys : BitVec 5)
  | brownOut
  | ethernetEnergyWake (port : BitVec 1)
  | listen (port : BitVec 1)
  | listenTimeout (port : BitVec 1)
  | fabricEnergyWake (l : BitVec 5)
  | fabricWakePattern (l : BitVec 5)
  | fwakeSend (mask : BitVec 18)
  | lanternTimerWake
  | wakeN
  | watchedSourceWake (k : BitVec 5)
  -- resets, bring-up and failures
  | powerOnReset
  | coldReset
  | warmReset (pgHigh : Bool)
  | coldBringup (r : BringupReport)
  | warmFastPath (r : BringupReport)
  | linkTraining (l : BitVec 5) (r : LinkResult)
  | coreFailure (phys : BitVec 5) (cause : BitVec 3) (far : Option (BitVec 6 × Byte))
  | sliceFailure (phys : BitVec 6) (cause : BitVec 3) (readable : Bool) (banks : BitVec 4) (far : Option (BitVec 6 × Byte))
  -- interrupts, timebase and timers
  | interruptRaise (source : BitVec 9)
  | interruptWithdraw (source : BitVec 9)
  | irqClaim (proc : BitVec 1) (source : BitVec 9)
  | irqDone (proc : BitVec 1) (source : BitVec 9)
  | tbStep (ns : Word)
  | holdover (port : BitVec 1)
  | syncReturn (src : BitVec 2) (rate : Word)
  | timerTick (n : BitVec 5)
  | timerWrap (n : BitVec 5)
  | timerMatch (n : BitVec 5) (k : BitVec 1)
  | timerImmediateWrite (n : BitVec 5) (which : BitVec 2) (value : Word)
  | tmrGstart (mask : Word)
  | tmrGstop (mask : Word)
  -- security
  | attest (nonce : List Byte) (smbus : Bool)
  | lifecycle (target : BitVec 8) (nonce : List Word) (devid : Word64) (ownerKey : List Byte) (smbus : Bool) (sig : List Byte)
  | debug (level : BitVec 8) (nonce : List Word) (devid : Word64) (smbus : Bool) (sig : List Byte)
  | sak (port dir : BitVec 1) (an : BitVec 2) (ssci : Word) (ki wrapped pubkey : List Byte) (nonce : List Word) (devid : Word64) (smbus : Bool) (sig : List Byte)
  | certs (smbus : Bool)
  | tamperN
  -- perturbation and configuration writes
  | ptbHoldRelease (kind : BitVec 2)
  | stepConfigWrite (b : BitVec 6) (which : BitVec 2) (value : Word)
  | actCfgWrite (f : BitVec 8) (lead : Bool) (value : Word)
  | loReadCapture (addr : Word)
  | readClear (addr : Word)
  | registerWrite (addr value : Word)
  | ethPortLinkDown (port : BitVec 1)
  | ethPortLinkUp (port : BitVec 1) (mode : BitVec 4)
  | timeSyncMessage (src : BitVec 2) (offsetNs : Word64) (rate : Word)
  | gclCycleStart (port : BitVec 1)
  | nonTransportFrame (port : BitVec 1) (eth : EthHead) (as : Bool)
  | startBroadcastReceipt (b : BitVec 6) (slot : Word64) (epochs : List (BitVec 8 × BitVec 24 × BitVec 48))
  | joinAcknowledgement (b dev : BitVec 6) (mask : Word64) (ok : Bool)
  | recvTimeout (stream : BitVec 8)
  | linkAckSend (l : BitVec 5)
  | ptbHbmrefBurst
  | pgRise (n : BitVec 3)
  | vddLtnRemoval
  | referenceClockLoss (clock : BitVec 2)
  | linkDisable (l : BitVec 5) (disable : Bool)
  | timerEnable (n : BitVec 5) (en : Bool)
deriving DecidableEq, Repr

end Sys2Proof
end

