-- ==== Sys2Proof/Decode.lean ====
section
/-! DEFINITION. Decode.lean: the command a word of the table's bits spells, and the neuron instruction that a program word spells. No row
of spec/opcode_table.json gives bits, so no word spells a command (log entry 5). -/

namespace Sys2Proof

/-- The command that `nbits` bits `w` spell by the table: none, for no row gives bits. -/
def decodeTableWord (_nbits _w : Nat) : Option Instr := none

/-- The instruction, where the fields of its word that it does not use are 0 (R70). -/
def onlyIf (unused : Bool) (i : Instr) : Option Instr := if unused then some i else none

/-- The neuron instruction that a 32-bit word spells on the lane group of a core (R70, R71): OP in [31:26], D in [25:22], A in [21:18], B in
[17:14], IMM in [13:0]. A reserved OP spells none, nor does a word with a field that is not 0 and that its instruction does not use. -/
def decodeInsn (core : BitVec 10) (w : Word) : Option Instr :=
  let op := w.toNat / 2 ^ 26
  let d := w.extractLsb' 22 4
  let a := w.extractLsb' 18 4
  let b := w.extractLsb' 14 4
  let imm := w.extractLsb' 0 14
  let bits := fun (first n : Nat) => w.extractLsb' first n
  match op with
  | 0x00 => onlyIf (d = 0 && a = 0 && b = 0 && imm = 0) (.nop core)
  | 0x01 => onlyIf (a = 0 && b = 0) (.movi core d imm)
  | 0x02 => onlyIf (a = 0 && b = 0 && bits 8 6 = 0) (.ldf core d (bits 0 8))
  | 0x03 => onlyIf (d = 0 && b = 0 && bits 8 6 = 0) (.stf core a (bits 0 8))
  | 0x04 => onlyIf (imm = 0) (.add core d a b)
  | 0x05 => onlyIf (imm = 0) (.sub core d a b)
  | 0x06 => onlyIf (bits 5 9 = 0) (.mulq core d a b (bits 0 5))
  | 0x07 => onlyIf (bits 5 9 = 0) (.mac core d a b (bits 0 5))
  | 0x08 => onlyIf (b = 0 && bits 10 4 = 0) (.decay core d a (bits 0 5) (bits 5 5))
  | 0x09 => onlyIf (imm = 0) (.min core d a b)
  | 0x0A => onlyIf (imm = 0) (.max core d a b)
  | 0x0B => onlyIf (imm = 0) (.clamp core d a b)
  | 0x0C => onlyIf (imm = 0) (.cmpgt core d a b)
  | 0x0D => onlyIf (imm = 0) (.cmpge core d a b)
  | 0x0E => onlyIf (bits 4 10 = 0) (.sel core d a b (bits 0 4))
  | 0x10 => onlyIf (imm = 0) (.fire core d a b)
  | 0x11 => onlyIf (imm = 0) (.rsub core d a b)
  | 0x12 => onlyIf (imm = 0) (.rset core d a b)
  | 0x13 => onlyIf (d = 0 && b = 0 && bits 2 12 = 0) (.tbump core a (bits 0 2))
  | 0x14 => onlyIf (a = 0 && b = 0 && bits 6 8 = 0) (.rand core d (bits 0 6))
  | 0x3F => onlyIf (d = 0 && a = 0 && b = 0 && imm = 0) (.endInstr core)
  | _ => none

end Sys2Proof
end

