-- ==== Sys2Proof/Config.lean ====
section
/-! DEFINITION. Config.lean: what one implementation fixes and the values the spec leaves open. Each is a constant without a
body: nothing in Lean can evaluate it, so a statement holds for every value it might have (log entry 9). -/

namespace Sys2Proof

/-- The n-th word the device draws from its random source: the DRBG (R522) and every value the spec leaves open. -/
opaque Config.freeWord : Nat → Word
/-- The SHA-384 digest of a byte string, 48 bytes (R513, R517). The spec gives the name of the function, not its text. -/
opaque Config.digest : List Byte → List Byte
/-- Whether a signature over a message verifies under the key of a digest (R511, R518, R524, R528): key digest, message, signature. -/
opaque Config.verifies : List Byte → List Byte → List Byte → Bool
/-- The digest of the manufacturing key in the boot ROM (R511). -/
opaque Config.mfgKey : List Byte
/-- The device's signature over a message (R518). -/
opaque Config.sign : List Byte → List Byte
/-- The certificate chain (R519). -/
opaque Config.certChain : Nat → List Byte
/-- The device's ephemeral public key for a draw, and the key it agrees on with a peer's (R521, R526). -/
opaque Config.agree : Nat → List Byte → List Byte
/-- A key derived from a shared secret, a salt and an info string (R522). -/
opaque Config.derive : List Byte → List Byte → List Byte → List Byte
/-- The digest of the boot ROM (R520). -/
opaque Config.romDigest : List Byte
/-- A wrapped key opened under an agreed key; none where its integrity check fails (R526). -/
opaque Config.unwrap : List Byte → List Byte → Option (List Byte)
/-- A coefficient of the governor's energy estimate, from the part's fuses (R426). -/
opaque Config.coef : Nat → Nat
/-- The bytes of an image that the spec leaves to the device (R280, R281): byte n of image part k. -/
opaque Config.imageByte : Nat → Nat → Byte
/-- Bytes a snapshot image of binding `b`, with so many contexts and so many held and queued events, holds beside descriptors, states,
rules and instances (R281): the layout belongs to the device (R280; log entry 12). -/
opaque Config.imageExtra (b contexts events : Nat) : BitVec 24

/-- The binding that a system core of another device is bound to, if any, at a time (R205, R210, R234): this device's state does not hold
it (log entry 63). -/
opaque Config.peerOwner (core time : Nat) : Option (BitVec 6)
/-- Records per step that route entries and encoders on the other devices of binding `b` can bring to this one (R214), at a time: this
device's state does not hold them (log entry 66). -/
opaque Config.peerRecords (b time : Nat) : Nat
/-- Whether the spill areas of the other devices of binding `b` have room for its reservations there (R214), at a time (log entry 66). -/
opaque Config.peerRoom (b time : Nat) : Bool
/-- A member of a reduction on another device (R178): its device and system core, its number, the first segment and the columns of its
tile, the segments it owns, the shards it holds and whether it is the home of the timing accumulators. -/
structure PeerMember where
  dev      : BitVec 6
  core     : BitVec 10
  gindex   : Nat
  segBase  : Nat
  ncol     : Nat
  ownFirst : Nat
  ownCount : Nat
  nsh      : Nat
  home     : Bool
deriving DecidableEq, Repr

/-- The members on other devices of the reduction of matrix `m` and GROUP `g` in binding `b`, at a time: their rules are not in this
device's state (log entry 67). -/
opaque Config.peerMembers (b m g time : Nat) : List PeerMember
/-- The physical core that stands for a system core of another device, at a time (R558; log entry 67). -/
opaque Config.peerPhys (dev core time : Nat) : Nat
/-- What the other devices of binding `b` answer of a GROUP at a time (R286, R287): bit 0 that a rule there has it, bit 1 that no context
there lies inside an epoch that has not been applied, bit 2 that the new values hold there, bit 3 that a rule there has AUTO 0 or is in
PART, bit 4 that the rules there have OVERLAP (log entry 67). -/
opaque Config.peerGroup (b g time : Nat) : BitVec 5
/-- Whether the four words of a port's 802.1CB table enable replication (R398, R416, R422): their coding is the standard's (log entry
72). Words of 0 enable nothing. -/
opaque Config.cbReplicates : List Word → Bool
/-- Whether they enable sequence recovery (R398, R415), and the ns after which an idle recovery takes any number (log entry 72). -/
opaque Config.cbRecovers : List Word → Bool
opaque Config.cbReset : List Word → Nat
/-- Whether the stream filters, gates and meters of a port's 802.1Qci tables (R398, R422) pass a frame at an instant (log entry 72). Words of 0
filter nothing. -/
opaque Config.qciPasses : List Word → EthHead → Nat → Bool
/-- Whether a word of the tables of R422, by its offset in its set, is a reserved value: the standards say so (log entry 72). Words of 0 are none. -/
opaque Config.tableReserved : Nat → Word → Bool
/-- Word `i` of the state of an SA, by its number and SSCI, in the 802.1AE table (R422; log entry 72). -/
opaque Config.saWord : BitVec 2 → Word → Nat → Word
/-- Where in the image of a snapshot of binding `b` its matrix rows lie (R137, R281): the layout belongs to the device. -/
opaque Config.imageRows (b size : Nat) : Nat

end Sys2Proof
end

