-- ==== Sys2Proof/Machine/RegTable.lean ====
section
/-! DEFINITION. Machine/RegTable.lean: the management address map (R13) and every register of the chapters' tables: address,
reset value and the access of its bits (R17). Bits no field covers are reserved. -/

namespace Sys2Proof.Machine

/-- One register row, or an indexed family of rows: its first address (within its instance for CORE and SLC), stride and
count, reset value, implemented bits, rw bits, w1c bits, wo and sc bits, whether it is rc, whether only Keeper writes it, and
whether a read captures the live high part into the next word (R50). -/
structure RegRow where
  addr   : Nat
  stride : Nat
  count  : Nat
  reset  : Word
  impl   : Word
  rw     : Word
  w1c    : Word
  act    : Word
  rc     : Bool
  keeper : Bool
  cap    : Bool
deriving DecidableEq, Repr

/-- The IDT rows. -/
def rowsIDT : List RegRow := [
  ⟨0x0, 0x0, 1, 0x0, 0xFFFFFFFF, 0x0, 0x0, 0x0, false, false, false⟩, -- IDT_PART
  ⟨0x10, 0x0, 1, 0x0, 0xFFFFFFFF, 0x0, 0x0, 0x0, false, false, false⟩, -- IDT_SZ_CORES
  ⟨0x14, 0x0, 1, 0x0, 0xFFFFFFFF, 0x0, 0x0, 0x0, false, false, false⟩, -- IDT_SZ_SPARES
  ⟨0x18, 0x0, 1, 0x1000, 0xFFFFFFFF, 0x0, 0x0, 0x0, false, false, false⟩, -- IDT_SZ_SYN_LANES
  ⟨0x1C, 0x0, 1, 0x200, 0xFFFFFFFF, 0x0, 0x0, 0x0, false, false, false⟩, -- IDT_SZ_NRN_LANES
  ⟨0x20, 0x0, 1, 0xC000, 0xFFFFFFFF, 0x0, 0x0, 0x0, false, false, false⟩, -- IDT_SZ_SYN_KIB
  ⟨0x24, 0x0, 1, 0x3000, 0xFFFFFFFF, 0x0, 0x0, 0x0, false, false, false⟩, -- IDT_SZ_STATE_KIB
  ⟨0x28, 0x0, 1, 0x2000, 0xFFFFFFFF, 0x0, 0x0, 0x0, false, false, false⟩, -- IDT_SZ_DELTA_KIB
  ⟨0x2C, 0x0, 1, 0xC00, 0xFFFFFFFF, 0x0, 0x0, 0x0, false, false, false⟩, -- IDT_SZ_INBOX_KIB
  ⟨0x30, 0x0, 1, 0x400, 0xFFFFFFFF, 0x0, 0x0, 0x0, false, false, false⟩, -- IDT_SZ_PROG_KIB
  ⟨0x34, 0x0, 1, 0x100, 0xFFFFFFFF, 0x0, 0x0, 0x0, false, false, false⟩, -- IDT_SZ_MATRICES
  ⟨0x38, 0x0, 1, 0x10000, 0xFFFFFFFF, 0x0, 0x0, 0x0, false, false, false⟩, -- IDT_SZ_ROWS
  ⟨0x3C, 0x0, 1, 0x2000, 0xFFFFFFFF, 0x0, 0x0, 0x0, false, false, false⟩, -- IDT_SZ_COLS
  ⟨0x40, 0x0, 1, 0x40000, 0xFFFFFFFF, 0x0, 0x0, 0x0, false, false, false⟩, -- IDT_SZ_CONTEXTS
  ⟨0x44, 0x0, 1, 0x20, 0xFFFFFFFF, 0x0, 0x0, 0x0, false, false, false⟩, -- IDT_SZ_SLICES
  ⟨0x48, 0x0, 1, 0x2000, 0xFFFFFFFF, 0x0, 0x0, 0x0, false, false, false⟩, -- IDT_SZ_SLICE_KIB
  ⟨0x4C, 0x0, 1, 0x24000, 0xFFFFFFFF, 0x0, 0x0, 0x0, false, false, false⟩, -- IDT_SZ_MAIN_MIB
  ⟨0x50, 0x0, 1, 0x12, 0xFFFFFFFF, 0x0, 0x0, 0x0, false, false, false⟩, -- IDT_SZ_LINKS
  ⟨0x54, 0x0, 1, 0x1000, 0xFFFFFFFF, 0x0, 0x0, 0x0, false, false, false⟩, -- IDT_SZ_CNV_CH
  ⟨0x58, 0x0, 1, 0x10000, 0xFFFFFFFF, 0x0, 0x0, 0x0, false, false, false⟩, -- IDT_SZ_BUOYS
  ⟨0x5C, 0x0, 1, 0x1000, 0xFFFFFFFF, 0x0, 0x0, 0x0, false, false, false⟩, -- IDT_SZ_QUEUES
  ⟨0x60, 0x0, 1, 0x100, 0xFFFFFFFF, 0x0, 0x0, 0x0, false, false, false⟩, -- IDT_SZ_STREAMS
  ⟨0x64, 0x0, 1, 0x40, 0xFFFFFFFF, 0x0, 0x0, 0x0, false, false, false⟩, -- IDT_SZ_BINDINGS
  ⟨0x68, 0x0, 1, 0x0, 0xFFFFFFFF, 0x0, 0x0, 0x0, false, false, false⟩] -- IDT_SZ_TDP_W

/-- The CMD rows. -/
def rowsCMD : List RegRow := [
  ⟨0x10400, 0x10, 64, 0x0, 0xF03F001F, 0x0, 0x0, 0x0, false, false, false⟩, -- CMD_BND_STATE
  ⟨0x10404, 0x10, 64, 0x0, 0xFFFFFFFF, 0x0, 0x0, 0x0, false, false, true⟩, -- CMD_BND_MASK_LO
  ⟨0x10408, 0x10, 64, 0x0, 0xFFFFFFFF, 0x0, 0x0, 0x0, false, false, false⟩, -- CMD_BND_MASK_HI
  ⟨0x1040C, 0x10, 64, 0x0, 0xFFFFFFFF, 0x0, 0x0, 0x0, false, false, false⟩, -- CMD_BND_IMGSZ
  ⟨0x11000, 0x40, 64, 0x400, 0x1FF03, 0xFF03, 0x0, 0x0, false, false, false⟩, -- CMD_STEP_CTRL
  ⟨0x11004, 0x40, 64, 0x124F8, 0xFFFFFFFF, 0xFFFFFFFF, 0x0, 0x0, false, false, false⟩, -- CMD_STEP_LEN
  ⟨0x11008, 0x40, 64, 0xF4240, 0xFFFFFFFF, 0xFFFFFFFF, 0x0, 0x0, false, false, false⟩, -- CMD_STEP_LOCK_PERIOD
  ⟨0x1100C, 0x40, 64, 0x0, 0xFFFFFFFF, 0xFFFFFFFF, 0x0, 0x0, false, false, false⟩, -- CMD_STEP_LOCK_PHASE
  ⟨0x11010, 0x40, 64, 0x0, 0xFFFFFFFF, 0x0, 0x0, 0x0, false, false, true⟩, -- CMD_STEP_NUM_LO
  ⟨0x11014, 0x40, 64, 0x0, 0xFFFF, 0x0, 0x0, 0x0, false, false, false⟩, -- CMD_STEP_NUM_HI
  ⟨0x11018, 0x40, 64, 0x0, 0xFFFFFFFF, 0x0, 0x0, 0x0, true, false, false⟩, -- CMD_STEP_STRETCH
  ⟨0x1101C, 0x40, 64, 0x0, 0xFFFFFFFF, 0x0, 0x0, 0x0, true, false, false⟩, -- CMD_STEP_STRETCH_MAX
  ⟨0x11020, 0x40, 64, 0x0, 0xFFFFFFFF, 0x0, 0x0, 0x0, false, false, false⟩, -- CMD_STEP_OVERRUN
  ⟨0x11024, 0x40, 64, 0x0, 0xF, 0x0, 0x7, 0x0, false, false, false⟩, -- CMD_STEP_STATUS
  ⟨0x11028, 0x40, 64, 0x0, 0xFFFFFFFF, 0x0, 0x0, 0x0, true, false, false⟩, -- CMD_STEP_PARKDROP
  ⟨0x12000, 0x20, 256, 0x0, 0xFFFFFF0F, 0x0, 0x0, 0x0, false, false, false⟩, -- CMD_CS_STATUS
  ⟨0x12004, 0x20, 256, 0x0, 0xFFFFFFFF, 0x0, 0x0, 0x0, false, false, true⟩, -- CMD_CS_CSEQ_LO
  ⟨0x12008, 0x20, 256, 0x0, 0xFFFFFFFF, 0x0, 0x0, 0x0, false, false, false⟩, -- CMD_CS_CSEQ_HI
  ⟨0x1200C, 0x20, 256, 0x0, 0xFFFFFFFF, 0x0, 0x0, 0x0, false, false, true⟩, -- CMD_CS_CPL_LO
  ⟨0x12010, 0x20, 256, 0x0, 0xFFFFFFFF, 0x0, 0x0, 0x0, false, false, false⟩, -- CMD_CS_CPL_HI
  ⟨0x12014, 0x20, 256, 0x0, 0xFFFF0000, 0x0, 0x0, 0x0, false, false, false⟩, -- CMD_CS_FRZ
  ⟨0x12018, 0x20, 256, 0x0, 0x7F, 0x0, 0x0, 0x0, false, false, false⟩] -- CMD_CS_OUTST

/-- The CORE rows. -/
def rowsCORE : List RegRow := [
  ⟨0x4000, 0x20, 64, 0x0, 0xFFFFFFFF, 0x0, 0x0, 0x0, false, false, true⟩, -- CORE_NRN_EXC_LO
  ⟨0x4004, 0x20, 64, 0x0, 0xFFFF, 0x0, 0x0, 0x0, false, false, false⟩, -- CORE_NRN_EXC_HI
  ⟨0x4008, 0x20, 64, 0x0, 0xFFFFFFFF, 0x0, 0x0, 0x0, false, false, true⟩, -- CORE_NRN_SPK_LO
  ⟨0x400C, 0x20, 64, 0x0, 0xFFFF, 0x0, 0x0, 0x0, false, false, false⟩, -- CORE_NRN_SPK_HI
  ⟨0x4010, 0x20, 64, 0x0, 0xF, 0x0, 0xF, 0x0, false, false, false⟩, -- CORE_NRN_FLAGS
  ⟨0x4014, 0x20, 64, 0x0, 0xBFFF07FF, 0x0, 0x0, 0x0, false, false, false⟩, -- CORE_NRN_INFO
  ⟨0x5000, 0x0, 1, 0x0, 0x1F, 0x0, 0x1E, 0x0, false, false, false⟩, -- CORE_SYN_STATUS
  ⟨0x5008, 0x0, 1, 0x0, 0xFFFFFFFF, 0x0, 0x0, 0x0, false, false, true⟩, -- CORE_SYN_READS_LO
  ⟨0x500C, 0x0, 1, 0x0, 0xFFFF, 0x0, 0x0, 0x0, false, false, false⟩, -- CORE_SYN_READS_HI
  ⟨0x5010, 0x0, 1, 0x0, 0xFFFFFFFF, 0x0, 0x0, 0x0, false, false, true⟩, -- CORE_SYN_HITS_LO
  ⟨0x5014, 0x0, 1, 0x0, 0xFFFF, 0x0, 0x0, 0x0, false, false, false⟩, -- CORE_SYN_HITS_HI
  ⟨0x5018, 0x0, 1, 0x0, 0xFFFFFFFF, 0x0, 0x0, 0x0, false, false, true⟩, -- CORE_SYN_ADDS_LO
  ⟨0x501C, 0x0, 1, 0x0, 0xFFFF, 0x0, 0x0, 0x0, false, false, false⟩, -- CORE_SYN_ADDS_HI
  ⟨0x5020, 0x0, 1, 0x0, 0xFFFFFFFF, 0x0, 0x0, 0x0, true, false, false⟩, -- CORE_SYN_DROP
  ⟨0x5024, 0x0, 1, 0x0, 0xC0FFFFFF, 0x0, 0x0, 0x0, false, false, false⟩, -- CORE_SYN_DROPINFO
  ⟨0x5028, 0x0, 1, 0x0, 0xFFFFFFFF, 0x0, 0x0, 0x0, true, false, false⟩, -- CORE_SYN_BERTHWAIT
  ⟨0x5100, 0x10, 2, 0x0, 0x3FFF3FFF, 0x0, 0x0, 0x0, false, false, false⟩, -- CORE_SYN_BERTH_CFG
  ⟨0x5104, 0x10, 2, 0x0, 0x3FF, 0x0, 0x0, 0x0, false, false, false⟩, -- CORE_SYN_BERTH_STATE
  ⟨0x5108, 0x10, 2, 0x0, 0xFFFFFFFF, 0x0, 0x0, 0x0, false, false, false⟩, -- CORE_SYN_BERTH_FIRST
  ⟨0x510C, 0x10, 2, 0x0, 0xFFFFFFFF, 0x0, 0x0, 0x0, false, false, false⟩, -- CORE_SYN_BERTH_LAST
  ⟨0x5400, 0x4, 256, 0x0, 0xFFFE0F1F, 0x0, 0x1F, 0x0, false, false, false⟩, -- CORE_SYN_MSTAT
  ⟨0x6000, 0x0, 1, 0x0, 0x1F, 0x0, 0x1E, 0x0, false, false, false⟩, -- CORE_CVT_STATUS
  ⟨0x6008, 0x0, 1, 0x0, 0xFFFFFFFF, 0x0, 0x0, 0x0, false, false, true⟩, -- CORE_CVT_SATN_LO
  ⟨0x600C, 0x0, 1, 0x0, 0xFFFF, 0x0, 0x0, 0x0, false, false, false⟩, -- CORE_CVT_SATN_HI
  ⟨0x6010, 0x0, 1, 0x0, 0xFFFFFFFF, 0x0, 0x0, 0x0, false, false, true⟩, -- CORE_CVT_UNDER_LO
  ⟨0x6014, 0x0, 1, 0x0, 0xFFFF, 0x0, 0x0, 0x0, false, false, false⟩, -- CORE_CVT_UNDER_HI
  ⟨0x6018, 0x0, 1, 0x0, 0xFFFFFFFF, 0x0, 0x0, 0x0, false, false, true⟩, -- CORE_CVT_RESC_LO
  ⟨0x601C, 0x0, 1, 0x0, 0xFFFF, 0x0, 0x0, 0x0, false, false, false⟩, -- CORE_CVT_RESC_HI
  ⟨0x6020, 0x0, 1, 0x0, 0xFFFFFFFF, 0x0, 0x0, 0x0, true, false, false⟩, -- CORE_CVT_BADS
  ⟨0x7000, 0x0, 1, 0x0, 0x7F, 0x0, 0x78, 0x0, false, false, false⟩, -- CORE_LRN_STATUS
  ⟨0x7004, 0x0, 1, 0x0, 0xFFFFFFFF, 0x0, 0x0, 0x0, true, false, false⟩, -- CORE_LRN_WAIT
  ⟨0x7008, 0x0, 1, 0x0, 0xFFFFFFFF, 0x0, 0x0, 0x0, false, false, true⟩, -- CORE_LRN_OPS_LO
  ⟨0x700C, 0x0, 1, 0x0, 0xFFFF, 0x0, 0x0, 0x0, false, false, false⟩, -- CORE_LRN_OPS_HI
  ⟨0x7010, 0x0, 1, 0x0, 0xFFFFFFFF, 0x0, 0x0, 0x0, false, false, true⟩, -- CORE_LRN_OLD_LO
  ⟨0x7014, 0x0, 1, 0x0, 0xFFFF, 0x0, 0x0, 0x0, false, false, false⟩, -- CORE_LRN_OLD_HI
  ⟨0x7018, 0x0, 1, 0x0, 0xFFFFFFFF, 0x0, 0x0, 0x0, true, false, false⟩, -- CORE_LRN_NORMCOL
  ⟨0x701C, 0x0, 1, 0x0, 0xFFFFFFFF, 0x0, 0x0, 0x0, true, false, false⟩, -- CORE_LRN_DLYCH
  ⟨0x7020, 0x0, 1, 0x0, 0xFFFFFFFF, 0x0, 0x0, 0x0, true, false, false⟩, -- CORE_LRN_APPLYMAX
  ⟨0x7400, 0x4, 256, 0x0, 0xF800003F, 0x0, 0x3F, 0x0, false, false, false⟩, -- CORE_LRN_RSTAT
  ⟨0x7800, 0x4, 256, 0x0, 0xFFFFFFFF, 0x0, 0x0, 0x0, false, false, false⟩, -- CORE_LRN_REPOCH
  ⟨0x8000, 0x0, 1, 0x0, 0x3F, 0x0, 0x3E, 0x0, false, false, false⟩, -- CORE_RTE_STATUS
  ⟨0x8008, 0x0, 1, 0x0, 0xFFFFFFFF, 0x0, 0x0, 0x0, false, false, true⟩, -- CORE_RTE_ENT_LO
  ⟨0x800C, 0x0, 1, 0x0, 0xFFFF, 0x0, 0x0, 0x0, false, false, false⟩, -- CORE_RTE_ENT_HI
  ⟨0x8010, 0x0, 1, 0x0, 0xFFFFFFFF, 0x0, 0x0, 0x0, true, false, false⟩, -- CORE_RTE_STALL
  ⟨0x8014, 0x0, 1, 0x0, 0xFFFFFFFF, 0x0, 0x0, 0x0, true, false, false⟩, -- CORE_RTE_ABSENT
  ⟨0x8018, 0x0, 1, 0x0, 0x3FFFF, 0x0, 0x0, 0x0, false, false, false⟩, -- CORE_RTE_ABSINFO
  ⟨0x801C, 0x0, 1, 0x0, 0xFFFFFFFF, 0x0, 0x0, 0x0, true, false, false⟩, -- CORE_RTE_VIOL
  ⟨0x8020, 0x0, 1, 0x0, 0xFFFFFFFF, 0x0, 0x0, 0x0, true, false, false⟩, -- CORE_INB_PEAK
  ⟨0x8024, 0x0, 1, 0x0, 0xFFFFFFFF, 0x0, 0x0, 0x0, true, false, false⟩, -- CORE_INB_SPILL
  ⟨0x8028, 0x0, 1, 0x0, 0xFFFFFFFF, 0x0, 0x0, 0x0, true, false, false⟩, -- CORE_INB_BADREC
  ⟨0x802C, 0x0, 1, 0x0, 0xFFFFFFFF, 0x0, 0x0, 0x0, false, false, false⟩, -- CORE_INB_DRAIN
  ⟨0x9000, 0x0, 1, 0x0, 0xC0001FFF, 0x80000000, 0x0, 0x0, false, false, false⟩, -- CORE_IBX_STATUS
  ⟨0x9004, 0x4, 4, 0x0, 0xFFFFFFFF, 0x0, 0x0, 0x0, false, false, false⟩, -- CORE_IBX_HEAD
  ⟨0x9014, 0x0, 1, 0x0, 0x1, 0x0, 0x0, 0x1, false, false, false⟩, -- CORE_IBX_POP
  ⟨0x9018, 0x0, 1, 0x0, 0xFFFFFFFF, 0x0, 0x0, 0x0, true, false, false⟩] -- CORE_IBX_LOST

/-- The SLC rows. -/
def rowsSLC : List RegRow := [
  ⟨0x0, 0x0, 1, 0x100, 0xBF0F0103, 0x3, 0x0, 0x0, false, false, false⟩, -- SLC_CFG
  ⟨0x4, 0x0, 1, 0x0, 0xF, 0x0, 0xF, 0x0, false, false, false⟩, -- SLC_STATUS
  ⟨0x8, 0x0, 1, 0x0, 0xFFFFFFFF, 0x0, 0x0, 0x0, true, false, false⟩, -- SLC_ECC_CE
  ⟨0xC, 0x0, 1, 0x0, 0xFFFFFFFF, 0x0, 0x0, 0x0, true, false, false⟩, -- SLC_ECC_UE
  ⟨0x10, 0x0, 1, 0x0, 0x807FFFF8, 0x0, 0x0, 0x0, false, false, false⟩, -- SLC_ECC_ADDR
  ⟨0x14, 0x0, 1, 0x0, 0xFFFFFFFF, 0x0, 0x0, 0x0, true, false, false⟩, -- SLC_CONFL
  ⟨0x18, 0x0, 1, 0x0, 0xFFFFFFFF, 0x0, 0x0, 0x0, true, false, false⟩] -- SLC_WLOST

/-- The XBR rows. -/
def rowsXBR : List RegRow := [
  ⟨0x400000, 0x0, 1, 0x11, 0xFF, 0xFF, 0x0, 0x0, false, false, false⟩, -- XBR_ARB
  ⟨0x400004, 0x0, 1, 0xE1003E8, 0xFFFFFFFF, 0xFFFFFFFF, 0x0, 0x0, false, false, false⟩, -- XBR_SCRUB
  ⟨0x400100, 0x4, 114, 0x0, 0xFFFFFFFF, 0x0, 0x0, 0x0, true, false, false⟩, -- XBR_PORT_WAIT
  ⟨0x400300, 0x4, 114, 0x0, 0xF0F, 0x0, 0x0, 0x0, false, false, false⟩] -- XBR_PORT_RSV

/-- The HBM rows. -/
def rowsHBM : List RegRow := [
  ⟨0x500000, 0x100, 4, 0x0, 0xFFE00007, 0x0, 0x7, 0x0, false, false, false⟩, -- HBM_STAT
  ⟨0x500004, 0x100, 4, 0x0, 0xFFFFFFFF, 0x0, 0x0, 0x0, true, false, false⟩, -- HBM_ECC_CE
  ⟨0x500008, 0x100, 4, 0x0, 0xFFFFFFFF, 0x0, 0x0, 0x0, true, false, false⟩, -- HBM_ECC_UE
  ⟨0x50000C, 0x100, 4, 0x0, 0xFFFFFFF8, 0x0, 0x0, 0x0, false, false, true⟩, -- HBM_ECC_ADDR_LO
  ⟨0x500010, 0x100, 4, 0x0, 0x8000003F, 0x0, 0x0, 0x0, false, false, false⟩, -- HBM_ECC_ADDR_HI
  ⟨0x500014, 0x100, 4, 0x0, 0xFFFFFFFF, 0x0, 0x0, 0x0, false, false, true⟩, -- HBM_GR_LO
  ⟨0x500018, 0x100, 4, 0x0, 0xFFFF, 0x0, 0x0, 0x0, false, false, false⟩] -- HBM_GR_HI

/-- The FAB rows. -/
def rowsFAB : List RegRow := [
  ⟨0x600000, 0x100, 18, 0x0, 0xEC3F1F81, 0x0, 0x1, 0x0, false, false, false⟩, -- FAB_LNK_STAT
  ⟨0x600004, 0x100, 18, 0x0, 0x1, 0x1, 0x0, 0x0, false, false, false⟩, -- FAB_LNK_CTRL
  ⟨0x600008, 0x100, 18, 0x0, 0xFFFFFFFF, 0x0, 0x0, 0x0, true, false, false⟩, -- FAB_LNK_FEC_CORR
  ⟨0x60000C, 0x100, 18, 0x0, 0xFFFFFFFF, 0x0, 0x0, 0x0, true, false, false⟩, -- FAB_LNK_FEC_UNC
  ⟨0x600010, 0x100, 18, 0x0, 0xFFFFFFFF, 0x0, 0x0, 0x0, true, false, false⟩, -- FAB_LNK_NAK
  ⟨0x600014, 0x100, 18, 0x0, 0xFFFFFFFF, 0x0, 0x0, 0x0, true, false, false⟩, -- FAB_LNK_REPLAY
  ⟨0x600018, 0x100, 18, 0x0, 0xFFFFFFFF, 0x0, 0x0, 0x0, true, false, false⟩, -- FAB_LNK_FAILS
  ⟨0x601800, 0x0, 1, 0x0, 0x7, 0x0, 0x7, 0x0, false, false, false⟩, -- FAB_STATUS
  ⟨0x601804, 0x0, 1, 0x11, 0xFF, 0xFF, 0x0, 0x0, false, false, false⟩, -- FAB_ARB
  ⟨0x601808, 0x0, 1, 0x0, 0x7FFFFF, 0x0, 0x0, 0x0, false, false, false⟩, -- FAB_RET_USED
  ⟨0x60180C, 0x0, 1, 0x0, 0xFFFFFFFF, 0x0, 0x0, 0x0, true, false, false⟩, -- FAB_RET_WAIT
  ⟨0x601810, 0x0, 1, 0x0, 0xFFFFFFFF, 0x0, 0x0, 0x0, true, false, false⟩, -- FAB_E2E_DUP
  ⟨0x601814, 0x0, 1, 0x0, 0xFFFFFFFF, 0x0, 0x0, 0x0, true, false, false⟩, -- FAB_E2E_LOST
  ⟨0x601818, 0x0, 1, 0x0, 0xFFFFFFFF, 0x0, 0x0, 0x0, true, false, false⟩, -- FAB_BADPKT
  ⟨0x60181C, 0x0, 1, 0x0, 0x3, 0x0, 0x0, 0x1, false, false, false⟩, -- FAB_RETIRE
  ⟨0x602000, 0x20, 256, 0x0, 0xFF3F0F07, 0x403F0F07, 0x0, 0x80000000, false, false, false⟩, -- FAB_CIRC_CFG0
  ⟨0x602004, 0x20, 256, 0x0, 0x3F7F007F, 0x3F7F007F, 0x0, 0x0, false, false, false⟩, -- FAB_CIRC_CFG1
  ⟨0x602008, 0x20, 256, 0x0, 0xFFFFF, 0xFFFFF, 0x0, 0x0, false, false, false⟩, -- FAB_CIRC_CFG2
  ⟨0x60200C, 0x20, 256, 0x0, 0xEF00FFFF, 0x0, 0x0, 0x0, false, false, false⟩, -- FAB_CIRC_STAT
  ⟨0x604000, 0x0, 1, 0x0, 0x7, 0x0, 0x7, 0x0, false, false, false⟩, -- FAB_RTR_STATUS
  ⟨0x604004, 0x0, 1, 0x800, 0xFFF, 0x0, 0x0, 0x0, false, false, false⟩, -- FAB_RTR_SRAM_FREE
  ⟨0x604008, 0x0, 1, 0x0, 0x7FFFFF, 0x0, 0x0, 0x0, false, false, false⟩, -- FAB_RTR_SPILL_RSV
  ⟨0x60400C, 0x0, 1, 0x0, 0x7FFFFF, 0x0, 0x0, 0x0, false, false, false⟩, -- FAB_RTR_SPILL_USED
  ⟨0x604010, 0x0, 1, 0x0, 0x7FFFFF, 0x0, 0x0, 0x0, true, false, false⟩, -- FAB_RTR_SPILL_PEAK
  ⟨0x604014, 0x0, 1, 0x0, 0xFFFFFFFF, 0x0, 0x0, 0x0, true, false, false⟩, -- FAB_RTR_CREDIT_WAIT
  ⟨0x604018, 0x0, 1, 0x0, 0xFFFFFFFF, 0x0, 0x0, 0x0, true, false, false⟩, -- FAB_RTR_STAGE_WAIT
  ⟨0x60401C, 0x0, 1, 0x0, 0xFFFFFFFF, 0x0, 0x0, 0x0, true, false, false⟩, -- FAB_RTR_ECC
  ⟨0x604100, 0x4, 64, 0x0, 0xC03F03FF, 0x0, 0x0, 0x0, false, false, false⟩, -- FAB_RTR_LAST
  ⟨0x605000, 0x8, 64, 0x0, 0xFFFFFFFF, 0x0, 0x0, 0x0, false, false, false⟩, -- FAB_ROUTE_PRI
  ⟨0x605004, 0x8, 64, 0x0, 0xFFFFFFFF, 0x0, 0x0, 0x0, false, false, false⟩, -- FAB_ROUTE_ALT
  ⟨0x606000, 0x4, 26, 0x0, 0xFFFFFFFF, 0x0, 0x0, 0x0, false, false, false⟩, -- FAB_CMAP
  ⟨0x606068, 0x0, 1, 0x0, 0xFFFFFFFF, 0x0, 0x0, 0x0, false, false, true⟩, -- FAB_CMAP_TIME_LO
  ⟨0x60606C, 0x0, 1, 0x0, 0xFFFFFFFF, 0x0, 0x0, 0x0, false, false, false⟩] -- FAB_CMAP_TIME_HI

/-- The ETH rows. -/
def rowsETH : List RegRow := [
  ⟨0x700000, 0x100, 2, 0x7, 0xC000000F, 0xC000000F, 0x0, 0x0, false, false, false⟩, -- ETH_PORT_CFG
  ⟨0x700004, 0x100, 2, 0x0, 0xC000000F, 0x0, 0x0, 0x0, false, false, false⟩, -- ETH_PORT_STAT
  ⟨0x700008, 0x100, 2, 0x763, 0x777, 0x777, 0x0, 0x0, false, false, false⟩, -- ETH_PORT_PCP
  ⟨0x70000C, 0x100, 2, 0xF4240, 0x3FFFFFFF, 0x3FFFFFFF, 0x0, 0x0, false, false, false⟩, -- ETH_GCL_CYCLE
  ⟨0x700010, 0x100, 2, 0x0, 0xFFFFFFFF, 0xFFFFFFFF, 0x0, 0x0, false, false, true⟩, -- ETH_GCL_BASE_LO
  ⟨0x700014, 0x100, 2, 0x0, 0xFFFFFFFF, 0xFFFFFFFF, 0x0, 0x0, false, false, false⟩, -- ETH_GCL_BASE_HI
  ⟨0x700018, 0x100, 2, 0x0, 0x1FF, 0x1FF, 0x0, 0x0, false, false, false⟩, -- ETH_GCL_LEN
  ⟨0x70001C, 0x100, 2, 0x0, 0xFFFFFFFF, 0x0, 0x0, 0x0, true, false, false⟩, -- ETH_PORT_ACT_DROP
  ⟨0x700400, 0x0, 1, 0x88B50010, 0xFFFFFFF3, 0xFFFFFFF3, 0x0, 0x0, false, false, false⟩, -- ETH_TP_CFG
  ⟨0x700404, 0x0, 1, 0x1F4, 0xFFFF, 0xFFFF, 0x0, 0x0, false, false, false⟩, -- ETH_TP_RTO
  ⟨0x700408, 0x0, 1, 0x0, 0x7, 0x0, 0x4, 0x0, false, false, false⟩, -- ETH_TP_STATUS
  ⟨0x70040C, 0x0, 1, 0x0, 0xFFFFFFFF, 0x0, 0x0, 0x0, true, false, false⟩, -- ETH_TP_DUP
  ⟨0x700410, 0x0, 1, 0x0, 0xFFFFFFFF, 0x0, 0x0, 0x0, true, false, false⟩, -- ETH_TP_OOW
  ⟨0x700414, 0x0, 1, 0x0, 0xFFFFFFFF, 0x0, 0x0, 0x0, true, false, false⟩, -- ETH_TP_NOBUF
  ⟨0x700418, 0x0, 1, 0x0, 0xFFFFFFFF, 0x0, 0x0, 0x0, true, false, false⟩, -- ETH_TP_RETX
  ⟨0x70041C, 0x0, 1, 0x0, 0xFFFFFFFF, 0x0, 0x0, 0x0, true, false, false⟩, -- ETH_TP_BADHDR
  ⟨0x700420, 0x0, 1, 0x4402, 0xFFFF, 0xFFFF, 0x0, 0x0, false, false, false⟩, -- ETH_TP_UDPPORT
  ⟨0x700424, 0x0, 1, 0x0, 0xFFFFFFFF, 0x0, 0x0, 0x0, true, false, false⟩, -- ETH_PORT_OTHER
  ⟨0x700428, 0x0, 1, 0x0, 0xFFFFFFFF, 0x0, 0x0, 0x0, true, false, false⟩, -- ETH_PORT_MSEC_DROP
  ⟨0x70042C, 0x0, 1, 0x1, 0xFF03, 0xFF03, 0x0, 0x0, false, false, false⟩, -- ETH_TSN_CFG
  ⟨0x701000, 0x8, 512, 0xFF, 0xFF, 0xFF, 0x0, 0x0, false, false, false⟩, -- ETH_GCL_GATE
  ⟨0x701004, 0x8, 512, 0x0, 0x3FFFFFFF, 0x3FFFFFFF, 0x0, 0x0, false, false, false⟩, -- ETH_GCL_IVL
  ⟨0x703000, 0x4, 128, 0x0, 0xFFFFFFFF, 0xFFFFFFFF, 0x0, 0x0, false, false, false⟩, -- ETH_QCI_FILTER_A
  ⟨0x703200, 0x4, 256, 0x0, 0xFFFFFFFF, 0xFFFFFFFF, 0x0, 0x0, false, false, false⟩, -- ETH_QCI_GATE_A
  ⟨0x703600, 0x4, 4, 0x0, 0xFFFFFFFF, 0xFFFFFFFF, 0x0, 0x0, false, false, false⟩, -- ETH_QAV_A
  ⟨0x703610, 0x4, 4, 0x0, 0xFFFFFFFF, 0xFFFFFFFF, 0x0, 0x0, false, false, false⟩, -- ETH_CB_A
  ⟨0x703620, 0x4, 32, 0x0, 0xFFFFFFFF, 0xFFFFFFFF, 0x0, 0x0, false, false, false⟩, -- ETH_AE_A
  ⟨0x703800, 0x4, 128, 0x0, 0xFFFFFFFF, 0xFFFFFFFF, 0x0, 0x0, false, false, false⟩, -- ETH_QCI_FILTER_B
  ⟨0x703A00, 0x4, 256, 0x0, 0xFFFFFFFF, 0xFFFFFFFF, 0x0, 0x0, false, false, false⟩, -- ETH_QCI_GATE_B
  ⟨0x703E00, 0x4, 4, 0x0, 0xFFFFFFFF, 0xFFFFFFFF, 0x0, 0x0, false, false, false⟩, -- ETH_QAV_B
  ⟨0x703E10, 0x4, 4, 0x0, 0xFFFFFFFF, 0xFFFFFFFF, 0x0, 0x0, false, false, false⟩, -- ETH_CB_B
  ⟨0x703E20, 0x4, 32, 0x0, 0xFFFFFFFF, 0xFFFFFFFF, 0x0, 0x0, false, false, false⟩] -- ETH_AE_B

/-- The CNV rows. -/
def rowsCNV : List RegRow := [
  ⟨0x800000, 0x0, 1, 0x0, 0x3F, 0x0, 0x3E, 0x0, false, false, false⟩, -- CNV_STATUS
  ⟨0x800008, 0x0, 1, 0x0, 0xFFFFFFFF, 0x0, 0x0, 0x0, false, false, true⟩, -- CNV_OPS_LO
  ⟨0x80000C, 0x0, 1, 0x0, 0xFFFF, 0x0, 0x0, 0x0, false, false, false⟩, -- CNV_OPS_HI
  ⟨0x800010, 0x0, 1, 0x0, 0xFFFFFFFF, 0x0, 0x0, 0x0, false, false, true⟩, -- CNV_SATN_LO
  ⟨0x800014, 0x0, 1, 0x0, 0xFFFF, 0x0, 0x0, 0x0, false, false, false⟩, -- CNV_SATN_HI
  ⟨0x800018, 0x0, 1, 0x0, 0xFFFFFFFF, 0x0, 0x0, 0x0, false, false, true⟩, -- CNV_UNDER_LO
  ⟨0x80001C, 0x0, 1, 0x0, 0xFFFF, 0x0, 0x0, 0x0, false, false, false⟩, -- CNV_UNDER_HI
  ⟨0x800020, 0x0, 1, 0x0, 0xFFFFFFFF, 0x0, 0x0, 0x0, false, false, true⟩, -- CNV_RESC_LO
  ⟨0x800024, 0x0, 1, 0x0, 0xFFFF, 0x0, 0x0, 0x0, false, false, false⟩, -- CNV_RESC_HI
  ⟨0x800028, 0x0, 1, 0x0, 0xFFFFFFFF, 0x0, 0x0, 0x0, true, false, false⟩, -- CNV_BADS
  ⟨0x80002C, 0x0, 1, 0x0, 0xFFFFFFFF, 0x0, 0x0, 0x0, true, false, false⟩, -- CNV_MISS
  ⟨0x800030, 0x0, 1, 0x0, 0xFFFFFFFF, 0x0, 0x0, 0x0, true, false, false⟩, -- CNV_TMO
  ⟨0x800034, 0x0, 1, 0x0, 0xFFFFFFFF, 0x0, 0x0, 0x0, true, false, false⟩, -- CNV_LATE
  ⟨0x800038, 0x0, 1, 0x0, 0xFFFFFFFF, 0x0, 0x0, 0x0, true, false, false⟩, -- CNV_EARLY
  ⟨0x80003C, 0x0, 1, 0x0, 0xFFFFFFFF, 0x0, 0x0, 0x0, true, false, false⟩, -- CNV_BADOBS
  ⟨0x800040, 0x0, 1, 0x0, 0x3FFFFFFF, 0x0, 0x0, 0x0, false, false, false⟩, -- CNV_LAST
  ⟨0x800044, 0x0, 1, 0x0, 0xFFFFFFFF, 0x0, 0x0, 0x0, true, false, false⟩, -- CNV_TAPWAIT
  ⟨0x800400, 0x10, 255, 0x0, 0xFF03FFFF, 0xFF03FFFF, 0x0, 0x0, false, false, false⟩, -- CNV_ACT_CFG
  ⟨0x800404, 0x10, 255, 0x0, 0xFF0FFFFF, 0xFF0FFFFF, 0x0, 0x0, false, false, false⟩, -- CNV_ACT_LEAD
  ⟨0x802000, 0x4, 4096, 0x0, 0xFFE0001F, 0x0, 0x1F, 0x0, false, false, false⟩] -- CNV_CH_STAT

/-- The SYN rows. -/
def rowsSYN : List RegRow := [
  ⟨0x900000, 0x0, 1, 0x0, 0xF, 0x0, 0xF, 0x0, false, false, false⟩, -- SYN_STATUS
  ⟨0x900004, 0x0, 1, 0x0, 0x7FFF, 0x0, 0x0, 0x0, false, false, false⟩, -- SYN_WATCH_USED
  ⟨0x900008, 0x0, 1, 0x0, 0x7FFF, 0x0, 0x0, 0x0, true, false, false⟩, -- SYN_WATCH_PEAK
  ⟨0x90000C, 0x0, 1, 0x0, 0xFFFFFFFF, 0x0, 0x0, 0x0, true, false, false⟩, -- SYN_BCN_LOST
  ⟨0x900010, 0x0, 1, 0x0, 0xFF3FFFFF, 0x0, 0x0, 0x0, false, false, false⟩, -- SYN_LAST
  ⟨0x900014, 0x0, 1, 0x0, 0xFFFFFFFF, 0x0, 0x0, 0x0, true, false, false⟩, -- SYN_BCN_RETRY
  ⟨0x910000, 0x4, 65536, 0x0, 0x7FFFFFFF, 0x0, 0x0, 0x0, false, false, false⟩] -- SYN_BUOY

/-- The MQ rows. -/
def rowsMQ : List RegRow := [
  ⟨0xA00000, 0x20, 4096, 0x0, 0xFFFFFFF, 0xFFFFFFF, 0x0, 0x0, false, false, false⟩, -- MQ_Q_CFG0
  ⟨0xA00004, 0x20, 4096, 0x0, 0x3FFFFF0F, 0x3FFFFF0F, 0x0, 0x0, false, false, false⟩, -- MQ_Q_CFG1
  ⟨0xA00008, 0x20, 4096, 0x0, 0x800003FF, 0x800003FF, 0x0, 0x0, false, false, false⟩, -- MQ_Q_CFG2
  ⟨0xA0000C, 0x20, 4096, 0x0, 0xFF00011F, 0x0, 0x100, 0x3, false, false, false⟩, -- MQ_Q_CTRL
  ⟨0xA00010, 0x20, 4096, 0x0, 0xFFFFFFFF, 0x0, 0x0, 0x0, false, false, true⟩, -- MQ_Q_GEN_LO
  ⟨0xA00014, 0x20, 4096, 0x0, 0xFFFFFFFF, 0x0, 0x0, 0x0, false, false, false⟩, -- MQ_Q_GEN_HI
  ⟨0xA00018, 0x20, 4096, 0x0, 0x1FFFF, 0x0, 0x0, 0x0, false, false, false⟩, -- MQ_Q_FILL
  ⟨0xA0001C, 0x20, 4096, 0x0, 0xFFFFFFFF, 0x0, 0x0, 0x0, true, false, false⟩, -- MQ_Q_DISC
  ⟨0xA20000, 0x0, 1, 0x0, 0x1, 0x0, 0x1, 0x0, false, false, false⟩, -- MQ_STATUS
  ⟨0xA20004, 0x0, 1, 0x0, 0x1FFF, 0x0, 0x0, 0x0, false, false, false⟩] -- MQ_OPENING

/-- The PGV rows. -/
def rowsPGV : List RegRow := [
  ⟨0xB00000, 0x0, 1, 0x2000024, 0x833F003F, 0x833F003F, 0x0, 0x0, false, false, false⟩, -- PGV_CTRL
  ⟨0xB00004, 0x0, 1, 0x0, 0x1FF, 0x1FF, 0x0, 0x0, false, false, false⟩, -- PGV_CAP
  ⟨0xB00008, 0x0, 1, 0x1E0, 0x1FF, 0x0, 0x0, 0x0, false, false, false⟩, -- PGV_TCAP
  ⟨0xB0000C, 0x0, 1, 0x0, 0x3FF, 0x0, 0x3ED, 0x0, false, false, false⟩, -- PGV_STATUS
  ⟨0xB00010, 0x0, 1, 0x0, 0x3F3F3F3F, 0x0, 0x0, 0x0, false, false, false⟩, -- PGV_LEVEL
  ⟨0xB00014, 0x0, 1, 0x0, 0xFFFF, 0x0, 0x0, 0x0, false, false, false⟩, -- PGV_EST_TOTAL
  ⟨0xB00018, 0x4, 4, 0x0, 0xFFFFFFFF, 0x0, 0x0, 0x0, false, false, false⟩, -- PGV_EST
  ⟨0xB00028, 0x0, 1, 0x0, 0xFFFF, 0x0, 0x0, 0x0, false, false, false⟩, -- PGV_MEAS
  ⟨0xB0002C, 0x0, 1, 0x0, 0xFFFF001F, 0x0, 0x0, 0x0, false, false, false⟩, -- PGV_TEMP
  ⟨0xB00030, 0x0, 1, 0x645C5F, 0xFFFFFF, 0xFFFFFF, 0x0, 0x0, false, false, false⟩, -- PGV_TLIM
  ⟨0xB00034, 0x0, 1, 0x0, 0xFFFFFFFF, 0x0, 0x0, 0x0, false, false, true⟩, -- PGV_BUB_LO
  ⟨0xB00038, 0x0, 1, 0x0, 0xFFFF, 0x0, 0x0, 0x0, false, false, false⟩, -- PGV_BUB_HI
  ⟨0xB0003C, 0x0, 1, 0x0, 0xFFFFFFFF, 0x0, 0x0, 0x0, true, false, false⟩, -- PGV_CAPFAIL_CNT
  ⟨0xB00040, 0x0, 1, 0x0, 0x1F, 0x0, 0x0, 0x0, false, false, false⟩, -- PGV_HINT
  ⟨0xB00100, 0x4, 8, 0x4000, 0xFFFF, 0x0, 0x0, 0x0, false, false, false⟩, -- PGV_GAIN
  ⟨0xB00120, 0x4, 8, 0x0, 0xFFFF, 0x0, 0x0, 0x0, false, false, false⟩, -- PGV_VRM
  ⟨0xB01000, 0x4, 1024, 0x0, 0xFFFFFFFF, 0x0, 0x0, 0x0, false, true, false⟩] -- PGV_COEF

/-- The LTN rows. -/
def rowsLTN : List RegRow := [
  ⟨0xC00000, 0x0, 1, 0x0, 0x3, 0x0, 0x0, 0x3, false, false, false⟩, -- LTN_PSCTRL
  ⟨0xC00004, 0x0, 1, 0x0, 0xF0000377, 0x0, 0x300, 0x0, false, false, false⟩, -- LTN_PSSTAT
  ⟨0xC00008, 0x0, 1, 0x100, 0x310, 0x0, 0x0, 0x0, false, false, false⟩, -- LTN_STATUS
  ⟨0xC0000C, 0x0, 1, 0x20, 0x3F, 0x3F, 0x0, 0x0, false, false, false⟩, -- LTN_WAKEEN
  ⟨0xC00010, 0x0, 1, 0x0, 0x3FFFF, 0x3FFFF, 0x0, 0x0, false, false, false⟩, -- LTN_FWAKE_EN
  ⟨0xC00014, 0x0, 1, 0x0, 0x3FFFF, 0x3FFFF, 0x0, 0x0, false, false, false⟩, -- LTN_FWAKE_MODE
  ⟨0xC00018, 0x0, 1, 0x0, 0x3FFFF, 0x0, 0x0, 0x3FFFF, false, false, false⟩, -- LTN_FWAKE_SEND
  ⟨0xC0001C, 0x0, 1, 0x0, 0xFF, 0x0, 0xFF, 0x0, false, false, false⟩, -- LTN_WAKEREASON
  ⟨0xC00020, 0x0, 1, 0x0, 0x3FFFF, 0x0, 0x3FFFF, 0x0, false, false, false⟩, -- LTN_WAKELINK
  ⟨0xC00024, 0x0, 1, 0x0, 0xFFFFFFFF, 0x0, 0x0, 0x0, false, false, false⟩, -- LTN_TCNT
  ⟨0xC00028, 0x0, 1, 0xFFFFFFFF, 0xFFFFFFFF, 0xFFFFFFFF, 0x0, 0x0, false, false, false⟩, -- LTN_TCMP
  ⟨0xC0002C, 0x0, 1, 0x14, 0xFF, 0xFF, 0x0, 0x0, false, false, false⟩, -- LTN_WKWIN
  ⟨0xC00030, 0x0, 1, 0xA, 0xFF, 0xFF, 0x0, 0x0, false, false, false⟩, -- LTN_PGTMO
  ⟨0xC00034, 0x0, 1, 0x0, 0xFFFFFFFF, 0xFFFFFFFF, 0x0, 0x0, false, false, false⟩, -- LTN_WAKEMAC_LO
  ⟨0xC00038, 0x0, 1, 0x0, 0xFFFF, 0xFFFF, 0x0, 0x0, false, false, false⟩, -- LTN_WAKEMAC_HI
  ⟨0xC0003C, 0x0, 1, 0x0, 0xFFFFFFFF, 0x0, 0x0, 0x0, true, false, false⟩, -- LTN_LISTEN_CNT
  ⟨0xC00040, 0x0, 1, 0x258, 0xFFF, 0x0, 0x0, 0x0, false, false, false⟩, -- LTN_LOAD
  ⟨0xC00100, 0x4, 32, 0x0, 0x800001FF, 0x800001FF, 0x0, 0x0, false, false, false⟩, -- LTN_WATCH
  ⟨0xC00180, 0x4, 4, 0x0, 0xFFFFFFFF, 0xFFFFFFFF, 0x0, 0x0, false, false, false⟩] -- LTN_WPAT

/-- The IRQ rows. -/
def rowsIRQ : List RegRow := [
  ⟨0xD00000, 0x4, 16, 0x0, 0xFFFFFFFF, 0x0, 0x0, 0x0, false, false, false⟩, -- IRQ_PEND
  ⟨0xD00040, 0x4, 16, 0x0, 0xFFFFFFFF, 0x0, 0x0, 0x0, false, true, false⟩, -- IRQ_EN
  ⟨0xD00080, 0x4, 16, 0x0, 0xFFFFFFFF, 0xFFFFFFFF, 0x0, 0x0, false, false, false⟩, -- IRQ_FWD
  ⟨0xD000C0, 0x4, 16, 0x0, 0xFFFFFFFF, 0x0, 0x0, 0x0, false, false, false⟩, -- IRQ_ACTIVE
  ⟨0xD00100, 0x0, 1, 0x0, 0x1FF, 0x0, 0x0, 0x0, false, true, false⟩, -- IRQ_CLAIM
  ⟨0xD00104, 0x0, 1, 0x0, 0x1FF, 0x0, 0x0, 0x0, false, true, false⟩, -- IRQ_DONE
  ⟨0xD00108, 0x0, 1, 0x0, 0xFFFFFFFF, 0x0, 0x0, 0x0, true, false, false⟩, -- IRQ_MERGED
  ⟨0xD0010C, 0x0, 1, 0x0, 0x1FF, 0x0, 0x0, 0x0, false, false, false⟩] -- IRQ_LASTM

/-- The TMR rows. -/
def rowsTMR : List RegRow := [
  ⟨0xE00000, 0x0, 1, 0x0, 0xFFFFFFFF, 0x0, 0x0, 0x0, false, false, false⟩, -- TMR_TB_LO
  ⟨0xE00004, 0x0, 1, 0x0, 0xFFFFFFFF, 0x0, 0x0, 0x0, false, false, false⟩, -- TMR_TB_HI
  ⟨0xE00008, 0x0, 1, 0x0, 0xFFFFFFFF, 0x0, 0x0, 0x0, false, true, false⟩, -- TMR_TB_RATE
  ⟨0xE0000C, 0x0, 1, 0x0, 0xFFFFFFFF, 0x0, 0x0, 0x0, false, true, false⟩, -- TMR_TB_STEP
  ⟨0xE00010, 0x0, 1, 0x0, 0xC0000003, 0x0, 0x0, 0x0, false, false, false⟩, -- TMR_TB_STAT
  ⟨0xE00014, 0x0, 1, 0x0, 0xFFFFFFFF, 0x0, 0x0, 0x0, true, false, false⟩, -- TMR_TB_STEPS
  ⟨0xE00020, 0x0, 1, 0x0, 0xFFFFFFFF, 0x0, 0x0, 0xFFFFFFFF, false, false, false⟩, -- TMR_GSTART
  ⟨0xE00024, 0x0, 1, 0x0, 0xFFFFFFFF, 0x0, 0x0, 0xFFFFFFFF, false, false, false⟩, -- TMR_GSTOP
  ⟨0xE01000, 0x20, 32, 0x0, 0xFF87FFFF, 0xC007FFFF, 0x0, 0x0, false, false, false⟩, -- TMR_CTRL
  ⟨0xE01004, 0x20, 32, 0x0, 0xFFFFFFFF, 0xFFFFFFFF, 0x0, 0x0, false, false, false⟩, -- TMR_COUNT
  ⟨0xE01008, 0x20, 32, 0xFFFFFFFF, 0xFFFFFFFF, 0xFFFFFFFF, 0x0, 0x0, false, false, false⟩, -- TMR_PERIOD
  ⟨0xE0100C, 0x20, 32, 0xFFFFFFFF, 0xFFFFFFFF, 0xFFFFFFFF, 0x0, 0x0, false, false, false⟩, -- TMR_CMP0
  ⟨0xE01010, 0x20, 32, 0xFFFFFFFF, 0xFFFFFFFF, 0xFFFFFFFF, 0x0, 0x0, false, false, false⟩, -- TMR_CMP1
  ⟨0xE01014, 0x20, 32, 0x0, 0x77, 0x0, 0x37, 0x0, false, false, false⟩, -- TMR_STAT
  ⟨0xE01018, 0x20, 32, 0x0, 0xFFFFFFFF, 0x0, 0x0, 0x0, false, false, false⟩] -- TMR_CAPT

/-- The SEC rows. -/
def rowsSEC : List RegRow := [
  ⟨0xF00000, 0x0, 1, 0x0, 0xFE3F0FFF, 0x0, 0x0, 0x0, false, false, false⟩, -- SEC_STATUS
  ⟨0xF00004, 0x0, 1, 0x0, 0xFFFF, 0x0, 0x0, 0x0, false, false, false⟩, -- SEC_TAMPER
  ⟨0xF00008, 0x0, 1, 0x0, 0x7, 0x0, 0x0, 0x0, false, false, false⟩, -- SEC_EVENT
  ⟨0xF0000C, 0x0, 1, 0x0, 0xFFFF, 0x0, 0x0, 0x0, false, false, false⟩, -- SEC_REQ
  ⟨0xF00010, 0x4, 8, 0x0, 0xFFFFFFFF, 0x0, 0x0, 0x0, false, false, false⟩, -- SEC_NONCE
  ⟨0xF00080, 0x4, 12, 0x0, 0xFFFFFFFF, 0x0, 0x0, 0x0, false, false, false⟩] -- SEC_FWHASH

/-- The PTB rows. -/
def rowsPTB : List RegRow := [
  ⟨0x1000000, 0x0, 1, 0x0, 0x1, 0x1, 0x0, 0x0, false, false, false⟩, -- PTB_CTRL
  ⟨0x1000004, 0x0, 1, 0x0, 0x3, 0x0, 0x0, 0x0, false, false, false⟩, -- PTB_STATUS
  ⟨0x1000008, 0x0, 1, 0x0, 0xFFFFFFFF, 0x0, 0x0, 0x0, false, false, false⟩, -- PTB_COUNT
  ⟨0x100000C, 0x0, 1, 0x0, 0xFFFFFFFF, 0x0, 0x0, 0x0, false, false, true⟩, -- PTB_START_LO
  ⟨0x1000010, 0x0, 1, 0x0, 0xFFFFFFFF, 0x0, 0x0, 0x0, false, false, false⟩, -- PTB_START_HI
  ⟨0x1000014, 0x0, 1, 0x0, 0xFFFFFFFF, 0x0, 0x0, 0x0, false, false, true⟩, -- PTB_STOP_LO
  ⟨0x1000018, 0x0, 1, 0x0, 0xFFFFFFFF, 0x0, 0x0, 0x0, false, false, false⟩, -- PTB_STOP_HI
  ⟨0x1000020, 0x4, 4, 0x0, 0x80000FFF, 0x80000FFF, 0x0, 0x0, false, false, false⟩, -- PTB_LAT
  ⟨0x1000030, 0x0, 1, 0x0, 0xFFFF010F, 0xFFFF010F, 0x0, 0x0, false, false, false⟩, -- PTB_CRED
  ⟨0x1000034, 0x0, 1, 0x0, 0x3FFFF, 0x3FFFF, 0x0, 0x0, false, false, false⟩, -- PTB_CRED_LINKS
  ⟨0x1000038, 0x0, 1, 0x0, 0xFFFF, 0xFFFF, 0x0, 0x0, false, false, false⟩, -- PTB_REPLAY
  ⟨0x100003C, 0x0, 1, 0x0, 0x3FFFF, 0x3FFFF, 0x0, 0x0, false, false, false⟩, -- PTB_REPLAY_LINKS
  ⟨0x1000040, 0x0, 1, 0x0, 0x8000FFFF, 0x8000FFFF, 0x0, 0x0, false, false, false⟩, -- PTB_BUOYDLY
  ⟨0x1000044, 0x0, 1, 0x1000000, 0xFFFFFFFF, 0xFFFFFFFF, 0x0, 0x0, false, false, false⟩, -- PTB_STRETCH
  ⟨0x1000048, 0x0, 1, 0x0, 0xF7F, 0xF7F, 0x0, 0x0, false, false, false⟩, -- PTB_ARB
  ⟨0x100004C, 0x0, 1, 0x10000, 0xFFFF3F0F, 0xFFFF3F0F, 0x0, 0x0, false, false, false⟩, -- PTB_HBMREF
  ⟨0x1000050, 0x0, 1, 0x0, 0xFFFF, 0x0, 0x0, 0x0, false, false, false⟩] -- PTB_HELD

/-- The BUD rows. -/
def rowsBUD : List RegRow := [
  ⟨0x1100000, 0x0, 1, 0x0, 0xFFFD0000, 0x0, 0x0, 0x0, false, false, false⟩, -- BUD_STATE
  ⟨0x1100004, 0x0, 1, 0x0, 0xFFFFFFFF, 0x0, 0x0, 0x0, false, false, false⟩, -- BUD_TIME
  ⟨0x1100008, 0x0, 1, 0x0, 0x13F, 0x0, 0x0, 0x0, false, false, false⟩, -- BUD_DEVNUM
  ⟨0x110000C, 0x0, 1, 0x0, 0xFFFFFFFF, 0x0, 0x0, 0x0, false, false, true⟩, -- BUD_DEVID_LO
  ⟨0x1100010, 0x0, 1, 0x0, 0xFFFFFFFF, 0x0, 0x0, 0x0, false, false, false⟩, -- BUD_DEVID_HI
  ⟨0x1100014, 0x0, 1, 0x0, 0xFF1F3F1F, 0x0, 0x0, 0x0, false, false, false⟩, -- BUD_CAP
  ⟨0x1100018, 0x0, 1, 0x0, 0x3FF03FF, 0x0, 0x0, 0x0, false, false, false⟩, -- BUD_FUSE
  ⟨0x110001C, 0x0, 1, 0x0, 0xFFFFFFFF, 0x0, 0x0, 0x0, false, false, false⟩, -- BUD_LMAP_CRC
  ⟨0x1100100, 0x4, 16, 0x0, 0xC000003F, 0x0, 0x0, 0x0, false, false, false⟩, -- BUD_LMAP_CORE
  ⟨0x1100140, 0x4, 32, 0x0, 0xC000003F, 0x0, 0x0, 0x0, false, false, false⟩, -- BUD_LMAP_SLICE
  ⟨0x1100200, 0x4, 18, 0x0, 0xFC00003F, 0x0, 0x0, 0x0, false, false, false⟩, -- BUD_PHYS_CORE
  ⟨0x1100280, 0x4, 34, 0x0, 0xFC00003F, 0x0, 0x0, 0x0, false, false, false⟩, -- BUD_PHYS_SLICE
  ⟨0x1100400, 0x4, 18, 0x0, 0xFFFFFFE0, 0x0, 0x0, 0x0, false, false, false⟩, -- BUD_LNK_TOPO
  ⟨0x1100500, 0x0, 1, 0x0, 0xFFE3FFFF, 0x0, 0x0, 0x0, false, false, false⟩, -- BUD_FF_INFO
  ⟨0x1100504, 0x0, 1, 0x0, 0xFFFFFFFF, 0x0, 0x0, 0x0, false, false, true⟩, -- BUD_FF_STEP_LO
  ⟨0x1100508, 0x0, 1, 0x0, 0xFFFF, 0x0, 0x0, 0x0, false, false, false⟩, -- BUD_FF_STEP_HI
  ⟨0x110050C, 0x0, 1, 0x0, 0xFFFFFFFF, 0x0, 0x0, 0x0, false, false, true⟩, -- BUD_FF_SNAP_LO
  ⟨0x1100510, 0x0, 1, 0x0, 0xFFFF, 0x0, 0x0, 0x0, false, false, false⟩, -- BUD_FF_SNAP_HI
  ⟨0x1100514, 0x0, 1, 0x0, 0xFFFFFFFF, 0x0, 0x0, 0x0, false, false, false⟩, -- BUD_FF_GAP
  ⟨0x1100518, 0x0, 1, 0x0, 0xFFFFFFFF, 0x0, 0x0, 0x0, false, false, false⟩] -- BUD_FF_COUNT

/-- Whether a row holds address `a`. -/
def RegRow.holds (r : RegRow) (a : Nat) : Bool :=
  r.addr ≤ a && (if r.count = 1 then a = r.addr else (a - r.addr) % r.stride = 0 && (a - r.addr) / r.stride < r.count)

/-- The rows of the block at `a`, and `a` as those rows number it (R13, R14). -/
def blockRows (a : Nat) : List RegRow × Nat :=
  if a < 0x10000 then (rowsIDT, a)
  else if a < 0x20000 then (rowsCMD, a)
  else if a < 0x100000 then ([], a)
  else if a < 0x200000 then (rowsCORE, a % 0x10000)
  else if a < 0x300000 then ([], a)
  else if a < 0x320000 then (rowsSLC, a % 0x1000)
  else if a < 0x400000 then ([], a)
  else if a < 0x500000 then (rowsXBR, a)
  else if a < 0x600000 then (rowsHBM, a)
  else if a < 0x700000 then (rowsFAB, a)
  else if a < 0x800000 then (rowsETH, a)
  else if a < 0x900000 then (rowsCNV, a)
  else if a < 0xA00000 then (rowsSYN, a)
  else if a < 0xB00000 then (rowsMQ, a)
  else if a < 0xC00000 then (rowsPGV, a)
  else if a < 0xD00000 then (rowsLTN, a)
  else if a < 0xE00000 then (rowsIRQ, a)
  else if a < 0xF00000 then (rowsTMR, a)
  else if a < 0x1000000 then (rowsSEC, a)
  else if a < 0x1100000 then (rowsPTB, a)
  else (rowsBUD, a)

/-- The row of a register address; none where the address is unassigned (R15). -/
def regRow (a : Nat) : Option RegRow := (blockRows a).1.find? (·.holds (blockRows a).2)

/-- The reset value of the register at `a`. -/
def regReset (a : Nat) : Word := ((regRow a).map RegRow.reset).getD 0

/-! ## Register addresses by name -/

/-- IDT_PART (R8). -/
abbrev Reg.idtPart : Nat := 0x0
/-- IDT_SZ_CORES (R9). -/
abbrev Reg.idtSzCores : Nat := 0x10
/-- IDT_SZ_SPARES (R9). -/
abbrev Reg.idtSzSpares : Nat := 0x14
/-- IDT_SZ_SYN_LANES (R9). -/
abbrev Reg.idtSzSynLanes : Nat := 0x18
/-- IDT_SZ_NRN_LANES (R9). -/
abbrev Reg.idtSzNrnLanes : Nat := 0x1C
/-- IDT_SZ_SYN_KIB (R9). -/
abbrev Reg.idtSzSynKib : Nat := 0x20
/-- IDT_SZ_STATE_KIB (R9). -/
abbrev Reg.idtSzStateKib : Nat := 0x24
/-- IDT_SZ_DELTA_KIB (R9). -/
abbrev Reg.idtSzDeltaKib : Nat := 0x28
/-- IDT_SZ_INBOX_KIB (R9). -/
abbrev Reg.idtSzInboxKib : Nat := 0x2C
/-- IDT_SZ_PROG_KIB (R9). -/
abbrev Reg.idtSzProgKib : Nat := 0x30
/-- IDT_SZ_MATRICES (R9). -/
abbrev Reg.idtSzMatrices : Nat := 0x34
/-- IDT_SZ_ROWS (R9). -/
abbrev Reg.idtSzRows : Nat := 0x38
/-- IDT_SZ_COLS (R9). -/
abbrev Reg.idtSzCols : Nat := 0x3C
/-- IDT_SZ_CONTEXTS (R9). -/
abbrev Reg.idtSzContexts : Nat := 0x40
/-- IDT_SZ_SLICES (R9). -/
abbrev Reg.idtSzSlices : Nat := 0x44
/-- IDT_SZ_SLICE_KIB (R9). -/
abbrev Reg.idtSzSliceKib : Nat := 0x48
/-- IDT_SZ_MAIN_MIB (R9). -/
abbrev Reg.idtSzMainMib : Nat := 0x4C
/-- IDT_SZ_LINKS (R9). -/
abbrev Reg.idtSzLinks : Nat := 0x50
/-- IDT_SZ_CNV_CH (R9). -/
abbrev Reg.idtSzCnvCh : Nat := 0x54
/-- IDT_SZ_BUOYS (R9). -/
abbrev Reg.idtSzBuoys : Nat := 0x58
/-- IDT_SZ_QUEUES (R9). -/
abbrev Reg.idtSzQueues : Nat := 0x5C
/-- IDT_SZ_STREAMS (R9). -/
abbrev Reg.idtSzStreams : Nat := 0x60
/-- IDT_SZ_BINDINGS (R9). -/
abbrev Reg.idtSzBindings : Nat := 0x64
/-- IDT_SZ_TDP_W (R9). -/
abbrev Reg.idtSzTdpW : Nat := 0x68
/-- CMD_BND_STATE[k] (R300). -/
abbrev Reg.cmdBndState (k : Nat) : Nat := 0x10400 + k * 0x10
/-- CMD_BND_MASK_LO[k] (R300). -/
abbrev Reg.cmdBndMaskLo (k : Nat) : Nat := 0x10404 + k * 0x10
/-- CMD_BND_MASK_HI[k] (R300). -/
abbrev Reg.cmdBndMaskHi (k : Nat) : Nat := 0x10408 + k * 0x10
/-- CMD_BND_IMGSZ[k] (R300). -/
abbrev Reg.cmdBndImgsz (k : Nat) : Nat := 0x1040C + k * 0x10
/-- CMD_STEP_CTRL[k] (R46). -/
abbrev Reg.cmdStepCtrl (k : Nat) : Nat := 0x11000 + k * 0x40
/-- CMD_STEP_LEN[k] (R47). -/
abbrev Reg.cmdStepLen (k : Nat) : Nat := 0x11004 + k * 0x40
/-- CMD_STEP_LOCK_PERIOD[k] (R48). -/
abbrev Reg.cmdStepLockPeriod (k : Nat) : Nat := 0x11008 + k * 0x40
/-- CMD_STEP_LOCK_PHASE[k] (R48). -/
abbrev Reg.cmdStepLockPhase (k : Nat) : Nat := 0x1100C + k * 0x40
/-- CMD_STEP_NUM_LO[k] (R50). -/
abbrev Reg.cmdStepNumLo (k : Nat) : Nat := 0x11010 + k * 0x40
/-- CMD_STEP_NUM_HI[k] (R50). -/
abbrev Reg.cmdStepNumHi (k : Nat) : Nat := 0x11014 + k * 0x40
/-- CMD_STEP_STRETCH[k] (R51). -/
abbrev Reg.cmdStepStretch (k : Nat) : Nat := 0x11018 + k * 0x40
/-- CMD_STEP_STRETCH_MAX[k] (R51). -/
abbrev Reg.cmdStepStretchMax (k : Nat) : Nat := 0x1101C + k * 0x40
/-- CMD_STEP_OVERRUN[k] (R52). -/
abbrev Reg.cmdStepOverrun (k : Nat) : Nat := 0x11020 + k * 0x40
/-- CMD_STEP_STATUS[k] (R53). -/
abbrev Reg.cmdStepStatus (k : Nat) : Nat := 0x11024 + k * 0x40
/-- CMD_STEP_PARKDROP[k] (R54). -/
abbrev Reg.cmdStepParkdrop (k : Nat) : Nat := 0x11028 + k * 0x40
/-- CMD_CS_STATUS[k] (R301). -/
abbrev Reg.cmdCsStatus (k : Nat) : Nat := 0x12000 + k * 0x20
/-- CMD_CS_CSEQ_LO[k] (R301). -/
abbrev Reg.cmdCsCseqLo (k : Nat) : Nat := 0x12004 + k * 0x20
/-- CMD_CS_CSEQ_HI[k] (R301). -/
abbrev Reg.cmdCsCseqHi (k : Nat) : Nat := 0x12008 + k * 0x20
/-- CMD_CS_CPL_LO[k] (R301). -/
abbrev Reg.cmdCsCplLo (k : Nat) : Nat := 0x1200C + k * 0x20
/-- CMD_CS_CPL_HI[k] (R301). -/
abbrev Reg.cmdCsCplHi (k : Nat) : Nat := 0x12010 + k * 0x20
/-- CMD_CS_FRZ[k] (R301). -/
abbrev Reg.cmdCsFrz (k : Nat) : Nat := 0x12014 + k * 0x20
/-- CMD_CS_OUTST[k] (R301). -/
abbrev Reg.cmdCsOutst (k : Nat) : Nat := 0x12018 + k * 0x20
/-- CORE_NRN_EXC_LO[k] (R87). -/
abbrev Reg.coreNrnExcLo (n k : Nat) : Nat := 0x104000 + n * 0x10000 + k * 0x20
/-- CORE_NRN_EXC_HI[k] (R87). -/
abbrev Reg.coreNrnExcHi (n k : Nat) : Nat := 0x104004 + n * 0x10000 + k * 0x20
/-- CORE_NRN_SPK_LO[k] (R87). -/
abbrev Reg.coreNrnSpkLo (n k : Nat) : Nat := 0x104008 + n * 0x10000 + k * 0x20
/-- CORE_NRN_SPK_HI[k] (R87). -/
abbrev Reg.coreNrnSpkHi (n k : Nat) : Nat := 0x10400C + n * 0x10000 + k * 0x20
/-- CORE_NRN_FLAGS[k] (R88). -/
abbrev Reg.coreNrnFlags (n k : Nat) : Nat := 0x104010 + n * 0x10000 + k * 0x20
/-- CORE_NRN_INFO[k] (R89). -/
abbrev Reg.coreNrnInfo (n k : Nat) : Nat := 0x104014 + n * 0x10000 + k * 0x20
/-- CORE_SYN_STATUS (R122). -/
abbrev Reg.coreSynStatus (n : Nat) : Nat := 0x105000 + n * 0x10000
/-- CORE_SYN_READS_LO (R123). -/
abbrev Reg.coreSynReadsLo (n : Nat) : Nat := 0x105008 + n * 0x10000
/-- CORE_SYN_READS_HI (R123). -/
abbrev Reg.coreSynReadsHi (n : Nat) : Nat := 0x10500C + n * 0x10000
/-- CORE_SYN_HITS_LO (R123). -/
abbrev Reg.coreSynHitsLo (n : Nat) : Nat := 0x105010 + n * 0x10000
/-- CORE_SYN_HITS_HI (R123). -/
abbrev Reg.coreSynHitsHi (n : Nat) : Nat := 0x105014 + n * 0x10000
/-- CORE_SYN_ADDS_LO (R123). -/
abbrev Reg.coreSynAddsLo (n : Nat) : Nat := 0x105018 + n * 0x10000
/-- CORE_SYN_ADDS_HI (R123). -/
abbrev Reg.coreSynAddsHi (n : Nat) : Nat := 0x10501C + n * 0x10000
/-- CORE_SYN_DROP (R124). -/
abbrev Reg.coreSynDrop (n : Nat) : Nat := 0x105020 + n * 0x10000
/-- CORE_SYN_DROPINFO (R124). -/
abbrev Reg.coreSynDropinfo (n : Nat) : Nat := 0x105024 + n * 0x10000
/-- CORE_SYN_BERTHWAIT (R124). -/
abbrev Reg.coreSynBerthwait (n : Nat) : Nat := 0x105028 + n * 0x10000
/-- CORE_SYN_BERTH_CFG[k] (R125). -/
abbrev Reg.coreSynBerthCfg (n k : Nat) : Nat := 0x105100 + n * 0x10000 + k * 0x10
/-- CORE_SYN_BERTH_STATE[k] (R125). -/
abbrev Reg.coreSynBerthState (n k : Nat) : Nat := 0x105104 + n * 0x10000 + k * 0x10
/-- CORE_SYN_BERTH_FIRST[k] (R125). -/
abbrev Reg.coreSynBerthFirst (n k : Nat) : Nat := 0x105108 + n * 0x10000 + k * 0x10
/-- CORE_SYN_BERTH_LAST[k] (R125). -/
abbrev Reg.coreSynBerthLast (n k : Nat) : Nat := 0x10510C + n * 0x10000 + k * 0x10
/-- CORE_SYN_MSTAT[k] (R126). -/
abbrev Reg.coreSynMstat (n k : Nat) : Nat := 0x105400 + n * 0x10000 + k * 0x4
/-- CORE_CVT_STATUS (R153). -/
abbrev Reg.coreCvtStatus (n : Nat) : Nat := 0x106000 + n * 0x10000
/-- CORE_CVT_SATN_LO (R154). -/
abbrev Reg.coreCvtSatnLo (n : Nat) : Nat := 0x106008 + n * 0x10000
/-- CORE_CVT_SATN_HI (R154). -/
abbrev Reg.coreCvtSatnHi (n : Nat) : Nat := 0x10600C + n * 0x10000
/-- CORE_CVT_UNDER_LO (R154). -/
abbrev Reg.coreCvtUnderLo (n : Nat) : Nat := 0x106010 + n * 0x10000
/-- CORE_CVT_UNDER_HI (R154). -/
abbrev Reg.coreCvtUnderHi (n : Nat) : Nat := 0x106014 + n * 0x10000
/-- CORE_CVT_RESC_LO (R154). -/
abbrev Reg.coreCvtRescLo (n : Nat) : Nat := 0x106018 + n * 0x10000
/-- CORE_CVT_RESC_HI (R154). -/
abbrev Reg.coreCvtRescHi (n : Nat) : Nat := 0x10601C + n * 0x10000
/-- CORE_CVT_BADS (R155). -/
abbrev Reg.coreCvtBads (n : Nat) : Nat := 0x106020 + n * 0x10000
/-- CORE_LRN_STATUS (R194). -/
abbrev Reg.coreLrnStatus (n : Nat) : Nat := 0x107000 + n * 0x10000
/-- CORE_LRN_WAIT (R195). -/
abbrev Reg.coreLrnWait (n : Nat) : Nat := 0x107004 + n * 0x10000
/-- CORE_LRN_OPS_LO (R195). -/
abbrev Reg.coreLrnOpsLo (n : Nat) : Nat := 0x107008 + n * 0x10000
/-- CORE_LRN_OPS_HI (R195). -/
abbrev Reg.coreLrnOpsHi (n : Nat) : Nat := 0x10700C + n * 0x10000
/-- CORE_LRN_OLD_LO (R195). -/
abbrev Reg.coreLrnOldLo (n : Nat) : Nat := 0x107010 + n * 0x10000
/-- CORE_LRN_OLD_HI (R195). -/
abbrev Reg.coreLrnOldHi (n : Nat) : Nat := 0x107014 + n * 0x10000
/-- CORE_LRN_NORMCOL (R195). -/
abbrev Reg.coreLrnNormcol (n : Nat) : Nat := 0x107018 + n * 0x10000
/-- CORE_LRN_DLYCH (R195). -/
abbrev Reg.coreLrnDlych (n : Nat) : Nat := 0x10701C + n * 0x10000
/-- CORE_LRN_APPLYMAX (R195). -/
abbrev Reg.coreLrnApplymax (n : Nat) : Nat := 0x107020 + n * 0x10000
/-- CORE_LRN_RSTAT[k] (R196). -/
abbrev Reg.coreLrnRstat (n k : Nat) : Nat := 0x107400 + n * 0x10000 + k * 0x4
/-- CORE_LRN_REPOCH[k] (R197). -/
abbrev Reg.coreLrnRepoch (n k : Nat) : Nat := 0x107800 + n * 0x10000 + k * 0x4
/-- CORE_RTE_STATUS (R228). -/
abbrev Reg.coreRteStatus (n : Nat) : Nat := 0x108000 + n * 0x10000
/-- CORE_RTE_ENT_LO (R229). -/
abbrev Reg.coreRteEntLo (n : Nat) : Nat := 0x108008 + n * 0x10000
/-- CORE_RTE_ENT_HI (R229). -/
abbrev Reg.coreRteEntHi (n : Nat) : Nat := 0x10800C + n * 0x10000
/-- CORE_RTE_STALL (R229). -/
abbrev Reg.coreRteStall (n : Nat) : Nat := 0x108010 + n * 0x10000
/-- CORE_RTE_ABSENT (R229). -/
abbrev Reg.coreRteAbsent (n : Nat) : Nat := 0x108014 + n * 0x10000
/-- CORE_RTE_ABSINFO (R229). -/
abbrev Reg.coreRteAbsinfo (n : Nat) : Nat := 0x108018 + n * 0x10000
/-- CORE_RTE_VIOL (R229). -/
abbrev Reg.coreRteViol (n : Nat) : Nat := 0x10801C + n * 0x10000
/-- CORE_INB_PEAK (R229). -/
abbrev Reg.coreInbPeak (n : Nat) : Nat := 0x108020 + n * 0x10000
/-- CORE_INB_SPILL (R229). -/
abbrev Reg.coreInbSpill (n : Nat) : Nat := 0x108024 + n * 0x10000
/-- CORE_INB_BADREC (R229). -/
abbrev Reg.coreInbBadrec (n : Nat) : Nat := 0x108028 + n * 0x10000
/-- CORE_INB_DRAIN (R229). -/
abbrev Reg.coreInbDrain (n : Nat) : Nat := 0x10802C + n * 0x10000
/-- CORE_IBX_STATUS (R332). -/
abbrev Reg.coreIbxStatus (n : Nat) : Nat := 0x109000 + n * 0x10000
/-- CORE_IBX_HEAD[k] (R332). -/
abbrev Reg.coreIbxHead (n k : Nat) : Nat := 0x109004 + n * 0x10000 + k * 0x4
/-- CORE_IBX_POP (R332). -/
abbrev Reg.coreIbxPop (n : Nat) : Nat := 0x109014 + n * 0x10000
/-- CORE_IBX_LOST (R332). -/
abbrev Reg.coreIbxLost (n : Nat) : Nat := 0x109018 + n * 0x10000
/-- SLC_CFG (R360). -/
abbrev Reg.slcCfg (n : Nat) : Nat := 0x300000 + n * 0x1000
/-- SLC_STATUS (R360). -/
abbrev Reg.slcStatus (n : Nat) : Nat := 0x300004 + n * 0x1000
/-- SLC_ECC_CE (R360). -/
abbrev Reg.slcEccCe (n : Nat) : Nat := 0x300008 + n * 0x1000
/-- SLC_ECC_UE (R360). -/
abbrev Reg.slcEccUe (n : Nat) : Nat := 0x30000C + n * 0x1000
/-- SLC_ECC_ADDR (R360). -/
abbrev Reg.slcEccAddr (n : Nat) : Nat := 0x300010 + n * 0x1000
/-- SLC_CONFL (R360). -/
abbrev Reg.slcConfl (n : Nat) : Nat := 0x300014 + n * 0x1000
/-- SLC_WLOST (R360). -/
abbrev Reg.slcWlost (n : Nat) : Nat := 0x300018 + n * 0x1000
/-- XBR_ARB (R361). -/
abbrev Reg.xbrArb : Nat := 0x400000
/-- XBR_SCRUB (R361). -/
abbrev Reg.xbrScrub : Nat := 0x400004
/-- XBR_PORT_WAIT[k] (R361). -/
abbrev Reg.xbrPortWait (k : Nat) : Nat := 0x400100 + k * 0x4
/-- XBR_PORT_RSV[k] (R361). -/
abbrev Reg.xbrPortRsv (k : Nat) : Nat := 0x400300 + k * 0x4
/-- HBM_STAT[k] (R362). -/
abbrev Reg.hbmStat (k : Nat) : Nat := 0x500000 + k * 0x100
/-- HBM_ECC_CE[k] (R362). -/
abbrev Reg.hbmEccCe (k : Nat) : Nat := 0x500004 + k * 0x100
/-- HBM_ECC_UE[k] (R362). -/
abbrev Reg.hbmEccUe (k : Nat) : Nat := 0x500008 + k * 0x100
/-- HBM_ECC_ADDR_LO[k] (R362). -/
abbrev Reg.hbmEccAddrLo (k : Nat) : Nat := 0x50000C + k * 0x100
/-- HBM_ECC_ADDR_HI[k] (R362). -/
abbrev Reg.hbmEccAddrHi (k : Nat) : Nat := 0x500010 + k * 0x100
/-- HBM_GR_LO[k] (R362). -/
abbrev Reg.hbmGrLo (k : Nat) : Nat := 0x500014 + k * 0x100
/-- HBM_GR_HI[k] (R362). -/
abbrev Reg.hbmGrHi (k : Nat) : Nat := 0x500018 + k * 0x100
/-- FAB_LNK_STAT[k] (R392). -/
abbrev Reg.fabLnkStat (k : Nat) : Nat := 0x600000 + k * 0x100
/-- FAB_LNK_CTRL[k] (R392). -/
abbrev Reg.fabLnkCtrl (k : Nat) : Nat := 0x600004 + k * 0x100
/-- FAB_LNK_FEC_CORR[k] (R392). -/
abbrev Reg.fabLnkFecCorr (k : Nat) : Nat := 0x600008 + k * 0x100
/-- FAB_LNK_FEC_UNC[k] (R392). -/
abbrev Reg.fabLnkFecUnc (k : Nat) : Nat := 0x60000C + k * 0x100
/-- FAB_LNK_NAK[k] (R392). -/
abbrev Reg.fabLnkNak (k : Nat) : Nat := 0x600010 + k * 0x100
/-- FAB_LNK_REPLAY[k] (R392). -/
abbrev Reg.fabLnkReplay (k : Nat) : Nat := 0x600014 + k * 0x100
/-- FAB_LNK_FAILS[k] (R392). -/
abbrev Reg.fabLnkFails (k : Nat) : Nat := 0x600018 + k * 0x100
/-- FAB_STATUS (R393). -/
abbrev Reg.fabStatus : Nat := 0x601800
/-- FAB_ARB (R393). -/
abbrev Reg.fabArb : Nat := 0x601804
/-- FAB_RET_USED (R393). -/
abbrev Reg.fabRetUsed : Nat := 0x601808
/-- FAB_RET_WAIT (R393). -/
abbrev Reg.fabRetWait : Nat := 0x60180C
/-- FAB_E2E_DUP (R393). -/
abbrev Reg.fabE2eDup : Nat := 0x601810
/-- FAB_E2E_LOST (R393). -/
abbrev Reg.fabE2eLost : Nat := 0x601814
/-- FAB_BADPKT (R393). -/
abbrev Reg.fabBadpkt : Nat := 0x601818
/-- FAB_RETIRE (R393). -/
abbrev Reg.fabRetire : Nat := 0x60181C
/-- FAB_CIRC_CFG0[k] (R394). -/
abbrev Reg.fabCircCfg0 (k : Nat) : Nat := 0x602000 + k * 0x20
/-- FAB_CIRC_CFG1[k] (R394). -/
abbrev Reg.fabCircCfg1 (k : Nat) : Nat := 0x602004 + k * 0x20
/-- FAB_CIRC_CFG2[k] (R394). -/
abbrev Reg.fabCircCfg2 (k : Nat) : Nat := 0x602008 + k * 0x20
/-- FAB_CIRC_STAT[k] (R394). -/
abbrev Reg.fabCircStat (k : Nat) : Nat := 0x60200C + k * 0x20
/-- FAB_RTR_STATUS (R230). -/
abbrev Reg.fabRtrStatus : Nat := 0x604000
/-- FAB_RTR_SRAM_FREE (R230). -/
abbrev Reg.fabRtrSramFree : Nat := 0x604004
/-- FAB_RTR_SPILL_RSV (R230). -/
abbrev Reg.fabRtrSpillRsv : Nat := 0x604008
/-- FAB_RTR_SPILL_USED (R230). -/
abbrev Reg.fabRtrSpillUsed : Nat := 0x60400C
/-- FAB_RTR_SPILL_PEAK (R230). -/
abbrev Reg.fabRtrSpillPeak : Nat := 0x604010
/-- FAB_RTR_CREDIT_WAIT (R230). -/
abbrev Reg.fabRtrCreditWait : Nat := 0x604014
/-- FAB_RTR_STAGE_WAIT (R230). -/
abbrev Reg.fabRtrStageWait : Nat := 0x604018
/-- FAB_RTR_ECC (R230). -/
abbrev Reg.fabRtrEcc : Nat := 0x60401C
/-- FAB_RTR_LAST[k] (R231). -/
abbrev Reg.fabRtrLast (k : Nat) : Nat := 0x604100 + k * 0x4
/-- FAB_ROUTE_PRI[k] (R395). -/
abbrev Reg.fabRoutePri (k : Nat) : Nat := 0x605000 + k * 0x8
/-- FAB_ROUTE_ALT[k] (R395). -/
abbrev Reg.fabRouteAlt (k : Nat) : Nat := 0x605004 + k * 0x8
/-- FAB_CMAP[k] (R396). -/
abbrev Reg.fabCmap (k : Nat) : Nat := 0x606000 + k * 0x4
/-- FAB_CMAP_TIME_LO (R396). -/
abbrev Reg.fabCmapTimeLo : Nat := 0x606068
/-- FAB_CMAP_TIME_HI (R396). -/
abbrev Reg.fabCmapTimeHi : Nat := 0x60606C
/-- ETH_PORT_CFG[k] (R419). -/
abbrev Reg.ethPortCfg (k : Nat) : Nat := 0x700000 + k * 0x100
/-- ETH_PORT_STAT[k] (R419). -/
abbrev Reg.ethPortStat (k : Nat) : Nat := 0x700004 + k * 0x100
/-- ETH_PORT_PCP[k] (R419). -/
abbrev Reg.ethPortPcp (k : Nat) : Nat := 0x700008 + k * 0x100
/-- ETH_GCL_CYCLE[k] (R419). -/
abbrev Reg.ethGclCycle (k : Nat) : Nat := 0x70000C + k * 0x100
/-- ETH_GCL_BASE_LO[k] (R419). -/
abbrev Reg.ethGclBaseLo (k : Nat) : Nat := 0x700010 + k * 0x100
/-- ETH_GCL_BASE_HI[k] (R419). -/
abbrev Reg.ethGclBaseHi (k : Nat) : Nat := 0x700014 + k * 0x100
/-- ETH_GCL_LEN[k] (R419). -/
abbrev Reg.ethGclLen (k : Nat) : Nat := 0x700018 + k * 0x100
/-- ETH_PORT_ACT_DROP[k] (R419). -/
abbrev Reg.ethPortActDrop (k : Nat) : Nat := 0x70001C + k * 0x100
/-- ETH_TP_CFG (R421). -/
abbrev Reg.ethTpCfg : Nat := 0x700400
/-- ETH_TP_RTO (R421). -/
abbrev Reg.ethTpRto : Nat := 0x700404
/-- ETH_TP_STATUS (R421). -/
abbrev Reg.ethTpStatus : Nat := 0x700408
/-- ETH_TP_DUP (R421). -/
abbrev Reg.ethTpDup : Nat := 0x70040C
/-- ETH_TP_OOW (R421). -/
abbrev Reg.ethTpOow : Nat := 0x700410
/-- ETH_TP_NOBUF (R421). -/
abbrev Reg.ethTpNobuf : Nat := 0x700414
/-- ETH_TP_RETX (R421). -/
abbrev Reg.ethTpRetx : Nat := 0x700418
/-- ETH_TP_BADHDR (R421). -/
abbrev Reg.ethTpBadhdr : Nat := 0x70041C
/-- ETH_TP_UDPPORT (R421). -/
abbrev Reg.ethTpUdpport : Nat := 0x700420
/-- ETH_PORT_OTHER (R421). -/
abbrev Reg.ethPortOther : Nat := 0x700424
/-- ETH_PORT_MSEC_DROP (R421). -/
abbrev Reg.ethPortMsecDrop : Nat := 0x700428
/-- ETH_TSN_CFG (R421). -/
abbrev Reg.ethTsnCfg : Nat := 0x70042C
/-- ETH_GCL_GATE[k] (R420). -/
abbrev Reg.ethGclGate (k : Nat) : Nat := 0x701000 + k * 0x8
/-- ETH_GCL_IVL[k] (R420). -/
abbrev Reg.ethGclIvl (k : Nat) : Nat := 0x701004 + k * 0x8
/-- ETH_QCI_FILTER_A[k] (R422). -/
abbrev Reg.ethQciFilterA (k : Nat) : Nat := 0x703000 + k * 0x4
/-- ETH_QCI_GATE_A[k] (R422). -/
abbrev Reg.ethQciGateA (k : Nat) : Nat := 0x703200 + k * 0x4
/-- ETH_QAV_A[k] (R422). -/
abbrev Reg.ethQavA (k : Nat) : Nat := 0x703600 + k * 0x4
/-- ETH_CB_A[k] (R422). -/
abbrev Reg.ethCbA (k : Nat) : Nat := 0x703610 + k * 0x4
/-- ETH_AE_A[k] (R422). -/
abbrev Reg.ethAeA (k : Nat) : Nat := 0x703620 + k * 0x4
/-- ETH_QCI_FILTER_B[k] (R422). -/
abbrev Reg.ethQciFilterB (k : Nat) : Nat := 0x703800 + k * 0x4
/-- ETH_QCI_GATE_B[k] (R422). -/
abbrev Reg.ethQciGateB (k : Nat) : Nat := 0x703A00 + k * 0x4
/-- ETH_QAV_B[k] (R422). -/
abbrev Reg.ethQavB (k : Nat) : Nat := 0x703E00 + k * 0x4
/-- ETH_CB_B[k] (R422). -/
abbrev Reg.ethCbB (k : Nat) : Nat := 0x703E10 + k * 0x4
/-- ETH_AE_B[k] (R422). -/
abbrev Reg.ethAeB (k : Nat) : Nat := 0x703E20 + k * 0x4
/-- CNV_STATUS (R255). -/
abbrev Reg.cnvStatus : Nat := 0x800000
/-- CNV_OPS_LO (R255). -/
abbrev Reg.cnvOpsLo : Nat := 0x800008
/-- CNV_OPS_HI (R255). -/
abbrev Reg.cnvOpsHi : Nat := 0x80000C
/-- CNV_SATN_LO (R255). -/
abbrev Reg.cnvSatnLo : Nat := 0x800010
/-- CNV_SATN_HI (R255). -/
abbrev Reg.cnvSatnHi : Nat := 0x800014
/-- CNV_UNDER_LO (R255). -/
abbrev Reg.cnvUnderLo : Nat := 0x800018
/-- CNV_UNDER_HI (R255). -/
abbrev Reg.cnvUnderHi : Nat := 0x80001C
/-- CNV_RESC_LO (R255). -/
abbrev Reg.cnvRescLo : Nat := 0x800020
/-- CNV_RESC_HI (R255). -/
abbrev Reg.cnvRescHi : Nat := 0x800024
/-- CNV_BADS (R255). -/
abbrev Reg.cnvBads : Nat := 0x800028
/-- CNV_MISS (R255). -/
abbrev Reg.cnvMiss : Nat := 0x80002C
/-- CNV_TMO (R255). -/
abbrev Reg.cnvTmo : Nat := 0x800030
/-- CNV_LATE (R255). -/
abbrev Reg.cnvLate : Nat := 0x800034
/-- CNV_EARLY (R255). -/
abbrev Reg.cnvEarly : Nat := 0x800038
/-- CNV_BADOBS (R255). -/
abbrev Reg.cnvBadobs : Nat := 0x80003C
/-- CNV_LAST (R255). -/
abbrev Reg.cnvLast : Nat := 0x800040
/-- CNV_TAPWAIT (R255). -/
abbrev Reg.cnvTapwait : Nat := 0x800044
/-- CNV_ACT_CFG[k] (R256). -/
abbrev Reg.cnvActCfg (k : Nat) : Nat := 0x800400 + k * 0x10
/-- CNV_ACT_LEAD[k] (R256). -/
abbrev Reg.cnvActLead (k : Nat) : Nat := 0x800404 + k * 0x10
/-- CNV_CH_STAT[k] (R257). -/
abbrev Reg.cnvChStat (k : Nat) : Nat := 0x802000 + k * 0x4
/-- SYN_STATUS (R329). -/
abbrev Reg.synStatus : Nat := 0x900000
/-- SYN_WATCH_USED (R329). -/
abbrev Reg.synWatchUsed : Nat := 0x900004
/-- SYN_WATCH_PEAK (R329). -/
abbrev Reg.synWatchPeak : Nat := 0x900008
/-- SYN_BCN_LOST (R329). -/
abbrev Reg.synBcnLost : Nat := 0x90000C
/-- SYN_LAST (R329). -/
abbrev Reg.synLast : Nat := 0x900010
/-- SYN_BCN_RETRY (R329). -/
abbrev Reg.synBcnRetry : Nat := 0x900014
/-- SYN_BUOY[k] (R329). -/
abbrev Reg.synBuoy (k : Nat) : Nat := 0x910000 + k * 0x4
/-- MQ_Q_CFG0[k] (R330). -/
abbrev Reg.mqQCfg0 (k : Nat) : Nat := 0xA00000 + k * 0x20
/-- MQ_Q_CFG1[k] (R330). -/
abbrev Reg.mqQCfg1 (k : Nat) : Nat := 0xA00004 + k * 0x20
/-- MQ_Q_CFG2[k] (R330). -/
abbrev Reg.mqQCfg2 (k : Nat) : Nat := 0xA00008 + k * 0x20
/-- MQ_Q_CTRL[k] (R330). -/
abbrev Reg.mqQCtrl (k : Nat) : Nat := 0xA0000C + k * 0x20
/-- MQ_Q_GEN_LO[k] (R330). -/
abbrev Reg.mqQGenLo (k : Nat) : Nat := 0xA00010 + k * 0x20
/-- MQ_Q_GEN_HI[k] (R330). -/
abbrev Reg.mqQGenHi (k : Nat) : Nat := 0xA00014 + k * 0x20
/-- MQ_Q_FILL[k] (R330). -/
abbrev Reg.mqQFill (k : Nat) : Nat := 0xA00018 + k * 0x20
/-- MQ_Q_DISC[k] (R330). -/
abbrev Reg.mqQDisc (k : Nat) : Nat := 0xA0001C + k * 0x20
/-- MQ_STATUS (R331). -/
abbrev Reg.mqStatus : Nat := 0xA20000
/-- MQ_OPENING (R331). -/
abbrev Reg.mqOpening : Nat := 0xA20004
/-- PGV_CTRL (R442). -/
abbrev Reg.pgvCtrl : Nat := 0xB00000
/-- PGV_CAP (R442). -/
abbrev Reg.pgvCap : Nat := 0xB00004
/-- PGV_TCAP (R442). -/
abbrev Reg.pgvTcap : Nat := 0xB00008
/-- PGV_STATUS (R442). -/
abbrev Reg.pgvStatus : Nat := 0xB0000C
/-- PGV_LEVEL (R442). -/
abbrev Reg.pgvLevel : Nat := 0xB00010
/-- PGV_EST_TOTAL (R442). -/
abbrev Reg.pgvEstTotal : Nat := 0xB00014
/-- PGV_EST[k] (R442). -/
abbrev Reg.pgvEst (k : Nat) : Nat := 0xB00018 + k * 0x4
/-- PGV_MEAS (R442). -/
abbrev Reg.pgvMeas : Nat := 0xB00028
/-- PGV_TEMP (R442). -/
abbrev Reg.pgvTemp : Nat := 0xB0002C
/-- PGV_TLIM (R442). -/
abbrev Reg.pgvTlim : Nat := 0xB00030
/-- PGV_BUB_LO (R442). -/
abbrev Reg.pgvBubLo : Nat := 0xB00034
/-- PGV_BUB_HI (R442). -/
abbrev Reg.pgvBubHi : Nat := 0xB00038
/-- PGV_CAPFAIL_CNT (R442). -/
abbrev Reg.pgvCapfailCnt : Nat := 0xB0003C
/-- PGV_HINT (R442). -/
abbrev Reg.pgvHint : Nat := 0xB00040
/-- PGV_GAIN[k] (R443). -/
abbrev Reg.pgvGain (k : Nat) : Nat := 0xB00100 + k * 0x4
/-- PGV_VRM[k] (R443). -/
abbrev Reg.pgvVrm (k : Nat) : Nat := 0xB00120 + k * 0x4
/-- PGV_COEF[k] (R442). -/
abbrev Reg.pgvCoef (k : Nat) : Nat := 0xB01000 + k * 0x4
/-- LTN_PSCTRL (R461). -/
abbrev Reg.ltnPsctrl : Nat := 0xC00000
/-- LTN_PSSTAT (R461). -/
abbrev Reg.ltnPsstat : Nat := 0xC00004
/-- LTN_STATUS (R461). -/
abbrev Reg.ltnStatus : Nat := 0xC00008
/-- LTN_WAKEEN (R461). -/
abbrev Reg.ltnWakeen : Nat := 0xC0000C
/-- LTN_FWAKE_EN (R461). -/
abbrev Reg.ltnFwakeEn : Nat := 0xC00010
/-- LTN_FWAKE_MODE (R461). -/
abbrev Reg.ltnFwakeMode : Nat := 0xC00014
/-- LTN_FWAKE_SEND (R461). -/
abbrev Reg.ltnFwakeSend : Nat := 0xC00018
/-- LTN_WAKEREASON (R461). -/
abbrev Reg.ltnWakereason : Nat := 0xC0001C
/-- LTN_WAKELINK (R461). -/
abbrev Reg.ltnWakelink : Nat := 0xC00020
/-- LTN_TCNT (R461). -/
abbrev Reg.ltnTcnt : Nat := 0xC00024
/-- LTN_TCMP (R461). -/
abbrev Reg.ltnTcmp : Nat := 0xC00028
/-- LTN_WKWIN (R461). -/
abbrev Reg.ltnWkwin : Nat := 0xC0002C
/-- LTN_PGTMO (R461). -/
abbrev Reg.ltnPgtmo : Nat := 0xC00030
/-- LTN_WAKEMAC_LO (R461). -/
abbrev Reg.ltnWakemacLo : Nat := 0xC00034
/-- LTN_WAKEMAC_HI (R461). -/
abbrev Reg.ltnWakemacHi : Nat := 0xC00038
/-- LTN_LISTEN_CNT (R461). -/
abbrev Reg.ltnListenCnt : Nat := 0xC0003C
/-- LTN_LOAD (R461). -/
abbrev Reg.ltnLoad : Nat := 0xC00040
/-- LTN_WATCH[k] (R461). -/
abbrev Reg.ltnWatch (k : Nat) : Nat := 0xC00100 + k * 0x4
/-- LTN_WPAT[k] (R461). -/
abbrev Reg.ltnWpat (k : Nat) : Nat := 0xC00180 + k * 0x4
/-- IRQ_PEND[k] (R499). -/
abbrev Reg.irqPend (k : Nat) : Nat := 0xD00000 + k * 0x4
/-- IRQ_EN[k] (R499). -/
abbrev Reg.irqEn (k : Nat) : Nat := 0xD00040 + k * 0x4
/-- IRQ_FWD[k] (R499). -/
abbrev Reg.irqFwd (k : Nat) : Nat := 0xD00080 + k * 0x4
/-- IRQ_ACTIVE[k] (R499). -/
abbrev Reg.irqActive (k : Nat) : Nat := 0xD000C0 + k * 0x4
/-- IRQ_CLAIM (R499). -/
abbrev Reg.irqClaim : Nat := 0xD00100
/-- IRQ_DONE (R499). -/
abbrev Reg.irqDone : Nat := 0xD00104
/-- IRQ_MERGED (R499). -/
abbrev Reg.irqMerged : Nat := 0xD00108
/-- IRQ_LASTM (R499). -/
abbrev Reg.irqLastm : Nat := 0xD0010C
/-- TMR_TB_LO (R510). -/
abbrev Reg.tmrTbLo : Nat := 0xE00000
/-- TMR_TB_HI (R510). -/
abbrev Reg.tmrTbHi : Nat := 0xE00004
/-- TMR_TB_RATE (R510). -/
abbrev Reg.tmrTbRate : Nat := 0xE00008
/-- TMR_TB_STEP (R510). -/
abbrev Reg.tmrTbStep : Nat := 0xE0000C
/-- TMR_TB_STAT (R510). -/
abbrev Reg.tmrTbStat : Nat := 0xE00010
/-- TMR_TB_STEPS (R510). -/
abbrev Reg.tmrTbSteps : Nat := 0xE00014
/-- TMR_GSTART (R510). -/
abbrev Reg.tmrGstart : Nat := 0xE00020
/-- TMR_GSTOP (R510). -/
abbrev Reg.tmrGstop : Nat := 0xE00024
/-- TMR_CTRL[k] (R510). -/
abbrev Reg.tmrCtrl (k : Nat) : Nat := 0xE01000 + k * 0x20
/-- TMR_COUNT[k] (R510). -/
abbrev Reg.tmrCount (k : Nat) : Nat := 0xE01004 + k * 0x20
/-- TMR_PERIOD[k] (R510). -/
abbrev Reg.tmrPeriod (k : Nat) : Nat := 0xE01008 + k * 0x20
/-- TMR_CMP0[k] (R510). -/
abbrev Reg.tmrCmp0 (k : Nat) : Nat := 0xE0100C + k * 0x20
/-- TMR_CMP1[k] (R510). -/
abbrev Reg.tmrCmp1 (k : Nat) : Nat := 0xE01010 + k * 0x20
/-- TMR_STAT[k] (R510). -/
abbrev Reg.tmrStat (k : Nat) : Nat := 0xE01014 + k * 0x20
/-- TMR_CAPT[k] (R510). -/
abbrev Reg.tmrCapt (k : Nat) : Nat := 0xE01018 + k * 0x20
/-- SEC_STATUS (R531). -/
abbrev Reg.secStatus : Nat := 0xF00000
/-- SEC_TAMPER (R531). -/
abbrev Reg.secTamper : Nat := 0xF00004
/-- SEC_EVENT (R531). -/
abbrev Reg.secEvent : Nat := 0xF00008
/-- SEC_REQ (R531). -/
abbrev Reg.secReq : Nat := 0xF0000C
/-- SEC_NONCE[k] (R531). -/
abbrev Reg.secNonce (k : Nat) : Nat := 0xF00010 + k * 0x4
/-- SEC_FWHASH[k] (R531). -/
abbrev Reg.secFwhash (k : Nat) : Nat := 0xF00080 + k * 0x4
/-- PTB_CTRL (R538). -/
abbrev Reg.ptbCtrl : Nat := 0x1000000
/-- PTB_STATUS (R538). -/
abbrev Reg.ptbStatus : Nat := 0x1000004
/-- PTB_COUNT (R538). -/
abbrev Reg.ptbCount : Nat := 0x1000008
/-- PTB_START_LO (R538). -/
abbrev Reg.ptbStartLo : Nat := 0x100000C
/-- PTB_START_HI (R538). -/
abbrev Reg.ptbStartHi : Nat := 0x1000010
/-- PTB_STOP_LO (R538). -/
abbrev Reg.ptbStopLo : Nat := 0x1000014
/-- PTB_STOP_HI (R538). -/
abbrev Reg.ptbStopHi : Nat := 0x1000018
/-- PTB_LAT[k] (R538). -/
abbrev Reg.ptbLat (k : Nat) : Nat := 0x1000020 + k * 0x4
/-- PTB_CRED (R538). -/
abbrev Reg.ptbCred : Nat := 0x1000030
/-- PTB_CRED_LINKS (R538). -/
abbrev Reg.ptbCredLinks : Nat := 0x1000034
/-- PTB_REPLAY (R538). -/
abbrev Reg.ptbReplay : Nat := 0x1000038
/-- PTB_REPLAY_LINKS (R538). -/
abbrev Reg.ptbReplayLinks : Nat := 0x100003C
/-- PTB_BUOYDLY (R538). -/
abbrev Reg.ptbBuoydly : Nat := 0x1000040
/-- PTB_STRETCH (R538). -/
abbrev Reg.ptbStretch : Nat := 0x1000044
/-- PTB_ARB (R538). -/
abbrev Reg.ptbArb : Nat := 0x1000048
/-- PTB_HBMREF (R538). -/
abbrev Reg.ptbHbmref : Nat := 0x100004C
/-- PTB_HELD (R538). -/
abbrev Reg.ptbHeld : Nat := 0x1000050
/-- BUD_STATE (R488). -/
abbrev Reg.budState : Nat := 0x1100000
/-- BUD_TIME (R488). -/
abbrev Reg.budTime : Nat := 0x1100004
/-- BUD_DEVNUM (R488). -/
abbrev Reg.budDevnum : Nat := 0x1100008
/-- BUD_DEVID_LO (R488). -/
abbrev Reg.budDevidLo : Nat := 0x110000C
/-- BUD_DEVID_HI (R488). -/
abbrev Reg.budDevidHi : Nat := 0x1100010
/-- BUD_CAP (R488). -/
abbrev Reg.budCap : Nat := 0x1100014
/-- BUD_FUSE (R488). -/
abbrev Reg.budFuse : Nat := 0x1100018
/-- BUD_LMAP_CRC (R488). -/
abbrev Reg.budLmapCrc : Nat := 0x110001C
/-- BUD_LMAP_CORE[k] (R489). -/
abbrev Reg.budLmapCore (k : Nat) : Nat := 0x1100100 + k * 0x4
/-- BUD_LMAP_SLICE[k] (R489). -/
abbrev Reg.budLmapSlice (k : Nat) : Nat := 0x1100140 + k * 0x4
/-- BUD_PHYS_CORE[k] (R490). -/
abbrev Reg.budPhysCore (k : Nat) : Nat := 0x1100200 + k * 0x4
/-- BUD_PHYS_SLICE[k] (R490). -/
abbrev Reg.budPhysSlice (k : Nat) : Nat := 0x1100280 + k * 0x4
/-- BUD_LNK_TOPO[k] (R491). -/
abbrev Reg.budLnkTopo (k : Nat) : Nat := 0x1100400 + k * 0x4
/-- BUD_FF_INFO (R492). -/
abbrev Reg.budFfInfo : Nat := 0x1100500
/-- BUD_FF_STEP_LO (R492). -/
abbrev Reg.budFfStepLo : Nat := 0x1100504
/-- BUD_FF_STEP_HI (R492). -/
abbrev Reg.budFfStepHi : Nat := 0x1100508
/-- BUD_FF_SNAP_LO (R492). -/
abbrev Reg.budFfSnapLo : Nat := 0x110050C
/-- BUD_FF_SNAP_HI (R492). -/
abbrev Reg.budFfSnapHi : Nat := 0x1100510
/-- BUD_FF_GAP (R492). -/
abbrev Reg.budFfGap : Nat := 0x1100514
/-- BUD_FF_COUNT (R492). -/
abbrev Reg.budFfCount : Nat := 0x1100518

end Sys2Proof.Machine
end

