-- ==== Sys2Proof/Machine/State.lean ====
section
/-! DEFINITION. Machine/State.lean: everything the spec gives one Joryon device, as plain data, and the state right after
reset. Registers that software reads and writes whole stand in `regs`, keyed by their full management address (R13);
state the chapters name without a register of its own stands in the records below. -/

namespace Sys2Proof.Machine

/-- A table by number: entries in strictly rising key order, none equal to what an unlisted key reads as. -/
abbrev Tab (α : Type) := List (Nat × α)

/-! ## Results that are no next state -/

/-- Why the machine stops. -/
inductive Fault where
  /-- Raised by every command but a reset after THERMTRIP (R438): the spec calls the device state undefined. Safe. -/
  | thermalTrip
  /-- Raised by every command but PORST_N after SYSCLK is lost (R547): undefined until PORST_N. Safe. -/
  | sysclkLost
deriving DecidableEq, Repr

/-- Why the model gives no meaning. -/
inductive Refusal where
  /-- Raised by Dispatch for a row that has no meaning yet. Safe. -/
  | notModelled (mnemonic : String)
deriving DecidableEq, Repr

/-! ## Contexts and bindings -/

/-- A record held for a parked or gated context (R28, R217), with its remaining delay. -/
structure HeldRec where
  core   : BitVec 10
  matrix : BitVec 8
  row    : BitVec 16
  cnt    : BitVec 3
  delay  : Nat
deriving DecidableEq, Repr

/-- A context descriptor (R26), the modulators latched at step start (R59), the gate (R176) and the held list (R217). -/
structure Ctx where
  valid    : Bool
  res      : BitVec 2
  frozen   : Bool
  binding  : BitVec 6
  base     : BitVec 48
  cidx     : BitVec 18
  cstep    : BitVec 48
  mod0     : Word
  mod1     : Word
  mod2     : Word
  mod3     : Word
  cnvFirst : BitVec 12
  cnvCount : BitVec 13
  lat0     : Word
  lat1     : Word
  lat2     : Word
  lat3     : Word
  gated    : Bool
  held     : List HeldRec
deriving DecidableEq, Repr

/-- A STEP or RUN in the step queue (R283): who issued it, the steps left (none for an unbounded RUN), the steps run
the highest status met (R284) and the groups whose AUTO apply it waits for (R183). -/
structure StepCmd where
  hdr    : Hdr
  cseq   : Word64
  opcode : Byte
  left   : Option Nat
  ran    : Nat
  status : Byte
  waits  : List (BitVec 8)
deriving DecidableEq, Repr

/-- A boundary command that waits for its boundary (R270), with its CSEQ and the DATA bytes it took at issue (R265). -/
structure Deferred where
  cmd   : Instr
  cseq  : Word64
  data  : List Byte
deriving DecidableEq, Repr

/-- One binding (R23, R276) with its step sequence (R30), its step queue (R283) and its step buoy (R36, R221). On a member device `met` is
the highest status met in its steps that its step signal has not yet told the lead (R183, R284); `farOpen` are the groups without a rule on
this device whose apply windows are open on other devices, and whether they are AUTO (R177). -/
structure Binding where
  valid      : Bool
  lead       : BitVec 6
  mask       : Word64
  seed       : Word64
  joined     : List Nat
  joinWait   : Option (Hdr × Word64)
  joinsHeld  : List (BitVec 6 × Word64)
  step       : BitVec 48
  running    : Bool
  waitSlot   : Bool
  slotAt     : Word64
  halting    : Bool
  haltBy     : List (Hdr × Word64 × Nat)
  queue      : List StepCmd
  signals    : List Nat
  signalled  : Bool
  covered    : Option (BitVec 8)
  gates      : List (BitVec 8 × Bool)
  votes      : List (Nat × Nat × Nat × List Int)
  epochsOut  : List (BitVec 8 × BitVec 24 × BitVec 48)
  startedAt  : Word64
  modeIn     : BitVec 2
  lenIn      : Word
  periodIn   : Word
  phaseIn    : Word
  limitIn    : Byte
  extraIn    : BitVec 24
  rampIn     : BitVec 6
  overran    : Bool
  windowOpen : Bool
  applies    : List (BitVec 8 × Hdr × Word64)
  outPkts    : Nat
  boundary   : List Deferred
  samples    : List (Hdr × Word64 × Word64)
  snapStep   : Option (BitVec 48)
  spill      : Nat
  recovering : Bool
  lastHeld   : Word
  met        : Byte
  farOpen    : List (BitVec 8 × Bool)
deriving DecidableEq, Repr

/-! ## Command streams -/

/-- An outstanding command of a stream (R267): its place in the global issue order, and the SCOPE of a FENCE (R272) or the path of a
write that a SIGNAL follows (R308). -/
structure Outst where
  cseq   : Word64
  opcode : Byte
  hdr    : Hdr
  order  : Nat
  arg    : Nat
deriving DecidableEq, Repr

/-- One command stream (R258, R261, R301): its binding and freeze, the next CSEQ to give, the commands delivered that wait to issue,
those outstanding, its DATA frames, TAG, OFFSET and bytes, in order of SEQ (R265), and the devices to which it has copied on VC2 (R308). -/
structure Stream where
  bound      : Bool
  binding    : BitVec 6
  frozen     : Bool
  cseq       : Word64
  lastStatus : Byte
  lastOpcode : Byte
  frzCause   : Byte
  frzOpcode  : Byte
  held       : List (Word64 × Instr)
  outst      : List Outst
  data       : List (Word × Nat × List Byte)
deriving DecidableEq, Repr

/-- A COPY in packet mode or a RECV whose writes to another device have left and are not acknowledged (R289, R324, R382): its destination, the
device, how many packets to it on VC2, its own last among them, are not acknowledged, and what it completes with. -/
structure FarWrite where
  hdr    : Hdr
  cseq   : Word64
  opcode : Byte
  dst    : Word64
  len    : Nat
  dev    : BitVec 6
  left   : Nat
  status : Byte
  result : Nat
  queue  : BitVec 12
deriving DecidableEq, Repr

/-- A completion record (R262) on its way to the transport. -/
structure Cpl where
  cseq   : Word64
  opcode : Byte
  status : Byte
  stream : BitVec 8
  result : BitVec 40
deriving DecidableEq, Repr

/-! ## Cores -/

/-- The phase of a core within a step (R32). -/
inductive Phase where
  | idle | integrate | neuron | emit | done
deriving DecidableEq, Repr

/-- One lane of the neuron engine: the instance it holds, V[0] to V[15], the fire count (R64), whether its count rises in EXC
(R77) and the working copy of the record (R65). A lane without an instance (R61), or whose record was uncorrectable (R90), is
not active. -/
structure Lane where
  active : Bool
  ctx    : Nat
  cidx   : BitVec 18
  idx    : Nat
  v      : Vector Word (2 ^ 4)
  n      : Nat
  exc    : Bool
  wrec   : List (BitVec 16)
deriving DecidableEq, Repr

/-- A firing instance on its way to the route unit (R76) and to the learning pass (R165). -/
structure Firing where
  slot : Nat
  cidx : BitVec 18
  idx  : Nat
  n    : Nat
deriving DecidableEq, Repr

/-- An event in an inbox or a ring (R198, R213): matrix, row, CIDX, count and the FIXED flag of its packet. -/
structure Ev where
  matrix : BitVec 8
  row    : BitVec 16
  cidx   : Nat
  cnt    : BitVec 3
  fixed  : Bool
deriving DecidableEq, Repr

/-- A merged addition (R101). -/
structure Addn where
  matrix : BitVec 8
  row    : BitVec 16
  cidx   : Nat
  count  : Nat
deriving DecidableEq, Repr

/-- A window of a tile (R103, R107): the tile's slot, its contexts and the additions left, in issue order. -/
structure Window where
  slot  : Nat
  ctxs  : List Nat
  todo  : List Addn
deriving DecidableEq, Repr

/-- A BERTH command that has not completed (R116, R288). -/
structure BerthCmd where
  hdr     : Hdr
  cseq    : Word64
  matrix  : BitVec 8
  circuit : BitVec 8
  b       : BitVec 1
  first   : BitVec 48
  last    : BitVec 48
  order   : Nat
deriving DecidableEq, Repr

/-- A berth (R114, R115): its lines, its state 0 EMPTY, 1 FILLING, 2 READY, 3 SPENT, the matrix, the step range, whether
the fill fell back to packet mode, and the BERTH whose fill is under way. -/
structure Berth where
  base   : BitVec 14
  lines  : BitVec 14
  state  : BitVec 2
  matrix : BitVec 8
  first  : BitVec 48
  last   : BitVec 48
  packet : Bool
  cur    : Option BerthCmd
deriving DecidableEq, Repr

/-- One logical core. `rowBuf` names the rows of the eight-row buffer by address and length, an entry each, the least recently used first
(R109). `entry` counts the route entries issued of the firing instance in expansion (R208), `spilled` names the spill pages
that the inbox has been written back to (R219). -/
structure Core where
  bound    : Bool
  binding  : BitVec 6
  frozen   : Bool
  phase    : Phase
  slot     : Nat
  pos      : Nat
  lanes    : List Lane
  inbox    : List Ev
  windows  : List Window
  acc      : Tab Int
  rowBuf   : List (Nat × Nat)
  fetched  : Nat
  adds     : List Addn
  fired    : List Firing
  firing   : List Firing
  learnDue : Bool
  openPkts : List Packet
  holding  : List Packet
  msgs     : List (List Word)
  berth0   : Berth
  berth1   : Berth
  berthQ   : List BerthCmd
  entry    : Nat
  spilled  : List Nat
deriving DecidableEq, Repr

/-- A program slot (R83): the header of R67, instructions and constants, and POFF (R282). -/
structure Slot where
  binding : BitVec 6
  header  : List Word
  prog    : List Word
  consts  : List Word
  poff    : BitVec 24
deriving DecidableEq, Repr

/-- An exact dyadic number m × 2^e: a source value of a conversion (R140). -/
structure Dy where
  m : Int
  e : Int
deriving DecidableEq, Repr

/-- What a rule keeps besides its entry, its delta region and its registers (R175-R190): the epochs applied since EPOCH_BASE
was set; in the apply window the (member, chunk) pairs added (R388), the reduced deltas by row × 8,192 + column, the chunks
computed, sent and committed, the new rows and the worst status; the target cores whose votes have been made, when the window opened and
whether an APPLY resumed it; the timing accumulators as the window opened and, at the home member, the vote vector (R186, R187); and in overlap apply
whether one is in progress, the rows written, OVL_ROWS, NROWS and the binding's step at its start. -/
structure Reduction where
  epoch     : Nat
  got       : List (Nat × Nat)
  sums      : Tab Dy
  computed  : Nat
  sent      : Nat
  committed : Nat
  staged    : List (Nat × List Byte)
  status    : Byte
  voted     : List Nat
  tsums     : List Int
  vote      : List Int
  openedAt  : Word64
  resumed   : Bool
  ovl       : Bool
  written   : Nat
  perStep   : Nat
  rows      : Nat
  openStep  : BitVec 48
deriving DecidableEq, Repr

/-! ## Router -/

/-- An entry of the system core map (R22): the device that holds the number, its logical core there, and PRESENT. -/
structure SysCore where
  dev     : BitVec 6
  core    : Nat
  present : Bool
deriving DecidableEq, Repr

/-! ## Converters -/

/-- A converter channel: its descriptor words (R235), the preference table of POPV, its binding and freeze (R234). -/
structure Chan where
  bound   : Bool
  binding : BitVec 6
  frozen  : Bool
  desc    : List Word
deriving DecidableEq, Repr

/-- The state of a channel instance (R233): sample slots, encoder state, carried scales, decoder history, computed and emitted
values, the step of its last decode and the step whose decode is due; the records of its encode not yet emitted (target, row offset,
count; R244), and whether its values were kept over a CHANCFG (R237) or its bank has been cleared. -/
structure Inst where
  slots    : List (Nat × BitVec 48 × BitVec 8 × List Byte)
  state    : List Int
  lastU    : List Nat
  scales   : Option (List Nat × List Nat)
  encoded  : Option (BitVec 48)
  waiting  : Bool
  hist     : List (List Nat)
  filt     : BitVec 48
  first    : Option Nat
  v        : Int
  e        : Int
  mode     : BitVec 2
  gates    : Nat
  renewed  : Bool
  decodedAt : Option (BitVec 48)
  due      : Option (BitVec 48)
  left     : List (Nat × Nat × Nat)
  kept     : Bool
deriving DecidableEq, Repr

/-- A decoder tap in the engine's buffer (R246). -/
structure Tap where
  channel : BitVec 12
  cidx    : BitVec 18
  neuron  : Nat
  n       : Nat
deriving DecidableEq, Repr

/-- A DECODE that waits for the next decode (R292); `ended` once a step has ended after its issue. -/
structure DecodeReq where
  hdr     : Hdr
  cseq    : Word64
  channel : BitVec 12
  cfirst  : BitVec 18
  count   : Nat
  dst     : Word64
  ended   : Bool
deriving DecidableEq, Repr

/-- A value of a taken ACT frame: its channel, whether its context covers that channel, MODE, whether it is SAFE_VALUE, the step of its last
decode, and its bytes (R251). -/
structure ActVal where
  chan    : BitVec 12
  here    : Bool
  mode    : BitVec 2
  safe    : Bool
  decoded : Option (BitVec 48)
  bytes   : List Byte
deriving DecidableEq, Repr

/-- What an ACT frame entry keeps besides its registers (R250, R256, R416): the pending register writes, the CFIRST, the channels and the values taken at the
snapshot (one row for each context), and the SEQ of its next frame. -/
structure ActFrame where
  cfgNext  : Option Word
  leadNext : Option Word
  frame    : Option (BitVec 18 × List (BitVec 12) × List (List ActVal))
  seq      : Word
deriving DecidableEq, Repr

/-! ## Sync unit and queues -/

/-- A wait entry (R309). -/
structure WaitE where
  dev    : BitVec 6
  stream : BitVec 8
  cseq   : Word64
  buoy   : BitVec 16
  take   : Bool
  eq     : Bool
  value  : Word
  expiry : Option Nat
  reg    : Nat
  binding : BitVec 6
deriving DecidableEq, Repr

/-- A watch entry (R310), with the beacon it holds until that is delivered (R316), and whether the beacon is on its way to another
device. -/
structure WatchE where
  num     : Nat
  binding : BitVec 6
  dev     : BitVec 6
  stream  : BitVec 8
  buoy    : BitVec 16
  eq      : Bool
  value   : Word
  core    : BitVec 10
  cookie  : Word64
  expiry  : Option Nat
  beacon  : Option (Byte × Word)
  sent    : Bool
  reg     : Nat
deriving DecidableEq, Repr

/-- A SIGNAL that waits for its markers or, with none left, for PTB_BUOYDLY (R308, R535), and the device of its buoy. -/
structure SigWait where
  target  : BitVec 6
  req     : BuoyReq
  markers : Nat
deriving DecidableEq, Repr

/-- A message queue (R318): binding, state 0 CLOSED, 1 OPENING, 2 OPEN, GEN, and the ring's head and tail. -/
structure Queue where
  bound    : Bool
  binding  : BitVec 6
  state    : BitVec 2
  cause    : BitVec 3
  refused  : Bool
  gen      : Word64
  head     : Nat
  tail     : Nat
  fill     : Nat
  early    : List (Nat × Nat)
deriving DecidableEq, Repr

/-- A message on its way to a ring: its SEND (none for a wrap marker), the GEN and ring offset it carries, and its words. -/
structure SentMsg where
  cmd    : Option (Hdr × Word64)
  gen    : Word64
  offset : Nat
  words  : List Word64
deriving DecidableEq, Repr

/-- A writer interface (R319, R321): whether a close has closed it since its last grant, and the messages sent and not
answered. -/
structure Writer where
  isOpen  : Bool
  closed  : Bool
  binding : BitVec 6
  stream  : BitVec 8
  gen     : Word64
  rsize   : Nat
  credit  : Nat
  tail    : Nat
  sent    : List SentMsg
deriving DecidableEq, Repr

/-- A RECV that waits (R291, R324). -/
structure RecvE where
  queue  : BitVec 12
  hdr    : Hdr
  cseq   : Word64
  dst    : Word64
  expiry : Option Nat
deriving DecidableEq, Repr

/-! ## Fabric -/

/-- A packet in a replay buffer (R374): its LSEQ, the packet and how often it was replayed. -/
structure Unacked where
  lseq    : BitVec 12
  pkt     : FabPkt
  replays : Nat
deriving DecidableEq, Repr

/-- What a link's present frame of 64 slots has given (R373): free slots in all, of them to VC1 and to VC2, and the slots of each circuit
(source × 256 + number), with what a packet took beyond an earlier frame's. -/
structure LinkFrame where
  used  : Nat
  given : Nat × Nat
  circs : Tab Nat
deriving DecidableEq, Repr

/-- One link (R372, R374): sequence numbers, whether what it expects has been asked for again, the LSEQ after the latest it has seen,
the replay buffer, the packets that
wait for it, the credits in use by VC and hop class, packets received since its last ACK, the width a training has passed at (R472),
the count of PTB_REPLAY, the turns VC1 and VC2 have had and the frame it transmits in (R373). -/
structure Link where
  txSeq   : BitVec 12
  rxSeq   : BitVec 12
  nakSent : Bool
  seen    : BitVec 12
  unacked : List Unacked
  waiting : List FabPkt
  used    : Tab Nat
  sinceAck : Nat
  passed  : BitVec 2
  forced  : Nat
  turn    : Nat
  frame   : LinkFrame
deriving DecidableEq, Repr

/-- End-to-end state towards one device on one VC (R379, R380): the next number, packets retained and packets that wait for the
store; L, the numbers above it that have come, packets in the reorder buffer, packets since the last E2EACK and whether L has
advanced since it. -/
structure E2E where
  txNext   : BitVec 16
  retained : List (BitVec 16 × FabPkt)
  waiting  : List FabPkt
  low      : BitVec 16
  got      : List (BitVec 16)
  reorder  : List FabPkt
  sinceAck : Nat
  advanced : Bool
deriving DecidableEq, Repr

/-- A transfer of an apply window between two members (R558): the packed delta rows of a chunk, from a member (R178); new row segments of a
chunk, each its row, its global segment and its packed blocks (R182); timing accumulators from a member (R186); the votes on a target
core's rows and the first step that reads the delays they give (R187, R188). -/
inductive Xfer where
  | deltas (member chunk : Nat) (rows : List (Nat × List Byte))
  | newRows (chunk : Nat) (rows : List (Nat × Nat × List Byte))
  | sums (member first : Nat) (t : List Int)
  | votes (target due : Nat) (v : List (BitVec 2))
deriving DecidableEq, Repr

/-- Transfers that a circuit carries (R558): the sending core, the matrix, the receiving device and core, and the transfers, a chunk
each. -/
structure Carried where
  core   : BitVec 10
  matrix : BitVec 8
  dev    : BitVec 6
  dst    : BitVec 10
  xs     : List Xfer
deriving DecidableEq, Repr

/-- A flow on a circuit (R289, R386, R558): a COPY's command (none for an apply window's transfers, which `learn` names), its bytes, and
the chunks not yet acknowledged, each with its number, its destination and its bytes; where its source range starts in this device's memory
(none where the bytes come from elsewhere), its place in the global issue order (R384), and whether it is under way. -/
structure Flow where
  cmd    : Option (Hdr × Word64)
  bytes  : Nat
  chunks : List (BitVec 18 × Word64 × List Byte)
  learn  : Option Carried
  src    : Option Nat
  order  : Nat
  going  : Bool
deriving DecidableEq, Repr

/-- A circuit (R384): its binding, the copies that use it in issue order, the first of them under way; at the receiver, the flow it
receives and the chunks of it that are acknowledged. -/
structure Circuit where
  bound    : Bool
  binding  : BitVec 6
  flows    : List Flow
  inFlow   : Word64
  received : List (BitVec 18)
deriving DecidableEq, Repr

/-! ## Transport -/

/-- A sequence space (R403-R406), both directions: where the latest frame accepted came from, EXP, the frames accepted above it, whether an
ACK is owed, the next SEQ sent, the frames kept with how often each was re-sent, which reply answered which request, and the frames that wait
while 1,024 are kept, each with whether it is a NOTICE (R406). -/
structure Space where
  host    : HostTo
  exp     : Word
  held    : List TFrame
  ackDue  : Bool
  txNext  : Word
  kept    : List (Word × Nat)
  replies : List (Word × Word)
  unsent  : List Bool
deriving DecidableEq, Repr

/-- A notice record (R411). -/
structure Notice where
  kind : Byte
  dev  : BitVec 6
  time : Word64
  body : List Byte
deriving DecidableEq, Repr

/-- What leaves the device towards the host or another device. -/
inductive Out where
  | completions (stream : BitVec 8) (recs : List Cpl)
  | data (stream : BitVec 8) (tag : Word) (bytes : List Byte)
  | mgmtReply (read : Bool) (entries : List (Word × Word × Byte))
  | hostFrame (host : HostTo) (key : Nat) (seq : Word)
  | ackFrame (host : HostTo) (key : Nat) (exp : Word) (above : List Nat)
  | resend (host : HostTo) (key : Nat) (seq : Word)
  | notice (n : Notice)
  | act (port : BitVec 1) (frame : BitVec 8) (seq : Word) (rtag : Option (BitVec 16)) (bytes : List Byte)
  | stepSignal (b : BitVec 6) (lead : BitVec 6) (step : BitVec 20) (gates : List (BitVec 8 × Bool)) (status : Byte)
  | stepEnd (b : BitVec 6) (step : BitVec 48) (next : Option Word64) (gates : List (BitVec 8 × Bool))
      (epochs : List (BitVec 8 × BitVec 24 × BitVec 48))
  | stepStart (b : BitVec 6) (step : BitVec 48) (slot : Word64) (epochs : List (BitVec 8 × BitVec 24 × BitVec 48))
  | haltAll (b lead : BitVec 6) (leaves : Bool)
  | join (b : BitVec 6) (lead : BitVec 6) (mask : Word64)
  | joinAnswer (b : BitVec 6) (dev : BitVec 6) (ok : Bool)
  | packet (pkt : Packet)
  | accept (dev : BitVec 6) (core : BitVec 10)
  | buoy (dev : BitVec 6) (o : BuoyReq)
  | waitDone (b : BitVec 6) (dev : BitVec 6) (stream : BitVec 8) (cseq : Word64) (status : Byte) (value : Word)
  | beacon (core : BitVec 10) (b : BitVec 6) (watch : Nat) (words : List Word)
  | beaconAnswer (b : BitVec 6) (dev : BitVec 6) (watch : Nat) (status : Byte)
  | queueNotice (core : BitVec 10) (words : List Word)
  | grant (dev : BitVec 6) (queue : BitVec 12) (gen : Word64) (rsize : Nat)
  | grantAnswer (dev : BitVec 6) (queue : BitVec 12) (ok : Bool)
  | message (dev : BitVec 6) (queue : BitVec 12) (gen : Word64) (offset : Nat) (words : List Word64)
  | credit (dev : BitVec 6) (queue : BitVec 12) (gen : Word64) (words : Nat)
  | sendDone (dev : BitVec 6) (queue : BitVec 12) (ok : Bool)
  | closeNotice (dev : BitVec 6) (queue : BitVec 12)
  | xfer (circuit : Option (BitVec 8)) (dev : BitVec 6) (core : BitVec 10) (matrix : BitVec 8) (x : Xfer)
  | applyPending (b : BitVec 6) (group : BitVec 8)
  | applyDone (b : BitVec 6) (group : BitVec 8) (auto : Bool) (status : Byte) (epoch : Nat)
  | link (l : BitVec 5) (kind : BitVec 3) (lseq : BitVec 12)
  | linkCredit (l : BitVec 5) (vc cls : BitVec 2) (units : Nat)
  | linkPkt (l : BitVec 5) (lseq : BitVec 12) (pkt : FabPkt) (words : List Word)
  | e2eAck (dev : BitVec 6) (vc : BitVec 2) (low : BitVec 16)
  | bulk (dev : BitVec 6) (dst : Word64) (bytes : List Byte)
  | circChunk (c : BitVec 8) (flow : Word64) (chunk : BitVec 18) (dst : Word64) (bytes : List Byte)
  | circAnswer (dev : BitVec 6) (c : BitVec 8) (cause : BitVec 4)
  | chunkAck (dev : BitVec 6) (c : BitVec 8) (chunk : BitVec 18)
  | keeper (kind : Byte) (arg : Nat)
  | forward (f : TFrame)
  | secReply (kind : Byte) (status : Byte) (body : List Byte)
  | pin (name : Nat) (level : Bool)
  | sliceReply (port : BitVec 7) (status : Byte) (data : Word64)
  | hbmReply (addr : BitVec 38) (status : Byte) (bytes : List Byte)
  | fwake (l : BitVec 5)
  | handed (pkt : FabPkt)
deriving DecidableEq, Repr

/-- An item that the perturbation block holds (R535): what a link transmitter sends, or extra refreshes of a stack. -/
inductive Held where
  | out (o : Out)
  | refresh (stack : BitVec 2) (n : Nat)
  | step (b dev : BitVec 6) (step : BitVec 20) (gates : List (BitVec 8 × Bool)) (status : Byte)
deriving DecidableEq, Repr

/-! ## Management plane -/

/-- A registered hint (R294, R435). -/
structure Hint where
  binding : BitVec 6
  kind    : BitVec 4
  watts   : BitVec 12
  first   : Nat
  dur     : BitVec 16
deriving DecidableEq, Repr

/-- What the governor keeps besides its registers (R424-R440): hints, the levels computed, and by rail the power measured in µW and the
estimate in 2^-36 W summed since the last gain update, the samples and windows of those sums, failed reads in a row and frozen gains;
the board power of the current second, temperatures of the die sensors in half degrees and of the stacks, and the samples for which
the hottest sensor has been outside TBAND; the start levels of covered steps that have not started (binding, step, levels; R435); the units
that waited and the cores that worked at the last close, and whether the COMPUTE level has stood since; and PGV_CTRL, PGV_CAP and PGV_TLIM as they
are in force in the window (R442). -/
structure Governor where
  hints    : List Hint
  next     : List Nat
  measSum  : List Nat
  good     : List Nat
  estSum   : List Nat
  windows  : Nat
  fails    : List Nat
  frozen   : List Bool
  boardSum : Nat
  boardN   : Nat
  temps    : List (BitVec 8)
  stackT   : List (BitVec 8)
  outBand  : Nat
  starts   : List (Nat × Nat × List Nat)
  acts     : Tab Nat
  waited   : List (Nat × Nat)
  worked   : List (Nat × Nat)
  steady   : Bool
  ctrl     : Word
  cap      : Word
  tlim     : Word
deriving DecidableEq, Repr

/-- The power states of R445 (IDLE is RUN with every physical core gated), and `held`: logic held in reset until a bring-up. -/
inductive Power where
  | run | doze | sleep | off | held
deriving DecidableEq, Repr

/-- What Lantern retention keeps (R478, R479, R514). -/
structure Retention where
  valid   : Bool
  lmap    : List Word
  crc     : Word
  ready   : Bool
  ffev    : Bool
  bootSel : BitVec 2
  sigfail : BitVec 2
  widths  : List (BitVec 2)
deriving DecidableEq, Repr

/-- The Lantern domain's state besides its registers (R449-R458); `stage` is the stage of an entry or a restore in progress, `entering` says
that it is an entry, and `wakeDue` that a wake event of that entry waits for its end (R449). -/
structure Lantern where
  power     : Power
  stage     : BitVec 3
  entering  : Bool
  wakeDue   : Bool
  gated     : List Nat
  listening : Option (BitVec 1)
  pwrEn     : List Bool
  pg        : List Bool
  vid       : BitVec 12
  etype     : BitVec 16
  xt32Lost  : Bool
  ethLost   : Bool
  keep      : Retention
  browned   : Bool
  pgAborted : Bool
deriving DecidableEq, Repr

/-- A field record (R465): its kind (0 ROWREP, 1 CORE_FAIL, 2 CORE_ABSENT, 3 SLICE_FAIL, 4 BANK_OOS), the physical and the
logical unit, and the spare its remap took. -/
structure FieldRec where
  kind    : BitVec 3
  phys    : Nat
  logical : Nat
  spare   : Option Nat
deriving DecidableEq, Repr

/-- The fuses (R464, R511-R515, R523). Row repairs are pairs of a unit (a physical core, or 32 + a physical slice) and a row; bad
lanes are lane masks by fabric link, then Ethernet port (18, 19), then HBM channel (32 on). -/
structure Fuses where
  devid     : Word64
  grade     : BitVec 8
  stepping  : Byte
  badCores  : List Nat
  badSlices : List Nat
  leakage   : Nat
  rows      : List (Nat × Nat)
  badLanes  : Tab Nat
  records   : List FieldRec
  lcBits    : Nat
  keyKill   : Bool
  tampered  : Bool
  owner     : Option (List Byte)
  svn       : BitVec 6
  revoked   : BitVec 4
  cert      : Bool
deriving DecidableEq, Repr

/-- The interrupt controller (R494, R496). -/
structure Irq where
  raw    : BitVec 512
  en     : BitVec 512
  active : BitVec 512
  slot0  : BitVec 9
  slot1  : BitVec 9
deriving DecidableEq, Repr

/-- What a timer keeps besides its registers: the prescaler's phase and the values in force (R504, R506). -/
structure Timer where
  bound   : Bool
  binding : BitVec 6
  phase   : Nat
  period  : Word
  cmp0    : Word
  cmp1    : Word
deriving DecidableEq, Repr

/-- A secure association (R522): its number, SSCI and KI, and the key the vault holds. -/
structure Sa where
  an   : BitVec 2
  ssci : Word
  ki   : List Byte
  key  : List Byte
deriving DecidableEq, Repr

/-- The security block besides its registers (R517-R529): the debug level, signature failures in a row, whether a boot was rejected
or a life-cycle transition waits for its report (R532), the SAs of each channel (port × 2 + direction), the one in use first, and
the digest of the system description (R520). -/
structure Security where
  dbg      : BitVec 2
  sigRun   : Nat
  bootRej  : Bool
  lcDone   : Bool
  sas      : Tab (List Sa)
  descHash : List Byte
deriving DecidableEq, Repr

/-- An image recorded by SNAPSHOT (R185, R281), with the ranges of the byte memory it covers. -/
structure Snap where
  binding : BitVec 6
  atStep  : BitVec 48
  step    : BitVec 48
  base    : BitVec 38
  ranges  : List (Nat × Nat)
  ctxs    : Tab Ctx
  cells   : List Host.Cell
  rings   : Tab (List Ev)
  insts   : Tab Inst
  regs    : Tab Word
  reds    : Tab Reduction
deriving DecidableEq, Repr

/-- A quiesce asked for (R477): the physical cores that have acknowledged, the physical cores that failed with their causes, and the
physical slices that failed, each with its cause, whether its contents can be read and the banks that hold the failed array (R481,
R486). -/
structure Quiesce where
  wanted : Bool
  acks   : List Nat
  cores  : List (Nat × Nat)
  slices : List (Nat × Nat × Bool × BitVec 4)
deriving DecidableEq, Repr

/-! ## The state, unit by unit -/

/-- The register file: registers by management address, none listed at its reset value, and the live high part of each
long count, by the address of its _LO register (R50). -/
structure RegFile where
  vals : Tab Word
  live : Tab Word
deriving DecidableEq, Repr

/-- Every byte memory (R333, R335, R354), by the address `Mem` gives it; the words in uncorrectable error (R346); the load
shadow in Keeper's region (R484); the words that have shown a correctable error in this scrub period (R482); the rows that have a previous conversion (R147); the banks' priority pointers (R338); the
requests that wait in each slice's queue, in arrival order (R337); and
whether the vault is being wiped (R345). -/
structure Memory where
  cells    : List Host.Cell
  bad      : List Nat
  shadow   : List Host.Cell
  worn     : List Nat
  conv     : List Nat
  pointers : Tab Nat
  requests : Tab (List SliceReq)
  wiping   : Bool
deriving DecidableEq, Repr

/-- The command engine: bindings, streams, contexts, completion records, bound banks (slice × 4 + bank), HBM windows
(binding × 16 + slot), its round-robin position (R266), how many commands it has issued (the global issue order, R267), and the commands whose
writes to other devices are on their way. -/
structure CmdPlane where
  bindings : Tab Binding
  streams  : Tab Stream
  ctxs     : Tab Ctx
  cpls     : List Cpl
  banks    : Tab (Option (BitVec 6))
  windows  : Tab (BitVec 38 × BitVec 38)
  turn     : Nat
  issues   : Nat
  far      : List FarWrite
deriving DecidableEq, Repr

/-- The cores: engines by logical core, program slots (core × 64 + slot), the route units a slot owns, the first and how many (same key,
R205), and reductions (core × 256 + matrix). -/
structure CorePlane where
  cores : Tab Core
  slots : Tab Slot
  units : Tab (Nat × Nat)
  reds  : Tab Reduction
deriving DecidableEq, Repr

/-- The pages of a ring's bucket, in order, and its runs: where each begins in those pages and how many records it holds (R213). -/
structure RingUse where
  pages : List Nat
  runs  : List (Nat × Nat)
deriving DecidableEq, Repr

/-- The device router: replica slots and credits by target system core (R209), packets sent and not accepted, rings
(core × 64 + bucket, R213) with their pages, staging slots (R215), the cores whose bucket drains, the credits withheld for a full staging
slot (core, source device), and the packets of which the staging slot has taken only the first records (source device, packet, records
taken). -/
structure Router where
  replicas : Tab Packet
  credits  : Tab Nat
  inFlight : List Packet
  rings    : Tab (List Ev)
  pages    : Tab RingUse
  staging  : Tab (List (Nat × Ev))
  draining : List Nat
  owed     : List (Nat × BitVec 6)
  ingress  : List (BitVec 6 × Packet × Nat)
deriving DecidableEq, Repr

/-- The system as this device knows it: the core map (R22), the device numbers, the gate devices, the devices lost (R382) and READY
(R413), the links of the system (device, link, peer device, cost; R376) and those of other devices that carry no packet now
(device, link; R381), the hops of the longest primary path (R367), the devices that have announced their retirement, and those that
have confirmed this device's own (R383). -/
structure Sys where
  coreMap : Tab SysCore
  myDev   : BitVec 6
  nDevs   : Nat
  gate    : BitVec 6
  standby : Option (BitVec 6)
  lost    : List Nat
  ready   : List Nat
  edges   : List (Nat × Nat × Nat × Nat)
  down    : List (Nat × Nat)
  longest : Nat
  retired : List Nat
  confirmed : List Nat
deriving DecidableEq, Repr

/-- The converter engine: channels, instances (channel × 2^18 + CIDX), tallies (instance × 128 + step parity × 64 + neuron), the tap buffer,
waiting DECODEs and ACT frames. -/
structure Converters where
  chans   : Tab Chan
  insts   : Tab Inst
  tallies : Tab Nat
  taps    : List Tap
  decodes : List DecodeReq
  acts    : Tab ActFrame
deriving DecidableEq, Repr

/-- The sync unit and the queue unit: buoys (R302) and their owners, wait and watch entries, SIGNALs held, queues, writer
interfaces (device × 4,096 + queue), waiting RECVs, how many entries have been registered, and queue notices that wait for a core in DOZE (R447). -/
structure SyncUnit where
  buoys   : Tab (BitVec 31)
  owner   : Tab (Option (BitVec 6))
  waits   : List WaitE
  watches : List WatchE
  sigs    : List SigWait
  queues  : Tab Queue
  writers : Tab Writer
  recvs   : List RecvE
  regs    : Nat
  notes   : List (Nat × List Word)
deriving DecidableEq, Repr

/-- The fabric: links, end-to-end state (device × 4 + VC), circuits (this device's by number, those of source d at 256 + d × 256), the circuits
of other devices that cross this one or end at it (source × 256 + number), credit that a full reorder buffer keeps back (link, VC, class, units; R380), the running maxima of the congestion map and the maps
kept (R391). -/
structure Fabric where
  links    : Tab Link
  e2e      : Tab E2E
  circuits : Tab Circuit
  far      : List (Nat × FarCirc)
  owed     : List (Nat × Nat × Nat × Nat)
  cmapMax  : List (BitVec 16)
  cmapHist : List (List (BitVec 16) × Bool)
deriving DecidableEq, Repr

/-- The transport (R403-R411): sequence spaces (space × 2^16 + device × 256 + stream), notices held, whether a management frame has
arrived and where the latest one came from, management DATA, gate-control writes that wait for a cycle start (R419, R420), the sequence recovery
of OBS frames (the latest number, the history of 32 numbers and the time of the latest frame; R398, R415) and the next R-TAG number of ACT frames
(R416). -/
structure Ethernet where
  spaces   : Tab Space
  notices  : List Notice
  hostSeen : Bool
  host     : HostTo
  mgmtData : List (Word × Nat × List Byte)
  gclNext  : Tab Word
  recov    : Option (BitVec 16 × BitVec 32 × Nat)
  rtag     : BitVec 16
deriving DecidableEq, Repr

/-- The timebase (R500), its carried fraction in 1/(1,024 × 10^9) ns, and the timers (R504). -/
structure TimeUnit where
  tb     : Word64
  frac   : Int
  timers : Tab Timer
deriving DecidableEq, Repr

/-- Keeper's recovery state: recorded snapshots (R281) and the quiesce in progress (R477). -/
structure Keeper where
  snaps   : List Snap
  quiesce : Quiesce
deriving DecidableEq, Repr

/-- One Joryon device: commands waiting, first in first out; its units; what the perturbation block holds; the fatal condition that holds (R438, R547); what has
left the device, oldest first; and the model's own count of free values drawn. -/
structure State where
  pending : List Instr
  fuses   : Fuses
  reg     : RegFile
  mem     : Memory
  cmd     : CmdPlane
  core    : CorePlane
  rtr     : Router
  sys     : Sys
  cnv     : Converters
  syn     : SyncUnit
  fab     : Fabric
  eth     : Ethernet
  gov     : Governor
  ltn     : Lantern
  kpr     : Keeper
  irq     : Irq
  tmr     : TimeUnit
  sec     : Security
  ptb     : List Held
  dead    : Option Fault
  out     : List Out
  free    : Nat
deriving DecidableEq, Repr

/-! ## What unlisted entries read as -/

/-- A context no BIND has touched (R26: every field reads 0). -/
def Ctx.empty : Ctx :=
  ⟨false, 0, false, 0, 0, 0, 0, 0, 0, 0, 0, 0, 0, 0, 0, 0, 0, false, []⟩

/-- A binding no CREATE has made valid. The configuration in force is that of the registers' reset values (R46-R48). -/
def Binding.empty : Binding where
  valid := false
  lead := 0
  mask := 0
  seed := 0
  joined := []
  joinWait := none
  joinsHeld := []
  step := 0
  running := false
  waitSlot := false
  slotAt := 0
  halting := false
  haltBy := []
  queue := []
  signals := []
  signalled := false
  covered := none
  gates := []
  votes := []
  epochsOut := []
  startedAt := 0
  modeIn := 0
  lenIn := 0x124F8
  periodIn := 0xF4240
  phaseIn := 0
  limitIn := 4
  extraIn := 0
  rampIn := 0
  overran := false
  windowOpen := false
  applies := []
  outPkts := 0
  boundary := []
  samples := []
  snapStep := none
  spill := 0
  recovering := false
  lastHeld := 0
  met := 0
  farOpen := []

/-- An unbound stream with CSEQ 0 (R261, R301). -/
def Stream.empty : Stream := ⟨false, 0, false, 0, 0, 0, 0, 0, [], [], []⟩

/-- A berth not declared: EMPTY (R115, R125). -/
def Berth.empty : Berth := ⟨0, 0, 0, 0, 0, 0, false, none⟩

/-- An unbound, idle core with empty queues. -/
def Core.empty : Core where
  bound := false
  binding := 0
  frozen := false
  phase := .idle
  slot := 0
  pos := 0
  lanes := []
  inbox := []
  windows := []
  acc := []
  rowBuf := []
  fetched := 0
  adds := []
  fired := []
  firing := []
  learnDue := false
  openPkts := []
  holding := []
  msgs := []
  berth0 := Berth.empty
  berth1 := Berth.empty
  berthQ := []
  entry := 0
  spilled := []

/-- A bucket that holds nothing. -/
def RingUse.empty : RingUse := ⟨[], []⟩

/-- An empty program slot (R89: VALID 0). -/
def Slot.empty : Slot := ⟨0, [], [], [], 0⟩

/-- A rule that has applied no epoch. -/
def Reduction.empty : Reduction where
  epoch := 0
  got := []
  sums := []
  computed := 0
  sent := 0
  committed := 0
  staged := []
  status := 0
  voted := []
  tsums := []
  vote := []
  openedAt := 0
  resumed := false
  ovl := false
  written := 0
  perStep := 0
  rows := 0
  openStep := 0

/-- A number outside the system: no device has a logical core 1,024, so an entry that Keeper wrote is never equal to it (R22). -/
def SysCore.empty : SysCore := ⟨0, 1024, false⟩

/-- An unbound channel that is not VALID (R257). -/
def Chan.empty : Chan := ⟨false, 0, false, []⟩

/-- An instance with no state. -/
def Inst.empty : Inst where
  slots := []
  state := []
  lastU := []
  scales := none
  encoded := none
  waiting := false
  hist := []
  filt := 0
  first := none
  v := 0
  e := 0
  mode := 0
  gates := 0
  renewed := false
  decodedAt := none
  due := none
  left := []
  kept := false

/-- An ACT entry with nothing pending. -/
def ActFrame.empty : ActFrame := ⟨none, none, none, 0⟩

/-- An unbound queue: CLOSED, GEN 0 (R318, R319). -/
def Queue.empty : Queue := ⟨false, 0, 0, 0, false, 0, 0, 0, 0, []⟩

/-- A closed writer interface with credit 0 (R321). -/
def Writer.empty : Writer := ⟨false, false, 0, 0, 0, 0, 0, 0, []⟩

/-- A link with nothing sent or received. -/
def Link.empty : Link := ⟨0, 0, false, 0, [], [], [], 0, 0, 0, 0, ⟨0, (0, 0), []⟩⟩

/-- End-to-end state with nothing sent or received. -/
def E2E.empty : E2E := ⟨0, [], [], 0, [], [], 0, false⟩

/-- An unbound circuit (R394: FREE). -/
def Circuit.empty : Circuit := ⟨false, 0, [], 0, []⟩

/-- A sequence space just opened (R404: numbers start at 0). -/
def Space.empty : Space := ⟨⟨0, 0, 0⟩, 0, [], false, 0, [], [], []⟩

/-- An unbound timer; PERIOD and COMPARE in force at their reset values (R510). -/
def Timer.empty : Timer := ⟨false, 0, 0, 0xFFFFFFFF, 0xFFFFFFFF, 0xFFFFFFFF⟩

/-- Lantern retention as a power-on leaves it: cleared (R453, R462). -/
def Retention.empty : Retention := ⟨false, [], 0, false, false, 0, 0, []⟩

/-- The state right after a power-on reset with every register at its reset value (R462, R468: the device is in RESET and no
command is accepted until READY). The fuses are those of a JY16 with no field record (DESIGN CHOICE, log entry 2), so that PGV_CAP
(0xB0_0004) holds that grade's TDP, 400 W (R430); every other register reads the reset value of `regReset`. -/
def State.reset : State where
  pending := []
  fuses :=
    { devid := 0x100, grade := 2, stepping := 1, badCores := [17], badSlices := [], leakage := 0, rows := [], badLanes := [], records := [],
      lcBits := 2, keyKill := false, tampered := false, owner := none, svn := 0, revoked := 0, cert := true }
  reg := ⟨[(0xB00004, 400)], []⟩
  mem := ⟨[], [], [], [], [], [], [], false⟩
  cmd := ⟨[], [], [], [], [], [], 0, 0, []⟩
  core := ⟨[], [], [], []⟩
  rtr := ⟨[], [], [], [], [], [], [], [], []⟩
  sys := ⟨[], 0, 1, 0, none, [], [], [], [], 0, [], []⟩
  cnv := ⟨[], [], [], [], [], []⟩
  syn := ⟨[], [], [], [], [], [], [], [], 0, []⟩
  fab := ⟨[], [], [], [], [], [], []⟩
  eth := ⟨[], [], false, ⟨0, 0, 0⟩, [], [], none, 0⟩
  gov :=
    { hints := [], next := [0, 0, 0], measSum := [], good := [], estSum := [], windows := 0, fails := [], frozen := [],
      boardSum := 0, boardN := 0, temps := [], stackT := [], outBand := 0, starts := [], acts := [], waited := [], worked := [],
      steady := false, ctrl := 0x02000024, cap := 400, tlim := 0x645C5F }
  ltn :=
    { power := .run, stage := 0, entering := false, wakeDue := false, gated := [], listening := none, pwrEn := List.replicate 8 true, pg := List.replicate 8 true,
      vid := 1, etype := 0x88B5, xt32Lost := false, ethLost := false, keep := Retention.empty, browned := false,
      pgAborted := false }
  kpr := ⟨[], ⟨false, [], [], []⟩⟩
  irq := ⟨0, 0, 0, 0, 0⟩
  tmr := ⟨0, 0, []⟩
  sec := ⟨0, 0, false, false, [], []⟩
  ptb := []
  dead := none
  out := []
  free := 0

end Sys2Proof.Machine
end

