-- ==== Sys2Proof/Machine/Ops.lean ====
section
/-! DEFINITION. Machine/Ops.lean: the named operations over the tables, the registers, the byte memories, the interrupt
controller's raw bits, notices and the outputs. Every chapter's meanings are written over these. -/

namespace Sys2Proof.Machine

/-- The three outcomes of a command, with this machine's reasons. -/
abbrev Result := Host.Outcome State Fault Refusal

/-! ## Tables -/

/-- The entry at `k`, the default where none is listed. -/
def Tab.get {α : Type} (d : Nat → α) : Tab α → Nat → α
  | [], k => d k
  | (j, x) :: r, k => if j = k then x else if k < j then d k else Tab.get d r k

/-- The table with `v` at `k`, in canonical form: a default is not listed. -/
def Tab.set {α : Type} [DecidableEq α] (d : Nat → α) : Tab α → Nat → α → Tab α
  | [], k, v => if v = d k then [] else [(k, v)]
  | (j, x) :: r, k, v =>
    if k < j then (if v = d k then (j, x) :: r else (k, v) :: (j, x) :: r)
    else if k = j then (if v = d k then r else (k, v) :: r)
    else (j, x) :: Tab.set d r k v

/-- Canonical form: keys strictly rising, no default listed. -/
abbrev Tab.wf {α : Type} [DecidableEq α] (d : Nat → α) (t : Tab α) : Prop :=
  t.Pairwise (fun p q => p.1 < q.1) ∧ ∀ p ∈ t, p.2 ≠ d p.1

/-! ## Access to the units -/

/-- The value every unlisted byte of memory reads as (DESIGN CHOICE, log entry 3). -/
def Memory.unlisted : Nat → Byte := fun _ => 0

/-- Canonical form of the byte memory. -/
abbrev Memory.wf (m : Memory) : Prop := Tab.wf Memory.unlisted m.cells

def State.ctx (s : State) (c : Nat) : Ctx := Tab.get (fun _ => Ctx.empty) s.cmd.ctxs c
def State.setCtx (s : State) (c : Nat) (x : Ctx) : State :=
  { s with cmd := { s.cmd with ctxs := Tab.set (fun _ => Ctx.empty) s.cmd.ctxs c x } }
def State.bnd (s : State) (b : Nat) : Binding := Tab.get (fun _ => Binding.empty) s.cmd.bindings b
def State.setBnd (s : State) (b : Nat) (x : Binding) : State :=
  { s with cmd := { s.cmd with bindings := Tab.set (fun _ => Binding.empty) s.cmd.bindings b x } }
def State.strm (s : State) (n : Nat) : Stream := Tab.get (fun _ => Stream.empty) s.cmd.streams n
def State.setStrm (s : State) (n : Nat) (x : Stream) : State :=
  { s with cmd := { s.cmd with streams := Tab.set (fun _ => Stream.empty) s.cmd.streams n x } }
def State.cor (s : State) (n : Nat) : Core := Tab.get (fun _ => Core.empty) s.core.cores n
def State.setCor (s : State) (n : Nat) (x : Core) : State :=
  { s with core := { s.core with cores := Tab.set (fun _ => Core.empty) s.core.cores n x } }
/-- Program slot `t` of core `n` (R83). -/
def State.slotAt (s : State) (n t : Nat) : Slot := Tab.get (fun _ => Slot.empty) s.core.slots (n * 64 + t)
def State.setSlot (s : State) (n t : Nat) (x : Slot) : State :=
  { s with core := { s.core with slots := Tab.set (fun _ => Slot.empty) s.core.slots (n * 64 + t) x } }
/-- The route units that slot `t` of core `n` owns (R205, R282): the first and how many. -/
def State.units (s : State) (n t : Nat) : Nat × Nat := Tab.get (fun _ => (0, 0)) s.core.units (n * 64 + t)
def State.setUnits (s : State) (n t : Nat) (x : Nat × Nat) : State :=
  { s with core := { s.core with units := Tab.set (fun _ => (0, 0)) s.core.units (n * 64 + t) x } }
/-- The pages of bucket `k` of core `n` (R213). -/
def State.pages (s : State) (n k : Nat) : RingUse := Tab.get (fun _ => RingUse.empty) s.rtr.pages (n * 64 + k)
def State.setPages (s : State) (n k : Nat) (x : RingUse) : State :=
  { s with rtr := { s.rtr with pages := Tab.set (fun _ => RingUse.empty) s.rtr.pages (n * 64 + k) x } }
/-- The reduction of rule `m` of core `n` (R184). -/
def State.red (s : State) (n m : Nat) : Reduction := Tab.get (fun _ => Reduction.empty) s.core.reds (n * 256 + m)
def State.setRed (s : State) (n m : Nat) (x : Reduction) : State :=
  { s with core := { s.core with reds := Tab.set (fun _ => Reduction.empty) s.core.reds (n * 256 + m) x } }
def State.chan (s : State) (k : Nat) : Chan := Tab.get (fun _ => Chan.empty) s.cnv.chans k
def State.setChan (s : State) (k : Nat) (x : Chan) : State :=
  { s with cnv := { s.cnv with chans := Tab.set (fun _ => Chan.empty) s.cnv.chans k x } }
/-- The instance of channel `k` for context index `x` (R233). -/
def State.inst (s : State) (k x : Nat) : Inst := Tab.get (fun _ => Inst.empty) s.cnv.insts (k * 2 ^ 18 + x)
def State.setInst (s : State) (k x : Nat) (v : Inst) : State :=
  { s with cnv := { s.cnv with insts := Tab.set (fun _ => Inst.empty) s.cnv.insts (k * 2 ^ 18 + x) v } }
def State.act (s : State) (f : Nat) : ActFrame := Tab.get (fun _ => ActFrame.empty) s.cnv.acts f
def State.setAct (s : State) (f : Nat) (x : ActFrame) : State :=
  { s with cnv := { s.cnv with acts := Tab.set (fun _ => ActFrame.empty) s.cnv.acts f x } }
def State.buoy (s : State) (k : Nat) : BitVec 31 := Tab.get (fun _ => 0) s.syn.buoys k
def State.setBuoy (s : State) (k : Nat) (v : BitVec 31) : State :=
  { s with syn := { s.syn with buoys := Tab.set (fun _ => 0) s.syn.buoys k v } }
def State.queueAt (s : State) (q : Nat) : Queue := Tab.get (fun _ => Queue.empty) s.syn.queues q
def State.setQueue (s : State) (q : Nat) (x : Queue) : State :=
  { s with syn := { s.syn with queues := Tab.set (fun _ => Queue.empty) s.syn.queues q x } }
/-- The writer interface towards queue `q` of device `d` (R321). -/
def State.writer (s : State) (d q : Nat) : Writer := Tab.get (fun _ => Writer.empty) s.syn.writers (d * 4096 + q)
def State.setWriter (s : State) (d q : Nat) (x : Writer) : State :=
  { s with syn := { s.syn with writers := Tab.set (fun _ => Writer.empty) s.syn.writers (d * 4096 + q) x } }
def State.link (s : State) (l : Nat) : Link := Tab.get (fun _ => Link.empty) s.fab.links l
def State.setLink (s : State) (l : Nat) (x : Link) : State :=
  { s with fab := { s.fab with links := Tab.set (fun _ => Link.empty) s.fab.links l x } }
def State.e2e (s : State) (d v : Nat) : E2E := Tab.get (fun _ => E2E.empty) s.fab.e2e (d * 4 + v)
def State.setE2e (s : State) (d v : Nat) (x : E2E) : State :=
  { s with fab := { s.fab with e2e := Tab.set (fun _ => E2E.empty) s.fab.e2e (d * 4 + v) x } }
def State.circ (s : State) (c : Nat) : Circuit := Tab.get (fun _ => Circuit.empty) s.fab.circuits c
def State.setCirc (s : State) (c : Nat) (x : Circuit) : State :=
  { s with fab := { s.fab with circuits := Tab.set (fun _ => Circuit.empty) s.fab.circuits c x } }
def State.timer (s : State) (n : Nat) : Timer := Tab.get (fun _ => Timer.empty) s.tmr.timers n
def State.setTimer (s : State) (n : Nat) (x : Timer) : State :=
  { s with tmr := { s.tmr with timers := Tab.set (fun _ => Timer.empty) s.tmr.timers n x } }
/-- The sequence space of a SPACE, device and stream (R403). -/
def spaceKey (sp d n : Nat) : Nat := sp * 2 ^ 16 + d * 256 + n
def State.space (s : State) (k : Nat) : Space := Tab.get (fun _ => Space.empty) s.eth.spaces k
def State.setSpace (s : State) (k : Nat) (x : Space) : State :=
  { s with eth := { s.eth with spaces := Tab.set (fun _ => Space.empty) s.eth.spaces k x } }
/-- The bucket ring of core `n`, bucket `k` (R213). -/
def State.ring (s : State) (n k : Nat) : List Ev := Tab.get (fun _ => []) s.rtr.rings (n * 64 + k)
def State.setRing (s : State) (n k : Nat) (x : List Ev) : State :=
  { s with rtr := { s.rtr with rings := Tab.set (fun _ => []) s.rtr.rings (n * 64 + k) x } }

/-! ## Registers as stored -/

/-- The stored value of the register at `a`. -/
def State.rget (s : State) (a : Nat) : Word := Tab.get regReset s.reg.vals a
/-- Stores a register. -/
def State.rset (s : State) (a : Nat) (v : Word) : State :=
  { s with reg := { s.reg with vals := Tab.set regReset s.reg.vals a v } }
/-- Applies `f` to a stored register. -/
def State.rmod (s : State) (a : Nat) (f : Word → Word) : State := s.rset a (f (s.rget a))

/-- Bits [lo + w − 1 : lo] of a word. -/
def fieldOf (x : Word) (lo w : Nat) : Nat := (x.toNat / 2 ^ lo) % 2 ^ w
/-- The word with those bits replaced by `v` mod 2^w. -/
def withField (x : Word) (lo w v : Nat) : Word :=
  let mask : Word := BitVec.ofNat 32 ((2 ^ w - 1) * 2 ^ lo)
  (x &&& ~~~mask) ||| (BitVec.ofNat 32 ((v % 2 ^ w) * 2 ^ lo))
/-- Bit `i` of a word. -/
def bitOf (x : Word) (i : Nat) : Bool := x.getLsbD i
/-- The word with bit `i` set to `b`. -/
def withBit (x : Word) (i : Nat) (b : Bool) : Word := withField x i 1 (if b then 1 else 0)

def State.rfield (s : State) (a lo w : Nat) : Nat := fieldOf (s.rget a) lo w
def State.rbit (s : State) (a i : Nat) : Bool := bitOf (s.rget a) i
def State.rsetField (s : State) (a lo w v : Nat) : State := s.rmod a (fun x => withField x lo w v)
def State.rsetBit (s : State) (a i : Nat) (b : Bool) : State := s.rmod a (fun x => withBit x i b)

/-- Adds `n` to a field of `w` bits at `lo` that saturates (R51-R54, R503). -/
def State.satAdd (s : State) (a lo w n : Nat) : State :=
  s.rsetField a lo w (min (s.rfield a lo w + n) (2 ^ w - 1))
/-- Adds `n` to a 32-bit count that saturates at 0xFFFF_FFFF (R503). -/
def State.count (s : State) (a n : Nat) : State := s.satAdd a 0 32 n
/-- Raises a 32-bit maximum. -/
def State.maxReg (s : State) (a n : Nat) : State := s.rset a (BitVec.ofNat 32 (max (s.rget a).toNat (min n (2 ^ 32 - 1))))

/-- The long count whose _LO register is at `lo` (R50): the low word and the live high part. -/
def State.longGet (s : State) (lo : Nat) : Nat :=
  (s.rget lo).toNat + 2 ^ 32 * (Tab.get (fun _ => (0 : Word)) s.reg.live lo).toNat
/-- Sets the live high part of the register pair whose _LO register is at `lo`. -/
def State.setLive (s : State) (lo : Nat) (v : Word) : State :=
  { s with reg := { s.reg with live := Tab.set (fun _ => (0 : Word)) s.reg.live lo v } }
/-- Sets a long count. -/
def State.longSet (s : State) (lo n : Nat) : State :=
  (s.rset lo (BitVec.ofNat 32 n)).setLive lo (BitVec.ofNat 32 (n / 2 ^ 32))
/-- Adds to a 48-bit count that saturates (R87, R154, R255). -/
def State.longSat (s : State) (lo n : Nat) : State := s.longSet lo (min (s.longGet lo + n) (2 ^ 48 - 1))
/-- Adds to a 48-bit count that wraps (R503); `true` when it passed 2^48. -/
def State.longWrap (s : State) (lo n : Nat) : State × Bool :=
  (s.longSet lo ((s.longGet lo + n) % 2 ^ 48), decide (2 ^ 48 ≤ s.longGet lo + n))

/-! ## Byte memories -/

/-- Base of store `k` of core `n` in the byte memory: 0 synapse, 1 state, 2 delta, 3 inbox, 4 program and route (R334). -/
def Mem.store (n k : Nat) : Nat := (0x100 + n * 8 + k) * 2 ^ 48
/-- Base of logical slice `k` (R335). -/
def Mem.slice (k : Nat) : Nat := (0x400 + k) * 2 ^ 48
/-- Base of HBM (R354). -/
def Mem.hbm : Nat := 0x800 * 2 ^ 48

/-- Base of the router's queue SRAM, 8 MiB (R213). -/
def Mem.queue : Nat := 0x801 * 2 ^ 48

def State.byteAt (s : State) (k : Nat) : Byte := Tab.get Memory.unlisted s.mem.cells k
def State.setByte (s : State) (k : Nat) (v : Byte) : State :=
  { s with mem := { s.mem with cells := Tab.set Memory.unlisted s.mem.cells k v } }

/-- `n` bytes from `k` on. -/
def State.bytes (s : State) (k : Nat) : Nat → List Byte
  | 0 => []
  | n + 1 => s.byteAt k :: State.bytes s (k + 1) n
/-- Cells of the memory with bytes written from `k` on. -/
def Memory.putBytes (cells : Tab Byte) (k : Nat) : List Byte → Tab Byte
  | [] => cells
  | v :: r => Memory.putBytes (Tab.set Memory.unlisted cells k v) (k + 1) r
/-- Bytes written from `k` on. A word of 64 bits that is written whole loses its uncorrectable error (R346). -/
def State.putBytes (s : State) (k : Nat) (v : List Byte) : State :=
  { s with mem := { s.mem with
      cells := Memory.putBytes s.mem.cells k v
      bad := s.mem.bad.filter (fun w => !(decide (k ≤ w * 8) && decide (w * 8 + 8 ≤ k + v.length))) } }

/-- The little-endian number of a byte string (R15). -/
def leNat : List Byte → Nat
  | [] => 0
  | b :: r => b.toNat + 256 * leNat r
/-- The `n` little-endian bytes of a number. -/
def leBytes : Nat → Nat → List Byte
  | 0, _ => []
  | n + 1, x => BitVec.ofNat 8 x :: leBytes n (x / 256)
/-- The `n` bytes of a number, most significant first (Ethernet fields). -/
def beBytes (n x : Nat) : List Byte := (leBytes n x).reverse
/-- The number of a byte string, most significant byte first. -/
def beNat (l : List Byte) : Nat := leNat l.reverse

/-- The `n`-byte little-endian number at `k`. -/
def State.leAt (s : State) (k n : Nat) : Nat := leNat (s.bytes k n)
/-- Writes an `n`-byte little-endian number. -/
def State.putLe (s : State) (k n x : Nat) : State := s.putBytes k (leBytes n x)
/-- `n` bytes of 0 from `k` on: every listed byte of the range goes. -/
def State.clearRange (s : State) (k n : Nat) : State :=
  { s with mem := { s.mem with
      cells := s.mem.cells.filter (fun c => !(decide (k ≤ c.1) && decide (c.1 < k + n)))
      bad := s.mem.bad.filter (fun w => !(decide (k ≤ w * 8) && decide (w * 8 < k + n))) } }
/-- Whether a word of the range is in uncorrectable error (R346). -/
def State.badRange (s : State) (k n : Nat) : Bool :=
  s.mem.bad.any (fun w => decide (k < w * 8 + 8) && decide (w * 8 < k + n))

/-- A two's complement number of `w` bits as an integer. -/
def signed (w x : Nat) : Int := if x % 2 ^ w < 2 ^ (w - 1) then (x % 2 ^ w : Nat) else (x % 2 ^ w : Nat) - (2 : Int) ^ w
/-- The `w`-bit two's complement encoding of an integer. -/
def unsigned (w : Nat) (x : Int) : Nat := (x % (2 : Int) ^ w).toNat

/-! ## Free values -/

/-- The next free value (log entry 9). -/
def State.draw (s : State) : Word × State := (Config.freeWord s.free, { s with free := s.free + 1 })
/-- The next `n` free bytes. -/
def State.drawBytes (s : State) : Nat → List Byte × State
  | 0 => ([], s)
  | n + 1 =>
    let (w, s) := s.draw
    let (r, s) := State.drawBytes s n
    (w.truncate 8 :: r, s)

/-- Adds an amount that the spec leaves to timing to a 32-bit count: a free value (log entry 61). -/
def State.countFree (s : State) (a : Nat) : State := s.draw.2.count a s.draw.1.toNat

/-- ACLK in a number of nanoseconds (R12: 750 MHz). -/
def aclkOf (ns : Nat) : Nat := ns * 3 / 4
/-- The ramp level of a step at ACLK `k` of the timebase (R436): over 24 bubble frames of 64 ACLK from the first frame boundary at or after its
START. -/
def Binding.rampAt (x : Binding) (k : Nat) : Nat :=
  let f0 := (aclkOf x.startedAt.toNat + 63) / 64
  if x.running && f0 ≤ k / 64 && k / 64 < f0 + 24 then x.rampIn.toNat * (24 - (k / 64 - f0)) / 24 else 0

/-! ## Outputs, notices and interrupts -/

/-- The units count `n` events of activity kind `k` of class `c` in the governor's window (R424): classes and kinds by their order in the
table of R424. -/
def State.unitActs (s : State) (c k n : Nat) : State :=
  { s with gov := { s.gov with acts := Tab.set (fun _ => 0) s.gov.acts (c * 16 + k) (Tab.get (fun _ => 0) s.gov.acts (c * 16 + k) + n) } }
/-- Appends an output. -/
def State.send (s : State) (o : Out) : State := { s with out := s.out ++ [o] }
def State.sendAll (s : State) (l : List Out) : State := { s with out := s.out ++ l }

/-- Whether the device has reported READY (R413, R468): it is READY, or became NOT_READY after it was (R474, R486). -/
def State.isReady (s : State) : Bool :=
  s.rfield Reg.budState 30 2 = 2 || (s.rfield Reg.budState 30 2 = 3 && s.sys.ready.contains s.sys.myDev.toNat)
/-- Whether the device terminates the command transport (R412). -/
def State.isGate (s : State) : Bool := s.sys.gate = s.sys.myDev
/-- Frames of a space that wait go out while fewer than 1,024 are kept (R406): each takes the next SEQ and is kept until acknowledged (R404). A
frame goes where the latest frame accepted in the space came from, a NOTICE where the latest management frame did (R411). -/
def State.hostPump (s : State) (k : Nat) : State :=
  let x := s.space k
  let go := x.unsent.take (1024 - x.kept.length)
  let fs := go.zipIdx.map (fun p => (p.1, x.txNext + BitVec.ofNat 32 p.2))
  (s.setSpace k { x with
    txNext := x.txNext + BitVec.ofNat 32 go.length, kept := x.kept ++ fs.map (fun f => (f.2, 0)), unsent := x.unsent.drop go.length }).sendAll
      (fs.map (fun f => .hostFrame (if f.1 then s.eth.host else x.host) k f.2))

/-- `n` new frames to the host in a space of device `dev`: before READY the local management space, its DEVICE 0 (R413), then the spaces of
the gate device. -/
def State.hostFrames (s : State) (sp dev stream n : Nat) (note : Bool) : State :=
  if s.isReady && !s.isGate then s
  else
    let k := spaceKey sp (if s.isReady then dev else 0) stream
    (s.setSpace k { s.space k with unsent := (s.space k).unsent ++ List.replicate n note }).hostPump k

/-- Raises a notice about a device (R411): it is sent once a management frame has been accepted and held before that, up to the 1,024
frames of R406. -/
def State.noticeOf (s : State) (dev : BitVec 6) (kind : Byte) (body : List Byte) : State :=
  let n : Notice := ⟨kind, dev, s.tmr.tb, body⟩
  if s.eth.hostSeen then (s.send (.notice n)).hostFrames 1 s.sys.myDev.toNat 0 1 true
  else if s.eth.notices.length < 1024 then { s with eth := { s.eth with notices := s.eth.notices ++ [n] } }
  else s
/-- A notice about this device. -/
def State.notice (s : State) (kind : Byte) (body : List Byte) : State := s.noticeOf s.sys.myDev kind body

/-- Whether a source number is assigned (R493, R532). -/
def irqAssigned (n : Nat) : Bool :=
  (1 ≤ n && n ≤ 111) || (141 ≤ n && n ≤ 152) || (171 ≤ n && n ≤ 175) || (201 ≤ n && n ≤ 456)

/-- Sources that keep a pending bit: raw and enabled (R494). -/
def State.irqPending (s : State) (n : Nat) : Bool := s.irq.raw.getLsbD n && s.irq.en.getLsbD n

/-- Whether IRQ_FWD forwards source `n` (R498). -/
def State.irqFwd (s : State) (n : Nat) : Bool := s.rbit (Reg.irqFwd (n / 32)) (n % 32)

/-- A flag that names source `n` sets (R494): raw is set, or the raise merges; a source that becomes pending with its IRQ_FWD
bit sends an INTERRUPT notice (R498). A reserved source never becomes pending (R493). -/
def State.raise (s : State) (n : Nat) : State :=
  if !irqAssigned n then s
  else if s.irq.raw.getLsbD n then (s.count Reg.irqMerged 1).rset Reg.irqLastm (BitVec.ofNat 32 n)
  else
    let s := { s with irq := { s.irq with raw := s.irq.raw ||| BitVec.ofNat 512 (2 ^ n) } }
    if s.irq.en.getLsbD n && s.irqFwd n then s.notice 3 (beBytes 2 n ++ [0, 0]) else s

/-- Every flag that names source `n` has been cleared: an unclaimed raise is withdrawn (R494). -/
def State.withdraw (s : State) (n : Nat) : State :=
  { s with irq := { s.irq with raw := s.irq.raw &&& ~~~BitVec.ofNat 512 (2 ^ n) } }

/-! ## Grade and presence -/

/-- Logical cores of a grade code (R1). -/
def gradeCores (g : Nat) : Nat := if g ≤ 2 then 16 else if g = 3 then 14 else 12
/-- TDP of a grade code in W (R1). -/
def gradeTdp (g : Nat) : Nat := if g ≤ 2 then 400 else if g = 3 then 360 else 320
/-- IDT_SZ_CORES of the part. -/
def State.nCores (s : State) : Nat := gradeCores s.fuses.grade.toNat
/-- Applies a list of updates in order. -/
def State.forAll {α : Type} (s : State) (l : List α) (f : State → α → State) : State := l.foldl f s

/-! ## The life of the device -/

/-- A meaning that acts while no fatal condition holds: after THERMTRIP (R438) or the loss of SYSCLK (R547) the spec gives the
device no behaviour until it is reset. -/
def live (s : State) (f : State → State) : Result :=
  match s.dead with
  | some e => .fault e
  | none => .next (f s)

/-! ## HBM traffic (R355, R362) -/

/-- The pseudo-channel of an HBM address (R355). -/
def hbmChannel (a : Nat) : Nat :=
  ((((a / 2 ^ 8 % 128) ^^^ (a / 2 ^ 15 % 128)) ^^^ (a / 2 ^ 22 % 128)) ^^^ (a / 2 ^ 29 % 128)) ^^^ (a / 2 ^ 36 % 4)
/-- The stack of an HBM address (R355). -/
def hbmStack (a : Nat) : Nat := hbmChannel a / 32

/-- HBM_GR counts the 64-byte granules read, or with `wr` written (R362), and so does the governor's window (R424). -/
def State.countGranules (s : State) (wr : Bool) (a n : Nat) : State :=
  if n = 0 then s
  else s.forAll ((List.range ((a % 64 + n + 63) / 64)).map (fun i => a / 64 * 64 + 64 * i)) (fun s g =>
    let h := hbmStack g
    let s := s.unitActs 1 (if wr then 1 else 0) 1
    let (s, o) := s.longWrap (Reg.hbmGrLo h) 1
    if o then (s.rsetBit (Reg.hbmStat h) 2 true).raise (21 + h) else s)

/-- The traffic of a range of the byte memory, as HBM counts it. -/
def State.moved (s : State) (wr : Bool) (a n : Nat) : State :=
  if a / 2 ^ 48 = 0x800 then s.countGranules wr (a % 2 ^ 38) n else s

end Sys2Proof.Machine
end

