-- ==== Sys2Proof/Machine/Num.lean ====
section
/-! DEFINITION. Machine/Num.lean: the rounding, saturation and random generator shared by the neuron engine, the converters
and learning (R68, R71, R73). -/

namespace Sys2Proof.Machine

/-- Division by 2^s to the nearest integer, ties to even (rshift_rne of R68). -/
def rneShift (x : Int) (s : Nat) : Int :=
  if s = 0 then x
  else
    let q := x / (2 : Int) ^ s
    let r := x - q * (2 : Int) ^ s
    if r > (2 : Int) ^ (s - 1) ∨ (r = (2 : Int) ^ (s - 1) ∧ q % 2 = 1) then q + 1 else q

/-- A quotient of integers to the nearest integer, ties to even; the divisor is positive. -/
def rneDiv (x d : Int) : Int :=
  let q := x / d
  let r := x - q * d
  if 2 * r > d ∨ (2 * r = d ∧ q % 2 = 1) then q + 1 else q

/-- Clamps an integer to [lo, hi]; `true` when it clamped. -/
def clampTo (lo hi x : Int) : Int × Bool :=
  if x < lo then (lo, true) else if hi < x then (hi, true) else (x, false)

/-- sat32 of R68: the register word and whether it clamped. -/
def sat32 (x : Int) : Word × Bool :=
  ((BitVec.ofInt 32 (clampTo (-(2 : Int) ^ 31) ((2 : Int) ^ 31 - 1) x).1),
    (clampTo (-(2 : Int) ^ 31) ((2 : Int) ^ 31 - 1) x).2)

/-- load of R68: a field value with `f` fraction bits as a register value with `r` fraction bits. -/
def alignLoad (r f : Nat) (x : Int) : Word × Bool :=
  sat32 (if f ≤ r then x * (2 : Int) ^ (r - f) else rneShift x (f - r))

/-- store of R68: a register value as a field value of the range [lo, hi], and whether it clamped. -/
def alignStore (r f : Nat) (lo hi : Int) (v : Word) : Int × Bool :=
  clampTo lo hi (if f ≤ r then rneShift v.toInt (r - f) else v.toInt * (2 : Int) ^ (f - r))

/-- One round of Philox4x32 (R73) on counter words and key words. -/
def philoxRound (c : Nat × Nat × Nat × Nat) (k0 k1 : Nat) : Nat × Nat × Nat × Nat :=
  let p0 := 0xD2511F53 * c.1
  let p1 := 0xCD9E8D57 * c.2.2.1
  let lo := fun (x : Nat) => x % 2 ^ 32
  let hi := fun (x : Nat) => (x / 2 ^ 32) % 2 ^ 32
  (Nat.xor (Nat.xor (hi p1) c.2.1) k0, lo p1, Nat.xor (Nat.xor (hi p0) c.2.2.2) k1, lo p0)

/-- `n` rounds, the key advancing after each (R73). -/
def philoxRounds : Nat → Nat × Nat × Nat × Nat → Nat → Nat → Nat × Nat × Nat × Nat
  | 0, c, _, _ => c
  | n + 1, c, k0, k1 =>
    philoxRounds n (philoxRound c k0 k1) ((k0 + 0x9E3779B9) % 2 ^ 32) ((k1 + 0xBB67AE85) % 2 ^ 32)

/-- Draw `k` of R73: the word k mod 4 of counter block k div 4 for a context step, a neuron index, a context index, a
population number and a TAG. -/
def philoxWord (seed : Word64) (cstep : BitVec 48) (nidx cidx pop tag k : Nat) : Word :=
  let c0 := cstep.toNat % 2 ^ 32
  let c1 := cstep.toNat / 2 ^ 32 + (k / 4) * 2 ^ 16
  let c3 := (cidx + pop * 2 ^ 18 + tag * 2 ^ 26) % 2 ^ 32
  let x := philoxRounds 10 (c0, c1, nidx % 2 ^ 32, c3) (seed.toNat % 2 ^ 32) (seed.toNat / 2 ^ 32)
  BitVec.ofNat 32
    (if k % 4 = 0 then x.1 else if k % 4 = 1 then x.2.1 else if k % 4 = 2 then x.2.2.1 else x.2.2.2)

end Sys2Proof.Machine
end

