-- ==== Sys2Proof/Machine/Flags.lean ====
section
/-! DEFINITION. Machine/Flags.lean: status codes (R19, R20), how a status reaches the command that covers a step (R284), and the
flags of the neuron engine (R88). -/

namespace Sys2Proof.Machine

/-! ## Status codes (R19) -/

abbrev St.ok : Byte := 0x00
abbrev St.pending : Byte := 0x01
abbrev St.badOpcode : Byte := 0x10
abbrev St.badOperand : Byte := 0x11
abbrev St.notBound : Byte := 0x20
abbrev St.frozen : Byte := 0x21
abbrev St.queueClosed : Byte := 0x30
abbrev St.timeout : Byte := 0x31
abbrev St.underflow : Byte := 0x40
abbrev St.overflow : Byte := 0x41
abbrev St.linkLost : Byte := 0x50
abbrev St.partitioned : Byte := 0x51
abbrev St.coreAbsent : Byte := 0x60
abbrev St.capacityReduced : Byte := 0x61
abbrev St.sat : Byte := 0x70
abbrev St.rescued : Byte := 0x71
abbrev St.overrun : Byte := 0x80
abbrev St.eccFatal : Byte := 0x90
abbrev St.writeLost : Byte := 0x91
abbrev St.internal : Byte := 0xF0

/-- The status an operation reports when it meets both: FROZEN wins, else the higher code (R20). -/
def worse (a b : Byte) : Byte :=
  if a = St.frozen ∨ b = St.frozen then St.frozen else if a.toNat ≤ b.toNat then b else a

/-- The first command that `p` holds of takes a status. -/
def markFirst (p : StepCmd → Bool) (st : Byte) : List StepCmd → List StepCmd
  | [] => []
  | q :: r => if p q then { q with status := worse q.status st } :: r else q :: markFirst p st r

/-- Records a status for the STEP or RUN that covers the step of binding `b` (R284): the first command of its step queue that has a step
left, else the first. Only the lead holds STEP and RUN (R283): a member device keeps the status for its next step signal, which takes it to
the lead (DESIGN CHOICE, log entry 58). -/
def State.stepStatus (s : State) (b : Nat) (st : Byte) : State :=
  let q := (s.bnd b).queue
  let p := fun (c : StepCmd) => c.left ≠ some 0 || q.all (fun c => c.left = some 0)
  match q with
  | [] =>
    if (s.bnd b).valid && (s.bnd b).lead ≠ s.sys.myDev then s.setBnd b { s.bnd b with met := worse (s.bnd b).met st } else s
  | _ => s.setBnd b { s.bnd b with queue := markFirst p st q }

/-! ## Units in service -/

/-- Whether logical core `n` of this device is PRESENT (R14, R475, R489). -/
def State.corePresent (s : State) (n : Nat) : Bool := n < s.nCores && s.rfield (Reg.budLmapCore n) 30 2 = 1
/-- The physical core that serves logical core `n`. -/
def State.physCore (s : State) (n : Nat) : Nat := s.rfield (Reg.budLmapCore n) 0 6
/-- Raises the interrupt of the physical core that serves core `n` (R493). -/
def State.raiseCore (s : State) (n : Nat) : State := s.raise (25 + s.physCore n)
/-- The physical slice that serves logical slice `k`. -/
def State.physSlice (s : State) (k : Nat) : Nat := s.rfield (Reg.budLmapSlice k) 0 6
/-- Raises the interrupt of the physical slice that serves slice `k`. -/
def State.raiseSlice (s : State) (k : Nat) : State := s.raise (43 + s.physSlice k)

/-! ## Flags of a neuron program (R88) -/

/-- What one instruction sets in CORE_NRN_FLAGS: ASAT, FSAT and THRF. -/
structure NFlags where
  asat : Bool
  fsat : Bool
  thrf : Bool
deriving DecidableEq, Repr

def NFlags.none : NFlags := ⟨false, false, false⟩
def NFlags.ofAsat (b : Bool) : NFlags := ⟨b, false, false⟩
def NFlags.ofFsat (b : Bool) : NFlags := ⟨false, b, false⟩
def NFlags.ofThrf (b : Bool) : NFlags := ⟨false, false, b⟩
def NFlags.or (a b : NFlags) : NFlags := ⟨a.asat || b.asat, a.fsat || b.fsat, a.thrf || b.thrf⟩

/-- The word those flags stand for in CORE_NRN_FLAGS. -/
def NFlags.word (f : NFlags) : Word :=
  (if f.asat then 1 else 0) ||| (if f.fsat then 2 else 0) ||| (if f.thrf then 4 else 0)

/-! ## The system core map (R22) -/

def State.sysCore (s : State) (k : Nat) : SysCore := Tab.get (fun _ => SysCore.empty) s.sys.coreMap k
/-- M, the logical cores of the system (R21). -/
def State.sysSize (s : State) : Nat := s.sys.coreMap.length
/-- Whether a system number names a PRESENT core (R22). -/
def State.sysPresent (s : State) (k : Nat) : Bool := (s.sysCore k).present
/-- The logical core of this device behind a system number, if it is on this device. -/
def State.localOf (s : State) (k : Nat) : Option Nat :=
  if s.sys.coreMap.any (fun p => p.1 = k && p.2.dev = s.sys.myDev) then some (s.sysCore k).core else none
/-- The system number of logical core `n` of this device. -/
def State.sysOf (s : State) (n : Nat) : Nat :=
  ((s.sys.coreMap.find? (fun p => p.2.dev = s.sys.myDev && p.2.core = n)).map Prod.fst).getD n

end Sys2Proof.Machine
end

