-- ==== Sys2Proof/Machine/Perturb.lean ====
section
/-! DEFINITION. Machine/Perturb.lean: the perturbation block's controls, what they hold, and when the block is active
(R533-R538). -/

namespace Sys2Proof.Machine

/-- Whether a control acts (R534): EN is 1 and its own enabling field is non-zero. -/
def State.ptbOn (s : State) (a lo w : Nat) : Bool := s.rbit Reg.ptbCtrl 0 && s.rfield a lo w ≠ 0
/-- PTB_LAT with LINKS set delays packets of a VC at link transmitters. -/
def State.ptbLat (s : State) (v : Nat) : Bool := s.ptbOn (Reg.ptbLat v) 0 12 && s.rbit (Reg.ptbLat v) 31
/-- PTB_CRED holds the credit returns of a VC on a link. -/
def State.ptbCred (s : State) (l v : Nat) : Bool :=
  s.ptbOn Reg.ptbCred 16 16 && s.rbit Reg.ptbCred v && s.rbit Reg.ptbCredLinks l
/-- PTB_CRED with INGRESS: one ingress credit per target core. -/
def State.ptbIngress (s : State) : Bool := s.ptbOn Reg.ptbCred 16 16 && s.rbit Reg.ptbCred 8
/-- The forced NAK period of a link; 0 is off. -/
def State.ptbReplay (s : State) (l : Nat) : Nat :=
  if s.ptbOn Reg.ptbReplay 0 16 && s.rbit Reg.ptbReplayLinks l then s.rfield Reg.ptbReplay 0 16 else 0
/-- PTB_BUOYDLY holds SIGNALs. -/
def State.ptbBuoy (s : State) : Bool := s.ptbOn Reg.ptbBuoydly 0 16
/-- PTB_BUOYDLY with STEPBUOY holds the signals of step buoys too. -/
def State.ptbStepBuoy (s : State) : Bool := s.ptbBuoy && s.rbit Reg.ptbBuoydly 31
/-- ACLK that PTB_STRETCH adds to step `t`: every K-th step (those whose number is a multiple of K, log entry 20). -/
def State.ptbStretch (s : State) (t : Nat) : Nat :=
  if s.ptbOn Reg.ptbStretch 0 24 && t % s.rfield Reg.ptbStretch 24 8 = 0 then s.rfield Reg.ptbStretch 0 24 else 0
/-- PTB_ARB favours a port. -/
def State.ptbArb (s : State) : Option Nat := if s.ptbOn Reg.ptbArb 8 4 then some (s.rfield Reg.ptbArb 0 7) else none
/-- PTB_HBMREF adds refreshes. -/
def State.ptbRefresh (s : State) : Bool := s.ptbOn Reg.ptbHbmref 8 6

/-- Whether any control acts. -/
def State.ptbAny (s : State) : Bool :=
  (List.range 4).any (fun v => s.ptbOn (Reg.ptbLat v) 0 12) || s.ptbOn Reg.ptbCred 16 16 || s.ptbOn Reg.ptbReplay 0 16 ||
  s.ptbBuoy || s.ptbOn Reg.ptbStretch 0 24 || s.ptbOn Reg.ptbArb 8 4 || s.ptbRefresh

/-- Items held by any control (R538). -/
def State.ptbItems (s : State) : Nat := s.ptb.length + (s.syn.sigs.filter (fun x => x.markers = 0)).length

/-- PTB_HELD, ACTIVE, the count and the instants of activation and its end follow the controls and what is held (R537). -/
def State.ptbUpdate (s : State) : State :=
  let s := s.rset Reg.ptbHeld (BitVec.ofNat 32 (min s.ptbItems 65535))
  let was := s.rbit Reg.ptbStatus 0
  let t := s.tmr.tb.toNat
  if s.ptbAny then
    if was then s
    else
      let s := (s.count Reg.ptbCount 1).rset Reg.ptbStatus 3
      (s.rset Reg.ptbStartLo (BitVec.ofNat 32 t)).setLive Reg.ptbStartLo (BitVec.ofNat 32 (t / 2 ^ 32))
  else if was ∧ s.ptbItems = 0 then
    let s := s.rsetBit Reg.ptbStatus 0 false
    (s.rset Reg.ptbStopLo (BitVec.ofNat 32 t)).setLive Reg.ptbStopLo (BitVec.ofNat 32 (t / 2 ^ 32))
  else s

/-- Holds an item. -/
def State.ptbHold (s : State) (h : Held) : State := ({ s with ptb := s.ptb ++ [h] }).ptbUpdate

/-- PTB_HBMREF_BURST: each selected stack receives BURST extra all-bank refreshes (R535), held until they are done. -/
def State.hbmBurst (s : State) : State :=
  if !s.ptbRefresh then s
  else s.forAll ((List.range 4).filter (fun h => s.rbit Reg.ptbHbmref h)) (fun s h =>
    s.ptbHold (.refresh (BitVec.ofNat 2 h) (s.rfield Reg.ptbHbmref 8 6)))

def execPtbHbmrefBurst (s : State) : Result := live s fun s => s.hbmBurst

end Sys2Proof.Machine
end

