-- ==== Sys2Proof/Machine/Egress.lean ====
section
/-! DEFINITION. Machine/Egress.lean: packets on their way out: paths, link queues, credits and the replay buffer, end-to-end
numbers and the retention store (R368-R379). -/

namespace Sys2Proof.Machine

/-! ## Links (R372-R374, R392) -/

/-- STATE of a link (R392): 0 DOWN, 1 TRAINING, 2 UP, 3 NARROW, 4 FAILED, 5 RETIRED. -/
def State.linkState (s : State) (l : Nat) : Nat := s.rfield (Reg.fabLnkStat l) 29 3
/-- Whether a link carries packets: UP or NARROW. -/
def State.linkUp (s : State) (l : Nat) : Bool := s.linkState l = 2 || s.linkState l = 3

/-- A CRC register of `w` bits takes `n` shifts with polynomial `poly`, unreflected. -/
def crcShift (w poly : Nat) : Nat → Nat → Nat
  | 0, r => r
  | n + 1, r => crcShift w poly n (if 2 ^ (w - 1) ≤ r then (2 * r % 2 ^ w) ^^^ poly else 2 * r)
/-- A CRC of `w` bits over bytes, each from its most significant bit on, from all ones (R369, R371; DEDUCED, log entry 71). -/
def crcOver (w poly : Nat) (l : List Byte) : Nat :=
  l.foldl (fun r b => crcShift w poly 8 (r ^^^ (b.toNat * 2 ^ (w - 8)))) (2 ^ w - 1)
/-- CRC-16 of a header (R369). -/
def crc16 (l : List Byte) : BitVec 16 := BitVec.ofNat 16 (crcOver 16 0x1021 l)
/-- CRC-32 (R371), its final value complemented. -/
def crc32 (l : List Byte) : Word := BitVec.ofNat 32 (2 ^ 32 - 1 - crcOver 32 0x04C11DB7 l)
/-- The bytes of words, the least significant first (R368). -/
def wordBytes (l : List Word) : List Byte := l.flatMap (fun w => leBytes 4 w.toNat)

/-- DST_CORE of a header: a logical core, or with DDEV a device and a unit (R369). -/
def pktDst (p : FabPkt) : Nat := if p.ddev then p.unit.toNat * 64 + p.dstDev % 64 else p.dstCore.toNat
/-- SRC_CORE of a header: a logical core, or with SDEV a device and a unit. -/
def pktSrc (p : FabPkt) : Nat := if p.sdev then p.srcUnit.toNat * 64 + p.srcDev % 64 else p.srcCore.toNat
/-- Words 0 to 2 of a header (R369). -/
def pktHead (p : FabPkt) : List Word :=
  [BitVec.ofNat 32 (p.type.toNat * 2 ^ 28 + p.vc.toNat * 2 ^ 26 + pktDst p * 2 ^ 16 + pktSrc p * 2 ^ 6 + p.delay.toNat),
   BitVec.ofNat 32 (p.perType.toNat * 2 ^ 6 + p.ddev.toNat * 32 + p.sdev.toNat * 16 + p.fixed.toNat * 8),
   BitVec.ofNat 32 (p.len % 4096 * 2 ^ 20 + p.step.toNat)]
/-- HDR_CRC16 (R369): over bytes 0 to 13, of which 12 and 13 are its own place and count as 0 (DEDUCED, log entry 71). -/
def pktHcrc (p : FabPkt) : BitVec 16 := crc16 (wordBytes (pktHead p) ++ [0, 0])
/-- The four words of a header. -/
def pktHeader (p : FabPkt) : List Word := pktHead p ++ [BitVec.ofNat 32 (p.e2e.toNat * 2 ^ 16 + (pktHcrc p).toNat)]
/-- Trailer bits [63:32]: LSEQ, HOP and ROUTE (R371). -/
def pktTrail (lseq : BitVec 12) (p : FabPkt) : Word :=
  let r := fun (i : Nat) => (p.route.getD i 31).toNat
  BitVec.ofNat 32 (lseq.toNat * 2 ^ 20 + p.hop.toNat * 2 ^ 18 + (r 0 + r 1 * 32 + r 2 * 1024) * 8)
/-- CRC of the trailer (R371): over header, payload and trailer bits [63:32]. -/
def pktCrc (lseq : BitVec 12) (p : FabPkt) : Word := crc32 (wordBytes (pktHeader p ++ p.payload ++ [pktTrail lseq p]))
/-- The words of a packet on a link, in order (R368): header, payload and the little-endian trailer. -/
def pktWords (lseq : BitVec 12) (p : FabPkt) : List Word := pktHeader p ++ p.payload ++ [pktCrc lseq p, pktTrail lseq p]

/-- Bytes of a packet on a link: header, payload and trailer (R368). -/
def pktBytes (p : FabPkt) : Nat := 24 + 4 * p.len
/-- The 256-byte units of credit a packet takes (R372). -/
def pktUnits (p : FabPkt) : Nat := (pktBytes p + 255) / 256
/-- Units of credit of a VC in one hop class: a quarter of its buffer (R372). -/
def vcUnits (vc : Nat) : Nat := [16, 96, 96, 48].getD vc 0
/-- The key of a VC and hop class. -/
def creditKey (vc cls : Nat) : Nat := vc * 4 + cls
def Link.inUse (x : Link) (vc cls : Nat) : Nat := Tab.get (fun _ => 0) x.used (creditKey vc cls)
def Link.setUse (x : Link) (vc cls n : Nat) : Link := { x with used := Tab.set (fun _ => 0) x.used (creditKey vc cls) n }

/-- Whether a packet may leave on a link (R372, R374): credit of its class for all of it, and room in the replay buffer. -/
def Link.room (x : Link) (p : FabPkt) : Bool :=
  x.inUse p.vc.toNat p.hop.toNat + pktUnits p ≤ vcUnits p.vc.toNat && decide (x.unacked.length < 2048) &&
  (x.unacked.map (fun u => pktBytes u.pkt)).sum + pktBytes p ≤ 65536

/-- STATE of a circuit (R394): 0 FREE, 1 ARMED, 2 ACTIVE, 3 PACKET, 4 REJECTED. -/
def State.circState (s : State) (c : Nat) : Nat := s.rfield (Reg.fabCircStat c) 29 3
/-- The links of a circuit's path. -/
def State.circPath (s : State) (c : Nat) : List Nat :=
  (List.range (s.rfield (Reg.fabCircCfg0 c) 0 3)).map (fun i => s.rfield (Reg.fabCircCfg2 c) (5 * i) 5)
/-- The device's circuits that are ACTIVE. -/
def State.activeCircs (s : State) : List Nat :=
  (s.fab.circuits.filter (fun p => decide (p.1 < 256) && p.2.bound && s.circState p.1 = 2)).map Prod.fst
/-- The links of a path from a device: each with the device it leaves (R376). -/
def State.pathHops (s : State) : Nat → List Nat → List (Nat × Nat)
  | _, [] => []
  | d, l :: r => (d, l) ::
    match s.sys.edges.find? (fun e => e.1 = d && e.2.1 = l) with
    | some e => State.pathHops s e.2.2.1 r
    | none => []
/-- The hops of another device's circuit, by its key. -/
def State.farHops (s : State) (x : Nat × FarCirc) : List (Nat × Nat) := s.pathHops (x.1 / 256) (x.2.path.map BitVec.toNat)

/-- Slots per frame that the circuits which leave on link `l` reserve (R373). -/
def State.linkRsv (s : State) (l : Nat) : Nat :=
  (s.activeCircs.map (fun c => if (s.circPath c).head? = some l then s.rfield (Reg.fabCircCfg0 c) 16 6 else 0)).sum +
  (s.fab.far.map (fun x => if (s.farHops x).contains (s.sys.myDev.toNat, l) then x.2.slots.toNat else 0)).sum
/-- The circuit of a CIRC packet: its source and its number (R370). -/
def circKey (p : FabPkt) : Nat := p.srcDev * 256 + p.perType.toNat / 2 ^ 18
/-- Slots per frame of a circuit; a packet of one that no reservation is known of moves as if it had one (log entry 71). -/
def State.circSlots (s : State) (k : Nat) : Nat :=
  max 1 (if k / 256 = s.sys.myDev.toNat then s.rfield (Reg.fabCircCfg0 (k % 256)) 16 6
    else ((s.fab.far.find? (fun x => x.1 = k)).map (fun x => x.2.slots.toNat)).getD 1)

/-- The transmitter of a link sends a packet; PTB_LAT with LINKS set holds it first (R535). -/
def State.onLink (s : State) (l : Nat) (lseq : BitVec 12) (p : FabPkt) : State :=
  let o := Out.linkPkt (BitVec.ofNat 5 l) lseq p (pktWords lseq p)
  if s.ptbLat p.vc.toNat then s.ptbHold (.out o) else s.send o

/-- A packet leaves on a link: it takes the next LSEQ and its credit, and stays in the replay buffer (R374). -/
def State.linkSend (s : State) (l : Nat) (p : FabPkt) : State :=
  let x := s.link l
  let p := { p with via := none }
  let y := x.setUse p.vc.toNat p.hop.toNat (x.inUse p.vc.toNat p.hop.toNat + pktUnits p)
  ((s.setLink l { y with txSeq := x.txSeq + 1, unacked := x.unacked ++ [⟨x.txSeq, p, 0⟩] }).unitActs 0 1 (pktUnits p)).onLink l x.txSeq p

/-- Bytes in the reorder buffer. -/
def State.reorderUsed (s : State) : Nat := (s.fab.e2e.map (fun p => (p.2.reorder.map (fun q => 16 + 4 * q.len)).sum)).sum
/-- Whether the reorder buffer of 1 MiB is full. -/
def State.reorderFull (s : State) : Bool := decide (0x100000 ≤ s.reorderUsed)

/-- A CREDIT leaves; PTB_CRED holds it first (R535). -/
def State.sendCredit (s : State) (l vc cls units : Nat) : State :=
  let o := Out.linkCredit (BitVec.ofNat 5 l) (BitVec.ofNat 2 vc) (BitVec.ofNat 2 cls) units
  if s.ptbCred l vc then s.ptbHold (.out o) else s.send o

/-- The credit of hop class `cls` of a packet that left the receive buffer of link `l` returns, unless the reorder buffer is full (R372,
R380). -/
def State.linkCreditBack (s : State) (l cls : Nat) (p : FabPkt) : State :=
  if s.reorderFull && (p.vc = 0 || p.vc = 2) then
    { s with fab := { s.fab with owed := s.fab.owed ++ [(l, p.vc.toNat, cls, pktUnits p)] } }
  else s.sendCredit l p.vc.toNat cls (pktUnits p)

/-- A packet that was forwarded leaves the receive buffer it came in on: its credit there returns (R372). -/
def State.leavesBuffer (s : State) (p : FabPkt) : State :=
  match p.via with
  | some l => s.linkCreditBack l.toNat (p.hop.toNat - 1) p
  | none => s

/-- Whether packet `i` of the waiting ones may be the next to leave: it has room and none of its VC, on VC3 of its circuit, is ahead of it. -/
def Link.mayGo (x : Link) (i : Nat) (p : FabPkt) : Bool :=
  x.room p && (x.waiting.take i).all (fun q => q.vc ≠ p.vc || (p.vc = 3 && circKey q ≠ circKey p))

/-- Whose turn it is, VC1's or VC2's, by their weights W1 and W2 in packets (R373, R393; log entry 68). -/
def Link.turnVc (x : Link) (w1 w2 : Nat) : BitVec 2 := if x.turn % (w1 + w2) < w1 then 1 else 2

/-- The waiting packets that may go. -/
def Link.goers (x : Link) : List FabPkt := (x.waiting.zipIdx.filter (fun q => x.mayGo q.2 q.1)).map Prod.fst

/-- The next packet of frame `f` (R373) with `free` slots that no circuit reserves: VC0 first, then a circuit's in its reserved slots, then
VC1 and VC2 in weighted round-robin; slots are kept for VC1 and VC2 while they wait, until each has had 4. Level `g` of the governor fills its
share of the slots that are free for VC1 and VC2 with IDLE words, past those 4 (R434). -/
def Link.pick (x : Link) (f : LinkFrame) (g free : Nat) (slots : Nat → Nat) (turn : BitVec 2) : Option FabPkt :=
  let l := x.goers
  let of := fun (v : BitVec 2) => l.find? (fun p => p.vc = v)
  let kept := fun (v : BitVec 2) (had : Nat) => if (of v).isSome then 4 - had else 0
  let k1 := kept 1 f.given.1
  let k2 := kept 2 f.given.2
  let idle := g * (free - (f.used - f.given.1 - f.given.2)) / 64
  let weighed := fun (v : BitVec 2) =>
    let n := f.used + if v = 1 then k2 else k1
    if n < free && ((if v = 1 then f.given.1 else f.given.2) < 4 || n + idle < free) then of v else none
  (if f.used + k1 + k2 < free then of 0 else none).or
    ((l.find? (fun p => p.vc = 3 && decide (Tab.get (fun _ => 0) f.circs (circKey p) < slots (circKey p)))).or
      ((weighed turn).or (weighed (3 - turn))))

/-- The next frame: every slot anew; a circuit's packet that took more than its slots counts in the frames after. -/
def LinkFrame.next (f : LinkFrame) (slots : Nat → Nat) : LinkFrame :=
  ⟨0, (0, 0), f.circs.filterMap (fun p => if slots p.1 < p.2 then some (p.1, p.2 - slots p.1) else none)⟩
/-- A frame with a packet's slots taken, 256 bytes each. -/
def LinkFrame.take (f : LinkFrame) (p : FabPkt) : LinkFrame :=
  let n := pktUnits p
  if p.vc = 3 then { f with circs := Tab.set (fun _ => 0) f.circs (circKey p) (Tab.get (fun _ => 0) f.circs (circKey p) + n) }
  else { f with used := f.used + n, given := (if p.vc = 1 then f.given.1 + n else f.given.1, if p.vc = 2 then f.given.2 + n else f.given.2) }

/-- The next waiting packet of link `l` that leaves, with the frame it leaves in (R373): in the present frame, else in the next, else in the
first in which a slot of its circuit comes. -/
def State.linkNext (s : State) (l : Nat) : Option (FabPkt × LinkFrame) :=
  let x := s.link l
  let free := 64 - s.linkRsv l
  let turn := x.turnVc (s.rfield Reg.fabArb 0 4) (s.rfield Reg.fabArb 4 4)
  let g := s.rfield Reg.pgvLevel 24 6
  match x.goers with
  | [] => none
  | p :: _ =>
    match x.pick x.frame g free s.circSlots turn with
    | some q => some (q, x.frame.take q)
    | none =>
      let f := x.frame.next s.circSlots
      match x.pick f g free s.circSlots turn with
      | some q => some (q, f.take q)
      | none => some (p, LinkFrame.take ⟨0, (0, 0), []⟩ p)

/-- Waiting packets leave while they may. -/
def State.drainLink : Nat → State → Nat → State
  | 0, s, _ => s
  | fuel + 1, s, l =>
    match s.linkNext l with
    | none => s
    | some (p, f) =>
      let x := s.link l
      let s := (s.setLink l { x with
        waiting := x.waiting.erase p, frame := f, turn := if p.vc = 1 ∨ p.vc = 2 then x.turn + 1 else x.turn }).linkSend l p
      State.drainLink fuel (s.leavesBuffer p) l

/-- A packet is queued for a link, and leaves when it may. -/
def State.linkQueue (s : State) (l : Nat) (p : FabPkt) : State :=
  let s := s.setLink l { s.link l with waiting := (s.link l).waiting ++ [p] }
  if s.linkUp l then State.drainLink (s.link l).waiting.length s l else s

/-! ## Paths (R376, R377, R395) -/

/-- The links of a path word; none where it is not VALID. -/
def pathLinks (w : Word) : Option (List Nat) :=
  if bitOf w 31 then some ((List.range (fieldOf w 28 3)).map (fun i => fieldOf w (5 * i) 5)) else none

/-- The path a router uses to a device: PRI unless its first link is FAILED or RETIRED, then ALT (R377). -/
def State.pathTo (s : State) (dev : Nat) : Option (List Nat) :=
  let bad := fun (l : List Nat) => l.any (fun k => s.linkState k = 4 || s.linkState k = 5)
  match pathLinks (s.rget (Reg.fabRoutePri dev)) with
  | some p => if bad (p.take 1) then (pathLinks (s.rget (Reg.fabRouteAlt dev))).filter (fun q => !bad (q.take 1)) else some p
  | none => none

/-- The ROUTE field of a path (R371): the links of hops 1 to 3. -/
def routeField (p : List Nat) : List (BitVec 5) := (List.range 3).map (fun i => BitVec.ofNat 5 (p.getD (i + 1) 31))

/-! ## The retention store (R379) -/

/-- Bytes the retention store holds. -/
def State.retained (s : State) : Nat :=
  (s.fab.e2e.map (fun p => (p.2.retained.map (fun q => 16 + 4 * q.2.len)).sum)).sum
/-- Whether the store has room for a packet to a device on a VC. -/
def State.retainRoom (s : State) (dev vc : Nat) (p : FabPkt) : Bool :=
  decide ((s.e2e dev vc).retained.length < 8192) && s.retained + 16 + 4 * p.len ≤ 0x400000

/-- The flag of a declaration, and source 1 + l of the link that carried the first hop to the device (R393). -/
def State.lossFlag (s : State) (dev : Nat) (part : Bool) : State :=
  let first := ((pathLinks (s.rget (Reg.fabRoutePri dev))).getD []).head?
  let s := s.rsetBit Reg.fabStatus (if part then 1 else 0) true
  match first with | some l => s.raise (1 + l) | none => s

/-- A packet that no path can carry (R377): its destination is treated as lost to a partition (R382). What this device retains of it is
discarded and counted; one that this device forwards leaves its buffer. -/
def State.cutOff (s : State) (p : FabPkt) : State :=
  let mine := p.srcDev = s.sys.myDev.toNat ∧ p.type ≠ 2 ∧ p.type ≠ 3 ∧ p.vc ≠ 3
  let s := if mine then
      let x := s.e2e p.dstDev p.vc.toNat
      (s.setE2e p.dstDev p.vc.toNat { x with retained := x.retained.filter (fun q => q.1 ≠ p.e2e) }).count Reg.fabE2eLost 1
    else s
  (s.lossFlag p.dstDev true).leavesBuffer p

/-- A packet goes towards its device on the path in force (R377). -/
def State.routeOut (s : State) (p : FabPkt) : State :=
  match s.pathTo p.dstDev with
  | some (l :: r) => s.linkQueue l { p with hop := 0, route := routeField (l :: r) }
  | _ => s.cutOff p

/-- A packet takes its end-to-end number, is retained and goes on its way. -/
def State.e2eSend (s : State) (p : FabPkt) : State :=
  let v := p.vc.toNat
  let x := s.e2e p.dstDev v
  let q := { p with e2e := x.txNext }
  (s.setE2e p.dstDev v { x with txNext := x.txNext + 1, retained := x.retained ++ [(x.txNext, q)] }).routeOut q

/-- A packet towards another device (R379, R382): to a device that is lost it is discarded and counted; while the store is full it
waits, and FAB_RET_WAIT counts the wait (a free value, log entry 61). -/
def State.toFabric (s : State) (p : FabPkt) : State :=
  if s.sys.lost.contains p.dstDev then s.count Reg.fabE2eLost 1
  else if p.type = 2 ∨ p.type = 3 ∨ p.vc = 3 then s.routeOut p
  else
    let v := p.vc.toNat
    if (s.e2e p.dstDev v).waiting ≠ [] ∨ !s.retainRoom p.dstDev v p then
      (s.setE2e p.dstDev v { s.e2e p.dstDev v with waiting := (s.e2e p.dstDev v).waiting ++ [p] }).countFree Reg.fabRetWait
    else s.e2eSend p

/-- A packet of a type (R370) with `words` payload words; word 1 [31:6] carries `bits`, and STEP a binding's step. The unit that sends is the one
of the same code. The payload of a type whose layout is internal is not modelled: it carries no words (log entry 26). -/
def State.mkPkt (s : State) (dev type vc unit : Nat) (bits : BitVec 26) (step : BitVec 48) (words : List Word) : FabPkt :=
  { type := BitVec.ofNat 4 type, vc := BitVec.ofNat 2 vc, dstDev := dev, srcDev := s.sys.myDev.toNat, unit := BitVec.ofNat 4 unit
    ddev := decide (type ≠ 1), len := words.length, e2e := 0, hop := 0, route := [], payload := words
    dstCore := 0, srcCore := 0, srcUnit := BitVec.ofNat 4 unit, sdev := decide (type ≠ 1), delay := 0, perType := bits, fixed := false
    step := step.truncate 20, via := none }

/-- The binding of a stream. -/
def State.strmBinding (s : State) (n : BitVec 8) : Nat := (s.strm n.toNat).binding.toNat
/-- The binding that a message serves; none where it serves none. -/
def State.serves' (s : State) (o : Out) : Option Nat :=
  match o with
  | .stepSignal b _ _ _ _ | .stepEnd b _ _ _ _ | .stepStart b _ _ _ | .haltAll b _ _ | .join b _ _ | .joinAnswer b _ _ | .applyPending b _
  | .applyDone b _ _ _ _ | .beacon _ b _ _ | .waitDone b _ _ _ _ _ | .beaconAnswer b _ _ _ => some b.toNat
  | .buoy _ r => some (s.strmBinding r.stream)
  | .queueNotice _ (w :: _) => some (s.queueAt (w.toNat % 4096)).binding.toNat
  | .grant _ q _ _ | .credit _ q _ _ | .sendDone _ q _ | .closeNotice _ q => some (s.queueAt q.toNat).binding.toNat
  | .grantAnswer d q _ | .message d q _ _ _ => some (s.writer d.toNat q.toNat).binding.toNat
  | .completions n _ | .data n _ _ => some (s.strmBinding n)
  | _ => none
/-- Word 1 [31:6] of the packet that carries a message (R370). -/
def State.typeBits (s : State) (o : Out) : BitVec 26 :=
  let b := (s.serves' o).getD 0 * 2 ^ 20
  BitVec.ofNat 26 (match o with
  | .grant _ q _ _ | .credit _ q _ _ | .sendDone _ q _ | .closeNotice _ q | .grantAnswer _ q _ | .message _ q _ _ _ => b + q.toNat * 2 ^ 8
  | .completions n _ | .data n _ _ => b + n.toNat * 2 ^ 12
  | .chunkAck _ c k => c.toNat * 2 ^ 18 + k.toNat
  | _ => b)
/-- The step of the binding that a message serves. -/
def State.stepOf (s : State) (b : Option Nat) : BitVec 48 := match b with | some b => (s.bnd b).step | none => 0

/-- A message to another device: `o` says what it is, and a packet carries it. -/
def State.toDevice (s : State) (dev type unit : Nat) (o : Out) : State :=
  let vc := if type = 1 then 1 else if type = 7 then 2 else 0
  (s.send o).toFabric (s.mkPkt dev type vc unit (s.typeBits o) (s.stepOf (s.serves' o)) [])

/-- What leaves for the host in `n` frames of a space of this device: from its own port before READY and at the gate device, else through
the gate device over VC0, in a CMD packet that names the space and counts the frames (R412, R413; log entry 26). -/
def State.toHost (s : State) (sp stream n : Nat) (o : Out) : State :=
  if s.isReady && !s.isGate then
    (s.send o).toFabric (s.mkPkt s.sys.gate.toNat 6 0 2 (s.typeBits o) (s.stepOf (s.serves' o)) [BitVec.ofNat 32 (sp * 2 ^ 8 + stream % 2 ^ 8), BitVec.ofNat 32 n, 0, 1])
  else (s.send o).hostFrames sp s.sys.myDev.toNat stream n false

/-- Bytes of payload after the transport header that a frame of a port holds (R401). -/
def State.frameRoom (s : State) (port : Nat) : Nat :=
  (if s.rbit (Reg.ethPortCfg port) 30 then 9000 else 1500) - 16 -
    (if s.rbit Reg.ethTpCfg 0 then (if s.rbit Reg.ethTpCfg 1 then 48 else 28) else 0)
/-- The port a space of this device uses: that of the latest frame accepted in it (R411). -/
def State.spacePort (s : State) (sp stream : Nat) : Nat := (s.space (spaceKey sp s.sys.myDev.toNat stream)).host.port.toNat

/-- A message to several devices. -/
def State.toDevices (s : State) (l : List Nat) (type unit : Nat) (o : Out) : State :=
  (s.send o).forAll l (fun s d => s.toFabric (s.mkPkt d type 0 unit (s.typeBits o) (s.stepOf (s.serves' o)) []))

/-- Words of a byte string, four bytes each. -/
def packWords : Nat → List Byte → List Word
  | 0, _ => []
  | n + 1, l => if l = [] then [] else BitVec.ofNat 32 (leNat (l.take 4)) :: packWords n (l.drop 4)

/-- BULK packets that carry bytes of binding `b` to a memory of another device, at most 2,048 words each (R368, R370). Those of a fallen-back
chunk name its circuit and begin with its number. -/
def State.bulkOut : Nat → State → Nat → Nat → Option (Nat × BitVec 18) → List Byte → State
  | 0, s, _, _, _, _ => s
  | n + 1, s, b, dev, tag, l =>
    if l = [] then s
    else
      let (bits, head, room) := match tag with
        | some (c, k) => (2 ^ 19 + c % 256 * 2 ^ 11, [k.setWidth 32], 8188)
        | none => (0, [], 8192)
      State.bulkOut n (s.toFabric (s.mkPkt dev 7 2 5 (BitVec.ofNat 26 (b % 64 * 2 ^ 20 + bits)) (s.bnd b).step (head ++ packWords 2048 (l.take room))))
        b dev tag (l.drop room)

/-- Bytes of binding `b` written to another device's memory in packet mode. -/
def State.toMemory (s : State) (b dev : Nat) (dst : Word64) (l : List Byte) : State :=
  State.bulkOut (l.length / 8192 + 1) (s.send (.bulk (BitVec.ofNat 6 dev) dst l)) b dev none l

/-! ## Circuits (R384-R387, R558) -/

/-- Packets of a circuit's chunk on the first link of its path (R384): at most 2,048 words each. -/
def State.circOut : Nat → State → Nat → BitVec 18 → List Byte → State
  | 0, s, _, _, _ => s
  | n + 1, s, c, k, l =>
    if l = [] then s
    else
      let bits := BitVec.ofNat 26 (c % 256 * 2 ^ 18 + k.toNat)
      let p := { s.mkPkt (s.rfield (Reg.fabCircCfg1 c) 24 6) 8 3 5 bits (s.bnd (s.circ c).binding.toNat).step (packWords 2048 (l.take 8192)) with
        route := routeField (s.circPath c) }
      State.circOut n (s.linkQueue (s.rfield (Reg.fabCircCfg2 c) 0 5) p) c k (l.drop 8192)

/-- A chunk leaves on its circuit: on the links of its path while the circuit is ACTIVE, as BULK packets in PACKET (R386, R387). A
circuit of no link stays within the device. -/
def State.chunkOut (s : State) (c : Nat) (flow : Word64) (x : BitVec 18 × Word64 × List Byte) : State :=
  let s := s.send (.circChunk (BitVec.ofNat 8 c) flow x.1 x.2.1 x.2.2)
  let n := x.2.2.length / 8188 + 1
  if s.rfield (Reg.fabCircCfg0 c) 0 3 = 0 then s
  else if s.circState c = 2 then State.circOut n s c x.1 x.2.2
  else State.bulkOut n s (s.circ c).binding.toNat (s.rfield (Reg.fabCircCfg1 c) 24 6) (some (c, x.1)) x.2.2

/-- A chunk as it leaves: its bytes are read from the source range that the sender keeps (R386). -/
def State.chunkNow (s : State) (f : Flow) (x : BitVec 18 × Word64 × List Byte) : BitVec 18 × Word64 × List Byte :=
  match f.src with
  | some a => (x.1, x.2.1, s.bytes (a + x.1.toNat * 65536) x.2.2.length)
  | none => x

/-- The chunks of the flow under way on a circuit that are not acknowledged leave; the transfers of an apply window are named as they
do. -/
def State.sendFlow (s : State) (c : Nat) : State :=
  match (s.circ c).flows with
  | [] => s
  | f :: _ =>
    let s := match f.learn with
      | none => s
      | some l => s.sendAll (l.xs.map (fun x => Out.xfer (some (BitVec.ofNat 8 c)) l.dev l.dst l.matrix x))
    s.forAll f.chunks (fun s x => s.chunkOut c ((f.cmd.map Prod.snd).getD 0) (s.chunkNow f x))

/-- Whether a fill is under way on a circuit, or a BERTH issued before `order` waits for it (R116, R384). -/
def State.fillAhead (s : State) (c order : Nat) : Bool :=
  s.core.cores.any (fun p =>
    [p.2.berth0, p.2.berth1].any (fun y => y.cur.any (fun q => q.circuit.toNat = c)) ||
    p.2.berthQ.any (fun q => q.circuit.toNat = c && q.order < order))

/-- The first flow of a circuit starts once no fill is under way and none of an earlier command waits: flows run one at a time, in the order in
which their commands issued (R384). -/
def State.kickCirc (s : State) (c : Nat) : State :=
  match (s.circ c).flows with
  | [] => s
  | f :: r =>
    if f.going || s.fillAhead c f.order then s
    else (s.setCirc c { s.circ c with flows := { f with going := true } :: r }).sendFlow c
/-- Every circuit of this device whose first flow may start starts it. -/
def State.kickCircs (s : State) : State := s.forAll ((s.fab.circuits.map Prod.fst).filter (fun c => c < 256)) State.kickCirc

/-- A flow joins its circuit's flows, behind those of earlier commands (R384, R558). -/
def State.addFlow (s : State) (c : Nat) (f : Flow) : State :=
  let x := s.circ c
  (s.setCirc c { x with flows := x.flows ++ [f] }).kickCirc c

end Sys2Proof.Machine
end

