-- ==== Sys2Proof/Machine/Operands.lean ====
section
/-! DEFINITION. Machine/Operands.lean: the operand forms: the population header and the sources and destinations a neuron
instruction selects (R66-R72), and the memory references of commands (R264, R265). -/

namespace Sys2Proof.Machine

/-! ## The population header (R67) -/

def Slot.hw (t : Slot) (k : Nat) : Word := t.header.getD k 0
def Slot.hf (t : Slot) (k lo w : Nat) : Nat := fieldOf (t.hw k) lo w
def Slot.progLen (t : Slot) : Nat := t.hf 0 0 11
def Slot.nFields (t : Slot) : Nat := t.hf 0 16 5
def Slot.counted (t : Slot) : Bool := t.hf 0 22 1 = 1
def Slot.regFrac (t : Slot) : Nat := t.hf 0 24 5
def Slot.pop (t : Slot) : Nat := t.hf 1 0 8
def Slot.inField (t : Slot) : Nat := t.hf 1 8 4
def Slot.inEn (t : Slot) : Bool := t.hf 1 12 1 = 1
def Slot.nConst (t : Slot) : Nat := t.hf 1 16 7
def Slot.nLocal (t : Slot) : Nat := t.hf 2 0 14
def Slot.nBase (t : Slot) : Nat := (t.hw 3).toNat
/-- Type of field `n` (R67): 0 FX16, 1 U16, 2 FX32, 3 TRACE. -/
def Slot.ftype (t : Slot) (n : Nat) : Nat := t.hf (4 + n / 4) (8 * (n % 4) + 6) 2
/-- Fraction bits of field `n`. -/
def Slot.ffrac (t : Slot) (n : Nat) : Nat := t.hf (4 + n / 4) (8 * (n % 4)) 6
/-- The descriptor byte of field `n`. -/
def Slot.fdesc (t : Slot) (n : Nat) : Nat := t.hf (4 + n / 4) (8 * (n % 4)) 8
def Slot.traceEn (t : Slot) (k : Nat) : Bool := t.hf 8 (8 * k + 7) 1 = 1
def Slot.traceW16 (t : Slot) (k : Nat) : Bool := t.hf 8 (8 * k + 6) 1 = 1
def Slot.traceHi (t : Slot) (k : Nat) : Bool := t.hf 8 (8 * k + 5) 1 = 1
def Slot.traceField (t : Slot) (k : Nat) : Nat := t.hf 8 (8 * k) 4
def Slot.traceDecay (t : Slot) (k : Nat) : Nat := t.hf 9 (4 * k) 4
def Slot.traceFire (t : Slot) (k : Nat) : Nat := t.hf (10 + k / 2) (16 * (k % 2)) 16
/-- Whether the slot holds a population (R89). -/
def Slot.valid (t : Slot) : Bool := t.header ≠ []
/-- Bytes of a record (R66). -/
def Slot.stride (t : Slot) : Nat := 2 * t.nFields
/-- Largest value of a trace (R81). -/
def Slot.traceMax (t : Slot) (k : Nat) : Nat := if t.traceW16 k then 65535 else 255

/-! ## The working copy (R65, R79) -/

/-- Field `n` of a record. -/
def recField (r : List (BitVec 16)) (n : Nat) : BitVec 16 := r.getD n 0

/-- Trace `k` of a record (R79). -/
def recTrace (t : Slot) (r : List (BitVec 16)) (k : Nat) : Nat :=
  let x := (recField r (t.traceField k)).toNat
  if t.traceW16 k then x else if t.traceHi k then x / 256 else x % 256

/-- The record with trace `k` set, clamped to its range (R81). -/
def setTrace (t : Slot) (r : List (BitVec 16)) (k : Nat) (v : Int) : List (BitVec 16) :=
  let v := (clampTo 0 (t.traceMax k) v).1.toNat
  let x := (recField r (t.traceField k)).toNat
  let y := if t.traceW16 k then v else if t.traceHi k then v * 256 + x % 256 else x / 256 * 256 + v
  r.set (t.traceField k) (BitVec.ofNat 16 y)

/-- One step of decay on trace `k` (R80). -/
def decayTrace (t : Slot) (r : List (BitVec 16)) (k : Nat) : List (BitVec 16) :=
  if t.traceEn k && t.traceDecay k ≠ 0 then
    let x := recTrace t r k
    setTrace t r k ((x : Int) - ((x + 2 ^ t.traceDecay k - 1) / 2 ^ t.traceDecay k : Nat))
  else r

/-- The integer value of the field a selector names (R67, R68): an FX32 is named by its low field. -/
def fieldValue (t : Slot) (r : List (BitVec 16)) (n : Nat) : Int :=
  if t.ftype n = 0 then (recField r n).toInt
  else if t.ftype n = 2 then signed 32 ((recField r n).toNat + 65536 * (recField r (n + 1)).toNat)
  else ((recField r n).toNat : Int)

/-- The range STF clamps to (R68). -/
def fieldRange (t : Slot) (n : Nat) : Int × Int :=
  if t.ftype n = 0 then (-32768, 32767) else if t.ftype n = 1 then (0, 65535) else (-(2 : Int) ^ 31, (2 : Int) ^ 31 - 1)

/-- The record with field `n` set to `x`. -/
def setField (t : Slot) (r : List (BitVec 16)) (n : Nat) (x : Int) : List (BitVec 16) :=
  if t.ftype n = 2 then
    (r.set n (BitVec.ofNat 16 (unsigned 32 x))).set (n + 1) (BitVec.ofNat 16 (unsigned 32 x / 65536))
  else r.set n (BitVec.ofNat 16 (unsigned 16 x))

/-- Whether selector `q` names a field of the record by F[n]: one that exists, is no trace and no high half (R85). -/
def fieldSelectable (t : Slot) (n : Nat) : Bool :=
  n < t.nFields && t.ftype n ≠ 3 && !(0 < n && t.ftype (n - 1) = 2)

/-- Whether LDF accepts selector `q` in this population (R72, R85). -/
def loadSelOk (t : Slot) (q : Nat) : Bool :=
  if q < 0x10 then fieldSelectable t q
  else if q = 0x10 then t.inEn
  else if q ≤ 0x18 then true
  else if q < 0x1C then false
  else if q ≤ 0x1F then t.traceEn (q - 0x1C)
  else if 0x40 ≤ q ∧ q < 0x80 then decide (q - 0x40 < t.nConst)
  else false

/-- Whether STF accepts selector `q` (R72, R85). -/
def storeSelOk (t : Slot) (q : Nat) : Bool :=
  q < 0x10 && fieldSelectable t q && !(t.inEn && q = t.inField)

/-- What LDF loads for selector `q` (R72), and whether the alignment clamped. -/
def loadValue (t : Slot) (c : Ctx) (l : Lane) (q : Nat) : Word × Bool :=
  let r := t.regFrac
  if q < 0x10 then alignLoad r (t.ffrac q) (fieldValue t l.wrec q)
  else if q = 0x10 then alignLoad r (t.ffrac t.inField) (fieldValue t l.wrec t.inField)
  else if q = 0x11 then alignLoad r 16 c.lat0.toInt
  else if q = 0x12 then alignLoad r 16 c.lat1.toInt
  else if q = 0x13 then alignLoad r 16 c.lat2.toInt
  else if q = 0x14 then alignLoad r 16 c.lat3.toInt
  else if q = 0x15 then (BitVec.ofNat 32 c.cstep.toNat, false)
  else if q = 0x16 then (BitVec.ofNat 32 (c.cstep.toNat / 2 ^ 32), false)
  else if q = 0x17 then (BitVec.ofNat 32 (t.nBase + l.idx), false)
  else if q = 0x18 then (BitVec.ofNat 32 l.cidx.toNat, false)
  else if q ≤ 0x1F then alignLoad r 0 (recTrace t l.wrec (q - 0x1C))
  else (t.consts.getD (q - 0x40) 0, false)

/-! ## Where a context's state lives (R26) -/

/-- The byte-memory address of a context's STATE_BASE, by residency. DESIGN CHOICE (log entry 58): the bits between the offset and the
core or slice number, [39:24] for RES 0 and [39:23] for RES 1, mean nothing and may hold anything. -/
def Ctx.home (c : Ctx) : Nat :=
  if c.res = 0 then Mem.store (c.base.toNat / 2 ^ 40) 1 + c.base.toNat % 2 ^ 24
  else if c.res = 1 then Mem.slice (c.base.toNat / 2 ^ 40) + c.base.toNat % 2 ^ 23
  else Mem.hbm + c.base.toNat % 2 ^ 38

/-- The sixteen words of a context descriptor (R26); the words reserved for Keeper read 0. -/
def Ctx.words (c : Ctx) : List Word :=
  [BitVec.ofNat 32 (c.res.toNat * 2 ^ 10 + (if c.frozen then 2 ^ 9 else 0) + (if c.valid then 2 ^ 8 else 0) + c.binding.toNat),
    BitVec.ofNat 32 c.base.toNat, BitVec.ofNat 32 (c.base.toNat / 2 ^ 32), BitVec.ofNat 32 c.cidx.toNat,
    BitVec.ofNat 32 c.cstep.toNat, BitVec.ofNat 32 (c.cstep.toNat / 2 ^ 32), c.mod0, c.mod1, c.mod2, c.mod3,
    BitVec.ofNat 32 (c.cnvFirst.toNat + c.cnvCount.toNat * 2 ^ 12), 0, 0, 0, 0, 0]

/-- The address of the record of local neuron `i` of a population in a context (R66). -/
def recordAddr (c : Ctx) (t : Slot) (i : Nat) : Nat := c.home + t.poff.toNat + i * t.stride

/-- Reads a record into a list of fields. -/
def State.readRec (s : State) (c : Ctx) (t : Slot) (i : Nat) : List (BitVec 16) :=
  (List.range t.nFields).map (fun n => BitVec.ofNat 16 (s.leAt (recordAddr c t i + 2 * n) 2))

/-- The bytes of a record. -/
def recBytes (r : List (BitVec 16)) : List Byte := r.flatMap (fun x => leBytes 2 x.toNat)

/-- Whether a context takes part in its binding's steps: VALID, resident and not held at the gate (R26, R28, R176). -/
def Ctx.active (c : Ctx) : Bool := c.valid && (c.res = 0 || c.res = 1) && !c.gated

/-- Whether a context is resident on core `n` (R26, R61): in that core's state store, or in a slice (DEDUCED, log entry 13). -/
def Ctx.onCore (c : Ctx) (n : Nat) : Bool :=
  c.valid && ((c.res = 0 && c.base.toNat / 2 ^ 40 = n) || c.res = 1)

/-- FROZEN_CTX of a context (R26): it stands on a frozen core of its binding. -/
def State.ctxFrozen (s : State) (c : Ctx) : Bool :=
  (List.range 16).any (fun k => (s.cor k).bound && (s.cor k).binding = c.binding && (s.cor k).frozen && c.onCore k)

/-- Whether a system core is bound to another binding than `b` (R205, R210, R234): of a core of another device the value is free (log entry
63). -/
def State.foreignCore (s : State) (b k : Nat) : Bool :=
  match s.localOf k with
  | some n => (s.cor n).bound && (s.cor n).binding.toNat ≠ b
  | none => decide (k < s.sysSize) && (Config.peerOwner k s.tmr.tb.toNat).any (fun x => x.toNat ≠ b)

/-- Inserts a context in ascending CIDX. -/
def insertCidx (x : Nat × Ctx) : List (Nat × Ctx) → List (Nat × Ctx)
  | [] => [x]
  | y :: r => if x.2.cidx.toNat ≤ y.2.cidx.toNat then x :: y :: r else y :: insertCidx x r

/-- The contexts of binding `b` with their numbers, in ascending CIDX. -/
def State.ctxsOf (s : State) (b : Nat) : List (Nat × Ctx) :=
  (s.cmd.ctxs.filter (fun p => p.2.valid && p.2.binding.toNat = b)).foldr insertCidx []

/-- The contexts of binding `b` that take part in the step on core `n` (R61). -/
def State.coreCtxs (s : State) (n b : Nat) : List (Nat × Ctx) :=
  (s.ctxsOf b).filter (fun p => p.2.active && p.2.onCore n)

/-- The context of binding `b` with context index `x`, if there is one. -/
def State.ctxByIdx (s : State) (b x : Nat) : Option (Nat × Ctx) := (s.ctxsOf b).find? (fun p => p.2.cidx.toNat = x)

/-- The program slots of core `n` that hold a population, in ascending order. -/
def State.slotsOf (s : State) (n : Nat) : List Nat := (List.range 64).filter (fun t => (s.slotAt n t).valid)

end Sys2Proof.Machine
end

