-- ==== Sys2Proof/Machine/Neuron.lean ====
section
/-! DEFINITION. Machine/Neuron.lean: the neuron engine (R61-R90): loading a lane group, the instructions of R71 on every active
lane of a core's group, and END. -/

namespace Sys2Proof.Machine

/-! ## Lanes -/

def Lane.reg (l : Lane) (a : BitVec 4) : Word := l.v[a.toNat]'a.isLt
def Lane.setReg (l : Lane) (d : BitVec 4) (x : Word) : Lane := { l with v := l.v.set d.toNat x d.isLt }
def Lane.regI (l : Lane) (a : BitVec 4) : Int := (l.reg a).toInt

/-- The lane that an instance starts with (R64): registers and fire count 0. -/
def Lane.fresh (ctx : Nat) (cidx : BitVec 18) (idx : Nat) (r : List (BitVec 16)) : Lane :=
  ⟨true, ctx, cidx, idx, Vector.replicate (2 ^ 4) 0, 0, false, r⟩

/-- The lane with a value and its ASAT written to V[d]. -/
def Lane.result (l : Lane) (d : BitVec 4) (r : Word × Bool) : Lane × NFlags := (l.setReg d r.1, NFlags.ofAsat r.2)

/-- One instruction on every active lane; an inactive lane executes nothing (R61). The flags of all lanes reach
CORE_NRN_FLAGS of the group's slot (R88). -/
def State.runLanes (s : State) (n : Nat) (f : Slot → Ctx → Lane → Lane × NFlags) : State :=
  let c := s.cor n
  let t := s.slotAt n c.slot
  let r := c.lanes.map (fun l => if l.active then f t (s.ctx l.ctx) l else (l, NFlags.none))
  let fl := (r.map Prod.snd).foldl NFlags.or NFlags.none
  (s.setCor n { c with lanes := r.map Prod.fst }).rmod (Reg.coreNrnFlags n c.slot) (· ||| fl.word)

/-! ## Instructions (R71) -/

def laneMovi (d : BitVec 4) (imm : BitVec 14) (l : Lane) : Lane × NFlags :=
  (l.setReg d (imm.signExtend 32), NFlags.none)
def laneLdf (d : BitVec 4) (sel : BitVec 8) (t : Slot) (c : Ctx) (l : Lane) : Lane × NFlags :=
  if loadSelOk t sel.toNat then l.result d (loadValue t c l sel.toNat) else (l, NFlags.none)
def laneStf (a : BitVec 4) (sel : BitVec 8) (t : Slot) (l : Lane) : Lane × NFlags :=
  if storeSelOk t sel.toNat then
    let n := sel.toNat
    let x := alignStore t.regFrac (t.ffrac n) (fieldRange t n).1 (fieldRange t n).2 (l.reg a)
    ({ l with wrec := setField t l.wrec n x.1 }, NFlags.ofFsat x.2)
  else (l, NFlags.none)
def laneAdd (d a b : BitVec 4) (l : Lane) : Lane × NFlags := l.result d (sat32 (l.regI a + l.regI b))
def laneSub (d a b : BitVec 4) (l : Lane) : Lane × NFlags := l.result d (sat32 (l.regI a - l.regI b))
def laneMulq (d a b : BitVec 4) (q : BitVec 5) (l : Lane) : Lane × NFlags :=
  l.result d (sat32 (rneShift (l.regI a * l.regI b) q.toNat))
def laneMac (d a b : BitVec 4) (q : BitVec 5) (l : Lane) : Lane × NFlags :=
  l.result d (sat32 (l.regI d + rneShift (l.regI a * l.regI b) q.toNat))
def laneDecay (d a : BitVec 4) (k1 k2 : BitVec 5) (l : Lane) : Lane × NFlags :=
  let x := l.reg a
  let y := x - x.sshiftRight k1.toNat
  (l.setReg d (if k2 = 0 then y else y - x.sshiftRight k2.toNat), NFlags.none)
def laneMin (d a b : BitVec 4) (l : Lane) : Lane × NFlags :=
  (l.setReg d (if l.regI a ≤ l.regI b then l.reg a else l.reg b), NFlags.none)
def laneMax (d a b : BitVec 4) (l : Lane) : Lane × NFlags :=
  (l.setReg d (if l.regI a ≤ l.regI b then l.reg b else l.reg a), NFlags.none)
def laneClamp (d a b : BitVec 4) (l : Lane) : Lane × NFlags :=
  let m := if l.regI d ≤ l.regI a then l.reg a else l.reg d
  (l.setReg d (if m.toInt ≤ l.regI b then m else l.reg b), NFlags.none)
def laneCmpgt (d a b : BitVec 4) (l : Lane) : Lane × NFlags :=
  (l.setReg d (if l.regI b < l.regI a then 0xFFFFFFFF else 0), NFlags.none)
def laneCmpge (d a b : BitVec 4) (l : Lane) : Lane × NFlags :=
  (l.setReg d (if l.regI b ≤ l.regI a then 0xFFFFFFFF else 0), NFlags.none)
def laneSel (d a b c : BitVec 4) (l : Lane) : Lane × NFlags :=
  (l.setReg d (if l.reg c ≠ 0 then l.reg a else l.reg b), NFlags.none)

/-- The bumps of FIRE with fire count `n` (R81). -/
def fireBumps (t : Slot) (n : Nat) (r : List (BitVec 16)) : List (BitVec 16) :=
  [0, 1, 2, 3].foldl (fun r k => if t.traceEn k && 1 ≤ n then setTrace t r k (recTrace t r k + t.traceFire k * n) else r) r

/-- FIRE (R75, R77). -/
def laneFire (d a b : BitVec 4) (t : Slot) (l : Lane) : Lane × NFlags :=
  let x := l.regI a
  let y := l.regI b
  let cap := if t.counted then 7 else 1
  let q : Nat := if 0 < y ∧ y ≤ x then (x / y).toNat else 0
  let n := min q cap
  ({ (l.setReg d (BitVec.ofNat 32 n)) with
      n := n, exc := l.exc || decide (cap < q), wrec := fireBumps t n l.wrec }, NFlags.ofThrf (decide (y ≤ 0)))
def laneRsub (d a b : BitVec 4) (l : Lane) : Lane × NFlags := l.result d (sat32 (l.regI a - l.n * l.regI b))
def laneRset (d a b : BitVec 4) (l : Lane) : Lane × NFlags :=
  (l.setReg d (if 0 < l.n then l.reg b else l.reg a), NFlags.none)
def laneTbump (a : BitVec 4) (k : BitVec 2) (t : Slot) (l : Lane) : Lane × NFlags :=
  if t.traceEn k.toNat then
    ({ l with wrec := setTrace t l.wrec k.toNat (recTrace t l.wrec k.toNat + rneShift (l.regI a) t.regFrac) }, NFlags.none)
  else (l, NFlags.none)
/-- RAND (R73): the binding's seed keys the draw. -/
def laneRand (seed : Word64) (d : BitVec 4) (k : BitVec 6) (t : Slot) (c : Ctx) (l : Lane) : Lane × NFlags :=
  (l.setReg d (philoxWord seed c.cstep (t.nBase + l.idx) l.cidx.toNat t.pop 0 k.toNat), NFlags.none)

def execNop (core : BitVec 10) (s : State) : Result := live s fun s => s.runLanes core.toNat fun _ _ l => (l, NFlags.none)
def execMovi (core : BitVec 10) (d : BitVec 4) (imm : BitVec 14) (s : State) : Result :=
  live s fun s => s.runLanes core.toNat fun _ _ l => laneMovi d imm l
def execLdf (core : BitVec 10) (d : BitVec 4) (sel : BitVec 8) (s : State) : Result :=
  live s fun s => s.runLanes core.toNat fun t c l => laneLdf d sel t c l
def execStf (core : BitVec 10) (a : BitVec 4) (sel : BitVec 8) (s : State) : Result :=
  live s fun s => s.runLanes core.toNat fun t _ l => laneStf a sel t l
def execAdd (core : BitVec 10) (d a b : BitVec 4) (s : State) : Result :=
  live s fun s => s.runLanes core.toNat fun _ _ l => laneAdd d a b l
def execSub (core : BitVec 10) (d a b : BitVec 4) (s : State) : Result :=
  live s fun s => s.runLanes core.toNat fun _ _ l => laneSub d a b l
def execMulq (core : BitVec 10) (d a b : BitVec 4) (q : BitVec 5) (s : State) : Result :=
  live s fun s => s.runLanes core.toNat fun _ _ l => laneMulq d a b q l
def execMac (core : BitVec 10) (d a b : BitVec 4) (q : BitVec 5) (s : State) : Result :=
  live s fun s => s.runLanes core.toNat fun _ _ l => laneMac d a b q l
/-- DECAY; a program with k1 = 0 is never accepted (R85), so a row with it runs nothing. -/
def execDecay (core : BitVec 10) (d a : BitVec 4) (k1 k2 : BitVec 5) (s : State) : Result :=
  live s fun s => if k1 = 0 then s else s.runLanes core.toNat fun _ _ l => laneDecay d a k1 k2 l
def execMin (core : BitVec 10) (d a b : BitVec 4) (s : State) : Result :=
  live s fun s => s.runLanes core.toNat fun _ _ l => laneMin d a b l
def execMax (core : BitVec 10) (d a b : BitVec 4) (s : State) : Result :=
  live s fun s => s.runLanes core.toNat fun _ _ l => laneMax d a b l
def execClamp (core : BitVec 10) (d a b : BitVec 4) (s : State) : Result :=
  live s fun s => s.runLanes core.toNat fun _ _ l => laneClamp d a b l
def execCmpgt (core : BitVec 10) (d a b : BitVec 4) (s : State) : Result :=
  live s fun s => s.runLanes core.toNat fun _ _ l => laneCmpgt d a b l
def execCmpge (core : BitVec 10) (d a b : BitVec 4) (s : State) : Result :=
  live s fun s => s.runLanes core.toNat fun _ _ l => laneCmpge d a b l
def execSel (core : BitVec 10) (d a b c : BitVec 4) (s : State) : Result :=
  live s fun s => s.runLanes core.toNat fun _ _ l => laneSel d a b c l
def execFire (core : BitVec 10) (d a b : BitVec 4) (s : State) : Result :=
  live s fun s => s.runLanes core.toNat fun t _ l => laneFire d a b t l
def execRsub (core : BitVec 10) (d a b : BitVec 4) (s : State) : Result :=
  live s fun s => s.runLanes core.toNat fun _ _ l => laneRsub d a b l
def execRset (core : BitVec 10) (d a b : BitVec 4) (s : State) : Result :=
  live s fun s => s.runLanes core.toNat fun _ _ l => laneRset d a b l
def execTbump (core : BitVec 10) (a : BitVec 4) (k : BitVec 2) (s : State) : Result :=
  live s fun s => s.runLanes core.toNat fun t _ l => laneTbump a k t l
def execRand (core : BitVec 10) (d : BitVec 4) (k : BitVec 6) (s : State) : Result :=
  live s fun s =>
    s.runLanes core.toNat fun t c l => laneRand (s.bnd (s.cor core.toNat).binding.toNat).seed d k t c l

/-! ## Starting a lane group (R61, R62, R65, R90) -/

/-- The instances of a population on a core, by context and then by neuron (R61). -/
def instancesOf (cs : List (Nat × Ctx)) (t : Slot) : List (Nat × Ctx × Nat) :=
  cs.flatMap (fun c => (List.range t.nLocal).map (fun i => (c.1, c.2, i)))

/-- The lane of one instance: its record with the decay of R80, or no lane when the record is uncorrectable (R90). -/
def State.loadLane (s : State) (t : Slot) (x : Nat × Ctx × Nat) : Lane :=
  let r := [0, 1, 2, 3].foldl (decayTrace t) (s.readRec x.2.1 t x.2.2)
  let l := Lane.fresh x.1 x.2.1.cidx x.2.2 r
  { l with active := !s.badRange (recordAddr x.2.1 t x.2.2) t.stride }

/-- The slot and position of the next group: the present slot while it has instances left, then the next slots of the
binding in ascending order (R62). -/
def State.nextGroup (s : State) (n : Nat) : Option (Nat × Nat) :=
  let c := s.cor n
  let b := c.binding.toNat
  let cs := s.coreCtxs n b
  let size := fun t => (instancesOf cs (s.slotAt n t)).length
  if c.pos < size c.slot ∧ (s.slotAt n c.slot).valid then some (c.slot, c.pos)
  else ((s.slotsOf n).find? (fun t => c.slot < t && 0 < size t)).map (fun t => (t, 0))

/-- Phase 2 of the core ends once no group runs and none is left; phase 3 then runs (R228), and the learning pass of the step (R164,
R194). -/
def State.phase2End (s : State) (n : Nat) : State :=
  let c := s.cor n
  if c.phase = .neuron ∧ c.lanes = [] ∧ s.nextGroup n = none then
    ((s.setCor n { c with phase := .emit, learnDue := true }).rsetBit (Reg.coreRteStatus n) 0 (!c.frozen)).rsetBit
      (Reg.coreLrnStatus n) 0 (!c.frozen)
  else s

/-- LANE_GROUP_START: in phase 2 of a core that is not frozen (R210), with no group running, the next group of 512 instances is loaded, to run every instruction of its
program (R424); a record in uncorrectable
error sets ECCF, raises the physical core's source and gives the covering command ECC_FATAL (R90). -/
def State.startGroup (s : State) (n : Nat) : State :=
  let c := s.cor n
  if c.phase ≠ .neuron ∨ c.lanes ≠ [] ∨ c.frozen then s
  else
    match s.nextGroup n with
    | none => s
    | some (t, p) =>
      let sl := s.slotAt n t
      let ls := (((instancesOf (s.coreCtxs n c.binding.toNat) sl).drop p).take 512).map (s.loadLane sl)
      let s := (s.setCor n { c with slot := t, pos := p, lanes := ls }).unitActs 2 2 sl.progLen
      if ls.all (·.active) then s
      else ((s.rsetBit (Reg.coreNrnFlags n t) 3 true).raiseCore n).stepStatus c.binding.toNat St.eccFatal

def execLaneGroupStart (core : BitVec 10) (s : State) : Result := live s fun s => s.startGroup core.toNat

/-! ## END (R65, R76, R77, R86) -/

/-- The working copy as END writes it back: IN is 0. -/
def endRec (t : Slot) (r : List (BitVec 16)) : List (BitVec 16) := if t.inEn then setField t r t.inField 0 else r

/-- Writes one active lane's record back. -/
def State.endLane (s : State) (t : Slot) (l : Lane) : State :=
  if l.active then s.putBytes (recordAddr (s.ctx l.ctx) t l.idx) (recBytes (endRec t l.wrec)) else s

/-- The firing lanes of a group in lane order (R76). -/
def firingOf (slot : Nat) (ls : List Lane) : List Firing :=
  (ls.filter (fun l => l.active && 1 ≤ l.n)).map (fun l => ⟨slot, l.cidx, l.idx, l.n⟩)

/-- END on the core's lane group. Its firing instances are the route unit's from now on, whose phase 3 may run while later groups do (R32,
R228). -/
def State.endGroup (s : State) (n : Nat) : State :=
  let c := s.cor n
  let t := s.slotAt n c.slot
  let f := firingOf c.slot c.lanes
  let s := s.forAll c.lanes (fun s l => s.endLane t l)
  let s := s.setCor n
    { c with lanes := [], pos := c.pos + c.lanes.length, fired := c.fired ++ f, firing := c.firing ++ f }
  let s := if f = [] then s else s.rsetBit (Reg.coreRteStatus n) 0 true
  let s := s.longSat (Reg.coreNrnExcLo n c.slot) (c.lanes.countP (fun l => l.active && l.exc))
  (s.longSat (Reg.coreNrnSpkLo n c.slot) f.length).phase2End n

def execEndInstr (core : BitVec 10) (s : State) : Result := live s fun s => s.endGroup core.toNat

end Sys2Proof.Machine
end

