-- ==== Sys2Proof/Machine/Formats.lean ====
section
/-! DEFINITION. Machine/Formats.lean: the number formats, block and row scales and conversions of R127-R149. -/

namespace Sys2Proof.Machine

/-! ## Exact values -/

/-- m × 2^e with e brought down to `e'` ≤ e, as an integer. -/
def Dy.scaled (x : Dy) (e' : Int) : Int := x.m * (2 : Int) ^ (x.e - e').toNat
def Dy.zero : Dy := ⟨0, 0⟩
def Dy.ofInt (x : Int) : Dy := ⟨x, 0⟩
def Dy.add (x y : Dy) : Dy := ⟨x.scaled (min x.e y.e) + y.scaled (min x.e y.e), min x.e y.e⟩
def Dy.neg (x : Dy) : Dy := ⟨-x.m, x.e⟩
def Dy.mul (x y : Dy) : Dy := ⟨x.m * y.m, x.e + y.e⟩
def Dy.abs (x : Dy) : Dy := ⟨x.m.natAbs, x.e⟩
def Dy.shift (x : Dy) (k : Int) : Dy := ⟨x.m, x.e + k⟩
def Dy.le (x y : Dy) : Bool := x.scaled (min x.e y.e) ≤ y.scaled (min x.e y.e)
def Dy.max (x y : Dy) : Dy := if x.le y then y else x
/-- The value as a quotient n / 2^k of integers. -/
def Dy.num (x : Dy) : Int := x.scaled (min x.e 0)
def Dy.den (x : Dy) : Nat := 2 ^ (-(min x.e 0)).toNat
/-- The integer nearest below. -/
def Dy.floor (x : Dy) : Int := x.num / x.den
/-- The integer nearest, ties to even. -/
def Dy.round (x : Dy) : Int := if 0 ≤ x.e then x.num else rneShift x.m (-x.e).toNat

/-! ## Formats (R127-R129, R141) -/

/-- Bits of an element. -/
def fmtBits (f : Nat) : Nat := [1, 2, 4, 8, 4, 8, 8, 16, 16].getD f 16
/-- Formats with a block scale. -/
def fmtBlocked (f : Nat) : Bool := f ≤ 6
/-- Mantissa bits of a floating-point format. -/
def fmtMant (f : Nat) : Nat := if f = 4 then 1 else if f = 5 then 3 else if f = 6 then 2 else if f = 7 then 7 else 10
/-- Exponent of the subnormals of a floating-point format. -/
def fmtEmin (f : Nat) : Int := if f = 4 then -1 else if f = 5 then -9 else if f = 6 then -16 else if f = 7 then -133 else -24
/-- Whether the format is a floating-point format. -/
def fmtFloat (f : Nat) : Bool := 4 ≤ f && f ≤ 8
/-- Qpos (R141). -/
def fmtQpos (f : Nat) : Dy :=
  if f ≤ 1 then ⟨1, 0⟩ else if f = 2 then ⟨7, 0⟩ else if f = 3 then ⟨127, 0⟩ else if f = 4 then ⟨6, 0⟩
  else if f = 5 then ⟨448, 0⟩ else if f = 6 then ⟨57344, 0⟩ else if f = 7 then ⟨255, 120⟩ else ⟨65504, 0⟩
/-- Qneg of the integer formats (R141). -/
def fmtQneg (f : Nat) : Int := if f ≤ 1 then -1 else if f = 2 then -8 else -128

/-- M and E of an element code (R128, R129); none for an infinity or a NaN. -/
def decodeElem (f c : Nat) : Option (Int × Int) :=
  if f = 0 then some (if c % 2 = 0 then 1 else -1, 0)
  else if f = 1 then some (if c % 4 = 1 then 1 else if c % 4 = 3 then -1 else 0, 0)
  else if f = 2 then some (signed 4 c, 0)
  else if f = 3 then some (signed 8 c, 0)
  else
    let mb := fmtMant f
    let b := fmtBits f
    let m := c % 2 ^ mb
    let e := c / 2 ^ mb % 2 ^ (b - 1 - mb)
    let top := 2 ^ (b - 1 - mb) - 1
    let sg : Int := if c / 2 ^ (b - 1) % 2 = 1 then -1 else 1
    if f = 5 ∧ e = top ∧ m = 7 then none
    else if f ≠ 4 ∧ f ≠ 5 ∧ e = top then none
    else if e = 0 then some (sg * m, fmtEmin f)
    else some (sg * (2 ^ mb + m : Nat), fmtEmin f + (e : Int) - 1)

/-- The exact value of an element code; 0 for an infinity or a NaN. -/
def elemValue (f c : Nat) : Dy := match decodeElem f c with | some (m, e) => ⟨m, e⟩ | none => Dy.zero

/-- The floor of log2 of n / d, for positive n and d. -/
def log2Q (n d : Nat) : Int :=
  let k : Int := (Nat.log2 n : Int) - Nat.log2 d
  if n * 2 ^ (-k).toNat < d * 2 ^ k.toNat then k - 1 else k

/-- n / d / 2^e to the nearest integer, ties to even. -/
def rneQ (n d : Nat) (e : Int) : Nat := (rneDiv (n * 2 ^ (-e).toNat) (d * 2 ^ e.toNat)).toNat

/-- One converted element: its code, whether it saturated and whether it underflowed (R143, R145). -/
structure Elem where
  code : Nat
  sat  : Bool
  und  : Bool
deriving DecidableEq, Repr

/-- A floating-point element nearest to n / d (R143). -/
def convFloat (f : Nat) (n : Int) (d : Nat) : Elem :=
  let a := n.natAbs
  let mb := fmtMant f
  let sgn := if n < 0 then 2 ^ (fmtBits f - 1) else 0
  if a = 0 then ⟨0, false, false⟩
  else
    let e := Max.max (fmtEmin f) (log2Q a d - mb)
    let r := rneQ a d e
    let (m, e) := if r = 2 ^ (mb + 1) then (2 ^ mb, e + 1) else (r, e)
    if m = 0 then ⟨0, false, true⟩
    else if !(Dy.le ⟨m, e⟩ (fmtQpos f)) then
      let q := (fmtQpos f)
      let qe := log2Q q.num.toNat q.den - mb
      let qm := rneQ q.num.toNat q.den qe
      ⟨sgn + (qe - fmtEmin f + 1).toNat * 2 ^ mb + (qm - 2 ^ mb), true, false⟩
    else if m < 2 ^ mb then ⟨sgn + m, false, false⟩
    else ⟨sgn + (e - fmtEmin f + 1).toNat * 2 ^ mb + (m - 2 ^ mb), false, false⟩

/-- An integer element nearest to n / d, with zero point `z` (R143, R145). -/
def convInt (f : Nat) (n : Int) (d : Nat) (z : Int) : Elem :=
  if f = 0 then ⟨if 0 ≤ n then 0 else 1, decide (d < n.natAbs), false⟩
  else
    let q := rneDiv n d + z
    let c := clampTo (fmtQneg f) (fmtQpos f).m q
    ⟨unsigned (fmtBits f) c.1, c.2, decide (n ≠ 0) && decide (c.1 = z)⟩

/-- The element of format `f` nearest to n / d. -/
def convElem (f : Nat) (n : Int) (d : Nat) (z : Int) : Elem := if fmtFloat f then convFloat f n d else convInt f n d z

/-! ## Scales (R132, R136, R142) -/

/-- A row scale: its code and its value M × 2^E. -/
def fp16Value (c : Nat) : Option Dy :=
  let e := c / 1024 % 32
  let m := c % 1024
  if c / 32768 % 2 = 1 ∨ c % 32768 = 0 ∨ e = 31 then none
  else if e = 0 then some ⟨m, -24⟩ else some ⟨1024 + m, (e : Int) - 25⟩

/-- The code of the smallest FP16 normal at or above amax / Qpos, 65,504 where there is none (R142). -/
def rowScale (f : Nat) (amax : Dy) : Nat :=
  if amax.m = 0 then 0x0400
  else
    let q := fmtQpos f
    let n := (amax.num * q.den).toNat
    let d := (q.num * amax.den).toNat
    let e := Max.max (-24 : Int) (log2Q n d - 10)
    let m0 := (n * 2 ^ (-e).toNat + d * 2 ^ e.toNat - 1) / (d * 2 ^ e.toNat)
    let (m, e) := if m0 ≥ 2048 then (1024, e + 1) else (Max.max m0 1024, e)
    if e > 5 then 0x7BFF else (e + 25).toNat * 1024 + (m - 1024)

/-- The scale byte of a block: the smallest X in 0..254 with amax ≤ Qpos · R · 2^(X − 127), or 254 (R142). -/
def blockScale (f : Nat) (r amax : Dy) : Nat :=
  if amax.m = 0 then 0
  else
    let lim := ((fmtQpos f).mul r).shift (-127)
    let n := (amax.num * lim.den).toNat
    let d := (lim.num * amax.den).toNat
    if n ≤ d then 0
    else
      let k := log2Q n d
      let k := if n ≤ d * 2 ^ k.toNat then k.toNat else k.toNat + 1
      min k 254

/-! ## A conversion (R140-R149) -/

/-- A converted row: element codes, scale bytes by block, row scales by segment, and the counts of R149. -/
structure Conv where
  codes : List Nat
  xs    : List Nat
  rs    : List Nat
  satN  : Nat
  undN  : Nat
  rescN : Nat
deriving DecidableEq, Repr

/-- CVTW fields (R146). -/
def cvtFmt (w : Nat) : Nat := w % 16
def cvtCarry (w : Nat) : Bool := w / 16 % 2 = 1
def cvtRescue (w : Nat) : Nat := w / 64 % 64

/-- A list cut into pieces of `k`, `n` of them. -/
def pieces {α : Type} (k : Nat) : Nat → List α → List (List α)
  | 0, _ => []
  | n + 1, l => l.take k :: pieces k n (l.drop k)

/-- Pieces of `k` that cover a list. -/
def cut {α : Type} (k : Nat) (l : List α) : List (List α) := pieces k ((l.length + k - 1) / k) l

/-- The largest magnitude of a list (R142). -/
def amaxOf (l : List Dy) : Dy := l.foldl (fun a x => Dy.max a x.abs) Dy.zero

/-- One block by R143 under scales R and X. -/
def convBlock (f : Nat) (r : Dy) (x : Nat) (z : Int) (l : List Dy) : List Elem :=
  let sc := r.shift ((x : Int) - 127)
  l.map (fun v => convElem f (v.num * sc.den) ((sc.num * v.den).toNat) z)

/-- A block fresh (R142), or by a carried scale with the rescue of R148. -/
def convBlockCarried (f : Nat) (r : Dy) (carried : Option Nat) (frac : Nat) (z : Int) (l : List Dy) :
    List Elem × Nat × Bool :=
  match carried with
  | none => let x := blockScale f r (amaxOf l); (convBlock f r x z l, x, false)
  | some x0 =>
    let e := convBlock f r x0 z l
    if frac < e.countP (·.sat) then
      let x := blockScale f r (amaxOf l)
      (convBlock f r x z l, x, true)
    else (e, x0, false)

/-- A row scale that the device itself may write (R138): positive and normal. -/
def rowScaleOk (c : Nat) : Bool := 0x0400 ≤ c && c ≤ 0x7BFF

/-- A row of source values into format `f` (R140): `rowScaled` for the tensors of R136, `carried` the scales the previous
conversion left (R147) and `frac` SAT_RESCUE_FRAC. Where a row has been written over since and what stands there is no scale that the device
writes (R132, R138), its block or its segment takes a fresh pass. -/
def convRow (f : Nat) (rowScaled : Bool) (carried : Option (List Nat × List Nat)) (frac : Nat) (z : Int)
    (src : List Dy) : Conv :=
  if !fmtBlocked f then
    let e := convBlock f ⟨1, 0⟩ 127 z src
    ⟨e.map (·.code), [], [], e.countP (·.sat), e.countP (·.und), 0⟩
  else
    let segs := cut 256 src
    let kept := segs.zipIdx.map (fun p => (carried.map (fun c => c.2.getD p.2 0x0400)).filter rowScaleOk)
    let rs := segs.zipIdx.map (fun p => if !rowScaled then 0x3C00 else (kept.getD p.2 none).getD (rowScale f (amaxOf p.1)))
    let bl := (cut 32 src).zipIdx.map (fun p =>
      let x := (carried.map (fun c => c.1.getD p.2 0)).filter (fun x => x ≠ 255 && (!rowScaled || (kept.getD (p.2 / 8) none).isSome))
      convBlockCarried f ((fp16Value (rs.getD (p.2 / 8) 0x3C00)).getD ⟨1, 0⟩) x frac z p.1)
    let es := bl.flatMap (·.1)
    ⟨es.map (·.code), bl.map (·.2.1), if rowScaled then rs else [], es.countP (·.sat), es.countP (·.und),
      bl.countP (·.2.2)⟩

/-! ## Rows as bytes (R94, R131, R137) -/

/-- NCOL rounded up to a multiple of 32 (R94). -/
def ncolp (n : Nat) : Nat := (n + 31) / 32 * 32
/-- Weight bytes of a row (R94). -/
def rowWB (f n : Nat) : Nat := ncolp n * fmtBits f / 8
/-- Scale bytes of a row (R94). -/
def rowSB (f n : Nat) : Nat := if fmtBlocked f then ncolp n / 32 else 0
def round16 (n : Nat) : Nat := (n + 15) / 16 * 16
/-- The stride of a weight or optimiser row (R94). -/
def rowStride (f n : Nat) : Nat := round16 (rowWB f n + rowSB f n)
/-- The bytes of a row-scaled row (R137). -/
def scaledStride (f n : Nat) : Nat :=
  if fmtBlocked f then round16 (rowWB f n + rowSB f n + 2 * ((ncolp n + 255) / 256)) else round16 (2 * ncolp n)

/-- Element codes of width `b` packed into bytes, element 0 lowest (R131). -/
def packCodes (b : Nat) (l : List Nat) : List Byte :=
  leBytes ((l.length * b + 7) / 8) (l.foldr (fun c a => c + 2 ^ b * a) 0)
/-- Element `i` of width `b` of a byte string (R131). -/
def codeAt (b : Nat) (l : List Byte) (i : Nat) : Nat :=
  if b = 16 then (l.getD (2 * i) 0).toNat + 256 * (l.getD (2 * i + 1) 0).toNat
  else (l.getD (b * i / 8) 0).toNat / 2 ^ (b * i % 8) % 2 ^ b
/-- Pads to `n` bytes. -/
def padTo (n : Nat) (l : List Byte) : List Byte := l ++ List.replicate (n - l.length) 0

/-- A converted row in the packed layout: whole blocks with their scale bytes, then row scales, padded (R131, R137). -/
def Conv.packed (c : Conv) (f : Nat) : List Byte :=
  let body := if fmtBlocked f then
      (cut 32 c.codes).zipIdx.flatMap (fun p => padTo (4 * fmtBits f) (packCodes (fmtBits f) p.1) ++ [BitVec.ofNat 8 (c.xs.getD p.2 0)])
    else packCodes (fmtBits f) c.codes
  let l := body ++ c.rs.flatMap (fun r => leBytes 2 r)
  padTo (round16 l.length) l

/-- A packed row as the synapse store holds it: weight bytes first, then scale bytes (R94). -/
def storeLayout (f n : Nat) (l : List Byte) : List Byte :=
  if fmtBlocked f then
    let k := 4 * fmtBits f
    let bl := pieces (k + 1) (ncolp n / 32) l
    padTo (rowStride f n) (bl.flatMap (·.take k) ++ bl.flatMap (fun b => (b.drop k).take 1))
  else padTo (rowStride f n) (l.take (rowWB f n))

/-- A row of the synapse store back in the packed layout. -/
def packedLayout (f n : Nat) (l : List Byte) : List Byte :=
  if fmtBlocked f then
    let k := 4 * fmtBits f
    let w := pieces k (ncolp n / 32) l
    padTo (rowStride f n) (w.zipIdx.flatMap (fun p => p.1 ++ [l.getD (rowWB f n + p.2) 0]))
  else padTo (rowStride f n) (l.take (rowWB f n))

/-- A row scale of a packed row-scaled row: none where it is no scale (R138). -/
def rowScaleAt (f n : Nat) (l : List Byte) (g : Nat) : Option Dy :=
  let o := ncolp n / 32 * (4 * fmtBits f + 1) + 2 * g
  fp16Value ((l.getD o 0).toNat + 256 * (l.getD (o + 1) 0).toNat)
/-- The scale byte of block `k` of a packed row (R132). -/
def blockScaleAt (f : Nat) (l : List Byte) (k : Nat) : Nat := (l.getD (k * (4 * fmtBits f + 1) + 4 * fmtBits f) 0).toNat
/-- The code of element `i` of a packed row (R131, R137). -/
def packedCode (f : Nat) (l : List Byte) (i : Nat) : Nat :=
  if fmtBlocked f then codeAt (fmtBits f) ((l.drop (i / 32 * (4 * fmtBits f + 1))).take (4 * fmtBits f)) (i % 32) else codeAt 16 l i

/-- What reading a packed row-scaled or plain row gives, with zero point `z` (R145): the values of its columns and how many blocks
and segments decoded as 0 (R132, R138). A block scaled 0xFF in a segment whose row scale is no scale counts as a block and as a segment
(DESIGN CHOICE, log entry 58). -/
def unpackRowZ (f n : Nat) (rowScaled : Bool) (z : Int) (l : List Byte) : List Dy × Nat :=
  if !fmtBlocked f then ((List.range (ncolp n)).map (fun i => elemValue f (packedCode f l i)), 0)
  else
    let r := fun (g : Nat) => if rowScaled then rowScaleAt f n l g else some (⟨1, 0⟩ : Dy)
    let val := fun (i : Nat) =>
      match r (i / 256) with
      | none => Dy.zero
      | some sc => if blockScaleAt f l (i / 32) = 255 then Dy.zero
        else (((elemValue f (packedCode f l i)).add (Dy.ofInt (-z))).mul sc).shift ((blockScaleAt f l (i / 32) : Int) - 127)
    ((List.range (ncolp n)).map val,
      (List.range (ncolp n / 32)).countP (fun k => blockScaleAt f l k = 255) +
      (List.range ((ncolp n + 255) / 256)).countP (fun g => (r g).isNone))
/-- The same with no zero point. -/
def unpackRow (f n : Nat) (rowScaled : Bool) (l : List Byte) : List Dy × Nat := unpackRowZ f n rowScaled 0 l

/-- An FP16 number, zero and negatives included (W_MIN). -/
def fp16Signed (c : Nat) : Dy := elemValue 8 c

/-- The scale bytes and row scales of a packed row: what carried-scale mode takes from the previous conversion (R147). -/
def scalesOf (f n : Nat) (rowScaled : Bool) (l : List Byte) : List Nat × List Nat :=
  let k := 4 * fmtBits f + 1
  let nb := ncolp n / 32
  ((List.range nb).map (fun i => (l.getD (i * k + k - 1) 0).toNat),
    if rowScaled then (List.range ((ncolp n + 255) / 256)).map
      (fun g => (l.getD (nb * k + 2 * g) 0).toNat + 256 * (l.getD (nb * k + 2 * g + 1) 0).toNat) else [])

/-- The ACLK of a conversion unit for one row (R151): both passes, or the second alone in carried-scale mode, and the rescue passes. -/
def Conv.cost (c : Conv) (carried : Bool) : Nat :=
  let n := c.codes.length
  (if carried then 0 else (n + 4095) / 4096) + (if c.xs = [] then (n + 2047) / 2048 else (n + 4095) / 4096) + 2 * c.rescN

/-- Counts a conversion in a core's registers (R149, R153, R154). -/
def State.countConv (s : State) (n : Nat) (c : Conv) : State :=
  let s := s.longSat (Reg.coreCvtSatnLo n) c.satN
  let s := s.longSat (Reg.coreCvtUnderLo n) c.undN
  let s := s.longSat (Reg.coreCvtRescLo n) c.rescN
  s.rmod (Reg.coreCvtStatus n) (fun x => x ||| (if 0 < c.satN then 2 else 0) ||| (if 0 < c.undN then 4 else 0) |||
    (if 0 < c.rescN then 8 else 0))

/-- The status a conversion reports (R149). -/
def Conv.status (c : Conv) : Byte := if 0 < c.rescN then St.rescued else if 0 < c.satN then St.sat else St.ok

/-- Blocks and segments read as 0 (R132, R138, R155): BADS sets and raises the physical core's source (R153). -/
def State.countBads (s : State) (n k : Nat) : State :=
  if k = 0 then s else ((s.count (Reg.coreCvtBads n) k).rsetBit (Reg.coreCvtStatus n) 4 true).raiseCore n

end Sys2Proof.Machine
end

