-- ==== Sys2Proof/Machine/Streams.lean ====
section
/-! DEFINITION. Machine/Streams.lean: what every command shares: outstanding commands, completion records, PENDING records and
the freeze of a master (R261-R268, R275, R297-R299). -/

namespace Sys2Proof.Machine

/-- Opcodes that block their stream until they complete (R268): WAIT, TAKE, RECV, FENCE and NOTE. -/
def blocking (op : Byte) : Bool := op = 0x41 || op = 0x44 || op = 0x51 || op = 0x70 || op = 0x90
/-- Opcodes of the boundary commands (R270). -/
def boundaryOp (op : Byte) : Bool :=
  op = 0x01 || op = 0x02 || op = 0x03 || op = 0x04 || op = 0x05 || op = 0x10 || op = 0x11 || op = 0x12 || op = 0x13 ||
  op = 0x23 || op = 0x62 || op = 0x30

/-- Appends a completion record (R262, R263). -/
def State.record (s : State) (h : Hdr) (cseq : Word64) (op st : Byte) (res : Nat) : State :=
  { s with cmd := { s.cmd with cpls := s.cmd.cpls ++ [⟨cseq, op, st, h.stream, BitVec.ofNat 40 res⟩] } }

/-- The completion of a command (R263): it is no longer outstanding, CMD_CS_STATUS shows it, a final record is produced unless
it is QUIET and OK, and IRQ raises source 201 + s (R259). -/
def State.complete (s : State) (h : Hdr) (cseq : Word64) (op st : Byte) (res : Nat) : State :=
  let n := h.stream.toNat
  let x := s.strm n
  let s := s.setStrm n
    { x with outst := x.outst.filter (fun o => o.cseq ≠ cseq), lastStatus := st, lastOpcode := op }
  let s := if h.quiet && st = St.ok then s else s.record h cseq op st res
  if h.irq then s.raise (201 + n) else s

/-- A command that does not complete at issue becomes outstanding (R267), with a PENDING record where ACKP asks for one
(R263). -/
def State.outstanding (s : State) (h : Hdr) (cseq : Word64) (op : Byte) (arg : Nat := 0) : State :=
  let x := s.strm h.stream.toNat
  let s := s.setStrm h.stream.toNat { x with outst := x.outst ++ [⟨cseq, op, h, s.cmd.issues, arg⟩] }
  if h.ackp then s.record h cseq op St.pending 0 else s

/-- Whether a command is still outstanding. -/
def State.isOut (s : State) (h : Hdr) (cseq : Word64) : Bool := (s.strm h.stream.toNat).outst.any (fun o => o.cseq = cseq)

/-- The completion of a command that may have ended before, with its stream's UNBIND or freeze (R263: one final record each). -/
def State.finish (s : State) (h : Hdr) (cseq : Word64) (op st : Byte) (res : Nat) : State :=
  if s.isOut h cseq then s.complete h cseq op st res else s

/-- The freeze notice (R298) of a master: kind, binding, number, cause, opcode and the last eight bytes. -/
def State.freezeNotice (s : State) (kind b num : Nat) (cause op : Byte) (tail : Nat) : State :=
  s.notice 2 ([BitVec.ofNat 8 kind, BitVec.ofNat 8 b] ++ beBytes 2 num ++ [cause, op, 0, 0] ++ beBytes 8 tail)

/-- Completes a list of outstanding commands with one status; a STEP or RUN of the step queue `q` shows the steps it ran (R284). -/
def State.completeAll (s : State) (q : List StepCmd) (l : List Outst) (st : Byte) : State :=
  s.forAll l (fun s o =>
    let ran := (q.find? (fun c => c.cseq = o.cseq && c.hdr.stream = o.hdr.stream)).map (fun c => c.ran)
    s.complete o.hdr o.cseq o.opcode st (ran.getD 0))

/-- The header and the opcode of a command of the command set (R273); none of another row. -/
def cmdHdr : Instr → Option (Hdr × Byte)
  | .bind h .. => some (h, 0x01)
  | .unbind h .. => some (h, 0x02)
  | .park h .. => some (h, 0x03)
  | .unpark h .. => some (h, 0x04)
  | .snapshot h .. => some (h, 0x05)
  | .loadprog h .. => some (h, 0x10)
  | .loadmat h .. => some (h, 0x11)
  | .loadroute h .. => some (h, 0x12)
  | .loadrule h .. => some (h, 0x13)
  | .step h => some (h, 0x20)
  | .run h _ => some (h, 0x21)
  | .halt h => some (h, 0x22)
  | .epoch h .. => some (h, 0x23)
  | .apply h _ => some (h, 0x24)
  | .berth h .. => some (h, 0x25)
  | .copy h .. => some (h, 0x30)
  | .signal h .. => some (h, 0x40)
  | .wait h .. => some (h, 0x41)
  | .watch h .. => some (h, 0x42)
  | .dec h .. => some (h, 0x43)
  | .take h .. => some (h, 0x44)
  | .send h .. => some (h, 0x50)
  | .recv h .. => some (h, 0x51)
  | .encode h .. => some (h, 0x60)
  | .decode h .. => some (h, 0x61)
  | .chancfg h .. => some (h, 0x62)
  | .fence h _ => some (h, 0x70)
  | .timestamp h .. => some (h, 0x71)
  | .hint h .. => some (h, 0x80)
  | .note h _ => some (h, 0x90)
  | .reservedOpcode h op _ => some (h, op)
  | _ => none

/-- The stream that issued a command. -/
def cmdOf (c : Instr) (n : BitVec 8) : Bool := match cmdHdr c with | some x => x.1.stream = n | none => false

/-- Whether a command of the step queue covers the running step: the first that has a step left. -/
def Binding.covers (b : Binding) (c : StepCmd) : Bool :=
  b.running && (b.queue.find? (fun q => q.left ≠ some 0)).any (fun q => q.cseq = c.cseq && q.hdr.stream = c.hdr.stream)

/-- What the end of a stream takes out of its binding (R279, R297): its boundary commands not in force and its steps not
started; a running RUN has no step left after this one and ends with `st`. On the lead, a start that waits for its slot waits no more where no
step is left to start. -/
def Binding.dropStream (b : Binding) (n : BitVec 8) (st : Byte) : Binding :=
  let q := b.queue.filterMap (fun c =>
    if c.hdr.stream = n then
      if b.covers c then some { c with left := some 1, status := worse c.status st } else none
    else some c)
  { b with
      boundary := b.boundary.filter (fun d => !cmdOf d.cmd n)
      haltBy := b.haltBy.filter (fun x => x.1.stream ≠ n)
      waitSlot := b.waitSlot && (b.queue = [] || q.any (fun c => c.left ≠ some 0))
      queue := q }

/-- Completes the commands that a stream holds and has not issued. -/
def State.completeHeld (s : State) (l : List (Word64 × Instr)) (st : Byte) : State :=
  s.forAll l (fun s x => match cmdHdr x.2 with | some (h, op) => s.complete h x.1 op st 0 | none => s)

/-- The copies of a stream leave a circuit (R297). -/
def Circuit.dropFlows (c : Circuit) (n : BitVec 8) : Circuit := { c with flows := c.flows.filter (fun f => f.cmd.all (fun k => k.1.stream ≠ n)) }

/-- The wait entries of a stream go: those of this device's sync unit, and by a message those of the device that each WAIT or TAKE still
outstanding names (R309, R313). -/
def State.cancelWaits (s : State) (n : BitVec 8) (l : List Outst) : State :=
  let s := { s with syn := { s.syn with waits := s.syn.waits.filter (fun w => !(w.dev = s.sys.myDev && w.stream = n)) } }
  s.forAll (l.filter (fun o => (o.opcode = 0x41 || o.opcode = 0x44) && o.arg ≠ s.sys.myDev.toNat)) (fun s o =>
    s.toDevice o.arg 4 1 (.buoy (BitVec.ofNat 6 o.arg) ⟨7, s.sys.myDev, n, o.cseq, 0, 0, false, 0, 0, 0, 0, 0⟩))

/-- A stream freezes (R297, R298): its blocked commands, boundary commands not yet in force, copies, queued steps and undecided
commands complete with FROZEN; a running RUN ends at the step boundary with FROZEN; Keeper reports the freeze. -/
def State.freezeBase (s : State) (n : BitVec 8) (cause op : Byte) (cseq : Word64) : State :=
  let x := s.strm n.toNat
  if x.frozen then s
  else
    let b := x.binding.toNat
    let bd := s.bnd b
    let running := fun (c : Word64) => bd.queue.any (fun q => q.cseq = c && q.hdr.stream = n && bd.covers q)
    let ends := x.outst.filter (fun o => !running o.cseq && (blocking o.opcode || boundaryOp o.opcode || o.opcode = 0x20 || o.opcode = 0x21))
    let s := s.setStrm n.toNat { x with frozen := true, frzCause := cause, frzOpcode := op, held := [] }
    let s := s.setBnd b { bd.dropStream n St.frozen with haltBy := bd.haltBy }
    let s := s.forAll (s.fab.circuits.map Prod.fst) (fun s c => s.setCirc c ((s.circ c).dropFlows n))
    let s := { s with syn := { s.syn with recvs := s.syn.recvs.filter (fun r => r.hdr.stream ≠ n) } }
    let s := (s.cancelWaits n x.outst).completeAll bd.queue ends St.frozen
    let s := s.completeHeld x.held St.frozen
    (s.raise (201 + n.toNat)).freezeNotice 1 b n.toNat cause op cseq.toNat

/-- A core freezes (R210, R298): it runs no further instance and emits no further replica, so no phase of it is active; its contexts show
FROZEN_CTX (R26). -/
def State.freezeCore (s : State) (n sysNum : Nat) : State :=
  let c := s.cor n
  if c.frozen then s
  else
    let b := c.binding.toNat
    let s := s.setCor n { c with frozen := true, lanes := [], fired := [], firing := [], openPkts := [], holding := [], entry := 0 }
    let s := s.forAll [Reg.coreSynStatus n, Reg.coreRteStatus n, Reg.coreLrnStatus n] (fun s a => s.rsetBit a 0 false)
    let s := s.forAll (s.ctxsOf b) (fun s p => s.setCtx p.1 { s.ctx p.1 with frozen := s.ctxFrozen p.2 })
    (s.raiseCore n).freezeNotice 2 b sysNum St.notBound 0 (s.bnd b).step.toNat

/-- A converter channel freezes (R234, R298). -/
def State.freezeChan (s : State) (k : Nat) : State :=
  let c := s.chan k
  if c.frozen then s
  else
    let s := s.setChan k { c with frozen := true }
    (s.raise 109).freezeNotice 3 c.binding.toNat k St.notBound 0 (s.bnd c.binding.toNat).step.toNat

end Sys2Proof.Machine
end

