-- ==== Sys2Proof/Machine/Channels.lean ====
section
/-! DEFINITION. Machine/Channels.lean: converter channel descriptors, instances, input rows and their levels, and the encoders
(R232-R243). -/

namespace Sys2Proof.Machine

/-! ## Descriptors (R235) -/

def Chan.f (c : Chan) (k lo w : Nat) : Nat := fieldOf (c.desc.getD k 0) lo w
def Chan.valid (c : Chan) : Bool := c.bound && c.f 0 31 1 = 1
def Chan.dec (c : Chan) : Bool := c.f 0 30 1 = 1
def Chan.kind (c : Chan) : Nat := c.f 0 26 4
def Chan.pop (c : Chan) : Nat := c.f 0 0 8
def Chan.width (c : Chan) : Nat := c.f 1 0 11
/-- The window W. -/
def Chan.win (c : Chan) : Nat := c.f 1 11 6 + 1
def Chan.npop (c : Chan) : Nat := c.f 1 17 7
def Chan.bernoulli (c : Chan) : Bool := c.f 1 24 1 = 1
def Chan.hold (c : Chan) : Bool := c.f 1 25 2 = 1
def Chan.cvt (c : Chan) : Nat := c.f 2 0 16
def Chan.ifmt (c : Chan) : Nat := c.f 2 16 4
def Chan.conv (c : Chan) : Bool := c.f 2 20 1 = 1
def Chan.zout (c : Chan) : Int := signed 8 (c.f 2 24 8)
def Chan.soff (c : Chan) : Nat := c.f 3 0 23
def Chan.sslice (c : Chan) : Nat := c.f 3 23 5
def Chan.xmin (c : Chan) : Nat := c.f 4 0 16
def Chan.xinv (c : Chan) : Nat := c.f 4 16 16
def Chan.param (c : Chan) : Nat := c.f 5 0 16
def Chan.rmax (c : Chan) : Nat := c.f 5 16 3
def Chan.sigk (c : Chan) : Nat := c.f 6 0 24
def Chan.waitMax (c : Chan) : Nat := c.f 7 0 32
def Chan.tgtEn (c : Chan) (i : Nat) : Bool := c.f (8 + i) 24 1 = 1
def Chan.tgtCore (c : Chan) (i : Nat) : Nat := c.f (8 + i) 0 10
def Chan.tgtMat (c : Chan) (i : Nat) : Nat := c.f (8 + i) 10 8
def Chan.tgtDelay (c : Chan) (i : Nat) : Nat := c.f (8 + i) 18 6
def Chan.rowBase (c : Chan) (i : Nat) : Nat := c.f (12 + i / 2) (16 * (i % 2)) 16
/-- The enabled targets. -/
def Chan.targets (c : Chan) : List Nat := (List.range 4).filter (fun i => c.tgtEn i)
def Chan.hcore (c : Chan) : Nat := c.f 14 0 10
def Chan.srcCore (c : Chan) : Nat := c.f 4 0 10
def Chan.slot (c : Chan) : Nat := c.f 4 10 6
def Chan.nfirst (c : Chan) : Nat := c.f 4 16 13
def Chan.gain (c : Chan) : Int := signed 16 (c.f 5 0 16)
def Chan.gsh (c : Chan) : Nat := c.f 5 16 6
def Chan.wide (c : Chan) : Bool := c.f 5 22 1 = 1
def Chan.expShift (c : Chan) : Nat := c.f 5 23 4
def Chan.winner (c : Chan) : Bool := c.f 5 27 1 = 1
def Chan.offset (c : Chan) : Int := signed 32 (c.f 6 0 32)
def Chan.safe (c : Chan) : Int := signed 32 (c.f 7 0 32)
def Chan.slew (c : Chan) : Nat := c.f 8 0 32
def Chan.holdSteps (c : Chan) : Nat := c.f 9 0 16
def Chan.aframe (c : Chan) : Nat := c.f 9 16 8
def Chan.nctx (c : Chan) : Nat := c.f 15 0 19

/-- Bytes of an input row (R137), and of a converted row. -/
def Chan.rowBytes (c : Chan) : Nat := scaledStride c.ifmt c.width
def Chan.cvtBytes (c : Chan) : Nat := if c.conv then scaledStride (cvtFmt c.cvt) c.width else 0
/-- SBYTES (R233), rounded up to 64. -/
def Chan.sbytes (c : Chan) : Nat :=
  let n :=
    if c.dec then 16 + (if c.kind = 0 then 2 * c.win else if c.kind = 1 then 8 else if c.kind = 2 then c.win * c.width else 2)
    else 4 * (c.rowBytes + 16) + c.cvtBytes + c.width *
      (if c.kind = 0 then 2 else if c.kind = 2 then 1 else if c.kind = 3 then 2
       else if c.kind = 4 && !c.bernoulli then 2 * c.npop else 0)
  (n + 63) / 64 * 64
/-- The address of an instance's state (R233). -/
def Chan.instAddr (c : Chan) (cidx : Nat) : Nat := Mem.slice c.sslice + c.soff + 256 + cidx * c.sbytes

/-! ## Instances (R232) -/

/-- Whether context `x` covers channel `h`. -/
def Chan.covers (c : Chan) (h : Nat) (x : Ctx) : Bool :=
  c.valid && x.valid && x.binding = c.binding && x.cnvFirst.toNat ≤ h && h < x.cnvFirst.toNat + x.cnvCount.toNat &&
  x.cidx.toNat < c.nctx

/-- The covering contexts of a channel with their numbers, in ascending CIDX. -/
def State.chanCtxs (s : State) (h : Nat) : List (Nat × Ctx) :=
  (s.ctxsOf (s.chan h).binding.toNat).filter (fun p => (s.chan h).covers h p.2)

/-- The VALID channels of binding `b`, encoders or decoders, in ascending number. -/
def State.chansOf (s : State) (b : Nat) (dec : Bool) : List Nat :=
  (s.cnv.chans.filter (fun p => p.2.valid && p.2.binding.toNat = b && p.2.dec = dec)).map Prod.fst

/-- The instances whose state area `n` bytes of the byte memory at `a` touch (R233). -/
def State.instsIn (s : State) (a n : Nat) : List (Nat × Nat) :=
  s.cnv.chans.flatMap (fun p =>
    if p.2.valid then ((s.chanCtxs p.1).map (fun q => q.2.cidx.toNat)).filterMap (fun k =>
      if p.2.instAddr k < a + n ∧ a < p.2.instAddr k + p.2.sbytes then some (p.1, k) else none)
    else [])
/-- Bytes read where instance state lies: its layout is the engine's, so they are free (log entry 65). -/
def State.readInsts (s : State) (a : Nat) (l : List Byte) : List Byte × State :=
  let is := s.instsIn a l.length
  if is = [] then (l, s)
  else
    let (free, s) := s.drawBytes l.length
    let inside := fun (x : Nat) => is.any (fun p => decide ((s.chan p.1).instAddr p.2 ≤ x ∧ x < (s.chan p.1).instAddr p.2 + (s.chan p.1).sbytes))
    ((l.zip free).zipIdx.map (fun p => if inside (a + p.2) then p.1.2 else p.1.1), s)
/-- Bytes that spell the state an instance keeps in its area, one part after the other. -/
def Chan.stateLen (c : Chan) : Nat :=
  if c.dec then 32 + 2 * c.win * (if c.kind = 2 then c.width else 1)
  else 4 * (c.rowBytes + 8) + 2 + ncolp c.width / 32 + 2 * (ncolp c.width / 256) + 2 * c.width + 2 * (c.width * max 2 c.npop)
/-- An instance whose area holds bytes nobody's layout gives a meaning: every part of its state is read from `l`, while what the engine
itself keeps (the step encoded or due, a wait, records to emit) stays (R233; log entry 65). -/
def Chan.scrambled (c : Chan) (x : Inst) (l : List Byte) : Inst :=
  let num := fun (k n : Nat) => leNat ((l.drop k).take n)
  let cells := fun (k w n : Nat) => (List.range n).map (fun i => num (k + w * i) w)
  let step := fun (k : Nat) => if num k 1 % 2 = 1 then some (BitVec.ofNat 48 (num (k + 1) 6)) else none
  if c.dec then
    { x with
      v := signed 32 (num 0 4), e := signed 32 (num 4 4), mode := BitVec.ofNat 2 (num 8 1), renewed := num 9 1 % 2 = 1, gates := num 10 2
      filt := BitVec.ofNat 48 (num 12 6), decodedAt := step 18, first := if num 25 1 % 2 = 1 then some (num 26 2) else none
      hist := (List.range c.win).map (fun i => let w := if c.kind = 2 then c.width else 1; cells (32 + 2 * w * i) 2 w), kept := true }
  else
    let r := c.rowBytes + 8
    let a := 4 * r + 2
    let nb := ncolp c.width / 32
    let ns := ncolp c.width / 256
    { x with
      slots := (List.range 4).filterMap (fun i =>
        if num (4 * r) 1 / 2 ^ i % 2 = 1 then
          some (i, BitVec.ofNat 48 (num (r * i) 6), BitVec.ofNat 8 (num (r * i + 6) 1), (l.drop (r * i + 8)).take c.rowBytes)
        else none)
      scales := if num (4 * r + 1) 1 % 2 = 1 then some (cells a 1 nb, cells (a + nb) 2 ns) else none
      lastU := cells (a + nb + 2 * ns) 2 c.width
      state := (cells (a + nb + 2 * ns + 2 * c.width) 2 (c.width * max 2 c.npop)).map (fun (v : Nat) => (v : Int)), kept := true }
/-- A write by anything but the engine leaves an instance with a free state (log entry 65). -/
def State.writeInsts (s : State) (a n : Nat) : State :=
  s.forAll (s.instsIn a n) (fun s p =>
    let (l, s) := s.drawBytes (s.chan p.1).stateLen
    s.setInst p.1 p.2 ((s.chan p.1).scrambled (s.inst p.1 p.2) l))
/-- A clear of the bank leaves an instance with state 0. -/
def State.clearInstsAt (s : State) (a n : Nat) : State :=
  s.forAll (s.instsIn a n) (fun s p => s.setInst p.1 p.2 { Inst.empty with kept := true })

/-- Records an event of the converter (R255): its counter, a bit of CNV_CH_STAT where it has one, and CNV_LAST. -/
def State.chanNote (s : State) (ctr : Nat) (bit : Option Nat) (h cidx : Nat) : State :=
  let s := (s.count ctr 1).rset Reg.cnvLast (BitVec.ofNat 32 (h * 2 ^ 18 + cidx % 2 ^ 18))
  match bit with
  | some i => s.rsetBit (Reg.cnvChStat h) i true
  | none => s

/-- Operations of the engine (R253, R255). -/
def State.chanOps (s : State) (n : Nat) : State :=
  let (s, o) := (s.unitActs 2 6 n).longWrap Reg.cnvOpsLo n
  if o then (s.rsetBit Reg.cnvStatus 5 true).raise 109 else s

/-- Blocks, segments and elements of an instance's row read as 0 (R240, R255). -/
def State.chanBads (s : State) (h cidx k : Nat) : State :=
  if k = 0 then s
  else (((s.count Reg.cnvBads k).rset Reg.cnvLast (BitVec.ofNat 32 (h * 2 ^ 18 + cidx))).rsetBit Reg.cnvStatus 4 true).raise 109

/-- A conversion on the engine's own unit (R255). -/
def State.chanConv (s : State) (b : Nat) (carried : Bool) (c : Conv) : State :=
  let s := s.unitActs 2 5 (c.cost carried)
  let s := s.longSat Reg.cnvSatnLo c.satN
  let s := s.longSat Reg.cnvUnderLo c.undN
  let s := s.longSat Reg.cnvRescLo c.rescN
  let s := s.rmod Reg.cnvStatus (fun x => x ||| (if 0 < c.satN then 2 else 0) ||| (if 0 < c.undN then 4 else 0) |||
    (if 0 < c.rescN then 8 else 0))
  if c.status = St.ok then s else s.stepStatus b c.status

/-! ## Input rows and levels (R240) -/

/-- A row of an Ethernet frame in the device's order (R134): 16-bit elements and row scales travel most significant byte first. -/
def swapPairs : List Byte → List Byte
  | a :: b :: r => b :: a :: swapPairs r
  | l => l
def frameRow (f n : Nat) (l : List Byte) : List Byte :=
  if fmtBlocked f then
    let k := ncolp n / 32 * (4 * fmtBits f + 1)
    l.take k ++ swapPairs (l.drop k)
  else swapPairs l

/-- The values of an input row and how much of it decoded as 0, infinite and NaN elements among them. -/
def Chan.rowValues (c : Chan) (zin : Int) (l : List Byte) : List Dy × Nat :=
  let f := c.ifmt
  let x := unpackRowZ f c.width true (if f = 2 ∨ f = 3 then zin else 0) l
  let ok := fun (i : Nat) => !fmtBlocked f || (blockScaleAt f l (i / 32) ≠ 255 && (rowScaleAt f c.width l (i / 256)).isSome)
  (x.1.take c.width, x.2 + (List.range c.width).countP (fun i => ok i && (decodeElem f (packedCode f l i)).isNone))

/-- The level of a value: min(65,535, rne(max(0, (x − XMIN) × XINV) × 65,536)). -/
def Chan.level (c : Chan) (x : Dy) : Nat :=
  let y := (x.add (fp16Signed c.xmin).neg).mul (fp16Signed c.xinv)
  min 65535 ((Dy.max Dy.zero y).shift 16).round.toNat

/-- The levels of an instance's row (R240), with the carried scales it leaves. -/
def State.levels (s : State) (h cidx : Nat) (scales : Option (List Nat × List Nat)) (zin : Int) (row : List Byte) :
    List Nat × Option (List Nat × List Nat) × State :=
  let c := s.chan h
  let x := c.rowValues zin row
  let s := s.chanBads h cidx x.2
  if c.conv then
    let f := cvtFmt c.cvt
    let y := convRow f true (if cvtCarry c.cvt then scales else none) (cvtRescue c.cvt) c.zout x.1
    let v := (unpackRowZ f c.width true c.zout (y.packed f)).1.take c.width
    (v.map c.level, some (y.xs, y.rs), s.chanConv c.binding.toNat (cvtCarry c.cvt && scales.isSome) y)
  else (x.1.map c.level, scales, s)

/-! ## Encoders (R242, R243) -/

/-- GTAB (R242): rne(65,535 × exp(−i² / 2,048)) for i from 0 to 255. -/
def gtab : List Nat :=
  [65535, 65503, 65407, 65248, 65025, 64740, 64393, 63986, 63519, 62994, 62412, 61775, 61085, 60344, 59554, 58717] ++
  [57834, 56910, 55946, 54944, 53908, 52839, 51741, 50617, 49468, 48299, 47111, 45907, 44691, 43464, 42230, 40991] ++
  [39749, 38507, 37268, 36033, 34805, 33587, 32379, 31184, 30004, 28841, 27695, 26569, 25464, 24381, 23322, 22286] ++
  [21276, 20292, 19334, 18404, 17501, 16627, 15780, 14962, 14173, 13412, 12680, 11976, 11300, 10651, 10031, 9437] ++
  [8869, 8328, 7812, 7321, 6854, 6410, 5989, 5591, 5214, 4858, 4521, 4204, 3905, 3624, 3360, 3112] ++
  [2879, 2662, 2458, 2268, 2090, 1925, 1770, 1627, 1494, 1370, 1255, 1149, 1051, 960, 876, 799] ++
  [728, 663, 602, 547, 496, 450, 408, 369, 333, 301, 272, 245, 220, 198, 178, 160] ++
  [143, 128, 115, 103, 92, 82, 73, 65, 58, 51, 46, 41, 36, 32, 28, 25] ++
  [22, 19, 17, 15, 13, 12, 10, 9, 8, 7, 6, 5, 5, 4, 3, 3] ++
  [3, 2, 2, 2, 1, 1, 1, 1, 1, 1, 1, 1, 0, 0, 0, 0] ++
  [0, 0, 0, 0, 0, 0, 0, 0, 0, 0, 0, 0, 0, 0, 0, 0] ++
  [0, 0, 0, 0, 0, 0, 0, 0, 0, 0, 0, 0, 0, 0, 0, 0] ++
  [0, 0, 0, 0, 0, 0, 0, 0, 0, 0, 0, 0, 0, 0, 0, 0] ++
  [0, 0, 0, 0, 0, 0, 0, 0, 0, 0, 0, 0, 0, 0, 0, 0] ++
  [0, 0, 0, 0, 0, 0, 0, 0, 0, 0, 0, 0, 0, 0, 0, 0] ++
  [0, 0, 0, 0, 0, 0, 0, 0, 0, 0, 0, 0, 0, 0, 0, 0]

/-- RATE arithmetic on a level: the new φ and the count. -/
def rateStep (phi x : Nat) : Nat × Nat := ((phi + x) % 65536, (phi + x) / 65536)

/-- POISSON arithmetic: trials j below `rmax` whose draw's high half lies below the level. -/
def trials (seed : Word64) (cstep : BitVec 48) (c2 cidx pop tag rmax u : Nat) : Nat :=
  (List.range rmax).countP (fun j => (philoxWord seed cstep c2 cidx pop tag j).toNat / 65536 < u)

/-- What an encoder makes of the levels of step `s`: the new encoder state and (row offset, count) for every record. -/
def Chan.encode (c : Chan) (seed : Word64) (s : BitVec 48) (cidx : Nat) (st : List Int) (u : List Nat) :
    List Int × List (Nat × Nat) :=
  let some' := fun (l : List (Nat × Nat)) => l.filter (fun p => p.2 ≠ 0)
  let at' := fun (i : Nat) => st.getD i 0
  if c.kind = 0 then
    let l := u.zipIdx.map (fun p => rateStep (at' p.2).toNat (p.1 * c.rmax))
    (l.map (fun p => (p.1 : Int)), some' (l.zipIdx.map (fun p => (p.2, p.1.2))))
  else if c.kind = 1 then (st, some' (u.zipIdx.map (fun p => (p.2, trials seed s p.2 cidx c.pop 1 c.rmax p.1))))
  else if c.kind = 2 then
    let k := s.toNat % c.win
    let st := if k = 0 then
        u.map (fun x => if c.param ≤ x then rneDiv ((65535 - x) * (c.win - 1)) 65535 else -1)
      else st
    (st, (st.zipIdx.filter (fun p => p.1 = (k : Int))).map (fun p => (p.2, 1)))
  else if c.kind = 3 then
    if st = [] then (u.map (fun (x : Nat) => (x : Int)), [])
    else
      let l := u.zipIdx.map (fun p =>
        let d := (p.1 : Int) - at' p.2
        let n := min 7 (d.natAbs / c.param)
        if (c.param : Int) ≤ d then (at' p.2 + n * c.param, 2 * p.2, n)
        else if d ≤ -(c.param : Int) then (at' p.2 - n * c.param, 2 * p.2 + 1, n)
        else (at' p.2, 0, 0))
      (l.map Prod.fst, some' (l.map Prod.snd))
  else if c.kind = 4 then
    let cells : List (Nat × Nat) := (List.range (c.width * c.npop)).map (fun (q : Nat) =>
      let mu : Int := rneDiv (q % c.npop * 65535 : Nat) (c.npop - 1 : Nat)
      let d := (((u.getD (q / c.npop) 0 : Nat) : Int) - mu).natAbs
      let i := min 255 (rneShift (d * c.sigk : Nat) 16).toNat
      (q, gtab.getD i 0))
    if c.bernoulli then (st, some' (cells.map (fun p => (p.1, trials seed s p.1 cidx c.pop 2 c.rmax p.2))))
    else
      let l := cells.map (fun p => rateStep (at' p.1).toNat (p.2 * c.rmax))
      (l.map (fun p => (p.1 : Int)), some' (l.zipIdx.map (fun p => (p.2, p.1.2))))
  else
    (st, u.zipIdx.flatMap (fun p =>
      let l := (rneShift (p.1 * 255) 16).toNat
      List.replicate (l / 7) (p.2, 7) ++ (if l % 7 = 0 then [] else [(p.2, l % 7)])))

/-! ## What holds a step (R244, R246) -/

/-- Whether an encode of the running step is left, or records of one, whose home core is core `n` (R244). `sysNum` is the core's system number. -/
def State.encodesLeft (s : State) (n sysNum : Nat) : Bool :=
  let b := (s.cor n).binding.toNat
  (s.chansOf b false).any (fun h => (s.chan h).hcore = sysNum && !(s.chan h).frozen &&
    (s.chanCtxs h).any (fun p => p.2.active && ((s.inst h p.2.cidx.toNat).encoded ≠ some p.2.cstep || (s.inst h p.2.cidx.toNat).left ≠ [])))

/-- Whether taps of core `sysNum` wait in the engine's buffer (R246). -/
def State.tapsLeft (s : State) (sysNum : Nat) : Bool := s.cnv.taps.any (fun t => (s.chan t.channel.toNat).srcCore = sysNum)

/-- The taps of a firing instance (R246). -/
def State.tapsOf (s : State) (b sysNum : Nat) (f : Firing) : List Tap :=
  ((s.chansOf b true).filter (fun h =>
    let c := s.chan h
    c.srcCore = sysNum && c.slot = f.slot && c.nfirst ≤ f.idx && f.idx < c.nfirst + c.width &&
    (s.chanCtxs h).any (fun p => p.2.cidx = f.cidx))).map (fun h =>
      ⟨BitVec.ofNat 12 h, f.cidx, f.idx - (s.chan h).nfirst, f.n⟩)

end Sys2Proof.Machine
end

