-- ==== Sys2Proof/Machine/Synapse.lean ====
section
/-! DEFINITION. Machine/Synapse.lean: the synapse unit (R91-R126): matrix descriptors, the sorter's windows, additions into
accumulators, the flush into IN fields, and berths. -/

namespace Sys2Proof.Machine

/-! ## Matrix descriptors (R91, R92) -/

/-- The fields of a matrix descriptor. -/
structure MatDesc where
  valid    : Bool
  streamed : Bool
  binding  : Nat
  accExp   : Int
  tslot    : Nat
  fmt      : Nat
  nrows    : Nat
  ncol     : Nat
  base     : Nat
  haddr    : Nat
  reserved : Bool
deriving DecidableEq, Repr

/-- A descriptor from its eight words; `reserved` says that no reserved bit is set. -/
def MatDesc.ofWords (l : List Word) : MatDesc :=
  let w := fun k => l.getD k 0
  { valid := bitOf (w 0) 31, streamed := bitOf (w 0) 30, binding := fieldOf (w 0) 24 6,
    accExp := signed 7 (fieldOf (w 0) 17 7), tslot := fieldOf (w 0) 8 6, fmt := fieldOf (w 0) 0 4,
    nrows := fieldOf (w 1) 0 17, ncol := fieldOf (w 2) 0 14, base := fieldOf (w 3) 0 26,
    haddr := (w 4).toNat + fieldOf (w 5) 0 16 * 2 ^ 32,
    reserved := fieldOf (w 0) 14 3 = 0 && fieldOf (w 0) 4 4 = 0 && fieldOf (w 1) 17 15 = 0 && fieldOf (w 2) 14 18 = 0 &&
      fieldOf (w 3) 26 6 = 0 && fieldOf (w 5) 16 16 = 0 && w 6 = 0 && w 7 = 0 }

/-- Address of the descriptor of matrix `m` of core `n` (R334). -/
def matAddr (n m : Nat) : Nat := Mem.store n 4 + 0x10000 + m * 32
/-- The descriptor of matrix `m` of core `n`. -/
def State.mat (s : State) (n m : Nat) : MatDesc :=
  MatDesc.ofWords ((List.range 8).map (fun k => BitVec.ofNat 32 (s.leAt (matAddr n m + 4 * k) 4)))
/-- The stride of the rows of a matrix (R94). -/
def MatDesc.stride (d : MatDesc) : Nat := rowStride d.fmt d.ncol
/-- The valid matrices of core `n` that feed slot `t` (R103). -/
def State.tileMats (s : State) (n t : Nat) : List Nat :=
  (List.range 256).filter (fun m => (s.mat n m).valid && (s.mat n m).tslot = t)
/-- The valid matrices of core `n`. -/
def State.matsOf (s : State) (n : Nat) : List Nat := (List.range 256).filter (fun m => (s.mat n m).valid)

/-! ## Berths (R114-R118, R125) -/

def Core.berth (c : Core) (b : Nat) : Berth := if b = 0 then c.berth0 else c.berth1
def Core.setBerth (c : Core) (b : Nat) (x : Berth) : Core := if b = 0 then { c with berth0 := x } else { c with berth1 := x }
/-- Whether a berth's range covers step `t` (R117, R118). -/
def Berth.covers (x : Berth) (t : Nat) : Bool := x.state ≠ 0 && x.first.toNat ≤ t && t ≤ x.last.toNat
/-- Whether phase 1 of step `t` must wait to begin: a berth whose range covers the step is not READY (R117). The range of a BERTH that has
not begun to fill counts as well, while its berth is not READY for an earlier one (DESIGN CHOICE, log entry 70). -/
def Core.berthsWait (c : Core) (t : Nat) : Bool :=
  [c.berth0, c.berth1].any (fun x => x.covers t && x.state ≠ 2) ||
  c.berthQ.any (fun q => q.first.toNat ≤ t && t ≤ q.last.toNat && (c.berth q.b.toNat).state ≠ 2)
/-- The berth that step `t` reads matrix `m` from. -/
def Core.berthFor (c : Core) (m t : Nat) : Option Berth :=
  [c.berth0, c.berth1].find? (fun x => x.state = 2 && x.covers t && x.matrix.toNat = m)
/-- Address of row `r` of a matrix as step `t` reads it: the synapse store at BASE, or the berth (R92, R114). -/
def State.rowAddr (s : State) (n m r t : Nat) : Nat :=
  let d := s.mat n m
  let base := if d.streamed then (((s.cor n).berthFor m t).map (fun x => x.base.toNat * 4096)).getD 0 else d.base
  Mem.store n 0 + base + r * d.stride

/-- Whether phase 1 of step `t` must wait for rows of an overlap apply that it reads at the new version (R190). -/
def State.ovlWait (s : State) (n t : Nat) : Bool :=
  (List.range 256).any (fun m =>
    let r := s.red n m
    r.ovl && r.written < min ((t - r.openStep.toNat + 1) * r.perStep) r.rows)

/-- Whether phase 1 of the running step still waits to begin: for a berth (R117) or for rows of an overlap apply (R190). Once it runs, which
CORE_SYN_STATUS shows (R122), nothing stops it. -/
def State.phase1Waits (s : State) (n : Nat) : Bool :=
  let t := (s.bnd (s.cor n).binding.toNat).step.toNat
  !s.rbit (Reg.coreSynStatus n) 0 && ((s.cor n).berthsWait t || s.ovlWait n t)
/-- Phase 1 begins, where it has been waiting to and nothing holds it: ACTIVE (R122). -/
def State.phase1Try (s : State) (n : Nat) : State :=
  if (s.cor n).phase = .integrate && !s.phase1Waits n then s.rsetBit (Reg.coreSynStatus n) 0 true else s

/-- A write of `n` bytes of the synapse store at `a` takes the rows it touches out of the row buffer (R96). -/
def Core.dropRows (c : Core) (a n : Nat) : Core := { c with rowBuf := c.rowBuf.filter (fun k => !(a < k.1 + k.2 && k.1 < a + n)) }

/-! ## Discarding and sorting (R107, R111) -/

/-- The reason for which an event is discarded (R111), if any. Where several hold it is the first of the table (DESIGN CHOICE, log entry
58). -/
def State.dropReason (s : State) (n : Nat) (e : Ev) : Option Nat :=
  let d := s.mat n e.matrix.toNat
  let c := s.cor n
  if !d.valid then some 0
  else if d.nrows ≤ e.row.toNat then some 1
  else if !((s.coreCtxs n d.binding).any (fun p => p.2.cidx.toNat = e.cidx)) || d.binding ≠ c.binding.toNat then some 2
  else if d.streamed && (c.berthFor e.matrix.toNat (s.bnd d.binding).step.toNat).isNone then some 3
  else none

/-- Discards an event (R111, R118): the drop counter and its info, the physical core's source, BAD_OPERAND for the covering
command, and NOBERTH of the matrix. -/
def State.dropEvent (s : State) (n : Nat) (e : Ev) (why : Nat) : State :=
  let s := s.count (Reg.coreSynDrop n) 1
  let s := s.rset (Reg.coreSynDropinfo n) (BitVec.ofNat 32 (why * 2 ^ 30 + e.matrix.toNat * 2 ^ 16 + e.row.toNat))
  let s := if why = 3 then s.rsetBit (Reg.coreSynMstat n e.matrix.toNat) 3 true else s
  (s.raiseCore n).stepStatus (s.cor n).binding.toNat St.badOperand

/-- Bins the inbox: every event that R111 names is discarded. -/
def State.binInbox (s : State) (n : Nat) : State :=
  let c := s.cor n
  let bad := c.inbox.filterMap (fun e => (s.dropReason n e).map (fun w => (e, w)))
  let s := s.setCor n { c with inbox := c.inbox.filter (fun e => (s.dropReason n e).isNone) }
  s.forAll bad (fun s p => s.dropEvent n p.1 p.2)

/-- Context slots of a tile with `ncol` columns (R103). -/
def tileSlots (ncol : Nat) : Nat :=
  if ncol ≤ 512 then 64 else if ncol ≤ 1024 then 32 else if ncol ≤ 2048 then 16 else if ncol ≤ 4096 then 8 else 4

/-- Adds one event to a list of additions in ascending (matrix, row, CIDX), merged (R101, R107). -/
def mergeAddn (e : Ev) : List Addn → List Addn
  | [] => [⟨e.matrix, e.row, e.cidx, e.cnt.toNat⟩]
  | a :: r =>
    let ke := (e.matrix.toNat * 65536 + e.row.toNat) * 2 ^ 18 + e.cidx
    let ka := (a.matrix.toNat * 65536 + a.row.toNat) * 2 ^ 18 + a.cidx
    if ke < ka then ⟨e.matrix, e.row, e.cidx, e.cnt.toNat⟩ :: a :: r
    else if ke = ka then { a with count := a.count + e.cnt.toNat } :: r
    else a :: mergeAddn e r

/-- Key of the row of an addition. -/
def Addn.key (a : Addn) : Nat := a.matrix.toNat * 65536 + a.row.toNat

/-- Groups of consecutive additions of one row. -/
def groupRows : List Addn → List (List Addn)
  | [] => []
  | a :: r =>
    match groupRows r with
    | (b :: g) :: gs => if a.key = b.key then (a :: b :: g) :: gs else [a] :: (b :: g) :: gs
    | gs => [a] :: gs

/-- The issue order of window number `w` of a tile (R107): rows descend in odd windows, CIDX ascends always. -/
def issueOrder (w : Nat) (l : List Addn) : List Addn := if w % 2 = 0 then l else (groupRows l).reverse.flatten

/-- Inserts into an ascending list without repeats. -/
def insertNat (x : Nat) : List Nat → List Nat
  | [] => [x]
  | y :: r => if x < y then x :: y :: r else if x = y then y :: r else y :: insertNat x r

/-- WINDOW_SORT (R107): once the bucket has drained and the berths are READY (R117), the events of the next window of the lowest
tile leave the inbox in issue order. `slot` and `pos` of the core count the tile and its windows in phase 1. -/
def State.windowSort (s : State) (n : Nat) : State :=
  if (s.cor n).phase ≠ .integrate ∨ n ∈ s.rtr.draining ∨ s.phase1Waits n then s
  else
    let s := (s.phase1Try n).binInbox n
    let c := s.cor n
    let tileOf := fun (e : Ev) => (s.mat n e.matrix.toNat).tslot
    match (c.inbox.map tileOf).foldr insertNat [] with
    | [] => s
    | t :: _ =>
      let mine := c.inbox.filter (fun e => tileOf e = t)
      let ncol := ((s.tileMats n t).map (fun m => (s.mat n m).ncol)).headD 0
      let ctxs := ((mine.map (·.cidx)).foldr insertNat []).take (tileSlots ncol)
      let taken := mine.filter (fun e => ctxs.contains e.cidx)
      let w := if t = c.slot then c.pos else 0
      let adds := issueOrder w (taken.foldr mergeAddn [])
      s.setCor n { c with
        inbox := c.inbox.filter (fun e => !(tileOf e = t && ctxs.contains e.cidx))
        windows := c.windows ++ [⟨t, ctxs, adds⟩], adds := c.adds ++ adds, slot := t, pos := w + 1 }

/-! ## Rows and additions (R95-R102, R108, R109, R112) -/

/-- Packing factor of a row (R95), 1 for a row that takes several ACLK. -/
def packFactor (wb : Nat) : Nat := if wb ≤ 512 then 8 else if wb ≤ 1024 then 4 else if wb ≤ 2048 then 2 else 1
/-- Buffer entries a row takes (R109). -/
def rowEntries (wb : Nat) : Nat := if wb ≤ 4096 then 1 else (wb + 4095) / 4096

/-- The packing factor of an addition's row. -/
def State.packOf (s : State) (n : Nat) (a : Addn) : Nat :=
  packFactor (rowWB (s.mat n a.matrix.toNat).fmt (s.mat n a.matrix.toNat).ncol)

/-- The longest run of R108 from the front: at most 8 additions and at most the smallest packing factor among its rows. -/
def runFrom (f : Addn → Nat) (k : Nat) (taken : Nat) : List Addn → List Addn
  | [] => []
  | a :: r => if taken < min k (f a) then a :: runFrom f (min k (f a)) (taken + 1) r else []

/-- The next run of the head window. -/
def State.nextRun (s : State) (n : Nat) : List Addn :=
  match (s.cor n).windows with
  | [] => []
  | w :: _ => runFrom (s.packOf n) 8 0 w.todo

/-- A row becomes the most recent of the buffer (R109). -/
def touchRow (buf : List (Nat × Nat)) (k : Nat × Nat) : List (Nat × Nat) :=
  let l := buf.filter (· ≠ k) ++ List.replicate (rowEntries k.2) k
  l.drop (l.length - 8)

/-- The row of an addition as the running step reads it: its address and its weight bytes. -/
def State.rowOf (s : State) (n : Nat) (a : Addn) : Nat × Nat :=
  let d := s.mat n a.matrix.toNat
  (s.rowAddr n a.matrix.toNat a.row.toNat (s.bnd (s.cor n).binding.toNat).step.toNat, rowWB d.fmt d.ncol)

/-- Whether every entry of a row is in the buffer (R109). -/
def inBuffer (buf : List (Nat × Nat)) (k : Nat × Nat) : Bool := buf.count k = rowEntries k.2

/-- The first addition of a run whose row will not be in the buffer when the adder reaches it, and the buffer then (R109). The rows of one run are used
one by one in issue order: a row that stands in the buffer at the start of a run can leave it through a miss earlier in the run (DESIGN CHOICE, log entry
70). -/
def State.firstMiss (s : State) (n : Nat) : List (Nat × Nat) → List Addn → Option (Addn × List (Nat × Nat))
  | _, [] => none
  | buf, a :: r => if inBuffer buf (s.rowOf n a) then State.firstMiss s n (touchRow buf (s.rowOf n a)) r else some (a, buf)

/-- ROW_READ (R109, R112): the read stage reads the first row of the next run that will not be in the buffer when the adder reaches it; an
uncorrectable row loses its additions of the window. Those additions stay in the list that learning goes through, so they trigger its
terms and count in n (R159, R165; DESIGN CHOICE, log entry 58). -/
def State.rowRead (s : State) (n : Nat) : State :=
  let c := s.cor n
  match c.windows, s.firstMiss n c.rowBuf (s.nextRun n) with
  | w :: ws, some (a, buf) =>
    let d := s.mat n a.matrix.toNat
    let adr := s.rowAddr n a.matrix.toNat a.row.toNat (s.bnd c.binding.toNat).step.toNat
    let (s, ovf) := (s.unitActs 2 1 1).longWrap (Reg.coreSynReadsLo n) 1
    let s := if ovf then (s.rsetBit (Reg.coreSynStatus n) 1 true).raiseCore n else s
    if s.badRange adr (rowWB d.fmt d.ncol + rowSB d.fmt d.ncol) then
      let s := s.setCor n { c with windows := { w with todo := w.todo.filter (fun x => x.key ≠ a.key) } :: ws }
      ((s.rsetBit (Reg.coreSynMstat n a.matrix.toNat) 4 true).raiseCore n).stepStatus c.binding.toNat St.eccFatal
    else
      s.setCor n { c with rowBuf := touchRow buf (adr, rowWB d.fmt d.ncol), fetched := c.fetched + 1 }
  | _, _ => s

/-- An element converted to FX48 (R99, R100) with the flags SAT, UNDER and BADW it sets. -/
def toFx48 (accExp : Int) (f code x : Nat) : Int × Bool × Bool × Bool :=
  match (if fmtBlocked f && x = 255 then none else decodeElem f code) with
  | none => (0, false, false, true)
  | some (m, e) =>
    let sh := e + ((if fmtBlocked f then x else 127 : Nat) : Int) - 127 + 24 - accExp
    let a := if 0 ≤ sh then m * (2 : Int) ^ sh.toNat else rneShift m (-sh).toNat
    let c := clampTo (-(2 : Int) ^ 47) ((2 : Int) ^ 47 - 1) a
    (c.1, c.2, decide (m ≠ 0) && decide (c.1 = 0), false)

/-- Element `j` of a stored row at `adr` (R94): its code and its scale byte. -/
def State.weightAt (s : State) (adr f ncol j : Nat) : Nat × Nat :=
  let b := fmtBits f
  let code := if b = 16 then s.leAt (adr + 2 * j) 2 else (s.byteAt (adr + b * j / 8)).toNat / 2 ^ (b * j % 8) % 2 ^ b
  (code, if fmtBlocked f then (s.byteAt (adr + rowWB f ncol + j / 32)).toNat else 127)

/-- Key of an accumulator: context slot by CIDX, and column (R102, R103). -/
def accKey (cidx j : Nat) : Nat := cidx * 8192 + j

/-- Adds one addition into the accumulators (R101, R102); `fl` gathers SAT, UNDER and BADW; a read at the old version of an
overlap apply counts (R192). -/
def State.addOne (s : State) (n : Nat) (a : Addn) : State :=
  let m := a.matrix.toNat
  let d := s.mat n m
  let adr := s.rowAddr n m a.row.toNat (s.bnd d.binding).step.toNat
  let xs := (List.range d.ncol).map (fun j =>
    let w := s.weightAt adr d.fmt d.ncol j
    (j, toFx48 d.accExp d.fmt w.1 w.2))
  let c := s.cor n
  let acc := xs.foldl (fun t x =>
    Tab.set (fun _ => (0 : Int)) t (accKey a.cidx x.1) (Tab.get (fun _ => 0) t (accKey a.cidx x.1) + a.count * x.2.1)) c.acc
  let fl := fun (p : Int × Bool × Bool × Bool → Bool) => xs.any (fun x => p x.2)
  let s := s.setCor n { c with acc := acc }
  let s := s.rmod (Reg.coreSynMstat n m) (fun w =>
    w ||| (if fl (·.2.1) then 1 else 0) ||| (if fl (·.2.2.1) then 2 else 0) ||| (if fl (·.2.2.2) then 4 else 0))
  let s := if (s.red n m).ovl && (s.red n m).written ≤ a.row.toNat then s.longSat (Reg.coreLrnOldLo n) 1 else s
  if fl (·.2.1) then s.stepStatus d.binding St.sat else s

/-- ADDITION_RUN (R108): once all rows of the next run are in the buffer, its additions are made and counted (R123). Of the additions of a
run to one row that was read for it, all but the first count as served from the buffer (DESIGN CHOICE, log entry 58). -/
def State.additionRun (s : State) (n : Nat) : State :=
  let c := s.cor n
  let run := s.nextRun n
  match c.windows with
  | [] => s
  | w :: ws =>
    if run = [] ∨ (s.firstMiss n c.rowBuf run).isSome then s
    else
      let buf := run.foldl (fun l a => touchRow l (s.rowOf n a)) c.rowBuf
      let hits := run.length - c.fetched
      let s := s.setCor n { c with
        windows := { w with todo := w.todo.drop run.length } :: ws, rowBuf := buf, fetched := 0 }
      let s := s.forAll run (fun s a => s.addOne n a)
      let (s, o1) := (s.unitActs 2 0 1).longWrap (Reg.coreSynAddsLo n) run.length
      let s := if o1 then (s.rsetBit (Reg.coreSynStatus n) 3 true).raiseCore n else s
      let (s, o2) := s.longWrap (Reg.coreSynHitsLo n) hits
      if o2 then (s.rsetBit (Reg.coreSynStatus n) 2 true).raiseCore n else s

/-! ## The flush (R104, R105) -/

/-- The value a flush writes for one register, with its clamp flags: the window's and the IN field's. -/
def flushValue (accExp : Int) (t : Slot) (x : Int) : Int × Bool × Bool :=
  let v := clampTo (-(2 : Int) ^ 47) ((2 : Int) ^ 47 - 1) x
  let k := accExp - 24 + t.ffrac t.inField
  let y := if 0 ≤ k then v.1 * (2 : Int) ^ k.toNat else rneShift v.1 (-k).toNat
  let r := fieldRange t t.inField
  let z := clampTo r.1 r.2 y
  (z.1, v.2, z.2)

/-- The IN field of an instance set to `x`. -/
def State.putIn (s : State) (c : Ctx) (t : Slot) (i : Nat) (x : Int) : State :=
  let a := recordAddr c t i + 2 * t.inField
  if t.ftype t.inField = 2 then s.putLe a 4 (unsigned 32 x) else s.putLe a 2 (unsigned 16 x)

/-- WINDOW_FLUSH: the head window, whose additions have all been made, is flushed into IN fields and its registers are
cleared. -/
def State.windowFlush (s : State) (n : Nat) : State :=
  let c := s.cor n
  let b := c.binding.toNat
  match c.windows with
  | [] => s
  | w :: ws =>
    if w.todo ≠ [] then s
    else
      let t := s.slotAt n w.slot
      let ms := s.tileMats n w.slot
      let accExp := ((ms.map (fun m => (s.mat n m).accExp)).headD 0)
      let ncol := ((ms.map (fun m => (s.mat n m).ncol)).headD 0)
      let vals := w.ctxs.flatMap (fun x => (List.range ncol).map (fun j =>
        (x, j, flushValue accExp t (Tab.get (fun _ => 0) c.acc (accKey x j)))))
      let sat := vals.any (fun v => v.2.2.2.1)
      let insat := t.inEn && vals.any (fun v => v.2.2.2.2)
      let s := s.setCor n { c with windows := ws, acc := c.acc.filter (fun p => !w.ctxs.contains (p.1 / 8192)) }
      let s := if t.inEn then s.forAll vals (fun s v =>
          match s.ctxByIdx b v.1 with
          | some p => s.putIn p.2 t v.2.1 v.2.2.1
          | none => s) else s
      let s := if sat then s.forAll ms (fun s m => s.rsetBit (Reg.coreSynMstat n m) 0 true) else s
      let s := if insat then s.rsetBit (Reg.coreSynStatus n) 4 true else s
      if sat || insat then s.stepStatus b St.sat else s

/-! ## Phase 2 starts (R113, R115, R216) -/

/-- PHASE2_START: once integration has ended (bucket drained, no event or window left, berths READY), phase 2 begins; a berth
whose LAST step this is becomes SPENT (R115), and pages that the inbox was written back to are free (R219). -/
def State.phase2Start (s : State) (n : Nat) : State :=
  let wait := s.phase1Waits n
  let s := if (s.cor n).phase = .integrate ∧ n ∉ s.rtr.draining ∧ !wait then s.binInbox n else s
  let c := s.cor n
  let t := (s.bnd c.binding.toNat).step.toNat
  if c.phase ≠ .integrate ∨ n ∈ s.rtr.draining ∨ c.inbox ≠ [] ∨ c.windows ≠ [] ∨ wait then s
  else
    let spend := fun (x : Berth) => if x.state = 2 ∧ x.last.toNat ≤ t then { x with state := 3 } else x
    ((s.setCor n { c with
      phase := .neuron, slot := 0, pos := 0, berth0 := spend c.berth0, berth1 := spend c.berth1, spilled := [] }).rsetBit
        (Reg.coreSynStatus n) 0 false).phase2End n

/-! ## Fills (R116, R119, R288) -/

/-- The circuit is up: bound and ACTIVE (R385, R394). -/
def State.circuitUp (s : State) (c : Nat) : Bool := (s.circ c).bound && s.rfield (Reg.fabCircStat c) 29 3 = 2

/-- BERTH_FILL_START: the oldest BERTH for a berth that is EMPTY or SPENT (or whose last fill failed, R288) begins once every
earlier fill of its circuit has completed, and no flow of the circuit is under way or of an earlier command (R384); the berth's rows leave the row buffer (R116). -/
def State.berthFillStart (s : State) (n b : Nat) : State :=
  let c := s.cor n
  let x := c.berth b
  match c.berthQ.find? (fun q => q.b.toNat = b) with
  | none => s
  | some q =>
    let free := x.state = 0 ∨ x.state = 3 ∨ (x.state = 1 ∧ x.cur = none)
    let busy := s.fillAhead q.circuit.toNat q.order ||
      (s.circ q.circuit.toNat).flows.any (fun f => f.going || decide (f.order < q.order))
    if !decide free || busy then s
    else
      let c := { c with berthQ := c.berthQ.filter (fun z => z.order ≠ q.order) }
      s.setCor n ((c.setBerth b { x with
        state := 1, matrix := q.matrix, first := q.first, last := q.last, packet := !s.circuitUp q.circuit.toNat,
        cur := some q }).dropRows (Mem.store n 0 + x.base.toNat * 4096) (x.lines.toNat * 4096))

/-- The rows of a fill: packed rows from HADDR, laid out as the synapse store holds them (R94, R119). -/
def State.fillRows (s : State) (n : Nat) (d : MatDesc) (base : Nat) : State :=
  s.forAll (List.range d.nrows) (fun s r =>
    s.putBytes (Mem.store n 0 + base + r * d.stride)
      (storeLayout d.fmt d.ncol (s.bytes (Mem.hbm + d.haddr + r * d.stride) d.stride)))

/-- Whether phase 1 of step `t` of the core's binding has ended on the core (R115). -/
def State.phase1Over (s : State) (c : Core) (t : Nat) : Bool :=
  let now := (s.bnd c.binding.toNat).step.toNat
  decide (t < now) || (t = now && (c.phase = .neuron || c.phase = .emit || c.phase = .done) && (s.bnd c.binding.toNat).running)

/-- BERTH_READY: the last write of a fill; the berth becomes READY, or SPENT where phase 1 of its LAST step has ended already (R115), and its
BERTH completes, with ECC_FATAL when the HBM read was
uncorrectable, in which case the berth stays FILLING (R288). -/
def State.berthReady (s : State) (n b : Nat) : State :=
  let c := s.cor n
  let x := c.berth b
  match x.cur with
  | none => s
  | some q =>
    let d := s.mat n q.matrix.toNat
    if s.badRange (Mem.hbm + d.haddr) (d.nrows * d.stride) then
      ((s.setCor n (c.setBerth b { x with cur := none })).finish q.hdr q.cseq 0x25 St.eccFatal 0).kickCirc q.circuit.toNat
    else
      let s := (s.fillRows n d (x.base.toNat * 4096)).moved false (Mem.hbm + d.haddr) (d.nrows * d.stride)
      let c := (c.setBerth b { x with state := if s.phase1Over c x.last.toNat then 3 else 2, cur := none }).dropRows (Mem.store n 0 + x.base.toNat * 4096) (d.nrows * d.stride)
      (((s.setCor n c).finish q.hdr q.cseq 0x25 St.ok (if x.packet then 1 else 0)).kickCirc q.circuit.toNat).phase1Try n

def execWindowSort (core : BitVec 10) (s : State) : Result := live s fun s => s.windowSort core.toNat
def execAdditionRun (core : BitVec 10) (s : State) : Result := live s fun s => s.additionRun core.toNat
def execRowRead (core : BitVec 10) (s : State) : Result := live s fun s => s.rowRead core.toNat
def execWindowFlush (core : BitVec 10) (s : State) : Result := live s fun s => s.windowFlush core.toNat
def execPhase2Start (core : BitVec 10) (s : State) : Result := live s fun s => s.phase2Start core.toNat
def execBerthFillStart (core : BitVec 10) (b : BitVec 1) (s : State) : Result :=
  live s fun s => s.berthFillStart core.toNat b.toNat
def execBerthReady (core : BitVec 10) (b : BitVec 1) (s : State) : Result := live s fun s => s.berthReady core.toNat b.toNat

end Sys2Proof.Machine
end

