-- ==== Sys2Proof/Machine/Learning.lean ====
section
/-! DEFINITION. Machine/Learning.lean: on-chip learning (R156-R197): the rule table, row traces, triggers and terms, folds, the
apply window, reductions, overlap apply and delay votes. -/

namespace Sys2Proof.Machine

/-! ## The rule table (R160, R161) -/

/-- A term (R161). -/
structure Term where
  c    : Int
  trig : Nat
  tgt  : Nat
  psel : Nat
  qsel : Nat
  msel : Nat
deriving DecidableEq, Repr

/-- The fields of a rule entry, over its 32 words. -/
structure RuleDesc where
  w : List Word
deriving DecidableEq, Repr

namespace RuleDesc
def f (r : RuleDesc) (k lo w : Nat) : Nat := fieldOf (r.w.getD k 0) lo w
def valid (r : RuleDesc) : Bool := r.f 0 31 1 = 1
def auto (r : RuleDesc) : Bool := r.f 0 30 1 = 1
def overlap (r : RuleDesc) : Bool := r.f 0 29 1 = 1
def dlearn (r : RuleDesc) : Bool := r.f 0 28 1 = 1
def opt (r : RuleDesc) : Nat := r.f 0 26 2
def bound (r : RuleDesc) : Nat := r.f 0 24 2
def nterms (r : RuleDesc) : Nat := r.f 0 20 4
def nrt (r : RuleDesc) : Nat := r.f 0 18 2
def binding (r : RuleDesc) : Nat := r.f 0 12 6
def matrix (r : RuleDesc) : Nat := r.f 0 0 8
def epochLen (r : RuleDesc) : Nat := r.f 1 0 24
def shardLog2 (r : RuleDesc) : Nat := r.f 1 24 5
def epochBase (r : RuleDesc) : Nat := (r.w.getD 2 0).toNat + r.f 3 0 16 * 2 ^ 32
def cvtW (r : RuleDesc) : Nat := r.f 4 0 16
def cvtD (r : RuleDesc) : Nat := r.f 4 16 16
def cvtM (r : RuleDesc) : Nat := r.f 5 0 16
def cvtS (r : RuleDesc) : Nat := r.f 5 16 16
def eta (r : RuleDesc) : Nat := r.f 6 0 16
def bsh1 (r : RuleDesc) : Nat := r.f 6 16 4
def bsh2 (r : RuleDesc) : Nat := r.f 6 20 4
def epsExp (r : RuleDesc) : Int := signed 8 (r.f 6 24 8)
def wMin (r : RuleDesc) : Nat := r.f 7 0 16
def rangeExp (r : RuleDesc) : Int := signed 7 (r.f 7 16 7)
def normTarget (r : RuleDesc) : Nat := r.f 8 0 16
def normTrigger (r : RuleDesc) : Nat := r.f 8 16 8
def dexp (r : RuleDesc) : Int := signed 8 (r.f 9 0 8)
def dthExp (r : RuleDesc) : Int := signed 8 (r.f 9 8 8)
def rtDecay (r : RuleDesc) (i : Nat) : Nat := r.f 9 (16 + 4 * i) 4
def rtBump (r : RuleDesc) (i : Nat) : Nat := r.f 10 (8 * i) 8
def ovlRows (r : RuleDesc) : Nat := r.f 10 16 16
def rtOff (r : RuleDesc) : Nat := r.f 11 0 24
def dbase (r : RuleDesc) : Nat := (r.w.getD 12 0).toNat
def dslice (r : RuleDesc) : Nat := r.f 13 0 5
def dloc (r : RuleDesc) : Nat := r.f 13 8 1
def nsh (r : RuleDesc) : Nat := r.f 13 16 9
def gsize (r : RuleDesc) : Nat := r.f 14 0 11
def gindex (r : RuleDesc) : Nat := r.f 14 16 10
def group (r : RuleDesc) : Nat := r.f 15 0 8
def ownCount (r : RuleDesc) : Nat := r.f 15 8 8
def taccHome (r : RuleDesc) : Bool := r.f 15 16 1 = 1
def segBase (r : RuleDesc) : Nat := r.f 16 0 12
def ownFirst (r : RuleDesc) : Nat := r.f 16 16 12
def shardFirst (r : RuleDesc) : Nat := r.f 17 0 18
/-- Term k of the rule. -/
def term (r : RuleDesc) (k : Nat) : Term :=
  { c := signed 16 (r.f (24 + k) 16 16), trig := r.f (24 + k) 14 2, tgt := r.f (24 + k) 13 1, psel := r.f (24 + k) 10 3,
    qsel := r.f (24 + k) 7 3, msel := r.f (24 + k) 4 3 }
def terms (r : RuleDesc) : List Term := (List.range r.nterms).map r.term
/-- The shard of a context index (R170). -/
def shardOf (r : RuleDesc) (cidx : Nat) : Nat := cidx / 2 ^ r.shardLog2
/-- Whether this core holds the shard of a context (R170). -/
def holds (r : RuleDesc) (cidx : Nat) : Bool := r.shardFirst ≤ r.shardOf cidx && r.shardOf cidx < r.shardFirst + r.nsh
end RuleDesc

/-- Address of rule entry `m` of core `n` (R334). -/
def ruleAddr (n m : Nat) : Nat := Mem.store n 4 + 0x12000 + m * 128
/-- Rule entry `m` of core `n`. -/
def State.rule (s : State) (n m : Nat) : RuleDesc :=
  ⟨(List.range 32).map (fun k => BitVec.ofNat 32 (s.leAt (ruleAddr n m + 4 * k) 4))⟩
/-- The rules of core `n`, by matrix number. -/
def State.rulesOf (s : State) (n : Nat) : List Nat := (List.range 256).filter (fun m => (s.rule n m).valid)

/-! ## The delta region (R172) -/

/-- Bytes of a delta row (R137). -/
def RuleDesc.dStride (r : RuleDesc) (d : MatDesc) : Nat := scaledStride (cvtFmt r.cvtD) d.ncol
/-- First column this member owns, within its tile. -/
def RuleDesc.own0 (r : RuleDesc) : Nat := (r.ownFirst - r.segBase) * 256
/-- Columns of the owned segments within the tile (R139: up to NCOLP). -/
def RuleDesc.ownCols (r : RuleDesc) (d : MatDesc) : Nat := min (r.ownCount * 256) (ncolp d.ncol - r.own0)
/-- Bytes of an optimiser row of format `f`: the packed blocks of the owned segments (R172). -/
def RuleDesc.optStride (r : RuleDesc) (d : MatDesc) (f : Nat) : Nat := round16 (r.ownCols d / 32 * (4 * fmtBits f + 1))
/-- Groups of delta sets (R190). -/
def RuleDesc.groups (r : RuleDesc) : Nat := if r.overlap then 2 else 1
/-- Offset of the momentum rows. -/
def RuleDesc.mOff (r : RuleDesc) (d : MatDesc) : Nat := r.groups * r.nsh * d.nrows * r.dStride d
/-- Offset of the second-moment rows. -/
def RuleDesc.sOff (r : RuleDesc) (d : MatDesc) : Nat :=
  r.mOff d + (if 1 ≤ r.opt then d.nrows * r.optStride d (cvtFmt r.cvtM) else 0)
/-- Offset of the timing accumulators. -/
def RuleDesc.tOff (r : RuleDesc) (d : MatDesc) : Nat :=
  r.sOff d + (if r.opt = 2 then d.nrows * r.optStride d (cvtFmt r.cvtS) else 0)
/-- Bytes of the region. -/
def RuleDesc.size (r : RuleDesc) (d : MatDesc) : Nat := r.tOff d + (if r.dlearn then 8 * d.nrows else 0)
/-- Address of the region in the byte memory. -/
def RuleDesc.region (r : RuleDesc) (n : Nat) : Nat :=
  if r.dloc = 1 then Mem.slice r.dslice + r.dbase else Mem.store n 2 + r.dbase
/-- Address of the delta row of set `g`, shard index `k`, row `i`. -/
def RuleDesc.dAddr (r : RuleDesc) (d : MatDesc) (n g k i : Nat) : Nat :=
  r.region n + ((g * r.nsh + k) * d.nrows + i) * r.dStride d

/-- Marks a row as converted (R147). -/
def State.setConv (s : State) (a : Nat) : State :=
  if s.mem.conv.contains a then s else { s with mem := { s.mem with conv := a :: s.mem.conv } }
/-- Rows of a range have no previous conversion (R147). -/
def State.dropConv (s : State) (a n : Nat) : State :=
  { s with mem := { s.mem with conv := s.mem.conv.filter (fun k => !(decide (a ≤ k) && decide (k < a + n))) } }

/-! ## Row traces (R158, R159) -/

/-- Address of row trace `i` of row `r` in a context. -/
def rtAddr (c : Ctx) (t : Slot) (rl : RuleDesc) (r i : Nat) : Nat :=
  c.home + t.poff.toNat + rl.rtOff + r * rl.nrt + i

/-- The count of the additions of one row in one context (R159, R165). -/
def addCount (l : List Addn) (m r cidx : Nat) : Nat :=
  (l.filter (fun a => a.matrix.toNat = m && a.row.toNat = r && a.cidx = cidx)).foldl (fun x a => x + a.count) 0

/-- Updates one row trace. -/
def State.stepRt (s : State) (c : Ctx) (t : Slot) (rl : RuleDesc) (l : List Addn) (m r i : Nat) : State :=
  let a := rtAddr c t rl r i
  let x := (s.byteAt a).toNat
  let y := x - (x + 2 ^ rl.rtDecay i - 1) / 2 ^ rl.rtDecay i
  s.setByte a (BitVec.ofNat 8 (min 255 (y + rl.rtBump i * addCount l m r c.cidx.toNat)))

/-! ## Terms (R165-R168) -/

/-- What a term reads for an element (r, j) in a context: the product of R166 without the count. -/
def State.termValue (s : State) (c : Ctx) (t : Slot) (rl : RuleDesc) (x : Term) (r j : Nat) : Int :=
  let p : Int := if x.psel = 0 then 1 else ((s.byteAt (rtAddr c t rl r (x.psel - 1))).toNat : Int)
  let q : Int := if x.qsel = 0 then 1 else (recTrace t (s.readRec c t j) (x.qsel - 1) : Int)
  let m : Int := if x.msel = 0 then 65536 else if x.msel = 1 then c.lat0.toInt else if x.msel = 2 then c.lat1.toInt
    else if x.msel = 3 then c.lat2.toInt else c.lat3.toInt
  x.c * p * q * m

/-- The contexts of core `n` whose triggers count for a rule in this step: those that take part and have reached EPOCH_BASE
(R175). -/
def State.learnCtxs (s : State) (n : Nat) (rl : RuleDesc) : List (Nat × Ctx) :=
  (s.coreCtxs n rl.binding).filter (fun p => rl.epochBase ≤ p.2.cstep.toNat)

/-- The sum of the terms of one kind (TGT) that element (r, j) receives in the step from the contexts listed (R165, R166). -/
def State.elemSum (s : State) (n m : Nat) (cs : List (Nat × Ctx)) (tgt r j : Nat) : Int :=
  let rl := s.rule n m
  let t := s.slotAt n (s.mat n m).tslot
  let c := s.cor n
  cs.foldl (fun acc p =>
    let pre := addCount c.adds m r p.2.cidx.toNat
    let post := ((c.firing.filter (fun f => f.slot = (s.mat n m).tslot && f.cidx = p.2.cidx && f.idx = j)).map (·.n)).sum
    rl.terms.foldl (fun acc x =>
      if x.tgt ≠ tgt then acc
      else acc + s.termValue p.2 t rl x r j *
        ((if x.trig ≠ 1 then (pre : Int) else 0) + (if x.trig ≠ 0 then (post : Int) else 0))) acc) 0

/-- Whether a term of TGT 0 reached row `r` for the contexts listed (R171). -/
def State.rowReached (s : State) (n m : Nat) (cs : List (Nat × Ctx)) (r : Nat) : Bool :=
  let rl := s.rule n m
  let c := s.cor n
  let preT := rl.terms.any (fun x => x.tgt = 0 && x.trig ≠ 1)
  let postT := rl.terms.any (fun x => x.tgt = 0 && x.trig ≠ 0)
  cs.any (fun p =>
    (preT && c.adds.any (fun a => a.matrix.toNat = m && a.row.toNat = r && a.cidx = p.2.cidx.toNat)) ||
    (postT && c.firing.any (fun f => f.slot = (s.mat n m).tslot && f.cidx = p.2.cidx)))

/-- Flags of a rule and of the core when a delta or optimiser row is uncorrectable (R174). -/
def State.ruleEcc (s : State) (n m : Nat) : State :=
  let s := s.rsetBit (Reg.coreLrnRstat n m) 4 true
  (s.rsetBit (Reg.coreLrnStatus n) 5 true).raiseCore n
/-- A status that an apply records for the command that covers it (R183). -/
def State.applyStatus (s : State) (n m : Nat) (st : Byte) : State :=
  s.setRed n m { s.red n m with status := worse (s.red n m).status st }
/-- Flags when a delta register or a timing accumulator clamps (R168). -/
def State.ruleDsat (s : State) (n m b : Nat) : State :=
  let s := s.rsetBit (Reg.coreLrnRstat n m) 2 true
  ((s.rsetBit (Reg.coreLrnStatus n) 3 true).raiseCore n).stepStatus b St.sat
/-- Flags RESC and SAT of a rule after a conversion (R183, R196). -/
def State.ruleConv (s : State) (n m : Nat) (carried : Bool) (c : Conv) : State :=
  ((s.countConv n c).unitActs 2 5 (c.cost carried)).rmod (Reg.coreLrnRstat n m) (fun x => x ||| (if 0 < c.satN then 1 else 0) ||| (if 0 < c.rescN then 2 else 0))

/-- The first `n` values of a list; the padded columns after them count as 0 (R139). -/
def maskCols (n : Nat) (l : List Dy) : List Dy := l.zipIdx.map (fun p => if p.2 < n then p.1 else Dy.zero)
/-- What a packed row-scaled row gives. A `cleared` row, which no conversion has written since it was cleared (R171), holds 0 in every byte
and counts no bad segment (DESIGN CHOICE, log entry 58). -/
def deltaVals (f n : Nat) (cleared : Bool) (l : List Byte) : List Dy × Nat :=
  if cleared && l.all (· = 0) then (List.replicate (ncolp n) Dy.zero, 0) else unpackRow f n true l

/-- Folds one row of one shard (R171). -/
def State.foldRow (s : State) (n m : Nat) (cs : List (Nat × Ctx)) (g k r : Nat) : State :=
  let rl := s.rule n m
  let d := s.mat n m
  let a := rl.dAddr d n g k r
  let f := cvtFmt rl.cvtD
  let bytes := s.bytes a (rl.dStride d)
  let bad := s.badRange a (rl.dStride d)
  let prev := s.mem.conv.contains a
  let old := if bad then (List.replicate (ncolp d.ncol) Dy.zero, 0) else deltaVals f d.ncol (!prev) bytes
  let lim := (2 : Int) ^ 111
  let sums := (List.range (ncolp d.ncol)).map (fun j =>
    if j < d.ncol then clampTo (-lim) lim (s.elemSum n m cs 0 r j) else (0, false))
  let src := maskCols d.ncol (sums.zipIdx.map (fun p => Dy.add (old.1.getD p.2 Dy.zero) ⟨p.1.1, rl.dexp - 16⟩))
  let carried := if cvtCarry rl.cvtD && prev then some (scalesOf f d.ncol true bytes) else none
  let c := convRow f true carried (cvtRescue rl.cvtD) 0 src
  let s := if bad then (s.ruleEcc n m).stepStatus rl.binding St.eccFatal else s.countBads n old.2
  let s := if sums.any (·.2) then s.ruleDsat n m rl.binding else s
  let s := (s.putBytes a (c.packed f)).setConv a
  (s.ruleConv n m carried.isSome c).stepStatus rl.binding c.status

/-- The timing accumulator of row `r` (R168). -/
def State.tacc (s : State) (n m r : Nat) : Int :=
  signed 64 (s.leAt ((s.rule n m).region n + (s.rule n m).tOff (s.mat n m) + 8 * r) 8)
/-- Adds a step's sum into it, clamped. -/
def State.addTacc (s : State) (n m r : Nat) (x : Int) : State :=
  let rl := s.rule n m
  let v := clampTo (-(2 : Int) ^ 63) ((2 : Int) ^ 63 - 1) (s.tacc n m r + x)
  let s := s.putLe (rl.region n + rl.tOff (s.mat n m) + 8 * r) 8 (unsigned 64 v.1)
  if v.2 then s.ruleDsat n m rl.binding else s

/-- The parity of the epoch a context is in (R175, R190): the delta group it folds into. -/
def RuleDesc.epochGroup (r : RuleDesc) (c : Ctx) : Nat :=
  if r.overlap then (c.cstep.toNat - r.epochBase) / r.epochLen % 2 else 0

/-- The learning pass of one rule (R164-R171). A context outside the held shards sets SHRD where it has an addition or a firing, so where it
would have contributed (DESIGN CHOICE, log entry 70). CORE_LRN_OPS counts every operation of R169, those of contexts before EPOCH_BASE or outside
the held shards included (DESIGN CHOICE, log entry 58). -/
def State.learnRule (s : State) (n m : Nat) : State :=
  let rl := s.rule n m
  let d := s.mat n m
  let t := s.slotAt n d.tslot
  let c := s.cor n
  let rows := List.range d.nrows
  let all := s.coreCtxs n rl.binding
  let s := s.forAll all (fun s p => s.forAll rows (fun s r =>
    s.forAll (List.range rl.nrt) (fun s i => s.stepRt p.2 t rl c.adds m r i)))
  let cs := s.learnCtxs n rl
  let inn := cs.filter (fun p => rl.holds p.2.cidx.toNat)
  let out := cs.filter (fun p => !rl.holds p.2.cidx.toNat)
  let trig := fun (p : Nat × Ctx) => c.adds.any (fun a => a.matrix.toNat = m && a.cidx = p.2.cidx.toNat) ||
    c.firing.any (fun f => f.slot = d.tslot && f.cidx = p.2.cidx)
  let s := if out.any trig then s.rsetBit (Reg.coreLrnRstat n m) 5 true else s
  let s := s.forAll (List.range rl.groups) (fun s g => s.forAll (List.range rl.nsh) (fun s k =>
    let mine := inn.filter (fun p => rl.epochGroup p.2 = g && rl.shardOf p.2.cidx.toNat = rl.shardFirst + k)
    s.forAll (rows.filter (fun r => s.rowReached n m mine r)) (fun s r => s.foldRow n m mine g k r)))
  let s := if rl.dlearn then s.forAll rows (fun s r =>
      s.addTacc n m r (((List.range d.ncol).map (fun j => s.elemSum n m inn 1 r j)).sum)) else s
  let ops := (c.adds.filter (fun a => a.matrix.toNat = m)).length +
    d.nrows * (all.countP (fun p => c.firing.any (fun f => f.slot = d.tslot && f.cidx = p.2.cidx)))
  let (s, o) := (s.unitActs 2 4 ops).longWrap (Reg.coreLrnOpsLo n) ops
  if o then (s.rsetBit (Reg.coreLrnStatus n) 6 true).raiseCore n else s

/-- LEARNING_PASS (R164): the pass of the step, once phase 2 has ended, over every rule of the core. -/
def State.learningPass (s : State) (n : Nat) : State :=
  let c := s.cor n
  if !c.learnDue then s
  else
    let s := s.forAll ((s.rulesOf n).filter (fun m => (s.rule n m).binding = c.binding.toNat)) (fun s m => s.learnRule n m)
    (s.setCor n { s.cor n with learnDue := false }).rsetBit (Reg.coreLrnStatus n) 0 false

/-! ## Epochs and gates (R175-R177) -/

/-- The CSTEP at which epoch `e` of a rule has been completed. -/
def RuleDesc.gateStep (r : RuleDesc) (e : Nat) : Nat := r.epochBase + (e + 1) * r.epochLen

/-- The rules of binding `b` on this device: (core, matrix). -/
def State.bindingRules (s : State) (b : Nat) : List (Nat × Nat) :=
  (List.range 16).flatMap (fun n =>
    if (s.cor n).bound && (s.cor n).binding.toNat = b then
      ((s.rulesOf n).filter (fun m => (s.rule n m).binding = b)).map (fun m => (n, m)) else [])
/-- Those of one GROUP. -/
def State.groupRules (s : State) (b g : Nat) : List (Nat × Nat) :=
  (s.bindingRules b).filter (fun p => (s.rule p.1 p.2).group = g)

/-- The bound contexts of a member's shards (R177), parked ones included. -/
def State.memberCtxs (s : State) (p : Nat × Nat) : List (Nat × Ctx) :=
  let rl := s.rule p.1 p.2
  (s.ctxsOf rl.binding).filter (fun c => rl.holds c.2.cidx.toNat && (c.2.res ≠ 0 || c.2.base.toNat / 2 ^ 40 = p.1))

/-- Whether a context stands at the gate of a member's next apply (R175). -/
def State.atGate (s : State) (p : Nat × Nat) (c : Ctx) : Bool :=
  (s.rule p.1 p.2).gateStep (s.red p.1 p.2).epoch ≤ c.cstep.toNat

/-- Whether a resident context is gated (R176): at the gate of a rule without OVERLAP whose shards hold it. -/
def State.mustGate (s : State) (c : Ctx) : Bool :=
  c.res ≠ 2 && (s.bindingRules c.binding.toNat).any (fun p =>
    !(s.rule p.1 p.2).overlap && (s.rule p.1 p.2).holds c.cidx.toNat &&
    (c.res ≠ 0 || c.base.toNat / 2 ^ 40 = p.1) && s.atGate p c)

/-- RSTAT.STATE of a rule (R196): 0 ACCUM, 1 GATE, 2 APPLY, 3 PART. -/
def State.ruleState (s : State) (p : Nat × Nat) : Nat := s.rfield (Reg.coreLrnRstat p.1 p.2) 27 2
def State.setRuleState (s : State) (p : Nat × Nat) (v : Nat) : State := s.rsetField (Reg.coreLrnRstat p.1 p.2) 27 2 v

/-- Whether an APPLY of group `g` is pending on the binding (R287). -/
def Binding.applyPending (b : Binding) (g : Nat) : Bool := b.applies.any (fun a => a.1.toNat = g)

/-- Whether the apply window of a group may open (R177, R184), an APPLY pending or not: some bound context of the members' shards, here
or on another device, all of them at the gate, an APPLY where a rule has AUTO 0; a group left in PART needs an APPLY. -/
def State.groupReady (s : State) (b g : Nat) (pend : Bool) : Bool :=
  let rs := s.groupRules b g
  let cs := rs.flatMap (fun p => (s.memberCtxs p).map (fun c => s.atGate p c.2))
  let far := (s.bnd b).gates.filter (fun x => x.1.toNat = g)
  rs ≠ [] &&
  (if rs.any (fun p => s.ruleState p = 3) then pend
   else (cs ≠ [] || far ≠ []) && cs.all id && far.all (·.2) && (rs.all (fun p => (s.rule p.1 p.2).auto) || pend) &&
     rs.all (fun p => s.ruleState p ≠ 2))
/-- The same with the APPLY commands of this device. -/
def State.groupDue (s : State) (b g : Nat) : Bool := s.groupReady b g ((s.bnd b).applyPending g)

/-- The groups of a binding. -/
def State.groupsOf (s : State) (b : Nat) : List Nat := ((s.bindingRules b).map (fun p => (s.rule p.1 p.2).group)).foldr insertNat []

/-! ## Members of a reduction (R178) -/

/-- The cores of this device that hold a member of the reduction of matrix `m` and GROUP `g`. -/
def State.members (s : State) (b m g : Nat) : List Nat := ((s.groupRules b g).filter (fun p => p.2 = m)).map Prod.fst
/-- Its members on other devices of the binding, which this device's state does not hold (log entry 67). -/
def State.peers (s : State) (b m g : Nat) : List PeerMember :=
  let mask := (s.bnd b).mask
  if mask &&& ~~~(1#64 <<< s.sys.myDev.toNat) = 0 then []
  else (Config.peerMembers b m g s.tmr.tb.toNat).filter (fun p => mask.getLsbD p.dev.toNat && p.dev ≠ s.sys.myDev)

/-- What the other devices of a binding answer of a GROUP (R286, R287; log entry 67): nothing stands against it where there are none. -/
def State.peerAsk (s : State) (b g : Nat) : BitVec 5 :=
  if (s.bnd b).mask &&& ~~~(1#64 <<< s.sys.myDev.toNat) = 0 then 6 else Config.peerGroup b g s.tmr.tb.toNat

/-- The groups that only other devices of the binding have reported at the step's end (R177). -/
def State.farGroups (s : State) (b : Nat) : List Nat :=
  (((s.bnd b).gates.map (fun x => x.1.toNat)).foldr insertNat []).filter (fun g => (s.groupRules b g).isEmpty)
/-- Whether the window of such a group opens on those devices at this boundary, an APPLY pending or not, so that no step may start: every
context there is at the gate, and the group is AUTO or has an APPLY (R177; what the rules there are is free, log entry 67). -/
def State.farReady (s : State) (b g : Nat) (pend : Bool) : Bool :=
  let ask := s.peerAsk b g
  (s.bnd b).gates.all (fun x => x.1.toNat ≠ g || x.2) && (s.bnd b).farOpen.all (fun x => x.1.toNat ≠ g) &&
    (!ask.getLsbD 3 || pend) && !ask.getLsbD 4
def State.farDue (s : State) (b g : Nat) : Bool := s.farReady b g ((s.bnd b).applyPending g)

/-- The segments a member owns, and those of its tile, from the first up to the one after the last. -/
def RuleDesc.ownSegs (r : RuleDesc) : Nat × Nat := (r.ownFirst, r.ownFirst + r.ownCount)
def tileSegs (base ncol : Nat) : Nat × Nat := (base, base + (ncol + 255) / 256)
def peerSegs (p : PeerMember) : Nat × Nat := (p.ownFirst, p.ownFirst + p.ownCount)
/-- The segments common to two ranges. -/
def meetSegs (a b : Nat × Nat) : Nat × Nat := (max a.1 b.1, min a.2 b.2)
/-- Columns of a range of segments of a tile, padded columns included. -/
def segCols (x : Nat × Nat) (base ncol : Nat) : Nat := min ((x.2 - x.1) * 256) (ncolp ncol - (x.1 - base) * 256)
/-- The segments of a member's tile. -/
def State.tileOf (s : State) (n m : Nat) : Nat × Nat := tileSegs (s.rule n m).segBase (s.mat n m).ncol

/-- Bytes of the packed blocks of `cols` columns of format `f`. -/
def blockBytes (f cols : Nat) : Nat := if fmtBlocked f then cols / 32 * (4 * fmtBits f + 1) else 2 * cols
/-- Bytes of a piece of a delta row: its blocks and the row scales of its segments (R137). -/
def pieceLen (f cols : Nat) : Nat := blockBytes f cols + if fmtBlocked f then 2 * ((cols + 255) / 256) else 0
/-- The piece of a packed row-scaled row of `n` columns that holds `cols` columns from `off` on. -/
def pieceOf (f n off cols : Nat) (l : List Byte) : List Byte :=
  (l.drop (blockBytes f off)).take (blockBytes f cols) ++
    (l.drop (blockBytes f (ncolp n) + 2 * (off / 256))).take (pieceLen f cols - blockBytes f cols)

/-- Rows of one chunk (R386): as many whole rows as 64 KiB hold of `nsh` shards of `cols` columns, at least one. -/
def chunkRowsOf (f nsh cols : Nat) : Nat := max 1 (65536 / max 1 (nsh * pieceLen f cols))
/-- Rows of one chunk in which an owner commits (R388). -/
def RuleDesc.chunkRows (r : RuleDesc) (d : MatDesc) : Nat := chunkRowsOf (cvtFmt r.cvtD) r.nsh (r.ownCols d)
/-- Chunks of the owner's flow. -/
def RuleDesc.chunks (r : RuleDesc) (d : MatDesc) : Nat := (d.nrows + r.chunkRows d - 1) / r.chunkRows d
/-- The rows of chunk `k` of `n` rows each. -/
def chunkOf (nrows n k : Nat) : List Nat :=
  (List.range n).filterMap (fun i => if k * n + i < nrows then some (k * n + i) else none)
def RuleDesc.rowsOf (r : RuleDesc) (d : MatDesc) (k : Nat) : List Nat := chunkOf d.nrows (r.chunkRows d) k

/-- Rows of one chunk of a member's flow to owner `own` (R386, R388): its own shards' rows of the owned segments. A member that nothing is
known of cuts as the owner does. -/
def State.memRows (s : State) (own m mem : Nat) : Nat :=
  let ro := s.rule own m
  let f := cvtFmt ro.cvtD
  let cols := ro.ownCols (s.mat own m)
  match (s.members ro.binding m ro.group).find? (fun c => (s.rule c m).gindex = mem) with
  | some c => chunkRowsOf f (s.rule c m).nsh cols
  | none => match (s.peers ro.binding m ro.group).find? (fun p => p.gindex = mem) with
    | some p => chunkRowsOf f p.nsh cols
    | none => chunkRowsOf f ro.nsh cols

/-- The group of delta sets that the open apply takes (R190). -/
def State.applySet (s : State) (n m : Nat) : Nat := if (s.rule n m).overlap then (s.red n m).epoch % 2 else 0

/-- A member's piece of a delta row of shard `k`, and whether the row is uncorrectable, in which case it is 0 (R174). -/
def State.deltaPiece (s : State) (n m k r : Nat) (x : Nat × Nat) : List Byte × Bool :=
  let rl := s.rule n m
  let d := s.mat n m
  let f := cvtFmt rl.cvtD
  let a := rl.dAddr d n (s.applySet n m) k r
  let cols := segCols x rl.segBase d.ncol
  if s.badRange a (rl.dStride d) then (List.replicate (pieceLen f cols) 0, true)
  else (pieceOf f d.ncol ((x.1 - rl.segBase) * 256) cols (s.bytes a (rl.dStride d)), false)

/-! ## The carriage of an apply window (R558) -/

/-- The bytes of a transfer. -/
def Xfer.bytes : Xfer → List Byte
  | .deltas _ _ rows => rows.flatMap (·.2)
  | .newRows _ rows => rows.flatMap (·.2.2)
  | .sums _ _ t => t.flatMap (fun x => leBytes 8 (unsigned 64 x))
  | .votes _ _ v => v.map (fun x => x.zeroExtend 8)

/-- A system core's physical core: this device's LMAP says its own; another device's is not in this device's state (log entry 67). -/
def State.physOf (s : State) (dev : BitVec 6) (core : Nat) : Nat :=
  if dev = s.sys.myDev then ((s.localOf core).map s.physCore).getD 63 else Config.peerPhys dev.toNat core s.tmr.tb.toNat

/-- The circuit that carries the transfers of core `n` to a member's core: the lowest-numbered one that is bound to the binding, ACTIVE or
PACKET, and runs from a port of this core to a port of that one. None: BULK packets on VC2. -/
def State.carriage (s : State) (b n : Nat) (dev : BitVec 6) (core : Nat) : Option Nat :=
  (List.range 256).find? (fun c =>
    (s.circ c).bound && (s.circ c).binding.toNat = b &&
    (s.rfield (Reg.fabCircStat c) 29 3 = 2 || s.rfield (Reg.fabCircStat c) 29 3 = 3) &&
    s.rfield (Reg.fabCircCfg1 c) 0 7 / 2 = s.physCore n && s.rfield (Reg.fabCircCfg1 c) 24 6 = dev.toNat &&
    s.rfield (Reg.fabCircCfg1 c) 16 7 / 2 = s.physOf dev core)

/-- Transfers leave core `n` for a member's core: on their circuit as a flow behind those under way, else as BULK packets. A transfer has
no memory reference: its chunks carry the reference of all ones. -/
def State.carry (s : State) (b n m : Nat) (dev : BitVec 6) (core : Nat) (xs : List Xfer) : State :=
  if xs = [] then s
  else match s.carriage b n dev core with
  | some c => s.addFlow c
      { cmd := none, bytes := (xs.map (fun x => x.bytes.length)).sum
        chunks := xs.zipIdx.map (fun p => (BitVec.ofNat 18 p.2, BitVec.allOnes 64, p.1.bytes))
        learn := some ⟨BitVec.ofNat 10 n, BitVec.ofNat 8 m, dev, BitVec.ofNat 10 core, xs⟩
        src := none, order := s.cmd.issues, going := false }
  | none => s.forAll xs (fun s x =>
      let s := s.send (.xfer none dev (BitVec.ofNat 10 core) (BitVec.ofNat 8 m) x)
      if dev = s.sys.myDev then s else State.bulkOut (x.bytes.length / 8192 + 1) s b dev.toNat none x.bytes)

/-- The transfers of a member's delta rows of the segments `x`, for every shard, in chunks of `rows` rows; an uncorrectable row counts as
0 (R174, R178). -/
def State.deltaXfers (s : State) (n m : Nat) (x : Nat × Nat) (rows : Nat) : List Xfer :=
  let rl := s.rule n m
  let d := s.mat n m
  (List.range ((d.nrows + rows - 1) / rows)).map (fun k => .deltas rl.gindex k ((chunkOf d.nrows rows k).map (fun r =>
    (r, (List.range rl.nsh).flatMap (fun h => (s.deltaPiece n m h r x).1)))))
/-- What a member records for the rows of the segments `x` that it sends to another device. -/
def State.deltaRead (s : State) (n m : Nat) (x : Nat × Nat) : State :=
  let rl := s.rule n m
  let d := s.mat n m
  let bad := (List.range d.nrows).any (fun r => (List.range rl.nsh).any (fun k => (s.deltaPiece n m k r x).2))
  if bad then (s.ruleEcc n m).applyStatus n m St.eccFatal else s

/-- A member sends its delta rows to the other owners of its segments (R178), and its timing accumulators to the home member (R186). -/
def State.sendDeltas (s : State) (b n m : Nat) : State :=
  let rl := s.rule n m
  let d := s.mat n m
  let f := cvtFmt rl.cvtD
  let here := s.members b m rl.group
  let far := s.peers b m rl.group
  let tile := s.tileOf n m
  let s := s.forAll (here.filter (fun o => o ≠ n)) (fun s o =>
    let x := meetSegs (s.rule o m).ownSegs tile
    if x.1 < x.2 then
      s.carry b n m s.sys.myDev (s.sysOf o) (s.deltaXfers n m x (chunkRowsOf f rl.nsh ((s.rule o m).ownCols (s.mat o m))))
    else s)
  let s := s.forAll far (fun s p =>
    let x := meetSegs (peerSegs p) tile
    if x.1 < x.2 then
      (s.deltaRead n m x).carry b n m p.dev p.core.toNat
        (s.deltaXfers n m x (chunkRowsOf f rl.nsh (segCols (peerSegs p) p.segBase p.ncol)))
    else s)
  if !rl.dlearn || rl.taccHome then s
  else
    let t := ((cut 8192 (List.range d.nrows)).map (fun l => Xfer.sums rl.gindex (l.headD 0) (l.map (fun r => s.tacc n m r))))
    match here.find? (fun o => (s.rule o m).taccHome), far.find? (fun p => p.home) with
    | some o, _ => s.carry b n m s.sys.myDev (s.sysOf o) t
    | none, some p => s.carry b n m p.dev p.core.toNat t
    | none, none => s

/-- Steps that the contexts of a member have run since the epoch to apply was completed: the k of R190. Where contexts differ in CSTEP it is
that of the context which has run the fewest (DESIGN CHOICE, log entry 70). -/
def State.sinceGate (s : State) (p : Nat × Nat) : Nat :=
  let g := (s.rule p.1 p.2).gateStep (s.red p.1 p.2).epoch
  ((s.memberCtxs p).map (fun c => c.2.cstep.toNat - g)).foldl min ((((s.memberCtxs p).map (fun c => c.2.cstep.toNat - g)).headD 0))

/-- Opens the window of one member (R177, R178, R190), or opens it again after PART (R184). -/
def State.openRule (s : State) (b : Nat) (p : Nat × Nat) : State :=
  let rl := s.rule p.1 p.2
  let x := s.red p.1 p.2
  let again := s.ruleState p = 3
  let s := (s.setRuleState p 2).rsetBit (Reg.coreLrnStatus p.1) 1 true
  let s := s.setRed p.1 p.2
    (if again then { x with resumed := true }
     else { x with
      ovl := rl.overlap, perStep := rl.ovlRows, rows := (s.mat p.1 p.2).nrows, openedAt := s.tmr.tb
      openStep := BitVec.ofNat 48 ((s.bnd b).step.toNat - s.sinceGate p)
      tsums := if rl.dlearn then (List.range (s.mat p.1 p.2).nrows).map (fun r => s.tacc p.1 p.2 r) else [] })
  s.sendDeltas b p.1 p.2

/-- APPLY_WINDOW_OPEN: at a boundary of the binding, the windows of all groups that are due open; while one without OVERLAP is
open no step starts (R177). A member device learns with the command for which groups the lead holds an APPLY (R283). -/
def State.applyOpen (s : State) (b : Nat) (granted : List (BitVec 8)) : State :=
  let bd := s.bnd b
  if !bd.valid || bd.running then s
  else
    let pend := fun (g : Nat) => bd.applyPending g || (bd.lead ≠ s.sys.myDev && granted.any (fun x => x.toNat = g))
    let gs := (s.groupsOf b).filter (fun g => s.groupReady b g (pend g))
    let ps := gs.flatMap (fun g => (s.groupRules b g).filter (fun p => s.ruleState p ≠ 2))
    let far := (s.farGroups b).filter (fun g => s.farReady b g (pend g))
    let autos := far.map (fun g => (BitVec.ofNat 8 g, !(s.peerAsk b g).getLsbD 3))
    let s := s.forAll ps (fun s p => s.openRule b p)
    let s := s.setBnd b { s.bnd b with farOpen := (s.bnd b).farOpen ++ autos }
    if far ≠ [] || ps.any (fun p => !(s.rule p.1 p.2).overlap) then s.setBnd b { s.bnd b with windowOpen := true } else s

/-! ## Reductions (R178, R388) -/

/-- Adds values into the owner's reduced deltas of row `r`, first column `j0`. -/
def Reduction.addRow (x : Reduction) (r j0 : Nat) (l : List Dy) : Reduction :=
  { x with sums := l.zipIdx.foldl (fun t p =>
      let k := r * 8192 + j0 + p.2
      Tab.set (fun _ => Dy.zero) t k (Dy.add (Tab.get (fun _ => Dy.zero) t k) p.1)) x.sums }

/-- The owner decodes a piece of a delta row of the segments `x` and adds it (R178); core `c` counts what decodes as 0 (R155). -/
def State.addPiece (s : State) (own m c r : Nat) (x : Nat × Nat) (cols : Nat) (cleared : Bool) (piece : List Byte) : State :=
  let ro := s.rule own m
  let u := deltaVals (cvtFmt ro.cvtD) cols cleared piece
  (s.countBads c u.2).setRed own m (((s.countBads c u.2).red own m).addRow r ((x.1 - ro.segBase) * 256) u.1)

/-- A local member's contribution to rows of the owner (R178): the owned columns of its delta rows, every shard. -/
def State.addLocal (s : State) (own m mem : Nat) (rows : List Nat) : State :=
  let rm := s.rule mem m
  let x := meetSegs (s.rule own m).ownSegs (s.tileOf mem m)
  let cols := segCols x rm.segBase (s.mat mem m).ncol
  s.forAll rows (fun s r => s.forAll (List.range rm.nsh) (fun s k =>
    let (l, ecc) := s.deltaPiece mem m k r x
    let s := if ecc then (s.ruleEcc mem m).applyStatus mem m St.eccFatal else s
    s.addPiece own m mem r x cols (ecc || !s.mem.conv.contains (rm.dAddr (s.mat mem m) mem (s.applySet mem m) k r)) l))

/-- REDUCTION_CHUNK_ARRIVAL (R178, R388): the owner adds a member's chunk once. A member on this device contributes its own delta
rows; a member elsewhere contributes the rows that arrived, each the piece of the owned segments of every shard in turn. The piece of a row
that the member has not written since it was cleared holds 0 in every byte (DESIGN CHOICE, log entry 58). -/
def State.chunkArrival (s : State) (own m mem chunk : Nat) (rows : List (Nat × List Byte)) : State :=
  let rl := s.rule own m
  let d := s.mat own m
  let x := s.red own m
  let mine := chunkOf d.nrows (s.memRows own m mem) chunk
  if s.ruleState (own, m) ≠ 2 || rl.ownCount = 0 || x.got.contains (mem, chunk) || rl.gsize ≤ mem || mine = [] then s
  else
    let s := s.setRed own m { x with got := (mem, chunk) :: x.got }
    match (s.members rl.binding m rl.group).find? (fun c => (s.rule c m).gindex = mem) with
    | some c => s.addLocal own m c mine
    | none =>
      let (segs, cols) := match (s.peers rl.binding m rl.group).find? (fun p => p.gindex = mem) with
        | some p =>
          let x := meetSegs rl.ownSegs (tileSegs p.segBase p.ncol)
          (x, segCols x p.segBase p.ncol)
        | none => (rl.ownSegs, rl.ownCols d)
      s.forAll (rows.filter (fun r => mine.contains r.1)) (fun s r =>
        s.forAll (cut (pieceLen (cvtFmt rl.cvtD) cols) r.2) (fun s piece => s.addPiece own m own r.1 segs cols true piece))

/-! ## The owner's update (R179-R182) -/

/-- One optimiser row: the stored values `old` and the new source values of its `n` columns of data, converted by `cvt` and written at
`a`; the decoded result. -/
def State.optRow (s : State) (n m a data cols cvt : Nat) (new : List Dy → List Dy) : State × List Dy :=
  let f := cvtFmt cvt
  let len := round16 (blockBytes f cols)
  let bytes := s.bytes a len
  let prev := s.mem.conv.contains a
  let bad := s.badRange a len
  let u := unpackRow f cols false bytes
  let old := if bad then List.replicate cols Dy.zero else maskCols data u.1
  let carried := if cvtCarry cvt && prev then some (scalesOf f cols false bytes) else none
  let c := convRow f false carried (cvtRescue cvt) 0 (maskCols data (new old))
  let s := if bad then (s.ruleEcc n m).applyStatus n m St.eccFatal else s.countBads n u.2
  let s := ((s.putBytes a (c.packed f)).setConv a).ruleConv n m carried.isSome c
  (s.applyStatus n m c.status, (unpackRow f cols false (c.packed f)).1)

/-- v × 2^(−⌈e / 2⌉) for the smallest e with max(s, 2^EPS_EXP) ≤ 2^e (R179). -/
def secondMoment (eps : Int) (v sq : Dy) : Dy :=
  let x := Dy.max sq ⟨1, eps⟩
  let e := log2Q x.num.toNat x.den
  let e := if x.le ⟨1, e⟩ then e else e + 1
  v.shift (-((e + 1) / 2))

/-- Columns of the owned segments that hold data: the others up to a multiple of 32 are padding. -/
def RuleDesc.ownData (r : RuleDesc) (d : MatDesc) : Nat := min (r.ownCols d) (d.ncol - r.own0)

/-- The optimiser output of one row (R179). -/
def State.optimise (s : State) (n m r : Nat) : State × List Dy :=
  let rl := s.rule n m
  let d := s.mat n m
  let cols := rl.ownCols d
  let data := rl.ownData d
  let dl := maskCols data
    ((List.range cols).map (fun j => Tab.get (fun _ => Dy.zero) (s.red n m).sums (r * 8192 + rl.own0 + j)))
  let upd := fun (k : Nat) (o x : Dy) => (o.add (o.shift (-(k : Int))).neg).add x
  if rl.opt = 0 then (s, dl)
  else
    let (s, v) := s.optRow n m (rl.region n + rl.mOff d + r * rl.optStride d (cvtFmt rl.cvtM)) data cols rl.cvtM
      (fun old => List.zipWith (upd rl.bsh1) old dl)
    if rl.opt = 1 then (s, v)
    else
      let (s, sq) := s.optRow n m (rl.region n + rl.sOff d + r * rl.optStride d (cvtFmt rl.cvtS)) data cols rl.cvtS
        (fun old => List.zipWith (upd rl.bsh2) old (dl.map (fun x => x.mul x)))
      (s, List.zipWith (secondMoment rl.epsExp) v sq)

/-- The packed bytes of a weight row as the matrix stands (R92, R94). -/
def State.weightRow (s : State) (n m r : Nat) : List Byte :=
  let d := s.mat n m
  if d.streamed then s.bytes (Mem.hbm + d.haddr + r * d.stride) d.stride
  else packedLayout d.fmt d.ncol (s.bytes (Mem.store n 0 + d.base + r * d.stride) d.stride)

/-- Bounds of a rule: w_min and w_max (R160). -/
def RuleDesc.wmin (r : RuleDesc) : Dy := fp16Signed r.wMin
def RuleDesc.wmax (r : RuleDesc) : Dy := r.wmin.add ⟨1, r.rangeExp⟩
/-- Clamp to the bounds. -/
def RuleDesc.cl (r : RuleDesc) (x : Dy) : Dy := if x.le r.wmin then r.wmin else if r.wmax.le x then r.wmax else x

/-- The soft-bounded weight before its clamp (R180). -/
def RuleDesc.soft (r : RuleDesc) (w m : Dy) : Dy :=
  let u := (fp16Signed r.eta).mul m
  let wc := r.cl w
  wc.add ((if 0 ≤ u.m then u.mul (r.wmax.add wc.neg) else u.mul (wc.add r.wmin.neg)).shift (-r.rangeExp))

/-- Whether an element is pinned (R180). -/
def RuleDesc.pinned (r : RuleDesc) (w m : Dy) : Bool := (r.soft w m).le r.wmin || r.wmax.le (r.soft w m)

/-- The factor of a normalised column (R181). -/
def RuleDesc.normFactor (r : RuleDesc) (col : List Dy) : Dy :=
  let l1 := col.foldl (fun a x => a.add x.abs) Dy.zero
  if l1.m = 0 then ⟨1, 0⟩
  else
    let t := fp16Signed r.normTarget
    elemValue 8 (convFloat 8 (t.num * l1.den) ((l1.num * t.den).toNat)).code

/-- The new weights of the rows listed, for the owned columns (R180, R181): by row a list of values, and the number of columns
that fell back. Rows carry the old weights and the optimiser outputs; of the `cols` columns those from `data` on are padding and stay 0
(R139). -/
def RuleDesc.newRows (r : RuleDesc) (nrows : Nat) (rows : List (Nat × List Dy × List Dy)) (data cols : Nat) :
    List (Nat × List Dy) × Nat :=
  let col := fun (j : Nat) => rows.map (fun x => (x.2.1.getD j Dy.zero, x.2.2.getD j Dy.zero))
  let falls := fun (j : Nat) =>
    r.bound = 2 && decide (r.normTrigger * nrows < 256 * ((col j).countP (fun p => r.pinned p.1 p.2)))
  let norm := fun (j : Nat) => r.bound = 1 || falls j
  let w2 := fun (p : Dy × Dy) => r.cl ((r.cl p.1).add ((fp16Signed r.eta).mul p.2))
  let fac := (List.range data).map (fun j => if norm j then some (r.normFactor ((col j).map w2)) else none)
  (rows.map (fun x => (x.1, (List.range cols).map (fun j =>
      let p := (x.2.1.getD j Dy.zero, x.2.2.getD j Dy.zero)
      if data ≤ j then Dy.zero
      else match fac.getD j none with
      | some f => r.cl ((w2 p).mul f)
      | none => r.cl (r.soft p.1 p.2)))),
    (List.range data).countP falls)

/-- Where the mark of a previous conversion of a weight row stands (R147): rows of matrices have keys of their own. -/
def weightKey (n m r : Nat) : Nat := Mem.store n 0 + (m * 65536 + r) * 64 + 2 ^ 40
/-- Rows of streamed matrices that a write of `n` bytes at `a` touches have no previous conversion (R147). -/
def State.loadedOver (s : State) (a n : Nat) : State :=
  { s with mem := { s.mem with conv := s.mem.conv.filter (fun k =>
      let at' := k % 2 ^ 48 - 2 ^ 40
      let d := s.mat ((k / 2 ^ 48 - 0x100) / 8) (at' / 64 / 65536)
      let row := Mem.hbm + d.haddr + at' / 64 % 65536 * d.stride
      !(decide (2 ^ 40 ≤ k % 2 ^ 48) && d.valid && d.streamed && decide (row < a + n) && decide (a < row + d.stride))) } }
/-- The packed blocks of the owned columns of a weight row. -/
def State.ownedBlocks (s : State) (n m r : Nat) : List Byte :=
  let d := s.mat n m
  ((s.weightRow n m r).drop (blockBytes d.fmt (s.rule n m).own0)).take (blockBytes d.fmt ((s.rule n m).ownCols d))

/-- Converts the new rows by CVTW_W segment by segment and stages them (R182): for each row the packed blocks of the owned
segments. -/
def State.stageRow (s : State) (n m : Nat) (x : Nat × List Dy) : State :=
  let rl := s.rule n m
  let f := (s.mat n m).fmt
  let cols := rl.ownCols (s.mat n m)
  let key := weightKey n m x.1
  let carried := if cvtCarry rl.cvtW && s.mem.conv.contains key then some (scalesOf f cols false (s.ownedBlocks n m x.1)) else none
  let c := convRow f false carried (cvtRescue rl.cvtW) 0 x.2
  let s := (s.setConv key).ruleConv n m carried.isSome c
  (s.setRed n m { s.red n m with staged := (s.red n m).staged ++ [(x.1, (c.packed f).take (blockBytes f cols))] }).applyStatus n m
    c.status

/-- The owner computes the new rows listed (R179-R182). A block of an old weight row that decodes as 0 counts (R132, R155). -/
def State.computeRows (s : State) (n m : Nat) (rows : List Nat) : State :=
  let rl := s.rule n m
  let d := s.mat n m
  let cols := rl.ownCols d
  let (s, ms) := rows.foldl (fun (p : State × List (Nat × List Dy × List Dy)) r =>
    let (s', o) := p.1.optimise n m r
    let w := unpackRow d.fmt cols false (s'.ownedBlocks n m r)
    (s'.countBads n w.2, p.2 ++ [(r, w.1, o)])) (s, [])
  let nr := rl.newRows d.nrows ms (rl.ownData d) cols
  let s := s.forAll nr.1 (fun s y => s.stageRow n m y)
  if nr.2 = 0 then s
  else ((s.count (Reg.coreLrnNormcol n) nr.2).rsetBit (Reg.coreLrnStatus n) 4 true).rsetBit (Reg.coreLrnRstat n m) 3 true

/-- The owner's new rows of a chunk for a holder of the segments `tile` (R182), in transfers of at most 64 KiB of whole rows (R386). -/
def State.rowXfer (s : State) (n m chunk : Nat) (tile : Nat × Nat) : List Xfer :=
  let rl := s.rule n m
  let d := s.mat n m
  let x := meetSegs rl.ownSegs tile
  let seg := blockBytes d.fmt 256
  if x.1 < x.2 then
    (cut (max 1 (65536 / max 1 ((x.2 - x.1) * seg))) (((s.red n m).staged.filter (fun y => (rl.rowsOf d chunk).contains y.1)).map (fun y =>
      (y.1, x.1, (y.2.drop ((x.1 - rl.ownFirst) * seg)).take ((x.2 - x.1) * seg))))).map (fun l => .newRows chunk l)
  else []
/-- The new rows of a chunk leave for every other member that holds them. -/
def State.sendRows (s : State) (b n m chunk : Nat) : State :=
  let g := (s.rule n m).group
  let far := s.peers b m g
  let s := s.forAll ((s.members b m g).filter (fun o => o ≠ n)) (fun s o =>
    s.carry b n m s.sys.myDev (s.sysOf o) (s.rowXfer n m chunk (s.tileOf o m)))
  s.forAll far (fun s p => s.carry b n m p.dev p.core.toNat (s.rowXfer n m chunk (tileSegs p.segBase p.ncol)))

/-- Whether new rows of a chunk still wait for the acknowledgement of a member that holds them (R388): a CHUNKACK of their circuit, or for
rows that went as BULK packets the end-to-end acknowledgement of those packets (DEDUCED, log entry 67). -/
def State.rowsUnacked (s : State) (n m chunk : Nat) : Bool :=
  (s.peers (s.rule n m).binding m (s.rule n m).group).any (fun p =>
    (s.carriage (s.rule n m).binding n p.dev p.core.toNat).isNone &&
      ((s.e2e p.dev.toNat 2).retained.any (fun q => q.2.type = 7) || (s.e2e p.dev.toNat 2).waiting.any (fun q => q.type = 7))) ||
  s.fab.circuits.any (fun c => c.2.flows.any (fun f => match f.learn with
    | some l => l.core.toNat = n && l.matrix.toNat = m && f.chunks ≠ [] &&
        l.xs.any (fun x => match x with | .newRows k _ => k = chunk | _ => false)
    | none => false))

/-- CHUNK_COMMIT (R388): the next chunk in order. Once every member's contribution to its rows has been added the owner computes them and
sends them to the members that hold them; with their acknowledgements the chunk is committed. A rule that may normalise needs the whole
columns, so its first commit waits for every chunk and computes every row (R181). -/
def State.chunkCommit (s : State) (n m chunk : Nat) : State :=
  let rl := s.rule n m
  let d := s.mat n m
  let x := s.red n m
  let full := fun (k : Nat) => (List.range rl.gsize).all (fun g => (rl.rowsOf d k).all (fun r => x.got.contains (g, r / s.memRows n m g)))
  let ready := if rl.bound = 0 then full chunk else (List.range (rl.chunks d)).all full
  if s.ruleState (n, m) ≠ 2 || rl.ownCount = 0 || chunk ≠ x.committed || rl.chunks d ≤ chunk || !ready then s
  else
    let s := if chunk < x.computed then s
      else if rl.bound = 0 then
        let s := s.computeRows n m (rl.rowsOf d chunk)
        s.setRed n m { s.red n m with computed := chunk + 1 }
      else
        let s := s.computeRows n m (List.range d.nrows)
        s.setRed n m { s.red n m with computed := rl.chunks d }
    let s := if chunk < x.sent then s
      else (s.setRed n m { s.red n m with sent := chunk + 1 }).sendRows rl.binding n m chunk
    if s.rowsUnacked n m chunk then s else s.setRed n m { s.red n m with committed := chunk + 1 }

/-! ## Writing new rows (R96, R182) -/

/-- A weight row of a member with packed blocks replaced from segment `seg` of its tile on, wherever the matrix lies: the synapse store,
or HBM at the member's HADDR and every berth that holds it. -/
def State.writeWeights (s : State) (n m r seg : Nat) (bytes : List Byte) : State :=
  let d := s.mat n m
  let off := seg * blockBytes d.fmt 256
  let old := s.weightRow n m r
  let row := old.take off ++ bytes ++ old.drop (off + bytes.length)
  let put := fun (s : State) (a : Nat) =>
    (s.putBytes a (storeLayout d.fmt d.ncol row)).setCor n ((s.cor n).dropRows a d.stride)
  if d.streamed then
    let c := s.cor n
    ((s.putBytes (Mem.hbm + d.haddr + r * d.stride) row).moved true (Mem.hbm + d.haddr + r * d.stride) d.stride).forAll [c.berth0, c.berth1] (fun s x =>
      if x.state ≠ 0 ∧ x.matrix.toNat = m then put s (Mem.store n 0 + x.base.toNat * 4096 + r * d.stride) else s)
  else put s (Mem.store n 0 + d.base + r * d.stride)

/-- A staged row of an owner written into one member on this device: the segments the member holds (R182). -/
def State.writePart (s : State) (own m mem : Nat) (x : Nat × List Byte) : State :=
  let ro := s.rule own m
  let seg := blockBytes (s.mat own m).fmt 256
  let k := meetSegs ro.ownSegs (s.tileOf mem m)
  if k.1 < k.2 then
    s.writeWeights mem m x.1 (k.1 - (s.rule mem m).segBase) ((x.2.drop ((k.1 - ro.ownFirst) * seg)).take ((k.2 - k.1) * seg))
  else s
/-- A staged row of an owner written into every member on this device that holds its segments. -/
def State.writeStaged (s : State) (own m : Nat) (x : Nat × List Byte) : State :=
  s.forAll (s.members (s.rule own m).binding m (s.rule own m).group) (fun s mem => s.writePart own m mem x)

/-- A row from an owner on another device (row, global segment, packed blocks) written into a member. -/
def State.writeFar (s : State) (n m : Nat) (x : Nat × Nat × List Byte) : State :=
  if (s.rule n m).segBase ≤ x.2.1 ∧ x.2.1 < (s.tileOf n m).2 then s.writeWeights n m x.1 (x.2.1 - (s.rule n m).segBase) x.2.2
  else s

/-- Whether segment `g` of row `r` is at hand for a member: staged by an owner on this device, or among the rows that came. -/
def State.segReady (s : State) (b n m : Nat) (rows : List (Nat × Nat × List Byte)) (r g : Nat) : Bool :=
  (s.members b m (s.rule n m).group).any (fun o =>
    (s.rule o m).ownSegs.1 ≤ g && g < (s.rule o m).ownSegs.2 && (s.red o m).staged.any (fun x => x.1 = r)) ||
  rows.any (fun x => x.1 = r && x.2.1 ≤ g && g * blockBytes (s.mat n m).fmt 256 < x.2.1 * blockBytes (s.mat n m).fmt 256 + x.2.2.length)

/-- OVERLAP_ROW_COMMIT (R190): a member writes the next OVL_ROWS rows, once every segment of them has come from its owner, and never
more than the step to come reads at the new version: (k + 1) × OVL_ROWS in step k of the epoch. -/
def State.overlapCommit (s : State) (n m : Nat) (rows : List (Nat × Nat × List Byte)) : State :=
  let x := s.red n m
  let b := (s.rule n m).binding
  let limit := min (((s.bnd b).step.toNat - x.openStep.toNat + 1) * x.perStep) x.rows
  let up := min (x.written + x.perStep) limit
  let new := (List.range (up - x.written)).map (fun i => x.written + i)
  let tile := s.tileOf n m
  if !x.ovl || s.ruleState (n, m) ≠ 2 || up ≤ x.written ||
    !(new.all (fun r => (List.range (tile.2 - tile.1)).all (fun i => s.segReady b n m rows r (tile.1 + i)))) then s
  else
    let owners := s.members b m (s.rule n m).group
    let s := s.forAll owners (fun s o => s.forAll ((s.red o m).staged.filter (fun y => new.contains y.1)) (fun s y => s.writePart o m n y))
    let s := s.forAll (rows.filter (fun y => new.contains y.1)) (fun s y => s.writeFar n m y)
    (s.setRed n m { s.red n m with written := up }).phase1Try n

/-! ## Closing the window (R182-R184) -/

/-- The system core numbers of the members of a reduction: the targets of its delay votes (R187). -/
def State.voteTargets (s : State) (b m g : Nat) : List Nat :=
  (s.members b m g).map s.sysOf ++ (s.peers b m g).map (fun p => p.core.toNat)

/-- Whether every segment of a member's rows is at hand, from its owners here or among the rows that have come for it (R182). -/
def State.rowsHere (s : State) (p : Nat × Nat) (rows : List (Nat × Nat × List Byte)) : Bool :=
  let tile := s.tileOf p.1 p.2
  (List.range (s.mat p.1 p.2).nrows).all (fun r =>
    (List.range (tile.2 - tile.1)).all (fun i => s.segReady (s.rule p.1 p.2).binding p.1 p.2 rows r (tile.1 + i)))

/-- Whether a member has done its part: an owner has committed every chunk, an overlap apply has written every row, and the delay
votes for every target have been made. -/
def State.memberDone (s : State) (p : Nat × Nat) : Bool :=
  let rl := s.rule p.1 p.2
  let x := s.red p.1 p.2
  (rl.ownCount = 0 || rl.chunks (s.mat p.1 p.2) ≤ x.committed) && (!x.ovl || x.rows ≤ x.written) &&
    (!rl.dlearn || (s.voteTargets rl.binding p.2 rl.group).all (fun t => x.voted.contains t))

/-- Clears the delta rows of one group of sets, and what R163 clears with them when `all` is set. -/
def State.clearDeltas (s : State) (n m g : Nat) (all : Bool) : State :=
  let rl := s.rule n m
  let d := s.mat n m
  let a := if all then rl.region n else rl.dAddr d n g 0 0
  let k := if all then rl.size d else rl.nsh * d.nrows * rl.dStride d
  let s := (s.clearRange a k).dropConv a k
  if rl.dlearn && !all then s.clearRange (rl.region n + rl.tOff d) (8 * d.nrows) else s

/-- One member at the close: outside overlap apply its staged rows are written; the deltas of the epoch are cleared, REPOCH counts, and VERSION
flips (R182): it reads 1 after epoch 0, whatever the parity that R196 names, and EPOCH does not restart it (DESIGN CHOICE, log entry 70). -/
def State.closeRule (s : State) (p : Nat × Nat) : State :=
  let x := s.red p.1 p.2
  let s := if x.ovl then s else s.forAll x.staged (fun s y => s.writeStaged p.1 p.2 y)
  let s := s.clearDeltas p.1 p.2 (s.applySet p.1 p.2) false
  let s := s.count (Reg.coreLrnRepoch p.1 p.2) 1
  let s := s.rmod (Reg.coreLrnRstat p.1 p.2) (fun w => withBit w 29 (!bitOf w 29))
  let s := s.setRuleState p 0
  let s := s.maxReg (Reg.coreLrnApplymax p.1) (aclkOf (s.tmr.tb.toNat - x.openedAt.toNat))
  let s := s.rsetBit (Reg.coreLrnStatus p.1) 1
    ((s.rulesOf p.1).any (fun m => s.ruleState (p.1, m) = 2 || s.ruleState (p.1, m) = 3))
  s.setRed p.1 p.2 { Reduction.empty with epoch := x.epoch + 1 }

/-- Ends the APPLY commands of a group (R287): the worst status of its members, RESULT the epoch applied. -/
def State.endApplies (s : State) (b g epoch : Nat) (st : Byte) : State :=
  let bd := s.bnd b
  let s := s.setBnd b { bd with applies := bd.applies.filter (fun a => a.1.toNat ≠ g) }
  s.forAll (bd.applies.filter (fun a => a.1.toNat = g)) (fun s a => s.finish a.2.1 a.2.2 0x24 st epoch)

/-- An AUTO apply of group `g` reports to the STEP or RUN that covers the epoch's last step (R183): the one that waits for the group, else the
one running. -/
def State.autoStatus (s : State) (b g : Nat) (st : Byte) : State :=
  let mine := fun (q : StepCmd) => q.waits.any (fun x => x.toNat = g)
  if (s.bnd b).queue.any mine then s.setBnd b { s.bnd b with queue := markFirst mine st (s.bnd b).queue }
  else s.stepStatus b st

/-- An apply reports (R183): to the APPLY of its group, or for AUTO to the STEP or RUN; on a member device to the lead, which holds these
commands. -/
def State.applyReport (s : State) (b g : Nat) (auto : Bool) (st : Byte) (epoch : Nat) : State :=
  if (s.bnd b).lead ≠ s.sys.myDev then
    s.toDevice (s.bnd b).lead.toNat 4 1 (.applyDone (BitVec.ofNat 6 b) (BitVec.ofNat 8 g) auto st epoch)
  else if auto then s.autoStatus b g st
  else s.endApplies b g epoch st

/-- Whether a member reports to the STEP or RUN: AUTO, and no APPLY resumed it (R183, R184). -/
def State.reportsAuto (s : State) (p : Nat × Nat) : Bool := (s.rule p.1 p.2).auto && !(s.red p.1 p.2).resumed

/-- One group closes: members, APPLY commands and, for AUTO, the status of the covering STEP or RUN (R183), with what the other devices
reported. -/
def State.closeGroup (s : State) (b g : Nat) (others : List (BitVec 8 × Bool × Byte × BitVec 48)) : State :=
  let ps := s.groupRules b g
  let far := fun (auto : Bool) => (others.filter (fun o => o.1.toNat = g && o.2.1 = auto)).map (fun o => o.2.2.1)
  let st := fun (auto : Bool) => ((ps.filter (fun p => s.reportsAuto p = auto)).map (fun p => (s.red p.1 p.2).status) ++ far auto)
  let sts := (st true, st false)
  let ep := (ps.map (fun p => (s.red p.1 p.2).epoch)).headD 0
  let s := s.forAll ps (fun s p => s.closeRule p)
  let s := s.setBnd b { s.bnd b with gates := (s.bnd b).gates.filter (fun x => x.1.toNat ≠ g) }
  let s := if sts.1 = [] then s else s.applyReport b g true (sts.1.foldl worse St.ok) ep
  if sts.2 = [] then s else s.applyReport b g false (sts.2.foldl worse St.ok) ep

/-- The rows that came for open reductions of the groups `gs` are written (R182). -/
def State.writeReported (s : State) (b : Nat) (gs : List Nat) (rows : List (BitVec 10 × BitVec 8 × Nat × Nat × List Byte)) : State :=
  s.forAll rows (fun s r =>
    let n := r.1.toNat
    let m := r.2.1.toNat
    if s.ruleState (n, m) = 2 && (s.rule n m).binding = b && gs.contains (s.rule n m).group then s.writeFar n m r.2.2 else s)

/-- APPLY_WINDOW_CLOSE: the groups whose members have done their part close; new rows from owners on other devices (core, matrix, row,
global segment, packed blocks) are written into their members first, and the lead takes what the other devices report of their members
(group, AUTO, status, epoch; R283). On the lead the window of a group with members on other devices stays open until they have reported
(R177). -/
def State.applyClose (s : State) (b : Nat) (rows : List (BitVec 10 × BitVec 8 × Nat × Nat × List Byte))
    (others : List (BitVec 8 × Bool × Byte × BitVec 48)) : State :=
  let lead := decide ((s.bnd b).lead = s.sys.myDev)
  let reported := fun (g : Nat) => others.any (fun o => o.1.toNat = g)
  let came := fun (p : Nat × Nat) => (rows.filter (fun r => r.1.toNat = p.1 && r.2.1.toNat = p.2)).map (fun r => r.2.2)
  let gs := (s.groupsOf b).filter (fun g =>
    (s.groupRules b g).all (fun p => s.ruleState p = 2 && s.memberDone p && ((s.red p.1 p.2).ovl || s.rowsHere p (came p))) &&
    (!lead || reported g || (s.bnd b).gates.all (fun x => x.1.toNat ≠ g)))
  let s := s.forAll (others.filter (fun o => !(s.groupsOf b).contains o.1.toNat && lead))
    (fun s o => s.applyReport b o.1.toNat o.2.1 o.2.2.1 o.2.2.2.toNat)
  let ended := fun (g : Nat) => lead && !(s.groupsOf b).contains g && reported g
  let s := s.setBnd b { s.bnd b with
    farOpen := (s.bnd b).farOpen.filter (fun x => !ended x.1.toNat)
    gates := (s.bnd b).gates.filter (fun x => !ended x.1.toNat) }
  let open' := fun (s : State) => (s.bnd b).farOpen ≠ [] || (s.bindingRules b).any (fun p =>
    (s.ruleState p = 2 || s.ruleState p = 3) && !(s.rule p.1 p.2).overlap)
  if gs = [] then s.setBnd b { s.bnd b with windowOpen := open' s }
  else
    let s := (s.writeReported b gs rows).forAll gs (fun s g => s.closeGroup b g others)
    s.setBnd b { s.bnd b with windowOpen := open' s }

/-- The rows of an owner's committed chunks. -/
def State.committedRow (s : State) (n m r : Nat) : Bool :=
  r < (s.red n m).committed * (s.rule n m).chunkRows (s.mat n m)

/-- REDUCTION_PARTITIONED (R184, R389): a device of the binding is lost or partitioned from this one, and with it a chunk whose sender or owner
it holds. The chunk's rows are not written; committed rows stay written; STATE becomes PART; the APPLY, or the STEP or RUN of an AUTO rule,
reports PARTITIONED. -/
def State.reductionPartitioned (s : State) (n m chunk : Nat) : State :=
  let rl := s.rule n m
  let b := rl.binding
  let ms := s.members b m rl.group
  let parted := s.sys.lost.any (fun d => (s.bnd b).mask.getLsbD d)
  if s.ruleState (n, m) ≠ 2 || chunk < (s.red n m).committed || !parted then s
  else
    let ps := ms.map (fun c => (c, m))
    let st := worse St.partitioned (ps.foldl (fun a p => worse a (s.red p.1 p.2).status) St.ok)
    let auto := ps.any (fun p => s.reportsAuto p)
    let hand := ps.any (fun p => !s.reportsAuto p)
    let ep := (s.red n m).epoch
    let s := s.forAll ps (fun s p =>
      let done := if (s.red p.1 m).ovl then [] else (s.red p.1 m).staged.filter (fun y => s.committedRow p.1 m y.1)
      let s := s.forAll done (fun s y => s.writeStaged p.1 m y)
      let x := s.red p.1 m
      (s.setRed p.1 m { x with sent := x.committed, status := St.ok }).setRuleState p 3)
    let s := if auto then s.applyReport b rl.group true st ep else s
    if hand then s.applyReport b rl.group false st ep else s

/-! ## Delay learning (R186-R188) -/

/-- The vote on a row's accumulated timing (R186): 1, −1 or 0. -/
def RuleDesc.vote (r : RuleDesc) (t : Int) : Int :=
  let v : Dy := ⟨t, r.dexp - 16⟩
  let th : Dy := ⟨1, r.dthExp⟩
  if !v.le th then 1 else if !(th.neg.le v) then -1 else 0

/-- The number a two-bit vote stands for: 1 is +1, 3 is −1. -/
def voteOf (v : BitVec 2) : Int := if v = 1 then 1 else if v = 3 then -1 else 0
/-- The two-bit form of a vote. -/
def voteBits (v : Int) : BitVec 2 := if v = 1 then 1 else if v = -1 then 3 else 0

/-- Byte address of route unit `u` of core `n` (R202, R334). -/
def routeUnit (n u : Nat) : Nat := Mem.store n 4 + 0x1A000 + u * 8
/-- Route slot word `t` (R202). -/
def State.routeSlot (s : State) (n t : Nat) : Nat := s.leAt (Mem.store n 4 + 0x1A000 + 4 * t) 4
/-- The index word of local neuron `i` of slot `t` (R203): FIRST and COUNT. -/
def State.routeIndex (s : State) (n t i : Nat) : Nat × Nat :=
  let w := s.leAt (routeUnit n (s.routeSlot n t % 2 ^ 17) + 4 * i) 4
  (w % 2 ^ 17, w / 2 ^ 17 % 2 ^ 11)

/-- The units that hold route entries of core `n`: those that index words of its loaded slots name. -/
def State.routeEntries (s : State) (n : Nat) : List Nat :=
  ((s.slotsOf n).filter (fun t => s.routeSlot n t / 2 ^ 31 = 1)).flatMap (fun t =>
    (List.range (s.slotAt n t).nLocal).flatMap (fun i =>
      let x := s.routeIndex n t i
      (List.range x.2).map (fun k => x.1 + k)))

/-- Applies a vote vector to the entries of one core (R187). -/
def State.moveDelays (s : State) (n target m : Nat) (votes : List Int) : State :=
  s.forAll ((s.routeEntries n).foldr insertNat []) (fun s u =>
    let e := s.leAt (routeUnit n u) 8
    let row := e / 2 ^ 18 % 2 ^ 16
    let d : Int := (e / 2 ^ 34 % 64 : Nat)
    let v := votes.getD row 0
    if e / 2 ^ 41 % 2 = 1 ∧ e % 1024 = target ∧ e / 2 ^ 10 % 256 = m ∧ v ≠ 0 ∧ 0 ≤ d + v ∧ d + v ≤ 63 then
      (s.putLe (routeUnit n u) 8 ((e : Int) + v * (2 : Int) ^ 34).toNat).count (Reg.coreLrnDlych n) 1
    else s)

/-- Vote vectors that wait for their step reach the route entries of the cores of the binding, at a boundary (R187, R188, R206). -/
def State.applyVotes (s : State) (b : Nat) : State :=
  let x := s.bnd b
  if x.running then s
  else
    let due := x.votes.filter (fun v => v.1 ≤ x.step.toNat)
    let s := s.setBnd b { x with votes := x.votes.filter (fun v => !(v.1 ≤ x.step.toNat)) }
    s.forAll due (fun s v => s.forAll (List.range 16) (fun s n =>
      if (s.cor n).bound && (s.cor n).binding.toNat = b then s.moveDelays n v.2.1 v.2.2.1 v.2.2.2 else s))

/-- The step from which the delays that a member's votes give are in force (R188): in overlap apply the first that reads every row at the
new version. -/
def State.voteStep (s : State) (n m : Nat) : Nat :=
  let x := s.red n m
  if x.ovl then x.openStep.toNat + (x.rows + x.perStep - 1) / max 1 x.perStep - 1 else 0

/-- The home member's vote vector leaves for every other member (R187, R558), and for each device of the binding that has none: every core of
the binding takes it. -/
def State.sendVotes (s : State) (b n m target due : Nat) (vs : List Int) : State :=
  let g := (s.rule n m).group
  let far := (s.peers b m g).filter (fun p => !s.sys.lost.contains p.dev.toNat)
  let bare := (List.range 64).filter (fun d =>
    (s.bnd b).mask.getLsbD d && d ≠ s.sys.myDev.toNat && !s.sys.lost.contains d && far.all (fun p => p.dev.toNat ≠ d))
  let x : List Xfer := [.votes target due (vs.map voteBits)]
  let s := s.forAll ((s.members b m g).filter (fun o => o ≠ n)) (fun s o => s.carry b n m s.sys.myDev (s.sysOf o) x)
  let s := s.forAll far (fun s p => s.carry b n m p.dev p.core.toNat x)
  s.forAll bare (fun s d => s.carry b n m (BitVec.ofNat 6 d) 1023 x)

/-- DELAY_VOTE: the vote vector for one target core and matrix reaches the cores of the binding. Where the home member of the GROUP is on
this device, it forms the votes once, for every target, from the accumulators of the members here as the window opened and the sums `remote`
of the others (R186); else the vector came with its step `due`. A member with DLEARN_EN 0 has no accumulators (R172) and adds nothing
(DESIGN CHOICE, log entry 70). -/
def State.delayVote (s : State) (b target m g : Nat) (votes : List (BitVec 2)) (remote : List Int) (due : Nat) : State :=
  let ms := s.members b m g
  let home := ms.find? (fun n => (s.rule n m).taccHome && (s.rule n m).dlearn)
  let refuse := ms ≠ [] && (!(ms.any (fun n => s.ruleState (n, m) = 2)) || !(s.voteTargets b m g).contains target ||
    ms.any (fun n => (s.red n m).voted.contains target))
  if !(s.bnd b).valid || refuse then s
  else
    let vs := match home with
      | none => votes.map voteOf
      | some h =>
        if (s.red h m).vote ≠ [] then (s.red h m).vote
        else (List.range (s.mat h m).nrows).map (fun r =>
          (s.rule h m).vote ((ms.map (fun n => (s.red n m).tsums.getD r 0)).sum + remote.getD r 0))
    let due := match home with
      | none => due
      | some h => s.voteStep h m
    let s := match home with
      | none => s
      | some h => (s.setRed h m { s.red h m with vote := vs }).sendVotes b h m target due vs
    let s := s.setBnd b { s.bnd b with votes := (s.bnd b).votes ++ [(due, target, m, vs)] }
    (s.forAll ms (fun s n => s.setRed n m { s.red n m with voted := target :: (s.red n m).voted })).applyVotes b

def execLearningPass (core : BitVec 10) (s : State) : Result := live s fun s => s.learningPass core.toNat
def execApplyWindowOpen (b : BitVec 6) (granted : List (BitVec 8)) (s : State) : Result :=
  live s fun s => s.applyOpen b.toNat granted
def execReductionChunkArrival (core : BitVec 10) (matrix : BitVec 8) (member : BitVec 10) (chunk : BitVec 18)
    (rows : List (Nat × List Byte)) (s : State) : Result :=
  live s fun s => s.chunkArrival core.toNat matrix.toNat member.toNat chunk.toNat rows
def execChunkCommit (core : BitVec 10) (matrix : BitVec 8) (chunk : BitVec 18) (s : State) : Result :=
  live s fun s => s.chunkCommit core.toNat matrix.toNat chunk.toNat
def execDelayVote (b : BitVec 6) (target : BitVec 10) (matrix group : BitVec 8) (votes : List (BitVec 2)) (remote : List Int)
    (due : BitVec 48) (s : State) : Result :=
  live s fun s => s.delayVote b.toNat target.toNat matrix.toNat group.toNat votes remote due.toNat
def execOverlapRowCommit (core : BitVec 10) (matrix : BitVec 8) (rows : List (Nat × Nat × List Byte)) (s : State) : Result :=
  live s fun s => s.overlapCommit core.toNat matrix.toNat rows

end Sys2Proof.Machine
end

