-- ==== Sys2Proof/Machine/Events.lean ====
section
/-! DEFINITION. Machine/Events.lean: the route unit, the device router, credits, bucket rings, staging, drains and held records
(R198-R231), and the phases of a core. -/

namespace Sys2Proof.Machine

/-! ## Pages of the queue (R213, R230) -/

/-- The runs that `n` records of one key take in a ring's pages from byte position `pos` on (R213): 8 bytes of header, 4 a record, a new
header in each page. -/
def addRun : Nat → Nat → Nat → List (Nat × Nat)
  | 0, _, _ => []
  | fuel + 1, pos, n =>
    if n = 0 then []
    else
      let sp := 4096 - pos % 4096
      if sp < 12 then addRun fuel (pos + sp) n
      else
        let k := min n ((sp - 8) / 4)
        (pos, k) :: addRun fuel (pos + 8 + 4 * k) (n - k)

/-- Where the runs of a bucket end. -/
def RingUse.bytes (x : RingUse) : Nat := match x.runs.getLast? with | some r => r.1 + 8 + 4 * r.2 | none => 0

/-- The pages in use, by number: 0 to 2,047 in the queue SRAM, the rest in the spill area: those of the rings and those that inboxes have
been written back to (R213, R219). -/
def State.pagesUsed (s : State) : List Nat := s.rtr.pages.flatMap (fun p => p.2.pages) ++ s.core.cores.flatMap (fun p => p.2.spilled)
/-- The first `n` free pages from number `from'` on: the queue SRAM is used up before the spill area (R213). -/
def State.freePages (s : State) (from' n : Nat) : List Nat :=
  ((List.range (s.pagesUsed.length + n)).map (fun i => from' + i)).filter (fun i => !s.pagesUsed.contains i) |>.take n
/-- Pages in use in the queue SRAM. -/
def State.sramUsed (s : State) : Nat := (s.pagesUsed.filter (· < 2048)).length
/-- Pages in use in the spill area (R213). -/
def State.spillUsed (s : State) : Nat := (s.pagesUsed.filter (2048 ≤ ·)).length
/-- The address of a queue page: in the queue SRAM, or in the spill area of HBM (R356). -/
def pageAddr (p : Nat) : Nat := if p < 2048 then Mem.queue + p * 4096 else Mem.hbm + 0x80000000 + (p - 2048) * 4096

/-- Pages reserved in the spill area (R214). -/
def State.spillReserved (s : State) : Nat := (s.cmd.bindings.map (fun p => p.2.spill)).sum

/-- A use of spill pages raises the peak (R230). -/
def State.spillPeak (s : State) : State := if 0 < s.spillUsed then s.maxReg Reg.fabRtrSpillPeak s.spillUsed else s

/-- Bytes of a queue page are written: whole words lose their error (R346), and HBM counts what lies in the spill area (R362). -/
def State.pageWrite (s : State) (a n : Nat) : State :=
  ({ s with mem := { s.mem with bad := s.mem.bad.filter (fun w => !(decide (a ≤ w * 8) && decide (w * 8 + 8 ≤ a + n))) } }).moved true a n

/-- Puts records of one key into a bucket (R213): the ring grows by a run and takes the pages it needs; SPILLQ and the peak follow
(R230). -/
def State.putRing (s : State) (n k : Nat) (l : List Ev) : State :=
  let x := s.pages n k
  let runs := x.runs ++ addRun (l.length + 4) x.bytes l.length
  let more := s.freePages 0 (((RingUse.mk [] runs).bytes + 4095) / 4096 - x.pages.length)
  let s := (s.setRing n k (s.ring n k ++ l)).setPages n k ⟨x.pages ++ more, runs⟩
  let s := s.forAll (runs.drop x.runs.length) (fun s r => s.pageWrite (pageAddr ((x.pages ++ more).getD (r.1 / 4096) 0) + r.1 % 4096) (8 + 4 * r.2))
  (if more.any (2048 ≤ ·) then s.rsetBit Reg.fabRtrStatus 2 true else s).spillPeak

/-- Records in runs of one key each (R213): matrix, context block and FIXED. -/
def runLengths : List Ev → List Nat
  | [] => []
  | e :: r =>
    match r, runLengths r with
    | f :: _, n :: t =>
      if e.matrix = f.matrix ∧ e.cidx / 8192 = f.cidx / 8192 ∧ e.fixed = f.fixed then (n + 1) :: t else 1 :: n :: t
    | _, t => 1 :: t
/-- The runs of a list of records laid out from the start of a page. -/
def layRuns (l : List Ev) : List (Nat × Nat) :=
  (runLengths l).foldl (fun a n => a ++ addRun (n + 4) (RingUse.mk [] a).bytes n) []
/-- Bytes a list of records takes as runs. -/
def runBytes (l : List Ev) : Nat := (RingUse.mk [] (layRuns l)).bytes

/-- Some records of a bucket have left it: what stays takes its runs anew, and the pages past them return to the free pool (DESIGN
CHOICE, log entry 62). -/
def State.shrinkRing (s : State) (n k : Nat) (l : List Ev) : State :=
  (s.setRing n k l).setPages n k ⟨(s.pages n k).pages.take ((runBytes l + 4095) / 4096), layRuns l⟩

/-! ## Reading a bucket (R216, R220) -/

/-- The records of a bucket by run, and whether a page of the run is uncorrectable where the run lies (R220). -/
def State.runsOf (s : State) (x : RingUse) : List (Nat × Nat) → List Ev → List (List Ev × Bool)
  | [], _ => []
  | r :: t, l =>
    (l.take r.2, s.badRange (pageAddr (x.pages.getD (r.1 / 4096) 0) + r.1 % 4096) (8 + 4 * r.2)) :: State.runsOf s x t (l.drop r.2)

/-- What a drain reads of a bucket: a run in a page that is uncorrectable is discarded and its records counted (R220). -/
def State.drainRuns (s : State) (n k : Nat) : List Ev × State :=
  let b := (s.cor n).binding.toNat
  let rs := s.runsOf (s.pages n k) (s.pages n k).runs (s.ring n k)
  let lost := ((rs.filter (fun r => r.2)).map (fun r => r.1.length)).sum
  ((rs.filter (fun r => !r.2)).flatMap Prod.fst,
    if lost = 0 then s else ((s.count Reg.fabRtrEcc lost).rsetBit Reg.fabRtrStatus 0 true).stepStatus b St.eccFatal)

/-! ## Held records (R28, R217) -/

/-- The remaining delay of a record in bucket `k` for a binding whose next step is `t` (R28). -/
def remaining (t k : Nat) : Nat := (k + 64 - t % 64) % 64

/-- Adds a record to a context's held list. -/
def State.holdRec (s : State) (c core : Nat) (e : Ev) (delay : Nat) : State :=
  let x := s.ctx c
  s.setCtx c { x with held := x.held ++ [⟨BitVec.ofNat 10 core, e.matrix, e.row, e.cnt, delay⟩] }

/-- Re-inserts a context's held records at its resumption (R28, R176): a record with delay k is due in the context's step k. -/
def State.reinsert (s : State) (c : Nat) : State :=
  let x := s.ctx c
  let t := (s.bnd x.binding.toNat).step.toNat
  let s := s.setCtx c { x with held := [] }
  s.forAll x.held (fun s h =>
    s.putRing h.core.toNat ((t + h.delay) % 64) [⟨h.matrix, h.row, x.cidx.toNat, h.cnt, false⟩])

/-- Events of one bucket that are for context index `x` leave it: to the held list with their remaining delay, or discarded and
counted when FIXED (R28, R217). A run that is uncorrectable is discarded as at a drain (R220). -/
def State.takeBucket (s : State) (b c x n k : Nat) : State :=
  let (l, s) := s.drainRuns n k
  let mine := l.filter (fun e => e.cidx = x)
  let rest := l.filter (fun e => e.cidx ≠ x)
  let s := if rest.length = (s.ring n k).length then s else s.shrinkRing n k rest
  let d := remaining (s.bnd b).step.toNat k
  s.forAll mine (fun s e => if e.fixed then s.count (Reg.cmdStepParkdrop b) 1 else s.holdRec c n e d)

/-- Every pending event of a context leaves the rings of its binding (R28, R176). -/
def State.pullEvents (s : State) (b c : Nat) : State :=
  let x := (s.ctx c).cidx.toNat
  s.forAll ((List.range 16).filter (fun n => (s.cor n).bound && (s.cor n).binding.toNat = b)) (fun s n =>
    s.forAll (List.range 64) (fun s j => s.takeBucket b c x n j))

/-- The gates of a binding are judged anew (R176): a context that enters the gate takes its pending events with it, as at PARK; one
that leaves it resumes as at UNPARK. -/
def State.regate (s : State) (b : Nat) : State :=
  s.forAll (s.ctxsOf b) (fun s p =>
    let was := p.2.gated
    let now := s.mustGate p.2
    let s := s.setCtx p.1 { s.ctx p.1 with gated := now }
    if now && !was then s.pullEvents b p.1 else if was && !now && p.2.res ≠ 2 then s.reinsert p.1 else s)

/-- Withholds one record at a drain (R217): a record that is not FIXED goes to the held list with delay 0, a FIXED one is
discarded and counted. -/
def State.withhold (s : State) (b n : Nat) (e : Ev) (delay : Nat) : State :=
  if e.fixed then s.count (Reg.cmdStepParkdrop b) 1
  else match s.ctxByIdx b e.cidx with
    | some p => s.holdRec p.1 n e delay
    | none => s

/-- Whether a record's context is parked or gated (R217). -/
def State.withheld (s : State) (b : Nat) (e : Ev) : Bool :=
  match s.ctxByIdx b e.cidx with
  | some p => p.2.res = 2 || p.2.gated
  | none => false

/-! ## A core's START (R32, R33, R216) -/

/-- The inbox of a core spills what its event area does not hold (R219): to pages of the spill reservation, until its windows have been
sorted. The bytes written back are those of the drain that exceed the event area, where R219 writes back each bin that finds it full (DESIGN
CHOICE, log entry 70). -/
def State.inboxSpill (s : State) (n bytes : Nat) : State :=
  if bytes ≤ 3080192 then s
  else
    let s := (s.count (Reg.coreInbSpill n) (bytes - 3080192)).rsetBit (Reg.coreRteStatus n) 2 true
    let s := (s.setCor n { s.cor n with spilled := s.freePages 2048 ((bytes - 3080192 + 4095) / 4096) }).spillPeak
    s.forAll (s.cor n).spilled (fun s p => s.pageWrite (pageAddr p) 4096)

/-- STEP_START: the core receives START of the running step: bucket t mod 64 begins to drain into its inbox, and its pages return to the
free pool (R216); records of parked or gated contexts are withheld (R217), records with CNT 0 counted (R199); the spill of R219 is
counted. Phase 1 runs at once unless it waits for a berth or for rows of an overlap apply (R117, R122, R190): how long it then waits is a free value of CORE_SYN_BERTHWAIT (R117, log entry
61). A frozen core's bucket drains as well and its records go no further: it
counts as done in every step (R210, R216). -/
def State.stepStart (s : State) (n : Nat) : State :=
  let c := s.cor n
  let b := c.binding.toNat
  let bd := s.bnd b
  if !c.bound || !bd.running || c.phase ≠ .idle || !s.corePresent n then s
  else
    let k := bd.step.toNat % 64
    let (evs, s) := s.drainRuns n k
    let s := (s.setRing n k []).setPages n k RingUse.empty
    let s := { s with rtr := { s.rtr with draining := insertNat n s.rtr.draining } }
    let hold := evs.filter (fun e => s.withheld b e)
    let go := evs.filter (fun e => !s.withheld b e)
    let ok := go.filter (fun e => e.cnt ≠ 0)
    let s := s.forAll hold (fun s e => s.withhold b n e 0)
    let s := s.count (Reg.coreInbBadrec n) (go.length - ok.length)
    let s := s.maxReg (Reg.coreInbPeak n) (min (runBytes go) 3080192)
    let s := s.inboxSpill n (runBytes go)
    if c.frozen then s.setCor n { s.cor n with phase := .done, inbox := [] } else
    let s := s.setCor n { s.cor n with
      phase := .integrate, inbox := ok, windows := [], acc := [], adds := [], fired := [], firing := [], slot := 0, pos := 0 }
    let s := if c.berthsWait bd.step.toNat then s.countFree (Reg.coreSynBerthwait n) else s
    s.phase1Try n

/-! ## Route expansion (R207, R208, R220) -/

/-- A record word (R198). -/
def recordWord (row cidx n : Nat) : Word := BitVec.ofNat 32 (row * 65536 + cidx % 8192 * 8 + n % 8)

/-- Whether a packet is open for a key (R207). -/
def packetHasKey (p : Packet) (dst matrix delay base : Nat) (fixed : Bool) : Bool :=
  p.dstCore = dst && p.matrix.toNat = matrix && p.delay.toNat = delay && p.ctxBase.toNat = base && p.fixed = fixed

/-- The replica slot of a target (R209): none is occupied. -/
def State.replica (s : State) (dst : Nat) : Option Packet := (s.rtr.replicas.find? (fun p => p.1 = dst)).map Prod.snd
def State.setReplica (s : State) (p : Packet) : State :=
  { s with rtr := { s.rtr with replicas := Tab.set (fun _ => ⟨0, 0, 0, 0, 0, false, 0, []⟩) s.rtr.replicas p.dstCore p } }

/-- Whether a closed packet of core `n` finds its replica slot or a holding buffer free (R208). -/
def State.mayClose (s : State) (n : Nat) (p : Packet) : Bool := (s.replica p.dstCore).isNone || decide ((s.cor n).holding.length < 8)

/-- A closed packet passes to its replica slot when that is free, else to a holding buffer (R208); in the slot it counts as
outstanding for its binding (R211). -/
def State.closePacket (s : State) (n : Nat) (p : Packet) : State :=
  match s.replica p.dstCore with
  | none =>
    let b := (s.cor n).binding.toNat
    (s.setReplica p).setBnd b { s.bnd b with outPkts := (s.bnd b).outPkts + 1 }
  | some _ => s.setCor n { s.cor n with holding := (s.cor n).holding ++ [p] }

/-- Adds one replica to the assembler of core `n` (R208). -/
def State.addReplica (s : State) (n dst matrix delay cidx row cnt : Nat) (fixed : Bool) : State :=
  let c := s.cor n
  let base := cidx / 8192 * 8192
  let w := recordWord row cidx cnt
  let fresh : Packet := ⟨dst, s.sysOf n, BitVec.ofNat 6 delay, BitVec.ofNat 18 base, BitVec.ofNat 8 matrix, fixed,
    BitVec.ofNat 20 (s.bnd c.binding.toNat).step.toNat, [w]⟩
  match c.openPkts.find? (fun p => packetHasKey p dst matrix delay base fixed) with
  | some p =>
    let q := { p with records := p.records ++ [w] }
    if 2048 ≤ q.records.length then
      (s.setCor n { c with openPkts := c.openPkts.filter (fun x => !packetHasKey x dst matrix delay base fixed) }).closePacket n q
    else s.setCor n { c with openPkts := c.openPkts.map (fun x => if packetHasKey x dst matrix delay base fixed then q else x) }
  | none =>
    if 16 ≤ c.openPkts.length then
      match c.openPkts with
      | [] => s
      | old :: rest => (s.setCor n { c with openPkts := rest ++ [fresh] }).closePacket n old
    else s.setCor n { c with openPkts := c.openPkts ++ [fresh] }

/-- Flags of an uncorrectable route entry or index word (R220). -/
def State.routeEcc (s : State) (n : Nat) : State :=
  ((s.rsetBit (Reg.coreRteStatus n) 5 true).raiseCore n).stepStatus (s.cor n).binding.toNat St.eccFatal

/-- One route entry at unit `u` for a firing instance (R204, R207). -/
def State.expandEntry (s : State) (n : Nat) (f : Firing) (u : Nat) : State :=
  let (s, o) := (s.unitActs 2 3 1).longWrap (Reg.coreRteEntLo n) 1
  let s := if o then (s.rsetBit (Reg.coreRteStatus n) 1 true).raiseCore n else s
  if s.badRange (routeUnit n u) 8 then s.routeEcc n
  else
    let e := s.leAt (routeUnit n u) 8
    let fixed := e / 2 ^ 40 % 2 = 1
    s.addReplica n (e % 1024) (e / 2 ^ 10 % 256) (e / 2 ^ 34 % 64) (if fixed then e / 2 ^ 46 else f.cidx.toNat)
      (e / 2 ^ 18 % 65536) f.n fixed

/-- Closes the open packets of a core, as far as there is room for them (R208). -/
def State.closeAll (s : State) (n : Nat) : State :=
  s.forAll (s.cor n).openPkts (fun s p =>
    if s.mayClose n p then (s.setCor n { s.cor n with openPkts := (s.cor n).openPkts.erase p }).closePacket n p else s)

/-- The route unit stalls while packets that must close find all eight holding buffers full (R208). -/
def State.stallOpen (s : State) (n : Nat) : State := if (s.cor n).openPkts = [] then s else s.countFree (Reg.coreRteStall n)

/-- Entries of a firing instance are issued in order, until all eight holding buffers are full (R208). -/
def State.expandFrom (n : Nat) (f : Firing) : List Nat → State → State
  | [], s => s
  | u :: r, s =>
    if 8 ≤ (s.cor n).holding.length then s
    else
      let s := s.expandEntry n f u
      State.expandFrom n f r (s.setCor n { s.cor n with entry := (s.cor n).entry + 1 })

/-- The units of a firing instance's entries (R203); none of a slot without routes or where the index word is uncorrectable (R220). -/
def State.entryUnits (s : State) (n : Nat) (f : Firing) : List Nat :=
  let x := s.routeIndex n f.slot f.idx
  if s.routeSlot n f.slot / 2 ^ 31 = 0 ∨ s.badRange (routeUnit n (s.routeSlot n f.slot % 2 ^ 17) + 4 * f.idx) 4 then []
  else (List.range x.2).map (fun k => x.1 + k)

/-- ROUTE_EXPANSION: the next firing instance's entries are issued, its taps ahead of them; after the last of the step every open packet
closes. While all eight holding buffers are full (R208), or the tap buffer has no room (R246), the route unit stalls, which
CORE_RTE_STALL counts; the instance's entries that are left follow when it goes on. -/
def State.routeExpand (s : State) (n : Nat) : State :=
  let c := s.cor n
  match c.fired with
  | [] => s
  | f :: rest =>
    let taps := if c.entry = 0 then s.tapsOf c.binding.toNat (s.sysOf n) f else []
    if c.frozen then s
    else if 8 ≤ c.holding.length || 16384 < s.cnv.taps.length + taps.length then s.countFree (Reg.coreRteStall n)
    else
      let s := { s with cnv := { s.cnv with taps := s.cnv.taps ++ taps } }
      let s :=
        if s.routeSlot n f.slot / 2 ^ 31 = 0 then s
        else if s.badRange (routeUnit n (s.routeSlot n f.slot % 2 ^ 17) + 4 * f.idx) 4 then s.routeEcc n else s
      let us := s.entryUnits n f
      let s := State.expandFrom n f (us.drop c.entry) s
      if (s.cor n).entry < us.length then s.countFree (Reg.coreRteStall n)
      else
        let s := s.setCor n { s.cor n with fired := rest, entry := 0 }
        if rest = [] ∧ (s.cor n).phase = .emit then (s.closeAll n).stallOpen n else s

/-- The record of what held last on a binding for R225. -/
def State.heldLast (s : State) (b cond dev core : Nat) : State :=
  s.setBnd b { s.bnd b with lastHeld := BitVec.ofNat 32 (cond * 2 ^ 30 + dev % 64 * 2 ^ 16 + core % 1024) }

/-- CORE_DONE: every firing expanded, every tap accepted (R246), every encode of the core's channels done (R244) and every packet
passed to a replica slot ends phase 3 (R208). -/
def State.coreDone (s : State) (n : Nat) : State :=
  let c := s.cor n
  if c.phase ≠ .emit ∨ c.fired ≠ [] ∨ s.tapsLeft (s.sysOf n) ∨ s.encodesLeft n (s.sysOf n) then s
  else
    let s := s.closeAll n
    if (s.cor n).holding ≠ [] ∨ (s.cor n).openPkts ≠ [] then s.stallOpen n
    else
      let s := s.setCor n { s.cor n with phase := .done }
      (s.rsetBit (Reg.coreRteStatus n) 0 false).heldLast c.binding.toNat 0 0 (s.sysOf n)

/-! ## Sending and accepting (R209-R215) -/

/-- The credits a target grants each device (R209). -/
def State.creditShare (s : State) : Nat := if s.ptbIngress then 1 else max 1 (64 / max 1 s.sys.nDevs)
def State.creditsUsed (s : State) (dst : Nat) : Nat := Tab.get (fun _ => 0) s.rtr.credits dst
def State.setCredits (s : State) (dst v : Nat) : State :=
  { s with rtr := { s.rtr with credits := Tab.set (fun _ => 0) s.rtr.credits dst v } }

/-- Empties a replica slot and lets the first holding buffer with a packet for it move in (R208). -/
def State.freeReplica (s : State) (dst : Nat) : State :=
  let s := { s with rtr := { s.rtr with replicas := s.rtr.replicas.filter (fun p => p.1 ≠ dst) } }
  match (List.range 16).find? (fun n => (s.cor n).holding.any (fun p => p.dstCore = dst)) with
  | none => s
  | some n =>
    match (s.cor n).holding.find? (fun p => p.dstCore = dst) with
    | none => s
    | some p => (s.setCor n { s.cor n with holding := (s.cor n).holding.erase p }).closePacket n p

/-- One packet of a binding is no longer outstanding (R211). -/
def State.oneAccepted (s : State) (b core : Nat) : State :=
  let s := s.setBnd b { s.bnd b with outPkts := (s.bnd b).outPkts - 1 }
  if (s.bnd b).outPkts = 0 then s.heldLast b 1 0 core else s

/-- The fabric packet of an event packet (R369, R370): its cores, delay and step, FIXED, and CTXBASE and MATRIX in word 1. -/
def State.eventPkt (s : State) (p : Packet) : FabPkt :=
  { s.mkPkt (s.sysCore p.dstCore).dev.toNat 1 1 0 (BitVec.ofNat 26 (p.ctxBase.toNat * 2 ^ 8 + p.matrix.toNat)) 0 p.records with
    dstCore := BitVec.ofNat 10 p.dstCore, srcCore := BitVec.ofNat 10 p.srcCore, delay := p.delay, fixed := p.fixed, step := p.step }

/-- PACKET_SEND: the packet in the replica slot of a target leaves it (R209) after the checks of R210; without a credit it waits. -/
def State.packetSend (s : State) (dst : Nat) : State :=
  match s.replica dst with
  | none => s
  | some p =>
    let n := (s.localOf p.srcCore).getD 0
    let b := (s.cor n).binding.toNat
    if !s.sysPresent dst then
      let s := (s.count (Reg.coreRteAbsent n) p.records.length).rset (Reg.coreRteAbsinfo n)
        (BitVec.ofNat 32 (p.matrix.toNat * 1024 + dst))
      let s := (s.rsetBit (Reg.coreRteStatus n) 3 true).stepStatus b St.coreAbsent
      (s.oneAccepted b p.srcCore).freeReplica dst
    else if s.foreignCore b dst then
      let s := ((s.count (Reg.coreRteViol n) p.records.length).rsetBit (Reg.coreRteStatus n) 4 true).raiseCore n
      ((s.freezeCore n p.srcCore).oneAccepted b p.srcCore).freeReplica dst
    else if s.creditShare ≤ s.creditsUsed dst then s.countFree Reg.fabRtrCreditWait
    else
      let s := (s.setCredits dst (s.creditsUsed dst + 1)).freeReplica dst
      let s := { s with rtr := { s.rtr with inFlight := s.rtr.inFlight ++ [p] } }
      if (s.localOf dst).isSome then s else (s.send (.packet p)).toFabric (s.eventPkt p)

/-- The step a packet was emitted in (R201): congruent to STEP modulo 2^20, within 2^19 of the current step. -/
def emittedStep (cur stp : Nat) : Nat :=
  let d := (stp + 2 ^ 20 - cur % 2 ^ 20) % 2 ^ 20
  if d < 2 ^ 19 then cur + d else cur + d - 2 ^ 20

/-- The events of a packet (R198, R200). -/
def packetEvents (p : Packet) : List Ev :=
  p.records.map (fun w => ⟨p.matrix, BitVec.ofNat 16 (fieldOf w 16 16), p.ctxBase.toNat + fieldOf w 3 13,
    BitVec.ofNat 3 (fieldOf w 0 3), p.fixed⟩)

/-- The bucket a packet's records belong to (R201, R213). -/
def State.packetBucket (s : State) (n : Nat) (p : Packet) : Nat :=
  (emittedStep (s.bnd (s.cor n).binding.toNat).step.toNat p.step.toNat + 1 + p.delay.toNat) % 64
/-- Records a core's staging slot holds (R215). -/
def State.staged (s : State) (n : Nat) : List (Nat × Ev) := Tab.get (fun _ => []) s.rtr.staging n

/-- Stores a packet's records at the target core: in its ring, or in the staging slot while the bucket drains, as many as fit (R211,
R213, R215). Answers how many were stored. -/
def State.storePacket (s : State) (n : Nat) (p : Packet) : State × Nat :=
  let k := s.packetBucket n p
  if n ∈ s.rtr.draining ∧ k = (s.bnd (s.cor n).binding.toNat).step.toNat % 64 then
    let st := s.staged n ++ ((packetEvents p).take (2048 - (s.staged n).length)).map (fun e => (k, e))
    let m := st.length - (s.staged n).length
    let s := { s with rtr := { s.rtr with staging := Tab.set (fun _ => []) s.rtr.staging n st } }
    (if st.length = 2048 then s.rsetBit Reg.fabRtrStatus 1 true else s, m)
  else (s.putRing n k (packetEvents p), p.records.length)

/-- The credit of an accepted packet returns, by the acknowledgement on VC0 where the packet is another device's (R209, R211). -/
def State.creditBack (s : State) (src : BitVec 6) (dst : Nat) : State :=
  if src = s.sys.myDev then s.setCredits dst (s.creditsUsed dst - 1)
  else s.toDevice src.toNat 2 0 (.accept src (BitVec.ofNat 10 dst))

/-- Every record of a packet has been stored: a packet of this device is no longer outstanding. While the staging slot is full the
credit is withheld, and with it the acknowledgement (R215). -/
def State.acceptPacket (s : State) (src : BitVec 6) (n : Nat) (p : Packet) : State :=
  let s := if src = s.sys.myDev then
      ({ s with rtr := { s.rtr with inFlight := s.rtr.inFlight.erase p } }).oneAccepted
        (s.cor ((s.localOf p.srcCore).getD 0)).binding.toNat p.srcCore
    else s
  if 2048 ≤ (s.staged n).length then { s with rtr := { s.rtr with owed := s.rtr.owed ++ [(n, src)] } }
  else s.creditBack src p.dstCore

/-- EVENT_PACKET_ACCEPT: the router of the target core writes the packet's records (R211). A packet of this device must be in
flight. What the staging slot has no room for stays in the packet's ingress buffer until the drain ends. A record in the staging slot is
accepted when it is stored there (R211, R215), although R33 says that it is accepted only when the drain is complete (DESIGN CHOICE, log
entry 64). -/
def State.packetAccept (s : State) (src : BitVec 6) (p : Packet) : State :=
  match s.localOf p.dstCore with
  | none => s
  | some n =>
    let own := src = s.sys.myDev
    if own ∧ (!s.rtr.inFlight.contains p ∨ s.rtr.ingress.any (fun x => x.1 = src && x.2.1 = p)) then s
    else if !own ∧ (p.records = [] ∨ 2048 < p.records.length) then s
    else
      let (s, m) := s.storePacket n p
      if m < p.records.length then { s with rtr := { s.rtr with ingress := s.rtr.ingress ++ [(src, p, m)] } }
      else s.acceptPacket src n p

/-- STAGING_JOIN (R215): the drain of the core's bucket ends, what its staging slot holds joins the bucket, the withheld credits return,
and packets in its ingress buffers are stored. CORE_INB_DRAIN takes the drain's length and FAB_RTR_STAGE_WAIT counts the time that credits
were withheld: free values (log entry 61). -/
def State.stagingJoin (s : State) (n : Nat) : State :=
  if n ∉ s.rtr.draining then s
  else
    let st := s.staged n
    let s := s.draw.2.rset (Reg.coreInbDrain n) s.draw.1
    let s := if st.length = 2048 then s.countFree Reg.fabRtrStageWait else s
    let mine := fun (x : BitVec 6 × Packet × Nat) => s.localOf x.2.1.dstCore = some n
    let wait := s.rtr.ingress.filter mine
    let back := s.rtr.owed.filter (fun x => x.1 = n)
    let s := { s with rtr := { s.rtr with
      draining := s.rtr.draining.filter (· ≠ n), staging := Tab.set (fun _ => []) s.rtr.staging n []
      owed := s.rtr.owed.filter (fun x => x.1 ≠ n), ingress := s.rtr.ingress.filter (fun x => !mine x) } }
    let s := s.forAll st (fun s p => s.putRing n p.1 [p.2])
    let s := s.forAll back (fun s x => s.creditBack x.2 (s.sysOf n))
    s.forAll wait (fun s x =>
      (s.putRing n (s.packetBucket n x.2.1) ((packetEvents x.2.1).drop x.2.2)).acceptPacket x.1 n x.2.1)

/-- ACCEPT_ACK_ARRIVAL: the acknowledgement of the oldest packet of the binding in flight to a core of another device returns its
credit and lowers the count (R209, R211). -/
def State.acceptAck (s : State) (b dst : Nat) : State :=
  if (s.localOf dst).isSome then s
  else
    match s.rtr.inFlight.find? (fun p => p.dstCore = dst && (s.cor ((s.localOf p.srcCore).getD 0)).binding.toNat = b) with
    | none => s
    | some p =>
      let s := { s with rtr := { s.rtr with inFlight := s.rtr.inFlight.erase p } }
      (s.setCredits dst (s.creditsUsed dst - 1)).oneAccepted b p.srcCore

def execStepStart (core : BitVec 10) (s : State) : Result := live s fun s => s.stepStart core.toNat
def execCoreDone (core : BitVec 10) (s : State) : Result := live s fun s => s.coreDone core.toNat
def execRouteExpansion (core : BitVec 10) (s : State) : Result := live s fun s => s.routeExpand core.toNat
def execPacketSend (dst : BitVec 10) (s : State) : Result := live s fun s => s.packetSend dst.toNat
def execEventPacketAccept (src : BitVec 6) (p : Packet) (s : State) : Result := live s fun s => s.packetAccept src p
def execStagingJoin (core : BitVec 10) (s : State) : Result := live s fun s => s.stagingJoin core.toNat
def execAcceptAckArrival (b : BitVec 6) (dst : BitVec 10) (s : State) : Result :=
  live s fun s => s.acceptAck b.toNat dst.toNat

end Sys2Proof.Machine
end

