-- ==== Sys2Proof/Machine/MemoryUnits.lean ====
section
/-! DEFINITION. Machine/MemoryUnits.lean: slice banks, alias windows, the vault, ECC reports, scrub and HBM (R333-R362). -/

namespace Sys2Proof.Machine

/-! ## Where an address lies -/

/-- Bytes of the stores of a core (R333): synapse, state, delta, inbox, program and route. -/
def storeBytes (k : Nat) : Nat := [0x3000000, 0xC00000, 0x800000, 0x300000, 0x100000].getD k 0
/-- Bytes of HBM (R354). -/
def hbmBytes : Nat := 0x2400000000

/-- The bank of a slice that holds a byte offset (R336): mode P or mode U. -/
def State.bankOf (s : State) (k off : Nat) : Nat :=
  if k < 28 ∧ s.rfield (Reg.slcCfg k) 0 2 = 1 then off / 128 % 4 else off / 0x200000 % 4

/-! ## Reports of errors (R346, R360, R362) -/

/-- A slice word was found uncorrectable. -/
def State.sliceUE (s : State) (k off : Nat) : State :=
  let s := (s.count (Reg.slcEccUe k) 1).rsetBit (Reg.slcStatus k) 1 true
  (s.rset (Reg.slcEccAddr k) (BitVec.ofNat 32 (2 ^ 31 + off % 2 ^ 23 / 8 * 8))).raiseSlice k

/-- An HBM word was found uncorrectable. -/
def State.hbmUE (s : State) (a : Nat) : State :=
  let h := hbmStack a
  let s := (s.count (Reg.hbmEccUe h) 1).rsetBit (Reg.hbmStat h) 1 true
  let lo := a / 8 * 8
  let s := s.rset (Reg.hbmEccAddrLo h) (BitVec.ofNat 32 lo)
  let s := s.setLive (Reg.hbmEccAddrLo h) (BitVec.ofNat 32 (2 ^ 31 + a / 2 ^ 32 % 64))
  s.raise (21 + h)

/-- The report of one uncorrectable word, by where it lies: a slice, HBM, or a core store, which only raises its core. The queue SRAM
has no report of its own: the router reports the run it discards (R220). -/
def State.wordUE (s : State) (a : Nat) : State :=
  let r := a / 2 ^ 48
  if r = 0x800 then s.hbmUE (a % 2 ^ 38)
  else if r = 0x801 then s
  else if 0x400 ≤ r then s.sliceUE (r - 0x400) (a % 2 ^ 23)
  else s.raiseCore ((r - 0x100) / 8)

/-- Every uncorrectable word of a range that is read is reported. -/
def State.reportUE (s : State) (a n : Nat) : State :=
  s.forAll (s.mem.bad.filter (fun w => decide (a < w * 8 + 8) && decide (w * 8 < a + n))) (fun s w => s.wordUE (w * 8))

/-- A correctable word was read (R346): corrected, counted and flagged where the store has registers for it; a word of an on-chip store
is remembered for R482. -/
def State.wordCE (s : State) (a : Nat) : State :=
  let r := a / 2 ^ 48
  let s := if r = 0x800 ∨ s.mem.worn.contains (a / 8) then s else { s with mem := { s.mem with worn := s.mem.worn ++ [a / 8] } }
  if r = 0x800 then
    (s.count (Reg.hbmEccCe (hbmStack (a % 2 ^ 38))) 1).rsetBit (Reg.hbmStat (hbmStack (a % 2 ^ 38))) 0 true
  else if r = 0x801 then s
  else if 0x400 ≤ r then (s.count (Reg.slcEccCe (r - 0x400)) 1).rsetBit (Reg.slcStatus (r - 0x400)) 0 true
  else s

/-! ## Bank cycles (R337-R345) -/

/-- Whether a word of a slice lies in the vault (R344). -/
def inVault (k word : Nat) : Bool := k = 31 && 0x700000 ≤ word * 8 && word * 8 ≤ 0x7FFFFF

/-- The 64-bit word at an address. -/
def State.word64 (s : State) (a : Nat) : Word64 := BitVec.ofNat 64 (s.leAt a 8)

/-- The bits of a 64-bit word that byte enables select. -/
def maskBits (m : BitVec 8) : Word64 :=
  BitVec.ofNat 64 (leNat ((List.range 8).map (fun i => if m.getLsbD i then (255 : Byte) else 0)))

/-- What a write leaves of a word (R341, R342): code 0 writes the enabled bytes, 1 sets bits, 2 clears bits. -/
def writeWord (old : Word64) (r : SliceReq) : Word64 :=
  if r.code = 1 then old ||| r.data
  else if r.code = 2 then old &&& ~~~r.data
  else (old &&& ~~~(maskBits r.mask)) ||| (r.data &&& maskBits r.mask)

/-- The 64-bit word at a word address of SLICE[29] or SLICE[30]: part of a context descriptor (R25, R26). -/
def State.descWord (s : State) (k word : Nat) : Word64 :=
  let w := (s.ctx ((k - 29) * 131072 + word / 8)).words
  BitVec.ofNat 64 ((w.getD (word % 8 * 2) 0).toNat + (w.getD (word % 8 * 2 + 1) 0).toNat * 2 ^ 32)

/-- What a group reads at a word: a descriptor in SLICE[29] and SLICE[30]; in SLICE[28] and in SLICE[31] below the vault, whose
layout is Keeper's, a free value (R25; DESIGN CHOICE, log entry 59); the stored word elsewhere. -/
def State.bankOld (s : State) (k word : Nat) : Word64 × State :=
  if k = 29 ∨ k = 30 then (s.descWord k word, s)
  else if k = 28 ∨ (k = 31 ∧ !inVault k word) then (BitVec.append s.draw.1 s.draw.2.draw.1, s.draw.2.draw.2)
  else
    let (l, s) := s.readInsts (Mem.slice k + word * 8) (s.bytes (Mem.slice k + word * 8) 8)
    (BitVec.ofNat 64 (leNat l), s)

/-- One read of a group (R339): the value before the group, `old`, with `bad` where the word is uncorrectable. -/
def State.bankRead (s : State) (k word : Nat) (old : Word64) (bad : Bool) (r : SliceReq) : State :=
  if bad then (s.sliceUE k (word * 8)).send (.sliceReply r.port St.eccFatal 0)
  else s.send (.sliceReply r.port St.ok old)

/-- One write of a group at its place in the order (R339, R341, R342, R346). A partial or an alias write to a word in error is
not applied. An alias write returns the value before it, as a read gives it. A write to a descriptor is none of the commands that write them (R26). -/
def State.bankWrite (s : State) (k word : Nat) (r : SliceReq) : State :=
  let a := Mem.slice k + word * 8
  if k = 29 ∨ k = 30 then s.send (.sliceReply r.port St.badOperand 0)
  else if s.badRange a 8 ∧ (r.code ≠ 0 ∨ r.mask ≠ 0xFF) then (s.sliceUE k (word * 8)).send (.sliceReply r.port St.eccFatal 0)
  else
    let (old, t) := if r.code = 0 then (0, s) else s.bankOld k word
    ((t.putLe a 8 (writeWord (s.word64 a) r).toNat).writeInsts a 8).send (.sliceReply r.port St.ok old)

/-- A write that maintenance mode loses (R339, R360). -/
def State.bankLose (s : State) (k : Nat) (r : SliceReq) : State :=
  let s := ((s.count (Reg.slcWlost k) 1).rsetBit (Reg.slcStatus k) 2 true).raiseSlice k
  s.send (.sliceReply r.port St.writeLost 0)

/-- A request the vault refuses (R344). -/
def State.vaultRefuse (s : State) (r : SliceReq) : State :=
  ((s.rsetBit (Reg.slcStatus 31) 3 true).raiseSlice 31).send (.sliceReply r.port St.notBound 0)

/-- The units that the ports of the Armature belong to (R348). -/
inductive ArmUnit where
  | core (p : Nat) | slice (p : Nat) | hbm (h : Nat) | router | command | converter | sync | management
deriving DecidableEq, Repr

/-- The unit of a port: port numbers are fixed by physical unit (R348). -/
def portUnit (p : Nat) : Option ArmUnit :=
  if p < 36 then some (.core (p / 2))
  else if p < 70 then some (.slice (p - 36))
  else if p < 102 then some (.hbm ((p - 70) / 8))
  else if p < 110 then some .router
  else if p = 110 then some .command
  else if p = 111 then some .converter
  else if p = 112 then some .sync
  else if p = 113 then some .management
  else none

/-- Whether a port issues a request (R342, R343): ALIAS 1 and 2 come from the router, the sync and queue unit and Keeper alone. -/
def mayIssue (r : SliceReq) : Bool :=
  (portUnit r.port.toNat).isSome && r.code ≠ 3 &&
  (r.code = 0 || portUnit r.port.toNat = some .router || portUnit r.port.toNat = some .sync || portUnit r.port.toNat = some .management)

/-- Requests in rotating-priority order from pointer `p` (R338); those of one port keep their arrival order (R337). -/
def rotated (p : Nat) (l : List SliceReq) : List SliceReq :=
  (List.range 114).flatMap (fun i => l.filter (fun r => r.port.toNat = (p + i) % 114))

/-- The requests of one port to one word that one bank cycle serves: as reads return the value before the group (R339), a read that follows
a write of its own port waits for the next cycle, so that the two are performed in arrival order (R337; DESIGN CHOICE, log entry 70). -/
def inOneCycle (l : List SliceReq) : List SliceReq :=
  l.takeWhile (fun r => !r.write) ++ (l.dropWhile (fun r => !r.write)).takeWhile (fun r => r.write)
/-- The group of a word (R339) among waiting requests, in rotating-priority order from pointer `p`. -/
def groupOf (p : Nat) (word : BitVec 20) (l : List SliceReq) : List SliceReq :=
  (List.range 114).flatMap (fun i => inOneCycle (l.filter (fun r => r.word = word && r.port.toNat = (p + i) % 114)))

/-- The requests that wait in a slice's queue. -/
def State.requests (s : State) (k : Nat) : List SliceReq := Tab.get (fun _ => []) s.mem.requests k
def State.setRequests (s : State) (k : Nat) (l : List SliceReq) : State :=
  { s with mem := { s.mem with requests := Tab.set (fun _ => []) s.mem.requests k l } }

/-- What the requests of a bank cycle waited, for the busy bank and for their ports' grants, counts in SLC_CONFL and XBR_PORT_WAIT: free
values (R360, R361; log entry 61). -/
def State.countPortWaits (s : State) (k : Nat) (l : List SliceReq) : State :=
  s.forAll l (fun s r => (s.countFree (Reg.slcConfl k)).countFree (Reg.xbrPortWait r.port.toNat))

/-- A request whose outcome depends on what the word held: a read, a partial write or an alias write (R341, R342). -/
def needsOld (r : SliceReq) : Bool := !r.write || r.code ≠ 0 || r.mask ≠ 0xFF

/-- A bank serves a group of requests to one word, in rotating-priority order (R339, R344). With `ce` the bank reads the word with a
correctable error, which counts where it reads it (R346). -/
def State.bankServe (s : State) (k word : Nat) (ce : Bool) (l : List SliceReq) : State :=
  let ok := l.filter (fun r => !inVault k word || (r.port = 113 && r.vault))
  let s := s.forAll (l.filter (fun r => inVault k word && !(r.port = 113 && r.vault))) State.vaultRefuse
  let a := Mem.slice k + word * 8
  let bad := s.badRange a 8
  let s := if ce && !bad && ok.any needsOld then s.wordCE a else s
  let (old, s) := s.bankOld k word
  let s := s.forAll (ok.filter (fun r => !r.write)) (fun s r => s.bankRead k word old bad r)
  let ws := ok.filter (fun r => r.write)
  if s.rbit (Reg.slcCfg k) 8 then
    let low := (ws.map (fun r => r.port.toNat)).foldl min 113
    match ws.find? (fun r => r.port.toNat = low) with
    | none => s
    | some w => (s.bankWrite k word w).forAll (ws.erase w) (fun s r => s.bankLose k r)
  else s.forAll ws (fun s r => s.bankWrite k word r)

/-- SLICE_BANK_CYCLE: requests that have come join the slice's queue while it holds fewer than 16; the others stay at their ports (R337). The bank
chooses one of those that wait for it by rotating priority, moves its pointer past the port chosen (R338), and serves the choice with the other
requests to its word (R339). A vault access waits while a wipe runs (R345). Under PTB_ARB the favoured port comes first in DUTY of 16 XCLK; which
of them this is, is a free value (R535). -/
def State.bankCycle (s : State) (k bank : Nat) (ce : Bool) (reqs : List SliceReq) : State :=
  let s := s.setRequests k ((s.requests k ++ reqs.filter mayIssue).take 16)
  let key := k * 4 + bank
  let p := Tab.get (fun _ => 0) s.mem.pointers key
  let (p, s) := match s.ptbArb with
    | some q => if s.draw.1 % 16 < BitVec.ofNat 32 (s.rfield Reg.ptbArb 8 4) then (q, s.draw.2) else (p, s.draw.2)
    | none => (p, s)
  let mine := (s.requests k).filter (fun r => s.bankOf k (r.word.toNat * 8) = bank && !(inVault k r.word.toNat && s.mem.wiping))
  match rotated p mine with
  | [] => s
  | c :: _ =>
    let l := groupOf p c.word mine
    let s := { s with mem := { s.mem with
      pointers := Tab.set (fun _ => 0) s.mem.pointers key ((c.port.toNat + 1) % 114) } }
    let s := s.setRequests k (l.foldl List.erase (s.requests k))
    ((s.countPortWaits k l).unitActs 3 1 1).bankServe k c.word.toNat ce l

/-- VAULT_WIPE: a wipe that a transition or a tamper event has asked for writes zeros over the vault (R345). -/
def State.vaultWipe (s : State) : State :=
  if !s.mem.wiping then s
  else
    let s := s.clearRange (Mem.slice 31 + 0x700000) 0x100000
    { s with mem := { s.mem with wiping := false } }

/-! ## Scrub (R347) -/

/-- A word that scrub or a read finds in uncorrectable error stays so until it is written whole (R346). -/
def State.markBad (s : State) (w : Nat) : State :=
  if s.mem.bad.contains w then s else { s with mem := { s.mem with bad := s.mem.bad ++ [w] } }

/-- The address that SCRUB_READ names: HBM, a slice (units 0 to 31), a store of core unit − 32, by [34:32] of the word, or the router's
queue SRAM (unit 48). -/
def scrubAddr (hbm : Bool) (unit word : Nat) : Option Nat :=
  if hbm then (if word * 8 < hbmBytes then some (Mem.hbm + word * 8) else none)
  else if unit < 32 then (if word < 2 ^ 20 then some (Mem.slice unit + word * 8) else none)
  else if unit < 48 ∧ word % 2 ^ 32 * 8 < storeBytes (word / 2 ^ 32) then
    some (Mem.store (unit - 32) (word / 2 ^ 32) + word % 2 ^ 32 * 8)
  else if unit = 48 ∧ word < 2 ^ 20 then some (Mem.queue + word * 8)
  else none

/-- SCRUB_READ: patrol scrub reads a word; what the environment found there is its operand (R346, R347). The first word of a store
begins a new period for that store. -/
def State.scrubRead (s : State) (hbm : Bool) (unit word : Nat) (ce ue : Bool) : State :=
  match scrubAddr hbm unit word with
  | none => s
  | some a =>
    let s := if word % 2 ^ 32 = 0 then
      { s with mem := { s.mem with worn := s.mem.worn.filter (fun w => w * 8 / 2 ^ 48 ≠ a / 2 ^ 48) } } else s
    if ue || s.mem.bad.contains (a / 8) then (s.markBad (a / 8)).wordUE a
    else if ce then s.wordCE a
    else s

/-! ## HBM (R355-R359) -/

/-- HBM_ACCESS: one access to a granule (R358). A write is of whole 16-byte units; a read returns the bytes, or ECC_FATAL; with `ce` it meets a
correctable error (R346). -/
def State.hbmAccess (s : State) (write : Bool) (addr : Nat) (ce : Bool) (data : List Byte) : State :=
  if hbmBytes < addr + data.length then s
  else if write then
    if addr % 16 ≠ 0 ∨ data.length % 16 ≠ 0 then s
    else ((s.putBytes (Mem.hbm + addr) data).countGranules true addr data.length).send (.hbmReply (BitVec.ofNat 38 addr) St.ok [])
  else
    let s := s.countGranules false addr data.length
    if s.badRange (Mem.hbm + addr) data.length then
      (s.reportUE (Mem.hbm + addr) data.length).send (.hbmReply (BitVec.ofNat 38 addr) St.eccFatal [])
    else
      let s := if ce && data ≠ [] then s.wordCE (Mem.hbm + addr) else s
      s.send (.hbmReply (BitVec.ofNat 38 addr) St.ok (s.bytes (Mem.hbm + addr) data.length))

/-- HBM_REFRESH_DOUBLE: a stack reports its temperature; above 85 °C its refresh rate doubles (R359). -/
def State.refreshDouble (s : State) (h t : Nat) : State :=
  (s.rsetField (Reg.hbmStat h) 22 8 t).rsetBit (Reg.hbmStat h) 21 (decide (85 < t))

def execSliceBankCycle (slice : BitVec 5) (bank : BitVec 2) (ce : Bool) (reqs : List SliceReq) (s : State) : Result :=
  live s fun s => s.bankCycle slice.toNat bank.toNat ce reqs
def execAliasWrite (slice : BitVec 5) (port : BitVec 7) (word : BitVec 20) (clear vault : Bool) (data : Word64) (s : State) :
    Result :=
  live s fun s => s.bankCycle slice.toNat (s.bankOf slice.toNat (word.toNat * 8)) false
    [⟨port, word, true, if clear then 2 else 1, 0xFF, data, vault⟩]
def execVaultWipe (s : State) : Result := live s fun s => s.vaultWipe
def execScrubRead (hbm : Bool) (unit : BitVec 6) (word : BitVec 35) (ce ue : Bool) (s : State) : Result :=
  live s fun s => s.scrubRead hbm unit.toNat word.toNat ce ue
def execHbmAccess (write : Bool) (addr : BitVec 38) (ce : Bool) (data : List Byte) (s : State) : Result :=
  live s fun s => s.hbmAccess write addr.toNat ce data
def execHbmRefreshDouble (stack : BitVec 2) (temp : BitVec 8) (s : State) : Result :=
  live s fun s => s.refreshDouble stack.toNat temp.toNat

end Sys2Proof.Machine
end

