-- ==== Sys2Proof/Machine/Refs.lean ====
section
/-! DEFINITION. Machine/Refs.lean: memory references (R264, R265) with the checks of R296, rings and their closing (R318-R327),
and the freeze of a stream (R297). -/

namespace Sys2Proof.Machine

/-! ## Ownership (R277, R296) -/

/-- The owner of a bank (R277): slice × 4 + bank. -/
def State.bankOwner (s : State) (k : Nat) : Option (BitVec 6) := Tab.get (fun _ => none) s.cmd.banks k
/-- Whether the bytes of a slice from `off` on lie within banks of binding `b`. -/
def State.sliceOwned (s : State) (b k off n : Nat) : Bool :=
  decide (k < 28 ∧ off + n ≤ 0x800000) &&
  (n = 0 || (List.range 4).all (fun i =>
    s.bankOwner (k * 4 + i) = some (BitVec.ofNat 6 b) ||
    (if s.rfield (Reg.slcCfg k) 0 2 = 1 then false else off + n ≤ i * 0x200000 || (i + 1) * 0x200000 ≤ off)))
/-- The base and size of an HBM window (R277); size 0 where the slot is free. -/
def State.window (s : State) (b slot : Nat) : BitVec 38 × BitVec 38 := Tab.get (fun _ => (0, 0)) s.cmd.windows (b * 16 + slot)
/-- Whether a range of HBM lies in one window of binding `b` (R264). -/
def State.hbmOwned (s : State) (b a n : Nat) : Bool :=
  n = 0 || (List.range 16).any (fun i =>
    let w := s.window b i
    w.1.toNat ≤ a && a + n ≤ w.1.toNat + w.2.toNat)
/-- Whether a system core belongs to binding `b`, as far as this device knows: a local core by its owner, another device's core
by its device being in DEVMASK (R296). -/
def State.coreOwned (s : State) (b k : Nat) : Bool :=
  match s.localOf k with
  | some n => (s.cor n).bound && (s.cor n).binding.toNat = b
  | none => decide (k ∈ s.sys.coreMap.map Prod.fst) && (s.bnd b).mask.getLsbD (s.sysCore k).dev.toNat

/-! ## Memory references (R264, R265) -/

def mrSpace (m : Word64) : Nat := m.toNat / 2 ^ 60
def mrDev (m : Word64) : Nat := m.toNat / 2 ^ 54 % 64
def mrSlice (m : Word64) : Nat := m.toNat / 2 ^ 48 % 32
def mrCore (m : Word64) : Nat := m.toNat / 2 ^ 40 % 1024
def mrTag (m : Word64) : Word := m.truncate 32
def mrHbm (m : Word64) : Nat := m.toNat % 2 ^ 38
def mrOff (m : Word64) : Nat := m.toNat % 2 ^ 23
def mrState (m : Word64) : Nat := m.toNat % 2 ^ 24

/-- Whether the form of a reference of `n` bytes is one R264 allows: a space that is not reserved, reserved bits 0, a multiple of
16, inside the memory it names. -/
def mrefForm (m : Word64) (n : Nat) : Bool :=
  let x := m.toNat
  if mrSpace m = 1 then x / 2 ^ 38 % 2 ^ 16 = 0 && x % 16 = 0 && mrHbm m + n ≤ hbmBytes
  else if mrSpace m = 2 then x / 2 ^ 53 % 2 = 0 && x / 2 ^ 23 % 2 ^ 25 = 0 && x % 16 = 0 && mrSlice m < 28 && mrOff m + n ≤ 0x800000
  else if mrSpace m = 3 then x / 2 ^ 50 % 2 ^ 10 = 0 && x / 2 ^ 24 % 2 ^ 16 = 0 && x % 16 = 0 && mrState m + n ≤ 0xC00000
  else if mrSpace m = 4 then x / 2 ^ 32 % 2 ^ 28 = 0
  else false

/-- The device whose memory a reference names; none for DATA. -/
def State.mrefDev (s : State) (m : Word64) : Option Nat :=
  if mrSpace m = 4 then none
  else if mrSpace m = 3 then some (if (s.localOf (mrCore m)).isSome then s.sys.myDev.toNat else (s.sysCore (mrCore m)).dev.toNat)
  else some (mrDev m)

/-- Whether the memory named lies on this device. -/
def State.mrefLocal (s : State) (m : Word64) : Bool := s.mrefDev m = some s.sys.myDev.toNat

/-- Whether what a reference names belongs to binding `b` (R296): on another device only DEVMASK is checked here. -/
def State.mrefOwned (s : State) (b : Nat) (m : Word64) (n : Nat) : Bool :=
  match s.mrefDev m with
  | none => true
  | some d =>
    if mrSpace m = 3 then s.coreOwned b (mrCore m)
    else if !(s.bnd b).mask.getLsbD d then false
    else if d ≠ s.sys.myDev.toNat then true
    else if mrSpace m = 1 then s.hbmOwned b (mrHbm m) n
    else s.sliceOwned b (mrSlice m) (mrOff m) n

/-- The status of the checks of one reference of `n` bytes: its form and, where its SPACE names a memory, what it covers (R20, R296). -/
def State.mrefCheck (s : State) (b : Nat) (m : Word64) (n : Nat) : Byte :=
  worse (if mrefForm m n then St.ok else St.badOperand)
    (if mrSpace m = 0 ∨ 4 < mrSpace m ∨ s.mrefOwned b m n then St.ok else St.notBound)

/-- The byte-memory address of a local reference. -/
def State.mrefAddr (s : State) (m : Word64) : Nat :=
  if mrSpace m = 1 then Mem.hbm + mrHbm m
  else if mrSpace m = 2 then Mem.slice (mrSlice m) + mrOff m
  else Mem.store ((s.localOf (mrCore m)).getD 0) 1 + mrState m

/-- A command's or a packet's bytes written at an address of this device's memory: converter areas that they cover are written (R233), rows of
streamed matrices are loaded anew (R147), and HBM granules are counted (R362). -/
def State.writeMem (s : State) (a : Nat) (bytes : List Byte) : State :=
  (((s.putBytes a bytes).loadedOver a bytes.length).writeInsts a bytes.length).moved true a bytes.length

/-- Writes bytes at a reference: local memory, DATA frames to the host, or packets to another device. HBM is written in whole units of 16
bytes (R358): what a write that ends within one leaves in the rest of it is free (log entry 9). -/
def State.putMref (s : State) (stream : BitVec 8) (m : Word64) (bytes : List Byte) : State :=
  match s.mrefDev m with
  | none =>
    let room := s.frameRoom (s.spacePort 0 stream.toNat) - 8
    s.toHost 0 stream.toNat ((bytes.length + room - 1) / room) (.data stream (mrTag m) bytes)
  | some d =>
    if d ≠ s.sys.myDev.toNat then s.toMemory (s.strmBinding stream) d m bytes
    else if mrSpace m = 1 && bytes.length % 16 ≠ 0 then
      let (pad, s) := s.drawBytes (16 - bytes.length % 16)
      s.writeMem (s.mrefAddr m) (bytes ++ pad)
    else s.writeMem (s.mrefAddr m) bytes

/-! ### Writes to another device (R289, R308, R324) -/

/-- The path of a write that a SIGNAL follows (R308): that of a command already outstanding changes, another becomes outstanding. -/
def State.tookPath (s : State) (h : Hdr) (cseq : Word64) (op : Byte) (arg : Nat) : State :=
  let x := s.strm h.stream.toNat
  if s.isOut h cseq then
    s.setStrm h.stream.toNat { x with outst := x.outst.map (fun o => if o.cseq = cseq then { o with arg := arg } else o) }
  else s.outstanding h cseq op arg

/-- Whether a memory reference needs a device that is lost or that no path leads to (R289, R377, R382). -/
def State.noRoute (s : State) (m : Word64) : Bool :=
  match s.mrefDev m with
  | some d => s.sys.lost.contains d || (d ≠ s.sys.myDev.toNat && (s.pathTo d).isNone)
  | none => false

/-- A command has issued its writes of `len` bytes at `dst`: it completes, or waits until another device has acknowledged them all; where no
path has carried them it completes with LINK_LOST (R289). -/
def State.wrote (s : State) (h : Hdr) (cseq : Word64) (op : Byte) (dst : Word64) (len : Nat) (st : Byte) (res : Nat) (q : BitVec 12) : State :=
  match s.mrefDev dst with
  | none => s.complete h cseq op st res
  | some d =>
    if d = s.sys.myDev.toNat || len = 0 then s.complete h cseq op st res
    else if s.noRoute dst then s.complete h cseq op (worse st St.linkLost) 0
    else
      let s := s.tookPath h cseq op (400 + d)
      let left := (s.e2e d 2).retained.length + (s.e2e d 2).waiting.length
      { s with cmd := { s.cmd with far := s.cmd.far ++ [⟨h, cseq, op, dst, len, BitVec.ofNat 6 d, left, st, res, q⟩] } }

/-! ### DATA sources (R265, R408) -/

/-- The frames of a TAG that make up its earliest use of `n` bytes, and the rest of the stream's frames; none while bytes are
missing. -/
def useFrames (tag : Word) : Nat → List (Word × Nat × List Byte) → Option (List (Nat × List Byte) × List (Word × Nat × List Byte))
  | 0, l => some ([], l)
  | _ + 1, [] => none
  | n + 1, f :: r =>
    if f.1 = tag then
      (useFrames tag (n + 1 - f.2.2.length) r).map (fun p => (f.2 :: p.1, p.2))
    else (useFrames tag (n + 1) r).map (fun p => (p.1, f :: p.2))

/-- The bytes of a use placed by OFFSET (R408). -/
def placeFrames (n : Nat) (l : List (Nat × List Byte)) : List Byte :=
  let at' := fun (i : Nat) => (l.find? (fun f => f.1 ≤ i && i < f.1 + f.2.length)).map (fun f => f.2.getD (i - f.1) 0)
  (List.range n).map (fun i => (at' i).getD 0)

/-- How far frames (OFFSET and length) cover the bytes of a use from `p` on without a gap. -/
def coverTo : Nat → List (Nat × Nat) → Nat → Nat
  | 0, _, p => p
  | n + 1, l, p =>
    match l.find? (fun f => f.1 ≤ p && p < f.1 + f.2) with
    | some f => coverTo n l (f.1 + f.2)
    | none => p
/-- The bytes of a TAG that the host has delivered without a gap from OFFSET 0 of its earliest use on. -/
def Stream.tagBytes (x : Stream) (tag : Word) : Nat :=
  let l := (x.data.filter (fun f => f.1 = tag)).map (fun f => (f.2.1, f.2.2.length))
  coverTo l.length l 0
/-- The first `n` bytes of a source, in order of OFFSET and not consumed; none while the host has not delivered them (R265, R408). -/
def State.headBytes (s : State) (stream : BitVec 8) (m : Word64) (n : Nat) : Option (List Byte) :=
  let x := s.strm stream.toNat
  if mrSpace m ≠ 4 then
    some (match s.mrefDev m with
      | some d => if d = s.sys.myDev.toNat then s.bytes (s.mrefAddr m) n else (s.drawBytes n).1
      | none => [])
  else if x.tagBytes (mrTag m) < n then none
  else some (placeFrames n ((x.data.filter (fun f => f.1 = mrTag m)).map Prod.snd))

/-- Whether a source of `n` bytes is there: memory always is, DATA once the host's frames have come (R265). -/
def State.sourceReady (s : State) (stream : BitVec 8) (m : Word64) (n : Nat) : Bool :=
  mrSpace m ≠ 4 || (useFrames (mrTag m) n (s.strm stream.toNat).data).isSome

/-- Reads a source of `n` bytes: the bytes, whether a word was uncorrectable (R346), and the state after. Memory of another device
holds what that device put there: free values (log entry 9). -/
def State.getMref (s : State) (stream : BitVec 8) (m : Word64) (n : Nat) : List Byte × Bool × State :=
  match s.mrefDev m with
  | none =>
    let x := s.strm stream.toNat
    match useFrames (mrTag m) n x.data with
    | some p => (placeFrames n p.1, false, s.setStrm stream.toNat { x with data := p.2 })
    | none => ([], false, s)
  | some d =>
    if d = s.sys.myDev.toNat then
      let a := s.mrefAddr m
      let (l, t) := s.readInsts a (s.bytes a n)
      (l, s.badRange a n, (t.reportUE a n).moved false a n)
    else
      let (l, s) := s.drawBytes n
      (l, false, s)

/-! ## Rings (R318-R321) -/

def State.qSlice (s : State) (q : Nat) : Nat := s.rfield (Reg.mqQCfg0 q) 23 5
def State.qOffset (s : State) (q : Nat) : Nat := s.rfield (Reg.mqQCfg0 q) 0 23
def State.qWdev (s : State) (q : Nat) : Nat := s.rfield (Reg.mqQCfg1 q) 24 6
def State.qWstream (s : State) (q : Nat) : Nat := s.rfield (Reg.mqQCfg1 q) 16 8
def State.qRstream (s : State) (q : Nat) : Nat := s.rfield (Reg.mqQCfg1 q) 8 8
/-- RSIZE in words (R320). -/
def State.qSize (s : State) (q : Nat) : Nat := 32 * 2 ^ s.rfield (Reg.mqQCfg1 q) 0 4
def State.qNotify (s : State) (q : Nat) : Bool := s.rbit (Reg.mqQCfg2 q) 31
def State.qNcore (s : State) (q : Nat) : Nat := s.rfield (Reg.mqQCfg2 q) 0 10
/-- The address of ring word `i`. -/
def State.qWord (s : State) (q i : Nat) : Nat := Mem.slice (s.qSlice q) + s.qOffset q + 8 * i

/-- Whether they lie within one bank, of binding `b` (R319). A bank in mode U holds every fourth line, so a ring in one slice of
mode U lies in one bank only when it lies in one line (R336). -/
def State.ringOwned (s : State) (b k off n : Nat) : Bool :=
  s.sliceOwned b k off n && s.bankOf k off = s.bankOf k (off + n - 1) && (decide (n ≤ 128) || s.rfield (Reg.slcCfg k) 0 2 ≠ 1)

def hdrKind (w : Word64) : Nat := w.toNat / 2 ^ 62
def hdrNm (w : Word64) : Nat := w.toNat / 2 ^ 60 % 4 + 1
def hdrTag (w : Word64) : Nat := w.toNat % 2 ^ 16
/-- The header word of a message of `nm` words (R320). -/
def msgHeader (nm tag : Nat) : Word64 := BitVec.ofNat 64 (2 ^ 62 + (nm - 1) * 2 ^ 60 + tag % 2 ^ 16)
/-- A wrap marker (R320). -/
def wrapMarker : Word64 := BitVec.ofNat 64 (2 * 2 ^ 62)

/-! ## Closing (R325, R327) -/

/-- The writer interface towards queue `q` of device `d` closes with credit 0; the SENDs that wait for its credit complete with
QUEUE_CLOSED. -/
def State.writerClose (s : State) (d q : Nat) : State :=
  let w := s.writer d q
  let s := s.setWriter d q { w with isOpen := false, closed := true, credit := 0 }
  let x := s.strm w.stream.toNat
  let mine := fun (p : Word64 × Instr) => match p.2 with
    | .send _ dev _ _ queue _ => decide (dev.toNat = d ∧ queue.toNat = q)
    | _ => false
  if w.isOpen then
    (s.setStrm w.stream.toNat { x with held := x.held.dropWhile mine }).completeHeld (x.held.takeWhile mine) St.queueClosed
  else s

/-- Every writer interface aimed at the queues of device `d` closes: that device has reset (R327). -/
def State.closeWritersAt (s : State) (d : Nat) : State :=
  s.forAll (s.syn.writers.filter (fun p => p.2.isOpen && p.1 / 4096 = d)) (fun s p => s.writerClose d (p.1 % 4096))

/-- Messages left in the ring from `head` on, over `fill` words. -/
def State.messagesIn (s : State) (q : Nat) : Nat → Nat → Nat → Nat
  | 0, _, _ => 0
  | fuel + 1, head, left =>
    if left = 0 then 0
    else
      let w := s.word64 (s.qWord q head)
      if hdrKind w = 2 then State.messagesIn s q fuel 0 (left - (s.qSize q - head))
      else 1 + State.messagesIn s q fuel ((head + hdrNm w + 1) % s.qSize q) (left - (hdrNm w + 1))

/-- A queue closes (R325): what the ring holds is discarded and counted, a blocked RECV completes with QUEUE_CLOSED, and the
writer interface is told. -/
def State.queueClose (s : State) (q : Nat) (cause : BitVec 3) : State :=
  let x := s.queueAt q
  if x.state = 0 then s
  else
    let left := s.messagesIn q x.fill x.head x.fill +
      (x.early.filter (fun e => hdrKind (s.word64 (s.qWord q e.1)) ≠ 2)).length
    let s := s.count (Reg.mqQDisc q) left
    let s := s.setQueue q { x with state := 0, cause := cause, fill := 0, head := 0, tail := 0, early := [] }
    let rs := s.syn.recvs.filter (fun r => r.queue.toNat = q)
    let s : State := { s with syn := { s.syn with recvs := s.syn.recvs.filter (fun r => r.queue.toNat ≠ q) } }
    let s : State := s.forAll rs (fun s r => s.complete r.hdr r.cseq 0x51 St.queueClosed 0)
    let far := s.cmd.far.filter (fun f => f.opcode = 0x51 && f.queue.toNat = q)
    let s := s.forAll far (fun s f => s.finish f.hdr f.cseq 0x51 St.queueClosed 0)
    let d := s.qWdev q
    if d = s.sys.myDev.toNat then s.writerClose d q
    else s.toDevice d 5 1 (.closeNotice (BitVec.ofNat 6 d) (BitVec.ofNat 12 q))

/-- The queues and writer interfaces of a stream that ends close: cause 2 unbound, 3 frozen (R325, R327). -/
def State.streamGone (s : State) (n : BitVec 8) (cause : BitVec 3) : State :=
  let s := s.forAll (s.syn.queues.filter (fun p => p.2.state ≠ 0 && s.qRstream p.1 = n.toNat)) (fun s p => s.queueClose p.1 cause)
  s.forAll (s.syn.writers.filter (fun p => p.2.isOpen && p.2.stream = n)) (fun s p => s.writerClose (p.1 / 4096) (p.1 % 4096))

/-- A stream freezes (R297): as every master, and its queues and writer interfaces close. -/
def State.freezeStream (s : State) (n : BitVec 8) (cause op : Byte) (cseq : Word64) : State :=
  if (s.strm n.toNat).frozen then s else (s.freezeBase n cause op cseq).streamGone n 3

/-! ## The end of a write by a command (R297) -/

/-- A target rejects an access of a command because its resource was unbound or re-bound after the command issued: NOT_BOUND, and
the stream freezes (R297). -/
def State.rejected (s : State) (h : Hdr) (cseq : Word64) (op : Byte) : State :=
  (s.complete h cseq op St.notBound 0).freezeStream h.stream St.notBound op cseq

/-- Writes the result of a command of binding `b` at its destination and completes it. -/
def State.writeDone (s : State) (b : Nat) (h : Hdr) (cseq : Word64) (op : Byte) (m : Word64) (bytes : List Byte) (res : Nat) :
    State :=
  if (s.strm h.stream.toNat).bound && !s.mrefOwned b m bytes.length then s.rejected h cseq op
  else (s.putMref h.stream m bytes).complete h cseq op St.ok res

end Sys2Proof.Machine
end

