-- ==== Sys2Proof/Machine/Converters.lean ====
section
/-! DEFINITION. Machine/Converters.lean: observations in, the encode of an instance, taps, the decode, emitted values and ACT frames
(R238-R257). -/

namespace Sys2Proof.Machine

/-! ## Observations in (R238, R239) -/

/-- The step an instance will encode next (R239). -/
def State.nextEnc (s : State) (h : Nat) (x : Ctx) : Nat :=
  if (s.inst h x.cidx.toNat).encoded = some x.cstep then x.cstep.toNat + 1 else x.cstep.toNat

/-- Whether the area of a channel lies in banks of its binding: the channel is a master on them (R24, R234). -/
def State.chanHome (s : State) (h : Nat) : Bool :=
  let c := s.chan h
  s.sliceOwned c.binding.toNat c.sslice c.soff (256 + c.nctx * c.sbytes)

/-- One sample row for context index `k` of a VALID encoder (R239), `d` the distance of its TSTEP above the step to encode next modulo
2^20 (R201: from 2^19 on it lies before that step): stored in slot s mod 4, or discarded and counted. The row is in
the device's byte order; `true` where it was stored. The distance is tested before the window of a LATENCY channel, so a late or an early
row of a step the window does not name counts as late or early (DESIGN CHOICE, log entry 70). -/
def State.takeRow (s : State) (h k : Nat) (tstep : Nat) (zin : BitVec 8) (row : List Byte) : State × Bool :=
  let c := s.chan h
  match s.ctxByIdx c.binding.toNat k with
  | none => (s.chanNote Reg.cnvBadobs none h k, false)
  | some p =>
    if !c.covers h p.2 then (s.chanNote Reg.cnvBadobs none h k, false)
    else
      let n := s.nextEnc h p.2
      let d := (tstep + 2 ^ 20 - n % 2 ^ 20) % 2 ^ 20
      let t := n + d
      if 2 ^ 19 ≤ d then (s.chanNote Reg.cnvLate (some 1) h k, false)
      else if n + 3 < t then (s.chanNote Reg.cnvEarly (some 0) h k, false)
      else if c.kind = 2 ∧ t % c.win ≠ 0 then (s, false)
      else if !s.chanHome h then (s.freezeChan h, false)
      else
        let x := s.inst h k
        let keep := x.slots.filter (fun e => e.1 ≠ t % 4)
        (s.setInst h k { x with slots := keep ++ [(t % 4, BitVec.ofNat 48 t, zin, row)] }, true)

/-- A VALID encoder, of whatever binding. -/
def State.isEncoder (s : State) (h : Nat) : Bool := (s.chan h).valid && !(s.chan h).dec

/-- The rows of one observation record. A row of another length than R238 gives counts in CNV_BADOBS (DEDUCED, log entry 21). -/
def State.takeRows (s : State) (h cfirst tstep : Nat) (zin : BitVec 8) : List (List Byte) → Nat → State × Nat
  | [], stored => (s, stored)
  | row :: r, stored =>
    let c := s.chan h
    let (s, ok) := if row.length ≠ c.rowBytes then (s.chanNote Reg.cnvBadobs none h cfirst, false)
      else s.takeRow h cfirst tstep zin row
    State.takeRows s h (cfirst + 1) tstep zin r (if ok then stored + 1 else stored)

/-- The records of an OBS frame (R238, R239, R415): a record whose channel is no VALID encoder counts once and ends the frame, the
records after it count as bad headers; so does a record cut short by the end of the frame. -/
def State.obsRecs (s : State) : List ObsRec → State
  | [] => s
  | r :: rest =>
    let h := r.channel.toNat
    if !s.isEncoder h then (s.chanNote Reg.cnvBadobs none h r.cfirst.toNat).count Reg.ethTpBadhdr rest.length
    else if r.cut then s.count Reg.ethTpBadhdr (rest.length + 1)
    else
      let c := s.chan h
      State.obsRecs (s.takeRows h r.cfirst.toNat r.tstep.toNat r.zin (r.rows.map (frameRow c.ifmt c.width)) 0).1 rest

/-! ## The encode of an instance (R240-R244) -/

/-- Replicas of an instance's records go to the home core's assembler in order, until all eight holding buffers are full (R208). -/
def State.emitFrom (h k n : Nat) : List (Nat × Nat × Nat) → State → State
  | [], s => s.setInst h k { s.inst h k with left := [] }
  | r :: t, s =>
    let c := s.chan h
    if 8 ≤ (s.cor n).holding.length then (s.setInst h k { s.inst h k with left := r :: t }).countFree (Reg.coreRteStall n)
    else State.emitFrom h k n t (s.addReplica n (c.tgtCore r.1) (c.tgtMat r.1) (c.tgtDelay r.1) k (c.rowBase r.1 + r.2.1) r.2.2 false)

/-- The records of an instance that are left go out from the home core (R244); a target of another binding, as it is owned at this emission,
freezes the channel, and the records are discarded and counted (R234). -/
def State.emitLeft (s : State) (h k : Nat) (l : List (Nat × Nat × Nat)) : State :=
  let c := s.chan h
  let n := (s.localOf c.hcore).getD 0
  if l.any (fun r => s.foreignCore c.binding.toNat (c.tgtCore r.1)) then
    ((s.setInst h k { s.inst h k with left := [] }).count (Reg.coreRteViol n) l.length).freezeChan h
  else State.emitFrom h k n l s

/-- Emits an instance's records to every enabled target (R244). -/
def State.emitRecs (s : State) (h cidx : Nat) (recs : List (Nat × Nat)) : State :=
  let l := (s.chan h).targets.flatMap (fun i => recs.map (fun r => (i, r)))
  if l = [] then s
  else
    let s := s.emitLeft h cidx l
    if (s.chan h).frozen then s else s.chanOps l.length

/-- The instance encodes the running step from levels `u`. -/
def State.encodeWith (s : State) (h : Nat) (p : Nat × Ctx) (u : List Nat) (scales : Option (List Nat × List Nat)) : State :=
  let c := s.chan h
  let k := p.2.cidx.toNat
  let x := s.inst h k
  let (st, recs) := c.encode (s.bnd c.binding.toNat).seed p.2.cstep k x.state u
  let s := s.setInst h k { x with
    state := st, lastU := u, scales := scales, encoded := some p.2.cstep, waiting := false
    slots := x.slots.filter (fun e => p.2.cstep.toNat < e.2.1.toNat) }
  s.emitRecs h k recs

/-- Whether an encoder instance has been served in the running step, its records emitted, or set aside (R241), or is not to be. -/
def State.served (s : State) (h : Nat) (p : Nat × Ctx) : Bool :=
  let x := s.inst h p.2.cidx.toNat
  (s.chan h).frozen || !p.2.active || (x.encoded = some p.2.cstep && x.left = []) || x.waiting

/-- Whether no instance of binding `b` before instance (h, k) in ascending channel and CIDX is left to serve (R254). -/
def State.turnOf (s : State) (b : Nat) (dec : Bool) (h k : Nat) (done : Nat → Nat × Ctx → Bool) : Bool :=
  (s.chansOf b dec).all (fun d => (s.chanCtxs d).all (fun q => h < d || (h = d && k ≤ q.2.cidx.toNat) || done d q))

/-- Whether the instance has an encode to make in the running step of its binding: it takes part (R232) and has not encoded it. A
decode of the step before comes first, and encodes follow in ascending channel and CIDX (R254). -/
def State.mayEncode (s : State) (h : Nat) (p : Nat × Ctx) : Bool :=
  let c := s.chan h
  c.valid && !c.dec && !c.frozen && c.covers h p.2 && p.2.active && (s.bnd c.binding.toNat).running &&
  (s.inst h p.2.cidx.toNat).encoded ≠ some p.2.cstep &&
  (s.chansOf c.binding.toNat true).all (fun d => (s.chanCtxs d).all (fun q => (s.inst d q.2.cidx.toNat).due = none)) &&
  s.turnOf c.binding.toNat false h p.2.cidx.toNat s.served

/-- An instance whose state is uncorrectable encodes nothing (R257: ECCS). -/
def State.instBad (s : State) (h k : Nat) : Bool := s.badRange ((s.chan h).instAddr k) (s.chan h).sbytes

/-- The levels HOLD uses (R241). -/
def State.heldLevels (s : State) (h k : Nat) : List Nat :=
  let x := s.inst h k
  if x.lastU = [] then List.replicate (s.chan h).width 0 else x.lastU

/-- ENCODE_INSTANCE: the engine reaches an instance (R241, R242); records of its encode that the assembler had no room for go on. A channel
whose area lies in a bank of another binding freezes, as it touches what its binding does not own (R24, R234). -/
def State.encodeInstance (s : State) (h k : Nat) : State :=
  let c := s.chan h
  match s.ctxByIdx c.binding.toNat k with
  | none => s
  | some p =>
    if (s.inst h k).left ≠ [] then (if c.frozen then s else s.emitLeft h k (s.inst h k).left)
    else if !s.mayEncode h p then s
    else if !s.chanHome h then s.freezeChan h
    else if s.instBad h k then
      (s.rsetBit (Reg.cnvChStat h) 4 true).setInst h k { s.inst h k with encoded := some p.2.cstep, waiting := false }
    else
      let x := s.inst h k
      let t := p.2.cstep.toNat
      if c.kind = 2 ∧ t % c.win ≠ 0 then s.encodeWith h p (s.heldLevels h k) x.scales
      else match x.slots.find? (fun e => e.2.1 = p.2.cstep) with
        | some e =>
          let (u, scales, s) := s.levels h k x.scales (signed 8 e.2.2.1.toNat) e.2.2.2
          (s.chanOps (if c.kind = 4 then c.width * c.npop else c.width)).encodeWith h p u scales
        | none =>
          if c.hold then (s.chanNote Reg.cnvMiss (some 2) h k).encodeWith h p (s.heldLevels h k) x.scales
          else s.setInst h k { x with waiting := true }

/-- ENCODE_WAIT_TIMEOUT: WAIT_MAX passes without the row of an instance set aside (R241). -/
def State.encodeTimeout (s : State) (h k : Nat) : State :=
  match s.ctxByIdx (s.chan h).binding.toNat k with
  | none => s
  | some p =>
    let x := s.inst h k
    if !s.mayEncode h p || !x.waiting || (x.slots.any (fun e => e.2.1 = p.2.cstep)) then s
    else if !s.chanHome h then s.freezeChan h
    else (s.chanNote Reg.cnvTmo (some 3) h k).encodeWith h p (s.heldLevels h k) x.scales

/-! ## Taps and the decode (R246, R247) -/

/-- The key of a tally: its instance, the parity of the step and the neuron. -/
def tallyKey (h k step i : Nat) : Nat := (h * 2 ^ 18 + k) * 128 + step % 2 * 64 + i
def State.tally (s : State) (h k step i : Nat) : Nat := Tab.get (fun _ => 0) s.cnv.tallies (tallyKey h k step i)
def State.setTally (s : State) (h k step i v : Nat) : State :=
  { s with cnv := { s.cnv with tallies := Tab.set (fun _ => 0) s.cnv.tallies (tallyKey h k step i) v } }

/-- TAP_ACCEPT: the engine accepts a tap of its buffer into the tally of the running step. A buffer that was full is so no more: how long
it was is a free value of CNV_TAPWAIT (R255, log entry 61). -/
def State.tapAccept (s : State) (t : Tap) : State :=
  if !s.cnv.taps.contains t then s
  else
    let s := if 16384 ≤ s.cnv.taps.length then s.countFree Reg.cnvTapwait else s
    let s := { s with cnv := { s.cnv with taps := s.cnv.taps.erase t } }
    let h := t.channel.toNat
    let k := t.cidx.toNat
    match s.ctxByIdx (s.chan h).binding.toNat k with
    | none => s
    | some p =>
      let c := p.2.cstep.toNat
      (s.chanOps 1).setTally h k c t.neuron (s.tally h k c t.neuron + t.n)

/-- The preference table of a POPV decoder: 64 signed 16-bit values of its channel area, behind the place of the descriptor's 64 bytes (R235;
DESIGN CHOICE, log entry 65). -/
def State.prefsOf (s : State) (c : Chan) : List Int :=
  if c.kind = 2 then (cut 2 (s.bytes (Mem.slice c.sslice + c.soff + 64) 128)).map (fun x => signed 16 (leNat x)) else []

/-- The window's update and y_raw of a decode of step `t` with counts `n` and preferences `prefs` (R247); none leaves the computed value. -/
def Chan.decodeStep (c : Chan) (prefs : List Int) (x : Inst) (t : Nat) (n : List Nat) : Inst × Option Int :=
  let total := n.sum
  let put := fun (l : List (List Nat)) (v : List Nat) =>
    ((l ++ List.replicate (c.win - l.length) []).set (t % c.win) v)
  if c.kind = 0 then
    let h := put x.hist [total]
    ({ x with hist := h }, some (h.map (fun l => l.sum)).sum)
  else if c.kind = 1 then
    let f := x.filt.toNat
    let f := (f - f / 2 ^ c.expShift + total * 65536) % 2 ^ 48
    ({ x with filt := BitVec.ofNat 48 f }, some f)
  else if c.kind = 2 then
    let h := put x.hist n
    let sums := (List.range c.width).map (fun i => (h.map (fun l => l.getD i 0)).sum)
    let tot := sums.sum
    let y := (sums.zipIdx.map (fun p => (p.1 : Int) * (prefs.getD p.2 0))).sum
    ({ x with hist := h }, if tot = 0 then none else some (rneDiv y tot))
  else
    let x := if t % c.win = 0 then { x with first := none } else x
    let now := if c.winner then (n.findIdx? (fun v => 0 < v)).getD 0 else t % c.win
    let x := if x.first = none ∧ 0 < total then { x with first := some now } else x
    (x, if t % c.win = c.win - 1 then some ((x.first.getD (if c.winner then c.width else c.win) : Nat) : Int) else none)

/-- The computed value of y_raw (R247). -/
def Chan.value (c : Chan) (y : Int) : Int :=
  let v := (sat32 (rneShift (y * c.gain) c.gsh + c.offset)).1.toInt
  if c.wide then v else (clampTo (-32768) 32767 v).1

/-- The value of an instance no decode has touched since its CHANCFG (R237). -/
def State.instOf (s : State) (h k : Nat) : Inst :=
  let x := s.inst h k
  if x = Inst.empty then { x with v := (s.chan h).safe, e := (s.chan h).safe } else x

/-! ## DECODE's rows (R292) -/

/-- The 16 bytes DECODE writes for one CIDX, and whether it is an instance. -/
def State.decodeRow (s : State) (h k : Nat) : List Byte × Bool :=
  let c := s.chan h
  match s.ctxByIdx c.binding.toNat k with
  | none => (List.replicate 8 0 ++ [3, 0] ++ List.replicate 6 0, false)
  | some p =>
    if !c.covers h p.2 then (List.replicate 8 0 ++ [3, 0] ++ List.replicate 6 0, false)
    else
      let x := s.instOf h k
      let mode := x.mode.toNat + (if x.e = c.safe then 4 else 0)
      (leBytes 4 (unsigned 32 x.v) ++ leBytes 4 (unsigned 32 x.e) ++ [BitVec.ofNat 8 mode, 0] ++
        leBytes 6 ((x.decodedAt.map BitVec.toNat).getD (2 ^ 48 - 1)), true)

/-- A DECODE takes its values: COUNT × 16 bytes go to its destination, RESULT the instances written. -/
def State.decodeDone (s : State) (d : DecodeReq) : State :=
  let rows := (List.range d.count).map (fun i => s.decodeRow d.channel.toNat (d.cfirst.toNat + i))
  s.writeDone (s.chan d.channel.toNat).binding.toNat d.hdr d.cseq 0x61 d.dst (rows.flatMap Prod.fst) (rows.countP Prod.snd)

/-- Whether a DECODE may take its values: a step has ended, and every instance of its range has been decoded. -/
def State.decodeReady (s : State) (d : DecodeReq) : Bool :=
  d.ended && (s.chanCtxs d.channel.toNat).all (fun p =>
    p.2.cidx.toNat < d.cfirst.toNat || d.cfirst.toNat + d.count ≤ p.2.cidx.toNat ||
    (s.inst d.channel.toNat p.2.cidx.toNat).due = none)

/-- The DECODEs that may take their values do. -/
def State.serveDecodes (s : State) : State :=
  let l := s.cnv.decodes.filter s.decodeReady
  if l = [] then s
  else
    let s := { s with cnv := { s.cnv with decodes := s.cnv.decodes.filter (fun d => !l.contains d) } }
    s.forAll l State.decodeDone

/-! ## Emitted values (R248, R249) -/

/-- One update of an instance's emitted value, at a gate or an update instant. -/
def Chan.emit (c : Chan) (x : Inst) (ramped overran : Bool) : Inst :=
  let gates := if x.renewed then 0 else x.gates + 1
  let ramp := ramped || c.frozen || c.holdSteps ≤ gates || (x.mode = 2 && !x.renewed)
  let mode : BitVec 2 := if ramp then 2 else if overran then 1 else 0
  let target := if ramp then c.safe else if overran then x.e else x.v
  { x with gates := gates, renewed := false, mode := mode, e := x.e + (clampTo (-(c.slew : Int)) c.slew (target - x.e)).1 }

/-- The binding whose ACT entry a channel's frame belongs to: none for AFRAME 0xFF or an entry of another binding (R249, R250). -/
def State.inFrame (s : State) (h : Nat) : Bool :=
  let c := s.chan h
  c.aframe ≠ 255 && s.rfield (Reg.cnvActCfg c.aframe) 24 6 = c.binding.toNat

/-- Updates every instance of the decoders `l` of binding `b` and the MODE of each channel (R248, R257). -/
def State.emitAll (s : State) (b : Nat) (l : List Nat) : State :=
  let ramped := s.rbit (Reg.cmdStepStatus b) 3
  let overran := (s.bnd b).running && (s.bnd b).overran
  s.forAll l (fun s h =>
    let xs := (s.chanCtxs h).map (fun p => (p.2.cidx.toNat, (s.chan h).emit (s.instOf h p.2.cidx.toNat) ramped overran))
    let s := s.forAll xs (fun s x => s.setInst h x.1 x.2)
    s.rsetField (Reg.cnvChStat h) 21 2 ((xs.map (fun x => x.2.mode.toNat)).foldl max 0))

/-- An update instant of binding `b` (R249). -/
def State.updateInstant (s : State) (b : Nat) : State := s.emitAll b ((s.chansOf b true).filter (fun h => !s.inFrame h))

/-- Whether no decode of binding `b` is due. -/
def State.noneDue (s : State) (b : Nat) : Bool :=
  (s.chansOf b true).all (fun d => (s.chanCtxs d).all (fun q => (s.inst d q.2.cidx.toNat).due = none))

/-- DECODE_INSTANCE: the decode of an instance's ended step (R247), in ascending channel and CIDX (R254); the last one of the binding's
step is an update instant (R249). -/
def State.decodeInstance (s : State) (h k : Nat) : State :=
  let c := s.chan h
  let x := s.instOf h k
  match x.due with
  | none => s
  | some t =>
    if !s.turnOf c.binding.toNat true h k (fun d q => (s.inst d q.2.cidx.toNat).due = none) then s
    else
    let n := (List.range c.width).map (fun i => s.tally h k t.toNat i)
    let s := s.forAll (List.range c.width) (fun s i => s.setTally h k t.toNat i 0)
    let s :=
      if c.frozen then s.setInst h k { x with due := none }
      else if !s.chanHome h then (s.setInst h k { x with due := none }).freezeChan h
      else if s.instBad h k then (s.setInst h k { x with due := none }).rsetBit (Reg.cnvChStat h) 4 true
      else
        let (y, raw) := c.decodeStep (s.prefsOf c) x t.toNat n
        let v := match raw with | some r => c.value r | none => y.v
        (s.chanOps 1).setInst h k { y with v := v, renewed := true, decodedAt := some t, due := none }
    let b := c.binding.toNat
    if s.noneDue b then (s.updateInstant b).serveDecodes else s.serveDecodes

/-- The instances of the decoders of binding `b`. -/
def State.decoders (s : State) (b : Nat) : List (Nat × Nat) :=
  (s.chansOf b true).flatMap (fun h => (s.chanCtxs h).map (fun p => (h, p.2.cidx.toNat)))

/-- The decodes of a step that has ended become due for the instances that took part in it; decodes still left from the step before
are made first (log entry 22). Where no instance took part the step is an update instant at once (R249). -/
def State.decodesDue (s : State) (b : Nat) : State :=
  let s := s.forAll (s.decoders b) (fun s p => s.decodeInstance p.1 p.2)
  let s := s.forAll (s.chansOf b true) (fun s h =>
    s.forAll ((s.chanCtxs h).filter (fun p => p.2.active)) (fun s p =>
      s.setInst h p.2.cidx.toNat { s.instOf h p.2.cidx.toNat with due := some p.2.cstep }))
  let mine := fun (d : DecodeReq) => (s.chan d.channel.toNat).bound && (s.chan d.channel.toNat).binding.toNat = b
  let decodes := s.cnv.decodes.map (fun d => if mine d then { d with ended := true } else d)
  let s := { s with cnv := { s.cnv with decodes := decodes } }
  (if s.noneDue b then s.updateInstant b else s).serveDecodes

/-! ## ACT frames (R250, R251, R256) -/

/-- The channels of a frame: the VALID decoders of the entry's binding that name it. -/
def State.frameChans (s : State) (f b : Nat) : List Nat := (s.chansOf b true).filter (fun h => (s.chan h).aframe = f)

/-- Bytes one context takes in a frame. -/
def State.frameCtxBytes (s : State) (l : List Nat) : Nat := 1 + (l.map (fun h => if (s.chan h).wide then 4 else 2)).sum

/-- The contexts a frame carries (R251): the covering contexts from CFIRST that fit in 1,400 bytes. -/
def State.frameCtxs (s : State) (l : List Nat) (b cfirst : Nat) : List (Nat × Ctx) :=
  ((s.ctxsOf b).filter (fun p => cfirst ≤ p.2.cidx.toNat && l.any (fun h => (s.chan h).covers h p.2))).take
    (1384 / s.frameCtxBytes l)

/-- What a frame takes of channel `h` for a context (R251). A context that does not cover a channel of its frame shows that channel's
SAFE_VALUE (DESIGN CHOICE, log entry 23). -/
def State.takeValue (s : State) (h : Nat) (p : Nat × Ctx) : ActVal :=
  let c := s.chan h
  let here := c.covers h p.2
  let x := s.instOf h p.2.cidx.toNat
  let e := if here then x.e else c.safe
  ⟨BitVec.ofNat 12 h, here, x.mode, x.e = c.safe, x.decodedAt, if c.wide then beBytes 4 (unsigned 32 e) else beBytes 2 (unsigned 16 e)⟩

/-- The values of a frame as a snapshot takes them: one row for each context. -/
def State.takeFrame (s : State) (f b cfirst : Nat) : List (List ActVal) :=
  let l := s.frameChans f b
  (s.frameCtxs l b cfirst).map (fun p => l.map (fun h => s.takeValue h p))

/-- One context of a frame: its mode byte and its values. -/
def actRow (l : List ActVal) : List Byte :=
  let here := l.filter (fun v => v.here)
  BitVec.ofNat 8 ((here.map (fun v => v.mode.toNat)).foldl max 0 + if here.all (fun v => v.safe) then 4 else 0) :: l.flatMap (fun v => v.bytes)

/-- The payload of a frame (R251). -/
def framePayload (f cfirst nch : Nat) (rows : List (List ActVal)) : List Byte :=
  let newest := (rows.flatMap (fun l => (l.filter (fun v => v.here)).map (fun v => (v.decoded.map BitVec.toNat).getD 0))).foldl max 0
  [BitVec.ofNat 8 f, 0] ++ beBytes 6 newest ++ beBytes 3 cfirst ++ beBytes 2 rows.length ++ beBytes 2 nch ++ [0] ++
    rows.flatMap actRow

/-- Whether a write to an ACT entry passes the checks of R256, with the values both registers will hold. -/
def State.actOk (s : State) (f : Nat) (cfg lead : Word) : Bool :=
  let b := fieldOf cfg 24 6
  let l := s.frameChans f b
  let v := (s.frameCtxs l b (fieldOf cfg 0 18)).length * l.length
  !bitOf cfg 31 ||
    (decide (((v + 7) / 8 + 40) * 4 ≤ fieldOf lead 0 20 * 3) && decide (16 + s.frameCtxBytes l ≤ 1400) &&
     decide (fieldOf lead 24 8 < s.rfield (Reg.ethGclLen (fieldOf cfg 30 1)) 0 9))

/-- The traffic class of ACT frames of a port (R419). -/
def State.actTc (s : State) (port : Nat) : Nat := s.rfield (Reg.ethPortPcp port) 8 3

/-- Whether an opening of the entry in force is pending (R256): VALID, and the named gate-control entry opens ACT_TC. -/
def State.actPending (s : State) (f : Nat) : Bool :=
  let cfg := s.rget (Reg.cnvActCfg f)
  let port := fieldOf cfg 30 1
  let gcl := s.rfield (Reg.cnvActLead f) 24 8
  bitOf cfg 31 && decide (gcl < s.rfield (Reg.ethGclLen port) 0 9) && s.rbit (Reg.ethGclGate (port * 256 + gcl)) (s.actTc port)

/-- The writes that wait for an opening come into force (R256). -/
def State.actForce (s : State) (f : Nat) : State :=
  let x := s.act f
  let s := s.setAct f { x with cfgNext := none, leadNext := none }
  let s := match x.cfgNext with | some v => s.rset (Reg.cnvActCfg f) v | none => s
  match x.leadNext with | some v => s.rset (Reg.cnvActLead f) v | none => s

/-- ACT_SNAPSHOT: at G − LEAD of an opening of the entry the emitted values of the frame's instances are updated and taken (R248, R250). -/
def State.actSnapshot (s : State) (f : Nat) : State :=
  let cfg := s.rget (Reg.cnvActCfg f)
  if !s.actPending f then s
  else
    let b := fieldOf cfg 24 6
    let l := s.frameChans f b
    let s := s.emitAll b l
    s.setAct f { s.act f with frame := if l = [] then none else some (BitVec.ofNat 18 (fieldOf cfg 0 18), l.map (BitVec.ofNat 12), s.takeFrame f b (fieldOf cfg 0 18)) }

def execEncodeInstance (channel : BitVec 12) (cidx : BitVec 18) (s : State) : Result :=
  live s fun s => s.encodeInstance channel.toNat cidx.toNat
def execEncodeWaitTimeout (channel : BitVec 12) (cidx : BitVec 18) (s : State) : Result :=
  live s fun s => s.encodeTimeout channel.toNat cidx.toNat
def execTapAccept (channel : BitVec 12) (cidx : BitVec 18) (neuron : BitVec 6) (n : BitVec 3) (s : State) : Result :=
  live s fun s => s.tapAccept ⟨channel, cidx, neuron.toNat, n.toNat⟩
def execDecodeInstance (channel : BitVec 12) (cidx : BitVec 18) (s : State) : Result :=
  live s fun s => s.decodeInstance channel.toNat cidx.toNat
def execActSnapshot (f : BitVec 8) (s : State) : Result := live s fun s => s.actSnapshot f.toNat

end Sys2Proof.Machine
end

