-- ==== Sys2Proof/Machine/Checks.lean ====
section
/-! DEFINITION. Machine/Checks.lean: what the device checks before it accepts a program, a matrix, a rule, routes or a channel (R85,
R93, R146, R162, R205, R236), state extents (R559), image sizes (R300) and spill reservations (R214). -/

namespace Sys2Proof.Machine

/-- BAD_OPERAND where a check fails. -/
def need (ok : Bool) : Byte := if ok then St.ok else St.badOperand
/-- NOT_BOUND where a check of R296 fails. -/
def owned (ok : Bool) : Byte := if ok then St.ok else St.notBound
/-- The status of several checks (R20). -/
def allOf (l : List Byte) : Byte := l.foldl worse St.ok

/-- Words of a byte string. -/
def wordsOf (l : List Byte) : List Word := (cut 4 l).map (fun b => BitVec.ofNat 32 (leNat b))
/-- The reserved bits of a word are 0: `mask` holds the bits in use. -/
def onlyBits (w : Word) (mask : Nat) : Bool := w &&& ~~~(BitVec.ofNat 32 mask) = 0

/-! ## Populations (R67, R69, R79, R81, R85) -/

/-- The slot that an image of R83 describes. -/
def Slot.ofImage (binding : BitVec 6) (poff : BitVec 24) (l : List Byte) : Slot :=
  let w := wordsOf l
  let n := fieldOf (w.getD 0 0) 0 11
  ⟨binding, w.take 16, (w.drop 16).take n, ((w.drop 16).drop n).take (fieldOf (w.getD 1 0) 16 7), poff⟩

/-- Bytes of a slot image (R83). -/
def imageLen (header : List Word) : Nat := 64 + 4 * (fieldOf (header.getD 0 0) 0 11 + fieldOf (header.getD 1 0) 16 7)
/-- Bytes a slot takes in the program area (R83). -/
def Slot.area (t : Slot) : Nat := if t.valid then (imageLen t.header + 63) / 64 * 64 else 0

/-- Whether field `n` is the high half of an FX32. -/
def Slot.highHalf (t : Slot) (n : Nat) : Bool :=
  -- a high half has descriptor 0x00, so its type never reads as FX32 itself
  0 < n && t.ftype (n - 1) = 2

/-- The descriptor byte of field `n` is in range (R67). -/
def Slot.fieldOk (t : Slot) (n : Nat) : Bool :=
  if t.nFields ≤ n then t.fdesc n = 0
  else if t.highHalf n then t.fdesc n = 0
  else if t.ftype n ≤ 1 then t.ffrac n ≤ 15
  else if t.ftype n = 2 then t.ffrac n ≤ 31 && n + 1 < t.nFields
  else t.ffrac n = 0

/-- The bytes of the record that trace `k` takes (R79). -/
def Slot.traceBytes (t : Slot) (k : Nat) : List Nat :=
  if !t.traceEn k then []
  else if t.traceW16 k then [2 * t.traceField k, 2 * t.traceField k + 1]
  else [2 * t.traceField k + (if t.traceHi k then 1 else 0)]

/-- The trace map byte of trace `k` is in range (R67, R79, R81). DESIGN CHOICE (log entry 58): the other fields of a disabled trace, HI
beside W16 and TFIRE among them, are not checked. -/
def Slot.traceOk (t : Slot) (k : Nat) : Bool :=
  t.hf 8 (8 * k + 4) 1 = 0 &&
  (!t.traceEn k || (t.traceField k < t.nFields && t.ftype (t.traceField k) = 3 && !(t.traceW16 k && t.traceHi k) &&
    (t.traceW16 k || t.traceFire k ≤ 255)))

/-- The header is in range (R67, R69, R85). -/
def Slot.headerOk (t : Slot) : Bool :=
  onlyBits (t.hw 0) 0x1F5F07FF && onlyBits (t.hw 1) 0x007F1FFF && onlyBits (t.hw 2) 0x3FFF && onlyBits (t.hw 9) 0xFFFF &&
  (List.range 4).all (fun i => t.hw (12 + i) = 0) &&
  1 ≤ t.progLen && t.progLen ≤ 1024 && 1 ≤ t.nFields && t.nFields ≤ 16 && t.regFrac ≤ 24 && t.nConst ≤ 64 &&
  1 ≤ t.nLocal && t.nLocal ≤ 8192 &&
  (List.range 16).all t.fieldOk && (List.range 4).all t.traceOk && decide ((List.range 4).flatMap t.traceBytes).Nodup &&
  (!t.inEn || (t.inField < t.nFields && !t.highHalf t.inField && (t.ftype t.inField = 0 || t.ftype t.inField = 2)))

def opOf (w : Word) : Nat := fieldOf w 26 6
/-- Whether OP is an opcode of R71. -/
def opKnown (op : Nat) : Bool := op ≤ 0x0E || (0x10 ≤ op && op ≤ 0x14) || op = 0x3F

/-- Whether a population takes an instruction (R85): its selector, the trace of TBUMP and the k1 of DECAY. -/
def Slot.takes (t : Slot) (i : Instr) : Bool :=
  match i with
  | .ldf _ _ sel => loadSelOk t sel.toNat
  | .stf _ _ sel => storeSelOk t sel.toNat
  | .tbump _ _ k => t.traceEn k.toNat
  | .decay _ _ _ k1 _ => k1 ≠ 0
  | _ => true

/-- The status of one instruction word in a population (R85). -/
def Slot.insnStatus (t : Slot) (w : Word) : Byte :=
  if !opKnown (opOf w) then St.badOpcode else need ((decodeInsn 0 w).any t.takes)

/-- The status of a program (R85). -/
def Slot.progStatus (t : Slot) : Byte :=
  let ops := t.prog.map opOf
  allOf (t.prog.map t.insnStatus ++
    [need (ops.getLast? = some 0x3F && ops.count 0x3F = 1 && ops.count 0x10 ≤ 1 &&
      (ops.count 0x10 = 0 || (ops.takeWhile (fun o => o ≠ 0x10)).all (fun o => o ≠ 0x11 && o ≠ 0x12)))])

/-- The status of a slot image of `len` bytes (R67, R85). -/
def Slot.status (t : Slot) (len : Nat) : Byte :=
  if len < 64 ∨ len < imageLen t.header ∨ !t.headerOk then St.badOperand else t.progStatus

/-! ## Extents (R559), image sizes (R300) and reservations (R214) -/

/-- The populations of a binding on this device: core and slot. -/
def State.bindSlots (s : State) (b : Nat) : List (Nat × Nat) :=
  (s.core.slots.filter (fun p => p.2.valid && p.2.binding.toNat = b)).map (fun p => (p.1 / 64, p.1 % 64))

/-- Bytes from STATE_BASE that the populations and row traces of a binding reach (R559). -/
def State.extent (s : State) (b : Nat) : Nat :=
  let pops := (s.bindSlots b).map (fun p => let t := s.slotAt p.1 p.2; t.poff.toNat + t.nLocal * t.stride)
  let rts := (s.bindingRules b).map (fun p =>
    let r := s.rule p.1 p.2
    let d := s.mat p.1 p.2
    (s.slotAt p.1 d.tslot).poff.toNat + r.rtOff + round16 (d.nrows * r.nrt))
  (pops ++ rts).foldl max 0

/-- The status of placing a state of `n` bytes (R559): NOT_BOUND where the named core or bank is not bound to the binding, as no bank of a
system slice ever is (R25), BAD_OPERAND where the extent passes the end. -/
def State.placeStatus (s : State) (b : Nat) (res : BitVec 2) (base n : Nat) : Byte :=
  let k := base / 2 ^ 40
  if res = 0 then
    if !((s.cor k).bound && (s.cor k).binding.toNat = b) then St.notBound else need (base % 2 ^ 24 + n ≤ 0xC00000)
  else if 28 ≤ k ∨ !s.sliceOwned b k (base % 2 ^ 23) 1 then St.notBound
  else need (s.sliceOwned b k (base % 2 ^ 23) n)

/-- The extents of every resident context of a binding (R559). -/
def State.extentsStatus (s : State) (b : Nat) : Byte :=
  allOf ((s.ctxsOf b).map (fun p => if p.2.res = 2 then St.ok else s.placeStatus b p.2.res p.2.base.toNat (s.extent b)))

/-- Bytes of a context image on this device (R300): its neuron state (DEDUCED, log entry 12). -/
def State.imageSize (s : State) (b : Nat) : Nat := (s.extent b + 63) / 64 * 64
/-- CMD_BND_IMGSZ of a binding takes the size of an image: as a LOADPROG or LOADRULE takes effect (R300). -/
def State.imgszNow (s : State) (b : Nat) : State := s.rset (Reg.cmdBndImgsz b) (BitVec.ofNat 32 (s.imageSize b))

/-- The most records an encoder instance emits per step and target (R245). -/
def Chan.maxRecs (c : Chan) : Nat :=
  if c.kind = 4 then c.width * c.npop else if c.kind = 5 then 37 * c.width else c.width

/-- E of R214: over the routes and channels of this device, and for a binding that spans other devices what theirs can bring, a free
value (DESIGN CHOICE, log entry 66). -/
def State.spillRecords (s : State) (b : Nat) : Nat :=
  let routes := ((s.bindSlots b).filter (fun p => s.routeSlot p.1 p.2 / 2 ^ 31 = 1)).map (fun p =>
    let entries := (List.range (s.slotAt p.1 p.2).nLocal).flatMap (fun i =>
      let x := s.routeIndex p.1 p.2 i
      (List.range x.2).map (fun k => x.1 + k))
    let here := entries.filter (fun u => (s.localOf (s.leAt (routeUnit p.1 u) 8 % 2 ^ 10)).isSome)
    here.length * ((s.ctxsOf b).filter (fun c => c.2.res ≠ 2 && c.2.onCore p.1)).length)
  let encs := (s.chansOf b false).map (fun h =>
    let c := s.chan h
    (c.targets.filter (fun i => (s.localOf (c.tgtCore i)).isSome)).length * (s.chanCtxs h).length * c.maxRecs)
  routes.sum + encs.sum +
    (if (s.bnd b).mask &&& ~~~(BitVec.ofNat 64 (2 ^ s.sys.myDev.toNat)) = 0 then 0 else Config.peerRecords b s.free)

/-- The pages binding `b` reserves (R214). -/
def State.spillNeed (s : State) (b : Nat) : Nat :=
  (64 * s.spillRecords b + 511) / 512 + 64 * ((List.range 16).filter (fun n => (s.cor n).bound && (s.cor n).binding.toNat = b)).length

/-- Whether a binding is this device's alone. -/
def State.alone (s : State) (b : Nat) : Bool := (s.bnd b).mask &&& ~~~(BitVec.ofNat 64 (2 ^ s.sys.myDev.toNat)) = 0

/-- Whether the reservations of binding `b`, as the state stands, fit in the spill area here and on its other devices (R214). -/
def State.spillFits (s : State) (b : Nat) : Bool :=
  s.spillReserved - (s.bnd b).spill + s.spillNeed b ≤ 4194304 && (s.alone b || Config.peerRoom b s.tmr.tb.toNat)
/-- The reservation is made; a device's share follows what the other devices load as well (R214): it is made anew at each step's end. -/
def State.reserve (s : State) (b : Nat) : State := s.setBnd b { s.bnd b with spill := s.spillNeed b }

/-! ## Matrices (R93) -/

/-- Synapse-store ranges in use on core `n`: resident matrices other than `m`, and declared berths. -/
def State.storeRanges (s : State) (n m : Nat) : List (Nat × Nat) :=
  ((s.matsOf n).filter (fun k => k ≠ m && !(s.mat n k).streamed)).map (fun k =>
    ((s.mat n k).base, (s.mat n k).nrows * (s.mat n k).stride)) ++
  [(s.cor n).berth0, (s.cor n).berth1].filterMap (fun x =>
    if x.lines = 0 then none else some (x.base.toNat * 4096, x.lines.toNat * 4096))

/-- Whether two ranges meet. -/
def meets (a la b lb : Nat) : Bool := decide (a < b + lb) && decide (b < a + la)

/-- The status of a matrix descriptor with VALID 1 for matrix `m` of core `n` (R92, R93, R282). -/
def State.matStatus (s : State) (b n m : Nat) (d : MatDesc) (rowFirst rowCount : Nat) : Byte :=
  let t := s.slotAt n d.tslot
  let size := d.nrows * d.stride
  let others := (s.matsOf n).filter (fun k => k ≠ m)
  need (d.reserved && d.binding = b && d.fmt ≤ 8 && 1 ≤ d.nrows && d.nrows ≤ 65536 && 1 ≤ d.ncol && d.ncol ≤ 8192 &&
    t.valid && t.binding.toNat = b && d.ncol = t.nLocal &&
    others.all (fun k => (s.mat n k).tslot ≠ d.tslot || (s.mat n k).accExp = d.accExp) &&
    d.nrows + (others.map (fun k => (s.mat n k).nrows)).sum ≤ 65536 && rowFirst + rowCount ≤ d.nrows &&
    (if d.streamed then d.base = 0 && d.haddr % 64 = 0 && rowCount = 0 && s.hbmOwned b d.haddr size
     else d.haddr = 0 && d.base % 16 = 0 && d.base + size ≤ 0x3000000 &&
      (s.storeRanges n m).all (fun r => !meets d.base size r.1 r.2)))

/-! ## Conversion control words (R127, R146) -/

/-- A CVTW without a reserved value, and with CARRY in a blocked format only (R146). -/
def cvtWell (w : Nat) : Bool :=
  w / 2 ^ 12 = 0 && w / 32 % 2 = 0 && cvtRescue w ≤ 32 && cvtFmt w ≤ 8 && !(cvtCarry w && 7 ≤ cvtFmt w)
/-- A CVTW whose format is one of `fmts` (R127, R146). -/
def cvtOk (w : Nat) (fmts : List Nat) : Bool := cvtWell w && decide (cvtFmt w ∈ fmts)
/-- A positive normal FP16. -/
def fp16Positive (c : Nat) : Bool := 0x0400 ≤ c && c < 0x7C00
/-- A finite FP16. -/
def fp16Finite (c : Nat) : Bool := c / 2 ^ 10 % 32 ≠ 31

/-! ## Rules (R160-R162, R557) -/

/-- Reserved bits of a rule entry are 0 (R160). Term words at NTERMS and above count as reserved, in a removal too, although R557 ignores every
other field (DESIGN CHOICE, log entry 70). -/
def RuleDesc.reservedOk (r : RuleDesc) : Bool :=
  let w := fun k => r.w.getD k 0
  onlyBits (w 0) 0xFFFFF0FF && onlyBits (w 1) 0x1FFFFFFF && onlyBits (w 3) 0xFFFF && onlyBits (w 7) 0x7FFFFF &&
  onlyBits (w 8) 0xFFFFFF && onlyBits (w 9) 0xFFFFFF && onlyBits (w 11) 0xFFFFFF && onlyBits (w 13) 0x01FF011F &&
  onlyBits (w 14) 0x03FF07FF && onlyBits (w 15) 0x1FFFF && onlyBits (w 16) 0x0FFF0FFF && onlyBits (w 17) 0x3FFFF &&
  (List.range 6).all (fun k => w (18 + k) = 0) && (List.range 8).all (fun k =>
    if k < r.nterms then fieldOf (w (24 + k)) 0 4 = 0 else w (24 + k) = 0)

/-- The fields of a rule entry are in range (R160, R161). -/
def RuleDesc.fieldsOk (r : RuleDesc) : Bool :=
  r.opt ≤ 2 && r.bound ≤ 2 && 1 ≤ r.nterms && r.nterms ≤ 8 && r.nrt ≤ 2 && 1 ≤ r.epochLen && r.shardLog2 ≤ 18 &&
  cvtOk r.cvtD [3, 5, 6] && cvtOk r.cvtM [3, 5, 6] && cvtOk r.cvtS [3, 5, 6] && fp16Positive r.eta &&
  1 ≤ r.bsh1 && r.bsh1 ≤ 15 && 1 ≤ r.bsh2 && r.bsh2 ≤ 15 && fp16Finite r.wMin && fp16Positive r.normTarget &&
  (List.range 2).all (fun i => 1 ≤ r.rtDecay i && r.rtDecay i ≤ 15 && 1 ≤ r.rtBump i) && 1 ≤ r.ovlRows &&
  r.rtOff % 16 = 0 && r.dbase % 64 = 0 && r.dslice ≤ 27 && 1 ≤ r.nsh && r.nsh ≤ 256 && 1 ≤ r.gsize && r.gsize ≤ 1024 &&
  r.gindex < r.gsize && r.ownCount ≤ 32 &&
  r.terms.all (fun x => x.trig ≤ 2 && x.psel ≤ 2 && x.qsel ≤ 4 && x.msel ≤ 4 && (x.tgt = 0 || r.dlearn) && x.psel ≤ r.nrt)

/-- The delta regions in use on this device, but for rule `m` of core `n`: base address and size. -/
def State.deltaRegions (s : State) (n m : Nat) : List (Nat × Nat) :=
  (List.range 16).flatMap (fun k => ((s.rulesOf k).filter (fun j => !(k = n && j = m))).map (fun j =>
    ((s.rule k j).region k, (s.rule k j).size (s.mat k j))))

/-- The status of a rule entry with VALID 1 for matrix `m` of core `n` (R162). -/
def State.ruleStatus (s : State) (b n m : Nat) (r : RuleDesc) : Byte :=
  let d := s.mat n m
  let t := s.slotAt n d.tslot
  let size := r.size d
  let a := r.region n
  worse
    (need (r.reservedOk && r.matrix = m && r.binding = b && r.fieldsOk && cvtOk r.cvtW [d.fmt] && d.valid && d.binding = b &&
      r.terms.all (fun x => x.qsel = 0 || t.traceEn (x.qsel - 1)) &&
      (!r.overlap || (d.nrows + r.ovlRows - 1) / r.ovlRows ≤ r.epochLen) &&
      r.segBase ≤ r.ownFirst && r.ownFirst + r.ownCount ≤ r.segBase + (d.ncol + 255) / 256 &&
      r.dbase + size ≤ 0x800000 &&
      (r.dloc ≠ 1 || s.rfield (Reg.slcCfg r.dslice) 0 2 = 1 || r.dbase % 0x200000 + size ≤ 0x200000) && (s.deltaRegions n m).all (fun x => !meets a size x.1 x.2) &&
      (s.ctxsOf b).all (fun p => !p.2.onCore n || p.2.cstep.toNat ≤ r.epochBase)))
    (if r.dloc = 1 ∧ r.dslice ≤ 27 ∧ r.dbase + size ≤ 0x800000 then owned (s.sliceOwned b r.dslice r.dbase size) else St.ok)

/-! ## Routes (R203-R205) -/

/-- The status of loading `units` units (as numbers) at `first` for slot `t` of core `n` (R205). -/
def State.routeStatus (s : State) (b n t idx first : Nat) (units : List Nat) : Byte :=
  let p := s.slotAt n t
  let last := first + units.length
  let at' := fun (u : Nat) => units.getD (u - first) 0
  let inside := fun (u : Nat) => first ≤ u && u < last
  let index := (List.range p.nLocal).map (fun i => at' (idx + i / 2) / 2 ^ (32 * (i % 2)) % 2 ^ 32)
  let idxIn := (List.range ((p.nLocal + 1) / 2)).all (fun i => inside (idx + i))
  let named := index.flatMap (fun w => (List.range (w / 2 ^ 17 % 2 ^ 11)).map (fun k => w % 2 ^ 17 + k))
  let entries := (named.filter inside).map at'
  let clear := (List.range 64).all (fun k => k = t || !meets first units.length (s.units n k).1 (s.units n k).2)
  worse
    (need (p.valid && p.binding.toNat = b && 32 ≤ first && last ≤ 117760 && idxIn && named.all inside &&
      index.all (fun w => w / 2 ^ 28 = 0) && entries.all (fun e =>
        e / 2 ^ 42 % 16 = 0 && (e / 2 ^ 40 % 2 = 1 || e / 2 ^ 46 = 0) && decide (e % 2 ^ 10 < s.sysSize)) &&
      (p.nLocal % 2 = 0 || at' (idx + p.nLocal / 2) / 2 ^ 32 = 0) && clear))
    (owned (entries.all (fun e => !s.foreignCore b (e % 2 ^ 10))))

/-! ## Channels (R235, R236) -/

/-- Reserved bits of a channel descriptor are 0 (R235). -/
def Chan.reservedOk (c : Chan) : Bool :=
  let w := fun k => c.desc.getD k 0
  let masks : List Nat := if c.dec then
      [0xFFF000FF, 0x07FFFFFF, 0xFF1FFFFF, 0x0FFFFFFF, 0x1FFFFFFF, 0x0FFFFFFF, 0xFFFFFFFF, 0xFFFFFFFF, 0xFFFFFFFF, 0x00FFFFFF,
       0, 0, 0, 0, 0, 0x7FFFF]
    else
      [0xFFF000FF, 0x07FFFFFF, 0xFF1FFFFF, 0x0FFFFFFF, 0xFFFFFFFF, 0x0007FFFF, 0x00FFFFFF, 0xFFFFFFFF, 0x01FFFFFF, 0x01FFFFFF,
       0x01FFFFFF, 0x01FFFFFF, 0xFFFFFFFF, 0xFFFFFFFF, 0x3FF, 0x7FFFF]
  (List.range 16).all (fun k => onlyBits (w k) (masks.getD k 0))

/-- Whether a system core is a core of binding `b` on this device (R236). -/
def State.homeOk (s : State) (b k : Nat) : Bool :=
  match s.localOf k with
  | some n => (s.cor n).bound && (s.cor n).binding.toNat = b
  | none => false

/-- The fields of a decoder are in range (R235). IFMT of a decoder, and the window and K of the kinds that do not use them, are not checked
(DESIGN CHOICE, log entry 70). -/
def Chan.decoderOk (c : Chan) (bytes : Nat) : Bool :=
  c.pop = 0 && c.kind ≤ 3 && c.width ≤ 64 && c.npop = 0 && c.gsh ≤ 47 && (c.kind ≠ 1 || 1 ≤ c.expShift) &&
  1 ≤ c.slew && c.slew < 2 ^ 31 && 1 ≤ c.holdSteps &&
  (c.kind ≠ 2 || 192 ≤ bytes)

/-- The fields of an encoder are in range (R235, R236). -/
def Chan.encoderOk (c : Chan) : Bool :=
  let pop := c.kind = 4
  let rates := c.kind = 0 || c.kind = 1 || c.kind = 4
  let top := if c.kind = 3 then 2 * c.width else if pop then c.width * c.npop else c.width
  c.kind ≤ 5 && c.width ≤ 1024 && (if pop then decide (2 ≤ c.npop ∧ c.npop ≤ 64 ∧ c.width * c.npop ≤ 8192) else c.npop = 0) &&
  2 ≤ c.ifmt && c.ifmt ≤ 8 && (!rates || 1 ≤ c.rmax) &&
  (if c.kind = 3 then decide (1 ≤ c.param) else c.kind = 2 || c.param = 0) &&
  c.waitMax ≤ 750000000 && c.targets ≠ [] && c.targets.all (fun i => c.rowBase i + top ≤ 65536) &&
  fp16Finite c.xmin && fp16Finite c.xinv

/-- The status of a channel descriptor with VALID 1 (R236). The format of its CVTW is checked where CONV is 1 (DEDUCED, log entry 69), and a
PMODE outside POP is not checked, as the kinds that do not use it ignore it. -/
def State.chanStatus (s : State) (b : Nat) (c : Chan) (bytes : Nat) : Byte :=
  let size := 256 + c.nctx * c.sbytes
  let room := if s.rfield (Reg.slcCfg c.sslice) 0 2 = 1 then 0x800000 - c.soff else 0x200000 - c.soff % 0x200000
  let zok := if c.conv && cvtFmt c.cvt = 2 then decide (-8 ≤ c.zout ∧ c.zout ≤ 7) else (c.conv && cvtFmt c.cvt = 3) || c.zout = 0
  worse
    (need (c.reservedOk && c.f 0 20 6 = b && 1 ≤ c.width && c.f 1 25 2 ≤ 1 && cvtWell c.cvt &&
      (if c.dec then c.decoderOk bytes && s.homeOk b c.srcCore
       else c.encoderOk && s.homeOk b c.hcore && c.targets.all (fun i => decide (c.tgtCore i < s.sysSize))) &&
      (!c.conv || cvtOk c.cvt [2, 3, 4, 5, 6, 7, 8]) && zok && c.soff % 64 = 0 && c.sslice ≤ 27 && size ≤ room &&
      1 ≤ c.nctx && c.nctx ≤ 262144))
    (owned ((28 ≤ c.sslice || s.sliceOwned b c.sslice c.soff (min room size)) &&
      (c.dec || c.targets.all (fun i => !s.foreignCore b (c.tgtCore i)))))

end Sys2Proof.Machine
end

