-- ==== Sys2Proof/Machine/Sequencer.lean ====
section
/-! DEFINITION. Machine/Sequencer.lean: the step sequencer (R30-R54, R221-R225, R269, R283-R285): admission, slots, the step buoy,
the end of a step, stretching, overruns and HALT. -/

namespace Sys2Proof.Machine

/-- Devices of a mask (R276). -/
def maskDevs (m : Word64) : List Nat := (List.range 64).filter (fun d => m.getLsbD d)
/-- D, the devices of a binding (R36). -/
def Binding.nDevs (b : Binding) : Nat := (maskDevs b.mask).length
/-- Whether this device is the binding's lead (R36, R276). -/
def State.isLead (s : State) (b : Nat) : Bool := (s.bnd b).lead = s.sys.myDev
/-- The other devices of a binding that this device reaches. -/
def State.others (s : State) (b : Nat) : List Nat :=
  (maskDevs (s.bnd b).mask).filter (fun d => d ≠ s.sys.myDev.toNat && !s.sys.lost.contains d)
/-- A broadcast to the other devices of a binding on VC0 (R36, R222). -/
def State.toMembers (s : State) (b : Nat) (o : Out) : State := s.toDevices (s.others b) 4 1 o
/-- The cores of binding `b` on this device. -/
def State.coresOf (s : State) (b : Nat) : List Nat :=
  (List.range 16).filter (fun n => (s.cor n).bound && (s.cor n).binding.toNat = b)

/-! ## Time (R37, R41) -/

/-- Nanoseconds that `n` ACLK take, rounded up. -/
def nsOf (aclk : Nat) : Nat := (aclk * 4 + 2) / 3
/-- The boundary bound for a binding's span (R37), in ns; it grows by 2.4 µs for each hop beyond two of the system's longest primary path
(R367). -/
def boundaryBound (d longest : Nat) : Nat := if d ≤ 1 then 16 else (if d ≤ 16 then 3000 else 6000) + 2400 * (longest - 2)
/-- The first slot after instant `t` (R41). -/
def slotAfter (t phase period : Nat) : Nat :=
  if period = 0 then t + 1 else t + (period - (t + period - phase % period) % period)
/-- The first slot at or after instant `t`. -/
def slotFrom (t phase period : Nat) : Nat := if t = 0 then (if phase = 0 then 0 else phase) else slotAfter (t - 1) phase period
def State.setTb (s : State) (t : Nat) : State := { s with tmr := { s.tmr with tb := BitVec.ofNat 64 t } }

/-- The most recently written configuration (R45, R49). -/
def State.regMode (s : State) (b : Nat) : Nat := s.rfield (Reg.cmdStepCtrl b) 0 2
def State.regLen (s : State) (b : Nat) : Nat := (s.rget (Reg.cmdStepLen b)).toNat
def State.regPeriod (s : State) (b : Nat) : Nat := (s.rget (Reg.cmdStepLockPeriod b)).toNat
def State.regPhase (s : State) (b : Nat) : Nat := (s.rget (Reg.cmdStepLockPhase b)).toNat

/-! ## Starting a step -/

/-- Opcodes exempt from the wait of R269: STEP, RUN, BERTH, WATCH, APPLY and HINT. -/
def startExempt (op : Byte) : Bool := op = 0x20 || op = 0x21 || op = 0x25 || op = 0x42 || op = 0x24 || op = 0x80

/-- Whether the first step of a STEP or RUN may start: every earlier command of its stream has completed (R269). -/
def State.earlierDone (s : State) (q : StepCmd) : Bool :=
  q.ran ≠ 0 || ((s.strm q.hdr.stream.toNat).outst.all (fun o => !(o.cseq.toNat < q.cseq.toNat) || startExempt o.opcode) &&
    (s.strm q.hdr.stream.toNat).held.all (fun x => !(x.1.toNat < q.cseq.toNat)))

/-- A fill of matrix `m` of core `n` is under way (R119, R282). -/
def State.filling (s : State) (n m : Nat) : Bool :=
  [(s.cor n).berth0, (s.cor n).berth1].any (fun x => x.cur.any (fun q => q.matrix.toNat = m))

/-- Whether no context of the rules of a group lies inside an epoch that has started and has not been applied (R286). -/
def State.epochClear (s : State) (b g : Nat) : Bool :=
  (s.groupRules b g).all (fun p =>
    let r := s.rule p.1 p.2
    (s.memberCtxs p).all (fun c => c.2.cstep.toNat ≤ r.epochBase + (s.red p.1 p.2).epoch * r.epochLen)) && (s.peerAsk b g).getLsbD 1

/-- EPOCH_LEN and EPOCH_BASE of every rule of a GROUP on this device (R286). -/
def State.epochSet (s : State) (b g len : Nat) (base : BitVec 48) : State :=
  let s := s.forAll (s.groupRules b g) (fun s p =>
    let a := ruleAddr p.1 p.2
    let w1 := s.leAt (a + 4) 4
    let s := (s.putLe (a + 4) 4 (w1 / 2 ^ 24 * 2 ^ 24 + len)).putLe (a + 8) 6 base.toNat
    s.setRed p.1 p.2 { s.red p.1 p.2 with epoch := 0 })
  s.regate b
/-- The epochs that a broadcast of the lead brings (R283). -/
def State.epochsIn (s : State) (b : Nat) (l : List (BitVec 8 × BitVec 24 × BitVec 48)) : State :=
  s.forAll l (fun s e => s.epochSet b e.1.toNat e.2.1.toNat e.2.2)

/-- Whether a rule's apply window is open, in PART included (R184). -/
def State.ruleOpen (s : State) (n m : Nat) : Bool := s.ruleState (n, m) = 2 || s.ruleState (n, m) = 3
/-- Whether a flow or a fill is under way on circuit `c` (R279, R385). -/
def State.circBusy (s : State) (c : Nat) : Bool :=
  (s.circ c).flows ≠ [] || s.core.cores.any (fun p =>
    [p.2.berth0, p.2.berth1].any (fun y => y.cur.any (fun q => q.circuit.toNat = c)))

/-- Whether an earlier COPY of the stream with an overlapping destination has writes left, at a boundary, on a circuit other than `on`, or
for a circuit on VC2, whose packets keep their order among themselves (R271). -/
def State.copyBehind (s : State) (b : Nat) (stream : BitVec 8) (cseq : Word64) (dst : Word64) (len : Nat) (on : Option Nat) : Bool :=
  let hits := fun (m : Word64) (n : Nat) =>
    mrSpace m = mrSpace dst && mrSpace m ≠ 4 && m.toNat / 2 ^ 38 = dst.toNat / 2 ^ 38 && meets m.toNat n dst.toNat len
  (s.bnd b).boundary.any (fun d => match d.cmd with
    | .copy h kind _ _ _ _ m n _ _ => kind = 0 && h.stream = stream && decide (d.cseq.toNat < cseq.toNat) && hits m n.toNat
    | _ => false) ||
  s.cmd.far.any (fun f => f.hdr.stream = stream && decide (f.cseq.toNat < cseq.toNat) && f.opcode = 0x30 && on.isSome && hits f.dst f.len) ||
  s.fab.circuits.any (fun c => some c.1 ≠ on && c.2.flows.any (fun f =>
    f.cmd.any (fun k => k.1.stream = stream && decide (k.2.toNat < cseq.toNat)) && f.chunks.any (fun q => hits q.2.1 q.2.2.length)))
/-- Whether a COPY takes its turn on a circuit: the circuit is up, or in PACKET with flows or fills of earlier commands left (R289, R384). -/
def State.onCircuit (s : State) (c : Nat) : Bool :=
  s.circuitUp c || ((s.circ c).bound && s.circState c = 3 && ((s.circ c).flows ≠ [] || s.fillAhead c s.cmd.issues))
/-- The circuit a COPY runs on, if it does (R289). -/
def State.copyCircuit (s : State) (circuit : Nat) (use : Bool) : Option Nat := if use && s.onCircuit circuit then some circuit else none

/-- Whether a boundary command may take effect at the present boundary of binding `b` (R163, R270, R271, R279-R282, R286, R557). -/
def State.deferReady (s : State) (b : Nat) (d : Deferred) : Bool :=
  let x := s.bnd b
  match d.cmd with
  | .snapshot _ t _ _ => !x.windowOpen && (s.bindingRules b).all (fun p => !s.ruleOpen p.1 p.2) && (t = BitVec.allOnes 48 || t.toNat ≤ x.step.toNat)
  | .epoch _ g _ _ => !x.windowOpen && s.epochClear b g.toNat
  | .park _ count first _ _ => (s.ctxsOf b).all (fun p =>
      !p.2.gated || p.1 < first.toNat || first.toNat + count.toNat ≤ p.1)
  | .loadrule _ core m _ => match s.localOf core.toNat with
    | some n => !s.ruleOpen n m.toNat
    | none => true
  | .loadmat _ core m _ _ _ _ => match s.localOf core.toNat with
    | some n => !s.filling n m.toNat && !s.ruleOpen n m.toNat
    | none => true
  | .unbind _ kind count first =>
    if kind = 1 then !x.windowOpen
    else if kind = 0xF then !x.windowOpen && (List.range 256).all (fun c =>
      !((s.circ c).bound && (s.circ c).binding.toNat = b && s.circBusy c))
    else if kind = 7 then (List.range count.toNat).all (fun i => !s.circBusy (first.toNat + i))
    else true
  | .copy h kind _ _ _ _ dst len circuit use =>
    kind ≠ 0 || !s.copyBehind b h.stream d.cseq dst len.toNat (s.copyCircuit circuit.toNat use)
  | _ => true

/-- Whether an overlap apply holds the start of the binding's next step (R190): a rule here whose contexts would enter an epoch before the
window of the epoch that ended has opened, or of which an earlier window is still open; or a delay vote that the step must read (R188) has
not been made. A window opens only at a boundary, so the step waits there and not in phase 1 (DESIGN CHOICE, log entry 70). -/
def State.ovlHold (s : State) (b : Nat) : Bool :=
  (s.bindingRules b).any (fun p =>
    let r := s.rule p.1 p.2
    let x := s.red p.1 p.2
    let cs := ((s.memberCtxs p).filter (fun c => c.2.active)).map (fun c => c.2.cstep.toNat)
    let c := cs.foldl min (cs.headD 0)
    r.overlap && cs ≠ [] &&
      ((decide (r.epochBase ≤ c) && decide (x.epoch + (if x.ovl then 1 else 0) < (c - r.epochBase) / r.epochLen)) ||
       (r.dlearn && x.ovl && decide (s.voteStep p.1 p.2 ≤ (s.bnd b).step.toNat) &&
         !(s.voteTargets b p.2 r.group).all (fun t => x.voted.contains t))))

/-- Whether an apply window is due that holds the next start: of a group with rules here, or of one on other devices only (R177). -/
def State.anyDue (s : State) (b : Nat) : Bool := (s.groupsOf b).any (s.groupDue b) || (s.farGroups b).any (s.farDue b)

/-- Whether nothing at this boundary holds the next start of binding `b`: no step running, no boundary command that may take effect
and no apply window left (R177, R190, R270), no quiesce (R44), no HALT. -/
def State.boundaryClear (s : State) (b : Nat) : Bool :=
  let x := s.bnd b
  x.valid && !x.running && !x.windowOpen && !x.recovering && x.boundary.all (fun d => !s.deferReady b d) && !x.halting && !s.kpr.quiesce.wanted &&
  !s.anyDue b && !s.ovlHold b

/-- The STEP or RUN whose next step may start. -/
def State.nextStep (s : State) (b : Nat) : Option StepCmd :=
  ((s.bnd b).queue.find? (fun q => q.left ≠ some 0)).filter (fun q => s.earlierDone q)

/-- Writes a TIMESTAMP sample at its destination and completes it (R293). -/
def State.sample (s : State) (x : Hdr × Word64 × Word64) (b : Nat) : State :=
  let bytes := leBytes 8 s.tmr.tb.toNat ++ leBytes 6 (s.bnd b).step.toNat ++ [0, 0]
  s.writeDone b x.1 x.2.1 0x71 x.2.2 bytes 0

/-- The step of binding `b` starts on this device: the written configuration comes into force (R45), modulators are latched (R59),
cores receive START, which opens their clocks (R446), and samples WHEN 1 are taken (R293). -/
def State.beginStep (s : State) (b : Nat) : State :=
  let x := s.bnd b
  let s := s.setBnd b { x with
    running := true, covered := (s.nextStep b).map (fun q => q.hdr.stream), gates := [], waitSlot := false, slotAt := 0, signalled := false, overran := false, samples := []
    startedAt := s.tmr.tb, modeIn := BitVec.ofNat 2 (s.regMode b), lenIn := BitVec.ofNat 32 (s.regLen b)
    periodIn := BitVec.ofNat 32 (s.regPeriod b), phaseIn := BitVec.ofNat 32 (s.regPhase b)
    limitIn := BitVec.ofNat 8 (s.rfield (Reg.cmdStepCtrl b) 8 8)
    extraIn := BitVec.ofNat 24 (s.ptbStretch x.step.toNat), rampIn := BitVec.ofNat 6 (s.rfield Reg.pgvCtrl 16 6) }
  let s := s.forAll ((s.ctxsOf b).filter (fun p => p.2.active)) (fun s p =>
    s.setCtx p.1 { p.2 with lat0 := p.2.mod0, lat1 := p.2.mod1, lat2 := p.2.mod2, lat3 := p.2.mod3 })
  let s := s.forAll (s.coresOf b) (fun s n => s.setCor n { s.cor n with phase := .idle })
  let phys := (s.coresOf b).map s.physCore
  let s := { s with ltn := { s.ltn with gated := s.ltn.gated.filter (fun p => !phys.contains p) } }
  s.forAll x.samples (fun s p => s.sample p b)

/-- The next step starts if nothing holds it: at once in free-run mode (R40), on a slot in locked mode (R41). -/
def State.tryStart (s : State) (b slot : Nat) : State :=
  if s.boundaryClear b && (s.nextStep b).isSome then
    if s.regMode b = 1 then s.setBnd b { s.bnd b with waitSlot := true, slotAt := BitVec.ofNat 64 slot } else s.beginStep b
  else s

/-- The slot a broadcast names in locked mode (R222, R224): the first no sooner than now plus the bound; 0 in free-run mode. -/
def State.namedSlot (s : State) (b : Nat) : Nat :=
  if s.regMode b = 1 then slotFrom (s.tmr.tb.toNat + boundaryBound (s.bnd b).nDevs s.sys.longest) (s.regPhase b) (s.regPeriod b) else 0

/-- A broadcast of the lead that tells members the epochs set since the last one (R283). -/
def State.tellStart (s : State) (b : Nat) (o : List (BitVec 8 × BitVec 24 × BitVec 48) → Out) : State :=
  if 1 < (s.bnd b).nDevs then
    (s.setBnd b { s.bnd b with epochsOut := [] }).toMembers b (o (s.bnd b).epochsOut)
  else s

/-- STEP_ADMIT (R222): the lead admits the first step after idle and broadcasts a start; on a member it starts a step whose start
was held by a boundary command. A start that waits for a slot goes at once when MODE has become free-run (R45). -/
def State.stepAdmit (s : State) (b : Nat) : State :=
  let x := s.bnd b
  if s.isLead b then
    if !s.boundaryClear b || (s.nextStep b).isNone then s
    else if x.waitSlot then (if s.regMode b = 0 then s.beginStep b else s)
    else
      let slot := s.namedSlot b
      (s.tellStart b (.stepStart (BitVec.ofNat 6 b) x.step (BitVec.ofNat 64 slot))).tryStart b slot
  else if x.waitSlot && s.boundaryClear b && s.regMode b = 0 then s.beginStep b else s

/-- START_BROADCAST_RECEIPT (R222): a member starts the step, on its slot in locked mode. -/
def State.startReceipt (s : State) (b : Nat) (slot : Word64) (epochs : List (BitVec 8 × BitVec 24 × BitVec 48)) : State :=
  let s := if (s.bnd b).valid && !(s.bnd b).running && !s.isLead b then s.epochsIn b epochs else s
  let x := s.bnd b
  if !x.valid || x.running || s.isLead b then s
  else if s.boundaryClear b && s.regMode b = 0 then s.beginStep b
  else s.setBnd b { x with waitSlot := true, slotAt := slot }

/-! ## Overruns (R42, R43, R224) -/

/-- The step overruns: status, counts, the lead's source 201 + s, OVERRUN for the covering command; at OVERRUN_LIMIT the decoders
ramp. A step that has ended overruns where its successor's start is held past a slot (R44, R177): its command takes the status while it
is in the step queue. -/
def State.overrun (s : State) (b : Nat) : State :=
  let x := s.bnd b
  if x.overran then s
  else
    let s := s.setBnd b { x with overran := true }
    let s := s.rsetBit (Reg.cmdStepStatus b) 0 true
    let s := (s.satAdd (Reg.cmdStepOverrun b) 0 24 1).satAdd (Reg.cmdStepOverrun b) 24 8 1
    let s := if x.limitIn.toNat ≤ s.rfield (Reg.cmdStepOverrun b) 24 8 then s.rsetBit (Reg.cmdStepStatus b) 3 true else s
    let s := match x.covered with
      | some h => if s.isLead b then s.raise (201 + h.toNat) else s
      | none => s
    if x.running || x.queue.head?.any (fun q => q.ran ≠ 0) then s.stepStatus b St.overrun else s

/-- LOCKED_SLOT (R41, R42, R44): the timebase reaches the next slot instant of the binding. A waiting step starts on it; a step
still running overruns; a start held past it counts as an overrun of the preceding step. A step whose start names a slot (R222, R224)
waits for that slot. -/
def State.lockedSlot (s : State) (b : Nat) : State :=
  let x := s.bnd b
  if !x.valid then s
  else if x.running then
    if x.modeIn ≠ 1 then s
    else
      let s := s.setTb (slotAfter s.tmr.tb.toNat x.phaseIn.toNat x.periodIn.toNat)
      (s.overrun b).updateInstant b
  else
    let held := x.windowOpen || s.kpr.quiesce.wanted || s.anyDue b || s.ovlHold b
    if s.regMode b ≠ 1 || !(x.waitSlot || (held && (s.nextStep b).isSome)) then s
    else
      let s := s.setTb (slotAfter s.tmr.tb.toNat (s.regPhase b) (s.regPeriod b))
      if s.tmr.tb.toNat < x.slotAt.toNat then s
      else if x.waitSlot && s.boundaryClear b then s.beginStep b
      else if held then s.overrun b else s

/-! ## The step buoy (R36, R221) -/

/-- Conditions 1 and 2 of R34 on this device. -/
def State.stepDone (s : State) (b : Nat) : Bool :=
  (s.coresOf b).all (fun n => (s.cor n).phase = .done || (s.cor n).frozen) && (s.bnd b).outPkts = 0

/-- The buoy number of a step buoy (R221). -/
def stepBuoy (b : Nat) : Nat := 65472 + b

/-- The lead takes a signal that carries the current step number (R221), with the gates and the status of the device it comes from. Which
condition of R34 a one-device binding shows as its last in R225 is not the local signal but what that waited for: condition 1 or 2 (DESIGN
CHOICE, log entry 70). -/
def State.takeSignal (s : State) (b dev : Nat) (gates : List (BitVec 8 × Bool)) (status : Byte) : State :=
  let x := s.bnd b
  if x.signals.contains dev then s
  else
    let s := if status = St.ok then s else s.stepStatus b status
    let x := s.bnd b
    let s := s.setBnd b { x with
      signals := x.signals ++ [dev], gates := if dev = s.sys.myDev.toNat then x.gates else x.gates ++ gates }
    let s := s.setBuoy (stepBuoy b) (BitVec.ofNat 31 (x.signals.length + 1))
    if 1 < x.nDevs then s.heldLast b 2 dev 0 else s

/-- A signal reaches the sync unit of the lead: PTB_BUOYDLY with STEPBUOY holds it, else the lead takes it (R221, R535). -/
def State.stepSignalHere (s : State) (b : Nat) (dev : BitVec 6) (step : BitVec 20) (gates : List (BitVec 8 × Bool)) (status : Byte) : State :=
  if s.ptbStepBuoy then s.ptbHold (.step (BitVec.ofNat 6 b) dev step gates status) else s.takeSignal b dev.toNat gates status

/-- A held signal of a step buoy is performed: the lead takes it, if it still is of the current step (R221, R535). -/
def State.stepSignalDone (s : State) (b : Nat) (dev : BitVec 6) (step : BitVec 20) (gates : List (BitVec 8 × Bool)) (status : Byte) : State :=
  let x := s.bnd b
  if x.valid && s.isLead b && x.mask.getLsbD dev.toNat && step = x.step.truncate 20 then s.takeSignal b dev.toNat gates status else s

/-- The groups with a bound context of this device's shards, and whether each such context will stand at its gate when the step has ended
(R177, R221). -/
def State.gateHere (s : State) (b : Nat) : List (BitVec 8 × Bool) :=
  (s.groupsOf b).filterMap (fun g =>
    let cs := (s.groupRules b g).flatMap (fun p => (s.memberCtxs p).map (fun c =>
      decide ((s.rule p.1 p.2).gateStep (s.red p.1 p.2).epoch ≤ c.2.cstep.toNat + (if c.2.active then 1 else 0))))
    if cs = [] then none else some (BitVec.ofNat 8 g, cs.all id))

/-! ## HALT (R285) -/

/-- What HALT withdraws from a step queue: the steps left of each command; none of an unbounded RUN. -/
def withdrawn (q : List StepCmd) : Nat := (q.map (fun c => c.left.getD 0)).sum

/-- HALT at a boundary: the commands of the step queue complete with the steps they ran, then every HALT with the steps
withdrawn. -/
def State.haltNow (s : State) (b : Nat) : State :=
  let x := s.bnd b
  let w := withdrawn x.queue
  let s := s.setBnd b { x with queue := [], halting := false, haltBy := [], waitSlot := false }
  let s := s.forAll x.queue (fun s q => s.complete q.hdr q.cseq q.opcode q.status q.ran)
  s.forAll x.haltBy (fun s h => s.complete h.1 h.2.1 0x22 St.ok w)

/-- A HALT takes effect now when no step runs and no window is open, else at the next boundary (R285). -/
def State.haltBinding (s : State) (b : Nat) : State :=
  let x := s.bnd b
  let s := s.setBnd b { x with halting := true }
  if x.running || x.windowOpen then s else s.haltNow b

/-! ## The end of a step (R34, R36, R39, R225) -/

/-- Whether the apply of a group that reports to a STEP or RUN is due (R183). -/
def State.autoDue (s : State) (b g : Nat) : Bool :=
  (s.groupDue b g && (s.groupRules b g).any (fun p => s.reportsAuto p)) ||
  ((s.groupRules b g).isEmpty && (s.farGroups b).contains g && s.farDue b g && !(s.peerAsk b g).getLsbD 3)
/-- Whether it is due or under way. -/
def State.autoBusy (s : State) (b g : Nat) : Bool :=
  s.autoDue b g || (s.groupRules b g).any (fun p => s.reportsAuto p && s.ruleState p = 2) || (s.bnd b).farOpen.any (fun x => x.1.toNat = g && x.2)

/-- The last command of a step queue that has run a step takes the groups `g` that it waits for. -/
def waitLast (g : List (BitVec 8)) : List StepCmd → List StepCmd
  | [] => []
  | q :: r => if q.ran ≠ 0 && r.all (fun x => x.ran = 0) then { q with waits := q.waits ++ g } :: r else q :: waitLast g r

/-- Completes the commands of the step queue that have no step left: one whose last step ends an epoch of an AUTO rule with the apply of that
rule's group, which reports to it (R183, R284). -/
def State.finishSteps (s : State) (b : Nat) : State :=
  let x := s.bnd b
  let known := x.queue.flatMap (fun q => q.waits)
  let due := ((s.groupsOf b ++ s.farGroups b).filter (s.autoDue b)).map (BitVec.ofNat 8)
  let q := (waitLast (due.filter (fun g => !known.contains g)) x.queue).map (fun q =>
    { q with waits := q.waits.filter (fun g => s.autoBusy b g.toNat) })
  let done := q.filter (fun q => q.left = some 0 && q.waits = [])
  let s := s.setBnd b { x with queue := q.filter (fun q => !(q.left = some 0 && q.waits = [])) }
  s.forAll done (fun s q => s.complete q.hdr q.cseq q.opcode q.status q.ran)

/-- The command that covers a step counts it: the first with a step left. -/
def countStep : List StepCmd → List StepCmd
  | [] => []
  | q :: r => if q.left = some 0 then q :: countStep r else { q with ran := q.ran + 1, left := q.left.map (· - 1) } :: r

/-- Stretching (R39, R51). -/
def State.stretch (s : State) (b late : Nat) : State :=
  if late = 0 then s
  else ((s.count (Reg.cmdStepStretch b) 1).maxReg (Reg.cmdStepStretchMax b) late).rsetBit (Reg.cmdStepStatus b) 1 true

/-- Step t of the binding ends on this device: pending learning passes end (R164), the contexts that took part advance CSTEP
(R30), the step number advances, the covering command counts the step, delay votes that are due take effect (R188), contexts at a gate
are gated (R176), HALT takes effect. The time additions would wait for a pass that ends with the step is a free value (R164, log entry
61). -/
def State.endStep (s : State) (b : Nat) : State :=
  let s := s.forAll (s.coresOf b) (fun s n =>
    if (s.cor n).learnDue then (s.learningPass n).countFree (Reg.coreLrnWait n) else s)
  let x := s.bnd b
  let s := s.stretch b (aclkOf (s.tmr.tb.toNat - x.startedAt.toNat) - x.lenIn.toNat)
  let s := s.rset (Reg.fabRtrLast b) x.lastHeld
  let s := s.decodesDue b
  let s := s.forAll ((s.ctxsOf b).filter (fun p => p.2.active)) (fun s p => s.setCtx p.1 { p.2 with cstep := p.2.cstep + 1 })
  let s := if x.overran then s
    else (s.rsetField (Reg.cmdStepOverrun b) 24 8 0).rsetBit (Reg.cmdStepStatus b) 3 false
  let s := s.setBnd b { s.bnd b with
    running := false, step := x.step + 1, signals := [], signalled := false, queue := countStep (s.bnd b).queue }
  let s := s.setBuoy (stepBuoy b) 0
  let s := if s.alone b then s else s.reserve b
  let s := ((s.applyVotes b).regate b).finishSteps b
  if (s.bnd b).halting && !(s.bnd b).windowOpen then s.haltNow b else s

/-- STEP_BUOY_SIGNAL: this device signals once conditions 1 and 2 hold (R36), or a signal of another device reaches the lead. A member
whose lead is lost ends the step by itself (R382). -/
def State.buoySignal (s : State) (b : Nat) (dev : BitVec 6) (step : BitVec 20) (gates : List (BitVec 8 × Bool)) (status : Byte) : State :=
  let x := s.bnd b
  if !x.valid then s
  else if dev = s.sys.myDev then
    if !x.running || x.signalled || !s.stepDone b then s
    else
      let g := s.gateHere b
      let s := s.setBnd b { x with signalled := true, met := 0 }
      if s.isLead b then s.stepSignalHere b dev (x.step.truncate 20) g St.ok
      else if s.sys.lost.contains x.lead.toNat then s.endStep b
      else s.toDevice x.lead.toNat 4 1 (.stepSignal (BitVec.ofNat 6 b) x.lead (x.step.truncate 20) g x.met)
  else if s.isLead b && x.mask.getLsbD dev.toNat && step = x.step.truncate 20 then s.stepSignalHere b dev step gates status
  else s

/-- STEP_END: the buoy of the lead holds D and STEP_LEN has passed since the start (R34, R36): the timebase stands no sooner than
that. The lead takes D, broadcasts the end, ends the step, and starts the next when nothing holds it. Whether the step overran is judged
with the values it started with (R49, R224). -/
def State.stepEnd (s : State) (b : Nat) : State :=
  let x := s.bnd b
  if !x.valid || !x.running || !s.isLead b || x.signals.length < x.nDevs || x.nDevs = 0 then s
  else
    let due := x.startedAt.toNat + nsOf (x.lenIn.toNat + x.extraIn.toNat)
    let s := if s.tmr.tb.toNat ≤ due then (s.setTb due).heldLast b 3 0 0 else s
    let late := 1 < x.nDevs && x.modeIn = 1 &&
      slotAfter x.startedAt.toNat x.phaseIn.toNat x.periodIn.toNat <
        slotFrom (s.tmr.tb.toNat + boundaryBound x.nDevs s.sys.longest) x.phaseIn.toNat x.periodIn.toNat
    let s := if late then s.overrun b else s
    let slot := s.namedSlot b
    let gates := s.gateHere b ++ x.gates
    let s := s.endStep b
    let next := if s.boundaryClear b && (s.nextStep b).isSome then some (BitVec.ofNat 64 slot) else none
    (s.tellStart b (.stepEnd (BitVec.ofNat 6 b) x.step next gates)).tryStart b (if 1 < x.nDevs then slot else 0)

/-- The slot by which a member judges its overrun (R224): the one the broadcast names, where the values of the step are still those last
written; else the first from the receipt on under the values of the step (R49). -/
def State.judgedSlot (s : State) (b : Nat) (next : Option Word64) : Nat :=
  let x := s.bnd b
  let same := s.regMode b = 1 && s.regPeriod b = x.periodIn.toNat && s.regPhase b = x.phaseIn.toNat
  match next with
  | some t => if same then t.toNat else slotFrom s.tmr.tb.toNat x.phaseIn.toNat x.periodIn.toNat
  | none => slotFrom s.tmr.tb.toNat x.phaseIn.toNat x.periodIn.toNat

/-- STEP_END_RECEIPT: a member ends the step on receipt of the broadcast (R36), which tells it the gates of the other devices (R177); when
the lead goes on (`next`) it starts the next, on the named slot in locked mode (R224), where a later slot than the next means an
overrun. -/
def State.endReceipt (s : State) (b : Nat) (next : Option Word64) (gates : List (BitVec 8 × Bool))
    (epochs : List (BitVec 8 × BitVec 24 × BitVec 48)) : State :=
  let x := s.bnd b
  if !x.valid || !x.running || s.isLead b then s
  else
    let late := x.modeIn = 1 && slotAfter x.startedAt.toNat x.phaseIn.toNat x.periodIn.toNat < s.judgedSlot b next
    let s := if late then s.overrun b else s
    let s := s.endStep b
    let s := (s.setBnd b { s.bnd b with gates := gates }).epochsIn b epochs
    match next with
    | some slot => s.startReceipt b slot []
    | none => s

/-- APPLY_WINDOW_CLOSE (R182): the window closes; contexts that leave the gate resume (R176); a STEP or RUN that waited for an
AUTO apply, and a HALT that waited for the window, complete. -/
def State.windowClose (s : State) (b : Nat) (rows : List (BitVec 10 × BitVec 8 × Nat × Nat × List Byte))
    (others : List (BitVec 8 × Bool × Byte × BitVec 48)) : State :=
  let s := (s.applyClose b rows others).regate b
  let s := s.finishSteps b
  let x := s.bnd b
  if x.halting && !x.running && !x.windowOpen then s.haltNow b else s

def execApplyWindowClose (b : BitVec 6) (rows : List (BitVec 10 × BitVec 8 × Nat × Nat × List Byte))
    (others : List (BitVec 8 × Bool × Byte × BitVec 48)) (s : State) : Result :=
  live s fun s => s.windowClose b.toNat rows others
def execLockedSlot (b : BitVec 6) (s : State) : Result := live s fun s => s.lockedSlot b.toNat
def execStepAdmit (b : BitVec 6) (s : State) : Result := live s fun s => s.stepAdmit b.toNat
def execStepBuoySignal (b dev : BitVec 6) (step : BitVec 20) (gates : List (BitVec 8 × Bool)) (status : Byte) (s : State) : Result :=
  live s fun s => s.buoySignal b.toNat dev step gates status
def execReductionPartitioned (core : BitVec 10) (matrix : BitVec 8) (chunk : BitVec 18) (s : State) : Result :=
  live s fun s => (s.reductionPartitioned core.toNat matrix.toNat chunk.toNat).finishSteps (s.rule core.toNat matrix.toNat).binding
def execStepEnd (b : BitVec 6) (s : State) : Result := live s fun s => s.stepEnd b.toNat
def execStepEndReceipt (b : BitVec 6) (next : Option Word64) (gates : List (BitVec 8 × Bool))
    (epochs : List (BitVec 8 × BitVec 24 × BitVec 48)) (s : State) : Result :=
  live s fun s => s.endReceipt b.toNat next gates epochs
def execStartBroadcastReceipt (b : BitVec 6) (slot : Word64) (epochs : List (BitVec 8 × BitVec 24 × BitVec 48)) (s : State) : Result :=
  live s fun s => s.startReceipt b.toNat slot epochs

end Sys2Proof.Machine
end

