-- ==== Sys2Proof/Machine/Queues.lean ====
section
/-! DEFINITION. Machine/Queues.lean: the inbox message area, message queues, writer interfaces, grants, credits and closes
(R315-R332). -/

namespace Sys2Proof.Machine

/-! ## The inbox message area (R315, R316, R332) -/

/-- Puts an entry into a core's message ring; false where the ring is full. When COUNT leaves 0 with IE set the core's interrupt
is raised. -/
def State.inboxPush (s : State) (n : Nat) (e : List Word) : State × Bool :=
  let c := s.cor n
  if 4096 ≤ c.msgs.length then (s, false)
  else
    let s := s.setCor n { c with msgs := c.msgs ++ [e] }
    (if c.msgs = [] ∧ s.rbit (Reg.coreIbxStatus n) 31 then s.raiseCore n else s, true)

/-- INBOX_POP: a write of 1 to POP removes the head entry (R332). -/
def State.inboxPop (s : State) (n : Nat) : State := s.setCor n { s.cor n with msgs := (s.cor n).msgs.drop 1 }

/-! ## Opening (R319) -/

/-- The checks of a write of OPEN. -/
def State.openOk (s : State) (q : Nat) : Bool :=
  let x := s.queueAt q
  let b := x.binding.toNat
  let r := s.strm (s.qRstream q)
  x.bound && s.rfield (Reg.mqQCfg1 q) 0 4 ≤ 11 && s.qOffset q % 64 = 0 &&
  s.ringOwned b (s.qSlice q) (s.qOffset q) (8 * s.qSize q) &&
  r.bound && r.binding = x.binding && (s.bnd b).mask.getLsbD (s.qWdev q) &&
  (!s.qNotify q || match s.localOf (s.qNcore q) with
    | some n => (s.cor n).bound && (s.cor n).binding = x.binding
    | none => s.sysPresent (s.qNcore q) && !s.foreignCore b (s.qNcore q))

/-- QUEUE_OPEN: the state after a write of 1 to OPEN and its status. -/
def State.queueOpen (s : State) (q : Nat) : State × Byte :=
  if !s.openOk q then (s, St.badOperand)
  else
    let x := s.queueAt q
    let s := s.setQueue q { x with state := 1, gen := x.gen + 1, head := 0, tail := 0, fill := 0, early := [] }
    let t := s.toDevice (s.qWdev q) 5 1 (.grant (BitVec.ofNat 6 (s.qWdev q)) (BitVec.ofNat 12 q) (x.gen + 1) (s.qSize q))
    (if s.qWdev q = s.sys.myDev.toNat then s else t, St.ok)

/-- The answer of the writer's device (R319). -/
def State.grantAnswered (s : State) (q : Nat) (gen : Word64) (ok : Bool) : State :=
  let x := s.queueAt q
  if x.state ≠ 1 ∨ x.gen ≠ gen then s
  else if ok then s.setQueue q { x with state := 2 }
  else s.setQueue q { x with state := 0, cause := 5, refused := true }

/-- QUEUE_GRANT_ARRIVAL: a grant reaches this device's writer interface for queue `q` of device `d`, or (with an answer) the
writer's device answers this device's grant. -/
def State.grantArrival (s : State) (d q b st : Nat) (gen : Word64) (rsize : Nat) (answer : Option Bool) : State :=
  match answer with
  | some ok => if s.qWdev q = s.sys.myDev.toNat then s else s.grantAnswered q gen ok
  | none =>
    let here := d = s.sys.myDev.toNat
    let q' := s.queueAt q
    if here ∧ (q'.state ≠ 1 ∨ q'.gen ≠ gen ∨ s.qWdev q ≠ d) then s
    else
      let b := if here then q'.binding.toNat else b
      let st := if here then s.qWstream q else st
      let rsize := if here then s.qSize q else rsize
      let ok := (s.strm st).bound && (s.strm st).binding.toNat = b
      let s := if ok then s.setWriter d q
          { s.writer d q with
            isOpen := true, closed := false, binding := BitVec.ofNat 6 b, stream := BitVec.ofNat 8 st, gen := gen
            rsize := rsize, credit := rsize, tail := 0 }
        else s
      if here then s.grantAnswered q gen ok
      else s.toDevice d 5 1 (.grantAnswer (BitVec.ofNat 6 d) (BitVec.ofNat 12 q) ok)

/-! ## Sending (R321, R323) -/

/-- Words of credit a SEND of `w` words needs (R321). -/
def Writer.need (x : Writer) (w : Nat) : Nat := if w ≤ x.rsize - x.tail then w else x.rsize - x.tail + w

/-- A message issues: a wrap marker first where it does not fit before the end of the ring (R321). -/
def State.sendMessage (s : State) (d q : Nat) (h : Hdr) (cseq : Word64) (tag : Nat) (msg : List Word64) : State :=
  let x := s.writer d q
  let words := msgHeader msg.length tag :: msg
  let w := words.length
  let wraps := x.rsize - x.tail < w
  let off := if wraps then 0 else x.tail
  let marker : List SentMsg := if wraps then [⟨none, x.gen, x.tail, [wrapMarker]⟩] else []
  let own : SentMsg := ⟨some (h, cseq), x.gen, off, words⟩
  let s := s.setWriter d q { x with
    credit := x.credit - x.need w, tail := (off + w) % x.rsize, sent := x.sent ++ marker ++ [own] }
  if d = s.sys.myDev.toNat then s
  else s.forAll (marker ++ [own]) (fun s m =>
    s.toDevice d 5 1 (.message (BitVec.ofNat 6 d) (BitVec.ofNat 12 q) m.gen m.offset m.words))

/-! ## Arrival and RECV (R323, R324) -/

/-- Advances the tail over words written contiguously (R323). -/
def absorb : Nat → Nat → Queue → Queue
  | 0, _, x => x
  | fuel + 1, size, x =>
    match x.early.find? (fun p => p.1 = x.tail) with
    | none => x
    | some p => absorb fuel size { x with tail := (x.tail + p.2) % size, fill := x.fill + p.2, early := x.early.erase p }

/-- The queue notice of a message (R323). -/
def queueNotice (dev : BitVec 6) (q tag nm fill : Nat) : List Word :=
  [BitVec.ofNat 32 (q + 65536 * (tag % 65536)), BitVec.ofNat 32 (nm - 1), BitVec.ofNat 32 ((0x80 + dev.toNat) * 2 ^ 24),
   BitVec.ofNat 32 fill]

/-- Delivers a queue notice to an inbox; one that finds the ring full is discarded and counted (R316). -/
def State.giveNote (s : State) (n : Nat) (e : List Word) : State :=
  let (s, ok) := s.inboxPush n e
  if ok then s else s.count (Reg.coreIbxLost n) 1

/-- A queue notice reaches its core on this device; in DOZE it waits (R447). -/
def State.noteHere (s : State) (n : Nat) (e : List Word) : State :=
  if s.ltn.power = .doze then { s with syn := { s.syn with notes := s.syn.notes ++ [(n, e)] } } else s.giveNote n e

/-- Sends the queue notice where NOTIFY asks for one (R323). -/
def State.notifyMsg (s : State) (q tag nm : Nat) : State :=
  if !s.qNotify q then s
  else
    let e := queueNotice s.sys.myDev q tag nm (s.queueAt q).fill
    match s.localOf (s.qNcore q) with
    | some n => s.noteHere n e
    | none => s.toDevice (s.sysCore (s.qNcore q)).dev.toNat 4 1 (.queueNotice (BitVec.ofNat 10 (s.qNcore q)) e)

/-- Returns credit to the writer interface (R324, R326). -/
def State.returnCredit (s : State) (q words : Nat) : State :=
  let x := s.queueAt q
  let d := s.qWdev q
  if d = s.sys.myDev.toNat then
    let w := s.writer d q
    if w.isOpen ∧ w.gen = x.gen then s.setWriter d q { w with credit := w.credit + words } else s
  else s.toDevice d 5 1 (.credit (BitVec.ofNat 6 d) (BitVec.ofNat 12 q) x.gen words)

/-- The next message of a queue, past any wrap marker: its offset, the words passed over, and its header. -/
def State.headMsg (s : State) (q : Nat) : Option (Nat × Nat × Word64) :=
  let x := s.queueAt q
  if x.fill = 0 then none
  else
    let w := s.word64 (s.qWord q x.head)
    if hdrKind w = 2 then
      let r := s.qSize q - x.head
      if x.fill ≤ r then none else some (0, r, s.word64 (s.qWord q 0))
    else some (x.head, 0, w)

/-- The head passes the message at the head of the ring and any marker before it, and credit returns (R324). -/
def State.passHead (s : State) (q : Nat) : State :=
  match s.headMsg q with
  | none => s
  | some m =>
    let x := s.queueAt q
    let nm := hdrNm m.2.2
    let n := m.2.1 + nm + 1
    (s.setQueue q { x with head := (m.1 + nm + 1) % s.qSize q, fill := x.fill - n }).returnCredit q n

/-- RECV takes the message at the head of the ring (R291, R324): an 8-byte header of tag and words − 1, then the message, go to its
destination; when that write has been performed, which another device acknowledges, the head advances and credit returns. A destination that
rejects the write leaves the message in the ring (R297). -/
def State.takeMessage (s : State) (r : RecvE) (m : Nat × Nat × Word64) : State :=
  let q := r.queue.toNat
  let nm := hdrNm m.2.2
  let head := hdrTag m.2.2 + 65536 * (nm - 1)
  let a := s.qWord q m.1
  if s.badRange a (8 * (nm + 1)) then (s.reportUE a (8 * (nm + 1))).complete r.hdr r.cseq 0x51 St.eccFatal 0
  else if s.noRoute r.dst then s.complete r.hdr r.cseq 0x51 St.linkLost 0
  else
    let bytes := leBytes 8 head ++ s.bytes (s.qWord q (m.1 + 1)) (8 * nm)
    let x := s.queueAt q
    if (s.strm r.hdr.stream.toNat).bound && !s.mrefOwned x.binding.toNat r.dst bytes.length then s.rejected r.hdr r.cseq 0x51
    else
      let s := (s.putMref r.hdr.stream r.dst bytes).wrote r.hdr r.cseq 0x51 r.dst bytes.length St.ok head r.queue
      if s.isOut r.hdr r.cseq then s else s.passHead q

/-- Device `d` has acknowledged `n` packets more, oldest first: the commands whose writes it has now acknowledged complete (R289, R324). -/
def State.farEnds (s : State) (d n : Nat) : State :=
  let all := s.cmd.far.map (fun f => if f.dev.toNat = d then { f with left := f.left - n } else f)
  let ends := all.filter (fun f => f.left = 0)
  let s := { s with cmd := { s.cmd with far := all.filter (fun f => f.left ≠ 0) } }
  s.forAll ends (fun s f =>
    if !s.isOut f.hdr f.cseq then s
    else
      let s := s.complete f.hdr f.cseq f.opcode f.status f.result
      if f.opcode = 0x51 then s.passHead f.queue.toNat else s)

/-- The commands whose writes to a lost device were on their way complete with LINK_LOST (R289, R382). How many bytes the device wrote of a
COPY no rule tells: a free value (log entry 9). -/
def State.farLost (s : State) (d : Nat) : State :=
  let ends := s.cmd.far.filter (fun f => f.dev.toNat = d)
  let s := { s with cmd := { s.cmd with far := s.cmd.far.filter (fun f => f.dev.toNat ≠ d) } }
  s.forAll ends (fun s f =>
    let (w, s) := s.draw
    s.finish f.hdr f.cseq f.opcode St.linkLost (if f.opcode = 0x30 then w.toNat % (f.len + 1) else 0))

/-- A waiting RECV of a queue takes a message that has come. -/
def State.serveRecv (s : State) (q : Nat) : State :=
  match s.syn.recvs.find? (fun r => r.queue.toNat = q), s.headMsg q with
  | some r, some m => ({ s with syn := { s.syn with recvs := s.syn.recvs.erase r } }).takeMessage r m
  | _, _ => s

/-- The queue unit writes a message into the ring (R323); at a queue that is not OPEN or for another GEN it is discarded and
counted, but for a wrap marker, which is no message (R320, R325, R331). -/
def State.storeMessage (s : State) (q : Nat) (gen : Word64) (off : Nat) (words : List Word64) : State × Bool :=
  let x := s.queueAt q
  let h := words.headD 0
  let marker := hdrKind h = 2
  if x.state ≠ 2 ∨ x.gen ≠ gen then
    if marker then (s, false)
    else (((s.count (Reg.mqQDisc q) 1).rsetBit Reg.mqStatus 0 true).raise 111, false)
  else
    let size := s.qSize q
    let span := if marker then size - off else words.length
    let s := s.putBytes (s.qWord q off) (words.flatMap (fun w => leBytes 8 w.toNat))
    let x := absorb 65536 size { x with early := x.early ++ [(off, span)] }
    let s := s.setQueue q x
    let s := if marker then s else s.notifyMsg q (hdrTag h) (hdrNm h)
    (s.serveRecv q, true)

/-- The SEND of a message sent by this device completes (R323, R325). -/
def State.sendDone (s : State) (d q : Nat) (m : SentMsg) (ok : Bool) : State :=
  let s := s.setWriter d q { s.writer d q with sent := (s.writer d q).sent.erase m }
  match m.cmd with
  | some (h, c) => s.finish h c 0x50 (if ok then St.ok else St.queueClosed) 0
  | none => s

/-- QUEUE_MESSAGE_ARRIVAL: a message of device `src` reaches this device's queue unit, from the local writer interface or from
another device (which is acknowledged); with an answer, another device's queue unit has acknowledged a message of this device. -/
def State.messageArrival (s : State) (src : BitVec 6) (q : Nat) (gen : Word64) (off : Nat) (words : List Word64)
    (answer : Option (BitVec 6 × Bool)) : State :=
  let find := fun (d : Nat) => (s.writer d q).sent.find? (fun m => m.gen = gen && m.offset = off && m.words = words)
  match answer with
  | some (d, ok) => if d = s.sys.myDev then s else match find d.toNat with | some m => s.sendDone d.toNat q m ok | none => s
  | none =>
    let me := s.sys.myDev.toNat
    if src = s.sys.myDev then
      match find me with
      | some m => let (s, ok) := s.storeMessage q gen off words; s.sendDone me q m ok
      | none => s
    else
      let (s, ok) := s.storeMessage q gen off words
      if hdrKind (words.headD 0) = 2 then s else s.toDevice src.toNat 5 1 (.sendDone src (BitVec.ofNat 12 q) ok)

/-- CREDIT_RETURN_ARRIVAL: credit of the grant's generation returns from another device (R326). -/
def State.creditReturn (s : State) (d q : Nat) (gen : Word64) (words : Nat) : State :=
  let w := s.writer d q
  if w.isOpen ∧ w.gen = gen ∧ d ≠ s.sys.myDev.toNat then s.setWriter d q { w with credit := w.credit + words } else s

/-- CLOSE_NOTICE_ARRIVAL from another device (R325). -/
def State.closeArrival (s : State) (d q : Nat) : State := if d = s.sys.myDev.toNat then s else s.writerClose d q

/-- RECV_TIMEOUT: the timebase reaches the expiry of the stream's RECV (R291, R311). -/
def State.recvTimeout (s : State) (n : BitVec 8) : State :=
  match s.syn.recvs.find? (fun r => r.hdr.stream = n) with
  | none => s
  | some r =>
    match r.expiry with
    | none => s
    | some t =>
      let s := s.setTb (max t s.tmr.tb.toNat)
      ({ s with syn := { s.syn with recvs := s.syn.recvs.erase r } }).complete r.hdr r.cseq 0x51 St.timeout 0

/-- The reply to one register write that a row of its own makes: its address, 0 and its status (R409). -/
def State.writeReply (s : State) (addr : Nat) (st : Byte) : State :=
  s.toHost 1 0 1 (.mgmtReply false [(BitVec.ofNat 32 addr, 0, st)])

def execInboxPop (core : BitVec 10) (s : State) : Result := live s fun s => s.inboxPop core.toNat
def execQueueOpen (queue : BitVec 12) (s : State) : Result :=
  live s fun s => (s.queueOpen queue.toNat).1.writeReply (Reg.mqQCtrl queue.toNat) (s.queueOpen queue.toNat).2
def execQueueClose (queue : BitVec 12) (s : State) : Result :=
  live s fun s => (s.queueClose queue.toNat 1).writeReply (Reg.mqQCtrl queue.toNat) St.ok
def execQueueGrantArrival (dev : BitVec 6) (queue : BitVec 12) (b : BitVec 6) (wstream : BitVec 8) (gen : Word64)
    (rsize : BitVec 17) (answer : Option Bool) (s : State) : Result :=
  live s fun s => s.grantArrival dev.toNat queue.toNat b.toNat wstream.toNat gen rsize.toNat answer
def execQueueMessageArrival (src : BitVec 6) (queue : BitVec 12) (gen : Word64) (offset : BitVec 17) (words : List Word64)
    (answer : Option (BitVec 6 × Bool)) (s : State) : Result :=
  live s fun s => s.messageArrival src queue.toNat gen offset.toNat words answer
def execCreditReturnArrival (dev : BitVec 6) (queue : BitVec 12) (gen : Word64) (words : BitVec 17) (s : State) : Result :=
  live s fun s => s.creditReturn dev.toNat queue.toNat gen words.toNat
def execCloseNoticeArrival (dev : BitVec 6) (queue : BitVec 12) (s : State) : Result :=
  live s fun s => s.closeArrival dev.toNat queue.toNat
def execRecvTimeout (stream : BitVec 8) (s : State) : Result := live s fun s => s.recvTimeout stream

end Sys2Proof.Machine
end

