-- ==== Sys2Proof/Machine/Sync.lean ====
section
/-! DEFINITION. Machine/Sync.lean: the sync unit: buoys, waits, takes, watches, beacons, timeouts and SIGNAL markers
(R302-R317, R329). -/

namespace Sys2Proof.Machine

/-- The largest value of a buoy (R302). -/
def buoyMax : Nat := 2 ^ 31 - 1

/-- The owner of a buoy (R277). -/
def State.buoyOwner (s : State) (k : Nat) : Option (BitVec 6) := Tab.get (fun _ => none) s.syn.owner k

/-- The opcode of a buoy operation (R273). -/
def buoyOp (kind : BitVec 3) : Byte :=
  if kind = 0 then 0x40 else if kind = 1 then 0x43 else if kind = 2 then 0x44 else if kind = 3 then 0x41 else 0x42

/-- The completion of a buoy operation of binding `b` goes to the command engine of the device that issued it (R309). A refused operation freezes
its stream (R297, R303). -/
def State.opDone (s : State) (b : BitVec 6) (dev : BitVec 6) (stream : BitVec 8) (cseq : Word64) (op st : Byte) (v : Nat) : State :=
  if dev ≠ s.sys.myDev then s.toDevice dev.toNat 4 1 (.waitDone b dev stream cseq st (BitVec.ofNat 32 v))
  else
    match (s.strm stream.toNat).outst.find? (fun o => o.cseq = cseq) with
    | none => s
    | some o =>
      let s := s.complete o.hdr cseq op st v
      if st = St.overflow ∨ st = St.underflow ∨ st = St.notBound then s.freezeStream stream st op cseq else s

/-- Whether a condition holds for value `v` (R305). -/
def condHolds (eq : Bool) (value : Word) (v : Nat) : Bool := if eq then v = value.toNat else value.toNat ≤ v

/-! ## Watches and beacons (R310-R316) -/

/-- The inbox entry of a beacon (R312). -/
def beaconWords (dev : BitVec 6) (w : WatchE) (st : Byte) (v : Nat) : List Word :=
  [BitVec.ofNat 32 w.cookie.toNat, BitVec.ofNat 32 (w.cookie.toNat / 2 ^ 32),
   BitVec.ofNat 32 (w.buoy.toNat + 65536 * st.toNat + 2 ^ 24 * (64 + dev.toNat)), BitVec.ofNat 32 v]

/-- The count of outstanding watches and its peak (R329). -/
def State.countWatches (s : State) : State :=
  (s.rset Reg.synWatchUsed (BitVec.ofNat 32 s.syn.watches.length)).maxReg Reg.synWatchPeak s.syn.watches.length

def State.dropWatch (s : State) (num : Nat) : State :=
  ({ s with syn := { s.syn with watches := s.syn.watches.filter (fun w => w.num ≠ num) } }).countWatches

/-- A beacon is discarded and counted (R313, R329). -/
def State.beaconLost (s : State) : State := ((s.count Reg.synBcnLost 1).rsetBit Reg.synStatus 2 true).raise 110

/-- A watch holds its beacon (R316); `sent` while that is on its way to another device. -/
def State.keepBeacon (s : State) (num : Nat) (st : Byte) (v : Word) (sent : Bool) : State :=
  { s with syn := { s.syn with watches := s.syn.watches.map (fun x =>
    if x.num = num then { x with beacon := some (st, v), sent := sent, expiry := none } else x) } }

/-- The sync unit offers the beacon of a watch to its inbox: it is delivered, discarded (R313), or kept in its entry while the ring
is full (R316) or its core in DOZE (R447). A beacon for a core of another device stays in its entry until that device answers. -/
def State.offerBeacon (s : State) (w : WatchE) (st : Byte) (v : Word) : State :=
  let k := w.core.toNat
  let e := beaconWords s.sys.myDev w st v.toNat
  if !s.sysPresent k then (s.dropWatch w.num).beaconLost
  else match s.localOf k with
    | none => (s.keepBeacon w.num st v true).toDevice (s.sysCore k).dev.toNat 4 1 (.beacon w.core w.binding w.num e)
    | some n =>
      if !((s.cor n).bound && (s.cor n).binding = w.binding) then (s.dropWatch w.num).beaconLost
      else
        let (s, ok) := if s.ltn.power = .doze then (s, false) else s.inboxPush n e
        if ok then s.dropWatch w.num else s.keepBeacon w.num st v false

/-- BEACON_RETRY: a beacon that found its ring full is offered again (R316). -/
def State.beaconRetry (s : State) (num : Nat) : State :=
  match s.syn.watches.find? (fun w => w.num = num) with
  | none => s
  | some w => match w.beacon with
    | none => s
    | some b => if w.sent then s else ((s.count Reg.synBcnRetry 1).rsetBit Reg.synStatus 3 true).offerBeacon w b.1 b.2

/-- The least free watch number (R310). -/
def freeNum (l : List WatchE) : Nat :=
  ((List.range (l.length + 1)).find? (fun n => l.all (fun w => w.num ≠ n))).getD 0

/-! ## After an operation (R305) -/

/-- A registered WAIT or WATCH whose condition holds. -/
inductive Due where
  | wait (w : WaitE)
  | watch (w : WatchE)
deriving DecidableEq, Repr

def Due.reg : Due → Nat
  | .wait w => w.reg
  | .watch w => w.reg

/-- Inserts in registration order. -/
def insertDue (d : Due) : List Due → List Due
  | [] => [d]
  | x :: r => if d.reg ≤ x.reg then d :: x :: r else x :: insertDue d r

/-- Entries of buoy `k` whose condition holds for its value, in registration order. -/
def State.dueAt (s : State) (k : Nat) : List Due :=
  let v := (s.buoy k).toNat
  let a := (s.syn.waits.filter (fun w => w.buoy.toNat = k && !w.take && condHolds w.eq w.value v)).map Due.wait
  let b := (s.syn.watches.filter (fun w => w.buoy.toNat = k && w.beacon = none && condHolds w.eq w.value v)).map Due.watch
  (a ++ b).foldr insertDue []

def State.dropWait (s : State) (w : WaitE) : State :=
  { s with syn := { s.syn with waits := s.syn.waits.erase w } }

/-- Completes or fires every entry whose condition holds (R305, step 1). -/
def State.settle (s : State) (k : Nat) : State :=
  let v := (s.buoy k).toNat
  s.forAll (s.dueAt k) (fun s d => match d with
    | .wait w => (s.dropWait w).opDone w.binding w.dev w.stream w.cseq 0x41 St.ok v
    | .watch w => s.offerBeacon w St.ok (BitVec.ofNat 32 v))

/-- The oldest TAKE that waits on a buoy. -/
def State.oldestTake (s : State) (k : Nat) : Option WaitE := s.syn.waits.find? (fun w => w.buoy.toNat = k && w.take)

/-- While the value is above 0 the oldest waiting TAKE is performed, each followed by the same two steps (R305, step 2). -/
def State.takes : Nat → State → Nat → State
  | 0, s, _ => s
  | fuel + 1, s, k =>
    if (s.buoy k).toNat = 0 then s
    else match s.oldestTake k with
      | none => s
      | some w =>
        let v := (s.buoy k).toNat - 1
        let s := ((s.dropWait w).setBuoy k (BitVec.ofNat 31 v)).settle k
        State.takes fuel (s.opDone w.binding w.dev w.stream w.cseq 0x44 St.ok v) k

/-- An operation has set the value of buoy `k`: entries settle, its own completion leaves, waiting TAKEs follow. -/
def State.afterOp (s : State) (k : Nat) (own : State → State) : State :=
  State.takes (s.syn.waits.length + 1) (own (s.settle k)) k

/-! ## The operations (R303) -/

/-- SYN_LAST names a refused operation (R329). -/
def State.lastRefused (s : State) (r : BuoyReq) (st : Byte) : State :=
  s.rset Reg.synLast (BitVec.ofNat 32 (st.toNat * 2 ^ 24 + r.dev.toNat * 2 ^ 16 + r.buoy.toNat))

/-- A refused operation (R303, R329): bit 0 OVF, bit 1 UNF. -/
def State.refuse (s : State) (r : BuoyReq) (bit : Nat) (st : Byte) : State :=
  let s := (s.rsetBit Reg.synStatus bit true).raise 110
  (s.lastRefused r st).opDone r.owner r.dev r.stream r.cseq (buoyOp r.kind) st 0

/-- The instant a timeout of `tmo` µs expires, from now (R311). -/
def State.expiryOf (s : State) (tmo : Word) : Option Nat := if tmo = 0 then none else some (s.tmr.tb.toNat + tmo.toNat * 1000)

/-- Registers a WAIT or a TAKE (R309). -/
def State.addWait (s : State) (r : BuoyReq) (take : Bool) : State :=
  { s with syn := { s.syn with
      waits := s.syn.waits ++ [⟨r.dev, r.stream, r.cseq, r.buoy, take, r.eq, r.value, s.expiryOf r.tmo, s.syn.regs, r.owner⟩]
      regs := s.syn.regs + 1 } }

/-- Registers a WATCH (R310): beyond 16,384 it is refused; one whose condition holds fires at once, its beacon ahead of the WATCH's
own completion (R305). -/
def State.addWatch (s : State) (r : BuoyReq) : State :=
  if 16384 ≤ s.syn.watches.length then (s.lastRefused r St.badOperand).opDone r.owner r.dev r.stream r.cseq 0x42 St.badOperand 0
  else
    let v := (s.buoy r.buoy.toNat).toNat
    let w : WatchE := ⟨freeNum s.syn.watches, r.owner, r.dev, r.stream, r.buoy, r.eq, r.value, r.core,
      r.cookie, s.expiryOf r.tmo, none, false, s.syn.regs⟩
    let s := { s with syn := { s.syn with watches := s.syn.watches ++ [w], regs := s.syn.regs + 1 } }
    let s := s.countWatches
    (if condHolds r.eq r.value v then s.offerBeacon w St.ok (BitVec.ofNat 32 v) else s).opDone r.owner r.dev r.stream r.cseq 0x42 St.ok w.num

/-- The sync unit performs one operation (R303, R305). -/
def State.buoyPerform (s : State) (r : BuoyReq) : State :=
  let k := r.buoy.toNat
  let v := (s.buoy k).toNat
  let op := buoyOp r.kind
  if r.kind = 0 then
    if buoyMax < v + r.n.toNat then s.refuse r 0 St.overflow
    else (s.setBuoy k (BitVec.ofNat 31 (v + r.n.toNat))).afterOp k (fun s => s.opDone r.owner r.dev r.stream r.cseq op St.ok 0)
  else if r.kind = 1 then
    if v < r.n.toNat then s.refuse r 1 St.underflow
    else (s.setBuoy k (BitVec.ofNat 31 (v - r.n.toNat))).afterOp k
      (fun s => s.opDone r.owner r.dev r.stream r.cseq op St.ok (v - r.n.toNat))
  else if r.kind = 2 then
    if v = 0 then s.addWait r true
    else (s.setBuoy k (BitVec.ofNat 31 (v - 1))).afterOp k (fun s => s.opDone r.owner r.dev r.stream r.cseq op St.ok (v - 1))
  else if r.kind = 3 then
    if condHolds r.eq r.value v then s.opDone r.owner r.dev r.stream r.cseq op St.ok v else s.addWait r false
  else if r.kind = 4 then s.addWatch r
  else s

/-- A request at the sync unit of the device its buoy is on: a buoy that is not bound to the issuing binding any more rejects it
(R297). -/
def State.buoyRequest (s : State) (r : BuoyReq) : State :=
  if s.buoyOwner r.buoy.toNat ≠ some r.owner then s.opDone r.owner r.dev r.stream r.cseq (buoyOp r.kind) St.notBound 0 else s.buoyPerform r

/-- A SIGNAL whose last marker has arrived: PTB_BUOYDLY holds it, else it is performed (R308, R535). -/
def State.signalHere (s : State) (r : BuoyReq) : State :=
  if s.ptbBuoy then ({ s with syn := { s.syn with sigs := s.syn.sigs ++ [SigWait.mk s.sys.myDev r 0] } }).ptbUpdate
  else s.buoyRequest r

/-- A beacon of another device's sync unit reaches its core (R310-R316): delivered, turned away by a full ring or a core in DOZE
(PENDING), or refused where the core is not bound to the watch's binding or is ABSENT (NOT_BOUND). -/
def State.beaconHere (s : State) (r : BuoyReq) (e : List Word) : State × Byte :=
  match s.localOf r.core.toNat with
  | none => (s, St.notBound)
  | some n =>
    if !((s.cor n).bound && (s.cor n).binding = r.owner) || !s.sysPresent r.core.toNat then (s, St.notBound)
    else
      let (t, ok) := if s.ltn.power = .doze then (s, false) else s.inboxPush n e
      (t, if ok then St.ok else St.pending)

/-- The answer to a beacon that is on its way (R313, R316): delivered, to be offered again, or lost. -/
def State.beaconAnswered (s : State) (num : Nat) (st : Byte) : State :=
  match s.syn.watches.find? (fun w => w.num = num && w.sent) with
  | none => s
  | some w =>
    if st = St.pending then
      { s with syn := { s.syn with watches := s.syn.watches.map (fun x => if x.num = num then { x with sent := false } else x) } }
    else if st = St.ok then s.dropWatch w.num
    else (s.dropWatch w.num).beaconLost

/-- BUOY_OPERATION: a request of another device reaches the sync unit. With an answer, another device's units speak to this one: a
completion of a request, a beacon or a queue notice for a core here (R312, R323), or the answer to a beacon of this device. -/
def State.buoyOperation (s : State) (r : BuoyReq) (answer : Option (Bool × Byte × Word)) : State :=
  match answer with
  | some (beacon, st, v) =>
    if beacon then
      if r.kind = 6 then s.beaconAnswered r.value.toNat st
      else if r.kind = 5 then
        match s.localOf r.core.toNat with
        | some n => s.noteHere n (queueNotice r.dev r.buoy.toNat r.n.toNat (st.toNat % 4 + 1) v.toNat)
        | none => s
      else
        let (s, a) := s.beaconHere r [BitVec.ofNat 32 r.cookie.toNat, BitVec.ofNat 32 (r.cookie.toNat / 2 ^ 32),
          BitVec.ofNat 32 (r.buoy.toNat + 65536 * st.toNat + 2 ^ 24 * (64 + r.dev.toNat)), v]
        s.toDevice r.dev.toNat 4 1 (.beaconAnswer r.owner r.dev r.value.toNat a)
    else s.opDone r.owner s.sys.myDev r.stream r.cseq (buoyOp r.kind) st v.toNat
  | none =>
    if r.dev = s.sys.myDev then s
    else if r.kind = 0 then s.signalHere r
    else if r.kind = 7 then
      { s with syn := { s.syn with waits := s.syn.waits.filter (fun w => !(w.dev = r.dev && w.stream = r.stream)) } }
    else s.buoyRequest r

/-! ## Markers (R308) -/

/-- Whether a write that an earlier COPY or SEND of the stream has issued is still on its way: one that has not completed, as one whose packets are not all
acknowledged has not. -/
def State.writesLeft (s : State) (x : SigWait) : Bool :=
  (s.strm x.req.stream.toNat).outst.any (fun o => o.cseq.toNat < x.req.cseq.toNat && (o.opcode = 0x30 || o.opcode = 0x50))

/-- Sends a SIGNAL on its way once no marker holds it: to the local sync unit, or over VC0. -/
def State.signalGo (s : State) (dev : BitVec 6) (r : BuoyReq) : State :=
  if dev = s.sys.myDev then s.signalHere r else s.toDevice dev.toNat 4 1 (.buoy dev r)

/-- SIGNAL_MARKER_ARRIVAL: a marker is released after every write ahead of it on its path has been performed (R308); the last one
lets the sync unit perform the increment. -/
def State.markerArrival (s : State) (stream : BitVec 8) (cseq : Word64) : State :=
  match s.syn.sigs.find? (fun x => x.req.dev = s.sys.myDev && x.req.stream = stream && x.req.cseq = cseq && 0 < x.markers) with
  | none => s
  | some x =>
    if s.writesLeft x then s
    else
      let rest := s.syn.sigs.erase x
      if x.markers = 1 then ({ s with syn := { s.syn with sigs := rest } }).signalGo x.target x.req
      else { s with syn := { s.syn with sigs := rest ++ [{ x with markers := x.markers - 1 }] } }

/-- The kind of a held item by which PTB_HOLD_RELEASE names it. -/
def Held.kind : Held → Nat
  | .out _ => 0
  | .refresh _ _ => 2
  | .step _ _ _ _ _ => 3

/-- PTB_HOLD_RELEASE: a hold expires (R535): kind 0 the oldest packet or credit held at a link, 1 the oldest SIGNAL, 2 the oldest
burst of refreshes, 3 the oldest signal of a step buoy. -/
def State.holdRelease (s : State) (kind : Nat) : State :=
  if kind = 1 then
    match s.syn.sigs.find? (fun x => x.markers = 0) with
    | none => s
    | some x => (({ s with syn := { s.syn with sigs := s.syn.sigs.erase x } }).buoyRequest x.req).ptbUpdate
  else
    match s.ptb.find? (fun h => h.kind = kind) with
    | none => s
    | some h =>
      let s := { s with ptb := s.ptb.erase h }
      (match h with
        | .out o => s.send o
        | .refresh _ _ => s
        | .step b dev step gates status => s.stepSignalDone b.toNat dev step gates status).ptbUpdate

/-! ## Timeouts (R311) -/

/-- WAIT_TIMEOUT: the timebase reaches the expiry of a WAIT or TAKE. -/
def State.waitTimeout (s : State) (dev : BitVec 6) (stream : BitVec 8) : State :=
  match s.syn.waits.find? (fun w => w.dev = dev && w.stream = stream && w.expiry.isSome) with
  | none => s
  | some w =>
    let s := s.setTb (max (w.expiry.getD 0) s.tmr.tb.toNat)
    (s.dropWait w).opDone w.binding w.dev w.stream w.cseq (if w.take then 0x44 else 0x41) St.timeout (s.buoy w.buoy.toNat).toNat

/-- WATCH_TIMEOUT: the timebase reaches the expiry of a watch: a beacon with TIMEOUT. -/
def State.watchTimeout (s : State) (num : Nat) : State :=
  match s.syn.watches.find? (fun w => w.num = num && w.expiry.isSome && w.beacon = none) with
  | none => s
  | some w =>
    let s := s.setTb (max (w.expiry.getD 0) s.tmr.tb.toNat)
    s.offerBeacon w St.timeout (BitVec.ofNat 32 (s.buoy w.buoy.toNat).toNat)

/-! ## Release of a buoy (R279, R313) -/

/-- UNBIND of a buoy: its value is 0, its watches end without a beacon, each WAIT or TAKE blocked on it completes with NOT_BOUND and
freezes its stream. -/
def State.releaseBuoy (s : State) (k : Nat) : State :=
  let s := s.setBuoy k 0
  let s := { s with syn := { s.syn with
    owner := Tab.set (fun _ => none) s.syn.owner k none
    watches := s.syn.watches.filter (fun w => w.buoy.toNat ≠ k) } }
  let l := s.syn.waits.filter (fun w => w.buoy.toNat = k)
  let s := s.countWatches
  s.forAll l (fun s w => (s.dropWait w).opDone w.binding w.dev w.stream w.cseq (if w.take then 0x44 else 0x41) St.notBound 0)

def execBuoyOperation (o : BuoyReq) (answer : Option (Bool × Byte × Word)) (s : State) : Result :=
  live s fun s => s.buoyOperation o answer
def execSignalMarkerArrival (stream : BitVec 8) (cseq : Word64) (s : State) : Result := live s fun s => s.markerArrival stream cseq
def execPtbHoldRelease (kind : BitVec 2) (s : State) : Result := live s fun s => s.holdRelease kind.toNat
def execWaitTimeout (dev : BitVec 6) (stream : BitVec 8) (s : State) : Result := live s fun s => s.waitTimeout dev stream
def execWatchTimeout (w : BitVec 14) (s : State) : Result := live s fun s => s.watchTimeout w.toNat
def execBeaconRetry (w : BitVec 14) (s : State) : Result := live s fun s => s.beaconRetry w.toNat

end Sys2Proof.Machine
end

