-- ==== Sys2Proof/Machine/Bindings.lean ====
section
/-! DEFINITION. Machine/Bindings.lean: BIND and UNBIND (R276-R279), PARK and UNPARK (R28, R280), SNAPSHOT (R281). Each effect answers
the state after, the status and RESULT. -/

namespace Sys2Proof.Machine

/-- What the effect of a command leaves: the state after, its status and RESULT. -/
abbrev Effect := State × Byte × Nat

/-- An effect that changes nothing. -/
def State.fail (s : State) (st : Byte) : Effect := (s, st, 0)
/-- An effect that is made only where its checks pass (R275). -/
def State.when (s : State) (st : Byte) (f : State → State) (res : Nat := 0) : Effect :=
  if st = St.ok then (f s, St.ok, res) else (s, st, 0)

/-- The numbers `first` to `first + count − 1`. -/
def named (first count : Nat) : List Nat := (List.range count).map (fun i => first + i)

/-- The logical cores of this device behind system numbers. -/
def State.localCores (s : State) (l : List Nat) : List Nat := l.filterMap s.localOf

/-! ## Clearing (R152, R278, R279) -/

/-- Registers of a core that a BIND of it clears (R152). -/
def convRegs (n : Nat) : List Nat :=
  [Reg.coreCvtStatus n, Reg.coreCvtSatnLo n, Reg.coreCvtSatnHi n, Reg.coreCvtUnderLo n, Reg.coreCvtUnderHi n, Reg.coreCvtRescLo n,
    Reg.coreCvtRescHi n, Reg.coreCvtBads n]

/-- A register and its live high part return to their reset values. -/
def State.regClear (s : State) (a : Nat) : State := (s.rset a (regReset a)).setLive a 0

/-- Every register of a timer returns to its reset value and its raw interrupt bit clears (R509). -/
def State.timerReset (s : State) (n : Nat) : State :=
  let l := [Reg.tmrCtrl n, Reg.tmrCount n, Reg.tmrPeriod n, Reg.tmrCmp0 n, Reg.tmrCmp1 n, Reg.tmrStat n, Reg.tmrCapt n]
  (s.forAll l State.regClear).withdraw (77 + n)

/-- The slots, matrices, rules, routes and berths of a core go, and with them its learning state and rings. -/
def State.withdrawCore (s : State) (n : Nat) : State :=
  let s := s.forAll (s.rulesOf n) (fun s m => (s.regClear (Reg.coreLrnRstat n m)).regClear (Reg.coreLrnRepoch n m))
  let s := { s with
    core := { s.core with
      slots := s.core.slots.filter (fun p => p.1 / 64 ≠ n)
      units := s.core.units.filter (fun p => p.1 / 64 ≠ n)
      reds := s.core.reds.filter (fun p => p.1 / 256 ≠ n) }
    rtr := { s.rtr with
      rings := s.rtr.rings.filter (fun p => p.1 / 64 ≠ n)
      pages := s.rtr.pages.filter (fun p => p.1 / 64 ≠ n)
      staging := s.rtr.staging.filter (fun p => p.1 ≠ n)
      draining := s.rtr.draining.filter (fun k => k ≠ n)
      owed := s.rtr.owed.filter (fun x => x.1 ≠ n)
      ingress := s.rtr.ingress.filter (fun x => s.localOf x.2.1.dstCore ≠ some n) }
    mem := { s.mem with shadow := s.mem.shadow.filter (fun c => !(decide (Mem.store n 0 ≤ c.1) && decide (c.1 < Mem.store (n + 1) 0))) } }
  s.clearRange (Mem.store n 4) (storeBytes 4)

/-- Every store of a core is cleared (R278). -/
def State.clearStores (s : State) (n : Nat) : State :=
  (s.forAll (List.range 5) (fun s k => s.clearRange (Mem.store n k) (storeBytes k))).dropConv (Mem.store n 0) (8 * 2 ^ 48)

/-- The bytes of a bank are cleared (R278): in mode U every fourth line (R336). -/
def State.clearBank (s : State) (k i : Nat) : State :=
  if s.rfield (Reg.slcCfg k) 0 2 = 1 then
    s.forAll (List.range 16384) (fun s j =>
      (s.clearRange (Mem.slice k + (4 * j + i) * 128) 128).clearInstsAt (Mem.slice k + (4 * j + i) * 128) 128)
  else (s.clearRange (Mem.slice k + i * 0x200000) 0x200000).clearInstsAt (Mem.slice k + i * 0x200000) 0x200000

/-- Whether a bank is out of service (R486): a field record names it. -/
def State.bankOos (s : State) (k : Nat) : Bool := s.fuses.records.any (fun r => r.kind = 4 && r.logical = k)

/-! ## BIND (R277, R278) -/

/-- The context that a BIND CONTEXT writes at FIRST + i (R277). -/
def boundCtx (b : Nat) (i : Nat) (w1 w2 w3 : Word64) : Ctx :=
  { Ctx.empty with
    valid := true, binding := BitVec.ofNat 6 b, res := BitVec.ofNat 2 (w1.toNat / 2 ^ 18)
    base := BitVec.ofNat 48 (w2.toNat + i * (w1.toNat / 2 ^ 32)), cidx := BitVec.ofNat 18 (w1.toNat + i)
    cnvFirst := BitVec.ofNat 12 w3.toNat, cnvCount := BitVec.ofNat 13 (w3.toNat / 2 ^ 12) }

/-- The status of a BIND CONTEXT (R277, R278, R559). -/
def State.ctxStatus (s : State) (b first count : Nat) (w1 w2 w3 : Word64) : Byte :=
  let cidx := w1.toNat % 2 ^ 18
  let res := w1.toNat / 2 ^ 18 % 4
  let mine := s.ctxsOf b
  worse
    (need (1 ≤ count && first + count ≤ 262144 && w1.toNat / 2 ^ 20 % 2 ^ 12 = 0 && w2.toNat / 2 ^ 48 = 0 && w3.toNat / 2 ^ 25 = 0 &&
      res ≤ 1 && cidx + count ≤ 262144 && w3.toNat % 2 ^ 12 + w3.toNat / 2 ^ 12 ≤ 4096 &&
      s.cmd.ctxs.all (fun p => !p.2.valid || p.1 < first || first + count ≤ p.1) &&
      mine.all (fun p => p.2.cidx.toNat < cidx || cidx + count ≤ p.2.cidx.toNat)))
    (allOf ((List.range count).map (fun i =>
      let c := boundCtx b i w1 w2 w3
      s.placeStatus b c.res c.base.toNat (s.extent b))))

/-- BIND of a KIND other than CREATE to binding `b`: all resources or none (R278). -/
def State.bindNow (s : State) (b kind count first : Nat) (w1 w2 : Word64) (w3 : Word64) : Effect :=
  let l := named first count
  let inRange := fun (n : Nat) => 1 ≤ count && first + count ≤ n
  if kind = 1 then
    let cs := s.localCores l
    let absent := l.any (fun k => decide (k < s.sysSize) && !s.sysPresent k) || cs.any (fun n => !s.corePresent n)
    let st := worse (need (1 ≤ count && count ≤ 16 && cs.length = count && cs.all (fun n => !(s.cor n).bound)))
      (if absent then St.coreAbsent else St.ok)
    let t := s.forAll cs (fun s n =>
      let s := s.forAll (convRegs n) State.regClear
      ((s.withdrawCore n).clearStores n).setCor n { Core.empty with bound := true, binding := BitVec.ofNat 6 b })
    s.when (worse st (if st = St.ok then need (t.spillFits b) else St.ok)) (fun _ => t.reserve b)
  else if kind = 2 then
    let t := s.forAll (List.range count) (fun s i =>
      let c := boundCtx b i w1 w2 w3
      s.setCtx (first + i) { c with frozen := s.ctxFrozen c })
    let st := s.ctxStatus b first count w1 w2 w3
    s.when (worse st (if st = St.ok then need (t.spillFits b) else St.ok)) (fun _ => t.reserve b)
  else if kind = 3 then
    let whole := l.all (fun k => s.rfield (Reg.slcCfg (k / 4)) 0 2 ≠ 1 || (List.range 4).all (fun i => decide (k / 4 * 4 + i ∈ l)))
    let st := worse (need (inRange 112 && whole && l.all (fun k => (s.bankOwner k).isNone)))
      (if l.any s.bankOos then St.capacityReduced else St.ok)
    s.when st (fun s => s.forAll l (fun s k =>
      let s := s.clearBank (k / 4) (k % 4)
      { s with cmd := { s.cmd with banks := Tab.set (fun _ => none) s.cmd.banks k (some (BitVec.ofNat 6 b)) } }))
  else if kind = 4 then
    s.when (need (inRange 4096 && l.all (fun q => !(s.queueAt q).bound))) (fun s => s.forAll l (fun s q =>
      let x := s.queueAt q
      s.setQueue q { Queue.empty with bound := true, binding := BitVec.ofNat 6 b, gen := x.gen, cause := x.cause, refused := x.refused }))
  else if kind = 5 then
    s.when (need (inRange 65472 && l.all (fun k => (s.buoyOwner k).isNone))) (fun s => s.forAll l (fun s k =>
      let s := s.setBuoy k 0
      { s with syn := { s.syn with owner := Tab.set (fun _ => none) s.syn.owner k (some (BitVec.ofNat 6 b)) } }))
  else if kind = 6 then
    s.when (need (inRange 4096 && l.all (fun k => !(s.chan k).bound))) (fun s => s.forAll l (fun s k =>
      s.setChan k { Chan.empty with bound := true, binding := BitVec.ofNat 6 b }))
  else if kind = 7 then
    s.when (need (inRange 256 && l.all (fun k => !(s.circ k).bound))) (fun s => s.forAll l (fun s k =>
      (s.rsetField (Reg.fabCircStat k) 0 16 0).setCirc k { s.circ k with bound := true, binding := BitVec.ofNat 6 b, flows := [] }))
  else if kind = 8 then
    s.when (need (inRange 32 && l.all (fun k => !(s.timer k).bound))) (fun s => s.forAll l (fun s k =>
      (s.timerReset k).setTimer k { Timer.empty with bound := true, binding := BitVec.ofNat 6 b }))
  else if kind = 9 then
    s.when (need (inRange 256 && l.all (fun k => !(s.strm k).bound))) (fun s => s.forAll l (fun s k =>
      s.setStrm k { s.strm k with bound := true, binding := BitVec.ofNat 6 b }))
  else if kind = 10 then
    let base := w1.toNat
    let size := w2.toNat
    let ok := count = 1 && first ≤ 15 && (s.window b first).2 = 0 && base % 0x200000 = 0 && size % 0x200000 = 0 && 1 ≤ size &&
      0x480000000 ≤ base && base + size ≤ 0x2400000000 &&
      s.cmd.windows.all (fun p => !meets base size p.2.1.toNat p.2.2.toNat)
    s.when (need ok) (fun s => { s with cmd := { s.cmd with
      windows := Tab.set (fun _ => (0, 0)) s.cmd.windows (b * 16 + first) (BitVec.ofNat 38 base, BitVec.ofNat 38 size) } })
  else s.fail St.badOperand

/-! ## UNBIND (R279) -/

/-- A context's resident state and held events go, and with it its converter instances. -/
def State.dropCtx (s : State) (c : Nat) : State :=
  let x := s.ctx c
  let chans := (s.cnv.chans.filter (fun p => p.2.covers p.1 x)).map Prod.fst
  let s := { s with cnv := { s.cnv with
    insts := s.cnv.insts.filter (fun p => !(p.1 % 2 ^ 18 = x.cidx.toNat && decide (p.1 / 2 ^ 18 ∈ chans)))
    tallies := s.cnv.tallies.filter (fun p => !(p.1 / 128 % 2 ^ 18 = x.cidx.toNat && decide (p.1 / 2 ^ 25 ∈ chans))) } }
  s.setCtx c Ctx.empty

/-- A core leaves its binding (R279). BERTHs that have not completed end with NOT_BOUND, and
their streams freeze (R297). A context that stands on
no frozen core of the binding any more loses FROZEN_CTX (R26). -/
def State.releaseCore (s : State) (n : Nat) : State :=
  let c := s.cor n
  let qs := c.berthQ ++ ([c.berth0, c.berth1].filterMap (fun x => x.cur))
  let s := s.forAll qs (fun s q => if s.isOut q.hdr q.cseq then s.rejected q.hdr q.cseq 0x25 else s)
  let s := (s.withdrawCore n).setCor n Core.empty
  (s.forAll (s.ctxsOf c.binding.toNat) (fun s p => s.setCtx p.1 { s.ctx p.1 with frozen := s.ctxFrozen p.2 })).kickCircs

/-- An ACT frame that holds values of a channel is not sent (R252). -/
def State.dropFrame (s : State) (h : Nat) : State :=
  let f := (s.chan h).aframe
  if (s.chan h).valid && (s.chan h).dec && s.inFrame h then s.setAct f { s.act f with frame := none } else s

/-- The values of a removed channel leave the ACT frame that took them; a frame with no other valid channel is not sent (R252, R557). -/
def State.leaveFrame (s : State) (h : Nat) : State :=
  let f := (s.chan h).aframe
  if (s.chan h).valid && (s.chan h).dec && s.inFrame h then
    let rest := fun (l : List (List ActVal)) =>
      (l.map (fun r => r.filter (fun v => v.chan.toNat ≠ h))).filter (fun r => r.any (fun v => v.here))
    let keep := (s.frameChans f (s.chan h).binding.toNat).any (fun k => k ≠ h)
    s.setAct f { s.act f with frame := if keep then (s.act f).frame.map (fun x => (x.1, x.2.1.filter (fun k => k.toNat ≠ h), rest x.2.2)) else none }
  else s

/-- The instances, taps and values of a channel go (R557). -/
def State.clearInsts (s : State) (h : Nat) : State :=
  { s with cnv := { s.cnv with
      insts := s.cnv.insts.filter (fun p => p.1 / 2 ^ 18 ≠ h)
      tallies := s.cnv.tallies.filter (fun p => p.1 / 2 ^ 25 ≠ h)
      taps := s.cnv.taps.filter (fun t => t.channel.toNat ≠ h) } }

/-- DECODEs that wait on a channel whose decode will not come end with NOT_BOUND. -/
def State.dropDecodes (s : State) (h : Nat) : State :=
  let l := s.cnv.decodes.filter (fun d => d.channel.toNat = h)
  let s := { s with cnv := { s.cnv with decodes := s.cnv.decodes.filter (fun d => d.channel.toNat ≠ h) } }
  s.forAll l (fun s d => s.complete d.hdr d.cseq 0x61 St.notBound 0)

/-- UNBIND of a channel: a DECODE that waits on it is rejected, which freezes its stream (R297). -/
def State.rejectDecodes (s : State) (h : Nat) : State :=
  let l := s.cnv.decodes.filter (fun d => d.channel.toNat = h)
  (s.dropDecodes h).forAll l (fun s d =>
    if (s.strm d.hdr.stream.toNat).bound then s.freezeStream d.hdr.stream St.notBound 0x61 d.cseq else s)

/-- A stream leaves its binding (R279, R299): its outstanding commands complete with NOT_BOUND, but for the UNBIND itself and
a RECV on a queue that closes with it, which completes with QUEUE_CLOSED (R20, R325). -/
def State.releaseStream (s : State) (n : Nat) (self : Hdr × Word64) : State :=
  let x := s.strm n
  let k := BitVec.ofNat 8 n
  let b := x.binding.toNat
  let queue := (s.bnd b).queue
  let s := s.streamGone k 2
  let ends := (s.strm n).outst.filter (fun o => !(self.1.stream = k && self.2 = o.cseq))
  let s := s.forAll (s.fab.circuits.map Prod.fst) (fun s c => s.setCirc c ((s.circ c).dropFlows k))
  let s := s.setBnd b ((s.bnd b).dropStream k St.notBound)
  let s := { s with
    syn := { s.syn with
      recvs := s.syn.recvs.filter (fun r => r.hdr.stream ≠ k)
      sigs := s.syn.sigs.filter (fun w => !(w.req.dev = s.sys.myDev && w.req.stream = k)) }
    cnv := { s.cnv with decodes := s.cnv.decodes.filter (fun d => d.hdr.stream ≠ k) } }
  let s := s.forAll s.core.cores (fun s p =>
    s.setCor p.1 { s.cor p.1 with berthQ := (s.cor p.1).berthQ.filter (fun q => q.hdr.stream ≠ k) })
  let s := s.setBnd b { s.bnd b with
    applies := (s.bnd b).applies.filter (fun a => a.2.1.stream ≠ k)
    samples := (s.bnd b).samples.filter (fun x => x.1.stream ≠ k) }
  let s := ((s.cancelWaits k ends).completeAll queue ends St.notBound).kickCircs
  s.setStrm n { s.strm n with bound := false, binding := 0, frozen := false, frzCause := 0, frzOpcode := 0 }

/-- Releases resources of binding `b` of one KIND. -/
def State.release (s : State) (b kind : Nat) (l : List Nat) (self : Hdr × Word64) : State :=
  if kind = 1 then s.forAll (s.localCores l) State.releaseCore
  else if kind = 2 then s.forAll l State.dropCtx
  else if kind = 3 then s.forAll l (fun s k =>
    { s with cmd := { s.cmd with banks := Tab.set (fun _ => none) s.cmd.banks k none } })
  else if kind = 4 then s.forAll l (fun s q =>
    let s := s.queueClose q 4
    s.setQueue q { s.queueAt q with bound := false, binding := 0 })
  else if kind = 5 then s.forAll l State.releaseBuoy
  else if kind = 6 then s.forAll l (fun s h => (((s.dropFrame h).clearInsts h).rejectDecodes h).setChan h Chan.empty)
  else if kind = 7 then s.forAll l (fun s c =>
    (s.rsetField (Reg.fabCircStat c) 29 3 0).setCirc c { s.circ c with bound := false, binding := 0, flows := [] })
  else if kind = 8 then s.forAll l (fun s t => (s.timerReset t).setTimer t Timer.empty)
  else if kind = 9 then s.forAll l (fun s n => s.releaseStream n self)
  else s.forAll l (fun s k => { s with cmd := { s.cmd with
    windows := Tab.set (fun _ => (0, 0)) s.cmd.windows (b * 16 + k) (0, 0) } })

/-- Whether a resource of a KIND belongs to binding `b`. -/
def State.owns (s : State) (b kind k : Nat) : Bool :=
  let o := fun (bound : Bool) (x : BitVec 6) => bound && x.toNat = b
  if kind = 1 then (match s.localOf k with | some n => o (s.cor n).bound (s.cor n).binding | none => false)
  else if kind = 2 then o (s.ctx k).valid (s.ctx k).binding
  else if kind = 3 then s.bankOwner k = some (BitVec.ofNat 6 b)
  else if kind = 4 then o (s.queueAt k).bound (s.queueAt k).binding
  else if kind = 5 then s.buoyOwner k = some (BitVec.ofNat 6 b)
  else if kind = 6 then o (s.chan k).bound (s.chan k).binding
  else if kind = 7 then o (s.circ k).bound (s.circ k).binding
  else if kind = 8 then o (s.timer k).bound (s.timer k).binding
  else if kind = 9 then o (s.strm k).bound (s.strm k).binding
  else k ≤ 15 && (s.window b k).2 ≠ 0

/-- How many resources of a KIND there are. -/
def kindSize (kind : Nat) : Nat :=
  [0, 1024, 262144, 112, 4096, 65472, 4096, 256, 32, 256, 16].getD kind 0

/-- The status of an UNBIND of a KIND other than ALL (R20, R277, R296): of the resources it names, those that exist must be the binding's
whatever else it has wrong. -/
def State.unbindStatus (s : State) (b kind count first : Nat) : Byte :=
  let n := kindSize kind
  worse (need (n ≠ 0 && 1 ≤ count && first + count ≤ n && !(kind = 1 && 16 < count) && !(kind = 10 && count ≠ 1)))
    (owned ((named first count).all (fun k => n ≤ k || s.owns b kind k)))

/-- Every resource of a binding on this device, by KIND: what UNBIND ALL releases. -/
def State.allOwned (s : State) (b kind : Nat) : List Nat :=
  if kind = 1 then (s.coresOf b).map s.sysOf
  else if kind = 2 then (s.ctxsOf b).map Prod.fst
  else if kind = 3 then (s.cmd.banks.map Prod.fst).filter (s.owns b 3)
  else if kind = 4 then (s.syn.queues.map Prod.fst).filter (s.owns b 4)
  else if kind = 5 then (s.syn.owner.map Prod.fst).filter (s.owns b 5)
  else if kind = 6 then (s.cnv.chans.map Prod.fst).filter (s.owns b 6)
  else if kind = 7 then (s.fab.circuits.map Prod.fst).filter (s.owns b 7)
  else if kind = 8 then (s.tmr.timers.map Prod.fst).filter (s.owns b 8)
  else if kind = 9 then (s.cmd.streams.map Prod.fst).filter (s.owns b 9)
  else (List.range 16).filter (s.owns b 10)

/-- UNBIND takes effect (R279). With ALL the streams go first, so that none of them freezes for what goes with them; no later CREATE finds
RAMPED set (R43, R53), and CMD_BND_IMGSZ reads 0. -/
def State.unbindNow (s : State) (b kind count first : Nat) (self : Hdr × Word64) : Effect :=
  if kind = 0xF then
    let s := s.forAll [9, 1, 2, 4, 5, 6, 7, 8, 10, 3] (fun s k => s.release b k (s.allOwned b k) self)
    let s := ((s.setBnd b Binding.empty).rsetBit (Reg.cmdStepStatus b) 3 false).regClear (Reg.cmdBndImgsz b)
    ({ s with kpr := { s.kpr with snaps := s.kpr.snaps.filter (fun x => x.binding.toNat ≠ b) } }, St.ok, 0)
  else
    let st := s.unbindStatus b kind count first
    s.when st (fun s => (s.release b kind (named first count) self).reserve b)

/-! ## Images of contexts (R26, R280) -/

/-- Whether a context lies in the shards of a rule with OVERLAP = 1 (R191). -/
def State.inOverlap (s : State) (b : Nat) (c : Ctx) : Bool :=
  (s.bindingRules b).any (fun p => (s.rule p.1 p.2).overlap && (s.rule p.1 p.2).holds c.cidx.toNat)

/-- One context parks: its image is its neuron state, from STATE_BASE on (R26-R28, R280), written in whole
units of 16 bytes (R358); `false` where its state is uncorrectable and it stays. -/
def State.parkOne (s : State) (b c image : Nat) : State × Bool :=
  let x := s.ctx c
  let n := s.extent b
  if s.badRange x.home n then (s.reportUE x.home n, false)
  else
    let y := { x with res := 2, base := BitVec.ofNat 48 image, frozen := false }
    let (pad, s) := s.drawBytes (round16 n - n)
    let s := (s.putBytes (Mem.hbm + image) (s.bytes x.home n ++ pad)).moved true (Mem.hbm + image) (round16 n)
    let s := s.setCtx c y
    (s.pullEvents b c, true)

/-- The status of a PARK (R191, R280, R296). -/
def State.parkStatus (s : State) (b count first : Nat) (m : Word64) (stride : Nat) : Byte :=
  let l := named first count
  allOf [
    need (1 ≤ count && first + count ≤ 262144 && stride % 64 = 0 && (s.rget (Reg.cmdBndImgsz b)).toNat ≤ stride && mrSpace m = 1 && s.mrefLocal m &&
      l.all (fun c => !s.owns b 2 c || ((s.ctx c).res ≠ 2 && !s.inOverlap b (s.ctx c)))),
    owned (l.all (s.owns b 2)), s.mrefCheck b m (stride * count)]

/-- PARK takes effect. An uncorrectable read leaves its context resident (R280). -/
def State.parkNow (s : State) (b count first : Nat) (m : Word64) (stride : Nat) : Effect :=
  let st := s.parkStatus b count first m stride
  if st ≠ St.ok then s.fail st
  else
    let r := (List.range count).foldl (fun (a : State × Nat) i =>
      let (t, ok) := a.1.parkOne b (first + i) (mrHbm m + i * stride)
      (t, if ok then a.2 + 1 else a.2)) (s, 0)
    (r.1, if r.2 = count then St.ok else St.eccFatal, r.2)

/-- One context resumes (R28, R280); one that resumes at its gate is gated, and its held events stay held (R176). -/
def State.unparkOne (s : State) (b c : Nat) (res : BitVec 2) (base : Nat) : State × Bool :=
  let x := s.ctx c
  let n := s.extent b
  if s.badRange x.home n then (s.reportUE x.home n, false)
  else
    let y := { x with res := res, base := BitVec.ofNat 48 base }
    let g := s.mustGate y
    let s := ((s.putBytes y.home (s.bytes x.home n)).moved false x.home n).setCtx c { y with gated := g, frozen := s.ctxFrozen y }
    (if g then s else s.reinsert c, true)

/-- The status of an UNPARK (R191, R280, R296, R559). -/
def State.unparkStatus (s : State) (b count first : Nat) (res : BitVec 2) (stride base : Nat) : Byte :=
  let l := named first count
  allOf [
    need (1 ≤ count && first + count ≤ 262144 && decide (res.toNat ≤ 1) && base + (count - 1) * stride < 2 ^ 48 &&
      l.all (fun c => !s.owns b 2 c || ((s.ctx c).res = 2 && !s.inOverlap b (s.ctx c)))),
    owned (l.all (s.owns b 2)),
    allOf ((List.range count).map (fun i => s.placeStatus b res (base + i * stride) (s.extent b)))]

/-- UNPARK takes effect. -/
def State.unparkNow (s : State) (b count first : Nat) (res : BitVec 2) (stride base : Nat) : Effect :=
  let st := s.unparkStatus b count first res stride base
  if st ≠ St.ok then s.fail st
  else
    let r := (List.range count).foldl (fun (a : State × Nat) i =>
      let (t, ok) := a.1.unparkOne b (first + i) res (base + i * stride)
      (t, if ok then a.2 + 1 else a.2)) (s, 0)
    if !r.1.spillFits b then s.fail St.badOperand
    else (r.1.reserve b, if r.2 = count then St.ok else St.eccFatal, r.2)

/-! ## SNAPSHOT (R185, R281) -/

/-- The ranges of the byte memory that an image covers: context states, delta regions, weights and route areas of rules. -/
def State.snapRanges (s : State) (b : Nat) : List (Nat × Nat) :=
  (s.ctxsOf b).map (fun p => (p.2.home, s.extent b)) ++
  (s.bindingRules b).flatMap (fun p =>
    let r := s.rule p.1 p.2
    let d := s.mat p.1 p.2
    [(r.region p.1, r.size d), (if d.streamed then Mem.hbm + d.haddr else Mem.store p.1 0 + d.base, d.nrows * d.stride)]) ++
  ((s.coresOf b).filter (fun n => (s.routeEntries n).any (fun u => s.leAt (routeUnit n u) 8 / 2 ^ 41 % 2 = 1))).map (fun n =>
    (Mem.store n 4 + 0x1A000, 0xE6000))

/-- Bytes of the image: descriptors, ranges and instances, and what the device adds for held and queued events and the step number, a
free value (log entry 12). -/
def State.snapSize (s : State) (b : Nat) : Nat :=
  let evs := ((s.ctxsOf b).map (fun p => p.2.held.length)).sum +
    (s.rtr.rings.map (fun p => if (s.coresOf b).contains (p.1 / 64) then p.2.length else 0)).sum
  let insts := s.cnv.insts.map (fun p =>
    let c := s.chan (p.1 / 2 ^ 18)
    if c.bound && c.binding.toNat = b then c.sbytes else 0)
  let n := (s.ctxsOf b).length
  round16 (64 * n + ((s.snapRanges b).map Prod.snd).sum + insts.sum + (Config.imageExtra b n evs).toNat)

/-- What Keeper records (R185, R281). -/
def State.snapOf (s : State) (b : Nat) (at' : BitVec 48) (base : Nat) : Snap :=
  let rs := s.snapRanges b
  let cs := s.coresOf b
  { binding := BitVec.ofNat 6 b, atStep := at', step := (s.bnd b).step, base := BitVec.ofNat 38 base, ranges := rs
    ctxs := s.ctxsOf b
    cells := s.mem.cells.filter (fun c => rs.any (fun r => r.1 ≤ c.1 && c.1 < r.1 + r.2))
    rings := s.rtr.rings.filter (fun p => cs.contains (p.1 / 64))
    insts := s.cnv.insts.filter (fun p => (s.chan (p.1 / 2 ^ 18)).bound && (s.chan (p.1 / 2 ^ 18)).binding.toNat = b)
    regs := (s.bindingRules b).flatMap (fun p => [Reg.coreLrnRstat p.1 p.2, Reg.coreLrnRepoch p.1 p.2].map (fun a => (a, s.rget a)))
    reds := s.core.reds.filter (fun p => (s.bindingRules b).contains (p.1 / 256, p.1 % 256)) }

/-- The rows of an image in the interchange layout (R137): delta and optimiser rows of rules as they are stored, and weight rows packed. -/
def State.snapRows (s : State) (b : Nat) : List Byte :=
  (s.bindingRules b).flatMap (fun p =>
    let r := s.rule p.1 p.2
    let d := s.mat p.1 p.2
    s.bytes (r.region p.1) (r.size d) ++ (List.range d.nrows).flatMap (fun i => s.weightRow p.1 p.2 i))

/-- SNAPSHOT takes effect (R281). Its rows lie where the device puts them, one after the other; the other bytes of the image are the device's
own: free values (log entry 12). -/
def State.snapNow (s : State) (b : Nat) (at' : BitVec 48) (stream : BitVec 8) (m : Word64) (limit : Nat) : Effect :=
  let n := s.snapSize b
  let t := s.bnd b
  let late := at' ≠ BitVec.allOnes 48 && decide (at'.toNat < t.step.toNat)
  let st := worse (need (mrSpace m = 1 && !late && n ≤ limit)) (s.mrefCheck b m n)
  if st ≠ St.ok then s.fail st
  else
    let a := mrHbm m
    let x := s.snapOf b t.step a
    let rows := s.snapRows b
    let k := Config.imageRows b n % (n - rows.length + 1)
    let free := fun (i j : Nat) => (List.range j).map (fun x => Config.imageByte (i + x) b)
    let s := s.putMref stream m ((free 0 k ++ rows ++ free (k + rows.length) (n - rows.length - k)).take n)
    ({ s with kpr := { s.kpr with snaps := s.kpr.snaps ++ [x] } }, St.ok, n)

end Sys2Proof.Machine
end

