-- ==== Sys2Proof/Machine/Loads.lean ====
section
/-! DEFINITION. Machine/Loads.lean: LOADPROG, LOADMAT, LOADROUTE, LOADRULE, CHANCFG, EPOCH, BERTH and COPY (R282, R286, R288, R289, R556,
R557). -/

namespace Sys2Proof.Machine

/-! ## Sources and targets -/

/-- The bytes of a source at the effect of a command: those it took at issue from DATA, else what the memory holds now. -/
def State.srcBytes (s : State) (stream : BitVec 8) (m : Word64) (n : Nat) (data : List Byte) : List Byte × Bool × State :=
  if mrSpace m = 4 then (data, false, s) else s.getMref stream m n

/-- The core a load names (R274, R296): its logical number here, and the status of its checks. -/
def State.loadCore (s : State) (b k : Nat) : Nat × Byte :=
  match s.localOf k with
  | none => (0, St.badOperand)
  | some n => (n, worse (owned ((s.cor n).bound && (s.cor n).binding.toNat = b)) (if s.corePresent n then St.ok else St.coreAbsent))

/-- A load writes its bytes, and their copy in the load shadow (R484). -/
def State.loadBytes (s : State) (a : Nat) (l : List Byte) : State :=
  let s := s.putBytes a l
  { s with mem := { s.mem with shadow := Memory.putBytes s.mem.shadow a l } }

/-- What a load with a source does: ECC_FATAL where the source is uncorrectable. -/
def State.withSrc (s : State) (stream : BitVec 8) (m : Word64) (n : Nat) (data : List Byte) (f : State → List Byte → Effect) : Effect :=
  let (l, bad, t) := s.srcBytes stream m n data
  if bad then (t, St.eccFatal, 0) else f t l

/-! ## LOADPROG (R83-R85) -/

/-- Bytes of the program area in use on core `n`, but for slot `t` when `reload`. -/
def State.areaUsed (s : State) (n t : Nat) (reload : Bool) : Nat :=
  ((List.range 64).map (fun k => if reload && k = t then 0 else (s.slotAt n k).area)).sum

/-- Bytes of the accepted LOADPROGs of a binding for core `n` that are not in force (R83). -/
def State.areaPending (s : State) (b n : Nat) : Nat :=
  ((s.bnd b).boundary.map (fun d => match d.cmd with
    | .loadprog _ core _ _ _ => if s.localOf core.toNat = some n then (imageLen (wordsOf d.data) + 63) / 64 * 64 else 0
    | _ => 0)).sum

/-- The status of a LOADPROG at its issue (R83, R85): a load that takes effect at once may use the space of the slot it replaces
(DEDUCED, log entry 25). -/
def State.progIssue (s : State) (b n t : Nat) (slot : Slot) (len : Nat) (atOnce : Bool) : Byte :=
  worse (slot.status len) (need ((imageLen slot.header + 63) / 64 * 64 + s.areaUsed n t atOnce + s.areaPending b n ≤ 65536))

/-- LOADPROG takes effect (R84): the slot's counters and flags clear; the extents hold with the new slot (R559). -/
def State.loadprogNow (s : State) (b core t : Nat) (poff : BitVec 24) (data : List Byte) : Effect :=
  let (n, st) := s.loadCore b core
  let slot := Slot.ofImage (BitVec.ofNat 6 b) poff data
  let u := s.setSlot n t slot
  let st := worse st (if st = St.ok then worse (slot.status data.length) (u.extentsStatus b) else St.ok)
  s.when st (fun _ =>
    (((u.regClear (Reg.coreNrnExcLo n t)).regClear (Reg.coreNrnSpkLo n t)).regClear (Reg.coreNrnFlags n t)).imgszNow b)

/-! ## LOADMAT (R91-R96) -/

/-- Rule state of a matrix that a load of the matrix or the rule clears (R163): deltas, optimiser state, timing accumulators. -/
def State.clearRegion (s : State) (n m : Nat) : State :=
  let r := s.rule n m
  if !r.valid then s
  else (s.clearRange (r.region n) (r.size (s.mat n m))).dropConv (r.region n) (r.size (s.mat n m))

/-- The flags of a rule's status register clear. -/
def State.clearRuleFlags (s : State) (n m : Nat) : State := s.rsetField (Reg.coreLrnRstat n m) 0 6 0

/-- The rule of a matrix goes (R557). -/
def State.removeRule (s : State) (n m : Nat) : State :=
  let s := s.clearRegion n m
  let s := s.loadBytes (ruleAddr n m) (List.replicate 128 0)
  ((s.setRed n m Reduction.empty).regClear (Reg.coreLrnRstat n m)).regClear (Reg.coreLrnRepoch n m)

/-- Rows of a matrix are written anew: they leave the row buffer (R96) and have no previous conversion (R147). -/
def State.rowsLoaded (s : State) (n m first count : Nat) : State :=
  let d := s.mat n m
  let s := s.dropConv (weightKey n m first) (count * 64)
  s.setCor n ((s.cor n).dropRows (Mem.store n 0 + d.base + first * d.stride) (count * d.stride))

/-- Berths that hold a matrix become EMPTY, and BERTHs that name it and have not begun complete with BAD_OPERAND (R557). -/
def State.dropBerths (s : State) (n m : Nat) : State :=
  let c := s.cor n
  let free := fun (x : Berth) => if x.state ≠ 0 ∧ x.matrix.toNat = m then { x with state := 0, cur := none } else x
  let qs := c.berthQ.filter (fun q => q.matrix.toNat = m)
  let held := [c.berth0, c.berth1].filter (fun x => x.state ≠ 0 ∧ x.matrix.toNat = m)
  let out := held.foldl (fun (c : Core) x => c.dropRows (Mem.store n 0 + x.base.toNat * 4096) (x.lines.toNat * 4096)) c
  let s := s.setCor n { out with
    berth0 := free c.berth0, berth1 := free c.berth1, berthQ := c.berthQ.filter (fun q => q.matrix.toNat ≠ m) }
  (s.forAll qs (fun s q => s.finish q.hdr q.cseq 0x25 St.badOperand 0)).kickCircs

/-- LOADMAT takes effect: the descriptor, then the rows in the layout of the store (R94); a removal where VALID is 0 (R557). What a rule's
region holds goes under the old descriptor and under the new one (R163). The 16-bit elements of rows that come in DATA frames travel most
significant byte first (R134). -/
def State.loadmatNow (s : State) (b core m : Nat) (desc : List Word) (stream : BitVec 8) (src : Word64) (first count : Nat)
    (data : List Byte) : Effect :=
  let (n, st) := s.loadCore b core
  let d := MatDesc.ofWords desc
  let old := s.mat n m
  if !d.valid then
    let st := worse st (need (d.reserved && d.binding = b && count = 0))
    s.when st (fun s =>
      if !old.valid then s
      else
        let s := if (s.rule n m).valid then s.removeRule n m else s
        let s := (((s.dropConv (weightKey n m 0) (65536 * 64)).dropBerths n m).regClear (Reg.coreSynMstat n m))
        (s.loadBytes (matAddr n m) (List.replicate 32 0)).regate b)
  else
    let st := worse st (worse (if st = St.ok then s.matStatus b n m d first count else St.ok)
      (owned (!old.valid || old.binding = b)))
    let size := count * d.stride
    let st := worse st (if count = 0 then St.ok else s.mrefCheck b src size)
    if st ≠ St.ok then s.fail st
    else s.withSrc stream src size data (fun s l =>
      let s := if (s.rule n m).valid then (s.clearRegion n m).clearRuleFlags n m else s
      let s := s.regClear (Reg.coreSynMstat n m)
      let s := s.loadBytes (matAddr n m) (desc.flatMap (fun w => leBytes 4 w.toNat))
      let s := if old.valid then s.clearRegion n m else s
      let row := fun (i : Nat) =>
        let x := (l.drop (i * d.stride)).take d.stride
        if mrSpace src = 4 && !fmtBlocked d.fmt then swapPairs x else x
      let s := s.forAll (List.range count) (fun s i =>
        s.loadBytes (Mem.store n 0 + d.base + (first + i) * d.stride) (storeLayout d.fmt d.ncol (row i)))
      (s.rowsLoaded n m first count, St.ok, count))

/-! ## LOADROUTE (R203-R206) -/

/-- LOADROUTE takes effect: UNITS units at UNIT_FIRST and the slot's IDX_FIRST. -/
def State.loadrouteNow (s : State) (b core t idx : Nat) (stream : BitVec 8) (src : Word64) (first units : Nat)
    (data : List Byte) : Effect :=
  let (n, st) := s.loadCore b core
  let st := worse st (s.mrefCheck b src (8 * units))
  if st ≠ St.ok then s.fail st
  else s.withSrc stream src (8 * units) data (fun u l =>
    let st := s.routeStatus b n t idx first ((cut 8 l).map leNat)
    let v := ((u.loadBytes (routeUnit n first) l).loadBytes (Mem.store n 4 + 0x1A000 + 4 * t) (leBytes 4 (2 ^ 31 + idx))).setUnits n t
      (first, units)
    if st ≠ St.ok then s.fail st
    else if !v.spillFits b then s.fail St.badOperand
    else (v.reserve b, St.ok, units))

/-! ## LOADRULE (R160-R163) -/

/-- LOADRULE takes effect: the entry, with no epoch applied; a removal where VALID is 0 (R557). -/
def State.loadruleNow (s : State) (b core m : Nat) (stream : BitVec 8) (src : Word64) (data : List Byte) : Effect :=
  let (n, st) := s.loadCore b core
  let st := worse st (s.mrefCheck b src 128)
  if st ≠ St.ok then s.fail st
  else s.withSrc stream src 128 data (fun u l =>
    let r : RuleDesc := ⟨wordsOf l⟩
    let old := s.rule n m
    if !r.valid then
      u.when (need (r.reservedOk && r.binding = b && r.matrix = m)) (fun u =>
        ((if old.valid then u.removeRule n m else u).regate b).imgszNow b)
    else
      let st := s.ruleStatus b n m r
      let u := u.clearRegion n m
      let u := u.loadBytes (ruleAddr n m) l
      let u := (u.clearRegion n m).setRed n m Reduction.empty
      let u := (u.regClear (Reg.coreLrnRstat n m)).regClear (Reg.coreLrnRepoch n m)
      let st := worse st (if st = St.ok then u.extentsStatus b else St.ok)
      if st ≠ St.ok then s.fail st else ((u.regate b).imgszNow b, St.ok, 0))

/-! ## CHANCFG (R235-R237) -/

/-- The channel a descriptor describes. -/
def Chan.ofBytes (b : Nat) (frozen : Bool) (l : List Byte) : Chan :=
  { bound := true, binding := BitVec.ofNat 6 b, frozen := frozen, desc := (wordsOf l).take 16 }

/-- Bytes of a CHANCFG source: 64, and 128 more for a POPV decoder. -/
def chanLen (head : List Byte) : Nat :=
  let w := leNat (head.take 4)
  if w / 2 ^ 31 = 1 ∧ w / 2 ^ 30 % 2 = 1 ∧ w / 2 ^ 26 % 16 = 2 then 192 else 64

/-- CHANCFG takes effect (R237): instance state clears; a decoder that was VALID keeps its emitted values, and its computed values
equal them until it decodes. The table of a POPV decoder goes into the channel area, behind the place of the descriptor's 64 bytes (DESIGN
CHOICE, log entry 65). -/
def State.chancfgNow (s : State) (b h : Nat) (stream : BitVec 8) (src : Word64) (data : List Byte) : Effect :=
  let head := (s.srcBytes stream src 64 data).1
  let len := chanLen head
  let c := s.chan h
  let st := worse (owned (c.bound && c.binding.toNat = b)) (s.mrefCheck b src len)
  if st ≠ St.ok then s.fail st
  else s.withSrc stream src len data (fun u l =>
    let new := Chan.ofBytes b c.frozen l
    if !new.valid then
      u.when (need (new.reservedOk && new.f 0 20 6 = b)) (fun u =>
        if !c.valid then u
        else (((((u.leaveFrame h).clearInsts h).dropDecodes h).setChan h { Chan.empty with bound := true, binding := c.binding, frozen := c.frozen }).regClear
          (Reg.cnvChStat h)).reserve b)
    else
      let st := s.chanStatus b new l.length
      let keep := if c.valid && c.dec && new.dec then (s.chanCtxs h).map (fun p => (p.2.cidx.toNat, (s.instOf h p.2.cidx.toNat).e)) else []
      let u := ((u.clearInsts h).setChan h new)
      let u := u.forAll keep (fun u p => u.setInst h p.1 { Inst.empty with v := p.2, e := p.2, kept := true })
      let u := if new.dec && new.kind = 2 then
          u.putBytes (Mem.slice new.sslice + new.soff + 64) ((l.drop 64).take 128) else u
      if st ≠ St.ok then s.fail st
      else if !u.spillFits b then s.fail St.badOperand
      else (u.reserve b, St.ok, 0))

/-! ## EPOCH (R286) -/

/-- EPOCH takes effect: EPOCH_LEN and EPOCH_BASE of every rule of GROUP, on other devices with the next broadcast (R283). -/
def State.epochNow (s : State) (b g len : Nat) (base : BitVec 48) : Effect :=
  let rs := s.groupRules b g
  let far := s.peerAsk b g
  let ok := (rs ≠ [] || far.getLsbD 0) && far.getLsbD 2 && 1 ≤ len && rs.all (fun p =>
    let r := s.rule p.1 p.2
    let d := s.mat p.1 p.2
    (s.memberCtxs p).all (fun c => c.2.cstep.toNat ≤ base.toNat) && (!r.overlap || (d.nrows + r.ovlRows - 1) / r.ovlRows ≤ len))
  s.when (need ok) (fun s =>
    let s := if 1 < (s.bnd b).nDevs then
        s.setBnd b { s.bnd b with epochsOut := (s.bnd b).epochsOut ++ [(BitVec.ofNat 8 g, BitVec.ofNat 24 len, base)] }
      else s
    s.epochSet b g len base)

/-! ## BERTH (R114, R116, R288) -/

/-- The status of a BERTH at issue (R114, R288). -/
def State.berthStatus (s : State) (b core m circuit k : Nat) (first last base lines : Nat) : Byte :=
  let (n, st) := s.loadCore b core
  let c := s.cor n
  let x := c.berth k
  let y := c.berth (1 - k)
  let d := s.mat n m
  let declared := x.lines ≠ 0
  let lines' := if declared then x.lines.toNat else lines
  let base' := if declared then x.base.toNat else base
  let ranges := (s.matsOf n).filter (fun j => !(s.mat n j).streamed)
  let given := (if y.state ≠ 0 ∧ y.matrix.toNat = m then [(y.first.toNat, y.last.toNat)] else []) ++
    (c.berthQ.filter (fun q => q.b.toNat = 1 - k ∧ q.matrix.toNat = m)).map (fun q => (q.first.toNat, q.last.toNat))
  allOf [st, owned (s.owns b 7 circuit && (!d.valid || d.binding = b)),
    if st ≠ St.ok then St.ok else need (
      d.valid && d.streamed && first ≤ last && 1 ≤ lines' && base' + lines' ≤ 12288 &&
      (!declared || lines = 0 || (lines = lines' && base = base')) && d.nrows * d.stride ≤ lines' * 4096 &&
      ranges.all (fun j => !meets (base' * 4096) (lines' * 4096) (s.mat n j).base ((s.mat n j).nrows * (s.mat n j).stride)) &&
      (y.lines = 0 || !meets base' lines' y.base.toNat y.lines.toNat) &&
      given.all (fun r => last < r.1 || r.2 < first))]

/-- A BERTH issues: it declares its berth and joins the core's queue. -/
def State.berthIssue (s : State) (h : Hdr) (cseq : Word64) (core m circuit k : Nat) (first last : BitVec 48) (base lines : BitVec 14) :
    State :=
  let n := (s.localOf core).getD 0
  let c := s.cor n
  let x := c.berth k
  let c := if x.lines = 0 then c.setBerth k { x with base := base, lines := lines } else c
  s.setCor n { c with berthQ := c.berthQ ++
    [BerthCmd.mk h cseq (BitVec.ofNat 8 m) (BitVec.ofNat 8 circuit) (BitVec.ofNat 1 k) first last s.cmd.issues] }

/-! ## COPY (R289) -/

/-- Modulator `k` of a context. -/
def Ctx.setMod (c : Ctx) (k : Nat) (v : Word) : Ctx :=
  if k = 0 then { c with mod0 := v } else if k = 1 then { c with mod1 := v }
  else if k = 2 then { c with mod2 := v } else { c with mod3 := v }

/-- The first uncorrectable word a copy of `n` bytes from a local source meets, as a number of bytes before it; `n` if none. -/
def State.cleanLen (s : State) (m : Word64) (n : Nat) : Nat :=
  if !s.mrefLocal m then n
  else
    let a := s.mrefAddr m
    (s.mem.bad.filter (fun w => decide (a < w * 8 + 8) && decide (w * 8 < a + n))).foldl (fun x w => min x (w * 8 - a)) n

/-- COPY of modulators: for each context in order, its selected words in ascending number, up to an uncorrectable word of the source
(R289). -/
def State.copyMods (s : State) (mask : BitVec 4) (count first : Nat) (stream : BitVec 8) (src : Word64) (data : List Byte) : Effect :=
  let ks := (List.range 4).filter (fun k => mask.getLsbD k)
  let n := 4 * ks.length * count
  let clean := if mrSpace src = 4 then n else s.cleanLen src n
  let (l, _, s) := s.srcBytes stream src n data
  let s := s.forAll (List.range count) (fun s i =>
    s.forAll (ks.zipIdx.filter (fun p => 4 * (i * ks.length + p.2) + 4 ≤ clean)) (fun s p =>
      s.setCtx (first + i) ((s.ctx (first + i)).setMod p.1
        (BitVec.ofNat 32 (leNat ((l.drop (4 * (i * ks.length + p.2))).take 4))))))
  (s, if clean = n then St.ok else St.eccFatal, clean / (4 * ks.length))

/-- COPY of bytes over VC2, or within the device: the writes before an uncorrectable word stay (R289). -/
def State.copyBytes (s : State) (stream : BitVec 8) (src dst : Word64) (len : Nat) (data : List Byte) : Effect :=
  let n := if mrSpace src = 4 then len else s.cleanLen src len
  let (l, _, s) := s.srcBytes stream src len data
  let s := if n = 0 then s else s.putMref stream dst (l.take n)
  (s, if n = len then St.ok else St.eccFatal, n)

/-- The chunks of a copy on a circuit (R386). -/
def flowChunks (dst : Word64) (l : List Byte) : List (BitVec 18 × Word64 × List Byte) :=
  (cut 65536 l).zipIdx.map (fun p => (BitVec.ofNat 18 p.2, dst + BitVec.ofNat 64 (p.2 * 65536), p.1))

end Sys2Proof.Machine
end

