-- ==== Sys2Proof/Machine/Commands.lean ====
section
/-! DEFINITION. Machine/Commands.lean: the command engine: decode, checks, issue and completion of every command (R258-R299). -/

namespace Sys2Proof.Machine

/-! ## The words of a command (R260, R273, R274) -/

/-- The words after word 0 that a command takes; none for a row that is no command of the set or a reserved opcode. -/
def nwOf : Instr → Option Nat
  | .bind _ kind .. => some (if kind = 0 ∨ kind = 10 then 2 else if kind = 2 then 3 else 0)
  | .park .. => some 2
  | .unpark .. => some 2
  | .snapshot .. => some 2
  | .loadprog .. => some 1
  | .loadmat .. => some 6
  | .loadroute .. => some 2
  | .loadrule .. => some 1
  | .epoch .. => some 1
  | .berth .. => some 3
  | .copy .. => some 3
  | .wait .. => some 1
  | .watch .. => some 2
  | .take .. => some 1
  | .send _ _ nm1 .. => some (nm1.toNat + 1)
  | .recv .. => some 2
  | .encode .. => some 2
  | .decode .. => some 2
  | .chancfg .. => some 1
  | .timestamp .. => some 1
  | .unbind .. => some 0
  | .step _ => some 0
  | .run .. => some 0
  | .halt _ => some 0
  | .apply .. => some 0
  | .signal .. => some 0
  | .dec .. => some 0
  | .fence .. => some 0
  | .hint .. => some 0
  | .note .. => some 0
  | _ => none

/-- The opcodes of R273. -/
def opcodeOk (op : Byte) : Bool :=
  decide (op.toNat ∈ [1, 2, 3, 4, 5, 0x10, 0x11, 0x12, 0x13, 0x20, 0x21, 0x22, 0x23, 0x24, 0x25, 0x30, 0x40, 0x41, 0x42, 0x43, 0x44,
    0x50, 0x51, 0x60, 0x61, 0x62, 0x70, 0x71, 0x80, 0x90])

/-- The status of R260: BAD_OPCODE, or BAD_OPERAND where NW, or the words a command carries, are not what its opcode requires, or where its
words are cut short, whatever its opcode: the higher code (R20, R407). -/
def wordStatus (c : Instr) : Byte :=
  match c with
  | .reservedOpcode _ op cut => if cut || opcodeOk op then St.badOperand else St.badOpcode
  | .loadmat h _ _ desc _ _ _ => need (h.nw.toNat = 6 && desc.length = 8)
  | .send h _ nm1 _ _ msg => need (h.nw.toNat = nm1.toNat + 1 && msg.length = nm1.toNat + 1)
  | c => match cmdHdr c with
    | some (h, _) => need (some h.nw.toNat = nwOf c)
    | none => St.badOpcode

/-- Whether a stream without a binding accepts a command (R296). -/
def unboundOk (c : Instr) : Bool :=
  match c with
  | .bind _ kind .. => kind = 0
  | .unbind _ kind .. => kind = 0xF
  | .fence .. => true
  | .timestamp _ w dst => w = 0 && mrSpace dst = 4
  | .note .. => true
  | _ => false

/-- Whether the command engine accepts commands (R468, R474): after B8, in a power state in which ACLK runs (R445). -/
def State.accepting (s : State) : Bool :=
  2 ≤ s.rfield Reg.budState 30 2 && (s.ltn.power = .run || s.ltn.power = .doze)

/-- Whether the effect of a command reaches a core's stores, so that it waits in DOZE (R447). -/
def reachesCore (c : Instr) : Bool :=
  match c with
  | .step _ => true
  | .run .. => true
  | .loadprog .. => true
  | .loadmat .. => true
  | .loadroute .. => true
  | .loadrule .. => true
  | .park .. => true
  | .unpark .. => true
  | .snapshot .. => true
  | .berth .. => true
  | .bind _ kind .. => kind = 1
  | .unbind _ kind .. => kind = 1 || kind = 0xF
  | .copy _ _ _ _ _ src dst .. => mrSpace src = 3 || mrSpace dst = 3
  | _ => false

/-! ## Boundary commands (R270) -/

/-- Whether a binding has no step running or queued. -/
def State.idle (s : State) (b : Nat) : Bool :=
  let x := s.bnd b
  !x.running && !x.waitSlot && x.queue = []

/-- The effect of a boundary command of binding `b`. -/
def State.effect (s : State) (b : Nat) (d : Deferred) : Effect :=
  match d.cmd with
  | .bind _ kind count first w1 w2 w3 => s.bindNow b kind.toNat count.toNat first.toNat w1 w2 w3
  | .unbind h kind count first => s.unbindNow b kind.toNat count.toNat first.toNat (h, d.cseq)
  | .park _ count first m stride => s.parkNow b count.toNat first.toNat m stride.toNat
  | .unpark _ count first res stride base => s.unparkNow b count.toNat first.toNat res stride.toNat base.toNat
  | .snapshot h t m limit => s.snapNow b t h.stream m limit.toNat
  | .loadprog _ core slot poff _ => s.loadprogNow b core.toNat slot.toNat poff d.data
  | .loadmat h core m desc src first count => s.loadmatNow b core.toNat m.toNat desc h.stream src first.toNat count.toNat d.data
  | .loadroute h core slot idx src first units =>
    s.loadrouteNow b core.toNat slot.toNat idx.toNat h.stream src first.toNat units.toNat d.data
  | .loadrule h core m src => s.loadruleNow b core.toNat m.toNat h.stream src d.data
  | .epoch _ g len base => s.epochNow b g.toNat len.toNat base
  | .chancfg h ch src => s.chancfgNow b ch.toNat h.stream src d.data
  | _ => s.fail St.badOperand

/-- Bytes of rows a LOADMAT takes: none where it removes the matrix. -/
def matBytes (desc : List Word) (count : Nat) : Nat :=
  let d := MatDesc.ofWords desc
  if d.valid && d.fmt ≤ 8 then count * d.stride else 0

/-- Whether the core or bank that a STATE_BASE names is bound to the binding (R296, R559). -/
def State.homeOwned (s : State) (b : Nat) (res : BitVec 2) (base : Nat) : Bool :=
  let k := base / 2 ^ 40
  if res = 0 then (s.cor k).bound && (s.cor k).binding.toNat = b
  else if res = 1 then decide (k < 28) && s.sliceOwned b k (base % 2 ^ 23) 1
  else true

/-- Whether the STATE_BASEs of an UNPARK are the binding's (R296). -/
def State.basesOwned (s : State) (b count : Nat) (res : BitVec 2) (stride base : Nat) : Bool :=
  (List.range count).all (fun i => s.homeOwned b res (base + i * stride))
/-- Whether the STATE_BASEs of a BIND of contexts are the binding's (R296). -/
def State.newBasesOwned (s : State) (b count : Nat) (w1 w2 : Word64) : Bool :=
  (List.range count).all (fun i => let x := boundCtx b i w1 w2 0; s.homeOwned b x.res x.base.toNat)

/-- Bytes that the source of a COPY of modulators holds (R289). -/
def modBytes (mask : BitVec 4) (count : Nat) : Nat := 4 * ((List.range 4).filter (fun k => mask.getLsbD k)).length * count

/-- Whether what a deferred command names has been unbound or re-bound since it issued, so that its target rejects it (R297). -/
def State.targetGone (s : State) (b : Nat) (d : Deferred) : Bool :=
  let core := fun (k : BitVec 10) => match s.localOf k.toNat with
    | some n => !((s.cor n).bound && (s.cor n).binding.toNat = b)
    | none => false
  let ref := fun (m : Word64) (n : Nat) => mrSpace m ≠ 4 && !s.mrefOwned b m n
  let ctxs := fun (count first : Nat) => !(named first count).all (s.owns b 2)
  match d.cmd with
  | .park _ count first m stride => ctxs count.toNat first.toNat || ref m (stride.toNat * count.toNat)
  | .unpark _ count first res stride base => ctxs count.toNat first.toNat || !s.basesOwned b count.toNat res stride.toNat base.toNat
  | .bind _ kind count _ w1 w2 _ => kind = 2 && !s.newBasesOwned b count.toNat w1 w2
  | .snapshot _ _ m limit => ref m (min (s.snapSize b) limit.toNat)
  | .loadprog _ k _ _ _ => core k
  | .loadmat _ k _ desc m _ count => core k || (count ≠ 0 && ref m (matBytes desc count.toNat))
  | .loadroute _ k _ _ m _ units => core k || ref m (8 * units.toNat)
  | .loadrule _ k _ m => core k || ref m 128
  | .chancfg _ ch m => !s.owns b 6 ch.toNat || ref m 64
  | .copy _ kind mask count first src dst len _ _ =>
    if kind = 0 then ref src len.toNat || ref dst len.toNat else ctxs count.toNat first.toNat || ref src (modBytes mask count.toNat)
  | _ => false

/-- COPY of bytes, its DATA taken in `l` (R289): as a flow of its circuit, else over VC2 or within the device. -/
def State.copyGo (s : State) (h : Hdr) (cseq : Word64) (src dst : Word64) (len circuit : Nat) (useCircuit : Bool) (l : List Byte) : State :=
  if useCircuit && s.onCircuit circuit && mrSpace dst ≠ 4 && len ≠ 0 then
    let n := if mrSpace src = 4 then len else s.cleanLen src len
    let (bytes, _, t) := s.srcBytes h.stream src len l
    if n < len then (t.putMref h.stream dst (bytes.take n)).wrote h cseq 0x30 dst n St.eccFatal n 0
    else
      let t := t.tookPath h cseq 0x30 (circuit + 1)
      let order := (((t.strm h.stream.toNat).outst.find? (fun o => o.cseq = cseq)).map (fun o => o.order)).getD t.cmd.issues
      t.addFlow circuit { cmd := some (h, cseq), bytes := len, chunks := flowChunks dst bytes, learn := none,
                          src := if s.mrefLocal src then some (s.mrefAddr src) else none, order := order, going := false }
  else
    let (t, st, res) := s.copyBytes h.stream src dst len l
    t.wrote h cseq 0x30 dst res st res 0

/-- COPY of modulators, its DATA taken in `l`, with its completion (R289). -/
def State.modsDone (s : State) (h : Hdr) (cseq : Word64) (mask : BitVec 4) (count first : Nat) (src : Word64) (l : List Byte) : State :=
  let (t, st, res) := s.copyMods mask count first h.stream src l
  t.complete h cseq 0x30 st res

/-- A boundary command takes effect and completes; where its target rejects it, it completes with NOT_BOUND and its stream freezes
(R297). A COPY whose route is lost by then completes with LINK_LOST (R289). -/
def State.effectDone (s : State) (b : Nat) (d : Deferred) : State :=
  match cmdHdr d.cmd with
  | none => s
  | some (h, op) =>
    if s.targetGone b d && (s.strm h.stream.toNat).bound then s.rejected h d.cseq op
    else match d.cmd with
    | .copy _ kind mask count first src dst len circuit use =>
      if s.noRoute src || (kind = 0 && s.noRoute dst) then s.complete h d.cseq op St.linkLost 0
      else if kind = 0 then s.copyGo h d.cseq src dst len.toNat circuit.toNat use d.data
      else s.modsDone h d.cseq mask count.toNat first.toNat src d.data
    | _ =>
      let (t, st, res) := s.effect b d
      t.complete h d.cseq op st res

/-- BOUNDARY_COMMAND_EFFECT (R270): at a boundary of the binding, the first boundary command in issue order that may take effect
does. -/
def State.boundaryEffect (s : State) (b : Nat) : State :=
  let x := s.bnd b
  if x.running then s
  else match x.boundary.find? (fun d => s.deferReady b d) with
    | none => s
    | some d => (s.setBnd b { x with boundary := x.boundary.erase d }).effectDone b d

/-- Whether a boundary command takes effect as it issues (R270): its binding has no step running or queued, and no earlier one that may take
effect is left. -/
def State.atOnce (s : State) (b : Nat) (d : Deferred) : Bool :=
  s.idle b && s.deferReady b d && (s.bnd b).boundary.all (fun e => !s.deferReady b e)
/-- A boundary command waits for its boundary. -/
def State.defer (s : State) (b : Nat) (h : Hdr) (op : Byte) (d : Deferred) : State :=
  let s := s.outstanding h d.cseq op
  s.setBnd b { s.bnd b with boundary := (s.bnd b).boundary ++ [d] }

/-- A boundary command issues (R270): at once where nothing stands before it, else at the next boundary. The state `taken` is the one in which it has consumed its DATA; a command that fails at once consumes nothing. -/
def State.boundary (s taken : State) (b : Nat) (h : Hdr) (op : Byte) (d : Deferred) : State :=
  if s.atOnce b d then
    let (t, st, res) := taken.effect b d
    let failed := st ≠ St.ok && st ≠ St.eccFatal && st ≠ St.sat && st ≠ St.rescued
    if failed then s.complete h d.cseq op st res else t.complete h d.cseq op st res
  else taken.defer b h op d

/-- Takes the bytes of a source at issue: DATA is consumed (R265), memory is read at the effect. -/
def State.takeSrc (s : State) (stream : BitVec 8) (m : Word64) (n : Nat) : List Byte × State :=
  if mrSpace m = 4 then ((s.getMref stream m n).1, (s.getMref stream m n).2.2) else ([], s)

/-- A boundary command with a source of `n` bytes: it waits for its DATA (R265). -/
def State.boundarySrc (s : State) (b : Nat) (h : Hdr) (op : Byte) (c : Instr) (cseq : Word64) (m : Word64) (n : Nat) : Option State :=
  if !s.sourceReady h.stream m n then none
  else
    let (l, t) := s.takeSrc h.stream m n
    some (s.boundary t b h op ⟨c, cseq, l⟩)

/-! ## Bindings (R276-R281) -/

/-- Answers the join of device `dev` with DEVMASK `mask` (R276): the binding here must be led here and have the same DEVMASK. -/
def State.answerJoin (s : State) (b : Nat) (dev : BitVec 6) (mask : Word64) : State :=
  let x := s.bnd b
  if x.mask ≠ mask ∨ !mask.getLsbD dev.toNat ∨ !s.isLead b then s.toDevice dev.toNat 6 2 (.joinAnswer (BitVec.ofNat 6 b) dev false)
  else
    let s := if x.joined.contains dev.toNat then s else s.setBnd b { x with joined := x.joined ++ [dev.toNat] }
    s.toDevice dev.toNat 6 2 (.joinAnswer (BitVec.ofNat 6 b) dev true)

/-- Answers the joins that waited for this device's own CREATE (R276). -/
def State.answerJoins (s : State) (b : Nat) : State :=
  let l := (s.bnd b).joinsHeld
  let s := s.setBnd b { s.bnd b with joinsHeld := [] }
  s.forAll l (fun s j => s.answerJoin b j.1 j.2)

/-- The step registers of a binding that begins: no overrun counted, no decoder ramping (R43, R52, R53). -/
def State.bindingFresh (s : State) (b : Nat) : State :=
  (s.regClear (Reg.cmdStepOverrun b)).rsetBit (Reg.cmdStepStatus b) 3 false

/-- CREATE on a stream without a binding (R276). A member shows nothing of it until the lead has answered. -/
def State.create (s : State) (h : Hdr) (cseq : Word64) (b : Nat) (mask seed : Word64) : State :=
  let lead := ((maskDevs mask).headD 0)
  let x := { Binding.empty with lead := BitVec.ofNat 6 lead, mask := mask, seed := seed, joinsHeld := (s.bnd b).joinsHeld }
  let st := s.strm h.stream.toNat
  if lead = s.sys.myDev.toNat then
    let s := (s.bindingFresh b).setBnd b { x with valid := true, joined := [lead] }
    ((s.setStrm h.stream.toNat { st with bound := true, binding := BitVec.ofNat 6 b }).complete h cseq 0x01 St.ok 0).answerJoins b
  else
    let s := (s.setBnd b { x with joinWait := some (h, cseq) }).outstanding h cseq 0x01
    s.toDevice lead 6 2 (.join (BitVec.ofNat 6 b) (BitVec.ofNat 6 lead) mask)

/-- The status of a CREATE (R276, R474). -/
def State.createStatus (s : State) (stream : BitVec 8) (b count : Nat) (mask : Word64) : Byte :=
  worse
    (need (!(s.strm stream.toNat).bound && b < 64 && count = 0 && mask.getLsbD s.sys.myDev.toNat && !(s.bnd b).valid &&
      (s.bnd b).joinWait = none))
    (owned ((maskDevs mask).all (fun d => decide (d ∈ s.sys.ready))))

/-- BIND (R276-R278). -/
def State.issueBind (s : State) (h : Hdr) (cseq : Word64) (c : Instr) (kind : BitVec 4) (count first : Nat) (w1 w2 : Word64) :
    State :=
  let b := (s.strm h.stream.toNat).binding.toNat
  if kind = 0 then
    let st := s.createStatus h.stream first count w1
    if st = St.ok then s.create h cseq first w1 w2 else s.complete h cseq 0x01 st 0
  else if 10 < kind.toNat then s.complete h cseq 0x01 St.badOperand 0
  else if kind = 2 && !s.newBasesOwned b count w1 w2 then s.complete h cseq 0x01 St.notBound 0
  else s.boundary s b h 0x01 ⟨c, cseq, []⟩

/-- The binding halts before an UNBIND of a core or of all of it takes effect (R279): on every device through the lead, which learns
whether this member leaves the binding. -/
def State.haltFor (s : State) (b : Nat) (leaves : Bool) : State :=
  let x := s.bnd b
  let s := if s.isLead b then s else s.toDevice x.lead.toNat 4 1 (.haltAll (BitVec.ofNat 6 b) x.lead leaves)
  if s.idle b then s else s.haltBinding b

/-- The lead takes a member's request to halt the binding (R279); a member that leaves has joined no longer. -/
def State.memberHalts (s : State) (b : Nat) (dev : BitVec 6) (leaves : Bool) : State :=
  let s := if leaves then s.setBnd b { s.bnd b with joined := (s.bnd b).joined.filter (fun d => d ≠ dev.toNat) } else s
  if s.idle b then s else s.haltBinding b

/-- UNBIND (R279). -/
def State.issueUnbind (s : State) (h : Hdr) (cseq : Word64) (c : Instr) (kind : BitVec 4) (count first : Nat) : State :=
  let x := s.strm h.stream.toNat
  let b := if kind = 0xF then first else x.binding.toNat
  let st :=
    if kind = 0xF then worse (need (b < 64 && count = 0 && (s.bnd b).valid)) (owned (!x.bound || x.binding.toNat = b))
    else s.unbindStatus b kind.toNat count first
  if st ≠ St.ok then s.complete h cseq 0x02 st 0
  else if kind = 1 ∨ kind = 0xF then
    let s := s.haltFor b (kind = 0xF)
    s.boundary s b h 0x02 ⟨c, cseq, []⟩
  else s.boundary s b h 0x02 ⟨c, cseq, []⟩

/-- JOIN_ACKNOWLEDGEMENT (R276): on the member the lead's answer completes its CREATE; on the lead the join of device `dev` with
DEVMASK `mask` is answered, or waits until the lead's own CREATE; with `ok` false it is a member's request to halt the binding, and with
`mask` 0 too the member leaves it (R279). -/
def State.joinAck (s : State) (b : Nat) (dev : BitVec 6) (mask : Word64) (ok : Bool) : State :=
  let x := s.bnd b
  if dev = s.sys.myDev then
    match x.joinWait with
    | none => s
    | some (h, cseq) =>
      if ok then
        let s := (s.bindingFresh b).setBnd b { x with valid := true, joinWait := none }
        let st := s.strm h.stream.toNat
        ((s.setStrm h.stream.toNat { st with bound := true, binding := BitVec.ofNat 6 b }).complete h cseq 0x01 St.ok 0).answerJoins b
      else (s.setBnd b { Binding.empty with joinsHeld := x.joinsHeld }).complete h cseq 0x01 St.badOperand 0
  else if !ok then (if x.valid && s.isLead b && x.mask.getLsbD dev.toNat then s.memberHalts b dev (mask = 0) else s)
  else if x.valid then s.answerJoin b dev mask
  else if (dev, mask) ∈ x.joinsHeld then s
  else s.setBnd b { x with joinsHeld := x.joinsHeld ++ [(dev, mask)] }

/-! ## Steps (R283-R288) -/

/-- Whether every device of a binding has joined it (R283, R300). -/
def Binding.complete (x : Binding) : Bool := (maskDevs x.mask).all (fun d => x.joined.contains d)

/-- STEP and RUN (R30, R283): none while the step queue is full. -/
def State.issueStep (s : State) (h : Hdr) (cseq : Word64) (op : Byte) (n : Option Nat) : Option State :=
  let b := (s.strm h.stream.toNat).binding.toNat
  let x := s.bnd b
  let left := n.getD 1 + withdrawn x.queue
  let st := worse (need (s.isLead b && decide (x.step.toNat + left < 2 ^ 48))) (owned (!s.isLead b || x.complete))
  if st ≠ St.ok then some (s.complete h cseq op st 0)
  else if 16 ≤ x.queue.length then none
  else some ((s.setBnd b { x with queue := x.queue ++ [⟨h, cseq, op, n, 0, St.ok, []⟩] }).outstanding h cseq op)

/-- HALT (R285). -/
def State.issueHalt (s : State) (h : Hdr) (cseq : Word64) : State :=
  let b := (s.strm h.stream.toNat).binding.toNat
  let x := s.bnd b
  if !s.isLead b then s.complete h cseq 0x22 St.badOperand 0
  else
    let s := s.setBnd b { x with haltBy := x.haltBy ++ [(h, cseq, 0)] }
    if x.running || x.windowOpen then (s.outstanding h cseq 0x22).haltBinding b else s.haltBinding b

/-- APPLY (R287), which acts on every member device (R283). -/
def State.issueApply (s : State) (h : Hdr) (cseq : Word64) (g : BitVec 8) : State :=
  let b := (s.strm h.stream.toNat).binding.toNat
  let x := s.bnd b
  let ok := s.isLead b && !x.applyPending g.toNat &&
    ((s.groupRules b g.toNat).any (fun p => !(s.rule p.1 p.2).auto || s.ruleState p = 3) || (s.peerAsk b g.toNat).getLsbD 3)
  if !ok then s.complete h cseq 0x24 St.badOperand 0
  else
    let s := (s.setBnd b { x with applies := x.applies ++ [(g, h, cseq)] }).outstanding h cseq 0x24
    if 1 < x.nDevs then s.toMembers b (.applyPending (BitVec.ofNat 6 b) g) else s

/-- BERTH (R288): none while the core holds 8 that have not begun. -/
def State.issueBerth (s : State) (h : Hdr) (cseq : Word64) (core m circuit k : Nat) (first last : BitVec 48) (base lines : BitVec 14) :
    Option State :=
  let b := (s.strm h.stream.toNat).binding.toNat
  let st := s.berthStatus b core m circuit k first.toNat last.toNat base.toNat lines.toNat
  if st ≠ St.ok then some (s.complete h cseq 0x25 st 0)
  else if 8 ≤ (s.cor ((s.localOf core).getD 0)).berthQ.length then none
  else some ((s.berthIssue h cseq core m circuit k first last base lines).outstanding h cseq 0x25)

/-! ## COPY (R270, R271, R289) -/

/-- COPY of bytes that has its source: behind earlier copies that write where it does (R271); at the boundary for STATE (R270). -/
def State.issueCopyBytes (s : State) (h : Hdr) (cseq : Word64) (c : Instr) (src dst : Word64) (len circuit : Nat) (useCircuit : Bool) :
    Option State :=
  let b := (s.strm h.stream.toNat).binding.toNat
  let (l, t) := s.takeSrc h.stream src len
  let state := mrSpace src = 3 ∨ mrSpace dst = 3
  if s.copyBehind b h.stream cseq dst len (s.copyCircuit circuit useCircuit) && !decide state then none
  else if state ∧ !(s.atOnce b ⟨c, cseq, l⟩) then some (t.defer b h 0x30 ⟨c, cseq, l⟩)
  else some (t.copyGo h cseq src dst len circuit useCircuit l)

/-- COPY (R289): of bytes, or of modulators, which a source in STATE puts off to the boundary (R270). -/
def State.issueCopy (s : State) (h : Hdr) (cseq : Word64) (c : Instr) (kind mask : BitVec 4) (count first : Nat) (src dst : Word64)
    (len circuit : Nat) (useCircuit : Bool) : Option State :=
  let b := (s.strm h.stream.toNat).binding.toNat
  if kind = 0 then
    let st := allOf [need (len % 16 = 0), s.mrefCheck b src len, s.mrefCheck b dst len, owned (!useCircuit || s.owns b 7 circuit),
      if s.noRoute src || s.noRoute dst then St.linkLost else St.ok]
    if st ≠ St.ok then some (s.complete h cseq 0x30 st 0)
    else if !s.sourceReady h.stream src len then none
    else s.issueCopyBytes h cseq c src dst len circuit useCircuit
  else if kind = 1 then
    let n := modBytes mask count
    let st := allOf [need (mask ≠ 0 && dst = 0 && len = 0 && 1 ≤ count && first + count ≤ 262144), s.mrefCheck b src n,
      owned ((named first count).all (s.owns b 2) && (!useCircuit || s.owns b 7 circuit)), if s.noRoute src then St.linkLost else St.ok]
    if st ≠ St.ok then some (s.complete h cseq 0x30 st 0)
    else if !s.sourceReady h.stream src n then none
    else
      let (l, t) := s.takeSrc h.stream src n
      if mrSpace src = 3 ∧ !(s.atOnce b ⟨c, cseq, l⟩) then some (t.defer b h 0x30 ⟨c, cseq, l⟩)
      else some (t.modsDone h cseq mask count first src l)
  else some (s.complete h cseq 0x30 St.badOperand 0)

/-! ## Buoys (R290) -/

/-- A command that may complete within the command itself is outstanding while it is performed; the PENDING record is made where it
did not complete at issue (R263). -/
def State.perform (s : State) (h : Hdr) (cseq : Word64) (op : Byte) (f : State → State) (arg : Nat := 0) : State :=
  let s := f (s.outstanding { h with ackp := false } cseq op arg)
  if h.ackp && s.isOut h cseq then s.record h cseq op St.pending 0 else s

/-- The status of a buoy command (R274, R296); a step buoy names no resource, so nothing else is checked there (R221). -/
def State.buoyStatus (s : State) (b : Nat) (r : BuoyReq) : Byte :=
  if 65472 ≤ r.buoy.toNat then St.badOperand
  else worse (need (1 < r.kind.toNat || r.n ≠ 0))
    (owned ((s.bnd b).mask.getLsbD r.dev.toNat &&
      (r.dev ≠ s.sys.myDev || s.buoyOwner r.buoy.toNat = some (BitVec.ofNat 6 b)) &&
      (r.kind ≠ 4 || s.coreOwned b r.core.toNat)))

/-- The paths that carried writes a SIGNAL must follow (R308): those of COPY and SEND commands that are outstanding, where a copy that has
fallen back from its circuit has two. -/
def State.markersFor (s : State) (stream : BitVec 8) (cseq : Word64) : Nat :=
  let x := s.strm stream.toNat
  let out := x.outst.filter (fun o => o.cseq.toNat < cseq.toNat && (o.opcode = 0x30 || o.opcode = 0x50))
  let paths := out.flatMap (fun o =>
    if o.opcode = 0x30 ∧ 0 < o.arg ∧ s.rfield (Reg.fabCircStat (o.arg - 1)) 29 3 = 3 then
      [o.arg, 400 + s.rfield (Reg.fabCircCfg1 (o.arg - 1)) 24 6]
    else [o.arg])
  paths.eraseDups.length

/-- An earlier COPY of the stream has writes left to issue (R271): one that waits for its boundary. -/
def State.copyWaits (s : State) (b : Nat) (stream : BitVec 8) : Bool :=
  (s.bnd b).boundary.any (fun d => match d.cmd with | .copy h .. => h.stream = stream | _ => false)

/-- SIGNAL, DEC, TAKE, WAIT and WATCH (R290): `dev` is the device of the buoy. -/
def State.issueBuoy (s : State) (h : Hdr) (cseq : Word64) (dev : BitVec 6) (r : BuoyReq) : Option State :=
  let b := (s.strm h.stream.toNat).binding.toNat
  let op := buoyOp r.kind
  let st := if 65472 ≤ r.buoy.toNat then St.badOperand
    else worse (s.buoyStatus b { r with dev := dev }) (if s.sys.lost.contains dev.toNat then St.linkLost else St.ok)
  if st ≠ St.ok then some (s.complete h cseq op st 0)
  else if r.kind = 0 then
    if s.copyWaits b h.stream then none
    else
      let m := s.markersFor h.stream cseq
      some (s.perform h cseq op (fun s =>
        if m = 0 then s.signalGo dev r
        else { s with syn := { s.syn with sigs := s.syn.sigs ++ [SigWait.mk dev r m] } }))
  else some (s.perform h cseq op
    (fun s => if dev = s.sys.myDev then s.buoyRequest r else s.toDevice dev.toNat 4 1 (.buoy dev r)) dev.toNat)

/-- The request of a buoy command. -/
def State.buoyReq (s : State) (h : Hdr) (cseq : Word64) (kind : BitVec 3) (buoy : BitVec 16) : BuoyReq :=
  ⟨kind, s.sys.myDev, h.stream, cseq, buoy, 0, false, 0, 0, 0, 0, (s.strm h.stream.toNat).binding⟩

/-! ## Queues (R291, R321, R324) -/

/-- SEND (R291): none while credit is short. -/
def State.issueSend (s : State) (h : Hdr) (cseq : Word64) (dev q : Nat) (tag : Nat) (msg : List Word64) : Option State :=
  let b := (s.strm h.stream.toNat).binding.toNat
  let w := s.writer dev q
  let here := dev = s.sys.myDev.toNat
  let known := w.isOpen || w.closed
  let st := allOf [owned ((s.bnd b).mask.getLsbD dev && (dev ≠ s.sys.myDev.toNat || s.owns b 4 q)),
    need (!known || w.stream = h.stream), need (!here || s.qWstream q = h.stream.toNat),
    if w.closed || (here && s.owns b 4 q && (s.queueAt q).state = 0) then St.queueClosed else St.ok,
    if s.sys.lost.contains dev then St.linkLost else St.ok]
  if st ≠ St.ok then some (s.complete h cseq 0x50 st 0)
  else if !w.isOpen || w.credit < w.need (msg.length + 1) then none
  else some ((s.outstanding h cseq 0x50 (300 + dev)).sendMessage dev q h cseq tag msg)

/-- RECV (R291, R324): it takes the message at the head at once, or waits. -/
def State.issueRecv (s : State) (h : Hdr) (cseq : Word64) (q : BitVec 12) (dst : Word64) (tmo : Word) : State :=
  let b := (s.strm h.stream.toNat).binding.toNat
  let st := allOf [owned (s.owns b 4 q.toNat), need (!s.owns b 4 q.toNat || s.qRstream q.toNat = h.stream.toNat), s.mrefCheck b dst 40,
    if s.owns b 4 q.toNat && (s.queueAt q.toNat).state = 0 then St.queueClosed else St.ok, if s.noRoute dst then St.linkLost else St.ok]
  if st ≠ St.ok then s.complete h cseq 0x51 st 0
  else s.perform h cseq 0x51 (fun s =>
    ({ s with syn := { s.syn with recvs := s.syn.recvs ++ [RecvE.mk q h cseq dst (s.expiryOf tmo)] } }).serveRecv q.toNat)

/-! ## Converters (R292) -/

/-- ENCODE: rows into the channel's slots. Rows from DATA frames stand in the byte order of an OBS record (R134, R238). -/
def State.issueEncode (s : State) (h : Hdr) (cseq : Word64) (cfirst ch : Nat) (src : Word64) (nrow tstep : Nat) (zin : BitVec 8) :
    Option State :=
  let b := (s.strm h.stream.toNat).binding.toNat
  let n := nrow * (s.chan ch).rowBytes
  let st := allOf [owned (s.owns b 6 ch), need (!s.owns b 6 ch || s.isEncoder ch), s.mrefCheck b src n,
    if s.noRoute src then St.linkLost else St.ok]
  if st ≠ St.ok then some (s.complete h cseq 0x60 st 0)
  else if !s.sourceReady h.stream src n then none
  else
    let (l, bad, t) := s.getMref h.stream src n
    if bad then some (t.complete h cseq 0x60 St.eccFatal 0)
    else
      let c := s.chan ch
      let rows := ((cut c.rowBytes l).take nrow).map (fun r => if mrSpace src = 4 then frameRow c.ifmt c.width r else r)
      let (t, k) := t.takeRows ch cfirst tstep zin rows 0
      some (t.complete h cseq 0x60 St.ok k)

/-- DECODE: values of the next decode, or at once when the binding is idle. -/
def State.issueDecode (s : State) (h : Hdr) (cseq : Word64) (cfirst : BitVec 18) (ch : BitVec 12) (dst : Word64) (count : Nat) : State :=
  let b := (s.strm h.stream.toNat).binding.toNat
  let c := s.chan ch.toNat
  let st := allOf [owned (s.owns b 6 ch.toNat), need (!s.owns b 6 ch.toNat || (c.valid && c.dec)),
    need (1 ≤ count && cfirst.toNat + count ≤ 262144), s.mrefCheck b dst (16 * count), if s.noRoute dst then St.linkLost else St.ok]
  let d : DecodeReq := ⟨h, cseq, ch, cfirst, count, dst, false⟩
  if st ≠ St.ok then s.complete h cseq 0x61 st 0
  else if s.idle b then s.decodeDone d
  else
    let s := s.outstanding h cseq 0x61
    { s with cnv := { s.cnv with decodes := s.cnv.decodes ++ [d] } }

/-! ## FENCE, TIMESTAMP, HINT, NOTE (R272, R293-R295) -/

/-- Whether a FENCE is complete: no earlier command of its stream (SCOPE 0), or of any stream of its binding on this device
(SCOPE 1), is outstanding. A FENCE SCOPE 1 of an unbound stream covers its own stream. -/
def State.fenceDone (s : State) (h : Hdr) (cseq : Word64) (scope order : Nat) : Bool :=
  let x := s.strm h.stream.toNat
  let mine := x.outst.all (fun o => !(o.cseq.toNat < cseq.toNat))
  if scope = 0 ∨ !x.bound then mine
  else mine && s.cmd.streams.all (fun p =>
    !(p.2.bound && p.2.binding = x.binding) || p.2.outst.all (fun o => !(o.order < order)))

/-- TIMESTAMP (R293). -/
def State.issueTimestamp (s : State) (h : Hdr) (cseq : Word64) (when' : BitVec 1) (dst : Word64) : State :=
  let x := s.strm h.stream.toNat
  let b := x.binding.toNat
  let st := if x.bound then worse (s.mrefCheck b dst 16) (if s.noRoute dst then St.linkLost else St.ok) else need (mrefForm dst 16)
  if st ≠ St.ok then s.complete h cseq 0x71 st 0
  else if when' = 1 then (s.setBnd b { s.bnd b with samples := (s.bnd b).samples ++ [(h, cseq, dst)] }).outstanding h cseq 0x71
  else if x.bound then s.sample (h, cseq, dst) b
  else
    -- a stream without a binding has no step number: the spec states no value there (log entry 9)
    let (l, s) := s.drawBytes 6
    (s.putMref h.stream dst (leBytes 8 s.tmr.tb.toNat ++ l ++ [0, 0])).complete h cseq 0x71 St.ok 0

/-- Whether a hint is active: its last step has not ended (R294, R442). -/
def State.hintActive (s : State) (x : Hint) : Bool := decide ((s.bnd x.binding.toNat).step.toNat < x.first + x.dur.toNat)

/-- HINT (R294): 16 active hints; a hint is active until its last step has ended. -/
def State.issueHint (s : State) (h : Hdr) (cseq : Word64) (kind : BitVec 4) (watts : BitVec 12) (dur ahead : BitVec 16) : State :=
  let b := (s.strm h.stream.toNat).binding
  let act := s.gov.hints.filter s.hintActive
  let ok := kind.toNat ≤ 5 && watts ≠ 0 && dur ≠ 0 && decide (act.length < 16)
  if !ok then s.complete h cseq 0x80 St.badOperand 0
  else
    let x := Hint.mk b kind watts ((s.bnd b.toNat).step.toNat + ahead.toNat) dur
    ({ s with gov := { s.gov with hints := act ++ [x] } }).complete h cseq 0x80 St.ok 0

/-- NOTE sends its notice (R295, R411). -/
def State.issueNote (s : State) (h : Hdr) (cseq : Word64) (value : Word) : State :=
  (s.notice 1 ([h.stream, 0, 0, 0] ++ beBytes 4 value.toNat ++ beBytes 8 cseq.toNat)).complete h cseq 0x90 St.ok 0

/-! ## Loads that wait for their data -/

/-- LOADPROG (R83-R85, R282). -/
def State.issueLoadprog (s : State) (h : Hdr) (cseq : Word64) (c : Instr) (core t : Nat) (poff : BitVec 24) (m : Word64) : Option State :=
  let b := (s.strm h.stream.toNat).binding.toNat
  let (n, st) := s.loadCore b core
  let st := worse st (s.mrefCheck b m 64)
  if st ≠ St.ok then some (s.complete h cseq 0x10 st 0)
  else match s.headBytes h.stream m 64 with
  | none => none
  | some head =>
    let len := imageLen (wordsOf head)
    let st := s.mrefCheck b m len
    if st ≠ St.ok then some (s.complete h cseq 0x10 st 0)
    else if !s.sourceReady h.stream m len then none
    else
      let (l, bad, u) := s.getMref h.stream m len
      let st := s.progIssue b n t (Slot.ofImage (BitVec.ofNat 6 b) poff l) l.length (s.idle b)
      if bad then some (u.complete h cseq 0x10 St.eccFatal 0)
      else if st ≠ St.ok then some (s.complete h cseq 0x10 st 0)
      else some (s.boundary u b h 0x10 ⟨c, cseq, l⟩)

/-- The loads whose source has a length known at issue, with the checks of R296 first. -/
def State.issueLoad (s : State) (h : Hdr) (op : Byte) (cseq : Word64) (c : Instr) (st : Byte) (m : Word64) (n : Nat) : Option State :=
  let b := (s.strm h.stream.toNat).binding.toNat
  let st := worse st (if n = 0 then St.ok else s.mrefCheck b m n)
  if st ≠ St.ok then some (s.complete h cseq op st 0)
  else s.boundarySrc b h op c cseq m n

/-! ## Issue (R266-R268, R296) -/

/-- Issues a command that has passed the waits of R267, R268 and ORDER; none where its own kind makes it wait. -/
def State.issueKind (s : State) (c : Instr) (h : Hdr) (cseq : Word64) : Option State :=
  let b := (s.strm h.stream.toNat).binding.toNat
  match c with
  | .bind _ kind count first w1 w2 _ => some (s.issueBind h cseq c kind count.toNat first.toNat w1 w2)
  | .unbind _ kind count first => some (s.issueUnbind h cseq c kind count.toNat first.toNat)
  | .park _ count first m stride =>
    let st := worse (owned ((named first.toNat count.toNat).all (s.owns b 2))) (s.mrefCheck b m (stride.toNat * count.toNat))
    some (if st = St.ok then s.boundary s b h 0x03 ⟨c, cseq, []⟩ else s.complete h cseq 0x03 st 0)
  | .unpark _ count first res stride base =>
    let st := owned ((named first.toNat count.toNat).all (s.owns b 2) && s.basesOwned b count.toNat res stride.toNat base.toNat)
    some (if st = St.ok then s.boundary s b h 0x04 ⟨c, cseq, []⟩ else s.complete h cseq 0x04 st 0)
  | .snapshot _ t m limit =>
    let late := t ≠ BitVec.allOnes 48 && (decide (t.toNat < (s.bnd b).step.toNat) || (t = (s.bnd b).step && (s.bnd b).running))
    let st := worse (need (!late)) (s.mrefCheck b m (min (s.snapSize b) limit.toNat))
    some (if st = St.ok then s.boundary s b h 0x05 ⟨c, cseq, []⟩ else s.complete h cseq 0x05 st 0)
  | .loadprog _ core slot poff m => s.issueLoadprog h cseq c core.toNat slot.toNat poff m
  | .loadmat _ core _ desc m _ count => s.issueLoad h 0x11 cseq c (s.loadCore b core.toNat).2 m (matBytes desc count.toNat)
  | .loadroute _ core _ _ m _ units => s.issueLoad h 0x12 cseq c (s.loadCore b core.toNat).2 m (8 * units.toNat)
  | .loadrule _ core _ m => s.issueLoad h 0x13 cseq c (s.loadCore b core.toNat).2 m 128
  | .step _ => s.issueStep h cseq 0x20 (some 1)
  | .run _ n => s.issueStep h cseq 0x21 (if n = 0 then none else some n.toNat)
  | .halt _ => some (s.issueHalt h cseq)
  | .epoch .. => some (if s.isLead b then s.boundary s b h 0x23 ⟨c, cseq, []⟩ else s.complete h cseq 0x23 St.badOperand 0)
  | .apply _ g => some (s.issueApply h cseq g)
  | .berth _ core m circuit k first last base lines =>
    s.issueBerth h cseq core.toNat m.toNat circuit.toNat k.toNat first last base lines
  | .copy _ kind mask count first src dst len circuit use =>
    s.issueCopy h cseq c kind mask count.toNat first.toNat src dst len.toNat circuit.toNat use
  | .signal _ dev n buoy => s.issueBuoy h cseq dev { s.buoyReq h cseq 0 buoy with n := n }
  | .dec _ dev n buoy => s.issueBuoy h cseq dev { s.buoyReq h cseq 1 buoy with n := n }
  | .take _ dev buoy tmo => s.issueBuoy h cseq dev { s.buoyReq h cseq 2 buoy with tmo := tmo }
  | .wait _ dev eq buoy value tmo => s.issueBuoy h cseq dev { s.buoyReq h cseq 3 buoy with eq := eq, value := value, tmo := tmo }
  | .watch _ dev core eq buoy value tmo cookie =>
    s.issueBuoy h cseq dev { s.buoyReq h cseq 4 buoy with eq := eq, value := value, tmo := tmo, core := core, cookie := cookie }
  | .send _ dev _ tag q msg => s.issueSend h cseq dev.toNat q.toNat tag.toNat msg
  | .recv _ q dst tmo => some (s.issueRecv h cseq q dst tmo)
  | .encode _ cfirst ch src nrow tstep zin => s.issueEncode h cseq cfirst.toNat ch.toNat src nrow.toNat tstep.toNat zin
  | .decode _ cfirst ch dst count => some (s.issueDecode h cseq cfirst ch dst count.toNat)
  | .chancfg _ ch src =>
    if !s.owns b 6 ch.toNat then some (s.complete h cseq 0x62 St.notBound 0)
    else match s.headBytes h.stream src 64 with
      | none => none
      | some head => s.issueLoad h 0x62 cseq c St.ok src (chanLen head)
  | .fence _ scope =>
    if s.fenceDone h cseq scope.toNat s.cmd.issues then some (s.complete h cseq 0x70 St.ok 0)
    else some (s.outstanding h cseq 0x70 scope.toNat)
  | .timestamp _ w dst => some (s.issueTimestamp h cseq w dst)
  | .hint _ kind watts dur ahead => some (s.issueHint h cseq kind watts dur ahead)
  | .note _ value => if (s.strm h.stream.toNat).outst = [] then some (s.issueNote h cseq value) else none
  | _ => some s

/-- The memory references of a command (R264). -/
def cmdMrefs (c : Instr) : List Word64 :=
  match c with
  | .park _ _ _ m _ => [m]
  | .snapshot _ _ m _ => [m]
  | .loadprog _ _ _ _ m => [m]
  | .loadmat _ _ _ _ m _ _ => [m]
  | .loadroute _ _ _ _ m _ _ => [m]
  | .loadrule _ _ _ m => [m]
  | .copy _ _ _ _ _ src dst _ _ _ => [src, dst]
  | .recv _ _ dst _ => [dst]
  | .encode _ _ _ src _ _ _ => [src]
  | .decode _ _ _ dst _ => [dst]
  | .chancfg _ _ src => [src]
  | .timestamp _ _ dst => [dst]
  | _ => []

/-- The slices a command addresses by a STATE_BASE or as banks (R277, R559). -/
def cmdSlices (c : Instr) : List Nat :=
  match c with
  | .unpark _ count _ res stride base =>
    if res = 1 then (List.range count.toNat).map (fun i => (base.toNat + i * stride.toNat) / 2 ^ 40) else []
  | .bind _ kind count first w1 w2 _ =>
    if kind = 2 then ((List.range count.toNat).map (fun i => boundCtx 0 i w1 w2 0)).filterMap (fun x =>
      if x.res = 1 then some (x.base.toNat / 2 ^ 40) else none)
    else if kind = 3 then (named first.toNat count.toNat).map (· / 4)
    else []
  | _ => []

/-- Whether a command addresses a slice of this device in maintenance mode, so that it waits (R340). -/
def State.maintWaits (s : State) (c : Instr) : Bool :=
  (cmdMrefs c).any (fun m => mrSpace m = 2 && s.mrefLocal m && s.rbit (Reg.slcCfg (mrSlice m)) 8) ||
  (cmdSlices c).any (fun k => decide (k < 32) && s.rbit (Reg.slcCfg k) 8)

/-- Whether the waits of R267, R268 and ORDER hold a command back. -/
def Stream.blocks (x : Stream) (h : Hdr) : Bool :=
  64 ≤ x.outst.length || x.outst.any (fun o => blocking o.opcode) || (h.order && x.outst ≠ [])

/-- Whether 1,024 frames to the host of a stream's space are unacknowledged: the stream issues nothing (R407). The space lies at the gate
device. -/
def State.spaceFull (s : State) (n : Nat) : Bool :=
  s.isGate && decide (1024 ≤ (s.space (spaceKey 0 s.sys.myDev.toNat n)).kept.length)

/-- A command reaches the head of its stream: none while it must wait (R260, R266-R268, R296, R340, R407, R447). -/
def State.tryIssue (s : State) (c : Instr) (cseq : Word64) : Option State :=
  match cmdHdr c with
  | none => some s
  | some (h, op) =>
    let x := s.strm h.stream.toNat
    let st := wordStatus c
    if s.spaceFull h.stream.toNat then none
    else if st ≠ St.ok then some (s.complete h cseq op st 0)
    else if x.blocks h || (s.ltn.power = .doze && reachesCore c) || s.maintWaits c then none
    else if !x.bound && !unboundOk c then some (s.complete h cseq op St.notBound 0)
    else ({ s with cmd := { s.cmd with issues := s.cmd.issues + 1 } }).issueKind c h cseq

/-- A command reaches its stream (R261, R297): it takes the next CSEQ; on a frozen stream it completes with FROZEN; behind a command
that waits it waits; else it issues, in a turn of its own (R266). -/
def State.command (s : State) (c : Instr) : State :=
  match cmdHdr c with
  | none => s
  | some (h, op) =>
    if !s.accepting then s
    else
      let n := h.stream.toNat
      let x := s.strm n
      let s := (s.setStrm n { x with cseq := x.cseq + 1 }).unitActs 2 7 (h.nw.toNat + 1)
      if x.frozen then s.complete h x.cseq op St.frozen 0
      else
        let wait := s.setStrm n { s.strm n with held := x.held ++ [(x.cseq, c)] }
        if x.held ≠ [] then wait
        else match s.tryIssue c x.cseq with
          | some t => { t with cmd := { t.cmd with turn := (n + 1) % 256 } }
          | none => wait

/-- A command of a CMD frame takes its place in its stream; it issues in the engine's turn (R266). -/
def State.enqueue (s : State) (c : Instr) : State :=
  match cmdHdr c with
  | none => s
  | some (h, op) =>
    if !s.accepting then s
    else
      let n := h.stream.toNat
      let x := s.strm n
      let s := (s.setStrm n { x with cseq := x.cseq + 1 }).unitActs 2 7 (h.nw.toNat + 1)
      if x.frozen then s.complete h x.cseq op St.frozen 0 else s.setStrm n { s.strm n with held := x.held ++ [(x.cseq, c)] }

/-! ## The engine's turn (R266, R272) -/

/-- The FENCEs that are complete end. -/
def State.fences (s : State) : State :=
  s.forAll (s.cmd.streams.flatMap (fun p => p.2.outst.filter (fun o => o.opcode = 0x70))) (fun s o =>
    if s.isOut o.hdr o.cseq && s.fenceDone o.hdr o.cseq o.arg o.order then s.complete o.hdr o.cseq 0x70 St.ok 0 else s)

/-- The waiting command of stream `n` issues if it can. -/
def State.issueHeld (s : State) (n : Nat) : Option State :=
  let x := s.strm n
  match x.held with
  | [] => none
  | (cseq, c) :: r =>
    if x.frozen then none else (s.setStrm n { x with held := r }).tryIssue c cseq

/-- The streams in the order of a turn that starts at `t`. -/
def turnOrder (t : Nat) (l : List Nat) : List Nat := l.filter (fun n => t ≤ n) ++ l.filter (fun n => n < t)

/-- One turn of the engine: FENCEs end, then the first stream in round-robin order whose command can issue issues it. -/
def State.engineTurn (s : State) : State :=
  let s := s.fences
  let l := turnOrder s.cmd.turn (s.cmd.streams.map Prod.fst)
  match l.findSome? (fun n => (s.issueHeld n).map (fun t => (n, t))) with
  | none => s
  | some (n, t) => { t with cmd := { t.cmd with turn := (n + 1) % 256 } }

/-- A number of turns. -/
def State.engineTurns : Nat → State → State
  | 0, s => s
  | n + 1, s => State.engineTurns n s.engineTurn

/-- The source of a command that waits for DATA, and the most bytes its use takes. -/
def State.srcUse (s : State) (c : Instr) : Option (Word64 × Nat) :=
  match c with
  | .loadprog _ _ _ _ m => some (m, 65536)
  | .loadmat _ _ _ desc m _ count => some (m, matBytes desc count.toNat)
  | .loadroute _ _ _ _ m _ units => some (m, 8 * units.toNat)
  | .loadrule _ _ _ m => some (m, 128)
  | .chancfg _ _ m => some (m, 192)
  | .encode _ _ ch m nrow _ _ => some (m, nrow.toNat * (s.chan ch.toNat).rowBytes)
  | .copy _ kind mask count _ m _ len _ _ =>
    some (m, if kind = 0 then len.toNat else modBytes mask count.toNat)
  | _ => none
/-- DATA bytes of a stream that no command has consumed (R408): those of the command at its head, delivered without a gap, are. -/
def State.dataKept (s : State) (n : Nat) : Nat :=
  let x := s.strm n
  let used := match x.held.head? with
    | some (_, c) => match cmdHdr c, s.srcUse c with
      | some (h, _), some (m, k) => if mrSpace m = 4 && !x.blocks h then min k (x.tagBytes (mrTag m)) else 0
      | _, _ => 0
    | none => 0
  (x.data.map (fun d => d.2.2.length)).sum - used

/-! ## Meanings -/

/-- STATE of a stream (R301): what holds its next command. -/
def State.streamState (s : State) (n : Nat) : Nat :=
  let x := s.strm n
  if x.frozen then 7
  else if x.outst.any (fun o => o.opcode = 0x41 || o.opcode = 0x44 || o.opcode = 0x51) then 3
  else if x.outst.any (fun o => o.opcode = 0x70) then 4
  else if s.spaceFull n || 64 ≤ x.outst.length then 6
  else match x.held with
  | [] => 0
  | (cseq, c) :: _ =>
    let ordered := match cmdHdr c with | some (h, _) => h.order | none => false
    if ordered && x.outst ≠ [] then 4
    else if (s.tryIssue c cseq).isSome then 1
    else match c with
    | .send .. => 5
    | .step .. => 6
    | .run .. => 6
    | .berth .. => 6
    | .signal .. => 4
    | .note .. => 4
    | c => if s.ltn.power = .doze && reachesCore c then 6 else 2

def execBind (h : Hdr) (kind : BitVec 4) (count : BitVec 19) (first : BitVec 18) (w1 w2 w3 : Word64) (s : State) : Result :=
  live s fun s => s.command (.bind h kind count first w1 w2 w3)
def execUnbind (h : Hdr) (kind : BitVec 4) (count : BitVec 19) (first : BitVec 18) (s : State) : Result :=
  live s fun s => s.command (.unbind h kind count first)
def execPark (h : Hdr) (count : BitVec 19) (first : BitVec 18) (m : Word64) (stride : Word) (s : State) : Result :=
  live s fun s => s.command (.park h count first m stride)
def execUnpark (h : Hdr) (count : BitVec 19) (first : BitVec 18) (res : BitVec 2) (stride : Word) (base : BitVec 48) (s : State) :
    Result :=
  live s fun s => s.command (.unpark h count first res stride base)
def execSnapshot (h : Hdr) (t : BitVec 48) (m : Word64) (limit : BitVec 38) (s : State) : Result :=
  live s fun s => s.command (.snapshot h t m limit)
def execLoadprog (h : Hdr) (core : BitVec 10) (slot : BitVec 6) (poff : BitVec 24) (m : Word64) (s : State) : Result :=
  live s fun s => s.command (.loadprog h core slot poff m)
def execLoadmat (h : Hdr) (core : BitVec 10) (matrix : BitVec 8) (desc : List Word) (m : Word64) (first count : BitVec 17) (s : State) :
    Result :=
  live s fun s => s.command (.loadmat h core matrix desc m first count)
def execLoadroute (h : Hdr) (core : BitVec 10) (slot : BitVec 6) (idx : BitVec 17) (m : Word64) (first units : BitVec 17) (s : State) :
    Result :=
  live s fun s => s.command (.loadroute h core slot idx m first units)
def execLoadrule (h : Hdr) (core : BitVec 10) (matrix : BitVec 8) (m : Word64) (s : State) : Result :=
  live s fun s => s.command (.loadrule h core matrix m)
def execStep (h : Hdr) (s : State) : Result := live s fun s => s.command (.step h)
def execRun (h : Hdr) (n : Word) (s : State) : Result := live s fun s => s.command (.run h n)
def execHalt (h : Hdr) (s : State) : Result := live s fun s => s.command (.halt h)
def execEpoch (h : Hdr) (group : BitVec 8) (len : BitVec 24) (base : BitVec 48) (s : State) : Result :=
  live s fun s => s.command (.epoch h group len base)
def execApply (h : Hdr) (group : BitVec 8) (s : State) : Result := live s fun s => s.command (.apply h group)
def execBerth (h : Hdr) (core : BitVec 10) (matrix circuit : BitVec 8) (b : BitVec 1) (first last : BitVec 48)
    (base lines : BitVec 14) (s : State) : Result :=
  live s fun s => s.command (.berth h core matrix circuit b first last base lines)
def execCopy (h : Hdr) (kind mask : BitVec 4) (count : BitVec 19) (first : BitVec 18) (src dst : Word64) (len : BitVec 38)
    (circuit : BitVec 8) (useCircuit : Bool) (s : State) : Result :=
  live s fun s => s.command (.copy h kind mask count first src dst len circuit useCircuit)
def execSignal (h : Hdr) (dev : BitVec 6) (n buoy : BitVec 16) (s : State) : Result :=
  live s fun s => s.command (.signal h dev n buoy)
def execWait (h : Hdr) (dev : BitVec 6) (eq : Bool) (buoy : BitVec 16) (value tmo : Word) (s : State) : Result :=
  live s fun s => s.command (.wait h dev eq buoy value tmo)
def execWatch (h : Hdr) (dev : BitVec 6) (core : BitVec 10) (eq : Bool) (buoy : BitVec 16) (value tmo : Word) (cookie : Word64)
    (s : State) : Result :=
  live s fun s => s.command (.watch h dev core eq buoy value tmo cookie)
def execDec (h : Hdr) (dev : BitVec 6) (n buoy : BitVec 16) (s : State) : Result := live s fun s => s.command (.dec h dev n buoy)
def execTake (h : Hdr) (dev : BitVec 6) (buoy : BitVec 16) (tmo : Word) (s : State) : Result :=
  live s fun s => s.command (.take h dev buoy tmo)
def execSend (h : Hdr) (dev : BitVec 6) (nm1 : BitVec 2) (tag : BitVec 16) (queue : BitVec 12) (msg : List Word64) (s : State) :
    Result :=
  live s fun s => s.command (.send h dev nm1 tag queue msg)
def execRecv (h : Hdr) (queue : BitVec 12) (dst : Word64) (tmo : Word) (s : State) : Result :=
  live s fun s => s.command (.recv h queue dst tmo)
def execEncode (h : Hdr) (cfirst : BitVec 18) (channel : BitVec 12) (src : Word64) (nrow : BitVec 16) (tstep : BitVec 20)
    (zin : BitVec 8) (s : State) : Result :=
  live s fun s => s.command (.encode h cfirst channel src nrow tstep zin)
def execDecode (h : Hdr) (cfirst : BitVec 18) (channel : BitVec 12) (dst : Word64) (count : BitVec 19) (s : State) : Result :=
  live s fun s => s.command (.decode h cfirst channel dst count)
def execChancfg (h : Hdr) (channel : BitVec 12) (src : Word64) (s : State) : Result :=
  live s fun s => s.command (.chancfg h channel src)
def execFence (h : Hdr) (scope : BitVec 1) (s : State) : Result := live s fun s => s.command (.fence h scope)
def execTimestamp (h : Hdr) (when' : BitVec 1) (dst : Word64) (s : State) : Result :=
  live s fun s => s.command (.timestamp h when' dst)
def execHint (h : Hdr) (kind : BitVec 4) (watts : BitVec 12) (dur ahead : BitVec 16) (s : State) : Result :=
  live s fun s => s.command (.hint h kind watts dur ahead)
def execNote (h : Hdr) (value : Word) (s : State) : Result := live s fun s => s.command (.note h value)
def execReservedOpcode (h : Hdr) (opcode : BitVec 8) (cut : Bool) (s : State) : Result :=
  live s fun s => s.command (.reservedOpcode h opcode cut)
def execBoundaryEffect (b : BitVec 6) (s : State) : Result := live s fun s => s.boundaryEffect b.toNat
def execJoinAcknowledgement (b dev : BitVec 6) (mask : Word64) (ok : Bool) (s : State) : Result :=
  live s fun s => s.joinAck b.toNat dev mask ok

end Sys2Proof.Machine
end

