-- ==== Sys2Proof/Machine/Timers.lean ====
section
/-! DEFINITION. Machine/Timers.lean: the interrupt controller (R493-R499), the timebase (R500-R503) and the timers (R504-R510). -/

namespace Sys2Proof.Machine

/-! ## Flags and their sources (R494) -/

/-- The flags that name a source: a register and its bits (R122, R153, R194, R228, R255, R329, R331, R346, R360, R362, R392, R406, R444,
R456, R461, R505). -/
def State.sourceFlags (s : State) (n : Nat) : List (Nat × Nat) :=
  if 1 ≤ n ∧ n ≤ 18 then [(Reg.fabLnkStat (n - 1), 1), (Reg.fabStatus, 7)]
  else if n = 19 ∨ n = 20 then [(Reg.ethTpStatus, 4)]
  else if 21 ≤ n ∧ n ≤ 24 then [(Reg.hbmStat (n - 21), 6)]
  else if 25 ≤ n ∧ n ≤ 42 then
    let k := s.rfield (Reg.budPhysCore (n - 25)) 0 6
    [(Reg.coreSynStatus k, 0xE), (Reg.coreLrnStatus k, 0x60), (Reg.coreRteStatus k, 0x32), (Reg.coreCvtStatus k, 0x10)] ++
    (List.range 64).map (fun t => (Reg.coreNrnFlags k t, 8)) ++ (List.range 256).map (fun m => (Reg.coreSynMstat k m, 0x10))
  else if 43 ≤ n ∧ n ≤ 76 then [(Reg.slcStatus (s.rfield (Reg.budPhysSlice (n - 43)) 0 6), 0xE)]
  else if 77 ≤ n ∧ n ≤ 108 then [(Reg.tmrStat (n - 77), 7)]
  else if n = 109 then [(Reg.cnvStatus, 0x30)]
  else if n = 110 then [(Reg.synStatus, 7)]
  else if n = 111 then [(Reg.mqStatus, 1)]
  else if n = 141 then [(Reg.pgvStatus, 1)]
  else if n = 143 then [(Reg.pgvStatus, 4)]
  else if n = 144 then [(Reg.pgvStatus, 8)]
  else if n = 145 then [(Reg.pgvStatus, 0x20)]
  else if n = 146 then [(Reg.pgvStatus, 0x40)]
  else if n = 147 then [(Reg.pgvStatus, 0x80)]
  else if n = 148 then [(Reg.pgvStatus, 0x100)]
  else if n = 149 then [(Reg.pgvStatus, 0x200)]
  else if n = 150 then [(Reg.ltnWakereason, 0xFF)]
  else if n = 151 then [(Reg.ltnPsstat, 0x200)]
  else []

/-- Whether every flag that names a source is clear; a source that no w1c flag names is never withdrawn. -/
def State.flagsClear (s : State) (n : Nat) : Bool :=
  s.sourceFlags n ≠ [] && (s.sourceFlags n).all (fun p => s.rget p.1 &&& BitVec.ofNat 32 p.2 = 0)

/-- INTERRUPT_WITHDRAW: a raw and unclaimed source whose flags have all been cleared loses its raise (R494). -/
def State.maybeWithdraw (s : State) (n : Nat) : State := if s.flagsClear n then s.withdraw n else s

/-- The sources that the flags of a register may name. -/
def State.sourcesOf (s : State) (a : Nat) : List Nat :=
  if a < 0x100000 then []
  else if a < 0x200000 then [25 + s.physCore ((a - 0x100000) / 0x10000)]
  else if a < 0x320000 then [43 + s.physSlice ((a - 0x300000) / 0x1000)]
  else if a < 0x500000 then []
  else if a < 0x600000 then [21 + (a - 0x500000) / 0x100]
  else if a < 0x601200 then [1 + (a - 0x600000) / 0x100]
  else if a = Reg.fabStatus then (List.range 18).map (· + 1)
  else if a = Reg.ethTpStatus then [19, 20]
  else if a = Reg.cnvStatus then [109]
  else if a = Reg.synStatus then [110]
  else if a = Reg.mqStatus then [111]
  else if a = Reg.pgvStatus then [141, 143, 144, 145, 146, 147, 148, 149]
  else if a = Reg.ltnWakereason then [150]
  else if a = Reg.ltnPsstat then [151]
  else if 0xE01000 ≤ a ∧ a < 0xE01400 then [77 + (a - 0xE01000) / 0x20]
  else []

/-! ## Claims (R496, R497) -/

def State.claimSlot (s : State) (p : BitVec 1) : BitVec 9 := if p = 0 then s.irq.slot0 else s.irq.slot1
def State.setClaimSlot (s : State) (p : BitVec 1) (v : BitVec 9) : State :=
  if p = 0 then { s with irq := { s.irq with slot0 := v } } else { s with irq := { s.irq with slot1 := v } }
/-- The status of a register access by Keeper. -/
def State.keeperReply (s : State) (a : Nat) (st : Byte) : State := s.send (.keeper st a)

/-- IRQ_CLAIM: a processor writes a source number to claim it (R496). -/
def State.irqClaim (s : State) (p : BitVec 1) (n : BitVec 9) : State × Byte :=
  if (s.claimSlot p ≠ 0 ∧ s.claimSlot p ≠ 511) ∨ n = 0 ∨ n = 511 then (s, St.badOperand)
  else if s.irqPending n.toNat then
    let m := BitVec.ofNat 512 (2 ^ n.toNat)
    (({ s with irq := { s.irq with raw := s.irq.raw &&& ~~~m, active := s.irq.active ||| m } }).setClaimSlot p n, St.ok)
  else (s.setClaimSlot p 511, St.ok)

/-- IRQ_DONE: a processor ends its claim (R497). A slot that holds 0 or 511 holds no claim. -/
def State.irqDone (s : State) (p : BitVec 1) (n : BitVec 9) : State × Byte :=
  if s.claimSlot p ≠ n ∨ n = 0 ∨ n = 511 then (s, St.badOperand)
  else
    let m := BitVec.ofNat 512 (2 ^ n.toNat)
    (({ s with irq := { s.irq with active := s.irq.active &&& ~~~m } }).setClaimSlot p 0, St.ok)

/-- Writes an enable word (R498). A source whose raw bit is set becomes pending, with its notice. -/
def State.setEnables (s : State) (en : BitVec 512) : State :=
  let old := s.irq.en
  let s := { s with irq := { s.irq with en := en } }
  s.forAll ((List.range 512).filter (fun n => irqAssigned n && s.irqPending n && !old.getLsbD n && s.irqFwd n)) (fun s n =>
    s.notice 3 (beBytes 2 n ++ [0, 0]))

/-- Keeper enables every assigned source at bring-up (R498). -/
def State.enableAll (s : State) : State :=
  s.setEnables (BitVec.ofNat 512 (((List.range 512).filter irqAssigned).foldl (fun x n => x + 2 ^ n) 0))

/-! ## The timebase (R500, R501) -/

/-- Whether a binding of the device is in locked mode (R41, R500): by the mode its running step started with, or the one written. -/
def State.anyLocked (s : State) : Bool :=
  s.cmd.bindings.any (fun p => p.2.valid && (if p.2.running then p.2.modeIn = 1 else s.regMode p.1 = 1))

/-- TB_STEP: a forward step (R500). -/
def State.tbStep (s : State) (ns : Nat) : State × Byte :=
  if s.anyLocked then (s, St.badOperand) else ((s.setTb (s.tmr.tb.toNat + ns)).count Reg.tmrTbSteps 1, St.ok)

/-- Whether a rate correction is within ±500 ppm (R500, R510). -/
def rateOk (r : Word) : Bool := decide (-512000000 ≤ r.toInt) && decide (r.toInt ≤ 512000000)

/-- One TBCLK (R500): 1 ns plus the rate correction in 1/1,024 ppb, the fraction carried. -/
def State.tbTick (s : State) : State :=
  let x := s.tmr.frac + (s.rget Reg.tmrTbRate).toInt
  let unit : Int := 1024 * 1000000000
  let ns := 1 + x / unit
  { s with tmr := { s.tmr with tb := BitVec.ofInt 64 ((s.tmr.tb.toNat : Int) + ns), frac := x % unit } }

/-- ASLOCK of a port (R419). -/
def State.asLock (s : State) (p : Nat) (b : Bool) : State := s.rsetBit (Reg.ethPortStat p) 30 b

/-- HOLDOVER: the 802.1AS instance of a port declares a sync receipt timeout (R501, R417). The timebase enters holdover when that
instance is the source in use. -/
def State.holdover (s : State) (p : Nat) : State :=
  let s := (s.asLock p false).raise (19 + p)
  if s.rfield Reg.tmrTbStat 0 2 = p + 1 then (s.rsetBit Reg.tmrTbStat 31 false).rsetBit Reg.tmrTbStat 30 true else s

/-- The fabric time source is lost (R414, R501). -/
def State.fabricTimeLost (s : State) : State :=
  if s.rfield Reg.tmrTbStat 0 2 = 3 then (s.rsetBit Reg.tmrTbStat 31 false).rsetBit Reg.tmrTbStat 30 true else s

/-- Whether a time source may be used (R398, R417, R421): a port that ASPORT names, or the gate device when neither port runs 802.1AS. -/
def State.timeSourceOk (s : State) (src : Nat) : Bool :=
  if src = 1 ∨ src = 2 then s.rbit Reg.ethTsnCfg (src - 1)
  else src = 3 && s.rfield Reg.ethTsnCfg 0 2 = 0 && s.sys.gate ≠ s.sys.myDev

/-- SYNC_RETURN: synchronisation returns; LOCKED sets at the first rate update (R501). -/
def State.syncReturn (s : State) (src : Nat) (rate : Word) : State :=
  if !s.timeSourceOk src || !rateOk rate then s
  else
    let s := if src = 3 then s else s.asLock (src - 1) true
    let s := (s.rset Reg.tmrTbRate rate).rsetField Reg.tmrTbStat 0 2 src
    (s.rsetBit Reg.tmrTbStat 31 true).rsetBit Reg.tmrTbStat 30 false

/-- TIME_SYNC_MESSAGE: Keeper slews the timebase with a new rate; a forward offset is stepped while no binding is in locked mode
(R500). A backward offset is removed by the rate alone. -/
def State.timeSync (s : State) (src : Nat) (offset : Word64) (rate : Word) : State :=
  if !s.timeSourceOk src || !rateOk rate then s
  else
    let s := s.syncReturn src rate
    if 0 < offset.toInt ∧ !s.anyLocked then (s.tbStep offset.toInt.toNat).1 else s

/-! ## Timers (R504-R509) -/

/-- A host write to a timer is refused while the timer is unbound, or bound to a binding that is not valid here (R509). -/
def State.timerOpen (s : State) (n : Nat) : Bool := (s.timer n).bound && (s.bnd (s.timer n).binding.toNat).valid
def State.timerOn (s : State) (n : Nat) : Bool := s.rbit (Reg.tmrCtrl n) 31

/-- A flag of TMR_STAT: 0 MATCH0, 1 MATCH1, 2 WRAP (R505). -/
def State.timerFlag (s : State) (n bit : Nat) : State :=
  let s := if s.rbit (Reg.tmrStat n) bit then s.rsetBit (Reg.tmrStat n) 4 true else s
  let s := s.rsetBit (Reg.tmrStat n) bit true
  if s.rbit (Reg.tmrCtrl n) (16 + bit) then s.raise (77 + n) else s

/-- Whether the next tick of a timer wraps it (R504, R507). -/
def State.wrapsNext (s : State) (n : Nat) : Bool := (s.timer n).period.toNat ≤ (s.rget (Reg.tmrCount n)).toNat + 1

/-- At a wrap every preload comes into force (R506). -/
def State.loadPreloads (s : State) (n : Nat) : State :=
  (s.setTimer n { s.timer n with period := s.rget (Reg.tmrPeriod n), cmp0 := s.rget (Reg.tmrCmp0 n), cmp1 := s.rget (Reg.tmrCmp1 n) }).rsetBit
    (Reg.tmrStat n) 6 false

/-- One tick of a running timer: COUNT, the wrap, the matches and the capture (R504-R506, R510). -/
def State.timerTick (s : State) (n : Nat) : State :=
  if !s.timerOn n then s
  else
    let wrap := s.wrapsNext n
    let c : Word := if wrap then 0 else s.rget (Reg.tmrCount n) + 1
    let s := s.rset (Reg.tmrCount n) c
    let s := if wrap then (s.loadPreloads n).timerFlag n 2 else s
    let t := s.timer n
    let m0 := t.cmp0 = c
    let s := if m0 then s.timerFlag n 0 else s
    let s := if t.cmp1 = c then s.timerFlag n 1 else s
    if wrap ∨ m0 then s.rset (Reg.tmrCapt n) c else s

/-- TIMER_WRAP: the tick at which COUNT would reach PERIOD. -/
def State.timerWrap (s : State) (n : Nat) : State := if s.wrapsNext n then s.timerTick n else s
/-- The COUNT the next tick makes. -/
def State.nextCount (s : State) (n : Nat) : Word := if s.wrapsNext n then 0 else s.rget (Reg.tmrCount n) + 1
/-- The compare in force at the next tick: a preload that the wrap brings into force counts (R506). -/
def State.nextCmp (s : State) (n k : Nat) : Word :=
  let t := s.timer n
  if s.wrapsNext n then s.rget (if k = 0 then Reg.tmrCmp0 n else Reg.tmrCmp1 n) else if k = 0 then t.cmp0 else t.cmp1
/-- TIMER_MATCH: the tick on which COUNT becomes equal to compare `k`. -/
def State.timerMatch (s : State) (n k : Nat) : State := if s.nextCmp n k = s.nextCount n then s.timerTick n else s

/-- One TBCLK of a timer: its prescaler, and a tick when that has come round (R504). -/
def State.timerClock (s : State) (n : Nat) : State :=
  if !s.timerOn n then s
  else
    let t := s.timer n
    if t.phase < s.rfield (Reg.tmrCtrl n) 0 16 then s.setTimer n { t with phase := t.phase + 1 }
    else (s.setTimer n { t with phase := 0 }).timerTick n

/-- Starts a timer that is not running: its prescaler restarts (R508). -/
def State.timerStart (s : State) (n : Nat) : State :=
  if s.timerOn n then s else (s.rsetBit (Reg.tmrCtrl n) 31 true).setTimer n { s.timer n with phase := 0 }
def State.timerStop (s : State) (n : Nat) : State := s.rsetBit (Reg.tmrCtrl n) 31 false

/-- The timers of a mask. -/
def maskTimers (m : Word) : List Nat := (List.range 32).filter (fun n => m.getLsbD n)

/-- TMR_GSTART and TMR_GSTOP (R508, R509). -/
def State.timerGroup (s : State) (m : Word) (f : State → Nat → State) : State × Byte :=
  if (maskTimers m).any (fun n => !s.timerOpen n) then (s, St.notBound) else (s.forAll (maskTimers m) f, St.ok)

/-- A write of PERIOD (0), CMP0 (1) or CMP1 (2): to the preload, or into force at once; a PERIOD at or below the count then makes the
next tick wrap (R506, R507). -/
def State.timerValue (s : State) (n which : Nat) (v : Word) : State × Byte :=
  if which = 0 ∧ v = 0 then (s, St.badOperand)
  else
    let t := s.timer n
    let s := s.rset (if which = 0 then Reg.tmrPeriod n else if which = 1 then Reg.tmrCmp0 n else Reg.tmrCmp1 n) v
    if !s.rbit (Reg.tmrCtrl n) 30 then (s.rsetBit (Reg.tmrStat n) 6 true, St.ok)
    else if which = 0 then
      let s := s.setTimer n { t with period := v }
      (if v.toNat ≤ (s.rget (Reg.tmrCount n)).toNat then s.rsetBit (Reg.tmrStat n) 5 true else s, St.ok)
    else (s.setTimer n (if which = 1 then { t with cmp0 := v } else { t with cmp1 := v }), St.ok)

/-- A write of COUNT: only while EN is 0 (R506). -/
def State.timerCount (s : State) (n : Nat) (v : Word) : State × Byte :=
  if s.timerOn n then (s, St.badOperand) else (s.rset (Reg.tmrCount n) v, St.ok)

/-- A write of TMR_CTRL: IMMEDIATE and PRESC may change only while EN is 0 (R506, log entry 27); EN starts or stops the timer (R508). -/
def State.timerCtrl (s : State) (n : Nat) (v : Word) : State × Byte :=
  let old := s.rget (Reg.tmrCtrl n)
  if bitOf old 31 ∧ (bitOf old 30 ≠ bitOf v 30 ∨ fieldOf old 0 16 ≠ fieldOf v 0 16) then (s, St.badOperand)
  else
    let s := s.rset (Reg.tmrCtrl n) ((old &&& 0x80000000) ||| (v &&& 0x4007FFFF))
    (if bitOf v 31 then s.timerStart n else s.timerStop n, St.ok)

/-- A host write to a timer's value register, with the check of R509. -/
def State.timerWrite (s : State) (n which : Nat) (v : Word) : State × Byte :=
  if !s.timerOpen n then (s, St.notBound) else if which = 3 then s.timerCount n v else s.timerValue n which v

/-- Where a timer's value register lies: PERIOD, CMP0, CMP1, COUNT. -/
def timerReg (n which : Nat) : Nat :=
  if which = 0 then Reg.tmrPeriod n else if which = 1 then Reg.tmrCmp0 n else if which = 2 then Reg.tmrCmp1 n else Reg.tmrCount n

/-- A write and its reply to the host. -/
def replied (a : Nat) (x : State × Byte) : State := x.1.writeReply a x.2
/-- A write by Keeper and its status. -/
def kept (a : Nat) (x : State × Byte) : State := x.1.keeperReply a x.2

def execInterruptRaise (source : BitVec 9) (s : State) : Result := live s fun s => s.raise source.toNat
def execInterruptWithdraw (source : BitVec 9) (s : State) : Result := live s fun s => s.maybeWithdraw source.toNat
def execIrqClaim (proc : BitVec 1) (source : BitVec 9) (s : State) : Result := live s fun s => kept Reg.irqClaim (s.irqClaim proc source)
def execIrqDone (proc : BitVec 1) (source : BitVec 9) (s : State) : Result := live s fun s => kept Reg.irqDone (s.irqDone proc source)
def execTbStep (ns : Word) (s : State) : Result := live s fun s => kept Reg.tmrTbStep (s.tbStep ns.toNat)
def execHoldover (port : BitVec 1) (s : State) : Result := live s fun s => s.holdover port.toNat
def execSyncReturn (src : BitVec 2) (rate : Word) (s : State) : Result := live s fun s => s.syncReturn src.toNat rate
def execTimeSyncMessage (src : BitVec 2) (offset : Word64) (rate : Word) (s : State) : Result :=
  live s fun s => s.timeSync src.toNat offset rate
def execTimerTick (n : BitVec 5) (s : State) : Result := live s fun s => s.timerTick n.toNat
def execTimerWrap (n : BitVec 5) (s : State) : Result := live s fun s => s.timerWrap n.toNat
def execTimerMatch (n : BitVec 5) (k : BitVec 1) (s : State) : Result := live s fun s => s.timerMatch n.toNat k.toNat
def execTimerImmediateWrite (n : BitVec 5) (which : BitVec 2) (v : Word) (s : State) : Result :=
  live s fun s => replied (timerReg n.toNat which.toNat) (s.timerWrite n.toNat which.toNat v)
def execTmrGstart (mask : Word) (s : State) : Result := live s fun s => replied Reg.tmrGstart (s.timerGroup mask State.timerStart)
def execTmrGstop (mask : Word) (s : State) : Result := live s fun s => replied Reg.tmrGstop (s.timerGroup mask State.timerStop)
def execTimerEnable (n : BitVec 5) (en : Bool) (s : State) : Result :=
  live s fun s => replied (Reg.tmrCtrl n.toNat)
    (if !s.timerOpen n.toNat then (s, St.notBound)
     else (if en then s.timerStart n.toNat else s.timerStop n.toNat, St.ok))

end Sys2Proof.Machine
end

