-- ==== Sys2Proof/Machine/Paths.lean ====
section
/-! DEFINITION. Machine/Paths.lean: the paths that Keeper computes over the working links of the system (R366, R367, R376, R377). -/

namespace Sys2Proof.Machine

/-! ## Paths (R376, R395) -/

/-- Whether one list of link numbers is lower than another. -/
def lexLt : List Nat → List Nat → Bool
  | [], [] => false
  | [], _ :: _ => true
  | _ :: _, [] => false
  | a :: x, b :: y => a < b || (a = b && lexLt x y)

/-- A cost and the links of a path. -/
abbrev Route := Nat × List Nat

/-- The better of two routes: the lower cost, then the lower sequence of links (R376). -/
def betterRoute (a b : Option Route) : Option Route :=
  match a, b with
  | none, y => y
  | x, none => x
  | some x, some y => if y.1 < x.1 || (y.1 = x.1 && lexLt y.2 x.2) then some y else some x

/-- One more hop: the best routes to a device, by the device they start at, over a list of links (device, link, peer, cost). -/
def extendRoutes (es : List (Nat × Nat × Nat × Nat)) (dst : Nat) (t : List (Option Route)) : List (Option Route) :=
  (List.range 64).map (fun d =>
    if d = dst then some (0, [])
    else es.foldl (fun best e =>
      if e.1 = d then betterRoute best ((t.getD e.2.2.1 none).map (fun r => (e.2.2.2 + r.1, e.2.1 :: r.2))) else best) none)

/-- The best routes of at most `n` hops. -/
def routesTo (es : List (Nat × Nat × Nat × Nat)) (dst : Nat) : Nat → List (Option Route)
  | 0 => (List.range 64).map (fun d => if d = dst then some (0, []) else none)
  | n + 1 => extendRoutes es dst (routesTo es dst n)

/-- Cost of a link by its WIDTH: 16, 8 and 4 at x1, x2 and x4. -/
def widthCost (w : Nat) : Nat := if w = 3 then 4 else if w = 2 then 8 else 16

/-- The links of this device that carry packets. -/
def State.ownEdges (s : State) : List (Nat × Nat × Nat × Nat) :=
  let me := s.sys.myDev.toNat
  let gone := fun (d : Nat) => s.sys.lost.contains d || s.sys.retired.contains d
  ((List.range 18).filter (fun l => s.linkUp l && !gone (s.rfield (Reg.fabLnkStat l) 16 6))).map (fun l =>
    (me, l, s.rfield (Reg.fabLnkStat l) 16 6, widthCost (s.rfield (Reg.fabLnkStat l) 26 2)))

/-- The links between the other devices, without those of lost devices and of devices that have announced their retirement (R376, R383). -/
def State.farEdges (s : State) : List (Nat × Nat × Nat × Nat) :=
  let me := s.sys.myDev.toNat
  let gone := fun (d : Nat) => s.sys.lost.contains d || s.sys.retired.contains d
  s.sys.edges.filter (fun e => !s.sys.down.contains (e.1, e.2.1) && e.1 ≠ me && e.2.2.1 ≠ me && !gone e.1 && !gone e.2.2.1)

/-- The best route from this device over those of its links that `ok` admits. -/
def bestVia (own : List (Nat × Nat × Nat × Nat)) (t : List (Option Route)) (ok : Nat → Bool) : Option Route :=
  own.foldl (fun best e =>
    if ok e.2.1 then betterRoute best ((t.getD e.2.2.1 none).map (fun r => (e.2.2.2 + r.1, e.2.1 :: r.2))) else best) none

/-- A path word (R395). -/
def pathWord : Option Route → Word
  | none => 0
  | some r => BitVec.ofNat 32 (2 ^ 31 + r.2.length * 2 ^ 28 + r.1 % 256 * 2 ^ 20 +
      ((List.range 4).map (fun i => r.2.getD i 31 * 2 ^ (5 * i))).sum)

/-- Whether a path of at most four hops over working links leads to a device (R382). -/
def State.reachable (s : State) (dev : Nat) : Bool := (bestVia s.ownEdges (routesTo s.farEdges dev 3) (fun _ => true)).isSome

/-- The hops of the longest primary path between two devices, over every working link (R366, R367). -/
def longestPath (es : List (Nat × Nat × Nat × Nat)) : Nat :=
  ((es.map (fun e => e.2.2.1)).eraseDups.flatMap (fun e => (routesTo es e 4).map (fun r => (r.map (fun x => x.2.length)).getD 0))).foldl max 0

/-- The working links of this device, in both directions. -/
def State.bothEdges (s : State) : List (Nat × Nat × Nat × Nat) :=
  s.ownEdges.flatMap (fun e => [e, (e.2.2.1, s.rfield (Reg.fabLnkStat e.2.1) 8 5, e.1, e.2.2.2)])

/-- Keeper computes and installs the paths of every device (R376, R377, R383). -/
def State.setPaths (s : State) : State :=
  let s := { s with sys := { s.sys with longest := longestPath (s.bothEdges ++ s.farEdges) } }
  let own := s.ownEdges
  let far := s.farEdges
  s.forAll (List.range 64) (fun s e =>
    if e = s.sys.myDev.toNat then (s.rset (Reg.fabRoutePri e) (pathWord (some (0, [])))).rset (Reg.fabRouteAlt e) 0
    else
      let t := routesTo far e 3
      let pri := bestVia own t (fun _ => true)
      let alt := pri.bind (fun r => bestVia own t (fun l => some l ≠ r.2.head?))
      (s.rset (Reg.fabRoutePri e) (pathWord pri)).rset (Reg.fabRouteAlt e) (pathWord alt))

end Sys2Proof.Machine
end

