-- ==== Sys2Proof/Machine/Fabric.lean ====
section
/-! DEFINITION. Machine/Fabric.lean: link receivers and replay, link failure, end-to-end delivery, lost devices, circuits, retirement
and congestion sampling (R363-R396). Control words on a link are numbered 0 ACK, 1 NAK, 2 CREDIT, 3 LINK_DOWN. -/

namespace Sys2Proof.Machine

/-! ## Packets as received (R369, R370) -/

/-- The VC of a packet type (R370); none of a reserved type. -/
def typeVc (t : Nat) : Option Nat :=
  if t = 1 then some 1 else if t = 7 then some 2 else if t = 8 then some 3 else if 2 ≤ t ∧ t ≤ 10 then some 0 else none

/-- Whether R370 discards a packet: its TYPE, VC, LEN or unit. -/
def pktBad (p : FabPkt) : Bool :=
  typeVc p.type.toNat ≠ some p.vc.toNat || (if p.vc = 0 then decide (256 < p.len) else decide (2048 < p.len)) ||
  (p.ddev && decide (5 < p.unit.toNat))

/-- A packet with a path: its links for hops 1 to 3 stand in ROUTE from the place of the next hop on (R371). -/
def onPath (p : FabPkt) (path : List Nat) : FabPkt :=
  { p with route := (List.range 3).map (fun i =>
      if i < p.hop.toNat then p.route.getD i 31 else BitVec.ofNat 5 (path.getD (i + 1 - p.hop.toNat) 31)) }

/-- A router's own path for a packet that it forwards: only if HOP plus the path's length is at most 4; else its destination is lost to a
partition (R377). -/
def State.ownPath (s : State) (p : FabPkt) : State :=
  match s.pathTo p.dstDev with
  | some (l :: r) => if p.hop.toNat + (l :: r).length ≤ 4 then s.linkQueue l (onPath p (l :: r)) else s.cutOff p
  | _ => s.cutOff p

/-- Forwards a packet that has crossed `p.hop` links: by ROUTE, or by the router's own path when that link does not carry packets
(R377). -/
def State.forward (s : State) (p : FabPkt) : State :=
  let l := (p.route.getD (p.hop.toNat - 1) 31).toNat
  if l < 18 && s.linkUp l then s.linkQueue l p else s.ownPath p

/-! ## End-to-end delivery (R379, R380) -/

/-- An E2EACK carries L. -/
def State.e2eAck (s : State) (d v : Nat) : State :=
  let x := s.e2e d v
  (s.setE2e d v { x with sinceAck := 0, advanced := false }).toDevice d 3 0 (.e2eAck (BitVec.ofNat 6 d) (BitVec.ofNat 2 v) x.low)

/-- L moves past every number that has come. -/
def advanceLow : Nat → BitVec 16 → List (BitVec 16) → BitVec 16 × List (BitVec 16)
  | 0, l, g => (l, g)
  | n + 1, l, g => if g.contains l then advanceLow n (l + 1) (g.erase l) else (l, g)

/-- Credit that a full reorder buffer kept back returns once it is full no more (R380). -/
def State.payCredits (s : State) : State :=
  if s.reorderFull then s
  else ({ s with fab := { s.fab with owed := [] } }).forAll s.fab.owed (fun s c => s.sendCredit c.1 c.2.1 c.2.2.1 c.2.2.2)

/-- A packet goes to the unit it names. At the gate device a CMD packet from another device that carries frames for the host has them join that
device's space (R412; log entry 26). -/
def State.handOver (s : State) (p : FabPkt) : State :=
  let s := s.send (.handed p)
  let w := fun (i : Nat) => (p.payload.getD i 0).toNat
  if p.type = 6 && s.isGate && s.isReady && w 3 = 1 then s.hostFrames (w 0 / 2 ^ 8 % 4) p.srcDev (w 0 % 2 ^ 8) (w 1) false else s

/-- A packet for this device (R380): a duplicate is discarded, counted and answered; VC1 is delivered on arrival, VC0 and VC2 in order
of E2E_SEQ. -/
def State.e2eReceive (s : State) (p : FabPkt) : State :=
  if p.dstDev ≠ s.sys.myDev.toNat then s
  else if p.type = 2 ∨ p.type = 3 ∨ p.vc = 3 then s.handOver p
  else
    let d := p.srcDev
    let v := p.vc.toNat
    let x := s.e2e d v
    if 32768 ≤ (p.e2e - x.low).toNat ∨ x.got.contains p.e2e then (s.count Reg.fabE2eDup 1).e2eAck d v
    else
      let (low, got) := advanceLow (x.got.length + 1) x.low (p.e2e :: x.got)
      let ready := if v = 1 then [p]
        else (List.range (low - x.low).toNat).filterMap (fun i => (p :: x.reorder).find? (fun q => q.e2e = x.low + BitVec.ofNat 16 i))
      let rest := if v = 1 then [] else (x.reorder ++ [p]).filter (fun q => (q.e2e - low).toNat < 32768)
      let n := x.sinceAck + 1
      let s := s.setE2e d v { x with
        low := low, got := got, reorder := rest, sinceAck := n, advanced := x.advanced || decide (low ≠ x.low) }
      let s := (s.forAll ready State.handOver).payCredits
      if 256 ≤ n then s.e2eAck d v else s

/-- Packets that waited for the retention store go while it has room (R379). -/
def State.drainRetain : Nat → State → Nat → Nat → State
  | 0, s, _, _ => s
  | n + 1, s, d, v =>
    let x := s.e2e d v
    match x.waiting with
    | [] => s
    | p :: r => if s.retainRoom d v p then State.drainRetain n ((s.setE2e d v { x with waiting := r }).e2eSend p) d v else s

/-- E2EACK_ARRIVAL: every retained packet below L is freed (R379), and the commands whose writes it acknowledges complete. -/
def State.e2eAcked (s : State) (d v : Nat) (low : BitVec 16) : State :=
  let x := s.e2e d v
  let left := x.retained.filter (fun q => 32768 ≤ (low - q.1 - 1).toNat)
  let s := s.setE2e d v { x with retained := left }
  (s.forAll s.fab.e2e (fun s p => State.drainRetain (s.e2e (p.1 / 4) (p.1 % 4)).waiting.length s (p.1 / 4) (p.1 % 4))).farEnds d
    (if v = 2 then x.retained.length - left.length else 0)

/-- E2EACK_TIMER: an E2EACK each 1 µs while L has advanced (R379). -/
def State.e2eTimer (s : State) (d v : Nat) : State := if (s.e2e d v).advanced then s.e2eAck d v else s

/-! ## Circuits (R384-R387) -/

/-- The flow at the head of a circuit ends, its COPY completes, and the next starts (R289, R384). -/
def State.flowDone (s : State) (c : Nat) (st : Byte) : State :=
  let x := s.circ c
  match x.flows with
  | [] => s
  | f :: r =>
    let s := s.setCirc c { x with flows := r }
    (match (f.cmd : Option (Hdr × Word64)) with
      | none => s
      | some (h, cseq) => s.finish h cseq 0x30 st (f.bytes - (f.chunks.map (fun (q : BitVec 18 × Word64 × List Byte) => q.2.2.length)).sum)).kickCirc c

/-- CHUNKACK_ARRIVAL: the chunk's source range is free; the copy completes with its last chunk (R386). -/
def State.chunkAcked (s : State) (c : Nat) (chunk : BitVec 18) : State :=
  let x := s.circ c
  match x.flows with
  | [] => s
  | f :: r =>
    let g := { f with chunks := f.chunks.filter (fun q => q.1 ≠ chunk) }
    let s := s.setCirc c { x with flows := g :: r }
    if g.chunks = [] then s.flowDone c St.ok else s

/-- CIRCUIT_CHUNK_RECEIVE: the receiver performs a chunk and acknowledges it; one it has acknowledged it only acknowledges again
(R386). A circuit within the device acknowledges to itself. A chunk of an apply window's transfer has no memory reference: what it
carries reaches its member with REDUCTION_CHUNK_ARRIVAL, APPLY_WINDOW_CLOSE, OVERLAP_ROW_COMMIT or DELAY_VOTE (R558). -/
def State.chunkReceive (s : State) (src c : Nat) (flow : Word64) (chunk : BitVec 18) (dst : Word64) (data : List Byte) : State :=
  let learn := dst = BitVec.allOnes 64
  if !s.mrefLocal dst && !learn then s
  else
    let k := 256 + src * 256 + c
    let x := s.circ k
    let x := if x.inFlow = flow then x else { x with inFlow := flow, received := [] }
    let s :=
      if x.received.contains chunk then s
      else if learn then s.setCirc k { x with received := x.received ++ [chunk] }
      else (s.setCirc k { x with received := x.received ++ [chunk] }).writeMem (s.mrefAddr dst) data
    if src = s.sys.myDev.toNat then s.chunkAcked c chunk
    else s.toDevice src 9 0 (.chunkAck (BitVec.ofNat 6 src) (BitVec.ofNat 8 c) chunk)

/-- Whether a circuit's registers may be written (R385): bound, and FREE, REJECTED or PACKET. -/
def State.circOpen (s : State) (c : Nat) : Bool :=
  (s.circ c).bound && (s.circState c = 0 || s.circState c = 4 || s.circState c = 3)

/-- CIRCUIT_ARM: a write of 1 to ARM (R385). -/
def State.circuitArm (s : State) (c : Nat) : State × Byte :=
  if s.circOpen c then (s.rsetField (Reg.fabCircStat c) 29 3 1, St.ok) else (s, St.badOperand)

/-- The source ranges of the chunks that the flow under way sends again are read again (R386): their granules count (R362). -/
def State.againRead (s : State) (c : Nat) : State :=
  match (s.circ c).flows with
  | f :: _ => match f.src with
    | some a => s.forAll f.chunks (fun s x => s.moved false (a + x.1.toNat * 65536) x.2.2.length)
    | none => s
  | [] => s

/-- A circuit is torn down to packet mode (R387): unacknowledged and remaining chunks go as BULK packets. -/
def State.tearDown (s : State) (c : Nat) : State :=
  let s := ((s.rsetField (Reg.fabCircStat c) 29 3 3).satAdd (Reg.fabCircStat c) 0 16 1)
  let cut := fun (b : Berth) => if b.cur.any (fun z => z.circuit.toNat = c) then { b with packet := true } else b
  let s := s.forAll s.core.cores (fun s p =>
    s.setCor p.1 { s.cor p.1 with berth0 := cut (s.cor p.1).berth0, berth1 := cut (s.cor p.1).berth1 })
  if (s.circ c).flows.head?.any (fun f => f.going) then (s.againRead c).sendFlow c else s

/-! ## Links (R374, R375, R381) -/

/-- Packets that stood in a failed link's replay buffer and queue go on their new paths, oldest first (R381). -/
def State.reroute (s : State) (p : FabPkt) : State :=
  if p.srcDev = s.sys.myDev.toNat ∧ p.vc = 3 then s
  else if p.hop = 0 then s.routeOut p else s.ownPath p

/-- Packets that stand in the receive buffer of a link that has gone down have no credit to return on it. -/
def State.buffersGone (s : State) (l : Nat) : State :=
  s.forAll (s.fab.links.map Prod.fst) (fun s k => s.setLink k { s.link k with
    waiting := (s.link k).waiting.map (fun p => if p.via = some (BitVec.ofNat 5 l) then { p with via := none } else p) })

/-- A link's packets leave it. -/
def State.emptyLink (s : State) (l : Nat) : State :=
  let x := s.link l
  let s := ((s.setLink l Link.empty).buffersGone l)
  s.forAll (x.unacked.map (fun u => u.pkt) ++ x.waiting) State.reroute

/-- Circuits that cross one of `hops` (a link by the device it leaves): this device's are torn down, other devices' have their slots here
released (R381, R387). -/
def State.cutCircs (s : State) (hops : List (Nat × Nat)) : State :=
  let crosses := fun (h : List (Nat × Nat)) => h.any hops.contains
  let s := s.forAll (s.activeCircs.filter (fun c => crosses (s.pathHops s.sys.myDev.toNat (s.circPath c)))) State.tearDown
  { s with fab := { s.fab with far := s.fab.far.filter (fun x => !crosses (s.farHops x)) } }

/-- A link is declared FAILED, from UP or NARROW only (R375, R381): flag, count, source 1 + l, LINK_DOWN (not in answer to the peer's),
its packets on new paths, and its circuits torn down. -/
def State.linkFailed (s : State) (l : Nat) (told : Bool) : State :=
  if !s.linkUp l then s
  else
    let s := ((s.rsetField (Reg.fabLnkStat l) 29 3 4).rsetField (Reg.fabLnkStat l) 26 2 0).rsetBit (Reg.fabLnkStat l) 0 true
    let s := (s.count (Reg.fabLnkFails l) 1).raise (1 + l)
    let s := if told then s else s.send (.link (BitVec.ofNat 5 l) 3 0)
    (s.emptyLink l).cutCircs [(s.sys.myDev.toNat, l), (s.rfield (Reg.fabLnkStat l) 16 6, s.rfield (Reg.fabLnkStat l) 8 5)]

/-- LINK_FAILURE of a link of another device, named by the device it leaves (R381, R387): circuits that cross it are torn down, and it carries no path until a quiesce finds it working. -/
def State.farLinkFailed (s : State) (dev l : Nat) : State :=
  State.cutCircs { s with sys := { s.sys with down := if s.sys.down.contains (dev, l) then s.sys.down else s.sys.down ++ [(dev, l)] } } [(dev, l)]

/-- LINK_FAILURE: a link of this device, or of another one, is declared FAILED (R375, R381). -/
def State.linkFailure (s : State) (dev l : Nat) : State :=
  if dev = s.sys.myDev.toNat then s.linkFailed l false else s.farLinkFailed dev l

/-- The sender replays from the oldest unacknowledged packet, in order; a seventeenth replay fails the link instead (R374, R375). -/
def State.replay (s : State) (l : Nat) : State :=
  let x := s.link l
  if !s.linkUp l ∨ x.unacked = [] then s
  else if x.unacked.any (fun u => 16 ≤ u.replays) then s.linkFailed l false
  else
    let s := s.setLink l { x with unacked := x.unacked.map (fun u => { u with replays := u.replays + 1 }) }
    (s.count (Reg.fabLnkReplay l) x.unacked.length).forAll x.unacked (fun s u => s.onLink l u.lseq u.pkt)

/-- LINK_ACK: every packet up to LSEQ is acknowledged, compared over half the range (R374, log entry 28). -/
def State.linkAcked (s : State) (l : Nat) (lseq : BitVec 12) : State :=
  if !s.linkUp l then s
  else
    let x := s.link l
    let s := s.setLink l { x with unacked := x.unacked.filter (fun u => 2048 ≤ (lseq - u.lseq).toNat) }
    State.drainLink (s.link l).waiting.length s l

/-- LINK_CREDIT: credit of a VC and class returns (R372). -/
def State.linkCredit (s : State) (l vc cls units : Nat) : State :=
  if !s.linkUp l then s
  else
    let x := s.link l
    let s := s.setLink l (x.setUse vc cls (x.inUse vc cls - units))
    State.drainLink (s.link l).waiting.length s l

/-- The receiver sends one NAK that names the LSEQ it expects. -/
def State.linkNak (s : State) (l : Nat) : State :=
  ((s.setLink l { s.link l with nakSent := true }).count (Reg.fabLnkNak l) 1).send (.link (BitVec.ofNat 5 l) 1 (s.link l).rxSeq)

/-- The receiver acknowledges what it has accepted. -/
def State.linkAckOut (s : State) (l : Nat) : State :=
  (s.setLink l { s.link l with sinceAck := 0 }).send (.link (BitVec.ofNat 5 l) 0 ((s.link l).rxSeq - 1))

/-- LINK_ACK_SEND: an ACK at least every 256 ns while packets have come (R374). -/
def State.linkAckSend (s : State) (l : Nat) : State :=
  if s.linkUp l && decide (0 < (s.link l).sinceAck) then s.linkAckOut l else s

/-- A packet the link has accepted: discarded under R370, taken if it is for this device, else forwarded. A packet on its way stays in the
link's receive buffer until it leaves on the next link (R372); one that has made its fourth hop elsewhere than at its device goes no further
(R377, R378). -/
def State.linkPacket (s : State) (l : Nat) (p : FabPkt) : State :=
  if pktBad p then (((s.count Reg.fabBadpkt 1).rsetBit Reg.fabStatus 2 true).raise (1 + l)).linkCreditBack l p.hop.toNat p
  else if p.dstDev = s.sys.myDev.toNat then (s.e2eReceive { p with via := none }).linkCreditBack l p.hop.toNat p
  else if p.hop = 3 then (s.cutOff { p with via := none }).linkCreditBack l 3 p
  else s.forward { p with hop := p.hop + 1, via := some (BitVec.ofNat 5 l) }

/-- FEC counts its corrected and its uncorrectable codewords; these raise source 1 + l (R367, R392). -/
def State.fecCount (s : State) (l corr unc : Nat) : State :=
  let s := (s.count (Reg.fabLnkFecCorr l) corr).count (Reg.fabLnkFecUnc l) unc
  if unc = 0 then s else s.raise (1 + l)

/-- Whether both CRCs of a received packet are good (R369, R371, R374). -/
def pktGood (lseq : BitVec 12) (p : FabPkt) (hcrc : BitVec 16) (crc : Word) : Bool := decide (hcrc = pktHcrc p) && decide (crc = pktCrc lseq p)

/-- LINK_PACKET_RECEIVE (R374): accepted only with the next LSEQ expected and good CRCs; otherwise discarded with one NAK. PTB_REPLAY
discards every N-th packet that it would accept and that is no replay (R535, log entry 28). -/
def State.linkReceive (s : State) (l : Nat) (lseq : BitVec 12) (crcOk : Bool) (p : FabPkt) : State :=
  if !s.linkUp l then s
  else
    let x := s.link l
    let again := x.nakSent || decide ((x.seen - 1 - lseq).toNat < 2048)
    let seen := if crcOk && decide ((lseq - x.seen).toNat < 2048) then lseq + 1 else x.seen
    if lseq ≠ x.rxSeq ∨ !crcOk then (s.setLink l { x with seen := seen }).linkNak l
    else
      let k := s.ptbReplay l
      if k ≠ 0 ∧ !again ∧ k ≤ x.forced + 1 then (s.setLink l { x with seen := seen, forced := 0 }).linkNak l
      else
        let n := x.sinceAck + 1
        let s := s.setLink l { x with
          rxSeq := lseq + 1, nakSent := false, seen := seen, sinceAck := n, forced := if k = 0 then 0 else if again then x.forced else x.forced + 1 }
        let s := if 32 ≤ n then s.linkAckOut l else s
        (s.unitActs 0 1 (pktUnits p)).linkPacket l p

/-! ## Lost devices (R381, R382) -/

/-- The devices of a path, from the links of the system (R376). -/
def State.pathDevs (s : State) : Nat → List Nat → List Nat
  | _, [] => []
  | d, l :: r =>
    match s.sys.edges.find? (fun e => e.1 = d && e.2.1 = l) with
    | some e => e.2.2.1 :: State.pathDevs s e.2.2.1 r
    | none => []

/-- Re-sends a retained packet on a path that avoids a device. -/
def State.resendAvoiding (s : State) (dev : Nat) (p : FabPkt) : State :=
  let paths := [s.rget (Reg.fabRoutePri p.dstDev), s.rget (Reg.fabRouteAlt p.dstDev)].filterMap pathLinks
  match paths.find? (fun q => q ≠ [] && s.linkUp (q.headD 31) && !(s.pathDevs s.sys.myDev.toNat q).contains dev) with
  | some (l :: r) => s.linkQueue l { p with hop := 0, route := routeField (l :: r) }
  | _ => s

/-- A binding that spans a lost device (R382): the step ends without it, its covering command and every queued one complete with
LINK_LOST, and it halts. -/
def State.bindingLost (s : State) (b dev : Nat) : State :=
  let x := s.bnd b
  if !x.valid || !x.mask.getLsbD dev then s
  else
    let q := if x.running then x.queue.drop 1 else x.queue
    let keep := if x.running then (x.queue.take 1).map (fun c => { c with left := some 1, status := worse c.status St.linkLost }) else []
    let s := s.setBnd b { x with queue := keep }
    let s := s.forAll q (fun s c => s.complete c.hdr c.cseq c.opcode St.linkLost c.ran)
    let s := s.haltBinding b
    let x := s.bnd b
    if !x.running then s
    else if s.isLead b then s.takeSignal b dev [] St.ok
    else if x.lead.toNat = dev && x.signalled then s.endStep b
    else s

/-- Whether a device may be declared lost (R382): for cause 0 (its links have failed and nothing has come from it for 100 µs) every link to it
that this device knows has failed; for cause 1 (it has reset) it has announced no retirement; for cause 2 (partitioned) no path of four hops
leads to it; cause 3 is a loss that another Keeper has broadcast. -/
def State.mayLose (s : State) (dev : Nat) (cause : BitVec 2) : Bool :=
  if cause = 0 then (s.ownEdges ++ s.farEdges).all (fun e => e.2.2.1 ≠ dev)
  else if cause = 1 then !s.sys.retired.contains dev
  else if cause = 2 then !s.reachable dev
  else true

/-- The flows on a circuit end, each with its COPY (R289). -/
def State.failFlows (s : State) (c : Nat) (st : Byte) : State :=
  let l := (s.circ c).flows
  (s.setCirc c { s.circ c with flows := [] }).forAll l (fun s f => match f.cmd with
    | none => s
    | some (h, cseq) => s.finish h cseq 0x30 st (f.bytes - (f.chunks.map (fun q => q.2.2.length)).sum))

/-- DEVICE_LOST: Keeper declares a device lost, or partitioned from this one, and broadcasts a loss over MGMT (R382, R393; log entry
68). A device that is both is declared twice; the second declaration sets its flag and has no other effect. -/
def State.deviceLost (s : State) (dev : Nat) (cause : BitVec 2) : State :=
  let part := decide (cause = 2)
  if dev = s.sys.myDev.toNat ∨ !s.mayLose dev cause then s
  else if s.sys.lost.contains dev then s.lossFlag dev part
  else
    let s := s.lossFlag dev part
    let s := if cause ≠ 0 ∧ cause ≠ 1 then s else
      s.toDevices ((List.range 64).filter (fun d => s.sys.ready.contains d && d ≠ s.sys.myDev.toNat && d ≠ dev)) 10 3 (.keeper 0xFC dev)
    let s := { s with sys := { s.sys with lost := s.sys.lost ++ [dev], ready := s.sys.ready.filter (fun d => d ≠ dev) } }
    let s := s.count Reg.fabE2eLost (((List.range 3).map (fun v => (s.e2e dev v).retained.length)).sum)
    let s := s.forAll (List.range 3) (fun s v => s.setE2e dev v { s.e2e dev v with retained := [], waiting := [] })
    let s := s.farLost dev
    let s := s.forAll (s.fab.e2e.flatMap (fun e => e.2.retained.map Prod.snd)) (fun s p => s.resendAvoiding dev p)
    let cs := (List.range 256).filter (fun c => (s.circ c).bound && s.rfield (Reg.fabCircCfg1 c) 24 6 = dev)
    let s := s.forAll cs (fun s c => s.failFlows c St.linkLost)
    let s := (s.forAll (s.cmd.bindings.map Prod.fst) (fun s b => s.bindingLost b dev)).closeWritersAt dev
    if s.sys.gate.toNat = dev then s.fabricTimeLost else s

/-! ## Retirement (R383, R414) -/

/-- Whether every buffer of the router is empty. -/
def State.routerEmpty (s : State) : Bool :=
  s.fab.links.all (fun p => p.2.unacked = [] && p.2.waiting = []) &&
  s.fab.e2e.all (fun p => p.2.retained = [] && p.2.waiting = [] && p.2.reorder = [])

/-- A write of REQ in FAB_RETIRE: refused while the device holds a valid binding, and on the gate device without a standby that is
READY. Keeper then tells every other Keeper. -/
def State.retireReq (s : State) : State × Byte :=
  let held := s.cmd.bindings.any (fun p => p.2.valid)
  let gateBad := s.sys.gate = s.sys.myDev && !(s.sys.standby.any (fun d => s.sys.ready.contains d.toNat))
  if held ∨ gateBad then (s, St.badOperand)
  else
    ((State.rsetBit { s with sys := { s.sys with confirmed := [] } } Reg.fabRetire 0 true).toDevices ((List.range 64).filter (fun d => s.sys.ready.contains d && d ≠ s.sys.myDev.toNat)) 10 3
      (.keeper 0xFE s.sys.myDev.toNat), St.ok)

/-- RETIRE_READY: the confirmations of devices arrive. Once every device has confirmed and no packet is held, REQ clears and READY sets. The
gate device waits until the standby has its role (R414). -/
def State.retireReady (s : State) (from' : List Nat) : State :=
  if !s.rbit Reg.fabRetire 0 then s
  else
    let s := { s with sys := { s.sys with confirmed := (s.sys.confirmed ++ from').eraseDups } }
    let all := s.sys.ready.all (fun d => d = s.sys.myDev.toNat || s.sys.confirmed.contains d)
    if all && s.routerEmpty && decide (s.sys.gate ≠ s.sys.myDev) then s.rset Reg.fabRetire 2 else s

/-! ## Congestion maps (R390, R391) -/

/-- The higher of two level words, nibble by nibble. -/
def maxLevels (a b : BitVec 16) : BitVec 16 :=
  BitVec.ofNat 16 (((List.range 4).map (fun i => max (a.toNat / 16 ^ i % 16) (b.toNat / 16 ^ i % 16) * 16 ^ i)).sum)

/-- The level of an occupancy (R390). -/
def levelOf (occ cap : Nat) : Nat := if cap = 0 then 15 else min 15 (16 * occ / cap)
/-- Bytes of a VC in the receive buffer of a link: the packets that wait there for their next link (R372). -/
def State.rxBytes (s : State) (l vc : Nat) : Nat :=
  (s.fab.links.map (fun e => ((e.2.waiting.filter (fun p => p.via = some (BitVec.ofNat 5 l) && decide (p.vc.toNat = vc))).map pktBytes).sum)).sum
/-- The level word of a port from the levels of its four VCs. -/
def levelWord (f : Nat → Nat) : BitVec 16 := BitVec.ofNat 16 (((List.range 4).map (fun v => f v * 16 ^ v)).sum)
/-- The level words of the 26 ports (R390): of a link from its receive buffer, of an Armature port from its occupancy and capacity by VC. -/
def State.portLevels (s : State) (ports : List (List (Nat × Nat))) : List (BitVec 16) :=
  (List.range 18).map (fun l => levelWord (fun v => levelOf (s.rxBytes l v) (vcUnits v * 4 * 256))) ++
  (List.range 8).map (fun i => levelWord (fun v => let x := (ports.getD i []).getD v (0, 1); levelOf x.1 x.2))

/-- CONGESTION_SAMPLE at the next timebase multiple of 10,000 ns: a level word for each of the 26 ports. -/
def State.cmapSample (s : State) (ports : List (List (Nat × Nat))) : State :=
  let levels := s.portLevels ports
  let s := s.setTb (slotAfter s.tmr.tb.toNat 0 10000)
  let s := s.forAll (List.range 26) (fun s p => s.rsetField (Reg.fabCmap p) 0 16 (levels.getD p 0).toNat)
  let s := s.longSet Reg.fabCmapTimeLo s.tmr.tb.toNat
  { s with fab := { s.fab with cmapMax := (List.range 26).map (fun p => maxLevels (s.fab.cmapMax.getD p 0) (levels.getD p 0)) } }

/-- CONGESTION_MAP: each millisecond the map of the highest levels is kept, with whether the perturbation block is active (R537). -/
def State.cmapKeep (s : State) : State :=
  let m := (List.range 26).map (fun p => s.fab.cmapMax.getD p 0)
  let s := s.forAll (List.range 26) (fun s p => s.rsetField (Reg.fabCmap p) 16 16 (m.getD p 0).toNat)
  let h := s.fab.cmapHist ++ [(m, s.rbit Reg.ptbStatus 0)]
  { s with fab := { s.fab with cmapMax := [], cmapHist := h.drop (h.length - 4096) } }

def execLinkPacketReceive (l : BitVec 5) (lseq : BitVec 12) (hcrc : BitVec 16) (crc : Word) (p : FabPkt) (corr unc : Nat) (s : State) : Result :=
  live s fun s => (s.fecCount l.toNat corr unc).linkReceive l.toNat lseq (pktGood lseq p hcrc crc) p
def execLinkAck (l : BitVec 5) (lseq : BitVec 12) (s : State) : Result := live s fun s => s.linkAcked l.toNat lseq
def execLinkNak (l : BitVec 5) (lseq : BitVec 12) (s : State) : Result := live s fun s => let _ := lseq; s.replay l.toNat
def execLinkCredit (l : BitVec 5) (vc cls : BitVec 2) (units : BitVec 10) (s : State) : Result :=
  live s fun s => s.linkCredit l.toNat vc.toNat cls.toNat units.toNat
def execReplayTimeout (l : BitVec 5) (s : State) : Result := live s fun s => s.replay l.toNat
def execLinkFailure (dev : BitVec 6) (l : BitVec 5) (s : State) : Result := live s fun s => s.linkFailure dev.toNat l.toNat
def execLinkDownReceive (l : BitVec 5) (s : State) : Result := live s fun s => s.linkFailed l.toNat true
def execFecLockLoss (l : BitVec 5) (lane : BitVec 2) (s : State) : Result := live s fun s => let _ := lane; s.linkFailed l.toNat false
def execE2ePacketReceive (p : FabPkt) (s : State) : Result := live s fun s => s.e2eReceive p
def execE2eackArrival (dev : BitVec 6) (vc : BitVec 2) (low : BitVec 16) (s : State) : Result :=
  live s fun s => s.e2eAcked dev.toNat vc.toNat low
def execE2eackTimer (dev : BitVec 6) (vc : BitVec 2) (s : State) : Result := live s fun s => s.e2eTimer dev.toNat vc.toNat
def execFabRetireReq (s : State) : Result := live s fun s => replied Reg.fabRetire s.retireReq
def execRetireReady (confirmed : List (BitVec 6)) (s : State) : Result := live s fun s => s.retireReady (confirmed.map BitVec.toNat)
def execCircuitArm (c : BitVec 8) (s : State) : Result := live s fun s => replied (Reg.fabCircCfg0 c.toNat) (s.circuitArm c.toNat)
def execChunkackArrival (c : BitVec 8) (chunk : BitVec 18) (s : State) : Result := live s fun s => s.chunkAcked c.toNat chunk
def execCircuitChunkReceive (src : BitVec 6) (c : BitVec 8) (flow : Word64) (chunk : BitVec 18) (dst : Word64) (data : List Byte)
    (s : State) : Result :=
  live s fun s => s.chunkReceive src.toNat c.toNat flow chunk dst data
def execCongestionSample (ports : List (List (Nat × Nat))) (s : State) : Result := live s fun s => s.cmapSample ports
def execCongestionMap (s : State) : Result := live s fun s => s.cmapKeep
def execLinkAckSend (l : BitVec 5) (s : State) : Result := live s fun s => s.linkAckSend l.toNat

end Sys2Proof.Machine
end

