-- ==== Sys2Proof/Machine/Recovery.lean ====
section
/-! DEFINITION. Machine/Recovery.lean: paths (R376), quiesces (R44, R477), the admission of circuits (R385), units and field records
(R465, R475-R478) and field failures (R481-R487). -/

namespace Sys2Proof.Machine

/-! ## Circuits at a quiesce (R385, R387) -/

/-- The device a path leads to from device `d`, over links that carry packets; none where a link does not. Links of other devices are those of
the system that have not failed since (R381). -/
def State.pathEnd (s : State) (d : Nat) : List Nat → Option Nat
  | [] => some d
  | l :: r =>
    let next :=
      if d = s.sys.myDev.toNat then (if s.linkUp l then some (s.rfield (Reg.fabLnkStat l) 16 6) else none)
      else (s.sys.edges.find? (fun e => e.1 = d && e.2.1 = l && !s.sys.down.contains (d, l))).map (fun e => e.2.2.1)
    next.bind (fun p => State.pathEnd s p r)

/-- The ports of an endpoint: both of a core's with XPORTS (R348, R384). -/
def endpointPorts (p : Nat) (both : Bool) : List Nat :=
  match portUnit p with
  | some (.core n) => if both then (List.range 114).filter (fun q => portUnit q = some (.core n)) else [p]
  | _ => [p]

/-- Slots that circuits reserve at a port of this device, into the Armature (from the source) or out of it, those of other devices' circuits that end
here included (R351). -/
def State.portRsv (s : State) (into : Bool) (p : Nat) : Nat :=
  (s.activeCircs.map (fun c =>
    let q := s.rfield (Reg.fabCircCfg1 c) (if into then 0 else 16) 7
    let here := into || s.rfield (Reg.fabCircCfg1 c) 24 6 = s.sys.myDev.toNat
    if here && (endpointPorts q (s.rbit (Reg.fabCircCfg0 c) 30)).contains p then s.rfield (Reg.fabCircCfg0 c) 8 4 else 0)).sum +
  (s.fab.far.map (fun x =>
    if !into && x.2.ddev = s.sys.myDev && (endpointPorts x.2.dport.toNat x.2.xports).contains p then x.2.xslots.toNat else 0)).sum

/-- The cause for which a circuit is rejected (R394); 0 where it may be admitted. -/
def State.circCause (s : State) (c : Nat) : Nat :=
  let path := s.circPath c
  let cfg := fun (lo w : Nat) => s.rfield (Reg.fabCircCfg1 c) lo w
  let x := s.rfield (Reg.fabCircCfg0 c) 8 4
  let both := s.rbit (Reg.fabCircCfg0 c) 30
  let local' := decide (cfg 24 6 = s.sys.myDev.toNat)
  if 4 < s.rfield (Reg.fabCircCfg0 c) 0 3 ∨ path.any (fun l => 18 ≤ l) ∨ (path = [] ∧ local' = false) ∨ 114 ≤ cfg 0 7 ∨ 114 ≤ cfg 16 7
    ∨ s.rfield (Reg.fabCircCfg0 c) 16 6 = 0 ∨ x = 0 then 4
  else match s.pathEnd s.sys.myDev.toNat path with
  | none => 3
  | some d =>
    if d ≠ cfg 24 6 then 4
    else
      if path ≠ [] ∧ 48 < s.linkRsv (path.headD 31) + s.rfield (Reg.fabCircCfg0 c) 16 6 then 1
      else if (endpointPorts (cfg 0 7) both).any (fun p => 12 < s.portRsv true p + x) ∨
        (local' && (endpointPorts (cfg 16 7) both).any (fun p => 12 < s.portRsv false p + x)) then 2
      else 0

/-- The cause for which this device rejects a circuit of another one that crosses it or ends at it (R385, R394); 0 where it reserves the
slots. -/
def State.farCause (s : State) (x : Nat × FarCirc) : Nat :=
  let me := s.sys.myDev.toNat
  let out := ((s.farHops x).find? (fun h => h.1 = me)).map Prod.snd
  if x.2.slots = 0 ∨ x.2.xslots = 0 ∨ (out = none ∧ x.2.ddev ≠ s.sys.myDev) then 4
  else if out.any (fun l => !s.linkUp l) then 3
  else if out.any (fun l => decide (48 < s.linkRsv l + x.2.slots.toNat)) then 1
  else if x.2.ddev = s.sys.myDev ∧
    (endpointPorts x.2.dport.toNat x.2.xports).any (fun p => 12 < s.portRsv false p + x.2.xslots.toNat) then 2
  else 0

/-- Keeper reserves the slots of another device's circuit, or rejects it, and answers its source (R385). -/
def State.admitFar (s : State) (x : Nat × FarCirc) : State :=
  let s := { s with fab := { s.fab with far := s.fab.far.filter (fun y => y.1 ≠ x.1) } }
  let why := s.farCause x
  let s := if why = 0 then { s with fab := { s.fab with far := s.fab.far ++ [x] } } else s
  s.toDevice (x.1 / 256) 10 3 (.circAnswer (BitVec.ofNat 6 (x.1 / 256)) (BitVec.ofNat 8 x.1) (BitVec.ofNat 4 why))

/-- Keeper admits an ARMED circuit or rejects it with a cause; one in PACKET it re-admits on a path from its new tables when the slots
allow (R385, R387). `no` are the rejections of the other devices of the paths. -/
def State.admitCirc (s : State) (no : List (Nat × Nat)) (c : Nat) : State :=
  let other := ((no.find? (fun x => x.1 = c)).map Prod.snd).getD 0
  if !(s.circ c).bound then s
  else if s.circState c = 1 then
    let why := if s.circCause c = 0 then other else s.circCause c
    (s.rsetField (Reg.fabCircStat c) 24 4 why).rsetField (Reg.fabCircStat c) 29 3 (if why = 0 then 2 else 4)
  else if s.circState c = 3 then
    match pathLinks (s.rget (Reg.fabRoutePri (s.rfield (Reg.fabCircCfg1 c) 24 6))) with
    | none => s
    | some p =>
      let t := (s.rsetField (Reg.fabCircCfg0 c) 0 3 p.length).rset (Reg.fabCircCfg2 c)
        (BitVec.ofNat 32 (((List.range 4).map (fun i => p.getD i 31 * 2 ^ (5 * i))).sum))
      if t.circCause c = 0 ∧ other = 0 then t.rsetField (Reg.fabCircStat c) 29 3 2 else s
  else s

/-! ## Units and field records (R465, R475-R478, R488-R490) -/

/-- STATE of a physical core or slice (R490): 0 FUSED_BAD, 1 IN_USE, 2 SPARE, 3 TEST_FAIL, 4 FAILED. -/
def State.physState (s : State) (slice : Bool) (p : Nat) : Nat :=
  s.rfield (if slice then Reg.budPhysSlice p else Reg.budPhysCore p) 29 3
/-- The logical number a physical unit serves. -/
def State.physLogical (s : State) (slice : Bool) (p : Nat) : Nat := s.rfield (if slice then Reg.budPhysSlice p else Reg.budPhysCore p) 0 6
/-- Writes a unit's word (R490). -/
def State.setPhys (s : State) (slice : Bool) (p st cause logical : Nat) : State :=
  s.rset (if slice then Reg.budPhysSlice p else Reg.budPhysCore p) (BitVec.ofNat 32 (st * 2 ^ 29 + cause % 8 * 2 ^ 26 + logical % 64))
/-- Writes an entry of the LMAP (R489). -/
def State.setLmap (s : State) (slice : Bool) (k st phys : Nat) : State :=
  s.rset (if slice then Reg.budLmapSlice k else Reg.budLmapCore k) (BitVec.ofNat 32 (st * 2 ^ 30 + phys % 64))
/-- How many physical units of a kind there are. -/
def nPhys (slice : Bool) : Nat := if slice then 34 else 18
/-- The good spares, in ascending order. -/
def State.spares (s : State) (slice : Bool) : List Nat := (List.range (nPhys slice)).filter (fun p => s.physState slice p = 2)

/-- Keeper writes a field record (R465): at most 768 row repairs and 256 unit records. FFEV sets (R478). -/
def State.fieldRecord (s : State) (r : FieldRec) : State :=
  let n := (s.fuses.records.filter (fun x => decide (x.kind = 0) = decide (r.kind = 0))).length
  let s := if n < (if r.kind = 0 then 768 else 256) then { s with fuses := { s.fuses with records := s.fuses.records ++ [r] } } else s
  let s := s.rsetBit Reg.budState 16 true
  { s with ltn := { s.ltn with keep := { s.ltn.keep with ffev := true } } }

/-- The words of the LMAP in address order (R478). -/
def State.lmapWords (s : State) : List Word :=
  (List.range 16).map (fun k => s.rget (Reg.budLmapCore k)) ++ (List.range 32).map (fun k => s.rget (Reg.budLmapSlice k))

/-- After an LMAP load: the counts of BUD_CAP and BUD_FUSE, the CRC, and Lantern retention (R478, R488). -/
def State.lmapLoaded (s : State) : State :=
  let recs := s.fuses.records
  let cap := (recs.filter (fun r => r.kind = 4)).length % 256 * 2 ^ 24 +
    ((List.range 16).filter (fun k => s.rfield (Reg.budLmapCore k) 30 2 = 2)).length * 2 ^ 16 + (s.spares true).length * 2 ^ 8 + (s.spares false).length
  let rows := (recs.filter (fun r => r.kind = 0)).length
  let w := s.lmapWords
  let crc := crc32 (wordBytes w)
  let s := (s.rset Reg.budCap (BitVec.ofNat 32 cap)).rset Reg.budFuse (BitVec.ofNat 32 ((recs.length - rows) * 2 ^ 16 + rows))
  let s := s.rset Reg.budLmapCrc crc
  { s with ltn := { s.ltn with keep := { s.ltn.keep with
      valid := true, lmap := w, crc := crc, ready := decide (s.rfield Reg.budState 30 2 = 2), ffev := s.rbit Reg.budState 16 } } }

/-! ## Row repairs (R464, R481, R482) -/

/-- The unit and the row of an on-chip byte: a physical core, or 32 + a physical slice. -/
def State.unitRow (s : State) (a : Nat) : Option (Nat × Nat) :=
  let r := a / 2 ^ 48
  if 0x100 ≤ r ∧ r < 0x400 then some (s.physCore ((r - 0x100) / 8), (r - 0x100) % 8 * 2 ^ 20 + a % 2 ^ 48 / 64)
  else if 0x400 ≤ r ∧ r < 0x420 then some (32 + s.physSlice (r - 0x400), a % 2 ^ 48 / 64)
  else none

/-- Rows that need repair: with an uncorrectable word, or correctable errors in 3 distinct words within one scrub period. A row
repaired already needs none. -/
def State.wornRows (s : State) : List (Nat × Nat) :=
  let rows := fun (l : List Nat) => l.filterMap (fun w => s.unitRow (w * 8))
  let worn := rows s.mem.worn
  let l := (rows s.mem.bad ++ worn.filter (fun r => 3 ≤ worn.count r)).eraseDups
  l.filter (fun r => !s.fuses.records.any (fun x => x.kind = 0 && x.phys = r.1 && x.logical = r.2))

/-- Spare rows of the row's array that are taken (R464: 4 for each array of 1,024 rows). -/
def State.rowsTaken (s : State) (r : Nat × Nat) : Nat :=
  (s.fuses.records.filter (fun x => x.kind = 0 && x.phys = r.1 && x.logical / 1024 = r.2 / 1024)).length +
  (s.fuses.rows.filter (fun x => x.1 = r.1 && x.2 / 1024 = r.2 / 1024)).length

/-- ROWREP entries in use (R465). -/
def State.rowReps (s : State) : Nat := (s.fuses.records.filter (fun x => x.kind = 0)).length

/-- The rows of a list that find a spare row, each taking one of its array and one ROWREP entry; none is left where all entries are used
(R464, R465, R482). -/
def State.repairable (s : State) (l : List (Nat × Nat)) : List (Nat × Nat) :=
  l.foldl (fun done r =>
    if s.rowsTaken r + (done.filter (fun x => x.1 = r.1 && x.2 / 1024 = r.2 / 1024)).length < 4 ∧ s.rowReps + done.length < 768 then done ++ [r]
    else done) []

/-- Rows that need repair in an array with no spare row left. -/
def State.spentRows (s : State) : List (Nat × Nat) := s.wornRows.filter (fun r => !(s.repairable s.wornRows).contains r)

/-- Each row of a list takes a spare row of its array, if there is one, and a ROWREP record says so. -/
def State.repairList (s : State) (l : List (Nat × Nat)) : State :=
  s.forAll (s.repairable l) (fun s r => s.fieldRecord ⟨0, r.1, r.2, some (s.rowsTaken r)⟩)

/-- At a quiesce Keeper copies each row that needs repair into a spare row of its array (R482). -/
def State.repairRows (s : State) : State :=
  let s := s.repairList s.wornRows
  { s with mem := { s.mem with worn := s.mem.worn.filter (fun w =>
      !(s.fuses.records.any (fun x => x.kind = 0 && s.unitRow (w * 8) = some (x.phys, x.logical)))) } }

/-! ## A quiesce asked for and acknowledged (R44, R477) -/

/-- QUIESCE_REQUEST: every step sequencer withholds START once its binding's current step ends; QUIESCED sets. -/
def State.quiesceAsk (s : State) : State :=
  let s := s.forAll ((s.cmd.bindings.filter (fun p => p.2.valid)).map Prod.fst) (fun s b => s.rsetBit (Reg.cmdStepStatus b) 2 true)
  { s with kpr := { s.kpr with quiesce := { s.kpr.quiesce with wanted := true, acks := [] } } }

/-- The physical cores of bound bindings, with their bindings. -/
def State.boundPhys (s : State) : List (Nat × Nat) :=
  ((List.range s.nCores).filter (fun k => (s.cor k).bound && s.corePresent k && (s.bnd (s.cor k).binding.toNat).valid)).map (fun k =>
    (s.physCore k, (s.cor k).binding.toNat))

/-- QUIESCE_ACK: a physical core of a bound binding acknowledges once its binding's step has ended. -/
def State.quiesceAck (s : State) (p : Nat) : State :=
  let q := s.kpr.quiesce
  if q.wanted && !q.acks.contains p && s.boundPhys.any (fun x => x.1 = p && !(s.bnd x.2).running) then
    { s with kpr := { s.kpr with quiesce := { q with acks := q.acks ++ [p] } } }
  else s

/-- Whether Keeper may make its changes: no step runs, and every core that must has acknowledged or has failed. -/
def State.quiesceReady (s : State) : Bool :=
  let q := s.kpr.quiesce
  q.wanted && s.cmd.bindings.all (fun p => !p.2.running) &&
  s.boundPhys.all (fun x => q.acks.contains x.1 || q.cores.any (fun c => c.1 = x.1))

/-! ## Failures as they happen (R481-R487) -/

/-- A binding that a failure halts (R484-R486): the running STEP or RUN ends with `st` at the end of its step; queued ones and BERTHs
that have not begun complete with `st` and RESULT 0; an open apply window ends with its APPLY (R487). -/
def State.bindingFailed (s : State) (b : Nat) (st : Byte) : State :=
  let x := s.bnd b
  if !x.valid then s
  else
    let q := if x.running then x.queue.drop 1 else x.queue
    let keep := if x.running then (x.queue.take 1).map (fun c => { c with left := some 1, status := worse c.status st }) else []
    let berths := (s.coresOf b).flatMap (fun n => (s.cor n).berthQ)
    let s := s.forAll (s.coresOf b) (fun s n => s.setCor n { s.cor n with berthQ := [] })
    let s := s.setBnd b { x with
      queue := keep, recovering := true, windowOpen := false, applies := if x.windowOpen then [] else x.applies }
    let s := s.forAll q (fun s c => s.complete c.hdr c.cseq c.opcode st c.ran)
    let s := s.forAll berths (fun s q => s.complete q.hdr q.cseq 0x25 st 0)
    let s := if x.windowOpen then s.forAll x.applies (fun s a => s.complete a.2.1 a.2.2 0x24 st 0) else s
    s.haltFor b false

/-- A failure on this device halts a binding on every member device (R484-R486): Keeper tells the other members' Keepers. -/
def State.bindingHalts (s : State) (b : Nat) (st : Byte) : State :=
  let x := s.bnd b
  let others := (List.range 64).filter (fun d => x.mask.getLsbD d && d ≠ s.sys.myDev.toNat)
  let s := s.bindingFailed b st
  if x.valid && others ≠ [] then s.toDevices others 10 3 (.keeper 0xFB (b * 256 + st.toNat)) else s

/-- Keeper of another member device tells of such a failure there. -/
def State.farFailed (s : State) (f : BitVec 6 × Byte) : State := s.bindingFailed f.1.toNat f.2

/-- A core that has failed counts as finished (R484): it does nothing further. -/
def State.coreStopped (s : State) (k : Nat) : State :=
  let c := s.cor k
  let s := s.forAll [Reg.coreSynStatus k, Reg.coreRteStatus k, Reg.coreLrnStatus k] (fun s a => s.rsetBit a 0 false)
  s.setCor k { Core.empty with
    bound := c.bound, binding := c.binding, frozen := c.frozen, phase := .done, berth0 := c.berth0, berth1 := c.berth1, berthQ := c.berthQ }

/-- Failed units of a kind that served a logical number, among those the next quiesce handles. -/
def State.failedInUse (s : State) (slice : Bool) : List Nat :=
  (if slice then s.kpr.quiesce.slices.map (fun x => x.1) else s.kpr.quiesce.cores.map (fun x => x.1)).filter (fun p => s.physState slice p = 1)
/-- The good spares less those that have failed since. -/
def State.sparesLeft (s : State) (slice : Bool) : List Nat :=
  (s.spares slice).filter (fun p => !(if slice then s.kpr.quiesce.slices.map (fun x => x.1) else s.kpr.quiesce.cores.map (fun x => x.1)).contains p)

/-- CORE_FAILURE: a physical core that is in use or a spare fails (R481, R483-R485). -/
def State.coreFailed (s : State) (p cause : Nat) : State :=
  let q := s.kpr.quiesce
  if 18 ≤ p ∨ (s.physState false p ≠ 1 ∧ s.physState false p ≠ 2) ∨ q.cores.any (fun c => c.1 = p) then s
  else
    let s := (s.raise (25 + p)).count Reg.budFfCount 1
    let s := { s with kpr := { s.kpr with quiesce := { q with cores := q.cores ++ [(p, cause)] } } }
    let k := s.physLogical false p
    if s.physState false p = 1 && (s.cor k).bound then
      let st := if (s.failedInUse false).length ≤ (s.sparesLeft false).length then St.internal else St.coreAbsent
      (s.coreStopped k).bindingHalts (s.cor k).binding.toNat st
    else s

/-- QUIESCE_ACK_TIMEOUT: a core that has not acknowledged 100 µs after its binding's step ended has failed (R477). -/
def State.quiesceTimeout (s : State) (p : Nat) : State :=
  let q := s.kpr.quiesce
  if q.wanted && !q.acks.contains p && s.boundPhys.any (fun x => x.1 = p && !(s.bnd x.2).running) then s.coreFailed p 3 else s

/-- The bindings with a bank in a logical slice; with one of the banks of a mask. -/
def State.sliceBindings (s : State) (k : Nat) (mask : BitVec 4) : List Nat :=
  ((s.cmd.banks.filter (fun p => p.1 / 4 = k && mask.getLsbD (p.1 % 4))).filterMap (fun p => p.2.map BitVec.toNat)).eraseDups

/-- SLICE_FAILURE: a physical slice fails; whether its contents can be read, and which banks hold the failed array, come from outside
(R481, R486). The slice is in maintenance mode until it has been recovered, unless a step of one of its bindings runs or is queued (R340). -/
def State.sliceFailed (s : State) (p cause : Nat) (readable : Bool) (banks : BitVec 4) : State :=
  let q := s.kpr.quiesce
  if 34 ≤ p ∨ (s.physState true p ≠ 1 ∧ s.physState true p ≠ 2) ∨ q.slices.any (fun c => c.1 = p) then s
  else
    let s := (s.raise (43 + p)).count Reg.budFfCount 1
    let s := { s with kpr := { s.kpr with quiesce := { q with slices := q.slices ++ [(p, cause, readable, banks)] } } }
    let k := s.physLogical true p
    let busy := (s.sliceBindings k 15).any (fun b => (s.bnd b).running || (s.bnd b).queue ≠ [])
    let s := if s.physState true p = 1 && !busy then s.rsetBit (Reg.slcCfg k) 8 true else s
    if s.physState true p ≠ 1 then s
    else if (s.failedInUse true).length ≤ (s.sparesLeft true).length then
      if readable then s else s.forAll (s.sliceBindings k 15) (fun s b => s.bindingHalts b St.internal)
    else if 28 ≤ k then s.forAll ((s.cmd.bindings.filter (fun x => x.2.valid)).map Prod.fst) (fun s b => s.bindingHalts b St.internal)
    else s.forAll (s.sliceBindings k banks) (fun s b => s.bindingHalts b St.capacityReduced)

/-! ## Restores (R226, R281, R484) -/

/-- The binding's latest snapshot that every member device holds (R281, R484, log entry 29): `far` are those, by binding and AT_STEP, that all
the other members hold. -/
def State.latestSnap (s : State) (far : List (Nat × Nat)) (b : Nat) : Option Snap :=
  (s.kpr.snaps.filter (fun x => x.binding.toNat = b && (s.alone b || far.contains (b, x.step.toNat)))).foldl (fun best x =>
    match best with | some y => if y.step.toNat ≤ x.step.toNat then some x else best | none => some x) none

/-- The binding goes back to a snapshot: contexts, the bytes it covers, rings, staging, instances and rule state. A restored row has no
previous conversion (R147). -/
def State.restoreSnap (s : State) (b : Nat) (x : Snap) : State :=
  let s := s.forAll x.ranges (fun s r => (s.clearRange r.1 r.2).dropConv r.1 r.2)
  let s := s.forAll x.cells (fun s c => s.setByte c.1 c.2)
  let s := s.forAll x.ctxs (fun s p => if (s.ctx p.1).valid && (s.ctx p.1).binding.toNat ≠ b then s else s.setCtx p.1 { p.2 with frozen := s.ctxFrozen p.2 })
  let cs := s.coresOf b
  let s := s.forAll cs (fun s n => s.dropConv (weightKey n 0 0) (256 * 65536 * 64))
  let s := { s with rtr := { s.rtr with
    rings := s.rtr.rings.filter (fun p => !cs.contains (p.1 / 64))
    pages := s.rtr.pages.filter (fun p => !cs.contains (p.1 / 64))
    staging := s.rtr.staging.filter (fun p => !cs.contains p.1)
    draining := s.rtr.draining.filter (fun n => !cs.contains n)
    owed := s.rtr.owed.filter (fun p => !cs.contains p.1)
    ingress := s.rtr.ingress.filter (fun p => !(s.localOf p.2.1.dstCore).any cs.contains) } }
  let s := s.forAll x.rings (fun s p => if cs.contains (p.1 / 64) then s.putRing (p.1 / 64) (p.1 % 64) p.2 else s)
  let mine := fun (h : Nat) => (s.chan h).bound && (s.chan h).binding.toNat = b
  let s := { s with cnv := { s.cnv with insts := s.cnv.insts.filter (fun p => !mine (p.1 / 2 ^ 18)), taps := s.cnv.taps.filter (fun t => !mine t.channel.toNat) } }
  let s := s.forAll x.insts (fun s p => s.setInst (p.1 / 2 ^ 18) (p.1 % 2 ^ 18) { p.2 with scales := none })
  let s := s.forAll x.regs (fun s r => s.rset r.1 r.2)
  let s := s.forAll x.reds (fun s p => s.setRed (p.1 / 256) (p.1 % 256) p.2)
  let s := s.forAll cs (fun s n => let c := s.cor n
    s.setCor n { Core.empty with
      bound := c.bound, binding := c.binding, frozen := c.frozen, berth0 := c.berth0, berth1 := c.berth1, berthQ := c.berthQ })
  s.setBnd b { s.bnd b with step := x.step, windowOpen := false }

/-- The field-failure record (R492). -/
def State.ffRecord (s : State) (far : List (Nat × Nat)) (kind b outcome phys spare logical : Nat) : State :=
  let t := (s.bnd b).step.toNat - 1
  let snap := s.latestSnap far b
  let gap := match snap with | some x => t + 1 - x.step.toNat | none => 0xFFFFFFFF
  let s := s.rset Reg.budFfInfo
    (BitVec.ofNat 32 (kind * 2 ^ 30 + b % 64 * 2 ^ 24 + outcome * 2 ^ 21 + phys % 64 * 2 ^ 12 + spare % 64 * 2 ^ 6 + logical % 64))
  let s := (s.longSet Reg.budFfStepLo t).longSet Reg.budFfSnapLo ((snap.map (fun x => x.step.toNat)).getD 0)
  s.rset Reg.budFfGap (BitVec.ofNat 32 gap)

/-- A spare is reloaded from its load shadow (R484). -/
def State.reloadShadow (s : State) (k : Nat) : State :=
  s.forAll (s.mem.shadow.filter (fun c => Mem.store k 0 ≤ c.1 && c.1 < Mem.store (k + 1) 0)) (fun s c => s.setByte c.1 c.2)

/-- The entry of a system logical number is marked ABSENT (R22). -/
def State.markAbsent (s : State) (n : Nat) : State :=
  { s with sys := { s.sys with coreMap := Tab.set (fun _ => SysCore.empty) s.sys.coreMap n { s.sysCore n with present := false } } }

/-- Points a failed core's logical number at the lowest spare, or makes it ABSENT (R483-R485). -/
def State.serveCore (s : State) (far : List (Nat × Nat)) (p cause k : Nat) : State :=
  let b := (s.cor k).binding.toNat
  let bound := (s.cor k).bound
  match (s.spares false).head? with
  | some q =>
    let s := (s.fieldRecord ⟨1, p, k, some q⟩).setPhys false p 4 cause k
    let s := ((s.setPhys false q 1 0 k).setLmap false k 1 q).clearStores k
    if bound then
      let c := s.cor k
      (((s.reloadShadow k).setCor k { Core.empty with bound := true, binding := c.binding, frozen := c.frozen }).ffRecord far 1 b 1 p q k)
    else s
  | none =>
    let s := (s.fieldRecord ⟨1, p, k, none⟩).setPhys false p 4 cause k
    let s := (s.fieldRecord ⟨2, p, k, none⟩).setLmap false k 2 0
    let n := s.sysOf k
    let s := (s.markAbsent n).send (.keeper 0xFD n)
    if bound then ((s.ffRecord far 1 b 2 p 0 k).withdrawCore k).setCor k Core.empty else s

/-- Remaps a failed slice, or takes its banks out of service (R486). -/
def State.serveSlice (s : State) (far : List (Nat × Nat)) (p cause : Nat) (readable : Bool) (banks : BitVec 4) (k : Nat) : State :=
  let bs := s.sliceBindings k (if readable then banks else 15)
  match (s.spares true).head? with
  | some q =>
    let s := (s.fieldRecord ⟨3, p, k, some q⟩).setPhys true p 4 cause k
    let s := (s.setPhys true q 1 0 k).setLmap true k 1 q
    if readable then s.ffRecord far 2 0 4 p q k
    else (s.clearRange (Mem.slice k) 0x800000).ffRecord far 2 (bs.headD 0) 1 p q k
  | none =>
    let s := s.setPhys true p 1 cause k
    if 28 ≤ k then ((s.rsetField Reg.budState 30 2 3).rsetField Reg.budState 22 3 4).ffRecord far 2 (bs.headD 0) 3 p 0 k
    else
      (s.forAll ((List.range 4).filter (fun i => banks.getLsbD i)) (fun s i => s.fieldRecord ⟨4, p, 4 * k + i, none⟩)).ffRecord
        far 2 (bs.headD 0) 3 p 0 k

/-! ## Links at a quiesce (R472) -/

/-- A link goes out of use in STATE `st`: its packets take other paths, and circuits that cross it are torn down (R387; log entry 71). -/
def State.linkOut (s : State) (l st : Nat) : State :=
  ((((s.rsetField (Reg.fabLnkStat l) 29 3 st).rsetField (Reg.fabLnkStat l) 26 2 0).emptyLink l)).cutCircs
    [(s.sys.myDev.toNat, l), (s.rfield (Reg.fabLnkStat l) 16 6, s.rfield (Reg.fabLnkStat l) 8 5)]

/-- DISABLE takes effect, a link that has passed enters use, and Keeper asks for the retraining of every other link that is DOWN or
FAILED, but for one that the topology check holds down (R473). -/
def State.linkQuiesce (s : State) (l : Nat) : State :=
  let st := s.linkState l
  let topo := s.rfield (Reg.budLnkTopo l) 27 3
  if s.rbit (Reg.fabLnkCtrl l) 0 then
    if st = 0 ∨ st = 5 then s
    else s.linkOut l 0
  else if st = 1 ∧ (s.link l).passed ≠ 0 then
    let w := (s.link l).passed.toNat
    ((s.rsetField (Reg.fabLnkStat l) 29 3 (if w = 3 then 2 else 3)).rsetField (Reg.fabLnkStat l) 26 2 w).emptyLink l
  else if (st = 0 ∨ st = 4) ∧ topo ≠ 3 ∧ topo ≠ 4 then s.rsetField (Reg.fabLnkStat l) 29 3 1
  else s

/-- Links to a device that has announced its retirement are RETIRED (R383). -/
def State.linkRetire (s : State) (dev : Nat) : State :=
  let l := (List.range 18).filter (fun l => (s.linkUp l || s.linkState l = 1) && s.rfield (Reg.fabLnkStat l) 16 6 = dev)
  (State.forAll { s with sys := { s.sys with retired := if s.sys.retired.contains dev then s.sys.retired else s.sys.retired ++ [dev] } } l
    (fun s l => s.linkOut l 5))

/-- A unit with an array that needs a row repair and has no spare row left has failed (R481, cause 2). -/
def State.failSpent (s : State) : State :=
  s.forAll s.spentRows (fun s r =>
    if r.1 < 32 then s.coreFailed r.1 2
    else
      let k := s.physLogical true (r.1 - 32)
      s.sliceFailed (r.1 - 32) 2 true (BitVec.ofNat 4 (2 ^ s.bankOf k (r.2 * 64))))

/-! ## The changes of a quiesce, and its release -/

/-- Logical numbers with their failed units, in the order spares are given out (R486, R487). -/
def insertBy (x : Nat × Nat) : List (Nat × Nat) → List (Nat × Nat)
  | [] => [x]
  | y :: r => if x.1 ≤ y.1 then x :: y :: r else y :: insertBy x r

/-- What the other Keepers have told of their links and circuits takes effect: links that carry no packet, the costs of the others (R376),
and the slots of circuits that are free again (R385; log entry 68). -/
def State.takeNews (s : State) (widths : List (Nat × Nat × Nat)) (freed : List Nat) : State :=
  let down := (widths.filter (fun x => x.2.2 = 0)).map (fun x => (x.1, x.2.1))
  let cost := fun (e : Nat × Nat × Nat × Nat) => match widths.find? (fun x => x.1 = e.1 && x.2.1 = e.2.1 && x.2.2 ≠ 0) with
    | some x => (e.1, e.2.1, e.2.2.1, widthCost x.2.2)
    | none => e
  { s with
    sys := { s.sys with down := down, edges := s.sys.edges.map cost }
    fab := { s.fab with far := s.fab.far.filter (fun x => !freed.contains x.1) } }

/-- Devices that have announced their retirement: their links are RETIRED and paths avoid them (R383), at a quiesce, or at once where no binding
runs. -/
def State.retireOthers (s : State) (l : List Nat) : State := if l = [] then s else (s.forAll l State.linkRetire).setPaths

/-- QUIESCE_RELEASE: Keeper excludes what has failed, repairs rows, writes LMAP, link, path and circuit changes, restores bindings and
releases (R44, R472, R477, R482-R487). `gone` are numbers that other devices have made ABSENT (R22), `retired` devices that retire (R383),
`asks` circuits of other devices, `no` rejections of this device's (R385), `snaps` snapshots that all
other members of their binding hold (R484). -/
def State.quiesceRelease (s : State) (gone retired : List Nat) (widths : List (Nat × Nat × Nat)) (asks : List (Nat × FarCirc))
    (no : List (Nat × Nat)) (freed : List Nat) (snaps : List (Nat × Nat)) : State :=
  if !s.quiesceReady then
    (if !s.kpr.quiesce.wanted && s.cmd.bindings.all (fun p => !p.2.running) then s.retireOthers retired else s)
  else
    let s := s.failSpent
    let q := s.kpr.quiesce
    let cores := ((s.failedInUse false).map (fun p => (s.physLogical false p, p))).foldr insertBy []
    let key := fun (k : Nat) => if 28 ≤ k then k else k + 64
    let slices := ((s.failedInUse true).map (fun p => (key (s.physLogical true p), p))).foldr insertBy []
    let s := s.forAll (q.cores.filter (fun c => s.physState false c.1 = 2)) (fun s c => (s.fieldRecord ⟨1, c.1, 0, none⟩).setPhys false c.1 4 c.2 0)
    let s := s.forAll (q.slices.filter (fun c => s.physState true c.1 = 2)) (fun s c => (s.fieldRecord ⟨3, c.1, 0, none⟩).setPhys true c.1 4 c.2.1 0)
    let absent := (cores.drop (s.spares false).length).map (fun x => (s.cor x.1).binding.toNat)
    let oos := slices.drop (s.spares true).length
    let stay := absent ++ oos.flatMap (fun x => s.sliceBindings (x.1 % 64) 15)
    let s := s.forAll cores (fun s x => s.serveCore snaps x.2 (((q.cores.find? (fun c => c.1 = x.2)).map Prod.snd).getD 0) x.1)
    let s := s.forAll slices (fun s x =>
      match q.slices.find? (fun c => c.1 = x.2) with
      | some c => (s.serveSlice snaps x.2 c.2.1 c.2.2.1 c.2.2.2 (x.1 % 64)).rsetBit (Reg.slcCfg (x.1 % 64)) 8 false
      | none => s)
    let s := s.forAll (gone.filter (fun n => n ∈ s.sys.coreMap.map Prod.fst)) State.markAbsent
    let s := s.repairRows
    let s := s.forAll ((s.cmd.bindings.filter (fun p => p.2.recovering)).map Prod.fst) (fun s b =>
      let s := match s.latestSnap snaps b with
        | some x => if stay.contains b then s else s.restoreSnap b x
        | none => s
      s.setBnd b { s.bnd b with recovering := false })
    let s := (s.forAll (List.range 18) State.linkQuiesce).forAll retired State.linkRetire
    let s := (s.takeNews widths freed).setPaths
    let s := (s.forAll (List.range 256) (fun s c => s.admitCirc no c)).forAll asks State.admitFar
    let s := { s with kpr := { s.kpr with quiesce := ⟨false, [], [], []⟩ } }
    s.lmapLoaded

/-- LINK_DISABLE: a write to DISABLE; clearing it makes Keeper hold a quiesce that retrains the link (R472). -/
def State.linkDisable (s : State) (l : Nat) (d : Bool) : State × Byte :=
  if 18 ≤ l then (s, St.badOperand)
  else
    let was := s.rbit (Reg.fabLnkCtrl l) 0
    let s := s.rsetBit (Reg.fabLnkCtrl l) 0 d
    (if was && !d then s.quiesceAsk else s, St.ok)

/-- The lanes of the widest link that a set of lanes allows (R471): x4, x2 on lanes 0 and 1 or else 2 and 3, x1 on the lowest. -/
def widest (ok : List Nat) : List Nat :=
  if [0, 1, 2, 3].all ok.contains then [0, 1, 2, 3] else if [0, 1].all ok.contains then [0, 1]
  else if [2, 3].all ok.contains then [2, 3] else ([0, 1, 2, 3].filter ok.contains).take 1

/-- Whether a lane passes a soak: at most 11,200 bit errors, and no uncorrectable codeword on the link (R470; log entry 29). -/
def lanePasses (k : Bool × List Nat) (i : Nat) : Bool := !k.1 && decide (k.2.getD i 0 ≤ 11200)

/-- The width of the first soak that every lane in use passes, as WIDTH of FAB_LNK_STAT spells it; after one that lanes fail the two ends train
again without them (R471). 0: no width passes. -/
def soakWidth : List Nat → List (Bool × List Nat) → Nat
  | _, [] => 0
  | ok, k :: r =>
    let w := widest ok
    if w = [] then 0
    else if w.all (lanePasses k) then (if w.length = 4 then 3 else w.length)
    else soakWidth (ok.filter (fun i => !w.contains i || lanePasses k i)) r

/-- The width a link has trained at (R364, R470-R472): lanes that the fuses of an end mark bad are not tried. -/
def State.trainedWidth (s : State) (l : Nat) (r : LinkResult) : Nat :=
  let bad := Tab.get (fun _ => 0) s.fuses.badLanes l
  if !r.version then 0
  else soakWidth ([0, 1, 2, 3].filter (fun i => decide (bad / 2 ^ i % 2 = 0) && !r.farBad.getLsbD i)) r.soaks

/-- LINK_TRAINING: a link in TRAINING passes at a width, to enter use at the next quiesce, or is DOWN (R470-R472). -/
def State.linkTraining (s : State) (l : Nat) (r : LinkResult) : State :=
  if s.linkState l ≠ 1 then s
  else
    let w := s.trainedWidth l r
    if w = 0 then s.rsetField (Reg.fabLnkStat l) 29 3 0
    else
      let s := (s.rsetField (Reg.fabLnkStat l) 16 6 r.peerDev.toNat).rsetField (Reg.fabLnkStat l) 8 5 r.peerLink.toNat
      s.setLink l { s.link l with passed := BitVec.ofNat 2 w }

def execQuiesceRequest (s : State) : Result := live s fun s => s.quiesceAsk
def execQuiesceAck (phys : BitVec 5) (s : State) : Result := live s fun s => s.quiesceAck phys.toNat
def execQuiesceRelease (w : QuiesceNews) (s : State) : Result :=
  live s fun s => s.quiesceRelease (w.gone.map BitVec.toNat) (w.retired.map BitVec.toNat) (w.widths.map (fun x => (x.1.toNat, x.2.1.toNat, x.2.2.toNat)))
    (w.asks.map (fun x => (x.1.toNat * 256 + x.2.1.toNat, x.2.2))) (w.rejects.map (fun x => (x.1.toNat, x.2.toNat)))
    (w.freed.map (fun x => x.1.toNat * 256 + x.2.toNat)) (w.snaps.map (fun x => (x.1.toNat, x.2.toNat)))
def execQuiesceAckTimeout (phys : BitVec 5) (s : State) : Result := live s fun s => s.quiesceTimeout phys.toNat
def execCoreFailure (phys : BitVec 5) (cause : BitVec 3) (far : Option (BitVec 6 × Byte)) (s : State) : Result := live s fun s =>
  match far with | some f => s.farFailed f | none => s.coreFailed phys.toNat cause.toNat
def execSliceFailure (phys : BitVec 6) (cause : BitVec 3) (readable : Bool) (banks : BitVec 4) (far : Option (BitVec 6 × Byte)) (s : State) : Result :=
  live s fun s => match far with | some f => s.farFailed f | none => s.sliceFailed phys.toNat cause.toNat readable banks
def execLinkDisable (l : BitVec 5) (disable : Bool) (s : State) : Result :=
  live s fun s => replied (Reg.fabLnkCtrl l.toNat) (s.linkDisable l.toNat disable)
def execLinkTraining (l : BitVec 5) (r : LinkResult) (s : State) : Result := live s fun s => s.linkTraining l.toNat r

end Sys2Proof.Machine
end

