-- ==== Sys2Proof/Machine/Governor.lean ====
section
/-! DEFINITION. Machine/Governor.lean: the power governor (R423-R444). Classes: 0 LINK, 1 HBM, 2 COMPUTE, 3 BASE. -/

namespace Sys2Proof.Machine

/-! ## Estimates (R424, R427, R428) -/

/-- The rails a class is split across (R428). -/
def classRails (c : Nat) : List Nat := [[3, 4], [5, 6], [0], [2, 1, 7]].getD c []

/-- A flag of PGV_STATUS sets, and raises its source (R444). -/
def State.pgvFlag (s : State) (bit source : Nat) : State :=
  if s.rbit Reg.pgvStatus bit then s else (s.rsetBit Reg.pgvStatus bit true).raise source

/-- PGV_CTRL, PGV_CAP and PGV_TLIM as written come into force, at the next window (R442). -/
def State.pgvTake (s : State) : State :=
  { s with gov := { s.gov with ctrl := s.rget Reg.pgvCtrl, cap := s.rget Reg.pgvCap, tlim := s.rget Reg.pgvTlim } }
/-- A field of PGV_CTRL, of PGV_TLIM, and CAP in force. -/
def State.pgvField (s : State) (lo w : Nat) : Nat := fieldOf s.gov.ctrl lo w
def State.tlimField (s : State) (lo : Nat) : Nat := fieldOf s.gov.tlim lo 8
def State.capSet (s : State) : Nat := fieldOf s.gov.cap 0 9

/-- Whether the governor is in governed mode (R427). -/
def State.governed (s : State) : Bool := bitOf s.gov.ctrl 31
/-- The rail's gain in 2^-14: fixed at 1.0 in governed mode (R427). -/
def State.gain (s : State) (r : Nat) : Nat := if s.governed then 0x4000 else s.rfield (Reg.pgvGain r) 0 16
/-- The hottest die sensor, in half degrees. -/
def State.hottest (s : State) : Nat := s.gov.temps.foldl (fun m t => max m t.toNat) 0
/-- The energy of one event of an activity kind on a rail, in 2^-32 of 1/16 W per window (R424): an entry of the coefficient table,
whose layout the spec leaves to Keeper (log entry 30). -/
def coefOf (r k : Nat) : Nat := Config.coef (r * 64 + k)
/-- WAITP (R425): the coefficient of a core whose adder, neuron engine and route unit all issue in an ACLK. -/
def waitP (r : Nat) : Nat := coefOf r 0 + coefOf r 2 + coefOf r 3
/-- The energy of an event of kind `k` of class `c`: the ninth kind of COMPUTE is the waiting-unit ACLK (R424, R425). -/
def kindCoef (c r k : Nat) : Nat := if c = 2 ∧ k = 8 then waitP r else coefOf r k
/-- The static power of a rail in 2^-32 of 1/16 W (R427): by the part's leakage code and the hottest sensor in adaptive mode, by the
grade and TBAND in governed mode. -/
def State.railStatic (s : State) (r : Nat) : Nat :=
  if s.governed then Config.coef (0x1000 + (s.fuses.grade.toNat * 8 + r) * 4 + s.pgvField 24 2)
  else Config.coef (0x100000 + (s.fuses.leakage * 8 + r) * 256 + s.hottest)
/-- The part of an estimate on a rail, in 2^-46 of 1/16 W: static power, and the activity counted, scaled by the rail's gain. -/
def State.railPart (s : State) (counts : List Nat) (c r : Nat) : Nat :=
  s.railStatic r * 0x4000 + (counts.zipIdx.map (fun p => kindCoef c r p.2 * p.1)).sum * s.gain r
/-- S of a class in 1/16 W. -/
def State.classStatic (s : State) (c : Nat) : Nat := (rneShift ((classRails c).map (fun r => s.railStatic r)).sum 32).toNat
/-- E of a class in 1/16 W: rounded once, to nearest with ties to even. -/
def State.classEst (s : State) (counts : List Nat) (c : Nat) : Nat :=
  (rneShift ((classRails c).map (fun r => s.railPart counts c r)).sum 46).toNat

/-! ## Waiting units (R317) -/

/-- Whether a stream waits (R317): in state WAIT_COND or WAIT_CREDIT. -/
def State.streamWaits (s : State) (n : Nat) : Bool := (s.strm n).bound && (s.streamState n = 3 || s.streamState n = 5)
/-- Whether a core waits (R317): bound, between its DONE and the next START, while its binding has a step running or queued. -/
def State.coreWaits (s : State) (n : Nat) : Bool :=
  let c := s.cor n
  let x := s.bnd c.binding.toNat
  c.bound && (c.phase = .idle || c.phase = .done) && (x.running || x.queue ≠ [])
/-- The wait a stream is in: the CSEQ of the command that waits. -/
def State.streamWait (s : State) (n : Nat) : Nat :=
  let x := s.strm n
  match x.outst.find? (fun o => o.opcode = 0x41 || o.opcode = 0x44 || o.opcode = 0x51) with
  | some o => o.cseq.toNat
  | none => (x.held.head?.map (fun c => c.1.toNat)).getD 0
/-- The units that wait, each with the wait it is in: stream n as n, core n as 256 + n with its binding's step. -/
def State.waiting (s : State) : List (Nat × Nat) :=
  ((List.range 256).filter s.streamWaits).map (fun n => (n, s.streamWait n)) ++
  ((List.range s.nCores).filter s.coreWaits).map (fun n => (256 + n, (s.bnd (s.cor n).binding.toNat).step.toNat))
/-- The waiting-unit ACLK of a window that closes (R424, R425): a unit in one and the same wait at the last close and at this one has waited
through all its 750 ACLK; one that has begun or ended a wait since, a free value of at most 750 (log entry 30). -/
def State.countWaits (s : State) (given : Nat) : Nat × State :=
  let now := s.waiting
  let whole := now.filter (fun u => s.gov.waited.contains u)
  let part := (now ++ s.gov.waited).filter (fun u => !whole.contains u)
  let (w, s) := s.draw
  (given + 750 * whole.length + w.toNat % (750 * part.length + 1), { s with gov := { s.gov with waited := now } })

/-! ## Ballast bubbles (R433, R436) -/

/-- Whether ACLK `k` is a bubble under level `b` (R433). -/
def isBubble (b k : Nat) : Bool := decide (k % 64 * b / 64 < (k % 64 + 1) * b / 64)
/-- The COMPUTE level of a core at ACLK `k`: the level in force or the ramp of its step (R436). -/
def State.coreLevel (s : State) (n k : Nat) : Nat := max (s.rfield Reg.pgvLevel 8 6) ((s.bnd (s.cor n).binding.toNat).rampAt k)
/-- The cores that work, with the step each is in: those between START and their DONE (R317). -/
def State.working (s : State) : List (Nat × Nat) :=
  ((List.range s.nCores).filter (fun n => (s.cor n).bound && (s.cor n).phase ≠ .idle && (s.cor n).phase ≠ .done)).map (fun n =>
    (n, (s.bnd (s.cor n).binding.toNat).step.toNat))
/-- The bubble ACLK of a window that closes: those of a core that was in the same step at the last close and at this one, under a level that
has stood, by R433; those of another, a free value of at most 750 (log entry 30). -/
def State.bubbles (s : State) : Nat × State :=
  let now := s.working
  let whole := if s.gov.steady then now.filter (fun u => s.gov.worked.contains u) else []
  let part := (now ++ s.gov.worked).filter (fun u => !whole.contains u)
  let first := aclkOf (s.tmr.tb.toNat - 1000)
  let sure := (whole.map (fun u => (List.range 750).countP (fun i => isBubble (s.coreLevel u.1 (first + i)) (first + i)))).sum
  let (w, s) := s.draw
  (sure + w.toNat % (750 * part.length + 1), { s with gov := { s.gov with worked := now, steady := true } })

/-! ## Activity (R424) -/

/-- The kinds of activity of a class that the operations of this model count one by one. How many slots, flits, accesses, activations and
refreshes the others take in a window no rule says for every operation: the window brings those that are not counted here (log entry 30). -/
def exactKinds (c : Nat) : List Nat := if c = 0 then [0] else if c = 1 then [0, 1] else if c = 2 then [0, 1, 2, 3, 4, 6, 7] else []
/-- The trained lanes of the links. -/
def State.lanesUp (s : State) : Nat := (((List.range 18).filter s.linkUp).map (fun l => 16 / widthCost (s.rfield (Reg.fabLnkStat l) 26 2))).sum
/-- A of a class for the window that closes: what its units have counted, and of the kinds they do not count event by event what `given` adds. -/
def State.activity (s : State) (given : List Nat) (c : Nat) : List Nat :=
  (List.range 8).map (fun k =>
    if c = 0 ∧ k = 0 then s.lanesUp
    else Tab.get (fun _ => 0) s.gov.acts (c * 16 + k) + (if k ∈ exactKinds c then 0 else given.getD k 0))

/-! ## Hints (R435) -/

/-- The class a hint's kind selects. -/
def hintClass (kind : Nat) : Nat := if kind = 3 then 1 else if kind = 4 then 0 else 2

/-- Whether a hint covers the step that runs, whose window that closes at the timebase is one of the first four. -/
def State.hintHolds (s : State) (h : Hint) : Bool :=
  let x := s.bnd h.binding.toNat
  x.valid && x.running && h.first ≤ x.step.toNat && decide (x.step.toNat < h.first + h.dur.toNat) &&
  decide (s.tmr.tb.toNat ≤ x.startedAt.toNat + 4000)

/-- R_hint: what the hints in force reserve, in 1/16 W. -/
def State.hintReserve (s : State) (est : List Nat) : Nat :=
  ((s.gov.hints.filter s.hintHolds).map (fun h =>
    let c := hintClass h.kind.toNat
    s.classStatic c + 16 * h.watts.toNat - est.getD c 0)).sum

/-! ## Levels (R431, R432) -/

/-- LMAX of a class. -/
def lmax (c : Nat) : Nat := [32, 48, 56].getD c 0
/-- The level of a class in force: a field of PGV_LEVEL. -/
def levelLo (c : Nat) : Nat := [24, 16, 8].getD c 0
def State.level (s : State) (c : Nat) : Nat := s.rfield Reg.pgvLevel (levelLo c) 6

/-- The next level of a class, and the excess it leaves: what it can reach is E − S − N. -/
def State.share (s : State) (est unreach : List Nat) (c : Nat) (x : ℚ) : Nat × ℚ :=
  let l := s.level c
  let reach : ℚ := ((est.getD c 0 - s.classStatic c - unreach.getD c 0 : Nat) : ℚ)
  let d : ℚ := reach * 64 / (64 - l : Nat)
  let take : ℚ := min (max x 0) (d * lmax c / 64)
  let need : Nat := if take ≤ 0 then 0 else (Rat.ceil (64 * take / d)).toNat
  let n := min (lmax c) need
  (if n < l then max n (l - 8) else n, max x 0 - take)

/-- The cap in force, in 1/16 W (R430). -/
def State.capInForce (s : State) : Nat := 16 * min s.capSet (s.rfield Reg.pgvTcap 0 9)

/-- The next levels of the classes P2, P1, P0 in that order, and the excess that is left (R431). -/
def State.levelsFor (s : State) (est unreach : List Nat) (x : ℚ) : List Nat × ℚ :=
  let p2 := s.share est unreach (s.pgvField 4 2) x
  let p1 := s.share est unreach (s.pgvField 2 2) p2.2
  let p0 := s.share est unreach (s.pgvField 0 2) p1.2
  ((List.range 3).map (fun c => if s.pgvField 4 2 = c then p2.1 else if s.pgvField 2 2 = c then p1.1 else p0.1), p0.2)

/-- N of COMPUTE holds the waiting units' part (R425, R431), in 1/16 W. -/
def State.waitPart (s : State) (n : Nat) : Nat := (rneShift ((classRails 2).map (fun r => waitP r * n * s.gain r)).sum 46).toNat

/-- The start levels of a hint that covers the next step of its binding (R435): by binding and step. -/
def State.startLevels (s : State) (est unreach : List Nat) : List (Nat × Nat × List Nat) :=
  s.gov.hints.filterMap (fun h =>
    let x := s.bnd h.binding.toNat
    let n := x.step.toNat + 1
    if x.valid && x.running && h.first ≤ n && decide (n < h.first + h.dur.toNat) then
      let c := hintClass h.kind.toNat
      let e := (List.range 4).map (fun i => if i = c then max (est.getD i 0) (s.classStatic i + 16 * h.watts.toNat) else est.getD i 0)
      some (h.binding.toNat, n, (s.levelsFor e unreach ((e.sum : ℚ) - s.capInForce)).1)
    else none)

/-- Whether the step of start levels has started. -/
def State.stepBegan (s : State) (e : Nat × Nat × List Nat) : Bool := (s.bnd e.1).running && decide (e.2.1 ≤ (s.bnd e.1).step.toNat)

/-- GOVERNOR_WINDOW: a window closes at the next timebase multiple of 1,000 ns: what the counts of the four classes by activity kind have
beside those of the units themselves, and N of each class in 1/16 W but for COMPUTE's waiting units (R424-R432). Start levels take effect with
the first levels after their step's START (R435, log entry 30). -/
def State.window' (s : State) (given : List (List Nat)) (unreach : List Nat) : State :=
  let s := (s.setTb (slotAfter s.tmr.tb.toNat 0 1000)).pgvTake
  let (waited, s) := s.countWaits ((given.getD 2 []).getD 8 0)
  let counts := (List.range 4).map (fun c => s.activity (given.getD c []) c ++ (if c = 2 then [waited] else []))
  let s := { s with gov := { s.gov with acts := [] } }
  let est : List Nat := (List.range 4).map (fun c => s.classEst (counts.getD c []) c)
  let total := est.sum
  let s := s.forAll (List.range 4) (fun s c =>
    s.rset (Reg.pgvEst c) (BitVec.ofNat 32 (min (s.classStatic c) 65535 * 2 ^ 16 + min (est.getD c 0) 65535)))
  let s := s.rset Reg.pgvEstTotal (BitVec.ofNat 32 (min total 65535))
  let x : ℚ := (total : ℚ) + s.hintReserve est - s.capInForce
  let unreach := (List.range 3).map (fun c => unreach.getD c 0 + if c = 2 then s.waitPart waited else 0)
  let now := s.levelsFor est unreach x
  let begun := s.gov.starts.filter s.stepBegan
  let next := (List.range 3).map (fun c => begun.foldl (fun m e => max m (e.2.2.getD c 0)) (now.1.getD c 0))
  let parts := (List.range 8).map (fun r =>
    let c := if r = 0 then 2 else if r = 3 ∨ r = 4 then 0 else if r = 5 ∨ r = 6 then 1 else 3
    s.railPart (counts.getD c []) c r / 2 ^ 14)
  let s := { s with gov := { s.gov with
    next := next, windows := s.gov.windows + 1
    starts := s.startLevels est unreach ++ s.gov.starts.filter (fun (e : Nat × Nat × List Nat) => (s.bnd e.1).valid && !(s.bnd e.1).running)
    estSum := (List.range 8).map (fun r => s.gov.estSum.getD r 0 + parts.getD r 0) } }
  let s := if (0 : ℚ) < now.2 then (s.count Reg.pgvCapfailCnt 1).pgvFlag 0 141 else s
  let (n, s) := s.bubbles
  let (s, wrapped) := s.longWrap Reg.pgvBubLo n
  if wrapped then s.pgvFlag 9 149 else s

/-- LEVEL_APPLY: the computed levels are in force (R426, R433, R434). -/
def State.levelApply (s : State) : State :=
  let s := if s.rfield Reg.pgvLevel 8 6 = s.gov.next.getD 2 0 then s else { s with gov := { s.gov with steady := false } }
  s.forAll (List.range 3) (fun s c => s.rsetField Reg.pgvLevel (levelLo c) 6 (s.gov.next.getD c 0))

/-! ## Telemetry (R428, R440) -/

/-- A rational that a register holds in whole units: where it is no whole number, the spec does not say which way it goes, and the
free value decides (log entry 30). -/
def State.roundFree (s : State) (x : ℚ) : Nat × State :=
  if x = (Rat.floor x : ℚ) then ((Rat.floor x).toNat, s)
  else let (w, s) := s.draw; ((Rat.floor x).toNat + w.toNat % 2, s)

/-- One rail's reading, in mV and mA; 100 failures in a row freeze its gain. -/
def State.railRead (s : State) (r : Nat) (v a : Option Nat) : State :=
  let g := s.gov
  let upd := fun (l : List Nat) (x : Nat) => (List.range 8).map (fun i => if i = r then x else l.getD i 0)
  match v, a with
  | some v, some a =>
    { s with gov := { g with
      measSum := upd g.measSum (g.measSum.getD r 0 + v * a), good := upd g.good (g.good.getD r 0 + 1), fails := upd g.fails 0
      boardSum := g.boardSum + v * a } }
  | _, _ =>
    let n := g.fails.getD r 0 + 1
    let s := { s with gov := { g with fails := upd g.fails n } }
    if n = 100 then
      ({ s with gov := { s.gov with
        frozen := (List.range 8).map (fun i => if i = r then true else g.frozen.getD i false) } }).pgvFlag 3 144
    else s

/-- PMBUS_READ: the voltage and current of every rail, once per millisecond. -/
def State.pmbusRead (s : State) (volts amps : List (Option Nat)) : State :=
  let before := s.gov.boardSum
  let s := s.forAll (List.range 8) (fun s r => s.railRead r (volts.getD r none) (amps.getD r none))
  let s := { s with gov := { s.gov with boardN := s.gov.boardN + 1 } }
  let (n, s) := s.roundFree (((s.gov.boardSum - before : Nat) : ℚ) * 16 / 1000000)
  s.rset Reg.pgvMeas (BitVec.ofNat 32 (min n 65535))

/-- The gain of a rail moves an eighth of the way to the ratio of measured to estimated power, within [0.80, 1.25]. -/
def State.railGain (s : State) (r : Nat) : State :=
  let g := s.gov
  let m := g.measSum.getD r 0
  let n := g.good.getD r 0
  let e := g.estSum.getD r 0
  if g.frozen.getD r false ∨ n = 0 ∨ e = 0 then s
  else
    let ratio : ℚ := (m : ℚ) * g.windows * 2 ^ 36 / (n * 1000000 * e)
    let old : ℚ := (s.rfield (Reg.pgvGain r) 0 16 : ℚ) / 2 ^ 14
    let new := max (4 / 5) (min (5 / 4) (old + (ratio - old) / 8))
    let (k, s) := s.roundFree (new * 2 ^ 14)
    s.rset (Reg.pgvGain r) (BitVec.ofNat 32 (max 13107 (min 20480 k)))

/-- GAIN_UPDATE: every 100 ms, in adaptive mode. -/
def State.gainUpdate (s : State) : State :=
  let t := if s.governed then s else s.forAll (List.range 8) State.railGain
  { t with gov := { t.gov with measSum := [], good := [], estSum := [], windows := 0 } }

/-- PMB_ALERT: STATUS_WORD of every VRM is latched. -/
def State.pmbAlert (s : State) (words : List (BitVec 16)) : State :=
  (s.forAll (List.range 8) (fun s r => s.rset (Reg.pgvVrm r) (BitVec.ofNat 32 (words.getD r 0).toNat))).pgvFlag 6 146

/-- OVERCAP_CHECK: board power averaged over 1 s against CAP (R440). -/
def State.overcapCheck (s : State) : State :=
  let high := decide (s.capSet * 103 * 1000000 * s.gov.boardN < s.gov.boardSum * 100)
  let s := { s with gov := { s.gov with boardSum := 0, boardN := 0 } }
  if high then s.pgvFlag 2 143 else s

/-! ## Temperatures (R429, R437, R438) -/

/-- The bounds of TBAND in °C. -/
def bandLo (t : Nat) : Nat := [0, 55, 70, 85].getD t 0
def bandHi (t : Nat) : Nat := [55, 70, 85, 100].getD t 0

/-- SENSOR_SAMPLE: the 24 die sensors in half degrees, and what the stacks report in °C. -/
def State.sensorSample (s : State) (temps hbms : List (BitVec 8)) : State :=
  let s := { s with gov := { s.gov with temps := temps, stackT := hbms } }
  let h := s.hottest
  let b := s.pgvField 24 2
  let outside := decide (h < 2 * bandLo b) || decide (2 * bandHi b < h)
  let s := { s with gov := { s.gov with outBand := if outside then s.gov.outBand + 1 else 0 } }
  let (die, s) := s.roundFree ((h : ℚ) / 2)
  let sensor := (temps.findIdx? (fun t => t.toNat = h)).getD 0
  let stack := hbms.foldl (fun m t => max m t.toNat) 0
  let s := s.rset Reg.pgvTemp (BitVec.ofNat 32 (stack * 2 ^ 24 + die * 2 ^ 16 + sensor % 32))
  let hot := decide (2 * s.tlimField 16 ≤ h)
  if hot = s.rbit Reg.pgvStatus 4 then s
  else
    let s := (s.rsetBit Reg.pgvStatus 4 hot).send (.pin 1 (!hot))
    if hot then s.pgvFlag 5 145 else s

/-- GOVX: the hottest die sensor has been outside the band for 10 ms, 100 samples (R429). -/
def State.govx (s : State) : State := if 100 ≤ s.gov.outBand then s.pgvFlag 8 148 else s

/-- THERMAL_CAP_UPDATE: TCAP moves once per millisecond (R437). -/
def State.thermalCap (s : State) : State :=
  let tlim := s.tlimField 0
  let hlim := s.tlimField 8
  let t := s.rfield Reg.pgvTcap 0 9
  let hot := s.gov.temps.any (fun x => 2 * tlim ≤ x.toNat) || s.gov.stackT.any (fun x => hlim ≤ x.toNat)
  let cool := s.gov.temps.all (fun x => x.toNat + 6 ≤ 2 * tlim) && s.gov.stackT.all (fun x => x.toNat + 3 ≤ hlim)
  if hot then (s.rset Reg.pgvTcap (BitVec.ofNat 32 (max 120 (t - 8)))).pgvFlag 1 142
  else if cool then
    let n := min 480 (t + 8)
    let s := s.rset Reg.pgvTcap (BitVec.ofNat 32 n)
    if s.capSet ≤ n then s.rsetBit Reg.pgvStatus 1 false else s
  else s

/-- THERMTRIP: a core sensor reaches 115 °C; the device stops until PORST_N (R438). -/
def State.thermtrip (s : State) (sensor : Nat) : State :=
  if sensor < 18 then { s.send (.pin 2 false) with dead := some .thermalTrip } else s

def execGovernorWindow (counts : List (List Nat)) (unreachable : List Nat) (s : State) : Result := live s fun s => s.window' counts unreachable
def execLevelApply (s : State) : Result := live s fun s => s.levelApply
def execPmbusRead (volts amps : List (Option Nat)) (s : State) : Result := live s fun s => s.pmbusRead volts amps
def execGainUpdate (s : State) : Result := live s fun s => s.gainUpdate
def execPmbAlert (words : List (BitVec 16)) (s : State) : Result := live s fun s => s.pmbAlert words
def execThermalCapUpdate (s : State) : Result := live s fun s => s.thermalCap
def execSensorSample (temps : List (BitVec 8)) (hbms : List (BitVec 8)) (s : State) : Result := live s fun s => s.sensorSample temps hbms
def execGovx (s : State) : Result := live s fun s => s.govx
def execThermtrip (sensor : BitVec 5) (s : State) : Result := live s fun s => s.thermtrip sensor.toNat
def execOvercapCheck (s : State) : Result := live s fun s => s.overcapCheck

end Sys2Proof.Machine
end

