-- ==== Sys2Proof/Machine/Power.lean ====
section
/-! DEFINITION. Machine/Power.lean: power states, the Lantern sequencer and wake (R445-R461), and the power-up of R543 and R544. -/

namespace Sys2Proof.Machine

/-! ## What a reset of the logic keeps (R462) -/

/-- Registers that a warm reset and SLEEP keep: the Lantern registers, the perturbation block (R533), the tamper count (R526) and the
field-failure record (R492), which only a cold reset or a cold bring-up clears. -/
def keptReg (a : Nat) : Bool :=
  (0xC00000 ≤ a && a < 0xD00000) || (0x1000000 ≤ a && a < 0x1100000) || a = Reg.secTamper || a = Reg.secEvent ||
  (0x1100500 ≤ a && a < 0x1100520)

/-- HOT_N is released as the logic that drives it is reset or loses power (R451, R548). -/
def State.hotReleased (s : State) : List Out := if s.rbit Reg.pgvStatus 4 then [.pin 1 true] else []

/-- The device with all logic outside Lantern in reset: fuses, Lantern, HBM contents and what `keptReg` names stay. -/
def State.logicReset (s : State) (p : Power) : State :=
  let inHbm := fun (a : Nat) => decide (Mem.hbm ≤ a)
  { State.reset with
    pending := s.pending, fuses := s.fuses, out := s.out ++ s.hotReleased, free := s.free
    reg := ⟨s.reg.vals.filter (fun r => keptReg r.1), s.reg.live.filter (fun r => keptReg r.1)⟩
    mem := { State.reset.mem with
      cells := s.mem.cells.filter (fun c => inHbm c.1), bad := s.mem.bad.filter (fun w => inHbm (w * 8)), shadow := s.mem.shadow }
    fab := { State.reset.fab with cmapHist := s.fab.cmapHist }
    ltn := { s.ltn with power := p, gated := [], entering := false, stage := 0, wakeDue := false }
    sec := { s.sec with sas := [], descHash := [], sigRun := 0 } }

/-- PGV_CAP resets to the grade's TDP (R430), which is the cap in force. -/
def State.gradeCap (s : State) : State :=
  let w := BitVec.ofNat 32 (gradeTdp s.fuses.grade.toNat)
  let s := s.rset Reg.pgvCap w
  { s with gov := { s.gov with cap := w } }

/-- A reset release: sources 150 to 152 (R453, R456, R461). -/
def State.resetRelease (s : State) : State :=
  let s := if s.rget Reg.ltnWakereason ≠ 0 then s.raise 150 else s
  let s := if s.ltn.pgAborted then s.raise 151 else s
  let s := if s.ltn.browned then s.raise 152 else s
  { s with ltn := { s.ltn with pgAborted := false, browned := false } }

/-! ## Rails (R455, R456, R543, R544) -/

/-- Drives PWR_EN[n]. -/
def State.pwrEn (s : State) (n : Nat) (b : Bool) : State :=
  if s.ltn.pwrEn.getD n false = b then s
  else ({ s with ltn := { s.ltn with pwrEn := s.ltn.pwrEn.set n b } }).send (.pin (16 + n) b)

/-- The order of assertion: of a restore, of a listen, of a cold power-up. -/
def State.railOrder (s : State) : List Nat :=
  if s.ltn.power = .held then [6, 5, 0, 1, 2, 3, 4, 7] else if s.ltn.power ≠ .sleep then [] else if s.ltn.stage = 1 then [0, 1, 2, 3, 4, 7] else if s.ltn.listening.isSome then [3, 4] else []

/-- The next PWR_EN is asserted once PG of the one before is high; rails already on are skipped. A restore whose rails are all up goes
on to its next stage. -/
def State.nextRail (s : State) : State :=
  let on := fun (n : Nat) => s.ltn.pwrEn.getD n false
  if s.railOrder.any (fun n => on n && !s.ltn.pg.getD n false) then s
  else match s.railOrder.find? (fun n => !on n) with
  | some n => s.pwrEn n true
  | none => if s.ltn.power = .sleep ∧ s.ltn.stage = 1 then { s with ltn := { s.ltn with stage := 2 } } else s

/-- PG_RISE: a PG input rises. -/
def State.pgRise (s : State) (n : Nat) : State :=
  let s := { s with ltn := { s.ltn with pg := s.ltn.pg.set n true } }
  if s.ltn.pgAborted && s.ltn.power = .held then s else s.nextRail

/-- LDOLP: the LDO's mode. -/
def State.ldoLow (s : State) (b : Bool) : State := s.rsetBit Reg.ltnStatus 4 b

/-- A restore begins: from SLEEP with the regulators, the LDO in normal mode, from DOZE with the cores' power switches (R455). -/
def State.restoreBegins (s : State) : State :=
  let s := { s with ltn := { s.ltn with stage := 1, listening := none, wakeDue := false } }
  if s.ltn.power = .sleep then (s.ldoLow false).nextRail else s

/-- The entry of SLEEP ends with its rails down: the LDO goes to low-power mode, and a wake event of the entry begins the restore (R449,
R450). -/
def State.sleepEntered (s : State) : State :=
  let s := { s with ltn := { s.ltn with entering := false, stage := 0 } }
  let s := s.ldoLow true
  if s.ltn.wakeDue then s.restoreBegins else s

/-- Whether every rail that SLEEP takes down is down. -/
def State.railsDown (s : State) : Bool := [0, 1, 2, 3, 4, 7].all (fun n => !s.ltn.pg.getD n false)

/-- PG_FALL: a PG input falls; in RUN it sets PGLOST (R441), in the entry of SLEEP the last one ends stage 4 (R450). -/
def State.pgFall (s : State) (n : Nat) : State :=
  let was := s.ltn.pg.getD n false
  let s := { s with ltn := { s.ltn with pg := s.ltn.pg.set n false } }
  if was && s.ltn.power = .run then s.pgvFlag 7 147
  else if s.ltn.power = .sleep && s.ltn.entering && s.railsDown then s.sleepEntered
  else s

/-- PG_TIMEOUT: a PG stays low for PGTMO ms. A restore is aborted back to SLEEP (R456); a cold power-up deasserts every PWR_EN and waits
for PORST_N (R544). In the entry of SLEEP PGTMO ms end stage 4 although a PG is still high (R450). -/
def State.pgTimeout (s : State) (n : Nat) : State :=
  if s.ltn.power = .sleep && s.ltn.entering then (if s.ltn.pg.getD n false then s.sleepEntered else s)
  else if !s.ltn.pwrEn.getD n false || s.ltn.pg.getD n false then s
  else if s.ltn.power = .sleep ∧ s.ltn.stage = 1 then
    let s := s.forAll [7, 4, 3, 2, 1, 0] (fun s k => s.pwrEn k false)
    let s := ((s.rsetField Reg.ltnPsstat 28 4 n).rsetBit Reg.ltnPsstat 9 true).ldoLow true
    { s with ltn := { s.ltn with stage := 0, listening := none, pgAborted := true } }
  else if s.ltn.power = .held then
    let s := s.forAll [7, 4, 3, 2, 1, 0, 5, 6] (fun s k => s.pwrEn k false)
    let s := (s.rsetField Reg.ltnPsstat 28 4 n).rsetBit Reg.ltnPsstat 9 true
    { s with ltn := { s.ltn with pgAborted := true } }
  else s

/-! ## Clock gating (R446) -/

/-- Whether a physical core may be gated: unbound, or its binding has no step running or queued, with no apply window or fill. -/
def State.mayGate (s : State) (p : Nat) : Bool :=
  (List.range s.nCores).all (fun k =>
    let c := s.cor k
    let x := s.bnd c.binding.toNat
    !(s.corePresent k && s.physCore k = p && c.bound) ||
    (!x.running && !x.waitSlot && x.queue = [] && !(x.windowOpen && (List.range 256).any (fun m => (s.rule k m).valid && s.ruleState (k, m) = 2)) &&
      c.berth0.cur = none && c.berth1.cur = none))

/-- Whether the clock of every physical core is gated. -/
def State.allGated (s : State) : Bool := (List.range 18).all (fun p => s.ltn.gated.contains p)

/-- The entry of DOZE ends once every core's clock is gated; a wake event of the entry then begins the restore (R447, R449). -/
def State.dozeEntered (s : State) : State :=
  if !s.allGated then s
  else
    let s := { s with ltn := { s.ltn with entering := false, stage := 0 } }
    if s.ltn.wakeDue then s.restoreBegins else s

/-- CLOCK_GATE: a core that has been idle for 64 ACLK; in the entry of DOZE the core enters DOZE with it (R447). -/
def State.clockGate (s : State) (p : Nat) : State :=
  let dozing := s.ltn.power = .doze && s.ltn.entering
  if p < 18 && (s.ltn.power = .run || dozing) && s.mayGate p && !s.ltn.gated.contains p then
    let s := { s with ltn := { s.ltn with gated := s.ltn.gated ++ [p] } }
    if dozing then s.dozeEntered else s
  else s
/-- CLOCK_UNGATE: an access or START reaches a gated core; none reaches a core in DOZE (R447). -/
def State.clockUngate (s : State) (p : Nat) : State :=
  if s.ltn.power = .doze then s else { s with ltn := { s.ltn with gated := s.ltn.gated.filter (fun q => q ≠ p) } }

/-- STATE of LTN_PSSTAT (R461). -/
def State.psState (s : State) : Nat :=
  if s.ltn.entering then 4 else if s.ltn.stage ≠ 0 then 5
  else match s.ltn.power with
  | .doze => 2
  | .sleep => 3
  | _ => if s.allGated then 1 else 0

/-! ## Requests (R447-R449) -/

/-- A request that is refused (R447, R448). -/
def State.psRefuse (s : State) : State × Byte := (s.rsetBit Reg.ltnPsstat 8 true, St.badOperand)

/-- From DOZE to RUN (R447, R455): the cores are restored; notices and beacons that waited are delivered. -/
def State.fromDoze (s : State) : State :=
  let s := { s with ltn := { s.ltn with power := .run, stage := 0, gated := [] } }
  let l := s.syn.notes
  let s := ({ s with syn := { s.syn with notes := [] } }).forAll l (fun s n => s.giveNote n.1 n.2)
  s.forAll (s.syn.watches.filter (fun w => w.beacon.isSome)) (fun s w =>
    match w.beacon with | some b => s.offerBeacon w b.1 b.2 | none => s)

/-- Something asks for RUN in DOZE: the restore begins, in an entry once that has ended (R447, R449, R460). -/
def State.dozeEnds (s : State) : State :=
  if s.ltn.entering then { s with ltn := { s.ltn with wakeDue := true } } else if s.ltn.stage = 0 then s.restoreBegins else s

/-- Whether a request may be written: none during an entry or a restore, nor outside RUN and DOZE (R449). -/
def State.psOpen (s : State) : Bool := (s.ltn.power = .run || s.ltn.power = .doze) && !s.ltn.entering && s.ltn.stage = 0

/-- REQ = RUN (R447). -/
def State.reqRun (s : State) : State × Byte :=
  if !s.psOpen then (s, St.badOperand) else if s.ltn.power = .doze then (s.restoreBegins, St.ok) else (s, St.ok)

/-- REQ = DOZE (R447). -/
def State.reqDoze (s : State) : State × Byte :=
  let busy := s.cmd.bindings.any (fun p => p.2.valid && (p.2.running || p.2.waitSlot || p.2.queue ≠ [] || p.2.windowOpen))
  if !s.psOpen then (s, St.badOperand)
  else if busy then s.psRefuse
  else if s.ltn.power = .doze then (s, St.ok)
  else (({ s with ltn := { s.ltn with power := .doze, entering := true, stage := 1, wakeDue := false } }).dozeEntered, St.ok)

/-- LTN_LOAD (R452), in µA: the RC oscillator's detectors count while a port or a link is watched. -/
def State.ltnLoad (s : State) : Nat :=
  let ports := ([0, 2].filter (fun lo => s.rfield Reg.ltnWakeen lo 2 ≠ 0)).length
  let links := ((List.range 18).filter (fun l => s.rbit Reg.ltnFwakeEn l)).length
  600 + (if ports + links = 0 then 0 else 300) + 100 * ports + 50 * links

/-- SLEEP entry (R448, R450): Lantern keeps VID and ETYPE for the frame matcher; stacks go to self-refresh; rails 5 and 6 stay on. Stage 4 lasts
until the other rails are down. -/
def State.sleepEntry (s : State) : State :=
  let vid := BitVec.ofNat 12 (s.rfield Reg.ethTpCfg 4 12)
  let ety := BitVec.ofNat 16 (s.rfield Reg.ethTpCfg 16 16)
  let s := s.logicReset .sleep
  let s := s.forAll (List.range 4) (fun s h => s.rsetBit (Reg.hbmStat h) 30 true)
  let s := s.forAll [7, 4, 3, 2, 1, 0] (fun s n => s.pwrEn n false)
  let s := { s with ltn := { s.ltn with vid := vid, etype := ety, listening := none, entering := true, stage := 4 } }
  if s.railsDown then s.sleepEntered else s

/-- REQ = SLEEP (R448). -/
def State.reqSleep (s : State) (othersAsleep : Bool) : State × Byte :=
  let ok := !s.cmd.bindings.any (fun p => p.2.valid) && (s.sys.nDevs ≤ 1 || s.rbit Reg.fabRetire 1) &&
    (s.sys.nDevs ≤ 1 || s.sys.gate ≠ s.sys.myDev || othersAsleep) && decide (s.ltnLoad ≤ 1800)
  if !s.psOpen then (s, St.badOperand)
  else if ok then (s.sleepEntry, St.ok) else s.psRefuse

/-- DOZE_AUTO_WAKE (R447): a command that reaches a core (0), a beacon (1) or a queue notice (2) waits for the cores. -/
def State.dozeWake (s : State) (kind : Nat) : State :=
  let due :=
    if kind = 0 then s.cmd.streams.any (fun p => p.2.held.any (fun c => reachesCore c.2))
    else if kind = 1 then s.syn.watches.any (fun w => w.beacon.isSome)
    else kind = 2 && s.syn.notes ≠ []
  if s.ltn.power = .doze && due then s.dozeEnds else s

/-! ## Wake from SLEEP (R455-R459) -/

/-- A wake event in SLEEP: its bit, and the restore begins unless one is under way; in the entry it waits for its end (R449). -/
def State.wake (s : State) (bit : Nat) : State :=
  if s.ltn.power ≠ .sleep then s
  else
    let s := s.rsetBit Reg.ltnWakereason bit true
    if s.ltn.entering then { s with ltn := { s.ltn with wakeDue := true } } else if s.ltn.stage ≠ 0 then s else s.restoreBegins

/-- RESTORE: the regulators are up; PLLs lock, the stacks leave self-refresh and the logic is released into the warm path (R455). From DOZE the
cores leave retention and are released. -/
def State.restore (s : State) : State :=
  if s.ltn.power = .doze then (if !s.ltn.entering && s.ltn.stage = 1 then s.fromDoze else s)
  else if s.ltn.power ≠ .sleep ∨ s.ltn.stage ≠ 2 ∨ s.ltn.pg.any (fun b => !b) then s
  else
    let s := (s.logicReset .held).gradeCap
    let s := { s with ltn := { s.ltn with ethLost := false } }
    s.rsetField Reg.budState 18 2 3

/-- EMODE of a port. -/
def State.emode (s : State) (p : Nat) : Nat := s.rfield Reg.ltnWakeen (2 * p) 2

/-- ETHERNET_ENERGY_WAKE: energy for 10 µs on a port at EMODE 1. -/
def State.energyWake (s : State) (p : Nat) : State := if s.emode p = 1 then s.wake p else s

/-- LISTEN: energy on a port at EMODE 2 (R458). -/
def State.listen (s : State) (p : BitVec 1) : State :=
  if s.ltn.power = .sleep ∧ s.ltn.stage = 0 ∧ s.ltn.listening = none ∧ s.emode p.toNat = 2 then
    (({ s with ltn := { s.ltn with listening := some p } }).ldoLow false).nextRail
  else s

/-- LISTEN_TIMEOUT: WKWIN ms without a match. -/
def State.listenTimeout (s : State) (p : BitVec 1) : State :=
  if s.ltn.power = .sleep ∧ s.ltn.stage = 0 ∧ s.ltn.listening = some p then
    let s := (s.pwrEn 4 false).pwrEn 3 false
    let s := { s with ltn := { s.ltn with listening := none, pg := (s.ltn.pg.set 4 false).set 3 false } }
    (s.ldoLow true).count Reg.ltnListenCnt 1
  else s

/-- A WAKE frame in SLEEP (R418, R458): it names LTN_WAKEMAC or the broadcast address, and the VID and ETYPE held at SLEEP entry; only while its port listens with its rails up and its reference clock running. -/
def State.wakeMatch (s : State) (p : BitVec 1) (mac : BitVec 48) (h : EthHead) (pattern : List Word) : State :=
  let mine := mac = BitVec.allOnes 48 || mac.toNat = (s.rget Reg.ltnWakemacHi).toNat % 2 ^ 16 * 2 ^ 32 + (s.rget Reg.ltnWakemacLo).toNat
  let tag := h.vid = some s.ltn.vid && h.etype = s.ltn.etype && h.udp = none
  if s.ltn.listening = some p && !s.ltn.ethLost && s.ltn.pg.getD 3 false && s.ltn.pg.getD 4 false && mine && tag &&
      pattern = (List.range 4).map (fun i => s.rget (Reg.ltnWpat i)) then s.wake (2 + p.toNat)
  else s

/-- Energy or the wake pattern on a watched link (R457, R459). -/
def State.fabricWake (s : State) (l : Nat) (pattern : Bool) : State :=
  if s.ltn.power = .sleep && s.rbit Reg.ltnFwakeEn l && s.rbit Reg.ltnFwakeMode l = pattern then
    (s.rsetBit Reg.ltnWakelink l true).wake 6
  else s

/-- FWAKE_SEND (R459). -/
def State.fwakeSend (s : State) (mask : Nat) : State × Byte :=
  let l := (List.range 18).filter (fun k => mask / 2 ^ k % 2 = 1)
  if l.all (fun k => s.linkState k = 0 || s.linkState k = 5) then (s.sendAll (l.map (fun k => .fwake (BitVec.ofNat 5 k))), St.ok)
  else (s, St.badOperand)

/-- LANTERN_TIMER_WAKE: LTN_TCNT becomes equal to LTN_TCMP; the timer stops without XT32 (R547). -/
def State.timerWake (s : State) : State :=
  if s.ltn.xt32Lost then s
  else
    let s := s.rset Reg.ltnTcnt (s.rget Reg.ltnTcmp)
    if s.rbit Reg.ltnWakeen 4 then s.wake 4 else s

/-- WAKE_N low for 2 LCLK; not detected without XT32 (R547). -/
def State.wakeN (s : State) : State := if !s.ltn.xt32Lost && s.rbit Reg.ltnWakeen 5 then s.wake 5 else s

/-- WATCHED_SOURCE_WAKE: in DOZE an enabled entry's source is pending (R460). -/
def State.watchWake (s : State) (k : Nat) : State :=
  if s.ltn.power = .doze && s.rbit (Reg.ltnWatch k) 31 && s.irqPending (s.rfield (Reg.ltnWatch k) 0 9) then
    (s.rsetBit Reg.ltnWakereason 7 true).dozeEnds
  else s

/-- BROWN_OUT: Lantern draws more than the low-power mode supplies (R453). -/
def State.brownOut (s : State) : State :=
  if !s.rbit Reg.ltnStatus 4 then s
  else
    let notLtn := fun (a : Nat) => !(decide (0xC00000 ≤ a) && decide (a < 0xD00000))
    let s := { s with
      reg := ⟨s.reg.vals.filter (fun r => notLtn r.1), s.reg.live.filter (fun r => notLtn r.1)⟩
      ltn := { s.ltn with keep := Retention.empty, stage := 0, entering := false, wakeDue := false, listening := none, browned := true } }
    s.rsetField Reg.ltnStatus 8 2 2

/-- What the pins show as every rail goes down, in the power-down order, those of `on` come up, and what was latched is released (R438, R543,
R548). -/
def State.coldPins (s : State) (on : List Nat) : List Out :=
  ([7, 4, 3, 2, 1, 0, 5, 6].filter (fun n => s.ltn.pwrEn.getD n false)).map (fun n => Out.pin (16 + n) false) ++
  on.map (fun n => Out.pin (16 + n) true) ++ (if s.dead = some .thermalTrip then [.pin 2 true] else []) ++ s.hotReleased

/-- Nothing is powered but the rails that `on` names (R445, R543). -/
def State.coldState (s : State) (p : Power) (on : List Nat) : State :=
  State.gradeCap { State.reset with
    pending := s.pending, fuses := s.fuses, out := s.out ++ s.coldPins on, free := s.free, reg := ⟨[], []⟩
    ltn := { State.reset.ltn with power := p, pwrEn := (List.range 8).map (fun n => on.contains n), pg := List.replicate 8 false } }

/-- POWER_ON_RESET: VDD_LTN rises; the rails come up in order from PWR_EN[6] (R462, R543). -/
def State.powerOn (s : State) : State := s.coldState .held [6]

/-- COLD_RESET: PORST_N low for 10 µs: the rails go down and, as PORST_N rises, come up again (R462, R543, R544, log entry 31). What R544
reports at the next release stays. -/
def State.coldRst (s : State) : State :=
  let t := (s.coldState .held [6]).rsetField Reg.budState 18 2 1
  let t := (t.rset Reg.ltnPsstat (s.rget Reg.ltnPsstat &&& 0xF0000200)).rsetField Reg.ltnStatus 8 2 (s.rfield Reg.ltnStatus 8 2)
  { t with ltn := { t.ltn with pgAborted := s.ltn.pgAborted } }

/-- VDD_LTN_REMOVAL: OFF, everything is lost but the fuses (R445). -/
def State.vddOff (s : State) : State := s.coldState .off []

/-- WARM_RESET: WRST_N falls with every PG high (R462, R463); in SLEEP and in OFF the pin's domain is off. -/
def State.warmRst (s : State) (pgHigh : Bool) : State :=
  if !pgHigh || s.ltn.power = .sleep || s.ltn.power = .off then s
  else
    let s := (s.logicReset .held).gradeCap
    let s := s.forAll (List.range 4) (fun s h => s.rsetBit (Reg.hbmStat h) 30 true)
    s.rsetField Reg.budState 18 2 2

def execPsctrlRun (s : State) : Result := live s fun s => replied Reg.ltnPsctrl s.reqRun
def execPsctrlDoze (s : State) : Result := live s fun s => replied Reg.ltnPsctrl s.reqDoze
def execPsctrlSleep (othersAsleep : Bool) (s : State) : Result := live s fun s => replied Reg.ltnPsctrl (s.reqSleep othersAsleep)
def execDozeAutoWake (kind : BitVec 2) (s : State) : Result := live s fun s => s.dozeWake kind.toNat
def execRestore (s : State) : Result := live s fun s => s.restore
def execPgTimeout (n : BitVec 3) (s : State) : Result := live s fun s => s.pgTimeout n.toNat
def execPgFall (n : BitVec 3) (s : State) : Result := live s fun s => s.pgFall n.toNat
def execPgRise (n : BitVec 3) (s : State) : Result := live s fun s => s.pgRise n.toNat
def execClockGate (phys : BitVec 5) (s : State) : Result := live s fun s => s.clockGate phys.toNat
def execClockUngate (phys : BitVec 5) (s : State) : Result := live s fun s => s.clockUngate phys.toNat
def execBrownOut (s : State) : Result := live s fun s => s.brownOut
def execEthernetEnergyWake (port : BitVec 1) (s : State) : Result := live s fun s => s.energyWake port.toNat
def execListen (port : BitVec 1) (s : State) : Result := live s fun s => s.listen port
def execListenTimeout (port : BitVec 1) (s : State) : Result := live s fun s => s.listenTimeout port
def execFabricEnergyWake (l : BitVec 5) (s : State) : Result := live s fun s => s.fabricWake l.toNat false
def execFabricWakePattern (l : BitVec 5) (s : State) : Result := live s fun s => s.fabricWake l.toNat true
def execFwakeSend (mask : BitVec 18) (s : State) : Result := live s fun s => replied Reg.ltnFwakeSend (s.fwakeSend mask.toNat)
def execLanternTimerWake (s : State) : Result := live s fun s => s.timerWake
def execWakeN (s : State) : Result := live s fun s => s.wakeN
def execWatchedSourceWake (k : BitVec 5) (s : State) : Result := live s fun s => s.watchWake k.toNat
def execWarmReset (pgHigh : Bool) (s : State) : Result := live s fun s => s.warmRst pgHigh
/-- A reset ends every fatal condition (R438, R547). -/
def execPowerOnReset (s : State) : Result := .next s.powerOn
def execColdReset (s : State) : Result := .next s.coldRst
def execVddLtnRemoval (s : State) : Result := .next s.vddOff

end Sys2Proof.Machine
end

