-- ==== Sys2Proof/Machine/Security.lean ====
section
/-! DEFINITION. Machine/Security.lean: identity, attestation, life cycle, debug, SAKs and tamper events (R511-R532). -/

namespace Sys2Proof.Machine

/-! ## Life-cycle state (R523, R531) -/

/-- LC of SEC_STATUS: 0 MANUFACTURE, 1 PROVISIONED, 2 DEPLOYED, 3 RMA, 4 SCRAPPED. -/
def lcOf (f : Fuses) : Nat :=
  if f.keyKill then 4 else if f.lcBits = 0 then 0 else if f.lcBits = 1 then 1 else if f.lcBits % 2 = 0 then 2 else 3

/-- SEC_STATUS (R531). -/
def State.secStatus (s : State) : Word :=
  let f := s.fuses
  BitVec.ofNat 32 (lcOf f * 2 ^ 29 + s.sec.dbg.toNat * 2 ^ 27 + (if f.tampered then 2 ^ 26 else 0) + (if f.owner.isSome then 2 ^ 25 else 0) +
    f.svn.toNat * 2 ^ 16 + f.revoked.toNat * 2 ^ 8 + s.ltn.keep.sigfail.toNat * 2 ^ 6 + min f.lcBits 63)

/-- The device nonce as words; SEC_NONCE shows the words captured last (R531). -/
def State.nonce (s : State) : List Word := (List.range 8).map (fun i => Tab.get (fun _ => (0 : Word)) s.reg.live (Reg.secNonce i))
/-- The draw of a new nonce (R519). -/
def State.newNonce (s : State) : State :=
  s.forAll (List.range 8) (fun s i => let (w, s) := s.draw; s.setLive (Reg.secNonce i) w)
/-- SEC_NONCE takes the nonce. -/
def State.captureNonce (s : State) : State :=
  s.forAll (List.range 8) (fun s i => s.rset (Reg.secNonce i) (s.nonce.getD i 0))

/-! ## Tamper events (R526, R527) -/

/-- A logical tamper event: the vault is wiped, SAKs are lost, and the event is counted, recorded and raised. -/
def State.tamper (s : State) (cause : Nat) : State :=
  let s := { s with
    mem := { s.mem with wiping := true }, sec := { s.sec with sas := [] }
    fuses := if lcOf s.fuses = 2 then { s.fuses with tampered := true } else s.fuses }
  ((s.satAdd Reg.secTamper 0 16 1).rset Reg.secEvent (BitVec.ofNat 32 cause)).raise 172

/-- TAMPER_N low for 1 µs, in any state except SLEEP and OFF. -/
def State.tamperPin (s : State) : State := if s.ltn.power = .sleep ∨ s.ltn.power = .off then s else s.tamper 4

/-! ## Requests (R517-R519) -/

/-- The reply to a request of a KIND; SEC_REQ records it. A request that came over the SMBus target is answered there, any other in DATA frames
of the management space: the header of 16 bytes and the body, each frame with 8 bytes of TAG and OFFSET (R401, R517, R518). -/
def State.secReply (s : State) (smbus : Bool) (kind : Nat) (st : Byte) (body : List Byte) : State :=
  let s := s.rset Reg.secReq (BitVec.ofNat 32 (st.toNat * 256 + kind))
  let o := Out.secReply (BitVec.ofNat 8 kind) st body
  let room := s.frameRoom (s.spacePort 1 0) - 8
  if smbus then s.send o else s.toHost 1 0 ((16 + body.length + room - 1) / room) o

/-- The bytes a signature covers: header and body (R518). -/
def secMessage (kind : Nat) (body : List Byte) : List Byte :=
  [BitVec.ofNat 8 kind, 0, 0, 0] ++ leBytes 4 body.length ++ List.replicate 8 0 ++ body

/-- Whether a request may be signed by `key`: none where no key may sign it. The signature is checked, with the run of failures of R519,
and the nonce is renewed. -/
def State.signedBy (s : State) (key : Option (List Byte)) (kind : Nat) (body sig : List Byte) (nonce : List Word) (devid : Word64) :
    State × Bool :=
  let fresh := decide (nonce = s.nonce) && devid = s.fuses.devid
  match key with
  | none => (s.newNonce, false)
  | some k =>
    if Config.verifies k (secMessage kind body) sig then (({ s with sec := { s.sec with sigRun := 0 } }).newNonce, fresh)
    else
      let n := s.sec.sigRun + 1
      let s := ({ s with sec := { s.sec with sigRun := n } }).raise 175
      ((if n = 3 then s.tamper 3 else s).newNonce, false)

/-- Whether the first bytes of a request are malformed (R518): a reserved KIND, a STATUS or reserved bytes other than 0, or a LEN that the KIND does
not have; the body of a SAK may end with the nonce and DEVID that R519 asks of a signed request (log entry 33). -/
def secMalformed (h : List Byte) : Bool :=
  let kind := leNat (h.take 1)
  let lens := [[], [32], [44, 141], [44], [177, 217], [0]].getD kind []
  h.length < 16 || !lens.contains (leNat ((h.drop 4).take 4)) || (h.drop 1).take 3 ≠ [0, 0, 0] || ((h.drop 8).take 8).any (fun b => b ≠ 0)

/-! ## Attestation (R516, R520, R521) -/

/-- The bytes of a slot image as LOADPROG wrote it (R67, R83). -/
def Slot.image (t : Slot) : List Byte := wordBytes (t.header ++ t.prog ++ t.consts)

/-- The program digest of a core. -/
def State.progDigest (s : State) (n : Nat) : List Byte :=
  Config.digest ((s.slotsOf n).flatMap (fun t => BitVec.ofNat 8 t :: Config.digest (s.slotAt n t).image))
/-- The rule digest of a core: the entries as LOADRULE wrote them, which the load shadow keeps. -/
def State.ruleDigest (s : State) (n : Nat) : List Byte :=
  let entry := fun (m : Nat) => (List.range 128).map (fun i => Tab.get Memory.unlisted s.mem.shadow (ruleAddr n m + i))
  Config.digest ((s.rulesOf n).flatMap (fun m => BitVec.ofNat 8 m :: Config.digest (entry m)))
/-- The digests of a logical core: zeros for an ABSENT one. -/
def State.coreDigests (s : State) (k : Nat) : List Byte :=
  if s.corePresent k then s.progDigest k ++ s.ruleDigest k else List.replicate 96 0

/-- The fuse fields that the fuse digest covers, in an order of the model's (DESIGN CHOICE, log entry 33). -/
def fuseBytes (f : Fuses) : List Byte :=
  leBytes 8 f.devid.toNat ++ [f.grade, f.stepping] ++ leBytes 4 (f.badCores.foldl (fun x p => x + 2 ^ p) 0) ++
  leBytes 8 (f.badSlices.foldl (fun x p => x + 2 ^ p) 0) ++ f.rows.flatMap (fun r => leBytes 8 (r.1 * 2 ^ 32 + r.2)) ++
  f.badLanes.flatMap (fun r => leBytes 8 (r.1 * 2 ^ 32 + r.2)) ++ leBytes 4 f.leakage ++
  [BitVec.ofNat 8 f.lcBits, if f.keyKill then 1 else 0, if f.tampered then 1 else 0] ++ f.owner.getD [] ++
  [f.svn.zeroExtend 8, f.revoked.zeroExtend 8, if f.cert then 1 else 0]

/-- The report of R520, less its signature. -/
def State.report (s : State) (nonce : List Byte) : List Byte :=
  beBytes 2 1 ++ List.replicate 6 0 ++ beBytes 8 s.fuses.devid.toNat ++ nonce ++ beBytes 8 s.tmr.tb.toNat ++
  [BitVec.ofNat 8 (lcOf s.fuses), s.sec.dbg.zeroExtend 8, if s.fuses.tampered then 1 else 0, s.fuses.svn.zeroExtend 8] ++
  beBytes 2 (s.rfield Reg.secTamper 0 16) ++ [0, 0] ++ Config.digest (fuseBytes s.fuses) ++ Config.romDigest ++
  wordBytes ((List.range 12).map (fun i => s.rget (Reg.secFwhash i))) ++ s.sec.descHash ++ Config.digest (wordBytes s.lmapWords) ++
  beBytes 4 s.nCores ++ [0, 0, 0, 0] ++ (List.range s.nCores).flatMap s.coreDigests

/-- ATTEST. -/
def State.attest (s : State) (nonce : List Byte) (smbus : Bool) : State :=
  if nonce.length ≠ 32 then s.secReply smbus 1 St.badOperand []
  else s.secReply smbus 1 St.ok (s.report nonce ++ Config.sign (s.report nonce))

/-- CERTS: the device certificate, then the CA's and the root's. -/
def State.certs (s : State) (smbus : Bool) : State := s.secReply smbus 5 St.ok ((List.range 3).flatMap Config.certChain)

/-! ## Life cycle (R523-R525) -/

/-- The key that signs a permitted transition (R524); none where it is not permitted. -/
def State.lcSigner (s : State) (target : Nat) (ownerKey : List Byte) (smbus : Bool) : Option (List Byte) :=
  let c := lcOf s.fuses
  if c = 1 ∧ target = 2 then (if smbus && ownerKey.length = 97 then some (Config.digest ownerKey) else none)
  else if ownerKey ≠ [] then none
  else if c = 0 ∧ target = 1 then (if s.fuses.cert then some Config.mfgKey else none)
  else if c = 2 ∧ target = 3 then (if s.fuses.lcBits < 64 then s.fuses.owner else none)
  else if c = 3 ∧ target = 2 then s.fuses.owner
  else if (c = 0 ∨ c = 1) ∧ target = 4 then some Config.mfgKey
  else if (c = 2 ∨ c = 3) ∧ target = 4 then s.fuses.owner
  else none

/-- LIFECYCLE (R525): the reply leaves, fuses are blown, and the device resets itself for the cold path; an erase and that reset leave
no memory. -/
def State.lifecycle (s : State) (target : Nat) (nonce : List Word) (devid : Word64) (ownerKey : List Byte) (smbus : Bool) (sig : List Byte) :
    State :=
  let body := [BitVec.ofNat 8 target, 0, 0, 0] ++ wordBytes nonce ++ leBytes 8 devid.toNat ++ ownerKey
  let busy := s.cmd.bindings.any (fun p => p.2.valid)
  let enrol := lcOf s.fuses = 1 && target = 2
  let (s, ok) := s.signedBy (s.lcSigner target ownerKey smbus) 2 body sig nonce devid
  if !ok || busy then s.secReply smbus 2 St.badOperand []
  else
    let s := s.secReply smbus 2 St.ok []
    let f := if target = 4 then { s.fuses with keyKill := true } else { s.fuses with lcBits := s.fuses.lcBits + 1 }
    let f := if enrol then { f with owner := some (Config.digest ownerKey) } else f
    let t := State.gradeCap { State.reset with
      pending := s.pending, fuses := f, out := s.out, free := s.free, reg := ⟨[], []⟩
      ltn := { State.reset.ltn with power := .held, pwrEn := s.ltn.pwrEn, pg := s.ltn.pg }
      sec := { State.reset.sec with lcDone := true } }
    t.rsetField Reg.budState 18 2 1

/-! ## Debug (R528, R529) -/

/-- The key that signs a DEBUG request for a level; none where the level is not permitted. -/
def State.debugSigner (s : State) (level : Nat) : Option (List Byte) :=
  let c := lcOf s.fuses
  if level = 1 then (if c ≤ 1 then some Config.mfgKey else if c ≤ 3 then s.fuses.owner else none)
  else if level = 2 then (if c = 0 then some Config.mfgKey else if c = 3 then s.fuses.owner else none)
  else none

/-- DEBUG: a granted level is a tamper event and raises source 174. -/
def State.debugReq (s : State) (level : Nat) (nonce : List Word) (devid : Word64) (smbus : Bool) (sig : List Byte) : State :=
  let body := [BitVec.ofNat 8 level, 0, 0, 0] ++ wordBytes nonce ++ leBytes 8 devid.toNat
  let (s, ok) := s.signedBy (s.debugSigner level) 3 body sig nonce devid
  if !ok then s.secReply smbus 3 St.badOperand []
  else
    let s := { s with sec := { s.sec with dbg := BitVec.ofNat 2 (max level s.sec.dbg.toNat) } }
    ((s.tamper 1).raise 174).secReply smbus 3 St.ok []

/-! ## SAKs (R399, R522) -/

/-- A new SA takes the place of the one that is not in use; the first SA of a channel comes into use. -/
def addSa (l : List Sa) (x : Sa) : List Sa :=
  match l with
  | [] => [x]
  | y :: _ => [y, x]

/-- SAK: signed by the owner key in DEPLOYED and RMA, unsigned before; the nonce is renewed either way. -/
def State.sak (s : State) (port dir : Nat) (an : BitVec 2) (ssci : Word) (ki wrapped pubkey : List Byte) (nonce : List Word) (devid : Word64)
    (smbus : Bool) (sig : List Byte) : State :=
  let body := [BitVec.ofNat 8 port, BitVec.ofNat 8 dir, an.zeroExtend 8, 0] ++ leBytes 4 ssci.toNat ++ ki ++ pubkey ++ wrapped
  let salt := wordBytes s.nonce
  let info := beBytes 8 s.fuses.devid.toNat ++ [BitVec.ofNat 8 port, BitVec.ofNat 8 dir, an.zeroExtend 8]
  let c := lcOf s.fuses
  let (s, ok) :=
    if c = 2 ∨ c = 3 then s.signedBy s.fuses.owner 4 body sig nonce devid else (s.newNonce, c ≤ 1)
  let shape := ki.length = 16 && wrapped.length = 56 && pubkey.length = 97
  let key := Config.unwrap (Config.derive (Config.agree 0 pubkey) salt info) wrapped
  match (if ok && shape then key else none) with
  | none => s.secReply smbus 4 St.badOperand []
  | some k =>
    let i := port * 2 + dir
    let s := { s with sec := { s.sec with
      sas := Tab.set (fun _ => []) s.sec.sas i (addSa (Tab.get (fun _ => []) s.sec.sas i) ⟨an, ssci, ki, k⟩) } }
    s.secReply smbus 4 St.ok []

def execAttest (nonce : List Byte) (smbus : Bool) (s : State) : Result := live s fun s => s.attest nonce smbus
def execCerts (smbus : Bool) (s : State) : Result := live s fun s => s.certs smbus
def execLifecycle (target : BitVec 8) (nonce : List Word) (devid : Word64) (ownerKey : List Byte) (smbus : Bool) (sig : List Byte) (s : State) :
    Result :=
  live s fun s => s.lifecycle target.toNat nonce devid ownerKey smbus sig
def execDebug (level : BitVec 8) (nonce : List Word) (devid : Word64) (smbus : Bool) (sig : List Byte) (s : State) : Result :=
  live s fun s => s.debugReq level.toNat nonce devid smbus sig
def execSak (port dir : BitVec 1) (an : BitVec 2) (ssci : Word) (ki wrapped pubkey : List Byte) (nonce : List Word) (devid : Word64)
    (smbus : Bool) (sig : List Byte) (s : State) : Result :=
  live s fun s => s.sak port.toNat dir.toNat an ssci ki wrapped pubkey nonce devid smbus sig
def execTamperN (s : State) : Result := live s fun s => s.tamperPin

end Sys2Proof.Machine
end

