-- ==== Sys2Proof/Machine/Bringup.lean ====
section
/-! DEFINITION. Machine/Bringup.lean: the cold path and the warm fast path (R466-R480, R512-R514), from a reset release to READY,
NOT_READY or a halt of the boot ROM. What the fetch, the self-tests and the training find is the command's operand. -/

namespace Sys2Proof.Machine

/-! ## The LMAP (R475, R476) -/

/-- The kind of a record that excludes a unit. -/
def failKind (slice : Bool) : BitVec 3 := if slice then 3 else 1

/-- Whether a physical unit is good (R475). -/
def State.unitGood (s : State) (slice : Bool) (test : List Nat) (p : Nat) : Bool :=
  !(if slice then s.fuses.badSlices else s.fuses.badCores).contains p && !test.contains p &&
  !s.fuses.records.any (fun r => r.kind = failKind slice && r.phys = p)

/-- The spare that the latest remap of a logical number took. -/
def State.remapOf (s : State) (slice : Bool) (k : Nat) : Option Nat :=
  ((s.fuses.records.filter (fun r => r.kind = failKind slice && r.logical = k && r.spare.isSome)).getLast?).bind (fun r => r.spare)

/-- The assignment of logical numbers to good units (R476): remaps first, then ascending numbers to ascending units, slices 28 to 31
before the others. -/
def State.buildMap (s : State) (slice : Bool) (test : List Nat) : List (Nat × Nat) :=
  let names := if slice then [28, 29, 30, 31] ++ List.range 28
    else (List.range s.nCores).filter (fun k => !s.fuses.records.any (fun r => r.kind = 2 && r.logical = k))
  let good := (List.range (nPhys slice)).filter (s.unitGood slice test)
  let again := names.filterMap (fun k => (s.remapOf slice k).bind (fun p => if good.contains p then some (k, p) else none))
  again ++ (names.filter (fun k => !again.any (fun x => x.1 = k))).zip (good.filter (fun p => !again.any (fun x => x.2 = p)))

/-- The word of a physical unit (R490): a unit that a record of an earlier bring-up excludes shows a free FCAUSE, since a record holds
no cause. -/
def State.showUnit (s : State) (slice : Bool) (test : List Nat) (map : List (Nat × Nat)) (p : Nat) : State :=
  if (if slice then s.fuses.badSlices else s.fuses.badCores).contains p then s.setPhys slice p 0 0 0
  else if test.contains p then s.setPhys slice p 3 4 0
  else match s.fuses.records.find? (fun r => r.kind = failKind slice && r.phys = p) with
  | some r => s.draw.2.setPhys slice p 4 (s.draw.1.toNat % 8) r.logical
  | none =>
    match map.find? (fun x => x.2 = p) with
    | some x => s.setPhys slice p 1 0 x.1
    | none => s.setPhys slice p 2 0 0

/-- B4 and B5 for one kind of unit: records of units that failed their self-test, then the map, its entries and the units. -/
def State.layUnits (s : State) (slice : Bool) (test : List Nat) : State :=
  let old := s.buildMap slice []
  let bad := (List.range (nPhys slice)).filter (fun p => test.contains p && s.unitGood slice [] p)
  let s := s.forAll bad (fun s p =>
    s.fieldRecord ⟨failKind slice, p, ((old.find? (fun x => x.2 = p)).map Prod.fst).getD 0, none⟩)
  let map := s.buildMap slice test
  let s := s.forAll (List.range (nPhys slice)) (fun s p => s.showUnit slice test map p)
  let n := if slice then 32 else s.nCores
  s.forAll (List.range n) (fun s k =>
    match map.find? (fun x => x.1 = k) with
    | some x => s.setLmap slice k 1 x.2
    | none =>
      let s := s.setLmap slice k 2 0
      if slice || s.fuses.records.any (fun r => r.kind = 2 && r.logical = k) then s else s.fieldRecord ⟨2, 0, k, none⟩)

/-- Whether every logical slice has a unit. -/
def State.slicesWhole (s : State) : Bool := (List.range 32).all (fun k => s.rfield (Reg.budLmapSlice k) 30 2 = 1)

/-- W2: the LMAP comes from Lantern retention. -/
def State.reloadMap (s : State) : State :=
  let w := s.ltn.keep.lmap
  let s := s.forAll (List.range 16) (fun s k => s.rset (Reg.budLmapCore k) (w.getD k 0))
  let s := s.forAll (List.range 32) (fun s k => s.rset (Reg.budLmapSlice k) (w.getD (16 + k) 0))
  let map := fun (slice : Bool) => (List.range (if slice then 32 else 16)).filterMap (fun k =>
    let x := w.getD (if slice then 16 + k else k) 0
    if fieldOf x 30 2 = 1 then some (k, fieldOf x 0 6) else none)
  let s := s.forAll (List.range 18) (fun s p => s.showUnit false [] (map false) p)
  s.forAll (List.range 34) (fun s p => s.showUnit true [] (map true) p)

/-- The units of a kind that fail B4: those whose self-test fails, and those with a bad row that finds no spare row (R464, R468, R481). Units of
rows are physical cores, or 32 + physical slices. -/
def State.testFails (s : State) (slice : Bool) (bad : List Nat) (l : List (Nat × Nat)) : List Nat :=
  bad ++ ((l.filter (fun r => !(s.repairable l).contains r)).filterMap (fun r =>
    if slice then (if 32 ≤ r.1 then some (r.1 - 32) else none) else if r.1 < 32 then some r.1 else none))

/-! ## Outcomes -/

/-- Bring-up ends NOT_READY with a cause (R468, R474). -/
def State.notReady (s : State) (cause : Nat) : State := (s.rsetField Reg.budState 30 2 3).rsetField Reg.budState 22 3 cause

/-- The boot ROM stays in B2 or W1: it halts with a cause, or waits (R466, R467, R514). -/
def State.bootStays (s : State) (cause stage : Nat) : State :=
  ((s.rsetField Reg.budState 30 2 1).rsetField Reg.budState 26 4 stage).rsetField Reg.budState 22 3 cause

/-! ## Boot (R512-R514) -/

/-- `n` bytes of the image's header from byte `i` on (R512). -/
def hdrAt (h : List Byte) (i n : Nat) : Nat := leNat ((h.drop i).take n)

/-- Whether every field of the image's header is in its range: MAGIC, HDRVER, KEYIDX, REVOKE, SVN, COMMIT, LEN and the reserved bytes
(R512, R513). -/
def headerOk (h : List Byte) : Bool :=
  h.length = 64 && hdrAt h 0 4 = 0x4E584B50 && hdrAt h 4 2 = 1 && hdrAt h 6 1 ≤ 3 && hdrAt h 7 1 < 2 ^ hdrAt h 6 1 && hdrAt h 8 1 ≤ 63 &&
  hdrAt h 9 1 ≤ 1 && hdrAt h 10 2 = 0 && hdrAt h 12 4 % 16 = 0 && 16 ≤ hdrAt h 12 4 && hdrAt h 12 4 ≤ 16777216 && (h.drop 16).all (fun b => b = 0)

/-- Whether the boot ROM accepts the image (R513). -/
def State.bootOk (s : State) (r : BringupReport) : Bool :=
  headerOk r.header && r.sigOk && !s.fuses.revoked.getLsbD (hdrAt r.header 6 1) && decide (s.fuses.svn.toNat ≤ hdrAt r.header 8 1)

/-- Whether the description's CRC holds (R371, R467). -/
def descOk (r : BringupReport) : Bool := r.descCrc = crc32 r.desc
/-- The number that the description gives a device (R467). -/
def State.devNum (s : State) (r : BringupReport) : Option (BitVec 6) := (r.devs.find? (fun d => d.1 = s.fuses.devid)).map Prod.snd
/-- What the description expects of a link of this device, as BUD_LNK_TOPO spells it: a link with no entry is not cabled (R467, R491). -/
def State.expected (s : State) (r : BringupReport) (l : Nat) : BitVec 2 × BitVec 6 × BitVec 5 :=
  match r.cables.find? (fun c => s.devNum r = some c.1 && c.2.1.toNat = l) with
  | some c => (if c.2.2.1 then 1 else 2, c.2.2.2.1, c.2.2.2.2)
  | none => (0, 0, 0)
/-- Firmware agreement (R468): the gate device has the same hashes of image and description. -/
def State.fwAgree (s : State) (r : BringupReport) : Bool := s.devNum r = some r.gate || (r.gateFw = r.fwHash && r.gateDesc = r.descHash)

/-- A rejection (R514): SIGFAIL rises, and at 3 is a logical tamper event. -/
def State.bootReject (s : State) (stage : Nat) : State :=
  let n := s.ltn.keep.sigfail.toNat
  let s := { s with
    ltn := { s.ltn with keep := { s.ltn.keep with sigfail := BitVec.ofNat 2 (min (n + 1) 3) } }
    sec := { s.sec with bootRej := true } }
  (if n = 2 then s.tamper 2 else s).bootStays 7 stage

/-- A successful boot: the fuses that the image asks for, its hash, and Keeper enables the interrupt sources (R498, R513, R520). -/
def State.booted (s : State) (r : BringupReport) : State :=
  let s := { s with
    ltn := { s.ltn with keep := { s.ltn.keep with sigfail := 0 } }
    fuses := { s.fuses with
      revoked := s.fuses.revoked ||| BitVec.ofNat 4 (hdrAt r.header 7 1)
      svn := if hdrAt r.header 9 1 = 1 then BitVec.ofNat 6 (hdrAt r.header 8 1) else s.fuses.svn }
    sec := { s.sec with descHash := r.descHash } }
  (s.forAll (List.range 12) (fun s i => s.rset (Reg.secFwhash i) (r.fwHash.getD i 0))).enableAll

/-- What Keeper takes from the description (R467): RAMP0 (R436) and PGTMO (R456). -/
def State.described (s : State) (r : BringupReport) : State :=
  (s.rsetField Reg.pgvCtrl 16 6 r.ramp0.toNat).rset Reg.ltnPgtmo (BitVec.ofNat 32 r.pgtmo.toNat)

/-! ## Links (R470-R473, R480) -/

/-- What a link trained at, as FAB_LNK_STAT shows it. -/
def State.showLink (s : State) (l w : Nat) (r : LinkResult) : State :=
  if w = 0 then s
  else
    let a := Reg.fabLnkStat l
    let s := (s.rsetField a 29 3 (if w = 3 then 2 else 3)).rsetField a 26 2 w
    (s.rsetField a 16 6 r.peerDev.toNat).rsetField a 8 5 r.peerLink.toNat

/-- L1: each link at the widest width that passes. -/
def State.trainLinks (s : State) (r : BringupReport) : State :=
  s.forAll (r.links.take 18).zipIdx (fun s x => s.showLink x.2 (s.trainedWidth x.2 x.1) x.1)

/-- W3: each link at its retained width, accepted when 1 ms passes with no uncorrectable codeword. -/
def State.retrainLinks (s : State) (r : BringupReport) : State :=
  s.forAll (r.links.take 18).zipIdx (fun s x =>
    s.showLink x.2 (if x.1.version && x.1.soaks.head?.any (fun k => !k.1) then (s.ltn.keep.widths.getD x.2 0).toNat else 0) x.1)

/-- B6 for one link (R473): the RESULT, and the link as it stays. -/
def State.checkLink (s : State) (l : Nat) (e : BitVec 2 × BitVec 6 × BitVec 5) : State :=
  let a := Reg.fabLnkStat l
  let up := s.linkUp l
  let kind := if e.1 = 3 then 0 else e.1.toNat
  let fdev := if up then s.rfield a 16 6 else 0
  let flink := if up then s.rfield a 8 5 else 0
  let same := decide (fdev = e.2.1.toNat) && decide (flink = e.2.2.toNat)
  let result := if kind = 0 then (if up then 4 else 0) else if !up then 2 else if same then 1 else 3
  let s := s.rset (Reg.budLnkTopo l) (BitVec.ofNat 32
    (kind * 2 ^ 30 + result * 2 ^ 27 + e.2.1.toNat * 2 ^ 21 + e.2.2.toNat * 2 ^ 16 + fdev * 2 ^ 10 + flink * 2 ^ 5))
  let s := s.rsetBit a 7 (decide (kind = 1))
  let s := if result = 3 ∨ result = 4 then (s.rsetField a 29 3 0).rsetField a 26 2 0 else s
  if kind = 1 ∧ (result = 2 ∨ result = 3) then s.raise (1 + l) else s

/-- Whether a REQUIRED link is MISSING or MISWIRED. -/
def State.topoBad (s : State) : Bool :=
  (List.range 18).any (fun l => s.rfield (Reg.budLnkTopo l) 30 2 = 1 && s.rfield (Reg.budLnkTopo l) 27 3 ≠ 1)

/-! ## The system (R22, R467) -/

/-- The system core map that the description's counts give: devices ascending, logical cores ascending. -/
def mapCores : Nat → Nat → List Nat → List (Nat × SysCore)
  | _, _, [] => []
  | d, n, k :: r => (List.range k).map (fun i => (n + i, SysCore.mk (BitVec.ofNat 6 d) i true)) ++ mapCores (d + 1) (n + k) r

/-- B7: the device number, the core map, the links of the system and the paths. A core that its device has no unit for is ABSENT in the map
of every device (R22): here as the LMAP says of this device's cores, and as Keeper reports of the others'. -/
def State.joinSystem (s : State) (r : BringupReport) : State :=
  let me := (s.devNum r).getD 0
  let t := (mapCores 0 0 r.cores).foldl (fun t x =>
    let gone := if x.2.dev = me then s.rfield (Reg.budLmapCore x.2.core) 30 2 ≠ 1 else r.absent.contains x.1
    Tab.set (fun _ => SysCore.empty) t x.1 { x.2 with present := !gone }) []
  let s := { s with sys :=
    { coreMap := t, myDev := me, nDevs := r.devs.length, gate := r.gate, standby := r.standby, lost := [], ready := s.sys.ready, edges := r.edges, down := [], longest := 0, retired := [], confirmed := [] } }
  let gate := decide (r.gate = me)
  let s := s.rset Reg.budDevnum (BitVec.ofNat 32 ((if gate then 256 else 0) + me.toNat))
  (s.rsetBit Reg.ethTpStatus 1 gate).setPaths

/-! ## READY (R413, R468, R478, R532) -/

/-- The gate device opens every sequence space of a device at 0 and tells the host (R413): cause 1 at a READY, 2 at a takeover. -/
def State.openSpaces (s : State) (dev cause : Nat) : State :=
  let s := { s with eth := { s.eth with spaces := s.eth.spaces.filter (fun p => p.1 / 256 % 64 ≠ dev) } }
  s.noticeOf (BitVec.ofNat 6 dev) 5 [BitVec.ofNat 8 dev, BitVec.ofNat 8 cause, 0, 0]

/-- READY: the local management space closes, and a gate device opens the spaces of every READY device. -/
def State.becomeReady (s : State) : State :=
  let me := s.sys.myDev.toNat
  let s := s.rsetField Reg.budState 30 2 2
  let s := { s with
    sys := { s.sys with ready := s.sys.ready.filter (fun d => d ≠ me) ++ [me] }
    eth := { s.eth with spaces := [], mgmtData := [] }
    ltn := { s.ltn with keep := { s.ltn.keep with
      ready := true, widths := (List.range 18).map (fun l => BitVec.ofNat 2 (s.rfield (Reg.fabLnkStat l) 26 2)) } } }
  let s := if s.sys.gate = s.sys.myDev then s.forAll s.sys.ready (fun s d => s.openSpaces d 1) else s
  let s := if s.sec.bootRej then s.raise 171 else s
  let s := if s.sec.lcDone then s.raise 173 else s
  { s with sec := { s.sec with bootRej := false, lcDone := false } }

/-- B6 to B8, and READY. -/
def State.lastStages (s : State) (r : BringupReport) : State :=
  let s := s.forAll (List.range 18) (fun s l => s.checkLink l (s.expected r l))
  if s.topoBad then s.notReady 1
  else if (s.devNum r).isNone then s.notReady 2
  else
    let s := s.joinSystem r
    if !s.fwAgree r then s.notReady 3 else s.becomeReady

/-! ## The paths -/

/-- Whether a bring-up may begin: the logic has been released with every regulator up and none has been made since. -/
def State.released (s : State) : Bool :=
  s.rfield Reg.budState 30 2 = 0 && (s.ltn.power = .held || s.ltn.power = .run) && s.ltn.pg.all (fun b => b)

/-- Whether the fast path holds (R479). -/
def State.fastOk (s : State) (r : BringupReport) : Bool :=
  let k := s.ltn.keep
  2 ≤ s.rfield Reg.budState 18 2 && k.valid && decide (k.crc = crc32 (wordBytes k.lmap)) && !k.ffev && k.ready && k.bootSel = r.bootSel

/-- The release of the logic: sources 150 to 152, a device nonce, the BOOT_SEL sampled (R453, R466, R519). -/
def State.release' (s : State) (r : BringupReport) : State :=
  let s := ({ s with ltn := { s.ltn with power := .run } }).resetRelease.newNonce.captureNonce
  let s := (s.rsetField Reg.budState 20 2 r.bootSel.toNat).rset Reg.budTime r.micros
  { s with ltn := { s.ltn with keep := { s.ltn.keep with ready := false, bootSel := r.bootSel } } }

/-- What a cold bring-up clears: FFEV, the field-failure count, the tamper count and Keeper's HBM region with the load shadow and the
congestion maps (R391, R462, R478, R492, R520). -/
def State.coldClears (s : State) : State :=
  let s := ((s.rset Reg.secTamper 0).rset Reg.secEvent 0).rset Reg.budFfCount 0
  let s := (s.rsetBit Reg.budState 16 false).clearRange Mem.hbm 0x80000000
  { s with
    mem := { s.mem with shadow := [] }, fab := { s.fab with cmapHist := [] }
    ltn := { s.ltn with keep := { s.ltn.keep with ffev := false } } }

/-- The stacks after B3, or after the exit from self-refresh. -/
def State.stacksUp (s : State) : State :=
  s.forAll (List.range 4) (fun s h => (s.rsetBit (Reg.hbmStat h) 31 true).rsetBit (Reg.hbmStat h) 30 false)

/-- MAINT clears on every slice as the self-test ends (R340). -/
def State.maintEnds (s : State) : State := s.forAll (List.range 32) (fun s k => s.rsetBit (Reg.slcCfg k) 8 false)

/-- FFEV is 0 when a cold bring-up ends (log entry 32). -/
def State.ffevEnds (s : State) : State :=
  let s := s.rsetBit Reg.budState 16 false
  { s with ltn := { s.ltn with keep := { s.ltn.keep with ffev := false } } }

/-- The cold path (R468). -/
def State.coldPath (s : State) (r : BringupReport) : State :=
  let s := (s.release' r).coldClears
  if r.bootSel = 3 then s.bootStays 0 2
  else if s.fuses.keyKill then s.bootStays 7 2
  else if !s.bootOk r then s.bootReject 2
  else
    let s := s.booted r
    if !descOk r then s.bootStays 6 2
    else if !r.hbmOk then (s.described r).notReady 5
    else
      let s := (s.described r).stacksUp
      let cores := s.testFails false r.badCores r.badRows
      let slices := s.testFails true r.badSlices r.badRows
      let s := (((s.repairList r.badRows).layUnits false cores).layUnits true slices).maintEnds
      if !s.slicesWhole then (s.notReady 4).ffevEnds
      else ((s.lmapLoaded.trainLinks r).lastStages r).ffevEnds

/-- The fast path (R480). -/
def State.fastPath (s : State) (r : BringupReport) : State :=
  let s := s.release' r
  if s.fuses.keyKill then s.bootStays 7 9
  else if !s.bootOk r then s.bootReject 9
  else
    let s := s.booted r
    if !descOk r then s.bootStays 6 9
    else
      let s := ((s.described r).rsetBit Reg.budState 25 true).stacksUp.reloadMap.maintEnds
      ((s.lmapLoaded.retrainLinks r).lastStages r)

/-- COLD_BRINGUP: unless the fast path holds, which then is the path taken (R479). -/
def State.coldBringup (s : State) (r : BringupReport) : State :=
  if !s.released || s.fastOk r then s else s.coldPath r

/-- WARM_FAST_PATH: where its conditions fail the cold path is taken (R479). -/
def State.warmFastPath (s : State) (r : BringupReport) : State :=
  if !s.released then s else if s.fastOk r then s.fastPath r else s.coldPath r

def execColdBringup (r : BringupReport) (s : State) : Result := live s fun s => s.coldBringup r
def execWarmFastPath (r : BringupReport) (s : State) : Result := live s fun s => s.warmFastPath r

end Sys2Proof.Machine
end

