-- ==== Sys2Proof/Machine/Registers.lean ====
section
/-! DEFINITION. Machine/Registers.lean: host accesses to the management registers (R13-R18): what a register shows, what a read does
besides, and what a write does, with the checks each chapter gives. -/

namespace Sys2Proof.Machine

/-! ## Values that the state gives (R87-R539, the registers' own rules) -/

/-- The instance and the offset in it of an address in an indexed set. -/
def setOf (a base stride : Nat) : Nat × Nat := ((a - base) / stride, (a - base) % stride)

/-- Flags of a word. -/
def flag (b : Bool) (i : Nat) : Nat := if b then 2 ^ i else 0

/-- The next CSEQ a stream issues, and that of its oldest outstanding command (R301). -/
def State.nextCseq (s : State) (n : Nat) : Word64 := match (s.strm n).held with | [] => (s.strm n).cseq | x :: _ => x.1
def State.oldestCseq (s : State) (n : Nat) : Word64 := match (s.strm n).outst with | [] => s.nextCseq n | o :: _ => o.cseq

/-- The highest ramp level in force in any core (R436). -/
def State.rampNow (s : State) : Nat := (s.cmd.bindings.map (fun p => p.2.rampAt (aclkOf s.tmr.tb.toNat))).foldl max 0

/-- Long values that the state gives (R16, R50), by the address of the _LO register. -/
def State.longView (s : State) (a : Nat) : Option Nat :=
  if 0x10400 ≤ a ∧ a < 0x10800 ∧ a % 0x10 = 4 then
    let x := s.bnd (setOf a 0x10400 0x10).1
    some (if x.valid then x.mask.toNat else 0)
  else if 0x11000 ≤ a ∧ a < 0x12000 ∧ a % 0x40 = 0x10 then some (s.bnd (setOf a 0x11000 0x40).1).step.toNat
  else if 0x12000 ≤ a ∧ a < 0x14000 ∧ a % 0x20 = 4 then some (s.nextCseq (setOf a 0x12000 0x20).1).toNat
  else if 0x12000 ≤ a ∧ a < 0x14000 ∧ a % 0x20 = 0xC then some (s.oldestCseq (setOf a 0x12000 0x20).1).toNat
  else if 0xA00000 ≤ a ∧ a < 0xA20000 ∧ a % 0x20 = 0x10 then some (s.queueAt (setOf a 0xA00000 0x20).1).gen.toNat
  else if a = Reg.budDevidLo then some s.fuses.devid.toNat
  else none

/-- Registers of the size table (R8, R9). -/
def State.viewIdt (s : State) (a : Nat) : Word :=
  if a = Reg.idtPart then BitVec.ofNat 32 (0x04000001 + s.fuses.grade.toNat * 2 ^ 16 + s.fuses.stepping.toNat * 2 ^ 8)
  else if a = Reg.idtSzCores then BitVec.ofNat 32 s.nCores
  else if a = Reg.idtSzSpares then (if s.fuses.grade = 1 then 2 else 1)
  else if a = Reg.idtSzTdpW then BitVec.ofNat 32 (gradeTdp s.fuses.grade.toNat)
  else s.rget a

/-- Registers of the command engine (R46, R300, R301). -/
def State.viewCmd (s : State) (a : Nat) : Word :=
  if a < 0x11000 then
    let (b, o) := setOf a 0x10400 0x10
    let x := s.bnd b
    if o = 0 then BitVec.ofNat 32 (flag x.valid 31 + flag (x.valid && s.isLead b) 30 + flag (x.valid && s.isLead b && x.complete) 29 +
      flag x.halting 28 + (if x.valid then x.lead.toNat else 0) * 2 ^ 16 + x.queue.length)
    else s.rget a
  else if a < 0x12000 then
    let (b, o) := setOf a 0x11000 0x40
    if o = 0 then withBit (s.rget a) 16 (s.bnd b).running else s.rget a
  else
    let (n, o) := setOf a 0x12000 0x20
    let x := s.strm n
    if o = 0 then BitVec.ofNat 32 (flag x.bound 31 + flag x.frozen 30 + x.binding.toNat * 2 ^ 24 + x.lastStatus.toNat * 2 ^ 16 +
      x.lastOpcode.toNat * 2 ^ 8 + s.streamState n)
    else if o = 0x14 then BitVec.ofNat 32 (x.frzCause.toNat * 2 ^ 24 + x.frzOpcode.toNat * 2 ^ 16)
    else if o = 0x18 then BitVec.ofNat 32 x.outst.length
    else s.rget a

/-- Registers of a core (R89, R125, R126, R194, R196, R332). -/
def State.viewCore (s : State) (a : Nat) : Word :=
  let (n, o) := setOf a 0x100000 0x10000
  let c := s.cor n
  if 0x4000 ≤ o ∧ o < 0x5000 ∧ o % 0x20 = 0x14 then
    let t := s.slotAt n ((o - 0x4000) / 0x20)
    if t.valid then BitVec.ofNat 32 (2 ^ 31 + t.binding.toNat * 2 ^ 24 + t.pop * 2 ^ 16 + t.progLen) else 0
  else if 0x5100 ≤ o ∧ o < 0x5120 then
    let x := c.berth ((o - 0x5100) / 0x10)
    if o % 0x10 = 0 then BitVec.ofNat 32 (x.lines.toNat * 2 ^ 16 + x.base.toNat)
    else if o % 0x10 = 4 then BitVec.ofNat 32 (x.state.toNat * 2 ^ 8 + x.matrix.toNat)
    else if o % 0x10 = 8 then BitVec.ofNat 32 x.first.toNat else BitVec.ofNat 32 x.last.toNat
  else if 0x5400 ≤ o ∧ o < 0x5800 then
    let d := s.mat n ((o - 0x5400) / 4)
    let v := if d.valid then flag true 31 + flag d.streamed 30 + d.binding * 2 ^ 24 + unsigned 7 d.accExp * 2 ^ 17 + d.fmt * 2 ^ 8 else 0
    BitVec.ofNat 32 (v + fieldOf (s.rget a) 0 5)
  else if o = 0x7000 then withBit (s.rget a) 2 ((s.ctxsOf c.binding.toNat).any (fun p => p.2.onCore n && p.2.gated))
  else if 0x7400 ≤ o ∧ o < 0x7800 then
    let p := (n, (o - 0x7400) / 4)
    let r := s.rule p.1 p.2
    let w := withBit (withBit (s.rget a) 31 r.valid) 30 (r.valid && r.overlap)
    if r.valid && s.ruleState p = 0 && (s.memberCtxs p).any (fun c => s.atGate p c.2) then withField w 27 2 1 else w
  else if o = 0x9000 then BitVec.ofNat 32 (flag (s.rbit a 31) 31 + flag (4096 ≤ c.msgs.length) 30 + c.msgs.length)
  else if 0x9004 ≤ o ∧ o < 0x9014 then (c.msgs.headD []).getD ((o - 0x9004) / 4) 0
  else s.rget a

/-- Registers of a slice (R360). -/
def State.viewSlc (s : State) (a : Nat) : Word :=
  let (k, o) := setOf a 0x300000 0x1000
  if o = 0 then
    let owned := ((List.range 4).map (fun i => flag (s.bankOwner (4 * k + i)).isSome (16 + i))).sum
    BitVec.ofNat 32 (flag (28 ≤ k) 31 + s.physSlice k * 2 ^ 24 + owned + fieldOf (s.rget a) 0 9)
  else s.rget a

/-- Registers of the fabric (R230, R393, R394). -/
def State.viewFab (s : State) (a : Nat) : Word :=
  if a = Reg.fabRetUsed then BitVec.ofNat 32 s.retained
  else if a = Reg.fabRtrSramFree then BitVec.ofNat 32 (2048 - s.sramUsed)
  else if a = Reg.fabRtrSpillRsv then BitVec.ofNat 32 s.spillReserved
  else if a = Reg.fabRtrSpillUsed then BitVec.ofNat 32 s.spillUsed
  else if 0x602000 ≤ a ∧ a < 0x604000 ∧ a % 0x20 = 0 then
    let c := (a - 0x602000) / 0x20
    withField (withBit (s.rget a) 31 (s.circState c = 1)) 24 6 (s.circ c).binding.toNat
  else s.rget a

/-- Whether the converter engine works: taps wait in its buffer, a decode is due, an encode can be made or records
of one are to be emitted (R255). -/
def State.cnvActive (s : State) : Bool :=
  !s.cnv.taps.isEmpty || s.cnv.insts.any (fun p => p.2.due.isSome) ||
  s.cnv.chans.any (fun c => (s.chanCtxs c.1).any (fun p =>
    let x := s.inst c.1 p.2.cidx.toNat
    (x.left ≠ [] && !c.2.frozen) || (s.mayEncode c.1 p && (!x.waiting || x.slots.any (fun e => e.2.1 = p.2.cstep)))))

/-- Registers of the converters (R255, R257); an ACT entry shows what was written last (R256). -/
def State.viewCnv (s : State) (a : Nat) : Word :=
  if 0x802000 ≤ a then
    let h := (a - 0x802000) / 4
    let c := s.chan h
    let v := if c.valid then flag true 31 + flag c.dec 30 + c.binding.toNat * 2 ^ 24 else 0
    BitVec.ofNat 32 (v + flag c.frozen 23 + fieldOf (s.rget a) 21 2 * 2 ^ 21 + fieldOf (s.rget a) 0 5)
  else if 0x800400 ≤ a then
    let (f, o) := setOf a 0x800400 0x10
    (if o = 0 then (s.act f).cfgNext else (s.act f).leadNext).getD (s.rget a)
  else if a = Reg.cnvStatus then withBit (s.rget a) 0 s.cnvActive
  else s.rget a

/-- Registers of the queue unit (R330, R331); OPEN stays set while the queue is OPENING (R17). -/
def State.viewMq (s : State) (a : Nat) : Word :=
  if a < 0xA20000 then
    let (q, o) := setOf a 0xA00000 0x20
    let x := s.queueAt q
    if o = 0xC then BitVec.ofNat 32 (x.state.toNat * 2 ^ 30 + x.binding.toNat * 2 ^ 24 + flag x.refused 8 + x.cause.toNat * 4 +
      flag (x.state = 1) 0)
    else if o = 0x18 then BitVec.ofNat 32 x.fill
    else s.rget a
  else if a = Reg.mqOpening then BitVec.ofNat 32 (s.syn.queues.filter (fun p => p.2.state = 1)).length
  else s.rget a

/-- Registers of the governor (R427, R442, R443). -/
def State.viewPgv (s : State) (a : Nat) : Word :=
  if a = Reg.pgvHint then BitVec.ofNat 32 (s.gov.hints.filter s.hintActive).length
  else if a = Reg.pgvLevel then withField (s.rget a) 0 6 s.rampNow
  else if 0xB00100 ≤ a ∧ a < 0xB00120 then (if s.governed then 0x4000 else s.rget a)
  else if 0xB01000 ≤ a then BitVec.ofNat 32 (Config.coef ((a - 0xB01000) / 4))
  else s.rget a

/-- The word of a bit set that holds sources 32 w to 32 w + 31. -/
def irqWord (x : BitVec 512) (w : Nat) : Word := BitVec.ofNat 32 (x.toNat / 2 ^ (32 * w))

/-- Registers of the interrupt controller (R499). -/
def State.viewIrq (s : State) (a : Nat) : Word :=
  let (w, _) := setOf (a - 0xD00000) 0 4
  if a < 0xD00040 then irqWord (s.irq.raw &&& s.irq.en) w
  else if a < 0xD00080 then irqWord s.irq.en (w - 16)
  else if 0xD000C0 ≤ a ∧ a < 0xD00100 then irqWord s.irq.active (w - 48)
  else s.rget a

/-- Registers of the timers (R502, R510). -/
def State.viewTmr (s : State) (a : Nat) : Word :=
  if a = Reg.tmrTbLo then BitVec.ofNat 32 s.tmr.tb.toNat
  else if a = Reg.tmrTbHi then BitVec.ofNat 32 (s.tmr.tb.toNat / 2 ^ 32)
  else if 0xE01000 ≤ a ∧ a % 0x20 = 0 then
    let t := s.timer ((a - 0xE01000) / 0x20)
    withBit (withField (s.rget a) 24 6 t.binding.toNat) 23 t.bound
  else s.rget a

/-- Registers of the Ethernet block as written, a write that waits for a cycle start included; a word of the 802.1AE table whose SA is installed
shows that SA's state (R422). -/
def State.viewEth (s : State) (a : Nat) : Word :=
  let off := (a - 0x703000) % 0x800
  let sa := if 0x703000 ≤ a ∧ a < 0x704000 ∧ 0x620 ≤ off ∧ off < 0x6A0 then
      (Tab.get (fun _ => []) s.sec.sas ((a - 0x703000) / 0x800 * 2 + (off - 0x620) / 64))[(off - 0x620) / 32 % 2]? else none
  match sa with
  | some x => Config.saWord x.an x.ssci ((off - 0x620) / 4 % 8)
  | none => Tab.get s.rget s.eth.gclNext a

/-- What a register shows. A register that is wo has no stored bits, so it shows 0; IRQ_CLAIM shows 0 to the host (R17, R498). -/
def State.view (s : State) (a : Nat) : Word :=
  match s.longView a with
  | some x => BitVec.ofNat 32 x
  | none =>
    if a < 0x10000 then s.viewIdt a
    else if a < 0x100000 then s.viewCmd a
    else if a < 0x300000 then s.viewCore a
    else if a < 0x400000 then s.viewSlc a
    else if a < 0x500000 then
      (if 0x400300 ≤ a then BitVec.ofNat 32 (s.portRsv true ((a - 0x400300) / 4) * 2 ^ 8 + s.portRsv false ((a - 0x400300) / 4)) else s.rget a)
    else if a < 0x600000 then s.rget a
    else if a < 0x700000 then s.viewFab a
    else if a < 0x800000 then s.viewEth a
    else if a < 0x900000 then s.viewCnv a
    else if a < 0xA00000 then (if 0x910000 ≤ a then BitVec.ofNat 32 (s.buoy ((a - 0x910000) / 4)).toNat else s.rget a)
    else if a < 0xB00000 then s.viewMq a
    else if a < 0xC00000 then s.viewPgv a
    else if a = Reg.ltnPsstat then withField (withField (s.rget a) 0 3 s.psState) 4 3 s.ltn.stage.toNat
    else if a = Reg.ltnLoad then BitVec.ofNat 32 s.ltnLoad
    else if a < 0xD00000 then s.rget a
    else if a < 0xE00000 then s.viewIrq a
    else if a < 0xF00000 then s.viewTmr a
    else if a = Reg.secStatus then s.secStatus
    else s.rget a

/-! ## Reads (R15, R17, R50) -/

/-- Whether an address names a register of this device (R14, R15). -/
def State.assigned (s : State) (a : Nat) : Bool :=
  a % 4 = 0 && (regRow a).isSome && (!(decide (0x100000 ≤ a) && decide (a < 0x200000)) || s.corePresent ((a - 0x100000) / 0x10000))

/-- An access to a register of a core opens the core's clock (R446). -/
def State.openClock (s : State) (a : Nat) : State :=
  if 0x100000 ≤ a ∧ a < 0x200000 then s.clockUngate (s.physCore ((a - 0x100000) / 0x10000)) else s

/-- A read of a _LO register captures the high part. -/
def State.captureHi (s : State) (a : Nat) : State :=
  match s.longView a with
  | some x => s.rset (a + 4) (BitVec.ofNat 32 (x / 2 ^ 32))
  | none =>
    if a = Reg.ethGclBaseLo 0 ∨ a = Reg.ethGclBaseLo 1 then s
    else s.rset (a + 4) (Tab.get (fun _ => (0 : Word)) s.reg.live a)

/-- A host read (R15-R17, R50): the state after, the value and the status. An rc register clears. -/
def State.regRead (s : State) (a : Nat) : State × Word × Byte :=
  if !s.assigned a then (s, 0, St.badOperand)
  else
    let s := s.openClock a
    let s := if a = Reg.secNonce 0 then s.captureNonce else s
    let v := s.view a
    match regRow a with
    | none => (s, v, St.ok)
    | some r =>
      let s := if r.cap then s.captureHi a else s
      (if r.rc then s.rset a 0 else s, v, St.ok)

/-! ## Plain writes (R17, R18) -/

/-- Fields with reserved encodings (R18): their place, and whether a value may be written. -/
def fieldChecks (a : Nat) : List (Nat × Nat × (Nat → Bool)) :=
  let within := fun (lo hi x : Nat) => decide (lo ≤ x) && decide (x ≤ hi)
  if a = Reg.xbrArb ∨ a = Reg.fabArb then [(0, 4, within 1 8), (4, 4, within 1 8)]
  else if a = Reg.xbrScrub then [(0, 16, within 1 65535), (16, 16, within 1 65535)]
  else if a = Reg.pgvCtrl then [(16, 6, within 0 48)]
  else if a = Reg.pgvCap then [(0, 9, within 120 480)]
  else if a = Reg.pgvTlim then [(0, 8, within 70 105), (8, 8, within 70 95), (16, 8, within 70 110)]
  else if a = Reg.ethPortCfg 0 ∨ a = Reg.ethPortCfg 1 then [(0, 4, fun x => within 0 5 x || x = 7)]
  else if a = Reg.ethGclCycle 0 ∨ a = Reg.ethGclCycle 1 then [(0, 30, within 1000 1000000000)]
  else if a = Reg.ethGclLen 0 ∨ a = Reg.ethGclLen 1 then [(0, 9, within 0 256)]
  else if a = Reg.ethTpRto then [(0, 16, within 10 65535)]
  else if a = Reg.ltnWakeen then [(0, 2, within 0 2), (2, 2, within 0 2)]
  else if a = Reg.ltnWkwin ∨ a = Reg.ltnPgtmo then [(0, 8, within 1 255)]
  else if 0xC00100 ≤ a ∧ a < 0xC00180 then [(0, 9, within 1 510)]
  else if a = Reg.ptbStretch then [(24, 8, within 1 255)]
  else if a = Reg.ptbArb then [(0, 7, within 0 113)]
  else if 0x602000 ≤ a ∧ a < 0x604000 ∧ a % 0x20 = 0 then [(16, 6, within 1 48), (8, 4, within 1 12), (0, 3, within 0 4)]
  else if a = Reg.ptbHbmref then [(16, 16, within 1 65535)]
  else if 0xA00000 ≤ a ∧ a < 0xA20000 ∧ a % 0x20 = 4 then [(0, 4, within 0 11)]
  else []

/-- The bits of a write's value that take their places: a field whose encoding is reserved keeps its old bits. -/
def acceptBits (a : Nat) (old v : Word) : Word × Bool :=
  (fieldChecks a).foldl (fun p c =>
    if c.2.2 (fieldOf v c.1 c.2.1) then p else (withField p.1 c.1 c.2.1 (fieldOf old c.1 c.2.1), false)) (v, true)

/-- A write by the access codes of R17: rw bits take the value, w1c bits that are 1 clear, all others are ignored. -/
def writeBits (r : RegRow) (old v : Word) : Word := ((old &&& ~~~r.rw) ||| (v &&& r.rw)) &&& ~~~(v &&& r.w1c)

/-- A write to a register with no behaviour of its own; a cleared flag may withdraw a raise (R494). -/
def State.plainWrite (s : State) (r : RegRow) (a : Nat) (v : Word) : State × Byte :=
  let (w, ok) := acceptBits a (s.rget a) v
  let s := s.rset a (writeBits r (s.rget a) w)
  (if r.w1c = 0 then s else s.forAll (s.sourcesOf a) State.maybeWithdraw, need ok)

/-! ## Writes with checks of their own -/

/-- A write of MODE and OVERRUN_LIMIT (0), STEP_LEN (1), LOCK_PERIOD (2) or LOCK_PHASE (3) (R46-R49). A reserved MODE or limit leaves
that field unchanged (R18). -/
def State.stepConfig (s : State) (b which : Nat) (v : Word) : State × Byte :=
  let x := v.toNat
  let modeOk := which ≠ 0 || decide (fieldOf v 0 2 ≤ 1)
  let limOk := which ≠ 0 || fieldOf v 8 8 ≠ 0
  let mode := if which = 0 && modeOk then fieldOf v 0 2 else s.regMode b
  let len := if which = 1 then x else s.regLen b
  let period := if which = 2 then x else s.regPeriod b
  let phase := if which = 3 then x else s.regPhase b
  let ok := mode ≤ 1 && 15000 ≤ len && len ≤ 750000000 && 20000 ≤ period && period ≤ 1000000000 &&
    phase < period && (mode ≠ 1 || len * 4 ≤ period * 3)
  let a := if which = 0 then Reg.cmdStepCtrl b else if which = 1 then Reg.cmdStepLen b else if which = 2 then Reg.cmdStepLockPeriod b
    else Reg.cmdStepLockPhase b
  let lim := if limOk then fieldOf v 8 8 else s.rfield a 8 8
  if !ok then (s, St.badOperand)
  else if which = 0 then (s.rset a (BitVec.ofNat 32 (lim * 2 ^ 8 + mode)), need (modeOk && limOk))
  else (s.rset a v, St.ok)

/-- A write to an ACT frame entry (R256): in force at once, with what still waited, or after the next opening of the entry in force. -/
def State.actWrite (s : State) (f : Nat) (lead : Bool) (v : Word) : State × Byte :=
  let e := s.act f
  let v := v &&& (if lead then 0xFF0FFFFF else 0xFF03FFFF)
  let cfg := if lead then e.cfgNext.getD (s.rget (Reg.cnvActCfg f)) else v
  let ld := if lead then v else e.leadNext.getD (s.rget (Reg.cnvActLead f))
  if 255 ≤ f || !s.actOk f cfg ld then (s, St.badOperand)
  else if s.actPending f then (s.setAct f (if lead then { e with leadNext := some v } else { e with cfgNext := some v }), St.ok)
  else ((s.actForce f).rset (if lead then Reg.cnvActLead f else Reg.cnvActCfg f) v, St.ok)

/-- A port loses its link. -/
def State.portDown (s : State) (p : Nat) : State := (s.rsetBit (Reg.ethPortStat p) 31 false).rsetField (Reg.ethPortStat p) 0 4 0

/-- A write to MODE starts the retraining of the port's link (R419): it is down until that ends. A reserved MODE changes nothing. -/
def State.portMode (s : State) (p mode : Nat) : State × Byte :=
  if mode ≤ 5 ∨ mode = 7 then ((s.rsetField (Reg.ethPortCfg p) 0 4 mode).portDown p, St.ok) else (s, St.badOperand)

/-- A write to a circuit's register 0, 1 or 2 (R385, R394): a reserved SLOTS, XSLOTS or NHOP leaves that field unchanged (R18). -/
def State.circWrite (s : State) (c which : Nat) (v : Word) : State × Byte :=
  if !s.circOpen c then (s, St.badOperand)
  else if which = 0 then
    let (w, ok) := acceptBits (Reg.fabCircCfg0 c) (s.rget (Reg.fabCircCfg0 c)) v
    let s := s.rset (Reg.fabCircCfg0 c) (w &&& 0x403F0F07)
    let (s, st) := if bitOf v 31 then s.circuitArm c else (s, St.ok)
    (s, worse (need ok) st)
  else if which = 1 then (s.rset (Reg.fabCircCfg1 c) (v &&& 0x3F7F007F), St.ok)
  else (s.rset (Reg.fabCircCfg2 c) (v &&& 0xFFFFF), St.ok)

/-- A write to the control register of a queue (R319, R325, R330): REFUSED clears, CLOSE closes, OPEN opens. -/
def State.queueCtrl (s : State) (q : Nat) (v : Word) : State × Byte :=
  let s := if bitOf v 8 then s.setQueue q { s.queueAt q with refused := false } else s
  let s := if bitOf v 1 then s.queueClose q 1 else s
  if bitOf v 0 then s.queueOpen q else (s, St.ok)

/-- A write to a register of a timer's set (R506-R509). -/
def State.timerReg (s : State) (a : Nat) (v : Word) (r : RegRow) : State × Byte :=
  let (n, o) := setOf a 0xE01000 0x20
  if !s.timerOpen n then (s, St.notBound)
  else if o = 0 then s.timerCtrl n v
  else if o = 4 then s.timerCount n v
  else if o = 8 then s.timerValue n 0 v
  else if o = 0xC then s.timerValue n 1 v
  else if o = 0x10 then s.timerValue n 2 v
  else s.plainWrite r a v

/-- A write of REQ (R447, R448). Through REGWR the gate device itself knows of every other device: none is READY any more. -/
def State.psctrl (s : State) (v : Word) : State × Byte :=
  let req := fieldOf v 0 2
  if req = 0 then s.reqRun else if req = 2 then s.reqDoze
  else if req = 3 then s.reqSleep (s.sys.ready.all (fun d => d = s.sys.myDev.toNat)) else (s, St.badOperand)

/-- Writes to the Ethernet block: gate control lists and tables wait for the next cycle start (R419, R420, R422). -/
def State.ethWrite (s : State) (r : RegRow) (a : Nat) (v : Word) : State × Byte :=
  if a = Reg.ethPortCfg 0 ∨ a = Reg.ethPortCfg 1 then
    let (s, st) := s.plainWrite r a v
    (if st = St.ok then s.portDown ((a - 0x700000) / 0x100) else s, st)
  else if (a < 0x700200 ∧ 0xC ≤ a % 0x100 ∧ a % 0x100 < 0x1C) ∨ 0x701000 ≤ a then
    let old := Tab.get s.rget s.eth.gclNext a
    let (w, ok) := acceptBits a old v
    if 0x703000 ≤ a ∧ v ≠ 0 ∧ Config.tableReserved (a % 0x800) v then (s, St.badOperand)
    else ({ s with eth := { s.eth with gclNext := Tab.set s.rget s.eth.gclNext a (writeBits r old w) } }, need ok)
  else s.plainWrite r a v

/-- A write to the perturbation block: only at a granted debug level (R533); what is active follows (R537). -/
def State.ptbWrite (s : State) (r : RegRow) (a : Nat) (v : Word) : State × Byte :=
  if s.sec.dbg = 1 ∨ s.sec.dbg = 2 then
    let (s, st) := s.plainWrite r a v
    (s.ptbUpdate, st)
  else (s, St.notBound)

/-- A write to PGV_CTRL whose P0 to P2 name no order of the classes changes nothing (R442). -/
def State.pgvCtrlWrite (s : State) (r : RegRow) (v : Word) : State × Byte :=
  let p := [fieldOf v 0 2, fieldOf v 2 2, fieldOf v 4 2]
  if p.Nodup ∧ p.all (fun x => decide (x < 3)) then s.plainWrite r Reg.pgvCtrl v else (s, St.badOperand)

/-- Sources that IRQ_FWD words may forward (R499). -/
def fwdMask (w : Nat) : Word := BitVec.ofNat 32 (((List.range 32).map (fun i => flag (irqAssigned (32 * w + i)) i)).sum)

/-- The write effects of the Lantern, interrupt, timer and perturbation registers and of every plain register. -/
def State.writeRest (s : State) (r : RegRow) (a : Nat) (v : Word) : State × Byte :=
  if a = Reg.ltnPsctrl then s.psctrl v
  else if a = Reg.ltnFwakeSend then s.fwakeSend (fieldOf v 0 18)
  else if 0xD00080 ≤ a ∧ a < 0xD000C0 then (s.rset a (v &&& fwdMask ((a - 0xD00080) / 4)), St.ok)
  else if a = Reg.tmrGstart then s.timerGroup v State.timerStart
  else if a = Reg.tmrGstop then s.timerGroup v State.timerStop
  else if 0xE01000 ≤ a ∧ a < 0xE01400 then s.timerReg a v r
  else if 0x1000000 ≤ a then s.ptbWrite r a v
  else s.plainWrite r a v

/-- The write effects of the Ethernet, ACT, queue and governor registers, and the rest. -/
def State.writeUnits (s : State) (r : RegRow) (a : Nat) (v : Word) : State × Byte :=
  if 0x700000 ≤ a ∧ a < 0x800000 then s.ethWrite r a v
  else if 0x800400 ≤ a ∧ a < 0x802000 then s.actWrite (setOf a 0x800400 0x10).1 (a % 0x10 = 4) v
  else if 0xA00000 ≤ a ∧ a < 0xA20000 ∧ a % 0x20 = 0xC then s.queueCtrl ((a - 0xA00000) / 0x20) v
  else if 0xA00000 ≤ a ∧ a < 0xA20000 ∧ a % 0x20 < 0xC then
    (if (s.queueAt ((a - 0xA00000) / 0x20)).state = 0 then s.plainWrite r a v else (s, St.badOperand))
  else if a = Reg.pgvCtrl then s.pgvCtrlWrite r v
  else s.writeRest r a v

/-- The effect of a host write to an assigned register (R17), by the register. -/
def State.writeEffect (s : State) (r : RegRow) (a : Nat) (v : Word) : State × Byte :=
  if r.keeper then (s, St.notBound)
  else if 0x11000 ≤ a ∧ a < 0x12000 ∧ a % 0x40 < 0x10 then s.stepConfig (setOf a 0x11000 0x40).1 (a % 0x40 / 4) v
  else if 0x100000 ≤ a ∧ a < 0x200000 ∧ a % 0x10000 = 0x9014 then
    (if bitOf v 0 then s.inboxPop ((a - 0x100000) / 0x10000) else s, St.ok)
  else if 0x300000 ≤ a ∧ a < 0x320000 ∧ a % 0x1000 = 0 then
    let k := (a - 0x300000) / 0x1000
    let bound := (List.range 4).any (fun i => (s.bankOwner (4 * k + i)).isSome)
    let m := fieldOf v 0 2
    if bound || 2 ≤ m || (28 ≤ k && m ≠ 0) then (s, St.badOperand) else (s.rsetField a 0 2 m, St.ok)
  else if 0x600000 ≤ a ∧ a < 0x601200 ∧ a % 0x100 = 4 then s.linkDisable ((a - 0x600000) / 0x100) (bitOf v 0)
  else if a = Reg.fabRetire then (if bitOf v 0 then s.retireReq else (s, St.ok))
  else if 0x602000 ≤ a ∧ a < 0x604000 ∧ a % 0x20 < 0xC then s.circWrite ((a - 0x602000) / 0x20) (a % 0x20 / 4) v
  else s.writeUnits r a v

/-- A host write (R15, R17): the state after and the status. Any address of the SEC or BUD block is NOT_BOUND, which ranks above
BAD_OPERAND (R20, R410). -/
def State.regWrite (s : State) (a : Nat) (v : Word) : State × Byte :=
  if 0xF00000 ≤ a ∧ a < 0x1000000 ∨ 0x1100000 ≤ a ∧ a < 0x1200000 then (s, St.notBound)
  else if !s.assigned a then (s, St.badOperand)
  else match regRow a with
  | none => (s, St.badOperand)
  | some r => (s.openClock a).writeEffect r a v

/-! ## Accesses (R409) -/

/-- Whether the management bus runs: the device is powered and its logic is released. -/
def State.awake (s : State) : Bool := s.ltn.power = .run || s.ltn.power = .doze

/-- Reads in entry order: the state after and the entries of the reply. -/
def State.readAll (s : State) : List Word → State × List (Word × Word × Byte)
  | [] => (s, [])
  | a :: r =>
    let (s, v, st) := s.regRead a.toNat
    let (s, l) := State.readAll s r
    (s, (a, v, st) :: l)

/-- Writes in entry order. -/
def State.writeAll (s : State) : List (Word × Word) → State × List (Word × Word × Byte)
  | [] => (s, [])
  | x :: r =>
    let (s, st) := s.regWrite x.1.toNat x.2
    let (s, l) := State.writeAll s r
    (s, (x.1, 0, st) :: l)

/-- REGRD: 1 to 64 addresses, one reply. -/
def State.regrd (s : State) (l : List Word) : State :=
  if !s.awake || l = [] || 64 < l.length then s else (s.readAll l).1.toHost 1 0 1 (.mgmtReply true (s.readAll l).2)
/-- REGWR: 1 to 64 entries, one reply. -/
def State.regwr (s : State) (l : List (Word × Word)) : State :=
  if !s.awake || l = [] || 64 < l.length then s else (s.writeAll l).1.toHost 1 0 1 (.mgmtReply false (s.writeAll l).2)

/-- LO_READ_CAPTURE: a read of a _LO register, or of SEC_NONCE[0] (R50, R531). -/
def State.loRead (s : State) (a : Word) : State :=
  if ((regRow a.toNat).any (fun r => r.cap)) || a.toNat = Reg.secNonce 0 then s.regrd [a] else s
/-- READ_CLEAR: a read of an rc register (R17). -/
def State.readClear (s : State) (a : Word) : State := if (regRow a.toNat).any (fun r => r.rc) then s.regrd [a] else s

def execRegrd (addrs : List Word) (s : State) : Result := live s fun s => s.regrd addrs
def execRegwr (writes : List (Word × Word)) (s : State) : Result := live s fun s => s.regwr writes
def execRegisterWrite (addr value : Word) (s : State) : Result := live s fun s => s.regwr [(addr, value)]
def execLoReadCapture (addr : Word) (s : State) : Result := live s fun s => s.loRead addr
def execReadClear (addr : Word) (s : State) : Result := live s fun s => s.readClear addr
def execStepConfigWrite (b : BitVec 6) (which : BitVec 2) (value : Word) (s : State) : Result :=
  live s fun s => replied (0x11000 + b.toNat * 0x40 + which.toNat * 4) (s.stepConfig b.toNat which.toNat value)
def execActCfgWrite (f : BitVec 8) (lead : Bool) (value : Word) (s : State) : Result :=
  live s fun s => replied (if lead then Reg.cnvActLead f.toNat else Reg.cnvActCfg f.toNat) (s.actWrite f.toNat lead value)
def execPortModeWrite (port : BitVec 1) (mode : BitVec 4) (s : State) : Result :=
  live s fun s => replied (Reg.ethPortCfg port.toNat) (s.portMode port.toNat mode.toNat)

end Sys2Proof.Machine
end

