-- ==== Sys2Proof/Machine/Wire.lean ====
section
/-! DEFINITION. Machine/Wire.lean: the words of a command frame and the bytes of management frames (R259, R260, R273, R274, R407,
R409). Every field of an Ethernet frame is most significant byte first. -/

namespace Sys2Proof.Machine

/-- Bits [lo + n − 1 : lo] of a command word. -/
def wbits (w : Word64) (lo n : Nat) : Nat := w.toNat / 2 ^ lo % 2 ^ n
/-- Those bits as a field of `n` bits. -/
def wfield (w : Word64) (lo n : Nat) : BitVec n := BitVec.ofNat n (wbits w lo n)
def wbit (w : Word64) (i : Nat) : Bool := w.getLsbD i

/-- The fields that R274 lists, as (lowest bit, width), word by word; every other bit is reserved. A memory reference and the words of
BIND are whole words here: R264 and R277 say what they reserve. -/
def layout (op : Nat) : List (List (Nat × Nat)) :=
  let all := [(0, 64)]
  match op with
  | 0x01 => [[(44, 4), (18, 19), (0, 18)], all, all, all]
  | 0x02 => [[(44, 4), (18, 19), (0, 18)]]
  | 0x03 => [[(18, 19), (0, 18)], all, [(0, 32)]]
  | 0x04 => [[(18, 19), (0, 18)], [(18, 2), (32, 32)], [(0, 48)]]
  | 0x05 => [[(0, 48)], all, [(0, 38)]]
  | 0x10 => [[(32, 10), (24, 6), (0, 24)], all]
  | 0x11 => [[(32, 10), (0, 8)], all, all, all, all, all, [(0, 17), (17, 17)]]
  | 0x12 => [[(32, 10), (24, 6), (0, 17)], all, [(0, 17), (17, 17)]]
  | 0x13 => [[(32, 10), (0, 8)], all]
  | 0x21 => [[(0, 32)]]
  | 0x23 => [[(24, 8), (0, 24)], [(0, 48)]]
  | 0x24 => [[(0, 8)]]
  | 0x25 => [[(32, 10), (24, 8), (16, 8), (0, 1)], [(0, 48)], [(0, 48)], [(0, 14), (16, 14)]]
  | 0x30 => [[(44, 4), (40, 4), (18, 19), (0, 18)], all, all, [(0, 38), (40, 8), (48, 1)]]
  | 0x40 => [[(42, 6), (16, 16), (0, 16)]]
  | 0x41 => [[(42, 6), (16, 1), (0, 16)], all]
  | 0x42 => [[(42, 6), (32, 10), (16, 1), (0, 16)], all, all]
  | 0x43 => [[(42, 6), (16, 16), (0, 16)]]
  | 0x44 => [[(42, 6), (0, 16)], [(32, 32)]]
  | 0x50 => [[(42, 6), (32, 2), (16, 16), (0, 12)], all, all, all, all]
  | 0x51 => [[(0, 12)], all, [(32, 32)]]
  | 0x60 => [[(18, 18), (0, 12)], all, [(0, 16), (16, 20), (36, 8)]]
  | 0x61 => [[(18, 18), (0, 12)], all, [(0, 19)]]
  | 0x62 => [[(0, 12)], all]
  | 0x70 => [[(0, 1)]]
  | 0x71 => [[(0, 1)], all]
  | 0x80 => [[(44, 4), (32, 12), (16, 16), (0, 16)]]
  | 0x90 => [[(0, 32)]]
  | _ => [[]]

/-- The word with only those fields. -/
def maskFields (l : List (Nat × Nat)) (w : Word64) : Nat := (l.map (fun f => wbits w f.1 f.2 * 2 ^ f.1)).sum

/-- Whether the reserved bits of a command's words are 0: those of word 0 below FLAGS and those of its further words. -/
def reservedClear (op : Nat) (w : Word64) (ws : List Word64) : Bool :=
  (((BitVec.ofNat 64 (wbits w 0 48)) :: ws).zip (layout op)).all (fun p => maskFields p.2 p.1 = p.1.toNat)

/-- The command that word 0 and the words after it spell (R259, R273, R274). Where a reserved bit is set or words are missing, its NW is
given as 7, which no opcode takes, so that it completes with BAD_OPERAND, as a reserved opcode then does (R20, R407, log entry 36). -/
def wireCmd (stream : BitVec 8) (w : Word64) (ws : List Word64) : Instr :=
  let op := wbits w 56 8
  let ok := !wbit w 48 && ws.length = wbits w 51 3 && reservedClear op w ws
  let h : Hdr := { stream := stream, quiet := wbit w 55, order := wbit w 54, nw := if ok then wfield w 51 3 else 7, ackp := wbit w 50, irq := wbit w 49 }
  let x := fun (i : Nat) => ws.getD (i - 1) 0
  match op with
  | 0x01 => .bind h (wfield w 44 4) (wfield w 18 19) (wfield w 0 18) (x 1) (x 2) (x 3)
  | 0x02 => .unbind h (wfield w 44 4) (wfield w 18 19) (wfield w 0 18)
  | 0x03 => .park h (wfield w 18 19) (wfield w 0 18) (x 1) (wfield (x 2) 0 32)
  | 0x04 => .unpark h (wfield w 18 19) (wfield w 0 18) (wfield (x 1) 18 2) (wfield (x 1) 32 32) (wfield (x 2) 0 48)
  | 0x05 => .snapshot h (wfield w 0 48) (x 1) (wfield (x 2) 0 38)
  | 0x10 => .loadprog h (wfield w 32 10) (wfield w 24 6) (wfield w 0 24) (x 1)
  | 0x11 => .loadmat h (wfield w 32 10) (wfield w 0 8) ([x 1, x 2, x 3, x 4].flatMap (fun y => [wfield y 0 32, wfield y 32 32])) (x 5)
      (wfield (x 6) 0 17) (wfield (x 6) 17 17)
  | 0x12 => .loadroute h (wfield w 32 10) (wfield w 24 6) (wfield w 0 17) (x 1) (wfield (x 2) 0 17) (wfield (x 2) 17 17)
  | 0x13 => .loadrule h (wfield w 32 10) (wfield w 0 8) (x 1)
  | 0x20 => .step h
  | 0x21 => .run h (wfield w 0 32)
  | 0x22 => .halt h
  | 0x23 => .epoch h (wfield w 24 8) (wfield w 0 24) (wfield (x 1) 0 48)
  | 0x24 => .apply h (wfield w 0 8)
  | 0x25 => .berth h (wfield w 32 10) (wfield w 24 8) (wfield w 16 8) (wfield w 0 1) (wfield (x 1) 0 48) (wfield (x 2) 0 48)
      (wfield (x 3) 0 14) (wfield (x 3) 16 14)
  | 0x30 => .copy h (wfield w 44 4) (wfield w 40 4) (wfield w 18 19) (wfield w 0 18) (x 1) (x 2) (wfield (x 3) 0 38) (wfield (x 3) 40 8)
      (wbit (x 3) 48)
  | 0x40 => .signal h (wfield w 42 6) (wfield w 16 16) (wfield w 0 16)
  | 0x41 => .wait h (wfield w 42 6) (wbit w 16) (wfield w 0 16) (wfield (x 1) 0 32) (wfield (x 1) 32 32)
  | 0x42 => .watch h (wfield w 42 6) (wfield w 32 10) (wbit w 16) (wfield w 0 16) (wfield (x 1) 0 32) (wfield (x 1) 32 32) (x 2)
  | 0x43 => .dec h (wfield w 42 6) (wfield w 16 16) (wfield w 0 16)
  | 0x44 => .take h (wfield w 42 6) (wfield w 0 16) (wfield (x 1) 32 32)
  | 0x50 => .send h (wfield w 42 6) (wfield w 32 2) (wfield w 16 16) (wfield w 0 12) ws
  | 0x51 => .recv h (wfield w 0 12) (x 1) (wfield (x 2) 32 32)
  | 0x60 => .encode h (wfield w 18 18) (wfield w 0 12) (x 1) (wfield (x 2) 0 16) (wfield (x 2) 16 20) (wfield (x 2) 36 8)
  | 0x61 => .decode h (wfield w 18 18) (wfield w 0 12) (x 1) (wfield (x 2) 0 19)
  | 0x62 => .chancfg h (wfield w 0 12) (x 1)
  | 0x70 => .fence h (wfield w 0 1)
  | 0x71 => .timestamp h (wfield w 0 1) (x 1)
  | 0x80 => .hint h (wfield w 44 4) (wfield w 32 12) (wfield w 16 16) (wfield w 0 16)
  | 0x90 => .note h (wfield w 0 32)
  | _ => .reservedOpcode h (wfield w 56 8) (!ok)

/-- The commands of a payload of words (R260, R407): each takes NW + 1 words; the last may be cut short. `n` bounds their number. -/
def wireCmds (stream : BitVec 8) : Nat → List Word64 → List Instr
  | 0, _ => []
  | _ + 1, [] => []
  | n + 1, w :: r => wireCmd stream w (r.take (wbits w 51 3)) :: wireCmds stream n (r.drop (wbits w 51 3))

/-- The numbers of `k` bytes each that a byte string holds, most significant byte first. -/
def beGroups (k : Nat) : Nat → List Byte → List Nat
  | 0, _ => []
  | n + 1, l => if l.length < k then [] else beNat (l.take k) :: beGroups k n (l.drop k)

/-- The addresses of a REGRD request (R409). -/
def wireAddrs (l : List Byte) : List Word := (beGroups 4 l.length l).map (BitVec.ofNat 32)
/-- The entries of a REGWR request (R409). -/
def wireWrites (l : List Byte) : List (Word × Word) :=
  (beGroups 8 l.length l).map (fun x => (BitVec.ofNat 32 (x / 2 ^ 32), BitVec.ofNat 32 x))

end Sys2Proof.Machine
end

