-- ==== Sys2Proof/Machine/Transport.lean ====
section
/-! DEFINITION. Machine/Transport.lean: the Ethernet ports and the command transport: sequence spaces, acknowledgements, re-sends,
delivery and forwarding, the gate device, notices, OBS and ACT frames (R397-R422). -/

namespace Sys2Proof.Machine

/-! ## What a frame is (R402, R403, R412, R413) -/

/-- Whether R402 lets a type come from the host in a space. -/
def typeLegal (type sp : Nat) : Bool :=
  match type with
  | 1 => sp = 0
  | 2 => sp = 0 || sp = 1
  | 4 => sp = 1
  | 5 => sp = 1
  | 6 => sp = 0 || sp = 1
  | 7 => sp = 2
  | 9 => sp = 2
  | _ => false

/-- Whether a frame's header is good (R402, R407). -/
def frameOk (f : TFrame) : Bool :=
  f.ver = 1 && typeLegal f.type.toNat f.space.toNat && f.len = f.payload.length &&
  (f.type ≠ 1 || f.payload.length % 8 = 0) && (f.type ≠ 6 || 8 ≤ f.payload.length)

/-- Whether the device serves a space (R412, R413): before READY its local management space alone; then the gate device every space of
every READY device. -/
def State.serves (s : State) (sp dev : Nat) : Bool :=
  if s.isReady then s.isGate && decide (sp < 2) && s.sys.ready.contains dev else sp = 1

/-- The space of a frame: in the local management space DEVICE counts for nothing (R413). -/
def State.keyOf (s : State) (sp dev stream : Nat) : Nat :=
  spaceKey sp (if s.isReady then dev else 0) (if sp = 0 then stream else 0)

/-- Whether a port takes a frame: its link is up and the logic runs (R416). -/
def State.portTakes (s : State) (p : Nat) : Bool := s.awake && s.rbit (Reg.ethPortStat p) 31
/-- The SAs of a port's channel: direction 0 transmit, 1 receive (R522). -/
def State.portSas (s : State) (p dir : Nat) : List Sa := Tab.get (fun _ => []) s.sec.sas (p * 2 + dir)
def State.badHdr (s : State) : State := s.count Reg.ethTpBadhdr 1

/-- Words of a table of R422 of a port. -/
def State.portTable (s : State) (p off n : Nat) : List Word := (List.range n).map (fun i => s.rget (0x703000 + p * 0x800 + off + 4 * i))
/-- Whether every word of a table is 0, as at reset. -/
def State.tableClear (s : State) (p off n : Nat) : Bool :=
  let a := 0x703000 + p * 0x800 + off
  s.reg.vals.all (fun e => e.1 < a || a + 4 * n ≤ e.1 || e.2 = 0)
/-- Whether a port's 802.1Qci filters, gates and meters pass a frame (R398, R422; log entry 72). -/
def State.qciPasses (s : State) (p : Nat) (h : EthHead) : Bool :=
  s.tableClear p 0 384 || Config.qciPasses (s.portTable p 0 384) h s.tmr.tb.toNat
/-- Whether a frame is a transport frame (R401): the VID of ETH_TP_CFG, and its EtherType or in UDP mode its UDP port. -/
def State.isTransport (s : State) (h : EthHead) : Bool :=
  h.vid = some (BitVec.ofNat 12 (s.rfield Reg.ethTpCfg 4 12)) &&
  (if s.rbit Reg.ethTpCfg 0 then h.udp = some (s.rbit Reg.ethTpCfg 1, BitVec.ofNat 16 (s.rfield Reg.ethTpUdpport 0 16))
   else h.udp = none && decide (h.etype.toNat = s.rfield Reg.ethTpCfg 16 16))

/-- A frame that ends at its port, with the state after it (R397-R401, R416): the port or the sub-port is not there, MACsec drops it, it is
unprotected where MACsec is required and no 802.1AS PDU (`as`), Qci stops it, or it is no transport frame. None where it goes on. -/
def State.endsAtPort (s : State) (p : Nat) (h : EthHead) (as : Bool) : Option State :=
  if !s.portTakes p || (h.sub ≠ 0 && s.rfield (Reg.ethPortStat p) 0 4 ≠ 2) then some s
  else if h.macsec && (s.portSas p 1 = [] || !h.secOk) then some (s.count Reg.ethPortMsecDrop 1)
  else if s.rbit (Reg.ethPortCfg p) 31 && !h.macsec && !as then some s
  else if !s.qciPasses p h then some s
  else if !s.isTransport h then some (s.count Reg.ethPortOther 1)
  else none

/-! ## Acknowledgement and re-sending (R405, R406) -/

/-- Frames of a space whose SEQ the host's ACK passes are kept no more; replies go with their frames, and frames that waited go out. -/
def State.ackUpTo (s : State) (k : Nat) (ack : Word) : State :=
  let x := s.space k
  let kept := x.kept.filter (fun p => decide ((p.1 - ack).toNat < 2 ^ 31))
  (s.setSpace k { x with kept := kept, replies := x.replies.filter (fun r => kept.any (fun p => p.1 = r.2) || decide ((r.2 - x.txNext).toNat < 2 ^ 31)) }).hostPump k

/-- A kept frame is sent again; at its 16th re-send HOSTLOST sets and the port's interrupt is raised. -/
def State.resend (s : State) (k : Nat) (seq : Word) : State :=
  let x := s.space k
  match x.kept.find? (fun p => p.1 = seq) with
  | none => s
  | some p =>
    let s := s.setSpace k { x with kept := x.kept.map (fun q => if q.1 = seq then (q.1, q.2 + 1) else q) }
    let s := (s.count Reg.ethTpRetx 1).send (.resend x.host k seq)
    if p.2 + 1 ≠ 16 then s
    else (((s.rsetBit Reg.ethTpStatus 2 true).rsetBit Reg.ethTpStatus 0 (x.host.port = 1))).raise (19 + x.host.port.toNat)

/-- An ACK frame carries EXP, and in its bitmap the frames accepted above it, here by their distance from EXP (R405). -/
def State.sendAck (s : State) (k : Nat) : State :=
  let x := s.space k
  (s.setSpace k { x with ackDue := false }).send (.ackFrame x.host k x.exp (x.held.map (fun f => (f.seq - x.exp).toNat)))

/-- ACK_FRAME: the cumulative ACK frees frames; those the bitmap shows missing, by their distance from ACK, are sent again. -/
def State.ackFrame (s : State) (k : Nat) (ack : Word) (missing : List Nat) : State :=
  (s.ackUpTo k ack).forAll missing (fun s i => s.resend k (ack + BitVec.ofNat 32 i))

/-- The distances from ACK of the frames a bitmap shows missing below its highest bit set: ACK itself and every bit clear below it. -/
def bitmapMissing (l : List Byte) : List Nat :=
  let bit := fun (i : Nat) => (l.getD (i / 8) 0).getLsbD (7 - i % 8)
  match (List.range 1023).reverse.find? bit with
  | none => []
  | some top => 0 :: ((List.range top).filter (fun i => !bit i)).map (· + 1)

/-! ## Delivery (R407-R409, R412) -/

/-- An UNDELIVERED notice (R411, R412). -/
def State.undelivered (s : State) (dev stream sp : Nat) (seq : Word) : State :=
  s.noticeOf (BitVec.ofNat 6 dev) 4 ([BitVec.ofNat 8 dev, BitVec.ofNat 8 stream, BitVec.ofNat 8 sp, 0] ++ beBytes 4 seq.toNat)

/-- The four header words that each CMD packet of a forwarded frame carries (log entry 26). -/
def frameHeader (f : TFrame) : List Word :=
  [BitVec.ofNat 32 (f.type.toNat * 2 ^ 16 + f.space.toNat * 2 ^ 8 + f.stream.toNat), f.seq, BitVec.ofNat 32 f.payload.length, 0]

/-- The CMD packets of a frame: at most 252 words of payload each. -/
def State.frameOut : Nat → State → TFrame → List Word → State
  | 0, s, _, _ => s
  | n + 1, s, f, l =>
    let s := s.toFabric (s.mkPkt f.device.toNat 6 0 2 (BitVec.ofNat 26 (f.stream.toNat * 2 ^ 12)) 0 (frameHeader f ++ l.take 252))
    if l.length ≤ 252 then s else State.frameOut n s f (l.drop 252)

/-- FRAME_FORWARD: the gate device forwards a delivered frame to its device, or reports that it cannot. -/
def State.frameForward (s : State) (f : TFrame) : State :=
  let d := f.device.toNat
  if !s.isGate || !s.isReady || d = s.sys.myDev.toNat || !(f.type = 1 || f.type = 4 || f.type = 5 || f.type = 6) then s
  else if s.sys.lost.contains d || !s.sys.ready.contains d then s.undelivered d f.stream.toNat f.space.toNat f.seq
  else State.frameOut (f.payload.length + 1) (s.send (.forward f)) f (packWords f.payload.length f.payload)

/-- The commands of a CMD frame reach their stream in order (R258, R407); the engine then takes as many turns (R266). -/
def State.cmdWords (s : State) (stream : BitVec 8) (ws : List Word64) : State :=
  let l := wireCmds stream ws.length ws
  State.engineTurns l.length (s.forAll l State.enqueue)

/-- DATA bytes are placed for the uses of their TAG (R265, R408). -/
def State.placeData (s : State) (stream : BitVec 8) (tag off : Word) (l : List Byte) : State :=
  let x := s.strm stream.toNat
  s.setStrm stream.toNat { x with data := x.data ++ [(tag, off.toNat, l)] }

/-- A frame is delivered: performed here, or forwarded. A request's reply is remembered under its SEQ (R406). DATA of the management space
is kept for the boot ROM and Keeper (R466, R517), which answers a malformed security request (R518). -/
def State.deliver (s : State) (k : Nat) (f : TFrame) : State :=
  let mine := !s.isReady || f.device = s.sys.myDev
  if !mine then s.frameForward f
  else
    let tag := BitVec.ofNat 32 (beNat (f.payload.take 4))
    let off := BitVec.ofNat 32 (beNat ((f.payload.drop 4).take 4))
    let replied := fun (t : State) =>
      t.setSpace k { t.space k with
        replies := (t.space k).replies ++ [(f.seq, (s.space k).txNext + BitVec.ofNat 32 (s.space k).unsent.length)] }
    if f.type = 1 then s.cmdWords f.stream ((beGroups 8 f.payload.length f.payload).map (BitVec.ofNat 64))
    else if f.type = 4 then replied (s.regrd (wireAddrs f.payload))
    else if f.type = 5 then replied (s.regwr (wireWrites f.payload))
    else if f.space = 0 then s.placeData f.stream tag off (f.payload.drop 8)
    else if tag = 0x5EC00000 && off = 0 && secMalformed (f.payload.drop 8) then
      s.secReply false (leNat ((f.payload.drop 8).take 1)) St.badOperand []
    else { s with eth := { s.eth with mgmtData := s.eth.mgmtData ++ [(tag, off.toNat, f.payload.drop 8)] } }

/-- Frames accepted that are now in order are delivered (R405). -/
def State.deliverAll : Nat → State → Nat → State
  | 0, s, _ => s
  | n + 1, s, k =>
    let x := s.space k
    match x.held.find? (fun f => f.seq = x.exp) with
    | none => s
    | some f =>
      State.deliverAll n ((s.setSpace k { x with exp := x.exp + 1, held := x.held.filter (fun g => g.seq ≠ f.seq) }).deliver k f) k

/-! ## Receiving (R399, R405, R408, R411-R413) -/

/-- Bytes of DATA of a stream that no command has consumed, as far as this device holds them: those of a stream of its own, and those of the
frames of the space that are held for order (R408; log entry 50). -/
def State.dataHeld (s : State) (k : Nat) (f : TFrame) : Nat :=
  (if !s.isReady || f.device = s.sys.myDev then s.dataKept f.stream.toNat else 0) +
  ((s.space k).held.map (fun f => if f.type = 6 then f.payload.length - 8 else 0)).sum

/-- Whether a DATA frame is turned away (R408): it would pass its stream's 1 MiB, or no transport buffer is free; never the frame with
SEQ = EXP. -/
def State.noBuffer (s : State) (k : Nat) (f : TFrame) : Bool :=
  f.type = 6 && f.seq ≠ (s.space k).exp &&
  (f.noBuf || (f.space = 0 && decide (0x100000 < s.dataHeld k f + (f.payload.length - 8))))

/-- The host is known: notices held are sent (R411). -/
def State.hostKnown (s : State) (host : HostTo) : State :=
  let l := s.eth.notices
  let s := { s with eth := { s.eth with hostSeen := true, host := host, notices := [] } }
  s.forAll l (fun s n => (s.send (.notice n)).hostFrames 1 s.sys.myDev.toNat 0 1 true)

/-- A frame of a served space meets EXP (R405): accepted and delivered in order, a duplicate, or out of window. -/
def State.sequenced (s : State) (k : Nat) (f : TFrame) : State :=
  let x := s.space k
  let d := (f.seq - x.exp).toNat
  let held := x.held.any (fun g => g.seq = f.seq)
  if d < 1024 ∧ !held then
    if s.noBuffer k f then s.count Reg.ethTpNobuf 1
    else
      let host : HostTo := ⟨f.port, f.eth.sub, f.eth.src⟩
      let s := s.setSpace k { x with host := host, held := x.held ++ [f], ackDue := true }
      let s := if f.space = 1 then s.hostKnown host else s
      State.deliverAll 1025 s k
  else if 1024 ≤ d ∧ d < 2 ^ 31 then s.count Reg.ethTpOow 1
  else
    let s := (s.count Reg.ethTpDup 1).setSpace k { x with ackDue := true }
    match x.replies.find? (fun r => r.1 = f.seq) with
    | some r => s.resend k r.2
    | none => s

/-- TRANSPORT_FRAME_RECEIVE: what the port lets by, no longer than the largest frame (R401), then header, space and sequence. A frame of
SPACE 0x2 that passes these checks is the event OBS_FRAME or, outside SLEEP, one that R418 discards. -/
def State.frameReceive (s : State) (f : TFrame) : State :=
  let p := f.port.toNat
  match s.endsAtPort p f.eth false with
  | some t => t
  | none =>
    if s.frameRoom p < f.payload.length then s
    else if !frameOk f then s.badHdr
    else if f.space = 2 then (if f.type = 9 || !s.isReady then s.badHdr else s)
    else
      let sp := f.space.toNat
      let k := s.keyOf sp f.device.toNat f.stream.toNat
      if !s.serves sp f.device.toNat then s.badHdr
      else
        let s := if f.ackv then s.ackUpTo k f.ack else s
        if f.type = 2 then s.ackFrame k f.ack (bitmapMissing f.payload) else s.sequenced k f

/-- CMD_FRAME: a CMD frame delivered at this device, its payload of `bytes` bytes. -/
def State.cmdFrame (s : State) (stream : BitVec 8) (bytes : Nat) (ws : List Word64) : State :=
  if bytes % 8 ≠ 0 then s.badHdr else s.cmdWords stream ws

/-- DATA_FRAME: a DATA frame that reaches a stream of this device; `expected` where its SEQ is EXP of its space (R408). -/
def State.dataFrame (s : State) (stream : BitVec 8) (expected : Bool) (tag off : Word) (l : List Byte) : State :=
  if !s.awake then s
  else if !expected ∧ 0x100000 < s.dataKept stream.toNat + l.length then s.count Reg.ethTpNobuf 1
  else s.placeData stream tag off l

/-! ## Timers of the transport (R405-R407) -/

/-- Whether a space is open here. -/
def State.spaceLive (s : State) (sp dev : Nat) : Bool := s.awake && s.serves sp dev

/-- ACK_SEND_TIMER. -/
def State.ackTimer (s : State) (sp dev stream : Nat) : State :=
  let k := s.keyOf sp dev stream
  if s.spaceLive sp dev && (s.space k).ackDue then s.sendAck k else s

/-- Completion frames of a stream leave, each with as many records as it can hold (R407). -/
def State.flushCpls : Nat → State → BitVec 8 → State
  | 0, s, _ => s
  | n + 1, s, stream =>
    let l := s.cmd.cpls.filter (fun c => c.stream = stream)
    if l = [] || s.spaceFull stream.toNat then s
    else
      let r := l.take (s.frameRoom (s.spacePort 0 stream.toNat) / 16)
      let s := { s with cmd := { s.cmd with cpls := s.cmd.cpls.filter (fun c => !(c.stream = stream && r.contains c)) } }
      State.flushCpls n (s.toHost 0 stream.toNat 1 (.completions stream r)) stream

/-- COMPLETION_FRAME_FLUSH. -/
def State.completionFlush (s : State) (stream : BitVec 8) : State :=
  if !s.awake then s else State.flushCpls (s.cmd.cpls.length + 1) s stream

/-! ## The gate device (R412-R414) -/

/-- The frames the gate device has acknowledged for a device and not delivered: those in CMD packets not acknowledged, then those held
for order, as (SPACE, stream, SEQ). -/
def State.undeliveredTo (s : State) (dev : Nat) : List (Nat × Nat × Word) :=
  let x := s.e2e dev 0
  let pkts := (x.retained.map Prod.snd ++ x.waiting).filter (fun p => p.type = 6 && decide (4 ≤ p.payload.length))
  let sent := pkts.map (fun p => ((p.payload.getD 0 0).toNat / 2 ^ 8 % 2 ^ 8, (p.payload.getD 0 0).toNat % 2 ^ 8, p.payload.getD 1 0))
  let held := s.eth.spaces.flatMap (fun p =>
    if p.1 / 256 % 64 = dev then p.2.held.map (fun f => (f.space.toNat, f.stream.toNat, f.seq)) else [])
  sent.eraseDups ++ held

/-- The transport's part in a loss (R413): UNDELIVERED notices, and the spaces of the device close. -/
def State.transportLost (s : State) (dev : Nat) (l : List (Nat × Nat × Word)) : State :=
  if !s.isGate then s
  else
    let s := s.forAll l (fun s u => s.undelivered dev u.2.1 u.1 u.2.2)
    { s with eth := { s.eth with spaces := s.eth.spaces.filter (fun p => p.1 / 256 % 64 ≠ dev) } }

/-- A device that this device has not served before, or that was lost, is READY: numbers between the two devices start at 0 (DEDUCED,
log entry 37), the writer interfaces aimed at its queues close (R327), and a gate device opens its spaces. One that was READY has reset: what
the gate device had not delivered to it is UNDELIVERED (R413). -/
def State.restartDev (s : State) (dev : Nat) : State :=
  if !s.awake || !s.isReady || dev = s.sys.myDev.toNat then s
  else
    let s := if s.sys.ready.contains dev then s.transportLost dev (s.undeliveredTo dev) else s
    let s := { s with sys := { s.sys with
      lost := s.sys.lost.filter (fun d => d ≠ dev), ready := s.sys.ready.filter (fun d => d ≠ dev) ++ [dev] } }
    let s := (s.forAll (List.range 4) (fun s v => s.setE2e dev v E2E.empty)).closeWritersAt dev
    if s.isGate then s.openSpaces dev 1 else s

/-- Another device learns that the standby has the gate device's role (R414; log entry 68); one that took its time from the gate device holds
over until a time source returns. -/
def State.gateMoved (s : State) (d : BitVec 6) : State :=
  let s := State.fabricTimeLost { s with sys := { s.sys with gate := d } }
  (s.rsetBit Reg.ethTpStatus 1 false).rsetBit Reg.budDevnum 8 false

/-- GATE_TAKEOVER: the standby takes the gate device's role; every other device learns of it. The standby holds over too where it took its time from
the gate device. -/
def State.gateTakeover (s : State) : State :=
  if !s.awake || !s.isReady then s
  else if s.sys.standby ≠ some s.sys.myDev then (match s.sys.standby with | some d => s.gateMoved d | none => s)
  else if s.isGate then s
  else
    let s := State.fabricTimeLost { s with sys := { s.sys with gate := s.sys.myDev }, eth := { s.eth with hostSeen := false } }
    let s := (s.rsetBit Reg.ethTpStatus 1 true).rsetBit Reg.budDevnum 8 true
    s.forAll s.sys.ready (fun s d => s.openSpaces d 2)

/-- DEVICE_LOST (R382, R413). -/
def State.lose (s : State) (dev : Nat) (cause : BitVec 2) : State :=
  if !s.awake || !s.isReady || dev = s.sys.myDev.toNat then s
  else if s.sys.lost.contains dev ∨ !s.mayLose dev cause then s.deviceLost dev cause
  else (s.deviceLost dev cause).transportLost dev (s.undeliveredTo dev)

/-! ## Ports, OBS and ACT frames (R415-R419) -/

/-- Sequence recovery by the vector algorithm with a history of 32 (R398; log entry 72): the state after a number, none where its frame is
eliminated. -/
def recover (st : Option (BitVec 16 × BitVec 32 × Nat)) (q : BitVec 16) (now idle : Nat) : Option (BitVec 16 × BitVec 32 × Nat) :=
  match st with
  | none => some (q, 1, now)
  | some (r, h, t) =>
    let ahead := (q - r).toNat
    let back := (r - q).toNat
    if t + idle ≤ now then some (q, 1, now)
    else if 0 < ahead ∧ ahead < 32 then some (q, (h <<< ahead) ||| 1, now)
    else if back < 32 ∧ !h.getLsbD back then some (r, h ||| BitVec.ofNat 32 (2 ^ back), now)
    else none

/-- Sequence recovery of OBS frames, across both ports (R398, R415): the state after, and whether the frame reaches its channels. -/
def State.obsRecover (s : State) (p : Nat) (h : EthHead) : State × Bool :=
  let l := s.portTable p 0x610 4
  match h.rtag with
  | none => (s, true)
  | some q =>
    if s.tableClear p 0x610 4 || !Config.cbRecovers l then (s, true)
    else match recover s.eth.recov q s.tmr.tb.toNat (Config.cbReset l) with
    | none => (s, false)
    | some x => ({ s with eth := { s.eth with recov := some x } }, true)

/-- OBS_FRAME: accepted only on the device's own port, on sub-port 0 (R397), and when DEVICE names it (R415). -/
def State.obsFrame (s : State) (p : Nat) (h : EthHead) (dev : Nat) (recs : List ObsRec) : State :=
  match s.endsAtPort p h false with
  | some t => t
  | none =>
    if h.sub ≠ 0 || !s.isReady || dev ≠ s.sys.myDev.toNat then s.badHdr
    else
      let (s, ok) := s.obsRecover p h
      if ok then s.obsRecs recs else s

/-- WAKE_FRAME: compared in SLEEP, discarded elsewhere (R418). -/
def State.wakeFrame (s : State) (p : BitVec 1) (mac : BitVec 48) (h : EthHead) (pattern : List Word) : State :=
  if s.ltn.power = .sleep then s.wakeMatch p mac h pattern
  else match s.endsAtPort p.toNat h false with
  | some t => t
  | none => s.badHdr

/-- NON_TRANSPORT_FRAME: counted at its port (R401); `as` says that it is an 802.1AS PDU. A transport frame is no such event. -/
def State.otherFrame (s : State) (p : Nat) (h : EthHead) (as : Bool) : State := (s.endsAtPort p h as).getD s

/-- The frame of an entry at its port, on sub-port 0: it leaves, or is dropped where the port is down or MACsec has no SA (R397, R416). -/
def State.actOut (s : State) (f p : Nat) (seq : Word) (tag : Option (BitVec 16)) (l : List Byte) : State :=
  if !s.rbit (Reg.ethPortStat p) 31 || (s.rbit (Reg.ethPortCfg p) 31 && s.portSas p 0 = []) then s.count (Reg.ethPortActDrop p) 1
  else s.send (.act (BitVec.ofNat 1 p) (BitVec.ofNat 8 f) seq tag l)

/-- Whether a port's 802.1CB table replicates the ACT frames (R398, R416, R422): how its words say so is the standard's (log entry 72). -/
def State.actReplicated (s : State) (p : Nat) : Bool :=
  !s.tableClear p 0x610 4 && Config.cbReplicates (s.portTable p 0x610 4)

/-- ACT_FRAME_TRANSMIT: at G the frame leaves, with 802.1CB replication on both ports with one R-TAG number (R416); writes that wait for an opening come into
force where the gate does open (R256). -/
def State.actTransmit (s : State) (f : Nat) : State :=
  if !s.awake then s
  else
    let x := s.act f
    let p := fieldOf (s.rget (Reg.cnvActCfg f)) 30 1
    let s := match x.frame with
      | none => s
      | some t =>
        let l := framePayload f t.1.toNat t.2.1.length t.2.2
        let s := s.setAct f { x with seq := x.seq + 1, frame := none }
        if s.actReplicated p then
          let tag := some s.eth.rtag
          let s := { s with eth := { s.eth with rtag := s.eth.rtag + 1 } }
          (s.actOut f p x.seq tag l).actOut f (1 - p) x.seq tag l
        else s.actOut f p x.seq none l
    if s.actPending f then s.actForce f else s

/-- ETH_PORT_LINK_UP: training or auto-negotiation ends with a mode (R397, R419). -/
def State.portUp (s : State) (p mode : Nat) : State :=
  let cfg := s.rfield (Reg.ethPortCfg p) 0 4
  if !s.awake || s.ltn.ethLost || mode = 0 || 5 < mode || (cfg ≠ 7 && cfg ≠ mode) then s
  else (s.rsetBit (Reg.ethPortStat p) 31 true).rsetField (Reg.ethPortStat p) 0 4 mode

/-- GCL_CYCLE_START: the writes that wait for the port's next cycle come into force (R419, R420, R422). -/
def State.gclStart (s : State) (p : Nat) : State :=
  let mine := fun (a : Nat) =>
    (decide (a < 0x701000) && decide ((a - 0x700000) / 0x100 = p)) ||
    (decide (0x701000 ≤ a) && decide ((a - 0x701000) / 0x800 % 2 = p))
  let l := s.eth.gclNext.filter (fun e => mine e.1)
  let s := { s with eth := { s.eth with gclNext := s.eth.gclNext.filter (fun e => !mine e.1) } }
  s.forAll l (fun s e => s.rset e.1 e.2)

/-- REFERENCE_CLOCK_LOSS (R547): SYSCLK, REFCLK_FAB, REFCLK_ETH or XT32. -/
def State.clockLoss (s : State) (c : Nat) : State :=
  if c = 0 then (if s.ltn.power = .sleep ∨ s.ltn.power = .off then s else { s with dead := some .sysclkLost })
  else if c = 1 then s.forAll ((List.range 18).filter s.linkUp) (fun s l => s.linkFailed l false)
  else if c = 2 then
    let s := (s.portDown 0).portDown 1
    { s with ltn := { s.ltn with ethLost := true } }
  else { s with ltn := { s.ltn with xt32Lost := true } }

/-! ## Meanings -/

def execTransportFrameReceive (f : TFrame) (s : State) : Result := live s fun s => s.frameReceive f
def execCmdFrame (stream : BitVec 8) (bytes : Nat) (words : List Word64) (s : State) : Result := live s fun s => s.cmdFrame stream bytes words
def execAckFrame (sp : BitVec 2) (dev : BitVec 6) (stream : BitVec 8) (ack : Word) (missing : List Nat) (s : State) : Result :=
  live s fun s => if s.spaceLive sp.toNat dev.toNat then s.ackFrame (s.keyOf sp.toNat dev.toNat stream.toNat) ack missing else s
def execDataFrame (stream : BitVec 8) (expected : Bool) (tag off : Word) (data : List Byte) (s : State) : Result :=
  live s fun s => s.dataFrame stream expected tag off data
def execTransportRetxTimeout (sp : BitVec 2) (dev : BitVec 6) (stream : BitVec 8) (seq : Word) (s : State) : Result :=
  live s fun s => if s.spaceLive sp.toNat dev.toNat then s.resend (s.keyOf sp.toNat dev.toNat stream.toNat) seq else s
def execCompletionFrameFlush (stream : BitVec 8) (s : State) : Result := live s fun s => s.completionFlush stream
def execAckSendTimer (sp : BitVec 2) (dev : BitVec 6) (stream : BitVec 8) (s : State) : Result :=
  live s fun s => s.ackTimer sp.toNat dev.toNat stream.toNat
def execFrameForward (f : TFrame) (s : State) : Result := live s fun s => if s.awake then s.frameForward f else s
def execRestart (dev : BitVec 6) (s : State) : Result := live s fun s => s.restartDev dev.toNat
def execGateTakeover (s : State) : Result := live s fun s => s.gateTakeover
def execDeviceLost (dev : BitVec 6) (cause : BitVec 2) (s : State) : Result := live s fun s => s.lose dev.toNat cause
def execObsFrame (port : BitVec 1) (h : EthHead) (dev : BitVec 6) (recs : List ObsRec) (s : State) : Result :=
  live s fun s => s.obsFrame port.toNat h dev.toNat recs
def execWakeFrame (port : BitVec 1) (mac : BitVec 48) (h : EthHead) (pattern : List Word) (s : State) : Result :=
  live s fun s => s.wakeFrame port mac h pattern
def execActFrameTransmit (f : BitVec 8) (s : State) : Result := live s fun s => s.actTransmit f.toNat
def execEthPortLinkDown (port : BitVec 1) (s : State) : Result := live s fun s => if s.awake then s.portDown port.toNat else s
def execEthPortLinkUp (port : BitVec 1) (mode : BitVec 4) (s : State) : Result := live s fun s => s.portUp port.toNat mode.toNat
def execNonTransportFrame (port : BitVec 1) (h : EthHead) (as : Bool) (s : State) : Result := live s fun s => s.otherFrame port.toNat h as
def execGclCycleStart (port : BitVec 1) (s : State) : Result := live s fun s => if s.awake then s.gclStart port.toNat else s
def execReferenceClockLoss (clock : BitVec 2) (s : State) : Result := live s fun s => s.clockLoss clock.toNat

end Sys2Proof.Machine
end

