-- ==== Sys2Proof/Machine/Dispatch.lean ====
section
/-! DEFINITION. Machine/Dispatch.lean: the effect of every command, one arm per constructor of Instr. -/

namespace Sys2Proof.Machine

def exec (i : Instr) (s : State) : Host.Outcome State Fault Refusal :=
  match i with
  | .bind h kind count first w1 w2 w3 => Sys2Proof.Machine.execBind h kind count first w1 w2 w3 s
  | .unbind h kind count first => Sys2Proof.Machine.execUnbind h kind count first s
  | .park h count first mref stride => Sys2Proof.Machine.execPark h count first mref stride s
  | .unpark h count first res stride base => Sys2Proof.Machine.execUnpark h count first res stride base s
  | .snapshot h atStep mref limit => Sys2Proof.Machine.execSnapshot h atStep mref limit s
  | .loadprog h core slot poff mref => Sys2Proof.Machine.execLoadprog h core slot poff mref s
  | .loadmat h core matrix desc mref rowFirst rowCount => Sys2Proof.Machine.execLoadmat h core matrix desc mref rowFirst rowCount s
  | .loadroute h core slot idxFirst mref unitFirst units => Sys2Proof.Machine.execLoadroute h core slot idxFirst mref unitFirst units s
  | .loadrule h core matrix mref => Sys2Proof.Machine.execLoadrule h core matrix mref s
  | .step h => Sys2Proof.Machine.execStep h s
  | .run h n => Sys2Proof.Machine.execRun h n s
  | .halt h => Sys2Proof.Machine.execHalt h s
  | .epoch h group len base => Sys2Proof.Machine.execEpoch h group len base s
  | .apply h group => Sys2Proof.Machine.execApply h group s
  | .berth h core matrix circuit b first last base lines => Sys2Proof.Machine.execBerth h core matrix circuit b first last base lines s
  | .copy h kind mask count first src dst len circuit useCircuit => Sys2Proof.Machine.execCopy h kind mask count first src dst len circuit useCircuit s
  | .signal h device n buoy => Sys2Proof.Machine.execSignal h device n buoy s
  | .wait h device eq buoy value tmo => Sys2Proof.Machine.execWait h device eq buoy value tmo s
  | .watch h device core eq buoy value tmo cookie => Sys2Proof.Machine.execWatch h device core eq buoy value tmo cookie s
  | .dec h device n buoy => Sys2Proof.Machine.execDec h device n buoy s
  | .take h device buoy tmo => Sys2Proof.Machine.execTake h device buoy tmo s
  | .send h device nm1 tag queue msg => Sys2Proof.Machine.execSend h device nm1 tag queue msg s
  | .recv h queue dst tmo => Sys2Proof.Machine.execRecv h queue dst tmo s
  | .encode h cfirst channel src nrow tstep zin => Sys2Proof.Machine.execEncode h cfirst channel src nrow tstep zin s
  | .decode h cfirst channel dst count => Sys2Proof.Machine.execDecode h cfirst channel dst count s
  | .chancfg h channel src => Sys2Proof.Machine.execChancfg h channel src s
  | .fence h scope => Sys2Proof.Machine.execFence h scope s
  | .timestamp h when' dst => Sys2Proof.Machine.execTimestamp h when' dst s
  | .hint h kind watts dur ahead => Sys2Proof.Machine.execHint h kind watts dur ahead s
  | .note h value => Sys2Proof.Machine.execNote h value s
  | .reservedOpcode h opcode cut => Sys2Proof.Machine.execReservedOpcode h opcode cut s
  | .boundaryEffect b => Sys2Proof.Machine.execBoundaryEffect b s
  | .nop core => Sys2Proof.Machine.execNop core s
  | .movi core d imm => Sys2Proof.Machine.execMovi core d imm s
  | .ldf core d sel => Sys2Proof.Machine.execLdf core d sel s
  | .stf core a sel => Sys2Proof.Machine.execStf core a sel s
  | .add core d a b => Sys2Proof.Machine.execAdd core d a b s
  | .sub core d a b => Sys2Proof.Machine.execSub core d a b s
  | .mulq core d a b k => Sys2Proof.Machine.execMulq core d a b k s
  | .mac core d a b k => Sys2Proof.Machine.execMac core d a b k s
  | .decay core d a k1 k2 => Sys2Proof.Machine.execDecay core d a k1 k2 s
  | .min core d a b => Sys2Proof.Machine.execMin core d a b s
  | .max core d a b => Sys2Proof.Machine.execMax core d a b s
  | .clamp core d a b => Sys2Proof.Machine.execClamp core d a b s
  | .cmpgt core d a b => Sys2Proof.Machine.execCmpgt core d a b s
  | .cmpge core d a b => Sys2Proof.Machine.execCmpge core d a b s
  | .sel core d a b c => Sys2Proof.Machine.execSel core d a b c s
  | .fire core d a b => Sys2Proof.Machine.execFire core d a b s
  | .rsub core d a b => Sys2Proof.Machine.execRsub core d a b s
  | .rset core d a b => Sys2Proof.Machine.execRset core d a b s
  | .tbump core a t => Sys2Proof.Machine.execTbump core a t s
  | .rand core d k => Sys2Proof.Machine.execRand core d k s
  | .endInstr core => Sys2Proof.Machine.execEndInstr core s
  | .laneGroupStart core => Sys2Proof.Machine.execLaneGroupStart core s
  | .stepStart core => Sys2Proof.Machine.execStepStart core s
  | .lockedSlot b => Sys2Proof.Machine.execLockedSlot b s
  | .stepAdmit b => Sys2Proof.Machine.execStepAdmit b s
  | .windowSort core => Sys2Proof.Machine.execWindowSort core s
  | .additionRun core => Sys2Proof.Machine.execAdditionRun core s
  | .rowRead core => Sys2Proof.Machine.execRowRead core s
  | .windowFlush core => Sys2Proof.Machine.execWindowFlush core s
  | .phase2Start core => Sys2Proof.Machine.execPhase2Start core s
  | .coreDone core => Sys2Proof.Machine.execCoreDone core s
  | .routeExpansion core => Sys2Proof.Machine.execRouteExpansion core s
  | .packetSend dst => Sys2Proof.Machine.execPacketSend dst s
  | .eventPacketAccept src pkt => Sys2Proof.Machine.execEventPacketAccept src pkt s
  | .stagingJoin core => Sys2Proof.Machine.execStagingJoin core s
  | .acceptAckArrival b dst => Sys2Proof.Machine.execAcceptAckArrival b dst s
  | .stepBuoySignal b dev step gates status => Sys2Proof.Machine.execStepBuoySignal b dev step gates status s
  | .stepEnd b => Sys2Proof.Machine.execStepEnd b s
  | .stepEndReceipt b next gates epochs => Sys2Proof.Machine.execStepEndReceipt b next gates epochs s
  | .learningPass core => Sys2Proof.Machine.execLearningPass core s
  | .applyWindowOpen b granted => Sys2Proof.Machine.execApplyWindowOpen b granted s
  | .reductionChunkArrival core matrix member chunk rows => Sys2Proof.Machine.execReductionChunkArrival core matrix member chunk rows s
  | .chunkCommit core matrix chunk => Sys2Proof.Machine.execChunkCommit core matrix chunk s
  | .applyWindowClose b rows others => Sys2Proof.Machine.execApplyWindowClose b rows others s
  | .delayVote b target matrix group votes remote due => Sys2Proof.Machine.execDelayVote b target matrix group votes remote due s
  | .reductionPartitioned core matrix chunk => Sys2Proof.Machine.execReductionPartitioned core matrix chunk s
  | .overlapRowCommit core matrix rows => Sys2Proof.Machine.execOverlapRowCommit core matrix rows s
  | .berthFillStart core b => Sys2Proof.Machine.execBerthFillStart core b s
  | .berthReady core b => Sys2Proof.Machine.execBerthReady core b s
  | .obsFrame port eth device recs => Sys2Proof.Machine.execObsFrame port eth device recs s
  | .encodeInstance channel cidx => Sys2Proof.Machine.execEncodeInstance channel cidx s
  | .encodeWaitTimeout channel cidx => Sys2Proof.Machine.execEncodeWaitTimeout channel cidx s
  | .tapAccept channel cidx neuron n => Sys2Proof.Machine.execTapAccept channel cidx neuron n s
  | .decodeInstance channel cidx => Sys2Proof.Machine.execDecodeInstance channel cidx s
  | .actSnapshot f => Sys2Proof.Machine.execActSnapshot f s
  | .actFrameTransmit f => Sys2Proof.Machine.execActFrameTransmit f s
  | .buoyOperation o answer => Sys2Proof.Machine.execBuoyOperation o answer s
  | .signalMarkerArrival stream cseq => Sys2Proof.Machine.execSignalMarkerArrival stream cseq s
  | .waitTimeout dev stream => Sys2Proof.Machine.execWaitTimeout dev stream s
  | .watchTimeout w => Sys2Proof.Machine.execWatchTimeout w s
  | .beaconRetry w => Sys2Proof.Machine.execBeaconRetry w s
  | .queueGrantArrival dev queue b wstream gen rsize answer => Sys2Proof.Machine.execQueueGrantArrival dev queue b wstream gen rsize answer s
  | .queueMessageArrival src queue gen offset words answer => Sys2Proof.Machine.execQueueMessageArrival src queue gen offset words answer s
  | .creditReturnArrival dev queue gen words => Sys2Proof.Machine.execCreditReturnArrival dev queue gen words s
  | .closeNoticeArrival dev queue => Sys2Proof.Machine.execCloseNoticeArrival dev queue s
  | .queueOpen queue => Sys2Proof.Machine.execQueueOpen queue s
  | .queueClose queue => Sys2Proof.Machine.execQueueClose queue s
  | .inboxPop core => Sys2Proof.Machine.execInboxPop core s
  | .sliceBankCycle slice bank ce reqs => Sys2Proof.Machine.execSliceBankCycle slice bank ce reqs s
  | .aliasWrite slice port word clear vault data => Sys2Proof.Machine.execAliasWrite slice port word clear vault data s
  | .vaultWipe => Sys2Proof.Machine.execVaultWipe s
  | .scrubRead hbm unit word correctable uncorrectable => Sys2Proof.Machine.execScrubRead hbm unit word correctable uncorrectable s
  | .hbmAccess write addr ce data => Sys2Proof.Machine.execHbmAccess write addr ce data s
  | .hbmRefreshDouble stack temp => Sys2Proof.Machine.execHbmRefreshDouble stack temp s
  | .linkPacketReceive l lseq hcrc crc pkt corrected uncorrectable => Sys2Proof.Machine.execLinkPacketReceive l lseq hcrc crc pkt corrected uncorrectable s
  | .linkAck l lseq => Sys2Proof.Machine.execLinkAck l lseq s
  | .linkNak l lseq => Sys2Proof.Machine.execLinkNak l lseq s
  | .linkCredit l vc cls units => Sys2Proof.Machine.execLinkCredit l vc cls units s
  | .replayTimeout l => Sys2Proof.Machine.execReplayTimeout l s
  | .linkFailure dev l => Sys2Proof.Machine.execLinkFailure dev l s
  | .linkDownReceive l => Sys2Proof.Machine.execLinkDownReceive l s
  | .fecLockLoss l lane => Sys2Proof.Machine.execFecLockLoss l lane s
  | .e2ePacketReceive pkt => Sys2Proof.Machine.execE2ePacketReceive pkt s
  | .e2eackArrival dev vc low => Sys2Proof.Machine.execE2eackArrival dev vc low s
  | .e2eackTimer dev vc => Sys2Proof.Machine.execE2eackTimer dev vc s
  | .deviceLost dev cause => Sys2Proof.Machine.execDeviceLost dev cause s
  | .fabRetireReq => Sys2Proof.Machine.execFabRetireReq s
  | .retireReady confirmed => Sys2Proof.Machine.execRetireReady confirmed s
  | .circuitArm c => Sys2Proof.Machine.execCircuitArm c s
  | .chunkackArrival c chunk => Sys2Proof.Machine.execChunkackArrival c chunk s
  | .circuitChunkReceive src c flow chunk dst data => Sys2Proof.Machine.execCircuitChunkReceive src c flow chunk dst data s
  | .congestionSample ports => Sys2Proof.Machine.execCongestionSample ports s
  | .congestionMap => Sys2Proof.Machine.execCongestionMap s
  | .quiesceRequest => Sys2Proof.Machine.execQuiesceRequest s
  | .quiesceAck phys => Sys2Proof.Machine.execQuiesceAck phys s
  | .quiesceRelease news => Sys2Proof.Machine.execQuiesceRelease news s
  | .quiesceAckTimeout phys => Sys2Proof.Machine.execQuiesceAckTimeout phys s
  | .transportFrameReceive f => Sys2Proof.Machine.execTransportFrameReceive f s
  | .cmdFrame stream bytes words => Sys2Proof.Machine.execCmdFrame stream bytes words s
  | .ackFrame space device stream ack missing => Sys2Proof.Machine.execAckFrame space device stream ack missing s
  | .dataFrame stream expected tag offset data => Sys2Proof.Machine.execDataFrame stream expected tag offset data s
  | .regrd addrs => Sys2Proof.Machine.execRegrd addrs s
  | .regwr writes => Sys2Proof.Machine.execRegwr writes s
  | .transportRetxTimeout space device stream seq => Sys2Proof.Machine.execTransportRetxTimeout space device stream seq s
  | .completionFrameFlush stream => Sys2Proof.Machine.execCompletionFrameFlush stream s
  | .ackSendTimer space device stream => Sys2Proof.Machine.execAckSendTimer space device stream s
  | .frameForward f => Sys2Proof.Machine.execFrameForward f s
  | .restart dev => Sys2Proof.Machine.execRestart dev s
  | .gateTakeover => Sys2Proof.Machine.execGateTakeover s
  | .wakeFrame port mac eth pattern => Sys2Proof.Machine.execWakeFrame port mac eth pattern s
  | .portModeWrite port mode => Sys2Proof.Machine.execPortModeWrite port mode s
  | .governorWindow counts unreachable => Sys2Proof.Machine.execGovernorWindow counts unreachable s
  | .levelApply => Sys2Proof.Machine.execLevelApply s
  | .pmbusRead volts amps => Sys2Proof.Machine.execPmbusRead volts amps s
  | .gainUpdate => Sys2Proof.Machine.execGainUpdate s
  | .pmbAlert words => Sys2Proof.Machine.execPmbAlert words s
  | .thermalCapUpdate => Sys2Proof.Machine.execThermalCapUpdate s
  | .sensorSample temps hbms => Sys2Proof.Machine.execSensorSample temps hbms s
  | .govx => Sys2Proof.Machine.execGovx s
  | .thermtrip sensor => Sys2Proof.Machine.execThermtrip sensor s
  | .overcapCheck => Sys2Proof.Machine.execOvercapCheck s
  | .pgFall n => Sys2Proof.Machine.execPgFall n s
  | .psctrlRun => Sys2Proof.Machine.execPsctrlRun s
  | .psctrlDoze => Sys2Proof.Machine.execPsctrlDoze s
  | .psctrlSleep othersAsleep => Sys2Proof.Machine.execPsctrlSleep othersAsleep s
  | .dozeAutoWake kind => Sys2Proof.Machine.execDozeAutoWake kind s
  | .restore => Sys2Proof.Machine.execRestore s
  | .pgTimeout n => Sys2Proof.Machine.execPgTimeout n s
  | .clockGate phys => Sys2Proof.Machine.execClockGate phys s
  | .clockUngate phys => Sys2Proof.Machine.execClockUngate phys s
  | .brownOut => Sys2Proof.Machine.execBrownOut s
  | .ethernetEnergyWake port => Sys2Proof.Machine.execEthernetEnergyWake port s
  | .listen port => Sys2Proof.Machine.execListen port s
  | .listenTimeout port => Sys2Proof.Machine.execListenTimeout port s
  | .fabricEnergyWake l => Sys2Proof.Machine.execFabricEnergyWake l s
  | .fabricWakePattern l => Sys2Proof.Machine.execFabricWakePattern l s
  | .fwakeSend mask => Sys2Proof.Machine.execFwakeSend mask s
  | .lanternTimerWake => Sys2Proof.Machine.execLanternTimerWake s
  | .wakeN => Sys2Proof.Machine.execWakeN s
  | .watchedSourceWake k => Sys2Proof.Machine.execWatchedSourceWake k s
  | .powerOnReset => Sys2Proof.Machine.execPowerOnReset s
  | .coldReset => Sys2Proof.Machine.execColdReset s
  | .warmReset pgHigh => Sys2Proof.Machine.execWarmReset pgHigh s
  | .coldBringup r => Sys2Proof.Machine.execColdBringup r s
  | .warmFastPath r => Sys2Proof.Machine.execWarmFastPath r s
  | .linkTraining l r => Sys2Proof.Machine.execLinkTraining l r s
  | .coreFailure phys cause far => Sys2Proof.Machine.execCoreFailure phys cause far s
  | .sliceFailure phys cause readable banks far => Sys2Proof.Machine.execSliceFailure phys cause readable banks far s
  | .interruptRaise source => Sys2Proof.Machine.execInterruptRaise source s
  | .interruptWithdraw source => Sys2Proof.Machine.execInterruptWithdraw source s
  | .irqClaim proc source => Sys2Proof.Machine.execIrqClaim proc source s
  | .irqDone proc source => Sys2Proof.Machine.execIrqDone proc source s
  | .tbStep ns => Sys2Proof.Machine.execTbStep ns s
  | .holdover port => Sys2Proof.Machine.execHoldover port s
  | .syncReturn src rate => Sys2Proof.Machine.execSyncReturn src rate s
  | .timerTick n => Sys2Proof.Machine.execTimerTick n s
  | .timerWrap n => Sys2Proof.Machine.execTimerWrap n s
  | .timerMatch n k => Sys2Proof.Machine.execTimerMatch n k s
  | .timerImmediateWrite n which value => Sys2Proof.Machine.execTimerImmediateWrite n which value s
  | .tmrGstart mask => Sys2Proof.Machine.execTmrGstart mask s
  | .tmrGstop mask => Sys2Proof.Machine.execTmrGstop mask s
  | .attest nonce smbus => Sys2Proof.Machine.execAttest nonce smbus s
  | .lifecycle target nonce devid ownerKey smbus sig => Sys2Proof.Machine.execLifecycle target nonce devid ownerKey smbus sig s
  | .debug level nonce devid smbus sig => Sys2Proof.Machine.execDebug level nonce devid smbus sig s
  | .sak port dir an ssci ki wrapped pubkey nonce devid smbus sig => Sys2Proof.Machine.execSak port dir an ssci ki wrapped pubkey nonce devid smbus sig s
  | .certs smbus => Sys2Proof.Machine.execCerts smbus s
  | .tamperN => Sys2Proof.Machine.execTamperN s
  | .ptbHoldRelease kind => Sys2Proof.Machine.execPtbHoldRelease kind s
  | .stepConfigWrite b which value => Sys2Proof.Machine.execStepConfigWrite b which value s
  | .actCfgWrite f lead value => Sys2Proof.Machine.execActCfgWrite f lead value s
  | .loReadCapture addr => Sys2Proof.Machine.execLoReadCapture addr s
  | .readClear addr => Sys2Proof.Machine.execReadClear addr s
  | .registerWrite addr value => Sys2Proof.Machine.execRegisterWrite addr value s
  | .ethPortLinkDown port => Sys2Proof.Machine.execEthPortLinkDown port s
  | .ethPortLinkUp port mode => Sys2Proof.Machine.execEthPortLinkUp port mode s
  | .timeSyncMessage src offsetNs rate => Sys2Proof.Machine.execTimeSyncMessage src offsetNs rate s
  | .gclCycleStart port => Sys2Proof.Machine.execGclCycleStart port s
  | .nonTransportFrame port eth as => Sys2Proof.Machine.execNonTransportFrame port eth as s
  | .startBroadcastReceipt b slot epochs => Sys2Proof.Machine.execStartBroadcastReceipt b slot epochs s
  | .joinAcknowledgement b dev mask ok => Sys2Proof.Machine.execJoinAcknowledgement b dev mask ok s
  | .recvTimeout stream => Sys2Proof.Machine.execRecvTimeout stream s
  | .linkAckSend l => Sys2Proof.Machine.execLinkAckSend l s
  | .ptbHbmrefBurst => Sys2Proof.Machine.execPtbHbmrefBurst s
  | .pgRise n => Sys2Proof.Machine.execPgRise n s
  | .vddLtnRemoval => Sys2Proof.Machine.execVddLtnRemoval s
  | .referenceClockLoss clock => Sys2Proof.Machine.execReferenceClockLoss clock s
  | .linkDisable l disable => Sys2Proof.Machine.execLinkDisable l disable s
  | .timerEnable n en => Sys2Proof.Machine.execTimerEnable n en s

end Sys2Proof.Machine
end

