-- ==== Sys2Proof/Machine/Tick.lean ====
section
/-! DEFINITION. Machine/Tick.lean: what happens with no command waiting (log entry 4): one turn of the command engine (R266) and one
TBCLK of the timebase (R500) and of the timers (R504). -/

namespace Sys2Proof.Machine

/-- One tick: nothing moves while the device is not running or a fatal condition holds. -/
def State.tick (s : State) : State :=
  if s.dead.isSome || !s.awake then s
  else s.engineTurn.tbTick.forAll (List.range 32) State.timerClock

end Sys2Proof.Machine
end

