-- ==== Sys2Proof/Safety.lean ====
section
/-! DEFINITION. Safety.lean: what counts as a safe step, the invariant that every step keeps, and the frames in which the statements
say what a command leaves unchanged. -/

namespace Sys2Proof.Machine

/-- A command that answers a next state. -/
def Runs (c : Instr) (s : State) : Prop := ∃ t, exec c s = .next t

/-- The device works: neither THERMTRIP (R438) nor the loss of SYSCLK (R547) holds. -/
abbrev Alive (s : State) : Prop := s.dead = none

/-- Every table of the state is in canonical form: keys strictly rising, no entry equal to what an unlisted key reads as. -/
abbrev Canon (s : State) : Prop :=
  Memory.wf s.mem ∧ Tab.wf regReset s.reg.vals ∧
  Tab.wf (fun _ => Binding.empty) s.cmd.bindings ∧ Tab.wf (fun _ => Stream.empty) s.cmd.streams ∧
  Tab.wf (fun _ => Ctx.empty) s.cmd.ctxs ∧
  Tab.wf (fun _ => Core.empty) s.core.cores ∧ Tab.wf (fun _ => Slot.empty) s.core.slots ∧
  Tab.wf (fun _ => Reduction.empty) s.core.reds ∧ Tab.wf (fun _ => []) s.rtr.rings ∧
  Tab.wf (fun _ => Chan.empty) s.cnv.chans ∧ Tab.wf (fun _ => Inst.empty) s.cnv.insts ∧ Tab.wf (fun _ => ActFrame.empty) s.cnv.acts ∧
  Tab.wf (fun _ => 0) s.syn.buoys ∧ Tab.wf (fun _ => Queue.empty) s.syn.queues ∧ Tab.wf (fun _ => Writer.empty) s.syn.writers ∧
  Tab.wf (fun _ => Link.empty) s.fab.links ∧ Tab.wf (fun _ => E2E.empty) s.fab.e2e ∧ Tab.wf (fun _ => Circuit.empty) s.fab.circuits ∧
  Tab.wf (fun _ => Space.empty) s.eth.spaces ∧ Tab.wf (fun _ => Timer.empty) s.tmr.timers ∧
  Tab.wf (fun _ => 0) s.reg.live ∧ Tab.wf Memory.unlisted s.mem.shadow ∧ Tab.wf (fun _ => 0) s.mem.pointers ∧
  Tab.wf (fun _ => none) s.cmd.banks ∧ Tab.wf (fun _ => (0, 0)) s.cmd.windows ∧
  Tab.wf (fun _ => ⟨0, 0, 0, 0, 0, false, 0, []⟩) s.rtr.replicas ∧ Tab.wf (fun _ => 0) s.rtr.credits ∧
  Tab.wf (fun _ => RingUse.empty) s.rtr.pages ∧ Tab.wf (fun _ => []) s.rtr.staging ∧ Tab.wf (fun _ => 0) s.cnv.tallies ∧
  Tab.wf (fun _ => none) s.syn.owner ∧ Tab.wf (fun _ => []) s.sec.sas ∧ Tab.wf (fun _ => (0, 0)) s.core.units ∧
  Tab.wf (fun _ => SysCore.empty) s.sys.coreMap ∧ Tab.wf (fun _ => []) s.mem.requests ∧ Tab.wf (fun _ => 0) s.gov.acts

/-! ## Frames -/

/-- The units of a device. -/
inductive Part where
  | fuses | reg | mem | cmd | core | rtr | sys | cnv | syn | fab | eth | gov | ltn | kpr | irq | tmr | sec | ptb | dead | out | free
deriving DecidableEq, Repr

/-- A unit is the same in both states. -/
def Same (s t : State) : Part → Prop
  | .fuses => t.fuses = s.fuses
  | .reg => t.reg = s.reg
  | .mem => t.mem = s.mem
  | .cmd => t.cmd = s.cmd
  | .core => t.core = s.core
  | .rtr => t.rtr = s.rtr
  | .sys => t.sys = s.sys
  | .cnv => t.cnv = s.cnv
  | .syn => t.syn = s.syn
  | .fab => t.fab = s.fab
  | .eth => t.eth = s.eth
  | .gov => t.gov = s.gov
  | .ltn => t.ltn = s.ltn
  | .kpr => t.kpr = s.kpr
  | .irq => t.irq = s.irq
  | .tmr => t.tmr = s.tmr
  | .sec => t.sec = s.sec
  | .ptb => t.ptb = s.ptb
  | .dead => t.dead = s.dead
  | .out => t.out = s.out
  | .free => t.free = s.free

/-- From `s` to `t` only the listed units may change: every other unit, the waiting commands, and with `mem` not listed every byte of
memory, are as before. -/
structure OnlyChanges (l : List Part) (s t : State) : Prop where
  queue : t.pending = s.pending
  same  : ∀ p, p ∉ l → Same s t p

/-- Every register but those at the listed addresses reads as before, its live high part too. -/
def OnlyRegs (l : List Nat) (s t : State) : Prop :=
  ∀ a, a ∉ l → t.rget a = s.rget a ∧ t.longGet a = s.longGet a

end Sys2Proof.Machine
end

