-- ==== Sys2Proof/Certificates/Slice0/Obligations.lean ====
section
/-! DEFINITION. Certificates/Slice0/Obligations.lean: the statements about the model, by the chapters of the spec. A statement of what a
command does has as its conclusion that `exec` answers a next state, says what that state holds and what it leaves unchanged. -/

open Sys2Proof Sys2Proof.Machine

/-! ## The machine as a whole -/

/-- A step runs the command at the front of the queue on the state with the queue's rest. -/
def Obligations.StepRunsFrontCommand : Prop :=
  ∀ (s : State) (c : Instr) (r : List Instr), step { s with pending := c :: r } = exec c { s with pending := r }

/-- With no command waiting a step is one tick of the device's own clocks (the model's choice, log entry 4), and nothing moves while the
device is not running. -/
def Obligations.EmptyQueueTicks : Prop :=
  ∀ s : State, s.pending = [] →
    step s = .next s.tick ∧ ((s.dead ≠ none ∨ (s.ltn.power ≠ .run ∧ s.ltn.power ≠ .doze)) → step s = .next s)

/-- Right after reset every table is in canonical form, nothing waits, is bound or raised, the timebase is 0, and registers read the reset
values their tables give: the step registers, the scrub and arbitration periods, the ports, the governor, Lantern and the timers.
That what stands outside the tables is empty, and that the part is a JY16 of 400 W, is the model's choice (log entries 1 and 2). -/
def Obligations.ResetState : Prop :=
  let s := State.reset
  Canon s ∧ s.pending = [] ∧ s.dead = none ∧ s.irq.raw = 0 ∧ s.irq.active = 0 ∧ s.tmr.tb = 0 ∧ s.sec.dbg = 0 ∧ s.out = [] ∧
  (∀ b, b < 64 → (s.bnd b).valid = false ∧ s.rget (Reg.cmdStepCtrl b) = 0x400 ∧ s.rget (Reg.cmdStepLen b) = 0x124F8 ∧
    s.rget (Reg.cmdStepLockPeriod b) = 0xF4240 ∧ s.rget (Reg.cmdStepLockPhase b) = 0) ∧
  (∀ n, n < 256 → (s.strm n).bound = false ∧ (s.strm n).frozen = false) ∧ (∀ k, k < 65536 → s.buoy k = 0) ∧
  s.rget Reg.xbrArb = 0x11 ∧ s.rget Reg.fabArb = 0x11 ∧ s.rget Reg.xbrScrub = 0x0E1003E8 ∧
  (∀ p, p < 2 → s.rget (Reg.ethPortCfg p) = 7 ∧ s.rget (Reg.ethGclCycle p) = 0xF4240) ∧ s.rget Reg.ethTpCfg = 0x88B50010 ∧
  s.rget Reg.ethTpRto = 0x1F4 ∧ s.rget Reg.pgvCtrl = 0x02000024 ∧ s.rget Reg.pgvCap = 400 ∧
  s.rget Reg.pgvTcap = 480 ∧ s.rget Reg.pgvTlim = 0x00645C5F ∧
  (∀ r, r < 8 → s.rget (Reg.pgvGain r) = 0x4000) ∧ (∀ c, c < 3 → s.level c = 0) ∧ s.rget Reg.ltnWakeen = 0x20 ∧ s.rget Reg.ltnWkwin = 0x14 ∧
  s.rget Reg.ltnPgtmo = 0x0A ∧
  (∀ n, n < 32 → s.rget (Reg.tmrPeriod n) = 0xFFFFFFFF ∧ s.rget (Reg.tmrCount n) = 0 ∧ s.timerOn n = false)

/-- THE INVARIANT: every step keeps the byte memory, the register file and every other table of the state in canonical form, so that
equal contents are equal data. -/
def Obligations.StepKeepsCanon : Prop :=
  ∀ s t : State, Canon s → step s = .next t → Canon t

/-- No command changes the commands that wait, nor what the fuses say of the part: DEVID, grade, stepping, the cores and slices found bad
at manufacture. -/
def Obligations.ExecKeepsQueueAndPart : Prop :=
  ∀ (c : Instr) (s t : State), exec c s = .next t →
    t.pending = s.pending ∧ t.fuses.devid = s.fuses.devid ∧ t.fuses.grade = s.fuses.grade ∧ t.fuses.stepping = s.fuses.stepping ∧
      t.fuses.badCores = s.fuses.badCores ∧ t.fuses.badSlices = s.fuses.badSlices

/-- After THERMTRIP or the loss of SYSCLK every command but a reset from outside stops with that fault, and the device moves no more on its
own; a power-on or cold reset ends the condition (log entry 10). -/
def Obligations.FatalUntilReset : Prop :=
  ∀ (s : State) (e : Fault), s.dead = some e →
    (∀ c, c ≠ .powerOnReset → c ≠ .coldReset → c ≠ .vddLtnRemoval → exec c s = .fault e) ∧ s.tick = s ∧
    (∀ c, c = .powerOnReset ∨ c = .coldReset ∨ c = .vddLtnRemoval → ∃ t, exec c s = .next t ∧ t.dead = none)
/-! ## The neuron engine (R61-R90) -/

/-- sat32 of R68: the register word of an integer clamped to [−2^31, 2^31−1]. -/
def Spec.sat (x : Int) : Word := BitVec.ofInt 32 (max (-2 ^ 31) (min (2 ^ 31 - 1) x))
/-- The ASAT bit of CORE_NRN_FLAGS where sat32 clamps. -/
def Spec.asat (x : Int) : Word := if x < -2 ^ 31 ∨ 2 ^ 31 - 1 < x then 1 else 0

/-- The lane group of core `n` runs one instruction: `f` on every active lane, the flags `fl` of the active lanes joined to
CORE_NRN_FLAGS of the group's slot. No other core, slot, rule or register changes, and of the core itself only the lanes. -/
def Spec.LaneStep (n : Nat) (s t : State) (f : Lane → Lane) (fl : Lane → Word) : Prop :=
  OnlyChanges [.core, .reg] s t ∧ t.core.slots = s.core.slots ∧ t.core.reds = s.core.reds ∧
  (∀ m, m ≠ n → t.cor m = s.cor m) ∧
  t.cor n = { s.cor n with lanes := (s.cor n).lanes.map (fun l => if l.active then f l else l) } ∧
  OnlyRegs [Reg.coreNrnFlags n (s.cor n).slot] s t ∧
  t.rget (Reg.coreNrnFlags n (s.cor n).slot) =
    (s.cor n).lanes.foldl (fun w l => if l.active then w ||| fl l else w) (s.rget (Reg.coreNrnFlags n (s.cor n).slot))

/-- rshift_rne is division by 2^s to the nearest integer, ties to the even one. -/
def Spec.RshiftIsNearestEven : Prop :=
  ∀ (x : Int) (s : Nat), 2 * (2 ^ s * rneShift x s - x).natAbs ≤ 2 ^ s ∧
    (s ≠ 0 → 2 * (2 ^ s * rneShift x s - x).natAbs = 2 ^ s → rneShift x s % 2 = 0)

/-- ADD, SUB, MULQ and MAC: the exact result, rounded where it shifts, saturated, ASAT where it clamps. -/
def Spec.NeuronArithmetic : Prop :=
  ∀ (s : State) (core : BitVec 10) (d a b : BitVec 4) (k : BitVec 5), Canon s → Alive s →
    (∃ t, exec (.add core d a b) s = .next t ∧ Spec.LaneStep core.toNat s t
      (fun l => l.setReg d (Spec.sat (l.regI a + l.regI b))) (fun l => Spec.asat (l.regI a + l.regI b))) ∧
    (∃ t, exec (.sub core d a b) s = .next t ∧ Spec.LaneStep core.toNat s t
      (fun l => l.setReg d (Spec.sat (l.regI a - l.regI b))) (fun l => Spec.asat (l.regI a - l.regI b))) ∧
    (∃ t, exec (.mulq core d a b k) s = .next t ∧ Spec.LaneStep core.toNat s t
      (fun l => l.setReg d (Spec.sat (rneShift (l.regI a * l.regI b) k.toNat)))
      (fun l => Spec.asat (rneShift (l.regI a * l.regI b) k.toNat))) ∧
    (∃ t, exec (.mac core d a b k) s = .next t ∧ Spec.LaneStep core.toNat s t
      (fun l => l.setReg d (Spec.sat (l.regI d + rneShift (l.regI a * l.regI b) k.toNat)))
      (fun l => Spec.asat (l.regI d + rneShift (l.regI a * l.regI b) k.toNat)))

/-- rshift_rne rounds to nearest even; ADD, SUB, MULQ and MAC. -/
def Obligations.NeuronArithmetic : Prop := Spec.RshiftIsNearestEven ∧ Spec.NeuronArithmetic

/-- NOP, MOVI, DECAY, MIN, MAX, CLAMP, CMPGT, CMPGE and SEL: the operations that set no flag. -/
def Spec.NeuronMovesAndCompares : Prop :=
  ∀ (s : State) (core : BitVec 10) (d a b c : BitVec 4) (imm : BitVec 14) (k1 k2 : BitVec 5), Canon s → Alive s →
    (∃ t, exec (.nop core) s = .next t ∧ Spec.LaneStep core.toNat s t (fun l => l) (fun _ => 0)) ∧
    (∃ t, exec (.movi core d imm) s = .next t ∧
      Spec.LaneStep core.toNat s t (fun l => l.setReg d (BitVec.ofInt 32 imm.toInt)) (fun _ => 0)) ∧
    (k1 ≠ 0 → ∃ t, exec (.decay core d a k1 k2) s = .next t ∧ Spec.LaneStep core.toNat s t
      (fun l => l.setReg d (BitVec.ofInt 32
        (l.regI a - l.regI a / 2 ^ k1.toNat - if k2 = 0 then 0 else l.regI a / 2 ^ k2.toNat))) (fun _ => 0)) ∧
    exec (.decay core d a 0 k2) s = .next s ∧
    (∃ t, exec (.min core d a b) s = .next t ∧
      Spec.LaneStep core.toNat s t (fun l => l.setReg d (BitVec.ofInt 32 (min (l.regI a) (l.regI b)))) (fun _ => 0)) ∧
    (∃ t, exec (.max core d a b) s = .next t ∧
      Spec.LaneStep core.toNat s t (fun l => l.setReg d (BitVec.ofInt 32 (max (l.regI a) (l.regI b)))) (fun _ => 0)) ∧
    (∃ t, exec (.clamp core d a b) s = .next t ∧
      Spec.LaneStep core.toNat s t
        (fun l => l.setReg d (BitVec.ofInt 32 (min (max (l.regI d) (l.regI a)) (l.regI b)))) (fun _ => 0)) ∧
    (∃ t, exec (.cmpgt core d a b) s = .next t ∧
      Spec.LaneStep core.toNat s t
        (fun l => l.setReg d (if l.regI b < l.regI a then 0xFFFFFFFF else 0)) (fun _ => 0)) ∧
    (∃ t, exec (.cmpge core d a b) s = .next t ∧
      Spec.LaneStep core.toNat s t
        (fun l => l.setReg d (if l.regI b ≤ l.regI a then 0xFFFFFFFF else 0)) (fun _ => 0)) ∧
    (∃ t, exec (.sel core d a b c) s = .next t ∧
      Spec.LaneStep core.toNat s t (fun l => l.setReg d (if l.reg c ≠ 0 then l.reg a else l.reg b)) (fun _ => 0))

/-- FIRE decides the fire count: floor(drive / threshold) up to the cap of the mode when the threshold is above 0 and met, 0 when it is
not met, 0 with THRF when it is not above 0. FIRE writes the count to V[D] and to the lane and bumps the enabled traces. -/
def Spec.FireDecides : Prop :=
  ∀ (s : State) (core : BitVec 10) (d a b : BitVec 4), Canon s → Alive s →
    let sl := s.slotAt core.toNat (s.cor core.toNat).slot
    let cap : Int := if sl.counted then 7 else 1
    ∃ (t : State) (n : Lane → Nat), exec (.fire core d a b) s = .next t ∧
      (∀ l, (0 < l.regI b → l.regI b ≤ l.regI a → (n l : Int) = min (l.regI a / l.regI b) cap) ∧
        (l.regI a < l.regI b → n l = 0) ∧ (l.regI b ≤ 0 → n l = 0)) ∧
      Spec.LaneStep core.toNat s t
        (fun l => { l.setReg d (BitVec.ofNat 32 (n l)) with
          n := n l
          exc := l.exc || decide (0 < l.regI b ∧ l.regI b ≤ l.regI a ∧ cap < l.regI a / l.regI b)
          wrec := fireBumps sl (n l) l.wrec })
        (fun l => if l.regI b ≤ 0 then 4 else 0)

/-- RSUB removes n thresholds from the drive, saturated; RSET replaces it where the lane fired. -/
def Spec.ResetInstructions : Prop :=
  ∀ (s : State) (core : BitVec 10) (d a b : BitVec 4), Canon s → Alive s →
    (∃ t, exec (.rsub core d a b) s = .next t ∧ Spec.LaneStep core.toNat s t
      (fun l => l.setReg d (Spec.sat (l.regI a - l.n * l.regI b))) (fun l => Spec.asat (l.regI a - l.n * l.regI b))) ∧
    (∃ t, exec (.rset core d a b) s = .next t ∧ Spec.LaneStep core.toNat s t
      (fun l => l.setReg d (if 0 < l.n then l.reg b else l.reg a)) (fun _ => 0))

/-- FIRE, and the resets RSUB and RSET that follow it. -/
def Obligations.FireAndReset : Prop := Spec.FireDecides ∧ Spec.ResetInstructions

/-- LDF loads the source its selector names, STF stores to a field of the record and nothing else, TBUMP bumps an enabled trace, RAND draws
word k of the instance's Philox counter. A selector that R72 reserves, or that names no field or trace of the population, changes no lane
(no such program is accepted, R85). -/
def Spec.NeuronFieldAccess : Prop :=
  ∀ (s : State) (core : BitVec 10) (d a : BitVec 4) (sel : BitVec 8) (tr : BitVec 2) (k : BitVec 6), Canon s → Alive s →
    let sl := s.slotAt core.toNat (s.cor core.toNat).slot
    let ld := fun (l : Lane) => loadValue sl (s.ctx l.ctx) l sel.toNat
    let st := fun (l : Lane) => alignStore sl.regFrac (sl.ffrac sel.toNat)
      (fieldRange sl sel.toNat).1 (fieldRange sl sel.toNat).2 (l.reg a)
    (∃ t, exec (.ldf core d sel) s = .next t ∧ Spec.LaneStep core.toNat s t
      (fun l => if loadSelOk sl sel.toNat then l.setReg d (ld l).1 else l)
      (fun l => if loadSelOk sl sel.toNat ∧ (ld l).2 = true then 1 else 0)) ∧
    (∃ t, exec (.stf core a sel) s = .next t ∧ Spec.LaneStep core.toNat s t
      (fun l => if storeSelOk sl sel.toNat then { l with wrec := setField sl l.wrec sel.toNat (st l).1 } else l)
      (fun l => if storeSelOk sl sel.toNat ∧ (st l).2 = true then 2 else 0)) ∧
    (∃ t, exec (.tbump core a tr) s = .next t ∧ Spec.LaneStep core.toNat s t
      (fun l => if sl.traceEn tr.toNat then
        { l with wrec := setTrace sl l.wrec tr.toNat (recTrace sl l.wrec tr.toNat + rneShift (l.regI a) sl.regFrac) } else l)
      (fun _ => 0)) ∧
    (∃ t, exec (.rand core d k) s = .next t ∧ Spec.LaneStep core.toNat s t
      (fun l => l.setReg d (philoxWord (s.bnd (s.cor core.toNat).binding.toNat).seed (s.ctx l.ctx).cstep (sl.nBase + l.idx)
        l.cidx.toNat sl.pop 0 k.toNat)) (fun _ => 0))

/-- The other instructions of the neuron engine. -/
def Obligations.NeuronMoves : Prop := Spec.NeuronMovesAndCompares ∧ Spec.NeuronFieldAccess

/-! ## The command set (R258-R299) -/

/-- A command answers a next state in which only the listed units have changed and `P` holds. -/
def Spec.To (c : Instr) (s : State) (l : List Part) (P : State → Prop) : Prop :=
  ∃ t, exec c s = .next t ∧ OnlyChanges l s t ∧ P t

/-- Only the listed units have changed, and of the governor at most the activity it counts in its window (R424). -/
def Spec.Frame (l : List Part) (s t : State) : Prop := OnlyChanges (.gov :: l) s t ∧ (.gov ∉ l → t.gov = { s.gov with acts := t.gov.acts })

/-- The same of a command that the governor's activity counts see. -/
def Spec.Run (c : Instr) (s : State) (l : List Part) (P : State → Prop) : Prop := ∃ t, exec c s = .next t ∧ Spec.Frame l s t ∧ P t

/-- The registers that counting HBM granules may change (R362, R499): the counts, their overflow flags and the merged interrupts. -/
def Spec.grRegs : List Nat :=
  [Reg.irqMerged, Reg.irqLastm] ++ (List.range 4).flatMap (fun h => [Reg.hbmGrLo h, Reg.hbmStat h])

/-- The byte memory holds what it held: only errors of words that were written anew are gone (R346). -/
def Spec.SameBytes (s t : State) : Prop := t.mem = { s.mem with bad := t.mem.bad } ∧ ∀ w ∈ t.mem.bad, w ∈ s.mem.bad

/-- The binding of the stream that issues a command. -/
def Spec.bind (s : State) (h : Hdr) : Nat := (s.strm h.stream.toNat).binding.toNat

/-- Nothing keeps a command from its issue: the device works, in RUN after READY, and the stream is not frozen, has nothing waiting,
nothing outstanding and room for its frames to the host; the command has the words its opcode requires (R260) and addresses no slice in
maintenance mode (R340). -/
def Spec.Clear (s : State) (h : Hdr) (c : Instr) : Prop :=
  Alive s ∧ 2 ≤ s.rfield Reg.budState 30 2 ∧ s.ltn.power = .run ∧ s.spaceFull h.stream.toNat = false ∧
  (s.strm h.stream.toNat).frozen = false ∧ (s.strm h.stream.toNat).held = [] ∧ (s.strm h.stream.toNat).outst = [] ∧ wordStatus c = St.ok ∧
  s.maintWaits c = false

/-- As above, on a bound stream. -/
def Spec.Ready (s : State) (h : Hdr) (c : Instr) : Prop := Spec.Clear s h c ∧ (s.strm h.stream.toNat).bound = true

/-- As above, with no step of the binding running or queued and no boundary command waiting: a boundary command takes effect at once
(R270). -/
def Spec.ReadyIdle (s : State) (h : Hdr) (c : Instr) : Prop :=
  Spec.Ready s h c ∧ s.idle (Spec.bind s h) = true ∧ (s.bnd (Spec.bind s h)).boundary = [] ∧ ∀ d : Deferred, d.cmd = c → s.deferReady (Spec.bind s h) d = true

/-- What a completion with IRQ may also change (R259, R494, R498). -/
def Spec.irqParts (h : Hdr) : List Part := if h.irq then [.reg, .irq, .out, .eth] else []

/-- The command took the next CSEQ and completed: the stream's status shows it, a final record leaves unless the command is QUIET and its
status OK, and IRQ raises the stream's source (R259, R261-R263). -/
def Spec.Done (s t : State) (h : Hdr) (op st : Byte) (res : Nat) : Prop :=
  let n := h.stream.toNat
  (t.strm n).cseq = (s.strm n).cseq + 1 ∧ (t.strm n).lastStatus = st ∧ (t.strm n).lastOpcode = op ∧ (t.strm n).outst = [] ∧
  ((h.quiet = false ∨ st ≠ St.ok) → Cpl.mk (s.strm n).cseq op st h.stream (BitVec.ofNat 40 res) ∈ t.cmd.cpls) ∧
  (h.irq → t.irq.raw.getLsbD (201 + n))

/-- The same, and the stream and the records of the command plane change in no other way. -/
def Spec.DoneOnly (s t : State) (h : Hdr) (op st : Byte) (res : Nat) : Prop :=
  let n := h.stream.toNat
  Spec.Done s t h op st res ∧
  t.strm n = { s.strm n with cseq := (s.strm n).cseq + 1, lastStatus := st, lastOpcode := op } ∧
  (∀ m, m ≠ n → t.strm m = s.strm m) ∧
  t.cmd.cpls = s.cmd.cpls ++
    (if h.quiet && st = St.ok then [] else [⟨(s.strm n).cseq, op, st, h.stream, BitVec.ofNat 40 res⟩])

/-- The command took the next CSEQ and is outstanding, with a PENDING record where ACKP asks for one (R263, R267). -/
def Spec.Pending (s t : State) (h : Hdr) (op : Byte) : Prop :=
  let n := h.stream.toNat
  (∃ o : Outst, o.cseq = (s.strm n).cseq ∧ o.opcode = op ∧ o.hdr.stream = h.stream ∧ o.hdr.quiet = h.quiet ∧ o.hdr.irq = h.irq ∧
    t.strm n = { s.strm n with cseq := (s.strm n).cseq + 1, outst := [o] }) ∧
  (∀ m, m ≠ n → t.strm m = s.strm m) ∧
  t.cmd.cpls = s.cmd.cpls ++ (if h.ackp then [⟨(s.strm n).cseq, op, St.pending, h.stream, 0⟩] else [])

/-- A command that reaches a stream takes the next CSEQ. On a frozen stream it completes with FROZEN, behind a command that waits it waits,
with an opcode R273 does not list it completes with BAD_OPCODE, or with the higher BAD_OPERAND where it is cut short, and on a stream without a binding with NOT_BOUND unless it is one R296
exempts; before READY it reaches no stream. None of these changes anything but the command plane. -/
def Spec.CommandAcceptance : Prop :=
  ∀ (s : State) (c : Instr) (h : Hdr) (op : Byte), cmdHdr c = some (h, op) → Alive s →
    (s.accepting = false → exec c s = .next s) ∧
    (s.accepting → (s.strm h.stream.toNat).frozen → (s.strm h.stream.toNat).outst = [] →
      Spec.Run c s (.cmd :: Spec.irqParts h) (fun t => Spec.DoneOnly s t h op St.frozen 0)) ∧
    (s.accepting → (s.strm h.stream.toNat).frozen = false → (s.strm h.stream.toNat).held ≠ [] →
      Spec.Run c s [.cmd] (fun t => t.cmd.cpls = s.cmd.cpls ∧ t.strm h.stream.toNat =
        { s.strm h.stream.toNat with
          cseq := (s.strm h.stream.toNat).cseq + 1
          held := (s.strm h.stream.toNat).held ++ [((s.strm h.stream.toNat).cseq, c)] })) ∧
    (Spec.Clear s h c → (s.strm h.stream.toNat).bound = false → unboundOk c = false →
      Spec.Run c s (.cmd :: Spec.irqParts h) (fun t => Spec.DoneOnly s t h op St.notBound 0)) ∧
    (∀ op' cut, c = .reservedOpcode h op' cut → opcodeOk op' = false → s.accepting → s.spaceFull h.stream.toNat = false →
      (s.strm h.stream.toNat).frozen = false → (s.strm h.stream.toNat).held = [] → (s.strm h.stream.toNat).outst = [] →
      Spec.Run c s (.cmd :: Spec.irqParts h) (fun t => Spec.DoneOnly s t h op' (if cut then St.badOperand else St.badOpcode) 0))

/-- BIND KIND 0 on a stream without a binding, issued on the lowest device of DEVMASK: binding FIRST becomes valid with this device as its
lead, at step 0, and the stream is bound to it. -/
def Obligations.CreateMakesBinding : Prop :=
  ∀ (s : State) (h : Hdr) (first : BitVec 18) (mask seed w3 : Word64),
    let b := first.toNat
    Spec.Clear s h (.bind h 0 0 first mask seed w3) → (s.strm h.stream.toNat).bound = false →
    b < 64 → (s.bnd b).valid = false → (s.bnd b).joinWait = none → (s.bnd b).joinsHeld = [] →
    (∀ d, d < 64 → mask.getLsbD d → d ∈ s.sys.ready) → mask.getLsbD s.sys.myDev.toNat →
    (∀ d, d < s.sys.myDev.toNat → mask.getLsbD d = false) →
    Spec.Run (.bind h 0 0 first mask seed w3) s ([.cmd, .reg] ++ Spec.irqParts h) (fun t =>
      Spec.Done s t h 0x01 St.ok 0 ∧ (t.strm h.stream.toNat).bound ∧ (t.strm h.stream.toNat).binding.toNat = b ∧
      t.bnd b = { Binding.empty with
        valid := true, lead := s.sys.myDev, mask := mask, seed := seed, joined := [s.sys.myDev.toNat] } ∧
      (∀ k, k ≠ b → t.bnd k = s.bnd k) ∧ t.rget (Reg.cmdStepOverrun b) = 0 ∧ (t.rget (Reg.cmdStepStatus b)).getLsbD 3 = false)

/-- A resource number lies in FIRST to FIRST + COUNT − 1. -/
def Spec.Named (first : BitVec 18) (count : BitVec 19) (k : Nat) : Prop := first.toNat ≤ k ∧ k < first.toNat + count.toNat

/-- BIND of buoys, queues, channels, circuits, timers and streams that are free: exactly the named ones become the binding's, cleared; BIND
HBM_WINDOW fills a free slot. -/
def Obligations.BindTakesResources : Prop :=
  ∀ (s : State) (h : Hdr) (kind : BitVec 4) (count : BitVec 19) (first : BitVec 18) (w1 w2 w3 : Word64),
    let c := Instr.bind h kind count first w1 w2 w3
    let b := Spec.bind s h
    let all := fun (p : Nat → Prop) => ∀ k, Spec.Named first count k → p k
    let only := fun (t : State) => ∀ k, (t.owns b kind.toNat k = true ↔ (s.owns b kind.toNat k = true ∨ Spec.Named first count k))
    Spec.ReadyIdle s h c → 1 ≤ count.toNat → Canon s →
    (kind = 4 → first.toNat + count.toNat ≤ 4096 → all (fun q => (s.queueAt q).bound = false) →
      Spec.Run c s ([.cmd, .syn] ++ Spec.irqParts h) (fun t => Spec.DoneOnly s t h 0x01 St.ok 0 ∧ only t ∧
        all (fun q => (t.queueAt q).state = 0 ∧ (t.queueAt q).fill = 0))) ∧
    (kind = 5 → first.toNat + count.toNat ≤ 65472 → all (fun k => s.buoyOwner k = none) →
      Spec.Run c s ([.cmd, .syn] ++ Spec.irqParts h) (fun t => Spec.DoneOnly s t h 0x01 St.ok 0 ∧ only t ∧ all (fun k => t.buoy k = 0))) ∧
    (kind = 6 → first.toNat + count.toNat ≤ 4096 → all (fun k => (s.chan k).bound = false) →
      Spec.Run c s ([.cmd, .cnv] ++ Spec.irqParts h) (fun t => Spec.DoneOnly s t h 0x01 St.ok 0 ∧ only t ∧
        all (fun k => (t.chan k).valid = false ∧ (t.chan k).frozen = false))) ∧
    (kind = 7 → first.toNat + count.toNat ≤ 256 → all (fun k => (s.circ k).bound = false) →
      Spec.Run c s ([.cmd, .reg, .fab] ++ Spec.irqParts h) (fun t => Spec.DoneOnly s t h 0x01 St.ok 0 ∧ only t ∧
        all (fun k => (t.circ k).flows = []))) ∧
    (kind = 8 → first.toNat + count.toNat ≤ 32 → all (fun k => (s.timer k).bound = false) →
      Spec.Run c s ([.cmd, .reg, .irq, .tmr] ++ Spec.irqParts h) (fun t => Spec.Done s t h 0x01 St.ok 0 ∧ only t ∧
        all (fun k => t.rget (Reg.tmrCtrl k) = regReset (Reg.tmrCtrl k) ∧ t.rget (Reg.tmrCount k) = regReset (Reg.tmrCount k)))) ∧
    (kind = 9 → first.toNat + count.toNat ≤ 256 → all (fun k => (s.strm k).bound = false) →
      Spec.Run c s (.cmd :: Spec.irqParts h) (fun t => Spec.Done s t h 0x01 St.ok 0 ∧ only t)) ∧
    (kind = 10 → count = 1 → first.toNat ≤ 15 → (s.window b first.toNat).2 = 0 → w1.toNat % 0x200000 = 0 → w2.toNat % 0x200000 = 0 →
      w2 ≠ 0 → 0x480000000 ≤ w1.toNat → w1.toNat + w2.toNat ≤ 0x2400000000 →
      (∀ k x, (k, x) ∈ s.cmd.windows → meets w1.toNat w2.toNat x.1.toNat x.2.toNat = false) →
      Spec.Run c s (.cmd :: Spec.irqParts h) (fun t => Spec.DoneOnly s t h 0x01 St.ok 0 ∧
        t.window b first.toNat = (BitVec.ofNat 38 w1.toNat, BitVec.ofNat 38 w2.toNat) ∧
        (∀ d k, k ≤ 15 → (d, k) ≠ (b, first.toNat) → t.window d k = s.window d k)))

/-- BIND BANK and BIND CONTEXT: the named banks are the binding's and read 0; each named context holds the descriptor of R277. -/
def Spec.BindBanksAndContexts : Prop :=
  ∀ (s : State) (h : Hdr) (kind : BitVec 4) (count : BitVec 19) (first : BitVec 18) (w1 w2 w3 : Word64),
    let c := Instr.bind h kind count first w1 w2 w3
    let b := Spec.bind s h
    Spec.ReadyIdle s h c → 1 ≤ count.toNat → Canon s →
    (kind = 3 → first.toNat + count.toNat ≤ 112 →
      (∀ k, Spec.Named first count k → s.bankOwner k = none ∧ s.rfield (Reg.slcCfg (k / 4)) 0 2 ≠ 1 ∧ s.bankOos k = false) →
      Spec.Run c s ([.cmd, .mem, .cnv, .out] ++ Spec.irqParts h) (fun t => Spec.DoneOnly s t h 0x01 St.ok 0 ∧
        (∀ k, t.bankOwner k = if first.toNat ≤ k ∧ k < first.toNat + count.toNat then some (BitVec.ofNat 6 b) else s.bankOwner k) ∧
        (∀ k i, Spec.Named first count k → i < 0x200000 → t.byteAt (Mem.slice (k / 4) + k % 4 * 0x200000 + i) = 0) ∧
        (∀ a, (∀ k, Spec.Named first count k →
          a < Mem.slice (k / 4) + k % 4 * 0x200000 ∨ Mem.slice (k / 4) + (k % 4 + 1) * 0x200000 ≤ a) → t.byteAt a = s.byteAt a))) ∧
    (kind = 2 → s.ctxStatus b first.toNat count.toNat w1 w2 w3 = St.ok →
      (s.forAll (List.range count.toNat) (fun u i => u.setCtx (first.toNat + i) (boundCtx b i w1 w2 w3))).spillFits b →
      Spec.Run c s (.cmd :: Spec.irqParts h) (fun t => Spec.DoneOnly s t h 0x01 St.ok 0 ∧
        (∀ i, i < count.toNat → t.ctx (first.toNat + i) = boundCtx b i w1 w2 w3) ∧
        (∀ k, ¬ Spec.Named first count k → t.ctx k = s.ctx k)))

/-- BIND CORE of PRESENT free cores of this device: each becomes the binding's with its stores, program slots and rings empty; a core that
is not named keeps everything. -/
def Spec.BindCores : Prop :=
  ∀ (s : State) (h : Hdr) (count : BitVec 19) (first : BitVec 18) (w1 w2 w3 : Word64),
    let c := Instr.bind h 1 count first w1 w2 w3
    let b := Spec.bind s h
    let cs := s.localCores (named first.toNat count.toNat)
    Spec.ReadyIdle s h c → Canon s → 1 ≤ count.toNat → count.toNat ≤ 16 → cs.length = count.toNat → cs.Nodup →
    (∀ n ∈ cs, (s.cor n).bound = false ∧ s.corePresent n = true) → (∀ k, Spec.Named first count k → s.sysPresent k = true) →
    (s.bindNow b 1 count.toNat first.toNat w1 w2 w3).2.1 = St.ok →
    Spec.Run c s ([.cmd, .reg, .mem, .core, .rtr] ++ Spec.irqParts h) (fun t => Spec.Done s t h 0x01 St.ok 0 ∧
      (∀ n ∈ cs, t.cor n = { Core.empty with bound := true, binding := BitVec.ofNat 6 b } ∧
        (∀ k, k < 64 → t.slotAt n k = Slot.empty ∧ t.ring n k = []) ∧
        (∀ k i, k < 5 → i < storeBytes k → t.byteAt (Mem.store n k + i) = 0)) ∧
      (∀ n, n ∉ cs → t.cor n = s.cor n))

/-- BIND of banks, contexts and cores. -/
def Obligations.BindMemoryAndCores : Prop := Spec.BindBanksAndContexts ∧ Spec.BindCores

/-- UNBIND of resources the binding owns: exactly the named ones are released, and the command completes with OK. -/
def Spec.UnbindReleases : Prop :=
  ∀ (s : State) (h : Hdr) (kind : BitVec 4) (count : BitVec 19) (first : BitVec 18),
    let c := Instr.unbind h kind count first
    let b := Spec.bind s h
    let only := fun (t : State) => Spec.Done s t h 0x02 St.ok 0 ∧
      ∀ k, (t.owns b kind.toNat k = true ↔ (s.owns b kind.toNat k = true ∧ ¬ Spec.Named first count k))
    Spec.ReadyIdle s h c → Canon s → s.unbindStatus b kind.toNat count.toNat first.toNat = St.ok →
    (kind = 1 → (∀ j k n, s.localOf j = some n → s.localOf k = some n → j = k) →
      Spec.Run c s [.cmd, .core, .rtr, .reg, .mem, .fab, .irq, .eth, .ptb, .out, .free] (fun t => only t ∧
        ∀ k n, Spec.Named first count k → s.localOf k = some n → t.cor n = Core.empty)) ∧
    (kind = 2 → Spec.Run c s ([.cmd, .cnv] ++ Spec.irqParts h) only) ∧
    (kind = 3 → Spec.Run c s (.cmd :: Spec.irqParts h) only) ∧
    (kind = 4 ∨ kind = 5 → Spec.Run c s [.cmd, .syn, .reg, .fab, .eth, .irq, .ptb, .out, .free] only) ∧
    (kind = 6 → Spec.Run c s [.cmd, .cnv, .syn, .fab, .reg, .eth, .irq, .ptb, .out, .free] only) ∧
    (kind = 7 → Spec.Run c s ([.cmd, .reg, .fab] ++ Spec.irqParts h) only) ∧
    (kind = 8 → Spec.Run c s ([.cmd, .reg, .irq, .tmr] ++ Spec.irqParts h) only) ∧
    (kind = 9 → Spec.Run c s [.cmd, .core, .cnv, .syn, .fab, .reg, .eth, .irq, .ptb, .out, .free] only) ∧
    (kind = 10 → Spec.Run c s (.cmd :: Spec.irqParts h) only)

/-- UNBIND ALL on the lead of an idle binding: the binding is as no CREATE had made it, and none of its contexts, banks, queues, buoys,
channels, circuits, timers, streams or HBM windows stays with it. -/
def Spec.UnbindAllEndsBinding : Prop :=
  ∀ (s : State) (h : Hdr) (first : BitVec 18),
    let c := Instr.unbind h 0xF 0 first
    let b := first.toNat
    Spec.Clear s h c → Canon s → (s.strm h.stream.toNat).bound = true → Spec.bind s h = b → (s.bnd b).valid = true → s.isLead b = true →
    s.idle b = true → (s.bnd b).boundary = [] → (∀ d : Deferred, d.cmd = c → s.deferReady b d = true) →
    Spec.Run c s [.cmd, .reg, .mem, .core, .rtr, .cnv, .syn, .fab, .irq, .eth, .tmr, .ptb, .kpr, .out, .free] (fun t =>
      Spec.Done s t h 0x02 St.ok 0 ∧ t.bnd b = Binding.empty ∧
      (∀ kind k, 2 ≤ kind → kind ≤ 10 → t.owns b kind k = false) ∧ (∀ x ∈ t.kpr.snaps, x.binding.toNat ≠ b))

/-- UNBIND of named resources and UNBIND ALL. -/
def Obligations.Unbind : Prop := Spec.UnbindReleases ∧ Spec.UnbindAllEndsBinding

/-- PARK writes each context's state to its image, in whole units of 16 bytes, and leaves the context parked there; UNPARK brings the state back
to its home and clears the held list, unless the context resumes at its gate (R176). No byte outside the images, or the homes, changes. -/
def Spec.ParkAndUnpark : Prop :=
  ∀ (s : State) (h : Hdr) (first : BitVec 18) (m : Word64) (res : BitVec 2) (stride : Word) (base : BitVec 48),
    let b := Spec.bind s h
    let k := first.toNat
    let x := s.ctx k
    let n := s.extent b
    let y := { x with res := res, base := base }
    (Spec.ReadyIdle s h (.park h 1 first m stride) → Canon s → s.parkStatus b 1 k m stride.toNat = St.ok →
      s.badRange x.home n = false →
      Spec.Run (.park h 1 first m stride) s [.cmd, .reg, .mem, .rtr, .irq, .eth, .out, .free] (fun t =>
        Spec.Done s t h 0x03 St.ok 1 ∧ (t.ctx k).res = 2 ∧ (t.ctx k).base.toNat = mrHbm m ∧ (t.ctx k).cstep = x.cstep ∧
        t.bytes (Mem.hbm + mrHbm m) n = s.bytes x.home n ∧
        (∀ a, a < Mem.hbm + mrHbm m ∨ Mem.hbm + mrHbm m + (n + 15) / 16 * 16 ≤ a → t.byteAt a = s.byteAt a))) ∧
    (Spec.ReadyIdle s h (.unpark h 1 first res stride base) → Canon s →
      s.unparkStatus b 1 k res stride.toNat base.toNat = St.ok → s.badRange x.home n = false →
      ((s.unparkOne b k res base.toNat).1).spillFits b = true →
      Spec.Run (.unpark h 1 first res stride base) s [.cmd, .reg, .mem, .rtr, .irq, .eth, .out] (fun t =>
        Spec.Done s t h 0x04 St.ok 1 ∧ (t.ctx k).res = res ∧ (t.ctx k).base = base ∧ (t.ctx k).gated = s.mustGate y ∧
        (s.mustGate y = false → (t.ctx k).held = []) ∧ (t.ctx k).cstep = x.cstep ∧
        t.bytes y.home n = s.bytes x.home n ∧ (∀ a, a < y.home ∨ y.home + n ≤ a → t.byteAt a = s.byteAt a)))

/-- SNAPSHOT at the present boundary: Keeper records the binding's state, RESULT is the image's size, and the image takes the bytes at the
reference and nothing else; on another device it goes out as packets and no byte here changes. -/
def Spec.SnapshotRecords : Prop :=
  ∀ (s : State) (h : Hdr) (at' : BitVec 48) (m : Word64) (limit : BitVec 38),
    let c := Instr.snapshot h at' m limit
    let b := Spec.bind s h
    let n := s.snapSize b
    let taken := fun (t : State) => Spec.DoneOnly s t h 0x05 St.ok n ∧
      t.kpr.snaps = s.kpr.snaps ++ [s.snapOf b (s.bnd b).step (mrHbm m)] ∧ t.kpr.quiesce = s.kpr.quiesce
    Spec.ReadyIdle s h c → Canon s → (at' = BitVec.allOnes 48 ∨ at' = (s.bnd b).step) →
    mrSpace m = 1 → s.mrefCheck b m 16 = St.ok → s.mrefCheck b m n = St.ok → n ≤ limit.toNat →
    (s.mrefLocal m = true → Spec.Run c s [.cmd, .mem, .kpr, .reg, .irq, .eth, .out] (fun t => taken t ∧
      ∀ a, a < Mem.hbm + mrHbm m ∨ Mem.hbm + mrHbm m + n ≤ a → t.byteAt a = s.byteAt a)) ∧
    (s.mrefLocal m = false → Spec.Run c s [.cmd, .kpr, .reg, .fab, .irq, .eth, .ptb, .out, .free] taken)

/-- PARK, UNPARK and SNAPSHOT, with images of the model's layout (log entry 12). -/
def Obligations.ParkAndSnapshot : Prop := Spec.ParkAndUnpark ∧ Spec.SnapshotRecords

/-- LOADPROG of an image that passes its checks: the slot holds the program and its counters and flags clear; no other slot changes and the
source is only read. -/
def Obligations.LoadprogFillsSlot : Prop :=
  ∀ (s : State) (h : Hdr) (core : BitVec 10) (slot : BitVec 6) (poff : BitVec 24) (m : Word64) (n : Nat),
    let c := Instr.loadprog h core slot poff m
    let b := Spec.bind s h
    let len := imageLen (wordsOf ((s.headBytes h.stream m 64).getD []))
    let img := (s.getMref h.stream m len).1
    let x := Slot.ofImage (BitVec.ofNat 6 b) poff img
    Spec.ReadyIdle s h c → Canon s → s.localOf core.toNat = some n → (s.loadCore b core.toNat).2 = St.ok → s.mrefCheck b m 64 = St.ok →
    s.mrefCheck b m len = St.ok → (s.headBytes h.stream m 64).isSome = true → s.sourceReady h.stream m len = true →
    (s.getMref h.stream m len).2.1 = false → s.progIssue b n slot.toNat x img.length true = St.ok →
    (s.setSlot n slot.toNat x).extentsStatus b = St.ok →
    Spec.Run c s [.cmd, .core, .reg, .irq, .eth, .out, .free] (fun t =>
      Spec.Done s t h 0x10 St.ok 0 ∧ t.slotAt n slot.toNat = x ∧
      (∀ j k, k < 64 → (j, k) ≠ (n, slot.toNat) → t.slotAt j k = s.slotAt j k) ∧ (∀ j, t.cor j = s.cor j) ∧
      t.longGet (Reg.coreNrnExcLo n slot.toNat) = 0 ∧ t.longGet (Reg.coreNrnSpkLo n slot.toNat) = 0 ∧
      t.rget (Reg.coreNrnFlags n slot.toNat) = 0 ∧ t.rget (Reg.cmdBndImgsz b) = BitVec.ofNat 32 (t.imageSize b))

/-- LOADMAT stores the descriptor and its rows in the layout of R94 and clears the matrix's status register; no byte outside them changes
where the matrix has no rule. -/
def Spec.LoadmatStoresRows : Prop :=
  ∀ (s : State) (h : Hdr) (core : BitVec 10) (matrix : BitVec 8) (desc : List Word) (m : Word64) (first count : BitVec 17) (n : Nat),
    let c := Instr.loadmat h core matrix desc m first count
    let b := Spec.bind s h
    let mx := matrix.toNat
    let d := MatDesc.ofWords desc
    let row := fun (i : Nat) => Mem.store n 0 + d.base + (first.toNat + i) * d.stride
    Spec.ReadyIdle s h c → Canon s → s.localOf core.toNat = some n → n < 16 → d.valid = true → (s.rule n mx).valid = false →
    (0 < count.toNat → mrSpace m = 1 ∧ s.mrefLocal m = true ∧ s.badRange (s.mrefAddr m) (count.toNat * d.stride) = false) →
    (s.loadCore b core.toNat).2 = St.ok → (0 < count.toNat → s.mrefCheck b m (count.toNat * d.stride) = St.ok) →
    (s.loadmatNow b core.toNat mx desc h.stream m first.toNat count.toNat []).2.1 = St.ok →
    Spec.Run c s [.cmd, .reg, .mem, .core, .irq, .eth, .out, .free] (fun t =>
      Spec.Done s t h 0x11 St.ok count.toNat ∧ t.bytes (matAddr n mx) 32 = desc.flatMap (fun w => leBytes 4 w.toNat) ∧
      (∀ i, i < count.toNat → t.bytes (row i) d.stride =
        storeLayout d.fmt d.ncol (((s.bytes (s.mrefAddr m) (count.toNat * d.stride)).drop (i * d.stride)).take d.stride)) ∧
      t.rget (Reg.coreSynMstat n mx) = regReset (Reg.coreSynMstat n mx) ∧
      (∀ a, (a < matAddr n mx ∨ matAddr n mx + 32 ≤ a) → (a < row 0 ∨ row count.toNat ≤ a) → t.byteAt a = s.byteAt a))

/-- LOADROUTE stores its units, which the slot then owns, and the slot's first index; LOADRULE stores an entry of 128 bytes and starts a rule with no epoch applied. -/
def Spec.LoadsStoreTheirEntries : Prop :=
  ∀ (s : State) (h : Hdr) (core : BitVec 10) (matrix : BitVec 8) (slot : BitVec 6) (m : Word64) (idx first units : BitVec 17) (n : Nat),
    let b := Spec.bind s h
    let mx := matrix.toNat
    let len := 8 * units.toNat
    let idxAt := Mem.store n 4 + 0x1A000 + 4 * slot.toNat
    let src := s.mrefAddr m
    Canon s → s.localOf core.toNat = some n → n < 16 → mrSpace m = 1 → s.mrefLocal m = true →
    (Spec.ReadyIdle s h (.loadroute h core slot idx m first units) → s.badRange src len = false →
      (s.loadrouteNow b core.toNat slot.toNat idx.toNat h.stream m first.toNat units.toNat []).2.1 = St.ok →
      Spec.Run (.loadroute h core slot idx m first units) s [.cmd, .reg, .mem, .core, .irq, .eth, .out, .free] (fun t =>
        Spec.Done s t h 0x12 St.ok units.toNat ∧ t.units n slot.toNat = (first.toNat, units.toNat) ∧
        (∀ j, t.cor j = s.cor j) ∧ (∀ j k, k < 64 → t.slotAt j k = s.slotAt j k) ∧ t.bytes (routeUnit n first.toNat) len = s.bytes src len ∧
        t.leAt idxAt 4 = 2 ^ 31 + idx.toNat ∧
        (∀ a, (a < routeUnit n first.toNat ∨ routeUnit n first.toNat + len ≤ a) → (a < idxAt ∨ idxAt + 4 ≤ a) →
          t.byteAt a = s.byteAt a))) ∧
    (Spec.ReadyIdle s h (.loadrule h core matrix m) → s.badRange src 128 = false → (s.rule n mx).valid = false →
      let e : RuleDesc := ⟨wordsOf (s.bytes src 128)⟩
      e.valid = true → (s.loadruleNow b core.toNat mx h.stream m []).2.1 = St.ok →
      Spec.Run (.loadrule h core matrix m) s [.cmd, .reg, .mem, .core, .rtr, .irq, .eth, .out, .free] (fun t =>
        Spec.Done s t h 0x13 St.ok 0 ∧ t.bytes (ruleAddr n mx) 128 = s.bytes src 128 ∧ t.red n mx = Reduction.empty ∧
        (∀ j k, k < 256 → (j, k) ≠ (n, mx) → t.red j k = s.red j k)))

/-- LOADMAT, LOADROUTE and LOADRULE. -/
def Obligations.LoadsStore : Prop := Spec.LoadmatStoresRows ∧ Spec.LoadsStoreTheirEntries

/-- EPOCH on an idle binding gives every rule of the group its length and base, starts it anew and keeps every other byte: on a binding of this
device alone under R286's own conditions; on one of several devices where what those answer of the group's rules there, which is the
model's free value (log entry 67), stands not against it, and what the next broadcast tells them is kept. -/
def Obligations.EpochSetsRules : Prop :=
  ∀ (s : State) (h : Hdr) (g : BitVec 8) (len : BitVec 24) (base : BitVec 48),
    let b := Spec.bind s h
    let rs := s.groupRules b g.toNat
    let alone := ∀ d, d < 64 → (s.bnd b).mask.getLsbD d = true → d = s.sys.myDev.toNat
    Canon s → Spec.ReadyIdle s h (.epoch h g len base) → s.isLead b = true → 1 ≤ len.toNat →
    ((alone ∧ rs ≠ []) ∨ ((rs ≠ [] ∨ (s.peerAsk b g.toNat).getLsbD 0 = true) ∧ (s.peerAsk b g.toNat).getLsbD 2 = true)) →
    (∀ p ∈ rs, ∀ x ∈ s.memberCtxs p, x.2.cstep.toNat ≤ base.toNat) →
    (∀ p ∈ rs, (s.rule p.1 p.2).overlap = true →
      ((s.mat p.1 p.2).nrows + (s.rule p.1 p.2).ovlRows - 1) / (s.rule p.1 p.2).ovlRows ≤ len.toNat) →
    Spec.Run (.epoch h g len base) s [.cmd, .reg, .mem, .core, .rtr, .irq, .eth, .out] (fun t =>
      Spec.Done s t h 0x23 St.ok 0 ∧
      (∀ p ∈ rs, (t.red p.1 p.2).epoch = 0 ∧ t.leAt (ruleAddr p.1 p.2 + 8) 6 = base.toNat ∧ t.leAt (ruleAddr p.1 p.2 + 4) 3 = len.toNat) ∧
      (∀ a, (∀ p ∈ rs, a < ruleAddr p.1 p.2 + 4 ∨ ruleAddr p.1 p.2 + 14 ≤ a) → t.byteAt a = s.byteAt a) ∧
      (∀ j m, m < 256 → (j, m) ∉ rs → t.red j m = s.red j m) ∧
      (t.bnd b).epochsOut = (s.bnd b).epochsOut ++ (if 1 < (s.bnd b).nDevs then [(g, len, base)] else []))

/-- CHANCFG replaces the channel's descriptor, writes the preference table of a POPV decoder behind it and no other byte, and drops the
channel's instances; a decoder that was VALID keeps the values its instances emit (R237). -/
def Obligations.ChancfgReplacesChannel : Prop :=
  ∀ (s : State) (h : Hdr) (ch : BitVec 12) (m : Word64),
    let c := Instr.chancfg h ch m
    let b := Spec.bind s h
    let k := ch.toNat
    let old := s.chan k
    let a := s.mrefAddr m
    let l := chanLen (s.bytes a 64)
    let new := Chan.ofBytes b old.frozen (s.bytes a l)
    let tab := Mem.slice new.sslice + new.soff + 64
    Canon s → Spec.ReadyIdle s h c → s.owns b 6 k = true → mrSpace m ≠ 4 → s.mrefLocal m = true → s.mrefCheck b m l = St.ok →
    s.badRange a l = false → s.instsIn a l = [] → new.valid = true → s.chanStatus b new l = St.ok →
    ((s.clearInsts k).setChan k new).spillFits b = true →
    Spec.Run c s [.cmd, .reg, .mem, .cnv, .eth, .irq, .out, .free] (fun t =>
      Spec.Done s t h 0x62 St.ok 0 ∧ t.chan k = new ∧ (∀ j, j ≠ k → t.chan j = s.chan j) ∧
      (∀ x, x < 2 ^ 18 → (t.inst k x).encoded = none ∧ (t.inst k x).hist = [] ∧ (t.inst k x).slots = []) ∧
      (old.valid = true → old.dec = true → new.dec = true → ∀ p ∈ s.chanCtxs k,
        (t.inst k p.2.cidx.toNat).e = (s.instOf k p.2.cidx.toNat).e ∧ (t.inst k p.2.cidx.toNat).v = (s.instOf k p.2.cidx.toNat).e) ∧
      (new.dec = true ∧ new.kind = 2 → t.bytes tab 128 = (s.bytes a l).drop 64) ∧
      (∀ i, ¬(new.dec = true ∧ new.kind = 2) ∨ i < tab ∨ tab + 128 ≤ i → t.byteAt i = s.byteAt i))
/-- STEP and RUN join the step queue of a complete binding on its lead and are outstanding; HALT with no step running and no window open takes
effect at once: the commands of the step queue complete with the steps they ran, it with the steps it withdrew; HALT while a step runs waits
for the boundary. -/
def Spec.StepRunHalt : Prop :=
  ∀ (s : State) (h : Hdr) (n : Word),
    let b := Spec.bind s h
    let x := s.bnd b
    let q := (s.strm h.stream.toNat).cseq
    let joins := fun (left : Option Nat) (op : Byte) (t : State) => Spec.Pending s t h op ∧
      t.bnd b = { x with queue := x.queue ++ [⟨h, q, op, left, 0, St.ok, []⟩] } ∧ (∀ k, k ≠ b → t.bnd k = s.bnd k)
    (s.isLead b = true → x.complete = true → x.queue.length < 16 →
      (Spec.Ready s h (.step h) → x.step.toNat + (1 + withdrawn x.queue) < 2 ^ 48 →
        Spec.Run (.step h) s [.cmd] (joins (some 1) 0x20)) ∧
      (Spec.Ready s h (.run h n) → n ≠ 0 → x.step.toNat + (n.toNat + withdrawn x.queue) < 2 ^ 48 →
        Spec.Run (.run h n) s [.cmd] (joins (some n.toNat) 0x21)) ∧
      (Spec.Ready s h (.run h 0) → x.step.toNat + (1 + withdrawn x.queue) < 2 ^ 48 →
        Spec.Run (.run h 0) s [.cmd] (joins none 0x21))) ∧
    (Spec.Ready s h (.halt h) → s.isLead b = true → x.running = false → x.windowOpen = false → x.haltBy = [] →
      Spec.Run (.halt h) s [.cmd, .reg, .irq, .eth, .out] (fun t =>
        Spec.Done s t h 0x22 St.ok (withdrawn x.queue) ∧ t.bnd b = { x with queue := [], waitSlot := false, halting := false } ∧
        (∀ k, k ≠ b → t.bnd k = s.bnd k) ∧
        (∀ c ∈ x.queue, c.hdr.quiet = false → Cpl.mk c.cseq c.opcode c.status c.hdr.stream (BitVec.ofNat 40 c.ran) ∈ t.cmd.cpls))) ∧
    (Spec.Ready s h (.halt h) → s.isLead b = true → x.running = true →
      Spec.Run (.halt h) s [.cmd] (fun t =>
        Spec.Pending s t h 0x22 ∧ t.bnd b = { x with halting := true, haltBy := x.haltBy ++ [(h, q, 0)] }))

/-- APPLY of a group with a rule that waits for it (AUTO 0, or PART) waits for its window, and other devices of the binding learn of it; BERTH joins its core's queue, declaring the berth. -/
def Spec.ApplyAndBerth : Prop :=
  ∀ (s : State) (h : Hdr) (g : BitVec 8) (core : BitVec 10) (m circuit : BitVec 8) (k : BitVec 1) (first last : BitVec 48)
    (base lines : BitVec 14) (n : Nat),
    let b := Spec.bind s h
    let x := s.bnd b
    let q := (s.strm h.stream.toNat).cseq
    (Spec.Ready s h (.apply h g) → s.isLead b = true → x.applyPending g.toNat = false →
      (∃ p ∈ s.groupRules b g.toNat, (s.rule p.1 p.2).auto = false ∨ s.ruleState p = 3) →
      Spec.Run (.apply h g) s [.cmd, .reg, .fab, .ptb, .out, .free, .eth, .irq] (fun t =>
        (x.nDevs ≤ 1 → Spec.Frame [.cmd] s t) ∧
        Spec.Pending s t h 0x24 ∧ t.bnd b = { x with applies := x.applies ++ [(g, h, q)] } ∧ (∀ j, j ≠ b → t.bnd j = s.bnd j))) ∧
    (Spec.Ready s h (.berth h core m circuit k first last base lines) → s.localOf core.toNat = some n → (s.cor n).berthQ.length < 8 →
      s.berthStatus b core.toNat m.toNat circuit.toNat k.toNat first.toNat last.toNat base.toNat lines.toNat = St.ok →
      Spec.Run (.berth h core m circuit k first last base lines) s [.cmd, .core] (fun t =>
        Spec.Pending s t h 0x25 ∧
        (t.cor n).berthQ = (s.cor n).berthQ ++ [⟨h, q, m, circuit, k, first, last, s.cmd.issues + 1⟩] ∧
        (((s.cor n).berth k.toNat).lines = 0 → ((t.cor n).berth k.toNat).base = base ∧ ((t.cor n).berth k.toNat).lines = lines) ∧
        (((s.cor n).berth k.toNat).lines ≠ 0 → (t.cor n).berth k.toNat = (s.cor n).berth k.toNat) ∧
        (∀ j, j ≠ n → t.cor j = s.cor j)))

/-- STEP, RUN and HALT, APPLY and BERTH. -/
def Obligations.StepRunHaltApplyBerth : Prop := Spec.StepRunHalt ∧ Spec.ApplyAndBerth

/-- Modulator `k` of a context. -/
def Spec.modOf (c : Ctx) (k : Nat) : Word := if k = 0 then c.mod0 else if k = 1 then c.mod1 else if k = 2 then c.mod2 else c.mod3

/-- COPY of bytes whose source is within the device goes at once when no earlier copy of its stream writes where it does: within the device the
destination holds the source's bytes and no other byte of memory changes, and the copy is complete; to another device the bytes leave as
packets, none changes here, and the copy is outstanding until they are acknowledged; on a circuit that is up the copy becomes a flow of it,
which keeps its source range, and is outstanding. -/
def Spec.CopyMovesBytes : Prop :=
  ∀ (s : State) (h : Hdr) (mask : BitVec 4) (count : BitVec 19) (first : BitVec 18) (src dst : Word64) (len : BitVec 38)
    (circuit : BitVec 8),
    let c := fun use => Instr.copy h 0 mask count first src dst len circuit use
    let b := Spec.bind s h
    let n := len.toNat
    let a := s.mrefAddr dst
    let q := (s.strm h.stream.toNat).cseq
    Canon s → n % 16 = 0 → 0 < n → s.mrefCheck b src n = St.ok → s.mrefCheck b dst n = St.ok → mrSpace src ≠ 4 → s.mrefLocal src = true →
    s.noRoute src = false → s.noRoute dst = false → s.badRange (s.mrefAddr src) n = false → s.instsIn (s.mrefAddr src) n = [] →
    (mrSpace src = 3 ∨ mrSpace dst = 3 → s.idle b = true ∧ (s.bnd b).boundary = []) →
    (Spec.Ready s h (c false) → s.copyBehind b h.stream q dst n none = false → s.mrefLocal dst = true →
      Spec.Run (c false) s [.cmd, .reg, .mem, .cnv, .irq, .eth, .out, .free] (fun t =>
        Spec.Done s t h 0x30 St.ok n ∧ t.bytes a n = s.bytes (s.mrefAddr src) n ∧
        (∀ k, k < a ∨ a + n ≤ k → t.byteAt k = s.byteAt k))) ∧
    (Spec.Ready s h (c false) → s.copyBehind b h.stream q dst n none = false → s.mrefLocal dst = false → mrSpace dst ≠ 4 →
      Spec.Run (c false) s [.cmd, .reg, .fab, .irq, .eth, .ptb, .out, .free] (fun t => Spec.Pending s t h 0x30 ∧
        ∃ f, t.cmd.far = s.cmd.far ++ [f] ∧ f.hdr = h ∧ f.cseq = q ∧ f.dst = dst ∧ f.len = n ∧ f.status = St.ok ∧ f.result = n)) ∧
    (Spec.Ready s h (c true) → s.copyBehind b h.stream q dst n (some circuit.toNat) = false → mrSpace dst ≠ 4 →
      s.owns b 7 circuit.toNat = true → s.circuitUp circuit.toNat = true →
      Spec.Run (c true) s [.cmd, .reg, .fab, .irq, .eth, .ptb, .out, .free] (fun t =>
        Spec.Pending s t h 0x30 ∧ (∃ f, (t.circ circuit.toNat).flows = (s.circ circuit.toNat).flows ++ [f] ∧ f.cmd = some (h, q) ∧
          f.bytes = n ∧ f.chunks = flowChunks dst (s.bytes (s.mrefAddr src) n) ∧ f.src = some (s.mrefAddr src)) ∧
        (∀ j, j ≠ circuit.toNat → t.circ j = s.circ j)))

/-- COPY of modulators writes the selected modulators of the named contexts, for each context in order the next words of the source, and
nothing else. -/
def Spec.CopyWritesModulators : Prop :=
  ∀ (s : State) (h : Hdr) (mask : BitVec 4) (count : BitVec 19) (first : BitVec 18) (src : Word64) (circuit : BitVec 8) (use : Bool),
    let c := Instr.copy h 1 mask count first src 0 0 circuit use
    let b := Spec.bind s h
    let below := fun (k : Nat) => ((List.range k).filter (fun j => mask.getLsbD j)).length
    let n := 4 * below 4 * count.toNat
    Canon s → Spec.Ready s h c → mask ≠ 0 → 1 ≤ count.toNat → first.toNat + count.toNat ≤ 262144 →
    (∀ k, Spec.Named first count k → s.owns b 2 k = true) → (use = true → s.owns b 7 circuit.toNat = true) → s.mrefCheck b src n = St.ok → mrSpace src ≠ 4 → s.mrefLocal src = true →
    s.noRoute src = false → s.badRange (s.mrefAddr src) n = false → s.instsIn (s.mrefAddr src) n = [] →
    Spec.Run c s [.cmd, .reg, .irq, .eth, .out] (fun t =>
      Spec.Done s t h 0x30 St.ok count.toNat ∧
      (∀ i k, i < count.toNat → k < 4 → Spec.modOf (t.ctx (first.toNat + i)) k =
        if mask.getLsbD k then BitVec.ofNat 32 (s.leAt (s.mrefAddr src + 4 * (i * below 4 + below k)) 4)
        else Spec.modOf (s.ctx (first.toNat + i)) k) ∧
      (∀ i, i < count.toNat → ∃ m0 m1 m2 m3, t.ctx (first.toNat + i) =
        { s.ctx (first.toNat + i) with mod0 := m0, mod1 := m1, mod2 := m2, mod3 := m3 }) ∧
      (∀ k, ¬ Spec.Named first count k → t.ctx k = s.ctx k))

/-- COPY of bytes and of modulators. -/
def Obligations.Copy : Prop := Spec.CopyMovesBytes ∧ Spec.CopyWritesModulators

/-- DECODE on an idle binding writes 16 bytes for each CIDX at the destination: v, e and the CSTEP of its decode, or 0 with mode 3 where it
is no instance, and counts the instances; while a step runs or is queued it waits for
the next decode. -/
def Spec.DecodeWritesValues : Prop :=
  ∀ (s : State) (h : Hdr) (cfirst : BitVec 18) (ch : BitVec 12) (dst : Word64) (count : BitVec 19),
    let c := Instr.decode h cfirst ch dst count
    let b := Spec.bind s h
    let a := s.mrefAddr dst
    let n := 16 * count.toNat
    let row := fun (i : Nat) => s.decodeRow ch.toNat (cfirst.toNat + i)
    let x := fun (i : Nat) => s.instOf ch.toNat (cfirst.toNat + i)
    Spec.Ready s h c → Canon s → s.owns b 6 ch.toNat = true → (s.chan ch.toNat).valid = true → (s.chan ch.toNat).dec = true →
    1 ≤ count.toNat → cfirst.toNat + count.toNat ≤ 262144 → s.mrefCheck b dst n = St.ok → s.mrefLocal dst = true →
    s.sys.lost.contains s.sys.myDev.toNat = false →
    (s.idle b = true → Spec.Run c s [.cmd, .reg, .mem, .cnv, .irq, .eth, .out, .free] (fun t =>
      Spec.Done s t h 0x61 St.ok ((List.range count.toNat).countP (fun i => (row i).2)) ∧
      (∀ k, k < a ∨ a + n ≤ k → t.byteAt k = s.byteAt k) ∧
      (∀ i, i < count.toNat → (row i).2 = true →
        t.leAt (a + 16 * i) 4 = unsigned 32 (x i).v ∧ t.leAt (a + 16 * i + 4) 4 = unsigned 32 (x i).e ∧
        t.leAt (a + 16 * i + 10) 6 = ((x i).decodedAt.map BitVec.toNat).getD (2 ^ 48 - 1)) ∧
      (∀ i, i < count.toNat → (row i).2 = false → t.leAt (a + 16 * i) 8 = 0 ∧ t.leAt (a + 16 * i + 8) 8 = 3))) ∧
    (s.idle b = false → Spec.Run c s [.cmd, .cnv] (fun t =>
      Spec.Pending s t h 0x61 ∧ t.cnv.decodes = s.cnv.decodes ++ [⟨h, (s.strm h.stream.toNat).cseq, ch, cfirst, count.toNat, dst, false⟩]))

/-- FENCE with nothing outstanding completes with OK; TIMESTAMP WHEN 0 stores the timebase and the step number, WHEN 1 waits for the next
step's start; HINT becomes active; NOTE sends its notice once a management frame has been seen, and holds it before. -/
def Spec.FenceTimestampHintNote : Prop :=
  ∀ (s : State) (h : Hdr) (scope : BitVec 1) (dst : Word64) (kind : BitVec 4) (watts : BitVec 12) (dur ahead : BitVec 16) (value : Word),
    let b := Spec.bind s h
    let q := (s.strm h.stream.toNat).cseq
    let a := s.mrefAddr dst
    let act := s.gov.hints.filter (fun x => decide ((s.bnd x.binding.toNat).step.toNat < x.first + x.dur.toNat))
    let body : List Byte := [h.stream, 0, 0, 0] ++ beBytes 4 value.toNat ++ beBytes 8 q.toNat
    Canon s →
    (Spec.Ready s h (.fence h scope) → (scope = 0 ∨ ∀ p ∈ s.cmd.streams, p.2.binding.toNat = b → p.2.outst = []) →
      Spec.Run (.fence h scope) s (.cmd :: Spec.irqParts h) (fun t => Spec.DoneOnly s t h 0x70 St.ok 0)) ∧
    (Spec.Ready s h (.timestamp h 0 dst) → s.mrefCheck b dst 16 = St.ok → s.mrefLocal dst = true →
      s.sys.lost.contains s.sys.myDev.toNat = false →
      Spec.Run (.timestamp h 0 dst) s [.cmd, .reg, .mem, .cnv, .irq, .eth, .out, .free] (fun t =>
        Spec.Done s t h 0x71 St.ok 0 ∧ t.leAt a 8 = s.tmr.tb.toNat ∧ t.leAt (a + 8) 8 = (s.bnd b).step.toNat ∧
        (∀ k, k < a ∨ a + 16 ≤ k → t.byteAt k = s.byteAt k))) ∧
    (Spec.Ready s h (.timestamp h 1 dst) → s.mrefCheck b dst 16 = St.ok → s.noRoute dst = false →
      Spec.Run (.timestamp h 1 dst) s [.cmd] (fun t =>
        Spec.Pending s t h 0x71 ∧ t.bnd b = { s.bnd b with samples := (s.bnd b).samples ++ [(h, q, dst)] })) ∧
    (Spec.Ready s h (.hint h kind watts dur ahead) → kind.toNat ≤ 5 → watts ≠ 0 → dur ≠ 0 → act.length < 16 →
      Spec.Run (.hint h kind watts dur ahead) s ([.cmd, .gov] ++ Spec.irqParts h) (fun t =>
        Spec.DoneOnly s t h 0x80 St.ok 0 ∧ t.gov = { s.gov with
          acts := t.gov.acts, hints := act ++ [⟨BitVec.ofNat 6 b, kind, watts, (s.bnd b).step.toNat + ahead.toNat, dur⟩] })) ∧
    (Spec.Ready s h (.note h value) →
      Spec.Run (.note h value) s ([.cmd, .eth, .out] ++ Spec.irqParts h) (fun t =>
        Spec.Done s t h 0x90 St.ok 0 ∧
        (s.eth.hostSeen = true → Out.notice ⟨1, s.sys.myDev, s.tmr.tb, body⟩ ∈ t.out) ∧
        (s.eth.hostSeen = false → s.eth.notices.length < 1024 →
          (⟨1, s.sys.myDev, s.tmr.tb, body⟩ : Notice) ∈ t.eth.notices)))

/-- DECODE, FENCE, TIMESTAMP, HINT and NOTE. -/
def Obligations.DecodeFenceTimestampHintNote : Prop := Spec.DecodeWritesValues ∧ Spec.FenceTimestampHintNote

/-- BOUNDARY_COMMAND_EFFECT: at a boundary the first boundary command that may take effect leaves the binding's list and takes its effect; a
command whose target has been unbound or re-bound since it issued completes with NOT_BOUND and freezes its stream (R297). While a step runs
none takes effect. -/
def Spec.BoundaryEffectOrder : Prop :=
  ∀ (s : State) (b : BitVec 6) (d : Deferred) (pre post : List Deferred) (h : Hdr) (op : Byte), Alive s →
    ((s.bnd b.toNat).running = true → exec (.boundaryEffect b) s = .next s) ∧
    ((s.bnd b.toNat).running = false → (s.bnd b.toNat).boundary = pre ++ d :: post → d ∉ pre →
      (∀ x ∈ pre, s.deferReady b.toNat x = false) → s.deferReady b.toNat d = true → cmdHdr d.cmd = some (h, op) →
      let u := s.setBnd b.toNat { s.bnd b.toNat with boundary := pre ++ post }
      let e := u.effect b.toNat d
      (u.targetGone b.toNat d = true → (s.strm h.stream.toNat).bound = true →
        exec (.boundaryEffect b) s = .next (u.rejected h d.cseq op)) ∧
      (u.targetGone b.toNat d = false ∨ (s.strm h.stream.toNat).bound = false →
        (op ≠ 0x30 → exec (.boundaryEffect b) s = .next (e.1.complete h d.cseq op e.2.1 e.2.2)) ∧
        (∀ kind mask count first src dst len circuit use, d.cmd = .copy h kind mask count first src dst len circuit use →
          exec (.boundaryEffect b) s = .next (u.copyGo h d.cseq src dst len.toNat circuit.toNat use d.data))))

/-- What reaches a stream, and what waits for a boundary. -/
def Obligations.AcceptanceAndBoundary : Prop := Spec.CommandAcceptance ∧ Spec.BoundaryEffectOrder

/-! ## The sync unit and the queues (R302-R332) -/

/-- A buoy of this device that the stream's binding owns, with no WAIT, TAKE or WATCH on it. -/
def Spec.QuietBuoy (s : State) (h : Hdr) (dev : BitVec 6) (k : BitVec 16) : Prop :=
  dev = s.sys.myDev ∧ k.toNat < 65472 ∧ (s.bnd (Spec.bind s h)).mask.getLsbD dev.toNat = true ∧
  s.buoyOwner k.toNat = some (BitVec.ofNat 6 (Spec.bind s h)) ∧ s.sys.lost.contains dev.toNat = false ∧
  (∀ w ∈ s.syn.waits, w.buoy ≠ k) ∧ (∀ w ∈ s.syn.watches, w.buoy ≠ k)

/-- SIGNAL adds, DEC and TAKE subtract, and each completes with OK and, but for SIGNAL, the new value; a SIGNAL past 2^31−1 and a DEC below 0
change nothing, complete with OVERFLOW or UNDERFLOW and freeze the stream. -/
def Spec.BuoyArithmetic : Prop :=
  ∀ (s : State) (h : Hdr) (dev : BitVec 6) (n k : BitVec 16) (tmo : Word),
    let b := Spec.bind s h
    let v := (s.buoy k.toNat).toNat
    let sets := fun (op : Byte) (w res : Nat) (t : State) => Spec.DoneOnly s t h op St.ok res ∧ (t.buoy k.toNat).toNat = w ∧
      (∀ j, j ≠ k.toNat → t.buoy j = s.buoy j) ∧ t.syn.waits = s.syn.waits ∧ t.syn.watches = s.syn.watches
    let refuses := fun (op st : Byte) (bit : Nat) (t : State) => (t.buoy k.toNat) = s.buoy k.toNat ∧
      (t.strm h.stream.toNat).frozen = true ∧ (t.strm h.stream.toNat).lastStatus = st ∧ t.rbit Reg.synStatus bit = true ∧
      Cpl.mk (s.strm h.stream.toNat).cseq op st h.stream 0 ∈ t.cmd.cpls
    let parts := [Part.cmd, .syn, .reg, .fab, .eth, .irq, .ptb, .out, .free]
    Spec.QuietBuoy s h dev k → Canon s → s.ptbBuoy = false → s.copyWaits b h.stream = false →
    s.markersFor h.stream (s.strm h.stream.toNat).cseq = 0 →
    (n ≠ 0 → Spec.Ready s h (.signal h dev n k) →
      (v + n.toNat < 2 ^ 31 → Spec.Run (.signal h dev n k) s ([.cmd, .syn] ++ Spec.irqParts h) (sets 0x40 (v + n.toNat) 0)) ∧
      (2 ^ 31 ≤ v + n.toNat → Spec.Run (.signal h dev n k) s parts (refuses 0x40 St.overflow 0))) ∧
    (n ≠ 0 → Spec.Ready s h (.dec h dev n k) →
      (n.toNat ≤ v → Spec.Run (.dec h dev n k) s ([.cmd, .syn] ++ Spec.irqParts h) (sets 0x43 (v - n.toNat) (v - n.toNat))) ∧
      (v < n.toNat → Spec.Run (.dec h dev n k) s parts (refuses 0x43 St.underflow 1))) ∧
    (Spec.Ready s h (.take h dev k tmo) →
      (0 < v → Spec.Run (.take h dev k tmo) s ([.cmd, .syn] ++ Spec.irqParts h) (sets 0x44 (v - 1) (v - 1))) ∧
      (v = 0 → Spec.Run (.take h dev k tmo) s [.cmd, .syn] (fun t =>
        Spec.Pending s t h 0x44 ∧ t.syn.buoys = s.syn.buoys ∧ ∃ w, t.syn.waits = s.syn.waits ++ [w] ∧ w.take = true ∧ w.buoy = k ∧
          w.stream = h.stream ∧ w.expiry = s.expiryOf tmo)))

/-- WAIT completes at once with the value where its condition holds, else it waits; WATCH registers a watch under the least free number and
completes with it. -/
def Spec.WaitAndWatch : Prop :=
  ∀ (s : State) (h : Hdr) (dev : BitVec 6) (core : BitVec 10) (eq : Bool) (k : BitVec 16) (value tmo : Word) (cookie : Word64),
    let b := Spec.bind s h
    let v := (s.buoy k.toNat).toNat
    let holds := if eq then v = value.toNat else value.toNat ≤ v
    Spec.QuietBuoy s h dev k → Canon s →
    (Spec.Ready s h (.wait h dev eq k value tmo) →
      (holds → Spec.Run (.wait h dev eq k value tmo) s (.cmd :: Spec.irqParts h) (fun t => Spec.DoneOnly s t h 0x41 St.ok v)) ∧
      (¬ holds → Spec.Run (.wait h dev eq k value tmo) s [.cmd, .syn] (fun t =>
        Spec.Pending s t h 0x41 ∧ t.syn.buoys = s.syn.buoys ∧ ∃ w, t.syn.waits = s.syn.waits ++ [w] ∧ w.take = false ∧ w.eq = eq ∧
          w.value = value ∧ w.buoy = k ∧ w.stream = h.stream ∧ w.expiry = s.expiryOf tmo))) ∧
    (Spec.Ready s h (.watch h dev core eq k value tmo cookie) → s.coreOwned b core.toNat = true → s.syn.watches.length < 16384 → ¬ holds →
      Spec.Run (.watch h dev core eq k value tmo cookie) s ([.cmd, .syn, .reg] ++ Spec.irqParts h) (fun t =>
        Spec.Done s t h 0x42 St.ok (freeNum s.syn.watches) ∧ t.syn.buoys = s.syn.buoys ∧
        (∀ w ∈ s.syn.watches, w.num ≠ freeNum s.syn.watches) ∧
        ∃ w, t.syn.watches = s.syn.watches ++ [w] ∧ w.num = freeNum s.syn.watches ∧ w.buoy = k ∧ w.eq = eq ∧ w.value = value ∧
          w.core = core ∧ w.cookie = cookie ∧ w.expiry = s.expiryOf tmo ∧ w.beacon = none))

/-- SEND with credit leaves the writer interface's credit and tail as R321 says and waits for its acknowledgement; a SEND to a closed
interface completes with QUEUE_CLOSED. RECV takes the message at the head of its queue, or waits for one. -/
def Spec.SendAndRecv : Prop :=
  ∀ (s : State) (h : Hdr) (dev : BitVec 6) (tag : BitVec 16) (q : BitVec 12) (msg : List Word64) (dst : Word64) (tmo : Word),
    let b := Spec.bind s h
    let w := s.writer dev.toNat q.toNat
    let cs := (s.strm h.stream.toNat).cseq
    let nm1 : BitVec 2 := BitVec.ofNat 2 (msg.length - 1)
    let x := s.queueAt q.toNat
    let off := if w.rsize - w.tail < msg.length + 1 then 0 else w.tail
    Canon s → 1 ≤ msg.length → msg.length ≤ 4 →
    (Spec.Ready s h (.send h dev nm1 tag q msg) → dev = s.sys.myDev → (s.bnd b).mask.getLsbD dev.toNat = true →
      s.owns b 4 q.toNat = true → s.qWstream q.toNat = h.stream.toNat → s.sys.lost.contains dev.toNat = false → x.state ≠ 0 →
      w.stream = h.stream →
      (w.isOpen = true → w.closed = false → w.need (msg.length + 1) ≤ w.credit →
        Spec.Run (.send h dev nm1 tag q msg) s [.cmd, .syn] (fun t =>
          Spec.Pending s t h 0x50 ∧ (t.writer dev.toNat q.toNat).credit = w.credit - w.need (msg.length + 1) ∧
          (t.writer dev.toNat q.toNat).tail = (off + msg.length + 1) % w.rsize ∧
          (t.writer dev.toNat q.toNat).sent.getLast? = some ⟨some (h, cs), w.gen, off, msgHeader msg.length tag.toNat :: msg⟩)) ∧
      (w.closed = true → Spec.Run (.send h dev nm1 tag q msg) s (.cmd :: Spec.irqParts h) (fun t =>
        Spec.DoneOnly s t h 0x50 St.queueClosed 0))) ∧
    (Spec.Ready s h (.recv h q dst tmo) → s.owns b 4 q.toNat = true → s.qRstream q.toNat = h.stream.toNat → s.mrefCheck b dst 40 = St.ok →
      s.noRoute dst = false → (∀ r ∈ s.syn.recvs, r.queue ≠ q) →
      (x.state = 0 → Spec.Run (.recv h q dst tmo) s (.cmd :: Spec.irqParts h) (fun t => Spec.DoneOnly s t h 0x51 St.queueClosed 0)) ∧
      (x.state ≠ 0 → x.fill = 0 → Spec.Run (.recv h q dst tmo) s [.cmd, .syn] (fun t =>
        Spec.Pending s t h 0x51 ∧ ∃ r, t.syn.recvs = s.syn.recvs ++ [r] ∧ r.queue = q ∧ r.dst = dst ∧ r.expiry = s.expiryOf tmo ∧
          r.hdr.stream = h.stream ∧ r.cseq = cs)) ∧
      (x.state ≠ 0 → x.fill ≠ 0 → hdrKind (s.word64 (s.qWord q.toNat x.head)) = 1 → s.qWdev q.toNat = s.sys.myDev.toNat →
        let m := s.word64 (s.qWord q.toNat x.head)
        let nm := hdrNm m
        s.badRange (s.qWord q.toNat x.head) (8 * (nm + 1)) = false → s.mrefLocal dst = true → mrSpace dst = 2 →
        s.mrefOwned b dst (8 + 8 * nm) = true →
        Spec.Run (.recv h q dst tmo) s ([.cmd, .syn, .mem, .cnv, .free] ++ Spec.irqParts h) (fun t =>
          Spec.Done s t h 0x51 St.ok (hdrTag m + 65536 * (nm - 1)) ∧ t.syn.recvs = s.syn.recvs ∧
          t.bytes (s.mrefAddr dst + 8) (8 * nm) = s.bytes (s.qWord q.toNat (x.head + 1)) (8 * nm) ∧
          (t.queueAt q.toNat).head = (x.head + nm + 1) % s.qSize q.toNat ∧ (t.queueAt q.toNat).fill = x.fill - (nm + 1) ∧
          (∀ k, k < s.mrefAddr dst ∨ s.mrefAddr dst + 8 + 8 * nm ≤ k → t.byteAt k = s.byteAt k))))

/-- SIGNAL, DEC, TAKE, WAIT and WATCH, SEND and RECV. -/
def Obligations.BuoysAndMessages : Prop := Spec.BuoyArithmetic ∧ Spec.WaitAndWatch ∧ Spec.SendAndRecv

/-! ## Converters (R232-R257) -/

/-- A context that a VALID encoder covers, and the step its instance encodes next. -/
def Spec.Encoder (s : State) (h k : Nat) (p : Nat × Ctx) (n : Nat) : Prop :=
  (s.chan h).valid = true ∧ (s.chan h).dec = false ∧ s.ctxByIdx (s.chan h).binding.toNat k = some p ∧ (s.chan h).covers h p.2 = true ∧
  s.chanHome h = true ∧
  n = if (s.inst h p.2.cidx.toNat).encoded = some p.2.cstep then p.2.cstep.toNat + 1 else p.2.cstep.toNat

/-- What a port lets by as a transport frame (R397-R401): its link is up, the sub-port is there, protection is good where there is any and there is
some where the port requires it, 802.1Qci passes the frame (log entry 72), and VID, EtherType or UDP port are those of ETH_TP_CFG. -/
def Spec.Passes (s : State) (p : Nat) (hd : EthHead) : Prop :=
  s.portTakes p = true ∧ (hd.sub = 0 ∨ s.rfield (Reg.ethPortStat p) 0 4 = 2) ∧ (hd.macsec = true → s.portSas p 1 ≠ [] ∧ hd.secOk = true) ∧
  (s.rbit (Reg.ethPortCfg p) 31 = true → hd.macsec = true) ∧ s.qciPasses p hd = true ∧ s.isTransport hd = true

/-- A row for one of the next four steps is stored in slot t mod 4 and replaces what the slot held, whether ENCODE or an OBS frame brings it; a
row for a later step is discarded and counted in CNV_EARLY, one for an earlier step in CNV_LATE, as TSTEP stands modulo 2^20 (R201). -/
def Spec.ObservationRows : Prop :=
  ∀ (s : State) (h : Hdr) (k : BitVec 18) (ch : BitVec 12) (src : Word64) (tstep : BitVec 20) (zin : BitVec 8) (port : BitVec 1)
    (hd : EthHead) (row : List Byte) (p : Nat × Ctx) (n : Nat),
    let c := s.chan ch.toNat
    let d := (tstep.toNat + 2 ^ 20 - n % 2 ^ 20) % 2 ^ 20
    let t := n + d
    let new := fun (row : List Byte) => { s.inst ch.toNat k.toNat with
      slots := (s.inst ch.toNat k.toNat).slots.filter (fun e => e.1 ≠ t % 4) ++ [(t % 4, BitVec.ofNat 48 t, zin, row)] }
    let frame := Instr.obsFrame port hd s.sys.myDev [⟨ch, k, tstep, zin, [row], false⟩]
    let stored := fun (row : List Byte) (t : State) => t.inst ch.toNat k.toNat = new row ∧
      (∀ a b, b < 2 ^ 18 → (a, b) ≠ (ch.toNat, k.toNat) → t.inst a b = s.inst a b)
    Canon s → Alive s → Spec.Encoder s ch.toNat k.toNat p n → (c.kind ≠ 2 ∨ t % c.win = 0) →
    (Spec.Ready s h (.encode h k ch src 1 tstep zin) → d ≤ 3 → mrSpace src ≠ 4 → s.instsIn (s.mrefAddr src) c.rowBytes = [] → s.owns (Spec.bind s h) 6 ch.toNat = true →
      s.mrefCheck (Spec.bind s h) src c.rowBytes = St.ok → s.mrefLocal src = true → s.badRange (s.mrefAddr src) c.rowBytes = false →
      s.sys.lost.contains s.sys.myDev.toNat = false → 0 < c.rowBytes →
      Spec.Run (.encode h k ch src 1 tstep zin) s [.cmd, .reg, .cnv, .eth, .irq, .out] (fun t =>
        Spec.Done s t h 0x60 St.ok 1 ∧ stored (s.bytes (s.mrefAddr src) c.rowBytes) t)) ∧
    (Spec.Passes s port.toNat hd → hd.sub = 0 → s.isReady = true → (hd.rtag = none ∨ s.tableClear port.toNat 0x610 4 = true) →
      (frameRow c.ifmt c.width row).length = c.rowBytes →
      (d ≤ 3 → Spec.To frame s [.cnv] (stored (frameRow c.ifmt c.width row))) ∧
      (3 < d → d < 2 ^ 19 → Spec.To frame s [.reg] (fun u => u.rfield Reg.cnvEarly 0 32 = min (s.rfield Reg.cnvEarly 0 32 + 1) (2 ^ 32 - 1) ∧
        u.rbit (Reg.cnvChStat ch.toNat) 0 = true ∧ u.rget Reg.cnvLast = BitVec.ofNat 32 (ch.toNat * 2 ^ 18 + k.toNat))) ∧
      (2 ^ 19 ≤ d → Spec.To frame s [.reg] (fun u => u.rfield Reg.cnvLate 0 32 = min (s.rfield Reg.cnvLate 0 32 + 1) (2 ^ 32 - 1) ∧
        u.rbit (Reg.cnvChStat ch.toNat) 1 = true ∧ u.rget Reg.cnvLast = BitVec.ofNat 32 (ch.toNat * 2 ^ 18 + k.toNat))))

/-- ENCODE_INSTANCE encodes the running step once, from the row of its slot or, with HOLD, from the levels before, which counts in CNV_MISS;
without HOLD it waits, until ENCODE_WAIT_TIMEOUT counts in CNV_TMO and encodes from the levels before. Inside a window of TTFS it needs no row. -/
def Spec.EncodeOnceAStep : Prop :=
  ∀ (s : State) (ch : BitVec 12) (k : BitVec 18) (p : Nat × Ctx),
    let c := s.chan ch.toNat
    let x := s.inst ch.toNat k.toNat
    let row := x.slots.find? (fun e => e.2.1 = p.2.cstep)
    let held := if x.lastU = [] then List.replicate c.width 0 else x.lastU
    let did := fun (u : List Nat) (t : State) => (t.inst ch.toNat k.toNat).encoded = some p.2.cstep ∧
      (t.inst ch.toNat k.toNat).waiting = false ∧ (t.inst ch.toNat k.toNat).lastU = u ∧
      (∀ e ∈ (t.inst ch.toNat k.toNat).slots, p.2.cstep.toNat < e.2.1.toNat)
    let parts := [Part.reg, .cmd, .rtr, .cnv, .core, .irq, .eth, .out, .free]
    let due := c.kind ≠ 2 ∨ p.2.cstep.toNat % c.win = 0
    Canon s → Alive s → s.ctxByIdx c.binding.toNat k.toNat = some p → p.2.cidx = k → s.mayEncode ch.toNat p = true →
    s.chanHome ch.toNat = true → s.instBad ch.toNat k.toNat = false → x.left = [] →
    (∀ e, due → row = some e → Spec.Run (.encodeInstance ch k) s parts
      (did (s.levels ch.toNat k.toNat x.scales (signed 8 e.2.2.1.toNat) e.2.2.2).1)) ∧
    (¬ due → Spec.Run (.encodeInstance ch k) s parts (did held)) ∧
    (due → row = none → c.hold = true → Spec.Run (.encodeInstance ch k) s parts (fun t => did held t ∧
      t.rfield Reg.cnvMiss 0 32 = min (s.rfield Reg.cnvMiss 0 32 + 1) (2 ^ 32 - 1))) ∧
    (due → row = none → c.hold = false → Spec.To (.encodeInstance ch k) s [.cnv] (fun t =>
      t.inst ch.toNat k.toNat = { x with waiting := true })) ∧
    (row = none → x.waiting = true → Spec.Run (.encodeWaitTimeout ch k) s parts (fun t => did held t ∧
      t.rfield Reg.cnvTmo 0 32 = min (s.rfield Reg.cnvTmo 0 32 + 1) (2 ^ 32 - 1)))

/-- Rows of observations, and the encode of a step. -/
def Obligations.ObservationsEncode : Prop := Spec.ObservationRows ∧ Spec.EncodeOnceAStep

/-- TAP_ACCEPT moves a tap of the buffer into the tally of the running step; DECODE_INSTANCE, in the engine's order (R254), turns the
tallies of the ended step into the instance's computed value and clears them; the window of a rate decoder is summed. -/
def Spec.TapsAndDecode : Prop :=
  ∀ (s : State) (ch : BitVec 12) (k : BitVec 18) (neuron : BitVec 6) (cnt : BitVec 3) (p : Nat × Ctx) (d : BitVec 48),
    let c := s.chan ch.toNat
    let tap : Tap := ⟨ch, k, neuron.toNat, cnt.toNat⟩
    let x := s.instOf ch.toNat k.toNat
    let n := (List.range c.width).map (fun i => s.tally ch.toNat k.toNat d.toNat i)
    let step := c.decodeStep (s.prefsOf c) x d.toNat n
    let hist := (x.hist ++ List.replicate (c.win - x.hist.length) []).set (d.toNat % c.win) [n.sum]
    Canon s → Alive s → s.ctxByIdx c.binding.toNat k.toNat = some p →
    (tap ∈ s.cnv.taps → Spec.Run (.tapAccept ch k neuron cnt) s [.reg, .cnv, .irq, .eth, .out, .free] (fun t =>
      t.cnv.taps = s.cnv.taps.erase tap ∧
      t.tally ch.toNat k.toNat p.2.cstep.toNat neuron.toNat =
        s.tally ch.toNat k.toNat p.2.cstep.toNat neuron.toNat + cnt.toNat)) ∧
    (x.due = some d → c.frozen = false → s.chanHome ch.toNat = true → s.instBad ch.toNat k.toNat = false → c.width ≤ 64 →
      s.turnOf c.binding.toNat true ch.toNat k.toNat (fun d q => (s.inst d q.2.cidx.toNat).due = none) = true →
      (∃ q, q ∈ s.decoders c.binding.toNat ∧ q ≠ (ch.toNat, k.toNat) ∧ (s.inst q.1 q.2).due ≠ none) → s.cnv.decodes = [] →
      Spec.Run (.decodeInstance ch k) s [.reg, .cnv, .irq, .eth, .out] (fun t =>
        (c.kind = 0 → (t.inst ch.toNat k.toNat).hist = hist ∧ (t.inst ch.toNat k.toNat).v = c.value (hist.map List.sum).sum) ∧
        (t.inst ch.toNat k.toNat).v = ((step.2.map c.value).getD x.v) ∧
        (t.inst ch.toNat k.toNat).due = none ∧ (t.inst ch.toNat k.toNat).decodedAt = some d ∧ (t.inst ch.toNat k.toNat).renewed = true ∧
        (t.inst ch.toNat k.toNat).e = x.e ∧ (∀ i, i < c.width → t.tally ch.toNat k.toNat d.toNat i = 0)))

/-- ACT_SNAPSHOT takes the frame of a VALID entry whose opening is pending; ACT_FRAME_TRANSMIT sends it with the entry's SEQ, on both ports with
one R-TAG number where the port's 802.1CB table replicates it (log entry 72), or drops and counts it where the port is down; at a pending
opening the writes that waited come into force. -/
def Spec.ActFrames : Prop :=
  ∀ (s : State) (f : BitVec 8) (v : BitVec 18 × List (BitVec 12) × List (List ActVal)),
    let cfg := s.rget (Reg.cnvActCfg f.toNat)
    let b := fieldOf cfg 24 6
    let port := fieldOf cfg 30 1
    let x := s.act f.toNat
    let l := framePayload f.toNat v.1.toNat v.2.1.length v.2.2
    let tag := if s.actReplicated port then some s.eth.rtag else none
    let other := s.rbit (Reg.ethPortStat (1 - port)) 31 && !(s.rbit (Reg.ethPortCfg (1 - port)) 31 && s.portSas (1 - port) 0 = [])
    Canon s → Alive s →
    (s.actPending f.toNat = true → Spec.To (.actSnapshot f) s [.reg, .cnv] (fun t =>
      (t.act f.toNat).seq = x.seq ∧ ((t.act f.toNat).frame = none ↔ s.frameChans f.toNat b = []))) ∧
    (s.awake = true → x.frame = some v → s.rbit (Reg.ethPortStat port) 31 = true →
      (s.rbit (Reg.ethPortCfg port) 31 = true → s.portSas port 0 ≠ []) →
      Spec.To (.actFrameTransmit f) s [.reg, .cnv, .eth, .out] (fun t =>
        t.out = s.out ++ [.act (BitVec.ofNat 1 port) f x.seq tag l] ++
          (if s.actReplicated port && other then [.act (BitVec.ofNat 1 (1 - port)) f x.seq tag l] else []) ∧
        (t.act f.toNat).seq = x.seq + 1 ∧ (t.act f.toNat).frame = none ∧
        t.eth = { s.eth with rtag := if s.actReplicated port then s.eth.rtag + 1 else s.eth.rtag } ∧
        (s.actPending f.toNat = true → (t.act f.toNat).cfgNext = none ∧ (t.act f.toNat).leadNext = none ∧
          (∀ w, x.cfgNext = some w → t.rget (Reg.cnvActCfg f.toNat) = w) ∧
          (∀ w, x.leadNext = some w → t.rget (Reg.cnvActLead f.toNat) = w)) ∧
        (s.actPending f.toNat = false → (t.act f.toNat).cfgNext = x.cfgNext ∧ (t.act f.toNat).leadNext = x.leadNext))) ∧
    (s.awake = true → x.frame = some v → s.rbit (Reg.ethPortStat port) 31 = false → x.cfgNext = none → x.leadNext = none →
      Spec.To (.actFrameTransmit f) s [.reg, .cnv, .eth, .out] (fun t =>
        t.rfield (Reg.ethPortActDrop port) 0 32 = min (s.rfield (Reg.ethPortActDrop port) 0 32 + 1) (2 ^ 32 - 1) ∧
        (t.act f.toNat).seq = x.seq + 1 ∧ OnlyRegs [Reg.ethPortActDrop port, Reg.ethPortActDrop (1 - port)] s t))

/-- Taps, decodes and ACT frames (with the model's readings of log entries 22 and 23). -/
def Obligations.DecodersAndActFrames : Prop := Spec.TapsAndDecode ∧ Spec.ActFrames

/-! ## Lane groups and the phases of a core (R32, R61-R65, R76, R77, R90, R113) -/

/-- LANE_GROUP_START on a core that is not frozen loads the next 512 instances, by context and then by neuron, into lanes with registers and fire count 0 and their
records decayed; a record in uncorrectable error gives a lane that executes nothing and sets ECCF. -/
def Obligations.LaneGroups : Prop :=
  ∀ (s : State) (core : BitVec 10) (sl p : Nat),
    let n := core.toNat
    let c := s.cor n
    let t := s.slotAt n sl
    let cs := s.coreCtxs n c.binding.toNat
    let group := ((cs.flatMap (fun q => (List.range t.nLocal).map (fun i => (q, i)))).drop p).take 512
    let bad := fun (q : (Nat × Ctx) × Nat) => s.badRange (recordAddr q.1.2 t q.2) t.stride
    let lanes := fun (u : State) => ∃ ls, u.cor n = { c with slot := sl, pos := p, lanes := ls } ∧ (∀ m, m ≠ n → u.cor m = s.cor m) ∧
      ls.length = group.length ∧
      ∀ x ∈ group.zip ls, x.2.ctx = x.1.1.1 ∧ x.2.cidx = x.1.1.2.cidx ∧ x.2.idx = x.1.2 ∧ x.2.active = !bad x.1 ∧ x.2.n = 0 ∧
        x.2.exc = false ∧ (∀ a, x.2.reg a = 0) ∧ x.2.wrec = [0, 1, 2, 3].foldl (decayTrace t) (s.readRec x.1.1.2 t x.1.2)
    Canon s → Alive s → n < 16 → sl < 64 → c.phase = .neuron → c.frozen = false → c.lanes = [] → s.nextGroup n = some (sl, p) →
    ((∀ q ∈ group, bad q = false) → Spec.Run (.laneGroupStart core) s [.core] lanes) ∧
    ((∃ q ∈ group, bad q = true) → Spec.Run (.laneGroupStart core) s [.cmd, .core, .eth, .irq, .out, .reg] (fun u =>
      lanes u ∧ u.rbit (Reg.coreNrnFlags n sl) 3 = true ∧ u.irq.raw.getLsbD (25 + s.physCore n) = true ∧
      (∀ q r, (s.bnd c.binding.toNat).queue = q :: r → q.left ≠ some 0 →
        (u.bnd c.binding.toNat).queue = { q with status := worse q.status St.eccFatal } :: r)))

/-- END writes every active lane's record back with IN 0, adds the firing lanes in lane order, adds to the 48-bit EXC and SPK counts and
frees the group; phase 3 is active from the first firing on; phase 2 ends with the last group, and phase 3 and the learning pass are then active. PHASE2_START ends integration once nothing of the bucket is left and spends a berth at
its LAST step. -/
def Obligations.GroupAndPhaseEnd : Prop :=
  ∀ (s : State) (core : BitVec 10),
    let n := core.toNat
    let c := s.cor n
    let sl := s.slotAt n c.slot
    let rec' := fun (l : Lane) => recBytes (if sl.inEn then setField sl l.wrec sl.inField 0 else l.wrec)
    let at' := fun (l : Lane) => recordAddr (s.ctx l.ctx) sl l.idx
    let inside := fun (l : Lane) (a : Nat) => at' l ≤ a ∧ a < at' l + (rec' l).length
    let fs := (c.lanes.filter (fun l => l.active && decide (1 ≤ l.n))).map (fun l => Firing.mk c.slot l.cidx l.idx l.n)
    let next := (s.setCor n { c with lanes := [], pos := c.pos + c.lanes.length }).nextGroup n
    let exc := Reg.coreNrnExcLo n c.slot
    let spk := Reg.coreNrnSpkLo n c.slot
    let t := (s.bnd c.binding.toNat).step.toNat
    let rte := Reg.coreRteStatus n
    let lrn := Reg.coreLrnStatus n
    let ends := fun (yes : Prop) (fired : Bool) (u : State) => (yes → u.rbit rte 0 = !c.frozen ∧ u.rbit lrn 0 = !c.frozen) ∧
      (¬ yes → u.rget lrn = s.rget lrn ∧ u.rbit rte 0 = (s.rbit rte 0 || fired) ∧ (fired = false → u.rget rte = s.rget rte))
    let spent := fun (x : Berth) => if x.state = 2 ∧ x.last.toNat ≤ t then { x with state := 3 } else x
    Canon s → Alive s → n < 16 →
    Spec.To (.endInstr core) s [.core, .mem, .reg] (fun u =>
      u.cor n = { c with
        lanes := [], pos := c.pos + c.lanes.length, fired := c.fired ++ fs, firing := c.firing ++ fs
        phase := if c.phase = .neuron ∧ next = none then .emit else c.phase
        learnDue := if c.phase = .neuron ∧ next = none then true else c.learnDue } ∧
      (∀ m, m ≠ n → u.cor m = s.cor m) ∧ OnlyRegs [exc, spk, Reg.coreRteStatus n, Reg.coreLrnStatus n] s u ∧
      (c.slot < 64 → ends (c.phase = .neuron ∧ next = none) (!fs.isEmpty) u) ∧
      (c.slot < 64 → u.longGet exc = min (s.longGet exc + (c.lanes.filter (fun l => l.active && l.exc)).length) (2 ^ 48 - 1) ∧
        u.longGet spk = min (s.longGet spk + fs.length) (2 ^ 48 - 1)) ∧
      (∀ l ∈ c.lanes, l.active = true → (∀ k ∈ c.lanes, k.active = true → k ≠ l → ∀ a, ¬ (inside l a ∧ inside k a)) →
        u.bytes (at' l) (rec' l).length = rec' l) ∧
      (∀ a, (∀ l ∈ c.lanes, l.active = true → ¬ inside l a) → u.byteAt a = s.byteAt a)) ∧
    (c.phase = .integrate → n ∉ s.rtr.draining → c.inbox = [] → c.windows = [] → s.phase1Waits n = false →
      Spec.To (.phase2Start core) s [.core, .reg] (fun u =>
        let v := { c with slot := 0, pos := 0, berth0 := spent c.berth0, berth1 := spent c.berth1, spilled := [] }
        let none' := c.lanes = [] ∧ (s.setCor n v).nextGroup n = none
        u.cor n = { v with phase := if none' then .emit else .neuron, learnDue := if none' then true else c.learnDue } ∧
        (∀ m, m ≠ n → u.cor m = s.cor m) ∧ u.rbit (Reg.coreSynStatus n) 0 = false ∧ ends none' false u ∧
        OnlyRegs [Reg.coreSynStatus n, Reg.coreRteStatus n, Reg.coreLrnStatus n] s u))

/-! ## The start of a step (R30, R32, R36, R41-R45, R213-R217, R222) -/

/-- Step t of the binding runs from instant `at'`: the configuration last written is in force, modulators are latched, the binding's cores
await START with their clocks on. -/
def Spec.Started (s u : State) (b : Nat) (at' : Word64) : Prop :=
  let x := u.bnd b
  x.running = true ∧ x.waitSlot = false ∧ x.startedAt = at' ∧ x.step = (s.bnd b).step ∧ x.overran = false ∧ x.signalled = false ∧
  x.modeIn.toNat = s.regMode b ∧ x.lenIn.toNat = s.regLen b ∧ x.periodIn.toNat = s.regPeriod b ∧ x.phaseIn.toNat = s.regPhase b ∧
  x.limitIn.toNat = s.rfield (Reg.cmdStepCtrl b) 8 8 ∧
  (∀ p ∈ s.ctxsOf b, u.ctx p.1 = if p.2.active then
    { p.2 with lat0 := p.2.mod0, lat1 := p.2.mod1, lat2 := p.2.mod2, lat3 := p.2.mod3 } else p.2) ∧
  (∀ n ∈ s.coresOf b, u.cor n = { s.cor n with phase := .idle } ∧ s.physCore n ∉ u.ltn.gated) ∧
  (∀ n, n ∉ s.coresOf b → u.cor n = s.cor n)

/-- The first step after idle: at once in free-run mode and in locked mode on the slot, where a member starts on its lead's broadcast, which
may bring epochs (R283). With a boundary command in the way it waits; a start that waits for a slot goes at once when MODE has become free-run
(R45); a step still running at its slot overruns, and so does the preceding step of a start that a window or a quiesce holds past one (R44). -/
def Spec.StepsStart : Prop :=
  ∀ (s : State) (b : BitVec 6) (slot : Word64) (epochs : List (BitVec 8 × BitVec 24 × BitVec 48)),
    let k := b.toNat
    let x := s.bnd k
    let next := slotAfter s.tmr.tb.toNat (s.regPhase k) (s.regPeriod k)
    let then' := { s with tmr := { s.tmr with tb := BitVec.ofNat 64 next } }
    let overruns := fun (u : State) => u.rbit (Reg.cmdStepStatus k) 0 = true ∧
      u.rfield (Reg.cmdStepOverrun k) 0 24 = min (s.rfield (Reg.cmdStepOverrun k) 0 24 + 1) (2 ^ 24 - 1) ∧
      u.rfield (Reg.cmdStepOverrun k) 24 8 = min (s.rfield (Reg.cmdStepOverrun k) 24 8 + 1) (2 ^ 8 - 1) ∧
      (u.bnd k).overran = true ∧ (u.bnd k).running = x.running ∧ (u.bnd k).step = x.step
    let broadcast := [Part.reg, .fab, .ptb, .out, .free, .eth, .irq]
    Canon s → Alive s → x.valid = true → x.samples = [] →
    (s.isLead k = true → s.boundaryClear k = true → (s.nextStep k).isSome →
      (x.waitSlot = false → s.regMode k ≠ 1 → Spec.Run (.stepAdmit b) s ([.cmd, .core, .ltn] ++ broadcast) (fun u =>
        Spec.Started s u k s.tmr.tb ∧ (x.nDevs ≤ 1 → OnlyChanges [.cmd, .core, .ltn] s u))) ∧
      (x.waitSlot = false → s.regMode k = 1 → Spec.Run (.stepAdmit b) s (.cmd :: broadcast) (fun u =>
        u.bnd k = { x with
          waitSlot := true, slotAt := BitVec.ofNat 64 (s.namedSlot k), epochsOut := if 1 < x.nDevs then [] else x.epochsOut } ∧
        (∀ m, m ≠ k → u.bnd m = s.bnd m) ∧ (x.nDevs ≤ 1 → OnlyChanges [.cmd] s u))) ∧
      (x.waitSlot = true → s.regMode k = 0 → Spec.Run (.stepAdmit b) s [.cmd, .core, .ltn] (fun u => Spec.Started s u k s.tmr.tb))) ∧
    (s.isLead k = false → x.running = false →
      (s.boundaryClear k = true → s.regMode k = 0 →
        Spec.Run (.startBroadcastReceipt b slot []) s [.cmd, .core, .ltn] (fun u => Spec.Started s u k s.tmr.tb) ∧
        (x.waitSlot = true → Spec.Run (.stepAdmit b) s [.cmd, .core, .ltn] (fun u => Spec.Started s u k s.tmr.tb))) ∧
      ((s.boundaryClear k = false ∨ s.regMode k ≠ 0) →
        Spec.Run (.startBroadcastReceipt b slot []) s [.cmd] (fun u =>
          u.bnd k = { x with waitSlot := true, slotAt := slot } ∧ (∀ m, m ≠ k → u.bnd m = s.bnd m))) ∧
      exec (.startBroadcastReceipt b slot epochs) s = exec (.startBroadcastReceipt b slot []) (s.epochsIn k epochs)) ∧
    (x.running = false → s.regMode k = 1 → next < 2 ^ 64 → x.slotAt.toNat ≤ next →
      (x.waitSlot = true → then'.boundaryClear k = true →
        Spec.Run (.lockedSlot b) s [.cmd, .core, .ltn, .tmr] (fun u => Spec.Started s u k (BitVec.ofNat 64 next) ∧
          u.tmr = { s.tmr with tb := BitVec.ofNat 64 next })) ∧
      (x.overran = false → x.waitSlot = true ∨ (s.nextStep k).isSome → x.windowOpen = true ∨ s.kpr.quiesce.wanted = true →
        Spec.Run (.lockedSlot b) s [.cmd, .reg, .irq, .eth, .out, .tmr] (fun u => overruns u ∧
          u.tmr = { s.tmr with tb := BitVec.ofNat 64 next }))) ∧
    (x.running = true → x.modeIn = 1 → x.overran = false →
      Spec.Run (.lockedSlot b) s [.cmd, .reg, .cnv, .irq, .eth, .out, .tmr] overruns)

/-- START reaches a core: what its bucket's readable runs hold moves to its inbox without the events of parked or gated contexts, those with
CNT 0 counted; the bucket's pages are free, and phase 1 is active unless it waits for a berth or for rows of an overlap apply (R117, R122,
R190). A frozen core's bucket drains as well and its events go no further (R210, R216). -/
def Spec.CoresStart : Prop :=
  ∀ (s : State) (core : BitVec 10),
    let n := core.toNat
    let c := s.cor n
    let b := c.binding.toNat
    let t := (s.bnd b).step.toNat
    let k := t % 64
    let evs := (s.drainRuns n k).1
    let go := evs.filter (fun e => !s.withheld b e)
    let waits := c.berthsWait t = true ∨ s.ovlWait n t = true
    Canon s → Alive s → c.bound = true → (s.bnd b).running = true → c.phase = .idle → s.corePresent n = true →
    Spec.Run (.stepStart core) s [.cmd, .core, .mem, .reg, .rtr, .irq, .eth, .out, .free] (fun u =>
      Spec.SameBytes s u ∧ (runBytes go ≤ 3080192 → u.mem = s.mem) ∧
      (∃ sp, u.cor n = (if c.frozen then { c with phase := .done, inbox := [], spilled := sp } else { c with
        phase := .integrate, inbox := go.filter (fun e => e.cnt ≠ 0), windows := [], acc := [], adds := [], fired := [], firing := [],
        slot := 0, pos := 0, spilled := sp }) ∧ (runBytes go ≤ 3080192 → sp = c.spilled)) ∧
      (∀ m, m ≠ n → u.cor m = s.cor m) ∧
      u.ring n k = [] ∧ u.pages n k = RingUse.empty ∧ (∀ m j, j < 64 → (m, j) ≠ (n, k) → u.ring m j = s.ring m j) ∧
      n ∈ u.rtr.draining ∧
      u.rfield (Reg.coreInbBadrec n) 0 32 =
        min (s.rfield (Reg.coreInbBadrec n) 0 32 + (go.length - (go.filter (fun e => e.cnt ≠ 0)).length)) (2 ^ 32 - 1) ∧
      (c.frozen = false → ¬ waits → u.rbit (Reg.coreSynStatus n) 0 = true) ∧
      (c.frozen = true ∨ waits → u.rget (Reg.coreSynStatus n) = s.rget (Reg.coreSynStatus n)) ∧
      (c.frozen = true ∨ c.berthsWait t = false → u.free = s.free) ∧
      (∀ p ∈ s.ctxsOf b, s.ctxByIdx b p.2.cidx.toNat = some p → (u.ctx p.1).held = p.2.held ++ ((evs.filter (fun e =>
        s.withheld b e && !e.fixed && decide (e.cidx = p.2.cidx.toNat))).map (fun e => HeldRec.mk core e.matrix e.row e.cnt 0))))

/-- The start of a step on the device and on a core. -/
def Obligations.StepsAndCoresStart : Prop := Spec.StepsStart ∧ Spec.CoresStart

/-! ## The end of a step (R34, R36, R208, R221, R225) -/

/-- Phase 3 of a core ends once every packet is in a replica slot; this device signals the step buoy once its cores are done and no packet
is out: the lead's buoy counts the devices and keeps what they say of their gates (R177) and of the statuses met (R183), a member tells its
lead. PTB_BUOYDLY with STEPBUOY holds a signal first. A signal of another step, or a second one, counts nothing. -/
def Spec.DoneAndSignal : Prop :=
  ∀ (s : State) (core : BitVec 10) (b dev : BitVec 6) (step : BitVec 20) (gates : List (BitVec 8 × Bool))
    (status : Byte) (p : Packet),
    let n := core.toNat
    let c := s.cor n
    let k := c.binding.toNat
    let y := s.bnd k
    let x := s.bnd b.toNat
    let y' := fun (st : Byte) (y : Binding) => match x.queue with
      | q :: r => if st ≠ St.ok ∧ q.left ≠ some 0 then { y with queue := { q with status := worse q.status st } :: r } else y
      | [] => y
    let held := fun (cond d c : Nat) => BitVec.ofNat 32 (cond * 2 ^ 30 + d % 64 * 2 ^ 16 + c % 1024)
    let taken := fun (d : BitVec 6) (g : List (BitVec 8 × Bool)) (st : Byte) (y : Binding) (u : State) =>
      u.bnd b.toNat = { y' st y with
        signals := x.signals ++ [d.toNat], gates := x.gates ++ g, lastHeld := if 1 < x.nDevs then held 2 d.toNat 0 else x.lastHeld } ∧
      (∀ m, m ≠ b.toNat → u.bnd m = s.bnd m) ∧ (x.signals.length + 1 < 2 ^ 31 →
        (u.buoy (65472 + b.toNat)).toNat = x.signals.length + 1) ∧ (∀ m, m ≠ 65472 + b.toNat → u.buoy m = s.buoy m)
    Canon s → Alive s →
    (c.phase = .emit → c.fired = [] → c.holding = [] → s.tapsLeft (s.sysOf n) = false → s.encodesLeft n (s.sysOf n) = false →
      (c.openPkts = [] → Spec.To (.coreDone core) s [.cmd, .core, .reg] (fun u =>
        u.cor n = { c with phase := .done } ∧ (∀ m, m ≠ n → u.cor m = s.cor m) ∧ u.rbit (Reg.coreRteStatus n) 0 = false ∧
        OnlyRegs [Reg.coreRteStatus n] s u ∧ u.bnd k = { y with lastHeld := held 0 0 (s.sysOf n) })) ∧
      (c.openPkts = [p] → s.replica p.dstCore = none → p ≠ ⟨0, 0, 0, 0, 0, false, 0, []⟩ →
        Spec.To (.coreDone core) s [.cmd, .core, .reg, .rtr] (fun u =>
          u.cor n = { c with phase := .done, openPkts := [] } ∧ u.replica p.dstCore = some p ∧
          u.bnd k = { y with outPkts := y.outPkts + 1, lastHeld := held 0 0 (s.sysOf n) }))) ∧
    (x.valid = true → x.running = true → x.signalled = false → s.stepDone b.toNat = true →
      (s.isLead b.toNat = true → s.ptbStepBuoy = true → Spec.Run (.stepBuoySignal b s.sys.myDev step gates status) s [.cmd, .ptb, .reg] (fun u =>
        u.bnd b.toNat = { x with signalled := true, met := 0 } ∧
        u.ptb = s.ptb ++ [.step b s.sys.myDev (x.step.truncate 20) (s.gateHere b.toNat) St.ok])) ∧
      (s.isLead b.toNat = true → s.ptbStepBuoy = false → s.sys.myDev.toNat ∉ x.signals →
        Spec.Run (.stepBuoySignal b s.sys.myDev step gates status) s [.cmd, .syn]
          (taken s.sys.myDev [] St.ok { x with signalled := true, met := 0 })) ∧
      (s.isLead b.toNat = false → x.lead.toNat ∉ s.sys.lost →
        Spec.Run (.stepBuoySignal b s.sys.myDev step gates status) s [.cmd, .fab, .out, .ptb, .reg, .free, .eth, .irq] (fun u =>
          u.bnd b.toNat = { x with signalled := true, met := 0 } ∧
          Out.stepSignal b x.lead (x.step.truncate 20) (s.gateHere b.toNat) x.met ∈ u.out))) ∧
    (x.valid = true → x.running = true → s.stepDone b.toNat = false → exec (.stepBuoySignal b s.sys.myDev step gates status) s = .next s) ∧
    (x.valid = true → s.isLead b.toNat = true → dev ≠ s.sys.myDev → x.mask.getLsbD dev.toNat = true →
      (step = x.step.truncate 20 → s.ptbStepBuoy = true → Spec.Run (.stepBuoySignal b dev step gates status) s [.ptb, .reg] (fun u =>
        u.ptb = s.ptb ++ [.step b dev step gates status])) ∧
      (step = x.step.truncate 20 → dev.toNat ∉ x.signals → (∀ q ∈ x.queue, q.left ≠ some 0) →
        s.ptb.find? (fun y => decide (y.kind = 3)) = some (.step b dev step gates status) →
        Spec.Run (.ptbHoldRelease 3) s [.cmd, .syn, .ptb, .reg] (fun u => taken dev gates status x u ∧
          u.ptb = s.ptb.erase (.step b dev step gates status))) ∧
      (step = x.step.truncate 20 → s.ptbStepBuoy = false → dev.toNat ∉ x.signals → (∀ q ∈ x.queue, q.left ≠ some 0) →
        Spec.Run (.stepBuoySignal b dev step gates status) s [.cmd, .syn] (taken dev gates status x)) ∧
      ((step ≠ x.step.truncate 20 ∨ (s.ptbStepBuoy = false ∧ dev.toNat ∈ x.signals)) → exec (.stepBuoySignal b dev step gates status) s = .next s))

/-- What the end of a step does to its binding when no rule and no decoder belongs to it: the step number and the CSTEP of every context
that took part advance, the buoy is empty, and the covering command counts one step. -/
def Spec.Ended (s u : State) (b : Nat) (last : Word) : Prop :=
  let x := s.bnd b
  (u.bnd b).step = x.step + 1 ∧ (u.bnd b).signals = [] ∧ (u.bnd b).signalled = false ∧ u.buoy (65472 + b) = 0 ∧
  (∀ m, m ≠ 65472 + b → u.buoy m = s.buoy m) ∧ (∀ m, m ≠ b → u.bnd m = s.bnd m) ∧
  (∀ p ∈ s.ctxsOf b, (u.ctx p.1).cstep = if p.2.active then p.2.cstep + 1 else p.2.cstep) ∧ u.rget (Reg.fabRtrLast b) = last

/-- STEP_END on the lead, and STEP_END_RECEIPT on a member, in free-run mode: the lead ends the step once all its devices have signalled,
no sooner than STEP_LEN after the start (R34), and tells the members; with no step left the STEP or RUN completes with the steps it ran. -/
def Spec.StepsEnd : Prop :=
  ∀ (s : State) (b : BitVec 6) (slot : Word64) (q : StepCmd) (gates : List (BitVec 8 × Bool))
    (epochs : List (BitVec 8 × BitVec 24 × BitVec 48)),
    let k := b.toNat
    let x := s.bnd k
    let due := x.startedAt.toNat + nsOf (x.lenIn.toNat + x.extraIn.toNat)
    let parts := [Part.cmd, .core, .eth, .fab, .irq, .out, .ptb, .reg, .syn, .cnv, .free]
    Canon s → Alive s → x.valid = true → x.running = true → x.modeIn = 0 → s.regMode k = 0 → x.halting = false → x.windowOpen = false →
    s.bindingRules k = [] → x.votes = [] → (∀ p ∈ s.ctxsOf k, p.2.gated = false) → s.decoders k = [] → s.cnv.decodes = [] →
    due < 2 ^ 64 → x.samples = [] →
    (s.isLead k = true → 1 ≤ x.nDevs → x.nDevs ≤ x.signals.length → x.queue = [q] → q.waits = [] → s.farGroups k = [] →
      (q.left = some 1 → Spec.Run (.stepEnd b) s (.tmr :: parts) (fun u =>
        Spec.Ended s u k (if s.tmr.tb.toNat ≤ due then BitVec.ofNat 32 (3 * 2 ^ 30) else x.lastHeld) ∧
        (u.bnd k).running = false ∧ u.tmr.tb.toNat = max s.tmr.tb.toNat due ∧ (u.bnd k).queue = [] ∧
        (1 < x.nDevs → Out.stepEnd b x.step none x.gates x.epochsOut ∈ u.out) ∧
        (q.hdr.quiet = false → Cpl.mk q.cseq q.opcode q.status q.hdr.stream (BitVec.ofNat 40 (q.ran + 1)) ∈ u.cmd.cpls))) ∧
      (∀ l, q.left = some (l + 2) → Spec.Run (.stepEnd b) s ([.tmr, .ltn] ++ parts) (fun u =>
        (u.bnd k).step = x.step + 1 ∧ u.tmr.tb.toNat = max s.tmr.tb.toNat due ∧
        (u.bnd k).queue = [{ q with ran := q.ran + 1, left := some (l + 1) }]))) ∧
    (s.isLead k = true → x.signals.length < x.nDevs → exec (.stepEnd b) s = .next s) ∧
    (s.isLead k = false → x.queue = [] →
      Spec.Run (.stepEndReceipt b none gates epochs) s parts (fun u =>
        Spec.Ended s u k x.lastHeld ∧ (u.bnd k).running = false ∧ (u.bnd k).gates = gates) ∧
      Spec.Run (.stepEndReceipt b (some slot) gates epochs) s (.ltn :: parts) (fun u =>
        (u.bnd k).step = x.step + 1 ∧ ((u.bnd k).running = true ∨ (u.bnd k).waitSlot = true)))

/-- The end of a step on a core, on the device and on its lead. -/
def Obligations.StepsEnd : Prop := Spec.DoneAndSignal ∧ Spec.StepsEnd

/-! ## Integration (R95-R119, R123, R288) -/

/-- WINDOW_SORT: the window of the lowest tile takes the events of its lowest context indices, merges those of one matrix, row and context
index into one addition, and issues them in ascending order in even windows. An event R111 names is discarded and counted. -/
def Obligations.WindowsAreSorted : Prop :=
  ∀ (s : State) (core : BitVec 10) (e : Ev),
    let n := core.toNat
    let c := s.cor n
    let tile := fun (x : Ev) => (s.mat n x.matrix.toNat).tslot
    let key := fun (a : Addn) => (a.matrix.toNat * 65536 + a.row.toNat) * 2 ^ 18 + a.cidx
    Canon s → Alive s → n < 16 → c.phase = .integrate → n ∉ s.rtr.draining → s.phase1Waits n = false →
    ((∀ x ∈ c.inbox, s.dropReason n x = none) → c.inbox ≠ [] → (∀ x ∈ c.inbox, x.cidx < 2 ^ 18) →
      Spec.To (.windowSort core) s [.core, .reg] (fun u =>
        OnlyRegs [Reg.coreSynStatus n] s u ∧ u.rfield (Reg.coreSynStatus n) 0 1 = 1 ∧ ∃ w, u.cor n = { c with
            inbox := c.inbox.filter (fun x => !(decide (tile x = w.slot) && w.ctxs.contains x.cidx)), windows := c.windows ++ [w]
            adds := c.adds ++ w.todo, slot := w.slot, pos := (if w.slot = c.slot then c.pos else 0) + 1 } ∧
          (∀ m, m ≠ n → u.cor m = s.cor m) ∧ (∃ x ∈ c.inbox, tile x = w.slot) ∧ (∀ x ∈ c.inbox, w.slot ≤ tile x) ∧
          w.ctxs ≠ [] ∧ w.ctxs.Pairwise (· < ·) ∧ w.ctxs.length ≤ 64 ∧
          (∀ x ∈ c.inbox, tile x = w.slot → x.cidx ∉ w.ctxs → ∀ y ∈ w.ctxs, y < x.cidx) ∧
          (∀ m r k, ((w.todo.filter (fun a => a.matrix = m && a.row = r && a.cidx = k)).map (·.count)).sum =
            ((c.inbox.filter (fun x => decide (tile x = w.slot) && w.ctxs.contains x.cidx && x.matrix = m && x.row = r &&
              decide (x.cidx = k))).map (fun x => x.cnt.toNat)).sum) ∧
          (w.todo.map key).Nodup ∧
          ((if w.slot = c.slot then c.pos else 0) % 2 = 0 → (w.todo.map key).Pairwise (· < ·)))) ∧
    (c.inbox = [e] → ((s.mat n e.matrix.toNat).valid = false ∨ (s.mat n e.matrix.toNat).nrows ≤ e.row.toNat) →
      Spec.To (.windowSort core) s [.cmd, .core, .eth, .irq, .out, .reg] (fun u =>
        u.cor n = { c with inbox := [] } ∧ u.irq.raw.getLsbD (25 + s.physCore n) = true ∧
        u.rfield (Reg.coreSynDrop n) 0 32 = min (s.rfield (Reg.coreSynDrop n) 0 32 + 1) (2 ^ 32 - 1) ∧
        u.rget (Reg.coreSynDropinfo n) = BitVec.ofNat 32
          ((if (s.mat n e.matrix.toNat).valid then 1 else 0) * 2 ^ 30 + e.matrix.toNat * 2 ^ 16 + e.row.toNat)))

/-- ROW_READ brings the first row of the next run that will not be in the eight-entry buffer when the adder reaches it into the buffer, after
the rows before it, and counts it; a row in uncorrectable error loses its additions (that learning still goes through them is the model's
choice, log entry 58). ADDITION_RUN makes the additions of a run whose rows are all there, exactly, and counts them. -/
def Obligations.RowsAndAdditions : Prop :=
  ∀ (s : State) (core : BitVec 10) (w : Window) (ws : List Window) (a : Addn),
    let n := core.toNat
    let c := s.cor n
    let run := s.nextRun n
    let m := a.matrix.toNat
    let d := s.mat n m
    let adr := s.rowAddr n m a.row.toNat (s.bnd c.binding.toNat).step.toNat
    let reads := Reg.coreSynReadsLo n
    let adds := Reg.coreSynAddsLo n
    let hits := Reg.coreSynHitsLo n
    let weight := fun (b : Addn) (j : Nat) =>
      let e := s.mat n b.matrix.toNat
      if j < e.ncol then
        let x := s.weightAt (s.rowAddr n b.matrix.toNat b.row.toNat (s.bnd e.binding).step.toNat) e.fmt e.ncol j
        (toFx48 e.accExp e.fmt x.1 x.2).1
      else 0
    Canon s → Alive s → n < 16 → c.windows = w :: ws →
    (∀ buf, s.firstMiss n c.rowBuf run = some (a, buf) → s.longGet reads + 1 < 2 ^ 48 → d.ncol ≤ 8192 →
      (s.badRange adr (rowWB d.fmt d.ncol + rowSB d.fmt d.ncol) = false →
        Spec.Run (.rowRead core) s [.core, .reg] (fun u =>
          (∃ l, u.cor n = { c with rowBuf := l, fetched := c.fetched + 1 } ∧ inBuffer l (adr, rowWB d.fmt d.ncol) = true ∧ l.length ≤ 8 ∧
            ∀ k ∈ l, k = (adr, rowWB d.fmt d.ncol) ∨ k ∈ buf) ∧ (∀ k, k ≠ n → u.cor k = s.cor k) ∧
          u.longGet reads = s.longGet reads + 1 ∧ OnlyRegs [reads] s u)) ∧
      (s.badRange adr (rowWB d.fmt d.ncol + rowSB d.fmt d.ncol) = true →
        Spec.Run (.rowRead core) s [.cmd, .core, .eth, .irq, .out, .reg] (fun u =>
          u.cor n = { c with windows := { w with todo := w.todo.filter (fun b => b.key ≠ a.key) } :: ws } ∧
          u.longGet reads = s.longGet reads + 1 ∧ u.irq.raw.getLsbD (25 + s.physCore n) = true))) ∧
    (run ≠ [] → (s.firstMiss n c.rowBuf run).isSome = false → Tab.wf (fun _ => (0 : Int)) c.acc → (∀ b ∈ run, (s.mat n b.matrix.toNat).ncol ≤ 8192) →
      s.longGet adds + run.length < 2 ^ 48 → s.longGet hits + run.length < 2 ^ 48 →
      Spec.Run (.additionRun core) s [.cmd, .core, .reg] (fun u =>
        (u.cor n).windows = { w with todo := w.todo.drop run.length } :: ws ∧ (u.cor n).fetched = 0 ∧
        (u.cor n).inbox = c.inbox ∧ (u.cor n).phase = c.phase ∧ (u.cor n).fired = c.fired ∧
        (∀ k, k ≠ n → u.cor k = s.cor k) ∧ Tab.wf (fun _ => (0 : Int)) (u.cor n).acc ∧
        (∀ x j, j < 8192 → Tab.get (fun _ => (0 : Int)) (u.cor n).acc (x * 8192 + j) =
          Tab.get (fun _ => (0 : Int)) c.acc (x * 8192 + j) +
            ((run.filter (fun b => b.cidx = x)).map (fun b => (b.count : Int) * weight b j)).sum) ∧
        u.longGet adds = s.longGet adds + run.length ∧ u.longGet hits = s.longGet hits + (run.length - c.fetched)))

/-- WINDOW_FLUSH writes what the accumulators of the head window hold into the IN fields of its contexts and clears those accumulators;
where the population has no IN field it only clears them. No byte outside the IN fields changes. -/
def Spec.WindowFlushes : Prop :=
  ∀ (s : State) (core : BitVec 10) (w : Window) (ws : List Window),
    let n := core.toNat
    let c := s.cor n
    let t := s.slotAt n w.slot
    let m := (s.tileMats n w.slot).head?
    let accExp := ((m.map (fun m => (s.mat n m).accExp)).getD 0)
    let ncol := ((m.map (fun m => (s.mat n m).ncol)).getD 0)
    let at' := fun (p : Ctx) (j : Nat) => recordAddr p t j + 2 * t.inField
    let width := if t.ftype t.inField = 2 then 4 else 2
    let value := fun (x j : Nat) => (flushValue accExp t (Tab.get (fun _ => (0 : Int)) c.acc (x * 8192 + j))).1
    Canon s → Alive s → n < 16 → c.windows = w :: ws → w.todo = [] → Tab.wf (fun _ => (0 : Int)) c.acc → ncol ≤ 8192 →
    Spec.To (.windowFlush core) s [.cmd, .core, .mem, .reg] (fun u =>
      (∃ acc, u.cor n = { c with windows := ws, acc := acc } ∧ ∀ x j, j < 8192 →
        Tab.get (fun _ => (0 : Int)) acc (x * 8192 + j) = if x ∈ w.ctxs then 0 else Tab.get (fun _ => (0 : Int)) c.acc (x * 8192 + j)) ∧
      (∀ k, k ≠ n → u.cor k = s.cor k) ∧
      (t.inEn = false → u.mem = s.mem) ∧
      (∀ a, (∀ x ∈ w.ctxs, ∀ p, s.ctxByIdx c.binding.toNat x = some p → ∀ j, j < ncol → a < at' p.2 j ∨ at' p.2 j + width ≤ a) →
        u.byteAt a = s.byteAt a) ∧
      (t.inEn = true → 2 * t.inField + width ≤ t.stride → ∀ x p, w.ctxs = [x] → s.ctxByIdx c.binding.toNat x = some p →
        ∀ j, j < ncol → u.leAt (at' p.2 j) width = unsigned (8 * width) (value x j)))

/-- A BERTH's fill begins once its berth is free and the earlier fills and flows of its circuit have ended; at its last write the rows stand in
the berth, the berth is READY, or SPENT where phase 1 of its LAST step is over (R115), and the command completes, with RESULT 1 where the fill was in
packet mode; an uncorrectable read ends it with ECC_FATAL
and the berth stays FILLING. -/
def Spec.BerthFills : Prop :=
  ∀ (s : State) (core : BitVec 10) (b : BitVec 1) (q : BerthCmd),
    let n := core.toNat
    let c := s.cor n
    let x := c.berth b.toNat
    let d := s.mat n q.matrix.toNat
    let row := fun (r : Nat) => storeLayout d.fmt d.ncol (s.bytes (Mem.hbm + d.haddr + r * d.stride) d.stride)
    let base := Mem.store n 0 + x.base.toNat * 4096
    let done := fun (st : Byte) (res : Nat) (u : State) =>
      (q.hdr.quiet = false ∨ st ≠ St.ok → Cpl.mk q.cseq 0x25 st q.hdr.stream (BitVec.ofNat 40 res) ∈ u.cmd.cpls) ∧
      (∀ o ∈ (u.strm q.hdr.stream.toNat).outst, o.cseq ≠ q.cseq)
    Canon s → Alive s → n < 16 →
    (c.berthQ.find? (fun z => z.b.toNat = b.toNat) = some q → (x.state = 0 ∨ x.state = 3 ∨ (x.state = 1 ∧ x.cur = none)) →
      (∀ k y, (k, y) ∈ s.core.cores → (∀ z ∈ [y.berth0, y.berth1], ∀ v, z.cur = some v → v.circuit ≠ q.circuit) ∧
        (∀ v ∈ y.berthQ, v.circuit = q.circuit → q.order ≤ v.order)) →
      (∀ f ∈ (s.circ q.circuit.toNat).flows, f.going = false ∧ q.order ≤ f.order) →
      Spec.To (.berthFillStart core b) s [.core] (fun u =>
        (u.cor n).berth b.toNat = { x with
          state := 1, matrix := q.matrix, first := q.first, last := q.last, packet := !s.circuitUp q.circuit.toNat, cur := some q } ∧
        (u.cor n).berthQ = c.berthQ.filter (fun z => z.order ≠ q.order) ∧
        (u.cor n).berth (1 - b.toNat) = c.berth (1 - b.toNat) ∧
        (u.cor n).rowBuf = c.rowBuf.filter (fun k => !(base < k.1 + k.2 && k.1 < base + x.lines.toNat * 4096)) ∧ (u.cor n).windows = c.windows ∧
        (∀ k, k ≠ n → u.cor k = s.cor k))) ∧
    (x.cur = some q → s.isOut q.hdr q.cseq = true → (s.circ q.circuit.toNat).flows = [] →
      s.badRange (Mem.hbm + d.haddr) (d.nrows * d.stride) = true →
      Spec.Run (.berthReady core b) s ([.cmd, .core] ++ Spec.irqParts q.hdr) (fun u =>
        (u.cor n).berth b.toNat = { x with cur := none } ∧ done St.eccFatal 0 u)) ∧
    (x.cur = some q → s.isOut q.hdr q.cseq = true → (s.circ q.circuit.toNat).flows = [] →
      s.badRange (Mem.hbm + d.haddr) (d.nrows * d.stride) = false →
      Spec.Run (.berthReady core b) s [.cmd, .core, .mem, .reg, .irq, .out, .eth] (fun u =>
        (q.hdr.irq = false → OnlyRegs (Reg.coreSynStatus n :: Spec.grRegs) s u) ∧ (u.cor n).berth b.toNat = { x with state := if s.phase1Over c x.last.toNat then 3 else 2, cur := none } ∧
        done St.ok (if x.packet then 1 else 0) u ∧
        (u.cor n).rowBuf = c.rowBuf.filter (fun k => !(base < k.1 + k.2 && k.1 < base + d.nrows * d.stride)) ∧
        ((∀ r, r < d.nrows → (row r).length = d.stride) → base + d.nrows * d.stride ≤ Mem.store n 1 →
          (∀ r, r < d.nrows → u.bytes (base + r * d.stride) d.stride = row r) ∧
          (∀ a, a < base ∨ base + d.nrows * d.stride ≤ a → u.byteAt a = s.byteAt a))))

/-- Window flushes and berth fills. -/
def Obligations.FlushesAndFills : Prop := Spec.WindowFlushes ∧ Spec.BerthFills

/-! ## Events on their way (R198-R220, R225, R230, R246) -/

/-- The packet ROUTE_EXPANSION opens for an entry (R204, R207), and the record word in it (R198). -/
def Spec.Opens (s : State) (n : Nat) (f : Firing) (e : Nat) (p : Packet) : Prop :=
  let fixed := decide (e / 2 ^ 40 % 2 = 1)
  let cidx := if fixed then e / 2 ^ 46 else f.cidx.toNat
  p.dstCore = e % 1024 ∧ p.srcCore = s.sysOf n ∧ p.matrix.toNat = e / 2 ^ 10 % 256 ∧ p.delay.toNat = e / 2 ^ 34 % 64 ∧
  p.ctxBase.toNat = cidx / 8192 * 8192 ∧ p.fixed = fixed ∧ p.step.toNat = (s.bnd (s.cor n).binding.toNat).step.toNat % 2 ^ 20 ∧
  p.records = [BitVec.ofNat 32 ((e / 2 ^ 18 % 65536) * 65536 + cidx % 8192 * 8 + f.n % 8)]

/-- ROUTE_EXPANSION: the next firing instance's taps enter the engine's buffer and each of its route entries opens a packet or joins an open
one of its key. A frozen core expands nothing; while eight packets are held or the buffer has no room the route unit stalls, and only the
stall count moves (by a free value, log entry 61). -/
def Spec.RoutesExpand : Prop :=
  ∀ (s : State) (core : BitVec 10) (f g : Firing) (rest : List Firing) (u0 : Nat),
    let n := core.toNat
    let c := s.cor n
    let taps := s.tapsOf c.binding.toNat (s.sysOf n) f
    let e := s.leAt (routeUnit n u0) 8
    let ent := Reg.coreRteEntLo n
    let room := c.holding.length < 8 ∧ s.cnv.taps.length + taps.length ≤ 16384
    Canon s → Alive s → n < 16 → c.fired = f :: g :: rest → c.entry = 0 →
    (c.frozen = true → exec (.routeExpansion core) s = .next s) ∧
    (c.frozen = false → ¬ room → Spec.Run (.routeExpansion core) s [.reg, .free] (OnlyRegs [Reg.coreRteStall n] s)) ∧
    (c.frozen = false → room → s.routeSlot n f.slot / 2 ^ 31 = 0 →
      Spec.Run (.routeExpansion core) s [.core, .cnv] (fun u =>
        u.cor n = { c with fired := g :: rest } ∧ (∀ m, m ≠ n → u.cor m = s.cor m) ∧ u.cnv = { s.cnv with taps := s.cnv.taps ++ taps })) ∧
    (c.frozen = false → room → s.routeSlot n f.slot / 2 ^ 31 = 1 → s.routeIndex n f.slot f.idx = (u0, 1) →
      s.badRange (routeUnit n (s.routeSlot n f.slot % 2 ^ 17) + 4 * f.idx) 4 = false → s.badRange (routeUnit n u0) 8 = false →
      s.longGet ent + 1 < 2 ^ 48 →
      (∀ p, Spec.Opens s n f e p → (∀ q ∈ c.openPkts, packetHasKey q p.dstCore p.matrix.toNat p.delay.toNat p.ctxBase.toNat p.fixed = false) →
        c.openPkts.length < 16 → Spec.Run (.routeExpansion core) s [.core, .cnv, .reg] (fun u =>
          u.cor n = { c with fired := g :: rest, openPkts := c.openPkts ++ [p] } ∧ u.cnv.taps = s.cnv.taps ++ taps ∧
          u.longGet ent = s.longGet ent + 1 ∧ OnlyRegs [ent] s u)) ∧
      (∀ p q, Spec.Opens s n f e p → c.openPkts = [q] → q.records.length < 2047 →
        packetHasKey q p.dstCore p.matrix.toNat p.delay.toNat p.ctxBase.toNat p.fixed = true →
        Spec.Run (.routeExpansion core) s [.core, .cnv, .reg] (fun u =>
          u.cor n = { c with fired := g :: rest, openPkts := [{ q with records := q.records ++ p.records }] } ∧
          u.longGet ent = s.longGet ent + 1)))

/-- PACKET_SEND: a packet leaves its replica slot when its target has a credit for this device, and only the wait count moves (by a free
value, log entry 61) while there is none; a packet to an absent core is discarded and counted, and the step's command gets CORE_ABSENT; one
to a core of another binding freezes the sender: which binding a core of another device is bound to is a free value (log entry 63). -/
def Spec.PacketsAreSent : Prop :=
  ∀ (s : State) (dst : BitVec 10) (p : Packet),
    let d := dst.toNat
    let n := (s.localOf p.srcCore).getD 0
    let b := (s.cor n).binding.toNat
    let here := ∃ k, s.localOf d = some k ∧ (s.cor k).bound = true ∧ (s.cor k).binding.toNat ≠ b
    let abroad := d < s.sysSize ∧ (Config.peerOwner d s.tmr.tb.toNat).any (fun x => decide (x.toNat ≠ b)) = true
    let share := if s.ptbIngress then 1 else max 1 (64 / max 1 s.sys.nDevs)
    let sent := fun (u : State) => u.replica d = none ∧ u.rtr.inFlight = s.rtr.inFlight ++ [p] ∧ u.creditsUsed d = s.creditsUsed d + 1
    let freezes := fun (u : State) => u.replica d = none ∧ (u.cor n).frozen = true ∧ (u.cor n).fired = [] ∧ (u.cor n).holding = [] ∧
      (∀ m, m ≠ n → u.cor m = s.cor m) ∧ u.rbit (Reg.coreRteStatus n) 4 = true ∧ u.rtr.inFlight = s.rtr.inFlight
    let all := [Part.reg, .cmd, .core, .rtr, .fab, .eth, .irq, .ptb, .out, .free]
    Canon s → Alive s → n < 16 → s.replica d = some p → (∀ m, m < 16 → ∀ q ∈ (s.cor m).holding, q.dstCore ≠ d) →
    (s.sysPresent d = true → s.localOf d ≠ none → ¬ here → s.creditsUsed d < share → Spec.Run (.packetSend dst) s [.rtr] (fun u =>
      sent u ∧ ∀ k, k ≠ d → u.replica k = s.replica k ∧ u.creditsUsed k = s.creditsUsed k)) ∧
    (s.sysPresent d = true → s.localOf d ≠ none → ¬ here → share ≤ s.creditsUsed d →
      Spec.Run (.packetSend dst) s [.reg, .free] (OnlyRegs [Reg.fabRtrCreditWait] s)) ∧
    (s.sysPresent d = true → s.localOf d = none → s.creditsUsed d < share → Spec.Run (.packetSend dst) s all (fun u =>
      (abroad → (s.cor n).frozen = false → freezes u) ∧
      (¬ abroad → sent u ∧ Out.packet p ∈ u.out ∧ Spec.Frame [.rtr, .fab, .out, .ptb, .reg, .free, .eth, .irq] s u))) ∧
    (s.sysPresent d = true → s.localOf d = none → share ≤ s.creditsUsed d → Spec.Run (.packetSend dst) s all (fun u =>
      (abroad → (s.cor n).frozen = false → freezes u) ∧
      (¬ abroad → Spec.Frame [.reg, .free] s u ∧ OnlyRegs [Reg.fabRtrCreditWait] s u))) ∧
    (s.sysPresent d = false → Spec.Run (.packetSend dst) s [.rtr, .reg, .cmd] (fun u =>
      u.replica d = none ∧ u.rtr.inFlight = s.rtr.inFlight ∧ (u.bnd b).outPkts = (s.bnd b).outPkts - 1 ∧
      u.rfield (Reg.coreRteAbsent n) 0 32 = min (s.rfield (Reg.coreRteAbsent n) 0 32 + p.records.length) (2 ^ 32 - 1) ∧
      u.rbit (Reg.coreRteStatus n) 3 = true ∧
      (∀ q r, (s.bnd b).queue = q :: r → q.left ≠ some 0 → (u.bnd b).queue = { q with status := worse q.status St.coreAbsent } :: r))) ∧
    (s.sysPresent d = true → here → (s.cor n).frozen = false → Spec.Run (.packetSend dst) s all freezes)

/-- Route expansion and packets on their way. -/
def Obligations.EventsLeave : Prop := Spec.RoutesExpand ∧ Spec.PacketsAreSent

/-- EVENT_PACKET_ACCEPT puts a packet's events into the bucket of step emitted + 1 + delay, or into the staging slot while that bucket
drains; what the slot has no room for stays in the ingress buffer, and while the slot is full no credit returns. ACCEPT_ACK_ARRIVAL returns
a remote core's credit; STAGING_JOIN ends the drain, stores what waited and returns the credits owed. That a record in the staging slot is
accepted there is the model's choice (log entry 64). -/
def Obligations.PacketsAreAccepted : Prop :=
  ∀ (s : State) (src b : BitVec 6) (p : Packet) (n : Nat) (core : BitVec 10),
    let sb := (s.cor ((s.localOf p.srcCore).getD 0)).binding.toNat
    let cur := (s.bnd (s.cor n).binding.toNat).step.toNat
    let k := (emittedStep cur p.step.toNat + 1 + p.delay.toNat) % 64
    let evs := fun (q : Packet) => q.records.map (fun w => Ev.mk q.matrix (BitVec.ofNat 16 (w.toNat / 2 ^ 16))
      (q.ctxBase.toNat + w.toNat / 8 % 8192) (BitVec.ofNat 3 (w.toNat % 8)) q.fixed)
    let free := 2048 - (s.staged n).length
    let drains := n ∈ s.rtr.draining ∧ k = cur % 64
    let room := drains → p.records.length ≤ free
    let stored := fun (u : State) =>
      (¬ drains → u.ring n k = s.ring n k ++ evs p ∧ u.rtr.staging = s.rtr.staging) ∧
      (drains → u.staged n = s.staged n ++ (evs p).map (fun e => (k, e)) ∧ u.rtr.rings = s.rtr.rings) ∧
      (∀ m j, j < 64 → (m, j) ≠ (n, k) → u.ring m j = s.ring m j)
    let mine := p ∈ s.rtr.inFlight ∧ ∀ x ∈ s.rtr.ingress, ¬ (x.1 = src ∧ x.2.1 = p)
    let less := fun (b : Nat) (u : State) => u.rtr.inFlight = s.rtr.inFlight.erase p ∧
      (u.bnd b).outPkts = (s.bnd b).outPkts - 1 ∧ ∀ m, m ≠ b → u.bnd m = s.bnd m
    let j := core.toNat
    Canon s → Alive s →
    (s.localOf p.dstCore = some n → n < 16 → (s.staged n).length ≤ 2048 →
      (src = s.sys.myDev → mine → room → Spec.Run (.eventPacketAccept src p) s [.cmd, .rtr, .reg, .mem, .irq, .eth, .out] (fun u => Spec.SameBytes s u ∧ stored u ∧ less sb u ∧
        ((u.staged n).length < 2048 → u.creditsUsed p.dstCore = s.creditsUsed p.dstCore - 1 ∧ u.rtr.owed = s.rtr.owed) ∧
        ((u.staged n).length = 2048 → u.rtr.credits = s.rtr.credits ∧ u.rtr.owed = s.rtr.owed ++ [(n, src)]))) ∧
      (src = s.sys.myDev → ¬ mine → exec (.eventPacketAccept src p) s = .next s) ∧
      ((if src = s.sys.myDev then mine else p.records ≠ [] ∧ p.records.length ≤ 2048) → ¬ room →
        Spec.Run (.eventPacketAccept src p) s [.rtr, .reg] (fun u =>
          u.staged n = s.staged n ++ ((evs p).take free).map (fun e => (k, e)) ∧ u.rtr.ingress = s.rtr.ingress ++ [(src, p, free)] ∧
          u.rbit Reg.fabRtrStatus 1 = true ∧ u.rtr.inFlight = s.rtr.inFlight ∧ u.rtr.credits = s.rtr.credits ∧ u.rtr.rings = s.rtr.rings)) ∧
      (src ≠ s.sys.myDev → p.records ≠ [] → p.records.length ≤ 2048 → room →
        Spec.Run (.eventPacketAccept src p) s [.rtr, .reg, .mem, .fab, .out, .ptb, .free, .eth, .irq] (fun u => Spec.SameBytes s u ∧ stored u ∧ u.rtr.inFlight = s.rtr.inFlight ∧
          ((u.staged n).length < 2048 → Out.accept src (BitVec.ofNat 10 p.dstCore) ∈ u.out ∧ u.rtr.owed = s.rtr.owed) ∧
          ((u.staged n).length = 2048 → (∀ d e, Out.accept d e ∈ u.out → Out.accept d e ∈ s.out) ∧ u.rtr.owed = s.rtr.owed ++ [(n, src)])))) ∧
    (s.localOf j = none → s.rtr.inFlight.find? (fun q => decide (q.dstCore = j) &&
        decide ((s.cor ((s.localOf q.srcCore).getD 0)).binding.toNat = b.toNat)) = some p →
      Spec.To (.acceptAckArrival b core) s [.cmd, .rtr] (fun u => less b.toNat u ∧ u.creditsUsed j = s.creditsUsed j - 1)) ∧
    (j ∈ s.rtr.draining → (∀ x ∈ s.staged j, x.1 < 64) → (∀ x ∈ s.rtr.ingress, s.localOf x.2.1.dstCore ≠ some j) →
      Spec.Run (.stagingJoin core) s [.rtr, .reg, .mem, .fab, .out, .ptb, .free, .eth, .irq] (fun u => Spec.SameBytes s u ∧
        u.rtr.draining = s.rtr.draining.filter (fun m => m ≠ j) ∧ u.staged j = [] ∧ u.rtr.ingress = s.rtr.ingress ∧
        (∀ i, i < 64 → u.ring j i = s.ring j i ++ ((s.staged j).filter (fun x => x.1 = i)).map Prod.snd) ∧
        (∀ m i, i < 64 → m ≠ j → u.ring m i = s.ring m i) ∧
        u.rtr.owed = s.rtr.owed.filter (fun x => x.1 ≠ j) ∧
        u.creditsUsed (s.sysOf j) = s.creditsUsed (s.sysOf j) - (s.rtr.owed.filter (fun x => x.1 = j && x.2 = s.sys.myDev)).length ∧
        ∀ x ∈ s.rtr.owed, x.1 = j → x.2 ≠ s.sys.myDev → Out.accept x.2 (BitVec.ofNat 10 (s.sysOf j)) ∈ u.out)) ∧
    (∀ m, j = n → n < 16 → n ∈ s.rtr.draining → s.staged n = [] → s.rtr.owed = [] → s.rtr.ingress = [(s.sys.myDev, p, m)] →
      s.localOf p.dstCore = some n → Spec.Run (.stagingJoin core) s [.cmd, .rtr, .reg, .mem, .free, .irq, .eth, .out] (fun u => Spec.SameBytes s u ∧
        u.rtr.ingress = [] ∧ u.ring n k = s.ring n k ++ (evs p).drop m ∧ less sb u ∧
        u.creditsUsed p.dstCore = s.creditsUsed p.dstCore - 1))

/-! ## Learning (R156-R190, R196, R388, R389) -/

/-- The packed row `r` of a member's matrix with the segments that its owner `own` has staged in `l` (R182). -/
def Spec.newRow (s : State) (own n m r : Nat) (l : List Byte) : List Byte :=
  let g := meetSegs (s.rule own m).ownSegs (s.tileOf n m)
  let w := blockBytes (s.mat n m).fmt 256
  let new := (l.drop ((g.1 - (s.rule own m).ownFirst) * w)).take ((g.2 - g.1) * w)
  let off := (g.1 - (s.rule n m).segBase) * w
  (s.weightRow n m r).take off ++ new ++ (s.weightRow n m r).drop (off + new.length)

/-- LEARNING_PASS runs once a step over the rules of the core's binding. In a step that triggers no term of a rule each row trace decays and
rises with its additions, and nothing else of memory changes. -/
def Obligations.LearningPasses : Prop :=
  ∀ (s : State) (core : BitVec 10) (m : Nat) (q : Nat × Ctx),
    let n := core.toNat
    let c := s.cor n
    let rl := s.rule n m
    let d := s.mat n m
    let t := s.slotAt n d.tslot
    let mine := (s.rulesOf n).filter (fun m => decide ((s.rule n m).binding = c.binding.toNat))
    let at' := fun (r i : Nat) => q.2.home + t.poff.toNat + rl.rtOff + r * rl.nrt + i
    Canon s → Alive s → n < 16 →
    (c.learnDue = false → exec (.learningPass core) s = .next s) ∧
    (c.learnDue = true → mine = [] → Spec.Run (.learningPass core) s [.core, .reg] (fun u =>
      u.cor n = { c with learnDue := false } ∧ (∀ k, k ≠ n → u.cor k = s.cor k) ∧ u.rbit (Reg.coreLrnStatus n) 0 = false ∧
        OnlyRegs [Reg.coreLrnStatus n] s u)) ∧
    (c.learnDue = true → mine = [m] → s.coreCtxs n rl.binding = [q] → rl.dlearn = false → c.firing = [] →
      (c.adds = [] ∨ ∀ x ∈ rl.terms, x.trig = 1) → s.longGet (Reg.coreLrnOpsLo n) + c.adds.length < 2 ^ 48 →
      Spec.Run (.learningPass core) s [.core, .mem, .reg] (fun u =>
        u.cor n = { c with learnDue := false } ∧ u.rbit (Reg.coreLrnStatus n) 0 = false ∧
        (∀ r i, r < d.nrows → i < rl.nrt → (u.byteAt (at' r i)).toNat =
          let x := (s.byteAt (at' r i)).toNat
          min 255 (x - (x + 2 ^ rl.rtDecay i - 1) / 2 ^ rl.rtDecay i + rl.rtBump i *
            ((c.adds.filter (fun a => decide (a.matrix.toNat = m) && decide (a.row.toNat = r) && decide (a.cidx = q.2.cidx.toNat))).map
              (·.count)).sum)) ∧
        (∀ a, (∀ r i, r < d.nrows → i < rl.nrt → a ≠ at' r i) → u.byteAt a = s.byteAt a) ∧
        u.longGet (Reg.coreLrnOpsLo n) = s.longGet (Reg.coreLrnOpsLo n) +
          (c.adds.filter (fun a => decide (a.matrix.toNat = m))).length))

/-- The apply window opens, with STATE 2, for the groups whose contexts have all reached the gate, here and on the other devices, and whose
APPLY is there where they need one: a member's delta rows leave for the other owners of its segments. While it is
open on another device only, no step starts either (R177). It closes when every member has done its part and its rows are here: they are written,
STATE 0, REPOCH counts, VERSION flips, the deltas of the epoch are 0 and an APPLY completes with the epoch. -/
def Obligations.ApplyWindows : Prop :=
  ∀ (s : State) (b : BitVec 6) (granted : List (BitVec 8)) (n m : Nat),
    let k := b.toNat
    let x := s.bnd k
    let rl := s.rule n m
    let d := s.mat n m
    let r := s.red n m
    let pend := fun (g : Nat) => x.applyPending g || (x.lead ≠ s.sys.myDev && granted.any (fun y => y.toNat = g))
    let due := fun (p : Nat × Nat) => s.groupReady k (s.rule p.1 p.2).group (pend (s.rule p.1 p.2).group) = true ∧ s.ruleState p ≠ 2
    let far := (s.farGroups k).filter (fun g => s.farReady k g (pend g))
    let mine := fun (a : BitVec 8 × Hdr × Word64) => decide (a.1.toNat = rl.group)
    let g := meetSegs rl.ownSegs (s.tileOf n m)
    let new := fun (y : Nat × List Byte) => storeLayout d.fmt d.ncol (Spec.newRow s n n m y.1 y.2)
    let at' := fun (i : Nat) => Mem.store n 0 + d.base + i * d.stride
    Canon s → Alive s → x.valid = true →
    (x.running = false → Spec.Run (.applyWindowOpen b granted) s [.reg, .cmd, .core, .fab, .eth, .irq, .ptb, .out, .free] (fun u =>
      (∀ p ∈ s.bindingRules k, due p → u.ruleState p = 2 ∧ u.rbit (Reg.coreLrnStatus p.1) 1 = true) ∧
      (∀ p ∈ s.bindingRules k, ¬ due p → u.ruleState p = s.ruleState p) ∧
      u.bnd k = { x with
        farOpen := x.farOpen ++ far.map (fun g => (BitVec.ofNat 8 g, !(s.peerAsk k g).getLsbD 3))
        windowOpen := x.windowOpen || decide (far ≠ []) || (s.bindingRules k).any (fun p =>
          s.groupReady k (s.rule p.1 p.2).group (pend (s.rule p.1 p.2).group) && decide (s.ruleState p ≠ 2) && !(s.rule p.1 p.2).overlap) } ∧
      (∀ o, (n, m) ∈ s.bindingRules k → due (n, m) → (o, m) ∈ s.bindingRules k → (s.rule o m).group = rl.group → o ≠ n →
        s.carriage k n s.sys.myDev (s.sysOf o) = none →
        let g := meetSegs (s.rule o m).ownSegs (s.tileOf n m)
        g.1 < g.2 → ∀ y ∈ s.deltaXfers n m g (chunkRowsOf (cvtFmt rl.cvtD) rl.nsh ((s.rule o m).ownCols (s.mat o m))),
          Out.xfer none s.sys.myDev (BitVec.ofNat 10 (s.sysOf o)) (BitVec.ofNat 8 m) y ∈ u.out))) ∧
    (x.running = true → exec (.applyWindowOpen b granted) s = .next s) ∧
    (s.bindingRules k = [(n, m)] → s.rulesOf n = [m] → s.ruleState (n, m) = 2 → s.memberDone (n, m) = true → rl.overlap = false →
      rl.dlearn = false → r.ovl = false → s.rowsHere (n, m) [] = true → d.streamed = false → at' d.nrows ≤ Mem.store n 1 →
      (∀ y ∈ r.staged, y.1 < d.nrows ∧ (new y).length = d.stride) → (∀ y ∈ x.gates, y.1.toNat ≠ rl.group) → x.farOpen = [] → x.queue = [] → x.halting = false → x.lead = s.sys.myDev → n < 16 → m < 256 →
      (∀ p ∈ s.ctxsOf k, p.2.gated = false) → (∀ p ∈ s.ctxsOf k, p.2.cstep.toNat < rl.gateStep (r.epoch + 1)) →
      Spec.Run (.applyWindowClose b [] []) s [.cmd, .core, .eth, .irq, .mem, .out, .reg] (fun u =>
        u.ruleState (n, m) = 0 ∧ u.red n m = { Reduction.empty with epoch := r.epoch + 1 } ∧ (u.bnd k).windowOpen = false ∧
        u.rfield (Reg.coreLrnRepoch n m) 0 32 = min (s.rfield (Reg.coreLrnRepoch n m) 0 32 + 1) (2 ^ 32 - 1) ∧
        u.rbit (Reg.coreLrnRstat n m) 29 = !s.rbit (Reg.coreLrnRstat n m) 29 ∧ u.rbit (Reg.coreLrnStatus n) 1 = false ∧
        (∀ a, a < rl.nsh * d.nrows * rl.dStride d → u.byteAt (rl.region n + a) = 0) ∧
        (g.1 < g.2 → ∀ i y, r.staged.filter (fun z => decide (z.1 = i)) = [y] → u.bytes (at' i) d.stride = new y) ∧
        (∀ a, (a < rl.region n ∨ rl.region n + rl.nsh * d.nrows * rl.dStride d ≤ a) →
          (∀ y ∈ r.staged, a < at' y.1 ∨ at' y.1 + d.stride ≤ a) → u.byteAt a = s.byteAt a) ∧
        (s.reportsAuto (n, m) = false → (u.bnd k).applies = x.applies.filter (fun a => !mine a) ∧
          ∀ a, x.applies.filter mine = [a] → s.isOut a.2.1 a.2.2 = true → (a.2.1.quiet = false ∨ r.status ≠ St.ok) →
            Cpl.mk a.2.2 0x24 r.status a.2.1.stream (BitVec.ofNat 40 r.epoch) ∈ u.cmd.cpls))) ∧
    ((s.bindingRules k).all (fun p => decide (s.ruleState p ≠ 2)) = true → x.queue = [] → x.halting = false →
      (∀ p ∈ s.ctxsOf k, p.2.gated = s.mustGate p.2) → exec (.applyWindowClose b [] []) s = .next (s.setBnd k { x with
        windowOpen := decide (x.farOpen ≠ []) || (s.bindingRules k).any (fun p => decide (s.ruleState p = 3) && !(s.rule p.1 p.2).overlap) }))

/-- In the window the owner takes each member's chunk once and commits chunks in order: once every member's contribution has come it computes
the chunk's rows and sends them to the members that hold them, and the chunk is committed when no acknowledgement is due for them: a
member's chunks are cut by its own shards. The loss of a device of the binding leaves what is committed and ends the APPLY with PARTITIONED. -/
def Spec.ChunksReduce : Prop :=
  ∀ (s : State) (core : BitVec 10) (matrix : BitVec 8) (member : BitVec 10) (chunk : BitVec 18),
    let n := core.toNat
    let m := matrix.toNat
    let rl := s.rule n m
    let d := s.mat n m
    let x := s.red n m
    let b := rl.binding
    let arrive := Instr.reductionChunkArrival core matrix member chunk []
    let commit := Instr.chunkCommit core matrix chunk
    let mine := chunkOf d.nrows (s.memRows n m member.toNat) chunk.toNat
    let full := fun (k : Nat) => ∀ g, g < rl.gsize → ∀ r ∈ rl.rowsOf d k, (g, r / s.memRows n m g) ∈ x.got
    let lost := ∃ i ∈ s.sys.lost, (s.bnd b).mask.getLsbD i = true
    Canon s → Alive s → n < 16 → s.ruleState (n, m) = 2 →
    (rl.ownCount ≠ 0 → mine ≠ [] → member.toNat < rl.gsize →
      ((member.toNat, chunk.toNat) ∈ x.got → exec arrive s = .next s) ∧
      ((member.toNat, chunk.toNat) ∉ x.got →
        ((s.members b m rl.group).find? (fun c => decide ((s.rule c m).gindex = member.toNat)) = none →
          Spec.To arrive s [.core] (fun u => u.red n m = { x with got := (member.toNat, chunk.toNat) :: x.got } ∧
            (∀ i j, j < 256 → (i, j) ≠ (n, m) → u.red i j = s.red i j))) ∧
        Spec.To arrive s [.core, .eth, .irq, .out, .reg] (fun u =>
          (u.red n m).got = (member.toNat, chunk.toNat) :: x.got ∧ (u.red n m).committed = x.committed ∧
          (u.red n m).staged = x.staged))) ∧
    (rl.ownCount ≠ 0 → rl.bound = 0 → chunk.toNat = x.committed → chunk.toNat < rl.chunks d →
      (full chunk.toNat → x.computed ≤ chunk.toNat → x.sent ≤ chunk.toNat → s.fab.circuits = [] →
        Spec.Run commit s [.core, .eth, .irq, .mem, .out, .reg, .fab, .ptb, .free] (fun u =>
          (u.red n m).committed = x.committed + (if u.rowsUnacked n m chunk.toNat then 0 else 1) ∧ (u.red n m).computed = x.committed + 1 ∧ (u.red n m).sent = x.committed + 1 ∧
          (u.red n m).got = x.got ∧ (u.red n m).staged.map Prod.fst = x.staged.map Prod.fst ++ rl.rowsOf d chunk.toNat ∧
          (∀ o ∈ s.members b m rl.group, o ≠ n → (let g := meetSegs rl.ownSegs (s.tileOf o m); g.1 < g.2) →
            ∀ r ∈ rl.rowsOf d chunk.toNat, ∃ l, Out.xfer none s.sys.myDev (BitVec.ofNat 10 (s.sysOf o)) matrix (.newRows chunk.toNat l) ∈ u.out ∧
              r ∈ l.map Prod.fst))) ∧
      (full chunk.toNat → chunk.toNat < x.computed → chunk.toNat < x.sent → s.rowsUnacked n m chunk.toNat = true → exec commit s = .next s) ∧
      (full chunk.toNat → chunk.toNat < x.computed → chunk.toNat < x.sent → s.rowsUnacked n m chunk.toNat = false →
        Spec.To commit s [.core] (fun u => u.red n m = { x with committed := x.committed + 1 } ∧
          (∀ i j, j < 256 → (i, j) ≠ (n, m) → u.red i j = s.red i j))) ∧
      (¬ full chunk.toNat → exec commit s = .next s)) ∧
    (rl.ownCount ≠ 0 → chunk.toNat ≠ x.committed → exec commit s = .next s) ∧
    (lost → x.committed ≤ chunk.toNat → s.members b m rl.group = [n] → x.staged = [] → (s.bnd b).lead = s.sys.myDev →
      s.reportsAuto (n, m) = false →
      Spec.Run (.reductionPartitioned core matrix chunk) s [.cmd, .core, .eth, .irq, .out, .reg] (fun u =>
        u.ruleState (n, m) = 3 ∧ u.red n m = { x with sent := x.committed, status := St.ok } ∧
        (u.bnd b).applies = (s.bnd b).applies.filter (fun a => decide (a.1.toNat ≠ rl.group)) ∧
        (∀ a, (s.bnd b).applies.filter (fun a => decide (a.1.toNat = rl.group)) = [a] → s.isOut a.2.1 a.2.2 = true →
          Cpl.mk a.2.2 0x24 (worse St.partitioned x.status) a.2.1.stream (BitVec.ofNat 40 x.epoch) ∈ u.cmd.cpls))) ∧
    ((chunk.toNat < x.committed ∨ ¬ lost) → (s.bnd b).queue = [] → exec (.reductionPartitioned core matrix chunk) s = .next s)

/-- OVERLAP_ROW_COMMIT writes the next OVL_ROWS rows, once every segment of them is at hand, up to those that the step to come reads at the
new version. -/
def Spec.OverlapRowsCommit : Prop :=
  ∀ (s : State) (core : BitVec 10) (matrix : BitVec 8) (rows : List (Nat × Nat × List Byte)),
    let n := core.toNat
    let m := matrix.toNat
    let rl := s.rule n m
    let d := s.mat n m
    let b := rl.binding
    let x := s.red n m
    let c := Instr.overlapRowCommit core matrix rows
    let up := min (x.written + x.perStep) (min (((s.bnd b).step.toNat - x.openStep.toNat + 1) * x.perStep) x.rows)
    let tile := s.tileOf n m
    let hand := ∀ r, x.written ≤ r → r < up → ∀ i, i < tile.2 - tile.1 → s.segReady b n m rows r (tile.1 + i) = true
    let g := meetSegs rl.ownSegs tile
    let row := Spec.newRow s n n m
    let at' := fun (r : Nat) => Mem.store n 0 + d.base + r * d.stride
    Canon s → Alive s → n < 16 →
    (x.ovl = true → s.ruleState (n, m) = 2 → x.written < up → hand →
      Spec.Run c s [.core, .mem, .reg, .irq, .eth, .out] (fun u => u.red n m = { x with written := up } ∧
        OnlyRegs (Reg.coreSynStatus n :: Spec.grRegs) s u ∧ (d.streamed = false → u.irq = s.irq ∧ u.eth = s.eth ∧ u.out = s.out) ∧
        (∀ i j, j < 256 → (i, j) ≠ (n, m) → u.red i j = s.red i j) ∧
        (rows = [] → s.members b m rl.group = [n] → d.streamed = false → g.1 < g.2 →
          (∀ y ∈ x.staged, (storeLayout d.fmt d.ncol (row y.1 y.2)).length = d.stride) →
          (∀ r y, x.written ≤ r → r < up → x.staged.filter (fun z => decide (z.1 = r)) = [y] →
            u.bytes (at' r) d.stride = storeLayout d.fmt d.ncol (row r y.2)) ∧
          (∀ a, a < at' x.written ∨ at' up ≤ a → u.byteAt a = s.byteAt a)))) ∧
    ((x.ovl = false ∨ s.ruleState (n, m) ≠ 2 ∨ up ≤ x.written ∨ ¬ hand) → exec c s = .next s)

/-- DELAY_VOTE: the vote of each row moves the delay of every LEARN route entry of the binding's cores towards the target, within 0 to 63, and
of no other entry, at a boundary once its step has come; until then the vector waits. The home member forms the votes from the timing
accumulators as the window opened, once for all targets. -/
def Spec.DelaysMove : Prop :=
  ∀ (s : State) (b : BitVec 6) (target : BitVec 10) (matrix group : BitVec 8) (votes : List (BitVec 2)) (remote : List Int)
      (due : BitVec 48) (n : Nat),
    let m := matrix.toNat
    let x := s.bnd b.toNat
    let rl := s.rule n m
    let c := Instr.delayVote b target matrix group votes remote due
    let ms := s.members b.toNat m group.toNat
    let vs := if (s.red n m).vote ≠ [] then (s.red n m).vote else
      (List.range (s.mat n m).nrows).map (fun r => rl.vote ((s.red n m).tsums.getD r 0 + remote.getD r 0))
    let vote := fun (r : Nat) => match votes[r]? with
      | some 1 => (1 : Int)
      | some 3 => -1
      | _ => 0
    Canon s → Alive s → x.valid = true →
    (ms = [] → x.running = false → x.votes = [] → due.toNat ≤ x.step.toNat →
      Spec.To c s [.mem, .reg] (fun u =>
        (∀ k ∈ s.coresOf b.toNat, ∀ i ∈ s.routeEntries k,
          let e := s.leAt (routeUnit k i) 8
          let v : Int := vote (e / 2 ^ 18 % 2 ^ 16)
          let y : Int := ((e / 2 ^ 34 % 64 : Nat) : Int) + v
          ((u.leAt (routeUnit k i) 8 : Nat) : Int) =
            if e / 2 ^ 41 % 2 = 1 ∧ e % 1024 = target.toNat ∧ e / 2 ^ 10 % 256 = m ∧ 0 ≤ y ∧ y ≤ 63 then (e : Int) + v * (2 : Int) ^ 34 else (e : Int)) ∧
        (∀ a, (∀ k ∈ s.coresOf b.toNat, ∀ i ∈ s.routeEntries k, a < routeUnit k i ∨ routeUnit k i + 8 ≤ a) → u.byteAt a = s.byteAt a))) ∧
    (ms = [] → x.running = true → Spec.To c s [.cmd] (fun u =>
      u.bnd b.toNat = { x with votes := x.votes ++ [(due.toNat, target.toNat, m, votes.map voteOf)] } ∧
      (∀ k, k ≠ b.toNat → u.bnd k = s.bnd k))) ∧
    (ms = [n] → rl.taccHome = true → rl.dlearn = true → (∀ d, d < 64 → x.mask.getLsbD d → d = s.sys.myDev.toNat) →
      s.ruleState (n, m) = 2 → target.toNat = s.sysOf n → x.running = true → target.toNat ∉ (s.red n m).voted →
      Spec.To c s [.cmd, .core] (fun u =>
        u.bnd b.toNat = { x with votes := x.votes ++ [(s.voteStep n m, target.toNat, m, vs)] } ∧
        u.red n m = { s.red n m with vote := vs, voted := target.toNat :: (s.red n m).voted } ∧
        (∀ i j, j < 256 → (i, j) ≠ (n, m) → u.red i j = s.red i j))) ∧
    (ms = [n] → target.toNat ∈ (s.red n m).voted → exec c s = .next s)

/-- Reduction, overlapped commits and delay votes. -/
def Obligations.ReductionAndDelays : Prop := Spec.ChunksReduce ∧ Spec.OverlapRowsCommit ∧ Spec.DelaysMove

/-! ## What reaches the sync unit and the queue unit (R276, R302-R332, R535) -/

/-- A request of another device is performed and answered; the WAIT or TAKE it lets through completes too; a buoy that is not the request's
binding's refuses it. The answer to a request of this device completes its command; a beacon or a queue notice of another device enters
the inbox, and the answer to a beacon ends its watch, or has it offered again. The form of these messages is the model's (log entry 60). -/
def Obligations.BuoyRequests : Prop :=
  ∀ (s : State) (r : BuoyReq) (w : WaitE) (o : Outst) (n : Nat) (v : Word),
    let k := r.buoy.toNat
    let x := (s.buoy k).toNat
    let out := [Part.syn, .fab, .out, .ptb, .reg, .free, .eth, .irq]
    let ask := Instr.buoyOperation r none
    let done := fun (b d : BitVec 6) (st : BitVec 8) (c : Word64) (y : Byte) (z : Nat) (u : State) =>
      Out.waitDone b d st c y (BitVec.ofNat 32 z) ∈ u.out
    let only := fun (z : Nat) (u : State) => (u.buoy k).toNat = z ∧ ∀ j, j ≠ k → u.buoy j = s.buoy j
    let quiet := (∀ e ∈ s.syn.waits, e.buoy ≠ r.buoy) ∧ (∀ e ∈ s.syn.watches, e.buoy ≠ r.buoy)
    Canon s → Alive s →
    (r.dev ≠ s.sys.myDev → r.kind ≠ 7 → s.buoyOwner k ≠ some r.owner → s.ptbBuoy = false →
      Spec.Run ask s [.fab, .out, .ptb, .reg, .free, .eth, .irq] (done r.owner r.dev r.stream r.cseq St.notBound 0)) ∧
    (r.dev ≠ s.sys.myDev → r.kind = 7 → Spec.To ask s [.syn] (fun u =>
      u.syn = { s.syn with waits := s.syn.waits.filter (fun w => !(decide (w.dev = r.dev) && decide (w.stream = r.stream))) })) ∧
    (r.dev ≠ s.sys.myDev → s.buoyOwner k = some r.owner → s.ptbBuoy = false →
      (quiet → r.kind = 0 → x + r.n.toNat < 2 ^ 31 → Spec.Run ask s out (fun u =>
        only (x + r.n.toNat) u ∧ done r.owner r.dev r.stream r.cseq St.ok 0 u)) ∧
      (quiet → r.kind = 0 → 2 ^ 31 ≤ x + r.n.toNat →
        Spec.Run ask s [.reg, .fab, .irq, .out, .eth, .ptb, .free] (fun u => u.rbit Reg.synStatus 0 = true ∧
          u.irq.raw.getLsbD 110 = true ∧ done r.owner r.dev r.stream r.cseq St.overflow 0 u)) ∧
      (quiet → r.kind = 1 → r.n.toNat ≤ x → Spec.Run ask s out (fun u =>
        only (x - r.n.toNat) u ∧ done r.owner r.dev r.stream r.cseq St.ok (x - r.n.toNat) u)) ∧
      (r.kind = 2 → x = 0 → Spec.To ask s [.syn] (fun u => u.syn.buoys = s.syn.buoys ∧
        ∃ e, u.syn.waits = s.syn.waits ++ [e] ∧ e.take = true ∧ e.buoy = r.buoy ∧ e.dev = r.dev ∧ e.stream = r.stream ∧ e.cseq = r.cseq)) ∧
      (s.syn.waits = [w] → w.buoy = r.buoy → w.dev ≠ s.sys.myDev → (∀ e ∈ s.syn.watches, e.buoy ≠ r.buoy) → r.kind = 0 →
        x + r.n.toNat < 2 ^ 31 →
        (w.take = false → (if w.eq then x + r.n.toNat = w.value.toNat else w.value.toNat ≤ x + r.n.toNat) →
          Spec.Run ask s out (fun u => only (x + r.n.toNat) u ∧ u.syn.waits = [] ∧ done r.owner r.dev r.stream r.cseq St.ok 0 u ∧
            done w.binding w.dev w.stream w.cseq St.ok (x + r.n.toNat) u)) ∧
        (w.take = true → 0 < x + r.n.toNat → Spec.Run ask s out (fun u => only (x + r.n.toNat - 1) u ∧ u.syn.waits = [] ∧
          done w.binding w.dev w.stream w.cseq St.ok (x + r.n.toNat - 1) u)))) ∧
    ((s.strm r.stream.toNat).outst.find? (fun y => decide (y.cseq = r.cseq)) = some o →
      Spec.Run (.buoyOperation r (some (false, St.ok, v))) s (.cmd :: Spec.irqParts o.hdr) (fun u =>
        (o.hdr.quiet = false → Cpl.mk r.cseq (buoyOp r.kind) St.ok o.hdr.stream (BitVec.ofNat 40 v.toNat) ∈ u.cmd.cpls) ∧
        (o.hdr.stream = r.stream → ∀ y ∈ (u.strm r.stream.toNat).outst, y.cseq ≠ r.cseq))) ∧
    (s.localOf r.core.toNat = some n → (s.cor n).bound = true → (s.cor n).binding = r.owner → s.sysPresent r.core.toNat = true →
      s.ltn.power = .run → r.kind ≠ 5 → r.kind ≠ 6 →
      ((s.cor n).msgs.length < 4096 →
        Spec.Run (.buoyOperation r (some (true, St.ok, v))) s [.core, .reg, .irq, .out, .eth, .fab, .ptb, .free] (fun u =>
          (u.cor n).msgs = (s.cor n).msgs ++ [[BitVec.ofNat 32 r.cookie.toNat, BitVec.ofNat 32 (r.cookie.toNat / 2 ^ 32),
            BitVec.ofNat 32 (r.buoy.toNat + 2 ^ 24 * (64 + r.dev.toNat)), v]] ∧ (∀ m, m ≠ n → u.cor m = s.cor m) ∧
          Out.beaconAnswer r.owner r.dev r.value.toNat St.ok ∈ u.out)) ∧
      (4096 ≤ (s.cor n).msgs.length → Spec.Run (.buoyOperation r (some (true, St.ok, v))) s [.reg, .out, .fab, .ptb, .free, .eth, .irq] (fun u =>
        Out.beaconAnswer r.owner r.dev r.value.toNat St.pending ∈ u.out))) ∧
    (s.localOf r.core.toNat = some n → s.ltn.power = .run → r.kind = 5 → (s.cor n).msgs.length < 4096 →
      Spec.Run (.buoyOperation r (some (true, St.ok, v))) s [.core, .reg, .irq, .out, .eth] (fun u =>
        (u.cor n).msgs = (s.cor n).msgs ++ [[BitVec.ofNat 32 (r.buoy.toNat + 65536 * r.n.toNat), 0,
          BitVec.ofNat 32 ((0x80 + r.dev.toNat) * 2 ^ 24), v]] ∧ (∀ m, m ≠ n → u.cor m = s.cor m))) ∧
    (∀ t, r.kind = 6 → s.syn.watches = [t] → t.num = r.value.toNat → t.sent = true →
      Spec.Run (.buoyOperation r (some (true, St.ok, v))) s [.syn, .reg] (fun u => u.syn = { s.syn with watches := [] }) ∧
      Spec.Run (.buoyOperation r (some (true, St.pending, v))) s [.syn] (fun u =>
        u.syn = { s.syn with watches := [{ t with sent := false }] }) ∧
      Spec.Run (.buoyOperation r (some (true, St.notBound, v))) s [.syn, .reg, .irq, .out, .eth] (fun u =>
        u.syn = { s.syn with watches := [] } ∧ u.rbit Reg.synStatus 2 = true))

/-- A marker lets its SIGNAL go once every write ahead of it is done; a WAIT or TAKE that expires completes with TIMEOUT and the value; a
watch that expires sends a beacon with TIMEOUT; a beacon kept for want of room is offered again; what a perturbation holds goes on. -/
def Obligations.SyncEvents : Prop :=
  ∀ (s : State) (stream : BitVec 8) (cseq : Word64) (x : SigWait) (w : WaitE) (t : WatchE) (num : BitVec 14) (n : Nat) (st : Byte)
    (v : Word) (o : Outst) (oo : Out) (k : BitVec 2) (i : Nat),
    let marker := Instr.signalMarkerArrival stream cseq
    let mine := fun (y : SigWait) => decide (y.req.dev = s.sys.myDev) && decide (y.req.stream = stream) && decide (y.req.cseq = cseq) &&
      decide (0 < y.markers)
    let now := max (w.expiry.getD 0) s.tmr.tb.toNat
    let words := fun (st : Byte) (v : Nat) => [BitVec.ofNat 32 t.cookie.toNat, BitVec.ofNat 32 (t.cookie.toNat / 2 ^ 32),
      BitVec.ofNat 32 (t.buoy.toNat + 65536 * st.toNat + 2 ^ 24 * (64 + s.sys.myDev.toNat)), BitVec.ofNat 32 v]
    let here := s.sysPresent t.core.toNat = true ∧ s.localOf t.core.toNat = some n ∧ (s.cor n).bound = true ∧
      (s.cor n).binding = t.binding ∧ s.ltn.power = .run
    let taken := fun (st : Byte) (v : Nat) (u : State) => (u.cor n).msgs = (s.cor n).msgs ++ [words st v] ∧
      u.syn.watches = s.syn.watches.filter (fun y => decide (y.num ≠ t.num)) ∧
      u.rget Reg.synWatchUsed = BitVec.ofNat 32 u.syn.watches.length
    Canon s → Alive s →
    (s.syn.sigs.find? mine = none → exec marker s = .next s) ∧
    (s.syn.sigs.find? mine = some x → s.writesLeft x = true → exec marker s = .next s) ∧
    (s.syn.sigs.find? mine = some x → s.writesLeft x = false →
      (2 ≤ x.markers → Spec.To marker s [.syn] (fun u =>
        u.syn = { s.syn with sigs := s.syn.sigs.erase x ++ [{ x with markers := x.markers - 1 }] })) ∧
      (x.markers = 1 → x.target ≠ s.sys.myDev → Spec.Run marker s [.syn, .fab, .out, .ptb, .reg, .free, .eth, .irq] (fun u =>
        u.syn = { s.syn with sigs := s.syn.sigs.erase x } ∧ Out.buoy x.target x.req ∈ u.out)) ∧
      (x.markers = 1 → x.target = s.sys.myDev → s.ptbBuoy = true → Spec.To marker s [.syn, .reg] (fun u =>
        u.syn = { s.syn with sigs := s.syn.sigs.erase x ++ [SigWait.mk s.sys.myDev x.req 0] }))) ∧
    (s.syn.waits.find? (fun y => decide (y.dev = w.dev) && decide (y.stream = w.stream) && y.expiry.isSome) = some w → now < 2 ^ 64 →
      w.dev = s.sys.myDev → (s.strm w.stream.toNat).outst.find? (fun y => decide (y.cseq = w.cseq)) = some o →
      Spec.Run (.waitTimeout w.dev w.stream) s ([.syn, .tmr, .cmd] ++ Spec.irqParts o.hdr) (fun u =>
        u.tmr.tb.toNat = now ∧ u.syn = { s.syn with waits := s.syn.waits.erase w } ∧
        Cpl.mk w.cseq (if w.take then 0x44 else 0x41) St.timeout o.hdr.stream (BitVec.ofNat 40 (s.buoy w.buoy.toNat).toNat) ∈ u.cmd.cpls)) ∧
    (s.syn.watches.find? (fun y => decide (y.num = num.toNat) && y.expiry.isSome && decide (y.beacon = none)) = some t → here →
      (s.cor n).msgs.length < 4096 → Spec.Run (.watchTimeout num) s [.core, .reg, .syn, .tmr, .irq, .out, .eth] (fun u =>
        u.tmr.tb.toNat = max (t.expiry.getD 0) s.tmr.tb.toNat % 2 ^ 64 ∧ taken St.timeout (s.buoy t.buoy.toNat).toNat u)) ∧
    (s.syn.watches.find? (fun y => decide (y.num = num.toNat)) = some t → t.beacon = some (st, v) → t.sent = false → here →
      Spec.Run (.beaconRetry num) s [.core, .reg, .syn, .irq, .out, .eth] (fun u =>
        u.rfield Reg.synBcnRetry 0 32 = min (s.rfield Reg.synBcnRetry 0 32 + 1) (2 ^ 32 - 1) ∧
        ((s.cor n).msgs.length < 4096 → taken st v.toNat u) ∧
        (4096 ≤ (s.cor n).msgs.length → u.core = s.core ∧ u.syn.watches.length = s.syn.watches.length))) ∧
    (s.ptb.find? (fun y => decide (y.kind = 0)) = some (.out oo) →
      Spec.Run (.ptbHoldRelease 0) s [.ptb, .out, .reg] (fun u => u.ptb = s.ptb.erase (.out oo) ∧ u.out = s.out ++ [oo])) ∧
    (s.ptb.find? (fun y => decide (y.kind = 2)) = some (.refresh k i) →
      Spec.Run (.ptbHoldRelease 2) s [.ptb, .reg] (fun u => u.ptb = s.ptb.erase (.refresh k i))) ∧
    (s.syn.sigs.find? (fun y => decide (y.markers = 0)) = none → exec (.ptbHoldRelease 1) s = .next s) ∧
    (s.syn.sigs.find? (fun y => decide (y.markers = 0)) = some x → x.req.kind = 0 → x.req.dev ≠ s.sys.myDev →
      s.buoyOwner x.req.buoy.toNat = some x.req.owner → (∀ e ∈ s.syn.waits, e.buoy ≠ x.req.buoy) →
      (∀ e ∈ s.syn.watches, e.buoy ≠ x.req.buoy) → (s.buoy x.req.buoy.toNat).toNat + x.req.n.toNat < 2 ^ 31 →
      Spec.Run (.ptbHoldRelease 1) s [.syn, .fab, .out, .ptb, .reg, .free, .eth, .irq] (fun u => u.syn.sigs = s.syn.sigs.erase x ∧
        (u.buoy x.req.buoy.toNat).toNat = (s.buoy x.req.buoy.toNat).toNat + x.req.n.toNat ∧
        Out.waitDone x.req.owner x.req.dev x.req.stream x.req.cseq St.ok 0 ∈ u.out))

/-- The lead answers a member's CREATE with the same DEVMASK, which has then joined, and holds one that comes before its own; the lead's answer completes the
member's BIND and binds its stream, or ends it with BAD_OPERAND. -/
def Spec.JoinsAreAnswered : Prop :=
  ∀ (s : State) (b dev : BitVec 6) (mask : Word64) (h : Hdr) (cseq : Word64),
    let k := b.toNat
    let x := s.bnd k
    let n := h.stream.toNat
    Canon s → Alive s →
    (dev ≠ s.sys.myDev → x.valid = false → (dev, mask) ∉ x.joinsHeld → Spec.Run (.joinAcknowledgement b dev mask true) s [.cmd] (fun u =>
      u.bnd k = { x with joinsHeld := x.joinsHeld ++ [(dev, mask)] } ∧ ∀ m, m ≠ k → u.bnd m = s.bnd m)) ∧
    (dev ≠ s.sys.myDev → x.valid = true → x.mask = mask → mask.getLsbD dev.toNat = true → s.isLead k = true →
      Spec.Run (.joinAcknowledgement b dev mask true) s [.cmd, .reg, .fab, .out, .ptb, .free, .eth, .irq] (fun u =>
        u.bnd k = { x with joined := if dev.toNat ∈ x.joined then x.joined else x.joined ++ [dev.toNat] } ∧
        (∀ m, m ≠ k → u.bnd m = s.bnd m) ∧ Out.joinAnswer b dev true ∈ u.out)) ∧
    (dev ≠ s.sys.myDev → x.valid = true → x.mask ≠ mask →
      Spec.Run (.joinAcknowledgement b dev mask true) s [.reg, .fab, .out, .ptb, .free, .eth, .irq] (fun u => Out.joinAnswer b dev false ∈ u.out)) ∧
    (dev = s.sys.myDev → x.joinWait = some (h, cseq) → x.joinsHeld = [] →
      Spec.Run (.joinAcknowledgement b dev mask true) s ([.cmd, .reg] ++ Spec.irqParts h) (fun u =>
        u.bnd k = { x with valid := true, joinWait := none } ∧ u.rget (Reg.cmdStepOverrun k) = 0 ∧
        (u.rget (Reg.cmdStepStatus k)).getLsbD 3 = false ∧ (u.strm n).bound = true ∧ (u.strm n).binding = b ∧
        (h.quiet = false → Cpl.mk cseq 0x01 St.ok h.stream 0 ∈ u.cmd.cpls)) ∧
      Spec.Run (.joinAcknowledgement b dev mask false) s (.cmd :: Spec.irqParts h) (fun u =>
        u.bnd k = Binding.empty ∧ (u.strm n).bound = (s.strm n).bound ∧ Cpl.mk cseq 0x01 St.badOperand h.stream 0 ∈ u.cmd.cpls))

/-- OPEN, the grant and its answer, messages, credits, closes and timeouts of the message queues. -/
def Spec.QueueEvents : Prop :=
  ∀ (s : State) (q : BitVec 12) (dev : BitVec 6) (b : BitVec 6) (st : BitVec 8) (gen : Word64) (rsize words : BitVec 17) (r : RecvE)
    (core : BitVec 10),
    let k := q.toNat
    let x := s.queueAt k
    let d := dev.toNat
    let w := s.writer d k
    let me := s.sys.myDev.toNat
    let ws := s.qWstream k
    let reply := fun (y : Byte) (u : State) => Out.mgmtReply false [(BitVec.ofNat 32 (Reg.mqQCtrl k), 0, y)] ∈ u.out
    let others := fun (u : State) => ∀ m, m ≠ k → u.queueAt m = s.queueAt m
    let out := [Part.syn, .eth, .fab, .out, .ptb, .reg, .free, .irq]
    Canon s → Alive s →
    (s.openOk k = true → Spec.Run (.queueOpen q) s out (fun u => others u ∧ reply St.ok u ∧
      u.queueAt k = { x with state := 1, gen := x.gen + 1, head := 0, tail := 0, fill := 0, early := [] } ∧
      (s.qWdev k ≠ me → Out.grant (BitVec.ofNat 6 (s.qWdev k)) q (x.gen + 1) (s.qSize k) ∈ u.out))) ∧
    (s.openOk k = false → Spec.Run (.queueOpen q) s out (fun u => u.syn = s.syn ∧ reply St.badOperand u)) ∧
    (x.state ≠ 0 → s.qWdev k = me → (s.writer me k).isOpen = false → (∀ e ∈ s.syn.recvs, e.queue ≠ q) → x.fill = 0 → x.early = [] →
      Spec.Run (.queueClose q) s out (fun u => others u ∧ reply St.ok u ∧
        u.queueAt k = { x with state := 0, cause := 1, fill := 0, head := 0, tail := 0, early := [] } ∧
        (u.writer me k).isOpen = false ∧ (u.writer me k).credit = 0)) ∧
    (d = me → x.state = 1 → x.gen = gen → s.qWdev k = d →
      let ok := (s.strm ws).bound = true ∧ (s.strm ws).binding = x.binding
      (ok → Spec.Run (.queueGrantArrival dev q b st gen rsize none) s [.syn] (fun u => others u ∧
        u.queueAt k = { x with state := 2 } ∧ u.writer d k = { w with
          isOpen := true, closed := false, binding := x.binding, stream := BitVec.ofNat 8 ws, gen := gen, rsize := s.qSize k,
          credit := s.qSize k, tail := 0 })) ∧
      (¬ ok → Spec.Run (.queueGrantArrival dev q b st gen rsize none) s [.syn] (fun u => others u ∧
        u.queueAt k = { x with state := 0, cause := 5, refused := true } ∧ u.syn.writers = s.syn.writers))) ∧
    (s.qWdev k ≠ me → x.state = 1 → x.gen = gen → Spec.Run (.queueGrantArrival dev q b st gen rsize (some true)) s [.syn] (fun u =>
      others u ∧ u.queueAt k = { x with state := 2 })) ∧
    (d ≠ me → (s.strm st.toNat).bound = true → (s.strm st.toNat).binding = b →
      Spec.Run (.queueGrantArrival dev q b st gen rsize none) s [.syn, .fab, .out, .ptb, .reg, .free, .eth, .irq] (fun u =>
        (u.writer d k).isOpen = true ∧ (u.writer d k).gen = gen ∧ (u.writer d k).credit = rsize.toNat ∧ (u.writer d k).tail = 0 ∧
        (u.writer d k).stream = st ∧ Out.grantAnswer dev q true ∈ u.out)) ∧
    (d ≠ me → w.isOpen = true → w.gen = gen → Spec.To (.creditReturnArrival dev q gen words) s [.syn] (fun u =>
      u.writer d k = { w with credit := w.credit + words.toNat } ∧ u.syn.queues = s.syn.queues)) ∧
    (w.gen ≠ gen → exec (.creditReturnArrival dev q gen words) s = .next s) ∧
    (d ≠ me → w.isOpen = true → (s.strm w.stream.toNat).held = [] → Spec.To (.closeNoticeArrival dev q) s [.syn, .cmd] (fun u =>
      u.writer d k = { w with isOpen := false, closed := true, credit := 0 } ∧ u.syn.queues = s.syn.queues)) ∧
    (s.syn.recvs.find? (fun e => decide (e.hdr.stream = st)) = some r → ∀ t, r.expiry = some t → max t s.tmr.tb.toNat < 2 ^ 64 →
      Spec.To (.recvTimeout st) s ([.syn, .tmr, .cmd] ++ Spec.irqParts r.hdr) (fun u =>
        u.syn = { s.syn with recvs := s.syn.recvs.erase r } ∧ u.tmr.tb.toNat = max t s.tmr.tb.toNat ∧
        Cpl.mk r.cseq 0x51 St.timeout r.hdr.stream 0 ∈ u.cmd.cpls)) ∧
    Spec.To (.inboxPop core) s [.core] (fun u =>
      u.cor core.toNat = { s.cor core.toNat with msgs := (s.cor core.toNat).msgs.drop 1 } ∧ ∀ m, m ≠ core.toNat → u.cor m = s.cor m)

/-- QUEUE_MESSAGE_ARRIVAL at an OPEN queue of the message's GEN writes its words into the ring and completes the SEND, or acknowledges it to
the device it came from, whose SEND then completes; at any other the message is discarded and counted and its SEND completes with
QUEUE_CLOSED. -/
def Spec.MessagesArrive : Prop :=
  ∀ (s : State) (src : BitVec 6) (q : BitVec 12) (gen : Word64) (off : BitVec 17) (words : List Word64) (h : Hdr) (c : Word64),
    let k := q.toNat
    let x := s.queueAt k
    let me := s.sys.myDev.toNat
    let w := s.writer me k
    let m : SentMsg := ⟨some (h, c), gen, off.toNat, words⟩
    let ring := s.qWord k off.toNat
    let bytes := words.flatMap (fun v => leBytes 8 v.toNat)
    let go := fun (d : BitVec 6) => Instr.queueMessageArrival d q gen off words none
    let stored := fun (u : State) =>
      u.bytes ring (8 * words.length) = bytes ∧ (∀ a, a < ring ∨ ring + 8 * words.length ≤ a → u.byteAt a = s.byteAt a) ∧
      u.queueAt k = { x with tail := (x.tail + words.length) % s.qSize k, fill := x.fill + words.length } ∧
      (∀ j, j ≠ k → u.queueAt j = s.queueAt j)
    let fits := x.state = 2 ∧ x.gen = gen ∧ x.tail = off.toNat ∧ x.early = [] ∧ s.qNotify k = false ∧ (∀ r ∈ s.syn.recvs, r.queue ≠ q)
    Canon s → Alive s → hdrKind (words.headD 0) = 1 →
    (src ≠ s.sys.myDev → fits → Spec.Run (go src) s [.mem, .syn, .cnv, .fab, .out, .ptb, .reg, .free, .eth, .irq] (fun u => stored u ∧
      Out.sendDone src q true ∈ u.out)) ∧
    (∀ ok, src ≠ s.sys.myDev → (s.writer src.toNat k).sent = [m] → s.isOut h c = true →
      Spec.Run (.queueMessageArrival s.sys.myDev q gen off words (some (src, ok))) s ([.syn, .cmd] ++ Spec.irqParts h) (fun u =>
        u.writer src.toNat k = { s.writer src.toNat k with sent := [] } ∧ u.syn.queues = s.syn.queues ∧
        ((h.quiet = false ∨ ok = false) → Cpl.mk c 0x50 (if ok then St.ok else St.queueClosed) h.stream 0 ∈ u.cmd.cpls))) ∧
    (w.sent = [m] → s.isOut h c = true → fits →
      Spec.To (go s.sys.myDev) s ([.mem, .syn, .cmd] ++ Spec.irqParts h) (fun u => stored u ∧ u.writer me k = { w with sent := [] } ∧
        (h.quiet = false → Cpl.mk c 0x50 St.ok h.stream 0 ∈ u.cmd.cpls))) ∧
    (w.sent = [m] → s.isOut h c = true → (x.state ≠ 2 ∨ x.gen ≠ gen) → Spec.To (go s.sys.myDev) s [.syn, .cmd, .reg, .irq, .out, .eth] (fun u =>
      u.syn.queues = s.syn.queues ∧ u.writer me k = { w with sent := [] } ∧
      u.rfield (Reg.mqQDisc k) 0 32 = min (s.rfield (Reg.mqQDisc k) 0 32 + 1) (2 ^ 32 - 1) ∧
      Cpl.mk c 0x50 St.queueClosed h.stream 0 ∈ u.cmd.cpls))

/-- CREATE across devices, and the message queues. -/
def Obligations.JoinsAndQueues : Prop := Spec.JoinsAreAnswered ∧ Spec.QueueEvents ∧ Spec.MessagesArrive

/-! ## Memories (R333-R362, R535) -/

/-- SLICE_BANK_CYCLE and ALIAS_WRITE: of the requests that wait for a bank the first in rotating-priority order is served, with the others to
its word, and the pointer passes its port; a request to another word waits on. The reads of a group return the word before it; its writes
apply in that order, each to the enabled bytes, the set bits or the cleared bits, an alias write returning the word before it; no other byte
changes. Alias writes come from the router, the sync unit and Keeper alone. A correctable word counts. In maintenance mode the lowest port
wins and the others lose their write. SLICE[29] and SLICE[30] read as the descriptors and take no write; the vault answers Keeper's security
port alone. What the requests waited counts by free values (log entry 61); where instance state lies, and in SLICE[28] and SLICE[31], a read
gives a free value (log entries 59 and 65). -/
def Spec.BankCycles : Prop :=
  ∀ (s : State) (slice : BitVec 5) (bank : BitVec 2) (word : BitVec 20) (ce : Bool) (reqs : List SliceReq) (port : BitVec 7)
    (clear vault : Bool) (data : Word64) (r w : SliceReq),
    let k := slice.toNat
    let a := Mem.slice k + word.toNat * 8
    let old := s.word64 a
    let key := k * 4 + bank.toNat
    let p := Tab.get (fun _ => 0) s.mem.pointers key
    let rank := fun (q : SliceReq) => (q.port.toNat + 114 - p) % 114
    let order := (List.range 114).flatMap (fun i => reqs.filter (fun r => decide (r.port.toNat = (p + i) % 114)))
    let apply := fun (x : Word64) (r : SliceReq) => if r.code = 1 then x ||| r.data else if r.code = 2 then x &&& ~~~r.data
      else (x &&& ~~~(maskBits r.mask)) ||| (r.data &&& maskBits r.mask)
    let same := fun (u : State) => ∀ i, i < a ∨ a + 8 ≤ i → u.byteAt i = s.byteAt i
    let own := s.ptbArb = none ∧ s.requests k = [] ∧ p < 114 ∧ s.bankOf k (word.toNat * 8) = bank.toNat
    let plain := k < 28 ∧ s.instsIn a 8 = []
    let waits := fun (l : List SliceReq) => Reg.slcConfl k :: l.map (fun q => Reg.xbrPortWait q.port.toNat)
    let issues := fun (q : SliceReq) => q.port.toNat < 114 ∧ q.code ≠ 3 ∧ (q.code = 0 ∨ (102 ≤ q.port.toNat ∧ q.port.toNat < 110) ∨ 112 ≤ q.port.toNat)
    let group := own ∧ reqs ≠ [] ∧ reqs.length ≤ 16 ∧ (reqs.map (fun q => q.port)).Nodup ∧ ∀ q ∈ reqs, q.word = word ∧ issues q
    let served := fun (q : SliceReq) (u : State) => u.requests k = [] ∧ u.mem.pointers = Tab.set (fun _ => 0) s.mem.pointers key ((q.port.toNat + 1) % 114)
    let one := own ∧ reqs = [r] ∧ r.word = word ∧ issues r
    let go := Instr.sliceBankCycle slice bank ce reqs
    Canon s → Alive s →
    (group → plain → s.badRange a 8 = false → s.rbit (Reg.slcCfg k) 8 = false →
      Spec.Run go s [.mem, .out, .reg, .free] (fun u => (∀ q, order.head? = some q → served q u) ∧
        u.word64 a = (order.filter (fun q => q.write)).foldl apply old ∧ same u ∧
        (∀ q ∈ reqs, q.write = false → Out.sliceReply q.port St.ok old ∈ u.out) ∧
        (∀ q ∈ reqs, q.write = true → q.code = 0 → Out.sliceReply q.port St.ok 0 ∈ u.out) ∧
        (ce = false ∨ (∀ q ∈ reqs, q.write = true ∧ q.code = 0 ∧ q.mask = 0xFF) → OnlyRegs (waits reqs) s u) ∧
        (ce = true → (∃ q ∈ reqs, q.write = false ∨ q.code ≠ 0 ∨ q.mask ≠ 0xFF) → u.rbit (Reg.slcStatus k) 0 = true ∧
          u.rfield (Reg.slcEccCe k) 0 32 = min (s.rfield (Reg.slcEccCe k) 0 32 + 1) (2 ^ 32 - 1)))) ∧
    (own → plain → s.badRange a 8 = false → reqs = [r, w] → r.word = word → w.word ≠ word → r.write = false → issues r → issues w →
      s.bankOf k (w.word.toNat * 8) = bank.toNat → rank r < rank w →
      Spec.Run go s [.mem, .out, .reg, .free] (fun u => u.requests k = [w] ∧ u.mem.cells = s.mem.cells ∧
        u.mem.pointers = Tab.set (fun _ => 0) s.mem.pointers key ((r.port.toNat + 1) % 114) ∧
        u.out = s.out ++ [.sliceReply r.port St.ok old])) ∧
    (own → plain → s.badRange a 8 = false → s.rbit (Reg.slcCfg k) 8 = false → ((102 ≤ port.toNat ∧ port.toNat < 110) ∨ port = 112 ∨ port = 113) →
      Spec.Run (.aliasWrite slice port word clear vault data) s [.mem, .out, .reg, .free] (fun u =>
        OnlyRegs [Reg.slcConfl k, Reg.xbrPortWait port.toNat] s u ∧
        u.word64 a = (if clear then old &&& ~~~data else old ||| data) ∧ same u ∧ u.out = s.out ++ [.sliceReply port St.ok old])) ∧
    (own → port.toNat < 102 → exec (.aliasWrite slice port word clear vault data) s = .next s) ∧
    (group → plain → s.badRange a 8 = false → s.rbit (Reg.slcCfg k) 8 = true → reqs = [r, w] → r.write = true → w.write = true → r.code = 0 → w.code = 0 →
      r.port.toNat < w.port.toNat →
      Spec.Run go s [.mem, .out, .reg, .irq, .eth, .free] (fun u =>
        u.word64 a = apply old r ∧ same u ∧ Out.sliceReply r.port St.ok 0 ∈ u.out ∧ Out.sliceReply w.port St.writeLost 0 ∈ u.out ∧
        u.rfield (Reg.slcWlost k) 0 32 = min (s.rfield (Reg.slcWlost k) 0 32 + 1) (2 ^ 32 - 1) ∧ u.rbit (Reg.slcStatus k) 2 = true)) ∧
    (one → plain → s.badRange a 8 = true → s.rbit (Reg.slcCfg k) 8 = false → (r.write = false ∨ r.code ≠ 0 ∨ r.mask ≠ 0xFF) →
      Spec.Run go s [.mem, .out, .reg, .irq, .eth, .free] (fun u => u.mem.cells = s.mem.cells ∧
        Out.sliceReply r.port St.eccFatal 0 ∈ u.out ∧ u.rbit (Reg.slcStatus k) 1 = true ∧
        u.rfield (Reg.slcEccUe k) 0 32 = min (s.rfield (Reg.slcEccUe k) 0 32 + 1) (2 ^ 32 - 1))) ∧
    (one → k = 29 ∨ k = 30 → s.badRange a 8 = false →
      (r.write = false → Spec.Run go s [.mem, .out, .reg, .free] (fun u => u.mem.cells = s.mem.cells ∧
        u.out = s.out ++ [.sliceReply r.port St.ok (s.descWord k word.toNat)])) ∧
      (r.write = true → Spec.Run go s [.mem, .out, .reg, .free] (fun u => u.mem.cells = s.mem.cells ∧
        u.out = s.out ++ [.sliceReply r.port St.badOperand 0]))) ∧
    (one → inVault k word.toNat = true → s.mem.wiping = false →
      (¬ (r.port = 113 ∧ r.vault = true) → Spec.Run go s [.mem, .out, .reg, .irq, .eth, .free] (fun u =>
        u.mem.cells = s.mem.cells ∧ Out.sliceReply r.port St.notBound 0 ∈ u.out ∧ u.rbit (Reg.slcStatus 31) 3 = true)) ∧
      (r.port = 113 → r.vault = true → s.badRange a 8 = false → s.instsIn a 8 = [] →
        Spec.Run go s [.mem, .out, .reg, .free] (fun u =>
          u.word64 a = (if r.write then apply old r else old) ∧ same u ∧
          (r.write = false → u.out = s.out ++ [.sliceReply r.port St.ok old]))))

/-- The vault wipe, patrol scrub, HBM accesses and refreshes. -/
def Spec.WipeScrubAndHbm : Prop :=
  ∀ (s : State) (unit : BitVec 6) (word : BitVec 35) (addr : BitVec 38) (data : List Byte) (stack : BitVec 2) (temp : BitVec 8)
    (ce ue : Bool) (a : Nat),
    let m := Mem.hbm + addr.toNat
    let k := unit.toNat
    Canon s → Alive s →
    (s.mem.wiping = true → Spec.To .vaultWipe s [.mem] (fun u => u.mem.wiping = false ∧
      (∀ i, Mem.slice 31 + 0x700000 ≤ i → i < Mem.slice 31 + 0x800000 → u.byteAt i = 0) ∧
      (∀ i, i < Mem.slice 31 + 0x700000 ∨ Mem.slice 31 + 0x800000 ≤ i → u.byteAt i = s.byteAt i))) ∧
    (s.mem.wiping = false → exec .vaultWipe s = .next s) ∧
    (k < 32 → word.toNat < 2 ^ 20 → a = Mem.slice k + word.toNat * 8 → s.mem.bad.contains (a / 8) = false →
      Spec.To (.scrubRead false unit word ce ue) s [.mem, .reg, .irq, .out, .eth] (fun u =>
        u.mem.cells = s.mem.cells ∧
        (ue = true → a / 8 ∈ u.mem.bad ∧ u.rbit (Reg.slcStatus k) 1 = true ∧
          u.rfield (Reg.slcEccUe k) 0 32 = min (s.rfield (Reg.slcEccUe k) 0 32 + 1) (2 ^ 32 - 1)) ∧
        (ue = false → ce = true → u.mem.bad = s.mem.bad ∧ u.rbit (Reg.slcStatus k) 0 = true ∧ a / 8 ∈ u.mem.worn ∧
          u.rfield (Reg.slcEccCe k) 0 32 = min (s.rfield (Reg.slcEccCe k) 0 32 + 1) (2 ^ 32 - 1)))) ∧
    (addr.toNat + data.length ≤ 0x2400000000 →
      (addr.toNat % 16 = 0 → data.length % 16 = 0 → Spec.Run (.hbmAccess true addr ce data) s [.mem, .reg, .irq, .out, .eth] (fun u =>
        u.bytes m data.length = data ∧ (∀ i, i < m ∨ m + data.length ≤ i → u.byteAt i = s.byteAt i) ∧
        Out.hbmReply addr St.ok [] ∈ u.out)) ∧
      (s.badRange m data.length = false → Spec.Run (.hbmAccess false addr ce data) s [.reg, .irq, .out, .eth] (fun u =>
        Out.hbmReply addr St.ok (s.bytes m data.length) ∈ u.out ∧
        (ce = true → data ≠ [] → u.rbit (Reg.hbmStat (hbmStack addr.toNat)) 0 = true ∧ u.rfield (Reg.hbmEccCe (hbmStack addr.toNat)) 0 32 =
          min (s.rfield (Reg.hbmEccCe (hbmStack addr.toNat)) 0 32 + 1) (2 ^ 32 - 1)))) ∧
      (s.badRange m data.length = true → Spec.Run (.hbmAccess false addr ce data) s [.reg, .irq, .out, .eth] (fun u =>
        Out.hbmReply addr St.eccFatal [] ∈ u.out))) ∧
    Spec.To (.hbmRefreshDouble stack temp) s [.reg] (fun u => u.rfield (Reg.hbmStat stack.toNat) 22 8 = temp.toNat ∧
      u.rbit (Reg.hbmStat stack.toNat) 21 = decide (85 < temp.toNat) ∧ OnlyRegs [Reg.hbmStat stack.toNat] s u) ∧
    (s.ptbRefresh = false → exec .ptbHbmrefBurst s = .next s) ∧
    (s.ptbRefresh = true → Spec.Run .ptbHbmrefBurst s [.ptb, .reg] (fun u =>
      u.ptb = s.ptb ++ ((List.range 4).filter (fun h => s.rbit Reg.ptbHbmref h)).map (fun h =>
        Held.refresh (BitVec.ofNat 2 h) (s.rfield Reg.ptbHbmref 8 6))))

/-- Slices, the vault, scrub and HBM. -/
def Obligations.Memories : Prop := Spec.BankCycles ∧ Spec.WipeScrubAndHbm

/-! ## The fabric (R363-R396, R472-R478, R481-R487) -/

/-- Links: a packet with the next LSEQ and good CRCs is accepted, and its credit returns once it has left its receive buffer; any other is
discarded with one NAK that names the
LSEQ expected; what FEC found counts each time. ACK and CREDIT free the replay buffer and the credits; a NAK or a timeout replays in order, and the seventeenth replay fails
the link. -/
def Spec.LinkProtocol : Prop :=
  ∀ (s : State) (l : BitVec 5) (lseq : BitVec 12) (hcrc : BitVec 16) (crc : Word) (p : FabPkt) (vc cls : BitVec 2) (units : BitVec 10)
      (corr unc : Nat),
    let k := l.toNat
    let x := s.link k
    let y := s.e2e p.srcDev p.vc.toNat
    let others := fun (u : State) => ∀ m, m ≠ k → u.link m = s.link m
    let quiet := s.rbit Reg.ptbCtrl 0 = false
    let good := hcrc = pktHcrc p ∧ crc = pktCrc lseq p
    let receive := Instr.linkPacketReceive l lseq hcrc crc p 0 0
    let m := (p.route.getD p.hop.toNat 31).toNat
    let q := { p with hop := p.hop + 1, via := none }
    Canon s → Alive s → k < 18 →
    (s.linkUp k = false → exec receive s = .next s ∧ exec (.linkAck l lseq) s = .next s ∧ exec (.linkCredit l vc cls units) s = .next s ∧
      exec (.linkNak l lseq) s = .next s ∧ exec (.replayTimeout l) s = .next s ∧ exec (.linkAckSend l) s = .next s ∧
      Spec.Run (.linkPacketReceive l lseq hcrc crc p corr unc) s [.reg, .irq, .out, .eth] (fun u =>
        u.rfield (Reg.fabLnkFecCorr k) 0 32 = min (s.rfield (Reg.fabLnkFecCorr k) 0 32 + corr) (2 ^ 32 - 1) ∧
        u.rfield (Reg.fabLnkFecUnc k) 0 32 = min (s.rfield (Reg.fabLnkFecUnc k) 0 32 + unc) (2 ^ 32 - 1) ∧
        (unc ≠ 0 → u.irq.raw.getLsbD (1 + k) = true))) ∧
    (s.linkUp k = true →
      ((lseq ≠ x.rxSeq ∨ ¬ good) → Spec.To receive s [.fab, .reg, .out] (fun u => u.out = s.out ++ [.link l 1 x.rxSeq] ∧
        (u.link k).rxSeq = x.rxSeq ∧ (u.link k).nakSent = true ∧ (u.link k).unacked = x.unacked ∧ others u ∧
        u.rfield (Reg.fabLnkNak k) 0 32 = min (s.rfield (Reg.fabLnkNak k) 0 32 + 1) (2 ^ 32 - 1))) ∧
      (lseq = x.rxSeq → good → quiet → x.sinceAck < 31 → s.fab.owed = [] → pktBad p = true →
        Spec.Run receive s [.fab, .reg, .out, .irq, .eth] (fun u => (u.link k).rxSeq = lseq + 1 ∧ others u ∧
          u.fab.e2e = s.fab.e2e ∧ u.rfield Reg.fabBadpkt 0 32 = min (s.rfield Reg.fabBadpkt 0 32 + 1) (2 ^ 32 - 1) ∧
          u.rbit Reg.fabStatus 2 = true)) ∧
      (lseq = x.rxSeq → good → quiet → x.sinceAck < 31 → pktBad p = false → p.dstDev ≠ s.sys.myDev.toNat → p.hop ≠ 3 → m < 18 →
        s.linkUp m = true → (s.link m).waiting = [] →
        ((s.link m).room q = true → Spec.Run receive s [.fab, .out] (fun u =>
          (u.link k).rxSeq = lseq + 1 ∧ u.fab.e2e = s.fab.e2e ∧ (u.link m).txSeq = (s.link m).txSeq + 1 ∧ (u.link m).waiting = [] ∧
          Out.linkPkt (BitVec.ofNat 5 m) (s.link m).txSeq q (pktWords (s.link m).txSeq q) ∈ u.out ∧
          (s.reorderFull = false → Out.linkCredit l p.vc p.hop (pktUnits p) ∈ u.out))) ∧
        ((s.link m).room q = false → Spec.Run receive s [.fab, .out] (fun u =>
          (u.link k).rxSeq = lseq + 1 ∧ u.fab.e2e = s.fab.e2e ∧ (u.link m).waiting = [{ q with via := some l }] ∧ u.out = s.out))) ∧
      (lseq = x.rxSeq → good → quiet → x.sinceAck < 31 → s.fab.owed = [] → pktBad p = false → p.dstDev = s.sys.myDev.toNat →
        (p.type = 6 → s.isGate = false) → p.type ≠ 2 → p.type ≠ 3 → p.vc = 0 → p.e2e = y.low → y.got = [] → y.reorder = [] → y.sinceAck < 255 → (∀ e ∈ s.fab.e2e, e.2.reorder = []) →
        Spec.Run receive s [.fab, .out] (fun u => (u.link k).rxSeq = lseq + 1 ∧ (u.link k).nakSent = false ∧ others u ∧
          u.e2e p.srcDev 0 = { y with low := y.low + 1, sinceAck := y.sinceAck + 1, advanced := true } ∧
          u.out = s.out ++ [.handed { p with via := none }, .linkCredit l 0 p.hop (pktUnits p)])) ∧
      (x.waiting = [] → Spec.Run (.linkAck l lseq) s [.fab] (fun u => others u ∧
        u.link k = { x with unacked := x.unacked.filter (fun q => decide (2048 ≤ (lseq - q.lseq).toNat)) })) ∧
      (x.waiting = [] → Spec.Run (.linkCredit l vc cls units) s [.fab] (fun u => others u ∧ (u.link k).unacked = x.unacked ∧
        (u.link k).txSeq = x.txSeq ∧ (Tab.wf (fun _ => 0) x.used →
          (u.link k).inUse vc.toNat cls.toNat = x.inUse vc.toNat cls.toNat - units.toNat))) ∧
      (∀ c, c = .linkNak l lseq ∨ c = .replayTimeout l → x.unacked ≠ [] →
        (quiet → (∀ q ∈ x.unacked, q.replays < 16) → Spec.To c s [.fab, .reg, .out] (fun u => others u ∧
          u.link k = { x with unacked := x.unacked.map (fun q => { q with replays := q.replays + 1 }) } ∧
          u.out = s.out ++ x.unacked.map (fun q => .linkPkt l q.lseq q.pkt (pktWords q.lseq q.pkt)) ∧
          u.rfield (Reg.fabLnkReplay k) 0 32 = min (s.rfield (Reg.fabLnkReplay k) 0 32 + x.unacked.length) (2 ^ 32 - 1))) ∧
        ((∃ q ∈ x.unacked, 16 ≤ q.replays) → exec c s = exec (.linkFailure s.sys.myDev l) s)) ∧
      (0 < x.sinceAck → Spec.To (.linkAckSend l) s [.fab, .out] (fun u => others u ∧ u.link k = { x with sinceAck := 0 } ∧
        u.out = s.out ++ [.link l 0 (x.rxSeq - 1)])))

/-- A link of this device that fails shows FAILED with width 0, sets FAIL, counts and raises its source, and tells its peer unless the peer told it; one of
another device carries no path from then on (log entry 68), and the slots of other devices' circuits that cross it are free. A link in TRAINING passes at the width of the first soak that all its lanes pass or goes DOWN; clearing DISABLE asks for a quiesce. -/
def Spec.LinksFailAndTrain : Prop :=
  ∀ (s : State) (l : BitVec 5) (lane : BitVec 2) (r : LinkResult) (d : Bool) (dev : BitVec 6),
    let k := l.toNat
    let st := Reg.fabLnkStat k
    let x := s.link k
    let failed := fun (u : State) => u.rfield st 29 3 = 4 ∧ u.rfield st 26 2 = 0 ∧ u.rbit st 0 = true ∧ u.link k = Link.empty ∧
      u.irq.raw.getLsbD (1 + k) = true ∧ u.rfield (Reg.fabLnkFails k) 0 32 = min (s.rfield (Reg.fabLnkFails k) 0 32 + 1) (2 ^ 32 - 1) ∧
      (∀ m, m ≠ k → u.link m = s.link m)
    let parts := [Part.fab, .reg, .irq, .out, .eth]
    let reply := fun (y : Byte) (u : State) => Out.mgmtReply false [(BitVec.ofNat 32 (Reg.fabLnkCtrl k), 0, y)] ∈ u.out
    let tried := [0, 1, 2, 3].filter (fun i => decide (Tab.get (fun _ => 0) s.fuses.badLanes k / 2 ^ i % 2 = 0) && !r.farBad.getLsbD i)
    let width := soakWidth tried r.soaks
    Canon s → Alive s →
    (∀ y e, r.soaks = (false, e) :: y → tried = [0, 1, 2, 3] → (∀ i, i < 4 → e.getD i 0 ≤ 11200) → width = 3) ∧
    (∀ y y', r.soaks = [y, y'] → tried = [0, 1, 2, 3] → y.1 = false → y'.1 = false → y.2.getD 0 0 ≤ 11200 → y.2.getD 1 0 ≤ 11200 →
      11200 < y.2.getD 2 0 → y'.2.getD 0 0 ≤ 11200 → y'.2.getD 1 0 ≤ 11200 → width = 2) ∧
    (r.soaks = [] → width = 0) ∧
    (k < 18 → s.linkUp k = true → x.unacked = [] → x.waiting = [] → s.activeCircs = [] →
      (∀ e ∈ s.fab.links, ∀ q ∈ e.2.waiting, q.via ≠ some l) →
      (∀ c, c = .linkFailure s.sys.myDev l ∨ c = .fecLockLoss l lane → Spec.To c s parts (fun u => failed u ∧ Out.link l 3 0 ∈ u.out)) ∧
      Spec.Run (.linkDownReceive l) s parts failed) ∧
    (k < 18 → s.linkUp k = false → exec (.linkFailure s.sys.myDev l) s = .next s ∧ exec (.linkDownReceive l) s = .next s ∧
      exec (.fecLockLoss l lane) s = .next s) ∧
    (dev ≠ s.sys.myDev → s.activeCircs = [] → Spec.Run (.linkFailure dev l) s [.sys, .fab] (fun u =>
      u.fab = { s.fab with far := s.fab.far.filter (fun y => !(s.farHops y).contains (dev.toNat, k)) } ∧ u.sys = { s.sys with
      down := if (dev.toNat, k) ∈ s.sys.down then s.sys.down else s.sys.down ++ [(dev.toNat, k)] })) ∧
    (k < 18 → s.linkState k = 1 →
      (r.version = true → width ≠ 0 → Spec.To (.linkTraining l r) s [.fab, .reg] (fun u =>
        u.link k = { x with passed := BitVec.ofNat 2 width } ∧ u.rfield st 16 6 = r.peerDev.toNat ∧ u.rfield st 8 5 = r.peerLink.toNat ∧
        u.linkState k = 1 ∧ OnlyRegs [st] s u)) ∧
      ((r.version = false ∨ width = 0) → Spec.To (.linkTraining l r) s [.reg] (fun u => u.linkState k = 0 ∧ OnlyRegs [st] s u))) ∧
    (s.linkState k ≠ 1 → exec (.linkTraining l r) s = .next s) ∧
    (k < 18 → Spec.Run (.linkDisable l d) s [.reg, .kpr, .fab, .eth, .ptb, .out, .free, .irq] (fun u => u.rbit (Reg.fabLnkCtrl k) 0 = d ∧ reply St.ok u ∧
      u.kpr.quiesce.wanted = (s.kpr.quiesce.wanted || (s.rbit (Reg.fabLnkCtrl k) 0 && !d)))) ∧
    (18 ≤ k → Spec.Run (.linkDisable l d) s [.reg, .fab, .eth, .ptb, .out, .free, .irq] (reply St.badOperand))

/-- The link protocol, failures and training (with the model's reading of log entry 28). -/
def Obligations.Links : Prop := Spec.LinkProtocol ∧ Spec.LinksFailAndTrain

/-- End to end: a packet that has come before is discarded, counted and acknowledged again; VC1 is delivered on arrival, VC0 and VC2 in order
of E2E_SEQ; an E2EACK frees what it covers, and a COPY whose last write it acknowledges completes; an E2E_SEQ that moved is acknowledged at the
timer (with the model's reading of log entry 43). -/
def Obligations.EndToEnd : Prop :=
  ∀ (s : State) (p : FabPkt) (dev : BitVec 6) (vc : BitVec 2) (low : BitVec 16) (f : FarWrite),
    let y := s.e2e p.srcDev p.vc.toNat
    let v := vc.toNat
    let d := dev.toNat
    let x := s.e2e d v
    let plain := p.dstDev = s.sys.myDev.toNat ∧ p.type ≠ 2 ∧ p.type ≠ 3 ∧ p.vc ≠ 3 ∧ p.srcDev < 64
    let new := (p.e2e - y.low).toNat < 32768 ∧ p.e2e ∉ y.got
    let quiet := s.rbit Reg.ptbCtrl 0 = false ∧ s.fab.owed = [] ∧ y.sinceAck < 255
    let left := x.retained.filter (fun q => decide (32768 ≤ (low - q.1 - 1).toNat))
    let n := x.retained.length - left.length
    let freed := fun (u : State) => u.e2e d v = { x with retained := left } ∧ (∀ a b, b < 4 → (a, b) ≠ (d, v) → u.e2e a b = s.e2e a b)
    Canon s → Alive s →
    (plain → ¬ new → Spec.Run (.e2ePacketReceive p) s [.fab, .out, .ptb, .reg, .free, .eth, .irq] (fun u =>
      u.rfield Reg.fabE2eDup 0 32 = min (s.rfield Reg.fabE2eDup 0 32 + 1) (2 ^ 32 - 1) ∧
      Out.e2eAck (BitVec.ofNat 6 p.srcDev) p.vc y.low ∈ u.out ∧ (u.e2e p.srcDev p.vc.toNat).low = y.low ∧
      (u.e2e p.srcDev p.vc.toNat).reorder = y.reorder)) ∧
    (plain → new → quiet → p.vc = 1 → (p.type = 6 → s.isGate = false) → Spec.Run (.e2ePacketReceive p) s [.fab, .out] (fun u => u.out = s.out ++ [.handed p])) ∧
    (plain → new → quiet → p.vc ≠ 1 → p.e2e ≠ y.low → y.got.contains y.low = false →
      Spec.Run (.e2ePacketReceive p) s [.fab, .out] (fun u => u.out = s.out ∧
        (u.e2e p.srcDev p.vc.toNat).low = y.low ∧ p ∈ (u.e2e p.srcDev p.vc.toNat).reorder)) ∧
    ((∀ e ∈ s.fab.e2e, e.2.waiting = []) →
      (s.cmd.far = [] → Spec.Run (.e2eackArrival dev vc low) s [.fab] freed) ∧
      (v = 2 → s.cmd.far = [f] → f.dev = dev → n < f.left → Spec.Run (.e2eackArrival dev vc low) s [.fab, .cmd] (fun u => freed u ∧
        u.cmd = { s.cmd with far := [{ f with left := f.left - n }] })) ∧
      (v = 2 → s.cmd.far = [f] → f.dev = dev → f.left ≤ n → f.opcode = 0x30 → s.isOut f.hdr f.cseq = true →
        Spec.Run (.e2eackArrival dev vc low) s ([.fab, .cmd] ++ Spec.irqParts f.hdr) (fun u => freed u ∧ u.cmd.far = [] ∧
          (f.hdr.quiet = false ∨ f.status ≠ St.ok → Cpl.mk f.cseq 0x30 f.status f.hdr.stream (BitVec.ofNat 40 f.result) ∈ u.cmd.cpls)))) ∧
    (x.advanced = true → Spec.Run (.e2eackTimer dev vc) s [.fab, .out, .ptb, .reg, .free, .eth, .irq] (fun u => Out.e2eAck dev vc x.low ∈ u.out)) ∧
    (x.advanced = false → exec (.e2eackTimer dev vc) s = .next s)

/-- What is retained for a lost device goes, and the loss is told; RETIRE is refused while a binding is valid, and done once every device has
confirmed and no packet is held. What a Keeper must know to declare a loss is the model's reading (log entries 43 and 68). -/
def Obligations.LossAndRetirement : Prop :=
  ∀ (s : State) (dev : BitVec 6) (cause : BitVec 2) (confirmed : List (BitVec 6)),
    let d := dev.toNat
    let reply := fun (z : Byte) (u : State) => Out.mgmtReply false [(BitVec.ofNat 32 Reg.fabRetire, 0, z)] ∈ u.out
    let part := decide (cause = 2)
    let may := (s.ltn.power = .run ∨ s.ltn.power = .doze) ∧ s.isReady = true ∧ d ≠ s.sys.myDev.toNat ∧ s.mayLose d cause = true
    let told := (s.sys.confirmed ++ confirmed.map BitVec.toNat).eraseDups
    let all := s.rbit Reg.fabRetire 0 = true ∧ s.sys.gate ≠ s.sys.myDev ∧ (∀ e ∈ s.fab.links, e.2.unacked = [] ∧ e.2.waiting = []) ∧
      (∀ e ∈ s.fab.e2e, e.2.retained = [] ∧ e.2.waiting = [] ∧ e.2.reorder = []) ∧ ∀ e ∈ s.sys.ready, e = s.sys.myDev.toNat ∨ e ∈ told
    Canon s → Alive s →
    (may → d ≠ s.sys.gate.toNat → d ∉ s.sys.lost → (∀ f ∈ s.cmd.far, f.dev ≠ dev) → (∀ e ∈ s.syn.writers, e.2.isOpen = false ∨ e.1 / 4096 ≠ d) →
      (∀ c, c < 256 → (s.circ c).flows = []) → (∀ e ∈ s.cmd.bindings, e.2.valid = false ∨ e.2.mask.getLsbD d = false) →
      Spec.Run (.deviceLost dev cause) s [.sys, .reg, .fab, .irq, .out, .eth, .ptb, .free] (fun u =>
        (cause = 0 ∨ cause = 1 → Out.keeper 0xFC d ∈ u.out) ∧ (∀ v, v < 3 → (u.e2e d v).retained = [] ∧ (u.e2e d v).waiting = []) ∧
        u.sys = { s.sys with lost := s.sys.lost ++ [d], ready := s.sys.ready.filter (fun e => decide (e ≠ d)) } ∧
        u.rbit Reg.fabStatus (if part then 1 else 0) = true ∧
        (s.isGate = true → ∀ e ∈ u.eth.spaces, e.1 / 256 % 64 ≠ d))) ∧
    (may → d ∈ s.sys.lost → Spec.Run (.deviceLost dev cause) s [.reg, .irq, .out, .eth] (fun u =>
      u.rbit Reg.fabStatus (if part then 1 else 0) = true)) ∧
    (¬ may → exec (.deviceLost dev cause) s = .next s) ∧
    ((∃ e ∈ s.cmd.bindings, e.2.valid = true) → Spec.Run .fabRetireReq s [.fab, .out, .ptb, .reg, .eth, .free, .irq] (fun u =>
      reply St.badOperand u ∧ u.rbit Reg.fabRetire 0 = s.rbit Reg.fabRetire 0)) ∧
    ((∀ e ∈ s.cmd.bindings, e.2.valid = false) → s.sys.gate ≠ s.sys.myDev →
      Spec.Run .fabRetireReq s [.sys, .fab, .out, .ptb, .reg, .eth, .free, .irq] (fun u => reply St.ok u ∧ u.rbit Reg.fabRetire 0 = true ∧
        u.sys = { s.sys with confirmed := [] } ∧ Out.keeper 0xFE s.sys.myDev.toNat ∈ u.out)) ∧
    (all → Spec.To (.retireReady confirmed) s [.sys, .reg] (fun u => u.rget Reg.fabRetire = 2 ∧ OnlyRegs [Reg.fabRetire] s u ∧
      u.sys = { s.sys with confirmed := told })) ∧
    (s.rbit Reg.fabRetire 0 = true → ¬ all → Spec.To (.retireReady confirmed) s [.sys] (fun u => u.sys = { s.sys with confirmed := told })) ∧
    (s.rbit Reg.fabRetire 0 = false → exec (.retireReady confirmed) s = .next s)

/-- Circuits: ARM of a bound circuit that is FREE, REJECTED or PACKET; a chunk is performed once and acknowledged each time; the copy
completes with its last chunk, and a transfer of an apply window ends with its last. Congestion levels, min(15, floor(16 × occupancy / capacity)) by port and VC, are sampled every 10,000 ns and the highest kept each millisecond. -/
def Obligations.CircuitsAndCongestion : Prop :=
  ∀ (s : State) (c : BitVec 8) (chunk : BitVec 18) (f : Flow) (h : Hdr) (cs : Word64) (src : BitVec 6) (flow dst : Word64) (data : List Byte)
    (ports : List (List (Nat × Nat))) (port v : Nat),
    let k := c.toNat
    let x := s.circ k
    let stat := Reg.fabCircStat k
    let rest := f.chunks.filter (fun q => decide (q.1 ≠ chunk))
    let y := s.circ (256 + src.toNat * 256 + k)
    let got := if y.inFlow = flow then y.received else []
    let a := s.mrefAddr dst
    let receive := Instr.circuitChunkReceive src c flow chunk dst data
    let reply := fun (z : Byte) (u : State) => Out.mgmtReply false [(BitVec.ofNat 32 (Reg.fabCircCfg0 k), 0, z)] ∈ u.out
    let ok := x.bound = true ∧ (s.circState k = 0 ∨ s.circState k = 4 ∨ s.circState k = 3)
    let now := s.tmr.tb.toNat + (10000 - s.tmr.tb.toNat % 10000)
    let cmap := Reg.fabCmap port
    let used := if port < 18 then (s.rxBytes port v, [0x4000, 0x18000, 0x18000, 0xC000].getD v 0) else ((ports.getD (port - 18) []).getD v (0, 1))
    Canon s → Alive s →
    (ok → Spec.Run (.circuitArm c) s [.fab, .out, .ptb, .reg, .eth, .free, .irq] (fun u => u.circState k = 1 ∧ reply St.ok u)) ∧
    (¬ ok → Spec.Run (.circuitArm c) s [.fab, .out, .ptb, .reg, .eth, .free, .irq] (fun u => u.circState k = s.circState k ∧ reply St.badOperand u)) ∧
    (x.flows = [f] → rest ≠ [] → Spec.Run (.chunkackArrival c chunk) s [.fab] (fun u =>
      u.circ k = { x with flows := [{ f with chunks := rest }] } ∧ ∀ m, m ≠ k → u.circ m = s.circ m)) ∧
    (x.flows = [f] → rest = [] → f.cmd = some (h, cs) → s.isOut h cs = true →
      Spec.Run (.chunkackArrival c chunk) s ([.fab, .cmd] ++ Spec.irqParts h) (fun u =>
        u.circ k = { x with flows := [] } ∧ (h.quiet = false →
          Cpl.mk cs 0x30 St.ok h.stream (BitVec.ofNat 40 f.bytes) ∈ u.cmd.cpls))) ∧
    (x.flows = [f] → rest = [] → f.cmd = none → Spec.Run (.chunkackArrival c chunk) s [.fab] (fun u => u.circ k = { x with flows := [] })) ∧
    (s.mrefLocal dst = true → dst ≠ BitVec.allOnes 64 → src ≠ s.sys.myDev → mrSpace dst = 2 →
      (chunk ∉ got → Spec.Run receive s [.fab, .mem, .out, .ptb, .reg, .free, .eth, .irq] (fun u =>
        u.bytes a data.length = data ∧ (∀ i, i < a ∨ a + data.length ≤ i → u.byteAt i = s.byteAt i) ∧
        Out.chunkAck src c chunk ∈ u.out ∧ chunk ∈ (u.circ (256 + src.toNat * 256 + k)).received)) ∧
      (chunk ∈ got → Spec.Run receive s [.fab, .out, .ptb, .reg, .free, .eth, .irq] (fun u => Out.chunkAck src c chunk ∈ u.out))) ∧
    (now < 2 ^ 48 → port < 26 → v < 4 → 0 < used.2 → Spec.Run (.congestionSample ports) s [.fab, .reg, .tmr] (fun u =>
      u.tmr = { s.tmr with tb := BitVec.ofNat 64 now } ∧ u.rfield cmap (4 * v) 4 = min 15 (16 * used.1 / used.2) ∧
      u.rfield cmap 16 16 = s.rfield cmap 16 16 ∧ u.longGet Reg.fabCmapTimeLo = now)) ∧
    (port < 26 → Spec.To .congestionMap s [.fab, .reg] (fun u => u.rfield cmap 16 16 = (s.fab.cmapMax.getD port 0).toNat ∧
      u.rfield cmap 0 16 = s.rfield cmap 0 16 ∧ u.fab.cmapMax = [] ∧ u.fab.cmapHist.length ≤ 4096 ∧
      (u.fab.cmapHist.getLast?).map Prod.snd = some (s.rbit Reg.ptbStatus 0)))

/-- A quiesce: no step of a valid binding starts while it is wanted; cores acknowledge once their binding's step has ended, and one that does
not has failed. A failed core ends what its binding has queued, on this device and, by the news that its Keeper sends, on the other members; at the release the lowest spare serves its number. A device that
retires has its links RETIRED at a release, or at once where no binding runs. -/
def Obligations.QuiesceAndFailure : Prop :=
  ∀ (s : State) (phys : BitVec 5) (slice : BitVec 6) (cause : BitVec 3) (readable : Bool) (banks : BitVec 4) (b q : Nat),
    let p := phys.toNat
    let sp := slice.toNat
    let k := s.physLogical false p
    let x := s.bnd b
    let z := s.kpr.quiesce
    let news := [Part.cmd, .core, .kpr, .reg, .irq, .out, .eth, .fab, .gov, .ptb, .free]
    let told := fun (u : State) => (∃ d, d < 64 ∧ x.mask.getLsbD d = true ∧ d ≠ s.sys.myDev.toNat) →
      ∃ y : Byte, Out.keeper 0xFB (b * 256 + y.toNat) ∈ u.out
    let may := z.wanted = true ∧ p ∉ z.acks ∧ ∃ e ∈ s.boundPhys, e.1 = p ∧ (s.bnd e.2).running = false
    let ff := fun (n : Nat) (u : State) => u.rfield Reg.budFfCount 0 32 = min (s.rfield Reg.budFfCount 0 32 + 1) (2 ^ 32 - 1) ∧
      u.irq.raw.getLsbD n = true
    Canon s → Alive s →
    Spec.To .quiesceRequest s [.kpr, .reg] (fun u => u.kpr.quiesce = { z with wanted := true, acks := [] } ∧
      (∀ d, (s.bnd d).valid = true → d < 64 → u.rbit (Reg.cmdStepStatus d) 2 = true) ∧ (∀ d, u.boundaryClear d = false)) ∧
    (may → Spec.To (.quiesceAck phys) s [.kpr] (fun u => u.kpr.quiesce = { z with acks := z.acks ++ [p] })) ∧
    (¬ may → exec (.quiesceAck phys) s = .next s ∧ exec (.quiesceAckTimeout phys) s = .next s) ∧
    (may → exec (.quiesceAckTimeout phys) s = exec (.coreFailure phys 3 none) s) ∧
    (may → p < 18 → s.physState false p = 1 → (∀ e ∈ z.cores, e.1 ≠ p) → (s.cor k).bound = true → (s.cor k).binding.toNat = b →
      x.valid = true → x.running = false → s.isLead b = true → x.windowOpen = false → x.queue = [] →
      (∀ n ∈ s.coresOf b, (s.cor n).berthQ = []) →
      Spec.Run (.quiesceAckTimeout phys) s news (fun u => ff (25 + p) u ∧ told u ∧
        u.kpr.quiesce = { z with cores := z.cores ++ [(p, 3)] } ∧ (u.cor k).phase = .done ∧ (u.bnd b).recovering = true ∧
        (u.bnd b).step = x.step)) ∧
    (∀ w : QuiesceNews, s.quiesceReady = false → (w.retired = [] ∨ z.wanted = true ∨ ∃ e ∈ s.cmd.bindings, e.2.running = true) →
      exec (.quiesceRelease w) s = .next s) ∧
    (∀ d, z.wanted = false → (∀ e ∈ s.cmd.bindings, e.2.running = false) → s.activeCircs = [] →
      Spec.Run (.quiesceRelease ⟨[], [d], [], [], [], [], []⟩) s [.reg, .sys, .fab, .out, .irq, .eth, .ptb] (fun u => d.toNat ∈ u.sys.retired ∧
        ∀ l, l < 18 → s.linkUp l = true → s.rfield (Reg.fabLnkStat l) 16 6 = d.toNat → u.linkState l = 5)) ∧
    (p < 18 → s.physState false p = 2 → (∀ e ∈ z.cores, e.1 ≠ p) →
      Spec.Run (.coreFailure phys cause none) s [.kpr, .reg, .irq, .out, .eth] (fun u =>
        u.kpr.quiesce = { z with cores := z.cores ++ [(p, cause.toNat)] } ∧ ff (25 + p) u)) ∧
    (p < 18 → s.physState false p = 1 → (∀ e ∈ z.cores, e.1 ≠ p) → (s.cor k).bound = true → (s.cor k).binding.toNat = b →
      x.valid = true → x.running = true → s.isLead b = true → x.windowOpen = false → x.queue = [] →
      (∀ n ∈ s.coresOf b, (s.cor n).berthQ = []) →
      Spec.Run (.coreFailure phys cause none) s news (fun u => ff (25 + p) u ∧ told u ∧
        (u.cor k).phase = .done ∧ (u.cor k).bound = true ∧ (u.cor k).inbox = [] ∧ (u.bnd b).recovering = true ∧
        (u.bnd b).halting = true ∧ (u.bnd b).step = x.step)) ∧
    (∀ f : BitVec 6 × Byte, f.1.toNat = b → x.valid = true → x.running = false → s.isLead b = true → x.windowOpen = false → x.queue = [] →
      (∀ n ∈ s.coresOf b, (s.cor n).berthQ = []) →
      ∀ c, c = .coreFailure phys cause (some f) ∨ c = .sliceFailure slice cause readable banks (some f) →
      Spec.Run c s [.cmd, .core, .reg, .irq, .out, .eth] (fun u => (u.bnd b).recovering = true ∧ (u.bnd b).step = x.step)) ∧
    (sp < 34 → (s.physState true sp = 2 ∨ (s.physState true sp = 1 ∧ readable = true ∧
        (s.failedInUse true).length + 1 ≤ (s.sparesLeft true).length)) → (∀ e ∈ z.slices, e.1 ≠ sp) →
      Spec.Run (.sliceFailure slice cause readable banks none) s [.kpr, .reg, .irq, .out, .eth] (fun u =>
        u.kpr.quiesce = { z with slices := z.slices ++ [(sp, cause.toNat, readable, banks)] } ∧ ff (43 + sp) u)) ∧
    (s.quiesceReady = true → z.cores = [(p, cause.toNat)] → z.slices = [] → p < 18 → s.physState false p = 1 → k < 16 →
      (s.cor k).bound = false → (s.spares false).head? = some q → (∀ e ∈ s.cmd.bindings, e.2.recovering = false) →
      s.fuses.records.length < 256 → s.wornRows = [] → s.fab.circuits = [] →
      (∀ l, l < 18 → s.linkState l = 2 ∧ s.rbit (Reg.fabLnkCtrl l) 0 = false) →
      Spec.Run (.quiesceRelease ⟨[], [], [], [], [], [], []⟩) s [.fuses, .reg, .mem, .cmd, .core, .rtr, .sys, .cnv, .fab, .eth, .ltn, .kpr, .irq, .ptb, .out, .free] (fun u =>
        u.kpr.quiesce = ⟨false, [], [], []⟩ ∧ u.sys.down = [] ∧
        u.rget (Reg.budLmapCore k) = BitVec.ofNat 32 (2 ^ 30 + q) ∧ u.physState false p = 4 ∧ u.physState false q = 1 ∧
        FieldRec.mk 1 p k (some q) ∈ u.fuses.records ∧ u.rbit Reg.budState 16 = true))

/-! ## The command transport, the ports and the gate device (R397-R422) -/

/-- A 32-bit saturating count rises by one. -/
def Spec.Counts (s u : State) (a : Nat) : Prop := u.rfield a 0 32 = min (s.rfield a 0 32 + 1) (2 ^ 32 - 1)

/-- What leaves for the host in the device's spaces leaves at its own port: before READY, and at the gate device. -/
def Spec.Home (s : State) : Prop := s.isReady = false ∨ s.isGate = true

/-- A frame that its port lets by, no longer than the largest frame and with a good header, reaches a served space of key `k`. -/
def Spec.Arrives (s : State) (f : TFrame) (k : Nat) : Prop :=
  Spec.Passes s f.port.toNat f.eth ∧ f.payload.length ≤ s.frameRoom f.port.toNat ∧ frameOk f = true ∧ f.space ≠ 2 ∧
  f.type ≠ 2 ∧ f.ackv = false ∧ s.serves f.space.toNat f.device.toNat = true ∧ k = s.keyOf f.space.toNat f.device.toNat f.stream.toNat

/-- What leaves for the host in the device's spaces: `o`, then the frames that carry it or others that waited. -/
def Spec.Replied (s u : State) (o : Out) : Prop := ∃ l, u.out = s.out ++ o :: l ∧ ∀ x ∈ l, ∃ h k q, x = .hostFrame h k q

/-- A frame longer than the largest frame is ignored, one with a bad header is discarded and counted; a frame in order is delivered, one ahead of order held, a duplicate and one out of
the window of 1,024 discarded and counted; an ACK frees what is kept and lets what waits go, a timeout sends it again, and the 16th time sets HOSTLOST; the
commands of a CMD frame take their places in their stream in order, and the engine takes as many turns. -/
def Obligations.FramesAreSequenced : Prop :=
  ∀ (s : State) (f : TFrame) (k : Nat) (sp : BitVec 2) (dev : BitVec 6) (stream : BitVec 8) (ack seq tag off : Word) (p : Word × Nat) (expected : Bool)
    (bytes : Nat) (ws : List Word64) (data : List Byte),
    let x := s.space k
    let d := (f.seq - x.exp).toNat
    let dup := x.held.any (fun g => decide (g.seq = f.seq))
    let key := s.keyOf sp.toNat dev.toNat stream.toNat
    let y := s.space key
    let open' := s.awake = true ∧ s.serves sp.toNat dev.toNat = true
    let only := fun (k : Nat) (u : State) => ∀ j, j ≠ k → u.space j = s.space j
    let n := stream.toNat
    let queued := s.dataKept n
    let cmds := wireCmds stream ws.length ws
    let q := s.forAll cmds State.enqueue
    let host : HostTo := ⟨f.port, f.eth.sub, f.eth.src⟩
    let left := y.kept.filter (fun q => decide ((q.1 - ack).toNat < 2 ^ 31))
    let me := s.space (spaceKey 0 s.sys.myDev.toNat n)
    Canon s → Alive s →
    (s.portTakes f.port.toNat = false → exec (.transportFrameReceive f) s = .next s) ∧
    (Spec.Passes s f.port.toNat f.eth → s.frameRoom f.port.toNat < f.payload.length → exec (.transportFrameReceive f) s = .next s) ∧
    (Spec.Passes s f.port.toNat f.eth → f.payload.length ≤ s.frameRoom f.port.toNat → frameOk f = false →
      Spec.Run (.transportFrameReceive f) s [.reg] (fun u => Spec.Counts s u Reg.ethTpBadhdr ∧ OnlyRegs [Reg.ethTpBadhdr] s u)) ∧
    (Spec.Arrives s f k → f.type = 6 → f.space = 0 → f.device = s.sys.myDev → d = 0 → x.held = [] →
      Spec.Run (.transportFrameReceive f) s [.eth, .cmd] (fun u => only k u ∧
        u.space k = { x with host := host, exp := x.exp + 1, ackDue := true } ∧
        u.strm f.stream.toNat = { s.strm f.stream.toNat with data := (s.strm f.stream.toNat).data ++
          [(BitVec.ofNat 32 (beNat (f.payload.take 4)), beNat ((f.payload.drop 4).take 4), f.payload.drop 8)] })) ∧
    (Spec.Arrives s f k → f.space = 0 → d ≠ 0 → d < 1024 → dup = false → (∀ g ∈ x.held, g.seq ≠ x.exp) → s.noBuffer k f = false →
      Spec.Run (.transportFrameReceive f) s [.eth] (fun u => only k u ∧
        u.space k = { x with host := host, held := x.held ++ [f], ackDue := true })) ∧
    (Spec.Arrives s f k → 1024 ≤ d → d < 2 ^ 31 →
      Spec.Run (.transportFrameReceive f) s [.reg] (fun u => Spec.Counts s u Reg.ethTpOow ∧ OnlyRegs [Reg.ethTpOow] s u)) ∧
    (Spec.Arrives s f k → (2 ^ 31 ≤ d ∨ (d < 1024 ∧ dup = true)) → (∀ r ∈ x.replies, r.1 ≠ f.seq) →
      Spec.Run (.transportFrameReceive f) s [.reg, .eth] (fun u => only k u ∧ u.space k = { x with ackDue := true } ∧
        Spec.Counts s u Reg.ethTpDup ∧ OnlyRegs [Reg.ethTpDup] s u)) ∧
    (open' → y.unsent = [] → Spec.To (.ackFrame sp dev stream ack []) s [.eth] (fun u => only key u ∧ (u.space key).exp = y.exp ∧
      (u.space key).kept = left)) ∧
    (open' → y.unsent = [false] → left.length < 1024 → Spec.To (.ackFrame sp dev stream ack []) s [.eth, .out] (fun u => only key u ∧
      (u.space key).kept = left ++ [(y.txNext, 0)] ∧ (u.space key).txNext = y.txNext + 1 ∧ (u.space key).unsent = [] ∧
      u.out = s.out ++ [.hostFrame y.host key y.txNext])) ∧
    (open' → y.kept.find? (fun q => decide (q.1 = seq)) = some p → p.2 ≠ 15 →
      Spec.To (.transportRetxTimeout sp dev stream seq) s [.eth, .reg, .out] (fun u => only key u ∧
        u.space key = { y with kept := y.kept.map (fun q => if q.1 = seq then (q.1, q.2 + 1) else q) } ∧
        u.out = s.out ++ [.resend y.host key seq] ∧ Spec.Counts s u Reg.ethTpRetx ∧ OnlyRegs [Reg.ethTpRetx] s u)) ∧
    (open' → y.kept.find? (fun q => decide (q.1 = seq)) = some p → p.2 = 15 →
      Spec.To (.transportRetxTimeout sp dev stream seq) s [.eth, .reg, .irq, .out] (fun u => only key u ∧
        Out.resend y.host key seq ∈ u.out ∧ u.rbit Reg.ethTpStatus 2 = true ∧ u.rbit Reg.ethTpStatus 0 = decide (y.host.port = 1) ∧
        u.irq.raw.getLsbD (19 + y.host.port.toNat) = true)) ∧
    (open' → (∀ q ∈ y.kept, q.1 ≠ seq) → exec (.transportRetxTimeout sp dev stream seq) s = .next s) ∧
    (open' → y.ackDue = true → Spec.To (.ackSendTimer sp dev stream) s [.eth, .out] (fun u => only key u ∧
      u.space key = { y with ackDue := false } ∧ u.out = s.out ++ [.ackFrame y.host key y.exp (y.held.map (fun g => (g.seq - y.exp).toNat))])) ∧
    (y.ackDue = false → exec (.ackSendTimer sp dev stream) s = .next s) ∧
    (bytes % 8 ≠ 0 → Spec.Run (.cmdFrame stream bytes ws) s [.reg] (fun u =>
      Spec.Counts s u Reg.ethTpBadhdr ∧ OnlyRegs [Reg.ethTpBadhdr] s u)) ∧
    (bytes % 8 = 0 → exec (.cmdFrame stream bytes ws) s = .next (State.engineTurns cmds.length q) ∧
      (s.accepting = true → (s.strm n).frozen = false → OnlyChanges [.cmd, .gov] s q ∧
        q.strm n = { s.strm n with
          cseq := (s.strm n).cseq + BitVec.ofNat 64 cmds.length
          held := (s.strm n).held ++ cmds.zipIdx.map (fun z => ((s.strm n).cseq + BitVec.ofNat 64 z.2, z.1)) } ∧
        ∀ m, m ≠ n → q.strm m = s.strm m)) ∧
    (s.awake = true → (expected = true ∨ queued + data.length ≤ 0x100000) → Spec.To (.dataFrame stream expected tag off data) s [.cmd] (fun u =>
      u.strm n = { s.strm n with data := (s.strm n).data ++ [(tag, off.toNat, data)] } ∧ ∀ m, m ≠ n → u.strm m = s.strm m)) ∧
    (s.awake = true → expected = false → 0x100000 < queued + data.length → Spec.To (.dataFrame stream expected tag off data) s [.reg] (fun u =>
      Spec.Counts s u Reg.ethTpNobuf ∧ OnlyRegs [Reg.ethTpNobuf] s u)) ∧
    (s.awake = true → s.isReady = true → s.isGate = true → s.spaceFull n = false → me.unsent = [] → s.cmd.cpls ≠ [] →
      s.cmd.cpls.length ≤ s.frameRoom (s.spacePort 0 n) / 16 →
      (∀ r ∈ s.cmd.cpls, r.stream = stream) → Spec.Run (.completionFrameFlush stream) s [.cmd, .eth, .out] (fun u =>
        u.cmd.cpls = [] ∧ u.out = s.out ++ [.completions stream s.cmd.cpls, .hostFrame me.host (spaceKey 0 s.sys.myDev.toNat n) me.txNext])) ∧
    (s.awake = true → s.isGate = true → s.isReady = true → f.device ≠ s.sys.myDev →
      (f.type = 1 ∨ f.type = 4 ∨ f.type = 5 ∨ f.type = 6) →
      (f.device.toNat ∉ s.sys.lost → f.device.toNat ∈ s.sys.ready → Spec.Run (.frameForward f) s [.fab, .out, .ptb, .reg, .eth, .free, .irq] (fun u =>
        Out.forward f ∈ u.out)) ∧
      (f.device.toNat ∈ s.sys.lost → s.eth.hostSeen = true → Spec.Run (.frameForward f) s [.eth, .out] (fun u =>
        Out.notice ⟨4, f.device, s.tmr.tb, [BitVec.ofNat 8 f.device.toNat, f.stream, BitVec.ofNat 8 f.space.toNat, 0] ++
          beBytes 4 f.seq.toNat⟩ ∈ u.out)))

/-- A host access names 1 to 64 registers and is answered once, entry by entry in order. An unassigned address answers BAD_OPERAND, a
write to the security or the built-in blocks NOT_BOUND. A plain
read changes no register; a write sets the rw bits and clears the w1c bits that are 1; a _LO read captures the high half; an rc register
reads and clears. -/
def Obligations.RegistersAnswer : Prop :=
  ∀ (s : State) (addrs : List Word) (writes : List (Word × Word)) (a v : Word) (r : RegRow) (b : BitVec 6) (which : BitVec 2) (f : BitVec 8)
    (lead : Bool) (port : BitVec 1) (mode : BitVec 4) (x : Nat),
    let n := a.toNat
    let replied := fun (read : Bool) (l : List (Word × Word × Byte)) (u : State) => Spec.Replied s u (.mgmtReply read l)
    let wrote := fun (n : Nat) (st : Byte) (u : State) => Spec.Replied s u (.mgmtReply false [(BitVec.ofNat 32 n, 0, st)])
    let row := s.assigned n = true ∧ regRow n = some r ∧ ¬ (0x100000 ≤ n ∧ n < 0x200000) ∧ n ≠ Reg.secNonce 0
    let modeOk := which ≠ 0 ∨ fieldOf v 0 2 ≤ 1
    let limOk := which ≠ 0 ∨ fieldOf v 8 8 ≠ 0
    let mode' := if which = 0 ∧ modeOk then fieldOf v 0 2 else s.regMode b.toNat
    let len := if which = 1 then v.toNat else s.regLen b.toNat
    let period := if which = 2 then v.toNat else s.regPeriod b.toNat
    let phase := if which = 3 then v.toNat else s.regPhase b.toNat
    let good := mode' ≤ 1 ∧ 15000 ≤ len ∧ len ≤ 750000000 ∧ 20000 ≤ period ∧ period ≤ 1000000000 ∧
      phase < period ∧ (mode' = 1 → len * 4 ≤ period * 3)
    let step := 0x11000 + b.toNat * 0x40 + which.toNat * 4
    let lim := if limOk then fieldOf v 8 8 else s.rfield step 8 8
    let secret := 0xF00000 ≤ n ∧ n < 0x1000000 ∨ 0x1100000 ≤ n ∧ n < 0x1200000
    let entry := if lead then Reg.cnvActLead f.toNat else Reg.cnvActCfg f.toNat
    let cfg := Reg.ethPortCfg port.toNat
    let stat := Reg.ethPortStat port.toNat
    Canon s → Alive s → s.awake = true → Spec.Home s →
    ((addrs = [] ∨ 64 < addrs.length) → exec (.regrd addrs) s = .next s) ∧
    ((writes = [] ∨ 64 < writes.length) → exec (.regwr writes) s = .next s) ∧
    (addrs ≠ [] → addrs.length ≤ 64 → ∃ u l, exec (.regrd addrs) s = .next u ∧ Out.mgmtReply true l ∈ u.out ∧ l.map Prod.fst = addrs) ∧
    (writes ≠ [] → writes.length ≤ 64 → ∃ u l, exec (.regwr writes) s = .next u ∧ Out.mgmtReply false l ∈ u.out ∧
      l.map Prod.fst = writes.map Prod.fst) ∧
    exec (.registerWrite a v) s = exec (.regwr [(a, v)]) s ∧
    (s.assigned n = false → Spec.Run (.regrd [a]) s [.eth, .out] (replied true [(a, 0, St.badOperand)]) ∧
      (¬ secret → Spec.Run (.registerWrite a v) s [.eth, .out] (replied false [(a, 0, St.badOperand)]))) ∧
    (secret → Spec.Run (.registerWrite a v) s [.eth, .out] (replied false [(a, 0, St.notBound)])) ∧
    (row → r.cap = false → r.rc = false → Spec.Run (.regrd [a]) s [.eth, .out] (replied true [(a, s.view n, St.ok)])) ∧
    (row → 0xC00000 ≤ n → n < 0xD00000 → n ≠ Reg.ltnPsctrl → n ≠ Reg.ltnFwakeSend → r.keeper = false → fieldChecks n = [] →
      Spec.Run (.registerWrite a v) s [.reg, .irq, .eth, .out] (fun u => replied false [(a, 0, St.ok)] u ∧ OnlyRegs [n] s u ∧
        u.rget n = ((s.rget n &&& ~~~r.rw) ||| (v &&& r.rw)) &&& ~~~(v &&& r.w1c))) ∧
    (row → r.cap = true → r.rc = false → s.longView n = some x → Spec.Run (.loReadCapture a) s [.reg, .eth, .out] (fun u =>
      replied true [(a, BitVec.ofNat 32 x, St.ok)] u ∧ u.rget (n + 4) = BitVec.ofNat 32 (x / 2 ^ 32) ∧ OnlyRegs [n + 4] s u)) ∧
    (row → r.cap = false → exec (.loReadCapture a) s = .next s) ∧
    (row → r.cap = false → r.rc = true → Spec.Run (.readClear a) s [.reg, .eth, .out] (fun u =>
      replied true [(a, s.view n, St.ok)] u ∧ u.rget n = 0 ∧ OnlyRegs [n] s u)) ∧
    (row → r.rc = false → exec (.readClear a) s = .next s) ∧
    (good → Spec.Run (.stepConfigWrite b which v) s [.reg, .eth, .out] (fun u =>
      (modeOk ∧ limOk → wrote step St.ok u) ∧ (¬ (modeOk ∧ limOk) → wrote step St.badOperand u) ∧ OnlyRegs [step] s u ∧
      u.rget step = if which = 0 then BitVec.ofNat 32 (lim * 2 ^ 8 + mode') else v)) ∧
    (¬ good → Spec.Run (.stepConfigWrite b which v) s [.eth, .out] (wrote step St.badOperand)) ∧
    ((f = 255 ∨ s.actOk f.toNat (if lead then (s.act f.toNat).cfgNext.getD (s.rget (Reg.cnvActCfg f.toNat)) else v &&& 0xFF03FFFF)
        (if lead then v &&& 0xFF0FFFFF else (s.act f.toNat).leadNext.getD (s.rget (Reg.cnvActLead f.toNat))) = false) →
      Spec.Run (.actCfgWrite f lead v) s [.eth, .out] (wrote entry St.badOperand)) ∧
    (f ≠ 255 → lead = false → bitOf v 31 = false → s.actPending f.toNat = false →
      Spec.Run (.actCfgWrite f lead v) s [.reg, .eth, .out] (fun u => wrote entry St.ok u ∧ u.rget entry = v &&& 0xFF03FFFF ∧
        OnlyRegs [entry] s u)) ∧
    ((mode.toNat ≤ 5 ∨ mode = 7) → Spec.Run (.portModeWrite port mode) s [.reg, .eth, .out] (fun u => wrote cfg St.ok u ∧
      u.rfield cfg 0 4 = mode.toNat ∧ u.rbit stat 31 = false ∧ u.rfield stat 0 4 = 0 ∧ OnlyRegs [cfg, stat] s u)) ∧
    (¬ (mode.toNat ≤ 5 ∨ mode = 7) → Spec.Run (.portModeWrite port mode) s [.eth, .out] (wrote cfg St.badOperand))

/-- A port's link; the frames that end at a port, counted where MACsec drops them and where they are none of the transport's; gate control
tables at a cycle start (with the model's readings of log entry 53). -/
def Obligations.PortsAndTables : Prop :=
  ∀ (s : State) (port : BitVec 1) (mode : BitVec 4) (hd : EthHead) (as : Bool),
    let p := port.toNat
    let stat := Reg.ethPortStat p
    let cfg := s.rfield (Reg.ethPortCfg p) 0 4
    let mine := fun (a : Nat) => (a < 0x701000 ∧ (a - 0x700000) / 0x100 = p) ∨ (0x701000 ≤ a ∧ (a - 0x701000) / 0x800 % 2 = p)
    let here := s.portTakes p = true ∧ (hd.sub = 0 ∨ s.rfield stat 0 4 = 2)
    let sound := hd.macsec = true → s.portSas p 1 ≠ [] ∧ hd.secOk = true
    let fenced := s.rbit (Reg.ethPortCfg p) 31 = true ∧ hd.macsec = false ∧ as = false
    let i := Instr.nonTransportFrame port hd as
    Canon s → Alive s →
    (s.awake = true → Spec.To (.ethPortLinkDown port) s [.reg] (fun u =>
      u.rbit stat 31 = false ∧ u.rfield stat 0 4 = 0 ∧ OnlyRegs [stat] s u)) ∧
    (s.awake = true → s.ltn.ethLost = false → 1 ≤ mode.toNat → mode.toNat ≤ 5 → (cfg = 7 ∨ cfg = mode.toNat) →
      Spec.To (.ethPortLinkUp port mode) s [.reg] (fun u =>
        u.rbit stat 31 = true ∧ u.rfield stat 0 4 = mode.toNat ∧ OnlyRegs [stat] s u)) ∧
    ((mode = 0 ∨ 5 < mode.toNat ∨ (cfg ≠ 7 ∧ cfg ≠ mode.toNat)) → exec (.ethPortLinkUp port mode) s = .next s) ∧
    (¬ here → exec i s = .next s) ∧
    (here → ¬ sound → Spec.To i s [.reg] (fun u => Spec.Counts s u (Reg.ethPortMsecDrop) ∧ OnlyRegs [Reg.ethPortMsecDrop] s u)) ∧
    (here → sound → fenced → exec i s = .next s) ∧
    (here → sound → ¬ fenced → s.qciPasses p hd = false → exec i s = .next s) ∧
    (here → sound → ¬ fenced → s.qciPasses p hd = true → s.isTransport hd = false → Spec.To i s [.reg] (fun u =>
      Spec.Counts s u Reg.ethPortOther ∧ OnlyRegs [Reg.ethPortOther] s u)) ∧
    (here → sound → ¬ fenced → s.isTransport hd = true → exec i s = .next s) ∧
    (s.awake = true → (s.eth.gclNext.map Prod.fst).Nodup → Spec.To (.gclCycleStart port) s [.reg, .eth] (fun u =>
      (∀ e ∈ s.eth.gclNext, mine e.1 → u.rget e.1 = e.2) ∧ (∀ e ∈ u.eth.gclNext, ¬ mine e.1 ∧ e ∈ s.eth.gclNext) ∧
      (∀ a, (∀ e ∈ s.eth.gclNext, mine e.1 → e.1 ≠ a) → u.rget a = s.rget a)))

/-- A device that is READY again and the standby's takeover open the sequence spaces anew and tell the host; a device that had been READY has
its undelivered frames reported; at a takeover a device that took its time from the gate device holds over (with the model's readings of log
entries 37 and 68). -/
def Obligations.GateDeviceRoles : Prop :=
  ∀ (s : State) (dev q : BitVec 6),
    let d := dev.toNat
    let others := ∀ p ∈ s.syn.writers, p.2.isOpen = true → p.1 / 4096 ≠ d
    let fresh := fun (d : Nat) (u : State) => ∀ k, k / 256 % 64 = d → d ≠ s.sys.myDev.toNat → u.space k = Space.empty
    let changed := [Reg.ethTpStatus, Reg.budDevnum, Reg.tmrTbStat]
    let holdover := fun (u : State) =>
      (s.rfield Reg.tmrTbStat 0 2 = 3 → u.rbit Reg.tmrTbStat 31 = false ∧ u.rbit Reg.tmrTbStat 30 = true) ∧
      (s.rfield Reg.tmrTbStat 0 2 ≠ 3 → u.rget Reg.tmrTbStat = s.rget Reg.tmrTbStat)
    Canon s → Alive s →
    (s.awake = true → s.isReady = true → dev ≠ s.sys.myDev → others →
      Spec.To (.restart dev) s [.sys, .fab, .eth, .out] (fun u =>
        u.sys = { s.sys with
          lost := s.sys.lost.filter (fun e => decide (e ≠ d)), ready := s.sys.ready.filter (fun e => decide (e ≠ d)) ++ [d] } ∧
        (∀ v, v < 4 → u.e2e d v = E2E.empty) ∧ (s.isGate = true → fresh d u) ∧
        (s.isGate = true → s.eth.hostSeen = true → Out.notice ⟨5, dev, s.tmr.tb, [BitVec.ofNat 8 d, 1, 0, 0]⟩ ∈ u.out ∧
          (d ∈ s.sys.ready → ∀ e ∈ s.undeliveredTo d, Out.notice ⟨4, dev, s.tmr.tb,
            [BitVec.ofNat 8 d, BitVec.ofNat 8 e.2.1, BitVec.ofNat 8 e.1, 0] ++ beBytes 4 e.2.2.toNat⟩ ∈ u.out)))) ∧
    (dev = s.sys.myDev → exec (.restart dev) s = .next s) ∧
    (s.awake = true → s.isReady = true → s.isGate = false → s.sys.standby = some s.sys.myDev →
      Spec.To .gateTakeover s [.sys, .eth, .reg] (fun u => u.sys = { s.sys with gate := s.sys.myDev } ∧ u.isGate = true ∧
        u.eth.hostSeen = false ∧ u.rbit Reg.ethTpStatus 1 = true ∧ u.rbit Reg.budDevnum 8 = true ∧ holdover u ∧
        OnlyRegs changed s u ∧
        ∀ e ∈ s.sys.ready, e < 64 → fresh e u ∧ (s.eth.notices.length + s.sys.ready.length ≤ 1024 →
          (⟨5, BitVec.ofNat 6 e, s.tmr.tb, [BitVec.ofNat 8 e, 2, 0, 0]⟩ : Notice) ∈ u.eth.notices))) ∧
    (s.awake = true → s.isReady = true → s.sys.standby = some q → q ≠ s.sys.myDev →
      Spec.To .gateTakeover s [.sys, .reg] (fun u => u.sys = { s.sys with gate := q } ∧ u.rbit Reg.ethTpStatus 1 = false ∧
        u.rbit Reg.budDevnum 8 = false ∧ holdover u ∧ OnlyRegs changed s u)) ∧
    ((s.awake = false ∨ s.isReady = false ∨ s.sys.standby = none ∨ (s.isGate = true ∧ s.sys.standby = some s.sys.myDev)) →
      exec .gateTakeover s = .next s)

/-! ## The power governor (R423-R444) -/

/-- GOVERNOR_WINDOW takes PGV_CTRL, PGV_CAP and PGV_TLIM as written, writes the estimates of the window, computes levels that fall by at most 8
while the estimate and what hints reserve stay under the cap, and counts a window that no level can bring under it; LEVEL_APPLY puts the computed
levels in force. A unit in one wait, and a core in one step under one level, through the whole window count their ACLK; those of a unit that began
or ended are the model's free value, at most 750 (log entry 30). -/
def Obligations.WindowsSetLevels : Prop :=
  ∀ (s : State) (counts : List (List Nat)) (unreach : List Nat),
    let whole := s.waiting.filter (fun w => s.gov.waited.contains w)
    let part := (s.waiting ++ s.gov.waited).filter (fun w => !whole.contains w)
    let waits := fun (k : Nat) => (counts.getD 2 []).getD 8 0 + 750 * whole.length + k
    let close := slotAfter s.tmr.tb.toNat 0 1000
    let v := { s with
      tmr := { s.tmr with tb := BitVec.ofNat 64 close }
      gov := { s.gov with ctrl := s.rget Reg.pgvCtrl, cap := s.rget Reg.pgvCap, tlim := s.rget Reg.pgvTlim } }
    let cnt := fun (k c : Nat) => v.activity (counts.getD c []) c ++ if c = 2 then [waits k] else []
    let est := fun (k c : Nat) => v.classEst (cnt k c) c
    let total := fun (k : Nat) => est k 0 + est k 1 + est k 2 + est k 3
    let held := fun (k : Nat) => v.hintReserve [est k 0, est k 1, est k 2, est k 3]
    let never := fun (k c : Nat) => unreach.getD c 0 + if c = 2 then v.waitPart (waits k) else 0
    let sure := if s.gov.steady then s.working.filter (fun w => s.gov.worked.contains w) else []
    let unsure := (s.working ++ s.gov.worked).filter (fun w => !sure.contains w)
    let first := aclkOf ((BitVec.ofNat 64 close).toNat - 1000)
    let bubbles := (sure.map (fun w => (List.range 750).countP (fun i => isBubble (s.coreLevel w.1 (first + i)) (first + i)))).sum
    let order := [s.rfield Reg.pgvCtrl 0 2, s.rfield Reg.pgvCtrl 2 2, s.rfield Reg.pgvCtrl 4 2]
    let go := Instr.governorWindow counts unreach
    Canon s → Alive s → order.Perm [0, 1, 2] → s.longGet Reg.pgvBubLo + bubbles + 750 * unsure.length < 2 ^ 48 →
    (∃ k j, k ≤ 750 * part.length ∧ j ≤ 750 * unsure.length ∧ Spec.To go s [.reg, .gov, .tmr, .irq, .eth, .out, .free] (fun u =>
      u.tmr.tb = BitVec.ofNat 64 close ∧ u.gov.acts = [] ∧ u.gov.waited = s.waiting ∧ u.gov.worked = s.working ∧ u.gov.steady = true ∧
      u.gov.ctrl = v.gov.ctrl ∧ u.gov.cap = v.gov.cap ∧ u.gov.tlim = v.gov.tlim ∧
      (∀ c, c < 4 → u.rfield (Reg.pgvEst c) 0 16 = min (est k c) 65535 ∧ u.rfield (Reg.pgvEst c) 16 16 = min (v.classStatic c) 65535) ∧
      u.rget Reg.pgvEstTotal = BitVec.ofNat 32 (min (total k) 65535) ∧ u.longGet Reg.pgvBubLo = s.longGet Reg.pgvBubLo + bubbles + j ∧
      (∀ c, c < 3 → u.level c = s.level c) ∧ u.gov.next.length = 3 ∧
      (s.gov.starts = [] → ∀ c, c < 3 → u.gov.next.getD c 0 ≤ lmax c ∨ u.gov.next.getD c 0 + 8 = s.level c) ∧
      (total k + held k ≤ v.capInForce → (s.gov.starts = [] → ∀ c, c < 3 → u.gov.next.getD c 0 = s.level c - 8) ∧ u.rget Reg.pgvCapfailCnt = s.rget Reg.pgvCapfailCnt) ∧
      (v.capInForce < total k + held k → (∀ c, c < 3 → est k c ≤ v.classStatic c + never k c) →
        Spec.Counts s u Reg.pgvCapfailCnt ∧ u.rbit Reg.pgvStatus 0 = true))) ∧
    Spec.To .levelApply s [.reg, .gov] (fun u => OnlyRegs [Reg.pgvLevel] s u ∧
      u.gov = { s.gov with steady := s.gov.steady && decide (s.level 2 = s.gov.next.getD 2 0) } ∧
      ∀ c, c < 3 → s.gov.next.getD c 0 < 64 → u.level c = s.gov.next.getD c 0)

/-- A flag of PGV_STATUS sets; where it was clear its source is raised. -/
def Spec.Flags (s u : State) (bit source : Nat) : Prop :=
  u.rbit Reg.pgvStatus bit = true ∧ (s.rbit Reg.pgvStatus bit = false → u.irq.raw.getLsbD source = true)

/-- Telemetry and temperatures: readings and their failures, gains within 0.80 and 1.25, VRM alerts, over-cap power, the thermal cap and
its bounds, GOVX, power-good loss and THERMTRIP. -/
def Obligations.TelemetryAndTemperatures : Prop :=
  ∀ (s : State) (volts amps : List (Option Nat)) (words : List (BitVec 16)) (temps hbms : List (BitVec 8)) (sensor : BitVec 5) (n : BitVec 3)
    (r v a : Nat),
    let g := s.gov
    let t := s.rfield Reg.pgvTcap 0 9
    let lim := s.tlimField 0
    let hlim := s.tlimField 8
    let hot := (∃ x ∈ g.temps, 2 * lim ≤ x.toNat) ∨ ∃ x ∈ g.stackT, hlim ≤ x.toNat
    let cool := (∀ x ∈ g.temps, x.toNat + 6 ≤ 2 * lim) ∧ ∀ x ∈ g.stackT, x.toNat + 3 ≤ hlim
    let parts := [Part.reg, .gov, .free, .irq, .eth, .out]
    let above := s.capSet * 103 * 1000000 * g.boardN < g.boardSum * 100
    let hottest := temps.foldl (fun m t => max m t.toNat) 0
    let hotNow := decide (2 * s.tlimField 16 ≤ hottest)
    let high := s.ltn.pg.getD n.toNat false = true ∧ s.ltn.power = .run
    let pg := s.ltn.pg.set n.toNat false
    let last := s.ltn.power = .sleep ∧ s.ltn.entering = true ∧ ∀ j ∈ [0, 1, 2, 3, 4, 7], pg.getD j false = false
    Canon s → Alive s →
    (r < 8 → ∃ u, exec (.pmbusRead volts amps) s = .next u ∧ OnlyChanges parts s u ∧ u.gov.boardN = g.boardN + 1 ∧
      (volts.getD r none = some v → amps.getD r none = some a → u.gov.measSum.getD r 0 = g.measSum.getD r 0 + v * a ∧
        u.gov.good.getD r 0 = g.good.getD r 0 + 1 ∧ u.gov.fails.getD r 0 = 0) ∧
      ((volts.getD r none = none ∨ amps.getD r none = none) → u.gov.measSum.getD r 0 = g.measSum.getD r 0 ∧
        u.gov.fails.getD r 0 = g.fails.getD r 0 + 1 ∧
        (g.fails.getD r 0 = 99 → u.gov.frozen.getD r false = true ∧ u.rbit Reg.pgvStatus 3 = true))) ∧
    (r < 8 → Spec.To .gainUpdate s [.reg, .gov, .free] (fun u =>
      OnlyRegs ((List.range 8).map Reg.pgvGain) s u ∧ u.gov = { g with measSum := [], good := [], estSum := [], windows := 0 } ∧
      (s.governed = true ∨ g.frozen.getD r false = true ∨ g.good.getD r 0 = 0 ∨ g.estSum.getD r 0 = 0 →
        u.rget (Reg.pgvGain r) = s.rget (Reg.pgvGain r)) ∧
      (s.governed = false → g.frozen.getD r false = false → g.good.getD r 0 ≠ 0 → g.estSum.getD r 0 ≠ 0 →
        13107 ≤ (u.rget (Reg.pgvGain r)).toNat ∧ (u.rget (Reg.pgvGain r)).toNat ≤ 20480))) ∧
    (r < 8 → ∃ u, exec (.pmbAlert words) s = .next u ∧ OnlyChanges [.reg, .irq, .eth, .out] s u ∧ Spec.Flags s u 6 146 ∧
      u.rget (Reg.pgvVrm r) = BitVec.ofNat 32 (words.getD r 0).toNat) ∧
    (∃ u, exec .overcapCheck s = .next u ∧ OnlyChanges [.reg, .gov, .irq, .eth, .out] s u ∧ u.gov = { g with boardSum := 0, boardN := 0 } ∧
      (above → Spec.Flags s u 2 143) ∧ (¬ above → u.reg = s.reg)) ∧
    (∃ u, exec .thermalCapUpdate s = .next u ∧ OnlyChanges [.reg, .irq, .eth, .out] s u ∧
      (hot → u.rfield Reg.pgvTcap 0 9 = max 120 (t - 8) ∧ Spec.Flags s u 1 142) ∧
      (¬ hot → cool → u.rfield Reg.pgvTcap 0 9 = min 480 (t + 8) ∧
        (s.capSet ≤ min 480 (t + 8) → u.rbit Reg.pgvStatus 1 = false)) ∧
      (¬ hot → ¬ cool → u = s)) ∧
    (∃ u, exec (.sensorSample temps hbms) s = .next u ∧ OnlyChanges parts s u ∧ u.gov.temps = temps ∧ u.gov.stackT = hbms ∧
      u.rbit Reg.pgvStatus 4 = hotNow ∧ (hotNow ≠ s.rbit Reg.pgvStatus 4 → Out.pin 1 (!hotNow) ∈ u.out) ∧
      (hotNow = true → s.rbit Reg.pgvStatus 4 = false → Spec.Flags s u 5 145)) ∧
    (100 ≤ g.outBand → ∃ u, exec .govx s = .next u ∧ OnlyChanges [.reg, .irq, .eth, .out] s u ∧ Spec.Flags s u 8 148) ∧
    (g.outBand < 100 → exec .govx s = .next s) ∧
    (∃ u, exec (.pgFall n) s = .next u ∧ OnlyChanges [.ltn, .reg, .irq, .eth, .out] s u ∧ u.ltn.pg = pg ∧
      (high → Spec.Flags s u 7 147) ∧ (¬ high → ¬ last → u.reg = s.reg ∧ u.ltn = { s.ltn with pg := pg }) ∧
      (last → s.ltn.wakeDue = false → u.ltn = { s.ltn with pg := pg, entering := false, stage := 0 } ∧ u.rbit Reg.ltnStatus 4 = true) ∧
      (last → s.ltn.wakeDue = true → u.ltn.entering = false ∧ u.ltn.stage ≠ 0 ∧ u.rbit Reg.ltnStatus 4 = false)) ∧
    (sensor.toNat < 18 → Spec.To (.thermtrip sensor) s [.dead, .out] (fun u =>
      u.dead = some .thermalTrip ∧ u.out = s.out ++ [.pin 2 false])) ∧
    (18 ≤ sensor.toNat → exec (.thermtrip sensor) s = .next s)

/-! ## Power states and wake (R445-R461) -/

/-- A wake event in SLEEP: its bit sets and a restore begins unless one is under way; in the entry it waits for the entry's end. -/
def Spec.Woken (s u : State) (bit : Nat) : Prop :=
  u.rbit Reg.ltnWakereason bit = true ∧ u.ltn.power = .sleep ∧
  (s.ltn.entering = true → u.ltn = { s.ltn with wakeDue := true }) ∧
  (s.ltn.entering = false → s.ltn.stage ≠ 0 → u.ltn = s.ltn) ∧
  (s.ltn.entering = false → s.ltn.stage = 0 → u.ltn.stage ≠ 0 ∧ u.ltn.listening = none ∧ u.rbit Reg.ltnStatus 4 = false)

/-- Nothing of the logic outside Lantern is left: no binding, stream, core, buoy or queue; HBM keeps its bytes and every other memory is 0. -/
def Spec.LogicLost (s u : State) : Prop :=
  u.cmd = State.reset.cmd ∧ u.core = State.reset.core ∧ u.syn = State.reset.syn ∧ u.fuses = s.fuses ∧ u.pending = s.pending ∧
  (∀ a, Mem.hbm ≤ a → u.byteAt a = s.byteAt a) ∧ (∀ a, a < Mem.hbm → u.byteAt a = 0)

/-- Requests for RUN, DOZE and SLEEP with the conditions that refuse them, and their entries; the ways out of DOZE, which RESTORE ends; clock
gates, the last of which ends the entry of DOZE. -/
def Obligations.PowerRequests : Prop :=
  ∀ (s : State) (others : Bool) (kind : BitVec 2) (k phys : BitVec 5),
    let reply := fun (st : Byte) (u : State) => Out.mgmtReply false [(BitVec.ofNat 32 Reg.ltnPsctrl, 0, st)] ∈ u.out
    let parts := [Part.ltn, .syn, .reg, .eth, .out, .fab, .ptb, .irq]
    let up := (s.ltn.power = .run ∨ s.ltn.power = .doze) ∧ s.ltn.entering = false ∧ s.ltn.stage = 0
    let restoring := fun (u : State) => u.ltn = { s.ltn with stage := 1, listening := none, wakeDue := false }
    let ending := fun (u : State) => u.ltn = (if s.ltn.entering then { s.ltn with wakeDue := true } else
      { s.ltn with stage := 1, listening := none, wakeDue := false })
    let dozing := s.ltn.power = .doze ∧ (s.ltn.entering = true ∨ s.ltn.stage = 0)
    let all := ∀ q, q < 18 → q ∈ s.ltn.gated
    let down := ∀ n ∈ [0, 1, 2, 3, 4, 7], s.ltn.pg.getD n false = false
    let busy := ∃ p ∈ s.cmd.bindings, p.2.valid = true ∧
      (p.2.running = true ∨ p.2.waitSlot = true ∨ p.2.queue ≠ [] ∨ p.2.windowOpen = true)
    let free := (∀ p ∈ s.cmd.bindings, p.2.valid = false) ∧ (s.sys.nDevs ≤ 1 ∨ s.rbit Reg.fabRetire 1 = true) ∧
      (s.sys.nDevs ≤ 1 ∨ s.isGate = false ∨ others = true) ∧ s.ltnLoad ≤ 1800
    let quiet := s.syn.notes = [] ∧ ∀ w ∈ s.syn.watches, w.beacon = none
    let refused := fun (u : State) => reply St.badOperand u ∧ u.rbit Reg.ltnPsstat 8 = true
    let source := s.rfield (Reg.ltnWatch k.toNat) 0 9
    let p := phys.toNat
    Canon s → Alive s →
    (up → Spec.Run .psctrlRun s parts (fun u => reply St.ok u ∧ (s.ltn.power = .run → u.ltn = s.ltn) ∧ (s.ltn.power = .doze → restoring u))) ∧
    (¬ up → Spec.Run .psctrlRun s [.reg, .eth, .out, .fab, .ptb, .irq] (reply St.badOperand) ∧
      Spec.Run .psctrlDoze s [.reg, .eth, .out, .fab, .ptb, .irq] (reply St.badOperand) ∧
      Spec.Run (.psctrlSleep others) s [.reg, .eth, .out, .fab, .ptb, .irq] (reply St.badOperand)) ∧
    (up → busy → Spec.Run .psctrlDoze s [.reg, .eth, .out, .fab, .ptb, .irq] refused) ∧
    (up → ¬ busy → Spec.Run .psctrlDoze s [.ltn, .reg, .eth, .out, .fab, .ptb, .irq] (fun u => reply St.ok u ∧
      (s.ltn.power = .doze → u.ltn = s.ltn) ∧
      (s.ltn.power = .run → ¬ all → u.ltn = { s.ltn with power := .doze, entering := true, stage := 1, wakeDue := false }) ∧
      (s.ltn.power = .run → all → u.ltn = { s.ltn with power := .doze, wakeDue := false }))) ∧
    (up → ¬ free → Spec.Run (.psctrlSleep others) s [.reg, .eth, .out, .fab, .ptb, .irq] refused) ∧
    (up → free → ∃ u, exec (.psctrlSleep others) s = .next u ∧ reply St.ok u ∧ u.ltn.power = .sleep ∧
      (down → u.ltn.entering = false ∧ u.ltn.stage = 0 ∧ u.rbit Reg.ltnStatus 4 = true) ∧
      (¬ down → u.ltn.entering = true ∧ u.ltn.stage = 4) ∧ (∀ h, h < 4 → u.rbit (Reg.hbmStat h) 30 = true) ∧
      (∀ n ∈ [0, 1, 2, 3, 4, 7], u.ltn.pwrEn.getD n false = false) ∧ (∀ n ∈ [5, 6], u.ltn.pwrEn.getD n false = s.ltn.pwrEn.getD n false) ∧
      Spec.LogicLost s u ∧ u.ltn.keep = s.ltn.keep ∧ u.ltn.vid.toNat = s.rfield Reg.ethTpCfg 4 12 ∧
      (∀ a, 0xC00000 ≤ a → a < 0xD00000 → a ≠ Reg.ltnStatus → u.rget a = s.rget a)) ∧
    (s.ltn.power ≠ .doze → exec (.dozeAutoWake kind) s = .next s ∧ exec (.watchedSourceWake k) s = .next s) ∧
    (dozing → (kind = 0 ∧ (∃ x ∈ s.cmd.streams, ∃ c ∈ x.2.held, reachesCore c.2 = true) ∨ kind = 1 ∧ (∃ w ∈ s.syn.watches, w.beacon.isSome = true) ∨
        kind = 2 ∧ s.syn.notes ≠ []) →
      Spec.Run (.dozeAutoWake kind) s [.ltn] ending) ∧
    (s.ltn.power = .doze → s.ltn.entering = false → s.ltn.stage = 1 → quiet → Spec.Run .restore s [.ltn, .syn] (fun u =>
      u.ltn = { s.ltn with power := .run, stage := 0, gated := [] })) ∧
    (s.ltn.power = .doze → (s.ltn.entering = true ∨ s.ltn.stage ≠ 1) → exec .restore s = .next s) ∧
    (s.ltn.power = .doze → (∀ x ∈ s.cmd.streams, ∀ c ∈ x.2.held, reachesCore c.2 = false) → kind = 0 →
      exec (.dozeAutoWake kind) s = .next s) ∧
    (dozing → s.rbit (Reg.ltnWatch k.toNat) 31 = true → s.irqPending source = true →
      Spec.Run (.watchedSourceWake k) s [.ltn, .reg] (fun u => ending u ∧ u.rbit Reg.ltnWakereason 7 = true ∧
        OnlyRegs [Reg.ltnWakereason] s u)) ∧
    ((s.rbit (Reg.ltnWatch k.toNat) 31 = false ∨ s.irqPending source = false) → exec (.watchedSourceWake k) s = .next s) ∧
    (p < 18 → s.ltn.power = .run → s.mayGate p = true → p ∉ s.ltn.gated →
      Spec.To (.clockGate phys) s [.ltn] (fun u => u.ltn = { s.ltn with gated := s.ltn.gated ++ [p] })) ∧
    (p < 18 → s.ltn.power = .doze → s.ltn.entering = true → s.ltn.wakeDue = false → s.mayGate p = true → p ∉ s.ltn.gated →
      Spec.To (.clockGate phys) s [.ltn] (fun u => u.ltn.gated = s.ltn.gated ++ [p] ∧ u.ltn.power = .doze ∧
        ((∀ q, q < 18 → q ∈ s.ltn.gated ∨ q = p) → u.ltn.entering = false ∧ u.ltn.stage = 0) ∧
        ((∃ q, q < 18 ∧ q ∉ s.ltn.gated ∧ q ≠ p) → u.ltn.entering = true))) ∧
    ((s.mayGate p = false ∨ (s.ltn.power ≠ .run ∧ ¬ (s.ltn.power = .doze ∧ s.ltn.entering = true)) ∨ p ∈ s.ltn.gated) →
      exec (.clockGate phys) s = .next s) ∧
    (s.ltn.power = .doze → exec (.clockUngate phys) s = .next s) ∧
    (s.ltn.power ≠ .doze → Spec.To (.clockUngate phys) s [.ltn] (fun u => p ∉ u.ltn.gated ∧ (∀ q, q ≠ p → (q ∈ u.ltn.gated ↔ q ∈ s.ltn.gated)) ∧
      u.ltn.power = s.ltn.power))

/-- The wake events of SLEEP, listening for a WAKE frame, the wake pattern on request, the restore with its rails, and a brown-out (log entry 14). -/
def Obligations.WakeAndRestore : Prop :=
  ∀ (s : State) (port : BitVec 1) (l : BitVec 5) (mac : BitVec 48) (hd : EthHead) (pattern : List Word) (mask : BitVec 18) (n : BitVec 3) (m : Nat),
    let p := port.toNat
    let k := l.toNat
    let asleep := s.ltn.power = .sleep
    let parts := [Part.ltn, .reg, .out]
    let matches' := s.ltn.listening = some port ∧ s.ltn.ethLost = false ∧ s.ltn.pg.getD 3 false = true ∧ s.ltn.pg.getD 4 false = true ∧
      (mac = BitVec.allOnes 48 ∨ mac.toNat = (s.rget Reg.ltnWakemacHi).toNat % 2 ^ 16 * 2 ^ 32 + (s.rget Reg.ltnWakemacLo).toNat) ∧
      hd.vid = some s.ltn.vid ∧ hd.etype = s.ltn.etype ∧ hd.udp = none ∧ pattern = (List.range 4).map (fun i => s.rget (Reg.ltnWpat i))
    let watched := fun (b : Bool) => s.rbit Reg.ltnFwakeEn k = true ∧ s.rbit Reg.ltnFwakeMode k = b
    let fwOk := ∀ j, j < 18 → mask.getLsbD j = true → s.linkState j = 0 ∨ s.linkState j = 5
    let pg := s.ltn.pg.set n.toNat true
    let rails := fun (order : List Nat) => (∀ j ∈ order, s.ltn.pwrEn.getD j false = true → pg.getD j false = true) ∧
      order.find? (fun j => !s.ltn.pwrEn.getD j false) = some m
    let cold := s.ltn.power = .held ∧ s.ltn.pgAborted = false ∧ rails [6, 5, 0, 1, 2, 3, 4, 7]
    let warm := asleep ∧ s.ltn.stage = 1 ∧ rails [0, 1, 2, 3, 4, 7]
    let late := s.ltn.pwrEn.getD n.toNat false = true ∧ s.ltn.pg.getD n.toNat false = false
    Canon s → Alive s → s.ltn.pwrEn.length = 8 →
    (asleep → s.emode p = 1 → Spec.To (.ethernetEnergyWake port) s parts (fun u => Spec.Woken s u p)) ∧
    (asleep → s.emode p ≠ 1 → exec (.ethernetEnergyWake port) s = .next s) ∧
    (asleep → s.ltn.stage = 0 → s.ltn.listening = none → s.emode p = 2 →
      Spec.To (.listen port) s parts (fun u => u.ltn.listening = some port ∧ u.rbit Reg.ltnStatus 4 = false ∧ u.ltn.power = .sleep)) ∧
    (s.emode p ≠ 2 → exec (.listen port) s = .next s) ∧
    (asleep → s.ltn.stage = 0 → s.ltn.listening = some port → Spec.To (.listenTimeout port) s parts (fun u =>
      u.ltn.listening = none ∧ u.rbit Reg.ltnStatus 4 = true ∧ u.ltn.pwrEn.getD 3 false = false ∧ u.ltn.pwrEn.getD 4 false = false ∧
      Spec.Counts s u Reg.ltnListenCnt)) ∧
    (s.ltn.listening ≠ some port → exec (.listenTimeout port) s = .next s) ∧
    (asleep → matches' → Spec.To (.wakeFrame port mac hd pattern) s parts (fun u => Spec.Woken s u (2 + p))) ∧
    (asleep → ¬ matches' → exec (.wakeFrame port mac hd pattern) s = .next s) ∧
    (¬ asleep → Spec.Passes s p hd → Spec.To (.wakeFrame port mac hd pattern) s [.reg] (fun u =>
      Spec.Counts s u Reg.ethTpBadhdr ∧ OnlyRegs [Reg.ethTpBadhdr] s u)) ∧
    (asleep → watched false → Spec.To (.fabricEnergyWake l) s parts (fun u => Spec.Woken s u 6 ∧ u.rbit Reg.ltnWakelink k = true)) ∧
    (asleep → watched true → Spec.To (.fabricWakePattern l) s parts (fun u => Spec.Woken s u 6 ∧ u.rbit Reg.ltnWakelink k = true)) ∧
    ((¬ asleep ∨ ¬ watched false) → exec (.fabricEnergyWake l) s = .next s) ∧
    ((¬ asleep ∨ ¬ watched true) → exec (.fabricWakePattern l) s = .next s) ∧
    (fwOk → ∃ u, exec (.fwakeSend mask) s = .next u ∧ Out.mgmtReply false [(BitVec.ofNat 32 Reg.ltnFwakeSend, 0, St.ok)] ∈ u.out ∧
      ∀ j, j < 18 → mask.getLsbD j = true → Out.fwake (BitVec.ofNat 5 j) ∈ u.out) ∧
    (¬ fwOk → Spec.Run (.fwakeSend mask) s [.reg, .eth, .out, .fab, .ptb, .irq] (fun u =>
      Out.mgmtReply false [(BitVec.ofNat 32 Reg.ltnFwakeSend, 0, St.badOperand)] ∈ u.out)) ∧
    (asleep → s.ltn.xt32Lost = false → s.rbit Reg.ltnWakeen 4 = true → Spec.To .lanternTimerWake s parts (fun u =>
      Spec.Woken s u 4 ∧ u.rget Reg.ltnTcnt = s.rget Reg.ltnTcmp)) ∧
    (asleep → s.ltn.xt32Lost = false → s.rbit Reg.ltnWakeen 5 = true → Spec.To .wakeN s parts (fun u => Spec.Woken s u 5)) ∧
    (s.ltn.xt32Lost = true → exec .lanternTimerWake s = .next s ∧ exec .wakeN s = .next s) ∧
    (s.rbit Reg.ltnWakeen 5 = false → exec .wakeN s = .next s) ∧
    (asleep → s.ltn.stage = 2 → (∀ b ∈ s.ltn.pg, b = true) → ∃ u, exec .restore s = .next u ∧ u.ltn.power = .held ∧ u.ltn.stage = 0 ∧
      u.rfield Reg.budState 18 2 = 3 ∧ u.rget Reg.pgvCap = BitVec.ofNat 32 (gradeTdp s.fuses.grade.toNat) ∧ Spec.LogicLost s u ∧
      u.ltn.keep = s.ltn.keep) ∧
    (s.ltn.power ≠ .doze → (¬ asleep ∨ s.ltn.stage ≠ 2) → exec .restore s = .next s) ∧
    ((cold ∨ warm) → Spec.To (.pgRise n) s [.ltn, .out] (fun u => u.ltn.pg = pg ∧ u.ltn.pwrEn = s.ltn.pwrEn.set m true ∧
      u.out = s.out ++ [.pin (16 + m) true])) ∧
    (asleep → s.ltn.stage = 1 → (∀ j ∈ [0, 1, 2, 3, 4, 7], s.ltn.pwrEn.getD j false = true ∧ pg.getD j false = true) →
      Spec.To (.pgRise n) s [.ltn] (fun u => u.ltn = { s.ltn with pg := pg, stage := 2 })) ∧
    (late → asleep → s.ltn.entering = false → s.ltn.stage = 1 → Spec.To (.pgTimeout n) s parts (fun u => u.ltn.power = .sleep ∧ u.ltn.stage = 0 ∧
      u.ltn.pgAborted = true ∧ u.rfield Reg.ltnPsstat 28 4 = n.toNat ∧ u.rbit Reg.ltnPsstat 9 = true ∧ u.rbit Reg.ltnStatus 4 = true ∧
      ∀ j ∈ [0, 1, 2, 3, 4, 7], u.ltn.pwrEn.getD j false = false)) ∧
    (late → s.ltn.power = .held → Spec.To (.pgTimeout n) s parts (fun u => u.ltn.power = .held ∧ u.ltn.pgAborted = true ∧
      u.rfield Reg.ltnPsstat 28 4 = n.toNat ∧ u.rbit Reg.ltnPsstat 9 = true ∧ ∀ j, j < 8 → u.ltn.pwrEn.getD j false = false)) ∧
    (asleep → s.ltn.entering = true → s.ltn.wakeDue = false → s.ltn.pg.getD n.toNat false = true → Spec.To (.pgTimeout n) s parts (fun u =>
      u.ltn = { s.ltn with entering := false, stage := 0 } ∧ u.rbit Reg.ltnStatus 4 = true)) ∧
    (¬ late → ¬ (asleep ∧ s.ltn.entering = true) → exec (.pgTimeout n) s = .next s) ∧
    (s.rbit Reg.ltnStatus 4 = true → Spec.To .brownOut s [.ltn, .reg] (fun u => u.ltn.keep = Retention.empty ∧ u.ltn.browned = true ∧
      u.rfield Reg.ltnStatus 8 2 = 2 ∧ (∀ a, 0xC00000 ≤ a → a < 0xD00000 → a ≠ Reg.ltnStatus → u.rget a = regReset a) ∧
      (∀ a, (a < 0xC00000 ∨ 0xD00000 ≤ a) → u.rget a = s.rget a))) ∧
    (s.rbit Reg.ltnStatus 4 = false → exec .brownOut s = .next s)

/-! ## Resets and bring-up (R453, R462-R480, R512-R514, R543-R547) -/

/-- A removal of VDD_LTN, a power-on and a cold reset lose everything but the fuses; a warm reset keeps Lantern and HBM; the clocks that can
be lost (with the model's readings of log entries 15 and 31). -/
def Obligations.ResetsAndClocks : Prop :=
  ∀ (s : State) (pgHigh : Bool) (i : Nat),
    let lost := fun (u : State) => u.dead = none ∧ Spec.LogicLost { s with mem := State.reset.mem } u ∧ u.mem = State.reset.mem ∧
      u.rget Reg.pgvCap = BitVec.ofNat 32 (gradeTdp s.fuses.grade.toNat)
    let rails := fun (u : State) (l : List Nat) => ∀ n, n < 8 → u.ltn.pwrEn.getD n false = l.contains n ∧ u.ltn.pg.getD n false = false
    let pins := fun (l : List Nat) => s.out ++ ([7, 4, 3, 2, 1, 0, 5, 6].filter (fun n => s.ltn.pwrEn.getD n false)).map (fun n => Out.pin (16 + n) false) ++
      l.map (fun n => Out.pin (16 + n) true) ++ (if s.dead = some .thermalTrip then [.pin 2 true] else []) ++
      (if s.rbit Reg.pgvStatus 4 then [.pin 1 true] else [])
    let kept := (pgHigh = true ∧ s.ltn.power ≠ .sleep ∧ s.ltn.power ≠ .off)
    Canon s →
    (∃ u, exec .powerOnReset s = .next u ∧ lost u ∧ rails u [6] ∧ u.out = pins [6] ∧ u.ltn.power = .held ∧
      ∀ a, a ≠ Reg.pgvCap → u.rget a = regReset a) ∧
    (∃ u, exec .coldReset s = .next u ∧ lost u ∧ rails u [6] ∧ u.out = pins [6] ∧ u.ltn.power = .held ∧ u.rfield Reg.budState 18 2 = 1 ∧
      ∀ a, a ∉ [Reg.pgvCap, Reg.budState, Reg.ltnPsstat, Reg.ltnStatus] → u.rget a = regReset a) ∧
    (∃ u, exec .vddLtnRemoval s = .next u ∧ lost u ∧ rails u [] ∧ u.out = pins [] ∧ u.ltn.power = .off) ∧
    (Alive s → kept → ∃ u, exec (.warmReset pgHigh) s = .next u ∧ u.ltn.power = .held ∧ u.rfield Reg.budState 18 2 = 2 ∧
      Spec.LogicLost s u ∧ u.ltn.keep = s.ltn.keep ∧ u.ltn.pwrEn = s.ltn.pwrEn ∧
      (∀ a, keptReg a = true → u.rget a = s.rget a) ∧
      (∀ a, keptReg a = false → a ∉ [Reg.pgvCap, Reg.budState, Reg.hbmStat 0, Reg.hbmStat 1, Reg.hbmStat 2, Reg.hbmStat 3] →
        u.rget a = regReset a)) ∧
    (Alive s → ¬ kept → exec (.warmReset pgHigh) s = .next s) ∧
    (Alive s → s.ltn.power ≠ .sleep → s.ltn.power ≠ .off →
      Spec.Run (.referenceClockLoss 0) s [.dead] (fun u => u.dead = some .sysclkLost)) ∧
    (Alive s → s.activeCircs = [] → i < 18 → ∃ u, exec (.referenceClockLoss 1) s = .next u ∧
      (s.linkUp i = true → u.linkState i = 4) ∧ (s.linkUp i = false → u.linkState i = s.linkState i)) ∧
    (Alive s → Spec.Run (.referenceClockLoss 2) s [.reg, .ltn] (fun u => u.ltn = { s.ltn with ethLost := true } ∧
      u.rbit (Reg.ethPortStat 0) 31 = false ∧ u.rbit (Reg.ethPortStat 1) 31 = false)) ∧
    (Alive s → Spec.Run (.referenceClockLoss 3) s [.ltn] (fun u => u.ltn = { s.ltn with xt32Lost := true }))

/-- The path to READY from a release: nothing begins before it; each failure ends in the state and with the cause of its rule; with sound
units the cold path numbers them in order, and the fast path takes the map Lantern kept (with the model's
reading of log entry 19). -/
def Obligations.BringUpEnds : Prop :=
  ∀ (s : State) (r : BringupReport),
    let st := Reg.budState
    let ends := fun (c : Instr) (state cause : Nat) => ∃ u, exec c s = .next u ∧ u.rfield st 30 2 = state ∧ u.rfield st 22 3 = cause ∧
      u.ltn.power = .run
    let stays := fun (c : Instr) (cause stage : Nat) => ∃ u, exec c s = .next u ∧ u.rfield st 30 2 = 1 ∧ u.rfield st 26 4 = stage ∧
      u.rfield st 22 3 = cause
    let sound := s.fuses.badCores = [] ∧ s.fuses.badSlices = [] ∧ s.fuses.records = [] ∧ r.badCores = [] ∧ r.badSlices = [] ∧ r.badRows = []
    let image := s.fuses.keyKill = false ∧ s.bootOk r = true
    let ready := fun (u : State) => u.rfield st 30 2 = 2 ∧ u.ltn.power = .run ∧ s.devNum r = some u.sys.myDev ∧ u.sys.gate = r.gate ∧
      u.sys.nDevs = r.devs.length ∧ u.sys.myDev.toNat ∈ u.sys.ready ∧ u.ltn.keep.ready = true ∧ u.rfield Reg.pgvCtrl 16 6 = r.ramp0.toNat ∧
      u.rget Reg.ltnPgtmo = BitVec.ofNat 32 r.pgtmo.toNat
    let crc := r.descCrc = crc32 r.desc
    let listed := (s.devNum r).isSome = true
    let map := s.ltn.keep.lmap
    Canon s → Alive s →
    (s.released = false → exec (.coldBringup r) s = .next s ∧ exec (.warmFastPath r) s = .next s) ∧
    (s.released = true → s.fastOk r = true → exec (.coldBringup r) s = .next s) ∧
    (s.fastOk r = false → exec (.warmFastPath r) s = exec (.coldBringup r) s) ∧
    (s.released = true → s.fastOk r = false →
      (r.bootSel = 3 → stays (.coldBringup r) 0 2) ∧
      (r.bootSel ≠ 3 → s.fuses.keyKill = true → stays (.coldBringup r) 7 2) ∧
      (r.bootSel ≠ 3 → s.fuses.keyKill = false → s.bootOk r = false → ∃ u, exec (.coldBringup r) s = .next u ∧
        u.rfield st 30 2 = 1 ∧ u.rfield st 22 3 = 7 ∧ u.ltn.keep.sigfail.toNat = min (s.ltn.keep.sigfail.toNat + 1) 3 ∧
        (s.ltn.keep.sigfail = 2 → u.irq.raw.getLsbD 172 = true ∧ u.mem.wiping = true)) ∧
      (r.bootSel ≠ 3 → image → ¬ crc → stays (.coldBringup r) 6 2) ∧
      (r.bootSel ≠ 3 → image → crc → r.hbmOk = false → ends (.coldBringup r) 3 5) ∧
      (r.bootSel ≠ 3 → image → crc → r.hbmOk = true → sound → r.cables = [] →
        (¬ listed → ends (.coldBringup r) 3 2) ∧ (listed → s.fwAgree r = false → ends (.coldBringup r) 3 3) ∧
        (listed → s.fwAgree r = true → ∃ u, exec (.coldBringup r) s = .next u ∧ ready u ∧
          (∀ k, k < s.nCores → u.rget (Reg.budLmapCore k) = BitVec.ofNat 32 (2 ^ 30 + k)) ∧
          (∀ k, k < 32 → u.rget (Reg.budLmapSlice k) = BitVec.ofNat 32 (2 ^ 30 + if 28 ≤ k then k - 28 else k + 4)) ∧
          (∀ h, h < 4 → u.rbit (Reg.hbmStat h) 31 = true ∧ u.rbit (Reg.hbmStat h) 30 = false)))) ∧
    (s.released = true → s.fastOk r = true → image → crc → r.cables = [] → listed → s.fwAgree r = true →
      ∃ u, exec (.warmFastPath r) s = .next u ∧ ready u ∧ u.rbit st 25 = true ∧
        (∀ k, k < 16 → u.rget (Reg.budLmapCore k) = map.getD k 0) ∧ (∀ k, k < 32 → u.rget (Reg.budLmapSlice k) = map.getD (16 + k) 0)) ∧
    (s.released = true → s.fastOk r = true → s.fuses.keyKill = true → stays (.warmFastPath r) 7 9)

/-! ## Interrupts, the timebase and the timers (R493-R510) -/

/-- A raise sets raw once and merges after; a source whose flags are all clear is withdrawn; a claim takes a pending source from raw to
active in its processor's slot, which then refuses another; DONE ends it. -/
def Obligations.InterruptsAreClaimed : Prop :=
  ∀ (s : State) (n : BitVec 9) (p : BitVec 1),
    let k := n.toNat
    let slot := s.claimSlot p
    let free := slot = 0 ∨ slot = 511
    let keeper := fun (a : Nat) (st : Byte) (u : State) => u.out = s.out ++ [.keeper st a]
    let bits := fun (u : State) (r a : Bool) => u.irq.raw.getLsbD k = r ∧ u.irq.active.getLsbD k = a ∧
      (∀ j, j < 512 → j ≠ k → u.irq.raw.getLsbD j = s.irq.raw.getLsbD j ∧ u.irq.active.getLsbD j = s.irq.active.getLsbD j) ∧
      u.irq.en = s.irq.en
    let slots := fun (u : State) (v : BitVec 9) => u.claimSlot p = v ∧ ∀ q, q ≠ p → u.claimSlot q = s.claimSlot q
    Canon s → Alive s →
    (irqAssigned k = true → s.irq.raw.getLsbD k = false → Spec.To (.interruptRaise n) s [.irq, .eth, .out] (fun u =>
      bits u true (s.irq.active.getLsbD k) ∧
      (s.irq.en.getLsbD k = true → s.irqFwd k = true → s.eth.hostSeen = true →
        Out.notice ⟨3, s.sys.myDev, s.tmr.tb, beBytes 2 k ++ [0, 0]⟩ ∈ u.out) ∧
      ((s.irq.en.getLsbD k = false ∨ s.irqFwd k = false) → u.out = s.out ∧ u.eth = s.eth))) ∧
    (irqAssigned k = true → s.irq.raw.getLsbD k = true → Spec.To (.interruptRaise n) s [.reg] (fun u =>
      Spec.Counts s u Reg.irqMerged ∧ u.rget Reg.irqLastm = BitVec.ofNat 32 k ∧ OnlyRegs [Reg.irqMerged, Reg.irqLastm] s u)) ∧
    (irqAssigned k = false → exec (.interruptRaise n) s = .next s) ∧
    (s.flagsClear k = true → Spec.To (.interruptWithdraw n) s [.irq] (fun u => bits u false (s.irq.active.getLsbD k))) ∧
    (s.flagsClear k = false → exec (.interruptWithdraw n) s = .next s) ∧
    (free → n ≠ 0 → n ≠ 511 → s.irqPending k = true → Spec.To (.irqClaim p n) s [.irq, .out] (fun u =>
      bits u false true ∧ slots u n ∧ keeper Reg.irqClaim St.ok u)) ∧
    (free → n ≠ 0 → n ≠ 511 → s.irqPending k = false → Spec.To (.irqClaim p n) s [.irq, .out] (fun u =>
      bits u (s.irq.raw.getLsbD k) (s.irq.active.getLsbD k) ∧ slots u 511 ∧ keeper Reg.irqClaim St.ok u)) ∧
    ((¬ free ∨ n = 0 ∨ n = 511) → Spec.To (.irqClaim p n) s [.out] (keeper Reg.irqClaim St.badOperand)) ∧
    (slot = n → n ≠ 0 → n ≠ 511 → Spec.To (.irqDone p n) s [.irq, .out] (fun u =>
      bits u (s.irq.raw.getLsbD k) false ∧ slots u 0 ∧ keeper Reg.irqDone St.ok u)) ∧
    ((slot ≠ n ∨ n = 0 ∨ n = 511) → Spec.To (.irqDone p n) s [.out] (keeper Reg.irqDone St.badOperand))

/-- The timebase steps forward only while no binding is in locked mode; holdover and the return of synchronisation; the offset of a sync
message. -/
def Obligations.TimebaseIsDisciplined : Prop :=
  ∀ (s : State) (ns rate : Word) (port : BitVec 1) (src : BitVec 2) (offset : Word64),
    let tb := s.tmr.tb.toNat
    let st := Reg.tmrTbStat
    let ok := s.timeSourceOk src.toNat = true ∧ -512000000 ≤ rate.toInt ∧ rate.toInt ≤ 512000000
    let synced := fun (u : State) => u.rget Reg.tmrTbRate = rate ∧ u.rfield st 0 2 = src.toNat ∧ u.rbit st 31 = true ∧ u.rbit st 30 = false ∧
      (src ≠ 3 → u.rbit (Reg.ethPortStat (src.toNat - 1)) 30 = true)
    let step := fun (d : Nat) (u : State) => u.tmr.tb = BitVec.ofNat 64 (tb + d) ∧ Spec.Counts s u Reg.tmrTbSteps
    Canon s → Alive s →
    (s.anyLocked = false → Spec.To (.tbStep ns) s [.tmr, .reg, .out] (fun u => step ns.toNat u ∧ OnlyRegs [Reg.tmrTbSteps] s u ∧
      u.out = s.out ++ [.keeper St.ok Reg.tmrTbStep])) ∧
    (s.anyLocked = true → Spec.To (.tbStep ns) s [.out] (fun u => u.out = s.out ++ [.keeper St.badOperand Reg.tmrTbStep])) ∧
    (∃ u, exec (.holdover port) s = .next u ∧ OnlyChanges [.reg, .irq, .eth, .out] s u ∧ u.rbit (Reg.ethPortStat port.toNat) 30 = false ∧
      u.irq.raw.getLsbD (19 + port.toNat) = true ∧ u.rget Reg.tmrTbRate = s.rget Reg.tmrTbRate ∧
      (s.rfield st 0 2 = port.toNat + 1 → u.rbit st 31 = false ∧ u.rbit st 30 = true) ∧
      (s.rfield st 0 2 ≠ port.toNat + 1 → u.rget st = s.rget st)) ∧
    (ok → src ≠ 0 → Spec.To (.syncReturn src rate) s [.reg] synced) ∧
    (¬ ok → exec (.syncReturn src rate) s = .next s ∧ exec (.timeSyncMessage src offset rate) s = .next s) ∧
    (ok → src ≠ 0 → 0 < offset.toInt → s.anyLocked = false → Spec.To (.timeSyncMessage src offset rate) s [.reg, .tmr] (fun u =>
      synced u ∧ step offset.toInt.toNat u)) ∧
    (ok → src ≠ 0 → (offset.toInt ≤ 0 ∨ s.anyLocked = true) → Spec.To (.timeSyncMessage src offset rate) s [.reg] synced)

/-- A match or a wrap of a timer: its flag, OVR where the flag was set, and its source where the IE bit is set. -/
def Spec.TimerFlag (s u : State) (n bit : Nat) : Prop :=
  u.rbit (Reg.tmrStat n) bit = true ∧ (s.rbit (Reg.tmrStat n) bit = true → u.rbit (Reg.tmrStat n) 4 = true) ∧
  (s.rbit (Reg.tmrCtrl n) (16 + bit) = true → u.irq.raw.getLsbD (77 + n) = true)

/-- A tick of a running timer counts, wraps at PERIOD and then brings the preloads into force, matches the compares in force, and captures;
writes go to the preload or into force at once; a timer that is not bound here refuses the host. -/
def Obligations.TimersCount : Prop :=
  ∀ (s : State) (n : BitVec 5) (k : BitVec 1) (which : BitVec 2) (v mask : Word) (en : Bool),
    let i := n.toNat
    let t := s.timer i
    let stat := Reg.tmrStat i
    let ctrl := Reg.tmrCtrl i
    let count := Reg.tmrCount i
    let wraps := t.period.toNat ≤ (s.rget count).toNat + 1
    let c : Word := if wraps then 0 else s.rget count + 1
    let cmp := fun (j : Nat) => if wraps then s.rget (if j = 0 then Reg.tmrCmp0 i else Reg.tmrCmp1 i) else if j = 0 then t.cmp0 else t.cmp1
    let regs := [count, stat, Reg.tmrCapt i, Reg.irqMerged, Reg.irqLastm]
    let ticks := fun (u : State) => u.rget count = c ∧ OnlyRegs regs s u ∧ (wraps → Spec.TimerFlag s u i 2 ∧ u.rbit stat 6 = false) ∧
      (∀ j, j < 2 → cmp j = c → Spec.TimerFlag s u i j) ∧ (∀ j, j < 2 → cmp j ≠ c → u.rbit stat j = s.rbit stat j) ∧
      (¬ wraps → u.rbit stat 2 = s.rbit stat 2 ∧ u.tmr = s.tmr) ∧ u.timer i = { t with
        period := if wraps then s.rget (Reg.tmrPeriod i) else t.period, cmp0 := cmp 0, cmp1 := cmp 1 } ∧
      (wraps ∨ cmp 0 = c → u.rget (Reg.tmrCapt i) = c)
    let parts := [Part.reg, .tmr, .irq, .eth, .out]
    let on := s.timerOn i = true
    let open' := s.timerOpen i = true
    let a := if which = 0 then Reg.tmrPeriod i else if which = 1 then Reg.tmrCmp0 i else if which = 2 then Reg.tmrCmp1 i else count
    let said := fun (a : Nat) (st : Byte) (u : State) => Out.mgmtReply false [(BitVec.ofNat 32 a, 0, st)] ∈ u.out
    let write := Instr.timerImmediateWrite n which v
    let all := ∀ j, j < 32 → mask.getLsbD j = true → s.timerOpen j = true
    Canon s → Alive s → Spec.Home s →
    (on → Spec.To (.timerTick n) s parts ticks) ∧
    (on → wraps → Spec.To (.timerWrap n) s parts ticks) ∧
    (on → cmp k.toNat = c → Spec.To (.timerMatch n k) s parts ticks) ∧
    (¬ on → exec (.timerTick n) s = .next s ∧ exec (.timerWrap n) s = .next s ∧ exec (.timerMatch n k) s = .next s) ∧
    (¬ wraps → exec (.timerWrap n) s = .next s) ∧
    (cmp k.toNat ≠ c → exec (.timerMatch n k) s = .next s) ∧
    (¬ open' → Spec.To write s [.eth, .out] (said a St.notBound) ∧ Spec.To (.timerEnable n en) s [.eth, .out] (said ctrl St.notBound)) ∧
    (open' → which ≠ 3 → ¬ (which = 0 ∧ v = 0) →
      (s.rbit ctrl 30 = false → Spec.To write s [.reg, .eth, .out] (fun u => said a St.ok u ∧ u.rget a = v ∧ u.rbit stat 6 = true ∧
        OnlyRegs [a, stat] s u)) ∧
      (s.rbit ctrl 30 = true → Spec.To write s [.reg, .tmr, .eth, .out] (fun u => said a St.ok u ∧ u.rget a = v ∧ OnlyRegs [a, stat] s u ∧
        (which = 0 → u.timer i = { t with period := v } ∧ (v.toNat ≤ (s.rget count).toNat → u.rbit stat 5 = true)) ∧
        (which = 1 → u.timer i = { t with cmp0 := v }) ∧ (which = 2 → u.timer i = { t with cmp1 := v })))) ∧
    (open' → which = 3 → ¬ on → Spec.To write s [.reg, .eth, .out] (fun u => said a St.ok u ∧ u.rget count = v ∧ OnlyRegs [count] s u)) ∧
    (open' → ((which = 3 ∧ on) ∨ (which = 0 ∧ v = 0)) → Spec.To write s [.eth, .out] (said a St.badOperand)) ∧
    (open' → Spec.Run (.timerEnable n en) s [.reg, .tmr, .eth, .out] (fun u => said ctrl St.ok u ∧ u.rbit ctrl 31 = en ∧
      OnlyRegs [ctrl] s u ∧ (en = true → ¬ on → (u.timer i).phase = 0) ∧ (en = true → on → u.tmr = s.tmr))) ∧
    (all → Spec.Run (.tmrGstart mask) s [.reg, .tmr, .eth, .out] (fun u => said Reg.tmrGstart St.ok u ∧
        (∀ j, j < 32 → u.timerOn j = (s.timerOn j || mask.getLsbD j)) ∧ OnlyRegs ((List.range 32).map Reg.tmrCtrl) s u) ∧
      Spec.Run (.tmrGstop mask) s [.reg, .eth, .out] (fun u => said Reg.tmrGstop St.ok u ∧
        (∀ j, j < 32 → u.timerOn j = (s.timerOn j && !mask.getLsbD j)) ∧ OnlyRegs ((List.range 32).map Reg.tmrCtrl) s u)) ∧
    (¬ all → Spec.Run (.tmrGstart mask) s [.eth, .out] (said Reg.tmrGstart St.notBound) ∧
      Spec.Run (.tmrGstop mask) s [.eth, .out] (said Reg.tmrGstop St.notBound))

/-! ## Security (R511-R532) -/

/-- ATTEST answers with a report over the nonce; a SAK, a life-cycle transition and a debug level are granted only to the key that may sign
them, with the device nonce of the moment, which each request renews; TAMPER_N wipes the vault. The functions of the chapter are free (log
entries 9 and 33). -/
def Obligations.SecurityRequests : Prop :=
  ∀ (s : State) (nonce : List Byte) (ns : List Word) (devid : Word64) (sig : List Byte) (target level : BitVec 8) (port dir : BitVec 1)
    (an : BitVec 2) (ssci : Word) (ki wrapped pub : List Byte) (smbus : Bool),
    let said := fun (kind st : Byte) (u : State) => ∃ body, Out.secReply kind st body ∈ u.out ∧ u.rget Reg.secReq =
      BitVec.ofNat 32 (st.toNat * 256 + kind.toNat)
    let words := (List.range 8).map (fun i => Tab.get (fun _ => (0 : Word)) s.reg.live (Reg.secNonce i))
    let msg := fun (kind : Nat) (b : List Byte) => [BitVec.ofNat 8 kind, 0, 0, 0] ++ leBytes 4 b.length ++ List.replicate 8 0 ++ b
    let body := fun (x : Byte) => [x, 0, 0, 0] ++ ns.flatMap (fun w => leBytes 4 w.toNat) ++ leBytes 8 devid.toNat
    let fresh := ns = words ∧ devid = s.fuses.devid
    let debug := Instr.debug level ns devid smbus sig
    let life := Instr.lifecycle target ns devid [] smbus sig
    let way := if smbus then [] else [Part.fab, .eth, .gov, .irq, .ptb, .free]
    let c := lcOf s.fuses
    let wiped := fun (u : State) (cause : Nat) => u.mem.wiping = true ∧ u.sec.sas = [] ∧ u.rget Reg.secEvent = BitVec.ofNat 32 cause ∧
      u.rfield Reg.secTamper 0 16 = min (s.rfield Reg.secTamper 0 16 + 1) (2 ^ 16 - 1) ∧ u.irq.raw.getLsbD 172 = true ∧
      u.fuses = (if c = 2 then { s.fuses with tampered := true } else s.fuses)
    let grant := fun (signer : Option (List Byte)) (kind : Nat) (x : Byte) =>
      ∃ key, signer = some key ∧ Config.verifies key (msg kind (body x)) sig = true ∧ fresh
    let salt := words.flatMap (fun w => leBytes 4 w.toNat)
    let info := beBytes 8 s.fuses.devid.toNat ++ [BitVec.ofNat 8 port.toNat, BitVec.ofNat 8 dir.toNat, an.zeroExtend 8]
    let sak := Instr.sak port dir an ssci ki wrapped pub ns devid smbus sig
    let i := port.toNat * 2 + dir.toNat
    let unwrapped := Config.unwrap (Config.derive (Config.agree 0 pub) salt info) wrapped
    let sas := fun (u : State) => Tab.get (fun _ => ([] : List Sa)) u.sec.sas i
    Canon s → Alive s →
    (nonce.length = 32 → Spec.To (.attest nonce smbus) s ([.reg, .out] ++ way) (fun u => said 1 St.ok u ∧
      Out.secReply 1 St.ok (s.report nonce ++ Config.sign (s.report nonce)) ∈ u.out ∧
      (smbus = true → OnlyRegs [Reg.secReq] s u ∧ u.out = s.out ++ [.secReply 1 St.ok (s.report nonce ++ Config.sign (s.report nonce))]))) ∧
    (nonce.length ≠ 32 → Spec.To (.attest nonce smbus) s ([.reg, .out] ++ way) (said 1 St.badOperand)) ∧
    Spec.To (.certs smbus) s ([.reg, .out] ++ way) (fun u => said 5 St.ok u ∧ Out.secReply 5 St.ok ((List.range 3).flatMap Config.certChain) ∈ u.out ∧
      (smbus = true → u.out = s.out ++ [.secReply 5 St.ok ((List.range 3).flatMap Config.certChain)])) ∧
    (s.ltn.power ≠ .sleep → s.ltn.power ≠ .off → ∃ u, exec .tamperN s = .next u ∧
      OnlyChanges [.reg, .mem, .sec, .fuses, .irq, .eth, .out] s u ∧ wiped u 4) ∧
    ((s.ltn.power = .sleep ∨ s.ltn.power = .off) → exec .tamperN s = .next s) ∧
    (∃ u, exec debug s = .next u ∧
      (grant (s.debugSigner level.toNat) 3 level → said 3 St.ok u ∧ u.sec.dbg.toNat = max level.toNat s.sec.dbg.toNat ∧
        u.irq.raw.getLsbD 174 = true ∧ wiped u 1) ∧
      (¬ grant (s.debugSigner level.toNat) 3 level → said 3 St.badOperand u ∧ u.sec.dbg = s.sec.dbg) ∧
      (∀ key, s.debugSigner level.toNat = some key → Config.verifies key (msg 3 (body level)) sig = false →
        u.sec.sigRun = s.sec.sigRun + 1 ∧ u.irq.raw.getLsbD 175 = true ∧ (s.sec.sigRun = 2 → wiped u 3))) ∧
    (∃ u, exec life s = .next u ∧
      (grant (s.lcSigner target.toNat [] smbus) 2 target → (∀ p ∈ s.cmd.bindings, p.2.valid = false) →
        (∃ b, Out.secReply 2 St.ok b ∈ u.out) ∧ u.ltn.power = .held ∧ u.mem.cells = [] ∧ u.cmd = State.reset.cmd ∧
        u.rfield Reg.budState 18 2 = 1 ∧ u.sec.lcDone = true ∧ lcOf u.fuses = target.toNat ∧ u.fuses.devid = s.fuses.devid) ∧
      (¬ grant (s.lcSigner target.toNat [] smbus) 2 target ∨ (∃ p ∈ s.cmd.bindings, p.2.valid = true) →
        said 2 St.badOperand u ∧ u.cmd = s.cmd ∧ u.fuses.lcBits = s.fuses.lcBits ∧ u.fuses.keyKill = s.fuses.keyKill)) ∧
    (c ≤ 1 → ki.length = 16 → wrapped.length = 56 → pub.length = 97 →
      Spec.To sak s ([.reg, .sec, .out, .free] ++ way) (fun u => u.fuses = s.fuses ∧
        (∀ k, unwrapped = some k → said 4 St.ok u ∧ sas u = addSa (sas s) ⟨an, ssci, ki, k⟩) ∧
        (unwrapped = none → said 4 St.badOperand u ∧ u.sec = s.sec))) ∧
    ((ki.length ≠ 16 ∨ wrapped.length ≠ 56 ∨ pub.length ≠ 97) → c ≤ 1 →
      Spec.To sak s ([.reg, .sec, .out, .free] ++ way) (fun u => said 4 St.badOperand u ∧ u.sec = s.sec)) ∧
    (c = 4 → Spec.To sak s ([.reg, .sec, .out, .free] ++ way) (fun u => said 4 St.badOperand u ∧ u.sec = s.sec))
end

