-- ==== Sys2Proof/Laws/Tab.lean ====
section
/-! SUPPORT. Laws/Tab.lean: reading and writing a table in canonical form, and that every table operation keeps the form. -/

-- The law files are compiled one declaration after the other and without linters: fewer threads and less memory.
set_option linter.all false
set_option Elab.async false

namespace Sys2Proof.Machine

variable {α : Type} {d : Nat → α}

@[simp] theorem Tab.get_nil (k : Nat) : Tab.get d [] k = d k := rfl

/-- Below its first key a canonical table reads as the default. -/
theorem Tab.get_below {t : Tab α} {k : Nat} (h : ∀ p ∈ t, k < p.1) : Tab.get d t k = d k := by
  cases t with
  | nil => rfl
  | cons p r =>
    have h1 := h p (by simp)
    simp only [Tab.get]
    rw [if_neg (by omega), if_pos h1]

theorem Tab.get_cons_self {k : Nat} {x : α} {r : Tab α} : Tab.get d ((k, x) :: r) k = x := by simp [Tab.get]

variable [DecidableEq α]

theorem Tab.wf_nil : Tab.wf d [] := ⟨List.Pairwise.nil, by simp⟩

theorem Tab.wf_tail {p : Nat × α} {t : Tab α} (h : Tab.wf d (p :: t)) : Tab.wf d t :=
  ⟨(List.pairwise_cons.mp h.1).2, fun q hq => h.2 q (List.mem_cons_of_mem _ hq)⟩

theorem Tab.get_set_same {t : Tab α} (h : Tab.wf d t) (k : Nat) (v : α) : Tab.get d (Tab.set d t k v) k = v := by
  induction t with
  | nil => by_cases hv : v = d k <;> simp [Tab.set, Tab.get, hv]
  | cons p r ih =>
    obtain ⟨j, x⟩ := p
    have hr := List.pairwise_cons.mp h.1
    simp only [Tab.set]
    split
    · rename_i hk
      split
      · rename_i hv
        simp only [Tab.get]
        rw [if_neg (by omega), if_pos hk, hv]
      · simp [Tab.get]
    · split
      · rename_i h1 h2
        subst h2
        split
        · rename_i hv
          rw [Tab.get_below (fun p hp => hr.1 p hp), hv]
        · simp [Tab.get]
      · rename_i h1 h2
        simp only [Tab.get]
        rw [if_neg (by omega), if_neg h1]
        exact ih (Tab.wf_tail h)

theorem Tab.get_set_other {t : Tab α} (h : Tab.wf d t) {k i : Nat} (v : α) (hi : i ≠ k) :
    Tab.get d (Tab.set d t k v) i = Tab.get d t i := by
  induction t with
  | nil => by_cases hv : v = d k <;> simp [Tab.set, Tab.get, hv]; intro hk; exact absurd hk.symm hi
  | cons p r ih =>
    obtain ⟨j, x⟩ := p
    have hr := List.pairwise_cons.mp h.1
    simp only [Tab.set]
    split
    · rename_i hk
      split
      · rfl
      · simp only [Tab.get]
        rw [if_neg (Ne.symm hi)]
        by_cases hlt : i < k
        · rw [if_pos hlt, if_neg (by omega), if_pos (by omega)]
        · rw [if_neg hlt]
    · split
      · rename_i h1 h2
        subst h2
        split
        · simp only [Tab.get]
          rw [if_neg (Ne.symm hi)]
          by_cases hlt : i < k
          · rw [if_pos hlt, Tab.get_below (fun p hp => by have := hr.1 p hp; simp only at this; omega)]
          · rw [if_neg hlt]
        · simp only [Tab.get]
          rw [if_neg (Ne.symm hi)]
          by_cases hlt : i < k
          · simp [hlt, Ne.symm hi]
          · simp [hlt, Ne.symm hi]
      · simp only [Tab.get]
        rw [ih (Tab.wf_tail h)]

theorem Tab.mem_set {t : Tab α} {k : Nat} {v : α} {p : Nat × α} (h : p ∈ Tab.set d t k v) : p = (k, v) ∨ p ∈ t := by
  induction t with
  | nil =>
    simp only [Tab.set] at h
    split at h
    · simp at h
    · simp at h; exact Or.inl h
  | cons q r ih =>
    obtain ⟨j, x⟩ := q
    simp only [Tab.set] at h
    split at h
    · split at h
      · exact Or.inr h
      · rcases List.mem_cons.mp h with h | h
        · exact Or.inl h
        · exact Or.inr h
    · split at h
      · split at h
        · exact Or.inr (List.mem_cons_of_mem _ h)
        · rcases List.mem_cons.mp h with h | h
          · exact Or.inl h
          · exact Or.inr (List.mem_cons_of_mem _ h)
      · rcases List.mem_cons.mp h with h | h
        · exact Or.inr (by rw [h]; simp)
        · rcases ih h with h | h
          · exact Or.inl h
          · exact Or.inr (List.mem_cons_of_mem _ h)

/-- A write keeps the canonical form. -/
theorem Tab.wf_set {t : Tab α} (h : Tab.wf d t) (k : Nat) (v : α) : Tab.wf d (Tab.set d t k v) := by
  induction t with
  | nil =>
    simp only [Tab.set]
    split
    · exact Tab.wf_nil
    · rename_i hv
      exact ⟨by simp, by simpa using hv⟩
  | cons p r ih =>
    obtain ⟨j, x⟩ := p
    have hr := List.pairwise_cons.mp h.1
    simp only [Tab.set]
    split
    · rename_i hk
      split
      · exact h
      · rename_i hv
        refine ⟨List.pairwise_cons.mpr ⟨?_, h.1⟩, ?_⟩
        · intro q hq
          rcases List.mem_cons.mp hq with hq | hq
          · rw [hq]; exact hk
          · have := hr.1 q hq
            simp only at this ⊢
            omega
        · intro q hq
          rcases List.mem_cons.mp hq with hq | hq
          · rw [hq]; exact hv
          · exact h.2 q hq
    · split
      · rename_i h1 h2
        subst h2
        split
        · exact Tab.wf_tail h
        · rename_i hv
          refine ⟨List.pairwise_cons.mpr ⟨fun q hq => hr.1 q hq, hr.2⟩, ?_⟩
          intro q hq
          rcases List.mem_cons.mp hq with hq | hq
          · rw [hq]; exact hv
          · exact h.2 q (List.mem_cons_of_mem _ hq)
      · rename_i h1 h2
        have ht := ih (Tab.wf_tail h)
        refine ⟨List.pairwise_cons.mpr ⟨?_, ht.1⟩, ?_⟩
        · intro q hq
          rcases Tab.mem_set hq with hq | hq
          · rw [hq]; show j < k; omega
          · exact hr.1 q hq
        · intro q hq
          rcases List.mem_cons.mp hq with hq | hq
          · rw [hq]; exact h.2 (j, x) (by simp)
          · exact ht.2 q hq

/-- Dropping entries keeps the canonical form. -/
theorem Tab.wf_filter {t : Tab α} (h : Tab.wf d t) (f : Nat × α → Bool) : Tab.wf d (t.filter f) :=
  ⟨h.1.filter _, fun p hp => h.2 p (List.mem_filter.mp hp).1⟩

/-- Two canonical tables that read alike at every key are equal. -/
theorem Tab.ext_get {t u : Tab α} (ht : Tab.wf d t) (hu : Tab.wf d u) (h : ∀ k, Tab.get d t k = Tab.get d u k) : t = u := by
  induction t generalizing u with
  | nil =>
    cases u with
    | nil => rfl
    | cons p r =>
      have := h p.1
      rw [Tab.get_nil, Tab.get_cons_self] at this
      exact absurd this.symm (hu.2 p (by simp))
  | cons p r ih =>
    obtain ⟨j, x⟩ := p
    have htr := List.pairwise_cons.mp ht.1
    cases u with
    | nil =>
      have := h j
      rw [Tab.get_nil, Tab.get_cons_self] at this
      exact absurd this (ht.2 (j, x) (by simp))
    | cons q w =>
      obtain ⟨i, y⟩ := q
      have hur := List.pairwise_cons.mp hu.1
      have hij : i = j := by
        rcases Nat.lt_trichotomy i j with hl | hl | hl
        · have h1 := h i
          rw [Tab.get_cons_self, Tab.get_below (by
            intro p hp
            rcases List.mem_cons.mp hp with hp | hp
            · rw [hp]; exact hl
            · have := htr.1 p hp; simp only at this; omega)] at h1
          exact absurd h1.symm (hu.2 (i, y) (by simp))
        · exact hl
        · have h1 := h j
          rw [Tab.get_cons_self, Tab.get_below (by
            intro p hp
            rcases List.mem_cons.mp hp with hp | hp
            · rw [hp]; exact hl
            · have := hur.1 p hp; simp only at this; omega)] at h1
          exact absurd h1 (ht.2 (j, x) (by simp))
      subst hij
      have hxy := h i
      rw [Tab.get_cons_self, Tab.get_cons_self] at hxy
      subst hxy
      have : r = w := by
        refine ih (Tab.wf_tail ht) (Tab.wf_tail hu) (fun k => ?_)
        rcases Nat.lt_trichotomy k i with hl | hl | hl
        · rw [Tab.get_below (fun p hp => by have := htr.1 p hp; simp only at this; omega),
            Tab.get_below (fun p hp => by have := hur.1 p hp; simp only at this; omega)]
        · subst hl
          rw [Tab.get_below (fun p hp => htr.1 p hp), Tab.get_below (fun p hp => hur.1 p hp)]
        · have hk := h k
          simp only [Tab.get] at hk
          rw [if_neg (by omega), if_neg (by omega), if_neg (by omega), if_neg (by omega)] at hk
          exact hk
      rw [this]

end Sys2Proof.Machine
end

