-- ==== Sys2Proof/Laws/Only.lean ====
section
/-! SUPPORT. Laws/Only.lean: which units an operation may change. One lemma per operation names its units; the frame of a command
follows from the operations it is made of. -/

namespace Sys2Proof.Machine

variable {L : List Part} {a s : State}

theorem OnlyChanges.refl (L : List Part) (s : State) : OnlyChanges L s s := ⟨rfl, fun p _ => by cases p <;> rfl⟩

theorem OnlyChanges.trans {t u : State} (h : OnlyChanges L s t) (g : OnlyChanges L t u) : OnlyChanges L s u :=
  ⟨g.queue.trans h.queue, fun p hp => by
    have h2 := h.same p hp
    have g2 := g.same p hp
    cases p <;> exact g2.trans h2⟩

theorem OnlyChanges.mono {M : List Part} {t : State} (h : OnlyChanges L s t) (hl : ∀ p, p ∈ L → p ∈ M) : OnlyChanges M s t :=
  ⟨h.1, fun p hp => h.same p (fun hq => hp (hl p hq))⟩

/-- A state that differs from `s` in one listed unit. -/
theorem OnlyChanges.step (q : Part) {t : State} (hq : q ∈ L) (h : OnlyChanges L a s) (hp : t.pending = s.pending)
    (ht : ∀ p, p ≠ q → Same s t p) : OnlyChanges L a t :=
  OnlyChanges.trans h ⟨hp, fun p hm => ht p (fun e => hm (e ▸ hq))⟩

/-- A record update of listed units. -/
theorem OnlyChanges.upd {t : State} (hq : t.pending = s.pending) (hs : ∀ p, p ∉ L → Same s t p) (h : OnlyChanges L a s) :
    OnlyChanges L a t :=
  OnlyChanges.trans h ⟨hq, hs⟩

@[simp] theorem OnlyChanges.ite {t : State} {c : Prop} [Decidable c] :
    OnlyChanges L a (if c then s else t) = if c then OnlyChanges L a s else OnlyChanges L a t := by
  split <;> rfl

@[simp] theorem OnlyChanges.ite1 {β : Type} {x y : State × β} {c : Prop} [Decidable c] :
    OnlyChanges L a (if c then x else y).1 = if c then OnlyChanges L a x.1 else OnlyChanges L a y.1 := by
  split <;> rfl

theorem OnlyChanges.iteI {β : Type} {x y : State × β} {c : Prop} [Decidable c] (h1 : c → OnlyChanges L a x.1)
    (h2 : ¬c → OnlyChanges L a y.1) : OnlyChanges L a (if c then x else y).1 := by
  by_cases h : c
  · rw [if_pos h]; exact h1 h
  · rw [if_neg h]; exact h2 h

@[simp] theorem OnlyChanges.fold {α : Type} {f : State → α → State} (hf : ∀ s x, OnlyChanges L a s → OnlyChanges L a (f s x)) (l : List α)
    {s : State} (h : OnlyChanges L a s) : OnlyChanges L a (l.foldl f s) := by
  induction l generalizing s with
  | nil => exact h
  | cons x r ih => exact ih (hf s x h)

@[simp] theorem OnlyChanges.forAll {α : Type} {f : State → α → State} (hf : ∀ s x, OnlyChanges L a s → OnlyChanges L a (f s x))
    (l : List α) {s : State} (h : OnlyChanges L a s) : OnlyChanges L a (s.forAll l f) := OnlyChanges.fold hf l h

@[simp] theorem OnlyChanges.fold1 {α β : Type} {f : State × β → α → State × β}
    (hf : ∀ p x, OnlyChanges L a p.1 → OnlyChanges L a (f p x).1) (l : List α) {p : State × β} (h : OnlyChanges L a p.1) :
    OnlyChanges L a (l.foldl f p).1 := by
  induction l generalizing p with
  | nil => exact h
  | cons x r ih => exact ih (hf p x h)

/-- The frame of an operation that may not happen. -/
def OptOnly (L : List Part) (a : State) (o : Option State) : Prop := ∀ t, o = some t → OnlyChanges L a t

@[simp] theorem OptOnly_none : OptOnly L a none = True := propext ⟨fun _ => trivial, fun _ t h => by cases h⟩
@[simp] theorem OptOnly_some {t : State} : OptOnly L a (some t) = OnlyChanges L a t :=
  propext ⟨fun h => h t rfl, fun h _ e => by cases e; exact h⟩
@[simp] theorem OptOnly_ite {o p : Option State} {c : Prop} [Decidable c] :
    OptOnly L a (if c then o else p) = if c then OptOnly L a o else OptOnly L a p := by
  split <;> rfl
@[simp] theorem OptOnly_getD {w : State} {o : Option State} (ho : OptOnly L a o) (hw : OnlyChanges L a w) : OnlyChanges L a (o.getD w) := by
  cases o with
  | none => exact hw
  | some t => exact ho t rfl

/-! ## The named updates -/

@[simp] theorem State.setCtx_Only (c : Nat) (x : Ctx) (hm : Part.cmd ∈ L) (h : OnlyChanges L a s) : OnlyChanges L a (s.setCtx c x) :=
  h.step .cmd hm rfl (fun p hp => by cases p <;> first | rfl | exact absurd rfl hp)
@[simp] theorem State.setBnd_Only (b : Nat) (x : Binding) (hm : Part.cmd ∈ L) (h : OnlyChanges L a s) : OnlyChanges L a (s.setBnd b x) :=
  h.step .cmd hm rfl (fun p hp => by cases p <;> first | rfl | exact absurd rfl hp)
@[simp] theorem State.setStrm_Only (n : Nat) (x : Stream) (hm : Part.cmd ∈ L) (h : OnlyChanges L a s) : OnlyChanges L a (s.setStrm n x) :=
  h.step .cmd hm rfl (fun p hp => by cases p <;> first | rfl | exact absurd rfl hp)
@[simp] theorem State.setCor_Only (n : Nat) (x : Core) (hm : Part.core ∈ L) (h : OnlyChanges L a s) : OnlyChanges L a (s.setCor n x) :=
  h.step .core hm rfl (fun p hp => by cases p <;> first | rfl | exact absurd rfl hp)
@[simp] theorem State.setSlot_Only (n t : Nat) (x : Slot) (hm : Part.core ∈ L) (h : OnlyChanges L a s) : OnlyChanges L a (s.setSlot n t x) :=
  h.step .core hm rfl (fun p hp => by cases p <;> first | rfl | exact absurd rfl hp)
@[simp] theorem State.setRed_Only (n m : Nat) (x : Reduction) (hm : Part.core ∈ L) (h : OnlyChanges L a s) : OnlyChanges L a (s.setRed n m x) :=
  h.step .core hm rfl (fun p hp => by cases p <;> first | rfl | exact absurd rfl hp)
@[simp] theorem State.setChan_Only (k : Nat) (x : Chan) (hm : Part.cnv ∈ L) (h : OnlyChanges L a s) : OnlyChanges L a (s.setChan k x) :=
  h.step .cnv hm rfl (fun p hp => by cases p <;> first | rfl | exact absurd rfl hp)
@[simp] theorem State.setInst_Only (k c : Nat) (x : Inst) (hm : Part.cnv ∈ L) (h : OnlyChanges L a s) : OnlyChanges L a (s.setInst k c x) :=
  h.step .cnv hm rfl (fun p hp => by cases p <;> first | rfl | exact absurd rfl hp)
@[simp] theorem State.setAct_Only (f : Nat) (x : ActFrame) (hm : Part.cnv ∈ L) (h : OnlyChanges L a s) : OnlyChanges L a (s.setAct f x) :=
  h.step .cnv hm rfl (fun p hp => by cases p <;> first | rfl | exact absurd rfl hp)
@[simp] theorem State.setBuoy_Only (k : Nat) (v : BitVec 31) (hm : Part.syn ∈ L) (h : OnlyChanges L a s) : OnlyChanges L a (s.setBuoy k v) :=
  h.step .syn hm rfl (fun p hp => by cases p <;> first | rfl | exact absurd rfl hp)
@[simp] theorem State.setQueue_Only (q : Nat) (x : Queue) (hm : Part.syn ∈ L) (h : OnlyChanges L a s) : OnlyChanges L a (s.setQueue q x) :=
  h.step .syn hm rfl (fun p hp => by cases p <;> first | rfl | exact absurd rfl hp)
@[simp] theorem State.setWriter_Only (d q : Nat) (x : Writer) (hm : Part.syn ∈ L) (h : OnlyChanges L a s) : OnlyChanges L a (s.setWriter d q x) :=
  h.step .syn hm rfl (fun p hp => by cases p <;> first | rfl | exact absurd rfl hp)
@[simp] theorem State.setLink_Only (l : Nat) (x : Link) (hm : Part.fab ∈ L) (h : OnlyChanges L a s) : OnlyChanges L a (s.setLink l x) :=
  h.step .fab hm rfl (fun p hp => by cases p <;> first | rfl | exact absurd rfl hp)
@[simp] theorem State.setE2e_Only (d v : Nat) (x : E2E) (hm : Part.fab ∈ L) (h : OnlyChanges L a s) : OnlyChanges L a (s.setE2e d v x) :=
  h.step .fab hm rfl (fun p hp => by cases p <;> first | rfl | exact absurd rfl hp)
@[simp] theorem State.setCirc_Only (c : Nat) (x : Circuit) (hm : Part.fab ∈ L) (h : OnlyChanges L a s) : OnlyChanges L a (s.setCirc c x) :=
  h.step .fab hm rfl (fun p hp => by cases p <;> first | rfl | exact absurd rfl hp)
@[simp] theorem State.setTimer_Only (n : Nat) (x : Timer) (hm : Part.tmr ∈ L) (h : OnlyChanges L a s) : OnlyChanges L a (s.setTimer n x) :=
  h.step .tmr hm rfl (fun p hp => by cases p <;> first | rfl | exact absurd rfl hp)
@[simp] theorem State.setSpace_Only (k : Nat) (x : Space) (hm : Part.eth ∈ L) (h : OnlyChanges L a s) : OnlyChanges L a (s.setSpace k x) :=
  h.step .eth hm rfl (fun p hp => by cases p <;> first | rfl | exact absurd rfl hp)
@[simp] theorem State.setUnits_Only (n t : Nat) (x : Nat × Nat) (hm : Part.core ∈ L) (h : OnlyChanges L a s) :
    OnlyChanges L a (s.setUnits n t x) :=
  h.step .core hm rfl (fun p hp => by cases p <;> first | rfl | exact absurd rfl hp)
@[simp] theorem State.setPages_Only (n k : Nat) (x : RingUse) (hm : Part.rtr ∈ L) (h : OnlyChanges L a s) :
    OnlyChanges L a (s.setPages n k x) :=
  h.step .rtr hm rfl (fun p hp => by cases p <;> first | rfl | exact absurd rfl hp)
@[simp] theorem State.setRing_Only (n k : Nat) (x : List Ev) (hm : Part.rtr ∈ L) (h : OnlyChanges L a s) : OnlyChanges L a (s.setRing n k x) :=
  h.step .rtr hm rfl (fun p hp => by cases p <;> first | rfl | exact absurd rfl hp)
@[simp] theorem State.rset_Only (k : Nat) (v : Word) (hm : Part.reg ∈ L) (h : OnlyChanges L a s) : OnlyChanges L a (s.rset k v) :=
  h.step .reg hm rfl (fun p hp => by cases p <;> first | rfl | exact absurd rfl hp)
@[simp] theorem State.setLive_Only (k : Nat) (v : Word) (hm : Part.reg ∈ L) (h : OnlyChanges L a s) : OnlyChanges L a (s.setLive k v) :=
  h.step .reg hm rfl (fun p hp => by cases p <;> first | rfl | exact absurd rfl hp)
@[simp] theorem State.setByte_Only (k : Nat) (v : Byte) (hm : Part.mem ∈ L) (h : OnlyChanges L a s) : OnlyChanges L a (s.setByte k v) :=
  h.step .mem hm rfl (fun p hp => by cases p <;> first | rfl | exact absurd rfl hp)
@[simp] theorem State.putBytes_Only (k : Nat) (v : List Byte) (hm : Part.mem ∈ L) (h : OnlyChanges L a s) : OnlyChanges L a (s.putBytes k v) :=
  h.step .mem hm rfl (fun p hp => by cases p <;> first | rfl | exact absurd rfl hp)
@[simp] theorem State.clearRange_Only (k n : Nat) (hm : Part.mem ∈ L) (h : OnlyChanges L a s) : OnlyChanges L a (s.clearRange k n) :=
  h.step .mem hm rfl (fun p hp => by cases p <;> first | rfl | exact absurd rfl hp)
@[simp] theorem State.send_Only (x : Out) (hm : Part.out ∈ L) (h : OnlyChanges L a s) : OnlyChanges L a (s.send x) :=
  h.step .out hm rfl (fun p hp => by cases p <;> first | rfl | exact absurd rfl hp)
@[simp] theorem State.sendAll_Only (x : List Out) (hm : Part.out ∈ L) (h : OnlyChanges L a s) : OnlyChanges L a (s.sendAll x) :=
  h.step .out hm rfl (fun p hp => by cases p <;> first | rfl | exact absurd rfl hp)

/-! ## An update of one unit -/

@[simp] theorem OnlyChanges.fuses_upd (x : Fuses) (hm : Part.fuses ∈ L) (h : OnlyChanges L a s) : OnlyChanges L a { s with fuses := x } :=
  h.step .fuses hm rfl (fun p hp => by cases p <;> first | rfl | exact absurd rfl hp)
@[simp] theorem OnlyChanges.reg_upd (x : RegFile) (hm : Part.reg ∈ L) (h : OnlyChanges L a s) : OnlyChanges L a { s with reg := x } :=
  h.step .reg hm rfl (fun p hp => by cases p <;> first | rfl | exact absurd rfl hp)
@[simp] theorem OnlyChanges.mem_upd (x : Memory) (hm : Part.mem ∈ L) (h : OnlyChanges L a s) : OnlyChanges L a { s with mem := x } :=
  h.step .mem hm rfl (fun p hp => by cases p <;> first | rfl | exact absurd rfl hp)
@[simp] theorem OnlyChanges.cmd_upd (x : CmdPlane) (hm : Part.cmd ∈ L) (h : OnlyChanges L a s) : OnlyChanges L a { s with cmd := x } :=
  h.step .cmd hm rfl (fun p hp => by cases p <;> first | rfl | exact absurd rfl hp)
@[simp] theorem OnlyChanges.core_upd (x : CorePlane) (hm : Part.core ∈ L) (h : OnlyChanges L a s) : OnlyChanges L a { s with core := x } :=
  h.step .core hm rfl (fun p hp => by cases p <;> first | rfl | exact absurd rfl hp)
@[simp] theorem OnlyChanges.rtr_upd (x : Router) (hm : Part.rtr ∈ L) (h : OnlyChanges L a s) : OnlyChanges L a { s with rtr := x } :=
  h.step .rtr hm rfl (fun p hp => by cases p <;> first | rfl | exact absurd rfl hp)
@[simp] theorem OnlyChanges.sys_upd (x : Sys) (hm : Part.sys ∈ L) (h : OnlyChanges L a s) : OnlyChanges L a { s with sys := x } :=
  h.step .sys hm rfl (fun p hp => by cases p <;> first | rfl | exact absurd rfl hp)
@[simp] theorem OnlyChanges.cnv_upd (x : Converters) (hm : Part.cnv ∈ L) (h : OnlyChanges L a s) : OnlyChanges L a { s with cnv := x } :=
  h.step .cnv hm rfl (fun p hp => by cases p <;> first | rfl | exact absurd rfl hp)
@[simp] theorem OnlyChanges.syn_upd (x : SyncUnit) (hm : Part.syn ∈ L) (h : OnlyChanges L a s) : OnlyChanges L a { s with syn := x } :=
  h.step .syn hm rfl (fun p hp => by cases p <;> first | rfl | exact absurd rfl hp)
@[simp] theorem OnlyChanges.fab_upd (x : Fabric) (hm : Part.fab ∈ L) (h : OnlyChanges L a s) : OnlyChanges L a { s with fab := x } :=
  h.step .fab hm rfl (fun p hp => by cases p <;> first | rfl | exact absurd rfl hp)
@[simp] theorem OnlyChanges.eth_upd (x : Ethernet) (hm : Part.eth ∈ L) (h : OnlyChanges L a s) : OnlyChanges L a { s with eth := x } :=
  h.step .eth hm rfl (fun p hp => by cases p <;> first | rfl | exact absurd rfl hp)
@[simp] theorem OnlyChanges.gov_upd (x : Governor) (hm : Part.gov ∈ L) (h : OnlyChanges L a s) : OnlyChanges L a { s with gov := x } :=
  h.step .gov hm rfl (fun p hp => by cases p <;> first | rfl | exact absurd rfl hp)
@[simp] theorem OnlyChanges.ltn_upd (x : Lantern) (hm : Part.ltn ∈ L) (h : OnlyChanges L a s) : OnlyChanges L a { s with ltn := x } :=
  h.step .ltn hm rfl (fun p hp => by cases p <;> first | rfl | exact absurd rfl hp)
@[simp] theorem OnlyChanges.kpr_upd (x : Keeper) (hm : Part.kpr ∈ L) (h : OnlyChanges L a s) : OnlyChanges L a { s with kpr := x } :=
  h.step .kpr hm rfl (fun p hp => by cases p <;> first | rfl | exact absurd rfl hp)
@[simp] theorem OnlyChanges.irq_upd (x : Irq) (hm : Part.irq ∈ L) (h : OnlyChanges L a s) : OnlyChanges L a { s with irq := x } :=
  h.step .irq hm rfl (fun p hp => by cases p <;> first | rfl | exact absurd rfl hp)
@[simp] theorem OnlyChanges.tmr_upd (x : TimeUnit) (hm : Part.tmr ∈ L) (h : OnlyChanges L a s) : OnlyChanges L a { s with tmr := x } :=
  h.step .tmr hm rfl (fun p hp => by cases p <;> first | rfl | exact absurd rfl hp)
@[simp] theorem OnlyChanges.sec_upd (x : Security) (hm : Part.sec ∈ L) (h : OnlyChanges L a s) : OnlyChanges L a { s with sec := x } :=
  h.step .sec hm rfl (fun p hp => by cases p <;> first | rfl | exact absurd rfl hp)
@[simp] theorem OnlyChanges.ptb_upd (x : List Held) (hm : Part.ptb ∈ L) (h : OnlyChanges L a s) : OnlyChanges L a { s with ptb := x } :=
  h.step .ptb hm rfl (fun p hp => by cases p <;> first | rfl | exact absurd rfl hp)
@[simp] theorem OnlyChanges.dead_upd (x : Option Fault) (hm : Part.dead ∈ L) (h : OnlyChanges L a s) : OnlyChanges L a { s with dead := x } :=
  h.step .dead hm rfl (fun p hp => by cases p <;> first | rfl | exact absurd rfl hp)
@[simp] theorem OnlyChanges.out_upd (x : List Out) (hm : Part.out ∈ L) (h : OnlyChanges L a s) : OnlyChanges L a { s with out := x } :=
  h.step .out hm rfl (fun p hp => by cases p <;> first | rfl | exact absurd rfl hp)
@[simp] theorem OnlyChanges.free_upd (x : Nat) (hm : Part.free ∈ L) (h : OnlyChanges L a s) : OnlyChanges L a { s with free := x } :=
  h.step .free hm rfl (fun p hp => by cases p <;> first | rfl | exact absurd rfl hp)

end Sys2Proof.Machine
end

