-- ==== Sys2Proof/Laws/Only/Ops.lean ====
section
/-! SUPPORT. Laws/Only/Ops.lean: what each operation of Machine/Ops.lean can do to the tables (its units). -/

namespace Sys2Proof.Machine

@[simp] theorem State.rmod_Only {L : List Part} {a0 : State} (s : State) (a : Nat) (f : Word → Word) (h_reg : Part.reg ∈ L) (hf : OnlyChanges L a0 s) :
    OnlyChanges L a0 (State.rmod s a f) := by
  unfold State.rmod; simp (maxDischargeDepth := 40) +contextual [*]
@[simp] theorem State.rsetField_Only {L : List Part} {a0 : State} (s : State) (a lo w v : Nat) (h_reg : Part.reg ∈ L) (hf : OnlyChanges L a0 s) :
    OnlyChanges L a0 (State.rsetField s a lo w v) := by
  unfold State.rsetField; simp (maxDischargeDepth := 40) +contextual [*]
@[simp] theorem State.rsetBit_Only {L : List Part} {a0 : State} (s : State) (a i : Nat) (b : Bool) (h_reg : Part.reg ∈ L) (hf : OnlyChanges L a0 s) :
    OnlyChanges L a0 (State.rsetBit s a i b) := by
  unfold State.rsetBit; simp (maxDischargeDepth := 40) +contextual [*]
@[simp] theorem State.satAdd_Only {L : List Part} {a0 : State} (s : State) (a lo w n : Nat) (h_reg : Part.reg ∈ L) (hf : OnlyChanges L a0 s) :
    OnlyChanges L a0 (State.satAdd s a lo w n) := by
  unfold State.satAdd; simp (maxDischargeDepth := 40) +contextual [*]
@[simp] theorem State.count_Only {L : List Part} {a0 : State} (s : State) (a n : Nat) (h_reg : Part.reg ∈ L) (hf : OnlyChanges L a0 s) :
    OnlyChanges L a0 (State.count s a n) := by
  unfold State.count; simp (maxDischargeDepth := 40) +contextual [*]
@[simp] theorem State.maxReg_Only {L : List Part} {a0 : State} (s : State) (a n : Nat) (h_reg : Part.reg ∈ L) (hf : OnlyChanges L a0 s) :
    OnlyChanges L a0 (State.maxReg s a n) := by
  unfold State.maxReg; simp (maxDischargeDepth := 40) +contextual [*]
@[simp] theorem State.longSet_Only {L : List Part} {a : State} (s : State) (lo n : Nat) (h_reg : Part.reg ∈ L) (hf : OnlyChanges L a s) :
    OnlyChanges L a (State.longSet s lo n) := by
  unfold State.longSet; simp (maxDischargeDepth := 40) +contextual [*]
@[simp] theorem State.longSat_Only {L : List Part} {a : State} (s : State) (lo n : Nat) (h_reg : Part.reg ∈ L) (hf : OnlyChanges L a s) :
    OnlyChanges L a (State.longSat s lo n) := by
  unfold State.longSat; simp (maxDischargeDepth := 40) +contextual [*]
@[simp] theorem State.longWrap_Only {L : List Part} {a : State} (s : State) (lo n : Nat) (h_reg : Part.reg ∈ L) (hf : OnlyChanges L a s) :
    OnlyChanges L a (State.longWrap s lo n).1 := by
  unfold State.longWrap; simp (maxDischargeDepth := 40) +contextual [*]
theorem State.longWrap_Only' {L : List Part} {a : State} (s : State) (lo n : Nat) (h_reg : Part.reg ∈ L) (hf : OnlyChanges L a s) {t0 : State} {y0 : Bool}
    (ht : State.longWrap s lo n = (t0, y0)) : OnlyChanges L a t0 := by
  have h0 := State.longWrap_Only (L := L) s lo n h_reg hf; rw [ht] at h0; exact h0
@[simp] theorem State.putLe_Only {L : List Part} {a : State} (s : State) (k n x : Nat) (h_mem : Part.mem ∈ L) (hf : OnlyChanges L a s) :
    OnlyChanges L a (State.putLe s k n x) := by
  unfold State.putLe; simp (maxDischargeDepth := 40) +contextual [*]

@[simp] theorem State.draw_Only {L : List Part} {a : State} (s : State) (h_free : Part.free ∈ L) (h : OnlyChanges L a s) :
    OnlyChanges L a s.draw.2 := OnlyChanges.free_upd _ h_free h
@[simp] theorem State.drawBytes_Only {L : List Part} {a : State} (s : State) (n : Nat) (h_free : Part.free ∈ L) (h : OnlyChanges L a s) :
    OnlyChanges L a (s.drawBytes n).2 := by
  induction n generalizing s with
  | zero => exact h
  | succ n ih => exact ih _ (State.draw_Only s h_free h)
@[simp] theorem State.countFree_Only {L : List Part} {a0 : State} (s : State) (a : Nat) (h_reg : Part.reg ∈ L) (h_free : Part.free ∈ L) (hf : OnlyChanges L a0 s) :
    OnlyChanges L a0 (State.countFree s a) := by
  unfold State.countFree; simp (maxDischargeDepth := 40) +contextual [*]
@[simp] theorem State.unitActs_Only {L : List Part} {a : State} (s : State) (c k n : Nat) (h_gov : Part.gov ∈ L) (hf : OnlyChanges L a s) :
    OnlyChanges L a (State.unitActs s c k n) := by
  unfold State.unitActs; simp (maxDischargeDepth := 40) +contextual [*]
@[simp] theorem State.hostPump_Only {L : List Part} {a : State} (s : State) (k : Nat) (h_eth : Part.eth ∈ L) (h_out : Part.out ∈ L) (hf : OnlyChanges L a s) :
    OnlyChanges L a (State.hostPump s k) := by
  unfold State.hostPump; simp (maxDischargeDepth := 40) +contextual [*]
@[simp] theorem State.hostFrames_Only {L : List Part} {a : State} (s : State) (sp dev stream n : Nat) (note : Bool) (h_eth : Part.eth ∈ L) (h_out : Part.out ∈ L) (hf : OnlyChanges L a s) :
    OnlyChanges L a (State.hostFrames s sp dev stream n note) := by
  unfold State.hostFrames; simp (maxDischargeDepth := 40) +contextual [*]
@[simp] theorem State.noticeOf_Only {L : List Part} {a : State} (s : State) (dev : BitVec 6) (kind : Byte) (body : List Byte) (h_eth : Part.eth ∈ L) (h_out : Part.out ∈ L) (hf : OnlyChanges L a s) :
    OnlyChanges L a (State.noticeOf s dev kind body) := by
  unfold State.noticeOf; simp (maxDischargeDepth := 40) +contextual [*]
@[simp] theorem State.notice_Only {L : List Part} {a : State} (s : State) (kind : Byte) (body : List Byte) (h_eth : Part.eth ∈ L) (h_out : Part.out ∈ L) (hf : OnlyChanges L a s) :
    OnlyChanges L a (State.notice s kind body) := by
  unfold State.notice; simp (maxDischargeDepth := 40) +contextual [*]
@[simp] theorem State.raise_Only {L : List Part} {a : State} (s : State) (n : Nat) (h_reg : Part.reg ∈ L) (h_eth : Part.eth ∈ L) (h_irq : Part.irq ∈ L) (h_out : Part.out ∈ L) (hf : OnlyChanges L a s) :
    OnlyChanges L a (State.raise s n) := by
  unfold State.raise; simp (maxDischargeDepth := 40) +contextual [*]
@[simp] theorem State.withdraw_Only {L : List Part} {a : State} (s : State) (n : Nat) (h_irq : Part.irq ∈ L) (hf : OnlyChanges L a s) :
    OnlyChanges L a (State.withdraw s n) := by
  unfold State.withdraw; simp (maxDischargeDepth := 40) +contextual [*]
@[simp] theorem State.countGranules_Only {L : List Part} {a0 : State} (s : State) (wr : Bool) (a n : Nat) (h_reg : Part.reg ∈ L) (h_eth : Part.eth ∈ L) (h_gov : Part.gov ∈ L) (h_irq : Part.irq ∈ L) (h_out : Part.out ∈ L) (hf : OnlyChanges L a0 s) :
    OnlyChanges L a0 (State.countGranules s wr a n) := by
  unfold State.countGranules; simp (maxDischargeDepth := 40) +contextual [*]
@[simp] theorem State.moved_Only {L : List Part} {a0 : State} (s : State) (wr : Bool) (a n : Nat) (h_reg : Part.reg ∈ L) (h_eth : Part.eth ∈ L) (h_gov : Part.gov ∈ L) (h_irq : Part.irq ∈ L) (h_out : Part.out ∈ L) (hf : OnlyChanges L a0 s) :
    OnlyChanges L a0 (State.moved s wr a n) := by
  unfold State.moved; simp (maxDischargeDepth := 40) +contextual [*]

end Sys2Proof.Machine
end

