-- ==== Sys2Proof/Laws/Only/Num.lean ====
section
/-! SUPPORT. Laws/Only/Num.lean: what each operation of Machine/Num.lean can do to the tables (its units). -/

namespace Sys2Proof.Machine



end Sys2Proof.Machine
end

