-- ==== Sys2Proof/Laws/Only/Flags.lean ====
section
/-! SUPPORT. Laws/Only/Flags.lean: what each operation of Machine/Flags.lean can do to the tables (its units). -/

namespace Sys2Proof.Machine

@[simp] theorem State.stepStatus_Only {L : List Part} {a : State} (s : State) (b : Nat) (st : Byte) (h_cmd : Part.cmd ∈ L) (hf : OnlyChanges L a s) :
    OnlyChanges L a (State.stepStatus s b st) := by
  unfold State.stepStatus; simp only []; (repeat' (first | exact hf | (refine OnlyChanges.forAll ?_ _ ?_; intro s x h) | split)) <;> simp_all (maxDischargeDepth := 40) +contextual
@[simp] theorem State.raiseCore_Only {L : List Part} {a : State} (s : State) (n : Nat) (h_reg : Part.reg ∈ L) (h_eth : Part.eth ∈ L) (h_irq : Part.irq ∈ L) (h_out : Part.out ∈ L) (hf : OnlyChanges L a s) :
    OnlyChanges L a (State.raiseCore s n) := by
  unfold State.raiseCore; simp (maxDischargeDepth := 40) +contextual [*]
@[simp] theorem State.raiseSlice_Only {L : List Part} {a : State} (s : State) (k : Nat) (h_reg : Part.reg ∈ L) (h_eth : Part.eth ∈ L) (h_irq : Part.irq ∈ L) (h_out : Part.out ∈ L) (hf : OnlyChanges L a s) :
    OnlyChanges L a (State.raiseSlice s k) := by
  unfold State.raiseSlice; simp (maxDischargeDepth := 40) +contextual [*]

end Sys2Proof.Machine
end

