-- ==== Sys2Proof/Laws/Only/Perturb.lean ====
section
/-! SUPPORT. Laws/Only/Perturb.lean: what each operation of Machine/Perturb.lean can do to the tables (its units). -/

namespace Sys2Proof.Machine

@[simp] theorem State.ptbUpdate_Only {L : List Part} {a : State} (s : State) (h_reg : Part.reg ∈ L) (hf : OnlyChanges L a s) :
    OnlyChanges L a (State.ptbUpdate s) := by
  unfold State.ptbUpdate; simp (maxDischargeDepth := 40) +contextual [*]
@[simp] theorem State.ptbHold_Only {L : List Part} {a : State} (s : State) (h : Held) (h_reg : Part.reg ∈ L) (h_ptb : Part.ptb ∈ L) (hf : OnlyChanges L a s) :
    OnlyChanges L a (State.ptbHold s h) := by
  unfold State.ptbHold; simp (maxDischargeDepth := 40) +contextual [*]
@[simp] theorem State.hbmBurst_Only {L : List Part} {a : State} (s : State) (h_reg : Part.reg ∈ L) (h_ptb : Part.ptb ∈ L) (hf : OnlyChanges L a s) :
    OnlyChanges L a (State.hbmBurst s) := by
  unfold State.hbmBurst; simp (maxDischargeDepth := 40) +contextual [*]

end Sys2Proof.Machine
end

