-- ==== Sys2Proof/Laws/Only/Egress.lean ====
section
/-! SUPPORT. Laws/Only/Egress.lean: what each operation of Machine/Egress.lean can do to the tables (its units). -/

namespace Sys2Proof.Machine

@[simp] theorem State.onLink_Only {L : List Part} {a : State} (s : State) (l : Nat) (lseq : BitVec 12) (p : FabPkt) (h_reg : Part.reg ∈ L) (h_ptb : Part.ptb ∈ L) (h_out : Part.out ∈ L) (hf : OnlyChanges L a s) :
    OnlyChanges L a (State.onLink s l lseq p) := by
  unfold State.onLink; simp (maxDischargeDepth := 40) +contextual [*]
@[simp] theorem State.linkSend_Only {L : List Part} {a : State} (s : State) (l : Nat) (p : FabPkt) (h_reg : Part.reg ∈ L) (h_fab : Part.fab ∈ L) (h_gov : Part.gov ∈ L) (h_ptb : Part.ptb ∈ L) (h_out : Part.out ∈ L) (hf : OnlyChanges L a s) :
    OnlyChanges L a (State.linkSend s l p) := by
  unfold State.linkSend; simp (maxDischargeDepth := 40) +contextual [*]
@[simp] theorem State.sendCredit_Only {L : List Part} {a : State} (s : State) (l vc cls units : Nat) (h_reg : Part.reg ∈ L) (h_fab : Part.fab ∈ L) (h_gov : Part.gov ∈ L) (h_ptb : Part.ptb ∈ L) (h_out : Part.out ∈ L) (hf : OnlyChanges L a s) :
    OnlyChanges L a (State.sendCredit s l vc cls units) := by
  unfold State.sendCredit; simp (maxDischargeDepth := 40) +contextual [*]
@[simp] theorem State.linkCreditBack_Only {L : List Part} {a : State} (s : State) (l cls : Nat) (p : FabPkt) (h_reg : Part.reg ∈ L) (h_fab : Part.fab ∈ L) (h_gov : Part.gov ∈ L) (h_ptb : Part.ptb ∈ L) (h_out : Part.out ∈ L) (hf : OnlyChanges L a s) :
    OnlyChanges L a (State.linkCreditBack s l cls p) := by
  unfold State.linkCreditBack; simp (maxDischargeDepth := 40) +contextual [*]
@[simp] theorem State.leavesBuffer_Only {L : List Part} {a : State} (s : State) (p : FabPkt) (h_reg : Part.reg ∈ L) (h_fab : Part.fab ∈ L) (h_gov : Part.gov ∈ L) (h_ptb : Part.ptb ∈ L) (h_out : Part.out ∈ L) (hf : OnlyChanges L a s) :
    OnlyChanges L a (State.leavesBuffer s p) := by
  unfold State.leavesBuffer; (repeat' split) <;> simp (maxDischargeDepth := 40) +contextual [*]
@[simp] theorem State.drainLink_Only {L : List Part} {a : State} (n : Nat) (s : State) (l : Nat) (h_reg : Part.reg ∈ L) (h_fab : Part.fab ∈ L) (h_gov : Part.gov ∈ L) (h_ptb : Part.ptb ∈ L) (h_out : Part.out ∈ L) (hf : OnlyChanges L a s) :
    OnlyChanges L a (State.drainLink n s l) := by
  induction n generalizing s with
  | zero => exact hf
  | succ n ih =>
    simp only [State.drainLink]
    split
    · exact hf
    · exact ih _ (by simp (maxDischargeDepth := 40) +contextual [*])
@[simp] theorem State.linkQueue_Only {L : List Part} {a : State} (s : State) (l : Nat) (p : FabPkt) (h_reg : Part.reg ∈ L) (h_fab : Part.fab ∈ L) (h_gov : Part.gov ∈ L) (h_ptb : Part.ptb ∈ L) (h_out : Part.out ∈ L) (hf : OnlyChanges L a s) :
    OnlyChanges L a (State.linkQueue s l p) := by
  unfold State.linkQueue; simp (maxDischargeDepth := 40) +contextual [*]
@[simp] theorem State.lossFlag_Only {L : List Part} {a : State} (s : State) (dev : Nat) (part : Bool) (h_reg : Part.reg ∈ L) (h_eth : Part.eth ∈ L) (h_irq : Part.irq ∈ L) (h_out : Part.out ∈ L) (hf : OnlyChanges L a s) :
    OnlyChanges L a (State.lossFlag s dev part) := by
  unfold State.lossFlag; simp only []; (repeat' (first | exact hf | (refine OnlyChanges.forAll ?_ _ ?_; intro s x h) | split)) <;> simp_all (maxDischargeDepth := 40) +contextual
@[simp] theorem State.cutOff_Only {L : List Part} {a : State} (s : State) (p : FabPkt) (h_reg : Part.reg ∈ L) (h_fab : Part.fab ∈ L) (h_eth : Part.eth ∈ L) (h_gov : Part.gov ∈ L) (h_irq : Part.irq ∈ L) (h_ptb : Part.ptb ∈ L) (h_out : Part.out ∈ L) (hf : OnlyChanges L a s) :
    OnlyChanges L a (State.cutOff s p) := by
  unfold State.cutOff; simp (maxDischargeDepth := 40) +contextual [*]
@[simp] theorem State.routeOut_Only {L : List Part} {a : State} (s : State) (p : FabPkt) (h_reg : Part.reg ∈ L) (h_fab : Part.fab ∈ L) (h_eth : Part.eth ∈ L) (h_gov : Part.gov ∈ L) (h_irq : Part.irq ∈ L) (h_ptb : Part.ptb ∈ L) (h_out : Part.out ∈ L) (hf : OnlyChanges L a s) :
    OnlyChanges L a (State.routeOut s p) := by
  unfold State.routeOut; (repeat' split) <;> simp (maxDischargeDepth := 40) +contextual [*]
@[simp] theorem State.e2eSend_Only {L : List Part} {a : State} (s : State) (p : FabPkt) (h_reg : Part.reg ∈ L) (h_fab : Part.fab ∈ L) (h_eth : Part.eth ∈ L) (h_gov : Part.gov ∈ L) (h_irq : Part.irq ∈ L) (h_ptb : Part.ptb ∈ L) (h_out : Part.out ∈ L) (hf : OnlyChanges L a s) :
    OnlyChanges L a (State.e2eSend s p) := by
  unfold State.e2eSend; simp (maxDischargeDepth := 40) +contextual [*]
@[simp] theorem State.toFabric_Only {L : List Part} {a : State} (s : State) (p : FabPkt) (h_reg : Part.reg ∈ L) (h_fab : Part.fab ∈ L) (h_eth : Part.eth ∈ L) (h_gov : Part.gov ∈ L) (h_irq : Part.irq ∈ L) (h_ptb : Part.ptb ∈ L) (h_out : Part.out ∈ L) (h_free : Part.free ∈ L) (hf : OnlyChanges L a s) :
    OnlyChanges L a (State.toFabric s p) := by
  unfold State.toFabric; simp (maxDischargeDepth := 40) +contextual [*]
@[simp] theorem State.toDevice_Only {L : List Part} {a : State} (s : State) (dev type unit : Nat) (o : Out) (h_reg : Part.reg ∈ L) (h_fab : Part.fab ∈ L) (h_eth : Part.eth ∈ L) (h_gov : Part.gov ∈ L) (h_irq : Part.irq ∈ L) (h_ptb : Part.ptb ∈ L) (h_out : Part.out ∈ L) (h_free : Part.free ∈ L) (hf : OnlyChanges L a s) :
    OnlyChanges L a (State.toDevice s dev type unit o) := by
  unfold State.toDevice; simp (maxDischargeDepth := 40) +contextual [*]
@[simp] theorem State.toHost_Only {L : List Part} {a : State} (s : State) (sp stream n : Nat) (o : Out) (h_reg : Part.reg ∈ L) (h_fab : Part.fab ∈ L) (h_eth : Part.eth ∈ L) (h_gov : Part.gov ∈ L) (h_irq : Part.irq ∈ L) (h_ptb : Part.ptb ∈ L) (h_out : Part.out ∈ L) (h_free : Part.free ∈ L) (hf : OnlyChanges L a s) :
    OnlyChanges L a (State.toHost s sp stream n o) := by
  unfold State.toHost; simp (maxDischargeDepth := 40) +contextual [*]
@[simp] theorem State.toDevices_Only {L : List Part} {a : State} (s : State) (l : List Nat) (type unit : Nat) (o : Out) (h_reg : Part.reg ∈ L) (h_fab : Part.fab ∈ L) (h_eth : Part.eth ∈ L) (h_gov : Part.gov ∈ L) (h_irq : Part.irq ∈ L) (h_ptb : Part.ptb ∈ L) (h_out : Part.out ∈ L) (h_free : Part.free ∈ L) (hf : OnlyChanges L a s) :
    OnlyChanges L a (State.toDevices s l type unit o) := by
  unfold State.toDevices; simp (maxDischargeDepth := 40) +contextual [*]
@[simp] theorem State.bulkOut_Only {L : List Part} {a : State} (n : Nat) (s : State) (b dev : Nat) (tag : Option (Nat × BitVec 18)) (l : List Byte) (h_reg : Part.reg ∈ L) (h_fab : Part.fab ∈ L) (h_eth : Part.eth ∈ L) (h_gov : Part.gov ∈ L) (h_irq : Part.irq ∈ L) (h_ptb : Part.ptb ∈ L) (h_out : Part.out ∈ L) (h_free : Part.free ∈ L) (hf : OnlyChanges L a s) :
    OnlyChanges L a (State.bulkOut n s b dev tag l) := by
  induction n generalizing s l with
  | zero => exact hf
  | succ n ih =>
    simp only [State.bulkOut]
    split
    · exact hf
    · exact ih _ _ (by simp (maxDischargeDepth := 40) +contextual [*])
@[simp] theorem State.toMemory_Only {L : List Part} {a : State} (s : State) (b dev : Nat) (dst : Word64) (l : List Byte) (h_reg : Part.reg ∈ L) (h_fab : Part.fab ∈ L) (h_eth : Part.eth ∈ L) (h_gov : Part.gov ∈ L) (h_irq : Part.irq ∈ L) (h_ptb : Part.ptb ∈ L) (h_out : Part.out ∈ L) (h_free : Part.free ∈ L) (hf : OnlyChanges L a s) :
    OnlyChanges L a (State.toMemory s b dev dst l) := by
  unfold State.toMemory; simp (maxDischargeDepth := 40) +contextual [*]
@[simp] theorem State.circOut_Only {L : List Part} {a : State} (n : Nat) (s : State) (c : Nat) (k : BitVec 18) (l : List Byte) (h_reg : Part.reg ∈ L) (h_fab : Part.fab ∈ L) (h_gov : Part.gov ∈ L) (h_ptb : Part.ptb ∈ L) (h_out : Part.out ∈ L) (hf : OnlyChanges L a s) :
    OnlyChanges L a (State.circOut n s c k l) := by
  induction n generalizing s l with
  | zero => exact hf
  | succ n ih =>
    simp only [State.circOut]
    split
    · exact hf
    · exact ih _ _ (by simp (maxDischargeDepth := 40) +contextual [*])
@[simp] theorem State.chunkOut_Only {L : List Part} {a : State} (s : State) (c : Nat) (flow : Word64) (x : BitVec 18 × Word64 × List Byte) (h_reg : Part.reg ∈ L) (h_fab : Part.fab ∈ L) (h_eth : Part.eth ∈ L) (h_gov : Part.gov ∈ L) (h_irq : Part.irq ∈ L) (h_ptb : Part.ptb ∈ L) (h_out : Part.out ∈ L) (h_free : Part.free ∈ L) (hf : OnlyChanges L a s) :
    OnlyChanges L a (State.chunkOut s c flow x) := by
  unfold State.chunkOut; simp (maxDischargeDepth := 40) +contextual [*]
@[simp] theorem State.sendFlow_Only {L : List Part} {a : State} (s : State) (c : Nat) (h_reg : Part.reg ∈ L) (h_fab : Part.fab ∈ L) (h_eth : Part.eth ∈ L) (h_gov : Part.gov ∈ L) (h_irq : Part.irq ∈ L) (h_ptb : Part.ptb ∈ L) (h_out : Part.out ∈ L) (h_free : Part.free ∈ L) (hf : OnlyChanges L a s) :
    OnlyChanges L a (State.sendFlow s c) := by
  unfold State.sendFlow; (repeat' split) <;> simp (maxDischargeDepth := 40) +contextual [*]
@[simp] theorem State.kickCirc_Only {L : List Part} {a : State} (s : State) (c : Nat) (h_reg : Part.reg ∈ L) (h_fab : Part.fab ∈ L) (h_eth : Part.eth ∈ L) (h_gov : Part.gov ∈ L) (h_irq : Part.irq ∈ L) (h_ptb : Part.ptb ∈ L) (h_out : Part.out ∈ L) (h_free : Part.free ∈ L) (hf : OnlyChanges L a s) :
    OnlyChanges L a (State.kickCirc s c) := by
  unfold State.kickCirc; (repeat' split) <;> simp (maxDischargeDepth := 40) +contextual [*]
@[simp] theorem State.kickCircs_Only {L : List Part} {a : State} (s : State) (h_reg : Part.reg ∈ L) (h_fab : Part.fab ∈ L) (h_eth : Part.eth ∈ L) (h_gov : Part.gov ∈ L) (h_irq : Part.irq ∈ L) (h_ptb : Part.ptb ∈ L) (h_out : Part.out ∈ L) (h_free : Part.free ∈ L) (hf : OnlyChanges L a s) :
    OnlyChanges L a (State.kickCircs s) := by
  unfold State.kickCircs; simp (maxDischargeDepth := 40) +contextual [*]
@[simp] theorem State.addFlow_Only {L : List Part} {a : State} (s : State) (c : Nat) (f : Flow) (h_reg : Part.reg ∈ L) (h_fab : Part.fab ∈ L) (h_eth : Part.eth ∈ L) (h_gov : Part.gov ∈ L) (h_irq : Part.irq ∈ L) (h_ptb : Part.ptb ∈ L) (h_out : Part.out ∈ L) (h_free : Part.free ∈ L) (hf : OnlyChanges L a s) :
    OnlyChanges L a (State.addFlow s c f) := by
  unfold State.addFlow; simp (maxDischargeDepth := 40) +contextual [*]

end Sys2Proof.Machine
end

