-- ==== Sys2Proof/Laws/Only/Operands.lean ====
section
/-! SUPPORT. Laws/Only/Operands.lean: what each operation of Machine/Operands.lean can do to the tables (its units). -/

namespace Sys2Proof.Machine



end Sys2Proof.Machine
end

