-- ==== Sys2Proof/Laws/Only/Neuron.lean ====
section
/-! SUPPORT. Laws/Only/Neuron.lean: what each operation of Machine/Neuron.lean can do to the tables (its units). -/

namespace Sys2Proof.Machine

@[simp] theorem State.runLanes_Only {L : List Part} {a : State} (s : State) (n : Nat) (f : Slot → Ctx → Lane → Lane × NFlags) (h_reg : Part.reg ∈ L) (h_core : Part.core ∈ L) (hf : OnlyChanges L a s) :
    OnlyChanges L a (State.runLanes s n f) := by
  unfold State.runLanes; simp (maxDischargeDepth := 40) +contextual [*]
@[simp] theorem State.phase2End_Only {L : List Part} {a : State} (s : State) (n : Nat) (h_reg : Part.reg ∈ L) (h_core : Part.core ∈ L) (hf : OnlyChanges L a s) :
    OnlyChanges L a (State.phase2End s n) := by
  unfold State.phase2End; simp (maxDischargeDepth := 40) +contextual [*]
@[simp] theorem State.startGroup_Only {L : List Part} {a : State} (s : State) (n : Nat) (h_reg : Part.reg ∈ L) (h_cmd : Part.cmd ∈ L) (h_core : Part.core ∈ L) (h_eth : Part.eth ∈ L) (h_gov : Part.gov ∈ L) (h_irq : Part.irq ∈ L) (h_out : Part.out ∈ L) (hf : OnlyChanges L a s) :
    OnlyChanges L a (State.startGroup s n) := by
  unfold State.startGroup; (repeat' split) <;> simp (maxDischargeDepth := 40) +contextual [*]
@[simp] theorem State.endLane_Only {L : List Part} {a : State} (s : State) (t : Slot) (l : Lane) (h_mem : Part.mem ∈ L) (hf : OnlyChanges L a s) :
    OnlyChanges L a (State.endLane s t l) := by
  unfold State.endLane; simp (maxDischargeDepth := 40) +contextual [*]
@[simp] theorem State.endGroup_Only {L : List Part} {a : State} (s : State) (n : Nat) (h_reg : Part.reg ∈ L) (h_mem : Part.mem ∈ L) (h_core : Part.core ∈ L) (hf : OnlyChanges L a s) :
    OnlyChanges L a (State.endGroup s n) := by
  unfold State.endGroup; simp (maxDischargeDepth := 40) +contextual [*]

end Sys2Proof.Machine
end

