-- ==== Sys2Proof/Laws/Only/Formats.lean ====
section
/-! SUPPORT. Laws/Only/Formats.lean: what each operation of Machine/Formats.lean can do to the tables (its units). -/

namespace Sys2Proof.Machine

@[simp] theorem State.countConv_Only {L : List Part} {a : State} (s : State) (n : Nat) (c : Conv) (h_reg : Part.reg ∈ L) (hf : OnlyChanges L a s) :
    OnlyChanges L a (State.countConv s n c) := by
  unfold State.countConv; simp (maxDischargeDepth := 40) +contextual [*]
@[simp] theorem State.countBads_Only {L : List Part} {a : State} (s : State) (n k : Nat) (h_reg : Part.reg ∈ L) (h_eth : Part.eth ∈ L) (h_irq : Part.irq ∈ L) (h_out : Part.out ∈ L) (hf : OnlyChanges L a s) :
    OnlyChanges L a (State.countBads s n k) := by
  unfold State.countBads; simp (maxDischargeDepth := 40) +contextual [*]

end Sys2Proof.Machine
end

