-- ==== Sys2Proof/Laws/Only/Streams.lean ====
section
/-! SUPPORT. Laws/Only/Streams.lean: what each operation of Machine/Streams.lean can do to the tables (its units). -/

namespace Sys2Proof.Machine

@[simp] theorem State.record_Only {L : List Part} {a : State} (s : State) (h : Hdr) (cseq : Word64) (op st : Byte) (res : Nat) (h_cmd : Part.cmd ∈ L) (hf : OnlyChanges L a s) :
    OnlyChanges L a (State.record s h cseq op st res) := by
  unfold State.record; simp (maxDischargeDepth := 40) +contextual [*]
@[simp] theorem State.complete_Only {L : List Part} {a : State} (s : State) (h : Hdr) (cseq : Word64) (op st : Byte) (res : Nat) (h_reg : Part.reg ∈ L) (h_cmd : Part.cmd ∈ L) (h_eth : Part.eth ∈ L) (h_irq : Part.irq ∈ L) (h_out : Part.out ∈ L) (hf : OnlyChanges L a s) :
    OnlyChanges L a (State.complete s h cseq op st res) := by
  unfold State.complete; simp (maxDischargeDepth := 40) +contextual [*]
@[simp] theorem State.outstanding_Only {L : List Part} {a : State} (s : State) (h : Hdr) (cseq : Word64) (op : Byte) (arg : Nat) (h_cmd : Part.cmd ∈ L) (hf : OnlyChanges L a s) :
    OnlyChanges L a (State.outstanding s h cseq op arg) := by
  unfold State.outstanding; simp (maxDischargeDepth := 40) +contextual [*]
@[simp] theorem State.finish_Only {L : List Part} {a : State} (s : State) (h : Hdr) (cseq : Word64) (op st : Byte) (res : Nat) (h_reg : Part.reg ∈ L) (h_cmd : Part.cmd ∈ L) (h_eth : Part.eth ∈ L) (h_irq : Part.irq ∈ L) (h_out : Part.out ∈ L) (hf : OnlyChanges L a s) :
    OnlyChanges L a (State.finish s h cseq op st res) := by
  unfold State.finish; simp (maxDischargeDepth := 40) +contextual [*]
@[simp] theorem State.freezeNotice_Only {L : List Part} {a : State} (s : State) (kind b num : Nat) (cause op : Byte) (tail : Nat) (h_eth : Part.eth ∈ L) (h_out : Part.out ∈ L) (hf : OnlyChanges L a s) :
    OnlyChanges L a (State.freezeNotice s kind b num cause op tail) := by
  unfold State.freezeNotice; simp (maxDischargeDepth := 40) +contextual [*]
@[simp] theorem State.completeAll_Only {L : List Part} {a : State} (s : State) (q : List StepCmd) (l : List Outst) (st : Byte) (h_reg : Part.reg ∈ L) (h_cmd : Part.cmd ∈ L) (h_eth : Part.eth ∈ L) (h_irq : Part.irq ∈ L) (h_out : Part.out ∈ L) (hf : OnlyChanges L a s) :
    OnlyChanges L a (State.completeAll s q l st) := by
  unfold State.completeAll; simp (maxDischargeDepth := 40) +contextual [*]
@[simp] theorem State.completeHeld_Only {L : List Part} {a : State} (s : State) (l : List (Word64 × Instr)) (st : Byte) (h_reg : Part.reg ∈ L) (h_cmd : Part.cmd ∈ L) (h_eth : Part.eth ∈ L) (h_irq : Part.irq ∈ L) (h_out : Part.out ∈ L) (hf : OnlyChanges L a s) :
    OnlyChanges L a (State.completeHeld s l st) := by
  unfold State.completeHeld; (try dsimp only); repeat' (first | exact hf | assumption | split | with_reducible apply State.forAll_Only | with_reducible apply State.complete_Only | (with_reducible apply OnlyChanges.forAll; intros) | (with_reducible apply OnlyChanges.fold; intros) | (with_reducible apply OnlyChanges.fold1; intros) | simp only [OptOnly_none, OptOnly_some] | with_reducible apply OptOnly_getD | (simp [*]; done))
@[simp] theorem State.cancelWaits_Only {L : List Part} {a : State} (s : State) (n : BitVec 8) (l : List Outst) (h_reg : Part.reg ∈ L) (h_syn : Part.syn ∈ L) (h_fab : Part.fab ∈ L) (h_eth : Part.eth ∈ L) (h_gov : Part.gov ∈ L) (h_irq : Part.irq ∈ L) (h_ptb : Part.ptb ∈ L) (h_out : Part.out ∈ L) (h_free : Part.free ∈ L) (hf : OnlyChanges L a s) :
    OnlyChanges L a (State.cancelWaits s n l) := by
  unfold State.cancelWaits; simp (maxDischargeDepth := 40) +contextual [*]
@[simp] theorem State.freezeBase_Only {L : List Part} {a : State} (s : State) (n : BitVec 8) (cause op : Byte) (cseq : Word64) (h_reg : Part.reg ∈ L) (h_cmd : Part.cmd ∈ L) (h_syn : Part.syn ∈ L) (h_fab : Part.fab ∈ L) (h_eth : Part.eth ∈ L) (h_gov : Part.gov ∈ L) (h_irq : Part.irq ∈ L) (h_ptb : Part.ptb ∈ L) (h_out : Part.out ∈ L) (h_free : Part.free ∈ L) (hf : OnlyChanges L a s) :
    OnlyChanges L a (State.freezeBase s n cause op cseq) := by
  unfold State.freezeBase; simp (maxDischargeDepth := 40) +contextual [*]
@[simp] theorem State.freezeCore_Only {L : List Part} {a : State} (s : State) (n sysNum : Nat) (h_reg : Part.reg ∈ L) (h_cmd : Part.cmd ∈ L) (h_core : Part.core ∈ L) (h_eth : Part.eth ∈ L) (h_irq : Part.irq ∈ L) (h_out : Part.out ∈ L) (hf : OnlyChanges L a s) :
    OnlyChanges L a (State.freezeCore s n sysNum) := by
  unfold State.freezeCore; simp (maxDischargeDepth := 40) +contextual [*]
@[simp] theorem State.freezeChan_Only {L : List Part} {a : State} (s : State) (k : Nat) (h_reg : Part.reg ∈ L) (h_cnv : Part.cnv ∈ L) (h_eth : Part.eth ∈ L) (h_irq : Part.irq ∈ L) (h_out : Part.out ∈ L) (hf : OnlyChanges L a s) :
    OnlyChanges L a (State.freezeChan s k) := by
  unfold State.freezeChan; simp (maxDischargeDepth := 40) +contextual [*]

end Sys2Proof.Machine
end

