-- ==== Sys2Proof/Laws/Only/Channels.lean ====
section
/-! SUPPORT. Laws/Only/Channels.lean: what each operation of Machine/Channels.lean can do to the tables (its units). -/

namespace Sys2Proof.Machine

@[simp] theorem State.readInsts_Only {L : List Part} {a0 : State} (s : State) (a : Nat) (l : List Byte) (h_free : Part.free ∈ L) (hf : OnlyChanges L a0 s) :
    OnlyChanges L a0 (State.readInsts s a l).2 := by
  unfold State.readInsts; simp only []; (repeat' (first | exact hf | (refine OnlyChanges.forAll ?_ _ ?_; intro s x h) | split)) <;> simp_all (maxDischargeDepth := 40) +contextual
theorem State.readInsts_Only' {L : List Part} {a0 : State} (s : State) (a : Nat) (l : List Byte) (h_free : Part.free ∈ L) (hf : OnlyChanges L a0 s) {t0 : State} {y0 : List Byte}
    (ht : State.readInsts s a l = (y0, t0)) : OnlyChanges L a0 t0 := by
  have h0 := State.readInsts_Only (L := L) s a l h_free hf; rw [ht] at h0; exact h0
@[simp] theorem State.writeInsts_Only {L : List Part} {a0 : State} (s : State) (a n : Nat) (h_cnv : Part.cnv ∈ L) (h_free : Part.free ∈ L) (hf : OnlyChanges L a0 s) :
    OnlyChanges L a0 (State.writeInsts s a n) := by
  unfold State.writeInsts; simp (maxDischargeDepth := 40) +contextual [*]
@[simp] theorem State.clearInstsAt_Only {L : List Part} {a0 : State} (s : State) (a n : Nat) (h_cnv : Part.cnv ∈ L) (h_out : Part.out ∈ L) (hf : OnlyChanges L a0 s) :
    OnlyChanges L a0 (State.clearInstsAt s a n) := by
  unfold State.clearInstsAt; simp (maxDischargeDepth := 40) +contextual [*]
@[simp] theorem State.chanNote_Only {L : List Part} {a : State} (s : State) (ctr : Nat) (bit : Option Nat) (h cidx : Nat) (h_reg : Part.reg ∈ L) (hf : OnlyChanges L a s) :
    OnlyChanges L a (State.chanNote s ctr bit h cidx) := by
  unfold State.chanNote; (repeat' split) <;> simp (maxDischargeDepth := 40) +contextual [*]
@[simp] theorem State.chanOps_Only {L : List Part} {a : State} (s : State) (n : Nat) (h_reg : Part.reg ∈ L) (h_eth : Part.eth ∈ L) (h_gov : Part.gov ∈ L) (h_irq : Part.irq ∈ L) (h_out : Part.out ∈ L) (hf : OnlyChanges L a s) :
    OnlyChanges L a (State.chanOps s n) := by
  unfold State.chanOps; simp (maxDischargeDepth := 40) +contextual [*]
@[simp] theorem State.chanBads_Only {L : List Part} {a : State} (s : State) (h cidx k : Nat) (h_reg : Part.reg ∈ L) (h_eth : Part.eth ∈ L) (h_irq : Part.irq ∈ L) (h_out : Part.out ∈ L) (hf : OnlyChanges L a s) :
    OnlyChanges L a (State.chanBads s h cidx k) := by
  unfold State.chanBads; simp (maxDischargeDepth := 40) +contextual [*]
@[simp] theorem State.chanConv_Only {L : List Part} {a : State} (s : State) (b : Nat) (carried : Bool) (c : Conv) (h_reg : Part.reg ∈ L) (h_cmd : Part.cmd ∈ L) (h_gov : Part.gov ∈ L) (hf : OnlyChanges L a s) :
    OnlyChanges L a (State.chanConv s b carried c) := by
  unfold State.chanConv; simp (maxDischargeDepth := 40) +contextual [*]
@[simp] theorem State.levels_Only {L : List Part} {a : State} (s : State) (h cidx : Nat) (scales : Option (List Nat × List Nat)) (zin : Int) (row : List Byte) (h_reg : Part.reg ∈ L) (h_cmd : Part.cmd ∈ L) (h_eth : Part.eth ∈ L) (h_gov : Part.gov ∈ L) (h_irq : Part.irq ∈ L) (h_out : Part.out ∈ L) (hf : OnlyChanges L a s) :
    OnlyChanges L a (State.levels s h cidx scales zin row).2.2 := by
  unfold State.levels; simp only []; (repeat' (first | exact hf | (refine OnlyChanges.forAll ?_ _ ?_; intro s x h) | split)) <;> simp_all (maxDischargeDepth := 40) +contextual
theorem State.levels_Only' {L : List Part} {a : State} (s : State) (h cidx : Nat) (scales : Option (List Nat × List Nat)) (zin : Int) (row : List Byte) (h_reg : Part.reg ∈ L) (h_cmd : Part.cmd ∈ L) (h_eth : Part.eth ∈ L) (h_gov : Part.gov ∈ L) (h_irq : Part.irq ∈ L) (h_out : Part.out ∈ L) (hf : OnlyChanges L a s) {t0 : State} {y0 : List Nat} {z0 : Option (List Nat × List Nat)}
    (ht : State.levels s h cidx scales zin row = (y0, z0, t0)) : OnlyChanges L a t0 := by
  have h0 := State.levels_Only (L := L) s h cidx scales zin row h_reg h_cmd h_eth h_gov h_irq h_out hf; rw [ht] at h0; exact h0

end Sys2Proof.Machine
end

