-- ==== Sys2Proof/Laws/Only/Synapse.lean ====
section
/-! SUPPORT. Laws/Only/Synapse.lean: what each operation of Machine/Synapse.lean can do to the tables (its units). -/

namespace Sys2Proof.Machine

@[simp] theorem State.phase1Try_Only {L : List Part} {a : State} (s : State) (n : Nat) (h_reg : Part.reg ∈ L) (hf : OnlyChanges L a s) :
    OnlyChanges L a (State.phase1Try s n) := by
  unfold State.phase1Try; simp (maxDischargeDepth := 40) +contextual [*]
@[simp] theorem State.dropEvent_Only {L : List Part} {a : State} (s : State) (n : Nat) (e : Ev) (why : Nat) (h_reg : Part.reg ∈ L) (h_cmd : Part.cmd ∈ L) (h_eth : Part.eth ∈ L) (h_irq : Part.irq ∈ L) (h_out : Part.out ∈ L) (hf : OnlyChanges L a s) :
    OnlyChanges L a (State.dropEvent s n e why) := by
  unfold State.dropEvent; simp (maxDischargeDepth := 40) +contextual [*]
@[simp] theorem State.binInbox_Only {L : List Part} {a : State} (s : State) (n : Nat) (h_reg : Part.reg ∈ L) (h_cmd : Part.cmd ∈ L) (h_core : Part.core ∈ L) (h_eth : Part.eth ∈ L) (h_irq : Part.irq ∈ L) (h_out : Part.out ∈ L) (hf : OnlyChanges L a s) :
    OnlyChanges L a (State.binInbox s n) := by
  unfold State.binInbox; simp (maxDischargeDepth := 40) +contextual [*]
@[simp] theorem State.windowSort_Only {L : List Part} {a : State} (s : State) (n : Nat) (h_reg : Part.reg ∈ L) (h_cmd : Part.cmd ∈ L) (h_core : Part.core ∈ L) (h_eth : Part.eth ∈ L) (h_irq : Part.irq ∈ L) (h_out : Part.out ∈ L) (hf : OnlyChanges L a s) :
    OnlyChanges L a (State.windowSort s n) := by
  unfold State.windowSort; simp only []; (repeat' (first | exact hf | (refine OnlyChanges.forAll ?_ _ ?_; intro s x h) | split)) <;> simp_all (maxDischargeDepth := 40) +contextual
@[simp] theorem State.rowRead_Only {L : List Part} {a : State} (s : State) (n : Nat) (h_reg : Part.reg ∈ L) (h_cmd : Part.cmd ∈ L) (h_core : Part.core ∈ L) (h_eth : Part.eth ∈ L) (h_gov : Part.gov ∈ L) (h_irq : Part.irq ∈ L) (h_out : Part.out ∈ L) (hf : OnlyChanges L a s) :
    OnlyChanges L a (State.rowRead s n) := by
  unfold State.rowRead; simp only []; (repeat' (first | exact hf | (refine OnlyChanges.forAll ?_ _ ?_; intro s x h) | split)) <;> simp_all (maxDischargeDepth := 40) +contextual
@[simp] theorem State.addOne_Only {L : List Part} {a0 : State} (s : State) (n : Nat) (a : Addn) (h_reg : Part.reg ∈ L) (h_cmd : Part.cmd ∈ L) (h_core : Part.core ∈ L) (hf : OnlyChanges L a0 s) :
    OnlyChanges L a0 (State.addOne s n a) := by
  unfold State.addOne; simp (maxDischargeDepth := 40) +contextual [*]
@[simp] theorem State.additionRun_Only {L : List Part} {a : State} (s : State) (n : Nat) (h_reg : Part.reg ∈ L) (h_cmd : Part.cmd ∈ L) (h_core : Part.core ∈ L) (h_eth : Part.eth ∈ L) (h_gov : Part.gov ∈ L) (h_irq : Part.irq ∈ L) (h_out : Part.out ∈ L) (hf : OnlyChanges L a s) :
    OnlyChanges L a (State.additionRun s n) := by
  unfold State.additionRun; simp only []; (repeat' (first | exact hf | (refine OnlyChanges.forAll ?_ _ ?_; intro s x h) | split)) <;> simp_all (maxDischargeDepth := 40) +contextual
@[simp] theorem State.putIn_Only {L : List Part} {a : State} (s : State) (c : Ctx) (t : Slot) (i : Nat) (x : Int) (h_mem : Part.mem ∈ L) (hf : OnlyChanges L a s) :
    OnlyChanges L a (State.putIn s c t i x) := by
  unfold State.putIn; simp (maxDischargeDepth := 40) +contextual [*]
@[simp] theorem State.windowFlush_Only {L : List Part} {a : State} (s : State) (n : Nat) (h_reg : Part.reg ∈ L) (h_mem : Part.mem ∈ L) (h_cmd : Part.cmd ∈ L) (h_core : Part.core ∈ L) (hf : OnlyChanges L a s) :
    OnlyChanges L a (State.windowFlush s n) := by
  unfold State.windowFlush; (try dsimp only); repeat' (first | exact hf | assumption | split | with_reducible apply State.setCor_Only | with_reducible apply State.rsetBit_Only | with_reducible apply State.forAll_Only | with_reducible apply State.stepStatus_Only | with_reducible apply State.putIn_Only | (with_reducible apply OnlyChanges.forAll; intros) | (with_reducible apply OnlyChanges.fold; intros) | (with_reducible apply OnlyChanges.fold1; intros) | simp only [OptOnly_none, OptOnly_some] | with_reducible apply OptOnly_getD | (simp [*]; done))
@[simp] theorem State.phase2Start_Only {L : List Part} {a : State} (s : State) (n : Nat) (h_reg : Part.reg ∈ L) (h_cmd : Part.cmd ∈ L) (h_core : Part.core ∈ L) (h_eth : Part.eth ∈ L) (h_irq : Part.irq ∈ L) (h_out : Part.out ∈ L) (hf : OnlyChanges L a s) :
    OnlyChanges L a (State.phase2Start s n) := by
  unfold State.phase2Start; simp (maxDischargeDepth := 40) +contextual [*]
@[simp] theorem State.berthFillStart_Only {L : List Part} {a : State} (s : State) (n b : Nat) (h_core : Part.core ∈ L) (hf : OnlyChanges L a s) :
    OnlyChanges L a (State.berthFillStart s n b) := by
  unfold State.berthFillStart; simp only []; (repeat' (first | exact hf | (refine OnlyChanges.forAll ?_ _ ?_; intro s x h) | split)) <;> simp_all (maxDischargeDepth := 40) +contextual
@[simp] theorem State.fillRows_Only {L : List Part} {a : State} (s : State) (n : Nat) (d : MatDesc) (base : Nat) (h_mem : Part.mem ∈ L) (hf : OnlyChanges L a s) :
    OnlyChanges L a (State.fillRows s n d base) := by
  unfold State.fillRows; simp (maxDischargeDepth := 40) +contextual [*]
@[simp] theorem State.berthReady_Only {L : List Part} {a : State} (s : State) (n b : Nat) (h_reg : Part.reg ∈ L) (h_mem : Part.mem ∈ L) (h_cmd : Part.cmd ∈ L) (h_core : Part.core ∈ L) (h_fab : Part.fab ∈ L) (h_eth : Part.eth ∈ L) (h_gov : Part.gov ∈ L) (h_irq : Part.irq ∈ L) (h_ptb : Part.ptb ∈ L) (h_out : Part.out ∈ L) (h_free : Part.free ∈ L) (hf : OnlyChanges L a s) :
    OnlyChanges L a (State.berthReady s n b) := by
  unfold State.berthReady; simp only []; (repeat' (first | exact hf | (refine OnlyChanges.forAll ?_ _ ?_; intro s x h) | split)) <;> simp_all (maxDischargeDepth := 40) +contextual

end Sys2Proof.Machine
end

