-- ==== Sys2Proof/Laws/Only/Learning.lean ====
section
/-! SUPPORT. Laws/Only/Learning.lean: what each operation of Machine/Learning.lean can do to the tables (its units). -/

namespace Sys2Proof.Machine

@[simp] theorem State.setConv_Only {L : List Part} {a0 : State} (s : State) (a : Nat) (h_mem : Part.mem ∈ L) (hf : OnlyChanges L a0 s) :
    OnlyChanges L a0 (State.setConv s a) := by
  unfold State.setConv; simp (maxDischargeDepth := 40) +contextual [*]
@[simp] theorem State.dropConv_Only {L : List Part} {a0 : State} (s : State) (a n : Nat) (h_mem : Part.mem ∈ L) (hf : OnlyChanges L a0 s) :
    OnlyChanges L a0 (State.dropConv s a n) := by
  unfold State.dropConv; simp (maxDischargeDepth := 40) +contextual [*]
@[simp] theorem State.stepRt_Only {L : List Part} {a : State} (s : State) (c : Ctx) (t : Slot) (rl : RuleDesc) (l : List Addn) (m r i : Nat) (h_mem : Part.mem ∈ L) (hf : OnlyChanges L a s) :
    OnlyChanges L a (State.stepRt s c t rl l m r i) := by
  unfold State.stepRt; simp (maxDischargeDepth := 40) +contextual [*]
@[simp] theorem State.ruleEcc_Only {L : List Part} {a : State} (s : State) (n m : Nat) (h_reg : Part.reg ∈ L) (h_eth : Part.eth ∈ L) (h_irq : Part.irq ∈ L) (h_out : Part.out ∈ L) (hf : OnlyChanges L a s) :
    OnlyChanges L a (State.ruleEcc s n m) := by
  unfold State.ruleEcc; simp (maxDischargeDepth := 40) +contextual [*]
@[simp] theorem State.applyStatus_Only {L : List Part} {a : State} (s : State) (n m : Nat) (st : Byte) (h_core : Part.core ∈ L) (hf : OnlyChanges L a s) :
    OnlyChanges L a (State.applyStatus s n m st) := by
  unfold State.applyStatus; simp (maxDischargeDepth := 40) +contextual [*]
@[simp] theorem State.ruleDsat_Only {L : List Part} {a : State} (s : State) (n m b : Nat) (h_reg : Part.reg ∈ L) (h_cmd : Part.cmd ∈ L) (h_eth : Part.eth ∈ L) (h_irq : Part.irq ∈ L) (h_out : Part.out ∈ L) (hf : OnlyChanges L a s) :
    OnlyChanges L a (State.ruleDsat s n m b) := by
  unfold State.ruleDsat; simp (maxDischargeDepth := 40) +contextual [*]
@[simp] theorem State.ruleConv_Only {L : List Part} {a : State} (s : State) (n m : Nat) (carried : Bool) (c : Conv) (h_reg : Part.reg ∈ L) (h_gov : Part.gov ∈ L) (hf : OnlyChanges L a s) :
    OnlyChanges L a (State.ruleConv s n m carried c) := by
  unfold State.ruleConv; simp (maxDischargeDepth := 40) +contextual [*]
@[simp] theorem State.foldRow_Only {L : List Part} {a : State} (s : State) (n m : Nat) (cs : List (Nat × Ctx)) (g k r : Nat) (h_reg : Part.reg ∈ L) (h_mem : Part.mem ∈ L) (h_cmd : Part.cmd ∈ L) (h_eth : Part.eth ∈ L) (h_gov : Part.gov ∈ L) (h_irq : Part.irq ∈ L) (h_out : Part.out ∈ L) (hf : OnlyChanges L a s) :
    OnlyChanges L a (State.foldRow s n m cs g k r) := by
  unfold State.foldRow; simp (maxDischargeDepth := 40) +contextual [*]
@[simp] theorem State.addTacc_Only {L : List Part} {a : State} (s : State) (n m r : Nat) (x : Int) (h_reg : Part.reg ∈ L) (h_mem : Part.mem ∈ L) (h_cmd : Part.cmd ∈ L) (h_eth : Part.eth ∈ L) (h_irq : Part.irq ∈ L) (h_out : Part.out ∈ L) (hf : OnlyChanges L a s) :
    OnlyChanges L a (State.addTacc s n m r x) := by
  unfold State.addTacc; simp (maxDischargeDepth := 40) +contextual [*]
@[simp] theorem State.learnRule_Only {L : List Part} {a : State} (s : State) (n m : Nat) (h_reg : Part.reg ∈ L) (h_mem : Part.mem ∈ L) (h_cmd : Part.cmd ∈ L) (h_eth : Part.eth ∈ L) (h_gov : Part.gov ∈ L) (h_irq : Part.irq ∈ L) (h_out : Part.out ∈ L) (hf : OnlyChanges L a s) :
    OnlyChanges L a (State.learnRule s n m) := by
  unfold State.learnRule; simp only []; (repeat' (first | exact hf | (refine OnlyChanges.forAll ?_ _ ?_; intro s x h) | split)) <;> simp_all (maxDischargeDepth := 40) +contextual
@[simp] theorem State.learningPass_Only {L : List Part} {a : State} (s : State) (n : Nat) (h_reg : Part.reg ∈ L) (h_mem : Part.mem ∈ L) (h_cmd : Part.cmd ∈ L) (h_core : Part.core ∈ L) (h_eth : Part.eth ∈ L) (h_gov : Part.gov ∈ L) (h_irq : Part.irq ∈ L) (h_out : Part.out ∈ L) (hf : OnlyChanges L a s) :
    OnlyChanges L a (State.learningPass s n) := by
  unfold State.learningPass; simp (maxDischargeDepth := 40) +contextual [*]
@[simp] theorem State.setRuleState_Only {L : List Part} {a : State} (s : State) (p : Nat × Nat) (v : Nat) (h_reg : Part.reg ∈ L) (hf : OnlyChanges L a s) :
    OnlyChanges L a (State.setRuleState s p v) := by
  unfold State.setRuleState; simp (maxDischargeDepth := 40) +contextual [*]
@[simp] theorem State.carry_Only {L : List Part} {a : State} (s : State) (b n m : Nat) (dev : BitVec 6) (core : Nat) (xs : List Xfer) (h_reg : Part.reg ∈ L) (h_fab : Part.fab ∈ L) (h_eth : Part.eth ∈ L) (h_gov : Part.gov ∈ L) (h_irq : Part.irq ∈ L) (h_ptb : Part.ptb ∈ L) (h_out : Part.out ∈ L) (h_free : Part.free ∈ L) (hf : OnlyChanges L a s) :
    OnlyChanges L a (State.carry s b n m dev core xs) := by
  unfold State.carry; (try dsimp only); repeat' (first | exact hf | assumption | split | with_reducible apply State.send_Only | with_reducible apply State.forAll_Only | with_reducible apply State.bulkOut_Only | with_reducible apply State.addFlow_Only | (with_reducible apply OnlyChanges.forAll; intros) | (with_reducible apply OnlyChanges.fold; intros) | (with_reducible apply OnlyChanges.fold1; intros) | refine State.bulkOut_Only' ‹_› ‹_› ‹_› ‹_› ‹_› ‹_› ‹_› ‹_› ?_ (by assumption) | simp only [OptOnly_none, OptOnly_some] | with_reducible apply OptOnly_getD | (simp [*]; done))
@[simp] theorem State.deltaRead_Only {L : List Part} {a : State} (s : State) (n m : Nat) (x : Nat × Nat) (h_reg : Part.reg ∈ L) (h_core : Part.core ∈ L) (h_eth : Part.eth ∈ L) (h_irq : Part.irq ∈ L) (h_out : Part.out ∈ L) (hf : OnlyChanges L a s) :
    OnlyChanges L a (State.deltaRead s n m x) := by
  unfold State.deltaRead; simp (maxDischargeDepth := 40) +contextual [*]
@[simp] theorem State.sendDeltas_Only {L : List Part} {a : State} (s : State) (b n m : Nat) (h_reg : Part.reg ∈ L) (h_core : Part.core ∈ L) (h_fab : Part.fab ∈ L) (h_eth : Part.eth ∈ L) (h_gov : Part.gov ∈ L) (h_irq : Part.irq ∈ L) (h_ptb : Part.ptb ∈ L) (h_out : Part.out ∈ L) (h_free : Part.free ∈ L) (hf : OnlyChanges L a s) :
    OnlyChanges L a (State.sendDeltas s b n m) := by
  unfold State.sendDeltas; simp only []; (repeat' (first | exact hf | (refine OnlyChanges.forAll ?_ _ ?_; intro s x h) | split)) <;> simp_all (maxDischargeDepth := 40) +contextual
@[simp] theorem State.openRule_Only {L : List Part} {a : State} (s : State) (b : Nat) (p : Nat × Nat) (h_reg : Part.reg ∈ L) (h_core : Part.core ∈ L) (h_fab : Part.fab ∈ L) (h_eth : Part.eth ∈ L) (h_gov : Part.gov ∈ L) (h_irq : Part.irq ∈ L) (h_ptb : Part.ptb ∈ L) (h_out : Part.out ∈ L) (h_free : Part.free ∈ L) (hf : OnlyChanges L a s) :
    OnlyChanges L a (State.openRule s b p) := by
  unfold State.openRule; simp (maxDischargeDepth := 40) +contextual [*]
@[simp] theorem State.applyOpen_Only {L : List Part} {a : State} (s : State) (b : Nat) (granted : List (BitVec 8)) (h_reg : Part.reg ∈ L) (h_cmd : Part.cmd ∈ L) (h_core : Part.core ∈ L) (h_fab : Part.fab ∈ L) (h_eth : Part.eth ∈ L) (h_gov : Part.gov ∈ L) (h_irq : Part.irq ∈ L) (h_ptb : Part.ptb ∈ L) (h_out : Part.out ∈ L) (h_free : Part.free ∈ L) (hf : OnlyChanges L a s) :
    OnlyChanges L a (State.applyOpen s b granted) := by
  unfold State.applyOpen; simp (maxDischargeDepth := 40) +contextual [*]
@[simp] theorem State.addPiece_Only {L : List Part} {a : State} (s : State) (own m c r : Nat) (x : Nat × Nat) (cols : Nat) (cleared : Bool) (piece : List Byte) (h_reg : Part.reg ∈ L) (h_core : Part.core ∈ L) (h_eth : Part.eth ∈ L) (h_irq : Part.irq ∈ L) (h_out : Part.out ∈ L) (hf : OnlyChanges L a s) :
    OnlyChanges L a (State.addPiece s own m c r x cols cleared piece) := by
  unfold State.addPiece; simp (maxDischargeDepth := 40) +contextual [*]
@[simp] theorem State.addLocal_Only {L : List Part} {a : State} (s : State) (own m mem : Nat) (rows : List Nat) (h_reg : Part.reg ∈ L) (h_core : Part.core ∈ L) (h_eth : Part.eth ∈ L) (h_irq : Part.irq ∈ L) (h_out : Part.out ∈ L) (hf : OnlyChanges L a s) :
    OnlyChanges L a (State.addLocal s own m mem rows) := by
  unfold State.addLocal; simp (maxDischargeDepth := 40) +contextual [*]
@[simp] theorem State.chunkArrival_Only {L : List Part} {a : State} (s : State) (own m mem chunk : Nat) (rows : List (Nat × List Byte)) (h_reg : Part.reg ∈ L) (h_core : Part.core ∈ L) (h_eth : Part.eth ∈ L) (h_irq : Part.irq ∈ L) (h_out : Part.out ∈ L) (hf : OnlyChanges L a s) :
    OnlyChanges L a (State.chunkArrival s own m mem chunk rows) := by
  unfold State.chunkArrival; simp only []; (repeat' (first | exact hf | (refine OnlyChanges.forAll ?_ _ ?_; intro s x h) | split)) <;> simp_all (maxDischargeDepth := 40) +contextual
@[simp] theorem State.optRow_Only {L : List Part} {a0 : State} (s : State) (n m a data cols cvt : Nat) (new : List Dy → List Dy) (h_reg : Part.reg ∈ L) (h_mem : Part.mem ∈ L) (h_core : Part.core ∈ L) (h_eth : Part.eth ∈ L) (h_gov : Part.gov ∈ L) (h_irq : Part.irq ∈ L) (h_out : Part.out ∈ L) (hf : OnlyChanges L a0 s) :
    OnlyChanges L a0 (State.optRow s n m a data cols cvt new).1 := by
  unfold State.optRow; simp (maxDischargeDepth := 40) +contextual [*]
theorem State.optRow_Only' {L : List Part} {a0 : State} (s : State) (n m a data cols cvt : Nat) (new : List Dy → List Dy) (h_reg : Part.reg ∈ L) (h_mem : Part.mem ∈ L) (h_core : Part.core ∈ L) (h_eth : Part.eth ∈ L) (h_gov : Part.gov ∈ L) (h_irq : Part.irq ∈ L) (h_out : Part.out ∈ L) (hf : OnlyChanges L a0 s) {t0 : State} {y0 : List Dy}
    (ht : State.optRow s n m a data cols cvt new = (t0, y0)) : OnlyChanges L a0 t0 := by
  have h0 := State.optRow_Only (L := L) s n m a data cols cvt new h_reg h_mem h_core h_eth h_gov h_irq h_out hf; rw [ht] at h0; exact h0
@[simp] theorem State.optimise_Only {L : List Part} {a : State} (s : State) (n m r : Nat) (h_reg : Part.reg ∈ L) (h_mem : Part.mem ∈ L) (h_core : Part.core ∈ L) (h_eth : Part.eth ∈ L) (h_gov : Part.gov ∈ L) (h_irq : Part.irq ∈ L) (h_out : Part.out ∈ L) (hf : OnlyChanges L a s) :
    OnlyChanges L a (State.optimise s n m r).1 := by
  unfold State.optimise; simp (maxDischargeDepth := 40) +contextual [*]
theorem State.optimise_Only' {L : List Part} {a : State} (s : State) (n m r : Nat) (h_reg : Part.reg ∈ L) (h_mem : Part.mem ∈ L) (h_core : Part.core ∈ L) (h_eth : Part.eth ∈ L) (h_gov : Part.gov ∈ L) (h_irq : Part.irq ∈ L) (h_out : Part.out ∈ L) (hf : OnlyChanges L a s) {t0 : State} {y0 : List Dy}
    (ht : State.optimise s n m r = (t0, y0)) : OnlyChanges L a t0 := by
  have h0 := State.optimise_Only (L := L) s n m r h_reg h_mem h_core h_eth h_gov h_irq h_out hf; rw [ht] at h0; exact h0
@[simp] theorem State.loadedOver_Only {L : List Part} {a0 : State} (s : State) (a n : Nat) (h_mem : Part.mem ∈ L) (hf : OnlyChanges L a0 s) :
    OnlyChanges L a0 (State.loadedOver s a n) := by
  unfold State.loadedOver; simp (maxDischargeDepth := 40) +contextual [*]
@[simp] theorem State.stageRow_Only {L : List Part} {a : State} (s : State) (n m : Nat) (x : Nat × List Dy) (h_reg : Part.reg ∈ L) (h_mem : Part.mem ∈ L) (h_core : Part.core ∈ L) (h_gov : Part.gov ∈ L) (hf : OnlyChanges L a s) :
    OnlyChanges L a (State.stageRow s n m x) := by
  unfold State.stageRow; simp (maxDischargeDepth := 40) +contextual [*]
@[simp] theorem State.computeRows_Only {L : List Part} {a : State} (s : State) (n m : Nat) (rows : List Nat) (h_reg : Part.reg ∈ L) (h_mem : Part.mem ∈ L) (h_core : Part.core ∈ L) (h_eth : Part.eth ∈ L) (h_gov : Part.gov ∈ L) (h_irq : Part.irq ∈ L) (h_out : Part.out ∈ L) (hf : OnlyChanges L a s) :
    OnlyChanges L a (State.computeRows s n m rows) := by
  unfold State.computeRows; simp (maxDischargeDepth := 40) +contextual [*]
@[simp] theorem State.sendRows_Only {L : List Part} {a : State} (s : State) (b n m chunk : Nat) (h_reg : Part.reg ∈ L) (h_fab : Part.fab ∈ L) (h_eth : Part.eth ∈ L) (h_gov : Part.gov ∈ L) (h_irq : Part.irq ∈ L) (h_ptb : Part.ptb ∈ L) (h_out : Part.out ∈ L) (h_free : Part.free ∈ L) (hf : OnlyChanges L a s) :
    OnlyChanges L a (State.sendRows s b n m chunk) := by
  unfold State.sendRows; simp (maxDischargeDepth := 40) +contextual [*]
@[simp] theorem State.chunkCommit_Only {L : List Part} {a : State} (s : State) (n m chunk : Nat) (h_reg : Part.reg ∈ L) (h_mem : Part.mem ∈ L) (h_core : Part.core ∈ L) (h_fab : Part.fab ∈ L) (h_eth : Part.eth ∈ L) (h_gov : Part.gov ∈ L) (h_irq : Part.irq ∈ L) (h_ptb : Part.ptb ∈ L) (h_out : Part.out ∈ L) (h_free : Part.free ∈ L) (hf : OnlyChanges L a s) :
    OnlyChanges L a (State.chunkCommit s n m chunk) := by
  unfold State.chunkCommit; simp (maxDischargeDepth := 40) +contextual [*]
@[simp] theorem State.writeWeights_Only {L : List Part} {a : State} (s : State) (n m r seg : Nat) (bytes : List Byte) (h_reg : Part.reg ∈ L) (h_mem : Part.mem ∈ L) (h_core : Part.core ∈ L) (h_eth : Part.eth ∈ L) (h_gov : Part.gov ∈ L) (h_irq : Part.irq ∈ L) (h_out : Part.out ∈ L) (hf : OnlyChanges L a s) :
    OnlyChanges L a (State.writeWeights s n m r seg bytes) := by
  unfold State.writeWeights; simp (maxDischargeDepth := 40) +contextual [*]
@[simp] theorem State.writePart_Only {L : List Part} {a : State} (s : State) (own m mem : Nat) (x : Nat × List Byte) (h_reg : Part.reg ∈ L) (h_mem : Part.mem ∈ L) (h_core : Part.core ∈ L) (h_eth : Part.eth ∈ L) (h_gov : Part.gov ∈ L) (h_irq : Part.irq ∈ L) (h_out : Part.out ∈ L) (hf : OnlyChanges L a s) :
    OnlyChanges L a (State.writePart s own m mem x) := by
  unfold State.writePart; simp (maxDischargeDepth := 40) +contextual [*]
@[simp] theorem State.writeStaged_Only {L : List Part} {a : State} (s : State) (own m : Nat) (x : Nat × List Byte) (h_reg : Part.reg ∈ L) (h_mem : Part.mem ∈ L) (h_core : Part.core ∈ L) (h_eth : Part.eth ∈ L) (h_gov : Part.gov ∈ L) (h_irq : Part.irq ∈ L) (h_out : Part.out ∈ L) (hf : OnlyChanges L a s) :
    OnlyChanges L a (State.writeStaged s own m x) := by
  unfold State.writeStaged; simp (maxDischargeDepth := 40) +contextual [*]
@[simp] theorem State.writeFar_Only {L : List Part} {a : State} (s : State) (n m : Nat) (x : Nat × Nat × List Byte) (h_reg : Part.reg ∈ L) (h_mem : Part.mem ∈ L) (h_core : Part.core ∈ L) (h_eth : Part.eth ∈ L) (h_gov : Part.gov ∈ L) (h_irq : Part.irq ∈ L) (h_out : Part.out ∈ L) (hf : OnlyChanges L a s) :
    OnlyChanges L a (State.writeFar s n m x) := by
  unfold State.writeFar; simp (maxDischargeDepth := 40) +contextual [*]
@[simp] theorem State.overlapCommit_Only {L : List Part} {a : State} (s : State) (n m : Nat) (rows : List (Nat × Nat × List Byte)) (h_reg : Part.reg ∈ L) (h_mem : Part.mem ∈ L) (h_core : Part.core ∈ L) (h_eth : Part.eth ∈ L) (h_gov : Part.gov ∈ L) (h_irq : Part.irq ∈ L) (h_out : Part.out ∈ L) (hf : OnlyChanges L a s) :
    OnlyChanges L a (State.overlapCommit s n m rows) := by
  unfold State.overlapCommit; simp (maxDischargeDepth := 40) +contextual [*]
@[simp] theorem State.clearDeltas_Only {L : List Part} {a : State} (s : State) (n m g : Nat) (all : Bool) (h_mem : Part.mem ∈ L) (hf : OnlyChanges L a s) :
    OnlyChanges L a (State.clearDeltas s n m g all) := by
  unfold State.clearDeltas; simp (maxDischargeDepth := 40) +contextual [*]
@[simp] theorem State.closeRule_Only {L : List Part} {a : State} (s : State) (p : Nat × Nat) (h_reg : Part.reg ∈ L) (h_mem : Part.mem ∈ L) (h_core : Part.core ∈ L) (h_eth : Part.eth ∈ L) (h_gov : Part.gov ∈ L) (h_irq : Part.irq ∈ L) (h_out : Part.out ∈ L) (hf : OnlyChanges L a s) :
    OnlyChanges L a (State.closeRule s p) := by
  unfold State.closeRule; simp (maxDischargeDepth := 40) +contextual [*]
@[simp] theorem State.endApplies_Only {L : List Part} {a : State} (s : State) (b g epoch : Nat) (st : Byte) (h_reg : Part.reg ∈ L) (h_cmd : Part.cmd ∈ L) (h_eth : Part.eth ∈ L) (h_irq : Part.irq ∈ L) (h_out : Part.out ∈ L) (hf : OnlyChanges L a s) :
    OnlyChanges L a (State.endApplies s b g epoch st) := by
  unfold State.endApplies; simp (maxDischargeDepth := 40) +contextual [*]
@[simp] theorem State.autoStatus_Only {L : List Part} {a : State} (s : State) (b g : Nat) (st : Byte) (h_cmd : Part.cmd ∈ L) (hf : OnlyChanges L a s) :
    OnlyChanges L a (State.autoStatus s b g st) := by
  unfold State.autoStatus; simp (maxDischargeDepth := 40) +contextual [*]
@[simp] theorem State.applyReport_Only {L : List Part} {a : State} (s : State) (b g : Nat) (auto : Bool) (st : Byte) (epoch : Nat) (h_reg : Part.reg ∈ L) (h_cmd : Part.cmd ∈ L) (h_fab : Part.fab ∈ L) (h_eth : Part.eth ∈ L) (h_gov : Part.gov ∈ L) (h_irq : Part.irq ∈ L) (h_ptb : Part.ptb ∈ L) (h_out : Part.out ∈ L) (h_free : Part.free ∈ L) (hf : OnlyChanges L a s) :
    OnlyChanges L a (State.applyReport s b g auto st epoch) := by
  unfold State.applyReport; simp (maxDischargeDepth := 40) +contextual [*]
@[simp] theorem State.closeGroup_Only {L : List Part} {a : State} (s : State) (b g : Nat) (others : List (BitVec 8 × Bool × Byte × BitVec 48)) (h_reg : Part.reg ∈ L) (h_mem : Part.mem ∈ L) (h_cmd : Part.cmd ∈ L) (h_core : Part.core ∈ L) (h_fab : Part.fab ∈ L) (h_eth : Part.eth ∈ L) (h_gov : Part.gov ∈ L) (h_irq : Part.irq ∈ L) (h_ptb : Part.ptb ∈ L) (h_out : Part.out ∈ L) (h_free : Part.free ∈ L) (hf : OnlyChanges L a s) :
    OnlyChanges L a (State.closeGroup s b g others) := by
  unfold State.closeGroup; simp (maxDischargeDepth := 40) +contextual [*]
@[simp] theorem State.writeReported_Only {L : List Part} {a : State} (s : State) (b : Nat) (gs : List Nat) (rows : List (BitVec 10 × BitVec 8 × Nat × Nat × List Byte)) (h_reg : Part.reg ∈ L) (h_mem : Part.mem ∈ L) (h_core : Part.core ∈ L) (h_eth : Part.eth ∈ L) (h_gov : Part.gov ∈ L) (h_irq : Part.irq ∈ L) (h_out : Part.out ∈ L) (hf : OnlyChanges L a s) :
    OnlyChanges L a (State.writeReported s b gs rows) := by
  unfold State.writeReported; simp (maxDischargeDepth := 40) +contextual [*]
@[simp] theorem State.applyClose_Only {L : List Part} {a : State} (s : State) (b : Nat) (rows : List (BitVec 10 × BitVec 8 × Nat × Nat × List Byte)) (others : List (BitVec 8 × Bool × Byte × BitVec 48)) (h_reg : Part.reg ∈ L) (h_mem : Part.mem ∈ L) (h_cmd : Part.cmd ∈ L) (h_core : Part.core ∈ L) (h_fab : Part.fab ∈ L) (h_eth : Part.eth ∈ L) (h_gov : Part.gov ∈ L) (h_irq : Part.irq ∈ L) (h_ptb : Part.ptb ∈ L) (h_out : Part.out ∈ L) (h_free : Part.free ∈ L) (hf : OnlyChanges L a s) :
    OnlyChanges L a (State.applyClose s b rows others) := by
  unfold State.applyClose; simp (maxDischargeDepth := 40) +contextual [*]
@[simp] theorem State.reductionPartitioned_Only {L : List Part} {a : State} (s : State) (n m chunk : Nat) (h_reg : Part.reg ∈ L) (h_mem : Part.mem ∈ L) (h_cmd : Part.cmd ∈ L) (h_core : Part.core ∈ L) (h_fab : Part.fab ∈ L) (h_eth : Part.eth ∈ L) (h_gov : Part.gov ∈ L) (h_irq : Part.irq ∈ L) (h_ptb : Part.ptb ∈ L) (h_out : Part.out ∈ L) (h_free : Part.free ∈ L) (hf : OnlyChanges L a s) :
    OnlyChanges L a (State.reductionPartitioned s n m chunk) := by
  unfold State.reductionPartitioned; simp (maxDischargeDepth := 40) +contextual [*]
@[simp] theorem State.moveDelays_Only {L : List Part} {a : State} (s : State) (n target m : Nat) (votes : List Int) (h_reg : Part.reg ∈ L) (h_mem : Part.mem ∈ L) (hf : OnlyChanges L a s) :
    OnlyChanges L a (State.moveDelays s n target m votes) := by
  unfold State.moveDelays
  refine OnlyChanges.forAll (fun s u h => ?_) _ hf
  dsimp only
  split
  · exact State.count_Only _ _ _ h_reg (State.putLe_Only _ _ _ _ h_mem h)
  · exact h
@[simp] theorem State.applyVotes_Only {L : List Part} {a : State} (s : State) (b : Nat) (h_reg : Part.reg ∈ L) (h_mem : Part.mem ∈ L) (h_cmd : Part.cmd ∈ L) (hf : OnlyChanges L a s) :
    OnlyChanges L a (State.applyVotes s b) := by
  unfold State.applyVotes; simp (maxDischargeDepth := 40) +contextual [*]
@[simp] theorem State.sendVotes_Only {L : List Part} {a : State} (s : State) (b n m target due : Nat) (vs : List Int) (h_reg : Part.reg ∈ L) (h_fab : Part.fab ∈ L) (h_eth : Part.eth ∈ L) (h_gov : Part.gov ∈ L) (h_irq : Part.irq ∈ L) (h_ptb : Part.ptb ∈ L) (h_out : Part.out ∈ L) (h_free : Part.free ∈ L) (hf : OnlyChanges L a s) :
    OnlyChanges L a (State.sendVotes s b n m target due vs) := by
  unfold State.sendVotes; simp (maxDischargeDepth := 40) +contextual [*]
@[simp] theorem State.delayVote_Only {L : List Part} {a : State} (s : State) (b target m g : Nat) (votes : List (BitVec 2)) (remote : List Int) (due : Nat) (h_reg : Part.reg ∈ L) (h_mem : Part.mem ∈ L) (h_cmd : Part.cmd ∈ L) (h_core : Part.core ∈ L) (h_syn : Part.syn ∈ L) (h_fab : Part.fab ∈ L) (h_eth : Part.eth ∈ L) (h_gov : Part.gov ∈ L) (h_irq : Part.irq ∈ L) (h_ptb : Part.ptb ∈ L) (h_out : Part.out ∈ L) (h_free : Part.free ∈ L) (hf : OnlyChanges L a s) :
    OnlyChanges L a (State.delayVote s b target m g votes remote due) := by
  unfold State.delayVote; simp only []; (repeat' (first | exact hf | (refine OnlyChanges.forAll ?_ _ ?_; intro s x h) | split)) <;> simp_all (maxDischargeDepth := 40) +contextual

end Sys2Proof.Machine
end

