-- ==== Sys2Proof/Laws/Only/Events.lean ====
section
/-! SUPPORT. Laws/Only/Events.lean: what each operation of Machine/Events.lean can do to the tables (its units). -/

namespace Sys2Proof.Machine

@[simp] theorem State.spillPeak_Only {L : List Part} {a : State} (s : State) (h_reg : Part.reg ∈ L) (hf : OnlyChanges L a s) :
    OnlyChanges L a (State.spillPeak s) := by
  unfold State.spillPeak; simp (maxDischargeDepth := 40) +contextual [*]
@[simp] theorem State.pageWrite_Only {L : List Part} {a0 : State} (s : State) (a n : Nat) (h_reg : Part.reg ∈ L) (h_mem : Part.mem ∈ L) (h_eth : Part.eth ∈ L) (h_gov : Part.gov ∈ L) (h_irq : Part.irq ∈ L) (h_out : Part.out ∈ L) (hf : OnlyChanges L a0 s) :
    OnlyChanges L a0 (State.pageWrite s a n) := by
  unfold State.pageWrite; simp (maxDischargeDepth := 40) +contextual [*]
@[simp] theorem State.putRing_Only {L : List Part} {a : State} (s : State) (n k : Nat) (l : List Ev) (h_reg : Part.reg ∈ L) (h_mem : Part.mem ∈ L) (h_rtr : Part.rtr ∈ L) (h_eth : Part.eth ∈ L) (h_gov : Part.gov ∈ L) (h_irq : Part.irq ∈ L) (h_out : Part.out ∈ L) (hf : OnlyChanges L a s) :
    OnlyChanges L a (State.putRing s n k l) := by
  unfold State.putRing; simp (maxDischargeDepth := 40) +contextual [*]
@[simp] theorem State.shrinkRing_Only {L : List Part} {a : State} (s : State) (n k : Nat) (l : List Ev) (h_rtr : Part.rtr ∈ L) (hf : OnlyChanges L a s) :
    OnlyChanges L a (State.shrinkRing s n k l) := by
  unfold State.shrinkRing; simp (maxDischargeDepth := 40) +contextual [*]
@[simp] theorem State.drainRuns_Only {L : List Part} {a : State} (s : State) (n k : Nat) (h_reg : Part.reg ∈ L) (h_cmd : Part.cmd ∈ L) (hf : OnlyChanges L a s) :
    OnlyChanges L a (s.drainRuns n k).2 := by
  simp only [State.drainRuns]
  split
  · exact hf
  · exact State.stepStatus_Only _ _ _ h_cmd (State.rsetBit_Only _ _ _ _ h_reg (State.count_Only _ _ _ h_reg hf))
theorem State.drainRuns_Only' {L : List Part} {a : State} (s : State) (n k : Nat) (h_reg : Part.reg ∈ L) (h_cmd : Part.cmd ∈ L) (hf : OnlyChanges L a s)
    {t0 : State} {y0 : List Ev} (ht : s.drainRuns n k = (y0, t0)) : OnlyChanges L a t0 := by
  have h0 := State.drainRuns_Only s n k h_reg h_cmd hf; rw [ht] at h0; exact h0
@[simp] theorem State.holdRec_Only {L : List Part} {a : State} (s : State) (c core : Nat) (e : Ev) (delay : Nat) (h_cmd : Part.cmd ∈ L) (hf : OnlyChanges L a s) :
    OnlyChanges L a (State.holdRec s c core e delay) := by
  unfold State.holdRec; simp (maxDischargeDepth := 40) +contextual [*]
@[simp] theorem State.reinsert_Only {L : List Part} {a : State} (s : State) (c : Nat) (h_reg : Part.reg ∈ L) (h_mem : Part.mem ∈ L) (h_cmd : Part.cmd ∈ L) (h_rtr : Part.rtr ∈ L) (h_eth : Part.eth ∈ L) (h_gov : Part.gov ∈ L) (h_irq : Part.irq ∈ L) (h_out : Part.out ∈ L) (hf : OnlyChanges L a s) :
    OnlyChanges L a (State.reinsert s c) := by
  unfold State.reinsert; simp (maxDischargeDepth := 40) +contextual [*]
@[simp] theorem State.takeBucket_Only {L : List Part} {a : State} (s : State) (b c x n k : Nat) (h_reg : Part.reg ∈ L) (h_cmd : Part.cmd ∈ L) (h_rtr : Part.rtr ∈ L) (hf : OnlyChanges L a s) :
    OnlyChanges L a (State.takeBucket s b c x n k) := by
  unfold State.takeBucket; simp (maxDischargeDepth := 40) +contextual [*]
@[simp] theorem State.pullEvents_Only {L : List Part} {a : State} (s : State) (b c : Nat) (h_reg : Part.reg ∈ L) (h_cmd : Part.cmd ∈ L) (h_rtr : Part.rtr ∈ L) (hf : OnlyChanges L a s) :
    OnlyChanges L a (State.pullEvents s b c) := by
  unfold State.pullEvents; simp (maxDischargeDepth := 40) +contextual [*]
@[simp] theorem State.regate_Only {L : List Part} {a : State} (s : State) (b : Nat) (h_reg : Part.reg ∈ L) (h_mem : Part.mem ∈ L) (h_cmd : Part.cmd ∈ L) (h_rtr : Part.rtr ∈ L) (h_eth : Part.eth ∈ L) (h_gov : Part.gov ∈ L) (h_irq : Part.irq ∈ L) (h_out : Part.out ∈ L) (hf : OnlyChanges L a s) :
    OnlyChanges L a (State.regate s b) := by
  unfold State.regate; simp (maxDischargeDepth := 40) +contextual [*]
@[simp] theorem State.withhold_Only {L : List Part} {a : State} (s : State) (b n : Nat) (e : Ev) (delay : Nat) (h_reg : Part.reg ∈ L) (h_cmd : Part.cmd ∈ L) (hf : OnlyChanges L a s) :
    OnlyChanges L a (State.withhold s b n e delay) := by
  unfold State.withhold; (repeat' split) <;> simp (maxDischargeDepth := 40) +contextual [*]
@[simp] theorem State.inboxSpill_Only {L : List Part} {a : State} (s : State) (n bytes : Nat) (h_reg : Part.reg ∈ L) (h_mem : Part.mem ∈ L) (h_core : Part.core ∈ L) (h_eth : Part.eth ∈ L) (h_gov : Part.gov ∈ L) (h_irq : Part.irq ∈ L) (h_out : Part.out ∈ L) (hf : OnlyChanges L a s) :
    OnlyChanges L a (State.inboxSpill s n bytes) := by
  unfold State.inboxSpill; simp (maxDischargeDepth := 40) +contextual [*]
@[simp] theorem State.stepStart_Only {L : List Part} {a : State} (s : State) (n : Nat) (h_reg : Part.reg ∈ L) (h_mem : Part.mem ∈ L) (h_cmd : Part.cmd ∈ L) (h_core : Part.core ∈ L) (h_rtr : Part.rtr ∈ L) (h_eth : Part.eth ∈ L) (h_gov : Part.gov ∈ L) (h_irq : Part.irq ∈ L) (h_out : Part.out ∈ L) (h_free : Part.free ∈ L) (hf : OnlyChanges L a s) :
    OnlyChanges L a (State.stepStart s n) := by
  unfold State.stepStart
  extract_lets c b bd k
  split
  · exact hf
  · split
    rename_i evs s1 he
    have h1 : OnlyChanges L a s1 := by
      have h0 := State.drainRuns_Only (L := L) (a := a) s n k (by assumption) (by assumption) hf
      rw [he] at h0; exact h0
    extract_lets s2 r s3 hold go ok s4 s5 s6 s7 c8 s8 s9
    have h2 : OnlyChanges L a s2 := State.setPages_Only _ _ _ h_rtr (State.setRing_Only _ _ _ h_rtr h1)
    have h3 : OnlyChanges L a s3 := OnlyChanges.rtr_upd _ h_rtr h2
    clear_value s3
    have h4 : OnlyChanges L a s4 := OnlyChanges.forAll (fun s x h => by simp (maxDischargeDepth := 40) +contextual [*]) _ h3
    clear_value s4
    have h7 : OnlyChanges L a s7 := by simp (maxDischargeDepth := 40) [s7, s6, s5, *]
    clear_value s7
    split
    · exact State.setCor_Only _ _ h_core h7
    · have h8 : OnlyChanges L a s8 := State.setCor_Only _ _ h_core h7
      clear_value s8
      have h9 : OnlyChanges L a s9 := by
        simp only [s9]; split
        · simp (maxDischargeDepth := 40) [*]
        · exact h8
      clear_value s9
      simp (maxDischargeDepth := 40) [*]
@[simp] theorem State.setReplica_Only {L : List Part} {a : State} (s : State) (p : Packet) (h_rtr : Part.rtr ∈ L) (hf : OnlyChanges L a s) :
    OnlyChanges L a (State.setReplica s p) := by
  unfold State.setReplica; simp (maxDischargeDepth := 40) +contextual [*]
@[simp] theorem State.closePacket_Only {L : List Part} {a : State} (s : State) (n : Nat) (p : Packet) (h_cmd : Part.cmd ∈ L) (h_core : Part.core ∈ L) (h_rtr : Part.rtr ∈ L) (hf : OnlyChanges L a s) :
    OnlyChanges L a (State.closePacket s n p) := by
  unfold State.closePacket; (repeat' split) <;> simp (maxDischargeDepth := 40) +contextual [*]
@[simp] theorem State.addReplica_Only {L : List Part} {a : State} (s : State) (n dst matrix delay cidx row cnt : Nat) (fixed : Bool) (h_cmd : Part.cmd ∈ L) (h_core : Part.core ∈ L) (h_rtr : Part.rtr ∈ L) (hf : OnlyChanges L a s) :
    OnlyChanges L a (State.addReplica s n dst matrix delay cidx row cnt fixed) := by
  unfold State.addReplica; simp only []; (repeat' (first | exact hf | (refine OnlyChanges.forAll ?_ _ ?_; intro s x h) | split)) <;> simp_all (maxDischargeDepth := 40) +contextual
@[simp] theorem State.routeEcc_Only {L : List Part} {a : State} (s : State) (n : Nat) (h_reg : Part.reg ∈ L) (h_cmd : Part.cmd ∈ L) (h_eth : Part.eth ∈ L) (h_irq : Part.irq ∈ L) (h_out : Part.out ∈ L) (hf : OnlyChanges L a s) :
    OnlyChanges L a (State.routeEcc s n) := by
  unfold State.routeEcc; simp (maxDischargeDepth := 40) +contextual [*]
@[simp] theorem State.expandEntry_Only {L : List Part} {a : State} (s : State) (n : Nat) (f : Firing) (u : Nat) (h_reg : Part.reg ∈ L) (h_cmd : Part.cmd ∈ L) (h_core : Part.core ∈ L) (h_rtr : Part.rtr ∈ L) (h_eth : Part.eth ∈ L) (h_gov : Part.gov ∈ L) (h_irq : Part.irq ∈ L) (h_out : Part.out ∈ L) (hf : OnlyChanges L a s) :
    OnlyChanges L a (State.expandEntry s n f u) := by
  unfold State.expandEntry; simp (maxDischargeDepth := 40) +contextual [*]
@[simp] theorem State.closeAll_Only {L : List Part} {a : State} (s : State) (n : Nat) (h_cmd : Part.cmd ∈ L) (h_core : Part.core ∈ L) (h_rtr : Part.rtr ∈ L) (hf : OnlyChanges L a s) :
    OnlyChanges L a (State.closeAll s n) := by
  unfold State.closeAll; simp (maxDischargeDepth := 40) +contextual [*]
@[simp] theorem State.stallOpen_Only {L : List Part} {a : State} (s : State) (n : Nat) (h_reg : Part.reg ∈ L) (h_free : Part.free ∈ L) (hf : OnlyChanges L a s) :
    OnlyChanges L a (State.stallOpen s n) := by
  unfold State.stallOpen; simp (maxDischargeDepth := 40) +contextual [*]
@[simp] theorem State.expandFrom_Only {L : List Part} {a : State} (n : Nat) (f : Firing) (l : List Nat) (s : State) (h_reg : Part.reg ∈ L) (h_cmd : Part.cmd ∈ L) (h_core : Part.core ∈ L) (h_rtr : Part.rtr ∈ L) (h_eth : Part.eth ∈ L) (h_gov : Part.gov ∈ L) (h_irq : Part.irq ∈ L) (h_out : Part.out ∈ L)
    (hf : OnlyChanges L a s) : OnlyChanges L a (State.expandFrom n f l s) := by
  induction l generalizing s with
  | nil => exact hf
  | cons u r ih =>
    simp only [State.expandFrom]
    split
    · exact hf
    · exact ih _ (State.setCor_Only _ _ h_core (State.expandEntry_Only _ _ _ _ h_reg h_cmd h_core h_rtr h_eth h_gov h_irq h_out hf))
@[simp] theorem State.routeExpand_Only {L : List Part} {a : State} (s : State) (n : Nat) (h_reg : Part.reg ∈ L) (h_cmd : Part.cmd ∈ L) (h_core : Part.core ∈ L) (h_rtr : Part.rtr ∈ L) (h_cnv : Part.cnv ∈ L) (h_eth : Part.eth ∈ L) (h_gov : Part.gov ∈ L) (h_irq : Part.irq ∈ L) (h_out : Part.out ∈ L) (h_free : Part.free ∈ L) (hf : OnlyChanges L a s) :
    OnlyChanges L a (State.routeExpand s n) := by
  unfold State.routeExpand
  extract_lets c
  split
  · exact hf
  · extract_lets taps s1 s2 us s3 s4
    split
    · exact hf
    · split
      · simp (maxDischargeDepth := 40) [*]
      · have h1 : OnlyChanges L a s1 := OnlyChanges.cnv_upd _ h_cnv hf
        have h2 : OnlyChanges L a s2 := by
          simp only [s2]; (repeat' split)
          · exact h1
          · exact State.routeEcc_Only _ _ h_reg h_cmd h_eth h_irq h_out h1
          · exact h1
        clear_value s2
        have h3 : OnlyChanges L a s3 := by simp (maxDischargeDepth := 40) [s3, *]
        clear_value s3
        split
        · simp (maxDischargeDepth := 40) [*]
        · split
          · exact State.stallOpen_Only _ _ h_reg h_free (State.closeAll_Only _ _ h_cmd h_core h_rtr (State.setCor_Only _ _ h_core h3))
          · exact State.setCor_Only _ _ h_core h3
@[simp] theorem State.heldLast_Only {L : List Part} {a : State} (s : State) (b cond dev core : Nat) (h_cmd : Part.cmd ∈ L) (hf : OnlyChanges L a s) :
    OnlyChanges L a (State.heldLast s b cond dev core) := by
  unfold State.heldLast; simp (maxDischargeDepth := 40) +contextual [*]
@[simp] theorem State.coreDone_Only {L : List Part} {a : State} (s : State) (n : Nat) (h_reg : Part.reg ∈ L) (h_cmd : Part.cmd ∈ L) (h_core : Part.core ∈ L) (h_rtr : Part.rtr ∈ L) (h_free : Part.free ∈ L) (hf : OnlyChanges L a s) :
    OnlyChanges L a (State.coreDone s n) := by
  unfold State.coreDone; simp (maxDischargeDepth := 40) +contextual [*]
@[simp] theorem State.setCredits_Only {L : List Part} {a : State} (s : State) (dst v : Nat) (h_rtr : Part.rtr ∈ L) (hf : OnlyChanges L a s) :
    OnlyChanges L a (State.setCredits s dst v) := by
  unfold State.setCredits; simp (maxDischargeDepth := 40) +contextual [*]
@[simp] theorem State.freeReplica_Only {L : List Part} {a : State} (s : State) (dst : Nat) (h_cmd : Part.cmd ∈ L) (h_core : Part.core ∈ L) (h_rtr : Part.rtr ∈ L) (hf : OnlyChanges L a s) :
    OnlyChanges L a (State.freeReplica s dst) := by
  unfold State.freeReplica; simp only []; (repeat' (first | exact hf | (refine OnlyChanges.forAll ?_ _ ?_; intro s x h) | split)) <;> simp_all (maxDischargeDepth := 40) +contextual
@[simp] theorem State.oneAccepted_Only {L : List Part} {a : State} (s : State) (b core : Nat) (h_cmd : Part.cmd ∈ L) (hf : OnlyChanges L a s) :
    OnlyChanges L a (State.oneAccepted s b core) := by
  unfold State.oneAccepted; simp (maxDischargeDepth := 40) +contextual [*]
@[simp] theorem State.packetSend_Only {L : List Part} {a : State} (s : State) (dst : Nat) (h_reg : Part.reg ∈ L) (h_cmd : Part.cmd ∈ L) (h_core : Part.core ∈ L) (h_rtr : Part.rtr ∈ L) (h_fab : Part.fab ∈ L) (h_eth : Part.eth ∈ L) (h_gov : Part.gov ∈ L) (h_irq : Part.irq ∈ L) (h_ptb : Part.ptb ∈ L) (h_out : Part.out ∈ L) (h_free : Part.free ∈ L) (hf : OnlyChanges L a s) :
    OnlyChanges L a (State.packetSend s dst) := by
  unfold State.packetSend; (repeat' split) <;> simp (maxDischargeDepth := 40) +contextual [*]
@[simp] theorem State.storePacket_Only {L : List Part} {a : State} (s : State) (n : Nat) (p : Packet) (h_reg : Part.reg ∈ L) (h_mem : Part.mem ∈ L) (h_rtr : Part.rtr ∈ L) (h_eth : Part.eth ∈ L) (h_gov : Part.gov ∈ L) (h_irq : Part.irq ∈ L) (h_out : Part.out ∈ L) (hf : OnlyChanges L a s) :
    OnlyChanges L a (State.storePacket s n p).1 := by
  unfold State.storePacket; simp (maxDischargeDepth := 40) +contextual [*]
theorem State.storePacket_Only' {L : List Part} {a : State} (s : State) (n : Nat) (p : Packet) (h_reg : Part.reg ∈ L) (h_mem : Part.mem ∈ L) (h_rtr : Part.rtr ∈ L) (h_eth : Part.eth ∈ L) (h_gov : Part.gov ∈ L) (h_irq : Part.irq ∈ L) (h_out : Part.out ∈ L) (hf : OnlyChanges L a s) {t0 : State} {y0 : Nat}
    (ht : State.storePacket s n p = (t0, y0)) : OnlyChanges L a t0 := by
  have h0 := State.storePacket_Only (L := L) s n p h_reg h_mem h_rtr h_eth h_gov h_irq h_out hf; rw [ht] at h0; exact h0
@[simp] theorem State.creditBack_Only {L : List Part} {a : State} (s : State) (src : BitVec 6) (dst : Nat) (h_reg : Part.reg ∈ L) (h_rtr : Part.rtr ∈ L) (h_fab : Part.fab ∈ L) (h_eth : Part.eth ∈ L) (h_gov : Part.gov ∈ L) (h_irq : Part.irq ∈ L) (h_ptb : Part.ptb ∈ L) (h_out : Part.out ∈ L) (h_free : Part.free ∈ L) (hf : OnlyChanges L a s) :
    OnlyChanges L a (State.creditBack s src dst) := by
  unfold State.creditBack; simp (maxDischargeDepth := 40) +contextual [*]
@[simp] theorem State.acceptPacket_Only {L : List Part} {a : State} (s : State) (src : BitVec 6) (n : Nat) (p : Packet) (h_reg : Part.reg ∈ L) (h_cmd : Part.cmd ∈ L) (h_rtr : Part.rtr ∈ L) (h_fab : Part.fab ∈ L) (h_eth : Part.eth ∈ L) (h_gov : Part.gov ∈ L) (h_irq : Part.irq ∈ L) (h_ptb : Part.ptb ∈ L) (h_out : Part.out ∈ L) (h_free : Part.free ∈ L) (hf : OnlyChanges L a s) :
    OnlyChanges L a (State.acceptPacket s src n p) := by
  unfold State.acceptPacket; simp (maxDischargeDepth := 40) +contextual [*]
@[simp] theorem State.packetAccept_Only {L : List Part} {a : State} (s : State) (src : BitVec 6) (p : Packet) (h_reg : Part.reg ∈ L) (h_mem : Part.mem ∈ L) (h_cmd : Part.cmd ∈ L) (h_rtr : Part.rtr ∈ L) (h_fab : Part.fab ∈ L) (h_eth : Part.eth ∈ L) (h_gov : Part.gov ∈ L) (h_irq : Part.irq ∈ L) (h_ptb : Part.ptb ∈ L) (h_out : Part.out ∈ L) (h_free : Part.free ∈ L) (hf : OnlyChanges L a s) :
    OnlyChanges L a (State.packetAccept s src p) := by
  unfold State.packetAccept
  split
  · exact hf
  · rename_i n hn
    extract_lets own
    split
    · exact hf
    · split
      · exact hf
      · split
        rename_i t m he
        have h1 : OnlyChanges L a t := by
          have h0 : OnlyChanges L a (s.storePacket n p).1 := State.storePacket_Only s n p h_reg h_mem h_rtr h_eth h_gov h_irq h_out hf
          rw [he] at h0; exact h0
        split <;> simp (maxDischargeDepth := 40) [*]
@[simp] theorem State.stagingJoin_Only {L : List Part} {a : State} (s : State) (n : Nat) (h_reg : Part.reg ∈ L) (h_mem : Part.mem ∈ L) (h_cmd : Part.cmd ∈ L) (h_rtr : Part.rtr ∈ L) (h_fab : Part.fab ∈ L) (h_eth : Part.eth ∈ L) (h_gov : Part.gov ∈ L) (h_irq : Part.irq ∈ L) (h_ptb : Part.ptb ∈ L) (h_out : Part.out ∈ L) (h_free : Part.free ∈ L) (hf : OnlyChanges L a s) :
    OnlyChanges L a (State.stagingJoin s n) := by
  unfold State.stagingJoin; simp (maxDischargeDepth := 40) +contextual [*]
@[simp] theorem State.acceptAck_Only {L : List Part} {a : State} (s : State) (b dst : Nat) (h_cmd : Part.cmd ∈ L) (h_rtr : Part.rtr ∈ L) (hf : OnlyChanges L a s) :
    OnlyChanges L a (State.acceptAck s b dst) := by
  unfold State.acceptAck; (repeat' split) <;> simp (maxDischargeDepth := 40) +contextual [*]

end Sys2Proof.Machine
end

