-- ==== Sys2Proof/Laws/Only/MemoryUnits.lean ====
section
/-! SUPPORT. Laws/Only/MemoryUnits.lean: what each operation of Machine/MemoryUnits.lean can do to the tables (its units). -/

namespace Sys2Proof.Machine

@[simp] theorem State.sliceUE_Only {L : List Part} {a : State} (s : State) (k off : Nat) (h_reg : Part.reg ∈ L) (h_eth : Part.eth ∈ L) (h_irq : Part.irq ∈ L) (h_out : Part.out ∈ L) (hf : OnlyChanges L a s) :
    OnlyChanges L a (State.sliceUE s k off) := by
  unfold State.sliceUE; simp (maxDischargeDepth := 40) +contextual [*]
@[simp] theorem State.hbmUE_Only {L : List Part} {a0 : State} (s : State) (a : Nat) (h_reg : Part.reg ∈ L) (h_eth : Part.eth ∈ L) (h_irq : Part.irq ∈ L) (h_out : Part.out ∈ L) (hf : OnlyChanges L a0 s) :
    OnlyChanges L a0 (State.hbmUE s a) := by
  unfold State.hbmUE; simp (maxDischargeDepth := 40) +contextual [*]
@[simp] theorem State.wordUE_Only {L : List Part} {a0 : State} (s : State) (a : Nat) (h_reg : Part.reg ∈ L) (h_eth : Part.eth ∈ L) (h_irq : Part.irq ∈ L) (h_out : Part.out ∈ L) (hf : OnlyChanges L a0 s) :
    OnlyChanges L a0 (State.wordUE s a) := by
  unfold State.wordUE; simp (maxDischargeDepth := 40) +contextual [*]
@[simp] theorem State.reportUE_Only {L : List Part} {a0 : State} (s : State) (a n : Nat) (h_reg : Part.reg ∈ L) (h_eth : Part.eth ∈ L) (h_irq : Part.irq ∈ L) (h_out : Part.out ∈ L) (hf : OnlyChanges L a0 s) :
    OnlyChanges L a0 (State.reportUE s a n) := by
  unfold State.reportUE; simp (maxDischargeDepth := 40) +contextual [*]
@[simp] theorem State.wordCE_Only {L : List Part} {a0 : State} (s : State) (a : Nat) (h_reg : Part.reg ∈ L) (h_mem : Part.mem ∈ L) (hf : OnlyChanges L a0 s) :
    OnlyChanges L a0 (State.wordCE s a) := by
  unfold State.wordCE; simp (maxDischargeDepth := 40) +contextual [*]
@[simp] theorem State.bankOld_Only {L : List Part} {a : State} (s : State) (k word : Nat) (h_free : Part.free ∈ L) (hf : OnlyChanges L a s) :
    OnlyChanges L a (s.bankOld k word).2 := by
  unfold State.bankOld
  split
  · exact hf
  · split
    · exact State.draw_Only _ h_free (State.draw_Only _ h_free hf)
    · exact State.readInsts_Only s (Mem.slice k + word * 8) (s.bytes (Mem.slice k + word * 8) 8) h_free hf
theorem State.bankOld_Only' {L : List Part} {a : State} (s : State) (k word : Nat) (h_free : Part.free ∈ L) (hf : OnlyChanges L a s)
    {t0 : State} {y0 : Word64} (ht : s.bankOld k word = (y0, t0)) : OnlyChanges L a t0 := by
  have h0 := State.bankOld_Only s k word h_free hf; rw [ht] at h0; exact h0
@[simp] theorem State.bankRead_Only {L : List Part} {a : State} (s : State) (k word : Nat) (old : Word64) (bad : Bool) (r : SliceReq) (h_reg : Part.reg ∈ L) (h_eth : Part.eth ∈ L) (h_irq : Part.irq ∈ L) (h_out : Part.out ∈ L) (hf : OnlyChanges L a s) :
    OnlyChanges L a (State.bankRead s k word old bad r) := by
  unfold State.bankRead; simp (maxDischargeDepth := 40) +contextual [*]
@[simp] theorem State.bankWrite_Only {L : List Part} {a : State} (s : State) (k word : Nat) (r : SliceReq) (h_reg : Part.reg ∈ L) (h_mem : Part.mem ∈ L) (h_cnv : Part.cnv ∈ L) (h_eth : Part.eth ∈ L) (h_irq : Part.irq ∈ L) (h_out : Part.out ∈ L) (h_free : Part.free ∈ L) (hf : OnlyChanges L a s) :
    OnlyChanges L a (State.bankWrite s k word r) := by
  unfold State.bankWrite; simp only []; (repeat' (first | exact hf | (refine OnlyChanges.forAll ?_ _ ?_; intro s x h) | split)) <;> simp_all (maxDischargeDepth := 40) +contextual
@[simp] theorem State.bankLose_Only {L : List Part} {a : State} (s : State) (k : Nat) (r : SliceReq) (h_reg : Part.reg ∈ L) (h_eth : Part.eth ∈ L) (h_irq : Part.irq ∈ L) (h_out : Part.out ∈ L) (hf : OnlyChanges L a s) :
    OnlyChanges L a (State.bankLose s k r) := by
  unfold State.bankLose; simp (maxDischargeDepth := 40) +contextual [*]
@[simp] theorem State.vaultRefuse_Only {L : List Part} {a : State} (s : State) (r : SliceReq) (h_reg : Part.reg ∈ L) (h_eth : Part.eth ∈ L) (h_irq : Part.irq ∈ L) (h_out : Part.out ∈ L) (hf : OnlyChanges L a s) :
    OnlyChanges L a (State.vaultRefuse s r) := by
  unfold State.vaultRefuse; simp (maxDischargeDepth := 40) +contextual [*]
@[simp] theorem State.setRequests_Only {L : List Part} {a : State} (s : State) (k : Nat) (l : List SliceReq) (h_mem : Part.mem ∈ L) (hf : OnlyChanges L a s) :
    OnlyChanges L a (State.setRequests s k l) := by
  unfold State.setRequests; simp (maxDischargeDepth := 40) +contextual [*]
@[simp] theorem State.countPortWaits_Only {L : List Part} {a : State} (s : State) (k : Nat) (l : List SliceReq) (h_reg : Part.reg ∈ L) (h_free : Part.free ∈ L) (hf : OnlyChanges L a s) :
    OnlyChanges L a (State.countPortWaits s k l) := by
  unfold State.countPortWaits; simp (maxDischargeDepth := 40) +contextual [*]
@[simp] theorem State.bankServe_Only {L : List Part} {a : State} (s : State) (k word : Nat) (ce : Bool) (l : List SliceReq) (h_reg : Part.reg ∈ L) (h_mem : Part.mem ∈ L) (h_cnv : Part.cnv ∈ L) (h_eth : Part.eth ∈ L) (h_irq : Part.irq ∈ L) (h_out : Part.out ∈ L) (h_free : Part.free ∈ L) (hf : OnlyChanges L a s) :
    OnlyChanges L a (State.bankServe s k word ce l) := by
  unfold State.bankServe; simp only []; (repeat' (first | exact hf | (refine OnlyChanges.forAll ?_ _ ?_; intro s x h) | split)) <;> simp_all (maxDischargeDepth := 40) +contextual
@[simp] theorem State.bankCycle_Only {L : List Part} {a : State} (s : State) (k bank : Nat) (ce : Bool) (reqs : List SliceReq) (h_reg : Part.reg ∈ L) (h_mem : Part.mem ∈ L) (h_cnv : Part.cnv ∈ L) (h_eth : Part.eth ∈ L) (h_gov : Part.gov ∈ L) (h_irq : Part.irq ∈ L) (h_out : Part.out ∈ L) (h_free : Part.free ∈ L) (hf : OnlyChanges L a s) :
    OnlyChanges L a (State.bankCycle s k bank ce reqs) := by
  unfold State.bankCycle
  extract_lets s1 key p
  have h1 : OnlyChanges L a s1 := by simp (maxDischargeDepth := 40) [s1, *]
  clear_value s1
  split
  rename_i p2 s2 he
  have h2 : OnlyChanges L a s2 := by
    split at he
    · split at he <;> cases he <;> simp (maxDischargeDepth := 40) [*]
    · cases he; exact h1
  clear he
  extract_lets mine m
  split
  · exact h2
  · rename_i c r hl
    extract_lets l s3 s4
    have h3 : OnlyChanges L a s3 := OnlyChanges.mem_upd _ h_mem h2
    clear_value s3
    have h4 : OnlyChanges L a s4 := by simp (maxDischargeDepth := 40) [s4, *]
    clear_value s4
    simp (maxDischargeDepth := 40) [*]
@[simp] theorem State.vaultWipe_Only {L : List Part} {a : State} (s : State) (h_mem : Part.mem ∈ L) (hf : OnlyChanges L a s) :
    OnlyChanges L a (State.vaultWipe s) := by
  unfold State.vaultWipe; simp (maxDischargeDepth := 40) +contextual [*]
@[simp] theorem State.markBad_Only {L : List Part} {a : State} (s : State) (w : Nat) (h_mem : Part.mem ∈ L) (hf : OnlyChanges L a s) :
    OnlyChanges L a (State.markBad s w) := by
  unfold State.markBad; simp (maxDischargeDepth := 40) +contextual [*]
@[simp] theorem State.scrubRead_Only {L : List Part} {a : State} (s : State) (hbm : Bool) (unit word : Nat) (ce ue : Bool) (h_reg : Part.reg ∈ L) (h_mem : Part.mem ∈ L) (h_eth : Part.eth ∈ L) (h_irq : Part.irq ∈ L) (h_out : Part.out ∈ L) (hf : OnlyChanges L a s) :
    OnlyChanges L a (State.scrubRead s hbm unit word ce ue) := by
  unfold State.scrubRead; (repeat' split) <;> simp (maxDischargeDepth := 40) +contextual [*]
@[simp] theorem State.hbmAccess_Only {L : List Part} {a : State} (s : State) (write : Bool) (addr : Nat) (ce : Bool) (data : List Byte) (h_reg : Part.reg ∈ L) (h_mem : Part.mem ∈ L) (h_eth : Part.eth ∈ L) (h_gov : Part.gov ∈ L) (h_irq : Part.irq ∈ L) (h_out : Part.out ∈ L) (hf : OnlyChanges L a s) :
    OnlyChanges L a (State.hbmAccess s write addr ce data) := by
  unfold State.hbmAccess; simp (maxDischargeDepth := 40) +contextual [*]
@[simp] theorem State.refreshDouble_Only {L : List Part} {a : State} (s : State) (h t : Nat) (h_reg : Part.reg ∈ L) (hf : OnlyChanges L a s) :
    OnlyChanges L a (State.refreshDouble s h t) := by
  unfold State.refreshDouble; simp (maxDischargeDepth := 40) +contextual [*]

end Sys2Proof.Machine
end

