-- ==== Sys2Proof/Laws/Only/Refs.lean ====
section
/-! SUPPORT. Laws/Only/Refs.lean: what each operation of Machine/Refs.lean can do to the tables (its units). -/

namespace Sys2Proof.Machine

@[simp] theorem State.writeMem_Only {L : List Part} {a0 : State} (s : State) (a : Nat) (bytes : List Byte) (h_reg : Part.reg ∈ L) (h_mem : Part.mem ∈ L) (h_cnv : Part.cnv ∈ L) (h_eth : Part.eth ∈ L) (h_gov : Part.gov ∈ L) (h_irq : Part.irq ∈ L) (h_out : Part.out ∈ L) (h_free : Part.free ∈ L) (hf : OnlyChanges L a0 s) :
    OnlyChanges L a0 (State.writeMem s a bytes) := by
  unfold State.writeMem; simp (maxDischargeDepth := 40) +contextual [*]
@[simp] theorem State.putMref_Only {L : List Part} {a : State} (s : State) (stream : BitVec 8) (m : Word64) (bytes : List Byte) (h_reg : Part.reg ∈ L) (h_mem : Part.mem ∈ L) (h_cnv : Part.cnv ∈ L) (h_fab : Part.fab ∈ L) (h_eth : Part.eth ∈ L) (h_gov : Part.gov ∈ L) (h_irq : Part.irq ∈ L) (h_ptb : Part.ptb ∈ L) (h_out : Part.out ∈ L) (h_free : Part.free ∈ L) (hf : OnlyChanges L a s) :
    OnlyChanges L a (State.putMref s stream m bytes) := by
  unfold State.putMref; simp only []; (repeat' (first | exact hf | (refine OnlyChanges.forAll ?_ _ ?_; intro s x h) | split)) <;> simp_all (maxDischargeDepth := 40) +contextual
@[simp] theorem State.tookPath_Only {L : List Part} {a : State} (s : State) (h : Hdr) (cseq : Word64) (op : Byte) (arg : Nat) (h_cmd : Part.cmd ∈ L) (hf : OnlyChanges L a s) :
    OnlyChanges L a (State.tookPath s h cseq op arg) := by
  unfold State.tookPath; simp (maxDischargeDepth := 40) +contextual [*]
@[simp] theorem State.wrote_Only {L : List Part} {a : State} (s : State) (h : Hdr) (cseq : Word64) (op : Byte) (dst : Word64) (len : Nat) (st : Byte) (res : Nat) (q : BitVec 12) (h_reg : Part.reg ∈ L) (h_cmd : Part.cmd ∈ L) (h_eth : Part.eth ∈ L) (h_irq : Part.irq ∈ L) (h_out : Part.out ∈ L) (hf : OnlyChanges L a s) :
    OnlyChanges L a (State.wrote s h cseq op dst len st res q) := by
  unfold State.wrote; (repeat' split) <;> simp (maxDischargeDepth := 40) +contextual [*]
@[simp] theorem State.getMref_Only {L : List Part} {a : State} (s : State) (stream : BitVec 8) (m : Word64) (n : Nat) (h_reg : Part.reg ∈ L) (h_cmd : Part.cmd ∈ L) (h_eth : Part.eth ∈ L) (h_gov : Part.gov ∈ L) (h_irq : Part.irq ∈ L) (h_out : Part.out ∈ L) (h_free : Part.free ∈ L) (hf : OnlyChanges L a s) :
    OnlyChanges L a (State.getMref s stream m n).2.2 := by
  unfold State.getMref; simp only []; (repeat' (first | exact hf | (refine OnlyChanges.forAll ?_ _ ?_; intro s x h) | split)) <;> simp_all (maxDischargeDepth := 40) +contextual
theorem State.getMref_Only' {L : List Part} {a : State} (s : State) (stream : BitVec 8) (m : Word64) (n : Nat) (h_reg : Part.reg ∈ L) (h_cmd : Part.cmd ∈ L) (h_eth : Part.eth ∈ L) (h_gov : Part.gov ∈ L) (h_irq : Part.irq ∈ L) (h_out : Part.out ∈ L) (h_free : Part.free ∈ L) (hf : OnlyChanges L a s) {t0 : State} {y0 : List Byte} {z0 : Bool}
    (ht : State.getMref s stream m n = (y0, z0, t0)) : OnlyChanges L a t0 := by
  have h0 := State.getMref_Only (L := L) s stream m n h_reg h_cmd h_eth h_gov h_irq h_out h_free hf; rw [ht] at h0; exact h0
@[simp] theorem State.writerClose_Only {L : List Part} {a : State} (s : State) (d q : Nat) (h_reg : Part.reg ∈ L) (h_cmd : Part.cmd ∈ L) (h_syn : Part.syn ∈ L) (h_eth : Part.eth ∈ L) (h_irq : Part.irq ∈ L) (h_out : Part.out ∈ L) (hf : OnlyChanges L a s) :
    OnlyChanges L a (State.writerClose s d q) := by
  unfold State.writerClose; simp (maxDischargeDepth := 40) +contextual [*]
@[simp] theorem State.closeWritersAt_Only {L : List Part} {a : State} (s : State) (d : Nat) (h_reg : Part.reg ∈ L) (h_cmd : Part.cmd ∈ L) (h_syn : Part.syn ∈ L) (h_eth : Part.eth ∈ L) (h_irq : Part.irq ∈ L) (h_out : Part.out ∈ L) (hf : OnlyChanges L a s) :
    OnlyChanges L a (State.closeWritersAt s d) := by
  unfold State.closeWritersAt; simp (maxDischargeDepth := 40) +contextual [*]
@[simp] theorem State.queueClose_Only {L : List Part} {a : State} (s : State) (q : Nat) (cause : BitVec 3) (h_reg : Part.reg ∈ L) (h_cmd : Part.cmd ∈ L) (h_syn : Part.syn ∈ L) (h_fab : Part.fab ∈ L) (h_eth : Part.eth ∈ L) (h_gov : Part.gov ∈ L) (h_irq : Part.irq ∈ L) (h_ptb : Part.ptb ∈ L) (h_out : Part.out ∈ L) (h_free : Part.free ∈ L) (hf : OnlyChanges L a s) :
    OnlyChanges L a (State.queueClose s q cause) := by
  unfold State.queueClose; simp (maxDischargeDepth := 40) +contextual [*]
@[simp] theorem State.streamGone_Only {L : List Part} {a : State} (s : State) (n : BitVec 8) (cause : BitVec 3) (h_reg : Part.reg ∈ L) (h_cmd : Part.cmd ∈ L) (h_syn : Part.syn ∈ L) (h_fab : Part.fab ∈ L) (h_eth : Part.eth ∈ L) (h_gov : Part.gov ∈ L) (h_irq : Part.irq ∈ L) (h_ptb : Part.ptb ∈ L) (h_out : Part.out ∈ L) (h_free : Part.free ∈ L) (hf : OnlyChanges L a s) :
    OnlyChanges L a (State.streamGone s n cause) := by
  unfold State.streamGone; simp (maxDischargeDepth := 40) +contextual [*]
@[simp] theorem State.freezeStream_Only {L : List Part} {a : State} (s : State) (n : BitVec 8) (cause op : Byte) (cseq : Word64) (h_reg : Part.reg ∈ L) (h_cmd : Part.cmd ∈ L) (h_syn : Part.syn ∈ L) (h_fab : Part.fab ∈ L) (h_eth : Part.eth ∈ L) (h_gov : Part.gov ∈ L) (h_irq : Part.irq ∈ L) (h_ptb : Part.ptb ∈ L) (h_out : Part.out ∈ L) (h_free : Part.free ∈ L) (hf : OnlyChanges L a s) :
    OnlyChanges L a (State.freezeStream s n cause op cseq) := by
  unfold State.freezeStream; simp (maxDischargeDepth := 40) +contextual [*]
@[simp] theorem State.rejected_Only {L : List Part} {a : State} (s : State) (h : Hdr) (cseq : Word64) (op : Byte) (h_reg : Part.reg ∈ L) (h_cmd : Part.cmd ∈ L) (h_syn : Part.syn ∈ L) (h_fab : Part.fab ∈ L) (h_eth : Part.eth ∈ L) (h_gov : Part.gov ∈ L) (h_irq : Part.irq ∈ L) (h_ptb : Part.ptb ∈ L) (h_out : Part.out ∈ L) (h_free : Part.free ∈ L) (hf : OnlyChanges L a s) :
    OnlyChanges L a (State.rejected s h cseq op) := by
  unfold State.rejected; simp (maxDischargeDepth := 40) +contextual [*]
@[simp] theorem State.writeDone_Only {L : List Part} {a : State} (s : State) (b : Nat) (h : Hdr) (cseq : Word64) (op : Byte) (m : Word64) (bytes : List Byte) (res : Nat) (h_reg : Part.reg ∈ L) (h_mem : Part.mem ∈ L) (h_cmd : Part.cmd ∈ L) (h_cnv : Part.cnv ∈ L) (h_syn : Part.syn ∈ L) (h_fab : Part.fab ∈ L) (h_eth : Part.eth ∈ L) (h_gov : Part.gov ∈ L) (h_irq : Part.irq ∈ L) (h_ptb : Part.ptb ∈ L) (h_out : Part.out ∈ L) (h_free : Part.free ∈ L) (hf : OnlyChanges L a s) :
    OnlyChanges L a (State.writeDone s b h cseq op m bytes res) := by
  unfold State.writeDone; simp (maxDischargeDepth := 40) +contextual [*]

end Sys2Proof.Machine
end

