-- ==== Sys2Proof/Laws/Only/Converters.lean ====
section
/-! SUPPORT. Laws/Only/Converters.lean: what each operation of Machine/Converters.lean can do to the tables (its units). -/

namespace Sys2Proof.Machine

@[simp] theorem State.takeRow_Only {L : List Part} {a : State} (s : State) (h k : Nat) (tstep : Nat) (zin : BitVec 8) (row : List Byte) (h_reg : Part.reg ∈ L) (h_cnv : Part.cnv ∈ L) (h_eth : Part.eth ∈ L) (h_irq : Part.irq ∈ L) (h_out : Part.out ∈ L) (hf : OnlyChanges L a s) :
    OnlyChanges L a (State.takeRow s h k tstep zin row).1 := by
  unfold State.takeRow; simp only []; (repeat' (first | exact hf | (refine OnlyChanges.forAll ?_ _ ?_; intro s x h) | split)) <;> simp_all (maxDischargeDepth := 40) +contextual
theorem State.takeRow_Only' {L : List Part} {a : State} (s : State) (h k : Nat) (tstep : Nat) (zin : BitVec 8) (row : List Byte) (h_reg : Part.reg ∈ L) (h_cnv : Part.cnv ∈ L) (h_eth : Part.eth ∈ L) (h_irq : Part.irq ∈ L) (h_out : Part.out ∈ L) (hf : OnlyChanges L a s) {t0 : State} {y0 : Bool}
    (ht : State.takeRow s h k tstep zin row = (t0, y0)) : OnlyChanges L a t0 := by
  have h0 := State.takeRow_Only (L := L) s h k tstep zin row h_reg h_cnv h_eth h_irq h_out hf; rw [ht] at h0; exact h0
@[simp] theorem State.takeRows_Only {L : List Part} {a : State} (s : State) (h cfirst tstep : Nat) (zin : BitVec 8) (l : List (List Byte)) (n : Nat) (h_reg : Part.reg ∈ L) (h_cnv : Part.cnv ∈ L) (h_eth : Part.eth ∈ L) (h_irq : Part.irq ∈ L) (h_out : Part.out ∈ L) (hf : OnlyChanges L a s) : OnlyChanges L a (State.takeRows s h cfirst tstep zin l n).1 := by
  induction l generalizing s cfirst n with
  | nil => exact hf
  | cons row r ih =>
    simp only [State.takeRows]
    split <;> exact ih _ _ _ (by simp (maxDischargeDepth := 40) +contextual [*])
@[simp] theorem State.obsRecs_Only {L : List Part} {a : State} (s : State) (l : List ObsRec) (h_reg : Part.reg ∈ L) (h_cnv : Part.cnv ∈ L) (h_eth : Part.eth ∈ L) (h_irq : Part.irq ∈ L) (h_out : Part.out ∈ L) (hf : OnlyChanges L a s) : OnlyChanges L a (s.obsRecs l) := by
  induction l generalizing s with
  | nil => exact hf
  | cons r rest ih =>
    simp only [State.obsRecs]
    split
    · simp (maxDischargeDepth := 40) +contextual [*]
    · split
      · simp (maxDischargeDepth := 40) +contextual [*]
      · exact ih _ (by simp (maxDischargeDepth := 40) +contextual [*])
@[simp] theorem State.emitFrom_Only {L : List Part} {a : State} (h k n : Nat) (l : List (Nat × Nat × Nat)) (s : State) (h_reg : Part.reg ∈ L) (h_cmd : Part.cmd ∈ L) (h_core : Part.core ∈ L) (h_rtr : Part.rtr ∈ L) (h_cnv : Part.cnv ∈ L) (h_free : Part.free ∈ L) (hf : OnlyChanges L a s) : OnlyChanges L a (State.emitFrom h k n l s) := by
  induction l generalizing s with
  | nil => exact State.setInst_Only _ _ _ h_cnv hf
  | cons r t ih =>
    simp only [State.emitFrom]
    split
    · exact State.countFree_Only _ _ h_reg h_free (State.setInst_Only _ _ _ h_cnv hf)
    · exact ih _ (State.addReplica_Only _ _ _ _ _ _ _ _ _ h_cmd h_core h_rtr hf)
@[simp] theorem State.emitLeft_Only {L : List Part} {a : State} (s : State) (h k : Nat) (l : List (Nat × Nat × Nat)) (h_reg : Part.reg ∈ L) (h_cmd : Part.cmd ∈ L) (h_core : Part.core ∈ L) (h_rtr : Part.rtr ∈ L) (h_cnv : Part.cnv ∈ L) (h_eth : Part.eth ∈ L) (h_irq : Part.irq ∈ L) (h_out : Part.out ∈ L) (h_free : Part.free ∈ L) (hf : OnlyChanges L a s) :
    OnlyChanges L a (State.emitLeft s h k l) := by
  unfold State.emitLeft; simp (maxDischargeDepth := 40) +contextual [*]
@[simp] theorem State.emitRecs_Only {L : List Part} {a : State} (s : State) (h cidx : Nat) (recs : List (Nat × Nat)) (h_reg : Part.reg ∈ L) (h_cmd : Part.cmd ∈ L) (h_core : Part.core ∈ L) (h_rtr : Part.rtr ∈ L) (h_cnv : Part.cnv ∈ L) (h_eth : Part.eth ∈ L) (h_gov : Part.gov ∈ L) (h_irq : Part.irq ∈ L) (h_out : Part.out ∈ L) (h_free : Part.free ∈ L) (hf : OnlyChanges L a s) :
    OnlyChanges L a (State.emitRecs s h cidx recs) := by
  unfold State.emitRecs; simp (maxDischargeDepth := 40) +contextual [*]
@[simp] theorem State.encodeWith_Only {L : List Part} {a : State} (s : State) (h : Nat) (p : Nat × Ctx) (u : List Nat) (scales : Option (List Nat × List Nat)) (h_reg : Part.reg ∈ L) (h_cmd : Part.cmd ∈ L) (h_core : Part.core ∈ L) (h_rtr : Part.rtr ∈ L) (h_cnv : Part.cnv ∈ L) (h_eth : Part.eth ∈ L) (h_gov : Part.gov ∈ L) (h_irq : Part.irq ∈ L) (h_out : Part.out ∈ L) (h_free : Part.free ∈ L) (hf : OnlyChanges L a s) :
    OnlyChanges L a (State.encodeWith s h p u scales) := by
  unfold State.encodeWith; simp (maxDischargeDepth := 40) +contextual [*]
@[simp] theorem State.encodeInstance_Only {L : List Part} {a : State} (s : State) (h k : Nat) (h_reg : Part.reg ∈ L) (h_cmd : Part.cmd ∈ L) (h_core : Part.core ∈ L) (h_rtr : Part.rtr ∈ L) (h_cnv : Part.cnv ∈ L) (h_eth : Part.eth ∈ L) (h_gov : Part.gov ∈ L) (h_irq : Part.irq ∈ L) (h_out : Part.out ∈ L) (h_free : Part.free ∈ L) (hf : OnlyChanges L a s) :
    OnlyChanges L a (State.encodeInstance s h k) := by
  unfold State.encodeInstance; simp only []; (repeat' (first | exact hf | (refine OnlyChanges.forAll ?_ _ ?_; intro s x h) | split)) <;> simp_all (maxDischargeDepth := 40) +contextual
@[simp] theorem State.encodeTimeout_Only {L : List Part} {a : State} (s : State) (h k : Nat) (h_reg : Part.reg ∈ L) (h_cmd : Part.cmd ∈ L) (h_core : Part.core ∈ L) (h_rtr : Part.rtr ∈ L) (h_cnv : Part.cnv ∈ L) (h_eth : Part.eth ∈ L) (h_gov : Part.gov ∈ L) (h_irq : Part.irq ∈ L) (h_out : Part.out ∈ L) (h_free : Part.free ∈ L) (hf : OnlyChanges L a s) :
    OnlyChanges L a (State.encodeTimeout s h k) := by
  unfold State.encodeTimeout; (repeat' split) <;> simp (maxDischargeDepth := 40) +contextual [*]
@[simp] theorem State.setTally_Only {L : List Part} {a : State} (s : State) (h k step i v : Nat) (h_cnv : Part.cnv ∈ L) (hf : OnlyChanges L a s) :
    OnlyChanges L a (State.setTally s h k step i v) := by
  unfold State.setTally; simp (maxDischargeDepth := 40) +contextual [*]
@[simp] theorem State.tapAccept_Only {L : List Part} {a : State} (s : State) (t : Tap) (h_reg : Part.reg ∈ L) (h_cnv : Part.cnv ∈ L) (h_eth : Part.eth ∈ L) (h_gov : Part.gov ∈ L) (h_irq : Part.irq ∈ L) (h_out : Part.out ∈ L) (h_free : Part.free ∈ L) (hf : OnlyChanges L a s) :
    OnlyChanges L a (State.tapAccept s t) := by
  unfold State.tapAccept; simp only []; (repeat' (first | exact hf | (refine OnlyChanges.forAll ?_ _ ?_; intro s x h) | split)) <;> simp_all (maxDischargeDepth := 40) +contextual
@[simp] theorem State.decodeDone_Only {L : List Part} {a : State} (s : State) (d : DecodeReq) (h_reg : Part.reg ∈ L) (h_mem : Part.mem ∈ L) (h_cmd : Part.cmd ∈ L) (h_cnv : Part.cnv ∈ L) (h_syn : Part.syn ∈ L) (h_fab : Part.fab ∈ L) (h_eth : Part.eth ∈ L) (h_gov : Part.gov ∈ L) (h_irq : Part.irq ∈ L) (h_ptb : Part.ptb ∈ L) (h_out : Part.out ∈ L) (h_free : Part.free ∈ L) (hf : OnlyChanges L a s) :
    OnlyChanges L a (State.decodeDone s d) := by
  unfold State.decodeDone; simp (maxDischargeDepth := 40) +contextual [*]
@[simp] theorem State.serveDecodes_Only {L : List Part} {a : State} (s : State) (h_reg : Part.reg ∈ L) (h_mem : Part.mem ∈ L) (h_cmd : Part.cmd ∈ L) (h_cnv : Part.cnv ∈ L) (h_syn : Part.syn ∈ L) (h_fab : Part.fab ∈ L) (h_eth : Part.eth ∈ L) (h_gov : Part.gov ∈ L) (h_irq : Part.irq ∈ L) (h_ptb : Part.ptb ∈ L) (h_out : Part.out ∈ L) (h_free : Part.free ∈ L) (hf : OnlyChanges L a s) :
    OnlyChanges L a (State.serveDecodes s) := by
  unfold State.serveDecodes; simp (maxDischargeDepth := 40) +contextual [*]
@[simp] theorem State.emitAll_Only {L : List Part} {a : State} (s : State) (b : Nat) (l : List Nat) (h_reg : Part.reg ∈ L) (h_cnv : Part.cnv ∈ L) (hf : OnlyChanges L a s) :
    OnlyChanges L a (State.emitAll s b l) := by
  unfold State.emitAll; simp (maxDischargeDepth := 40) +contextual [*]
@[simp] theorem State.updateInstant_Only {L : List Part} {a : State} (s : State) (b : Nat) (h_reg : Part.reg ∈ L) (h_cnv : Part.cnv ∈ L) (hf : OnlyChanges L a s) :
    OnlyChanges L a (State.updateInstant s b) := by
  unfold State.updateInstant; simp (maxDischargeDepth := 40) +contextual [*]
@[simp] theorem State.decodeInstance_Only {L : List Part} {a : State} (s : State) (h k : Nat) (h_reg : Part.reg ∈ L) (h_mem : Part.mem ∈ L) (h_cmd : Part.cmd ∈ L) (h_cnv : Part.cnv ∈ L) (h_syn : Part.syn ∈ L) (h_fab : Part.fab ∈ L) (h_eth : Part.eth ∈ L) (h_gov : Part.gov ∈ L) (h_irq : Part.irq ∈ L) (h_ptb : Part.ptb ∈ L) (h_out : Part.out ∈ L) (h_free : Part.free ∈ L) (hf : OnlyChanges L a s) :
    OnlyChanges L a (State.decodeInstance s h k) := by
  unfold State.decodeInstance
  extract_lets c x
  split
  · exact hf
  · split
    · exact hf
    · extract_lets n s1 s2 b
      have h1 : OnlyChanges L a s1 := OnlyChanges.forAll (fun s x h => by simp (maxDischargeDepth := 40) +contextual [*]) _ hf
      clear_value s1
      have h2 : OnlyChanges L a s2 := by
        simp only [s2]
        split
        · simp (maxDischargeDepth := 40) +contextual [*]
        · split
          · simp (maxDischargeDepth := 40) +contextual [*]
          · split
            · simp (maxDischargeDepth := 40) +contextual [*]
            · (repeat' split) <;> simp (maxDischargeDepth := 40) +contextual [*]
      clear_value s2
      split
      · simp (maxDischargeDepth := 40) +contextual [*]
      · simp (maxDischargeDepth := 40) +contextual [*]
@[simp] theorem State.decodesDue_Only {L : List Part} {a : State} (s : State) (b : Nat) (h_reg : Part.reg ∈ L) (h_mem : Part.mem ∈ L) (h_cmd : Part.cmd ∈ L) (h_cnv : Part.cnv ∈ L) (h_syn : Part.syn ∈ L) (h_fab : Part.fab ∈ L) (h_eth : Part.eth ∈ L) (h_gov : Part.gov ∈ L) (h_irq : Part.irq ∈ L) (h_ptb : Part.ptb ∈ L) (h_out : Part.out ∈ L) (h_free : Part.free ∈ L) (hf : OnlyChanges L a s) :
    OnlyChanges L a (State.decodesDue s b) := by
  unfold State.decodesDue; simp (maxDischargeDepth := 40) +contextual [*]
@[simp] theorem State.actForce_Only {L : List Part} {a : State} (s : State) (f : Nat) (h_reg : Part.reg ∈ L) (h_cnv : Part.cnv ∈ L) (hf : OnlyChanges L a s) :
    OnlyChanges L a (State.actForce s f) := by
  unfold State.actForce; simp only []; (repeat' (first | exact hf | (refine OnlyChanges.forAll ?_ _ ?_; intro s x h) | split)) <;> simp_all (maxDischargeDepth := 40) +contextual
@[simp] theorem State.actSnapshot_Only {L : List Part} {a : State} (s : State) (f : Nat) (h_reg : Part.reg ∈ L) (h_cnv : Part.cnv ∈ L) (hf : OnlyChanges L a s) :
    OnlyChanges L a (State.actSnapshot s f) := by
  unfold State.actSnapshot; simp (maxDischargeDepth := 40) +contextual [*]

end Sys2Proof.Machine
end

