-- ==== Sys2Proof/Laws/Only/Checks.lean ====
section
/-! SUPPORT. Laws/Only/Checks.lean: what each operation of Machine/Checks.lean can do to the tables (its units). -/

namespace Sys2Proof.Machine

@[simp] theorem State.imgszNow_Only {L : List Part} {a : State} (s : State) (b : Nat) (h_reg : Part.reg ∈ L) (hf : OnlyChanges L a s) :
    OnlyChanges L a (State.imgszNow s b) := by
  unfold State.imgszNow; simp (maxDischargeDepth := 40) +contextual [*]
@[simp] theorem State.reserve_Only {L : List Part} {a : State} (s : State) (b : Nat) (h_cmd : Part.cmd ∈ L) (hf : OnlyChanges L a s) :
    OnlyChanges L a (State.reserve s b) := by
  unfold State.reserve; simp (maxDischargeDepth := 40) +contextual [*]

end Sys2Proof.Machine
end

