-- ==== Sys2Proof/Laws/Only/Sequencer.lean ====
section
/-! SUPPORT. Laws/Only/Sequencer.lean: what each operation of Machine/Sequencer.lean can do to the tables (its units). -/

namespace Sys2Proof.Machine

@[simp] theorem State.toMembers_Only {L : List Part} {a : State} (s : State) (b : Nat) (o : Out) (h_reg : Part.reg ∈ L) (h_fab : Part.fab ∈ L) (h_eth : Part.eth ∈ L) (h_gov : Part.gov ∈ L) (h_irq : Part.irq ∈ L) (h_ptb : Part.ptb ∈ L) (h_out : Part.out ∈ L) (h_free : Part.free ∈ L) (hf : OnlyChanges L a s) :
    OnlyChanges L a (State.toMembers s b o) := by
  unfold State.toMembers; simp (maxDischargeDepth := 40) +contextual [*]
@[simp] theorem State.setTb_Only {L : List Part} {a : State} (s : State) (t : Nat) (h_tmr : Part.tmr ∈ L) (hf : OnlyChanges L a s) :
    OnlyChanges L a (State.setTb s t) := by
  unfold State.setTb; simp (maxDischargeDepth := 40) +contextual [*]
@[simp] theorem State.epochSet_Only {L : List Part} {a : State} (s : State) (b g len : Nat) (base : BitVec 48) (h_reg : Part.reg ∈ L) (h_mem : Part.mem ∈ L) (h_cmd : Part.cmd ∈ L) (h_core : Part.core ∈ L) (h_rtr : Part.rtr ∈ L) (h_eth : Part.eth ∈ L) (h_gov : Part.gov ∈ L) (h_irq : Part.irq ∈ L) (h_out : Part.out ∈ L) (hf : OnlyChanges L a s) :
    OnlyChanges L a (State.epochSet s b g len base) := by
  unfold State.epochSet; simp (maxDischargeDepth := 40) +contextual [*]
@[simp] theorem State.epochsIn_Only {L : List Part} {a : State} (s : State) (b : Nat) (l : List (BitVec 8 × BitVec 24 × BitVec 48)) (h_reg : Part.reg ∈ L) (h_mem : Part.mem ∈ L) (h_cmd : Part.cmd ∈ L) (h_core : Part.core ∈ L) (h_rtr : Part.rtr ∈ L) (h_eth : Part.eth ∈ L) (h_gov : Part.gov ∈ L) (h_irq : Part.irq ∈ L) (h_out : Part.out ∈ L) (hf : OnlyChanges L a s) :
    OnlyChanges L a (State.epochsIn s b l) := by
  unfold State.epochsIn; simp (maxDischargeDepth := 40) +contextual [*]
@[simp] theorem State.sample_Only {L : List Part} {a : State} (s : State) (x : Hdr × Word64 × Word64) (b : Nat) (h_reg : Part.reg ∈ L) (h_mem : Part.mem ∈ L) (h_cmd : Part.cmd ∈ L) (h_cnv : Part.cnv ∈ L) (h_syn : Part.syn ∈ L) (h_fab : Part.fab ∈ L) (h_eth : Part.eth ∈ L) (h_gov : Part.gov ∈ L) (h_irq : Part.irq ∈ L) (h_ptb : Part.ptb ∈ L) (h_out : Part.out ∈ L) (h_free : Part.free ∈ L) (hf : OnlyChanges L a s) :
    OnlyChanges L a (State.sample s x b) := by
  unfold State.sample; simp (maxDischargeDepth := 40) +contextual [*]
@[simp] theorem State.beginStep_Only {L : List Part} {a : State} (s : State) (b : Nat) (h_reg : Part.reg ∈ L) (h_mem : Part.mem ∈ L) (h_cmd : Part.cmd ∈ L) (h_core : Part.core ∈ L) (h_cnv : Part.cnv ∈ L) (h_syn : Part.syn ∈ L) (h_fab : Part.fab ∈ L) (h_eth : Part.eth ∈ L) (h_gov : Part.gov ∈ L) (h_ltn : Part.ltn ∈ L) (h_irq : Part.irq ∈ L) (h_ptb : Part.ptb ∈ L) (h_out : Part.out ∈ L) (h_free : Part.free ∈ L) (hf : OnlyChanges L a s) :
    OnlyChanges L a (State.beginStep s b) := by
  unfold State.beginStep; simp (maxDischargeDepth := 40) +contextual [*]
@[simp] theorem State.tryStart_Only {L : List Part} {a : State} (s : State) (b slot : Nat) (h_reg : Part.reg ∈ L) (h_mem : Part.mem ∈ L) (h_cmd : Part.cmd ∈ L) (h_core : Part.core ∈ L) (h_cnv : Part.cnv ∈ L) (h_syn : Part.syn ∈ L) (h_fab : Part.fab ∈ L) (h_eth : Part.eth ∈ L) (h_gov : Part.gov ∈ L) (h_ltn : Part.ltn ∈ L) (h_irq : Part.irq ∈ L) (h_ptb : Part.ptb ∈ L) (h_out : Part.out ∈ L) (h_free : Part.free ∈ L) (hf : OnlyChanges L a s) :
    OnlyChanges L a (State.tryStart s b slot) := by
  unfold State.tryStart; simp (maxDischargeDepth := 40) +contextual [*]
@[simp] theorem State.tellStart_Only {L : List Part} {a : State} (s : State) (b : Nat) (o : List (BitVec 8 × BitVec 24 × BitVec 48) → Out) (h_reg : Part.reg ∈ L) (h_cmd : Part.cmd ∈ L) (h_fab : Part.fab ∈ L) (h_eth : Part.eth ∈ L) (h_gov : Part.gov ∈ L) (h_irq : Part.irq ∈ L) (h_ptb : Part.ptb ∈ L) (h_out : Part.out ∈ L) (h_free : Part.free ∈ L) (hf : OnlyChanges L a s) :
    OnlyChanges L a (State.tellStart s b o) := by
  unfold State.tellStart; simp (maxDischargeDepth := 40) +contextual [*]
@[simp] theorem State.stepAdmit_Only {L : List Part} {a : State} (s : State) (b : Nat) (h_reg : Part.reg ∈ L) (h_mem : Part.mem ∈ L) (h_cmd : Part.cmd ∈ L) (h_core : Part.core ∈ L) (h_rtr : Part.rtr ∈ L) (h_cnv : Part.cnv ∈ L) (h_syn : Part.syn ∈ L) (h_fab : Part.fab ∈ L) (h_eth : Part.eth ∈ L) (h_gov : Part.gov ∈ L) (h_ltn : Part.ltn ∈ L) (h_irq : Part.irq ∈ L) (h_ptb : Part.ptb ∈ L) (h_out : Part.out ∈ L) (h_free : Part.free ∈ L) (hf : OnlyChanges L a s) :
    OnlyChanges L a (State.stepAdmit s b) := by
  unfold State.stepAdmit; simp (maxDischargeDepth := 40) +contextual [*]
@[simp] theorem State.startReceipt_Only {L : List Part} {a : State} (s : State) (b : Nat) (slot : Word64) (epochs : List (BitVec 8 × BitVec 24 × BitVec 48)) (h_reg : Part.reg ∈ L) (h_mem : Part.mem ∈ L) (h_cmd : Part.cmd ∈ L) (h_core : Part.core ∈ L) (h_rtr : Part.rtr ∈ L) (h_cnv : Part.cnv ∈ L) (h_syn : Part.syn ∈ L) (h_fab : Part.fab ∈ L) (h_eth : Part.eth ∈ L) (h_gov : Part.gov ∈ L) (h_ltn : Part.ltn ∈ L) (h_irq : Part.irq ∈ L) (h_ptb : Part.ptb ∈ L) (h_out : Part.out ∈ L) (h_free : Part.free ∈ L) (hf : OnlyChanges L a s) :
    OnlyChanges L a (State.startReceipt s b slot epochs) := by
  unfold State.startReceipt; simp (maxDischargeDepth := 40) +contextual [*]
@[simp] theorem State.overrun_Only {L : List Part} {a : State} (s : State) (b : Nat) (h_reg : Part.reg ∈ L) (h_cmd : Part.cmd ∈ L) (h_eth : Part.eth ∈ L) (h_irq : Part.irq ∈ L) (h_out : Part.out ∈ L) (hf : OnlyChanges L a s) :
    OnlyChanges L a (State.overrun s b) := by
  unfold State.overrun; simp only []; (repeat' (first | exact hf | (refine OnlyChanges.forAll ?_ _ ?_; intro s x h) | split)) <;> simp_all (maxDischargeDepth := 40) +contextual
@[simp] theorem State.lockedSlot_Only {L : List Part} {a : State} (s : State) (b : Nat) (h_reg : Part.reg ∈ L) (h_mem : Part.mem ∈ L) (h_cmd : Part.cmd ∈ L) (h_core : Part.core ∈ L) (h_cnv : Part.cnv ∈ L) (h_syn : Part.syn ∈ L) (h_fab : Part.fab ∈ L) (h_eth : Part.eth ∈ L) (h_gov : Part.gov ∈ L) (h_ltn : Part.ltn ∈ L) (h_irq : Part.irq ∈ L) (h_tmr : Part.tmr ∈ L) (h_ptb : Part.ptb ∈ L) (h_out : Part.out ∈ L) (h_free : Part.free ∈ L) (hf : OnlyChanges L a s) :
    OnlyChanges L a (State.lockedSlot s b) := by
  unfold State.lockedSlot; simp (maxDischargeDepth := 40) +contextual [*]
@[simp] theorem State.takeSignal_Only {L : List Part} {a : State} (s : State) (b dev : Nat) (gates : List (BitVec 8 × Bool)) (status : Byte) (h_cmd : Part.cmd ∈ L) (h_syn : Part.syn ∈ L) (hf : OnlyChanges L a s) :
    OnlyChanges L a (State.takeSignal s b dev gates status) := by
  unfold State.takeSignal; simp (maxDischargeDepth := 40) +contextual [*]
@[simp] theorem State.stepSignalHere_Only {L : List Part} {a : State} (s : State) (b : Nat) (dev : BitVec 6) (step : BitVec 20) (gates : List (BitVec 8 × Bool)) (status : Byte) (h_reg : Part.reg ∈ L) (h_cmd : Part.cmd ∈ L) (h_syn : Part.syn ∈ L) (h_ptb : Part.ptb ∈ L) (hf : OnlyChanges L a s) :
    OnlyChanges L a (State.stepSignalHere s b dev step gates status) := by
  unfold State.stepSignalHere; simp (maxDischargeDepth := 40) +contextual [*]
@[simp] theorem State.stepSignalDone_Only {L : List Part} {a : State} (s : State) (b : Nat) (dev : BitVec 6) (step : BitVec 20) (gates : List (BitVec 8 × Bool)) (status : Byte) (h_cmd : Part.cmd ∈ L) (h_syn : Part.syn ∈ L) (hf : OnlyChanges L a s) :
    OnlyChanges L a (State.stepSignalDone s b dev step gates status) := by
  unfold State.stepSignalDone; simp (maxDischargeDepth := 40) +contextual [*]
@[simp] theorem State.haltNow_Only {L : List Part} {a : State} (s : State) (b : Nat) (h_reg : Part.reg ∈ L) (h_cmd : Part.cmd ∈ L) (h_eth : Part.eth ∈ L) (h_irq : Part.irq ∈ L) (h_out : Part.out ∈ L) (hf : OnlyChanges L a s) :
    OnlyChanges L a (State.haltNow s b) := by
  unfold State.haltNow; simp (maxDischargeDepth := 40) +contextual [*]
@[simp] theorem State.haltBinding_Only {L : List Part} {a : State} (s : State) (b : Nat) (h_reg : Part.reg ∈ L) (h_cmd : Part.cmd ∈ L) (h_eth : Part.eth ∈ L) (h_irq : Part.irq ∈ L) (h_out : Part.out ∈ L) (hf : OnlyChanges L a s) :
    OnlyChanges L a (State.haltBinding s b) := by
  unfold State.haltBinding; simp (maxDischargeDepth := 40) +contextual [*]
@[simp] theorem State.finishSteps_Only {L : List Part} {a : State} (s : State) (b : Nat) (h_reg : Part.reg ∈ L) (h_cmd : Part.cmd ∈ L) (h_eth : Part.eth ∈ L) (h_irq : Part.irq ∈ L) (h_out : Part.out ∈ L) (hf : OnlyChanges L a s) :
    OnlyChanges L a (State.finishSteps s b) := by
  unfold State.finishSteps; simp only []; (repeat' (first | exact hf | (refine OnlyChanges.forAll ?_ _ ?_; intro s x h) | split)) <;> simp_all (maxDischargeDepth := 40) +contextual
@[simp] theorem State.stretch_Only {L : List Part} {a : State} (s : State) (b late : Nat) (h_reg : Part.reg ∈ L) (hf : OnlyChanges L a s) :
    OnlyChanges L a (State.stretch s b late) := by
  unfold State.stretch; simp (maxDischargeDepth := 40) +contextual [*]
@[simp] theorem State.endStep_Only {L : List Part} {a : State} (s : State) (b : Nat) (h_reg : Part.reg ∈ L) (h_mem : Part.mem ∈ L) (h_cmd : Part.cmd ∈ L) (h_core : Part.core ∈ L) (h_rtr : Part.rtr ∈ L) (h_cnv : Part.cnv ∈ L) (h_syn : Part.syn ∈ L) (h_fab : Part.fab ∈ L) (h_eth : Part.eth ∈ L) (h_gov : Part.gov ∈ L) (h_irq : Part.irq ∈ L) (h_ptb : Part.ptb ∈ L) (h_out : Part.out ∈ L) (h_free : Part.free ∈ L) (hf : OnlyChanges L a s) :
    OnlyChanges L a (State.endStep s b) := by
  unfold State.endStep; simp (maxDischargeDepth := 40) +contextual [*]
@[simp] theorem State.buoySignal_Only {L : List Part} {a : State} (s : State) (b : Nat) (dev : BitVec 6) (step : BitVec 20) (gates : List (BitVec 8 × Bool)) (status : Byte) (h_reg : Part.reg ∈ L) (h_mem : Part.mem ∈ L) (h_cmd : Part.cmd ∈ L) (h_core : Part.core ∈ L) (h_rtr : Part.rtr ∈ L) (h_cnv : Part.cnv ∈ L) (h_syn : Part.syn ∈ L) (h_fab : Part.fab ∈ L) (h_eth : Part.eth ∈ L) (h_gov : Part.gov ∈ L) (h_irq : Part.irq ∈ L) (h_ptb : Part.ptb ∈ L) (h_out : Part.out ∈ L) (h_free : Part.free ∈ L) (hf : OnlyChanges L a s) :
    OnlyChanges L a (State.buoySignal s b dev step gates status) := by
  unfold State.buoySignal; simp (maxDischargeDepth := 40) +contextual [*]
@[simp] theorem State.stepEnd_Only {L : List Part} {a : State} (s : State) (b : Nat) (h_reg : Part.reg ∈ L) (h_mem : Part.mem ∈ L) (h_cmd : Part.cmd ∈ L) (h_core : Part.core ∈ L) (h_rtr : Part.rtr ∈ L) (h_cnv : Part.cnv ∈ L) (h_syn : Part.syn ∈ L) (h_fab : Part.fab ∈ L) (h_eth : Part.eth ∈ L) (h_gov : Part.gov ∈ L) (h_ltn : Part.ltn ∈ L) (h_irq : Part.irq ∈ L) (h_tmr : Part.tmr ∈ L) (h_ptb : Part.ptb ∈ L) (h_out : Part.out ∈ L) (h_free : Part.free ∈ L) (hf : OnlyChanges L a s) :
    OnlyChanges L a (State.stepEnd s b) := by
  unfold State.stepEnd; simp (maxDischargeDepth := 40) +contextual [*]
@[simp] theorem State.endReceipt_Only {L : List Part} {a : State} (s : State) (b : Nat) (next : Option Word64) (gates : List (BitVec 8 × Bool)) (epochs : List (BitVec 8 × BitVec 24 × BitVec 48)) (h_reg : Part.reg ∈ L) (h_mem : Part.mem ∈ L) (h_cmd : Part.cmd ∈ L) (h_core : Part.core ∈ L) (h_rtr : Part.rtr ∈ L) (h_cnv : Part.cnv ∈ L) (h_syn : Part.syn ∈ L) (h_fab : Part.fab ∈ L) (h_eth : Part.eth ∈ L) (h_gov : Part.gov ∈ L) (h_ltn : Part.ltn ∈ L) (h_irq : Part.irq ∈ L) (h_ptb : Part.ptb ∈ L) (h_out : Part.out ∈ L) (h_free : Part.free ∈ L) (hf : OnlyChanges L a s) :
    OnlyChanges L a (State.endReceipt s b next gates epochs) := by
  unfold State.endReceipt; (repeat' split) <;> simp (maxDischargeDepth := 40) +contextual [*]
@[simp] theorem State.windowClose_Only {L : List Part} {a : State} (s : State) (b : Nat) (rows : List (BitVec 10 × BitVec 8 × Nat × Nat × List Byte)) (others : List (BitVec 8 × Bool × Byte × BitVec 48)) (h_reg : Part.reg ∈ L) (h_mem : Part.mem ∈ L) (h_cmd : Part.cmd ∈ L) (h_core : Part.core ∈ L) (h_rtr : Part.rtr ∈ L) (h_fab : Part.fab ∈ L) (h_eth : Part.eth ∈ L) (h_gov : Part.gov ∈ L) (h_irq : Part.irq ∈ L) (h_ptb : Part.ptb ∈ L) (h_out : Part.out ∈ L) (h_free : Part.free ∈ L) (hf : OnlyChanges L a s) :
    OnlyChanges L a (State.windowClose s b rows others) := by
  unfold State.windowClose; simp (maxDischargeDepth := 40) +contextual [*]

end Sys2Proof.Machine
end

