-- ==== Sys2Proof/Laws/Only/Queues.lean ====
section
/-! SUPPORT. Laws/Only/Queues.lean: what each operation of Machine/Queues.lean can do to the tables (its units). -/

namespace Sys2Proof.Machine

@[simp] theorem State.inboxPush_Only {L : List Part} {a : State} (s : State) (n : Nat) (e : List Word) (h_reg : Part.reg ∈ L) (h_core : Part.core ∈ L) (h_eth : Part.eth ∈ L) (h_irq : Part.irq ∈ L) (h_out : Part.out ∈ L) (hf : OnlyChanges L a s) :
    OnlyChanges L a (State.inboxPush s n e).1 := by
  unfold State.inboxPush; simp (maxDischargeDepth := 40) +contextual [*]
theorem State.inboxPush_Only' {L : List Part} {a : State} (s : State) (n : Nat) (e : List Word) (h_reg : Part.reg ∈ L) (h_core : Part.core ∈ L) (h_eth : Part.eth ∈ L) (h_irq : Part.irq ∈ L) (h_out : Part.out ∈ L) (hf : OnlyChanges L a s) {t0 : State} {y0 : Bool}
    (ht : State.inboxPush s n e = (t0, y0)) : OnlyChanges L a t0 := by
  have h0 := State.inboxPush_Only (L := L) s n e h_reg h_core h_eth h_irq h_out hf; rw [ht] at h0; exact h0
@[simp] theorem State.inboxPop_Only {L : List Part} {a : State} (s : State) (n : Nat) (h_core : Part.core ∈ L) (hf : OnlyChanges L a s) :
    OnlyChanges L a (State.inboxPop s n) := by
  unfold State.inboxPop; simp (maxDischargeDepth := 40) +contextual [*]
@[simp] theorem State.queueOpen_Only {L : List Part} {a : State} (s : State) (q : Nat) (h_reg : Part.reg ∈ L) (h_syn : Part.syn ∈ L) (h_fab : Part.fab ∈ L) (h_eth : Part.eth ∈ L) (h_gov : Part.gov ∈ L) (h_irq : Part.irq ∈ L) (h_ptb : Part.ptb ∈ L) (h_out : Part.out ∈ L) (h_free : Part.free ∈ L) (hf : OnlyChanges L a s) :
    OnlyChanges L a (State.queueOpen s q).1 := by
  unfold State.queueOpen; simp (maxDischargeDepth := 40) +contextual [*]
theorem State.queueOpen_Only' {L : List Part} {a : State} (s : State) (q : Nat) (h_reg : Part.reg ∈ L) (h_syn : Part.syn ∈ L) (h_fab : Part.fab ∈ L) (h_eth : Part.eth ∈ L) (h_gov : Part.gov ∈ L) (h_irq : Part.irq ∈ L) (h_ptb : Part.ptb ∈ L) (h_out : Part.out ∈ L) (h_free : Part.free ∈ L) (hf : OnlyChanges L a s) {t0 : State} {y0 : Byte}
    (ht : State.queueOpen s q = (t0, y0)) : OnlyChanges L a t0 := by
  have h0 := State.queueOpen_Only (L := L) s q h_reg h_syn h_fab h_eth h_gov h_irq h_ptb h_out h_free hf; rw [ht] at h0; exact h0
@[simp] theorem State.grantAnswered_Only {L : List Part} {a : State} (s : State) (q : Nat) (gen : Word64) (ok : Bool) (h_syn : Part.syn ∈ L) (hf : OnlyChanges L a s) :
    OnlyChanges L a (State.grantAnswered s q gen ok) := by
  unfold State.grantAnswered; simp (maxDischargeDepth := 40) +contextual [*]
@[simp] theorem State.grantArrival_Only {L : List Part} {a : State} (s : State) (d q b st : Nat) (gen : Word64) (rsize : Nat) (answer : Option Bool) (h_reg : Part.reg ∈ L) (h_syn : Part.syn ∈ L) (h_fab : Part.fab ∈ L) (h_eth : Part.eth ∈ L) (h_gov : Part.gov ∈ L) (h_irq : Part.irq ∈ L) (h_ptb : Part.ptb ∈ L) (h_out : Part.out ∈ L) (h_free : Part.free ∈ L) (hf : OnlyChanges L a s) :
    OnlyChanges L a (State.grantArrival s d q b st gen rsize answer) := by
  unfold State.grantArrival; (repeat' split) <;> simp (maxDischargeDepth := 40) +contextual [*]
@[simp] theorem State.sendMessage_Only {L : List Part} {a : State} (s : State) (d q : Nat) (h : Hdr) (cseq : Word64) (tag : Nat) (msg : List Word64) (h_reg : Part.reg ∈ L) (h_syn : Part.syn ∈ L) (h_fab : Part.fab ∈ L) (h_eth : Part.eth ∈ L) (h_gov : Part.gov ∈ L) (h_irq : Part.irq ∈ L) (h_ptb : Part.ptb ∈ L) (h_out : Part.out ∈ L) (h_free : Part.free ∈ L) (hf : OnlyChanges L a s) :
    OnlyChanges L a (State.sendMessage s d q h cseq tag msg) := by
  unfold State.sendMessage; (try dsimp only); repeat' (first | exact hf | assumption | split | with_reducible apply State.setWriter_Only | with_reducible apply State.forAll_Only | with_reducible apply State.toDevice_Only | (with_reducible apply OnlyChanges.forAll; intros) | (with_reducible apply OnlyChanges.fold; intros) | (with_reducible apply OnlyChanges.fold1; intros) | simp only [OptOnly_none, OptOnly_some] | with_reducible apply OptOnly_getD | (simp [*]; done))
@[simp] theorem State.giveNote_Only {L : List Part} {a : State} (s : State) (n : Nat) (e : List Word) (h_reg : Part.reg ∈ L) (h_core : Part.core ∈ L) (h_eth : Part.eth ∈ L) (h_irq : Part.irq ∈ L) (h_out : Part.out ∈ L) (hf : OnlyChanges L a s) :
    OnlyChanges L a (State.giveNote s n e) := by
  unfold State.giveNote; simp (maxDischargeDepth := 40) +contextual [*]
@[simp] theorem State.noteHere_Only {L : List Part} {a : State} (s : State) (n : Nat) (e : List Word) (h_reg : Part.reg ∈ L) (h_core : Part.core ∈ L) (h_syn : Part.syn ∈ L) (h_eth : Part.eth ∈ L) (h_irq : Part.irq ∈ L) (h_out : Part.out ∈ L) (hf : OnlyChanges L a s) :
    OnlyChanges L a (State.noteHere s n e) := by
  unfold State.noteHere; simp (maxDischargeDepth := 40) +contextual [*]
@[simp] theorem State.notifyMsg_Only {L : List Part} {a : State} (s : State) (q tag nm : Nat) (h_reg : Part.reg ∈ L) (h_core : Part.core ∈ L) (h_syn : Part.syn ∈ L) (h_fab : Part.fab ∈ L) (h_eth : Part.eth ∈ L) (h_gov : Part.gov ∈ L) (h_irq : Part.irq ∈ L) (h_ptb : Part.ptb ∈ L) (h_out : Part.out ∈ L) (h_free : Part.free ∈ L) (hf : OnlyChanges L a s) :
    OnlyChanges L a (State.notifyMsg s q tag nm) := by
  unfold State.notifyMsg; (repeat' split) <;> simp (maxDischargeDepth := 40) +contextual [*]
@[simp] theorem State.returnCredit_Only {L : List Part} {a : State} (s : State) (q words : Nat) (h_reg : Part.reg ∈ L) (h_syn : Part.syn ∈ L) (h_fab : Part.fab ∈ L) (h_eth : Part.eth ∈ L) (h_gov : Part.gov ∈ L) (h_irq : Part.irq ∈ L) (h_ptb : Part.ptb ∈ L) (h_out : Part.out ∈ L) (h_free : Part.free ∈ L) (hf : OnlyChanges L a s) :
    OnlyChanges L a (State.returnCredit s q words) := by
  unfold State.returnCredit; simp (maxDischargeDepth := 40) +contextual [*]
@[simp] theorem State.passHead_Only {L : List Part} {a : State} (s : State) (q : Nat) (h_reg : Part.reg ∈ L) (h_syn : Part.syn ∈ L) (h_fab : Part.fab ∈ L) (h_eth : Part.eth ∈ L) (h_gov : Part.gov ∈ L) (h_irq : Part.irq ∈ L) (h_ptb : Part.ptb ∈ L) (h_out : Part.out ∈ L) (h_free : Part.free ∈ L) (hf : OnlyChanges L a s) :
    OnlyChanges L a (State.passHead s q) := by
  unfold State.passHead; (repeat' split) <;> simp (maxDischargeDepth := 40) +contextual [*]
@[simp] theorem State.takeMessage_Only {L : List Part} {a : State} (s : State) (r : RecvE) (m : Nat × Nat × Word64) (h_reg : Part.reg ∈ L) (h_mem : Part.mem ∈ L) (h_cmd : Part.cmd ∈ L) (h_cnv : Part.cnv ∈ L) (h_syn : Part.syn ∈ L) (h_fab : Part.fab ∈ L) (h_eth : Part.eth ∈ L) (h_gov : Part.gov ∈ L) (h_irq : Part.irq ∈ L) (h_ptb : Part.ptb ∈ L) (h_out : Part.out ∈ L) (h_free : Part.free ∈ L) (hf : OnlyChanges L a s) :
    OnlyChanges L a (State.takeMessage s r m) := by
  unfold State.takeMessage; simp (maxDischargeDepth := 40) +contextual [*]
@[simp] theorem State.farEnds_Only {L : List Part} {a : State} (s : State) (d n : Nat) (h_reg : Part.reg ∈ L) (h_cmd : Part.cmd ∈ L) (h_syn : Part.syn ∈ L) (h_fab : Part.fab ∈ L) (h_eth : Part.eth ∈ L) (h_gov : Part.gov ∈ L) (h_irq : Part.irq ∈ L) (h_ptb : Part.ptb ∈ L) (h_out : Part.out ∈ L) (h_free : Part.free ∈ L) (hf : OnlyChanges L a s) :
    OnlyChanges L a (State.farEnds s d n) := by
  unfold State.farEnds; simp (maxDischargeDepth := 40) +contextual [*]
@[simp] theorem State.farLost_Only {L : List Part} {a : State} (s : State) (d : Nat) (h_reg : Part.reg ∈ L) (h_cmd : Part.cmd ∈ L) (h_eth : Part.eth ∈ L) (h_irq : Part.irq ∈ L) (h_out : Part.out ∈ L) (h_free : Part.free ∈ L) (hf : OnlyChanges L a s) :
    OnlyChanges L a (State.farLost s d) := by
  unfold State.farLost; simp (maxDischargeDepth := 40) +contextual [*]
@[simp] theorem State.serveRecv_Only {L : List Part} {a : State} (s : State) (q : Nat) (h_reg : Part.reg ∈ L) (h_mem : Part.mem ∈ L) (h_cmd : Part.cmd ∈ L) (h_cnv : Part.cnv ∈ L) (h_syn : Part.syn ∈ L) (h_fab : Part.fab ∈ L) (h_eth : Part.eth ∈ L) (h_gov : Part.gov ∈ L) (h_irq : Part.irq ∈ L) (h_ptb : Part.ptb ∈ L) (h_out : Part.out ∈ L) (h_free : Part.free ∈ L) (hf : OnlyChanges L a s) :
    OnlyChanges L a (State.serveRecv s q) := by
  unfold State.serveRecv; (repeat' split) <;> simp (maxDischargeDepth := 40) +contextual [*]
@[simp] theorem State.storeMessage_Only {L : List Part} {a : State} (s : State) (q : Nat) (gen : Word64) (off : Nat) (words : List Word64) (h_reg : Part.reg ∈ L) (h_mem : Part.mem ∈ L) (h_cmd : Part.cmd ∈ L) (h_core : Part.core ∈ L) (h_cnv : Part.cnv ∈ L) (h_syn : Part.syn ∈ L) (h_fab : Part.fab ∈ L) (h_eth : Part.eth ∈ L) (h_gov : Part.gov ∈ L) (h_irq : Part.irq ∈ L) (h_ptb : Part.ptb ∈ L) (h_out : Part.out ∈ L) (h_free : Part.free ∈ L) (hf : OnlyChanges L a s) :
    OnlyChanges L a (State.storeMessage s q gen off words).1 := by
  unfold State.storeMessage; simp (maxDischargeDepth := 40) +contextual [*]
theorem State.storeMessage_Only' {L : List Part} {a : State} (s : State) (q : Nat) (gen : Word64) (off : Nat) (words : List Word64) (h_reg : Part.reg ∈ L) (h_mem : Part.mem ∈ L) (h_cmd : Part.cmd ∈ L) (h_core : Part.core ∈ L) (h_cnv : Part.cnv ∈ L) (h_syn : Part.syn ∈ L) (h_fab : Part.fab ∈ L) (h_eth : Part.eth ∈ L) (h_gov : Part.gov ∈ L) (h_irq : Part.irq ∈ L) (h_ptb : Part.ptb ∈ L) (h_out : Part.out ∈ L) (h_free : Part.free ∈ L) (hf : OnlyChanges L a s) {t0 : State} {y0 : Bool}
    (ht : State.storeMessage s q gen off words = (t0, y0)) : OnlyChanges L a t0 := by
  have h0 := State.storeMessage_Only (L := L) s q gen off words h_reg h_mem h_cmd h_core h_cnv h_syn h_fab h_eth h_gov h_irq h_ptb h_out h_free hf; rw [ht] at h0; exact h0
@[simp] theorem State.sendDone_Only {L : List Part} {a : State} (s : State) (d q : Nat) (m : SentMsg) (ok : Bool) (h_reg : Part.reg ∈ L) (h_cmd : Part.cmd ∈ L) (h_syn : Part.syn ∈ L) (h_eth : Part.eth ∈ L) (h_irq : Part.irq ∈ L) (h_out : Part.out ∈ L) (hf : OnlyChanges L a s) :
    OnlyChanges L a (State.sendDone s d q m ok) := by
  unfold State.sendDone; (repeat' split) <;> simp (maxDischargeDepth := 40) +contextual [*]
@[simp] theorem State.messageArrival_Only {L : List Part} {a : State} (s : State) (src : BitVec 6) (q : Nat) (gen : Word64) (off : Nat) (words : List Word64) (answer : Option (BitVec 6 × Bool)) (h_reg : Part.reg ∈ L) (h_mem : Part.mem ∈ L) (h_cmd : Part.cmd ∈ L) (h_core : Part.core ∈ L) (h_cnv : Part.cnv ∈ L) (h_syn : Part.syn ∈ L) (h_fab : Part.fab ∈ L) (h_eth : Part.eth ∈ L) (h_gov : Part.gov ∈ L) (h_irq : Part.irq ∈ L) (h_ptb : Part.ptb ∈ L) (h_out : Part.out ∈ L) (h_free : Part.free ∈ L) (hf : OnlyChanges L a s) :
    OnlyChanges L a (State.messageArrival s src q gen off words answer) := by
  unfold State.messageArrival; simp only []; (repeat' (first | exact hf | (refine OnlyChanges.forAll ?_ _ ?_; intro s x h) | split)) <;> simp_all (maxDischargeDepth := 40) +contextual
@[simp] theorem State.creditReturn_Only {L : List Part} {a : State} (s : State) (d q : Nat) (gen : Word64) (words : Nat) (h_syn : Part.syn ∈ L) (hf : OnlyChanges L a s) :
    OnlyChanges L a (State.creditReturn s d q gen words) := by
  unfold State.creditReturn; simp (maxDischargeDepth := 40) +contextual [*]
@[simp] theorem State.closeArrival_Only {L : List Part} {a : State} (s : State) (d q : Nat) (h_reg : Part.reg ∈ L) (h_cmd : Part.cmd ∈ L) (h_syn : Part.syn ∈ L) (h_eth : Part.eth ∈ L) (h_irq : Part.irq ∈ L) (h_out : Part.out ∈ L) (hf : OnlyChanges L a s) :
    OnlyChanges L a (State.closeArrival s d q) := by
  unfold State.closeArrival; simp (maxDischargeDepth := 40) +contextual [*]
@[simp] theorem State.recvTimeout_Only {L : List Part} {a : State} (s : State) (n : BitVec 8) (h_reg : Part.reg ∈ L) (h_cmd : Part.cmd ∈ L) (h_syn : Part.syn ∈ L) (h_eth : Part.eth ∈ L) (h_irq : Part.irq ∈ L) (h_tmr : Part.tmr ∈ L) (h_out : Part.out ∈ L) (hf : OnlyChanges L a s) :
    OnlyChanges L a (State.recvTimeout s n) := by
  unfold State.recvTimeout; (repeat' split) <;> simp (maxDischargeDepth := 40) +contextual [*]
@[simp] theorem State.writeReply_Only {L : List Part} {a : State} (s : State) (addr : Nat) (st : Byte) (h_reg : Part.reg ∈ L) (h_fab : Part.fab ∈ L) (h_eth : Part.eth ∈ L) (h_gov : Part.gov ∈ L) (h_irq : Part.irq ∈ L) (h_ptb : Part.ptb ∈ L) (h_out : Part.out ∈ L) (h_free : Part.free ∈ L) (hf : OnlyChanges L a s) :
    OnlyChanges L a (State.writeReply s addr st) := by
  unfold State.writeReply; simp (maxDischargeDepth := 40) +contextual [*]

end Sys2Proof.Machine
end

