-- ==== Sys2Proof/Laws/Only/Sync.lean ====
section
/-! SUPPORT. Laws/Only/Sync.lean: what each operation of Machine/Sync.lean can do to the tables (its units). -/

namespace Sys2Proof.Machine

@[simp] theorem State.opDone_Only {L : List Part} {a : State} (s : State) (b : BitVec 6) (dev : BitVec 6) (stream : BitVec 8) (cseq : Word64) (op st : Byte) (v : Nat) (h_reg : Part.reg ∈ L) (h_cmd : Part.cmd ∈ L) (h_syn : Part.syn ∈ L) (h_fab : Part.fab ∈ L) (h_eth : Part.eth ∈ L) (h_gov : Part.gov ∈ L) (h_irq : Part.irq ∈ L) (h_ptb : Part.ptb ∈ L) (h_out : Part.out ∈ L) (h_free : Part.free ∈ L) (hf : OnlyChanges L a s) :
    OnlyChanges L a (State.opDone s b dev stream cseq op st v) := by
  unfold State.opDone; (repeat' split) <;> simp (maxDischargeDepth := 40) +contextual [*]
@[simp] theorem State.countWatches_Only {L : List Part} {a : State} (s : State) (h_reg : Part.reg ∈ L) (hf : OnlyChanges L a s) :
    OnlyChanges L a (State.countWatches s) := by
  unfold State.countWatches; simp (maxDischargeDepth := 40) +contextual [*]
@[simp] theorem State.dropWatch_Only {L : List Part} {a : State} (s : State) (num : Nat) (h_reg : Part.reg ∈ L) (h_syn : Part.syn ∈ L) (hf : OnlyChanges L a s) :
    OnlyChanges L a (State.dropWatch s num) := by
  unfold State.dropWatch; simp (maxDischargeDepth := 40) +contextual [*]
@[simp] theorem State.beaconLost_Only {L : List Part} {a : State} (s : State) (h_reg : Part.reg ∈ L) (h_eth : Part.eth ∈ L) (h_irq : Part.irq ∈ L) (h_out : Part.out ∈ L) (hf : OnlyChanges L a s) :
    OnlyChanges L a (State.beaconLost s) := by
  unfold State.beaconLost; simp (maxDischargeDepth := 40) +contextual [*]
@[simp] theorem State.keepBeacon_Only {L : List Part} {a : State} (s : State) (num : Nat) (st : Byte) (v : Word) (sent : Bool) (h_syn : Part.syn ∈ L) (hf : OnlyChanges L a s) :
    OnlyChanges L a (State.keepBeacon s num st v sent) := by
  unfold State.keepBeacon; simp (maxDischargeDepth := 40) +contextual [*]
@[simp] theorem State.offerBeacon_Only {L : List Part} {a : State} (s : State) (w : WatchE) (st : Byte) (v : Word) (h_reg : Part.reg ∈ L) (h_core : Part.core ∈ L) (h_syn : Part.syn ∈ L) (h_fab : Part.fab ∈ L) (h_eth : Part.eth ∈ L) (h_gov : Part.gov ∈ L) (h_irq : Part.irq ∈ L) (h_ptb : Part.ptb ∈ L) (h_out : Part.out ∈ L) (h_free : Part.free ∈ L) (hf : OnlyChanges L a s) :
    OnlyChanges L a (State.offerBeacon s w st v) := by
  unfold State.offerBeacon; simp only []; (repeat' (first | exact hf | (refine OnlyChanges.forAll ?_ _ ?_; intro s x h) | split)) <;> simp_all (maxDischargeDepth := 40) +contextual
@[simp] theorem State.beaconRetry_Only {L : List Part} {a : State} (s : State) (num : Nat) (h_reg : Part.reg ∈ L) (h_core : Part.core ∈ L) (h_syn : Part.syn ∈ L) (h_fab : Part.fab ∈ L) (h_eth : Part.eth ∈ L) (h_gov : Part.gov ∈ L) (h_irq : Part.irq ∈ L) (h_ptb : Part.ptb ∈ L) (h_out : Part.out ∈ L) (h_free : Part.free ∈ L) (hf : OnlyChanges L a s) :
    OnlyChanges L a (State.beaconRetry s num) := by
  unfold State.beaconRetry; (repeat' split) <;> simp (maxDischargeDepth := 40) +contextual [*]
@[simp] theorem State.dropWait_Only {L : List Part} {a : State} (s : State) (w : WaitE) (h_syn : Part.syn ∈ L) (hf : OnlyChanges L a s) :
    OnlyChanges L a (State.dropWait s w) := by
  unfold State.dropWait; simp (maxDischargeDepth := 40) +contextual [*]
@[simp] theorem State.settle_Only {L : List Part} {a : State} (s : State) (k : Nat) (h_reg : Part.reg ∈ L) (h_cmd : Part.cmd ∈ L) (h_core : Part.core ∈ L) (h_syn : Part.syn ∈ L) (h_fab : Part.fab ∈ L) (h_eth : Part.eth ∈ L) (h_gov : Part.gov ∈ L) (h_irq : Part.irq ∈ L) (h_ptb : Part.ptb ∈ L) (h_out : Part.out ∈ L) (h_free : Part.free ∈ L) (hf : OnlyChanges L a s) :
    OnlyChanges L a (State.settle s k) := by
  unfold State.settle; simp only []; (repeat' (first | exact hf | (refine OnlyChanges.forAll ?_ _ ?_; intro s x h) | split)) <;> simp_all (maxDischargeDepth := 40) +contextual
@[simp] theorem State.takes_Only {L : List Part} {a : State} (n : Nat) (s : State) (k : Nat) (h_reg : Part.reg ∈ L) (h_cmd : Part.cmd ∈ L) (h_core : Part.core ∈ L) (h_syn : Part.syn ∈ L) (h_fab : Part.fab ∈ L) (h_eth : Part.eth ∈ L) (h_gov : Part.gov ∈ L) (h_irq : Part.irq ∈ L) (h_ptb : Part.ptb ∈ L) (h_out : Part.out ∈ L) (h_free : Part.free ∈ L) (hf : OnlyChanges L a s) : OnlyChanges L a (State.takes n s k) := by
  induction n generalizing s with
  | zero => exact hf
  | succ n ih =>
    simp only [State.takes]
    split
    · exact hf
    · split
      · exact hf
      · exact ih _ (by simp (maxDischargeDepth := 40) +contextual [*])
@[simp] theorem State.afterOp_Only {L : List Part} {a : State} (s : State) (k : Nat) (own : State → State) (h_reg : Part.reg ∈ L) (h_cmd : Part.cmd ∈ L) (h_core : Part.core ∈ L) (h_syn : Part.syn ∈ L) (h_fab : Part.fab ∈ L) (h_eth : Part.eth ∈ L) (h_gov : Part.gov ∈ L) (h_irq : Part.irq ∈ L) (h_ptb : Part.ptb ∈ L) (h_out : Part.out ∈ L) (h_free : Part.free ∈ L)
    (ho : ∀ s, OnlyChanges L a s → OnlyChanges L a (own s)) (hf : OnlyChanges L a s) : OnlyChanges L a (s.afterOp k own) := by
  have h1 : OnlyChanges L a (own (s.settle k)) := ho _ (by simp (maxDischargeDepth := 40) +contextual [*])
  unfold State.afterOp
  simp (maxDischargeDepth := 40) +contextual [*]
@[simp] theorem State.lastRefused_Only {L : List Part} {a : State} (s : State) (r : BuoyReq) (st : Byte) (h_reg : Part.reg ∈ L) (hf : OnlyChanges L a s) :
    OnlyChanges L a (State.lastRefused s r st) := by
  unfold State.lastRefused; simp (maxDischargeDepth := 40) +contextual [*]
@[simp] theorem State.refuse_Only {L : List Part} {a : State} (s : State) (r : BuoyReq) (bit : Nat) (st : Byte) (h_reg : Part.reg ∈ L) (h_cmd : Part.cmd ∈ L) (h_syn : Part.syn ∈ L) (h_fab : Part.fab ∈ L) (h_eth : Part.eth ∈ L) (h_gov : Part.gov ∈ L) (h_irq : Part.irq ∈ L) (h_ptb : Part.ptb ∈ L) (h_out : Part.out ∈ L) (h_free : Part.free ∈ L) (hf : OnlyChanges L a s) :
    OnlyChanges L a (State.refuse s r bit st) := by
  unfold State.refuse; simp (maxDischargeDepth := 40) +contextual [*]
@[simp] theorem State.addWait_Only {L : List Part} {a : State} (s : State) (r : BuoyReq) (take : Bool) (h_syn : Part.syn ∈ L) (hf : OnlyChanges L a s) :
    OnlyChanges L a (State.addWait s r take) := by
  unfold State.addWait; simp (maxDischargeDepth := 40) +contextual [*]
@[simp] theorem State.addWatch_Only {L : List Part} {a : State} (s : State) (r : BuoyReq) (h_reg : Part.reg ∈ L) (h_cmd : Part.cmd ∈ L) (h_core : Part.core ∈ L) (h_syn : Part.syn ∈ L) (h_fab : Part.fab ∈ L) (h_eth : Part.eth ∈ L) (h_gov : Part.gov ∈ L) (h_irq : Part.irq ∈ L) (h_ptb : Part.ptb ∈ L) (h_out : Part.out ∈ L) (h_free : Part.free ∈ L) (hf : OnlyChanges L a s) :
    OnlyChanges L a (State.addWatch s r) := by
  unfold State.addWatch; simp (maxDischargeDepth := 40) +contextual [*]
@[simp] theorem State.buoyPerform_Only {L : List Part} {a : State} (s : State) (r : BuoyReq) (h_reg : Part.reg ∈ L) (h_cmd : Part.cmd ∈ L) (h_core : Part.core ∈ L) (h_syn : Part.syn ∈ L) (h_fab : Part.fab ∈ L) (h_eth : Part.eth ∈ L) (h_gov : Part.gov ∈ L) (h_irq : Part.irq ∈ L) (h_ptb : Part.ptb ∈ L) (h_out : Part.out ∈ L) (h_free : Part.free ∈ L) (hf : OnlyChanges L a s) :
    OnlyChanges L a (State.buoyPerform s r) := by
  unfold State.buoyPerform; simp (maxDischargeDepth := 40) +contextual [*]
@[simp] theorem State.buoyRequest_Only {L : List Part} {a : State} (s : State) (r : BuoyReq) (h_reg : Part.reg ∈ L) (h_cmd : Part.cmd ∈ L) (h_core : Part.core ∈ L) (h_syn : Part.syn ∈ L) (h_fab : Part.fab ∈ L) (h_eth : Part.eth ∈ L) (h_gov : Part.gov ∈ L) (h_irq : Part.irq ∈ L) (h_ptb : Part.ptb ∈ L) (h_out : Part.out ∈ L) (h_free : Part.free ∈ L) (hf : OnlyChanges L a s) :
    OnlyChanges L a (State.buoyRequest s r) := by
  unfold State.buoyRequest; simp (maxDischargeDepth := 40) +contextual [*]
@[simp] theorem State.signalHere_Only {L : List Part} {a : State} (s : State) (r : BuoyReq) (h_reg : Part.reg ∈ L) (h_cmd : Part.cmd ∈ L) (h_core : Part.core ∈ L) (h_syn : Part.syn ∈ L) (h_fab : Part.fab ∈ L) (h_eth : Part.eth ∈ L) (h_gov : Part.gov ∈ L) (h_irq : Part.irq ∈ L) (h_ptb : Part.ptb ∈ L) (h_out : Part.out ∈ L) (h_free : Part.free ∈ L) (hf : OnlyChanges L a s) :
    OnlyChanges L a (State.signalHere s r) := by
  unfold State.signalHere; simp (maxDischargeDepth := 40) +contextual [*]
@[simp] theorem State.beaconHere_Only {L : List Part} {a : State} (s : State) (r : BuoyReq) (e : List Word) (h_reg : Part.reg ∈ L) (h_core : Part.core ∈ L) (h_eth : Part.eth ∈ L) (h_irq : Part.irq ∈ L) (h_out : Part.out ∈ L) (hf : OnlyChanges L a s) :
    OnlyChanges L a (State.beaconHere s r e).1 := by
  unfold State.beaconHere; simp only []; (repeat' (first | exact hf | (refine OnlyChanges.forAll ?_ _ ?_; intro s x h) | split)) <;> simp_all (maxDischargeDepth := 40) +contextual
theorem State.beaconHere_Only' {L : List Part} {a : State} (s : State) (r : BuoyReq) (e : List Word) (h_reg : Part.reg ∈ L) (h_core : Part.core ∈ L) (h_eth : Part.eth ∈ L) (h_irq : Part.irq ∈ L) (h_out : Part.out ∈ L) (hf : OnlyChanges L a s) {t0 : State} {y0 : Byte}
    (ht : State.beaconHere s r e = (t0, y0)) : OnlyChanges L a t0 := by
  have h0 := State.beaconHere_Only (L := L) s r e h_reg h_core h_eth h_irq h_out hf; rw [ht] at h0; exact h0
@[simp] theorem State.beaconAnswered_Only {L : List Part} {a : State} (s : State) (num : Nat) (st : Byte) (h_reg : Part.reg ∈ L) (h_syn : Part.syn ∈ L) (h_eth : Part.eth ∈ L) (h_irq : Part.irq ∈ L) (h_out : Part.out ∈ L) (hf : OnlyChanges L a s) :
    OnlyChanges L a (State.beaconAnswered s num st) := by
  unfold State.beaconAnswered; (repeat' split) <;> simp (maxDischargeDepth := 40) +contextual [*]
@[simp] theorem State.buoyOperation_Only {L : List Part} {a : State} (s : State) (r : BuoyReq) (answer : Option (Bool × Byte × Word)) (h_reg : Part.reg ∈ L) (h_cmd : Part.cmd ∈ L) (h_core : Part.core ∈ L) (h_syn : Part.syn ∈ L) (h_fab : Part.fab ∈ L) (h_eth : Part.eth ∈ L) (h_gov : Part.gov ∈ L) (h_irq : Part.irq ∈ L) (h_ptb : Part.ptb ∈ L) (h_out : Part.out ∈ L) (h_free : Part.free ∈ L) (hf : OnlyChanges L a s) :
    OnlyChanges L a (State.buoyOperation s r answer) := by
  unfold State.buoyOperation; simp only []; (repeat' (first | exact hf | (refine OnlyChanges.forAll ?_ _ ?_; intro s x h) | split)) <;> simp_all (maxDischargeDepth := 40) +contextual
@[simp] theorem State.signalGo_Only {L : List Part} {a : State} (s : State) (dev : BitVec 6) (r : BuoyReq) (h_reg : Part.reg ∈ L) (h_cmd : Part.cmd ∈ L) (h_core : Part.core ∈ L) (h_syn : Part.syn ∈ L) (h_fab : Part.fab ∈ L) (h_eth : Part.eth ∈ L) (h_gov : Part.gov ∈ L) (h_irq : Part.irq ∈ L) (h_ptb : Part.ptb ∈ L) (h_out : Part.out ∈ L) (h_free : Part.free ∈ L) (hf : OnlyChanges L a s) :
    OnlyChanges L a (State.signalGo s dev r) := by
  unfold State.signalGo; simp (maxDischargeDepth := 40) +contextual [*]
@[simp] theorem State.markerArrival_Only {L : List Part} {a : State} (s : State) (stream : BitVec 8) (cseq : Word64) (h_reg : Part.reg ∈ L) (h_cmd : Part.cmd ∈ L) (h_core : Part.core ∈ L) (h_syn : Part.syn ∈ L) (h_fab : Part.fab ∈ L) (h_eth : Part.eth ∈ L) (h_gov : Part.gov ∈ L) (h_irq : Part.irq ∈ L) (h_ptb : Part.ptb ∈ L) (h_out : Part.out ∈ L) (h_free : Part.free ∈ L) (hf : OnlyChanges L a s) :
    OnlyChanges L a (State.markerArrival s stream cseq) := by
  unfold State.markerArrival; (repeat' split) <;> simp (maxDischargeDepth := 40) +contextual [*]
@[simp] theorem State.holdRelease_Only {L : List Part} {a : State} (s : State) (kind : Nat) (h_reg : Part.reg ∈ L) (h_cmd : Part.cmd ∈ L) (h_core : Part.core ∈ L) (h_syn : Part.syn ∈ L) (h_fab : Part.fab ∈ L) (h_eth : Part.eth ∈ L) (h_gov : Part.gov ∈ L) (h_irq : Part.irq ∈ L) (h_ptb : Part.ptb ∈ L) (h_out : Part.out ∈ L) (h_free : Part.free ∈ L) (hf : OnlyChanges L a s) :
    OnlyChanges L a (State.holdRelease s kind) := by
  unfold State.holdRelease; simp only []; (repeat' (first | exact hf | (refine OnlyChanges.forAll ?_ _ ?_; intro s x h) | split)) <;> simp_all (maxDischargeDepth := 40) +contextual
@[simp] theorem State.waitTimeout_Only {L : List Part} {a : State} (s : State) (dev : BitVec 6) (stream : BitVec 8) (h_reg : Part.reg ∈ L) (h_cmd : Part.cmd ∈ L) (h_syn : Part.syn ∈ L) (h_fab : Part.fab ∈ L) (h_eth : Part.eth ∈ L) (h_gov : Part.gov ∈ L) (h_irq : Part.irq ∈ L) (h_tmr : Part.tmr ∈ L) (h_ptb : Part.ptb ∈ L) (h_out : Part.out ∈ L) (h_free : Part.free ∈ L) (hf : OnlyChanges L a s) :
    OnlyChanges L a (State.waitTimeout s dev stream) := by
  unfold State.waitTimeout; (repeat' split) <;> simp (maxDischargeDepth := 40) +contextual [*]
@[simp] theorem State.watchTimeout_Only {L : List Part} {a : State} (s : State) (num : Nat) (h_reg : Part.reg ∈ L) (h_core : Part.core ∈ L) (h_syn : Part.syn ∈ L) (h_fab : Part.fab ∈ L) (h_eth : Part.eth ∈ L) (h_gov : Part.gov ∈ L) (h_irq : Part.irq ∈ L) (h_tmr : Part.tmr ∈ L) (h_ptb : Part.ptb ∈ L) (h_out : Part.out ∈ L) (h_free : Part.free ∈ L) (hf : OnlyChanges L a s) :
    OnlyChanges L a (State.watchTimeout s num) := by
  unfold State.watchTimeout; (repeat' split) <;> simp (maxDischargeDepth := 40) +contextual [*]
@[simp] theorem State.releaseBuoy_Only {L : List Part} {a : State} (s : State) (k : Nat) (h_reg : Part.reg ∈ L) (h_cmd : Part.cmd ∈ L) (h_syn : Part.syn ∈ L) (h_fab : Part.fab ∈ L) (h_eth : Part.eth ∈ L) (h_gov : Part.gov ∈ L) (h_irq : Part.irq ∈ L) (h_ptb : Part.ptb ∈ L) (h_out : Part.out ∈ L) (h_free : Part.free ∈ L) (hf : OnlyChanges L a s) :
    OnlyChanges L a (State.releaseBuoy s k) := by
  unfold State.releaseBuoy; simp (maxDischargeDepth := 40) +contextual [*]

end Sys2Proof.Machine
end

