-- ==== Sys2Proof/Laws/Only/Bindings.lean ====
section
/-! SUPPORT. Laws/Only/Bindings.lean: what each operation of Machine/Bindings.lean can do to the tables (its units). -/

namespace Sys2Proof.Machine

@[simp] theorem State.fail_Only {L : List Part} {a : State} (s : State) (st : Byte) (hf : OnlyChanges L a s) :
    OnlyChanges L a (State.fail s st).1 := by
  unfold State.fail; simp (maxDischargeDepth := 40) +contextual [*]
theorem State.fail_Only' {L : List Part} {a : State} (s : State) (st : Byte) (hf : OnlyChanges L a s) {t0 : State} {y0 : Byte × Nat}
    (ht : State.fail s st = (t0, y0)) : OnlyChanges L a t0 := by
  have h0 := State.fail_Only (L := L) s st hf; rw [ht] at h0; exact h0
@[simp] theorem State.when_Only {L : List Part} {a : State} (s : State) (st : Byte) (f : State → State) (res : Nat)
    (ho : ∀ s, OnlyChanges L a s → OnlyChanges L a (f s)) (hf : OnlyChanges L a s) : OnlyChanges L a (s.when st f res).1 := by
  unfold State.when; split
  · exact ho _ hf
  · exact hf
@[simp] theorem State.regClear_Only {L : List Part} {a0 : State} (s : State) (a : Nat) (h_reg : Part.reg ∈ L) (hf : OnlyChanges L a0 s) :
    OnlyChanges L a0 (State.regClear s a) := by
  unfold State.regClear; simp (maxDischargeDepth := 40) +contextual [*]
@[simp] theorem State.timerReset_Only {L : List Part} {a : State} (s : State) (n : Nat) (h_reg : Part.reg ∈ L) (h_irq : Part.irq ∈ L) (hf : OnlyChanges L a s) :
    OnlyChanges L a (State.timerReset s n) := by
  unfold State.timerReset; simp (maxDischargeDepth := 40) +contextual [*]
@[simp] theorem State.withdrawCore_Only {L : List Part} {a : State} (s : State) (n : Nat) (h_reg : Part.reg ∈ L) (h_mem : Part.mem ∈ L) (h_core : Part.core ∈ L) (h_rtr : Part.rtr ∈ L) (hf : OnlyChanges L a s) :
    OnlyChanges L a (State.withdrawCore s n) := by
  unfold State.withdrawCore
  extract_lets u c r m v
  have hu : OnlyChanges L a u := by simp (maxDischargeDepth := 40) +contextual [u, hf, *]
  have hv : OnlyChanges L u v := ⟨rfl, fun p hp => by cases p <;> first | rfl | exact absurd ‹_› hp⟩
  exact State.clearRange_Only _ _ h_mem (OnlyChanges.trans hu hv)
@[simp] theorem State.clearStores_Only {L : List Part} {a : State} (s : State) (n : Nat) (h_mem : Part.mem ∈ L) (hf : OnlyChanges L a s) :
    OnlyChanges L a (State.clearStores s n) := by
  unfold State.clearStores; simp (maxDischargeDepth := 40) +contextual [*]
@[simp] theorem State.clearBank_Only {L : List Part} {a : State} (s : State) (k i : Nat) (h_mem : Part.mem ∈ L) (h_cnv : Part.cnv ∈ L) (h_out : Part.out ∈ L) (hf : OnlyChanges L a s) :
    OnlyChanges L a (State.clearBank s k i) := by
  unfold State.clearBank; simp (maxDischargeDepth := 40) +contextual [*]
@[simp] theorem State.bindNow_Only {L : List Part} {a : State} (s : State) (b kind count first : Nat) (w1 w2 : Word64) (w3 : Word64) (h_reg : Part.reg ∈ L) (h_mem : Part.mem ∈ L) (h_cmd : Part.cmd ∈ L) (h_core : Part.core ∈ L) (h_rtr : Part.rtr ∈ L) (h_cnv : Part.cnv ∈ L) (h_syn : Part.syn ∈ L) (h_fab : Part.fab ∈ L) (h_irq : Part.irq ∈ L) (h_tmr : Part.tmr ∈ L) (h_out : Part.out ∈ L) (hf : OnlyChanges L a s) :
    OnlyChanges L a (State.bindNow s b kind count first w1 w2 w3).1 := by
  unfold State.bindNow
  extract_lets l inRange
  have K := fun (st : Byte) (f : State → State) (r : Nat) (hg : ∀ u, OnlyChanges L a u → OnlyChanges L a (f u)) =>
    State.when_Only s st f r hg hf
  by_cases k1 : kind = 1
  · rw [if_pos k1]; apply K
    intro u hu; refine State.reserve_Only _ _ h_cmd (OnlyChanges.forAll (fun v m hv => ?_) _ hf)
    simp (maxDischargeDepth := 40) +contextual [*]
  rw [if_neg k1]
  by_cases k2 : kind = 2
  · rw [if_pos k2]; apply K
    intro u hu; exact State.reserve_Only _ _ h_cmd (OnlyChanges.forAll (fun v m hv => State.setCtx_Only _ _ h_cmd hv) _ hf)
  rw [if_neg k2]
  by_cases k3 : kind = 3
  · rw [if_pos k3]; apply K
    intro u hu; refine OnlyChanges.forAll (fun v m hv => ?_) _ hu
    simp (maxDischargeDepth := 40) +contextual [*]
  rw [if_neg k3]
  by_cases k4 : kind = 4
  · rw [if_pos k4]; apply K
    intro u hu; refine OnlyChanges.forAll (fun v m hv => ?_) _ hu
    simp (maxDischargeDepth := 40) +contextual [*]
  rw [if_neg k4]
  by_cases k5 : kind = 5
  · rw [if_pos k5]; apply K
    intro u hu; refine OnlyChanges.forAll (fun v m hv => ?_) _ hu
    simp (maxDischargeDepth := 40) +contextual [*]
  rw [if_neg k5]
  by_cases k6 : kind = 6
  · rw [if_pos k6]; apply K
    intro u hu; refine OnlyChanges.forAll (fun v m hv => ?_) _ hu
    simp (maxDischargeDepth := 40) +contextual [*]
  rw [if_neg k6]
  by_cases k7 : kind = 7
  · rw [if_pos k7]; apply K
    intro u hu; refine OnlyChanges.forAll (fun v m hv => ?_) _ hu
    simp (maxDischargeDepth := 40) +contextual [*]
  rw [if_neg k7]
  by_cases k8 : kind = 8
  · rw [if_pos k8]; apply K
    intro u hu; refine OnlyChanges.forAll (fun v m hv => ?_) _ hu
    simp (maxDischargeDepth := 40) +contextual [*]
  rw [if_neg k8]
  by_cases k9 : kind = 9
  · rw [if_pos k9]; apply K
    intro u hu; refine OnlyChanges.forAll (fun v m hv => ?_) _ hu
    simp (maxDischargeDepth := 40) +contextual [*]
  rw [if_neg k9]
  by_cases k10 : kind = 10
  · rw [if_pos k10]; apply K
    intro u hu; exact OnlyChanges.cmd_upd _ h_cmd hu
  rw [if_neg k10]
  exact hf
theorem State.bindNow_Only' {L : List Part} {a : State} (s : State) (b kind count first : Nat) (w1 w2 : Word64) (w3 : Word64) (h_reg : Part.reg ∈ L) (h_mem : Part.mem ∈ L) (h_cmd : Part.cmd ∈ L) (h_core : Part.core ∈ L) (h_rtr : Part.rtr ∈ L) (h_cnv : Part.cnv ∈ L) (h_syn : Part.syn ∈ L) (h_fab : Part.fab ∈ L) (h_irq : Part.irq ∈ L) (h_tmr : Part.tmr ∈ L) (h_out : Part.out ∈ L) (hf : OnlyChanges L a s) {t0 : State} {y0 : Byte × Nat}
    (ht : State.bindNow s b kind count first w1 w2 w3 = (t0, y0)) : OnlyChanges L a t0 := by
  have h0 := State.bindNow_Only (L := L) s b kind count first w1 w2 w3 h_reg h_mem h_cmd h_core h_rtr h_cnv h_syn h_fab h_irq h_tmr h_out hf; rw [ht] at h0; exact h0
@[simp] theorem State.dropCtx_Only {L : List Part} {a : State} (s : State) (c : Nat) (h_cmd : Part.cmd ∈ L) (h_cnv : Part.cnv ∈ L) (hf : OnlyChanges L a s) :
    OnlyChanges L a (State.dropCtx s c) := by
  unfold State.dropCtx; simp (maxDischargeDepth := 40) +contextual [*]
@[simp] theorem State.releaseCore_Only {L : List Part} {a : State} (s : State) (n : Nat) (h_reg : Part.reg ∈ L) (h_mem : Part.mem ∈ L) (h_cmd : Part.cmd ∈ L) (h_core : Part.core ∈ L) (h_rtr : Part.rtr ∈ L) (h_syn : Part.syn ∈ L) (h_fab : Part.fab ∈ L) (h_eth : Part.eth ∈ L) (h_gov : Part.gov ∈ L) (h_irq : Part.irq ∈ L) (h_ptb : Part.ptb ∈ L) (h_out : Part.out ∈ L) (h_free : Part.free ∈ L) (hf : OnlyChanges L a s) :
    OnlyChanges L a (State.releaseCore s n) := by
  unfold State.releaseCore; simp (maxDischargeDepth := 40) +contextual [*]
@[simp] theorem State.dropFrame_Only {L : List Part} {a : State} (s : State) (h : Nat) (h_cnv : Part.cnv ∈ L) (hf : OnlyChanges L a s) :
    OnlyChanges L a (State.dropFrame s h) := by
  unfold State.dropFrame; simp (maxDischargeDepth := 40) +contextual [*]
@[simp] theorem State.leaveFrame_Only {L : List Part} {a : State} (s : State) (h : Nat) (h_cnv : Part.cnv ∈ L) (hf : OnlyChanges L a s) :
    OnlyChanges L a (State.leaveFrame s h) := by
  unfold State.leaveFrame; simp (maxDischargeDepth := 40) +contextual [*]
@[simp] theorem State.clearInsts_Only {L : List Part} {a : State} (s : State) (h : Nat) (h_cnv : Part.cnv ∈ L) (hf : OnlyChanges L a s) :
    OnlyChanges L a (State.clearInsts s h) := by
  unfold State.clearInsts; simp (maxDischargeDepth := 40) +contextual [*]
@[simp] theorem State.dropDecodes_Only {L : List Part} {a : State} (s : State) (h : Nat) (h_reg : Part.reg ∈ L) (h_cmd : Part.cmd ∈ L) (h_cnv : Part.cnv ∈ L) (h_eth : Part.eth ∈ L) (h_irq : Part.irq ∈ L) (h_out : Part.out ∈ L) (hf : OnlyChanges L a s) :
    OnlyChanges L a (State.dropDecodes s h) := by
  unfold State.dropDecodes; simp (maxDischargeDepth := 40) +contextual [*]
@[simp] theorem State.rejectDecodes_Only {L : List Part} {a : State} (s : State) (h : Nat) (h_reg : Part.reg ∈ L) (h_cmd : Part.cmd ∈ L) (h_cnv : Part.cnv ∈ L) (h_syn : Part.syn ∈ L) (h_fab : Part.fab ∈ L) (h_eth : Part.eth ∈ L) (h_gov : Part.gov ∈ L) (h_irq : Part.irq ∈ L) (h_ptb : Part.ptb ∈ L) (h_out : Part.out ∈ L) (h_free : Part.free ∈ L) (hf : OnlyChanges L a s) :
    OnlyChanges L a (State.rejectDecodes s h) := by
  unfold State.rejectDecodes; simp (maxDischargeDepth := 40) +contextual [*]
@[simp] theorem State.releaseStream_Only {L : List Part} {a : State} (s : State) (n : Nat) (self : Hdr × Word64) (h_reg : Part.reg ∈ L) (h_cmd : Part.cmd ∈ L) (h_core : Part.core ∈ L) (h_cnv : Part.cnv ∈ L) (h_syn : Part.syn ∈ L) (h_fab : Part.fab ∈ L) (h_eth : Part.eth ∈ L) (h_gov : Part.gov ∈ L) (h_irq : Part.irq ∈ L) (h_ptb : Part.ptb ∈ L) (h_out : Part.out ∈ L) (h_free : Part.free ∈ L) (hf : OnlyChanges L a s) :
    OnlyChanges L a (State.releaseStream s n self) := by
  unfold State.releaseStream
  extract_lets x k b queue s1 ends s2 s3 y z s4 s5 w s6 s7
  have h1 : OnlyChanges L a s1 := by simp (maxDischargeDepth := 40) [s1, *]
  clear_value s1
  have h2 : OnlyChanges L a s2 := OnlyChanges.forAll (fun s x h => by simp (maxDischargeDepth := 40) +contextual [*]) _ h1
  clear_value s2
  have h3 : OnlyChanges L a s3 := by simp (maxDischargeDepth := 40) [s3, *]
  have hw : OnlyChanges L s3 s4 := ⟨rfl, fun p hp => by cases p <;> first | rfl | exact absurd ‹_› hp⟩
  have h4 : OnlyChanges L a s4 := OnlyChanges.trans h3 hw
  clear_value s4
  have h5 : OnlyChanges L a s5 := OnlyChanges.forAll (fun s x h => by simp (maxDischargeDepth := 40) +contextual [*]) _ h4
  clear_value s5
  have h6 : OnlyChanges L a s6 := by simp (maxDischargeDepth := 40) [s6, *]
  clear_value s6
  have h7 : OnlyChanges L a s7 := by simp (maxDischargeDepth := 40) [s7, *]
  clear_value s7
  simp (maxDischargeDepth := 40) [*]
@[simp] theorem State.release_Only {L : List Part} {a : State} (s : State) (b kind : Nat) (l : List Nat) (self : Hdr × Word64) (h_reg : Part.reg ∈ L) (h_mem : Part.mem ∈ L) (h_cmd : Part.cmd ∈ L) (h_core : Part.core ∈ L) (h_rtr : Part.rtr ∈ L) (h_cnv : Part.cnv ∈ L) (h_syn : Part.syn ∈ L) (h_fab : Part.fab ∈ L) (h_eth : Part.eth ∈ L) (h_gov : Part.gov ∈ L) (h_irq : Part.irq ∈ L) (h_tmr : Part.tmr ∈ L) (h_ptb : Part.ptb ∈ L) (h_out : Part.out ∈ L) (h_free : Part.free ∈ L) (hf : OnlyChanges L a s) :
    OnlyChanges L a (State.release s b kind l self) := by
  unfold State.release; (repeat' split) <;> simp (maxDischargeDepth := 40) +contextual [*]
@[simp] theorem State.unbindNow_Only {L : List Part} {a : State} (s : State) (b kind count first : Nat) (self : Hdr × Word64) (h_reg : Part.reg ∈ L) (h_mem : Part.mem ∈ L) (h_cmd : Part.cmd ∈ L) (h_core : Part.core ∈ L) (h_rtr : Part.rtr ∈ L) (h_cnv : Part.cnv ∈ L) (h_syn : Part.syn ∈ L) (h_fab : Part.fab ∈ L) (h_eth : Part.eth ∈ L) (h_gov : Part.gov ∈ L) (h_kpr : Part.kpr ∈ L) (h_irq : Part.irq ∈ L) (h_tmr : Part.tmr ∈ L) (h_ptb : Part.ptb ∈ L) (h_out : Part.out ∈ L) (h_free : Part.free ∈ L) (hf : OnlyChanges L a s) :
    OnlyChanges L a (State.unbindNow s b kind count first self).1 := by
  unfold State.unbindNow; simp (maxDischargeDepth := 40) +contextual [*]
theorem State.unbindNow_Only' {L : List Part} {a : State} (s : State) (b kind count first : Nat) (self : Hdr × Word64) (h_reg : Part.reg ∈ L) (h_mem : Part.mem ∈ L) (h_cmd : Part.cmd ∈ L) (h_core : Part.core ∈ L) (h_rtr : Part.rtr ∈ L) (h_cnv : Part.cnv ∈ L) (h_syn : Part.syn ∈ L) (h_fab : Part.fab ∈ L) (h_eth : Part.eth ∈ L) (h_gov : Part.gov ∈ L) (h_kpr : Part.kpr ∈ L) (h_irq : Part.irq ∈ L) (h_tmr : Part.tmr ∈ L) (h_ptb : Part.ptb ∈ L) (h_out : Part.out ∈ L) (h_free : Part.free ∈ L) (hf : OnlyChanges L a s) {t0 : State} {y0 : Byte × Nat}
    (ht : State.unbindNow s b kind count first self = (t0, y0)) : OnlyChanges L a t0 := by
  have h0 := State.unbindNow_Only (L := L) s b kind count first self h_reg h_mem h_cmd h_core h_rtr h_cnv h_syn h_fab h_eth h_gov h_kpr h_irq h_tmr h_ptb h_out h_free hf; rw [ht] at h0; exact h0
@[simp] theorem State.parkOne_Only {L : List Part} {a : State} (s : State) (b c image : Nat) (h_reg : Part.reg ∈ L) (h_mem : Part.mem ∈ L) (h_cmd : Part.cmd ∈ L) (h_rtr : Part.rtr ∈ L) (h_eth : Part.eth ∈ L) (h_gov : Part.gov ∈ L) (h_irq : Part.irq ∈ L) (h_out : Part.out ∈ L) (h_free : Part.free ∈ L) (hf : OnlyChanges L a s) :
    OnlyChanges L a (State.parkOne s b c image).1 := by
  unfold State.parkOne; simp (maxDischargeDepth := 40) +contextual [*]
theorem State.parkOne_Only' {L : List Part} {a : State} (s : State) (b c image : Nat) (h_reg : Part.reg ∈ L) (h_mem : Part.mem ∈ L) (h_cmd : Part.cmd ∈ L) (h_rtr : Part.rtr ∈ L) (h_eth : Part.eth ∈ L) (h_gov : Part.gov ∈ L) (h_irq : Part.irq ∈ L) (h_out : Part.out ∈ L) (h_free : Part.free ∈ L) (hf : OnlyChanges L a s) {t0 : State} {y0 : Bool}
    (ht : State.parkOne s b c image = (t0, y0)) : OnlyChanges L a t0 := by
  have h0 := State.parkOne_Only (L := L) s b c image h_reg h_mem h_cmd h_rtr h_eth h_gov h_irq h_out h_free hf; rw [ht] at h0; exact h0
@[simp] theorem State.parkNow_Only {L : List Part} {a : State} (s : State) (b count first : Nat) (m : Word64) (stride : Nat) (h_reg : Part.reg ∈ L) (h_mem : Part.mem ∈ L) (h_cmd : Part.cmd ∈ L) (h_rtr : Part.rtr ∈ L) (h_eth : Part.eth ∈ L) (h_gov : Part.gov ∈ L) (h_irq : Part.irq ∈ L) (h_out : Part.out ∈ L) (h_free : Part.free ∈ L) (hf : OnlyChanges L a s) :
    OnlyChanges L a (State.parkNow s b count first m stride).1 := by
  unfold State.parkNow; simp (maxDischargeDepth := 40) +contextual [*]
theorem State.parkNow_Only' {L : List Part} {a : State} (s : State) (b count first : Nat) (m : Word64) (stride : Nat) (h_reg : Part.reg ∈ L) (h_mem : Part.mem ∈ L) (h_cmd : Part.cmd ∈ L) (h_rtr : Part.rtr ∈ L) (h_eth : Part.eth ∈ L) (h_gov : Part.gov ∈ L) (h_irq : Part.irq ∈ L) (h_out : Part.out ∈ L) (h_free : Part.free ∈ L) (hf : OnlyChanges L a s) {t0 : State} {y0 : Byte × Nat}
    (ht : State.parkNow s b count first m stride = (t0, y0)) : OnlyChanges L a t0 := by
  have h0 := State.parkNow_Only (L := L) s b count first m stride h_reg h_mem h_cmd h_rtr h_eth h_gov h_irq h_out h_free hf; rw [ht] at h0; exact h0
@[simp] theorem State.unparkOne_Only {L : List Part} {a : State} (s : State) (b c : Nat) (res : BitVec 2) (base : Nat) (h_reg : Part.reg ∈ L) (h_mem : Part.mem ∈ L) (h_cmd : Part.cmd ∈ L) (h_rtr : Part.rtr ∈ L) (h_eth : Part.eth ∈ L) (h_gov : Part.gov ∈ L) (h_irq : Part.irq ∈ L) (h_out : Part.out ∈ L) (hf : OnlyChanges L a s) :
    OnlyChanges L a (State.unparkOne s b c res base).1 := by
  unfold State.unparkOne; simp (maxDischargeDepth := 40) +contextual [*]
theorem State.unparkOne_Only' {L : List Part} {a : State} (s : State) (b c : Nat) (res : BitVec 2) (base : Nat) (h_reg : Part.reg ∈ L) (h_mem : Part.mem ∈ L) (h_cmd : Part.cmd ∈ L) (h_rtr : Part.rtr ∈ L) (h_eth : Part.eth ∈ L) (h_gov : Part.gov ∈ L) (h_irq : Part.irq ∈ L) (h_out : Part.out ∈ L) (hf : OnlyChanges L a s) {t0 : State} {y0 : Bool}
    (ht : State.unparkOne s b c res base = (t0, y0)) : OnlyChanges L a t0 := by
  have h0 := State.unparkOne_Only (L := L) s b c res base h_reg h_mem h_cmd h_rtr h_eth h_gov h_irq h_out hf; rw [ht] at h0; exact h0
@[simp] theorem State.unparkNow_Only {L : List Part} {a : State} (s : State) (b count first : Nat) (res : BitVec 2) (stride base : Nat) (h_reg : Part.reg ∈ L) (h_mem : Part.mem ∈ L) (h_cmd : Part.cmd ∈ L) (h_rtr : Part.rtr ∈ L) (h_eth : Part.eth ∈ L) (h_gov : Part.gov ∈ L) (h_irq : Part.irq ∈ L) (h_out : Part.out ∈ L) (hf : OnlyChanges L a s) :
    OnlyChanges L a (State.unparkNow s b count first res stride base).1 := by
  unfold State.unparkNow; simp (maxDischargeDepth := 40) +contextual [*]
theorem State.unparkNow_Only' {L : List Part} {a : State} (s : State) (b count first : Nat) (res : BitVec 2) (stride base : Nat) (h_reg : Part.reg ∈ L) (h_mem : Part.mem ∈ L) (h_cmd : Part.cmd ∈ L) (h_rtr : Part.rtr ∈ L) (h_eth : Part.eth ∈ L) (h_gov : Part.gov ∈ L) (h_irq : Part.irq ∈ L) (h_out : Part.out ∈ L) (hf : OnlyChanges L a s) {t0 : State} {y0 : Byte × Nat}
    (ht : State.unparkNow s b count first res stride base = (t0, y0)) : OnlyChanges L a t0 := by
  have h0 := State.unparkNow_Only (L := L) s b count first res stride base h_reg h_mem h_cmd h_rtr h_eth h_gov h_irq h_out hf; rw [ht] at h0; exact h0
@[simp] theorem State.snapNow_Only {L : List Part} {a : State} (s : State) (b : Nat) (at' : BitVec 48) (stream : BitVec 8) (m : Word64) (limit : Nat) (h_reg : Part.reg ∈ L) (h_mem : Part.mem ∈ L) (h_cnv : Part.cnv ∈ L) (h_fab : Part.fab ∈ L) (h_eth : Part.eth ∈ L) (h_gov : Part.gov ∈ L) (h_kpr : Part.kpr ∈ L) (h_irq : Part.irq ∈ L) (h_ptb : Part.ptb ∈ L) (h_out : Part.out ∈ L) (h_free : Part.free ∈ L) (hf : OnlyChanges L a s) :
    OnlyChanges L a (State.snapNow s b at' stream m limit).1 := by
  unfold State.snapNow; simp (maxDischargeDepth := 40) +contextual [*]
theorem State.snapNow_Only' {L : List Part} {a : State} (s : State) (b : Nat) (at' : BitVec 48) (stream : BitVec 8) (m : Word64) (limit : Nat) (h_reg : Part.reg ∈ L) (h_mem : Part.mem ∈ L) (h_cnv : Part.cnv ∈ L) (h_fab : Part.fab ∈ L) (h_eth : Part.eth ∈ L) (h_gov : Part.gov ∈ L) (h_kpr : Part.kpr ∈ L) (h_irq : Part.irq ∈ L) (h_ptb : Part.ptb ∈ L) (h_out : Part.out ∈ L) (h_free : Part.free ∈ L) (hf : OnlyChanges L a s) {t0 : State} {y0 : Byte × Nat}
    (ht : State.snapNow s b at' stream m limit = (t0, y0)) : OnlyChanges L a t0 := by
  have h0 := State.snapNow_Only (L := L) s b at' stream m limit h_reg h_mem h_cnv h_fab h_eth h_gov h_kpr h_irq h_ptb h_out h_free hf; rw [ht] at h0; exact h0

end Sys2Proof.Machine
end

