-- ==== Sys2Proof/Laws/Only/Loads.lean ====
section
/-! SUPPORT. Laws/Only/Loads.lean: what each operation of Machine/Loads.lean can do to the tables (its units). -/

namespace Sys2Proof.Machine

@[simp] theorem State.srcBytes_Only {L : List Part} {a : State} (s : State) (stream : BitVec 8) (m : Word64) (n : Nat) (data : List Byte) (h_reg : Part.reg ∈ L) (h_cmd : Part.cmd ∈ L) (h_eth : Part.eth ∈ L) (h_gov : Part.gov ∈ L) (h_irq : Part.irq ∈ L) (h_out : Part.out ∈ L) (h_free : Part.free ∈ L) (hf : OnlyChanges L a s) :
    OnlyChanges L a (State.srcBytes s stream m n data).2.2 := by
  unfold State.srcBytes; (repeat' split) <;> simp (maxDischargeDepth := 40) +contextual [*]
theorem State.srcBytes_Only' {L : List Part} {a : State} (s : State) (stream : BitVec 8) (m : Word64) (n : Nat) (data : List Byte) (h_reg : Part.reg ∈ L) (h_cmd : Part.cmd ∈ L) (h_eth : Part.eth ∈ L) (h_gov : Part.gov ∈ L) (h_irq : Part.irq ∈ L) (h_out : Part.out ∈ L) (h_free : Part.free ∈ L) (hf : OnlyChanges L a s) {t0 : State} {y0 : List Byte} {z0 : Bool}
    (ht : State.srcBytes s stream m n data = (y0, z0, t0)) : OnlyChanges L a t0 := by
  have h0 := State.srcBytes_Only (L := L) s stream m n data h_reg h_cmd h_eth h_gov h_irq h_out h_free hf; rw [ht] at h0; exact h0
@[simp] theorem State.loadBytes_Only {L : List Part} {a0 : State} (s : State) (a : Nat) (l : List Byte) (h_mem : Part.mem ∈ L) (hf : OnlyChanges L a0 s) :
    OnlyChanges L a0 (State.loadBytes s a l) := by
  unfold State.loadBytes; simp (maxDischargeDepth := 40) +contextual [*]
@[simp] theorem State.withSrc_Only {L : List Part} {a : State} (s : State) (stream : BitVec 8) (m : Word64) (n : Nat) (data : List Byte)
    (f : State → List Byte → Effect) (h_reg : Part.reg ∈ L) (h_cmd : Part.cmd ∈ L) (h_eth : Part.eth ∈ L) (h_gov : Part.gov ∈ L) (h_irq : Part.irq ∈ L) (h_out : Part.out ∈ L) (h_free : Part.free ∈ L) (ho : ∀ s l, OnlyChanges L a s → OnlyChanges L a (f s l).1)
    (hf : OnlyChanges L a s) : OnlyChanges L a (s.withSrc stream m n data f).1 := by
  have h : OnlyChanges L a (s.srcBytes stream m n data).2.2 := by simp (maxDischargeDepth := 40) +contextual [*]
  show OnlyChanges L a (if (s.srcBytes stream m n data).2.1 then ((s.srcBytes stream m n data).2.2, St.eccFatal, 0)
    else f (s.srcBytes stream m n data).2.2 (s.srcBytes stream m n data).1 : Effect).1
  split
  · exact h
  · exact ho _ _ h
@[simp] theorem State.loadprogNow_Only {L : List Part} {a : State} (s : State) (b core t : Nat) (poff : BitVec 24) (data : List Byte) (h_reg : Part.reg ∈ L) (h_core : Part.core ∈ L) (hf : OnlyChanges L a s) :
    OnlyChanges L a (State.loadprogNow s b core t poff data).1 := by
  unfold State.loadprogNow; simp (maxDischargeDepth := 40) +contextual [*]
theorem State.loadprogNow_Only' {L : List Part} {a : State} (s : State) (b core t : Nat) (poff : BitVec 24) (data : List Byte) (h_reg : Part.reg ∈ L) (h_core : Part.core ∈ L) (hf : OnlyChanges L a s) {t0 : State} {y0 : Byte × Nat}
    (ht : State.loadprogNow s b core t poff data = (t0, y0)) : OnlyChanges L a t0 := by
  have h0 := State.loadprogNow_Only (L := L) s b core t poff data h_reg h_core hf; rw [ht] at h0; exact h0
@[simp] theorem State.clearRegion_Only {L : List Part} {a : State} (s : State) (n m : Nat) (h_mem : Part.mem ∈ L) (hf : OnlyChanges L a s) :
    OnlyChanges L a (State.clearRegion s n m) := by
  unfold State.clearRegion; simp (maxDischargeDepth := 40) +contextual [*]
@[simp] theorem State.clearRuleFlags_Only {L : List Part} {a : State} (s : State) (n m : Nat) (h_reg : Part.reg ∈ L) (hf : OnlyChanges L a s) :
    OnlyChanges L a (State.clearRuleFlags s n m) := by
  unfold State.clearRuleFlags; simp (maxDischargeDepth := 40) +contextual [*]
@[simp] theorem State.removeRule_Only {L : List Part} {a : State} (s : State) (n m : Nat) (h_reg : Part.reg ∈ L) (h_mem : Part.mem ∈ L) (h_core : Part.core ∈ L) (hf : OnlyChanges L a s) :
    OnlyChanges L a (State.removeRule s n m) := by
  unfold State.removeRule; simp (maxDischargeDepth := 40) +contextual [*]
@[simp] theorem State.rowsLoaded_Only {L : List Part} {a : State} (s : State) (n m first count : Nat) (h_reg : Part.reg ∈ L) (h_mem : Part.mem ∈ L) (h_core : Part.core ∈ L) (hf : OnlyChanges L a s) :
    OnlyChanges L a (State.rowsLoaded s n m first count) := by
  unfold State.rowsLoaded; simp (maxDischargeDepth := 40) +contextual [*]
@[simp] theorem State.dropBerths_Only {L : List Part} {a : State} (s : State) (n m : Nat) (h_reg : Part.reg ∈ L) (h_cmd : Part.cmd ∈ L) (h_core : Part.core ∈ L) (h_fab : Part.fab ∈ L) (h_eth : Part.eth ∈ L) (h_gov : Part.gov ∈ L) (h_irq : Part.irq ∈ L) (h_ptb : Part.ptb ∈ L) (h_out : Part.out ∈ L) (h_free : Part.free ∈ L) (hf : OnlyChanges L a s) :
    OnlyChanges L a (State.dropBerths s n m) := by
  unfold State.dropBerths; simp (maxDischargeDepth := 40) +contextual [*]
@[simp] theorem State.loadmatNow_Only {L : List Part} {a : State} (s : State) (b core m : Nat) (desc : List Word) (stream : BitVec 8) (src : Word64) (first count : Nat) (data : List Byte) (h_reg : Part.reg ∈ L) (h_mem : Part.mem ∈ L) (h_cmd : Part.cmd ∈ L) (h_core : Part.core ∈ L) (h_rtr : Part.rtr ∈ L) (h_fab : Part.fab ∈ L) (h_eth : Part.eth ∈ L) (h_gov : Part.gov ∈ L) (h_irq : Part.irq ∈ L) (h_ptb : Part.ptb ∈ L) (h_out : Part.out ∈ L) (h_free : Part.free ∈ L) (hf : OnlyChanges L a s) :
    OnlyChanges L a (State.loadmatNow s b core m desc stream src first count data).1 := by
  unfold State.loadmatNow; simp (maxDischargeDepth := 40) +contextual [*]
theorem State.loadmatNow_Only' {L : List Part} {a : State} (s : State) (b core m : Nat) (desc : List Word) (stream : BitVec 8) (src : Word64) (first count : Nat) (data : List Byte) (h_reg : Part.reg ∈ L) (h_mem : Part.mem ∈ L) (h_cmd : Part.cmd ∈ L) (h_core : Part.core ∈ L) (h_rtr : Part.rtr ∈ L) (h_fab : Part.fab ∈ L) (h_eth : Part.eth ∈ L) (h_gov : Part.gov ∈ L) (h_irq : Part.irq ∈ L) (h_ptb : Part.ptb ∈ L) (h_out : Part.out ∈ L) (h_free : Part.free ∈ L) (hf : OnlyChanges L a s) {t0 : State} {y0 : Byte × Nat}
    (ht : State.loadmatNow s b core m desc stream src first count data = (t0, y0)) : OnlyChanges L a t0 := by
  have h0 := State.loadmatNow_Only (L := L) s b core m desc stream src first count data h_reg h_mem h_cmd h_core h_rtr h_fab h_eth h_gov h_irq h_ptb h_out h_free hf; rw [ht] at h0; exact h0
@[simp] theorem State.loadrouteNow_Only {L : List Part} {a : State} (s : State) (b core t idx : Nat) (stream : BitVec 8) (src : Word64) (first units : Nat) (data : List Byte) (h_reg : Part.reg ∈ L) (h_mem : Part.mem ∈ L) (h_cmd : Part.cmd ∈ L) (h_core : Part.core ∈ L) (h_eth : Part.eth ∈ L) (h_gov : Part.gov ∈ L) (h_irq : Part.irq ∈ L) (h_out : Part.out ∈ L) (h_free : Part.free ∈ L) (hf : OnlyChanges L a s) :
    OnlyChanges L a (State.loadrouteNow s b core t idx stream src first units data).1 := by
  unfold State.loadrouteNow; simp (maxDischargeDepth := 40) +contextual [*]
theorem State.loadrouteNow_Only' {L : List Part} {a : State} (s : State) (b core t idx : Nat) (stream : BitVec 8) (src : Word64) (first units : Nat) (data : List Byte) (h_reg : Part.reg ∈ L) (h_mem : Part.mem ∈ L) (h_cmd : Part.cmd ∈ L) (h_core : Part.core ∈ L) (h_eth : Part.eth ∈ L) (h_gov : Part.gov ∈ L) (h_irq : Part.irq ∈ L) (h_out : Part.out ∈ L) (h_free : Part.free ∈ L) (hf : OnlyChanges L a s) {t0 : State} {y0 : Byte × Nat}
    (ht : State.loadrouteNow s b core t idx stream src first units data = (t0, y0)) : OnlyChanges L a t0 := by
  have h0 := State.loadrouteNow_Only (L := L) s b core t idx stream src first units data h_reg h_mem h_cmd h_core h_eth h_gov h_irq h_out h_free hf; rw [ht] at h0; exact h0
@[simp] theorem State.loadruleNow_Only {L : List Part} {a : State} (s : State) (b core m : Nat) (stream : BitVec 8) (src : Word64) (data : List Byte) (h_reg : Part.reg ∈ L) (h_mem : Part.mem ∈ L) (h_cmd : Part.cmd ∈ L) (h_core : Part.core ∈ L) (h_rtr : Part.rtr ∈ L) (h_eth : Part.eth ∈ L) (h_gov : Part.gov ∈ L) (h_irq : Part.irq ∈ L) (h_out : Part.out ∈ L) (h_free : Part.free ∈ L) (hf : OnlyChanges L a s) :
    OnlyChanges L a (State.loadruleNow s b core m stream src data).1 := by
  unfold State.loadruleNow; simp (maxDischargeDepth := 40) +contextual [*]
theorem State.loadruleNow_Only' {L : List Part} {a : State} (s : State) (b core m : Nat) (stream : BitVec 8) (src : Word64) (data : List Byte) (h_reg : Part.reg ∈ L) (h_mem : Part.mem ∈ L) (h_cmd : Part.cmd ∈ L) (h_core : Part.core ∈ L) (h_rtr : Part.rtr ∈ L) (h_eth : Part.eth ∈ L) (h_gov : Part.gov ∈ L) (h_irq : Part.irq ∈ L) (h_out : Part.out ∈ L) (h_free : Part.free ∈ L) (hf : OnlyChanges L a s) {t0 : State} {y0 : Byte × Nat}
    (ht : State.loadruleNow s b core m stream src data = (t0, y0)) : OnlyChanges L a t0 := by
  have h0 := State.loadruleNow_Only (L := L) s b core m stream src data h_reg h_mem h_cmd h_core h_rtr h_eth h_gov h_irq h_out h_free hf; rw [ht] at h0; exact h0
@[simp] theorem State.chancfgNow_Only {L : List Part} {a : State} (s : State) (b h : Nat) (stream : BitVec 8) (src : Word64) (data : List Byte) (h_reg : Part.reg ∈ L) (h_mem : Part.mem ∈ L) (h_cmd : Part.cmd ∈ L) (h_cnv : Part.cnv ∈ L) (h_eth : Part.eth ∈ L) (h_gov : Part.gov ∈ L) (h_irq : Part.irq ∈ L) (h_out : Part.out ∈ L) (h_free : Part.free ∈ L) (hf : OnlyChanges L a s) :
    OnlyChanges L a (State.chancfgNow s b h stream src data).1 := by
  unfold State.chancfgNow; simp (maxDischargeDepth := 40) +contextual [*]
theorem State.chancfgNow_Only' {L : List Part} {a : State} (s : State) (b h : Nat) (stream : BitVec 8) (src : Word64) (data : List Byte) (h_reg : Part.reg ∈ L) (h_mem : Part.mem ∈ L) (h_cmd : Part.cmd ∈ L) (h_cnv : Part.cnv ∈ L) (h_eth : Part.eth ∈ L) (h_gov : Part.gov ∈ L) (h_irq : Part.irq ∈ L) (h_out : Part.out ∈ L) (h_free : Part.free ∈ L) (hf : OnlyChanges L a s) {t0 : State} {y0 : Byte × Nat}
    (ht : State.chancfgNow s b h stream src data = (t0, y0)) : OnlyChanges L a t0 := by
  have h0 := State.chancfgNow_Only (L := L) s b h stream src data h_reg h_mem h_cmd h_cnv h_eth h_gov h_irq h_out h_free hf; rw [ht] at h0; exact h0
@[simp] theorem State.epochNow_Only {L : List Part} {a : State} (s : State) (b g len : Nat) (base : BitVec 48) (h_reg : Part.reg ∈ L) (h_mem : Part.mem ∈ L) (h_cmd : Part.cmd ∈ L) (h_core : Part.core ∈ L) (h_rtr : Part.rtr ∈ L) (h_eth : Part.eth ∈ L) (h_gov : Part.gov ∈ L) (h_irq : Part.irq ∈ L) (h_out : Part.out ∈ L) (hf : OnlyChanges L a s) :
    OnlyChanges L a (State.epochNow s b g len base).1 := by
  unfold State.epochNow; simp (maxDischargeDepth := 40) +contextual [*]
theorem State.epochNow_Only' {L : List Part} {a : State} (s : State) (b g len : Nat) (base : BitVec 48) (h_reg : Part.reg ∈ L) (h_mem : Part.mem ∈ L) (h_cmd : Part.cmd ∈ L) (h_core : Part.core ∈ L) (h_rtr : Part.rtr ∈ L) (h_eth : Part.eth ∈ L) (h_gov : Part.gov ∈ L) (h_irq : Part.irq ∈ L) (h_out : Part.out ∈ L) (hf : OnlyChanges L a s) {t0 : State} {y0 : Byte × Nat}
    (ht : State.epochNow s b g len base = (t0, y0)) : OnlyChanges L a t0 := by
  have h0 := State.epochNow_Only (L := L) s b g len base h_reg h_mem h_cmd h_core h_rtr h_eth h_gov h_irq h_out hf; rw [ht] at h0; exact h0
@[simp] theorem State.berthIssue_Only {L : List Part} {a : State} (s : State) (h : Hdr) (cseq : Word64) (core m circuit k : Nat) (first last : BitVec 48) (base lines : BitVec 14) (h_core : Part.core ∈ L) (hf : OnlyChanges L a s) :
    OnlyChanges L a (State.berthIssue s h cseq core m circuit k first last base lines) := by
  unfold State.berthIssue; simp (maxDischargeDepth := 40) +contextual [*]
@[simp] theorem State.copyMods_Only {L : List Part} {a : State} (s : State) (mask : BitVec 4) (count first : Nat) (stream : BitVec 8) (src : Word64) (data : List Byte) (h_reg : Part.reg ∈ L) (h_cmd : Part.cmd ∈ L) (h_eth : Part.eth ∈ L) (h_gov : Part.gov ∈ L) (h_irq : Part.irq ∈ L) (h_out : Part.out ∈ L) (h_free : Part.free ∈ L) (hf : OnlyChanges L a s) :
    OnlyChanges L a (State.copyMods s mask count first stream src data).1 := by
  unfold State.copyMods; simp (maxDischargeDepth := 40) +contextual [*]
theorem State.copyMods_Only' {L : List Part} {a : State} (s : State) (mask : BitVec 4) (count first : Nat) (stream : BitVec 8) (src : Word64) (data : List Byte) (h_reg : Part.reg ∈ L) (h_cmd : Part.cmd ∈ L) (h_eth : Part.eth ∈ L) (h_gov : Part.gov ∈ L) (h_irq : Part.irq ∈ L) (h_out : Part.out ∈ L) (h_free : Part.free ∈ L) (hf : OnlyChanges L a s) {t0 : State} {y0 : Byte × Nat}
    (ht : State.copyMods s mask count first stream src data = (t0, y0)) : OnlyChanges L a t0 := by
  have h0 := State.copyMods_Only (L := L) s mask count first stream src data h_reg h_cmd h_eth h_gov h_irq h_out h_free hf; rw [ht] at h0; exact h0
@[simp] theorem State.copyBytes_Only {L : List Part} {a : State} (s : State) (stream : BitVec 8) (src dst : Word64) (len : Nat) (data : List Byte) (h_reg : Part.reg ∈ L) (h_mem : Part.mem ∈ L) (h_cmd : Part.cmd ∈ L) (h_cnv : Part.cnv ∈ L) (h_fab : Part.fab ∈ L) (h_eth : Part.eth ∈ L) (h_gov : Part.gov ∈ L) (h_irq : Part.irq ∈ L) (h_ptb : Part.ptb ∈ L) (h_out : Part.out ∈ L) (h_free : Part.free ∈ L) (hf : OnlyChanges L a s) :
    OnlyChanges L a (State.copyBytes s stream src dst len data).1 := by
  unfold State.copyBytes; simp (maxDischargeDepth := 40) +contextual [*]
theorem State.copyBytes_Only' {L : List Part} {a : State} (s : State) (stream : BitVec 8) (src dst : Word64) (len : Nat) (data : List Byte) (h_reg : Part.reg ∈ L) (h_mem : Part.mem ∈ L) (h_cmd : Part.cmd ∈ L) (h_cnv : Part.cnv ∈ L) (h_fab : Part.fab ∈ L) (h_eth : Part.eth ∈ L) (h_gov : Part.gov ∈ L) (h_irq : Part.irq ∈ L) (h_ptb : Part.ptb ∈ L) (h_out : Part.out ∈ L) (h_free : Part.free ∈ L) (hf : OnlyChanges L a s) {t0 : State} {y0 : Byte × Nat}
    (ht : State.copyBytes s stream src dst len data = (t0, y0)) : OnlyChanges L a t0 := by
  have h0 := State.copyBytes_Only (L := L) s stream src dst len data h_reg h_mem h_cmd h_cnv h_fab h_eth h_gov h_irq h_ptb h_out h_free hf; rw [ht] at h0; exact h0

end Sys2Proof.Machine
end

