-- ==== Sys2Proof/Laws/Only/Commands.lean ====
section
/-! SUPPORT. Laws/Only/Commands.lean: what each operation of Machine/Commands.lean can do to the tables (its units). -/

namespace Sys2Proof.Machine

@[simp] theorem State.effect_Only {L : List Part} {a : State} (s : State) (b : Nat) (d : Deferred) (h_reg : Part.reg ∈ L) (h_mem : Part.mem ∈ L) (h_cmd : Part.cmd ∈ L) (h_core : Part.core ∈ L) (h_rtr : Part.rtr ∈ L) (h_cnv : Part.cnv ∈ L) (h_syn : Part.syn ∈ L) (h_fab : Part.fab ∈ L) (h_eth : Part.eth ∈ L) (h_gov : Part.gov ∈ L) (h_kpr : Part.kpr ∈ L) (h_irq : Part.irq ∈ L) (h_tmr : Part.tmr ∈ L) (h_ptb : Part.ptb ∈ L) (h_out : Part.out ∈ L) (h_free : Part.free ∈ L) (hf : OnlyChanges L a s) :
    OnlyChanges L a (State.effect s b d).1 := by
  unfold State.effect; (repeat' split) <;> simp (maxDischargeDepth := 40) +contextual [*]
theorem State.effect_Only' {L : List Part} {a : State} (s : State) (b : Nat) (d : Deferred) (h_reg : Part.reg ∈ L) (h_mem : Part.mem ∈ L) (h_cmd : Part.cmd ∈ L) (h_core : Part.core ∈ L) (h_rtr : Part.rtr ∈ L) (h_cnv : Part.cnv ∈ L) (h_syn : Part.syn ∈ L) (h_fab : Part.fab ∈ L) (h_eth : Part.eth ∈ L) (h_gov : Part.gov ∈ L) (h_kpr : Part.kpr ∈ L) (h_irq : Part.irq ∈ L) (h_tmr : Part.tmr ∈ L) (h_ptb : Part.ptb ∈ L) (h_out : Part.out ∈ L) (h_free : Part.free ∈ L) (hf : OnlyChanges L a s) {t0 : State} {y0 : Byte × Nat}
    (ht : State.effect s b d = (t0, y0)) : OnlyChanges L a t0 := by
  have h0 := State.effect_Only (L := L) s b d h_reg h_mem h_cmd h_core h_rtr h_cnv h_syn h_fab h_eth h_gov h_kpr h_irq h_tmr h_ptb h_out h_free hf; rw [ht] at h0; exact h0
@[simp] theorem State.copyGo_Only {L : List Part} {a : State} (s : State) (h : Hdr) (cseq : Word64) (src dst : Word64) (len circuit : Nat) (useCircuit : Bool) (l : List Byte) (h_reg : Part.reg ∈ L) (h_mem : Part.mem ∈ L) (h_cmd : Part.cmd ∈ L) (h_cnv : Part.cnv ∈ L) (h_fab : Part.fab ∈ L) (h_eth : Part.eth ∈ L) (h_gov : Part.gov ∈ L) (h_irq : Part.irq ∈ L) (h_ptb : Part.ptb ∈ L) (h_out : Part.out ∈ L) (h_free : Part.free ∈ L) (hf : OnlyChanges L a s) :
    OnlyChanges L a (State.copyGo s h cseq src dst len circuit useCircuit l) := by
  unfold State.copyGo; simp only []; (repeat' (first | exact hf | (refine OnlyChanges.forAll ?_ _ ?_; intro s x h) | split)) <;> simp_all (maxDischargeDepth := 40) +contextual
@[simp] theorem State.modsDone_Only {L : List Part} {a : State} (s : State) (h : Hdr) (cseq : Word64) (mask : BitVec 4) (count first : Nat) (src : Word64) (l : List Byte) (h_reg : Part.reg ∈ L) (h_cmd : Part.cmd ∈ L) (h_eth : Part.eth ∈ L) (h_gov : Part.gov ∈ L) (h_irq : Part.irq ∈ L) (h_out : Part.out ∈ L) (h_free : Part.free ∈ L) (hf : OnlyChanges L a s) :
    OnlyChanges L a (State.modsDone s h cseq mask count first src l) := by
  unfold State.modsDone; simp (maxDischargeDepth := 40) +contextual [*]
@[simp] theorem State.effectDone_Only {L : List Part} {a : State} (s : State) (b : Nat) (d : Deferred) (h_reg : Part.reg ∈ L) (h_mem : Part.mem ∈ L) (h_cmd : Part.cmd ∈ L) (h_core : Part.core ∈ L) (h_rtr : Part.rtr ∈ L) (h_cnv : Part.cnv ∈ L) (h_syn : Part.syn ∈ L) (h_fab : Part.fab ∈ L) (h_eth : Part.eth ∈ L) (h_gov : Part.gov ∈ L) (h_kpr : Part.kpr ∈ L) (h_irq : Part.irq ∈ L) (h_tmr : Part.tmr ∈ L) (h_ptb : Part.ptb ∈ L) (h_out : Part.out ∈ L) (h_free : Part.free ∈ L) (hf : OnlyChanges L a s) :
    OnlyChanges L a (State.effectDone s b d) := by
  unfold State.effectDone; simp only []; (repeat' (first | exact hf | (refine OnlyChanges.forAll ?_ _ ?_; intro s x h) | split)) <;> simp_all (maxDischargeDepth := 40) +contextual
@[simp] theorem State.boundaryEffect_Only {L : List Part} {a : State} (s : State) (b : Nat) (h_reg : Part.reg ∈ L) (h_mem : Part.mem ∈ L) (h_cmd : Part.cmd ∈ L) (h_core : Part.core ∈ L) (h_rtr : Part.rtr ∈ L) (h_cnv : Part.cnv ∈ L) (h_syn : Part.syn ∈ L) (h_fab : Part.fab ∈ L) (h_eth : Part.eth ∈ L) (h_gov : Part.gov ∈ L) (h_kpr : Part.kpr ∈ L) (h_irq : Part.irq ∈ L) (h_tmr : Part.tmr ∈ L) (h_ptb : Part.ptb ∈ L) (h_out : Part.out ∈ L) (h_free : Part.free ∈ L) (hf : OnlyChanges L a s) :
    OnlyChanges L a (State.boundaryEffect s b) := by
  unfold State.boundaryEffect; simp only []; (repeat' (first | exact hf | (refine OnlyChanges.forAll ?_ _ ?_; intro s x h) | split)) <;> simp_all (maxDischargeDepth := 40) +contextual
@[simp] theorem State.defer_Only {L : List Part} {a : State} (s : State) (b : Nat) (h : Hdr) (op : Byte) (d : Deferred) (h_reg : Part.reg ∈ L) (h_mem : Part.mem ∈ L) (h_cmd : Part.cmd ∈ L) (h_core : Part.core ∈ L) (h_rtr : Part.rtr ∈ L) (h_cnv : Part.cnv ∈ L) (h_syn : Part.syn ∈ L) (h_fab : Part.fab ∈ L) (h_eth : Part.eth ∈ L) (h_gov : Part.gov ∈ L) (h_kpr : Part.kpr ∈ L) (h_irq : Part.irq ∈ L) (h_tmr : Part.tmr ∈ L) (h_ptb : Part.ptb ∈ L) (h_out : Part.out ∈ L) (h_free : Part.free ∈ L) (hf : OnlyChanges L a s) :
    OnlyChanges L a (State.defer s b h op d) := by
  unfold State.defer; simp (maxDischargeDepth := 40) +contextual [*]
@[simp] theorem State.boundary_Only {L : List Part} {a : State} (s taken : State) (b : Nat) (h : Hdr) (op : Byte) (d : Deferred) (h_reg : Part.reg ∈ L) (h_mem : Part.mem ∈ L) (h_cmd : Part.cmd ∈ L) (h_core : Part.core ∈ L) (h_rtr : Part.rtr ∈ L) (h_cnv : Part.cnv ∈ L) (h_syn : Part.syn ∈ L) (h_fab : Part.fab ∈ L) (h_eth : Part.eth ∈ L) (h_gov : Part.gov ∈ L) (h_kpr : Part.kpr ∈ L) (h_irq : Part.irq ∈ L) (h_tmr : Part.tmr ∈ L) (h_ptb : Part.ptb ∈ L) (h_out : Part.out ∈ L) (h_free : Part.free ∈ L) (hf : OnlyChanges L a s) (hf1 : OnlyChanges L a taken) :
    OnlyChanges L a (State.boundary s taken b h op d) := by
  unfold State.boundary; simp (maxDischargeDepth := 40) +contextual [*]
@[simp] theorem State.takeSrc_Only {L : List Part} {a : State} (s : State) (stream : BitVec 8) (m : Word64) (n : Nat) (h_reg : Part.reg ∈ L) (h_cmd : Part.cmd ∈ L) (h_eth : Part.eth ∈ L) (h_gov : Part.gov ∈ L) (h_irq : Part.irq ∈ L) (h_out : Part.out ∈ L) (h_free : Part.free ∈ L) (hf : OnlyChanges L a s) :
    OnlyChanges L a (State.takeSrc s stream m n).2 := by
  unfold State.takeSrc; (repeat' split) <;> simp (maxDischargeDepth := 40) +contextual [*]
theorem State.takeSrc_Only' {L : List Part} {a : State} (s : State) (stream : BitVec 8) (m : Word64) (n : Nat) (h_reg : Part.reg ∈ L) (h_cmd : Part.cmd ∈ L) (h_eth : Part.eth ∈ L) (h_gov : Part.gov ∈ L) (h_irq : Part.irq ∈ L) (h_out : Part.out ∈ L) (h_free : Part.free ∈ L) (hf : OnlyChanges L a s) {t0 : State} {y0 : List Byte}
    (ht : State.takeSrc s stream m n = (y0, t0)) : OnlyChanges L a t0 := by
  have h0 := State.takeSrc_Only (L := L) s stream m n h_reg h_cmd h_eth h_gov h_irq h_out h_free hf; rw [ht] at h0; exact h0
@[simp] theorem State.boundarySrc_Only {L : List Part} {a : State} (s : State) (b : Nat) (h : Hdr) (op : Byte) (c : Instr) (cseq : Word64) (m : Word64) (n : Nat) (h_reg : Part.reg ∈ L) (h_mem : Part.mem ∈ L) (h_cmd : Part.cmd ∈ L) (h_core : Part.core ∈ L) (h_rtr : Part.rtr ∈ L) (h_cnv : Part.cnv ∈ L) (h_syn : Part.syn ∈ L) (h_fab : Part.fab ∈ L) (h_eth : Part.eth ∈ L) (h_gov : Part.gov ∈ L) (h_kpr : Part.kpr ∈ L) (h_irq : Part.irq ∈ L) (h_tmr : Part.tmr ∈ L) (h_ptb : Part.ptb ∈ L) (h_out : Part.out ∈ L) (h_free : Part.free ∈ L) (hf : OnlyChanges L a s) :
    OptOnly L a (State.boundarySrc s b h op c cseq m n) := by
  unfold State.boundarySrc; simp (maxDischargeDepth := 40) +contextual [*]
@[simp] theorem State.answerJoin_Only {L : List Part} {a : State} (s : State) (b : Nat) (dev : BitVec 6) (mask : Word64) (h_reg : Part.reg ∈ L) (h_cmd : Part.cmd ∈ L) (h_fab : Part.fab ∈ L) (h_eth : Part.eth ∈ L) (h_gov : Part.gov ∈ L) (h_irq : Part.irq ∈ L) (h_ptb : Part.ptb ∈ L) (h_out : Part.out ∈ L) (h_free : Part.free ∈ L) (hf : OnlyChanges L a s) :
    OnlyChanges L a (State.answerJoin s b dev mask) := by
  unfold State.answerJoin; simp (maxDischargeDepth := 40) +contextual [*]
@[simp] theorem State.answerJoins_Only {L : List Part} {a : State} (s : State) (b : Nat) (h_reg : Part.reg ∈ L) (h_cmd : Part.cmd ∈ L) (h_fab : Part.fab ∈ L) (h_eth : Part.eth ∈ L) (h_gov : Part.gov ∈ L) (h_irq : Part.irq ∈ L) (h_ptb : Part.ptb ∈ L) (h_out : Part.out ∈ L) (h_free : Part.free ∈ L) (hf : OnlyChanges L a s) :
    OnlyChanges L a (State.answerJoins s b) := by
  unfold State.answerJoins; simp (maxDischargeDepth := 40) +contextual [*]
@[simp] theorem State.bindingFresh_Only {L : List Part} {a : State} (s : State) (b : Nat) (h_reg : Part.reg ∈ L) (hf : OnlyChanges L a s) :
    OnlyChanges L a (State.bindingFresh s b) := by
  unfold State.bindingFresh; simp (maxDischargeDepth := 40) +contextual [*]
@[simp] theorem State.create_Only {L : List Part} {a : State} (s : State) (h : Hdr) (cseq : Word64) (b : Nat) (mask seed : Word64) (h_reg : Part.reg ∈ L) (h_cmd : Part.cmd ∈ L) (h_fab : Part.fab ∈ L) (h_eth : Part.eth ∈ L) (h_gov : Part.gov ∈ L) (h_irq : Part.irq ∈ L) (h_ptb : Part.ptb ∈ L) (h_out : Part.out ∈ L) (h_free : Part.free ∈ L) (hf : OnlyChanges L a s) :
    OnlyChanges L a (State.create s h cseq b mask seed) := by
  unfold State.create; simp (maxDischargeDepth := 40) +contextual [*]
@[simp] theorem State.issueBind_Only {L : List Part} {a : State} (s : State) (h : Hdr) (cseq : Word64) (c : Instr) (kind : BitVec 4) (count first : Nat) (w1 w2 : Word64) (h_reg : Part.reg ∈ L) (h_mem : Part.mem ∈ L) (h_cmd : Part.cmd ∈ L) (h_core : Part.core ∈ L) (h_rtr : Part.rtr ∈ L) (h_cnv : Part.cnv ∈ L) (h_syn : Part.syn ∈ L) (h_fab : Part.fab ∈ L) (h_eth : Part.eth ∈ L) (h_gov : Part.gov ∈ L) (h_kpr : Part.kpr ∈ L) (h_irq : Part.irq ∈ L) (h_tmr : Part.tmr ∈ L) (h_ptb : Part.ptb ∈ L) (h_out : Part.out ∈ L) (h_free : Part.free ∈ L) (hf : OnlyChanges L a s) :
    OnlyChanges L a (State.issueBind s h cseq c kind count first w1 w2) := by
  unfold State.issueBind; simp (maxDischargeDepth := 40) +contextual [*]
@[simp] theorem State.haltFor_Only {L : List Part} {a : State} (s : State) (b : Nat) (leaves : Bool) (h_reg : Part.reg ∈ L) (h_cmd : Part.cmd ∈ L) (h_fab : Part.fab ∈ L) (h_eth : Part.eth ∈ L) (h_gov : Part.gov ∈ L) (h_irq : Part.irq ∈ L) (h_ptb : Part.ptb ∈ L) (h_out : Part.out ∈ L) (h_free : Part.free ∈ L) (hf : OnlyChanges L a s) :
    OnlyChanges L a (State.haltFor s b leaves) := by
  unfold State.haltFor; simp (maxDischargeDepth := 40) +contextual [*]
@[simp] theorem State.memberHalts_Only {L : List Part} {a : State} (s : State) (b : Nat) (dev : BitVec 6) (leaves : Bool) (h_reg : Part.reg ∈ L) (h_cmd : Part.cmd ∈ L) (h_eth : Part.eth ∈ L) (h_irq : Part.irq ∈ L) (h_out : Part.out ∈ L) (hf : OnlyChanges L a s) :
    OnlyChanges L a (State.memberHalts s b dev leaves) := by
  unfold State.memberHalts; simp (maxDischargeDepth := 40) +contextual [*]
@[simp] theorem State.issueUnbind_Only {L : List Part} {a : State} (s : State) (h : Hdr) (cseq : Word64) (c : Instr) (kind : BitVec 4) (count first : Nat) (h_reg : Part.reg ∈ L) (h_mem : Part.mem ∈ L) (h_cmd : Part.cmd ∈ L) (h_core : Part.core ∈ L) (h_rtr : Part.rtr ∈ L) (h_cnv : Part.cnv ∈ L) (h_syn : Part.syn ∈ L) (h_fab : Part.fab ∈ L) (h_eth : Part.eth ∈ L) (h_gov : Part.gov ∈ L) (h_kpr : Part.kpr ∈ L) (h_irq : Part.irq ∈ L) (h_tmr : Part.tmr ∈ L) (h_ptb : Part.ptb ∈ L) (h_out : Part.out ∈ L) (h_free : Part.free ∈ L) (hf : OnlyChanges L a s) :
    OnlyChanges L a (State.issueUnbind s h cseq c kind count first) := by
  unfold State.issueUnbind; simp (maxDischargeDepth := 40) +contextual [*]
@[simp] theorem State.joinAck_Only {L : List Part} {a : State} (s : State) (b : Nat) (dev : BitVec 6) (mask : Word64) (ok : Bool) (h_reg : Part.reg ∈ L) (h_cmd : Part.cmd ∈ L) (h_fab : Part.fab ∈ L) (h_eth : Part.eth ∈ L) (h_gov : Part.gov ∈ L) (h_irq : Part.irq ∈ L) (h_ptb : Part.ptb ∈ L) (h_out : Part.out ∈ L) (h_free : Part.free ∈ L) (hf : OnlyChanges L a s) :
    OnlyChanges L a (State.joinAck s b dev mask ok) := by
  unfold State.joinAck; simp only []; (repeat' (first | exact hf | (refine OnlyChanges.forAll ?_ _ ?_; intro s x h) | split)) <;> simp_all (maxDischargeDepth := 40) +contextual
@[simp] theorem State.issueStep_Only {L : List Part} {a : State} (s : State) (h : Hdr) (cseq : Word64) (op : Byte) (n : Option Nat) (h_reg : Part.reg ∈ L) (h_cmd : Part.cmd ∈ L) (h_eth : Part.eth ∈ L) (h_irq : Part.irq ∈ L) (h_out : Part.out ∈ L) (hf : OnlyChanges L a s) :
    OptOnly L a (State.issueStep s h cseq op n) := by
  unfold State.issueStep; simp (maxDischargeDepth := 40) +contextual [*]
@[simp] theorem State.issueHalt_Only {L : List Part} {a : State} (s : State) (h : Hdr) (cseq : Word64) (h_reg : Part.reg ∈ L) (h_cmd : Part.cmd ∈ L) (h_eth : Part.eth ∈ L) (h_irq : Part.irq ∈ L) (h_out : Part.out ∈ L) (hf : OnlyChanges L a s) :
    OnlyChanges L a (State.issueHalt s h cseq) := by
  unfold State.issueHalt; simp (maxDischargeDepth := 40) +contextual [*]
@[simp] theorem State.issueApply_Only {L : List Part} {a : State} (s : State) (h : Hdr) (cseq : Word64) (g : BitVec 8) (h_reg : Part.reg ∈ L) (h_cmd : Part.cmd ∈ L) (h_fab : Part.fab ∈ L) (h_eth : Part.eth ∈ L) (h_gov : Part.gov ∈ L) (h_irq : Part.irq ∈ L) (h_ptb : Part.ptb ∈ L) (h_out : Part.out ∈ L) (h_free : Part.free ∈ L) (hf : OnlyChanges L a s) :
    OnlyChanges L a (State.issueApply s h cseq g) := by
  unfold State.issueApply; simp (maxDischargeDepth := 40) +contextual [*]
@[simp] theorem State.issueBerth_Only {L : List Part} {a : State} (s : State) (h : Hdr) (cseq : Word64) (core m circuit k : Nat) (first last : BitVec 48) (base lines : BitVec 14) (h_reg : Part.reg ∈ L) (h_cmd : Part.cmd ∈ L) (h_core : Part.core ∈ L) (h_eth : Part.eth ∈ L) (h_irq : Part.irq ∈ L) (h_out : Part.out ∈ L) (hf : OnlyChanges L a s) :
    OptOnly L a (State.issueBerth s h cseq core m circuit k first last base lines) := by
  unfold State.issueBerth; simp (maxDischargeDepth := 40) +contextual [*]
@[simp] theorem State.issueCopyBytes_Only {L : List Part} {a : State} (s : State) (h : Hdr) (cseq : Word64) (c : Instr) (src dst : Word64) (len circuit : Nat) (useCircuit : Bool) (h_reg : Part.reg ∈ L) (h_mem : Part.mem ∈ L) (h_cmd : Part.cmd ∈ L) (h_core : Part.core ∈ L) (h_rtr : Part.rtr ∈ L) (h_cnv : Part.cnv ∈ L) (h_syn : Part.syn ∈ L) (h_fab : Part.fab ∈ L) (h_eth : Part.eth ∈ L) (h_gov : Part.gov ∈ L) (h_kpr : Part.kpr ∈ L) (h_irq : Part.irq ∈ L) (h_tmr : Part.tmr ∈ L) (h_ptb : Part.ptb ∈ L) (h_out : Part.out ∈ L) (h_free : Part.free ∈ L) (hf : OnlyChanges L a s) :
    OptOnly L a (State.issueCopyBytes s h cseq c src dst len circuit useCircuit) := by
  unfold State.issueCopyBytes; simp (maxDischargeDepth := 40) +contextual [*]
@[simp] theorem State.issueCopy_Only {L : List Part} {a : State} (s : State) (h : Hdr) (cseq : Word64) (c : Instr) (kind mask : BitVec 4) (count first : Nat) (src dst : Word64) (len circuit : Nat) (useCircuit : Bool) (h_reg : Part.reg ∈ L) (h_mem : Part.mem ∈ L) (h_cmd : Part.cmd ∈ L) (h_core : Part.core ∈ L) (h_rtr : Part.rtr ∈ L) (h_cnv : Part.cnv ∈ L) (h_syn : Part.syn ∈ L) (h_fab : Part.fab ∈ L) (h_eth : Part.eth ∈ L) (h_gov : Part.gov ∈ L) (h_kpr : Part.kpr ∈ L) (h_irq : Part.irq ∈ L) (h_tmr : Part.tmr ∈ L) (h_ptb : Part.ptb ∈ L) (h_out : Part.out ∈ L) (h_free : Part.free ∈ L) (hf : OnlyChanges L a s) :
    OptOnly L a (State.issueCopy s h cseq c kind mask count first src dst len circuit useCircuit) := by
  unfold State.issueCopy; simp (maxDischargeDepth := 40) +contextual [*]
@[simp] theorem State.perform_Only {L : List Part} {a : State} (s : State) (h : Hdr) (cseq : Word64) (op : Byte) (f : State → State) (arg : Nat) (h_cmd : Part.cmd ∈ L) (ho : ∀ s, OnlyChanges L a s → OnlyChanges L a (f s)) (hf : OnlyChanges L a s) :
    OnlyChanges L a (s.perform h cseq op f arg) := by
  have h1 : OnlyChanges L a (f (s.outstanding { h with ackp := false } cseq op arg)) := ho _ (by simp (maxDischargeDepth := 40) +contextual [*])
  unfold State.perform
  dsimp only
  split
  · exact State.record_Only _ _ _ _ _ _ h_cmd h1
  · exact h1
@[simp] theorem State.issueBuoy_Only {L : List Part} {a : State} (s : State) (h : Hdr) (cseq : Word64) (dev : BitVec 6) (r : BuoyReq) (h_reg : Part.reg ∈ L) (h_cmd : Part.cmd ∈ L) (h_core : Part.core ∈ L) (h_syn : Part.syn ∈ L) (h_fab : Part.fab ∈ L) (h_eth : Part.eth ∈ L) (h_gov : Part.gov ∈ L) (h_irq : Part.irq ∈ L) (h_ptb : Part.ptb ∈ L) (h_out : Part.out ∈ L) (h_free : Part.free ∈ L) (hf : OnlyChanges L a s) :
    OptOnly L a (State.issueBuoy s h cseq dev r) := by
  unfold State.issueBuoy; simp (maxDischargeDepth := 40) +contextual [*]
@[simp] theorem State.issueSend_Only {L : List Part} {a : State} (s : State) (h : Hdr) (cseq : Word64) (dev q : Nat) (tag : Nat) (msg : List Word64) (h_reg : Part.reg ∈ L) (h_cmd : Part.cmd ∈ L) (h_syn : Part.syn ∈ L) (h_fab : Part.fab ∈ L) (h_eth : Part.eth ∈ L) (h_gov : Part.gov ∈ L) (h_irq : Part.irq ∈ L) (h_ptb : Part.ptb ∈ L) (h_out : Part.out ∈ L) (h_free : Part.free ∈ L) (hf : OnlyChanges L a s) :
    OptOnly L a (State.issueSend s h cseq dev q tag msg) := by
  unfold State.issueSend; simp (maxDischargeDepth := 40) +contextual [*]
@[simp] theorem State.issueRecv_Only {L : List Part} {a : State} (s : State) (h : Hdr) (cseq : Word64) (q : BitVec 12) (dst : Word64) (tmo : Word) (h_reg : Part.reg ∈ L) (h_mem : Part.mem ∈ L) (h_cmd : Part.cmd ∈ L) (h_cnv : Part.cnv ∈ L) (h_syn : Part.syn ∈ L) (h_fab : Part.fab ∈ L) (h_eth : Part.eth ∈ L) (h_gov : Part.gov ∈ L) (h_irq : Part.irq ∈ L) (h_ptb : Part.ptb ∈ L) (h_out : Part.out ∈ L) (h_free : Part.free ∈ L) (hf : OnlyChanges L a s) :
    OnlyChanges L a (State.issueRecv s h cseq q dst tmo) := by
  unfold State.issueRecv; simp (maxDischargeDepth := 40) +contextual [*]
@[simp] theorem State.issueEncode_Only {L : List Part} {a : State} (s : State) (h : Hdr) (cseq : Word64) (cfirst ch : Nat) (src : Word64) (nrow tstep : Nat) (zin : BitVec 8) (h_reg : Part.reg ∈ L) (h_cmd : Part.cmd ∈ L) (h_cnv : Part.cnv ∈ L) (h_eth : Part.eth ∈ L) (h_gov : Part.gov ∈ L) (h_irq : Part.irq ∈ L) (h_out : Part.out ∈ L) (h_free : Part.free ∈ L) (hf : OnlyChanges L a s) :
    OptOnly L a (State.issueEncode s h cseq cfirst ch src nrow tstep zin) := by
  unfold State.issueEncode; simp (maxDischargeDepth := 40) +contextual [*]
@[simp] theorem State.issueDecode_Only {L : List Part} {a : State} (s : State) (h : Hdr) (cseq : Word64) (cfirst : BitVec 18) (ch : BitVec 12) (dst : Word64) (count : Nat) (h_reg : Part.reg ∈ L) (h_mem : Part.mem ∈ L) (h_cmd : Part.cmd ∈ L) (h_cnv : Part.cnv ∈ L) (h_syn : Part.syn ∈ L) (h_fab : Part.fab ∈ L) (h_eth : Part.eth ∈ L) (h_gov : Part.gov ∈ L) (h_irq : Part.irq ∈ L) (h_ptb : Part.ptb ∈ L) (h_out : Part.out ∈ L) (h_free : Part.free ∈ L) (hf : OnlyChanges L a s) :
    OnlyChanges L a (State.issueDecode s h cseq cfirst ch dst count) := by
  unfold State.issueDecode; simp (maxDischargeDepth := 40) +contextual [*]
@[simp] theorem State.issueTimestamp_Only {L : List Part} {a : State} (s : State) (h : Hdr) (cseq : Word64) (when' : BitVec 1) (dst : Word64) (h_reg : Part.reg ∈ L) (h_mem : Part.mem ∈ L) (h_cmd : Part.cmd ∈ L) (h_cnv : Part.cnv ∈ L) (h_syn : Part.syn ∈ L) (h_fab : Part.fab ∈ L) (h_eth : Part.eth ∈ L) (h_gov : Part.gov ∈ L) (h_irq : Part.irq ∈ L) (h_ptb : Part.ptb ∈ L) (h_out : Part.out ∈ L) (h_free : Part.free ∈ L) (hf : OnlyChanges L a s) :
    OnlyChanges L a (State.issueTimestamp s h cseq when' dst) := by
  unfold State.issueTimestamp; simp (maxDischargeDepth := 40) +contextual [*]
@[simp] theorem State.issueHint_Only {L : List Part} {a : State} (s : State) (h : Hdr) (cseq : Word64) (kind : BitVec 4) (watts : BitVec 12) (dur ahead : BitVec 16) (h_reg : Part.reg ∈ L) (h_cmd : Part.cmd ∈ L) (h_eth : Part.eth ∈ L) (h_gov : Part.gov ∈ L) (h_irq : Part.irq ∈ L) (h_out : Part.out ∈ L) (hf : OnlyChanges L a s) :
    OnlyChanges L a (State.issueHint s h cseq kind watts dur ahead) := by
  unfold State.issueHint; simp (maxDischargeDepth := 40) +contextual [*]
@[simp] theorem State.issueNote_Only {L : List Part} {a : State} (s : State) (h : Hdr) (cseq : Word64) (value : Word) (h_reg : Part.reg ∈ L) (h_cmd : Part.cmd ∈ L) (h_eth : Part.eth ∈ L) (h_irq : Part.irq ∈ L) (h_out : Part.out ∈ L) (hf : OnlyChanges L a s) :
    OnlyChanges L a (State.issueNote s h cseq value) := by
  unfold State.issueNote; simp (maxDischargeDepth := 40) +contextual [*]
@[simp] theorem State.issueLoadprog_Only {L : List Part} {a : State} (s : State) (h : Hdr) (cseq : Word64) (c : Instr) (core t : Nat) (poff : BitVec 24) (m : Word64) (h_reg : Part.reg ∈ L) (h_mem : Part.mem ∈ L) (h_cmd : Part.cmd ∈ L) (h_core : Part.core ∈ L) (h_rtr : Part.rtr ∈ L) (h_cnv : Part.cnv ∈ L) (h_syn : Part.syn ∈ L) (h_fab : Part.fab ∈ L) (h_eth : Part.eth ∈ L) (h_gov : Part.gov ∈ L) (h_kpr : Part.kpr ∈ L) (h_irq : Part.irq ∈ L) (h_tmr : Part.tmr ∈ L) (h_ptb : Part.ptb ∈ L) (h_out : Part.out ∈ L) (h_free : Part.free ∈ L) (hf : OnlyChanges L a s) :
    OptOnly L a (State.issueLoadprog s h cseq c core t poff m) := by
  unfold State.issueLoadprog; (repeat' split) <;> simp (maxDischargeDepth := 40) +contextual [*]
@[simp] theorem State.issueLoad_Only {L : List Part} {a : State} (s : State) (h : Hdr) (op : Byte) (cseq : Word64) (c : Instr) (st : Byte) (m : Word64) (n : Nat) (h_reg : Part.reg ∈ L) (h_mem : Part.mem ∈ L) (h_cmd : Part.cmd ∈ L) (h_core : Part.core ∈ L) (h_rtr : Part.rtr ∈ L) (h_cnv : Part.cnv ∈ L) (h_syn : Part.syn ∈ L) (h_fab : Part.fab ∈ L) (h_eth : Part.eth ∈ L) (h_gov : Part.gov ∈ L) (h_kpr : Part.kpr ∈ L) (h_irq : Part.irq ∈ L) (h_tmr : Part.tmr ∈ L) (h_ptb : Part.ptb ∈ L) (h_out : Part.out ∈ L) (h_free : Part.free ∈ L) (hf : OnlyChanges L a s) :
    OptOnly L a (State.issueLoad s h op cseq c st m n) := by
  unfold State.issueLoad; simp (maxDischargeDepth := 40) +contextual [*]
@[simp] theorem State.issueKind_Only {L : List Part} {a : State} (s : State) (c : Instr) (h : Hdr) (cseq : Word64) (h_reg : Part.reg ∈ L) (h_mem : Part.mem ∈ L) (h_cmd : Part.cmd ∈ L) (h_core : Part.core ∈ L) (h_rtr : Part.rtr ∈ L) (h_cnv : Part.cnv ∈ L) (h_syn : Part.syn ∈ L) (h_fab : Part.fab ∈ L) (h_eth : Part.eth ∈ L) (h_gov : Part.gov ∈ L) (h_kpr : Part.kpr ∈ L) (h_irq : Part.irq ∈ L) (h_tmr : Part.tmr ∈ L) (h_ptb : Part.ptb ∈ L) (h_out : Part.out ∈ L) (h_free : Part.free ∈ L) (hf : OnlyChanges L a s) :
    OptOnly L a (State.issueKind s c h cseq) := by
  unfold State.issueKind; (repeat' split) <;> simp (maxDischargeDepth := 40) +contextual [*]
@[simp] theorem State.tryIssue_Only {L : List Part} {a : State} (s : State) (c : Instr) (cseq : Word64) (h_reg : Part.reg ∈ L) (h_mem : Part.mem ∈ L) (h_cmd : Part.cmd ∈ L) (h_core : Part.core ∈ L) (h_rtr : Part.rtr ∈ L) (h_cnv : Part.cnv ∈ L) (h_syn : Part.syn ∈ L) (h_fab : Part.fab ∈ L) (h_eth : Part.eth ∈ L) (h_gov : Part.gov ∈ L) (h_kpr : Part.kpr ∈ L) (h_irq : Part.irq ∈ L) (h_tmr : Part.tmr ∈ L) (h_ptb : Part.ptb ∈ L) (h_out : Part.out ∈ L) (h_free : Part.free ∈ L) (hf : OnlyChanges L a s) :
    OptOnly L a (State.tryIssue s c cseq) := by
  unfold State.tryIssue; (repeat' split) <;> simp (maxDischargeDepth := 40) +contextual [*]
@[simp] theorem State.command_Only {L : List Part} {a : State} (s : State) (c : Instr) (h_reg : Part.reg ∈ L) (h_mem : Part.mem ∈ L) (h_cmd : Part.cmd ∈ L) (h_core : Part.core ∈ L) (h_rtr : Part.rtr ∈ L) (h_cnv : Part.cnv ∈ L) (h_syn : Part.syn ∈ L) (h_fab : Part.fab ∈ L) (h_eth : Part.eth ∈ L) (h_gov : Part.gov ∈ L) (h_kpr : Part.kpr ∈ L) (h_irq : Part.irq ∈ L) (h_tmr : Part.tmr ∈ L) (h_ptb : Part.ptb ∈ L) (h_out : Part.out ∈ L) (h_free : Part.free ∈ L) (hf : OnlyChanges L a s) :
    OnlyChanges L a (State.command s c) := by
  unfold State.command
  split
  · exact hf
  · rename_i h op hc
    split
    · exact hf
    · extract_lets n x s1 w wait
      have h1 : OnlyChanges L a s1 := by simp (maxDischargeDepth := 40) [s1, *]
      clear_value s1
      have hw : OnlyChanges L a wait := State.setStrm_Only _ _ h_cmd h1
      split
      · simp (maxDischargeDepth := 40) [*]
      · split
        · exact hw
        · split
          · rename_i t ht
            have ht := State.tryIssue_Only s1 c x.cseq h_reg h_mem h_cmd h_core h_rtr h_cnv h_syn h_fab h_eth h_gov h_kpr h_irq h_tmr h_ptb h_out h_free h1 t ht
            exact OnlyChanges.cmd_upd _ h_cmd ht
          · exact hw
@[simp] theorem State.enqueue_Only {L : List Part} {a : State} (s : State) (c : Instr) (h_reg : Part.reg ∈ L) (h_cmd : Part.cmd ∈ L) (h_eth : Part.eth ∈ L) (h_gov : Part.gov ∈ L) (h_irq : Part.irq ∈ L) (h_out : Part.out ∈ L) (hf : OnlyChanges L a s) :
    OnlyChanges L a (State.enqueue s c) := by
  unfold State.enqueue; (repeat' split) <;> simp (maxDischargeDepth := 40) +contextual [*]
@[simp] theorem State.fences_Only {L : List Part} {a : State} (s : State) (h_reg : Part.reg ∈ L) (h_cmd : Part.cmd ∈ L) (h_eth : Part.eth ∈ L) (h_irq : Part.irq ∈ L) (h_out : Part.out ∈ L) (hf : OnlyChanges L a s) :
    OnlyChanges L a (State.fences s) := by
  unfold State.fences; simp (maxDischargeDepth := 40) +contextual [*]
@[simp] theorem State.issueHeld_Only {L : List Part} {a : State} (s : State) (n : Nat) (h_reg : Part.reg ∈ L) (h_mem : Part.mem ∈ L) (h_cmd : Part.cmd ∈ L) (h_core : Part.core ∈ L) (h_rtr : Part.rtr ∈ L) (h_cnv : Part.cnv ∈ L) (h_syn : Part.syn ∈ L) (h_fab : Part.fab ∈ L) (h_eth : Part.eth ∈ L) (h_gov : Part.gov ∈ L) (h_kpr : Part.kpr ∈ L) (h_irq : Part.irq ∈ L) (h_tmr : Part.tmr ∈ L) (h_ptb : Part.ptb ∈ L) (h_out : Part.out ∈ L) (h_free : Part.free ∈ L) (hf : OnlyChanges L a s) :
    OptOnly L a (State.issueHeld s n) := by
  unfold State.issueHeld; simp only []; (repeat' (first | exact hf | (refine OnlyChanges.forAll ?_ _ ?_; intro s x h) | split)) <;> simp_all (maxDischargeDepth := 40) +contextual
@[simp] theorem State.engineTurn_Only {L : List Part} {a : State} (s : State) (h_reg : Part.reg ∈ L) (h_mem : Part.mem ∈ L) (h_cmd : Part.cmd ∈ L) (h_core : Part.core ∈ L) (h_rtr : Part.rtr ∈ L) (h_cnv : Part.cnv ∈ L) (h_syn : Part.syn ∈ L) (h_fab : Part.fab ∈ L) (h_eth : Part.eth ∈ L) (h_gov : Part.gov ∈ L) (h_kpr : Part.kpr ∈ L) (h_irq : Part.irq ∈ L) (h_tmr : Part.tmr ∈ L) (h_ptb : Part.ptb ∈ L) (h_out : Part.out ∈ L) (h_free : Part.free ∈ L) (hf : OnlyChanges L a s) :
    OnlyChanges L a (State.engineTurn s) := by
  unfold State.engineTurn
  extract_lets u l
  have hu : OnlyChanges L a u := by simp (maxDischargeDepth := 40) [u, *]
  split
  · exact hu
  · rename_i n t h
    have h2 := List.exists_of_findSome?_eq_some h
    rcases h2 with ⟨j, hj, hi⟩
    have hS : OptOnly L a (u.issueHeld j) := by simp (maxDischargeDepth := 40) [hu, *]
    revert hi
    cases ho : u.issueHeld j with
    | none => intro hi; cases hi
    | some v =>
      intro hi
      cases hi
      exact OnlyChanges.cmd_upd _ h_cmd (hS _ ho)
@[simp] theorem State.engineTurns_Only {L : List Part} {a : State} (n : Nat) (s : State) (h_reg : Part.reg ∈ L) (h_mem : Part.mem ∈ L) (h_cmd : Part.cmd ∈ L) (h_core : Part.core ∈ L) (h_rtr : Part.rtr ∈ L) (h_cnv : Part.cnv ∈ L) (h_syn : Part.syn ∈ L) (h_fab : Part.fab ∈ L) (h_eth : Part.eth ∈ L) (h_gov : Part.gov ∈ L) (h_kpr : Part.kpr ∈ L) (h_irq : Part.irq ∈ L) (h_tmr : Part.tmr ∈ L) (h_ptb : Part.ptb ∈ L) (h_out : Part.out ∈ L) (h_free : Part.free ∈ L) (hf : OnlyChanges L a s) :
    OnlyChanges L a (State.engineTurns n s) := by
  induction n generalizing s with
  | zero => exact hf
  | succ n ih => exact ih _ (State.engineTurn_Only _ h_reg h_mem h_cmd h_core h_rtr h_cnv h_syn h_fab h_eth h_gov h_kpr h_irq h_tmr h_ptb h_out h_free hf)

end Sys2Proof.Machine
end

