-- ==== Sys2Proof/Laws/Only/Timers.lean ====
section
/-! SUPPORT. Laws/Only/Timers.lean: what each operation of Machine/Timers.lean can do to the tables (its units). -/

namespace Sys2Proof.Machine

@[simp] theorem State.maybeWithdraw_Only {L : List Part} {a : State} (s : State) (n : Nat) (h_irq : Part.irq ∈ L) (hf : OnlyChanges L a s) :
    OnlyChanges L a (State.maybeWithdraw s n) := by
  unfold State.maybeWithdraw; simp (maxDischargeDepth := 40) +contextual [*]
@[simp] theorem State.setClaimSlot_Only {L : List Part} {a : State} (s : State) (p : BitVec 1) (v : BitVec 9) (h_irq : Part.irq ∈ L) (hf : OnlyChanges L a s) :
    OnlyChanges L a (State.setClaimSlot s p v) := by
  unfold State.setClaimSlot; simp (maxDischargeDepth := 40) +contextual [*]
@[simp] theorem State.keeperReply_Only {L : List Part} {a0 : State} (s : State) (a : Nat) (st : Byte) (h_out : Part.out ∈ L) (hf : OnlyChanges L a0 s) :
    OnlyChanges L a0 (State.keeperReply s a st) := by
  unfold State.keeperReply; simp (maxDischargeDepth := 40) +contextual [*]
@[simp] theorem State.irqClaim_Only {L : List Part} {a : State} (s : State) (p : BitVec 1) (n : BitVec 9) (h_irq : Part.irq ∈ L) (hf : OnlyChanges L a s) :
    OnlyChanges L a (State.irqClaim s p n).1 := by
  unfold State.irqClaim; simp (maxDischargeDepth := 40) +contextual [*]
theorem State.irqClaim_Only' {L : List Part} {a : State} (s : State) (p : BitVec 1) (n : BitVec 9) (h_irq : Part.irq ∈ L) (hf : OnlyChanges L a s) {t0 : State} {y0 : Byte}
    (ht : State.irqClaim s p n = (t0, y0)) : OnlyChanges L a t0 := by
  have h0 := State.irqClaim_Only (L := L) s p n h_irq hf; rw [ht] at h0; exact h0
@[simp] theorem State.irqDone_Only {L : List Part} {a : State} (s : State) (p : BitVec 1) (n : BitVec 9) (h_irq : Part.irq ∈ L) (hf : OnlyChanges L a s) :
    OnlyChanges L a (State.irqDone s p n).1 := by
  unfold State.irqDone; simp (maxDischargeDepth := 40) +contextual [*]
theorem State.irqDone_Only' {L : List Part} {a : State} (s : State) (p : BitVec 1) (n : BitVec 9) (h_irq : Part.irq ∈ L) (hf : OnlyChanges L a s) {t0 : State} {y0 : Byte}
    (ht : State.irqDone s p n = (t0, y0)) : OnlyChanges L a t0 := by
  have h0 := State.irqDone_Only (L := L) s p n h_irq hf; rw [ht] at h0; exact h0
@[simp] theorem State.setEnables_Only {L : List Part} {a : State} (s : State) (en : BitVec 512) (h_eth : Part.eth ∈ L) (h_irq : Part.irq ∈ L) (h_out : Part.out ∈ L) (hf : OnlyChanges L a s) :
    OnlyChanges L a (State.setEnables s en) := by
  unfold State.setEnables; simp (maxDischargeDepth := 40) +contextual [*]
@[simp] theorem State.enableAll_Only {L : List Part} {a : State} (s : State) (h_eth : Part.eth ∈ L) (h_irq : Part.irq ∈ L) (h_out : Part.out ∈ L) (hf : OnlyChanges L a s) :
    OnlyChanges L a (State.enableAll s) := by
  unfold State.enableAll; simp (maxDischargeDepth := 40) +contextual [*]
@[simp] theorem State.tbStep_Only {L : List Part} {a : State} (s : State) (ns : Nat) (h_reg : Part.reg ∈ L) (h_tmr : Part.tmr ∈ L) (hf : OnlyChanges L a s) :
    OnlyChanges L a (State.tbStep s ns).1 := by
  unfold State.tbStep; simp (maxDischargeDepth := 40) +contextual [*]
theorem State.tbStep_Only' {L : List Part} {a : State} (s : State) (ns : Nat) (h_reg : Part.reg ∈ L) (h_tmr : Part.tmr ∈ L) (hf : OnlyChanges L a s) {t0 : State} {y0 : Byte}
    (ht : State.tbStep s ns = (t0, y0)) : OnlyChanges L a t0 := by
  have h0 := State.tbStep_Only (L := L) s ns h_reg h_tmr hf; rw [ht] at h0; exact h0
@[simp] theorem State.tbTick_Only {L : List Part} {a : State} (s : State) (h_tmr : Part.tmr ∈ L) (hf : OnlyChanges L a s) :
    OnlyChanges L a (State.tbTick s) := by
  unfold State.tbTick; simp (maxDischargeDepth := 40) +contextual [*]
@[simp] theorem State.asLock_Only {L : List Part} {a : State} (s : State) (p : Nat) (b : Bool) (h_reg : Part.reg ∈ L) (hf : OnlyChanges L a s) :
    OnlyChanges L a (State.asLock s p b) := by
  unfold State.asLock; simp (maxDischargeDepth := 40) +contextual [*]
@[simp] theorem State.holdover_Only {L : List Part} {a : State} (s : State) (p : Nat) (h_reg : Part.reg ∈ L) (h_eth : Part.eth ∈ L) (h_irq : Part.irq ∈ L) (h_out : Part.out ∈ L) (hf : OnlyChanges L a s) :
    OnlyChanges L a (State.holdover s p) := by
  unfold State.holdover; simp (maxDischargeDepth := 40) +contextual [*]
@[simp] theorem State.fabricTimeLost_Only {L : List Part} {a : State} (s : State) (h_reg : Part.reg ∈ L) (hf : OnlyChanges L a s) :
    OnlyChanges L a (State.fabricTimeLost s) := by
  unfold State.fabricTimeLost; simp (maxDischargeDepth := 40) +contextual [*]
@[simp] theorem State.syncReturn_Only {L : List Part} {a : State} (s : State) (src : Nat) (rate : Word) (h_reg : Part.reg ∈ L) (hf : OnlyChanges L a s) :
    OnlyChanges L a (State.syncReturn s src rate) := by
  unfold State.syncReturn; simp (maxDischargeDepth := 40) +contextual [*]
@[simp] theorem State.timeSync_Only {L : List Part} {a : State} (s : State) (src : Nat) (offset : Word64) (rate : Word) (h_reg : Part.reg ∈ L) (h_tmr : Part.tmr ∈ L) (hf : OnlyChanges L a s) :
    OnlyChanges L a (State.timeSync s src offset rate) := by
  unfold State.timeSync; simp (maxDischargeDepth := 40) +contextual [*]
@[simp] theorem State.timerFlag_Only {L : List Part} {a : State} (s : State) (n bit : Nat) (h_reg : Part.reg ∈ L) (h_eth : Part.eth ∈ L) (h_irq : Part.irq ∈ L) (h_out : Part.out ∈ L) (hf : OnlyChanges L a s) :
    OnlyChanges L a (State.timerFlag s n bit) := by
  unfold State.timerFlag; simp (maxDischargeDepth := 40) +contextual [*]
@[simp] theorem State.loadPreloads_Only {L : List Part} {a : State} (s : State) (n : Nat) (h_reg : Part.reg ∈ L) (h_tmr : Part.tmr ∈ L) (hf : OnlyChanges L a s) :
    OnlyChanges L a (State.loadPreloads s n) := by
  unfold State.loadPreloads; simp (maxDischargeDepth := 40) +contextual [*]
@[simp] theorem State.timerTick_Only {L : List Part} {a : State} (s : State) (n : Nat) (h_reg : Part.reg ∈ L) (h_eth : Part.eth ∈ L) (h_irq : Part.irq ∈ L) (h_tmr : Part.tmr ∈ L) (h_out : Part.out ∈ L) (hf : OnlyChanges L a s) :
    OnlyChanges L a (State.timerTick s n) := by
  unfold State.timerTick; simp (maxDischargeDepth := 40) +contextual [*]
@[simp] theorem State.timerWrap_Only {L : List Part} {a : State} (s : State) (n : Nat) (h_reg : Part.reg ∈ L) (h_eth : Part.eth ∈ L) (h_irq : Part.irq ∈ L) (h_tmr : Part.tmr ∈ L) (h_out : Part.out ∈ L) (hf : OnlyChanges L a s) :
    OnlyChanges L a (State.timerWrap s n) := by
  unfold State.timerWrap; simp (maxDischargeDepth := 40) +contextual [*]
@[simp] theorem State.timerMatch_Only {L : List Part} {a : State} (s : State) (n k : Nat) (h_reg : Part.reg ∈ L) (h_eth : Part.eth ∈ L) (h_irq : Part.irq ∈ L) (h_tmr : Part.tmr ∈ L) (h_out : Part.out ∈ L) (hf : OnlyChanges L a s) :
    OnlyChanges L a (State.timerMatch s n k) := by
  unfold State.timerMatch; simp (maxDischargeDepth := 40) +contextual [*]
@[simp] theorem State.timerClock_Only {L : List Part} {a : State} (s : State) (n : Nat) (h_reg : Part.reg ∈ L) (h_eth : Part.eth ∈ L) (h_irq : Part.irq ∈ L) (h_tmr : Part.tmr ∈ L) (h_out : Part.out ∈ L) (hf : OnlyChanges L a s) :
    OnlyChanges L a (State.timerClock s n) := by
  unfold State.timerClock; simp (maxDischargeDepth := 40) +contextual [*]
@[simp] theorem State.timerStart_Only {L : List Part} {a : State} (s : State) (n : Nat) (h_reg : Part.reg ∈ L) (h_tmr : Part.tmr ∈ L) (hf : OnlyChanges L a s) :
    OnlyChanges L a (State.timerStart s n) := by
  unfold State.timerStart; simp (maxDischargeDepth := 40) +contextual [*]
@[simp] theorem State.timerStop_Only {L : List Part} {a : State} (s : State) (n : Nat) (h_reg : Part.reg ∈ L) (hf : OnlyChanges L a s) :
    OnlyChanges L a (State.timerStop s n) := by
  unfold State.timerStop; simp (maxDischargeDepth := 40) +contextual [*]
@[simp] theorem State.timerGroup_Only {L : List Part} {a : State} (s : State) (m : Word) (f : State → Nat → State)
    (ho : ∀ s n, OnlyChanges L a s → OnlyChanges L a (f s n)) (hf : OnlyChanges L a s) : OnlyChanges L a (s.timerGroup m f).1 := by
  unfold State.timerGroup; split
  · exact hf
  · exact OnlyChanges.forAll ho _ hf
@[simp] theorem State.timerValue_Only {L : List Part} {a : State} (s : State) (n which : Nat) (v : Word) (h_reg : Part.reg ∈ L) (h_tmr : Part.tmr ∈ L) (hf : OnlyChanges L a s) :
    OnlyChanges L a (State.timerValue s n which v).1 := by
  unfold State.timerValue; simp (maxDischargeDepth := 40) +contextual [*]
theorem State.timerValue_Only' {L : List Part} {a : State} (s : State) (n which : Nat) (v : Word) (h_reg : Part.reg ∈ L) (h_tmr : Part.tmr ∈ L) (hf : OnlyChanges L a s) {t0 : State} {y0 : Byte}
    (ht : State.timerValue s n which v = (t0, y0)) : OnlyChanges L a t0 := by
  have h0 := State.timerValue_Only (L := L) s n which v h_reg h_tmr hf; rw [ht] at h0; exact h0
@[simp] theorem State.timerCount_Only {L : List Part} {a : State} (s : State) (n : Nat) (v : Word) (h_reg : Part.reg ∈ L) (hf : OnlyChanges L a s) :
    OnlyChanges L a (State.timerCount s n v).1 := by
  unfold State.timerCount; simp (maxDischargeDepth := 40) +contextual [*]
theorem State.timerCount_Only' {L : List Part} {a : State} (s : State) (n : Nat) (v : Word) (h_reg : Part.reg ∈ L) (hf : OnlyChanges L a s) {t0 : State} {y0 : Byte}
    (ht : State.timerCount s n v = (t0, y0)) : OnlyChanges L a t0 := by
  have h0 := State.timerCount_Only (L := L) s n v h_reg hf; rw [ht] at h0; exact h0
@[simp] theorem State.timerCtrl_Only {L : List Part} {a : State} (s : State) (n : Nat) (v : Word) (h_reg : Part.reg ∈ L) (h_tmr : Part.tmr ∈ L) (hf : OnlyChanges L a s) :
    OnlyChanges L a (State.timerCtrl s n v).1 := by
  unfold State.timerCtrl; simp (maxDischargeDepth := 40) +contextual [*]
theorem State.timerCtrl_Only' {L : List Part} {a : State} (s : State) (n : Nat) (v : Word) (h_reg : Part.reg ∈ L) (h_tmr : Part.tmr ∈ L) (hf : OnlyChanges L a s) {t0 : State} {y0 : Byte}
    (ht : State.timerCtrl s n v = (t0, y0)) : OnlyChanges L a t0 := by
  have h0 := State.timerCtrl_Only (L := L) s n v h_reg h_tmr hf; rw [ht] at h0; exact h0
@[simp] theorem State.timerWrite_Only {L : List Part} {a : State} (s : State) (n which : Nat) (v : Word) (h_reg : Part.reg ∈ L) (h_tmr : Part.tmr ∈ L) (hf : OnlyChanges L a s) :
    OnlyChanges L a (State.timerWrite s n which v).1 := by
  unfold State.timerWrite; simp (maxDischargeDepth := 40) +contextual [*]
theorem State.timerWrite_Only' {L : List Part} {a : State} (s : State) (n which : Nat) (v : Word) (h_reg : Part.reg ∈ L) (h_tmr : Part.tmr ∈ L) (hf : OnlyChanges L a s) {t0 : State} {y0 : Byte}
    (ht : State.timerWrite s n which v = (t0, y0)) : OnlyChanges L a t0 := by
  have h0 := State.timerWrite_Only (L := L) s n which v h_reg h_tmr hf; rw [ht] at h0; exact h0
@[simp] theorem replied_Only {L : List Part} {a : State} (n : Nat) (x : State × Byte) (h_reg : Part.reg ∈ L) (h_fab : Part.fab ∈ L) (h_eth : Part.eth ∈ L) (h_gov : Part.gov ∈ L) (h_irq : Part.irq ∈ L) (h_ptb : Part.ptb ∈ L) (h_out : Part.out ∈ L) (h_free : Part.free ∈ L) (hf : OnlyChanges L a x.1) :
    OnlyChanges L a (replied n x) := by
  unfold replied; simp (maxDischargeDepth := 40) +contextual [*]
@[simp] theorem kept_Only {L : List Part} {a : State} (n : Nat) (x : State × Byte) (h_out : Part.out ∈ L) (hf : OnlyChanges L a x.1) :
    OnlyChanges L a (kept n x) := by
  unfold kept; simp (maxDischargeDepth := 40) +contextual [*]

end Sys2Proof.Machine
end

