-- ==== Sys2Proof/Laws/Only/Paths.lean ====
section
/-! SUPPORT. Laws/Only/Paths.lean: what each operation of Machine/Paths.lean can do to the tables (its units). -/

namespace Sys2Proof.Machine

@[simp] theorem State.setPaths_Only {L : List Part} {a : State} (s : State) (h_reg : Part.reg ∈ L) (h_sys : Part.sys ∈ L) (hf : OnlyChanges L a s) :
    OnlyChanges L a (State.setPaths s) := by
  unfold State.setPaths; simp (maxDischargeDepth := 40) +contextual [*]

end Sys2Proof.Machine
end

