-- ==== Sys2Proof/Laws/Only/Fabric.lean ====
section
/-! SUPPORT. Laws/Only/Fabric.lean: what each operation of Machine/Fabric.lean can do to the tables (its units). -/

namespace Sys2Proof.Machine

@[simp] theorem State.ownPath_Only {L : List Part} {a : State} (s : State) (p : FabPkt) (h_reg : Part.reg ∈ L) (h_fab : Part.fab ∈ L) (h_eth : Part.eth ∈ L) (h_gov : Part.gov ∈ L) (h_irq : Part.irq ∈ L) (h_ptb : Part.ptb ∈ L) (h_out : Part.out ∈ L) (hf : OnlyChanges L a s) :
    OnlyChanges L a (State.ownPath s p) := by
  unfold State.ownPath; (repeat' split) <;> simp (maxDischargeDepth := 40) +contextual [*]
@[simp] theorem State.forward_Only {L : List Part} {a : State} (s : State) (p : FabPkt) (h_reg : Part.reg ∈ L) (h_fab : Part.fab ∈ L) (h_eth : Part.eth ∈ L) (h_gov : Part.gov ∈ L) (h_irq : Part.irq ∈ L) (h_ptb : Part.ptb ∈ L) (h_out : Part.out ∈ L) (hf : OnlyChanges L a s) :
    OnlyChanges L a (State.forward s p) := by
  unfold State.forward; simp (maxDischargeDepth := 40) +contextual [*]
@[simp] theorem State.e2eAck_Only {L : List Part} {a : State} (s : State) (d v : Nat) (h_reg : Part.reg ∈ L) (h_fab : Part.fab ∈ L) (h_eth : Part.eth ∈ L) (h_gov : Part.gov ∈ L) (h_irq : Part.irq ∈ L) (h_ptb : Part.ptb ∈ L) (h_out : Part.out ∈ L) (h_free : Part.free ∈ L) (hf : OnlyChanges L a s) :
    OnlyChanges L a (State.e2eAck s d v) := by
  unfold State.e2eAck; simp (maxDischargeDepth := 40) +contextual [*]
@[simp] theorem State.payCredits_Only {L : List Part} {a : State} (s : State) (h_reg : Part.reg ∈ L) (h_fab : Part.fab ∈ L) (h_gov : Part.gov ∈ L) (h_ptb : Part.ptb ∈ L) (h_out : Part.out ∈ L) (hf : OnlyChanges L a s) :
    OnlyChanges L a (State.payCredits s) := by
  unfold State.payCredits; simp (maxDischargeDepth := 40) +contextual [*]
@[simp] theorem State.handOver_Only {L : List Part} {a : State} (s : State) (p : FabPkt) (h_eth : Part.eth ∈ L) (h_out : Part.out ∈ L) (hf : OnlyChanges L a s) :
    OnlyChanges L a (State.handOver s p) := by
  unfold State.handOver; simp (maxDischargeDepth := 40) +contextual [*]
@[simp] theorem State.e2eReceive_Only {L : List Part} {a : State} (s : State) (p : FabPkt) (h_reg : Part.reg ∈ L) (h_fab : Part.fab ∈ L) (h_eth : Part.eth ∈ L) (h_gov : Part.gov ∈ L) (h_irq : Part.irq ∈ L) (h_ptb : Part.ptb ∈ L) (h_out : Part.out ∈ L) (h_free : Part.free ∈ L) (hf : OnlyChanges L a s) :
    OnlyChanges L a (State.e2eReceive s p) := by
  unfold State.e2eReceive; simp (maxDischargeDepth := 40) +contextual [*]
@[simp] theorem State.drainRetain_Only {L : List Part} {a : State} (n : Nat) (s : State) (d v : Nat) (h_reg : Part.reg ∈ L) (h_fab : Part.fab ∈ L) (h_eth : Part.eth ∈ L) (h_gov : Part.gov ∈ L) (h_irq : Part.irq ∈ L) (h_ptb : Part.ptb ∈ L) (h_out : Part.out ∈ L) (hf : OnlyChanges L a s) :
    OnlyChanges L a (State.drainRetain n s d v) := by
  induction n generalizing s with
  | zero => exact hf
  | succ n ih =>
    simp only [State.drainRetain]
    split
    · exact hf
    · split
      · exact ih _ (by simp (maxDischargeDepth := 40) +contextual [*])
      · exact hf
@[simp] theorem State.e2eAcked_Only {L : List Part} {a : State} (s : State) (d v : Nat) (low : BitVec 16) (h_reg : Part.reg ∈ L) (h_cmd : Part.cmd ∈ L) (h_syn : Part.syn ∈ L) (h_fab : Part.fab ∈ L) (h_eth : Part.eth ∈ L) (h_gov : Part.gov ∈ L) (h_irq : Part.irq ∈ L) (h_ptb : Part.ptb ∈ L) (h_out : Part.out ∈ L) (h_free : Part.free ∈ L) (hf : OnlyChanges L a s) :
    OnlyChanges L a (State.e2eAcked s d v low) := by
  unfold State.e2eAcked; simp (maxDischargeDepth := 40) +contextual [*]
@[simp] theorem State.e2eTimer_Only {L : List Part} {a : State} (s : State) (d v : Nat) (h_reg : Part.reg ∈ L) (h_fab : Part.fab ∈ L) (h_eth : Part.eth ∈ L) (h_gov : Part.gov ∈ L) (h_irq : Part.irq ∈ L) (h_ptb : Part.ptb ∈ L) (h_out : Part.out ∈ L) (h_free : Part.free ∈ L) (hf : OnlyChanges L a s) :
    OnlyChanges L a (State.e2eTimer s d v) := by
  unfold State.e2eTimer; simp (maxDischargeDepth := 40) +contextual [*]
@[simp] theorem State.flowDone_Only {L : List Part} {a : State} (s : State) (c : Nat) (st : Byte) (h_reg : Part.reg ∈ L) (h_cmd : Part.cmd ∈ L) (h_fab : Part.fab ∈ L) (h_eth : Part.eth ∈ L) (h_gov : Part.gov ∈ L) (h_irq : Part.irq ∈ L) (h_ptb : Part.ptb ∈ L) (h_out : Part.out ∈ L) (h_free : Part.free ∈ L) (hf : OnlyChanges L a s) :
    OnlyChanges L a (State.flowDone s c st) := by
  unfold State.flowDone; simp only []; (repeat' (first | exact hf | (refine OnlyChanges.forAll ?_ _ ?_; intro s x h) | split)) <;> simp_all (maxDischargeDepth := 40) +contextual
@[simp] theorem State.chunkAcked_Only {L : List Part} {a : State} (s : State) (c : Nat) (chunk : BitVec 18) (h_reg : Part.reg ∈ L) (h_cmd : Part.cmd ∈ L) (h_fab : Part.fab ∈ L) (h_eth : Part.eth ∈ L) (h_gov : Part.gov ∈ L) (h_irq : Part.irq ∈ L) (h_ptb : Part.ptb ∈ L) (h_out : Part.out ∈ L) (h_free : Part.free ∈ L) (hf : OnlyChanges L a s) :
    OnlyChanges L a (State.chunkAcked s c chunk) := by
  unfold State.chunkAcked; simp only []; (repeat' (first | exact hf | (refine OnlyChanges.forAll ?_ _ ?_; intro s x h) | split)) <;> simp_all (maxDischargeDepth := 40) +contextual
@[simp] theorem State.chunkReceive_Only {L : List Part} {a : State} (s : State) (src c : Nat) (flow : Word64) (chunk : BitVec 18) (dst : Word64) (data : List Byte) (h_reg : Part.reg ∈ L) (h_mem : Part.mem ∈ L) (h_cmd : Part.cmd ∈ L) (h_cnv : Part.cnv ∈ L) (h_fab : Part.fab ∈ L) (h_eth : Part.eth ∈ L) (h_gov : Part.gov ∈ L) (h_irq : Part.irq ∈ L) (h_ptb : Part.ptb ∈ L) (h_out : Part.out ∈ L) (h_free : Part.free ∈ L) (hf : OnlyChanges L a s) :
    OnlyChanges L a (State.chunkReceive s src c flow chunk dst data) := by
  unfold State.chunkReceive; (try dsimp only); repeat' (first | exact hf | assumption | split | with_reducible apply State.setCirc_Only | with_reducible apply State.toDevice_Only | with_reducible apply State.writeMem_Only | with_reducible apply State.chunkAcked_Only | (with_reducible apply OnlyChanges.forAll; intros) | (with_reducible apply OnlyChanges.fold; intros) | (with_reducible apply OnlyChanges.fold1; intros) | simp only [OptOnly_none, OptOnly_some] | with_reducible apply OptOnly_getD | (simp [*]; done))
@[simp] theorem State.circuitArm_Only {L : List Part} {a : State} (s : State) (c : Nat) (h_reg : Part.reg ∈ L) (hf : OnlyChanges L a s) :
    OnlyChanges L a (State.circuitArm s c).1 := by
  unfold State.circuitArm; simp (maxDischargeDepth := 40) +contextual [*]
theorem State.circuitArm_Only' {L : List Part} {a : State} (s : State) (c : Nat) (h_reg : Part.reg ∈ L) (hf : OnlyChanges L a s) {t0 : State} {y0 : Byte}
    (ht : State.circuitArm s c = (t0, y0)) : OnlyChanges L a t0 := by
  have h0 := State.circuitArm_Only (L := L) s c h_reg hf; rw [ht] at h0; exact h0
@[simp] theorem State.againRead_Only {L : List Part} {a : State} (s : State) (c : Nat) (h_reg : Part.reg ∈ L) (h_eth : Part.eth ∈ L) (h_gov : Part.gov ∈ L) (h_irq : Part.irq ∈ L) (h_out : Part.out ∈ L) (hf : OnlyChanges L a s) :
    OnlyChanges L a (State.againRead s c) := by
  unfold State.againRead; (repeat' split) <;> simp (maxDischargeDepth := 40) +contextual [*]
@[simp] theorem State.tearDown_Only {L : List Part} {a : State} (s : State) (c : Nat) (h_reg : Part.reg ∈ L) (h_core : Part.core ∈ L) (h_fab : Part.fab ∈ L) (h_eth : Part.eth ∈ L) (h_gov : Part.gov ∈ L) (h_irq : Part.irq ∈ L) (h_ptb : Part.ptb ∈ L) (h_out : Part.out ∈ L) (h_free : Part.free ∈ L) (hf : OnlyChanges L a s) :
    OnlyChanges L a (State.tearDown s c) := by
  unfold State.tearDown; simp (maxDischargeDepth := 40) +contextual [*]
@[simp] theorem State.reroute_Only {L : List Part} {a : State} (s : State) (p : FabPkt) (h_reg : Part.reg ∈ L) (h_fab : Part.fab ∈ L) (h_eth : Part.eth ∈ L) (h_gov : Part.gov ∈ L) (h_irq : Part.irq ∈ L) (h_ptb : Part.ptb ∈ L) (h_out : Part.out ∈ L) (hf : OnlyChanges L a s) :
    OnlyChanges L a (State.reroute s p) := by
  unfold State.reroute; simp (maxDischargeDepth := 40) +contextual [*]
@[simp] theorem State.buffersGone_Only {L : List Part} {a : State} (s : State) (l : Nat) (h_fab : Part.fab ∈ L) (hf : OnlyChanges L a s) :
    OnlyChanges L a (State.buffersGone s l) := by
  unfold State.buffersGone; simp (maxDischargeDepth := 40) +contextual [*]
@[simp] theorem State.emptyLink_Only {L : List Part} {a : State} (s : State) (l : Nat) (h_reg : Part.reg ∈ L) (h_fab : Part.fab ∈ L) (h_eth : Part.eth ∈ L) (h_gov : Part.gov ∈ L) (h_irq : Part.irq ∈ L) (h_ptb : Part.ptb ∈ L) (h_out : Part.out ∈ L) (hf : OnlyChanges L a s) :
    OnlyChanges L a (State.emptyLink s l) := by
  unfold State.emptyLink; simp (maxDischargeDepth := 40) +contextual [*]
@[simp] theorem State.cutCircs_Only {L : List Part} {a : State} (s : State) (hops : List (Nat × Nat)) (h_reg : Part.reg ∈ L) (h_core : Part.core ∈ L) (h_fab : Part.fab ∈ L) (h_eth : Part.eth ∈ L) (h_gov : Part.gov ∈ L) (h_irq : Part.irq ∈ L) (h_ptb : Part.ptb ∈ L) (h_out : Part.out ∈ L) (h_free : Part.free ∈ L) (hf : OnlyChanges L a s) :
    OnlyChanges L a (State.cutCircs s hops) := by
  unfold State.cutCircs; simp (maxDischargeDepth := 40) +contextual [*]
@[simp] theorem State.linkFailed_Only {L : List Part} {a : State} (s : State) (l : Nat) (told : Bool) (h_reg : Part.reg ∈ L) (h_core : Part.core ∈ L) (h_fab : Part.fab ∈ L) (h_eth : Part.eth ∈ L) (h_gov : Part.gov ∈ L) (h_irq : Part.irq ∈ L) (h_ptb : Part.ptb ∈ L) (h_out : Part.out ∈ L) (h_free : Part.free ∈ L) (hf : OnlyChanges L a s) :
    OnlyChanges L a (State.linkFailed s l told) := by
  unfold State.linkFailed; simp (maxDischargeDepth := 40) +contextual [*]
@[simp] theorem State.farLinkFailed_Only {L : List Part} {a : State} (s : State) (dev l : Nat) (h_reg : Part.reg ∈ L) (h_core : Part.core ∈ L) (h_sys : Part.sys ∈ L) (h_fab : Part.fab ∈ L) (h_eth : Part.eth ∈ L) (h_gov : Part.gov ∈ L) (h_irq : Part.irq ∈ L) (h_ptb : Part.ptb ∈ L) (h_out : Part.out ∈ L) (h_free : Part.free ∈ L) (hf : OnlyChanges L a s) :
    OnlyChanges L a (State.farLinkFailed s dev l) := by
  unfold State.farLinkFailed; simp (maxDischargeDepth := 40) +contextual [*]
@[simp] theorem State.linkFailure_Only {L : List Part} {a : State} (s : State) (dev l : Nat) (h_reg : Part.reg ∈ L) (h_core : Part.core ∈ L) (h_sys : Part.sys ∈ L) (h_fab : Part.fab ∈ L) (h_eth : Part.eth ∈ L) (h_gov : Part.gov ∈ L) (h_irq : Part.irq ∈ L) (h_ptb : Part.ptb ∈ L) (h_out : Part.out ∈ L) (h_free : Part.free ∈ L) (hf : OnlyChanges L a s) :
    OnlyChanges L a (State.linkFailure s dev l) := by
  unfold State.linkFailure; simp (maxDischargeDepth := 40) +contextual [*]
@[simp] theorem State.replay_Only {L : List Part} {a : State} (s : State) (l : Nat) (h_reg : Part.reg ∈ L) (h_core : Part.core ∈ L) (h_fab : Part.fab ∈ L) (h_eth : Part.eth ∈ L) (h_gov : Part.gov ∈ L) (h_irq : Part.irq ∈ L) (h_ptb : Part.ptb ∈ L) (h_out : Part.out ∈ L) (h_free : Part.free ∈ L) (hf : OnlyChanges L a s) :
    OnlyChanges L a (State.replay s l) := by
  unfold State.replay; simp (maxDischargeDepth := 40) +contextual [*]
@[simp] theorem State.linkAcked_Only {L : List Part} {a : State} (s : State) (l : Nat) (lseq : BitVec 12) (h_reg : Part.reg ∈ L) (h_fab : Part.fab ∈ L) (h_gov : Part.gov ∈ L) (h_ptb : Part.ptb ∈ L) (h_out : Part.out ∈ L) (hf : OnlyChanges L a s) :
    OnlyChanges L a (State.linkAcked s l lseq) := by
  unfold State.linkAcked; simp (maxDischargeDepth := 40) +contextual [*]
@[simp] theorem State.linkCredit_Only {L : List Part} {a : State} (s : State) (l vc cls units : Nat) (h_reg : Part.reg ∈ L) (h_fab : Part.fab ∈ L) (h_gov : Part.gov ∈ L) (h_ptb : Part.ptb ∈ L) (h_out : Part.out ∈ L) (hf : OnlyChanges L a s) :
    OnlyChanges L a (State.linkCredit s l vc cls units) := by
  unfold State.linkCredit; simp (maxDischargeDepth := 40) +contextual [*]
@[simp] theorem State.linkNak_Only {L : List Part} {a : State} (s : State) (l : Nat) (h_reg : Part.reg ∈ L) (h_fab : Part.fab ∈ L) (h_out : Part.out ∈ L) (hf : OnlyChanges L a s) :
    OnlyChanges L a (State.linkNak s l) := by
  unfold State.linkNak; simp (maxDischargeDepth := 40) +contextual [*]
@[simp] theorem State.linkAckOut_Only {L : List Part} {a : State} (s : State) (l : Nat) (h_fab : Part.fab ∈ L) (h_out : Part.out ∈ L) (hf : OnlyChanges L a s) :
    OnlyChanges L a (State.linkAckOut s l) := by
  unfold State.linkAckOut; simp (maxDischargeDepth := 40) +contextual [*]
@[simp] theorem State.linkAckSend_Only {L : List Part} {a : State} (s : State) (l : Nat) (h_fab : Part.fab ∈ L) (h_out : Part.out ∈ L) (hf : OnlyChanges L a s) :
    OnlyChanges L a (State.linkAckSend s l) := by
  unfold State.linkAckSend; simp (maxDischargeDepth := 40) +contextual [*]
@[simp] theorem State.linkPacket_Only {L : List Part} {a : State} (s : State) (l : Nat) (p : FabPkt) (h_reg : Part.reg ∈ L) (h_fab : Part.fab ∈ L) (h_eth : Part.eth ∈ L) (h_gov : Part.gov ∈ L) (h_irq : Part.irq ∈ L) (h_ptb : Part.ptb ∈ L) (h_out : Part.out ∈ L) (h_free : Part.free ∈ L) (hf : OnlyChanges L a s) :
    OnlyChanges L a (State.linkPacket s l p) := by
  unfold State.linkPacket; simp (maxDischargeDepth := 40) +contextual [*]
@[simp] theorem State.fecCount_Only {L : List Part} {a : State} (s : State) (l corr unc : Nat) (h_reg : Part.reg ∈ L) (h_eth : Part.eth ∈ L) (h_irq : Part.irq ∈ L) (h_out : Part.out ∈ L) (hf : OnlyChanges L a s) :
    OnlyChanges L a (State.fecCount s l corr unc) := by
  unfold State.fecCount; simp (maxDischargeDepth := 40) +contextual [*]
@[simp] theorem State.linkReceive_Only {L : List Part} {a : State} (s : State) (l : Nat) (lseq : BitVec 12) (crcOk : Bool) (p : FabPkt) (h_reg : Part.reg ∈ L) (h_fab : Part.fab ∈ L) (h_eth : Part.eth ∈ L) (h_gov : Part.gov ∈ L) (h_irq : Part.irq ∈ L) (h_ptb : Part.ptb ∈ L) (h_out : Part.out ∈ L) (h_free : Part.free ∈ L) (hf : OnlyChanges L a s) :
    OnlyChanges L a (State.linkReceive s l lseq crcOk p) := by
  unfold State.linkReceive; simp (maxDischargeDepth := 40) +contextual [*]
@[simp] theorem State.resendAvoiding_Only {L : List Part} {a : State} (s : State) (dev : Nat) (p : FabPkt) (h_reg : Part.reg ∈ L) (h_fab : Part.fab ∈ L) (h_gov : Part.gov ∈ L) (h_ptb : Part.ptb ∈ L) (h_out : Part.out ∈ L) (hf : OnlyChanges L a s) :
    OnlyChanges L a (State.resendAvoiding s dev p) := by
  unfold State.resendAvoiding; simp only []; (repeat' (first | exact hf | (refine OnlyChanges.forAll ?_ _ ?_; intro s x h) | split)) <;> simp_all (maxDischargeDepth := 40) +contextual
@[simp] theorem State.bindingLost_Only {L : List Part} {a : State} (s : State) (b dev : Nat) (h_reg : Part.reg ∈ L) (h_mem : Part.mem ∈ L) (h_cmd : Part.cmd ∈ L) (h_core : Part.core ∈ L) (h_rtr : Part.rtr ∈ L) (h_cnv : Part.cnv ∈ L) (h_syn : Part.syn ∈ L) (h_fab : Part.fab ∈ L) (h_eth : Part.eth ∈ L) (h_gov : Part.gov ∈ L) (h_irq : Part.irq ∈ L) (h_ptb : Part.ptb ∈ L) (h_out : Part.out ∈ L) (h_free : Part.free ∈ L) (hf : OnlyChanges L a s) :
    OnlyChanges L a (State.bindingLost s b dev) := by
  unfold State.bindingLost; simp (maxDischargeDepth := 40) +contextual [*]
@[simp] theorem State.failFlows_Only {L : List Part} {a : State} (s : State) (c : Nat) (st : Byte) (h_reg : Part.reg ∈ L) (h_cmd : Part.cmd ∈ L) (h_fab : Part.fab ∈ L) (h_eth : Part.eth ∈ L) (h_irq : Part.irq ∈ L) (h_out : Part.out ∈ L) (hf : OnlyChanges L a s) :
    OnlyChanges L a (State.failFlows s c st) := by
  unfold State.failFlows; simp only []; (repeat' (first | exact hf | (refine OnlyChanges.forAll ?_ _ ?_; intro s x h) | split)) <;> simp_all (maxDischargeDepth := 40) +contextual
@[simp] theorem State.deviceLost_Only {L : List Part} {a : State} (s : State) (dev : Nat) (cause : BitVec 2) (h_reg : Part.reg ∈ L) (h_mem : Part.mem ∈ L) (h_cmd : Part.cmd ∈ L) (h_core : Part.core ∈ L) (h_rtr : Part.rtr ∈ L) (h_sys : Part.sys ∈ L) (h_cnv : Part.cnv ∈ L) (h_syn : Part.syn ∈ L) (h_fab : Part.fab ∈ L) (h_eth : Part.eth ∈ L) (h_gov : Part.gov ∈ L) (h_irq : Part.irq ∈ L) (h_ptb : Part.ptb ∈ L) (h_out : Part.out ∈ L) (h_free : Part.free ∈ L) (hf : OnlyChanges L a s) :
    OnlyChanges L a (State.deviceLost s dev cause) := by
  unfold State.deviceLost; simp (maxDischargeDepth := 40) +contextual [*]
@[simp] theorem State.retireReq_Only {L : List Part} {a : State} (s : State) (h_reg : Part.reg ∈ L) (h_sys : Part.sys ∈ L) (h_fab : Part.fab ∈ L) (h_eth : Part.eth ∈ L) (h_gov : Part.gov ∈ L) (h_irq : Part.irq ∈ L) (h_ptb : Part.ptb ∈ L) (h_out : Part.out ∈ L) (h_free : Part.free ∈ L) (hf : OnlyChanges L a s) :
    OnlyChanges L a (State.retireReq s).1 := by
  unfold State.retireReq; simp (maxDischargeDepth := 40) +contextual [*]
theorem State.retireReq_Only' {L : List Part} {a : State} (s : State) (h_reg : Part.reg ∈ L) (h_sys : Part.sys ∈ L) (h_fab : Part.fab ∈ L) (h_eth : Part.eth ∈ L) (h_gov : Part.gov ∈ L) (h_irq : Part.irq ∈ L) (h_ptb : Part.ptb ∈ L) (h_out : Part.out ∈ L) (h_free : Part.free ∈ L) (hf : OnlyChanges L a s) {t0 : State} {y0 : Byte}
    (ht : State.retireReq s = (t0, y0)) : OnlyChanges L a t0 := by
  have h0 := State.retireReq_Only (L := L) s h_reg h_sys h_fab h_eth h_gov h_irq h_ptb h_out h_free hf; rw [ht] at h0; exact h0
@[simp] theorem State.retireReady_Only {L : List Part} {a : State} (s : State) (from' : List Nat) (h_reg : Part.reg ∈ L) (h_sys : Part.sys ∈ L) (hf : OnlyChanges L a s) :
    OnlyChanges L a (State.retireReady s from') := by
  unfold State.retireReady; simp (maxDischargeDepth := 40) +contextual [*]
@[simp] theorem State.cmapSample_Only {L : List Part} {a : State} (s : State) (ports : List (List (Nat × Nat))) (h_reg : Part.reg ∈ L) (h_cmd : Part.cmd ∈ L) (h_fab : Part.fab ∈ L) (h_eth : Part.eth ∈ L) (h_gov : Part.gov ∈ L) (h_irq : Part.irq ∈ L) (h_tmr : Part.tmr ∈ L) (h_out : Part.out ∈ L) (hf : OnlyChanges L a s) :
    OnlyChanges L a (State.cmapSample s ports) := by
  unfold State.cmapSample; simp (maxDischargeDepth := 40) +contextual [*]
@[simp] theorem State.cmapKeep_Only {L : List Part} {a : State} (s : State) (h_reg : Part.reg ∈ L) (h_fab : Part.fab ∈ L) (hf : OnlyChanges L a s) :
    OnlyChanges L a (State.cmapKeep s) := by
  unfold State.cmapKeep; simp (maxDischargeDepth := 40) +contextual [*]

end Sys2Proof.Machine
end

