-- ==== Sys2Proof/Laws/Only/Recovery.lean ====
section
/-! SUPPORT. Laws/Only/Recovery.lean: what each operation of Machine/Recovery.lean can do to the tables (its units). -/

namespace Sys2Proof.Machine

@[simp] theorem State.admitFar_Only {L : List Part} {a : State} (s : State) (x : Nat × FarCirc) (h_reg : Part.reg ∈ L) (h_fab : Part.fab ∈ L) (h_eth : Part.eth ∈ L) (h_gov : Part.gov ∈ L) (h_irq : Part.irq ∈ L) (h_ptb : Part.ptb ∈ L) (h_out : Part.out ∈ L) (h_free : Part.free ∈ L) (hf : OnlyChanges L a s) :
    OnlyChanges L a (State.admitFar s x) := by
  unfold State.admitFar; simp (maxDischargeDepth := 40) +contextual [*]
@[simp] theorem State.admitCirc_Only {L : List Part} {a : State} (s : State) (no : List (Nat × Nat)) (c : Nat) (h_reg : Part.reg ∈ L) (hf : OnlyChanges L a s) :
    OnlyChanges L a (State.admitCirc s no c) := by
  unfold State.admitCirc; (repeat' split) <;> simp (maxDischargeDepth := 40) +contextual [*]
@[simp] theorem State.setPhys_Only {L : List Part} {a : State} (s : State) (slice : Bool) (p st cause logical : Nat) (h_reg : Part.reg ∈ L) (hf : OnlyChanges L a s) :
    OnlyChanges L a (State.setPhys s slice p st cause logical) := by
  unfold State.setPhys; simp (maxDischargeDepth := 40) +contextual [*]
@[simp] theorem State.setLmap_Only {L : List Part} {a : State} (s : State) (slice : Bool) (k st phys : Nat) (h_reg : Part.reg ∈ L) (hf : OnlyChanges L a s) :
    OnlyChanges L a (State.setLmap s slice k st phys) := by
  unfold State.setLmap; simp (maxDischargeDepth := 40) +contextual [*]
@[simp] theorem State.fieldRecord_Only {L : List Part} {a : State} (s : State) (r : FieldRec) (h_fuses : Part.fuses ∈ L) (h_reg : Part.reg ∈ L) (h_ltn : Part.ltn ∈ L) (hf : OnlyChanges L a s) :
    OnlyChanges L a (State.fieldRecord s r) := by
  unfold State.fieldRecord; simp (maxDischargeDepth := 40) +contextual [*]
@[simp] theorem State.lmapLoaded_Only {L : List Part} {a : State} (s : State) (h_reg : Part.reg ∈ L) (h_ltn : Part.ltn ∈ L) (hf : OnlyChanges L a s) :
    OnlyChanges L a (State.lmapLoaded s) := by
  unfold State.lmapLoaded; simp (maxDischargeDepth := 40) +contextual [*]
@[simp] theorem State.repairList_Only {L : List Part} {a : State} (s : State) (l : List (Nat × Nat)) (h_fuses : Part.fuses ∈ L) (h_reg : Part.reg ∈ L) (h_ltn : Part.ltn ∈ L) (hf : OnlyChanges L a s) :
    OnlyChanges L a (State.repairList s l) := by
  unfold State.repairList; simp (maxDischargeDepth := 40) +contextual [*]
@[simp] theorem State.repairRows_Only {L : List Part} {a : State} (s : State) (h_fuses : Part.fuses ∈ L) (h_reg : Part.reg ∈ L) (h_mem : Part.mem ∈ L) (h_ltn : Part.ltn ∈ L) (hf : OnlyChanges L a s) :
    OnlyChanges L a (State.repairRows s) := by
  unfold State.repairRows; simp (maxDischargeDepth := 40) +contextual [*]
@[simp] theorem State.quiesceAsk_Only {L : List Part} {a : State} (s : State) (h_reg : Part.reg ∈ L) (h_kpr : Part.kpr ∈ L) (hf : OnlyChanges L a s) :
    OnlyChanges L a (State.quiesceAsk s) := by
  unfold State.quiesceAsk; simp (maxDischargeDepth := 40) +contextual [*]
@[simp] theorem State.quiesceAck_Only {L : List Part} {a : State} (s : State) (p : Nat) (h_kpr : Part.kpr ∈ L) (hf : OnlyChanges L a s) :
    OnlyChanges L a (State.quiesceAck s p) := by
  unfold State.quiesceAck; simp (maxDischargeDepth := 40) +contextual [*]
@[simp] theorem State.bindingFailed_Only {L : List Part} {a : State} (s : State) (b : Nat) (st : Byte) (h_reg : Part.reg ∈ L) (h_cmd : Part.cmd ∈ L) (h_core : Part.core ∈ L) (h_fab : Part.fab ∈ L) (h_eth : Part.eth ∈ L) (h_gov : Part.gov ∈ L) (h_irq : Part.irq ∈ L) (h_ptb : Part.ptb ∈ L) (h_out : Part.out ∈ L) (h_free : Part.free ∈ L) (hf : OnlyChanges L a s) :
    OnlyChanges L a (State.bindingFailed s b st) := by
  unfold State.bindingFailed; simp (maxDischargeDepth := 40) +contextual [*]
@[simp] theorem State.bindingHalts_Only {L : List Part} {a : State} (s : State) (b : Nat) (st : Byte) (h_reg : Part.reg ∈ L) (h_cmd : Part.cmd ∈ L) (h_core : Part.core ∈ L) (h_fab : Part.fab ∈ L) (h_eth : Part.eth ∈ L) (h_gov : Part.gov ∈ L) (h_irq : Part.irq ∈ L) (h_ptb : Part.ptb ∈ L) (h_out : Part.out ∈ L) (h_free : Part.free ∈ L) (hf : OnlyChanges L a s) :
    OnlyChanges L a (State.bindingHalts s b st) := by
  unfold State.bindingHalts; (try dsimp only); repeat' (first | exact hf | assumption | split | with_reducible apply State.toDevices_Only | with_reducible apply State.bindingFailed_Only | (with_reducible apply OnlyChanges.forAll; intros) | (with_reducible apply OnlyChanges.fold; intros) | (with_reducible apply OnlyChanges.fold1; intros) | simp only [OptOnly_none, OptOnly_some] | with_reducible apply OptOnly_getD | (simp [*]; done))
@[simp] theorem State.farFailed_Only {L : List Part} {a : State} (s : State) (f : BitVec 6 × Byte) (h_reg : Part.reg ∈ L) (h_cmd : Part.cmd ∈ L) (h_core : Part.core ∈ L) (h_fab : Part.fab ∈ L) (h_eth : Part.eth ∈ L) (h_gov : Part.gov ∈ L) (h_irq : Part.irq ∈ L) (h_ptb : Part.ptb ∈ L) (h_out : Part.out ∈ L) (h_free : Part.free ∈ L) (hf : OnlyChanges L a s) :
    OnlyChanges L a (State.farFailed s f) := by
  unfold State.farFailed; simp (maxDischargeDepth := 40) +contextual [*]
@[simp] theorem State.coreStopped_Only {L : List Part} {a : State} (s : State) (k : Nat) (h_reg : Part.reg ∈ L) (h_core : Part.core ∈ L) (hf : OnlyChanges L a s) :
    OnlyChanges L a (State.coreStopped s k) := by
  unfold State.coreStopped; simp (maxDischargeDepth := 40) +contextual [*]
@[simp] theorem State.coreFailed_Only {L : List Part} {a : State} (s : State) (p cause : Nat) (h_reg : Part.reg ∈ L) (h_cmd : Part.cmd ∈ L) (h_core : Part.core ∈ L) (h_fab : Part.fab ∈ L) (h_eth : Part.eth ∈ L) (h_gov : Part.gov ∈ L) (h_kpr : Part.kpr ∈ L) (h_irq : Part.irq ∈ L) (h_ptb : Part.ptb ∈ L) (h_out : Part.out ∈ L) (h_free : Part.free ∈ L) (hf : OnlyChanges L a s) :
    OnlyChanges L a (State.coreFailed s p cause) := by
  unfold State.coreFailed; simp (maxDischargeDepth := 40) +contextual [*]
@[simp] theorem State.quiesceTimeout_Only {L : List Part} {a : State} (s : State) (p : Nat) (h_reg : Part.reg ∈ L) (h_cmd : Part.cmd ∈ L) (h_core : Part.core ∈ L) (h_fab : Part.fab ∈ L) (h_eth : Part.eth ∈ L) (h_gov : Part.gov ∈ L) (h_kpr : Part.kpr ∈ L) (h_irq : Part.irq ∈ L) (h_ptb : Part.ptb ∈ L) (h_out : Part.out ∈ L) (h_free : Part.free ∈ L) (hf : OnlyChanges L a s) :
    OnlyChanges L a (State.quiesceTimeout s p) := by
  unfold State.quiesceTimeout; simp (maxDischargeDepth := 40) +contextual [*]
@[simp] theorem State.sliceFailed_Only {L : List Part} {a : State} (s : State) (p cause : Nat) (readable : Bool) (banks : BitVec 4) (h_reg : Part.reg ∈ L) (h_cmd : Part.cmd ∈ L) (h_core : Part.core ∈ L) (h_fab : Part.fab ∈ L) (h_eth : Part.eth ∈ L) (h_gov : Part.gov ∈ L) (h_kpr : Part.kpr ∈ L) (h_irq : Part.irq ∈ L) (h_ptb : Part.ptb ∈ L) (h_out : Part.out ∈ L) (h_free : Part.free ∈ L) (hf : OnlyChanges L a s) :
    OnlyChanges L a (State.sliceFailed s p cause readable banks) := by
  unfold State.sliceFailed; simp only []; (repeat' (first | exact hf | (refine OnlyChanges.forAll ?_ _ ?_; intro s x h) | split)) <;> simp_all (maxDischargeDepth := 40) +contextual
@[simp] theorem State.restoreSnap_Only {L : List Part} {a : State} (s : State) (b : Nat) (x : Snap) (h_reg : Part.reg ∈ L) (h_mem : Part.mem ∈ L) (h_cmd : Part.cmd ∈ L) (h_core : Part.core ∈ L) (h_rtr : Part.rtr ∈ L) (h_cnv : Part.cnv ∈ L) (h_eth : Part.eth ∈ L) (h_gov : Part.gov ∈ L) (h_irq : Part.irq ∈ L) (h_out : Part.out ∈ L) (hf : OnlyChanges L a s) :
    OnlyChanges L a (State.restoreSnap s b x) := by
  unfold State.restoreSnap; simp (maxDischargeDepth := 40) +contextual [*]
@[simp] theorem State.ffRecord_Only {L : List Part} {a : State} (s : State) (far : List (Nat × Nat)) (kind b outcome phys spare logical : Nat) (h_reg : Part.reg ∈ L) (hf : OnlyChanges L a s) :
    OnlyChanges L a (State.ffRecord s far kind b outcome phys spare logical) := by
  unfold State.ffRecord; simp (maxDischargeDepth := 40) +contextual [*]
@[simp] theorem State.reloadShadow_Only {L : List Part} {a : State} (s : State) (k : Nat) (h_mem : Part.mem ∈ L) (hf : OnlyChanges L a s) :
    OnlyChanges L a (State.reloadShadow s k) := by
  unfold State.reloadShadow; simp (maxDischargeDepth := 40) +contextual [*]
@[simp] theorem State.markAbsent_Only {L : List Part} {a : State} (s : State) (n : Nat) (h_sys : Part.sys ∈ L) (hf : OnlyChanges L a s) :
    OnlyChanges L a (State.markAbsent s n) := by
  unfold State.markAbsent; simp (maxDischargeDepth := 40) +contextual [*]
@[simp] theorem State.serveCore_Only {L : List Part} {a : State} (s : State) (far : List (Nat × Nat)) (p cause k : Nat) (h_fuses : Part.fuses ∈ L) (h_reg : Part.reg ∈ L) (h_mem : Part.mem ∈ L) (h_core : Part.core ∈ L) (h_rtr : Part.rtr ∈ L) (h_sys : Part.sys ∈ L) (h_ltn : Part.ltn ∈ L) (h_out : Part.out ∈ L) (hf : OnlyChanges L a s) :
    OnlyChanges L a (State.serveCore s far p cause k) := by
  unfold State.serveCore; (repeat' split) <;> simp (maxDischargeDepth := 40) +contextual [*]
@[simp] theorem State.serveSlice_Only {L : List Part} {a : State} (s : State) (far : List (Nat × Nat)) (p cause : Nat) (readable : Bool) (banks : BitVec 4) (k : Nat) (h_fuses : Part.fuses ∈ L) (h_reg : Part.reg ∈ L) (h_mem : Part.mem ∈ L) (h_ltn : Part.ltn ∈ L) (hf : OnlyChanges L a s) :
    OnlyChanges L a (State.serveSlice s far p cause readable banks k) := by
  unfold State.serveSlice; (repeat' split) <;> simp (maxDischargeDepth := 40) +contextual [*]
@[simp] theorem State.linkOut_Only {L : List Part} {a : State} (s : State) (l st : Nat) (h_reg : Part.reg ∈ L) (h_core : Part.core ∈ L) (h_fab : Part.fab ∈ L) (h_eth : Part.eth ∈ L) (h_gov : Part.gov ∈ L) (h_irq : Part.irq ∈ L) (h_ptb : Part.ptb ∈ L) (h_out : Part.out ∈ L) (h_free : Part.free ∈ L) (hf : OnlyChanges L a s) :
    OnlyChanges L a (State.linkOut s l st) := by
  unfold State.linkOut; simp (maxDischargeDepth := 40) +contextual [*]
@[simp] theorem State.linkQuiesce_Only {L : List Part} {a : State} (s : State) (l : Nat) (h_reg : Part.reg ∈ L) (h_core : Part.core ∈ L) (h_fab : Part.fab ∈ L) (h_eth : Part.eth ∈ L) (h_gov : Part.gov ∈ L) (h_irq : Part.irq ∈ L) (h_ptb : Part.ptb ∈ L) (h_out : Part.out ∈ L) (h_free : Part.free ∈ L) (hf : OnlyChanges L a s) :
    OnlyChanges L a (State.linkQuiesce s l) := by
  unfold State.linkQuiesce; simp (maxDischargeDepth := 40) +contextual [*]
@[simp] theorem State.linkRetire_Only {L : List Part} {a : State} (s : State) (dev : Nat) (h_reg : Part.reg ∈ L) (h_core : Part.core ∈ L) (h_sys : Part.sys ∈ L) (h_fab : Part.fab ∈ L) (h_eth : Part.eth ∈ L) (h_gov : Part.gov ∈ L) (h_irq : Part.irq ∈ L) (h_ptb : Part.ptb ∈ L) (h_out : Part.out ∈ L) (h_free : Part.free ∈ L) (hf : OnlyChanges L a s) :
    OnlyChanges L a (State.linkRetire s dev) := by
  unfold State.linkRetire; simp (maxDischargeDepth := 40) +contextual [*]
@[simp] theorem State.failSpent_Only {L : List Part} {a : State} (s : State) (h_reg : Part.reg ∈ L) (h_cmd : Part.cmd ∈ L) (h_core : Part.core ∈ L) (h_fab : Part.fab ∈ L) (h_eth : Part.eth ∈ L) (h_gov : Part.gov ∈ L) (h_kpr : Part.kpr ∈ L) (h_irq : Part.irq ∈ L) (h_ptb : Part.ptb ∈ L) (h_out : Part.out ∈ L) (h_free : Part.free ∈ L) (hf : OnlyChanges L a s) :
    OnlyChanges L a (State.failSpent s) := by
  unfold State.failSpent; simp (maxDischargeDepth := 40) +contextual [*]
@[simp] theorem State.takeNews_Only {L : List Part} {a : State} (s : State) (widths : List (Nat × Nat × Nat)) (freed : List Nat) (h_sys : Part.sys ∈ L) (h_fab : Part.fab ∈ L) (hf : OnlyChanges L a s) :
    OnlyChanges L a (State.takeNews s widths freed) := by
  unfold State.takeNews
  exact OnlyChanges.upd (s := s) rfl (fun p hp => by cases p <;> first | rfl | exact absurd ‹_› hp) hf
@[simp] theorem State.retireOthers_Only {L : List Part} {a : State} (s : State) (l : List Nat) (h_reg : Part.reg ∈ L) (h_core : Part.core ∈ L) (h_sys : Part.sys ∈ L) (h_fab : Part.fab ∈ L) (h_eth : Part.eth ∈ L) (h_gov : Part.gov ∈ L) (h_irq : Part.irq ∈ L) (h_ptb : Part.ptb ∈ L) (h_out : Part.out ∈ L) (h_free : Part.free ∈ L) (hf : OnlyChanges L a s) :
    OnlyChanges L a (State.retireOthers s l) := by
  unfold State.retireOthers; simp (maxDischargeDepth := 40) +contextual [*]
@[simp] theorem State.quiesceRelease_Only {L : List Part} {a : State} (s : State) (gone retired : List Nat) (widths : List (Nat × Nat × Nat)) (asks : List (Nat × FarCirc)) (no : List (Nat × Nat)) (freed : List Nat) (snaps : List (Nat × Nat)) (h_fuses : Part.fuses ∈ L) (h_reg : Part.reg ∈ L) (h_mem : Part.mem ∈ L) (h_cmd : Part.cmd ∈ L) (h_core : Part.core ∈ L) (h_rtr : Part.rtr ∈ L) (h_sys : Part.sys ∈ L) (h_cnv : Part.cnv ∈ L) (h_fab : Part.fab ∈ L) (h_eth : Part.eth ∈ L) (h_gov : Part.gov ∈ L) (h_ltn : Part.ltn ∈ L) (h_kpr : Part.kpr ∈ L) (h_irq : Part.irq ∈ L) (h_ptb : Part.ptb ∈ L) (h_out : Part.out ∈ L) (h_free : Part.free ∈ L) (hf : OnlyChanges L a s) :
    OnlyChanges L a (State.quiesceRelease s gone retired widths asks no freed snaps) := by
  unfold State.quiesceRelease
  split
  · split
    · simp (maxDischargeDepth := 40) +contextual [*]
    · exact hf
  · extract_lets s0 q cores key slices s1 s2 absent oos stay s3 s4 s4b s5 s6 s7 s8 s10 k s11
    have h0 : OnlyChanges L a s0 := by simp (maxDischargeDepth := 40) [s0, *]
    have h1 : OnlyChanges L a s1 := OnlyChanges.forAll (fun s x h => by simp (maxDischargeDepth := 40) +contextual [*]) _ h0
    have h2 : OnlyChanges L a s2 := OnlyChanges.forAll (fun s x h => by simp (maxDischargeDepth := 40) +contextual [*]) _ h1
    clear_value s1 s2
    have h3 : OnlyChanges L a s3 := OnlyChanges.forAll (fun s x h => by simp (maxDischargeDepth := 40) +contextual [*]) _ h2
    clear_value s3
    have h4 : OnlyChanges L a s4 := OnlyChanges.forAll (fun s x h => by
      split
      · simp (maxDischargeDepth := 40) +contextual [*]
      · exact h) _ h3
    clear_value s4
    have h4b : OnlyChanges L a s4b := OnlyChanges.forAll (fun s x h => by simp (maxDischargeDepth := 40) +contextual [*]) _ h4
    clear_value s4b
    have h5 : OnlyChanges L a s5 := by simp (maxDischargeDepth := 40) [s5, *]
    clear_value s5
    have h6 : OnlyChanges L a s6 := OnlyChanges.forAll (fun s x h => by
      split
      · split
        · simp (maxDischargeDepth := 40) +contextual [*]
        · simp (maxDischargeDepth := 40) +contextual [*]
      · simp (maxDischargeDepth := 40) +contextual [*]) _ h5
    clear_value s6
    have h7 : OnlyChanges L a s7 := OnlyChanges.forAll (fun s x h => by simp (maxDischargeDepth := 40) +contextual [*]) _
      (OnlyChanges.forAll (fun s x h => by simp (maxDischargeDepth := 40) +contextual [*]) _ h6)
    clear_value s7
    have h8 : OnlyChanges L a s8 := by simp (maxDischargeDepth := 40) [s8, *]
    clear_value s8
    have h10 : OnlyChanges L a s10 := OnlyChanges.forAll (fun s x h => by simp (maxDischargeDepth := 40) +contextual [*]) _
      (OnlyChanges.forAll (fun s x h => by simp (maxDischargeDepth := 40) +contextual [*]) _ h8)
    clear_value s10
    have h11 : OnlyChanges L a s11 := OnlyChanges.kpr_upd _ h_kpr h10
    clear_value s11
    simp (maxDischargeDepth := 40) [*]
@[simp] theorem State.linkDisable_Only {L : List Part} {a : State} (s : State) (l : Nat) (d : Bool) (h_reg : Part.reg ∈ L) (h_kpr : Part.kpr ∈ L) (hf : OnlyChanges L a s) :
    OnlyChanges L a (State.linkDisable s l d).1 := by
  unfold State.linkDisable; simp (maxDischargeDepth := 40) +contextual [*]
theorem State.linkDisable_Only' {L : List Part} {a : State} (s : State) (l : Nat) (d : Bool) (h_reg : Part.reg ∈ L) (h_kpr : Part.kpr ∈ L) (hf : OnlyChanges L a s) {t0 : State} {y0 : Byte}
    (ht : State.linkDisable s l d = (t0, y0)) : OnlyChanges L a t0 := by
  have h0 := State.linkDisable_Only (L := L) s l d h_reg h_kpr hf; rw [ht] at h0; exact h0
@[simp] theorem State.linkTraining_Only {L : List Part} {a : State} (s : State) (l : Nat) (r : LinkResult) (h_reg : Part.reg ∈ L) (h_fab : Part.fab ∈ L) (hf : OnlyChanges L a s) :
    OnlyChanges L a (State.linkTraining s l r) := by
  unfold State.linkTraining; simp (maxDischargeDepth := 40) +contextual [*]

end Sys2Proof.Machine
end

