-- ==== Sys2Proof/Laws/Only/Governor.lean ====
section
/-! SUPPORT. Laws/Only/Governor.lean: what each operation of Machine/Governor.lean can do to the tables (its units). -/

namespace Sys2Proof.Machine

@[simp] theorem State.pgvFlag_Only {L : List Part} {a : State} (s : State) (bit source : Nat) (h_reg : Part.reg ∈ L) (h_eth : Part.eth ∈ L) (h_irq : Part.irq ∈ L) (h_out : Part.out ∈ L) (hf : OnlyChanges L a s) :
    OnlyChanges L a (State.pgvFlag s bit source) := by
  unfold State.pgvFlag; simp (maxDischargeDepth := 40) +contextual [*]
@[simp] theorem State.pgvTake_Only {L : List Part} {a : State} (s : State) (h_gov : Part.gov ∈ L) (hf : OnlyChanges L a s) :
    OnlyChanges L a (State.pgvTake s) := by
  unfold State.pgvTake; simp (maxDischargeDepth := 40) +contextual [*]
@[simp] theorem State.countWaits_Only {L : List Part} {a : State} (s : State) (given : Nat) (h_gov : Part.gov ∈ L) (h_free : Part.free ∈ L) (hf : OnlyChanges L a s) :
    OnlyChanges L a (State.countWaits s given).2 := by
  unfold State.countWaits; simp (maxDischargeDepth := 40) +contextual [*]
theorem State.countWaits_Only' {L : List Part} {a : State} (s : State) (given : Nat) (h_gov : Part.gov ∈ L) (h_free : Part.free ∈ L) (hf : OnlyChanges L a s) {t0 : State} {y0 : Nat}
    (ht : State.countWaits s given = (y0, t0)) : OnlyChanges L a t0 := by
  have h0 := State.countWaits_Only (L := L) s given h_gov h_free hf; rw [ht] at h0; exact h0
@[simp] theorem State.bubbles_Only {L : List Part} {a : State} (s : State) (h_gov : Part.gov ∈ L) (h_free : Part.free ∈ L) (hf : OnlyChanges L a s) :
    OnlyChanges L a (State.bubbles s).2 := by
  unfold State.bubbles; simp (maxDischargeDepth := 40) +contextual [*]
theorem State.bubbles_Only' {L : List Part} {a : State} (s : State) (h_gov : Part.gov ∈ L) (h_free : Part.free ∈ L) (hf : OnlyChanges L a s) {t0 : State} {y0 : Nat}
    (ht : State.bubbles s = (y0, t0)) : OnlyChanges L a t0 := by
  have h0 := State.bubbles_Only (L := L) s h_gov h_free hf; rw [ht] at h0; exact h0
@[simp] theorem State.window'_Only {L : List Part} {a : State} (s : State) (given : List (List Nat)) (unreach : List Nat) (h_reg : Part.reg ∈ L) (h_eth : Part.eth ∈ L) (h_gov : Part.gov ∈ L) (h_irq : Part.irq ∈ L) (h_tmr : Part.tmr ∈ L) (h_out : Part.out ∈ L) (h_free : Part.free ∈ L) (hf : OnlyChanges L a s) :
    OnlyChanges L a (State.window' s given unreach) := by
  unfold State.window'
  extract_lets s0
  have h0 : OnlyChanges L a s0 := by simp (maxDischargeDepth := 40) [s0, *]
  split
  rename_i waited s1 he
  have h1 : OnlyChanges L a s1 := State.countWaits_Only' _ _ h_gov h_free h0 he
  extract_lets counts g0 s1b est total s2 s3 x un now begun next parts g1 s4 s5
  have h1b : OnlyChanges L a s1b := OnlyChanges.gov_upd _ h_gov h1
  have h2 : OnlyChanges L a s2 := OnlyChanges.forAll (fun s x h => State.rset_Only _ _ h_reg h) _ h1b
  have h3 : OnlyChanges L a s3 := State.rset_Only _ _ h_reg h2
  have h4 : OnlyChanges L a s4 := OnlyChanges.gov_upd _ h_gov h3
  have h5 : OnlyChanges L a s5 := by
    clear_value s4
    simp only [s5]
    split
    · simp (maxDischargeDepth := 40) [*]
    · exact h4
  have h6 : OnlyChanges L a s5.bubbles.2 := by
    clear_value s5
    simp (maxDischargeDepth := 40) [*]
  revert h6
  clear_value s5
  rcases s5.bubbles with ⟨n, u⟩
  intro h6
  have h7 : OnlyChanges L a (u.longWrap Reg.pgvBubLo n).1 := by
    simp (maxDischargeDepth := 40) [*]
  revert h7
  dsimp only
  rcases u.longWrap Reg.pgvBubLo n with ⟨v, w⟩
  intro h7
  dsimp only
  split
  · simp (maxDischargeDepth := 40) [*]
  · exact h7
@[simp] theorem State.levelApply_Only {L : List Part} {a : State} (s : State) (h_reg : Part.reg ∈ L) (h_gov : Part.gov ∈ L) (hf : OnlyChanges L a s) :
    OnlyChanges L a (State.levelApply s) := by
  unfold State.levelApply; simp (maxDischargeDepth := 40) +contextual [*]
@[simp] theorem State.roundFree_Only {L : List Part} {a : State} (s : State) (x : ℚ) (h_free : Part.free ∈ L) (hf : OnlyChanges L a s) :
    OnlyChanges L a (State.roundFree s x).2 := by
  unfold State.roundFree; simp only []; (repeat' (first | exact hf | (refine OnlyChanges.forAll ?_ _ ?_; intro s x h) | split)) <;> simp_all (maxDischargeDepth := 40) +contextual
theorem State.roundFree_Only' {L : List Part} {a : State} (s : State) (x : ℚ) (h_free : Part.free ∈ L) (hf : OnlyChanges L a s) {t0 : State} {y0 : Nat}
    (ht : State.roundFree s x = (y0, t0)) : OnlyChanges L a t0 := by
  have h0 := State.roundFree_Only (L := L) s x h_free hf; rw [ht] at h0; exact h0
@[simp] theorem State.railRead_Only {L : List Part} {a0 : State} (s : State) (r : Nat) (v a : Option Nat) (h_reg : Part.reg ∈ L) (h_eth : Part.eth ∈ L) (h_gov : Part.gov ∈ L) (h_irq : Part.irq ∈ L) (h_out : Part.out ∈ L) (hf : OnlyChanges L a0 s) :
    OnlyChanges L a0 (State.railRead s r v a) := by
  unfold State.railRead; (repeat' split) <;> simp (maxDischargeDepth := 40) +contextual [*]
@[simp] theorem State.pmbusRead_Only {L : List Part} {a : State} (s : State) (volts amps : List (Option Nat)) (h_reg : Part.reg ∈ L) (h_eth : Part.eth ∈ L) (h_gov : Part.gov ∈ L) (h_irq : Part.irq ∈ L) (h_out : Part.out ∈ L) (h_free : Part.free ∈ L) (hf : OnlyChanges L a s) :
    OnlyChanges L a (State.pmbusRead s volts amps) := by
  unfold State.pmbusRead; simp (maxDischargeDepth := 40) +contextual [*]
@[simp] theorem State.railGain_Only {L : List Part} {a : State} (s : State) (r : Nat) (h_reg : Part.reg ∈ L) (h_free : Part.free ∈ L) (hf : OnlyChanges L a s) :
    OnlyChanges L a (State.railGain s r) := by
  unfold State.railGain; simp (maxDischargeDepth := 40) +contextual [*]
@[simp] theorem State.gainUpdate_Only {L : List Part} {a : State} (s : State) (h_reg : Part.reg ∈ L) (h_gov : Part.gov ∈ L) (h_free : Part.free ∈ L) (hf : OnlyChanges L a s) :
    OnlyChanges L a (State.gainUpdate s) := by
  unfold State.gainUpdate; simp (maxDischargeDepth := 40) +contextual [*]
@[simp] theorem State.pmbAlert_Only {L : List Part} {a : State} (s : State) (words : List (BitVec 16)) (h_reg : Part.reg ∈ L) (h_eth : Part.eth ∈ L) (h_irq : Part.irq ∈ L) (h_out : Part.out ∈ L) (hf : OnlyChanges L a s) :
    OnlyChanges L a (State.pmbAlert s words) := by
  unfold State.pmbAlert; simp (maxDischargeDepth := 40) +contextual [*]
@[simp] theorem State.overcapCheck_Only {L : List Part} {a : State} (s : State) (h_reg : Part.reg ∈ L) (h_eth : Part.eth ∈ L) (h_gov : Part.gov ∈ L) (h_irq : Part.irq ∈ L) (h_out : Part.out ∈ L) (hf : OnlyChanges L a s) :
    OnlyChanges L a (State.overcapCheck s) := by
  unfold State.overcapCheck; simp (maxDischargeDepth := 40) +contextual [*]
@[simp] theorem State.sensorSample_Only {L : List Part} {a : State} (s : State) (temps hbms : List (BitVec 8)) (h_reg : Part.reg ∈ L) (h_eth : Part.eth ∈ L) (h_gov : Part.gov ∈ L) (h_irq : Part.irq ∈ L) (h_out : Part.out ∈ L) (h_free : Part.free ∈ L) (hf : OnlyChanges L a s) :
    OnlyChanges L a (State.sensorSample s temps hbms) := by
  unfold State.sensorSample; simp (maxDischargeDepth := 40) +contextual [*]
@[simp] theorem State.govx_Only {L : List Part} {a : State} (s : State) (h_reg : Part.reg ∈ L) (h_eth : Part.eth ∈ L) (h_irq : Part.irq ∈ L) (h_out : Part.out ∈ L) (hf : OnlyChanges L a s) :
    OnlyChanges L a (State.govx s) := by
  unfold State.govx; simp (maxDischargeDepth := 40) +contextual [*]
@[simp] theorem State.thermalCap_Only {L : List Part} {a : State} (s : State) (h_reg : Part.reg ∈ L) (h_eth : Part.eth ∈ L) (h_irq : Part.irq ∈ L) (h_out : Part.out ∈ L) (hf : OnlyChanges L a s) :
    OnlyChanges L a (State.thermalCap s) := by
  unfold State.thermalCap; simp (maxDischargeDepth := 40) +contextual [*]
@[simp] theorem State.thermtrip_Only {L : List Part} {a : State} (s : State) (sensor : Nat) (h_dead : Part.dead ∈ L) (h_out : Part.out ∈ L) (hf : OnlyChanges L a s) :
    OnlyChanges L a (State.thermtrip s sensor) := by
  unfold State.thermtrip; split
  · exact OnlyChanges.dead_upd _ h_dead (State.send_Only _ h_out hf)
  · exact hf

end Sys2Proof.Machine
end

