-- ==== Sys2Proof/Laws/Only/Power.lean ====
section
/-! SUPPORT. Laws/Only/Power.lean: what each operation of Machine/Power.lean can do to the tables (its units). -/

namespace Sys2Proof.Machine

@[simp] theorem State.logicReset_Only {L : List Part} {a : State} (s : State) (p : Power) (h_fuses : Part.fuses ∈ L) (h_reg : Part.reg ∈ L) (h_mem : Part.mem ∈ L) (h_cmd : Part.cmd ∈ L) (h_core : Part.core ∈ L) (h_rtr : Part.rtr ∈ L) (h_sys : Part.sys ∈ L) (h_cnv : Part.cnv ∈ L) (h_syn : Part.syn ∈ L) (h_fab : Part.fab ∈ L) (h_eth : Part.eth ∈ L) (h_gov : Part.gov ∈ L) (h_ltn : Part.ltn ∈ L) (h_kpr : Part.kpr ∈ L) (h_irq : Part.irq ∈ L) (h_tmr : Part.tmr ∈ L) (h_sec : Part.sec ∈ L) (h_ptb : Part.ptb ∈ L) (h_dead : Part.dead ∈ L) (h_out : Part.out ∈ L) (h_free : Part.free ∈ L) (hf : OnlyChanges L a s) :
    OnlyChanges L a (State.logicReset s p) := by
  unfold State.logicReset
  exact OnlyChanges.upd (s := s) rfl (fun p hp => by cases p <;> exact absurd ‹_› hp) hf
@[simp] theorem State.gradeCap_Only {L : List Part} {a : State} (s : State) (h_reg : Part.reg ∈ L) (h_gov : Part.gov ∈ L) (hf : OnlyChanges L a s) :
    OnlyChanges L a (State.gradeCap s) := by
  unfold State.gradeCap
  exact OnlyChanges.gov_upd _ h_gov (State.rset_Only _ _ h_reg hf)
@[simp] theorem State.resetRelease_Only {L : List Part} {a : State} (s : State) (h_reg : Part.reg ∈ L) (h_eth : Part.eth ∈ L) (h_ltn : Part.ltn ∈ L) (h_irq : Part.irq ∈ L) (h_out : Part.out ∈ L) (hf : OnlyChanges L a s) :
    OnlyChanges L a (State.resetRelease s) := by
  unfold State.resetRelease; simp (maxDischargeDepth := 40) +contextual [*]
@[simp] theorem State.pwrEn_Only {L : List Part} {a : State} (s : State) (n : Nat) (b : Bool) (h_ltn : Part.ltn ∈ L) (h_out : Part.out ∈ L) (hf : OnlyChanges L a s) :
    OnlyChanges L a (State.pwrEn s n b) := by
  unfold State.pwrEn; simp (maxDischargeDepth := 40) +contextual [*]
@[simp] theorem State.nextRail_Only {L : List Part} {a : State} (s : State) (h_ltn : Part.ltn ∈ L) (h_out : Part.out ∈ L) (hf : OnlyChanges L a s) :
    OnlyChanges L a (State.nextRail s) := by
  unfold State.nextRail; simp only []; (repeat' (first | exact hf | (refine OnlyChanges.forAll ?_ _ ?_; intro s x h) | split)) <;> simp_all (maxDischargeDepth := 40) +contextual
@[simp] theorem State.pgRise_Only {L : List Part} {a : State} (s : State) (n : Nat) (h_ltn : Part.ltn ∈ L) (h_out : Part.out ∈ L) (hf : OnlyChanges L a s) :
    OnlyChanges L a (State.pgRise s n) := by
  unfold State.pgRise; simp (maxDischargeDepth := 40) +contextual [*]
@[simp] theorem State.ldoLow_Only {L : List Part} {a : State} (s : State) (b : Bool) (h_reg : Part.reg ∈ L) (hf : OnlyChanges L a s) :
    OnlyChanges L a (State.ldoLow s b) := by
  unfold State.ldoLow; simp (maxDischargeDepth := 40) +contextual [*]
@[simp] theorem State.restoreBegins_Only {L : List Part} {a : State} (s : State) (h_reg : Part.reg ∈ L) (h_ltn : Part.ltn ∈ L) (h_out : Part.out ∈ L) (hf : OnlyChanges L a s) :
    OnlyChanges L a (State.restoreBegins s) := by
  unfold State.restoreBegins; simp (maxDischargeDepth := 40) +contextual [*]
@[simp] theorem State.sleepEntered_Only {L : List Part} {a : State} (s : State) (h_reg : Part.reg ∈ L) (h_ltn : Part.ltn ∈ L) (h_out : Part.out ∈ L) (hf : OnlyChanges L a s) :
    OnlyChanges L a (State.sleepEntered s) := by
  unfold State.sleepEntered; simp (maxDischargeDepth := 40) +contextual [*]
@[simp] theorem State.pgFall_Only {L : List Part} {a : State} (s : State) (n : Nat) (h_reg : Part.reg ∈ L) (h_eth : Part.eth ∈ L) (h_ltn : Part.ltn ∈ L) (h_irq : Part.irq ∈ L) (h_out : Part.out ∈ L) (hf : OnlyChanges L a s) :
    OnlyChanges L a (State.pgFall s n) := by
  unfold State.pgFall; simp (maxDischargeDepth := 40) +contextual [*]
@[simp] theorem State.pgTimeout_Only {L : List Part} {a : State} (s : State) (n : Nat) (h_reg : Part.reg ∈ L) (h_ltn : Part.ltn ∈ L) (h_out : Part.out ∈ L) (hf : OnlyChanges L a s) :
    OnlyChanges L a (State.pgTimeout s n) := by
  unfold State.pgTimeout; simp (maxDischargeDepth := 40) +contextual [*]
@[simp] theorem State.dozeEntered_Only {L : List Part} {a : State} (s : State) (h_reg : Part.reg ∈ L) (h_ltn : Part.ltn ∈ L) (h_out : Part.out ∈ L) (hf : OnlyChanges L a s) :
    OnlyChanges L a (State.dozeEntered s) := by
  unfold State.dozeEntered; simp (maxDischargeDepth := 40) +contextual [*]
@[simp] theorem State.clockGate_Only {L : List Part} {a : State} (s : State) (p : Nat) (h_reg : Part.reg ∈ L) (h_ltn : Part.ltn ∈ L) (h_out : Part.out ∈ L) (hf : OnlyChanges L a s) :
    OnlyChanges L a (State.clockGate s p) := by
  unfold State.clockGate; simp (maxDischargeDepth := 40) +contextual [*]
@[simp] theorem State.clockUngate_Only {L : List Part} {a : State} (s : State) (p : Nat) (h_ltn : Part.ltn ∈ L) (hf : OnlyChanges L a s) :
    OnlyChanges L a (State.clockUngate s p) := by
  unfold State.clockUngate; simp (maxDischargeDepth := 40) +contextual [*]
@[simp] theorem State.psRefuse_Only {L : List Part} {a : State} (s : State) (h_reg : Part.reg ∈ L) (hf : OnlyChanges L a s) :
    OnlyChanges L a (State.psRefuse s).1 := by
  unfold State.psRefuse; simp (maxDischargeDepth := 40) +contextual [*]
theorem State.psRefuse_Only' {L : List Part} {a : State} (s : State) (h_reg : Part.reg ∈ L) (hf : OnlyChanges L a s) {t0 : State} {y0 : Byte}
    (ht : State.psRefuse s = (t0, y0)) : OnlyChanges L a t0 := by
  have h0 := State.psRefuse_Only (L := L) s h_reg hf; rw [ht] at h0; exact h0
@[simp] theorem State.fromDoze_Only {L : List Part} {a : State} (s : State) (h_reg : Part.reg ∈ L) (h_core : Part.core ∈ L) (h_syn : Part.syn ∈ L) (h_fab : Part.fab ∈ L) (h_eth : Part.eth ∈ L) (h_gov : Part.gov ∈ L) (h_ltn : Part.ltn ∈ L) (h_irq : Part.irq ∈ L) (h_ptb : Part.ptb ∈ L) (h_out : Part.out ∈ L) (h_free : Part.free ∈ L) (hf : OnlyChanges L a s) :
    OnlyChanges L a (State.fromDoze s) := by
  unfold State.fromDoze
  extract_lets x u l y v
  have hu : OnlyChanges L a u := OnlyChanges.upd (s := s) rfl (fun p hp => by cases p <;> first | rfl | exact absurd ‹_› hp) hf
  have hv : OnlyChanges L a v := by
    refine OnlyChanges.forAll (fun s w h => ?_) _ (OnlyChanges.syn_upd _ h_syn hu)
    simp (maxDischargeDepth := 40) [h, *]
  clear_value v
  refine OnlyChanges.forAll (fun s w h => ?_) _ hv
  split
  · simp (maxDischargeDepth := 40) [h, *]
  · exact h
@[simp] theorem State.dozeEnds_Only {L : List Part} {a : State} (s : State) (h_reg : Part.reg ∈ L) (h_ltn : Part.ltn ∈ L) (h_out : Part.out ∈ L) (hf : OnlyChanges L a s) :
    OnlyChanges L a (State.dozeEnds s) := by
  unfold State.dozeEnds; simp (maxDischargeDepth := 40) +contextual [*]
@[simp] theorem State.reqRun_Only {L : List Part} {a : State} (s : State) (h_reg : Part.reg ∈ L) (h_ltn : Part.ltn ∈ L) (h_out : Part.out ∈ L) (hf : OnlyChanges L a s) :
    OnlyChanges L a (State.reqRun s).1 := by
  unfold State.reqRun; simp (maxDischargeDepth := 40) +contextual [*]
theorem State.reqRun_Only' {L : List Part} {a : State} (s : State) (h_reg : Part.reg ∈ L) (h_ltn : Part.ltn ∈ L) (h_out : Part.out ∈ L) (hf : OnlyChanges L a s) {t0 : State} {y0 : Byte}
    (ht : State.reqRun s = (t0, y0)) : OnlyChanges L a t0 := by
  have h0 := State.reqRun_Only (L := L) s h_reg h_ltn h_out hf; rw [ht] at h0; exact h0
@[simp] theorem State.reqDoze_Only {L : List Part} {a : State} (s : State) (h_reg : Part.reg ∈ L) (h_ltn : Part.ltn ∈ L) (h_out : Part.out ∈ L) (hf : OnlyChanges L a s) :
    OnlyChanges L a (State.reqDoze s).1 := by
  unfold State.reqDoze; simp (maxDischargeDepth := 40) +contextual [*]
theorem State.reqDoze_Only' {L : List Part} {a : State} (s : State) (h_reg : Part.reg ∈ L) (h_ltn : Part.ltn ∈ L) (h_out : Part.out ∈ L) (hf : OnlyChanges L a s) {t0 : State} {y0 : Byte}
    (ht : State.reqDoze s = (t0, y0)) : OnlyChanges L a t0 := by
  have h0 := State.reqDoze_Only (L := L) s h_reg h_ltn h_out hf; rw [ht] at h0; exact h0
@[simp] theorem State.sleepEntry_Only {L : List Part} {a : State} (s : State) (h_fuses : Part.fuses ∈ L) (h_reg : Part.reg ∈ L) (h_mem : Part.mem ∈ L) (h_cmd : Part.cmd ∈ L) (h_core : Part.core ∈ L) (h_rtr : Part.rtr ∈ L) (h_sys : Part.sys ∈ L) (h_cnv : Part.cnv ∈ L) (h_syn : Part.syn ∈ L) (h_fab : Part.fab ∈ L) (h_eth : Part.eth ∈ L) (h_gov : Part.gov ∈ L) (h_ltn : Part.ltn ∈ L) (h_kpr : Part.kpr ∈ L) (h_irq : Part.irq ∈ L) (h_tmr : Part.tmr ∈ L) (h_sec : Part.sec ∈ L) (h_ptb : Part.ptb ∈ L) (h_dead : Part.dead ∈ L) (h_out : Part.out ∈ L) (h_free : Part.free ∈ L) (hf : OnlyChanges L a s) :
    OnlyChanges L a (State.sleepEntry s) := by
  unfold State.sleepEntry; simp (maxDischargeDepth := 40) +contextual [*]
@[simp] theorem State.reqSleep_Only {L : List Part} {a : State} (s : State) (othersAsleep : Bool) (h_fuses : Part.fuses ∈ L) (h_reg : Part.reg ∈ L) (h_mem : Part.mem ∈ L) (h_cmd : Part.cmd ∈ L) (h_core : Part.core ∈ L) (h_rtr : Part.rtr ∈ L) (h_sys : Part.sys ∈ L) (h_cnv : Part.cnv ∈ L) (h_syn : Part.syn ∈ L) (h_fab : Part.fab ∈ L) (h_eth : Part.eth ∈ L) (h_gov : Part.gov ∈ L) (h_ltn : Part.ltn ∈ L) (h_kpr : Part.kpr ∈ L) (h_irq : Part.irq ∈ L) (h_tmr : Part.tmr ∈ L) (h_sec : Part.sec ∈ L) (h_ptb : Part.ptb ∈ L) (h_dead : Part.dead ∈ L) (h_out : Part.out ∈ L) (h_free : Part.free ∈ L) (hf : OnlyChanges L a s) :
    OnlyChanges L a (State.reqSleep s othersAsleep).1 := by
  unfold State.reqSleep; simp (maxDischargeDepth := 40) +contextual [*]
theorem State.reqSleep_Only' {L : List Part} {a : State} (s : State) (othersAsleep : Bool) (h_fuses : Part.fuses ∈ L) (h_reg : Part.reg ∈ L) (h_mem : Part.mem ∈ L) (h_cmd : Part.cmd ∈ L) (h_core : Part.core ∈ L) (h_rtr : Part.rtr ∈ L) (h_sys : Part.sys ∈ L) (h_cnv : Part.cnv ∈ L) (h_syn : Part.syn ∈ L) (h_fab : Part.fab ∈ L) (h_eth : Part.eth ∈ L) (h_gov : Part.gov ∈ L) (h_ltn : Part.ltn ∈ L) (h_kpr : Part.kpr ∈ L) (h_irq : Part.irq ∈ L) (h_tmr : Part.tmr ∈ L) (h_sec : Part.sec ∈ L) (h_ptb : Part.ptb ∈ L) (h_dead : Part.dead ∈ L) (h_out : Part.out ∈ L) (h_free : Part.free ∈ L) (hf : OnlyChanges L a s) {t0 : State} {y0 : Byte}
    (ht : State.reqSleep s othersAsleep = (t0, y0)) : OnlyChanges L a t0 := by
  have h0 := State.reqSleep_Only (L := L) s othersAsleep h_fuses h_reg h_mem h_cmd h_core h_rtr h_sys h_cnv h_syn h_fab h_eth h_gov h_ltn h_kpr h_irq h_tmr h_sec h_ptb h_dead h_out h_free hf; rw [ht] at h0; exact h0
@[simp] theorem State.dozeWake_Only {L : List Part} {a : State} (s : State) (kind : Nat) (h_reg : Part.reg ∈ L) (h_ltn : Part.ltn ∈ L) (h_out : Part.out ∈ L) (hf : OnlyChanges L a s) :
    OnlyChanges L a (State.dozeWake s kind) := by
  unfold State.dozeWake; simp (maxDischargeDepth := 40) +contextual [*]
@[simp] theorem State.wake_Only {L : List Part} {a : State} (s : State) (bit : Nat) (h_reg : Part.reg ∈ L) (h_ltn : Part.ltn ∈ L) (h_out : Part.out ∈ L) (hf : OnlyChanges L a s) :
    OnlyChanges L a (State.wake s bit) := by
  unfold State.wake; simp (maxDischargeDepth := 40) +contextual [*]
@[simp] theorem State.restore_Only {L : List Part} {a : State} (s : State) (h_fuses : Part.fuses ∈ L) (h_reg : Part.reg ∈ L) (h_mem : Part.mem ∈ L) (h_cmd : Part.cmd ∈ L) (h_core : Part.core ∈ L) (h_rtr : Part.rtr ∈ L) (h_sys : Part.sys ∈ L) (h_cnv : Part.cnv ∈ L) (h_syn : Part.syn ∈ L) (h_fab : Part.fab ∈ L) (h_eth : Part.eth ∈ L) (h_gov : Part.gov ∈ L) (h_ltn : Part.ltn ∈ L) (h_kpr : Part.kpr ∈ L) (h_irq : Part.irq ∈ L) (h_tmr : Part.tmr ∈ L) (h_sec : Part.sec ∈ L) (h_ptb : Part.ptb ∈ L) (h_dead : Part.dead ∈ L) (h_out : Part.out ∈ L) (h_free : Part.free ∈ L) (hf : OnlyChanges L a s) :
    OnlyChanges L a (State.restore s) := by
  unfold State.restore; simp (maxDischargeDepth := 40) +contextual [*]
@[simp] theorem State.energyWake_Only {L : List Part} {a : State} (s : State) (p : Nat) (h_reg : Part.reg ∈ L) (h_ltn : Part.ltn ∈ L) (h_out : Part.out ∈ L) (hf : OnlyChanges L a s) :
    OnlyChanges L a (State.energyWake s p) := by
  unfold State.energyWake; simp (maxDischargeDepth := 40) +contextual [*]
@[simp] theorem State.listen_Only {L : List Part} {a : State} (s : State) (p : BitVec 1) (h_reg : Part.reg ∈ L) (h_ltn : Part.ltn ∈ L) (h_out : Part.out ∈ L) (hf : OnlyChanges L a s) :
    OnlyChanges L a (State.listen s p) := by
  unfold State.listen; simp (maxDischargeDepth := 40) +contextual [*]
@[simp] theorem State.listenTimeout_Only {L : List Part} {a : State} (s : State) (p : BitVec 1) (h_reg : Part.reg ∈ L) (h_ltn : Part.ltn ∈ L) (h_out : Part.out ∈ L) (hf : OnlyChanges L a s) :
    OnlyChanges L a (State.listenTimeout s p) := by
  unfold State.listenTimeout; simp (maxDischargeDepth := 40) +contextual [*]
@[simp] theorem State.wakeMatch_Only {L : List Part} {a : State} (s : State) (p : BitVec 1) (mac : BitVec 48) (h : EthHead) (pattern : List Word) (h_reg : Part.reg ∈ L) (h_ltn : Part.ltn ∈ L) (h_out : Part.out ∈ L) (hf : OnlyChanges L a s) :
    OnlyChanges L a (State.wakeMatch s p mac h pattern) := by
  unfold State.wakeMatch; simp (maxDischargeDepth := 40) +contextual [*]
@[simp] theorem State.fabricWake_Only {L : List Part} {a : State} (s : State) (l : Nat) (pattern : Bool) (h_reg : Part.reg ∈ L) (h_ltn : Part.ltn ∈ L) (h_out : Part.out ∈ L) (hf : OnlyChanges L a s) :
    OnlyChanges L a (State.fabricWake s l pattern) := by
  unfold State.fabricWake; simp (maxDischargeDepth := 40) +contextual [*]
@[simp] theorem State.fwakeSend_Only {L : List Part} {a : State} (s : State) (mask : Nat) (h_out : Part.out ∈ L) (hf : OnlyChanges L a s) :
    OnlyChanges L a (State.fwakeSend s mask).1 := by
  unfold State.fwakeSend; simp (maxDischargeDepth := 40) +contextual [*]
theorem State.fwakeSend_Only' {L : List Part} {a : State} (s : State) (mask : Nat) (h_out : Part.out ∈ L) (hf : OnlyChanges L a s) {t0 : State} {y0 : Byte}
    (ht : State.fwakeSend s mask = (t0, y0)) : OnlyChanges L a t0 := by
  have h0 := State.fwakeSend_Only (L := L) s mask h_out hf; rw [ht] at h0; exact h0
@[simp] theorem State.timerWake_Only {L : List Part} {a : State} (s : State) (h_reg : Part.reg ∈ L) (h_ltn : Part.ltn ∈ L) (h_out : Part.out ∈ L) (hf : OnlyChanges L a s) :
    OnlyChanges L a (State.timerWake s) := by
  unfold State.timerWake; simp (maxDischargeDepth := 40) +contextual [*]
@[simp] theorem State.wakeN_Only {L : List Part} {a : State} (s : State) (h_reg : Part.reg ∈ L) (h_ltn : Part.ltn ∈ L) (h_out : Part.out ∈ L) (hf : OnlyChanges L a s) :
    OnlyChanges L a (State.wakeN s) := by
  unfold State.wakeN; simp (maxDischargeDepth := 40) +contextual [*]
@[simp] theorem State.watchWake_Only {L : List Part} {a : State} (s : State) (k : Nat) (h_reg : Part.reg ∈ L) (h_ltn : Part.ltn ∈ L) (h_out : Part.out ∈ L) (hf : OnlyChanges L a s) :
    OnlyChanges L a (State.watchWake s k) := by
  unfold State.watchWake; simp (maxDischargeDepth := 40) +contextual [*]
@[simp] theorem State.brownOut_Only {L : List Part} {a : State} (s : State) (h_reg : Part.reg ∈ L) (h_ltn : Part.ltn ∈ L) (hf : OnlyChanges L a s) :
    OnlyChanges L a (State.brownOut s) := by
  unfold State.brownOut
  split
  · exact hf
  · exact State.rsetField_Only _ _ _ _ _ h_reg (OnlyChanges.upd (s := s) rfl (fun p hp => by cases p <;> first | rfl | exact absurd ‹_› hp) hf)
@[simp] theorem State.coldState_Only {L : List Part} {a : State} (s : State) (p : Power) (on : List Nat) (h_fuses : Part.fuses ∈ L) (h_reg : Part.reg ∈ L) (h_mem : Part.mem ∈ L) (h_cmd : Part.cmd ∈ L) (h_core : Part.core ∈ L) (h_rtr : Part.rtr ∈ L) (h_sys : Part.sys ∈ L) (h_cnv : Part.cnv ∈ L) (h_syn : Part.syn ∈ L) (h_fab : Part.fab ∈ L) (h_eth : Part.eth ∈ L) (h_gov : Part.gov ∈ L) (h_ltn : Part.ltn ∈ L) (h_kpr : Part.kpr ∈ L) (h_irq : Part.irq ∈ L) (h_tmr : Part.tmr ∈ L) (h_sec : Part.sec ∈ L) (h_ptb : Part.ptb ∈ L) (h_dead : Part.dead ∈ L) (h_out : Part.out ∈ L) (h_free : Part.free ∈ L) (hf : OnlyChanges L a s) :
    OnlyChanges L a (State.coldState s p on) := by
  unfold State.coldState
  have h : OnlyChanges L a { State.reset with
    pending := s.pending, fuses := s.fuses, out := s.out ++ s.coldPins on, free := s.free, reg := ⟨[], []⟩
    ltn := { State.reset.ltn with power := p, pwrEn := (List.range 8).map (fun n => on.contains n), pg := List.replicate 8 false } } :=
    OnlyChanges.upd (s := s) rfl (fun p hp => by cases p <;> first | rfl | exact absurd ‹_› hp) hf
  exact State.gradeCap_Only (hf := h) (h_reg := h_reg) (h_gov := h_gov) ..
@[simp] theorem State.powerOn_Only {L : List Part} {a : State} (s : State) (h_fuses : Part.fuses ∈ L) (h_reg : Part.reg ∈ L) (h_mem : Part.mem ∈ L) (h_cmd : Part.cmd ∈ L) (h_core : Part.core ∈ L) (h_rtr : Part.rtr ∈ L) (h_sys : Part.sys ∈ L) (h_cnv : Part.cnv ∈ L) (h_syn : Part.syn ∈ L) (h_fab : Part.fab ∈ L) (h_eth : Part.eth ∈ L) (h_gov : Part.gov ∈ L) (h_ltn : Part.ltn ∈ L) (h_kpr : Part.kpr ∈ L) (h_irq : Part.irq ∈ L) (h_tmr : Part.tmr ∈ L) (h_sec : Part.sec ∈ L) (h_ptb : Part.ptb ∈ L) (h_dead : Part.dead ∈ L) (h_out : Part.out ∈ L) (h_free : Part.free ∈ L) (hf : OnlyChanges L a s) :
    OnlyChanges L a (State.powerOn s) := by
  unfold State.powerOn; simp (maxDischargeDepth := 40) +contextual [*]
@[simp] theorem State.coldRst_Only {L : List Part} {a : State} (s : State) (h_fuses : Part.fuses ∈ L) (h_reg : Part.reg ∈ L) (h_mem : Part.mem ∈ L) (h_cmd : Part.cmd ∈ L) (h_core : Part.core ∈ L) (h_rtr : Part.rtr ∈ L) (h_sys : Part.sys ∈ L) (h_cnv : Part.cnv ∈ L) (h_syn : Part.syn ∈ L) (h_fab : Part.fab ∈ L) (h_eth : Part.eth ∈ L) (h_gov : Part.gov ∈ L) (h_ltn : Part.ltn ∈ L) (h_kpr : Part.kpr ∈ L) (h_irq : Part.irq ∈ L) (h_tmr : Part.tmr ∈ L) (h_sec : Part.sec ∈ L) (h_ptb : Part.ptb ∈ L) (h_dead : Part.dead ∈ L) (h_out : Part.out ∈ L) (h_free : Part.free ∈ L) (hf : OnlyChanges L a s) :
    OnlyChanges L a (State.coldRst s) := by
  unfold State.coldRst; simp (maxDischargeDepth := 40) +contextual [*]
@[simp] theorem State.vddOff_Only {L : List Part} {a : State} (s : State) (h_fuses : Part.fuses ∈ L) (h_reg : Part.reg ∈ L) (h_mem : Part.mem ∈ L) (h_cmd : Part.cmd ∈ L) (h_core : Part.core ∈ L) (h_rtr : Part.rtr ∈ L) (h_sys : Part.sys ∈ L) (h_cnv : Part.cnv ∈ L) (h_syn : Part.syn ∈ L) (h_fab : Part.fab ∈ L) (h_eth : Part.eth ∈ L) (h_gov : Part.gov ∈ L) (h_ltn : Part.ltn ∈ L) (h_kpr : Part.kpr ∈ L) (h_irq : Part.irq ∈ L) (h_tmr : Part.tmr ∈ L) (h_sec : Part.sec ∈ L) (h_ptb : Part.ptb ∈ L) (h_dead : Part.dead ∈ L) (h_out : Part.out ∈ L) (h_free : Part.free ∈ L) (hf : OnlyChanges L a s) :
    OnlyChanges L a (State.vddOff s) := by
  unfold State.vddOff; simp (maxDischargeDepth := 40) +contextual [*]
@[simp] theorem State.warmRst_Only {L : List Part} {a : State} (s : State) (pgHigh : Bool) (h_fuses : Part.fuses ∈ L) (h_reg : Part.reg ∈ L) (h_mem : Part.mem ∈ L) (h_cmd : Part.cmd ∈ L) (h_core : Part.core ∈ L) (h_rtr : Part.rtr ∈ L) (h_sys : Part.sys ∈ L) (h_cnv : Part.cnv ∈ L) (h_syn : Part.syn ∈ L) (h_fab : Part.fab ∈ L) (h_eth : Part.eth ∈ L) (h_gov : Part.gov ∈ L) (h_ltn : Part.ltn ∈ L) (h_kpr : Part.kpr ∈ L) (h_irq : Part.irq ∈ L) (h_tmr : Part.tmr ∈ L) (h_sec : Part.sec ∈ L) (h_ptb : Part.ptb ∈ L) (h_dead : Part.dead ∈ L) (h_out : Part.out ∈ L) (h_free : Part.free ∈ L) (hf : OnlyChanges L a s) :
    OnlyChanges L a (State.warmRst s pgHigh) := by
  unfold State.warmRst; simp (maxDischargeDepth := 40) +contextual [*]

end Sys2Proof.Machine
end

