-- ==== Sys2Proof/Laws/Only/Security.lean ====
section
/-! SUPPORT. Laws/Only/Security.lean: what each operation of Machine/Security.lean can do to the tables (its units). -/

namespace Sys2Proof.Machine

@[simp] theorem State.newNonce_Only {L : List Part} {a : State} (s : State) (h_reg : Part.reg ∈ L) (h_free : Part.free ∈ L) (hf : OnlyChanges L a s) :
    OnlyChanges L a (State.newNonce s) := by
  unfold State.newNonce; simp (maxDischargeDepth := 40) +contextual [*]
@[simp] theorem State.captureNonce_Only {L : List Part} {a : State} (s : State) (h_reg : Part.reg ∈ L) (hf : OnlyChanges L a s) :
    OnlyChanges L a (State.captureNonce s) := by
  unfold State.captureNonce; simp (maxDischargeDepth := 40) +contextual [*]
@[simp] theorem State.tamper_Only {L : List Part} {a : State} (s : State) (cause : Nat) (h_fuses : Part.fuses ∈ L) (h_reg : Part.reg ∈ L) (h_mem : Part.mem ∈ L) (h_eth : Part.eth ∈ L) (h_irq : Part.irq ∈ L) (h_sec : Part.sec ∈ L) (h_out : Part.out ∈ L) (hf : OnlyChanges L a s) :
    OnlyChanges L a (State.tamper s cause) := by
  unfold State.tamper
  extract_lets f m x u
  have hu : OnlyChanges L a u := OnlyChanges.upd (s := s) rfl (fun p hp => by cases p <;> first | rfl | exact absurd ‹_› hp) hf
  clear_value u
  simp (maxDischargeDepth := 40) [hu, *]
@[simp] theorem State.tamperPin_Only {L : List Part} {a : State} (s : State) (h_fuses : Part.fuses ∈ L) (h_reg : Part.reg ∈ L) (h_mem : Part.mem ∈ L) (h_eth : Part.eth ∈ L) (h_irq : Part.irq ∈ L) (h_sec : Part.sec ∈ L) (h_out : Part.out ∈ L) (hf : OnlyChanges L a s) :
    OnlyChanges L a (State.tamperPin s) := by
  unfold State.tamperPin; simp (maxDischargeDepth := 40) +contextual [*]
@[simp] theorem State.secReply_Only {L : List Part} {a : State} (s : State) (smbus : Bool) (kind : Nat) (st : Byte) (body : List Byte) (h_reg : Part.reg ∈ L) (h_fab : Part.fab ∈ L) (h_eth : Part.eth ∈ L) (h_gov : Part.gov ∈ L) (h_irq : Part.irq ∈ L) (h_ptb : Part.ptb ∈ L) (h_out : Part.out ∈ L) (h_free : Part.free ∈ L) (hf : OnlyChanges L a s) :
    OnlyChanges L a (State.secReply s smbus kind st body) := by
  unfold State.secReply; simp (maxDischargeDepth := 40) +contextual [*]
@[simp] theorem State.signedBy_Only {L : List Part} {a : State} (s : State) (key : Option (List Byte)) (kind : Nat) (body sig : List Byte) (nonce : List Word) (devid : Word64) (h_fuses : Part.fuses ∈ L) (h_reg : Part.reg ∈ L) (h_mem : Part.mem ∈ L) (h_eth : Part.eth ∈ L) (h_irq : Part.irq ∈ L) (h_sec : Part.sec ∈ L) (h_out : Part.out ∈ L) (h_free : Part.free ∈ L) (hf : OnlyChanges L a s) :
    OnlyChanges L a (State.signedBy s key kind body sig nonce devid).1 := by
  unfold State.signedBy; (repeat' split) <;> simp (maxDischargeDepth := 40) +contextual [*]
theorem State.signedBy_Only' {L : List Part} {a : State} (s : State) (key : Option (List Byte)) (kind : Nat) (body sig : List Byte) (nonce : List Word) (devid : Word64) (h_fuses : Part.fuses ∈ L) (h_reg : Part.reg ∈ L) (h_mem : Part.mem ∈ L) (h_eth : Part.eth ∈ L) (h_irq : Part.irq ∈ L) (h_sec : Part.sec ∈ L) (h_out : Part.out ∈ L) (h_free : Part.free ∈ L) (hf : OnlyChanges L a s) {t0 : State} {y0 : Bool}
    (ht : State.signedBy s key kind body sig nonce devid = (t0, y0)) : OnlyChanges L a t0 := by
  have h0 := State.signedBy_Only (L := L) s key kind body sig nonce devid h_fuses h_reg h_mem h_eth h_irq h_sec h_out h_free hf; rw [ht] at h0; exact h0
@[simp] theorem State.attest_Only {L : List Part} {a : State} (s : State) (nonce : List Byte) (smbus : Bool) (h_reg : Part.reg ∈ L) (h_fab : Part.fab ∈ L) (h_eth : Part.eth ∈ L) (h_gov : Part.gov ∈ L) (h_irq : Part.irq ∈ L) (h_ptb : Part.ptb ∈ L) (h_out : Part.out ∈ L) (h_free : Part.free ∈ L) (hf : OnlyChanges L a s) :
    OnlyChanges L a (State.attest s nonce smbus) := by
  unfold State.attest; simp (maxDischargeDepth := 40) +contextual [*]
@[simp] theorem State.certs_Only {L : List Part} {a : State} (s : State) (smbus : Bool) (h_reg : Part.reg ∈ L) (h_fab : Part.fab ∈ L) (h_eth : Part.eth ∈ L) (h_gov : Part.gov ∈ L) (h_irq : Part.irq ∈ L) (h_ptb : Part.ptb ∈ L) (h_out : Part.out ∈ L) (h_free : Part.free ∈ L) (hf : OnlyChanges L a s) :
    OnlyChanges L a (State.certs s smbus) := by
  unfold State.certs; simp (maxDischargeDepth := 40) +contextual [*]
@[simp] theorem State.lifecycle_Only {L : List Part} {a : State} (s : State) (target : Nat) (nonce : List Word) (devid : Word64) (ownerKey : List Byte) (smbus : Bool) (sig : List Byte) (h_fuses : Part.fuses ∈ L) (h_reg : Part.reg ∈ L) (h_mem : Part.mem ∈ L) (h_cmd : Part.cmd ∈ L) (h_core : Part.core ∈ L) (h_rtr : Part.rtr ∈ L) (h_sys : Part.sys ∈ L) (h_cnv : Part.cnv ∈ L) (h_syn : Part.syn ∈ L) (h_fab : Part.fab ∈ L) (h_eth : Part.eth ∈ L) (h_gov : Part.gov ∈ L) (h_ltn : Part.ltn ∈ L) (h_kpr : Part.kpr ∈ L) (h_irq : Part.irq ∈ L) (h_tmr : Part.tmr ∈ L) (h_sec : Part.sec ∈ L) (h_ptb : Part.ptb ∈ L) (h_dead : Part.dead ∈ L) (h_out : Part.out ∈ L) (h_free : Part.free ∈ L) (hf : OnlyChanges L a s) :
    OnlyChanges L a (State.lifecycle s target nonce devid ownerKey smbus sig) := by
  unfold State.lifecycle
  extract_lets body busy enrol
  have h1 : OnlyChanges L a (s.signedBy (s.lcSigner target ownerKey smbus) 2 body sig nonce devid).1 := by
    simp (maxDischargeDepth := 40) [*]
  revert h1
  rcases s.signedBy (s.lcSigner target ownerKey smbus) 2 body sig nonce devid with ⟨u, ok⟩
  intro h1
  show OnlyChanges L a (if !ok || busy then u.secReply smbus 2 St.badOperand [] else _)
  have h2 : OnlyChanges L a (u.secReply smbus 2 St.badOperand []) := by simp (maxDischargeDepth := 40) [*]
  have h3 : OnlyChanges L a (u.secReply smbus 2 St.ok []) := by simp (maxDischargeDepth := 40) [*]
  split
  · exact h2
  · exact OnlyChanges.upd (by simp [State.gradeCap, State.rsetField, State.rset, State.rsetBit]; (repeat' split) <;> rfl) (fun p hp => by cases p <;> exact absurd ‹_› hp) h3
@[simp] theorem State.debugReq_Only {L : List Part} {a : State} (s : State) (level : Nat) (nonce : List Word) (devid : Word64) (smbus : Bool) (sig : List Byte) (h_fuses : Part.fuses ∈ L) (h_reg : Part.reg ∈ L) (h_mem : Part.mem ∈ L) (h_fab : Part.fab ∈ L) (h_eth : Part.eth ∈ L) (h_gov : Part.gov ∈ L) (h_irq : Part.irq ∈ L) (h_sec : Part.sec ∈ L) (h_ptb : Part.ptb ∈ L) (h_out : Part.out ∈ L) (h_free : Part.free ∈ L) (hf : OnlyChanges L a s) :
    OnlyChanges L a (State.debugReq s level nonce devid smbus sig) := by
  unfold State.debugReq; simp (maxDischargeDepth := 40) +contextual [*]
@[simp] theorem State.sak_Only {L : List Part} {a : State} (s : State) (port dir : Nat) (an : BitVec 2) (ssci : Word) (ki wrapped pubkey : List Byte) (nonce : List Word) (devid : Word64) (smbus : Bool) (sig : List Byte) (h_fuses : Part.fuses ∈ L) (h_reg : Part.reg ∈ L) (h_mem : Part.mem ∈ L) (h_fab : Part.fab ∈ L) (h_eth : Part.eth ∈ L) (h_gov : Part.gov ∈ L) (h_irq : Part.irq ∈ L) (h_sec : Part.sec ∈ L) (h_ptb : Part.ptb ∈ L) (h_out : Part.out ∈ L) (h_free : Part.free ∈ L) (hf : OnlyChanges L a s) :
    OnlyChanges L a (State.sak s port dir an ssci ki wrapped pubkey nonce devid smbus sig) := by
  unfold State.sak
  extract_lets body salt info c shape key
  have h1 : OnlyChanges L a (if c = 2 ∨ c = 3 then s.signedBy s.fuses.owner 4 body sig nonce devid else (s.newNonce, decide (c ≤ 1))).1 :=
    OnlyChanges.iteI (fun _ => by simp (maxDischargeDepth := 40) [hf, *]) (fun _ => by simp (maxDischargeDepth := 40) [hf, *])
  revert h1
  rcases (if c = 2 ∨ c = 3 then s.signedBy s.fuses.owner 4 body sig nonce devid else (s.newNonce, decide (c ≤ 1))) with ⟨u, ok⟩
  intro h1
  dsimp only
  split
  · simp (maxDischargeDepth := 40) [h1, *]
  · exact State.secReply_Only (hf := OnlyChanges.sec_upd _ h_sec h1) (h_reg := h_reg) (h_fab := h_fab) (h_eth := h_eth) (h_gov := h_gov) (h_irq := h_irq) (h_ptb := h_ptb) (h_out := h_out) (h_free := h_free) ..

end Sys2Proof.Machine
end

