-- ==== Sys2Proof/Laws/Only/Bringup.lean ====
section
/-! SUPPORT. Laws/Only/Bringup.lean: what each operation of Machine/Bringup.lean can do to the tables (its units). -/

namespace Sys2Proof.Machine

@[simp] theorem State.showUnit_Only {L : List Part} {a : State} (s : State) (slice : Bool) (test : List Nat) (map : List (Nat × Nat)) (p : Nat) (h_reg : Part.reg ∈ L) (h_free : Part.free ∈ L) (hf : OnlyChanges L a s) :
    OnlyChanges L a (State.showUnit s slice test map p) := by
  unfold State.showUnit; (repeat' split) <;> simp (maxDischargeDepth := 40) +contextual [*]
@[simp] theorem State.layUnits_Only {L : List Part} {a : State} (s : State) (slice : Bool) (test : List Nat) (h_fuses : Part.fuses ∈ L) (h_reg : Part.reg ∈ L) (h_ltn : Part.ltn ∈ L) (h_free : Part.free ∈ L) (hf : OnlyChanges L a s) :
    OnlyChanges L a (State.layUnits s slice test) := by
  unfold State.layUnits; simp only []; (repeat' (first | exact hf | (refine OnlyChanges.forAll ?_ _ ?_; intro s x h) | split)) <;> simp_all (maxDischargeDepth := 40) +contextual
@[simp] theorem State.reloadMap_Only {L : List Part} {a : State} (s : State) (h_reg : Part.reg ∈ L) (h_free : Part.free ∈ L) (hf : OnlyChanges L a s) :
    OnlyChanges L a (State.reloadMap s) := by
  unfold State.reloadMap; simp (maxDischargeDepth := 40) +contextual [*]
@[simp] theorem State.notReady_Only {L : List Part} {a : State} (s : State) (cause : Nat) (h_reg : Part.reg ∈ L) (hf : OnlyChanges L a s) :
    OnlyChanges L a (State.notReady s cause) := by
  unfold State.notReady; simp (maxDischargeDepth := 40) +contextual [*]
@[simp] theorem State.bootStays_Only {L : List Part} {a : State} (s : State) (cause stage : Nat) (h_reg : Part.reg ∈ L) (hf : OnlyChanges L a s) :
    OnlyChanges L a (State.bootStays s cause stage) := by
  unfold State.bootStays; simp (maxDischargeDepth := 40) +contextual [*]
@[simp] theorem State.bootReject_Only {L : List Part} {a : State} (s : State) (stage : Nat) (h_fuses : Part.fuses ∈ L) (h_reg : Part.reg ∈ L) (h_mem : Part.mem ∈ L) (h_eth : Part.eth ∈ L) (h_ltn : Part.ltn ∈ L) (h_irq : Part.irq ∈ L) (h_sec : Part.sec ∈ L) (h_out : Part.out ∈ L) (hf : OnlyChanges L a s) :
    OnlyChanges L a (State.bootReject s stage) := by
  unfold State.bootReject
  extract_lets n x k y u
  have hu : OnlyChanges L a u := OnlyChanges.upd (s := s) rfl (fun p hp => by cases p <;> first | rfl | exact absurd ‹_› hp) hf
  clear_value u
  split <;> simp (maxDischargeDepth := 40) [hu, *]
@[simp] theorem State.booted_Only {L : List Part} {a : State} (s : State) (r : BringupReport) (h_fuses : Part.fuses ∈ L) (h_reg : Part.reg ∈ L) (h_eth : Part.eth ∈ L) (h_ltn : Part.ltn ∈ L) (h_irq : Part.irq ∈ L) (h_sec : Part.sec ∈ L) (h_out : Part.out ∈ L) (hf : OnlyChanges L a s) :
    OnlyChanges L a (State.booted s r) := by
  unfold State.booted
  extract_lets x k y z u
  have hu : OnlyChanges L a u := OnlyChanges.upd (s := s) rfl (fun p hp => by cases p <;> first | rfl | exact absurd ‹_› hp) hf
  have hv : OnlyChanges L a (u.forAll (List.range 12) (fun s i => s.rset (Reg.secFwhash i) (r.fwHash.getD i 0))) :=
    OnlyChanges.forAll (fun s w h => State.rset_Only _ _ h_reg h) _ hu
  revert hv
  generalize u.forAll (List.range 12) (fun s i => s.rset (Reg.secFwhash i) (r.fwHash.getD i 0)) = w
  intro hv
  simp (maxDischargeDepth := 40) [hv, *]
@[simp] theorem State.described_Only {L : List Part} {a : State} (s : State) (r : BringupReport) (h_reg : Part.reg ∈ L) (hf : OnlyChanges L a s) :
    OnlyChanges L a (State.described s r) := by
  unfold State.described; simp (maxDischargeDepth := 40) +contextual [*]
@[simp] theorem State.showLink_Only {L : List Part} {a : State} (s : State) (l w : Nat) (r : LinkResult) (h_reg : Part.reg ∈ L) (hf : OnlyChanges L a s) :
    OnlyChanges L a (State.showLink s l w r) := by
  unfold State.showLink; simp (maxDischargeDepth := 40) +contextual [*]
@[simp] theorem State.trainLinks_Only {L : List Part} {a : State} (s : State) (r : BringupReport) (h_reg : Part.reg ∈ L) (hf : OnlyChanges L a s) :
    OnlyChanges L a (State.trainLinks s r) := by
  unfold State.trainLinks; simp (maxDischargeDepth := 40) +contextual [*]
@[simp] theorem State.retrainLinks_Only {L : List Part} {a : State} (s : State) (r : BringupReport) (h_reg : Part.reg ∈ L) (hf : OnlyChanges L a s) :
    OnlyChanges L a (State.retrainLinks s r) := by
  unfold State.retrainLinks; simp (maxDischargeDepth := 40) +contextual [*]
@[simp] theorem State.checkLink_Only {L : List Part} {a : State} (s : State) (l : Nat) (e : BitVec 2 × BitVec 6 × BitVec 5) (h_reg : Part.reg ∈ L) (h_eth : Part.eth ∈ L) (h_irq : Part.irq ∈ L) (h_out : Part.out ∈ L) (hf : OnlyChanges L a s) :
    OnlyChanges L a (State.checkLink s l e) := by
  unfold State.checkLink; simp (maxDischargeDepth := 40) +contextual [*]
@[simp] theorem State.joinSystem_Only {L : List Part} {a : State} (s : State) (r : BringupReport) (h_reg : Part.reg ∈ L) (h_sys : Part.sys ∈ L) (hf : OnlyChanges L a s) :
    OnlyChanges L a (State.joinSystem s r) := by
  unfold State.joinSystem; simp (maxDischargeDepth := 40) +contextual [*]
@[simp] theorem State.openSpaces_Only {L : List Part} {a : State} (s : State) (dev cause : Nat) (h_eth : Part.eth ∈ L) (h_out : Part.out ∈ L) (hf : OnlyChanges L a s) :
    OnlyChanges L a (State.openSpaces s dev cause) := by
  unfold State.openSpaces; simp (maxDischargeDepth := 40) +contextual [*]
@[simp] theorem State.becomeReady_Only {L : List Part} {a : State} (s : State) (h_reg : Part.reg ∈ L) (h_sys : Part.sys ∈ L) (h_eth : Part.eth ∈ L) (h_ltn : Part.ltn ∈ L) (h_irq : Part.irq ∈ L) (h_sec : Part.sec ∈ L) (h_out : Part.out ∈ L) (hf : OnlyChanges L a s) :
    OnlyChanges L a (State.becomeReady s) := by
  unfold State.becomeReady
  extract_lets me s1 y1 e1 k1 l1 s2 s5 s6 s7
  have h1 : OnlyChanges L a s1 := State.rsetField_Only _ _ _ _ _ h_reg hf
  have h2 : OnlyChanges L a s2 := OnlyChanges.upd (s := s1) rfl (fun p hp => by cases p <;> first | rfl | exact absurd ‹_› hp) h1
  have h5 : OnlyChanges L a s5 := by
    simp only [s5]; split
    · exact OnlyChanges.forAll (fun s x h => by simp (maxDischargeDepth := 40) [h, *]) _ h2
    · exact h2
  have h6 : OnlyChanges L a s6 := by
    simp only [s6]; split
    · exact State.raise_Only (hf := h5) (h_reg := h_reg) (h_irq := h_irq) (h_out := h_out) (h_eth := h_eth) ..
    · exact h5
  have h7 : OnlyChanges L a s7 := by
    simp only [s7]; split
    · exact State.raise_Only (hf := h6) (h_reg := h_reg) (h_irq := h_irq) (h_out := h_out) (h_eth := h_eth) ..
    · exact h6
  exact OnlyChanges.sec_upd _ h_sec h7
@[simp] theorem State.lastStages_Only {L : List Part} {a : State} (s : State) (r : BringupReport) (h_reg : Part.reg ∈ L) (h_sys : Part.sys ∈ L) (h_eth : Part.eth ∈ L) (h_ltn : Part.ltn ∈ L) (h_irq : Part.irq ∈ L) (h_sec : Part.sec ∈ L) (h_out : Part.out ∈ L) (hf : OnlyChanges L a s) :
    OnlyChanges L a (State.lastStages s r) := by
  unfold State.lastStages; simp (maxDischargeDepth := 40) +contextual [*]
@[simp] theorem State.release'_Only {L : List Part} {a : State} (s : State) (r : BringupReport) (h_reg : Part.reg ∈ L) (h_eth : Part.eth ∈ L) (h_ltn : Part.ltn ∈ L) (h_irq : Part.irq ∈ L) (h_out : Part.out ∈ L) (h_free : Part.free ∈ L) (hf : OnlyChanges L a s) :
    OnlyChanges L a (State.release' s r) := by
  unfold State.release'; simp (maxDischargeDepth := 40) +contextual [*]
@[simp] theorem State.coldClears_Only {L : List Part} {a : State} (s : State) (h_reg : Part.reg ∈ L) (h_mem : Part.mem ∈ L) (h_fab : Part.fab ∈ L) (h_ltn : Part.ltn ∈ L) (hf : OnlyChanges L a s) :
    OnlyChanges L a (State.coldClears s) := by
  unfold State.coldClears
  extract_lets u v
  have hv : OnlyChanges L a v := by simp (maxDischargeDepth := 40) [v, u, hf, *]
  clear_value v
  exact OnlyChanges.upd (s := v) rfl (fun p hp => by cases p <;> first | rfl | exact absurd ‹_› hp) hv
@[simp] theorem State.stacksUp_Only {L : List Part} {a : State} (s : State) (h_reg : Part.reg ∈ L) (hf : OnlyChanges L a s) :
    OnlyChanges L a (State.stacksUp s) := by
  unfold State.stacksUp; simp (maxDischargeDepth := 40) +contextual [*]
@[simp] theorem State.maintEnds_Only {L : List Part} {a : State} (s : State) (h_reg : Part.reg ∈ L) (hf : OnlyChanges L a s) :
    OnlyChanges L a (State.maintEnds s) := by
  unfold State.maintEnds; simp (maxDischargeDepth := 40) +contextual [*]
@[simp] theorem State.ffevEnds_Only {L : List Part} {a : State} (s : State) (h_reg : Part.reg ∈ L) (h_ltn : Part.ltn ∈ L) (hf : OnlyChanges L a s) :
    OnlyChanges L a (State.ffevEnds s) := by
  unfold State.ffevEnds; simp (maxDischargeDepth := 40) +contextual [*]
@[simp] theorem State.coldPath_Only {L : List Part} {a : State} (s : State) (r : BringupReport) (h_fuses : Part.fuses ∈ L) (h_reg : Part.reg ∈ L) (h_mem : Part.mem ∈ L) (h_sys : Part.sys ∈ L) (h_fab : Part.fab ∈ L) (h_eth : Part.eth ∈ L) (h_ltn : Part.ltn ∈ L) (h_irq : Part.irq ∈ L) (h_sec : Part.sec ∈ L) (h_out : Part.out ∈ L) (h_free : Part.free ∈ L) (hf : OnlyChanges L a s) :
    OnlyChanges L a (State.coldPath s r) := by
  unfold State.coldPath; simp (maxDischargeDepth := 40) +contextual [*]
@[simp] theorem State.fastPath_Only {L : List Part} {a : State} (s : State) (r : BringupReport) (h_fuses : Part.fuses ∈ L) (h_reg : Part.reg ∈ L) (h_mem : Part.mem ∈ L) (h_sys : Part.sys ∈ L) (h_eth : Part.eth ∈ L) (h_ltn : Part.ltn ∈ L) (h_irq : Part.irq ∈ L) (h_sec : Part.sec ∈ L) (h_out : Part.out ∈ L) (h_free : Part.free ∈ L) (hf : OnlyChanges L a s) :
    OnlyChanges L a (State.fastPath s r) := by
  unfold State.fastPath; simp (maxDischargeDepth := 40) +contextual [*]
@[simp] theorem State.coldBringup_Only {L : List Part} {a : State} (s : State) (r : BringupReport) (h_fuses : Part.fuses ∈ L) (h_reg : Part.reg ∈ L) (h_mem : Part.mem ∈ L) (h_sys : Part.sys ∈ L) (h_fab : Part.fab ∈ L) (h_eth : Part.eth ∈ L) (h_ltn : Part.ltn ∈ L) (h_irq : Part.irq ∈ L) (h_sec : Part.sec ∈ L) (h_out : Part.out ∈ L) (h_free : Part.free ∈ L) (hf : OnlyChanges L a s) :
    OnlyChanges L a (State.coldBringup s r) := by
  unfold State.coldBringup; simp (maxDischargeDepth := 40) +contextual [*]
@[simp] theorem State.warmFastPath_Only {L : List Part} {a : State} (s : State) (r : BringupReport) (h_fuses : Part.fuses ∈ L) (h_reg : Part.reg ∈ L) (h_mem : Part.mem ∈ L) (h_sys : Part.sys ∈ L) (h_fab : Part.fab ∈ L) (h_eth : Part.eth ∈ L) (h_ltn : Part.ltn ∈ L) (h_irq : Part.irq ∈ L) (h_sec : Part.sec ∈ L) (h_out : Part.out ∈ L) (h_free : Part.free ∈ L) (hf : OnlyChanges L a s) :
    OnlyChanges L a (State.warmFastPath s r) := by
  unfold State.warmFastPath; simp (maxDischargeDepth := 40) +contextual [*]

end Sys2Proof.Machine
end

