-- ==== Sys2Proof/Laws/Only/Registers.lean ====
section
/-! SUPPORT. Laws/Only/Registers.lean: what each operation of Machine/Registers.lean can do to the tables (its units). -/

namespace Sys2Proof.Machine

@[simp] theorem State.openClock_Only {L : List Part} {a0 : State} (s : State) (a : Nat) (h_ltn : Part.ltn ∈ L) (hf : OnlyChanges L a0 s) :
    OnlyChanges L a0 (State.openClock s a) := by
  unfold State.openClock; simp (maxDischargeDepth := 40) +contextual [*]
@[simp] theorem State.captureHi_Only {L : List Part} {a0 : State} (s : State) (a : Nat) (h_reg : Part.reg ∈ L) (hf : OnlyChanges L a0 s) :
    OnlyChanges L a0 (State.captureHi s a) := by
  unfold State.captureHi; (repeat' split) <;> simp (maxDischargeDepth := 40) +contextual [*]
@[simp] theorem State.regRead_Only {L : List Part} {a0 : State} (s : State) (a : Nat) (h_reg : Part.reg ∈ L) (h_ltn : Part.ltn ∈ L) (hf : OnlyChanges L a0 s) :
    OnlyChanges L a0 (State.regRead s a).1 := by
  unfold State.regRead; (repeat' split) <;> simp (maxDischargeDepth := 40) +contextual [*]
theorem State.regRead_Only' {L : List Part} {a0 : State} (s : State) (a : Nat) (h_reg : Part.reg ∈ L) (h_ltn : Part.ltn ∈ L) (hf : OnlyChanges L a0 s) {t0 : State} {y0 : Word × Byte}
    (ht : State.regRead s a = (t0, y0)) : OnlyChanges L a0 t0 := by
  have h0 := State.regRead_Only (L := L) s a h_reg h_ltn hf; rw [ht] at h0; exact h0
@[simp] theorem State.plainWrite_Only {L : List Part} {a0 : State} (s : State) (r : RegRow) (a : Nat) (v : Word) (h_reg : Part.reg ∈ L) (h_irq : Part.irq ∈ L) (hf : OnlyChanges L a0 s) :
    OnlyChanges L a0 (State.plainWrite s r a v).1 := by
  unfold State.plainWrite; simp (maxDischargeDepth := 40) +contextual [*]
theorem State.plainWrite_Only' {L : List Part} {a0 : State} (s : State) (r : RegRow) (a : Nat) (v : Word) (h_reg : Part.reg ∈ L) (h_irq : Part.irq ∈ L) (hf : OnlyChanges L a0 s) {t0 : State} {y0 : Byte}
    (ht : State.plainWrite s r a v = (t0, y0)) : OnlyChanges L a0 t0 := by
  have h0 := State.plainWrite_Only (L := L) s r a v h_reg h_irq hf; rw [ht] at h0; exact h0
@[simp] theorem State.stepConfig_Only {L : List Part} {a : State} (s : State) (b which : Nat) (v : Word) (h_reg : Part.reg ∈ L) (hf : OnlyChanges L a s) :
    OnlyChanges L a (State.stepConfig s b which v).1 := by
  unfold State.stepConfig; simp (maxDischargeDepth := 40) +contextual [*]
theorem State.stepConfig_Only' {L : List Part} {a : State} (s : State) (b which : Nat) (v : Word) (h_reg : Part.reg ∈ L) (hf : OnlyChanges L a s) {t0 : State} {y0 : Byte}
    (ht : State.stepConfig s b which v = (t0, y0)) : OnlyChanges L a t0 := by
  have h0 := State.stepConfig_Only (L := L) s b which v h_reg hf; rw [ht] at h0; exact h0
@[simp] theorem State.actWrite_Only {L : List Part} {a : State} (s : State) (f : Nat) (lead : Bool) (v : Word) (h_reg : Part.reg ∈ L) (h_cnv : Part.cnv ∈ L) (hf : OnlyChanges L a s) :
    OnlyChanges L a (State.actWrite s f lead v).1 := by
  unfold State.actWrite; simp (maxDischargeDepth := 40) +contextual [*]
theorem State.actWrite_Only' {L : List Part} {a : State} (s : State) (f : Nat) (lead : Bool) (v : Word) (h_reg : Part.reg ∈ L) (h_cnv : Part.cnv ∈ L) (hf : OnlyChanges L a s) {t0 : State} {y0 : Byte}
    (ht : State.actWrite s f lead v = (t0, y0)) : OnlyChanges L a t0 := by
  have h0 := State.actWrite_Only (L := L) s f lead v h_reg h_cnv hf; rw [ht] at h0; exact h0
@[simp] theorem State.portDown_Only {L : List Part} {a : State} (s : State) (p : Nat) (h_reg : Part.reg ∈ L) (hf : OnlyChanges L a s) :
    OnlyChanges L a (State.portDown s p) := by
  unfold State.portDown; simp (maxDischargeDepth := 40) +contextual [*]
@[simp] theorem State.portMode_Only {L : List Part} {a : State} (s : State) (p mode : Nat) (h_reg : Part.reg ∈ L) (hf : OnlyChanges L a s) :
    OnlyChanges L a (State.portMode s p mode).1 := by
  unfold State.portMode; simp (maxDischargeDepth := 40) +contextual [*]
theorem State.portMode_Only' {L : List Part} {a : State} (s : State) (p mode : Nat) (h_reg : Part.reg ∈ L) (hf : OnlyChanges L a s) {t0 : State} {y0 : Byte}
    (ht : State.portMode s p mode = (t0, y0)) : OnlyChanges L a t0 := by
  have h0 := State.portMode_Only (L := L) s p mode h_reg hf; rw [ht] at h0; exact h0
@[simp] theorem State.circWrite_Only {L : List Part} {a : State} (s : State) (c which : Nat) (v : Word) (h_reg : Part.reg ∈ L) (hf : OnlyChanges L a s) :
    OnlyChanges L a (State.circWrite s c which v).1 := by
  unfold State.circWrite; simp (maxDischargeDepth := 40) +contextual [*]
theorem State.circWrite_Only' {L : List Part} {a : State} (s : State) (c which : Nat) (v : Word) (h_reg : Part.reg ∈ L) (hf : OnlyChanges L a s) {t0 : State} {y0 : Byte}
    (ht : State.circWrite s c which v = (t0, y0)) : OnlyChanges L a t0 := by
  have h0 := State.circWrite_Only (L := L) s c which v h_reg hf; rw [ht] at h0; exact h0
@[simp] theorem State.queueCtrl_Only {L : List Part} {a : State} (s : State) (q : Nat) (v : Word) (h_reg : Part.reg ∈ L) (h_cmd : Part.cmd ∈ L) (h_syn : Part.syn ∈ L) (h_fab : Part.fab ∈ L) (h_eth : Part.eth ∈ L) (h_gov : Part.gov ∈ L) (h_irq : Part.irq ∈ L) (h_ptb : Part.ptb ∈ L) (h_out : Part.out ∈ L) (h_free : Part.free ∈ L) (hf : OnlyChanges L a s) :
    OnlyChanges L a (State.queueCtrl s q v).1 := by
  unfold State.queueCtrl; simp (maxDischargeDepth := 40) +contextual [*]
theorem State.queueCtrl_Only' {L : List Part} {a : State} (s : State) (q : Nat) (v : Word) (h_reg : Part.reg ∈ L) (h_cmd : Part.cmd ∈ L) (h_syn : Part.syn ∈ L) (h_fab : Part.fab ∈ L) (h_eth : Part.eth ∈ L) (h_gov : Part.gov ∈ L) (h_irq : Part.irq ∈ L) (h_ptb : Part.ptb ∈ L) (h_out : Part.out ∈ L) (h_free : Part.free ∈ L) (hf : OnlyChanges L a s) {t0 : State} {y0 : Byte}
    (ht : State.queueCtrl s q v = (t0, y0)) : OnlyChanges L a t0 := by
  have h0 := State.queueCtrl_Only (L := L) s q v h_reg h_cmd h_syn h_fab h_eth h_gov h_irq h_ptb h_out h_free hf; rw [ht] at h0; exact h0
@[simp] theorem State.timerReg_Only {L : List Part} {a0 : State} (s : State) (a : Nat) (v : Word) (r : RegRow) (h_reg : Part.reg ∈ L) (h_irq : Part.irq ∈ L) (h_tmr : Part.tmr ∈ L) (hf : OnlyChanges L a0 s) :
    OnlyChanges L a0 (State.timerReg s a v r).1 := by
  unfold State.timerReg; simp (maxDischargeDepth := 40) +contextual [*]
theorem State.timerReg_Only' {L : List Part} {a0 : State} (s : State) (a : Nat) (v : Word) (r : RegRow) (h_reg : Part.reg ∈ L) (h_irq : Part.irq ∈ L) (h_tmr : Part.tmr ∈ L) (hf : OnlyChanges L a0 s) {t0 : State} {y0 : Byte}
    (ht : State.timerReg s a v r = (t0, y0)) : OnlyChanges L a0 t0 := by
  have h0 := State.timerReg_Only (L := L) s a v r h_reg h_irq h_tmr hf; rw [ht] at h0; exact h0
@[simp] theorem State.psctrl_Only {L : List Part} {a : State} (s : State) (v : Word) (h_fuses : Part.fuses ∈ L) (h_reg : Part.reg ∈ L) (h_mem : Part.mem ∈ L) (h_cmd : Part.cmd ∈ L) (h_core : Part.core ∈ L) (h_rtr : Part.rtr ∈ L) (h_sys : Part.sys ∈ L) (h_cnv : Part.cnv ∈ L) (h_syn : Part.syn ∈ L) (h_fab : Part.fab ∈ L) (h_eth : Part.eth ∈ L) (h_gov : Part.gov ∈ L) (h_ltn : Part.ltn ∈ L) (h_kpr : Part.kpr ∈ L) (h_irq : Part.irq ∈ L) (h_tmr : Part.tmr ∈ L) (h_sec : Part.sec ∈ L) (h_ptb : Part.ptb ∈ L) (h_dead : Part.dead ∈ L) (h_out : Part.out ∈ L) (h_free : Part.free ∈ L) (hf : OnlyChanges L a s) :
    OnlyChanges L a (State.psctrl s v).1 := by
  unfold State.psctrl; simp (maxDischargeDepth := 40) +contextual [*]
theorem State.psctrl_Only' {L : List Part} {a : State} (s : State) (v : Word) (h_fuses : Part.fuses ∈ L) (h_reg : Part.reg ∈ L) (h_mem : Part.mem ∈ L) (h_cmd : Part.cmd ∈ L) (h_core : Part.core ∈ L) (h_rtr : Part.rtr ∈ L) (h_sys : Part.sys ∈ L) (h_cnv : Part.cnv ∈ L) (h_syn : Part.syn ∈ L) (h_fab : Part.fab ∈ L) (h_eth : Part.eth ∈ L) (h_gov : Part.gov ∈ L) (h_ltn : Part.ltn ∈ L) (h_kpr : Part.kpr ∈ L) (h_irq : Part.irq ∈ L) (h_tmr : Part.tmr ∈ L) (h_sec : Part.sec ∈ L) (h_ptb : Part.ptb ∈ L) (h_dead : Part.dead ∈ L) (h_out : Part.out ∈ L) (h_free : Part.free ∈ L) (hf : OnlyChanges L a s) {t0 : State} {y0 : Byte}
    (ht : State.psctrl s v = (t0, y0)) : OnlyChanges L a t0 := by
  have h0 := State.psctrl_Only (L := L) s v h_fuses h_reg h_mem h_cmd h_core h_rtr h_sys h_cnv h_syn h_fab h_eth h_gov h_ltn h_kpr h_irq h_tmr h_sec h_ptb h_dead h_out h_free hf; rw [ht] at h0; exact h0
@[simp] theorem State.ethWrite_Only {L : List Part} {a0 : State} (s : State) (r : RegRow) (a : Nat) (v : Word) (h_reg : Part.reg ∈ L) (h_eth : Part.eth ∈ L) (h_irq : Part.irq ∈ L) (hf : OnlyChanges L a0 s) :
    OnlyChanges L a0 (State.ethWrite s r a v).1 := by
  unfold State.ethWrite; simp (maxDischargeDepth := 40) +contextual [*]
theorem State.ethWrite_Only' {L : List Part} {a0 : State} (s : State) (r : RegRow) (a : Nat) (v : Word) (h_reg : Part.reg ∈ L) (h_eth : Part.eth ∈ L) (h_irq : Part.irq ∈ L) (hf : OnlyChanges L a0 s) {t0 : State} {y0 : Byte}
    (ht : State.ethWrite s r a v = (t0, y0)) : OnlyChanges L a0 t0 := by
  have h0 := State.ethWrite_Only (L := L) s r a v h_reg h_eth h_irq hf; rw [ht] at h0; exact h0
@[simp] theorem State.ptbWrite_Only {L : List Part} {a0 : State} (s : State) (r : RegRow) (a : Nat) (v : Word) (h_reg : Part.reg ∈ L) (h_irq : Part.irq ∈ L) (hf : OnlyChanges L a0 s) :
    OnlyChanges L a0 (State.ptbWrite s r a v).1 := by
  unfold State.ptbWrite; simp (maxDischargeDepth := 40) +contextual [*]
theorem State.ptbWrite_Only' {L : List Part} {a0 : State} (s : State) (r : RegRow) (a : Nat) (v : Word) (h_reg : Part.reg ∈ L) (h_irq : Part.irq ∈ L) (hf : OnlyChanges L a0 s) {t0 : State} {y0 : Byte}
    (ht : State.ptbWrite s r a v = (t0, y0)) : OnlyChanges L a0 t0 := by
  have h0 := State.ptbWrite_Only (L := L) s r a v h_reg h_irq hf; rw [ht] at h0; exact h0
@[simp] theorem State.pgvCtrlWrite_Only {L : List Part} {a : State} (s : State) (r : RegRow) (v : Word) (h_reg : Part.reg ∈ L) (h_irq : Part.irq ∈ L) (hf : OnlyChanges L a s) :
    OnlyChanges L a (State.pgvCtrlWrite s r v).1 := by
  unfold State.pgvCtrlWrite; simp (maxDischargeDepth := 40) +contextual [*]
theorem State.pgvCtrlWrite_Only' {L : List Part} {a : State} (s : State) (r : RegRow) (v : Word) (h_reg : Part.reg ∈ L) (h_irq : Part.irq ∈ L) (hf : OnlyChanges L a s) {t0 : State} {y0 : Byte}
    (ht : State.pgvCtrlWrite s r v = (t0, y0)) : OnlyChanges L a t0 := by
  have h0 := State.pgvCtrlWrite_Only (L := L) s r v h_reg h_irq hf; rw [ht] at h0; exact h0
@[simp] theorem State.writeRest_Only {L : List Part} {a0 : State} (s : State) (r : RegRow) (a : Nat) (v : Word) (h_fuses : Part.fuses ∈ L) (h_reg : Part.reg ∈ L) (h_mem : Part.mem ∈ L) (h_cmd : Part.cmd ∈ L) (h_core : Part.core ∈ L) (h_rtr : Part.rtr ∈ L) (h_sys : Part.sys ∈ L) (h_cnv : Part.cnv ∈ L) (h_syn : Part.syn ∈ L) (h_fab : Part.fab ∈ L) (h_eth : Part.eth ∈ L) (h_gov : Part.gov ∈ L) (h_ltn : Part.ltn ∈ L) (h_kpr : Part.kpr ∈ L) (h_irq : Part.irq ∈ L) (h_tmr : Part.tmr ∈ L) (h_sec : Part.sec ∈ L) (h_ptb : Part.ptb ∈ L) (h_dead : Part.dead ∈ L) (h_out : Part.out ∈ L) (h_free : Part.free ∈ L) (hf : OnlyChanges L a0 s) :
    OnlyChanges L a0 (State.writeRest s r a v).1 := by
  unfold State.writeRest; simp (maxDischargeDepth := 40) +contextual [*]
theorem State.writeRest_Only' {L : List Part} {a0 : State} (s : State) (r : RegRow) (a : Nat) (v : Word) (h_fuses : Part.fuses ∈ L) (h_reg : Part.reg ∈ L) (h_mem : Part.mem ∈ L) (h_cmd : Part.cmd ∈ L) (h_core : Part.core ∈ L) (h_rtr : Part.rtr ∈ L) (h_sys : Part.sys ∈ L) (h_cnv : Part.cnv ∈ L) (h_syn : Part.syn ∈ L) (h_fab : Part.fab ∈ L) (h_eth : Part.eth ∈ L) (h_gov : Part.gov ∈ L) (h_ltn : Part.ltn ∈ L) (h_kpr : Part.kpr ∈ L) (h_irq : Part.irq ∈ L) (h_tmr : Part.tmr ∈ L) (h_sec : Part.sec ∈ L) (h_ptb : Part.ptb ∈ L) (h_dead : Part.dead ∈ L) (h_out : Part.out ∈ L) (h_free : Part.free ∈ L) (hf : OnlyChanges L a0 s) {t0 : State} {y0 : Byte}
    (ht : State.writeRest s r a v = (t0, y0)) : OnlyChanges L a0 t0 := by
  have h0 := State.writeRest_Only (L := L) s r a v h_fuses h_reg h_mem h_cmd h_core h_rtr h_sys h_cnv h_syn h_fab h_eth h_gov h_ltn h_kpr h_irq h_tmr h_sec h_ptb h_dead h_out h_free hf; rw [ht] at h0; exact h0
@[simp] theorem State.writeUnits_Only {L : List Part} {a0 : State} (s : State) (r : RegRow) (a : Nat) (v : Word) (h_fuses : Part.fuses ∈ L) (h_reg : Part.reg ∈ L) (h_mem : Part.mem ∈ L) (h_cmd : Part.cmd ∈ L) (h_core : Part.core ∈ L) (h_rtr : Part.rtr ∈ L) (h_sys : Part.sys ∈ L) (h_cnv : Part.cnv ∈ L) (h_syn : Part.syn ∈ L) (h_fab : Part.fab ∈ L) (h_eth : Part.eth ∈ L) (h_gov : Part.gov ∈ L) (h_ltn : Part.ltn ∈ L) (h_kpr : Part.kpr ∈ L) (h_irq : Part.irq ∈ L) (h_tmr : Part.tmr ∈ L) (h_sec : Part.sec ∈ L) (h_ptb : Part.ptb ∈ L) (h_dead : Part.dead ∈ L) (h_out : Part.out ∈ L) (h_free : Part.free ∈ L) (hf : OnlyChanges L a0 s) :
    OnlyChanges L a0 (State.writeUnits s r a v).1 := by
  unfold State.writeUnits; simp (maxDischargeDepth := 40) +contextual [*]
theorem State.writeUnits_Only' {L : List Part} {a0 : State} (s : State) (r : RegRow) (a : Nat) (v : Word) (h_fuses : Part.fuses ∈ L) (h_reg : Part.reg ∈ L) (h_mem : Part.mem ∈ L) (h_cmd : Part.cmd ∈ L) (h_core : Part.core ∈ L) (h_rtr : Part.rtr ∈ L) (h_sys : Part.sys ∈ L) (h_cnv : Part.cnv ∈ L) (h_syn : Part.syn ∈ L) (h_fab : Part.fab ∈ L) (h_eth : Part.eth ∈ L) (h_gov : Part.gov ∈ L) (h_ltn : Part.ltn ∈ L) (h_kpr : Part.kpr ∈ L) (h_irq : Part.irq ∈ L) (h_tmr : Part.tmr ∈ L) (h_sec : Part.sec ∈ L) (h_ptb : Part.ptb ∈ L) (h_dead : Part.dead ∈ L) (h_out : Part.out ∈ L) (h_free : Part.free ∈ L) (hf : OnlyChanges L a0 s) {t0 : State} {y0 : Byte}
    (ht : State.writeUnits s r a v = (t0, y0)) : OnlyChanges L a0 t0 := by
  have h0 := State.writeUnits_Only (L := L) s r a v h_fuses h_reg h_mem h_cmd h_core h_rtr h_sys h_cnv h_syn h_fab h_eth h_gov h_ltn h_kpr h_irq h_tmr h_sec h_ptb h_dead h_out h_free hf; rw [ht] at h0; exact h0
@[simp] theorem State.writeEffect_Only {L : List Part} {a0 : State} (s : State) (r : RegRow) (a : Nat) (v : Word) (h_fuses : Part.fuses ∈ L) (h_reg : Part.reg ∈ L) (h_mem : Part.mem ∈ L) (h_cmd : Part.cmd ∈ L) (h_core : Part.core ∈ L) (h_rtr : Part.rtr ∈ L) (h_sys : Part.sys ∈ L) (h_cnv : Part.cnv ∈ L) (h_syn : Part.syn ∈ L) (h_fab : Part.fab ∈ L) (h_eth : Part.eth ∈ L) (h_gov : Part.gov ∈ L) (h_ltn : Part.ltn ∈ L) (h_kpr : Part.kpr ∈ L) (h_irq : Part.irq ∈ L) (h_tmr : Part.tmr ∈ L) (h_sec : Part.sec ∈ L) (h_ptb : Part.ptb ∈ L) (h_dead : Part.dead ∈ L) (h_out : Part.out ∈ L) (h_free : Part.free ∈ L) (hf : OnlyChanges L a0 s) :
    OnlyChanges L a0 (State.writeEffect s r a v).1 := by
  unfold State.writeEffect
  refine OnlyChanges.iteI (fun _ => hf) (fun _ => ?_)
  refine OnlyChanges.iteI (fun _ => ?_) (fun _ => ?_)
  · apply State.stepConfig_Only <;> assumption
  refine OnlyChanges.iteI (fun _ => ?_) (fun _ => ?_)
  · show OnlyChanges L a0 (if bitOf v 0 then _ else _)
    split
    · apply State.inboxPop_Only <;> assumption
    · exact hf
  refine OnlyChanges.iteI (fun _ => ?_) (fun _ => ?_)
  · refine OnlyChanges.iteI (fun _ => hf) (fun _ => ?_)
    apply State.rsetField_Only <;> assumption
  refine OnlyChanges.iteI (fun _ => ?_) (fun _ => ?_)
  · apply State.linkDisable_Only <;> assumption
  refine OnlyChanges.iteI (fun _ => ?_) (fun _ => ?_)
  · refine OnlyChanges.iteI (fun _ => ?_) (fun _ => hf)
    apply State.retireReq_Only <;> assumption
  refine OnlyChanges.iteI (fun _ => ?_) (fun _ => ?_)
  · apply State.circWrite_Only <;> assumption
  apply State.writeUnits_Only <;> assumption
theorem State.writeEffect_Only' {L : List Part} {a0 : State} (s : State) (r : RegRow) (a : Nat) (v : Word) (h_fuses : Part.fuses ∈ L) (h_reg : Part.reg ∈ L) (h_mem : Part.mem ∈ L) (h_cmd : Part.cmd ∈ L) (h_core : Part.core ∈ L) (h_rtr : Part.rtr ∈ L) (h_sys : Part.sys ∈ L) (h_cnv : Part.cnv ∈ L) (h_syn : Part.syn ∈ L) (h_fab : Part.fab ∈ L) (h_eth : Part.eth ∈ L) (h_gov : Part.gov ∈ L) (h_ltn : Part.ltn ∈ L) (h_kpr : Part.kpr ∈ L) (h_irq : Part.irq ∈ L) (h_tmr : Part.tmr ∈ L) (h_sec : Part.sec ∈ L) (h_ptb : Part.ptb ∈ L) (h_dead : Part.dead ∈ L) (h_out : Part.out ∈ L) (h_free : Part.free ∈ L) (hf : OnlyChanges L a0 s) {t0 : State} {y0 : Byte}
    (ht : State.writeEffect s r a v = (t0, y0)) : OnlyChanges L a0 t0 := by
  have h0 := State.writeEffect_Only (L := L) s r a v h_fuses h_reg h_mem h_cmd h_core h_rtr h_sys h_cnv h_syn h_fab h_eth h_gov h_ltn h_kpr h_irq h_tmr h_sec h_ptb h_dead h_out h_free hf; rw [ht] at h0; exact h0
@[simp] theorem State.regWrite_Only {L : List Part} {a0 : State} (s : State) (a : Nat) (v : Word) (h_fuses : Part.fuses ∈ L) (h_reg : Part.reg ∈ L) (h_mem : Part.mem ∈ L) (h_cmd : Part.cmd ∈ L) (h_core : Part.core ∈ L) (h_rtr : Part.rtr ∈ L) (h_sys : Part.sys ∈ L) (h_cnv : Part.cnv ∈ L) (h_syn : Part.syn ∈ L) (h_fab : Part.fab ∈ L) (h_eth : Part.eth ∈ L) (h_gov : Part.gov ∈ L) (h_ltn : Part.ltn ∈ L) (h_kpr : Part.kpr ∈ L) (h_irq : Part.irq ∈ L) (h_tmr : Part.tmr ∈ L) (h_sec : Part.sec ∈ L) (h_ptb : Part.ptb ∈ L) (h_dead : Part.dead ∈ L) (h_out : Part.out ∈ L) (h_free : Part.free ∈ L) (hf : OnlyChanges L a0 s) :
    OnlyChanges L a0 (State.regWrite s a v).1 := by
  unfold State.regWrite; (repeat' split) <;> simp (maxDischargeDepth := 40) +contextual [*]
theorem State.regWrite_Only' {L : List Part} {a0 : State} (s : State) (a : Nat) (v : Word) (h_fuses : Part.fuses ∈ L) (h_reg : Part.reg ∈ L) (h_mem : Part.mem ∈ L) (h_cmd : Part.cmd ∈ L) (h_core : Part.core ∈ L) (h_rtr : Part.rtr ∈ L) (h_sys : Part.sys ∈ L) (h_cnv : Part.cnv ∈ L) (h_syn : Part.syn ∈ L) (h_fab : Part.fab ∈ L) (h_eth : Part.eth ∈ L) (h_gov : Part.gov ∈ L) (h_ltn : Part.ltn ∈ L) (h_kpr : Part.kpr ∈ L) (h_irq : Part.irq ∈ L) (h_tmr : Part.tmr ∈ L) (h_sec : Part.sec ∈ L) (h_ptb : Part.ptb ∈ L) (h_dead : Part.dead ∈ L) (h_out : Part.out ∈ L) (h_free : Part.free ∈ L) (hf : OnlyChanges L a0 s) {t0 : State} {y0 : Byte}
    (ht : State.regWrite s a v = (t0, y0)) : OnlyChanges L a0 t0 := by
  have h0 := State.regWrite_Only (L := L) s a v h_fuses h_reg h_mem h_cmd h_core h_rtr h_sys h_cnv h_syn h_fab h_eth h_gov h_ltn h_kpr h_irq h_tmr h_sec h_ptb h_dead h_out h_free hf; rw [ht] at h0; exact h0
@[simp] theorem State.readAll_Only {L : List Part} {a : State} (s : State) (l : List Word) (h_reg : Part.reg ∈ L) (h_ltn : Part.ltn ∈ L) (hf : OnlyChanges L a s) : OnlyChanges L a (s.readAll l).1 := by
  induction l generalizing s with
  | nil => exact hf
  | cons x r ih =>
    have h1 := State.regRead_Only (L := L) s x.toNat h_reg h_ltn hf
    exact ih _ h1
@[simp] theorem State.writeAll_Only {L : List Part} {a : State} (s : State) (l : List (Word × Word)) (h_fuses : Part.fuses ∈ L) (h_reg : Part.reg ∈ L) (h_mem : Part.mem ∈ L) (h_cmd : Part.cmd ∈ L) (h_core : Part.core ∈ L) (h_rtr : Part.rtr ∈ L) (h_sys : Part.sys ∈ L) (h_cnv : Part.cnv ∈ L) (h_syn : Part.syn ∈ L) (h_fab : Part.fab ∈ L) (h_eth : Part.eth ∈ L) (h_gov : Part.gov ∈ L) (h_ltn : Part.ltn ∈ L) (h_kpr : Part.kpr ∈ L) (h_irq : Part.irq ∈ L) (h_tmr : Part.tmr ∈ L) (h_sec : Part.sec ∈ L) (h_ptb : Part.ptb ∈ L) (h_dead : Part.dead ∈ L) (h_out : Part.out ∈ L) (h_free : Part.free ∈ L) (hf : OnlyChanges L a s) : OnlyChanges L a (s.writeAll l).1 := by
  induction l generalizing s with
  | nil => exact hf
  | cons x r ih =>
    have h1 := State.regWrite_Only (L := L) s x.1.toNat x.2 h_fuses h_reg h_mem h_cmd h_core h_rtr h_sys h_cnv h_syn h_fab h_eth h_gov h_ltn h_kpr h_irq h_tmr h_sec h_ptb h_dead h_out h_free hf
    exact ih _ h1
@[simp] theorem State.regrd_Only {L : List Part} {a : State} (s : State) (l : List Word) (h_reg : Part.reg ∈ L) (h_fab : Part.fab ∈ L) (h_eth : Part.eth ∈ L) (h_gov : Part.gov ∈ L) (h_ltn : Part.ltn ∈ L) (h_irq : Part.irq ∈ L) (h_ptb : Part.ptb ∈ L) (h_out : Part.out ∈ L) (h_free : Part.free ∈ L) (hf : OnlyChanges L a s) :
    OnlyChanges L a (State.regrd s l) := by
  unfold State.regrd; simp (maxDischargeDepth := 40) +contextual [*]
@[simp] theorem State.regwr_Only {L : List Part} {a : State} (s : State) (l : List (Word × Word)) (h_fuses : Part.fuses ∈ L) (h_reg : Part.reg ∈ L) (h_mem : Part.mem ∈ L) (h_cmd : Part.cmd ∈ L) (h_core : Part.core ∈ L) (h_rtr : Part.rtr ∈ L) (h_sys : Part.sys ∈ L) (h_cnv : Part.cnv ∈ L) (h_syn : Part.syn ∈ L) (h_fab : Part.fab ∈ L) (h_eth : Part.eth ∈ L) (h_gov : Part.gov ∈ L) (h_ltn : Part.ltn ∈ L) (h_kpr : Part.kpr ∈ L) (h_irq : Part.irq ∈ L) (h_tmr : Part.tmr ∈ L) (h_sec : Part.sec ∈ L) (h_ptb : Part.ptb ∈ L) (h_dead : Part.dead ∈ L) (h_out : Part.out ∈ L) (h_free : Part.free ∈ L) (hf : OnlyChanges L a s) :
    OnlyChanges L a (State.regwr s l) := by
  unfold State.regwr; simp (maxDischargeDepth := 40) +contextual [*]
@[simp] theorem State.loRead_Only {L : List Part} {a0 : State} (s : State) (a : Word) (h_reg : Part.reg ∈ L) (h_fab : Part.fab ∈ L) (h_eth : Part.eth ∈ L) (h_gov : Part.gov ∈ L) (h_ltn : Part.ltn ∈ L) (h_irq : Part.irq ∈ L) (h_ptb : Part.ptb ∈ L) (h_out : Part.out ∈ L) (h_free : Part.free ∈ L) (hf : OnlyChanges L a0 s) :
    OnlyChanges L a0 (State.loRead s a) := by
  unfold State.loRead; simp (maxDischargeDepth := 40) +contextual [*]
@[simp] theorem State.readClear_Only {L : List Part} {a0 : State} (s : State) (a : Word) (h_reg : Part.reg ∈ L) (h_fab : Part.fab ∈ L) (h_eth : Part.eth ∈ L) (h_gov : Part.gov ∈ L) (h_ltn : Part.ltn ∈ L) (h_irq : Part.irq ∈ L) (h_ptb : Part.ptb ∈ L) (h_out : Part.out ∈ L) (h_free : Part.free ∈ L) (hf : OnlyChanges L a0 s) :
    OnlyChanges L a0 (State.readClear s a) := by
  unfold State.readClear; simp (maxDischargeDepth := 40) +contextual [*]

end Sys2Proof.Machine
end

