-- ==== Sys2Proof/Laws/Only/Wire.lean ====
section
/-! SUPPORT. Laws/Only/Wire.lean: what each operation of Machine/Wire.lean can do to the tables (its units). -/

namespace Sys2Proof.Machine



end Sys2Proof.Machine
end

