-- ==== Sys2Proof/Laws/Only/Transport.lean ====
section
/-! SUPPORT. Laws/Only/Transport.lean: what each operation of Machine/Transport.lean can do to the tables (its units). -/

namespace Sys2Proof.Machine

@[simp] theorem State.badHdr_Only {L : List Part} {a : State} (s : State) (h_reg : Part.reg ∈ L) (hf : OnlyChanges L a s) :
    OnlyChanges L a (State.badHdr s) := by
  unfold State.badHdr; simp (maxDischargeDepth := 40) +contextual [*]
@[simp] theorem State.endsAtPort_Only {L : List Part} {a : State} (s : State) (p : Nat) (h : EthHead) (as : Bool) (h_reg : Part.reg ∈ L) (hf : OnlyChanges L a s) :
    OptOnly L a (State.endsAtPort s p h as) := by
  unfold State.endsAtPort; simp (maxDischargeDepth := 40) +contextual [*]
@[simp] theorem State.ackUpTo_Only {L : List Part} {a : State} (s : State) (k : Nat) (ack : Word) (h_eth : Part.eth ∈ L) (h_out : Part.out ∈ L) (hf : OnlyChanges L a s) :
    OnlyChanges L a (State.ackUpTo s k ack) := by
  unfold State.ackUpTo; simp (maxDischargeDepth := 40) +contextual [*]
@[simp] theorem State.resend_Only {L : List Part} {a : State} (s : State) (k : Nat) (seq : Word) (h_reg : Part.reg ∈ L) (h_eth : Part.eth ∈ L) (h_irq : Part.irq ∈ L) (h_out : Part.out ∈ L) (hf : OnlyChanges L a s) :
    OnlyChanges L a (State.resend s k seq) := by
  unfold State.resend; simp only []; (repeat' (first | exact hf | (refine OnlyChanges.forAll ?_ _ ?_; intro s x h) | split)) <;> simp_all (maxDischargeDepth := 40) +contextual
@[simp] theorem State.sendAck_Only {L : List Part} {a : State} (s : State) (k : Nat) (h_reg : Part.reg ∈ L) (h_eth : Part.eth ∈ L) (h_irq : Part.irq ∈ L) (h_out : Part.out ∈ L) (hf : OnlyChanges L a s) :
    OnlyChanges L a (State.sendAck s k) := by
  unfold State.sendAck; simp (maxDischargeDepth := 40) +contextual [*]
@[simp] theorem State.ackFrame_Only {L : List Part} {a : State} (s : State) (k : Nat) (ack : Word) (missing : List Nat) (h_reg : Part.reg ∈ L) (h_eth : Part.eth ∈ L) (h_irq : Part.irq ∈ L) (h_out : Part.out ∈ L) (hf : OnlyChanges L a s) :
    OnlyChanges L a (State.ackFrame s k ack missing) := by
  unfold State.ackFrame; simp (maxDischargeDepth := 40) +contextual [*]
@[simp] theorem State.undelivered_Only {L : List Part} {a : State} (s : State) (dev stream sp : Nat) (seq : Word) (h_eth : Part.eth ∈ L) (h_out : Part.out ∈ L) (hf : OnlyChanges L a s) :
    OnlyChanges L a (State.undelivered s dev stream sp seq) := by
  unfold State.undelivered; simp (maxDischargeDepth := 40) +contextual [*]
@[simp] theorem State.frameOut_Only {L : List Part} {a : State} (n : Nat) (s : State) (f : TFrame) (l : List Word) (h_reg : Part.reg ∈ L) (h_fab : Part.fab ∈ L) (h_eth : Part.eth ∈ L) (h_gov : Part.gov ∈ L) (h_irq : Part.irq ∈ L) (h_ptb : Part.ptb ∈ L) (h_out : Part.out ∈ L) (h_free : Part.free ∈ L) (hf : OnlyChanges L a s) :
    OnlyChanges L a (State.frameOut n s f l) := by
  induction n generalizing s l with
  | zero => exact hf
  | succ n ih =>
    simp only [State.frameOut]
    split
    · simp (maxDischargeDepth := 40) +contextual [*]
    · exact ih _ _ (by simp (maxDischargeDepth := 40) +contextual [*])
@[simp] theorem State.frameForward_Only {L : List Part} {a : State} (s : State) (f : TFrame) (h_reg : Part.reg ∈ L) (h_fab : Part.fab ∈ L) (h_eth : Part.eth ∈ L) (h_gov : Part.gov ∈ L) (h_irq : Part.irq ∈ L) (h_ptb : Part.ptb ∈ L) (h_out : Part.out ∈ L) (h_free : Part.free ∈ L) (hf : OnlyChanges L a s) :
    OnlyChanges L a (State.frameForward s f) := by
  unfold State.frameForward; simp (maxDischargeDepth := 40) +contextual [*]
@[simp] theorem State.cmdWords_Only {L : List Part} {a : State} (s : State) (stream : BitVec 8) (ws : List Word64) (h_reg : Part.reg ∈ L) (h_mem : Part.mem ∈ L) (h_cmd : Part.cmd ∈ L) (h_core : Part.core ∈ L) (h_rtr : Part.rtr ∈ L) (h_cnv : Part.cnv ∈ L) (h_syn : Part.syn ∈ L) (h_fab : Part.fab ∈ L) (h_eth : Part.eth ∈ L) (h_gov : Part.gov ∈ L) (h_kpr : Part.kpr ∈ L) (h_irq : Part.irq ∈ L) (h_tmr : Part.tmr ∈ L) (h_ptb : Part.ptb ∈ L) (h_out : Part.out ∈ L) (h_free : Part.free ∈ L) (hf : OnlyChanges L a s) :
    OnlyChanges L a (State.cmdWords s stream ws) := by
  unfold State.cmdWords; simp (maxDischargeDepth := 40) +contextual [*]
@[simp] theorem State.placeData_Only {L : List Part} {a : State} (s : State) (stream : BitVec 8) (tag off : Word) (l : List Byte) (h_cmd : Part.cmd ∈ L) (hf : OnlyChanges L a s) :
    OnlyChanges L a (State.placeData s stream tag off l) := by
  unfold State.placeData; simp (maxDischargeDepth := 40) +contextual [*]
@[simp] theorem State.deliver_Only {L : List Part} {a : State} (s : State) (k : Nat) (f : TFrame) (h_fuses : Part.fuses ∈ L) (h_reg : Part.reg ∈ L) (h_mem : Part.mem ∈ L) (h_cmd : Part.cmd ∈ L) (h_core : Part.core ∈ L) (h_rtr : Part.rtr ∈ L) (h_sys : Part.sys ∈ L) (h_cnv : Part.cnv ∈ L) (h_syn : Part.syn ∈ L) (h_fab : Part.fab ∈ L) (h_eth : Part.eth ∈ L) (h_gov : Part.gov ∈ L) (h_ltn : Part.ltn ∈ L) (h_kpr : Part.kpr ∈ L) (h_irq : Part.irq ∈ L) (h_tmr : Part.tmr ∈ L) (h_sec : Part.sec ∈ L) (h_ptb : Part.ptb ∈ L) (h_dead : Part.dead ∈ L) (h_out : Part.out ∈ L) (h_free : Part.free ∈ L) (hf : OnlyChanges L a s) :
    OnlyChanges L a (State.deliver s k f) := by
  unfold State.deliver; simp (maxDischargeDepth := 40) +contextual [*]
@[simp] theorem State.deliverAll_Only {L : List Part} {a : State} (n : Nat) (s : State) (k : Nat) (h_fuses : Part.fuses ∈ L) (h_reg : Part.reg ∈ L) (h_mem : Part.mem ∈ L) (h_cmd : Part.cmd ∈ L) (h_core : Part.core ∈ L) (h_rtr : Part.rtr ∈ L) (h_sys : Part.sys ∈ L) (h_cnv : Part.cnv ∈ L) (h_syn : Part.syn ∈ L) (h_fab : Part.fab ∈ L) (h_eth : Part.eth ∈ L) (h_gov : Part.gov ∈ L) (h_ltn : Part.ltn ∈ L) (h_kpr : Part.kpr ∈ L) (h_irq : Part.irq ∈ L) (h_tmr : Part.tmr ∈ L) (h_sec : Part.sec ∈ L) (h_ptb : Part.ptb ∈ L) (h_dead : Part.dead ∈ L) (h_out : Part.out ∈ L) (h_free : Part.free ∈ L) (hf : OnlyChanges L a s) : OnlyChanges L a (State.deliverAll n s k) := by
  induction n generalizing s with
  | zero => exact hf
  | succ n ih =>
    simp only [State.deliverAll]
    split
    · exact hf
    · exact ih _ (by simp (maxDischargeDepth := 40) +contextual [*])
@[simp] theorem State.hostKnown_Only {L : List Part} {a : State} (s : State) (host : HostTo) (h_eth : Part.eth ∈ L) (h_out : Part.out ∈ L) (hf : OnlyChanges L a s) :
    OnlyChanges L a (State.hostKnown s host) := by
  unfold State.hostKnown; simp (maxDischargeDepth := 40) +contextual [*]
@[simp] theorem State.sequenced_Only {L : List Part} {a : State} (s : State) (k : Nat) (f : TFrame) (h_fuses : Part.fuses ∈ L) (h_reg : Part.reg ∈ L) (h_mem : Part.mem ∈ L) (h_cmd : Part.cmd ∈ L) (h_core : Part.core ∈ L) (h_rtr : Part.rtr ∈ L) (h_sys : Part.sys ∈ L) (h_cnv : Part.cnv ∈ L) (h_syn : Part.syn ∈ L) (h_fab : Part.fab ∈ L) (h_eth : Part.eth ∈ L) (h_gov : Part.gov ∈ L) (h_ltn : Part.ltn ∈ L) (h_kpr : Part.kpr ∈ L) (h_irq : Part.irq ∈ L) (h_tmr : Part.tmr ∈ L) (h_sec : Part.sec ∈ L) (h_ptb : Part.ptb ∈ L) (h_dead : Part.dead ∈ L) (h_out : Part.out ∈ L) (h_free : Part.free ∈ L) (hf : OnlyChanges L a s) :
    OnlyChanges L a (State.sequenced s k f) := by
  unfold State.sequenced; simp only []; (repeat' (first | exact hf | (refine OnlyChanges.forAll ?_ _ ?_; intro s x h) | split)) <;> simp_all (maxDischargeDepth := 40) +contextual
@[simp] theorem State.frameReceive_Only {L : List Part} {a : State} (s : State) (f : TFrame) (h_fuses : Part.fuses ∈ L) (h_reg : Part.reg ∈ L) (h_mem : Part.mem ∈ L) (h_cmd : Part.cmd ∈ L) (h_core : Part.core ∈ L) (h_rtr : Part.rtr ∈ L) (h_sys : Part.sys ∈ L) (h_cnv : Part.cnv ∈ L) (h_syn : Part.syn ∈ L) (h_fab : Part.fab ∈ L) (h_eth : Part.eth ∈ L) (h_gov : Part.gov ∈ L) (h_ltn : Part.ltn ∈ L) (h_kpr : Part.kpr ∈ L) (h_irq : Part.irq ∈ L) (h_tmr : Part.tmr ∈ L) (h_sec : Part.sec ∈ L) (h_ptb : Part.ptb ∈ L) (h_dead : Part.dead ∈ L) (h_out : Part.out ∈ L) (h_free : Part.free ∈ L) (hf : OnlyChanges L a s) :
    OnlyChanges L a (State.frameReceive s f) := by
  unfold State.frameReceive
  extract_lets p sp k s1
  have h1 : OnlyChanges L a s1 := by
    simp only [s1]; split
    · simp (maxDischargeDepth := 40) +contextual [*]
    · exact hf
  clear_value s1 k sp p
  split
  · rename_i t he
    exact State.endsAtPort_Only _ _ _ _ h_reg hf t he
  · by_cases c1 : s.frameRoom p < f.payload.length
    · rw [if_pos c1]; exact hf
    · rw [if_neg c1]
      by_cases c2 : (!frameOk f) = true
      · rw [if_pos c2]; simp (maxDischargeDepth := 40) +contextual [*]
      · rw [if_neg c2]
        by_cases c3 : f.space = 2
        · rw [if_pos c3]; split
          · simp (maxDischargeDepth := 40) +contextual [*]
          · exact hf
        · rw [if_neg c3]; split
          · simp (maxDischargeDepth := 40) +contextual [*]
          · split
            · simp (maxDischargeDepth := 40) +contextual [*]
            · simp (maxDischargeDepth := 40) +contextual [*]
@[simp] theorem State.cmdFrame_Only {L : List Part} {a : State} (s : State) (stream : BitVec 8) (bytes : Nat) (ws : List Word64) (h_reg : Part.reg ∈ L) (h_mem : Part.mem ∈ L) (h_cmd : Part.cmd ∈ L) (h_core : Part.core ∈ L) (h_rtr : Part.rtr ∈ L) (h_cnv : Part.cnv ∈ L) (h_syn : Part.syn ∈ L) (h_fab : Part.fab ∈ L) (h_eth : Part.eth ∈ L) (h_gov : Part.gov ∈ L) (h_kpr : Part.kpr ∈ L) (h_irq : Part.irq ∈ L) (h_tmr : Part.tmr ∈ L) (h_ptb : Part.ptb ∈ L) (h_out : Part.out ∈ L) (h_free : Part.free ∈ L) (hf : OnlyChanges L a s) :
    OnlyChanges L a (State.cmdFrame s stream bytes ws) := by
  unfold State.cmdFrame; simp (maxDischargeDepth := 40) +contextual [*]
@[simp] theorem State.dataFrame_Only {L : List Part} {a : State} (s : State) (stream : BitVec 8) (expected : Bool) (tag off : Word) (l : List Byte) (h_reg : Part.reg ∈ L) (h_cmd : Part.cmd ∈ L) (hf : OnlyChanges L a s) :
    OnlyChanges L a (State.dataFrame s stream expected tag off l) := by
  unfold State.dataFrame; simp (maxDischargeDepth := 40) +contextual [*]
@[simp] theorem State.ackTimer_Only {L : List Part} {a : State} (s : State) (sp dev stream : Nat) (h_reg : Part.reg ∈ L) (h_eth : Part.eth ∈ L) (h_irq : Part.irq ∈ L) (h_out : Part.out ∈ L) (hf : OnlyChanges L a s) :
    OnlyChanges L a (State.ackTimer s sp dev stream) := by
  unfold State.ackTimer; simp (maxDischargeDepth := 40) +contextual [*]
@[simp] theorem State.flushCpls_Only {L : List Part} {a : State} (n : Nat) (s : State) (m : BitVec 8) (h_reg : Part.reg ∈ L) (h_cmd : Part.cmd ∈ L) (h_fab : Part.fab ∈ L) (h_eth : Part.eth ∈ L) (h_gov : Part.gov ∈ L) (h_irq : Part.irq ∈ L) (h_ptb : Part.ptb ∈ L) (h_out : Part.out ∈ L) (h_free : Part.free ∈ L) (hf : OnlyChanges L a s) :
    OnlyChanges L a (State.flushCpls n s m) := by
  induction n generalizing s with
  | zero => exact hf
  | succ n ih =>
    simp only [State.flushCpls]
    split
    · exact hf
    · exact ih _ (by simp (maxDischargeDepth := 40) +contextual [*])
@[simp] theorem State.completionFlush_Only {L : List Part} {a : State} (s : State) (stream : BitVec 8) (h_reg : Part.reg ∈ L) (h_cmd : Part.cmd ∈ L) (h_fab : Part.fab ∈ L) (h_eth : Part.eth ∈ L) (h_gov : Part.gov ∈ L) (h_irq : Part.irq ∈ L) (h_ptb : Part.ptb ∈ L) (h_out : Part.out ∈ L) (h_free : Part.free ∈ L) (hf : OnlyChanges L a s) :
    OnlyChanges L a (State.completionFlush s stream) := by
  unfold State.completionFlush; simp (maxDischargeDepth := 40) +contextual [*]
@[simp] theorem State.transportLost_Only {L : List Part} {a : State} (s : State) (dev : Nat) (l : List (Nat × Nat × Word)) (h_eth : Part.eth ∈ L) (h_out : Part.out ∈ L) (hf : OnlyChanges L a s) :
    OnlyChanges L a (State.transportLost s dev l) := by
  unfold State.transportLost; simp (maxDischargeDepth := 40) +contextual [*]
@[simp] theorem State.restartDev_Only {L : List Part} {a : State} (s : State) (dev : Nat) (h_reg : Part.reg ∈ L) (h_cmd : Part.cmd ∈ L) (h_sys : Part.sys ∈ L) (h_syn : Part.syn ∈ L) (h_fab : Part.fab ∈ L) (h_eth : Part.eth ∈ L) (h_irq : Part.irq ∈ L) (h_out : Part.out ∈ L) (hf : OnlyChanges L a s) :
    OnlyChanges L a (State.restartDev s dev) := by
  unfold State.restartDev; simp (maxDischargeDepth := 40) +contextual [*]
@[simp] theorem State.gateMoved_Only {L : List Part} {a : State} (s : State) (d : BitVec 6) (h_reg : Part.reg ∈ L) (h_sys : Part.sys ∈ L) (hf : OnlyChanges L a s) :
    OnlyChanges L a (State.gateMoved s d) := by
  unfold State.gateMoved; simp (maxDischargeDepth := 40) +contextual [*]
@[simp] theorem State.gateTakeover_Only {L : List Part} {a : State} (s : State) (h_reg : Part.reg ∈ L) (h_sys : Part.sys ∈ L) (h_eth : Part.eth ∈ L) (h_out : Part.out ∈ L) (hf : OnlyChanges L a s) :
    OnlyChanges L a (State.gateTakeover s) := by
  unfold State.gateTakeover
  split
  · exact hf
  · split
    · split
      · exact State.gateMoved_Only _ _ h_reg h_sys hf
      · exact hf
    · split
      · exact hf
      · extract_lets x y s1 s2
        have h0 : OnlyChanges L a { s with sys := { s.sys with gate := s.sys.myDev }, eth := { s.eth with hostSeen := false } } :=
          OnlyChanges.upd (s := s) rfl (fun p hp => by cases p <;> first | rfl | exact absurd ‹_› hp) hf
        have h1 : OnlyChanges L a s1 := State.fabricTimeLost_Only _ h_reg h0
        clear_value s1
        have h2 : OnlyChanges L a s2 := by simp (maxDischargeDepth := 40) [s2, *]
        clear_value s2
        exact OnlyChanges.forAll (fun s d h => by simp (maxDischargeDepth := 40) [*]) _ h2
@[simp] theorem State.lose_Only {L : List Part} {a : State} (s : State) (dev : Nat) (cause : BitVec 2) (h_reg : Part.reg ∈ L) (h_mem : Part.mem ∈ L) (h_cmd : Part.cmd ∈ L) (h_core : Part.core ∈ L) (h_rtr : Part.rtr ∈ L) (h_sys : Part.sys ∈ L) (h_cnv : Part.cnv ∈ L) (h_syn : Part.syn ∈ L) (h_fab : Part.fab ∈ L) (h_eth : Part.eth ∈ L) (h_gov : Part.gov ∈ L) (h_irq : Part.irq ∈ L) (h_ptb : Part.ptb ∈ L) (h_out : Part.out ∈ L) (h_free : Part.free ∈ L) (hf : OnlyChanges L a s) :
    OnlyChanges L a (State.lose s dev cause) := by
  unfold State.lose; simp (maxDischargeDepth := 40) +contextual [*]
@[simp] theorem State.obsRecover_Only {L : List Part} {a : State} (s : State) (p : Nat) (h : EthHead) (h_eth : Part.eth ∈ L) (hf : OnlyChanges L a s) :
    OnlyChanges L a (State.obsRecover s p h).1 := by
  unfold State.obsRecover; simp only []; (repeat' (first | exact hf | (refine OnlyChanges.forAll ?_ _ ?_; intro s x h) | split)) <;> simp_all (maxDischargeDepth := 40) +contextual
theorem State.obsRecover_Only' {L : List Part} {a : State} (s : State) (p : Nat) (h : EthHead) (h_eth : Part.eth ∈ L) (hf : OnlyChanges L a s) {t0 : State} {y0 : Bool}
    (ht : State.obsRecover s p h = (t0, y0)) : OnlyChanges L a t0 := by
  have h0 := State.obsRecover_Only (L := L) s p h h_eth hf; rw [ht] at h0; exact h0
@[simp] theorem State.obsFrame_Only {L : List Part} {a : State} (s : State) (p : Nat) (h : EthHead) (dev : Nat) (recs : List ObsRec) (h_reg : Part.reg ∈ L) (h_cnv : Part.cnv ∈ L) (h_eth : Part.eth ∈ L) (h_irq : Part.irq ∈ L) (h_out : Part.out ∈ L) (hf : OnlyChanges L a s) :
    OnlyChanges L a (State.obsFrame s p h dev recs) := by
  unfold State.obsFrame; (try dsimp only); repeat' (first | exact hf | assumption | split | with_reducible apply State.obsRecs_Only | with_reducible apply State.badHdr_Only | with_reducible apply State.endsAtPort_Only | with_reducible apply State.obsRecover_Only | (with_reducible apply OnlyChanges.forAll; intros) | (with_reducible apply OnlyChanges.fold; intros) | (with_reducible apply OnlyChanges.fold1; intros) | refine State.obsRecs_Only' _ ‹_› ‹_› ‹_› ‹_› ‹_› ?_ (by assumption) | refine State.endsAtPort_Only _ _ _ _ ‹_› ?_ _ (by assumption) | refine State.obsRecover_Only' _ _ _ ‹_› ?_ (by assumption) | simp only [OptOnly_none, OptOnly_some] | with_reducible apply OptOnly_getD | (simp [*]; done))
@[simp] theorem State.wakeFrame_Only {L : List Part} {a : State} (s : State) (p : BitVec 1) (mac : BitVec 48) (h : EthHead) (pattern : List Word) (h_reg : Part.reg ∈ L) (h_ltn : Part.ltn ∈ L) (h_out : Part.out ∈ L) (hf : OnlyChanges L a s) :
    OnlyChanges L a (State.wakeFrame s p mac h pattern) := by
  unfold State.wakeFrame; (try dsimp only); repeat' (first | exact hf | assumption | split | with_reducible apply State.wakeMatch_Only | with_reducible apply State.badHdr_Only | with_reducible apply State.endsAtPort_Only | (with_reducible apply OnlyChanges.forAll; intros) | (with_reducible apply OnlyChanges.fold; intros) | (with_reducible apply OnlyChanges.fold1; intros) | refine State.endsAtPort_Only _ _ _ _ ‹_› ?_ _ (by assumption) | simp only [OptOnly_none, OptOnly_some] | with_reducible apply OptOnly_getD | (simp [*]; done))
@[simp] theorem State.otherFrame_Only {L : List Part} {a : State} (s : State) (p : Nat) (h : EthHead) (as : Bool) (h_reg : Part.reg ∈ L) (hf : OnlyChanges L a s) :
    OnlyChanges L a (State.otherFrame s p h as) := by
  unfold State.otherFrame; simp (maxDischargeDepth := 40) +contextual [*]
@[simp] theorem State.actOut_Only {L : List Part} {a : State} (s : State) (f p : Nat) (seq : Word) (tag : Option (BitVec 16)) (l : List Byte) (h_reg : Part.reg ∈ L) (h_out : Part.out ∈ L) (hf : OnlyChanges L a s) :
    OnlyChanges L a (State.actOut s f p seq tag l) := by
  unfold State.actOut; simp (maxDischargeDepth := 40) +contextual [*]
@[simp] theorem State.actTransmit_Only {L : List Part} {a : State} (s : State) (f : Nat) (h_reg : Part.reg ∈ L) (h_cnv : Part.cnv ∈ L) (h_eth : Part.eth ∈ L) (h_out : Part.out ∈ L) (hf : OnlyChanges L a s) :
    OnlyChanges L a (State.actTransmit s f) := by
  unfold State.actTransmit; simp only []; (repeat' (first | exact hf | (refine OnlyChanges.forAll ?_ _ ?_; intro s x h) | split)) <;> simp_all (maxDischargeDepth := 40) +contextual
@[simp] theorem State.portUp_Only {L : List Part} {a : State} (s : State) (p mode : Nat) (h_reg : Part.reg ∈ L) (hf : OnlyChanges L a s) :
    OnlyChanges L a (State.portUp s p mode) := by
  unfold State.portUp; simp (maxDischargeDepth := 40) +contextual [*]
@[simp] theorem State.gclStart_Only {L : List Part} {a : State} (s : State) (p : Nat) (h_reg : Part.reg ∈ L) (h_eth : Part.eth ∈ L) (hf : OnlyChanges L a s) :
    OnlyChanges L a (State.gclStart s p) := by
  unfold State.gclStart; simp (maxDischargeDepth := 40) +contextual [*]
@[simp] theorem State.clockLoss_Only {L : List Part} {a : State} (s : State) (c : Nat) (h_reg : Part.reg ∈ L) (h_core : Part.core ∈ L) (h_fab : Part.fab ∈ L) (h_eth : Part.eth ∈ L) (h_gov : Part.gov ∈ L) (h_ltn : Part.ltn ∈ L) (h_irq : Part.irq ∈ L) (h_ptb : Part.ptb ∈ L) (h_dead : Part.dead ∈ L) (h_out : Part.out ∈ L) (h_free : Part.free ∈ L) (hf : OnlyChanges L a s) :
    OnlyChanges L a (State.clockLoss s c) := by
  unfold State.clockLoss; simp (maxDischargeDepth := 40) +contextual [*]

end Sys2Proof.Machine
end

