-- ==== Sys2Proof/Laws/Only/Tick.lean ====
section
/-! SUPPORT. Laws/Only/Tick.lean: what each operation of Machine/Tick.lean can do to the tables (its units). -/

namespace Sys2Proof.Machine

@[simp] theorem State.tick_Only {L : List Part} {a : State} (s : State) (h_reg : Part.reg ∈ L) (h_mem : Part.mem ∈ L) (h_cmd : Part.cmd ∈ L) (h_core : Part.core ∈ L) (h_rtr : Part.rtr ∈ L) (h_cnv : Part.cnv ∈ L) (h_syn : Part.syn ∈ L) (h_fab : Part.fab ∈ L) (h_eth : Part.eth ∈ L) (h_gov : Part.gov ∈ L) (h_kpr : Part.kpr ∈ L) (h_irq : Part.irq ∈ L) (h_tmr : Part.tmr ∈ L) (h_ptb : Part.ptb ∈ L) (h_out : Part.out ∈ L) (h_free : Part.free ∈ L) (hf : OnlyChanges L a s) :
    OnlyChanges L a (State.tick s) := by
  unfold State.tick; simp (maxDischargeDepth := 40) +contextual [*]

end Sys2Proof.Machine
end

