-- ==== Sys2Proof/Laws/Reach.lean ====
section
/-! SUPPORT. Laws/Reach.lean: what any sequence of operations can do to the tables of the state. A table changes only by writes and
by dropping entries (`Edits`); the queue and the identity fuses do not change at all. `s.From a` says that `s` comes from `a` that
way. One lemma per operation says that its result comes from where its argument comes from; every invariant of the tables follows. -/

namespace Sys2Proof.Machine

/-- A table that comes from another by writes and by dropping entries. -/
inductive Edits {α : Type} [DecidableEq α] (d : Nat → α) (t : Tab α) : Tab α → Prop
  | refl : Edits d t t
  | set {u : Tab α} (k : Nat) (v : α) : Edits d t u → Edits d t (Tab.set d u k v)
  | filter {u : Tab α} (f : Nat × α → Bool) : Edits d t u → Edits d t (u.filter f)

theorem Edits.wf {α : Type} [DecidableEq α] {d : Nat → α} {t u : Tab α} (h : Edits d t u) (ht : Tab.wf d t) : Tab.wf d u := by
  induction h with
  | refl => exact ht
  | set k v _ ih => exact Tab.wf_set ih k v
  | filter f _ ih => exact Tab.wf_filter ih f

theorem Edits.none {α : Type} [DecidableEq α] {d : Nat → α} {t u : Tab α} (h : Edits d t u) : Edits d t [] := by
  have h0 : u.filter (fun _ => false) = [] := by rw [List.filter_eq_nil_iff]; simp
  exact h0 ▸ Edits.filter (fun _ => false) h

theorem Edits.putBytes {t : Tab Byte} (k : Nat) (l : List Byte) {u : Tab Byte} (h : Edits Memory.unlisted t u) :
    Edits Memory.unlisted t (Memory.putBytes u k l) := by
  induction l generalizing k u with
  | nil => exact h
  | cons v r ih => exact ih (k + 1) (Edits.set k v h)

theorem Edits.trans {α : Type} [DecidableEq α] {d : Nat → α} {t u v : Tab α} (h : Edits d t u) (g : Edits d u v) : Edits d t v := by
  induction g with
  | refl => exact h
  | set k v _ ih => exact .set k v ih
  | filter f _ ih => exact .filter f ih

theorem Edits.foldSet {α β : Type} [DecidableEq α] {d : Nat → α} {t : Tab α} (k : β → Nat) (v : β → α) (l : List β) {u : Tab α}
    (h : Edits d t u) : Edits d t (l.foldl (fun u x => Tab.set d u (k x) (v x)) u) := by
  induction l generalizing u with
  | nil => exact h
  | cons x r ih => exact ih (Edits.set (k x) (v x) h)

/-- What the fuses say of the part itself (R2, R463, R464): nothing changes it after manufacture. -/
def Fuses.ident (f : Fuses) : Word64 × BitVec 8 × Byte × List Nat × List Nat :=
  (f.devid, f.grade, f.stepping, f.badCores, f.badSlices)

/-- The parts of the state that `From` speaks of. -/
structure Track where
  pending  : List Instr
  ident    : Word64 × BitVec 8 × Byte × List Nat × List Nat
  cells    : Tab Byte
  vals     : Tab Word
  bindings : Tab Binding
  streams  : Tab Stream
  ctxs     : Tab Ctx
  cores    : Tab Core
  slots    : Tab Slot
  reds     : Tab Reduction
  rings    : Tab (List Ev)
  chans    : Tab Chan
  insts    : Tab Inst
  acts     : Tab ActFrame
  buoys    : Tab (BitVec 31)
  queues   : Tab Queue
  writers  : Tab Writer
  links    : Tab Link
  e2e      : Tab E2E
  circuits : Tab Circuit
  spaces   : Tab Space
  timers   : Tab Timer
  live     : Tab Word
  shadow   : Tab Byte
  pointers : Tab Nat
  banks    : Tab (Option (BitVec 6))
  windows  : Tab (BitVec 38 × BitVec 38)
  replicas : Tab Packet
  credits  : Tab Nat
  pages    : Tab RingUse
  staging  : Tab (List (Nat × Ev))
  tallies  : Tab Nat
  owner    : Tab (Option (BitVec 6))
  sas      : Tab (List Sa)
  units    : Tab (Nat × Nat)
  coreMap  : Tab SysCore

def State.track (s : State) : Track :=
  ⟨s.pending, s.fuses.ident, s.mem.cells, s.reg.vals, s.cmd.bindings, s.cmd.streams, s.cmd.ctxs, s.core.cores, s.core.slots, s.core.reds,
    s.rtr.rings, s.cnv.chans, s.cnv.insts, s.cnv.acts, s.syn.buoys, s.syn.queues, s.syn.writers, s.fab.links, s.fab.e2e,
    s.fab.circuits, s.eth.spaces, s.tmr.timers, s.reg.live, s.mem.shadow, s.mem.pointers, s.cmd.banks, s.cmd.windows, s.rtr.replicas, s.rtr.credits, s.rtr.pages, s.rtr.staging, s.cnv.tallies, s.syn.owner, s.sec.sas, s.core.units, s.sys.coreMap⟩

structure Track.To (a b : Track) : Prop where
  pending  : b.pending = a.pending
  ident    : b.ident = a.ident
  cells    : Edits Memory.unlisted a.cells b.cells
  vals     : Edits regReset a.vals b.vals
  bindings : Edits (fun _ => Binding.empty) a.bindings b.bindings
  streams  : Edits (fun _ => Stream.empty) a.streams b.streams
  ctxs     : Edits (fun _ => Ctx.empty) a.ctxs b.ctxs
  cores    : Edits (fun _ => Core.empty) a.cores b.cores
  slots    : Edits (fun _ => Slot.empty) a.slots b.slots
  reds     : Edits (fun _ => Reduction.empty) a.reds b.reds
  rings    : Edits (fun _ => []) a.rings b.rings
  chans    : Edits (fun _ => Chan.empty) a.chans b.chans
  insts    : Edits (fun _ => Inst.empty) a.insts b.insts
  acts     : Edits (fun _ => ActFrame.empty) a.acts b.acts
  buoys    : Edits (fun _ => 0) a.buoys b.buoys
  queues   : Edits (fun _ => Queue.empty) a.queues b.queues
  writers  : Edits (fun _ => Writer.empty) a.writers b.writers
  links    : Edits (fun _ => Link.empty) a.links b.links
  e2e      : Edits (fun _ => E2E.empty) a.e2e b.e2e
  circuits : Edits (fun _ => Circuit.empty) a.circuits b.circuits
  spaces   : Edits (fun _ => Space.empty) a.spaces b.spaces
  timers   : Edits (fun _ => Timer.empty) a.timers b.timers
  live     : Edits (fun _ => (0 : Word)) a.live b.live
  shadow   : Edits Memory.unlisted a.shadow b.shadow
  pointers : Edits (fun _ => 0) a.pointers b.pointers
  banks    : Edits (fun _ => none) a.banks b.banks
  windows  : Edits (fun _ => (0, 0)) a.windows b.windows
  replicas : Edits (fun _ => ⟨0, 0, 0, 0, 0, false, 0, []⟩) a.replicas b.replicas
  credits  : Edits (fun _ => 0) a.credits b.credits
  pages    : Edits (fun _ => RingUse.empty) a.pages b.pages
  staging  : Edits (fun _ => []) a.staging b.staging
  tallies  : Edits (fun _ => 0) a.tallies b.tallies
  owner    : Edits (fun _ => none) a.owner b.owner
  sas      : Edits (fun _ => []) a.sas b.sas
  units    : Edits (fun _ => (0, 0)) a.units b.units
  coreMap  : Edits (fun _ => SysCore.empty) a.coreMap b.coreMap

/-- `s` comes from `a`: the same queue and the same part, every table by writes and by dropping entries. -/
def State.From (s a : State) : Prop := a.track.To s.track

theorem State.From.refl (s : State) : s.From s :=
  ⟨rfl, rfl, .refl, .refl, .refl, .refl, .refl, .refl, .refl, .refl, .refl, .refl, .refl, .refl, .refl, .refl, .refl, .refl, .refl,
    .refl, .refl, .refl, .refl, .refl, .refl, .refl, .refl, .refl, .refl, .refl, .refl, .refl, .refl, .refl, .refl, .refl⟩

/-! An update of other parts leaves `From` as it is: simp takes an updated record apart and finds the old state in it. -/

@[simp] theorem State.From_mk {a : State} {p f r m c co rt sy cn sn fa et go lt kp iq tm se pt de o n} :
    (State.mk p f r m c co rt sy cn sn fa et go lt kp iq tm se pt de o n).From a = a.track.To
      ⟨p, f.ident, m.cells, r.vals, c.bindings, c.streams, c.ctxs, co.cores, co.slots, co.reds, rt.rings, cn.chans, cn.insts, cn.acts,
        sn.buoys, sn.queues, sn.writers, fa.links, fa.e2e, fa.circuits, et.spaces, tm.timers, r.live, m.shadow, m.pointers, c.banks, c.windows, rt.replicas, rt.credits, rt.pages, rt.staging, cn.tallies, sn.owner, se.sas, co.units, sy.coreMap⟩ := propext ⟨fun h => h, fun h => h⟩

@[simp] theorem Track.To_fold {a s : State} : a.track.To
      ⟨s.pending, s.fuses.ident, s.mem.cells, s.reg.vals, s.cmd.bindings, s.cmd.streams, s.cmd.ctxs, s.core.cores, s.core.slots,
        s.core.reds, s.rtr.rings, s.cnv.chans, s.cnv.insts, s.cnv.acts, s.syn.buoys, s.syn.queues, s.syn.writers, s.fab.links, s.fab.e2e,
        s.fab.circuits, s.eth.spaces, s.tmr.timers, s.reg.live, s.mem.shadow, s.mem.pointers, s.cmd.banks, s.cmd.windows, s.rtr.replicas, s.rtr.credits, s.rtr.pages, s.rtr.staging, s.cnv.tallies, s.syn.owner, s.sec.sas, s.core.units, s.sys.coreMap⟩ = s.From a := propext ⟨fun h => h, fun h => h⟩

@[simp] theorem State.From_ite {a s t : State} {c : Prop} [Decidable c] : (if c then s else t).From a = if c then s.From a else t.From a := by
  split <;> rfl

@[simp] theorem State.From_ite1 {β : Type} {a : State} {x y : State × β} {c : Prop} [Decidable c] :
    (if c then x else y).1.From a = if c then x.1.From a else y.1.From a := by
  split <;> rfl

/-- A reset of the logic: the queue and the part stay, registers and memory lose entries, the other tables are empty. -/
theorem State.From_cleared {a s t : State} (hf : s.From a) (hp : t.pending = s.pending) (hi : t.fuses.ident = s.fuses.ident)
    (hc : Edits Memory.unlisted s.mem.cells t.mem.cells) (hv : Edits regReset s.reg.vals t.reg.vals)
    (hl : Edits (fun _ => (0 : Word)) s.reg.live t.reg.live) (hs : Edits Memory.unlisted s.mem.shadow t.mem.shadow)
    (ht : t.track = { State.reset.track with
      pending := t.pending, ident := t.fuses.ident, cells := t.mem.cells, vals := t.reg.vals
      live := t.reg.live, shadow := t.mem.shadow }) : t.From a := by
  unfold State.From
  rw [ht]
  exact ⟨hp.trans hf.pending, hi.trans hf.ident, hf.cells.trans hc, hf.vals.trans hv, .none hf.bindings, .none hf.streams, .none hf.ctxs, .none hf.cores, .none hf.slots, .none hf.reds, .none hf.rings, .none hf.chans,
    .none hf.insts, .none hf.acts, .none hf.buoys, .none hf.queues, .none hf.writers, .none hf.links, .none hf.e2e, .none hf.circuits, .none hf.spaces, .none hf.timers, hf.live.trans hl, hf.shadow.trans hs, .none hf.pointers, .none hf.banks, .none hf.windows, .none hf.replicas, .none hf.credits, .none hf.pages, .none hf.staging, .none hf.tallies, .none hf.owner, .none hf.sas, .none hf.units, .none hf.coreMap⟩

/-- The two branches one at a time, without a rewrite of the goal. -/
theorem State.From_iteI {β : Type} {a : State} {x y : State × β} {c : Prop} [Decidable c] (h1 : c → x.1.From a) (h2 : ¬c → y.1.From a) :
    (if c then x else y).1.From a := by
  by_cases h : c
  · rw [if_pos h]; exact h1 h
  · rw [if_neg h]; exact h2 h

@[simp] theorem State.From_fold {α : Type} {a : State} {f : State → α → State} (hf : ∀ s x, s.From a → (f s x).From a) (l : List α) {s : State}
    (h : s.From a) : (l.foldl f s).From a := by
  induction l generalizing s with
  | nil => exact h
  | cons x r ih => exact ih (hf s x h)

@[simp] theorem State.From_forAll {α : Type} {a : State} {f : State → α → State} (hf : ∀ s x, s.From a → (f s x).From a) (l : List α)
    {s : State} (h : s.From a) : (s.forAll l f).From a := State.From_fold hf l h

@[simp] theorem State.From_fold1 {α β : Type} {a : State} {f : State × β → α → State × β}
    (hf : ∀ p x, p.1.From a → (f p x).1.From a) (l : List α) {p : State × β} (h : p.1.From a) : (l.foldl f p).1.From a := by
  induction l generalizing p with
  | nil => exact h
  | cons x r ih => exact ih (hf p x h)

/-- `From` for an operation that may not happen. -/
def State.OptFrom (o : Option State) (a : State) : Prop := ∀ t, o = some t → t.From a

@[simp] theorem State.OptFrom_none {a : State} : State.OptFrom none a = True :=
  propext ⟨fun _ => trivial, fun _ t h => by cases h⟩
@[simp] theorem State.OptFrom_some {a t : State} : State.OptFrom (some t) a = t.From a :=
  propext ⟨fun h => h t rfl, fun h _ e => by cases e; exact h⟩
@[simp] theorem State.OptFrom_ite {a : State} {o p : Option State} {c : Prop} [Decidable c] :
    State.OptFrom (if c then o else p) a = if c then State.OptFrom o a else State.OptFrom p a := by
  split <;> rfl
@[simp] theorem State.getD_From {a w : State} {o : Option State} (ho : State.OptFrom o a) (hw : w.From a) : (o.getD w).From a := by
  cases o with
  | none => exact hw
  | some t => exact ho t rfl

/-! ## The named updates -/

@[simp] theorem State.setCtx_From {a s : State} (c : Nat) (x : Ctx) (h : s.From a) : (s.setCtx c x).From a :=
  { h with ctxs := .set _ _ h.ctxs }
@[simp] theorem State.setBnd_From {a s : State} (b : Nat) (x : Binding) (h : s.From a) : (s.setBnd b x).From a :=
  { h with bindings := .set _ _ h.bindings }
@[simp] theorem State.setStrm_From {a s : State} (n : Nat) (x : Stream) (h : s.From a) : (s.setStrm n x).From a :=
  { h with streams := .set _ _ h.streams }
@[simp] theorem State.setCor_From {a s : State} (n : Nat) (x : Core) (h : s.From a) : (s.setCor n x).From a :=
  { h with cores := .set _ _ h.cores }
@[simp] theorem State.setSlot_From {a s : State} (n t : Nat) (x : Slot) (h : s.From a) : (s.setSlot n t x).From a :=
  { h with slots := .set _ _ h.slots }
@[simp] theorem State.setRed_From {a s : State} (n m : Nat) (x : Reduction) (h : s.From a) : (s.setRed n m x).From a :=
  { h with reds := .set _ _ h.reds }
@[simp] theorem State.setChan_From {a s : State} (k : Nat) (x : Chan) (h : s.From a) : (s.setChan k x).From a :=
  { h with chans := .set _ _ h.chans }
@[simp] theorem State.setInst_From {a s : State} (k c : Nat) (x : Inst) (h : s.From a) : (s.setInst k c x).From a :=
  { h with insts := .set _ _ h.insts }
@[simp] theorem State.setAct_From {a s : State} (f : Nat) (x : ActFrame) (h : s.From a) : (s.setAct f x).From a :=
  { h with acts := .set _ _ h.acts }
@[simp] theorem State.setBuoy_From {a s : State} (k : Nat) (v : BitVec 31) (h : s.From a) : (s.setBuoy k v).From a :=
  { h with buoys := .set _ _ h.buoys }
@[simp] theorem State.setQueue_From {a s : State} (q : Nat) (x : Queue) (h : s.From a) : (s.setQueue q x).From a :=
  { h with queues := .set _ _ h.queues }
@[simp] theorem State.setWriter_From {a s : State} (d q : Nat) (x : Writer) (h : s.From a) : (s.setWriter d q x).From a :=
  { h with writers := .set _ _ h.writers }
@[simp] theorem State.setLink_From {a s : State} (l : Nat) (x : Link) (h : s.From a) : (s.setLink l x).From a :=
  { h with links := .set _ _ h.links }
@[simp] theorem State.setE2e_From {a s : State} (d v : Nat) (x : E2E) (h : s.From a) : (s.setE2e d v x).From a :=
  { h with e2e := .set _ _ h.e2e }
@[simp] theorem State.setCirc_From {a s : State} (c : Nat) (x : Circuit) (h : s.From a) : (s.setCirc c x).From a :=
  { h with circuits := .set _ _ h.circuits }
@[simp] theorem State.setTimer_From {a s : State} (n : Nat) (x : Timer) (h : s.From a) : (s.setTimer n x).From a :=
  { h with timers := .set _ _ h.timers }
@[simp] theorem State.setSpace_From {a s : State} (k : Nat) (x : Space) (h : s.From a) : (s.setSpace k x).From a :=
  { h with spaces := .set _ _ h.spaces }
@[simp] theorem State.setRing_From {a s : State} (n k : Nat) (x : List Ev) (h : s.From a) : (s.setRing n k x).From a :=
  { h with rings := .set _ _ h.rings }
@[simp] theorem State.setPages_From {a s : State} (n k : Nat) (x : RingUse) (h : s.From a) : (s.setPages n k x).From a :=
  { h with pages := .set _ _ h.pages }
@[simp] theorem State.setUnits_From {a s : State} (n t : Nat) (x : Nat × Nat) (h : s.From a) : (s.setUnits n t x).From a :=
  { h with units := .set _ _ h.units }
@[simp] theorem State.rset_From {a s : State} (k : Nat) (v : Word) (h : s.From a) : (s.rset k v).From a :=
  { h with vals := .set _ _ h.vals }
@[simp] theorem State.setByte_From {a s : State} (k : Nat) (v : Byte) (h : s.From a) : (s.setByte k v).From a :=
  { h with cells := .set _ _ h.cells }
@[simp] theorem State.putBytes_From {a s : State} (k : Nat) (v : List Byte) (h : s.From a) : (s.putBytes k v).From a :=
  { h with cells := .putBytes k v h.cells }
@[simp] theorem State.clearRange_From {a s : State} (k n : Nat) (h : s.From a) : (s.clearRange k n).From a :=
  { h with cells := .filter _ h.cells }
@[simp] theorem State.setLive_From {a s : State} (k : Nat) (v : Word) (h : s.From a) : (s.setLive k v).From a :=
  { h with live := .set _ _ h.live }
@[simp] theorem State.send_From {a s : State} (x : Out) (h : s.From a) : (s.send x).From a := h
@[simp] theorem State.sendAll_From {a s : State} (l : List Out) (h : s.From a) : (s.sendAll l).From a := h


end Sys2Proof.Machine
end

