-- ==== Sys2Proof/Laws/Reach/Ops.lean ====
section
/-! SUPPORT. Laws/Reach/Ops.lean: what each operation of Machine/Ops.lean can do to the tables (`From`). -/

namespace Sys2Proof.Machine

@[simp] theorem State.rmod_From {a0 : State} (s : State) (a : Nat) (f : Word → Word) (hf : s.From a0) :
    (State.rmod s a f).From a0 := by
  unfold State.rmod; simp (maxDischargeDepth := 40) +contextual [*]
@[simp] theorem State.rsetField_From {a0 : State} (s : State) (a lo w v : Nat) (hf : s.From a0) :
    (State.rsetField s a lo w v).From a0 := by
  unfold State.rsetField; simp (maxDischargeDepth := 40) +contextual [*]
@[simp] theorem State.rsetBit_From {a0 : State} (s : State) (a i : Nat) (b : Bool) (hf : s.From a0) :
    (State.rsetBit s a i b).From a0 := by
  unfold State.rsetBit; simp (maxDischargeDepth := 40) +contextual [*]
@[simp] theorem State.satAdd_From {a0 : State} (s : State) (a lo w n : Nat) (hf : s.From a0) :
    (State.satAdd s a lo w n).From a0 := by
  unfold State.satAdd; simp (maxDischargeDepth := 40) +contextual [*]
@[simp] theorem State.count_From {a0 : State} (s : State) (a n : Nat) (hf : s.From a0) :
    (State.count s a n).From a0 := by
  unfold State.count; simp (maxDischargeDepth := 40) +contextual [*]
@[simp] theorem State.maxReg_From {a0 : State} (s : State) (a n : Nat) (hf : s.From a0) :
    (State.maxReg s a n).From a0 := by
  unfold State.maxReg; simp (maxDischargeDepth := 40) +contextual [*]
@[simp] theorem State.longSet_From {a : State} (s : State) (lo n : Nat) (hf : s.From a) :
    (State.longSet s lo n).From a := by
  unfold State.longSet; simp (maxDischargeDepth := 40) +contextual [*]
@[simp] theorem State.longSat_From {a : State} (s : State) (lo n : Nat) (hf : s.From a) :
    (State.longSat s lo n).From a := by
  unfold State.longSat; simp (maxDischargeDepth := 40) +contextual [*]
@[simp] theorem State.longWrap_From {a : State} (s : State) (lo n : Nat) (hf : s.From a) :
    (State.longWrap s lo n).1.From a := by
  unfold State.longWrap; simp (maxDischargeDepth := 40) +contextual [*]
theorem State.longWrap_From' {a : State} (s : State) (lo n : Nat) (hf : s.From a) {t0 : State} {y0 : Bool}
    (ht : State.longWrap s lo n = (t0, y0)) : t0.From a := by
  have h0 := State.longWrap_From s lo n hf; rw [ht] at h0; exact h0
@[simp] theorem State.putLe_From {a : State} (s : State) (k n x : Nat) (hf : s.From a) :
    (State.putLe s k n x).From a := by
  unfold State.putLe; simp (maxDischargeDepth := 40) +contextual [*]

@[simp] theorem State.draw_From {a : State} (s : State) (h : s.From a) : s.draw.2.From a := by simpa [State.draw] using h
@[simp] theorem State.drawBytes_From {a : State} (s : State) (n : Nat) (h : s.From a) : (s.drawBytes n).2.From a := by
  induction n generalizing s with
  | zero => exact h
  | succ n ih => exact ih _ (State.draw_From s h)
@[simp] theorem State.countFree_From {a0 : State} (s : State) (a : Nat) (hf : s.From a0) :
    (State.countFree s a).From a0 := by
  unfold State.countFree; simp (maxDischargeDepth := 40) +contextual [*]
@[simp] theorem State.unitActs_From {a : State} (s : State) (c k n : Nat) (hf : s.From a) :
    (State.unitActs s c k n).From a := by
  unfold State.unitActs; simp (maxDischargeDepth := 40) +contextual [*]
@[simp] theorem State.hostPump_From {a : State} (s : State) (k : Nat) (hf : s.From a) :
    (State.hostPump s k).From a := by
  unfold State.hostPump; simp (maxDischargeDepth := 40) +contextual [*]
@[simp] theorem State.hostFrames_From {a : State} (s : State) (sp dev stream n : Nat) (note : Bool) (hf : s.From a) :
    (State.hostFrames s sp dev stream n note).From a := by
  unfold State.hostFrames; simp (maxDischargeDepth := 40) +contextual [*]
@[simp] theorem State.noticeOf_From {a : State} (s : State) (dev : BitVec 6) (kind : Byte) (body : List Byte) (hf : s.From a) :
    (State.noticeOf s dev kind body).From a := by
  unfold State.noticeOf; simp (maxDischargeDepth := 40) +contextual [*]
@[simp] theorem State.notice_From {a : State} (s : State) (kind : Byte) (body : List Byte) (hf : s.From a) :
    (State.notice s kind body).From a := by
  unfold State.notice; simp (maxDischargeDepth := 40) +contextual [*]
@[simp] theorem State.raise_From {a : State} (s : State) (n : Nat) (hf : s.From a) :
    (State.raise s n).From a := by
  unfold State.raise; simp (maxDischargeDepth := 40) +contextual [*]
@[simp] theorem State.withdraw_From {a : State} (s : State) (n : Nat) (hf : s.From a) :
    (State.withdraw s n).From a := by
  unfold State.withdraw; simp (maxDischargeDepth := 40) +contextual [*]
@[simp] theorem State.countGranules_From {a0 : State} (s : State) (wr : Bool) (a n : Nat) (hf : s.From a0) :
    (State.countGranules s wr a n).From a0 := by
  unfold State.countGranules; simp (maxDischargeDepth := 40) +contextual [*]
@[simp] theorem State.moved_From {a0 : State} (s : State) (wr : Bool) (a n : Nat) (hf : s.From a0) :
    (State.moved s wr a n).From a0 := by
  unfold State.moved; simp (maxDischargeDepth := 40) +contextual [*]

end Sys2Proof.Machine
end

