-- ==== Sys2Proof/Laws/Reach/Num.lean ====
section
/-! SUPPORT. Laws/Reach/Num.lean: what each operation of Machine/Num.lean can do to the tables (`From`). -/

namespace Sys2Proof.Machine



end Sys2Proof.Machine
end

