-- ==== Sys2Proof/Laws/Reach/Flags.lean ====
section
/-! SUPPORT. Laws/Reach/Flags.lean: what each operation of Machine/Flags.lean can do to the tables (`From`). -/

namespace Sys2Proof.Machine

@[simp] theorem State.stepStatus_From {a : State} (s : State) (b : Nat) (st : Byte) (hf : s.From a) :
    (State.stepStatus s b st).From a := by
  unfold State.stepStatus; simp only []; (repeat' (first | exact hf | (refine State.From_forAll ?_ _ ?_; intro s x h) | split)) <;> simp_all (maxDischargeDepth := 40) +contextual
@[simp] theorem State.raiseCore_From {a : State} (s : State) (n : Nat) (hf : s.From a) :
    (State.raiseCore s n).From a := by
  unfold State.raiseCore; simp (maxDischargeDepth := 40) +contextual [*]
@[simp] theorem State.raiseSlice_From {a : State} (s : State) (k : Nat) (hf : s.From a) :
    (State.raiseSlice s k).From a := by
  unfold State.raiseSlice; simp (maxDischargeDepth := 40) +contextual [*]

end Sys2Proof.Machine
end

