-- ==== Sys2Proof/Laws/Reach/Perturb.lean ====
section
/-! SUPPORT. Laws/Reach/Perturb.lean: what each operation of Machine/Perturb.lean can do to the tables (`From`). -/

namespace Sys2Proof.Machine

@[simp] theorem State.ptbUpdate_From {a : State} (s : State) (hf : s.From a) :
    (State.ptbUpdate s).From a := by
  unfold State.ptbUpdate; simp (maxDischargeDepth := 40) +contextual [*]
@[simp] theorem State.ptbHold_From {a : State} (s : State) (h : Held) (hf : s.From a) :
    (State.ptbHold s h).From a := by
  unfold State.ptbHold; simp (maxDischargeDepth := 40) +contextual [*]
@[simp] theorem State.hbmBurst_From {a : State} (s : State) (hf : s.From a) :
    (State.hbmBurst s).From a := by
  unfold State.hbmBurst; simp (maxDischargeDepth := 40) +contextual [*]

end Sys2Proof.Machine
end

