-- ==== Sys2Proof/Laws/Reach/Egress.lean ====
section
/-! SUPPORT. Laws/Reach/Egress.lean: what each operation of Machine/Egress.lean can do to the tables (`From`). -/

namespace Sys2Proof.Machine

@[simp] theorem State.onLink_From {a : State} (s : State) (l : Nat) (lseq : BitVec 12) (p : FabPkt) (hf : s.From a) :
    (State.onLink s l lseq p).From a := by
  unfold State.onLink; simp (maxDischargeDepth := 40) +contextual [*]
@[simp] theorem State.linkSend_From {a : State} (s : State) (l : Nat) (p : FabPkt) (hf : s.From a) :
    (State.linkSend s l p).From a := by
  unfold State.linkSend; simp (maxDischargeDepth := 40) +contextual [*]
@[simp] theorem State.sendCredit_From {a : State} (s : State) (l vc cls units : Nat) (hf : s.From a) :
    (State.sendCredit s l vc cls units).From a := by
  unfold State.sendCredit; simp (maxDischargeDepth := 40) +contextual [*]
@[simp] theorem State.linkCreditBack_From {a : State} (s : State) (l cls : Nat) (p : FabPkt) (hf : s.From a) :
    (State.linkCreditBack s l cls p).From a := by
  unfold State.linkCreditBack; simp (maxDischargeDepth := 40) +contextual [*]
@[simp] theorem State.leavesBuffer_From {a : State} (s : State) (p : FabPkt) (hf : s.From a) :
    (State.leavesBuffer s p).From a := by
  unfold State.leavesBuffer; (repeat' split) <;> simp (maxDischargeDepth := 40) +contextual [*]
@[simp] theorem State.drainLink_From {a : State} (n : Nat) (s : State) (l : Nat) (hf : s.From a) : (State.drainLink n s l).From a := by
  induction n generalizing s with
  | zero => exact hf
  | succ n ih =>
    simp only [State.drainLink]
    split
    · exact hf
    · exact ih _ (by simp (maxDischargeDepth := 40) [hf])
@[simp] theorem State.linkQueue_From {a : State} (s : State) (l : Nat) (p : FabPkt) (hf : s.From a) :
    (State.linkQueue s l p).From a := by
  unfold State.linkQueue; simp (maxDischargeDepth := 40) +contextual [*]
@[simp] theorem State.lossFlag_From {a : State} (s : State) (dev : Nat) (part : Bool) (hf : s.From a) :
    (State.lossFlag s dev part).From a := by
  unfold State.lossFlag; simp only []; (repeat' (first | exact hf | (refine State.From_forAll ?_ _ ?_; intro s x h) | split)) <;> simp_all (maxDischargeDepth := 40) +contextual
@[simp] theorem State.cutOff_From {a : State} (s : State) (p : FabPkt) (hf : s.From a) :
    (State.cutOff s p).From a := by
  unfold State.cutOff; simp (maxDischargeDepth := 40) +contextual [*]
@[simp] theorem State.routeOut_From {a : State} (s : State) (p : FabPkt) (hf : s.From a) :
    (State.routeOut s p).From a := by
  unfold State.routeOut; (repeat' split) <;> simp (maxDischargeDepth := 40) +contextual [*]
@[simp] theorem State.e2eSend_From {a : State} (s : State) (p : FabPkt) (hf : s.From a) :
    (State.e2eSend s p).From a := by
  unfold State.e2eSend; simp (maxDischargeDepth := 40) +contextual [*]
@[simp] theorem State.toFabric_From {a : State} (s : State) (p : FabPkt) (hf : s.From a) :
    (State.toFabric s p).From a := by
  unfold State.toFabric; simp (maxDischargeDepth := 40) +contextual [*]
@[simp] theorem State.toDevice_From {a : State} (s : State) (dev type unit : Nat) (o : Out) (hf : s.From a) :
    (State.toDevice s dev type unit o).From a := by
  unfold State.toDevice; simp (maxDischargeDepth := 40) +contextual [*]
@[simp] theorem State.toHost_From {a : State} (s : State) (sp stream n : Nat) (o : Out) (hf : s.From a) :
    (State.toHost s sp stream n o).From a := by
  unfold State.toHost; simp (maxDischargeDepth := 40) +contextual [*]
@[simp] theorem State.toDevices_From {a : State} (s : State) (l : List Nat) (type unit : Nat) (o : Out) (hf : s.From a) :
    (State.toDevices s l type unit o).From a := by
  unfold State.toDevices; simp (maxDischargeDepth := 40) +contextual [*]
@[simp] theorem State.bulkOut_From {a : State} (n : Nat) (s : State) (b dev : Nat) (tag : Option (Nat × BitVec 18)) (l : List Byte)
    (hf : s.From a) : (State.bulkOut n s b dev tag l).From a := by
  induction n generalizing s l with
  | zero => exact hf
  | succ n ih =>
    simp only [State.bulkOut]
    split
    · exact hf
    · exact ih _ _ (by simp (maxDischargeDepth := 40) [hf])
@[simp] theorem State.toMemory_From {a : State} (s : State) (b dev : Nat) (dst : Word64) (l : List Byte) (hf : s.From a) :
    (State.toMemory s b dev dst l).From a := by
  unfold State.toMemory; simp (maxDischargeDepth := 40) +contextual [*]
@[simp] theorem State.circOut_From {a : State} (n : Nat) (s : State) (c : Nat) (k : BitVec 18) (l : List Byte) (hf : s.From a) :
    (State.circOut n s c k l).From a := by
  induction n generalizing s l with
  | zero => exact hf
  | succ n ih =>
    simp only [State.circOut]
    split
    · exact hf
    · exact ih _ _ (by simp [hf])
@[simp] theorem State.chunkOut_From {a : State} (s : State) (c : Nat) (flow : Word64) (x : BitVec 18 × Word64 × List Byte) (hf : s.From a) :
    (State.chunkOut s c flow x).From a := by
  unfold State.chunkOut; simp (maxDischargeDepth := 40) +contextual [*]
@[simp] theorem State.sendFlow_From {a : State} (s : State) (c : Nat) (hf : s.From a) :
    (State.sendFlow s c).From a := by
  unfold State.sendFlow; (repeat' split) <;> simp (maxDischargeDepth := 40) +contextual [*]
@[simp] theorem State.kickCirc_From {a : State} (s : State) (c : Nat) (hf : s.From a) :
    (State.kickCirc s c).From a := by
  unfold State.kickCirc; (repeat' split) <;> simp (maxDischargeDepth := 40) +contextual [*]
@[simp] theorem State.kickCircs_From {a : State} (s : State) (hf : s.From a) :
    (State.kickCircs s).From a := by
  unfold State.kickCircs; simp (maxDischargeDepth := 40) +contextual [*]
@[simp] theorem State.addFlow_From {a : State} (s : State) (c : Nat) (f : Flow) (hf : s.From a) :
    (State.addFlow s c f).From a := by
  unfold State.addFlow; simp (maxDischargeDepth := 40) +contextual [*]

end Sys2Proof.Machine
end

