-- ==== Sys2Proof/Laws/Reach/Operands.lean ====
section
/-! SUPPORT. Laws/Reach/Operands.lean: what each operation of Machine/Operands.lean can do to the tables (`From`). -/

namespace Sys2Proof.Machine



end Sys2Proof.Machine
end

