-- ==== Sys2Proof/Laws/Reach/Neuron.lean ====
section
/-! SUPPORT. Laws/Reach/Neuron.lean: what each operation of Machine/Neuron.lean can do to the tables (`From`). -/

namespace Sys2Proof.Machine

@[simp] theorem State.runLanes_From {a : State} (s : State) (n : Nat) (f : Slot → Ctx → Lane → Lane × NFlags) (hf : s.From a) :
    (State.runLanes s n f).From a := by
  unfold State.runLanes; simp (maxDischargeDepth := 40) +contextual [*]
@[simp] theorem State.phase2End_From {a : State} (s : State) (n : Nat) (hf : s.From a) :
    (State.phase2End s n).From a := by
  unfold State.phase2End; simp (maxDischargeDepth := 40) +contextual [*]
@[simp] theorem State.startGroup_From {a : State} (s : State) (n : Nat) (hf : s.From a) :
    (State.startGroup s n).From a := by
  unfold State.startGroup; (repeat' split) <;> simp (maxDischargeDepth := 40) +contextual [*]
@[simp] theorem State.endLane_From {a : State} (s : State) (t : Slot) (l : Lane) (hf : s.From a) :
    (State.endLane s t l).From a := by
  unfold State.endLane; simp (maxDischargeDepth := 40) +contextual [*]
@[simp] theorem State.endGroup_From {a : State} (s : State) (n : Nat) (hf : s.From a) :
    (State.endGroup s n).From a := by
  unfold State.endGroup; simp (maxDischargeDepth := 40) +contextual [*]

end Sys2Proof.Machine
end

