-- ==== Sys2Proof/Laws/Reach/Formats.lean ====
section
/-! SUPPORT. Laws/Reach/Formats.lean: what each operation of Machine/Formats.lean can do to the tables (`From`). -/

namespace Sys2Proof.Machine

@[simp] theorem State.countConv_From {a : State} (s : State) (n : Nat) (c : Conv) (hf : s.From a) :
    (State.countConv s n c).From a := by
  unfold State.countConv; simp (maxDischargeDepth := 40) +contextual [*]
@[simp] theorem State.countBads_From {a : State} (s : State) (n k : Nat) (hf : s.From a) :
    (State.countBads s n k).From a := by
  unfold State.countBads; simp (maxDischargeDepth := 40) +contextual [*]

end Sys2Proof.Machine
end

