-- ==== Sys2Proof/Laws/Reach/Streams.lean ====
section
/-! SUPPORT. Laws/Reach/Streams.lean: what each operation of Machine/Streams.lean can do to the tables (`From`). -/

namespace Sys2Proof.Machine

@[simp] theorem State.record_From {a : State} (s : State) (h : Hdr) (cseq : Word64) (op st : Byte) (res : Nat) (hf : s.From a) :
    (State.record s h cseq op st res).From a := by
  unfold State.record; simp (maxDischargeDepth := 40) +contextual [*]
@[simp] theorem State.complete_From {a : State} (s : State) (h : Hdr) (cseq : Word64) (op st : Byte) (res : Nat) (hf : s.From a) :
    (State.complete s h cseq op st res).From a := by
  unfold State.complete; simp (maxDischargeDepth := 40) +contextual [*]
@[simp] theorem State.outstanding_From {a : State} (s : State) (h : Hdr) (cseq : Word64) (op : Byte) (arg : Nat) (hf : s.From a) :
    (State.outstanding s h cseq op arg).From a := by
  unfold State.outstanding; simp (maxDischargeDepth := 40) +contextual [*]
@[simp] theorem State.finish_From {a : State} (s : State) (h : Hdr) (cseq : Word64) (op st : Byte) (res : Nat) (hf : s.From a) :
    (State.finish s h cseq op st res).From a := by
  unfold State.finish; simp (maxDischargeDepth := 40) +contextual [*]
@[simp] theorem State.freezeNotice_From {a : State} (s : State) (kind b num : Nat) (cause op : Byte) (tail : Nat) (hf : s.From a) :
    (State.freezeNotice s kind b num cause op tail).From a := by
  unfold State.freezeNotice; simp (maxDischargeDepth := 40) +contextual [*]
@[simp] theorem State.completeAll_From {a : State} (s : State) (q : List StepCmd) (l : List Outst) (st : Byte) (hf : s.From a) :
    (State.completeAll s q l st).From a := by
  unfold State.completeAll; simp (maxDischargeDepth := 40) +contextual [*]
@[simp] theorem State.completeHeld_From {a : State} (s : State) (l : List (Word64 × Instr)) (st : Byte) (hf : s.From a) :
    (State.completeHeld s l st).From a := by
  unfold State.completeHeld
  apply State.From_forAll _ _ hf
  intro s x h
  split <;> simp (maxDischargeDepth := 40) [*]
@[simp] theorem State.cancelWaits_From {a : State} (s : State) (n : BitVec 8) (l : List Outst) (hf : s.From a) :
    (State.cancelWaits s n l).From a := by
  unfold State.cancelWaits; simp (maxDischargeDepth := 40) +contextual [*]
@[simp] theorem State.freezeBase_From {a : State} (s : State) (n : BitVec 8) (cause op : Byte) (cseq : Word64) (hf : s.From a) :
    (State.freezeBase s n cause op cseq).From a := by
  unfold State.freezeBase; simp (maxDischargeDepth := 40) +contextual [*]
@[simp] theorem State.freezeCore_From {a : State} (s : State) (n sysNum : Nat) (hf : s.From a) :
    (State.freezeCore s n sysNum).From a := by
  unfold State.freezeCore; simp (maxDischargeDepth := 40) +contextual [*]
@[simp] theorem State.freezeChan_From {a : State} (s : State) (k : Nat) (hf : s.From a) :
    (State.freezeChan s k).From a := by
  unfold State.freezeChan; simp (maxDischargeDepth := 40) +contextual [*]

end Sys2Proof.Machine
end

