-- ==== Sys2Proof/Laws/Reach/Channels.lean ====
section
/-! SUPPORT. Laws/Reach/Channels.lean: what each operation of Machine/Channels.lean can do to the tables (`From`). -/

namespace Sys2Proof.Machine

@[simp] theorem State.readInsts_From {a0 : State} (s : State) (a : Nat) (l : List Byte) (hf : s.From a0) :
    (State.readInsts s a l).2.From a0 := by
  unfold State.readInsts; simp only []; (repeat' (first | exact hf | (refine State.From_forAll ?_ _ ?_; intro s x h) | split)) <;> simp_all (maxDischargeDepth := 40) +contextual
theorem State.readInsts_From' {a0 : State} (s : State) (a : Nat) (l : List Byte) (hf : s.From a0) {t0 : State} {y0 : List Byte}
    (ht : State.readInsts s a l = (y0, t0)) : t0.From a0 := by
  have h0 := State.readInsts_From s a l hf; rw [ht] at h0; exact h0
@[simp] theorem State.writeInsts_From {a0 : State} (s : State) (a n : Nat) (hf : s.From a0) :
    (State.writeInsts s a n).From a0 := by
  unfold State.writeInsts; simp (maxDischargeDepth := 40) +contextual [*]
@[simp] theorem State.clearInstsAt_From {a0 : State} (s : State) (a n : Nat) (hf : s.From a0) :
    (State.clearInstsAt s a n).From a0 := by
  unfold State.clearInstsAt; simp (maxDischargeDepth := 40) +contextual [*]
@[simp] theorem State.chanNote_From {a : State} (s : State) (ctr : Nat) (bit : Option Nat) (h cidx : Nat) (hf : s.From a) :
    (State.chanNote s ctr bit h cidx).From a := by
  unfold State.chanNote; (repeat' split) <;> simp (maxDischargeDepth := 40) +contextual [*]
@[simp] theorem State.chanOps_From {a : State} (s : State) (n : Nat) (hf : s.From a) :
    (State.chanOps s n).From a := by
  unfold State.chanOps; simp (maxDischargeDepth := 40) +contextual [*]
@[simp] theorem State.chanBads_From {a : State} (s : State) (h cidx k : Nat) (hf : s.From a) :
    (State.chanBads s h cidx k).From a := by
  unfold State.chanBads; simp (maxDischargeDepth := 40) +contextual [*]
@[simp] theorem State.chanConv_From {a : State} (s : State) (b : Nat) (carried : Bool) (c : Conv) (hf : s.From a) :
    (State.chanConv s b carried c).From a := by
  unfold State.chanConv; simp (maxDischargeDepth := 40) +contextual [*]
@[simp] theorem State.levels_From {a : State} (s : State) (h cidx : Nat) (scales : Option (List Nat × List Nat)) (zin : Int) (row : List Byte) (hf : s.From a) :
    (State.levels s h cidx scales zin row).2.2.From a := by
  unfold State.levels; simp only []; (repeat' split) <;> simp_all (maxDischargeDepth := 40) +contextual
theorem State.levels_From' {a : State} (s : State) (h cidx : Nat) (scales : Option (List Nat × List Nat)) (zin : Int) (row : List Byte) (hf : s.From a) {t0 : State} {y0 : List Nat} {z0 : Option (List Nat × List Nat)}
    (ht : State.levels s h cidx scales zin row = (y0, z0, t0)) : t0.From a := by
  have h0 := State.levels_From s h cidx scales zin row hf; rw [ht] at h0; exact h0

end Sys2Proof.Machine
end

