-- ==== Sys2Proof/Laws/Reach/Synapse.lean ====
section
/-! SUPPORT. Laws/Reach/Synapse.lean: what each operation of Machine/Synapse.lean can do to the tables (`From`). -/

namespace Sys2Proof.Machine

@[simp] theorem State.phase1Try_From {a : State} (s : State) (n : Nat) (hf : s.From a) :
    (State.phase1Try s n).From a := by
  unfold State.phase1Try; simp (maxDischargeDepth := 40) +contextual [*]
@[simp] theorem State.dropEvent_From {a : State} (s : State) (n : Nat) (e : Ev) (why : Nat) (hf : s.From a) :
    (State.dropEvent s n e why).From a := by
  unfold State.dropEvent; simp (maxDischargeDepth := 40) +contextual [*]
@[simp] theorem State.binInbox_From {a : State} (s : State) (n : Nat) (hf : s.From a) :
    (State.binInbox s n).From a := by
  unfold State.binInbox; simp (maxDischargeDepth := 40) +contextual [*]
@[simp] theorem State.windowSort_From {a : State} (s : State) (n : Nat) (hf : s.From a) :
    (State.windowSort s n).From a := by
  unfold State.windowSort; simp only []; (repeat' split) <;> simp_all (maxDischargeDepth := 40) +contextual
@[simp] theorem State.rowRead_From {a : State} (s : State) (n : Nat) (hf : s.From a) :
    (State.rowRead s n).From a := by
  unfold State.rowRead; simp only []; (repeat' split) <;> simp_all (maxDischargeDepth := 40) +contextual
@[simp] theorem State.addOne_From {a0 : State} (s : State) (n : Nat) (a : Addn) (hf : s.From a0) :
    (State.addOne s n a).From a0 := by
  unfold State.addOne; simp (maxDischargeDepth := 40) +contextual [*]
@[simp] theorem State.additionRun_From {a : State} (s : State) (n : Nat) (hf : s.From a) :
    (State.additionRun s n).From a := by
  unfold State.additionRun; simp only []; (repeat' split) <;> simp_all (maxDischargeDepth := 40) +contextual
@[simp] theorem State.putIn_From {a : State} (s : State) (c : Ctx) (t : Slot) (i : Nat) (x : Int) (hf : s.From a) :
    (State.putIn s c t i x).From a := by
  unfold State.putIn; simp (maxDischargeDepth := 40) +contextual [*]
@[simp] theorem State.windowFlush_From {a : State} (s : State) (n : Nat) (hf : s.From a) :
    (State.windowFlush s n).From a := by
  unfold State.windowFlush; (try dsimp only); repeat' (first | exact hf | assumption | split | with_reducible apply State.setCor_From | with_reducible apply State.rsetBit_From | with_reducible apply State.forAll_From | with_reducible apply State.stepStatus_From | with_reducible apply State.putIn_From | (with_reducible apply State.From_forAll; intros) | (with_reducible apply State.From_fold; intros) | (with_reducible apply State.From_fold1; intros) | simp only [State.OptFrom_none, State.OptFrom_some] | with_reducible apply State.getD_From | simp only [State.From_mk, Track.To_fold])
@[simp] theorem State.phase2Start_From {a : State} (s : State) (n : Nat) (hf : s.From a) :
    (State.phase2Start s n).From a := by
  unfold State.phase2Start; simp (maxDischargeDepth := 40) +contextual [*]
@[simp] theorem State.berthFillStart_From {a : State} (s : State) (n b : Nat) (hf : s.From a) :
    (State.berthFillStart s n b).From a := by
  unfold State.berthFillStart; simp only []; (repeat' split) <;> simp_all (maxDischargeDepth := 40) +contextual
@[simp] theorem State.fillRows_From {a : State} (s : State) (n : Nat) (d : MatDesc) (base : Nat) (hf : s.From a) :
    (State.fillRows s n d base).From a := by
  unfold State.fillRows; simp (maxDischargeDepth := 40) +contextual [*]
@[simp] theorem State.berthReady_From {a : State} (s : State) (n b : Nat) (hf : s.From a) :
    (State.berthReady s n b).From a := by
  unfold State.berthReady; simp only []; (repeat' split) <;> simp_all (maxDischargeDepth := 40) +contextual

end Sys2Proof.Machine
end

