-- ==== Sys2Proof/Laws/Reach/Learning.lean ====
section
/-! SUPPORT. Laws/Reach/Learning.lean: what each operation of Machine/Learning.lean can do to the tables (`From`). -/

namespace Sys2Proof.Machine

@[simp] theorem State.setConv_From {a0 : State} (s : State) (a : Nat) (hf : s.From a0) :
    (State.setConv s a).From a0 := by
  unfold State.setConv; simp (maxDischargeDepth := 40) +contextual [*]
@[simp] theorem State.dropConv_From {a0 : State} (s : State) (a n : Nat) (hf : s.From a0) :
    (State.dropConv s a n).From a0 := by
  unfold State.dropConv; simp (maxDischargeDepth := 40) +contextual [*]
@[simp] theorem State.stepRt_From {a : State} (s : State) (c : Ctx) (t : Slot) (rl : RuleDesc) (l : List Addn) (m r i : Nat) (hf : s.From a) :
    (State.stepRt s c t rl l m r i).From a := by
  unfold State.stepRt; simp (maxDischargeDepth := 40) +contextual [*]
@[simp] theorem State.ruleEcc_From {a : State} (s : State) (n m : Nat) (hf : s.From a) :
    (State.ruleEcc s n m).From a := by
  unfold State.ruleEcc; simp (maxDischargeDepth := 40) +contextual [*]
@[simp] theorem State.applyStatus_From {a : State} (s : State) (n m : Nat) (st : Byte) (hf : s.From a) :
    (State.applyStatus s n m st).From a := by
  unfold State.applyStatus; simp (maxDischargeDepth := 40) +contextual [*]
@[simp] theorem State.ruleDsat_From {a : State} (s : State) (n m b : Nat) (hf : s.From a) :
    (State.ruleDsat s n m b).From a := by
  unfold State.ruleDsat; simp (maxDischargeDepth := 40) +contextual [*]
@[simp] theorem State.ruleConv_From {a : State} (s : State) (n m : Nat) (carried : Bool) (c : Conv) (hf : s.From a) :
    (State.ruleConv s n m carried c).From a := by
  unfold State.ruleConv; simp (maxDischargeDepth := 40) +contextual [*]
@[simp] theorem State.foldRow_From {a : State} (s : State) (n m : Nat) (cs : List (Nat × Ctx)) (g k r : Nat) (hf : s.From a) :
    (State.foldRow s n m cs g k r).From a := by
  unfold State.foldRow; simp (maxDischargeDepth := 40) +contextual [*]
@[simp] theorem State.addTacc_From {a : State} (s : State) (n m r : Nat) (x : Int) (hf : s.From a) :
    (State.addTacc s n m r x).From a := by
  unfold State.addTacc; simp (maxDischargeDepth := 40) +contextual [*]
@[simp] theorem State.learnRule_From {a : State} (s : State) (n m : Nat) (hf : s.From a) :
    (State.learnRule s n m).From a := by
  unfold State.learnRule; simp only []; (repeat' split) <;> simp_all (maxDischargeDepth := 40) +contextual
@[simp] theorem State.learningPass_From {a : State} (s : State) (n : Nat) (hf : s.From a) :
    (State.learningPass s n).From a := by
  unfold State.learningPass; simp (maxDischargeDepth := 40) +contextual [*]
@[simp] theorem State.setRuleState_From {a : State} (s : State) (p : Nat × Nat) (v : Nat) (hf : s.From a) :
    (State.setRuleState s p v).From a := by
  unfold State.setRuleState; simp (maxDischargeDepth := 40) +contextual [*]
@[simp] theorem State.carry_From {a : State} (s : State) (b n m : Nat) (dev : BitVec 6) (core : Nat) (xs : List Xfer) (hf : s.From a) :
    (State.carry s b n m dev core xs).From a := by
  unfold State.carry; (try dsimp only); repeat' (first | exact hf | assumption | split | with_reducible apply State.send_From | with_reducible apply State.forAll_From | with_reducible apply State.bulkOut_From | with_reducible apply State.addFlow_From | (with_reducible apply State.From_forAll; intros) | (with_reducible apply State.From_fold; intros) | (with_reducible apply State.From_fold1; intros) | refine State.bulkOut_From' ?_ (by assumption) | simp only [State.OptFrom_none, State.OptFrom_some] | with_reducible apply State.getD_From | simp only [State.From_mk, Track.To_fold])
@[simp] theorem State.deltaRead_From {a : State} (s : State) (n m : Nat) (x : Nat × Nat) (hf : s.From a) :
    (State.deltaRead s n m x).From a := by
  unfold State.deltaRead; simp (maxDischargeDepth := 40) +contextual [*]
@[simp] theorem State.sendDeltas_From {a : State} (s : State) (b n m : Nat) (hf : s.From a) :
    (State.sendDeltas s b n m).From a := by
  unfold State.sendDeltas; simp only []; (repeat' (first | exact hf | (refine State.From_forAll ?_ _ ?_; intro s x h) | split)) <;> simp_all (maxDischargeDepth := 40) +contextual
@[simp] theorem State.openRule_From {a : State} (s : State) (b : Nat) (p : Nat × Nat) (hf : s.From a) :
    (State.openRule s b p).From a := by
  unfold State.openRule; simp (maxDischargeDepth := 40) +contextual [*]
@[simp] theorem State.applyOpen_From {a : State} (s : State) (b : Nat) (granted : List (BitVec 8)) (hf : s.From a) :
    (State.applyOpen s b granted).From a := by
  unfold State.applyOpen; simp (maxDischargeDepth := 40) +contextual [*]
@[simp] theorem State.addPiece_From {a : State} (s : State) (own m c r : Nat) (x : Nat × Nat) (cols : Nat) (cleared : Bool) (piece : List Byte) (hf : s.From a) :
    (State.addPiece s own m c r x cols cleared piece).From a := by
  unfold State.addPiece; simp (maxDischargeDepth := 40) +contextual [*]
@[simp] theorem State.addLocal_From {a : State} (s : State) (own m mem : Nat) (rows : List Nat) (hf : s.From a) :
    (State.addLocal s own m mem rows).From a := by
  unfold State.addLocal; simp (maxDischargeDepth := 40) +contextual [*]
@[simp] theorem State.chunkArrival_From {a : State} (s : State) (own m mem chunk : Nat) (rows : List (Nat × List Byte)) (hf : s.From a) :
    (State.chunkArrival s own m mem chunk rows).From a := by
  unfold State.chunkArrival; simp only []; (repeat' split) <;> simp_all (maxDischargeDepth := 40) +contextual
@[simp] theorem State.optRow_From {a0 : State} (s : State) (n m a data cols cvt : Nat) (new : List Dy → List Dy) (hf : s.From a0) :
    (State.optRow s n m a data cols cvt new).1.From a0 := by
  unfold State.optRow; simp (maxDischargeDepth := 40) +contextual [*]
theorem State.optRow_From' {a0 : State} (s : State) (n m a data cols cvt : Nat) (new : List Dy → List Dy) (hf : s.From a0) {t0 : State} {y0 : List Dy}
    (ht : State.optRow s n m a data cols cvt new = (t0, y0)) : t0.From a0 := by
  have h0 := State.optRow_From s n m a data cols cvt new hf; rw [ht] at h0; exact h0
@[simp] theorem State.optimise_From {a : State} (s : State) (n m r : Nat) (hf : s.From a) :
    (State.optimise s n m r).1.From a := by
  unfold State.optimise; simp only []; (repeat' split) <;> simp_all (maxDischargeDepth := 40) +contextual
theorem State.optimise_From' {a : State} (s : State) (n m r : Nat) (hf : s.From a) {t0 : State} {y0 : List Dy}
    (ht : State.optimise s n m r = (t0, y0)) : t0.From a := by
  have h0 := State.optimise_From s n m r hf; rw [ht] at h0; exact h0
@[simp] theorem State.loadedOver_From {a0 : State} (s : State) (a n : Nat) (hf : s.From a0) :
    (State.loadedOver s a n).From a0 := by
  unfold State.loadedOver; simp (maxDischargeDepth := 40) +contextual [*]
@[simp] theorem State.stageRow_From {a : State} (s : State) (n m : Nat) (x : Nat × List Dy) (hf : s.From a) :
    (State.stageRow s n m x).From a := by
  unfold State.stageRow; simp (maxDischargeDepth := 40) +contextual [*]
@[simp] theorem State.computeRows_From {a : State} (s : State) (n m : Nat) (rows : List Nat) (hf : s.From a) :
    (State.computeRows s n m rows).From a := by
  unfold State.computeRows; simp (maxDischargeDepth := 40) +contextual [*]
@[simp] theorem State.sendRows_From {a : State} (s : State) (b n m chunk : Nat) (hf : s.From a) :
    (State.sendRows s b n m chunk).From a := by
  unfold State.sendRows; simp (maxDischargeDepth := 40) +contextual [*]
@[simp] theorem State.chunkCommit_From {a : State} (s : State) (n m chunk : Nat) (hf : s.From a) :
    (State.chunkCommit s n m chunk).From a := by
  unfold State.chunkCommit; simp (maxDischargeDepth := 40) +contextual [*]
@[simp] theorem State.writeWeights_From {a : State} (s : State) (n m r seg : Nat) (bytes : List Byte) (hf : s.From a) :
    (State.writeWeights s n m r seg bytes).From a := by
  unfold State.writeWeights; simp (maxDischargeDepth := 40) +contextual [*]
@[simp] theorem State.writePart_From {a : State} (s : State) (own m mem : Nat) (x : Nat × List Byte) (hf : s.From a) :
    (State.writePart s own m mem x).From a := by
  unfold State.writePart; simp (maxDischargeDepth := 40) +contextual [*]
@[simp] theorem State.writeStaged_From {a : State} (s : State) (own m : Nat) (x : Nat × List Byte) (hf : s.From a) :
    (State.writeStaged s own m x).From a := by
  unfold State.writeStaged; simp (maxDischargeDepth := 40) +contextual [*]
@[simp] theorem State.writeFar_From {a : State} (s : State) (n m : Nat) (x : Nat × Nat × List Byte) (hf : s.From a) :
    (State.writeFar s n m x).From a := by
  unfold State.writeFar; simp (maxDischargeDepth := 40) +contextual [*]
@[simp] theorem State.overlapCommit_From {a : State} (s : State) (n m : Nat) (rows : List (Nat × Nat × List Byte)) (hf : s.From a) :
    (State.overlapCommit s n m rows).From a := by
  unfold State.overlapCommit; simp (maxDischargeDepth := 40) +contextual [*]
@[simp] theorem State.clearDeltas_From {a : State} (s : State) (n m g : Nat) (all : Bool) (hf : s.From a) :
    (State.clearDeltas s n m g all).From a := by
  unfold State.clearDeltas; simp (maxDischargeDepth := 40) +contextual [*]
@[simp] theorem State.closeRule_From {a : State} (s : State) (p : Nat × Nat) (hf : s.From a) :
    (State.closeRule s p).From a := by
  unfold State.closeRule; simp (maxDischargeDepth := 40) +contextual [*]
@[simp] theorem State.endApplies_From {a : State} (s : State) (b g epoch : Nat) (st : Byte) (hf : s.From a) :
    (State.endApplies s b g epoch st).From a := by
  unfold State.endApplies; simp (maxDischargeDepth := 40) +contextual [*]
@[simp] theorem State.autoStatus_From {a : State} (s : State) (b g : Nat) (st : Byte) (hf : s.From a) :
    (State.autoStatus s b g st).From a := by
  unfold State.autoStatus; simp (maxDischargeDepth := 40) +contextual [*]
@[simp] theorem State.applyReport_From {a : State} (s : State) (b g : Nat) (auto : Bool) (st : Byte) (epoch : Nat) (hf : s.From a) :
    (State.applyReport s b g auto st epoch).From a := by
  unfold State.applyReport; simp (maxDischargeDepth := 40) +contextual [*]
@[simp] theorem State.closeGroup_From {a : State} (s : State) (b g : Nat) (others : List (BitVec 8 × Bool × Byte × BitVec 48)) (hf : s.From a) :
    (State.closeGroup s b g others).From a := by
  unfold State.closeGroup; simp (maxDischargeDepth := 40) +contextual [*]
@[simp] theorem State.writeReported_From {a : State} (s : State) (b : Nat) (gs : List Nat) (rows : List (BitVec 10 × BitVec 8 × Nat × Nat × List Byte)) (hf : s.From a) :
    (State.writeReported s b gs rows).From a := by
  unfold State.writeReported; simp (maxDischargeDepth := 40) +contextual [*]
@[simp] theorem State.applyClose_From {a : State} (s : State) (b : Nat) (rows : List (BitVec 10 × BitVec 8 × Nat × Nat × List Byte)) (others : List (BitVec 8 × Bool × Byte × BitVec 48)) (hf : s.From a) :
    (State.applyClose s b rows others).From a := by
  unfold State.applyClose; simp (maxDischargeDepth := 40) +contextual [*]
@[simp] theorem State.reductionPartitioned_From {a : State} (s : State) (n m chunk : Nat) (hf : s.From a) :
    (State.reductionPartitioned s n m chunk).From a := by
  unfold State.reductionPartitioned; simp (maxDischargeDepth := 40) +contextual [*]
@[simp] theorem State.moveDelays_From {a : State} (s : State) (n target m : Nat) (votes : List Int) (hf : s.From a) :
    (State.moveDelays s n target m votes).From a := by
  unfold State.moveDelays
  refine State.From_forAll (fun s u h => ?_) _ hf
  dsimp only
  split
  · exact State.count_From _ _ _ (State.putLe_From _ _ _ _ h)
  · exact h
@[simp] theorem State.applyVotes_From {a : State} (s : State) (b : Nat) (hf : s.From a) :
    (State.applyVotes s b).From a := by
  unfold State.applyVotes; simp (maxDischargeDepth := 40) +contextual [*]
@[simp] theorem State.sendVotes_From {a : State} (s : State) (b n m target due : Nat) (vs : List Int) (hf : s.From a) :
    (State.sendVotes s b n m target due vs).From a := by
  unfold State.sendVotes; simp (maxDischargeDepth := 40) +contextual [*]
@[simp] theorem State.delayVote_From {a : State} (s : State) (b target m g : Nat) (votes : List (BitVec 2)) (remote : List Int) (due : Nat) (hf : s.From a) :
    (State.delayVote s b target m g votes remote due).From a := by
  unfold State.delayVote; simp only []; (repeat' (first | exact hf | (refine State.From_forAll ?_ _ ?_; intro s x h) | split)) <;> simp_all (maxDischargeDepth := 40) +contextual

end Sys2Proof.Machine
end

