-- ==== Sys2Proof/Laws/Reach/Events.lean ====
section
/-! SUPPORT. Laws/Reach/Events.lean: what each operation of Machine/Events.lean can do to the tables (`From`). -/

namespace Sys2Proof.Machine

@[simp] theorem State.spillPeak_From {a : State} (s : State) (hf : s.From a) :
    (State.spillPeak s).From a := by
  unfold State.spillPeak; simp (maxDischargeDepth := 40) +contextual [*]
@[simp] theorem State.pageWrite_From {a0 : State} (s : State) (a n : Nat) (hf : s.From a0) :
    (State.pageWrite s a n).From a0 := by
  unfold State.pageWrite; simp (maxDischargeDepth := 40) +contextual [*]
@[simp] theorem State.putRing_From {a : State} (s : State) (n k : Nat) (l : List Ev) (hf : s.From a) :
    (State.putRing s n k l).From a := by
  unfold State.putRing
  extract_lets x runs more s1 s2
  have h1 : s1.From a := State.setPages_From _ _ _ (State.setRing_From _ _ _ hf)
  have h2 : s2.From a := State.From_forAll (fun s r h => by simp [h]) _ h1
  refine State.spillPeak_From _ ?_
  split
  · exact State.rsetBit_From _ _ _ _ h2
  · exact h2
@[simp] theorem State.shrinkRing_From {a : State} (s : State) (n k : Nat) (l : List Ev) (hf : s.From a) :
    (State.shrinkRing s n k l).From a := by
  unfold State.shrinkRing; simp (maxDischargeDepth := 40) +contextual [*]
@[simp] theorem State.drainRuns_From {a : State} (s : State) (n k : Nat) (hf : s.From a) : (s.drainRuns n k).2.From a := by
  simp only [State.drainRuns]
  split
  · exact hf
  · exact State.stepStatus_From _ _ _ (State.rsetBit_From _ _ _ _ (State.count_From _ _ _ hf))
theorem State.drainRuns_From' {a : State} (s : State) (n k : Nat) (hf : s.From a) {t0 : State} {y0 : List Ev}
    (ht : s.drainRuns n k = (y0, t0)) : t0.From a := by
  have h0 := State.drainRuns_From s n k hf; rw [ht] at h0; exact h0
@[simp] theorem State.holdRec_From {a : State} (s : State) (c core : Nat) (e : Ev) (delay : Nat) (hf : s.From a) :
    (State.holdRec s c core e delay).From a := by
  unfold State.holdRec; simp (maxDischargeDepth := 40) +contextual [*]
@[simp] theorem State.reinsert_From {a : State} (s : State) (c : Nat) (hf : s.From a) :
    (State.reinsert s c).From a := by
  unfold State.reinsert; simp (maxDischargeDepth := 40) +contextual [*]
@[simp] theorem State.takeBucket_From {a : State} (s : State) (b c x n k : Nat) (hf : s.From a) :
    (State.takeBucket s b c x n k).From a := by
  unfold State.takeBucket; simp (maxDischargeDepth := 40) +contextual [*]
@[simp] theorem State.pullEvents_From {a : State} (s : State) (b c : Nat) (hf : s.From a) :
    (State.pullEvents s b c).From a := by
  unfold State.pullEvents; simp (maxDischargeDepth := 40) +contextual [*]
@[simp] theorem State.regate_From {a : State} (s : State) (b : Nat) (hf : s.From a) :
    (State.regate s b).From a := by
  unfold State.regate; simp (maxDischargeDepth := 40) +contextual [*]
@[simp] theorem State.withhold_From {a : State} (s : State) (b n : Nat) (e : Ev) (delay : Nat) (hf : s.From a) :
    (State.withhold s b n e delay).From a := by
  unfold State.withhold; (repeat' split) <;> simp (maxDischargeDepth := 40) +contextual [*]
@[simp] theorem State.inboxSpill_From {a : State} (s : State) (n bytes : Nat) (hf : s.From a) :
    (State.inboxSpill s n bytes).From a := by
  unfold State.inboxSpill; simp (maxDischargeDepth := 40) +contextual [*]
@[simp] theorem State.stepStart_From {a : State} (s : State) (n : Nat) (hf : s.From a) :
    (State.stepStart s n).From a := by
  unfold State.stepStart
  extract_lets c b bd k
  split
  · exact hf
  · split
    rename_i evs s1 he
    have h1 : s1.From a := State.drainRuns_From' s n k hf he
    extract_lets s2 r s3 hold go ok s4 s5 s6 s7 c8 s8 s9
    have h2 : s2.From a := State.setPages_From _ _ _ (State.setRing_From _ _ _ h1)
    have h3 : s3.From a := h2
    have h4 : s4.From a := State.From_forAll (fun s x h => State.withhold_From _ _ _ _ _ h) _ h3
    have h7 : s7.From a := State.inboxSpill_From _ _ _ (State.maxReg_From _ _ _ (State.count_From _ _ _ h4))
    split
    · exact State.setCor_From _ _ h7
    · have h8 : s8.From a := State.setCor_From _ _ h7
      refine State.phase1Try_From _ _ ?_
      simp only [s9]; split
      · exact State.countFree_From _ _ h8
      · exact h8
@[simp] theorem State.setReplica_From {a : State} (s : State) (p : Packet) (hf : s.From a) :
    (State.setReplica s p).From a := by exact { hf with replicas := .set _ _ hf.replicas }
@[simp] theorem State.closePacket_From {a : State} (s : State) (n : Nat) (p : Packet) (hf : s.From a) :
    (State.closePacket s n p).From a := by
  unfold State.closePacket; (repeat' split) <;> simp (maxDischargeDepth := 40) +contextual [*]
@[simp] theorem State.addReplica_From {a : State} (s : State) (n dst matrix delay cidx row cnt : Nat) (fixed : Bool) (hf : s.From a) :
    (State.addReplica s n dst matrix delay cidx row cnt fixed).From a := by
  unfold State.addReplica; simp only []; (repeat' split) <;> simp_all (maxDischargeDepth := 40) +contextual
@[simp] theorem State.routeEcc_From {a : State} (s : State) (n : Nat) (hf : s.From a) :
    (State.routeEcc s n).From a := by
  unfold State.routeEcc; simp (maxDischargeDepth := 40) +contextual [*]
@[simp] theorem State.expandEntry_From {a : State} (s : State) (n : Nat) (f : Firing) (u : Nat) (hf : s.From a) :
    (State.expandEntry s n f u).From a := by
  unfold State.expandEntry; simp (maxDischargeDepth := 40) +contextual [*]
@[simp] theorem State.closeAll_From {a : State} (s : State) (n : Nat) (hf : s.From a) :
    (State.closeAll s n).From a := by
  unfold State.closeAll; simp (maxDischargeDepth := 40) +contextual [*]
@[simp] theorem State.stallOpen_From {a : State} (s : State) (n : Nat) (hf : s.From a) :
    (State.stallOpen s n).From a := by
  unfold State.stallOpen; simp (maxDischargeDepth := 40) +contextual [*]
@[simp] theorem State.expandFrom_From {a : State} (n : Nat) (f : Firing) (l : List Nat) (s : State) (hf : s.From a) :
    (State.expandFrom n f l s).From a := by
  induction l generalizing s with
  | nil => exact hf
  | cons u r ih =>
    simp only [State.expandFrom]
    split
    · exact hf
    · exact ih _ (State.setCor_From _ _ (State.expandEntry_From _ _ _ _ hf))
@[simp] theorem State.routeExpand_From {a : State} (s : State) (n : Nat) (hf : s.From a) :
    (State.routeExpand s n).From a := by
  unfold State.routeExpand
  extract_lets c
  split
  · exact hf
  · extract_lets taps s1 s2 us s3 s4
    split
    · exact hf
    · split
      · exact State.countFree_From _ _ hf
      · have h1 : s1.From a := hf
        have h2 : s2.From a := by
          simp only [s2]; (repeat' split)
          · exact h1
          · exact State.routeEcc_From _ _ h1
          · exact h1
        have h3 : s3.From a := State.expandFrom_From _ _ _ _ h2
        split
        · exact State.countFree_From _ _ h3
        · split
          · exact State.stallOpen_From _ _ (State.closeAll_From _ _ (State.setCor_From _ _ h3))
          · exact State.setCor_From _ _ h3
@[simp] theorem State.heldLast_From {a : State} (s : State) (b cond dev core : Nat) (hf : s.From a) :
    (State.heldLast s b cond dev core).From a := by
  unfold State.heldLast; simp (maxDischargeDepth := 40) +contextual [*]
@[simp] theorem State.coreDone_From {a : State} (s : State) (n : Nat) (hf : s.From a) :
    (State.coreDone s n).From a := by
  unfold State.coreDone; simp (maxDischargeDepth := 40) +contextual [*]
@[simp] theorem State.setCredits_From {a : State} (s : State) (dst v : Nat) (hf : s.From a) :
    (State.setCredits s dst v).From a := by exact { hf with credits := .set _ _ hf.credits }
@[simp] theorem State.freeReplica_From {a : State} (s : State) (dst : Nat) (hf : s.From a) :
    (State.freeReplica s dst).From a := by
  unfold State.freeReplica
  extract_lets r u
  have hu : u.From a := { hf with replicas := .filter _ hf.replicas }
  clear_value u
  (repeat' split) <;> simp (maxDischargeDepth := 40) [hu, *]
@[simp] theorem State.oneAccepted_From {a : State} (s : State) (b core : Nat) (hf : s.From a) :
    (State.oneAccepted s b core).From a := by
  unfold State.oneAccepted; simp (maxDischargeDepth := 40) +contextual [*]
@[simp] theorem State.packetSend_From {a : State} (s : State) (dst : Nat) (hf : s.From a) :
    (State.packetSend s dst).From a := by
  unfold State.packetSend; (repeat' split) <;> simp (maxDischargeDepth := 40) +contextual [*]
@[simp] theorem State.storePacket_From {a : State} (s : State) (n : Nat) (p : Packet) (hf : s.From a) :
    (State.storePacket s n p).1.From a := by
  unfold State.storePacket
  extract_lets k st m r s1
  split
  · have h1 : s1.From a := { hf with staging := .set _ _ hf.staging }
    show State.From (if _ then _ else _) a
    split
    · exact State.rsetBit_From _ _ _ _ h1
    · exact h1
  · exact State.putRing_From _ _ _ _ hf
theorem State.storePacket_From' {a : State} (s : State) (n : Nat) (p : Packet) (hf : s.From a) {t0 : State} {y0 : Nat}
    (ht : State.storePacket s n p = (t0, y0)) : t0.From a := by
  have h0 := State.storePacket_From s n p hf; rw [ht] at h0; exact h0
@[simp] theorem State.creditBack_From {a : State} (s : State) (src : BitVec 6) (dst : Nat) (hf : s.From a) :
    (State.creditBack s src dst).From a := by
  unfold State.creditBack; simp (maxDischargeDepth := 40) +contextual [*]
@[simp] theorem State.acceptPacket_From {a : State} (s : State) (src : BitVec 6) (n : Nat) (p : Packet) (hf : s.From a) :
    (State.acceptPacket s src n p).From a := by
  unfold State.acceptPacket; simp (maxDischargeDepth := 40) +contextual [*]
@[simp] theorem State.packetAccept_From {a : State} (s : State) (src : BitVec 6) (p : Packet) (hf : s.From a) :
    (State.packetAccept s src p).From a := by
  unfold State.packetAccept; (try dsimp only); repeat' (first | exact hf | assumption | split | with_reducible apply State.storePacket_From | with_reducible apply State.acceptPacket_From | (with_reducible apply State.From_forAll; intros) | (with_reducible apply State.From_fold; intros) | (with_reducible apply State.From_fold1; intros) | refine State.storePacket_From' _ _ _ ?_ (by assumption) | simp only [State.OptFrom_none, State.OptFrom_some] | with_reducible apply State.getD_From | simp only [State.From_mk, Track.To_fold])
@[simp] theorem State.stagingJoin_From {a : State} (s : State) (n : Nat) (hf : s.From a) :
    (State.stagingJoin s n).From a := by
  unfold State.stagingJoin
  split
  · exact hf
  · extract_lets st s1 s2 mine wait back r s3 s4 s5
    have h1 : s1.From a := State.rset_From _ _ (State.draw_From s hf)
    have h2 : s2.From a := by
      simp only [s2]; split
      · exact State.countFree_From _ _ h1
      · exact h1
    have h3 : s3.From a := { h2 with staging := .set _ _ h2.staging }
    have h4 : s4.From a := State.From_forAll (fun s p h => State.putRing_From _ _ _ _ h) _ h3
    have h5 : s5.From a := State.From_forAll (fun s p h => State.creditBack_From _ _ _ h) _ h4
    exact State.From_forAll (fun s p h => State.acceptPacket_From _ _ _ _ (State.putRing_From _ _ _ _ h)) _ h5
@[simp] theorem State.acceptAck_From {a : State} (s : State) (b dst : Nat) (hf : s.From a) :
    (State.acceptAck s b dst).From a := by
  unfold State.acceptAck; (repeat' split) <;> simp (maxDischargeDepth := 40) +contextual [*]

end Sys2Proof.Machine
end

