-- ==== Sys2Proof/Laws/Reach/MemoryUnits.lean ====
section
/-! SUPPORT. Laws/Reach/MemoryUnits.lean: what each operation of Machine/MemoryUnits.lean can do to the tables (`From`). -/

namespace Sys2Proof.Machine

@[simp] theorem State.sliceUE_From {a : State} (s : State) (k off : Nat) (hf : s.From a) :
    (State.sliceUE s k off).From a := by
  unfold State.sliceUE; simp (maxDischargeDepth := 40) +contextual [*]
@[simp] theorem State.hbmUE_From {a0 : State} (s : State) (a : Nat) (hf : s.From a0) :
    (State.hbmUE s a).From a0 := by
  unfold State.hbmUE; simp (maxDischargeDepth := 40) +contextual [*]
@[simp] theorem State.wordUE_From {a0 : State} (s : State) (a : Nat) (hf : s.From a0) :
    (State.wordUE s a).From a0 := by
  unfold State.wordUE; simp (maxDischargeDepth := 40) +contextual [*]
@[simp] theorem State.reportUE_From {a0 : State} (s : State) (a n : Nat) (hf : s.From a0) :
    (State.reportUE s a n).From a0 := by
  unfold State.reportUE; simp (maxDischargeDepth := 40) +contextual [*]
@[simp] theorem State.wordCE_From {a0 : State} (s : State) (a : Nat) (hf : s.From a0) :
    (State.wordCE s a).From a0 := by
  unfold State.wordCE; simp (maxDischargeDepth := 40) +contextual [*]
@[simp] theorem State.bankOld_From {a : State} (s : State) (k word : Nat) (hf : s.From a) : (s.bankOld k word).2.From a := by
  unfold State.bankOld
  split
  · exact hf
  · split
    · exact State.draw_From _ (State.draw_From _ hf)
    · have h0 := State.readInsts_From s (Mem.slice k + word * 8) (s.bytes (Mem.slice k + word * 8) 8) hf
      exact h0
theorem State.bankOld_From' {a : State} (s : State) (k word : Nat) (hf : s.From a) {t0 : State} {y0 : Word64}
    (ht : s.bankOld k word = (y0, t0)) : t0.From a := by
  have h0 := State.bankOld_From s k word hf; rw [ht] at h0; exact h0
@[simp] theorem State.bankRead_From {a : State} (s : State) (k word : Nat) (old : Word64) (bad : Bool) (r : SliceReq) (hf : s.From a) :
    (State.bankRead s k word old bad r).From a := by
  unfold State.bankRead; simp (maxDischargeDepth := 40) +contextual [*]
@[simp] theorem State.bankWrite_From {a : State} (s : State) (k word : Nat) (r : SliceReq) (hf : s.From a) :
    (State.bankWrite s k word r).From a := by
  unfold State.bankWrite; (try dsimp only); repeat' (first | exact hf | assumption | split | with_reducible apply State.putLe_From | with_reducible apply State.send_From | with_reducible apply State.writeInsts_From | with_reducible apply State.sliceUE_From | with_reducible apply State.bankOld_From | (with_reducible apply State.From_forAll; intros) | (with_reducible apply State.From_fold; intros) | (with_reducible apply State.From_fold1; intros) | refine State.bankOld_From' _ _ _ ?_ (by assumption) | simp only [State.OptFrom_none, State.OptFrom_some] | with_reducible apply State.getD_From | simp only [State.From_mk, Track.To_fold])
@[simp] theorem State.bankLose_From {a : State} (s : State) (k : Nat) (r : SliceReq) (hf : s.From a) :
    (State.bankLose s k r).From a := by
  unfold State.bankLose; simp (maxDischargeDepth := 40) +contextual [*]
@[simp] theorem State.vaultRefuse_From {a : State} (s : State) (r : SliceReq) (hf : s.From a) :
    (State.vaultRefuse s r).From a := by
  unfold State.vaultRefuse; simp (maxDischargeDepth := 40) +contextual [*]
@[simp] theorem State.setRequests_From {a : State} (s : State) (k : Nat) (l : List SliceReq) (hf : s.From a) :
    (State.setRequests s k l).From a := by
  unfold State.setRequests; simp (maxDischargeDepth := 40) +contextual [*]
@[simp] theorem State.countPortWaits_From {a : State} (s : State) (k : Nat) (l : List SliceReq) (hf : s.From a) :
    (State.countPortWaits s k l).From a := by
  unfold State.countPortWaits; simp (maxDischargeDepth := 40) +contextual [*]
@[simp] theorem State.bankServe_From {a : State} (s : State) (k word : Nat) (ce : Bool) (l : List SliceReq) (hf : s.From a) :
    (State.bankServe s k word ce l).From a := by
  unfold State.bankServe; (try dsimp only); repeat' (first | exact hf | assumption | split | with_reducible apply State.forAll_From | with_reducible apply State.wordCE_From | with_reducible apply State.bankOld_From | with_reducible apply State.bankRead_From | with_reducible apply State.bankWrite_From | with_reducible apply State.bankLose_From | with_reducible apply State.vaultRefuse_From | (with_reducible apply State.From_forAll; intros) | (with_reducible apply State.From_fold; intros) | (with_reducible apply State.From_fold1; intros) | refine State.bankOld_From' _ _ _ ?_ (by assumption) | simp only [State.OptFrom_none, State.OptFrom_some] | with_reducible apply State.getD_From | simp only [State.From_mk, Track.To_fold])
@[simp] theorem State.bankCycle_From {a : State} (s : State) (k bank : Nat) (ce : Bool) (reqs : List SliceReq) (hf : s.From a) :
    (State.bankCycle s k bank ce reqs).From a := by
  unfold State.bankCycle
  extract_lets s1 key p
  have h1 : s1.From a := State.setRequests_From _ _ _ hf
  split
  rename_i p2 s2 he
  have h2 : s2.From a := by
    split at he
    · split at he <;> cases he <;> exact State.draw_From _ h1
    · cases he; exact h1
  clear he
  extract_lets mine m
  split
  · exact h2
  · rename_i c r hl
    extract_lets l s3 s4
    have h3 : s3.From a := { h2 with pointers := .set _ _ h2.pointers }
    have h4 : s4.From a := State.setRequests_From _ _ _ h3
    exact State.bankServe_From _ _ _ _ _ (State.unitActs_From _ _ _ _ (State.countPortWaits_From _ _ _ h4))
@[simp] theorem State.vaultWipe_From {a : State} (s : State) (hf : s.From a) :
    (State.vaultWipe s).From a := by
  unfold State.vaultWipe
  split
  · exact hf
  · exact State.clearRange_From _ _ hf
@[simp] theorem State.markBad_From {a : State} (s : State) (w : Nat) (hf : s.From a) :
    (State.markBad s w).From a := by
  unfold State.markBad; simp (maxDischargeDepth := 40) +contextual [*]
@[simp] theorem State.scrubRead_From {a : State} (s : State) (hbm : Bool) (unit word : Nat) (ce ue : Bool) (hf : s.From a) :
    (State.scrubRead s hbm unit word ce ue).From a := by
  unfold State.scrubRead; (repeat' split) <;> simp (maxDischargeDepth := 40) +contextual [*]
@[simp] theorem State.hbmAccess_From {a : State} (s : State) (write : Bool) (addr : Nat) (ce : Bool) (data : List Byte) (hf : s.From a) :
    (State.hbmAccess s write addr ce data).From a := by
  unfold State.hbmAccess; simp (maxDischargeDepth := 40) +contextual [*]
@[simp] theorem State.refreshDouble_From {a : State} (s : State) (h t : Nat) (hf : s.From a) :
    (State.refreshDouble s h t).From a := by
  unfold State.refreshDouble; simp (maxDischargeDepth := 40) +contextual [*]

end Sys2Proof.Machine
end

