-- ==== Sys2Proof/Laws/Reach/Refs.lean ====
section
/-! SUPPORT. Laws/Reach/Refs.lean: what each operation of Machine/Refs.lean can do to the tables (`From`). -/

namespace Sys2Proof.Machine

@[simp] theorem State.writeMem_From {a0 : State} (s : State) (a : Nat) (bytes : List Byte) (hf : s.From a0) :
    (State.writeMem s a bytes).From a0 := by
  unfold State.writeMem; simp (maxDischargeDepth := 40) +contextual [*]
@[simp] theorem State.putMref_From {a : State} (s : State) (stream : BitVec 8) (m : Word64) (bytes : List Byte) (hf : s.From a) :
    (State.putMref s stream m bytes).From a := by
  unfold State.putMref; simp only []; (repeat' (first | exact hf | (refine State.From_forAll ?_ _ ?_; intro s x h) | split)) <;> simp_all (maxDischargeDepth := 40) +contextual
@[simp] theorem State.tookPath_From {a : State} (s : State) (h : Hdr) (cseq : Word64) (op : Byte) (arg : Nat) (hf : s.From a) :
    (State.tookPath s h cseq op arg).From a := by
  unfold State.tookPath; simp (maxDischargeDepth := 40) +contextual [*]
@[simp] theorem State.wrote_From {a : State} (s : State) (h : Hdr) (cseq : Word64) (op : Byte) (dst : Word64) (len : Nat) (st : Byte) (res : Nat) (q : BitVec 12) (hf : s.From a) :
    (State.wrote s h cseq op dst len st res q).From a := by
  unfold State.wrote; (repeat' split) <;> simp (maxDischargeDepth := 40) +contextual [*]
@[simp] theorem State.getMref_From {a : State} (s : State) (stream : BitVec 8) (m : Word64) (n : Nat) (hf : s.From a) :
    (State.getMref s stream m n).2.2.From a := by
  unfold State.getMref; simp only []; (repeat' (first | exact hf | (refine State.From_forAll ?_ _ ?_; intro s x h) | split)) <;> simp_all (maxDischargeDepth := 40) +contextual
theorem State.getMref_From' {a : State} (s : State) (stream : BitVec 8) (m : Word64) (n : Nat) (hf : s.From a) {t0 : State} {y0 : List Byte} {z0 : Bool}
    (ht : State.getMref s stream m n = (y0, z0, t0)) : t0.From a := by
  have h0 := State.getMref_From s stream m n hf; rw [ht] at h0; exact h0
@[simp] theorem State.writerClose_From {a : State} (s : State) (d q : Nat) (hf : s.From a) :
    (State.writerClose s d q).From a := by
  unfold State.writerClose; simp (maxDischargeDepth := 40) +contextual [*]
@[simp] theorem State.closeWritersAt_From {a : State} (s : State) (d : Nat) (hf : s.From a) :
    (State.closeWritersAt s d).From a := by
  unfold State.closeWritersAt; simp (maxDischargeDepth := 40) +contextual [*]
@[simp] theorem State.queueClose_From {a : State} (s : State) (q : Nat) (cause : BitVec 3) (hf : s.From a) :
    (State.queueClose s q cause).From a := by
  unfold State.queueClose; (try dsimp only); repeat' (first | exact hf | assumption | split | with_reducible apply State.setQueue_From | with_reducible apply State.count_From | with_reducible apply State.forAll_From | with_reducible apply State.toDevice_From | with_reducible apply State.complete_From | with_reducible apply State.finish_From | with_reducible apply State.writerClose_From | (with_reducible apply State.From_forAll; intros) | (with_reducible apply State.From_fold; intros) | (with_reducible apply State.From_fold1; intros) | simp only [State.OptFrom_none, State.OptFrom_some] | with_reducible apply State.getD_From | simp only [State.From_mk, Track.To_fold])
@[simp] theorem State.streamGone_From {a : State} (s : State) (n : BitVec 8) (cause : BitVec 3) (hf : s.From a) :
    (State.streamGone s n cause).From a := by
  unfold State.streamGone; simp (maxDischargeDepth := 40) +contextual [*]
@[simp] theorem State.freezeStream_From {a : State} (s : State) (n : BitVec 8) (cause op : Byte) (cseq : Word64) (hf : s.From a) :
    (State.freezeStream s n cause op cseq).From a := by
  unfold State.freezeStream; simp (maxDischargeDepth := 40) +contextual [*]
@[simp] theorem State.rejected_From {a : State} (s : State) (h : Hdr) (cseq : Word64) (op : Byte) (hf : s.From a) :
    (State.rejected s h cseq op).From a := by
  unfold State.rejected; simp (maxDischargeDepth := 40) +contextual [*]
@[simp] theorem State.writeDone_From {a : State} (s : State) (b : Nat) (h : Hdr) (cseq : Word64) (op : Byte) (m : Word64) (bytes : List Byte) (res : Nat) (hf : s.From a) :
    (State.writeDone s b h cseq op m bytes res).From a := by
  unfold State.writeDone; simp (maxDischargeDepth := 40) +contextual [*]

end Sys2Proof.Machine
end

