-- ==== Sys2Proof/Laws/Reach/Converters.lean ====
section
/-! SUPPORT. Laws/Reach/Converters.lean: what each operation of Machine/Converters.lean can do to the tables (`From`). -/

namespace Sys2Proof.Machine

@[simp] theorem State.takeRow_From {a : State} (s : State) (h k : Nat) (tstep : Nat) (zin : BitVec 8) (row : List Byte) (hf : s.From a) :
    (State.takeRow s h k tstep zin row).1.From a := by
  unfold State.takeRow; simp only []; (repeat' (first | exact hf | (refine State.From_forAll ?_ _ ?_; intro s x h) | split)) <;> simp_all (maxDischargeDepth := 40) +contextual
theorem State.takeRow_From' {a : State} (s : State) (h k : Nat) (tstep : Nat) (zin : BitVec 8) (row : List Byte) (hf : s.From a) {t0 : State} {y0 : Bool}
    (ht : State.takeRow s h k tstep zin row = (t0, y0)) : t0.From a := by
  have h0 := State.takeRow_From s h k tstep zin row hf; rw [ht] at h0; exact h0
@[simp] theorem State.takeRows_From {a : State} (s : State) (h cfirst tstep : Nat) (zin : BitVec 8) (l : List (List Byte)) (n : Nat)
    (hf : s.From a) : (State.takeRows s h cfirst tstep zin l n).1.From a := by
  induction l generalizing s cfirst n with
  | nil => exact hf
  | cons row r ih =>
    simp only [State.takeRows]
    split <;> exact ih _ _ _ (by simp (maxDischargeDepth := 40) [hf])
@[simp] theorem State.obsRecs_From {a : State} (s : State) (l : List ObsRec) (hf : s.From a) : (s.obsRecs l).From a := by
  induction l generalizing s with
  | nil => exact hf
  | cons r rest ih =>
    simp only [State.obsRecs]
    split
    · simp (maxDischargeDepth := 40) [hf]
    · split
      · simp (maxDischargeDepth := 40) [hf]
      · exact ih _ (by simp (maxDischargeDepth := 40) [hf])
@[simp] theorem State.emitFrom_From {a : State} (h k n : Nat) (l : List (Nat × Nat × Nat)) (s : State) (hf : s.From a) :
    (State.emitFrom h k n l s).From a := by
  induction l generalizing s with
  | nil => exact State.setInst_From _ _ _ hf
  | cons r t ih =>
    simp only [State.emitFrom]
    split
    · exact State.countFree_From _ _ (State.setInst_From _ _ _ hf)
    · exact ih _ (by simp (maxDischargeDepth := 40) [hf])
@[simp] theorem State.emitLeft_From {a : State} (s : State) (h k : Nat) (l : List (Nat × Nat × Nat)) (hf : s.From a) :
    (State.emitLeft s h k l).From a := by
  unfold State.emitLeft; simp (maxDischargeDepth := 40) +contextual [*]
@[simp] theorem State.emitRecs_From {a : State} (s : State) (h cidx : Nat) (recs : List (Nat × Nat)) (hf : s.From a) :
    (State.emitRecs s h cidx recs).From a := by
  unfold State.emitRecs; simp (maxDischargeDepth := 40) +contextual [*]
@[simp] theorem State.encodeWith_From {a : State} (s : State) (h : Nat) (p : Nat × Ctx) (u : List Nat) (scales : Option (List Nat × List Nat)) (hf : s.From a) :
    (State.encodeWith s h p u scales).From a := by
  unfold State.encodeWith; simp (maxDischargeDepth := 40) +contextual [*]
@[simp] theorem State.encodeInstance_From {a : State} (s : State) (h k : Nat) (hf : s.From a) :
    (State.encodeInstance s h k).From a := by
  unfold State.encodeInstance; simp only []; (repeat' (first | exact hf | (refine State.From_forAll ?_ _ ?_; intro s x h) | split)) <;> simp_all (maxDischargeDepth := 40) +contextual
@[simp] theorem State.encodeTimeout_From {a : State} (s : State) (h k : Nat) (hf : s.From a) :
    (State.encodeTimeout s h k).From a := by
  unfold State.encodeTimeout; (repeat' split) <;> simp (maxDischargeDepth := 40) +contextual [*]
@[simp] theorem State.setTally_From {a : State} (s : State) (h k step i v : Nat) (hf : s.From a) :
    (State.setTally s h k step i v).From a := by exact { hf with tallies := .set _ _ hf.tallies }
@[simp] theorem State.tapAccept_From {a : State} (s : State) (t : Tap) (hf : s.From a) :
    (State.tapAccept s t).From a := by
  unfold State.tapAccept; simp only []; (repeat' (first | exact hf | (refine State.From_forAll ?_ _ ?_; intro s x h) | split)) <;> simp_all (maxDischargeDepth := 40) +contextual
@[simp] theorem State.decodeDone_From {a : State} (s : State) (d : DecodeReq) (hf : s.From a) :
    (State.decodeDone s d).From a := by
  unfold State.decodeDone; simp (maxDischargeDepth := 40) +contextual [*]
@[simp] theorem State.serveDecodes_From {a : State} (s : State) (hf : s.From a) :
    (State.serveDecodes s).From a := by
  unfold State.serveDecodes; simp (maxDischargeDepth := 40) +contextual [*]
@[simp] theorem State.emitAll_From {a : State} (s : State) (b : Nat) (l : List Nat) (hf : s.From a) :
    (State.emitAll s b l).From a := by
  unfold State.emitAll; simp (maxDischargeDepth := 40) +contextual [*]
@[simp] theorem State.updateInstant_From {a : State} (s : State) (b : Nat) (hf : s.From a) :
    (State.updateInstant s b).From a := by
  unfold State.updateInstant; simp (maxDischargeDepth := 40) +contextual [*]
@[simp] theorem State.decodeInstance_From {a : State} (s : State) (h k : Nat) (hf : s.From a) :
    (State.decodeInstance s h k).From a := by
  unfold State.decodeInstance
  extract_lets c x
  split
  · exact hf
  · split
    · exact hf
    · extract_lets n s1 s2 b
      have h1 : s1.From a := State.From_forAll (fun s x h => State.setTally_From _ _ _ _ _ _ h) _ hf
      have h2 : s2.From a := by
        simp only [s2]
        split
        · exact State.setInst_From _ _ _ h1
        · split
          · exact State.freezeChan_From _ _ (State.setInst_From _ _ _ h1)
          · split
            · exact State.rsetBit_From _ _ _ _ (State.setInst_From _ _ _ h1)
            · (repeat' split) <;> exact State.setInst_From _ _ _ (State.chanOps_From _ _ h1)
      clear_value s2
      split
      · exact State.serveDecodes_From _ (State.updateInstant_From _ _ h2)
      · exact State.serveDecodes_From _ h2
@[simp] theorem State.decodesDue_From {a : State} (s : State) (b : Nat) (hf : s.From a) :
    (State.decodesDue s b).From a := by
  unfold State.decodesDue; simp (maxDischargeDepth := 40) +contextual [*]
@[simp] theorem State.actForce_From {a : State} (s : State) (f : Nat) (hf : s.From a) :
    (State.actForce s f).From a := by
  unfold State.actForce; simp only []; (repeat' (first | exact hf | (refine State.From_forAll ?_ _ ?_; intro s x h) | split)) <;> simp_all (maxDischargeDepth := 40) +contextual
@[simp] theorem State.actSnapshot_From {a : State} (s : State) (f : Nat) (hf : s.From a) :
    (State.actSnapshot s f).From a := by
  unfold State.actSnapshot; simp (maxDischargeDepth := 40) +contextual [*]

end Sys2Proof.Machine
end

