-- ==== Sys2Proof/Laws/Reach/Checks.lean ====
section
/-! SUPPORT. Laws/Reach/Checks.lean: what each operation of Machine/Checks.lean can do to the tables (`From`). -/

namespace Sys2Proof.Machine

@[simp] theorem State.imgszNow_From {a : State} (s : State) (b : Nat) (hf : s.From a) :
    (State.imgszNow s b).From a := by
  unfold State.imgszNow; simp (maxDischargeDepth := 40) +contextual [*]
@[simp] theorem State.reserve_From {a : State} (s : State) (b : Nat) (hf : s.From a) :
    (State.reserve s b).From a := by
  unfold State.reserve; simp (maxDischargeDepth := 40) +contextual [*]

end Sys2Proof.Machine
end

