-- ==== Sys2Proof/Laws/Reach/Sequencer.lean ====
section
/-! SUPPORT. Laws/Reach/Sequencer.lean: what each operation of Machine/Sequencer.lean can do to the tables (`From`). -/

namespace Sys2Proof.Machine

@[simp] theorem State.toMembers_From {a : State} (s : State) (b : Nat) (o : Out) (hf : s.From a) :
    (State.toMembers s b o).From a := by
  unfold State.toMembers; simp (maxDischargeDepth := 40) +contextual [*]
@[simp] theorem State.setTb_From {a : State} (s : State) (t : Nat) (hf : s.From a) :
    (State.setTb s t).From a := by
  unfold State.setTb; simp (maxDischargeDepth := 40) +contextual [*]
@[simp] theorem State.epochSet_From {a : State} (s : State) (b g len : Nat) (base : BitVec 48) (hf : s.From a) :
    (State.epochSet s b g len base).From a := by
  unfold State.epochSet; simp (maxDischargeDepth := 40) +contextual [*]
@[simp] theorem State.epochsIn_From {a : State} (s : State) (b : Nat) (l : List (BitVec 8 × BitVec 24 × BitVec 48)) (hf : s.From a) :
    (State.epochsIn s b l).From a := by
  unfold State.epochsIn; simp (maxDischargeDepth := 40) +contextual [*]
@[simp] theorem State.sample_From {a : State} (s : State) (x : Hdr × Word64 × Word64) (b : Nat) (hf : s.From a) :
    (State.sample s x b).From a := by
  unfold State.sample; simp (maxDischargeDepth := 40) +contextual [*]
@[simp] theorem State.beginStep_From {a : State} (s : State) (b : Nat) (hf : s.From a) :
    (State.beginStep s b).From a := by
  unfold State.beginStep; simp (maxDischargeDepth := 40) +contextual [*]
@[simp] theorem State.tryStart_From {a : State} (s : State) (b slot : Nat) (hf : s.From a) :
    (State.tryStart s b slot).From a := by
  unfold State.tryStart; simp (maxDischargeDepth := 40) +contextual [*]
@[simp] theorem State.tellStart_From {a : State} (s : State) (b : Nat) (o : List (BitVec 8 × BitVec 24 × BitVec 48) → Out) (hf : s.From a) :
    (State.tellStart s b o).From a := by
  unfold State.tellStart; simp (maxDischargeDepth := 40) +contextual [*]
@[simp] theorem State.stepAdmit_From {a : State} (s : State) (b : Nat) (hf : s.From a) :
    (State.stepAdmit s b).From a := by
  unfold State.stepAdmit; simp (maxDischargeDepth := 40) +contextual [*]
@[simp] theorem State.startReceipt_From {a : State} (s : State) (b : Nat) (slot : Word64) (epochs : List (BitVec 8 × BitVec 24 × BitVec 48)) (hf : s.From a) :
    (State.startReceipt s b slot epochs).From a := by
  unfold State.startReceipt; simp (maxDischargeDepth := 40) +contextual [*]
@[simp] theorem State.overrun_From {a : State} (s : State) (b : Nat) (hf : s.From a) :
    (State.overrun s b).From a := by
  unfold State.overrun; simp only []; (repeat' (first | exact hf | (refine State.From_forAll ?_ _ ?_; intro s x h) | split)) <;> simp_all (maxDischargeDepth := 40) +contextual
@[simp] theorem State.lockedSlot_From {a : State} (s : State) (b : Nat) (hf : s.From a) :
    (State.lockedSlot s b).From a := by
  unfold State.lockedSlot; simp (maxDischargeDepth := 40) +contextual [*]
@[simp] theorem State.takeSignal_From {a : State} (s : State) (b dev : Nat) (gates : List (BitVec 8 × Bool)) (status : Byte) (hf : s.From a) :
    (State.takeSignal s b dev gates status).From a := by
  unfold State.takeSignal; simp (maxDischargeDepth := 40) +contextual [*]
@[simp] theorem State.stepSignalHere_From {a : State} (s : State) (b : Nat) (dev : BitVec 6) (step : BitVec 20) (gates : List (BitVec 8 × Bool)) (status : Byte) (hf : s.From a) :
    (State.stepSignalHere s b dev step gates status).From a := by
  unfold State.stepSignalHere; simp (maxDischargeDepth := 40) +contextual [*]
@[simp] theorem State.stepSignalDone_From {a : State} (s : State) (b : Nat) (dev : BitVec 6) (step : BitVec 20) (gates : List (BitVec 8 × Bool)) (status : Byte) (hf : s.From a) :
    (State.stepSignalDone s b dev step gates status).From a := by
  unfold State.stepSignalDone; simp (maxDischargeDepth := 40) +contextual [*]
@[simp] theorem State.haltNow_From {a : State} (s : State) (b : Nat) (hf : s.From a) :
    (State.haltNow s b).From a := by
  unfold State.haltNow; simp (maxDischargeDepth := 40) +contextual [*]
@[simp] theorem State.haltBinding_From {a : State} (s : State) (b : Nat) (hf : s.From a) :
    (State.haltBinding s b).From a := by
  unfold State.haltBinding; simp (maxDischargeDepth := 40) +contextual [*]
@[simp] theorem State.finishSteps_From {a : State} (s : State) (b : Nat) (hf : s.From a) :
    (State.finishSteps s b).From a := by
  unfold State.finishSteps; simp only []; (repeat' (first | exact hf | (refine State.From_forAll ?_ _ ?_; intro s x h) | split)) <;> simp_all (maxDischargeDepth := 40) +contextual
@[simp] theorem State.stretch_From {a : State} (s : State) (b late : Nat) (hf : s.From a) :
    (State.stretch s b late).From a := by
  unfold State.stretch; simp (maxDischargeDepth := 40) +contextual [*]
@[simp] theorem State.endStep_From {a : State} (s : State) (b : Nat) (hf : s.From a) :
    (State.endStep s b).From a := by
  unfold State.endStep; simp (maxDischargeDepth := 40) +contextual [*]
@[simp] theorem State.buoySignal_From {a : State} (s : State) (b : Nat) (dev : BitVec 6) (step : BitVec 20) (gates : List (BitVec 8 × Bool)) (status : Byte) (hf : s.From a) :
    (State.buoySignal s b dev step gates status).From a := by
  unfold State.buoySignal; simp (maxDischargeDepth := 40) +contextual [*]
@[simp] theorem State.stepEnd_From {a : State} (s : State) (b : Nat) (hf : s.From a) :
    (State.stepEnd s b).From a := by
  unfold State.stepEnd; simp (maxDischargeDepth := 40) +contextual [*]
@[simp] theorem State.endReceipt_From {a : State} (s : State) (b : Nat) (next : Option Word64) (gates : List (BitVec 8 × Bool)) (epochs : List (BitVec 8 × BitVec 24 × BitVec 48)) (hf : s.From a) :
    (State.endReceipt s b next gates epochs).From a := by
  unfold State.endReceipt; (repeat' split) <;> simp (maxDischargeDepth := 40) +contextual [*]
@[simp] theorem State.windowClose_From {a : State} (s : State) (b : Nat) (rows : List (BitVec 10 × BitVec 8 × Nat × Nat × List Byte)) (others : List (BitVec 8 × Bool × Byte × BitVec 48)) (hf : s.From a) :
    (State.windowClose s b rows others).From a := by
  unfold State.windowClose; simp (maxDischargeDepth := 40) +contextual [*]

end Sys2Proof.Machine
end

