-- ==== Sys2Proof/Laws/Reach/Queues.lean ====
section
/-! SUPPORT. Laws/Reach/Queues.lean: what each operation of Machine/Queues.lean can do to the tables (`From`). -/

namespace Sys2Proof.Machine

@[simp] theorem State.inboxPush_From {a : State} (s : State) (n : Nat) (e : List Word) (hf : s.From a) :
    (State.inboxPush s n e).1.From a := by
  unfold State.inboxPush; simp only []; (repeat' (first | exact hf | (refine State.From_forAll ?_ _ ?_; intro s x h) | split)) <;> simp_all (maxDischargeDepth := 40) +contextual
theorem State.inboxPush_From' {a : State} (s : State) (n : Nat) (e : List Word) (hf : s.From a) {t0 : State} {y0 : Bool}
    (ht : State.inboxPush s n e = (t0, y0)) : t0.From a := by
  have h0 := State.inboxPush_From s n e hf; rw [ht] at h0; exact h0
@[simp] theorem State.inboxPop_From {a : State} (s : State) (n : Nat) (hf : s.From a) :
    (State.inboxPop s n).From a := by
  unfold State.inboxPop; simp (maxDischargeDepth := 40) +contextual [*]
@[simp] theorem State.queueOpen_From {a : State} (s : State) (q : Nat) (hf : s.From a) :
    (State.queueOpen s q).1.From a := by
  unfold State.queueOpen; simp only []; (repeat' (first | exact hf | (refine State.From_forAll ?_ _ ?_; intro s x h) | split)) <;> simp_all (maxDischargeDepth := 40) +contextual
theorem State.queueOpen_From' {a : State} (s : State) (q : Nat) (hf : s.From a) {t0 : State} {y0 : Byte}
    (ht : State.queueOpen s q = (t0, y0)) : t0.From a := by
  have h0 := State.queueOpen_From s q hf; rw [ht] at h0; exact h0
@[simp] theorem State.grantAnswered_From {a : State} (s : State) (q : Nat) (gen : Word64) (ok : Bool) (hf : s.From a) :
    (State.grantAnswered s q gen ok).From a := by
  unfold State.grantAnswered; simp (maxDischargeDepth := 40) +contextual [*]
@[simp] theorem State.grantArrival_From {a : State} (s : State) (d q b st : Nat) (gen : Word64) (rsize : Nat) (answer : Option Bool) (hf : s.From a) :
    (State.grantArrival s d q b st gen rsize answer).From a := by
  unfold State.grantArrival; (repeat' split) <;> simp (maxDischargeDepth := 40) +contextual [*]
@[simp] theorem State.sendMessage_From {a : State} (s : State) (d q : Nat) (h : Hdr) (cseq : Word64) (tag : Nat) (msg : List Word64) (hf : s.From a) :
    (State.sendMessage s d q h cseq tag msg).From a := by
  unfold State.sendMessage; (try dsimp only); repeat' (first | exact hf | assumption | split | with_reducible apply State.setWriter_From | with_reducible apply State.forAll_From | with_reducible apply State.toDevice_From | (with_reducible apply State.From_forAll; intros) | (with_reducible apply State.From_fold; intros) | (with_reducible apply State.From_fold1; intros) | simp only [State.OptFrom_none, State.OptFrom_some] | with_reducible apply State.getD_From | simp only [State.From_mk, Track.To_fold])
@[simp] theorem State.giveNote_From {a : State} (s : State) (n : Nat) (e : List Word) (hf : s.From a) :
    (State.giveNote s n e).From a := by
  unfold State.giveNote; simp (maxDischargeDepth := 40) +contextual [*]
@[simp] theorem State.noteHere_From {a : State} (s : State) (n : Nat) (e : List Word) (hf : s.From a) :
    (State.noteHere s n e).From a := by
  unfold State.noteHere; simp (maxDischargeDepth := 40) +contextual [*]
@[simp] theorem State.notifyMsg_From {a : State} (s : State) (q tag nm : Nat) (hf : s.From a) :
    (State.notifyMsg s q tag nm).From a := by
  unfold State.notifyMsg; (repeat' split) <;> simp (maxDischargeDepth := 40) +contextual [*]
@[simp] theorem State.returnCredit_From {a : State} (s : State) (q words : Nat) (hf : s.From a) :
    (State.returnCredit s q words).From a := by
  unfold State.returnCredit; simp (maxDischargeDepth := 40) +contextual [*]
@[simp] theorem State.passHead_From {a : State} (s : State) (q : Nat) (hf : s.From a) :
    (State.passHead s q).From a := by
  unfold State.passHead; (repeat' split) <;> simp (maxDischargeDepth := 40) +contextual [*]
@[simp] theorem State.takeMessage_From {a : State} (s : State) (r : RecvE) (m : Nat × Nat × Word64) (hf : s.From a) :
    (State.takeMessage s r m).From a := by
  unfold State.takeMessage; simp (maxDischargeDepth := 40) +contextual [*]
@[simp] theorem State.farEnds_From {a : State} (s : State) (d n : Nat) (hf : s.From a) :
    (State.farEnds s d n).From a := by
  unfold State.farEnds; simp (maxDischargeDepth := 40) +contextual [*]
@[simp] theorem State.farLost_From {a : State} (s : State) (d : Nat) (hf : s.From a) :
    (State.farLost s d).From a := by
  unfold State.farLost; simp (maxDischargeDepth := 40) +contextual [*]
@[simp] theorem State.serveRecv_From {a : State} (s : State) (q : Nat) (hf : s.From a) :
    (State.serveRecv s q).From a := by
  unfold State.serveRecv; (repeat' split) <;> simp (maxDischargeDepth := 40) +contextual [*]
@[simp] theorem State.storeMessage_From {a : State} (s : State) (q : Nat) (gen : Word64) (off : Nat) (words : List Word64) (hf : s.From a) :
    (State.storeMessage s q gen off words).1.From a := by
  unfold State.storeMessage; simp only []; (repeat' (first | exact hf | (refine State.From_forAll ?_ _ ?_; intro s x h) | split)) <;> simp_all (maxDischargeDepth := 40) +contextual
theorem State.storeMessage_From' {a : State} (s : State) (q : Nat) (gen : Word64) (off : Nat) (words : List Word64) (hf : s.From a) {t0 : State} {y0 : Bool}
    (ht : State.storeMessage s q gen off words = (t0, y0)) : t0.From a := by
  have h0 := State.storeMessage_From s q gen off words hf; rw [ht] at h0; exact h0
@[simp] theorem State.sendDone_From {a : State} (s : State) (d q : Nat) (m : SentMsg) (ok : Bool) (hf : s.From a) :
    (State.sendDone s d q m ok).From a := by
  unfold State.sendDone; (repeat' split) <;> simp (maxDischargeDepth := 40) +contextual [*]
@[simp] theorem State.messageArrival_From {a : State} (s : State) (src : BitVec 6) (q : Nat) (gen : Word64) (off : Nat) (words : List Word64) (answer : Option (BitVec 6 × Bool)) (hf : s.From a) :
    (State.messageArrival s src q gen off words answer).From a := by
  unfold State.messageArrival; simp only []; (repeat' (first | exact hf | (refine State.From_forAll ?_ _ ?_; intro s x h) | split)) <;> simp_all (maxDischargeDepth := 40) +contextual
@[simp] theorem State.creditReturn_From {a : State} (s : State) (d q : Nat) (gen : Word64) (words : Nat) (hf : s.From a) :
    (State.creditReturn s d q gen words).From a := by
  unfold State.creditReturn; simp (maxDischargeDepth := 40) +contextual [*]
@[simp] theorem State.closeArrival_From {a : State} (s : State) (d q : Nat) (hf : s.From a) :
    (State.closeArrival s d q).From a := by
  unfold State.closeArrival; simp (maxDischargeDepth := 40) +contextual [*]
@[simp] theorem State.recvTimeout_From {a : State} (s : State) (n : BitVec 8) (hf : s.From a) :
    (State.recvTimeout s n).From a := by
  unfold State.recvTimeout; (repeat' split) <;> simp (maxDischargeDepth := 40) +contextual [*]
@[simp] theorem State.writeReply_From {a : State} (s : State) (addr : Nat) (st : Byte) (hf : s.From a) :
    (State.writeReply s addr st).From a := by
  unfold State.writeReply; simp (maxDischargeDepth := 40) +contextual [*]

end Sys2Proof.Machine
end

