-- ==== Sys2Proof/Laws/Reach/Sync.lean ====
section
/-! SUPPORT. Laws/Reach/Sync.lean: what each operation of Machine/Sync.lean can do to the tables (`From`). -/

namespace Sys2Proof.Machine

@[simp] theorem State.opDone_From {a : State} (s : State) (b : BitVec 6) (dev : BitVec 6) (stream : BitVec 8) (cseq : Word64) (op st : Byte) (v : Nat) (hf : s.From a) :
    (State.opDone s b dev stream cseq op st v).From a := by
  unfold State.opDone; (repeat' split) <;> simp (maxDischargeDepth := 40) +contextual [*]
@[simp] theorem State.countWatches_From {a : State} (s : State) (hf : s.From a) :
    (State.countWatches s).From a := by
  unfold State.countWatches; simp (maxDischargeDepth := 40) +contextual [*]
@[simp] theorem State.dropWatch_From {a : State} (s : State) (num : Nat) (hf : s.From a) :
    (State.dropWatch s num).From a := by
  unfold State.dropWatch; simp (maxDischargeDepth := 40) +contextual [*]
@[simp] theorem State.beaconLost_From {a : State} (s : State) (hf : s.From a) :
    (State.beaconLost s).From a := by
  unfold State.beaconLost; simp (maxDischargeDepth := 40) +contextual [*]
@[simp] theorem State.keepBeacon_From {a : State} (s : State) (num : Nat) (st : Byte) (v : Word) (sent : Bool) (hf : s.From a) :
    (State.keepBeacon s num st v sent).From a := by
  unfold State.keepBeacon; simp (maxDischargeDepth := 40) +contextual [*]
@[simp] theorem State.offerBeacon_From {a : State} (s : State) (w : WatchE) (st : Byte) (v : Word) (hf : s.From a) :
    (State.offerBeacon s w st v).From a := by
  unfold State.offerBeacon; simp only []; (repeat' (first | exact hf | (refine State.From_forAll ?_ _ ?_; intro s x h) | split)) <;> simp_all (maxDischargeDepth := 40) +contextual
@[simp] theorem State.beaconRetry_From {a : State} (s : State) (num : Nat) (hf : s.From a) :
    (State.beaconRetry s num).From a := by
  unfold State.beaconRetry; (repeat' split) <;> simp (maxDischargeDepth := 40) +contextual [*]
@[simp] theorem State.dropWait_From {a : State} (s : State) (w : WaitE) (hf : s.From a) :
    (State.dropWait s w).From a := by
  unfold State.dropWait; simp (maxDischargeDepth := 40) +contextual [*]
@[simp] theorem State.settle_From {a : State} (s : State) (k : Nat) (hf : s.From a) :
    (State.settle s k).From a := by
  unfold State.settle; simp only []; (repeat' (first | exact hf | (refine State.From_forAll ?_ _ ?_; intro s x h) | split)) <;> simp_all (maxDischargeDepth := 40) +contextual
@[simp] theorem State.takes_From {a : State} (n : Nat) (s : State) (k : Nat) (hf : s.From a) : (State.takes n s k).From a := by
  induction n generalizing s with
  | zero => exact hf
  | succ n ih =>
    simp only [State.takes]
    split
    · exact hf
    · split
      · exact hf
      · exact ih _ (by simp (maxDischargeDepth := 40) [hf])
@[simp] theorem State.afterOp_From {a : State} (s : State) (k : Nat) (own : State → State) (ho : ∀ s, s.From a → (own s).From a)
    (hf : s.From a) : (s.afterOp k own).From a := by
  unfold State.afterOp
  exact State.takes_From _ _ _ (ho _ (by simp (maxDischargeDepth := 40) [hf]))
@[simp] theorem State.lastRefused_From {a : State} (s : State) (r : BuoyReq) (st : Byte) (hf : s.From a) :
    (State.lastRefused s r st).From a := by
  unfold State.lastRefused; simp (maxDischargeDepth := 40) +contextual [*]
@[simp] theorem State.refuse_From {a : State} (s : State) (r : BuoyReq) (bit : Nat) (st : Byte) (hf : s.From a) :
    (State.refuse s r bit st).From a := by
  unfold State.refuse; simp (maxDischargeDepth := 40) +contextual [*]
@[simp] theorem State.addWait_From {a : State} (s : State) (r : BuoyReq) (take : Bool) (hf : s.From a) :
    (State.addWait s r take).From a := by
  unfold State.addWait; simp (maxDischargeDepth := 40) +contextual [*]
@[simp] theorem State.addWatch_From {a : State} (s : State) (r : BuoyReq) (hf : s.From a) :
    (State.addWatch s r).From a := by
  unfold State.addWatch; simp (maxDischargeDepth := 40) +contextual [*]
@[simp] theorem State.buoyPerform_From {a : State} (s : State) (r : BuoyReq) (hf : s.From a) :
    (State.buoyPerform s r).From a := by
  unfold State.buoyPerform; simp (maxDischargeDepth := 40) +contextual [*]
@[simp] theorem State.buoyRequest_From {a : State} (s : State) (r : BuoyReq) (hf : s.From a) :
    (State.buoyRequest s r).From a := by
  unfold State.buoyRequest; simp (maxDischargeDepth := 40) +contextual [*]
@[simp] theorem State.signalHere_From {a : State} (s : State) (r : BuoyReq) (hf : s.From a) :
    (State.signalHere s r).From a := by
  unfold State.signalHere; simp (maxDischargeDepth := 40) +contextual [*]
@[simp] theorem State.beaconHere_From {a : State} (s : State) (r : BuoyReq) (e : List Word) (hf : s.From a) :
    (State.beaconHere s r e).1.From a := by
  unfold State.beaconHere; simp only []; (repeat' (first | exact hf | (refine State.From_forAll ?_ _ ?_; intro s x h) | split)) <;> simp_all (maxDischargeDepth := 40) +contextual
theorem State.beaconHere_From' {a : State} (s : State) (r : BuoyReq) (e : List Word) (hf : s.From a) {t0 : State} {y0 : Byte}
    (ht : State.beaconHere s r e = (t0, y0)) : t0.From a := by
  have h0 := State.beaconHere_From s r e hf; rw [ht] at h0; exact h0
@[simp] theorem State.beaconAnswered_From {a : State} (s : State) (num : Nat) (st : Byte) (hf : s.From a) :
    (State.beaconAnswered s num st).From a := by
  unfold State.beaconAnswered; (repeat' split) <;> simp (maxDischargeDepth := 40) +contextual [*]
@[simp] theorem State.buoyOperation_From {a : State} (s : State) (r : BuoyReq) (answer : Option (Bool × Byte × Word)) (hf : s.From a) :
    (State.buoyOperation s r answer).From a := by
  unfold State.buoyOperation; simp only []; (repeat' (first | exact hf | (refine State.From_forAll ?_ _ ?_; intro s x h) | split)) <;> simp_all (maxDischargeDepth := 40) +contextual
@[simp] theorem State.signalGo_From {a : State} (s : State) (dev : BitVec 6) (r : BuoyReq) (hf : s.From a) :
    (State.signalGo s dev r).From a := by
  unfold State.signalGo; simp (maxDischargeDepth := 40) +contextual [*]
@[simp] theorem State.markerArrival_From {a : State} (s : State) (stream : BitVec 8) (cseq : Word64) (hf : s.From a) :
    (State.markerArrival s stream cseq).From a := by
  unfold State.markerArrival; (repeat' split) <;> simp (maxDischargeDepth := 40) +contextual [*]
@[simp] theorem State.holdRelease_From {a : State} (s : State) (kind : Nat) (hf : s.From a) :
    (State.holdRelease s kind).From a := by
  unfold State.holdRelease; simp only []; (repeat' (first | exact hf | (refine State.From_forAll ?_ _ ?_; intro s x h) | split)) <;> simp_all (maxDischargeDepth := 40) +contextual
@[simp] theorem State.waitTimeout_From {a : State} (s : State) (dev : BitVec 6) (stream : BitVec 8) (hf : s.From a) :
    (State.waitTimeout s dev stream).From a := by
  unfold State.waitTimeout; (repeat' split) <;> simp (maxDischargeDepth := 40) +contextual [*]
@[simp] theorem State.watchTimeout_From {a : State} (s : State) (num : Nat) (hf : s.From a) :
    (State.watchTimeout s num).From a := by
  unfold State.watchTimeout; (repeat' split) <;> simp (maxDischargeDepth := 40) +contextual [*]
@[simp] theorem State.releaseBuoy_From {a : State} (s : State) (k : Nat) (hf : s.From a) :
    (State.releaseBuoy s k).From a := by
  unfold State.releaseBuoy
  extract_lets u y v l w
  have hu : u.From a := State.setBuoy_From _ _ hf
  have hv : v.From a := { hu with owner := .set _ _ hu.owner }
  have hw : w.From a := State.countWatches_From _ hv
  clear_value w
  simp (maxDischargeDepth := 40) +contextual [hw, *]

end Sys2Proof.Machine
end

