-- ==== Sys2Proof/Laws/Reach/Bindings.lean ====
section
/-! SUPPORT. Laws/Reach/Bindings.lean: what each operation of Machine/Bindings.lean can do to the tables (`From`). -/

namespace Sys2Proof.Machine

@[simp] theorem State.fail_From {a : State} (s : State) (st : Byte) (hf : s.From a) :
    (State.fail s st).1.From a := by
  unfold State.fail; simp (maxDischargeDepth := 40) +contextual [*]
theorem State.fail_From' {a : State} (s : State) (st : Byte) (hf : s.From a) {t0 : State} {y0 : Byte × Nat}
    (ht : State.fail s st = (t0, y0)) : t0.From a := by
  have h0 := State.fail_From s st hf; rw [ht] at h0; exact h0
@[simp] theorem State.when_From {a : State} (s : State) (st : Byte) (f : State → State) (res : Nat)
    (ho : ∀ s, s.From a → (f s).From a) (hf : s.From a) : (s.when st f res).1.From a := by
  unfold State.when; split
  · exact ho _ hf
  · exact hf
@[simp] theorem State.regClear_From {a0 : State} (s : State) (a : Nat) (hf : s.From a0) :
    (State.regClear s a).From a0 := by
  unfold State.regClear; simp (maxDischargeDepth := 40) +contextual [*]
@[simp] theorem State.timerReset_From {a : State} (s : State) (n : Nat) (hf : s.From a) :
    (State.timerReset s n).From a := by
  unfold State.timerReset; simp (maxDischargeDepth := 40) +contextual [*]
@[simp] theorem State.withdrawCore_From {a : State} (s : State) (n : Nat) (hf : s.From a) :
    (State.withdrawCore s n).From a := by
  unfold State.withdrawCore
  apply State.clearRange_From
  have h : (s.forAll (s.rulesOf n) (fun s m => (s.regClear (Reg.coreLrnRstat n m)).regClear (Reg.coreLrnRepoch n m))).From a := by
    simp (maxDischargeDepth := 40) +contextual [hf]
  exact { h with slots := .filter _ h.slots, units := .filter _ h.units, reds := .filter _ h.reds, rings := .filter _ h.rings, pages := .filter _ h.pages, staging := .filter _ h.staging, shadow := .filter _ h.shadow }
@[simp] theorem State.clearStores_From {a : State} (s : State) (n : Nat) (hf : s.From a) :
    (State.clearStores s n).From a := by
  unfold State.clearStores; simp (maxDischargeDepth := 40) +contextual [*]
@[simp] theorem State.clearBank_From {a : State} (s : State) (k i : Nat) (hf : s.From a) :
    (State.clearBank s k i).From a := by
  unfold State.clearBank; simp (maxDischargeDepth := 40) +contextual [*]
@[simp] theorem State.bindNow_From {a : State} (s : State) (b kind count first : Nat) (w1 w2 : Word64) (w3 : Word64) (hf : s.From a) :
    (State.bindNow s b kind count first w1 w2 w3).1.From a := by
  unfold State.bindNow
  extract_lets l inRange
  by_cases k1 : kind = 1
  · rw [if_pos k1]
    refine State.when_From _ _ _ _ (fun _ _ => State.reserve_From _ b ?_) hf
    exact State.From_forAll (fun s n h => State.setCor_From _ _ (State.clearStores_From _ _ (State.withdrawCore_From _ _
      (State.From_forAll (fun s n h => State.regClear_From _ _ h) _ h)))) _ hf
  rw [if_neg k1]
  by_cases k2 : kind = 2
  · rw [if_pos k2]
    refine State.when_From _ _ _ _ (fun _ _ => State.reserve_From _ b ?_) hf
    exact State.From_forAll (fun s n h => State.setCtx_From _ _ h) _ hf
  rw [if_neg k2]
  by_cases k3 : kind = 3
  · rw [if_pos k3]
    exact State.when_From _ _ _ _ (fun u hu => State.From_forAll (fun u x hu => by
      have h2 := State.clearBank_From _ (x / 4) (x % 4) hu
      exact { h2 with banks := .set _ _ h2.banks }) _ hu) hf
  rw [if_neg k3]
  by_cases k4 : kind = 4
  · rw [if_pos k4]
    exact State.when_From _ _ _ _ (fun u hu => State.From_forAll (fun u x hu => State.setQueue_From _ _ hu) _ hu) hf
  rw [if_neg k4]
  by_cases k5 : kind = 5
  · rw [if_pos k5]
    exact State.when_From _ _ _ _ (fun u hu => State.From_forAll (fun u x hu => by
      have h2 := State.setBuoy_From x 0 hu
      exact { h2 with owner := .set _ _ h2.owner }) _ hu) hf
  rw [if_neg k5]
  by_cases k6 : kind = 6
  · rw [if_pos k6]
    exact State.when_From _ _ _ _ (fun u hu => State.From_forAll (fun u x hu => State.setChan_From _ _ hu) _ hu) hf
  rw [if_neg k6]
  by_cases k7 : kind = 7
  · rw [if_pos k7]
    exact State.when_From _ _ _ _ (fun u hu => State.From_forAll (fun u x hu => State.setCirc_From _ _ (State.rsetField_From _ _ _ _ _ hu)) _ hu) hf
  rw [if_neg k7]
  by_cases k8 : kind = 8
  · rw [if_pos k8]
    exact State.when_From _ _ _ _ (fun u hu => State.From_forAll (fun u x hu => State.setTimer_From _ _ (State.timerReset_From _ _ hu)) _ hu) hf
  rw [if_neg k8]
  by_cases k9 : kind = 9
  · rw [if_pos k9]
    exact State.when_From _ _ _ _ (fun u hu => State.From_forAll (fun u x hu => State.setStrm_From _ _ hu) _ hu) hf
  rw [if_neg k9]
  by_cases k10 : kind = 10
  · rw [if_pos k10]
    exact State.when_From _ _ _ _ (fun u hu => { hu with windows := .set _ _ hu.windows }) hf
  rw [if_neg k10]
  exact hf
theorem State.bindNow_From' {a : State} (s : State) (b kind count first : Nat) (w1 w2 : Word64) (w3 : Word64) (hf : s.From a) {t0 : State} {y0 : Byte × Nat}
    (ht : State.bindNow s b kind count first w1 w2 w3 = (t0, y0)) : t0.From a := by
  have h0 := State.bindNow_From s b kind count first w1 w2 w3 hf; rw [ht] at h0; exact h0
@[simp] theorem State.dropCtx_From {a : State} (s : State) (c : Nat) (hf : s.From a) :
    (State.dropCtx s c).From a := by
  unfold State.dropCtx
  apply State.setCtx_From
  exact { hf with insts := .filter _ hf.insts, tallies := .filter _ hf.tallies }
@[simp] theorem State.releaseCore_From {a : State} (s : State) (n : Nat) (hf : s.From a) :
    (State.releaseCore s n).From a := by
  unfold State.releaseCore; simp (maxDischargeDepth := 40) +contextual [*]
@[simp] theorem State.dropFrame_From {a : State} (s : State) (h : Nat) (hf : s.From a) :
    (State.dropFrame s h).From a := by
  unfold State.dropFrame; simp (maxDischargeDepth := 40) +contextual [*]
@[simp] theorem State.leaveFrame_From {a : State} (s : State) (h : Nat) (hf : s.From a) :
    (State.leaveFrame s h).From a := by
  unfold State.leaveFrame; simp (maxDischargeDepth := 40) +contextual [*]
@[simp] theorem State.clearInsts_From {a : State} (s : State) (h : Nat) (hf : s.From a) :
    (State.clearInsts s h).From a := { hf with insts := .filter _ hf.insts, tallies := .filter _ hf.tallies }
@[simp] theorem State.dropDecodes_From {a : State} (s : State) (h : Nat) (hf : s.From a) :
    (State.dropDecodes s h).From a := by
  unfold State.dropDecodes; simp (maxDischargeDepth := 40) +contextual [*]
@[simp] theorem State.rejectDecodes_From {a : State} (s : State) (h : Nat) (hf : s.From a) :
    (State.rejectDecodes s h).From a := by
  unfold State.rejectDecodes; simp (maxDischargeDepth := 40) +contextual [*]
@[simp] theorem State.releaseStream_From {a : State} (s : State) (n : Nat) (self : Hdr × Word64) (hf : s.From a) :
    (State.releaseStream s n self).From a := by
  unfold State.releaseStream; (try dsimp only); repeat' (first | exact hf | assumption | split | with_reducible apply State.setBnd_From | with_reducible apply State.setStrm_From | with_reducible apply State.setCor_From | with_reducible apply State.setCirc_From | with_reducible apply State.forAll_From | with_reducible apply State.kickCircs_From | with_reducible apply State.completeAll_From | with_reducible apply State.cancelWaits_From | with_reducible apply State.streamGone_From | (with_reducible apply State.From_forAll; intros) | (with_reducible apply State.From_fold; intros) | (with_reducible apply State.From_fold1; intros) | simp only [State.OptFrom_none, State.OptFrom_some] | with_reducible apply State.getD_From | simp only [State.From_mk, Track.To_fold])
@[simp] theorem State.release_From {a : State} (s : State) (b kind : Nat) (l : List Nat) (self : Hdr × Word64) (hf : s.From a) :
    (State.release s b kind l self).From a := by
  unfold State.release
  split
  · simp (maxDischargeDepth := 40) +contextual [hf]
  split
  · simp (maxDischargeDepth := 40) +contextual [hf]
  split
  · exact State.From_forAll (fun u x hu => by exact { hu with banks := .set _ _ hu.banks }) _ hf
  iterate 6 (split; · simp (maxDischargeDepth := 40) +contextual [hf])
  exact State.From_forAll (fun u x hu => by exact { hu with windows := .set _ _ hu.windows }) _ hf
@[simp] theorem State.unbindNow_From {a : State} (s : State) (b kind count first : Nat) (self : Hdr × Word64) (hf : s.From a) :
    (State.unbindNow s b kind count first self).1.From a := by
  unfold State.unbindNow
  split
  · simp (maxDischargeDepth := 40) +contextual [hf]
  · simp (maxDischargeDepth := 40) +contextual [hf]
theorem State.unbindNow_From' {a : State} (s : State) (b kind count first : Nat) (self : Hdr × Word64) (hf : s.From a) {t0 : State} {y0 : Byte × Nat}
    (ht : State.unbindNow s b kind count first self = (t0, y0)) : t0.From a := by
  have h0 := State.unbindNow_From s b kind count first self hf; rw [ht] at h0; exact h0
@[simp] theorem State.parkOne_From {a : State} (s : State) (b c image : Nat) (hf : s.From a) :
    (State.parkOne s b c image).1.From a := by
  unfold State.parkOne; (try dsimp only); repeat' (first | exact hf | assumption | split | with_reducible apply State.setCtx_From | with_reducible apply State.putBytes_From | with_reducible apply State.drawBytes_From | with_reducible apply State.moved_From | with_reducible apply State.pullEvents_From | with_reducible apply State.reportUE_From | (with_reducible apply State.From_forAll; intros) | (with_reducible apply State.From_fold; intros) | (with_reducible apply State.From_fold1; intros) | refine State.drawBytes_From' _ ?_ (by assumption) | simp only [State.OptFrom_none, State.OptFrom_some] | with_reducible apply State.getD_From | simp only [State.From_mk, Track.To_fold])
theorem State.parkOne_From' {a : State} (s : State) (b c image : Nat) (hf : s.From a) {t0 : State} {y0 : Bool}
    (ht : State.parkOne s b c image = (t0, y0)) : t0.From a := by
  have h0 := State.parkOne_From s b c image hf; rw [ht] at h0; exact h0
@[simp] theorem State.parkNow_From {a : State} (s : State) (b count first : Nat) (m : Word64) (stride : Nat) (hf : s.From a) :
    (State.parkNow s b count first m stride).1.From a := by
  unfold State.parkNow; simp only []; (repeat' (first | exact hf | (refine State.From_forAll ?_ _ ?_; intro s x h) | split)) <;> simp_all (maxDischargeDepth := 40) +contextual
theorem State.parkNow_From' {a : State} (s : State) (b count first : Nat) (m : Word64) (stride : Nat) (hf : s.From a) {t0 : State} {y0 : Byte × Nat}
    (ht : State.parkNow s b count first m stride = (t0, y0)) : t0.From a := by
  have h0 := State.parkNow_From s b count first m stride hf; rw [ht] at h0; exact h0
@[simp] theorem State.unparkOne_From {a : State} (s : State) (b c : Nat) (res : BitVec 2) (base : Nat) (hf : s.From a) :
    (State.unparkOne s b c res base).1.From a := by
  unfold State.unparkOne; (try dsimp only); repeat' (first | exact hf | assumption | split | with_reducible apply State.setCtx_From | with_reducible apply State.putBytes_From | with_reducible apply State.moved_From | with_reducible apply State.reinsert_From | with_reducible apply State.reportUE_From | (with_reducible apply State.From_forAll; intros) | (with_reducible apply State.From_fold; intros) | (with_reducible apply State.From_fold1; intros) | simp only [State.OptFrom_none, State.OptFrom_some] | with_reducible apply State.getD_From | simp only [State.From_mk, Track.To_fold])
theorem State.unparkOne_From' {a : State} (s : State) (b c : Nat) (res : BitVec 2) (base : Nat) (hf : s.From a) {t0 : State} {y0 : Bool}
    (ht : State.unparkOne s b c res base = (t0, y0)) : t0.From a := by
  have h0 := State.unparkOne_From s b c res base hf; rw [ht] at h0; exact h0
@[simp] theorem State.unparkNow_From {a : State} (s : State) (b count first : Nat) (res : BitVec 2) (stride base : Nat) (hf : s.From a) :
    (State.unparkNow s b count first res stride base).1.From a := by
  unfold State.unparkNow; simp only []; (repeat' (first | exact hf | (refine State.From_forAll ?_ _ ?_; intro s x h) | split)) <;> simp_all (maxDischargeDepth := 40) +contextual
theorem State.unparkNow_From' {a : State} (s : State) (b count first : Nat) (res : BitVec 2) (stride base : Nat) (hf : s.From a) {t0 : State} {y0 : Byte × Nat}
    (ht : State.unparkNow s b count first res stride base = (t0, y0)) : t0.From a := by
  have h0 := State.unparkNow_From s b count first res stride base hf; rw [ht] at h0; exact h0
@[simp] theorem State.snapNow_From {a : State} (s : State) (b : Nat) (at' : BitVec 48) (stream : BitVec 8) (m : Word64) (limit : Nat) (hf : s.From a) :
    (State.snapNow s b at' stream m limit).1.From a := by
  unfold State.snapNow; (try dsimp only); repeat' (first | exact hf | assumption | split | with_reducible apply State.putMref_From | with_reducible apply State.fail_From | (with_reducible apply State.From_forAll; intros) | (with_reducible apply State.From_fold; intros) | (with_reducible apply State.From_fold1; intros) | refine State.fail_From' _ _ ?_ (by assumption) | simp only [State.OptFrom_none, State.OptFrom_some] | with_reducible apply State.getD_From | simp only [State.From_mk, Track.To_fold])
theorem State.snapNow_From' {a : State} (s : State) (b : Nat) (at' : BitVec 48) (stream : BitVec 8) (m : Word64) (limit : Nat) (hf : s.From a) {t0 : State} {y0 : Byte × Nat}
    (ht : State.snapNow s b at' stream m limit = (t0, y0)) : t0.From a := by
  have h0 := State.snapNow_From s b at' stream m limit hf; rw [ht] at h0; exact h0

end Sys2Proof.Machine
end

