-- ==== Sys2Proof/Laws/Reach/Loads.lean ====
section
/-! SUPPORT. Laws/Reach/Loads.lean: what each operation of Machine/Loads.lean can do to the tables (`From`). -/

namespace Sys2Proof.Machine

@[simp] theorem State.srcBytes_From {a : State} (s : State) (stream : BitVec 8) (m : Word64) (n : Nat) (data : List Byte) (hf : s.From a) :
    (State.srcBytes s stream m n data).2.2.From a := by
  unfold State.srcBytes; (repeat' split) <;> simp (maxDischargeDepth := 40) +contextual [*]
theorem State.srcBytes_From' {a : State} (s : State) (stream : BitVec 8) (m : Word64) (n : Nat) (data : List Byte) (hf : s.From a) {t0 : State} {y0 : List Byte} {z0 : Bool}
    (ht : State.srcBytes s stream m n data = (y0, z0, t0)) : t0.From a := by
  have h0 := State.srcBytes_From s stream m n data hf; rw [ht] at h0; exact h0
@[simp] theorem State.loadBytes_From {a0 : State} (s : State) (a : Nat) (l : List Byte) (hf : s.From a0) :
    (State.loadBytes s a l).From a0 := by
  unfold State.loadBytes
  extract_lets u
  have hu : u.From a0 := State.putBytes_From _ _ hf
  exact { hu with shadow := .putBytes _ _ hu.shadow }
@[simp] theorem State.withSrc_From {a : State} (s : State) (stream : BitVec 8) (m : Word64) (n : Nat) (data : List Byte)
    (f : State → List Byte → Effect) (ho : ∀ s l, s.From a → (f s l).1.From a) (hf : s.From a) : (s.withSrc stream m n data f).1.From a := by
  have h := State.srcBytes_From s stream m n data hf
  show (if (s.srcBytes stream m n data).2.1 then ((s.srcBytes stream m n data).2.2, St.eccFatal, 0)
    else f (s.srcBytes stream m n data).2.2 (s.srcBytes stream m n data).1 : Effect).1.From a
  split
  · exact h
  · exact ho _ _ h
@[simp] theorem State.loadprogNow_From {a : State} (s : State) (b core t : Nat) (poff : BitVec 24) (data : List Byte) (hf : s.From a) :
    (State.loadprogNow s b core t poff data).1.From a := by
  unfold State.loadprogNow; simp (maxDischargeDepth := 40) +contextual [*]
theorem State.loadprogNow_From' {a : State} (s : State) (b core t : Nat) (poff : BitVec 24) (data : List Byte) (hf : s.From a) {t0 : State} {y0 : Byte × Nat}
    (ht : State.loadprogNow s b core t poff data = (t0, y0)) : t0.From a := by
  have h0 := State.loadprogNow_From s b core t poff data hf; rw [ht] at h0; exact h0
@[simp] theorem State.clearRegion_From {a : State} (s : State) (n m : Nat) (hf : s.From a) :
    (State.clearRegion s n m).From a := by
  unfold State.clearRegion; simp (maxDischargeDepth := 40) +contextual [*]
@[simp] theorem State.clearRuleFlags_From {a : State} (s : State) (n m : Nat) (hf : s.From a) :
    (State.clearRuleFlags s n m).From a := by
  unfold State.clearRuleFlags; simp (maxDischargeDepth := 40) +contextual [*]
@[simp] theorem State.removeRule_From {a : State} (s : State) (n m : Nat) (hf : s.From a) :
    (State.removeRule s n m).From a := by
  unfold State.removeRule; simp (maxDischargeDepth := 40) +contextual [*]
@[simp] theorem State.rowsLoaded_From {a : State} (s : State) (n m first count : Nat) (hf : s.From a) :
    (State.rowsLoaded s n m first count).From a := by
  unfold State.rowsLoaded; simp (maxDischargeDepth := 40) +contextual [*]
@[simp] theorem State.dropBerths_From {a : State} (s : State) (n m : Nat) (hf : s.From a) :
    (State.dropBerths s n m).From a := by
  unfold State.dropBerths; simp (maxDischargeDepth := 40) +contextual [*]
@[simp] theorem State.loadmatNow_From {a : State} (s : State) (b core m : Nat) (desc : List Word) (stream : BitVec 8) (src : Word64) (first count : Nat) (data : List Byte) (hf : s.From a) :
    (State.loadmatNow s b core m desc stream src first count data).1.From a := by
  unfold State.loadmatNow; simp only []; (repeat' (first | exact hf | (refine State.From_forAll ?_ _ ?_; intro s x h) | split)) <;> simp_all (maxDischargeDepth := 40) +contextual
theorem State.loadmatNow_From' {a : State} (s : State) (b core m : Nat) (desc : List Word) (stream : BitVec 8) (src : Word64) (first count : Nat) (data : List Byte) (hf : s.From a) {t0 : State} {y0 : Byte × Nat}
    (ht : State.loadmatNow s b core m desc stream src first count data = (t0, y0)) : t0.From a := by
  have h0 := State.loadmatNow_From s b core m desc stream src first count data hf; rw [ht] at h0; exact h0
@[simp] theorem State.loadrouteNow_From {a : State} (s : State) (b core t idx : Nat) (stream : BitVec 8) (src : Word64) (first units : Nat) (data : List Byte) (hf : s.From a) :
    (State.loadrouteNow s b core t idx stream src first units data).1.From a := by
  unfold State.loadrouteNow; simp (maxDischargeDepth := 40) +contextual [*]
theorem State.loadrouteNow_From' {a : State} (s : State) (b core t idx : Nat) (stream : BitVec 8) (src : Word64) (first units : Nat) (data : List Byte) (hf : s.From a) {t0 : State} {y0 : Byte × Nat}
    (ht : State.loadrouteNow s b core t idx stream src first units data = (t0, y0)) : t0.From a := by
  have h0 := State.loadrouteNow_From s b core t idx stream src first units data hf; rw [ht] at h0; exact h0
@[simp] theorem State.loadruleNow_From {a : State} (s : State) (b core m : Nat) (stream : BitVec 8) (src : Word64) (data : List Byte) (hf : s.From a) :
    (State.loadruleNow s b core m stream src data).1.From a := by
  unfold State.loadruleNow; simp (maxDischargeDepth := 40) +contextual [*]
theorem State.loadruleNow_From' {a : State} (s : State) (b core m : Nat) (stream : BitVec 8) (src : Word64) (data : List Byte) (hf : s.From a) {t0 : State} {y0 : Byte × Nat}
    (ht : State.loadruleNow s b core m stream src data = (t0, y0)) : t0.From a := by
  have h0 := State.loadruleNow_From s b core m stream src data hf; rw [ht] at h0; exact h0
@[simp] theorem State.chancfgNow_From {a : State} (s : State) (b h : Nat) (stream : BitVec 8) (src : Word64) (data : List Byte) (hf : s.From a) :
    (State.chancfgNow s b h stream src data).1.From a := by
  unfold State.chancfgNow; simp (maxDischargeDepth := 40) +contextual [*]
theorem State.chancfgNow_From' {a : State} (s : State) (b h : Nat) (stream : BitVec 8) (src : Word64) (data : List Byte) (hf : s.From a) {t0 : State} {y0 : Byte × Nat}
    (ht : State.chancfgNow s b h stream src data = (t0, y0)) : t0.From a := by
  have h0 := State.chancfgNow_From s b h stream src data hf; rw [ht] at h0; exact h0
@[simp] theorem State.epochNow_From {a : State} (s : State) (b g len : Nat) (base : BitVec 48) (hf : s.From a) :
    (State.epochNow s b g len base).1.From a := by
  unfold State.epochNow; simp (maxDischargeDepth := 40) +contextual [*]
theorem State.epochNow_From' {a : State} (s : State) (b g len : Nat) (base : BitVec 48) (hf : s.From a) {t0 : State} {y0 : Byte × Nat}
    (ht : State.epochNow s b g len base = (t0, y0)) : t0.From a := by
  have h0 := State.epochNow_From s b g len base hf; rw [ht] at h0; exact h0
@[simp] theorem State.berthIssue_From {a : State} (s : State) (h : Hdr) (cseq : Word64) (core m circuit k : Nat) (first last : BitVec 48) (base lines : BitVec 14) (hf : s.From a) :
    (State.berthIssue s h cseq core m circuit k first last base lines).From a := by
  unfold State.berthIssue; simp (maxDischargeDepth := 40) +contextual [*]
@[simp] theorem State.copyMods_From {a : State} (s : State) (mask : BitVec 4) (count first : Nat) (stream : BitVec 8) (src : Word64) (data : List Byte) (hf : s.From a) :
    (State.copyMods s mask count first stream src data).1.From a := by
  unfold State.copyMods; simp (maxDischargeDepth := 40) +contextual [*]
theorem State.copyMods_From' {a : State} (s : State) (mask : BitVec 4) (count first : Nat) (stream : BitVec 8) (src : Word64) (data : List Byte) (hf : s.From a) {t0 : State} {y0 : Byte × Nat}
    (ht : State.copyMods s mask count first stream src data = (t0, y0)) : t0.From a := by
  have h0 := State.copyMods_From s mask count first stream src data hf; rw [ht] at h0; exact h0
@[simp] theorem State.copyBytes_From {a : State} (s : State) (stream : BitVec 8) (src dst : Word64) (len : Nat) (data : List Byte) (hf : s.From a) :
    (State.copyBytes s stream src dst len data).1.From a := by
  unfold State.copyBytes; simp (maxDischargeDepth := 40) +contextual [*]
theorem State.copyBytes_From' {a : State} (s : State) (stream : BitVec 8) (src dst : Word64) (len : Nat) (data : List Byte) (hf : s.From a) {t0 : State} {y0 : Byte × Nat}
    (ht : State.copyBytes s stream src dst len data = (t0, y0)) : t0.From a := by
  have h0 := State.copyBytes_From s stream src dst len data hf; rw [ht] at h0; exact h0

end Sys2Proof.Machine
end

