-- ==== Sys2Proof/Laws/Reach/Commands.lean ====
section
/-! SUPPORT. Laws/Reach/Commands.lean: what each operation of Machine/Commands.lean can do to the tables (`From`). -/

namespace Sys2Proof.Machine

@[simp] theorem State.effect_From {a : State} (s : State) (b : Nat) (d : Deferred) (hf : s.From a) :
    (State.effect s b d).1.From a := by
  unfold State.effect; (repeat' split) <;> simp (maxDischargeDepth := 40) +contextual [*]
theorem State.effect_From' {a : State} (s : State) (b : Nat) (d : Deferred) (hf : s.From a) {t0 : State} {y0 : Byte × Nat}
    (ht : State.effect s b d = (t0, y0)) : t0.From a := by
  have h0 := State.effect_From s b d hf; rw [ht] at h0; exact h0
@[simp] theorem State.copyGo_From {a : State} (s : State) (h : Hdr) (cseq : Word64) (src dst : Word64) (len circuit : Nat) (useCircuit : Bool) (l : List Byte) (hf : s.From a) :
    (State.copyGo s h cseq src dst len circuit useCircuit l).From a := by
  unfold State.copyGo; simp only []; (repeat' (first | exact hf | (refine State.From_forAll ?_ _ ?_; intro s x h) | split)) <;> simp_all (maxDischargeDepth := 40) +contextual
@[simp] theorem State.modsDone_From {a : State} (s : State) (h : Hdr) (cseq : Word64) (mask : BitVec 4) (count first : Nat) (src : Word64) (l : List Byte) (hf : s.From a) :
    (State.modsDone s h cseq mask count first src l).From a := by
  unfold State.modsDone; simp (maxDischargeDepth := 40) +contextual [*]
@[simp] theorem State.effectDone_From {a : State} (s : State) (b : Nat) (d : Deferred) (hf : s.From a) :
    (State.effectDone s b d).From a := by
  unfold State.effectDone; simp only []; (repeat' (first | exact hf | (refine State.From_forAll ?_ _ ?_; intro s x h) | split)) <;> simp_all (maxDischargeDepth := 40) +contextual
@[simp] theorem State.boundaryEffect_From {a : State} (s : State) (b : Nat) (hf : s.From a) :
    (State.boundaryEffect s b).From a := by
  unfold State.boundaryEffect; simp only []; (repeat' (first | exact hf | (refine State.From_forAll ?_ _ ?_; intro s x h) | split)) <;> simp_all (maxDischargeDepth := 40) +contextual
@[simp] theorem State.defer_From {a : State} (s : State) (b : Nat) (h : Hdr) (op : Byte) (d : Deferred) (hf : s.From a) :
    (State.defer s b h op d).From a := by
  unfold State.defer; simp (maxDischargeDepth := 40) +contextual [*]
@[simp] theorem State.boundary_From {a : State} (s taken : State) (b : Nat) (h : Hdr) (op : Byte) (d : Deferred) (hf : s.From a) (hf1 : taken.From a) :
    (State.boundary s taken b h op d).From a := by
  unfold State.boundary; simp (maxDischargeDepth := 40) +contextual [*]
@[simp] theorem State.takeSrc_From {a : State} (s : State) (stream : BitVec 8) (m : Word64) (n : Nat) (hf : s.From a) :
    (State.takeSrc s stream m n).2.From a := by
  unfold State.takeSrc; (repeat' split) <;> simp (maxDischargeDepth := 40) +contextual [*]
theorem State.takeSrc_From' {a : State} (s : State) (stream : BitVec 8) (m : Word64) (n : Nat) (hf : s.From a) {t0 : State} {y0 : List Byte}
    (ht : State.takeSrc s stream m n = (y0, t0)) : t0.From a := by
  have h0 := State.takeSrc_From s stream m n hf; rw [ht] at h0; exact h0
@[simp] theorem State.boundarySrc_From {a : State} (s : State) (b : Nat) (h : Hdr) (op : Byte) (c : Instr) (cseq : Word64) (m : Word64) (n : Nat) (hf : s.From a) :
    State.OptFrom (State.boundarySrc s b h op c cseq m n) a := by
  unfold State.boundarySrc; simp (maxDischargeDepth := 40) +contextual [*]
@[simp] theorem State.answerJoin_From {a : State} (s : State) (b : Nat) (dev : BitVec 6) (mask : Word64) (hf : s.From a) :
    (State.answerJoin s b dev mask).From a := by
  unfold State.answerJoin; simp (maxDischargeDepth := 40) +contextual [*]
@[simp] theorem State.answerJoins_From {a : State} (s : State) (b : Nat) (hf : s.From a) :
    (State.answerJoins s b).From a := by
  unfold State.answerJoins; simp (maxDischargeDepth := 40) +contextual [*]
@[simp] theorem State.bindingFresh_From {a : State} (s : State) (b : Nat) (hf : s.From a) :
    (State.bindingFresh s b).From a := by
  unfold State.bindingFresh; simp (maxDischargeDepth := 40) +contextual [*]
@[simp] theorem State.create_From {a : State} (s : State) (h : Hdr) (cseq : Word64) (b : Nat) (mask seed : Word64) (hf : s.From a) :
    (State.create s h cseq b mask seed).From a := by
  unfold State.create; simp (maxDischargeDepth := 40) +contextual [*]
@[simp] theorem State.issueBind_From {a : State} (s : State) (h : Hdr) (cseq : Word64) (c : Instr) (kind : BitVec 4) (count first : Nat) (w1 w2 : Word64) (hf : s.From a) :
    (State.issueBind s h cseq c kind count first w1 w2).From a := by
  unfold State.issueBind; simp (maxDischargeDepth := 40) +contextual [*]
@[simp] theorem State.haltFor_From {a : State} (s : State) (b : Nat) (leaves : Bool) (hf : s.From a) :
    (State.haltFor s b leaves).From a := by
  unfold State.haltFor; simp (maxDischargeDepth := 40) +contextual [*]
@[simp] theorem State.memberHalts_From {a : State} (s : State) (b : Nat) (dev : BitVec 6) (leaves : Bool) (hf : s.From a) :
    (State.memberHalts s b dev leaves).From a := by
  unfold State.memberHalts; simp (maxDischargeDepth := 40) +contextual [*]
@[simp] theorem State.issueUnbind_From {a : State} (s : State) (h : Hdr) (cseq : Word64) (c : Instr) (kind : BitVec 4) (count first : Nat) (hf : s.From a) :
    (State.issueUnbind s h cseq c kind count first).From a := by
  unfold State.issueUnbind; simp (maxDischargeDepth := 40) +contextual [*]
@[simp] theorem State.joinAck_From {a : State} (s : State) (b : Nat) (dev : BitVec 6) (mask : Word64) (ok : Bool) (hf : s.From a) :
    (State.joinAck s b dev mask ok).From a := by
  unfold State.joinAck; simp only []; (repeat' (first | exact hf | (refine State.From_forAll ?_ _ ?_; intro s x h) | split)) <;> simp_all (maxDischargeDepth := 40) +contextual
@[simp] theorem State.issueStep_From {a : State} (s : State) (h : Hdr) (cseq : Word64) (op : Byte) (n : Option Nat) (hf : s.From a) :
    State.OptFrom (State.issueStep s h cseq op n) a := by
  unfold State.issueStep; simp (maxDischargeDepth := 40) +contextual [*]
@[simp] theorem State.issueHalt_From {a : State} (s : State) (h : Hdr) (cseq : Word64) (hf : s.From a) :
    (State.issueHalt s h cseq).From a := by
  unfold State.issueHalt; simp (maxDischargeDepth := 40) +contextual [*]
@[simp] theorem State.issueApply_From {a : State} (s : State) (h : Hdr) (cseq : Word64) (g : BitVec 8) (hf : s.From a) :
    (State.issueApply s h cseq g).From a := by
  unfold State.issueApply; simp (maxDischargeDepth := 40) +contextual [*]
@[simp] theorem State.issueBerth_From {a : State} (s : State) (h : Hdr) (cseq : Word64) (core m circuit k : Nat) (first last : BitVec 48) (base lines : BitVec 14) (hf : s.From a) :
    State.OptFrom (State.issueBerth s h cseq core m circuit k first last base lines) a := by
  unfold State.issueBerth; simp (maxDischargeDepth := 40) +contextual [*]
@[simp] theorem State.issueCopyBytes_From {a : State} (s : State) (h : Hdr) (cseq : Word64) (c : Instr) (src dst : Word64) (len circuit : Nat) (useCircuit : Bool) (hf : s.From a) :
    State.OptFrom (State.issueCopyBytes s h cseq c src dst len circuit useCircuit) a := by
  unfold State.issueCopyBytes; simp (maxDischargeDepth := 40) +contextual [*]
@[simp] theorem State.issueCopy_From {a : State} (s : State) (h : Hdr) (cseq : Word64) (c : Instr) (kind mask : BitVec 4) (count first : Nat) (src dst : Word64) (len circuit : Nat) (useCircuit : Bool) (hf : s.From a) :
    State.OptFrom (State.issueCopy s h cseq c kind mask count first src dst len circuit useCircuit) a := by
  unfold State.issueCopy; simp (maxDischargeDepth := 40) +contextual [*]
@[simp] theorem State.perform_From {a : State} (s : State) (h : Hdr) (cseq : Word64) (op : Byte) (f : State → State) (arg : Nat)
    (ho : ∀ s, s.From a → (f s).From a) (hf : s.From a) : (s.perform h cseq op f arg).From a := by
  have h1 := ho _ (State.outstanding_From s { h with ackp := false } cseq op arg hf)
  unfold State.perform
  dsimp only
  split
  · exact State.record_From _ _ _ _ _ _ h1
  · exact h1
@[simp] theorem State.issueBuoy_From {a : State} (s : State) (h : Hdr) (cseq : Word64) (dev : BitVec 6) (r : BuoyReq) (hf : s.From a) :
    State.OptFrom (State.issueBuoy s h cseq dev r) a := by
  unfold State.issueBuoy
  extract_lets b op st
  clear_value st op
  split
  · rw [State.OptFrom_some]; exact State.complete_From _ _ _ _ _ _ hf
  · split
    · split
      · rw [State.OptFrom_none]; trivial
      · rw [State.OptFrom_some]
        apply State.perform_From
        · intro s h
          split
          · exact State.signalGo_From _ _ _ h
          · exact h
        · exact hf
    · rw [State.OptFrom_some]
      apply State.perform_From
      · intro s h
        split
        · exact State.buoyRequest_From _ _ h
        · exact State.toDevice_From _ _ _ _ _ h
      · exact hf
@[simp] theorem State.issueSend_From {a : State} (s : State) (h : Hdr) (cseq : Word64) (dev q : Nat) (tag : Nat) (msg : List Word64) (hf : s.From a) :
    State.OptFrom (State.issueSend s h cseq dev q tag msg) a := by
  unfold State.issueSend; simp (maxDischargeDepth := 40) +contextual [*]
@[simp] theorem State.issueRecv_From {a : State} (s : State) (h : Hdr) (cseq : Word64) (q : BitVec 12) (dst : Word64) (tmo : Word) (hf : s.From a) :
    (State.issueRecv s h cseq q dst tmo).From a := by
  unfold State.issueRecv; simp (maxDischargeDepth := 40) +contextual [*]
@[simp] theorem State.issueEncode_From {a : State} (s : State) (h : Hdr) (cseq : Word64) (cfirst ch : Nat) (src : Word64) (nrow tstep : Nat) (zin : BitVec 8) (hf : s.From a) :
    State.OptFrom (State.issueEncode s h cseq cfirst ch src nrow tstep zin) a := by
  unfold State.issueEncode; simp (maxDischargeDepth := 40) +contextual [*]
@[simp] theorem State.issueDecode_From {a : State} (s : State) (h : Hdr) (cseq : Word64) (cfirst : BitVec 18) (ch : BitVec 12) (dst : Word64) (count : Nat) (hf : s.From a) :
    (State.issueDecode s h cseq cfirst ch dst count).From a := by
  unfold State.issueDecode; simp (maxDischargeDepth := 40) +contextual [*]
@[simp] theorem State.issueTimestamp_From {a : State} (s : State) (h : Hdr) (cseq : Word64) (when' : BitVec 1) (dst : Word64) (hf : s.From a) :
    (State.issueTimestamp s h cseq when' dst).From a := by
  unfold State.issueTimestamp; simp (maxDischargeDepth := 40) +contextual [*]
@[simp] theorem State.issueHint_From {a : State} (s : State) (h : Hdr) (cseq : Word64) (kind : BitVec 4) (watts : BitVec 12) (dur ahead : BitVec 16) (hf : s.From a) :
    (State.issueHint s h cseq kind watts dur ahead).From a := by
  unfold State.issueHint; simp (maxDischargeDepth := 40) +contextual [*]
@[simp] theorem State.issueNote_From {a : State} (s : State) (h : Hdr) (cseq : Word64) (value : Word) (hf : s.From a) :
    (State.issueNote s h cseq value).From a := by
  unfold State.issueNote; simp (maxDischargeDepth := 40) +contextual [*]
@[simp] theorem State.issueLoadprog_From {a : State} (s : State) (h : Hdr) (cseq : Word64) (c : Instr) (core t : Nat) (poff : BitVec 24) (m : Word64) (hf : s.From a) :
    State.OptFrom (State.issueLoadprog s h cseq c core t poff m) a := by
  unfold State.issueLoadprog; (repeat' split) <;> simp (maxDischargeDepth := 40) +contextual [*]
@[simp] theorem State.issueLoad_From {a : State} (s : State) (h : Hdr) (op : Byte) (cseq : Word64) (c : Instr) (st : Byte) (m : Word64) (n : Nat) (hf : s.From a) :
    State.OptFrom (State.issueLoad s h op cseq c st m n) a := by
  unfold State.issueLoad; simp (maxDischargeDepth := 40) +contextual [*]
@[simp] theorem State.issueKind_From {a : State} (s : State) (c : Instr) (h : Hdr) (cseq : Word64) (hf : s.From a) :
    State.OptFrom (State.issueKind s c h cseq) a := by
  unfold State.issueKind; (repeat' split) <;> simp (maxDischargeDepth := 40) +contextual [*]
@[simp] theorem State.tryIssue_From {a : State} (s : State) (c : Instr) (cseq : Word64) (hf : s.From a) :
    State.OptFrom (State.tryIssue s c cseq) a := by
  unfold State.tryIssue; (repeat' split) <;> simp (maxDischargeDepth := 40) +contextual [*]
@[simp] theorem State.command_From {a : State} (s : State) (c : Instr) (hf : s.From a) :
    (State.command s c).From a := by
  unfold State.command; (try dsimp only); repeat' (first | exact hf | assumption | split | with_reducible apply State.setStrm_From | with_reducible apply State.unitActs_From | with_reducible apply State.complete_From | with_reducible apply State.tryIssue_From | (with_reducible apply State.From_forAll; intros) | (with_reducible apply State.From_fold; intros) | (with_reducible apply State.From_fold1; intros) | refine State.tryIssue_From _ _ _ ?_ _ (by assumption) | simp only [State.OptFrom_none, State.OptFrom_some] | with_reducible apply State.getD_From | simp only [State.From_mk, Track.To_fold])
@[simp] theorem State.enqueue_From {a : State} (s : State) (c : Instr) (hf : s.From a) :
    (State.enqueue s c).From a := by
  unfold State.enqueue; (repeat' split) <;> simp (maxDischargeDepth := 40) +contextual [*]
@[simp] theorem State.fences_From {a : State} (s : State) (hf : s.From a) :
    (State.fences s).From a := by
  unfold State.fences; simp (maxDischargeDepth := 40) +contextual [*]
@[simp] theorem State.issueHeld_From {a : State} (s : State) (n : Nat) (hf : s.From a) :
    State.OptFrom (State.issueHeld s n) a := by
  unfold State.issueHeld; simp only []; (repeat' (first | exact hf | (refine State.From_forAll ?_ _ ?_; intro s x h) | split)) <;> simp_all (maxDischargeDepth := 40) +contextual
@[simp] theorem State.engineTurn_From {a : State} (s : State) (hf : s.From a) :
    (State.engineTurn s).From a := by
  unfold State.engineTurn
  extract_lets u l
  have hu : u.From a := State.fences_From s hf
  split
  · exact hu
  · rename_i n t h
    have h2 := List.exists_of_findSome?_eq_some h
    rcases h2 with ⟨j, hj, hi⟩
    cases ho : u.issueHeld j with
    | none => rw [ho] at hi; cases hi
    | some v =>
      rw [ho] at hi
      cases hi
      have h3 : t.From a := State.issueHeld_From u _ hu _ ho
      exact h3
@[simp] theorem State.engineTurns_From {a : State} (n : Nat) (s : State) (hf : s.From a) : (State.engineTurns n s).From a := by
  induction n generalizing s with
  | zero => exact hf
  | succ n ih => exact ih _ (State.engineTurn_From _ hf)

end Sys2Proof.Machine
end

