-- ==== Sys2Proof/Laws/Reach/Timers.lean ====
section
/-! SUPPORT. Laws/Reach/Timers.lean: what each operation of Machine/Timers.lean can do to the tables (`From`). -/

namespace Sys2Proof.Machine

@[simp] theorem State.maybeWithdraw_From {a : State} (s : State) (n : Nat) (hf : s.From a) :
    (State.maybeWithdraw s n).From a := by
  unfold State.maybeWithdraw; simp (maxDischargeDepth := 40) +contextual [*]
@[simp] theorem State.setClaimSlot_From {a : State} (s : State) (p : BitVec 1) (v : BitVec 9) (hf : s.From a) :
    (State.setClaimSlot s p v).From a := by
  unfold State.setClaimSlot; simp (maxDischargeDepth := 40) +contextual [*]
@[simp] theorem State.keeperReply_From {a0 : State} (s : State) (a : Nat) (st : Byte) (hf : s.From a0) :
    (State.keeperReply s a st).From a0 := by
  unfold State.keeperReply; simp (maxDischargeDepth := 40) +contextual [*]
@[simp] theorem State.irqClaim_From {a : State} (s : State) (p : BitVec 1) (n : BitVec 9) (hf : s.From a) :
    (State.irqClaim s p n).1.From a := by
  unfold State.irqClaim; (repeat' split) <;> simp (maxDischargeDepth := 40) +contextual [*]
theorem State.irqClaim_From' {a : State} (s : State) (p : BitVec 1) (n : BitVec 9) (hf : s.From a) {t0 : State} {y0 : Byte}
    (ht : State.irqClaim s p n = (t0, y0)) : t0.From a := by
  have h0 := State.irqClaim_From s p n hf; rw [ht] at h0; exact h0
@[simp] theorem State.irqDone_From {a : State} (s : State) (p : BitVec 1) (n : BitVec 9) (hf : s.From a) :
    (State.irqDone s p n).1.From a := by
  unfold State.irqDone; (repeat' split) <;> simp (maxDischargeDepth := 40) +contextual [*]
theorem State.irqDone_From' {a : State} (s : State) (p : BitVec 1) (n : BitVec 9) (hf : s.From a) {t0 : State} {y0 : Byte}
    (ht : State.irqDone s p n = (t0, y0)) : t0.From a := by
  have h0 := State.irqDone_From s p n hf; rw [ht] at h0; exact h0
@[simp] theorem State.setEnables_From {a : State} (s : State) (en : BitVec 512) (hf : s.From a) :
    (State.setEnables s en).From a := by
  unfold State.setEnables; simp (maxDischargeDepth := 40) +contextual [*]
@[simp] theorem State.enableAll_From {a : State} (s : State) (hf : s.From a) :
    (State.enableAll s).From a := by
  unfold State.enableAll; simp (maxDischargeDepth := 40) +contextual [*]
@[simp] theorem State.tbStep_From {a : State} (s : State) (ns : Nat) (hf : s.From a) :
    (State.tbStep s ns).1.From a := by
  unfold State.tbStep; (repeat' split) <;> simp (maxDischargeDepth := 40) +contextual [*]
theorem State.tbStep_From' {a : State} (s : State) (ns : Nat) (hf : s.From a) {t0 : State} {y0 : Byte}
    (ht : State.tbStep s ns = (t0, y0)) : t0.From a := by
  have h0 := State.tbStep_From s ns hf; rw [ht] at h0; exact h0
@[simp] theorem State.tbTick_From {a : State} (s : State) (hf : s.From a) :
    (State.tbTick s).From a := by
  unfold State.tbTick; simp (maxDischargeDepth := 40) +contextual [*]
@[simp] theorem State.asLock_From {a : State} (s : State) (p : Nat) (b : Bool) (hf : s.From a) :
    (State.asLock s p b).From a := by
  unfold State.asLock; simp (maxDischargeDepth := 40) +contextual [*]
@[simp] theorem State.holdover_From {a : State} (s : State) (p : Nat) (hf : s.From a) :
    (State.holdover s p).From a := by
  unfold State.holdover; simp (maxDischargeDepth := 40) +contextual [*]
@[simp] theorem State.fabricTimeLost_From {a : State} (s : State) (hf : s.From a) :
    (State.fabricTimeLost s).From a := by
  unfold State.fabricTimeLost; simp (maxDischargeDepth := 40) +contextual [*]
@[simp] theorem State.syncReturn_From {a : State} (s : State) (src : Nat) (rate : Word) (hf : s.From a) :
    (State.syncReturn s src rate).From a := by
  unfold State.syncReturn; simp (maxDischargeDepth := 40) +contextual [*]
@[simp] theorem State.timeSync_From {a : State} (s : State) (src : Nat) (offset : Word64) (rate : Word) (hf : s.From a) :
    (State.timeSync s src offset rate).From a := by
  unfold State.timeSync; simp (maxDischargeDepth := 40) +contextual [*]
@[simp] theorem State.timerFlag_From {a : State} (s : State) (n bit : Nat) (hf : s.From a) :
    (State.timerFlag s n bit).From a := by
  unfold State.timerFlag; simp (maxDischargeDepth := 40) +contextual [*]
@[simp] theorem State.loadPreloads_From {a : State} (s : State) (n : Nat) (hf : s.From a) :
    (State.loadPreloads s n).From a := by
  unfold State.loadPreloads; simp (maxDischargeDepth := 40) +contextual [*]
@[simp] theorem State.timerTick_From {a : State} (s : State) (n : Nat) (hf : s.From a) :
    (State.timerTick s n).From a := by
  unfold State.timerTick; simp (maxDischargeDepth := 40) +contextual [*]
@[simp] theorem State.timerWrap_From {a : State} (s : State) (n : Nat) (hf : s.From a) :
    (State.timerWrap s n).From a := by
  unfold State.timerWrap; simp (maxDischargeDepth := 40) +contextual [*]
@[simp] theorem State.timerMatch_From {a : State} (s : State) (n k : Nat) (hf : s.From a) :
    (State.timerMatch s n k).From a := by
  unfold State.timerMatch; simp (maxDischargeDepth := 40) +contextual [*]
@[simp] theorem State.timerClock_From {a : State} (s : State) (n : Nat) (hf : s.From a) :
    (State.timerClock s n).From a := by
  unfold State.timerClock; simp (maxDischargeDepth := 40) +contextual [*]
@[simp] theorem State.timerStart_From {a : State} (s : State) (n : Nat) (hf : s.From a) :
    (State.timerStart s n).From a := by
  unfold State.timerStart; simp (maxDischargeDepth := 40) +contextual [*]
@[simp] theorem State.timerStop_From {a : State} (s : State) (n : Nat) (hf : s.From a) :
    (State.timerStop s n).From a := by
  unfold State.timerStop; simp (maxDischargeDepth := 40) +contextual [*]
@[simp] theorem State.timerGroup_From {a : State} (s : State) (m : Word) (f : State → Nat → State)
    (ho : ∀ s n, s.From a → (f s n).From a) (hf : s.From a) : (s.timerGroup m f).1.From a := by
  unfold State.timerGroup; split
  · exact hf
  · exact State.From_forAll ho _ hf
@[simp] theorem State.timerValue_From {a : State} (s : State) (n which : Nat) (v : Word) (hf : s.From a) :
    (State.timerValue s n which v).1.From a := by
  unfold State.timerValue; simp only []; (repeat' (first | exact hf | (refine State.From_forAll ?_ _ ?_; intro s x h) | split)) <;> simp_all (maxDischargeDepth := 40) +contextual
theorem State.timerValue_From' {a : State} (s : State) (n which : Nat) (v : Word) (hf : s.From a) {t0 : State} {y0 : Byte}
    (ht : State.timerValue s n which v = (t0, y0)) : t0.From a := by
  have h0 := State.timerValue_From s n which v hf; rw [ht] at h0; exact h0
@[simp] theorem State.timerCount_From {a : State} (s : State) (n : Nat) (v : Word) (hf : s.From a) :
    (State.timerCount s n v).1.From a := by
  unfold State.timerCount; (repeat' split) <;> simp (maxDischargeDepth := 40) +contextual [*]
theorem State.timerCount_From' {a : State} (s : State) (n : Nat) (v : Word) (hf : s.From a) {t0 : State} {y0 : Byte}
    (ht : State.timerCount s n v = (t0, y0)) : t0.From a := by
  have h0 := State.timerCount_From s n v hf; rw [ht] at h0; exact h0
@[simp] theorem State.timerCtrl_From {a : State} (s : State) (n : Nat) (v : Word) (hf : s.From a) :
    (State.timerCtrl s n v).1.From a := by
  unfold State.timerCtrl; simp only []; (repeat' (first | exact hf | (refine State.From_forAll ?_ _ ?_; intro s x h) | split)) <;> simp_all (maxDischargeDepth := 40) +contextual
theorem State.timerCtrl_From' {a : State} (s : State) (n : Nat) (v : Word) (hf : s.From a) {t0 : State} {y0 : Byte}
    (ht : State.timerCtrl s n v = (t0, y0)) : t0.From a := by
  have h0 := State.timerCtrl_From s n v hf; rw [ht] at h0; exact h0
@[simp] theorem State.timerWrite_From {a : State} (s : State) (n which : Nat) (v : Word) (hf : s.From a) :
    (State.timerWrite s n which v).1.From a := by
  unfold State.timerWrite; (repeat' split) <;> simp (maxDischargeDepth := 40) +contextual [*]
theorem State.timerWrite_From' {a : State} (s : State) (n which : Nat) (v : Word) (hf : s.From a) {t0 : State} {y0 : Byte}
    (ht : State.timerWrite s n which v = (t0, y0)) : t0.From a := by
  have h0 := State.timerWrite_From s n which v hf; rw [ht] at h0; exact h0
@[simp] theorem replied_From {a : State} (n : Nat) (x : State × Byte) (hf : x.1.From a) : (replied n x).From a := by
  unfold replied; simp [hf]
@[simp] theorem kept_From {a : State} (n : Nat) (x : State × Byte) (hf : x.1.From a) : (kept n x).From a := by
  unfold kept; simp [hf]

end Sys2Proof.Machine
end

