-- ==== Sys2Proof/Laws/Reach/Paths.lean ====
section
/-! SUPPORT. Laws/Reach/Paths.lean: what each operation of Machine/Paths.lean can do to the tables (`From`). -/

namespace Sys2Proof.Machine

@[simp] theorem State.setPaths_From {a : State} (s : State) (hf : s.From a) :
    (State.setPaths s).From a := by
  unfold State.setPaths; simp (maxDischargeDepth := 40) +contextual [*]

end Sys2Proof.Machine
end

