-- ==== Sys2Proof/Laws/Reach/Fabric.lean ====
section
/-! SUPPORT. Laws/Reach/Fabric.lean: what each operation of Machine/Fabric.lean can do to the tables (`From`). -/

namespace Sys2Proof.Machine

@[simp] theorem State.ownPath_From {a : State} (s : State) (p : FabPkt) (hf : s.From a) :
    (State.ownPath s p).From a := by
  unfold State.ownPath; (repeat' split) <;> simp (maxDischargeDepth := 40) +contextual [*]
@[simp] theorem State.forward_From {a : State} (s : State) (p : FabPkt) (hf : s.From a) :
    (State.forward s p).From a := by
  unfold State.forward; simp (maxDischargeDepth := 40) +contextual [*]
@[simp] theorem State.e2eAck_From {a : State} (s : State) (d v : Nat) (hf : s.From a) :
    (State.e2eAck s d v).From a := by
  unfold State.e2eAck; simp (maxDischargeDepth := 40) +contextual [*]
@[simp] theorem State.payCredits_From {a : State} (s : State) (hf : s.From a) :
    (State.payCredits s).From a := by
  unfold State.payCredits; simp (maxDischargeDepth := 40) +contextual [*]
@[simp] theorem State.handOver_From {a : State} (s : State) (p : FabPkt) (hf : s.From a) :
    (State.handOver s p).From a := by
  unfold State.handOver; simp (maxDischargeDepth := 40) +contextual [*]
@[simp] theorem State.e2eReceive_From {a : State} (s : State) (p : FabPkt) (hf : s.From a) :
    (State.e2eReceive s p).From a := by
  unfold State.e2eReceive; simp (maxDischargeDepth := 40) +contextual [*]
@[simp] theorem State.drainRetain_From {a : State} (n : Nat) (s : State) (d v : Nat) (hf : s.From a) :
    (State.drainRetain n s d v).From a := by
  induction n generalizing s with
  | zero => exact hf
  | succ n ih =>
    simp only [State.drainRetain]
    split
    · exact hf
    · split
      · exact ih _ (by simp (maxDischargeDepth := 40) [hf])
      · exact hf
@[simp] theorem State.e2eAcked_From {a : State} (s : State) (d v : Nat) (low : BitVec 16) (hf : s.From a) :
    (State.e2eAcked s d v low).From a := by
  unfold State.e2eAcked; simp (maxDischargeDepth := 40) +contextual [*]
@[simp] theorem State.e2eTimer_From {a : State} (s : State) (d v : Nat) (hf : s.From a) :
    (State.e2eTimer s d v).From a := by
  unfold State.e2eTimer; simp (maxDischargeDepth := 40) +contextual [*]
@[simp] theorem State.flowDone_From {a : State} (s : State) (c : Nat) (st : Byte) (hf : s.From a) :
    (State.flowDone s c st).From a := by
  unfold State.flowDone; simp only []; (repeat' (first | exact hf | (refine State.From_forAll ?_ _ ?_; intro s x h) | split)) <;> simp_all (maxDischargeDepth := 40) +contextual
@[simp] theorem State.chunkAcked_From {a : State} (s : State) (c : Nat) (chunk : BitVec 18) (hf : s.From a) :
    (State.chunkAcked s c chunk).From a := by
  unfold State.chunkAcked; simp only []; (repeat' (first | exact hf | (refine State.From_forAll ?_ _ ?_; intro s x h) | split)) <;> simp_all (maxDischargeDepth := 40) +contextual
@[simp] theorem State.chunkReceive_From {a : State} (s : State) (src c : Nat) (flow : Word64) (chunk : BitVec 18) (dst : Word64) (data : List Byte) (hf : s.From a) :
    (State.chunkReceive s src c flow chunk dst data).From a := by
  unfold State.chunkReceive; (try dsimp only); repeat' (first | exact hf | assumption | split | with_reducible apply State.setCirc_From | with_reducible apply State.toDevice_From | with_reducible apply State.writeMem_From | with_reducible apply State.chunkAcked_From | (with_reducible apply State.From_forAll; intros) | (with_reducible apply State.From_fold; intros) | (with_reducible apply State.From_fold1; intros) | simp only [State.OptFrom_none, State.OptFrom_some] | with_reducible apply State.getD_From | simp only [State.From_mk, Track.To_fold])
@[simp] theorem State.circuitArm_From {a : State} (s : State) (c : Nat) (hf : s.From a) :
    (State.circuitArm s c).1.From a := by
  unfold State.circuitArm; (repeat' split) <;> simp (maxDischargeDepth := 40) +contextual [*]
theorem State.circuitArm_From' {a : State} (s : State) (c : Nat) (hf : s.From a) {t0 : State} {y0 : Byte}
    (ht : State.circuitArm s c = (t0, y0)) : t0.From a := by
  have h0 := State.circuitArm_From s c hf; rw [ht] at h0; exact h0
@[simp] theorem State.againRead_From {a : State} (s : State) (c : Nat) (hf : s.From a) :
    (State.againRead s c).From a := by
  unfold State.againRead; (repeat' split) <;> simp (maxDischargeDepth := 40) +contextual [*]
@[simp] theorem State.tearDown_From {a : State} (s : State) (c : Nat) (hf : s.From a) :
    (State.tearDown s c).From a := by
  unfold State.tearDown; simp (maxDischargeDepth := 40) +contextual [*]
@[simp] theorem State.reroute_From {a : State} (s : State) (p : FabPkt) (hf : s.From a) :
    (State.reroute s p).From a := by
  unfold State.reroute; simp (maxDischargeDepth := 40) +contextual [*]
@[simp] theorem State.buffersGone_From {a : State} (s : State) (l : Nat) (hf : s.From a) :
    (State.buffersGone s l).From a := by
  unfold State.buffersGone; simp (maxDischargeDepth := 40) +contextual [*]
@[simp] theorem State.emptyLink_From {a : State} (s : State) (l : Nat) (hf : s.From a) :
    (State.emptyLink s l).From a := by
  unfold State.emptyLink; simp (maxDischargeDepth := 40) +contextual [*]
@[simp] theorem State.cutCircs_From {a : State} (s : State) (hops : List (Nat × Nat)) (hf : s.From a) :
    (State.cutCircs s hops).From a := by
  unfold State.cutCircs; simp (maxDischargeDepth := 40) +contextual [*]
@[simp] theorem State.linkFailed_From {a : State} (s : State) (l : Nat) (told : Bool) (hf : s.From a) :
    (State.linkFailed s l told).From a := by
  unfold State.linkFailed; simp (maxDischargeDepth := 40) +contextual [*]
@[simp] theorem State.farLinkFailed_From {a : State} (s : State) (dev l : Nat) (hf : s.From a) :
    (State.farLinkFailed s dev l).From a := by
  unfold State.farLinkFailed; simp (maxDischargeDepth := 40) +contextual [*]
@[simp] theorem State.linkFailure_From {a : State} (s : State) (dev l : Nat) (hf : s.From a) :
    (State.linkFailure s dev l).From a := by
  unfold State.linkFailure; simp (maxDischargeDepth := 40) +contextual [*]
@[simp] theorem State.replay_From {a : State} (s : State) (l : Nat) (hf : s.From a) :
    (State.replay s l).From a := by
  unfold State.replay; simp (maxDischargeDepth := 40) +contextual [*]
@[simp] theorem State.linkAcked_From {a : State} (s : State) (l : Nat) (lseq : BitVec 12) (hf : s.From a) :
    (State.linkAcked s l lseq).From a := by
  unfold State.linkAcked; simp (maxDischargeDepth := 40) +contextual [*]
@[simp] theorem State.linkCredit_From {a : State} (s : State) (l vc cls units : Nat) (hf : s.From a) :
    (State.linkCredit s l vc cls units).From a := by
  unfold State.linkCredit; simp (maxDischargeDepth := 40) +contextual [*]
@[simp] theorem State.linkNak_From {a : State} (s : State) (l : Nat) (hf : s.From a) :
    (State.linkNak s l).From a := by
  unfold State.linkNak; simp (maxDischargeDepth := 40) +contextual [*]
@[simp] theorem State.linkAckOut_From {a : State} (s : State) (l : Nat) (hf : s.From a) :
    (State.linkAckOut s l).From a := by
  unfold State.linkAckOut; simp (maxDischargeDepth := 40) +contextual [*]
@[simp] theorem State.linkAckSend_From {a : State} (s : State) (l : Nat) (hf : s.From a) :
    (State.linkAckSend s l).From a := by
  unfold State.linkAckSend; simp (maxDischargeDepth := 40) +contextual [*]
@[simp] theorem State.linkPacket_From {a : State} (s : State) (l : Nat) (p : FabPkt) (hf : s.From a) :
    (State.linkPacket s l p).From a := by
  unfold State.linkPacket; simp (maxDischargeDepth := 40) +contextual [*]
@[simp] theorem State.fecCount_From {a : State} (s : State) (l corr unc : Nat) (hf : s.From a) :
    (State.fecCount s l corr unc).From a := by
  unfold State.fecCount; simp (maxDischargeDepth := 40) +contextual [*]
@[simp] theorem State.linkReceive_From {a : State} (s : State) (l : Nat) (lseq : BitVec 12) (crcOk : Bool) (p : FabPkt) (hf : s.From a) :
    (State.linkReceive s l lseq crcOk p).From a := by
  unfold State.linkReceive; simp (maxDischargeDepth := 40) +contextual [*]
@[simp] theorem State.resendAvoiding_From {a : State} (s : State) (dev : Nat) (p : FabPkt) (hf : s.From a) :
    (State.resendAvoiding s dev p).From a := by
  unfold State.resendAvoiding; simp only []; (repeat' (first | exact hf | (refine State.From_forAll ?_ _ ?_; intro s x h) | split)) <;> simp_all (maxDischargeDepth := 40) +contextual
@[simp] theorem State.bindingLost_From {a : State} (s : State) (b dev : Nat) (hf : s.From a) :
    (State.bindingLost s b dev).From a := by
  unfold State.bindingLost; simp (maxDischargeDepth := 40) +contextual [*]
@[simp] theorem State.failFlows_From {a : State} (s : State) (c : Nat) (st : Byte) (hf : s.From a) :
    (State.failFlows s c st).From a := by
  unfold State.failFlows; simp only []; (repeat' (first | exact hf | (refine State.From_forAll ?_ _ ?_; intro s x h) | split)) <;> simp_all (maxDischargeDepth := 40) +contextual
@[simp] theorem State.deviceLost_From {a : State} (s : State) (dev : Nat) (cause : BitVec 2) (hf : s.From a) :
    (State.deviceLost s dev cause).From a := by
  unfold State.deviceLost; simp (maxDischargeDepth := 40) +contextual [*]
@[simp] theorem State.retireReq_From {a : State} (s : State) (hf : s.From a) :
    (State.retireReq s).1.From a := by
  unfold State.retireReq; simp only []; (repeat' (first | exact hf | (refine State.From_forAll ?_ _ ?_; intro s x h) | split)) <;> simp_all (maxDischargeDepth := 40) +contextual
theorem State.retireReq_From' {a : State} (s : State) (hf : s.From a) {t0 : State} {y0 : Byte}
    (ht : State.retireReq s = (t0, y0)) : t0.From a := by
  have h0 := State.retireReq_From s hf; rw [ht] at h0; exact h0
@[simp] theorem State.retireReady_From {a : State} (s : State) (from' : List Nat) (hf : s.From a) :
    (State.retireReady s from').From a := by
  unfold State.retireReady; simp (maxDischargeDepth := 40) +contextual [*]
@[simp] theorem State.cmapSample_From {a : State} (s : State) (ports : List (List (Nat × Nat))) (hf : s.From a) :
    (State.cmapSample s ports).From a := by
  unfold State.cmapSample; simp (maxDischargeDepth := 40) +contextual [*]
@[simp] theorem State.cmapKeep_From {a : State} (s : State) (hf : s.From a) :
    (State.cmapKeep s).From a := by
  unfold State.cmapKeep; simp (maxDischargeDepth := 40) +contextual [*]

end Sys2Proof.Machine
end

