-- ==== Sys2Proof/Laws/Reach/Recovery.lean ====
section
/-! SUPPORT. Laws/Reach/Recovery.lean: what each operation of Machine/Recovery.lean can do to the tables (`From`). -/

namespace Sys2Proof.Machine

@[simp] theorem State.admitFar_From {a : State} (s : State) (x : Nat × FarCirc) (hf : s.From a) :
    (State.admitFar s x).From a := by
  unfold State.admitFar; simp (maxDischargeDepth := 40) +contextual [*]
@[simp] theorem State.admitCirc_From {a : State} (s : State) (no : List (Nat × Nat)) (c : Nat) (hf : s.From a) :
    (State.admitCirc s no c).From a := by
  unfold State.admitCirc; (repeat' split) <;> simp (maxDischargeDepth := 40) +contextual [*]
@[simp] theorem State.setPhys_From {a : State} (s : State) (slice : Bool) (p st cause logical : Nat) (hf : s.From a) :
    (State.setPhys s slice p st cause logical).From a := by
  unfold State.setPhys; simp (maxDischargeDepth := 40) +contextual [*]
@[simp] theorem State.setLmap_From {a : State} (s : State) (slice : Bool) (k st phys : Nat) (hf : s.From a) :
    (State.setLmap s slice k st phys).From a := by
  unfold State.setLmap; simp (maxDischargeDepth := 40) +contextual [*]
@[simp] theorem State.fieldRecord_From {a : State} (s : State) (r : FieldRec) (hf : s.From a) :
    (State.fieldRecord s r).From a := by
  unfold State.fieldRecord; (try dsimp only); repeat' (first | exact hf | assumption | split | with_reducible apply State.rsetBit_From | (with_reducible apply State.From_forAll; intros) | (with_reducible apply State.From_fold; intros) | (with_reducible apply State.From_fold1; intros) | simp only [State.OptFrom_none, State.OptFrom_some] | with_reducible apply State.getD_From | simp only [State.From_mk, Track.To_fold])
@[simp] theorem State.lmapLoaded_From {a : State} (s : State) (hf : s.From a) :
    (State.lmapLoaded s).From a := by
  unfold State.lmapLoaded; simp (maxDischargeDepth := 40) +contextual [*]
@[simp] theorem State.repairList_From {a : State} (s : State) (l : List (Nat × Nat)) (hf : s.From a) :
    (State.repairList s l).From a := by
  unfold State.repairList; simp (maxDischargeDepth := 40) +contextual [*]
@[simp] theorem State.repairRows_From {a : State} (s : State) (hf : s.From a) :
    (State.repairRows s).From a := by
  unfold State.repairRows; simp (maxDischargeDepth := 40) +contextual [*]
@[simp] theorem State.quiesceAsk_From {a : State} (s : State) (hf : s.From a) :
    (State.quiesceAsk s).From a := by
  unfold State.quiesceAsk; simp (maxDischargeDepth := 40) +contextual [*]
@[simp] theorem State.quiesceAck_From {a : State} (s : State) (p : Nat) (hf : s.From a) :
    (State.quiesceAck s p).From a := by
  unfold State.quiesceAck; simp (maxDischargeDepth := 40) +contextual [*]
@[simp] theorem State.bindingFailed_From {a : State} (s : State) (b : Nat) (st : Byte) (hf : s.From a) :
    (State.bindingFailed s b st).From a := by
  unfold State.bindingFailed; simp (maxDischargeDepth := 40) +contextual [*]
@[simp] theorem State.bindingHalts_From {a : State} (s : State) (b : Nat) (st : Byte) (hf : s.From a) :
    (State.bindingHalts s b st).From a := by
  unfold State.bindingHalts; (try dsimp only); repeat' (first | exact hf | assumption | split | with_reducible apply State.toDevices_From | with_reducible apply State.bindingFailed_From | (with_reducible apply State.From_forAll; intros) | (with_reducible apply State.From_fold; intros) | (with_reducible apply State.From_fold1; intros) | simp only [State.OptFrom_none, State.OptFrom_some] | with_reducible apply State.getD_From | simp only [State.From_mk, Track.To_fold])
@[simp] theorem State.farFailed_From {a : State} (s : State) (f : BitVec 6 × Byte) (hf : s.From a) :
    (State.farFailed s f).From a := by
  unfold State.farFailed; simp (maxDischargeDepth := 40) +contextual [*]
@[simp] theorem State.coreStopped_From {a : State} (s : State) (k : Nat) (hf : s.From a) :
    (State.coreStopped s k).From a := by
  unfold State.coreStopped; simp (maxDischargeDepth := 40) +contextual [*]
@[simp] theorem State.coreFailed_From {a : State} (s : State) (p cause : Nat) (hf : s.From a) :
    (State.coreFailed s p cause).From a := by
  unfold State.coreFailed; simp (maxDischargeDepth := 40) +contextual [*]
@[simp] theorem State.quiesceTimeout_From {a : State} (s : State) (p : Nat) (hf : s.From a) :
    (State.quiesceTimeout s p).From a := by
  unfold State.quiesceTimeout; simp (maxDischargeDepth := 40) +contextual [*]
@[simp] theorem State.sliceFailed_From {a : State} (s : State) (p cause : Nat) (readable : Bool) (banks : BitVec 4) (hf : s.From a) :
    (State.sliceFailed s p cause readable banks).From a := by
  unfold State.sliceFailed; simp only []; (repeat' (first | exact hf | (refine State.From_forAll ?_ _ ?_; intro s x h) | split)) <;> simp_all (maxDischargeDepth := 40) +contextual
@[simp] theorem State.restoreSnap_From {a : State} (s : State) (b : Nat) (x : Snap) (hf : s.From a) :
    (State.restoreSnap s b x).From a := by
  unfold State.restoreSnap
  extract_lets s1 s2 s3 cs s3b r1 s4 s5 mine c1 s6 s7 s8 s9 e1 s10
  have h1 : s1.From a := State.From_forAll (fun s x h => State.dropConv_From _ _ _ (State.clearRange_From _ _ h)) _ hf
  have h2 : s2.From a := State.From_forAll (fun s x h => State.setByte_From _ _ h) _ h1
  have h3 : s3.From a := State.From_forAll (fun s x h => by
    split
    · exact h
    · exact State.setCtx_From _ _ h) _ h2
  have h3b : s3b.From a := State.From_forAll (fun s x h => State.dropConv_From _ _ _ h) _ h3
  have h4 : s4.From a := { h3b with rings := .filter _ h3b.rings, pages := .filter _ h3b.pages, staging := .filter _ h3b.staging }
  have h5 : s5.From a := State.From_forAll (fun s x h => by
    split
    · exact State.putRing_From _ _ _ _ h
    · exact h) _ h4
  have h6 : s6.From a := { h5 with insts := .filter _ h5.insts }
  have h7 : s7.From a := State.From_forAll (fun s x h => State.setInst_From _ _ _ h) _ h6
  have h8 : s8.From a := State.From_forAll (fun s x h => State.rset_From _ _ h) _ h7
  have h9 : s9.From a := State.From_forAll (fun s x h => State.setRed_From _ _ _ h) _ h8
  have h10 : s10.From a := State.From_forAll (fun s x h => State.setCor_From _ _ h) _ h9
  exact State.setBnd_From _ _ h10
@[simp] theorem State.ffRecord_From {a : State} (s : State) (far : List (Nat × Nat)) (kind b outcome phys spare logical : Nat) (hf : s.From a) :
    (State.ffRecord s far kind b outcome phys spare logical).From a := by
  unfold State.ffRecord; simp (maxDischargeDepth := 40) +contextual [*]
@[simp] theorem State.reloadShadow_From {a : State} (s : State) (k : Nat) (hf : s.From a) :
    (State.reloadShadow s k).From a := by
  unfold State.reloadShadow; simp (maxDischargeDepth := 40) +contextual [*]
@[simp] theorem State.markAbsent_From {a : State} (s : State) (n : Nat) (hf : s.From a) :
    (State.markAbsent s n).From a := { hf with coreMap := .set _ _ hf.coreMap }
@[simp] theorem State.serveCore_From {a : State} (s : State) (far : List (Nat × Nat)) (p cause k : Nat) (hf : s.From a) :
    (State.serveCore s far p cause k).From a := by
  unfold State.serveCore; (repeat' split) <;> simp (maxDischargeDepth := 40) +contextual [*]
@[simp] theorem State.serveSlice_From {a : State} (s : State) (far : List (Nat × Nat)) (p cause : Nat) (readable : Bool) (banks : BitVec 4) (k : Nat) (hf : s.From a) :
    (State.serveSlice s far p cause readable banks k).From a := by
  unfold State.serveSlice; (repeat' split) <;> simp (maxDischargeDepth := 40) +contextual [*]
@[simp] theorem State.linkOut_From {a : State} (s : State) (l st : Nat) (hf : s.From a) :
    (State.linkOut s l st).From a := by
  unfold State.linkOut; simp (maxDischargeDepth := 40) +contextual [*]
@[simp] theorem State.linkQuiesce_From {a : State} (s : State) (l : Nat) (hf : s.From a) :
    (State.linkQuiesce s l).From a := by
  unfold State.linkQuiesce; simp (maxDischargeDepth := 40) +contextual [*]
@[simp] theorem State.linkRetire_From {a : State} (s : State) (dev : Nat) (hf : s.From a) :
    (State.linkRetire s dev).From a := by
  unfold State.linkRetire; simp (maxDischargeDepth := 40) +contextual [*]
@[simp] theorem State.failSpent_From {a : State} (s : State) (hf : s.From a) :
    (State.failSpent s).From a := by
  unfold State.failSpent; simp (maxDischargeDepth := 40) +contextual [*]
@[simp] theorem State.takeNews_From {a : State} (s : State) (widths : List (Nat × Nat × Nat)) (freed : List Nat) (hf : s.From a) :
    (State.takeNews s widths freed).From a := by
  unfold State.takeNews; simp (maxDischargeDepth := 40) +contextual [*]
@[simp] theorem State.retireOthers_From {a : State} (s : State) (l : List Nat) (hf : s.From a) :
    (State.retireOthers s l).From a := by
  unfold State.retireOthers; simp (maxDischargeDepth := 40) +contextual [*]
@[simp] theorem State.quiesceRelease_From {a : State} (s : State) (gone retired : List Nat) (widths : List (Nat × Nat × Nat)) (asks : List (Nat × FarCirc)) (no : List (Nat × Nat)) (freed : List Nat) (snaps : List (Nat × Nat)) (hf : s.From a) :
    (State.quiesceRelease s gone retired widths asks no freed snaps).From a := by
  unfold State.quiesceRelease
  split
  · split
    · exact State.retireOthers_From _ _ hf
    · exact hf
  · extract_lets s0 q cores key slices s1 s2 absent oos stay s3 s4 s4b s5 s6 s7 s8 s10 k s11
    have h0 : s0.From a := State.failSpent_From _ hf
    have h1 : s1.From a := State.From_forAll (fun s x h => State.setPhys_From _ _ _ _ _ _ (State.fieldRecord_From _ _ h)) _ h0
    have h2 : s2.From a := State.From_forAll (fun s x h => State.setPhys_From _ _ _ _ _ _ (State.fieldRecord_From _ _ h)) _ h1
    have h3 : s3.From a := State.From_forAll (fun s x h => State.serveCore_From _ _ _ _ _ h) _ h2
    have h4 : s4.From a := State.From_forAll (fun s x h => by
      split
      · exact State.rsetBit_From _ _ _ _ (State.serveSlice_From _ _ _ _ _ _ _ h)
      · exact h) _ h3
    have h4b : s4b.From a := State.From_forAll (fun s x h => State.markAbsent_From _ _ h) _ h4
    have h5 : s5.From a := State.repairRows_From _ h4b
    clear_value s5
    have h6 : s6.From a := State.From_forAll (fun s x h => State.setBnd_From _ _ (by
      split
      · split
        · exact h
        · exact State.restoreSnap_From _ _ _ h
      · exact h)) _ h5
    have h7 : s7.From a := State.From_forAll (fun s x h => State.linkRetire_From _ _ h) _
      (State.From_forAll (fun s x h => State.linkQuiesce_From _ _ h) _ h6)
    clear_value s7
    have h8 : s8.From a := State.setPaths_From _ (State.takeNews_From _ _ _ h7)
    clear_value s8
    have h10 : s10.From a := State.From_forAll (fun s x h => State.admitFar_From _ _ h) _
      (State.From_forAll (fun s x h => State.admitCirc_From _ _ _ h) _ h8)
    clear_value s10
    have h11 : s11.From a := by
      simp only [s11, State.From_mk, Track.To_fold]
      exact h10
    exact State.lmapLoaded_From _ h11
@[simp] theorem State.linkDisable_From {a : State} (s : State) (l : Nat) (d : Bool) (hf : s.From a) :
    (State.linkDisable s l d).1.From a := by
  unfold State.linkDisable; simp (maxDischargeDepth := 40) +contextual [*]
theorem State.linkDisable_From' {a : State} (s : State) (l : Nat) (d : Bool) (hf : s.From a) {t0 : State} {y0 : Byte}
    (ht : State.linkDisable s l d = (t0, y0)) : t0.From a := by
  have h0 := State.linkDisable_From s l d hf; rw [ht] at h0; exact h0
@[simp] theorem State.linkTraining_From {a : State} (s : State) (l : Nat) (r : LinkResult) (hf : s.From a) :
    (State.linkTraining s l r).From a := by
  unfold State.linkTraining; simp (maxDischargeDepth := 40) +contextual [*]

end Sys2Proof.Machine
end

