-- ==== Sys2Proof/Laws/Reach/Governor.lean ====
section
/-! SUPPORT. Laws/Reach/Governor.lean: what each operation of Machine/Governor.lean can do to the tables (`From`). -/

namespace Sys2Proof.Machine

@[simp] theorem State.pgvFlag_From {a : State} (s : State) (bit source : Nat) (hf : s.From a) :
    (State.pgvFlag s bit source).From a := by
  unfold State.pgvFlag; simp (maxDischargeDepth := 40) +contextual [*]
@[simp] theorem State.pgvTake_From {a : State} (s : State) (hf : s.From a) :
    (State.pgvTake s).From a := by
  unfold State.pgvTake; simp (maxDischargeDepth := 40) +contextual [*]
@[simp] theorem State.countWaits_From {a : State} (s : State) (given : Nat) (hf : s.From a) :
    (State.countWaits s given).2.From a := by
  unfold State.countWaits; simp (maxDischargeDepth := 40) +contextual [*]
theorem State.countWaits_From' {a : State} (s : State) (given : Nat) (hf : s.From a) {t0 : State} {y0 : Nat}
    (ht : State.countWaits s given = (y0, t0)) : t0.From a := by
  have h0 := State.countWaits_From s given hf; rw [ht] at h0; exact h0
@[simp] theorem State.bubbles_From {a : State} (s : State) (hf : s.From a) :
    (State.bubbles s).2.From a := by
  unfold State.bubbles; simp (maxDischargeDepth := 40) +contextual [*]
theorem State.bubbles_From' {a : State} (s : State) (hf : s.From a) {t0 : State} {y0 : Nat}
    (ht : State.bubbles s = (y0, t0)) : t0.From a := by
  have h0 := State.bubbles_From s hf; rw [ht] at h0; exact h0
@[simp] theorem State.window'_From {a : State} (s : State) (given : List (List Nat)) (unreach : List Nat) (hf : s.From a) :
    (State.window' s given unreach).From a := by
  unfold State.window'
  extract_lets s0
  have h0 : s0.From a := State.pgvTake_From _ (State.setTb_From _ _ hf)
  split
  rename_i waited s1 he
  have h1 : s1.From a := State.countWaits_From' _ _ h0 he
  extract_lets counts g0 s1b est total s2 s3 x un now begun next parts g1 s4 s5
  have h1b : s1b.From a := h1
  have h2 : s2.From a := State.From_forAll (fun s x h => State.rset_From _ _ h) _ h1b
  have h3 : s3.From a := State.rset_From _ _ h2
  have h4 : s4.From a := by
    simp only [s4, State.From_mk, Track.To_fold]
    exact h3
  have h5 : s5.From a := by
    simp only [s5]
    split
    · exact State.pgvFlag_From _ _ _ (State.count_From _ _ _ h4)
    · exact h4
  have h6 := State.bubbles_From s5 h5
  revert h6
  clear_value s5
  rcases s5.bubbles with ⟨n, u⟩
  intro h6
  have h7 := State.longWrap_From u Reg.pgvBubLo n h6
  revert h7
  dsimp only
  rcases u.longWrap Reg.pgvBubLo n with ⟨v, w⟩
  intro h7
  dsimp only
  split
  · exact State.pgvFlag_From _ _ _ h7
  · exact h7
@[simp] theorem State.levelApply_From {a : State} (s : State) (hf : s.From a) :
    (State.levelApply s).From a := by
  unfold State.levelApply; simp (maxDischargeDepth := 40) +contextual [*]
@[simp] theorem State.roundFree_From {a : State} (s : State) (x : ℚ) (hf : s.From a) :
    (State.roundFree s x).2.From a := by
  unfold State.roundFree; simp only []; (repeat' (first | exact hf | (refine State.From_forAll ?_ _ ?_; intro s x h) | split)) <;> simp_all (maxDischargeDepth := 40) +contextual
theorem State.roundFree_From' {a : State} (s : State) (x : ℚ) (hf : s.From a) {t0 : State} {y0 : Nat}
    (ht : State.roundFree s x = (y0, t0)) : t0.From a := by
  have h0 := State.roundFree_From s x hf; rw [ht] at h0; exact h0
@[simp] theorem State.railRead_From {a0 : State} (s : State) (r : Nat) (v a : Option Nat) (hf : s.From a0) :
    (State.railRead s r v a).From a0 := by
  unfold State.railRead; (repeat' split) <;> simp (maxDischargeDepth := 40) +contextual [*]
@[simp] theorem State.pmbusRead_From {a : State} (s : State) (volts amps : List (Option Nat)) (hf : s.From a) :
    (State.pmbusRead s volts amps).From a := by
  unfold State.pmbusRead; simp (maxDischargeDepth := 40) +contextual [*]
@[simp] theorem State.railGain_From {a : State} (s : State) (r : Nat) (hf : s.From a) :
    (State.railGain s r).From a := by
  unfold State.railGain; simp (maxDischargeDepth := 40) +contextual [*]
@[simp] theorem State.gainUpdate_From {a : State} (s : State) (hf : s.From a) :
    (State.gainUpdate s).From a := by
  unfold State.gainUpdate; simp (maxDischargeDepth := 40) +contextual [*]
@[simp] theorem State.pmbAlert_From {a : State} (s : State) (words : List (BitVec 16)) (hf : s.From a) :
    (State.pmbAlert s words).From a := by
  unfold State.pmbAlert; simp (maxDischargeDepth := 40) +contextual [*]
@[simp] theorem State.overcapCheck_From {a : State} (s : State) (hf : s.From a) :
    (State.overcapCheck s).From a := by
  unfold State.overcapCheck; simp (maxDischargeDepth := 40) +contextual [*]
@[simp] theorem State.sensorSample_From {a : State} (s : State) (temps hbms : List (BitVec 8)) (hf : s.From a) :
    (State.sensorSample s temps hbms).From a := by
  unfold State.sensorSample; simp (maxDischargeDepth := 40) +contextual [*]
@[simp] theorem State.govx_From {a : State} (s : State) (hf : s.From a) :
    (State.govx s).From a := by
  unfold State.govx; simp (maxDischargeDepth := 40) +contextual [*]
@[simp] theorem State.thermalCap_From {a : State} (s : State) (hf : s.From a) :
    (State.thermalCap s).From a := by
  unfold State.thermalCap; simp (maxDischargeDepth := 40) +contextual [*]
@[simp] theorem State.thermtrip_From {a : State} (s : State) (sensor : Nat) (hf : s.From a) :
    (State.thermtrip s sensor).From a := by
  unfold State.thermtrip; simp (maxDischargeDepth := 40) +contextual [*]

end Sys2Proof.Machine
end

