-- ==== Sys2Proof/Laws/Reach/Power.lean ====
section
/-! SUPPORT. Laws/Reach/Power.lean: what each operation of Machine/Power.lean can do to the tables (`From`). -/

namespace Sys2Proof.Machine

@[simp] theorem State.logicReset_From {a : State} (s : State) (p : Power) (hf : s.From a) :
    (State.logicReset s p).From a := by
  unfold State.logicReset
  exact State.From_cleared hf rfl rfl (.filter _ .refl) (.filter _ .refl) (.filter _ .refl) .refl rfl
@[simp] theorem State.gradeCap_From {a : State} (s : State) (hf : s.From a) :
    (State.gradeCap s).From a := by
  unfold State.gradeCap; simp (maxDischargeDepth := 40) +contextual [*]
@[simp] theorem State.resetRelease_From {a : State} (s : State) (hf : s.From a) :
    (State.resetRelease s).From a := by
  unfold State.resetRelease; simp (maxDischargeDepth := 40) +contextual [*]
@[simp] theorem State.pwrEn_From {a : State} (s : State) (n : Nat) (b : Bool) (hf : s.From a) :
    (State.pwrEn s n b).From a := by
  unfold State.pwrEn; simp (maxDischargeDepth := 40) +contextual [*]
@[simp] theorem State.nextRail_From {a : State} (s : State) (hf : s.From a) :
    (State.nextRail s).From a := by
  unfold State.nextRail; simp only []; (repeat' (first | exact hf | (refine State.From_forAll ?_ _ ?_; intro s x h) | split)) <;> simp_all (maxDischargeDepth := 40) +contextual
@[simp] theorem State.pgRise_From {a : State} (s : State) (n : Nat) (hf : s.From a) :
    (State.pgRise s n).From a := by
  unfold State.pgRise; simp (maxDischargeDepth := 40) +contextual [*]
@[simp] theorem State.ldoLow_From {a : State} (s : State) (b : Bool) (hf : s.From a) :
    (State.ldoLow s b).From a := by
  unfold State.ldoLow; simp (maxDischargeDepth := 40) +contextual [*]
@[simp] theorem State.restoreBegins_From {a : State} (s : State) (hf : s.From a) :
    (State.restoreBegins s).From a := by
  unfold State.restoreBegins; simp (maxDischargeDepth := 40) +contextual [*]
@[simp] theorem State.sleepEntered_From {a : State} (s : State) (hf : s.From a) :
    (State.sleepEntered s).From a := by
  unfold State.sleepEntered; simp (maxDischargeDepth := 40) +contextual [*]
@[simp] theorem State.pgFall_From {a : State} (s : State) (n : Nat) (hf : s.From a) :
    (State.pgFall s n).From a := by
  unfold State.pgFall; simp (maxDischargeDepth := 40) +contextual [*]
@[simp] theorem State.pgTimeout_From {a : State} (s : State) (n : Nat) (hf : s.From a) :
    (State.pgTimeout s n).From a := by
  unfold State.pgTimeout; simp (maxDischargeDepth := 40) +contextual [*]
@[simp] theorem State.dozeEntered_From {a : State} (s : State) (hf : s.From a) :
    (State.dozeEntered s).From a := by
  unfold State.dozeEntered; simp (maxDischargeDepth := 40) +contextual [*]
@[simp] theorem State.clockGate_From {a : State} (s : State) (p : Nat) (hf : s.From a) :
    (State.clockGate s p).From a := by
  unfold State.clockGate; simp (maxDischargeDepth := 40) +contextual [*]
@[simp] theorem State.clockUngate_From {a : State} (s : State) (p : Nat) (hf : s.From a) :
    (State.clockUngate s p).From a := by
  unfold State.clockUngate; simp (maxDischargeDepth := 40) +contextual [*]
@[simp] theorem State.psRefuse_From {a : State} (s : State) (hf : s.From a) :
    (State.psRefuse s).1.From a := by
  unfold State.psRefuse; simp (maxDischargeDepth := 40) +contextual [*]
theorem State.psRefuse_From' {a : State} (s : State) (hf : s.From a) {t0 : State} {y0 : Byte}
    (ht : State.psRefuse s = (t0, y0)) : t0.From a := by
  have h0 := State.psRefuse_From s hf; rw [ht] at h0; exact h0
@[simp] theorem State.fromDoze_From {a : State} (s : State) (hf : s.From a) :
    (State.fromDoze s).From a := by
  unfold State.fromDoze; simp only []; (repeat' (first | exact hf | (refine State.From_forAll ?_ _ ?_; intro s x h) | split)) <;> simp_all (maxDischargeDepth := 40) +contextual
@[simp] theorem State.dozeEnds_From {a : State} (s : State) (hf : s.From a) :
    (State.dozeEnds s).From a := by
  unfold State.dozeEnds; simp (maxDischargeDepth := 40) +contextual [*]
@[simp] theorem State.reqRun_From {a : State} (s : State) (hf : s.From a) :
    (State.reqRun s).1.From a := by
  unfold State.reqRun; simp (maxDischargeDepth := 40) +contextual [*]
theorem State.reqRun_From' {a : State} (s : State) (hf : s.From a) {t0 : State} {y0 : Byte}
    (ht : State.reqRun s = (t0, y0)) : t0.From a := by
  have h0 := State.reqRun_From s hf; rw [ht] at h0; exact h0
@[simp] theorem State.reqDoze_From {a : State} (s : State) (hf : s.From a) :
    (State.reqDoze s).1.From a := by
  unfold State.reqDoze; simp (maxDischargeDepth := 40) +contextual [*]
theorem State.reqDoze_From' {a : State} (s : State) (hf : s.From a) {t0 : State} {y0 : Byte}
    (ht : State.reqDoze s = (t0, y0)) : t0.From a := by
  have h0 := State.reqDoze_From s hf; rw [ht] at h0; exact h0
@[simp] theorem State.sleepEntry_From {a : State} (s : State) (hf : s.From a) :
    (State.sleepEntry s).From a := by
  unfold State.sleepEntry; simp (maxDischargeDepth := 40) +contextual [*]
@[simp] theorem State.reqSleep_From {a : State} (s : State) (othersAsleep : Bool) (hf : s.From a) :
    (State.reqSleep s othersAsleep).1.From a := by
  unfold State.reqSleep; simp (maxDischargeDepth := 40) +contextual [*]
theorem State.reqSleep_From' {a : State} (s : State) (othersAsleep : Bool) (hf : s.From a) {t0 : State} {y0 : Byte}
    (ht : State.reqSleep s othersAsleep = (t0, y0)) : t0.From a := by
  have h0 := State.reqSleep_From s othersAsleep hf; rw [ht] at h0; exact h0
@[simp] theorem State.dozeWake_From {a : State} (s : State) (kind : Nat) (hf : s.From a) :
    (State.dozeWake s kind).From a := by
  unfold State.dozeWake; simp (maxDischargeDepth := 40) +contextual [*]
@[simp] theorem State.wake_From {a : State} (s : State) (bit : Nat) (hf : s.From a) :
    (State.wake s bit).From a := by
  unfold State.wake; simp (maxDischargeDepth := 40) +contextual [*]
@[simp] theorem State.restore_From {a : State} (s : State) (hf : s.From a) :
    (State.restore s).From a := by
  unfold State.restore; simp (maxDischargeDepth := 40) +contextual [*]
@[simp] theorem State.energyWake_From {a : State} (s : State) (p : Nat) (hf : s.From a) :
    (State.energyWake s p).From a := by
  unfold State.energyWake; simp (maxDischargeDepth := 40) +contextual [*]
@[simp] theorem State.listen_From {a : State} (s : State) (p : BitVec 1) (hf : s.From a) :
    (State.listen s p).From a := by
  unfold State.listen; simp (maxDischargeDepth := 40) +contextual [*]
@[simp] theorem State.listenTimeout_From {a : State} (s : State) (p : BitVec 1) (hf : s.From a) :
    (State.listenTimeout s p).From a := by
  unfold State.listenTimeout; simp (maxDischargeDepth := 40) +contextual [*]
@[simp] theorem State.wakeMatch_From {a : State} (s : State) (p : BitVec 1) (mac : BitVec 48) (h : EthHead) (pattern : List Word) (hf : s.From a) :
    (State.wakeMatch s p mac h pattern).From a := by
  unfold State.wakeMatch; simp (maxDischargeDepth := 40) +contextual [*]
@[simp] theorem State.fabricWake_From {a : State} (s : State) (l : Nat) (pattern : Bool) (hf : s.From a) :
    (State.fabricWake s l pattern).From a := by
  unfold State.fabricWake; simp (maxDischargeDepth := 40) +contextual [*]
@[simp] theorem State.fwakeSend_From {a : State} (s : State) (mask : Nat) (hf : s.From a) :
    (State.fwakeSend s mask).1.From a := by
  unfold State.fwakeSend; simp (maxDischargeDepth := 40) +contextual [*]
theorem State.fwakeSend_From' {a : State} (s : State) (mask : Nat) (hf : s.From a) {t0 : State} {y0 : Byte}
    (ht : State.fwakeSend s mask = (t0, y0)) : t0.From a := by
  have h0 := State.fwakeSend_From s mask hf; rw [ht] at h0; exact h0
@[simp] theorem State.timerWake_From {a : State} (s : State) (hf : s.From a) :
    (State.timerWake s).From a := by
  unfold State.timerWake; simp (maxDischargeDepth := 40) +contextual [*]
@[simp] theorem State.wakeN_From {a : State} (s : State) (hf : s.From a) :
    (State.wakeN s).From a := by
  unfold State.wakeN; simp (maxDischargeDepth := 40) +contextual [*]
@[simp] theorem State.watchWake_From {a : State} (s : State) (k : Nat) (hf : s.From a) :
    (State.watchWake s k).From a := by
  unfold State.watchWake; simp (maxDischargeDepth := 40) +contextual [*]
@[simp] theorem State.brownOut_From {a : State} (s : State) (hf : s.From a) :
    (State.brownOut s).From a := by
  unfold State.brownOut
  split
  · exact hf
  · exact State.rsetField_From _ _ _ _ _ { hf with vals := .filter _ hf.vals, live := .filter _ hf.live }
@[simp] theorem State.coldState_From {a : State} (s : State) (p : Power) (on : List Nat) (hf : s.From a) :
    (State.coldState s p on).From a := by
  unfold State.coldState
  exact State.gradeCap_From _ (State.From_cleared hf rfl rfl (.none .refl) (.none .refl) (.none .refl) (.none .refl) rfl)
@[simp] theorem State.powerOn_From {a : State} (s : State) (hf : s.From a) :
    (State.powerOn s).From a := by
  unfold State.powerOn; simp (maxDischargeDepth := 40) +contextual [*]
@[simp] theorem State.coldRst_From {a : State} (s : State) (hf : s.From a) :
    (State.coldRst s).From a := by
  unfold State.coldRst; simp (maxDischargeDepth := 40) +contextual [*]
@[simp] theorem State.vddOff_From {a : State} (s : State) (hf : s.From a) :
    (State.vddOff s).From a := by
  unfold State.vddOff; simp (maxDischargeDepth := 40) +contextual [*]
@[simp] theorem State.warmRst_From {a : State} (s : State) (pgHigh : Bool) (hf : s.From a) :
    (State.warmRst s pgHigh).From a := by
  unfold State.warmRst; simp (maxDischargeDepth := 40) +contextual [*]

end Sys2Proof.Machine
end

