-- ==== Sys2Proof/Laws/Reach/Security.lean ====
section
/-! SUPPORT. Laws/Reach/Security.lean: what each operation of Machine/Security.lean can do to the tables (`From`). -/

namespace Sys2Proof.Machine

@[simp] theorem State.newNonce_From {a : State} (s : State) (hf : s.From a) :
    (State.newNonce s).From a := by
  unfold State.newNonce; simp (maxDischargeDepth := 40) +contextual [*]
@[simp] theorem State.captureNonce_From {a : State} (s : State) (hf : s.From a) :
    (State.captureNonce s).From a := by
  unfold State.captureNonce; simp (maxDischargeDepth := 40) +contextual [*]
@[simp] theorem State.tamper_From {a : State} (s : State) (cause : Nat) (hf : s.From a) :
    (State.tamper s cause).From a := by
  unfold State.tamper
  extract_lets f m x u
  have hu : u.From a := by
    refine { hf with sas := .none hf.sas, ident := ?_ }
    simp only [u, State.track]
    split <;> exact hf.ident
  clear_value u
  simp (maxDischargeDepth := 40) [hu, *]
@[simp] theorem State.tamperPin_From {a : State} (s : State) (hf : s.From a) :
    (State.tamperPin s).From a := by
  unfold State.tamperPin; simp (maxDischargeDepth := 40) +contextual [*]
@[simp] theorem State.secReply_From {a : State} (s : State) (smbus : Bool) (kind : Nat) (st : Byte) (body : List Byte) (hf : s.From a) :
    (State.secReply s smbus kind st body).From a := by
  unfold State.secReply; simp (maxDischargeDepth := 40) +contextual [*]
@[simp] theorem State.signedBy_From {a : State} (s : State) (key : Option (List Byte)) (kind : Nat) (body sig : List Byte) (nonce : List Word) (devid : Word64) (hf : s.From a) :
    (State.signedBy s key kind body sig nonce devid).1.From a := by
  unfold State.signedBy; (repeat' split) <;> simp (maxDischargeDepth := 40) +contextual [*]
theorem State.signedBy_From' {a : State} (s : State) (key : Option (List Byte)) (kind : Nat) (body sig : List Byte) (nonce : List Word) (devid : Word64) (hf : s.From a) {t0 : State} {y0 : Bool}
    (ht : State.signedBy s key kind body sig nonce devid = (t0, y0)) : t0.From a := by
  have h0 := State.signedBy_From s key kind body sig nonce devid hf; rw [ht] at h0; exact h0
@[simp] theorem State.attest_From {a : State} (s : State) (nonce : List Byte) (smbus : Bool) (hf : s.From a) :
    (State.attest s nonce smbus).From a := by
  unfold State.attest; simp (maxDischargeDepth := 40) +contextual [*]
@[simp] theorem State.certs_From {a : State} (s : State) (smbus : Bool) (hf : s.From a) :
    (State.certs s smbus).From a := by
  unfold State.certs; simp (maxDischargeDepth := 40) +contextual [*]
@[simp] theorem State.lifecycle_From {a : State} (s : State) (target : Nat) (nonce : List Word) (devid : Word64) (ownerKey : List Byte) (smbus : Bool) (sig : List Byte) (hf : s.From a) :
    (State.lifecycle s target nonce devid ownerKey smbus sig).From a := by
  unfold State.lifecycle
  extract_lets body busy enrol
  have h1 := State.signedBy_From s (s.lcSigner target ownerKey smbus) 2 body sig nonce devid hf
  revert h1
  rcases s.signedBy (s.lcSigner target ownerKey smbus) 2 body sig nonce devid with ⟨u, ok⟩
  intro h1
  show (if !ok || busy then u.secReply smbus 2 St.badOperand [] else _).From a
  split
  · exact State.secReply_From _ _ _ _ _ h1
  · have hf := State.secReply_From u smbus 2 St.ok [] h1
    refine State.rsetField_From _ _ _ _ _ (State.gradeCap_From _ (State.From_cleared hf rfl ?_ (.none .refl) (.none .refl) (.none .refl) (.none .refl) rfl))
    dsimp only
    (repeat' split) <;> rfl
@[simp] theorem State.debugReq_From {a : State} (s : State) (level : Nat) (nonce : List Word) (devid : Word64) (smbus : Bool) (sig : List Byte) (hf : s.From a) :
    (State.debugReq s level nonce devid smbus sig).From a := by
  unfold State.debugReq; simp (maxDischargeDepth := 40) +contextual [*]
@[simp] theorem State.sak_From {a : State} (s : State) (port dir : Nat) (an : BitVec 2) (ssci : Word) (ki wrapped pubkey : List Byte) (nonce : List Word) (devid : Word64) (smbus : Bool) (sig : List Byte) (hf : s.From a) :
    (State.sak s port dir an ssci ki wrapped pubkey nonce devid smbus sig).From a := by
  unfold State.sak
  extract_lets body salt info c shape key
  have h1 : (if c = 2 ∨ c = 3 then s.signedBy s.fuses.owner 4 body sig nonce devid else (s.newNonce, decide (c ≤ 1))).1.From a :=
    State.From_iteI (fun _ => State.signedBy_From _ _ _ _ _ _ _ hf) (fun _ => State.newNonce_From _ hf)
  revert h1
  rcases (if c = 2 ∨ c = 3 then s.signedBy s.fuses.owner 4 body sig nonce devid else (s.newNonce, decide (c ≤ 1))) with ⟨u, ok⟩
  intro h1
  dsimp only
  split
  · exact State.secReply_From _ _ _ _ _ h1
  · exact State.secReply_From _ _ _ _ _ { h1 with sas := .set _ _ h1.sas }

end Sys2Proof.Machine
end

