-- ==== Sys2Proof/Laws/Reach/Bringup.lean ====
section
/-! SUPPORT. Laws/Reach/Bringup.lean: what each operation of Machine/Bringup.lean can do to the tables (`From`). -/

namespace Sys2Proof.Machine

@[simp] theorem State.showUnit_From {a : State} (s : State) (slice : Bool) (test : List Nat) (map : List (Nat × Nat)) (p : Nat) (hf : s.From a) :
    (State.showUnit s slice test map p).From a := by
  unfold State.showUnit; (repeat' split) <;> simp (maxDischargeDepth := 40) +contextual [*]
@[simp] theorem State.layUnits_From {a : State} (s : State) (slice : Bool) (test : List Nat) (hf : s.From a) :
    (State.layUnits s slice test).From a := by
  unfold State.layUnits; simp only []; (repeat' (first | exact hf | (refine State.From_forAll ?_ _ ?_; intro s x h) | split)) <;> simp_all (maxDischargeDepth := 40) +contextual
@[simp] theorem State.reloadMap_From {a : State} (s : State) (hf : s.From a) :
    (State.reloadMap s).From a := by
  unfold State.reloadMap; simp (maxDischargeDepth := 40) +contextual [*]
@[simp] theorem State.notReady_From {a : State} (s : State) (cause : Nat) (hf : s.From a) :
    (State.notReady s cause).From a := by
  unfold State.notReady; simp (maxDischargeDepth := 40) +contextual [*]
@[simp] theorem State.bootStays_From {a : State} (s : State) (cause stage : Nat) (hf : s.From a) :
    (State.bootStays s cause stage).From a := by
  unfold State.bootStays; simp (maxDischargeDepth := 40) +contextual [*]
@[simp] theorem State.bootReject_From {a : State} (s : State) (stage : Nat) (hf : s.From a) :
    (State.bootReject s stage).From a := by
  unfold State.bootReject; simp (maxDischargeDepth := 40) +contextual [*]
@[simp] theorem State.booted_From {a : State} (s : State) (r : BringupReport) (hf : s.From a) :
    (State.booted s r).From a := by
  unfold State.booted
  exact State.enableAll_From _ (State.From_forAll (fun s x h => State.rset_From _ _ h) _ { hf with })
@[simp] theorem State.described_From {a : State} (s : State) (r : BringupReport) (hf : s.From a) :
    (State.described s r).From a := by
  unfold State.described; simp (maxDischargeDepth := 40) +contextual [*]
@[simp] theorem State.showLink_From {a : State} (s : State) (l w : Nat) (r : LinkResult) (hf : s.From a) :
    (State.showLink s l w r).From a := by
  unfold State.showLink; simp (maxDischargeDepth := 40) +contextual [*]
@[simp] theorem State.trainLinks_From {a : State} (s : State) (r : BringupReport) (hf : s.From a) :
    (State.trainLinks s r).From a := by
  unfold State.trainLinks; simp (maxDischargeDepth := 40) +contextual [*]
@[simp] theorem State.retrainLinks_From {a : State} (s : State) (r : BringupReport) (hf : s.From a) :
    (State.retrainLinks s r).From a := by
  unfold State.retrainLinks; simp (maxDischargeDepth := 40) +contextual [*]
@[simp] theorem State.checkLink_From {a : State} (s : State) (l : Nat) (e : BitVec 2 × BitVec 6 × BitVec 5) (hf : s.From a) :
    (State.checkLink s l e).From a := by
  unfold State.checkLink; simp (maxDischargeDepth := 40) +contextual [*]
@[simp] theorem State.joinSystem_From {a : State} (s : State) (r : BringupReport) (hf : s.From a) :
    (State.joinSystem s r).From a := by
  unfold State.joinSystem
  extract_lets me t s1 gate s2
  have h1 : s1.From a := { hf with coreMap := Edits.foldSet _ _ _ (.none hf.coreMap) }
  have h2 : s2.From a := State.rset_From _ _ h1
  exact State.setPaths_From _ (State.rsetBit_From _ _ _ _ h2)
@[simp] theorem State.openSpaces_From {a : State} (s : State) (dev cause : Nat) (hf : s.From a) :
    (State.openSpaces s dev cause).From a := by
  unfold State.openSpaces
  exact State.noticeOf_From _ _ _ _ { hf with spaces := .filter _ hf.spaces }
@[simp] theorem State.becomeReady_From {a : State} (s : State) (hf : s.From a) :
    (State.becomeReady s).From a := by
  unfold State.becomeReady
  extract_lets me s1 y1 e1 k1 l1 s2 s5 s6 s7
  have h1 : s1.From a := State.rsetField_From _ _ _ _ _ hf
  have h2 : s2.From a := { h1 with spaces := .none h1.spaces }
  have h5 : s5.From a := by
    simp only [s5]; split
    · exact State.From_forAll (fun s x h => State.openSpaces_From _ _ _ h) _ h2
    · exact h2
  have h6 : s6.From a := by
    simp only [s6]; split
    · exact State.raise_From _ _ h5
    · exact h5
  have h7 : s7.From a := by
    simp only [s7]; split
    · exact State.raise_From _ _ h6
    · exact h6
  exact h7
@[simp] theorem State.lastStages_From {a : State} (s : State) (r : BringupReport) (hf : s.From a) :
    (State.lastStages s r).From a := by
  unfold State.lastStages; simp (maxDischargeDepth := 40) +contextual [*]
@[simp] theorem State.release'_From {a : State} (s : State) (r : BringupReport) (hf : s.From a) :
    (State.release' s r).From a := by
  unfold State.release'; simp (maxDischargeDepth := 40) +contextual [*]
@[simp] theorem State.coldClears_From {a : State} (s : State) (hf : s.From a) :
    (State.coldClears s).From a := by
  unfold State.coldClears
  extract_lets u v
  have hv : v.From a := by simp (maxDischargeDepth := 40) [v, u, hf]
  exact { hv with shadow := .none hv.shadow }
@[simp] theorem State.stacksUp_From {a : State} (s : State) (hf : s.From a) :
    (State.stacksUp s).From a := by
  unfold State.stacksUp; simp (maxDischargeDepth := 40) +contextual [*]
@[simp] theorem State.maintEnds_From {a : State} (s : State) (hf : s.From a) :
    (State.maintEnds s).From a := by
  unfold State.maintEnds; simp (maxDischargeDepth := 40) +contextual [*]
@[simp] theorem State.ffevEnds_From {a : State} (s : State) (hf : s.From a) :
    (State.ffevEnds s).From a := by
  unfold State.ffevEnds; simp (maxDischargeDepth := 40) +contextual [*]
@[simp] theorem State.coldPath_From {a : State} (s : State) (r : BringupReport) (hf : s.From a) :
    (State.coldPath s r).From a := by
  unfold State.coldPath; simp (maxDischargeDepth := 40) +contextual [*]
@[simp] theorem State.fastPath_From {a : State} (s : State) (r : BringupReport) (hf : s.From a) :
    (State.fastPath s r).From a := by
  unfold State.fastPath; simp (maxDischargeDepth := 40) +contextual [*]
@[simp] theorem State.coldBringup_From {a : State} (s : State) (r : BringupReport) (hf : s.From a) :
    (State.coldBringup s r).From a := by
  unfold State.coldBringup; simp (maxDischargeDepth := 40) +contextual [*]
@[simp] theorem State.warmFastPath_From {a : State} (s : State) (r : BringupReport) (hf : s.From a) :
    (State.warmFastPath s r).From a := by
  unfold State.warmFastPath; simp (maxDischargeDepth := 40) +contextual [*]

end Sys2Proof.Machine
end

