-- ==== Sys2Proof/Laws/Reach/Registers.lean ====
section
/-! SUPPORT. Laws/Reach/Registers.lean: what each operation of Machine/Registers.lean can do to the tables (`From`). -/

namespace Sys2Proof.Machine

@[simp] theorem State.openClock_From {a0 : State} (s : State) (a : Nat) (hf : s.From a0) :
    (State.openClock s a).From a0 := by
  unfold State.openClock; simp (maxDischargeDepth := 40) +contextual [*]
@[simp] theorem State.captureHi_From {a0 : State} (s : State) (a : Nat) (hf : s.From a0) :
    (State.captureHi s a).From a0 := by
  unfold State.captureHi; (repeat' split) <;> simp (maxDischargeDepth := 40) +contextual [*]
@[simp] theorem State.regRead_From {a0 : State} (s : State) (a : Nat) (hf : s.From a0) :
    (State.regRead s a).1.From a0 := by
  unfold State.regRead; (repeat' split) <;> simp (maxDischargeDepth := 40) +contextual [*]
theorem State.regRead_From' {a0 : State} (s : State) (a : Nat) (hf : s.From a0) {t0 : State} {y0 : Word × Byte}
    (ht : State.regRead s a = (t0, y0)) : t0.From a0 := by
  have h0 := State.regRead_From s a hf; rw [ht] at h0; exact h0
@[simp] theorem State.plainWrite_From {a0 : State} (s : State) (r : RegRow) (a : Nat) (v : Word) (hf : s.From a0) :
    (State.plainWrite s r a v).1.From a0 := by
  unfold State.plainWrite; simp (maxDischargeDepth := 40) +contextual [*]
theorem State.plainWrite_From' {a0 : State} (s : State) (r : RegRow) (a : Nat) (v : Word) (hf : s.From a0) {t0 : State} {y0 : Byte}
    (ht : State.plainWrite s r a v = (t0, y0)) : t0.From a0 := by
  have h0 := State.plainWrite_From s r a v hf; rw [ht] at h0; exact h0
@[simp] theorem State.stepConfig_From {a : State} (s : State) (b which : Nat) (v : Word) (hf : s.From a) :
    (State.stepConfig s b which v).1.From a := by
  unfold State.stepConfig; simp (maxDischargeDepth := 40) +contextual [*]
theorem State.stepConfig_From' {a : State} (s : State) (b which : Nat) (v : Word) (hf : s.From a) {t0 : State} {y0 : Byte}
    (ht : State.stepConfig s b which v = (t0, y0)) : t0.From a := by
  have h0 := State.stepConfig_From s b which v hf; rw [ht] at h0; exact h0
@[simp] theorem State.actWrite_From {a : State} (s : State) (f : Nat) (lead : Bool) (v : Word) (hf : s.From a) :
    (State.actWrite s f lead v).1.From a := by
  unfold State.actWrite; simp (maxDischargeDepth := 40) +contextual [*]
theorem State.actWrite_From' {a : State} (s : State) (f : Nat) (lead : Bool) (v : Word) (hf : s.From a) {t0 : State} {y0 : Byte}
    (ht : State.actWrite s f lead v = (t0, y0)) : t0.From a := by
  have h0 := State.actWrite_From s f lead v hf; rw [ht] at h0; exact h0
@[simp] theorem State.portDown_From {a : State} (s : State) (p : Nat) (hf : s.From a) :
    (State.portDown s p).From a := by
  unfold State.portDown; simp (maxDischargeDepth := 40) +contextual [*]
@[simp] theorem State.portMode_From {a : State} (s : State) (p mode : Nat) (hf : s.From a) :
    (State.portMode s p mode).1.From a := by
  unfold State.portMode; simp (maxDischargeDepth := 40) +contextual [*]
theorem State.portMode_From' {a : State} (s : State) (p mode : Nat) (hf : s.From a) {t0 : State} {y0 : Byte}
    (ht : State.portMode s p mode = (t0, y0)) : t0.From a := by
  have h0 := State.portMode_From s p mode hf; rw [ht] at h0; exact h0
@[simp] theorem State.circWrite_From {a : State} (s : State) (c which : Nat) (v : Word) (hf : s.From a) :
    (State.circWrite s c which v).1.From a := by
  unfold State.circWrite; simp (maxDischargeDepth := 40) +contextual [*]
theorem State.circWrite_From' {a : State} (s : State) (c which : Nat) (v : Word) (hf : s.From a) {t0 : State} {y0 : Byte}
    (ht : State.circWrite s c which v = (t0, y0)) : t0.From a := by
  have h0 := State.circWrite_From s c which v hf; rw [ht] at h0; exact h0
@[simp] theorem State.queueCtrl_From {a : State} (s : State) (q : Nat) (v : Word) (hf : s.From a) :
    (State.queueCtrl s q v).1.From a := by
  unfold State.queueCtrl; simp (maxDischargeDepth := 40) +contextual [*]
theorem State.queueCtrl_From' {a : State} (s : State) (q : Nat) (v : Word) (hf : s.From a) {t0 : State} {y0 : Byte}
    (ht : State.queueCtrl s q v = (t0, y0)) : t0.From a := by
  have h0 := State.queueCtrl_From s q v hf; rw [ht] at h0; exact h0
@[simp] theorem State.timerReg_From {a0 : State} (s : State) (a : Nat) (v : Word) (r : RegRow) (hf : s.From a0) :
    (State.timerReg s a v r).1.From a0 := by
  unfold State.timerReg; simp (maxDischargeDepth := 40) +contextual [*]
theorem State.timerReg_From' {a0 : State} (s : State) (a : Nat) (v : Word) (r : RegRow) (hf : s.From a0) {t0 : State} {y0 : Byte}
    (ht : State.timerReg s a v r = (t0, y0)) : t0.From a0 := by
  have h0 := State.timerReg_From s a v r hf; rw [ht] at h0; exact h0
@[simp] theorem State.psctrl_From {a : State} (s : State) (v : Word) (hf : s.From a) :
    (State.psctrl s v).1.From a := by
  unfold State.psctrl; simp (maxDischargeDepth := 40) +contextual [*]
theorem State.psctrl_From' {a : State} (s : State) (v : Word) (hf : s.From a) {t0 : State} {y0 : Byte}
    (ht : State.psctrl s v = (t0, y0)) : t0.From a := by
  have h0 := State.psctrl_From s v hf; rw [ht] at h0; exact h0
@[simp] theorem State.ethWrite_From {a0 : State} (s : State) (r : RegRow) (a : Nat) (v : Word) (hf : s.From a0) :
    (State.ethWrite s r a v).1.From a0 := by
  unfold State.ethWrite; simp (maxDischargeDepth := 40) +contextual [*]
theorem State.ethWrite_From' {a0 : State} (s : State) (r : RegRow) (a : Nat) (v : Word) (hf : s.From a0) {t0 : State} {y0 : Byte}
    (ht : State.ethWrite s r a v = (t0, y0)) : t0.From a0 := by
  have h0 := State.ethWrite_From s r a v hf; rw [ht] at h0; exact h0
@[simp] theorem State.ptbWrite_From {a0 : State} (s : State) (r : RegRow) (a : Nat) (v : Word) (hf : s.From a0) :
    (State.ptbWrite s r a v).1.From a0 := by
  unfold State.ptbWrite; simp (maxDischargeDepth := 40) +contextual [*]
theorem State.ptbWrite_From' {a0 : State} (s : State) (r : RegRow) (a : Nat) (v : Word) (hf : s.From a0) {t0 : State} {y0 : Byte}
    (ht : State.ptbWrite s r a v = (t0, y0)) : t0.From a0 := by
  have h0 := State.ptbWrite_From s r a v hf; rw [ht] at h0; exact h0
@[simp] theorem State.pgvCtrlWrite_From {a : State} (s : State) (r : RegRow) (v : Word) (hf : s.From a) :
    (State.pgvCtrlWrite s r v).1.From a := by
  unfold State.pgvCtrlWrite; simp (maxDischargeDepth := 40) +contextual [*]
theorem State.pgvCtrlWrite_From' {a : State} (s : State) (r : RegRow) (v : Word) (hf : s.From a) {t0 : State} {y0 : Byte}
    (ht : State.pgvCtrlWrite s r v = (t0, y0)) : t0.From a := by
  have h0 := State.pgvCtrlWrite_From s r v hf; rw [ht] at h0; exact h0
@[simp] theorem State.writeRest_From {a0 : State} (s : State) (r : RegRow) (a : Nat) (v : Word) (hf : s.From a0) :
    (State.writeRest s r a v).1.From a0 := by
  unfold State.writeRest
  repeat' (with_reducible refine State.From_iteI (fun _ => ?_) (fun _ => ?_))
  all_goals first
    | exact hf
    | (with_reducible simp (maxDischargeDepth := 40) +contextual [hf])
theorem State.writeRest_From' {a0 : State} (s : State) (r : RegRow) (a : Nat) (v : Word) (hf : s.From a0) {t0 : State} {y0 : Byte}
    (ht : State.writeRest s r a v = (t0, y0)) : t0.From a0 := by
  have h0 := State.writeRest_From s r a v hf; rw [ht] at h0; exact h0
@[simp] theorem State.writeUnits_From {a0 : State} (s : State) (r : RegRow) (a : Nat) (v : Word) (hf : s.From a0) :
    (State.writeUnits s r a v).1.From a0 := by
  unfold State.writeUnits
  repeat' (with_reducible refine State.From_iteI (fun _ => ?_) (fun _ => ?_))
  all_goals first
    | exact hf
    | (with_reducible simp (maxDischargeDepth := 40) +contextual [hf])
theorem State.writeUnits_From' {a0 : State} (s : State) (r : RegRow) (a : Nat) (v : Word) (hf : s.From a0) {t0 : State} {y0 : Byte}
    (ht : State.writeUnits s r a v = (t0, y0)) : t0.From a0 := by
  have h0 := State.writeUnits_From s r a v hf; rw [ht] at h0; exact h0
@[simp] theorem State.writeEffect_From {a0 : State} (s : State) (r : RegRow) (a : Nat) (v : Word) (hf : s.From a0) :
    (State.writeEffect s r a v).1.From a0 := by
  unfold State.writeEffect
  repeat' (with_reducible refine State.From_iteI (fun _ => ?_) (fun _ => ?_))
  all_goals first
    | exact hf
    | (with_reducible simp (maxDischargeDepth := 40) +contextual [hf])
theorem State.writeEffect_From' {a0 : State} (s : State) (r : RegRow) (a : Nat) (v : Word) (hf : s.From a0) {t0 : State} {y0 : Byte}
    (ht : State.writeEffect s r a v = (t0, y0)) : t0.From a0 := by
  have h0 := State.writeEffect_From s r a v hf; rw [ht] at h0; exact h0
@[simp] theorem State.regWrite_From {a0 : State} (s : State) (a : Nat) (v : Word) (hf : s.From a0) :
    (State.regWrite s a v).1.From a0 := by
  unfold State.regWrite; (repeat' split) <;> simp (maxDischargeDepth := 40) +contextual [*]
theorem State.regWrite_From' {a0 : State} (s : State) (a : Nat) (v : Word) (hf : s.From a0) {t0 : State} {y0 : Byte}
    (ht : State.regWrite s a v = (t0, y0)) : t0.From a0 := by
  have h0 := State.regWrite_From s a v hf; rw [ht] at h0; exact h0
@[simp] theorem State.readAll_From {a : State} (s : State) (l : List Word) (hf : s.From a) : (s.readAll l).1.From a := by
  induction l generalizing s with
  | nil => exact hf
  | cons x r ih => exact ih _ (State.regRead_From _ _ hf)
@[simp] theorem State.writeAll_From {a : State} (s : State) (l : List (Word × Word)) (hf : s.From a) : (s.writeAll l).1.From a := by
  induction l generalizing s with
  | nil => exact hf
  | cons x r ih => exact ih _ (State.regWrite_From _ _ _ hf)
@[simp] theorem State.regrd_From {a : State} (s : State) (l : List Word) (hf : s.From a) :
    (State.regrd s l).From a := by
  unfold State.regrd; simp (maxDischargeDepth := 40) +contextual [*]
@[simp] theorem State.regwr_From {a : State} (s : State) (l : List (Word × Word)) (hf : s.From a) :
    (State.regwr s l).From a := by
  unfold State.regwr; simp (maxDischargeDepth := 40) +contextual [*]
@[simp] theorem State.loRead_From {a0 : State} (s : State) (a : Word) (hf : s.From a0) :
    (State.loRead s a).From a0 := by
  unfold State.loRead; simp (maxDischargeDepth := 40) +contextual [*]
@[simp] theorem State.readClear_From {a0 : State} (s : State) (a : Word) (hf : s.From a0) :
    (State.readClear s a).From a0 := by
  unfold State.readClear; simp (maxDischargeDepth := 40) +contextual [*]

end Sys2Proof.Machine
end

