-- ==== Sys2Proof/Laws/Reach/Wire.lean ====
section
/-! SUPPORT. Laws/Reach/Wire.lean: what each operation of Machine/Wire.lean can do to the tables (`From`). -/

namespace Sys2Proof.Machine



end Sys2Proof.Machine
end

