-- ==== Sys2Proof/Laws/Reach/Transport.lean ====
section
/-! SUPPORT. Laws/Reach/Transport.lean: what each operation of Machine/Transport.lean can do to the tables (`From`). -/

namespace Sys2Proof.Machine

@[simp] theorem State.badHdr_From {a : State} (s : State) (hf : s.From a) :
    (State.badHdr s).From a := by
  unfold State.badHdr; simp (maxDischargeDepth := 40) +contextual [*]
@[simp] theorem State.endsAtPort_From {a : State} (s : State) (p : Nat) (h : EthHead) (as : Bool) (hf : s.From a) :
    State.OptFrom (State.endsAtPort s p h as) a := by
  unfold State.endsAtPort; simp (maxDischargeDepth := 40) +contextual [*]
@[simp] theorem State.ackUpTo_From {a : State} (s : State) (k : Nat) (ack : Word) (hf : s.From a) :
    (State.ackUpTo s k ack).From a := by
  unfold State.ackUpTo; simp (maxDischargeDepth := 40) +contextual [*]
@[simp] theorem State.resend_From {a : State} (s : State) (k : Nat) (seq : Word) (hf : s.From a) :
    (State.resend s k seq).From a := by
  unfold State.resend; simp only []; (repeat' (first | exact hf | (refine State.From_forAll ?_ _ ?_; intro s x h) | split)) <;> simp_all (maxDischargeDepth := 40) +contextual
@[simp] theorem State.sendAck_From {a : State} (s : State) (k : Nat) (hf : s.From a) :
    (State.sendAck s k).From a := by
  unfold State.sendAck; simp (maxDischargeDepth := 40) +contextual [*]
@[simp] theorem State.ackFrame_From {a : State} (s : State) (k : Nat) (ack : Word) (missing : List Nat) (hf : s.From a) :
    (State.ackFrame s k ack missing).From a := by
  unfold State.ackFrame; simp (maxDischargeDepth := 40) +contextual [*]
@[simp] theorem State.undelivered_From {a : State} (s : State) (dev stream sp : Nat) (seq : Word) (hf : s.From a) :
    (State.undelivered s dev stream sp seq).From a := by
  unfold State.undelivered; simp (maxDischargeDepth := 40) +contextual [*]
@[simp] theorem State.frameOut_From {a : State} (n : Nat) (s : State) (f : TFrame) (l : List Word) (hf : s.From a) :
    (State.frameOut n s f l).From a := by
  induction n generalizing s l with
  | zero => exact hf
  | succ n ih =>
    simp only [State.frameOut]
    split
    · simp (maxDischargeDepth := 40) [hf]
    · exact ih _ _ (by simp (maxDischargeDepth := 40) [hf])
@[simp] theorem State.frameForward_From {a : State} (s : State) (f : TFrame) (hf : s.From a) :
    (State.frameForward s f).From a := by
  unfold State.frameForward; simp (maxDischargeDepth := 40) +contextual [*]
@[simp] theorem State.cmdWords_From {a : State} (s : State) (stream : BitVec 8) (ws : List Word64) (hf : s.From a) :
    (State.cmdWords s stream ws).From a := by
  unfold State.cmdWords; simp (maxDischargeDepth := 40) +contextual [*]
@[simp] theorem State.placeData_From {a : State} (s : State) (stream : BitVec 8) (tag off : Word) (l : List Byte) (hf : s.From a) :
    (State.placeData s stream tag off l).From a := by
  unfold State.placeData; simp (maxDischargeDepth := 40) +contextual [*]
@[simp] theorem State.deliver_From {a : State} (s : State) (k : Nat) (f : TFrame) (hf : s.From a) :
    (State.deliver s k f).From a := by
  unfold State.deliver; simp (maxDischargeDepth := 40) +contextual [*]
@[simp] theorem State.deliverAll_From {a : State} (n : Nat) (s : State) (k : Nat) (hf : s.From a) : (State.deliverAll n s k).From a := by
  induction n generalizing s with
  | zero => exact hf
  | succ n ih =>
    simp only [State.deliverAll]
    split
    · exact hf
    · exact ih _ (by simp (maxDischargeDepth := 40) [hf])
@[simp] theorem State.hostKnown_From {a : State} (s : State) (host : HostTo) (hf : s.From a) :
    (State.hostKnown s host).From a := by
  unfold State.hostKnown; simp (maxDischargeDepth := 40) +contextual [*]
@[simp] theorem State.sequenced_From {a : State} (s : State) (k : Nat) (f : TFrame) (hf : s.From a) :
    (State.sequenced s k f).From a := by
  unfold State.sequenced; simp only []; (repeat' (first | exact hf | (refine State.From_forAll ?_ _ ?_; intro s x h) | split)) <;> simp_all (maxDischargeDepth := 40) +contextual
@[simp] theorem State.frameReceive_From {a : State} (s : State) (f : TFrame) (hf : s.From a) :
    (State.frameReceive s f).From a := by
  unfold State.frameReceive
  extract_lets p sp k s1
  have h1 : s1.From a := by
    simp only [s1]; split
    · exact State.ackUpTo_From _ _ _ hf
    · exact hf
  clear_value s1 k sp p
  split
  · rename_i t he
    exact State.endsAtPort_From _ _ _ _ hf t he
  · by_cases c1 : s.frameRoom p < f.payload.length
    · rw [if_pos c1]; exact hf
    · rw [if_neg c1]
      by_cases c2 : (!frameOk f) = true
      · rw [if_pos c2]; exact State.badHdr_From _ hf
      · rw [if_neg c2]
        by_cases c3 : f.space = 2
        · rw [if_pos c3]; split
          · exact State.badHdr_From _ hf
          · exact hf
        · rw [if_neg c3]; split
          · exact State.badHdr_From _ hf
          · split
            · exact State.ackFrame_From _ _ _ _ h1
            · exact State.sequenced_From _ _ _ h1
@[simp] theorem State.cmdFrame_From {a : State} (s : State) (stream : BitVec 8) (bytes : Nat) (ws : List Word64) (hf : s.From a) :
    (State.cmdFrame s stream bytes ws).From a := by
  unfold State.cmdFrame; simp (maxDischargeDepth := 40) +contextual [*]
@[simp] theorem State.dataFrame_From {a : State} (s : State) (stream : BitVec 8) (expected : Bool) (tag off : Word) (l : List Byte) (hf : s.From a) :
    (State.dataFrame s stream expected tag off l).From a := by
  unfold State.dataFrame; simp (maxDischargeDepth := 40) +contextual [*]
@[simp] theorem State.ackTimer_From {a : State} (s : State) (sp dev stream : Nat) (hf : s.From a) :
    (State.ackTimer s sp dev stream).From a := by
  unfold State.ackTimer; simp (maxDischargeDepth := 40) +contextual [*]
@[simp] theorem State.flushCpls_From {a : State} (n : Nat) (s : State) (m : BitVec 8) (hf : s.From a) :
    (State.flushCpls n s m).From a := by
  induction n generalizing s with
  | zero => exact hf
  | succ n ih =>
    simp only [State.flushCpls]
    split
    · exact hf
    · exact ih _ (by simp (maxDischargeDepth := 40) [hf])
@[simp] theorem State.completionFlush_From {a : State} (s : State) (stream : BitVec 8) (hf : s.From a) :
    (State.completionFlush s stream).From a := by
  unfold State.completionFlush; simp (maxDischargeDepth := 40) +contextual [*]
@[simp] theorem State.transportLost_From {a : State} (s : State) (dev : Nat) (l : List (Nat × Nat × Word)) (hf : s.From a) :
    (State.transportLost s dev l).From a := by
  unfold State.transportLost
  split
  · exact hf
  · have h1 := State.From_forAll (f := fun s (u : Nat × Nat × Word) => s.undelivered dev u.2.1 u.1 u.2.2)
      (fun s x h => State.undelivered_From _ _ _ _ _ h) l hf
    exact { h1 with spaces := .filter _ h1.spaces }
@[simp] theorem State.restartDev_From {a : State} (s : State) (dev : Nat) (hf : s.From a) :
    (State.restartDev s dev).From a := by
  unfold State.restartDev; simp (maxDischargeDepth := 40) +contextual [*]
@[simp] theorem State.gateMoved_From {a : State} (s : State) (d : BitVec 6) (hf : s.From a) :
    (State.gateMoved s d).From a := by
  unfold State.gateMoved; simp (maxDischargeDepth := 40) +contextual [*]
@[simp] theorem State.gateTakeover_From {a : State} (s : State) (hf : s.From a) :
    (State.gateTakeover s).From a := by
  unfold State.gateTakeover; (repeat' split) <;> simp (maxDischargeDepth := 40) +contextual [*]
@[simp] theorem State.lose_From {a : State} (s : State) (dev : Nat) (cause : BitVec 2) (hf : s.From a) :
    (State.lose s dev cause).From a := by
  unfold State.lose; simp (maxDischargeDepth := 40) +contextual [*]
@[simp] theorem State.obsRecover_From {a : State} (s : State) (p : Nat) (h : EthHead) (hf : s.From a) :
    (State.obsRecover s p h).1.From a := by
  unfold State.obsRecover; simp only []; (repeat' (first | exact hf | (refine State.From_forAll ?_ _ ?_; intro s x h) | split)) <;> simp_all (maxDischargeDepth := 40) +contextual
theorem State.obsRecover_From' {a : State} (s : State) (p : Nat) (h : EthHead) (hf : s.From a) {t0 : State} {y0 : Bool}
    (ht : State.obsRecover s p h = (t0, y0)) : t0.From a := by
  have h0 := State.obsRecover_From s p h hf; rw [ht] at h0; exact h0
@[simp] theorem State.obsFrame_From {a : State} (s : State) (p : Nat) (h : EthHead) (dev : Nat) (recs : List ObsRec) (hf : s.From a) :
    (State.obsFrame s p h dev recs).From a := by
  unfold State.obsFrame; (try dsimp only); repeat' (first | exact hf | assumption | split | with_reducible apply State.obsRecs_From | with_reducible apply State.badHdr_From | with_reducible apply State.endsAtPort_From | with_reducible apply State.obsRecover_From | (with_reducible apply State.From_forAll; intros) | (with_reducible apply State.From_fold; intros) | (with_reducible apply State.From_fold1; intros) | refine State.obsRecs_From' _ ?_ (by assumption) | refine State.endsAtPort_From _ _ _ _ ?_ _ (by assumption) | refine State.obsRecover_From' _ _ _ ?_ (by assumption) | simp only [State.OptFrom_none, State.OptFrom_some] | with_reducible apply State.getD_From | simp only [State.From_mk, Track.To_fold])
@[simp] theorem State.wakeFrame_From {a : State} (s : State) (p : BitVec 1) (mac : BitVec 48) (h : EthHead) (pattern : List Word) (hf : s.From a) :
    (State.wakeFrame s p mac h pattern).From a := by
  unfold State.wakeFrame; (try dsimp only); repeat' (first | exact hf | assumption | split | with_reducible apply State.wakeMatch_From | with_reducible apply State.badHdr_From | with_reducible apply State.endsAtPort_From | (with_reducible apply State.From_forAll; intros) | (with_reducible apply State.From_fold; intros) | (with_reducible apply State.From_fold1; intros) | refine State.endsAtPort_From _ _ _ _ ?_ _ (by assumption) | simp only [State.OptFrom_none, State.OptFrom_some] | with_reducible apply State.getD_From | simp only [State.From_mk, Track.To_fold])
@[simp] theorem State.otherFrame_From {a : State} (s : State) (p : Nat) (h : EthHead) (as : Bool) (hf : s.From a) :
    (State.otherFrame s p h as).From a := by
  unfold State.otherFrame; simp (maxDischargeDepth := 40) +contextual [*]
@[simp] theorem State.actOut_From {a : State} (s : State) (f p : Nat) (seq : Word) (tag : Option (BitVec 16)) (l : List Byte) (hf : s.From a) :
    (State.actOut s f p seq tag l).From a := by
  unfold State.actOut; simp (maxDischargeDepth := 40) +contextual [*]
@[simp] theorem State.actTransmit_From {a : State} (s : State) (f : Nat) (hf : s.From a) :
    (State.actTransmit s f).From a := by
  unfold State.actTransmit; simp only []; (repeat' (first | exact hf | (refine State.From_forAll ?_ _ ?_; intro s x h) | split)) <;> simp_all (maxDischargeDepth := 40) +contextual
@[simp] theorem State.portUp_From {a : State} (s : State) (p mode : Nat) (hf : s.From a) :
    (State.portUp s p mode).From a := by
  unfold State.portUp; simp (maxDischargeDepth := 40) +contextual [*]
@[simp] theorem State.gclStart_From {a : State} (s : State) (p : Nat) (hf : s.From a) :
    (State.gclStart s p).From a := by
  unfold State.gclStart; simp (maxDischargeDepth := 40) +contextual [*]
@[simp] theorem State.clockLoss_From {a : State} (s : State) (c : Nat) (hf : s.From a) :
    (State.clockLoss s c).From a := by
  unfold State.clockLoss; simp (maxDischargeDepth := 40) +contextual [*]

end Sys2Proof.Machine
end

