-- ==== Sys2Proof/Laws/Reach/Tick.lean ====
section
/-! SUPPORT. Laws/Reach/Tick.lean: what each operation of Machine/Tick.lean can do to the tables (`From`). -/

namespace Sys2Proof.Machine

@[simp] theorem State.tick_From {a : State} (s : State) (hf : s.From a) :
    (State.tick s).From a := by
  unfold State.tick; simp (maxDischargeDepth := 40) +contextual [*]

end Sys2Proof.Machine
end

