-- ==== Sys2Proof/Laws/State.lean ====
section
/-! SUPPORT. Laws/State.lean: what each update of the state changes, field by field, and what the accessors read after it. Every
named update of Machine/Ops.lean changes one unit; the lemmas say so, so that no later proof unfolds a record update. -/

namespace Sys2Proof.Machine

/-! ## Fields an update leaves -/

@[simp] theorem State.setCtx_pending (s : State) (c : Nat) (x : Ctx) : (s.setCtx c x).pending = s.pending := rfl
@[simp] theorem State.setCtx_fuses (s : State) (c : Nat) (x : Ctx) : (s.setCtx c x).fuses = s.fuses := rfl
@[simp] theorem State.setCtx_reg (s : State) (c : Nat) (x : Ctx) : (s.setCtx c x).reg = s.reg := rfl
@[simp] theorem State.setCtx_mem (s : State) (c : Nat) (x : Ctx) : (s.setCtx c x).mem = s.mem := rfl
@[simp] theorem State.setCtx_core (s : State) (c : Nat) (x : Ctx) : (s.setCtx c x).core = s.core := rfl
@[simp] theorem State.setCtx_rtr (s : State) (c : Nat) (x : Ctx) : (s.setCtx c x).rtr = s.rtr := rfl
@[simp] theorem State.setCtx_sys (s : State) (c : Nat) (x : Ctx) : (s.setCtx c x).sys = s.sys := rfl
@[simp] theorem State.setCtx_cnv (s : State) (c : Nat) (x : Ctx) : (s.setCtx c x).cnv = s.cnv := rfl
@[simp] theorem State.setCtx_syn (s : State) (c : Nat) (x : Ctx) : (s.setCtx c x).syn = s.syn := rfl
@[simp] theorem State.setCtx_fab (s : State) (c : Nat) (x : Ctx) : (s.setCtx c x).fab = s.fab := rfl
@[simp] theorem State.setCtx_eth (s : State) (c : Nat) (x : Ctx) : (s.setCtx c x).eth = s.eth := rfl
@[simp] theorem State.setCtx_gov (s : State) (c : Nat) (x : Ctx) : (s.setCtx c x).gov = s.gov := rfl
@[simp] theorem State.setCtx_ltn (s : State) (c : Nat) (x : Ctx) : (s.setCtx c x).ltn = s.ltn := rfl
@[simp] theorem State.setCtx_kpr (s : State) (c : Nat) (x : Ctx) : (s.setCtx c x).kpr = s.kpr := rfl
@[simp] theorem State.setCtx_irq (s : State) (c : Nat) (x : Ctx) : (s.setCtx c x).irq = s.irq := rfl
@[simp] theorem State.setCtx_tmr (s : State) (c : Nat) (x : Ctx) : (s.setCtx c x).tmr = s.tmr := rfl
@[simp] theorem State.setCtx_sec (s : State) (c : Nat) (x : Ctx) : (s.setCtx c x).sec = s.sec := rfl
@[simp] theorem State.setCtx_ptb (s : State) (c : Nat) (x : Ctx) : (s.setCtx c x).ptb = s.ptb := rfl
@[simp] theorem State.setCtx_dead (s : State) (c : Nat) (x : Ctx) : (s.setCtx c x).dead = s.dead := rfl
@[simp] theorem State.setCtx_out (s : State) (c : Nat) (x : Ctx) : (s.setCtx c x).out = s.out := rfl
@[simp] theorem State.setCtx_free (s : State) (c : Nat) (x : Ctx) : (s.setCtx c x).free = s.free := rfl
@[simp] theorem State.setCtx_cmd_bindings (s : State) (c : Nat) (x : Ctx) : (s.setCtx c x).cmd.bindings = s.cmd.bindings := rfl
@[simp] theorem State.setCtx_cmd_streams (s : State) (c : Nat) (x : Ctx) : (s.setCtx c x).cmd.streams = s.cmd.streams := rfl
@[simp] theorem State.setCtx_cmd_cpls (s : State) (c : Nat) (x : Ctx) : (s.setCtx c x).cmd.cpls = s.cmd.cpls := rfl
@[simp] theorem State.setCtx_cmd_banks (s : State) (c : Nat) (x : Ctx) : (s.setCtx c x).cmd.banks = s.cmd.banks := rfl
@[simp] theorem State.setCtx_cmd_windows (s : State) (c : Nat) (x : Ctx) : (s.setCtx c x).cmd.windows = s.cmd.windows := rfl
@[simp] theorem State.setCtx_cmd_turn (s : State) (c : Nat) (x : Ctx) : (s.setCtx c x).cmd.turn = s.cmd.turn := rfl
@[simp] theorem State.setCtx_cmd_issues (s : State) (c : Nat) (x : Ctx) : (s.setCtx c x).cmd.issues = s.cmd.issues := rfl
@[simp] theorem State.setCtx_cmd_far (s : State) (c : Nat) (x : Ctx) : (s.setCtx c x).cmd.far = s.cmd.far := rfl
@[simp] theorem State.setBnd_pending (s : State) (b : Nat) (x : Binding) : (s.setBnd b x).pending = s.pending := rfl
@[simp] theorem State.setBnd_fuses (s : State) (b : Nat) (x : Binding) : (s.setBnd b x).fuses = s.fuses := rfl
@[simp] theorem State.setBnd_reg (s : State) (b : Nat) (x : Binding) : (s.setBnd b x).reg = s.reg := rfl
@[simp] theorem State.setBnd_mem (s : State) (b : Nat) (x : Binding) : (s.setBnd b x).mem = s.mem := rfl
@[simp] theorem State.setBnd_core (s : State) (b : Nat) (x : Binding) : (s.setBnd b x).core = s.core := rfl
@[simp] theorem State.setBnd_rtr (s : State) (b : Nat) (x : Binding) : (s.setBnd b x).rtr = s.rtr := rfl
@[simp] theorem State.setBnd_sys (s : State) (b : Nat) (x : Binding) : (s.setBnd b x).sys = s.sys := rfl
@[simp] theorem State.setBnd_cnv (s : State) (b : Nat) (x : Binding) : (s.setBnd b x).cnv = s.cnv := rfl
@[simp] theorem State.setBnd_syn (s : State) (b : Nat) (x : Binding) : (s.setBnd b x).syn = s.syn := rfl
@[simp] theorem State.setBnd_fab (s : State) (b : Nat) (x : Binding) : (s.setBnd b x).fab = s.fab := rfl
@[simp] theorem State.setBnd_eth (s : State) (b : Nat) (x : Binding) : (s.setBnd b x).eth = s.eth := rfl
@[simp] theorem State.setBnd_gov (s : State) (b : Nat) (x : Binding) : (s.setBnd b x).gov = s.gov := rfl
@[simp] theorem State.setBnd_ltn (s : State) (b : Nat) (x : Binding) : (s.setBnd b x).ltn = s.ltn := rfl
@[simp] theorem State.setBnd_kpr (s : State) (b : Nat) (x : Binding) : (s.setBnd b x).kpr = s.kpr := rfl
@[simp] theorem State.setBnd_irq (s : State) (b : Nat) (x : Binding) : (s.setBnd b x).irq = s.irq := rfl
@[simp] theorem State.setBnd_tmr (s : State) (b : Nat) (x : Binding) : (s.setBnd b x).tmr = s.tmr := rfl
@[simp] theorem State.setBnd_sec (s : State) (b : Nat) (x : Binding) : (s.setBnd b x).sec = s.sec := rfl
@[simp] theorem State.setBnd_ptb (s : State) (b : Nat) (x : Binding) : (s.setBnd b x).ptb = s.ptb := rfl
@[simp] theorem State.setBnd_dead (s : State) (b : Nat) (x : Binding) : (s.setBnd b x).dead = s.dead := rfl
@[simp] theorem State.setBnd_out (s : State) (b : Nat) (x : Binding) : (s.setBnd b x).out = s.out := rfl
@[simp] theorem State.setBnd_free (s : State) (b : Nat) (x : Binding) : (s.setBnd b x).free = s.free := rfl
@[simp] theorem State.setBnd_cmd_streams (s : State) (b : Nat) (x : Binding) : (s.setBnd b x).cmd.streams = s.cmd.streams := rfl
@[simp] theorem State.setBnd_cmd_ctxs (s : State) (b : Nat) (x : Binding) : (s.setBnd b x).cmd.ctxs = s.cmd.ctxs := rfl
@[simp] theorem State.setBnd_cmd_cpls (s : State) (b : Nat) (x : Binding) : (s.setBnd b x).cmd.cpls = s.cmd.cpls := rfl
@[simp] theorem State.setBnd_cmd_banks (s : State) (b : Nat) (x : Binding) : (s.setBnd b x).cmd.banks = s.cmd.banks := rfl
@[simp] theorem State.setBnd_cmd_windows (s : State) (b : Nat) (x : Binding) : (s.setBnd b x).cmd.windows = s.cmd.windows := rfl
@[simp] theorem State.setBnd_cmd_turn (s : State) (b : Nat) (x : Binding) : (s.setBnd b x).cmd.turn = s.cmd.turn := rfl
@[simp] theorem State.setBnd_cmd_issues (s : State) (b : Nat) (x : Binding) : (s.setBnd b x).cmd.issues = s.cmd.issues := rfl
@[simp] theorem State.setBnd_cmd_far (s : State) (b : Nat) (x : Binding) : (s.setBnd b x).cmd.far = s.cmd.far := rfl
@[simp] theorem State.setStrm_pending (s : State) (n : Nat) (x : Stream) : (s.setStrm n x).pending = s.pending := rfl
@[simp] theorem State.setStrm_fuses (s : State) (n : Nat) (x : Stream) : (s.setStrm n x).fuses = s.fuses := rfl
@[simp] theorem State.setStrm_reg (s : State) (n : Nat) (x : Stream) : (s.setStrm n x).reg = s.reg := rfl
@[simp] theorem State.setStrm_mem (s : State) (n : Nat) (x : Stream) : (s.setStrm n x).mem = s.mem := rfl
@[simp] theorem State.setStrm_core (s : State) (n : Nat) (x : Stream) : (s.setStrm n x).core = s.core := rfl
@[simp] theorem State.setStrm_rtr (s : State) (n : Nat) (x : Stream) : (s.setStrm n x).rtr = s.rtr := rfl
@[simp] theorem State.setStrm_sys (s : State) (n : Nat) (x : Stream) : (s.setStrm n x).sys = s.sys := rfl
@[simp] theorem State.setStrm_cnv (s : State) (n : Nat) (x : Stream) : (s.setStrm n x).cnv = s.cnv := rfl
@[simp] theorem State.setStrm_syn (s : State) (n : Nat) (x : Stream) : (s.setStrm n x).syn = s.syn := rfl
@[simp] theorem State.setStrm_fab (s : State) (n : Nat) (x : Stream) : (s.setStrm n x).fab = s.fab := rfl
@[simp] theorem State.setStrm_eth (s : State) (n : Nat) (x : Stream) : (s.setStrm n x).eth = s.eth := rfl
@[simp] theorem State.setStrm_gov (s : State) (n : Nat) (x : Stream) : (s.setStrm n x).gov = s.gov := rfl
@[simp] theorem State.setStrm_ltn (s : State) (n : Nat) (x : Stream) : (s.setStrm n x).ltn = s.ltn := rfl
@[simp] theorem State.setStrm_kpr (s : State) (n : Nat) (x : Stream) : (s.setStrm n x).kpr = s.kpr := rfl
@[simp] theorem State.setStrm_irq (s : State) (n : Nat) (x : Stream) : (s.setStrm n x).irq = s.irq := rfl
@[simp] theorem State.setStrm_tmr (s : State) (n : Nat) (x : Stream) : (s.setStrm n x).tmr = s.tmr := rfl
@[simp] theorem State.setStrm_sec (s : State) (n : Nat) (x : Stream) : (s.setStrm n x).sec = s.sec := rfl
@[simp] theorem State.setStrm_ptb (s : State) (n : Nat) (x : Stream) : (s.setStrm n x).ptb = s.ptb := rfl
@[simp] theorem State.setStrm_dead (s : State) (n : Nat) (x : Stream) : (s.setStrm n x).dead = s.dead := rfl
@[simp] theorem State.setStrm_out (s : State) (n : Nat) (x : Stream) : (s.setStrm n x).out = s.out := rfl
@[simp] theorem State.setStrm_free (s : State) (n : Nat) (x : Stream) : (s.setStrm n x).free = s.free := rfl
@[simp] theorem State.setStrm_cmd_bindings (s : State) (n : Nat) (x : Stream) : (s.setStrm n x).cmd.bindings = s.cmd.bindings := rfl
@[simp] theorem State.setStrm_cmd_ctxs (s : State) (n : Nat) (x : Stream) : (s.setStrm n x).cmd.ctxs = s.cmd.ctxs := rfl
@[simp] theorem State.setStrm_cmd_cpls (s : State) (n : Nat) (x : Stream) : (s.setStrm n x).cmd.cpls = s.cmd.cpls := rfl
@[simp] theorem State.setStrm_cmd_banks (s : State) (n : Nat) (x : Stream) : (s.setStrm n x).cmd.banks = s.cmd.banks := rfl
@[simp] theorem State.setStrm_cmd_windows (s : State) (n : Nat) (x : Stream) : (s.setStrm n x).cmd.windows = s.cmd.windows := rfl
@[simp] theorem State.setStrm_cmd_turn (s : State) (n : Nat) (x : Stream) : (s.setStrm n x).cmd.turn = s.cmd.turn := rfl
@[simp] theorem State.setStrm_cmd_issues (s : State) (n : Nat) (x : Stream) : (s.setStrm n x).cmd.issues = s.cmd.issues := rfl
@[simp] theorem State.setStrm_cmd_far (s : State) (n : Nat) (x : Stream) : (s.setStrm n x).cmd.far = s.cmd.far := rfl
@[simp] theorem State.setCor_pending (s : State) (n : Nat) (x : Core) : (s.setCor n x).pending = s.pending := rfl
@[simp] theorem State.setCor_fuses (s : State) (n : Nat) (x : Core) : (s.setCor n x).fuses = s.fuses := rfl
@[simp] theorem State.setCor_reg (s : State) (n : Nat) (x : Core) : (s.setCor n x).reg = s.reg := rfl
@[simp] theorem State.setCor_mem (s : State) (n : Nat) (x : Core) : (s.setCor n x).mem = s.mem := rfl
@[simp] theorem State.setCor_cmd (s : State) (n : Nat) (x : Core) : (s.setCor n x).cmd = s.cmd := rfl
@[simp] theorem State.setCor_rtr (s : State) (n : Nat) (x : Core) : (s.setCor n x).rtr = s.rtr := rfl
@[simp] theorem State.setCor_sys (s : State) (n : Nat) (x : Core) : (s.setCor n x).sys = s.sys := rfl
@[simp] theorem State.setCor_cnv (s : State) (n : Nat) (x : Core) : (s.setCor n x).cnv = s.cnv := rfl
@[simp] theorem State.setCor_syn (s : State) (n : Nat) (x : Core) : (s.setCor n x).syn = s.syn := rfl
@[simp] theorem State.setCor_fab (s : State) (n : Nat) (x : Core) : (s.setCor n x).fab = s.fab := rfl
@[simp] theorem State.setCor_eth (s : State) (n : Nat) (x : Core) : (s.setCor n x).eth = s.eth := rfl
@[simp] theorem State.setCor_gov (s : State) (n : Nat) (x : Core) : (s.setCor n x).gov = s.gov := rfl
@[simp] theorem State.setCor_ltn (s : State) (n : Nat) (x : Core) : (s.setCor n x).ltn = s.ltn := rfl
@[simp] theorem State.setCor_kpr (s : State) (n : Nat) (x : Core) : (s.setCor n x).kpr = s.kpr := rfl
@[simp] theorem State.setCor_irq (s : State) (n : Nat) (x : Core) : (s.setCor n x).irq = s.irq := rfl
@[simp] theorem State.setCor_tmr (s : State) (n : Nat) (x : Core) : (s.setCor n x).tmr = s.tmr := rfl
@[simp] theorem State.setCor_sec (s : State) (n : Nat) (x : Core) : (s.setCor n x).sec = s.sec := rfl
@[simp] theorem State.setCor_ptb (s : State) (n : Nat) (x : Core) : (s.setCor n x).ptb = s.ptb := rfl
@[simp] theorem State.setCor_dead (s : State) (n : Nat) (x : Core) : (s.setCor n x).dead = s.dead := rfl
@[simp] theorem State.setCor_out (s : State) (n : Nat) (x : Core) : (s.setCor n x).out = s.out := rfl
@[simp] theorem State.setCor_free (s : State) (n : Nat) (x : Core) : (s.setCor n x).free = s.free := rfl
@[simp] theorem State.setCor_core_slots (s : State) (n : Nat) (x : Core) : (s.setCor n x).core.slots = s.core.slots := rfl
@[simp] theorem State.setCor_core_units (s : State) (n : Nat) (x : Core) : (s.setCor n x).core.units = s.core.units := rfl
@[simp] theorem State.setCor_core_reds (s : State) (n : Nat) (x : Core) : (s.setCor n x).core.reds = s.core.reds := rfl
@[simp] theorem State.setSlot_pending (s : State) (n t : Nat) (x : Slot) : (s.setSlot n t x).pending = s.pending := rfl
@[simp] theorem State.setSlot_fuses (s : State) (n t : Nat) (x : Slot) : (s.setSlot n t x).fuses = s.fuses := rfl
@[simp] theorem State.setSlot_reg (s : State) (n t : Nat) (x : Slot) : (s.setSlot n t x).reg = s.reg := rfl
@[simp] theorem State.setSlot_mem (s : State) (n t : Nat) (x : Slot) : (s.setSlot n t x).mem = s.mem := rfl
@[simp] theorem State.setSlot_cmd (s : State) (n t : Nat) (x : Slot) : (s.setSlot n t x).cmd = s.cmd := rfl
@[simp] theorem State.setSlot_rtr (s : State) (n t : Nat) (x : Slot) : (s.setSlot n t x).rtr = s.rtr := rfl
@[simp] theorem State.setSlot_sys (s : State) (n t : Nat) (x : Slot) : (s.setSlot n t x).sys = s.sys := rfl
@[simp] theorem State.setSlot_cnv (s : State) (n t : Nat) (x : Slot) : (s.setSlot n t x).cnv = s.cnv := rfl
@[simp] theorem State.setSlot_syn (s : State) (n t : Nat) (x : Slot) : (s.setSlot n t x).syn = s.syn := rfl
@[simp] theorem State.setSlot_fab (s : State) (n t : Nat) (x : Slot) : (s.setSlot n t x).fab = s.fab := rfl
@[simp] theorem State.setSlot_eth (s : State) (n t : Nat) (x : Slot) : (s.setSlot n t x).eth = s.eth := rfl
@[simp] theorem State.setSlot_gov (s : State) (n t : Nat) (x : Slot) : (s.setSlot n t x).gov = s.gov := rfl
@[simp] theorem State.setSlot_ltn (s : State) (n t : Nat) (x : Slot) : (s.setSlot n t x).ltn = s.ltn := rfl
@[simp] theorem State.setSlot_kpr (s : State) (n t : Nat) (x : Slot) : (s.setSlot n t x).kpr = s.kpr := rfl
@[simp] theorem State.setSlot_irq (s : State) (n t : Nat) (x : Slot) : (s.setSlot n t x).irq = s.irq := rfl
@[simp] theorem State.setSlot_tmr (s : State) (n t : Nat) (x : Slot) : (s.setSlot n t x).tmr = s.tmr := rfl
@[simp] theorem State.setSlot_sec (s : State) (n t : Nat) (x : Slot) : (s.setSlot n t x).sec = s.sec := rfl
@[simp] theorem State.setSlot_ptb (s : State) (n t : Nat) (x : Slot) : (s.setSlot n t x).ptb = s.ptb := rfl
@[simp] theorem State.setSlot_dead (s : State) (n t : Nat) (x : Slot) : (s.setSlot n t x).dead = s.dead := rfl
@[simp] theorem State.setSlot_out (s : State) (n t : Nat) (x : Slot) : (s.setSlot n t x).out = s.out := rfl
@[simp] theorem State.setSlot_free (s : State) (n t : Nat) (x : Slot) : (s.setSlot n t x).free = s.free := rfl
@[simp] theorem State.setSlot_core_cores (s : State) (n t : Nat) (x : Slot) : (s.setSlot n t x).core.cores = s.core.cores := rfl
@[simp] theorem State.setSlot_core_units (s : State) (n t : Nat) (x : Slot) : (s.setSlot n t x).core.units = s.core.units := rfl
@[simp] theorem State.setSlot_core_reds (s : State) (n t : Nat) (x : Slot) : (s.setSlot n t x).core.reds = s.core.reds := rfl
@[simp] theorem State.setRed_pending (s : State) (n m : Nat) (x : Reduction) : (s.setRed n m x).pending = s.pending := rfl
@[simp] theorem State.setRed_fuses (s : State) (n m : Nat) (x : Reduction) : (s.setRed n m x).fuses = s.fuses := rfl
@[simp] theorem State.setRed_reg (s : State) (n m : Nat) (x : Reduction) : (s.setRed n m x).reg = s.reg := rfl
@[simp] theorem State.setRed_mem (s : State) (n m : Nat) (x : Reduction) : (s.setRed n m x).mem = s.mem := rfl
@[simp] theorem State.setRed_cmd (s : State) (n m : Nat) (x : Reduction) : (s.setRed n m x).cmd = s.cmd := rfl
@[simp] theorem State.setRed_rtr (s : State) (n m : Nat) (x : Reduction) : (s.setRed n m x).rtr = s.rtr := rfl
@[simp] theorem State.setRed_sys (s : State) (n m : Nat) (x : Reduction) : (s.setRed n m x).sys = s.sys := rfl
@[simp] theorem State.setRed_cnv (s : State) (n m : Nat) (x : Reduction) : (s.setRed n m x).cnv = s.cnv := rfl
@[simp] theorem State.setRed_syn (s : State) (n m : Nat) (x : Reduction) : (s.setRed n m x).syn = s.syn := rfl
@[simp] theorem State.setRed_fab (s : State) (n m : Nat) (x : Reduction) : (s.setRed n m x).fab = s.fab := rfl
@[simp] theorem State.setRed_eth (s : State) (n m : Nat) (x : Reduction) : (s.setRed n m x).eth = s.eth := rfl
@[simp] theorem State.setRed_gov (s : State) (n m : Nat) (x : Reduction) : (s.setRed n m x).gov = s.gov := rfl
@[simp] theorem State.setRed_ltn (s : State) (n m : Nat) (x : Reduction) : (s.setRed n m x).ltn = s.ltn := rfl
@[simp] theorem State.setRed_kpr (s : State) (n m : Nat) (x : Reduction) : (s.setRed n m x).kpr = s.kpr := rfl
@[simp] theorem State.setRed_irq (s : State) (n m : Nat) (x : Reduction) : (s.setRed n m x).irq = s.irq := rfl
@[simp] theorem State.setRed_tmr (s : State) (n m : Nat) (x : Reduction) : (s.setRed n m x).tmr = s.tmr := rfl
@[simp] theorem State.setRed_sec (s : State) (n m : Nat) (x : Reduction) : (s.setRed n m x).sec = s.sec := rfl
@[simp] theorem State.setRed_ptb (s : State) (n m : Nat) (x : Reduction) : (s.setRed n m x).ptb = s.ptb := rfl
@[simp] theorem State.setRed_dead (s : State) (n m : Nat) (x : Reduction) : (s.setRed n m x).dead = s.dead := rfl
@[simp] theorem State.setRed_out (s : State) (n m : Nat) (x : Reduction) : (s.setRed n m x).out = s.out := rfl
@[simp] theorem State.setRed_free (s : State) (n m : Nat) (x : Reduction) : (s.setRed n m x).free = s.free := rfl
@[simp] theorem State.setRed_core_cores (s : State) (n m : Nat) (x : Reduction) : (s.setRed n m x).core.cores = s.core.cores := rfl
@[simp] theorem State.setRed_core_slots (s : State) (n m : Nat) (x : Reduction) : (s.setRed n m x).core.slots = s.core.slots := rfl
@[simp] theorem State.setRed_core_units (s : State) (n m : Nat) (x : Reduction) : (s.setRed n m x).core.units = s.core.units := rfl
@[simp] theorem State.setChan_pending (s : State) (k : Nat) (x : Chan) : (s.setChan k x).pending = s.pending := rfl
@[simp] theorem State.setChan_fuses (s : State) (k : Nat) (x : Chan) : (s.setChan k x).fuses = s.fuses := rfl
@[simp] theorem State.setChan_reg (s : State) (k : Nat) (x : Chan) : (s.setChan k x).reg = s.reg := rfl
@[simp] theorem State.setChan_mem (s : State) (k : Nat) (x : Chan) : (s.setChan k x).mem = s.mem := rfl
@[simp] theorem State.setChan_cmd (s : State) (k : Nat) (x : Chan) : (s.setChan k x).cmd = s.cmd := rfl
@[simp] theorem State.setChan_core (s : State) (k : Nat) (x : Chan) : (s.setChan k x).core = s.core := rfl
@[simp] theorem State.setChan_rtr (s : State) (k : Nat) (x : Chan) : (s.setChan k x).rtr = s.rtr := rfl
@[simp] theorem State.setChan_sys (s : State) (k : Nat) (x : Chan) : (s.setChan k x).sys = s.sys := rfl
@[simp] theorem State.setChan_syn (s : State) (k : Nat) (x : Chan) : (s.setChan k x).syn = s.syn := rfl
@[simp] theorem State.setChan_fab (s : State) (k : Nat) (x : Chan) : (s.setChan k x).fab = s.fab := rfl
@[simp] theorem State.setChan_eth (s : State) (k : Nat) (x : Chan) : (s.setChan k x).eth = s.eth := rfl
@[simp] theorem State.setChan_gov (s : State) (k : Nat) (x : Chan) : (s.setChan k x).gov = s.gov := rfl
@[simp] theorem State.setChan_ltn (s : State) (k : Nat) (x : Chan) : (s.setChan k x).ltn = s.ltn := rfl
@[simp] theorem State.setChan_kpr (s : State) (k : Nat) (x : Chan) : (s.setChan k x).kpr = s.kpr := rfl
@[simp] theorem State.setChan_irq (s : State) (k : Nat) (x : Chan) : (s.setChan k x).irq = s.irq := rfl
@[simp] theorem State.setChan_tmr (s : State) (k : Nat) (x : Chan) : (s.setChan k x).tmr = s.tmr := rfl
@[simp] theorem State.setChan_sec (s : State) (k : Nat) (x : Chan) : (s.setChan k x).sec = s.sec := rfl
@[simp] theorem State.setChan_ptb (s : State) (k : Nat) (x : Chan) : (s.setChan k x).ptb = s.ptb := rfl
@[simp] theorem State.setChan_dead (s : State) (k : Nat) (x : Chan) : (s.setChan k x).dead = s.dead := rfl
@[simp] theorem State.setChan_out (s : State) (k : Nat) (x : Chan) : (s.setChan k x).out = s.out := rfl
@[simp] theorem State.setChan_free (s : State) (k : Nat) (x : Chan) : (s.setChan k x).free = s.free := rfl
@[simp] theorem State.setChan_cnv_insts (s : State) (k : Nat) (x : Chan) : (s.setChan k x).cnv.insts = s.cnv.insts := rfl
@[simp] theorem State.setChan_cnv_tallies (s : State) (k : Nat) (x : Chan) : (s.setChan k x).cnv.tallies = s.cnv.tallies := rfl
@[simp] theorem State.setChan_cnv_taps (s : State) (k : Nat) (x : Chan) : (s.setChan k x).cnv.taps = s.cnv.taps := rfl
@[simp] theorem State.setChan_cnv_decodes (s : State) (k : Nat) (x : Chan) : (s.setChan k x).cnv.decodes = s.cnv.decodes := rfl
@[simp] theorem State.setChan_cnv_acts (s : State) (k : Nat) (x : Chan) : (s.setChan k x).cnv.acts = s.cnv.acts := rfl
@[simp] theorem State.setInst_pending (s : State) (k c : Nat) (x : Inst) : (s.setInst k c x).pending = s.pending := rfl
@[simp] theorem State.setInst_fuses (s : State) (k c : Nat) (x : Inst) : (s.setInst k c x).fuses = s.fuses := rfl
@[simp] theorem State.setInst_reg (s : State) (k c : Nat) (x : Inst) : (s.setInst k c x).reg = s.reg := rfl
@[simp] theorem State.setInst_mem (s : State) (k c : Nat) (x : Inst) : (s.setInst k c x).mem = s.mem := rfl
@[simp] theorem State.setInst_cmd (s : State) (k c : Nat) (x : Inst) : (s.setInst k c x).cmd = s.cmd := rfl
@[simp] theorem State.setInst_core (s : State) (k c : Nat) (x : Inst) : (s.setInst k c x).core = s.core := rfl
@[simp] theorem State.setInst_rtr (s : State) (k c : Nat) (x : Inst) : (s.setInst k c x).rtr = s.rtr := rfl
@[simp] theorem State.setInst_sys (s : State) (k c : Nat) (x : Inst) : (s.setInst k c x).sys = s.sys := rfl
@[simp] theorem State.setInst_syn (s : State) (k c : Nat) (x : Inst) : (s.setInst k c x).syn = s.syn := rfl
@[simp] theorem State.setInst_fab (s : State) (k c : Nat) (x : Inst) : (s.setInst k c x).fab = s.fab := rfl
@[simp] theorem State.setInst_eth (s : State) (k c : Nat) (x : Inst) : (s.setInst k c x).eth = s.eth := rfl
@[simp] theorem State.setInst_gov (s : State) (k c : Nat) (x : Inst) : (s.setInst k c x).gov = s.gov := rfl
@[simp] theorem State.setInst_ltn (s : State) (k c : Nat) (x : Inst) : (s.setInst k c x).ltn = s.ltn := rfl
@[simp] theorem State.setInst_kpr (s : State) (k c : Nat) (x : Inst) : (s.setInst k c x).kpr = s.kpr := rfl
@[simp] theorem State.setInst_irq (s : State) (k c : Nat) (x : Inst) : (s.setInst k c x).irq = s.irq := rfl
@[simp] theorem State.setInst_tmr (s : State) (k c : Nat) (x : Inst) : (s.setInst k c x).tmr = s.tmr := rfl
@[simp] theorem State.setInst_sec (s : State) (k c : Nat) (x : Inst) : (s.setInst k c x).sec = s.sec := rfl
@[simp] theorem State.setInst_ptb (s : State) (k c : Nat) (x : Inst) : (s.setInst k c x).ptb = s.ptb := rfl
@[simp] theorem State.setInst_dead (s : State) (k c : Nat) (x : Inst) : (s.setInst k c x).dead = s.dead := rfl
@[simp] theorem State.setInst_out (s : State) (k c : Nat) (x : Inst) : (s.setInst k c x).out = s.out := rfl
@[simp] theorem State.setInst_free (s : State) (k c : Nat) (x : Inst) : (s.setInst k c x).free = s.free := rfl
@[simp] theorem State.setInst_cnv_chans (s : State) (k c : Nat) (x : Inst) : (s.setInst k c x).cnv.chans = s.cnv.chans := rfl
@[simp] theorem State.setInst_cnv_tallies (s : State) (k c : Nat) (x : Inst) : (s.setInst k c x).cnv.tallies = s.cnv.tallies := rfl
@[simp] theorem State.setInst_cnv_taps (s : State) (k c : Nat) (x : Inst) : (s.setInst k c x).cnv.taps = s.cnv.taps := rfl
@[simp] theorem State.setInst_cnv_decodes (s : State) (k c : Nat) (x : Inst) : (s.setInst k c x).cnv.decodes = s.cnv.decodes := rfl
@[simp] theorem State.setInst_cnv_acts (s : State) (k c : Nat) (x : Inst) : (s.setInst k c x).cnv.acts = s.cnv.acts := rfl
@[simp] theorem State.setAct_pending (s : State) (f : Nat) (x : ActFrame) : (s.setAct f x).pending = s.pending := rfl
@[simp] theorem State.setAct_fuses (s : State) (f : Nat) (x : ActFrame) : (s.setAct f x).fuses = s.fuses := rfl
@[simp] theorem State.setAct_reg (s : State) (f : Nat) (x : ActFrame) : (s.setAct f x).reg = s.reg := rfl
@[simp] theorem State.setAct_mem (s : State) (f : Nat) (x : ActFrame) : (s.setAct f x).mem = s.mem := rfl
@[simp] theorem State.setAct_cmd (s : State) (f : Nat) (x : ActFrame) : (s.setAct f x).cmd = s.cmd := rfl
@[simp] theorem State.setAct_core (s : State) (f : Nat) (x : ActFrame) : (s.setAct f x).core = s.core := rfl
@[simp] theorem State.setAct_rtr (s : State) (f : Nat) (x : ActFrame) : (s.setAct f x).rtr = s.rtr := rfl
@[simp] theorem State.setAct_sys (s : State) (f : Nat) (x : ActFrame) : (s.setAct f x).sys = s.sys := rfl
@[simp] theorem State.setAct_syn (s : State) (f : Nat) (x : ActFrame) : (s.setAct f x).syn = s.syn := rfl
@[simp] theorem State.setAct_fab (s : State) (f : Nat) (x : ActFrame) : (s.setAct f x).fab = s.fab := rfl
@[simp] theorem State.setAct_eth (s : State) (f : Nat) (x : ActFrame) : (s.setAct f x).eth = s.eth := rfl
@[simp] theorem State.setAct_gov (s : State) (f : Nat) (x : ActFrame) : (s.setAct f x).gov = s.gov := rfl
@[simp] theorem State.setAct_ltn (s : State) (f : Nat) (x : ActFrame) : (s.setAct f x).ltn = s.ltn := rfl
@[simp] theorem State.setAct_kpr (s : State) (f : Nat) (x : ActFrame) : (s.setAct f x).kpr = s.kpr := rfl
@[simp] theorem State.setAct_irq (s : State) (f : Nat) (x : ActFrame) : (s.setAct f x).irq = s.irq := rfl
@[simp] theorem State.setAct_tmr (s : State) (f : Nat) (x : ActFrame) : (s.setAct f x).tmr = s.tmr := rfl
@[simp] theorem State.setAct_sec (s : State) (f : Nat) (x : ActFrame) : (s.setAct f x).sec = s.sec := rfl
@[simp] theorem State.setAct_ptb (s : State) (f : Nat) (x : ActFrame) : (s.setAct f x).ptb = s.ptb := rfl
@[simp] theorem State.setAct_dead (s : State) (f : Nat) (x : ActFrame) : (s.setAct f x).dead = s.dead := rfl
@[simp] theorem State.setAct_out (s : State) (f : Nat) (x : ActFrame) : (s.setAct f x).out = s.out := rfl
@[simp] theorem State.setAct_free (s : State) (f : Nat) (x : ActFrame) : (s.setAct f x).free = s.free := rfl
@[simp] theorem State.setAct_cnv_chans (s : State) (f : Nat) (x : ActFrame) : (s.setAct f x).cnv.chans = s.cnv.chans := rfl
@[simp] theorem State.setAct_cnv_insts (s : State) (f : Nat) (x : ActFrame) : (s.setAct f x).cnv.insts = s.cnv.insts := rfl
@[simp] theorem State.setAct_cnv_tallies (s : State) (f : Nat) (x : ActFrame) : (s.setAct f x).cnv.tallies = s.cnv.tallies := rfl
@[simp] theorem State.setAct_cnv_taps (s : State) (f : Nat) (x : ActFrame) : (s.setAct f x).cnv.taps = s.cnv.taps := rfl
@[simp] theorem State.setAct_cnv_decodes (s : State) (f : Nat) (x : ActFrame) : (s.setAct f x).cnv.decodes = s.cnv.decodes := rfl
@[simp] theorem State.setBuoy_pending (s : State) (k : Nat) (v : BitVec 31) : (s.setBuoy k v).pending = s.pending := rfl
@[simp] theorem State.setBuoy_fuses (s : State) (k : Nat) (v : BitVec 31) : (s.setBuoy k v).fuses = s.fuses := rfl
@[simp] theorem State.setBuoy_reg (s : State) (k : Nat) (v : BitVec 31) : (s.setBuoy k v).reg = s.reg := rfl
@[simp] theorem State.setBuoy_mem (s : State) (k : Nat) (v : BitVec 31) : (s.setBuoy k v).mem = s.mem := rfl
@[simp] theorem State.setBuoy_cmd (s : State) (k : Nat) (v : BitVec 31) : (s.setBuoy k v).cmd = s.cmd := rfl
@[simp] theorem State.setBuoy_core (s : State) (k : Nat) (v : BitVec 31) : (s.setBuoy k v).core = s.core := rfl
@[simp] theorem State.setBuoy_rtr (s : State) (k : Nat) (v : BitVec 31) : (s.setBuoy k v).rtr = s.rtr := rfl
@[simp] theorem State.setBuoy_sys (s : State) (k : Nat) (v : BitVec 31) : (s.setBuoy k v).sys = s.sys := rfl
@[simp] theorem State.setBuoy_cnv (s : State) (k : Nat) (v : BitVec 31) : (s.setBuoy k v).cnv = s.cnv := rfl
@[simp] theorem State.setBuoy_fab (s : State) (k : Nat) (v : BitVec 31) : (s.setBuoy k v).fab = s.fab := rfl
@[simp] theorem State.setBuoy_eth (s : State) (k : Nat) (v : BitVec 31) : (s.setBuoy k v).eth = s.eth := rfl
@[simp] theorem State.setBuoy_gov (s : State) (k : Nat) (v : BitVec 31) : (s.setBuoy k v).gov = s.gov := rfl
@[simp] theorem State.setBuoy_ltn (s : State) (k : Nat) (v : BitVec 31) : (s.setBuoy k v).ltn = s.ltn := rfl
@[simp] theorem State.setBuoy_kpr (s : State) (k : Nat) (v : BitVec 31) : (s.setBuoy k v).kpr = s.kpr := rfl
@[simp] theorem State.setBuoy_irq (s : State) (k : Nat) (v : BitVec 31) : (s.setBuoy k v).irq = s.irq := rfl
@[simp] theorem State.setBuoy_tmr (s : State) (k : Nat) (v : BitVec 31) : (s.setBuoy k v).tmr = s.tmr := rfl
@[simp] theorem State.setBuoy_sec (s : State) (k : Nat) (v : BitVec 31) : (s.setBuoy k v).sec = s.sec := rfl
@[simp] theorem State.setBuoy_ptb (s : State) (k : Nat) (v : BitVec 31) : (s.setBuoy k v).ptb = s.ptb := rfl
@[simp] theorem State.setBuoy_dead (s : State) (k : Nat) (v : BitVec 31) : (s.setBuoy k v).dead = s.dead := rfl
@[simp] theorem State.setBuoy_out (s : State) (k : Nat) (v : BitVec 31) : (s.setBuoy k v).out = s.out := rfl
@[simp] theorem State.setBuoy_free (s : State) (k : Nat) (v : BitVec 31) : (s.setBuoy k v).free = s.free := rfl
@[simp] theorem State.setBuoy_syn_owner (s : State) (k : Nat) (v : BitVec 31) : (s.setBuoy k v).syn.owner = s.syn.owner := rfl
@[simp] theorem State.setBuoy_syn_waits (s : State) (k : Nat) (v : BitVec 31) : (s.setBuoy k v).syn.waits = s.syn.waits := rfl
@[simp] theorem State.setBuoy_syn_watches (s : State) (k : Nat) (v : BitVec 31) : (s.setBuoy k v).syn.watches = s.syn.watches := rfl
@[simp] theorem State.setBuoy_syn_sigs (s : State) (k : Nat) (v : BitVec 31) : (s.setBuoy k v).syn.sigs = s.syn.sigs := rfl
@[simp] theorem State.setBuoy_syn_queues (s : State) (k : Nat) (v : BitVec 31) : (s.setBuoy k v).syn.queues = s.syn.queues := rfl
@[simp] theorem State.setBuoy_syn_writers (s : State) (k : Nat) (v : BitVec 31) : (s.setBuoy k v).syn.writers = s.syn.writers := rfl
@[simp] theorem State.setBuoy_syn_recvs (s : State) (k : Nat) (v : BitVec 31) : (s.setBuoy k v).syn.recvs = s.syn.recvs := rfl
@[simp] theorem State.setBuoy_syn_regs (s : State) (k : Nat) (v : BitVec 31) : (s.setBuoy k v).syn.regs = s.syn.regs := rfl
@[simp] theorem State.setBuoy_syn_notes (s : State) (k : Nat) (v : BitVec 31) : (s.setBuoy k v).syn.notes = s.syn.notes := rfl
@[simp] theorem State.setQueue_pending (s : State) (q : Nat) (x : Queue) : (s.setQueue q x).pending = s.pending := rfl
@[simp] theorem State.setQueue_fuses (s : State) (q : Nat) (x : Queue) : (s.setQueue q x).fuses = s.fuses := rfl
@[simp] theorem State.setQueue_reg (s : State) (q : Nat) (x : Queue) : (s.setQueue q x).reg = s.reg := rfl
@[simp] theorem State.setQueue_mem (s : State) (q : Nat) (x : Queue) : (s.setQueue q x).mem = s.mem := rfl
@[simp] theorem State.setQueue_cmd (s : State) (q : Nat) (x : Queue) : (s.setQueue q x).cmd = s.cmd := rfl
@[simp] theorem State.setQueue_core (s : State) (q : Nat) (x : Queue) : (s.setQueue q x).core = s.core := rfl
@[simp] theorem State.setQueue_rtr (s : State) (q : Nat) (x : Queue) : (s.setQueue q x).rtr = s.rtr := rfl
@[simp] theorem State.setQueue_sys (s : State) (q : Nat) (x : Queue) : (s.setQueue q x).sys = s.sys := rfl
@[simp] theorem State.setQueue_cnv (s : State) (q : Nat) (x : Queue) : (s.setQueue q x).cnv = s.cnv := rfl
@[simp] theorem State.setQueue_fab (s : State) (q : Nat) (x : Queue) : (s.setQueue q x).fab = s.fab := rfl
@[simp] theorem State.setQueue_eth (s : State) (q : Nat) (x : Queue) : (s.setQueue q x).eth = s.eth := rfl
@[simp] theorem State.setQueue_gov (s : State) (q : Nat) (x : Queue) : (s.setQueue q x).gov = s.gov := rfl
@[simp] theorem State.setQueue_ltn (s : State) (q : Nat) (x : Queue) : (s.setQueue q x).ltn = s.ltn := rfl
@[simp] theorem State.setQueue_kpr (s : State) (q : Nat) (x : Queue) : (s.setQueue q x).kpr = s.kpr := rfl
@[simp] theorem State.setQueue_irq (s : State) (q : Nat) (x : Queue) : (s.setQueue q x).irq = s.irq := rfl
@[simp] theorem State.setQueue_tmr (s : State) (q : Nat) (x : Queue) : (s.setQueue q x).tmr = s.tmr := rfl
@[simp] theorem State.setQueue_sec (s : State) (q : Nat) (x : Queue) : (s.setQueue q x).sec = s.sec := rfl
@[simp] theorem State.setQueue_ptb (s : State) (q : Nat) (x : Queue) : (s.setQueue q x).ptb = s.ptb := rfl
@[simp] theorem State.setQueue_dead (s : State) (q : Nat) (x : Queue) : (s.setQueue q x).dead = s.dead := rfl
@[simp] theorem State.setQueue_out (s : State) (q : Nat) (x : Queue) : (s.setQueue q x).out = s.out := rfl
@[simp] theorem State.setQueue_free (s : State) (q : Nat) (x : Queue) : (s.setQueue q x).free = s.free := rfl
@[simp] theorem State.setQueue_syn_buoys (s : State) (q : Nat) (x : Queue) : (s.setQueue q x).syn.buoys = s.syn.buoys := rfl
@[simp] theorem State.setQueue_syn_owner (s : State) (q : Nat) (x : Queue) : (s.setQueue q x).syn.owner = s.syn.owner := rfl
@[simp] theorem State.setQueue_syn_waits (s : State) (q : Nat) (x : Queue) : (s.setQueue q x).syn.waits = s.syn.waits := rfl
@[simp] theorem State.setQueue_syn_watches (s : State) (q : Nat) (x : Queue) : (s.setQueue q x).syn.watches = s.syn.watches := rfl
@[simp] theorem State.setQueue_syn_sigs (s : State) (q : Nat) (x : Queue) : (s.setQueue q x).syn.sigs = s.syn.sigs := rfl
@[simp] theorem State.setQueue_syn_writers (s : State) (q : Nat) (x : Queue) : (s.setQueue q x).syn.writers = s.syn.writers := rfl
@[simp] theorem State.setQueue_syn_recvs (s : State) (q : Nat) (x : Queue) : (s.setQueue q x).syn.recvs = s.syn.recvs := rfl
@[simp] theorem State.setQueue_syn_regs (s : State) (q : Nat) (x : Queue) : (s.setQueue q x).syn.regs = s.syn.regs := rfl
@[simp] theorem State.setQueue_syn_notes (s : State) (q : Nat) (x : Queue) : (s.setQueue q x).syn.notes = s.syn.notes := rfl
@[simp] theorem State.setWriter_pending (s : State) (d q : Nat) (x : Writer) : (s.setWriter d q x).pending = s.pending := rfl
@[simp] theorem State.setWriter_fuses (s : State) (d q : Nat) (x : Writer) : (s.setWriter d q x).fuses = s.fuses := rfl
@[simp] theorem State.setWriter_reg (s : State) (d q : Nat) (x : Writer) : (s.setWriter d q x).reg = s.reg := rfl
@[simp] theorem State.setWriter_mem (s : State) (d q : Nat) (x : Writer) : (s.setWriter d q x).mem = s.mem := rfl
@[simp] theorem State.setWriter_cmd (s : State) (d q : Nat) (x : Writer) : (s.setWriter d q x).cmd = s.cmd := rfl
@[simp] theorem State.setWriter_core (s : State) (d q : Nat) (x : Writer) : (s.setWriter d q x).core = s.core := rfl
@[simp] theorem State.setWriter_rtr (s : State) (d q : Nat) (x : Writer) : (s.setWriter d q x).rtr = s.rtr := rfl
@[simp] theorem State.setWriter_sys (s : State) (d q : Nat) (x : Writer) : (s.setWriter d q x).sys = s.sys := rfl
@[simp] theorem State.setWriter_cnv (s : State) (d q : Nat) (x : Writer) : (s.setWriter d q x).cnv = s.cnv := rfl
@[simp] theorem State.setWriter_fab (s : State) (d q : Nat) (x : Writer) : (s.setWriter d q x).fab = s.fab := rfl
@[simp] theorem State.setWriter_eth (s : State) (d q : Nat) (x : Writer) : (s.setWriter d q x).eth = s.eth := rfl
@[simp] theorem State.setWriter_gov (s : State) (d q : Nat) (x : Writer) : (s.setWriter d q x).gov = s.gov := rfl
@[simp] theorem State.setWriter_ltn (s : State) (d q : Nat) (x : Writer) : (s.setWriter d q x).ltn = s.ltn := rfl
@[simp] theorem State.setWriter_kpr (s : State) (d q : Nat) (x : Writer) : (s.setWriter d q x).kpr = s.kpr := rfl
@[simp] theorem State.setWriter_irq (s : State) (d q : Nat) (x : Writer) : (s.setWriter d q x).irq = s.irq := rfl
@[simp] theorem State.setWriter_tmr (s : State) (d q : Nat) (x : Writer) : (s.setWriter d q x).tmr = s.tmr := rfl
@[simp] theorem State.setWriter_sec (s : State) (d q : Nat) (x : Writer) : (s.setWriter d q x).sec = s.sec := rfl
@[simp] theorem State.setWriter_ptb (s : State) (d q : Nat) (x : Writer) : (s.setWriter d q x).ptb = s.ptb := rfl
@[simp] theorem State.setWriter_dead (s : State) (d q : Nat) (x : Writer) : (s.setWriter d q x).dead = s.dead := rfl
@[simp] theorem State.setWriter_out (s : State) (d q : Nat) (x : Writer) : (s.setWriter d q x).out = s.out := rfl
@[simp] theorem State.setWriter_free (s : State) (d q : Nat) (x : Writer) : (s.setWriter d q x).free = s.free := rfl
@[simp] theorem State.setWriter_syn_buoys (s : State) (d q : Nat) (x : Writer) : (s.setWriter d q x).syn.buoys = s.syn.buoys := rfl
@[simp] theorem State.setWriter_syn_owner (s : State) (d q : Nat) (x : Writer) : (s.setWriter d q x).syn.owner = s.syn.owner := rfl
@[simp] theorem State.setWriter_syn_waits (s : State) (d q : Nat) (x : Writer) : (s.setWriter d q x).syn.waits = s.syn.waits := rfl
@[simp] theorem State.setWriter_syn_watches (s : State) (d q : Nat) (x : Writer) : (s.setWriter d q x).syn.watches = s.syn.watches := rfl
@[simp] theorem State.setWriter_syn_sigs (s : State) (d q : Nat) (x : Writer) : (s.setWriter d q x).syn.sigs = s.syn.sigs := rfl
@[simp] theorem State.setWriter_syn_queues (s : State) (d q : Nat) (x : Writer) : (s.setWriter d q x).syn.queues = s.syn.queues := rfl
@[simp] theorem State.setWriter_syn_recvs (s : State) (d q : Nat) (x : Writer) : (s.setWriter d q x).syn.recvs = s.syn.recvs := rfl
@[simp] theorem State.setWriter_syn_regs (s : State) (d q : Nat) (x : Writer) : (s.setWriter d q x).syn.regs = s.syn.regs := rfl
@[simp] theorem State.setWriter_syn_notes (s : State) (d q : Nat) (x : Writer) : (s.setWriter d q x).syn.notes = s.syn.notes := rfl
@[simp] theorem State.setLink_pending (s : State) (l : Nat) (x : Link) : (s.setLink l x).pending = s.pending := rfl
@[simp] theorem State.setLink_fuses (s : State) (l : Nat) (x : Link) : (s.setLink l x).fuses = s.fuses := rfl
@[simp] theorem State.setLink_reg (s : State) (l : Nat) (x : Link) : (s.setLink l x).reg = s.reg := rfl
@[simp] theorem State.setLink_mem (s : State) (l : Nat) (x : Link) : (s.setLink l x).mem = s.mem := rfl
@[simp] theorem State.setLink_cmd (s : State) (l : Nat) (x : Link) : (s.setLink l x).cmd = s.cmd := rfl
@[simp] theorem State.setLink_core (s : State) (l : Nat) (x : Link) : (s.setLink l x).core = s.core := rfl
@[simp] theorem State.setLink_rtr (s : State) (l : Nat) (x : Link) : (s.setLink l x).rtr = s.rtr := rfl
@[simp] theorem State.setLink_sys (s : State) (l : Nat) (x : Link) : (s.setLink l x).sys = s.sys := rfl
@[simp] theorem State.setLink_cnv (s : State) (l : Nat) (x : Link) : (s.setLink l x).cnv = s.cnv := rfl
@[simp] theorem State.setLink_syn (s : State) (l : Nat) (x : Link) : (s.setLink l x).syn = s.syn := rfl
@[simp] theorem State.setLink_eth (s : State) (l : Nat) (x : Link) : (s.setLink l x).eth = s.eth := rfl
@[simp] theorem State.setLink_gov (s : State) (l : Nat) (x : Link) : (s.setLink l x).gov = s.gov := rfl
@[simp] theorem State.setLink_ltn (s : State) (l : Nat) (x : Link) : (s.setLink l x).ltn = s.ltn := rfl
@[simp] theorem State.setLink_kpr (s : State) (l : Nat) (x : Link) : (s.setLink l x).kpr = s.kpr := rfl
@[simp] theorem State.setLink_irq (s : State) (l : Nat) (x : Link) : (s.setLink l x).irq = s.irq := rfl
@[simp] theorem State.setLink_tmr (s : State) (l : Nat) (x : Link) : (s.setLink l x).tmr = s.tmr := rfl
@[simp] theorem State.setLink_sec (s : State) (l : Nat) (x : Link) : (s.setLink l x).sec = s.sec := rfl
@[simp] theorem State.setLink_ptb (s : State) (l : Nat) (x : Link) : (s.setLink l x).ptb = s.ptb := rfl
@[simp] theorem State.setLink_dead (s : State) (l : Nat) (x : Link) : (s.setLink l x).dead = s.dead := rfl
@[simp] theorem State.setLink_out (s : State) (l : Nat) (x : Link) : (s.setLink l x).out = s.out := rfl
@[simp] theorem State.setLink_free (s : State) (l : Nat) (x : Link) : (s.setLink l x).free = s.free := rfl
@[simp] theorem State.setLink_fab_e2e (s : State) (l : Nat) (x : Link) : (s.setLink l x).fab.e2e = s.fab.e2e := rfl
@[simp] theorem State.setLink_fab_circuits (s : State) (l : Nat) (x : Link) : (s.setLink l x).fab.circuits = s.fab.circuits := rfl
@[simp] theorem State.setLink_fab_far (s : State) (l : Nat) (x : Link) : (s.setLink l x).fab.far = s.fab.far := rfl
@[simp] theorem State.setLink_fab_owed (s : State) (l : Nat) (x : Link) : (s.setLink l x).fab.owed = s.fab.owed := rfl
@[simp] theorem State.setLink_fab_cmapMax (s : State) (l : Nat) (x : Link) : (s.setLink l x).fab.cmapMax = s.fab.cmapMax := rfl
@[simp] theorem State.setLink_fab_cmapHist (s : State) (l : Nat) (x : Link) : (s.setLink l x).fab.cmapHist = s.fab.cmapHist := rfl
@[simp] theorem State.setE2e_pending (s : State) (d v : Nat) (x : E2E) : (s.setE2e d v x).pending = s.pending := rfl
@[simp] theorem State.setE2e_fuses (s : State) (d v : Nat) (x : E2E) : (s.setE2e d v x).fuses = s.fuses := rfl
@[simp] theorem State.setE2e_reg (s : State) (d v : Nat) (x : E2E) : (s.setE2e d v x).reg = s.reg := rfl
@[simp] theorem State.setE2e_mem (s : State) (d v : Nat) (x : E2E) : (s.setE2e d v x).mem = s.mem := rfl
@[simp] theorem State.setE2e_cmd (s : State) (d v : Nat) (x : E2E) : (s.setE2e d v x).cmd = s.cmd := rfl
@[simp] theorem State.setE2e_core (s : State) (d v : Nat) (x : E2E) : (s.setE2e d v x).core = s.core := rfl
@[simp] theorem State.setE2e_rtr (s : State) (d v : Nat) (x : E2E) : (s.setE2e d v x).rtr = s.rtr := rfl
@[simp] theorem State.setE2e_sys (s : State) (d v : Nat) (x : E2E) : (s.setE2e d v x).sys = s.sys := rfl
@[simp] theorem State.setE2e_cnv (s : State) (d v : Nat) (x : E2E) : (s.setE2e d v x).cnv = s.cnv := rfl
@[simp] theorem State.setE2e_syn (s : State) (d v : Nat) (x : E2E) : (s.setE2e d v x).syn = s.syn := rfl
@[simp] theorem State.setE2e_eth (s : State) (d v : Nat) (x : E2E) : (s.setE2e d v x).eth = s.eth := rfl
@[simp] theorem State.setE2e_gov (s : State) (d v : Nat) (x : E2E) : (s.setE2e d v x).gov = s.gov := rfl
@[simp] theorem State.setE2e_ltn (s : State) (d v : Nat) (x : E2E) : (s.setE2e d v x).ltn = s.ltn := rfl
@[simp] theorem State.setE2e_kpr (s : State) (d v : Nat) (x : E2E) : (s.setE2e d v x).kpr = s.kpr := rfl
@[simp] theorem State.setE2e_irq (s : State) (d v : Nat) (x : E2E) : (s.setE2e d v x).irq = s.irq := rfl
@[simp] theorem State.setE2e_tmr (s : State) (d v : Nat) (x : E2E) : (s.setE2e d v x).tmr = s.tmr := rfl
@[simp] theorem State.setE2e_sec (s : State) (d v : Nat) (x : E2E) : (s.setE2e d v x).sec = s.sec := rfl
@[simp] theorem State.setE2e_ptb (s : State) (d v : Nat) (x : E2E) : (s.setE2e d v x).ptb = s.ptb := rfl
@[simp] theorem State.setE2e_dead (s : State) (d v : Nat) (x : E2E) : (s.setE2e d v x).dead = s.dead := rfl
@[simp] theorem State.setE2e_out (s : State) (d v : Nat) (x : E2E) : (s.setE2e d v x).out = s.out := rfl
@[simp] theorem State.setE2e_free (s : State) (d v : Nat) (x : E2E) : (s.setE2e d v x).free = s.free := rfl
@[simp] theorem State.setE2e_fab_links (s : State) (d v : Nat) (x : E2E) : (s.setE2e d v x).fab.links = s.fab.links := rfl
@[simp] theorem State.setE2e_fab_circuits (s : State) (d v : Nat) (x : E2E) : (s.setE2e d v x).fab.circuits = s.fab.circuits := rfl
@[simp] theorem State.setE2e_fab_far (s : State) (d v : Nat) (x : E2E) : (s.setE2e d v x).fab.far = s.fab.far := rfl
@[simp] theorem State.setE2e_fab_owed (s : State) (d v : Nat) (x : E2E) : (s.setE2e d v x).fab.owed = s.fab.owed := rfl
@[simp] theorem State.setE2e_fab_cmapMax (s : State) (d v : Nat) (x : E2E) : (s.setE2e d v x).fab.cmapMax = s.fab.cmapMax := rfl
@[simp] theorem State.setE2e_fab_cmapHist (s : State) (d v : Nat) (x : E2E) : (s.setE2e d v x).fab.cmapHist = s.fab.cmapHist := rfl
@[simp] theorem State.setCirc_pending (s : State) (c : Nat) (x : Circuit) : (s.setCirc c x).pending = s.pending := rfl
@[simp] theorem State.setCirc_fuses (s : State) (c : Nat) (x : Circuit) : (s.setCirc c x).fuses = s.fuses := rfl
@[simp] theorem State.setCirc_reg (s : State) (c : Nat) (x : Circuit) : (s.setCirc c x).reg = s.reg := rfl
@[simp] theorem State.setCirc_mem (s : State) (c : Nat) (x : Circuit) : (s.setCirc c x).mem = s.mem := rfl
@[simp] theorem State.setCirc_cmd (s : State) (c : Nat) (x : Circuit) : (s.setCirc c x).cmd = s.cmd := rfl
@[simp] theorem State.setCirc_core (s : State) (c : Nat) (x : Circuit) : (s.setCirc c x).core = s.core := rfl
@[simp] theorem State.setCirc_rtr (s : State) (c : Nat) (x : Circuit) : (s.setCirc c x).rtr = s.rtr := rfl
@[simp] theorem State.setCirc_sys (s : State) (c : Nat) (x : Circuit) : (s.setCirc c x).sys = s.sys := rfl
@[simp] theorem State.setCirc_cnv (s : State) (c : Nat) (x : Circuit) : (s.setCirc c x).cnv = s.cnv := rfl
@[simp] theorem State.setCirc_syn (s : State) (c : Nat) (x : Circuit) : (s.setCirc c x).syn = s.syn := rfl
@[simp] theorem State.setCirc_eth (s : State) (c : Nat) (x : Circuit) : (s.setCirc c x).eth = s.eth := rfl
@[simp] theorem State.setCirc_gov (s : State) (c : Nat) (x : Circuit) : (s.setCirc c x).gov = s.gov := rfl
@[simp] theorem State.setCirc_ltn (s : State) (c : Nat) (x : Circuit) : (s.setCirc c x).ltn = s.ltn := rfl
@[simp] theorem State.setCirc_kpr (s : State) (c : Nat) (x : Circuit) : (s.setCirc c x).kpr = s.kpr := rfl
@[simp] theorem State.setCirc_irq (s : State) (c : Nat) (x : Circuit) : (s.setCirc c x).irq = s.irq := rfl
@[simp] theorem State.setCirc_tmr (s : State) (c : Nat) (x : Circuit) : (s.setCirc c x).tmr = s.tmr := rfl
@[simp] theorem State.setCirc_sec (s : State) (c : Nat) (x : Circuit) : (s.setCirc c x).sec = s.sec := rfl
@[simp] theorem State.setCirc_ptb (s : State) (c : Nat) (x : Circuit) : (s.setCirc c x).ptb = s.ptb := rfl
@[simp] theorem State.setCirc_dead (s : State) (c : Nat) (x : Circuit) : (s.setCirc c x).dead = s.dead := rfl
@[simp] theorem State.setCirc_out (s : State) (c : Nat) (x : Circuit) : (s.setCirc c x).out = s.out := rfl
@[simp] theorem State.setCirc_free (s : State) (c : Nat) (x : Circuit) : (s.setCirc c x).free = s.free := rfl
@[simp] theorem State.setCirc_fab_links (s : State) (c : Nat) (x : Circuit) : (s.setCirc c x).fab.links = s.fab.links := rfl
@[simp] theorem State.setCirc_fab_e2e (s : State) (c : Nat) (x : Circuit) : (s.setCirc c x).fab.e2e = s.fab.e2e := rfl
@[simp] theorem State.setCirc_fab_far (s : State) (c : Nat) (x : Circuit) : (s.setCirc c x).fab.far = s.fab.far := rfl
@[simp] theorem State.setCirc_fab_owed (s : State) (c : Nat) (x : Circuit) : (s.setCirc c x).fab.owed = s.fab.owed := rfl
@[simp] theorem State.setCirc_fab_cmapMax (s : State) (c : Nat) (x : Circuit) : (s.setCirc c x).fab.cmapMax = s.fab.cmapMax := rfl
@[simp] theorem State.setCirc_fab_cmapHist (s : State) (c : Nat) (x : Circuit) : (s.setCirc c x).fab.cmapHist = s.fab.cmapHist := rfl
@[simp] theorem State.setTimer_pending (s : State) (n : Nat) (x : Timer) : (s.setTimer n x).pending = s.pending := rfl
@[simp] theorem State.setTimer_fuses (s : State) (n : Nat) (x : Timer) : (s.setTimer n x).fuses = s.fuses := rfl
@[simp] theorem State.setTimer_reg (s : State) (n : Nat) (x : Timer) : (s.setTimer n x).reg = s.reg := rfl
@[simp] theorem State.setTimer_mem (s : State) (n : Nat) (x : Timer) : (s.setTimer n x).mem = s.mem := rfl
@[simp] theorem State.setTimer_cmd (s : State) (n : Nat) (x : Timer) : (s.setTimer n x).cmd = s.cmd := rfl
@[simp] theorem State.setTimer_core (s : State) (n : Nat) (x : Timer) : (s.setTimer n x).core = s.core := rfl
@[simp] theorem State.setTimer_rtr (s : State) (n : Nat) (x : Timer) : (s.setTimer n x).rtr = s.rtr := rfl
@[simp] theorem State.setTimer_sys (s : State) (n : Nat) (x : Timer) : (s.setTimer n x).sys = s.sys := rfl
@[simp] theorem State.setTimer_cnv (s : State) (n : Nat) (x : Timer) : (s.setTimer n x).cnv = s.cnv := rfl
@[simp] theorem State.setTimer_syn (s : State) (n : Nat) (x : Timer) : (s.setTimer n x).syn = s.syn := rfl
@[simp] theorem State.setTimer_fab (s : State) (n : Nat) (x : Timer) : (s.setTimer n x).fab = s.fab := rfl
@[simp] theorem State.setTimer_eth (s : State) (n : Nat) (x : Timer) : (s.setTimer n x).eth = s.eth := rfl
@[simp] theorem State.setTimer_gov (s : State) (n : Nat) (x : Timer) : (s.setTimer n x).gov = s.gov := rfl
@[simp] theorem State.setTimer_ltn (s : State) (n : Nat) (x : Timer) : (s.setTimer n x).ltn = s.ltn := rfl
@[simp] theorem State.setTimer_kpr (s : State) (n : Nat) (x : Timer) : (s.setTimer n x).kpr = s.kpr := rfl
@[simp] theorem State.setTimer_irq (s : State) (n : Nat) (x : Timer) : (s.setTimer n x).irq = s.irq := rfl
@[simp] theorem State.setTimer_sec (s : State) (n : Nat) (x : Timer) : (s.setTimer n x).sec = s.sec := rfl
@[simp] theorem State.setTimer_ptb (s : State) (n : Nat) (x : Timer) : (s.setTimer n x).ptb = s.ptb := rfl
@[simp] theorem State.setTimer_dead (s : State) (n : Nat) (x : Timer) : (s.setTimer n x).dead = s.dead := rfl
@[simp] theorem State.setTimer_out (s : State) (n : Nat) (x : Timer) : (s.setTimer n x).out = s.out := rfl
@[simp] theorem State.setTimer_free (s : State) (n : Nat) (x : Timer) : (s.setTimer n x).free = s.free := rfl
@[simp] theorem State.setTimer_tmr_tb (s : State) (n : Nat) (x : Timer) : (s.setTimer n x).tmr.tb = s.tmr.tb := rfl
@[simp] theorem State.setTimer_tmr_frac (s : State) (n : Nat) (x : Timer) : (s.setTimer n x).tmr.frac = s.tmr.frac := rfl
@[simp] theorem State.setSpace_pending (s : State) (k : Nat) (x : Space) : (s.setSpace k x).pending = s.pending := rfl
@[simp] theorem State.setSpace_fuses (s : State) (k : Nat) (x : Space) : (s.setSpace k x).fuses = s.fuses := rfl
@[simp] theorem State.setSpace_reg (s : State) (k : Nat) (x : Space) : (s.setSpace k x).reg = s.reg := rfl
@[simp] theorem State.setSpace_mem (s : State) (k : Nat) (x : Space) : (s.setSpace k x).mem = s.mem := rfl
@[simp] theorem State.setSpace_cmd (s : State) (k : Nat) (x : Space) : (s.setSpace k x).cmd = s.cmd := rfl
@[simp] theorem State.setSpace_core (s : State) (k : Nat) (x : Space) : (s.setSpace k x).core = s.core := rfl
@[simp] theorem State.setSpace_rtr (s : State) (k : Nat) (x : Space) : (s.setSpace k x).rtr = s.rtr := rfl
@[simp] theorem State.setSpace_sys (s : State) (k : Nat) (x : Space) : (s.setSpace k x).sys = s.sys := rfl
@[simp] theorem State.setSpace_cnv (s : State) (k : Nat) (x : Space) : (s.setSpace k x).cnv = s.cnv := rfl
@[simp] theorem State.setSpace_syn (s : State) (k : Nat) (x : Space) : (s.setSpace k x).syn = s.syn := rfl
@[simp] theorem State.setSpace_fab (s : State) (k : Nat) (x : Space) : (s.setSpace k x).fab = s.fab := rfl
@[simp] theorem State.setSpace_gov (s : State) (k : Nat) (x : Space) : (s.setSpace k x).gov = s.gov := rfl
@[simp] theorem State.setSpace_ltn (s : State) (k : Nat) (x : Space) : (s.setSpace k x).ltn = s.ltn := rfl
@[simp] theorem State.setSpace_kpr (s : State) (k : Nat) (x : Space) : (s.setSpace k x).kpr = s.kpr := rfl
@[simp] theorem State.setSpace_irq (s : State) (k : Nat) (x : Space) : (s.setSpace k x).irq = s.irq := rfl
@[simp] theorem State.setSpace_tmr (s : State) (k : Nat) (x : Space) : (s.setSpace k x).tmr = s.tmr := rfl
@[simp] theorem State.setSpace_sec (s : State) (k : Nat) (x : Space) : (s.setSpace k x).sec = s.sec := rfl
@[simp] theorem State.setSpace_ptb (s : State) (k : Nat) (x : Space) : (s.setSpace k x).ptb = s.ptb := rfl
@[simp] theorem State.setSpace_dead (s : State) (k : Nat) (x : Space) : (s.setSpace k x).dead = s.dead := rfl
@[simp] theorem State.setSpace_out (s : State) (k : Nat) (x : Space) : (s.setSpace k x).out = s.out := rfl
@[simp] theorem State.setSpace_free (s : State) (k : Nat) (x : Space) : (s.setSpace k x).free = s.free := rfl
@[simp] theorem State.setSpace_eth_notices (s : State) (k : Nat) (x : Space) : (s.setSpace k x).eth.notices = s.eth.notices := rfl
@[simp] theorem State.setSpace_eth_hostSeen (s : State) (k : Nat) (x : Space) : (s.setSpace k x).eth.hostSeen = s.eth.hostSeen := rfl
@[simp] theorem State.setSpace_eth_host (s : State) (k : Nat) (x : Space) : (s.setSpace k x).eth.host = s.eth.host := rfl
@[simp] theorem State.setSpace_eth_mgmtData (s : State) (k : Nat) (x : Space) : (s.setSpace k x).eth.mgmtData = s.eth.mgmtData := rfl
@[simp] theorem State.setSpace_eth_gclNext (s : State) (k : Nat) (x : Space) : (s.setSpace k x).eth.gclNext = s.eth.gclNext := rfl
@[simp] theorem State.setSpace_eth_recov (s : State) (k : Nat) (x : Space) : (s.setSpace k x).eth.recov = s.eth.recov := rfl
@[simp] theorem State.setSpace_eth_rtag (s : State) (k : Nat) (x : Space) : (s.setSpace k x).eth.rtag = s.eth.rtag := rfl
@[simp] theorem State.setRing_pending (s : State) (n k : Nat) (x : List Ev) : (s.setRing n k x).pending = s.pending := rfl
@[simp] theorem State.setRing_fuses (s : State) (n k : Nat) (x : List Ev) : (s.setRing n k x).fuses = s.fuses := rfl
@[simp] theorem State.setRing_reg (s : State) (n k : Nat) (x : List Ev) : (s.setRing n k x).reg = s.reg := rfl
@[simp] theorem State.setRing_mem (s : State) (n k : Nat) (x : List Ev) : (s.setRing n k x).mem = s.mem := rfl
@[simp] theorem State.setRing_cmd (s : State) (n k : Nat) (x : List Ev) : (s.setRing n k x).cmd = s.cmd := rfl
@[simp] theorem State.setRing_core (s : State) (n k : Nat) (x : List Ev) : (s.setRing n k x).core = s.core := rfl
@[simp] theorem State.setRing_sys (s : State) (n k : Nat) (x : List Ev) : (s.setRing n k x).sys = s.sys := rfl
@[simp] theorem State.setRing_cnv (s : State) (n k : Nat) (x : List Ev) : (s.setRing n k x).cnv = s.cnv := rfl
@[simp] theorem State.setRing_syn (s : State) (n k : Nat) (x : List Ev) : (s.setRing n k x).syn = s.syn := rfl
@[simp] theorem State.setRing_fab (s : State) (n k : Nat) (x : List Ev) : (s.setRing n k x).fab = s.fab := rfl
@[simp] theorem State.setRing_eth (s : State) (n k : Nat) (x : List Ev) : (s.setRing n k x).eth = s.eth := rfl
@[simp] theorem State.setRing_gov (s : State) (n k : Nat) (x : List Ev) : (s.setRing n k x).gov = s.gov := rfl
@[simp] theorem State.setRing_ltn (s : State) (n k : Nat) (x : List Ev) : (s.setRing n k x).ltn = s.ltn := rfl
@[simp] theorem State.setRing_kpr (s : State) (n k : Nat) (x : List Ev) : (s.setRing n k x).kpr = s.kpr := rfl
@[simp] theorem State.setRing_irq (s : State) (n k : Nat) (x : List Ev) : (s.setRing n k x).irq = s.irq := rfl
@[simp] theorem State.setRing_tmr (s : State) (n k : Nat) (x : List Ev) : (s.setRing n k x).tmr = s.tmr := rfl
@[simp] theorem State.setRing_sec (s : State) (n k : Nat) (x : List Ev) : (s.setRing n k x).sec = s.sec := rfl
@[simp] theorem State.setRing_ptb (s : State) (n k : Nat) (x : List Ev) : (s.setRing n k x).ptb = s.ptb := rfl
@[simp] theorem State.setRing_dead (s : State) (n k : Nat) (x : List Ev) : (s.setRing n k x).dead = s.dead := rfl
@[simp] theorem State.setRing_out (s : State) (n k : Nat) (x : List Ev) : (s.setRing n k x).out = s.out := rfl
@[simp] theorem State.setRing_free (s : State) (n k : Nat) (x : List Ev) : (s.setRing n k x).free = s.free := rfl
@[simp] theorem State.setRing_rtr_replicas (s : State) (n k : Nat) (x : List Ev) : (s.setRing n k x).rtr.replicas = s.rtr.replicas := rfl
@[simp] theorem State.setRing_rtr_credits (s : State) (n k : Nat) (x : List Ev) : (s.setRing n k x).rtr.credits = s.rtr.credits := rfl
@[simp] theorem State.setRing_rtr_inFlight (s : State) (n k : Nat) (x : List Ev) : (s.setRing n k x).rtr.inFlight = s.rtr.inFlight := rfl
@[simp] theorem State.setRing_rtr_pages (s : State) (n k : Nat) (x : List Ev) : (s.setRing n k x).rtr.pages = s.rtr.pages := rfl
@[simp] theorem State.setRing_rtr_staging (s : State) (n k : Nat) (x : List Ev) : (s.setRing n k x).rtr.staging = s.rtr.staging := rfl
@[simp] theorem State.setRing_rtr_draining (s : State) (n k : Nat) (x : List Ev) : (s.setRing n k x).rtr.draining = s.rtr.draining := rfl
@[simp] theorem State.setRing_rtr_owed (s : State) (n k : Nat) (x : List Ev) : (s.setRing n k x).rtr.owed = s.rtr.owed := rfl
@[simp] theorem State.setRing_rtr_ingress (s : State) (n k : Nat) (x : List Ev) : (s.setRing n k x).rtr.ingress = s.rtr.ingress := rfl
@[simp] theorem State.setPages_pending (s : State) (n k : Nat) (x : RingUse) : (s.setPages n k x).pending = s.pending := rfl
@[simp] theorem State.setPages_fuses (s : State) (n k : Nat) (x : RingUse) : (s.setPages n k x).fuses = s.fuses := rfl
@[simp] theorem State.setPages_reg (s : State) (n k : Nat) (x : RingUse) : (s.setPages n k x).reg = s.reg := rfl
@[simp] theorem State.setPages_mem (s : State) (n k : Nat) (x : RingUse) : (s.setPages n k x).mem = s.mem := rfl
@[simp] theorem State.setPages_cmd (s : State) (n k : Nat) (x : RingUse) : (s.setPages n k x).cmd = s.cmd := rfl
@[simp] theorem State.setPages_core (s : State) (n k : Nat) (x : RingUse) : (s.setPages n k x).core = s.core := rfl
@[simp] theorem State.setPages_sys (s : State) (n k : Nat) (x : RingUse) : (s.setPages n k x).sys = s.sys := rfl
@[simp] theorem State.setPages_cnv (s : State) (n k : Nat) (x : RingUse) : (s.setPages n k x).cnv = s.cnv := rfl
@[simp] theorem State.setPages_syn (s : State) (n k : Nat) (x : RingUse) : (s.setPages n k x).syn = s.syn := rfl
@[simp] theorem State.setPages_fab (s : State) (n k : Nat) (x : RingUse) : (s.setPages n k x).fab = s.fab := rfl
@[simp] theorem State.setPages_eth (s : State) (n k : Nat) (x : RingUse) : (s.setPages n k x).eth = s.eth := rfl
@[simp] theorem State.setPages_gov (s : State) (n k : Nat) (x : RingUse) : (s.setPages n k x).gov = s.gov := rfl
@[simp] theorem State.setPages_ltn (s : State) (n k : Nat) (x : RingUse) : (s.setPages n k x).ltn = s.ltn := rfl
@[simp] theorem State.setPages_kpr (s : State) (n k : Nat) (x : RingUse) : (s.setPages n k x).kpr = s.kpr := rfl
@[simp] theorem State.setPages_irq (s : State) (n k : Nat) (x : RingUse) : (s.setPages n k x).irq = s.irq := rfl
@[simp] theorem State.setPages_tmr (s : State) (n k : Nat) (x : RingUse) : (s.setPages n k x).tmr = s.tmr := rfl
@[simp] theorem State.setPages_sec (s : State) (n k : Nat) (x : RingUse) : (s.setPages n k x).sec = s.sec := rfl
@[simp] theorem State.setPages_ptb (s : State) (n k : Nat) (x : RingUse) : (s.setPages n k x).ptb = s.ptb := rfl
@[simp] theorem State.setPages_dead (s : State) (n k : Nat) (x : RingUse) : (s.setPages n k x).dead = s.dead := rfl
@[simp] theorem State.setPages_out (s : State) (n k : Nat) (x : RingUse) : (s.setPages n k x).out = s.out := rfl
@[simp] theorem State.setPages_free (s : State) (n k : Nat) (x : RingUse) : (s.setPages n k x).free = s.free := rfl
@[simp] theorem State.setPages_rtr_replicas (s : State) (n k : Nat) (x : RingUse) : (s.setPages n k x).rtr.replicas = s.rtr.replicas := rfl
@[simp] theorem State.setPages_rtr_credits (s : State) (n k : Nat) (x : RingUse) : (s.setPages n k x).rtr.credits = s.rtr.credits := rfl
@[simp] theorem State.setPages_rtr_inFlight (s : State) (n k : Nat) (x : RingUse) : (s.setPages n k x).rtr.inFlight = s.rtr.inFlight := rfl
@[simp] theorem State.setPages_rtr_rings (s : State) (n k : Nat) (x : RingUse) : (s.setPages n k x).rtr.rings = s.rtr.rings := rfl
@[simp] theorem State.setPages_rtr_staging (s : State) (n k : Nat) (x : RingUse) : (s.setPages n k x).rtr.staging = s.rtr.staging := rfl
@[simp] theorem State.setPages_rtr_draining (s : State) (n k : Nat) (x : RingUse) : (s.setPages n k x).rtr.draining = s.rtr.draining := rfl
@[simp] theorem State.setPages_rtr_owed (s : State) (n k : Nat) (x : RingUse) : (s.setPages n k x).rtr.owed = s.rtr.owed := rfl
@[simp] theorem State.setPages_rtr_ingress (s : State) (n k : Nat) (x : RingUse) : (s.setPages n k x).rtr.ingress = s.rtr.ingress := rfl
@[simp] theorem State.setUnits_pending (s : State) (n t : Nat) (x : Nat × Nat) : (s.setUnits n t x).pending = s.pending := rfl
@[simp] theorem State.setUnits_fuses (s : State) (n t : Nat) (x : Nat × Nat) : (s.setUnits n t x).fuses = s.fuses := rfl
@[simp] theorem State.setUnits_reg (s : State) (n t : Nat) (x : Nat × Nat) : (s.setUnits n t x).reg = s.reg := rfl
@[simp] theorem State.setUnits_mem (s : State) (n t : Nat) (x : Nat × Nat) : (s.setUnits n t x).mem = s.mem := rfl
@[simp] theorem State.setUnits_cmd (s : State) (n t : Nat) (x : Nat × Nat) : (s.setUnits n t x).cmd = s.cmd := rfl
@[simp] theorem State.setUnits_rtr (s : State) (n t : Nat) (x : Nat × Nat) : (s.setUnits n t x).rtr = s.rtr := rfl
@[simp] theorem State.setUnits_sys (s : State) (n t : Nat) (x : Nat × Nat) : (s.setUnits n t x).sys = s.sys := rfl
@[simp] theorem State.setUnits_cnv (s : State) (n t : Nat) (x : Nat × Nat) : (s.setUnits n t x).cnv = s.cnv := rfl
@[simp] theorem State.setUnits_syn (s : State) (n t : Nat) (x : Nat × Nat) : (s.setUnits n t x).syn = s.syn := rfl
@[simp] theorem State.setUnits_fab (s : State) (n t : Nat) (x : Nat × Nat) : (s.setUnits n t x).fab = s.fab := rfl
@[simp] theorem State.setUnits_eth (s : State) (n t : Nat) (x : Nat × Nat) : (s.setUnits n t x).eth = s.eth := rfl
@[simp] theorem State.setUnits_gov (s : State) (n t : Nat) (x : Nat × Nat) : (s.setUnits n t x).gov = s.gov := rfl
@[simp] theorem State.setUnits_ltn (s : State) (n t : Nat) (x : Nat × Nat) : (s.setUnits n t x).ltn = s.ltn := rfl
@[simp] theorem State.setUnits_kpr (s : State) (n t : Nat) (x : Nat × Nat) : (s.setUnits n t x).kpr = s.kpr := rfl
@[simp] theorem State.setUnits_irq (s : State) (n t : Nat) (x : Nat × Nat) : (s.setUnits n t x).irq = s.irq := rfl
@[simp] theorem State.setUnits_tmr (s : State) (n t : Nat) (x : Nat × Nat) : (s.setUnits n t x).tmr = s.tmr := rfl
@[simp] theorem State.setUnits_sec (s : State) (n t : Nat) (x : Nat × Nat) : (s.setUnits n t x).sec = s.sec := rfl
@[simp] theorem State.setUnits_ptb (s : State) (n t : Nat) (x : Nat × Nat) : (s.setUnits n t x).ptb = s.ptb := rfl
@[simp] theorem State.setUnits_dead (s : State) (n t : Nat) (x : Nat × Nat) : (s.setUnits n t x).dead = s.dead := rfl
@[simp] theorem State.setUnits_out (s : State) (n t : Nat) (x : Nat × Nat) : (s.setUnits n t x).out = s.out := rfl
@[simp] theorem State.setUnits_free (s : State) (n t : Nat) (x : Nat × Nat) : (s.setUnits n t x).free = s.free := rfl
@[simp] theorem State.setUnits_core_cores (s : State) (n t : Nat) (x : Nat × Nat) : (s.setUnits n t x).core.cores = s.core.cores := rfl
@[simp] theorem State.setUnits_core_slots (s : State) (n t : Nat) (x : Nat × Nat) : (s.setUnits n t x).core.slots = s.core.slots := rfl
@[simp] theorem State.setUnits_core_reds (s : State) (n t : Nat) (x : Nat × Nat) : (s.setUnits n t x).core.reds = s.core.reds := rfl
@[simp] theorem State.rset_pending (s : State) (a : Nat) (v : Word) : (s.rset a v).pending = s.pending := rfl
@[simp] theorem State.rset_fuses (s : State) (a : Nat) (v : Word) : (s.rset a v).fuses = s.fuses := rfl
@[simp] theorem State.rset_mem (s : State) (a : Nat) (v : Word) : (s.rset a v).mem = s.mem := rfl
@[simp] theorem State.rset_cmd (s : State) (a : Nat) (v : Word) : (s.rset a v).cmd = s.cmd := rfl
@[simp] theorem State.rset_core (s : State) (a : Nat) (v : Word) : (s.rset a v).core = s.core := rfl
@[simp] theorem State.rset_rtr (s : State) (a : Nat) (v : Word) : (s.rset a v).rtr = s.rtr := rfl
@[simp] theorem State.rset_sys (s : State) (a : Nat) (v : Word) : (s.rset a v).sys = s.sys := rfl
@[simp] theorem State.rset_cnv (s : State) (a : Nat) (v : Word) : (s.rset a v).cnv = s.cnv := rfl
@[simp] theorem State.rset_syn (s : State) (a : Nat) (v : Word) : (s.rset a v).syn = s.syn := rfl
@[simp] theorem State.rset_fab (s : State) (a : Nat) (v : Word) : (s.rset a v).fab = s.fab := rfl
@[simp] theorem State.rset_eth (s : State) (a : Nat) (v : Word) : (s.rset a v).eth = s.eth := rfl
@[simp] theorem State.rset_gov (s : State) (a : Nat) (v : Word) : (s.rset a v).gov = s.gov := rfl
@[simp] theorem State.rset_ltn (s : State) (a : Nat) (v : Word) : (s.rset a v).ltn = s.ltn := rfl
@[simp] theorem State.rset_kpr (s : State) (a : Nat) (v : Word) : (s.rset a v).kpr = s.kpr := rfl
@[simp] theorem State.rset_irq (s : State) (a : Nat) (v : Word) : (s.rset a v).irq = s.irq := rfl
@[simp] theorem State.rset_tmr (s : State) (a : Nat) (v : Word) : (s.rset a v).tmr = s.tmr := rfl
@[simp] theorem State.rset_sec (s : State) (a : Nat) (v : Word) : (s.rset a v).sec = s.sec := rfl
@[simp] theorem State.rset_ptb (s : State) (a : Nat) (v : Word) : (s.rset a v).ptb = s.ptb := rfl
@[simp] theorem State.rset_dead (s : State) (a : Nat) (v : Word) : (s.rset a v).dead = s.dead := rfl
@[simp] theorem State.rset_out (s : State) (a : Nat) (v : Word) : (s.rset a v).out = s.out := rfl
@[simp] theorem State.rset_free (s : State) (a : Nat) (v : Word) : (s.rset a v).free = s.free := rfl
@[simp] theorem State.rset_reg_live (s : State) (a : Nat) (v : Word) : (s.rset a v).reg.live = s.reg.live := rfl
@[simp] theorem State.setLive_pending (s : State) (a : Nat) (v : Word) : (s.setLive a v).pending = s.pending := rfl
@[simp] theorem State.setLive_fuses (s : State) (a : Nat) (v : Word) : (s.setLive a v).fuses = s.fuses := rfl
@[simp] theorem State.setLive_mem (s : State) (a : Nat) (v : Word) : (s.setLive a v).mem = s.mem := rfl
@[simp] theorem State.setLive_cmd (s : State) (a : Nat) (v : Word) : (s.setLive a v).cmd = s.cmd := rfl
@[simp] theorem State.setLive_core (s : State) (a : Nat) (v : Word) : (s.setLive a v).core = s.core := rfl
@[simp] theorem State.setLive_rtr (s : State) (a : Nat) (v : Word) : (s.setLive a v).rtr = s.rtr := rfl
@[simp] theorem State.setLive_sys (s : State) (a : Nat) (v : Word) : (s.setLive a v).sys = s.sys := rfl
@[simp] theorem State.setLive_cnv (s : State) (a : Nat) (v : Word) : (s.setLive a v).cnv = s.cnv := rfl
@[simp] theorem State.setLive_syn (s : State) (a : Nat) (v : Word) : (s.setLive a v).syn = s.syn := rfl
@[simp] theorem State.setLive_fab (s : State) (a : Nat) (v : Word) : (s.setLive a v).fab = s.fab := rfl
@[simp] theorem State.setLive_eth (s : State) (a : Nat) (v : Word) : (s.setLive a v).eth = s.eth := rfl
@[simp] theorem State.setLive_gov (s : State) (a : Nat) (v : Word) : (s.setLive a v).gov = s.gov := rfl
@[simp] theorem State.setLive_ltn (s : State) (a : Nat) (v : Word) : (s.setLive a v).ltn = s.ltn := rfl
@[simp] theorem State.setLive_kpr (s : State) (a : Nat) (v : Word) : (s.setLive a v).kpr = s.kpr := rfl
@[simp] theorem State.setLive_irq (s : State) (a : Nat) (v : Word) : (s.setLive a v).irq = s.irq := rfl
@[simp] theorem State.setLive_tmr (s : State) (a : Nat) (v : Word) : (s.setLive a v).tmr = s.tmr := rfl
@[simp] theorem State.setLive_sec (s : State) (a : Nat) (v : Word) : (s.setLive a v).sec = s.sec := rfl
@[simp] theorem State.setLive_ptb (s : State) (a : Nat) (v : Word) : (s.setLive a v).ptb = s.ptb := rfl
@[simp] theorem State.setLive_dead (s : State) (a : Nat) (v : Word) : (s.setLive a v).dead = s.dead := rfl
@[simp] theorem State.setLive_out (s : State) (a : Nat) (v : Word) : (s.setLive a v).out = s.out := rfl
@[simp] theorem State.setLive_free (s : State) (a : Nat) (v : Word) : (s.setLive a v).free = s.free := rfl
@[simp] theorem State.setLive_reg_vals (s : State) (a : Nat) (v : Word) : (s.setLive a v).reg.vals = s.reg.vals := rfl
@[simp] theorem State.setByte_pending (s : State) (k : Nat) (v : Byte) : (s.setByte k v).pending = s.pending := rfl
@[simp] theorem State.setByte_fuses (s : State) (k : Nat) (v : Byte) : (s.setByte k v).fuses = s.fuses := rfl
@[simp] theorem State.setByte_reg (s : State) (k : Nat) (v : Byte) : (s.setByte k v).reg = s.reg := rfl
@[simp] theorem State.setByte_cmd (s : State) (k : Nat) (v : Byte) : (s.setByte k v).cmd = s.cmd := rfl
@[simp] theorem State.setByte_core (s : State) (k : Nat) (v : Byte) : (s.setByte k v).core = s.core := rfl
@[simp] theorem State.setByte_rtr (s : State) (k : Nat) (v : Byte) : (s.setByte k v).rtr = s.rtr := rfl
@[simp] theorem State.setByte_sys (s : State) (k : Nat) (v : Byte) : (s.setByte k v).sys = s.sys := rfl
@[simp] theorem State.setByte_cnv (s : State) (k : Nat) (v : Byte) : (s.setByte k v).cnv = s.cnv := rfl
@[simp] theorem State.setByte_syn (s : State) (k : Nat) (v : Byte) : (s.setByte k v).syn = s.syn := rfl
@[simp] theorem State.setByte_fab (s : State) (k : Nat) (v : Byte) : (s.setByte k v).fab = s.fab := rfl
@[simp] theorem State.setByte_eth (s : State) (k : Nat) (v : Byte) : (s.setByte k v).eth = s.eth := rfl
@[simp] theorem State.setByte_gov (s : State) (k : Nat) (v : Byte) : (s.setByte k v).gov = s.gov := rfl
@[simp] theorem State.setByte_ltn (s : State) (k : Nat) (v : Byte) : (s.setByte k v).ltn = s.ltn := rfl
@[simp] theorem State.setByte_kpr (s : State) (k : Nat) (v : Byte) : (s.setByte k v).kpr = s.kpr := rfl
@[simp] theorem State.setByte_irq (s : State) (k : Nat) (v : Byte) : (s.setByte k v).irq = s.irq := rfl
@[simp] theorem State.setByte_tmr (s : State) (k : Nat) (v : Byte) : (s.setByte k v).tmr = s.tmr := rfl
@[simp] theorem State.setByte_sec (s : State) (k : Nat) (v : Byte) : (s.setByte k v).sec = s.sec := rfl
@[simp] theorem State.setByte_ptb (s : State) (k : Nat) (v : Byte) : (s.setByte k v).ptb = s.ptb := rfl
@[simp] theorem State.setByte_dead (s : State) (k : Nat) (v : Byte) : (s.setByte k v).dead = s.dead := rfl
@[simp] theorem State.setByte_out (s : State) (k : Nat) (v : Byte) : (s.setByte k v).out = s.out := rfl
@[simp] theorem State.setByte_free (s : State) (k : Nat) (v : Byte) : (s.setByte k v).free = s.free := rfl
@[simp] theorem State.setByte_mem_bad (s : State) (k : Nat) (v : Byte) : (s.setByte k v).mem.bad = s.mem.bad := rfl
@[simp] theorem State.setByte_mem_shadow (s : State) (k : Nat) (v : Byte) : (s.setByte k v).mem.shadow = s.mem.shadow := rfl
@[simp] theorem State.setByte_mem_worn (s : State) (k : Nat) (v : Byte) : (s.setByte k v).mem.worn = s.mem.worn := rfl
@[simp] theorem State.setByte_mem_conv (s : State) (k : Nat) (v : Byte) : (s.setByte k v).mem.conv = s.mem.conv := rfl
@[simp] theorem State.setByte_mem_pointers (s : State) (k : Nat) (v : Byte) : (s.setByte k v).mem.pointers = s.mem.pointers := rfl
@[simp] theorem State.setByte_mem_requests (s : State) (k : Nat) (v : Byte) : (s.setByte k v).mem.requests = s.mem.requests := rfl
@[simp] theorem State.setByte_mem_wiping (s : State) (k : Nat) (v : Byte) : (s.setByte k v).mem.wiping = s.mem.wiping := rfl
@[simp] theorem State.putBytes_pending (s : State) (k : Nat) (v : List Byte) : (s.putBytes k v).pending = s.pending := rfl
@[simp] theorem State.putBytes_fuses (s : State) (k : Nat) (v : List Byte) : (s.putBytes k v).fuses = s.fuses := rfl
@[simp] theorem State.putBytes_reg (s : State) (k : Nat) (v : List Byte) : (s.putBytes k v).reg = s.reg := rfl
@[simp] theorem State.putBytes_cmd (s : State) (k : Nat) (v : List Byte) : (s.putBytes k v).cmd = s.cmd := rfl
@[simp] theorem State.putBytes_core (s : State) (k : Nat) (v : List Byte) : (s.putBytes k v).core = s.core := rfl
@[simp] theorem State.putBytes_rtr (s : State) (k : Nat) (v : List Byte) : (s.putBytes k v).rtr = s.rtr := rfl
@[simp] theorem State.putBytes_sys (s : State) (k : Nat) (v : List Byte) : (s.putBytes k v).sys = s.sys := rfl
@[simp] theorem State.putBytes_cnv (s : State) (k : Nat) (v : List Byte) : (s.putBytes k v).cnv = s.cnv := rfl
@[simp] theorem State.putBytes_syn (s : State) (k : Nat) (v : List Byte) : (s.putBytes k v).syn = s.syn := rfl
@[simp] theorem State.putBytes_fab (s : State) (k : Nat) (v : List Byte) : (s.putBytes k v).fab = s.fab := rfl
@[simp] theorem State.putBytes_eth (s : State) (k : Nat) (v : List Byte) : (s.putBytes k v).eth = s.eth := rfl
@[simp] theorem State.putBytes_gov (s : State) (k : Nat) (v : List Byte) : (s.putBytes k v).gov = s.gov := rfl
@[simp] theorem State.putBytes_ltn (s : State) (k : Nat) (v : List Byte) : (s.putBytes k v).ltn = s.ltn := rfl
@[simp] theorem State.putBytes_kpr (s : State) (k : Nat) (v : List Byte) : (s.putBytes k v).kpr = s.kpr := rfl
@[simp] theorem State.putBytes_irq (s : State) (k : Nat) (v : List Byte) : (s.putBytes k v).irq = s.irq := rfl
@[simp] theorem State.putBytes_tmr (s : State) (k : Nat) (v : List Byte) : (s.putBytes k v).tmr = s.tmr := rfl
@[simp] theorem State.putBytes_sec (s : State) (k : Nat) (v : List Byte) : (s.putBytes k v).sec = s.sec := rfl
@[simp] theorem State.putBytes_ptb (s : State) (k : Nat) (v : List Byte) : (s.putBytes k v).ptb = s.ptb := rfl
@[simp] theorem State.putBytes_dead (s : State) (k : Nat) (v : List Byte) : (s.putBytes k v).dead = s.dead := rfl
@[simp] theorem State.putBytes_out (s : State) (k : Nat) (v : List Byte) : (s.putBytes k v).out = s.out := rfl
@[simp] theorem State.putBytes_free (s : State) (k : Nat) (v : List Byte) : (s.putBytes k v).free = s.free := rfl
@[simp] theorem State.putBytes_mem_shadow (s : State) (k : Nat) (v : List Byte) : (s.putBytes k v).mem.shadow = s.mem.shadow := rfl
@[simp] theorem State.putBytes_mem_worn (s : State) (k : Nat) (v : List Byte) : (s.putBytes k v).mem.worn = s.mem.worn := rfl
@[simp] theorem State.putBytes_mem_conv (s : State) (k : Nat) (v : List Byte) : (s.putBytes k v).mem.conv = s.mem.conv := rfl
@[simp] theorem State.putBytes_mem_pointers (s : State) (k : Nat) (v : List Byte) : (s.putBytes k v).mem.pointers = s.mem.pointers := rfl
@[simp] theorem State.putBytes_mem_requests (s : State) (k : Nat) (v : List Byte) : (s.putBytes k v).mem.requests = s.mem.requests := rfl
@[simp] theorem State.putBytes_mem_wiping (s : State) (k : Nat) (v : List Byte) : (s.putBytes k v).mem.wiping = s.mem.wiping := rfl
@[simp] theorem State.clearRange_pending (s : State) (k n : Nat) : (s.clearRange k n).pending = s.pending := rfl
@[simp] theorem State.clearRange_fuses (s : State) (k n : Nat) : (s.clearRange k n).fuses = s.fuses := rfl
@[simp] theorem State.clearRange_reg (s : State) (k n : Nat) : (s.clearRange k n).reg = s.reg := rfl
@[simp] theorem State.clearRange_cmd (s : State) (k n : Nat) : (s.clearRange k n).cmd = s.cmd := rfl
@[simp] theorem State.clearRange_core (s : State) (k n : Nat) : (s.clearRange k n).core = s.core := rfl
@[simp] theorem State.clearRange_rtr (s : State) (k n : Nat) : (s.clearRange k n).rtr = s.rtr := rfl
@[simp] theorem State.clearRange_sys (s : State) (k n : Nat) : (s.clearRange k n).sys = s.sys := rfl
@[simp] theorem State.clearRange_cnv (s : State) (k n : Nat) : (s.clearRange k n).cnv = s.cnv := rfl
@[simp] theorem State.clearRange_syn (s : State) (k n : Nat) : (s.clearRange k n).syn = s.syn := rfl
@[simp] theorem State.clearRange_fab (s : State) (k n : Nat) : (s.clearRange k n).fab = s.fab := rfl
@[simp] theorem State.clearRange_eth (s : State) (k n : Nat) : (s.clearRange k n).eth = s.eth := rfl
@[simp] theorem State.clearRange_gov (s : State) (k n : Nat) : (s.clearRange k n).gov = s.gov := rfl
@[simp] theorem State.clearRange_ltn (s : State) (k n : Nat) : (s.clearRange k n).ltn = s.ltn := rfl
@[simp] theorem State.clearRange_kpr (s : State) (k n : Nat) : (s.clearRange k n).kpr = s.kpr := rfl
@[simp] theorem State.clearRange_irq (s : State) (k n : Nat) : (s.clearRange k n).irq = s.irq := rfl
@[simp] theorem State.clearRange_tmr (s : State) (k n : Nat) : (s.clearRange k n).tmr = s.tmr := rfl
@[simp] theorem State.clearRange_sec (s : State) (k n : Nat) : (s.clearRange k n).sec = s.sec := rfl
@[simp] theorem State.clearRange_ptb (s : State) (k n : Nat) : (s.clearRange k n).ptb = s.ptb := rfl
@[simp] theorem State.clearRange_dead (s : State) (k n : Nat) : (s.clearRange k n).dead = s.dead := rfl
@[simp] theorem State.clearRange_out (s : State) (k n : Nat) : (s.clearRange k n).out = s.out := rfl
@[simp] theorem State.clearRange_free (s : State) (k n : Nat) : (s.clearRange k n).free = s.free := rfl
@[simp] theorem State.clearRange_mem_shadow (s : State) (k n : Nat) : (s.clearRange k n).mem.shadow = s.mem.shadow := rfl
@[simp] theorem State.clearRange_mem_worn (s : State) (k n : Nat) : (s.clearRange k n).mem.worn = s.mem.worn := rfl
@[simp] theorem State.clearRange_mem_conv (s : State) (k n : Nat) : (s.clearRange k n).mem.conv = s.mem.conv := rfl
@[simp] theorem State.clearRange_mem_pointers (s : State) (k n : Nat) : (s.clearRange k n).mem.pointers = s.mem.pointers := rfl
@[simp] theorem State.clearRange_mem_requests (s : State) (k n : Nat) : (s.clearRange k n).mem.requests = s.mem.requests := rfl
@[simp] theorem State.clearRange_mem_wiping (s : State) (k n : Nat) : (s.clearRange k n).mem.wiping = s.mem.wiping := rfl
@[simp] theorem State.send_pending (s : State) (o : Out) : (s.send o).pending = s.pending := rfl
@[simp] theorem State.send_fuses (s : State) (o : Out) : (s.send o).fuses = s.fuses := rfl
@[simp] theorem State.send_reg (s : State) (o : Out) : (s.send o).reg = s.reg := rfl
@[simp] theorem State.send_mem (s : State) (o : Out) : (s.send o).mem = s.mem := rfl
@[simp] theorem State.send_cmd (s : State) (o : Out) : (s.send o).cmd = s.cmd := rfl
@[simp] theorem State.send_core (s : State) (o : Out) : (s.send o).core = s.core := rfl
@[simp] theorem State.send_rtr (s : State) (o : Out) : (s.send o).rtr = s.rtr := rfl
@[simp] theorem State.send_sys (s : State) (o : Out) : (s.send o).sys = s.sys := rfl
@[simp] theorem State.send_cnv (s : State) (o : Out) : (s.send o).cnv = s.cnv := rfl
@[simp] theorem State.send_syn (s : State) (o : Out) : (s.send o).syn = s.syn := rfl
@[simp] theorem State.send_fab (s : State) (o : Out) : (s.send o).fab = s.fab := rfl
@[simp] theorem State.send_eth (s : State) (o : Out) : (s.send o).eth = s.eth := rfl
@[simp] theorem State.send_gov (s : State) (o : Out) : (s.send o).gov = s.gov := rfl
@[simp] theorem State.send_ltn (s : State) (o : Out) : (s.send o).ltn = s.ltn := rfl
@[simp] theorem State.send_kpr (s : State) (o : Out) : (s.send o).kpr = s.kpr := rfl
@[simp] theorem State.send_irq (s : State) (o : Out) : (s.send o).irq = s.irq := rfl
@[simp] theorem State.send_tmr (s : State) (o : Out) : (s.send o).tmr = s.tmr := rfl
@[simp] theorem State.send_sec (s : State) (o : Out) : (s.send o).sec = s.sec := rfl
@[simp] theorem State.send_ptb (s : State) (o : Out) : (s.send o).ptb = s.ptb := rfl
@[simp] theorem State.send_dead (s : State) (o : Out) : (s.send o).dead = s.dead := rfl
@[simp] theorem State.send_free (s : State) (o : Out) : (s.send o).free = s.free := rfl
@[simp] theorem State.sendAll_pending (s : State) (l : List Out) : (s.sendAll l).pending = s.pending := rfl
@[simp] theorem State.sendAll_fuses (s : State) (l : List Out) : (s.sendAll l).fuses = s.fuses := rfl
@[simp] theorem State.sendAll_reg (s : State) (l : List Out) : (s.sendAll l).reg = s.reg := rfl
@[simp] theorem State.sendAll_mem (s : State) (l : List Out) : (s.sendAll l).mem = s.mem := rfl
@[simp] theorem State.sendAll_cmd (s : State) (l : List Out) : (s.sendAll l).cmd = s.cmd := rfl
@[simp] theorem State.sendAll_core (s : State) (l : List Out) : (s.sendAll l).core = s.core := rfl
@[simp] theorem State.sendAll_rtr (s : State) (l : List Out) : (s.sendAll l).rtr = s.rtr := rfl
@[simp] theorem State.sendAll_sys (s : State) (l : List Out) : (s.sendAll l).sys = s.sys := rfl
@[simp] theorem State.sendAll_cnv (s : State) (l : List Out) : (s.sendAll l).cnv = s.cnv := rfl
@[simp] theorem State.sendAll_syn (s : State) (l : List Out) : (s.sendAll l).syn = s.syn := rfl
@[simp] theorem State.sendAll_fab (s : State) (l : List Out) : (s.sendAll l).fab = s.fab := rfl
@[simp] theorem State.sendAll_eth (s : State) (l : List Out) : (s.sendAll l).eth = s.eth := rfl
@[simp] theorem State.sendAll_gov (s : State) (l : List Out) : (s.sendAll l).gov = s.gov := rfl
@[simp] theorem State.sendAll_ltn (s : State) (l : List Out) : (s.sendAll l).ltn = s.ltn := rfl
@[simp] theorem State.sendAll_kpr (s : State) (l : List Out) : (s.sendAll l).kpr = s.kpr := rfl
@[simp] theorem State.sendAll_irq (s : State) (l : List Out) : (s.sendAll l).irq = s.irq := rfl
@[simp] theorem State.sendAll_tmr (s : State) (l : List Out) : (s.sendAll l).tmr = s.tmr := rfl
@[simp] theorem State.sendAll_sec (s : State) (l : List Out) : (s.sendAll l).sec = s.sec := rfl
@[simp] theorem State.sendAll_ptb (s : State) (l : List Out) : (s.sendAll l).ptb = s.ptb := rfl
@[simp] theorem State.sendAll_dead (s : State) (l : List Out) : (s.sendAll l).dead = s.dead := rfl
@[simp] theorem State.sendAll_free (s : State) (l : List Out) : (s.sendAll l).free = s.free := rfl

/-! ## Accessors across updates of other tables -/

@[simp] theorem State.ctx_setBnd (s : State) (b : Nat) (x : Binding) (i : Nat) : (s.setBnd b x).ctx i = s.ctx i := rfl
@[simp] theorem State.ctx_setStrm (s : State) (n : Nat) (x : Stream) (i : Nat) : (s.setStrm n x).ctx i = s.ctx i := rfl
@[simp] theorem State.ctx_setCor (s : State) (n : Nat) (x : Core) (i : Nat) : (s.setCor n x).ctx i = s.ctx i := rfl
@[simp] theorem State.ctx_setSlot (s : State) (n t : Nat) (x : Slot) (i : Nat) : (s.setSlot n t x).ctx i = s.ctx i := rfl
@[simp] theorem State.ctx_setRed (s : State) (n m : Nat) (x : Reduction) (i : Nat) : (s.setRed n m x).ctx i = s.ctx i := rfl
@[simp] theorem State.ctx_setChan (s : State) (k : Nat) (x : Chan) (i : Nat) : (s.setChan k x).ctx i = s.ctx i := rfl
@[simp] theorem State.ctx_setInst (s : State) (k c : Nat) (x : Inst) (i : Nat) : (s.setInst k c x).ctx i = s.ctx i := rfl
@[simp] theorem State.ctx_setAct (s : State) (f : Nat) (x : ActFrame) (i : Nat) : (s.setAct f x).ctx i = s.ctx i := rfl
@[simp] theorem State.ctx_setBuoy (s : State) (k : Nat) (v : BitVec 31) (i : Nat) : (s.setBuoy k v).ctx i = s.ctx i := rfl
@[simp] theorem State.ctx_setQueue (s : State) (q : Nat) (x : Queue) (i : Nat) : (s.setQueue q x).ctx i = s.ctx i := rfl
@[simp] theorem State.ctx_setWriter (s : State) (d q : Nat) (x : Writer) (i : Nat) : (s.setWriter d q x).ctx i = s.ctx i := rfl
@[simp] theorem State.ctx_setLink (s : State) (l : Nat) (x : Link) (i : Nat) : (s.setLink l x).ctx i = s.ctx i := rfl
@[simp] theorem State.ctx_setE2e (s : State) (d v : Nat) (x : E2E) (i : Nat) : (s.setE2e d v x).ctx i = s.ctx i := rfl
@[simp] theorem State.ctx_setCirc (s : State) (c : Nat) (x : Circuit) (i : Nat) : (s.setCirc c x).ctx i = s.ctx i := rfl
@[simp] theorem State.ctx_setTimer (s : State) (n : Nat) (x : Timer) (i : Nat) : (s.setTimer n x).ctx i = s.ctx i := rfl
@[simp] theorem State.ctx_setSpace (s : State) (k : Nat) (x : Space) (i : Nat) : (s.setSpace k x).ctx i = s.ctx i := rfl
@[simp] theorem State.ctx_setRing (s : State) (n k : Nat) (x : List Ev) (i : Nat) : (s.setRing n k x).ctx i = s.ctx i := rfl
@[simp] theorem State.ctx_setPages (s : State) (n k : Nat) (x : RingUse) (i : Nat) : (s.setPages n k x).ctx i = s.ctx i := rfl
@[simp] theorem State.ctx_setUnits (s : State) (n t : Nat) (x : Nat × Nat) (i : Nat) : (s.setUnits n t x).ctx i = s.ctx i := rfl
@[simp] theorem State.ctx_rset (s : State) (a : Nat) (v : Word) (i : Nat) : (s.rset a v).ctx i = s.ctx i := rfl
@[simp] theorem State.ctx_setLive (s : State) (a : Nat) (v : Word) (i : Nat) : (s.setLive a v).ctx i = s.ctx i := rfl
@[simp] theorem State.ctx_setByte (s : State) (k : Nat) (v : Byte) (i : Nat) : (s.setByte k v).ctx i = s.ctx i := rfl
@[simp] theorem State.ctx_putBytes (s : State) (k : Nat) (v : List Byte) (i : Nat) : (s.putBytes k v).ctx i = s.ctx i := rfl
@[simp] theorem State.ctx_clearRange (s : State) (k n : Nat) (i : Nat) : (s.clearRange k n).ctx i = s.ctx i := rfl
@[simp] theorem State.ctx_send (s : State) (o : Out) (i : Nat) : (s.send o).ctx i = s.ctx i := rfl
@[simp] theorem State.ctx_sendAll (s : State) (l : List Out) (i : Nat) : (s.sendAll l).ctx i = s.ctx i := rfl
@[simp] theorem State.bnd_setCtx (s : State) (c : Nat) (x : Ctx) (i : Nat) : (s.setCtx c x).bnd i = s.bnd i := rfl
@[simp] theorem State.bnd_setStrm (s : State) (n : Nat) (x : Stream) (i : Nat) : (s.setStrm n x).bnd i = s.bnd i := rfl
@[simp] theorem State.bnd_setCor (s : State) (n : Nat) (x : Core) (i : Nat) : (s.setCor n x).bnd i = s.bnd i := rfl
@[simp] theorem State.bnd_setSlot (s : State) (n t : Nat) (x : Slot) (i : Nat) : (s.setSlot n t x).bnd i = s.bnd i := rfl
@[simp] theorem State.bnd_setRed (s : State) (n m : Nat) (x : Reduction) (i : Nat) : (s.setRed n m x).bnd i = s.bnd i := rfl
@[simp] theorem State.bnd_setChan (s : State) (k : Nat) (x : Chan) (i : Nat) : (s.setChan k x).bnd i = s.bnd i := rfl
@[simp] theorem State.bnd_setInst (s : State) (k c : Nat) (x : Inst) (i : Nat) : (s.setInst k c x).bnd i = s.bnd i := rfl
@[simp] theorem State.bnd_setAct (s : State) (f : Nat) (x : ActFrame) (i : Nat) : (s.setAct f x).bnd i = s.bnd i := rfl
@[simp] theorem State.bnd_setBuoy (s : State) (k : Nat) (v : BitVec 31) (i : Nat) : (s.setBuoy k v).bnd i = s.bnd i := rfl
@[simp] theorem State.bnd_setQueue (s : State) (q : Nat) (x : Queue) (i : Nat) : (s.setQueue q x).bnd i = s.bnd i := rfl
@[simp] theorem State.bnd_setWriter (s : State) (d q : Nat) (x : Writer) (i : Nat) : (s.setWriter d q x).bnd i = s.bnd i := rfl
@[simp] theorem State.bnd_setLink (s : State) (l : Nat) (x : Link) (i : Nat) : (s.setLink l x).bnd i = s.bnd i := rfl
@[simp] theorem State.bnd_setE2e (s : State) (d v : Nat) (x : E2E) (i : Nat) : (s.setE2e d v x).bnd i = s.bnd i := rfl
@[simp] theorem State.bnd_setCirc (s : State) (c : Nat) (x : Circuit) (i : Nat) : (s.setCirc c x).bnd i = s.bnd i := rfl
@[simp] theorem State.bnd_setTimer (s : State) (n : Nat) (x : Timer) (i : Nat) : (s.setTimer n x).bnd i = s.bnd i := rfl
@[simp] theorem State.bnd_setSpace (s : State) (k : Nat) (x : Space) (i : Nat) : (s.setSpace k x).bnd i = s.bnd i := rfl
@[simp] theorem State.bnd_setRing (s : State) (n k : Nat) (x : List Ev) (i : Nat) : (s.setRing n k x).bnd i = s.bnd i := rfl
@[simp] theorem State.bnd_setPages (s : State) (n k : Nat) (x : RingUse) (i : Nat) : (s.setPages n k x).bnd i = s.bnd i := rfl
@[simp] theorem State.bnd_setUnits (s : State) (n t : Nat) (x : Nat × Nat) (i : Nat) : (s.setUnits n t x).bnd i = s.bnd i := rfl
@[simp] theorem State.bnd_rset (s : State) (a : Nat) (v : Word) (i : Nat) : (s.rset a v).bnd i = s.bnd i := rfl
@[simp] theorem State.bnd_setLive (s : State) (a : Nat) (v : Word) (i : Nat) : (s.setLive a v).bnd i = s.bnd i := rfl
@[simp] theorem State.bnd_setByte (s : State) (k : Nat) (v : Byte) (i : Nat) : (s.setByte k v).bnd i = s.bnd i := rfl
@[simp] theorem State.bnd_putBytes (s : State) (k : Nat) (v : List Byte) (i : Nat) : (s.putBytes k v).bnd i = s.bnd i := rfl
@[simp] theorem State.bnd_clearRange (s : State) (k n : Nat) (i : Nat) : (s.clearRange k n).bnd i = s.bnd i := rfl
@[simp] theorem State.bnd_send (s : State) (o : Out) (i : Nat) : (s.send o).bnd i = s.bnd i := rfl
@[simp] theorem State.bnd_sendAll (s : State) (l : List Out) (i : Nat) : (s.sendAll l).bnd i = s.bnd i := rfl
@[simp] theorem State.strm_setCtx (s : State) (c : Nat) (x : Ctx) (i : Nat) : (s.setCtx c x).strm i = s.strm i := rfl
@[simp] theorem State.strm_setBnd (s : State) (b : Nat) (x : Binding) (i : Nat) : (s.setBnd b x).strm i = s.strm i := rfl
@[simp] theorem State.strm_setCor (s : State) (n : Nat) (x : Core) (i : Nat) : (s.setCor n x).strm i = s.strm i := rfl
@[simp] theorem State.strm_setSlot (s : State) (n t : Nat) (x : Slot) (i : Nat) : (s.setSlot n t x).strm i = s.strm i := rfl
@[simp] theorem State.strm_setRed (s : State) (n m : Nat) (x : Reduction) (i : Nat) : (s.setRed n m x).strm i = s.strm i := rfl
@[simp] theorem State.strm_setChan (s : State) (k : Nat) (x : Chan) (i : Nat) : (s.setChan k x).strm i = s.strm i := rfl
@[simp] theorem State.strm_setInst (s : State) (k c : Nat) (x : Inst) (i : Nat) : (s.setInst k c x).strm i = s.strm i := rfl
@[simp] theorem State.strm_setAct (s : State) (f : Nat) (x : ActFrame) (i : Nat) : (s.setAct f x).strm i = s.strm i := rfl
@[simp] theorem State.strm_setBuoy (s : State) (k : Nat) (v : BitVec 31) (i : Nat) : (s.setBuoy k v).strm i = s.strm i := rfl
@[simp] theorem State.strm_setQueue (s : State) (q : Nat) (x : Queue) (i : Nat) : (s.setQueue q x).strm i = s.strm i := rfl
@[simp] theorem State.strm_setWriter (s : State) (d q : Nat) (x : Writer) (i : Nat) : (s.setWriter d q x).strm i = s.strm i := rfl
@[simp] theorem State.strm_setLink (s : State) (l : Nat) (x : Link) (i : Nat) : (s.setLink l x).strm i = s.strm i := rfl
@[simp] theorem State.strm_setE2e (s : State) (d v : Nat) (x : E2E) (i : Nat) : (s.setE2e d v x).strm i = s.strm i := rfl
@[simp] theorem State.strm_setCirc (s : State) (c : Nat) (x : Circuit) (i : Nat) : (s.setCirc c x).strm i = s.strm i := rfl
@[simp] theorem State.strm_setTimer (s : State) (n : Nat) (x : Timer) (i : Nat) : (s.setTimer n x).strm i = s.strm i := rfl
@[simp] theorem State.strm_setSpace (s : State) (k : Nat) (x : Space) (i : Nat) : (s.setSpace k x).strm i = s.strm i := rfl
@[simp] theorem State.strm_setRing (s : State) (n k : Nat) (x : List Ev) (i : Nat) : (s.setRing n k x).strm i = s.strm i := rfl
@[simp] theorem State.strm_setPages (s : State) (n k : Nat) (x : RingUse) (i : Nat) : (s.setPages n k x).strm i = s.strm i := rfl
@[simp] theorem State.strm_setUnits (s : State) (n t : Nat) (x : Nat × Nat) (i : Nat) : (s.setUnits n t x).strm i = s.strm i := rfl
@[simp] theorem State.strm_rset (s : State) (a : Nat) (v : Word) (i : Nat) : (s.rset a v).strm i = s.strm i := rfl
@[simp] theorem State.strm_setLive (s : State) (a : Nat) (v : Word) (i : Nat) : (s.setLive a v).strm i = s.strm i := rfl
@[simp] theorem State.strm_setByte (s : State) (k : Nat) (v : Byte) (i : Nat) : (s.setByte k v).strm i = s.strm i := rfl
@[simp] theorem State.strm_putBytes (s : State) (k : Nat) (v : List Byte) (i : Nat) : (s.putBytes k v).strm i = s.strm i := rfl
@[simp] theorem State.strm_clearRange (s : State) (k n : Nat) (i : Nat) : (s.clearRange k n).strm i = s.strm i := rfl
@[simp] theorem State.strm_send (s : State) (o : Out) (i : Nat) : (s.send o).strm i = s.strm i := rfl
@[simp] theorem State.strm_sendAll (s : State) (l : List Out) (i : Nat) : (s.sendAll l).strm i = s.strm i := rfl
@[simp] theorem State.cor_setCtx (s : State) (c : Nat) (x : Ctx) (i : Nat) : (s.setCtx c x).cor i = s.cor i := rfl
@[simp] theorem State.cor_setBnd (s : State) (b : Nat) (x : Binding) (i : Nat) : (s.setBnd b x).cor i = s.cor i := rfl
@[simp] theorem State.cor_setStrm (s : State) (n : Nat) (x : Stream) (i : Nat) : (s.setStrm n x).cor i = s.cor i := rfl
@[simp] theorem State.cor_setSlot (s : State) (n t : Nat) (x : Slot) (i : Nat) : (s.setSlot n t x).cor i = s.cor i := rfl
@[simp] theorem State.cor_setRed (s : State) (n m : Nat) (x : Reduction) (i : Nat) : (s.setRed n m x).cor i = s.cor i := rfl
@[simp] theorem State.cor_setChan (s : State) (k : Nat) (x : Chan) (i : Nat) : (s.setChan k x).cor i = s.cor i := rfl
@[simp] theorem State.cor_setInst (s : State) (k c : Nat) (x : Inst) (i : Nat) : (s.setInst k c x).cor i = s.cor i := rfl
@[simp] theorem State.cor_setAct (s : State) (f : Nat) (x : ActFrame) (i : Nat) : (s.setAct f x).cor i = s.cor i := rfl
@[simp] theorem State.cor_setBuoy (s : State) (k : Nat) (v : BitVec 31) (i : Nat) : (s.setBuoy k v).cor i = s.cor i := rfl
@[simp] theorem State.cor_setQueue (s : State) (q : Nat) (x : Queue) (i : Nat) : (s.setQueue q x).cor i = s.cor i := rfl
@[simp] theorem State.cor_setWriter (s : State) (d q : Nat) (x : Writer) (i : Nat) : (s.setWriter d q x).cor i = s.cor i := rfl
@[simp] theorem State.cor_setLink (s : State) (l : Nat) (x : Link) (i : Nat) : (s.setLink l x).cor i = s.cor i := rfl
@[simp] theorem State.cor_setE2e (s : State) (d v : Nat) (x : E2E) (i : Nat) : (s.setE2e d v x).cor i = s.cor i := rfl
@[simp] theorem State.cor_setCirc (s : State) (c : Nat) (x : Circuit) (i : Nat) : (s.setCirc c x).cor i = s.cor i := rfl
@[simp] theorem State.cor_setTimer (s : State) (n : Nat) (x : Timer) (i : Nat) : (s.setTimer n x).cor i = s.cor i := rfl
@[simp] theorem State.cor_setSpace (s : State) (k : Nat) (x : Space) (i : Nat) : (s.setSpace k x).cor i = s.cor i := rfl
@[simp] theorem State.cor_setRing (s : State) (n k : Nat) (x : List Ev) (i : Nat) : (s.setRing n k x).cor i = s.cor i := rfl
@[simp] theorem State.cor_setPages (s : State) (n k : Nat) (x : RingUse) (i : Nat) : (s.setPages n k x).cor i = s.cor i := rfl
@[simp] theorem State.cor_setUnits (s : State) (n t : Nat) (x : Nat × Nat) (i : Nat) : (s.setUnits n t x).cor i = s.cor i := rfl
@[simp] theorem State.cor_rset (s : State) (a : Nat) (v : Word) (i : Nat) : (s.rset a v).cor i = s.cor i := rfl
@[simp] theorem State.cor_setLive (s : State) (a : Nat) (v : Word) (i : Nat) : (s.setLive a v).cor i = s.cor i := rfl
@[simp] theorem State.cor_setByte (s : State) (k : Nat) (v : Byte) (i : Nat) : (s.setByte k v).cor i = s.cor i := rfl
@[simp] theorem State.cor_putBytes (s : State) (k : Nat) (v : List Byte) (i : Nat) : (s.putBytes k v).cor i = s.cor i := rfl
@[simp] theorem State.cor_clearRange (s : State) (k n : Nat) (i : Nat) : (s.clearRange k n).cor i = s.cor i := rfl
@[simp] theorem State.cor_send (s : State) (o : Out) (i : Nat) : (s.send o).cor i = s.cor i := rfl
@[simp] theorem State.cor_sendAll (s : State) (l : List Out) (i : Nat) : (s.sendAll l).cor i = s.cor i := rfl
@[simp] theorem State.rget_setCtx (s : State) (c : Nat) (x : Ctx) (i : Nat) : (s.setCtx c x).rget i = s.rget i := rfl
@[simp] theorem State.rget_setBnd (s : State) (b : Nat) (x : Binding) (i : Nat) : (s.setBnd b x).rget i = s.rget i := rfl
@[simp] theorem State.rget_setStrm (s : State) (n : Nat) (x : Stream) (i : Nat) : (s.setStrm n x).rget i = s.rget i := rfl
@[simp] theorem State.rget_setCor (s : State) (n : Nat) (x : Core) (i : Nat) : (s.setCor n x).rget i = s.rget i := rfl
@[simp] theorem State.rget_setSlot (s : State) (n t : Nat) (x : Slot) (i : Nat) : (s.setSlot n t x).rget i = s.rget i := rfl
@[simp] theorem State.rget_setRed (s : State) (n m : Nat) (x : Reduction) (i : Nat) : (s.setRed n m x).rget i = s.rget i := rfl
@[simp] theorem State.rget_setChan (s : State) (k : Nat) (x : Chan) (i : Nat) : (s.setChan k x).rget i = s.rget i := rfl
@[simp] theorem State.rget_setInst (s : State) (k c : Nat) (x : Inst) (i : Nat) : (s.setInst k c x).rget i = s.rget i := rfl
@[simp] theorem State.rget_setAct (s : State) (f : Nat) (x : ActFrame) (i : Nat) : (s.setAct f x).rget i = s.rget i := rfl
@[simp] theorem State.rget_setBuoy (s : State) (k : Nat) (v : BitVec 31) (i : Nat) : (s.setBuoy k v).rget i = s.rget i := rfl
@[simp] theorem State.rget_setQueue (s : State) (q : Nat) (x : Queue) (i : Nat) : (s.setQueue q x).rget i = s.rget i := rfl
@[simp] theorem State.rget_setWriter (s : State) (d q : Nat) (x : Writer) (i : Nat) : (s.setWriter d q x).rget i = s.rget i := rfl
@[simp] theorem State.rget_setLink (s : State) (l : Nat) (x : Link) (i : Nat) : (s.setLink l x).rget i = s.rget i := rfl
@[simp] theorem State.rget_setE2e (s : State) (d v : Nat) (x : E2E) (i : Nat) : (s.setE2e d v x).rget i = s.rget i := rfl
@[simp] theorem State.rget_setCirc (s : State) (c : Nat) (x : Circuit) (i : Nat) : (s.setCirc c x).rget i = s.rget i := rfl
@[simp] theorem State.rget_setTimer (s : State) (n : Nat) (x : Timer) (i : Nat) : (s.setTimer n x).rget i = s.rget i := rfl
@[simp] theorem State.rget_setSpace (s : State) (k : Nat) (x : Space) (i : Nat) : (s.setSpace k x).rget i = s.rget i := rfl
@[simp] theorem State.rget_setRing (s : State) (n k : Nat) (x : List Ev) (i : Nat) : (s.setRing n k x).rget i = s.rget i := rfl
@[simp] theorem State.rget_setPages (s : State) (n k : Nat) (x : RingUse) (i : Nat) : (s.setPages n k x).rget i = s.rget i := rfl
@[simp] theorem State.rget_setUnits (s : State) (n t : Nat) (x : Nat × Nat) (i : Nat) : (s.setUnits n t x).rget i = s.rget i := rfl
@[simp] theorem State.rget_setLive (s : State) (a : Nat) (v : Word) (i : Nat) : (s.setLive a v).rget i = s.rget i := rfl
@[simp] theorem State.rget_setByte (s : State) (k : Nat) (v : Byte) (i : Nat) : (s.setByte k v).rget i = s.rget i := rfl
@[simp] theorem State.rget_putBytes (s : State) (k : Nat) (v : List Byte) (i : Nat) : (s.putBytes k v).rget i = s.rget i := rfl
@[simp] theorem State.rget_clearRange (s : State) (k n : Nat) (i : Nat) : (s.clearRange k n).rget i = s.rget i := rfl
@[simp] theorem State.rget_send (s : State) (o : Out) (i : Nat) : (s.send o).rget i = s.rget i := rfl
@[simp] theorem State.rget_sendAll (s : State) (l : List Out) (i : Nat) : (s.sendAll l).rget i = s.rget i := rfl
@[simp] theorem State.byteAt_setCtx (s : State) (c : Nat) (x : Ctx) (i : Nat) : (s.setCtx c x).byteAt i = s.byteAt i := rfl
@[simp] theorem State.byteAt_setBnd (s : State) (b : Nat) (x : Binding) (i : Nat) : (s.setBnd b x).byteAt i = s.byteAt i := rfl
@[simp] theorem State.byteAt_setStrm (s : State) (n : Nat) (x : Stream) (i : Nat) : (s.setStrm n x).byteAt i = s.byteAt i := rfl
@[simp] theorem State.byteAt_setCor (s : State) (n : Nat) (x : Core) (i : Nat) : (s.setCor n x).byteAt i = s.byteAt i := rfl
@[simp] theorem State.byteAt_setSlot (s : State) (n t : Nat) (x : Slot) (i : Nat) : (s.setSlot n t x).byteAt i = s.byteAt i := rfl
@[simp] theorem State.byteAt_setRed (s : State) (n m : Nat) (x : Reduction) (i : Nat) : (s.setRed n m x).byteAt i = s.byteAt i := rfl
@[simp] theorem State.byteAt_setChan (s : State) (k : Nat) (x : Chan) (i : Nat) : (s.setChan k x).byteAt i = s.byteAt i := rfl
@[simp] theorem State.byteAt_setInst (s : State) (k c : Nat) (x : Inst) (i : Nat) : (s.setInst k c x).byteAt i = s.byteAt i := rfl
@[simp] theorem State.byteAt_setAct (s : State) (f : Nat) (x : ActFrame) (i : Nat) : (s.setAct f x).byteAt i = s.byteAt i := rfl
@[simp] theorem State.byteAt_setBuoy (s : State) (k : Nat) (v : BitVec 31) (i : Nat) : (s.setBuoy k v).byteAt i = s.byteAt i := rfl
@[simp] theorem State.byteAt_setQueue (s : State) (q : Nat) (x : Queue) (i : Nat) : (s.setQueue q x).byteAt i = s.byteAt i := rfl
@[simp] theorem State.byteAt_setWriter (s : State) (d q : Nat) (x : Writer) (i : Nat) : (s.setWriter d q x).byteAt i = s.byteAt i := rfl
@[simp] theorem State.byteAt_setLink (s : State) (l : Nat) (x : Link) (i : Nat) : (s.setLink l x).byteAt i = s.byteAt i := rfl
@[simp] theorem State.byteAt_setE2e (s : State) (d v : Nat) (x : E2E) (i : Nat) : (s.setE2e d v x).byteAt i = s.byteAt i := rfl
@[simp] theorem State.byteAt_setCirc (s : State) (c : Nat) (x : Circuit) (i : Nat) : (s.setCirc c x).byteAt i = s.byteAt i := rfl
@[simp] theorem State.byteAt_setTimer (s : State) (n : Nat) (x : Timer) (i : Nat) : (s.setTimer n x).byteAt i = s.byteAt i := rfl
@[simp] theorem State.byteAt_setSpace (s : State) (k : Nat) (x : Space) (i : Nat) : (s.setSpace k x).byteAt i = s.byteAt i := rfl
@[simp] theorem State.byteAt_setRing (s : State) (n k : Nat) (x : List Ev) (i : Nat) : (s.setRing n k x).byteAt i = s.byteAt i := rfl
@[simp] theorem State.byteAt_setPages (s : State) (n k : Nat) (x : RingUse) (i : Nat) : (s.setPages n k x).byteAt i = s.byteAt i := rfl
@[simp] theorem State.byteAt_setUnits (s : State) (n t : Nat) (x : Nat × Nat) (i : Nat) : (s.setUnits n t x).byteAt i = s.byteAt i := rfl
@[simp] theorem State.byteAt_rset (s : State) (a : Nat) (v : Word) (i : Nat) : (s.rset a v).byteAt i = s.byteAt i := rfl
@[simp] theorem State.byteAt_setLive (s : State) (a : Nat) (v : Word) (i : Nat) : (s.setLive a v).byteAt i = s.byteAt i := rfl
@[simp] theorem State.byteAt_send (s : State) (o : Out) (i : Nat) : (s.send o).byteAt i = s.byteAt i := rfl
@[simp] theorem State.byteAt_sendAll (s : State) (l : List Out) (i : Nat) : (s.sendAll l).byteAt i = s.byteAt i := rfl

/-! ## An accessor after its own update, in a canonical table -/

theorem State.ctx_setCtx_same {s : State} (h : Tab.wf (fun _ => Ctx.empty) s.cmd.ctxs) (k : Nat) (x : Ctx) : (s.setCtx k x).ctx k = x :=
  Tab.get_set_same h k x
theorem State.ctx_setCtx_other {s : State} (h : Tab.wf (fun _ => Ctx.empty) s.cmd.ctxs) {k i : Nat} (x : Ctx) (hi : i ≠ k) :
    (s.setCtx k x).ctx i = s.ctx i :=
  Tab.get_set_other h x hi
theorem State.bnd_setBnd_same {s : State} (h : Tab.wf (fun _ => Binding.empty) s.cmd.bindings) (k : Nat) (x : Binding) : (s.setBnd k x).bnd k = x :=
  Tab.get_set_same h k x
theorem State.bnd_setBnd_other {s : State} (h : Tab.wf (fun _ => Binding.empty) s.cmd.bindings) {k i : Nat} (x : Binding) (hi : i ≠ k) :
    (s.setBnd k x).bnd i = s.bnd i :=
  Tab.get_set_other h x hi
theorem State.strm_setStrm_same {s : State} (h : Tab.wf (fun _ => Stream.empty) s.cmd.streams) (k : Nat) (x : Stream) : (s.setStrm k x).strm k = x :=
  Tab.get_set_same h k x
theorem State.strm_setStrm_other {s : State} (h : Tab.wf (fun _ => Stream.empty) s.cmd.streams) {k i : Nat} (x : Stream) (hi : i ≠ k) :
    (s.setStrm k x).strm i = s.strm i :=
  Tab.get_set_other h x hi
theorem State.cor_setCor_same {s : State} (h : Tab.wf (fun _ => Core.empty) s.core.cores) (k : Nat) (x : Core) : (s.setCor k x).cor k = x :=
  Tab.get_set_same h k x
theorem State.cor_setCor_other {s : State} (h : Tab.wf (fun _ => Core.empty) s.core.cores) {k i : Nat} (x : Core) (hi : i ≠ k) :
    (s.setCor k x).cor i = s.cor i :=
  Tab.get_set_other h x hi
theorem State.chan_setChan_same {s : State} (h : Tab.wf (fun _ => Chan.empty) s.cnv.chans) (k : Nat) (x : Chan) : (s.setChan k x).chan k = x :=
  Tab.get_set_same h k x
theorem State.chan_setChan_other {s : State} (h : Tab.wf (fun _ => Chan.empty) s.cnv.chans) {k i : Nat} (x : Chan) (hi : i ≠ k) :
    (s.setChan k x).chan i = s.chan i :=
  Tab.get_set_other h x hi
theorem State.act_setAct_same {s : State} (h : Tab.wf (fun _ => ActFrame.empty) s.cnv.acts) (k : Nat) (x : ActFrame) : (s.setAct k x).act k = x :=
  Tab.get_set_same h k x
theorem State.act_setAct_other {s : State} (h : Tab.wf (fun _ => ActFrame.empty) s.cnv.acts) {k i : Nat} (x : ActFrame) (hi : i ≠ k) :
    (s.setAct k x).act i = s.act i :=
  Tab.get_set_other h x hi
theorem State.buoy_setBuoy_same {s : State} (h : Tab.wf (fun _ => 0) s.syn.buoys) (k : Nat) (x : BitVec 31) : (s.setBuoy k x).buoy k = x :=
  Tab.get_set_same h k x
theorem State.buoy_setBuoy_other {s : State} (h : Tab.wf (fun _ => 0) s.syn.buoys) {k i : Nat} (x : BitVec 31) (hi : i ≠ k) :
    (s.setBuoy k x).buoy i = s.buoy i :=
  Tab.get_set_other h x hi
theorem State.queueAt_setQueue_same {s : State} (h : Tab.wf (fun _ => Queue.empty) s.syn.queues) (k : Nat) (x : Queue) : (s.setQueue k x).queueAt k = x :=
  Tab.get_set_same h k x
theorem State.queueAt_setQueue_other {s : State} (h : Tab.wf (fun _ => Queue.empty) s.syn.queues) {k i : Nat} (x : Queue) (hi : i ≠ k) :
    (s.setQueue k x).queueAt i = s.queueAt i :=
  Tab.get_set_other h x hi
theorem State.link_setLink_same {s : State} (h : Tab.wf (fun _ => Link.empty) s.fab.links) (k : Nat) (x : Link) : (s.setLink k x).link k = x :=
  Tab.get_set_same h k x
theorem State.link_setLink_other {s : State} (h : Tab.wf (fun _ => Link.empty) s.fab.links) {k i : Nat} (x : Link) (hi : i ≠ k) :
    (s.setLink k x).link i = s.link i :=
  Tab.get_set_other h x hi
theorem State.circ_setCirc_same {s : State} (h : Tab.wf (fun _ => Circuit.empty) s.fab.circuits) (k : Nat) (x : Circuit) : (s.setCirc k x).circ k = x :=
  Tab.get_set_same h k x
theorem State.circ_setCirc_other {s : State} (h : Tab.wf (fun _ => Circuit.empty) s.fab.circuits) {k i : Nat} (x : Circuit) (hi : i ≠ k) :
    (s.setCirc k x).circ i = s.circ i :=
  Tab.get_set_other h x hi
theorem State.timer_setTimer_same {s : State} (h : Tab.wf (fun _ => Timer.empty) s.tmr.timers) (k : Nat) (x : Timer) : (s.setTimer k x).timer k = x :=
  Tab.get_set_same h k x
theorem State.timer_setTimer_other {s : State} (h : Tab.wf (fun _ => Timer.empty) s.tmr.timers) {k i : Nat} (x : Timer) (hi : i ≠ k) :
    (s.setTimer k x).timer i = s.timer i :=
  Tab.get_set_other h x hi
theorem State.space_setSpace_same {s : State} (h : Tab.wf (fun _ => Space.empty) s.eth.spaces) (k : Nat) (x : Space) : (s.setSpace k x).space k = x :=
  Tab.get_set_same h k x
theorem State.space_setSpace_other {s : State} (h : Tab.wf (fun _ => Space.empty) s.eth.spaces) {k i : Nat} (x : Space) (hi : i ≠ k) :
    (s.setSpace k x).space i = s.space i :=
  Tab.get_set_other h x hi
theorem State.rget_rset_same {s : State} (h : Tab.wf (regReset) s.reg.vals) (k : Nat) (x : Word) : (s.rset k x).rget k = x :=
  Tab.get_set_same h k x
theorem State.rget_rset_other {s : State} (h : Tab.wf (regReset) s.reg.vals) {k i : Nat} (x : Word) (hi : i ≠ k) :
    (s.rset k x).rget i = s.rget i :=
  Tab.get_set_other h x hi
theorem State.byteAt_setByte_same {s : State} (h : Tab.wf (Memory.unlisted) s.mem.cells) (k : Nat) (x : Byte) : (s.setByte k x).byteAt k = x :=
  Tab.get_set_same h k x
theorem State.byteAt_setByte_other {s : State} (h : Tab.wf (Memory.unlisted) s.mem.cells) {k i : Nat} (x : Byte) (hi : i ≠ k) :
    (s.setByte k x).byteAt i = s.byteAt i :=
  Tab.get_set_other h x hi
theorem State.slotAt_setSlot_same {s : State} (h : Tab.wf (fun _ => Slot.empty) s.core.slots) (n m : Nat) (x : Slot) : (s.setSlot n m x).slotAt n m = x :=
  Tab.get_set_same h _ x
theorem State.slotAt_setSlot_other {s : State} (h : Tab.wf (fun _ => Slot.empty) s.core.slots) {n m i j : Nat} (x : Slot) (hi : i * 64 + j ≠ n * 64 + m) :
    (s.setSlot n m x).slotAt i j = s.slotAt i j :=
  Tab.get_set_other h x hi
theorem State.red_setRed_same {s : State} (h : Tab.wf (fun _ => Reduction.empty) s.core.reds) (n m : Nat) (x : Reduction) : (s.setRed n m x).red n m = x :=
  Tab.get_set_same h _ x
theorem State.red_setRed_other {s : State} (h : Tab.wf (fun _ => Reduction.empty) s.core.reds) {n m i j : Nat} (x : Reduction) (hi : i * 256 + j ≠ n * 256 + m) :
    (s.setRed n m x).red i j = s.red i j :=
  Tab.get_set_other h x hi
theorem State.inst_setInst_same {s : State} (h : Tab.wf (fun _ => Inst.empty) s.cnv.insts) (n m : Nat) (x : Inst) : (s.setInst n m x).inst n m = x :=
  Tab.get_set_same h _ x
theorem State.inst_setInst_other {s : State} (h : Tab.wf (fun _ => Inst.empty) s.cnv.insts) {n m i j : Nat} (x : Inst) (hi : i * 2 ^ 18 + j ≠ n * 2 ^ 18 + m) :
    (s.setInst n m x).inst i j = s.inst i j :=
  Tab.get_set_other h x hi
theorem State.writer_setWriter_same {s : State} (h : Tab.wf (fun _ => Writer.empty) s.syn.writers) (n m : Nat) (x : Writer) : (s.setWriter n m x).writer n m = x :=
  Tab.get_set_same h _ x
theorem State.writer_setWriter_other {s : State} (h : Tab.wf (fun _ => Writer.empty) s.syn.writers) {n m i j : Nat} (x : Writer) (hi : i * 4096 + j ≠ n * 4096 + m) :
    (s.setWriter n m x).writer i j = s.writer i j :=
  Tab.get_set_other h x hi
theorem State.e2e_setE2e_same {s : State} (h : Tab.wf (fun _ => E2E.empty) s.fab.e2e) (n m : Nat) (x : E2E) : (s.setE2e n m x).e2e n m = x :=
  Tab.get_set_same h _ x
theorem State.e2e_setE2e_other {s : State} (h : Tab.wf (fun _ => E2E.empty) s.fab.e2e) {n m i j : Nat} (x : E2E) (hi : i * 4 + j ≠ n * 4 + m) :
    (s.setE2e n m x).e2e i j = s.e2e i j :=
  Tab.get_set_other h x hi
theorem State.ring_setRing_same {s : State} (h : Tab.wf (fun _ => []) s.rtr.rings) (n m : Nat) (x : List Ev) : (s.setRing n m x).ring n m = x :=
  Tab.get_set_same h _ x
theorem State.ring_setRing_other {s : State} (h : Tab.wf (fun _ => []) s.rtr.rings) {n m i j : Nat} (x : List Ev) (hi : i * 64 + j ≠ n * 64 + m) :
    (s.setRing n m x).ring i j = s.ring i j :=
  Tab.get_set_other h x hi

end Sys2Proof.Machine
end

