-- ==== Sys2Proof/WellFormed.lean ====
section
/-! DEFINITION. WellFormed.lean: what the outside can bring: the ranges that the spec gives the numbers and lists of a command or event.
The meanings are total and do not rest on it. -/

namespace Sys2Proof

/-- A fabric packet as R368 and R371 shape it: LEN is its payload, at most 2,048 words, and ROUTE names at most three hops. -/
def pktShape (p : FabPkt) : Bool := p.payload.length = p.len && p.len ≤ 2048 && p.route.length ≤ 3

/-- Whether a command's operands lie in the ranges of the spec: 18 links (R363), 18 physical cores and 34 physical slices (R464),
the words of LOADMAT and SEND (R274), 1 to 64 register entries (R409), frames of at most 9,000 bytes (R401),
chunks of at most 65,536 bytes (R386), packets of at most 2,048 words (R368), messages of 1 to 4 words after their header (R320). -/
def Instr.wellFormed : Instr → Bool
  | .bind .. => true
  | .unbind .. => true
  | .park .. => true
  | .unpark .. => true
  | .snapshot .. => true
  | .loadprog .. => true
  | .loadmat _ _ _ desc _ _ _ => desc.length = 8
  | .loadroute .. => true
  | .loadrule .. => true
  | .step .. => true
  | .run .. => true
  | .halt .. => true
  | .epoch .. => true
  | .apply .. => true
  | .berth .. => true
  | .copy .. => true
  | .signal .. => true
  | .wait .. => true
  | .watch .. => true
  | .dec .. => true
  | .take .. => true
  | .send _ _ nm1 _ _ msg => msg.length = nm1.toNat + 1
  | .recv .. => true
  | .encode .. => true
  | .decode .. => true
  | .chancfg .. => true
  | .fence .. => true
  | .timestamp .. => true
  | .hint .. => true
  | .note .. => true
  | .reservedOpcode .. => true
  | .boundaryEffect .. => true
  | .nop .. => true
  | .movi .. => true
  | .ldf .. => true
  | .stf .. => true
  | .add .. => true
  | .sub .. => true
  | .mulq .. => true
  | .mac .. => true
  | .decay .. => true
  | .min .. => true
  | .max .. => true
  | .clamp .. => true
  | .cmpgt .. => true
  | .cmpge .. => true
  | .sel .. => true
  | .fire .. => true
  | .rsub .. => true
  | .rset .. => true
  | .tbump .. => true
  | .rand .. => true
  | .endInstr .. => true
  | .laneGroupStart .. => true
  | .stepStart .. => true
  | .lockedSlot .. => true
  | .stepAdmit .. => true
  | .windowSort .. => true
  | .additionRun .. => true
  | .rowRead .. => true
  | .windowFlush .. => true
  | .phase2Start .. => true
  | .coreDone .. => true
  | .routeExpansion .. => true
  | .packetSend .. => true
  | .eventPacketAccept _ pkt => pkt.records.length ≤ 2048
  | .stagingJoin .. => true
  | .acceptAckArrival .. => true
  | .stepBuoySignal .. => true
  | .stepEnd .. => true
  | .stepEndReceipt .. => true
  | .learningPass .. => true
  | .applyWindowOpen .. => true
  | .reductionChunkArrival .. => true
  | .chunkCommit .. => true
  | .applyWindowClose .. => true
  | .delayVote .. => true
  | .reductionPartitioned .. => true
  | .overlapRowCommit .. => true
  | .berthFillStart .. => true
  | .berthReady .. => true
  | .obsFrame .. => true
  | .encodeInstance .. => true
  | .encodeWaitTimeout .. => true
  | .tapAccept .. => true
  | .decodeInstance .. => true
  | .actSnapshot .. => true
  | .actFrameTransmit .. => true
  | .buoyOperation .. => true
  | .signalMarkerArrival .. => true
  | .waitTimeout .. => true
  | .watchTimeout .. => true
  | .beaconRetry .. => true
  | .queueGrantArrival .. => true
  | .queueMessageArrival _ _ _ _ words _ => 1 ≤ words.length && words.length ≤ 5
  | .creditReturnArrival .. => true
  | .closeNoticeArrival .. => true
  | .queueOpen .. => true
  | .queueClose .. => true
  | .inboxPop .. => true
  | .sliceBankCycle .. => true
  | .aliasWrite .. => true
  | .vaultWipe => true
  | .scrubRead .. => true
  | .hbmAccess .. => true
  | .hbmRefreshDouble .. => true
  | .linkPacketReceive l _ _ _ pkt _ _ => l.toNat < 18 && pktShape pkt
  | .linkAck l _ => l.toNat < 18
  | .linkNak l _ => l.toNat < 18
  | .linkCredit l _ _ _ => l.toNat < 18
  | .replayTimeout l => l.toNat < 18
  | .linkFailure _ l => l.toNat < 18
  | .linkDownReceive l => l.toNat < 18
  | .fecLockLoss l _ => l.toNat < 18
  | .e2ePacketReceive pkt => pktShape pkt
  | .e2eackArrival .. => true
  | .e2eackTimer .. => true
  | .deviceLost .. => true
  | .fabRetireReq => true
  | .retireReady .. => true
  | .circuitArm .. => true
  | .chunkackArrival .. => true
  | .circuitChunkReceive _ _ _ _ _ data => data.length ≤ 65536
  | .congestionSample ports => ports.length = 8 && ports.all (fun p => p.length = 4 && p.all (fun x => 0 < x.2))
  | .congestionMap => true
  | .quiesceRequest => true
  | .quiesceAck phys => phys.toNat < 18
  | .quiesceRelease .. => true
  | .quiesceAckTimeout phys => phys.toNat < 18
  | .transportFrameReceive f => f.payload.length ≤ 8984
  | .cmdFrame .. => true
  | .ackFrame .. => true
  | .dataFrame _ _ _ _ data => data.length ≤ 8976
  | .regrd addrs => 1 ≤ addrs.length && addrs.length ≤ 64
  | .regwr writes => 1 ≤ writes.length && writes.length ≤ 64
  | .transportRetxTimeout .. => true
  | .completionFrameFlush .. => true
  | .ackSendTimer .. => true
  | .frameForward f => f.payload.length ≤ 8984
  | .restart .. => true
  | .gateTakeover => true
  | .wakeFrame _ _ _ pattern => pattern.length = 4
  | .portModeWrite .. => true
  | .governorWindow .. => true
  | .levelApply => true
  | .pmbusRead .. => true
  | .gainUpdate => true
  | .pmbAlert .. => true
  | .thermalCapUpdate => true
  | .sensorSample .. => true
  | .govx => true
  | .thermtrip .. => true
  | .overcapCheck => true
  | .pgFall .. => true
  | .psctrlRun => true
  | .psctrlDoze => true
  | .psctrlSleep .. => true
  | .dozeAutoWake .. => true
  | .restore => true
  | .pgTimeout .. => true
  | .clockGate phys => phys.toNat < 18
  | .clockUngate phys => phys.toNat < 18
  | .brownOut => true
  | .ethernetEnergyWake .. => true
  | .listen .. => true
  | .listenTimeout .. => true
  | .fabricEnergyWake l => l.toNat < 18
  | .fabricWakePattern l => l.toNat < 18
  | .fwakeSend .. => true
  | .lanternTimerWake => true
  | .wakeN => true
  | .watchedSourceWake .. => true
  | .powerOnReset => true
  | .coldReset => true
  | .warmReset .. => true
  | .coldBringup .. => true
  | .warmFastPath .. => true
  | .linkTraining l _ => l.toNat < 18
  | .coreFailure phys _ _ => phys.toNat < 18
  | .sliceFailure phys _ _ _ _ => phys.toNat < 34
  | .interruptRaise .. => true
  | .interruptWithdraw .. => true
  | .irqClaim .. => true
  | .irqDone .. => true
  | .tbStep .. => true
  | .holdover .. => true
  | .syncReturn .. => true
  | .timerTick .. => true
  | .timerWrap .. => true
  | .timerMatch .. => true
  | .timerImmediateWrite .. => true
  | .tmrGstart .. => true
  | .tmrGstop .. => true
  | .attest .. => true
  | .lifecycle .. => true
  | .debug .. => true
  | .sak .. => true
  | .certs _ => true
  | .tamperN => true
  | .ptbHoldRelease .. => true
  | .stepConfigWrite .. => true
  | .actCfgWrite .. => true
  | .loReadCapture .. => true
  | .readClear .. => true
  | .registerWrite .. => true
  | .ethPortLinkDown .. => true
  | .ethPortLinkUp .. => true
  | .timeSyncMessage .. => true
  | .gclCycleStart .. => true
  | .nonTransportFrame .. => true
  | .startBroadcastReceipt .. => true
  | .joinAcknowledgement .. => true
  | .recvTimeout .. => true
  | .linkAckSend l => l.toNat < 18
  | .ptbHbmrefBurst => true
  | .pgRise .. => true
  | .vddLtnRemoval => true
  | .referenceClockLoss .. => true
  | .linkDisable l _ => l.toNat < 18
  | .timerEnable .. => true

end Sys2Proof
end

