-- ==== Sys2Proof/Tests/Slice0.lean ====
section
/-! SUPPORT. Tests/Slice0.lean: terms that `WellFormed` refuses, single steps whose results the spec's words give, and for every statement
with hypotheses a theorem `test_meets_…` that shows concrete states and operands which meet them, for every one of its clauses. -/

set_option synthInstance.maxSize 2000
set_option maxRecDepth 8000
set_option Elab.async false
set_option linter.all false

open Sys2Proof Sys2Proof.Machine

/-! ## Small states to run commands on -/

namespace W

def getNext (r : Result) (d : State) : State := match r with | .next t => t | _ => d
/-- a READY device, gate of a system of two devices 0 and 1 -/
def rdy : State := State.rset { State.reset with
  sys := ⟨[(0, ⟨0, 0, true⟩), (1, ⟨0, 1, true⟩), (2, ⟨0, 2, true⟩), (3, ⟨1, 0, true⟩)], 0, 2, 0, none, [], [0, 1], [], [], 2, [], []⟩
  eth := { State.reset.eth with hostSeen := true } } Reg.budState 0x80000000
def one : State := { rdy with sys := ⟨[(0, ⟨0, 0, true⟩), (1, ⟨0, 1, true⟩), (2, ⟨0, 2, true⟩)], 0, 1, 0, none, [], [0], [], [], 0, [], []⟩ }
def B : Binding := { Binding.empty with valid := true, lead := 0, mask := 1, seed := 9, joined := [0] }
def hd (n : BitVec 3) : Hdr := ⟨5, false, false, n, false, false⟩
/-- binding 3 with stream 5 -/
def cmd0 (s : State) : State := { s with cmd := { s.cmd with bindings := [(3, B)], streams := [(5, { Stream.empty with bound := true, binding := 3 })], windows := [(48, (0x480000000, 0x200000))], banks := [(4, some 3), (5, some 3)] } }
def b3 : State := (cmd0 one)
def sl1 : Word64 := 0x2001000000000000
def hb : Word64 := 0x1000000480000000
def hdr0 : List Word := [0x08030001, 0x00011001, 2, 100, 0x0040C004, 0, 0, 0, 0x81, 2, 5, 0, 0, 0, 0, 0]
def slot0 : Slot := ⟨3, hdr0, [0], [77], 0⟩
def ctx0 : Ctx := { Ctx.empty with valid := true, binding := 3, cidx := 7, base := 64, mod0 := 0x10000, mod1 := 5 }
def ln (i : Nat) (a b : Word) : Lane := ⟨true, 0, 7, i, (((Vector.replicate (2^4) (0 : Word)).set 1 a).set 2 b), 0, false, [3, 0x0109, 12]⟩
/-- present cores 0 and 1, core 0 bound to binding 3 with a population in slot 0 and context 0 -/
def c0 (f : Core → Core) : State :=
  let s := b3
  let s := (s.rset (Reg.budLmapCore 0) 0x40000000).rset (Reg.budLmapCore 1) 0x40000001
  { s with core := ⟨[(0, f { Core.empty with bound := true, binding := 3 })], [(0, slot0)], [], []⟩, cmd := { s.cmd with ctxs := [(0, ctx0)] } }
def run3 (s : State) : State := { s with cmd := { s.cmd with bindings := [(3, { B with running := true })] } }
def poke (s : State) (a : Nat) (l : List Word) : State := s.putBytes a (l.flatMap (fun w => leBytes 4 w.toNat))
/-- matrix descriptor: 4 rows of 2 columns in format 0 for slot 0 -/
def md : List Word := [0x83000000, 4, 2, 0x1000, 0, 0, 0, 0]
def mdS : List Word := [0xC3000000, 4, 2, 0, 0x80000000, 4, 0, 0]
def rl : List Word := [0x80100000 + 0x3000, 0x12000000 + 10, 0, 0, 0x00030000, 0x00030003, 0x22113C00, 0, 0x3C00, 0x00110000, 0x00010101, 0, 0, 0x00010000, 1, 0x0100, 0, 0, 0,0,0,0,0,0, 0x00010000, 0, 0,0,0,0,0,0]
def cc : State := c0 (fun c => c)
def cm : State := poke cc (matAddr 0 0) md
def hw (n : Nat) : Word64 := hb + BitVec.ofNat 64 n
/-- address of reference hb -/
def hA : Nat := Mem.hbm + 0x480000000
def hq (n : BitVec 3) : Hdr := { hd n with irq := true }
/-- a plain tagged transport frame -/
def h0 : EthHead := ⟨0, 0x112233, some 1, 0x88B5, none, false, false, none⟩

end W

open W

/-- Whether a command is no COPY between ranges, for which the place in the stream matters too. -/
def noCopy : Instr → Bool
  | .copy .. => false
  | _ => true

/-- Whether a boundary command may take effect depends on the command alone. -/
theorem defer_ball {s : State} {b : Nat} {c : Instr} (h : (noCopy c && s.deferReady b ⟨c, 0, []⟩) = true) :
    ∀ d : Deferred, d.cmd = c → s.deferReady b d = true := by
  rintro ⟨x, y, z⟩ e
  subst e
  cases x <;> first | exact h | cases h

/-- What makes a command one that the boundary takes at once. -/
theorem ready_idle (s : State) (h : Hdr) (c : Instr)
    (p : Spec.Ready s h c ∧ s.idle (Spec.bind s h) = true ∧ (s.bnd (Spec.bind s h)).boundary = [] ∧
      (noCopy c && s.deferReady (Spec.bind s h) ⟨c, 0, []⟩) = true) : Spec.ReadyIdle s h c :=
  ⟨p.1, p.2.1, p.2.2.1, defer_ball p.2.2.2⟩

/-- No two system numbers name one core of this device. -/
theorem local_inj {s : State} (h : (s.sys.coreMap.all fun p => s.sys.coreMap.all fun q =>
      decide (s.localOf p.1 = none ∨ s.localOf p.1 ≠ s.localOf q.1 ∨ p.1 = q.1)) = true) :
    ∀ j k n : Nat, s.localOf j = some n → s.localOf k = some n → j = k := by
  have key : ∀ j n, s.localOf j = some n → ∃ p ∈ s.sys.coreMap, p.1 = j := by
    intro j n e
    unfold State.localOf at e
    split at e
    · rename_i a
      obtain ⟨p, m, q⟩ := List.any_eq_true.1 a
      exact ⟨p, m, of_decide_eq_true (Bool.and_eq_true_iff.1 q).1⟩
    · cases e
  intro j k n a b
  obtain ⟨p, mp, rfl⟩ := key j n a
  obtain ⟨q, mq, rfl⟩ := key k n b
  have := of_decide_eq_true (List.all_eq_true.1 (List.all_eq_true.1 h p mp) q mq)
  rcases this with x | x | x
  · rw [x] at a; cases a
  · exact absurd (a.trans b.symm) x
  · exact x

/-- One of the first three of four alternatives. -/
theorem or_left {A B C D : Prop} (h : A ∨ B ∨ C) : A ∨ B ∨ C ∨ D := by
  rcases h with h | h | h
  · exact .inl h
  · exact .inr (.inl h)
  · exact .inr (.inr (.inl h))

/-- A claim about rows of a range is false at one of them. -/
theorem or_right {A B C : Prop} {a b c : Nat} {P : Nat → Nat → Prop} [∀ r i, Decidable (P r i)]
    (h : ((List.range b).any fun r => decide (a ≤ r) && (List.range c).any fun i => decide (¬ P r i)) = true) :
    A ∨ B ∨ C ∨ ¬ ∀ r, a ≤ r → r < b → ∀ i, i < c → P r i := by
  obtain ⟨r, mr, x⟩ := List.any_eq_true.1 h
  obtain ⟨le, y⟩ := Bool.and_eq_true_iff.1 x
  obtain ⟨i, mi, z⟩ := List.any_eq_true.1 y
  exact .inr (.inr (.inr fun all => of_decide_eq_true z
    (all r (of_decide_eq_true le) (List.mem_range.1 mr) i (List.mem_range.1 mi))))

/-- A claim about rows of a range, checked row by row. -/
theorem range_ball {a b c : Nat} {P : Nat → Nat → Prop} (h : ∀ r, r < b → a ≤ r → ∀ i, i < c → P r i) :
    ∀ r, a ≤ r → r < b → ∀ i, i < c → P r i := fun r x y => h r y x

/-- A claim about every named resource, checked for the first `count` numbers. -/
theorem named_ball {first : BitVec 18} {count : BitVec 19} {P : Nat → Prop} (h : ∀ i, i < count.toNat → P (first.toNat + i)) :
    ∀ k, Spec.Named first count k → P k := by
  rintro k ⟨a, b⟩
  have e : first.toNat + (k - first.toNat) = k := by omega
  exact e ▸ h (k - first.toNat) (by omega)

/-- A claim about every entry of a list, checked entry by entry. -/
theorem list_ball {α : Type} {l : List α} {P : α → Prop} [DecidablePred P] (h : (l.all fun r => decide (P r)) = true) : ∀ r, r ∈ l → P r :=
  fun r m => of_decide_eq_true (List.all_eq_true.1 h r m)

/-- More data than a stream may hold. -/
def longData : List Byte := List.replicate 0x100001 1
theorem long_data {q : Nat} : 1048576 < q + longData.length := by
  rw [longData, List.length_replicate]
  omega

/-- A claim about every berth of every core. -/
theorem berth_ball {l : List (Nat × Core)} {P Q : BerthCmd → Prop}
    (a : ∀ p, p ∈ l → ∀ z, z ∈ [p.2.berth0, p.2.berth1] → ∀ v, v ∈ z.cur.toList → P v) (b : ∀ p, p ∈ l → ∀ v, v ∈ p.2.berthQ → Q v) :
    ∀ k y, (k, y) ∈ l → (∀ z, z ∈ [y.berth0, y.berth1] → ∀ v, z.cur = some v → P v) ∧ ∀ v, v ∈ y.berthQ → Q v :=
  fun k y m => ⟨fun z hz v e => a (k, y) m z hz v (by rw [e]; exact List.mem_singleton.2 rfl), b (k, y) m⟩

/-- A wake takes the fast path where the Keeper's block is sound. -/
theorem fast_ok {s : State} {r : BringupReport} (a : (2 ≤ s.rfield Reg.budState 18 2 && s.ltn.keep.valid && !s.ltn.keep.ffev &&
    s.ltn.keep.ready && s.ltn.keep.bootSel = r.bootSel) = true) (b : s.ltn.keep.crc = crc32 (wordBytes s.ltn.keep.lmap)) : s.fastOk r = true := by
  unfold State.fastOk
  simp_all

/-- A claim about every entry of a list of pairs, checked entry by entry. -/
theorem pair_ball {α β : Type} {l : List (α × β)} {P : α → β → Prop} (h : ∀ p, p ∈ l → P p.1 p.2) : ∀ a b, (a, b) ∈ l → P a b :=
  fun a b m => h (a, b) m

/-! ## Group 10 -/

namespace W10

def N : State := run3 (c0 (fun c => {c with phase := .neuron, lanes := [ln 0 5 3, ln 1 0x7fffffff 1, {ln 2 1 1 with active := false}]}))
def N2 : State := run3 (c0 (fun c => {c with phase := .neuron, lanes := [{ln 0 0xfffffff0 3 with n := 2}, ln 1 9 0xffffffff, ln 1 300 2, ln 0 2 3]}))

theorem test_meets_RshiftIsNearestEven :
    (let x : Int := 5
    let s : Nat := 1
    s ≠ 0 ∧ 2 * (2 ^ s * rneShift x s - x).natAbs = 2 ^ s) := by dsimp only; decide +kernel

theorem test_meets_NeuronArithmetic :
    (let s : State := N
    Canon s ∧ Alive s) := by dsimp only; decide +kernel

theorem test_meets_NeuronMovesAndCompares :
    (let s : State := N
    let k1 : BitVec 5 := 1
    Canon s ∧ Alive s ∧ k1 ≠ 0) := by dsimp only; decide +kernel

theorem test_meets_FireDecides :
    (let s : State := N2
    Canon s ∧ Alive s) := by dsimp only; decide +kernel

theorem test_meets_ResetInstructions :
    (let s : State := N2
    Canon s ∧ Alive s) := by dsimp only; decide +kernel

theorem test_meets_NeuronFieldAccess :
    (let s : State := N2
    Canon s ∧ Alive s) := by dsimp only; decide +kernel

end W10

/-! ## Group 20 -/

namespace W20

def S (f : Stream → Stream) : State := {b3 with cmd := {b3.cmd with streams := [(5, f { Stream.empty with bound := true, binding := 3 })]}}
def st (h : Hdr) : Instr := .step h
def u3 : State := {one with cmd := {one.cmd with streams := [(4, {Stream.empty with bound := true, binding := 1})]}}
def c1 : State := {c0 (fun c => {c with bound := false}) with mem := {b3.mem with cells := [(Mem.store 0 1 + 9, 5),(Mem.slice 1 + 0x400003, 7)]}}
def ccx : State := c0 (fun c => c)
def lf1 : State := S (fun x => {x with frozen := true})
def lf2 : State := S (fun x => {x with held := [(0, st (hd 0))], cseq := 1})
def lf3 : State := S (fun x => {x with bound := false})
def lf4 : State := {c1 with core := ⟨[(0, {Core.empty with frozen := true, slot := 4})], [(0,slot0)], [], []⟩}

theorem test_meets_CommandAcceptance :
    (let s : State := (b3.rset Reg.budState 0x40000000)
    let c : Instr := (st (hd 0))
    let h : Hdr := (hd 0)
    let op : Byte := 0x20
    cmdHdr c = some (h, op) ∧ Alive s ∧ s.accepting = false) ∧
    (let s : State := lf1
    let c : Instr := (st {hd 0 with irq := true, quiet := true})
    let h : Hdr := {hd 0 with irq := true, quiet := true}
    let op : Byte := 0x20
    cmdHdr c = some (h, op) ∧ Alive s ∧ s.accepting = true ∧ (s.strm h.stream.toNat).frozen = true ∧ (s.strm h.stream.toNat).outst = []) ∧
    (let s : State := lf2
    let c : Instr := (st (hd 0))
    let h : Hdr := (hd 0)
    let op : Byte := 0x20
    cmdHdr c = some (h, op) ∧ Alive s ∧ s.accepting = true ∧ (s.strm h.stream.toNat).frozen = false ∧ (s.strm h.stream.toNat).held ≠ []) ∧
    (let s : State := lf3
    let c : Instr := (st (hd 0))
    let h : Hdr := (hd 0)
    let op : Byte := 0x20
    cmdHdr c = some (h, op) ∧ Alive s ∧ Spec.Clear s h c ∧ (s.strm h.stream.toNat).bound = false ∧ unboundOk c = false) := 
  ⟨by dsimp only; decide +kernel,
   by dsimp only; decide +kernel,
   by dsimp only; decide +kernel,
   by dsimp only; unfold Spec.Clear; decide +kernel⟩

theorem test_meets_CreateMakesBinding :
    (let s : State := u3
    let h : Hdr := {hd 2 with irq := true}
    let first : BitVec 18 := 63
    let mask : Word64 := 1
    let seed : Word64 := 7
    let w3 : Word64 := 0
    let b : Nat := first.toNat
    Spec.Clear s h (Instr.bind h 0 0 first mask seed w3) ∧ (s.strm h.stream.toNat).bound = false ∧ b < 64 ∧ (s.bnd b).valid = false ∧
    (s.bnd b).joinWait = none ∧ (s.bnd b).joinsHeld = [] ∧ (∀ (d : Nat), d < 64 → BitVec.getLsbD mask d = true → d ∈ s.sys.ready) ∧
    BitVec.getLsbD mask s.sys.myDev.toNat = true ∧ (∀ (d : Nat), d < s.sys.myDev.toNat → BitVec.getLsbD mask d = false)) := by dsimp only; unfold Spec.Clear; decide +kernel

theorem test_meets_BindTakesResources :
    (let s : State := b3
    let h : Hdr := {hd 0 with irq := true}
    let kind : BitVec 4 := 4
    let count : BitVec 19 := 2
    let first : BitVec 18 := 4094
    let w1 : Word64 := 0
    let w2 : Word64 := 0
    let w3 : Word64 := 0
    let c : Instr := Instr.bind h kind count first w1 w2 w3
    let all : (Nat → Prop) → Prop := fun p => ∀ (k : Nat), Spec.Named first count k → p k
    Spec.ReadyIdle s h c ∧ (all fun q => (s.queueAt q).bound = false) ∧ 1 ≤ count.toNat ∧ Canon s ∧ kind = 4 ∧
    first.toNat + count.toNat ≤ 4096) ∧
    (let s : State := b3
    let h : Hdr := (hd 0)
    let kind : BitVec 4 := 5
    let count : BitVec 19 := 2
    let first : BitVec 18 := 65470
    let w1 : Word64 := 0
    let w2 : Word64 := 0
    let w3 : Word64 := 0
    let c : Instr := Instr.bind h kind count first w1 w2 w3
    let all : (Nat → Prop) → Prop := fun p => ∀ (k : Nat), Spec.Named first count k → p k
    Spec.ReadyIdle s h c ∧ (all fun k => s.buoyOwner k = none) ∧ 1 ≤ count.toNat ∧ Canon s ∧ kind = 5 ∧
    first.toNat + count.toNat ≤ 65472) ∧
    (let s : State := b3
    let h : Hdr := (hd 0)
    let kind : BitVec 4 := 6
    let count : BitVec 19 := 2
    let first : BitVec 18 := 4094
    let w1 : Word64 := 0
    let w2 : Word64 := 0
    let w3 : Word64 := 0
    let c : Instr := Instr.bind h kind count first w1 w2 w3
    let all : (Nat → Prop) → Prop := fun p => ∀ (k : Nat), Spec.Named first count k → p k
    Spec.ReadyIdle s h c ∧ (all fun k => (s.chan k).bound = false) ∧ 1 ≤ count.toNat ∧ Canon s ∧ kind = 6 ∧
    first.toNat + count.toNat ≤ 4096) ∧
    (let s : State := b3
    let h : Hdr := (hd 0)
    let kind : BitVec 4 := 7
    let count : BitVec 19 := 2
    let first : BitVec 18 := 254
    let w1 : Word64 := 0
    let w2 : Word64 := 0
    let w3 : Word64 := 0
    let c : Instr := Instr.bind h kind count first w1 w2 w3
    let all : (Nat → Prop) → Prop := fun p => ∀ (k : Nat), Spec.Named first count k → p k
    Spec.ReadyIdle s h c ∧ (all fun k => (s.circ k).bound = false) ∧ 1 ≤ count.toNat ∧ Canon s ∧ kind = 7 ∧
    first.toNat + count.toNat ≤ 256) ∧
    (let s : State := (((b3.rset (Reg.tmrCtrl 31) 0x12345).rset (Reg.tmrCount 30) 5).rset (Reg.tmrStat 30) 0x5F)
    let h : Hdr := (hd 0)
    let kind : BitVec 4 := 8
    let count : BitVec 19 := 2
    let first : BitVec 18 := 30
    let w1 : Word64 := 0
    let w2 : Word64 := 0
    let w3 : Word64 := 0
    let c : Instr := Instr.bind h kind count first w1 w2 w3
    let all : (Nat → Prop) → Prop := fun p => ∀ (k : Nat), Spec.Named first count k → p k
    Spec.ReadyIdle s h c ∧ (all fun k => (s.timer k).bound = false) ∧ 1 ≤ count.toNat ∧ Canon s ∧ kind = 8 ∧
    first.toNat + count.toNat ≤ 32) ∧
    (let s : State := b3
    let h : Hdr := (hd 0)
    let kind : BitVec 4 := 9
    let count : BitVec 19 := 2
    let first : BitVec 18 := 254
    let w1 : Word64 := 0
    let w2 : Word64 := 0
    let w3 : Word64 := 0
    let c : Instr := Instr.bind h kind count first w1 w2 w3
    let all : (Nat → Prop) → Prop := fun p => ∀ (k : Nat), Spec.Named first count k → p k
    Spec.ReadyIdle s h c ∧ (all fun k => (s.strm k).bound = false) ∧ 1 ≤ count.toNat ∧ Canon s ∧ kind = 9 ∧
    first.toNat + count.toNat ≤ 256) ∧
    (let s : State := b3
    let h : Hdr := (hd 2)
    let kind : BitVec 4 := 10
    let count : BitVec 19 := 1
    let first : BitVec 18 := 15
    let w1 : Word64 := 0x4C0000000
    let w2 : Word64 := 0x200000
    let w3 : Word64 := 0
    let c : Instr := Instr.bind h kind count first w1 w2 w3
    let b : Nat := Spec.bind s h
    Spec.ReadyIdle s h c ∧
    (∀ (k : Nat) (x : BitVec 38 × BitVec 38), (k, x) ∈ s.cmd.windows → meets (BitVec.toNat w1) (BitVec.toNat w2) x.fst.toNat x.snd.toNat = false) ∧
    1 ≤ count.toNat ∧ Canon s ∧ kind = 10 ∧ count = 1 ∧ first.toNat ≤ 15 ∧ (s.window b first.toNat).snd = 0 ∧
    BitVec.toNat w1 % 2097152 = 0 ∧ BitVec.toNat w2 % 2097152 = 0 ∧ w2 ≠ 0 ∧ 19327352832 ≤ BitVec.toNat w1 ∧
    BitVec.toNat w1 + BitVec.toNat w2 ≤ 154618822656) := 
  ⟨by dsimp only; exact ⟨ready_idle _ _ _ (by unfold Spec.Ready Spec.Clear; decide +kernel), named_ball (by decide +kernel), by decide +kernel⟩,
   by dsimp only; exact ⟨ready_idle _ _ _ (by unfold Spec.Ready Spec.Clear; decide +kernel), named_ball (by decide +kernel), by decide +kernel⟩,
   by dsimp only; exact ⟨ready_idle _ _ _ (by unfold Spec.Ready Spec.Clear; decide +kernel), named_ball (by decide +kernel), by decide +kernel⟩,
   by dsimp only; exact ⟨ready_idle _ _ _ (by unfold Spec.Ready Spec.Clear; decide +kernel), named_ball (by decide +kernel), by decide +kernel⟩,
   by dsimp only; exact ⟨ready_idle _ _ _ (by unfold Spec.Ready Spec.Clear; decide +kernel), named_ball (by decide +kernel), by decide +kernel⟩,
   by dsimp only; exact ⟨ready_idle _ _ _ (by unfold Spec.Ready Spec.Clear; decide +kernel), named_ball (by decide +kernel), by decide +kernel⟩,
   by dsimp only; exact ⟨ready_idle _ _ _ (by unfold Spec.Ready Spec.Clear; decide +kernel), pair_ball (by decide +kernel), by decide +kernel⟩⟩

theorem test_meets_BindBanksAndContexts :
    (let s : State := ccx
    let h : Hdr := (hd 3)
    let kind : BitVec 4 := 2
    let count : BitVec 19 := 2
    let first : BitVec 18 := 5
    let w1 : Word64 := (0x0000010000000000 + 8)
    let w2 : Word64 := 128
    let w3 : Word64 := 0
    let c : Instr := Instr.bind h kind count first w1 w2 w3
    let b : Nat := Spec.bind s h
    Spec.ReadyIdle s h c ∧ 1 ≤ count.toNat ∧ Canon s ∧ kind = 2 ∧ s.ctxStatus b first.toNat count.toNat w1 w2 w3 = St.ok ∧
    ((s.forAll (List.range count.toNat) fun u i => u.setCtx (first.toNat + i) (boundCtx b i w1 w2 w3)).spillFits b = true)) := by dsimp only; exact ⟨ready_idle _ _ _ (by unfold Spec.Ready Spec.Clear; decide +kernel), by decide +kernel⟩

theorem test_meets_BindCores :
    (let s : State := lf4
    let h : Hdr := (hd 0)
    let count : BitVec 19 := 2
    let first : BitVec 18 := 0
    let w1 : Word64 := 0
    let w2 : Word64 := 0
    let w3 : Word64 := 0
    let c : Instr := Instr.bind h 1 count first w1 w2 w3
    let b : Nat := Spec.bind s h
    let cs : List Nat := s.localCores (named first.toNat count.toNat)
    Spec.ReadyIdle s h c ∧ (∀ (k : Nat), Spec.Named first count k → s.sysPresent k = true) ∧ Canon s ∧ 1 ≤ count.toNat ∧
    count.toNat ≤ 16 ∧ cs.length = count.toNat ∧ cs.Nodup ∧ (∀ (n : Nat), n ∈ cs → (s.cor n).bound = false ∧ s.corePresent n = true) ∧
    (s.bindNow b 1 count.toNat first.toNat w1 w2 w3).snd.fst = St.ok) := by dsimp only; exact ⟨ready_idle _ _ _ (by unfold Spec.Ready Spec.Clear; decide +kernel), named_ball (by decide +kernel), by decide +kernel⟩

end W20

/-! ## Group 21 -/

namespace W21

def qs : State := {b3 with syn := {b3.syn with queues := [(4094, {Queue.empty with bound := true, binding := 3})], owner := [(65471, some 3)]}, cnv := {b3.cnv with chans := [(4095, {Chan.empty with bound := true, binding := 3})]}, fab := {b3.fab with circuits := [(255, {Circuit.empty with bound := true, binding := 3})]}, tmr := {b3.tmr with timers := [(31, {Timer.empty with bound := true, binding := 3})]}, cmd := {b3.cmd with streams := b3.cmd.streams ++ [(255, {Stream.empty with bound := true, binding := 3})]}}
def pk : State := cc.putBytes (cc.ctx 0).home [9,8,7]
def pu : State := poke {cc with cmd := {cc.cmd with ctxs := [(0, {ctx0 with res := 2, base := 0x480000000, held := [⟨0,0,0,1,0⟩]})]}} hA [0x1234, 5]
def img : List Word := hdr0 ++ [0xFC000000]
def sp : State := poke cc hA img
def sm : State := poke cc hA [1,2,3,4]
def ru : State := poke cm hA rl
def er : State := poke cm (ruleAddr 0 0) rl

theorem test_meets_UnbindReleases :
    (let s : State := cc
    let h : Hdr := (hd 0)
    let kind : BitVec 4 := 1
    let count : BitVec 19 := 1
    let first : BitVec 18 := 0
    let c : Instr := Instr.unbind h kind count first
    let b : Nat := Spec.bind s h
    Spec.ReadyIdle s h c ∧ (∀ (j k n : Nat), s.localOf j = some n → s.localOf k = some n → j = k) ∧ Canon s ∧
    s.unbindStatus b kind.toNat count.toNat first.toNat = St.ok ∧ kind = 1) ∧
    (let s : State := cc
    let h : Hdr := (hd 0)
    let kind : BitVec 4 := 2
    let count : BitVec 19 := 1
    let first : BitVec 18 := 0
    let c : Instr := Instr.unbind h kind count first
    let b : Nat := Spec.bind s h
    Spec.ReadyIdle s h c ∧ Canon s ∧ s.unbindStatus b kind.toNat count.toNat first.toNat = St.ok ∧ kind = 2) ∧
    (let s : State := cc
    let h : Hdr := {hd 0 with irq := true}
    let kind : BitVec 4 := 3
    let count : BitVec 19 := 2
    let first : BitVec 18 := 4
    let c : Instr := Instr.unbind h kind count first
    let b : Nat := Spec.bind s h
    Spec.ReadyIdle s h c ∧ Canon s ∧ s.unbindStatus b kind.toNat count.toNat first.toNat = St.ok ∧ kind = 3) ∧
    (let s : State := qs
    let h : Hdr := (hd 0)
    let kind : BitVec 4 := 4
    let count : BitVec 19 := 1
    let first : BitVec 18 := 4094
    let c : Instr := Instr.unbind h kind count first
    let b : Nat := Spec.bind s h
    Spec.ReadyIdle s h c ∧ Canon s ∧ s.unbindStatus b kind.toNat count.toNat first.toNat = St.ok ∧ (kind = 4 ∨ kind = 5)) ∧
    (let s : State := qs
    let h : Hdr := (hd 0)
    let kind : BitVec 4 := 6
    let count : BitVec 19 := 1
    let first : BitVec 18 := 4095
    let c : Instr := Instr.unbind h kind count first
    let b : Nat := Spec.bind s h
    Spec.ReadyIdle s h c ∧ Canon s ∧ s.unbindStatus b kind.toNat count.toNat first.toNat = St.ok ∧ kind = 6) ∧
    (let s : State := qs
    let h : Hdr := (hd 0)
    let kind : BitVec 4 := 7
    let count : BitVec 19 := 1
    let first : BitVec 18 := 255
    let c : Instr := Instr.unbind h kind count first
    let b : Nat := Spec.bind s h
    Spec.ReadyIdle s h c ∧ Canon s ∧ s.unbindStatus b kind.toNat count.toNat first.toNat = St.ok ∧ kind = 7) ∧
    (let s : State := qs
    let h : Hdr := (hd 0)
    let kind : BitVec 4 := 8
    let count : BitVec 19 := 1
    let first : BitVec 18 := 31
    let c : Instr := Instr.unbind h kind count first
    let b : Nat := Spec.bind s h
    Spec.ReadyIdle s h c ∧ Canon s ∧ s.unbindStatus b kind.toNat count.toNat first.toNat = St.ok ∧ kind = 8) ∧
    (let s : State := qs
    let h : Hdr := (hd 0)
    let kind : BitVec 4 := 9
    let count : BitVec 19 := 1
    let first : BitVec 18 := 255
    let c : Instr := Instr.unbind h kind count first
    let b : Nat := Spec.bind s h
    Spec.ReadyIdle s h c ∧ Canon s ∧ s.unbindStatus b kind.toNat count.toNat first.toNat = St.ok ∧ kind = 9) ∧
    (let s : State := qs
    let h : Hdr := (hd 0)
    let kind : BitVec 4 := 10
    let count : BitVec 19 := 1
    let first : BitVec 18 := 0
    let c : Instr := Instr.unbind h kind count first
    let b : Nat := Spec.bind s h
    Spec.ReadyIdle s h c ∧ Canon s ∧ s.unbindStatus b kind.toNat count.toNat first.toNat = St.ok ∧ kind = 10) := 
  ⟨by dsimp only; exact ⟨ready_idle _ _ _ (by unfold Spec.Ready Spec.Clear; decide +kernel), local_inj (by decide +kernel), by decide +kernel⟩,
   by dsimp only; exact ⟨ready_idle _ _ _ (by unfold Spec.Ready Spec.Clear; decide +kernel), by decide +kernel⟩,
   by dsimp only; exact ⟨ready_idle _ _ _ (by unfold Spec.Ready Spec.Clear; decide +kernel), by decide +kernel⟩,
   by dsimp only; exact ⟨ready_idle _ _ _ (by unfold Spec.Ready Spec.Clear; decide +kernel), by decide +kernel⟩,
   by dsimp only; exact ⟨ready_idle _ _ _ (by unfold Spec.Ready Spec.Clear; decide +kernel), by decide +kernel⟩,
   by dsimp only; exact ⟨ready_idle _ _ _ (by unfold Spec.Ready Spec.Clear; decide +kernel), by decide +kernel⟩,
   by dsimp only; exact ⟨ready_idle _ _ _ (by unfold Spec.Ready Spec.Clear; decide +kernel), by decide +kernel⟩,
   by dsimp only; exact ⟨ready_idle _ _ _ (by unfold Spec.Ready Spec.Clear; decide +kernel), by decide +kernel⟩,
   by dsimp only; exact ⟨ready_idle _ _ _ (by unfold Spec.Ready Spec.Clear; decide +kernel), by decide +kernel⟩⟩

theorem test_meets_UnbindAllEndsBinding :
    (let s : State := qs
    let h : Hdr := {hd 0 with irq := true}
    let first : BitVec 18 := 3
    let c : Instr := Instr.unbind h 15 0 first
    let b : Nat := first.toNat
    (∀ (d : Deferred), d.cmd = c → s.deferReady b d = true) ∧ Spec.Clear s h c ∧ Canon s ∧ (s.strm h.stream.toNat).bound = true ∧
    Spec.bind s h = b ∧ (s.bnd b).valid = true ∧ s.isLead b = true ∧ s.idle b = true ∧ (s.bnd b).boundary = []) := by dsimp only; exact ⟨defer_ball (by decide +kernel), by unfold Spec.Clear; decide +kernel⟩

theorem test_meets_ParkAndUnpark :
    (let s : State := pk
    let h : Hdr := (hd 2)
    let first : BitVec 18 := 0
    let m : Word64 := hb
    let stride : Word := 0x10000
    let b : Nat := Spec.bind s h
    let k : Nat := first.toNat
    let x : Ctx := s.ctx k
    let n : Nat := s.extent b
    Spec.ReadyIdle s h (Instr.park h 1 first m stride) ∧ Canon s ∧ s.parkStatus b 1 k m (BitVec.toNat stride) = St.ok ∧
    s.badRange x.home n = false) ∧
    (let s : State := pu
    let h : Hdr := (hd 2)
    let first : BitVec 18 := 0
    let res : BitVec 2 := 0
    let stride : Word := 0x10000
    let base : BitVec 48 := 128
    let b : Nat := Spec.bind s h
    let k : Nat := first.toNat
    let x : Ctx := s.ctx k
    let n : Nat := s.extent b
    Spec.ReadyIdle s h (Instr.unpark h 1 first res stride base) ∧ Canon s ∧
    s.unparkStatus b 1 k res (BitVec.toNat stride) base.toNat = St.ok ∧ s.badRange x.home n = false ∧
    (s.unparkOne b k res base.toNat).fst.spillFits b = true) := by
  refine ⟨?_, ?_⟩ <;> (dsimp only; exact ⟨ready_idle _ _ _ (by unfold Spec.Ready Spec.Clear; decide +kernel), by decide +kernel⟩)

theorem test_meets_LoadprogFillsSlot :
    (let s : State := sp
    let h : Hdr := (hd 1)
    let core : BitVec 10 := 0
    let slot : BitVec 6 := 0
    let poff : BitVec 24 := 0
    let m : Word64 := hb
    let n : Nat := 0
    let c : Instr := Instr.loadprog h core slot poff m
    let b : Nat := Spec.bind s h
    let len : Nat := imageLen (wordsOf ((s.headBytes h.stream m 64).getD []))
    let img : List Byte := (s.getMref h.stream m len).fst
    let x : Slot := Slot.ofImage (BitVec.ofNat 6 b) poff img
    Spec.ReadyIdle s h c ∧ Canon s ∧ s.localOf core.toNat = some n ∧ (s.loadCore b core.toNat).snd = St.ok ∧
    s.mrefCheck b m 64 = St.ok ∧ s.mrefCheck b m len = St.ok ∧ (s.headBytes h.stream m 64).isSome = true ∧
    s.sourceReady h.stream m len = true ∧ (s.getMref h.stream m len).snd.fst = false ∧
    s.progIssue b n slot.toNat x img.length true = St.ok ∧ (s.setSlot n slot.toNat x).extentsStatus b = St.ok) := by dsimp only; exact ⟨ready_idle _ _ _ (by unfold Spec.Ready Spec.Clear; decide +kernel), by decide +kernel⟩

theorem test_meets_LoadmatStoresRows :
    (let s : State := sm
    let h : Hdr := (hd 6)
    let core : BitVec 10 := 0
    let matrix : BitVec 8 := 0
    let desc : List Word := md
    let m : Word64 := hb
    let first : BitVec 17 := 0
    let count : BitVec 17 := 4
    let n : Nat := 0
    let c : Instr := Instr.loadmat h core matrix desc m first count
    let b : Nat := Spec.bind s h
    let mx : Nat := matrix.toNat
    let d : MatDesc := MatDesc.ofWords desc
    Spec.ReadyIdle s h c ∧ Canon s ∧ s.localOf core.toNat = some n ∧ n < 16 ∧ d.valid = true ∧ (s.rule n mx).valid = false ∧
    (0 < count.toNat → mrSpace m = 1 ∧ s.mrefLocal m = true ∧ s.badRange (s.mrefAddr m) (count.toNat * d.stride) = false) ∧
    (s.loadCore b core.toNat).snd = St.ok ∧ (0 < count.toNat → s.mrefCheck b m (count.toNat * d.stride) = St.ok) ∧
    (s.loadmatNow b core.toNat mx desc h.stream m first.toNat count.toNat []).snd.fst = St.ok) := by dsimp only; exact ⟨ready_idle _ _ _ (by unfold Spec.Ready Spec.Clear; decide +kernel), by decide +kernel⟩

theorem test_meets_EpochSetsRules :
    (let s : State := er
    let h : Hdr := {hd 1 with irq := true}
    let g : BitVec 8 := 0
    let len : BitVec 24 := 7
    let base : BitVec 48 := 1
    let b : Nat := Spec.bind s h
    let rs : List (Nat × Nat) := s.groupRules b g.toNat
    let alone : Prop := ∀ (d : Nat), d < 64 → BitVec.getLsbD (s.bnd b).mask d = true → d = s.sys.myDev.toNat
    Spec.ReadyIdle s h (Instr.epoch h g len base) ∧ Canon s ∧ s.isLead b = true ∧ 1 ≤ len.toNat ∧
    (alone ∧ rs ≠ [] ∨ (rs ≠ [] ∨ (s.peerAsk b g.toNat).getLsbD 0 = true) ∧ (s.peerAsk b g.toNat).getLsbD 2 = true) ∧
    (∀ (p : Nat × Nat), p ∈ rs → ∀ (x : Nat × Ctx), x ∈ s.memberCtxs p → x.snd.cstep.toNat ≤ base.toNat) ∧
    (∀ (p : Nat × Nat), p ∈ rs → (s.rule p.fst p.snd).overlap = true → ((s.mat p.fst p.snd).nrows + (s.rule p.fst p.snd).ovlRows - 1) / (s.rule p.fst p.snd).ovlRows ≤ len.toNat)) := by dsimp only; exact ⟨ready_idle _ _ _ (by unfold Spec.Ready Spec.Clear; decide +kernel), by decide +kernel⟩

end W21

/-! ## Group 22 -/

namespace W22

def B3 (f : Binding → Binding) (s : State) : State := {s with cmd := {s.cmd with bindings := [(3, f B)]}}
def er : State := poke cm (ruleAddr 0 0) (rl.set 0 0x80103000)
def bt : State := {poke cc (matAddr 0 0) mdS with fab := {cc.fab with circuits := [(2, {Circuit.empty with bound := true, binding := 3})]}}
def dcD : List Word := [0xC0300000, 0x00000004, 0, 0, 0, 1, 0, 7, 5, 0xFF0003,0,0,0,0,0,1]
def dch : Chan := Chan.ofBytes 3 false (dcD.flatMap (fun w => leBytes 4 w.toNat))
def dc : State := {cc with cmd := {cc.cmd with ctxs := [(0, {ctx0 with cidx := 0, cnvFirst := 4095, cnvCount := 1})]}, cnv := {cc.cnv with chans := [(4095, dch)]}}
def bo : State := B3 (fun x => {x with boundary := [⟨.snapshot (hq 2) 5 hb 0x100000, 3, []⟩, ⟨.epoch (hq 1) 0 7 1, 4, []⟩, ⟨.epoch (hq 1) 0 8 1, 5, []⟩]}) er
def lf1 : State := B3 (fun x => {x with running := true, queue := [⟨hd 0, 0, 0x20, some 1, 0, 0, []⟩]}) b3
def lf2 : State := B3 (fun x => {x with running := true}) dc
def lf3 : State := {cc with tmr := {cc.tmr with tb := 0x123456789abc}}

theorem test_meets_StepRunHalt :
    (let s : State := b3
    let h : Hdr := (hq 0)
    let n : Word := 7
    let b : Nat := Spec.bind s h
    let x : Binding := s.bnd b
    s.isLead b = true ∧ x.complete = true ∧ x.queue.length < 16 ∧ Spec.Ready s h (Instr.step h) ∧
    x.step.toNat + (1 + withdrawn x.queue) < 2 ^ 48 ∧ Spec.Ready s h (Instr.run h n) ∧ n ≠ 0 ∧
    x.step.toNat + (BitVec.toNat n + withdrawn x.queue) < 2 ^ 48 ∧ Spec.Ready s h (Instr.run h 0) ∧ Spec.Ready s h (Instr.halt h) ∧
    x.running = false ∧ x.windowOpen = false ∧ x.haltBy = []) ∧
    (let s : State := lf1
    let h : Hdr := (hq 0)
    let b : Nat := Spec.bind s h
    let x : Binding := s.bnd b
    Spec.Ready s h (Instr.halt h) ∧ s.isLead b = true ∧ x.running = true) := by
  refine ⟨?_, ?_⟩ <;> (dsimp only; unfold Spec.Ready Spec.Clear; decide +kernel)

theorem test_meets_ApplyAndBerth :
    (let s : State := er
    let h : Hdr := (hq 0)
    let g : BitVec 8 := 0
    let b : Nat := Spec.bind s h
    let x : Binding := s.bnd b
    Spec.Ready s h (Instr.apply h g) ∧ s.isLead b = true ∧ x.applyPending g.toNat = false ∧
    (∃ p, p ∈ s.groupRules b g.toNat ∧ ((s.rule p.fst p.snd).auto = false ∨ s.ruleState p = 3))) ∧
    (let s : State := bt
    let h : Hdr := (hq 3)
    let core : BitVec 10 := 0
    let m : BitVec 8 := 0
    let circuit : BitVec 8 := 2
    let k : BitVec 1 := 1
    let first : BitVec 48 := 5
    let last : BitVec 48 := 9
    let base : BitVec 14 := 64
    let lines : BitVec 14 := 2
    let n : Nat := 0
    let b : Nat := Spec.bind s h
    Spec.Ready s h (Instr.berth h core m circuit k first last base lines) ∧ s.localOf core.toNat = some n ∧
    (s.cor n).berthQ.length < 8 ∧
    s.berthStatus b core.toNat m.toNat circuit.toNat k.toNat first.toNat last.toNat base.toNat lines.toNat = St.ok) := by
  refine ⟨?_, ?_⟩ <;> (dsimp only; unfold Spec.Ready Spec.Clear; decide +kernel)

theorem test_meets_CopyMovesBytes :
    (let s : State := (poke cc hA [1,2,3,4])
    let h : Hdr := (hq 3)
    let mask : BitVec 4 := 0
    let count : BitVec 19 := 0
    let first : BitVec 18 := 0
    let src : Word64 := hb
    let dst : Word64 := (hw 16)
    let len : BitVec 38 := 16
    let circuit : BitVec 8 := 0
    let c : Bool → Instr := fun use => Instr.copy h 0 mask count first src dst len circuit use
    let b : Nat := Spec.bind s h
    let n : Nat := len.toNat
    let q : Word64 := (s.strm h.stream.toNat).cseq
    Canon s ∧ n % 16 = 0 ∧ 0 < n ∧ s.mrefCheck b src n = St.ok ∧ s.mrefCheck b dst n = St.ok ∧ mrSpace src ≠ 4 ∧
    s.mrefLocal src = true ∧ s.noRoute src = false ∧ s.noRoute dst = false ∧ s.badRange (s.mrefAddr src) n = false ∧
    s.instsIn (s.mrefAddr src) n = [] ∧ (mrSpace src = 3 ∨ mrSpace dst = 3 → s.idle b = true ∧ (s.bnd b).boundary = []) ∧
    Spec.Ready s h (c false) ∧ s.copyBehind b h.stream q dst n none = false ∧ s.mrefLocal dst = true) := by dsimp only; unfold Spec.Ready Spec.Clear; decide +kernel

theorem test_meets_DecodeWritesValues :
    (let s : State := dc
    let h : Hdr := (hq 2)
    let cfirst : BitVec 18 := 0
    let ch : BitVec 12 := 4095
    let dst : Word64 := hb
    let count : BitVec 19 := 2
    let c : Instr := Instr.decode h cfirst ch dst count
    let b : Nat := Spec.bind s h
    let n : Nat := 16 * count.toNat
    Spec.Ready s h c ∧ Canon s ∧ s.owns b 6 ch.toNat = true ∧ (s.chan ch.toNat).valid = true ∧ (s.chan ch.toNat).dec = true ∧
    1 ≤ count.toNat ∧ cfirst.toNat + count.toNat ≤ 262144 ∧ s.mrefCheck b dst n = St.ok ∧ s.mrefLocal dst = true ∧
    s.sys.lost.contains s.sys.myDev.toNat = false ∧ s.idle b = true) ∧
    (let s : State := lf2
    let h : Hdr := (hq 2)
    let cfirst : BitVec 18 := 0
    let ch : BitVec 12 := 4095
    let dst : Word64 := hb
    let count : BitVec 19 := 2
    let c : Instr := Instr.decode h cfirst ch dst count
    let b : Nat := Spec.bind s h
    let n : Nat := 16 * count.toNat
    Spec.Ready s h c ∧ Canon s ∧ s.owns b 6 ch.toNat = true ∧ (s.chan ch.toNat).valid = true ∧ (s.chan ch.toNat).dec = true ∧
    1 ≤ count.toNat ∧ cfirst.toNat + count.toNat ≤ 262144 ∧ s.mrefCheck b dst n = St.ok ∧ s.mrefLocal dst = true ∧
    s.sys.lost.contains s.sys.myDev.toNat = false ∧ s.idle b = false) := by
  refine ⟨?_, ?_⟩ <;> (dsimp only; unfold Spec.Ready Spec.Clear; decide +kernel)

theorem test_meets_FenceTimestampHintNote :
    (let s : State := cc
    let h : Hdr := (hq 0)
    let scope : BitVec 1 := 1
    let kind : BitVec 4 := 5
    let watts : BitVec 12 := 10
    let dur : BitVec 16 := 10
    let ahead : BitVec 16 := 20
    let value : Word := 0xabcdef12
    let b : Nat := Spec.bind s h
    let act : List Hint := List.filter (fun x => decide ((s.bnd x.binding.toNat).step.toNat < x.first + x.dur.toNat)) s.gov.hints
    Canon s ∧ Spec.Ready s h (Instr.fence h scope) ∧
    (scope = 0 ∨ ∀ (p : Nat × Machine.Stream), p ∈ s.cmd.streams → p.snd.binding.toNat = b → p.snd.outst = []) ∧
    Spec.Ready s h (Instr.hint h kind watts dur ahead) ∧ kind.toNat ≤ 5 ∧ watts ≠ 0 ∧ dur ≠ 0 ∧ act.length < 16 ∧
    Spec.Ready s h (Instr.note h value)) ∧
    (let s : State := lf3
    let h : Hdr := (hq 1)
    let dst : Word64 := (hw 32)
    let b : Nat := Spec.bind s h
    Canon s ∧ Spec.Ready s h (Instr.timestamp h 0 dst) ∧ s.mrefCheck b dst 16 = St.ok ∧ s.mrefLocal dst = true ∧
    s.sys.lost.contains s.sys.myDev.toNat = false ∧ Spec.Ready s h (Instr.timestamp h 1 dst) ∧ s.noRoute dst = false) := by
  refine ⟨?_, ?_⟩ <;> (dsimp only; unfold Spec.Ready Spec.Clear; decide +kernel)

end W22

/-! ## Group 23 -/

namespace W23

def by' (k v : Nat) (s : State) : State := {s with syn := {s.syn with owner := [(k, some 3)], buoys := if v = 0 then [] else [(k, BitVec.ofNat 31 v)]}}
def qq (f : Queue → Queue) (g : Writer → Writer) (s : State) : State :=
  let s := (s.rset (Reg.mqQCfg0 4095) 0x00800000).rset (Reg.mqQCfg1 4095) 0x00050500
  {s with syn := {s.syn with queues := [(4095, f {Queue.empty with bound := true, binding := 3})], writers := let w := g {Writer.empty with binding := 3, stream := 5}; [(4095, w)]}}
def sq (g : Writer → Writer) := qq (fun q => {q with state := 1, gen := 7}) g cc
def lf1 : State := sq (fun w => {w with isOpen := true, rsize := 32, credit := 5, tail := 29, gen := 7})
def lf2 : State := sq (fun w => {w with closed := true})

theorem test_meets_BuoyArithmetic :
    (let s : State := (by' 65471 (2^31-2) cc)
    let h : Hdr := (hq 0)
    let dev : BitVec 6 := 0
    let n : BitVec 16 := 1
    let k : BitVec 16 := 65471
    let b : Nat := Spec.bind s h
    let v : Nat := (s.buoy k.toNat).toNat
    Spec.QuietBuoy s h dev k ∧ Canon s ∧ s.ptbBuoy = false ∧ s.copyWaits b h.stream = false ∧
    s.markersFor h.stream (s.strm h.stream.toNat).cseq = 0 ∧ n ≠ 0 ∧ Spec.Ready s h (Instr.signal h dev n k) ∧ v + n.toNat < 2 ^ 31 ∧
    Spec.Ready s h (Instr.dec h dev n k) ∧ n.toNat ≤ v) ∧
    (let s : State := (by' 65471 (2^31-2) cc)
    let h : Hdr := (hq 0)
    let dev : BitVec 6 := 0
    let n : BitVec 16 := 2
    let k : BitVec 16 := 65471
    let b : Nat := Spec.bind s h
    let v : Nat := (s.buoy k.toNat).toNat
    Spec.QuietBuoy s h dev k ∧ Canon s ∧ s.ptbBuoy = false ∧ s.copyWaits b h.stream = false ∧
    s.markersFor h.stream (s.strm h.stream.toNat).cseq = 0 ∧ n ≠ 0 ∧ Spec.Ready s h (Instr.signal h dev n k) ∧ 2 ^ 31 ≤ v + n.toNat) ∧
    (let s : State := (by' 0 1 cc)
    let h : Hdr := (hq 0)
    let dev : BitVec 6 := 0
    let n : BitVec 16 := 2
    let k : BitVec 16 := 0
    let b : Nat := Spec.bind s h
    let v : Nat := (s.buoy k.toNat).toNat
    Spec.QuietBuoy s h dev k ∧ Canon s ∧ s.ptbBuoy = false ∧ s.copyWaits b h.stream = false ∧
    s.markersFor h.stream (s.strm h.stream.toNat).cseq = 0 ∧ n ≠ 0 ∧ Spec.Ready s h (Instr.dec h dev n k) ∧ v < n.toNat) ∧
    (let s : State := (by' 0 0 cc)
    let h : Hdr := (hq 1)
    let dev : BitVec 6 := 0
    let k : BitVec 16 := 0
    let tmo : Word := 7
    let b : Nat := Spec.bind s h
    let v : Nat := (s.buoy k.toNat).toNat
    Spec.QuietBuoy s h dev k ∧ Canon s ∧ s.ptbBuoy = false ∧ s.copyWaits b h.stream = false ∧
    s.markersFor h.stream (s.strm h.stream.toNat).cseq = 0 ∧ Spec.Ready s h (Instr.take h dev k tmo) ∧ v = 0) ∧
    (let s : State := (by' 0 1 cc)
    let h : Hdr := (hq 1)
    let dev : BitVec 6 := 0
    let k : BitVec 16 := 0
    let tmo : Word := 7
    let b : Nat := Spec.bind s h
    let v : Nat := (s.buoy k.toNat).toNat
    Spec.QuietBuoy s h dev k ∧ Canon s ∧ s.ptbBuoy = false ∧ s.copyWaits b h.stream = false ∧
    s.markersFor h.stream (s.strm h.stream.toNat).cseq = 0 ∧ Spec.Ready s h (Instr.take h dev k tmo) ∧ 0 < v) := by
  refine ⟨?_, ?_, ?_, ?_, ?_⟩ <;> (dsimp only; unfold Spec.QuietBuoy Spec.Ready Spec.Clear; decide +kernel)

theorem test_meets_WaitAndWatch :
    (let s : State := (by' 5 7 cc)
    let h : Hdr := (hq 1)
    let dev : BitVec 6 := 0
    let eq : Bool := false
    let k : BitVec 16 := 5
    let value : Word := 7
    let tmo : Word := 9
    let v : Nat := (s.buoy k.toNat).toNat
    let holds : Prop := if eq = true then v = BitVec.toNat value else BitVec.toNat value ≤ v
    Spec.QuietBuoy s h dev k ∧ Canon s ∧ Spec.Ready s h (Instr.wait h dev eq k value tmo) ∧ holds) ∧
    (let s : State := (by' 5 7 cc)
    let h : Hdr := (hq 1)
    let dev : BitVec 6 := 0
    let eq : Bool := true
    let k : BitVec 16 := 5
    let value : Word := 8
    let tmo : Word := 9
    let v : Nat := (s.buoy k.toNat).toNat
    let holds : Prop := if eq = true then v = BitVec.toNat value else BitVec.toNat value ≤ v
    Spec.QuietBuoy s h dev k ∧ Canon s ∧ Spec.Ready s h (Instr.wait h dev eq k value tmo) ∧ (¬holds)) ∧
    (let s : State := (by' 5 7 cc)
    let h : Hdr := (hq 2)
    let dev : BitVec 6 := 0
    let core : BitVec 10 := 0
    let eq : Bool := true
    let k : BitVec 16 := 5
    let value : Word := 8
    let tmo : Word := 9
    let cookie : Word64 := 1
    let b : Nat := Spec.bind s h
    let v : Nat := (s.buoy k.toNat).toNat
    let holds : Prop := if eq = true then v = BitVec.toNat value else BitVec.toNat value ≤ v
    Spec.QuietBuoy s h dev k ∧ Canon s ∧ Spec.Ready s h (Instr.watch h dev core eq k value tmo cookie) ∧
    s.coreOwned b core.toNat = true ∧ s.syn.watches.length < 16384 ∧ (¬holds)) := by
  refine ⟨?_, ?_, ?_⟩ <;> (dsimp only; unfold Spec.QuietBuoy Spec.Ready Spec.Clear; decide +kernel)

theorem test_meets_SendAndRecv :
    (let s : State := lf1
    let h : Hdr := (hq 2)
    let dev : BitVec 6 := 0
    let tag : BitVec 16 := 9
    let q : BitVec 12 := 4095
    let msg : List Word64 := [1,2]
    let dst : Word64 := hb
    let tmo : Word := 0
    let b : Nat := Spec.bind s h
    let w : Writer := s.writer dev.toNat q.toNat
    let nm1 : BitVec 2 := BitVec.ofNat 2 (msg.length - 1)
    let x : Queue := s.queueAt q.toNat
    Canon s ∧ 1 ≤ msg.length ∧ msg.length ≤ 4 ∧ Spec.Ready s h (Instr.send h dev nm1 tag q msg) ∧ dev = s.sys.myDev ∧
    BitVec.getLsbD (s.bnd b).mask dev.toNat = true ∧ s.owns b 4 q.toNat = true ∧ s.qWstream q.toNat = h.stream.toNat ∧
    s.sys.lost.contains dev.toNat = false ∧ x.state ≠ 0 ∧ w.stream = h.stream ∧ w.isOpen = true ∧ w.closed = false ∧
    w.need (msg.length + 1) ≤ w.credit ∧ Spec.Ready s h (Instr.recv h q dst tmo) ∧ s.qRstream q.toNat = h.stream.toNat ∧
    s.mrefCheck b dst 40 = St.ok ∧ s.noRoute dst = false ∧ (∀ (r : RecvE), r ∈ s.syn.recvs → r.queue ≠ q) ∧ x.fill = 0) ∧
    (let s : State := lf2
    let h : Hdr := (hq 2)
    let dev : BitVec 6 := 0
    let tag : BitVec 16 := 9
    let q : BitVec 12 := 4095
    let msg : List Word64 := [1,2]
    let b : Nat := Spec.bind s h
    let w : Writer := s.writer dev.toNat q.toNat
    let nm1 : BitVec 2 := BitVec.ofNat 2 (msg.length - 1)
    let x : Queue := s.queueAt q.toNat
    Canon s ∧ 1 ≤ msg.length ∧ msg.length ≤ 4 ∧ Spec.Ready s h (Instr.send h dev nm1 tag q msg) ∧ dev = s.sys.myDev ∧
    BitVec.getLsbD (s.bnd b).mask dev.toNat = true ∧ s.owns b 4 q.toNat = true ∧ s.qWstream q.toNat = h.stream.toNat ∧
    s.sys.lost.contains dev.toNat = false ∧ x.state ≠ 0 ∧ w.stream = h.stream ∧ w.closed = true) ∧
    (let s : State := (qq id id cc)
    let h : Hdr := (hq 2)
    let q : BitVec 12 := 4095
    let msg : List Word64 := [1,2]
    let dst : Word64 := hb
    let tmo : Word := 8
    let b : Nat := Spec.bind s h
    let x : Queue := s.queueAt q.toNat
    Canon s ∧ 1 ≤ msg.length ∧ msg.length ≤ 4 ∧ Spec.Ready s h (Instr.recv h q dst tmo) ∧ s.owns b 4 q.toNat = true ∧
    s.qRstream q.toNat = h.stream.toNat ∧ s.mrefCheck b dst 40 = St.ok ∧ s.noRoute dst = false ∧
    (∀ (r : RecvE), r ∈ s.syn.recvs → r.queue ≠ q) ∧ x.state = 0) := by
  refine ⟨?_, ?_, ?_⟩ <;> (dsimp only; unfold Spec.Ready Spec.Clear; decide +kernel)

end W23

/-! ## Group 24 -/

namespace W24

def chE (w0 w1 w2 : Word) : Chan := Chan.ofBytes 3 false ([w0, w1, w2, 0, 0x3C000000, 0x00010000, 0, 9, 0x01000000, 0,0,0,0,0,0,1].flatMap (fun w => leBytes 4 w.toNat))
def se (w0 w1 w2 : Word) (i : Inst → Inst) (s : State) : State := {s with cmd := {s.cmd with banks := [(0, some 3), (1, some 3), (2, some 3), (3, some 3)] ++ s.cmd.banks, ctxs := [(0, {ctx0 with cidx := 0, cnvFirst := 4095, cnvCount := 1, cstep := 6})]}, cnv := {s.cnv with chans := [(4095, chE w0 w1 w2)], insts := let x := i Inst.empty; if x = Inst.empty then [] else [(4095*2^18, x)]}}
def e0 (s : State) := se 0x80300000 4 0x00020000 id s
def up (s : State) := s.rset (Reg.ethPortStat 1) 0x80000000
def px : Nat × Ctx := (0, {ctx0 with cidx := 0, cnvFirst := 4095, cnvCount := 1, cstep := 6})
def row : List Byte := List.replicate 32 1
def Z1 : State := (e0 (up (poke cc hA [1,2,3,4])))
def Z3 : State := (e0 (up (poke cc hA [1,2,3,4])))
def Z4 : State := (e0 (up (poke cc hA [1,2,3,4])))
def es (w0 w1 w2 : Word) (i : Inst → Inst) : State := {run3 (se w0 w1 w2 i cm) with core := (cc.setCor 0 {cc.cor 0 with phase := .idle}).core}
def Z6 : State := (es 0x80300000 4 0x00020000 (fun x => {x with slots := [(2, 6, 0, leBytes 16 0x04030201), (3, 7, 0, [])]}))
def Z7 : State := (es 0x80300000 4 0x00020000 (fun x => {x with waiting := true}))
def Z8 : State := (es 0x80300000 0x02000004 0x00020000 (fun x => {x with lastU := [65535, 3, 4, 5]}))
def v0 : BitVec 18 × List (BitVec 12) × List (List ActVal) := (0, [4095], [[⟨4095, true, 1, false, some 7, [1, 2]⟩], [⟨4095, false, 0, true, none, [0, 0]⟩]])
def dcD : List Word := [0xC0300000, 0x00001004, 0, 0, 0, 1, 0, 7, 5, 0xFF0003,0,0,0,0,0,2]
def dch : Chan := Chan.ofBytes 3 false (dcD.flatMap (fun w => leBytes 4 w.toNat))
def px2 : Nat × Ctx := (1, {px.2 with cidx := 1})
def dd : State := {run3 cc with cmd := {(run3 cc).cmd with banks := [(0, some 3), (1, some 3), (2, some 3), (3, some 3)] ++ cc.cmd.banks, ctxs := [px, px2]}, cnv := {cc.cnv with chans := [(4095, dch)], insts := [(4095*2^18, {Inst.empty with due := some 5, hist := [[1],[2],[3]]}), (4095*2^18+1, {Inst.empty with due := some 5})], taps := [⟨4095, 0, 3, 2⟩,⟨4095, 0, 3, 2⟩]}}
def at2 : State := let s := dd.rset (Reg.cnvActCfg 255) 0xC3000064; {s with cnv := {s.cnv with acts := [(255, {ActFrame.empty with frame := some v0, seq := 77, cfgNext := some 5, leadNext := some 6})]}}
def Z15 : State := (up at2)
def Z16 : State := ({at2 with cnv := {at2.cnv with acts := [(255, {ActFrame.empty with frame := some v0})]}})

theorem test_meets_ObservationRows :
    (let s : State := Z1
    let h : Hdr := (hq 2)
    let k : BitVec 18 := 0
    let ch : BitVec 12 := 4095
    let src : Word64 := hb
    let tstep : BitVec 20 := 6
    let zin : BitVec 8 := 0
    let port : BitVec 1 := 1
    let hd : EthHead := h0
    let row : List Byte := row
    let p : Nat × Ctx := px
    let n : Nat := 6
    let c : Chan := s.chan ch.toNat
    let d : Nat := (tstep.toNat + 2 ^ 20 - n % 2 ^ 20) % 2 ^ 20
    let t : Nat := n + d
    Canon s ∧ Alive s ∧ Spec.Encoder s ch.toNat k.toNat p n ∧ (c.kind ≠ 2 ∨ t % c.win = 0) ∧
    Spec.Ready s h (Instr.encode h k ch src 1 tstep zin) ∧ d ≤ 3 ∧ mrSpace src ≠ 4 ∧ s.instsIn (s.mrefAddr src) c.rowBytes = [] ∧
    s.owns (Spec.bind s h) 6 ch.toNat = true ∧ s.mrefCheck (Spec.bind s h) src c.rowBytes = St.ok ∧ s.mrefLocal src = true ∧
    s.badRange (s.mrefAddr src) c.rowBytes = false ∧ s.sys.lost.contains s.sys.myDev.toNat = false ∧ 0 < c.rowBytes ∧
    Spec.Passes s port.toNat hd ∧ hd.sub = 0 ∧ s.isReady = true ∧ (hd.rtag = none ∨ s.tableClear port.toNat 1552 4 = true) ∧
    (frameRow c.ifmt c.width row).length = c.rowBytes) ∧
    (let s : State := Z3
    let k : BitVec 18 := 0
    let ch : BitVec 12 := 4095
    let tstep : BitVec 20 := 10
    let port : BitVec 1 := 1
    let hd : EthHead := h0
    let row : List Byte := row
    let p : Nat × Ctx := px
    let n : Nat := 6
    let c : Chan := s.chan ch.toNat
    let d : Nat := (tstep.toNat + 2 ^ 20 - n % 2 ^ 20) % 2 ^ 20
    let t : Nat := n + d
    Canon s ∧ Alive s ∧ Spec.Encoder s ch.toNat k.toNat p n ∧ (c.kind ≠ 2 ∨ t % c.win = 0) ∧ Spec.Passes s port.toNat hd ∧ hd.sub = 0 ∧
    s.isReady = true ∧ (hd.rtag = none ∨ s.tableClear port.toNat 1552 4 = true) ∧ (frameRow c.ifmt c.width row).length = c.rowBytes ∧
    3 < d ∧ d < 2 ^ 19) ∧
    (let s : State := Z4
    let k : BitVec 18 := 0
    let ch : BitVec 12 := 4095
    let tstep : BitVec 20 := 5
    let port : BitVec 1 := 1
    let hd : EthHead := h0
    let row : List Byte := row
    let p : Nat × Ctx := px
    let n : Nat := 6
    let c : Chan := s.chan ch.toNat
    let d : Nat := (tstep.toNat + 2 ^ 20 - n % 2 ^ 20) % 2 ^ 20
    let t : Nat := n + d
    Canon s ∧ Alive s ∧ Spec.Encoder s ch.toNat k.toNat p n ∧ (c.kind ≠ 2 ∨ t % c.win = 0) ∧ Spec.Passes s port.toNat hd ∧ hd.sub = 0 ∧
    s.isReady = true ∧ (hd.rtag = none ∨ s.tableClear port.toNat 1552 4 = true) ∧ (frameRow c.ifmt c.width row).length = c.rowBytes ∧
    2 ^ 19 ≤ d) := 
  ⟨by dsimp only; unfold Spec.Encoder Spec.Ready Spec.Passes Spec.Clear; decide +kernel,
   by dsimp only; unfold Spec.Encoder Spec.Passes; decide +kernel,
   by dsimp only; unfold Spec.Encoder Spec.Passes; decide +kernel⟩

theorem test_meets_TapsAndDecode :
    (let s : State := dd
    let ch : BitVec 12 := 4095
    let k : BitVec 18 := 0
    let neuron : BitVec 6 := 3
    let cnt : BitVec 3 := 2
    let p : Nat × Ctx := px
    let d : BitVec 48 := 5
    let c : Chan := s.chan ch.toNat
    let tap : Tap := { channel := ch, cidx := k, neuron := neuron.toNat, n := cnt.toNat }
    let x : Inst := s.instOf ch.toNat k.toNat
    Canon s ∧ Alive s ∧ s.ctxByIdx c.binding.toNat k.toNat = some p ∧ tap ∈ s.cnv.taps ∧ x.due = some d ∧ c.frozen = false ∧
    s.chanHome ch.toNat = true ∧ s.instBad ch.toNat k.toNat = false ∧ c.width ≤ 64 ∧
    ((s.turnOf c.binding.toNat true ch.toNat k.toNat fun d q => decide ((s.inst d q.snd.cidx.toNat).due = none)) = true) ∧
    (∃ q, q ∈ s.decoders c.binding.toNat ∧ q ≠ (ch.toNat, k.toNat) ∧ (s.inst q.fst q.snd).due ≠ none) ∧ s.cnv.decodes = []) := by dsimp only; decide +kernel

end W24

/-! ## Group 30 -/

namespace W30

def ru : State := run3 (c0 (fun c => {c with phase := .neuron}))
def two : State := {ru with cmd := {ru.cmd with ctxs := [(0, ctx0), (9, {ctx0 with cidx := 2, base := 128})]}}
def twoB : State := {two with mem := {two.mem with bad := [(recordAddr ctx0 slot0 1)/8]}, cmd := {two.cmd with bindings := [(3, {B with running := true, queue := [⟨hd 0, 0, 0x20, some 1, 0, 0, []⟩]})]}}
def bq (f : Binding → Binding) (s : State) : State := {s with cmd := {s.cmd with bindings := [(3, f {B with queue := [⟨hd 0, 0, 0x20, some 1, 0, 0, []⟩]})]}}
def z1 : State := bq id cc
def z2 : State := (bq id cc).rset (Reg.cmdStepCtrl 3) 0x80000401
def z4 : State := (bq (fun x => {x with lead := 1, mask := 3}) cc).rset (Reg.cmdStepCtrl 3) 0x80000401
def z5 : State := bq (fun x => {x with waitSlot := true}) z2
def z6 : State := bq (fun x => {x with running := true, modeIn := 1}) z2
def cs : State := let s := run3 (c0 (fun c => {c with phase := .idle})); {s with rtr := {s.rtr with rings := [(0, [⟨0, 3, 7, 1, false⟩, ⟨0, 3, 7, 0, false⟩, ⟨1, 3, 9, 1, false⟩])]}}
def lf1 : State := run3 (c0 (fun c => {c with phase := .integrate, berth0 := {c.berth0 with state := 2, last := 0, lines := 1}, berth1 := {c.berth1 with state := 2, last := 1, lines := 1}}))

theorem test_meets_LaneGroups :
    (let s : State := two
    let core : BitVec 10 := 0
    let sl : Nat := 0
    let p : Nat := 0
    let n : Nat := core.toNat
    let c : Core := s.cor n
    let t : Slot := s.slotAt n sl
    let cs : List (Nat × Ctx) := s.coreCtxs n c.binding.toNat
    let group : List ((Nat × Ctx) × Nat) := List.take 512 (List.drop p (List.flatMap (fun q => List.map (fun i => (q, i)) (List.range t.nLocal)) cs))
    let bad : (Nat × Ctx) × Nat → Bool := fun q => s.badRange (recordAddr q.fst.snd t q.snd) t.stride
    Canon s ∧ Alive s ∧ n < 16 ∧ sl < 64 ∧ c.phase = Phase.neuron ∧ c.frozen = false ∧ c.lanes = [] ∧ s.nextGroup n = some (sl, p) ∧
    (∀ (q : (Nat × Ctx) × Nat), q ∈ group → bad q = false)) ∧
    (let s : State := twoB
    let core : BitVec 10 := 0
    let sl : Nat := 0
    let p : Nat := 0
    let n : Nat := core.toNat
    let c : Core := s.cor n
    let t : Slot := s.slotAt n sl
    let cs : List (Nat × Ctx) := s.coreCtxs n c.binding.toNat
    let group : List ((Nat × Ctx) × Nat) := List.take 512 (List.drop p (List.flatMap (fun q => List.map (fun i => (q, i)) (List.range t.nLocal)) cs))
    let bad : (Nat × Ctx) × Nat → Bool := fun q => s.badRange (recordAddr q.fst.snd t q.snd) t.stride
    Canon s ∧ Alive s ∧ n < 16 ∧ sl < 64 ∧ c.phase = Phase.neuron ∧ c.frozen = false ∧ c.lanes = [] ∧ s.nextGroup n = some (sl, p) ∧
    (∃ q, q ∈ group ∧ bad q = true)) := by
  refine ⟨?_, ?_⟩ <;> (dsimp only; decide +kernel)

theorem test_meets_GroupAndPhaseEnd :
    (let s : State := lf1
    let core : BitVec 10 := 0
    let n : Nat := core.toNat
    let c : Core := s.cor n
    Canon s ∧ Alive s ∧ n < 16 ∧ c.phase = Phase.integrate ∧ (¬n ∈ s.rtr.draining) ∧ c.inbox = [] ∧ c.windows = [] ∧
    s.phase1Waits n = false) := by dsimp only; decide +kernel

theorem test_meets_CoresStart :
    (let s : State := cs
    let core : BitVec 10 := 0
    let n : Nat := core.toNat
    let c : Core := s.cor n
    let b : Nat := c.binding.toNat
    Canon s ∧ Alive s ∧ c.bound = true ∧ (s.bnd b).running = true ∧ c.phase = Phase.idle ∧ s.corePresent n = true) := by dsimp only; decide +kernel

end W30

/-! ## Group 31 -/

namespace W31

def pk : Packet := ⟨1, 0, 0, 7, 0, false, 3, [0x21]⟩
def d1 : State := run3 (c0 (fun c => {c with phase := .emit}))
def d2 : State := run3 (c0 (fun c => {c with phase := .emit, openPkts := [pk]}))
def d3 : State := run3 (c0 (fun c => {c with phase := .done}))
def BB (f : Binding → Binding) (s : State) : State := {s with cmd := {s.cmd with bindings := [(3, f { B with running := true, step := 5 })]}}
def d4 : State := BB (fun x => {x with mask := 3, lead := 0, signals := [1]}) d3
def d5 : State := BB (fun x => {x with mask := 3, lead := 1}) d3
def d6 : State := BB (fun x => {x with mask := 3, lead := 0}) d1
def stb : State → State := fun s => (s.rset Reg.ptbCtrl 1).rset Reg.ptbBuoydly 0x80000005
def q1 : StepCmd := ⟨hq 0, 0, 0x20, some 1, 0, 0, []⟩
def q9 : StepCmd := ⟨hq 1, 0, 0x21, some 9, 4, 0, []⟩
def o (s : State) : State := {s with cmd := {s.cmd with streams := [(5, { Stream.empty with bound := true, binding := 3, cseq := 1, outst := [⟨0, 0x20, hq 0, 0, 0⟩] })]}}
def x1 : State := o (BB (fun x => {x with queue := [q1], signals := [0], lenIn := 0x124F8}) d3)
def x2 : State := o (BB (fun x => {x with queue := [q9], signals := [0], lenIn := 0x124F8}) d3)
def x5 : State := {BB (fun x => {x with mask := 3, lead := 1}) d3 with sys := rdy.sys}
def lf1 : State := {stb d6 with ptb := [.refresh 1 1, .step 3 1 5 [(4, true), (5, false)] 0x12]}

theorem test_meets_DoneAndSignal :
    (let s : State := lf1
    let core : BitVec 10 := 0
    let b : BitVec 6 := 3
    let dev : BitVec 6 := 1
    let step : BitVec 20 := 5
    let gates : List (BitVec 8 × Bool) := [(4, true), (5, false)]
    let status : Byte := 0x12
    let n : Nat := core.toNat
    let c : Core := s.cor n
    let x : Binding := s.bnd b.toNat
    Canon s ∧ Alive s ∧ c.phase = Phase.emit ∧ c.fired = [] ∧ c.holding = [] ∧ s.tapsLeft (s.sysOf n) = false ∧
    s.encodesLeft n (s.sysOf n) = false ∧ c.openPkts = [] ∧ x.valid = true ∧ x.running = true ∧ s.stepDone b.toNat = false ∧
    s.isLead b.toNat = true ∧ dev ≠ s.sys.myDev ∧ BitVec.getLsbD x.mask dev.toNat = true ∧ step = BitVec.truncate 20 x.step ∧
    s.ptbStepBuoy = true ∧ (¬dev.toNat ∈ x.signals) ∧ (∀ (q : StepCmd), q ∈ x.queue → q.left ≠ some 0) ∧
    (List.find? (fun y => decide (y.kind = 3)) s.ptb = some (Held.step b dev step gates status))) ∧
    (let s : State := d4
    let b : BitVec 6 := 3
    let dev : BitVec 6 := 1
    let step : BitVec 20 := 5
    let x : Binding := s.bnd b.toNat
    Canon s ∧ Alive s ∧ x.valid = true ∧ x.running = true ∧ x.signalled = false ∧ s.stepDone b.toNat = true ∧ s.isLead b.toNat = true ∧
    s.ptbStepBuoy = false ∧ (¬s.sys.myDev.toNat ∈ x.signals) ∧ dev ≠ s.sys.myDev ∧ BitVec.getLsbD x.mask dev.toNat = true ∧
    (step ≠ BitVec.truncate 20 x.step ∨ s.ptbStepBuoy = false ∧ dev.toNat ∈ x.signals)) ∧
    (let s : State := d2
    let core : BitVec 10 := 0
    let p : Packet := pk
    let n : Nat := core.toNat
    let c : Core := s.cor n
    Canon s ∧ Alive s ∧ c.phase = Phase.emit ∧ c.fired = [] ∧ c.holding = [] ∧ s.tapsLeft (s.sysOf n) = false ∧
    s.encodesLeft n (s.sysOf n) = false ∧ c.openPkts = [p] ∧ s.replica p.dstCore = none ∧
    p ≠ { dstCore := 0, srcCore := 0, delay := 0, ctxBase := 0, matrix := 0, fixed := false, step := 0, records := [] }) ∧
    (let s : State := d5
    let b : BitVec 6 := 3
    let x : Binding := s.bnd b.toNat
    Canon s ∧ Alive s ∧ x.valid = true ∧ x.running = true ∧ x.signalled = false ∧ s.stepDone b.toNat = true ∧
    s.isLead b.toNat = false ∧ (¬x.lead.toNat ∈ s.sys.lost)) ∧
    (let s : State := d6
    let b : BitVec 6 := 3
    let dev : BitVec 6 := 1
    let step : BitVec 20 := 5
    let x : Binding := s.bnd b.toNat
    Canon s ∧ Alive s ∧ x.valid = true ∧ s.isLead b.toNat = true ∧ dev ≠ s.sys.myDev ∧ BitVec.getLsbD x.mask dev.toNat = true ∧
    step = BitVec.truncate 20 x.step ∧ s.ptbStepBuoy = false ∧ (¬dev.toNat ∈ x.signals) ∧
    (∀ (q : StepCmd), q ∈ x.queue → q.left ≠ some 0)) ∧
    (let s : State := (stb d3)
    let b : BitVec 6 := 3
    let x : Binding := s.bnd b.toNat
    Canon s ∧ Alive s ∧ x.valid = true ∧ x.running = true ∧ x.signalled = false ∧ s.stepDone b.toNat = true ∧ s.isLead b.toNat = true ∧
    s.ptbStepBuoy = true) := by
  refine ⟨?_, ?_, ?_, ?_, ?_, ?_⟩ <;> (dsimp only; decide +kernel)

theorem test_meets_StepsEnd :
    (let s : State := x1
    let b : BitVec 6 := 3
    let q : StepCmd := q1
    let k : Nat := b.toNat
    let x : Binding := s.bnd k
    let due : Nat := BitVec.toNat x.startedAt + nsOf (BitVec.toNat x.lenIn + x.extraIn.toNat)
    Canon s ∧ Alive s ∧ x.valid = true ∧ x.running = true ∧ x.modeIn = 0 ∧ s.regMode k = 0 ∧ x.halting = false ∧ x.windowOpen = false ∧
    s.bindingRules k = [] ∧ x.votes = [] ∧ (∀ (p : Nat × Ctx), p ∈ s.ctxsOf k → p.snd.gated = false) ∧ s.decoders k = [] ∧
    s.cnv.decodes = [] ∧ due < 2 ^ 64 ∧ x.samples = [] ∧ s.isLead k = true ∧ 1 ≤ x.nDevs ∧ x.nDevs ≤ x.signals.length ∧ x.queue = [q] ∧
    q.waits = [] ∧ s.farGroups k = [] ∧ q.left = some 1) ∧
    (let s : State := x2
    let b : BitVec 6 := 3
    let q : StepCmd := q9
    let k : Nat := b.toNat
    let x : Binding := s.bnd k
    let due : Nat := BitVec.toNat x.startedAt + nsOf (BitVec.toNat x.lenIn + x.extraIn.toNat)
    let l : Nat := 7
    Canon s ∧ Alive s ∧ x.valid = true ∧ x.running = true ∧ x.modeIn = 0 ∧ s.regMode k = 0 ∧ x.halting = false ∧ x.windowOpen = false ∧
    s.bindingRules k = [] ∧ x.votes = [] ∧ (∀ (p : Nat × Ctx), p ∈ s.ctxsOf k → p.snd.gated = false) ∧ s.decoders k = [] ∧
    s.cnv.decodes = [] ∧ due < 2 ^ 64 ∧ x.samples = [] ∧ s.isLead k = true ∧ 1 ≤ x.nDevs ∧ x.nDevs ≤ x.signals.length ∧ x.queue = [q] ∧
    q.waits = [] ∧ s.farGroups k = [] ∧ q.left = some (l + 2)) ∧
    (let s : State := x5
    let b : BitVec 6 := 3
    let k : Nat := b.toNat
    let x : Binding := s.bnd k
    let due : Nat := BitVec.toNat x.startedAt + nsOf (BitVec.toNat x.lenIn + x.extraIn.toNat)
    Canon s ∧ Alive s ∧ x.valid = true ∧ x.running = true ∧ x.modeIn = 0 ∧ s.regMode k = 0 ∧ x.halting = false ∧ x.windowOpen = false ∧
    s.bindingRules k = [] ∧ x.votes = [] ∧ (∀ (p : Nat × Ctx), p ∈ s.ctxsOf k → p.snd.gated = false) ∧ s.decoders k = [] ∧
    s.cnv.decodes = [] ∧ due < 2 ^ 64 ∧ x.samples = [] ∧ s.isLead k = false ∧ x.queue = []) ∧
    (let s : State := d1
    let b : BitVec 6 := 3
    let k : Nat := b.toNat
    let x : Binding := s.bnd k
    let due : Nat := BitVec.toNat x.startedAt + nsOf (BitVec.toNat x.lenIn + x.extraIn.toNat)
    Canon s ∧ Alive s ∧ x.valid = true ∧ x.running = true ∧ x.modeIn = 0 ∧ s.regMode k = 0 ∧ x.halting = false ∧ x.windowOpen = false ∧
    s.bindingRules k = [] ∧ x.votes = [] ∧ (∀ (p : Nat × Ctx), p ∈ s.ctxsOf k → p.snd.gated = false) ∧ s.decoders k = [] ∧
    s.cnv.decodes = [] ∧ due < 2 ^ 64 ∧ x.samples = [] ∧ s.isLead k = true ∧ x.signals.length < x.nDevs) := by
  refine ⟨?_, ?_, ?_, ?_⟩ <;> (dsimp only; decide +kernel)

end W31

/-! ## Group 32 -/

namespace W32

def tick (f : Core → Core) (s : State) : State := run3 (s.setCor 0 (f {s.cor 0 with phase := .integrate}))
def rows : State := poke (poke cc (matAddr 0 0) (md.set 0 0x83000008)) (Mem.store 0 0 + 0x1000) [0x3C003C00,0,0,0,0xC2014400]
def e (r k c : Nat) : Ev := ⟨0, BitVec.ofNat 16 r, k, BitVec.ofNat 3 c, false⟩
def w1 : State := tick (fun c => {c with inbox := [e 3 7 2, e 1 7 1, e 3 7 3, e 0 7 1]}) rows
def w2 : State := tick (fun c => {c with inbox := [e 4 7 2]}) rows
def wn : Window := ⟨0, [7], [⟨0, 0, 7, 2⟩, ⟨0, 1, 7, 1⟩, ⟨0, 3, 7, 1⟩]⟩
def r1 : State := tick (fun c => {c with windows := [wn]}) rows
def r1b : State := {r1 with mem := {r1.mem with bad := [(Mem.store 0 0 + 0x1000)/8]}}
def r2 : State := tick (fun c => {c with windows := [wn], rowBuf := [(rows.rowAddr 0 0 3 0, rowWB 8 2), (rows.rowAddr 0 0 1 0, rowWB 8 2), (rows.rowAddr 0 0 0 0, rowWB 8 2)], fetched := 2, acc := [(7*8192, 5)]}) rows
def ff : State := tick (fun c => {c with windows := [{wn with todo := []}], acc := [(7*8192, 5*2^20), (7*8192+1, -2^47+1), (8*8192, 9)]}) rows
def wE : Window := ⟨0, [7], []⟩
def bq : BerthCmd := ⟨hq 3, 0, 0, 2, 1, 0, 9, 4⟩
def bs : State := let s := poke {poke cc (matAddr 0 0) mdS with fab := {cc.fab with circuits := [(2, {Circuit.empty with bound := true, binding := 3})]}} hA [1,2,3,4,5,6,7,8]
  {s with cmd := {s.cmd with streams := [(5, { Stream.empty with bound := true, binding := 3, cseq := 1, outst := [⟨0, 0x25, hq 0, 0, 0⟩] })]}}
def b1 : State := bs.setCor 0 {bs.cor 0 with berthQ := [bq, {bq with b := 0, order := 5}], berth1 := {Core.empty.berth1 with base := 64, lines := 2}, rowBuf := [(Mem.store 0 0 + 64*4096, 4), (Mem.store 0 0 + 66*4096, 4)]}
def b2 : State := bs.setCor 0 {bs.cor 0 with berth1 := {Core.empty.berth1 with base := 64, lines := 2, state := 1, cur := some bq, packet := true}}
def b2b : State := {b2 with mem := {b2.mem with bad := [hA/8]}}

theorem test_meets_WindowsAreSorted :
    (let s : State := w1
    let core : BitVec 10 := 0
    let n : Nat := core.toNat
    let c : Core := s.cor n
    Canon s ∧ Alive s ∧ n < 16 ∧ c.phase = Phase.integrate ∧ (¬n ∈ s.rtr.draining) ∧ s.phase1Waits n = false ∧
    (∀ (x : Ev), x ∈ c.inbox → s.dropReason n x = none) ∧ c.inbox ≠ [] ∧ (∀ (x : Ev), x ∈ c.inbox → x.cidx < 2 ^ 18)) ∧
    (let s : State := w2
    let core : BitVec 10 := 0
    let e : Ev := (e 4 7 2)
    let n : Nat := core.toNat
    let c : Core := s.cor n
    Canon s ∧ Alive s ∧ n < 16 ∧ c.phase = Phase.integrate ∧ (¬n ∈ s.rtr.draining) ∧ s.phase1Waits n = false ∧ c.inbox = [e] ∧
    ((s.mat n e.matrix.toNat).valid = false ∨ (s.mat n e.matrix.toNat).nrows ≤ e.row.toNat)) := by
  refine ⟨?_, ?_⟩ <;> (dsimp only; decide +kernel)

theorem test_meets_RowsAndAdditions :
    (let s : State := r2
    let core : BitVec 10 := 0
    let w : Window := wn
    let ws : List Window := []
    let n : Nat := core.toNat
    let c : Core := s.cor n
    let run : List Addn := s.nextRun n
    let adds : Nat := Reg.coreSynAddsLo n
    let hits : Nat := Reg.coreSynHitsLo n
    Canon s ∧ Alive s ∧ n < 16 ∧ c.windows = w :: ws ∧ run ≠ [] ∧ (s.firstMiss n c.rowBuf run).isSome = false ∧
    (Tab.wf (fun x => 0) c.acc) ∧ (∀ (b : Addn), b ∈ run → (s.mat n b.matrix.toNat).ncol ≤ 8192) ∧
    s.longGet adds + run.length < 2 ^ 48 ∧ s.longGet hits + run.length < 2 ^ 48) ∧
    (let s : State := r1
    let core : BitVec 10 := 0
    let w : Window := wn
    let ws : List Window := []
    let a : Addn := ⟨0, 0, 7, 2⟩
    let n : Nat := core.toNat
    let c : Core := s.cor n
    let run : List Addn := s.nextRun n
    let m : Nat := a.matrix.toNat
    let d : MatDesc := s.mat n m
    let adr : Nat := s.rowAddr n m a.row.toNat (s.bnd c.binding.toNat).step.toNat
    let reads : Nat := Reg.coreSynReadsLo n
    let buf : List (Nat × Nat) := []
    Canon s ∧ Alive s ∧ n < 16 ∧ c.windows = w :: ws ∧ s.firstMiss n c.rowBuf run = some (a, buf) ∧ s.longGet reads + 1 < 2 ^ 48 ∧
    d.ncol ≤ 8192 ∧ s.badRange adr (rowWB d.fmt d.ncol + rowSB d.fmt d.ncol) = false) ∧
    (let s : State := r1b
    let core : BitVec 10 := 0
    let w : Window := wn
    let ws : List Window := []
    let a : Addn := ⟨0, 0, 7, 2⟩
    let n : Nat := core.toNat
    let c : Core := s.cor n
    let run : List Addn := s.nextRun n
    let m : Nat := a.matrix.toNat
    let d : MatDesc := s.mat n m
    let adr : Nat := s.rowAddr n m a.row.toNat (s.bnd c.binding.toNat).step.toNat
    let reads : Nat := Reg.coreSynReadsLo n
    let buf : List (Nat × Nat) := []
    Canon s ∧ Alive s ∧ n < 16 ∧ c.windows = w :: ws ∧ s.firstMiss n c.rowBuf run = some (a, buf) ∧ s.longGet reads + 1 < 2 ^ 48 ∧
    d.ncol ≤ 8192 ∧ s.badRange adr (rowWB d.fmt d.ncol + rowSB d.fmt d.ncol) = true) := by
  refine ⟨?_, ?_, ?_⟩ <;> (dsimp only; decide +kernel)

theorem test_meets_WindowFlushes :
    (let s : State := ff
    let core : BitVec 10 := 0
    let w : Window := wE
    let ws : List Window := []
    let n : Nat := core.toNat
    let c : Core := s.cor n
    let m : Option Nat := (s.tileMats n w.slot).head?
    let ncol : Nat := (Option.map (fun m => (s.mat n m).ncol) m).getD 0
    Canon s ∧ Alive s ∧ n < 16 ∧ c.windows = w :: ws ∧ w.todo = [] ∧ (Tab.wf (fun x => 0) c.acc) ∧ ncol ≤ 8192) := by dsimp only; decide +kernel

theorem test_meets_BerthFills :
    (let s : State := b1
    let core : BitVec 10 := 0
    let b : BitVec 1 := 1
    let q : BerthCmd := bq
    let n : Nat := core.toNat
    let c : Core := s.cor n
    let x : Berth := c.berth b.toNat
    (∀ (k : Nat) (y : Core), (k, y) ∈ s.core.cores → (∀ (z : Berth), z ∈ [y.berth0, y.berth1] → ∀ (v : BerthCmd), z.cur = some v → v.circuit ≠ q.circuit) ∧ ∀ (v : BerthCmd), v ∈ y.berthQ → v.circuit = q.circuit → q.order ≤ v.order) ∧
    Canon s ∧ Alive s ∧ n < 16 ∧ (List.find? (fun z => decide (z.b.toNat = b.toNat)) c.berthQ = some q) ∧
    (x.state = 0 ∨ x.state = 3 ∨ x.state = 1 ∧ x.cur = none) ∧
    (∀ (f : Flow), f ∈ (s.circ q.circuit.toNat).flows → f.going = false ∧ q.order ≤ f.order)) ∧
    (let s : State := b2
    let core : BitVec 10 := 0
    let b : BitVec 1 := 1
    let q : BerthCmd := bq
    let n : Nat := core.toNat
    let c : Core := s.cor n
    let x : Berth := c.berth b.toNat
    let d : MatDesc := s.mat n q.matrix.toNat
    Canon s ∧ Alive s ∧ n < 16 ∧ x.cur = some q ∧ s.isOut q.hdr q.cseq = true ∧ (s.circ q.circuit.toNat).flows = [] ∧
    s.badRange (Mem.hbm + d.haddr) (d.nrows * d.stride) = false) ∧
    (let s : State := b2b
    let core : BitVec 10 := 0
    let b : BitVec 1 := 1
    let q : BerthCmd := bq
    let n : Nat := core.toNat
    let c : Core := s.cor n
    let x : Berth := c.berth b.toNat
    let d : MatDesc := s.mat n q.matrix.toNat
    Canon s ∧ Alive s ∧ n < 16 ∧ x.cur = some q ∧ s.isOut q.hdr q.cseq = true ∧ (s.circ q.circuit.toNat).flows = [] ∧
    s.badRange (Mem.hbm + d.haddr) (d.nrows * d.stride) = true) := 
  ⟨by dsimp only; exact ⟨berth_ball (by decide +kernel) (by decide +kernel), by decide +kernel⟩,
   by dsimp only; decide +kernel,
   by dsimp only; decide +kernel⟩

end W32

/-! ## Group 33 -/

namespace W33

def f1 : Firing := ⟨0, 7, 0, 1⟩
def f2 : Firing := ⟨0, 7, 1, 3⟩
def ent : List Word := [0x20021, 0, 0x00041401, 0x0000000C]  -- index words 0: first 33 count1; entry low/high
def rs0 : State := let s := poke (run3 cc) (routeUnit 0 32) ent
  poke s (Mem.store 0 4 + 0x1A000) [0x80000020]
def rs (f : Core → Core) : State := rs0.setCor 0 (f {rs0.cor 0 with phase := .emit, fired := [f1, f2]})
def pOf : Packet := ⟨1, 0, 3, 0, 5, false, 0, [0x00010000 + 7*8+1]⟩
def r1 : State := rs id
def r3 : State := rs (fun c => {c with frozen := true})
def r4 : State := {r1 with mem := {r1.mem with cells := []}}
def snd (p : Packet) (s : State) : State := {s with rtr := {s.rtr with replicas := [(p.dstCore, p)]}, cmd := {s.cmd with bindings := [(3, {B with running := true, outPkts := 2, queue := [⟨hd 0, 0, 0x20, some 1, 0, 0, []⟩]})]}}
def s1 : State := snd pOf cc
def s2 : State := {snd {pOf with dstCore := 3} cc with sys := rdy.sys}
def s3 : State := {s1 with rtr := {s1.rtr with credits := [(1, 64)]}}
def s6 : State := {s2 with rtr := {s2.rtr with credits := [(3, 64)]}}
def s4 : State := snd {pOf with dstCore := 1023} cc
def s5 : State := s1.setCor 1 {Core.empty with bound := true, binding := 2}
def a1 : State := {s1 with rtr := {s1.rtr with replicas := [], inFlight := [pOf], credits := [(1, 3)]}}
def a2 : State := {a1 with rtr := {a1.rtr with draining := [1]}}
def pD : Packet := {pOf with delay := 63}
def a3 : State := {a2 with rtr := {a2.rtr with inFlight := [pD]}}
def a4 : State := {a3 with rtr := {a3.rtr with staging := [(1, List.replicate 2048 (0, ⟨0,0,0,1,false⟩))]}}
def a5 : State := {a3 with rtr := {a3.rtr with staging := [(1, [(0, ⟨0,0,0,1,false⟩), (5, ⟨0,0,2,1,false⟩), (0, ⟨0,3,0,1,false⟩)])]}}
def a6 : State := {a1 with sys := rdy.sys, rtr := {a1.rtr with inFlight := [{pOf with dstCore := 3}], credits := [(3, 3)]}}

theorem test_meets_PacketsAreSent :
    (let s : State := s1
    let dst : BitVec 10 := 1
    let p : Packet := pOf
    let d : Nat := dst.toNat
    let n : Nat := (s.localOf p.srcCore).getD 0
    let b : Nat := (s.cor n).binding.toNat
    let here : Prop := ∃ k, s.localOf d = some k ∧ (s.cor k).bound = true ∧ (s.cor k).binding.toNat ≠ b
    let share : Nat := if s.ptbIngress = true then 1 else max 1 (64 / max 1 s.sys.nDevs)
    Canon s ∧ Alive s ∧ n < 16 ∧ s.replica d = some p ∧ (∀ (m : Nat), m < 16 → ∀ (q : Packet), q ∈ (s.cor m).holding → q.dstCore ≠ d) ∧
    s.sysPresent d = true ∧ s.localOf d ≠ none ∧ (¬here) ∧ s.creditsUsed d < share) ∧
    (let s : State := s2
    let dst : BitVec 10 := 3
    let p : Packet := {pOf with dstCore := 3}
    let d : Nat := dst.toNat
    let n : Nat := (s.localOf p.srcCore).getD 0
    let share : Nat := if s.ptbIngress = true then 1 else max 1 (64 / max 1 s.sys.nDevs)
    Canon s ∧ Alive s ∧ n < 16 ∧ s.replica d = some p ∧ (∀ (m : Nat), m < 16 → ∀ (q : Packet), q ∈ (s.cor m).holding → q.dstCore ≠ d) ∧
    s.sysPresent d = true ∧ s.localOf d = none ∧ s.creditsUsed d < share) ∧
    (let s : State := s3
    let dst : BitVec 10 := 1
    let p : Packet := pOf
    let d : Nat := dst.toNat
    let n : Nat := (s.localOf p.srcCore).getD 0
    let b : Nat := (s.cor n).binding.toNat
    let here : Prop := ∃ k, s.localOf d = some k ∧ (s.cor k).bound = true ∧ (s.cor k).binding.toNat ≠ b
    let share : Nat := if s.ptbIngress = true then 1 else max 1 (64 / max 1 s.sys.nDevs)
    Canon s ∧ Alive s ∧ n < 16 ∧ s.replica d = some p ∧ (∀ (m : Nat), m < 16 → ∀ (q : Packet), q ∈ (s.cor m).holding → q.dstCore ≠ d) ∧
    s.sysPresent d = true ∧ s.localOf d ≠ none ∧ (¬here) ∧ share ≤ s.creditsUsed d) ∧
    (let s : State := s6
    let dst : BitVec 10 := 3
    let p : Packet := {pOf with dstCore := 3}
    let d : Nat := dst.toNat
    let n : Nat := (s.localOf p.srcCore).getD 0
    let share : Nat := if s.ptbIngress = true then 1 else max 1 (64 / max 1 s.sys.nDevs)
    Canon s ∧ Alive s ∧ n < 16 ∧ s.replica d = some p ∧ (∀ (m : Nat), m < 16 → ∀ (q : Packet), q ∈ (s.cor m).holding → q.dstCore ≠ d) ∧
    s.sysPresent d = true ∧ s.localOf d = none ∧ share ≤ s.creditsUsed d) ∧
    (let s : State := s4
    let dst : BitVec 10 := 1023
    let p : Packet := {pOf with dstCore := 1023}
    let d : Nat := dst.toNat
    let n : Nat := (s.localOf p.srcCore).getD 0
    Canon s ∧ Alive s ∧ n < 16 ∧ s.replica d = some p ∧ (∀ (m : Nat), m < 16 → ∀ (q : Packet), q ∈ (s.cor m).holding → q.dstCore ≠ d) ∧
    s.sysPresent d = false) ∧
    (let s : State := s5
    let dst : BitVec 10 := 1
    let p : Packet := pOf
    let d : Nat := dst.toNat
    let n : Nat := (s.localOf p.srcCore).getD 0
    let b : Nat := (s.cor n).binding.toNat
    let here : Prop := ∃ k, s.localOf d = some k ∧ (s.cor k).bound = true ∧ (s.cor k).binding.toNat ≠ b
    Canon s ∧ Alive s ∧ n < 16 ∧ s.replica d = some p ∧ (∀ (m : Nat), m < 16 → ∀ (q : Packet), q ∈ (s.cor m).holding → q.dstCore ≠ d) ∧
    s.sysPresent d = true ∧ here ∧ (s.cor n).frozen = false) := by
  refine ⟨?_, ?_, ?_, ?_, ?_, ?_⟩ <;> (dsimp only; decide +kernel)

end W33

/-! ## Group 34 -/

namespace W34

def rl1 : List Word := rl.set 0 0x80143000
def er : State := poke cm (ruleAddr 0 0) rl1
def l0 : State := run3 (er.setCor 0 {er.cor 0 with phase := .emit, learnDue := true})
def l1 : State := run3 (cm.setCor 0 {cm.cor 0 with phase := .emit, learnDue := true})
def BB (f : Binding → Binding) (s : State) : State := {s with cmd := {s.cmd with bindings := [(3, f B)], streams := [(5, { Stream.empty with bound := true, binding := 3, cseq := 1, outst := [⟨0, 0x24, hq 0, 0, 0⟩] })]}}
def gt : State := {BB (fun x => {x with step := 10}) er with cmd := {(BB (fun x => {x with step := 10, applies := [(0, hq 0, 0)]}) er).cmd with ctxs := [(0, {ctx0 with cstep := 10})]}}
def gw : State := getNext (exec (.applyWindowOpen 3 []) gt) gt
def rlG : List Word := (rl1.set 14 0x2)
def gw2 : State := poke gw (ruleAddr 0 0) rlG
def gw3 : State := gw.setRed 0 0 {gw.red 0 0 with got := [(0,0)]}
def gw4 : State := gw.setRed 0 0 {gw.red 0 0 with got := [(0,0)], committed := 1}
def ovs : State := (poke (run3 er) (ruleAddr 0 0) (rl1.set 15 0x10001)).setRed 0 0 {Reduction.empty with ovl := true, written := 1, perStep := 2, rows := 4, openStep := 0}
def ov1 : State := (ovs.rsetField (Reg.coreLrnRstat 0 0) 27 2 2)
def rt (e : Nat) : State := let s := poke (poke cc (routeUnit 0 32) [0x20021, 0, BitVec.ofNat 32 e, BitVec.ofNat 32 (e / 2^32)]) (Mem.store 0 4 + 0x1A000) [0x80000020]
  s
def dv1 : State := rt (1 + 5*2^10 + 2*2^18 + 62*2^34 + 2^41)
def lf1 : State := ov1.setRed 0 0 {ov1.red 0 0 with staged := [(1, [1,2,3,4]), (2, [5,6,7,8])], written := 1}

theorem test_meets_OverlapRowsCommit :
    (let s : State := ov1
    let core : BitVec 10 := 0
    let matrix : BitVec 8 := 0
    let rows : List (Nat × Nat × List Byte) := [(1, 0, [9,9,9]), (2, 0, [])]
    let n : Nat := core.toNat
    let m : Nat := matrix.toNat
    let rl : RuleDesc := s.rule n m
    let b : Nat := rl.binding
    let x : Reduction := s.red n m
    let up : Nat := min (x.written + x.perStep) (min (((s.bnd b).step.toNat - x.openStep.toNat + 1) * x.perStep) x.rows)
    let tile : Nat × Nat := s.tileOf n m
    let hand : Prop := ∀ (r : Nat), x.written ≤ r → r < up → ∀ (i : Nat), i < tile.snd - tile.fst → s.segReady b n m rows r (tile.fst + i) = true
    hand ∧ Canon s ∧ Alive s ∧ n < 16 ∧ x.ovl = true ∧ s.ruleState (n, m) = 2 ∧ x.written < up) ∧
    (let s : State := lf1
    let core : BitVec 10 := 0
    let matrix : BitVec 8 := 0
    let rows : List (Nat × Nat × List Byte) := []
    let n : Nat := core.toNat
    let m : Nat := matrix.toNat
    let rl : RuleDesc := s.rule n m
    let b : Nat := rl.binding
    let x : Reduction := s.red n m
    let up : Nat := min (x.written + x.perStep) (min (((s.bnd b).step.toNat - x.openStep.toNat + 1) * x.perStep) x.rows)
    let tile : Nat × Nat := s.tileOf n m
    let hand : Prop := ∀ (r : Nat), x.written ≤ r → r < up → ∀ (i : Nat), i < tile.snd - tile.fst → s.segReady b n m rows r (tile.fst + i) = true
    (x.ovl = false ∨ s.ruleState (n, m) ≠ 2 ∨ up ≤ x.written ∨ ¬hand) ∧ Canon s ∧ Alive s ∧ n < 16) := 
  ⟨by dsimp only; exact ⟨range_ball (by decide +kernel), by decide +kernel⟩,
   by dsimp only; exact ⟨(by first | exact or_left (by decide +kernel) | exact or_right (by decide +kernel)), by decide +kernel⟩⟩

end W34

/-! ## Group 35 -/

namespace W35

def by' (k v : Nat) (s : State) : State := {s with syn := {s.syn with owner := [(k, some 3)], buoys := if v = 0 then [] else [(k, BitVec.ofNat 31 v)]}}
def two : State := {cc with sys := rdy.sys}
def rq (k : BitVec 3) (n : BitVec 16) : BuoyReq := ⟨k, 1, 5, 77, 65471, n, true, 9, 0, 0, 0x1122334455667788, 3⟩
def ost : Outst := ⟨77, 0x43, hq 0, 0, 0⟩
def wt (take eq : Bool) (v : Word) : WaitE := ⟨1, 9, 4, 65471, take, eq, v, none, 0, 3⟩
def t1 : State := by' 65471 7 two
def t2 : State := by' 65471 (2^31-2) two
def t3 : State := by' 65471 0 two
def t4 : State := {t1 with syn := {t1.syn with waits := [wt false true 12]}}
def t5 : State := {t1 with syn := {t1.syn with waits := [wt true true 12]}}
def t6 : State := {two with cmd := {two.cmd with streams := [(5, { Stream.empty with bound := true, binding := 3, cseq := 78, outst := [ost] })]}}
def ow : WaitE := ⟨0, 5, 77, 65471, true, false, 9, some 500, 0, 3⟩
def wa : WatchE := ⟨3, 3, 0, 5, 65471, true, 9, 0, 0x1122334455667788, some 600, none, false, 0⟩
def wb : WatchE := {wa with beacon := some (0x00, 9), expiry := none}
def sg (m : Nat) (t : BitVec 6) : SigWait := ⟨t, {rq 0 4 with dev := 0}, m⟩
def y (sy : SyncUnit → SyncUnit) (os : List Outst) (p : List Held) : State := let s := by' 65471 7 two; {s with syn := sy s.syn, ptb := p, cmd := {s.cmd with streams := [(5, { Stream.empty with bound := true, binding := 3, cseq := 78, outst := os })]}}
def y1 : State := y (fun x => {x with sigs := [sg 2 1]}) [⟨4, 0x30, hq 0, 0, 0⟩] []
def y2 : State := y (fun x => {x with sigs := [sg 2 1, sg 1 0]}) [] []
def y3 : State := y (fun x => {x with sigs := [sg 1 1]}) [] []
def y4 : State := (y (fun x => {x with sigs := [sg 1 0], waits := [ow], watches := [wa]}) [ost] [.out (.accept 1 2), .refresh 2 7]).rset Reg.ptbBuoydly 0x10 |>.rset Reg.ptbCtrl 1
def y5 : State := y (fun x => {x with watches := [wb]}) [ost] []
def J (x : Binding) (b : Bool) : State := {two with cmd := {two.cmd with bindings := [(3, x)], streams := [(5, { Stream.empty with bound := b, cseq := 78, outst := [⟨77, 0x01, hq 2, 0, 0⟩] })]}}
def j1 : State := {two with cmd := {two.cmd with bindings := []}}
def j2 : State := J {Binding.empty with lead := 1, mask := 3, joinWait := some (hq 2, 77)} false
def qq (f : Queue → Queue) (g : Writer → Writer) (s : State) : State :=
  let s := (s.rset (Reg.mqQCfg0 4095) 0x00800000).rset (Reg.mqQCfg1 4095) 0x00050500
  {s with syn := {s.syn with queues := [(4095, f {Queue.empty with bound := true, binding := 3})], writers := let w := g Writer.empty; if w = Writer.empty then [] else [(4095, w)]}}
def rcv : RecvE := ⟨4095, hq 2, 77, hb, some 900⟩
def u4 : State := qq (fun x => {x with state := 1, gen := 8}) id two
def u6 : State := let s := u4.rset (Reg.mqQCfg1 4095) 0x01050500; {s with cmd := {s.cmd with bindings := [(3, {B with mask := 3})]}}
def u7 : State := {two with syn := {two.syn with writers := [(1 * 4096 + 4095, {Writer.empty with isOpen := true, gen := 8, credit := 5, stream := 5, binding := 3})], recvs := [rcv]}, cmd := {two.cmd with streams := [(5, { Stream.empty with bound := true, binding := 3, cseq := 78, outst := [⟨77, 0x51, hq 2, 0, 0⟩] })]}}
def ms (st : BitVec 2) : State := let s := qq (fun x => {x with state := st, gen := 8, tail := 31, fill := 4}) (fun w => {w with isOpen := true, sent := [⟨some (hq 1, 77), 8, 31, [msgHeader 1 7, 9]⟩]}) two
  {s with cmd := {s.cmd with streams := [(5, { Stream.empty with bound := true, binding := 3, cseq := 78, outst := [⟨77, 0x50, hq 2, 0, 0⟩] })]}}
def m1 : State := ms 2
def m2 : State := ms 1

end W35

/-! ## Group 36 -/

namespace W36

def A : Nat := Mem.slice 1 + 8 * 5
def mw : State := (cc.putBytes A [1,2,3,4,5,6,7,8]).rset (Reg.slcCfg 1) 0
def rd (p : BitVec 7) : SliceReq := ⟨p, 5, false, 0, 0xFF, 0, false⟩
def wr (p : BitVec 7) (m : BitVec 8) (d : Word64) (c : BitVec 2) : SliceReq := ⟨p, 5, true, c, m, d, false⟩
def rqs : List SliceReq := [rd 113, wr 2 0x0F 0x1111111122222222 0, wr 1 0xF8 0x3333333344444444 0, wr 102 0 0xFF00 1, wr 112 0 0x2 2, wr 3 1 0x99 0]
def mtn : State := mw.rset (Reg.slcCfg 1) 0x100
def mb : State := {mw with mem := {mw.mem with bad := [A / 8]}}
def vw : BitVec 20 := 0xE0000
def vr (p : BitVec 7) (v : Bool) : SliceReq := {rd p with word := vw, vault := v}
def wp : State := {mw with mem := {mw.mem with wiping := true, cells := [(Mem.slice 31 + 5, 9), (Mem.slice 31 + 0x700000, 7), (Mem.slice 31 + 0x7FFFFF, 3), (Mem.hbm, 4)]}}
def hb' : State := ({mw with mem := {mw.mem with bad := [hA / 8]}}.rset Reg.ptbHbmref 0x50F).rset Reg.ptbCtrl 1

theorem test_meets_BankCycles :
    (let s : State := mw
    let slice : BitVec 5 := 1
    let bank : BitVec 2 := (BitVec.ofNat 2 (State.bankOf mw 1 40))
    let word : BitVec 20 := 5
    let reqs : List SliceReq := rqs
    let port : BitVec 7 := 3
    let k : Nat := slice.toNat
    let a : Nat := Mem.slice k + word.toNat * 8
    let key : Nat := k * 4 + bank.toNat
    let p : Nat := Tab.get (fun x => 0) s.mem.pointers key
    let own : Prop := s.ptbArb = none ∧ s.requests k = [] ∧ p < 114 ∧ s.bankOf k (word.toNat * 8) = bank.toNat
    let plain : Prop := k < 28 ∧ s.instsIn a 8 = []
    let issues : SliceReq → Prop := fun q => q.port.toNat < 114 ∧ q.code ≠ 3 ∧ (q.code = 0 ∨ 102 ≤ q.port.toNat ∧ q.port.toNat < 110 ∨ 112 ≤ q.port.toNat)
    let group : Prop := own ∧ reqs ≠ [] ∧ reqs.length ≤ 16 ∧ (List.map (fun q => q.port) reqs).Nodup ∧ ∀ (q : SliceReq), q ∈ reqs → q.word = word ∧ issues q
    Canon s ∧ Alive s ∧ group ∧ plain ∧ s.badRange a 8 = false ∧ s.rbit (Reg.slcCfg k) 8 = false ∧ own ∧ port.toNat < 102) ∧
    (let s : State := mw
    let slice : BitVec 5 := 1
    let bank : BitVec 2 := (BitVec.ofNat 2 (mw.bankOf 1 40))
    let word : BitVec 20 := 5
    let reqs : List SliceReq := [rd 4, {rd 9 with word := 6}]
    let port : BitVec 7 := 102
    let r : SliceReq := (rd 4)
    let w : SliceReq := {rd 9 with word := 6}
    let k : Nat := slice.toNat
    let a : Nat := Mem.slice k + word.toNat * 8
    let key : Nat := k * 4 + bank.toNat
    let p : Nat := Tab.get (fun x => 0) s.mem.pointers key
    let rank : SliceReq → Nat := fun q => (q.port.toNat + 114 - p) % 114
    let own : Prop := s.ptbArb = none ∧ s.requests k = [] ∧ p < 114 ∧ s.bankOf k (word.toNat * 8) = bank.toNat
    let plain : Prop := k < 28 ∧ s.instsIn a 8 = []
    let issues : SliceReq → Prop := fun q => q.port.toNat < 114 ∧ q.code ≠ 3 ∧ (q.code = 0 ∨ 102 ≤ q.port.toNat ∧ q.port.toNat < 110 ∨ 112 ≤ q.port.toNat)
    Canon s ∧ Alive s ∧ own ∧ plain ∧ s.badRange a 8 = false ∧ reqs = [r, w] ∧ r.word = word ∧ w.word ≠ word ∧ r.write = false ∧
    issues r ∧ issues w ∧ s.bankOf k (w.word.toNat * 8) = bank.toNat ∧ rank r < rank w ∧ s.rbit (Reg.slcCfg k) 8 = false ∧
    (102 ≤ port.toNat ∧ port.toNat < 110 ∨ port = 112 ∨ port = 113)) ∧
    (let s : State := mtn
    let slice : BitVec 5 := 1
    let bank : BitVec 2 := (BitVec.ofNat 2 (State.bankOf mtn 1 40))
    let word : BitVec 20 := 5
    let reqs : List SliceReq := [wr 5 0xFF 7 0, wr 9 0xFF 8 0]
    let r : SliceReq := (wr 5 0xFF 7 0)
    let w : SliceReq := (wr 9 0xFF 8 0)
    let k : Nat := slice.toNat
    let a : Nat := Mem.slice k + word.toNat * 8
    let key : Nat := k * 4 + bank.toNat
    let p : Nat := Tab.get (fun x => 0) s.mem.pointers key
    let own : Prop := s.ptbArb = none ∧ s.requests k = [] ∧ p < 114 ∧ s.bankOf k (word.toNat * 8) = bank.toNat
    let plain : Prop := k < 28 ∧ s.instsIn a 8 = []
    let issues : SliceReq → Prop := fun q => q.port.toNat < 114 ∧ q.code ≠ 3 ∧ (q.code = 0 ∨ 102 ≤ q.port.toNat ∧ q.port.toNat < 110 ∨ 112 ≤ q.port.toNat)
    let group : Prop := own ∧ reqs ≠ [] ∧ reqs.length ≤ 16 ∧ (List.map (fun q => q.port) reqs).Nodup ∧ ∀ (q : SliceReq), q ∈ reqs → q.word = word ∧ issues q
    Canon s ∧ Alive s ∧ group ∧ plain ∧ s.badRange a 8 = false ∧ s.rbit (Reg.slcCfg k) 8 = true ∧ reqs = [r, w] ∧ r.write = true ∧
    w.write = true ∧ r.code = 0 ∧ w.code = 0 ∧ r.port.toNat < w.port.toNat) ∧
    (let s : State := mb
    let slice : BitVec 5 := 1
    let bank : BitVec 2 := (BitVec.ofNat 2 (State.bankOf mb 1 40))
    let word : BitVec 20 := 5
    let reqs : List SliceReq := [rd 4]
    let r : SliceReq := (rd 4)
    let k : Nat := slice.toNat
    let a : Nat := Mem.slice k + word.toNat * 8
    let key : Nat := k * 4 + bank.toNat
    let p : Nat := Tab.get (fun x => 0) s.mem.pointers key
    let own : Prop := s.ptbArb = none ∧ s.requests k = [] ∧ p < 114 ∧ s.bankOf k (word.toNat * 8) = bank.toNat
    let plain : Prop := k < 28 ∧ s.instsIn a 8 = []
    let issues : SliceReq → Prop := fun q => q.port.toNat < 114 ∧ q.code ≠ 3 ∧ (q.code = 0 ∨ 102 ≤ q.port.toNat ∧ q.port.toNat < 110 ∨ 112 ≤ q.port.toNat)
    let one : Prop := own ∧ reqs = [r] ∧ r.word = word ∧ issues r
    Canon s ∧ Alive s ∧ one ∧ plain ∧ s.badRange a 8 = true ∧ s.rbit (Reg.slcCfg k) 8 = false ∧
    (r.write = false ∨ r.code ≠ 0 ∨ r.mask ≠ 255)) ∧
    (let s : State := mw
    let slice : BitVec 5 := 31
    let bank : BitVec 2 := 3
    let word : BitVec 20 := vw
    let reqs : List SliceReq := [vr 4 false]
    let r : SliceReq := (vr 4 false)
    let k : Nat := slice.toNat
    let key : Nat := k * 4 + bank.toNat
    let p : Nat := Tab.get (fun x => 0) s.mem.pointers key
    let own : Prop := s.ptbArb = none ∧ s.requests k = [] ∧ p < 114 ∧ s.bankOf k (word.toNat * 8) = bank.toNat
    let issues : SliceReq → Prop := fun q => q.port.toNat < 114 ∧ q.code ≠ 3 ∧ (q.code = 0 ∨ 102 ≤ q.port.toNat ∧ q.port.toNat < 110 ∨ 112 ≤ q.port.toNat)
    let one : Prop := own ∧ reqs = [r] ∧ r.word = word ∧ issues r
    Canon s ∧ Alive s ∧ one ∧ inVault k word.toNat = true ∧ s.mem.wiping = false ∧ (¬(r.port = 113 ∧ r.vault = true))) ∧
    (let s : State := mw
    let slice : BitVec 5 := 29
    let bank : BitVec 2 := (BitVec.ofNat 2 (State.bankOf mw 29 40))
    let word : BitVec 20 := 5
    let reqs : List SliceReq := [rd 4]
    let r : SliceReq := (rd 4)
    let k : Nat := slice.toNat
    let a : Nat := Mem.slice k + word.toNat * 8
    let key : Nat := k * 4 + bank.toNat
    let p : Nat := Tab.get (fun x => 0) s.mem.pointers key
    let own : Prop := s.ptbArb = none ∧ s.requests k = [] ∧ p < 114 ∧ s.bankOf k (word.toNat * 8) = bank.toNat
    let issues : SliceReq → Prop := fun q => q.port.toNat < 114 ∧ q.code ≠ 3 ∧ (q.code = 0 ∨ 102 ≤ q.port.toNat ∧ q.port.toNat < 110 ∨ 112 ≤ q.port.toNat)
    let one : Prop := own ∧ reqs = [r] ∧ r.word = word ∧ issues r
    Canon s ∧ Alive s ∧ one ∧ (k = 29 ∨ k = 30) ∧ s.badRange a 8 = false ∧ r.write = false) ∧
    (let s : State := mw
    let slice : BitVec 5 := 30
    let bank : BitVec 2 := (BitVec.ofNat 2 (State.bankOf mw 30 40))
    let word : BitVec 20 := 5
    let reqs : List SliceReq := [wr 4 0xFF 7 0]
    let r : SliceReq := (wr 4 0xFF 7 0)
    let k : Nat := slice.toNat
    let a : Nat := Mem.slice k + word.toNat * 8
    let key : Nat := k * 4 + bank.toNat
    let p : Nat := Tab.get (fun x => 0) s.mem.pointers key
    let own : Prop := s.ptbArb = none ∧ s.requests k = [] ∧ p < 114 ∧ s.bankOf k (word.toNat * 8) = bank.toNat
    let issues : SliceReq → Prop := fun q => q.port.toNat < 114 ∧ q.code ≠ 3 ∧ (q.code = 0 ∨ 102 ≤ q.port.toNat ∧ q.port.toNat < 110 ∨ 112 ≤ q.port.toNat)
    let one : Prop := own ∧ reqs = [r] ∧ r.word = word ∧ issues r
    Canon s ∧ Alive s ∧ one ∧ (k = 29 ∨ k = 30) ∧ s.badRange a 8 = false ∧ r.write = true) ∧
    (let s : State := mw
    let slice : BitVec 5 := 31
    let bank : BitVec 2 := 3
    let word : BitVec 20 := vw
    let reqs : List SliceReq := [vr 113 true]
    let r : SliceReq := (vr 113 true)
    let k : Nat := slice.toNat
    let a : Nat := Mem.slice k + word.toNat * 8
    let key : Nat := k * 4 + bank.toNat
    let p : Nat := Tab.get (fun x => 0) s.mem.pointers key
    let own : Prop := s.ptbArb = none ∧ s.requests k = [] ∧ p < 114 ∧ s.bankOf k (word.toNat * 8) = bank.toNat
    let issues : SliceReq → Prop := fun q => q.port.toNat < 114 ∧ q.code ≠ 3 ∧ (q.code = 0 ∨ 102 ≤ q.port.toNat ∧ q.port.toNat < 110 ∨ 112 ≤ q.port.toNat)
    let one : Prop := own ∧ reqs = [r] ∧ r.word = word ∧ issues r
    Canon s ∧ Alive s ∧ one ∧ inVault k word.toNat = true ∧ s.mem.wiping = false ∧ r.port = 113 ∧ r.vault = true ∧
    s.badRange a 8 = false ∧ s.instsIn a 8 = []) := by
  refine ⟨?_, ?_, ?_, ?_, ?_, ?_, ?_, ?_⟩ <;> (dsimp only; decide +kernel)

theorem test_meets_WipeScrubAndHbm :
    (let s : State := wp
    let unit : BitVec 6 := 1
    let word : BitVec 35 := 5
    let addr : BitVec 38 := 0x480000000
    let data : List Byte := []
    let a : Nat := A
    let m : Nat := Mem.hbm + addr.toNat
    let k : Nat := unit.toNat
    Canon s ∧ Alive s ∧ s.mem.wiping = true ∧ k < 32 ∧ word.toNat < 2 ^ 20 ∧ a = Mem.slice k + word.toNat * 8 ∧
    s.mem.bad.contains (a / 8) = false ∧ addr.toNat + data.length ≤ 154618822656 ∧ addr.toNat % 16 = 0 ∧ data.length % 16 = 0 ∧
    s.badRange m data.length = false ∧ s.ptbRefresh = false) ∧
    (let s : State := hb'
    let addr : BitVec 38 := 0x480000000
    let data : List Byte := (List.replicate 16 7)
    let m : Nat := Mem.hbm + addr.toNat
    Canon s ∧ Alive s ∧ s.mem.wiping = false ∧ addr.toNat + data.length ≤ 154618822656 ∧ s.badRange m data.length = true ∧
    s.ptbRefresh = true) := by
  refine ⟨?_, ?_⟩ <;> (dsimp only; decide +kernel)

end W36

/-! ## Group 37 -/

namespace W37

def two : State := {cc with sys := rdy.sys}
def pk (v e : Nat) : FabPkt := ⟨4, BitVec.ofNat 2 v, 0, 1, 8, false, 1, BitVec.ofNat 16 e, 0, [], [7], 0, 0, 0, false, 0, 0, false, 0, none⟩
def lk (f : Link → Link) (g : E2E → E2E) : State :=
  let s : State := {two with fab := {two.fab with links := [(1, f {Link.empty with rxSeq := 5, seen := 5})], e2e := let e := g E2E.empty; if e = E2E.empty then [] else [(4, e)]}}
  s.rset (Reg.fabLnkStat 1) 0x48000000
def un (l r : Nat) : Unacked := ⟨BitVec.ofNat 12 l, pk 0 0, r⟩
def l1 : State := lk id id
def l2 : State := lk (fun x => {x with unacked := [un 3 0, un 4 15, un 5 2], txSeq := 6, used := [(0, 7)], sinceAck := 3}) id
def l3 : State := lk (fun x => {x with unacked := [un 3 0, un 4 16], txSeq := 6}) id
def l4 : State := two.rset (Reg.fabLnkStat 17) 0x20000000

theorem test_meets_LinksFailAndTrain :
    (let s : State := l4
    let l : BitVec 5 := 17
    let r : LinkResult := ⟨false, 1, 4, 0, [(false, [])]⟩
    let dev : BitVec 6 := 1
    let k : Nat := l.toNat
    let tried : List Nat := List.filter (fun i => decide (Tab.get (fun x => 0) s.fuses.badLanes k / 2 ^ i % 2 = 0) && !r.farBad.getLsbD i) [0, 1, 2, 3]
    let width : Nat := soakWidth tried r.soaks
    let y : List (Bool × List Nat) := []
    let e : List Nat := []
    Canon s ∧ Alive s ∧ r.soaks = (false, e) :: y ∧ tried = [0, 1, 2, 3] ∧ (∀ (i : Nat), i < 4 → e.getD i 0 ≤ 11200) ∧ k < 18 ∧
    s.linkUp k = false ∧ dev ≠ s.sys.myDev ∧ s.activeCircs = [] ∧ s.linkState k = 1 ∧ (r.version = false ∨ width = 0)) ∧
    (let s : State := l1
    let l : BitVec 5 := 1
    let lane : BitVec 2 := 0
    let k : Nat := l.toNat
    let x : Link := s.link k
    let c : Instr := Instr.linkFailure s.sys.myDev l
    Canon s ∧ Alive s ∧ k < 18 ∧ s.linkUp k = true ∧ x.unacked = [] ∧ x.waiting = [] ∧ s.activeCircs = [] ∧
    (∀ (e : Nat × Link), e ∈ s.fab.links → ∀ (q : FabPkt), q ∈ e.snd.waiting → q.via ≠ some l) ∧
    (c = Instr.linkFailure s.sys.myDev l ∨ c = Instr.fecLockLoss l lane) ∧ s.linkState k ≠ 1) ∧
    (let s : State := l4
    let l : BitVec 5 := 17
    let r : LinkResult := ⟨true, 1, 4, 0, [(false, [])]⟩
    let k : Nat := l.toNat
    let tried : List Nat := List.filter (fun i => decide (Tab.get (fun x => 0) s.fuses.badLanes k / 2 ^ i % 2 = 0) && !r.farBad.getLsbD i) [0, 1, 2, 3]
    let width : Nat := soakWidth tried r.soaks
    Canon s ∧ Alive s ∧ k < 18 ∧ s.linkState k = 1 ∧ r.version = true ∧ width ≠ 0) ∧
    (let s : State := l4
    let l : BitVec 5 := 18
    let k : Nat := l.toNat
    Canon s ∧ Alive s ∧ 18 ≤ k) := by
  refine ⟨?_, ?_, ?_, ?_⟩ <;> (dsimp only; decide +kernel)

end W37

/-! ## Group 37b -/

namespace W37b

def two : State := {cc with sys := rdy.sys}
def pk (v e : Nat) : FabPkt := ⟨4, BitVec.ofNat 2 v, 0, 1, 8, false, 1, BitVec.ofNat 16 e, 0, [], [7], 0, 0, 0, false, 0, 0, false, 0, none⟩
def lk (f : Link → Link) (g : E2E → E2E) : State :=
  let s : State := {two with fab := {two.fab with links := [(1, f {Link.empty with rxSeq := 5, seen := 5})], e2e := let e := g E2E.empty; if e = E2E.empty then [] else [(4, e)]}}
  s.rset (Reg.fabLnkStat 1) 0x48000000
def fw : FarWrite := ⟨hq 3, 77, 0x30, hb, 64, 1, 2, 0, 0, 0⟩
def e1 : State := lk id (fun e => {e with low := 5, got := [7], advanced := true, retained := [(65535, pk 0 0), (0, pk 0 0), (3, pk 0 0)]})
def e2 : State := {e1 with fab := {e1.fab with e2e := [(5, {E2E.empty with low := 9})]}}
def e3 : State := {e2 with sys := {e2.sys with gate := 1, myDev := 0}, cmd := {e2.cmd with bindings := []}}
def eF (n : Nat) : State := {e1 with
  fab := {e1.fab with e2e := [(6, {E2E.empty with low := 5, retained := [(65535, pk 2 0), (0, pk 2 0), (3, pk 2 0)]})]}
  cmd := {e1.cmd with far := [{fw with left := n}], streams := [(5, { Stream.empty with bound := true, binding := 3, cseq := 78, outst := [⟨77, 0x30, hq 3, 0, 0⟩] })]}}
def e4 : State := {e3 with sys := {e3.sys with edges := [], ready := [0, 1], lost := []}, fab := {e3.fab with links := [], e2e := []}}
def e5 : State := {e4 with sys := {e4.sys with gate := 0}, cmd := {e4.cmd with bindings := []}}
def e6 : State := {e5 with sys := {e5.sys with lost := [1], ready := [0]}}

theorem test_meets_EndToEnd :
    (let s : State := e1
    let p : FabPkt := (pk 0 4)
    let dev : BitVec 6 := 1
    let vc : BitVec 2 := 0
    let y : E2E := s.e2e p.srcDev p.vc.toNat
    let v : Nat := vc.toNat
    let d : Nat := dev.toNat
    let x : E2E := s.e2e d v
    let plain : Prop := p.dstDev = s.sys.myDev.toNat ∧ p.type ≠ 2 ∧ p.type ≠ 3 ∧ p.vc ≠ 3 ∧ p.srcDev < 64
    let new : Prop := (p.e2e - y.low).toNat < 32768 ∧ ¬p.e2e ∈ y.got
    Canon s ∧ Alive s ∧ plain ∧ (¬new) ∧ (∀ (e : Nat × E2E), e ∈ s.fab.e2e → e.snd.waiting = []) ∧ s.cmd.far = [] ∧ x.advanced = true) ∧
    (let s : State := (eF 2)
    let p : FabPkt := (pk 0 4)
    let dev : BitVec 6 := 1
    let vc : BitVec 2 := 2
    let low : BitVec 16 := 1
    let f : FarWrite := {fw with left := 2}
    let y : E2E := s.e2e p.srcDev p.vc.toNat
    let v : Nat := vc.toNat
    let d : Nat := dev.toNat
    let x : E2E := s.e2e d v
    let plain : Prop := p.dstDev = s.sys.myDev.toNat ∧ p.type ≠ 2 ∧ p.type ≠ 3 ∧ p.vc ≠ 3 ∧ p.srcDev < 64
    let new : Prop := (p.e2e - y.low).toNat < 32768 ∧ ¬p.e2e ∈ y.got
    let quiet : Prop := s.rbit Reg.ptbCtrl 0 = false ∧ s.fab.owed = [] ∧ y.sinceAck < 255
    let left : List (BitVec 16 × FabPkt) := List.filter (fun q => decide (32768 ≤ (low - q.fst - 1).toNat)) x.retained
    let n : Nat := x.retained.length - left.length
    Canon s ∧ Alive s ∧ plain ∧ new ∧ quiet ∧ p.vc ≠ 1 ∧ p.e2e ≠ y.low ∧ y.got.contains y.low = false ∧
    (∀ (e : Nat × E2E), e ∈ s.fab.e2e → e.snd.waiting = []) ∧ v = 2 ∧ s.cmd.far = [f] ∧ f.dev = dev ∧ f.left ≤ n ∧ f.opcode = 48 ∧
    s.isOut f.hdr f.cseq = true ∧ x.advanced = false) ∧
    (let s : State := e2
    let p : FabPkt := (pk 1 11)
    let y : E2E := s.e2e p.srcDev p.vc.toNat
    let plain : Prop := p.dstDev = s.sys.myDev.toNat ∧ p.type ≠ 2 ∧ p.type ≠ 3 ∧ p.vc ≠ 3 ∧ p.srcDev < 64
    let new : Prop := (p.e2e - y.low).toNat < 32768 ∧ ¬p.e2e ∈ y.got
    let quiet : Prop := s.rbit Reg.ptbCtrl 0 = false ∧ s.fab.owed = [] ∧ y.sinceAck < 255
    Canon s ∧ Alive s ∧ plain ∧ new ∧ quiet ∧ p.vc = 1 ∧ (p.type = 6 → s.isGate = false)) ∧
    (let s : State := (eF 3)
    let dev : BitVec 6 := 1
    let vc : BitVec 2 := 2
    let low : BitVec 16 := 1
    let f : FarWrite := {fw with left := 3}
    let v : Nat := vc.toNat
    let d : Nat := dev.toNat
    let x : E2E := s.e2e d v
    let left : List (BitVec 16 × FabPkt) := List.filter (fun q => decide (32768 ≤ (low - q.fst - 1).toNat)) x.retained
    let n : Nat := x.retained.length - left.length
    Canon s ∧ Alive s ∧ (∀ (e : Nat × E2E), e ∈ s.fab.e2e → e.snd.waiting = []) ∧ v = 2 ∧ s.cmd.far = [f] ∧ f.dev = dev ∧ n < f.left) := by
  refine ⟨?_, ?_, ?_, ?_⟩ <;> (dsimp only; decide +kernel)

theorem test_meets_LossAndRetirement :
    (let s : State := e1
    let dev : BitVec 6 := 1
    let cause : BitVec 2 := 0
    let d : Nat := dev.toNat
    let may : Prop := (s.ltn.power = Power.run ∨ s.ltn.power = Power.doze) ∧ s.isReady = true ∧ d ≠ s.sys.myDev.toNat ∧ s.mayLose d cause = true
    Canon s ∧ Alive s ∧ may ∧ d ≠ s.sys.gate.toNat ∧ (¬d ∈ s.sys.lost) ∧ (∀ (f : FarWrite), f ∈ s.cmd.far → f.dev ≠ dev) ∧
    (∀ (e : Nat × Writer), e ∈ s.syn.writers → e.snd.isOpen = false ∨ e.fst / 4096 ≠ d) ∧
    (∀ (c : Nat), c < 256 → (s.circ c).flows = []) ∧
    (∀ (e : Nat × Binding), e ∈ s.cmd.bindings → e.snd.valid = false ∨ BitVec.getLsbD e.snd.mask d = false) ∧
    (∃ e, e ∈ s.cmd.bindings ∧ e.snd.valid = true) ∧ s.rbit Reg.fabRetire 0 = false) ∧
    (let s : State := (e4.rset Reg.fabRetire 1)
    let dev : BitVec 6 := 0
    let cause : BitVec 2 := 1
    let confirmed : List (BitVec 6) := [1]
    let d : Nat := dev.toNat
    let may : Prop := (s.ltn.power = Power.run ∨ s.ltn.power = Power.doze) ∧ s.isReady = true ∧ d ≠ s.sys.myDev.toNat ∧ s.mayLose d cause = true
    let told : List Nat := (s.sys.confirmed ++ List.map BitVec.toNat confirmed).eraseDups
    let all : Prop := s.rbit Reg.fabRetire 0 = true ∧ s.sys.gate ≠ s.sys.myDev ∧ (∀ (e : Nat × Link), e ∈ s.fab.links → e.snd.unacked = [] ∧ e.snd.waiting = []) ∧ (∀ (e : Nat × E2E), e ∈ s.fab.e2e → e.snd.retained = [] ∧ e.snd.waiting = [] ∧ e.snd.reorder = []) ∧ ∀ (e : Nat), e ∈ s.sys.ready → e = s.sys.myDev.toNat ∨ e ∈ told
    Canon s ∧ Alive s ∧ (¬may) ∧ (∀ (e : Nat × Binding), e ∈ s.cmd.bindings → e.snd.valid = false) ∧ s.sys.gate ≠ s.sys.myDev ∧ all) ∧
    (let s : State := e6
    let dev : BitVec 6 := 1
    let cause : BitVec 2 := 2
    let d : Nat := dev.toNat
    let may : Prop := (s.ltn.power = Power.run ∨ s.ltn.power = Power.doze) ∧ s.isReady = true ∧ d ≠ s.sys.myDev.toNat ∧ s.mayLose d cause = true
    Canon s ∧ Alive s ∧ may ∧ d ∈ s.sys.lost) ∧
    (let s : State := (e4.rset Reg.fabRetire 1)
    let confirmed : List (BitVec 6) := []
    let told : List Nat := (s.sys.confirmed ++ List.map BitVec.toNat confirmed).eraseDups
    let all : Prop := s.rbit Reg.fabRetire 0 = true ∧ s.sys.gate ≠ s.sys.myDev ∧ (∀ (e : Nat × Link), e ∈ s.fab.links → e.snd.unacked = [] ∧ e.snd.waiting = []) ∧ (∀ (e : Nat × E2E), e ∈ s.fab.e2e → e.snd.retained = [] ∧ e.snd.waiting = [] ∧ e.snd.reorder = []) ∧ ∀ (e : Nat), e ∈ s.sys.ready → e = s.sys.myDev.toNat ∨ e ∈ told
    Canon s ∧ Alive s ∧ s.rbit Reg.fabRetire 0 = true ∧ (¬all)) := by
  refine ⟨?_, ?_, ?_, ?_⟩ <;> (dsimp only; decide +kernel)

end W37b

/-! ## Group 37c -/

namespace W37c

def two : State := {cc with sys := rdy.sys}
def ci (f : Circuit → Circuit) : State := {two with fab := {two.fab with circuits := [(255, f {Circuit.empty with bound := true, binding := 3})]}, cmd := {two.cmd with streams := [(5, { Stream.empty with bound := true, binding := 3, cseq := 78, outst := [⟨77, 0x30, hq 3, 0, 0⟩] })]}}
def fl (n : Nat) : Flow := ⟨some (hq 3, 77), 70000, (List.range n).map (fun i => (BitVec.ofNat 18 i, sl1, [BitVec.ofNat 8 i])), none, none, 3, true⟩
def c1 : State := (ci (fun x => {x with flows := [fl 1]})).rset (Reg.fabCircStat 255) 0x40000000
def c2 : State := let s := ci id; {s with fab := {s.fab with circuits := s.fab.circuits ++ [(256 + 256 + 255, {Circuit.empty with inFlow := 77, received := [4]})], cmapMax := [9,9,9], cmapHist := []}}
def cn : State := ci (fun x => {x with flows := [{ fl 1 with cmd := none }]})
def ph (s : State) : State := ((s.rset (Reg.budPhysCore 0) 0x20000000).rset (Reg.budPhysCore 1) 0x20000001).rset (Reg.budPhysCore 17) 0x40000000
def q1 : State := ph cc
def q2 : State := {q1 with kpr := {q1.kpr with quiesce := ⟨true, [], [], []⟩}}
def q3 : State := (q1.rset (Reg.budPhysSlice 33) 0x40000000)
def ul (s : State) : State := (List.range 18).foldl (fun s l => s.rset (Reg.fabLnkStat l) 0x48000000) s
def q4 : State := ul {q1 with kpr := {q1.kpr with quiesce := ⟨true, [0], [(1, 3)], []⟩}}
def lf1 : State := ci (fun x => {x with flows := [fl 2]})

theorem test_meets_CircuitsAndCongestion :
    (let s : State := lf1
    let c : BitVec 8 := 255
    let chunk : BitVec 18 := 0
    let f : Flow := (fl 2)
    let src : BitVec 6 := 1
    let flow : Word64 := 77
    let dst : Word64 := sl1
    let ports : List (List (Nat × Nat)) := [[(5,9),(6,7),(0,1),(7,7)],[(1,1)]]
    let port : Nat := 25
    let v : Nat := 1
    let k : Nat := c.toNat
    let x : Circuit := s.circ k
    let rest : List (BitVec 18 × Word64 × List Byte) := List.filter (fun q => decide (q.fst ≠ chunk)) f.chunks
    let y : Circuit := s.circ (256 + src.toNat * 256 + k)
    let got : List (BitVec 18) := if y.inFlow = flow then y.received else []
    let ok : Prop := x.bound = true ∧ (s.circState k = 0 ∨ s.circState k = 4 ∨ s.circState k = 3)
    let now : Nat := BitVec.toNat s.tmr.tb + (10000 - BitVec.toNat s.tmr.tb % 10000)
    let used : Nat × Nat := if port < 18 then (s.rxBytes port v, [16384, 98304, 98304, 49152].getD v 0) else (ports.getD (port - 18) []).getD v (0, 1)
    Canon s ∧ Alive s ∧ ok ∧ x.flows = [f] ∧ rest ≠ [] ∧ s.mrefLocal dst = true ∧ dst ≠ BitVec.allOnes 64 ∧ src ≠ s.sys.myDev ∧
    mrSpace dst = 2 ∧ (¬chunk ∈ got) ∧ now < 2 ^ 48 ∧ port < 26 ∧ v < 4 ∧ 0 < used.snd) ∧
    (let s : State := c1
    let c : BitVec 8 := 255
    let chunk : BitVec 18 := 0
    let f : Flow := (fl 1)
    let h : Hdr := (hq 3)
    let cs : Word64 := 77
    let k : Nat := c.toNat
    let x : Circuit := s.circ k
    let rest : List (BitVec 18 × Word64 × List Byte) := List.filter (fun q => decide (q.fst ≠ chunk)) f.chunks
    let ok : Prop := x.bound = true ∧ (s.circState k = 0 ∨ s.circState k = 4 ∨ s.circState k = 3)
    Canon s ∧ Alive s ∧ (¬ok) ∧ x.flows = [f] ∧ rest = [] ∧ f.cmd = some (h, cs) ∧ s.isOut h cs = true) ∧
    (let s : State := c2
    let c : BitVec 8 := 255
    let chunk : BitVec 18 := 4
    let src : BitVec 6 := 1
    let flow : Word64 := 77
    let dst : Word64 := sl1
    let k : Nat := c.toNat
    let y : Circuit := s.circ (256 + src.toNat * 256 + k)
    let got : List (BitVec 18) := if y.inFlow = flow then y.received else []
    Canon s ∧ Alive s ∧ s.mrefLocal dst = true ∧ dst ≠ BitVec.allOnes 64 ∧ src ≠ s.sys.myDev ∧ mrSpace dst = 2 ∧ chunk ∈ got) ∧
    (let s : State := cn
    let c : BitVec 8 := 255
    let chunk : BitVec 18 := 0
    let f : Flow := { fl 1 with cmd := none }
    let k : Nat := c.toNat
    let x : Circuit := s.circ k
    let rest : List (BitVec 18 × Word64 × List Byte) := List.filter (fun q => decide (q.fst ≠ chunk)) f.chunks
    Canon s ∧ Alive s ∧ x.flows = [f] ∧ rest = [] ∧ f.cmd = none) := by
  refine ⟨?_, ?_, ?_, ?_⟩ <;> (dsimp only; decide +kernel)

theorem test_meets_QuiesceAndFailure :
    (let s : State := q3
    let phys : BitVec 5 := 17
    let slice : BitVec 6 := 33
    let readable : Bool := true
    let p : Nat := phys.toNat
    let sp : Nat := slice.toNat
    let z : Quiesce := s.kpr.quiesce
    let may : Prop := z.wanted = true ∧ ¬p ∈ z.acks ∧ ∃ e, e ∈ s.boundPhys ∧ e.fst = p ∧ (s.bnd e.snd).running = false
    Canon s ∧ Alive s ∧ (¬may) ∧ z.wanted = false ∧ (∀ (e : Nat × Binding), e ∈ s.cmd.bindings → e.snd.running = false) ∧
    s.activeCircs = [] ∧ p < 18 ∧ s.physState false p = 2 ∧ (∀ (e : Nat × Nat), e ∈ z.cores → e.fst ≠ p) ∧ sp < 34 ∧
    (s.physState true sp = 2 ∨ s.physState true sp = 1 ∧ readable = true ∧ (s.failedInUse true).length + 1 ≤ (s.sparesLeft true).length) ∧
    (∀ (e : Nat × Nat × Bool × BitVec 4), e ∈ z.slices → e.fst ≠ sp)) ∧
    (let s : State := q2
    let phys : BitVec 5 := 0
    let b : Nat := 3
    let p : Nat := phys.toNat
    let k : Nat := s.physLogical false p
    let x : Binding := s.bnd b
    let z : Quiesce := s.kpr.quiesce
    let may : Prop := z.wanted = true ∧ ¬p ∈ z.acks ∧ ∃ e, e ∈ s.boundPhys ∧ e.fst = p ∧ (s.bnd e.snd).running = false
    Canon s ∧ Alive s ∧ may ∧ p < 18 ∧ s.physState false p = 1 ∧ (∀ (e : Nat × Nat), e ∈ z.cores → e.fst ≠ p) ∧
    (s.cor k).bound = true ∧ (s.cor k).binding.toNat = b ∧ x.valid = true ∧ x.running = false ∧ s.isLead b = true ∧
    x.windowOpen = false ∧ x.queue = [] ∧ (∀ (n : Nat), n ∈ s.coresOf b → (s.cor n).berthQ = [])) ∧
    (let s : State := (run3 q2)
    let phys : BitVec 5 := 0
    let b : Nat := 3
    let p : Nat := phys.toNat
    let k : Nat := s.physLogical false p
    let x : Binding := s.bnd b
    let z : Quiesce := s.kpr.quiesce
    Canon s ∧ Alive s ∧ p < 18 ∧ s.physState false p = 1 ∧ (∀ (e : Nat × Nat), e ∈ z.cores → e.fst ≠ p) ∧ (s.cor k).bound = true ∧
    (s.cor k).binding.toNat = b ∧ x.valid = true ∧ x.running = true ∧ s.isLead b = true ∧ x.windowOpen = false ∧ x.queue = [] ∧
    (∀ (n : Nat), n ∈ s.coresOf b → (s.cor n).berthQ = [])) ∧
    (let s : State := q4
    let phys : BitVec 5 := 1
    let cause : BitVec 3 := 3
    let q : Nat := 17
    let p : Nat := phys.toNat
    let k : Nat := s.physLogical false p
    let z : Quiesce := s.kpr.quiesce
    Canon s ∧ Alive s ∧ s.quiesceReady = true ∧ z.cores = [(p, cause.toNat)] ∧ z.slices = [] ∧ p < 18 ∧ s.physState false p = 1 ∧
    k < 16 ∧ (s.cor k).bound = false ∧ (s.spares false).head? = some q ∧
    (∀ (e : Nat × Binding), e ∈ s.cmd.bindings → e.snd.recovering = false) ∧ s.fuses.records.length < 256 ∧ s.wornRows = [] ∧
    s.fab.circuits = [] ∧ (∀ (l : Nat), l < 18 → s.linkState l = 2 ∧ s.rbit (Reg.fabLnkCtrl l) 0 = false)) := by
  refine ⟨?_, ?_, ?_, ?_⟩ <;> (dsimp only; decide +kernel)

end W37c

/-! ## Group 40 -/

namespace W40

def up (s : State) : State := s.rset (Reg.ethPortStat 0) 0x80000001
def f0 : TFrame := ⟨0, 1, 6, false, 0, 0, 5, 0, 0, 12, h0, false, [0,0,0,1,0,0,0,2,9,9,9,9]⟩
def A : State := up b3
def k0 := spaceKey 0 0 5
def sp (x : Space) : State := A.setSpace k0 x
def C : Cpl := ⟨1, 0x20, 0, 5, 0⟩
def g2 : State := up (cmd0 rdy)
def W1 : State := (sp {Space.empty with kept := [(0,3)], txNext := 1, unsent := [false]})
def lf1 : State := {A with cmd := {A.cmd with cpls := [C, {C with cseq := 2}]}}
def lf2 : State := sp {Space.empty with kept := [(0,3)], ackDue := true}
def lf3 : State := sp {Space.empty with kept := [(0,15)]}
def lf4 : State := sp {Space.empty with held := [{f0 with seq := 3}]}
def lf5 : State := sp {Space.empty with exp := 5}
def lf6 : State := {g2 with sys := {g2.sys with lost := [1], ready := [0]}}

theorem test_meets_FramesAreSequenced :
    (let s : State := lf1
    let f : TFrame := f0
    let k : Nat := k0
    let sp : BitVec 2 := 0
    let dev : BitVec 6 := 0
    let stream : BitVec 8 := 5
    let seq : Word := 0
    let expected : Bool := false
    let bytes : Nat := 8
    let data : List Byte := []
    let x : Space := s.space k
    let d : Nat := BitVec.toNat (f.seq - x.exp)
    let key : Nat := s.keyOf sp.toNat dev.toNat stream.toNat
    let y : Space := s.space key
    let open' : Prop := s.awake = true ∧ s.serves sp.toNat dev.toNat = true
    let n : Nat := stream.toNat
    let queued : Nat := s.dataKept n
    let me : Space := s.space (spaceKey 0 s.sys.myDev.toNat n)
    let m : Nat := 0
    Canon s ∧ Alive s ∧ Spec.Arrives s f k ∧ f.type = 6 ∧ f.space = 0 ∧ f.device = s.sys.myDev ∧ d = 0 ∧ x.held = [] ∧ open' ∧
    y.unsent = [] ∧ (∀ (q : Word × Nat), q ∈ y.kept → q.fst ≠ seq) ∧ y.ackDue = false ∧ bytes % 8 = 0 ∧ s.accepting = true ∧
    (s.strm n).frozen = false ∧ m ≠ n ∧ s.awake = true ∧ (expected = true ∨ queued + data.length ≤ 1048576) ∧ s.isReady = true ∧
    s.isGate = true ∧ s.spaceFull n = false ∧ me.unsent = [] ∧ s.cmd.cpls ≠ [] ∧
    s.cmd.cpls.length ≤ s.frameRoom (s.spacePort 0 n) / 16 ∧ (∀ (r : Cpl), r ∈ s.cmd.cpls → r.stream = stream)) ∧
    (let s : State := b3
    let f : TFrame := f0
    let bytes : Nat := 7
    Canon s ∧ Alive s ∧ s.portTakes f.port.toNat = false ∧ bytes % 8 ≠ 0) ∧
    (let s : State := A
    let f : TFrame := {f0 with ver := 2}
    let stream : BitVec 8 := 5
    let expected : Bool := false
    let data : List Byte := longData
    let n : Nat := stream.toNat
    let queued : Nat := s.dataKept n
    1048576 < queued + data.length ∧ Canon s ∧ Alive s ∧ Spec.Passes s f.port.toNat f.eth ∧
    f.payload.length ≤ s.frameRoom f.port.toNat ∧ frameOk f = false ∧ s.awake = true ∧ expected = false) ∧
    (let s : State := lf2
    let sp : BitVec 2 := 0
    let dev : BitVec 6 := 0
    let stream : BitVec 8 := 5
    let seq : Word := 0
    let p : Word × Nat := (0,3)
    let key : Nat := s.keyOf sp.toNat dev.toNat stream.toNat
    let y : Space := s.space key
    let open' : Prop := s.awake = true ∧ s.serves sp.toNat dev.toNat = true
    Canon s ∧ Alive s ∧ open' ∧ (List.find? (fun q => decide (q.fst = seq)) y.kept = some p) ∧ p.snd ≠ 15 ∧ y.ackDue = true) ∧
    (let s : State := lf3
    let f : TFrame := {f0 with seq := 3}
    let k : Nat := k0
    let sp : BitVec 2 := 0
    let dev : BitVec 6 := 0
    let stream : BitVec 8 := 5
    let seq : Word := 0
    let p : Word × Nat := (0,15)
    let x : Space := s.space k
    let d : Nat := BitVec.toNat (f.seq - x.exp)
    let dup : Bool := x.held.any fun g => decide (g.seq = f.seq)
    let key : Nat := s.keyOf sp.toNat dev.toNat stream.toNat
    let y : Space := s.space key
    let open' : Prop := s.awake = true ∧ s.serves sp.toNat dev.toNat = true
    Canon s ∧ Alive s ∧ Spec.Arrives s f k ∧ f.space = 0 ∧ d ≠ 0 ∧ d < 1024 ∧ dup = false ∧
    (∀ (g : TFrame), g ∈ x.held → g.seq ≠ x.exp) ∧ s.noBuffer k f = false ∧ open' ∧
    (List.find? (fun q => decide (q.fst = seq)) y.kept = some p) ∧ p.snd = 15) ∧
    (let s : State := lf4
    let f : TFrame := {f0 with seq := 3}
    let k : Nat := k0
    let x : Space := s.space k
    let d : Nat := BitVec.toNat (f.seq - x.exp)
    let dup : Bool := x.held.any fun g => decide (g.seq = f.seq)
    (∀ (r : Word × Word), r ∈ x.replies → r.fst ≠ f.seq) ∧ Canon s ∧ Alive s ∧ Spec.Arrives s f k ∧ (2 ^ 31 ≤ d ∨ d < 1024 ∧ dup = true)) ∧
    (let s : State := lf5
    let f : TFrame := {f0 with seq := 1029}
    let k : Nat := k0
    let x : Space := s.space k
    let d : Nat := BitVec.toNat (f.seq - x.exp)
    Canon s ∧ Alive s ∧ Spec.Arrives s f k ∧ 1024 ≤ d ∧ d < 2 ^ 31) ∧
    (let s : State := g2
    let f : TFrame := {f0 with device := 1}
    Canon s ∧ Alive s ∧ s.awake = true ∧ s.isGate = true ∧ s.isReady = true ∧ f.device ≠ s.sys.myDev ∧
    (f.type = 1 ∨ f.type = 4 ∨ f.type = 5 ∨ f.type = 6) ∧ (¬f.device.toNat ∈ s.sys.lost) ∧ f.device.toNat ∈ s.sys.ready) ∧
    (let s : State := lf6
    let f : TFrame := {f0 with device := 1}
    Canon s ∧ Alive s ∧ s.awake = true ∧ s.isGate = true ∧ s.isReady = true ∧ f.device ≠ s.sys.myDev ∧
    (f.type = 1 ∨ f.type = 4 ∨ f.type = 5 ∨ f.type = 6) ∧ f.device.toNat ∈ s.sys.lost ∧ s.eth.hostSeen = true) ∧
    (let s : State := W1
    let sp : BitVec 2 := 0
    let dev : BitVec 6 := 0
    let stream : BitVec 8 := 5
    let ack : Word := 1
    let key : Nat := s.keyOf sp.toNat dev.toNat stream.toNat
    let y : Space := s.space key
    let open' : Prop := s.awake = true ∧ s.serves sp.toNat dev.toNat = true
    let left : List (Word × Nat) := List.filter (fun q => decide (BitVec.toNat (q.fst - ack) < 2 ^ 31)) y.kept
    Canon s ∧ Alive s ∧ open' ∧ y.unsent = [false] ∧ left.length < 1024) ∧
    (let s : State := A
    let f : TFrame := {f0 with payload := List.replicate 2000 1, len := 2000}
    Canon s ∧ Alive s ∧ Spec.Passes s f.port.toNat f.eth ∧ s.frameRoom f.port.toNat < f.payload.length) := 
  ⟨by dsimp only; unfold Spec.Arrives Spec.Passes; decide +kernel,
   by dsimp only; decide +kernel,
   by dsimp only; exact ⟨long_data, by unfold Spec.Passes; decide +kernel⟩,
   by dsimp only; decide +kernel,
   by dsimp only; unfold Spec.Arrives Spec.Passes; decide +kernel,
   by dsimp only; exact ⟨list_ball (by decide +kernel), by unfold Spec.Arrives Spec.Passes; decide +kernel⟩,
   by dsimp only; unfold Spec.Arrives Spec.Passes; decide +kernel,
   by dsimp only; decide +kernel,
   by dsimp only; decide +kernel,
   by dsimp only; decide +kernel,
   by dsimp only; unfold Spec.Passes; decide +kernel⟩

end W40

/-! ## Group 40b -/

namespace W40b

def r1 (a : Nat) : RegRow := (regRow a).getD ⟨0,0,0,0,0,0,0,0,false,false,false⟩
def bv (a : Nat) : Word := BitVec.ofNat 32 a
def up (s : State) : State := s.rset (Reg.ethPortStat 0) 0x80000001
def lf1 : State := ({rdy with sys := {rdy.sys with gate := 1, standby := some 0}}).setSpace (spaceKey 0 1 3) {Space.empty with exp := 4}
def lf2 : State := {rdy with sys := {rdy.sys with standby := some 2}}

theorem test_meets_PortsAndTables :
    (let s : State := (up rdy)
    let port : BitVec 1 := 0
    let mode : BitVec 4 := 5
    let hd : EthHead := h0
    let as : Bool := false
    let p : Nat := port.toNat
    let stat : Nat := Reg.ethPortStat p
    let cfg : Nat := s.rfield (Reg.ethPortCfg p) 0 4
    let here : Prop := s.portTakes p = true ∧ (hd.sub = 0 ∨ s.rfield stat 0 4 = 2)
    let sound : Prop := hd.macsec = true → s.portSas p 1 ≠ [] ∧ hd.secOk = true
    let fenced : Prop := s.rbit (Reg.ethPortCfg p) 31 = true ∧ hd.macsec = false ∧ as = false
    Canon s ∧ Alive s ∧ s.awake = true ∧ s.ltn.ethLost = false ∧ 1 ≤ mode.toNat ∧ mode.toNat ≤ 5 ∧ (cfg = 7 ∨ cfg = mode.toNat) ∧
    here ∧ sound ∧ (¬fenced) ∧ s.isTransport hd = true ∧ (List.map Prod.fst s.eth.gclNext).Nodup) ∧
    (let s : State := ((up rdy).rset (Reg.ethPortCfg 0) 0x80000001)
    let port : BitVec 1 := 0
    let mode : BitVec 4 := 0
    let hd : EthHead := {h0 with vid := none}
    let as : Bool := false
    let p : Nat := port.toNat
    let stat : Nat := Reg.ethPortStat p
    let cfg : Nat := s.rfield (Reg.ethPortCfg p) 0 4
    let here : Prop := s.portTakes p = true ∧ (hd.sub = 0 ∨ s.rfield stat 0 4 = 2)
    let sound : Prop := hd.macsec = true → s.portSas p 1 ≠ [] ∧ hd.secOk = true
    let fenced : Prop := s.rbit (Reg.ethPortCfg p) 31 = true ∧ hd.macsec = false ∧ as = false
    Canon s ∧ Alive s ∧ (mode = 0 ∨ 5 < mode.toNat ∨ cfg ≠ 7 ∧ cfg ≠ mode.toNat) ∧ here ∧ sound ∧ fenced) ∧
    (let s : State := (up rdy)
    let port : BitVec 1 := 0
    let hd : EthHead := {h0 with vid := none}
    let as : Bool := false
    let p : Nat := port.toNat
    let stat : Nat := Reg.ethPortStat p
    let here : Prop := s.portTakes p = true ∧ (hd.sub = 0 ∨ s.rfield stat 0 4 = 2)
    let sound : Prop := hd.macsec = true → s.portSas p 1 ≠ [] ∧ hd.secOk = true
    let fenced : Prop := s.rbit (Reg.ethPortCfg p) 31 = true ∧ hd.macsec = false ∧ as = false
    Canon s ∧ Alive s ∧ here ∧ sound ∧ (¬fenced) ∧ s.qciPasses p hd = true ∧ s.isTransport hd = false) ∧
    (let s : State := (up rdy)
    let port : BitVec 1 := 0
    let hd : EthHead := {h0 with macsec := true, secOk := true}
    let p : Nat := port.toNat
    let stat : Nat := Reg.ethPortStat p
    let here : Prop := s.portTakes p = true ∧ (hd.sub = 0 ∨ s.rfield stat 0 4 = 2)
    let sound : Prop := hd.macsec = true → s.portSas p 1 ≠ [] ∧ hd.secOk = true
    Canon s ∧ Alive s ∧ here ∧ (¬sound)) ∧
    (let s : State := (up rdy)
    let port : BitVec 1 := 0
    let hd : EthHead := {h0 with sub := 1}
    let p : Nat := port.toNat
    let stat : Nat := Reg.ethPortStat p
    let here : Prop := s.portTakes p = true ∧ (hd.sub = 0 ∨ s.rfield stat 0 4 = 2)
    Canon s ∧ Alive s ∧ (¬here)) := by
  refine ⟨?_, ?_, ?_, ?_, ?_⟩ <;> (dsimp only; decide +kernel)

theorem test_meets_GateDeviceRoles :
    (let s : State := (up rdy)
    let dev : BitVec 6 := 1
    let d : Nat := dev.toNat
    let others : Prop := ∀ (p : Nat × Writer), p ∈ s.syn.writers → p.snd.isOpen = true → p.fst / 4096 ≠ d
    Canon s ∧ Alive s ∧ s.awake = true ∧ s.isReady = true ∧ dev ≠ s.sys.myDev ∧ others ∧
    (s.awake = false ∨ s.isReady = false ∨ s.sys.standby = none ∨ s.isGate = true ∧ s.sys.standby = some s.sys.myDev)) ∧
    (let s : State := lf1
    let dev : BitVec 6 := 0
    Canon s ∧ Alive s ∧ dev = s.sys.myDev ∧ s.awake = true ∧ s.isReady = true ∧ s.isGate = false ∧ s.sys.standby = some s.sys.myDev) ∧
    (let s : State := lf2
    let q : BitVec 6 := 2
    Canon s ∧ Alive s ∧ s.awake = true ∧ s.isReady = true ∧ s.sys.standby = some q ∧ q ≠ s.sys.myDev) := by
  refine ⟨?_, ?_, ?_⟩ <;> (dsimp only; decide +kernel)

end W40b

/-! ## Group 41 -/

namespace W41

def G (g : Governor → Governor) : State := {one with gov := g one.gov}
def lf1 : State := G (fun g => {g with fails := [0,99], boardSum := 10^15, boardN := 1, temps := [190], outBand := 100})

theorem test_meets_WindowsSetLevels :
    (let s : State := (one.rset Reg.pgvLevel 0x0C050A00)
    let close : Nat := slotAfter (BitVec.toNat s.tmr.tb) 0 1000
    let sure : List (Nat × Nat) := if s.gov.steady = true then List.filter (fun w => s.gov.worked.contains w) s.working else []
    let unsure : List (Nat × Nat) := List.filter (fun w => !sure.contains w) (s.working ++ s.gov.worked)
    let first : Nat := aclkOf ((BitVec.ofNat 64 close).toNat - 1000)
    let bubbles : Nat := (List.map (fun w => List.countP (fun i => isBubble (s.coreLevel w.fst (first + i)) (first + i)) (List.range 750)) sure).sum
    let order : List Nat := [s.rfield Reg.pgvCtrl 0 2, s.rfield Reg.pgvCtrl 2 2, s.rfield Reg.pgvCtrl 4 2]
    Canon s ∧ Alive s ∧ order.Perm [0, 1, 2] ∧ s.longGet Reg.pgvBubLo + bubbles + 750 * unsure.length < 2 ^ 48) := by dsimp only; decide +kernel

theorem test_meets_TelemetryAndTemperatures :
    (let s : State := one
    let sensor : BitVec 5 := 17
    let r : Nat := 7
    let g : Governor := s.gov
    Canon s ∧ Alive s ∧ r < 8 ∧ g.outBand < 100 ∧ sensor.toNat < 18) ∧
    (let s : State := lf1
    let sensor : BitVec 5 := 18
    let g : Governor := s.gov
    Canon s ∧ Alive s ∧ 100 ≤ g.outBand ∧ 18 ≤ sensor.toNat) := by
  refine ⟨?_, ?_⟩ <;> (dsimp only; decide +kernel)

end W41

/-! ## Group 42 -/

namespace W42

def L (s : State) (f : Lantern → Lantern) : State := {s with ltn := f s.ltn}
def doze (s : State) : State := L s (fun l => {l with power := .doze, gated := [2]})
def slp (s : State) : State := (L s (fun l => {l with power := .sleep, pwrEn := [false,false,false,false,false,true,true,false], pg := [false,false,false,false,false,true,true,false]})).rset Reg.ltnStatus 0x110
def hbmB (s : State) : State := {s with mem := {s.mem with cells := [(Mem.store 0 0 + 5, 7), (Mem.hbm + 5, 9)], bad := [3, Mem.hbm/8], shadow := [(3,4)]}}
def busy : State := {b3 with cmd := {b3.cmd with bindings := [(3, {B with running := true})]}}
def nob : State := {one with cmd := {one.cmd with bindings := [(3, {B with valid := false})]}}
def dent (s : State) : State := L s (fun l => {l with power := .doze, entering := true, stage := 1, gated := List.range 17})
def hw0 (s : State) : EthHead := {h0 with vid := some s.ltn.vid, etype := s.ltn.etype}
def wk (v : Word) : State := (slp one).rset Reg.ltnWakeen v
def sent (s : State) : State := L s (fun l => {l with entering := true, stage := 4, pg := [false,false,false,false,true,true,true,false]})
def lf1 : State := (doze {b3 with cmd := {b3.cmd with streams := [(5, {Stream.empty with held := [(0, .chancfg (hd 1) 1 0), (1, .bind (hd 3) 1 1 0 0 0 0), (2, .loadprog (hd 1) 0 0 0 0)]})]}, irq := {b3.irq with raw := 8, en := 8}}).rset (Reg.ltnWatch 0) 0x80000003
def lf2 : State := L (doze b3) (fun l => {l with stage := 1})
def lf3 : State := L (wk 0x31) (fun l => {l with stage := 1, pwrEn := List.replicate 8 true, pg := [true,true,true,true,true,true,true,false]})
def lf4 : State := ((L (wk 0x12) (fun l => {l with stage := 2, pg := List.replicate 8 true})).rset Reg.ltnFwakeEn 0x10).rset Reg.ltnFwakeMode 0x10
def lf5 : State := L (wk 0x31) (fun l => {l with power := .held, stage := 0, pwrEn := [true,false,false,false,false,true,true,false], pg := [false,false,false,false,false,true,true,false]})
def lf6 : State := L (wk 0x31) (fun l => {l with listening := some 1, pwrEn := [false,false,false,true,true,true,true,false], pg := [false,false,false,true,true,true,true,false]})
def lf7 : State := L (hbmB (wk 0x12)) (fun l => {l with stage := 2, xt32Lost := true, pg := List.replicate 8 true})

theorem test_meets_PowerRequests :
    (let s : State := (doze b3)
    let others : Bool := true
    let kind : BitVec 2 := 0
    let k : BitVec 5 := 0
    let phys : BitVec 5 := 2
    let up : Prop := (s.ltn.power = Power.run ∨ s.ltn.power = Power.doze) ∧ s.ltn.entering = false ∧ s.ltn.stage = 0
    let busy : Prop := ∃ p, p ∈ s.cmd.bindings ∧ p.snd.valid = true ∧ (p.snd.running = true ∨ p.snd.waitSlot = true ∨ p.snd.queue ≠ [] ∨ p.snd.windowOpen = true)
    let free : Prop := (∀ (p : Nat × Binding), p ∈ s.cmd.bindings → p.snd.valid = false) ∧ (s.sys.nDevs ≤ 1 ∨ s.rbit Reg.fabRetire 1 = true) ∧ (s.sys.nDevs ≤ 1 ∨ s.isGate = false ∨ others = true) ∧ s.ltnLoad ≤ 1800
    let source : Nat := s.rfield (Reg.ltnWatch k.toNat) 0 9
    let p : Nat := phys.toNat
    Canon s ∧ Alive s ∧ up ∧ (¬busy) ∧ (¬free) ∧ s.ltn.power = Power.doze ∧ (s.ltn.entering = true ∨ s.ltn.stage ≠ 1) ∧
    (∀ (x : Nat × Machine.Stream), x ∈ s.cmd.streams → ∀ (c : Word64 × Instr), c ∈ x.snd.held → reachesCore c.snd = false) ∧ kind = 0 ∧
    (s.rbit (Reg.ltnWatch k.toNat) 31 = false ∨ s.irqPending source = false) ∧
    (s.mayGate p = false ∨ s.ltn.power ≠ Power.run ∧ ¬(s.ltn.power = Power.doze ∧ s.ltn.entering = true) ∨ p ∈ s.ltn.gated)) ∧
    (let s : State := (hbmB nob)
    let others : Bool := true
    let phys : BitVec 5 := 3
    let up : Prop := (s.ltn.power = Power.run ∨ s.ltn.power = Power.doze) ∧ s.ltn.entering = false ∧ s.ltn.stage = 0
    let free : Prop := (∀ (p : Nat × Binding), p ∈ s.cmd.bindings → p.snd.valid = false) ∧ (s.sys.nDevs ≤ 1 ∨ s.rbit Reg.fabRetire 1 = true) ∧ (s.sys.nDevs ≤ 1 ∨ s.isGate = false ∨ others = true) ∧ s.ltnLoad ≤ 1800
    let p : Nat := phys.toNat
    Canon s ∧ Alive s ∧ up ∧ free ∧ s.ltn.power ≠ Power.doze ∧ p < 18 ∧ s.ltn.power = Power.run ∧ s.mayGate p = true ∧
    (¬p ∈ s.ltn.gated)) ∧
    (let s : State := lf1
    let kind : BitVec 2 := 0
    let k : BitVec 5 := 0
    let dozing : Prop := s.ltn.power = Power.doze ∧ (s.ltn.entering = true ∨ s.ltn.stage = 0)
    let source : Nat := s.rfield (Reg.ltnWatch k.toNat) 0 9
    Canon s ∧ Alive s ∧ dozing ∧
    ((kind = 0 ∧ ∃ x, x ∈ s.cmd.streams ∧ ∃ c, c ∈ x.snd.held ∧ reachesCore c.snd = true) ∨ (kind = 1 ∧ ∃ w, w ∈ s.syn.watches ∧ w.beacon.isSome = true) ∨ kind = 2 ∧ s.syn.notes ≠ []) ∧
    s.rbit (Reg.ltnWatch k.toNat) 31 = true ∧ s.irqPending source = true) ∧
    (let s : State := (dent b3)
    let phys : BitVec 5 := 17
    let up : Prop := (s.ltn.power = Power.run ∨ s.ltn.power = Power.doze) ∧ s.ltn.entering = false ∧ s.ltn.stage = 0
    let p : Nat := phys.toNat
    Canon s ∧ Alive s ∧ (¬up) ∧ p < 18 ∧ s.ltn.power = Power.doze ∧ s.ltn.entering = true ∧ s.ltn.wakeDue = false ∧
    s.mayGate p = true ∧ (¬p ∈ s.ltn.gated)) ∧
    (let s : State := busy
    let up : Prop := (s.ltn.power = Power.run ∨ s.ltn.power = Power.doze) ∧ s.ltn.entering = false ∧ s.ltn.stage = 0
    let busy : Prop := ∃ p, p ∈ s.cmd.bindings ∧ p.snd.valid = true ∧ (p.snd.running = true ∨ p.snd.waitSlot = true ∨ p.snd.queue ≠ [] ∨ p.snd.windowOpen = true)
    Canon s ∧ Alive s ∧ up ∧ busy) ∧
    (let s : State := lf2
    let quiet : Prop := s.syn.notes = [] ∧ ∀ (w : WatchE), w ∈ s.syn.watches → w.beacon = none
    Canon s ∧ Alive s ∧ s.ltn.power = Power.doze ∧ s.ltn.entering = false ∧ s.ltn.stage = 1 ∧ quiet) := by
  refine ⟨?_, ?_, ?_, ?_, ?_, ?_⟩ <;> (dsimp only; decide +kernel)

theorem test_meets_WakeAndRestore :
    (let s : State := lf3
    let port : BitVec 1 := 0
    let l : BitVec 5 := 4
    let mac : BitVec 48 := 0xFFFFFFFFFFFF
    let hd : EthHead := (hw0 one)
    let pattern : List Word := [0,0,0,0]
    let mask : BitVec 18 := 0
    let n : BitVec 3 := 7
    let p : Nat := port.toNat
    let k : Nat := l.toNat
    let asleep : Prop := s.ltn.power = Power.sleep
    let matches' : Prop := s.ltn.listening = some port ∧ s.ltn.ethLost = false ∧ s.ltn.pg.getD 3 false = true ∧ s.ltn.pg.getD 4 false = true ∧ (mac = BitVec.allOnes 48 ∨ mac.toNat = BitVec.toNat (s.rget Reg.ltnWakemacHi) % 2 ^ 16 * 2 ^ 32 + BitVec.toNat (s.rget Reg.ltnWakemacLo)) ∧ hd.vid = some s.ltn.vid ∧ hd.etype = s.ltn.etype ∧ hd.udp = none ∧ pattern = List.map (fun i => s.rget (Reg.ltnWpat i)) (List.range 4)
    let watched : Bool → Prop := fun b => s.rbit Reg.ltnFwakeEn k = true ∧ s.rbit Reg.ltnFwakeMode k = b
    let fwOk : Prop := ∀ (j : Nat), j < 18 → mask.getLsbD j = true → s.linkState j = 0 ∨ s.linkState j = 5
    let pg : List Bool := s.ltn.pg.set n.toNat true
    let late : Prop := s.ltn.pwrEn.getD n.toNat false = true ∧ s.ltn.pg.getD n.toNat false = false
    Canon s ∧ Alive s ∧ s.ltn.pwrEn.length = 8 ∧ asleep ∧ s.emode p = 1 ∧ s.emode p ≠ 2 ∧ s.ltn.listening ≠ some port ∧ (¬matches') ∧
    (¬asleep ∨ ¬watched false) ∧ (¬asleep ∨ ¬watched true) ∧ fwOk ∧ s.ltn.xt32Lost = false ∧ s.rbit Reg.ltnWakeen 4 = true ∧
    s.rbit Reg.ltnWakeen 5 = true ∧ s.ltn.power ≠ Power.doze ∧ (¬asleep ∨ s.ltn.stage ≠ 2) ∧ s.ltn.stage = 1 ∧
    (∀ (j : Nat), j ∈ [0, 1, 2, 3, 4, 7] → s.ltn.pwrEn.getD j false = true ∧ pg.getD j false = true) ∧ late ∧ s.ltn.entering = false ∧
    s.rbit Reg.ltnStatus 4 = true) ∧
    (let s : State := lf4
    let port : BitVec 1 := 0
    let l : BitVec 5 := 4
    let n : BitVec 3 := 0
    let p : Nat := port.toNat
    let k : Nat := l.toNat
    let asleep : Prop := s.ltn.power = Power.sleep
    let watched : Bool → Prop := fun b => s.rbit Reg.ltnFwakeEn k = true ∧ s.rbit Reg.ltnFwakeMode k = b
    let late : Prop := s.ltn.pwrEn.getD n.toNat false = true ∧ s.ltn.pg.getD n.toNat false = false
    Canon s ∧ Alive s ∧ s.ltn.pwrEn.length = 8 ∧ asleep ∧ s.emode p ≠ 1 ∧ watched true ∧ s.rbit Reg.ltnWakeen 5 = false ∧
    s.ltn.stage = 2 ∧ (∀ (b : Bool), b ∈ s.ltn.pg → b = true) ∧ (¬late) ∧ (¬(asleep ∧ s.ltn.entering = true))) ∧
    (let s : State := ((one.rset (Reg.ethPortStat 1) 0x80000000).rset (Reg.fabLnkStat 2) 0x40000000)
    let port : BitVec 1 := 1
    let hd : EthHead := (hw0 one)
    let mask : BitVec 18 := 4
    let p : Nat := port.toNat
    let asleep : Prop := s.ltn.power = Power.sleep
    let fwOk : Prop := ∀ (j : Nat), j < 18 → mask.getLsbD j = true → s.linkState j = 0 ∨ s.linkState j = 5
    Canon s ∧ Alive s ∧ s.ltn.pwrEn.length = 8 ∧ (¬asleep) ∧ Spec.Passes s p hd ∧ (¬fwOk) ∧ s.rbit Reg.ltnStatus 4 = false) ∧
    (let s : State := lf5
    let n : BitVec 3 := 0
    let m : Nat := 1
    let asleep : Prop := s.ltn.power = Power.sleep
    let pg : List Bool := s.ltn.pg.set n.toNat true
    let rails : List Nat → Prop := fun order => (∀ (j : Nat), j ∈ order → s.ltn.pwrEn.getD j false = true → pg.getD j false = true) ∧ List.find? (fun j => !s.ltn.pwrEn.getD j false) order = some m
    let cold : Prop := s.ltn.power = Power.held ∧ s.ltn.pgAborted = false ∧ rails [6, 5, 0, 1, 2, 3, 4, 7]
    let warm : Prop := asleep ∧ s.ltn.stage = 1 ∧ rails [0, 1, 2, 3, 4, 7]
    let late : Prop := s.ltn.pwrEn.getD n.toNat false = true ∧ s.ltn.pg.getD n.toNat false = false
    Canon s ∧ Alive s ∧ s.ltn.pwrEn.length = 8 ∧ (cold ∨ warm) ∧ late ∧ s.ltn.power = Power.held) ∧
    (let s : State := lf6
    let port : BitVec 1 := 1
    let mac : BitVec 48 := 0xFFFFFFFFFFFF
    let hd : EthHead := (hw0 one)
    let pattern : List Word := [0,0,0,0]
    let asleep : Prop := s.ltn.power = Power.sleep
    let matches' : Prop := s.ltn.listening = some port ∧ s.ltn.ethLost = false ∧ s.ltn.pg.getD 3 false = true ∧ s.ltn.pg.getD 4 false = true ∧ (mac = BitVec.allOnes 48 ∨ mac.toNat = BitVec.toNat (s.rget Reg.ltnWakemacHi) % 2 ^ 16 * 2 ^ 32 + BitVec.toNat (s.rget Reg.ltnWakemacLo)) ∧ hd.vid = some s.ltn.vid ∧ hd.etype = s.ltn.etype ∧ hd.udp = none ∧ pattern = List.map (fun i => s.rget (Reg.ltnWpat i)) (List.range 4)
    Canon s ∧ Alive s ∧ s.ltn.pwrEn.length = 8 ∧ asleep ∧ s.ltn.stage = 0 ∧ s.ltn.listening = some port ∧ matches') ∧
    (let s : State := (((hbmB (wk 0x12))).rset Reg.ltnFwakeEn 0x10)
    let port : BitVec 1 := 0
    let l : BitVec 5 := 4
    let p : Nat := port.toNat
    let k : Nat := l.toNat
    let asleep : Prop := s.ltn.power = Power.sleep
    let watched : Bool → Prop := fun b => s.rbit Reg.ltnFwakeEn k = true ∧ s.rbit Reg.ltnFwakeMode k = b
    Canon s ∧ Alive s ∧ s.ltn.pwrEn.length = 8 ∧ asleep ∧ s.ltn.stage = 0 ∧ s.ltn.listening = none ∧ s.emode p = 2 ∧ watched false) ∧
    (let s : State := lf7
    Canon s ∧ Alive s ∧ s.ltn.pwrEn.length = 8 ∧ s.ltn.xt32Lost = true) ∧
    (let s : State := (sent (wk 0x31))
    let n : BitVec 3 := 4
    let asleep : Prop := s.ltn.power = Power.sleep
    Canon s ∧ Alive s ∧ s.ltn.pwrEn.length = 8 ∧ asleep ∧ s.ltn.entering = true ∧ s.ltn.wakeDue = false ∧
    s.ltn.pg.getD n.toNat false = true) := 
  ⟨by dsimp only; decide +kernel,
   by dsimp only; decide +kernel,
   by dsimp only; unfold Spec.Passes; decide +kernel,
   by dsimp only; decide +kernel,
   by dsimp only; decide +kernel,
   by dsimp only; decide +kernel,
   by dsimp only; decide +kernel,
   by dsimp only; decide +kernel⟩

theorem test_meets_ResetsAndClocks :
    (let s : State := ((hbmB b3).rset (Reg.fabLnkStat 3) 0x40000000)
    let pgHigh : Bool := true
    let i : Nat := 3
    let kept : Prop := pgHigh = true ∧ s.ltn.power ≠ Power.sleep ∧ s.ltn.power ≠ Power.off
    Canon s ∧ Alive s ∧ kept ∧ s.ltn.power ≠ Power.sleep ∧ s.ltn.power ≠ Power.off ∧ s.activeCircs = [] ∧ i < 18) ∧
    (let s : State := ((hbmB b3).rset (Reg.fabLnkStat 3) 0x40000000)
    let pgHigh : Bool := false
    let kept : Prop := pgHigh = true ∧ s.ltn.power ≠ Power.sleep ∧ s.ltn.power ≠ Power.off
    Canon s ∧ Alive s ∧ (¬kept)) := by
  refine ⟨?_, ?_⟩ <;> (dsimp only; decide +kernel)

end W42

/-! ## Group 42b -/

namespace W42b

def rep : BringupReport := {bootSel := 0, header := [0x50, 0x4B, 0x58, 0x4E, 1, 0, 0, 0, 0, 1, 0, 0, 16, 0, 0, 0] ++ List.replicate 48 0, absent := [], sigOk := true, desc := [], descCrc := crc32 [], hbmOk := true, badCores := [], badSlices := [], badRows := [], links := [], devs := [(0x100, 0)], gate := 0, standby := none, cores := [16], cables := [], gateFw := [], gateDesc := [], ramp0 := 3, pgtmo := 10, fwHash := [], descHash := [1], edges := [], micros := 5}
def z : State := State.reset
def zs : State := {z with fuses := {z.fuses with badCores := []}}
def fast : State := ({zs with ltn := {zs.ltn with keep := ⟨true, [0x40000005], crc32 (wordBytes [0x40000005]), true, false, 0, 0, []⟩}}).rset Reg.budState 0x80000
def lf1 : State := {zs with fuses := {zs.fuses with keyKill := true}}
def lf2 : State := {zs with ltn := {zs.ltn with keep := {zs.ltn.keep with sigfail := 2}}}
def lf3 : State := {fast with fuses := {zs.fuses with keyKill := true}}

theorem test_meets_BringUpEnds :
    (let s : State := b3
    let r : BringupReport := rep
    Canon s ∧ Alive s ∧ s.released = false ∧ s.fastOk r = false) ∧
    (let s : State := fast
    let r : BringupReport := rep
    let image : Prop := s.fuses.keyKill = false ∧ s.bootOk r = true
    let crc : Prop := r.descCrc = crc32 r.desc
    let listed : Prop := (s.devNum r).isSome = true
    s.fastOk r = true ∧ Canon s ∧ Alive s ∧ s.released = true ∧ image ∧ crc ∧ r.cables = [] ∧ listed ∧ s.fwAgree r = true) ∧
    (let s : State := zs
    let r : BringupReport := rep
    let sound : Prop := s.fuses.badCores = [] ∧ s.fuses.badSlices = [] ∧ s.fuses.records = [] ∧ r.badCores = [] ∧ r.badSlices = [] ∧ r.badRows = []
    let image : Prop := s.fuses.keyKill = false ∧ s.bootOk r = true
    let crc : Prop := r.descCrc = crc32 r.desc
    let listed : Prop := (s.devNum r).isSome = true
    Canon s ∧ Alive s ∧ s.released = true ∧ s.fastOk r = false ∧ r.bootSel ≠ 3 ∧ image ∧ crc ∧ r.hbmOk = true ∧ sound ∧ r.cables = [] ∧
    listed ∧ s.fwAgree r = true) ∧
    (let s : State := zs
    let r : BringupReport := {rep with bootSel := 3}
    Canon s ∧ Alive s ∧ s.released = true ∧ s.fastOk r = false ∧ r.bootSel = 3) ∧
    (let s : State := lf1
    let r : BringupReport := rep
    Canon s ∧ Alive s ∧ s.released = true ∧ s.fastOk r = false ∧ r.bootSel ≠ 3 ∧ s.fuses.keyKill = true) ∧
    (let s : State := lf2
    let r : BringupReport := {rep with sigOk := false}
    Canon s ∧ Alive s ∧ s.released = true ∧ s.fastOk r = false ∧ r.bootSel ≠ 3 ∧ s.fuses.keyKill = false ∧ s.bootOk r = false) ∧
    (let s : State := zs
    let r : BringupReport := {rep with descCrc := 5}
    let image : Prop := s.fuses.keyKill = false ∧ s.bootOk r = true
    let crc : Prop := r.descCrc = crc32 r.desc
    Canon s ∧ Alive s ∧ s.released = true ∧ s.fastOk r = false ∧ r.bootSel ≠ 3 ∧ image ∧ (¬crc)) ∧
    (let s : State := zs
    let r : BringupReport := {rep with hbmOk := false}
    let image : Prop := s.fuses.keyKill = false ∧ s.bootOk r = true
    let crc : Prop := r.descCrc = crc32 r.desc
    Canon s ∧ Alive s ∧ s.released = true ∧ s.fastOk r = false ∧ r.bootSel ≠ 3 ∧ image ∧ crc ∧ r.hbmOk = false) ∧
    (let s : State := zs
    let r : BringupReport := {rep with devs := []}
    let sound : Prop := s.fuses.badCores = [] ∧ s.fuses.badSlices = [] ∧ s.fuses.records = [] ∧ r.badCores = [] ∧ r.badSlices = [] ∧ r.badRows = []
    let image : Prop := s.fuses.keyKill = false ∧ s.bootOk r = true
    let crc : Prop := r.descCrc = crc32 r.desc
    let listed : Prop := (s.devNum r).isSome = true
    Canon s ∧ Alive s ∧ s.released = true ∧ s.fastOk r = false ∧ r.bootSel ≠ 3 ∧ image ∧ crc ∧ r.hbmOk = true ∧ sound ∧ r.cables = [] ∧
    (¬listed)) ∧
    (let s : State := zs
    let r : BringupReport := {rep with gate := 1, gateFw := [1]}
    let sound : Prop := s.fuses.badCores = [] ∧ s.fuses.badSlices = [] ∧ s.fuses.records = [] ∧ r.badCores = [] ∧ r.badSlices = [] ∧ r.badRows = []
    let image : Prop := s.fuses.keyKill = false ∧ s.bootOk r = true
    let crc : Prop := r.descCrc = crc32 r.desc
    let listed : Prop := (s.devNum r).isSome = true
    Canon s ∧ Alive s ∧ s.released = true ∧ s.fastOk r = false ∧ r.bootSel ≠ 3 ∧ image ∧ crc ∧ r.hbmOk = true ∧ sound ∧ r.cables = [] ∧
    listed ∧ s.fwAgree r = false) ∧
    (let s : State := lf3
    let r : BringupReport := rep
    s.fastOk r = true ∧ Canon s ∧ Alive s ∧ s.released = true ∧ s.fuses.keyKill = true) := 
  ⟨by dsimp only; decide +kernel,
   by dsimp only; exact ⟨fast_ok (by decide +kernel) rfl, by decide +kernel⟩,
   by dsimp only; decide +kernel,
   by dsimp only; decide +kernel,
   by dsimp only; decide +kernel,
   by dsimp only; decide +kernel,
   by dsimp only; decide +kernel,
   by dsimp only; decide +kernel,
   by dsimp only; decide +kernel,
   by dsimp only; decide +kernel,
   by dsimp only; exact ⟨fast_ok (by decide +kernel) rfl, by decide +kernel⟩⟩

end W42b

/-! ## Group 43 -/

namespace W43

def I (f : Irq → Irq) : State := {one with irq := f one.irq}
def T (s : State) : State := s.rset Reg.tmrTbStat 0x80000001
def tm (t : Timer) (s : State) : State := s.setTimer 31 t
def t0 : Timer := ⟨true, 3, 2, 10, 3, 4⟩
def on (v : Word) (s : State) : State := (s.rset (Reg.tmrCtrl 31) (v ||| 0x80000000))
def lf1 : State := (I (fun i => {i with en := 0x20, slot1 := 5, active := 0x30})).rset (Reg.irqFwd 0) 0x20
def lf2 : State := (I (fun i => {i with raw := 0x20, en := 0x20, active := 0x20, slot1 := 511})).rset (Reg.irqFwd 0) 0x20
def lf3 : State := (((on 0x40070000 (tm {t0 with cmp1 := 0} b3)).rset (Reg.tmrCount 31) 9).rset (Reg.tmrStat 31) 0x42).rset (Reg.tmrCmp1 31) 0
def lf4 : State := tm {t0 with bound := false} b3

theorem test_meets_InterruptsAreClaimed :
    (let s : State := one
    let n : BitVec 9 := 5
    let p : BitVec 1 := 0
    let k : Nat := n.toNat
    let slot : BitVec 9 := s.claimSlot p
    let free : Prop := slot = 0 ∨ slot = 511
    Canon s ∧ Alive s ∧ irqAssigned k = true ∧ s.irq.raw.getLsbD k = false ∧ s.flagsClear k = true ∧ free ∧ n ≠ 0 ∧ n ≠ 511 ∧
    s.irqPending k = false ∧ (slot ≠ n ∨ n = 0 ∨ n = 511)) ∧
    (let s : State := lf1
    let n : BitVec 9 := 511
    let p : BitVec 1 := 1
    let k : Nat := n.toNat
    let slot : BitVec 9 := s.claimSlot p
    let free : Prop := slot = 0 ∨ slot = 511
    Canon s ∧ Alive s ∧ irqAssigned k = false ∧ s.flagsClear k = false ∧ (¬free ∨ n = 0 ∨ n = 511)) ∧
    (let s : State := lf2
    let n : BitVec 9 := 5
    let p : BitVec 1 := 1
    let k : Nat := n.toNat
    let slot : BitVec 9 := s.claimSlot p
    let free : Prop := slot = 0 ∨ slot = 511
    Canon s ∧ Alive s ∧ irqAssigned k = true ∧ s.irq.raw.getLsbD k = true ∧ free ∧ n ≠ 0 ∧ n ≠ 511 ∧ s.irqPending k = true) ∧
    (let s : State := lf1
    let n : BitVec 9 := 5
    let p : BitVec 1 := 1
    let slot : BitVec 9 := s.claimSlot p
    Canon s ∧ Alive s ∧ slot = n ∧ n ≠ 0 ∧ n ≠ 511) := by
  refine ⟨?_, ?_, ?_, ?_⟩ <;> (dsimp only; decide +kernel)

theorem test_meets_TimebaseIsDisciplined :
    (let s : State := (T b3)
    let rate : Word := 0x1e848000
    let src : BitVec 2 := 1
    let offset : Word64 := 5
    let ok : Prop := s.timeSourceOk src.toNat = true ∧ -512000000 ≤ BitVec.toInt rate ∧ BitVec.toInt rate ≤ 512000000
    Canon s ∧ Alive s ∧ s.anyLocked = false ∧ ok ∧ src ≠ 0 ∧ 0 < BitVec.toInt offset) ∧
    (let s : State := (T (b3.rset (Reg.cmdStepCtrl 3) 1))
    let rate : Word := 1
    let src : BitVec 2 := 1
    let offset : Word64 := 5
    let ok : Prop := s.timeSourceOk src.toNat = true ∧ -512000000 ≤ BitVec.toInt rate ∧ BitVec.toInt rate ≤ 512000000
    Canon s ∧ Alive s ∧ s.anyLocked = true ∧ ok ∧ src ≠ 0 ∧ (BitVec.toInt offset ≤ 0 ∨ s.anyLocked = true)) ∧
    (let s : State := (T (b3.rset (Reg.cmdStepCtrl 3) 1))
    let rate : Word := 0xe17b8000
    let src : BitVec 2 := 2
    let ok : Prop := s.timeSourceOk src.toNat = true ∧ -512000000 ≤ BitVec.toInt rate ∧ BitVec.toInt rate ≤ 512000000
    Canon s ∧ Alive s ∧ (¬ok)) := by
  refine ⟨?_, ?_, ?_⟩ <;> (dsimp only; decide +kernel)

theorem test_meets_TimersCount :
    (let s : State := (on 0x70000 (tm t0 b3))
    let n : BitVec 5 := 31
    let k : BitVec 1 := 0
    let which : BitVec 2 := 0
    let v : Word := 5
    let mask : Word := 0x80000000
    let i : Nat := n.toNat
    let t : Timer := s.timer i
    let ctrl : Nat := Reg.tmrCtrl i
    let count : Nat := Reg.tmrCount i
    let wraps : Prop := BitVec.toNat t.period ≤ BitVec.toNat (s.rget count) + 1
    let c : Word := if wraps then 0 else s.rget count + 1
    let cmp : Nat → Word := fun j => if wraps then s.rget (if j = 0 then Reg.tmrCmp0 i else Reg.tmrCmp1 i) else if j = 0 then t.cmp0 else t.cmp1
    let on : Prop := s.timerOn i = true
    let open' : Prop := s.timerOpen i = true
    let all : Prop := ∀ (j : Nat), j < 32 → BitVec.getLsbD mask j = true → s.timerOpen j = true
    Canon s ∧ Alive s ∧ Spec.Home s ∧ on ∧ (¬wraps) ∧ cmp k.toNat ≠ c ∧ open' ∧ which ≠ 3 ∧ (¬(which = 0 ∧ v = 0)) ∧
    s.rbit ctrl 30 = false ∧ all) ∧
    (let s : State := lf3
    let n : BitVec 5 := 31
    let k : BitVec 1 := 1
    let which : BitVec 2 := 0
    let v : Word := 9
    let mask : Word := 0x80000001
    let i : Nat := n.toNat
    let t : Timer := s.timer i
    let ctrl : Nat := Reg.tmrCtrl i
    let count : Nat := Reg.tmrCount i
    let wraps : Prop := BitVec.toNat t.period ≤ BitVec.toNat (s.rget count) + 1
    let c : Word := if wraps then 0 else s.rget count + 1
    let cmp : Nat → Word := fun j => if wraps then s.rget (if j = 0 then Reg.tmrCmp0 i else Reg.tmrCmp1 i) else if j = 0 then t.cmp0 else t.cmp1
    let on : Prop := s.timerOn i = true
    let open' : Prop := s.timerOpen i = true
    let all : Prop := ∀ (j : Nat), j < 32 → BitVec.getLsbD mask j = true → s.timerOpen j = true
    Canon s ∧ Alive s ∧ Spec.Home s ∧ on ∧ wraps ∧ cmp k.toNat = c ∧ open' ∧ which ≠ 3 ∧ (¬(which = 0 ∧ v = 0)) ∧
    s.rbit ctrl 30 = true ∧ (¬all)) ∧
    (let s : State := (tm t0 b3)
    let n : BitVec 5 := 31
    let which : BitVec 2 := 3
    let i : Nat := n.toNat
    let on : Prop := s.timerOn i = true
    let open' : Prop := s.timerOpen i = true
    Canon s ∧ Alive s ∧ Spec.Home s ∧ (¬on) ∧ open' ∧ which = 3) ∧
    (let s : State := lf3
    let n : BitVec 5 := 31
    let which : BitVec 2 := 3
    let v : Word := 9
    let i : Nat := n.toNat
    let on : Prop := s.timerOn i = true
    let open' : Prop := s.timerOpen i = true
    Canon s ∧ Alive s ∧ Spec.Home s ∧ open' ∧ (which = 3 ∧ on ∨ which = 0 ∧ v = 0)) ∧
    (let s : State := lf4
    let n : BitVec 5 := 31
    let i : Nat := n.toNat
    let open' : Prop := s.timerOpen i = true
    Canon s ∧ Alive s ∧ Spec.Home s ∧ (¬open')) := by
  refine ⟨?_, ?_, ?_, ?_, ?_⟩ <;> (dsimp only; unfold Spec.Home; decide +kernel)

end W43

/-! ## Group 44 -/

namespace W44

def n32 : List Byte := List.replicate 32 1
def lc (n : Nat) (s : State) : State := {s with fuses := {s.fuses with lcBits := n, owner := some [1]}}
def lf1 : State := lc 0 {one with sec := {one.sec with sigRun := 2}}
def lf2 : State := lc 0 {one with sec := {one.sec with sigRun := 2}, ltn := {one.ltn with power := .sleep}}
def lf3 : State := lc 3 {one with sec := {one.sec with sigRun := 1}, fuses := {one.fuses with keyKill := true}}

theorem test_meets_SecurityRequests :
    (let s : State := lf1
    let nonce : List Byte := []
    let ki : List Byte := (List.replicate 16 1)
    let wrapped : List Byte := (List.replicate 56 1)
    let pub : List Byte := (List.replicate 97 1)
    let c : Nat := lcOf s.fuses
    Canon s ∧ Alive s ∧ nonce.length ≠ 32 ∧ s.ltn.power ≠ Power.sleep ∧ s.ltn.power ≠ Power.off ∧ c ≤ 1 ∧ ki.length = 16 ∧
    wrapped.length = 56 ∧ pub.length = 97) ∧
    (let s : State := lf2
    let ki : List Byte := []
    let wrapped : List Byte := (List.replicate 56 1)
    let pub : List Byte := (List.replicate 97 1)
    let c : Nat := lcOf s.fuses
    Canon s ∧ Alive s ∧ (s.ltn.power = Power.sleep ∨ s.ltn.power = Power.off) ∧
    (ki.length ≠ 16 ∨ wrapped.length ≠ 56 ∨ pub.length ≠ 97) ∧ c ≤ 1) ∧
    (let s : State := (lc 2 b3)
    let nonce : List Byte := n32
    Canon s ∧ Alive s ∧ nonce.length = 32) ∧
    (let s : State := lf3
    let c : Nat := lcOf s.fuses
    Canon s ∧ Alive s ∧ c = 4) := by
  refine ⟨?_, ?_, ?_, ?_⟩ <;> (dsimp only; decide +kernel)

end W44

/-! ## Group 45 -/

namespace W45

def decD : List Word := [0xC0300000, 0x00000004, 0, 0x00800000, 0, 1, 0, 7, 5, 0xFF0003,0,0,0,0,0,1]
def chS (l : List Word) (o : Chan) : State := poke {cc with cnv := {cc.cnv with chans := [(4095, o)], insts := [(4095*2^18+7, {Inst.empty with v := -3, e := 9, encoded := some 3})]}} hA l
def od' : Chan := { Chan.ofBytes 3 false ((decD.set 15 8).flatMap (fun w => leBytes 4 w.toNat)) with bound := true }

theorem test_meets_ChancfgReplacesChannel :
    (let s : State := (chS decD od')
    let h : Hdr := (hd 1)
    let ch : BitVec 12 := 4095
    let m : Word64 := hb
    let c : Instr := Instr.chancfg h ch m
    let b : Nat := Spec.bind s h
    let k : Nat := ch.toNat
    let old : Chan := s.chan k
    let a : Nat := s.mrefAddr m
    let l : Nat := chanLen (s.bytes a 64)
    let new : Chan := Chan.ofBytes b old.frozen (s.bytes a l)
    Spec.ReadyIdle s h c ∧ Canon s ∧ s.owns b 6 k = true ∧ mrSpace m ≠ 4 ∧ s.mrefLocal m = true ∧ s.mrefCheck b m l = St.ok ∧
    s.badRange a l = false ∧ s.instsIn a l = [] ∧ new.valid = true ∧ s.chanStatus b new l = St.ok ∧
    ((s.clearInsts k).setChan k new).spillFits b = true) := by dsimp only; exact ⟨ready_idle _ _ _ (by unfold Spec.Ready Spec.Clear; decide +kernel), by decide +kernel⟩

end W45

/-! ## Group 45b -/

namespace W45b

def B3 (f : Binding → Binding) (s : State) : State := {s with cmd := {s.cmd with bindings := [(3, f B)]}}
def gone : State := B3 (fun x => {x with boundary := [⟨.loadprog (hq 1) 1 0 0 hb, 4, []⟩]}) cc

theorem test_meets_BoundaryEffectOrder :
    (let s : State := W22.bo
    let b : BitVec 6 := 3
    let d : Deferred := ⟨.epoch (hq 1) 0 7 1, 4, []⟩
    let pre : List Deferred := [⟨.snapshot (hq 2) 5 hb 0x100000, 3, []⟩]
    let post : List Deferred := [⟨.epoch (hq 1) 0 8 1, 5, []⟩]
    let h : Hdr := (hq 1)
    let op : Byte := 0x23
    let u : State := s.setBnd b.toNat (have __src := s.bnd b.toNat; { valid := __src.valid, lead := __src.lead, mask := __src.mask, seed := __src.seed, joined := __src.joined, joinWait := __src.joinWait, joinsHeld := __src.joinsHeld, step := __src.step, running := __src.running, waitSlot := __src.waitSlot, slotAt := __src.slotAt, halting := __src.halting, haltBy := __src.haltBy, queue := __src.queue, signals := __src.signals, signalled := __src.signalled, covered := __src.covered, gates := __src.gates, votes := __src.votes, epochsOut := __src.epochsOut, startedAt := __src.startedAt, modeIn := __src.modeIn, lenIn := __src.lenIn, periodIn := __src.periodIn, phaseIn := __src.phaseIn, limitIn := __src.limitIn, extraIn := __src.extraIn, rampIn := __src.rampIn, overran := __src.overran, windowOpen := __src.windowOpen, applies := __src.applies, outPkts := __src.outPkts, boundary := pre ++ post, samples := __src.samples, snapStep := __src.snapStep, spill := __src.spill, recovering := __src.recovering, lastHeld := __src.lastHeld, met := __src.met, farOpen := __src.farOpen })
    Alive s ∧ (s.bnd b.toNat).running = false ∧ (s.bnd b.toNat).boundary = pre ++ d :: post ∧ (¬d ∈ pre) ∧
    (∀ (x : Deferred), x ∈ pre → s.deferReady b.toNat x = false) ∧ s.deferReady b.toNat d = true ∧ cmdHdr d.cmd = some (h, op) ∧
    (u.targetGone b.toNat d = false ∨ (s.strm h.stream.toNat).bound = false) ∧ op ≠ 48) ∧
    (let s : State := (run3 cc)
    let b : BitVec 6 := 3
    Alive s ∧ (s.bnd b.toNat).running = true) ∧
    (let s : State := gone
    let b : BitVec 6 := 3
    let d : Deferred := ⟨.loadprog (hq 1) 1 0 0 hb, 4, []⟩
    let pre : List Deferred := []
    let post : List Deferred := []
    let h : Hdr := (hq 1)
    let op : Byte := 0x10
    let u : State := s.setBnd b.toNat (have __src := s.bnd b.toNat; { valid := __src.valid, lead := __src.lead, mask := __src.mask, seed := __src.seed, joined := __src.joined, joinWait := __src.joinWait, joinsHeld := __src.joinsHeld, step := __src.step, running := __src.running, waitSlot := __src.waitSlot, slotAt := __src.slotAt, halting := __src.halting, haltBy := __src.haltBy, queue := __src.queue, signals := __src.signals, signalled := __src.signalled, covered := __src.covered, gates := __src.gates, votes := __src.votes, epochsOut := __src.epochsOut, startedAt := __src.startedAt, modeIn := __src.modeIn, lenIn := __src.lenIn, periodIn := __src.periodIn, phaseIn := __src.phaseIn, limitIn := __src.limitIn, extraIn := __src.extraIn, rampIn := __src.rampIn, overran := __src.overran, windowOpen := __src.windowOpen, applies := __src.applies, outPkts := __src.outPkts, boundary := pre ++ post, samples := __src.samples, snapStep := __src.snapStep, spill := __src.spill, recovering := __src.recovering, lastHeld := __src.lastHeld, met := __src.met, farOpen := __src.farOpen })
    Alive s ∧ (s.bnd b.toNat).running = false ∧ (s.bnd b.toNat).boundary = pre ++ d :: post ∧ (¬d ∈ pre) ∧
    (∀ (x : Deferred), x ∈ pre → s.deferReady b.toNat x = false) ∧ s.deferReady b.toNat d = true ∧ cmdHdr d.cmd = some (h, op) ∧
    u.targetGone b.toNat d = true ∧ (s.strm h.stream.toNat).bound = true) := by
  refine ⟨?_, ?_, ?_⟩ <;> (dsimp only; decide +kernel)

theorem test_meets_CopyWritesModulators :
    (let s : State := (poke cc hA [11,12,13,14,15])
    let h : Hdr := (hq 3)
    let mask : BitVec 4 := 5
    let count : BitVec 19 := 1
    let first : BitVec 18 := 0
    let src : Word64 := hb
    let circuit : BitVec 8 := 0
    let use : Bool := false
    let c : Instr := Instr.copy h 1 mask count first src 0 0 circuit use
    let b : Nat := Spec.bind s h
    let below : Nat → Nat := fun k => (List.filter (fun j => mask.getLsbD j) (List.range k)).length
    let n : Nat := 4 * below 4 * count.toNat
    (∀ (k : Nat), Spec.Named first count k → s.owns b 2 k = true) ∧ Canon s ∧ Spec.Ready s h c ∧ mask ≠ 0 ∧ 1 ≤ count.toNat ∧
    first.toNat + count.toNat ≤ 262144 ∧ (use = true → s.owns b 7 circuit.toNat = true) ∧ s.mrefCheck b src n = St.ok ∧
    mrSpace src ≠ 4 ∧ s.mrefLocal src = true ∧ s.noRoute src = false ∧ s.badRange (s.mrefAddr src) n = false ∧
    s.instsIn (s.mrefAddr src) n = []) := by dsimp only; exact ⟨named_ball (by decide +kernel), by unfold Spec.Ready Spec.Clear; decide +kernel⟩

end W45b

/-! ## Group 45r -/

namespace W45r

def rt3 : State := poke cc hA [0x20052, 0, 0]

theorem test_meets_LoadsStoreTheirEntries :
    (let s : State := W21.ru
    let h : Hdr := (hd 1)
    let core : BitVec 10 := 0
    let matrix : BitVec 8 := 0
    let m : Word64 := hb
    let n : Nat := 0
    let b : Nat := Spec.bind s h
    let mx : Nat := matrix.toNat
    let src : Nat := s.mrefAddr m
    let e : RuleDesc := { w := wordsOf (s.bytes src 128) }
    Spec.ReadyIdle s h (Instr.loadrule h core matrix m) ∧ Canon s ∧ s.localOf core.toNat = some n ∧ n < 16 ∧ mrSpace m = 1 ∧
    s.mrefLocal m = true ∧ s.badRange src 128 = false ∧ (s.rule n mx).valid = false ∧ e.valid = true ∧
    (s.loadruleNow b core.toNat mx h.stream m []).snd.fst = St.ok) ∧
    (let s : State := rt3
    let h : Hdr := (hq 2)
    let core : BitVec 10 := 0
    let slot : BitVec 6 := 0
    let m : Word64 := hb
    let idx : BitVec 17 := 32
    let first : BitVec 17 := 32
    let units : BitVec 17 := 51
    let n : Nat := 0
    let b : Nat := Spec.bind s h
    let len : Nat := 8 * units.toNat
    let src : Nat := s.mrefAddr m
    Spec.ReadyIdle s h (Instr.loadroute h core slot idx m first units) ∧ Canon s ∧ s.localOf core.toNat = some n ∧ n < 16 ∧
    mrSpace m = 1 ∧ s.mrefLocal m = true ∧ s.badRange src len = false ∧
    (s.loadrouteNow b core.toNat slot.toNat idx.toNat h.stream m first.toNat units.toNat []).snd.fst = St.ok) := by
  refine ⟨?_, ?_⟩ <;> (dsimp only; exact ⟨ready_idle _ _ _ (by unfold Spec.Ready Spec.Clear; decide +kernel), by decide +kernel⟩)

end W45r

/-! ## Group 46 -/

namespace W46

def f1 : Firing := ⟨0, 7, 0, 1⟩
def f2 : Firing := ⟨0, 7, 1, 3⟩
def ent : List Word := [0x20021, 0, 0x00041401, 0x0000000C]  -- index words 0: first 33 count1; entry low/high
def rs0 : State := let s := poke (run3 cc) (routeUnit 0 32) ent
  poke s (Mem.store 0 4 + 0x1A000) [0x80000020]
def rs (f : Core → Core) : State := rs0.setCor 0 (f {rs0.cor 0 with phase := .emit, fired := [f1, f2]})
def pOf : Packet := ⟨1, 0, 3, 0, 5, false, 0, [0x00010000 + 7*8+1]⟩
def snd (p : Packet) (s : State) : State := {s with rtr := {s.rtr with replicas := [(p.dstCore, p)]}, cmd := {s.cmd with bindings := [(3, {B with running := true, outPkts := 2, queue := [⟨hd 0, 0, 0x20, some 1, 0, 0, []⟩]})]}}
def s1 : State := snd pOf cc
def a1 : State := {s1 with rtr := {s1.rtr with replicas := [], inFlight := [pOf], credits := [(1, 3)]}}
def a2 : State := {a1 with rtr := {a1.rtr with draining := [1]}}
def pD : Packet := {pOf with delay := 63}
def rH : State := rs (fun c => {c with holding := List.replicate 8 pOf})
def aJ : State := {a2 with rtr := {a2.rtr with ingress := [(0, pD, 0)], inFlight := [pD], credits := [(1, 3)]}}

theorem test_meets_RoutesExpand :
    (let s : State := W33.r1
    let core : BitVec 10 := 0
    let f : Firing := W33.f1
    let g : Firing := W33.f2
    let rest : List Firing := []
    let u0 : Nat := 33
    let n : Nat := core.toNat
    let c : Core := s.cor n
    let taps : List Tap := s.tapsOf c.binding.toNat (s.sysOf n) f
    let ent : Nat := Reg.coreRteEntLo n
    let room : Prop := c.holding.length < 8 ∧ s.cnv.taps.length + taps.length ≤ 16384
    Canon s ∧ Alive s ∧ n < 16 ∧ c.fired = f :: g :: rest ∧ c.entry = 0 ∧ c.frozen = false ∧ room ∧ s.routeSlot n f.slot / 2 ^ 31 = 1 ∧
    s.routeIndex n f.slot f.idx = (u0, 1) ∧ s.badRange (routeUnit n (s.routeSlot n f.slot % 2 ^ 17) + 4 * f.idx) 4 = false ∧
    s.badRange (routeUnit n u0) 8 = false ∧ s.longGet ent + 1 < 2 ^ 48) ∧
    (let s : State := W33.r3
    let core : BitVec 10 := 0
    let f : Firing := W33.f1
    let g : Firing := W33.f2
    let rest : List Firing := []
    let n : Nat := core.toNat
    let c : Core := s.cor n
    Canon s ∧ Alive s ∧ n < 16 ∧ c.fired = f :: g :: rest ∧ c.entry = 0 ∧ c.frozen = true) ∧
    (let s : State := W33.r4
    let core : BitVec 10 := 0
    let f : Firing := W33.f1
    let g : Firing := W33.f2
    let rest : List Firing := []
    let n : Nat := core.toNat
    let c : Core := s.cor n
    let taps : List Tap := s.tapsOf c.binding.toNat (s.sysOf n) f
    let room : Prop := c.holding.length < 8 ∧ s.cnv.taps.length + taps.length ≤ 16384
    Canon s ∧ Alive s ∧ n < 16 ∧ c.fired = f :: g :: rest ∧ c.entry = 0 ∧ c.frozen = false ∧ room ∧ s.routeSlot n f.slot / 2 ^ 31 = 0) ∧
    (let s : State := rH
    let core : BitVec 10 := 0
    let f : Firing := f1
    let g : Firing := f2
    let rest : List Firing := []
    let n : Nat := core.toNat
    let c : Core := s.cor n
    let taps : List Tap := s.tapsOf c.binding.toNat (s.sysOf n) f
    let room : Prop := c.holding.length < 8 ∧ s.cnv.taps.length + taps.length ≤ 16384
    Canon s ∧ Alive s ∧ n < 16 ∧ c.fired = f :: g :: rest ∧ c.entry = 0 ∧ c.frozen = false ∧ (¬room)) := by
  refine ⟨?_, ?_, ?_, ?_⟩ <;> (dsimp only; decide +kernel)

theorem test_meets_PacketsAreAccepted :
    (let s : State := W33.a2
    let src : BitVec 6 := 0
    let p : Packet := W33.pOf
    let n : Nat := 1
    let core : BitVec 10 := 1
    let cur : Nat := (s.bnd (s.cor n).binding.toNat).step.toNat
    let k : Nat := (emittedStep cur p.step.toNat + 1 + p.delay.toNat) % 64
    let free : Nat := 2048 - (s.staged n).length
    let drains : Prop := n ∈ s.rtr.draining ∧ k = cur % 64
    let room : Prop := drains → p.records.length ≤ free
    let mine : Prop := p ∈ s.rtr.inFlight ∧ ∀ (x : BitVec 6 × Packet × Nat), x ∈ s.rtr.ingress → ¬(x.fst = src ∧ x.snd.fst = p)
    let j : Nat := core.toNat
    Canon s ∧ Alive s ∧ s.localOf p.dstCore = some n ∧ n < 16 ∧ (s.staged n).length ≤ 2048 ∧ src = s.sys.myDev ∧ mine ∧ room ∧
    j ∈ s.rtr.draining ∧ (∀ (x : Nat × Ev), x ∈ s.staged j → x.fst < 64) ∧
    (∀ (x : BitVec 6 × Packet × Nat), x ∈ s.rtr.ingress → s.localOf x.snd.fst.dstCore ≠ some j)) ∧
    (let s : State := aJ
    let src : BitVec 6 := 0
    let p : Packet := pD
    let n : Nat := 1
    let core : BitVec 10 := 1
    let mine : Prop := p ∈ s.rtr.inFlight ∧ ∀ (x : BitVec 6 × Packet × Nat), x ∈ s.rtr.ingress → ¬(x.fst = src ∧ x.snd.fst = p)
    let j : Nat := core.toNat
    let m : Nat := 0
    Canon s ∧ Alive s ∧ s.localOf p.dstCore = some n ∧ n < 16 ∧ (s.staged n).length ≤ 2048 ∧ src = s.sys.myDev ∧ (¬mine) ∧ j = n ∧
    n ∈ s.rtr.draining ∧ s.staged n = [] ∧ s.rtr.owed = [] ∧ s.rtr.ingress = [(s.sys.myDev, p, m)]) ∧
    (let s : State := W33.a4
    let src : BitVec 6 := 0
    let p : Packet := W33.pD
    let n : Nat := 1
    let cur : Nat := (s.bnd (s.cor n).binding.toNat).step.toNat
    let k : Nat := (emittedStep cur p.step.toNat + 1 + p.delay.toNat) % 64
    let free : Nat := 2048 - (s.staged n).length
    let drains : Prop := n ∈ s.rtr.draining ∧ k = cur % 64
    let room : Prop := drains → p.records.length ≤ free
    let mine : Prop := p ∈ s.rtr.inFlight ∧ ∀ (x : BitVec 6 × Packet × Nat), x ∈ s.rtr.ingress → ¬(x.fst = src ∧ x.snd.fst = p)
    Canon s ∧ Alive s ∧ s.localOf p.dstCore = some n ∧ n < 16 ∧ (s.staged n).length ≤ 2048 ∧
    (if src = s.sys.myDev then mine else p.records ≠ [] ∧ p.records.length ≤ 2048) ∧ (¬room)) ∧
    (let s : State := W33.a5
    let src : BitVec 6 := 1
    let p : Packet := {W33.pD with srcCore := 3}
    let n : Nat := 1
    let cur : Nat := (s.bnd (s.cor n).binding.toNat).step.toNat
    let k : Nat := (emittedStep cur p.step.toNat + 1 + p.delay.toNat) % 64
    let free : Nat := 2048 - (s.staged n).length
    let drains : Prop := n ∈ s.rtr.draining ∧ k = cur % 64
    let room : Prop := drains → p.records.length ≤ free
    Canon s ∧ Alive s ∧ s.localOf p.dstCore = some n ∧ n < 16 ∧ (s.staged n).length ≤ 2048 ∧ src ≠ s.sys.myDev ∧ p.records ≠ [] ∧
    p.records.length ≤ 2048 ∧ room) ∧
    (let s : State := W33.a6
    let b : BitVec 6 := 3
    let p : Packet := {W33.pOf with dstCore := 3}
    let core : BitVec 10 := 3
    let j : Nat := core.toNat
    Canon s ∧ Alive s ∧ s.localOf j = none ∧
    (List.find? (fun q => decide (q.dstCore = j) && decide ((s.cor ((s.localOf q.srcCore).getD 0)).binding.toNat = b.toNat)) s.rtr.inFlight = some p)) := by
  refine ⟨?_, ?_, ?_, ?_, ?_⟩ <;> (dsimp only; decide +kernel)

end W46

/-! ## Group 47 -/

namespace W47

def bq (f : Binding → Binding) (s : State) : State := {s with cmd := {s.cmd with bindings := [(3, f {B with queue := [⟨hd 0, 0, 0x20, some 1, 0, 0, []⟩]})]}}
def z2 : State := (bq id cc).rset (Reg.cmdStepCtrl 3) 0x80000401
def lf1 : State := bq (fun x => {x with lead := 1, mask := 3, waitSlot := true}) cc
def lf2 : State := bq (fun x => {x with waitSlot := true}) cc
def lf3 : State := bq (fun x => {x with windowOpen := true}) z2

theorem test_meets_StepsStart :
    (let s : State := lf1
    let b : BitVec 6 := 3
    let k : Nat := b.toNat
    let x : Binding := s.bnd k
    Canon s ∧ Alive s ∧ x.valid = true ∧ x.samples = [] ∧ s.isLead k = false ∧ x.running = false ∧ s.boundaryClear k = true ∧
    s.regMode k = 0 ∧ x.waitSlot = true) ∧
    (let s : State := W30.z1
    let b : BitVec 6 := 3
    let k : Nat := b.toNat
    let x : Binding := s.bnd k
    Canon s ∧ Alive s ∧ x.valid = true ∧ x.samples = [] ∧ s.isLead k = true ∧ s.boundaryClear k = true ∧ (s.nextStep k).isSome = true ∧
    x.waitSlot = false ∧ s.regMode k ≠ 1) ∧
    (let s : State := W30.z2
    let b : BitVec 6 := 3
    let k : Nat := b.toNat
    let x : Binding := s.bnd k
    Canon s ∧ Alive s ∧ x.valid = true ∧ x.samples = [] ∧ s.isLead k = true ∧ s.boundaryClear k = true ∧ (s.nextStep k).isSome = true ∧
    x.waitSlot = false ∧ s.regMode k = 1) ∧
    (let s : State := W30.z4
    let b : BitVec 6 := 3
    let k : Nat := b.toNat
    let x : Binding := s.bnd k
    Canon s ∧ Alive s ∧ x.valid = true ∧ x.samples = [] ∧ s.isLead k = false ∧ x.running = false ∧
    (s.boundaryClear k = false ∨ s.regMode k ≠ 0)) ∧
    (let s : State := W30.z5
    let b : BitVec 6 := 3
    let k : Nat := b.toNat
    let x : Binding := s.bnd k
    let next : Nat := slotAfter (BitVec.toNat s.tmr.tb) (s.regPhase k) (s.regPeriod k)
    let then' : State := { pending := s.pending, fuses := s.fuses, reg := s.reg, mem := s.mem, cmd := s.cmd, core := s.core, rtr := s.rtr, sys := s.sys, cnv := s.cnv, syn := s.syn, fab := s.fab, eth := s.eth, gov := s.gov, ltn := s.ltn, kpr := s.kpr, irq := s.irq, tmr := have __src := s.tmr; { tb := BitVec.ofNat 64 next, frac := __src.frac, timers := __src.timers }, sec := s.sec, ptb := s.ptb, dead := s.dead, out := s.out, free := s.free }
    Canon s ∧ Alive s ∧ x.valid = true ∧ x.samples = [] ∧ x.running = false ∧ s.regMode k = 1 ∧ next < 2 ^ 64 ∧
    BitVec.toNat x.slotAt ≤ next ∧ x.waitSlot = true ∧ then'.boundaryClear k = true) ∧
    (let s : State := W30.z6
    let b : BitVec 6 := 3
    let k : Nat := b.toNat
    let x : Binding := s.bnd k
    Canon s ∧ Alive s ∧ x.valid = true ∧ x.samples = [] ∧ x.running = true ∧ x.modeIn = 1 ∧ x.overran = false) ∧
    (let s : State := lf2
    let b : BitVec 6 := 3
    let k : Nat := b.toNat
    let x : Binding := s.bnd k
    Canon s ∧ Alive s ∧ x.valid = true ∧ x.samples = [] ∧ s.isLead k = true ∧ s.boundaryClear k = true ∧ (s.nextStep k).isSome = true ∧
    x.waitSlot = true ∧ s.regMode k = 0) ∧
    (let s : State := lf3
    let b : BitVec 6 := 3
    let k : Nat := b.toNat
    let x : Binding := s.bnd k
    let next : Nat := slotAfter (BitVec.toNat s.tmr.tb) (s.regPhase k) (s.regPeriod k)
    Canon s ∧ Alive s ∧ x.valid = true ∧ x.samples = [] ∧ x.running = false ∧ s.regMode k = 1 ∧ next < 2 ^ 64 ∧
    BitVec.toNat x.slotAt ≤ next ∧ x.overran = false ∧ (x.waitSlot = true ∨ (s.nextStep k).isSome = true) ∧
    (x.windowOpen = true ∨ s.kpr.quiesce.wanted = true)) := by
  refine ⟨?_, ?_, ?_, ?_, ?_, ?_, ?_, ?_⟩ <;> (dsimp only; decide +kernel)

end W47

/-! ## Group 48 -/

namespace W48

def tick (f : Core → Core) (s : State) : State := run3 (s.setCor 0 (f {s.cor 0 with phase := .integrate}))
def rows : State := poke (poke cc (matAddr 0 0) (md.set 0 0x83000008)) (Mem.store 0 0 + 0x1000) [0x3C003C00,0,0,0,0xC2014400]
def wn : Window := ⟨0, [7], [⟨0, 0, 7, 2⟩, ⟨0, 1, 7, 1⟩, ⟨0, 3, 7, 1⟩]⟩
def r1 : State := tick (fun c => {c with windows := [wn]}) rows
def r1b : State := {r1 with mem := {r1.mem with bad := [(Mem.store 0 0 + 0x1000)/8]}}

theorem test_meets_RowsAndAdditions :
    (let s : State := r1
    let core : BitVec 10 := 0
    let w : Window := wn
    let ws : List Window := []
    let a : Addn := ⟨0, 0, 7, 2⟩
    let n : Nat := core.toNat
    let c : Core := s.cor n
    let run : List Addn := s.nextRun n
    let m : Nat := a.matrix.toNat
    let d : MatDesc := s.mat n m
    let adr : Nat := s.rowAddr n m a.row.toNat (s.bnd c.binding.toNat).step.toNat
    let reads : Nat := Reg.coreSynReadsLo n
    let buf : List (Nat × Nat) := []
    Canon s ∧ Alive s ∧ n < 16 ∧ c.windows = w :: ws ∧ s.firstMiss n c.rowBuf run = some (a, buf) ∧ s.longGet reads + 1 < 2 ^ 48 ∧
    d.ncol ≤ 8192 ∧ s.badRange adr (rowWB d.fmt d.ncol + rowSB d.fmt d.ncol) = false) ∧
    (let s : State := r1b
    let core : BitVec 10 := 0
    let w : Window := wn
    let ws : List Window := []
    let a : Addn := ⟨0, 0, 7, 2⟩
    let n : Nat := core.toNat
    let c : Core := s.cor n
    let run : List Addn := s.nextRun n
    let m : Nat := a.matrix.toNat
    let d : MatDesc := s.mat n m
    let adr : Nat := s.rowAddr n m a.row.toNat (s.bnd c.binding.toNat).step.toNat
    let reads : Nat := Reg.coreSynReadsLo n
    let buf : List (Nat × Nat) := []
    Canon s ∧ Alive s ∧ n < 16 ∧ c.windows = w :: ws ∧ s.firstMiss n c.rowBuf run = some (a, buf) ∧ s.longGet reads + 1 < 2 ^ 48 ∧
    d.ncol ≤ 8192 ∧ s.badRange adr (rowWB d.fmt d.ncol + rowSB d.fmt d.ncol) = true) := by
  refine ⟨?_, ?_⟩ <;> (dsimp only; decide +kernel)

end W48

/-! ## Group 49 -/

namespace W49

def rl1 : List Word := rl.set 0 0x80143000
def er : State := poke cm (ruleAddr 0 0) rl1
def l0 : State := run3 (er.setCor 0 {er.cor 0 with phase := .emit, learnDue := true})
def BB (f : Binding → Binding) (s : State) : State := {s with cmd := {s.cmd with bindings := [(3, f B)], streams := [(5, { Stream.empty with bound := true, binding := 3, cseq := 1, outst := [⟨0, 0x24, hq 0, 0, 0⟩] })]}}
def gt : State := {BB (fun x => {x with step := 10}) er with cmd := {(BB (fun x => {x with step := 10, applies := [(0, hq 0, 0)]}) er).cmd with ctxs := [(0, {ctx0 with cstep := 10})]}}
def gN : State := let s := gt.setBnd 3 {gt.bnd 3 with applies := []}; s
def gN2 : State := {gN with cmd := {gN.cmd with ctxs := [(0, {ctx0 with cstep := 3})]}}
def lf1 : State := l0.setCor 0 {l0.cor 0 with learnDue := false}

theorem test_meets_LearningPasses :
    (let s : State := W34.l0
    let core : BitVec 10 := 0
    let m : Nat := 0
    let q : Nat × Ctx := (0, ctx0)
    let n : Nat := core.toNat
    let c : Core := s.cor n
    let rl : RuleDesc := s.rule n m
    let mine : List Nat := List.filter (fun m => decide ((s.rule n m).binding = c.binding.toNat)) (s.rulesOf n)
    Canon s ∧ Alive s ∧ n < 16 ∧ c.learnDue = true ∧ mine = [m] ∧ s.coreCtxs n rl.binding = [q] ∧ rl.dlearn = false ∧ c.firing = [] ∧
    (c.adds = [] ∨ ∀ (x : Term), x ∈ rl.terms → x.trig = 1) ∧ s.longGet (Reg.coreLrnOpsLo n) + c.adds.length < 2 ^ 48) ∧
    (let s : State := W34.l1
    let core : BitVec 10 := 0
    let n : Nat := core.toNat
    let c : Core := s.cor n
    let mine : List Nat := List.filter (fun m => decide ((s.rule n m).binding = c.binding.toNat)) (s.rulesOf n)
    Canon s ∧ Alive s ∧ n < 16 ∧ c.learnDue = true ∧ mine = []) ∧
    (let s : State := lf1
    let core : BitVec 10 := 0
    let n : Nat := core.toNat
    let c : Core := s.cor n
    Canon s ∧ Alive s ∧ n < 16 ∧ c.learnDue = false) := by
  refine ⟨?_, ?_, ?_⟩ <;> (dsimp only; decide +kernel)

theorem test_meets_ApplyWindows :
    (let s : State := gN2
    let b : BitVec 6 := 3
    let k : Nat := b.toNat
    let x : Binding := s.bnd k
    Canon s ∧ Alive s ∧ x.valid = true ∧ x.running = false ∧ (((s.bindingRules k).all fun p => decide (s.ruleState p ≠ 2)) = true) ∧
    x.queue = [] ∧ x.halting = false ∧ (∀ (p : Nat × Ctx), p ∈ s.ctxsOf k → p.snd.gated = s.mustGate p.snd)) ∧
    (let s : State := (run3 gt)
    let b : BitVec 6 := 3
    let k : Nat := b.toNat
    let x : Binding := s.bnd k
    Canon s ∧ Alive s ∧ x.valid = true ∧ x.running = true) := by
  refine ⟨?_, ?_⟩ <;> (dsimp only; decide +kernel)

end W49

/-! ## Group 50 -/

namespace W50

def rl1 : List Word := rl.set 0 0x80143000
def er : State := poke cm (ruleAddr 0 0) rl1
def BB (f : Binding → Binding) (s : State) : State := {s with cmd := {s.cmd with bindings := [(3, f B)], streams := [(5, { Stream.empty with bound := true, binding := 3, cseq := 1, outst := [⟨0, 0x24, hq 0, 0, 0⟩] })]}}
def gt : State := {BB (fun x => {x with step := 10}) er with cmd := {(BB (fun x => {x with step := 10, applies := [(0, hq 0, 0)]}) er).cmd with ctxs := [(0, {ctx0 with cstep := 10})]}}
def gw : State := getNext (exec (.applyWindowOpen 3 []) gt) gt
def gk : State := gw.setRed 0 0 {gw.red 0 0 with got := [(0,0)], computed := 1, sent := 1}
def gku : State := {gk with fab := {gk.fab with circuits := [(2, {Circuit.empty with bound := true, binding := 3, flows := [⟨none, 0, [(0, 0, [])], some ⟨0, 0, 0, 1, [.newRows 0 []]⟩, none, 0, false⟩]})]}}
def tl2 : State := poke (run3 gw) (ruleAddr 0 0) ((rl1.set 15 (rl1.getD 15 0 ||| 0x10000)).set 0 (rl1.getD 0 0 ||| 0x10000000))
def lf1 : State := tl2.setRed 0 0 {tl2.red 0 0 with voted := [0]}

theorem test_meets_ChunksReduce :
    (let s : State := W34.gw2
    let core : BitVec 10 := 0
    let matrix : BitVec 8 := 0
    let member : BitVec 10 := 1
    let chunk : BitVec 18 := 0
    let n : Nat := core.toNat
    let m : Nat := matrix.toNat
    let rl : RuleDesc := s.rule n m
    let d : MatDesc := s.mat n m
    let x : Reduction := s.red n m
    let b : Nat := rl.binding
    let mine : List Nat := chunkOf d.nrows (s.memRows n m member.toNat) chunk.toNat
    let full : Nat → Prop := fun k => ∀ (g : Nat), g < rl.gsize → ∀ (r : Nat), r ∈ rl.rowsOf d k → (g, r / s.memRows n m g) ∈ x.got
    let lost : Prop := ∃ i, i ∈ s.sys.lost ∧ BitVec.getLsbD (s.bnd b).mask i = true
    Canon s ∧ Alive s ∧ n < 16 ∧ s.ruleState (n, m) = 2 ∧ rl.ownCount ≠ 0 ∧ mine ≠ [] ∧ member.toNat < rl.gsize ∧
    (¬(member.toNat, chunk.toNat) ∈ x.got) ∧
    (List.find? (fun c => decide ((s.rule c m).gindex = member.toNat)) (s.members b m rl.group) = none) ∧ rl.bound = 0 ∧
    chunk.toNat = x.committed ∧ chunk.toNat < rl.chunks d ∧ (¬full chunk.toNat) ∧ (chunk.toNat < x.committed ∨ ¬lost) ∧
    (s.bnd b).queue = []) ∧
    (let s : State := W34.gw3
    let core : BitVec 10 := 0
    let matrix : BitVec 8 := 0
    let member : BitVec 10 := 0
    let chunk : BitVec 18 := 0
    let n : Nat := core.toNat
    let m : Nat := matrix.toNat
    let rl : RuleDesc := s.rule n m
    let d : MatDesc := s.mat n m
    let x : Reduction := s.red n m
    let mine : List Nat := chunkOf d.nrows (s.memRows n m member.toNat) chunk.toNat
    let full : Nat → Prop := fun k => ∀ (g : Nat), g < rl.gsize → ∀ (r : Nat), r ∈ rl.rowsOf d k → (g, r / s.memRows n m g) ∈ x.got
    Canon s ∧ Alive s ∧ n < 16 ∧ s.ruleState (n, m) = 2 ∧ rl.ownCount ≠ 0 ∧ mine ≠ [] ∧ member.toNat < rl.gsize ∧
    (member.toNat, chunk.toNat) ∈ x.got ∧ rl.bound = 0 ∧ chunk.toNat = x.committed ∧ chunk.toNat < rl.chunks d ∧ full chunk.toNat ∧
    x.computed ≤ chunk.toNat ∧ x.sent ≤ chunk.toNat ∧ s.fab.circuits = []) ∧
    (let s : State := W34.gw4
    let core : BitVec 10 := 0
    let matrix : BitVec 8 := 0
    let chunk : BitVec 18 := 0
    let n : Nat := core.toNat
    let m : Nat := matrix.toNat
    let rl : RuleDesc := s.rule n m
    let x : Reduction := s.red n m
    Canon s ∧ Alive s ∧ n < 16 ∧ s.ruleState (n, m) = 2 ∧ rl.ownCount ≠ 0 ∧ chunk.toNat ≠ x.committed) ∧
    (let s : State := gk
    let core : BitVec 10 := 0
    let matrix : BitVec 8 := 0
    let chunk : BitVec 18 := 0
    let n : Nat := core.toNat
    let m : Nat := matrix.toNat
    let rl : RuleDesc := s.rule n m
    let d : MatDesc := s.mat n m
    let x : Reduction := s.red n m
    let full : Nat → Prop := fun k => ∀ (g : Nat), g < rl.gsize → ∀ (r : Nat), r ∈ rl.rowsOf d k → (g, r / s.memRows n m g) ∈ x.got
    Canon s ∧ Alive s ∧ n < 16 ∧ s.ruleState (n, m) = 2 ∧ rl.ownCount ≠ 0 ∧ rl.bound = 0 ∧ chunk.toNat = x.committed ∧
    chunk.toNat < rl.chunks d ∧ full chunk.toNat ∧ chunk.toNat < x.computed ∧ chunk.toNat < x.sent ∧
    s.rowsUnacked n m chunk.toNat = false) ∧
    (let s : State := gku
    let core : BitVec 10 := 0
    let matrix : BitVec 8 := 0
    let chunk : BitVec 18 := 0
    let n : Nat := core.toNat
    let m : Nat := matrix.toNat
    let rl : RuleDesc := s.rule n m
    let d : MatDesc := s.mat n m
    let x : Reduction := s.red n m
    let full : Nat → Prop := fun k => ∀ (g : Nat), g < rl.gsize → ∀ (r : Nat), r ∈ rl.rowsOf d k → (g, r / s.memRows n m g) ∈ x.got
    Canon s ∧ Alive s ∧ n < 16 ∧ s.ruleState (n, m) = 2 ∧ rl.ownCount ≠ 0 ∧ rl.bound = 0 ∧ chunk.toNat = x.committed ∧
    chunk.toNat < rl.chunks d ∧ full chunk.toNat ∧ chunk.toNat < x.computed ∧ chunk.toNat < x.sent ∧
    s.rowsUnacked n m chunk.toNat = true) := by
  refine ⟨?_, ?_, ?_, ?_, ?_⟩ <;> (dsimp only; decide +kernel)

theorem test_meets_DelaysMove :
    (let s : State := W34.dv1
    let b : BitVec 6 := 3
    let matrix : BitVec 8 := 5
    let group : BitVec 8 := 0
    let due : BitVec 48 := 0
    let m : Nat := matrix.toNat
    let x : Binding := s.bnd b.toNat
    let ms : List Nat := s.members b.toNat m group.toNat
    Canon s ∧ Alive s ∧ x.valid = true ∧ ms = [] ∧ x.running = false ∧ x.votes = [] ∧ due.toNat ≤ x.step.toNat) ∧
    (let s : State := (run3 W34.dv1)
    let b : BitVec 6 := 3
    let matrix : BitVec 8 := 5
    let group : BitVec 8 := 0
    let m : Nat := matrix.toNat
    let x : Binding := s.bnd b.toNat
    let ms : List Nat := s.members b.toNat m group.toNat
    Canon s ∧ Alive s ∧ x.valid = true ∧ ms = [] ∧ x.running = true) ∧
    (let s : State := tl2
    let b : BitVec 6 := 3
    let target : BitVec 10 := 0
    let matrix : BitVec 8 := 0
    let group : BitVec 8 := 0
    let n : Nat := 0
    let m : Nat := matrix.toNat
    let x : Binding := s.bnd b.toNat
    let rl : RuleDesc := s.rule n m
    let ms : List Nat := s.members b.toNat m group.toNat
    Canon s ∧ Alive s ∧ x.valid = true ∧ ms = [n] ∧ rl.taccHome = true ∧ rl.dlearn = true ∧
    (∀ (d : Nat), d < 64 → BitVec.getLsbD x.mask d = true → d = s.sys.myDev.toNat) ∧ s.ruleState (n, m) = 2 ∧
    target.toNat = s.sysOf n ∧ x.running = true ∧ (¬target.toNat ∈ (s.red n m).voted)) ∧
    (let s : State := lf1
    let b : BitVec 6 := 3
    let target : BitVec 10 := 0
    let matrix : BitVec 8 := 0
    let group : BitVec 8 := 0
    let n : Nat := 0
    let m : Nat := matrix.toNat
    let x : Binding := s.bnd b.toNat
    let ms : List Nat := s.members b.toNat m group.toNat
    Canon s ∧ Alive s ∧ x.valid = true ∧ ms = [n] ∧ target.toNat ∈ (s.red n m).voted) := by
  refine ⟨?_, ?_, ?_, ?_⟩ <;> (dsimp only; decide +kernel)

end W50

/-! ## Group 51 -/

namespace W51

def by' (k v : Nat) (s : State) : State := {s with syn := {s.syn with owner := [(k, some 3)], buoys := if v = 0 then [] else [(k, BitVec.ofNat 31 v)]}}
def two : State := {cc with sys := rdy.sys}
def rq (k : BitVec 3) (n : BitVec 16) : BuoyReq := ⟨k, 1, 5, 77, 65471, n, true, 9, 0, 0, 0x1122334455667788, 3⟩
def wt (take eq : Bool) (v : Word) : WaitE := ⟨1, 9, 4, 65471, take, eq, v, none, 0, 3⟩
def t1 : State := by' 65471 7 two
def t4 : State := {t1 with syn := {t1.syn with waits := [wt false true 12]}}
def wa : WatchE := ⟨3, 3, 0, 5, 65471, true, 9, 0, 0x1122334455667788, some 600, none, false, 0⟩
def y (sy : SyncUnit → SyncUnit) (os : List Outst) (p : List Held) : State := let s := by' 65471 7 two; {s with syn := sy s.syn, ptb := p, cmd := {s.cmd with streams := [(5, { Stream.empty with bound := true, binding := 3, cseq := 78, outst := os })]}}
def qq (f : Queue → Queue) (g : Writer → Writer) (s : State) : State :=
  let s := (s.rset (Reg.mqQCfg0 4095) 0x00800000).rset (Reg.mqQCfg1 4095) 0x00050500
  {s with syn := {s.syn with queues := [(4095, f {Queue.empty with bound := true, binding := 3})], writers := let w := g Writer.empty; if w = Writer.empty then [] else [(4095, w)]}}
def u4 : State := qq (fun x => {x with state := 1, gen := 8}) id two
def ms (st : BitVec 2) : State := let s := qq (fun x => {x with state := st, gen := 8, tail := 31, fill := 4}) (fun w => {w with isOpen := true, sent := [⟨some (hq 1, 77), 8, 31, [msgHeader 1 7, 9]⟩]}) two
  {s with cmd := {s.cmd with streams := [(5, { Stream.empty with bound := true, binding := 3, cseq := 78, outst := [⟨77, 0x50, hq 2, 0, 0⟩] })]}}
def m1 : State := ms 2
def full : State := t1.setCor 0 {t1.cor 0 with msgs := List.replicate 4096 [1,2,3,4]}
def wsent : WatchE := {wa with num := 9, sent := true, beacon := some (0, 9)}
def tw : State := {t1 with syn := {t1.syn with watches := [wsent]}}
def yh : State := y (fun x => {x with sigs := [{target := 0, req := {rq 0 4 with dev := 1, owner := 3}, markers := 0}]}) [] []
def j3 : State := {two with cmd := {two.cmd with bindings := [(3, {B with mask := 3})]}}
def m3 : State := {m1 with syn := {m1.syn with writers := [(1 * 4096 + 4095, {Writer.empty with isOpen := true, sent := [⟨some (hq 1, 77), 8, 31, [msgHeader 1 7, 9]⟩]})]}}
def lf1 : State := {u4 with cmd := {u4.cmd with streams := []}}

theorem test_meets_BuoyRequests :
    (let s : State := W35.t6
    let r : BuoyReq := (W35.rq 1 5)
    let o : Outst := W35.ost
    let n : Nat := 0
    let k : Nat := r.buoy.toNat
    Canon s ∧ Alive s ∧ r.dev ≠ s.sys.myDev ∧ r.kind ≠ 7 ∧ s.buoyOwner k ≠ some r.owner ∧ s.ptbBuoy = false ∧
    (List.find? (fun y => decide (y.cseq = r.cseq)) (s.strm r.stream.toNat).outst = some o) ∧ s.localOf r.core.toNat = some n ∧
    (s.cor n).bound = true ∧ (s.cor n).binding = r.owner ∧ s.sysPresent r.core.toNat = true ∧ s.ltn.power = Power.run ∧ r.kind ≠ 5 ∧
    r.kind ≠ 6 ∧ (s.cor n).msgs.length < 4096) ∧
    (let s : State := W35.t1
    let r : BuoyReq := (W35.rq 0 5)
    let k : Nat := r.buoy.toNat
    let x : Nat := (s.buoy k).toNat
    let quiet : Prop := (∀ (e : WaitE), e ∈ s.syn.waits → e.buoy ≠ r.buoy) ∧ ∀ (e : WatchE), e ∈ s.syn.watches → e.buoy ≠ r.buoy
    Canon s ∧ Alive s ∧ r.dev ≠ s.sys.myDev ∧ s.buoyOwner k = some r.owner ∧ s.ptbBuoy = false ∧ quiet ∧ r.kind = 0 ∧
    x + r.n.toNat < 2 ^ 31) ∧
    (let s : State := W35.t2
    let r : BuoyReq := (W35.rq 0 5)
    let k : Nat := r.buoy.toNat
    let x : Nat := (s.buoy k).toNat
    let quiet : Prop := (∀ (e : WaitE), e ∈ s.syn.waits → e.buoy ≠ r.buoy) ∧ ∀ (e : WatchE), e ∈ s.syn.watches → e.buoy ≠ r.buoy
    Canon s ∧ Alive s ∧ r.dev ≠ s.sys.myDev ∧ s.buoyOwner k = some r.owner ∧ s.ptbBuoy = false ∧ quiet ∧ r.kind = 0 ∧
    2 ^ 31 ≤ x + r.n.toNat) ∧
    (let s : State := W35.t1
    let r : BuoyReq := (W35.rq 1 7)
    let k : Nat := r.buoy.toNat
    let x : Nat := (s.buoy k).toNat
    let quiet : Prop := (∀ (e : WaitE), e ∈ s.syn.waits → e.buoy ≠ r.buoy) ∧ ∀ (e : WatchE), e ∈ s.syn.watches → e.buoy ≠ r.buoy
    Canon s ∧ Alive s ∧ r.dev ≠ s.sys.myDev ∧ s.buoyOwner k = some r.owner ∧ s.ptbBuoy = false ∧ quiet ∧ r.kind = 1 ∧ r.n.toNat ≤ x) ∧
    (let s : State := W35.t3
    let r : BuoyReq := (W35.rq 2 7)
    let k : Nat := r.buoy.toNat
    let x : Nat := (s.buoy k).toNat
    Canon s ∧ Alive s ∧ r.dev ≠ s.sys.myDev ∧ s.buoyOwner k = some r.owner ∧ s.ptbBuoy = false ∧ r.kind = 2 ∧ x = 0) ∧
    (let s : State := W35.t4
    let r : BuoyReq := (W35.rq 0 5)
    let w : WaitE := (W35.wt false true 12)
    let k : Nat := r.buoy.toNat
    let x : Nat := (s.buoy k).toNat
    Canon s ∧ Alive s ∧ r.dev ≠ s.sys.myDev ∧ s.buoyOwner k = some r.owner ∧ s.ptbBuoy = false ∧ s.syn.waits = [w] ∧ w.buoy = r.buoy ∧
    w.dev ≠ s.sys.myDev ∧ (∀ (e : WatchE), e ∈ s.syn.watches → e.buoy ≠ r.buoy) ∧ r.kind = 0 ∧ x + r.n.toNat < 2 ^ 31 ∧
    w.take = false ∧ if w.eq = true then x + r.n.toNat = BitVec.toNat w.value else BitVec.toNat w.value ≤ x + r.n.toNat) ∧
    (let s : State := W35.t5
    let r : BuoyReq := (W35.rq 0 5)
    let w : WaitE := (W35.wt true true 12)
    let k : Nat := r.buoy.toNat
    let x : Nat := (s.buoy k).toNat
    Canon s ∧ Alive s ∧ r.dev ≠ s.sys.myDev ∧ s.buoyOwner k = some r.owner ∧ s.ptbBuoy = false ∧ s.syn.waits = [w] ∧ w.buoy = r.buoy ∧
    w.dev ≠ s.sys.myDev ∧ (∀ (e : WatchE), e ∈ s.syn.watches → e.buoy ≠ r.buoy) ∧ r.kind = 0 ∧ x + r.n.toNat < 2 ^ 31 ∧ w.take = true ∧
    0 < x + r.n.toNat) ∧
    (let s : State := t4
    let r : BuoyReq := {rq 7 5 with stream := 9}
    Canon s ∧ Alive s ∧ r.dev ≠ s.sys.myDev ∧ r.kind = 7) ∧
    (let s : State := full
    let r : BuoyReq := {rq 3 5 with core := 0}
    let n : Nat := 0
    Canon s ∧ Alive s ∧ s.localOf r.core.toNat = some n ∧ (s.cor n).bound = true ∧ (s.cor n).binding = r.owner ∧
    s.sysPresent r.core.toNat = true ∧ s.ltn.power = Power.run ∧ r.kind ≠ 5 ∧ r.kind ≠ 6 ∧ 4096 ≤ (s.cor n).msgs.length) ∧
    (let s : State := t1
    let r : BuoyReq := {rq 5 5 with core := 0}
    let n : Nat := 0
    Canon s ∧ Alive s ∧ s.localOf r.core.toNat = some n ∧ s.ltn.power = Power.run ∧ r.kind = 5 ∧ (s.cor n).msgs.length < 4096) ∧
    (let s : State := tw
    let r : BuoyReq := {rq 6 5 with value := 9}
    let t : WatchE := { num := 9, binding := 0x03#6, dev := 0x00#6, stream := 0x05#8, buoy := 0xffbf#16, eq := true, value := 0x00000009#32, core := 0x000#10, cookie := 0x1122334455667788#64, expiry := some 600, beacon := some (0x00#8, 0x00000009#32), sent := true, reg := 0 }
    Canon s ∧ Alive s ∧ r.kind = 6 ∧ s.syn.watches = [t] ∧ t.num = BitVec.toNat r.value ∧ t.sent = true) := by
  refine ⟨?_, ?_, ?_, ?_, ?_, ?_, ?_, ?_, ?_, ?_, ?_⟩ <;> (dsimp only; decide +kernel)

theorem test_meets_SyncEvents :
    (let s : State := W35.y4
    let stream : BitVec 8 := 5
    let cseq : Word64 := 77
    let x : SigWait := (W35.sg 1 0)
    let w : WaitE := W35.ow
    let t : WatchE := W35.wa
    let num : BitVec 14 := 3
    let n : Nat := 0
    let o : Outst := W35.ost
    let oo : Out := (.accept 1 2)
    let k : BitVec 2 := 2
    let i : Nat := 7
    let mine : SigWait → Bool := fun y => decide (y.req.dev = s.sys.myDev) && decide (y.req.stream = stream) && decide (y.req.cseq = cseq) && decide (0 < y.markers)
    let now : Nat := max (w.expiry.getD 0) (BitVec.toNat s.tmr.tb)
    let here : Prop := s.sysPresent t.core.toNat = true ∧ s.localOf t.core.toNat = some n ∧ (s.cor n).bound = true ∧ (s.cor n).binding = t.binding ∧ s.ltn.power = Power.run
    Canon s ∧ Alive s ∧ List.find? mine s.syn.sigs = some x ∧ s.writesLeft x = false ∧ x.markers = 1 ∧ x.target = s.sys.myDev ∧
    s.ptbBuoy = true ∧
    (List.find? (fun y => decide (y.dev = w.dev) && decide (y.stream = w.stream) && y.expiry.isSome) s.syn.waits = some w) ∧
    now < 2 ^ 64 ∧ w.dev = s.sys.myDev ∧ (List.find? (fun y => decide (y.cseq = w.cseq)) (s.strm w.stream.toNat).outst = some o) ∧
    (List.find? (fun y => decide (y.num = num.toNat) && y.expiry.isSome && decide (y.beacon = none)) s.syn.watches = some t) ∧ here ∧
    (s.cor n).msgs.length < 4096 ∧ (List.find? (fun y => decide (y.kind = 0)) s.ptb = some (Held.out oo)) ∧
    (List.find? (fun y => decide (y.kind = 2)) s.ptb = some (Held.refresh k i)) ∧
    (List.find? (fun y => decide (y.markers = 0)) s.syn.sigs = none)) ∧
    (let s : State := W35.y5
    let stream : BitVec 8 := 5
    let cseq : Word64 := 77
    let t : WatchE := W35.wb
    let num : BitVec 14 := 3
    let n : Nat := 0
    let st : Byte := 0
    let v : Word := 9
    let mine : SigWait → Bool := fun y => decide (y.req.dev = s.sys.myDev) && decide (y.req.stream = stream) && decide (y.req.cseq = cseq) && decide (0 < y.markers)
    let here : Prop := s.sysPresent t.core.toNat = true ∧ s.localOf t.core.toNat = some n ∧ (s.cor n).bound = true ∧ (s.cor n).binding = t.binding ∧ s.ltn.power = Power.run
    Canon s ∧ Alive s ∧ List.find? mine s.syn.sigs = none ∧ (List.find? (fun y => decide (y.num = num.toNat)) s.syn.watches = some t) ∧
    t.beacon = some (st, v) ∧ t.sent = false ∧ here) ∧
    (let s : State := W35.y1
    let stream : BitVec 8 := 5
    let cseq : Word64 := 77
    let x : SigWait := (W35.sg 2 1)
    let mine : SigWait → Bool := fun y => decide (y.req.dev = s.sys.myDev) && decide (y.req.stream = stream) && decide (y.req.cseq = cseq) && decide (0 < y.markers)
    Canon s ∧ Alive s ∧ List.find? mine s.syn.sigs = some x ∧ s.writesLeft x = true) ∧
    (let s : State := W35.y2
    let stream : BitVec 8 := 5
    let cseq : Word64 := 77
    let x : SigWait := (W35.sg 2 1)
    let mine : SigWait → Bool := fun y => decide (y.req.dev = s.sys.myDev) && decide (y.req.stream = stream) && decide (y.req.cseq = cseq) && decide (0 < y.markers)
    Canon s ∧ Alive s ∧ List.find? mine s.syn.sigs = some x ∧ s.writesLeft x = false ∧ 2 ≤ x.markers) ∧
    (let s : State := W35.y3
    let stream : BitVec 8 := 5
    let cseq : Word64 := 77
    let x : SigWait := (W35.sg 1 1)
    let mine : SigWait → Bool := fun y => decide (y.req.dev = s.sys.myDev) && decide (y.req.stream = stream) && decide (y.req.cseq = cseq) && decide (0 < y.markers)
    Canon s ∧ Alive s ∧ List.find? mine s.syn.sigs = some x ∧ s.writesLeft x = false ∧ x.markers = 1 ∧ x.target ≠ s.sys.myDev) ∧
    (let s : State := yh
    let x : SigWait := {target := 0, req := {rq 0 4 with dev := 1, owner := 3}, markers := 0}
    Canon s ∧ Alive s ∧ (List.find? (fun y => decide (y.markers = 0)) s.syn.sigs = some x) ∧ x.req.kind = 0 ∧ x.req.dev ≠ s.sys.myDev ∧
    s.buoyOwner x.req.buoy.toNat = some x.req.owner ∧ (∀ (e : WaitE), e ∈ s.syn.waits → e.buoy ≠ x.req.buoy) ∧
    (∀ (e : WatchE), e ∈ s.syn.watches → e.buoy ≠ x.req.buoy) ∧ (s.buoy x.req.buoy.toNat).toNat + x.req.n.toNat < 2 ^ 31) := by
  refine ⟨?_, ?_, ?_, ?_, ?_, ?_⟩ <;> (dsimp only; decide +kernel)

theorem test_meets_JoinsAreAnswered :
    (let s : State := W35.j1
    let b : BitVec 6 := 3
    let dev : BitVec 6 := 1
    let mask : Word64 := 3
    let k : Nat := b.toNat
    let x : Binding := s.bnd k
    Canon s ∧ Alive s ∧ dev ≠ s.sys.myDev ∧ x.valid = false ∧ (¬(dev, mask) ∈ x.joinsHeld)) ∧
    (let s : State := W35.j2
    let b : BitVec 6 := 3
    let dev : BitVec 6 := 0
    let h : Hdr := (hq 2)
    let cseq : Word64 := 77
    let k : Nat := b.toNat
    let x : Binding := s.bnd k
    Canon s ∧ Alive s ∧ dev = s.sys.myDev ∧ x.joinWait = some (h, cseq) ∧ x.joinsHeld = []) ∧
    (let s : State := j3
    let b : BitVec 6 := 3
    let dev : BitVec 6 := 1
    let mask : Word64 := 3
    let k : Nat := b.toNat
    let x : Binding := s.bnd k
    Canon s ∧ Alive s ∧ dev ≠ s.sys.myDev ∧ x.valid = true ∧ x.mask = mask ∧ BitVec.getLsbD mask dev.toNat = true ∧ s.isLead k = true) ∧
    (let s : State := j3
    let b : BitVec 6 := 3
    let dev : BitVec 6 := 1
    let mask : Word64 := 7
    let k : Nat := b.toNat
    let x : Binding := s.bnd k
    Canon s ∧ Alive s ∧ dev ≠ s.sys.myDev ∧ x.valid = true ∧ x.mask ≠ mask) := by
  refine ⟨?_, ?_, ?_, ?_⟩ <;> (dsimp only; decide +kernel)

theorem test_meets_QueueEvents :
    (let s : State := W35.u7
    let q : BitVec 12 := 4095
    let dev : BitVec 6 := 1
    let b : BitVec 6 := 3
    let st : BitVec 8 := 5
    let gen : Word64 := 8
    let r : RecvE := W35.rcv
    let k : Nat := q.toNat
    let d : Nat := dev.toNat
    let w : Writer := s.writer d k
    let me : Nat := s.sys.myDev.toNat
    let t : Nat := 900
    Canon s ∧ Alive s ∧ s.openOk k = false ∧ d ≠ me ∧ (s.strm st.toNat).bound = true ∧ (s.strm st.toNat).binding = b ∧
    w.isOpen = true ∧ w.gen = gen ∧ (s.strm w.stream.toNat).held = [] ∧
    (List.find? (fun e => decide (e.hdr.stream = st)) s.syn.recvs = some r) ∧ r.expiry = some t ∧ max t (BitVec.toNat s.tmr.tb) < 2 ^ 64) ∧
    (let s : State := W35.u4
    let q : BitVec 12 := 4095
    let dev : BitVec 6 := 0
    let gen : Word64 := 8
    let k : Nat := q.toNat
    let x : Queue := s.queueAt k
    let d : Nat := dev.toNat
    let w : Writer := s.writer d k
    let me : Nat := s.sys.myDev.toNat
    let ws : Nat := s.qWstream k
    let ok : Prop := (s.strm ws).bound = true ∧ (s.strm ws).binding = x.binding
    Canon s ∧ Alive s ∧ s.openOk k = true ∧ x.state ≠ 0 ∧ s.qWdev k = me ∧ (s.writer me k).isOpen = false ∧
    (∀ (e : RecvE), e ∈ s.syn.recvs → e.queue ≠ q) ∧ x.fill = 0 ∧ x.early = [] ∧ d = me ∧ x.state = 1 ∧ x.gen = gen ∧ s.qWdev k = d ∧
    ok ∧ w.gen ≠ gen) ∧
    (let s : State := W35.u6
    let q : BitVec 12 := 4095
    let gen : Word64 := 8
    let k : Nat := q.toNat
    let x : Queue := s.queueAt k
    let me : Nat := s.sys.myDev.toNat
    Canon s ∧ Alive s ∧ s.qWdev k ≠ me ∧ x.state = 1 ∧ x.gen = gen) ∧
    (let s : State := lf1
    let q : BitVec 12 := 4095
    let dev : BitVec 6 := 0
    let gen : Word64 := 8
    let k : Nat := q.toNat
    let x : Queue := s.queueAt k
    let d : Nat := dev.toNat
    let me : Nat := s.sys.myDev.toNat
    let ws : Nat := s.qWstream k
    let ok : Prop := (s.strm ws).bound = true ∧ (s.strm ws).binding = x.binding
    Canon s ∧ Alive s ∧ d = me ∧ x.state = 1 ∧ x.gen = gen ∧ s.qWdev k = d ∧ (¬ok)) := by
  refine ⟨?_, ?_, ?_, ?_⟩ <;> (dsimp only; decide +kernel)

theorem test_meets_MessagesArrive :
    (let s : State := W35.m1
    let src : BitVec 6 := 1
    let q : BitVec 12 := 4095
    let gen : Word64 := 8
    let off : BitVec 17 := 31
    let words : List Word64 := [msgHeader 1 7, 9]
    let h : Hdr := (hq 1)
    let c : Word64 := 77
    let k : Nat := q.toNat
    let x : Queue := s.queueAt k
    let me : Nat := s.sys.myDev.toNat
    let w : Writer := s.writer me k
    let m : SentMsg := { cmd := some (h, c), gen := gen, offset := off.toNat, words := words }
    let fits : Prop := x.state = 2 ∧ x.gen = gen ∧ x.tail = off.toNat ∧ x.early = [] ∧ s.qNotify k = false ∧ ∀ (r : RecvE), r ∈ s.syn.recvs → r.queue ≠ q
    Canon s ∧ Alive s ∧ hdrKind (words.headD 0) = 1 ∧ src ≠ s.sys.myDev ∧ fits ∧ w.sent = [m] ∧ s.isOut h c = true) ∧
    (let s : State := W35.m2
    let q : BitVec 12 := 4095
    let gen : Word64 := 8
    let off : BitVec 17 := 31
    let words : List Word64 := [msgHeader 1 7, 9]
    let h : Hdr := (hq 1)
    let c : Word64 := 77
    let k : Nat := q.toNat
    let x : Queue := s.queueAt k
    let me : Nat := s.sys.myDev.toNat
    let w : Writer := s.writer me k
    let m : SentMsg := { cmd := some (h, c), gen := gen, offset := off.toNat, words := words }
    Canon s ∧ Alive s ∧ hdrKind (words.headD 0) = 1 ∧ w.sent = [m] ∧ s.isOut h c = true ∧ (x.state ≠ 2 ∨ x.gen ≠ gen)) ∧
    (let s : State := m3
    let src : BitVec 6 := 1
    let q : BitVec 12 := 4095
    let gen : Word64 := 8
    let off : BitVec 17 := 31
    let words : List Word64 := [msgHeader 1 7, 9]
    let h : Hdr := (hq 1)
    let c : Word64 := 77
    let k : Nat := q.toNat
    let m : SentMsg := { cmd := some (h, c), gen := gen, offset := off.toNat, words := words }
    Canon s ∧ Alive s ∧ hdrKind (words.headD 0) = 1 ∧ src ≠ s.sys.myDev ∧ (s.writer src.toNat k).sent = [m] ∧ s.isOut h c = true) := by
  refine ⟨?_, ?_, ?_⟩ <;> (dsimp only; decide +kernel)

end W51

/-! ## Group 52 -/

namespace W52

def chE (w0 w1 w2 : Word) : Chan := Chan.ofBytes 3 false ([w0, w1, w2, 0, 0x3C000000, 0x00010000, 0, 9, 0x01000000, 0,0,0,0,0,0,1].flatMap (fun w => leBytes 4 w.toNat))
def se (w0 w1 w2 : Word) (i : Inst → Inst) (s : State) : State := {s with cmd := {s.cmd with banks := [(0, some 3), (1, some 3), (2, some 3), (3, some 3)] ++ s.cmd.banks, ctxs := [(0, {ctx0 with cidx := 0, cnvFirst := 4095, cnvCount := 1, cstep := 6})]}, cnv := {s.cnv with chans := [(4095, chE w0 w1 w2)], insts := let x := i Inst.empty; if x = Inst.empty then [] else [(4095*2^18, x)]}}
def px : Nat × Ctx := (0, {ctx0 with cidx := 0, cnvFirst := 4095, cnvCount := 1, cstep := 6})
def es (w0 w1 w2 : Word) (i : Inst → Inst) : State := {run3 (se w0 w1 w2 i cm) with core := (cc.setCor 0 {cc.cor 0 with phase := .idle}).core}
def dcD : List Word := [0xC0300000, 0x00001004, 0, 0, 0, 1, 0, 7, 5, 0xFF0003,0,0,0,0,0,2]
def dch : Chan := Chan.ofBytes 3 false (dcD.flatMap (fun w => leBytes 4 w.toNat))
def px2 : Nat × Ctx := (1, {px.2 with cidx := 1})
def dd : State := {run3 cc with cmd := {(run3 cc).cmd with banks := [(0, some 3), (1, some 3), (2, some 3), (3, some 3)] ++ cc.cmd.banks, ctxs := [px, px2]}, cnv := {cc.cnv with chans := [(4095, dch)], insts := [(4095*2^18, {Inst.empty with due := some 5, hist := [[1],[2],[3]]}), (4095*2^18+1, {Inst.empty with due := some 5})], taps := [⟨4095, 0, 3, 2⟩,⟨4095, 0, 3, 2⟩]}}
def af : State := let s := dd.rset (Reg.cnvActCfg 0) 0x83000064; {s with cnv := {s.cnv with chans := [(4095, Chan.ofBytes 3 false ((dcD.set 9 3).flatMap (fun w => leBytes 4 w.toNat)))]}}
def Z20 : State := (es 0x88300000 0x00002004 0x00020000 (fun x => {x with lastU := [65535, 3, 4, 5]}))
def gcl (s : State) : State := (s.rset (Reg.ethGclLen 0) 1).rset (Reg.ethGclGate 0) 0xFF
def Z21 : State := gcl af

theorem test_meets_EncodeOnceAStep :
    (let s : State := W24.Z7
    let ch : BitVec 12 := 4095
    let k : BitVec 18 := 0
    let p : Nat × Ctx := W24.px
    let c : Chan := s.chan ch.toNat
    let x : Inst := s.inst ch.toNat k.toNat
    let row : Option (Nat × BitVec 48 × BitVec 8 × List Byte) := List.find? (fun e => decide (e.snd.fst = p.snd.cstep)) x.slots
    let due : Prop := c.kind ≠ 2 ∨ p.snd.cstep.toNat % c.win = 0
    Canon s ∧ Alive s ∧ s.ctxByIdx c.binding.toNat k.toNat = some p ∧ p.snd.cidx = k ∧ s.mayEncode ch.toNat p = true ∧
    s.chanHome ch.toNat = true ∧ s.instBad ch.toNat k.toNat = false ∧ x.left = [] ∧ due ∧ row = none ∧ c.hold = false ∧ x.waiting = true) ∧
    (let s : State := W24.Z6
    let ch : BitVec 12 := 4095
    let k : BitVec 18 := 0
    let p : Nat × Ctx := W24.px
    let c : Chan := s.chan ch.toNat
    let x : Inst := s.inst ch.toNat k.toNat
    let row : Option (Nat × BitVec 48 × BitVec 8 × List Byte) := List.find? (fun e => decide (e.snd.fst = p.snd.cstep)) x.slots
    let due : Prop := c.kind ≠ 2 ∨ p.snd.cstep.toNat % c.win = 0
    let e : Nat × BitVec 48 × BitVec 8 × List Byte := (2, 0x000000000006#48, 0x00#8, [0x01#8, 0x02#8, 0x03#8, 0x04#8, 0x00#8, 0x00#8, 0x00#8, 0x00#8, 0x00#8, 0x00#8, 0x00#8, 0x00#8, 0x00#8, 0x00#8, 0x00#8, 0x00#8])
    Canon s ∧ Alive s ∧ s.ctxByIdx c.binding.toNat k.toNat = some p ∧ p.snd.cidx = k ∧ s.mayEncode ch.toNat p = true ∧
    s.chanHome ch.toNat = true ∧ s.instBad ch.toNat k.toNat = false ∧ x.left = [] ∧ due ∧ row = some e) ∧
    (let s : State := W24.Z8
    let ch : BitVec 12 := 4095
    let k : BitVec 18 := 0
    let p : Nat × Ctx := W24.px
    let c : Chan := s.chan ch.toNat
    let x : Inst := s.inst ch.toNat k.toNat
    let row : Option (Nat × BitVec 48 × BitVec 8 × List Byte) := List.find? (fun e => decide (e.snd.fst = p.snd.cstep)) x.slots
    let due : Prop := c.kind ≠ 2 ∨ p.snd.cstep.toNat % c.win = 0
    Canon s ∧ Alive s ∧ s.ctxByIdx c.binding.toNat k.toNat = some p ∧ p.snd.cidx = k ∧ s.mayEncode ch.toNat p = true ∧
    s.chanHome ch.toNat = true ∧ s.instBad ch.toNat k.toNat = false ∧ x.left = [] ∧ due ∧ row = none ∧ c.hold = true) ∧
    (let s : State := Z20
    let ch : BitVec 12 := 4095
    let k : BitVec 18 := 0
    let p : Nat × Ctx := px
    let c : Chan := s.chan ch.toNat
    let x : Inst := s.inst ch.toNat k.toNat
    let due : Prop := c.kind ≠ 2 ∨ p.snd.cstep.toNat % c.win = 0
    Canon s ∧ Alive s ∧ s.ctxByIdx c.binding.toNat k.toNat = some p ∧ p.snd.cidx = k ∧ s.mayEncode ch.toNat p = true ∧
    s.chanHome ch.toNat = true ∧ s.instBad ch.toNat k.toNat = false ∧ x.left = [] ∧ (¬due)) := by
  refine ⟨?_, ?_, ?_, ?_⟩ <;> (dsimp only; decide +kernel)

theorem test_meets_ActFrames :
    (let s : State := W24.Z15
    let f : BitVec 8 := 255
    let v : BitVec 18 × List (BitVec 12) × List (List ActVal) := W24.v0
    let cfg : Word := s.rget (Reg.cnvActCfg f.toNat)
    let port : Nat := fieldOf cfg 30 1
    let x : ActFrame := s.act f.toNat
    Canon s ∧ Alive s ∧ s.awake = true ∧ x.frame = some v ∧ s.rbit (Reg.ethPortStat port) 31 = true ∧
    (s.rbit (Reg.ethPortCfg port) 31 = true → s.portSas port 0 ≠ [])) ∧
    (let s : State := W24.Z16
    let f : BitVec 8 := 255
    let v : BitVec 18 × List (BitVec 12) × List (List ActVal) := W24.v0
    let cfg : Word := s.rget (Reg.cnvActCfg f.toNat)
    let port : Nat := fieldOf cfg 30 1
    let x : ActFrame := s.act f.toNat
    Canon s ∧ Alive s ∧ s.awake = true ∧ x.frame = some v ∧ s.rbit (Reg.ethPortStat port) 31 = false ∧ x.cfgNext = none ∧
    x.leadNext = none) ∧
    (let s : State := Z21
    let f : BitVec 8 := 0
    Canon s ∧ Alive s ∧ s.actPending f.toNat = true) := by
  refine ⟨?_, ?_, ?_⟩ <;> (dsimp only; decide +kernel)

end W52

/-! ## Group 53 -/

namespace W53

def two : State := {cc with sys := rdy.sys}
def pk (v e : Nat) : FabPkt := ⟨4, BitVec.ofNat 2 v, 0, 1, 8, false, 1, BitVec.ofNat 16 e, 0, [], [7], 0, 0, 0, false, 0, 0, false, 0, none⟩
def lk (f : Link → Link) (g : E2E → E2E) : State :=
  let s : State := {two with fab := {two.fab with links := [(1, f {Link.empty with rxSeq := 5, seen := 5})], e2e := let e := g E2E.empty; if e = E2E.empty then [] else [(4, e)]}}
  s.rset (Reg.fabLnkStat 1) 0x48000000
def two1 : State := (lk id id).rset (Reg.fabLnkStat 2) 0x48000000
def fw : FabPkt := { pk 0 0 with dstDev := 1, srcDev := 4, hop := 0, route := [2, 31, 31] }

theorem test_meets_LinkProtocol :
    (let s : State := W37.l2
    let l : BitVec 5 := 1
    let lseq : BitVec 12 := 4
    let hcrc : BitVec 16 := (pktHcrc (W37.pk 0 0))
    let crc : Word := (pktCrc 4 (W37.pk 0 0))
    let p : FabPkt := (W37.pk 0 0)
    let k : Nat := l.toNat
    let x : Link := s.link k
    let quiet : Prop := s.rbit Reg.ptbCtrl 0 = false
    let good : Prop := hcrc = pktHcrc p ∧ crc = pktCrc lseq p
    let c : Instr := Instr.linkNak l lseq
    Canon s ∧ Alive s ∧ k < 18 ∧ s.linkUp k = true ∧ (lseq ≠ x.rxSeq ∨ ¬good) ∧ x.waiting = [] ∧
    (c = Instr.linkNak l lseq ∨ c = Instr.replayTimeout l) ∧ x.unacked ≠ [] ∧ quiet ∧
    (∀ (q : Unacked), q ∈ x.unacked → q.replays < 16) ∧ 0 < x.sinceAck) ∧
    (let s : State := W37.two
    let l : BitVec 5 := 1
    let k : Nat := l.toNat
    Canon s ∧ Alive s ∧ k < 18 ∧ s.linkUp k = false) ∧
    (let s : State := W37.l1
    let l : BitVec 5 := 1
    let lseq : BitVec 12 := 5
    let hcrc : BitVec 16 := (pktHcrc {W37.pk 0 0 with type := 15})
    let crc : Word := (pktCrc 5 {W37.pk 0 0 with type := 15})
    let p : FabPkt := {W37.pk 0 0 with type := 15}
    let k : Nat := l.toNat
    let x : Link := s.link k
    let quiet : Prop := s.rbit Reg.ptbCtrl 0 = false
    let good : Prop := hcrc = pktHcrc p ∧ crc = pktCrc lseq p
    Canon s ∧ Alive s ∧ k < 18 ∧ s.linkUp k = true ∧ lseq = x.rxSeq ∧ good ∧ quiet ∧ x.sinceAck < 31 ∧ s.fab.owed = [] ∧ pktBad p = true) ∧
    (let s : State := W37.l1
    let l : BitVec 5 := 1
    let lseq : BitVec 12 := 5
    let hcrc : BitVec 16 := (pktHcrc (W37.pk 0 0))
    let crc : Word := (pktCrc 5 (W37.pk 0 0))
    let p : FabPkt := (W37.pk 0 0)
    let k : Nat := l.toNat
    let x : Link := s.link k
    let y : E2E := s.e2e p.srcDev p.vc.toNat
    let quiet : Prop := s.rbit Reg.ptbCtrl 0 = false
    let good : Prop := hcrc = pktHcrc p ∧ crc = pktCrc lseq p
    Canon s ∧ Alive s ∧ k < 18 ∧ s.linkUp k = true ∧ lseq = x.rxSeq ∧ good ∧ quiet ∧ x.sinceAck < 31 ∧ s.fab.owed = [] ∧
    pktBad p = false ∧ p.dstDev = s.sys.myDev.toNat ∧ (p.type = 6 → s.isGate = false) ∧ p.type ≠ 2 ∧ p.type ≠ 3 ∧ p.vc = 0 ∧
    p.e2e = y.low ∧ y.got = [] ∧ y.reorder = [] ∧ y.sinceAck < 255 ∧ (∀ (e : Nat × E2E), e ∈ s.fab.e2e → e.snd.reorder = [])) ∧
    (let s : State := W37.l3
    let l : BitVec 5 := 1
    let lseq : BitVec 12 := 4
    let k : Nat := l.toNat
    let x : Link := s.link k
    let c : Instr := Instr.linkNak l lseq
    Canon s ∧ Alive s ∧ k < 18 ∧ s.linkUp k = true ∧ (c = Instr.linkNak l lseq ∨ c = Instr.replayTimeout l) ∧ x.unacked ≠ [] ∧
    (∃ q, q ∈ x.unacked ∧ 16 ≤ q.replays)) ∧
    (let s : State := two1
    let l : BitVec 5 := 1
    let lseq : BitVec 12 := 5
    let hcrc : BitVec 16 := (pktHcrc fw)
    let crc : Word := (pktCrc 5 fw)
    let p : FabPkt := fw
    let k : Nat := l.toNat
    let x : Link := s.link k
    let quiet : Prop := s.rbit Reg.ptbCtrl 0 = false
    let good : Prop := hcrc = pktHcrc p ∧ crc = pktCrc lseq p
    let m : Nat := (p.route.getD p.hop.toNat 31).toNat
    let q : FabPkt := { type := p.type, vc := p.vc, dstDev := p.dstDev, srcDev := p.srcDev, unit := p.unit, ddev := p.ddev, len := p.len, e2e := p.e2e, hop := p.hop + 1, route := p.route, payload := p.payload, dstCore := p.dstCore, srcCore := p.srcCore, srcUnit := p.srcUnit, sdev := p.sdev, delay := p.delay, perType := p.perType, fixed := p.fixed, step := p.step, via := none }
    Canon s ∧ Alive s ∧ k < 18 ∧ s.linkUp k = true ∧ lseq = x.rxSeq ∧ good ∧ quiet ∧ x.sinceAck < 31 ∧ pktBad p = false ∧
    p.dstDev ≠ s.sys.myDev.toNat ∧ p.hop ≠ 3 ∧ m < 18 ∧ s.linkUp m = true ∧ (s.link m).waiting = [] ∧ (s.link m).room q = true) := by
  refine ⟨?_, ?_, ?_, ?_, ?_, ?_⟩ <;> (dsimp only; decide +kernel)

theorem test_meets_RegistersAnswer :
    (let s : State := b3
    let addrs : List Word := [W40b.bv Reg.ltnWkwin, 5]
    let writes : List (Word × Word) := [(W40b.bv Reg.ltnPgtmo, 7), (W40b.bv Reg.ltnPsctrl, 3)]
    let a : Word := (W40b.bv (Reg.ltnWpat 1))
    let v : Word := 0x12345678
    let r : RegRow := (W40b.r1 (Reg.ltnWpat 1))
    let b : BitVec 6 := 3
    let which : BitVec 2 := 0
    let f : BitVec 8 := 0
    let lead : Bool := false
    let mode : BitVec 4 := 5
    let n : Nat := BitVec.toNat a
    let row : Prop := s.assigned n = true ∧ regRow n = some r ∧ ¬(1048576 ≤ n ∧ n < 2097152) ∧ n ≠ Reg.secNonce 0
    let modeOk : Prop := which ≠ 0 ∨ fieldOf v 0 2 ≤ 1
    let mode' : Nat := if which = 0 ∧ modeOk then fieldOf v 0 2 else s.regMode b.toNat
    let len : Nat := if which = 1 then BitVec.toNat v else s.regLen b.toNat
    let period : Nat := if which = 2 then BitVec.toNat v else s.regPeriod b.toNat
    let phase : Nat := if which = 3 then BitVec.toNat v else s.regPhase b.toNat
    let good : Prop := mode' ≤ 1 ∧ 15000 ≤ len ∧ len ≤ 750000000 ∧ 20000 ≤ period ∧ period ≤ 1000000000 ∧ phase < period ∧ (mode' = 1 → len * 4 ≤ period * 3)
    Canon s ∧ Alive s ∧ s.awake = true ∧ Spec.Home s ∧ addrs ≠ [] ∧ addrs.length ≤ 64 ∧ writes ≠ [] ∧ writes.length ≤ 64 ∧ row ∧
    r.cap = false ∧ r.rc = false ∧ 12582912 ≤ n ∧ n < 13631488 ∧ n ≠ Reg.ltnPsctrl ∧ n ≠ Reg.ltnFwakeSend ∧ r.keeper = false ∧
    fieldChecks n = [] ∧ good ∧ f ≠ 255 ∧ lead = false ∧ bitOf v 31 = false ∧ s.actPending f.toNat = false ∧ (mode.toNat ≤ 5 ∨ mode = 7)) ∧
    (let s : State := b3
    let addrs : List Word := []
    let writes : List (Word × Word) := []
    let a : Word := 3
    let v : Word := 9
    let f : BitVec 8 := 255
    let lead : Bool := false
    let mode : BitVec 4 := 6
    let n : Nat := BitVec.toNat a
    let secret : Prop := 15728640 ≤ n ∧ n < 16777216 ∨ 17825792 ≤ n ∧ n < 18874368
    Canon s ∧ Alive s ∧ s.awake = true ∧ Spec.Home s ∧ (addrs = [] ∨ 64 < addrs.length) ∧ (writes = [] ∨ 64 < writes.length) ∧
    s.assigned n = false ∧ (¬secret) ∧
    (f = 255 ∨ s.actOk f.toNat (if lead = true then (s.act f.toNat).cfgNext.getD (s.rget (Reg.cnvActCfg f.toNat)) else v &&& 4278452223) (if lead = true then v &&& 4279238655 else (s.act f.toNat).leadNext.getD (s.rget (Reg.cnvActLead f.toNat))) = false) ∧
    (¬(mode.toNat ≤ 5 ∨ mode = 7))) ∧
    (let s : State := b3
    let a : Word := (W40b.bv 0x10434)
    let r : RegRow := (W40b.r1 0x10434)
    let x : Nat := 1
    let n : Nat := BitVec.toNat a
    let row : Prop := s.assigned n = true ∧ regRow n = some r ∧ ¬(1048576 ≤ n ∧ n < 2097152) ∧ n ≠ Reg.secNonce 0
    Canon s ∧ Alive s ∧ s.awake = true ∧ Spec.Home s ∧ row ∧ r.cap = true ∧ r.rc = false ∧ s.longView n = some x) ∧
    (let s : State := (b3.rset Reg.irqMerged 7)
    let a : Word := (W40b.bv Reg.irqMerged)
    let r : RegRow := (W40b.r1 Reg.irqMerged)
    let n : Nat := BitVec.toNat a
    let row : Prop := s.assigned n = true ∧ regRow n = some r ∧ ¬(1048576 ≤ n ∧ n < 2097152) ∧ n ≠ Reg.secNonce 0
    Canon s ∧ Alive s ∧ s.awake = true ∧ Spec.Home s ∧ row ∧ r.cap = false ∧ r.rc = true) ∧
    (let s : State := b3
    let a : Word := 0xF00004
    let n : Nat := BitVec.toNat a
    let secret : Prop := 15728640 ≤ n ∧ n < 16777216 ∨ 17825792 ≤ n ∧ n < 18874368
    Canon s ∧ Alive s ∧ s.awake = true ∧ Spec.Home s ∧ secret) ∧
    (let s : State := b3
    let v : Word := 14999
    let b : BitVec 6 := 3
    let which : BitVec 2 := 1
    let modeOk : Prop := which ≠ 0 ∨ fieldOf v 0 2 ≤ 1
    let mode' : Nat := if which = 0 ∧ modeOk then fieldOf v 0 2 else s.regMode b.toNat
    let len : Nat := if which = 1 then BitVec.toNat v else s.regLen b.toNat
    let period : Nat := if which = 2 then BitVec.toNat v else s.regPeriod b.toNat
    let phase : Nat := if which = 3 then BitVec.toNat v else s.regPhase b.toNat
    let good : Prop := mode' ≤ 1 ∧ 15000 ≤ len ∧ len ≤ 750000000 ∧ 20000 ≤ period ∧ period ≤ 1000000000 ∧ phase < period ∧ (mode' = 1 → len * 4 ≤ period * 3)
    Canon s ∧ Alive s ∧ s.awake = true ∧ Spec.Home s ∧ (¬good)) := by
  refine ⟨?_, ?_, ?_, ?_, ?_, ?_⟩ <;> (dsimp only; unfold Spec.Home; decide +kernel)

end W53

/-! ## A snapshot whose size has a free part -/

namespace Wsnap

def snapS : State := {cc with cmd := {cc.cmd with windows := [(48, (0x480000000, 0x4000000))]}}

theorem round16_le {a b k m : Nat} (h : a ≤ k) (g : b ≤ m) : round16 (a + b) ≤ k + m + 15 := by
  unfold round16; omega

theorem size_le : snapS.snapSize 3 ≤ 0x3000000 :=
  Nat.le_trans (show snapS.snapSize 3 ≤ 0x1000000 + 2 ^ 24 + 15 from round16_le (by decide +kernel) (Nat.le_of_lt (BitVec.isLt _))) (by decide)

theorem form_le {m : Word64} {n k : Nat} (h : mrSpace m = 1) (g : mrefForm m k = true) (le : n ≤ k) : mrefForm m n = true := by
  unfold mrefForm at *
  simp only [h, if_true, Bool.and_eq_true, decide_eq_true_eq] at *
  omega

theorem owned_le {s : State} {b a n k : Nat} (g : s.hbmOwned b a k = true) (le : n ≤ k) : s.hbmOwned b a n = true := by
  unfold State.hbmOwned at *
  simp only [Bool.or_eq_true, decide_eq_true_eq, List.any_eq_true, Bool.and_eq_true] at *
  rcases g with g | ⟨i, hi, x, y⟩
  · exact .inl (by omega)
  · exact .inr ⟨i, hi, x, by omega⟩

theorem check_le {n : Nat} (le : n ≤ 0x3000000) : snapS.mrefCheck 3 hb n = St.ok := by
  have f : mrefForm hb n = true := form_le (by decide +kernel) (by decide +kernel : mrefForm hb 0x3000000 = true) le
  have o : snapS.hbmOwned 3 (mrHbm hb) n = true := owned_le (by decide +kernel : snapS.hbmOwned 3 (mrHbm hb) 0x3000000 = true) le
  have d : snapS.mrefDev hb = some 0 := by decide +kernel
  have w : snapS.mrefOwned 3 hb n = true := by
    unfold State.mrefOwned
    rw [d]
    have e1 : mrSpace hb = 1 := by decide +kernel
    have e2 : (snapS.bnd 3).mask.getLsbD 0 = true := by decide +kernel
    have e3 : snapS.sys.myDev.toNat = 0 := by decide +kernel
    simp [e1, e2, e3, o]
  unfold State.mrefCheck
  rw [f, w]
  decide

def snapR : State := let s := cmd0 rdy; {s with cmd := {s.cmd with bindings := [(3, {B with mask := 3})]}}
/-- A reference on device 1. -/
def far : Word64 := hb + 0x0040000000000000

theorem far_size_le : snapR.snapSize 3 ≤ 0x3000000 :=
  Nat.le_trans (show snapR.snapSize 3 ≤ 0x1000000 + 2 ^ 24 + 15 from round16_le (by decide +kernel) (Nat.le_of_lt (BitVec.isLt _))) (by decide)

theorem far_check_le {n : Nat} (le : n ≤ 0x3000000) : snapR.mrefCheck 3 far n = St.ok := by
  have f : mrefForm far n = true := form_le (by decide +kernel) (by decide +kernel : mrefForm far 0x3000000 = true) le
  have d : snapR.mrefDev far = some 1 := by decide +kernel
  have w : snapR.mrefOwned 3 far n = true := by
    unfold State.mrefOwned
    rw [d]
    have e1 : mrSpace far = 1 := by decide +kernel
    have e2 : (snapR.bnd 3).mask.getLsbD 1 = true := by decide +kernel
    have e3 : snapR.sys.myDev.toNat = 0 := by decide +kernel
    simp [e1, e2, e3]
  unfold State.mrefCheck
  rw [f, w]
  decide

theorem test_meets_SnapshotRecords :
    (let s : State := snapS
    let h : Hdr := hd 2
    let at' : BitVec 48 := 0xFFFFFFFFFFFF
    let m : Word64 := hb
    let limit : BitVec 38 := 0x3000000
    let c : Instr := Instr.snapshot h at' m limit
    let b : Nat := Spec.bind s h
    let n : Nat := s.snapSize b
    Spec.ReadyIdle s h c ∧ (Canon s ∧ (at' = BitVec.allOnes 48 ∨ at' = (s.bnd b).step) ∧ mrSpace m = 1 ∧ s.mrefLocal m = true ∧
    s.mrefCheck b m 16 = St.ok) ∧ s.mrefCheck b m n = St.ok ∧ n ≤ limit.toNat) ∧
    (let s : State := snapR
    let h : Hdr := hd 2
    let at' : BitVec 48 := 0
    let m : Word64 := far
    let limit : BitVec 38 := 0x3000000
    let c : Instr := Instr.snapshot h at' m limit
    let b : Nat := Spec.bind s h
    let n : Nat := s.snapSize b
    Spec.ReadyIdle s h c ∧ (Canon s ∧ (at' = BitVec.allOnes 48 ∨ at' = (s.bnd b).step) ∧ mrSpace m = 1 ∧ s.mrefLocal m = false ∧
    s.mrefCheck b m 16 = St.ok) ∧ s.mrefCheck b m n = St.ok ∧ n ≤ limit.toNat) := by
  constructor
  · have r : Spec.ReadyIdle snapS (hd 2) (Instr.snapshot (hd 2) 0xFFFFFFFFFFFF hb 0x3000000) :=
      ready_idle _ _ _ (by unfold Spec.Ready Spec.Clear; decide +kernel)
    dsimp only
    generalize e : Spec.bind snapS (hd 2) = k
    have f : Spec.bind snapS (hd 2) = 3 := by decide +kernel
    obtain rfl : 3 = k := f.symm.trans e
    exact ⟨r, by decide +kernel, check_le size_le, size_le⟩
  · have r : Spec.ReadyIdle snapR (hd 2) (Instr.snapshot (hd 2) 0 far 0x3000000) :=
      ready_idle _ _ _ (by unfold Spec.Ready Spec.Clear; decide +kernel)
    dsimp only
    generalize e : Spec.bind snapR (hd 2) = k
    have f : Spec.bind snapR (hd 2) = 3 := by decide +kernel
    obtain rfl : 3 = k := f.symm.trans e
    exact ⟨r, by decide +kernel, far_check_le far_size_le, far_size_le⟩

end Wsnap
/-! ## Statements about every step -/

theorem test_meets_EmptyQueueTicks :
    (let s : State := {b3 with ltn := {b3.ltn with power := .sleep}}
    s.pending = [] ∧ (s.dead ≠ none ∨ (s.ltn.power ≠ .run ∧ s.ltn.power ≠ .doze))) := by decide +kernel

theorem test_meets_StepKeepsCanon : Canon b3 ∧ ∃ t, step b3 = .next t := ⟨by decide +kernel, b3.tick, rfl⟩

theorem test_meets_ExecKeepsQueueAndPart : ∃ t, exec .wakeN b3 = .next t := ⟨_, rfl⟩

theorem test_meets_FatalUntilReset : ({b3 with dead := some .thermalTrip} : State).dead = some .thermalTrip := rfl

/-! ## Operands and lists that `WellFormed` refuses -/

namespace Wwf

def p0 : FabPkt := ⟨0, 0, 1, 0, 0, true, 1, 0, 0, [], [], 0, 0, 0, false, 0, 0, false, 0, none⟩
def p1 : FabPkt := ⟨0, 0, 1, 0, 0, true, 0, 0, 0, [0, 1, 2, 3], [], 0, 0, 0, false, 0, 0, false, 0, none⟩

theorem test_wf_loadmat : (Instr.loadmat (hd 0) 0 0 [] 0 0 0).wellFormed = false := by decide +kernel
theorem test_wf_send : (Instr.send (hd 0) 0 1 0 0 [5]).wellFormed = false ∧ (Instr.send (hd 0) 0 1 0 0 [5, 6]).wellFormed = true := by
  decide +kernel
theorem test_wf_message_words : (Instr.queueMessageArrival 0 0 0 0 [] none).wellFormed = false := by decide +kernel
theorem test_wf_packet_length : (Instr.e2ePacketReceive p0).wellFormed = false ∧ (Instr.e2ePacketReceive p1).wellFormed = false := by
  decide +kernel
theorem test_wf_link_packet : (Instr.linkPacketReceive 18 0 0 0 {p1 with route := []} 0 0).wellFormed = false ∧
    (Instr.linkPacketReceive 17 0 0 0 {p1 with route := []} 0 0).wellFormed = true := by decide +kernel
theorem test_wf_link_numbers : (Instr.linkAck 18 0).wellFormed = false ∧ (Instr.linkNak 18 0).wellFormed = false ∧
    (Instr.linkCredit 18 0 0 0).wellFormed = false ∧ (Instr.replayTimeout 18).wellFormed = false ∧
    (Instr.linkFailure 0 18).wellFormed = false ∧ (Instr.linkDownReceive 18).wellFormed = false ∧ (Instr.fecLockLoss 18 0).wellFormed = false ∧
    (Instr.linkAckSend 18).wellFormed = false ∧ (Instr.fabricEnergyWake 18).wellFormed = false ∧
    (Instr.fabricWakePattern 18).wellFormed = false := by decide +kernel
theorem test_wf_link_training : ∀ x, (Instr.linkTraining 18 x).wellFormed = false := fun _ => rfl
theorem test_wf_link_disable : ∀ x, (Instr.linkDisable 18 x).wellFormed = false := fun _ => rfl
theorem test_wf_units : (Instr.quiesceAck 18).wellFormed = false ∧ (Instr.quiesceAckTimeout 18).wellFormed = false ∧
    (Instr.clockGate 18).wellFormed = false ∧ (Instr.clockUngate 18).wellFormed = false := by decide +kernel
theorem test_wf_failures : (∀ x f, (Instr.coreFailure 18 x f).wellFormed = false) ∧ ∀ x y z f, (Instr.sliceFailure 34 x y z f).wellFormed = false :=
  ⟨fun _ _ => rfl, fun _ _ _ _ => rfl⟩
theorem test_wf_register_lists : (Instr.regrd []).wellFormed = false ∧ (Instr.regwr []).wellFormed = false ∧
    (Instr.regrd (List.replicate 65 0)).wellFormed = false := by decide +kernel
theorem test_wf_wake_pattern : ∀ x y z, (Instr.wakeFrame x y z [1]).wellFormed = false := fun _ _ _ => rfl
theorem test_wf_data_frame : ∀ x e y z, (Instr.dataFrame x e y z (List.replicate 8977 0)).wellFormed = false := fun _ _ _ _ => by
  simp only [Instr.wellFormed, List.length_replicate]
  decide
theorem test_wf_chunk : ∀ a b c d e, (Instr.circuitChunkReceive a b c d e (List.replicate 65537 0)).wellFormed = false := fun _ _ _ _ _ => by
  simp only [Instr.wellFormed, List.length_replicate]
  decide
theorem test_wf_frames : ∀ f : TFrame, f.payload.length = 8985 →
    (Instr.transportFrameReceive f).wellFormed = false ∧ (Instr.frameForward f).wellFormed = false := fun f h => by
  simp only [Instr.wellFormed, h]
  decide
theorem test_wf_records : ∀ c (p : Packet), p.records.length = 2049 → (Instr.eventPacketAccept c p).wellFormed = false := fun c p h => by
  simp only [Instr.wellFormed, h]
  decide

end Wwf

/-! ## Words of programs (R70, R71) -/

/-- The 24 words of the LIF program under R86, each with the instruction that its table gives. -/
theorem test_decode_the_lif_program :
    ([0x08000001, 0x20000004, 0x08400010, 0x52800000, 0x0AC00044, 0x1AAAC01F, 0x10468000, 0x09400003, 0x31D58000, 0x38584007, 0x10004000,
      0x08800040, 0x40C08000, 0x44008000, 0x09000041, 0x28010000, 0x0C000001, 0x0A000042, 0x15560000, 0x29558000, 0x0A400043, 0x39654003,
      0x0C140003, 0xFC000000] : List Word).map (decodeInsn 3) =
    [.ldf 3 0 1, .decay 3 0 0 4 0, .ldf 3 1 0x10, .rand 3 10 0, .ldf 3 11 0x44, .mulq 3 10 10 11 31, .add 3 1 1 10, .ldf 3 5 3,
      .cmpgt 3 7 5 6, .sel 3 1 6 1 7, .add 3 0 0 1, .ldf 3 2 0x40, .fire 3 3 0 2, .rsub 3 0 0 2, .ldf 3 4 0x41, .max 3 0 0 4, .stf 3 0 1,
      .ldf 3 8 0x42, .sub 3 5 5 8, .max 3 5 5 6, .ldf 3 9 0x43, .sel 3 5 9 5 3, .stf 3 5 3, .endInstr 3].map some := by decide +kernel
/-- Words made from R70 and R71 for the instructions that the program does not have. -/
theorem test_decode_other_words :
    ([0x00000000, 0x04C03C00, 0x1C48C005, 0x24C8C000, 0x2CC8C000, 0x34C8C000, 0x48C8C000, 0x4C080003] : List Word).map (decodeInsn 3) =
    [.nop 3, .movi 3 3 0x3C00, .mac 3 1 2 3 5, .min 3 3 2 3, .clamp 3 3 2 3, .cmpge 3 3 2 3, .rset 3 3 2 3, .tbump 3 2 3].map some := by
  decide +kernel
/-- A reserved OP (0x0F, 0x15) and unused bits that are not 0 spell no instruction. -/
theorem test_decode_refuses :
    ([0x3C000000, 0x54000000, 0x00000001, 0x10468001, 0xFC400000] : List Word).map (decodeInsn 3) = List.replicate 5 none := by decide +kernel

/-! ## Check values of the CRCs, whose polynomials R369 and R371 give -/

/-- The CRC-16 and the CRC-32 of the ASCII digits 1 to 9 (R369, R371; log entry 71). -/
theorem test_crc_check_values :
    crc16 [0x31, 0x32, 0x33, 0x34, 0x35, 0x36, 0x37, 0x38, 0x39] = 0x29B1 ∧
      crc32 [0x31, 0x32, 0x33, 0x34, 0x35, 0x36, 0x37, 0x38, 0x39] = 0xFC891918 := by decide +kernel

/-! ## Worked examples of the spec -/

namespace Wex

/-- Core 0 with one lane whose V[1] and V[2] are given. -/
def lane (a b : Word) : State := c0 (fun c => {c with lanes := [ln 0 a b]})
/-- A register of the first lane of core 0. -/
def V (s : State) (k : BitVec 4) : Word := match (s.cor 0).lanes with | l :: _ => l.reg k | [] => 0

/-- The neuron example under R86: DECAY V0, V0, 4 gives 192 − 12 = 180. -/
theorem test_decay_of_the_lif_example : V (getNext (exec (.decay 0 3 1 4 0) (lane 192 0)) b3) 3 = 180 := by decide +kernel
/-- The same example: rshift_rne(2^30 × 16, 31) = 8. -/
theorem test_mulq_of_the_lif_example : V (getNext (exec (.mulq 0 3 1 2 31) (lane 0x40000000 16)) b3) 3 = 8 := by decide +kernel
/-- The same example: the membrane 316 over the threshold 256 fires once. -/
theorem test_fire_of_the_lif_example : V (getNext (exec (.fire 0 3 1 2) (lane 316 256)) b3) 3 = 1 := by decide +kernel
/-- R68: an ADD above 2^31 − 1 saturates and sets ASAT. -/
theorem test_add_saturates :
    V (getNext (exec (.add 0 3 1 2) (lane 0x7FFFFFFF 1)) b3) 3 = 0x7FFFFFFF ∧
      (getNext (exec (.add 0 3 1 2) (lane 0x7FFFFFFF 1)) b3).rget (Reg.coreNrnFlags 0 0) = 1 := by decide +kernel
/-- The program's word 0x0800_0001 is LDF V0, F1, and K[1] of the example is −1,024: MOVI of −1,024 writes it. -/
theorem test_movi_sign_extends : V (getNext (exec (.movi 0 3 0x3C00) (lane 0 0)) b3) 3 = 0xFFFFFC00 := by decide +kernel

/-- The E4M3 example under R145: the scale 0x78 and the codes 0x7D, 0xF0, 0x20 and 0x00 with underflow. -/
theorem test_e4m3_example :
    blockScale 5 ⟨1, 0⟩ ⟨105, -5⟩ = 0x78 ∧ (convElem 5 420 1 0).code = 0x7D ∧ (convElem 5 (-128) 1 0).code = 0xF0 ∧
      (convElem 5 1 8 0).code = 0x20 ∧ convElem 5 1 8192 0 = ⟨0, false, true⟩ := by decide +kernel
/-- The rescue example under R149: the fresh X is 0x79, and 320, 256 and 240 have the codes 0x7A, 0x78 and 0x77. -/
theorem test_rescue_example :
    blockScale 5 ⟨1, 0⟩ ⟨5, 0⟩ = 0x79 ∧ (convElem 5 320 1 0).code = 0x7A ∧ (convElem 5 256 1 0).code = 0x78 ∧
      (convElem 5 240 1 0).code = 0x77 := by decide +kernel
/-- The delta-row example under R149: an I8 segment with the largest value 0.75 has R = 0x1E0D, and 0.75 becomes 127 with X = 127. -/
theorem test_row_scale_example :
    rowScale 3 ⟨3, -2⟩ = 0x1E0D ∧ blockScale 3 ⟨1549, -18⟩ ⟨3, -2⟩ = 0x7F ∧ (convElem 3 196608 1549 0).code = 127 := by decide +kernel
/-- A row of 4,096 I8 columns has the stride 4,224 (the example under R123). -/
theorem test_stride_example : rowStride 3 4096 = 4224 := by decide +kernel

/-- The bank of the example under R341: bank 1 of SLICE[4], its word holding 0x11, the pointer at port 61. -/
def bank (maint : Bool) : State :=
  let s := one.putBytes (Mem.slice 4 + 0x200000) [0x11]
  let s := { s with mem := { s.mem with pointers := [(17, 61)] } }
  if maint then s.rset (Reg.slcCfg 4) 0x100 else s.rset (Reg.slcCfg 4) 0
/-- Its three requests: a read from port 4, writes from ports 103 and 110. -/
def requests : List SliceReq := [⟨4, 0x40000, false, 0, 0xFF, 0, false⟩, ⟨103, 0x40000, true, 0, 0xFF, 0x22, false⟩,
  ⟨110, 0x40000, true, 0, 0xFF, 0x33, false⟩]
/-- One bank cycle serves the group: the write of port 110 stands and the pointer moves to port 104. -/
theorem test_bank_group_example :
    (getNext (exec (.sliceBankCycle 4 1 false requests) (bank false)) b3).word64 (Mem.slice 4 + 0x200000) = 0x33 ∧
      (getNext (exec (.sliceBankCycle 4 1 false requests) (bank false)) b3).mem.pointers = [(17, 104)] := by decide +kernel
/-- The timer of the example under R507: TIMER[4] counts 400 of 1,000, COMPARE[0] is 900, in immediate or preload mode. -/
def timer (imm : Bool) : State :=
  let s := (b3.setTimer 4 ⟨true, 3, 0, 1000, 900, 0xFFFFFFFF⟩).rset (Reg.tmrCtrl 4) (if imm then 0xC30003E7 + 0x800000 else 0x830003E7 + 0x800000)
  ((s.rset (Reg.tmrCount 4) 400).rset (Reg.tmrPeriod 4) 1000).rset (Reg.tmrCmp0 4) 900
/-- PERIOD := 300 in immediate mode: PERIOD_SHORT, and COUNT wraps at the next tick. -/
theorem test_timer_period_short :
    (getNext (exec (.timerImmediateWrite 4 0 300) (timer true)) b3).rbit (Reg.tmrStat 4) 5 = true ∧
      (getNext (exec (.timerTick 4) (getNext (exec (.timerImmediateWrite 4 0 300) (timer true)) b3)) b3).rget (Reg.tmrCount 4) = 0 := by
  decide +kernel
/-- COMPARE[0] := 401 in preload mode awaits the wrap; in immediate mode the next tick matches. -/
theorem test_timer_compare :
    (getNext (exec (.timerTick 4) (getNext (exec (.timerImmediateWrite 4 1 401) (timer true)) b3)) b3).rbit (Reg.tmrStat 4) 0 = true ∧
      (getNext (exec (.timerTick 4) (getNext (exec (.timerImmediateWrite 4 1 401) (timer false)) b3)) b3).rbit (Reg.tmrStat 4) 0 = false ∧
      (getNext (exec (.timerImmediateWrite 4 1 401) (timer false)) b3).rbit (Reg.tmrStat 4) 6 = true := by decide +kernel

/-- The interrupt example under R497: processor 0 claims source 35, processor 1 reads 511. -/
def claimed : State := getNext (exec (.irqClaim 1 35) (getNext (exec (.irqClaim 0 35) (getNext (exec (.interruptRaise 35) {one with irq := {one.irq with en := BitVec.allOnes 512}}) b3)) b3)) b3
theorem test_irq_claim_example : claimed.irq.slot0 = 35 ∧ claimed.irq.slot1 = 511 ∧ claimed.irq.active.getLsbD 35 = true ∧ claimed.irq.raw.getLsbD 35 = false := by decide +kernel

end Wex
end

section
namespace Sys2Proof.Machine

/-! ## O5: every command keeps the queue and the part -/

/-- What a live command answers is its operation's result. -/
theorem live_next {s t : State} {f : State → State} (h : live s f = .next t) : t = f s := by
  unfold live at h
  split at h
  · cases h
  · cases h; rfl

/-- A command that acts while the device works answers a state that comes from the old one, where its operation does. -/
theorem live_From {s t : State} {f : State → State} (h : live s f = .next t) (hf : (f s).From s) : t.From s :=
  live_next h ▸ hf

/-- Every command answers a state that comes from the old one: the three resets from outside act always, every other command is `live`
of an operation whose own law in Laws/Reach says it. -/
theorem exec_From {c : Instr} {s t : State} (h : exec c s = .next t) : t.From s := by
  have hs := State.From.refl s
  cases c with
  | powerOnReset => cases h; exact State.powerOn_From s hs
  | coldReset => cases h; exact State.coldRst_From s hs
  | vddLtnRemoval => cases h; exact State.vddOff_From s hs
  | coreFailure _ _ far | sliceFailure _ _ _ _ far =>
    unfold exec at h
    refine live_From h ?_
    cases far <;> simp [hs]
  | tmrGstart =>
    unfold exec at h
    exact live_From h (replied_From _ _ (State.timerGroup_From s _ _ (fun s n => State.timerStart_From s n) hs))
  | tmrGstop =>
    unfold exec at h
    exact live_From h (replied_From _ _ (State.timerGroup_From s _ _ (fun s n => State.timerStop_From s n) hs))
  | _ =>
    unfold exec at h
    exact live_From h (by simp [hs])

/-- Settles O5: every command answers a state that comes from the old one by table edits (`exec_From`), with the same queue and part. -/
theorem execKeepsQueueAndPart : Obligations.ExecKeepsQueueAndPart := by
  intro c s t h
  have hfrom := exec_From h
  obtain ⟨hdevid, hgrade, hstepping, hcores, hslices⟩ : t.fuses.devid = s.fuses.devid ∧ t.fuses.grade = s.fuses.grade ∧
      t.fuses.stepping = s.fuses.stepping ∧ t.fuses.badCores = s.fuses.badCores ∧ t.fuses.badSlices = s.fuses.badSlices := by
    simpa [State.track, Fuses.ident] using hfrom.ident
  exact ⟨hfrom.pending, hdevid, hgrade, hstepping, hcores, hslices⟩

/-! ## O48: a write to an ACT entry takes along what waited (R256) -/

/-- Bringing the waiting writes of an entry into force changes the entry alone among the converters. -/
theorem State.actForce_cnv (s : State) (f : Nat) :
    (s.actForce f).cnv = (s.setAct f { s.act f with cfgNext := none, leadNext := none }).cnv := by
  cases hcfg : (s.act f).cfgNext <;> cases hlead : (s.act f).leadNext <;> simp [State.actForce, hcfg, hlead]

/-- A write that leaves VALID at 0 is not checked (R256). -/
theorem State.actOk_of_invalid (s : State) (f : Nat) (cfg lead : Word) (h : bitOf cfg 31 = false) : s.actOk f cfg lead = true := by
  simp [State.actOk, h]

/-- The implemented bits of CNV_ACT_CFG include VALID. -/
theorem bitOf_actCfg_valid (v : Word) : bitOf (v &&& 0xFF03FFFF#32) 31 = bitOf v 31 := by
  simp [bitOf]

/-- A write of CNV_ACT_CFG with VALID 0, no opening being pending, is in force at once, behind the writes that waited. -/
theorem State.actWrite_cfg_invalid (s : State) (f : Nat) (v : Word) (hf : f < 255) (hv : bitOf v 31 = false)
    (hp : s.actPending f = false) :
    s.actWrite f false v = ((s.actForce f).rset (Reg.cnvActCfg f) (v &&& 0xFF03FFFF), St.ok) := by
  have hok : s.actOk f (v &&& 0xFF03FFFF#32) ((s.act f).leadNext.getD (s.rget (Reg.cnvActLead f))) = true :=
    s.actOk_of_invalid f _ _ (by rw [bitOf_actCfg_valid, hv])
  simp [State.actWrite, hok, hp, Nat.not_le.mpr hf]

/-- The reply to a host write leaves the converters as they are. -/
theorem replied_cnv (a : Nat) (x : State × Byte) : (replied a x).cnv = x.1.cnv :=
  (replied_Only (L := [.reg, .fab, .eth, .gov, .irq, .ptb, .out, .free]) a x (by decide) (by decide) (by decide) (by decide)
    (by decide) (by decide) (by decide) (by decide) (OnlyChanges.refl _ x.1)).same .cnv (by decide)

/-- Where a write of an ACT entry's CFG waits and no opening of the entry is pending any more, a further write changes the converters too:
the write that waited is no longer there. -/
theorem actCfgWrite_changes_cnv {s t : State} {f : BitVec 8} {v : Word} (hc : Canon s) (hf : f ≠ 255)
    (hv : bitOf v 31 = false) (hp : s.actPending f.toNat = false) (hw : (s.act f.toNat).cfgNext ≠ none)
    (ht : exec (.actCfgWrite f false v) s = .next t) : t.cnv ≠ s.cnv := by
  intro hsame
  have hacts : Tab.wf (fun _ => ActFrame.empty) s.cnv.acts := by
    obtain ⟨-, -, -, -, -, -, -, -, -, -, -, hacts, -⟩ := hc
    exact hacts
  unfold exec at ht
  rw [live_next ht, replied_cnv, s.actWrite_cfg_invalid f.toNat v (by bv_omega) hv hp, State.rset_cnv, State.actForce_cnv] at hsame
  have hact : (s.setAct f.toNat { s.act f.toNat with cfgNext := none, leadNext := none }).act f.toNat = s.act f.toNat :=
    congrArg (fun c : Converters => Tab.get (fun _ => ActFrame.empty) c.acts f.toNat) hsame
  rw [State.act_setAct_same hacts] at hact
  exact hw (congrArg ActFrame.cfgNext hact).symm

/-- Rows after which a write of ACT entry 0 waits for an opening that no longer comes: the gate control list of port A gets an entry that opens
ACT_TC, ACT entry 0 names it and becomes VALID, a write of its CFG waits for the opening, and the list becomes empty. -/
def strandedRows : List Instr :=
  [.regwr [(BitVec.ofNat 32 (Reg.ethGclLen 0), 1), (BitVec.ofNat 32 (Reg.ethGclGate 0), 0xFF)], .gclCycleStart 0,
   .actCfgWrite 0 true 54, .actCfgWrite 0 false 0x80000000, .actCfgWrite 0 false 0,
   .regwr [(BitVec.ofNat 32 (Reg.ethGclLen 0), 0)], .gclCycleStart 0]

/-- The state that these rows reach from reset. -/
def stranded : State :=
  match core.run strandedRows.length { State.reset with pending := strandedRows } with
  | .next s => s
  | _ => State.reset

/-- `stranded` meets the premises that O48 gives a write to an ACT entry, and a write waits in it. -/
theorem stranded_meets : Canon stranded ∧ Alive stranded ∧ stranded.awake = true ∧ stranded.isReady = false ∧
    stranded.actPending 0 = false ∧ (stranded.act 0).cfgNext = some 0 := by
  have hcanon : Canon stranded := by and_intros <;> decide +kernel
  exact ⟨hcanon, by decide +kernel⟩

/-- Refutes O48: its clause on CNV_ACT_CFG lets only registers, the Ethernet block and the outputs change, while a write that is in force at
once brings into force what still waited (R256) and so changes the ACT entry itself. `stranded` is such a state, reached from reset. -/
theorem not_registersAnswer : ¬ Obligations.RegistersAnswer := by
  intro h
  obtain ⟨s, hcanon, halive, hawake, hready, hpend, hwait⟩ : ∃ s : State, Canon s ∧ Alive s ∧ s.awake = true ∧ s.isReady = false ∧
      s.actPending 0 = false ∧ (s.act 0).cfgNext = some 0 := ⟨stranded, stranded_meets⟩
  obtain ⟨-, -, -, -, -, -, -, -, -, -, -, -, -, -, -, -, hcfg, -⟩ :=
    h s [] [] 0 0 (rowsIDT.head (by decide)) 0 0 0 false 0 0 0 hcanon halive hawake (.inl hready)
  obtain ⟨t, hexec, ⟨honly, -⟩, -⟩ := hcfg (by decide) rfl (by decide) hpend
  exact actCfgWrite_changes_cnv (f := 0) (v := 0) hcanon (by decide) (by decide) hpend (by simp [hwait]) hexec
    (honly.same .cnv (by decide))

end Sys2Proof.Machine
end

section
namespace Sys2Proof.Machine

/-! ## Fields of a word -/

/-- The bits of a word in which a field has been replaced. -/
theorem getLsbD_withField (x : Word) (lo w v i : Nat) : (withField x lo w v).getLsbD i =
    (decide (i < 32) && if lo ≤ i ∧ i < lo + w then v.testBit (i - lo) else x.getLsbD i) := by
  simp only [withField, BitVec.getLsbD_or, BitVec.getLsbD_and, BitVec.getLsbD_not, BitVec.getLsbD_ofNat, Nat.testBit_mul_two_pow,
    Nat.testBit_two_pow_sub_one, Nat.testBit_mod_two_pow]
  by_cases hi : i < 32
  · by_cases hlo : lo ≤ i
    · have hw : i - lo < w ↔ i < lo + w := by omega
      by_cases hin : i < lo + w <;> simp only [hi, hlo, hin, hw, decide_true, decide_false] <;> simp
    · simp [hlo, hi]
  · simp [hi, BitVec.getLsbD_of_ge x i (by omega)]

/-- The bits of a field. -/
theorem testBit_fieldOf (x : Word) (lo w i : Nat) : (fieldOf x lo w).testBit i = (decide (i < w) && x.getLsbD (lo + i)) := by
  simp [fieldOf, Nat.testBit_mod_two_pow, Nat.testBit_div_two_pow, BitVec.getLsbD, Nat.add_comm]

theorem fieldOf_withField_same (x : Word) {lo w : Nat} (v : Nat) (h : lo + w ≤ 32) : fieldOf (withField x lo w v) lo w = v % 2 ^ w := by
  refine Nat.eq_of_testBit_eq fun i => ?_
  rw [testBit_fieldOf, getLsbD_withField, Nat.testBit_mod_two_pow]
  by_cases hi : i < w
  · have h32 : lo + i < 32 := by omega
    simp [hi, h32]
  · simp [hi]

theorem fieldOf_withField_other (x : Word) {lo w lo' w' : Nat} (v : Nat) (h : lo' + w' ≤ lo ∨ lo + w ≤ lo') :
    fieldOf (withField x lo w v) lo' w' = fieldOf x lo' w' := by
  refine Nat.eq_of_testBit_eq fun i => ?_
  rw [testBit_fieldOf, testBit_fieldOf, getLsbD_withField]
  by_cases hi : i < w'
  · have hout : ¬ (lo ≤ lo' + i ∧ lo' + i < lo + w) := by omega
    rw [if_neg hout]
    by_cases h32 : lo' + i < 32
    · simp [h32]
    · simp [h32, BitVec.getLsbD_of_ge x (lo' + i) (by omega)]
  · simp [hi]

theorem bitOf_withBit_same (x : Word) {i : Nat} (b : Bool) (h : i < 32) : bitOf (withBit x i b) i = b := by
  rw [bitOf, withBit, getLsbD_withField, if_pos (by omega)]
  cases b <;> simp [h]

theorem bitOf_withBit_other (x : Word) {i j : Nat} (b : Bool) (h : j ≠ i) : bitOf (withBit x i b) j = bitOf x j := by
  have hout : ¬ (i ≤ j ∧ j < i + 1) := by omega
  simp only [bitOf, withBit, getLsbD_withField, if_neg hout]
  by_cases h32 : j < 32
  · simp [h32]
  · simp [h32, BitVec.getLsbD_of_ge x j (by omega)]

/-- Setting a bit to what it is leaves the word. -/
theorem withBit_self (x : Word) {i : Nat} {b : Bool} (h : bitOf x i = b) : withBit x i b = x := by
  refine BitVec.eq_of_getLsbD_eq fun j hj => ?_
  by_cases hji : j = i
  · subst hji
    exact (bitOf_withBit_same x b hj).trans h.symm
  · exact bitOf_withBit_other x b hji

/-! ## Registers that an operation may change -/

/-- From `s` to `t` the register table stays canonical and only the registers `l` may read anew. -/
def RegsOnly (l : List Nat) (s t : State) : Prop :=
  Tab.wf regReset s.reg.vals → Tab.wf regReset t.reg.vals ∧ ∀ a, a ∉ l → t.rget a = s.rget a

namespace RegsOnly
variable {l : List Nat} {s t u : State}

theorem wf (h : RegsOnly l s t) (hs : Tab.wf regReset s.reg.vals) : Tab.wf regReset t.reg.vals := (h hs).1
theorem get (h : RegsOnly l s t) (hs : Tab.wf regReset s.reg.vals) {a : Nat} (ha : a ∉ l) : t.rget a = s.rget a := (h hs).2 a ha

/-- Where the register file is the same no register changes. -/
theorem of_reg (h : t.reg = s.reg) : RegsOnly l s t := fun hs => by
  rw [h]
  exact ⟨hs, fun _ _ => congrArg (fun r : RegFile => Tab.get regReset r.vals _) h⟩

theorem refl (l : List Nat) (s : State) : RegsOnly l s s := of_reg rfl

theorem trans (h : RegsOnly l s t) (g : RegsOnly l t u) : RegsOnly l s u := fun hs =>
  ⟨g.wf (h.wf hs), fun _ ha => (g.get (h.wf hs) ha).trans (h.get hs ha)⟩

theorem mono {m : List Nat} (h : RegsOnly l s t) (hl : ∀ a ∈ l, a ∈ m) : RegsOnly m s t := fun hs =>
  ⟨h.wf hs, fun _ ha => h.get hs fun hm => ha (hl _ hm)⟩

theorem rset (s : State) {k : Nat} (v : Word) (hk : k ∈ l) : RegsOnly l s (s.rset k v) := fun hs =>
  ⟨Tab.wf_set hs k v, fun _ ha => State.rget_rset_other hs v fun e => ha (e ▸ hk)⟩

theorem rsetField (s : State) {k : Nat} (lo w v : Nat) (hk : k ∈ l) : RegsOnly l s (s.rsetField k lo w v) := rset s _ hk
theorem rsetBit (s : State) {k : Nat} (i : Nat) (b : Bool) (hk : k ∈ l) : RegsOnly l s (s.rsetBit k i b) := rset s _ hk
theorem satAdd (s : State) {k : Nat} (lo w n : Nat) (hk : k ∈ l) : RegsOnly l s (s.satAdd k lo w n) := rset s _ hk
theorem count (s : State) {k : Nat} (n : Nat) (hk : k ∈ l) : RegsOnly l s (s.count k n) := rset s _ hk
theorem maxReg (s : State) {k : Nat} (n : Nat) (hk : k ∈ l) : RegsOnly l s (s.maxReg k n) := rset s _ hk
theorem countFree (s : State) {k : Nat} (hk : k ∈ l) : RegsOnly l s (s.countFree k) := count s.draw.2 _ hk
theorem longWrap (s : State) {k : Nat} (n : Nat) (hk : k ∈ l) : RegsOnly l s (s.longWrap k n).1 := rset s _ hk

theorem ite {c : Prop} [Decidable c] (ht : c → RegsOnly l s t) (hu : ¬ c → RegsOnly l s u) :
    RegsOnly l s (if c then t else u) := by
  split
  · exact ht ‹_›
  · exact hu ‹_›

/-- A sequence of updates changes what its members change. -/
theorem forAll {α : Type} {f : State → α → State} (xs : List α) (hf : ∀ s, ∀ x ∈ xs, RegsOnly l s (f s x)) (s : State) :
    RegsOnly l s (s.forAll xs f) := by
  induction xs generalizing s with
  | nil => exact refl l s
  | cons x r ih => exact (hf s x (by simp)).trans (ih (fun s y hy => hf s y (by simp [hy])) (f s x))

end RegsOnly

/-! ## What a register reads after it was written -/

section
variable {s : State} (hs : Tab.wf regReset s.reg.vals)
include hs

theorem State.rget_rmod_same (k : Nat) (f : Word → Word) : (s.rmod k f).rget k = f (s.rget k) := State.rget_rset_same hs k _
theorem State.rbit_rsetBit_same (k : Nat) {i : Nat} (b : Bool) (hi : i < 32) : (s.rsetBit k i b).rbit k i = b := by
  simp only [State.rbit, State.rsetBit, State.rget_rmod_same hs, bitOf_withBit_same _ b hi]
theorem State.rbit_rsetBit_other (k : Nat) {i j : Nat} (b : Bool) (hj : j ≠ i) : (s.rsetBit k i b).rbit k j = s.rbit k j := by
  simp only [State.rbit, State.rsetBit, State.rget_rmod_same hs, bitOf_withBit_other _ b hj]
theorem State.rget_rsetBit_self {k i : Nat} {b : Bool} (h : s.rbit k i = b) : (s.rsetBit k i b).rget k = s.rget k := by
  simp only [State.rsetBit, State.rget_rmod_same hs, withBit_self _ h]

/-- A field that saturates after `n` more (R51-R54, R503). -/
theorem State.rfield_satAdd_same (k : Nat) {lo w : Nat} (n : Nat) (h : lo + w ≤ 32) :
    (s.satAdd k lo w n).rfield k lo w = min (s.rfield k lo w + n) (2 ^ w - 1) := by
  have hlt : min (s.rfield k lo w + n) (2 ^ w - 1) < 2 ^ w := by
    have := Nat.two_pow_pos w
    omega
  simp only [State.rfield, State.satAdd, State.rsetField, State.rget_rmod_same hs, fieldOf_withField_same _ _ h] at hlt ⊢
  exact Nat.mod_eq_of_lt hlt
theorem State.rfield_satAdd_other (k : Nat) {lo w lo' w' : Nat} (n : Nat) (h : lo' + w' ≤ lo ∨ lo + w ≤ lo') :
    (s.satAdd k lo w n).rfield k lo' w' = s.rfield k lo' w' := by
  simp only [State.rfield, State.satAdd, State.rsetField, State.rget_rmod_same hs, fieldOf_withField_other _ _ h]

end

/-! ## Activity counts of the governor (R424) -/

/-- Of the governor at most the activity counts differ. -/
def ActsOnly (s t : State) : Prop := t.gov = { s.gov with acts := t.gov.acts }

namespace ActsOnly
variable {s t u : State}

theorem of_gov (h : t.gov = s.gov) : ActsOnly s t := by
  unfold ActsOnly
  rw [h]
theorem refl (s : State) : ActsOnly s s := of_gov rfl
theorem trans (h : ActsOnly s t) (g : ActsOnly t u) : ActsOnly s u := by
  unfold ActsOnly at *
  rw [g, h]
theorem unitActs (s : State) (c k n : Nat) : ActsOnly s (s.unitActs c k n) := rfl
theorem ite {c : Prop} [Decidable c] (ht : c → ActsOnly s t) (hu : ¬ c → ActsOnly s u) : ActsOnly s (if c then t else u) := by
  split
  · exact ht ‹_›
  · exact hu ‹_›
theorem forAll {α : Type} {f : State → α → State} (hf : ∀ s x, ActsOnly s (f s x)) (xs : List α) (s : State) :
    ActsOnly s (s.forAll xs f) := by
  induction xs generalizing s with
  | nil => exact refl s
  | cons x r ih => exact (hf s x).trans (ih (f s x))

/-- An operation that leaves the governor alone. -/
theorem of_only {l : List Part} (h : OnlyChanges l s t) (hl : Part.gov ∉ l) : ActsOnly s t := of_gov (h.same .gov hl)

end ActsOnly

end Sys2Proof.Machine
end

section
namespace Sys2Proof.Machine

/-! ## What a message to another device, a notice or an interrupt changes (R368-R379, R411, R494) -/

/-- The registers that a message on its way out may change: those of the interrupt controller, of the fabric's losses and waits and of the
perturbation block. -/
def sentRegs : List Nat :=
  [Reg.irqMerged, Reg.irqLastm, Reg.fabStatus, Reg.fabE2eLost, Reg.fabRetWait, Reg.ptbHeld, Reg.ptbCount, Reg.ptbStatus, Reg.ptbStartLo,
   Reg.ptbStopLo]

theorem mem_sentRegs {a : Nat} : a ∈ sentRegs ↔ a = 0xD00108 ∨ a = 0xD0010C ∨ a = 0x601800 ∨ a = 0x601814 ∨ a = 0x60180C ∨
    a = 0x1000050 ∨ a = 0x1000008 ∨ a = 0x1000004 ∨ a = 0x100000C ∨ a = 0x1000014 := by
  simp only [sentRegs, List.mem_cons, List.not_mem_nil, or_false]

/-- What may differ after messages have left: the outputs have grown, circuits stand as before, of the governor only its counts of activity,
of the registers only `sentRegs`. The units that change are named by the laws of Laws/Only. -/
structure Sent (s t : State) : Prop where
  acts     : ActsOnly s t
  circuits : t.fab.circuits = s.fab.circuits
  out      : s.out <+: t.out
  regs     : RegsOnly sentRegs s t

namespace Sent
variable {s t u : State}

theorem refl (s : State) : Sent s s := ⟨.refl s, rfl, List.prefix_refl _, .refl _ s⟩
theorem trans (h : Sent s t) (g : Sent t u) : Sent s u :=
  ⟨h.acts.trans g.acts, g.circuits.trans h.circuits, h.out.trans g.out, h.regs.trans g.regs⟩
theorem ite {c : Prop} [Decidable c] (ht : c → Sent s t) (hu : ¬ c → Sent s u) : Sent s (if c then t else u) := by
  split
  · exact ht ‹_›
  · exact hu ‹_›
theorem forAll {α : Type} {f : State → α → State} (hf : ∀ s x, Sent s (f s x)) (xs : List α) (s : State) : Sent s (s.forAll xs f) := by
  induction xs generalizing s with
  | nil => exact refl s
  | cons x r ih => exact (hf s x).trans (ih (f s x))

/-- An update of units that none of this speaks of. -/
theorem of_same (hg : t.gov = s.gov) (hc : t.fab.circuits = s.fab.circuits) (ho : s.out <+: t.out) (hr : t.reg = s.reg) : Sent s t :=
  ⟨.of_gov hg, hc, ho, .of_reg hr⟩

theorem rset (s : State) {k : Nat} (v : Word) (hk : k ∈ sentRegs) : Sent s (s.rset k v) := ⟨.refl s, rfl, List.prefix_refl _, .rset s v hk⟩
theorem rsetBit (s : State) {k : Nat} (i : Nat) (b : Bool) (hk : k ∈ sentRegs) : Sent s (s.rsetBit k i b) := rset s _ hk
theorem count (s : State) {k : Nat} (n : Nat) (hk : k ∈ sentRegs) : Sent s (s.count k n) := rset s _ hk
theorem countFree (s : State) {k : Nat} (hk : k ∈ sentRegs) : Sent s (s.countFree k) :=
  trans (t := s.draw.2) (of_same rfl rfl (List.prefix_refl _) rfl) (count _ _ hk)
theorem setLive (s : State) (k : Nat) (v : Word) : Sent s (s.setLive k v) := ⟨.refl s, rfl, List.prefix_refl _, fun h => ⟨h, fun _ _ => rfl⟩⟩
theorem send (s : State) (o : Out) : Sent s (s.send o) := of_same rfl rfl (List.prefix_append _ _) rfl
theorem setLink (s : State) (l : Nat) (x : Link) : Sent s (s.setLink l x) := of_same rfl rfl (List.prefix_refl _) rfl
theorem setE2e (s : State) (d v : Nat) (x : E2E) : Sent s (s.setE2e d v x) := of_same rfl rfl (List.prefix_refl _) rfl
theorem setSpace (s : State) (k : Nat) (x : Space) : Sent s (s.setSpace k x) := of_same rfl rfl (List.prefix_refl _) rfl

end Sent

/-! ### Notices and interrupts -/

theorem State.hostPump_Sent (s : State) (k : Nat) : Sent s (s.hostPump k) :=
  .of_same rfl rfl (List.prefix_append _ _) rfl
theorem State.hostFrames_Sent (s : State) (sp dev stream n : Nat) (note : Bool) : Sent s (s.hostFrames sp dev stream n note) :=
  .ite (fun _ => .refl s) fun _ =>
    .trans (Sent.setSpace s _ _) (State.hostPump_Sent _ _)
theorem State.notice_Sent (s : State) (kind : Byte) (body : List Byte) : Sent s (s.notice kind body) :=
  .ite (fun _ => (Sent.send s _).trans (State.hostFrames_Sent _ _ _ _ _ _))
    fun _ => .ite (fun _ => .of_same rfl rfl (List.prefix_refl _) rfl) fun _ => .refl s
theorem State.raise_Sent (s : State) (n : Nat) : Sent s (s.raise n) :=
  .ite (fun _ => .refl s) fun _ =>
    .ite (fun _ => (Sent.count s 1 (by decide)).trans (.rset _ _ (by decide))) fun _ =>
      (Sent.of_same (s := s) (t := { s with irq := { s.irq with raw := s.irq.raw ||| BitVec.ofNat 512 (2 ^ n) } }) rfl rfl
        (List.prefix_refl _) rfl).trans (.ite (fun _ => State.notice_Sent _ _ _) fun _ => .refl _)

/-! ### The perturbation block's holds (R537) -/

theorem State.ptbUpdate_Sent (s : State) : Sent s s.ptbUpdate := by
  have hheld := Sent.rset s (k := Reg.ptbHeld) (BitVec.ofNat 32 (min s.ptbItems 65535)) (by decide)
  refine hheld.trans (.ite (fun _ => .ite (fun _ => .refl _) fun _ => ?_) fun _ => .ite (fun _ => ?_) fun _ => .refl _)
  · exact (Sent.count _ 1 (by decide)).trans ((Sent.rset _ _ (by decide)).trans ((Sent.rset _ _ (by decide)).trans (.setLive _ _ _)))
  · exact (Sent.rsetBit _ 0 false (by decide)).trans ((Sent.rset _ _ (by decide)).trans (.setLive _ _ _))

theorem State.ptbHold_Sent (s : State) (h : Held) : Sent s (s.ptbHold h) :=
  .trans (t := { s with ptb := s.ptb ++ [h] }) (.of_same rfl rfl (List.prefix_refl _) rfl) (State.ptbUpdate_Sent _)

/-- An update of PTB_HELD and the status touches registers only. -/
theorem State.ptbUpdate_ptb (s : State) : s.ptbUpdate.ptb = s.ptb :=
  (State.ptbUpdate_Only (L := [.reg]) s (by decide) (.refl _ s)).same .ptb (by decide)

theorem State.ptbHold_ptb (s : State) (h : Held) : (s.ptbHold h).ptb = s.ptb ++ [h] := State.ptbUpdate_ptb _

/-! ### Links, paths and end-to-end numbers -/

theorem State.onLink_Sent (s : State) (l : Nat) (lseq : BitVec 12) (p : FabPkt) : Sent s (s.onLink l lseq p) :=
  .ite (fun _ => State.ptbHold_Sent s _) fun _ => .send s _
theorem State.linkSend_Sent (s : State) (l : Nat) (p : FabPkt) : Sent s (s.linkSend l p) := by
  have hlink := Sent.setLink s l { ((s.link l).setUse p.vc.toNat p.hop.toNat ((s.link l).inUse p.vc.toNat p.hop.toNat + pktUnits p)) with
    txSeq := (s.link l).txSeq + 1, unacked := (s.link l).unacked ++ [⟨(s.link l).txSeq, { p with via := none }, 0⟩] }
  have hacts : ∀ (t : State) (n : Nat), Sent t (t.unitActs 0 1 n) := fun t n => ⟨.unitActs t _ _ _, rfl, List.prefix_refl _, .of_reg rfl⟩
  exact hlink.trans ((hacts _ _).trans (State.onLink_Sent _ _ _ _))
theorem State.sendCredit_Sent (s : State) (l vc cls units : Nat) : Sent s (s.sendCredit l vc cls units) :=
  .ite (fun _ => State.ptbHold_Sent s _) fun _ => .send s _
theorem State.leavesBuffer_Sent (s : State) (p : FabPkt) : Sent s (s.leavesBuffer p) := by
  unfold State.leavesBuffer
  split
  · exact .ite (fun _ => .of_same rfl rfl (List.prefix_refl _) rfl) fun _ => State.sendCredit_Sent _ _ _ _ _
  · exact .refl s
theorem State.drainLink_Sent (fuel : Nat) (s : State) (l : Nat) : Sent s (State.drainLink fuel s l) := by
  induction fuel generalizing s with
  | zero => exact .refl s
  | succ fuel ih =>
    unfold State.drainLink
    split
    · exact .refl s
    · exact (Sent.setLink s l _).trans ((State.linkSend_Sent _ _ _).trans ((State.leavesBuffer_Sent _ _).trans (ih _)))
theorem State.linkQueue_Sent (s : State) (l : Nat) (p : FabPkt) : Sent s (s.linkQueue l p) :=
  (Sent.setLink s l _).trans (.ite (fun _ => State.drainLink_Sent _ _ _) fun _ => .refl _)
theorem State.lossFlag_Sent (s : State) (dev : Nat) (part : Bool) : Sent s (s.lossFlag dev part) := by
  unfold State.lossFlag
  refine (Sent.rsetBit s (k := Reg.fabStatus) (if part then 1 else 0) true (by decide)).trans ?_
  dsimp only
  generalize ((pathLinks (s.rget (Reg.fabRoutePri dev))).getD []).head? = first
  cases first with
  | none => exact .refl _
  | some l => exact State.raise_Sent _ _
theorem State.cutOff_Sent (s : State) (p : FabPkt) : Sent s (s.cutOff p) :=
  Sent.trans (.ite (fun _ => (Sent.setE2e s _ _ _).trans (.count _ 1 (by decide))) fun _ => .refl s)
    ((State.lossFlag_Sent _ _ _).trans (State.leavesBuffer_Sent _ _))
theorem State.routeOut_Sent (s : State) (p : FabPkt) : Sent s (s.routeOut p) := by
  unfold State.routeOut
  split
  · exact State.linkQueue_Sent _ _ _
  · exact State.cutOff_Sent _ _
theorem State.e2eSend_Sent (s : State) (p : FabPkt) : Sent s (s.e2eSend p) := (Sent.setE2e s _ _ _).trans (State.routeOut_Sent _ _)
theorem State.toFabric_Sent (s : State) (p : FabPkt) : Sent s (s.toFabric p) :=
  .ite (fun _ => .count s 1 (by decide)) fun _ => .ite (fun _ => State.routeOut_Sent s p) fun _ =>
    .ite (fun _ => (Sent.setE2e s _ _ _).trans (.countFree _ (by decide))) fun _ => State.e2eSend_Sent s p

/-! ### Messages -/

theorem State.toDevice_Sent (s : State) (dev type unit : Nat) (o : Out) : Sent s (s.toDevice dev type unit o) :=
  (Sent.send s o).trans (State.toFabric_Sent _ _)
theorem State.toDevices_Sent (s : State) (l : List Nat) (type unit : Nat) (o : Out) : Sent s (s.toDevices l type unit o) :=
  (Sent.send s o).trans (.forAll (fun _ _ => State.toFabric_Sent _ _) l _)

/-- A message stands among the outputs once it was sent. -/
theorem State.mem_toDevice_out (s : State) (dev type unit : Nat) (o : Out) : o ∈ (s.toDevice dev type unit o).out :=
  (State.toFabric_Sent (s.send o) _).out.subset (List.mem_append_right _ (List.mem_singleton_self o))
theorem State.mem_toDevices_out (s : State) (l : List Nat) (type unit : Nat) (o : Out) : o ∈ (s.toDevices l type unit o).out :=
  (Sent.forAll (fun _ _ => State.toFabric_Sent _ _) l (s.send o)).out.subset (List.mem_append_right _ (List.mem_singleton_self o))

end Sys2Proof.Machine
end

section
namespace Sys2Proof.Machine

/-! ## Tests of all members of a list -/

theorem any_congr_mem {α : Type} {l : List α} {f g : α → Bool} (h : ∀ x ∈ l, f x = g x) : l.any f = l.any g := by
  induction l with
  | nil => rfl
  | cons x r ih => rw [List.any_cons, List.any_cons, h x (by simp), ih fun y hy => h y (by simp [hy])]

theorem all_congr_mem {α : Type} {l : List α} {f g : α → Bool} (h : ∀ x ∈ l, f x = g x) : l.all f = l.all g := by
  rw [List.all_eq_not_any_not, List.all_eq_not_any_not, any_congr_mem fun x hx => by rw [h x hx]]

/-! ## Rules and gates read alike where memory, cores and contexts do -/

theorem State.bytes_congr {s t : State} (hm : t.mem = s.mem) (k n : Nat) : t.bytes k n = s.bytes k n := by
  induction n generalizing k with
  | zero => rfl
  | succ n ih => simp only [State.bytes, State.byteAt, hm, ih]

theorem State.rule_congr {s t : State} (hm : t.mem = s.mem) (n m : Nat) : t.rule n m = s.rule n m := by
  simp only [State.rule, State.leAt, State.bytes_congr hm]

theorem State.rulesOf_congr {s t : State} (hm : t.mem = s.mem) (n : Nat) : t.rulesOf n = s.rulesOf n := by
  simp only [State.rulesOf, State.rule_congr hm]

/-- The rules of a binding depend on memory and on which cores are bound to which binding. -/
theorem State.bindingRules_congr {s t : State} (hm : t.mem = s.mem)
    (hc : ∀ n, (t.cor n).bound = (s.cor n).bound ∧ (t.cor n).binding = (s.cor n).binding) (b : Nat) :
    t.bindingRules b = s.bindingRules b := by
  simp only [State.bindingRules, State.rule_congr hm, State.rulesOf_congr hm, hc]

theorem State.mem_bindingRules {s : State} {b : Nat} {p : Nat × Nat} (h : p ∈ s.bindingRules b) : p.2 < 256 := by
  simp only [State.bindingRules, List.mem_flatMap] at h
  obtain ⟨n, -, h⟩ := h
  split at h
  · obtain ⟨m, hm, rfl⟩ := List.mem_map.mp h
    simp only [State.rulesOf, List.mem_filter, List.mem_range] at hm
    exact hm.1.1
  · exact absurd h List.not_mem_nil

/-! ## What decides whether a next step may start (R177, R190, R270) -/

/-- Two states in which a boundary of binding `b` is judged alike: only the epochs that a broadcast has told may differ in the binding, and of
the registers all but the states of rules and circuits. -/
structure SameBoundary (b : Nat) (s t : State) : Prop where
  mem      : t.mem = s.mem
  core     : t.core = s.core
  sys      : t.sys = s.sys
  kpr      : t.kpr = s.kpr
  tmr      : t.tmr = s.tmr
  ctxs     : t.cmd.ctxs = s.cmd.ctxs
  streams  : t.cmd.streams = s.cmd.streams
  far      : t.cmd.far = s.cmd.far
  issues   : t.cmd.issues = s.cmd.issues
  circuits : t.fab.circuits = s.fab.circuits
  bnd      : t.bnd b = { s.bnd b with epochsOut := (t.bnd b).epochsOut }
  rstat    : ∀ n m, m < 256 → t.rget (Reg.coreLrnRstat n m) = s.rget (Reg.coreLrnRstat n m)
  circStat : ∀ c, c < 256 → t.rget (Reg.fabCircStat c) = s.rget (Reg.fabCircStat c)

namespace SameBoundary
variable {b : Nat} {s t : State} (h : SameBoundary b s t)
include h

theorem cor (n : Nat) : t.cor n = s.cor n := by simp only [State.cor, h.core]
theorem red (n m : Nat) : t.red n m = s.red n m := by simp only [State.red, h.core]
theorem circ (c : Nat) : t.circ c = s.circ c := by simp only [State.circ, h.circuits]
theorem ctxsOf (b' : Nat) : t.ctxsOf b' = s.ctxsOf b' := by simp only [State.ctxsOf, h.ctxs]
theorem rule (n m : Nat) : t.rule n m = s.rule n m := State.rule_congr h.mem n m
theorem bindingRules (b' : Nat) : t.bindingRules b' = s.bindingRules b' :=
  State.bindingRules_congr h.mem (fun n => by simp [h.cor]) b'
theorem groupRules (b' g : Nat) : t.groupRules b' g = s.groupRules b' g := by
  simp only [State.groupRules, h.bindingRules, h.rule]
theorem memberCtxs (p : Nat × Nat) : t.memberCtxs p = s.memberCtxs p := by simp only [State.memberCtxs, h.rule, h.ctxsOf]
theorem ruleState {p : Nat × Nat} (hp : p.2 < 256) : t.ruleState p = s.ruleState p := by
  simp only [State.ruleState, State.rfield, h.rstat p.1 p.2 hp]
theorem peerAsk (g : Nat) : t.peerAsk b g = s.peerAsk b g := by
  simp only [State.peerAsk, h.sys, h.tmr]
  rw [h.bnd]
theorem ruleOpen (n : Nat) {m : Nat} (hm : m < 256) : t.ruleOpen n m = s.ruleOpen n m := by
  simp only [State.ruleOpen, h.ruleState (p := (n, m)) hm]
theorem localOf (k : Nat) : t.localOf k = s.localOf k := by simp only [State.localOf, State.sysCore, h.sys]
theorem circBusy (c : Nat) : t.circBusy c = s.circBusy c := by simp only [State.circBusy, h.circ, h.core]

omit h in
theorem groupRules_lt {b' g : Nat} {p : Nat × Nat} (hp : p ∈ s.groupRules b' g) : p.2 < 256 :=
  State.mem_bindingRules (List.mem_filter.mp hp).1

theorem groupDue (g : Nat) : t.groupDue b g = s.groupDue b g := by
  have hany : ∀ v, (s.groupRules b g).any (fun p => decide (t.ruleState p = v)) = (s.groupRules b g).any (fun p => decide (s.ruleState p = v)) :=
    fun v => any_congr_mem fun p hp => by rw [h.ruleState (groupRules_lt hp)]
  have hall : (s.groupRules b g).all (fun p => decide (t.ruleState p ≠ 2)) = (s.groupRules b g).all (fun p => decide (s.ruleState p ≠ 2)) :=
    all_congr_mem fun p hp => by rw [h.ruleState (groupRules_lt hp)]
  simp only [State.groupDue, State.groupReady, h.groupRules, h.memberCtxs, State.atGate, h.rule, h.red, hany, hall]
  rw [h.bnd]
  rfl

theorem anyDue : t.anyDue b = s.anyDue b := by
  have hgroups : t.groupsOf b = s.groupsOf b := by simp only [State.groupsOf, h.bindingRules, h.rule]
  have hfar : t.farGroups b = s.farGroups b := by
    simp only [State.farGroups, h.groupRules]
    rw [h.bnd]
  have hfarDue : ∀ g, t.farDue b g = s.farDue b g := fun g => by
    simp only [State.farDue, State.farReady, h.peerAsk]
    rw [h.bnd]
    rfl
  simp only [State.anyDue, hgroups, hfar, funext h.groupDue, funext hfarDue]

theorem voteTargets (m g : Nat) : t.voteTargets b m g = s.voteTargets b m g := by
  have hsys : t.sysOf = s.sysOf := funext fun n => by simp only [State.sysOf, h.sys]
  simp only [State.voteTargets, State.members, State.peers, h.groupRules, hsys, h.sys, h.tmr]
  rw [h.bnd]

theorem ovlHold : t.ovlHold b = s.ovlHold b := by
  simp only [State.ovlHold, h.bindingRules, h.rule, h.red, h.memberCtxs, State.voteStep, h.voteTargets]
  rw [h.bnd]
  rfl

theorem copyCircuit {c : Nat} (hc : c < 256) (use : Bool) : t.copyCircuit c use = s.copyCircuit c use := by
  simp only [State.copyCircuit, State.onCircuit, State.circuitUp, State.circState, State.rfield, h.circStat c hc, h.circ,
    State.fillAhead, h.core, h.issues]
  rfl

theorem copyBehind (stream : BitVec 8) (cseq dst : Word64) (len : Nat) (on : Option Nat) :
    t.copyBehind b stream cseq dst len on = s.copyBehind b stream cseq dst len on := by
  simp only [State.copyBehind, h.far, h.circuits]
  rw [h.bnd]

theorem epochClear (g : Nat) : t.epochClear b g = s.epochClear b g := by
  simp only [State.epochClear, h.groupRules, h.rule, h.red, h.memberCtxs, h.peerAsk]

theorem deferReady (d : Deferred) : t.deferReady b d = s.deferReady b d := by
  have hrules : (s.bindingRules b).all (fun p => !t.ruleOpen p.1 p.2) = (s.bindingRules b).all (fun p => !s.ruleOpen p.1 p.2) :=
    all_congr_mem fun p hp => by rw [h.ruleOpen _ (State.mem_bindingRules hp)]
  have hbnd := h.bnd
  unfold State.deferReady
  rw [hbnd]
  cases d.cmd with
  | snapshot => simp only [h.bindingRules, hrules]
  | epoch => simp only [h.epochClear]
  | park => simp only [h.ctxsOf]
  | loadrule _ _ m => simp only [h.localOf, h.ruleOpen _ m.isLt]
  | loadmat _ _ m => simp only [h.localOf, h.ruleOpen _ m.isLt, State.filling, h.cor]
  | unbind => simp only [h.circ, h.circBusy]
  | copy _ _ _ _ _ _ _ _ circuit => simp only [h.copyBehind, h.copyCircuit circuit.isLt]
  | _ => rfl

/-- Nothing holds the next start in the one state that does not hold it in the other. -/
theorem boundaryClear : t.boundaryClear b = s.boundaryClear b := by
  simp only [State.boundaryClear, h.deferReady, h.anyDue, h.ovlHold, h.kpr]
  rw [h.bnd]

theorem nextStep : t.nextStep b = s.nextStep b := by
  simp only [State.nextStep, State.earlierDone, State.strm, h.streams]
  rw [h.bnd]

end SameBoundary

end Sys2Proof.Machine
end

section
namespace Sys2Proof.Machine

/-! ## Tables: entries, writes of what stands there, and runs of writes -/

section
variable {α : Type} {d : Nat → α} [DecidableEq α]

theorem Tab.get_of_mem {t : Tab α} (h : Tab.wf d t) {p : Nat × α} (hp : p ∈ t) : Tab.get d t p.1 = p.2 := by
  induction t with
  | nil => exact absurd hp List.not_mem_nil
  | cons q r ih =>
    rcases List.mem_cons.mp hp with rfl | hp
    · exact Tab.get_cons_self
    · have hlt : q.1 < p.1 := (List.pairwise_cons.mp h.1).1 p hp
      rw [Tab.get, if_neg (by omega), if_neg (by omega), ih (Tab.wf_tail h) hp]

theorem Tab.nodup_keys {t : Tab α} (h : Tab.wf d t) : (t.map Prod.fst).Nodup :=
  List.pairwise_map.mpr (h.1.imp fun hlt => Nat.ne_of_lt hlt)

/-- Writing what an entry reads already changes nothing. -/
theorem Tab.set_get {t : Tab α} (h : Tab.wf d t) (k : Nat) : Tab.set d t k (Tab.get d t k) = t := by
  refine Tab.ext_get (Tab.wf_set h k _) h fun i => ?_
  by_cases hi : i = k
  · rw [hi, Tab.get_set_same h]
  · rw [Tab.get_set_other h _ hi]

/-- The table after one write for each member of a list, which may read the entry it writes. -/
def Tab.modAll {β : Type} (d : Nat → α) (k : β → Nat) (f : β → α → α) (t : Tab α) (xs : List β) : Tab α :=
  xs.foldl (fun t x => Tab.set d t (k x) (f x (Tab.get d t (k x)))) t

theorem Tab.wf_modAll {β : Type} (k : β → Nat) (f : β → α → α) (xs : List β) {t : Tab α} (h : Tab.wf d t) :
    Tab.wf d (Tab.modAll d k f t xs) := by
  induction xs generalizing t with
  | nil => exact h
  | cons x r ih => exact ih (Tab.wf_set h _ _)

theorem Tab.get_modAll_other {β : Type} {k : β → Nat} (f : β → α → α) {xs : List β} {t : Tab α} (h : Tab.wf d t) {i : Nat}
    (hi : ∀ x ∈ xs, k x ≠ i) : Tab.get d (Tab.modAll d k f t xs) i = Tab.get d t i := by
  induction xs generalizing t with
  | nil => rfl
  | cons x r ih =>
    refine (ih (Tab.wf_set h _ _) fun y hy => hi y (by simp [hy])).trans ?_
    exact Tab.get_set_other h _ (hi x (by simp)).symm

theorem Tab.get_modAll_mem {β : Type} {k : β → Nat} (f : β → α → α) {xs : List β} {t : Tab α} (h : Tab.wf d t)
    (hn : (xs.map k).Nodup) {x : β} (hx : x ∈ xs) : Tab.get d (Tab.modAll d k f t xs) (k x) = f x (Tab.get d t (k x)) := by
  induction xs generalizing t with
  | nil => exact absurd hx List.not_mem_nil
  | cons y r ih =>
    obtain ⟨hy, hn⟩ := List.nodup_cons.mp hn
    rcases List.mem_cons.mp hx with rfl | hx
    · refine (Tab.get_modAll_other f (Tab.wf_set h _ _) fun z hz he => hy (List.mem_map.mpr ⟨z, hz, he⟩)).trans ?_
      exact Tab.get_set_same h _ _
    · have hxy : k x ≠ k y := fun he => hy (List.mem_map.mpr ⟨x, hx, he⟩)
      refine (ih (Tab.wf_set h _ _) hn hx).trans ?_
      rw [Tab.get_set_other h _ hxy]

end

/-! ## The contexts of a binding -/

theorem perm_insertCidx (x : Nat × Ctx) (l : List (Nat × Ctx)) : (insertCidx x l).Perm (x :: l) := by
  induction l with
  | nil => exact .refl _
  | cons y r ih =>
    unfold insertCidx
    split
    · exact .refl _
    · exact (ih.cons y).trans (.swap x y r)

theorem State.ctxsOf_perm (s : State) (b : Nat) :
    (s.ctxsOf b).Perm (s.cmd.ctxs.filter (fun p => p.2.valid && p.2.binding.toNat = b)) := by
  unfold State.ctxsOf
  generalize s.cmd.ctxs.filter (fun p => p.2.valid && p.2.binding.toNat = b) = l
  induction l with
  | nil => exact .refl _
  | cons x r ih => exact (perm_insertCidx x _).trans (ih.cons x)

theorem State.mem_ctxsOf {s : State} {b : Nat} {p : Nat × Ctx} :
    p ∈ s.ctxsOf b ↔ p ∈ s.cmd.ctxs ∧ p.2.valid = true ∧ p.2.binding.toNat = b := by
  rw [(s.ctxsOf_perm b).mem_iff]
  simp

section
variable {s : State} (hw : Tab.wf (fun _ => Ctx.empty) s.cmd.ctxs)
include hw

theorem State.ctx_of_mem_ctxsOf {b : Nat} {p : Nat × Ctx} (hp : p ∈ s.ctxsOf b) : s.ctx p.1 = p.2 :=
  Tab.get_of_mem hw (State.mem_ctxsOf.mp hp).1

theorem State.nodup_ctxsOf (b : Nat) : ((s.ctxsOf b).map Prod.fst).Nodup :=
  ((s.ctxsOf_perm b).map Prod.fst).nodup_iff.mpr ((Tab.nodup_keys hw).sublist (List.filter_sublist.map _))

theorem State.setCtx_ctx (c : Nat) : s.setCtx c (s.ctx c) = s := by
  have h := Tab.set_get hw c
  unfold State.setCtx State.ctx
  rw [h]

end

/-- Writing a binding as it is changes nothing. -/
theorem State.setBnd_bnd {s : State} (hw : Tab.wf (fun _ => Binding.empty) s.cmd.bindings) (b : Nat) : s.setBnd b (s.bnd b) = s := by
  have h := Tab.set_get hw b
  unfold State.setBnd State.bnd
  rw [h]

/-! ## The cores of a binding -/

theorem State.mem_coresOf {s : State} {b n : Nat} : n ∈ s.coresOf b ↔ n < 16 ∧ (s.cor n).bound = true ∧ (s.cor n).binding.toNat = b := by
  simp [State.coresOf]

theorem State.nodup_coresOf (s : State) (b : Nat) : (s.coresOf b).Nodup := List.nodup_range.filter _

/-! ## One update of every context or core of a list -/

/-- The contexts at the keys of a list, each changed by `f`. -/
theorem State.forAll_setCtx (s : State) (f : Nat × Ctx → Ctx) (xs : List (Nat × Ctx)) :
    s.forAll xs (fun s p => s.setCtx p.1 (f p)) =
      { s with cmd := { s.cmd with ctxs := Tab.modAll (fun _ => Ctx.empty) Prod.fst (fun p _ => f p) s.cmd.ctxs xs } } := by
  induction xs generalizing s with
  | nil => rfl
  | cons x r ih => exact ih (s.setCtx x.1 (f x))

/-- The cores of a list, each changed by `f`. -/
theorem State.forAll_setCor (s : State) (f : Core → Core) (ns : List Nat) :
    s.forAll ns (fun s n => s.setCor n (f (s.cor n))) =
      { s with core := { s.core with cores := Tab.modAll (fun _ => Core.empty) id (fun _ => f) s.core.cores ns } } := by
  induction ns generalizing s with
  | nil => rfl
  | cons n r ih => exact ih (s.setCor n (f (s.cor n)))

/-! ## The start of a step on the device (R45, R59, R446) -/

/-- The binding in its new step: the configuration last written is in force. -/
def State.begunBnd (s : State) (b : Nat) : Binding :=
  let x := s.bnd b
  { x with
    running := true, covered := (s.nextStep b).map (fun q => q.hdr.stream), gates := [], waitSlot := false, slotAt := 0, signalled := false
    overran := false, samples := [], startedAt := s.tmr.tb, modeIn := BitVec.ofNat 2 (s.regMode b), lenIn := BitVec.ofNat 32 (s.regLen b)
    periodIn := BitVec.ofNat 32 (s.regPeriod b), phaseIn := BitVec.ofNat 32 (s.regPhase b)
    limitIn := BitVec.ofNat 8 (s.rfield (Reg.cmdStepCtrl b) 8 8)
    extraIn := BitVec.ofNat 24 (s.ptbStretch x.step.toNat), rampIn := BitVec.ofNat 6 (s.rfield Reg.pgvCtrl 16 6) }

/-- A context with its modulators latched. -/
def Ctx.latched (c : Ctx) : Ctx := { c with lat0 := c.mod0, lat1 := c.mod1, lat2 := c.mod2, lat3 := c.mod3 }
/-- A core that awaits START. -/
def Core.awaits (c : Core) : Core := { c with phase := .idle }

/-- The modulators of the contexts that take part are latched (R59). -/
def State.latchMods (s : State) (b : Nat) : State :=
  s.forAll ((s.ctxsOf b).filter (fun p => p.2.active)) (fun s p => s.setCtx p.1 p.2.latched)
/-- The cores of a binding await START. -/
def State.coresAwait (s : State) (b : Nat) : State := s.forAll (s.coresOf b) (fun s n => s.setCor n (s.cor n).awaits)
/-- The clocks of its cores open (R446). -/
def State.openClocks (s : State) (b : Nat) : State :=
  { s with ltn := { s.ltn with gated := s.ltn.gated.filter (fun p => !((s.coresOf b).map s.physCore).contains p) } }

/-- With no sample to take, a step starts in four stages. -/
theorem State.beginStep_eq {s : State} {b : Nat} (hx : (s.bnd b).samples = []) :
    s.beginStep b = (((s.setBnd b (s.begunBnd b)).latchMods b).coresAwait b).openClocks b := by
  have hstages : s.beginStep b = ((((s.setBnd b (s.begunBnd b)).latchMods b).coresAwait b).openClocks b).forAll (s.bnd b).samples
      (fun s p => s.sample p b) := rfl
  rw [hstages, hx]
  rfl

theorem State.latchMods_eq (s : State) (b : Nat) : s.latchMods b = { s with cmd := { s.cmd with
    ctxs := Tab.modAll (fun _ => Ctx.empty) Prod.fst (fun p _ => p.2.latched) s.cmd.ctxs ((s.ctxsOf b).filter (fun p => p.2.active)) } } :=
  State.forAll_setCtx s (fun p => p.2.latched) _
theorem State.coresAwait_eq (s : State) (b : Nat) : s.coresAwait b = { s with core := { s.core with
    cores := Tab.modAll (fun _ => Core.empty) id (fun _ => Core.awaits) s.core.cores (s.coresOf b) } } :=
  State.forAll_setCor s Core.awaits _

/-- The start of a step touches the command engine, the cores and Lantern's clock gates. -/
theorem State.beginStep_OnlyChanges {s : State} {b : Nat} (hx : (s.bnd b).samples = []) :
    OnlyChanges [.cmd, .core, .ltn] s (s.beginStep b) := by
  rw [State.beginStep_eq hx, State.latchMods_eq, State.coresAwait_eq]
  exact OnlyChanges.ltn_upd _ (by decide) (OnlyChanges.core_upd _ (by decide) (OnlyChanges.cmd_upd _ (by decide)
    (State.setBnd_Only _ _ (by decide) (.refl _ s))))

section
variable {s : State} {b : Nat} (hx : (s.bnd b).samples = [])
include hx

theorem State.beginStep_bindings : (s.beginStep b).cmd.bindings = (s.setBnd b (s.begunBnd b)).cmd.bindings := by
  rw [State.beginStep_eq hx, State.latchMods_eq, State.coresAwait_eq]
  rfl

theorem State.beginStep_bnd_same (hw : Tab.wf (fun _ => Binding.empty) s.cmd.bindings) : (s.beginStep b).bnd b = s.begunBnd b := by
  simp only [State.bnd, State.beginStep_bindings hx]
  exact State.bnd_setBnd_same hw b _

theorem State.beginStep_ctx (hw : Tab.wf (fun _ => Ctx.empty) s.cmd.ctxs) {p : Nat × Ctx} (hp : p ∈ s.ctxsOf b) :
    (s.beginStep b).ctx p.1 = if p.2.active then p.2.latched else p.2 := by
  have hctx : (s.beginStep b).ctx p.1 = Tab.get (fun _ => Ctx.empty) (Tab.modAll (fun _ => Ctx.empty) Prod.fst (fun p _ => p.2.latched)
      s.cmd.ctxs ((s.ctxsOf b).filter (fun p => p.2.active))) p.1 := by
    rw [State.beginStep_eq hx, State.latchMods_eq, State.coresAwait_eq]
    rfl
  have hnodup := State.nodup_ctxsOf hw b
  rw [hctx]
  by_cases ha : p.2.active = true
  · rw [if_pos ha]
    exact Tab.get_modAll_mem _ hw (hnodup.sublist (List.filter_sublist.map _)) (List.mem_filter.mpr ⟨hp, ha⟩)
  · rw [if_neg ha]
    refine (Tab.get_modAll_other _ hw fun q hq he => ha ?_).trans (State.ctx_of_mem_ctxsOf hw hp)
    obtain ⟨hq, hqa⟩ := List.mem_filter.mp hq
    have hval : q.2 = p.2 := by rw [← State.ctx_of_mem_ctxsOf hw hq, he, State.ctx_of_mem_ctxsOf hw hp]
    exact hval ▸ hqa

theorem State.beginStep_cor (hw : Tab.wf (fun _ => Core.empty) s.core.cores) (n : Nat) :
    (s.beginStep b).cor n = if n ∈ s.coresOf b then (s.cor n).awaits else s.cor n := by
  have hcor : (s.beginStep b).cor n =
      Tab.get (fun _ => Core.empty) (Tab.modAll (fun _ => Core.empty) id (fun _ => Core.awaits) s.core.cores (s.coresOf b)) n := by
    rw [State.beginStep_eq hx, State.latchMods_eq, State.coresAwait_eq]
    rfl
  rw [hcor]
  split
  · exact Tab.get_modAll_mem (k := id) _ hw (by rw [List.map_id]; exact s.nodup_coresOf b) ‹_›
  · exact Tab.get_modAll_other (k := id) _ hw fun m hm (he : m = n) => absurd (he ▸ hm) ‹_›

theorem State.beginStep_gated (hw : Tab.wf (fun _ => Core.empty) s.core.cores) {n : Nat} (hn : n ∈ s.coresOf b) :
    s.physCore n ∉ (s.beginStep b).ltn.gated := by
  have hgated : (s.beginStep b).ltn.gated =
      s.ltn.gated.filter (fun p => !(((s.beginStep b).coresOf b).map s.physCore).contains p) := by
    rw [State.beginStep_eq hx, State.latchMods_eq, State.coresAwait_eq]
    rfl
  have hn' : n ∈ (s.beginStep b).coresOf b := by
    obtain ⟨h16, hbound, hb⟩ := State.mem_coresOf.mp hn
    exact State.mem_coresOf.mpr ⟨h16, by rw [State.beginStep_cor hx hw, if_pos hn]; exact ⟨hbound, hb⟩⟩
  rw [hgated, List.mem_filter]
  rintro ⟨-, hnot⟩
  have hin : (((s.beginStep b).coresOf b).map s.physCore).contains (s.physCore n) = true := by
    rw [List.contains_iff_mem]
    exact List.mem_map_of_mem hn'
  rw [hin] at hnot
  exact absurd hnot (by decide)

/-- A step that starts with no sample to take has started as R45, R59 and R446 say. -/
theorem State.beginStep_Started (hb : Tab.wf (fun _ => Binding.empty) s.cmd.bindings) (hc : Tab.wf (fun _ => Ctx.empty) s.cmd.ctxs)
    (hn : Tab.wf (fun _ => Core.empty) s.core.cores) : Spec.Started s (s.beginStep b) b s.tmr.tb := by
  unfold Spec.Started
  dsimp only
  rw [State.beginStep_bnd_same hx hb]
  have hmode : s.regMode b < 2 ^ 2 := Nat.mod_lt _ (by decide)
  have hlimit : s.rfield (Reg.cmdStepCtrl b) 8 8 < 2 ^ 8 := Nat.mod_lt _ (by decide)
  have hword : ∀ w : Word, (BitVec.ofNat 32 w.toNat).toNat = w.toNat := fun w => by rw [BitVec.ofNat_toNat, BitVec.setWidth_eq]
  refine ⟨rfl, rfl, rfl, rfl, rfl, rfl, ?_, hword _, hword _, hword _, ?_, ?_, ?_, ?_⟩
  · exact (BitVec.toNat_ofNat _ 2).trans (Nat.mod_eq_of_lt hmode)
  · exact (BitVec.toNat_ofNat _ 8).trans (Nat.mod_eq_of_lt hlimit)
  · exact fun p hp => State.beginStep_ctx hx hc hp
  · exact fun n hm => ⟨by rw [State.beginStep_cor hx hn, if_pos hm]; rfl, State.beginStep_gated hx hn hm⟩
  · exact fun n hm => by rw [State.beginStep_cor hx hn, if_neg hm]

end

end Sys2Proof.Machine
end

section
namespace Sys2Proof.Machine

/-! ## Frames of a command -/

theorem live_alive {s : State} (ha : Alive s) (f : State → State) : live s f = .next (f s) := by
  unfold live
  rw [ha]

theorem Frame_of_only {l : List Part} {s t : State} (h : OnlyChanges l s t) (hl : Part.gov ∉ l) : Spec.Frame l s t :=
  ⟨h.mono fun _ hp => List.mem_cons_of_mem _ hp, fun _ => ActsOnly.of_only h hl⟩

theorem Run_of_live {c : Instr} {s : State} {f : State → State} {l : List Part} {P : State → Prop} (ha : Alive s)
    (he : exec c s = live s f) (hf : Spec.Frame l s (f s)) (hP : P (f s)) : Spec.Run c s l P :=
  ⟨f s, he.trans (live_alive ha f), hf, hP⟩

theorem To_of_live {c : Instr} {s : State} {f : State → State} {l : List Part} {P : State → Prop} (ha : Alive s)
    (he : exec c s = live s f) (hf : OnlyChanges l s (f s)) (hP : P (f s)) : Spec.To c s l P :=
  ⟨f s, he.trans (live_alive ha f), hf, hP⟩

/-- The units that messages to other devices touch. -/
abbrev msgParts : List Part := [.reg, .fab, .eth, .irq, .ptb, .out, .free]

theorem State.toMembers_msgParts (s : State) (b : Nat) (o : Out) : OnlyChanges (.gov :: msgParts) s (s.toMembers b o) :=
  State.toMembers_Only s b o (by decide) (by decide) (by decide) (by decide) (by decide) (by decide) (by decide) (by decide) (.refl _ s)

theorem State.toDevice_msgParts (s : State) (dev type unit : Nat) (o : Out) :
    OnlyChanges (.gov :: msgParts) s (s.toDevice dev type unit o) :=
  State.toDevice_Only s dev type unit o (by decide) (by decide) (by decide) (by decide) (by decide) (by decide) (by decide) (by decide)
    (.refl _ s)

/-! ## The status of a step (R284) -/

/-- A binding that has taken a status: the first command with a step left, else the first, has it; with no command it is kept on a member
device for the lead. -/
def Binding.tookStatus (x : Binding) (member : Bool) (st : Byte) : Binding :=
  match x.queue with
  | [] => if x.valid && member then { x with met := worse x.met st } else x
  | q => { x with queue := markFirst (fun c => c.left ≠ some 0 || q.all (fun c => c.left = some 0)) st q }

theorem State.stepStatus_eq {s : State} (hw : Tab.wf (fun _ => Binding.empty) s.cmd.bindings) (b : Nat) (st : Byte) :
    s.stepStatus b st = s.setBnd b ((s.bnd b).tookStatus (!s.isLead b) st) := by
  have hlead : (!s.isLead b) = decide ((s.bnd b).lead ≠ s.sys.myDev) := by simp [State.isLead]
  unfold State.stepStatus Binding.tookStatus
  cases hq : (s.bnd b).queue with
  | nil =>
    simp only [hlead]
    split
    · rw [hq]
    · exact (State.setBnd_bnd hw b).symm
  | cons => rfl

/-- A status leaves everything of a binding but its step queue and what it keeps for the lead. -/
theorem Binding.tookStatus_eq (x : Binding) (member : Bool) (st : Byte) :
    x.tookStatus member st = { x with queue := (x.tookStatus member st).queue, met := (x.tookStatus member st).met } := by
  unfold Binding.tookStatus
  split
  · split <;> rfl
  · rfl

section
variable {s : State} (hw : Tab.wf (fun _ => Binding.empty) s.cmd.bindings)
include hw

theorem State.bnd_stepStatus_same (b : Nat) (st : Byte) : (s.stepStatus b st).bnd b = (s.bnd b).tookStatus (!s.isLead b) st := by
  rw [State.stepStatus_eq hw, State.bnd_setBnd_same hw]
theorem State.bnd_stepStatus_other {b m : Nat} (st : Byte) (hm : m ≠ b) : (s.stepStatus b st).bnd m = s.bnd m := by
  rw [State.stepStatus_eq hw, State.bnd_setBnd_other hw _ hm]
theorem State.stepStatus_ctxs (b : Nat) (st : Byte) : (s.stepStatus b st).cmd.ctxs = s.cmd.ctxs := by
  rw [State.stepStatus_eq hw]
  rfl

end

theorem State.stepStatus_cmdOnly (s : State) (b : Nat) (st : Byte) : OnlyChanges [.cmd] s (s.stepStatus b st) :=
  State.stepStatus_Only s b st (by decide) (.refl _ s)
theorem State.stepStatus_reg (s : State) (b : Nat) (st : Byte) : (s.stepStatus b st).reg = s.reg :=
  (s.stepStatus_cmdOnly b st).same .reg (by decide)

/-! ## Telling the members (R222, R283) -/

/-- The state in which the epochs set since the last broadcast have been taken to be told. -/
def State.epochsTold (s : State) (b : Nat) : State :=
  s.setBnd b { s.bnd b with epochsOut := if 1 < (s.bnd b).nDevs then [] else (s.bnd b).epochsOut }

theorem State.tellStart_alone {s : State} {b : Nat} (h : (s.bnd b).nDevs ≤ 1) (o : List (BitVec 8 × BitVec 24 × BitVec 48) → Out) :
    s.tellStart b o = s := if_neg (by omega)

/-- A broadcast is a message to the members once the epochs have been taken. -/
theorem State.tellStart_cases {s : State} (hw : Tab.wf (fun _ => Binding.empty) s.cmd.bindings) (b : Nat)
    (o : List (BitVec 8 × BitVec 24 × BitVec 48) → Out) :
    s.tellStart b o = s.epochsTold b ∨ s.tellStart b o = (s.epochsTold b).toMembers b (o (s.bnd b).epochsOut) := by
  unfold State.tellStart State.epochsTold
  split
  · exact .inr rfl
  · exact .inl (State.setBnd_bnd hw b).symm

section
variable {s : State} (hw : Tab.wf (fun _ => Binding.empty) s.cmd.bindings) (b : Nat) (o : List (BitVec 8 × BitVec 24 × BitVec 48) → Out)
include hw

theorem State.tellStart_msgParts : OnlyChanges (.gov :: msgParts) (s.epochsTold b) (s.tellStart b o) := by
  rcases State.tellStart_cases hw b o with h | h <;> rw [h]
  · exact .refl _ _
  · exact State.toMembers_msgParts _ _ _
theorem State.tellStart_Sent : Sent (s.epochsTold b) (s.tellStart b o) := by
  rcases State.tellStart_cases hw b o with h | h <;> rw [h]
  · exact .refl _
  · exact State.toDevices_Sent _ _ _ _ _
theorem State.tellStart_cmd : (s.tellStart b o).cmd = (s.epochsTold b).cmd := (State.tellStart_msgParts hw b o).same .cmd (by decide)

theorem State.tellStart_bnd_same :
    (s.tellStart b o).bnd b = { s.bnd b with epochsOut := if 1 < (s.bnd b).nDevs then [] else (s.bnd b).epochsOut } := by
  simp only [State.bnd, State.tellStart_cmd hw]
  exact State.bnd_setBnd_same hw b _
theorem State.tellStart_bnd_other {m : Nat} (hm : m ≠ b) : (s.tellStart b o).bnd m = s.bnd m := by
  simp only [State.bnd, State.tellStart_cmd hw]
  exact State.bnd_setBnd_other hw _ hm
theorem State.tellStart_wf : Tab.wf (fun _ => Binding.empty) (s.tellStart b o).cmd.bindings := by
  rw [State.tellStart_cmd hw]
  exact Tab.wf_set hw _ _

/-- A broadcast changes of the registers none that messages do not. -/
theorem State.tellStart_rget (hr : Tab.wf regReset s.reg.vals) {a : Nat} (ha : a ∉ sentRegs) : (s.tellStart b o).rget a = s.rget a :=
  (State.tellStart_Sent hw b o).regs.get hr ha

/-- A broadcast leaves what a boundary is judged by. -/
theorem State.tellStart_SameBoundary (hr : Tab.wf regReset s.reg.vals) : SameBoundary b s (s.tellStart b o) := by
  have honly := State.tellStart_msgParts hw b o
  have hcmd := State.tellStart_cmd hw b o
  refine ⟨honly.same .mem (by decide), honly.same .core (by decide), honly.same .sys (by decide), honly.same .kpr (by decide),
    honly.same .tmr (by decide), ?_, ?_, ?_, ?_, (State.tellStart_Sent hw b o).circuits, ?_, ?_, ?_⟩
  · rw [hcmd]; rfl
  · rw [hcmd]; rfl
  · rw [hcmd]; rfl
  · rw [hcmd]; rfl
  · rw [State.tellStart_bnd_same hw]
  · exact fun n m hm => State.tellStart_rget hw b o hr (by simp only [mem_sentRegs, Reg.coreLrnRstat]; omega)
  · exact fun c hc => State.tellStart_rget hw b o hr (by simp only [mem_sentRegs, Reg.fabCircStat]; omega)

end

end Sys2Proof.Machine
end

section
namespace Sys2Proof.Machine

/-! ## Overruns (R42, R43) -/

/-- An overrun counted: the binding shows it, STATUS is set and both counts rise. -/
def State.markOverrun (s : State) (b : Nat) : State :=
  (((s.setBnd b { s.bnd b with overran := true }).rsetBit (Reg.cmdStepStatus b) 0 true).satAdd (Reg.cmdStepOverrun b) 0 24 1).satAdd
    (Reg.cmdStepOverrun b) 24 8 1
/-- At OVERRUN_LIMIT the decoders are to ramp. -/
def State.limitOverrun (s : State) (b limit : Nat) : State :=
  if limit ≤ s.rfield (Reg.cmdStepOverrun b) 24 8 then s.rsetBit (Reg.cmdStepStatus b) 3 true else s
/-- The lead raises the source of the covering command. -/
def State.raiseCovered (s : State) (b : Nat) (h : Option (BitVec 8)) : State :=
  match h with
  | some h => if s.isLead b then s.raise (201 + h.toNat) else s
  | none => s
/-- What an overrun has changed before the command takes its status. -/
def State.shownOverrun (s : State) (b : Nat) : State :=
  ((s.markOverrun b).limitOverrun b (s.bnd b).limitIn.toNat).raiseCovered b (s.bnd b).covered

theorem State.overrun_eq {s : State} {b : Nat} (hov : (s.bnd b).overran = false) :
    s.overrun b = if (s.bnd b).running || (s.bnd b).queue.head?.any (fun q => q.ran ≠ 0) then (s.shownOverrun b).stepStatus b St.overrun
      else s.shownOverrun b := by
  unfold State.overrun
  rw [if_neg (by simp [hov])]
  rfl

theorem State.limitOverrun_cmd (s : State) (b limit : Nat) : (s.limitOverrun b limit).cmd = s.cmd := by
  unfold State.limitOverrun
  split <;> rfl
theorem State.raiseCovered_Sent (s : State) (b : Nat) (h : Option (BitVec 8)) : Sent s (s.raiseCovered b h) := by
  cases h with
  | none => exact .refl s
  | some h => exact .ite (fun _ => State.raise_Sent s _) fun _ => .refl s
theorem State.raise_cmd (s : State) (n : Nat) : (s.raise n).cmd = s.cmd :=
  (State.raise_Only (L := [.reg, .eth, .irq, .out]) s n (by decide) (by decide) (by decide) (by decide) (.refl _ s)).same .cmd (by decide)
theorem State.raiseCovered_cmd (s : State) (b : Nat) (h : Option (BitVec 8)) : (s.raiseCovered b h).cmd = s.cmd := by
  cases h with
  | none => rfl
  | some h =>
    unfold State.raiseCovered
    dsimp only
    split
    · exact State.raise_cmd s _
    · rfl

theorem State.shownOverrun_cmd (s : State) (b : Nat) : (s.shownOverrun b).cmd = (s.setBnd b { s.bnd b with overran := true }).cmd :=
  (State.raiseCovered_cmd _ b _).trans (State.limitOverrun_cmd _ b _)

section
variable {s : State} {b : Nat} (hw : Tab.wf (fun _ => Binding.empty) s.cmd.bindings) (hov : (s.bnd b).overran = false)
include hw hov

/-- An overrun shows in its binding, whose step goes on; of the rest only the statuses of commands may change. -/
theorem State.overrun_bnd : (s.overrun b).bnd b =
    { s.bnd b with overran := true, queue := ((s.overrun b).bnd b).queue, met := ((s.overrun b).bnd b).met } := by
  have hshown : (s.shownOverrun b).bnd b = { s.bnd b with overran := true } := by
    simp only [State.bnd, State.shownOverrun_cmd]
    exact State.bnd_setBnd_same hw b _
  have hw' : Tab.wf (fun _ => Binding.empty) (s.shownOverrun b).cmd.bindings := by
    rw [State.shownOverrun_cmd]
    exact Tab.wf_set hw b _
  rw [State.overrun_eq hov]
  split
  · rw [State.bnd_stepStatus_same hw', hshown]
    exact Binding.tookStatus_eq _ _ _
  · rw [hshown]

end

theorem State.overrun_reg {s : State} {b : Nat} (hov : (s.bnd b).overran = false) : (s.overrun b).reg = (s.shownOverrun b).reg := by
  rw [State.overrun_eq hov]
  split
  · exact State.stepStatus_reg _ _ _
  · rfl

/-- After an overrun is counted only STATUS and what an interrupt changes move on. -/
theorem State.overrun_RegsOnly {s : State} {b : Nat} (hov : (s.bnd b).overran = false) :
    RegsOnly (Reg.cmdStepStatus b :: sentRegs) (s.markOverrun b) (s.overrun b) := by
  have hlimit : RegsOnly (Reg.cmdStepStatus b :: sentRegs) (s.markOverrun b) ((s.markOverrun b).limitOverrun b (s.bnd b).limitIn.toNat) :=
    .ite (fun _ => .rsetBit _ 3 true (by simp)) fun _ => .refl _ _
  have hraise := (State.raiseCovered_Sent ((s.markOverrun b).limitOverrun b (s.bnd b).limitIn.toNat) b (s.bnd b).covered).regs
  exact (hlimit.trans (hraise.mono fun a ha => by simp [ha])).trans (.of_reg (State.overrun_reg hov))

theorem cmdStepStatus_not_sent {b : Nat} (hb : b < 64) : Reg.cmdStepStatus b ∉ sentRegs := by
  simp only [mem_sentRegs, Reg.cmdStepStatus]
  omega

section
variable {s : State} {b : Nat} (hr : Tab.wf regReset s.reg.vals) (hb : b < 64) (hov : (s.bnd b).overran = false)
include hr hb hov

theorem State.overrun_rbit : (s.overrun b).rbit (Reg.cmdStepStatus b) 0 = true := by
  have hmark : (s.markOverrun b).rget (Reg.cmdStepStatus b) =
      ((s.setBnd b { s.bnd b with overran := true }).rsetBit (Reg.cmdStepStatus b) 0 true).rget (Reg.cmdStepStatus b) :=
    ((RegsOnly.satAdd (l := [Reg.cmdStepOverrun b]) _ 0 24 1 (by simp)).trans (.satAdd _ 24 8 1 (by simp))).get
      (RegsOnly.rsetBit (l := [Reg.cmdStepStatus b]) (s.setBnd b _) 0 true (by simp) |>.wf hr) (by simp)
  have hset : (s.markOverrun b).rbit (Reg.cmdStepStatus b) 0 = true := by
    rw [State.rbit, hmark]
    exact State.rbit_rsetBit_same (s := s.setBnd b _) hr _ true (by decide)
  have hwmark : Tab.wf regReset (s.markOverrun b).reg.vals := Tab.wf_set (Tab.wf_set (Tab.wf_set hr _ _) _ _) _ _
  have hlimit : ((s.markOverrun b).limitOverrun b (s.bnd b).limitIn.toNat).rbit (Reg.cmdStepStatus b) 0 = true ∧
      Tab.wf regReset ((s.markOverrun b).limitOverrun b (s.bnd b).limitIn.toNat).reg.vals := by
    unfold State.limitOverrun
    split
    · exact ⟨(State.rbit_rsetBit_other hwmark _ true (by decide)).trans hset, Tab.wf_set hwmark _ _⟩
    · exact ⟨hset, hwmark⟩
  have hraise : (s.shownOverrun b).rget (Reg.cmdStepStatus b) =
      ((s.markOverrun b).limitOverrun b (s.bnd b).limitIn.toNat).rget (Reg.cmdStepStatus b) :=
    (State.raiseCovered_Sent _ b (s.bnd b).covered).regs.get hlimit.2 (cmdStepStatus_not_sent hb)
  have hreg : (s.overrun b).rget (Reg.cmdStepStatus b) = (s.shownOverrun b).rget (Reg.cmdStepStatus b) :=
    congrArg (fun r : RegFile => Tab.get regReset r.vals _) (State.overrun_reg hov)
  rw [State.rbit, hreg, hraise]
  exact hlimit.1

/-- Both counts of an overrun rise by one and saturate (R43, R503). -/
theorem State.overrun_counts :
    (s.overrun b).rfield (Reg.cmdStepOverrun b) 0 24 = min (s.rfield (Reg.cmdStepOverrun b) 0 24 + 1) (2 ^ 24 - 1) ∧
    (s.overrun b).rfield (Reg.cmdStepOverrun b) 24 8 = min (s.rfield (Reg.cmdStepOverrun b) 24 8 + 1) (2 ^ 8 - 1) := by
  have hne : Reg.cmdStepOverrun b ∉ Reg.cmdStepStatus b :: sentRegs := by
    simp only [List.mem_cons, mem_sentRegs, Reg.cmdStepStatus, Reg.cmdStepOverrun]
    omega
  have hstat : RegsOnly [Reg.cmdStepStatus b] s ((s.setBnd b { s.bnd b with overran := true }).rsetBit (Reg.cmdStepStatus b) 0 true) :=
    .rsetBit (s.setBnd b _) 0 true (by simp)
  have h0 : ∀ lo w, ((s.setBnd b { s.bnd b with overran := true }).rsetBit (Reg.cmdStepStatus b) 0 true).rfield (Reg.cmdStepOverrun b) lo w =
      s.rfield (Reg.cmdStepOverrun b) lo w := fun lo w => by rw [State.rfield, hstat.get hr (by simp)]; rfl
  have hw0 := hstat.wf hr
  have hw1 := (RegsOnly.satAdd (l := [Reg.cmdStepOverrun b]) (k := Reg.cmdStepOverrun b)
    ((s.setBnd b { s.bnd b with overran := true }).rsetBit (Reg.cmdStepStatus b) 0 true) 0 24 1 (by simp)).wf hw0
  have hw2 : Tab.wf regReset (s.markOverrun b).reg.vals := Tab.wf_set hw1 _ _
  have hlast := (State.overrun_RegsOnly hov).get hw2 hne
  simp only [State.rfield, hlast]
  constructor
  · exact ((State.rfield_satAdd_other hw1 _ 1 (by decide)).trans (State.rfield_satAdd_same hw0 _ 1 (by decide))).trans (by rw [h0]; rfl)
  · exact (State.rfield_satAdd_same hw1 _ 1 (by decide)).trans (by rw [State.rfield_satAdd_other hw0 _ 1 (by decide), h0]; rfl)

end

/-! ## Update instants (R249) -/

/-- An update instant touches of the registers only the statuses of the channels, and the converters. -/
theorem State.updateInstant_RegsOnly (s : State) (b : Nat) :
    RegsOnly ((s.chansOf b true).map Reg.cnvChStat) s (s.updateInstant b) := by
  refine RegsOnly.forAll _ (fun s h hh => ?_) s
  refine RegsOnly.trans (.of_reg ?_) (.rsetField _ 21 2 _ (List.mem_map_of_mem (List.mem_filter.mp hh).1))
  exact (OnlyChanges.forAll (L := [.cnv]) (fun _ _ h => State.setInst_Only _ _ _ (by decide) h) _ (.refl _ s)).same .reg (by decide)

theorem not_mem_cnvChStat {l : List Nat} {a : Nat} (ha : a < 0x802000) : a ∉ l.map Reg.cnvChStat := by
  simp only [List.mem_map, Reg.cnvChStat]
  omega

end Sys2Proof.Machine
end

section
namespace Sys2Proof.Machine

/-! ## When a step starts (R40, R41, R44, R45, R222) -/

section
variable {s : State} {b : Nat}

theorem State.tryStart_free (slot : Nat) (hc : s.boundaryClear b = true) (hn : (s.nextStep b).isSome = true) (hm : s.regMode b ≠ 1) :
    s.tryStart b slot = s.beginStep b := by
  unfold State.tryStart
  rw [if_pos (by simp [hc, hn]), if_neg hm]
theorem State.tryStart_locked (slot : Nat) (hc : s.boundaryClear b = true) (hn : (s.nextStep b).isSome = true) (hm : s.regMode b = 1) :
    s.tryStart b slot = s.setBnd b { s.bnd b with waitSlot := true, slotAt := BitVec.ofNat 64 slot } := by
  unfold State.tryStart
  rw [if_pos (by simp [hc, hn]), if_pos hm]

/-- The lead admits the first step after idle and tells its members (R222). -/
theorem State.stepAdmit_first (hl : s.isLead b = true) (hc : s.boundaryClear b = true) (hn : (s.nextStep b).isSome = true)
    (hw : (s.bnd b).waitSlot = false) : s.stepAdmit b =
      (s.tellStart b (.stepStart (BitVec.ofNat 6 b) (s.bnd b).step (BitVec.ofNat 64 (s.namedSlot b)))).tryStart b (s.namedSlot b) := by
  unfold State.stepAdmit
  simp only [hl, hc, hw, Option.isNone_eq_false_iff.mpr hn]
  rfl
/-- A start that waits for its slot goes at once when MODE has become free-run (R45). -/
theorem State.stepAdmit_waits (hl : s.isLead b = true) (hc : s.boundaryClear b = true) (hn : (s.nextStep b).isSome = true)
    (hw : (s.bnd b).waitSlot = true) (hm : s.regMode b = 0) : s.stepAdmit b = s.beginStep b := by
  unfold State.stepAdmit
  simp only [hl, hc, hw, Option.isNone_eq_false_iff.mpr hn, hm]
  rfl
/-- On a member a start that a boundary command held goes once nothing holds it. -/
theorem State.stepAdmit_member (hl : s.isLead b = false) (hc : s.boundaryClear b = true) (hw : (s.bnd b).waitSlot = true)
    (hm : s.regMode b = 0) : s.stepAdmit b = s.beginStep b := by
  unfold State.stepAdmit
  simp only [hl, hc, hw, hm]
  rfl

/-- A member starts on the broadcast of its lead in free-run mode, where nothing holds it. -/
theorem State.startReceipt_starts (slot : Word64) (hl : s.isLead b = false) (hv : (s.bnd b).valid = true) (hr : (s.bnd b).running = false)
    (hc : s.boundaryClear b = true) (hm : s.regMode b = 0) : s.startReceipt b slot [] = s.beginStep b := by
  have hno : s.epochsIn b [] = s := rfl
  unfold State.startReceipt
  simp only [hv, hr, hl, hno, ite_self]
  simp [hc, hm]
/-- Else it waits: for its slot, or for what holds it. -/
theorem State.startReceipt_waits (slot : Word64) (hl : s.isLead b = false) (hv : (s.bnd b).valid = true) (hr : (s.bnd b).running = false)
    (hc : s.boundaryClear b = false ∨ s.regMode b ≠ 0) :
    s.startReceipt b slot [] = s.setBnd b { s.bnd b with waitSlot := true, slotAt := slot } := by
  have hno : s.epochsIn b [] = s := rfl
  have hnot : (s.boundaryClear b && decide (s.regMode b = 0)) = false := by rcases hc with h | h <;> simp [h]
  unfold State.startReceipt
  simp only [hv, hr, hl, hno, ite_self, hnot]
  simp

/-- A broadcast that brings epochs is one that brings none after they have been set (R283). -/
theorem State.startReceipt_epochs (slot : Word64) (epochs : List (BitVec 8 × BitVec 24 × BitVec 48)) (hl : s.isLead b = false)
    (hv : (s.bnd b).valid = true) (hr : (s.bnd b).running = false) :
    s.startReceipt b slot epochs = (s.epochsIn b epochs).startReceipt b slot [] := by
  have hno : ∀ t : State, t.epochsIn b [] = t := fun _ => rfl
  unfold State.startReceipt
  simp only [hv, hr, hl, hno, ite_self]
  rfl

/-- A waiting step starts on its slot where nothing holds it (R41). -/
theorem State.lockedSlot_starts (hv : (s.bnd b).valid = true) (hr : (s.bnd b).running = false) (hm : s.regMode b = 1)
    (hw : (s.bnd b).waitSlot = true)
    (hat : (s.bnd b).slotAt.toNat ≤ (BitVec.ofNat 64 (slotAfter s.tmr.tb.toNat (s.regPhase b) (s.regPeriod b))).toNat)
    (hc : (s.setTb (slotAfter s.tmr.tb.toNat (s.regPhase b) (s.regPeriod b))).boundaryClear b = true) :
    s.lockedSlot b = (s.setTb (slotAfter s.tmr.tb.toNat (s.regPhase b) (s.regPeriod b))).beginStep b := by
  unfold State.lockedSlot
  simp only [hv, hr, hm, hw, hc]
  exact if_neg (Nat.not_lt.mpr hat)
/-- A start that a window or a quiesce holds past a slot overruns (R44). -/
theorem State.lockedSlot_held (hv : (s.bnd b).valid = true) (hr : (s.bnd b).running = false) (hm : s.regMode b = 1)
    (hw : (s.bnd b).waitSlot = true ∨ (s.nextStep b).isSome = true)
    (hat : (s.bnd b).slotAt.toNat ≤ (BitVec.ofNat 64 (slotAfter s.tmr.tb.toNat (s.regPhase b) (s.regPeriod b))).toNat)
    (hheld : (s.bnd b).windowOpen = true ∨ s.kpr.quiesce.wanted = true) :
    s.lockedSlot b = (s.setTb (slotAfter s.tmr.tb.toNat (s.regPhase b) (s.regPeriod b))).overrun b := by
  have hclear : (s.setTb (slotAfter s.tmr.tb.toNat (s.regPhase b) (s.regPeriod b))).boundaryClear b = false := by
    unfold State.boundaryClear
    rcases hheld with h | h
    · have hb : ((s.setTb (slotAfter s.tmr.tb.toNat (s.regPhase b) (s.regPeriod b))).bnd b).windowOpen = true := h
      simp [hb]
    · have hk : (s.setTb (slotAfter s.tmr.tb.toNat (s.regPhase b) (s.regPeriod b))).kpr.quiesce.wanted = true := h
      simp [hk]
  have hany : ((s.bnd b).windowOpen || s.kpr.quiesce.wanted) = true := by rcases hheld with h | h <;> simp [h]
  have hgo : ((s.bnd b).waitSlot || (s.nextStep b).isSome) = true := by rcases hw with h | h <;> simp [h]
  unfold State.lockedSlot
  simp only [hv, hr, hm, hclear, hany, Bool.true_or, Bool.true_and, hgo, Bool.and_false]
  exact if_neg (Nat.not_lt.mpr hat)
/-- A step that still runs at its slot overruns, at an update instant (R42, R249). -/
theorem State.lockedSlot_running (hv : (s.bnd b).valid = true) (hr : (s.bnd b).running = true) (hm : (s.bnd b).modeIn = 1) :
    s.lockedSlot b = ((s.setTb (slotAfter s.tmr.tb.toNat (s.bnd b).phaseIn.toNat (s.bnd b).periodIn.toNat)).overrun b).updateInstant b := by
  unfold State.lockedSlot
  simp only [hv, hr, hm]
  rfl

end

end Sys2Proof.Machine
end

section
namespace Sys2Proof.Machine

/-! ## The tables of a canonical state -/

section
variable {s : State} (h : Canon s)
include h

theorem Canon_vals : Tab.wf regReset s.reg.vals := by
  obtain ⟨-, hvals, -⟩ := h
  exact hvals
theorem Canon_bindings : Tab.wf (fun _ => Binding.empty) s.cmd.bindings := by
  obtain ⟨-, -, hbindings, -⟩ := h
  exact hbindings
theorem Canon_ctxs : Tab.wf (fun _ => Ctx.empty) s.cmd.ctxs := by
  obtain ⟨-, -, -, -, hctxs, -⟩ := h
  exact hctxs
theorem Canon_cores : Tab.wf (fun _ => Core.empty) s.core.cores := by
  obtain ⟨-, -, -, -, -, hcores, -⟩ := h
  exact hcores
theorem Canon_rings : Tab.wf (fun _ => []) s.rtr.rings := by
  obtain ⟨-, -, -, -, -, -, -, -, hrings, -⟩ := h
  exact hrings
theorem Canon_buoys : Tab.wf (fun _ => 0) s.syn.buoys := by
  obtain ⟨-, -, -, -, -, -, -, -, -, -, -, -, hbuoys, -⟩ := h
  exact hbuoys
theorem Canon_pages : Tab.wf (fun _ => RingUse.empty) s.rtr.pages := by
  obtain ⟨-, -, -, -, -, -, -, -, -, -, -, -, -, -, -, -, -, -, -, -, -, -, -, -, -, -, -, hpages, -⟩ := h
  exact hpages

end

/-! ## The first step on the lead -/

theorem Frame_of_acts {l : List Part} {s t : State} (h : OnlyChanges (.gov :: l) s t) (hg : ActsOnly s t) : Spec.Frame l s t :=
  ⟨h, fun _ => hg⟩

theorem Frame_trans {l : List Part} {s t u : State} (h : Spec.Frame l s t) (g : Spec.Frame l t u) (hl : Part.gov ∉ l) : Spec.Frame l s u :=
  ⟨h.1.trans g.1, fun _ => ActsOnly.trans (h.2 hl) (g.2 hl)⟩

theorem Frame_mono {l m : List Part} {s t : State} (h : Spec.Frame l s t) (hl : ∀ p ∈ l, p ∈ m) (hg : Part.gov ∉ l) : Spec.Frame m s t :=
  ⟨h.1.mono fun p hp => by
    rcases List.mem_cons.mp hp with rfl | hp
    · exact List.mem_cons_self
    · exact List.mem_cons_of_mem _ (hl p hp), fun _ => h.2 hg⟩

/-- A step that has started after a broadcast has started as from before it: the broadcast leaves what the start reads. -/
theorem Started_of_told {s t u : State} {b : Nat} {at' : Word64} (hb : b < 64) (h : SameBoundary b s t)
    (hreg : ∀ a, a ∉ sentRegs → t.rget a = s.rget a) (hu : Spec.Started t u b at') : Spec.Started s u b at' := by
  have hctrl : t.rget (Reg.cmdStepCtrl b) = s.rget (Reg.cmdStepCtrl b) := hreg _ (by simp only [mem_sentRegs, Reg.cmdStepCtrl]; omega)
  have hlen : t.rget (Reg.cmdStepLen b) = s.rget (Reg.cmdStepLen b) := hreg _ (by simp only [mem_sentRegs, Reg.cmdStepLen]; omega)
  have hperiod : t.rget (Reg.cmdStepLockPeriod b) = s.rget (Reg.cmdStepLockPeriod b) :=
    hreg _ (by simp only [mem_sentRegs, Reg.cmdStepLockPeriod]; omega)
  have hphase : t.rget (Reg.cmdStepLockPhase b) = s.rget (Reg.cmdStepLockPhase b) :=
    hreg _ (by simp only [mem_sentRegs, Reg.cmdStepLockPhase]; omega)
  have hphys : ∀ n ∈ s.coresOf b, t.physCore n = s.physCore n := fun n hn => by
    have hn16 := (State.mem_coresOf.mp hn).1
    rw [State.physCore, State.rfield, hreg _ (by simp only [mem_sentRegs, Reg.budLmapCore]; omega)]
    rfl
  have hstep : (t.bnd b).step = (s.bnd b).step := by rw [h.bnd]
  have hcores : t.coresOf b = s.coresOf b := by simp only [State.coresOf, h.cor]
  unfold Spec.Started at hu ⊢
  simp only [State.regMode, State.regLen, State.regPeriod, State.regPhase, State.rfield, hctrl, hlen, hperiod, hphase, hstep, hcores,
    h.ctxsOf, h.cor] at hu ⊢
  obtain ⟨hrun, hwait, hat, hnum, hover, hsig, hmode, hl, hp, hph, hlim, hctx, hcor, hother⟩ := hu
  exact ⟨hrun, hwait, hat, hnum, hover, hsig, hmode, hl, hp, hph, hlim, hctx, fun n hn => hphys n hn ▸ hcor n hn, hother⟩

end Sys2Proof.Machine
end

section
namespace Sys2Proof.Machine

/-- The units of a broadcast of the lead besides its binding. -/
abbrev broadcastParts : List Part := [.reg, .fab, .ptb, .out, .free, .eth, .irq]

/-- A broadcast changes the binding and what messages change. -/
theorem State.tellStart_Frame {s : State} (hw : Tab.wf (fun _ => Binding.empty) s.cmd.bindings) (b : Nat)
    (o : List (BitVec 8 × BitVec 24 × BitVec 48) → Out) : Spec.Frame (.cmd :: broadcastParts) s (s.tellStart b o) := by
  have htold : OnlyChanges (.gov :: .cmd :: broadcastParts) s (s.epochsTold b) := State.setBnd_Only b _ (by decide) (.refl _ s)
  refine Frame_of_acts (htold.trans ((State.tellStart_msgParts hw b o).mono (by decide))) ?_
  exact ActsOnly.trans (ActsOnly.refl s) (State.tellStart_Sent hw b o).acts

/-- In free-run mode the first step starts at once (R40, R222). -/
theorem stepAdmit_starts {s : State} {b : BitVec 6} (hcanon : Canon s) (ha : Alive s) (hx : (s.bnd b.toNat).samples = [])
    (hl : s.isLead b.toNat = true) (hc : s.boundaryClear b.toNat = true) (hn : (s.nextStep b.toNat).isSome = true)
    (hw : (s.bnd b.toNat).waitSlot = false) (hm : s.regMode b.toNat ≠ 1) :
    Spec.Run (.stepAdmit b) s ([.cmd, .core, .ltn] ++ broadcastParts) (fun u =>
      Spec.Started s u b.toNat s.tmr.tb ∧ ((s.bnd b.toNat).nDevs ≤ 1 → OnlyChanges [.cmd, .core, .ltn] s u)) := by
  have hwf := Canon_bindings hcanon
  have hr := Canon_vals hcanon
  have hfirst := State.stepAdmit_first hl hc hn hw
  generalize ho : (Out.stepStart (BitVec.ofNat 6 b.toNat) (s.bnd b.toNat).step (BitVec.ofNat 64 (s.namedSlot b.toNat))) = o at hfirst
  have hsame := State.tellStart_SameBoundary hwf b.toNat o hr
  have hreg : ∀ a, a ∉ sentRegs → (s.tellStart b.toNat o).rget a = s.rget a := fun a => State.tellStart_rget hwf b.toNat o hr
  have hmode : (s.tellStart b.toNat o).regMode b.toNat = s.regMode b.toNat := by
    rw [State.regMode, State.rfield, hreg _ (by simp only [mem_sentRegs, Reg.cmdStepCtrl]; omega)]
    rfl
  have hsamples : ((s.tellStart b.toNat o).bnd b.toNat).samples = [] := by rw [hsame.bnd]; exact hx
  rw [State.tryStart_free _ (hsame.boundaryClear.trans hc) (by rw [hsame.nextStep]; exact hn) (by rw [hmode]; exact hm)] at hfirst
  have hbegin := State.beginStep_OnlyChanges hsamples
  refine Run_of_live (f := fun s => s.stepAdmit b.toNat) ha rfl ?_ ⟨?_, fun hone => ?_⟩
  · rw [hfirst]
    exact Frame_trans (Frame_mono (State.tellStart_Frame hwf b.toNat o) (by decide) (by decide))
      (Frame_mono (Frame_of_only hbegin (by decide)) (by decide) (by decide)) (by decide)
  · rw [hfirst]
    refine Started_of_told b.isLt hsame hreg ?_
    have hstarted := State.beginStep_Started hsamples (State.tellStart_wf hwf b.toNat o) (by rw [hsame.ctxs]; exact Canon_ctxs hcanon)
      (by rw [hsame.core]; exact Canon_cores hcanon)
    rwa [hsame.tmr] at hstarted
  · rw [hfirst, State.tellStart_alone hone]
    exact State.beginStep_OnlyChanges hx

/-- In locked mode the lead names a slot, and its own first step waits for it (R41, R222). -/
theorem stepAdmit_namesSlot {s : State} {b : BitVec 6} (hcanon : Canon s) (ha : Alive s)
    (hl : s.isLead b.toNat = true) (hc : s.boundaryClear b.toNat = true) (hn : (s.nextStep b.toNat).isSome = true)
    (hw : (s.bnd b.toNat).waitSlot = false) (hm : s.regMode b.toNat = 1) :
    Spec.Run (.stepAdmit b) s (.cmd :: broadcastParts) (fun u =>
      u.bnd b.toNat = { s.bnd b.toNat with
        waitSlot := true, slotAt := BitVec.ofNat 64 (s.namedSlot b.toNat)
        epochsOut := if 1 < (s.bnd b.toNat).nDevs then [] else (s.bnd b.toNat).epochsOut } ∧
      (∀ m, m ≠ b.toNat → u.bnd m = s.bnd m) ∧ ((s.bnd b.toNat).nDevs ≤ 1 → OnlyChanges [.cmd] s u)) := by
  have hwf := Canon_bindings hcanon
  have hr := Canon_vals hcanon
  have hfirst := State.stepAdmit_first hl hc hn hw
  generalize ho : (Out.stepStart (BitVec.ofNat 6 b.toNat) (s.bnd b.toNat).step (BitVec.ofNat 64 (s.namedSlot b.toNat))) = o at hfirst
  have hsame := State.tellStart_SameBoundary hwf b.toNat o hr
  have hmode : (s.tellStart b.toNat o).regMode b.toNat = s.regMode b.toNat := by
    rw [State.regMode, State.rfield, State.tellStart_rget hwf b.toNat o hr (by simp only [mem_sentRegs, Reg.cmdStepCtrl]; omega)]
    rfl
  rw [State.tryStart_locked _ (hsame.boundaryClear.trans hc) (by rw [hsame.nextStep]; exact hn) (by rw [hmode]; exact hm)] at hfirst
  have hwf' := State.tellStart_wf hwf b.toNat o
  refine Run_of_live (f := fun s => s.stepAdmit b.toNat) ha rfl ?_ ⟨?_, fun m hmb => ?_, fun hone => ?_⟩
  · rw [hfirst]
    exact Frame_trans (State.tellStart_Frame hwf b.toNat o)
      (Frame_of_only (State.setBnd_Only (L := .cmd :: broadcastParts) _ _ (by decide) (.refl _ _)) (by decide)) (by decide)
  · rw [hfirst, State.bnd_setBnd_same hwf', State.tellStart_bnd_same hwf]
  · rw [hfirst, State.bnd_setBnd_other hwf' _ hmb, State.tellStart_bnd_other hwf _ _ hmb]
  · rw [hfirst, State.tellStart_alone hone]
    exact State.setBnd_Only _ _ (by decide) (.refl _ s)

/-- What a command that does nothing but start the step answers. -/
theorem beginStep_Run {s : State} {b : Nat} {c : Instr} {f : State → State} (hcanon : Canon s) (ha : Alive s) (hx : (s.bnd b).samples = [])
    (he : exec c s = live s f) (hf : f s = s.beginStep b) :
    Spec.Run c s [.cmd, .core, .ltn] (fun u => Spec.Started s u b s.tmr.tb) := by
  refine Run_of_live ha he ?_ ?_ <;> rw [hf]
  · exact Frame_of_only (State.beginStep_OnlyChanges hx) (by decide)
  · exact State.beginStep_Started hx (Canon_bindings hcanon) (Canon_ctxs hcanon) (Canon_cores hcanon)

/-- A member that cannot start yet keeps the slot it was told. -/
theorem startReceipt_Run {s : State} {b : BitVec 6} {slot : Word64} (hcanon : Canon s) (ha : Alive s)
    (hf : s.startReceipt b.toNat slot [] = s.setBnd b.toNat { s.bnd b.toNat with waitSlot := true, slotAt := slot }) :
    Spec.Run (.startBroadcastReceipt b slot []) s [.cmd] (fun u =>
      u.bnd b.toNat = { s.bnd b.toNat with waitSlot := true, slotAt := slot } ∧ (∀ m, m ≠ b.toNat → u.bnd m = s.bnd m)) := by
  have hwf := Canon_bindings hcanon
  refine Run_of_live (f := fun s => s.startReceipt b.toNat slot []) ha rfl ?_ ⟨?_, fun m hm => ?_⟩ <;> rw [hf]
  · exact Frame_of_only (State.setBnd_Only _ _ (by decide) (.refl _ s)) (by decide)
  · exact State.bnd_setBnd_same hwf _ _
  · exact State.bnd_setBnd_other hwf _ hm

/-- Setting the epochs that a broadcast brings does not stop the device. -/
theorem epochsIn_alive {s : State} (ha : Alive s) (b : Nat) (epochs : List (BitVec 8 × BitVec 24 × BitVec 48)) : Alive (s.epochsIn b epochs) := by
  have honly : OnlyChanges [.reg, .mem, .cmd, .core, .rtr, .eth, .gov, .irq, .out] s (s.epochsIn b epochs) :=
    State.epochsIn_Only s b epochs (by decide) (by decide) (by decide) (by decide) (by decide) (by decide) (by decide) (by decide)
      (by decide) (.refl _ s)
  exact (honly.same .dead (by decide)).trans ha

/-- What an overrun shows on its binding and in the registers of its step. -/
def OverrunShown (s u : State) (b : Nat) : Prop :=
  u.rbit (Reg.cmdStepStatus b) 0 = true ∧
  u.rfield (Reg.cmdStepOverrun b) 0 24 = min (s.rfield (Reg.cmdStepOverrun b) 0 24 + 1) (2 ^ 24 - 1) ∧
  u.rfield (Reg.cmdStepOverrun b) 24 8 = min (s.rfield (Reg.cmdStepOverrun b) 24 8 + 1) (2 ^ 8 - 1) ∧
  (u.bnd b).overran = true ∧ (u.bnd b).running = (s.bnd b).running ∧ (u.bnd b).step = (s.bnd b).step

theorem State.overrun_shown {s : State} {b : Nat} (hcanon : Canon s) (hb : b < 64) (hov : (s.bnd b).overran = false) :
    OverrunShown s (s.overrun b) b := by
  have hr := Canon_vals hcanon
  have hbnd := State.overrun_bnd (Canon_bindings hcanon) hov
  obtain ⟨hall, hrow⟩ := State.overrun_counts hr hb hov
  exact ⟨State.overrun_rbit hr hb hov, hall, hrow, by rw [hbnd], by rw [hbnd], by rw [hbnd]⟩

/-- An update instant after it changes nothing of this. -/
theorem OverrunShown.updateInstant {s u : State} {b : Nat} (hw : Tab.wf regReset u.reg.vals) (hb : b < 64) (h : OverrunShown s u b) :
    OverrunShown s (u.updateInstant b) b := by
  have hregs := State.updateInstant_RegsOnly u b
  have hstat := hregs.get hw (a := Reg.cmdStepStatus b) (not_mem_cnvChStat (by simp only [Reg.cmdStepStatus]; omega))
  have hover := hregs.get hw (a := Reg.cmdStepOverrun b) (not_mem_cnvChStat (by simp only [Reg.cmdStepOverrun]; omega))
  have hcmd : (u.updateInstant b).cmd = u.cmd :=
    (State.updateInstant_Only (L := [.reg, .cnv]) u b (by decide) (by decide) (.refl _ u)).same .cmd (by decide)
  unfold OverrunShown at h ⊢
  simp only [State.rbit, State.rfield, hstat, hover, State.bnd, hcmd] at h ⊢
  exact h

end Sys2Proof.Machine
end

section
namespace Sys2Proof.Machine

/-! ## Slots (R41-R44) -/

theorem State.setTb_OnlyChanges (s : State) (t : Nat) : OnlyChanges [.tmr] s (s.setTb t) := OnlyChanges.tmr_upd _ (by decide) (.refl _ s)

/-- At its slot a waiting step starts (R41). -/
theorem lockedSlot_starts_Run {s : State} {b : BitVec 6} {next : Nat} (hcanon : Canon s) (ha : Alive s)
    (hx : (s.bnd b.toNat).samples = []) (hf : s.lockedSlot b.toNat = (s.setTb next).beginStep b.toNat) :
    Spec.Run (.lockedSlot b) s [.cmd, .core, .ltn, .tmr] (fun u =>
      Spec.Started s u b.toNat (BitVec.ofNat 64 next) ∧ u.tmr = { s.tmr with tb := BitVec.ofNat 64 next }) := by
  have hx' : ((s.setTb next).bnd b.toNat).samples = [] := hx
  have hbegin := State.beginStep_OnlyChanges hx'
  refine Run_of_live (f := fun s => s.lockedSlot b.toNat) ha rfl ?_ ⟨?_, ?_⟩ <;> rw [hf]
  · exact Frame_of_only (((s.setTb_OnlyChanges next).mono (by decide)).trans (hbegin.mono (by decide))) (by decide)
  · exact State.beginStep_Started hx' (Canon_bindings hcanon) (Canon_ctxs hcanon) (Canon_cores hcanon)
  · exact hbegin.same .tmr (by decide)

/-- The units of an overrun. -/
theorem State.overrun_OnlyChanges (s : State) (b : Nat) : OnlyChanges [.cmd, .reg, .irq, .eth, .out] s (s.overrun b) :=
  State.overrun_Only s b (by decide) (by decide) (by decide) (by decide) (by decide) (.refl _ s)

/-- A start held past a slot counts as an overrun of the step before it (R44). -/
theorem lockedSlot_held_Run {s : State} {b : BitVec 6} {next : Nat} (hcanon : Canon s) (ha : Alive s)
    (hov : (s.bnd b.toNat).overran = false) (hf : s.lockedSlot b.toNat = (s.setTb next).overrun b.toNat) :
    Spec.Run (.lockedSlot b) s [.cmd, .reg, .irq, .eth, .out, .tmr] (fun u =>
      OverrunShown s u b.toNat ∧ u.tmr = { s.tmr with tb := BitVec.ofNat 64 next }) := by
  have hov' : ((s.setTb next).bnd b.toNat).overran = false := hov
  have hcanon' : Canon (s.setTb next) := hcanon
  have honly := (s.setTb next).overrun_OnlyChanges b.toNat
  refine Run_of_live (f := fun s => s.lockedSlot b.toNat) ha rfl ?_ ⟨?_, ?_⟩ <;> rw [hf]
  · exact Frame_of_only (((s.setTb_OnlyChanges next).mono (by decide)).trans (honly.mono (by decide))) (by decide)
  · exact State.overrun_shown hcanon' b.isLt hov'
  · exact honly.same .tmr (by decide)

/-- A step that still runs at its slot overruns (R42). -/
theorem lockedSlot_running_Run {s : State} {b : BitVec 6} (hcanon : Canon s) (ha : Alive s) (hv : (s.bnd b.toNat).valid = true)
    (hr : (s.bnd b.toNat).running = true) (hm : (s.bnd b.toNat).modeIn = 1) (hov : (s.bnd b.toNat).overran = false) :
    Spec.Run (.lockedSlot b) s [.cmd, .reg, .cnv, .irq, .eth, .out, .tmr] (fun u => OverrunShown s u b.toNat) := by
  have hf := State.lockedSlot_running hv hr hm
  generalize slotAfter s.tmr.tb.toNat (s.bnd b.toNat).phaseIn.toNat (s.bnd b.toNat).periodIn.toNat = next at hf
  have hov' : ((s.setTb next).bnd b.toNat).overran = false := hov
  have hcanon' : Canon (s.setTb next) := hcanon
  have honly : OnlyChanges [.cmd, .reg, .cnv, .irq, .eth, .out, .tmr] s ((s.setTb next).overrun b.toNat) :=
    ((s.setTb_OnlyChanges next).mono (by decide)).trans (((s.setTb next).overrun_OnlyChanges b.toNat).mono (by decide))
  have hwf : Tab.wf regReset ((s.setTb next).overrun b.toNat).reg.vals := by
    have hmark : Tab.wf regReset ((s.setTb next).markOverrun b.toNat).reg.vals :=
      Tab.wf_set (Tab.wf_set (Tab.wf_set (Canon_vals hcanon) _ _) _ _) _ _
    exact (State.overrun_RegsOnly hov').wf hmark
  refine Run_of_live (f := fun s => s.lockedSlot b.toNat) ha rfl ?_ ?_ <;> rw [hf]
  · exact Frame_of_only (State.updateInstant_Only _ _ (by decide) (by decide) honly) (by decide)
  · exact OverrunShown.updateInstant hwf b.isLt (State.overrun_shown hcanon' b.isLt hov')

/-- The start of a step on the device, on the lead, on a member and at a slot. -/
theorem stepsStart : Spec.StepsStart := by
  intro s b slot epochs
  dsimp only
  intro hcanon ha hv hx
  have hword : ∀ n, n < 2 ^ 64 → (BitVec.ofNat 64 n).toNat = n := fun n hn => by rw [BitVec.toNat_ofNat, Nat.mod_eq_of_lt hn]
  refine ⟨fun hl hc hn => ⟨?_, ?_, ?_⟩, fun hl hr => ⟨?_, ?_, ?_⟩, fun hr hm hnext hat => ⟨?_, ?_⟩, fun hr hm hov => ?_⟩
  · exact fun hw hm => stepAdmit_starts hcanon ha hx hl hc hn hw hm
  · exact fun hw hm => stepAdmit_namesSlot hcanon ha hl hc hn hw hm
  · exact fun hw hm => beginStep_Run (f := fun s => s.stepAdmit b.toNat) hcanon ha hx rfl (State.stepAdmit_waits hl hc hn hw hm)
  · intro hc hm
    exact ⟨beginStep_Run (f := fun s => s.startReceipt b.toNat slot []) hcanon ha hx rfl (State.startReceipt_starts slot hl hv hr hc hm),
      fun hw => beginStep_Run (f := fun s => s.stepAdmit b.toNat) hcanon ha hx rfl (State.stepAdmit_member hl hc hw hm)⟩
  · exact fun hc => startReceipt_Run hcanon ha (State.startReceipt_waits slot hl hv hr hc)
  · have hleft : exec (.startBroadcastReceipt b slot epochs) s = .next (s.startReceipt b.toNat slot epochs) :=
      live_alive ha fun s => s.startReceipt b.toNat slot epochs
    have hright : exec (.startBroadcastReceipt b slot []) (s.epochsIn b.toNat epochs) =
        .next ((s.epochsIn b.toNat epochs).startReceipt b.toNat slot []) :=
      live_alive (epochsIn_alive ha b.toNat epochs) fun s => s.startReceipt b.toNat slot []
    rw [hleft, hright, State.startReceipt_epochs slot epochs hl hv hr]
  · exact fun hw hc => lockedSlot_starts_Run hcanon ha hx (State.lockedSlot_starts hv hr hm hw (by rw [hword _ hnext]; exact hat) hc)
  · exact fun hov hw hheld => lockedSlot_held_Run hcanon ha hov
      (State.lockedSlot_held hv hr hm hw (by rw [hword _ hnext]; exact hat) hheld)
  · exact lockedSlot_running_Run hcanon ha hv hr hm hov

end Sys2Proof.Machine
end

section
namespace Sys2Proof.Machine

/-! ## HBM traffic (R355, R362, R424) -/

/-- The registers that counting HBM granules may change, with those of the interrupts it may raise. -/
def trafficRegs : List Nat := (List.range 4).flatMap (fun h => [Reg.hbmGrLo h, Reg.hbmStat h]) ++ sentRegs

theorem mem_trafficRegs {a : Nat} : a ∈ trafficRegs ↔ (∃ h, h < 4 ∧ (a = Reg.hbmGrLo h ∨ a = Reg.hbmStat h)) ∨ a ∈ sentRegs := by
  simp only [trafficRegs, List.mem_append, List.mem_flatMap, List.mem_range, List.mem_cons, List.not_mem_nil, or_false]

theorem hbmStack_lt (a : Nat) : hbmStack a < 4 := by
  have hmod : ∀ x : Nat, x % 128 < 2 ^ 7 := fun x => Nat.mod_lt _ (by decide)
  have hchannel : hbmChannel a < 2 ^ 7 :=
    Nat.xor_lt_two_pow (Nat.xor_lt_two_pow (Nat.xor_lt_two_pow (Nat.xor_lt_two_pow (hmod _) (hmod _)) (hmod _)) (hmod _))
      (Nat.lt_of_lt_of_le (Nat.mod_lt _ (by decide)) (by decide))
  unfold hbmStack
  omega

theorem hbmGrLo_mem (a : Nat) : Reg.hbmGrLo (hbmStack a) ∈ trafficRegs := mem_trafficRegs.mpr (.inl ⟨_, hbmStack_lt a, .inl rfl⟩)
theorem hbmStat_mem (a : Nat) : Reg.hbmStat (hbmStack a) ∈ trafficRegs := mem_trafficRegs.mpr (.inl ⟨_, hbmStack_lt a, .inr rfl⟩)

/-- One granule counted. -/
def State.granule (s : State) (wr : Bool) (g : Nat) : State :=
  let t := s.unitActs 1 (if wr then 1 else 0) 1
  let u := t.longWrap (Reg.hbmGrLo (hbmStack g)) 1
  if u.2 then (u.1.rsetBit (Reg.hbmStat (hbmStack g)) 2 true).raise (21 + hbmStack g) else u.1

theorem State.countGranules_eq (s : State) (wr : Bool) (a n : Nat) : s.countGranules wr a n = if n = 0 then s else
    s.forAll ((List.range ((a % 64 + n + 63) / 64)).map (fun i => a / 64 * 64 + 64 * i)) (fun s g => s.granule wr g) := rfl

theorem State.granule_Acts (s : State) (wr : Bool) (g : Nat) : ActsOnly s (s.granule wr g) :=
  .ite (fun _ => .trans (t := (((s.unitActs 1 (if wr then 1 else 0) 1).longWrap (Reg.hbmGrLo (hbmStack g)) 1).1.rsetBit
    (Reg.hbmStat (hbmStack g)) 2 true)) (ActsOnly.unitActs s _ _ _) (State.raise_Sent _ _).acts) fun _ => ActsOnly.unitActs s _ _ _

theorem State.granule_Regs (s : State) (wr : Bool) (g : Nat) : RegsOnly trafficRegs s (s.granule wr g) := by
  have hacts : RegsOnly trafficRegs s (s.unitActs 1 (if wr then 1 else 0) 1) := .of_reg rfl
  have hcount := hacts.trans (.longWrap _ 1 (hbmGrLo_mem g))
  exact .ite (fun _ => hcount.trans ((RegsOnly.rsetBit _ 2 true (hbmStat_mem g)).trans
    ((State.raise_Sent _ _).regs.mono fun _ h => mem_trafficRegs.mpr (.inr h)))) fun _ => hcount

theorem State.countGranules_Acts (s : State) (wr : Bool) (a n : Nat) : ActsOnly s (s.countGranules wr a n) := by
  rw [State.countGranules_eq]
  exact .ite (fun _ => .refl s) fun _ => .forAll (fun s g => s.granule_Acts wr g) _ s
theorem State.countGranules_Regs (s : State) (wr : Bool) (a n : Nat) : RegsOnly trafficRegs s (s.countGranules wr a n) := by
  rw [State.countGranules_eq]
  exact .ite (fun _ => .refl _ s) fun _ => .forAll _ (fun s g _ => s.granule_Regs wr g) s

theorem State.moved_Acts (s : State) (wr : Bool) (a n : Nat) : ActsOnly s (s.moved wr a n) :=
  .ite (fun _ => s.countGranules_Acts wr _ n) fun _ => .refl s
theorem State.moved_Regs (s : State) (wr : Bool) (a n : Nat) : RegsOnly trafficRegs s (s.moved wr a n) :=
  .ite (fun _ => s.countGranules_Regs wr _ n) fun _ => .refl _ s
theorem State.moved_mem (s : State) (wr : Bool) (a n : Nat) : (s.moved wr a n).mem = s.mem :=
  (State.moved_Only (L := [.reg, .eth, .gov, .irq, .out]) s wr a n (by decide) (by decide) (by decide) (by decide) (by decide)
    (.refl _ s)).same .mem (by decide)

/-! ## Pages written (R346) -/

namespace SameBytes

theorem refl (s : State) : Spec.SameBytes s s := ⟨rfl, fun _ h => h⟩
theorem of_mem {s t : State} (h : t.mem = s.mem) : Spec.SameBytes s t := by
  unfold Spec.SameBytes
  rw [h]
  exact ⟨rfl, fun _ h => h⟩
theorem trans {s t u : State} (h : Spec.SameBytes s t) (g : Spec.SameBytes t u) : Spec.SameBytes s u :=
  ⟨by rw [g.1, h.1], fun w hw => h.2 w (g.2 w hw)⟩

end SameBytes

/-- What a written page changes: errors of words, the activity counts and the traffic counts. -/
structure Paged (s t : State) : Prop where
  acts : ActsOnly s t
  regs : RegsOnly trafficRegs s t
  mem  : Spec.SameBytes s t
  core : t.core = s.core

namespace Paged
variable {s t u : State}
theorem refl (s : State) : Paged s s := ⟨.refl s, .refl _ s, SameBytes.refl s, rfl⟩
theorem trans (h : Paged s t) (g : Paged t u) : Paged s u :=
  ⟨h.acts.trans g.acts, h.regs.trans g.regs, SameBytes.trans h.mem g.mem, g.core.trans h.core⟩
theorem forAll {α : Type} {f : State → α → State} (hf : ∀ s x, Paged s (f s x)) (xs : List α) (s : State) : Paged s (s.forAll xs f) := by
  induction xs generalizing s with
  | nil => exact refl s
  | cons x r ih => exact (hf s x).trans (ih (f s x))
end Paged

theorem State.pageWrite_Paged (s : State) (a n : Nat) : Paged s (s.pageWrite a n) := by
  refine ⟨?_, ?_, ⟨?_, ?_⟩, ?_⟩
  · exact .trans (ActsOnly.refl s) (State.moved_Acts _ true a n)
  · exact .trans (t := { s with mem := { s.mem with bad := s.mem.bad.filter (fun w => !(decide (a ≤ w * 8) && decide (w * 8 + 8 ≤ a + n))) } })
      (.of_reg rfl) (State.moved_Regs _ true a n)
  · rw [State.pageWrite, State.moved_mem]
  · rw [State.pageWrite, State.moved_mem]
    exact fun w hw => (List.mem_filter.mp hw).1
  · exact (State.pageWrite_Only (L := [.reg, .mem, .eth, .gov, .irq, .out]) s a n (by decide) (by decide) (by decide) (by decide)
      (by decide) (by decide) (.refl _ s)).same .core (by decide)

/-! ## The spill of an inbox (R219) -/

/-- The registers that a spill of an inbox may change. -/
def spillRegs (n : Nat) : List Nat := [Reg.coreInbSpill n, Reg.coreRteStatus n, Reg.fabRtrSpillPeak] ++ trafficRegs

/-- The bytes that an inbox of `bytes` spills are counted. -/
def State.spillCounted (s : State) (n bytes : Nat) : State :=
  (s.count (Reg.coreInbSpill n) (bytes - 3080192)).rsetBit (Reg.coreRteStatus n) 2 true
/-- The pages that an inbox of `bytes` spills to. -/
def State.spillTo (s : State) (n bytes : Nat) : List Nat := (s.spillCounted n bytes).freePages 2048 ((bytes - 3080192 + 4095) / 4096)
/-- These pages are noted. -/
def State.spillNoted (s : State) (n bytes : Nat) : State :=
  ((s.spillCounted n bytes).setCor n { s.cor n with spilled := s.spillTo n bytes }).spillPeak

theorem State.inboxSpill_small (s : State) {n bytes : Nat} (h : bytes ≤ 3080192) : s.inboxSpill n bytes = s := if_pos h
theorem State.inboxSpill_large (s : State) {n bytes : Nat} (h : ¬ bytes ≤ 3080192) : s.inboxSpill n bytes =
    (s.spillNoted n bytes).forAll ((s.spillNoted n bytes).cor n).spilled (fun s p => s.pageWrite (pageAddr p) 4096) := if_neg h

theorem State.spillPeak_RegsOnly (s : State) {l : List Nat} (h : Reg.fabRtrSpillPeak ∈ l) : RegsOnly l s s.spillPeak :=
  .ite (fun _ => .maxReg s s.spillUsed h) fun _ => .refl _ s
theorem State.spillPeak_regOnly (s : State) : OnlyChanges [.reg] s s.spillPeak := State.spillPeak_Only s (by decide) (.refl _ s)

theorem State.spillNoted_Regs (s : State) (n bytes : Nat) : RegsOnly (spillRegs n) s (s.spillNoted n bytes) := by
  have hcount : RegsOnly (spillRegs n) s (s.count (Reg.coreInbSpill n) (bytes - 3080192)) := .count s _ (by simp [spillRegs])
  have hcounted : RegsOnly (spillRegs n) s (s.spillCounted n bytes) := hcount.trans (.rsetBit _ 2 true (by simp [spillRegs]))
  have hcor : RegsOnly (spillRegs n) (s.spillCounted n bytes)
    ((s.spillCounted n bytes).setCor n { s.cor n with spilled := s.spillTo n bytes }) := .of_reg rfl
  exact hcounted.trans (hcor.trans (State.spillPeak_RegsOnly _ (by simp [spillRegs])))

theorem State.spillNoted_core (s : State) (n bytes : Nat) :
    (s.spillNoted n bytes).core = (s.setCor n { s.cor n with spilled := s.spillTo n bytes }).core :=
  (State.spillPeak_regOnly _).same .core (by decide)

theorem State.spillNoted_Only (s : State) (n bytes : Nat) : OnlyChanges [.reg, .core] s (s.spillNoted n bytes) :=
  State.spillPeak_Only _ (by decide) (State.setCor_Only _ _ (by decide) (State.rsetBit_Only _ _ _ _ (by decide)
    (State.count_Only _ _ _ (by decide) (.refl _ s))))

/-- What the spill of an inbox of `bytes` changes: of the cores the pages that this one's inbox lies in. -/
structure Spilled (n bytes : Nat) (s t : State) : Prop where
  acts : ActsOnly s t
  regs : RegsOnly (spillRegs n) s t
  mem  : Spec.SameBytes s t
  same : bytes ≤ 3080192 → t.mem = s.mem
  core : ∃ sp, t.core = (s.setCor n { s.cor n with spilled := sp }).core ∧ (bytes ≤ 3080192 → sp = (s.cor n).spilled)

theorem State.inboxSpill_Spilled {s : State} (hw : Tab.wf (fun _ => Core.empty) s.core.cores) (n bytes : Nat) :
    Spilled n bytes s (s.inboxSpill n bytes) := by
  by_cases h : bytes ≤ 3080192
  · rw [State.inboxSpill_small s h]
    refine ⟨.refl s, .refl _ s, SameBytes.refl s, fun _ => rfl, (s.cor n).spilled, ?_, fun _ => rfl⟩
    exact congrArg (fun c => { s.core with cores := c }) (Tab.set_get hw n).symm
  · rw [State.inboxSpill_large s h]
    have hnoted := s.spillNoted_Only n bytes
    have hpages := Paged.forAll (fun s p => s.pageWrite_Paged (pageAddr p) 4096) ((s.spillNoted n bytes).cor n).spilled (s.spillNoted n bytes)
    refine ⟨(ActsOnly.of_only hnoted (by decide)).trans hpages.acts, ?_, ?_, fun hle => absurd hle h, s.spillTo n bytes, ?_,
      fun hle => absurd hle h⟩
    · exact (s.spillNoted_Regs n bytes).trans (hpages.regs.mono fun _ ha => List.mem_append_right _ ha)
    · exact SameBytes.trans (SameBytes.of_mem (hnoted.same .mem (by decide))) hpages.mem
    · exact hpages.core.trans (s.spillNoted_core n bytes)

end Sys2Proof.Machine
end

section
namespace Sys2Proof.Machine

/-! ## The context with a context index (R26) -/

/-- Writing an entry that stands in a table changes that entry alone. -/
theorem Tab.set_eq_map {α : Type} [DecidableEq α] {d : Nat → α} {t : Tab α} (h : Tab.wf d t) {p : Nat × α} (hp : p ∈ t) {v : α}
    (hv : v ≠ d p.1) : Tab.set d t p.1 v = t.map (fun q => if q.1 = p.1 then (q.1, v) else q) := by
  induction t with
  | nil => exact absurd hp List.not_mem_nil
  | cons q r ih =>
    have hlt := (List.pairwise_cons.mp h.1).1
    rw [List.map_cons]
    rcases List.mem_cons.mp hp with rfl | hp
    · have hrest : r.map (fun q => if q.1 = p.1 then (q.1, v) else q) = r :=
        (List.map_congr_left (g := id) fun q hq => if_neg (Nat.ne_of_gt (hlt q hq))).trans (List.map_id r)
      rw [Tab.set, if_neg (by omega), if_pos rfl, if_neg hv, if_pos rfl, hrest]
    · have hq := hlt p hp
      rw [Tab.set, if_neg (by omega), if_neg (by omega), if_neg (by omega), ih (Tab.wf_tail h) hp]

theorem find_insertCidx (x : Nat) (y : Nat × Ctx) (l : List (Nat × Ctx)) :
    (insertCidx y l).find? (fun p => p.2.cidx.toNat = x) = (y :: l).find? (fun p => p.2.cidx.toNat = x) := by
  induction l with
  | nil => rfl
  | cons z r ih =>
    unfold insertCidx
    split
    · rfl
    next hlt =>
      by_cases hz : z.2.cidx.toNat = x
      · have hy : y.2.cidx.toNat ≠ x := by omega
        simp [hz, hy]
      · by_cases hy : y.2.cidx.toNat = x <;> simp [hz, hy, ih]

/-- The first context of the table that has the index. -/
theorem State.ctxByIdx_eq (s : State) (b x : Nat) : s.ctxByIdx b x =
    (s.cmd.ctxs.filter (fun p => p.2.valid && p.2.binding.toNat = b)).find? (fun p => p.2.cidx.toNat = x) := by
  unfold State.ctxByIdx State.ctxsOf
  generalize s.cmd.ctxs.filter (fun p => p.2.valid && p.2.binding.toNat = b) = l
  induction l with
  | nil => rfl
  | cons y r ih =>
    rw [List.foldr_cons, find_insertCidx, List.find?_cons, List.find?_cons, ih]

theorem State.ctxByIdx_congr {s t : State} (h : t.cmd.ctxs = s.cmd.ctxs) (b x : Nat) : t.ctxByIdx b x = s.ctxByIdx b x := by
  simp only [State.ctxByIdx, State.ctxsOf, h]

theorem State.ctxByIdx_some {s : State} {b x : Nat} {p : Nat × Ctx} (h : s.ctxByIdx b x = some p) :
    p ∈ s.ctxsOf b ∧ p.2.cidx.toNat = x := by
  have hx := List.find?_some h
  exact ⟨List.mem_of_find?_eq_some h, by simpa using hx⟩

/-- A write to a context of the binding that keeps whose it is and its index changes what is found at that context alone. -/
theorem State.ctxByIdx_setCtx {s : State} (hw : Tab.wf (fun _ => Ctx.empty) s.cmd.ctxs) {b : Nat} {q : Nat × Ctx} (hq : q ∈ s.ctxsOf b)
    {v : Ctx} (hv : v.valid = q.2.valid) (hb : v.binding = q.2.binding) (hc : v.cidx = q.2.cidx) (x : Nat) :
    (s.setCtx q.1 v).ctxByIdx b x = (s.ctxByIdx b x).map (fun p => if p.1 = q.1 then (p.1, v) else p) := by
  obtain ⟨hmem, hvalid, -⟩ := State.mem_ctxsOf.mp hq
  have hne : v ≠ Ctx.empty := fun h => by rw [h, hvalid] at hv; exact absurd hv (by decide)
  have hval : ∀ p ∈ s.cmd.ctxs, p.1 = q.1 → p.2 = q.2 := fun p hp he => by
    rw [← Tab.get_of_mem hw hp, he, Tab.get_of_mem hw hmem]
  have hset : (s.setCtx q.1 v).cmd.ctxs = s.cmd.ctxs.map (fun p => if p.1 = q.1 then (p.1, v) else p) := Tab.set_eq_map hw hmem hne
  rw [State.ctxByIdx_eq, State.ctxByIdx_eq, hset, List.find?_filter, List.find?_filter, List.find?_map]
  congr 1
  refine List.find?_congr fun p hp => ?_
  by_cases he : p.1 = q.1
  · simp only [Function.comp, if_pos he, hv, hb, hc, hval p hp he]
  · simp only [Function.comp, if_neg he]

/-! ## Records withheld at a drain (R217) -/

/-- The record of an event on core `n`. -/
def Ev.heldAt (e : Ev) (n delay : Nat) : HeldRec := ⟨BitVec.ofNat 10 n, e.matrix, e.row, e.cnt, delay⟩

/-- A context with records added to its held list. -/
def Ctx.holds (c : Ctx) (l : List HeldRec) : Ctx := { c with held := c.held ++ l }

theorem Ctx.holds_nil (c : Ctx) : c.holds [] = c := by simp only [Ctx.holds, List.append_nil]
theorem Ctx.holds_append (c : Ctx) (l m : List HeldRec) : (c.holds l).holds m = c.holds (l ++ m) := by
  simp only [Ctx.holds, List.append_assoc]

theorem State.withhold_fixed (s : State) (b n : Nat) {e : Ev} (delay : Nat) (h : e.fixed = true) :
    s.withhold b n e delay = s.count (Reg.cmdStepParkdrop b) 1 := if_pos h
theorem State.withhold_none {s : State} {b : Nat} (n : Nat) {e : Ev} (delay : Nat) (h : e.fixed = false)
    (hi : s.ctxByIdx b e.cidx = none) : s.withhold b n e delay = s := by
  simp only [State.withhold, h, hi]
  rfl
theorem State.withhold_some {s : State} (hw : Tab.wf (fun _ => Ctx.empty) s.cmd.ctxs) {b : Nat} (n : Nat) {e : Ev} (delay : Nat)
    (h : e.fixed = false) {q : Nat × Ctx} (hi : s.ctxByIdx b e.cidx = some q) :
    s.withhold b n e delay = s.setCtx q.1 (q.2.holds [e.heldAt n delay]) := by
  simp only [State.withhold, h, hi, State.holdRec, State.ctx_of_mem_ctxsOf hw (State.ctxByIdx_some hi).1]
  rfl

theorem State.withhold_wf {s : State} (hw : Tab.wf (fun _ => Ctx.empty) s.cmd.ctxs) (b n : Nat) (e : Ev) (delay : Nat) :
    Tab.wf (fun _ => Ctx.empty) (s.withhold b n e delay).cmd.ctxs := by
  cases hf : e.fixed with
  | true => rwa [State.withhold_fixed s b n delay hf]
  | false =>
    cases hi : s.ctxByIdx b e.cidx with
    | none => rwa [State.withhold_none n delay hf hi]
    | some q =>
      rw [State.withhold_some hw n delay hf hi]
      exact Tab.wf_set hw _ _

/-- One record withheld: the context it is for has it, the others are as before. -/
theorem State.withhold_ctxByIdx {s : State} (hw : Tab.wf (fun _ => Ctx.empty) s.cmd.ctxs) (b n : Nat) (e : Ev) (delay : Nat) {x : Nat}
    {p : Nat × Ctx} (hp : s.ctxByIdx b x = some p) : (s.withhold b n e delay).ctxByIdx b x =
      some (p.1, p.2.holds (if e.fixed = false ∧ e.cidx = x then [e.heldAt n delay] else [])) := by
  cases hf : e.fixed with
  | true =>
    rw [State.withhold_fixed s b n delay hf, if_neg (by simp), Ctx.holds_nil]
    exact hp
  | false =>
    cases hi : s.ctxByIdx b e.cidx with
    | none =>
      have hne : e.cidx ≠ x := fun he => by rw [he, hp] at hi; exact absurd hi (by simp)
      rw [State.withhold_none n delay hf hi, if_neg (by simp [hne]), Ctx.holds_nil]
      exact hp
    | some q =>
      obtain ⟨hq, hqx⟩ := State.ctxByIdx_some hi
      obtain ⟨hpm, hpx⟩ := State.ctxByIdx_some hp
      rw [State.withhold_some hw n delay hf hi, State.ctxByIdx_setCtx hw hq (by simp only [Ctx.holds]) (by simp only [Ctx.holds])
        (by simp only [Ctx.holds]), hp, Option.map_some]
      by_cases he : e.cidx = x
      · have hpq : p = q := by
          rw [he, hp] at hi
          exact Option.some.inj hi
        simp [he, hpq]
      · have hpq : p.1 ≠ q.1 := fun h1 => by
          have hval : p.2 = q.2 := by rw [← State.ctx_of_mem_ctxsOf hw hpm, h1, State.ctx_of_mem_ctxsOf hw hq]
          rw [hval, hqx] at hpx
          exact he hpx
        simp [he, hpq, Ctx.holds_nil]

/-- The records of a drain that are withheld. -/
def State.withholdAll (s : State) (b n : Nat) (l : List Ev) : State := s.forAll l (fun s e => s.withhold b n e 0)

theorem State.withholdAll_ctxByIdx {s : State} (hw : Tab.wf (fun _ => Ctx.empty) s.cmd.ctxs) (b n : Nat) (l : List Ev) {x : Nat}
    {p : Nat × Ctx} (hp : s.ctxByIdx b x = some p) : (s.withholdAll b n l).ctxByIdx b x =
      some (p.1, p.2.holds ((l.filter (fun e => !e.fixed && decide (e.cidx = x))).map (fun e => e.heldAt n 0))) ∧
      Tab.wf (fun _ => Ctx.empty) (s.withholdAll b n l).cmd.ctxs := by
  induction l generalizing s p with
  | nil => exact ⟨by rw [List.filter_nil, List.map_nil, Ctx.holds_nil]; exact hp, hw⟩
  | cons e r ih =>
    obtain ⟨hfind, hwf⟩ := ih (State.withhold_wf hw b n e 0) (State.withhold_ctxByIdx hw b n e 0 hp)
    refine ⟨hfind.trans ?_, hwf⟩
    rw [Ctx.holds_append]
    cases hf : e.fixed <;> by_cases he : e.cidx = x <;> simp [hf, he]

/-- One record withheld changes no binding, and of the registers only the count of dropped ones. -/
theorem State.withhold_kept (s : State) (b n : Nat) (e : Ev) (delay : Nat) :
    RegsOnly [Reg.cmdStepParkdrop b] s (s.withhold b n e delay) ∧ (s.withhold b n e delay).cmd.bindings = s.cmd.bindings := by
  unfold State.withhold
  split
  · exact ⟨.count s 1 (by simp), rfl⟩
  · split <;> exact ⟨.of_reg rfl, rfl⟩

theorem State.withholdAll_Regs (s : State) (b n : Nat) (l : List Ev) : RegsOnly [Reg.cmdStepParkdrop b] s (s.withholdAll b n l) :=
  RegsOnly.forAll l (fun s e _ => (s.withhold_kept b n e 0).1) s

theorem State.withholdAll_Only (s : State) (b n : Nat) (l : List Ev) : OnlyChanges [.reg, .cmd] s (s.withholdAll b n l) :=
  OnlyChanges.forAll (fun _ _ h => State.withhold_Only _ _ _ _ _ (by decide) (by decide) h) l (.refl _ s)

theorem State.withholdAll_bindings (s : State) (b n : Nat) (l : List Ev) : (s.withholdAll b n l).cmd.bindings = s.cmd.bindings := by
  induction l generalizing s with
  | nil => rfl
  | cons e r ih => exact (ih _).trans (s.withhold_kept b n e 0).2

end Sys2Proof.Machine
end

section
namespace Sys2Proof.Machine

/-! ## The drain of a bucket (R216, R220) -/

/-- The binding of a core after a drain counted what it lost. -/
theorem State.drainRuns_cases (s : State) (n k : Nat) : (s.drainRuns n k).2 = s ∨ ∃ lost,
    (s.drainRuns n k).2 = ((s.count Reg.fabRtrEcc lost).rsetBit Reg.fabRtrStatus 0 true).stepStatus (s.cor n).binding.toNat St.eccFatal := by
  simp only [State.drainRuns]
  split
  · exact .inl rfl
  · exact .inr ⟨_, rfl⟩

/-- What a drain leaves: the contexts, the step number of every binding, and all registers but those of the router's errors. -/
theorem State.drainRuns_kept {s : State} (hw : Tab.wf (fun _ => Binding.empty) s.cmd.bindings) (n k : Nat) :
    (s.drainRuns n k).2.cmd.ctxs = s.cmd.ctxs ∧ (∀ b, ((s.drainRuns n k).2.bnd b).step = (s.bnd b).step) ∧
    RegsOnly [Reg.fabRtrEcc, Reg.fabRtrStatus] s (s.drainRuns n k).2 := by
  rcases s.drainRuns_cases n k with h | ⟨lost, h⟩ <;> rw [h]
  · exact ⟨rfl, fun _ => rfl, .refl _ s⟩
  · generalize (s.cor n).binding.toNat = c
    refine ⟨State.stepStatus_ctxs (s := (s.count _ _).rsetBit _ _ _) hw c _, fun b => ?_, ?_⟩
    · by_cases hb : b = c
      · rw [hb, State.bnd_stepStatus_same (s := (s.count _ _).rsetBit _ _ _) hw, Binding.tookStatus_eq]
        rfl
      · rw [State.bnd_stepStatus_other (s := (s.count _ _).rsetBit _ _ _) hw _ hb]
        rfl
    · have hcount : RegsOnly [Reg.fabRtrEcc, Reg.fabRtrStatus] s (s.count Reg.fabRtrEcc lost) := .count s _ (by simp)
      exact hcount.trans ((RegsOnly.rsetBit _ 0 true (by simp)).trans (.of_reg (State.stepStatus_reg _ _ _)))

/-- The bucket drains: it is empty, its pages are free, and the core's inbox fills. -/
def State.drained (s : State) (n k : Nat) : State :=
  let t := ((s.drainRuns n k).2.setRing n k []).setPages n k RingUse.empty
  { t with rtr := { t.rtr with draining := insertNat n t.rtr.draining } }

theorem mem_insertNat (x : Nat) (l : List Nat) : x ∈ insertNat x l := by
  induction l with
  | nil => simp [insertNat]
  | cons y r ih =>
    unfold insertNat
    split
    · simp
    · split
      · simp [*]
      · simp [ih]

theorem State.drained_Only (s : State) (n k : Nat) : OnlyChanges [.reg, .cmd, .rtr] s (s.drained n k) :=
  OnlyChanges.rtr_upd _ (by decide) (State.setPages_Only _ _ _ (by decide) (State.setRing_Only _ _ _ (by decide)
    (State.drainRuns_Only s n k (by decide) (by decide) (.refl _ s))))

theorem State.drained_rtr (s : State) (n k : Nat) : (s.drained n k).rtr = { s.rtr with
    rings := Tab.set (fun _ => []) s.rtr.rings (n * 64 + k) [], pages := Tab.set (fun _ => RingUse.empty) s.rtr.pages (n * 64 + k) RingUse.empty
    draining := insertNat n s.rtr.draining } := by
  have h : (s.drainRuns n k).2.rtr = s.rtr :=
    (State.drainRuns_Only (L := [.reg, .cmd]) s n k (by decide) (by decide) (.refl _ s)).same .rtr (by decide)
  simp only [State.drained, State.setRing, State.setPages, h]

/-! ## START at a core (R32, R216) -/

/-- The events of a drain that reach the inbox, those with CNT 0 still among them. -/
def State.started (s : State) (b n k : Nat) : List Ev := (s.drainRuns n k).1.filter (fun e => !s.withheld b e)
/-- The events of a drain that are withheld. -/
def State.parked (s : State) (b n k : Nat) : List Ev := (s.drainRuns n k).1.filter (fun e => s.withheld b e)

/-- The bucket has drained and its records for parked or gated contexts have been withheld. -/
def State.sifted (s : State) (b n k : Nat) : State := (s.drained n k).withholdAll b n (s.parked b n k)

/-- The other records have been counted. -/
def State.counted (s : State) (b n k : Nat) : State :=
  let go := s.started b n k
  ((s.sifted b n k).count (Reg.coreInbBadrec n)
    (go.length - (go.filter (fun e => e.cnt ≠ 0)).length)).maxReg (Reg.coreInbPeak n) (min (runBytes go) 3080192)

/-- A core that begins phase 1 of a step. -/
def Core.integrates (c : Core) (inbox : List Ev) : Core :=
  { c with phase := .integrate, inbox := inbox, windows := [], acc := [], adds := [], fired := [], firing := [], slot := 0, pos := 0 }
/-- A frozen core, done in every step. -/
def Core.idles (c : Core) : Core := { c with phase := .done, inbox := [] }

/-- Phase 1 of the core that was `c` at START of step `t` begins or waits. -/
def State.phase1Starts (s : State) (n t : Nat) (c : Core) (inbox : List Ev) : State :=
  let v := s.setCor n ((s.cor n).integrates inbox)
  (if c.berthsWait t then v.countFree (Reg.coreSynBerthwait n) else v).phase1Try n

theorem State.drained_withheld {s : State} (hw : Tab.wf (fun _ => Binding.empty) s.cmd.bindings) (b n k : Nat) :
    (s.drained n k).withheld b = s.withheld b := by
  funext e
  have hctxs : (s.drained n k).cmd.ctxs = s.cmd.ctxs := (State.drainRuns_kept hw n k).1
  simp only [State.withheld, State.ctxByIdx_congr hctxs]

/-- START of a running step at an idle core. -/
theorem State.stepStart_eq {s : State} (hw : Tab.wf (fun _ => Binding.empty) s.cmd.bindings) {n b t k : Nat}
    (hc : (s.cor n).bound = true) (hb : (s.cor n).binding.toNat = b) (hr : (s.bnd b).running = true) (hp : (s.cor n).phase = .idle)
    (hn : s.corePresent n = true) (ht : (s.bnd b).step.toNat = t) (hk : t % 64 = k) : s.stepStart n =
      if (s.cor n).frozen = true then
        ((s.counted b n k).inboxSpill n (runBytes (s.started b n k))).setCor n
          (((s.counted b n k).inboxSpill n (runBytes (s.started b n k))).cor n).idles
      else ((s.counted b n k).inboxSpill n (runBytes (s.started b n k))).phase1Starts n t (s.cor n)
        ((s.started b n k).filter (fun e => e.cnt ≠ 0)) := by
  subst hb ht hk
  have hgo : ¬ (!(s.cor n).bound || !(s.bnd (s.cor n).binding.toNat).running || decide ((s.cor n).phase ≠ .idle) || !s.corePresent n) = true := by
    simp [hc, hr, hp, hn]
  have hheld := State.drained_withheld hw (s.cor n).binding.toNat n ((s.bnd (s.cor n).binding.toNat).step.toNat % 64)
  unfold State.counted State.sifted State.started State.parked
  rw [← hheld]
  exact if_neg hgo

end Sys2Proof.Machine
end

section
namespace Sys2Proof.Machine

/-! ## What has changed before phase 1 (R216, R217, R199, R219) -/

/-- The registers that START changes before phase 1 of its core. -/
def receivedRegs (b n : Nat) : List Nat :=
  [Reg.fabRtrEcc, Reg.fabRtrStatus, Reg.cmdStepParkdrop b, Reg.coreInbBadrec n, Reg.coreInbPeak n] ++ spillRegs n

/-- The inbox of the core has received the drain. -/
def State.received (s : State) (b n k : Nat) : State := (s.counted b n k).inboxSpill n (runBytes (s.started b n k))

theorem State.drained_reg (s : State) (n k : Nat) : (s.drained n k).reg = (s.drainRuns n k).2.reg := by
  simp only [State.drained, State.setRing, State.setPages]

section
variable {s : State} (b n k : Nat)

theorem State.counted_Only : OnlyChanges [.reg, .cmd, .rtr] s (s.counted b n k) :=
  State.maxReg_Only _ _ _ (by decide) (State.count_Only _ _ _ (by decide)
    ((s.drained_Only n k).trans ((State.withholdAll_Only _ b n _).mono (by decide))))

theorem State.counted_rtr : (s.counted b n k).rtr = (s.drained n k).rtr :=
  (State.withholdAll_Only (s.drained n k) b n (s.parked b n k)).same .rtr (by decide)

theorem State.counted_core : (s.counted b n k).core = s.core := (State.counted_Only b n k).same .core (by decide)

theorem State.received_Only :
    OnlyChanges [.reg, .cmd, .rtr, .mem, .core, .eth, .gov, .irq, .out] s (s.received b n k) :=
  State.inboxSpill_Only _ _ _ (by decide) (by decide) (by decide) (by decide) (by decide) (by decide) (by decide)
    ((State.counted_Only b n k).mono (by decide))

theorem State.received_rtr : (s.received b n k).rtr = (s.drained n k).rtr :=
  ((State.inboxSpill_Only (L := [.reg, .mem, .core, .eth, .gov, .irq, .out]) _ _ _ (by decide) (by decide) (by decide) (by decide) (by decide)
    (by decide) (by decide) (.refl _ (s.counted b n k))).same .rtr (by decide)).trans (State.counted_rtr b n k)

theorem State.received_cmd : (s.received b n k).cmd = (s.sifted b n k).cmd :=
  (State.inboxSpill_Only (L := [.reg, .mem, .core, .eth, .gov, .irq, .out]) _ _ _ (by decide) (by decide) (by decide) (by decide) (by decide)
    (by decide) (by decide) (.refl _ (s.counted b n k))).same .cmd (by decide)

variable (hcanon : Canon s)
include hcanon

theorem State.received_Spilled : Spilled n (runBytes (s.started b n k)) (s.counted b n k) (s.received b n k) :=
  State.inboxSpill_Spilled (by rw [State.counted_core]; exact Canon_cores hcanon) n _

theorem State.received_Acts : ActsOnly s (s.received b n k) :=
  (ActsOnly.of_only (State.counted_Only b n k) (by decide)).trans (State.received_Spilled b n k hcanon).acts

theorem State.received_mem : Spec.SameBytes s (s.received b n k) ∧
    (runBytes (s.started b n k) ≤ 3080192 → (s.received b n k).mem = s.mem) := by
  have hcounted : (s.counted b n k).mem = s.mem := (State.counted_Only b n k).same .mem (by decide)
  have hspilled := State.received_Spilled b n k hcanon
  exact ⟨SameBytes.trans (SameBytes.of_mem hcounted) hspilled.mem, fun h => (hspilled.same h).trans hcounted⟩

theorem State.received_core : ∃ sp, (s.received b n k).core = (s.setCor n { s.cor n with spilled := sp }).core ∧
    (runBytes (s.started b n k) ≤ 3080192 → sp = (s.cor n).spilled) := by
  obtain ⟨sp, hcore, hsp⟩ := (State.received_Spilled b n k hcanon).core
  have hcounted := State.counted_core (s := s) b n k
  refine ⟨sp, ?_, fun h => ?_⟩
  · simpa only [State.setCor, State.cor, hcounted] using hcore
  · simpa only [State.cor, hcounted] using hsp h

theorem State.received_step (m : Nat) : ((s.received b n k).bnd m).step = (s.bnd m).step := by
  have hbindings : (s.received b n k).cmd.bindings = (s.drained n k).cmd.bindings := by
    rw [State.received_cmd, State.sifted, State.withholdAll_bindings]
  have hstep := (State.drainRuns_kept (Canon_bindings hcanon) n k).2.1 m
  simp only [State.bnd, hbindings]
  exact hstep

theorem State.sifted_Regs :
    RegsOnly [Reg.fabRtrEcc, Reg.fabRtrStatus, Reg.cmdStepParkdrop b] s (s.sifted b n k) := by
  have hdrained : RegsOnly [Reg.fabRtrEcc, Reg.fabRtrStatus] s (s.drained n k) :=
    (State.drainRuns_kept (Canon_bindings hcanon) n k).2.2.trans (.of_reg (State.drained_reg s n k))
  exact (hdrained.mono (by simp)).trans ((State.withholdAll_Regs _ b n _).mono (by simp))

theorem State.received_Regs : RegsOnly (receivedRegs b n) s (s.received b n k) := by
  have hbad : RegsOnly (receivedRegs b n) (s.sifted b n k) ((s.sifted b n k).count (Reg.coreInbBadrec n)
      ((s.started b n k).length - ((s.started b n k).filter (fun e => e.cnt ≠ 0)).length)) := .count _ _ (by simp [receivedRegs])
  have hcounted : RegsOnly (receivedRegs b n) s (s.counted b n k) :=
    ((State.sifted_Regs b n k hcanon).mono (by simp [receivedRegs])).trans (hbad.trans (.maxReg _ _ (by simp [receivedRegs])))
  exact hcounted.trans ((State.received_Spilled b n k hcanon).regs.mono fun _ h => List.mem_append_right _ h)

/-- Records with CNT 0 are counted (R199). -/
theorem State.received_badrec (hn : n < 16) (hb : b < 64) : (s.received b n k).rfield (Reg.coreInbBadrec n) 0 32 =
    min (s.rfield (Reg.coreInbBadrec n) 0 32 + ((s.started b n k).length - ((s.started b n k).filter (fun e => e.cnt ≠ 0)).length))
      (2 ^ 32 - 1) := by
  have hheld := State.sifted_Regs b n k hcanon
  have hw := hheld.wf (Canon_vals hcanon)
  have hbefore := hheld.get (Canon_vals hcanon) (a := Reg.coreInbBadrec n)
    (by simp only [List.mem_cons, List.not_mem_nil, or_false, Reg.coreInbBadrec, Reg.fabRtrEcc, Reg.fabRtrStatus, Reg.cmdStepParkdrop]; omega)
  generalize hgo : (s.started b n k).length - ((s.started b n k).filter (fun e => e.cnt ≠ 0)).length = bad
  have hcount : RegsOnly [Reg.coreInbBadrec n] (s.sifted b n k)
    ((s.sifted b n k).count (Reg.coreInbBadrec n) bad) := .count _ _ (by simp)
  have hw' := hcount.wf hw
  have hpeak : RegsOnly (Reg.coreInbPeak n :: spillRegs n) ((s.sifted b n k).count (Reg.coreInbBadrec n) bad)
      (s.received b n k) := by
    have hspill := (State.received_Spilled b n k hcanon).regs
    have hmax : RegsOnly (Reg.coreInbPeak n :: spillRegs n) ((s.sifted b n k).count (Reg.coreInbBadrec n) bad)
      (s.counted b n k) := by
      rw [← hgo]
      exact .maxReg _ _ (by simp)
    exact hmax.trans (hspill.mono fun _ h => List.mem_cons_of_mem _ h)
  have hafter := hpeak.get hw' (a := Reg.coreInbBadrec n) (by
    simp only [spillRegs, List.mem_cons, List.mem_append, mem_trafficRegs, mem_sentRegs, List.not_mem_nil, or_false, Reg.coreInbBadrec,
      Reg.coreInbPeak, Reg.coreInbSpill, Reg.coreRteStatus, Reg.fabRtrSpillPeak, Reg.hbmGrLo, Reg.hbmStat]
    omega)
  rw [State.rfield, hafter]
  exact (State.rfield_satAdd_same hw _ bad (by decide)).trans (by simp only [State.rfield, hbefore])

/-- Withheld records stand in the held lists of their contexts (R217). -/
theorem State.received_held {p : Nat × Ctx} (hp : s.ctxByIdx b p.2.cidx.toNat = some p) : (((s.received b n k).ctx p.1).held =
    p.2.held ++ ((s.parked b n k).filter (fun e => !e.fixed && decide (e.cidx = p.2.cidx.toNat))).map (fun e => e.heldAt n 0)) := by
  have hctxs : (s.drained n k).cmd.ctxs = s.cmd.ctxs := (State.drainRuns_kept (Canon_bindings hcanon) n k).1
  have hw : Tab.wf (fun _ => Ctx.empty) (s.drained n k).cmd.ctxs := by rw [hctxs]; exact Canon_ctxs hcanon
  obtain ⟨hfind, hwf⟩ := State.withholdAll_ctxByIdx hw b n (s.parked b n k) ((State.ctxByIdx_congr hctxs b _).trans hp)
  have hctx := State.ctx_of_mem_ctxsOf hwf (State.ctxByIdx_some hfind).1
  rw [State.ctx, State.received_cmd]
  exact congrArg Ctx.held hctx

end

end Sys2Proof.Machine
end

section
namespace Sys2Proof.Machine

/-! ## Phase 1 begins or waits (R117, R122, R190) -/

theorem State.phase1Try_kept (s : State) (n : Nat) :
    RegsOnly [Reg.coreSynStatus n] s (s.phase1Try n) ∧ OnlyChanges [.reg] s (s.phase1Try n) :=
  ⟨.ite (fun _ => .rsetBit s 0 true (by simp)) fun _ => .refl _ s, State.phase1Try_Only s n (by decide) (.refl _ s)⟩

/-- ACTIVE is set where nothing holds phase 1; where something does the status stays. -/
theorem State.phase1Try_status {s : State} (hr : Tab.wf regReset s.reg.vals) {n t : Nat} (hp : (s.cor n).phase = .integrate)
    (ht : (s.bnd (s.cor n).binding.toNat).step.toNat = t) :
    (¬ ((s.cor n).berthsWait t = true ∨ s.ovlWait n t = true) → (s.phase1Try n).rbit (Reg.coreSynStatus n) 0 = true) ∧
    ((s.cor n).berthsWait t = true ∨ s.ovlWait n t = true →
      (s.phase1Try n).rget (Reg.coreSynStatus n) = s.rget (Reg.coreSynStatus n)) := by
  subst ht
  unfold State.phase1Try State.phase1Waits
  dsimp only
  constructor
  · intro hfree
    obtain ⟨hberth, hovl⟩ := not_or.mp hfree
    rw [if_pos (by simp [hp, hberth, hovl])]
    exact State.rbit_rsetBit_same hr _ true (by decide)
  · intro hwait
    split
    next h =>
      have hactive : s.rbit (Reg.coreSynStatus n) 0 = true := by
        rcases hwait with hw | hw <;> simpa [hp, hw] using h
      exact State.rget_rsetBit_self hr hactive
    · rfl

theorem State.ovlWait_congr {s t : State} (h : t.core.reds = s.core.reds) (n j : Nat) : t.ovlWait n j = s.ovlWait n j := by
  have hred : t.red n = s.red n := funext fun m => by simp only [State.red, h]
  unfold State.ovlWait
  rw [hred]

/-- The registers of a core whose phase 1 may begin. -/
def phase1Regs (n : Nat) : List Nat := [Reg.coreSynBerthwait n, Reg.coreSynStatus n]

/-- What the last stage of START leaves, and what it makes of its core. -/
structure CoreBegun (n t : Nat) (c : Core) (go : Core → Core) (waits : Prop) (s u : State) : Prop where
  only : OnlyChanges [.core, .reg, .free] s u
  regs : RegsOnly (phase1Regs n) s u
  core : u.core = (s.setCor n (go (s.cor n))).core
  free : c.frozen = true ∨ c.berthsWait t = false → u.free = s.free
  runs : c.frozen = false → ¬ waits → u.rbit (Reg.coreSynStatus n) 0 = true
  kept : c.frozen = true ∨ waits → u.rget (Reg.coreSynStatus n) = s.rget (Reg.coreSynStatus n)

/-- The core may wait for a berth: for how long is a free value (log entry 61). -/
def State.berthWaited (s : State) (n t : Nat) (c : Core) (inbox : List Ev) : State :=
  let v := s.setCor n ((s.cor n).integrates inbox)
  if c.berthsWait t then v.countFree (Reg.coreSynBerthwait n) else v

theorem State.berthWaited_kept (s : State) (n t : Nat) (c : Core) (inbox : List Ev) :
    OnlyChanges [.core, .reg, .free] s (s.berthWaited n t c inbox) ∧ RegsOnly [Reg.coreSynBerthwait n] s (s.berthWaited n t c inbox) ∧
    (s.berthWaited n t c inbox).core = (s.setCor n ((s.cor n).integrates inbox)).core ∧
    (s.berthWaited n t c inbox).cmd = s.cmd ∧ (c.berthsWait t = false → (s.berthWaited n t c inbox).free = s.free) := by
  have hset : OnlyChanges [.core, .reg, .free] s (s.setCor n ((s.cor n).integrates inbox)) := State.setCor_Only _ _ (by decide) (.refl _ s)
  unfold State.berthWaited
  dsimp only
  split
  next h => exact ⟨State.countFree_Only _ _ (by decide) (by decide) hset, .trans (.of_reg rfl) (.countFree _ (by simp)), rfl, rfl,
      fun hn => absurd (h.symm.trans hn) (by decide)⟩
  next h => exact ⟨hset, .of_reg rfl, rfl, rfl, fun _ => rfl⟩

theorem State.phase1Starts_Begun {s : State} (hr : Tab.wf regReset s.reg.vals) (hw : Tab.wf (fun _ => Core.empty) s.core.cores) {n t : Nat}
    {c : Core} (inbox : List Ev) (hf : c.frozen = false) (hsp : ∃ sp, s.cor n = { c with spilled := sp })
    (ht : (s.bnd c.binding.toNat).step.toNat = t) :
    CoreBegun n t c (fun c => c.integrates inbox) (c.berthsWait t = true ∨ s.ovlWait n t = true) s (s.phase1Starts n t c inbox) := by
  obtain ⟨sp, hsp⟩ := hsp
  obtain ⟨honly, hregs, hcore, hcmd, hfree⟩ := s.berthWaited_kept n t c inbox
  have hcor : (s.berthWaited n t c inbox).cor n = (s.cor n).integrates inbox := by
    rw [State.cor, hcore]
    exact State.cor_setCor_same hw n _
  have hphase : ((s.berthWaited n t c inbox).cor n).phase = .integrate := by rw [hcor]; rfl
  have hstep : ((s.berthWaited n t c inbox).bnd ((s.berthWaited n t c inbox).cor n).binding.toNat).step.toNat = t := by
    rw [hcor, hsp, State.bnd, hcmd]
    exact ht
  have hberth : ((s.berthWaited n t c inbox).cor n).berthsWait t = c.berthsWait t := by rw [hcor, hsp]; rfl
  have hovl : (s.berthWaited n t c inbox).ovlWait n t = s.ovlWait n t := State.ovlWait_congr (by rw [hcore]; rfl) n t
  obtain ⟨hruns, hkept⟩ := State.phase1Try_status (hregs.wf hr) hphase hstep
  rw [hberth, hovl] at hruns hkept
  obtain ⟨htryRegs, htryOnly⟩ := (s.berthWaited n t c inbox).phase1Try_kept n
  have hstat : (s.berthWaited n t c inbox).rget (Reg.coreSynStatus n) = s.rget (Reg.coreSynStatus n) :=
    hregs.get hr (by simp only [List.mem_singleton, Reg.coreSynStatus, Reg.coreSynBerthwait]; omega)
  refine ⟨honly.trans (htryOnly.mono (by decide)), (hregs.mono (by simp [phase1Regs])).trans (htryRegs.mono (by simp [phase1Regs])), ?_, ?_,
    fun _ => hruns, ?_⟩
  · exact (htryOnly.same .core (by decide)).trans hcore
  · exact fun h => (htryOnly.same .free (by decide)).trans (hfree (h.resolve_left (by simp [hf])))
  · exact fun h => (hkept (h.resolve_left (by simp [hf]))).trans hstat

theorem State.idles_Begun (s : State) {n t : Nat} {c : Core} (waits : Prop) (hf : c.frozen = true) :
    CoreBegun n t c Core.idles waits s (s.setCor n (s.cor n).idles) :=
  ⟨State.setCor_Only _ _ (by decide) (.refl _ s), .of_reg rfl, rfl, fun _ => rfl, fun h => absurd (hf.symm.trans h) (by decide), fun _ => rfl⟩

end Sys2Proof.Machine
end

section
namespace Sys2Proof.Machine

/-! ## START reaches a core (R32, R210, R216) -/

theorem State.corePresent_lt {s : State} {n : Nat} (h : s.corePresent n = true) : n < 16 := by
  have hcores : s.nCores ≤ 16 := by
    unfold State.nCores gradeCores
    split
    · exact Nat.le_refl _
    · split <;> decide
  simp only [State.corePresent, Bool.and_eq_true, decide_eq_true_eq] at h
  omega

/-- What a core does at START: a frozen one is done, another integrates. -/
def Core.starts (c : Core) (inbox : List Ev) : Core := if c.frozen then c.idles else c.integrates inbox

/-- START of a running step at an idle core, in its last stage. -/
theorem State.stepStart_Begun {s : State} (hcanon : Canon s) {n b t k : Nat} (hc : (s.cor n).bound = true)
    (hb : (s.cor n).binding.toNat = b) (hr : (s.bnd b).running = true) (hp : (s.cor n).phase = .idle) (hn : s.corePresent n = true)
    (ht : (s.bnd b).step.toNat = t) (hk : t % 64 = k) :
    CoreBegun n t (s.cor n) (fun c => c.starts ((s.started b n k).filter (fun e => e.cnt ≠ 0)))
      ((s.cor n).berthsWait t = true ∨ s.ovlWait n t = true) (s.received b n k) (s.stepStart n) := by
  obtain ⟨sp, hcore, -⟩ := State.received_core b n k hcanon
  have hcor : (s.received b n k).cor n = { s.cor n with spilled := sp } := by
    rw [State.cor, hcore]
    exact State.cor_setCor_same (Canon_cores hcanon) n _
  have hw : Tab.wf (fun _ => Core.empty) (s.received b n k).core.cores := by
    rw [hcore]
    exact Tab.wf_set (Canon_cores hcanon) _ _
  have hovl : (s.received b n k).ovlWait n t = s.ovlWait n t := State.ovlWait_congr (by rw [hcore]; rfl) n t
  rw [State.stepStart_eq (Canon_bindings hcanon) hc hb hr hp hn ht hk]
  split
  next hf =>
    have hgo : ((s.received b n k).cor n).starts ((s.started b n k).filter (fun e => e.cnt ≠ 0)) =
        ((s.received b n k).cor n).idles := if_pos (by rw [hcor]; exact hf)
    have hbegun := State.idles_Begun (s.received b n k) (n := n) (t := t) ((s.cor n).berthsWait t = true ∨ s.ovlWait n t = true) hf
    exact { hbegun with core := by rw [hgo]; exact hbegun.core }
  next hf =>
    have hgo : ((s.received b n k).cor n).starts ((s.started b n k).filter (fun e => e.cnt ≠ 0)) =
        ((s.received b n k).cor n).integrates ((s.started b n k).filter (fun e => e.cnt ≠ 0)) := if_neg (by rw [hcor]; exact hf)
    have hbegun := State.phase1Starts_Begun (s := s.received b n k) (n := n) (t := t) (c := s.cor n)
      ((State.received_Regs b n k hcanon).wf (Canon_vals hcanon)) hw ((s.started b n k).filter (fun e => e.cnt ≠ 0)) (by simpa using hf)
      ⟨sp, hcor⟩ (by rw [State.received_step b n k hcanon, hb]; exact ht)
    rw [hovl] at hbegun
    exact { hbegun with core := by rw [hgo]; exact hbegun.core }

/-- START reaches a core. -/
theorem coresStart : Spec.CoresStart := by
  intro s core
  dsimp only
  intro hcanon ha hc hr hp hn
  generalize hb : (s.cor core.toNat).binding.toNat = b at *
  generalize ht : (s.bnd b).step.toNat = t at *
  generalize hk : t % 64 = k at *
  have hn16 := State.corePresent_lt hn
  have hb64 : b < 64 := hb ▸ (s.cor core.toNat).binding.isLt
  have hk64 : k < 64 := hk ▸ Nat.mod_lt _ (by decide)
  have hrec : BitVec.ofNat 10 core.toNat = core := by rw [BitVec.ofNat_toNat, BitVec.setWidth_eq]
  generalize hcn : core.toNat = n at *
  have hbegun := State.stepStart_Begun hcanon hc hb hr hp hn ht hk
  have hregs := State.received_Regs b n k hcanon
  have hrw := hregs.wf (Canon_vals hcanon)
  obtain ⟨hbytes, hmem⟩ := State.received_mem b n k hcanon
  obtain ⟨sp, hcore, hsp⟩ := State.received_core b n k hcanon
  have hcor : (s.received b n k).cor n = { s.cor n with spilled := sp } := by
    rw [State.cor, hcore]
    exact State.cor_setCor_same (Canon_cores hcanon) n _
  have hcw : Tab.wf (fun _ => Core.empty) (s.received b n k).core.cores := by
    rw [hcore]
    exact Tab.wf_set (Canon_cores hcanon) _ _
  have hrtr : (s.stepStart n).rtr = _ := (hbegun.only.same .rtr (by decide)).trans ((State.received_rtr b n k).trans (s.drained_rtr n k))
  have hlateMem : (s.stepStart n).mem = (s.received b n k).mem := hbegun.only.same .mem (by decide)
  have hlateCmd : (s.stepStart n).cmd = (s.received b n k).cmd := hbegun.only.same .cmd (by decide)
  refine Run_of_live (f := fun s => s.stepStart core.toNat) ha rfl ?_ ?_ <;> rw [hcn]
  · exact Frame_of_acts (((State.received_Only b n k).mono (by decide)).trans (hbegun.only.mono (by decide)))
      ((State.received_Acts b n k hcanon).trans (ActsOnly.of_only hbegun.only (by decide)))
  refine ⟨SameBytes.trans hbytes (SameBytes.of_mem hlateMem), fun h => hlateMem.trans (hmem h), ⟨sp, ?_, hsp⟩, fun m hm => ?_, ?_, ?_,
    fun m j hj hne => ?_, ?_, ?_, hbegun.runs, fun h => (hbegun.kept h).trans ?_, fun h => (hbegun.free h).trans ?_, fun p hp hpx => ?_⟩
  · rw [State.cor, hbegun.core]
    exact (State.cor_setCor_same hcw n _).trans (by rw [hcor]; rfl)
  · rw [State.cor, hbegun.core]
    refine (State.cor_setCor_other hcw _ hm).trans ?_
    rw [State.cor, hcore]
    exact State.cor_setCor_other (Canon_cores hcanon) _ hm
  · rw [State.ring, hrtr]
    exact Tab.get_set_same (Canon_rings hcanon) _ _
  · rw [State.pages, hrtr]
    exact Tab.get_set_same (Canon_pages hcanon) _ _
  · have hkey : m * 64 + j ≠ n * 64 + k := fun he => hne (by
      have hmn : m = n := by omega
      have hjk : j = k := by omega
      rw [hmn, hjk])
    rw [State.ring, hrtr]
    exact Tab.get_set_other (Canon_rings hcanon) _ hkey
  · rw [hrtr]
    exact mem_insertNat n _
  · have hlate := hbegun.regs.get hrw (a := Reg.coreInbBadrec n) (by
      simp only [phase1Regs, List.mem_cons, List.not_mem_nil, or_false, Reg.coreInbBadrec, Reg.coreSynBerthwait, Reg.coreSynStatus]
      omega)
    rw [State.rfield, hlate]
    exact State.received_badrec b n k hcanon hn16 hb64
  · exact hregs.get (Canon_vals hcanon) (by
      simp only [receivedRegs, spillRegs, List.mem_cons, List.mem_append, mem_trafficRegs, mem_sentRegs, List.not_mem_nil, or_false,
        Reg.coreSynStatus, Reg.fabRtrEcc, Reg.fabRtrStatus, Reg.cmdStepParkdrop, Reg.coreInbBadrec, Reg.coreInbPeak, Reg.coreInbSpill,
        Reg.coreRteStatus, Reg.fabRtrSpillPeak, Reg.hbmGrLo, Reg.hbmStat]
      omega)
  · exact (State.received_Only b n k).same .free (by decide)
  · rw [State.ctx, hlateCmd]
    refine (State.received_held b n k hcanon hpx).trans ?_
    rw [State.parked, List.filter_filter]
    congr 2
    · exact funext fun e => by rw [Ev.heldAt, hrec]
    · congr 1
      exact funext fun e => by simp [Bool.and_assoc, Bool.and_comm, Bool.and_left_comm]

/-- Settles O28: the start of a step on the device through the state in which the lead has told its members, and START at a core through the
stages of its drain. -/
theorem stepsAndCoresStart : Obligations.StepsAndCoresStart := ⟨stepsStart, coresStart⟩

end Sys2Proof.Machine
end

section
namespace Sys2Proof.Machine

/-! ## What held last (R225) -/

/-- The word of a condition, a device and a core. -/
def heldWord (cond dev core : Nat) : Word := BitVec.ofNat 32 (cond * 2 ^ 30 + dev % 64 * 2 ^ 16 + core % 1024)

theorem State.heldLast_eq (s : State) (b cond dev core : Nat) :
    s.heldLast b cond dev core = s.setBnd b { s.bnd b with lastHeld := heldWord cond dev core } := rfl

theorem State.bnd_heldLast_same {s : State} (hw : Tab.wf (fun _ => Binding.empty) s.cmd.bindings) (b cond dev core : Nat) :
    (s.heldLast b cond dev core).bnd b = { s.bnd b with lastHeld := heldWord cond dev core } := State.bnd_setBnd_same hw b _
theorem State.bnd_heldLast_other {s : State} (hw : Tab.wf (fun _ => Binding.empty) s.cmd.bindings) {b m : Nat} (cond dev core : Nat)
    (hm : m ≠ b) : (s.heldLast b cond dev core).bnd m = s.bnd m := State.bnd_setBnd_other hw _ hm

/-! ## The lead takes a signal (R183, R221) -/

/-- The first command of a step queue takes a status, where it has a step left. -/
def Binding.marked (x : Binding) (st : Byte) : Binding :=
  match x.queue with
  | q :: r => if st ≠ St.ok ∧ q.left ≠ some 0 then { x with queue := { q with status := worse q.status st } :: r } else x
  | [] => x

/-- A binding that has taken the signal of a device. -/
def Binding.withSignal (x : Binding) (dev : Nat) (gates : List (BitVec 8 × Bool)) : Binding :=
  { x with signals := x.signals ++ [dev], gates := x.gates ++ gates, lastHeld := if 1 < x.nDevs then heldWord 2 dev 0 else x.lastHeld }

theorem Binding.marked_ok (x : Binding) : x.marked St.ok = x := by
  unfold Binding.marked
  split
  · exact if_neg (by simp)
  · rfl

theorem Binding.marked_eq (x : Binding) (st : Byte) : x.marked st = { x with queue := (x.marked st).queue } := by
  unfold Binding.marked
  split
  · split <;> rfl
  · rfl

/-- On the lead a status other than OK goes to the first command, where every command has a step left (R284). -/
theorem Binding.tookStatus_lead {x : Binding} {st : Byte} (hst : st ≠ St.ok) (hq : ∀ q ∈ x.queue, q.left ≠ some 0) :
    x.tookStatus false st = x.marked st := by
  unfold Binding.tookStatus Binding.marked
  cases hx : x.queue with
  | nil => simp
  | cons q r =>
    have hleft : q.left ≠ some 0 := hq q (by rw [hx]; exact List.mem_cons_self)
    simp only [if_pos (And.intro hst hleft)]
    simp [markFirst, hleft]

/-- The state in which the lead has taken the status of a signal. -/
def State.statusTaken (s : State) (b : Nat) (st : Byte) : State := if st = St.ok then s else s.stepStatus b st

theorem State.statusTaken_eq {s : State} (hw : Tab.wf (fun _ => Binding.empty) s.cmd.bindings) {b : Nat} {st : Byte}
    (h : st ≠ St.ok → s.isLead b = true ∧ ∀ q ∈ (s.bnd b).queue, q.left ≠ some 0) :
    s.statusTaken b st = s.setBnd b ((s.bnd b).marked st) := by
  unfold State.statusTaken
  split
  next hst => rw [hst, Binding.marked_ok, State.setBnd_bnd hw]
  next hst =>
    obtain ⟨hlead, hq⟩ := h hst
    rw [State.stepStatus_eq hw, hlead, Bool.not_true, Binding.tookStatus_lead hst hq]

theorem State.takeSignal_eq {s : State} {b dev : Nat} (gates : List (BitVec 8 × Bool)) (st : Byte) (h : dev ∉ (s.bnd b).signals) :
    s.takeSignal b dev gates st =
      let t := s.statusTaken b st
      let x := t.bnd b
      let u := (t.setBnd b { x with
        signals := x.signals ++ [dev], gates := if dev = t.sys.myDev.toNat then x.gates else x.gates ++ gates }).setBuoy (stepBuoy b)
          (BitVec.ofNat 31 (x.signals.length + 1))
      if 1 < x.nDevs then u.heldLast b 2 dev 0 else u := by
  have hnot : ¬ (s.bnd b).signals.contains dev = true := by simp [h]
  exact if_neg hnot

theorem Tab.set_set {α : Type} {d : Nat → α} [DecidableEq α] {t : Tab α} (h : Tab.wf d t) (k : Nat) (v w : α) :
    Tab.set d (Tab.set d t k v) k w = Tab.set d t k w := by
  have hv := Tab.wf_set h k v
  refine Tab.ext_get (Tab.wf_set hv k w) (Tab.wf_set h k w) fun i => ?_
  by_cases hi : i = k
  · rw [hi, Tab.get_set_same hv, Tab.get_set_same h]
  · rw [Tab.get_set_other hv _ hi, Tab.get_set_other h _ hi, Tab.get_set_other h _ hi]

/-- Of two writes to a binding the later counts. -/
theorem State.setBnd_setBnd {s : State} (hw : Tab.wf (fun _ => Binding.empty) s.cmd.bindings) (b : Nat) (x y : Binding) :
    (s.setBnd b x).setBnd b y = s.setBnd b y :=
  congrArg (fun t => { s with cmd := { s.cmd with bindings := t } }) (Tab.set_set hw b x y)

/-- A signal that the lead takes changes its binding and its buoy; of another device its gates are kept. -/
theorem State.takeSignal_new {s : State} (hw : Tab.wf (fun _ => Binding.empty) s.cmd.bindings) {b dev : Nat} (gates : List (BitVec 8 × Bool))
    {st : Byte} (hnew : dev ∉ (s.bnd b).signals) (h : st ≠ St.ok → s.isLead b = true ∧ ∀ q ∈ (s.bnd b).queue, q.left ≠ some 0) :
    s.takeSignal b dev gates st =
      (s.setBnd b (((s.bnd b).marked st).withSignal dev (if dev = s.sys.myDev.toNat then [] else gates))).setBuoy (stepBuoy b)
        (BitVec.ofNat 31 ((s.bnd b).signals.length + 1)) := by
  have hgates : ∀ x : Binding, (if dev = s.sys.myDev.toNat then x.gates else x.gates ++ gates) =
      x.gates ++ (if dev = s.sys.myDev.toNat then [] else gates) := fun x => by split <;> simp
  have hsys : (s.setBnd b ((s.bnd b).marked st)).sys = s.sys := rfl
  have hn : ((s.bnd b).marked st).nDevs = (s.bnd b).nDevs := by rw [Binding.marked_eq]; rfl
  have hsig : ((s.bnd b).marked st).signals = (s.bnd b).signals := by rw [Binding.marked_eq]
  have hswap : ∀ (t : State) (x : Binding) (k : Nat) (v : BitVec 31), (t.setBuoy k v).setBnd b x = (t.setBnd b x).setBuoy k v := fun _ _ _ _ => rfl
  rw [State.takeSignal_eq gates st hnew, State.statusTaken_eq hw h]
  dsimp only
  rw [State.bnd_setBnd_same hw, hsys, hgates, State.setBnd_setBnd hw, hn, hsig]
  split
  next hmany =>
    rw [State.heldLast_eq, State.bnd_setBuoy, State.bnd_setBnd_same hw, hswap, State.setBnd_setBnd hw]
    simp only [Binding.withSignal, hn, hsig, hmany, if_true]
  next hone => simp only [Binding.withSignal, hn, hsig, hone, if_false]

/-- What the lead's binding and buoy hold once it has taken a signal. -/
theorem State.takeSignal_taken {s : State} (hw : Tab.wf (fun _ => Binding.empty) s.cmd.bindings) (hy : Tab.wf (fun _ => 0) s.syn.buoys)
    {b dev : Nat} (gates : List (BitVec 8 × Bool)) {st : Byte} (hnew : dev ∉ (s.bnd b).signals)
    (h : st ≠ St.ok → s.isLead b = true ∧ ∀ q ∈ (s.bnd b).queue, q.left ≠ some 0) :
    (s.takeSignal b dev gates st).bnd b = ((s.bnd b).marked st).withSignal dev (if dev = s.sys.myDev.toNat then [] else gates) ∧
    (∀ m, m ≠ b → (s.takeSignal b dev gates st).bnd m = s.bnd m) ∧
    ((s.bnd b).signals.length + 1 < 2 ^ 31 → ((s.takeSignal b dev gates st).buoy (65472 + b)).toNat = (s.bnd b).signals.length + 1) ∧
    (∀ m, m ≠ 65472 + b → (s.takeSignal b dev gates st).buoy m = s.buoy m) := by
  rw [State.takeSignal_new hw gates hnew h]
  refine ⟨State.bnd_setBnd_same hw b _, fun m hm => State.bnd_setBnd_other hw _ hm, fun hlt => ?_, fun m hm => State.buoy_setBuoy_other hy _ hm⟩
  have hread := State.buoy_setBuoy_same (s := s.setBnd b (((s.bnd b).marked st).withSignal dev (if dev = s.sys.myDev.toNat then [] else gates)))
    hy (65472 + b) (BitVec.ofNat 31 ((s.bnd b).signals.length + 1))
  exact (congrArg BitVec.toNat hread).trans (by rw [BitVec.toNat_ofNat, Nat.mod_eq_of_lt hlt])

end Sys2Proof.Machine
end

section
namespace Sys2Proof.Machine

/-! ## Phase 3 of a core ends (R208) -/

/-- An entry that was written is found by its key. -/
theorem Tab.find_set_same {α : Type} {d : Nat → α} [DecidableEq α] (t : Tab α) (k : Nat) {v : α} (hv : v ≠ d k) :
    (Tab.set d t k v).find? (fun p => p.1 = k) = some (k, v) := by
  induction t with
  | nil => simp [Tab.set, hv]
  | cons p r ih =>
    rw [Tab.set]
    split
    · simp
    · split
      · simp
      · have hne : p.1 ≠ k := by omega
        simp [hne, ih]

/-- A packet in its replica slot. -/
theorem State.replica_setReplica (s : State) {p : Packet} (hp : p ≠ ⟨0, 0, 0, 0, 0, false, 0, []⟩) :
    (s.setReplica p).replica p.dstCore = some p :=
  congrArg (fun x : Option (Nat × Packet) => x.map Prod.snd) (Tab.find_set_same s.rtr.replicas p.dstCore hp)

/-- A core without an open packet has none to close. -/
theorem State.closeAll_none {s : State} {n : Nat} (h : (s.cor n).openPkts = []) : s.closeAll n = s := by
  unfold State.closeAll
  rw [h]
  rfl

/-- The only open packet passes to a free replica slot. -/
theorem State.closeAll_one {s : State} {n k : Nat} {p : Packet} (hw : Tab.wf (fun _ => Core.empty) s.core.cores)
    (hk : (s.cor n).binding.toNat = k) (h : (s.cor n).openPkts = [p]) (hr : s.replica p.dstCore = none) : s.closeAll n =
      ((s.setCor n { s.cor n with openPkts := [] }).setReplica p).setBnd k { s.bnd k with outPkts := (s.bnd k).outPkts + 1 } := by
  subst hk
  have hmay : s.mayClose n p = true := by simp [State.mayClose, hr]
  have hr' : (s.setCor n { s.cor n with openPkts := [] }).replica p.dstCore = none := hr
  have hcor : (s.setCor n { s.cor n with openPkts := [] }).cor n = { s.cor n with openPkts := [] } := State.cor_setCor_same hw n _
  have hone : s.closeAll n = (s.setCor n { s.cor n with openPkts := [] }).closePacket n p := by
    unfold State.closeAll
    rw [h]
    simp only [State.forAll, List.foldl_cons, List.foldl_nil, hmay, if_true, h, List.erase_cons_head]
  rw [hone, State.closePacket, hr']
  dsimp only
  rw [hcor]
  rfl

/-- A core that has expanded every firing, and whose packets have all passed on, is done. -/
theorem State.coreDone_eq {s t : State} {n k : Nat} (hk : (s.cor n).binding.toNat = k) (hp : (s.cor n).phase = .emit)
    (hf : (s.cor n).fired = []) (ht : s.tapsLeft (s.sysOf n) = false) (he : s.encodesLeft n (s.sysOf n) = false) (hc : s.closeAll n = t)
    (hh : (t.cor n).holding = []) (ho : (t.cor n).openPkts = []) : s.coreDone n =
      ((t.setCor n { t.cor n with phase := .done }).rsetBit (Reg.coreRteStatus n) 0 false).heldLast k 0 0 (t.sysOf n) := by
  subst hk hc
  have hgo : ¬ ((s.cor n).phase ≠ .emit ∨ (s.cor n).fired ≠ [] ∨ s.tapsLeft (s.sysOf n) = true ∨ s.encodesLeft n (s.sysOf n) = true) := by
    simp [hp, hf, ht, he]
  have hrest : ¬ (((s.closeAll n).cor n).holding ≠ [] ∨ ((s.closeAll n).cor n).openPkts ≠ []) := by simp [hh, ho]
  exact (if_neg hgo).trans (if_neg hrest)

/-- What phase 3 of a core leaves at its end. -/
theorem State.coreDone_none {s : State} (hcanon : Canon s) {n k : Nat} (hk : (s.cor n).binding.toNat = k) (hp : (s.cor n).phase = .emit)
    (hf : (s.cor n).fired = []) (hh : (s.cor n).holding = []) (ht : s.tapsLeft (s.sysOf n) = false) (he : s.encodesLeft n (s.sysOf n) = false)
    (ho : (s.cor n).openPkts = []) : OnlyChanges [.cmd, .core, .reg] s (s.coreDone n) ∧
      (s.coreDone n).cor n = { s.cor n with phase := .done } ∧ (∀ m, m ≠ n → (s.coreDone n).cor m = s.cor m) ∧
      (s.coreDone n).rbit (Reg.coreRteStatus n) 0 = false ∧ OnlyRegs [Reg.coreRteStatus n] s (s.coreDone n) ∧
      (s.coreDone n).bnd k = { s.bnd k with lastHeld := heldWord 0 0 (s.sysOf n) } := by
  have hr := Canon_vals hcanon
  have hw := Canon_cores hcanon
  rw [State.coreDone_eq hk hp hf ht he (State.closeAll_none ho) hh ho]
  refine ⟨?_, State.cor_setCor_same hw n _, fun m hm => State.cor_setCor_other hw _ hm, ?_, fun a ha => ?_, ?_⟩
  · exact State.heldLast_Only _ _ _ _ _ (by decide) (State.rsetBit_Only _ _ _ _ (by decide) (State.setCor_Only _ _ (by decide) (.refl _ s)))
  · exact State.rbit_rsetBit_same (s := s.setCor n { s.cor n with phase := .done }) hr _ false (by decide)
  · have hget : (s.rsetBit (Reg.coreRteStatus n) 0 false).rget a = s.rget a :=
      (RegsOnly.rsetBit s (k := Reg.coreRteStatus n) (l := [Reg.coreRteStatus n]) 0 false (by simp)).get hr ha
    exact ⟨hget, congrArg (fun w : Word => w.toNat + 2 ^ 32 * (Tab.get (fun _ => (0 : Word)) s.reg.live a).toNat) hget⟩
  · exact State.bnd_heldLast_same (Canon_bindings hcanon) k 0 0 _

theorem State.coreDone_one {s : State} (hcanon : Canon s) {n k : Nat} {p : Packet} (hk : (s.cor n).binding.toNat = k)
    (hp : (s.cor n).phase = .emit) (hf : (s.cor n).fired = []) (hh : (s.cor n).holding = []) (ht : s.tapsLeft (s.sysOf n) = false)
    (he : s.encodesLeft n (s.sysOf n) = false) (ho : (s.cor n).openPkts = [p]) (hrep : s.replica p.dstCore = none)
    (hne : p ≠ ⟨0, 0, 0, 0, 0, false, 0, []⟩) : OnlyChanges [.cmd, .core, .reg, .rtr] s (s.coreDone n) ∧
      (s.coreDone n).cor n = { s.cor n with phase := .done, openPkts := [] } ∧ (s.coreDone n).replica p.dstCore = some p ∧
      (s.coreDone n).bnd k = { s.bnd k with outPkts := (s.bnd k).outPkts + 1, lastHeld := heldWord 0 0 (s.sysOf n) } := by
  have hw := Canon_cores hcanon
  have hb := Canon_bindings hcanon
  have hclose := State.closeAll_one hw hk ho hrep
  generalize hs' : s.setCor n { s.cor n with openPkts := [] } = s' at hclose
  have hcor : s'.cor n = { s.cor n with openPkts := [] } := by
    rw [← hs']
    exact State.cor_setCor_same hw n _
  have hw' : Tab.wf (fun _ => Core.empty) s'.core.cores := by
    rw [← hs']
    exact Tab.wf_set hw _ _
  have hb' : Tab.wf (fun _ => Binding.empty) s'.cmd.bindings := by
    rw [← hs']
    exact hb
  have hrcor : ((s'.setReplica p).setBnd k { s.bnd k with outPkts := (s.bnd k).outPkts + 1 }).cor n = { s.cor n with openPkts := [] } := hcor
  have hsys : ((s'.setReplica p).setBnd k { s.bnd k with outPkts := (s.bnd k).outPkts + 1 }).sysOf n = s.sysOf n := by
    rw [← hs']
    rfl
  have honly : OnlyChanges [.cmd, .core, .reg, .rtr] s s' := by
    rw [← hs']
    exact State.setCor_Only _ _ (by decide) (.refl _ s)
  rw [State.coreDone_eq hk hp hf ht he hclose (by rw [hrcor]; exact hh) (by rw [hrcor]), hrcor, hsys]
  refine ⟨?_, State.cor_setCor_same (s := (s'.setReplica p).setBnd k _) hw' n _, State.replica_setReplica s' hne, ?_⟩
  · exact State.heldLast_Only _ _ _ _ _ (by decide) (State.rsetBit_Only _ _ _ _ (by decide) (State.setCor_Only _ _ (by decide)
      (State.setBnd_Only _ _ (by decide) (State.setReplica_Only _ _ (by decide) honly))))
  · have hset : ((s'.setReplica p).setBnd k { s.bnd k with outPkts := (s.bnd k).outPkts + 1 }).bnd k =
        { s.bnd k with outPkts := (s.bnd k).outPkts + 1 } := State.bnd_setBnd_same (s := s'.setReplica p) hb' k _
    refine (State.bnd_heldLast_same (s := (((s'.setReplica p).setBnd k _).setCor n _).rsetBit _ _ _) (Tab.wf_set hb' _ _) k 0 0 _).trans ?_
    exact congrArg (fun x : Binding => { x with lastHeld := heldWord 0 0 (s.sysOf n) }) hset

end Sys2Proof.Machine
end

section
namespace Sys2Proof.Machine

/-! ## A device signals the step buoy (R36, R221) -/

/-- The binding of a device that has signalled. -/
def Binding.hasSignalled (x : Binding) : Binding := { x with signalled := true, met := 0 }
/-- This device has signalled. -/
def State.ownSignalled (s : State) (b : Nat) : State := s.setBnd b (s.bnd b).hasSignalled

section
variable {s : State} {b : Nat} (step : BitVec 20) (gates : List (BitVec 8 × Bool)) (status : Byte)

/-- A step whose cores are not done, or whose packets are still out, is not signalled. -/
theorem State.buoySignal_early (hd : s.stepDone b = false) : s.buoySignal b s.sys.myDev step gates status = s := by
  have hno : (!(s.bnd b).running || (s.bnd b).signalled || !s.stepDone b) = true := by simp [hd]
  by_cases hv : (!(s.bnd b).valid) = true
  · exact if_pos hv
  · exact (if_neg hv).trans ((if_pos rfl).trans (if_pos hno))

section
variable (hv : (s.bnd b).valid = true) (hr : (s.bnd b).running = true) (hs : (s.bnd b).signalled = false) (hd : s.stepDone b = true)
include hv hr hs hd

/-- A device signals its own step: to the sync unit on the lead, else in a message to it. -/
theorem State.buoySignal_own : s.buoySignal b s.sys.myDev step gates status =
    if (s.ownSignalled b).isLead b = true then
      (s.ownSignalled b).stepSignalHere b s.sys.myDev ((s.bnd b).step.truncate 20) (s.gateHere b) St.ok
    else if s.sys.lost.contains (s.bnd b).lead.toNat then (s.ownSignalled b).endStep b
    else (s.ownSignalled b).toDevice (s.bnd b).lead.toNat 4 1
      (.stepSignal (BitVec.ofNat 6 b) (s.bnd b).lead ((s.bnd b).step.truncate 20) (s.gateHere b) (s.bnd b).met) := by
  have hvalid : ¬ (!(s.bnd b).valid) = true := by simp [hv]
  have hgo : ¬ (!(s.bnd b).running || (s.bnd b).signalled || !s.stepDone b) = true := by simp [hr, hs, hd]
  exact (if_neg hvalid).trans ((if_pos rfl).trans (if_neg hgo))

end

/-- The lead hears another device of the step under way. -/
theorem State.buoySignal_other {dev : BitVec 6} (hv : (s.bnd b).valid = true) (hl : s.isLead b = true) (hdev : dev ≠ s.sys.myDev)
    (hmask : (s.bnd b).mask.getLsbD dev.toNat = true) (hstep : step = (s.bnd b).step.truncate 20) :
    s.buoySignal b dev step gates status = s.stepSignalHere b dev step gates status := by
  have hvalid : ¬ (!(s.bnd b).valid) = true := by simp [hv]
  have hgo : (s.isLead b && (s.bnd b).mask.getLsbD dev.toNat && decide (step = (s.bnd b).step.truncate 20)) = true := by simp [hl, hmask, hstep]
  exact (if_neg hvalid).trans ((if_neg hdev).trans (if_pos hgo))

/-- A signal of another step counts nothing. -/
theorem State.buoySignal_late {dev : BitVec 6} (hdev : dev ≠ s.sys.myDev) (hstep : step ≠ (s.bnd b).step.truncate 20) :
    s.buoySignal b dev step gates status = s := by
  have hno : ¬ (s.isLead b && (s.bnd b).mask.getLsbD dev.toNat && decide (step = (s.bnd b).step.truncate 20)) = true := by simp [hstep]
  by_cases hv : (!(s.bnd b).valid) = true
  · exact if_pos hv
  · exact (if_neg hv).trans ((if_neg hdev).trans (if_neg hno))

theorem State.stepSignalHere_held (dev : BitVec 6) (h : s.ptbStepBuoy = true) :
    s.stepSignalHere b dev step gates status = s.ptbHold (.step (BitVec.ofNat 6 b) dev step gates status) := if_pos h
theorem State.stepSignalHere_taken (dev : BitVec 6) (h : s.ptbStepBuoy = false) :
    s.stepSignalHere b dev step gates status = s.takeSignal b dev.toNat gates status := if_neg (by simp [h])

/-- A second signal of a device counts nothing. -/
theorem State.takeSignal_again {dev : Nat} (h : dev ∈ (s.bnd b).signals) : s.takeSignal b dev gates status = s :=
  if_pos (List.contains_iff_mem.mpr h)

/-- A held signal of the step under way is taken when its hold expires (R535). -/
theorem State.holdRelease_step {b dev : BitVec 6} (hv : (s.bnd b.toNat).valid = true) (hl : s.isLead b.toNat = true)
    (hmask : (s.bnd b.toNat).mask.getLsbD dev.toNat = true) (hstep : step = (s.bnd b.toNat).step.truncate 20)
    (hfind : s.ptb.find? (fun y => decide (y.kind = 3)) = some (.step b dev step gates status)) :
    s.holdRelease 3 = (({ s with ptb := s.ptb.erase (.step b dev step gates status) }).takeSignal b.toNat dev.toNat gates status).ptbUpdate := by
  have hgo : ((s.bnd b.toNat).valid && s.isLead b.toNat && (s.bnd b.toNat).mask.getLsbD dev.toNat &&
      decide (step = (s.bnd b.toNat).step.truncate 20)) = true := by simp [hv, hl, hmask, hstep]
  have hdone : ({ s with ptb := s.ptb.erase (.step b dev step gates status) }).stepSignalDone b.toNat dev step gates status =
      ({ s with ptb := s.ptb.erase (.step b dev step gates status) }).takeSignal b.toNat dev.toNat gates status := if_pos hgo
  unfold State.holdRelease
  rw [if_neg (by decide), hfind, ← hdone]

end

end Sys2Proof.Machine
end

section
namespace Sys2Proof.Machine

section
variable {s : State} {b : BitVec 6} (step : BitVec 20) (gates : List (BitVec 8 × Bool)) (status : Byte) (hcanon : Canon s) (ha : Alive s)
include hcanon ha

/-- What the binding and the buoy of the lead hold once a signal of device `dev` counts: `y` is the binding with the status taken. -/
def SignalCounted (s u : State) (b dev : Nat) (gates : List (BitVec 8 × Bool)) (y : Binding) : Prop :=
  u.bnd b = y.withSignal dev gates ∧ (∀ m, m ≠ b → u.bnd m = s.bnd m) ∧
  ((s.bnd b).signals.length + 1 < 2 ^ 31 → (u.buoy (65472 + b)).toNat = (s.bnd b).signals.length + 1) ∧
  (∀ m, m ≠ 65472 + b → u.buoy m = s.buoy m)

omit hcanon ha in
theorem State.ownSignalled_isLead (hw : Tab.wf (fun _ => Binding.empty) s.cmd.bindings) (b : Nat) :
    (s.ownSignalled b).isLead b = s.isLead b := by
  simp only [State.isLead, State.ownSignalled, State.bnd_setBnd_same hw]
  rfl

section
variable (hv : (s.bnd b.toNat).valid = true) (hr : (s.bnd b.toNat).running = true) (hs : (s.bnd b.toNat).signalled = false)
  (hd : s.stepDone b.toNat = true)
include hv hr hs hd

/-- PTB_BUOYDLY with STEPBUOY holds the lead's own signal (R535). -/
theorem buoySignal_own_held (hl : s.isLead b.toNat = true) (hp : s.ptbStepBuoy = true) :
    Spec.Run (.stepBuoySignal b s.sys.myDev step gates status) s [.cmd, .ptb, .reg] (fun u =>
      u.bnd b.toNat = (s.bnd b.toNat).hasSignalled ∧
      u.ptb = s.ptb ++ [.step b s.sys.myDev ((s.bnd b.toNat).step.truncate 20) (s.gateHere b.toNat) St.ok]) := by
  have hw := Canon_bindings hcanon
  have hbv : BitVec.ofNat 6 b.toNat = b := by rw [BitVec.ofNat_toNat, BitVec.setWidth_eq]
  have hf := State.buoySignal_own step gates status hv hr hs hd
  rw [if_pos ((State.ownSignalled_isLead hw _).trans hl),
    State.stepSignalHere_held _ _ _ _ (show (s.ownSignalled b.toNat).ptbStepBuoy = true from hp), hbv] at hf
  have honly : ∀ h : Held, OnlyChanges [.cmd, .ptb, .reg] s ((s.ownSignalled b.toNat).ptbHold h) := fun h =>
    State.ptbHold_Only _ _ (by decide) (by decide) (State.setBnd_Only _ _ (by decide) (.refl _ s))
  refine Run_of_live (f := fun s => s.buoySignal b.toNat s.sys.myDev step gates status) ha rfl ?_ ⟨?_, ?_⟩ <;> rw [hf]
  · exact Frame_of_only (honly _) (by decide)
  · have hcmd : ∀ h : Held, ((s.ownSignalled b.toNat).ptbHold h).cmd = (s.ownSignalled b.toNat).cmd := fun h =>
      (State.ptbHold_Only (L := [.ptb, .reg]) _ h (by decide) (by decide) (.refl _ _)).same .cmd (by decide)
    rw [State.bnd, hcmd]
    exact State.bnd_setBnd_same hw _ _
  · exact State.ptbHold_ptb _ _

/-- The lead takes its own signal. -/
theorem buoySignal_own_taken (hl : s.isLead b.toNat = true) (hp : s.ptbStepBuoy = false) (hnew : s.sys.myDev.toNat ∉ (s.bnd b.toNat).signals) :
    Spec.Run (.stepBuoySignal b s.sys.myDev step gates status) s [.cmd, .syn] (fun u =>
      SignalCounted s u b.toNat s.sys.myDev.toNat [] (s.bnd b.toNat).hasSignalled) := by
  have hw := Canon_bindings hcanon
  have hf := State.buoySignal_own step gates status hv hr hs hd
  rw [if_pos ((State.ownSignalled_isLead hw _).trans hl),
    State.stepSignalHere_taken _ _ _ _ (show (s.ownSignalled b.toNat).ptbStepBuoy = false from hp)] at hf
  have hbnd : (s.ownSignalled b.toNat).bnd b.toNat = (s.bnd b.toNat).hasSignalled := State.bnd_setBnd_same hw _ _
  have hw' : Tab.wf (fun _ => Binding.empty) (s.ownSignalled b.toNat).cmd.bindings := Tab.wf_set hw _ _
  have hy : Tab.wf (fun _ => 0) (s.ownSignalled b.toNat).syn.buoys := Canon_buoys (s := s) hcanon
  obtain ⟨hsame, hother, hbuoy, hbuoys⟩ := State.takeSignal_taken (s := s.ownSignalled b.toNat) hw' hy (b := b.toNat)
    (dev := s.sys.myDev.toNat) (s.gateHere b.toNat) (st := St.ok) (by rw [hbnd]; exact hnew) (fun h => absurd rfl h)
  rw [hbnd] at hsame hbuoy
  rw [Binding.marked_ok, if_pos (show s.sys.myDev.toNat = (s.ownSignalled b.toNat).sys.myDev.toNat from rfl)] at hsame
  refine Run_of_live (f := fun s => s.buoySignal b.toNat s.sys.myDev step gates status) ha rfl ?_ ⟨?_, fun m hm => ?_, ?_, ?_⟩ <;>
    rw [hf]
  · exact Frame_of_only (State.takeSignal_Only _ _ _ _ _ (by decide) (by decide) (State.setBnd_Only _ _ (by decide) (.refl _ s))) (by decide)
  · exact hsame
  · exact (hother m hm).trans (State.bnd_setBnd_other hw _ hm)
  · exact hbuoy
  · exact hbuoys

/-- A member tells its lead. -/
theorem buoySignal_own_told (hl : s.isLead b.toNat = false) (hlost : (s.bnd b.toNat).lead.toNat ∉ s.sys.lost) :
    Spec.Run (.stepBuoySignal b s.sys.myDev step gates status) s [.cmd, .fab, .out, .ptb, .reg, .free, .eth, .irq] (fun u =>
      u.bnd b.toNat = (s.bnd b.toNat).hasSignalled ∧ Out.stepSignal b (s.bnd b.toNat).lead ((s.bnd b.toNat).step.truncate 20)
        (s.gateHere b.toNat) (s.bnd b.toNat).met ∈ u.out) := by
  have hw := Canon_bindings hcanon
  have hbv : BitVec.ofNat 6 b.toNat = b := by rw [BitVec.ofNat_toNat, BitVec.setWidth_eq]
  have hf := State.buoySignal_own step gates status hv hr hs hd
  have hmember : ¬ (s.ownSignalled b.toNat).isLead b.toNat = true := by rw [State.ownSignalled_isLead hw, hl]; decide
  rw [if_neg hmember, if_neg (by simp [hlost]), hbv] at hf
  generalize ho : Out.stepSignal b (s.bnd b.toNat).lead ((s.bnd b.toNat).step.truncate 20) (s.gateHere b.toNat) (s.bnd b.toNat).met = o at *
  have hmsg := State.toDevice_msgParts (s.ownSignalled b.toNat) (s.bnd b.toNat).lead.toNat 4 1 o
  have hsent := State.toDevice_Sent (s.ownSignalled b.toNat) (s.bnd b.toNat).lead.toNat 4 1 o
  refine Run_of_live (f := fun s => s.buoySignal b.toNat s.sys.myDev step gates status) ha rfl ?_ ⟨?_, ?_⟩ <;> rw [hf]
  · refine Frame_of_acts ?_ (ActsOnly.trans (t := s.ownSignalled b.toNat) (ActsOnly.refl s) hsent.acts)
    exact (State.setBnd_Only (L := [.gov, .cmd, .fab, .out, .ptb, .reg, .free, .eth, .irq]) _ _ (by decide) (.refl _ s)).trans
      (hmsg.mono (by decide))
  · rw [State.bnd, hmsg.same .cmd (by decide)]
    exact State.bnd_setBnd_same hw _ _
  · exact State.mem_toDevice_out _ _ _ _ _

end

section
variable {dev : BitVec 6} (hv : (s.bnd b.toNat).valid = true) (hl : s.isLead b.toNat = true) (hdev : dev ≠ s.sys.myDev)
  (hmask : (s.bnd b.toNat).mask.getLsbD dev.toNat = true) (hstep : step = (s.bnd b.toNat).step.truncate 20)
include hv hl hdev hmask hstep

omit hcanon in
/-- PTB_BUOYDLY with STEPBUOY holds a signal of another device (R535). -/
theorem buoySignal_other_held (hp : s.ptbStepBuoy = true) :
    Spec.Run (.stepBuoySignal b dev step gates status) s [.ptb, .reg] (fun u => u.ptb = s.ptb ++ [.step b dev step gates status]) := by
  have hbv : BitVec.ofNat 6 b.toNat = b := by rw [BitVec.ofNat_toNat, BitVec.setWidth_eq]
  have hf := State.buoySignal_other step gates status hv hl hdev hmask hstep
  rw [State.stepSignalHere_held _ _ _ _ hp, hbv] at hf
  refine Run_of_live (f := fun s => s.buoySignal b.toNat dev step gates status) ha rfl ?_ ?_ <;> rw [hf]
  · exact Frame_of_only (State.ptbHold_Only _ _ (by decide) (by decide) (.refl _ s)) (by decide)
  · exact State.ptbHold_ptb _ _

omit ha hv hmask hstep in
/-- The lead takes the signal of another device with its gates and its status. -/
theorem takeSignal_other_counted (hnew : dev.toNat ∉ (s.bnd b.toNat).signals) (hq : ∀ q ∈ (s.bnd b.toNat).queue, q.left ≠ some 0) :
    SignalCounted s (s.takeSignal b.toNat dev.toNat gates status) b.toNat dev.toNat gates ((s.bnd b.toNat).marked status) := by
  have htaken := State.takeSignal_taken (Canon_bindings hcanon) (Canon_buoys hcanon) (b := b.toNat) gates (st := status) hnew
    (fun _ => ⟨hl, hq⟩)
  rwa [if_neg (fun h => hdev (BitVec.eq_of_toNat_eq h))] at htaken

theorem buoySignal_other_taken (hp : s.ptbStepBuoy = false) (hnew : dev.toNat ∉ (s.bnd b.toNat).signals)
    (hq : ∀ q ∈ (s.bnd b.toNat).queue, q.left ≠ some 0) :
    Spec.Run (.stepBuoySignal b dev step gates status) s [.cmd, .syn] (fun u =>
      SignalCounted s u b.toNat dev.toNat gates ((s.bnd b.toNat).marked status)) := by
  have hf := State.buoySignal_other step gates status hv hl hdev hmask hstep
  rw [State.stepSignalHere_taken _ _ _ _ hp] at hf
  refine Run_of_live (f := fun s => s.buoySignal b.toNat dev step gates status) ha rfl ?_ ?_ <;> rw [hf]
  · exact Frame_of_only (State.takeSignal_Only _ _ _ _ _ (by decide) (by decide) (.refl _ s)) (by decide)
  · exact takeSignal_other_counted gates status hcanon hl hdev hnew hq

/-- The oldest held signal is taken when its hold expires (R535). -/
theorem holdRelease_taken (hnew : dev.toNat ∉ (s.bnd b.toNat).signals) (hq : ∀ q ∈ (s.bnd b.toNat).queue, q.left ≠ some 0)
    (hfind : s.ptb.find? (fun y => decide (y.kind = 3)) = some (.step b dev step gates status)) :
    Spec.Run (.ptbHoldRelease 3) s [.cmd, .syn, .ptb, .reg] (fun u =>
      SignalCounted s u b.toNat dev.toNat gates ((s.bnd b.toNat).marked status) ∧ u.ptb = s.ptb.erase (.step b dev step gates status)) := by
  have hf := State.holdRelease_step step gates status hv hl hmask hstep hfind
  have hcanon' : Canon { s with ptb := s.ptb.erase (.step b dev step gates status) } := hcanon
  have hcounted := takeSignal_other_counted (s := { s with ptb := s.ptb.erase (.step b dev step gates status) }) gates status hcanon' hl hdev
    hnew hq
  have hptb : OnlyChanges [.cmd, .syn, .ptb, .reg] s { s with ptb := s.ptb.erase (.step b dev step gates status) } :=
    OnlyChanges.ptb_upd _ (by decide) (.refl _ s)
  have htake := State.takeSignal_Only (L := [.cmd, .syn]) { s with ptb := s.ptb.erase (.step b dev step gates status) } b.toNat dev.toNat
    gates status (by decide) (by decide) (.refl _ _)
  generalize ({ s with ptb := s.ptb.erase (.step b dev step gates status) }).takeSignal b.toNat dev.toNat gates status = t at *
  have hlast := State.ptbUpdate_Only (L := [.reg]) t (by decide) (.refl _ t)
  refine Run_of_live (f := fun s => s.holdRelease 3) ha rfl ?_ ⟨?_, ?_⟩ <;> rw [hf]
  · exact Frame_of_only (hptb.trans ((htake.mono (by decide)).trans (hlast.mono (by decide)))) (by decide)
  · unfold SignalCounted State.bnd State.buoy at hcounted ⊢
    rw [hlast.same .cmd (by decide), hlast.same .syn (by decide)]
    exact hcounted
  · exact (State.ptbUpdate_ptb t).trans (htake.same .ptb (by decide))

end

end

end Sys2Proof.Machine
end

section
namespace Sys2Proof.Machine

/-- A core ends phase 3, and its device signals the step buoy. -/
theorem doneAndSignal : Spec.DoneAndSignal := by
  intro s core b dev step gates status p n c k y x y' held taken hcanon ha
  have htaken : ∀ (d : BitVec 6) (g : List (BitVec 8 × Bool)) (st : Byte) (z w : Binding) (u : State), y' st z = w → w.signals = x.signals →
      w.gates = x.gates → w.nDevs = x.nDevs → w.lastHeld = x.lastHeld → SignalCounted s u b.toNat d.toNat g w → taken d g st z u := by
    rintro d g st z _ u rfl hsignals hgates hdevs hlast ⟨hbnd, hrest⟩
    unfold Binding.withSignal at hbnd
    rw [hsignals, hgates, hdevs, hlast] at hbnd
    exact ⟨hbnd, hrest⟩
  have hown : y' St.ok x.hasSignalled = x.hasSignalled := by
    show (match x.queue with
      | q :: r => if St.ok ≠ St.ok ∧ q.left ≠ some 0 then _ else _
      | [] => _) = _
    cases x.queue with
    | nil => rfl
    | cons q r => exact if_neg (by simp)
  have hother : y' status x = x.marked status := rfl
  have hmarked := x.marked_eq status
  have hcounted : ∀ u, SignalCounted s u b.toNat dev.toNat gates (x.marked status) → taken dev gates status x u := fun u =>
    htaken dev gates status x _ u hother (by rw [hmarked]) (by rw [hmarked]) (by rw [hmarked]; rfl) (by rw [hmarked])
  refine ⟨fun hp hf hh ht he => ⟨fun ho => ?_, fun ho hrep hne => ?_⟩, fun hv hr hs hd => ⟨?_, ?_, ?_⟩, fun _ _ hd => ?_,
    fun hv hl hdev hmask => ⟨?_, ?_, ?_, ?_⟩⟩
  · obtain ⟨honly, hcor, hcors, hbit, hregs, hbnd⟩ := State.coreDone_none hcanon rfl hp hf hh ht he ho
    exact To_of_live (f := fun s => s.coreDone core.toNat) ha rfl honly ⟨hcor, hcors, hbit, hregs, hbnd⟩
  · obtain ⟨honly, hcor, hreplica, hbnd⟩ := State.coreDone_one hcanon rfl hp hf hh ht he ho hrep hne
    exact To_of_live (f := fun s => s.coreDone core.toNat) ha rfl honly ⟨hcor, hreplica, hbnd⟩
  · exact fun hl hptb => buoySignal_own_held step gates status hcanon ha hv hr hs hd hl hptb
  · intro hl hptb hnew
    obtain ⟨u, hu, hframe, hc⟩ := buoySignal_own_taken step gates status hcanon ha hv hr hs hd hl hptb hnew
    exact ⟨u, hu, hframe, htaken s.sys.myDev [] St.ok x.hasSignalled _ u hown rfl rfl rfl rfl hc⟩
  · exact fun hl hlost => buoySignal_own_told step gates status hcanon ha hv hr hs hd hl hlost
  · exact (live_alive ha fun s => s.buoySignal b.toNat s.sys.myDev step gates status).trans
      (congrArg _ (State.buoySignal_early step gates status hd))
  · exact fun hstep hptb => buoySignal_other_held step gates status ha hv hl hdev hmask hstep hptb
  · intro hstep hnew hq hfind
    obtain ⟨u, hu, hframe, hc, hptb⟩ := holdRelease_taken step gates status hcanon ha hv hl hdev hmask hstep hnew hq hfind
    exact ⟨u, hu, hframe, hcounted u hc, hptb⟩
  · intro hstep hptb hnew hq
    obtain ⟨u, hu, hframe, hc⟩ := buoySignal_other_taken step gates status hcanon ha hv hl hdev hmask hstep hptb hnew hq
    exact ⟨u, hu, hframe, hcounted u hc⟩
  · intro hno
    refine (live_alive ha fun s => s.buoySignal b.toNat dev step gates status).trans (congrArg _ ?_)
    rcases hno with hstep | ⟨hptb, hagain⟩
    · exact State.buoySignal_late step gates status hdev hstep
    · by_cases hstep : step = x.step.truncate 20
      · rw [State.buoySignal_other step gates status hv hl hdev hmask hstep, State.stepSignalHere_taken step gates status dev hptb,
          State.takeSignal_again gates status hagain]
      · exact State.buoySignal_late step gates status hdev hstep

end Sys2Proof.Machine
end

section
namespace Sys2Proof.Machine

/-! ## The passes of a step end where no rule belongs to the binding (R164) -/

/-- A sequence of updates of which none changes the state. -/
theorem State.forAll_same {α : Type} {s : State} {f : State → α → State} {l : List α} (h : ∀ x ∈ l, f s x = s) : s.forAll l f = s := by
  induction l with
  | nil => rfl
  | cons x r ih =>
    have hx : s.forAll (x :: r) f = (f s x).forAll r f := rfl
    rw [hx, h x (by simp), ih fun y hy => h y (by simp [hy])]

/-- The registers that the end of a pass changes. -/
def passRegs : List Nat := (List.range 16).flatMap (fun n => [Reg.coreLrnStatus n, Reg.coreLrnWait n])

theorem mem_passRegs {a : Nat} : a ∈ passRegs ↔ ∃ n, n < 16 ∧ (a = Reg.coreLrnStatus n ∨ a = Reg.coreLrnWait n) := by
  simp only [passRegs, List.mem_flatMap, List.mem_range, List.mem_cons, List.not_mem_nil, or_false]

/-- The pass of a core ends with its step. -/
def State.passEnds (s : State) (n : Nat) : State :=
  if (s.cor n).learnDue then (s.learningPass n).countFree (Reg.coreLrnWait n) else s

/-- The passes of a binding end with its step. -/
def State.passesEnd (s : State) (b : Nat) : State := s.forAll (s.coresOf b) (fun s n => s.passEnds n)

/-- What passes without rules change: of a core that its pass is due. -/
structure Passed (s t : State) : Prop where
  only  : OnlyChanges [.core, .reg, .free] s t
  regs  : RegsOnly passRegs s t
  cores : Tab.wf (fun _ => Core.empty) t.core.cores
  cor   : ∀ n, ∃ due, t.cor n = { s.cor n with learnDue := due }

namespace Passed
variable {s t u : State}

theorem refl (h : Tab.wf (fun _ => Core.empty) s.core.cores) : Passed s s := ⟨.refl _ s, .refl _ s, h, fun n => ⟨(s.cor n).learnDue, rfl⟩⟩
theorem trans (h : Passed s t) (g : Passed t u) : Passed s u :=
  ⟨h.only.trans g.only, h.regs.trans g.regs, g.cores, fun n => by
    obtain ⟨d, hd⟩ := h.cor n
    obtain ⟨e, he⟩ := g.cor n
    exact ⟨e, by rw [he, hd]⟩⟩
theorem bound (h : Passed s t) (n : Nat) : (t.cor n).bound = (s.cor n).bound ∧ (t.cor n).binding = (s.cor n).binding := by
  obtain ⟨d, hd⟩ := h.cor n
  rw [hd]
  exact ⟨rfl, rfl⟩
theorem bindingRules (h : Passed s t) (b : Nat) : t.bindingRules b = s.bindingRules b :=
  State.bindingRules_congr (h.only.same .mem (by decide)) h.bound b

end Passed

theorem State.rulesOf_none {s : State} {b n : Nat} (hrules : s.bindingRules b = []) (hn : n ∈ s.coresOf b) :
    (s.rulesOf n).filter (fun m => (s.rule n m).binding = (s.cor n).binding.toNat) = [] := by
  obtain ⟨h16, hbound, hb⟩ := State.mem_coresOf.mp hn
  have hcore := List.flatMap_eq_nil_iff.mp hrules n (List.mem_range.mpr h16)
  rw [if_pos (by simp [hbound, hb])] at hcore
  rw [hb]
  exact List.map_eq_nil_iff.mp hcore

/-- Without rules a pass that was due is due no longer. -/
theorem State.passEnds_Passed {s : State} {b n : Nat} (hw : Tab.wf (fun _ => Core.empty) s.core.cores) (hrules : s.bindingRules b = [])
    (hn : n ∈ s.coresOf b) : Passed s (s.passEnds n) := by
  have hn16 := (State.mem_coresOf.mp hn).1
  have hstat : Reg.coreLrnStatus n ∈ passRegs := mem_passRegs.mpr ⟨n, hn16, .inl rfl⟩
  have hwait : Reg.coreLrnWait n ∈ passRegs := mem_passRegs.mpr ⟨n, hn16, .inr rfl⟩
  unfold State.passEnds
  split
  next hdue =>
    have hpass : s.learningPass n = (s.setCor n { s.cor n with learnDue := false }).rsetBit (Reg.coreLrnStatus n) 0 false := by
      unfold State.learningPass
      dsimp only
      rw [State.rulesOf_none hrules hn, hdue]
      rfl
    have hset : RegsOnly passRegs s (s.setCor n { s.cor n with learnDue := false }) := .of_reg rfl
    rw [hpass]
    refine ⟨State.countFree_Only _ _ (by decide) (by decide) (State.rsetBit_Only _ _ _ _ (by decide) (State.setCor_Only _ _ (by decide)
      (.refl _ s))), hset.trans ((RegsOnly.rsetBit _ 0 false hstat).trans (.countFree _ hwait)), Tab.wf_set hw _ _, fun m => ?_⟩
    by_cases hm : m = n
    · rw [hm]
      exact ⟨false, State.cor_setCor_same hw n _⟩
    · exact ⟨(s.cor m).learnDue, State.cor_setCor_other hw _ hm⟩
  · exact .refl hw

theorem State.forAll_passEnds {s : State} {b : Nat} (hw : Tab.wf (fun _ => Core.empty) s.core.cores) (hrules : s.bindingRules b = [])
    (ns : List Nat) (hns : ∀ n ∈ ns, n ∈ s.coresOf b) : Passed s (s.forAll ns (fun s n => s.passEnds n)) := by
  induction ns generalizing s with
  | nil => exact .refl hw
  | cons n r ih =>
    have hone := State.passEnds_Passed hw hrules (hns n (by simp))
    refine hone.trans (ih hone.cores ((hone.bindingRules b).trans hrules) fun m hm => ?_)
    obtain ⟨hm16, hmb, hmk⟩ := State.mem_coresOf.mp (hns m (by simp [hm]))
    obtain ⟨hbound, hbinding⟩ := hone.bound m
    exact State.mem_coresOf.mpr ⟨hm16, hbound.trans hmb, by rw [hbinding]; exact hmk⟩

theorem State.passesEnd_Passed {s : State} {b : Nat} (hw : Tab.wf (fun _ => Core.empty) s.core.cores) (hrules : s.bindingRules b = []) :
    Passed s (s.passesEnd b) := State.forAll_passEnds hw hrules _ fun _ h => h

/-! ## Decodes fall due where no decoder belongs to the binding (R247, R249) -/

theorem State.chanCtxs_none {s : State} {b h : Nat} (hd : s.decoders b = []) (hh : h ∈ s.chansOf b true) : s.chanCtxs h = [] :=
  List.map_eq_nil_iff.mp (List.flatMap_eq_nil_iff.mp hd h hh)

/-- An update instant of channels without instances touches registers only. -/
theorem State.emitAll_regOnly {s : State} (b : Nat) {l : List Nat} (hl : ∀ h ∈ l, s.chanCtxs h = []) :
    OnlyChanges [.reg] s (s.emitAll b l) := by
  unfold State.emitAll
  dsimp only
  generalize s.rbit (Reg.cmdStepStatus b) 3 = ramped
  generalize ((s.bnd b).running && (s.bnd b).overran) = overran
  induction l generalizing s with
  | nil => exact .refl _ s
  | cons h r ih =>
    have hnone := hl h (by simp)
    have hone : OnlyChanges [.reg] s (s.rsetField (Reg.cnvChStat h) 21 2 0) := State.rsetField_Only _ _ _ _ _ (by decide) (.refl _ s)
    have hrest := ih (s := s.rsetField (Reg.cnvChStat h) 21 2 0) fun h' hh' => hl h' (by simp [hh'])
    simp only [State.forAll, List.foldl_cons] at hrest ⊢
    rw [hnone]
    exact hone.trans hrest

theorem State.updateInstant_regOnly {s : State} {b : Nat} (hd : s.decoders b = []) : OnlyChanges [.reg] s (s.updateInstant b) :=
  State.emitAll_regOnly b fun _ hh => State.chanCtxs_none hd (List.mem_filter.mp hh).1

/-- Without decoders, and with no DECODE waiting, a step's end is an update instant at once. -/
theorem State.decodesDue_none {s : State} {b : Nat} (hd : s.decoders b = []) (hq : s.cnv.decodes = []) : s.decodesDue b = s.updateInstant b := by
  have hinsts : s.forAll (s.chansOf b true) (fun s h => s.forAll ((s.chanCtxs h).filter (fun p => p.2.active)) (fun s p =>
      s.setInst h p.2.cidx.toNat { s.instOf h p.2.cidx.toNat with due := some p.2.cstep })) = s :=
    State.forAll_same fun h hh => by rw [State.chanCtxs_none hd hh]; rfl
  have hnone : s.noneDue b = true := List.all_eq_true.mpr fun h hh => by rw [State.chanCtxs_none hd hh]; rfl
  have hcnv : ∀ f : DecodeReq → DecodeReq, { s with cnv := { s.cnv with decodes := s.cnv.decodes.map f } } = s := fun f => by
    rw [hq, List.map_nil, ← hq]
  have hdecodes : (s.updateInstant b).cnv.decodes = [] := by
    rw [(State.updateInstant_regOnly hd).same .cnv (by decide)]
    exact hq
  have hserve : (s.updateInstant b).serveDecodes = s.updateInstant b := by
    unfold State.serveDecodes
    rw [hdecodes]
    rfl
  unfold State.decodesDue
  dsimp only
  rw [hd, show s.forAll [] (fun s (p : Nat × Nat) => s.decodeInstance p.1 p.2) = s from rfl, hinsts, hcnv, if_pos hnone, hserve]

end Sys2Proof.Machine
end

section
namespace Sys2Proof.Machine

/-! ## The stages of a step's end (R30, R34, R39, R225) -/

/-- Time and what held last are recorded, and decodes fall due. -/
def State.stepTimed (s : State) (b : Nat) (x : Binding) : State :=
  ((s.stretch b (aclkOf (s.tmr.tb.toNat - x.startedAt.toNat) - x.lenIn.toNat)).rset (Reg.fabRtrLast b) x.lastHeld).decodesDue b
/-- The contexts that took part advance (R30). -/
def State.ctxsAdvance (s : State) (b : Nat) : State :=
  s.forAll ((s.ctxsOf b).filter (fun p => p.2.active)) (fun s p => s.setCtx p.1 { p.2 with cstep := p.2.cstep + 1 })
/-- A step that did not overrun ends a row of overruns (R43). -/
def State.rowEnds (s : State) (b : Nat) (x : Binding) : State :=
  if x.overran then s else (s.rsetField (Reg.cmdStepOverrun b) 24 8 0).rsetBit (Reg.cmdStepStatus b) 3 false
/-- The binding counts its step. -/
def Binding.counted (x : Binding) (step : BitVec 48) : Binding :=
  { x with running := false, step := step + 1, signals := [], signalled := false, queue := countStep x.queue }
/-- The registers and contexts of a step that has ended. -/
def State.stepRecorded (s : State) (b : Nat) : State :=
  let t := s.passesEnd b
  ((t.stepTimed b (t.bnd b)).ctxsAdvance b).rowEnds b (t.bnd b)
/-- The step is counted and its buoy empty. -/
def State.stepCounted (s : State) (b : Nat) : State :=
  let u := s.stepRecorded b
  (u.setBnd b ((u.bnd b).counted ((s.passesEnd b).bnd b).step)).setBuoy (stepBuoy b) 0
/-- A device's share of the reservation follows the other devices (R214). -/
def State.stepReserved (s : State) (b : Nat) : State :=
  let v := s.stepCounted b
  if v.alone b then v else v.reserve b

theorem State.endStep_eq (s : State) (b : Nat) : s.endStep b =
    let y := (((s.stepReserved b).applyVotes b).regate b).finishSteps b
    if (y.bnd b).halting && !(y.bnd b).windowOpen then y.haltNow b else y := rfl

/-- The registers that the end of a step changes. -/
def endRegs (b : Nat) (chans : List Nat) : List Nat :=
  [Reg.cmdStepStretch b, Reg.cmdStepStretchMax b, Reg.cmdStepStatus b, Reg.cmdStepOverrun b, Reg.fabRtrLast b] ++
    (passRegs ++ chans.map Reg.cnvChStat)

/-- Neither a rule nor a decoder belongs to the binding, and no DECODE waits. -/
structure Plain (s : State) (b : Nat) : Prop where
  rules    : s.bindingRules b = []
  decoders : s.decoders b = []
  decodes  : s.cnv.decodes = []

/-- A context whose step number has advanced. -/
def Ctx.advanced (c : Ctx) : Ctx := { c with cstep := c.cstep + 1 }

theorem State.ctxsAdvance_eq (s : State) (b : Nat) : s.ctxsAdvance b = { s with cmd := { s.cmd with
    ctxs := Tab.modAll (fun _ => Ctx.empty) Prod.fst (fun p _ => p.2.advanced) s.cmd.ctxs ((s.ctxsOf b).filter (fun p => p.2.active)) } } :=
  State.forAll_setCtx s (fun p => p.2.advanced) _

/-- A context after the advance: advanced, or as before. -/
theorem State.ctxsAdvance_ctx {s : State} (hw : Tab.wf (fun _ => Ctx.empty) s.cmd.ctxs) (b c : Nat) :
    ((s.ctxsAdvance b).ctx c = (s.ctx c).advanced ∧ ∃ p ∈ s.ctxsOf b, p.1 = c ∧ p.2.active = true) ∨ (s.ctxsAdvance b).ctx c = s.ctx c := by
  have hctx : (s.ctxsAdvance b).ctx c = Tab.get (fun _ => Ctx.empty) (Tab.modAll (fun _ => Ctx.empty) Prod.fst (fun p _ => p.2.advanced)
      s.cmd.ctxs ((s.ctxsOf b).filter (fun p => p.2.active))) c := by
    rw [State.ctxsAdvance_eq]
    rfl
  rw [hctx]
  by_cases hc : ∃ p ∈ (s.ctxsOf b).filter (fun p => p.2.active), p.1 = c
  · obtain ⟨p, hp, rfl⟩ := hc
    obtain ⟨hpb, hpa⟩ := List.mem_filter.mp hp
    refine .inl ⟨?_, p, hpb, rfl, hpa⟩
    rw [State.ctx_of_mem_ctxsOf hw hpb]
    exact Tab.get_modAll_mem _ hw ((State.nodup_ctxsOf hw b).sublist (List.filter_sublist.map _)) hp
  · exact .inr (Tab.get_modAll_other _ hw fun p hp he => hc ⟨p, hp, he⟩)

theorem State.ctxsAdvance_mem {s : State} (hw : Tab.wf (fun _ => Ctx.empty) s.cmd.ctxs) {b : Nat} {p : Nat × Ctx} (hp : p ∈ s.ctxsOf b) :
    (s.ctxsAdvance b).ctx p.1 = if p.2.active then p.2.advanced else p.2 := by
  have hpc := State.ctx_of_mem_ctxsOf hw hp
  split
  next ha =>
    have hctx : (s.ctxsAdvance b).ctx p.1 = Tab.get (fun _ => Ctx.empty) (Tab.modAll (fun _ => Ctx.empty) Prod.fst (fun p _ => p.2.advanced)
        s.cmd.ctxs ((s.ctxsOf b).filter (fun p => p.2.active))) p.1 := by
      rw [State.ctxsAdvance_eq]
      rfl
    rw [hctx]
    exact Tab.get_modAll_mem _ hw ((State.nodup_ctxsOf hw b).sublist (List.filter_sublist.map _)) (List.mem_filter.mpr ⟨hp, ha⟩)
  next ha =>
    rcases State.ctxsAdvance_ctx hw b p.1 with ⟨-, q, hq, hqp, hqa⟩ | h
    · rw [← State.ctx_of_mem_ctxsOf hw hq, hqp, hpc] at hqa
      exact absurd hqa ha
    · exact h.trans hpc

section
variable {s : State} {b : Nat}

theorem State.decoders_congr {t : State} (hcnv : t.cnv = s.cnv) (hctxs : t.cmd.ctxs = s.cmd.ctxs) (b : Nat) : t.decoders b = s.decoders b := by
  have hchan : ∀ h, t.chan h = s.chan h := fun h => by simp only [State.chan, hcnv]
  have hctxsOf : ∀ k, t.ctxsOf k = s.ctxsOf k := fun k => by unfold State.ctxsOf; rw [hctxs]
  have hchanCtxs : ∀ h, t.chanCtxs h = s.chanCtxs h := fun h => by unfold State.chanCtxs; rw [hchan, hctxsOf]
  have hchans : t.chansOf b true = s.chansOf b true := by unfold State.chansOf; rw [hcnv]
  simp only [State.decoders, hchans, hchanCtxs]

/-- What time, the decodes that fall due and the end of a row of overruns change, where no decoder belongs to the binding: registers only. -/
theorem State.stepTimed_kept (hd : s.decoders b = []) (hq : s.cnv.decodes = []) (x : Binding) :
    OnlyChanges [.reg] s (s.stepTimed b x) ∧ RegsOnly (endRegs b (s.chansOf b true)) s (s.stepTimed b x) ∧
    (Tab.wf regReset s.reg.vals → b < 64 → (s.stepTimed b x).rget (Reg.fabRtrLast b) = x.lastHeld) := by
  generalize hlate : aclkOf (s.tmr.tb.toNat - x.startedAt.toNat) - x.lenIn.toNat = late
  have hstretch : OnlyChanges [.reg] s (s.stretch b late) := State.stretch_Only _ _ _ (by decide) (.refl _ s)
  have hstretchRegs : RegsOnly (endRegs b (s.chansOf b true)) s (s.stretch b late) := by
    have hcount : RegsOnly (endRegs b (s.chansOf b true)) s (s.count (Reg.cmdStepStretch b) 1) := .count s 1 (by simp [endRegs])
    exact .ite (fun _ => .refl _ s) fun _ => hcount.trans ((RegsOnly.maxReg _ late (by simp [endRegs])).trans
      (.rsetBit _ 1 true (by simp [endRegs])))
  have hlast : OnlyChanges [.reg] s ((s.stretch b late).rset (Reg.fabRtrLast b) x.lastHeld) := State.rset_Only _ _ (by decide) hstretch
  have hlastRegs := hstretchRegs.trans (.rset (s.stretch b late) (k := Reg.fabRtrLast b) x.lastHeld (by simp [endRegs]))
  have htimed : s.stepTimed b x = ((s.stretch b late).rset (Reg.fabRtrLast b) x.lastHeld).decodesDue b := by rw [← hlate]; rfl
  generalize ht : (s.stretch b late).rset (Reg.fabRtrLast b) x.lastHeld = t at hlast hlastRegs htimed
  have hcnv : t.cnv = s.cnv := hlast.same .cnv (by decide)
  have hcmd : t.cmd = s.cmd := hlast.same .cmd (by decide)
  have hdt : t.decoders b = [] := (State.decoders_congr hcnv (by rw [hcmd]) b).trans hd
  have hchans : t.chansOf b true = s.chansOf b true := by unfold State.chansOf; rw [hcnv]
  have hinstant := State.updateInstant_RegsOnly t b
  rw [hchans] at hinstant
  rw [htimed, State.decodesDue_none hdt (by rw [hcnv]; exact hq)]
  refine ⟨hlast.trans (State.updateInstant_regOnly hdt), hlastRegs.trans (hinstant.mono fun a ha => by simp [endRegs, ha]), fun hr hb => ?_⟩
  rw [hinstant.get (hlastRegs.wf hr) (not_mem_cnvChStat (by simp only [Reg.fabRtrLast]; omega)), ← ht]
  exact State.rget_rset_same (hstretchRegs.wf hr) _ _

theorem State.rowEnds_kept (s : State) (b : Nat) (x : Binding) : OnlyChanges [.reg] s (s.rowEnds b x) ∧
    RegsOnly [Reg.cmdStepOverrun b, Reg.cmdStepStatus b] s (s.rowEnds b x) := by
  have hfield : RegsOnly [Reg.cmdStepOverrun b, Reg.cmdStepStatus b] s (s.rsetField (Reg.cmdStepOverrun b) 24 8 0) := .rsetField s 24 8 0 (by simp)
  unfold State.rowEnds
  split
  · exact ⟨.refl _ s, .refl _ s⟩
  · exact ⟨State.rsetBit_Only _ _ _ _ (by decide) (State.rsetField_Only _ _ _ _ _ (by decide) (.refl _ s)),
      hfield.trans (.rsetBit _ 3 false (by simp))⟩

end

end Sys2Proof.Machine
end

section
namespace Sys2Proof.Machine

/-! ## A step has ended where neither a rule nor a decoder belongs to its binding -/

/-- What time and contexts record at a step's end. -/
structure Recorded (s u : State) (b : Nat) : Prop where
  only  : OnlyChanges [.cmd, .core, .reg, .free] s u
  cmd   : u.cmd = { s.cmd with ctxs := u.cmd.ctxs }
  ctxs  : u.cmd.ctxs = (s.ctxsAdvance b).cmd.ctxs
  bound : ∀ n, (u.cor n).bound = (s.cor n).bound ∧ (u.cor n).binding = (s.cor n).binding
  regs  : RegsOnly (endRegs b (s.chansOf b true)) s u
  last  : b < 64 → u.rget (Reg.fabRtrLast b) = (s.bnd b).lastHeld

section
variable {s : State} {b : Nat} (hcanon : Canon s) (hp : Plain s b)
include hcanon hp

theorem State.stepRecorded_Recorded : Recorded s (s.stepRecorded b) b := by
  have hr := Canon_vals hcanon
  have hpassed := State.passesEnd_Passed (Canon_cores hcanon) hp.rules
  have hcmd : (s.passesEnd b).cmd = s.cmd := hpassed.only.same .cmd (by decide)
  have hcnv : (s.passesEnd b).cnv = s.cnv := hpassed.only.same .cnv (by decide)
  have hbnd : (s.passesEnd b).bnd b = s.bnd b := by simp only [State.bnd, hcmd]
  have hchans : (s.passesEnd b).chansOf b true = s.chansOf b true := by unfold State.chansOf; rw [hcnv]
  have hd : (s.passesEnd b).decoders b = [] := (State.decoders_congr hcnv (by rw [hcmd]) b).trans hp.decoders
  obtain ⟨htimed, htimedRegs, hlast⟩ := State.stepTimed_kept hd (by rw [hcnv]; exact hp.decodes) (s.bnd b)
  rw [hchans] at htimedRegs
  have hpassRegs : RegsOnly (endRegs b (s.chansOf b true)) s (s.passesEnd b) := hpassed.regs.mono fun a ha => by simp [endRegs, ha]
  have hpw := hpassRegs.wf hr
  have hrec : s.stepRecorded b = (((s.passesEnd b).stepTimed b (s.bnd b)).ctxsAdvance b).rowEnds b (s.bnd b) := by rw [← hbnd]; rfl
  generalize ht : (s.passesEnd b).stepTimed b (s.bnd b) = t at *
  have htcmd : t.cmd = s.cmd := (htimed.same .cmd (by decide)).trans hcmd
  have hctxs : (t.ctxsAdvance b).cmd = { s.cmd with ctxs := (s.ctxsAdvance b).cmd.ctxs } := by
    simp only [State.ctxsAdvance_eq, State.ctxsOf, htcmd]
  have hadvance : OnlyChanges [.cmd] t (t.ctxsAdvance b) := by
    rw [State.ctxsAdvance_eq]
    exact OnlyChanges.cmd_upd _ (by decide) (.refl _ t)
  have hadvanceReg : (t.ctxsAdvance b).reg = t.reg := hadvance.same .reg (by decide)
  obtain ⟨hrow, hrowRegs⟩ := (t.ctxsAdvance b).rowEnds_kept b (s.bnd b)
  have hcore : (s.stepRecorded b).core = (s.passesEnd b).core := by
    rw [hrec, hrow.same .core (by decide), hadvance.same .core (by decide), htimed.same .core (by decide)]
  have hfinal : (s.stepRecorded b).cmd = { s.cmd with ctxs := (s.ctxsAdvance b).cmd.ctxs } := by
    rw [hrec, hrow.same .cmd (by decide), hctxs]
  have htregs := hpassRegs.trans htimedRegs
  have haregs := htregs.trans (.of_reg hadvanceReg)
  refine ⟨?_, by rw [hfinal], by rw [hfinal], fun n => ?_, ?_, fun hb => ?_⟩
  · rw [hrec]
    exact (hpassed.only.mono (by decide)).trans ((htimed.mono (by decide)).trans ((hadvance.mono (by decide)).trans (hrow.mono (by decide))))
  · simp only [State.cor, hcore]
    exact hpassed.bound n
  · rw [hrec]
    exact haregs.trans (hrowRegs.mono (by simp [endRegs]))
  · have hsame : (s.stepRecorded b).rget (Reg.fabRtrLast b) = (t.ctxsAdvance b).rget (Reg.fabRtrLast b) := by
      rw [hrec]
      refine hrowRegs.get (haregs.wf hr) ?_
      simp only [List.mem_cons, List.not_mem_nil, or_false, Reg.fabRtrLast, Reg.cmdStepOverrun, Reg.cmdStepStatus]
      omega
    rw [hsame, State.rget, hadvanceReg]
    exact hlast hpw hb

/-- The step counted and the reservation made are one write to the binding. -/
theorem State.stepReserved_eq : ∃ sp, s.stepReserved b =
    ((s.stepRecorded b).setBnd b { (s.bnd b).counted (s.bnd b).step with spill := sp }).setBuoy (stepBuoy b) 0 := by
  have hrec := State.stepRecorded_Recorded hcanon hp
  have hbindings : (s.stepRecorded b).cmd.bindings = s.cmd.bindings := by rw [hrec.cmd]
  have hw : Tab.wf (fun _ => Binding.empty) (s.stepRecorded b).cmd.bindings := by rw [hbindings]; exact Canon_bindings hcanon
  have hbnd : (s.stepRecorded b).bnd b = s.bnd b := by simp only [State.bnd, hbindings]
  have hpcmd : (s.passesEnd b).cmd = s.cmd := (State.passesEnd_Passed (Canon_cores hcanon) hp.rules).only.same .cmd (by decide)
  have hstep : ((s.passesEnd b).bnd b).step = (s.bnd b).step := by simp only [State.bnd, hpcmd]
  have hcounted : s.stepCounted b = ((s.stepRecorded b).setBnd b ((s.bnd b).counted (s.bnd b).step)).setBuoy (stepBuoy b) 0 := by
    unfold State.stepCounted
    dsimp only
    rw [hbnd, hstep]
  have hread : (s.stepCounted b).bnd b = (s.bnd b).counted (s.bnd b).step := by
    rw [hcounted, State.bnd_setBuoy]
    exact State.bnd_setBnd_same hw b _
  have hreserve : (s.stepCounted b).reserve b = (s.stepCounted b).setBnd b { (s.stepCounted b).bnd b with
    spill := (s.stepCounted b).spillNeed b } := rfl
  have hswap : ∀ (t : State) (x : Binding) (k : Nat) (v : BitVec 31), (t.setBuoy k v).setBnd b x = (t.setBnd b x).setBuoy k v := fun _ _ _ _ => rfl
  unfold State.stepReserved
  dsimp only
  split
  · exact ⟨((s.bnd b).counted (s.bnd b).step).spill, hcounted⟩
  · refine ⟨(s.stepCounted b).spillNeed b, ?_⟩
    rw [hreserve, hread]
    generalize (s.stepCounted b).spillNeed b = sp
    rw [hcounted, hswap, State.setBnd_setBnd hw]

end

end Sys2Proof.Machine
end

section
namespace Sys2Proof.Machine

/-- What the end of a step leaves, before its commands are judged. -/
structure StepOver (s w : State) (b : Nat) : Prop where
  only  : OnlyChanges [.cmd, .core, .reg, .syn, .free] s w
  wf    : Tab.wf (fun _ => Binding.empty) w.cmd.bindings
  bnd   : ∃ sp, w.bnd b = { (s.bnd b).counted (s.bnd b).step with spill := sp }
  other : ∀ m, m ≠ b → w.bnd m = s.bnd m
  buoy  : w.buoy (stepBuoy b) = 0
  buoys : ∀ m, m ≠ stepBuoy b → w.buoy m = s.buoy m
  ctxs  : w.cmd.ctxs = (s.ctxsAdvance b).cmd.ctxs
  bound : ∀ n, (w.cor n).bound = (s.cor n).bound ∧ (w.cor n).binding = (s.cor n).binding
  regs  : RegsOnly (endRegs b (s.chansOf b true)) s w
  last  : b < 64 → w.rget (Reg.fabRtrLast b) = (s.bnd b).lastHeld

theorem State.stepReserved_StepOver {s : State} {b : Nat} (hcanon : Canon s) (hp : Plain s b) : StepOver s (s.stepReserved b) b := by
  have hrec := State.stepRecorded_Recorded hcanon hp
  obtain ⟨sp, heq⟩ := State.stepReserved_eq hcanon hp
  have hbindings : (s.stepRecorded b).cmd.bindings = s.cmd.bindings := by rw [hrec.cmd]
  have hw : Tab.wf (fun _ => Binding.empty) (s.stepRecorded b).cmd.bindings := by rw [hbindings]; exact Canon_bindings hcanon
  have hsyn : (s.stepRecorded b).syn = s.syn := hrec.only.same .syn (by decide)
  have hbuoys : Tab.wf (fun _ => 0) (s.stepRecorded b).syn.buoys := by rw [hsyn]; exact Canon_buoys hcanon
  have hbuoy : ∀ m, (s.stepRecorded b).buoy m = s.buoy m := fun m => by simp only [State.buoy, hsyn]
  have hbnd : ∀ m, (s.stepRecorded b).bnd m = s.bnd m := fun m => by simp only [State.bnd, hbindings]
  rw [heq]
  generalize s.stepRecorded b = u at *
  refine ⟨?_, Tab.wf_set hw _ _, ⟨sp, State.bnd_setBnd_same hw b _⟩, fun m hm => (State.bnd_setBnd_other hw _ hm).trans (hbnd m),
    State.buoy_setBuoy_same (s := u.setBnd b _) hbuoys _ _, fun m hm => (State.buoy_setBuoy_other (s := u.setBnd b _) hbuoys _ hm).trans (hbuoy m),
    hrec.ctxs, hrec.bound, hrec.regs.trans (.of_reg rfl), hrec.last⟩
  exact State.setBuoy_Only _ _ (by decide) (State.setBnd_Only _ _ (by decide) (hrec.only.mono (by decide)))

/-! ## Votes, gates and commands at the end of a step (R176, R183, R188) -/

theorem State.applyVotes_none {s : State} {b : Nat} (hw : Tab.wf (fun _ => Binding.empty) s.cmd.bindings) (hv : (s.bnd b).votes = []) :
    s.applyVotes b = s := by
  have hset : s.setBnd b { s.bnd b with votes := [] } = s := by
    rw [← hv]
    exact State.setBnd_bnd hw b
  unfold State.applyVotes
  dsimp only
  split
  · rfl
  · rw [hv, List.filter_nil, List.filter_nil, hset]
    rfl

/-- Without rules no context is at a gate. -/
theorem State.regate_none {s : State} {b : Nat} (hw : Tab.wf (fun _ => Ctx.empty) s.cmd.ctxs) (hrules : s.bindingRules b = [])
    (hg : ∀ p ∈ s.ctxsOf b, p.2.gated = false) : s.regate b = s := by
  refine State.forAll_same fun p hp => ?_
  obtain ⟨-, -, hb⟩ := State.mem_ctxsOf.mp hp
  have hctx := State.ctx_of_mem_ctxsOf hw hp
  have hmust : s.mustGate p.2 = false := by
    unfold State.mustGate
    rw [hb, hrules]
    exact Bool.and_false _
  have hset : s.setCtx p.1 { s.ctx p.1 with gated := false } = s := by
    have hsame : { s.ctx p.1 with gated := false } = s.ctx p.1 := by rw [hctx, ← hg p hp]
    rw [hsame]
    exact State.setCtx_ctx hw p.1
  simp only [hmust, hg p hp, hset]
  rfl

/-- Without rules the epochs that a broadcast brings change nothing. -/
theorem State.epochsIn_none {s : State} {b : Nat} (hw : Tab.wf (fun _ => Ctx.empty) s.cmd.ctxs) (hrules : s.bindingRules b = [])
    (hg : ∀ p ∈ s.ctxsOf b, p.2.gated = false) (l : List (BitVec 8 × BitVec 24 × BitVec 48)) : s.epochsIn b l = s := by
  refine State.forAll_same fun e _ => ?_
  have hgroup : s.groupRules b e.1.toNat = [] := by
    unfold State.groupRules
    rw [hrules]
    rfl
  unfold State.epochSet
  rw [hgroup]
  exact State.regate_none hw hrules hg

theorem State.groupsOf_none {s : State} {b : Nat} (hrules : s.bindingRules b = []) : s.groupsOf b = [] := by
  unfold State.groupsOf
  rw [hrules]
  rfl

/-- A binding without a command has none to complete. -/
theorem State.finishSteps_none {s : State} {b : Nat} (hw : Tab.wf (fun _ => Binding.empty) s.cmd.bindings) (hq : (s.bnd b).queue = []) :
    s.finishSteps b = s := by
  have hset : s.setBnd b { s.bnd b with queue := [] } = s := by
    rw [← hq]
    exact State.setBnd_bnd hw b
  unfold State.finishSteps
  dsimp only
  rw [hq]
  exact hset

/-- The only command of a binding that has no group completes when it has no step left. -/
theorem State.finishSteps_one {s : State} {b : Nat} {q : StepCmd} (hq : (s.bnd b).queue = [q]) (hwaits : q.waits = [])
    (hgroups : s.groupsOf b = []) (hfar : s.farGroups b = []) : s.finishSteps b =
      (s.setBnd b { s.bnd b with queue := [q].filter (fun q => !(q.left = some 0 && q.waits = [])) }).forAll
        ([q].filter (fun q => q.left = some 0 && q.waits = [])) (fun s q => s.complete q.hdr q.cseq q.opcode q.status q.ran) := by
  have hwait : { q with waits := q.waits ++ [] } = q := by rw [List.append_nil]
  have hlast : waitLast [] [q] = [q] := by
    unfold waitLast
    rw [hwait]
    split <;> rfl
  have hmap : [q].map (fun q => { q with waits := q.waits.filter (fun g => s.autoBusy b g.toNat) }) = [q] := by
    rw [List.map_singleton, hwaits, List.filter_nil, ← hwaits]
  unfold State.finishSteps
  dsimp only
  rw [hgroups, hfar, hq, List.append_nil, List.filter_nil, List.map_nil, List.filter_nil, hlast, hmap]

end Sys2Proof.Machine
end

section
namespace Sys2Proof.Machine

/-! ## The completion of a command (R263) -/

/-- What a completion leaves of the command engine, and the record it gives. -/
structure Completed (h : Hdr) (cpl : Cpl) (s t : State) : Prop where
  only     : OnlyChanges [.reg, .cmd, .eth, .irq, .out] s t
  bindings : t.cmd.bindings = s.cmd.bindings
  ctxs     : t.cmd.ctxs = s.cmd.ctxs
  regs     : RegsOnly sentRegs s t
  record   : h.quiet = false → cpl ∈ t.cmd.cpls

/-- The completion before its interrupt. -/
def State.closedCmd (s : State) (h : Hdr) (cseq : Word64) (op st : Byte) (res : Nat) : State :=
  let x := s.strm h.stream.toNat
  let t := s.setStrm h.stream.toNat { x with outst := x.outst.filter (fun o => o.cseq ≠ cseq), lastStatus := st, lastOpcode := op }
  if h.quiet && st = St.ok then t else t.record h cseq op st res

theorem State.complete_eq (s : State) (h : Hdr) (cseq : Word64) (op st : Byte) (res : Nat) : s.complete h cseq op st res =
    if h.irq then (s.closedCmd h cseq op st res).raise (201 + h.stream.toNat) else s.closedCmd h cseq op st res := rfl

theorem State.closedCmd_Completed (s : State) (h : Hdr) (cseq : Word64) (op st : Byte) (res : Nat) :
    Completed h ⟨cseq, op, st, h.stream, BitVec.ofNat 40 res⟩ s (s.closedCmd h cseq op st res) := by
  unfold State.closedCmd
  dsimp only
  split
  next hq => exact ⟨State.setStrm_Only _ _ (by decide) (.refl _ s), rfl, rfl, .of_reg rfl, fun hn => absurd hq (by simp [hn])⟩
  next => exact ⟨State.record_Only _ _ _ _ _ _ (by decide) (State.setStrm_Only _ _ (by decide) (.refl _ s)), rfl, rfl, .of_reg rfl,
      fun _ => List.mem_append_right _ (List.mem_singleton_self _)⟩

theorem State.complete_Completed (s : State) (h : Hdr) (cseq : Word64) (op st : Byte) (res : Nat) :
    Completed h ⟨cseq, op, st, h.stream, BitVec.ofNat 40 res⟩ s (s.complete h cseq op st res) := by
  have hclosed := s.closedCmd_Completed h cseq op st res
  rw [State.complete_eq]
  generalize s.closedCmd h cseq op st res = t at hclosed
  split
  · have hcmd := State.raise_cmd t (201 + h.stream.toNat)
    refine ⟨State.raise_Only _ _ (by decide) (by decide) (by decide) (by decide) hclosed.only, ?_, ?_, ?_, ?_⟩
    · rw [hcmd]; exact hclosed.bindings
    · rw [hcmd]; exact hclosed.ctxs
    · exact hclosed.regs.trans (State.raise_Sent t _).regs
    · rw [hcmd]; exact hclosed.record
  · exact hclosed

/-! ## The step has ended -/

/-- An entry that reads otherwise than the default stands in the table. -/
theorem Tab.mem_of_get {α : Type} {d : Nat → α} {t : Tab α} {k : Nat} (h : Tab.get d t k ≠ d k) : (k, Tab.get d t k) ∈ t := by
  induction t with
  | nil => exact absurd rfl h
  | cons p r ih =>
    rw [Tab.get] at h ⊢
    split
    next he => simp [← he]
    next he =>
      rw [if_neg he] at h
      split
      next hlt => exact absurd (if_pos hlt) h
      next hlt =>
        rw [if_neg hlt] at h
        exact List.mem_cons_of_mem _ (ih h)

/-- What the theorems about a step's end take from their state: no rule and no decoder belongs to the binding, no vote waits, no context is
gated, and no HALT waits. -/
structure Calm (s : State) (b : Nat) : Prop extends Plain s b where
  votes   : (s.bnd b).votes = []
  ungated : ∀ p ∈ s.ctxsOf b, p.2.gated = false
  running : (s.bnd b).halting = false

section
variable {s : State} {b : Nat} (hcanon : Canon s) (hc : Calm s b)
include hcanon hc

theorem State.stepReserved_ctxs_wf : Tab.wf (fun _ => Ctx.empty) (s.stepReserved b).cmd.ctxs := by
  rw [(State.stepReserved_StepOver hcanon hc.toPlain).ctxs, State.ctxsAdvance_eq]
  exact Tab.wf_modAll Prod.fst (fun p (_ : Ctx) => Ctx.advanced p.2) ((s.ctxsOf b).filter (fun p => p.2.active)) (Canon_ctxs hcanon)

theorem State.stepReserved_rules : (s.stepReserved b).bindingRules b = [] := by
  have hover := State.stepReserved_StepOver hcanon hc.toPlain
  exact (State.bindingRules_congr (hover.only.same .mem (by decide)) hover.bound b).trans hc.rules

/-- The end of a step gates no context. -/
theorem State.stepReserved_ungated : ∀ p ∈ (s.stepReserved b).ctxsOf b, p.2.gated = false := by
  intro p hp
  obtain ⟨-, hvalid, hb⟩ := State.mem_ctxsOf.mp hp
  have hw := Canon_ctxs hcanon
  have hctx := State.ctx_of_mem_ctxsOf (State.stepReserved_ctxs_wf hcanon hc) hp
  rw [State.ctx, (State.stepReserved_StepOver hcanon hc.toPlain).ctxs] at hctx
  have hsame : p.2.valid = (s.ctx p.1).valid ∧ p.2.binding = (s.ctx p.1).binding ∧ p.2.gated = (s.ctx p.1).gated := by
    rw [← hctx]
    rcases State.ctxsAdvance_ctx hw b p.1 with ⟨h, -⟩ | h
    · rw [State.ctx] at h
      rw [h]
      exact ⟨rfl, rfl, rfl⟩
    · rw [State.ctx] at h
      rw [h]
      exact ⟨rfl, rfl, rfl⟩
  obtain ⟨hv, hbind, hgated⟩ := hsame
  have hmem : (p.1, s.ctx p.1) ∈ s.cmd.ctxs := by
    refine Tab.mem_of_get fun he => ?_
    have hempty : s.ctx p.1 = Ctx.empty := he
    rw [hv, hempty] at hvalid
    exact absurd hvalid (by decide)
  rw [hgated]
  exact hc.ungated _ (State.mem_ctxsOf.mpr ⟨hmem, hv ▸ hvalid, hbind ▸ hb⟩)

/-- Votes and gates change nothing. -/
theorem State.stepReserved_still : ((s.stepReserved b).applyVotes b).regate b = s.stepReserved b := by
  have hover := State.stepReserved_StepOver hcanon hc.toPlain
  obtain ⟨sp, hbnd⟩ := hover.bnd
  rw [State.applyVotes_none hover.wf (by rw [hbnd]; exact hc.votes)]
  exact State.regate_none (State.stepReserved_ctxs_wf hcanon hc) (State.stepReserved_rules hcanon hc) (State.stepReserved_ungated hcanon hc)

/-- The end of a step in a binding without commands. -/
theorem State.endStep_none (hq : (s.bnd b).queue = []) : s.endStep b = s.stepReserved b := by
  have hover := State.stepReserved_StepOver hcanon hc.toPlain
  obtain ⟨sp, hbnd⟩ := hover.bnd
  have hqueue : ((s.stepReserved b).bnd b).queue = [] := by
    rw [hbnd]
    exact congrArg countStep hq
  have hhalt : ¬ (((s.stepReserved b).bnd b).halting && !((s.stepReserved b).bnd b).windowOpen) = true := by
    rw [hbnd]
    simp [Binding.counted, hc.running]
  rw [State.endStep_eq, State.stepReserved_still hcanon hc]
  dsimp only
  rw [State.finishSteps_none hover.wf hqueue, if_neg hhalt]

section
variable {q : StepCmd} (hq : (s.bnd b).queue = [q]) (hwaits : q.waits = []) (hfar : s.farGroups b = [])
include hq hwaits hfar

/-- The command that covers a step has counted it. -/
theorem State.finishSteps_counted {left : Nat} (hleft : q.left = some (left + 1)) : (s.stepReserved b).finishSteps b =
    ((s.stepReserved b).setBnd b { (s.stepReserved b).bnd b with
      queue := if left = 0 then [] else [{ q with ran := q.ran + 1, left := some left }] }).forAll
      (if left = 0 then [{ q with ran := q.ran + 1, left := some left }] else []) (fun s q => s.complete q.hdr q.cseq q.opcode q.status q.ran) := by
  have hover := State.stepReserved_StepOver hcanon hc.toPlain
  obtain ⟨sp, hbnd⟩ := hover.bnd
  have hqueue : ((s.stepReserved b).bnd b).queue = [{ q with ran := q.ran + 1, left := some left }] := by
    rw [hbnd]
    refine (congrArg countStep hq).trans ?_
    simp [countStep, hleft]
  have hfar' : (s.stepReserved b).farGroups b = [] := by
    have hgates : ((s.stepReserved b).bnd b).gates = (s.bnd b).gates := by rw [hbnd]; rfl
    simpa only [State.farGroups, State.groupRules, State.stepReserved_rules hcanon hc, hgates, hc.rules, List.filter_nil] using hfar
  rw [State.finishSteps_one hqueue hwaits (State.groupsOf_none (State.stepReserved_rules hcanon hc)) hfar']
  cases left <;> simp [hwaits]

/-- With steps left the command stays. -/
theorem State.endStep_left {l : Nat} (hleft : q.left = some (l + 2)) : s.endStep b = s.stepReserved b ∧
    ((s.stepReserved b).bnd b).queue = [{ q with ran := q.ran + 1, left := some (l + 1) }] := by
  have hover := State.stepReserved_StepOver hcanon hc.toPlain
  obtain ⟨sp, hbnd⟩ := hover.bnd
  have hqueue : ((s.stepReserved b).bnd b).queue = [{ q with ran := q.ran + 1, left := some (l + 1) }] := by
    rw [hbnd]
    refine (congrArg countStep hq).trans ?_
    simp [countStep, hleft]
  have hset : (s.stepReserved b).setBnd b { (s.stepReserved b).bnd b with queue := [{ q with ran := q.ran + 1, left := some (l + 1) }] } =
      s.stepReserved b := by
    rw [← hqueue]
    exact State.setBnd_bnd hover.wf b
  have hfinish : (s.stepReserved b).finishSteps b = s.stepReserved b := by
    rw [State.finishSteps_counted hcanon hc hq hwaits hfar (left := l + 1) hleft, if_neg (by omega), if_neg (by omega), hset]
    rfl
  have hhalt : ¬ (((s.stepReserved b).bnd b).halting && !((s.stepReserved b).bnd b).windowOpen) = true := by
    rw [hbnd]
    simp [Binding.counted, hc.running]
  refine ⟨?_, hqueue⟩
  rw [State.endStep_eq, State.stepReserved_still hcanon hc]
  dsimp only
  rw [hfinish, if_neg hhalt]

/-- With no step left the command completes with the steps it ran. -/
theorem State.endStep_done (hleft : q.left = some 1) : s.endStep b =
    ((s.stepReserved b).setBnd b { (s.stepReserved b).bnd b with queue := [] }).complete q.hdr q.cseq q.opcode q.status (q.ran + 1) := by
  have hover := State.stepReserved_StepOver hcanon hc.toPlain
  obtain ⟨sp, hbnd⟩ := hover.bnd
  have hfinish := State.finishSteps_counted hcanon hc hq hwaits hfar (left := 0) hleft
  rw [if_pos rfl, if_pos rfl] at hfinish
  have hone : ∀ t : State, t.forAll [{ q with ran := q.ran + 1, left := some 0 }] (fun s q => s.complete q.hdr q.cseq q.opcode q.status q.ran) =
      t.complete q.hdr q.cseq q.opcode q.status (q.ran + 1) := fun _ => rfl
  rw [hone] at hfinish
  have hdone := ((s.stepReserved b).setBnd b { (s.stepReserved b).bnd b with queue := [] }).complete_Completed q.hdr q.cseq q.opcode q.status
    (q.ran + 1)
  have hread : ((s.stepReserved b).finishSteps b).bnd b = { (s.stepReserved b).bnd b with queue := [] } := by
    rw [hfinish, State.bnd, hdone.bindings]
    exact State.bnd_setBnd_same hover.wf b _
  have hhalt : ¬ ((((s.stepReserved b).finishSteps b).bnd b).halting && !(((s.stepReserved b).finishSteps b).bnd b).windowOpen) = true := by
    rw [hread, hbnd]
    simp [Binding.counted, hc.running]
  rw [State.endStep_eq, State.stepReserved_still hcanon hc]
  dsimp only
  rw [if_neg hhalt, hfinish]

end

end

end Sys2Proof.Machine
end

section
namespace Sys2Proof.Machine

/-! ## The end of a step on its lead (R34, R36) -/

/-- The timebase has reached STEP_LEN after the start: where that came last it is what held the step (R225). -/
def State.reachLen (s : State) (b due : Nat) : State := if s.tmr.tb.toNat ≤ due then (s.setTb due).heldLast b 3 0 0 else s

theorem Canon_setBnd {s : State} (h : Canon s) (b : Nat) (x : Binding) : Canon (s.setBnd b x) := by
  obtain ⟨hfirst, hvals, hbindings, hrest⟩ := h
  exact ⟨hfirst, hvals, Tab.wf_set hbindings _ _, hrest⟩

section
variable {s : State} {b due : Nat} (hcanon : Canon s)
include hcanon

/-- What the wait for STEP_LEN leaves: all but the timebase and what held last. -/
theorem State.reachLen_kept : Canon (s.reachLen b due) ∧ OnlyChanges [.tmr, .cmd] s (s.reachLen b due) ∧
    (s.reachLen b due).bnd b = { s.bnd b with lastHeld := if s.tmr.tb.toNat ≤ due then heldWord 3 0 0 else (s.bnd b).lastHeld } ∧
    (∀ m, m ≠ b → (s.reachLen b due).bnd m = s.bnd m) ∧ (s.reachLen b due).cmd.ctxs = s.cmd.ctxs ∧
    (due < 2 ^ 64 → (s.reachLen b due).tmr.tb.toNat = max s.tmr.tb.toNat due) := by
  have hw := Canon_bindings hcanon
  unfold State.reachLen
  split
  next h =>
    refine ⟨Canon_setBnd (s := s.setTb due) hcanon _ _, State.heldLast_Only _ _ _ _ _ (by decide) ((s.setTb_OnlyChanges due).mono (by decide)),
      State.bnd_heldLast_same (s := s.setTb due) hw b 3 0 0, fun m hm => State.bnd_heldLast_other (s := s.setTb due) hw 3 0 0 hm, rfl,
      fun hlt => ?_⟩
    exact (BitVec.toNat_ofNat _ _).trans (by rw [Nat.mod_eq_of_lt hlt, Nat.max_eq_right h])
  next h => exact ⟨hcanon, .refl _ s, rfl, fun _ _ => rfl, rfl, fun _ => (Nat.max_eq_left (by omega)).symm⟩

theorem State.reachLen_Calm (hc : Calm s b) : Calm (s.reachLen b due) b := by
  obtain ⟨-, honly, hbnd, -, hctxs, -⟩ := State.reachLen_kept (b := b) (due := due) hcanon
  have hcore := honly.same .core (by decide)
  have hcnv : (s.reachLen b due).cnv = s.cnv := honly.same .cnv (by decide)
  have hbound : ∀ n, ((s.reachLen b due).cor n).bound = (s.cor n).bound ∧ ((s.reachLen b due).cor n).binding = (s.cor n).binding := fun n => by
    simp only [State.cor, show (s.reachLen b due).core = s.core from hcore, and_self]
  have hctxsOf : (s.reachLen b due).ctxsOf b = s.ctxsOf b := by unfold State.ctxsOf; rw [hctxs]
  exact { rules := (State.bindingRules_congr (honly.same .mem (by decide)) hbound b).trans hc.rules
          decoders := (State.decoders_congr hcnv hctxs b).trans hc.decoders
          decodes := by rw [hcnv]; exact hc.decodes
          votes := by rw [hbnd]; exact hc.votes
          ungated := by rw [hctxsOf]; exact hc.ungated
          running := by rw [hbnd]; exact hc.running }

end

/-- What the lead tells its members at the end of a step. -/
def State.endTold (s w : State) (b : Nat) : List (BitVec 8 × BitVec 24 × BitVec 48) → Out :=
  .stepEnd (BitVec.ofNat 6 b) (s.bnd b).step
    (if w.boundaryClear b && (w.nextStep b).isSome then some (BitVec.ofNat 64 0) else none) (s.bnd b).gates

/-- The end of a step in free-run mode on its lead, where no group stands at a gate. -/
theorem State.stepEnd_eq {s t : State} {b : Nat} (hv : (s.bnd b).valid = true) (hr : (s.bnd b).running = true) (hl : s.isLead b = true)
    (hsig : (s.bnd b).nDevs ≤ (s.bnd b).signals.length) (hn : 1 ≤ (s.bnd b).nDevs) (hmode : (s.bnd b).modeIn = 0)
    (ht : s.reachLen b ((s.bnd b).startedAt.toNat + nsOf ((s.bnd b).lenIn.toNat + (s.bnd b).extraIn.toNat)) = t)
    (hslot : t.regMode b = 0) (hgroups : t.groupsOf b = []) :
    s.stepEnd b = ((t.endStep b).tellStart b (s.endTold (t.endStep b) b)).tryStart b 0 := by
  have hgo : ¬ (!(s.bnd b).valid || !(s.bnd b).running || !s.isLead b || decide ((s.bnd b).signals.length < (s.bnd b).nDevs) ||
      decide ((s.bnd b).nDevs = 0)) = true := by
    simp [hv, hr, hl]
    omega
  have hlate : ∀ n : Bool, ¬ (decide (1 < (s.bnd b).nDevs) && decide ((s.bnd b).modeIn = 1) && n) = true := fun n => by simp [hmode]
  have hslot0 : t.namedSlot b = 0 := if_neg (by omega)
  have hgate : t.gateHere b = [] := by
    unfold State.gateHere
    rw [hgroups]
    rfl
  have hzero : (if 1 < (s.bnd b).nDevs then 0 else 0) = (0 : Nat) := ite_self _
  refine (if_neg hgo).trans ?_
  rw [if_neg (hlate _)]
  unfold State.reachLen at ht
  rw [ht, hslot0, hgate, hzero, List.nil_append]
  rfl

/-- A step of which a device has not signalled goes on. -/
theorem State.stepEnd_early {s : State} {b : Nat} (hsig : (s.bnd b).signals.length < (s.bnd b).nDevs) : s.stepEnd b = s :=
  if_pos (by simp [hsig])

/-- A broadcast stands among the outputs. -/
theorem State.tellStart_out {s : State} {b : Nat} (o : List (BitVec 8 × BitVec 24 × BitVec 48) → Out) (h : 1 < (s.bnd b).nDevs) :
    o (s.bnd b).epochsOut ∈ (s.tellStart b o).out := by
  unfold State.tellStart
  rw [if_pos h]
  exact State.mem_toDevices_out _ _ _ _ _

theorem State.nextStep_none {s : State} {b : Nat} (h : (s.bnd b).queue = []) : s.nextStep b = none := by
  unfold State.nextStep
  rw [h]
  rfl

theorem State.tryStart_none {s : State} {b : Nat} (slot : Nat) (h : (s.bnd b).queue = []) : s.tryStart b slot = s := by
  unfold State.tryStart
  rw [State.nextStep_none h]
  exact if_neg (by simp)

/-- In free-run mode the next step starts at once, or something holds it. -/
theorem State.tryStart_freeRun {s : State} {b : Nat} (slot : Nat) (h : s.regMode b = 0) :
    s.tryStart b slot = s.beginStep b ∨ s.tryStart b slot = s := by
  unfold State.tryStart
  split
  · exact .inl (if_neg (by omega))
  · exact .inr rfl

end Sys2Proof.Machine
end

section
namespace Sys2Proof.Machine

/-! ## What shows that a step has ended -/

/-- From `w` to `u` what shows the end of binding `b`'s step stands. -/
structure SameEnd (b : Nat) (w u : State) : Prop where
  step      : (u.bnd b).step = (w.bnd b).step
  signals   : (u.bnd b).signals = (w.bnd b).signals
  signalled : (u.bnd b).signalled = (w.bnd b).signalled
  running   : (u.bnd b).running = (w.bnd b).running
  other     : ∀ m, m ≠ b → u.bnd m = w.bnd m
  syn       : u.syn = w.syn
  ctxs      : u.cmd.ctxs = w.cmd.ctxs
  regs      : RegsOnly sentRegs w u

namespace SameEnd
variable {b : Nat} {s t u : State}

theorem trans (h : SameEnd b s t) (g : SameEnd b t u) : SameEnd b s u :=
  ⟨g.step.trans h.step, g.signals.trans h.signals, g.signalled.trans h.signalled, g.running.trans h.running,
    fun m hm => (g.other m hm).trans (h.other m hm), g.syn.trans h.syn, g.ctxs.trans h.ctxs, h.regs.trans g.regs⟩

/-- A write to the binding that keeps its step. -/
theorem setBnd (hw : Tab.wf (fun _ => Binding.empty) s.cmd.bindings) {x : Binding} (hstep : x.step = (s.bnd b).step)
    (hsignals : x.signals = (s.bnd b).signals) (hsignalled : x.signalled = (s.bnd b).signalled) (hrunning : x.running = (s.bnd b).running) :
    SameEnd b s (s.setBnd b x) := by
  have hread : (s.setBnd b x).bnd b = x := State.bnd_setBnd_same hw b x
  exact ⟨by rw [hread, hstep], by rw [hread, hsignals], by rw [hread, hsignalled], by rw [hread, hrunning],
    fun m hm => State.bnd_setBnd_other hw _ hm, rfl, rfl, .of_reg rfl⟩

theorem of_completed {h : Hdr} {cpl : Cpl} (g : Completed h cpl s t) : SameEnd b s t := by
  have hbnd : ∀ m, t.bnd m = s.bnd m := fun m => by simp only [State.bnd, g.bindings]
  exact ⟨by rw [hbnd], by rw [hbnd], by rw [hbnd], by rw [hbnd], fun m _ => hbnd m, g.only.same .syn (by decide), g.ctxs, g.regs⟩

theorem tellStart (hw : Tab.wf (fun _ => Binding.empty) s.cmd.bindings) (o : List (BitVec 8 × BitVec 24 × BitVec 48) → Out) :
    SameEnd b s (s.tellStart b o) := by
  have hread := State.tellStart_bnd_same hw b o
  refine ⟨by rw [hread], by rw [hread], by rw [hread], by rw [hread], fun m hm => State.tellStart_bnd_other hw b o hm,
    (State.tellStart_msgParts hw b o).same .syn (by decide), ?_, .trans (.of_reg rfl) (State.tellStart_Sent hw b o).regs⟩
  rw [State.tellStart_cmd hw]
  rfl

end SameEnd

theorem fabRtrLast_not_sent {b : Nat} (hb : b < 64) : Reg.fabRtrLast b ∉ sentRegs := by
  simp only [mem_sentRegs, Reg.fabRtrLast]
  omega

/-- A step that is over has ended as the spec says, whatever only waited for its length before, and whatever only told of it since. -/
theorem StepOver.ended {s t w u : State} {b : Nat} (hb : b < 64) (ht : Canon t) (h : StepOver t w b) (hu : SameEnd b w u)
    (hstep : (t.bnd b).step = (s.bnd b).step) (hother : ∀ m, m ≠ b → t.bnd m = s.bnd m) (hsyn : t.syn = s.syn)
    (hctxs : t.cmd.ctxs = s.cmd.ctxs) : Spec.Ended s u b (t.bnd b).lastHeld := by
  obtain ⟨sp, hbnd⟩ := h.bnd
  have hbuoy : ∀ m, t.buoy m = s.buoy m := fun m => by simp only [State.buoy, hsyn]
  have hubuoy : ∀ m, u.buoy m = w.buoy m := fun m => by simp only [State.buoy, hu.syn]
  have hctxsOf : t.ctxsOf b = s.ctxsOf b := by unfold State.ctxsOf; rw [hctxs]
  refine ⟨?_, ?_, ?_, ?_, fun m hm => ?_, fun m hm => ?_, fun p hp => ?_, ?_⟩
  · rw [hu.step, hbnd, ← hstep]
    rfl
  · rw [hu.signals, hbnd]
    rfl
  · rw [hu.signalled, hbnd]
    rfl
  · rw [hubuoy]
    exact h.buoy
  · rw [hubuoy, h.buoys m hm, hbuoy]
  · rw [hu.other m hm, h.other m hm, hother m hm]
  · have hctx : u.ctx p.1 = (t.ctxsAdvance b).ctx p.1 := by simp only [State.ctx, hu.ctxs, h.ctxs]
    rw [hctx, State.ctxsAdvance_mem (Canon_ctxs ht) (hctxsOf ▸ hp)]
    split <;> rfl
  · rw [hu.regs.get (h.regs.wf (Canon_vals ht)) (fabRtrLast_not_sent hb)]
    exact h.last hb

/-- MODE is as before once a step is over. -/
theorem StepOver.regMode {t w : State} {b : Nat} (hb : b < 64) (ht : Canon t) (h : StepOver t w b) : w.regMode b = t.regMode b := by
  have hctrl := h.regs.get (Canon_vals ht) (a := Reg.cmdStepCtrl b) (by
    simp only [endRegs, List.mem_append, List.mem_cons, List.not_mem_nil, or_false, mem_passRegs, List.mem_map, Reg.cmdStepCtrl, Reg.cmdStepStretch,
      Reg.cmdStepStretchMax, Reg.cmdStepStatus, Reg.cmdStepOverrun, Reg.fabRtrLast, Reg.coreLrnStatus, Reg.coreLrnWait, Reg.cnvChStat]
    omega)
  simp only [State.regMode, State.rfield, hctrl]

theorem SameEnd.regMode {w u : State} {b : Nat} (hb : b < 64) (h : SameEnd b w u) (hr : Tab.wf regReset w.reg.vals) :
    u.regMode b = w.regMode b := by
  have hctrl := h.regs.get hr (a := Reg.cmdStepCtrl b) (by simp only [mem_sentRegs, Reg.cmdStepCtrl]; omega)
  simp only [State.regMode, State.rfield, hctrl]

end Sys2Proof.Machine
end

section
namespace Sys2Proof.Machine

/-- The units that the end of a step changes, besides the timebase on the lead and the clock gates of cores that start the next. -/
abbrev endParts : List Part := [.cmd, .core, .eth, .fab, .irq, .out, .ptb, .reg, .syn, .cnv, .free]

/-- What the theorems about the end of a step on its lead take from their state. -/
structure LeadEnds (s : State) (b due : Nat) (q : StepCmd) : Prop extends Calm s b where
  canon    : Canon s
  valid    : (s.bnd b).valid = true
  runs     : (s.bnd b).running = true
  free     : (s.bnd b).modeIn = 0
  freeNext : s.regMode b = 0
  lead     : s.isLead b = true
  devices  : 1 ≤ (s.bnd b).nDevs
  signals  : (s.bnd b).nDevs ≤ (s.bnd b).signals.length
  queue    : (s.bnd b).queue = [q]
  waits    : q.waits = []
  far      : s.farGroups b = []
  dueAt    : (s.bnd b).startedAt.toNat + nsOf ((s.bnd b).lenIn.toNat + (s.bnd b).extraIn.toNat) = due
  time     : due < 2 ^ 64
  samples  : (s.bnd b).samples = []

namespace LeadEnds
variable {s : State} {b due : Nat} {q : StepCmd} (h : LeadEnds s b due q)
include h

theorem reached : Canon (s.reachLen b due) ∧ Calm (s.reachLen b due) b :=
  ⟨(State.reachLen_kept h.canon).1, State.reachLen_Calm h.canon h.toCalm⟩

theorem isOver : StepOver (s.reachLen b due) ((s.reachLen b due).stepReserved b) b :=
  State.stepReserved_StepOver h.reached.1 h.reached.2.toPlain

theorem reached_bnd : (s.reachLen b due).bnd b =
    { s.bnd b with lastHeld := if s.tmr.tb.toNat ≤ due then heldWord 3 0 0 else (s.bnd b).lastHeld } := (State.reachLen_kept h.canon).2.2.1

theorem reached_queue : ((s.reachLen b due).bnd b).queue = [q] := by rw [h.reached_bnd]; exact h.queue

theorem reached_far : (s.reachLen b due).farGroups b = [] := by
  have hgates : ((s.reachLen b due).bnd b).gates = (s.bnd b).gates := by rw [h.reached_bnd]
  have hfar := h.far
  simpa only [State.farGroups, State.groupRules, h.reached.2.rules, hgates, h.rules, List.filter_nil] using hfar

theorem reached_regMode : (s.reachLen b due).regMode b = 0 := by
  have hreg : (s.reachLen b due).reg = s.reg := (State.reachLen_kept h.canon).2.1.same .reg (by decide)
  have hmode := h.freeNext
  simp only [State.regMode, State.rfield, State.rget, hreg] at hmode ⊢
  exact hmode

theorem stepEnd : s.stepEnd b = (((s.reachLen b due).endStep b).tellStart b (s.endTold ((s.reachLen b due).endStep b) b)).tryStart b 0 :=
  State.stepEnd_eq h.valid h.runs h.lead h.signals h.devices h.free (by rw [h.dueAt]) h.reached_regMode
    (State.groupsOf_none h.reached.2.rules)

/-- The binding once its step is over. -/
theorem over_bnd : ∃ sp held, ((s.reachLen b due).stepReserved b).bnd b =
    { (s.bnd b).counted (s.bnd b).step with spill := sp, lastHeld := held } := by
  obtain ⟨sp, hbnd⟩ := h.isOver.bnd
  exact ⟨sp, _, by rw [hbnd, h.reached_bnd]; rfl⟩

theorem tb {u : State} {l : List Part} (hu : OnlyChanges l (s.reachLen b due) u) (hl : Part.tmr ∉ l) :
    u.tmr.tb.toNat = max s.tmr.tb.toNat due := by
  have htmr : u.tmr = (s.reachLen b due).tmr := hu.same .tmr hl
  rw [htmr]
  exact (State.reachLen_kept h.canon).2.2.2.2.2 h.time

theorem frame_reach : Spec.Frame (.tmr :: endParts) s (s.reachLen b due) :=
  Frame_of_only ((State.reachLen_kept h.canon).2.1.mono (by decide)) (by decide)

theorem ended {u : State} (hb : b < 64) (hu : SameEnd b ((s.reachLen b due).stepReserved b) u) :
    Spec.Ended s u b (if s.tmr.tb.toNat ≤ due then heldWord 3 0 0 else (s.bnd b).lastHeld) := by
  obtain ⟨hcanon, honly, hbnd, hother, hctxs, -⟩ := State.reachLen_kept (b := b) (due := due) h.canon
  have hended := h.isOver.ended hb hcanon hu (by rw [hbnd]) hother (honly.same .syn (by decide)) hctxs
  rwa [hbnd] at hended

end LeadEnds

/-- With no step left the lead's command completes at the end of its last step. -/
theorem stepEnd_done {s : State} {b : BitVec 6} {due : Nat} {q : StepCmd} (h : LeadEnds s b.toNat due q) (ha : Alive s)
    (hleft : q.left = some 1) : Spec.Run (.stepEnd b) s (.tmr :: endParts) (fun u =>
      Spec.Ended s u b.toNat (if s.tmr.tb.toNat ≤ due then heldWord 3 0 0 else (s.bnd b.toNat).lastHeld) ∧
      (u.bnd b.toNat).running = false ∧ u.tmr.tb.toNat = max s.tmr.tb.toNat due ∧ (u.bnd b.toNat).queue = [] ∧
      (1 < (s.bnd b.toNat).nDevs → Out.stepEnd b (s.bnd b.toNat).step none (s.bnd b.toNat).gates (s.bnd b.toNat).epochsOut ∈ u.out) ∧
      (q.hdr.quiet = false → Cpl.mk q.cseq q.opcode q.status q.hdr.stream (BitVec.ofNat 40 (q.ran + 1)) ∈ u.cmd.cpls)) := by
  obtain ⟨sp, held, hbnd⟩ := h.over_bnd
  have hover := h.isOver
  have hstep := h.stepEnd
  rw [State.endStep_done h.reached.1 h.reached.2 h.reached_queue h.waits h.reached_far hleft] at hstep
  generalize hw : (s.reachLen b.toNat due).stepReserved b.toNat = w at *
  have hset : SameEnd b.toNat w (w.setBnd b.toNat { w.bnd b.toNat with queue := [] }) := .setBnd hover.wf rfl rfl rfl rfl
  have hcompleted := (w.setBnd b.toNat { w.bnd b.toNat with queue := [] }).complete_Completed q.hdr q.cseq q.opcode q.status (q.ran + 1)
  generalize he : (w.setBnd b.toNat { w.bnd b.toNat with queue := [] }).complete q.hdr q.cseq q.opcode q.status (q.ran + 1) = e at *
  have hewf : Tab.wf (fun _ => Binding.empty) e.cmd.bindings := by rw [hcompleted.bindings]; exact Tab.wf_set hover.wf _ _
  have hebnd : e.bnd b.toNat = { w.bnd b.toNat with queue := [] } := by
    rw [State.bnd, hcompleted.bindings]
    exact State.bnd_setBnd_same hover.wf _ _
  have htold : s.endTold e b.toNat = .stepEnd b (s.bnd b.toNat).step none (s.bnd b.toNat).gates := by
    have hb6 : BitVec.ofNat 6 b.toNat = b := by rw [BitVec.ofNat_toNat, BitVec.setWidth_eq]
    unfold State.endTold
    rw [State.nextStep_none (by rw [hebnd]), hb6, if_neg (by simp)]
  rw [htold] at hstep
  generalize ho : Out.stepEnd b (s.bnd b.toNat).step none (s.bnd b.toNat).gates = o at *
  have hread := State.tellStart_bnd_same hewf b.toNat o
  rw [hebnd] at hread
  rw [State.tryStart_none 0 (by rw [hread])] at hstep
  have hsame : SameEnd b.toNat w (e.tellStart b.toNat o) := hset.trans ((SameEnd.of_completed hcompleted).trans (.tellStart hewf o))
  have honly : OnlyChanges [.cmd, .core, .reg, .syn, .free, .eth, .irq, .out] (s.reachLen b.toNat due) e :=
    (hover.only.mono (by decide)).trans ((State.setBnd_Only _ _ (by decide) (.refl _ w)).trans (hcompleted.only.mono (by decide)))
  have hframe := State.tellStart_Frame hewf b.toNat o
  have htail : Spec.Frame endParts (s.reachLen b.toNat due) (e.tellStart b.toNat o) :=
    Frame_trans (Frame_of_only (honly.mono (by decide)) (by decide)) (Frame_mono hframe (by decide) (by decide)) (by decide)
  refine Run_of_live (f := fun s => s.stepEnd b.toNat) ha rfl ?_ ⟨?_, ?_, ?_, ?_, fun hmany => ?_, fun hquiet => ?_⟩ <;> rw [hstep]
  · exact Frame_trans h.frame_reach (Frame_mono htail (by decide) (by decide)) (by decide)
  · exact h.ended b.isLt (hw ▸ hsame)
  · rw [hsame.running, hbnd]
    rfl
  · exact h.tb htail.1 (by decide)
  · rw [hread]
  · have hdevs : (e.bnd b.toNat).nDevs = (s.bnd b.toNat).nDevs := by rw [hebnd, hbnd]; rfl
    have hepochs : (e.bnd b.toNat).epochsOut = (s.bnd b.toNat).epochsOut := by rw [hebnd, hbnd]; rfl
    have hout := State.tellStart_out (s := e) (b := b.toNat) o (by rw [hdevs]; exact hmany)
    rwa [hepochs] at hout
  · rw [State.tellStart_cmd hewf]
    exact hcompleted.record hquiet

end Sys2Proof.Machine
end

section
namespace Sys2Proof.Machine

/-- With steps left the lead's command counts its step, and the next may have started. -/
theorem stepEnd_left {s : State} {b : BitVec 6} {due : Nat} {q : StepCmd} (h : LeadEnds s b.toNat due q) (ha : Alive s) {l : Nat}
    (hleft : q.left = some (l + 2)) : Spec.Run (.stepEnd b) s (.tmr :: .ltn :: endParts) (fun u =>
      (u.bnd b.toNat).step = (s.bnd b.toNat).step + 1 ∧ u.tmr.tb.toNat = max s.tmr.tb.toNat due ∧
      (u.bnd b.toNat).queue = [{ q with ran := q.ran + 1, left := some (l + 1) }]) := by
  obtain ⟨sp, held, hbnd⟩ := h.over_bnd
  have hover := h.isOver
  have hstep := h.stepEnd
  obtain ⟨hend, hqueue⟩ := State.endStep_left h.reached.1 h.reached.2 h.reached_queue h.waits h.reached_far hleft
  rw [hend] at hstep
  have hmode := (hover.regMode b.isLt h.reached.1).trans h.reached_regMode
  have hwr := hover.regs.wf (Canon_vals h.reached.1)
  generalize (s.reachLen b.toNat due).stepReserved b.toNat = w at *
  generalize s.endTold w b.toNat = o at hstep
  have hsame : SameEnd b.toNat w (w.tellStart b.toNat o) := .tellStart hover.wf o
  have hread := State.tellStart_bnd_same hover.wf b.toNat o
  have hframe : Spec.Frame endParts (s.reachLen b.toNat due) (w.tellStart b.toNat o) :=
    Frame_trans (Frame_of_only (hover.only.mono (by decide)) (by decide))
      (Frame_mono (State.tellStart_Frame hover.wf b.toNat o) (by decide) (by decide)) (by decide)
  have hcounted : (w.bnd b.toNat).step = (s.bnd b.toNat).step + 1 := by rw [hbnd]; rfl
  have hsamples : ((w.tellStart b.toNat o).bnd b.toNat).samples = [] := by
    rw [hread, hbnd]
    exact h.samples
  have hbegin := State.beginStep_OnlyChanges hsamples
  refine Run_of_live (f := fun s => s.stepEnd b.toNat) ha rfl ?_ ?_ <;> rw [hstep] <;>
    rcases State.tryStart_freeRun 0 ((hsame.regMode b.isLt hwr).trans hmode) with hgo | hgo <;> rw [hgo]
  · have htail : Spec.Frame (.ltn :: endParts) (s.reachLen b.toNat due) ((w.tellStart b.toNat o).beginStep b.toNat) :=
      Frame_trans (Frame_mono hframe (by decide) (by decide)) (Frame_of_only (hbegin.mono (by decide)) (by decide)) (by decide)
    exact Frame_trans (Frame_mono h.frame_reach (by decide) (by decide)) (Frame_mono htail (by decide) (by decide)) (by decide)
  · exact Frame_trans (Frame_mono h.frame_reach (by decide) (by decide)) (Frame_mono hframe (by decide) (by decide)) (by decide)
  · have hbegun := State.beginStep_bnd_same hsamples (State.tellStart_wf hover.wf b.toNat o)
    refine ⟨?_, h.tb ((hframe.1.mono (by decide)).trans (hbegin.mono (M := .gov :: .ltn :: endParts) (by decide))) (by decide), ?_⟩
    · rw [hbegun]
      exact (congrArg Binding.step hread).trans hcounted
    · rw [hbegun]
      exact (congrArg Binding.queue hread).trans hqueue
  · exact ⟨(congrArg Binding.step hread).trans hcounted, h.tb hframe.1 (by decide), (congrArg Binding.queue hread).trans hqueue⟩

/-! ## The end of a step on a member (R36, R177) -/

/-- The state of a member whose step has ended, with what the lead said of the gates. -/
def State.memberEnded (s : State) (b : Nat) (gates : List (BitVec 8 × Bool)) : State :=
  (s.stepReserved b).setBnd b { (s.stepReserved b).bnd b with gates := gates }

section
variable {s : State} {b : Nat} (hcanon : Canon s) (hc : Calm s b)
include hcanon hc

theorem State.memberEnded_same (gates : List (BitVec 8 × Bool)) : SameEnd b (s.stepReserved b) (s.memberEnded b gates) :=
  .setBnd (State.stepReserved_StepOver hcanon hc.toPlain).wf rfl rfl rfl rfl

theorem State.memberEnded_bnd (gates : List (BitVec 8 × Bool)) : ∃ sp, (s.memberEnded b gates).bnd b =
    { (s.bnd b).counted (s.bnd b).step with spill := sp, gates := gates } := by
  have hover := State.stepReserved_StepOver hcanon hc.toPlain
  obtain ⟨sp, hbnd⟩ := hover.bnd
  exact ⟨sp, (State.bnd_setBnd_same hover.wf b _).trans (by rw [hbnd])⟩

theorem State.memberEnded_Only (gates : List (BitVec 8 × Bool)) : OnlyChanges endParts s (s.memberEnded b gates) :=
  State.setBnd_Only _ _ (by decide) ((State.stepReserved_StepOver hcanon hc.toPlain).only.mono (by decide))

/-- The end of a step in free-run mode on a member. -/
theorem State.endReceipt_eq (next : Option Word64) (gates : List (BitVec 8 × Bool)) (epochs : List (BitVec 8 × BitVec 24 × BitVec 48))
    (hv : (s.bnd b).valid = true) (hr : (s.bnd b).running = true) (hl : s.isLead b = false) (hmode : (s.bnd b).modeIn = 0)
    (hq : (s.bnd b).queue = []) : s.endReceipt b next gates epochs = match next with
      | some slot => (s.memberEnded b gates).startReceipt b slot []
      | none => s.memberEnded b gates := by
  have hgo : ¬ (!(s.bnd b).valid || !(s.bnd b).running || s.isLead b) = true := by simp [hv, hr, hl]
  have hlate : ∀ n : Bool, ¬ (decide ((s.bnd b).modeIn = 1) && n) = true := fun n => by simp [hmode]
  have hepochs : (s.memberEnded b gates).epochsIn b epochs = s.memberEnded b gates :=
    State.epochsIn_none (s := s.memberEnded b gates) (State.stepReserved_ctxs_wf hcanon hc) (State.stepReserved_rules hcanon hc)
      (State.stepReserved_ungated hcanon hc) epochs
  refine (if_neg hgo).trans ?_
  rw [if_neg (hlate _), State.endStep_none hcanon hc hq]
  cases next with
  | none => exact hepochs
  | some slot => exact congrArg (fun t : State => t.startReceipt b slot []) hepochs

end

end Sys2Proof.Machine
end

section
namespace Sys2Proof.Machine

section
variable {s : State} {b : BitVec 6} (gates : List (BitVec 8 × Bool)) (epochs : List (BitVec 8 × BitVec 24 × BitVec 48)) (hcanon : Canon s)
  (ha : Alive s) (hc : Calm s b.toNat) (hv : (s.bnd b.toNat).valid = true) (hr : (s.bnd b.toNat).running = true)
  (hl : s.isLead b.toNat = false) (hmode : (s.bnd b.toNat).modeIn = 0) (hq : (s.bnd b.toNat).queue = [])
include hcanon ha hc hv hr hl hmode hq

/-- A member whose lead does not go on has ended its step and rests. -/
theorem endReceipt_rests : Spec.Run (.stepEndReceipt b none gates epochs) s endParts (fun u =>
    Spec.Ended s u b.toNat (s.bnd b.toNat).lastHeld ∧ (u.bnd b.toNat).running = false ∧ (u.bnd b.toNat).gates = gates) := by
  obtain ⟨sp, hbnd⟩ := State.memberEnded_bnd hcanon hc gates
  have hf := State.endReceipt_eq hcanon hc none gates epochs hv hr hl hmode hq
  refine Run_of_live (f := fun s => s.endReceipt b.toNat none gates epochs) ha rfl ?_ ⟨?_, ?_, ?_⟩ <;> rw [hf]
  · exact Frame_of_only (State.memberEnded_Only hcanon hc gates) (by decide)
  · exact (State.stepReserved_StepOver hcanon hc.toPlain).ended b.isLt hcanon (State.memberEnded_same hcanon hc gates) rfl (fun _ _ => rfl) rfl rfl
  · rw [hbnd]
    rfl
  · rw [hbnd]

/-- A member whose lead goes on starts the next step, or waits for it. -/
theorem endReceipt_goesOn (slot : Word64) (hfree : s.regMode b.toNat = 0) (hx : (s.bnd b.toNat).samples = []) :
    Spec.Run (.stepEndReceipt b (some slot) gates epochs) s (.ltn :: endParts) (fun u =>
      (u.bnd b.toNat).step = (s.bnd b.toNat).step + 1 ∧ ((u.bnd b.toNat).running = true ∨ (u.bnd b.toNat).waitSlot = true)) := by
  obtain ⟨sp, hbnd⟩ := State.memberEnded_bnd hcanon hc gates
  have hover := State.stepReserved_StepOver hcanon hc.toPlain
  have hsame := State.memberEnded_same hcanon hc gates
  have honly := State.memberEnded_Only hcanon hc gates
  have hf := State.endReceipt_eq hcanon hc (some slot) gates epochs hv hr hl hmode hq
  dsimp only at hf
  have hw : Tab.wf (fun _ => Binding.empty) (s.memberEnded b.toNat gates).cmd.bindings := Tab.wf_set hover.wf _ _
  have hmode' : (s.memberEnded b.toNat gates).regMode b.toNat = 0 :=
    (hsame.regMode b.isLt (hover.regs.wf (Canon_vals hcanon))).trans ((hover.regMode b.isLt hcanon).trans hfree)
  have hsys : (s.memberEnded b.toNat gates).sys = s.sys := honly.same .sys (by decide)
  generalize s.memberEnded b.toNat gates = w at *
  have hl' : w.isLead b.toNat = false := by
    unfold State.isLead at hl ⊢
    rw [hbnd, hsys]
    exact hl
  have hv' : (w.bnd b.toNat).valid = true := by rw [hbnd]; exact hv
  have hr' : (w.bnd b.toNat).running = false := by rw [hbnd]; rfl
  have hx' : (w.bnd b.toNat).samples = [] := by rw [hbnd]; exact hx
  have hstep : (w.bnd b.toNat).step = (s.bnd b.toNat).step + 1 := by rw [hbnd]; rfl
  cases hclear : w.boundaryClear b.toNat with
  | true =>
    rw [State.startReceipt_starts slot hl' hv' hr' hclear hmode'] at hf
    have hbegun := State.beginStep_bnd_same hx' hw
    refine Run_of_live (f := fun s => s.endReceipt b.toNat (some slot) gates epochs) ha rfl ?_ ⟨?_, .inl ?_⟩ <;> rw [hf]
    · exact Frame_of_only ((honly.mono (by decide)).trans ((State.beginStep_OnlyChanges hx').mono (by decide))) (by decide)
    · rw [hbegun]
      exact hstep
    · rw [hbegun]
      rfl
  | false =>
    rw [State.startReceipt_waits slot hl' hv' hr' (.inl hclear)] at hf
    refine Run_of_live (f := fun s => s.endReceipt b.toNat (some slot) gates epochs) ha rfl ?_ ⟨?_, .inr ?_⟩ <;> rw [hf]
    · exact Frame_of_only (State.setBnd_Only _ _ (by decide) (honly.mono (by decide))) (by decide)
    · rw [State.bnd_setBnd_same hw]
      exact hstep
    · rw [State.bnd_setBnd_same hw]

end

/-- The end of a step on the lead and on a member, in free-run mode. -/
theorem stepsEndSpec : Spec.StepsEnd := by
  intro s b slot q gates epochs
  dsimp only
  intro hcanon ha hv hr hmode hfree hhalt _ hrules hvotes hungated hdecoders hdecodes htime hx
  have hc : Calm s b.toNat := ⟨⟨hrules, hdecoders, hdecodes⟩, hvotes, hungated, hhalt⟩
  refine ⟨fun hl hn hsig hq hwaits hfar => ?_, fun _ hsig => ?_, fun hl hq => ?_⟩
  · have hends : LeadEnds s b.toNat _ q := ⟨hc, hcanon, hv, hr, hmode, hfree, hl, hn, hsig, hq, hwaits, hfar, rfl, htime, hx⟩
    exact ⟨fun hleft => stepEnd_done hends ha hleft, fun l hleft => stepEnd_left hends ha hleft⟩
  · exact (live_alive ha fun s => s.stepEnd b.toNat).trans (congrArg _ (State.stepEnd_early hsig))
  · exact ⟨endReceipt_rests gates epochs hcanon ha hc hv hr hl hmode hq,
      endReceipt_goesOn gates epochs hcanon ha hc hv hr hl hmode hq slot hfree hx⟩

/-- Settles O29: the end of a core's phase 3 and the signals by the equations of each command, the end of a step through the state in which
it is over, where neither a rule nor a decoder belongs to the binding. -/
theorem stepsEnd : Obligations.StepsEnd := ⟨doneAndSignal, stepsEndSpec⟩

end Sys2Proof.Machine
end

section
namespace Sys2Proof.Machine

/-! ## What a register file keeps, the live high parts with it (R50) -/

/-- From `s` to `t` the live high parts stay canonical and only those of the registers `l` may read anew. -/
def LiveOnly (l : List Nat) (s t : State) : Prop :=
  Tab.wf (fun _ => (0 : Word)) s.reg.live → Tab.wf (fun _ => (0 : Word)) t.reg.live ∧
    ∀ a, a ∉ l → Tab.get (fun _ => (0 : Word)) t.reg.live a = Tab.get (fun _ => (0 : Word)) s.reg.live a

/-- Of both parts of the register file only the registers `l` may read anew. -/
structure FileOnly (l : List Nat) (s t : State) : Prop where
  regs : RegsOnly l s t
  live : LiveOnly l s t

theorem Canon_live {s : State} (h : Canon s) : Tab.wf (fun _ => (0 : Word)) s.reg.live := by
  obtain ⟨-, -, -, -, -, -, -, -, -, -, -, -, -, -, -, -, -, -, -, -, hlive, -⟩ := h
  exact hlive

theorem Canon_mem {s : State} (h : Canon s) : Memory.wf s.mem := by
  obtain ⟨hmem, -⟩ := h
  exact hmem

namespace FileOnly
variable {l : List Nat} {s t u : State}

/-- An update of the registers alone leaves every live high part. -/
theorem of_live (h : RegsOnly l s t) (hlive : t.reg.live = s.reg.live) : FileOnly l s t :=
  ⟨h, fun hs => ⟨hlive ▸ hs, fun _ _ => by rw [hlive]⟩⟩

theorem of_reg (h : t.reg = s.reg) : FileOnly l s t := of_live (.of_reg h) (by rw [h])
theorem refl (l : List Nat) (s : State) : FileOnly l s s := of_reg rfl
theorem rset (s : State) {k : Nat} (v : Word) (hk : k ∈ l) : FileOnly l s (s.rset k v) := of_live (.rset s v hk) rfl
theorem rsetBit (s : State) {k : Nat} (i : Nat) (b : Bool) (hk : k ∈ l) : FileOnly l s (s.rsetBit k i b) := rset s _ hk

theorem trans (h : FileOnly l s t) (g : FileOnly l t u) : FileOnly l s u :=
  ⟨h.regs.trans g.regs, fun hs => ⟨(g.live (h.live hs).1).1, fun a ha =>
    ((g.live (h.live hs).1).2 a ha).trans ((h.live hs).2 a ha)⟩⟩

theorem mono {m : List Nat} (h : FileOnly l s t) (hl : ∀ a ∈ l, a ∈ m) : FileOnly m s t :=
  ⟨h.regs.mono hl, fun hs => ⟨(h.live hs).1, fun a ha => (h.live hs).2 a fun hm => ha (hl a hm)⟩⟩

theorem setLive (s : State) {k : Nat} (v : Word) (hk : k ∈ l) : FileOnly l s (s.setLive k v) :=
  ⟨fun hs => ⟨hs, fun _ _ => rfl⟩, fun hs => ⟨Tab.wf_set hs k v, fun _ ha => Tab.get_set_other hs v fun e => ha (e ▸ hk)⟩⟩

theorem longSat (s : State) {k : Nat} (n : Nat) (hk : k ∈ l) : FileOnly l s (s.longSat k n) := (rset s _ hk).trans (setLive _ _ hk)

theorem ite {c : Prop} [Decidable c] (ht : c → FileOnly l s t) (hu : ¬ c → FileOnly l s u) : FileOnly l s (if c then t else u) := by
  split
  · exact ht ‹_›
  · exact hu ‹_›

/-- The file of a state that followed a canonical one: both of its tables are canonical. -/
theorem wf (h : FileOnly l s t) (hs : Canon s) : Tab.wf regReset t.reg.vals ∧ Tab.wf (fun _ => (0 : Word)) t.reg.live :=
  ⟨h.regs.wf (Canon_vals hs), (h.live (Canon_live hs)).1⟩

theorem onlyRegs (h : FileOnly l s t) (hr : Tab.wf regReset s.reg.vals) (hl : Tab.wf (fun _ => (0 : Word)) s.reg.live) : OnlyRegs l s t :=
  fun _ ha => ⟨h.regs.get hr ha, by rw [State.longGet, State.longGet, h.regs.get hr ha, (h.live hl).2 _ ha]⟩

end FileOnly

/-- A 48-bit count that saturates (R87). -/
theorem State.longGet_longSat_same {s : State} (hr : Tab.wf regReset s.reg.vals) (hl : Tab.wf (fun _ => (0 : Word)) s.reg.live)
    (lo n : Nat) : (s.longSat lo n).longGet lo = min (s.longGet lo + n) (2 ^ 48 - 1) := by
  have hlow : ∀ m, (s.longSet lo m).rget lo = BitVec.ofNat 32 m := fun m => State.rget_rset_same hr lo _
  have hhigh : ∀ m, Tab.get (fun _ => (0 : Word)) (s.longSet lo m).reg.live lo = BitVec.ofNat 32 (m / 2 ^ 32) := fun m =>
    Tab.get_set_same hl lo _
  unfold State.longSat
  generalize hm : min (s.longGet lo + n) (2 ^ 48 - 1) = m
  have hlt : m < 2 ^ 48 := by omega
  rw [State.longGet, hlow, hhigh, BitVec.toNat_ofNat, BitVec.toNat_ofNat, Nat.mod_eq_of_lt (a := m / 2 ^ 32) (by omega)]
  exact Nat.mod_add_div m (2 ^ 32)

end Sys2Proof.Machine
end

section
namespace Sys2Proof.Machine

/-! ## Flags of a lane's instruction (R88) -/

@[simp] theorem NFlags.word_none : NFlags.none.word = 0#32 := by decide
@[simp] theorem NFlags.word_ofAsat (b : Bool) : (NFlags.ofAsat b).word = if b then 1 else 0 := by cases b <;> decide
@[simp] theorem NFlags.word_ofFsat (b : Bool) : (NFlags.ofFsat b).word = if b then 2 else 0 := by cases b <;> decide
@[simp] theorem NFlags.word_ofThrf (b : Bool) : (NFlags.ofThrf b).word = if b then 4 else 0 := by cases b <;> decide

theorem NFlags.word_or (f g : NFlags) : (f.or g).word = f.word ||| g.word := by
  obtain ⟨a, b, c⟩ := f
  obtain ⟨d, e, h⟩ := g
  revert a b c d e h
  decide

/-- The flags of all lanes reach the register as if each lane set its own (R88). -/
theorem NFlags.or_word_foldl (fs : List NFlags) (f : NFlags) (w : Word) :
    w ||| (fs.foldl NFlags.or f).word = fs.foldl (fun w g => w ||| g.word) (w ||| f.word) := by
  induction fs generalizing f with
  | nil => rfl
  | cons g r ih => rw [List.foldl_cons, List.foldl_cons, ih, NFlags.word_or, BitVec.or_assoc]

/-- An inactive lane sets no flag (R61). -/
theorem laneFlags_foldl (h : Lane → Lane × NFlags) (ls : List Lane) (w : Word) :
    w ||| (((ls.map fun l => if l.active then h l else (l, NFlags.none)).map Prod.snd).foldl NFlags.or NFlags.none).word =
      ls.foldl (fun w l => if l.active then w ||| (h l).2.word else w) w := by
  rw [NFlags.or_word_foldl, List.map_map, List.foldl_map, NFlags.word_none, BitVec.or_zero]
  congr 1
  funext w l
  rw [Function.comp_apply]
  split
  · rfl
  · change w ||| NFlags.none.word = w
    rw [NFlags.word_none, BitVec.or_zero]

/-! ## One instruction on every active lane (R61) -/

section
variable {s : State} (hcanon : Canon s) (n : Nat) (f : Slot → Ctx → Lane → Lane × NFlags)
include hcanon

/-- An instruction acts on the active lanes and on CORE_NRN_FLAGS of the group's slot. -/
theorem State.runLanes_LaneStep : Spec.LaneStep n s (s.runLanes n f) (fun l => (f (s.slotAt n (s.cor n).slot) (s.ctx l.ctx) l).1)
    (fun l => (f (s.slotAt n (s.cor n).slot) (s.ctx l.ctx) l).2.word) := by
  have hcores := Canon_cores hcanon
  have hvals := Canon_vals hcanon
  have hfile : FileOnly [Reg.coreNrnFlags n (s.cor n).slot] s (s.runLanes n f) :=
    .trans (t := s.setCor n _) (.of_reg rfl) (.rset _ _ (List.mem_singleton_self _))
  refine ⟨State.runLanes_Only s n f (by decide) (by decide) (.refl _ s), rfl, rfl, fun m hm => State.cor_setCor_other hcores _ hm, ?_,
    hfile.onlyRegs hvals (Canon_live hcanon), ?_⟩
  · refine (State.cor_setCor_same hcores n _).trans ?_
    rw [List.map_map]
    congr 1
    exact List.map_congr_left fun l _ => apply_ite Prod.fst _ _ _
  · exact (State.rget_rset_same (s := s.setCor n _) hvals _ _).trans (laneFlags_foldl _ _ _)

end

/-- A command that runs one instruction, given what the instruction makes of a lane and the flags it sets. -/
theorem runs_LaneStep {s : State} (hcanon : Canon s) (ha : Alive s) {c : Instr} {n : Nat} {f : State → Slot → Ctx → Lane → Lane × NFlags}
    {g : Lane → Lane} {fl : Lane → Word} (he : exec c s = live s fun s => s.runLanes n (f s))
    (hlane : ∀ l, (f s (s.slotAt n (s.cor n).slot) (s.ctx l.ctx) l).1 = g l)
    (hflags : ∀ l, (f s (s.slotAt n (s.cor n).slot) (s.ctx l.ctx) l).2.word = fl l) :
    ∃ t, exec c s = .next t ∧ Spec.LaneStep n s t g fl := by
  refine ⟨s.runLanes n (f s), he.trans (live_alive ha _), ?_⟩
  have hstep := State.runLanes_LaneStep hcanon n (f s)
  rwa [funext hlane, funext hflags] at hstep

end Sys2Proof.Machine
end

section
namespace Sys2Proof.Machine

/-! ## Rounding and saturation (R68) -/

theorem rneShift_zero (x : Int) : rneShift x 0 = x := if_pos rfl

/-- rshift_rne takes the quotient or the next integer: the next one where the rest is above one half, or is one half and the quotient odd. -/
theorem rneShift_succ (x : Int) (k : Nat) : rneShift x (k + 1) =
    if 2 ^ k < x % 2 ^ (k + 1) ∨ (x % 2 ^ (k + 1) = 2 ^ k ∧ x / 2 ^ (k + 1) % 2 = 1) then x / 2 ^ (k + 1) + 1 else x / 2 ^ (k + 1) := by
  have hrest : x - x / 2 ^ (k + 1) * 2 ^ (k + 1) = x % 2 ^ (k + 1) := by
    rw [Int.emod_def, Int.mul_comm]
  unfold rneShift
  rw [if_neg (Nat.succ_ne_zero k)]
  dsimp only
  rw [hrest]
  rfl

theorem rshiftIsNearestEven : Spec.RshiftIsNearestEven := by
  intro x s
  cases s with
  | zero => simp [rneShift_zero]
  | succ k =>
    have hpow : (2 : Int) ^ (k + 1) = 2 * 2 ^ k := Int.pow_succ' 2 k
    have hcast : ((2 ^ k : Nat) : Int) = 2 ^ k := by push_cast; rfl
    have hpos : (0 : Int) < 2 ^ k := by positivity
    have hrest := Int.mul_ediv_add_emod x (2 ^ (k + 1))
    have hlow := Int.emod_nonneg x (b := 2 ^ (k + 1)) (by omega)
    have hhigh := Int.emod_lt_of_pos x (b := 2 ^ (k + 1)) (by omega)
    have hnat : 2 ^ (k + 1) = 2 * 2 ^ k := Nat.pow_succ'
    rw [rneShift_succ, hnat]
    split
    next h =>
      have herr : 2 ^ (k + 1) * (x / 2 ^ (k + 1) + 1) - x = 2 ^ (k + 1) - x % 2 ^ (k + 1) := by linarith
      rw [herr]
      omega
    next h =>
      have herr : 2 ^ (k + 1) * (x / 2 ^ (k + 1)) - x = - (x % 2 ^ (k + 1)) := by linarith
      rw [herr]
      omega

/-- A clamp is a maximum of a minimum, and tells where it acts. -/
theorem clampTo_eq {lo hi : Int} (h : lo ≤ hi) (x : Int) : clampTo lo hi x = (max lo (min hi x), decide (x < lo ∨ hi < x)) := by
  unfold clampTo
  split
  next hlo => exact Prod.ext (by omega) (by simp [hlo])
  next hlo =>
    split
    next hhi => exact Prod.ext (by omega) (by simp [hhi])
    next hhi => exact Prod.ext (by omega) (by simp [hlo, hhi])

theorem sat32_eq (x : Int) : sat32 x = (Spec.sat x, decide (x < -2 ^ 31 ∨ 2 ^ 31 - 1 < x)) := by
  unfold sat32 Spec.sat
  rw [clampTo_eq (by decide)]

theorem Lane.result_sat32_fst (l : Lane) (d : BitVec 4) (x : Int) : (l.result d (sat32 x)).1 = l.setReg d (Spec.sat x) := by
  rw [Lane.result, sat32_eq]

theorem Lane.result_sat32_flags (l : Lane) (d : BitVec 4) (x : Int) : (l.result d (sat32 x)).2.word = Spec.asat x := by
  rw [Lane.result, sat32_eq, NFlags.word_ofAsat, Spec.asat]
  simp only [decide_eq_true_eq]

/-- An instruction whose result is saturated. -/
theorem runs_sat {s : State} (hcanon : Canon s) (ha : Alive s) {c : Instr} {n : Nat} (d : BitVec 4) (x : Lane → Int)
    (he : exec c s = live s fun s => s.runLanes n fun _ _ l => l.result d (sat32 (x l))) :
    ∃ t, exec c s = .next t ∧ Spec.LaneStep n s t (fun l => l.setReg d (Spec.sat (x l))) (fun l => Spec.asat (x l)) :=
  runs_LaneStep hcanon ha (f := fun _ _ _ l => l.result d (sat32 (x l))) he (fun l => l.result_sat32_fst d (x l))
    (fun l => l.result_sat32_flags d (x l))

/-- Settles O7: rounding by the rest of the division (`rneShift_succ`), and the four instructions as results that saturate (`runs_sat`). -/
theorem neuronArithmetic : Obligations.NeuronArithmetic := by
  refine ⟨rshiftIsNearestEven, fun s core d a b k hcanon ha => ⟨?_, ?_, ?_, ?_⟩⟩
  · exact runs_sat hcanon ha d (fun l => l.regI a + l.regI b) rfl
  · exact runs_sat hcanon ha d (fun l => l.regI a - l.regI b) rfl
  · exact runs_sat hcanon ha d (fun l => rneShift (l.regI a * l.regI b) k.toNat) rfl
  · exact runs_sat hcanon ha d (fun l => l.regI d + rneShift (l.regI a * l.regI b) k.toNat) rfl

end Sys2Proof.Machine
end

section
namespace Sys2Proof.Machine

/-! ## FIRE and the resets (R75, R77) -/

/-- The quotient of R75: 0 where the threshold is not above 0 or not met. -/
def fireQuotient (x y : Int) : Nat := if 0 < y ∧ y ≤ x then (x / y).toNat else 0
/-- The most that a lane fires (R75). -/
def Slot.fireCap (t : Slot) : Nat := if t.counted then 7 else 1
/-- The fire count (R75). -/
def fireCount (t : Slot) (x y : Int) : Nat := min (fireQuotient x y) t.fireCap

theorem Slot.fireCap_cast (t : Slot) : (t.fireCap : Int) = if t.counted then 7 else 1 := by
  unfold Slot.fireCap
  split <;> rfl

theorem fireQuotient_met {x y : Int} (hy : 0 < y) (hx : y ≤ x) : (fireQuotient x y : Int) = x / y := by
  rw [fireQuotient, if_pos ⟨hy, hx⟩]
  exact Int.toNat_of_nonneg (Int.ediv_nonneg (by omega) (by omega))

theorem fireQuotient_unmet {x y : Int} (h : ¬ (0 < y ∧ y ≤ x)) : fireQuotient x y = 0 := if_neg h

/-- The count exceeds the cap where a threshold is met with a quotient above it. -/
theorem fireCap_lt_fireQuotient (t : Slot) (x y : Int) :
    t.fireCap < fireQuotient x y ↔ 0 < y ∧ y ≤ x ∧ (if t.counted then 7 else 1) < x / y := by
  by_cases h : 0 < y ∧ y ≤ x
  · obtain ⟨hy, hx⟩ := h
    rw [← Slot.fireCap_cast, ← fireQuotient_met hy hx, Int.ofNat_lt]
    simp only [hy, hx, true_and]
  · rw [fireQuotient_unmet h]
    simp only [Nat.not_lt_zero, false_iff]
    exact fun hc => h ⟨hc.1, hc.2.1⟩

theorem fireCount_met (t : Slot) {x y : Int} (hy : 0 < y) (hx : y ≤ x) :
    (fireCount t x y : Int) = min (x / y) (if t.counted then 7 else 1) := by
  rw [fireCount, Nat.cast_min, fireQuotient_met hy hx, Slot.fireCap_cast]

theorem fireCount_unmet (t : Slot) {x y : Int} (h : ¬ (0 < y ∧ y ≤ x)) : fireCount t x y = 0 := by
  rw [fireCount, fireQuotient_unmet h, Nat.zero_min]

/-- FIRE in terms of its quotient and count. -/
theorem laneFire_eq (d a b : BitVec 4) (t : Slot) (l : Lane) : laneFire d a b t l =
    ({ l.setReg d (BitVec.ofNat 32 (fireCount t (l.regI a) (l.regI b))) with
        n := fireCount t (l.regI a) (l.regI b)
        exc := l.exc || decide (t.fireCap < fireQuotient (l.regI a) (l.regI b))
        wrec := fireBumps t (fireCount t (l.regI a) (l.regI b)) l.wrec }, NFlags.ofThrf (decide (l.regI b ≤ 0))) := rfl

theorem fireDecides : Spec.FireDecides := by
  intro s core d a b hcanon ha sl cap
  obtain ⟨t, hexec, hstep⟩ := runs_LaneStep hcanon ha (c := .fire core d a b) (n := core.toNat)
    (f := fun _ t _ l => laneFire d a b t l) rfl (fun _ => rfl) (fun _ => rfl)
  refine ⟨t, fun l => fireCount sl (l.regI a) (l.regI b), hexec, fun l => ⟨fireCount_met sl, fun h => ?_, fun h => ?_⟩, ?_⟩
  · exact fireCount_unmet sl (by omega)
  · exact fireCount_unmet sl (by omega)
  · simpa only [laneFire_eq, fireCap_lt_fireQuotient, NFlags.word_ofThrf, decide_eq_true_eq] using hstep

theorem resetInstructions : Spec.ResetInstructions := by
  intro s core d a b hcanon ha
  exact ⟨runs_sat hcanon ha d (fun l => l.regI a - l.n * l.regI b) rfl,
    runs_LaneStep hcanon ha (f := fun _ _ _ l => laneRset d a b l) rfl (fun _ => rfl) (fun _ => NFlags.word_none)⟩

/-- Settles O8: FIRE by its quotient and cap (`laneFire_eq`), RSUB as a result that saturates, RSET as a choice. -/
theorem fireAndReset : Obligations.FireAndReset := ⟨fireDecides, resetInstructions⟩

end Sys2Proof.Machine
end

section
namespace Sys2Proof.Machine

/-! ## Moves, comparisons and selections (R71) -/

/-- The smaller of two register values is one of the registers. -/
theorem ofInt_min_toInt {w : Nat} (x y : BitVec w) : BitVec.ofInt w (min x.toInt y.toInt) = if x.toInt ≤ y.toInt then x else y := by
  rw [min_def, apply_ite (BitVec.ofInt w), BitVec.ofInt_toInt, BitVec.ofInt_toInt]

theorem ofInt_max_toInt {w : Nat} (x y : BitVec w) : BitVec.ofInt w (max x.toInt y.toInt) = if x.toInt ≤ y.toInt then y else x := by
  rw [max_def, apply_ite (BitVec.ofInt w), BitVec.ofInt_toInt, BitVec.ofInt_toInt]

/-- An arithmetic shift is a division by a power of two, towards −∞. -/
theorem sshiftRight_eq_ofInt {w : Nat} (x : BitVec w) (k : Nat) : x.sshiftRight k = BitVec.ofInt w (x.toInt / 2 ^ k) := by
  rw [← BitVec.ofInt_toInt (x := x.sshiftRight k), BitVec.toInt_sshiftRight, Int.shiftRight_eq_div_pow, Nat.cast_pow]
  rfl

theorem ofInt_sub_ofInt {w : Nat} (x y : Int) : BitVec.ofInt w x - BitVec.ofInt w y = BitVec.ofInt w (x - y) := by
  rw [Int.sub_eq_add_neg, BitVec.ofInt_add, BitVec.ofInt_neg, BitVec.sub_eq_add_neg]

/-- DECAY subtracts from a value its quotients by 2^k1 and, with k2 not 0, by 2^k2. -/
theorem laneDecay_fst (d a : BitVec 4) (k1 k2 : BitVec 5) (l : Lane) : (laneDecay d a k1 k2 l).1 = l.setReg d (BitVec.ofInt 32
    (l.regI a - l.regI a / 2 ^ k1.toNat - if k2 = 0 then 0 else l.regI a / 2 ^ k2.toNat)) := by
  have hself : l.reg a = BitVec.ofInt 32 (l.regI a) := BitVec.ofInt_toInt.symm
  have hfirst : l.reg a - (l.reg a).sshiftRight k1.toNat = BitVec.ofInt 32 (l.regI a - l.regI a / 2 ^ k1.toNat) := by
    rw [sshiftRight_eq_ofInt, ← ofInt_sub_ofInt, ← hself]
    rfl
  unfold laneDecay
  dsimp only
  rw [hfirst]
  split
  · rw [Int.sub_zero]
  · rw [sshiftRight_eq_ofInt, ofInt_sub_ofInt]
    rfl

/-- CLAMP bounds V[D] from below first and then from above. -/
theorem laneClamp_fst (d a b : BitVec 4) (l : Lane) :
    (laneClamp d a b l).1 = l.setReg d (BitVec.ofInt 32 (min (max (l.regI d) (l.regI a)) (l.regI b))) := by
  have hmax : max (l.regI d) (l.regI a) = (if l.regI d ≤ l.regI a then l.reg a else l.reg d).toInt := by
    rw [max_def, apply_ite BitVec.toInt]
    rfl
  rw [hmax]
  exact congrArg (l.setReg d) (ofInt_min_toInt _ _).symm

theorem neuronMovesAndCompares : Spec.NeuronMovesAndCompares := by
  intro s core d a b c imm k1 k2 hcanon ha
  have hflags : ∀ _ : Lane, NFlags.none.word = 0 := fun _ => NFlags.word_none
  refine ⟨?_, ?_, fun hk => ?_, ?_, ?_, ?_, ?_, ?_, ?_, ?_⟩
  · exact runs_LaneStep hcanon ha (f := fun _ _ _ l => (l, NFlags.none)) rfl (fun _ => rfl) hflags
  · exact runs_LaneStep hcanon ha (f := fun _ _ _ l => laneMovi d imm l) rfl (fun _ => rfl) hflags
  · have hexec : exec (.decay core d a k1 k2) s = live s fun s => s.runLanes core.toNat fun _ _ l => laneDecay d a k1 k2 l :=
      congrArg (live s) (funext fun _ => if_neg hk)
    exact runs_LaneStep hcanon ha (f := fun _ _ _ l => laneDecay d a k1 k2 l) hexec (laneDecay_fst d a k1 k2) hflags
  · exact live_alive ha fun s => if (0 : BitVec 5) = 0 then s else s.runLanes core.toNat fun _ _ l => laneDecay d a 0 k2 l
  · exact runs_LaneStep hcanon ha (f := fun _ _ _ l => laneMin d a b l) rfl (fun l => congrArg (l.setReg d) (ofInt_min_toInt _ _).symm) hflags
  · exact runs_LaneStep hcanon ha (f := fun _ _ _ l => laneMax d a b l) rfl (fun l => congrArg (l.setReg d) (ofInt_max_toInt _ _).symm) hflags
  · exact runs_LaneStep hcanon ha (f := fun _ _ _ l => laneClamp d a b l) rfl (laneClamp_fst d a b) hflags
  · exact runs_LaneStep hcanon ha (f := fun _ _ _ l => laneCmpgt d a b l) rfl (fun _ => rfl) hflags
  · exact runs_LaneStep hcanon ha (f := fun _ _ _ l => laneCmpge d a b l) rfl (fun _ => rfl) hflags
  · exact runs_LaneStep hcanon ha (f := fun _ _ _ l => laneSel d a b c l) rfl (fun _ => rfl) hflags

/-! ## Loads, stores, trace bumps and draws (R72, R73, R81) -/

/-- What an instruction that a population may not have makes of a lane: nothing. -/
theorem ite_lane_fst {p : Prop} [Decidable p] (x : Lane × NFlags) (l : Lane) : (if p then x else (l, NFlags.none)).1 = if p then x.1 else l :=
  apply_ite Prod.fst _ _ _

/-- The flag of an instruction that a population may not have. -/
theorem ite_flags_word {p : Prop} [Decidable p] {x : Lane × NFlags} {l : Lane} {b : Bool} {w : Word} (h : x.2.word = if b then w else 0) :
    (if p then x else (l, NFlags.none)).2.word = if p ∧ b = true then w else 0 := by
  by_cases hp : p
  · rw [if_pos hp, h]
    simp only [hp, true_and]
  · rw [if_neg hp, if_neg fun hc => hp hc.1]
    exact NFlags.word_none

theorem neuronFieldAccess : Spec.NeuronFieldAccess := by
  intro s core d a sel tr k hcanon ha sl ld st
  refine ⟨?_, ?_, ?_, ?_⟩
  · exact runs_LaneStep hcanon ha (f := fun _ t c l => laneLdf d sel t c l) rfl (fun _ => ite_lane_fst _ _)
      fun _ => ite_flags_word (NFlags.word_ofAsat _)
  · exact runs_LaneStep hcanon ha (f := fun _ t _ l => laneStf a sel t l) rfl (fun _ => ite_lane_fst _ _)
      fun _ => ite_flags_word (NFlags.word_ofFsat _)
  · refine runs_LaneStep hcanon ha (f := fun _ t _ l => laneTbump a tr t l) rfl (fun _ => ite_lane_fst _ _) fun l => ?_
    exact (apply_ite (fun x : Lane × NFlags => x.2.word) _ _ _).trans ((ite_self _).trans NFlags.word_none)
  · exact runs_LaneStep hcanon ha
      (f := fun s t c l => laneRand (s.bnd (s.cor core.toNat).binding.toNat).seed d k t c l) rfl (fun _ => rfl) fun _ => NFlags.word_none

/-- Settles O9: an instruction of the table at a time, as what it makes of a lane and the flag it sets. -/
theorem neuronMoves : Obligations.NeuronMoves := ⟨neuronMovesAndCompares, neuronFieldAccess⟩

end Sys2Proof.Machine
end

section
namespace Sys2Proof.Machine

/-! ## LANE_GROUP_START (R61, R62, R65, R80, R90) -/

/-- The instances of the group that starts in slot `t` at position `p`. -/
def State.groupInsts (s : State) (n t p : Nat) : List ((Nat × Ctx) × Nat) :=
  (((s.coreCtxs n (s.cor n).binding.toNat).flatMap (fun q => (List.range (s.slotAt n t).nLocal).map (fun i => (q, i)))).drop p).take 512
/-- Whether one of these records is in uncorrectable error. -/
def State.instBadRec (s : State) (t : Slot) (q : (Nat × Ctx) × Nat) : Bool := s.badRange (recordAddr q.1.2 t q.2) t.stride
/-- The lane that holds one of the group's instances. -/
def State.instLane (s : State) (t : Slot) (q : (Nat × Ctx) × Nat) : Lane := s.loadLane t (q.1.1, q.1.2, q.2)
/-- The core with the group's lanes loaded. -/
def State.loadedCore (s : State) (n t p : Nat) : Core :=
  { s.cor n with slot := t, pos := p, lanes := (s.groupInsts n t p).map (s.instLane (s.slotAt n t)) }
/-- The group is loaded, and its program counted as activity (R424). -/
def State.groupLoaded (s : State) (n t p : Nat) : State := (s.setCor n (s.loadedCore n t p)).unitActs 2 2 (s.slotAt n t).progLen
/-- An uncorrectable record of slot `t` shows: ECCF, the core's source and the status of the step (R90). -/
def State.eccShown (s : State) (n t b : Nat) : State :=
  ((s.rsetBit (Reg.coreNrnFlags n t) 3 true).raiseCore n).stepStatus b St.eccFatal

theorem instancesOf_eq_map (cs : List (Nat × Ctx)) (t : Slot) : instancesOf cs t =
    (cs.flatMap (fun q => (List.range t.nLocal).map (fun i => (q, i)))).map (fun q => (q.1.1, q.1.2, q.2)) := by
  simp only [instancesOf, List.map_flatMap, List.map_map]
  rfl

/-- The record of every lane is read before anything changes. -/
theorem State.startGroup_eq {s : State} {n t p : Nat} (hp : (s.cor n).phase = .neuron) (hl : (s.cor n).lanes = [])
    (hf : (s.cor n).frozen = false) (hg : s.nextGroup n = some (t, p)) : s.startGroup n =
      if (s.groupInsts n t p).all (fun q => !s.instBadRec (s.slotAt n t) q) then s.groupLoaded n t p
      else (s.groupLoaded n t p).eccShown n t (s.cor n).binding.toNat := by
  have hgo : ¬ ((s.cor n).phase ≠ .neuron ∨ (s.cor n).lanes ≠ [] ∨ (s.cor n).frozen) := by simp [hp, hl, hf]
  have hlanes : (((instancesOf (s.coreCtxs n (s.cor n).binding.toNat) (s.slotAt n t)).drop p).take 512).map (s.loadLane (s.slotAt n t)) =
      (s.groupInsts n t p).map (s.instLane (s.slotAt n t)) := by
    rw [instancesOf_eq_map, ← List.map_drop, ← List.map_take, List.map_map]
    rfl
  have hall : ((s.groupInsts n t p).map (s.instLane (s.slotAt n t))).all (·.active) =
      (s.groupInsts n t p).all (fun q => !s.instBadRec (s.slotAt n t) q) := List.all_map
  unfold State.startGroup
  dsimp only
  rw [if_neg hgo, hg]
  dsimp only
  rw [hlanes, hall]
  rfl

/-- A lane starts with registers and fire count 0 and its record decayed (R64, R80). -/
theorem State.instLane_spec (s : State) (t : Slot) (q : (Nat × Ctx) × Nat) :
    (s.instLane t q).ctx = q.1.1 ∧ (s.instLane t q).cidx = q.1.2.cidx ∧ (s.instLane t q).idx = q.2 ∧
    (s.instLane t q).active = !s.instBadRec t q ∧ (s.instLane t q).n = 0 ∧ (s.instLane t q).exc = false ∧
    (∀ a, (s.instLane t q).reg a = 0) ∧ (s.instLane t q).wrec = [0, 1, 2, 3].foldl (decayTrace t) (s.readRec q.1.2 t q.2) :=
  ⟨rfl, rfl, rfl, rfl, rfl, rfl, fun _ => Vector.getElem_replicate _, rfl⟩

/-! ### An uncorrectable record -/

/-- A source that is assigned is raw once it was raised (R494). -/
theorem State.raise_raw (s : State) {n : Nat} (h : irqAssigned n = true) (hn : n < 512) : (s.raise n).irq.raw.getLsbD n = true := by
  have hset : (s.irq.raw ||| BitVec.ofNat 512 (2 ^ n)).getLsbD n = true := by
    rw [BitVec.getLsbD_or, BitVec.getLsbD_ofNat, Nat.testBit_two_pow_self, decide_eq_true hn]
    exact Bool.or_true _
  have hnotice : ∀ (t : State) (k : Byte) (l : List Byte), (t.notice k l).irq = t.irq := fun t k l =>
    (State.notice_Only (L := [.eth, .out]) t k l (by decide) (by decide) (.refl _ t)).same .irq (by decide)
  unfold State.raise
  rw [if_neg (by simp [h])]
  split
  next hraw => exact hraw
  next =>
    dsimp only
    split
    · rw [hnotice]
      exact hset
    · exact hset

theorem irqAssigned_core {p : Nat} (h : p < 64) : irqAssigned (25 + p) = true := by
  have hrange : 1 ≤ 25 + p ∧ 25 + p ≤ 111 := by omega
  simp [irqAssigned, hrange]

theorem State.physCore_lt (s : State) (n : Nat) : s.physCore n < 64 := Nat.mod_lt _ (by decide)

/-- The first command of the step queue takes the status where it has a step left (R284). -/
theorem Binding.tookStatus_first {x : Binding} {q : StepCmd} {r : List StepCmd} (hx : x.queue = q :: r) (hq : q.left ≠ some 0)
    (member : Bool) (st : Byte) : (x.tookStatus member st).queue = { q with status := worse q.status st } :: r := by
  unfold Binding.tookStatus
  rw [hx]
  simp [markFirst, hq]

section
variable {s : State} {n t b : Nat}

theorem State.eccShown_Only (s : State) (n t b : Nat) : OnlyChanges [.cmd, .eth, .irq, .out, .reg] s (s.eccShown n t b) :=
  State.stepStatus_Only _ _ _ (by decide) (State.raise_Only _ _ (by decide) (by decide) (by decide) (by decide)
    (State.rsetBit_Only _ _ _ _ (by decide) (.refl _ s)))

theorem State.eccShown_flag (hr : Tab.wf regReset s.reg.vals) (ht : t < 64) :
    (s.eccShown n t b).rbit (Reg.coreNrnFlags n t) 3 = true := by
  have hsent : Reg.coreNrnFlags n t ∉ sentRegs := by
    simp only [mem_sentRegs, Reg.coreNrnFlags]
    omega
  have hshown : ((s.eccShown n t b)).rget (Reg.coreNrnFlags n t) = (s.rsetBit (Reg.coreNrnFlags n t) 3 true).rget (Reg.coreNrnFlags n t) := by
    rw [State.rget, State.eccShown, State.stepStatus_reg]
    exact (State.raise_Sent _ _).regs.get (Tab.wf_set hr _ _) hsent
  rw [State.rbit, hshown]
  exact State.rbit_rsetBit_same hr _ true (by decide)

theorem State.eccShown_raw (hr : Tab.wf regReset s.reg.vals) (hn : n < 16) (ht : t < 64) :
    (s.eccShown n t b).irq.raw.getLsbD (25 + s.physCore n) = true := by
  have hphys : (s.rsetBit (Reg.coreNrnFlags n t) 3 true).physCore n = s.physCore n := by
    rw [State.physCore, State.rfield, State.rsetBit, State.rmod, State.rget_rset_other hr]
    · rfl
    · simp only [Reg.coreNrnFlags, Reg.budLmapCore]
      omega
  have hlt := s.physCore_lt n
  have hirq : (s.eccShown n t b).irq = ((s.rsetBit (Reg.coreNrnFlags n t) 3 true).raiseCore n).irq :=
    (State.stepStatus_cmdOnly _ b St.eccFatal).same .irq (by decide)
  rw [hirq, State.raiseCore, hphys]
  exact State.raise_raw _ (irqAssigned_core hlt) (by omega)

theorem State.eccShown_queue (hw : Tab.wf (fun _ => Binding.empty) s.cmd.bindings) {q : StepCmd} {r : List StepCmd}
    (hx : (s.bnd b).queue = q :: r) (hq : q.left ≠ some 0) :
    ((s.eccShown n t b).bnd b).queue = { q with status := worse q.status St.eccFatal } :: r := by
  have hcmd : ((s.rsetBit (Reg.coreNrnFlags n t) 3 true).raiseCore n).cmd = s.cmd := State.raise_cmd _ _
  rw [State.eccShown, State.bnd_stepStatus_same (by rw [hcmd]; exact hw)]
  refine Binding.tookStatus_first ?_ hq _ _
  rw [State.bnd, hcmd]
  exact hx

end

/-! ### Settling -/

section
variable {s : State} {n t p : Nat} (hcores : Tab.wf (fun _ => Core.empty) s.core.cores)
include hcores

theorem State.groupLoaded_cor_same : (s.groupLoaded n t p).cor n = s.loadedCore n t p := State.cor_setCor_same hcores n _
theorem State.groupLoaded_cor_other {m : Nat} (hm : m ≠ n) : (s.groupLoaded n t p).cor m = s.cor m := State.cor_setCor_other hcores _ hm

/-- The lanes that a state with the same cores as the loaded one shows. -/
theorem State.groupLoaded_lanes {u : State} (hu : u.core = (s.groupLoaded n t p).core) :
    ∃ ls, u.cor n = { s.cor n with slot := t, pos := p, lanes := ls } ∧ (∀ m, m ≠ n → u.cor m = s.cor m) ∧
      ls.length = (s.groupInsts n t p).length ∧
      ∀ x ∈ (s.groupInsts n t p).zip ls, x.2 = s.instLane (s.slotAt n t) x.1 := by
  have hcor : ∀ m, u.cor m = (s.groupLoaded n t p).cor m := fun m => by simp only [State.cor, hu]
  refine ⟨(s.groupInsts n t p).map (s.instLane (s.slotAt n t)), (hcor n).trans (State.groupLoaded_cor_same hcores),
    fun m hm => (hcor m).trans (State.groupLoaded_cor_other hcores hm), List.length_map _, fun x hx => ?_⟩
  rw [← List.map_prod_left_eq_zip] at hx
  obtain ⟨q, -, rfl⟩ := List.mem_map.mp hx
  rfl

end

/-- Settles O26: the group's lanes are read from the state before (`startGroup_eq`, `instLane_spec`); an uncorrectable record shows as
`eccShown` says. -/
theorem laneGroups : Obligations.LaneGroups := by
  intro s core sl p n c t cs group bad lanes hcanon ha hn hsl hphase hfrozen hempty hgroup
  have hstart := State.startGroup_eq hphase hempty hfrozen hgroup
  have hlanes : ∀ u : State, u.core = (s.groupLoaded n sl p).core → lanes u := fun u hu => by
    obtain ⟨ls, hsame, hother, hlen, hall⟩ := State.groupLoaded_lanes (Canon_cores hcanon) hu
    exact ⟨ls, hsame, hother, hlen, fun x hx => hall x hx ▸ s.instLane_spec t x.1⟩
  have hloaded : OnlyChanges [.gov, .core] s (s.groupLoaded n sl p) :=
    State.unitActs_Only _ _ _ _ (by decide) (State.setCor_Only _ _ (by decide) (.refl _ s))
  have hacts : ActsOnly s (s.groupLoaded n sl p) := rfl
  constructor
  · intro hgood
    have hall : (s.groupInsts n sl p).all (fun q => !s.instBadRec t q) = true :=
      List.all_eq_true.mpr fun q hq => by rw [Bool.not_eq_true']; exact hgood q hq
    rw [if_pos hall] at hstart
    refine Run_of_live (f := fun s => s.startGroup n) ha rfl ?_ ?_ <;> rw [hstart]
    · exact Frame_of_acts hloaded hacts
    · exact hlanes _ rfl
  · rintro ⟨q, hq, hbad⟩
    have hall : ¬ (s.groupInsts n sl p).all (fun q => !s.instBadRec t q) = true := fun h => by
      have hgood : (!s.instBadRec t q) = true := List.all_eq_true.mp h q hq
      rw [show s.instBadRec t q = true from hbad] at hgood
      exact absurd hgood (by decide)
    rw [if_neg hall] at hstart
    have hshown := State.eccShown_Only (s.groupLoaded n sl p) n sl c.binding.toNat
    refine Run_of_live (f := fun s => s.startGroup n) ha rfl ?_ ?_ <;> rw [hstart]
    · exact Frame_of_acts ((hloaded.mono (by decide)).trans (hshown.mono (by decide)))
        (hacts.trans (ActsOnly.of_only hshown (by decide)))
    · have hvals : Tab.wf regReset (s.groupLoaded n sl p).reg.vals := Canon_vals (s := s) hcanon
      have hbindings : Tab.wf (fun _ => Binding.empty) (s.groupLoaded n sl p).cmd.bindings := Canon_bindings (s := s) hcanon
      have hphys : (s.groupLoaded n sl p).physCore n = s.physCore n := rfl
      exact ⟨hlanes _ (hshown.same .core (by decide)), State.eccShown_flag hvals hsl, hphys ▸ State.eccShown_raw hvals hn hsl,
        fun q r hx hq => State.eccShown_queue hbindings hx hq⟩

end Sys2Proof.Machine
end

section
namespace Sys2Proof.Machine

/-! ## Bytes written to the memory -/

theorem Memory.putBytes_wf {t : Tab Byte} (h : Tab.wf Memory.unlisted t) (k : Nat) (v : List Byte) :
    Tab.wf Memory.unlisted (Memory.putBytes t k v) := (Edits.putBytes k v .refl).wf h

/-- Bytes outside the written range stand. -/
theorem Memory.get_putBytes_outside {t : Tab Byte} (h : Tab.wf Memory.unlisted t) {k a : Nat} (v : List Byte)
    (ha : ¬ (k ≤ a ∧ a < k + v.length)) : Tab.get Memory.unlisted (Memory.putBytes t k v) a = Tab.get Memory.unlisted t a := by
  induction v generalizing k t with
  | nil => rfl
  | cons x r ih =>
    rw [List.length_cons] at ha
    exact (ih (Tab.wf_set h k x) (by omega)).trans (Tab.get_set_other h x (by omega))

/-- Byte `i` of the written string stands at its place. -/
theorem Memory.get_putBytes_inside {t : Tab Byte} (h : Tab.wf Memory.unlisted t) (k : Nat) {v : List Byte} {i : Nat} (hi : i < v.length) :
    Tab.get Memory.unlisted (Memory.putBytes t k v) (k + i) = v[i] := by
  induction v generalizing k t i with
  | nil => exact absurd hi (Nat.not_lt_zero i)
  | cons x r ih =>
    have hw := Tab.wf_set h k x
    cases i with
    | zero => exact (Memory.get_putBytes_outside hw r (by omega)).trans (Tab.get_set_same h k x)
    | succ i =>
      have hkey : k + (i + 1) = k + 1 + i := by omega
      rw [hkey]
      exact ih hw (k + 1) (Nat.lt_of_succ_lt_succ hi)

/-- A byte string is read where each of its bytes stands. -/
theorem State.bytes_eq {s : State} {k : Nat} {v : List Byte} (h : ∀ i (hi : i < v.length), s.byteAt (k + i) = v[i]) :
    s.bytes k v.length = v := by
  induction v generalizing k with
  | nil => rfl
  | cons x r ih =>
    have hfirst : s.byteAt k = x := h 0 (Nat.zero_lt_succ _)
    have hrest : s.bytes (k + 1) r.length = r := ih fun i hi => by
      have hbyte := h (i + 1) (Nat.succ_lt_succ hi)
      rwa [show k + (i + 1) = k + 1 + i by omega] at hbyte
    rw [List.length_cons, State.bytes, hfirst, hrest]

/-- Byte strings written one after the other, each from its address on. -/
def State.putAll (s : State) (ws : List (Nat × List Byte)) : State := s.forAll ws (fun s w => s.putBytes w.1 w.2)

/-- Whether a write covers an address. -/
def covers (w : Nat × List Byte) (a : Nat) : Prop := w.1 ≤ a ∧ a < w.1 + w.2.length

theorem State.putAll_outside {s : State} (h : Memory.wf s.mem) {ws : List (Nat × List Byte)} {a : Nat} (ha : ∀ w ∈ ws, ¬ covers w a) :
    (s.putAll ws).byteAt a = s.byteAt a := by
  induction ws generalizing s with
  | nil => rfl
  | cons w r ih =>
    refine (ih (s := s.putBytes w.1 w.2) (Memory.putBytes_wf h _ _) fun v hv => ha v (List.mem_cons_of_mem _ hv)).trans ?_
    exact Memory.get_putBytes_outside h w.2 (ha w List.mem_cons_self)

/-- A byte string stands in the end where no other write touches its place. -/
theorem State.putAll_inside {s : State} (h : Memory.wf s.mem) {ws : List (Nat × List Byte)} {w : Nat × List Byte} (hw : w ∈ ws)
    (halone : ∀ v ∈ ws, v ≠ w → ∀ a, ¬ (covers w a ∧ covers v a)) : (s.putAll ws).bytes w.1 w.2.length = w.2 := by
  induction ws generalizing s with
  | nil => exact absurd hw List.not_mem_nil
  | cons v r ih =>
    have hwf : Memory.wf (s.putBytes v.1 v.2).mem := Memory.putBytes_wf h _ _
    by_cases hr : w ∈ r
    · exact ih hwf hr fun x hx => halone x (List.mem_cons_of_mem _ hx)
    · obtain rfl : w = v := (List.mem_cons.mp hw).resolve_right hr
      refine State.bytes_eq fun i hi => ?_
      have hlast : ((s.putBytes w.1 w.2).putAll r).byteAt (w.1 + i) = (s.putBytes w.1 w.2).byteAt (w.1 + i) :=
        State.putAll_outside hwf fun x hx hc => halone x (List.mem_cons_of_mem _ hx) (fun e => hr (e ▸ hx)) (w.1 + i)
          ⟨⟨Nat.le_add_right _ _, Nat.add_lt_add_left hi _⟩, hc⟩
      exact hlast.trans (Memory.get_putBytes_inside h w.1 hi)

theorem State.putAll_Only (s : State) (ws : List (Nat × List Byte)) : OnlyChanges [.mem] s (s.putAll ws) :=
  OnlyChanges.forAll (fun _ _ h => State.putBytes_Only _ _ (by decide) h) ws (.refl _ s)

end Sys2Proof.Machine
end

section
namespace Sys2Proof.Machine

/-! ## The end of phase 2 (R32, R62, R228) -/

theorem State.slotAt_congr {s t : State} (h : t.core.slots = s.core.slots) (n k : Nat) : t.slotAt n k = s.slotAt n k := by
  simp only [State.slotAt, h]

theorem State.coreCtxs_congr {s t : State} (h : t.cmd.ctxs = s.cmd.ctxs) (n b : Nat) : t.coreCtxs n b = s.coreCtxs n b := by
  simp only [State.coreCtxs, State.ctxsOf, h]

/-- The next group is decided by the contexts, the programs and where the core stands in them. -/
theorem State.nextGroup_congr {s t : State} {n : Nat} (hctxs : t.cmd.ctxs = s.cmd.ctxs) (hslots : t.core.slots = s.core.slots)
    (hb : (t.cor n).binding = (s.cor n).binding) (hs : (t.cor n).slot = (s.cor n).slot) (hp : (t.cor n).pos = (s.cor n).pos) :
    t.nextGroup n = s.nextGroup n := by
  simp only [State.nextGroup, State.slotsOf, State.slotAt_congr hslots, State.coreCtxs_congr hctxs, hb, hs, hp]

/-- Phase 2 of core `n` is over: no group runs and none is left. -/
def State.phase2Over (s : State) (n : Nat) : Prop := (s.cor n).phase = .neuron ∧ (s.cor n).lanes = [] ∧ s.nextGroup n = none

/-- The core once phase 2 is over. -/
def Core.emits (c : Core) : Core := { c with phase := .emit, learnDue := true }

theorem State.phase2End_over {s : State} {n : Nat} (h : s.phase2Over n) : s.phase2End n =
    ((s.setCor n (s.cor n).emits).rsetBit (Reg.coreRteStatus n) 0 (!(s.cor n).frozen)).rsetBit (Reg.coreLrnStatus n) 0 (!(s.cor n).frozen) :=
  if_pos h

theorem State.phase2End_goesOn {s : State} {n : Nat} (h : ¬ s.phase2Over n) : s.phase2End n = s := if_neg h

section
variable {s : State} {n : Nat} (hw : Tab.wf (fun _ => Core.empty) s.core.cores)
include hw

theorem State.phase2End_cor_over (h : s.phase2Over n) : (s.phase2End n).cor n = (s.cor n).emits := by
  rw [State.phase2End_over h]
  exact State.cor_setCor_same hw n _

theorem State.phase2End_cor_other {m : Nat} (hm : m ≠ n) : (s.phase2End n).cor m = s.cor m := by
  by_cases h : s.phase2Over n
  · rw [State.phase2End_over h]
    exact State.cor_setCor_other hw _ hm
  · rw [State.phase2End_goesOn h]

end

theorem State.phase2End_FileOnly (s : State) (n : Nat) :
    FileOnly [Reg.coreRteStatus n, Reg.coreLrnStatus n] s (s.phase2End n) := by
  by_cases h : s.phase2Over n
  · rw [State.phase2End_over h]
    exact .trans (t := s.setCor n _) (.of_reg rfl) (.trans (.rsetBit _ 0 _ (by simp)) (.rsetBit _ 0 _ (by simp)))
  · rw [State.phase2End_goesOn h]
    exact .refl _ s

theorem State.phase2End_coreReg (s : State) (n : Nat) : OnlyChanges [.core, .reg] s (s.phase2End n) :=
  State.phase2End_Only s n (by decide) (by decide) (.refl _ s)

theorem rteStatus_ne_lrnStatus (n : Nat) : Reg.coreRteStatus n ≠ Reg.coreLrnStatus n := by
  simp only [Reg.coreRteStatus, Reg.coreLrnStatus]
  omega

/-- Once phase 2 is over, phase 3 and the learning pass are active on a core that is not frozen. -/
theorem State.phase2End_active {s : State} {n : Nat} (hr : Tab.wf regReset s.reg.vals) (h : s.phase2Over n) :
    (s.phase2End n).rbit (Reg.coreRteStatus n) 0 = !(s.cor n).frozen ∧ (s.phase2End n).rbit (Reg.coreLrnStatus n) 0 = !(s.cor n).frozen := by
  have hvals : Tab.wf regReset (s.setCor n (s.cor n).emits).reg.vals := hr
  rw [State.phase2End_over h]
  refine ⟨?_, State.rbit_rsetBit_same (Tab.wf_set hvals _ _) _ _ (by decide)⟩
  have hsame := State.rbit_rsetBit_same hvals (Reg.coreRteStatus n) (i := 0) (!(s.cor n).frozen) (by decide)
  have hother := (RegsOnly.rsetBit (l := [Reg.coreLrnStatus n]) ((s.setCor n (s.cor n).emits).rsetBit (Reg.coreRteStatus n) 0 (!(s.cor n).frozen))
    0 (!(s.cor n).frozen) (List.mem_singleton_self _)).get (Tab.wf_set hvals _ _) (a := Reg.coreRteStatus n)
    fun hm => rteStatus_ne_lrnStatus n (List.mem_singleton.mp hm)
  rw [State.rbit, hother]
  exact hsame

end Sys2Proof.Machine
end

section
namespace Sys2Proof.Machine

/-! ### What the end of phase 2 shows -/

/-- From `s` to `u` the activity of phase 3 and of the learning pass is as at the end of phase 2 where `yes` holds, else that of `s`, with
phase 3 active where a lane has fired. -/
def PhaseShown (n : Nat) (frozen : Bool) (s : State) (yes : Prop) (fired : Bool) (u : State) : Prop :=
  (yes → u.rbit (Reg.coreRteStatus n) 0 = !frozen ∧ u.rbit (Reg.coreLrnStatus n) 0 = !frozen) ∧
  (¬ yes → u.rget (Reg.coreLrnStatus n) = s.rget (Reg.coreLrnStatus n) ∧
    u.rbit (Reg.coreRteStatus n) 0 = (s.rbit (Reg.coreRteStatus n) 0 || fired) ∧
    (fired = false → u.rget (Reg.coreRteStatus n) = s.rget (Reg.coreRteStatus n)))

section
variable {s u : State} {n : Nat} {c : Core} {yes : Prop} (hcor : u.cor n = c) (hyes : u.phase2Over n ↔ yes)
include hcor hyes

theorem State.phase2End_cor_same [Decidable yes] (hw : Tab.wf (fun _ => Core.empty) u.core.cores) : (u.phase2End n).cor n =
    { c with phase := if yes then .emit else c.phase, learnDue := if yes then true else c.learnDue } := by
  by_cases h : yes
  · rw [State.phase2End_cor_over hw (hyes.mpr h), hcor, if_pos h, if_pos h]
    rfl
  · rw [State.phase2End_goesOn (mt hyes.mp h), hcor, if_neg h, if_neg h]

theorem State.phase2End_shown (hr : Tab.wf regReset u.reg.vals) {fired : Bool}
    (hlrn : u.rget (Reg.coreLrnStatus n) = s.rget (Reg.coreLrnStatus n))
    (hrte : u.rbit (Reg.coreRteStatus n) 0 = (s.rbit (Reg.coreRteStatus n) 0 || fired))
    (hkept : fired = false → u.rget (Reg.coreRteStatus n) = s.rget (Reg.coreRteStatus n)) :
    PhaseShown n c.frozen s yes fired (u.phase2End n) := by
  constructor <;> intro h
  · rw [← hcor]
    exact State.phase2End_active hr (hyes.mpr h)
  · rw [State.phase2End_goesOn (mt hyes.mp h)]
    exact ⟨hlrn, hrte, hkept⟩

end

end Sys2Proof.Machine
end

section
namespace Sys2Proof.Machine

/-! ## END on a lane group (R65, R76, R77, R87) -/

/-- The record that END writes back for a lane, from its address on. -/
def State.endWrite (s : State) (t : Slot) (l : Lane) : Nat × List Byte :=
  (recordAddr (s.ctx l.ctx) t l.idx, recBytes (endRec t l.wrec))
/-- The records that END writes back. -/
def State.endWrites (s : State) (t : Slot) (ls : List Lane) : List (Nat × List Byte) := (ls.filter (·.active)).map (s.endWrite t)

theorem State.mem_endWrites {s : State} {t : Slot} {ls : List Lane} {w : Nat × List Byte} :
    w ∈ s.endWrites t ls ↔ ∃ l ∈ ls, l.active = true ∧ s.endWrite t l = w := by
  simp only [State.endWrites, List.mem_map, List.mem_filter, and_assoc]

theorem State.forAll_endLane (s : State) (t : Slot) (ls : List Lane) :
    s.forAll ls (fun s l => s.endLane t l) = s.putAll (s.endWrites t ls) := by
  induction ls generalizing s with
  | nil => rfl
  | cons l r ih =>
    refine (ih (s.endLane t l)).trans ?_
    unfold State.endLane State.endWrites
    by_cases hl : l.active = true
    · rw [if_pos hl, List.filter_cons_of_pos hl, List.map_cons]
      rfl
    · rw [if_neg hl, List.filter_cons_of_neg hl]

/-- The core with its group freed, its firings on their way (R76). -/
def Core.freed (c : Core) : Core :=
  { c with
    lanes := [], pos := c.pos + c.lanes.length
    fired := c.fired ++ firingOf c.slot c.lanes, firing := c.firing ++ firingOf c.slot c.lanes }

/-- The group is written back and freed. -/
def State.groupFreed (s : State) (n : Nat) : State :=
  (s.putAll (s.endWrites (s.slotAt n (s.cor n).slot) (s.cor n).lanes)).setCor n (s.cor n).freed
/-- Phase 3 runs from the first firing on (R32, R228). -/
def State.firingsShown (s : State) (n : Nat) : State :=
  if firingOf (s.cor n).slot (s.cor n).lanes = [] then s.groupFreed n else (s.groupFreed n).rsetBit (Reg.coreRteStatus n) 0 true
/-- The lanes whose count exceeded the cap are counted (R77). -/
def State.excCounted (s : State) (n : Nat) : State :=
  (s.firingsShown n).longSat (Reg.coreNrnExcLo n (s.cor n).slot) ((s.cor n).lanes.countP (fun l => l.active && l.exc))
/-- The firings are counted. -/
def State.spkCounted (s : State) (n : Nat) : State :=
  (s.excCounted n).longSat (Reg.coreNrnSpkLo n (s.cor n).slot) (firingOf (s.cor n).slot (s.cor n).lanes).length

theorem State.endGroup_eq (s : State) (n : Nat) : s.endGroup n = (s.spkCounted n).phase2End n := by
  unfold State.endGroup
  dsimp only
  rw [State.forAll_endLane]
  rfl

section
variable (s : State) (n : Nat)

theorem State.groupFreed_mem :
    (s.groupFreed n).mem = (s.putAll (s.endWrites (s.slotAt n (s.cor n).slot) (s.cor n).lanes)).mem := rfl

theorem State.groupFreed_core : (s.groupFreed n).core = (s.setCor n (s.cor n).freed).core := by
  have hcore := (s.putAll_Only (s.endWrites (s.slotAt n (s.cor n).slot) (s.cor n).lanes)).same .core (by decide)
  simp only [State.groupFreed, State.setCor, show (s.putAll _).core = s.core from hcore]

theorem State.groupFreed_FileOnly (l : List Nat) : FileOnly l s (s.groupFreed n) :=
  .of_reg ((s.putAll_Only _).same .reg (by decide))

theorem State.firingsShown_FileOnly : FileOnly [Reg.coreRteStatus n] s (s.firingsShown n) :=
  (s.groupFreed_FileOnly n _).trans (.ite (fun _ => .refl _ _) fun _ => .rsetBit _ 0 true (by simp))

theorem State.excCounted_FileOnly : FileOnly [Reg.coreNrnExcLo n (s.cor n).slot, Reg.coreRteStatus n] s (s.excCounted n) :=
  ((s.firingsShown_FileOnly n).mono (by simp)).trans (.longSat _ _ (by simp))

theorem State.spkCounted_FileOnly :
    FileOnly [Reg.coreNrnExcLo n (s.cor n).slot, Reg.coreNrnSpkLo n (s.cor n).slot, Reg.coreRteStatus n] s (s.spkCounted n) :=
  ((s.excCounted_FileOnly n).mono (by simp)).trans (.longSat _ _ (by simp))

/-- After the group was freed only registers change. -/
theorem State.spkCounted_regOnly : OnlyChanges [.reg] (s.groupFreed n) (s.spkCounted n) := by
  have hshown : OnlyChanges [.reg] (s.groupFreed n) (s.firingsShown n) := by
    unfold State.firingsShown
    split
    · exact .refl _ _
    · exact State.rsetBit_Only _ _ _ _ (by decide) (.refl _ _)
  exact State.longSat_Only _ _ _ (by decide) (State.longSat_Only _ _ _ (by decide) hshown)

theorem State.spkCounted_core : (s.spkCounted n).core = (s.setCor n (s.cor n).freed).core :=
  ((s.spkCounted_regOnly n).same .core (by decide)).trans (s.groupFreed_core n)

theorem State.spkCounted_ctxs : (s.spkCounted n).cmd.ctxs = s.cmd.ctxs := by
  have hcounted : (s.spkCounted n).cmd = (s.groupFreed n).cmd := (s.spkCounted_regOnly n).same .cmd (by decide)
  have hwritten : (s.groupFreed n).cmd = s.cmd :=
    (s.putAll_Only (s.endWrites (s.slotAt n (s.cor n).slot) (s.cor n).lanes)).same .cmd (by decide)
  rw [hcounted, hwritten]

theorem State.endGroup_mem :
    (s.endGroup n).mem = (s.putAll (s.endWrites (s.slotAt n (s.cor n).slot) (s.cor n).lanes)).mem := by
  rw [State.endGroup_eq]
  exact (((s.spkCounted n).phase2End_coreReg n).same .mem (by decide)).trans
    (((s.spkCounted_regOnly n).same .mem (by decide)).trans (s.groupFreed_mem n))

end

section
variable {s : State} (hcanon : Canon s) {n : Nat}
include hcanon

theorem State.spkCounted_cor_same : (s.spkCounted n).cor n = (s.cor n).freed := by
  rw [State.cor, State.spkCounted_core]
  exact State.cor_setCor_same (Canon_cores hcanon) n _

theorem State.spkCounted_cor_other {m : Nat} (hm : m ≠ n) : (s.spkCounted n).cor m = s.cor m := by
  rw [State.cor, State.spkCounted_core]
  exact State.cor_setCor_other (Canon_cores hcanon) _ hm

theorem State.spkCounted_cores_wf : Tab.wf (fun _ => Core.empty) (s.spkCounted n).core.cores := by
  rw [State.spkCounted_core]
  exact Tab.wf_set (Canon_cores hcanon) n _

/-- The group was the last of phase 2 where the core is in phase 2 and, past the group, none is left. -/
theorem State.spkCounted_over : (s.spkCounted n).phase2Over n ↔ (s.cor n).phase = .neuron ∧
    (s.setCor n { s.cor n with lanes := [], pos := (s.cor n).pos + (s.cor n).lanes.length }).nextGroup n = none := by
  have hcores := Canon_cores hcanon
  have hnext : (s.spkCounted n).nextGroup n =
      (s.setCor n { s.cor n with lanes := [], pos := (s.cor n).pos + (s.cor n).lanes.length }).nextGroup n := by
    refine State.nextGroup_congr (s.spkCounted_ctxs n) (by rw [State.spkCounted_core]; rfl) ?_ ?_ ?_ <;>
      rw [State.spkCounted_cor_same hcanon, State.cor_setCor_same hcores] <;> rfl
  rw [State.phase2Over, hnext, State.spkCounted_cor_same hcanon]
  exact ⟨fun ⟨hp, _, hn⟩ => ⟨hp, hn⟩, fun ⟨hp, hn⟩ => ⟨hp, rfl, hn⟩⟩

/-- END leaves the registers but its two counts and the activity of phase 3 and of the learning pass. -/
theorem State.endGroup_OnlyRegs : OnlyRegs [Reg.coreNrnExcLo n (s.cor n).slot, Reg.coreNrnSpkLo n (s.cor n).slot, Reg.coreRteStatus n,
    Reg.coreLrnStatus n] s (s.endGroup n) := by
  rw [State.endGroup_eq]
  exact (((s.spkCounted_FileOnly n).mono (by simp)).trans (((s.spkCounted n).phase2End_FileOnly n).mono (by simp))).onlyRegs
    (Canon_vals hcanon) (Canon_live hcanon)

/-- The lanes that exceeded the cap and the firings, as the 48-bit counts show them (R77, R87). -/
theorem State.endGroup_counts (hslot : (s.cor n).slot < 64) :
    (s.endGroup n).longGet (Reg.coreNrnExcLo n (s.cor n).slot) = min (s.longGet (Reg.coreNrnExcLo n (s.cor n).slot) +
      (s.cor n).lanes.countP (fun l => l.active && l.exc)) (2 ^ 48 - 1) ∧
    (s.endGroup n).longGet (Reg.coreNrnSpkLo n (s.cor n).slot) = min (s.longGet (Reg.coreNrnSpkLo n (s.cor n).slot) +
      (firingOf (s.cor n).slot (s.cor n).lanes).length) (2 ^ 48 - 1) := by
  obtain ⟨hr0, hl0⟩ := FileOnly.wf (FileOnly.refl [] s) hcanon
  obtain ⟨hr1, hl1⟩ := (s.firingsShown_FileOnly n).wf hcanon
  obtain ⟨hr2, hl2⟩ := (s.excCounted_FileOnly n).wf hcanon
  obtain ⟨hr3, hl3⟩ := (s.spkCounted_FileOnly n).wf hcanon
  have hspk : FileOnly [Reg.coreNrnSpkLo n (s.cor n).slot] (s.excCounted n) (s.spkCounted n) := .longSat _ _ (by simp)
  have hlast := ((s.spkCounted n).phase2End_FileOnly n).onlyRegs hr3 hl3
  rw [State.endGroup_eq]
  constructor
  · rw [(hlast _ (by simp only [List.mem_cons, List.not_mem_nil, or_false, Reg.coreNrnExcLo, Reg.coreRteStatus, Reg.coreLrnStatus]; omega)).2,
      (hspk.onlyRegs hr2 hl2 _ (by simp only [List.mem_cons, List.not_mem_nil, or_false, Reg.coreNrnExcLo, Reg.coreNrnSpkLo]; omega)).2]
    refine (State.longGet_longSat_same hr1 hl1 _ _).trans ?_
    rw [((s.firingsShown_FileOnly n).onlyRegs hr0 hl0 _
      (by simp only [List.mem_cons, List.not_mem_nil, or_false, Reg.coreNrnExcLo, Reg.coreRteStatus]; omega)).2]
  · rw [(hlast _ (by simp only [List.mem_cons, List.not_mem_nil, or_false, Reg.coreNrnSpkLo, Reg.coreRteStatus, Reg.coreLrnStatus]; omega)).2]
    refine (State.longGet_longSat_same hr2 hl2 _ _).trans ?_
    rw [((s.excCounted_FileOnly n).onlyRegs hr0 hl0 _
      (by simp only [List.mem_cons, List.not_mem_nil, or_false, Reg.coreNrnExcLo, Reg.coreNrnSpkLo, Reg.coreRteStatus]; omega)).2]

/-- Phase 3 and the learning pass after END. -/
theorem State.endGroup_shown (hslot : (s.cor n).slot < 64) : PhaseShown n (s.cor n).frozen s
    ((s.cor n).phase = .neuron ∧
      (s.setCor n { s.cor n with lanes := [], pos := (s.cor n).pos + (s.cor n).lanes.length }).nextGroup n = none)
    (!(firingOf (s.cor n).slot (s.cor n).lanes).isEmpty) (s.endGroup n) := by
  have hvals := Canon_vals hcanon
  have hfile := s.spkCounted_FileOnly n
  have hfreed := (s.groupFreed_FileOnly n []).regs
  have hrte : (s.spkCounted n).rget (Reg.coreRteStatus n) = (s.firingsShown n).rget (Reg.coreRteStatus n) := by
    have hcounts : FileOnly [Reg.coreNrnExcLo n (s.cor n).slot, Reg.coreNrnSpkLo n (s.cor n).slot] (s.firingsShown n) (s.spkCounted n) :=
      .trans (t := s.excCounted n) (.longSat _ _ (by simp)) (.longSat _ _ (by simp))
    exact hcounts.regs.get ((s.firingsShown_FileOnly n).wf hcanon).1
      (by simp only [List.mem_cons, List.not_mem_nil, or_false, Reg.coreNrnExcLo, Reg.coreNrnSpkLo, Reg.coreRteStatus]; omega)
  have hlrn : (s.spkCounted n).rget (Reg.coreLrnStatus n) = s.rget (Reg.coreLrnStatus n) := hfile.regs.get hvals
    (by simp only [List.mem_cons, List.not_mem_nil, or_false, Reg.coreNrnExcLo, Reg.coreNrnSpkLo, Reg.coreRteStatus, Reg.coreLrnStatus]; omega)
  rw [State.endGroup_eq]
  refine State.phase2End_shown (c := (s.cor n).freed) (State.spkCounted_cor_same hcanon) (State.spkCounted_over hcanon) (hfile.wf hcanon).1
    hlrn ?_ ?_ <;> simp only [State.rbit, hrte, State.firingsShown]
  · cases hf : firingOf (s.cor n).slot (s.cor n).lanes with
    | nil =>
      rw [if_pos rfl, hfreed.get hvals List.not_mem_nil, List.isEmpty_nil, Bool.not_true, Bool.or_false]
    | cons x r =>
      rw [if_neg (List.cons_ne_nil x r), List.isEmpty_cons, Bool.not_false, Bool.or_true]
      exact State.rbit_rsetBit_same (hfreed.wf hvals) _ true (by decide)
  · intro hnone
    rw [if_pos (by simpa using hnone), hfreed.get hvals List.not_mem_nil]

end

end Sys2Proof.Machine
end

section
namespace Sys2Proof.Machine

/-! ## PHASE2_START (R113, R115, R216) -/

theorem State.setCor_cor {s : State} (hw : Tab.wf (fun _ => Core.empty) s.core.cores) (n : Nat) : s.setCor n (s.cor n) = s := by
  have h := Tab.set_get hw n
  unfold State.setCor State.cor
  rw [h]

/-- From an empty inbox nothing is discarded. -/
theorem State.binInbox_empty {s : State} (hw : Tab.wf (fun _ => Core.empty) s.core.cores) {n : Nat} (h : (s.cor n).inbox = []) :
    s.binInbox n = s := by
  have hsame : ({ s.cor n with inbox := [] } : Core) = s.cor n := by rw [← h]
  unfold State.binInbox
  dsimp only
  rw [h, List.filterMap_nil, List.filter_nil, hsame]
  exact State.setCor_cor hw n

/-- A berth whose LAST step is over is SPENT (R115). -/
def Berth.spent (x : Berth) (t : Nat) : Berth := if x.state = 2 ∧ x.last.toNat ≤ t then { x with state := 3 } else x
/-- The core in which integration of step `t` has ended. -/
def Core.integrated (c : Core) (t : Nat) : Core :=
  { c with phase := .neuron, slot := 0, pos := 0, berth0 := c.berth0.spent t, berth1 := c.berth1.spent t, spilled := [] }
/-- Integration has ended on the core, before it is seen whether phase 2 has anything to run. -/
def State.integrated (s : State) (n t : Nat) : State := (s.setCor n ((s.cor n).integrated t)).rsetBit (Reg.coreSynStatus n) 0 false

section
variable {s : State} (hcanon : Canon s) {n : Nat}
include hcanon

theorem State.phase2Start_eq (hp : (s.cor n).phase = .integrate) (hd : n ∉ s.rtr.draining) (hi : (s.cor n).inbox = [])
    (hwin : (s.cor n).windows = []) (hwait : s.phase1Waits n = false) :
    s.phase2Start n = (s.integrated n (s.bnd (s.cor n).binding.toNat).step.toNat).phase2End n := by
  unfold State.phase2Start
  dsimp only
  rw [State.binInbox_empty (Canon_cores hcanon) hi, ite_self]
  exact if_neg (by simp [hp, hd, hi, hwin, hwait])

theorem State.integrated_cor_same (t : Nat) : (s.integrated n t).cor n = (s.cor n).integrated t :=
  State.cor_setCor_same (Canon_cores hcanon) n _

theorem State.integrated_cor_other (t : Nat) {m : Nat} (hm : m ≠ n) : (s.integrated n t).cor m = s.cor m :=
  State.cor_setCor_other (Canon_cores hcanon) _ hm

/-- Nothing is left of phase 2 where no group runs and none is found, whatever the phase of the core. -/
theorem State.integrated_over (t : Nat) : (s.integrated n t).phase2Over n ↔ (s.cor n).lanes = [] ∧
    (s.setCor n { (s.cor n).integrated t with phase := (s.cor n).phase }).nextGroup n = none := by
  have hcores := Canon_cores hcanon
  have hnext : (s.integrated n t).nextGroup n = (s.setCor n { (s.cor n).integrated t with phase := (s.cor n).phase }).nextGroup n := by
    refine State.nextGroup_congr rfl rfl ?_ ?_ ?_ <;> rw [State.integrated_cor_same hcanon, State.cor_setCor_same hcores]
  rw [State.phase2Over, hnext, State.integrated_cor_same hcanon]
  exact ⟨fun ⟨_, hl, hn⟩ => ⟨hl, hn⟩, fun ⟨hl, hn⟩ => ⟨rfl, hl, hn⟩⟩

end

theorem State.integrated_FileOnly (s : State) (n t : Nat) : FileOnly [Reg.coreSynStatus n] s (s.integrated n t) :=
  .trans (t := s.setCor n _) (.of_reg rfl) (.rsetBit _ 0 false (by simp))

theorem State.integrated_Only (s : State) (n t : Nat) : OnlyChanges [.core, .reg] s (s.integrated n t) :=
  State.rsetBit_Only _ _ _ _ (by decide) (State.setCor_Only _ _ (by decide) (.refl _ s))

/-- PHASE2_START leaves the registers but the activity of the three phases. -/
theorem State.integrated_OnlyRegs {s : State} (hcanon : Canon s) (n t : Nat) :
    OnlyRegs [Reg.coreSynStatus n, Reg.coreRteStatus n, Reg.coreLrnStatus n] s ((s.integrated n t).phase2End n) :=
  (((s.integrated_FileOnly n t).mono (by simp)).trans (((s.integrated n t).phase2End_FileOnly n).mono (by simp))).onlyRegs
    (Canon_vals hcanon) (Canon_live hcanon)

/-- Phase 1 is no longer active. -/
theorem State.integrated_inactive {s : State} (hcanon : Canon s) (n t : Nat) :
    ((s.integrated n t).phase2End n).rbit (Reg.coreSynStatus n) 0 = false := by
  have hkept := ((s.integrated n t).phase2End_FileOnly n).regs.get ((s.integrated_FileOnly n t).wf hcanon).1 (a := Reg.coreSynStatus n)
    (by simp only [List.mem_cons, List.not_mem_nil, or_false, Reg.coreSynStatus, Reg.coreRteStatus, Reg.coreLrnStatus]; omega)
  rw [State.rbit, hkept]
  exact State.rbit_rsetBit_same (s := s.setCor n _) (Canon_vals (s := s) hcanon) _ false (by decide)

/-- Phase 3 and the learning pass after PHASE2_START: nothing has fired yet. -/
theorem State.integrated_shown {s : State} (hcanon : Canon s) (n t : Nat) : PhaseShown n (s.cor n).frozen s ((s.cor n).lanes = [] ∧
    (s.setCor n { (s.cor n).integrated t with phase := (s.cor n).phase }).nextGroup n = none) false ((s.integrated n t).phase2End n) := by
  have hfile := s.integrated_FileOnly n t
  have hrte := hfile.regs.get (Canon_vals hcanon) (a := Reg.coreRteStatus n)
    (by simp only [List.mem_cons, List.not_mem_nil, or_false, Reg.coreSynStatus, Reg.coreRteStatus]; omega)
  have hlrn := hfile.regs.get (Canon_vals hcanon) (a := Reg.coreLrnStatus n)
    (by simp only [List.mem_cons, List.not_mem_nil, or_false, Reg.coreSynStatus, Reg.coreLrnStatus]; omega)
  exact State.phase2End_shown (c := (s.cor n).integrated t) (State.integrated_cor_same hcanon t) (State.integrated_over hcanon t)
    (hfile.wf hcanon).1 hlrn (by rw [State.rbit, hrte, Bool.or_false]; rfl) fun _ => hrte

/-- Settles O27: END in stages (`endGroup_eq`), PHASE2_START as the end of integration (`phase2Start_eq`), and what both do where phase 2
is over (`phase2End_shown`). -/
theorem groupAndPhaseEnd : Obligations.GroupAndPhaseEnd := by
  intro s core n c sl rec' at' inside fs next exc spk t rte lrn ends spent hcanon ha hn
  have hcores := Canon_cores hcanon
  have hmem := Canon_mem hcanon
  constructor
  · refine To_of_live (f := fun s => s.endGroup n) ha rfl
      (State.endGroup_Only s n (by decide) (by decide) (by decide) (.refl _ s)) ⟨?_, ?_, ?_, ?_, ?_, ?_, ?_⟩
    · rw [State.endGroup_eq]
      exact State.phase2End_cor_same (State.spkCounted_cor_same hcanon) (State.spkCounted_over hcanon) (State.spkCounted_cores_wf hcanon)
    · intro m hm
      rw [State.endGroup_eq, State.phase2End_cor_other (State.spkCounted_cores_wf hcanon) hm, State.spkCounted_cor_other hcanon hm]
    · exact State.endGroup_OnlyRegs hcanon
    · exact State.endGroup_shown hcanon
    · intro hslot
      rw [← List.countP_eq_length_filter]
      exact State.endGroup_counts hcanon hslot
    · intro l hl hact halone
      rw [State.bytes_congr (s.endGroup_mem n)]
      refine State.putAll_inside hmem (w := s.endWrite sl l) (State.mem_endWrites.mpr ⟨l, hl, hact, rfl⟩) fun v hv hne a => ?_
      obtain ⟨k, hk, hkact, rfl⟩ := State.mem_endWrites.mp hv
      exact halone k hk hkact (fun e => hne (e ▸ rfl)) a
    · intro a hout
      have hbyte : (s.endGroup n).byteAt a = (s.putAll (s.endWrites sl c.lanes)).byteAt a := by
        rw [State.byteAt, s.endGroup_mem n]
        rfl
      refine hbyte.trans (State.putAll_outside hmem fun w hw => ?_)
      obtain ⟨l, hl, hact, rfl⟩ := State.mem_endWrites.mp hw
      exact hout l hl hact
  · intro hphase hdrain hinbox hwindows hwait
    have hstart := State.phase2Start_eq hcanon hphase hdrain hinbox hwindows hwait
    refine To_of_live (f := fun s => s.phase2Start n) ha rfl ?_ ?_ <;> rw [hstart]
    · exact (s.integrated_Only n t).trans (State.phase2End_coreReg _ n)
    · refine ⟨?_, ?_, State.integrated_inactive hcanon n t, State.integrated_shown hcanon n t, State.integrated_OnlyRegs hcanon n t⟩
      · exact State.phase2End_cor_same (State.integrated_cor_same hcanon t) (State.integrated_over hcanon t) (Tab.wf_set hcores n _)
      · intro m hm
        rw [State.phase2End_cor_other (Tab.wf_set hcores n _) hm, State.integrated_cor_other hcanon t hm]

end Sys2Proof.Machine
end

section
namespace Sys2Proof.Machine

/-! ## Long counts that wrap, and the registers of an interrupt (R50, R494, R503) -/

theorem State.longGet_longSet_same {s : State} (hr : Tab.wf regReset s.reg.vals) (hl : Tab.wf (fun _ => (0 : Word)) s.reg.live)
    (lo : Nat) {n : Nat} (hn : n < 2 ^ 64) : (s.longSet lo n).longGet lo = n := by
  have hlow : (s.longSet lo n).rget lo = BitVec.ofNat 32 n := State.rget_rset_same hr lo _
  have hhigh : Tab.get (fun _ => (0 : Word)) (s.longSet lo n).reg.live lo = BitVec.ofNat 32 (n / 2 ^ 32) := Tab.get_set_same hl lo _
  rw [State.longGet, hlow, hhigh, BitVec.toNat_ofNat, BitVec.toNat_ofNat, Nat.mod_eq_of_lt (a := n / 2 ^ 32) (by omega)]
  exact Nat.mod_add_div n (2 ^ 32)

/-- A 48-bit count that does not reach its end. -/
theorem State.longWrap_fits {s : State} {lo n : Nat} (h : s.longGet lo + n < 2 ^ 48) :
    s.longWrap lo n = (s.longSet lo (s.longGet lo + n), false) := by
  rw [State.longWrap, Nat.mod_eq_of_lt h, decide_eq_false (Nat.not_le.mpr h)]

theorem FileOnly.longSet {l : List Nat} (s : State) {k : Nat} (n : Nat) (hk : k ∈ l) : FileOnly l s (s.longSet k n) :=
  (rset s _ hk).trans (setLive _ _ hk)

/-- A raise touches the count of merged interrupts and the last merged one. -/
theorem State.raise_FileOnly (s : State) (n : Nat) : FileOnly [Reg.irqMerged, Reg.irqLastm] s (s.raise n) := by
  unfold State.raise
  refine .ite (fun _ => .refl _ s) fun _ => .ite (fun _ => ?_) fun _ => .ite (fun _ => ?_) fun _ => .of_reg rfl
  · exact (FileOnly.rset s _ (by simp)).trans (.rset _ _ (by simp))
  · exact .of_reg ((State.notice_Only (L := [.eth, .out]) _ _ _ (by decide) (by decide) (.refl _ _)).same .reg (by decide))

theorem State.raiseCore_raw (s : State) (n : Nat) : (s.raiseCore n).irq.raw.getLsbD (25 + s.physCore n) = true := by
  have hlt := s.physCore_lt n
  exact State.raise_raw _ (irqAssigned_core hlt) (by omega)

theorem State.physCore_congr {s t : State} {n : Nat} (h : t.rget (Reg.budLmapCore n) = s.rget (Reg.budLmapCore n)) :
    t.physCore n = s.physCore n := by
  rw [State.physCore, State.rfield, h]
  rfl

theorem State.raise_core (s : State) (n : Nat) : (s.raise n).core = s.core :=
  (State.raise_Only (L := [.reg, .eth, .irq, .out]) s n (by decide) (by decide) (by decide) (by decide) (.refl _ s)).same .core (by decide)

end Sys2Proof.Machine
end

section
namespace Sys2Proof.Machine

/-! ## Ascending lists of numbers -/

theorem mem_insertNat_iff {x y : Nat} {l : List Nat} : y ∈ insertNat x l ↔ y = x ∨ y ∈ l := by
  induction l with
  | nil => simp [insertNat]
  | cons z r ih =>
    unfold insertNat
    split
    · exact List.mem_cons
    · split
      · subst z
        simp
      · rw [List.mem_cons, ih, List.mem_cons]
        tauto

theorem pairwise_insertNat {x : Nat} {l : List Nat} (h : l.Pairwise (· < ·)) : (insertNat x l).Pairwise (· < ·) := by
  induction l with
  | nil => simp [insertNat]
  | cons z r ih =>
    obtain ⟨hz, hr⟩ := List.pairwise_cons.mp h
    unfold insertNat
    split
    next hlt =>
      refine List.pairwise_cons.mpr ⟨fun y hy => ?_, h⟩
      rcases List.mem_cons.mp hy with rfl | hy
      · exact hlt
      · exact hlt.trans (hz y hy)
    next hlt =>
      split
      · exact h
      · refine List.pairwise_cons.mpr ⟨fun y hy => ?_, ih hr⟩
        rcases mem_insertNat_iff.mp hy with rfl | hy
        · omega
        · exact hz y hy

/-- The members of a list in ascending order, each once. -/
abbrev ascending (l : List Nat) : List Nat := l.foldr insertNat []

theorem mem_ascending {y : Nat} {l : List Nat} : y ∈ ascending l ↔ y ∈ l := by
  induction l with
  | nil => exact Iff.rfl
  | cons x r ih => rw [ascending, List.foldr_cons, mem_insertNat_iff, List.mem_cons, ← ih]

theorem pairwise_ascending (l : List Nat) : (ascending l).Pairwise (· < ·) := by
  induction l with
  | nil => exact .nil
  | cons x r ih => exact pairwise_insertNat ih

/-- What an ascending list holds past its first `k` members is above each of these. -/
theorem lt_of_mem_take_of_not_mem {l : List Nat} (h : l.Pairwise (· < ·)) {k x y : Nat} (hy : y ∈ l.take k) (hx : x ∈ l)
    (hnot : x ∉ l.take k) : y < x := by
  rw [← List.take_append_drop k l] at h hx
  exact (List.pairwise_append.mp h).2.2 y hy x ((List.mem_append.mp hx).resolve_left hnot)

/-! ## Additions in issue order (R101, R107) -/

/-- The place of an addition in the order of matrix, row and context index. -/
def Addn.place (a : Addn) : Nat := (a.matrix.toNat * 65536 + a.row.toNat) * 2 ^ 18 + a.cidx

/-- The addition of one event. -/
def Ev.addn (e : Ev) : Addn := ⟨e.matrix, e.row, e.cidx, e.cnt.toNat⟩

/-- The place tells matrix, row and context index. -/
theorem Addn.eq_of_place {a b : Addn} (ha : a.cidx < 2 ^ 18) (hb : b.cidx < 2 ^ 18) (h : a.place = b.place) :
    a.matrix = b.matrix ∧ a.row = b.row ∧ a.cidx = b.cidx := by
  have hra := a.row.isLt
  have hrb := b.row.isLt
  unfold Addn.place at h
  refine ⟨BitVec.eq_of_toNat_eq ?_, BitVec.eq_of_toNat_eq ?_, ?_⟩ <;> omega

/-- An event enters a list of additions before a later one, into one of its own place, or behind an earlier one. -/
theorem mergeAddn_cons (e : Ev) (a : Addn) (r : List Addn) : mergeAddn e (a :: r) =
    if e.addn.place < a.place then e.addn :: a :: r
    else if e.addn.place = a.place then { a with count := a.count + e.cnt.toNat } :: r
    else a :: mergeAddn e r := rfl

theorem mem_places_mergeAddn {e : Ev} {l : List Addn} {k : Nat} :
    k ∈ (mergeAddn e l).map Addn.place ↔ k = e.addn.place ∨ k ∈ l.map Addn.place := by
  induction l with
  | nil => exact List.mem_cons
  | cons a r ih =>
    rw [mergeAddn_cons]
    split
    · exact List.mem_cons
    · split
      next heq =>
        rw [heq, List.map_cons, List.map_cons, List.mem_cons, List.mem_cons]
        exact or_self_left.symm
      · rw [List.map_cons, List.mem_cons, ih, List.map_cons, List.mem_cons, or_left_comm]

theorem pairwise_mergeAddn {e : Ev} {l : List Addn} (h : (l.map Addn.place).Pairwise (· < ·)) :
    ((mergeAddn e l).map Addn.place).Pairwise (· < ·) := by
  induction l with
  | nil => exact List.pairwise_singleton _ _
  | cons a r ih =>
    obtain ⟨ha, hr⟩ := List.pairwise_cons.mp h
    rw [mergeAddn_cons]
    split
    next hlt =>
      refine List.pairwise_cons.mpr ⟨fun k hk => ?_, h⟩
      rcases List.mem_cons.mp hk with rfl | hk
      · exact hlt
      · exact hlt.trans (ha k hk)
    next hlt =>
      split
      · exact h
      · refine List.pairwise_cons.mpr ⟨fun k hk => ?_, ih hr⟩
        rcases mem_places_mergeAddn.mp hk with rfl | hk
        · omega
        · exact ha k hk

theorem mergeAddn_cidx_lt {e : Ev} {l : List Addn} {b : Nat} (he : e.cidx < b) (hl : ∀ a ∈ l, a.cidx < b) :
    ∀ a ∈ mergeAddn e l, a.cidx < b := by
  induction l with
  | nil => exact List.forall_mem_cons.mpr ⟨he, hl⟩
  | cons a r ih =>
    obtain ⟨ha, hr⟩ := List.forall_mem_cons.mp hl
    rw [mergeAddn_cons]
    split
    · exact List.forall_mem_cons.mpr ⟨he, hl⟩
    · split
      · exact List.forall_mem_cons.mpr ⟨ha, hr⟩
      · exact List.forall_mem_cons.mpr ⟨ha, ih hr⟩

/-- Whether an addition is of a matrix, a row and a context index. -/
def Addn.isOf (m : BitVec 8) (r : BitVec 16) (k : Nat) (a : Addn) : Bool := a.matrix = m && a.row = r && a.cidx = k
/-- The sum of the counts of such additions. -/
def countOf (m : BitVec 8) (r : BitVec 16) (k : Nat) (l : List Addn) : Nat := ((l.filter (Addn.isOf m r k)).map (·.count)).sum

section
variable (m : BitVec 8) (r : BitVec 16) (k : Nat)

theorem countOf_cons (a : Addn) (l : List Addn) : countOf m r k (a :: l) = (if a.isOf m r k then a.count else 0) + countOf m r k l := by
  unfold countOf
  rw [List.filter_cons]
  split
  · rfl
  · exact (Nat.zero_add _).symm

theorem countOf_perm {l t : List Addn} (h : l.Perm t) : countOf m r k l = countOf m r k t := ((h.filter _).map _).sum_eq

/-- Merging keeps the counts (R101). -/
theorem countOf_mergeAddn {e : Ev} {l : List Addn} (he : e.cidx < 2 ^ 18) (hl : ∀ a ∈ l, a.cidx < 2 ^ 18) :
    countOf m r k (mergeAddn e l) = countOf m r k (e.addn :: l) := by
  induction l with
  | nil => rfl
  | cons a t ih =>
    obtain ⟨ha, ht⟩ := List.forall_mem_cons.mp hl
    rw [mergeAddn_cons]
    split
    · rfl
    · split
      next heq =>
        obtain ⟨hm, hr, hc⟩ := Addn.eq_of_place (a := e.addn) he ha heq
        have hof : e.addn.isOf m r k = a.isOf m r k := by simp only [Addn.isOf, hm, hr, hc]
        have hkept : ({ a with count := a.count + e.cnt.toNat } : Addn).isOf m r k = a.isOf m r k := rfl
        have hcount : e.addn.count = e.cnt.toNat := rfl
        rw [countOf_cons, countOf_cons, countOf_cons, hof, hkept, hcount]
        dsimp only
        split <;> omega
      · rw [countOf_cons, ih ht, countOf_cons, countOf_cons, countOf_cons, Nat.add_left_comm]

/-- The additions of a list of events, merged. -/
abbrev mergedAddns (es : List Ev) : List Addn := es.foldr mergeAddn []

theorem mergedAddns_cidx_lt {es : List Ev} {b : Nat} (h : ∀ e ∈ es, e.cidx < b) : ∀ a ∈ mergedAddns es, a.cidx < b := by
  induction es with
  | nil => exact fun a ha => absurd ha List.not_mem_nil
  | cons e t ih =>
    obtain ⟨he, ht⟩ := List.forall_mem_cons.mp h
    exact mergeAddn_cidx_lt he (ih ht)

theorem pairwise_mergedAddns (es : List Ev) : ((mergedAddns es).map Addn.place).Pairwise (· < ·) := by
  induction es with
  | nil => exact .nil
  | cons e t ih => exact pairwise_mergeAddn ih

/-- The merged additions count what the events count (R101). -/
theorem countOf_mergedAddns {es : List Ev} (h : ∀ e ∈ es, e.cidx < 2 ^ 18) :
    countOf m r k (mergedAddns es) = countOf m r k (es.map Ev.addn) := by
  induction es with
  | nil => rfl
  | cons e t ih =>
    obtain ⟨he, ht⟩ := List.forall_mem_cons.mp h
    rw [mergedAddns, List.foldr_cons, countOf_mergeAddn m r k he (mergedAddns_cidx_lt ht), countOf_cons, ih ht, ← countOf_cons, List.map_cons]

end

theorem flatten_groupRows (l : List Addn) : (groupRows l).flatten = l := by
  induction l with
  | nil => rfl
  | cons a r ih =>
    rw [groupRows]
    split
    next b g gs hg =>
      rw [hg] at ih
      split
      · exact congrArg (a :: ·) ih
      · exact congrArg (a :: ·) ih
    · exact congrArg (a :: ·) ih

/-- Every window issues each of its additions once. -/
theorem issueOrder_perm (w : Nat) (l : List Addn) : (issueOrder w l).Perm l := by
  unfold issueOrder
  split
  · exact .refl l
  · exact (List.reverse_perm (groupRows l)).flatten.trans (.of_eq (flatten_groupRows l))

theorem issueOrder_even {w : Nat} (h : w % 2 = 0) (l : List Addn) : issueOrder w l = l := if_pos h

end Sys2Proof.Machine
end

section
namespace Sys2Proof.Machine

/-! ## WINDOW_SORT (R103, R107, R111) -/

/-- Phase 1 that waits for nothing begins. -/
theorem State.phase1Try_begins {s : State} {n : Nat} (hp : (s.cor n).phase = .integrate) (hw : s.phase1Waits n = false) :
    s.phase1Try n = s.rsetBit (Reg.coreSynStatus n) 0 true := if_pos (by simp [hp, hw])

/-- Where no event is discarded the inbox stays as it is. -/
theorem State.binInbox_kept {s : State} (hcores : Tab.wf (fun _ => Core.empty) s.core.cores) {n : Nat}
    (h : ∀ e ∈ (s.cor n).inbox, s.dropReason n e = none) : s.binInbox n = s := by
  have hbad : (s.cor n).inbox.filterMap (fun e => (s.dropReason n e).map (fun w => (e, w))) = [] :=
    List.filterMap_eq_nil_iff.mpr fun e he => by rw [h e he, Option.map_none]
  have hgood : (s.cor n).inbox.filter (fun e => (s.dropReason n e).isNone) = (s.cor n).inbox :=
    List.filter_eq_self.mpr fun e he => by rw [h e he, Option.isNone_none]
  unfold State.binInbox
  dsimp only
  rw [hbad, hgood]
  exact State.setCor_cor hcores n

/-- The only event of an inbox is discarded. -/
theorem State.binInbox_dropped {s : State} {n : Nat} {e : Ev} {why : Nat} (hi : (s.cor n).inbox = [e]) (hd : s.dropReason n e = some why) :
    s.binInbox n = (s.setCor n { s.cor n with inbox := [] }).dropEvent n e why := by
  unfold State.binInbox
  dsimp only
  rw [hi, List.filterMap_cons, hd, List.filter_cons, hd]
  rfl

/-! ### The window that leaves the inbox -/

section
variable (s : State) (n t : Nat)

/-- The tile an event of core `n` is for. -/
def State.evTile (e : Ev) : Nat := (s.mat n e.matrix.toNat).tslot
/-- The tiles that the inbox holds events for. -/
def State.inboxTiles : List Nat := ascending ((s.cor n).inbox.map (s.evTile n))
/-- The columns of tile `t`: those of its first matrix. -/
def State.tileCols : Nat := ((s.tileMats n t).map (fun m => (s.mat n m).ncol)).headD 0
/-- The context slots of tile `t` (R103). -/
def State.slotsOfTile : Nat := tileSlots (s.tileCols n t)
/-- The events of tile `t` in the inbox. -/
def State.tileEvents : List Ev := (s.cor n).inbox.filter (fun e => s.evTile n e = t)
/-- The context indices of the tile's next window: the lowest (R103). -/
def State.windowCtxs : List Nat := (ascending ((s.tileEvents n t).map (·.cidx))).take (s.slotsOfTile n t)
/-- The number of the tile's next window (R107). -/
def State.windowNo : Nat := if t = (s.cor n).slot then (s.cor n).pos else 0
/-- The events that the window takes. -/
def State.windowEvents : List Ev := (s.tileEvents n t).filter (fun e => (s.windowCtxs n t).contains e.cidx)
/-- The tile's next window. -/
def State.nextWindow : Window :=
  ⟨t, s.windowCtxs n t, issueOrder (s.windowNo n t) (mergedAddns (s.windowEvents n t))⟩
/-- The core once a window of tile `t` has left its inbox. -/
def State.windowedCore (w : Window) : Core :=
  { s.cor n with
    inbox := (s.cor n).inbox.filter (fun e => !(s.evTile n e = w.slot && w.ctxs.contains e.cidx))
    windows := (s.cor n).windows ++ [w], adds := (s.cor n).adds ++ w.todo, slot := w.slot, pos := s.windowNo n w.slot + 1 }
/-- The next window of the lowest tile leaves a binned inbox. -/
def State.sortNext : State :=
  match s.inboxTiles n with
  | [] => s
  | t :: _ => s.setCor n (s.windowedCore n (s.nextWindow n t))

end

theorem State.windowSort_eq {s : State} {n : Nat} (hp : (s.cor n).phase = .integrate) (hd : n ∉ s.rtr.draining)
    (hw : s.phase1Waits n = false) : s.windowSort n = ((s.rsetBit (Reg.coreSynStatus n) 0 true).binInbox n).sortNext n := by
  have hgo : ¬ ((s.cor n).phase ≠ .integrate ∨ n ∈ s.rtr.draining ∨ s.phase1Waits n = true) := by simp [hp, hd, hw]
  unfold State.windowSort
  rw [if_neg hgo, State.phase1Try_begins hp hw]
  rfl

theorem State.sortNext_empty {s : State} {n : Nat} (h : (s.cor n).inbox = []) : s.sortNext n = s := by
  unfold State.sortNext State.inboxTiles
  rw [h]
  rfl

theorem State.sortNext_tile {s : State} {n t : Nat} {ts : List Nat} (h : s.inboxTiles n = t :: ts) :
    s.sortNext n = s.setCor n (s.windowedCore n (s.nextWindow n t)) := by
  unfold State.sortNext
  rw [h]

/-- An inbox that holds events has a lowest tile. -/
theorem State.inboxTiles_lowest {s : State} {n : Nat} (h : (s.cor n).inbox ≠ []) : ∃ t ts, s.inboxTiles n = t :: ts ∧
    (∃ e ∈ (s.cor n).inbox, s.evTile n e = t) ∧ ∀ e ∈ (s.cor n).inbox, t ≤ s.evTile n e := by
  have hmem : ∀ k, k ∈ s.inboxTiles n ↔ ∃ e ∈ (s.cor n).inbox, s.evTile n e = k := fun k => by
    rw [State.inboxTiles, mem_ascending, List.mem_map]
  have hsorted : (s.inboxTiles n).Pairwise (· < ·) := pairwise_ascending _
  cases htiles : s.inboxTiles n with
  | nil =>
    obtain ⟨e, he⟩ := List.exists_mem_of_ne_nil _ h
    have hin := (hmem (s.evTile n e)).mpr ⟨e, he, rfl⟩
    rw [htiles] at hin
    exact absurd hin List.not_mem_nil
  | cons t ts =>
    rw [htiles] at hmem hsorted
    refine ⟨t, ts, rfl, (hmem t).mp List.mem_cons_self, fun e he => ?_⟩
    rcases List.mem_cons.mp ((hmem _).mpr ⟨e, he, rfl⟩) with heq | hin
    · exact heq.ge
    · exact ((List.pairwise_cons.mp hsorted).1 _ hin).le

theorem tileSlots_bounds (ncol : Nat) : 0 < tileSlots ncol ∧ tileSlots ncol ≤ 64 := by
  unfold tileSlots
  repeat' split
  all_goals decide

section
variable {s : State} {n t : Nat}

theorem State.mem_tileEvents {e : Ev} : e ∈ s.tileEvents n t ↔ e ∈ (s.cor n).inbox ∧ s.evTile n e = t := by
  rw [State.tileEvents, List.mem_filter, decide_eq_true_iff]

/-- A window holds at least one context, and at most as many as the tile has slots. -/
theorem State.windowCtxs_size (h : ∃ e ∈ (s.cor n).inbox, s.evTile n e = t) :
    s.windowCtxs n t ≠ [] ∧ (s.windowCtxs n t).length ≤ 64 := by
  obtain ⟨e, he, htile⟩ := h
  obtain ⟨hpos, hle⟩ : 0 < s.slotsOfTile n t ∧ s.slotsOfTile n t ≤ 64 := tileSlots_bounds _
  have hin : e.cidx ∈ ascending ((s.tileEvents n t).map (·.cidx)) :=
    mem_ascending.mpr (List.mem_map.mpr ⟨e, State.mem_tileEvents.mpr ⟨he, htile⟩, rfl⟩)
  refine ⟨fun hnil => ?_, (List.length_take_le _ _).trans hle⟩
  rcases List.take_eq_nil_iff.mp hnil with h0 | hempty
  · omega
  · rw [hempty] at hin
    exact absurd hin List.not_mem_nil

theorem State.windowCtxs_ascend : (s.windowCtxs n t).Pairwise (· < ·) := (pairwise_ascending _).sublist (List.take_sublist _ _)

/-- The window takes the lowest context indices of its tile. -/
theorem State.windowCtxs_lowest {e : Ev} (he : e ∈ (s.cor n).inbox) (htile : s.evTile n e = t) (hnot : e.cidx ∉ s.windowCtxs n t)
    {y : Nat} (hy : y ∈ s.windowCtxs n t) : y < e.cidx :=
  lt_of_mem_take_of_not_mem (pairwise_ascending _) hy
    (mem_ascending.mpr (List.mem_map.mpr ⟨e, State.mem_tileEvents.mpr ⟨he, htile⟩, rfl⟩)) hnot

/-- The additions of a window count what its events count (R101). -/
theorem State.nextWindow_counts (h : ∀ e ∈ (s.cor n).inbox, e.cidx < 2 ^ 18) (m : BitVec 8) (r : BitVec 16) (k : Nat) :
    countOf m r k (s.nextWindow n t).todo = (((s.cor n).inbox.filter (fun e => decide (s.evTile n e = t) &&
      (s.windowCtxs n t).contains e.cidx && e.matrix = m && e.row = r && decide (e.cidx = k))).map (fun e => e.cnt.toNat)).sum := by
  have hcidx : ∀ e ∈ s.windowEvents n t, e.cidx < 2 ^ 18 := fun e he =>
    h e (State.mem_tileEvents.mp (List.mem_filter.mp he).1).1
  have htodo : countOf m r k (s.nextWindow n t).todo = countOf m r k ((s.windowEvents n t).map Ev.addn) :=
    (countOf_perm m r k (issueOrder_perm _ _)).trans (countOf_mergedAddns m r k hcidx)
  rw [htodo, countOf, List.filter_map, List.map_map, State.windowEvents, State.tileEvents, List.filter_filter, List.filter_filter]
  congr 2
  refine List.filter_congr fun e _ => ?_
  simp only [Addn.isOf, Ev.addn, Function.comp_apply]
  ac_rfl

/-- Each matrix, row and context index has one addition in the window. -/
theorem State.nextWindow_nodup : ((s.nextWindow n t).todo.map Addn.place).Nodup :=
  (((issueOrder_perm _ _).map Addn.place).nodup_iff).mpr ((pairwise_mergedAddns _).imp Nat.ne_of_lt)

theorem State.nextWindow_even (h : s.windowNo n t % 2 = 0) : ((s.nextWindow n t).todo.map Addn.place).Pairwise (· < ·) := by
  have htodo : (s.nextWindow n t).todo = mergedAddns (s.windowEvents n t) := issueOrder_even h _
  rw [htodo]
  exact pairwise_mergedAddns _

end

/-! ### An event that is discarded -/

/-- An event of a matrix that is not VALID, or of a row past the matrix, is discarded for that reason (R111). -/
theorem State.dropReason_matrix {s : State} {n : Nat} {e : Ev}
    (h : (s.mat n e.matrix.toNat).valid = false ∨ (s.mat n e.matrix.toNat).nrows ≤ e.row.toNat) :
    s.dropReason n e = some (if (s.mat n e.matrix.toNat).valid then 1 else 0) := by
  unfold State.dropReason
  dsimp only
  cases hv : (s.mat n e.matrix.toNat).valid with
  | false => simp
  | true =>
    have hrow := h.resolve_left (by simp [hv])
    simp [hrow]

/-- CORE_SYN_DROPINFO of an event (R124). -/
def dropWord (e : Ev) (why : Nat) : Word := BitVec.ofNat 32 (why * 2 ^ 30 + e.matrix.toNat * 2 ^ 16 + e.row.toNat)
/-- The registers of a discarded event. -/
def State.dropCounted (s : State) (n : Nat) (e : Ev) (why : Nat) : State :=
  (s.count (Reg.coreSynDrop n) 1).rset (Reg.coreSynDropinfo n) (dropWord e why)

theorem State.dropEvent_eq {s : State} {n : Nat} {e : Ev} {why : Nat} (h : why ≠ 3) : s.dropEvent n e why =
    ((s.dropCounted n e why).raiseCore n).stepStatus (s.cor n).binding.toNat St.badOperand := by
  unfold State.dropEvent
  dsimp only
  rw [if_neg h]
  rfl

section
variable {s : State} {n : Nat} (hr : Tab.wf regReset s.reg.vals) (hn : n < 16) (e : Ev) {why : Nat} (h : why ≠ 3)
include h

theorem State.dropEvent_core : (s.dropEvent n e why).core = s.core := by
  rw [State.dropEvent_eq h]
  exact ((State.stepStatus_cmdOnly _ _ _).same .core (by decide)).trans (State.raise_core _ _)

include hr

theorem State.dropEvent_rget {a : Nat} (ha : a ≠ Reg.irqMerged ∧ a ≠ Reg.irqLastm) :
    (s.dropEvent n e why).rget a = (s.dropCounted n e why).rget a := by
  rw [State.dropEvent_eq h, State.rget, State.stepStatus_reg]
  exact (State.raise_FileOnly _ _).regs.get (Tab.wf_set (Tab.wf_set hr _ _) _ _) (by simpa using ha)

include hn

/-- A discarded event raises the source of the physical core. -/
theorem State.dropEvent_raw : (s.dropEvent n e why).irq.raw.getLsbD (25 + s.physCore n) = true := by
  have hphys : (s.dropCounted n e why).physCore n = s.physCore n := by
    have hkept : RegsOnly [Reg.coreSynDrop n, Reg.coreSynDropinfo n] s (s.dropCounted n e why) :=
      .trans (t := s.count (Reg.coreSynDrop n) 1) (.count s 1 (by simp)) (.rset _ _ (by simp))
    have hother : Reg.budLmapCore n ∉ [Reg.coreSynDrop n, Reg.coreSynDropinfo n] := by
      simp only [List.mem_cons, List.not_mem_nil, or_false, Reg.coreSynDrop, Reg.coreSynDropinfo, Reg.budLmapCore]
      omega
    exact State.physCore_congr (hkept.get hr hother)
  have hirq : (s.dropEvent n e why).irq = ((s.dropCounted n e why).raiseCore n).irq := by
    rw [State.dropEvent_eq h]
    exact (State.stepStatus_cmdOnly _ _ _).same .irq (by decide)
  rw [hirq, ← hphys]
  exact State.raiseCore_raw _ n

/-- It is counted and told in DROPINFO. -/
theorem State.dropEvent_shown : (s.dropEvent n e why).rfield (Reg.coreSynDrop n) 0 32 =
      min (s.rfield (Reg.coreSynDrop n) 0 32 + 1) (2 ^ 32 - 1) ∧
    (s.dropEvent n e why).rget (Reg.coreSynDropinfo n) = dropWord e why := by
  have hvals : Tab.wf regReset (s.count (Reg.coreSynDrop n) 1).reg.vals := Tab.wf_set hr _ _
  have hne : Reg.coreSynDrop n ≠ Reg.coreSynDropinfo n := by simp only [Reg.coreSynDrop, Reg.coreSynDropinfo]; omega
  constructor
  · rw [State.rfield, State.dropEvent_rget hr e h (by simp only [Reg.coreSynDrop, Reg.irqMerged, Reg.irqLastm]; omega),
      State.dropCounted, State.rget_rset_other hvals _ hne]
    exact State.rfield_satAdd_same hr (Reg.coreSynDrop n) (lo := 0) (w := 32) 1 (by decide)
  · rw [State.dropEvent_rget hr e h (by simp only [Reg.coreSynDropinfo, Reg.irqMerged, Reg.irqLastm]; omega)]
    exact State.rget_rset_same hvals _ _

end

/-! ### WINDOW_SORT -/

/-- A field of one bit. -/
theorem fieldOf_one (x : Word) (i : Nat) : fieldOf x i 1 = (bitOf x i).toNat := (Nat.toNat_testBit x.toNat i).symm

/-- Phase 1 is active. -/
def State.integrating (s : State) (n : Nat) : State := s.rsetBit (Reg.coreSynStatus n) 0 true
/-- Phase 1 is active, and the inbox of the core empty. -/
def State.inboxEmptied (s : State) (n : Nat) : State := (s.integrating n).setCor n { s.cor n with inbox := [] }

theorem State.windowSort_kept {s : State} (hcores : Tab.wf (fun _ => Core.empty) s.core.cores) {n t : Nat} {ts : List Nat}
    (hp : (s.cor n).phase = .integrate) (hd : n ∉ s.rtr.draining) (hw : s.phase1Waits n = false)
    (hkept : ∀ e ∈ (s.cor n).inbox, s.dropReason n e = none) (ht : s.inboxTiles n = t :: ts) :
    s.windowSort n = (s.integrating n).setCor n (s.windowedCore n (s.nextWindow n t)) := by
  have hbinned : (s.integrating n).binInbox n = s.integrating n := State.binInbox_kept (s := s.integrating n) hcores hkept
  rw [State.windowSort_eq hp hd hw]
  exact (congrArg (State.sortNext · n) hbinned).trans (State.sortNext_tile (s := s.integrating n) ht)

theorem State.windowSort_dropped {s : State} (hcores : Tab.wf (fun _ => Core.empty) s.core.cores) {n why : Nat} {e : Ev}
    (hp : (s.cor n).phase = .integrate) (hd : n ∉ s.rtr.draining) (hw : s.phase1Waits n = false)
    (hi : (s.cor n).inbox = [e]) (hdrop : s.dropReason n e = some why) (hwhy : why ≠ 3) :
    s.windowSort n = (s.inboxEmptied n).dropEvent n e why := by
  have hbinned : (s.integrating n).binInbox n = (s.inboxEmptied n).dropEvent n e why := State.binInbox_dropped (s := s.integrating n) hi hdrop
  have hempty : (((s.inboxEmptied n).dropEvent n e why).cor n).inbox = [] := by
    rw [State.cor, State.dropEvent_core e hwhy]
    exact congrArg Core.inbox (State.cor_setCor_same (s := s.integrating n) hcores n _)
  rw [State.windowSort_eq hp hd hw]
  exact (congrArg (State.sortNext · n) hbinned).trans (State.sortNext_empty hempty)

/-- Settles O30: WINDOW_SORT on an inbox that keeps its events (`windowSort_kept`), its window by the ascending lists of tiles, of context
indices and of merged additions; an event of no matrix or row by `dropEvent_shown`. -/
theorem windowsAreSorted : Obligations.WindowsAreSorted := by
  intro s core e n c tile key hcanon ha hn hphase hdrain hwait
  have hcores := Canon_cores hcanon
  have hvals := Canon_vals hcanon
  have hactive : FileOnly [Reg.coreSynStatus n] s (s.integrating n) := .rsetBit s 0 true (by simp)
  constructor
  · intro hkept hinbox hcidx
    obtain ⟨t, ts, htiles, htile, hlowest⟩ := State.inboxTiles_lowest hinbox
    obtain ⟨hne, hsize⟩ := State.windowCtxs_size htile
    have hsort := State.windowSort_kept hcores hphase hdrain hwait hkept htiles
    refine To_of_live (f := fun s => s.windowSort n) ha rfl ?_ ?_ <;> rw [hsort]
    · exact State.setCor_Only _ _ (by decide) (State.rsetBit_Only _ _ _ _ (by decide) (.refl _ s))
    · refine ⟨(hactive.trans (.of_reg rfl)).onlyRegs hvals (Canon_live hcanon), ?_, s.nextWindow n t, State.cor_setCor_same hcores n _,
        fun m hm => State.cor_setCor_other hcores _ hm, htile, hlowest, hne, State.windowCtxs_ascend, hsize,
        fun x hx hxt hnot y hy => State.windowCtxs_lowest hx hxt hnot hy, State.nextWindow_counts hcidx, State.nextWindow_nodup,
        State.nextWindow_even⟩
      have hbit := State.rbit_rsetBit_same hvals (Reg.coreSynStatus n) (i := 0) true (by decide)
      exact (fieldOf_one _ 0).trans (congrArg Bool.toNat hbit)
  · intro hinbox hmat
    have hwhy : (if (s.mat n e.matrix.toNat).valid then 1 else 0) ≠ 3 := by split <;> decide
    have hsort := State.windowSort_dropped hcores hphase hdrain hwait hinbox (State.dropReason_matrix hmat) hwhy
    generalize (if (s.mat n e.matrix.toNat).valid then 1 else 0) = why at hwhy hsort ⊢
    have hwf := hactive.regs.wf hvals
    have hstatus : ∀ a, a ≠ Reg.coreSynStatus n → (s.inboxEmptied n).rget a = s.rget a := fun a h =>
      hactive.regs.get hvals (by simpa using h)
    have hphys : (s.inboxEmptied n).physCore n = s.physCore n :=
      State.physCore_congr (hstatus _ (by simp only [Reg.budLmapCore, Reg.coreSynStatus]; omega))
    have hdrop : (s.inboxEmptied n).rfield (Reg.coreSynDrop n) 0 32 = s.rfield (Reg.coreSynDrop n) 0 32 :=
      congrArg (fieldOf · 0 32) (hstatus _ (by simp only [Reg.coreSynDrop, Reg.coreSynStatus]; omega))
    obtain ⟨hcount, hinfo⟩ := State.dropEvent_shown (s := s.inboxEmptied n) hwf hn e hwhy
    refine To_of_live (f := fun s => s.windowSort n) ha rfl
      (State.windowSort_Only s n (by decide) (by decide) (by decide) (by decide) (by decide) (by decide) (.refl _ s)) ?_
    rw [hsort]
    refine ⟨?_, ?_, ?_, hinfo⟩
    · rw [State.cor, State.dropEvent_core e hwhy]
      exact State.cor_setCor_same (s := s.integrating n) hcores n _
    · rw [← hphys]
      exact State.dropEvent_raw (s := s.inboxEmptied n) hwf hn e hwhy
    · rw [hcount, hdrop]

end Sys2Proof.Machine
end

section
namespace Sys2Proof.Machine

/-! ## The eight-row buffer (R109) -/

/-- The entries that stay before a row of `m` entries. -/
def olderRows (buf : List (Nat × Nat)) (k : Nat × Nat) : List (Nat × Nat) :=
  (buf.filter (· ≠ k)).drop ((buf.filter (· ≠ k)).length + rowEntries k.2 - 8)

section
variable {k : Nat × Nat} (h : rowEntries k.2 ≤ 8) (buf : List (Nat × Nat))
include h

/-- Of a row of at most eight entries all stand in the buffer, behind the latest of the others. -/
theorem touchRow_eq : touchRow buf k = olderRows buf k ++ List.replicate (rowEntries k.2) k := by
  unfold touchRow olderRows
  dsimp only
  rw [List.length_append, List.length_replicate]
  exact List.drop_append_of_le_length (by omega)

theorem inBuffer_touchRow : inBuffer (touchRow buf k) k = true := by
  have hnot : k ∉ olderRows buf k := fun hk => absurd rfl (of_decide_eq_true (List.mem_filter.mp (List.mem_of_mem_drop hk)).2)
  rw [inBuffer, decide_eq_true_iff, touchRow_eq h, List.count_append, List.count_eq_zero_of_not_mem hnot, List.count_replicate_self,
    Nat.zero_add]

theorem length_touchRow_le : (touchRow buf k).length ≤ 8 := by
  rw [touchRow_eq h, List.length_append, List.length_replicate, olderRows, List.length_drop]
  omega

theorem mem_touchRow {x : Nat × Nat} (hx : x ∈ touchRow buf k) : x = k ∨ x ∈ buf := by
  rw [touchRow_eq h] at hx
  rcases List.mem_append.mp hx with hx | hx
  · exact .inr (List.mem_filter.mp (List.mem_of_mem_drop hx)).1
  · exact .inl (List.eq_of_mem_replicate hx)

end

theorem fmtBits_le (f : Nat) : fmtBits f ≤ 16 := by
  unfold fmtBits
  rcases Nat.lt_or_ge f 9 with h | h
  · interval_cases f <;> decide
  · rw [List.getD_eq_default _ _ h]

/-- A row of a matrix takes at most four entries. -/
theorem rowEntries_le {f ncol : Nat} (h : ncol ≤ 8192) : rowEntries (rowWB f ncol) ≤ 8 := by
  have hcols : ncolp ncol ≤ 8192 := by
    unfold ncolp
    omega
  have hbits : ncolp ncol * fmtBits f ≤ 8192 * 16 := Nat.mul_le_mul hcols (fmtBits_le f)
  unfold rowEntries rowWB
  split <;> omega

/-! ## ROW_READ (R109, R112, R123) -/

/-- A row read is counted. -/
def State.readCounted (s : State) (n : Nat) : State :=
  (s.unitActs 2 1 1).longSet (Reg.coreSynReadsLo n) (s.longGet (Reg.coreSynReadsLo n) + 1)
/-- A core whose buffer has received a row. -/
def Core.buffered (c : Core) (buf : List (Nat × Nat)) : Core := { c with rowBuf := buf, fetched := c.fetched + 1 }
/-- A core whose head window has lost the additions of a row. -/
def Core.skipsRow (c : Core) (w : Window) (ws : List Window) (key : Nat) : Core :=
  { c with windows := { w with todo := w.todo.filter (fun x => x.key ≠ key) } :: ws }
/-- An uncorrectable row of matrix `m` shows: ECCW, the core's source and the status of the step (R112). -/
def State.rowErrorShown (s : State) (n m b : Nat) : State :=
  ((s.rsetBit (Reg.coreSynMstat n m) 4 true).raiseCore n).stepStatus b St.eccFatal

/-- The weight and scale bytes of the row of an addition are in uncorrectable error. -/
def State.rowBad (s : State) (n : Nat) (a : Addn) : Bool :=
  let d := s.mat n a.matrix.toNat
  s.badRange (s.rowOf n a).1 (rowWB d.fmt d.ncol + rowSB d.fmt d.ncol)

theorem State.rowRead_eq {s : State} {n : Nat} {w : Window} {ws : List Window} {a : Addn} {buf : List (Nat × Nat)}
    (hw : (s.cor n).windows = w :: ws) (hmiss : s.firstMiss n (s.cor n).rowBuf (s.nextRun n) = some (a, buf))
    (hfit : s.longGet (Reg.coreSynReadsLo n) + 1 < 2 ^ 48) : s.rowRead n =
      if s.rowBad n a then ((s.readCounted n).setCor n ((s.cor n).skipsRow w ws a.key)).rowErrorShown n a.matrix.toNat (s.cor n).binding.toNat
      else (s.readCounted n).setCor n ((s.cor n).buffered (touchRow buf (s.rowOf n a))) := by
  unfold State.rowRead
  dsimp only
  rw [hw, hmiss]
  dsimp only
  rw [State.longWrap_fits (s := s.unitActs 2 1 1) hfit, ← hw]
  rfl

theorem State.readCounted_FileOnly (s : State) (n : Nat) : FileOnly [Reg.coreSynReadsLo n] s (s.readCounted n) :=
  .trans (t := s.unitActs 2 1 1) (.of_reg rfl) (.longSet _ _ (by simp))

theorem State.readCounted_longGet {s : State} (hcanon : Canon s) {n : Nat} (hfit : s.longGet (Reg.coreSynReadsLo n) + 1 < 2 ^ 48) :
    (s.readCounted n).longGet (Reg.coreSynReadsLo n) = s.longGet (Reg.coreSynReadsLo n) + 1 :=
  State.longGet_longSet_same (s := s.unitActs 2 1 1) (Canon_vals (s := s) hcanon) (Canon_live (s := s) hcanon) _ (by omega)

theorem State.readCounted_Only (s : State) (n : Nat) : OnlyChanges [.gov, .reg] s (s.readCounted n) :=
  State.longSet_Only _ _ _ (by decide) (State.unitActs_Only _ _ _ _ (by decide) (.refl _ s))

theorem State.readCounted_Acts (s : State) (n : Nat) : ActsOnly s (s.readCounted n) := ActsOnly.unitActs s 2 1 1

section
variable (s : State) (n m b : Nat)

theorem State.rowErrorShown_Only : OnlyChanges [.cmd, .eth, .irq, .out, .reg] s (s.rowErrorShown n m b) :=
  State.stepStatus_Only _ _ _ (by decide) (State.raise_Only _ _ (by decide) (by decide) (by decide) (by decide)
    (State.rsetBit_Only _ _ _ _ (by decide) (.refl _ s)))

theorem State.rowErrorShown_FileOnly : FileOnly [Reg.coreSynMstat n m, Reg.irqMerged, Reg.irqLastm] s (s.rowErrorShown n m b) :=
  .trans (.rsetBit s 4 true (by simp)) (.trans ((State.raise_FileOnly _ _).mono (by simp)) (.of_reg (State.stepStatus_reg _ _ _)))

theorem State.rowErrorShown_raw (hr : Tab.wf regReset s.reg.vals) (hm : m < 256) :
    (s.rowErrorShown n m b).irq.raw.getLsbD (25 + s.physCore n) = true := by
  have hphys : (s.rsetBit (Reg.coreSynMstat n m) 4 true).physCore n = s.physCore n :=
    State.physCore_congr (State.rget_rset_other hr _ (by simp only [Reg.coreSynMstat, Reg.budLmapCore]; omega))
  have hirq : (s.rowErrorShown n m b).irq = ((s.rsetBit (Reg.coreSynMstat n m) 4 true).raiseCore n).irq :=
    (State.stepStatus_cmdOnly _ _ _).same .irq (by decide)
  rw [hirq, ← hphys]
  exact State.raiseCore_raw _ n

end

end Sys2Proof.Machine
end

section
namespace Sys2Proof.Machine

/-! ## One addition (R99-R102) -/

theorem State.mat_congr {s t : State} (hm : t.mem = s.mem) (n m : Nat) : t.mat n m = s.mat n m := by
  simp only [State.mat, State.leAt, State.bytes_congr hm]

theorem State.weightAt_congr {s t : State} (hm : t.mem = s.mem) (adr f ncol j : Nat) : t.weightAt adr f ncol j = s.weightAt adr f ncol j := by
  simp only [State.weightAt, State.leAt, State.bytes_congr hm, State.byteAt, hm]

/-- The columns of an addition's row. -/
def State.cols (s : State) (n : Nat) (a : Addn) : Nat := (s.mat n a.matrix.toNat).ncol
/-- Where the running step of its matrix's binding reads the row of an addition. -/
def State.addnRow (s : State) (n : Nat) (a : Addn) : Nat :=
  s.rowAddr n a.matrix.toNat a.row.toNat (s.bnd (s.mat n a.matrix.toNat).binding).step.toNat
/-- Element `j` of the row of an addition, converted (R99). -/
def State.element (s : State) (n : Nat) (a : Addn) (j : Nat) : Int × Bool × Bool × Bool :=
  let d := s.mat n a.matrix.toNat
  let x := s.weightAt (s.addnRow n a) d.fmt d.ncol j
  toFx48 d.accExp d.fmt x.1 x.2

/-- What the rows of additions are read by: memory, the berths of the core and the steps of the bindings. -/
structure SameRows (n : Nat) (s t : State) : Prop where
  mem    : t.mem = s.mem
  berth0 : (t.cor n).berth0 = (s.cor n).berth0
  berth1 : (t.cor n).berth1 = (s.cor n).berth1
  step   : ∀ b, (t.bnd b).step = (s.bnd b).step

namespace SameRows
variable {n : Nat} {s t u : State}

theorem trans (h : SameRows n s t) (g : SameRows n t u) : SameRows n s u :=
  ⟨g.mem.trans h.mem, g.berth0.trans h.berth0, g.berth1.trans h.berth1, fun b => (g.step b).trans (h.step b)⟩

theorem cols (h : SameRows n s t) : t.cols n = s.cols n := funext fun a => by simp only [State.cols, State.mat_congr h.mem]

theorem element (h : SameRows n s t) : t.element n = s.element n := funext fun a => funext fun j => by
  simp only [State.element, State.addnRow, State.rowAddr, Core.berthFor, State.mat_congr h.mem, State.weightAt_congr h.mem, h.berth0, h.berth1,
    h.step]

end SameRows

/-- The accumulators after an addition, given the columns of its row and their values. -/
def accAdd (cols : Addn → Nat) (val : Addn → Nat → Int) (acc : Tab Int) (a : Addn) : Tab Int :=
  Tab.modAll (fun _ => (0 : Int)) (accKey a.cidx) (fun j x => x + a.count * val a j) acc (List.range (cols a))

/-- What an addition adds to a column. -/
def addend (cols : Addn → Nat) (val : Addn → Nat → Int) (j : Nat) (a : Addn) : Int := a.count * if j < cols a then val a j else 0

section
variable {cols : Addn → Nat} {val : Addn → Nat → Int} {acc : Tab Int} (hacc : Tab.wf (fun _ => (0 : Int)) acc)
include hacc

theorem wf_accAdd (a : Addn) : Tab.wf (fun _ => (0 : Int)) (accAdd cols val acc a) := Tab.wf_modAll _ _ _ hacc

theorem get_accAdd {a : Addn} (hcols : cols a ≤ 8192) {x j : Nat} (hj : j < 8192) :
    Tab.get (fun _ => (0 : Int)) (accAdd cols val acc a) (x * 8192 + j) =
      Tab.get (fun _ => (0 : Int)) acc (x * 8192 + j) + if a.cidx = x then addend cols val j a else 0 := by
  have hinj : ∀ i, i < 8192 → (accKey a.cidx i = x * 8192 + j ↔ a.cidx = x ∧ i = j) := fun i hi => by
    unfold accKey
    omega
  have hnodup : ((List.range (cols a)).map (accKey a.cidx)).Nodup :=
    List.nodup_range.map fun i i' h => by
      unfold accKey at h
      omega
  by_cases hin : a.cidx = x ∧ j < cols a
  · obtain ⟨rfl, hjc⟩ := hin
    rw [if_pos rfl, addend, if_pos hjc]
    exact Tab.get_modAll_mem (k := accKey a.cidx) _ hacc hnodup (List.mem_range.mpr hjc)
  · have hzero : (if a.cidx = x then addend cols val j a else 0) = 0 := by
      split
      next hx => rw [addend, if_neg fun hjc => hin ⟨hx, hjc⟩, Int.mul_zero]
      next => rfl
    rw [hzero, Int.add_zero]
    refine Tab.get_modAll_other _ hacc fun i hi he => hin ?_
    have hi := List.mem_range.mp hi
    obtain ⟨hx, rfl⟩ := (hinj i (by omega)).mp he
    exact ⟨hx, hi⟩

theorem wf_foldl_accAdd (run : List Addn) : Tab.wf (fun _ => (0 : Int)) (run.foldl (accAdd cols val) acc) := by
  induction run generalizing acc with
  | nil => exact hacc
  | cons a r ih => exact ih (wf_accAdd hacc a)

/-- Every accumulator receives the additions of its context index exactly (R101, R102). -/
theorem get_foldl_accAdd {run : List Addn} (hcols : ∀ a ∈ run, cols a ≤ 8192) (x : Nat) {j : Nat} (hj : j < 8192) :
    Tab.get (fun _ => (0 : Int)) (run.foldl (accAdd cols val) acc) (x * 8192 + j) =
      Tab.get (fun _ => (0 : Int)) acc (x * 8192 + j) + ((run.filter (fun a => a.cidx = x)).map (addend cols val j)).sum := by
  induction run generalizing acc with
  | nil => exact (Int.add_zero _).symm
  | cons a r ih =>
    obtain ⟨ha, hr⟩ := List.forall_mem_cons.mp hcols
    refine (ih (wf_accAdd hacc a) hr).trans ?_
    rw [get_accAdd hacc ha hj, List.filter_cons]
    by_cases hx : a.cidx = x
    · rw [if_pos hx, if_pos (decide_eq_true hx), List.map_cons, List.sum_cons, Int.add_assoc]
    · rw [if_neg hx, if_neg (by simpa using hx), Int.add_zero]

end

end Sys2Proof.Machine
end

section
namespace Sys2Proof.Machine

/-! ## What an addition changes (R99-R105, R192) -/

/-- The element values of the rows of additions. -/
def State.value (s : State) (n : Nat) (a : Addn) (j : Nat) : Int := (s.element n a j).1
/-- A core with other accumulators. -/
def Core.withAcc (c : Core) (acc : Tab Int) : Core := { c with acc := acc }
/-- The accumulators of core `n` after an addition. -/
def State.addedAcc (s : State) (n : Nat) (a : Addn) : Tab Int := accAdd (s.cols n) (s.value n) (s.cor n).acc a

/-- An addition writes the accumulators and the matrix's status, may count a read at an old version, and may set a status of the step. -/
theorem State.addOne_cases (s : State) (n : Nat) (a : Addn) : ∃ w u,
    (u = (s.setCor n ((s.cor n).withAcc (s.addedAcc n a))).rset (Reg.coreSynMstat n a.matrix.toNat) w ∨
      u = ((s.setCor n ((s.cor n).withAcc (s.addedAcc n a))).rset (Reg.coreSynMstat n a.matrix.toNat) w).longSat (Reg.coreLrnOldLo n) 1) ∧
    (s.addOne n a = u ∨ ∃ b, s.addOne n a = u.stepStatus b St.sat) := by
  unfold State.addOne
  dsimp only
  rw [List.foldl_map]
  generalize hflags : State.rmod _ _ _ = t
  split <;> split <;> subst hflags
  · exact ⟨_, _, .inr rfl, .inr ⟨_, rfl⟩⟩
  · exact ⟨_, _, .inl rfl, .inr ⟨_, rfl⟩⟩
  · exact ⟨_, _, .inr rfl, .inl rfl⟩
  · exact ⟨_, _, .inl rfl, .inl rfl⟩

theorem State.stepStatus_kept {s : State} (hw : Tab.wf (fun _ => Binding.empty) s.cmd.bindings) (b : Nat) (st : Byte) :
    Tab.wf (fun _ => Binding.empty) (s.stepStatus b st).cmd.bindings ∧ ∀ m, ((s.stepStatus b st).bnd m).step = (s.bnd m).step := by
  constructor
  · rw [State.stepStatus_eq hw]
    exact Tab.wf_set hw _ _
  · intro m
    by_cases hm : m = b
    · rw [hm, State.bnd_stepStatus_same hw, Binding.tookStatus_eq]
    · rw [State.bnd_stepStatus_other hw st hm]

/-- The registers that additions on a core may change. -/
def addnRegs (n : Nat) : List Nat := Reg.coreLrnOldLo n :: (List.range 256).map (Reg.coreSynMstat n)

theorem not_mem_addnRegs {n r : Nat} (hr : r < Reg.coreSynMstat n 0) : r ∉ addnRegs n := by
  simp only [addnRegs, List.mem_cons, List.mem_map, List.mem_range, not_or, not_exists, not_and, Reg.coreLrnOldLo, Reg.coreSynMstat] at hr ⊢
  exact ⟨by omega, fun _ _ => by omega⟩

/-- What additions leave of a state in which core `n` has the accumulators `acc` after them. -/
structure Added (n : Nat) (s t : State) (acc : Tab Int) : Prop where
  only     : OnlyChanges [.cmd, .core, .reg] s t
  cor      : t.cor n = (s.cor n).withAcc acc
  other    : ∀ m, m ≠ n → t.cor m = s.cor m
  cores    : Tab.wf (fun _ => Core.empty) t.core.cores
  bindings : Tab.wf (fun _ => Binding.empty) t.cmd.bindings
  step     : ∀ b, (t.bnd b).step = (s.bnd b).step
  file     : FileOnly (addnRegs n) s t

namespace Added
variable {n : Nat} {s t u : State} {acc acc' : Tab Int}

theorem refl (hc : Tab.wf (fun _ => Core.empty) s.core.cores) (hb : Tab.wf (fun _ => Binding.empty) s.cmd.bindings) :
    Added n s s (s.cor n).acc := ⟨.refl _ s, rfl, fun _ _ => rfl, hc, hb, fun _ => rfl, .refl _ s⟩

theorem trans (h : Added n s t acc) (g : Added n t u acc') : Added n s u acc' :=
  ⟨h.only.trans g.only, by rw [g.cor, h.cor]; rfl, fun m hm => (g.other m hm).trans (h.other m hm), g.cores,
    g.bindings, fun b => (g.step b).trans (h.step b), h.file.trans g.file⟩

/-- A further change of registers. -/
theorem regs (h : Added n s t acc) (ho : OnlyChanges [.reg] t u) (hf : FileOnly (addnRegs n) t u) : Added n s u acc := by
  have hcore : u.core = t.core := ho.same .core (by decide)
  have hcmd : u.cmd = t.cmd := ho.same .cmd (by decide)
  have hcor : ∀ m, u.cor m = t.cor m := fun m => by simp only [State.cor, hcore]
  exact ⟨h.only.trans (ho.mono (by decide)), (hcor n).trans h.cor, fun m hm => (hcor m).trans (h.other m hm), hcore ▸ h.cores,
    hcmd ▸ h.bindings, fun b => by simp only [State.bnd, hcmd]; exact h.step b, h.file.trans hf⟩

/-- A further status of the step. -/
theorem status (h : Added n s t acc) (b : Nat) (st : Byte) : Added n s (t.stepStatus b st) acc := by
  have ho := t.stepStatus_cmdOnly b st
  have hcore : (t.stepStatus b st).core = t.core := ho.same .core (by decide)
  have hcor : ∀ m, (t.stepStatus b st).cor m = t.cor m := fun m => by simp only [State.cor, hcore]
  obtain ⟨hwf, hstep⟩ := State.stepStatus_kept h.bindings b st
  exact ⟨h.only.trans (ho.mono (by decide)), (hcor n).trans h.cor, fun m hm => (hcor m).trans (h.other m hm), hcore ▸ h.cores,
    hwf, fun m => (hstep m).trans (h.step m), h.file.trans (.of_reg (t.stepStatus_reg b st))⟩

theorem sameRows (h : Added n s t acc) : SameRows n s t :=
  ⟨h.only.same .mem (by decide), by rw [h.cor]; rfl, by rw [h.cor]; rfl, h.step⟩

end Added

section
variable {s : State} {n : Nat} (hc : Tab.wf (fun _ => Core.empty) s.core.cores) (hb : Tab.wf (fun _ => Binding.empty) s.cmd.bindings)
include hc hb

theorem State.addOne_Added (a : Addn) : Added n s (s.addOne n a) (s.addedAcc n a) := by
  have hmstat : Reg.coreSynMstat n a.matrix.toNat ∈ addnRegs n :=
    List.mem_cons_of_mem _ (List.mem_map.mpr ⟨_, List.mem_range.mpr a.matrix.isLt, rfl⟩)
  have hset : Added n s (s.setCor n ((s.cor n).withAcc (s.addedAcc n a))) (s.addedAcc n a) :=
    ⟨State.setCor_Only _ _ (by decide) (.refl _ s), State.cor_setCor_same hc n _, fun m hm => State.cor_setCor_other hc _ hm,
      Tab.wf_set hc _ _, hb, fun _ => rfl, .of_reg rfl⟩
  obtain ⟨w, u, hu, hadd⟩ := s.addOne_cases n a
  have hflags := hset.regs (State.rset_Only (Reg.coreSynMstat n a.matrix.toNat) w (by decide) (.refl [.reg] _)) (.rset _ w hmstat)
  have hu : Added n s u (s.addedAcc n a) := by
    rcases hu with rfl | rfl
    · exact hflags
    · exact hflags.regs (State.longSat_Only _ _ _ (by decide) (.refl [.reg] _)) (.longSat _ _ List.mem_cons_self)
  rcases hadd with h | ⟨b, h⟩ <;> rw [h]
  · exact hu
  · exact hu.status b St.sat

/-- The additions of a run read rows that none of them changes. -/
theorem State.forAll_addOne (run : List Addn) : Added n s (s.forAll run (fun s a => s.addOne n a))
    (run.foldl (accAdd (s.cols n) (s.value n)) (s.cor n).acc) := by
  induction run generalizing s with
  | nil => exact .refl hc hb
  | cons a r ih =>
    have hone := State.addOne_Added (n := n) hc hb a
    have hrest := ih hone.cores hone.bindings
    have hvalue : (s.addOne n a).value n = s.value n := funext fun b => funext fun j => by
      simp only [State.value, hone.sameRows.element]
    rw [hone.sameRows.cols, hvalue, hone.cor] at hrest
    exact hone.trans hrest

end

/-! ## ADDITION_RUN (R101, R108, R123) -/

/-- A core that has taken a run of `k` additions from its head window. -/
def Core.takesRun (c : Core) (w : Window) (ws : List Window) (k : Nat) (buf : List (Nat × Nat)) : Core :=
  { c with windows := { w with todo := w.todo.drop k } :: ws, rowBuf := buf, fetched := 0 }
/-- The buffer after a run has used its rows. -/
def State.runBuf (s : State) (n : Nat) (run : List Addn) : List (Nat × Nat) :=
  run.foldl (fun l a => touchRow l (s.rowOf n a)) (s.cor n).rowBuf
/-- The run has left the head window. -/
def State.runTaken (s : State) (n : Nat) (w : Window) (ws : List Window) (run : List Addn) : State :=
  s.setCor n ((s.cor n).takesRun w ws run.length (s.runBuf n run))
/-- Its additions have been made. -/
def State.runAdded (s : State) (n : Nat) (w : Window) (ws : List Window) (run : List Addn) : State :=
  (s.runTaken n w ws run).forAll run (fun s a => s.addOne n a)
/-- A count of the synapse unit that passes 2^48 shows in CORE_SYN_STATUS and raises the core's source. -/
def State.wrapShown (s : State) (n lo bit k : Nat) : State :=
  if (s.longWrap lo k).2 then (((s.longWrap lo k).1.rsetBit (Reg.coreSynStatus n) bit true).raiseCore n) else (s.longWrap lo k).1

theorem State.wrapShown_fits {s : State} {lo k : Nat} (h : s.longGet lo + k < 2 ^ 48) (n bit : Nat) :
    s.wrapShown n lo bit k = s.longSet lo (s.longGet lo + k) := by
  rw [State.wrapShown, State.longWrap_fits h]
  rfl

/-- A run and what of it the buffer served are counted. -/
def State.runCounted (s : State) (n k hits : Nat) : State :=
  ((s.unitActs 2 0 1).wrapShown n (Reg.coreSynAddsLo n) 3 k).wrapShown n (Reg.coreSynHitsLo n) 2 hits

theorem State.additionRun_eq {s : State} {n : Nat} {w : Window} {ws : List Window} {run : List Addn} (hrun : s.nextRun n = run)
    (hw : (s.cor n).windows = w :: ws) (hne : run ≠ []) (hmiss : (s.firstMiss n (s.cor n).rowBuf run).isSome = false) :
    s.additionRun n = (s.runAdded n w ws run).runCounted n run.length (run.length - (s.cor n).fetched) := by
  have hgo : ¬ (run = [] ∨ (s.firstMiss n (s.cor n).rowBuf run).isSome = true) := by simp [hne, hmiss]
  unfold State.additionRun
  dsimp only
  rw [hw, hrun]
  dsimp only
  rw [if_neg hgo]
  rfl

/-- Counts that do not reach their ends change nothing else. -/
theorem State.runCounted_fits {s : State} (hr : Tab.wf regReset s.reg.vals) (hl : Tab.wf (fun _ => (0 : Word)) s.reg.live) {n k hits : Nat}
    (hk : s.longGet (Reg.coreSynAddsLo n) + k < 2 ^ 48) (hh : s.longGet (Reg.coreSynHitsLo n) + hits < 2 ^ 48) :
    (s.runCounted n k hits).longGet (Reg.coreSynAddsLo n) = s.longGet (Reg.coreSynAddsLo n) + k ∧
    (s.runCounted n k hits).longGet (Reg.coreSynHitsLo n) = s.longGet (Reg.coreSynHitsLo n) + hits ∧
    OnlyChanges [.gov, .reg] s (s.runCounted n k hits) ∧ ActsOnly s (s.runCounted n k hits) := by
  have hadds : FileOnly [Reg.coreSynAddsLo n] s ((s.unitActs 2 0 1).longSet (Reg.coreSynAddsLo n) (s.longGet (Reg.coreSynAddsLo n) + k)) :=
    .trans (t := s.unitActs 2 0 1) (.of_reg rfl) (.longSet _ _ (by simp))
  have hother : ((s.unitActs 2 0 1).longSet (Reg.coreSynAddsLo n) (s.longGet (Reg.coreSynAddsLo n) + k)).longGet (Reg.coreSynHitsLo n) =
      s.longGet (Reg.coreSynHitsLo n) := (hadds.onlyRegs hr hl _ (by simp)).2
  have hcount : s.runCounted n k hits = ((s.unitActs 2 0 1).longSet (Reg.coreSynAddsLo n) (s.longGet (Reg.coreSynAddsLo n) + k)).longSet
      (Reg.coreSynHitsLo n) (s.longGet (Reg.coreSynHitsLo n) + hits) := by
    have hfirst : (s.unitActs 2 0 1).wrapShown n (Reg.coreSynAddsLo n) 3 k =
        (s.unitActs 2 0 1).longSet (Reg.coreSynAddsLo n) (s.longGet (Reg.coreSynAddsLo n) + k) :=
      State.wrapShown_fits (s := s.unitActs 2 0 1) hk n 3
    rw [State.runCounted, hfirst, State.wrapShown_fits (by rw [hother]; exact hh), hother]
  have hr' := hadds.regs.wf hr
  obtain ⟨hl', -⟩ := hadds.live hl
  rw [hcount]
  refine ⟨?_, State.longGet_longSet_same hr' hl' _ (by omega), ?_, ActsOnly.unitActs s 2 0 1⟩
  · refine (((FileOnly.longSet (l := [Reg.coreSynHitsLo n]) _ _ (by simp)).onlyRegs hr' hl' _ (by simp)).2).trans ?_
    exact State.longGet_longSet_same (s := s.unitActs 2 0 1) hr hl _ (by omega)
  · exact State.longSet_Only _ _ _ (by decide) (State.longSet_Only _ _ _ (by decide) (State.unitActs_Only _ _ _ _ (by decide) (.refl _ s)))

section
variable {s : State} (hcanon : Canon s) {n : Nat} (w : Window) (ws : List Window) (run : List Addn)
include hcanon

theorem State.runTaken_cor : (s.runTaken n w ws run).cor n = (s.cor n).takesRun w ws run.length (s.runBuf n run) :=
  State.cor_setCor_same (Canon_cores hcanon) n _

/-- The additions of the run, as the state before it shows their rows. -/
theorem State.runAdded_Added : Added n (s.runTaken n w ws run) (s.runAdded n w ws run)
    (run.foldl (accAdd (s.cols n) (s.value n)) (s.cor n).acc) := by
  have hcor := State.runTaken_cor hcanon (n := n) w ws run
  have hsame : SameRows n s (s.runTaken n w ws run) := ⟨rfl, by rw [hcor]; rfl, by rw [hcor]; rfl, fun _ => rfl⟩
  have hadded := State.forAll_addOne (s := s.runTaken n w ws run) (n := n) (Tab.wf_set (Canon_cores hcanon) _ _)
    (Canon_bindings (s := s) hcanon) run
  have hvalue : (s.runTaken n w ws run).value n = s.value n := funext fun a => funext fun j => by
    simp only [State.value, hsame.element]
  rw [hsame.cols, hvalue, hcor] at hadded
  exact hadded

end

end Sys2Proof.Machine
end

section
namespace Sys2Proof.Machine

/-! ## Rows and additions -/

section
variable {s : State} (hcanon : Canon s) {n : Nat} {w : Window} {ws : List Window} (hw : (s.cor n).windows = w :: ws)
include hcanon hw

section
variable {a : Addn} {buf : List (Nat × Nat)} (hmiss : s.firstMiss n (s.cor n).rowBuf (s.nextRun n) = some (a, buf))
  (hfit : s.longGet (Reg.coreSynReadsLo n) + 1 < 2 ^ 48)
include hmiss hfit

/-- A row that is read enters the buffer. -/
theorem State.rowRead_good (hgood : s.rowBad n a = false) : Spec.Frame [.core, .reg] s (s.rowRead n) ∧
    (s.rowRead n).cor n = (s.cor n).buffered (touchRow buf (s.rowOf n a)) ∧ (∀ k, k ≠ n → (s.rowRead n).cor k = s.cor k) ∧
    (s.rowRead n).longGet (Reg.coreSynReadsLo n) = s.longGet (Reg.coreSynReadsLo n) + 1 ∧
    OnlyRegs [Reg.coreSynReadsLo n] s (s.rowRead n) := by
  have hcores : Tab.wf (fun _ => Core.empty) (s.readCounted n).core.cores := Canon_cores (s := s) hcanon
  have hfile : FileOnly [Reg.coreSynReadsLo n] s ((s.readCounted n).setCor n ((s.cor n).buffered (touchRow buf (s.rowOf n a)))) :=
    (s.readCounted_FileOnly n).trans (.of_reg rfl)
  rw [State.rowRead_eq hw hmiss hfit, if_neg (by simp [hgood])]
  exact ⟨Frame_of_acts (State.setCor_Only _ _ (by decide) ((s.readCounted_Only n).mono (by decide))) (s.readCounted_Acts n),
    State.cor_setCor_same hcores n _, fun k hk => State.cor_setCor_other hcores _ hk, State.readCounted_longGet hcanon hfit,
    hfile.onlyRegs (Canon_vals hcanon) (Canon_live hcanon)⟩

/-- A row in uncorrectable error loses its additions (R112). -/
theorem State.rowRead_bad (hbad : s.rowBad n a = true) (hn : n < 16) :
    Spec.Frame [.cmd, .core, .eth, .irq, .out, .reg] s (s.rowRead n) ∧ (s.rowRead n).cor n = (s.cor n).skipsRow w ws a.key ∧
    (s.rowRead n).longGet (Reg.coreSynReadsLo n) = s.longGet (Reg.coreSynReadsLo n) + 1 ∧
    (s.rowRead n).irq.raw.getLsbD (25 + s.physCore n) = true := by
  have hcores : Tab.wf (fun _ => Core.empty) (s.readCounted n).core.cores := Canon_cores (s := s) hcanon
  have hcount := s.readCounted_FileOnly n
  obtain ⟨hr, hl⟩ := hcount.wf hcanon
  have hphys : (s.readCounted n).physCore n = s.physCore n := State.physCore_congr (hcount.regs.get (Canon_vals hcanon)
    (by simp only [List.mem_singleton, Reg.budLmapCore, Reg.coreSynReadsLo]; omega))
  have hother : Reg.coreSynReadsLo n ∉ [Reg.coreSynMstat n a.matrix.toNat, Reg.irqMerged, Reg.irqLastm] := by
    simp only [List.mem_cons, List.not_mem_nil, or_false, Reg.coreSynReadsLo, Reg.coreSynMstat, Reg.irqMerged, Reg.irqLastm]
    omega
  rw [State.rowRead_eq hw hmiss hfit, if_pos hbad]
  have hcor := State.cor_setCor_same hcores n ((s.cor n).skipsRow w ws a.key)
  have hskip : OnlyChanges [.gov, .core, .reg] s ((s.readCounted n).setCor n ((s.cor n).skipsRow w ws a.key)) :=
    State.setCor_Only _ _ (by decide) ((s.readCounted_Only n).mono (by decide))
  have hacts : ActsOnly s ((s.readCounted n).setCor n ((s.cor n).skipsRow w ws a.key)) := s.readCounted_Acts n
  have hreads : ((s.readCounted n).setCor n ((s.cor n).skipsRow w ws a.key)).longGet (Reg.coreSynReadsLo n) =
    s.longGet (Reg.coreSynReadsLo n) + 1 := State.readCounted_longGet hcanon hfit
  generalize hskipped : (s.readCounted n).setCor n ((s.cor n).skipsRow w ws a.key) = t at hcor hskip hacts hreads ⊢
  have hreg : t.reg = (s.readCounted n).reg := hskipped ▸ rfl
  have hshown := t.rowErrorShown_Only n a.matrix.toNat (s.cor n).binding.toNat
  refine ⟨Frame_of_acts ((hskip.mono (by decide)).trans (hshown.mono (by decide))) (hacts.trans (ActsOnly.of_only hshown (by decide))),
    ?_, ?_, ?_⟩
  · rw [← hcor, State.cor, hshown.same .core (by decide)]
    rfl
  · exact (((t.rowErrorShown_FileOnly n _ _).onlyRegs (hreg ▸ hr) (hreg ▸ hl) _ hother).2).trans hreads
  · have hphys' : t.physCore n = s.physCore n := by rw [← hphys, ← hskipped]; rfl
    rw [← hphys']
    exact t.rowErrorShown_raw n _ _ (hreg ▸ hr) a.matrix.isLt

end

/-- A run whose rows are all in the buffer is added and counted (R101, R108, R123). -/
theorem State.additionRun_made {run : List Addn} (hrun : s.nextRun n = run) (hne : run ≠ [])
    (hmiss : (s.firstMiss n (s.cor n).rowBuf run).isSome = false) (hadds : s.longGet (Reg.coreSynAddsLo n) + run.length < 2 ^ 48)
    (hhits : s.longGet (Reg.coreSynHitsLo n) + run.length < 2 ^ 48) :
    Spec.Frame [.cmd, .core, .reg] s (s.additionRun n) ∧
    (s.additionRun n).cor n = ((s.cor n).takesRun w ws run.length (s.runBuf n run)).withAcc
      (run.foldl (accAdd (s.cols n) (s.value n)) (s.cor n).acc) ∧
    (∀ k, k ≠ n → (s.additionRun n).cor k = s.cor k) ∧
    (s.additionRun n).longGet (Reg.coreSynAddsLo n) = s.longGet (Reg.coreSynAddsLo n) + run.length ∧
    (s.additionRun n).longGet (Reg.coreSynHitsLo n) = s.longGet (Reg.coreSynHitsLo n) + (run.length - (s.cor n).fetched) := by
  have hcores := Canon_cores hcanon
  have hmade := State.runAdded_Added hcanon (n := n) w ws run
  have hfile : FileOnly (addnRegs n) s (s.runAdded n w ws run) := .trans (t := s.runTaken n w ws run) (.of_reg rfl) hmade.file
  obtain ⟨hr, hl⟩ := hfile.wf hcanon
  have hkept := hfile.onlyRegs (Canon_vals hcanon) (Canon_live hcanon)
  have hkadds := (hkept (Reg.coreSynAddsLo n) (not_mem_addnRegs (by simp only [Reg.coreSynAddsLo, Reg.coreSynMstat]; omega))).2
  have hkhits := (hkept (Reg.coreSynHitsLo n) (not_mem_addnRegs (by simp only [Reg.coreSynHitsLo, Reg.coreSynMstat]; omega))).2
  obtain ⟨hcadds, hchits, honly, hacts⟩ := State.runCounted_fits hr hl (n := n) (k := run.length) (hits := run.length - (s.cor n).fetched)
    (by rw [hkadds]; exact hadds) (by rw [hkhits]; omega)
  rw [State.additionRun_eq hrun hw hne hmiss]
  have htaken : OnlyChanges [.cmd, .core, .reg] s (s.runAdded n w ws run) :=
    (State.setCor_Only _ _ (by decide) (.refl _ s)).trans hmade.only
  have hcor : ∀ k, ((s.runAdded n w ws run).runCounted n run.length (run.length - (s.cor n).fetched)).cor k = (s.runAdded n w ws run).cor k :=
    fun k => congrArg (fun c : CorePlane => Tab.get (fun _ => Core.empty) c.cores k) (honly.same .core (by decide))
  refine ⟨Frame_of_acts ((htaken.mono (by decide)).trans (honly.mono (by decide))) ((ActsOnly.of_only htaken (by decide)).trans hacts),
    ?_, fun k hk => ?_, by rw [hcadds, hkadds], by rw [hchits, hkhits]⟩
  · rw [hcor, hmade.cor, State.runTaken_cor hcanon]
  · rw [hcor, hmade.other k hk]
    exact State.cor_setCor_other hcores _ hk

end

/-- Settles O31: ROW_READ by what it makes of the buffer (`inBuffer_touchRow`) or of the window, ADDITION_RUN by the accumulators after a run
(`get_foldl_accAdd`), whose additions read rows that none of them changes (`runAdded_Added`). -/
theorem rowsAndAdditions : Obligations.RowsAndAdditions := by
  intro s core w ws a n c run m d adr reads adds hits weight hcanon ha hn hw
  constructor
  · intro buf hmiss hfit hcols
    constructor
    · intro hgood
      obtain ⟨hframe, hcor, hother, hreads, hregs⟩ := State.rowRead_good hcanon hw hmiss hfit hgood
      have hsize : rowEntries (s.rowOf n a).2 ≤ 8 := rowEntries_le hcols
      exact Run_of_live (f := fun s => s.rowRead n) ha rfl hframe ⟨⟨_, hcor, inBuffer_touchRow hsize buf, length_touchRow_le hsize buf,
        fun k hk => mem_touchRow hsize buf hk⟩, hother, hreads, hregs⟩
    · intro hbad
      obtain ⟨hframe, hshown⟩ := State.rowRead_bad hcanon hw hmiss hfit hbad hn
      exact Run_of_live (f := fun s => s.rowRead n) ha rfl hframe hshown
  · intro hne hmiss hacc hcols hadds hhits
    obtain ⟨hframe, hcor, hother, hcount⟩ := State.additionRun_made hcanon hw rfl hne hmiss hadds hhits
    refine Run_of_live (f := fun s => s.additionRun n) ha rfl hframe ?_
    rw [hcor]
    exact ⟨rfl, rfl, rfl, rfl, rfl, hother, wf_foldl_accAdd hacc run, fun x j hj => get_foldl_accAdd hacc hcols x hj, hcount⟩

end Sys2Proof.Machine
end

section
namespace Sys2Proof.Machine

/-! ## Tables of which a part is cleared, and numbers as bytes -/

/-- A table from which entries leave by their keys. -/
theorem Tab.get_filter_key {α : Type} [DecidableEq α] {d : Nat → α} {t : Tab α} (h : Tab.wf d t) (f : Nat → Bool) (k : Nat) :
    Tab.get d (t.filter (fun p => f p.1)) k = if f k then Tab.get d t k else d k := by
  induction t with
  | nil => exact (ite_self _).symm
  | cons p r ih =>
    have hbelow : ∀ q ∈ r, p.1 < q.1 := (List.pairwise_cons.mp h.1).1
    have hrest := ih (Tab.wf_tail h)
    rw [List.filter_cons]
    by_cases hpk : p.1 = k
    · subst hpk
      cases hf : f p.1 with
      | true => rw [if_pos rfl, if_pos rfl, Tab.get_cons_self, Tab.get_cons_self]
      | false => rw [if_neg (by decide), if_neg (by decide), hrest, hf, if_neg (by decide)]
    · have hcons : ∀ u : Tab α, (∀ q ∈ u, p.1 < q.1) → Tab.get d (p :: u) k = Tab.get d u k := fun u hu => by
        rw [Tab.get, if_neg hpk]
        split
        next hlt => exact (Tab.get_below fun q hq => hlt.trans (hu q hq)).symm
        next => rfl
      rw [hcons r hbelow, ← hrest]
      split
      · exact hcons _ fun q hq => hbelow q (List.mem_filter.mp hq).1
      · rfl

theorem length_leBytes (n x : Nat) : (leBytes n x).length = n := by
  induction n generalizing x with
  | zero => rfl
  | succ n ih => exact congrArg (· + 1) (ih (x / 256))

/-- A number that `n` bytes hold is the number of its bytes (R15). -/
theorem leNat_leBytes {n x : Nat} (h : x < 256 ^ n) : leNat (leBytes n x) = x := by
  induction n generalizing x with
  | zero => exact (Nat.lt_one_iff.mp h).symm
  | succ n ih =>
    have hq : x / 256 < 256 ^ n := Nat.div_lt_of_lt_mul (by rwa [Nat.pow_succ, Nat.mul_comm] at h)
    rw [leBytes, leNat, ih hq, BitVec.toNat_ofNat]
    exact Nat.mod_add_div x 256

theorem unsigned_lt (w : Nat) (x : Int) : unsigned w x < 2 ^ w := by
  have hpos : (0 : Int) < 2 ^ w := by positivity
  have hnonneg := Int.emod_nonneg x hpos.ne'
  have hlt := Int.emod_lt_of_pos x hpos
  unfold unsigned
  zify
  rw [Int.toNat_of_nonneg hnonneg]
  exact hlt

end Sys2Proof.Machine
end

section
namespace Sys2Proof.Machine

/-! ## WINDOW_FLUSH (R104, R105) -/

/-- The bytes of the IN field. -/
def Slot.inWidth (t : Slot) : Nat := if t.ftype t.inField = 2 then 4 else 2
/-- Where the IN field of local neuron `j` of a context lies. -/
def inAddr (c : Ctx) (t : Slot) (j : Nat) : Nat := recordAddr c t j + 2 * t.inField
/-- The write of an IN field, from its address on. -/
def inWrite (c : Ctx) (t : Slot) (j : Nat) (x : Int) : Nat × List Byte := (inAddr c t j, leBytes t.inWidth (unsigned (8 * t.inWidth) x))

theorem State.putIn_eq (s : State) (c : Ctx) (t : Slot) (j : Nat) (x : Int) :
    s.putIn c t j x = s.putBytes (inWrite c t j x).1 (inWrite c t j x).2 := by
  unfold State.putIn inWrite Slot.inWidth
  dsimp only
  split <;> rfl

/-- The ACC_EXP of a tile: that of its first matrix. -/
def State.tileExp (s : State) (n t : Nat) : Int := ((s.tileMats n t).map (fun m => (s.mat n m).accExp)).headD 0
/-- The value of a flush for a context index and a column, with its clamp flags. -/
def State.flushed (s : State) (n slot x j : Nat) : Int × Bool × Bool :=
  flushValue (s.tileExp n slot) (s.slotAt n slot) (Tab.get (fun _ => 0) (s.cor n).acc (accKey x j))
/-- The values of a window's flush. -/
def State.flushVals (s : State) (n : Nat) (w : Window) : List (Nat × Nat × Int × Bool × Bool) :=
  w.ctxs.flatMap (fun x => (List.range (s.tileCols n w.slot)).map (fun j => (x, j, s.flushed n w.slot x j)))
/-- The IN fields that a flush writes: those of the contexts that there are. -/
def State.flushWrites (s : State) (b : Nat) (t : Slot) (vals : List (Nat × Nat × Int × Bool × Bool)) : List (Nat × List Byte) :=
  vals.filterMap (fun v => (s.ctxByIdx b v.1).map (fun p => inWrite p.2 t v.2.1 v.2.2.1))
/-- The core once its head window is flushed. -/
def Core.flushes (c : Core) (w : Window) (ws : List Window) : Core :=
  { c with windows := ws, acc := c.acc.filter (fun p => !w.ctxs.contains (p.1 / 8192)) }
/-- The registers are cleared and the IN fields written. -/
def State.flushDone (s : State) (n : Nat) (w : Window) (ws : List Window) : State :=
  let t := s.setCor n ((s.cor n).flushes w ws)
  if (s.slotAt n w.slot).inEn then t.putAll (s.flushWrites (s.cor n).binding.toNat (s.slotAt n w.slot) (s.flushVals n w)) else t

/-- The write of one value of a flush, if its context is there. -/
def State.putVal (s : State) (b : Nat) (t : Slot) (v : Nat × Nat × Int × Bool × Bool) : State :=
  match s.ctxByIdx b v.1 with
  | some p => s.putIn p.2 t v.2.1 v.2.2.1
  | none => s

theorem State.forAll_putVal (s : State) (b : Nat) (t : Slot) (vals : List (Nat × Nat × Int × Bool × Bool)) :
    s.forAll vals (fun s v => s.putVal b t v) = s.putAll (s.flushWrites b t vals) := by
  induction vals generalizing s with
  | nil => rfl
  | cons v r ih =>
    unfold State.flushWrites
    rw [List.filterMap_cons, State.forAll, List.foldl_cons, State.putVal]
    cases s.ctxByIdx b v.1 with
    | none => exact ih s
    | some p => exact (congrArg (State.forAll · r _) (s.putIn_eq _ _ _ _)).trans (ih (s.putBytes _ _))

/-- What a flush shows besides: the SAT of the tile's matrices, INSAT, and the status of the step. -/
def State.flushShows (s : State) (n b : Nat) (ms : List Nat) (sat insat : Bool) : State :=
  let s := if sat then s.forAll ms (fun s m => s.rsetBit (Reg.coreSynMstat n m) 0 true) else s
  let s := if insat then s.rsetBit (Reg.coreSynStatus n) 4 true else s
  if sat || insat then s.stepStatus b St.sat else s

theorem State.flushShows_shown (s : State) (n b : Nat) (ms : List Nat) (sat insat : Bool) :
    OnlyChanges [.cmd, .reg] s (s.flushShows n b ms sat insat) := by
  have hmats : OnlyChanges [.cmd, .reg] s (if sat then s.forAll ms (fun s m => s.rsetBit (Reg.coreSynMstat n m) 0 true) else s) := by
    split
    · exact .forAll (fun s m h => State.rsetBit_Only s _ _ _ (by decide) h) _ (.refl _ s)
    · exact .refl _ s
  have hclamp : ∀ t, OnlyChanges [.cmd, .reg] s t →
      OnlyChanges [.cmd, .reg] s (if insat then t.rsetBit (Reg.coreSynStatus n) 4 true else t) := fun t h => by
    split
    · exact State.rsetBit_Only _ _ _ _ (by decide) h
    · exact h
  unfold State.flushShows
  dsimp only
  split
  · exact State.stepStatus_Only _ b St.sat (by decide) (hclamp _ hmats)
  · exact hclamp _ hmats

theorem State.windowFlush_eq {s : State} {n : Nat} {w : Window} {ws : List Window} (hw : (s.cor n).windows = w :: ws)
    (ht : w.todo = []) : s.windowFlush n = (s.flushDone n w ws).flushShows n (s.cor n).binding.toNat (s.tileMats n w.slot)
      ((s.flushVals n w).any (fun v => v.2.2.2.1)) ((s.slotAt n w.slot).inEn && (s.flushVals n w).any (fun v => v.2.2.2.2)) := by
  have hput := State.forAll_putVal (s.setCor n ((s.cor n).flushes w ws)) (s.cor n).binding.toNat (s.slotAt n w.slot) (s.flushVals n w)
  unfold State.windowFlush State.flushDone
  dsimp only
  rw [hw]
  dsimp only
  rw [if_neg (by simp [ht]), show s.flushWrites = (s.setCor n ((s.cor n).flushes w ws)).flushWrites from rfl, ← hput]
  rfl

end Sys2Proof.Machine
end

section
namespace Sys2Proof.Machine

theorem length_inWrite (c : Ctx) (t : Slot) (j : Nat) (x : Int) : (inWrite c t j x).2.length = t.inWidth := length_leBytes _ _

/-- The bytes of an IN field hold its value. -/
theorem leNat_inWrite (c : Ctx) (t : Slot) (j : Nat) (x : Int) : leNat (inWrite c t j x).2 = unsigned (8 * t.inWidth) x := by
  refine leNat_leBytes ((unsigned_lt (8 * t.inWidth) x).trans_eq ?_)
  rw [Nat.pow_mul]

/-- Places of `w` bytes, one to each stride `k`, do not meet. -/
theorem eq_of_same_stride {p k w off i j a : Nat} (h : off + w ≤ k) (hi : p + i * k + off ≤ a ∧ a < p + i * k + off + w)
    (hj : p + j * k + off ≤ a ∧ a < p + j * k + off + w) : i = j := by
  have hstep : ∀ {x y : Nat}, x < y → x * k + k ≤ y * k := fun hlt =>
    (Nat.succ_mul _ k).symm.trans_le (Nat.mul_le_mul_right k (Nat.succ_le_of_lt hlt))
  rcases Nat.lt_trichotomy i j with hlt | heq | hlt
  · have := hstep hlt
    omega
  · exact heq
  · have := hstep hlt
    omega

theorem inWrite_inj {c : Ctx} {t : Slot} {i j : Nat} {x y : Int} {a : Nat} (hs : 2 * t.inField + t.inWidth ≤ t.stride)
    (hi : covers (inWrite c t i x) a) (hj : covers (inWrite c t j y) a) : i = j := by
  rw [covers, length_inWrite] at hi hj
  exact eq_of_same_stride hs hi hj

theorem State.tileExp_eq (s : State) (n t : Nat) :
    s.tileExp n t = ((s.tileMats n t).head?.map (fun m => (s.mat n m).accExp)).getD 0 := by
  unfold State.tileExp
  cases s.tileMats n t <;> rfl

theorem State.tileCols_eq (s : State) (n t : Nat) :
    s.tileCols n t = ((s.tileMats n t).head?.map (fun m => (s.mat n m).ncol)).getD 0 := by
  unfold State.tileCols
  cases s.tileMats n t <;> rfl

/-- A flush writes an IN field for each context of the window that there is and each column of its tile. -/
theorem State.mem_flushWrites {s : State} {n b : Nat} {t : Slot} {w : Window} {v : Nat × List Byte} :
    v ∈ s.flushWrites b t (s.flushVals n w) ↔ ∃ x ∈ w.ctxs, ∃ j < s.tileCols n w.slot, ∃ p, s.ctxByIdx b x = some p ∧
      v = inWrite p.2 t j (s.flushed n w.slot x j).1 := by
  simp only [State.flushWrites, State.flushVals, List.mem_filterMap, List.mem_flatMap, List.mem_map, List.mem_range, Option.map_eq_some_iff]
  constructor
  · rintro ⟨_, ⟨x, hx, j, hj, rfl⟩, p, hp, rfl⟩
    exact ⟨x, hx, j, hj, p, hp, rfl⟩
  · rintro ⟨x, hx, j, hj, p, hp, rfl⟩
    exact ⟨_, ⟨x, hx, j, hj, rfl⟩, p, hp, rfl⟩

/-- The accumulators of the window's contexts, and no others, are cleared. -/
theorem Core.flushes_acc {c : Core} (h : Tab.wf (fun _ => (0 : Int)) c.acc) (w : Window) (ws : List Window) (x : Nat) {j : Nat} (hj : j < 8192) :
    Tab.get (fun _ => 0) (c.flushes w ws).acc (x * 8192 + j) = if x ∈ w.ctxs then 0 else Tab.get (fun _ => 0) c.acc (x * 8192 + j) := by
  have hkey : (x * 8192 + j) / 8192 = x := by omega
  refine (Tab.get_filter_key h (fun k => !w.ctxs.contains (k / 8192)) _).trans ?_
  rw [hkey]
  by_cases hx : x ∈ w.ctxs <;> simp [hx]

theorem State.byteAt_congr {s t : State} (h : t.mem = s.mem) (a : Nat) : t.byteAt a = s.byteAt a := by
  rw [State.byteAt, h]
  rfl

section
variable {s : State} {n : Nat} {w : Window} {ws : List Window}

theorem State.flushDone_core : (s.flushDone n w ws).core = (s.setCor n ((s.cor n).flushes w ws)).core := by
  unfold State.flushDone
  dsimp only
  split
  · exact (State.putAll_Only _ _).same .core (by decide)
  · rfl

theorem State.flushDone_mem (hin : (s.slotAt n w.slot).inEn = false) : (s.flushDone n w ws).mem = s.mem := by
  unfold State.flushDone
  dsimp only
  rw [hin]
  rfl

theorem State.flushDone_outside (hm : Memory.wf s.mem) {a : Nat}
    (ha : ∀ v ∈ s.flushWrites (s.cor n).binding.toNat (s.slotAt n w.slot) (s.flushVals n w), ¬ covers v a) :
    (s.flushDone n w ws).byteAt a = s.byteAt a := by
  unfold State.flushDone
  dsimp only
  split
  · exact State.putAll_outside (s := s.setCor n _) hm ha
  · rfl

/-- With one context in the window no two writes of the flush meet, and each IN field keeps its value. -/
theorem State.flushDone_inside (hm : Memory.wf s.mem) (hin : (s.slotAt n w.slot).inEn = true)
    (hs : 2 * (s.slotAt n w.slot).inField + (s.slotAt n w.slot).inWidth ≤ (s.slotAt n w.slot).stride) {x j : Nat} {p : Nat × Ctx}
    (hw : w.ctxs = [x]) (hp : s.ctxByIdx (s.cor n).binding.toNat x = some p) (hj : j < s.tileCols n w.slot) :
    (s.flushDone n w ws).leAt (inAddr p.2 (s.slotAt n w.slot) j) (s.slotAt n w.slot).inWidth =
      unsigned (8 * (s.slotAt n w.slot).inWidth) (s.flushed n w.slot x j).1 := by
  have hmem : inWrite p.2 (s.slotAt n w.slot) j (s.flushed n w.slot x j).1 ∈
      s.flushWrites (s.cor n).binding.toNat (s.slotAt n w.slot) (s.flushVals n w) :=
    State.mem_flushWrites.mpr ⟨x, by simp [hw], j, hj, p, hp, rfl⟩
  have hbytes := State.putAll_inside (s := s.setCor n ((s.cor n).flushes w ws)) hm hmem fun v hv hne a ⟨hca, hcv⟩ => by
    obtain ⟨y, hy, i, -, q, hq, rfl⟩ := State.mem_flushWrites.mp hv
    obtain rfl : y = x := by simpa [hw] using hy
    obtain rfl : q = p := Option.some.inj (hq.symm.trans hp)
    exact hne (by rw [inWrite_inj hs hca hcv])
  rw [length_inWrite] at hbytes
  unfold State.flushDone
  dsimp only
  rw [if_pos hin, ← leNat_inWrite p.2 _ j, ← hbytes]
  rfl

end

theorem windowFlushes : Spec.WindowFlushes := by
  intro s core w ws n c t m accExp ncol addr width value hcanon ha _ hw htodo hacc _
  have hcores := Canon_cores hcanon
  have hmem := Canon_mem hcanon
  have hexp : s.tileExp n w.slot = accExp := s.tileExp_eq n w.slot
  have hncol : s.tileCols n w.slot = ncol := s.tileCols_eq n w.slot
  have hshown := State.flushShows_shown (s.flushDone n w ws) n c.binding.toNat (s.tileMats n w.slot)
    ((s.flushVals n w).any (fun v => v.2.2.2.1)) (t.inEn && (s.flushVals n w).any (fun v => v.2.2.2.2))
  rw [← State.windowFlush_eq hw htodo] at hshown
  have hcor : ∀ k, (s.windowFlush n).cor k = (s.setCor n (c.flushes w ws)).cor k := fun k =>
    congrArg (fun z : CorePlane => Tab.get (fun _ => Core.empty) z.cores k) ((hshown.same .core (by decide)).trans State.flushDone_core)
  have hbytes : (s.windowFlush n).mem = (s.flushDone n w ws).mem := hshown.same .mem (by decide)
  refine To_of_live (f := fun s => s.windowFlush n) ha rfl
    (State.windowFlush_Only s n (by decide) (by decide) (by decide) (by decide) (.refl _ s)) ⟨⟨(c.flushes w ws).acc, ?_, ?_⟩, ?_, ?_, ?_, ?_⟩
  · exact (hcor n).trans (State.cor_setCor_same hcores n _)
  · exact fun x j hj => Core.flushes_acc hacc w ws x hj
  · exact fun k hk => (hcor k).trans (State.cor_setCor_other hcores _ hk)
  · exact fun hin => hbytes.trans (State.flushDone_mem hin)
  · intro a hout
    refine (State.byteAt_congr hbytes a).trans (State.flushDone_outside hmem fun v hv hc => ?_)
    obtain ⟨x, hx, j, hj, p, hp, rfl⟩ := State.mem_flushWrites.mp hv
    obtain ⟨hlo, hhi⟩ := hc
    rw [length_inWrite] at hhi
    exact (hout x hx p hp j (hj.trans_eq hncol)).elim (Nat.not_lt.mpr hlo) (Nat.not_le.mpr hhi)
  · intro hin hstride x p hx hp j hj
    have hfield := State.flushDone_inside (ws := ws) hmem hin hstride hx hp (hj.trans_eq hncol.symm)
    rw [State.flushed, hexp] at hfield
    exact (congrArg leNat (State.bytes_congr hbytes _ _)).trans hfield

end Sys2Proof.Machine
end

section
namespace Sys2Proof.Machine

/-! ## The end of a fill's command (R263, R288) -/

theorem Canon_streams {s : State} (h : Canon s) : Tab.wf (fun _ => Stream.empty) s.cmd.streams := by
  obtain ⟨-, -, -, hstreams, -⟩ := h
  exact hstreams

theorem irqParts_sub (h : Hdr) : ∀ p ∈ .cmd :: Spec.irqParts h, p ∈ [Part.cmd, .reg, .irq, .out, .eth] := by
  unfold Spec.irqParts
  split <;> decide

/-- A command has ended with the record `cpl`: it is no longer outstanding, and only the command plane has changed, with the interrupt's units
where it asks for one. -/
structure Ended (h : Hdr) (cpl : Cpl) (s t : State) : Prop where
  only   : OnlyChanges (.cmd :: Spec.irqParts h) s t
  record : h.quiet = false ∨ cpl.status ≠ St.ok → cpl ∈ t.cmd.cpls
  gone   : ∀ o ∈ (t.strm h.stream.toNat).outst, o.cseq ≠ cpl.cseq

section
variable {s : State} (hs : Tab.wf (fun _ => Stream.empty) s.cmd.streams) {h : Hdr} {cseq : Word64} (op st : Byte) (res : Nat)
include hs

theorem State.closedCmd_Ended : Ended h ⟨cseq, op, st, h.stream, BitVec.ofNat 40 res⟩ s (s.closedCmd h cseq op st res) := by
  have hgone : ∀ t : State, t.cmd.streams = (s.setStrm h.stream.toNat { s.strm h.stream.toNat with
      outst := (s.strm h.stream.toNat).outst.filter (fun o => o.cseq ≠ cseq), lastStatus := st, lastOpcode := op }).cmd.streams →
      ∀ o ∈ (t.strm h.stream.toNat).outst, o.cseq ≠ cseq := fun t ht o ho => by
    rw [State.strm, ht] at ho
    change o ∈ (State.strm (State.setStrm _ _ _) _).outst at ho
    rw [State.strm_setStrm_same hs] at ho
    exact of_decide_eq_true (List.mem_filter.mp ho).2
  unfold State.closedCmd
  dsimp only
  split
  next hq =>
    obtain ⟨hquiet, hok⟩ := Bool.and_eq_true_iff.mp hq
    refine ⟨State.setStrm_Only _ _ List.mem_cons_self (.refl _ s), fun hshown => ?_, hgone _ rfl⟩
    exact absurd hshown (by simp [hquiet, of_decide_eq_true hok])
  next =>
    exact ⟨State.record_Only _ _ _ _ _ _ List.mem_cons_self (State.setStrm_Only _ _ List.mem_cons_self (.refl _ s)),
      fun _ => List.mem_append_right _ (List.mem_singleton_self _), hgone _ rfl⟩

theorem State.finish_Ended (hout : s.isOut h cseq = true) :
    Ended h ⟨cseq, op, st, h.stream, BitVec.ofNat 40 res⟩ s (s.finish h cseq op st res) := by
  have hclosed := State.closedCmd_Ended hs (h := h) (cseq := cseq) op st res
  rw [State.finish, if_pos hout, State.complete_eq]
  generalize s.closedCmd h cseq op st res = t at hclosed
  split
  next hirq =>
    have hcmd := State.raise_cmd t (201 + h.stream.toNat)
    refine ⟨?_, ?_, ?_⟩
    · exact State.raise_Only _ _ (by simp [Spec.irqParts, hirq]) (by simp [Spec.irqParts, hirq]) (by simp [Spec.irqParts, hirq])
        (by simp [Spec.irqParts, hirq]) hclosed.only
    · rw [hcmd]; exact hclosed.record
    · rw [State.strm, hcmd]; exact hclosed.gone
  next => exact hclosed

end

theorem State.kickCirc_none {s : State} {c : Nat} (h : (s.circ c).flows = []) : s.kickCirc c = s := by
  unfold State.kickCirc
  rw [h]

/-- The end of a fill whose circuit has no flow starts none (R384). -/
theorem State.fillEnds_eq {s : State} {q : BerthCmd} {op st : Byte} {res : Nat} (hf : (s.circ q.circuit.toNat).flows = [])
    (hfab : (s.finish q.hdr q.cseq op st res).fab = s.fab) :
    (s.finish q.hdr q.cseq op st res).kickCirc q.circuit.toNat = s.finish q.hdr q.cseq op st res :=
  State.kickCirc_none (by rw [State.circ, hfab]; exact hf)

/-! ## A core's berths (R114) -/

section
variable (c : Core) (b : Nat) (x : Berth)

theorem Core.berth_setBerth_same : (c.setBerth b x).berth b = x := by
  unfold Core.setBerth Core.berth
  split <;> rfl
theorem Core.berth_setBerth_other {b : Nat} (hb : b < 2) : (c.setBerth b x).berth (1 - b) = c.berth (1 - b) := by
  obtain rfl | rfl : b = 0 ∨ b = 1 := by omega
  · rfl
  · rfl
theorem Core.setBerth_berthQ : (c.setBerth b x).berthQ = c.berthQ := by
  unfold Core.setBerth
  split <;> rfl
theorem Core.setBerth_rowBuf : (c.setBerth b x).rowBuf = c.rowBuf := by
  unfold Core.setBerth
  split <;> rfl
theorem Core.setBerth_windows : (c.setBerth b x).windows = c.windows := by
  unfold Core.setBerth
  split <;> rfl

end

/-! ## A fill begins (R116, R384) -/

/-- The core once the fill of the command `q` has begun. -/
def Core.fillBegun (c : Core) (n b : Nat) (q : BerthCmd) (packet : Bool) : Core :=
  ({ c with berthQ := c.berthQ.filter (fun z => z.order ≠ q.order) }.setBerth b { c.berth b with
    state := 1, matrix := q.matrix, first := q.first, last := q.last, packet := packet, cur := some q }).dropRows
      (Mem.store n 0 + (c.berth b).base.toNat * 4096) ((c.berth b).lines.toNat * 4096)

theorem State.fillAhead_none {s : State} {c : BitVec 8} {order : Nat}
    (h : ∀ k y, (k, y) ∈ s.core.cores → (∀ z ∈ [y.berth0, y.berth1], ∀ v, z.cur = some v → v.circuit ≠ c) ∧
      (∀ v ∈ y.berthQ, v.circuit = c → order ≤ v.order)) : s.fillAhead c.toNat order = false := by
  refine List.any_eq_false.mpr fun ⟨k, y⟩ hy hahead => ?_
  obtain ⟨hcur, hqueue⟩ := h k y hy
  rcases Bool.or_eq_true_iff.mp hahead with hfill | hwait
  · obtain ⟨z, hz, hv⟩ := List.any_eq_true.mp hfill
    obtain ⟨v, hv, hc⟩ := (Option.any_eq_true _ _).mp hv
    exact hcur z hz v hv (BitVec.eq_of_toNat_eq (of_decide_eq_true hc))
  · obtain ⟨v, hv, hc⟩ := List.any_eq_true.mp hwait
    obtain ⟨hc, horder⟩ := Bool.and_eq_true_iff.mp hc
    exact Nat.not_lt.mpr (hqueue v hv (BitVec.eq_of_toNat_eq (of_decide_eq_true hc))) (of_decide_eq_true horder)

theorem State.berthFillStart_eq {s : State} {n b : Nat} {q : BerthCmd} (hq : (s.cor n).berthQ.find? (fun z => z.b.toNat = b) = some q)
    (hfree : ((s.cor n).berth b).state = 0 ∨ ((s.cor n).berth b).state = 3 ∨
      (((s.cor n).berth b).state = 1 ∧ ((s.cor n).berth b).cur = none))
    (hahead : s.fillAhead q.circuit.toNat q.order = false)
    (hflows : ∀ f ∈ (s.circ q.circuit.toNat).flows, f.going = false ∧ q.order ≤ f.order) :
    s.berthFillStart n b = s.setCor n ((s.cor n).fillBegun n b q (!s.circuitUp q.circuit.toNat)) := by
  have hnone : (s.circ q.circuit.toNat).flows.any (fun f => f.going || decide (f.order < q.order)) = false :=
    List.any_eq_false.mpr fun f hf => by simp [hflows f hf]
  unfold State.berthFillStart
  dsimp only
  rw [hq]
  dsimp only
  rw [hahead, hnone, decide_eq_true hfree, if_neg (by decide)]
  rfl

/-! ## The rows of a fill (R94, R119) -/

/-- The writes of a fill at `a`: the rows of the matrix as they stand in HBM. -/
def State.fillWrites (s : State) (d : MatDesc) (a : Nat) (rs : List Nat) : List (Nat × List Byte) :=
  rs.map (fun r => (a + r * d.stride, storeLayout d.fmt d.ncol (s.bytes (Mem.hbm + d.haddr + r * d.stride) d.stride)))

theorem State.bytes_eq_of_byteAt {s t : State} {lo k : Nat} (h : ∀ a, lo ≤ a → t.byteAt a = s.byteAt a) (hk : lo ≤ k) (n : Nat) :
    t.bytes k n = s.bytes k n := by
  induction n generalizing k with
  | zero => rfl
  | succ n ih => rw [State.bytes, State.bytes, h k hk, ih (hk.trans (Nat.le_succ k))]

/-- A fill that writes below HBM reads rows that none of its writes changes. -/
theorem State.forAll_fill {s t : State} {d : MatDesc} {a : Nat} {rs : List Nat} (hm : Memory.wf t.mem)
    (hsame : ∀ k, Mem.hbm ≤ k → t.byteAt k = s.byteAt k)
    (hbelow : ∀ w ∈ s.fillWrites d a rs, w.1 + w.2.length ≤ Mem.hbm) :
    t.forAll rs (fun t r => t.putBytes (a + r * d.stride) (storeLayout d.fmt d.ncol (t.bytes (Mem.hbm + d.haddr + r * d.stride) d.stride))) =
      t.putAll (s.fillWrites d a rs) := by
  induction rs generalizing t with
  | nil => rfl
  | cons r rs ih =>
    obtain ⟨hfirst, hrest⟩ := List.forall_mem_cons.mp hbelow
    have hrow : t.bytes (Mem.hbm + d.haddr + r * d.stride) d.stride = s.bytes (Mem.hbm + d.haddr + r * d.stride) d.stride :=
      State.bytes_eq_of_byteAt hsame (by omega) _
    rw [State.forAll, List.foldl_cons, hrow]
    refine ih (Memory.putBytes_wf hm _ _) (fun k hk => ?_) hrest
    refine (Memory.get_putBytes_outside hm _ ?_).trans (hsame k hk)
    rintro ⟨-, hlt⟩
    exact absurd (hlt.trans_le hfirst) (Nat.not_lt.mpr hk)

end Sys2Proof.Machine
end

section
namespace Sys2Proof.Machine

section
variable {s : State} {n k : Nat} {d : MatDesc}
  (hlen : ∀ r, r < d.nrows → (storeLayout d.fmt d.ncol (s.bytes (Mem.hbm + d.haddr + r * d.stride) d.stride)).length = d.stride)
include hlen

/-- Each write of a fill takes its row's place. -/
theorem State.fillWrites_place {a : Nat} {w : Nat × List Byte} (hw : w ∈ s.fillWrites d a (List.range d.nrows)) :
    ∃ r < d.nrows, w.1 = a + r * d.stride ∧ w.2.length = d.stride ∧
      w.2 = storeLayout d.fmt d.ncol (s.bytes (Mem.hbm + d.haddr + r * d.stride) d.stride) ∧ w.1 + w.2.length ≤ a + d.nrows * d.stride := by
  obtain ⟨r, hr, rfl⟩ := List.mem_map.mp hw
  have hlt := List.mem_range.mp hr
  have hstep : (r + 1) * d.stride ≤ d.nrows * d.stride := Nat.mul_le_mul_right _ hlt
  rw [Nat.succ_mul] at hstep
  refine ⟨r, hlt, rfl, hlen r hlt, rfl, ?_⟩
  dsimp only
  rw [hlen r hlt]
  omega

theorem State.fillWrites_apart {a x : Nat} {v w : Nat × List Byte} (hv : v ∈ s.fillWrites d a (List.range d.nrows))
    (hw : w ∈ s.fillWrites d a (List.range d.nrows)) (hcv : covers v x) (hcw : covers w x) : v = w := by
  obtain ⟨i, -, hplace, hlast, hrow, -⟩ := State.fillWrites_place hlen hv
  obtain ⟨j, -, hplace', hlast', hrow', -⟩ := State.fillWrites_place hlen hw
  rw [covers, hplace, hlast] at hcv
  rw [covers, hplace', hlast'] at hcw
  obtain rfl : i = j := eq_of_same_stride (off := 0) (w := d.stride) (Nat.zero_add _).le hcv hcw
  exact Prod.ext (hplace.trans hplace'.symm) (hrow.trans hrow'.symm)

theorem State.fillRows_eq (hm : Memory.wf s.mem) (hn : n < 16) (hfit : Mem.store n 0 + k + d.nrows * d.stride ≤ Mem.store n 1) :
    s.fillRows n d k = s.putAll (s.fillWrites d (Mem.store n 0 + k) (List.range d.nrows)) := by
  refine State.forAll_fill hm (fun _ _ => rfl) fun w hw => ?_
  obtain ⟨-, -, -, -, -, hend⟩ := State.fillWrites_place hlen hw
  have hstore : Mem.store n 1 ≤ Mem.hbm := by
    unfold Mem.store Mem.hbm
    omega
  exact hend.trans (hfit.trans hstore)

theorem State.fillRows_outside (hm : Memory.wf s.mem) (hn : n < 16) (hfit : Mem.store n 0 + k + d.nrows * d.stride ≤ Mem.store n 1)
    {a : Nat} (ha : a < Mem.store n 0 + k ∨ Mem.store n 0 + k + d.nrows * d.stride ≤ a) : (s.fillRows n d k).byteAt a = s.byteAt a := by
  rw [State.fillRows_eq hlen hm hn hfit]
  refine State.putAll_outside hm fun w hw ⟨hlo, hhi⟩ => ?_
  obtain ⟨r, -, hplace, -, -, hend⟩ := State.fillWrites_place hlen hw
  rw [hplace] at hlo
  omega

theorem State.fillRows_inside (hm : Memory.wf s.mem) (hn : n < 16) (hfit : Mem.store n 0 + k + d.nrows * d.stride ≤ Mem.store n 1)
    {r : Nat} (hr : r < d.nrows) : (s.fillRows n d k).bytes (Mem.store n 0 + k + r * d.stride) d.stride =
      storeLayout d.fmt d.ncol (s.bytes (Mem.hbm + d.haddr + r * d.stride) d.stride) := by
  rw [State.fillRows_eq hlen hm hn hfit]
  have hmem := List.mem_map_of_mem (f := fun r => (Mem.store n 0 + k + r * d.stride,
    storeLayout d.fmt d.ncol (s.bytes (Mem.hbm + d.haddr + r * d.stride) d.stride))) (List.mem_range.mpr hr)
  have hrow := State.putAll_inside hm hmem fun v hv hne a ⟨hw, hc⟩ => hne (State.fillWrites_apart hlen hv hmem hc hw)
  rwa [hlen r hr] at hrow

end

/-! ## The traffic of a fill (R362, R499) -/

theorem FileOnly.forAll {l : List Nat} {α : Type} {f : State → α → State} (hf : ∀ s x, FileOnly l s (f s x)) (xs : List α) (s : State) :
    FileOnly l s (s.forAll xs f) := by
  induction xs generalizing s with
  | nil => exact .refl l s
  | cons x r ih => exact (hf s x).trans (ih (f s x))

theorem FileOnly.longWrap {l : List Nat} (s : State) {k : Nat} (n : Nat) (hk : k ∈ l) : FileOnly l s (s.longWrap k n).1 := longSet s _ hk

theorem mem_grRegs {a : Nat} : a ∈ Spec.grRegs ↔ (a = Reg.irqMerged ∨ a = Reg.irqLastm) ∨ ∃ h < 4, a = Reg.hbmGrLo h ∨ a = Reg.hbmStat h := by
  simp only [Spec.grRegs, List.mem_append, List.mem_flatMap, List.mem_range, List.mem_cons, List.not_mem_nil, or_false]

theorem State.granule_FileOnly (s : State) (wr : Bool) (g : Nat) : FileOnly Spec.grRegs s (s.granule wr g) := by
  have hstack := hbmStack_lt g
  have hacts : FileOnly Spec.grRegs s (s.unitActs 1 (if wr then 1 else 0) 1) := .of_reg rfl
  have hcount : FileOnly Spec.grRegs s ((s.unitActs 1 (if wr then 1 else 0) 1).longWrap (Reg.hbmGrLo (hbmStack g)) 1).1 :=
    hacts.trans (.longWrap _ 1 (mem_grRegs.mpr (.inr ⟨_, hstack, .inl rfl⟩)))
  refine .ite (fun _ => hcount.trans ((FileOnly.rsetBit _ 2 true ?_).trans ((State.raise_FileOnly _ _).mono ?_))) fun _ => hcount
  · exact mem_grRegs.mpr (.inr ⟨_, hstack, .inr rfl⟩)
  · exact fun a ha => mem_grRegs.mpr (.inl (by simpa using ha))

theorem State.moved_FileOnly (s : State) (wr : Bool) (a n : Nat) : FileOnly Spec.grRegs s (s.moved wr a n) := by
  refine .ite (fun _ => ?_) fun _ => .refl _ s
  rw [State.countGranules_eq]
  exact .ite (fun _ => .refl _ s) fun _ => .forAll (fun s g => s.granule_FileOnly wr g) _ s

theorem State.moved_parts (s : State) (wr : Bool) (a n : Nat) : OnlyChanges [.reg, .eth, .gov, .irq, .out] s (s.moved wr a n) :=
  State.moved_Only s wr a n (by decide) (by decide) (by decide) (by decide) (by decide) (.refl _ s)

/-! ## A fill ends (R115, R288) -/

theorem Ended.cor {h : Hdr} {cpl : Cpl} {s t : State} (hended : Ended h cpl s t) (n : Nat) : t.cor n = s.cor n := by
  rw [State.cor, (hended.only.mono (irqParts_sub h)).same .core (by decide)]
  rfl

/-- Without IRQ an end changes no register. -/
theorem Ended.reg {h : Hdr} {cpl : Cpl} {s t : State} (hended : Ended h cpl s t) (hirq : h.irq = false) : t.reg = s.reg :=
  (hended.only.mono (M := [.cmd]) (by simp [Spec.irqParts, hirq])).same .reg (by decide)

theorem State.phase1Over_congr {s t : State} (h : t.cmd = s.cmd) (c : Core) (k : Nat) : t.phase1Over c k = s.phase1Over c k := by
  unfold State.phase1Over State.bnd
  rw [h]

theorem State.phase1Try_FileOnly (s : State) (n : Nat) : FileOnly [Reg.coreSynStatus n] s (s.phase1Try n) :=
  .ite (fun _ => .rsetBit s 0 true (by simp)) fun _ => .refl _ s

theorem State.phase1Try_regOnly (s : State) (n : Nat) : OnlyChanges [.reg] s (s.phase1Try n) :=
  State.phase1Try_Only s n (by decide) (.refl _ s)

/-- A fill whose read was uncorrectable is over, and its berth stays as it is. -/
def State.fillLost (s : State) (n b : Nat) : State := s.setCor n ((s.cor n).setBerth b { (s.cor n).berth b with cur := none })

/-- The rows of a fill stand in the berth at `k`, and HBM has counted their traffic. -/
def State.fillWritten (s : State) (n k : Nat) (d : MatDesc) : State :=
  (s.fillRows n d k).moved false (Mem.hbm + d.haddr) (d.nrows * d.stride)

/-- The core once its berth `b` is filled: the berth is READY, or SPENT where phase 1 of its LAST step is over. -/
def State.filledCore (s : State) (n b : Nat) (d : MatDesc) : Core :=
  let x := (s.cor n).berth b
  ((s.cor n).setBerth b { x with state := if s.phase1Over (s.cor n) x.last.toNat then 3 else 2, cur := none }).dropRows
    (Mem.store n 0 + x.base.toNat * 4096) (d.nrows * d.stride)

/-- A berth has been filled. -/
def State.filled (s : State) (n b : Nat) (d : MatDesc) : State :=
  (s.fillWritten n (((s.cor n).berth b).base.toNat * 4096) d).setCor n (s.filledCore n b d)

theorem State.fillWritten_parts (s : State) (n k : Nat) (d : MatDesc) :
    OnlyChanges [.mem, .reg, .eth, .gov, .irq, .out] s (s.fillWritten n k d) :=
  ((State.fillRows_Only s n d k (by decide) (.refl [.mem] s)).mono (by decide)).trans ((State.moved_parts _ _ _ _).mono (by decide))

theorem State.fillWritten_bytes (s : State) (n k : Nat) (d : MatDesc) : (s.fillWritten n k d).mem = (s.fillRows n d k).mem :=
  State.moved_mem _ _ _ _

theorem State.fillWritten_Acts (s : State) (n k : Nat) (d : MatDesc) : ActsOnly s (s.fillWritten n k d) :=
  (ActsOnly.of_only (State.fillRows_Only s n d k (by decide) (.refl [.mem] s)) (by decide)).trans (State.moved_Acts _ _ _ _)

theorem State.fillWritten_FileOnly (s : State) (n k : Nat) (d : MatDesc) : FileOnly Spec.grRegs s (s.fillWritten n k d) :=
  (FileOnly.of_reg ((State.fillRows_Only s n d k (by decide) (.refl [.mem] s)).same .reg (by decide))).trans (State.moved_FileOnly _ _ _ _)

theorem State.filled_parts (s : State) (n b : Nat) (d : MatDesc) : OnlyChanges [.core, .mem, .reg, .eth, .gov, .irq, .out] s (s.filled n b d) :=
  State.setCor_Only _ _ (by decide) ((State.fillWritten_parts s n _ d).mono (by decide))

theorem State.filled_mem (s : State) (n b : Nat) (d : MatDesc) :
    (s.filled n b d).mem = (s.fillRows n d (((s.cor n).berth b).base.toNat * 4096)).mem := State.fillWritten_bytes _ _ _ _

theorem State.filled_cor {s : State} (h : Tab.wf (fun _ => Core.empty) s.core.cores) (n b : Nat) (d : MatDesc) :
    (s.filled n b d).cor n = s.filledCore n b d := by
  refine State.cor_setCor_same (s := s.fillWritten n _ d) ?_ n _
  rw [(State.fillWritten_parts s n _ d).same .core (by decide)]
  exact h

theorem State.filled_Acts (s : State) (n b : Nat) (d : MatDesc) : ActsOnly s (s.filled n b d) :=
  (State.fillWritten_Acts s n _ d).trans (.of_only (State.setCor_Only (L := [.core]) _ _ (by decide) (.refl _ _)) (by decide))

theorem State.filled_FileOnly (s : State) (n b : Nat) (d : MatDesc) : FileOnly Spec.grRegs s (s.filled n b d) :=
  (State.fillWritten_FileOnly s n _ d).trans (.of_reg rfl)

theorem State.berthReady_eq {s : State} {n b : Nat} {q : BerthCmd} (hq : ((s.cor n).berth b).cur = some q) : s.berthReady n b =
    let d := s.mat n q.matrix.toNat
    if s.badRange (Mem.hbm + d.haddr) (d.nrows * d.stride) then
      ((s.fillLost n b).finish q.hdr q.cseq 0x25 St.eccFatal 0).kickCirc q.circuit.toNat
    else (((s.filled n b d).finish q.hdr q.cseq 0x25 St.ok (if ((s.cor n).berth b).packet then 1 else 0)).kickCirc q.circuit.toNat).phase1Try n := by
  have hover := State.phase1Over_congr ((State.fillWritten_parts s n (((s.cor n).berth b).base.toNat * 4096) (s.mat n q.matrix.toNat)).same .cmd
    (by decide)) (s.cor n) ((s.cor n).berth b).last.toNat
  unfold State.berthReady State.filled State.filledCore
  dsimp only
  rw [hq, ← hover]
  rfl

section
variable {s : State} {n b : Nat} {q : BerthCmd} (hcanon : Canon s) (hq : ((s.cor n).berth b).cur = some q)
  (hout : s.isOut q.hdr q.cseq = true) (hflows : (s.circ q.circuit.toNat).flows = [])
include hcanon hq hout hflows

/-- An uncorrectable read ends the command alone. -/
theorem State.berthReady_bad
    (hbad : s.badRange (Mem.hbm + (s.mat n q.matrix.toNat).haddr) ((s.mat n q.matrix.toNat).nrows * (s.mat n q.matrix.toNat).stride) = true) :
    Ended q.hdr ⟨q.cseq, 0x25, St.eccFatal, q.hdr.stream, BitVec.ofNat 40 0⟩ (s.fillLost n b) (s.berthReady n b) := by
  have hended := State.finish_Ended (s := s.fillLost n b) (Canon_streams (s := s) hcanon) 0x25 St.eccFatal 0 hout
  rw [State.berthReady_eq hq]
  dsimp only
  have hfab : ((s.fillLost n b).finish q.hdr q.cseq 0x25 St.eccFatal 0).fab = (s.fillLost n b).fab :=
    (hended.only.mono (irqParts_sub _)).same .fab (by decide)
  rw [if_pos hbad, State.fillEnds_eq (s := s.fillLost n b) hflows hfab]
  exact hended

/-- A good read fills the berth, ends the command and lets phase 1 begin. -/
theorem State.berthReady_good {d : MatDesc} (hd : s.mat n q.matrix.toNat = d)
    (hgood : s.badRange (Mem.hbm + d.haddr) (d.nrows * d.stride) = false) :
    ∃ t, Ended q.hdr ⟨q.cseq, 0x25, St.ok, q.hdr.stream, BitVec.ofNat 40 (if ((s.cor n).berth b).packet then 1 else 0)⟩ (s.filled n b d) t ∧
      s.berthReady n b = t.phase1Try n := by
  have hparts := State.filled_parts s n b d
  have hcmd : (s.filled n b d).cmd = s.cmd := hparts.same .cmd (by decide)
  have hfab : (s.filled n b d).fab = s.fab := hparts.same .fab (by decide)
  have hended := State.finish_Ended (s := s.filled n b d) (by rw [hcmd]; exact Canon_streams hcanon) (cseq := q.cseq) (h := q.hdr) 0x25 St.ok
    (if ((s.cor n).berth b).packet then 1 else 0) (by rw [State.isOut, State.strm, hcmd]; exact hout)
  refine ⟨_, hended, ?_⟩
  rw [State.berthReady_eq hq]
  dsimp only
  rw [hd, hgood, if_neg (by decide), State.fillEnds_eq (by rw [State.circ, hfab]; exact hflows)
    ((hended.only.mono (irqParts_sub _)).same .fab (by decide))]

end

end Sys2Proof.Machine
end

section
namespace Sys2Proof.Machine

theorem Ended.tried_parts {h : Hdr} {cpl : Cpl} {s t : State} (hended : Ended h cpl s t) (n : Nat) :
    OnlyChanges [.cmd, .reg, .irq, .out, .eth] s (t.phase1Try n) :=
  (hended.only.mono (irqParts_sub h)).trans ((State.phase1Try_regOnly t n).mono (by decide))

/-- Ends are shown in the same way once phase 1 has been tried. -/
theorem Ended.tried_shown {h : Hdr} {cpl : Cpl} {s t : State} (hended : Ended h cpl s t) (n : Nat) :
    (h.quiet = false ∨ cpl.status ≠ St.ok → cpl ∈ (t.phase1Try n).cmd.cpls) ∧
    ∀ o ∈ ((t.phase1Try n).strm h.stream.toNat).outst, o.cseq ≠ cpl.cseq := by
  have hcmd : (t.phase1Try n).cmd = t.cmd := (State.phase1Try_regOnly t n).same .cmd (by decide)
  rw [State.strm, hcmd]
  exact ⟨hended.record, hended.gone⟩

theorem berthFills : Spec.BerthFills := by
  intro s core b q n c x d row base done hcanon ha hn
  have hcores := Canon_cores hcanon
  refine ⟨fun hq hfree hcircuit hflows => ?_, fun hq hout hflows hbad => ?_, fun hq hout hflows hgood => ?_⟩
  · have hstart := State.berthFillStart_eq hq hfree (State.fillAhead_none hcircuit) hflows
    refine To_of_live (f := fun s => s.berthFillStart n b.toNat) ha rfl (State.berthFillStart_Only s n _ (by decide) (.refl _ s)) ?_
    rw [hstart, State.cor_setCor_same hcores]
    exact ⟨Core.berth_setBerth_same _ _ _, Core.setBerth_berthQ _ _ _, Core.berth_setBerth_other _ _ b.isLt,
      congrArg (List.filter _) (Core.setBerth_rowBuf _ _ _), Core.setBerth_windows _ _ _, fun k hk => State.cor_setCor_other hcores _ hk⟩
  · have hended := State.berthReady_bad hcanon hq hout hflows hbad
    have hlost : OnlyChanges [.core] s (s.fillLost n b.toNat) := State.setCor_Only _ _ (by decide) (.refl _ s)
    have honly : OnlyChanges ([.cmd, .core] ++ Spec.irqParts q.hdr) s (s.berthReady n b.toNat) :=
      (hlost.mono (by simp)).trans (hended.only.mono (by simp +contextual))
    have hgov : Part.gov ∉ [.cmd, .core] ++ Spec.irqParts q.hdr := by
      unfold Spec.irqParts
      split <;> decide
    refine Run_of_live (f := fun s => s.berthReady n b.toNat) ha rfl (Frame_of_only honly hgov) ⟨?_, hended.record, hended.gone⟩
    rw [hended.cor, State.fillLost, State.cor_setCor_same hcores]
    exact Core.berth_setBerth_same _ _ _
  · obtain ⟨t, hended, ht⟩ := State.berthReady_good (d := d) hcanon hq hout hflows rfl hgood
    have hfilled := State.filled_parts s n b.toNat d
    have hrest := hended.tried_parts n
    have hcor : (t.phase1Try n).cor n = s.filledCore n b.toNat d := by
      rw [State.cor, hrest.same .core (by decide)]
      exact State.filled_cor hcores n b.toNat d
    have hmem : (t.phase1Try n).mem = (s.fillRows n d (x.base.toNat * 4096)).mem :=
      (hrest.same .mem (by decide)).trans (State.filled_mem s n b.toNat d)
    have hframe : Spec.Frame [.cmd, .core, .mem, .reg, .irq, .out, .eth] s (t.phase1Try n) :=
      Frame_of_acts ((hfilled.mono (by decide)).trans (hrest.mono (by decide)))
        ((State.filled_Acts s n b.toNat d).trans (.of_only hrest (by decide)))
    refine Run_of_live (f := fun s => s.berthReady n b.toNat) ha rfl (ht ▸ hframe) ?_
    rw [ht]
    refine ⟨fun hirq => ?_, ?_, hended.tried_shown n, ?_, ?_⟩
    · have hfile := (State.filled_FileOnly s n b.toNat d).trans (.of_reg (hended.reg hirq))
      exact ((hfile.mono fun a ha => List.mem_cons_of_mem _ ha).trans ((State.phase1Try_FileOnly t n).mono (by simp))).onlyRegs
        (Canon_vals hcanon) (Canon_live hcanon)
    · rw [hcor]
      exact Core.berth_setBerth_same _ _ _
    · rw [hcor]
      exact congrArg (List.filter _) (Core.setBerth_rowBuf _ _ _)
    · intro hlen hfit
      have hinside := fun r => State.fillRows_inside (r := r) hlen (Canon_mem hcanon) hn hfit
      have houtside := fun a => State.fillRows_outside (a := a) hlen (Canon_mem hcanon) hn hfit
      exact ⟨fun r hr => (State.bytes_congr hmem _ _).trans (hinside r hr), fun a ha => (State.byteAt_congr hmem a).trans (houtside a ha)⟩

/-- Settles O32: a flush by its writes into IN fields (`flushDone_outside`, `flushDone_inside`); a fill by the state it begins from
(`berthFillStart_eq`), its rows (`fillRows_inside`, `fillRows_outside`) and the end of its command (`Ended`). -/
theorem flushesAndFills : Obligations.FlushesAndFills := ⟨windowFlushes, berthFills⟩

end Sys2Proof.Machine
end

section
namespace Sys2Proof.Machine

/-! ## The tables of a core in its program and route store (R334) -/

/-- A byte of the program and route store of a core. -/
def tableByte (a : Nat) : Prop := ∃ n, n < 16 ∧ Mem.store n 4 ≤ a ∧ a < Mem.store n 5

/-- The program and route store of every core reads alike. -/
def SameTables (s t : State) : Prop := ∀ a, tableByte a → t.byteAt a = s.byteAt a

theorem State.bytes_eq_of_range {s t : State} {k n : Nat} (h : ∀ a, k ≤ a → a < k + n → t.byteAt a = s.byteAt a) :
    t.bytes k n = s.bytes k n := by
  induction n generalizing k with
  | zero => rfl
  | succ n ih => rw [State.bytes, State.bytes, h k (by omega) (by omega), ih fun a hlo hhi => h a (by omega) (by omega)]

namespace SameTables
variable {s t u : State}

theorem of_mem (h : t.mem = s.mem) : SameTables s t := fun a _ => State.byteAt_congr h a
theorem refl (s : State) : SameTables s s := of_mem rfl
theorem trans (h : SameTables s t) (g : SameTables t u) : SameTables s u := fun a ha => (g a ha).trans (h a ha)

theorem bytes (h : SameTables s t) {n k m : Nat} (hn : n < 16) (hlo : Mem.store n 4 ≤ k) (hhi : k + m ≤ Mem.store n 5) :
    t.bytes k m = s.bytes k m :=
  State.bytes_eq_of_range fun a _ _ => h a ⟨n, hn, by omega, by omega⟩

theorem leAt (h : SameTables s t) {n k m : Nat} (hn : n < 16) (hlo : Mem.store n 4 ≤ k) (hhi : k + m ≤ Mem.store n 5) :
    t.leAt k m = s.leAt k m := by
  rw [State.leAt, State.leAt, h.bytes hn hlo hhi]

theorem rule (h : SameTables s t) {n m : Nat} (hn : n < 16) (hm : m < 256) : t.rule n m = s.rule n m := by
  unfold State.rule
  refine congrArg RuleDesc.mk (List.map_congr_left fun k hk => ?_)
  have hk : k < 32 := List.mem_range.mp hk
  rw [h.leAt hn (by unfold ruleAddr; omega) (by unfold ruleAddr Mem.store; omega)]

theorem mat (h : SameTables s t) {n m : Nat} (hn : n < 16) (hm : m < 256) : t.mat n m = s.mat n m := by
  unfold State.mat
  refine congrArg MatDesc.ofWords (List.map_congr_left fun k hk => ?_)
  have hk : k < 8 := List.mem_range.mp hk
  rw [h.leAt hn (by unfold matAddr; omega) (by unfold matAddr Mem.store; omega)]

theorem rulesOf (h : SameTables s t) {n : Nat} (hn : n < 16) : t.rulesOf n = s.rulesOf n := by
  unfold State.rulesOf
  exact List.filter_congr fun m hm => by rw [h.rule hn (List.mem_range.mp hm)]

end SameTables

theorem State.mem_rulesOf {s : State} {n m : Nat} (h : m ∈ s.rulesOf n) : m < 256 := List.mem_range.mp (List.mem_filter.mp h).1

/-! ## Row traces (R158, R159) -/

/-- The row traces of a matrix: the rows and the traces of a row. -/
def rtPairs (rows nrt : Nat) : List (Nat × Nat) := List.range rows ×ˢ List.range nrt

theorem mem_rtPairs {rows nrt : Nat} {p : Nat × Nat} : p ∈ rtPairs rows nrt ↔ p.1 < rows ∧ p.2 < nrt := by
  obtain ⟨r, i⟩ := p
  simp [rtPairs]

theorem State.forAll_product {α β : Type} (f : State → α → β → State) (xs : List α) (ys : List β) (s : State) :
    s.forAll xs (fun s x => s.forAll ys (fun s y => f s x y)) = s.forAll (xs ×ˢ ys) (fun s p => f s p.1 p.2) := by
  simp only [State.forAll, SProd.sprod, List.product, List.foldl_flatMap, List.foldl_map]

/-- The bytes of a list, each changed by `f`. -/
theorem State.forAll_setByte {β : Type} (k : β → Nat) (f : β → Byte → Byte) (xs : List β) (s : State) :
    s.forAll xs (fun s x => s.setByte (k x) (f x (s.byteAt (k x)))) =
      { s with mem := { s.mem with cells := Tab.modAll Memory.unlisted k f s.mem.cells xs } } := by
  induction xs generalizing s with
  | nil => rfl
  | cons x r ih => exact ih (s.setByte (k x) (f x (s.byteAt (k x))))

/-- A row trace after a step with `k` events of its row (R159). -/
def rtNext (rl : RuleDesc) (i k : Nat) (x : Byte) : Byte :=
  BitVec.ofNat 8 (min 255 (x.toNat - (x.toNat + 2 ^ rl.rtDecay i - 1) / 2 ^ rl.rtDecay i + rl.rtBump i * k))

theorem toNat_rtNext (rl : RuleDesc) (i k : Nat) (x : Byte) : (rtNext rl i k x).toNat =
    min 255 (x.toNat - (x.toNat + 2 ^ rl.rtDecay i - 1) / 2 ^ rl.rtDecay i + rl.rtBump i * k) :=
  (BitVec.toNat_ofNat _ 8).trans (Nat.mod_eq_of_lt (by omega))

/-- Every row trace of one context has decayed and risen. -/
def State.rtsStepped (s : State) (c : Ctx) (t : Slot) (rl : RuleDesc) (l : List Addn) (m rows : Nat) : State :=
  let cells := Tab.modAll Memory.unlisted (fun p : Nat × Nat => rtAddr c t rl p.1 p.2)
    (fun p => rtNext rl p.2 (addCount l m p.1 c.cidx.toNat)) s.mem.cells (rtPairs rows rl.nrt)
  { s with mem := { s.mem with cells := cells } }

theorem State.forAll_stepRt (s : State) (c : Ctx) (t : Slot) (rl : RuleDesc) (l : List Addn) (m rows : Nat) :
    s.forAll (List.range rows) (fun s r => s.forAll (List.range rl.nrt) (fun s i => s.stepRt c t rl l m r i)) =
      s.rtsStepped c t rl l m rows :=
  (State.forAll_product (fun s r i => s.stepRt c t rl l m r i) _ _ s).trans
    (State.forAll_setByte (fun p : Nat × Nat => rtAddr c t rl p.1 p.2) (fun p => rtNext rl p.2 (addCount l m p.1 c.cidx.toNat)) _ s)

/-- The additions of one row in one context, as a sum. -/
theorem addCount_eq (l : List Addn) (m r x : Nat) : addCount l m r x =
    ((l.filter (fun a => decide (a.matrix.toNat = m) && decide (a.row.toNat = r) && decide (a.cidx = x))).map (·.count)).sum := by
  unfold addCount
  rw [List.sum_eq_foldl, List.foldl_map]

/-- Two row traces of a matrix stand at the same byte only where they are the same. -/
theorem rtAddr_inj {c : Ctx} {t : Slot} {rl : RuleDesc} {r r' i i' : Nat} (hi : i < rl.nrt) (hi' : i' < rl.nrt)
    (h : rtAddr c t rl r i = rtAddr c t rl r' i') : r = r' ∧ i = i' := by
  unfold rtAddr at h
  have hr : r = r' := eq_of_same_stride (p := 0) (k := rl.nrt) (off := 0) (w := rl.nrt) (a := r * rl.nrt + i) (by omega) (by omega) (by omega)
  subst hr
  exact ⟨rfl, by omega⟩

theorem nodup_rtAddr (c : Ctx) (t : Slot) (rl : RuleDesc) (rows : Nat) :
    ((rtPairs rows rl.nrt).map (fun p => rtAddr c t rl p.1 p.2)).Nodup := by
  refine List.Nodup.map_on (fun p hp q hq h => ?_) (List.nodup_range.product List.nodup_range)
  obtain ⟨hr, hi⟩ := rtAddr_inj (mem_rtPairs.mp hp).2 (mem_rtPairs.mp hq).2 h
  exact Prod.ext hr hi

section
variable {s : State} (hm : Memory.wf s.mem) {c : Ctx} {t : Slot} {rl : RuleDesc} {l : List Addn} {m rows : Nat}
include hm

theorem State.rtsStepped_trace {r i : Nat} (hr : r < rows) (hi : i < rl.nrt) :
    (s.rtsStepped c t rl l m rows).byteAt (rtAddr c t rl r i) =
      rtNext rl i (addCount l m r c.cidx.toNat) (s.byteAt (rtAddr c t rl r i)) :=
  Tab.get_modAll_mem (k := fun p : Nat × Nat => rtAddr c t rl p.1 p.2)
    (fun p => rtNext rl p.2 (addCount l m p.1 c.cidx.toNat)) hm (nodup_rtAddr c t rl rows) (x := (r, i)) (mem_rtPairs.mpr ⟨hr, hi⟩)

theorem State.rtsStepped_other {a : Nat} (ha : ∀ r i, r < rows → i < rl.nrt → a ≠ rtAddr c t rl r i) :
    (s.rtsStepped c t rl l m rows).byteAt a = s.byteAt a :=
  Tab.get_modAll_other _ hm fun p hp => (ha p.1 p.2 (mem_rtPairs.mp hp).1 (mem_rtPairs.mp hp).2).symm

end

theorem State.rtsStepped_Only (s : State) (c : Ctx) (t : Slot) (rl : RuleDesc) (l : List Addn) (m rows : Nat) :
    OnlyChanges [.mem] s (s.rtsStepped c t rl l m rows) := OnlyChanges.mem_upd _ (by decide) (.refl _ s)

/-- The fields that place a row trace are narrow. -/
theorem rt_fields_lt (rl : RuleDesc) : rl.nrt < 4 ∧ rl.rtOff < 2 ^ 24 :=
  ⟨Nat.mod_lt _ (by decide), Nat.mod_lt _ (by decide)⟩

theorem State.nrows_lt (s : State) (n m : Nat) : (s.mat n m).nrows < 2 ^ 17 := Nat.mod_lt _ (by decide)

/-- The row traces of a context that takes part on a core lie in the state store of that core or in a slice (R26, R61), so not in the
program and route store of a core. -/
theorem rtAddr_not_table {n : Nat} {c : Ctx} (hact : c.active = true) (hon : c.onCore n = true) (t : Slot)
    (rl : RuleDesc) {r i : Nat} (hr : r < 2 ^ 17) (hi : i < rl.nrt) : ¬ tableByte (rtAddr c t rl r i) := by
  rintro ⟨k, hk, hlo, hhi⟩
  obtain ⟨hnrt, hoff⟩ := rt_fields_lt rl
  have hpoff : t.poff.toNat < 2 ^ 24 := t.poff.isLt
  have hrow : r * rl.nrt < 2 ^ 20 := by
    calc r * rl.nrt ≤ r * 4 := Nat.mul_le_mul_left _ (by omega)
      _ < 2 ^ 20 := by omega
  have hhome : c.home < Mem.store n 1 + 2 ^ 24 ∧ Mem.store n 1 ≤ c.home ∨ Mem.slice 0 ≤ c.home := by
    by_cases hres : c.res = 0
    · have hcore : c.base.toNat / 2 ^ 40 = n := by
        simp [Ctx.onCore, hres] at hon
        exact hon.2
      have hlt : c.base.toNat % 2 ^ 24 < 2 ^ 24 := Nat.mod_lt _ (by decide)
      left
      rw [Ctx.home, if_pos hres, hcore]
      omega
    · have hone : c.res = 1 := by
        simp only [Ctx.active, hres, decide_false, Bool.false_or, Bool.and_eq_true, decide_eq_true_eq] at hact
        exact hact.1.2
      right
      rw [Ctx.home, if_neg hres, if_pos hone]
      unfold Mem.slice
      omega
  unfold rtAddr at hlo hhi
  unfold Mem.store Mem.slice at *
  omega

/-! ## The pass of a rule that nothing triggers (R164-R171) -/

/-- Nothing of the step triggers a term of a rule: no delay learning, no firing, and no addition where a term takes additions. -/
structure Untriggered (rl : RuleDesc) (c : Core) : Prop where
  still  : rl.dlearn = false
  silent : c.firing = []
  calm   : c.adds = [] ∨ ∀ x ∈ rl.terms, x.trig = 1

/-- No row is reached (R171). -/
theorem State.rowReached_untriggered {s : State} {n m : Nat} (h : Untriggered (s.rule n m) (s.cor n)) (cs : List (Nat × Ctx)) (r : Nat) :
    s.rowReached n m cs r = false := by
  obtain ⟨-, hsilent, hadds | htrig⟩ := h
  · simp [State.rowReached, hsilent, hadds]
  · have hpre : (s.rule n m).terms.any (fun x => x.tgt = 0 && x.trig ≠ 1) = false :=
      List.any_eq_false.mpr fun x hx => by simp [htrig x hx]
    simp only [State.rowReached, hsilent, hpre, List.any_nil, Bool.false_and, Bool.and_false, Bool.or_false, List.any_eq_false]
    exact fun _ _ => Bool.false_ne_true

/-- SHRD of a rule is set where `f` is (R196). -/
def State.shardFlag (s : State) (n m : Nat) (f : Bool) : State := if f then s.rsetBit (Reg.coreLrnRstat n m) 5 true else s

theorem State.shardFlag_mem (s : State) (n m : Nat) (f : Bool) : (s.shardFlag n m f).mem = s.mem := by cases f <;> rfl
theorem State.shardFlag_core (s : State) (n m : Nat) (f : Bool) : (s.shardFlag n m f).core = s.core := by cases f <;> rfl
theorem State.shardFlag_Only (s : State) (n m : Nat) (f : Bool) : OnlyChanges [.reg] s (s.shardFlag n m f) := by
  cases f
  · exact .refl _ s
  · exact State.rsetBit_Only _ _ _ _ (by decide) (.refl _ s)
theorem State.shardFlag_FileOnly (s : State) (n m : Nat) (f : Bool) : FileOnly [Reg.coreLrnRstat n m] s (s.shardFlag n m f) :=
  .ite (fun _ => .rsetBit s _ _ (List.mem_singleton_self _)) fun _ => .refl _ s

/-- The row traces of a rule in its one context have moved, and SHRD is set where `f` is. -/
def State.tracesMoved (s : State) (q : Nat × Ctx) (n m : Nat) (f : Bool) : State :=
  (s.rtsStepped q.2 (s.slotAt n (s.mat n m).tslot) (s.rule n m) (s.cor n).adds m (s.mat n m).nrows).shardFlag n m f

/-- The pass of a rule that nothing triggers: the row traces of its one context, SHRD and the count of operations. -/
def State.quietPass (s : State) (q : Nat × Ctx) (n m : Nat) (f : Bool) : State :=
  let ops := ((s.cor n).adds.filter (fun a => a.matrix.toNat = m)).length
  ((s.tracesMoved q n m f).unitActs 2 4 ops).longSet (Reg.coreLrnOpsLo n) (s.longGet (Reg.coreLrnOpsLo n) + ops)

section
variable {s : State} {n m : Nat} {q : Nat × Ctx}

theorem State.rtsStepped_tables (hm : Memory.wf s.mem) (hq : q ∈ s.coreCtxs n (s.rule n m).binding) (t : Slot) (l : List Addn) :
    SameTables s (s.rtsStepped q.2 t (s.rule n m) l m (s.mat n m).nrows) := fun a ha => by
  obtain ⟨-, hq⟩ := List.mem_filter.mp hq
  obtain ⟨hact, hon⟩ := (Bool.and_eq_true _ _).mp hq
  refine State.rtsStepped_other hm fun r i hr hi hat => rtAddr_not_table hact hon t (s.rule n m) ?_ hi (hat ▸ ha)
  exact hr.trans (s.nrows_lt n m)

theorem State.forAll_one {α : Type} (s : State) (x : α) (f : State → α → State) : s.forAll [x] f = f s x := rfl

theorem State.longGet_unitActs (s : State) (c k x a : Nat) : (s.unitActs c k x).longGet a = s.longGet a := rfl

/-- Where no row is reached none is folded. -/
theorem State.folds_none {u : State} {n m : Nat} (h : ∀ cs r, u.rowReached n m cs r = false) (gs ks rows : List Nat)
    (mine : Nat → Nat → List (Nat × Ctx)) :
    u.forAll gs (fun s g => s.forAll ks (fun s k => s.forAll (rows.filter (fun r => s.rowReached n m (mine g k) r))
      (fun s r => s.foldRow n m (mine g k) g k r))) = u :=
  State.forAll_same fun g _ => State.forAll_same fun k _ => by
    rw [List.filter_eq_nil_iff.mpr fun r _ => by rw [h]; exact Bool.false_ne_true]
    rfl

/-- Such a pass folds no row, so it is `quietPass`. -/
theorem State.learnRule_untriggered (hs : Canon s) (hn : n < 16) (hm : m < 256) (hctxs : s.coreCtxs n (s.rule n m).binding = [q])
    (h : Untriggered (s.rule n m) (s.cor n)) (hfit : s.longGet (Reg.coreLrnOpsLo n) + (s.cor n).adds.length < 2 ^ 48) :
    ∃ f, s.learnRule n m = s.quietPass q n m f := by
  have hops : s.longGet (Reg.coreLrnOpsLo n) + ((s.cor n).adds.filter (fun a => a.matrix.toNat = m)).length < 2 ^ 48 :=
    (Nat.add_le_add_left (List.length_filter_le _ _) _).trans_lt hfit
  have hfired : (s.mat n m).nrows * ([q].countP fun p => (s.cor n).firing.any fun f => f.slot = (s.mat n m).tslot && f.cidx = p.2.cidx) = 0 := by
    simp [h.silent]
  obtain ⟨u, hu⟩ : ∃ u, u = s.rtsStepped q.2 (s.slotAt n (s.mat n m).tslot) (s.rule n m) (s.cor n).adds m (s.mat n m).nrows := ⟨_, rfl⟩
  have htables : SameTables s u := hu ▸ State.rtsStepped_tables (Canon_mem hs) (by simp [hctxs]) _ _
  have hcor : ∀ f, (u.shardFlag n m f).cor n = s.cor n := fun f => by
    rw [State.cor, State.shardFlag_core, hu]
    rfl
  have hreach : ∀ f cs r, (u.shardFlag n m f).rowReached n m cs r = false := fun f =>
    State.rowReached_untriggered (by rw [(htables.trans (.of_mem (State.shardFlag_mem u n m f))).rule hn hm, hcor]; exact h)
  have hflag : ∀ f : Bool, (if f = true then u.rsetBit (Reg.coreLrnRstat n m) 5 true else u) = u.shardFlag n m f := fun _ => rfl
  have hlong : ∀ f, (u.shardFlag n m f).longGet (Reg.coreLrnOpsLo n) = s.longGet (Reg.coreLrnOpsLo n) := fun f => by
    have hreg : u.reg = s.reg := hu ▸ rfl
    rw [((State.shardFlag_FileOnly u n m f).onlyRegs (hreg ▸ Canon_vals hs) (hreg ▸ Canon_live hs) _
      (by simp only [List.mem_singleton, Reg.coreLrnOpsLo, Reg.coreLrnRstat]; omega)).2, State.longGet, State.longGet, State.rget, State.rget, hreg]
  apply Exists.intro
  unfold State.learnRule
  dsimp only
  rw [hctxs, hfired, h.still]
  simp only [State.forAll_one, State.forAll_stepRt]
  rw [if_neg Bool.false_ne_true, ← hu, hflag, State.folds_none (hreach _)]
  rw [Nat.add_zero, State.longWrap_fits (by rw [State.longGet_unitActs, hlong]; exact hops), if_neg Bool.false_ne_true,
    State.longGet_unitActs, hlong, hu]
  rfl

/-! ### What such a pass changes -/

theorem State.quietPass_mem (s : State) (q : Nat × Ctx) (n m : Nat) (f : Bool) : (s.quietPass q n m f).mem =
    (s.rtsStepped q.2 (s.slotAt n (s.mat n m).tslot) (s.rule n m) (s.cor n).adds m (s.mat n m).nrows).mem :=
  State.shardFlag_mem _ n m f

theorem State.quietPass_core (s : State) (q : Nat × Ctx) (n m : Nat) (f : Bool) : (s.quietPass q n m f).core = s.core :=
  State.shardFlag_core _ n m f

theorem State.tracesMoved_Only (s : State) (q : Nat × Ctx) (n m : Nat) (f : Bool) : OnlyChanges [.mem, .reg] s (s.tracesMoved q n m f) :=
  ((State.rtsStepped_Only s q.2 _ _ _ m _).mono (by decide)).trans ((State.shardFlag_Only _ n m f).mono (by decide))

theorem State.quietPass_Frame (s : State) (q : Nat × Ctx) (n m : Nat) (f : Bool) : Spec.Frame [.mem, .reg] s (s.quietPass q n m f) := by
  have hmoved := State.tracesMoved_Only s q n m f
  refine Frame_of_acts ?_ ?_
  · exact State.longSet_Only _ _ _ (by decide) (State.unitActs_Only _ _ _ _ (by decide) (hmoved.mono (by decide)))
  · exact (ActsOnly.of_only hmoved (by decide)).trans
      ((ActsOnly.unitActs _ _ _ _).trans (.of_only (State.longSet_Only (L := [.reg]) _ _ _ (by decide) (.refl _ _)) (by decide)))

theorem State.tracesMoved_FileOnly (s : State) (q : Nat × Ctx) (n m : Nat) (f : Bool) :
    FileOnly [Reg.coreLrnRstat n m] s (s.tracesMoved q n m f) :=
  have htraces : FileOnly [Reg.coreLrnRstat n m] s
      (s.rtsStepped q.2 (s.slotAt n (s.mat n m).tslot) (s.rule n m) (s.cor n).adds m (s.mat n m).nrows) := .of_reg rfl
  htraces.trans (State.shardFlag_FileOnly _ n m f)

theorem State.quietPass_FileOnly (s : State) (q : Nat × Ctx) (n m : Nat) (f : Bool) :
    FileOnly [Reg.coreLrnRstat n m, Reg.coreLrnOpsLo n] s (s.quietPass q n m f) :=
  ((State.tracesMoved_FileOnly s q n m f).mono (by simp)).trans
    (.trans (t := (s.tracesMoved q n m f).unitActs 2 4 _) (.of_reg rfl) (.longSet _ _ (by simp)))

/-- CORE_LRN_OPS counts the additions of the matrix (R169). -/
theorem State.quietPass_ops {s : State} (hs : Canon s) (q : Nat × Ctx) (n m : Nat) (f : Bool)
    (hfit : s.longGet (Reg.coreLrnOpsLo n) + (s.cor n).adds.length < 2 ^ 48) : (s.quietPass q n m f).longGet (Reg.coreLrnOpsLo n) =
      s.longGet (Reg.coreLrnOpsLo n) + ((s.cor n).adds.filter (fun a => a.matrix.toNat = m)).length := by
  obtain ⟨hvals, hlive⟩ := (State.tracesMoved_FileOnly s q n m f).wf hs
  have hle := List.length_filter_le (fun a : Addn => a.matrix.toNat = m) (s.cor n).adds
  exact State.longGet_longSet_same hvals hlive _ (by omega)

end

/-! ## LEARNING_PASS (R164) -/

/-- The pass of the step is no longer due. -/
def State.passDone (s : State) (n : Nat) : State :=
  (s.setCor n { s.cor n with learnDue := false }).rsetBit (Reg.coreLrnStatus n) 0 false

theorem State.learningPass_not_due {s : State} {n : Nat} (h : (s.cor n).learnDue = false) : s.learningPass n = s := by
  simp only [State.learningPass, h, Bool.not_false, if_true]

theorem State.learningPass_due {s : State} {n : Nat} {ms : List Nat} (h : (s.cor n).learnDue = true)
    (hms : (s.rulesOf n).filter (fun m => decide ((s.rule n m).binding = (s.cor n).binding.toNat)) = ms) :
    s.learningPass n = (s.forAll ms (fun s m => s.learnRule n m)).passDone n := by
  simp only [State.learningPass, h, hms, Bool.not_true, Bool.false_eq_true, if_false]
  rfl

theorem State.passDone_Only (s : State) (n : Nat) : OnlyChanges [.core, .reg] s (s.passDone n) :=
  State.rsetBit_Only _ _ _ _ (by decide) (State.setCor_Only _ _ (by decide) (.refl _ s))

theorem State.passDone_FileOnly (s : State) (n : Nat) : FileOnly [Reg.coreLrnStatus n] s (s.passDone n) :=
  .trans (t := s.setCor n { s.cor n with learnDue := false }) (.of_reg rfl) (.rsetBit _ _ _ (List.mem_singleton_self _))

theorem State.passDone_cor {s : State} (h : Tab.wf (fun _ => Core.empty) s.core.cores) (n : Nat) :
    (s.passDone n).cor n = { s.cor n with learnDue := false } ∧ ∀ k, k ≠ n → (s.passDone n).cor k = s.cor k :=
  ⟨State.cor_setCor_same h n _, fun _ hk => State.cor_setCor_other h _ hk⟩

theorem State.passDone_rbit {s : State} (h : Tab.wf regReset s.reg.vals) (n : Nat) : (s.passDone n).rbit (Reg.coreLrnStatus n) 0 = false :=
  State.rbit_rsetBit_same (s := s.setCor n { s.cor n with learnDue := false }) h _ false (by decide)

/-- Settles O35: a pass that nothing triggers is `quietPass` (`learnRule_untriggered`), whose row traces move by `rtsStepped`. -/
theorem learningPasses : Obligations.LearningPasses := by
  unfold Obligations.LearningPasses
  intro s core m q n c rl d t mine at' hs ha hn
  refine ⟨fun hdue => ?_, fun hdue hmine => ?_, fun hdue hmine hctxs hdl hfire htrig hfit => ?_⟩
  · exact (live_alive ha fun s => s.learningPass n).trans (by rw [State.learningPass_not_due hdue])
  · have hpass : s.learningPass n = s.passDone n := State.learningPass_due hdue hmine
    refine Run_of_live ha (f := fun s => s.learningPass n) rfl ?_ ?_ <;> rw [hpass]
    · exact Frame_of_only (State.passDone_Only s n) (by decide)
    · obtain ⟨hsame, hother⟩ := State.passDone_cor (Canon_cores hs) n
      exact ⟨hsame, hother, State.passDone_rbit (Canon_vals hs) n, (State.passDone_FileOnly s n).onlyRegs (Canon_vals hs) (Canon_live hs)⟩
  · have hm : m ∈ mine := hmine ▸ List.mem_singleton_self m
    have hm : m < 256 := State.mem_rulesOf (List.mem_filter.mp hm).1
    obtain ⟨f, hrule⟩ := State.learnRule_untriggered hs hn hm hctxs ⟨hdl, hfire, htrig⟩ hfit
    have hpass : s.learningPass n = (s.quietPass q n m f).passDone n := (State.learningPass_due hdue hmine).trans (congrArg (·.passDone n) hrule)
    refine Run_of_live ha (f := fun s => s.learningPass n) rfl ?_ ?_ <;> rw [hpass]
    · exact Frame_trans (Frame_mono (State.quietPass_Frame s q n m f) (by decide) (by decide))
        (Frame_mono (Frame_of_only (State.passDone_Only _ n) (by decide)) (by decide) (by decide)) (by decide)
    · have hfile := State.quietPass_FileOnly s q n m f
      obtain ⟨hvals, hlive⟩ := hfile.wf hs
      have hcore := State.quietPass_core s q n m f
      obtain ⟨hcor, -⟩ := State.passDone_cor (hcore ▸ Canon_cores hs) n
      have hbyte : ∀ a, ((s.quietPass q n m f).passDone n).byteAt a = _ := State.byteAt_congr (State.quietPass_mem s q n m f)
      refine ⟨hcor.trans (by rw [State.cor, hcore]; rfl), State.passDone_rbit hvals n, fun r i hr hi => ?_, fun a ha => ?_, ?_⟩
      · rw [hbyte, ← addCount_eq, ← toNat_rtNext]
        exact congrArg BitVec.toNat (State.rtsStepped_trace (Canon_mem hs) hr hi)
      · exact (hbyte a).trans (State.rtsStepped_other (Canon_mem hs) ha)
      · rw [((State.passDone_FileOnly _ n).onlyRegs hvals hlive _ (by simp only [List.mem_singleton, Reg.coreLrnOpsLo, Reg.coreLrnStatus]; omega)).2]
        exact State.quietPass_ops hs q n m f hfit

end Sys2Proof.Machine
end

section
namespace Sys2Proof.Machine

/-! ## Flows and bulk packets that leave (R384-R387) -/

theorem State.bulkOut_Sent (fuel : Nat) (s : State) (b dev : Nat) (tag : Option (Nat × BitVec 18)) (l : List Byte) :
    Sent s (State.bulkOut fuel s b dev tag l) := by
  induction fuel generalizing s l with
  | zero => exact .refl s
  | succ n ih =>
    unfold State.bulkOut
    split
    · exact .refl s
    · exact (State.toFabric_Sent s _).trans (ih _ _)

theorem State.circOut_Sent (fuel : Nat) (s : State) (c : Nat) (k : BitVec 18) (l : List Byte) : Sent s (State.circOut fuel s c k l) := by
  induction fuel generalizing s l with
  | zero => exact .refl s
  | succ n ih =>
    unfold State.circOut
    split
    · exact .refl s
    · exact (State.linkQueue_Sent s _ _).trans (ih _ _)

theorem State.chunkOut_Sent (s : State) (c : Nat) (flow : Word64) (x : BitVec 18 × Word64 × List Byte) : Sent s (s.chunkOut c flow x) :=
  (Sent.send s _).trans (.ite (fun _ => .refl _) fun _ => .ite (fun _ => State.circOut_Sent _ _ _ _ _) fun _ => State.bulkOut_Sent _ _ _ _ _ _)

theorem Sent.sendAll (s : State) (l : List Out) : Sent s (s.sendAll l) := .of_same rfl rfl (List.prefix_append _ _) rfl

theorem State.sendFlow_Sent (s : State) (c : Nat) : Sent s (s.sendFlow c) := by
  unfold State.sendFlow
  split
  · exact .refl s
  next f _ _ =>
    have hnamed : Sent s (match f.learn with
        | none => s
        | some l => s.sendAll (l.xs.map (fun x => Out.xfer (some (BitVec.ofNat 8 c)) l.dev l.dst l.matrix x))) := by
      cases f.learn with
      | none => exact .refl s
      | some l => exact .sendAll s _
    exact hnamed.trans (.forAll (fun _ _ => State.chunkOut_Sent _ _ _ _) _ _)

/-! ## What the transfers of a window leave as it is (R178, R558) -/

/-- The tables that transfers of a window read and write are canonical. -/
structure Tabled (s : State) : Prop where
  vals  : Tab.wf regReset s.reg.vals
  circs : Tab.wf (fun _ => Circuit.empty) s.fab.circuits
  reds  : Tab.wf (fun _ => Reduction.empty) s.core.reds

theorem Tabled.of_canon {s : State} (h : Canon s) : Tabled s := by
  obtain ⟨-, hvals, -, -, -, -, -, hreds, -, -, -, -, -, -, -, -, -, hcircs, -⟩ := h
  exact ⟨hvals, hcircs, hreds⟩

theorem Tabled.of_from {s t : State} (h : Tabled s) (hf : t.From s) : Tabled t :=
  ⟨hf.vals.wf h.vals, hf.circuits.wf h.circs, hf.reds.wf h.reds⟩

theorem Tabled.forAll {α : Type} {f : State → α → State} (hfrom : ∀ s x, (f s x).From s) (xs : List α) {s : State} (h : Tabled s) :
    Tabled (s.forAll xs f) := by
  induction xs generalizing s with
  | nil => exact h
  | cons x r ih => exact ih (h.of_from (hfrom s x))

/-- The registers of the rules and of the interrupts, losses and waits: those that the window may change. -/
def windowReg (a : Nat) : Prop := a ∈ sentRegs ∨ ∃ n, n < 16 ∧ (a = Reg.coreLrnStatus n ∨ ∃ m, m < 256 ∧ a = Reg.coreLrnRstat n m)

/-- The units that messages to other devices touch, the governor's counts among them. -/
abbrev carryParts : List Part := .gov :: msgParts

/-- The registers of the rules stand between 0x107000 and 0x1F8000. -/
theorem not_windowReg {a : Nat} (hsent : a ∉ sentRegs) (hrule : a < 0x107000 ∨ 0x1F8000 ≤ a) : ¬ windowReg a := by
  rintro (h | ⟨n, hn, rfl | ⟨m, hm, rfl⟩⟩)
  · exact hsent h
  · simp only [Reg.coreLrnStatus] at hrule; omega
  · simp only [Reg.coreLrnRstat] at hrule; omega

/-- What the opening of windows leaves as it is: the units it does not name, the cores but for their reductions, the epochs of these, what
circuits are bound to, the outputs so far and every register but `windowReg`. -/
structure WindowKept (s t : State) : Prop where
  only  : OnlyChanges (.core :: carryParts) s t
  acts  : ActsOnly s t
  cores : t.core.cores = s.core.cores
  epoch : ∀ n m, (t.red n m).epoch = (s.red n m).epoch
  circ  : ∀ c, (t.circ c).bound = (s.circ c).bound ∧ (t.circ c).binding = (s.circ c).binding
  out   : s.out <+: t.out
  regs  : ∀ a, ¬ windowReg a → t.rget a = s.rget a

/-- What transfers of a window leave as it is: STATE of every rule and the APPLY flag of every core too. -/
structure Handed (s t : State) : Prop extends WindowKept s t where
  flags : ∀ a, a ∉ sentRegs → t.rfield a 27 2 = s.rfield a 27 2 ∧ t.rbit a 1 = s.rbit a 1

namespace WindowKept
variable {s t u : State}

theorem refl (s : State) : WindowKept s s :=
  ⟨.refl _ s, .refl s, rfl, fun _ _ => rfl, fun _ => ⟨rfl, rfl⟩, List.prefix_refl _, fun _ _ => rfl⟩

theorem trans (h : WindowKept s t) (g : WindowKept t u) : WindowKept s u where
  only := h.only.trans g.only
  acts := h.acts.trans g.acts
  cores := g.cores.trans h.cores
  epoch n m := (g.epoch n m).trans (h.epoch n m)
  circ c := ⟨(g.circ c).1.trans (h.circ c).1, (g.circ c).2.trans (h.circ c).2⟩
  out := h.out.trans g.out
  regs a ha := (g.regs a ha).trans (h.regs a ha)

/-- A write of a register of the window. -/
theorem rset (hs : Tabled s) {k : Nat} (v : Word) (hk : windowReg k) : WindowKept s (s.rset k v) where
  only := State.rset_Only _ _ (by decide) (.refl _ s)
  acts := .refl s
  cores := rfl
  epoch _ _ := rfl
  circ _ := ⟨rfl, rfl⟩
  out := List.prefix_refl _
  regs a ha := State.rget_rset_other hs.vals _ fun e => ha (e ▸ hk)

/-- A reduction that keeps its epoch. -/
theorem setRed (hs : Tabled s) (n m : Nat) (x : Reduction) (hx : x.epoch = (s.red n m).epoch) : WindowKept s (s.setRed n m x) where
  only := State.setRed_Only _ _ _ (by decide) (.refl _ s)
  acts := .refl s
  cores := rfl
  epoch i j := by
    by_cases hij : i * 256 + j = n * 256 + m
    · have hsame : ∀ t : State, t.red i j = t.red n m := fun t => congrArg (Tab.get (fun _ => Reduction.empty) t.core.reds) hij
      rw [hsame, hsame, State.red_setRed_same hs.reds, hx]
    · rw [State.red_setRed_other hs.reds _ hij]
  circ _ := ⟨rfl, rfl⟩
  out := List.prefix_refl _
  regs _ _ := rfl

/-- A fold of operations, each of which keeps this from canonical tables on. -/
theorem forAll {α : Type} {f : State → α → State} {xs : List α} (hf : ∀ s, ∀ x ∈ xs, Tabled s → WindowKept s (f s x))
    (hfrom : ∀ s x, (f s x).From s) {s : State} (hs : Tabled s) : WindowKept s (s.forAll xs f) := by
  induction xs generalizing s with
  | nil => exact refl s
  | cons x r ih =>
    exact (hf s x List.mem_cons_self hs).trans (ih (fun s y hy => hf s y (List.mem_cons_of_mem x hy)) (hs.of_from (hfrom s x)))

/-- An output that one operation of a fold has, from wherever the fold stands, is there at its end. -/
theorem forAll_out {α : Type} {f : State → α → State} {xs : List α} (hf : ∀ s, ∀ x ∈ xs, Tabled s → WindowKept s (f s x))
    (hfrom : ∀ s x, (f s x).From s) {x : α} (hx : x ∈ xs) {o : Out} {s : State} (hs : Tabled s)
    (ho : ∀ t, WindowKept s t → Tabled t → o ∈ (f t x).out) : o ∈ (s.forAll xs f).out := by
  induction xs generalizing s with
  | nil => exact absurd hx List.not_mem_nil
  | cons y r ih =>
    have hr := fun s x hx => hf s x (List.mem_cons_of_mem y hx)
    have hy := hs.of_from (hfrom s y)
    rcases List.mem_cons.mp hx with rfl | hx
    · exact (forAll hr hfrom hy).out.subset (ho s (refl s) hs)
    · exact ih hr hx hy fun t ht => ho t ((hf s y List.mem_cons_self hs).trans ht)

end WindowKept

namespace Handed
variable {s t u : State}

theorem refl (s : State) : Handed s s := ⟨.refl s, fun _ _ => ⟨rfl, rfl⟩⟩

theorem trans (h : Handed s t) (g : Handed t u) : Handed s u :=
  ⟨h.toWindowKept.trans g.toWindowKept, fun a ha => ⟨(g.flags a ha).1.trans (h.flags a ha).1, (g.flags a ha).2.trans (h.flags a ha).2⟩⟩

theorem ite {c : Prop} [Decidable c] (ht : c → Handed s t) (hu : ¬ c → Handed s u) : Handed s (if c then t else u) := by
  split
  · exact ht ‹_›
  · exact hu ‹_›

/-- A fold of operations, each of which keeps this from canonical tables on. -/
theorem forAll {α : Type} {f : State → α → State} (hf : ∀ s x, Tabled s → Handed s (f s x)) (hfrom : ∀ s x, (f s x).From s)
    (xs : List α) {s : State} (hs : Tabled s) : Handed s (s.forAll xs f) := by
  induction xs generalizing s with
  | nil => exact refl s
  | cons x r ih => exact (hf s x hs).trans (ih (hs.of_from (hfrom s x)))

/-- A message leaves. -/
theorem of_sent (h : Sent s t) (ho : OnlyChanges carryParts s t) (hs : Tabled s) : Handed s t where
  only := ho.mono (by decide)
  acts := h.acts
  cores := by rw [ho.same .core (by decide)]
  epoch n m := by rw [State.red, State.red, ho.same .core (by decide)]
  circ c := by rw [State.circ, State.circ, h.circuits]; exact ⟨rfl, rfl⟩
  out := h.out
  regs a ha := h.regs.get hs.vals fun hsent => ha (.inl hsent)
  flags a ha := by
    have hget := h.regs.get hs.vals ha
    rw [State.rfield, State.rfield, State.rbit, State.rbit, hget]
    exact ⟨rfl, rfl⟩

/-- The flows of a circuit change. -/
theorem setCirc_flows (hs : Tabled s) (c : Nat) (l : List Flow) : Handed s (s.setCirc c { s.circ c with flows := l }) where
  only := State.setCirc_Only _ _ (by decide) (.refl _ s)
  acts := .refl s
  cores := rfl
  epoch _ _ := rfl
  circ k := by
    by_cases hk : k = c
    · subst hk
      rw [State.circ_setCirc_same hs.circs]
      exact ⟨rfl, rfl⟩
    · rw [State.circ_setCirc_other hs.circs _ hk]
      exact ⟨rfl, rfl⟩
  out := List.prefix_refl _
  regs _ _ := rfl
  flags _ _ := ⟨rfl, rfl⟩

/-- A bit of a register of the window that is neither of STATE nor the APPLY flag. -/
theorem rsetBit (hs : Tabled s) {k i : Nat} (v : Bool) (hk : windowReg k) (hi : i ≠ 1) (hlt : i < 27) : Handed s (s.rsetBit k i v) where
  toWindowKept := .rset hs _ hk
  flags a _ := by
    by_cases ha : a = k
    · subst ha
      refine ⟨?_, State.rbit_rsetBit_other hs.vals _ _ hi.symm⟩
      rw [State.rfield, State.rfield, State.rsetBit, State.rget_rmod_same hs.vals]
      exact fieldOf_withField_other _ _ (by omega)
    · have hget : (s.rsetBit k i v).rget a = s.rget a := State.rget_rset_other hs.vals _ ha
      rw [State.rfield, State.rfield, State.rbit, State.rbit, hget]
      exact ⟨rfl, rfl⟩

end Handed

theorem State.sendFlow_carryParts (s : State) (c : Nat) : OnlyChanges carryParts s (s.sendFlow c) :=
  State.sendFlow_Only s c (by decide) (by decide) (by decide) (by decide) (by decide) (by decide) (by decide) (by decide) (.refl _ s)

theorem State.bulkOut_carryParts (n : Nat) (s : State) (b dev : Nat) (tag : Option (Nat × BitVec 18)) (l : List Byte) :
    OnlyChanges carryParts s (State.bulkOut n s b dev tag l) :=
  State.bulkOut_Only n s b dev tag l (by decide) (by decide) (by decide) (by decide) (by decide) (by decide) (by decide) (by decide) (.refl _ s)

theorem State.setCirc_Tabled {s : State} (hs : Tabled s) (c : Nat) (x : Circuit) : Tabled (s.setCirc c x) :=
  hs.of_from (State.setCirc_From c x (.refl s))

theorem State.kickCirc_Handed {s : State} (hs : Tabled s) (c : Nat) : Handed s (s.kickCirc c) := by
  unfold State.kickCirc
  split
  · exact .refl s
  · refine .ite (fun _ => .refl s) fun _ => ?_
    exact (Handed.setCirc_flows hs c _).trans (.of_sent (State.sendFlow_Sent _ c) (State.sendFlow_carryParts _ c) (State.setCirc_Tabled hs c _))

theorem State.addFlow_Handed {s : State} (hs : Tabled s) (c : Nat) (f : Flow) : Handed s (s.addFlow c f) :=
  (Handed.setCirc_flows hs c _).trans (State.kickCirc_Handed (State.setCirc_Tabled hs c _) c)

/-- A transfer leaves as BULK packets, named as an output. -/
def State.bulkXfer (s : State) (b m : Nat) (dev : BitVec 6) (core : Nat) (x : Xfer) : State :=
  let s := s.send (.xfer none dev (BitVec.ofNat 10 core) (BitVec.ofNat 8 m) x)
  if dev = s.sys.myDev then s else State.bulkOut (x.bytes.length / 8192 + 1) s b dev.toNat none x.bytes

theorem State.bulkXfer_Handed {s : State} (hs : Tabled s) (b m : Nat) (dev : BitVec 6) (core : Nat) (x : Xfer) :
    Handed s (s.bulkXfer b m dev core x) := by
  have hsend : Handed s (s.send (.xfer none dev (BitVec.ofNat 10 core) (BitVec.ofNat 8 m) x)) :=
    .of_sent (.send s _) (State.send_Only _ (by decide) (.refl _ s)) hs
  refine hsend.trans (.ite (fun _ => .refl _) fun _ => ?_)
  exact .of_sent (State.bulkOut_Sent _ _ _ _ _ _) (State.bulkOut_carryParts _ _ _ _ _ _) (hs.of_from (State.send_From _ (.refl s)))

/-- Its name is among the outputs. -/
theorem State.bulkXfer_out (s : State) (b m : Nat) (dev : BitVec 6) (core : Nat) (x : Xfer) :
    Out.xfer none dev (BitVec.ofNat 10 core) (BitVec.ofNat 8 m) x ∈ (s.bulkXfer b m dev core x).out := by
  have hnamed : Out.xfer none dev (BitVec.ofNat 10 core) (BitVec.ofNat 8 m) x ∈
      (s.send (.xfer none dev (BitVec.ofNat 10 core) (BitVec.ofNat 8 m) x)).out :=
    List.mem_append_right _ (List.mem_singleton_self _)
  have hleft : Sent (s.send (.xfer none dev (BitVec.ofNat 10 core) (BitVec.ofNat 8 m) x)) (s.bulkXfer b m dev core x) :=
    .ite (fun _ => .refl _) fun _ => State.bulkOut_Sent _ _ _ _ _ _
  exact hleft.out.subset hnamed

theorem State.bulkXfer_From (s : State) (b m : Nat) (dev : BitVec 6) (core : Nat) (x : Xfer) : (s.bulkXfer b m dev core x).From s := by
  unfold State.bulkXfer
  dsimp only
  split
  · exact State.send_From _ (.refl s)
  · exact State.bulkOut_From _ _ _ _ _ _ (State.send_From _ (.refl s))

/-- Transfers that no circuit carries leave as BULK packets. -/
theorem State.carry_bulk {s : State} {b n m : Nat} {dev : BitVec 6} {core : Nat} (h : s.carriage b n dev core = none) (xs : List Xfer) :
    s.carry b n m dev core xs = s.forAll xs (fun s x => s.bulkXfer b m dev core x) := by
  unfold State.carry
  split
  next hnil => rw [hnil]; rfl
  next => rw [h]; rfl

theorem State.carry_Handed {s : State} (hs : Tabled s) (b n m : Nat) (dev : BitVec 6) (core : Nat) (xs : List Xfer) :
    Handed s (s.carry b n m dev core xs) := by
  cases h : s.carriage b n dev core with
  | none =>
    rw [State.carry_bulk h]
    exact .forAll (fun s x hs => State.bulkXfer_Handed hs b m dev core x) (fun s x => State.bulkXfer_From s b m dev core x) xs hs
  | some c =>
    unfold State.carry
    rw [h]
    exact .ite (fun _ => .refl s) fun _ => State.addFlow_Handed hs c _

/-- Each of the transfers that no circuit carries is named. -/
theorem State.carry_names {s : State} (hs : Tabled s) {b n m : Nat} {dev : BitVec 6} {core : Nat} (h : s.carriage b n dev core = none)
    {xs : List Xfer} {x : Xfer} (hx : x ∈ xs) : Out.xfer none dev (BitVec.ofNat 10 core) (BitVec.ofNat 8 m) x ∈ (s.carry b n m dev core xs).out := by
  rw [State.carry_bulk h]
  exact WindowKept.forAll_out (fun s x _ hs => (State.bulkXfer_Handed hs b m dev core x).toWindowKept)
    (fun s x => State.bulkXfer_From s b m dev core x) hx hs fun t _ _ => State.bulkXfer_out t b m dev core x

/-! ### A member's delta rows -/

theorem windowReg_status {n : Nat} (hn : n < 16) : windowReg (Reg.coreLrnStatus n) := .inr ⟨n, hn, .inl rfl⟩
theorem windowReg_rstat {n m : Nat} (hn : n < 16) (hm : m < 256) : windowReg (Reg.coreLrnRstat n m) := .inr ⟨n, hn, .inr ⟨m, hm, rfl⟩⟩

theorem State.raise_Handed {s : State} (hs : Tabled s) (k : Nat) : Handed s (s.raise k) :=
  .of_sent (State.raise_Sent s k) (State.raise_Only s k (by decide) (by decide) (by decide) (by decide) (.refl _ s)) hs

theorem State.ruleEcc_Handed {s : State} (hs : Tabled s) {n m : Nat} (hn : n < 16) (hm : m < 256) : Handed s (s.ruleEcc n m) := by
  have hflag : Tabled (s.rsetBit (Reg.coreLrnRstat n m) 4 true) := hs.of_from (State.rsetBit_From _ _ _ _ (.refl s))
  refine (Handed.rsetBit (i := 4) hs true (windowReg_rstat hn hm) (by decide) (by decide)).trans ?_
  refine (Handed.rsetBit (i := 5) hflag true (windowReg_status hn) (by decide) (by decide)).trans ?_
  exact State.raise_Handed (hflag.of_from (State.rsetBit_From _ _ _ _ (.refl _))) _

theorem State.applyStatus_Handed {s : State} (hs : Tabled s) (n m : Nat) (st : Byte) : Handed s (s.applyStatus n m st) :=
  ⟨.setRed hs n m _ rfl, fun _ _ => ⟨rfl, rfl⟩⟩

theorem State.deltaRead_Handed {s : State} (hs : Tabled s) {n m : Nat} (hn : n < 16) (hm : m < 256) (x : Nat × Nat) :
    Handed s (s.deltaRead n m x) :=
  .ite (fun _ => (State.ruleEcc_Handed hs hn hm).trans (State.applyStatus_Handed (hs.of_from (State.ruleEcc_From _ _ _ (.refl s))) _ _ _))
    fun _ => .refl s

/-- A member's delta rows leave for an owner on this device (R178). -/
def State.deltasTo (s : State) (b n m : Nat) (rl : RuleDesc) (tile : Nat × Nat) (o : Nat) : State :=
  let x := meetSegs (s.rule o m).ownSegs tile
  if x.1 < x.2 then
    s.carry b n m s.sys.myDev (s.sysOf o) (s.deltaXfers n m x (chunkRowsOf (cvtFmt rl.cvtD) rl.nsh ((s.rule o m).ownCols (s.mat o m))))
  else s

/-- They leave for an owner on another device. -/
def State.deltasFar (s : State) (b n m : Nat) (rl : RuleDesc) (tile : Nat × Nat) (p : PeerMember) : State :=
  let x := meetSegs (peerSegs p) tile
  if x.1 < x.2 then
    (s.deltaRead n m x).carry b n m p.dev p.core.toNat
      (s.deltaXfers n m x (chunkRowsOf (cvtFmt rl.cvtD) rl.nsh (segCols (peerSegs p) p.segBase p.ncol)))
  else s

/-- A member's timing accumulators leave for the home member among `here` and `far` (R186). -/
def State.sumsHome (s : State) (b n m : Nat) (rl : RuleDesc) (rows : Nat) (here : List Nat) (far : List PeerMember) : State :=
  if !rl.dlearn || rl.taccHome then s
  else
    let t := ((cut 8192 (List.range rows)).map (fun l => Xfer.sums rl.gindex (l.headD 0) (l.map (fun r => s.tacc n m r))))
    match here.find? (fun o => (s.rule o m).taccHome), far.find? (fun p => p.home) with
    | some o, _ => s.carry b n m s.sys.myDev (s.sysOf o) t
    | none, some p => s.carry b n m p.dev p.core.toNat t
    | none, none => s

theorem State.sendDeltas_eq (s : State) (b n m : Nat) : s.sendDeltas b n m =
    (let rl := s.rule n m
     let here := s.members b m rl.group
     let far := s.peers b m rl.group
     let tile := s.tileOf n m
     ((s.forAll (here.filter (fun o => o ≠ n)) (fun s o => s.deltasTo b n m rl tile o)).forAll far
       (fun s p => s.deltasFar b n m rl tile p)).sumsHome b n m rl (s.mat n m).nrows here far) := rfl

theorem State.deltasTo_From (s : State) (b n m : Nat) (rl : RuleDesc) (tile : Nat × Nat) (o : Nat) : (s.deltasTo b n m rl tile o).From s := by
  unfold State.deltasTo
  dsimp only
  split
  · exact State.carry_From _ _ _ _ _ _ _ (.refl s)
  · exact .refl s

theorem State.deltasFar_From (s : State) (b n m : Nat) (rl : RuleDesc) (tile : Nat × Nat) (p : PeerMember) :
    (s.deltasFar b n m rl tile p).From s := by
  unfold State.deltasFar
  dsimp only
  split
  · exact State.carry_From _ _ _ _ _ _ _ (State.deltaRead_From _ _ _ _ (.refl s))
  · exact .refl s

section
variable {s : State} (hs : Tabled s) {n m : Nat}
include hs

theorem State.deltasTo_Handed (b : Nat) (rl : RuleDesc) (tile : Nat × Nat) (o : Nat) : Handed s (s.deltasTo b n m rl tile o) :=
  .ite (fun _ => State.carry_Handed hs _ _ _ _ _ _) fun _ => .refl s

theorem State.sumsHome_Handed (b : Nat) (rl : RuleDesc) (rows : Nat) (here : List Nat) (far : List PeerMember) :
    Handed s (s.sumsHome b n m rl rows here far) := by
  refine .ite (fun _ => .refl s) fun _ => ?_
  dsimp only
  split
  · exact State.carry_Handed hs _ _ _ _ _ _
  · exact State.carry_Handed hs _ _ _ _ _ _
  · exact .refl s

variable (hn : n < 16) (hm : m < 256)
include hn hm

theorem State.deltasFar_Handed (b : Nat) (rl : RuleDesc) (tile : Nat × Nat) (p : PeerMember) : Handed s (s.deltasFar b n m rl tile p) :=
  .ite (fun _ => (State.deltaRead_Handed hs hn hm _).trans
    (State.carry_Handed (hs.of_from (State.deltaRead_From _ _ _ _ (.refl s))) _ _ _ _ _ _)) fun _ => .refl s

theorem State.sendDeltas_Handed (b : Nat) : Handed s (s.sendDeltas b n m) := by
  rw [State.sendDeltas_eq]
  dsimp only
  generalize s.rule n m = rl, s.tileOf n m = tile, (s.mat n m).nrows = rows
  generalize s.peers b m rl.group = far, s.members b m rl.group = here
  have hto := Handed.forAll (fun s o hs => State.deltasTo_Handed hs b rl tile o) (fun s o => State.deltasTo_From s b n m rl tile o)
    (here.filter fun o => o ≠ n) hs
  have hs := hs.forAll (fun s o => State.deltasTo_From s b n m rl tile o) (here.filter fun o => o ≠ n)
  have hfar := Handed.forAll (fun s p hs => State.deltasFar_Handed hs hn hm b rl tile p) (fun s p => State.deltasFar_From s b n m rl tile p) far hs
  have hs := hs.forAll (fun s p => State.deltasFar_From s b n m rl tile p) far
  exact (hto.trans hfar).trans (State.sumsHome_Handed hs b rl rows here far)

/-- What a member sends to another owner on this device, where no circuit carries it. -/
theorem State.sendDeltas_out (b : Nat) {x : Out} {o : Nat} (ho : o ∈ s.members b m (s.rule n m).group) (hne : o ≠ n)
    (hx : ∀ t, WindowKept s t → Tabled t → x ∈ (t.deltasTo b n m (s.rule n m) (s.tileOf n m) o).out) : x ∈ (s.sendDeltas b n m).out := by
  rw [State.sendDeltas_eq]
  dsimp only
  generalize s.rule n m = rl, s.tileOf n m = tile, (s.mat n m).nrows = rows at *
  generalize s.peers b m rl.group = far, s.members b m rl.group = here at *
  have hto := WindowKept.forAll_out (fun s o _ hs => (State.deltasTo_Handed hs b rl tile o).toWindowKept)
    (fun s o => State.deltasTo_From s b n m rl tile o) (xs := here.filter fun o => o ≠ n) (List.mem_filter.mpr ⟨ho, decide_eq_true hne⟩) hs hx
  have hs := hs.forAll (fun s o => State.deltasTo_From s b n m rl tile o) (here.filter fun o => o ≠ n)
  have hfar := Handed.forAll (fun s p hs => State.deltasFar_Handed hs hn hm b rl tile p) (fun s p => State.deltasFar_From s b n m rl tile p) far hs
  have hs := hs.forAll (fun s p => State.deltasFar_From s b n m rl tile p) far
  exact (State.sumsHome_Handed hs b rl rows here far).out.subset (hfar.out.subset hto)

end

/-! ### What transfers read is as before -/

section
variable {s t : State} (h : WindowKept s t)
include h

theorem WindowKept.mem : t.mem = s.mem := h.only.same .mem (by decide)
theorem WindowKept.cmd : t.cmd = s.cmd := h.only.same .cmd (by decide)
theorem WindowKept.sys : t.sys = s.sys := h.only.same .sys (by decide)
theorem WindowKept.tmr : t.tmr = s.tmr := h.only.same .tmr (by decide)

theorem WindowKept.rule (n m : Nat) : t.rule n m = s.rule n m := State.rule_congr h.mem n m
theorem WindowKept.mat (n m : Nat) : t.mat n m = s.mat n m := State.mat_congr h.mem n m
theorem WindowKept.tileOf (n m : Nat) : t.tileOf n m = s.tileOf n m := by rw [State.tileOf, State.tileOf, h.rule, h.mat]
theorem WindowKept.sysOf (n : Nat) : t.sysOf n = s.sysOf n := by rw [State.sysOf, State.sysOf, h.sys]
theorem WindowKept.bindingRules (b : Nat) : t.bindingRules b = s.bindingRules b := 
  State.bindingRules_congr h.mem (fun n => by rw [State.cor, State.cor, h.cores]; exact ⟨rfl, rfl⟩) b
theorem WindowKept.groupRules (b g : Nat) : t.groupRules b g = s.groupRules b g := by
  rw [State.groupRules, State.groupRules, h.bindingRules]
  exact List.filter_congr fun p _ => by rw [h.rule]
theorem WindowKept.members (b m g : Nat) : t.members b m g = s.members b m g := by rw [State.members, State.members, h.groupRules]

theorem WindowKept.physCore (n : Nat) : t.physCore n = s.physCore n := by
  exact State.physCore_congr (h.regs _ (not_windowReg (by simp only [mem_sentRegs, Reg.budLmapCore]; omega)
    (by simp only [Reg.budLmapCore]; omega)))

theorem WindowKept.physOf (dev : BitVec 6) (core : Nat) : t.physOf dev core = s.physOf dev core := by
  have hlocal : t.localOf core = s.localOf core := by rw [State.localOf, State.localOf, State.sysCore, State.sysCore, h.sys]
  rw [State.physOf, State.physOf, h.sys, h.tmr, hlocal, funext h.physCore]

theorem WindowKept.carriage (b n : Nat) (dev : BitVec 6) (core : Nat) : t.carriage b n dev core = s.carriage b n dev core := by
  refine List.find?_congr fun c hc => ?_
  have hc : c < 256 := List.mem_range.mp hc
  have hstat : t.rget (Reg.fabCircStat c) = s.rget (Reg.fabCircStat c) := by
    exact h.regs _ (not_windowReg (by simp only [mem_sentRegs, Reg.fabCircStat]; omega) (by simp only [Reg.fabCircStat]; omega))
  have hcfg : t.rget (Reg.fabCircCfg1 c) = s.rget (Reg.fabCircCfg1 c) := by
    exact h.regs _ (not_windowReg (by simp only [mem_sentRegs, Reg.fabCircCfg1]; omega) (by simp only [Reg.fabCircCfg1]; omega))
  obtain ⟨hbound, hbinding⟩ := h.circ c
  have hstat : ∀ lo w, t.rfield (Reg.fabCircStat c) lo w = s.rfield (Reg.fabCircStat c) lo w := fun lo w => congrArg (fieldOf · lo w) hstat
  have hcfg : ∀ lo w, t.rfield (Reg.fabCircCfg1 c) lo w = s.rfield (Reg.fabCircCfg1 c) lo w := fun lo w => congrArg (fieldOf · lo w) hcfg
  rw [hstat, hcfg, hcfg, hcfg, hbound, hbinding, h.physCore, h.physOf]

theorem WindowKept.deltaPiece (n m k r : Nat) (x : Nat × Nat) : t.deltaPiece n m k r x = s.deltaPiece n m k r x := by
  have hset : t.applySet n m = s.applySet n m := by rw [State.applySet, State.applySet, h.rule, h.epoch]
  have hbad : ∀ a i, t.badRange a i = s.badRange a i := fun a i => congrArg (fun l : Memory => l.bad.any _) h.mem
  unfold State.deltaPiece
  rw [h.rule, h.mat, hset]
  dsimp only
  rw [hbad, State.bytes_congr h.mem]

theorem WindowKept.deltaXfers (n m : Nat) (x : Nat × Nat) (rows : Nat) : t.deltaXfers n m x rows = s.deltaXfers n m x rows := by
  unfold State.deltaXfers
  rw [h.rule, h.mat]
  dsimp only
  simp only [h.deltaPiece]

end

/-- The delta rows of a member for an owner on this device, where no circuit carries them, are among the outputs (R178). -/
theorem State.deltasTo_out {s t : State} (h : WindowKept s t) (ht : Tabled t) {b n m o : Nat} {x : Xfer}
    (hnone : s.carriage b n s.sys.myDev (s.sysOf o) = none)
    (hmeet : (meetSegs (s.rule o m).ownSegs (s.tileOf n m)).1 < (meetSegs (s.rule o m).ownSegs (s.tileOf n m)).2)
    (hx : x ∈ s.deltaXfers n m (meetSegs (s.rule o m).ownSegs (s.tileOf n m))
      (chunkRowsOf (cvtFmt (s.rule n m).cvtD) (s.rule n m).nsh ((s.rule o m).ownCols (s.mat o m)))) :
    Out.xfer none s.sys.myDev (BitVec.ofNat 10 (s.sysOf o)) (BitVec.ofNat 8 m) x ∈ (t.deltasTo b n m (s.rule n m) (s.tileOf n m) o).out := by
  unfold State.deltasTo
  rw [h.rule, h.mat]
  dsimp only
  rw [if_pos hmeet, h.sys, h.sysOf, h.deltaXfers]
  exact State.carry_names ht ((h.carriage _ _ _ _).trans hnone) hx

/-! ## Opening the window of a member (R177, R178) -/

/-- STATE 2, the APPLY flag and the reduction of a member whose window opens. -/
def State.windowSet (s : State) (p : Nat × Nat) (x : Reduction) : State :=
  ((s.setRuleState p 2).rsetBit (Reg.coreLrnStatus p.1) 1 true).setRed p.1 p.2 x

theorem State.windowSet_From (s : State) (p : Nat × Nat) (x : Reduction) : (s.windowSet p x).From s :=
  State.setRed_From _ _ _ (State.rsetBit_From _ _ _ _ (State.setRuleState_From _ _ _ (.refl s)))

theorem State.openRule_eq (s : State) (b : Nat) (p : Nat × Nat) :
    ∃ x, x.epoch = (s.red p.1 p.2).epoch ∧ s.openRule b p = (s.windowSet p x).sendDeltas b p.1 p.2 := by
  unfold State.openRule
  refine ⟨_, ?_, rfl⟩
  split <;> rfl

/-- The windows of the members `ps` have opened. -/
structure WindowsOpened (ps : List (Nat × Nat)) (s t : State) : Prop extends WindowKept s t where
  opened : ∀ p ∈ ps, t.ruleState p = 2 ∧ t.rbit (Reg.coreLrnStatus p.1) 1 = true
  others : ∀ p : Nat × Nat, p.1 < 16 → p.2 < 256 → p ∉ ps → t.ruleState p = s.ruleState p
  lit    : ∀ n, n < 16 → s.rbit (Reg.coreLrnStatus n) 1 = true → t.rbit (Reg.coreLrnStatus n) 1 = true

theorem coreLrnRstat_not_sent {n m : Nat} (hm : m < 256) : Reg.coreLrnRstat n m ∉ sentRegs := by
  simp only [mem_sentRegs, Reg.coreLrnRstat]
  omega
theorem coreLrnStatus_not_sent {n : Nat} (hn : n < 16) : Reg.coreLrnStatus n ∉ sentRegs := by
  simp only [mem_sentRegs, Reg.coreLrnStatus]
  omega

namespace WindowsOpened
variable {s t u : State} {ps qs : List (Nat × Nat)}

theorem refl (s : State) : WindowsOpened [] s s := ⟨.refl s, fun _ hp => absurd hp List.not_mem_nil, fun _ _ _ _ => rfl, fun _ _ => id⟩

theorem trans (h : WindowsOpened ps s t) (g : WindowsOpened qs t u) (hps : ∀ p ∈ ps, p.1 < 16 ∧ p.2 < 256) : WindowsOpened (ps ++ qs) s u where
  toWindowKept := h.toWindowKept.trans g.toWindowKept
  opened p hp := by
    by_cases hq : p ∈ qs
    · exact g.opened p hq
    · have hp : p ∈ ps := (List.mem_append.mp hp).resolve_right hq
      obtain ⟨hn, hm⟩ := hps p hp
      obtain ⟨hstate, hlit⟩ := h.opened p hp
      exact ⟨(g.others p hn hm hq).trans hstate, g.lit p.1 hn hlit⟩
  others p hn hm hp := by
    obtain ⟨hp, hq⟩ := not_or.mp fun h => hp (List.mem_append.mpr h)
    exact (g.others p hn hm hq).trans (h.others p hn hm hp)
  lit n hn h1 := g.lit n hn (h.lit n hn h1)

/-- Transfers that leave open and close nothing. -/
theorem of_handed (h : Handed s t) : WindowsOpened [] s t :=
  ⟨h.toWindowKept, fun _ hp => absurd hp List.not_mem_nil, fun _ _ hm _ => (h.flags _ (coreLrnRstat_not_sent hm)).1,
    fun _ hn => (h.flags _ (coreLrnStatus_not_sent hn)).2.trans⟩

end WindowsOpened

section
variable {s : State} (hs : Tabled s) {p : Nat × Nat} (hn : p.1 < 16) (hm : p.2 < 256)
include hs hn hm

theorem State.windowSet_Opened (x : Reduction) (hx : x.epoch = (s.red p.1 p.2).epoch) : WindowsOpened [p] s (s.windowSet p x) := by
  have hstate : Tabled (s.setRuleState p 2) := hs.of_from (State.setRuleState_From _ _ _ (.refl s))
  have hflag : Tabled ((s.setRuleState p 2).rsetBit (Reg.coreLrnStatus p.1) 1 true) := hstate.of_from (State.rsetBit_From _ _ _ _ (.refl _))
  have hrget : ∀ a, a ≠ Reg.coreLrnStatus p.1 → (s.windowSet p x).rget a = (s.setRuleState p 2).rget a := fun a ha =>
    State.rget_rset_other hstate.vals _ ha
  constructor
  · exact (WindowKept.rset hs _ (windowReg_rstat hn hm)).trans ((WindowKept.rset hstate _ (windowReg_status hn)).trans (.setRed hflag _ _ x hx))
  · intro q hq
    obtain rfl := List.mem_singleton.mp hq
    refine ⟨?_, State.rbit_rsetBit_same hstate.vals _ true (by decide)⟩
    rw [State.ruleState, State.rfield, hrget _ (by simp only [Reg.coreLrnRstat, Reg.coreLrnStatus]; omega), State.setRuleState, State.rsetField,
      State.rget_rmod_same hs.vals]
    exact fieldOf_withField_same _ _ (by decide)
  · intro q hqn hqm hq
    have hne : Reg.coreLrnRstat q.1 q.2 ≠ Reg.coreLrnRstat p.1 p.2 := fun he => hq (by
      simp only [Reg.coreLrnRstat] at he
      exact List.mem_singleton.mpr (Prod.ext (by omega) (by omega)))
    rw [State.ruleState, State.ruleState, State.rfield, State.rfield, hrget _ (by simp only [Reg.coreLrnRstat, Reg.coreLrnStatus]; omega)]
    exact congrArg (fieldOf · 27 2) (State.rget_rset_other hs.vals _ hne)
  · intro n hn' hlit
    by_cases hne : n = p.1
    · subst hne
      exact State.rbit_rsetBit_same hstate.vals _ true (by decide)
    · rw [State.rbit, hrget _ (by simp only [Reg.coreLrnStatus]; omega)]
      have hkept : (s.setRuleState p 2).rget (Reg.coreLrnStatus n) = s.rget (Reg.coreLrnStatus n) :=
        State.rget_rset_other hs.vals _ (by simp only [Reg.coreLrnStatus, Reg.coreLrnRstat]; omega)
      rw [hkept]
      exact hlit

theorem State.openRule_Opened (b : Nat) : WindowsOpened [p] s (s.openRule b p) := by
  obtain ⟨x, hx, heq⟩ := s.openRule_eq b p
  rw [heq]
  exact (State.windowSet_Opened hs hn hm x hx).trans
    (.of_handed (State.sendDeltas_Handed (hs.of_from (State.windowSet_From _ _ _)) hn hm b)) (by simp [hn, hm])

end

theorem State.forAll_openRule {ps : List (Nat × Nat)} (hps : ∀ p ∈ ps, p.1 < 16 ∧ p.2 < 256) (b : Nat) {s : State} (hs : Tabled s) :
    WindowsOpened ps s (s.forAll ps (fun s p => s.openRule b p)) := by
  induction ps generalizing s with
  | nil => exact .refl s
  | cons p r ih =>
    obtain ⟨hn, hm⟩ := hps p List.mem_cons_self
    exact (State.openRule_Opened hs hn hm b).trans (ih (fun q hq => hps q (List.mem_cons_of_mem p hq))
      (hs.of_from (State.openRule_From _ _ _ (.refl s)))) (by simp [hn, hm])

/-! ## APPLY_WINDOW_OPEN (R177) -/

theorem State.mem_bindingRules_iff {s : State} {b : Nat} {p : Nat × Nat} : p ∈ s.bindingRules b ↔
    p.1 < 16 ∧ ((s.cor p.1).bound = true ∧ (s.cor p.1).binding.toNat = b) ∧ p.2 ∈ s.rulesOf p.1 ∧ (s.rule p.1 p.2).binding = b := by
  obtain ⟨n, m⟩ := p
  have hcore : ∀ k, (n, m) ∈ (if (s.cor k).bound && (s.cor k).binding.toNat = b then
      ((s.rulesOf k).filter (fun m => (s.rule k m).binding = b)).map (fun m => (k, m)) else []) ↔
      k = n ∧ ((s.cor k).bound = true ∧ (s.cor k).binding.toNat = b) ∧ m ∈ s.rulesOf k ∧ (s.rule k m).binding = b := fun k => by
    split
    next h =>
      obtain ⟨hbound, hbinding⟩ := (Bool.and_eq_true _ _).mp h
      simp only [List.mem_map, List.mem_filter, decide_eq_true_eq, Prod.mk.injEq, hbound, of_decide_eq_true hbinding, true_and]
      exact ⟨fun ⟨_, hm, hk, hx⟩ => hx ▸ ⟨hk, hm⟩, fun ⟨hk, hm⟩ => ⟨m, hm, hk, rfl⟩⟩
    next h =>
      refine ⟨fun h => absurd h List.not_mem_nil, fun ⟨_, hb, _⟩ => absurd ?_ h⟩
      simp [hb]
  simp only [State.bindingRules, List.mem_flatMap, List.mem_range, hcore]
  exact ⟨fun ⟨_, hk, he, h⟩ => he ▸ ⟨hk, h⟩, fun ⟨hk, h⟩ => ⟨n, hk, rfl, h⟩⟩

/-- The rules of a binding are rules of a core's 256. -/
theorem State.bindingRules_lt {s : State} {b : Nat} {p : Nat × Nat} (h : p ∈ s.bindingRules b) : p.1 < 16 ∧ p.2 < 256 :=
  ⟨(State.mem_bindingRules_iff.mp h).1, State.mem_bindingRules h⟩

theorem State.mem_groupsOf {s : State} {b g : Nat} : g ∈ s.groupsOf b ↔ ∃ p ∈ s.bindingRules b, (s.rule p.1 p.2).group = g := by
  rw [State.groupsOf, mem_ascending, List.mem_map]

theorem State.mem_groupRules {s : State} {b g : Nat} {p : Nat × Nat} : p ∈ s.groupRules b g ↔ p ∈ s.bindingRules b ∧ (s.rule p.1 p.2).group = g := by
  rw [State.groupRules, List.mem_filter, decide_eq_true_iff]

theorem State.mem_members {s : State} {b m g n : Nat} : n ∈ s.members b m g ↔ (n, m) ∈ s.bindingRules b ∧ (s.rule n m).group = g := by
  simp only [State.members, List.mem_map, List.mem_filter, decide_eq_true_eq]
  constructor
  · rintro ⟨⟨i, j⟩, ⟨hp, rfl⟩, rfl⟩
    exact State.mem_groupRules.mp hp
  · exact fun h => ⟨(n, m), ⟨State.mem_groupRules.mpr h, rfl⟩, rfl⟩

/-- The members whose window opens, `pend` the groups that an APPLY waits for. -/
def State.dueRules (s : State) (b : Nat) (pend : Nat → Bool) : List (Nat × Nat) :=
  ((s.groupsOf b).filter (fun g => s.groupReady b g (pend g))).flatMap (fun g => (s.groupRules b g).filter (fun p => s.ruleState p ≠ 2))

theorem State.mem_dueRules {s : State} {b : Nat} {pend : Nat → Bool} {p : Nat × Nat} : p ∈ s.dueRules b pend ↔ p ∈ s.bindingRules b ∧
    s.groupReady b (s.rule p.1 p.2).group (pend (s.rule p.1 p.2).group) = true ∧ s.ruleState p ≠ 2 := by
  simp only [State.dueRules, List.mem_flatMap, List.mem_filter, State.mem_groupRules, State.mem_groupsOf, decide_eq_true_eq]
  constructor
  · rintro ⟨g, ⟨-, hready⟩, ⟨hp, rfl⟩, hstate⟩
    exact ⟨hp, hready, hstate⟩
  · exact fun ⟨hp, hready, hstate⟩ => ⟨_, ⟨⟨p, hp, rfl⟩, hready⟩, ⟨hp, rfl⟩, hstate⟩

/-- The groups of other devices only whose window opens there. -/
def State.dueFar (s : State) (b : Nat) (pend : Nat → Bool) : List Nat := (s.farGroups b).filter (fun g => s.farReady b g (pend g))

/-- The groups that an APPLY waits for: here, or as the lead told with the command (R283). -/
def State.applyPends (s : State) (b : Nat) (granted : List (BitVec 8)) (g : Nat) : Bool :=
  (s.bnd b).applyPending g || ((s.bnd b).lead ≠ s.sys.myDev && granted.any (fun y => y.toNat = g))

/-- The binding as its windows open. -/
def State.openedBnd (s : State) (b : Nat) (pend : Nat → Bool) : Binding :=
  { s.bnd b with
    farOpen := (s.bnd b).farOpen ++ (s.dueFar b pend).map (fun g => (BitVec.ofNat 8 g, !(s.peerAsk b g).getLsbD 3))
    windowOpen := (s.bnd b).windowOpen || decide (s.dueFar b pend ≠ []) || (s.bindingRules b).any (fun p =>
      s.groupReady b (s.rule p.1 p.2).group (pend (s.rule p.1 p.2).group) && decide (s.ruleState p ≠ 2) && !(s.rule p.1 p.2).overlap) }

theorem State.dueRules_any (s : State) (b : Nat) (pend : Nat → Bool) (f : Nat × Nat → Bool) : (s.dueRules b pend).any f =
    (s.bindingRules b).any (fun p => s.groupReady b (s.rule p.1 p.2).group (pend (s.rule p.1 p.2).group) && decide (s.ruleState p ≠ 2) && f p) := by
  rw [Bool.eq_iff_iff, List.any_eq_true, List.any_eq_true]
  refine exists_congr fun p => ?_
  simp only [State.mem_dueRules, Bool.and_eq_true, decide_eq_true_eq, and_assoc]

/-- The binding takes note of the groups `far` of other devices that open, and that a window without OVERLAP is open (R177). -/
def State.noteOpen (s : State) (b : Nat) (far : List Nat) (autos : List (BitVec 8 × Bool)) (ps : List (Nat × Nat)) : State :=
  let s := s.setBnd b { s.bnd b with farOpen := (s.bnd b).farOpen ++ autos }
  if far ≠ [] || ps.any (fun p => !(s.rule p.1 p.2).overlap) then s.setBnd b { s.bnd b with windowOpen := true } else s

theorem State.noteOpen_eq {s : State} (hb : Tab.wf (fun _ => Binding.empty) s.cmd.bindings) (b : Nat) (far : List Nat)
    (autos : List (BitVec 8 × Bool)) (ps : List (Nat × Nat)) : s.noteOpen b far autos ps = s.setBnd b { s.bnd b with
      farOpen := (s.bnd b).farOpen ++ autos
      windowOpen := (s.bnd b).windowOpen || decide (far ≠ []) || ps.any (fun p => !(s.rule p.1 p.2).overlap) } := by
  have hrule : ∀ (x : Binding) (p : Nat × Nat), (s.setBnd b x).rule p.1 p.2 = s.rule p.1 p.2 := fun _ _ => rfl
  unfold State.noteOpen
  simp only [hrule, State.bnd_setBnd_same hb, State.setBnd_setBnd hb]
  rw [Bool.or_assoc]
  split
  next h => rw [h, Bool.or_true]
  next h => rw [Bool.eq_false_of_not_eq_true h, Bool.or_false]

theorem State.applyOpen_note {s : State} {b : Nat} (hvalid : (s.bnd b).valid = true) (hrun : (s.bnd b).running = false)
    (granted : List (BitVec 8)) : s.applyOpen b granted =
      (s.forAll (s.dueRules b (s.applyPends b granted)) (fun s p => s.openRule b p)).noteOpen b (s.dueFar b (s.applyPends b granted))
        ((s.dueFar b (s.applyPends b granted)).map (fun g => (BitVec.ofNat 8 g, !(s.peerAsk b g).getLsbD 3)))
        (s.dueRules b (s.applyPends b granted)) := by
  have hgo : ¬ ((!(s.bnd b).valid || (s.bnd b).running) = true) := by simp [hvalid, hrun]
  exact if_neg hgo

/-- At a boundary the windows of the members due open, and the binding knows of those elsewhere. -/
theorem State.applyOpen_eq {s : State} (hs : Canon s) {b : Nat} (hvalid : (s.bnd b).valid = true) (hrun : (s.bnd b).running = false)
    (granted : List (BitVec 8)) : s.applyOpen b granted =
      (s.forAll (s.dueRules b (s.applyPends b granted)) (fun s p => s.openRule b p)).setBnd b (s.openedBnd b (s.applyPends b granted)) := by
  have hopened : WindowsOpened _ s (s.forAll (s.dueRules b (s.applyPends b granted)) (fun s p => s.openRule b p)) :=
    State.forAll_openRule (fun p hp => State.bindingRules_lt (State.mem_dueRules.mp hp).1) b (.of_canon hs)
  have hcmd := hopened.cmd
  have hbnd : ∀ u : State, u.cmd = s.cmd → u.bnd b = s.bnd b := fun u hu => by rw [State.bnd, State.bnd, hu]
  rw [State.applyOpen_note hvalid hrun, State.noteOpen_eq (hcmd ▸ Canon_bindings hs), hbnd _ hcmd, State.openedBnd]
  simp only [hopened.rule, State.dueRules_any]

section
variable {s : State} (hs : Canon s) {b : Nat} (hvalid : (s.bnd b).valid = true) (hrun : (s.bnd b).running = false) (granted : List (BitVec 8))
include hs

theorem State.dueRules_Opened (pend : Nat → Bool) : WindowsOpened (s.dueRules b pend) s (s.forAll (s.dueRules b pend) (fun s p => s.openRule b p)) :=
  State.forAll_openRule (fun _ hp => State.bindingRules_lt (State.mem_dueRules.mp hp).1) b (.of_canon hs)

include hvalid hrun

theorem State.applyOpen_Frame :
    Spec.Frame [.reg, .cmd, .core, .fab, .eth, .irq, .ptb, .out, .free] s (s.applyOpen b granted) := by
  have hopened := State.dueRules_Opened hs (b := b) (s.applyPends b granted)
  rw [State.applyOpen_eq hs hvalid hrun]
  exact Frame_of_acts (State.setBnd_Only _ _ (by decide) (hopened.only.mono (by decide)))
    (hopened.acts.trans (.of_only (State.setBnd_Only (L := [.cmd]) _ _ (by decide) (.refl _ _)) (by decide)))

theorem State.applyOpen_ruleState {p : Nat × Nat} (hp : p ∈ s.bindingRules b) :
    (p ∈ s.dueRules b (s.applyPends b granted) → (s.applyOpen b granted).ruleState p = 2 ∧
      (s.applyOpen b granted).rbit (Reg.coreLrnStatus p.1) 1 = true) ∧
    (p ∉ s.dueRules b (s.applyPends b granted) → (s.applyOpen b granted).ruleState p = s.ruleState p) := by
  have hopened := State.dueRules_Opened hs (b := b) (s.applyPends b granted)
  obtain ⟨hn, hm⟩ := State.bindingRules_lt hp
  rw [State.applyOpen_eq hs hvalid hrun]
  exact ⟨hopened.opened p, hopened.others p hn hm⟩

theorem State.applyOpen_bnd : (s.applyOpen b granted).bnd b = s.openedBnd b (s.applyPends b granted) := by
  rw [State.applyOpen_eq hs hvalid hrun]
  exact State.bnd_setBnd_same ((State.dueRules_Opened hs _).cmd ▸ Canon_bindings hs) b _

/-- What a member whose window opens sends to another owner on this device, where no circuit carries it. -/
theorem State.applyOpen_out {n m o : Nat} {x : Xfer} (hp : (n, m) ∈ s.dueRules b (s.applyPends b granted))
    (ho : (o, m) ∈ s.bindingRules b) (hgroup : (s.rule o m).group = (s.rule n m).group) (hne : o ≠ n)
    (hnone : s.carriage b n s.sys.myDev (s.sysOf o) = none)
    (hmeet : (meetSegs (s.rule o m).ownSegs (s.tileOf n m)).1 < (meetSegs (s.rule o m).ownSegs (s.tileOf n m)).2)
    (hx : x ∈ s.deltaXfers n m (meetSegs (s.rule o m).ownSegs (s.tileOf n m))
      (chunkRowsOf (cvtFmt (s.rule n m).cvtD) (s.rule n m).nsh ((s.rule o m).ownCols (s.mat o m)))) :
    Out.xfer none s.sys.myDev (BitVec.ofNat 10 (s.sysOf o)) (BitVec.ofNat 8 m) x ∈ (s.applyOpen b granted).out := by
  obtain ⟨hn, hm⟩ := State.bindingRules_lt (State.mem_dueRules.mp hp).1
  rw [State.applyOpen_eq hs hvalid hrun]
  refine WindowKept.forAll_out (fun t p hp ht => ?_) (fun t p => State.openRule_From t b p (.refl t)) hp (.of_canon hs) fun t hst ht => ?_
  · obtain ⟨hn, hm⟩ := State.bindingRules_lt (State.mem_dueRules.mp hp).1
    exact (State.openRule_Opened ht hn hm b).toWindowKept
  · obtain ⟨r, hr, heq⟩ := t.openRule_eq b (n, m)
    have hset := hst.trans (State.windowSet_Opened ht hn hm r hr).toWindowKept
    rw [heq]
    refine State.sendDeltas_out (ht.of_from (State.windowSet_From _ _ _)) hn hm b (o := o) ?_ hne fun u hu hut => ?_
    · rw [hset.rule, hset.members]
      exact State.mem_members.mpr ⟨ho, hgroup⟩
    · rw [hset.rule, hset.tileOf]
      exact State.deltasTo_out (hset.trans hu) hut hnone hmeet hx

end

end Sys2Proof.Machine
end

section
namespace Sys2Proof.Machine

/-! ## The binding's window closes where nothing applies (R182) -/

/-- Where every context is gated as it must be, nothing is judged anew (R176). -/
theorem State.regate_same {s : State} {b : Nat} (hw : Tab.wf (fun _ => Ctx.empty) s.cmd.ctxs)
    (hg : ∀ p ∈ s.ctxsOf b, p.2.gated = s.mustGate p.2) : s.regate b = s := by
  refine State.forAll_same fun p hp => ?_
  have hctx := State.ctx_of_mem_ctxsOf hw hp
  have hset : s.setCtx p.1 { s.ctx p.1 with gated := s.mustGate p.2 } = s := by
    rw [← hg p hp, ← hctx]
    exact State.setCtx_ctx hw p.1
  dsimp only
  rw [hset, ← hg p hp]
  cases p.2.gated <;> rfl

/-- The groups that close with no row and no report from another device. -/
def State.closing (s : State) (b : Nat) : List Nat :=
  (s.groupsOf b).filter (fun g =>
    (s.groupRules b g).all (fun p => s.ruleState p = 2 && s.memberDone p && ((s.red p.1 p.2).ovl || s.rowsHere p [])) &&
    (!decide ((s.bnd b).lead = s.sys.myDev) || (s.bnd b).gates.all (fun x => x.1.toNat ≠ g)))

/-- Whether a window is open that no step may pass (R177). -/
def State.windowLeft (s : State) (b : Nat) : Bool := decide ((s.bnd b).farOpen ≠ []) || (s.bindingRules b).any (fun p =>
  (s.ruleState p = 2 || s.ruleState p = 3) && !(s.rule p.1 p.2).overlap)

/-- Whether a window is still open is known anew. -/
def State.windowJudged (s : State) (b : Nat) : State := s.setBnd b { s.bnd b with windowOpen := s.windowLeft b }

/-- What is known of the groups `ended` on other devices is dropped. -/
def State.endedDropped (s : State) (b : Nat) (ended : Nat → Bool) : State :=
  s.setBnd b { s.bnd b with
    farOpen := (s.bnd b).farOpen.filter (fun x => !ended x.1.toNat)
    gates := (s.bnd b).gates.filter (fun x => !ended x.1.toNat) }

theorem State.endedDropped_none {s : State} (hb : Tab.wf (fun _ => Binding.empty) s.cmd.bindings) (b : Nat) {ended : Nat → Bool}
    (h : ∀ g, ended g = false) : s.endedDropped b ended = s := by
  have hall : ∀ g, (!ended g) = true := fun g => by rw [h g]; rfl
  unfold State.endedDropped
  simp only [hall, List.filter_true]
  exact State.setBnd_bnd hb b

/-- With no rows and no reports the groups of `closing` close, and no other. -/
theorem State.applyClose_eq {s : State} (hb : Tab.wf (fun _ => Binding.empty) s.cmd.bindings) (b : Nat) :
    s.applyClose b [] [] = (s.forAll (s.closing b) (fun s g => s.closeGroup b g [])).windowJudged b := by
  let lead := decide ((s.bnd b).lead = s.sys.myDev)
  let gs := (s.groupsOf b).filter (fun g =>
    (s.groupRules b g).all (fun p => s.ruleState p = 2 && s.memberDone p && ((s.red p.1 p.2).ovl || s.rowsHere p [])) &&
    (!lead || false || (s.bnd b).gates.all (fun x => x.1.toNat ≠ g)))
  have hgs : gs = s.closing b := List.filter_congr fun g _ => by rw [Bool.or_false]
  have hparts : s.applyClose b [] [] = (let u := s.endedDropped b (fun g => lead && !(s.groupsOf b).contains g && false)
      if gs = [] then u.windowJudged b else (u.forAll gs (fun s g => s.closeGroup b g [])).windowJudged b) := rfl
  rw [hparts, hgs, State.endedDropped_none hb b fun _ => Bool.and_false _]
  dsimp only
  split
  next hnone => rw [hnone]; rfl
  next => rfl

/-- After the groups have closed nothing more happens where no context leaves or enters a gate and nothing waits (R176, R182). -/
theorem State.windowClose_of {s t : State} {b : Nat} (hclose : s.applyClose b [] [] = t) (hb : Tab.wf (fun _ => Binding.empty) t.cmd.bindings)
    (hc : Tab.wf (fun _ => Ctx.empty) t.cmd.ctxs) (hg : ∀ p ∈ t.ctxsOf b, p.2.gated = t.mustGate p.2) (hqueue : (t.bnd b).queue = [])
    (hhalt : (t.bnd b).halting = false) : s.windowClose b [] [] = t := by
  unfold State.windowClose
  rw [hclose, State.regate_same hc hg]
  dsimp only
  rw [State.finishSteps_none hb hqueue, hhalt]
  rfl

/-- Where no rule of a binding is in its window and nothing waits, closing only judges anew whether a window is open (R182). -/
theorem State.windowClose_idle {s : State} (hs : Canon s) {b : Nat} (hnone : ∀ p ∈ s.bindingRules b, s.ruleState p ≠ 2)
    (hqueue : (s.bnd b).queue = []) (hhalt : (s.bnd b).halting = false) (hg : ∀ p ∈ s.ctxsOf b, p.2.gated = s.mustGate p.2) :
    s.windowClose b [] [] = s.windowJudged b := by
  have hb := Canon_bindings hs
  have hc := Canon_ctxs hs
  have hclosing : s.closing b = [] := List.filter_eq_nil_iff.mpr fun g hmem hclose => by
    obtain ⟨p, hp, hgroup⟩ := State.mem_groupsOf.mp hmem
    have hall := List.all_eq_true.mp ((Bool.and_eq_true _ _).mp hclose).1 p (State.mem_groupRules.mpr ⟨hp, hgroup⟩)
    simp only [Bool.and_eq_true, decide_eq_true_eq] at hall
    exact hnone p hp hall.1.1
  have hbnd : (s.windowJudged b).bnd b = { s.bnd b with windowOpen := s.windowLeft b } := State.bnd_setBnd_same hb b _
  refine State.windowClose_of (by rw [State.applyClose_eq hb, hclosing]; rfl) (Tab.wf_set hb _ _) hc hg ?_ ?_
  · rw [hbnd]; exact hqueue
  · rw [hbnd]; exact hhalt

/-- With no rule in its window the rules left in PART decide. -/
theorem State.windowLeft_of_none {s : State} {b : Nat} (hnone : ∀ p ∈ s.bindingRules b, s.ruleState p ≠ 2) : s.windowLeft b =
    (decide ((s.bnd b).farOpen ≠ []) || (s.bindingRules b).any (fun p => decide (s.ruleState p = 3) && !(s.rule p.1 p.2).overlap)) := by
  refine congrArg (decide ((s.bnd b).farOpen ≠ []) || ·) ?_
  rw [Bool.eq_iff_iff, List.any_eq_true, List.any_eq_true]
  refine exists_congr fun p => and_congr_right fun hp => ?_
  simp [hnone p hp]

end Sys2Proof.Machine
end

section
namespace Sys2Proof.Machine

/-! ## A row of the synapse store has the length of its stride (R94) -/

theorem length_padTo {n : Nat} {l : List Byte} (h : l.length ≤ n) : (padTo n l).length = n := by
  rw [padTo, List.length_append, List.length_replicate]
  omega

theorem length_pieces {α : Type} (k n : Nat) (l : List α) : (pieces k n l).length = n := by
  induction n generalizing l with
  | zero => rfl
  | succ n ih => rw [pieces, List.length_cons, ih]

theorem length_flatMap_le {α β : Type} {f : α → List β} {k : Nat} {l : List α} (h : ∀ x ∈ l, (f x).length ≤ k) :
    (l.flatMap f).length ≤ l.length * k := by
  induction l with
  | nil => exact Nat.zero_le _
  | cons x r ih =>
    have hx := h x List.mem_cons_self
    have hr := ih fun y hy => h y (List.mem_cons_of_mem x hy)
    rw [List.flatMap_cons, List.length_append, List.length_cons, Nat.succ_mul]
    omega

theorem le_round16 (n : Nat) : n ≤ round16 n := by
  unfold round16
  omega

theorem length_storeLayout (f n : Nat) (l : List Byte) : (storeLayout f n l).length = rowStride f n := by
  unfold storeLayout rowStride
  split
  next hblocked =>
    refine length_padTo (Nat.le_trans ?_ (le_round16 _))
    have hwb : rowWB f n = ncolp n / 32 * (4 * fmtBits f) := by
      have hcols : ncolp n = 32 * (ncolp n / 32) := by unfold ncolp; omega
      rw [rowWB]
      conv_lhs => rw [hcols]
      rw [show 32 * (ncolp n / 32) * fmtBits f = 8 * (ncolp n / 32 * (4 * fmtBits f)) by ring, Nat.mul_div_cancel_left _ (by decide)]
    have hblocks := length_pieces (4 * fmtBits f + 1) (ncolp n / 32) l
    have hweights := length_flatMap_le (f := fun x : List Byte => x.take (4 * fmtBits f)) (k := 4 * fmtBits f)
      (l := pieces (4 * fmtBits f + 1) (ncolp n / 32) l) fun x _ => List.length_take_le _ _
    have hscales := length_flatMap_le (f := fun x : List Byte => (x.drop (4 * fmtBits f)).take 1) (k := 1)
      (l := pieces (4 * fmtBits f + 1) (ncolp n / 32) l) fun x _ => List.length_take_le _ _
    rw [hblocks] at hweights hscales
    rw [List.length_append, hwb, rowSB, if_pos hblocked]
    omega
  next =>
    refine length_padTo (Nat.le_trans (List.length_take_le _ _) (Nat.le_trans (Nat.le_add_right _ _) (le_round16 _)))

/-! ## The tables and what the cores are bound to decide the rules of a binding -/

theorem SameTables.bindingRules {s t : State} (h : SameTables s t)
    (hc : ∀ k, (t.cor k).bound = (s.cor k).bound ∧ (t.cor k).binding = (s.cor k).binding) (b : Nat) :
    t.bindingRules b = s.bindingRules b := by
  refine List.flatMap_congr fun k hk => ?_
  have hk : k < 16 := List.mem_range.mp hk
  obtain ⟨hbound, hbinding⟩ := hc k
  rw [hbound, hbinding, h.rulesOf hk]
  refine if_congr Iff.rfl (congrArg _ (List.filter_congr fun i hi => ?_)) rfl
  rw [h.rule hk (State.mem_rulesOf hi)]

theorem SameTables.groupRules {s t : State} (h : SameTables s t)
    (hc : ∀ k, (t.cor k).bound = (s.cor k).bound ∧ (t.cor k).binding = (s.cor k).binding) (b g : Nat) :
    t.groupRules b g = s.groupRules b g := by
  rw [State.groupRules, State.groupRules, h.bindingRules hc]
  refine List.filter_congr fun p hp => ?_
  obtain ⟨hn, hm⟩ := State.bindingRules_lt hp
  rw [h.rule hn hm]

theorem SameTables.members {s t : State} (h : SameTables s t)
    (hc : ∀ k, (t.cor k).bound = (s.cor k).bound ∧ (t.cor k).binding = (s.cor k).binding) (b m g : Nat) :
    t.members b m g = s.members b m g := by
  rw [State.members, State.members, h.groupRules hc]

/-! ## The staged rows of a member that reduces alone (R182) -/

/-- The place of a row in the synapse store. -/
def State.rowPlace (s : State) (n m i : Nat) : Nat := Mem.store n 0 + (s.mat n m).base + i * (s.mat n m).stride

/-- A staged row as the store of its owner will hold it. -/
def State.newStored (s : State) (n m : Nat) (y : Nat × List Byte) : List Byte :=
  storeLayout (s.mat n m).fmt (s.mat n m).ncol (Spec.newRow s n n m y.1 y.2)

/-- The segments of its own tile that a member owns. -/
def State.ownMeet (s : State) (n m : Nat) : Nat × Nat := meetSegs (s.rule n m).ownSegs (s.tileOf n m)

theorem State.length_newStored (s : State) (n m : Nat) (y : Nat × List Byte) : (s.newStored n m y).length = (s.mat n m).stride :=
  length_storeLayout _ _ _

/-- A row of the store is written, and what phase 1 had read of it is dropped. -/
def State.rowPut (s : State) (n m : Nat) (y : Nat × List Byte) : State :=
  (s.putBytes (s.rowPlace n m y.1) (s.newStored n m y)).setCor n ((s.cor n).dropRows (s.rowPlace n m y.1) (s.mat n m).stride)

theorem State.weightRow_stored {s : State} {n m : Nat} (hstore : (s.mat n m).streamed = false) (i : Nat) :
    s.weightRow n m i = packedLayout (s.mat n m).fmt (s.mat n m).ncol (s.bytes (s.rowPlace n m i) (s.mat n m).stride) :=
  if_neg (hstore ▸ Bool.false_ne_true)

theorem State.writeWeights_stored {s : State} {n m : Nat} (hstore : (s.mat n m).streamed = false) (i seg : Nat) (l : List Byte) :
    s.writeWeights n m i seg l =
      (let off := seg * blockBytes (s.mat n m).fmt 256
       let old := s.weightRow n m i
       (s.putBytes (s.rowPlace n m i) (storeLayout (s.mat n m).fmt (s.mat n m).ncol (old.take off ++ l ++ old.drop (off + l.length)))).setCor n
         ((s.cor n).dropRows (s.rowPlace n m i) (s.mat n m).stride)) :=
  if_neg (hstore ▸ Bool.false_ne_true)

theorem State.writeStaged_eq {s : State} {n m : Nat} (hmembers : s.members (s.rule n m).binding m (s.rule n m).group = [n])
    (hstore : (s.mat n m).streamed = false) (y : Nat × List Byte) :
    s.writeStaged n m y = if (s.ownMeet n m).1 < (s.ownMeet n m).2 then s.rowPut n m y else s := by
  have hone : s.writeStaged n m y = s.writePart n m n y := by rw [State.writeStaged, hmembers, State.forAll_one]
  have hpart : s.writePart n m n y = if (s.ownMeet n m).1 < (s.ownMeet n m).2 then
      s.writeWeights n m y.1 ((s.ownMeet n m).1 - (s.rule n m).segBase)
        ((y.2.drop (((s.ownMeet n m).1 - (s.rule n m).ownFirst) * blockBytes (s.mat n m).fmt 256)).take
          (((s.ownMeet n m).2 - (s.ownMeet n m).1) * blockBytes (s.mat n m).fmt 256)) else s := rfl
  rw [hone, hpart, State.writeWeights_stored hstore]
  rfl

/-- The staged rows `ys` of a member have been written. -/
structure RowsPut (n m : Nat) (ys : List (Nat × List Byte)) (s t : State) : Prop where
  only   : OnlyChanges [.core, .mem] s t
  tables : SameTables s t
  cores  : ∀ k, (t.cor k).bound = (s.cor k).bound ∧ (t.cor k).binding = (s.cor k).binding
  reds   : t.core.reds = s.core.reds
  frame  : ∀ a, (∀ y ∈ ys, a < s.rowPlace n m y.1 ∨ s.rowPlace n m y.1 + (s.mat n m).stride ≤ a) → t.byteAt a = s.byteAt a
  value  : (s.ownMeet n m).1 < (s.ownMeet n m).2 → ∀ i y, ys.filter (fun z => decide (z.1 = i)) = [y] →
    t.bytes (s.rowPlace n m i) (s.mat n m).stride = s.newStored n m y

/-- A byte of one row is no byte of another. -/
theorem State.rowPlace_apart (s : State) (n m : Nat) {i j a : Nat} (hij : i ≠ j) (hlo : s.rowPlace n m i ≤ a)
    (hhi : a < s.rowPlace n m i + (s.mat n m).stride) : a < s.rowPlace n m j ∨ s.rowPlace n m j + (s.mat n m).stride ≤ a := by
  by_contra hin
  unfold State.rowPlace at *
  generalize Mem.store n 0 + (s.mat n m).base = p, (s.mat n m).stride = k at *
  exact hij (eq_of_same_stride (p := p) (off := 0) (k := k) (w := k) (a := a) (by omega) (by omega) (by omega))

namespace RowsPut
variable {n m : Nat} {s t u : State}

theorem nil (s : State) : RowsPut n m [] s s :=
  ⟨.refl _ s, .refl s, fun _ => ⟨rfl, rfl⟩, rfl, fun _ _ => rfl, fun _ _ _ h => absurd h (by simp)⟩

variable (hn : n < 16) (hm : m < 256)
include hn hm

theorem rowPlace {ys : List (Nat × List Byte)} (h : RowsPut n m ys s t) (i : Nat) : t.rowPlace n m i = s.rowPlace n m i := by
  rw [State.rowPlace, State.rowPlace, h.tables.mat hn hm]

theorem ownMeet {ys : List (Nat × List Byte)} (h : RowsPut n m ys s t) : t.ownMeet n m = s.ownMeet n m := by
  rw [State.ownMeet, State.ownMeet, State.tileOf, State.tileOf, h.tables.rule hn hm, h.tables.mat hn hm]

/-- A row that no write touched will be stored as before. -/
theorem newStored (hstore : (s.mat n m).streamed = false) {x y : Nat × List Byte} (h : RowsPut n m [x] s t) (hxy : x.1 ≠ y.1) :
    t.newStored n m y = s.newStored n m y := by
  have hbytes : t.bytes (s.rowPlace n m y.1) (s.mat n m).stride = s.bytes (s.rowPlace n m y.1) (s.mat n m).stride :=
    State.bytes_eq_of_range fun a hlo hhi => h.frame a fun z hz => by
      obtain rfl := List.mem_singleton.mp hz
      exact s.rowPlace_apart n m hxy.symm hlo hhi
  have hrow : t.weightRow n m y.1 = s.weightRow n m y.1 := by
    rw [State.weightRow_stored hstore, State.weightRow_stored (by rw [h.tables.mat hn hm]; exact hstore), h.tables.mat hn hm,
      h.rowPlace hn hm, hbytes]
  unfold State.newStored Spec.newRow State.tileOf
  rw [h.tables.rule hn hm, h.tables.mat hn hm, hrow]

theorem cons (hstore : (s.mat n m).streamed = false) {x : Nat × List Byte} {r : List (Nat × List Byte)} (h : RowsPut n m [x] s t)
    (g : RowsPut n m r t u) : RowsPut n m (x :: r) s u where
  only := h.only.trans g.only
  tables := h.tables.trans g.tables
  cores k := ⟨(g.cores k).1.trans (h.cores k).1, (g.cores k).2.trans (h.cores k).2⟩
  reds := g.reds.trans h.reds
  frame a ha := by
    have hr : ∀ y ∈ r, a < t.rowPlace n m y.1 ∨ t.rowPlace n m y.1 + (t.mat n m).stride ≤ a := fun y hy => by
      rw [h.rowPlace hn hm, h.tables.mat hn hm]
      exact ha y (List.mem_cons_of_mem x hy)
    exact (g.frame a hr).trans (h.frame a fun y hy => ha y (List.mem_singleton.mp hy ▸ List.mem_cons_self))
  value hmeet i y hy := by
    have hvalue := g.value (by rw [h.ownMeet hn hm]; exact hmeet) i
    rw [h.rowPlace hn hm, h.tables.mat hn hm] at hvalue
    by_cases hx : x.1 = i
    · rw [List.filter_cons_of_pos (by simpa using hx)] at hy
      obtain ⟨rfl, hrest⟩ := List.cons.inj hy
      rw [← h.value hmeet i x (by simp [hx])]
      refine State.bytes_eq_of_range fun a hlo hhi => g.frame a fun z hz => ?_
      rw [h.rowPlace hn hm, h.tables.mat hn hm]
      refine s.rowPlace_apart n m (fun hzi => ?_) hlo hhi
      exact List.filter_eq_nil_iff.mp hrest z hz (decide_eq_true hzi.symm)
    · rw [List.filter_cons_of_neg (by simpa using hx)] at hy
      have hmem : y ∈ r.filter (fun z => decide (z.1 = i)) := by rw [hy]; exact List.mem_singleton_self y
      have hyi : y.1 = i := of_decide_eq_true (List.mem_filter.mp hmem).2
      rw [hvalue y hy, h.newStored hn hm hstore fun hxy => hx (hxy.trans hyi)]

end RowsPut

theorem State.byteAt_putBytes_outside {s : State} (hw : Memory.wf s.mem) {k a : Nat} {v : List Byte} (ha : a < k ∨ k + v.length ≤ a) :
    (s.putBytes k v).byteAt a = s.byteAt a := Memory.get_putBytes_outside hw v (by omega)

theorem State.bytes_putBytes {s : State} (hw : Memory.wf s.mem) (k : Nat) (v : List Byte) : (s.putBytes k v).bytes k v.length = v :=
  State.bytes_eq fun _ hi => Memory.get_putBytes_inside hw k hi

/-- The synapse store of a core holds none of its tables. -/
theorem not_tableByte_of_synapse {n a : Nat} (hlo : Mem.store n 0 ≤ a) (hhi : a < Mem.store n 1) : ¬ tableByte a := by
  rintro ⟨k, -, hk, hk'⟩
  unfold Mem.store at *
  omega

/-- The rows of a matrix end in the synapse store. -/
theorem State.rowPlace_in {s : State} {n m i : Nat} (hfit : s.rowPlace n m (s.mat n m).nrows ≤ Mem.store n 1) (hi : i < (s.mat n m).nrows) :
    Mem.store n 0 ≤ s.rowPlace n m i ∧ s.rowPlace n m i + (s.mat n m).stride ≤ Mem.store n 1 := by
  have hrow : i * (s.mat n m).stride + (s.mat n m).stride ≤ (s.mat n m).nrows * (s.mat n m).stride :=
    (Nat.succ_mul _ _).symm.trans_le (Nat.mul_le_mul_right _ hi)
  unfold State.rowPlace at *
  omega

section
variable {s : State} {n m : Nat}

theorem State.rowPut_RowsPut (hw : Memory.wf s.mem) (hc : Tab.wf (fun _ => Core.empty) s.core.cores) {y : Nat × List Byte}
    (hfit : s.rowPlace n m (s.mat n m).nrows ≤ Mem.store n 1) (hy : y.1 < (s.mat n m).nrows) : RowsPut n m [y] s (s.rowPut n m y) := by
  have hlen := s.length_newStored n m y
  obtain ⟨hlo, hhi⟩ := State.rowPlace_in hfit hy
  have hframe : ∀ a, a < s.rowPlace n m y.1 ∨ s.rowPlace n m y.1 + (s.mat n m).stride ≤ a → (s.rowPut n m y).byteAt a = s.byteAt a :=
    fun a ha => State.byteAt_putBytes_outside hw (by rw [hlen]; exact ha)
  constructor
  · exact State.setCor_Only _ _ (by decide) (State.putBytes_Only _ _ (by decide) (.refl _ s))
  · intro a ha
    refine hframe a (by_contra fun hin => not_tableByte_of_synapse (n := n) ?_ ?_ ha) <;> omega
  · intro k
    by_cases hk : k = n
    · subst hk
      have hcor : (s.rowPut k m y).cor k = (s.cor k).dropRows _ _ := State.cor_setCor_same (s := s.putBytes _ _) hc k _
      rw [hcor]
      exact ⟨rfl, rfl⟩
    · have hcor : (s.rowPut n m y).cor k = s.cor k := State.cor_setCor_other (s := s.putBytes _ _) hc _ hk
      rw [hcor]
      exact ⟨rfl, rfl⟩
  · rfl
  · exact fun a ha => hframe a (ha y (List.mem_singleton_self y))
  · intro _ i z hz
    obtain ⟨hzy, hzi⟩ := List.mem_filter.mp (hz ▸ List.mem_singleton_self z)
    obtain rfl := List.mem_singleton.mp hzy
    obtain rfl := of_decide_eq_true hzi
    rw [← hlen]
    exact (State.bytes_congr (s := s.putBytes (s.rowPlace n m z.1) (s.newStored n m z)) (t := s.rowPut n m z) rfl _ _).trans
      (State.bytes_putBytes hw _ _)

theorem State.forAll_writeStaged (hn : n < 16) (hm : m < 256) (hw : Memory.wf s.mem) (hc : Tab.wf (fun _ => Core.empty) s.core.cores)
    (hmembers : s.members (s.rule n m).binding m (s.rule n m).group = [n]) (hstore : (s.mat n m).streamed = false)
    (hfit : s.rowPlace n m (s.mat n m).nrows ≤ Mem.store n 1) {ys : List (Nat × List Byte)} (hys : ∀ y ∈ ys, y.1 < (s.mat n m).nrows) :
    RowsPut n m ys s (s.forAll ys (fun s y => s.writeStaged n m y)) := by
  induction ys generalizing s with
  | nil => exact .nil s
  | cons y r ih =>
    have hput : RowsPut n m [y] s (s.writeStaged n m y) := by
      rw [State.writeStaged_eq hmembers hstore]
      split
      next => exact State.rowPut_RowsPut hw hc hfit (hys y List.mem_cons_self)
      next hmeet => exact { RowsPut.nil (n := n) (m := m) s with frame := fun _ _ => rfl, value := fun h => absurd h hmeet }
    have hfrom : (s.writeStaged n m y).From s := State.writeStaged_From _ _ _ _ (.refl s)
    have hmat := hput.tables.mat hn hm
    refine hput.cons hn hm hstore (ih (hfrom.cells.wf hw) (hfrom.cores.wf hc) ?_ (by rw [hmat]; exact hstore) ?_ ?_)
    · rw [hput.tables.rule hn hm, hput.tables.members hput.cores]
      exact hmembers
    · rw [hput.rowPlace hn hm, hmat]
      exact hfit
    · rw [hmat]
      exact fun z hz => hys z (List.mem_cons_of_mem y hz)

end

end Sys2Proof.Machine
end

section
namespace Sys2Proof.Machine

/-! ## The deltas of an epoch are cleared (R171, R182) -/

theorem State.byteAt_clearRange {s : State} (hw : Memory.wf s.mem) (k n a : Nat) :
    (s.clearRange k n).byteAt a = if k ≤ a ∧ a < k + n then 0 else s.byteAt a := by
  have hget := Tab.get_filter_key hw (fun a => !(decide (k ≤ a) && decide (a < k + n))) a
  refine Eq.trans hget ?_
  by_cases hin : k ≤ a ∧ a < k + n
  · rw [if_pos hin, if_neg (by simp [hin])]
    rfl
  · rw [if_neg hin, if_pos (by simp only [Bool.not_eq_true', Bool.and_eq_false_iff, decide_eq_false_iff_not]; omega)]
    rfl

/-- Bytes of the delta rows of one group of sets. -/
def State.deltaBytes (s : State) (n m : Nat) : Nat := (s.rule n m).nsh * (s.mat n m).nrows * (s.rule n m).dStride (s.mat n m)

/-- The delta rows of a rule without OVERLAP and without delays read 0, and nothing else changes. -/
theorem State.clearDeltas_eq {s : State} {n m : Nat} (hdelay : (s.rule n m).dlearn = false) (hoverlap : (s.rule n m).overlap = false) :
    s.clearDeltas n m (s.applySet n m) false =
      (s.clearRange ((s.rule n m).region n) (s.deltaBytes n m)).dropConv ((s.rule n m).region n) (s.deltaBytes n m) := by
  have hset : s.applySet n m = 0 := if_neg (hoverlap ▸ Bool.false_ne_true)
  have hfirst : (s.rule n m).dAddr (s.mat n m) n 0 0 0 = (s.rule n m).region n := by simp [RuleDesc.dAddr]
  unfold State.clearDeltas
  rw [hset]
  dsimp only
  rw [hfirst, hdelay]
  rfl

/-- The deltas of a rule of core `n` have been cleared. -/
structure DeltasCleared (n m : Nat) (s t : State) : Prop where
  only   : OnlyChanges [.mem] s t
  tables : SameTables s t
  bytes  : ∀ a, t.byteAt a = if (s.rule n m).region n ≤ a ∧ a < (s.rule n m).region n + s.deltaBytes n m then 0 else s.byteAt a

theorem scaledStride_le {f n : Nat} (hn : n < 2 ^ 14) : scaledStride f n ≤ 2 ^ 18 := by
  have hcols : ncolp n ≤ 2 ^ 14 + 32 := by unfold ncolp; omega
  have hwb : rowWB f n ≤ ncolp n * 16 / 8 := Nat.div_le_div_right (Nat.mul_le_mul_left _ (fmtBits_le f))
  have hsb : rowSB f n ≤ ncolp n / 32 := by
    unfold rowSB
    split
    · exact Nat.le_refl _
    · exact Nat.zero_le _
  unfold scaledStride round16
  split <;> omega

theorem State.deltaBytes_le (s : State) (n m : Nat) : s.deltaBytes n m ≤ 2 ^ 44 := by
  have hnsh : (s.rule n m).nsh ≤ 2 ^ 9 := (Nat.mod_lt _ (by decide)).le
  have hncol : (s.mat n m).ncol < 2 ^ 14 := Nat.mod_lt _ (by decide)
  calc s.deltaBytes n m ≤ 2 ^ 9 * 2 ^ 17 * 2 ^ 18 := Nat.mul_le_mul (Nat.mul_le_mul hnsh (s.nrows_lt n m).le) (scaledStride_le hncol)
    _ = 2 ^ 44 := by decide

/-- A rule's delta rows lie in the delta store of its core or in a slice (R172). -/
theorem State.region_in (s : State) (n m : Nat) : (Mem.store n 2 ≤ (s.rule n m).region n ∧
    (s.rule n m).region n + s.deltaBytes n m ≤ Mem.store n 3) ∨ Mem.slice 0 ≤ (s.rule n m).region n := by
  have hbytes := s.deltaBytes_le n m
  have hbase : (s.rule n m).dbase < 2 ^ 32 := ((s.rule n m).w.getD 12 0).isLt
  unfold RuleDesc.region
  split
  · right
    unfold Mem.slice
    omega
  · left
    unfold Mem.store
    omega

/-- The region of a rule holds none of the tables (R172, R334). -/
theorem not_tableByte_of_region {s : State} {n m a : Nat} (hlo : (s.rule n m).region n ≤ a)
    (hhi : a < (s.rule n m).region n + s.deltaBytes n m) : ¬ tableByte a := by
  rintro ⟨k, hk, hlo', hhi'⟩
  have hin := s.region_in n m
  unfold Mem.store Mem.slice at *
  omega

/-- The rows of a core's synapse store lie outside the region. -/
theorem not_region_of_synapse {s : State} {n m a : Nat} (hn : n < 16) (hlo : Mem.store n 0 ≤ a) (hhi : a < Mem.store n 1) :
    ¬ ((s.rule n m).region n ≤ a ∧ a < (s.rule n m).region n + s.deltaBytes n m) := by
  have hin := s.region_in n m
  unfold Mem.store Mem.slice at *
  omega

theorem State.clearDeltas_Cleared {s : State} (hw : Memory.wf s.mem) {n m : Nat} (hdelay : (s.rule n m).dlearn = false)
    (hoverlap : (s.rule n m).overlap = false) : DeltasCleared n m s (s.clearDeltas n m (s.applySet n m) false) := by
  have hbytes : ∀ a, (s.clearDeltas n m (s.applySet n m) false).byteAt a =
      if (s.rule n m).region n ≤ a ∧ a < (s.rule n m).region n + s.deltaBytes n m then 0 else s.byteAt a := fun a => by
    rw [State.clearDeltas_eq hdelay hoverlap]
    exact State.byteAt_clearRange hw _ _ a
  refine ⟨State.clearDeltas_Only _ _ _ _ _ (by decide) (.refl _ s), fun a ha => ?_, hbytes⟩
  rw [hbytes, if_neg fun ⟨hlo, hhi⟩ => not_tableByte_of_region hlo hhi ha]

/-! ## The registers of a member that closes (R182, R196) -/

/-- REPOCH has counted, VERSION has flipped, STATE is 0, and the longest apply has been noted. -/
def State.epochCounted (s : State) (p : Nat × Nat) (x : Reduction) : State :=
  let s := s.count (Reg.coreLrnRepoch p.1 p.2) 1
  let s := s.rmod (Reg.coreLrnRstat p.1 p.2) (fun w => withBit w 29 (!bitOf w 29))
  let s := s.setRuleState p 0
  s.maxReg (Reg.coreLrnApplymax p.1) (aclkOf (s.tmr.tb.toNat - x.openedAt.toNat))

/-- The registers that `epochCounted` and the end of the window write. -/
abbrev closedRegs (n m : Nat) : List Nat := [Reg.coreLrnRepoch n m, Reg.coreLrnRstat n m, Reg.coreLrnApplymax n, Reg.coreLrnStatus n]

/-- The APPLY flag of the core shows whether a rule of it is still in its window or in PART, and the reduction starts anew. -/
def State.ruleEnded (s : State) (p : Nat × Nat) (epoch : Nat) : State :=
  (s.rsetBit (Reg.coreLrnStatus p.1) 1 ((s.rulesOf p.1).any (fun m => s.ruleState (p.1, m) = 2 || s.ruleState (p.1, m) = 3))).setRed p.1 p.2
    { Reduction.empty with epoch := epoch + 1 }

theorem State.closeRule_eq (s : State) (p : Nat × Nat) : s.closeRule p =
    (let x := s.red p.1 p.2
     let t := if x.ovl then s else s.forAll x.staged (fun s y => s.writeStaged p.1 p.2 y)
     ((t.clearDeltas p.1 p.2 (t.applySet p.1 p.2) false).epochCounted p x).ruleEnded p x.epoch) := rfl

theorem bitOf_withField_other (x : Word) {lo w i : Nat} (v : Nat) (h : i < lo ∨ lo + w ≤ i) : bitOf (withField x lo w v) i = bitOf x i := by
  have hout : ¬ (lo ≤ i ∧ i < lo + w) := by omega
  simp only [bitOf, getLsbD_withField, if_neg hout]
  by_cases h32 : i < 32
  · simp [h32]
  · simp [h32, BitVec.getLsbD_of_ge x i (by omega)]

/-- A member whose window has ended is the only rule of its core: the APPLY flag goes. -/
theorem State.ruleEnded_eq {s : State} {n m : Nat} (hrules : s.rulesOf n = [m]) (hstate : s.ruleState (n, m) = 0) (epoch : Nat) :
    s.ruleEnded (n, m) epoch = (s.rsetBit (Reg.coreLrnStatus n) 1 false).setRed n m { Reduction.empty with epoch := epoch + 1 } := by
  have hany : ((s.rulesOf n).any fun m => s.ruleState (n, m) = 2 || s.ruleState (n, m) = 3) = false := by
    simp [hrules, hstate]
  unfold State.ruleEnded
  rw [hany]

/-- What the end of a member's window sets. -/
structure EndSet (n m : Nat) (epoch : Nat) (s u : State) : Prop where
  only  : OnlyChanges [.core, .reg] s u
  cores : u.core.cores = s.core.cores
  regs  : RegsOnly [Reg.coreLrnStatus n] s u
  red   : u.red n m = { Reduction.empty with epoch := epoch + 1 }
  unlit : u.rbit (Reg.coreLrnStatus n) 1 = false

theorem State.ruleEnded_EndSet {s : State} {n m : Nat} (hw : Tab.wf regReset s.reg.vals)
    (hreds : Tab.wf (fun _ => Reduction.empty) s.core.reds) (hrules : s.rulesOf n = [m]) (hstate : s.ruleState (n, m) = 0) (epoch : Nat) :
    EndSet n m epoch s (s.ruleEnded (n, m) epoch) := by
  rw [State.ruleEnded_eq hrules hstate]
  have hred : Tab.wf (fun _ => Reduction.empty) (s.rsetBit (Reg.coreLrnStatus n) 1 false).core.reds := hreds
  constructor
  · exact State.setRed_Only _ _ _ (by decide) (State.rsetBit_Only _ _ _ _ (by decide) (.refl _ s))
  · rfl
  · exact .rsetBit s _ _ (by simp)
  · exact State.red_setRed_same hred n m _
  · exact State.rbit_rsetBit_same hw _ false (by decide)

section
variable {s : State} (hw : Tab.wf regReset s.reg.vals) {n m : Nat}

theorem State.epochCounted_regs (x : Reduction) : RegsOnly (closedRegs n m) s (s.epochCounted (n, m) x) := by
  refine .trans (.count s 1 (by simp)) (.trans (.rset _ _ (by simp)) (.trans (.rsetField _ 27 2 0 ?_) (.maxReg _ _ (by simp))))
  simp

theorem State.epochCounted_Only (x : Reduction) : OnlyChanges [.reg] s (s.epochCounted (n, m) x) :=
  State.maxReg_Only _ _ _ (by decide) (State.setRuleState_Only _ _ _ (by decide) (State.rmod_Only _ _ _ (by decide)
    (State.count_Only _ _ _ (by decide) (.refl _ s))))

include hw

theorem State.epochCounted_values (hm : m < 256) (x : Reduction) :
    (s.epochCounted (n, m) x).ruleState (n, m) = 0 ∧
    (s.epochCounted (n, m) x).rbit (Reg.coreLrnRstat n m) 29 = !s.rbit (Reg.coreLrnRstat n m) 29 ∧
    (s.epochCounted (n, m) x).rfield (Reg.coreLrnRepoch n m) 0 32 = min (s.rfield (Reg.coreLrnRepoch n m) 0 32 + 1) (2 ^ 32 - 1) := by
  let s₁ := s.count (Reg.coreLrnRepoch n m) 1
  let s₂ := s₁.rmod (Reg.coreLrnRstat n m) (fun w => withBit w 29 (!bitOf w 29))
  have hw₁ : Tab.wf regReset s₁.reg.vals := Tab.wf_set hw _ _
  have hw₂ : Tab.wf regReset s₂.reg.vals := Tab.wf_set hw₁ _ _
  have hw₃ : Tab.wf regReset (s₂.setRuleState (n, m) 0).reg.vals := Tab.wf_set hw₂ _ _
  have hstat : (s.epochCounted (n, m) x).rget (Reg.coreLrnRstat n m) =
      withField (withBit (s.rget (Reg.coreLrnRstat n m)) 29 (!s.rbit (Reg.coreLrnRstat n m) 29)) 27 2 0 := by
    have h₁ : s₁.rget (Reg.coreLrnRstat n m) = s.rget (Reg.coreLrnRstat n m) :=
      State.rget_rset_other hw _ (by simp only [Reg.coreLrnRstat, Reg.coreLrnRepoch]; omega)
    have h₂ : s₂.rget (Reg.coreLrnRstat n m) = _ := State.rget_rmod_same hw₁ _ _
    have h₃ : (s₂.setRuleState (n, m) 0).rget (Reg.coreLrnRstat n m) = _ := State.rget_rmod_same hw₂ _ _
    rw [State.rbit, ← h₁, ← h₂, ← h₃]
    exact State.rget_rset_other hw₃ _ (by simp only [Reg.coreLrnRstat, Reg.coreLrnApplymax]; omega)
  refine ⟨?_, ?_, ?_⟩
  · rw [State.ruleState, State.rfield, hstat, fieldOf_withField_same _ _ (by decide), Nat.zero_mod]
  · rw [State.rbit, hstat]
    exact (bitOf_withField_other _ _ (by decide)).trans (bitOf_withBit_same _ _ (by decide))
  · have h₂ : s₂.rget (Reg.coreLrnRepoch n m) = s₁.rget (Reg.coreLrnRepoch n m) :=
      State.rget_rset_other hw₁ _ (by simp only [Reg.coreLrnRstat, Reg.coreLrnRepoch]; omega)
    have h₃ : (s₂.setRuleState (n, m) 0).rget (Reg.coreLrnRepoch n m) = s₂.rget (Reg.coreLrnRepoch n m) :=
      State.rget_rset_other hw₂ _ (by simp only [Reg.coreLrnRstat, Reg.coreLrnRepoch]; omega)
    have h₄ : (s.epochCounted (n, m) x).rget (Reg.coreLrnRepoch n m) = _ :=
      State.rget_rset_other hw₃ _ (by simp only [Reg.coreLrnApplymax, Reg.coreLrnRepoch]; omega)
    rw [← State.rfield_satAdd_same hw _ 1 (by decide), State.rfield, h₄, h₃, h₂]
    rfl

end

/-- A member that reduces alone: the rule of a core that is the only one of its core and of binding `b`, without OVERLAP, without delay
learning and in the synapse store. -/
structure ReducesAlone (s : State) (b n m : Nat) : Prop where
  core    : n < 16
  matrix  : m < 256
  rules   : s.bindingRules b = [(n, m)]
  only    : s.rulesOf n = [m]
  stored  : (s.mat n m).streamed = false
  overlap : (s.rule n m).overlap = false
  delay   : (s.rule n m).dlearn = false
  fits    : s.rowPlace n m (s.mat n m).nrows ≤ Mem.store n 1

namespace ReducesAlone
variable {s : State} {b n m : Nat} (h : ReducesAlone s b n m)
include h

theorem binding : (s.rule n m).binding = b := by
  have hmem : (n, m) ∈ s.bindingRules b := by rw [h.rules]; exact List.mem_singleton_self _
  exact (State.mem_bindingRules_iff.mp hmem).2.2.2

theorem groupRules : s.groupRules b (s.rule n m).group = [(n, m)] := by
  rw [State.groupRules, h.rules, List.filter_cons_of_pos (by simp)]
  rfl

theorem members : s.members (s.rule n m).binding m (s.rule n m).group = [n] := by
  rw [h.binding, State.members, h.groupRules, List.filter_cons_of_pos (by simp)]
  rfl

theorem groupsOf : s.groupsOf b = [(s.rule n m).group] := by
  rw [State.groupsOf, h.rules]
  rfl

end ReducesAlone

/-- A member that reduces alone has closed (R182, R196). -/
structure MemberClosed (n m : Nat) (s u : State) : Prop where
  only   : OnlyChanges [.core, .mem, .reg] s u
  tables : SameTables s u
  cores  : ∀ k, (u.cor k).bound = (s.cor k).bound ∧ (u.cor k).binding = (s.cor k).binding
  regs   : RegsOnly (closedRegs n m) s u
  red    : u.red n m = { Reduction.empty with epoch := (s.red n m).epoch + 1 }
  state  : u.ruleState (n, m) = 0
  flips  : u.rbit (Reg.coreLrnRstat n m) 29 = !s.rbit (Reg.coreLrnRstat n m) 29
  counts : u.rfield (Reg.coreLrnRepoch n m) 0 32 = min (s.rfield (Reg.coreLrnRepoch n m) 0 32 + 1) (2 ^ 32 - 1)
  unlit  : u.rbit (Reg.coreLrnStatus n) 1 = false
  clear  : ∀ a, a < s.deltaBytes n m → u.byteAt ((s.rule n m).region n + a) = 0
  rows   : (s.ownMeet n m).1 < (s.ownMeet n m).2 → ∀ i y, (s.red n m).staged.filter (fun z => decide (z.1 = i)) = [y] →
    u.bytes (s.rowPlace n m i) (s.mat n m).stride = s.newStored n m y
  frame  : ∀ a, (a < (s.rule n m).region n ∨ (s.rule n m).region n + s.deltaBytes n m ≤ a) →
    (∀ y ∈ (s.red n m).staged, a < s.rowPlace n m y.1 ∨ s.rowPlace n m y.1 + (s.mat n m).stride ≤ a) → u.byteAt a = s.byteAt a

theorem State.closeRule_Closed {s : State} (hs : Canon s) {b n m : Nat} (h : ReducesAlone s b n m) (hovl : (s.red n m).ovl = false)
    (hstaged : ∀ y ∈ (s.red n m).staged, y.1 < (s.mat n m).nrows) : MemberClosed n m s (s.closeRule (n, m)) := by
  have hrows := State.forAll_writeStaged h.core h.matrix (Canon_mem hs) (Canon_cores hs) h.members h.stored h.fits hstaged
  have hfrom : (s.forAll (s.red n m).staged (fun s y => s.writeStaged n m y)).From s :=
    State.From_forAll (fun _ _ h => State.writeStaged_From _ _ _ _ h) _ (.refl s)
  rw [State.closeRule_eq]
  dsimp only
  rw [hovl, if_neg Bool.false_ne_true]
  generalize s.forAll (s.red n m).staged (fun s y => s.writeStaged n m y) = t at hrows hfrom ⊢
  have hmat := hrows.tables.mat h.core h.matrix
  have hrule := hrows.tables.rule h.core h.matrix
  have hclear := State.clearDeltas_Cleared (hfrom.cells.wf (Canon_mem hs)) (n := n) (m := m) (by rw [hrule]; exact h.delay)
    (by rw [hrule]; exact h.overlap)
  generalize t.clearDeltas n m (t.applySet n m) false = v at hclear ⊢
  have hregion : (t.rule n m).region n = (s.rule n m).region n ∧ t.deltaBytes n m = s.deltaBytes n m := by
    rw [State.deltaBytes, State.deltaBytes, hrule, hmat]
    exact ⟨rfl, rfl⟩
  have hbytes : ∀ a, v.byteAt a = if (s.rule n m).region n ≤ a ∧ a < (s.rule n m).region n + s.deltaBytes n m then 0 else t.byteAt a := fun a => by
    rw [hclear.bytes, hregion.1, hregion.2]
  have hcore : v.core = t.core := hclear.only.same .core (by decide)
  have hreg : v.reg = s.reg := (hclear.only.same .reg (by decide)).trans (hrows.only.same .reg (by decide))
  have hvals : Tab.wf regReset v.reg.vals := hreg ▸ Canon_vals hs
  have hreds : Tab.wf (fun _ => Reduction.empty) v.core.reds := by
    rw [hcore, hrows.reds]
    exact (Tabled.of_canon hs).reds
  have htables : SameTables s v := hrows.tables.trans hclear.tables
  obtain ⟨hstate, hflip, hcount⟩ := State.epochCounted_values hvals (n := n) h.matrix (s.red n m)
  have hregs := State.epochCounted_regs (s := v) (n := n) (m := m) (s.red n m)
  have honly := State.epochCounted_Only (s := v) (n := n) (m := m) (s.red n m)
  generalize v.epochCounted (n, m) (s.red n m) = w at *
  have hwvals := hregs.wf hvals
  have hmem : w.mem = v.mem := honly.same .mem (by decide)
  have hwcore : w.core = v.core := honly.same .core (by decide)
  have hrules : w.rulesOf n = [m] := (State.rulesOf_congr hmem n).trans ((htables.rulesOf h.core).trans h.only)
  have hend := State.ruleEnded_EndSet hwvals (hwcore ▸ hreds) hrules hstate (s.red n m).epoch
  generalize w.ruleEnded (n, m) (s.red n m).epoch = u at hend ⊢
  have hother : ∀ a, a ≠ Reg.coreLrnStatus n → u.rget a = w.rget a := fun a ha => hend.regs.get hwvals (by simpa using ha)
  have hbyte : ∀ a, u.byteAt a = v.byteAt a := State.byteAt_congr ((hend.only.same .mem (by decide)).trans hmem)
  have hstat : Reg.coreLrnRstat n m ≠ Reg.coreLrnStatus n := by simp only [Reg.coreLrnRstat, Reg.coreLrnStatus]; omega
  exact {
    only := (hrows.only.mono (by decide)).trans ((hclear.only.mono (by decide)).trans ((honly.mono (by decide)).trans (hend.only.mono (by decide))))
    tables := htables.trans (.of_mem ((hend.only.same .mem (by decide)).trans hmem))
    cores := fun k => by
      have hcor : u.cor k = t.cor k := by rw [State.cor, State.cor, hend.cores, hwcore, hcore]
      rw [hcor]
      exact hrows.cores k
    regs := .trans (.of_reg hreg) (hregs.trans (hend.regs.mono (by simp)))
    red := hend.red
    state := by
      rw [State.ruleState, State.rfield, hother _ hstat]
      exact hstate
    flips := by
      rw [State.rbit, hother _ hstat]
      exact hflip.trans (by rw [State.rbit, State.rbit, State.rget, State.rget, hreg])
    counts := by
      rw [State.rfield, hother _ (by simp only [Reg.coreLrnRepoch, Reg.coreLrnStatus]; omega)]
      exact hcount.trans (by rw [State.rfield, State.rfield, State.rget, State.rget, hreg])
    unlit := hend.unlit
    clear := fun a ha => by rw [hbyte, hbytes, if_pos (by omega)]
    rows := fun hmeet i y hy => by
      obtain ⟨hmem, hi⟩ := List.mem_filter.mp (hy.symm ▸ List.mem_singleton_self y : y ∈ (s.red n m).staged.filter fun z => decide (z.1 = i))
      obtain rfl : y.1 = i := of_decide_eq_true hi
      obtain ⟨hlo, hhi⟩ := State.rowPlace_in h.fits (hstaged y hmem)
      rw [← hrows.value hmeet y.1 y hy]
      refine State.bytes_eq_of_range fun a halo hahi => ?_
      rw [hbyte, hbytes, if_neg (not_region_of_synapse h.core (hlo.trans halo) (hahi.trans_le hhi))]
    frame := fun a hout hrow => by
      rw [hbyte, hbytes, if_neg (by omega)]
      exact hrows.frame a hrow }

end Sys2Proof.Machine
end

section
namespace Sys2Proof.Machine

/-! ## An apply reports on the lead (R183, R287) -/

/-- An apply has reported to the commands of binding `b`. -/
structure Reported (b : Nat) (s u : State) : Prop where
  only  : OnlyChanges [.reg, .cmd, .eth, .irq, .out] s u
  regs  : RegsOnly sentRegs s u
  ctxs  : u.cmd.ctxs = s.cmd.ctxs
  table : Tab.wf (fun _ => Binding.empty) u.cmd.bindings
  bnd   : ∃ l k, u.bnd b = { s.bnd b with gates := l, applies := k }

/-- Commands that finish leave the bindings and the contexts. -/
theorem State.finish_kept (s : State) (h : Hdr) (cseq : Word64) (op st : Byte) (res : Nat) :
    (s.finish h cseq op st res).cmd.bindings = s.cmd.bindings ∧ (s.finish h cseq op st res).cmd.ctxs = s.cmd.ctxs ∧
      RegsOnly sentRegs s (s.finish h cseq op st res) := by
  unfold State.finish
  split
  · have hdone := s.complete_Completed h cseq op st res
    exact ⟨hdone.bindings, hdone.ctxs, hdone.regs⟩
  · exact ⟨rfl, rfl, .refl _ s⟩

theorem State.forAll_finish_kept (l : List (BitVec 8 × Hdr × Word64)) (st : Byte) (res : Nat) (s : State) :
    (s.forAll l (fun s a => s.finish a.2.1 a.2.2 0x24 st res)).cmd.bindings = s.cmd.bindings ∧
      (s.forAll l (fun s a => s.finish a.2.1 a.2.2 0x24 st res)).cmd.ctxs = s.cmd.ctxs ∧
      RegsOnly sentRegs s (s.forAll l (fun s a => s.finish a.2.1 a.2.2 0x24 st res)) := by
  induction l generalizing s with
  | nil => exact ⟨rfl, rfl, .refl _ s⟩
  | cons a r ih =>
    obtain ⟨hbind, hctx, hregs⟩ := s.finish_kept a.2.1 a.2.2 0x24 st res
    obtain ⟨hbind', hctx', hregs'⟩ := ih (s.finish a.2.1 a.2.2 0x24 st res)
    exact ⟨hbind'.trans hbind, hctx'.trans hctx, hregs.trans hregs'⟩

section
variable {s : State} {b : Nat}

/-- The APPLY commands of other groups stay, and those of the group finish. -/
theorem State.endApplies_Reported (hb : Tab.wf (fun _ => Binding.empty) s.cmd.bindings) (g epoch : Nat) (st : Byte) :
    Reported b s (s.endApplies b g epoch st) ∧
      ((s.endApplies b g epoch st).bnd b).applies = (s.bnd b).applies.filter (fun a => a.1.toNat ≠ g) := by
  let x := { s.bnd b with applies := (s.bnd b).applies.filter (fun a => a.1.toNat ≠ g) }
  obtain ⟨hbind, hctx, hregs⟩ := State.forAll_finish_kept ((s.bnd b).applies.filter (fun a => a.1.toNat = g)) st epoch (s.setBnd b x)
  have hbnd : (s.endApplies b g epoch st).bnd b = x :=
    (congrArg (fun t => Tab.get (fun _ => Binding.empty) t b) hbind).trans (State.bnd_setBnd_same hb b x)
  refine ⟨⟨?_, hregs, hctx, ?_, ⟨_, _, hbnd⟩⟩, by rw [hbnd]⟩
  · exact State.endApplies_Only _ _ _ _ _ (by decide) (by decide) (by decide) (by decide) (by decide) (.refl _ s)
  · exact (congrArg (Tab.wf fun _ => Binding.empty) hbind).mpr (Tab.wf_set hb b x)

/-- The one APPLY of the group that is still outstanding has its record (R287). -/
theorem State.endApplies_record (hs : Tab.wf (fun _ => Stream.empty) s.cmd.streams) {g epoch : Nat} {st : Byte} {a : BitVec 8 × Hdr × Word64}
    (ha : (s.bnd b).applies.filter (fun a => a.1.toNat = g) = [a]) (hout : s.isOut a.2.1 a.2.2 = true)
    (hshown : a.2.1.quiet = false ∨ st ≠ St.ok) :
    Cpl.mk a.2.2 0x24 st a.2.1.stream (BitVec.ofNat 40 epoch) ∈ (s.endApplies b g epoch st).cmd.cpls := by
  unfold State.endApplies
  dsimp only
  rw [ha, State.forAll_one]
  exact (State.finish_Ended (s := s.setBnd b _) hs 0x24 st epoch hout).record hshown

/-- On the lead an AUTO apply with no STEP or RUN to report to changes nothing. -/
theorem State.autoStatus_none (hqueue : (s.bnd b).queue = []) (hlead : (s.bnd b).lead = s.sys.myDev) (g : Nat) (st : Byte) :
    s.autoStatus b g st = s := by
  have hstep : s.stepStatus b st = s := by
    unfold State.stepStatus
    rw [hqueue]
    exact if_neg (by simp [hlead])
  unfold State.autoStatus
  rw [hqueue, hstep]
  rfl

theorem State.applyReport_Reported (hb : Tab.wf (fun _ => Binding.empty) s.cmd.bindings) (hqueue : (s.bnd b).queue = [])
    (hlead : (s.bnd b).lead = s.sys.myDev) (g : Nat) (auto : Bool) (st : Byte) (epoch : Nat) :
    Reported b s (s.applyReport b g auto st epoch) := by
  unfold State.applyReport
  rw [if_neg (by simp [hlead])]
  cases auto with
  | true =>
    rw [if_pos rfl, State.autoStatus_none hqueue hlead]
    exact ⟨.refl _ s, .refl _ s, rfl, hb, ⟨_, _, rfl⟩⟩
  | false => exact (State.endApplies_Reported hb g epoch st).1

theorem State.applyReport_hand (hlead : (s.bnd b).lead = s.sys.myDev) (g : Nat) (st : Byte) (epoch : Nat) :
    s.applyReport b g false st epoch = s.endApplies b g epoch st := by
  unfold State.applyReport
  rw [if_neg (by simp [hlead])]
  rfl

end

/-! ## The group of one member closes (R182, R183) -/

/-- What the other devices said of the gates of a group is dropped. -/
def State.gatesLeft (s : State) (b g : Nat) : State :=
  s.setBnd b { s.bnd b with gates := (s.bnd b).gates.filter (fun x => x.1.toNat ≠ g) }

theorem State.gatesLeft_bnd {s : State} (hb : Tab.wf (fun _ => Binding.empty) s.cmd.bindings) (b g : Nat) : (s.gatesLeft b g).bnd b =
    { s.bnd b with gates := (s.bnd b).gates.filter (fun x => x.1.toNat ≠ g) } := State.bnd_setBnd_same hb b _

/-- A group whose members have closed reports. -/
def State.groupReported (s : State) (b g : Nat) (auto : Bool) (st : Byte) (epoch : Nat) : State :=
  (s.gatesLeft b g).applyReport b g auto st epoch

theorem State.groupReported_Reported {s : State} {b : Nat} (hb : Tab.wf (fun _ => Binding.empty) s.cmd.bindings) (hqueue : (s.bnd b).queue = [])
    (hlead : (s.bnd b).lead = s.sys.myDev) (g : Nat) (auto : Bool) (st : Byte) (epoch : Nat) :
    Reported b s (s.groupReported b g auto st epoch) := by
  have hleft := State.gatesLeft_bnd hb b g
  obtain ⟨honly, hregs, hctxs, htable, l, k, hbnd⟩ := State.applyReport_Reported (s := s.gatesLeft b g) (Tab.wf_set hb _ _)
    (by rw [hleft]; exact hqueue) (by rw [hleft]; exact hlead) g auto st epoch
  have hcmd : OnlyChanges [.reg, .cmd, .eth, .irq, .out] s (s.gatesLeft b g) := State.setBnd_Only _ _ (by decide) (.refl _ s)
  exact ⟨hcmd.trans honly, (RegsOnly.of_reg rfl).trans hregs, hctxs, htable, l, k, hbnd.trans (by rw [hleft])⟩

/-- Where the apply reports to its APPLY commands those of the group end, and the one that is still outstanding has its record. -/
theorem State.groupReported_hand {s : State} {b : Nat} (hb : Tab.wf (fun _ => Binding.empty) s.cmd.bindings)
    (hstreams : Tab.wf (fun _ => Stream.empty) s.cmd.streams) (hlead : (s.bnd b).lead = s.sys.myDev) (g : Nat) (st : Byte) (epoch : Nat) :
    ((s.groupReported b g false st epoch).bnd b).applies = (s.bnd b).applies.filter (fun a => a.1.toNat ≠ g) ∧
      ∀ a, (s.bnd b).applies.filter (fun a => a.1.toNat = g) = [a] → s.isOut a.2.1 a.2.2 = true → (a.2.1.quiet = false ∨ st ≠ St.ok) →
        Cpl.mk a.2.2 0x24 st a.2.1.stream (BitVec.ofNat 40 epoch) ∈ (s.groupReported b g false st epoch).cmd.cpls := by
  have hleft := State.gatesLeft_bnd hb b g
  unfold State.groupReported
  rw [State.applyReport_hand (by rw [hleft]; exact hlead)]
  refine ⟨(State.endApplies_Reported (s := s.gatesLeft b g) (Tab.wf_set hb _ _) g epoch st).2.trans (by rw [hleft]), fun a ha hout hshown => ?_⟩
  exact State.endApplies_record (s := s.gatesLeft b g) hstreams (by rw [hleft]; exact ha) hout hshown

theorem worse_ok (st : Byte) : worse St.ok st = st := by
  unfold worse
  by_cases hf : st = St.frozen
  · rw [if_pos (.inr hf), hf]
  · rw [if_neg (not_or.mpr ⟨by decide, hf⟩)]
    exact if_pos (Nat.zero_le _)

/-- The members of one kind report the worst of their statuses, if there are any. -/
def State.reportWorst (s : State) (b g : Nat) (auto : Bool) (l : List Byte) (epoch : Nat) : State :=
  if l = [] then s else s.applyReport b g auto (l.foldl worse St.ok) epoch

theorem State.reportWorst_none (s : State) (b g : Nat) (auto : Bool) (epoch : Nat) : s.reportWorst b g auto [] epoch = s := rfl
theorem State.reportWorst_one (s : State) (b g : Nat) (auto : Bool) (st : Byte) (epoch : Nat) :
    s.reportWorst b g auto [st] epoch = s.applyReport b g auto st epoch := by
  unfold State.reportWorst
  rw [if_neg (List.cons_ne_nil _ _), List.foldl_cons, List.foldl_nil, worse_ok]

theorem State.closeGroup_eq (s : State) (b g : Nat) : s.closeGroup b g [] =
    (let ps := s.groupRules b g
     let sts := fun (auto : Bool) => (ps.filter (fun p => s.reportsAuto p = auto)).map (fun p => (s.red p.1 p.2).status) ++ []
     let epoch := (ps.map (fun p => (s.red p.1 p.2).epoch)).headD 0
     (((s.forAll ps (fun s p => s.closeRule p)).gatesLeft b g).reportWorst b g true (sts true) epoch).reportWorst b g false (sts false) epoch) := rfl

theorem State.closeGroup_alone {s : State} {b g n m : Nat} (h : s.groupRules b g = [(n, m)]) : s.closeGroup b g [] =
    (s.closeRule (n, m)).groupReported b g (s.reportsAuto (n, m)) (s.red n m).status (s.red n m).epoch := by
  have hsts : ∀ auto, ([(n, m)].filter (fun p => s.reportsAuto p = auto)).map (fun p => (s.red p.1 p.2).status) ++ [] =
      if s.reportsAuto (n, m) = auto then [(s.red n m).status] else [] := fun auto => by
    by_cases ha : s.reportsAuto (n, m) = auto
    · rw [List.filter_cons_of_pos (by simpa using ha), if_pos ha]
      rfl
    · rw [List.filter_cons_of_neg (by simpa using ha), if_neg ha]
      rfl
  rw [State.closeGroup_eq, h]
  dsimp only
  rw [hsts, hsts, State.forAll_one]
  cases s.reportsAuto (n, m) with
  | true => rw [if_pos rfl, if_neg (by decide), State.reportWorst_one, State.reportWorst_none]; rfl
  | false => rw [if_neg (by decide), if_pos rfl, State.reportWorst_none, State.reportWorst_one]; rfl

theorem State.mustGate_windowJudged (s : State) (b : Nat) (c : Ctx) : (s.windowJudged b).mustGate c = s.mustGate c := rfl
theorem State.ctxsOf_windowJudged (s : State) (b : Nat) : (s.windowJudged b).ctxsOf b = s.ctxsOf b := rfl

/-- A context that is not at the gate of the one rule of its binding is not gated (R176). -/
theorem State.mustGate_of_one {s : State} {b : Nat} {p : Nat × Nat} (h : s.bindingRules b = [p]) {c : Ctx} (hc : c.binding.toNat = b)
    (hgate : s.atGate p c = false) : s.mustGate c = false := by
  unfold State.mustGate
  rw [hc, h]
  simp [hgate]

/-- A member that reduces alone has done its part on the lead, and neither another device nor a command nor a context waits for the close. -/
structure ClosesAlone (s : State) (b n m : Nat) : Prop extends ReducesAlone s b n m where
  state   : s.ruleState (n, m) = 2
  done    : s.memberDone (n, m) = true
  here    : s.rowsHere (n, m) [] = true
  ovl     : (s.red n m).ovl = false
  staged  : ∀ y ∈ (s.red n m).staged, y.1 < (s.mat n m).nrows
  lead    : (s.bnd b).lead = s.sys.myDev
  gates   : ∀ y ∈ (s.bnd b).gates, y.1.toNat ≠ (s.rule n m).group
  farOpen : (s.bnd b).farOpen = []
  queue   : (s.bnd b).queue = []
  halting : (s.bnd b).halting = false
  free    : ∀ p ∈ s.ctxsOf b, p.2.gated = false
  steps   : ∀ p ∈ s.ctxsOf b, p.2.cstep.toNat < (s.rule n m).gateStep ((s.red n m).epoch + 1)

/-- The group of the member has closed and reported. -/
def State.aloneReported (s : State) (b n m : Nat) : State :=
  (s.closeRule (n, m)).groupReported b (s.rule n m).group (s.reportsAuto (n, m)) (s.red n m).status (s.red n m).epoch

section
variable {s : State} (hs : Canon s) {b n m : Nat} (h : ClosesAlone s b n m)
include h

theorem ClosesAlone.closing : s.closing b = [(s.rule n m).group] := by
  have hgates : (s.bnd b).gates.all (fun y => y.1.toNat ≠ (s.rule n m).group) = true :=
    List.all_eq_true.mpr fun y hy => decide_eq_true (h.gates y hy)
  unfold State.closing
  rw [h.groupsOf, List.filter_cons_of_pos]
  · rfl
  · rw [h.groupRules, hgates]
    simp [h.state, h.done, h.here]

include hs

theorem ClosesAlone.closed : MemberClosed n m s (s.closeRule (n, m)) := State.closeRule_Closed hs h.toReducesAlone h.ovl h.staged

theorem ClosesAlone.closed_cmd : (s.closeRule (n, m)).cmd = s.cmd := (h.closed hs).only.same .cmd (by decide)

theorem ClosesAlone.closed_bnd : (s.closeRule (n, m)).bnd b = s.bnd b := by rw [State.bnd, State.bnd, h.closed_cmd hs]

theorem ClosesAlone.reported : Reported b (s.closeRule (n, m)) (s.aloneReported b n m) := by
  have hsys : (s.closeRule (n, m)).sys = s.sys := (h.closed hs).only.same .sys (by decide)
  have hcmd := h.closed_cmd hs
  have hbnd := h.closed_bnd hs
  unfold State.aloneReported
  generalize s.closeRule (n, m) = u at hsys hcmd hbnd ⊢
  refine State.groupReported_Reported (hcmd ▸ Canon_bindings hs) ?_ ?_ _ _ _ _
  · rw [hbnd]; exact h.queue
  · rw [hbnd, hsys]; exact h.lead

/-- After the report the member's registers, reduction and memory are those of its close. -/
theorem ClosesAlone.after {a : Nat} (ha : a ∉ sentRegs) : (s.aloneReported b n m).rget a = (s.closeRule (n, m)).rget a := by
  exact (h.reported hs).regs.get ((h.closed hs).regs.wf (Canon_vals hs)) ha

theorem ClosesAlone.after_mem : (s.aloneReported b n m).mem = (s.closeRule (n, m)).mem := (h.reported hs).only.same .mem (by decide)
theorem ClosesAlone.after_core : (s.aloneReported b n m).core = (s.closeRule (n, m)).core := (h.reported hs).only.same .core (by decide)

theorem ClosesAlone.after_tables : SameTables s (s.aloneReported b n m) := (h.closed hs).tables.trans (.of_mem (h.after_mem hs))

theorem ClosesAlone.after_rules : (s.aloneReported b n m).bindingRules b = [(n, m)] := by
  refine ((h.after_tables hs).bindingRules (fun k => ?_) b).trans h.rules
  rw [State.cor, h.after_core hs]
  exact (h.closed hs).cores k

theorem ClosesAlone.after_red : (s.aloneReported b n m).red n m = { Reduction.empty with epoch := (s.red n m).epoch + 1 } := by
  rw [State.red, h.after_core hs]
  exact (h.closed hs).red

theorem ClosesAlone.after_state : (s.aloneReported b n m).ruleState (n, m) = 0 := by
  rw [State.ruleState, State.rfield, h.after hs (coreLrnRstat_not_sent h.matrix)]
  exact (h.closed hs).state

theorem ClosesAlone.after_bnd : ∃ l k, (s.aloneReported b n m).bnd b = { s.bnd b with gates := l, applies := k } := by
  obtain ⟨l, k, hbnd⟩ := (h.reported hs).bnd
  exact ⟨l, k, hbnd.trans (by rw [h.closed_bnd hs])⟩

theorem ClosesAlone.after_windowLeft : (s.aloneReported b n m).windowLeft b = false := by
  obtain ⟨l, k, hbnd⟩ := h.after_bnd hs
  unfold State.windowLeft
  rw [hbnd, h.farOpen, h.after_rules hs, List.any_cons, h.after_state hs]
  rfl

/-- The close of a member that reduces alone: its group closes and reports, and the window is shut (R182). -/
theorem ClosesAlone.windowClose_eq : s.windowClose b [] [] = (s.aloneReported b n m).windowJudged b := by
  have hb := Canon_bindings hs
  have hreported := h.reported hs
  have hctxs : (s.aloneReported b n m).cmd.ctxs = s.cmd.ctxs := hreported.ctxs.trans (congrArg CmdPlane.ctxs (h.closed_cmd hs))
  obtain ⟨l, k, hbnd⟩ := h.after_bnd hs
  have hjudged : ((s.aloneReported b n m).windowJudged b).bnd b = _ := State.bnd_setBnd_same hreported.table b _
  refine State.windowClose_of ?_ (Tab.wf_set hreported.table _ _) ?_ (fun p hp => ?_) ?_ ?_
  · rw [State.applyClose_eq hb, h.closing, State.forAll_one, State.closeGroup_alone h.groupRules]
    rfl
  · exact (congrArg (Tab.wf fun _ => Ctx.empty) hctxs).mpr (Canon_ctxs hs)
  · have hp : p ∈ s.ctxsOf b := by
      rw [State.ctxsOf_windowJudged, State.mem_ctxsOf, hctxs] at hp
      exact State.mem_ctxsOf.mpr hp
    rw [h.free p hp]
    have hgate : (s.aloneReported b n m).atGate (n, m) p.2 = false := by
      rw [State.atGate, (h.after_tables hs).rule h.core h.matrix, h.after_red hs]
      exact decide_eq_false (Nat.not_le.mpr (h.steps p hp))
    rw [State.mustGate_windowJudged, State.mustGate_of_one (h.after_rules hs) (State.mem_ctxsOf.mp hp).2.2 hgate]
  · rw [hjudged, hbnd]; exact h.queue
  · rw [hjudged, hbnd]; exact h.halting

theorem ClosesAlone.after_hand (hhand : s.reportsAuto (n, m) = false) :
    ((s.aloneReported b n m).bnd b).applies = (s.bnd b).applies.filter (fun a => a.1.toNat ≠ (s.rule n m).group) ∧
      ∀ a, (s.bnd b).applies.filter (fun a => a.1.toNat = (s.rule n m).group) = [a] → s.isOut a.2.1 a.2.2 = true →
        (a.2.1.quiet = false ∨ (s.red n m).status ≠ St.ok) →
        Cpl.mk a.2.2 0x24 (s.red n m).status a.2.1.stream (BitVec.ofNat 40 (s.red n m).epoch) ∈ (s.aloneReported b n m).cmd.cpls := by
  have hsys : (s.closeRule (n, m)).sys = s.sys := (h.closed hs).only.same .sys (by decide)
  have hcmd := h.closed_cmd hs
  have hbnd := h.closed_bnd hs
  unfold State.aloneReported
  rw [hhand]
  generalize s.closeRule (n, m) = u at hsys hcmd hbnd ⊢
  have hout : ∀ c x, u.isOut c x = s.isOut c x := fun c x => by rw [State.isOut, State.isOut, State.strm, State.strm, hcmd]
  have hreport := State.groupReported_hand (b := b) (hcmd ▸ Canon_bindings hs) (hcmd ▸ Canon_streams hs) (by rw [hbnd, hsys]; exact h.lead)
    (s.rule n m).group (s.red n m).status (s.red n m).epoch
  simp only [hbnd, hout] at hreport
  exact hreport

theorem ClosesAlone.windowClose_Frame : Spec.Frame [.cmd, .core, .eth, .irq, .mem, .out, .reg] s (s.windowClose b [] []) := by
  have hclosed := (h.closed hs).only
  have hreported := (h.reported hs).only
  rw [h.windowClose_eq hs]
  generalize s.aloneReported b n m = r at hreported ⊢
  exact Frame_of_only (State.setBnd_Only _ _ (by decide) ((hclosed.mono (by decide)).trans (hreported.mono (by decide)))) (by decide)

end

theorem State.windowJudged_bnd {s : State} (hb : Tab.wf (fun _ => Binding.empty) s.cmd.bindings) (b : Nat) :
    (s.windowJudged b).bnd b = { s.bnd b with windowOpen := s.windowLeft b } := State.bnd_setBnd_same hb b _
theorem State.rget_windowJudged (s : State) (b a : Nat) : (s.windowJudged b).rget a = s.rget a := rfl
theorem State.red_windowJudged (s : State) (b n m : Nat) : (s.windowJudged b).red n m = s.red n m := rfl
theorem State.windowJudged_mem (s : State) (b : Nat) : (s.windowJudged b).mem = s.mem := rfl
theorem State.windowJudged_cpls (s : State) (b : Nat) : (s.windowJudged b).cmd.cpls = s.cmd.cpls := rfl

/-- Settles O36: the windows due open one after another (`dueRules_Opened`), each leaving what the transfers of the others read
(`WindowKept`); a member that reduces alone closes as `MemberClosed` says and reports (`Reported`), and where no rule is in its window only
the flag is judged anew (`windowClose_idle`). -/
theorem applyWindows : Obligations.ApplyWindows := by
  unfold Obligations.ApplyWindows
  intro s b granted n m k x rl d r pend due far mine g new at' hs ha hvalid
  refine ⟨fun hrun => ?_, fun hrun => ?_, fun hrules honly hstate hdone hoverlap hdelay hovl hhere hstored hfits hstaged hgates hfar hqueue hhalt
    hlead hn hm hfree hsteps => ?_, fun hnone hqueue hhalt hgated => ?_⟩
  · refine Run_of_live ha (f := fun s => s.applyOpen b.toNat granted) rfl (State.applyOpen_Frame hs hvalid hrun granted) ⟨?_, ?_, ?_, ?_⟩
    · exact fun p hp hdue => (State.applyOpen_ruleState hs hvalid hrun granted hp).1 (State.mem_dueRules.mpr ⟨hp, hdue⟩)
    · exact fun p hp hdue => (State.applyOpen_ruleState hs hvalid hrun granted hp).2 fun hmem => hdue (State.mem_dueRules.mp hmem).2
    · exact State.applyOpen_bnd hs hvalid hrun granted
    · intro o hp hdue ho hgroup hne hnone _ hmeet y hy
      exact State.applyOpen_out hs hvalid hrun granted (State.mem_dueRules.mpr ⟨hp, hdue⟩) ho hgroup hne hnone hmeet hy
  · have hstill : s.applyOpen k granted = s := if_pos (by rw [show (s.bnd k).running = true from hrun, Bool.or_true])
    exact (live_alive ha fun s => s.applyOpen k granted).trans (by rw [hstill])
  · have h : ClosesAlone s k n m := {
      core := hn, matrix := hm, rules := hrules, only := honly, stored := hstored, overlap := hoverlap, delay := hdelay, fits := hfits
      state := hstate, done := hdone, here := hhere, ovl := hovl, staged := fun y hy => (hstaged y hy).1, lead := hlead, gates := hgates
      farOpen := hfar, queue := hqueue, halting := hhalt, free := hfree, steps := hsteps }
    refine Run_of_live ha (f := fun s => s.windowClose k [] []) rfl (h.windowClose_Frame hs) ?_
    rw [h.windowClose_eq hs]
    have hclosed := h.closed hs
    have hjudged := State.windowJudged_bnd (h.reported hs).table k
    have hget : ∀ {a}, a ∉ sentRegs → ((s.aloneReported k n m).windowJudged k).rget a = (s.closeRule (n, m)).rget a := fun ha =>
      (State.rget_windowJudged _ _ _).trans (h.after hs ha)
    have hmem := (State.windowJudged_mem _ k).trans (h.after_mem hs)
    refine ⟨?_, (State.red_windowJudged _ _ _ _).trans (h.after_red hs), ?_, ?_, ?_, ?_, fun a ha => ?_, fun hmeet i y hy => ?_,
      fun a hout hrow => ?_, fun hhand => ?_⟩
    · rw [State.ruleState, State.rfield, hget (coreLrnRstat_not_sent hm)]
      exact hclosed.state
    · rw [hjudged]
      exact h.after_windowLeft hs
    · rw [State.rfield, hget (by simp only [mem_sentRegs, Reg.coreLrnRepoch]; omega)]
      exact hclosed.counts
    · rw [State.rbit, hget (coreLrnRstat_not_sent hm)]
      exact hclosed.flips
    · rw [State.rbit, hget (coreLrnStatus_not_sent hn)]
      exact hclosed.unlit
    · rw [State.byteAt_congr hmem]
      exact hclosed.clear a ha
    · rw [State.bytes_congr hmem]
      exact hclosed.rows hmeet i y hy
    · rw [State.byteAt_congr hmem]
      exact hclosed.frame a hout hrow
    · obtain ⟨happlies, hrecord⟩ := h.after_hand hs hhand
      rw [hjudged, State.windowJudged_cpls]
      exact ⟨happlies.trans (List.filter_congr fun _ _ => decide_not), hrecord⟩
  · have hnone : ∀ p ∈ s.bindingRules k, s.ruleState p ≠ 2 := fun p hp => of_decide_eq_true (List.all_eq_true.mp hnone p hp)
    refine (live_alive ha fun s => s.windowClose k [] []).trans ?_
    rw [State.windowClose_idle hs hnone hqueue hhalt hgated, State.windowJudged, State.windowLeft_of_none hnone]

end Sys2Proof.Machine
end

section
namespace Sys2Proof.Machine

/-! ## O37: rows of an overlap apply that lie over the tables of their core (R96, R190) -/

/-- The row of a matrix of 16-byte rows at BASE 0 that begins where the descriptor of matrix 0 of core 0 stands. -/
def tableRow : Nat := 2 ^ 46 + 2 ^ 12

/-- The overlap apply of `farRows`: its next two rows are `tableRow` and the one after it, and both are staged. -/
def tableApply : Reduction :=
  { Reduction.empty with
    ovl := true, written := tableRow, perStep := tableRow + 2, rows := tableRow + 2
    staged := [(tableRow, [0, 0, 0, 0, 0]), (tableRow + 1, [1, 1, 1, 1, 1])] }

/-- A state with one rule, of matrix 0 of core 0: one row of two columns of format 0, its one segment owned by the core itself, and the
window of `tableApply` open. -/
def farRows : State :=
  let s := State.reset.setCor 0 { Core.empty with bound := true }
  let s := (s.putLe (matAddr 0 0) 12 (0x80000000 + 2 ^ 32 + 2 * 2 ^ 64)).putLe (ruleAddr 0 0) 4 0x80000000
  let s := s.putLe (ruleAddr 0 0 + 60) 4 0x100
  (s.setRed 0 0 tableApply).setRuleState (0, 0) 2

/-- What OVERLAP_ROW_COMMIT makes of it. -/
def farRowsAfter : State := farRows.overlapCommit 0 0 []

theorem farRows_canon : Canon farRows := by and_intros <;> decide +kernel

theorem farRows_alive : Alive farRows := by decide +kernel

theorem farRows_commits : exec (.overlapRowCommit 0 0 []) farRows = .next farRowsAfter :=
  live_alive farRows_alive fun s => s.overlapCommit 0 0 []

/-- The premises on the apply and its member. -/
theorem farRows_meets : (farRows.red 0 0).ovl = true ∧ farRows.ruleState (0, 0) = 2 ∧ farRows.members 0 0 0 = [0] ∧
    (farRows.mat 0 0).streamed = false ∧
    (let g := meetSegs (farRows.rule 0 0).ownSegs (farRows.tileOf 0 0); g.1 < g.2) ∧
    ∀ y ∈ (farRows.red 0 0).staged,
      (storeLayout (farRows.mat 0 0).fmt (farRows.mat 0 0).ncol (Spec.newRow farRows 0 0 0 y.1 y.2)).length = (farRows.mat 0 0).stride := by
  decide +kernel

/-- Both rows are at hand. -/
theorem farRows_hand {r i : Nat} (hlo : tableRow ≤ r) (hhi : r < tableRow + 2)
    (hi : i < (farRows.tileOf 0 0).2 - (farRows.tileOf 0 0).1) :
    farRows.segReady 0 0 0 [] r ((farRows.tileOf 0 0).1 + i) = true := by
  have htile : farRows.tileOf 0 0 = (0, 1) := by decide +kernel
  have hone : farRows.segReady 0 0 0 [] tableRow 0 = true ∧ farRows.segReady 0 0 0 [] (tableRow + 1) 0 = true := by decide +kernel
  rw [htile] at hi ⊢
  obtain rfl : i = 0 := by simpa using hi
  obtain rfl | rfl : r = tableRow ∨ r = tableRow + 1 := by omega
  · exact hone.1
  · exact hone.2

/-- The first row replaces the descriptor, of which nothing is left but zeros: its matrix has no columns, so the second row is not
written. -/
theorem farRows_secondLost :
    farRowsAfter.bytes (Mem.store 0 0 + (farRows.mat 0 0).base + (tableRow + 1) * (farRows.mat 0 0).stride) (farRows.mat 0 0).stride ≠
      storeLayout (farRows.mat 0 0).fmt (farRows.mat 0 0).ncol (Spec.newRow farRows 0 0 0 (tableRow + 1) [1, 1, 1, 1, 1]) := by
  decide +kernel

theorem not_overlapRowsCommit : ¬ Spec.OverlapRowsCommit := by
  intro h
  obtain ⟨hovl, hstate, hmembers, hstreamed, hsegs, hlen⟩ := farRows_meets
  have hup : min ((farRows.red 0 0).written + (farRows.red 0 0).perStep)
      (min (((farRows.bnd 0).step.toNat - (farRows.red 0 0).openStep.toNat + 1) * (farRows.red 0 0).perStep) (farRows.red 0 0).rows) =
        tableRow + 2 := by
    decide +kernel
  obtain ⟨hcommits, -⟩ := h farRows 0 0 [] farRows_canon farRows_alive (by decide)
  obtain ⟨u, hu, -, -, -, -, -, hrows⟩ := hcommits hovl hstate (by decide +kernel) fun r hlo hhi i hi => farRows_hand hlo (hhi.trans_eq hup) hi
  obtain rfl : farRowsAfter = u := by
    have := farRows_commits.symm.trans hu
    cases this; rfl
  obtain ⟨hwritten, -⟩ := hrows rfl hmembers hstreamed hsegs hlen
  exact farRows_secondLost (hwritten (tableRow + 1) (tableRow + 1, [1, 1, 1, 1, 1]) (by decide +kernel) (by decide +kernel) (by decide +kernel))

/-- Refutes O37: its clause on OVERLAP_ROW_COMMIT (R190) bounds neither the rows of the apply nor the place of their bytes. Where a row
lies over the descriptor of its own matrix, as in `farRows`, the rows after it in the same commit are not written as the descriptor before
said. -/
theorem not_reductionAndDelays : ¬ Obligations.ReductionAndDelays := by
  rintro ⟨-, hrows, -⟩
  exact not_overlapRowsCommit hrows

end Sys2Proof.Machine
end

section
namespace Sys2Proof.Machine

/-! ## ROUTE_EXPANSION (R207, R208, R246) -/

theorem FileOnly.countFree {l : List Nat} (s : State) {k : Nat} (hk : k ∈ l) : FileOnly l s (s.countFree k) :=
  .of_live (.countFree s hk) rfl

/-- An amount left to timing moves its own register and the count of free values (log entry 61). -/
theorem countFree_Frame (s : State) (a : Nat) : Spec.Frame [.reg, .free] s (s.countFree a) :=
  Frame_of_only (State.countFree_Only s a (by decide) (by decide) (.refl _ s)) (by decide)

theorem countFree_OnlyRegs {s : State} (hs : Canon s) (a : Nat) : OnlyRegs [a] s (s.countFree a) :=
  (FileOnly.countFree s (by simp)).onlyRegs (Canon_vals hs) (Canon_live hs)

theorem State.setCor_setCor {s : State} (hw : Tab.wf (fun _ => Core.empty) s.core.cores) (n : Nat) (x y : Core) :
    (s.setCor n x).setCor n y = s.setCor n y := by
  have h := Tab.set_set hw n x y
  unfold State.setCor
  rw [h]

/-- The state in which a firing's taps stand in the engine's buffer. -/
def State.tapped (s : State) (n : Nat) (f : Firing) : State :=
  { s with cnv := { s.cnv with taps := s.cnv.taps ++ s.tapsOf (s.cor n).binding.toNat (s.sysOf n) f } }

/-- A core whose foremost firing has been expanded. -/
def Core.expanded (c : Core) (rest : List Firing) : Core := { c with fired := rest, entry := 0 }

/-- Whether the route unit may issue (R208, R246). -/
def State.routeRoom (s : State) (n : Nat) (f : Firing) : Prop :=
  (s.cor n).holding.length < 8 ∧ s.cnv.taps.length + (s.tapsOf (s.cor n).binding.toNat (s.sysOf n) f).length ≤ 16384

/-- The index word of a firing cannot be corrected (R220). -/
def State.badIndex (s : State) (n : Nat) (f : Firing) : Bool := s.badRange (routeUnit n (s.routeSlot n f.slot % 2 ^ 17) + 4 * f.idx) 4

/-- The index word has been read; one that cannot be corrected shows. -/
def State.indexRead (s : State) (n : Nat) (f : Firing) : State :=
  if s.routeSlot n f.slot / 2 ^ 31 = 0 then s else if s.badIndex n f then s.routeEcc n else s

theorem State.indexRead_sound {s : State} {n : Nat} {f : Firing} (h : s.routeSlot n f.slot / 2 ^ 31 = 0 ∨ s.badIndex n f = false) :
    s.indexRead n f = s := by
  unfold State.indexRead
  rcases h with h | h
  · exact if_pos h
  · rw [h, if_neg Bool.false_ne_true, ite_self]

/-- The entries of a firing have been issued, as far as the route unit goes before it stalls. -/
def State.entriesIssued (s : State) (n : Nat) (rest : List Firing) (us : List Nat) : State :=
  if (s.cor n).entry < us.length then s.countFree (Reg.coreRteStall n) else s.setCor n ((s.cor n).expanded rest)

section
variable {s : State} {n : Nat} {f g : Firing} {rest : List Firing}
variable (hfired : (s.cor n).fired = f :: g :: rest)
include hfired

theorem State.routeExpand_frozen (hfrozen : (s.cor n).frozen = true) : s.routeExpand n = s := by
  unfold State.routeExpand
  dsimp only
  rw [hfired]
  exact if_pos hfrozen

variable (hentry : (s.cor n).entry = 0) (hgoes : (s.cor n).frozen = false)
include hentry hgoes

theorem State.routeExpand_stalls (hroom : ¬ s.routeRoom n f) : s.routeExpand n = s.countFree (Reg.coreRteStall n) := by
  have hstall : 8 ≤ (s.cor n).holding.length ∨
      16384 < s.cnv.taps.length + (s.tapsOf (s.cor n).binding.toNat (s.sysOf n) f).length := by
    unfold State.routeRoom at hroom
    omega
  unfold State.routeExpand
  simp [hfired, hentry, hgoes, hstall]

/-- A firing that is not the step's last, of which the route unit has issued every entry. -/
theorem State.routeExpand_issues (hroom : s.routeRoom n f) (hsound : s.routeSlot n f.slot / 2 ^ 31 = 0 ∨ s.badIndex n f = false)
    {us : List Nat} (hus : s.entryUnits n f = us) {t : State} (ht : State.expandFrom n f us (s.tapped n f) = t)
    (hall : (t.cor n).entry = us.length) : s.routeExpand n = t.setCor n ((t.cor n).expanded (g :: rest)) := by
  obtain ⟨hhold, htaps⟩ := hroom
  have hgo : ¬ (8 ≤ (s.cor n).holding.length ∨
      16384 < s.cnv.taps.length + (s.tapsOf (s.cor n).binding.toNat (s.sysOf n) f).length) := by omega
  have hread : s.routeExpand n = (State.expandFrom n f (((s.tapped n f).indexRead n f).entryUnits n f)
      ((s.tapped n f).indexRead n f)).entriesIssued n (g :: rest) (((s.tapped n f).indexRead n f).entryUnits n f) := by
    unfold State.routeExpand
    simp only [hfired, hentry, hgoes, Bool.or_eq_true, decide_eq_true_eq, hgo, if_true, if_false, Bool.false_eq_true, List.drop_zero,
      reduceCtorEq, false_and]
    rfl
  have hunits : (s.tapped n f).entryUnits n f = us := hus
  rw [hread, State.indexRead_sound (s := s.tapped n f) hsound, hunits, ht]
  exact if_neg (by omega)

end

/-! ### The entry of a firing (R198, R204) -/

/-- The context index that an entry sends to. -/
def entryCidx (f : Firing) (e : Nat) : Nat := if e / 2 ^ 40 % 2 = 1 then e / 2 ^ 46 else f.cidx.toNat

/-- The replica of an entry joins the assembler. -/
def State.addEntry (s : State) (n : Nat) (f : Firing) (e : Nat) : State :=
  s.addReplica n (e % 1024) (e / 2 ^ 10 % 256) (e / 2 ^ 34 % 64) (entryCidx f e) (e / 2 ^ 18 % 65536) f.n (decide (e / 2 ^ 40 % 2 = 1))

/-- The entry is counted. -/
def State.entryCounted (s : State) (n : Nat) : State :=
  (s.unitActs 2 3 1).longSet (Reg.coreRteEntLo n) (s.longGet (Reg.coreRteEntLo n) + 1)

/-- The packet of one record that an entry opens. -/
def State.entryPacket (s : State) (n : Nat) (f : Firing) (e : Nat) : Packet where
  dstCore := e % 1024
  srcCore := s.sysOf n
  delay := BitVec.ofNat 6 (e / 2 ^ 34 % 64)
  ctxBase := BitVec.ofNat 18 (entryCidx f e / 8192 * 8192)
  matrix := BitVec.ofNat 8 (e / 2 ^ 10 % 256)
  fixed := decide (e / 2 ^ 40 % 2 = 1)
  step := BitVec.ofNat 20 (s.bnd (s.cor n).binding.toNat).step.toNat
  records := [recordWord (e / 2 ^ 18 % 65536) (entryCidx f e) f.n]

/-- Whether a packet has the key of an entry (R207). -/
def hasEntryKey (f : Firing) (e : Nat) (q : Packet) : Bool :=
  packetHasKey q (e % 1024) (e / 2 ^ 10 % 256) (e / 2 ^ 34 % 64) (entryCidx f e / 8192 * 8192) (decide (e / 2 ^ 40 % 2 = 1))

section
variable {s : State} {n : Nat} {f : Firing} {e : Nat}

theorem Opens_packet {p : Packet} (h : Spec.Opens s n f e p) : s.entryPacket n f e = p := by
  obtain ⟨hdst, hsrc, hmatrix, hdelay, hbase, hfixed, hstep, hrecords⟩ := h
  have hcidx : entryCidx f e = if decide (e / 2 ^ 40 % 2 = 1) then e / 2 ^ 46 else f.cidx.toNat := by simp [entryCidx]
  cases p
  simp only [State.entryPacket, Packet.mk.injEq, hcidx]
  refine ⟨hdst.symm, hsrc.symm, ?_, ?_, ?_, hfixed.symm, ?_, hrecords.symm⟩
  · exact BitVec.eq_of_toNat_eq (by rw [← hdelay, BitVec.ofNat_toNat, BitVec.setWidth_eq])
  · exact BitVec.eq_of_toNat_eq (by rw [← hbase, BitVec.ofNat_toNat, BitVec.setWidth_eq])
  · exact BitVec.eq_of_toNat_eq (by rw [← hmatrix, BitVec.ofNat_toNat, BitVec.setWidth_eq])
  · exact BitVec.eq_of_toNat_eq ((BitVec.toNat_ofNat _ 20).trans hstep.symm)

theorem Opens_key {p : Packet} (h : Spec.Opens s n f e p) (q : Packet) :
    packetHasKey q p.dstCore p.matrix.toNat p.delay.toNat p.ctxBase.toNat p.fixed = hasEntryKey f e q := by
  obtain ⟨hdst, -, hmatrix, hdelay, hbase, hfixed, -⟩ := h
  rw [hdst, hmatrix, hdelay, hbase, hfixed]
  simp [hasEntryKey, entryCidx]

/-- No open packet has the entry's key and a place is free: it opens one. -/
theorem State.addEntry_opens (hkey : ∀ q ∈ (s.cor n).openPkts, hasEntryKey f e q = false) (hplace : (s.cor n).openPkts.length < 16) :
    s.addEntry n f e = s.setCor n { s.cor n with openPkts := (s.cor n).openPkts ++ [s.entryPacket n f e] } := by
  have hnone : (s.cor n).openPkts.find? (fun q => hasEntryKey f e q) = none := by simpa using hkey
  unfold State.addEntry State.addReplica
  simp only [hasEntryKey] at hnone
  dsimp only
  rw [hnone]
  exact if_neg (Nat.not_le.mpr hplace)

/-- The only open packet has the entry's key and room: the record joins it. -/
theorem State.addEntry_joins {q : Packet} (hopen : (s.cor n).openPkts = [q]) (hkey : hasEntryKey f e q = true)
    (hroom : q.records.length < 2047) : s.addEntry n f e =
      s.setCor n { s.cor n with openPkts := [{ q with records := q.records ++ (s.entryPacket n f e).records }] } := by
  have hsome : (s.cor n).openPkts.find? (fun q => hasEntryKey f e q) = some q := by simp [hopen, hkey]
  unfold State.addEntry State.addReplica
  simp only [hasEntryKey] at hsome hkey
  dsimp only
  rw [hsome]
  dsimp only
  rw [if_neg (by rw [List.length_append, List.length_singleton]; omega), hopen, List.map_cons, if_pos hkey]
  rfl

end

section
variable {s : State} {n : Nat} {f : Firing}

theorem State.leAt_congr {s t : State} (h : t.mem = s.mem) (k w : Nat) : t.leAt k w = s.leAt k w := by
  rw [State.leAt, State.leAt, State.bytes_congr h]

theorem State.expandEntry_sound {u : Nat} (hfits : s.longGet (Reg.coreRteEntLo n) + 1 < 2 ^ 48) (hsound : s.badRange (routeUnit n u) 8 = false) :
    s.expandEntry n f u = (s.entryCounted n).addEntry n f (s.leAt (routeUnit n u) 8) := by
  have hread : (s.entryCounted n).leAt (routeUnit n u) 8 = s.leAt (routeUnit n u) 8 := State.leAt_congr rfl _ _
  have hbad : (s.entryCounted n).badRange (routeUnit n u) 8 = false := hsound
  unfold State.expandEntry
  rw [State.longWrap_fits (s := s.unitActs 2 3 1) hfits, ← hread]
  exact if_neg fun h => Bool.false_ne_true (hbad.symm.trans h)

/-- The state in which the taps and the count of a firing's only entry have moved. -/
def State.entryIssued (s : State) (n : Nat) (f : Firing) : State := (s.tapped n f).entryCounted n

variable {g : Firing} {rest : List Firing} {u : Nat} {l : List Packet} (hfired : (s.cor n).fired = f :: g :: rest)
  (hentry : (s.cor n).entry = 0) (hgoes : (s.cor n).frozen = false) (hroom : s.routeRoom n f)
include hfired hentry hgoes hroom

/-- A slot without routes: nothing but taps. -/
theorem State.routeExpand_noRoutes (hnone : s.routeSlot n f.slot / 2 ^ 31 = 0) :
    s.routeExpand n = (s.tapped n f).setCor n ((s.cor n).expanded (g :: rest)) :=
  State.routeExpand_issues hfired hentry hgoes hroom (.inl hnone) (us := []) (if_pos (.inl hnone)) (t := s.tapped n f) rfl hentry

/-- A firing of one entry, whose record the assembler takes. -/
theorem State.routeExpand_one (hw : Tab.wf (fun _ => Core.empty) s.core.cores) (hroutes : s.routeSlot n f.slot / 2 ^ 31 = 1)
    (hindex : s.routeIndex n f.slot f.idx = (u, 1)) (hsound : s.badIndex n f = false) (hunit : s.badRange (routeUnit n u) 8 = false)
    (hfits : s.longGet (Reg.coreRteEntLo n) + 1 < 2 ^ 48)
    (hadd : (s.entryIssued n f).addEntry n f (s.leAt (routeUnit n u) 8) = (s.entryIssued n f).setCor n { s.cor n with openPkts := l }) :
    s.routeExpand n = (s.entryIssued n f).setCor n { s.cor n with fired := g :: rest, openPkts := l } := by
  have hus : s.entryUnits n f = [u] := by
    have hbad : ¬ (s.routeSlot n f.slot / 2 ^ 31 = 0 ∨ s.badIndex n f = true) :=
      not_or.mpr ⟨by omega, by rw [hsound]; exact Bool.false_ne_true⟩
    unfold State.entryUnits
    rw [hindex]
    exact if_neg hbad
  have hold : ¬ 8 ≤ ((s.tapped n f).cor n).holding.length := Nat.not_le.mpr hroom.1
  have hexpand : (s.tapped n f).expandEntry n f u = (s.entryIssued n f).setCor n { s.cor n with openPkts := l } :=
    (State.expandEntry_sound (s := s.tapped n f) hfits hunit).trans
      ((congrArg (State.addEntry (s.entryIssued n f) n f) (State.leAt_congr rfl _ _)).trans hadd)
  have hcor : ∀ x, ((s.entryIssued n f).setCor n x).cor n = x := fun x => State.cor_setCor_same (s := s.entryIssued n f) hw n x
  have hset : ∀ x y, ((s.entryIssued n f).setCor n x).setCor n y = (s.entryIssued n f).setCor n y := fun x y =>
    State.setCor_setCor (s := s.entryIssued n f) hw n x y
  have hfrom : State.expandFrom n f [u] (s.tapped n f) = (s.entryIssued n f).setCor n { s.cor n with openPkts := l, entry := 1 } := by
    rw [State.expandFrom, if_neg hold, hexpand]
    dsimp only
    rw [hcor, hset, State.expandFrom]
    dsimp only
    rw [hentry]
  rw [State.routeExpand_issues hfired hentry hgoes hroom (.inr hsound) hus hfrom (by rw [hcor]; rfl), hcor, hset, Core.expanded]
  dsimp only
  rw [← hentry]

end

/-! ### What an issued entry changes -/

/-- The units, registers and counts after a firing of one entry. -/
theorem entryIssued_Frame (s : State) (n : Nat) (f : Firing) (x : Core) : Spec.Frame [.core, .cnv, .reg] s ((s.entryIssued n f).setCor n x) := by
  refine Frame_of_acts (State.setCor_Only _ _ (by decide) (State.longSet_Only _ _ _ (by decide) (State.unitActs_Only _ _ _ _ (by decide)
    (OnlyChanges.cnv_upd _ (by decide) (.refl _ s))))) ?_
  exact ActsOnly.unitActs s 2 3 1

theorem entryIssued_OnlyRegs {s : State} (hs : Canon s) (n : Nat) (f : Firing) (x : Core) :
    OnlyRegs [Reg.coreRteEntLo n] s ((s.entryIssued n f).setCor n x) :=
  FileOnly.onlyRegs (FileOnly.trans (t := (s.tapped n f).unitActs 2 3 1) (.of_reg rfl)
    ((FileOnly.longSet _ _ (by simp)).trans (.of_reg rfl))) (Canon_vals hs) (Canon_live hs)

theorem entryIssued_longGet {s : State} (hs : Canon s) {n : Nat} (hfits : s.longGet (Reg.coreRteEntLo n) + 1 < 2 ^ 48) (f : Firing) (x : Core) :
    ((s.entryIssued n f).setCor n x).longGet (Reg.coreRteEntLo n) = s.longGet (Reg.coreRteEntLo n) + 1 :=
  State.longGet_longSet_same (s := (s.tapped n f).unitActs 2 3 1) (Canon_vals (s := s) hs) (Canon_live (s := s) hs) _
    (Nat.lt_trans hfits (by decide))

theorem routesExpand : Spec.RoutesExpand := by
  intro s core f g rest u0
  dsimp only
  intro hs ha hn hfired hentry
  have hw := Canon_cores hs
  have hexec : exec (.routeExpansion core) s = live s fun s => s.routeExpand core.toNat := rfl
  refine ⟨fun hfrozen => ?_, fun hgoes hroom => ?_, fun hgoes hroom hnone => ?_, fun hgoes hroom hroutes hindex hsound hunit hfits => ⟨?_, ?_⟩⟩
  · rw [hexec, live_alive ha, State.routeExpand_frozen hfired hfrozen]
  · refine Run_of_live ha hexec ?_ ?_ <;> rw [State.routeExpand_stalls hfired hentry hgoes hroom]
    · exact countFree_Frame s _
    · exact countFree_OnlyRegs hs _
  · refine Run_of_live ha hexec ?_ ?_ <;> rw [State.routeExpand_noRoutes hfired hentry hgoes hroom hnone]
    · exact Frame_of_only (State.setCor_Only _ _ (by decide) (OnlyChanges.cnv_upd _ (by decide) (.refl _ s))) (by decide)
    · refine ⟨?_, fun m hm => State.cor_setCor_other (s := s.tapped core.toNat f) hw _ hm, rfl⟩
      rw [State.cor_setCor_same (s := s.tapped core.toNat f) hw, Core.expanded, ← hentry]
  · intro p hopens hkey hplace
    have hopens' : Spec.Opens (s.entryIssued core.toNat f) core.toNat f (s.leAt (routeUnit core.toNat u0) 8) p := hopens
    have hgo := State.routeExpand_one hfired hentry hgoes hroom hw hroutes hindex hsound hunit hfits
      (State.addEntry_opens (s := s.entryIssued core.toNat f) (fun q hq => (Opens_key hopens q).symm.trans (hkey q hq)) hplace)
    rw [Opens_packet hopens'] at hgo
    refine Run_of_live ha hexec ?_ ?_ <;> rw [hgo]
    · exact entryIssued_Frame s _ f _
    · exact ⟨State.cor_setCor_same (s := s.entryIssued core.toNat f) hw _ _, rfl, entryIssued_longGet hs hfits f _, entryIssued_OnlyRegs hs _ f _⟩
  · intro p q hopens hopen hlen hkey
    have hopens' : Spec.Opens (s.entryIssued core.toNat f) core.toNat f (s.leAt (routeUnit core.toNat u0) 8) p := hopens
    have hgo := State.routeExpand_one hfired hentry hgoes hroom hw hroutes hindex hsound hunit hfits
      (State.addEntry_joins (s := s.entryIssued core.toNat f) hopen ((Opens_key hopens q).symm.trans hkey) hlen)
    rw [Opens_packet hopens'] at hgo
    refine Run_of_live ha hexec ?_ ?_ <;> rw [hgo]
    · exact entryIssued_Frame s _ f _
    · exact ⟨State.cor_setCor_same (s := s.entryIssued core.toNat f) hw _ _, entryIssued_longGet hs hfits f _⟩

end Sys2Proof.Machine
end

section
namespace Sys2Proof.Machine

/-! ## Tables of the router in a canonical state -/

theorem Canon_credits {s : State} (h : Canon s) : Tab.wf (fun _ => 0) s.rtr.credits := by
  obtain ⟨-, -, -, -, -, -, -, -, -, -, -, -, -, -, -, -, -, -, -, -, -, -, -, -, -, -, hcredits, -⟩ := h
  exact hcredits

theorem State.creditsUsed_setCredits_same {s : State} (h : Tab.wf (fun _ => 0) s.rtr.credits) (d v : Nat) :
    (s.setCredits d v).creditsUsed d = v := Tab.get_set_same h d v

/-! ## A replica slot that becomes free (R208, R209) -/

/-- The state in which the replica slot of a target is empty. -/
def State.slotFreed (s : State) (d : Nat) : State := { s with rtr := { s.rtr with replicas := s.rtr.replicas.filter (fun p => p.1 ≠ d) } }

/-- No holding buffer has a packet for a target. -/
def State.Unheld (s : State) (d : Nat) : Prop := ∀ m, m < 16 → ∀ q ∈ (s.cor m).holding, q.dstCore ≠ d

theorem State.replica_slotFreed_same (s : State) (d : Nat) : (s.slotFreed d).replica d = none := by
  simp [State.replica, State.slotFreed]

theorem State.replica_slotFreed_other (s : State) {d k : Nat} (hk : k ≠ d) : (s.slotFreed d).replica k = s.replica k := by
  have hpred : ∀ p : Nat × Packet, decide (decide (p.1 ≠ d) = true ∧ decide (p.1 = k) = true) = decide (p.1 = k) := fun p => by
    by_cases h : p.1 = k <;> simp [h, hk]
  simp only [State.replica, State.slotFreed, List.find?_filter, hpred]

/-- With nothing held for the target its slot stays empty. -/
theorem State.freeReplica_unheld {s : State} {d : Nat} (h : s.Unheld d) : s.freeReplica d = s.slotFreed d := by
  have hnone : (List.range 16).find? (fun n => ((s.slotFreed d).cor n).holding.any (fun p => p.dstCore = d)) = none := by
    rw [List.find?_eq_none]
    intro m hm
    rw [List.any_eq_true]
    rintro ⟨q, hq, hd⟩
    exact h m (List.mem_range.mp hm) q hq (of_decide_eq_true hd)
  unfold State.freeReplica
  extract_lets t
  split
  · rfl
  · next m hm => exact absurd (hm.symm.trans hnone) (by simp)

/-! ## A packet that is no longer outstanding (R211) -/

theorem State.oneAccepted_kept {s : State} (hw : Tab.wf (fun _ => Binding.empty) s.cmd.bindings) (b core : Nat) :
    (∃ w, (s.oneAccepted b core).bnd b = { s.bnd b with outPkts := (s.bnd b).outPkts - 1, lastHeld := w }) ∧
      ∀ m, m ≠ b → (s.oneAccepted b core).bnd m = s.bnd m := by
  have hbnd := State.bnd_setBnd_same hw b { s.bnd b with outPkts := (s.bnd b).outPkts - 1 }
  have hother : ∀ m, m ≠ b → (s.setBnd b { s.bnd b with outPkts := (s.bnd b).outPkts - 1 }).bnd m = s.bnd m :=
    fun m hm => State.bnd_setBnd_other hw _ hm
  have hset : Tab.wf (fun _ => Binding.empty) (s.setBnd b { s.bnd b with outPkts := (s.bnd b).outPkts - 1 }).cmd.bindings := Tab.wf_set hw _ _
  unfold State.oneAccepted
  extract_lets t
  split
  · exact ⟨⟨_, (State.bnd_heldLast_same hset b 1 0 core).trans (by rw [hbnd])⟩,
      fun m hm => (State.bnd_heldLast_other hset 1 0 core hm).trans (hother m hm)⟩
  · exact ⟨⟨(s.bnd b).lastHeld, hbnd⟩, hother⟩

theorem State.oneAccepted_cmdOnly (s : State) (b core : Nat) : OnlyChanges [.cmd] s (s.oneAccepted b core) :=
  State.oneAccepted_Only s b core (by decide) (.refl _ s)

/-! ## A core of another binding (R205, R210) -/

theorem State.foreignCore_here {s : State} {b d k : Nat} (h : s.localOf d = some k) :
    s.foreignCore b d = true ↔ (s.cor k).bound = true ∧ (s.cor k).binding.toNat ≠ b := by
  simp [State.foreignCore, h]

theorem State.foreignCore_far {s : State} {b d : Nat} (h : s.localOf d = none) : s.foreignCore b d = true ↔
    d < s.sysSize ∧ (Config.peerOwner d s.tmr.tb.toNat).any (fun x => decide (x.toNat ≠ b)) = true := by
  simp [State.foreignCore, h]

/-! ## A core freezes (R210, R298) -/

/-- A core that runs nothing and emits nothing. -/
def Core.frozenOff (c : Core) : Core :=
  { c with frozen := true, lanes := [], fired := [], firing := [], openPkts := [], holding := [], entry := 0 }

theorem State.rbit_rsetBit_off {s : State} (hs : Tab.wf regReset s.reg.vals) (a k : Nat) {i j : Nat} (b : Bool) (hi : i ≠ j) :
    (s.rsetBit a j b).rbit k i = s.rbit k i := by
  by_cases h : k = a
  · rw [h, State.rbit_rsetBit_other hs a b hi]
  · rw [State.rbit, State.rbit, State.rsetBit, State.rmod, State.rget_rset_other hs _ h]

theorem State.rbit_forAll_rsetBit {s : State} (hs : Tab.wf regReset s.reg.vals) (l : List Nat) (k : Nat) {i j : Nat} (b : Bool) (hi : i ≠ j) :
    Tab.wf regReset (s.forAll l (fun s a => s.rsetBit a j b)).reg.vals ∧ (s.forAll l (fun s a => s.rsetBit a j b)).rbit k i = s.rbit k i := by
  induction l generalizing s with
  | nil => exact ⟨hs, rfl⟩
  | cons a r ih =>
    obtain ⟨hwf, hbit⟩ := ih (s := s.rsetBit a j b) (Tab.wf_set hs _ _)
    exact ⟨hwf, hbit.trans (State.rbit_rsetBit_off hs a k b hi)⟩

/-- The state in which the phases of a frozen core have stopped. -/
def State.phasesStopped (s : State) (n : Nat) : State :=
  (s.setCor n (s.cor n).frozenOff).forAll [Reg.coreSynStatus n, Reg.coreRteStatus n, Reg.coreLrnStatus n] (fun s a => s.rsetBit a 0 false)
/-- Its contexts show it. -/
def State.ctxsFrozen (s : State) (b : Nat) : State := s.forAll (s.ctxsOf b) (fun s p => s.setCtx p.1 { s.ctx p.1 with frozen := s.ctxFrozen p.2 })

theorem State.freezeCore_eq {s : State} {n : Nat} (h : (s.cor n).frozen = false) (k : Nat) : s.freezeCore n k =
    (((s.phasesStopped n).ctxsFrozen (s.cor n).binding.toNat).raiseCore n).freezeNotice 2 (s.cor n).binding.toNat k St.notBound 0
      (((s.phasesStopped n).ctxsFrozen (s.cor n).binding.toNat).bnd (s.cor n).binding.toNat).step.toNat :=
  if_neg (by rw [h]; exact Bool.false_ne_true)

theorem State.ctxsFrozen_cmdOnly (s : State) (b : Nat) : OnlyChanges [.cmd] s (s.ctxsFrozen b) :=
  OnlyChanges.forAll (fun _ _ h => State.setCtx_Only _ _ (by decide) h) _ (.refl _ s)

theorem State.notice_parts (s : State) (kind : Byte) (body : List Byte) : OnlyChanges [.eth, .out] s (s.notice kind body) :=
  State.notice_Only s kind body (by decide) (by decide) (.refl _ s)

theorem State.freezeCore_parts (s : State) (n k : Nat) : OnlyChanges [.reg, .cmd, .core, .eth, .irq, .out] s (s.freezeCore n k) :=
  State.freezeCore_Only s n k (by decide) (by decide) (by decide) (by decide) (by decide) (by decide) (.refl _ s)

section
variable {s : State} {n : Nat} (h : (s.cor n).frozen = false) (k : Nat)
include h

theorem State.freezeCore_core : (s.freezeCore n k).core = (s.setCor n (s.cor n).frozenOff).core := by
  have hstop : OnlyChanges [.reg] (s.setCor n (s.cor n).frozenOff) (s.phasesStopped n) :=
    OnlyChanges.forAll (fun _ _ hx => State.rsetBit_Only _ _ _ _ (by decide) hx) _ (.refl _ _)
  rw [State.freezeCore_eq h]
  refine ((State.notice_parts _ 2 _).same .core (by decide)).trans ((State.raise_core _ _).trans ?_)
  exact ((State.ctxsFrozen_cmdOnly _ _).same .core (by decide)).trans (hstop.same .core (by decide))

/-- A freeze moves the active bits of the core's phases and the counts of merged interrupts, no other flag. -/
theorem State.freezeCore_rbit (hr : Tab.wf regReset s.reg.vals) {a i : Nat} (ha : a ∉ [Reg.irqMerged, Reg.irqLastm]) (hi : i ≠ 0) :
    (s.freezeCore n k).rbit a i = s.rbit a i := by
  obtain ⟨hwf, hbit⟩ := State.rbit_forAll_rsetBit (s := s.setCor n (s.cor n).frozenOff) hr
    [Reg.coreSynStatus n, Reg.coreRteStatus n, Reg.coreLrnStatus n] a false hi
  have hnotice : (s.freezeCore n k).reg = (((s.phasesStopped n).ctxsFrozen (s.cor n).binding.toNat).raiseCore n).reg := by
    rw [State.freezeCore_eq h]
    exact (State.notice_parts _ 2 _).same .reg (by decide)
  have hctxs : ((s.phasesStopped n).ctxsFrozen (s.cor n).binding.toNat).reg = (s.phasesStopped n).reg :=
    (State.ctxsFrozen_cmdOnly _ _).same .reg (by decide)
  have hget : (s.freezeCore n k).rget a = (s.phasesStopped n).rget a := by
    have hraise := (State.raise_FileOnly ((s.phasesStopped n).ctxsFrozen (s.cor n).binding.toNat)
      (25 + ((s.phasesStopped n).ctxsFrozen (s.cor n).binding.toNat).physCore n)).regs.get (by rw [hctxs]; exact hwf) ha
    rw [State.rget, hnotice]
    refine hraise.trans ?_
    rw [State.rget, hctxs]
    rfl
  rw [State.rbit, hget]
  exact hbit

end

/-! ## PACKET_SEND: the four ways of a packet (R209, R210) -/

/-- The registers of a packet to an absent core. -/
def State.absentShown (s : State) (n d : Nat) (p : Packet) : State :=
  ((s.count (Reg.coreRteAbsent n) p.records.length).rset (Reg.coreRteAbsinfo n) (BitVec.ofNat 32 (p.matrix.toNat * 1024 + d))).rsetBit
    (Reg.coreRteStatus n) 3 true
/-- A packet to an absent core is discarded. -/
def State.absentDropped (s : State) (n b d : Nat) (p : Packet) : State :=
  (((s.absentShown n d p).stepStatus b St.coreAbsent).oneAccepted b p.srcCore).freeReplica d
/-- The registers and the interrupt of a packet to a core of another binding. -/
def State.violShown (s : State) (n : Nat) (p : Packet) : State :=
  ((s.count (Reg.coreRteViol n) p.records.length).rsetBit (Reg.coreRteStatus n) 4 true).raiseCore n
/-- A packet to a core of another binding freezes its sender. -/
def State.violates (s : State) (n b d : Nat) (p : Packet) : State :=
  (((s.violShown n p).freezeCore n p.srcCore).oneAccepted b p.srcCore).freeReplica d
/-- A packet takes a credit, leaves its slot and is in flight. -/
def State.launched (s : State) (d : Nat) (p : Packet) : State :=
  let t := (s.setCredits d (s.creditsUsed d + 1)).freeReplica d
  { t with rtr := { t.rtr with inFlight := t.rtr.inFlight ++ [p] } }

theorem State.packetSend_eq {s : State} {d n b : Nat} {p : Packet} (hp : s.replica d = some p) (hn : (s.localOf p.srcCore).getD 0 = n)
    (hb : (s.cor n).binding.toNat = b) : s.packetSend d =
      if !s.sysPresent d then s.absentDropped n b d p else if s.foreignCore b d then s.violates n b d p
      else if s.creditShare ≤ s.creditsUsed d then s.countFree Reg.fabRtrCreditWait
      else if ((s.launched d p).localOf d).isSome then s.launched d p
      else ((s.launched d p).send (.packet p)).toFabric ((s.launched d p).eventPkt p) := by
  subst hn hb
  unfold State.packetSend
  rw [hp]
  rfl

/-! ### To an absent core -/

theorem coreRte_apart {n : Nat} : Reg.coreRteAbsent n ≠ Reg.coreRteAbsinfo n ∧ Reg.coreRteAbsent n ≠ Reg.coreRteStatus n := by
  simp only [Reg.coreRteAbsent, Reg.coreRteAbsinfo, Reg.coreRteStatus]
  omega

section
variable {s : State} (n b d : Nat) (p : Packet)

theorem State.absentDropped_unheld (h : s.Unheld d) :
    s.absentDropped n b d p = (((s.absentShown n d p).stepStatus b St.coreAbsent).oneAccepted b p.srcCore).slotFreed d := by
  refine State.freeReplica_unheld fun m hm q hq => h m hm q ?_
  have hcore : (((s.absentShown n d p).stepStatus b St.coreAbsent).oneAccepted b p.srcCore).core = s.core :=
    ((State.oneAccepted_cmdOnly _ _ _).same .core (by decide)).trans ((State.stepStatus_cmdOnly _ _ _).same .core (by decide))
  rwa [State.cor, hcore] at hq

theorem absentDropped_Frame (h : s.Unheld d) : Spec.Frame [.rtr, .reg, .cmd] s (s.absentDropped n b d p) := by
  rw [State.absentDropped_unheld n b d p h]
  refine Frame_of_only (OnlyChanges.rtr_upd _ (by decide) (State.oneAccepted_Only _ _ _ (by decide) (State.stepStatus_Only _ _ _ (by decide)
    (State.rsetBit_Only _ _ _ _ (by decide) (State.rset_Only _ _ (by decide) (State.count_Only _ _ _ (by decide) (.refl _ s))))))) (by decide)

theorem State.absentShown_regs (hr : Tab.wf regReset s.reg.vals) :
    (s.absentShown n d p).rfield (Reg.coreRteAbsent n) 0 32 = min (s.rfield (Reg.coreRteAbsent n) 0 32 + p.records.length) (2 ^ 32 - 1) ∧
      (s.absentShown n d p).rbit (Reg.coreRteStatus n) 3 = true := by
  have hcount : Tab.wf regReset (s.count (Reg.coreRteAbsent n) p.records.length).reg.vals := Tab.wf_set hr _ _
  refine ⟨?_, State.rbit_rsetBit_same (Tab.wf_set hcount _ _) _ true (by decide)⟩
  rw [← State.rfield_satAdd_same hr (Reg.coreRteAbsent n) p.records.length (by decide)]
  rw [State.rfield, State.absentShown, State.rsetBit, State.rmod, State.rget_rset_other (Tab.wf_set hcount _ _) _ coreRte_apart.2,
    State.rget_rset_other hcount _ coreRte_apart.1]
  rfl

/-- The registers after an absent packet are those that show it. -/
theorem State.absentDropped_reg (h : s.Unheld d) : (s.absentDropped n b d p).reg = (s.absentShown n d p).reg := by
  rw [State.absentDropped_unheld n b d p h]
  exact ((State.oneAccepted_cmdOnly _ _ _).same .reg (by decide)).trans (State.stepStatus_reg _ _ _)

theorem State.absentDropped_rtr (h : s.Unheld d) : (s.absentDropped n b d p).rtr = (s.slotFreed d).rtr := by
  have hrtr : (((s.absentShown n d p).stepStatus b St.coreAbsent).oneAccepted b p.srcCore).rtr = s.rtr :=
    ((State.oneAccepted_cmdOnly _ _ _).same .rtr (by decide)).trans ((State.stepStatus_cmdOnly _ _ _).same .rtr (by decide))
  rw [State.absentDropped_unheld n b d p h, State.slotFreed, hrtr]
  rfl

theorem State.absentDropped_bnd (hw : Tab.wf (fun _ => Binding.empty) s.cmd.bindings) (h : s.Unheld d) :
    ∃ w, (s.absentDropped n b d p).bnd b =
      { (s.bnd b).tookStatus (!(s.absentShown n d p).isLead b) St.coreAbsent with outPkts := (s.bnd b).outPkts - 1, lastHeld := w } := by
  have hstatus := State.bnd_stepStatus_same (s := s.absentShown n d p) hw b St.coreAbsent
  have hwf : Tab.wf (fun _ => Binding.empty) ((s.absentShown n d p).stepStatus b St.coreAbsent).cmd.bindings := by
    rw [State.stepStatus_eq (s := s.absentShown n d p) hw]
    exact Tab.wf_set hw _ _
  obtain ⟨⟨w, haccepted⟩, -⟩ := State.oneAccepted_kept hwf b p.srcCore
  refine ⟨w, ?_⟩
  rw [State.absentDropped_unheld n b d p h]
  have hcount : ((s.bnd b).tookStatus (!(s.absentShown n d p).isLead b) St.coreAbsent).outPkts = (s.bnd b).outPkts := by
    rw [Binding.tookStatus_eq]
  rw [← hcount]
  exact haccepted.trans (by rw [hstatus]; rfl)

end

/-! ### To a core of another binding -/

theorem State.violShown_parts (s : State) (n : Nat) (p : Packet) : OnlyChanges [.reg, .eth, .irq, .out] s (s.violShown n p) :=
  State.raise_Only _ _ (by decide) (by decide) (by decide) (by decide) (State.rsetBit_Only _ _ _ _ (by decide)
    (State.count_Only _ _ _ (by decide) (.refl _ s)))

theorem violates_Frame (s : State) (n b d : Nat) (p : Packet) :
    Spec.Frame [.reg, .cmd, .core, .rtr, .eth, .irq, .out] s (s.violates n b d p) := by
  have hfreeze : OnlyChanges [.reg, .cmd, .core, .rtr, .eth, .irq, .out] s ((s.violShown n p).freezeCore n p.srcCore) :=
    ((s.violShown_parts n p).mono (by decide)).trans ((State.freezeCore_parts _ _ _).mono (by decide))
  exact Frame_of_only (State.freeReplica_Only _ _ (by decide) (by decide) (by decide) (State.oneAccepted_Only _ _ _ (by decide) hfreeze))
    (by decide)

/-- The state in which the sender of such a packet has frozen and the packet is no longer outstanding. -/
def State.violFrozen (s : State) (n b : Nat) (p : Packet) : State := ((s.violShown n p).freezeCore n p.srcCore).oneAccepted b p.srcCore

theorem State.rbit_raise {s : State} (hr : Tab.wf regReset s.reg.vals) (n : Nat) {a : Nat} (i : Nat) (ha : a ∉ [Reg.irqMerged, Reg.irqLastm]) :
    (s.raise n).rbit a i = s.rbit a i := by
  rw [State.rbit, (State.raise_FileOnly s n).regs.get hr ha]
  rfl

theorem coreRteStatus_not_irq (n : Nat) : Reg.coreRteStatus n ∉ [Reg.irqMerged, Reg.irqLastm] := by
  simp only [List.mem_cons, List.not_mem_nil, or_false, Reg.coreRteStatus, Reg.irqMerged, Reg.irqLastm]
  omega

section
variable {s : State} {n : Nat} (b : Nat) (p : Packet)

theorem State.violShown_cor (m : Nat) : (s.violShown n p).cor m = s.cor m := by
  rw [State.cor, (s.violShown_parts n p).same .core (by decide)]
  rfl

theorem State.violShown_flag (hr : Tab.wf regReset s.reg.vals) : (s.violShown n p).rbit (Reg.coreRteStatus n) 4 = true := by
  have hcount : Tab.wf regReset (s.count (Reg.coreRteViol n) p.records.length).reg.vals := Tab.wf_set hr _ _
  exact (State.rbit_raise (Tab.wf_set hcount _ _) _ 4 (coreRteStatus_not_irq n)).trans (State.rbit_rsetBit_same hcount _ true (by decide))

theorem State.violShown_vals (hr : Tab.wf regReset s.reg.vals) : Tab.wf regReset (s.violShown n p).reg.vals :=
  (State.raise_FileOnly _ _).regs.wf (Tab.wf_set (Tab.wf_set hr _ _) _ _)

theorem State.violFrozen_rtr : (s.violFrozen n b p).rtr = s.rtr :=
  ((State.oneAccepted_cmdOnly _ b p.srcCore).same .rtr (by decide)).trans
    (((State.freezeCore_parts _ n p.srcCore).same .rtr (by decide)).trans ((s.violShown_parts n p).same .rtr (by decide)))

variable (hgoes : (s.cor n).frozen = false)
include hgoes

theorem State.violFrozen_core : (s.violFrozen n b p).core = ((s.violShown n p).setCor n (s.cor n).frozenOff).core := by
  have hcor := State.violShown_cor (s := s) (n := n) p n
  refine ((State.oneAccepted_cmdOnly _ b p.srcCore).same .core (by decide)).trans ?_
  rw [State.freezeCore_core (by rw [hcor]; exact hgoes), hcor]

theorem State.violFrozen_flag (hr : Tab.wf regReset s.reg.vals) : (s.violFrozen n b p).rbit (Reg.coreRteStatus n) 4 = true := by
  have hreg : (s.violFrozen n b p).reg = ((s.violShown n p).freezeCore n p.srcCore).reg :=
    (State.oneAccepted_cmdOnly _ b p.srcCore).same .reg (by decide)
  rw [State.rbit, State.rget, hreg]
  exact (State.freezeCore_rbit (by rw [State.violShown_cor]; exact hgoes) p.srcCore (State.violShown_vals p hr) (coreRteStatus_not_irq n)
    (by decide)).trans (State.violShown_flag p hr)

variable (hw : Tab.wf (fun _ => Core.empty) s.core.cores)
include hw

theorem State.violFrozen_cor_same : (s.violFrozen n b p).cor n = (s.cor n).frozenOff := by
  have hw' : Tab.wf (fun _ => Core.empty) (s.violShown n p).core.cores := by
    rw [(s.violShown_parts n p).same .core (by decide)]
    exact hw
  rw [State.cor, State.violFrozen_core b p hgoes]
  exact State.cor_setCor_same hw' n _

theorem State.violFrozen_cor_other {m : Nat} (hm : m ≠ n) : (s.violFrozen n b p).cor m = s.cor m := by
  have hw' : Tab.wf (fun _ => Core.empty) (s.violShown n p).core.cores := by
    rw [(s.violShown_parts n p).same .core (by decide)]
    exact hw
  rw [State.cor, State.violFrozen_core b p hgoes]
  exact (State.cor_setCor_other hw' _ hm).trans (State.violShown_cor p m)

/-- The frozen sender gives up its holding buffers, so that nothing moves into the slot. -/
theorem State.violates_eq {d : Nat} (h : s.Unheld d) : s.violates n b d p = (s.violFrozen n b p).slotFreed d := by
  refine State.freeReplica_unheld (s := s.violFrozen n b p) fun m hm q hq => ?_
  by_cases hmn : m = n
  · rw [hmn, State.violFrozen_cor_same b p hgoes hw] at hq
    exact absurd hq List.not_mem_nil
  · rw [State.violFrozen_cor_other b p hgoes hw hmn] at hq
    exact h m hm q hq

end

/-- What a freeze for a packet to a core of another binding leaves (R210). -/
structure SenderFrozen (n d : Nat) (s u : State) : Prop where
  slot   : u.replica d = none
  sender : u.cor n = (s.cor n).frozenOff
  others : ∀ m, m ≠ n → u.cor m = s.cor m
  flag   : u.rbit (Reg.coreRteStatus n) 4 = true
  flight : u.rtr.inFlight = s.rtr.inFlight

theorem SenderFrozen.of_slotFreed {s t : State} {n d : Nat} (hsender : t.cor n = (s.cor n).frozenOff)
    (hothers : ∀ m, m ≠ n → t.cor m = s.cor m) (hflag : t.rbit (Reg.coreRteStatus n) 4 = true)
    (hflight : t.rtr.inFlight = s.rtr.inFlight) : SenderFrozen n d s (t.slotFreed d) :=
  ⟨State.replica_slotFreed_same t d, hsender, hothers, hflag, hflight⟩

theorem State.violates_frozen {s : State} (hs : Canon s) {n : Nat} (b : Nat) {d : Nat} (p : Packet) (h : s.Unheld d)
    (hgoes : (s.cor n).frozen = false) : SenderFrozen n d s (s.violates n b d p) := by
  have hw := Canon_cores hs
  have hsender := State.violFrozen_cor_same b p hgoes hw
  have hothers := fun m hm => State.violFrozen_cor_other b p hgoes hw (m := m) hm
  have hflag := State.violFrozen_flag b p hgoes (Canon_vals hs)
  have hrtr := State.violFrozen_rtr (s := s) (n := n) b p
  rw [State.violates_eq b p hgoes hw h]
  generalize s.violFrozen n b p = t at hsender hothers hflag hrtr
  exact SenderFrozen.of_slotFreed hsender hothers hflag (congrArg Router.inFlight hrtr)

/-! ### On its way -/

/-- What is true of the router once a packet is in flight (R209, R211). -/
structure InFlight (d : Nat) (p : Packet) (s u : State) : Prop where
  slot   : u.replica d = none
  slots  : ∀ k, k ≠ d → u.replica k = s.replica k
  flight : u.rtr.inFlight = s.rtr.inFlight ++ [p]
  credit : u.creditsUsed d = s.creditsUsed d + 1
  others : ∀ k, k ≠ d → u.creditsUsed k = s.creditsUsed k

theorem State.launched_eq {s : State} {d : Nat} (h : s.Unheld d) (p : Packet) : s.launched d p = { s with rtr :=
    { s.rtr with
      replicas := s.rtr.replicas.filter (fun q => q.1 ≠ d)
      credits := Tab.set (fun _ => 0) s.rtr.credits d (s.creditsUsed d + 1)
      inFlight := s.rtr.inFlight ++ [p] } } := by
  have hfree := State.freeReplica_unheld (s := s.setCredits d (s.creditsUsed d + 1)) (d := d) h
  unfold State.launched
  rw [hfree]
  rfl

theorem InFlight.of_rtr {s u : State} {d : Nat} {p : Packet} (hs : Canon s) (h : s.Unheld d) (hu : u.rtr = (s.launched d p).rtr) :
    InFlight d p s u := by
  have hwf := Canon_credits hs
  rw [State.launched_eq h] at hu
  refine ⟨?_, fun k hk => ?_, by rw [hu], ?_, fun k hk => ?_⟩
  · rw [State.replica, hu]
    exact s.replica_slotFreed_same d
  · rw [State.replica, hu]
    exact s.replica_slotFreed_other hk
  · rw [State.creditsUsed, hu]
    exact Tab.get_set_same hwf d _
  · rw [State.creditsUsed, hu]
    exact Tab.get_set_other hwf _ hk

theorem launched_Frame {s : State} {d : Nat} (h : s.Unheld d) (p : Packet) : Spec.Frame [.rtr] s (s.launched d p) := by
  rw [State.launched_eq h]
  exact Frame_of_only (OnlyChanges.rtr_upd _ (by decide) (.refl _ s)) (by decide)

/-- A packet to another device as it leaves. -/
def State.departed (s : State) (d : Nat) (p : Packet) : State := ((s.launched d p).send (.packet p)).toFabric ((s.launched d p).eventPkt p)

theorem State.departed_parts (s : State) (d : Nat) (p : Packet) : OnlyChanges (.gov :: msgParts) (s.launched d p) (s.departed d p) :=
  State.toFabric_Only _ _ (by decide) (by decide) (by decide) (by decide) (by decide) (by decide) (by decide) (by decide)
    (State.send_Only _ (by decide) (.refl _ _))

theorem State.departed_Sent (s : State) (d : Nat) (p : Packet) : Sent (s.launched d p) (s.departed d p) :=
  (Sent.send _ _).trans (State.toFabric_Sent _ _)

theorem departed_Frame {s : State} {d : Nat} (h : s.Unheld d) (p : Packet) :
    Spec.Frame [.rtr, .fab, .out, .ptb, .reg, .free, .eth, .irq] s (s.departed d p) :=
  Frame_trans (Frame_mono (launched_Frame h p) (by decide) (by decide))
    (Frame_of_acts ((s.departed_parts d p).mono (by decide)) (s.departed_Sent d p).acts) (by decide)

theorem State.mem_departed_out (s : State) (d : Nat) (p : Packet) : Out.packet p ∈ (s.departed d p).out :=
  (State.toFabric_Sent ((s.launched d p).send (.packet p)) _).out.subset (List.mem_append_right _ (List.mem_singleton_self _))

/-! ### Which way a packet goes -/

section
variable {s : State} {d n b : Nat} {p : Packet} (hp : s.replica d = some p) (hn : (s.localOf p.srcCore).getD 0 = n)
  (hb : (s.cor n).binding.toNat = b)
include hp hn hb

theorem State.packetSend_absent (h : s.sysPresent d = false) : s.packetSend d = s.absentDropped n b d p := by
  rw [State.packetSend_eq hp hn hb, h]
  rfl

variable (h : s.sysPresent d = true)
include h

theorem State.packetSend_foreign (hf : s.foreignCore b d = true) : s.packetSend d = s.violates n b d p := by
  rw [State.packetSend_eq hp hn hb, h, hf]
  rfl

variable (hf : s.foreignCore b d = false)
include hf

theorem State.packetSend_waits (hcredit : s.creditShare ≤ s.creditsUsed d) : s.packetSend d = s.countFree Reg.fabRtrCreditWait := by
  rw [State.packetSend_eq hp hn hb, h, hf]
  exact if_pos hcredit

variable (hcredit : s.creditsUsed d < s.creditShare) (hunheld : s.Unheld d)
include hcredit hunheld

theorem State.packetSend_here (hloc : s.localOf d ≠ none) : s.packetSend d = s.launched d p := by
  have hsame : ((s.launched d p).localOf d).isSome = true := by
    rw [State.launched_eq hunheld]
    exact Option.isSome_iff_ne_none.mpr hloc
  rw [State.packetSend_eq hp hn hb, h, hf]
  exact (if_neg (Nat.not_le.mpr hcredit)).trans (if_pos hsame)

theorem State.packetSend_away (hloc : s.localOf d = none) : s.packetSend d = s.departed d p := by
  have hsame : ¬ ((s.launched d p).localOf d).isSome = true := by
    rw [State.launched_eq hunheld]
    exact fun hsome => Option.isSome_iff_ne_none.mp hsome hloc
  rw [State.packetSend_eq hp hn hb, h, hf]
  exact (if_neg (Nat.not_le.mpr hcredit)).trans (if_neg hsame)

end

theorem packetsAreSent : Spec.PacketsAreSent := by
  intro s dst p
  extract_lets d n b here abroad share sent freezes all
  intro hs ha hn hp hunheld
  have hexec : exec (.packetSend dst) s = live s fun s => s.packetSend d := rfl
  have hhere : s.localOf d ≠ none → ¬ here → s.foreignCore b d = false := fun hloc hnot => by
    obtain ⟨k, hk⟩ := Option.ne_none_iff_exists'.mp hloc
    exact Bool.eq_false_iff.mpr fun hf => hnot ⟨k, hk, (State.foreignCore_here hk).mp hf⟩
  have hnear : s.localOf d = none → ¬ abroad → s.foreignCore b d = false := fun hloc hnot =>
    Bool.eq_false_iff.mpr fun hf => hnot ((State.foreignCore_far hloc).mp hf)
  have hsent : ∀ u, InFlight d p s u → sent u := fun u hu => ⟨hu.slot, hu.flight, hu.credit⟩
  have hfreezes : s.sysPresent d = true → s.foreignCore b d = true → ∃ u, exec (.packetSend dst) s = .next u ∧ Spec.Frame all s u ∧
      ((s.cor n).frozen = false → freezes u) := fun hpres hf => by
    refine Run_of_live ha hexec ?_ ?_ <;> rw [State.packetSend_foreign hp rfl rfl hpres hf]
    · exact Frame_mono (violates_Frame s n b d p) (by decide) (by decide)
    · intro hgoes
      obtain ⟨hslot, hsender, hothers, hflag, hflight⟩ := State.violates_frozen hs b p hunheld hgoes
      refine ⟨hslot, ?_, ?_, ?_, hothers, hflag, hflight⟩ <;> rw [hsender] <;> rfl
  refine ⟨fun hpres hloc hnot hcredit => ?_, fun hpres hloc hnot hcredit => ?_, fun hpres hfar hcredit => ?_,
    fun hpres hfar hcredit => ?_, fun habsent => ?_, fun hpres hforeign hgoes => ?_⟩
  · have hin := InFlight.of_rtr (p := p) hs hunheld rfl
    refine Run_of_live ha hexec ?_ ?_ <;> rw [State.packetSend_here hp rfl rfl hpres (hhere hloc hnot) hcredit hunheld hloc]
    · exact launched_Frame hunheld p
    · exact ⟨hsent _ hin, fun k hk => ⟨hin.slots k hk, hin.others k hk⟩⟩
  · refine Run_of_live ha hexec ?_ ?_ <;> rw [State.packetSend_waits hp rfl rfl hpres (hhere hloc hnot) hcredit]
    · exact countFree_Frame s _
    · exact countFree_OnlyRegs hs _
  · by_cases hab : abroad
    · obtain ⟨u, hu, hframe, hfrozen⟩ := hfreezes hpres ((State.foreignCore_far hfar).mpr hab)
      exact ⟨u, hu, hframe, fun _ => hfrozen, fun hnot => absurd hab hnot⟩
    · have hin := InFlight.of_rtr (p := p) hs hunheld ((s.departed_parts d p).same .rtr (by decide))
      refine Run_of_live ha hexec ?_ ?_ <;> rw [State.packetSend_away hp rfl rfl hpres (hnear hfar hab) hcredit hunheld hfar]
      · exact Frame_mono (departed_Frame hunheld p) (by decide) (by decide)
      · exact ⟨fun h => absurd h hab, fun _ => ⟨hsent _ hin, s.mem_departed_out d p, departed_Frame hunheld p⟩⟩
  · by_cases hab : abroad
    · obtain ⟨u, hu, hframe, hfrozen⟩ := hfreezes hpres ((State.foreignCore_far hfar).mpr hab)
      exact ⟨u, hu, hframe, fun _ => hfrozen, fun hnot => absurd hab hnot⟩
    · refine Run_of_live ha hexec ?_ ?_ <;> rw [State.packetSend_waits hp rfl rfl hpres (hnear hfar hab) hcredit]
      · exact Frame_mono (countFree_Frame s _) (by decide) (by decide)
      · exact ⟨fun h => absurd h hab, fun _ => ⟨countFree_Frame s _, countFree_OnlyRegs hs _⟩⟩
  · obtain ⟨hcount, hbit⟩ := State.absentShown_regs n d p (Canon_vals hs)
    obtain ⟨w, hbnd⟩ := State.absentDropped_bnd n b d p (Canon_bindings hs) hunheld
    have hrtr := State.absentDropped_rtr n b d p hunheld
    have hreg := State.absentDropped_reg n b d p hunheld
    refine Run_of_live ha hexec ?_ ?_ <;> rw [State.packetSend_absent hp rfl rfl habsent]
    · exact absentDropped_Frame n b d p hunheld
    · refine ⟨?_, by rw [hrtr]; rfl, by rw [hbnd], ?_, ?_, fun q r hqueue hleft => ?_⟩
      · rw [State.replica, hrtr]
        exact s.replica_slotFreed_same d
      · rw [State.rfield, State.rget, hreg]
        exact hcount
      · rw [State.rbit, State.rget, hreg]
        exact hbit
      · rw [hbnd]
        exact Binding.tookStatus_first hqueue hleft _ _
  · obtain ⟨k, hk, hother⟩ := hforeign
    obtain ⟨u, hu, hframe, hfrozen⟩ := hfreezes hpres ((State.foreignCore_here hk).mpr hother)
    exact ⟨u, hu, hframe, hfrozen hgoes⟩

/-- Settles O33: route expansion by the cases of the route unit and the assembler, PACKET_SEND by the four ways of a packet. -/
theorem eventsLeave : Obligations.EventsLeave := ⟨routesExpand, packetsAreSent⟩

end Sys2Proof.Machine
end

section
namespace Sys2Proof.Machine

/-! ## Outputs that are no acknowledgement of an acceptance (R211) -/

/-- From `s` to `t` no acknowledgement of an acceptance has left. -/
def NoAccepts (s t : State) : Prop := ∀ d e, Out.accept d e ∈ t.out → Out.accept d e ∈ s.out

namespace NoAccepts
variable {s t u : State}

theorem of_out (h : t.out = s.out) : NoAccepts s t := fun _ _ hm => h ▸ hm
theorem refl (s : State) : NoAccepts s s := of_out rfl
theorem trans (h : NoAccepts s t) (g : NoAccepts t u) : NoAccepts s u := fun d e hm => h d e (g d e hm)
theorem ite {c : Prop} [Decidable c] (ht : c → NoAccepts s t) (hu : ¬ c → NoAccepts s u) : NoAccepts s (if c then t else u) := by
  split
  · exact ht ‹_›
  · exact hu ‹_›
theorem forAll {α : Type} {f : State → α → State} (hf : ∀ s x, NoAccepts s (f s x)) (xs : List α) (s : State) : NoAccepts s (s.forAll xs f) := by
  induction xs generalizing s with
  | nil => exact refl s
  | cons x r ih => exact (hf s x).trans (ih (f s x))

end NoAccepts

theorem State.hostPump_NoAccepts (s : State) (k : Nat) : NoAccepts s (s.hostPump k) := fun d e hm => by
  rcases List.mem_append.mp hm with hm | hm
  · exact hm
  · simp at hm

theorem State.hostFrames_NoAccepts (s : State) (sp dev stream n : Nat) (note : Bool) : NoAccepts s (s.hostFrames sp dev stream n note) :=
  .ite (fun _ => .refl s) fun _ => .trans (t := s.setSpace _ _) (.of_out rfl) (State.hostPump_NoAccepts _ _)

theorem State.notice_NoAccepts (s : State) (kind : Byte) (body : List Byte) : NoAccepts s (s.notice kind body) := by
  refine .ite (fun _ => .trans (t := s.send _) (fun d e hm => ?_) (State.hostFrames_NoAccepts _ _ _ _ _ _)) fun _ =>
    .ite (fun _ => .of_out rfl) fun _ => .refl s
  rcases List.mem_append.mp hm with hm | hm
  · exact hm
  · simp at hm

theorem State.raise_NoAccepts (s : State) (n : Nat) : NoAccepts s (s.raise n) :=
  .ite (fun _ => .refl s) fun _ => .ite (fun _ => .of_out rfl) fun _ =>
    .trans (t := { s with irq := { s.irq with raw := s.irq.raw ||| BitVec.ofNat 512 (2 ^ n) } }) (.of_out rfl)
      (.ite (fun _ => State.notice_NoAccepts _ _ _) fun _ => .refl _)

theorem State.moved_NoAccepts (s : State) (wr : Bool) (a n : Nat) : NoAccepts s (s.moved wr a n) := by
  refine .ite (fun _ => ?_) fun _ => .refl s
  rw [State.countGranules_eq]
  refine .ite (fun _ => .refl s) fun _ => .forAll (fun s g => ?_) _ s
  exact .ite (fun _ => .trans (t := ((s.unitActs 1 (if wr then 1 else 0) 1).longWrap (Reg.hbmGrLo (hbmStack g)) 1).1.rsetBit
    (Reg.hbmStat (hbmStack g)) 2 true) (.of_out rfl) (State.raise_NoAccepts _ _)) fun _ => .of_out rfl

/-! ## Records put into buckets (R213) -/

/-- What writing the pages of a ring changes: traffic, errors of words, registers. -/
structure PagesWritten (s t : State) : Prop where
  only    : OnlyChanges [.reg, .mem, .eth, .gov, .irq, .out] s t
  acts    : ActsOnly s t
  mem     : Spec.SameBytes s t
  accepts : NoAccepts s t

namespace PagesWritten
variable {s t u : State}

theorem trans (h : PagesWritten s t) (g : PagesWritten t u) : PagesWritten s u :=
  ⟨h.only.trans g.only, h.acts.trans g.acts, SameBytes.trans h.mem g.mem, h.accepts.trans g.accepts⟩

theorem of_reg (h : OnlyChanges [.reg] s t) : PagesWritten s t :=
  ⟨h.mono (by decide), .of_only h (by decide), SameBytes.of_mem (h.same .mem (by decide)), .of_out (h.same .out (by decide))⟩

theorem refl (s : State) : PagesWritten s s := of_reg (.refl _ s)

theorem forAll {α : Type} {f : State → α → State} (hf : ∀ s x, PagesWritten s (f s x)) (xs : List α) (s : State) :
    PagesWritten s (s.forAll xs f) := by
  induction xs generalizing s with
  | nil => exact refl s
  | cons x r ih => exact (hf s x).trans (ih (f s x))

end PagesWritten

theorem State.pageWrite_Written (s : State) (a n : Nat) : PagesWritten s (s.pageWrite a n) :=
  ⟨State.pageWrite_Only s a n (by decide) (by decide) (by decide) (by decide) (by decide) (by decide) (.refl _ s),
    (s.pageWrite_Paged a n).acts, (s.pageWrite_Paged a n).mem,
    .trans (t := { s with mem := { s.mem with bad := s.mem.bad.filter (fun w => !(decide (a ≤ w * 8) && decide (w * 8 + 8 ≤ a + n))) } })
      (.of_out rfl) (State.moved_NoAccepts _ _ _ _)⟩

/-- Records join their bucket, and the rest of what happens is the writing of pages. -/
theorem State.putRing_written (s : State) (n k : Nat) (l : List Ev) :
    ∃ x, PagesWritten ((s.setRing n k (s.ring n k ++ l)).setPages n k x) (s.putRing n k l) := by
  unfold State.putRing
  extract_lets x runs more t u
  have hpages : PagesWritten t u := .forAll (fun s _ => State.pageWrite_Written s _ _) _ t
  refine ⟨_, hpages.trans (PagesWritten.trans ?_ (.of_reg (State.spillPeak_regOnly _)))⟩
  split
  · exact .of_reg (State.rsetBit_Only _ _ _ _ (by decide) (.refl _ u))
  · exact .refl u

theorem records_of_bucket_same (k : Nat) (l : List Ev) : ((l.map fun e => (k, e)).filter (fun x => x.1 = k)).map Prod.snd = l := by
  simp [List.filter_map, Function.comp_def]
theorem records_of_bucket_other {k i : Nat} (hi : k ≠ i) (l : List Ev) :
    ((l.map fun e => (k, e)).filter (fun x => x.1 = i)).map Prod.snd = [] := by
  simp [List.filter_map, Function.comp_def, hi]

/-- Records, each with its bucket, have been put into the ring of core `n`. -/
structure RingsPut (n : Nat) (l : List (Nat × Ev)) (s t : State) : Prop where
  only    : OnlyChanges [.reg, .mem, .rtr, .eth, .gov, .irq, .out] s t
  acts    : ActsOnly s t
  mem     : Spec.SameBytes s t
  accepts : NoAccepts s t
  kept    : t.rtr = { s.rtr with rings := t.rtr.rings, pages := t.rtr.pages }
  wf      : Tab.wf (fun _ => []) t.rtr.rings
  own     : ∀ i, i < 64 → t.ring n i = s.ring n i ++ (l.filter (fun x => x.1 = i)).map Prod.snd
  others  : ∀ m i, i < 64 → m ≠ n → t.ring m i = s.ring m i

theorem RingsPut.refl {s : State} (n : Nat) (h : Tab.wf (fun _ => []) s.rtr.rings) : RingsPut n [] s s :=
  ⟨.refl _ s, .refl s, SameBytes.refl s, .refl s, rfl, h, fun _ _ => by simp, fun _ _ _ _ => rfl⟩

theorem RingsPut.trans {n : Nat} {l m : List (Nat × Ev)} {s t u : State} (h : RingsPut n l s t) (g : RingsPut n m t u) :
    RingsPut n (l ++ m) s u where
  only := h.only.trans g.only
  acts := h.acts.trans g.acts
  mem := SameBytes.trans h.mem g.mem
  accepts := h.accepts.trans g.accepts
  kept := by rw [g.kept, h.kept]
  wf := g.wf
  own i hi := by rw [g.own i hi, h.own i hi, List.filter_append, List.map_append, List.append_assoc]
  others k i hi hk := (g.others k i hi hk).trans (h.others k i hi hk)

theorem State.putRing_RingsPut {s : State} (h : Tab.wf (fun _ => []) s.rtr.rings) (n : Nat) {k : Nat} (hk : k < 64) (l : List Ev) :
    RingsPut n (l.map fun e => (k, e)) s (s.putRing n k l) := by
  obtain ⟨x, hw⟩ := s.putRing_written n k l
  have hset : OnlyChanges [.rtr] s ((s.setRing n k (s.ring n k ++ l)).setPages n k x) :=
    State.setPages_Only _ _ _ (by decide) (State.setRing_Only _ _ _ (by decide) (.refl _ s))
  have hrtr : (s.putRing n k l).rtr = ((s.setRing n k (s.ring n k ++ l)).setPages n k x).rtr := hw.only.same .rtr (by decide)
  have hring : ∀ m i, (s.putRing n k l).ring m i = (s.setRing n k (s.ring n k ++ l)).ring m i := fun m i => by
    rw [State.ring, hrtr]
    rfl
  refine ⟨(hset.mono (by decide)).trans (hw.only.mono (by decide)), (ActsOnly.of_only hset (by decide)).trans hw.acts,
    SameBytes.trans (SameBytes.of_mem (hset.same .mem (by decide))) hw.mem, (NoAccepts.of_out (hset.same .out (by decide))).trans hw.accepts,
    ?_, ?_, fun i hi => ?_, fun m i hi hm => ?_⟩
  · rw [hrtr]
    rfl
  · rw [hrtr]
    exact Tab.wf_set h _ _
  · rw [hring]
    by_cases hik : i = k
    · subst hik
      rw [State.ring_setRing_same h, records_of_bucket_same]
    · rw [State.ring_setRing_other h _ (by omega), records_of_bucket_other (Ne.symm hik), List.append_nil]
  · rw [hring, State.ring_setRing_other h _ (by omega)]

/-- Records put into their buckets one by one. -/
theorem State.forAll_putRing {s : State} (h : Tab.wf (fun _ => []) s.rtr.rings) (n : Nat) {l : List (Nat × Ev)} (hl : ∀ x ∈ l, x.1 < 64) :
    RingsPut n l s (s.forAll l (fun s p => s.putRing n p.1 [p.2])) := by
  induction l generalizing s with
  | nil => exact .refl n h
  | cons x r ih =>
    have hput : RingsPut n [x] s (s.putRing n x.1 [x.2]) := State.putRing_RingsPut h n (hl x (by simp)) [x.2]
    exact hput.trans (ih hput.wf fun y hy => hl y (by simp [hy]))

/-! ## A packet is stored at its target (R211, R213, R215) -/

theorem Canon_staging {s : State} (h : Canon s) : Tab.wf (fun _ => []) s.rtr.staging := by
  obtain ⟨-, -, -, -, -, -, -, -, -, -, -, -, -, -, -, -, -, -, -, -, -, -, -, -, -, -, -, -, hstaging, -⟩ := h
  exact hstaging

/-- The events of a packet, field by field (R198, R200). -/
theorem packetEvents_eq (p : Packet) : packetEvents p = p.records.map (fun w => Ev.mk p.matrix (BitVec.ofNat 16 (w.toNat / 2 ^ 16))
    (p.ctxBase.toNat + w.toNat / 8 % 8192) (BitVec.ofNat 3 (w.toNat % 8)) p.fixed) := by
  refine List.map_congr_left fun w _ => ?_
  have hrow : BitVec.ofNat 16 (fieldOf w 16 16) = BitVec.ofNat 16 (w.toNat / 2 ^ 16) :=
    BitVec.eq_of_toNat_eq (by simp [fieldOf])
  have hcnt : fieldOf w 0 3 = w.toNat % 8 := by simp [fieldOf]
  rw [hrow, hcnt]
  rfl

theorem length_packetEvents (p : Packet) : (packetEvents p).length = p.records.length := List.length_map _

theorem State.packetBucket_lt (s : State) (n : Nat) (p : Packet) : s.packetBucket n p < 64 := Nat.mod_lt _ (by decide)

/-- The bucket that a packet belongs to drains (R215). -/
def State.drainsAt (s : State) (n : Nat) (p : Packet) : Prop :=
  n ∈ s.rtr.draining ∧ s.packetBucket n p = (s.bnd (s.cor n).binding.toNat).step.toNat % 64

/-- What the staging slot of a core has room for of a packet, each record with its bucket. -/
def State.slotTakes (s : State) (n : Nat) (p : Packet) : List (Nat × Ev) :=
  ((packetEvents p).take (2048 - (s.staged n).length)).map fun e => (s.packetBucket n p, e)

/-- The staging slot of a core with records added; a full one shows. -/
def State.slotFilled (s : State) (n : Nat) (l : List (Nat × Ev)) : State :=
  let t := { s with rtr := { s.rtr with staging := Tab.set (fun _ => []) s.rtr.staging n (s.staged n ++ l) } }
  if (s.staged n ++ l).length = 2048 then t.rsetBit Reg.fabRtrStatus 1 true else t

section
variable {s : State} {n : Nat} {p : Packet}

theorem State.storePacket_ring (h : ¬ s.drainsAt n p) :
    s.storePacket n p = (s.putRing n (s.packetBucket n p) (packetEvents p), p.records.length) := if_neg h

theorem State.storePacket_slot (h : s.drainsAt n p) :
    s.storePacket n p = (s.slotFilled n (s.slotTakes n p), min (2048 - (s.staged n).length) p.records.length) := by
  have hcount : (s.staged n ++ s.slotTakes n p).length - (s.staged n).length = min (2048 - (s.staged n).length) p.records.length := by
    rw [List.length_append, Nat.add_sub_cancel_left, State.slotTakes, List.length_map, List.length_take, length_packetEvents]
  rw [← hcount]
  exact if_pos h

theorem State.slotFilled_rtr (l : List (Nat × Ev)) : (s.slotFilled n l).rtr =
    { s.rtr with staging := Tab.set (fun _ => []) s.rtr.staging n (s.staged n ++ l) } := by
  unfold State.slotFilled
  extract_lets t
  split <;> rfl

theorem State.slotFilled_Only (l : List (Nat × Ev)) : OnlyChanges [.rtr, .reg] s (s.slotFilled n l) := by
  have hset : OnlyChanges [.rtr, .reg] s
      { s with rtr := { s.rtr with staging := Tab.set (fun _ => []) s.rtr.staging n (s.staged n ++ l) } } :=
    OnlyChanges.rtr_upd _ (by decide) (.refl _ s)
  unfold State.slotFilled
  extract_lets t
  split
  · exact State.rsetBit_Only _ _ _ _ (by decide) hset
  · exact hset

theorem State.slotFilled_staged (h : Tab.wf (fun _ => []) s.rtr.staging) (l : List (Nat × Ev)) :
    (s.slotFilled n l).staged n = s.staged n ++ l := by
  rw [State.staged, State.slotFilled_rtr]
  exact Tab.get_set_same h n _

theorem State.slotFilled_full (hr : Tab.wf regReset s.reg.vals) {l : List (Nat × Ev)} (h : (s.staged n ++ l).length = 2048) :
    (s.slotFilled n l).rbit Reg.fabRtrStatus 1 = true := by
  unfold State.slotFilled
  extract_lets t
  rw [if_pos h]
  exact State.rbit_rsetBit_same hr Reg.fabRtrStatus true (by decide)

theorem State.slotTakes_all (h : p.records.length ≤ 2048 - (s.staged n).length) :
    s.slotTakes n p = (packetEvents p).map fun e => (s.packetBucket n p, e) := by
  rw [State.slotTakes, List.take_of_length_le (by rw [length_packetEvents]; exact h)]

end

/-- Every record of a packet stands in its bucket, or in the staging slot while that bucket drains. -/
structure BucketTakes (n : Nat) (p : Packet) (s u : State) : Prop where
  ring   : ¬ s.drainsAt n p → u.ring n (s.packetBucket n p) = s.ring n (s.packetBucket n p) ++ packetEvents p ∧ u.rtr.staging = s.rtr.staging
  slot   : s.drainsAt n p → u.staged n = s.staged n ++ (packetEvents p).map (fun e => (s.packetBucket n p, e)) ∧ u.rtr.rings = s.rtr.rings
  others : ∀ m j, j < 64 → (m, j) ≠ (n, s.packetBucket n p) → u.ring m j = s.ring m j

theorem BucketTakes.of_rtr {n : Nat} {p : Packet} {s t u : State} (h : BucketTakes n p s t) (hrings : u.rtr.rings = t.rtr.rings)
    (hstaging : u.rtr.staging = t.rtr.staging) : BucketTakes n p s u := by
  have hring : ∀ m j, u.ring m j = t.ring m j := fun m j => by rw [State.ring, hrings]; rfl
  have hstaged : u.staged n = t.staged n := by rw [State.staged, hstaging]; rfl
  refine ⟨fun hd => ?_, fun hd => ?_, fun m j hj hm => ?_⟩
  · rw [hring, hstaging]
    exact h.ring hd
  · rw [hstaged, hrings]
    exact h.slot hd
  · rw [hring]
    exact h.others m j hj hm

/-- What storing a whole packet changes. -/
structure Stored (n : Nat) (p : Packet) (s t : State) : Prop where
  only    : OnlyChanges [.reg, .mem, .rtr, .eth, .gov, .irq, .out] s t
  acts    : ActsOnly s t
  mem     : Spec.SameBytes s t
  accepts : NoAccepts s t
  kept    : t.rtr = { s.rtr with rings := t.rtr.rings, pages := t.rtr.pages, staging := t.rtr.staging }
  takes   : BucketTakes n p s t

/-- The records in the ring. -/
theorem Stored.of_ringsPut {s t : State} {n : Nat} {p : Packet} (hd : ¬ s.drainsAt n p)
    (h : RingsPut n ((packetEvents p).map fun e => (s.packetBucket n p, e)) s t) : Stored n p s t := by
  refine ⟨h.only, h.acts, h.mem, h.accepts, by rw [h.kept], fun _ => ⟨?_, by rw [h.kept]⟩, fun h => absurd h hd, fun m j hj hm => ?_⟩
  · rw [h.own _ (s.packetBucket_lt n p), records_of_bucket_same]
  · by_cases hmn : m = n
    · subst hmn
      have hne : s.packetBucket m p ≠ j := fun h => hm (by rw [h])
      rw [h.own j hj, records_of_bucket_other hne, List.append_nil]
    · exact h.others m j hj hmn

/-- The records in the staging slot. -/
theorem Stored.of_slotFilled {s : State} (hs : Canon s) {n : Nat} {p : Packet} (hd : s.drainsAt n p)
    (hroom : p.records.length ≤ 2048 - (s.staged n).length) : Stored n p s (s.slotFilled n (s.slotTakes n p)) := by
  have honly := State.slotFilled_Only (s := s) (n := n) (s.slotTakes n p)
  have hrtr := State.slotFilled_rtr (s := s) (n := n) (s.slotTakes n p)
  have hstaged := State.slotFilled_staged (n := n) (Canon_staging hs) (s.slotTakes n p)
  generalize s.slotFilled n (s.slotTakes n p) = t at honly hrtr hstaged
  rw [State.slotTakes_all hroom] at hstaged
  refine ⟨honly.mono (by decide), .of_only honly (by decide), SameBytes.of_mem (honly.same .mem (by decide)),
    .of_out (honly.same .out (by decide)), by rw [hrtr], fun h => absurd hd h, fun _ => ⟨hstaged, by rw [hrtr]⟩, fun m j _ _ => ?_⟩
  rw [State.ring, hrtr]
  rfl

/-- A packet for which there is room is stored whole. -/
theorem State.storePacket_Stored {s : State} (hs : Canon s) {n : Nat} {p : Packet}
    (hroom : s.drainsAt n p → p.records.length ≤ 2048 - (s.staged n).length) :
    (s.storePacket n p).2 = p.records.length ∧ Stored n p s (s.storePacket n p).1 := by
  by_cases hd : s.drainsAt n p
  · rw [State.storePacket_slot hd]
    exact ⟨Nat.min_eq_right (hroom hd), .of_slotFilled hs hd (hroom hd)⟩
  · rw [State.storePacket_ring hd]
    exact ⟨rfl, .of_ringsPut hd (State.putRing_RingsPut (Canon_rings hs) n (s.packetBucket_lt n p) (packetEvents p))⟩

end Sys2Proof.Machine
end

section
namespace Sys2Proof.Machine

/-! ## A packet is accepted (R209, R211, R215) -/

/-- The binding that a packet of this device serves. -/
def State.senderBnd (s : State) (p : Packet) : Nat := (s.cor ((s.localOf p.srcCore).getD 0)).binding.toNat

/-- A packet of this device leaves the flight and is no longer outstanding for a binding. -/
def State.landed (s : State) (b : Nat) (p : Packet) : State :=
  ({ s with rtr := { s.rtr with inFlight := s.rtr.inFlight.erase p } }).oneAccepted b p.srcCore

/-- The credit returns, or is withheld while the staging slot is full. -/
def State.creditSettled (s : State) (src : BitVec 6) (n d : Nat) : State :=
  if 2048 ≤ (s.staged n).length then { s with rtr := { s.rtr with owed := s.rtr.owed ++ [(n, src)] } } else s.creditBack src d

/-- A packet of this device has landed (R211). -/
structure Landed (b : Nat) (p : Packet) (s u : State) : Prop where
  flight : u.rtr.inFlight = s.rtr.inFlight.erase p
  count  : (u.bnd b).outPkts = (s.bnd b).outPkts - 1
  others : ∀ m, m ≠ b → u.bnd m = s.bnd m

theorem Landed.of_same {b : Nat} {p : Packet} {s t u : State} (h : Landed b p s t) (hflight : u.rtr.inFlight = t.rtr.inFlight)
    (hcmd : u.cmd = t.cmd) : Landed b p s u := by
  have hbnd : ∀ m, u.bnd m = t.bnd m := fun m => by rw [State.bnd, hcmd]; rfl
  refine ⟨hflight.trans h.flight, ?_, fun m hm => ?_⟩
  · rw [hbnd]
    exact h.count
  · rw [hbnd]
    exact h.others m hm

/-- The state before may differ in what `Landed` does not read. -/
theorem Landed.from_same {b : Nat} {p : Packet} {s t u : State} (h : Landed b p t u) (hflight : t.rtr.inFlight = s.rtr.inFlight)
    (hcmd : t.cmd = s.cmd) : Landed b p s u := by
  have hbnd : ∀ m, t.bnd m = s.bnd m := fun m => by rw [State.bnd, hcmd]; rfl
  refine ⟨h.flight.trans (by rw [hflight]), ?_, fun m hm => ?_⟩
  · rw [h.count, hbnd]
  · rw [h.others m hm, hbnd]

section
variable {s : State} (b : Nat) (p : Packet)

theorem State.landed_Only : OnlyChanges [.cmd, .rtr] s (s.landed b p) :=
  State.oneAccepted_Only _ _ _ (by decide) (OnlyChanges.rtr_upd _ (by decide) (.refl _ s))

theorem State.landed_rtr : (s.landed b p).rtr = { s.rtr with inFlight := s.rtr.inFlight.erase p } :=
  (State.oneAccepted_cmdOnly _ _ _).same .rtr (by decide)

theorem State.landed_Landed (hw : Tab.wf (fun _ => Binding.empty) s.cmd.bindings) : Landed b p s (s.landed b p) := by
  obtain ⟨⟨w, hsame⟩, hother⟩ := State.oneAccepted_kept (s := { s with rtr := { s.rtr with inFlight := s.rtr.inFlight.erase p } }) hw b p.srcCore
  refine ⟨by rw [State.landed_rtr], ?_, hother⟩
  rw [State.landed, hsame]
  rfl

end

section
variable {s : State} {src : BitVec 6} (n : Nat) (p : Packet)

theorem State.acceptPacket_own (h : src = s.sys.myDev) :
    s.acceptPacket src n p = (s.landed (s.senderBnd p) p).creditSettled src n p.dstCore := by
  have hif : (if src = s.sys.myDev then s.landed (s.senderBnd p) p else s) = s.landed (s.senderBnd p) p := if_pos h
  unfold State.acceptPacket
  exact congrArg (fun t : State => t.creditSettled src n p.dstCore) hif

theorem State.acceptPacket_far (h : src ≠ s.sys.myDev) : s.acceptPacket src n p = s.creditSettled src n p.dstCore := by
  have hif : (if src = s.sys.myDev then s.landed (s.senderBnd p) p else s) = s := if_neg h
  unfold State.acceptPacket
  exact congrArg (fun t : State => t.creditSettled src n p.dstCore) hif

theorem State.creditSettled_withheld {n : Nat} (h : 2048 ≤ (s.staged n).length) (d : Nat) :
    s.creditSettled src n d = { s with rtr := { s.rtr with owed := s.rtr.owed ++ [(n, src)] } } := if_pos h

theorem State.creditSettled_own {n : Nat} (h : (s.staged n).length < 2048) (hsrc : src = s.sys.myDev) (d : Nat) :
    s.creditSettled src n d = s.setCredits d (s.creditsUsed d - 1) :=
  (if_neg (Nat.not_le.mpr h)).trans (if_pos hsrc)

theorem State.creditSettled_far {n : Nat} (h : (s.staged n).length < 2048) (hsrc : src ≠ s.sys.myDev) (d : Nat) :
    s.creditSettled src n d = s.toDevice src.toNat 2 0 (.accept src (BitVec.ofNat 10 d)) :=
  (if_neg (Nat.not_le.mpr h)).trans (if_neg hsrc)

end

/-- A packet of this device has been accepted. -/
structure OwnAccepted (src : BitVec 6) (n : Nat) (p : Packet) (s u : State) : Prop where
  only     : OnlyChanges [.cmd, .rtr] s u
  kept     : u.rtr = { s.rtr with inFlight := u.rtr.inFlight, credits := u.rtr.credits, owed := u.rtr.owed }
  landed   : Landed (s.senderBnd p) p s u
  returned : (s.staged n).length < 2048 → u.creditsUsed p.dstCore = s.creditsUsed p.dstCore - 1 ∧ u.rtr.owed = s.rtr.owed
  withheld : 2048 ≤ (s.staged n).length → u.rtr.credits = s.rtr.credits ∧ u.rtr.owed = s.rtr.owed ++ [(n, src)]

theorem State.acceptPacket_OwnAccepted {s : State} (hb : Tab.wf (fun _ => Binding.empty) s.cmd.bindings)
    (hc : Tab.wf (fun _ => 0) s.rtr.credits) {src : BitVec 6} (h : src = s.sys.myDev) (n : Nat) (p : Packet) :
    OwnAccepted src n p s (s.acceptPacket src n p) := by
  have honly := State.landed_Only (s := s) (s.senderBnd p) p
  have hrtr := State.landed_rtr (s := s) (s.senderBnd p) p
  have hland := State.landed_Landed (s.senderBnd p) p hb
  have hstaged : (s.landed (s.senderBnd p) p).staged n = s.staged n := by rw [State.staged, hrtr]; rfl
  have hsys : (s.landed (s.senderBnd p) p).sys = s.sys := honly.same .sys (by decide)
  rw [State.acceptPacket_own n p h]
  by_cases hfull : 2048 ≤ (s.staged n).length
  · rw [State.creditSettled_withheld (by rw [hstaged]; exact hfull)]
    refine ⟨honly.trans (OnlyChanges.rtr_upd _ (by decide) (.refl _ _)), ?_, hland.of_same rfl rfl, fun hlt => absurd hfull (Nat.not_le.mpr hlt),
      fun _ => ?_⟩
    · simp only [hrtr]
    · simp only [hrtr, and_self]
  · have hlt := Nat.not_le.mp hfull
    rw [State.creditSettled_own (by rw [hstaged]; exact hlt) (h.trans (by rw [hsys]))]
    refine ⟨State.setCredits_Only _ _ _ (by decide) honly, ?_, hland.of_same rfl rfl, fun _ => ⟨?_, ?_⟩, fun hle => absurd hle hfull⟩
    · simp only [State.setCredits, hrtr]
    · rw [State.creditsUsed_setCredits_same (by rw [hrtr]; exact hc), State.creditsUsed, hrtr]
      rfl
    · simp only [State.setCredits, hrtr]

/-- A packet of another device has been accepted. -/
structure FarAccepted (src : BitVec 6) (n : Nat) (p : Packet) (s u : State) : Prop where
  only     : OnlyChanges (.gov :: .rtr :: msgParts) s u
  acts     : ActsOnly s u
  kept     : u.rtr = { s.rtr with owed := u.rtr.owed }
  returned : (s.staged n).length < 2048 → Out.accept src (BitVec.ofNat 10 p.dstCore) ∈ u.out ∧ u.rtr.owed = s.rtr.owed
  withheld : 2048 ≤ (s.staged n).length → u.out = s.out ∧ u.rtr.owed = s.rtr.owed ++ [(n, src)]

theorem State.acceptPacket_FarAccepted {s : State} {src : BitVec 6} (h : src ≠ s.sys.myDev) (n : Nat) (p : Packet) :
    FarAccepted src n p s (s.acceptPacket src n p) := by
  rw [State.acceptPacket_far n p h]
  by_cases hfull : 2048 ≤ (s.staged n).length
  · rw [State.creditSettled_withheld hfull]
    exact ⟨OnlyChanges.rtr_upd _ (by decide) (.refl _ s), .refl s, rfl, fun hlt => absurd hfull (Nat.not_le.mpr hlt), fun _ => ⟨rfl, rfl⟩⟩
  · rw [State.creditSettled_far (Nat.not_le.mp hfull) h]
    have hparts := s.toDevice_msgParts src.toNat 2 0 (.accept src (BitVec.ofNat 10 p.dstCore))
    have hrtr : (s.toDevice src.toNat 2 0 (.accept src (BitVec.ofNat 10 p.dstCore))).rtr = s.rtr := hparts.same .rtr (by decide)
    exact ⟨hparts.mono (by decide), (State.toDevice_Sent _ _ _ _ _).acts, by rw [hrtr], fun _ => ⟨State.mem_toDevice_out _ _ _ _ _, by rw [hrtr]⟩,
      fun hle => absurd hle hfull⟩

/-! ## EVENT_PACKET_ACCEPT (R211, R215) -/

/-- A packet of this device is in flight, and no part of it has been stored. -/
def State.mayLand (s : State) (src : BitVec 6) (p : Packet) : Prop := p ∈ s.rtr.inFlight ∧ ∀ x ∈ s.rtr.ingress, ¬ (x.1 = src ∧ x.2.1 = p)

/-- What the device takes of another is a packet of 1 to 2,048 records (R198). -/
def State.mayTake (s : State) (src : BitVec 6) (p : Packet) : Prop :=
  if src = s.sys.myDev then s.mayLand src p else p.records ≠ [] ∧ p.records.length ≤ 2048

section
variable {s : State} {src : BitVec 6} {n : Nat} {p : Packet} (hn : s.localOf p.dstCore = some n)
include hn

theorem State.packetAccept_ignored (hsrc : src = s.sys.myDev) (h : ¬ s.mayLand src p) : s.packetAccept src p = s := by
  have hno : src = s.sys.myDev ∧ ((!s.rtr.inFlight.contains p) = true ∨ s.rtr.ingress.any (fun x => x.1 = src && x.2.1 = p) = true) := by
    refine ⟨hsrc, ?_⟩
    simp only [State.mayLand, not_and_or, not_forall] at h
    simpa using h
  unfold State.packetAccept
  rw [hn]
  exact if_pos hno

/-- A packet that may be taken is stored as far as there is room, and accepted once it is stored whole. -/
theorem State.packetAccept_taken (h : s.mayTake src p) : s.packetAccept src p =
    if (s.storePacket n p).2 < p.records.length then
      { (s.storePacket n p).1 with rtr := { (s.storePacket n p).1.rtr with
        ingress := (s.storePacket n p).1.rtr.ingress ++ [(src, p, (s.storePacket n p).2)] } }
    else (s.storePacket n p).1.acceptPacket src n p := by
  have hown : ¬ (src = s.sys.myDev ∧ ((!s.rtr.inFlight.contains p) = true ∨ s.rtr.ingress.any (fun x => x.1 = src && x.2.1 = p) = true)) := by
    rintro ⟨hsrc, hno⟩
    rw [State.mayTake, if_pos hsrc] at h
    obtain ⟨hin, hingress⟩ := h
    rcases hno with hno | hno
    · simp [hin] at hno
    · obtain ⟨x, hx, hxp⟩ := List.any_eq_true.mp hno
      exact hingress x hx (by simpa using hxp)
  have hfar : ¬ ((!decide (src = s.sys.myDev)) = true ∧ (p.records = [] ∨ 2048 < p.records.length)) := by
    rintro ⟨hsrc, hno⟩
    rw [State.mayTake, if_neg (by simpa using hsrc)] at h
    obtain ⟨hsome, hlen⟩ := h
    rcases hno with hno | hno
    · exact hsome hno
    · omega
  unfold State.packetAccept
  rw [hn]
  exact (if_neg hown).trans (if_neg hfar)

end

end Sys2Proof.Machine
end

section
namespace Sys2Proof.Machine

/-! ## What taking a packet comes to (R211, R213, R215) -/

theorem State.staged_congr {s t : State} (h : t.rtr.staging = s.rtr.staging) (n : Nat) : t.staged n = s.staged n :=
  congrArg (Tab.get (fun _ => []) · n) h
theorem State.creditsUsed_congr {s t : State} (h : t.rtr.credits = s.rtr.credits) (k : Nat) : t.creditsUsed k = s.creditsUsed k :=
  congrArg (Tab.get (fun _ => 0) · k) h
theorem State.ring_congr {s t : State} (h : t.rtr.rings = s.rtr.rings) (n k : Nat) : t.ring n k = s.ring n k :=
  congrArg (Tab.get (fun _ => []) · (n * 64 + k)) h

theorem State.localOf_congr {s t : State} (h : t.sys = s.sys) (k : Nat) : t.localOf k = s.localOf k := by
  simp only [State.localOf, State.sysCore, h]
theorem State.sysOf_congr {s t : State} (h : t.sys = s.sys) (k : Nat) : t.sysOf k = s.sysOf k := by
  simp only [State.sysOf, h]
theorem State.senderBnd_congr {s t : State} (hcore : t.core = s.core) (hsys : t.sys = s.sys) (p : Packet) : t.senderBnd p = s.senderBnd p := by
  simp only [State.senderBnd, State.cor, State.localOf_congr hsys, hcore]
theorem State.packetBucket_congr {s t : State} (hcore : t.core = s.core) (hcmd : t.cmd = s.cmd) (n : Nat) (p : Packet) :
    t.packetBucket n p = s.packetBucket n p := by
  simp only [State.packetBucket, State.cor, State.bnd, hcore, hcmd]

section
variable {s : State} (hs : Canon s) {src : BitVec 6} {n : Nat} {p : Packet} (hn : s.localOf p.dstCore = some n)
include hs hn

theorem State.packetAccept_whole (h : s.mayTake src p) (hroom : s.drainsAt n p → p.records.length ≤ 2048 - (s.staged n).length) :
    Stored n p s (s.storePacket n p).1 ∧ s.packetAccept src p = (s.storePacket n p).1.acceptPacket src n p := by
  obtain ⟨hall, hstored⟩ := State.storePacket_Stored hs hroom
  rw [State.packetAccept_taken hn h, hall]
  exact ⟨hstored, if_neg (Nat.lt_irrefl _)⟩

variable (ha : Alive s) (hle : (s.staged n).length ≤ 2048)
include ha

/-- A packet of this device that there is room for leaves the flight, and its credit returns unless the staging slot is full. -/
theorem ownPacketTaken (hsrc : src = s.sys.myDev) (h : s.mayLand src p)
    (hroom : s.drainsAt n p → p.records.length ≤ 2048 - (s.staged n).length) :
    Spec.Run (.eventPacketAccept src p) s [.cmd, .rtr, .reg, .mem, .irq, .eth, .out] (fun u =>
      Spec.SameBytes s u ∧ BucketTakes n p s u ∧ Landed (s.senderBnd p) p s u ∧
        ((u.staged n).length < 2048 → u.creditsUsed p.dstCore = s.creditsUsed p.dstCore - 1 ∧ u.rtr.owed = s.rtr.owed) ∧
        ((u.staged n).length = 2048 → u.rtr.credits = s.rtr.credits ∧ u.rtr.owed = s.rtr.owed ++ [(n, src)])) := by
  obtain ⟨hstored, htaken⟩ := State.packetAccept_whole (src := src) hs hn (by rw [State.mayTake, if_pos hsrc]; exact h) hroom
  have hcmd := hstored.only.same .cmd (by decide)
  have hcore := hstored.only.same .core (by decide)
  have hsys := hstored.only.same .sys (by decide)
  have hrtr := hstored.kept
  generalize (s.storePacket n p).1 = t at hstored htaken hcmd hcore hsys hrtr
  have hcredits : t.rtr.credits = s.rtr.credits := by rw [hrtr]
  have howed : t.rtr.owed = s.rtr.owed := by rw [hrtr]
  have hown : OwnAccepted src n p t (t.acceptPacket src n p) :=
    State.acceptPacket_OwnAccepted (by rw [hcmd]; exact Canon_bindings hs) (by rw [hcredits]; exact Canon_credits hs) (hsrc.trans (by rw [hsys])) n p
  rw [← htaken] at hown
  have hstaged := State.staged_congr (s := t) (t := s.packetAccept src p) (by rw [hown.kept]) n
  refine Run_of_live (f := fun s => s.packetAccept src p) ha rfl (Frame_of_acts ((hstored.only.mono (by decide)).trans (hown.only.mono (by decide)))
    (hstored.acts.trans (.of_only hown.only (by decide)))) ⟨?_, ?_, ?_, fun hlt => ?_, fun hfull => ?_⟩
  · exact SameBytes.trans hstored.mem (SameBytes.of_mem (hown.only.same .mem (by decide)))
  · exact hstored.takes.of_rtr (by rw [hown.kept]) (by rw [hown.kept])
  · have hland := hown.landed
    rw [State.senderBnd_congr hcore hsys] at hland
    exact hland.from_same (by rw [hrtr]) hcmd
  · obtain ⟨hused, hsame⟩ := hown.returned (hstaged ▸ hlt)
    exact ⟨hused.trans (congrArg (· - 1) (State.creditsUsed_congr hcredits _)), hsame.trans howed⟩
  · obtain ⟨hsame, hwith⟩ := hown.withheld (hstaged ▸ hfull).ge
    exact ⟨hsame.trans hcredits, hwith.trans (by rw [howed])⟩

/-- A packet of another device that there is room for is acknowledged, unless the staging slot is full. -/
theorem farPacketTaken (hsrc : src ≠ s.sys.myDev) (hsome : p.records ≠ []) (hlen : p.records.length ≤ 2048)
    (hroom : s.drainsAt n p → p.records.length ≤ 2048 - (s.staged n).length) :
    Spec.Run (.eventPacketAccept src p) s [.rtr, .reg, .mem, .fab, .out, .ptb, .free, .eth, .irq] (fun u =>
      Spec.SameBytes s u ∧ BucketTakes n p s u ∧ u.rtr.inFlight = s.rtr.inFlight ∧
        ((u.staged n).length < 2048 → Out.accept src (BitVec.ofNat 10 p.dstCore) ∈ u.out ∧ u.rtr.owed = s.rtr.owed) ∧
        ((u.staged n).length = 2048 → NoAccepts s u ∧ u.rtr.owed = s.rtr.owed ++ [(n, src)])) := by
  obtain ⟨hstored, htaken⟩ := State.packetAccept_whole (src := src) hs hn (by rw [State.mayTake, if_neg hsrc]; exact ⟨hsome, hlen⟩) hroom
  have hsys := hstored.only.same .sys (by decide)
  have hrtr := hstored.kept
  generalize (s.storePacket n p).1 = t at hstored htaken hsys hrtr
  have howed : t.rtr.owed = s.rtr.owed := by rw [hrtr]
  have hfar : FarAccepted src n p t (t.acceptPacket src n p) := State.acceptPacket_FarAccepted (by rw [hsys]; exact hsrc) n p
  rw [← htaken] at hfar
  have hstaged := State.staged_congr (s := t) (t := s.packetAccept src p) (by rw [hfar.kept]) n
  refine Run_of_live (f := fun s => s.packetAccept src p) ha rfl
    (Frame_of_acts ((hstored.only.mono (by decide)).trans (hfar.only.mono (by decide))) (hstored.acts.trans hfar.acts))
    ⟨?_, ?_, ?_, fun hlt => ?_, fun hfull => ?_⟩
  · exact SameBytes.trans hstored.mem (SameBytes.of_mem (hfar.only.same .mem (by decide)))
  · exact hstored.takes.of_rtr (by rw [hfar.kept]) (by rw [hfar.kept])
  · rw [hfar.kept, hrtr]
  · obtain ⟨hout, hsame⟩ := hfar.returned (hstaged ▸ hlt)
    exact ⟨hout, hsame.trans howed⟩
  · obtain ⟨hsame, hwith⟩ := hfar.withheld (hstaged ▸ hfull).ge
    exact ⟨hstored.accepts.trans (.of_out hsame), hwith.trans (by rw [howed])⟩

include hle

/-- What the staging slot has no room for waits in the packet's ingress buffer. -/
theorem packetPartlyTaken (h : s.mayTake src p) (hfull : ¬ (s.drainsAt n p → p.records.length ≤ 2048 - (s.staged n).length)) :
    Spec.Run (.eventPacketAccept src p) s [.rtr, .reg] (fun u =>
      u.staged n = s.staged n ++ s.slotTakes n p ∧ u.rtr.ingress = s.rtr.ingress ++ [(src, p, 2048 - (s.staged n).length)] ∧
        u.rbit Reg.fabRtrStatus 1 = true ∧ u.rtr.inFlight = s.rtr.inFlight ∧ u.rtr.credits = s.rtr.credits ∧ u.rtr.rings = s.rtr.rings) := by
  rw [Classical.not_imp, Nat.not_le] at hfull
  obtain ⟨hdrains, hmore⟩ := hfull
  have hfilled : (s.staged n ++ s.slotTakes n p).length = 2048 := by
    rw [List.length_append, State.slotTakes, List.length_map, List.length_take, length_packetEvents]
    omega
  have hstaged := State.slotFilled_staged (n := n) (Canon_staging hs) (s.slotTakes n p)
  have hflag := State.slotFilled_full (n := n) (Canon_vals hs) hfilled
  have honly := State.slotFilled_Only (s := s) (n := n) (s.slotTakes n p)
  have hrtr := State.slotFilled_rtr (s := s) (n := n) (s.slotTakes n p)
  have htaken : s.packetAccept src p = { s.slotFilled n (s.slotTakes n p) with rtr := { (s.slotFilled n (s.slotTakes n p)).rtr with
      ingress := (s.slotFilled n (s.slotTakes n p)).rtr.ingress ++ [(src, p, 2048 - (s.staged n).length)] } } := by
    rw [State.packetAccept_taken hn h, State.storePacket_slot hdrains, Nat.min_eq_left (Nat.le_of_lt hmore)]
    exact if_pos hmore
  generalize s.slotFilled n (s.slotTakes n p) = t at hstaged hflag honly hrtr htaken
  refine Run_of_live (f := fun s => s.packetAccept src p) ha rfl ?_ ?_
  · rw [htaken]
    exact Frame_of_only (OnlyChanges.rtr_upd _ (by decide) honly) (by decide)
  · rw [htaken]
    refine ⟨hstaged, ?_, hflag, ?_, ?_, ?_⟩ <;> simp only [hrtr]

end

/-! ## ACCEPT_ACK_ARRIVAL (R209, R211) -/

/-- The acknowledgement of a core of another device lands the oldest packet of the binding to it. -/
theorem ackArrives {s : State} (hs : Canon s) (ha : Alive s) {b : BitVec 6} {core : BitVec 10} {p : Packet} (hfar : s.localOf core.toNat = none)
    (hp : s.rtr.inFlight.find? (fun q => decide (q.dstCore = core.toNat) &&
      decide ((s.cor ((s.localOf q.srcCore).getD 0)).binding.toNat = b.toNat)) = some p) :
    Spec.To (.acceptAckArrival b core) s [.cmd, .rtr] (fun u =>
      Landed b.toNat p s u ∧ u.creditsUsed core.toNat = s.creditsUsed core.toNat - 1) := by
  have heq : s.acceptAck b.toNat core.toNat = (s.setCredits core.toNat (s.creditsUsed core.toNat - 1)).landed b.toNat p := by
    unfold State.acceptAck
    rw [hfar, hp]
    rfl
  have hused := State.creditsUsed_setCredits_same (Canon_credits hs) core.toNat (s.creditsUsed core.toNat - 1)
  have hland := State.landed_Landed (s := s.setCredits core.toNat (s.creditsUsed core.toNat - 1)) b.toNat p (Canon_bindings (s := s) hs)
  have honly : OnlyChanges [.cmd, .rtr] s (s.setCredits core.toNat (s.creditsUsed core.toNat - 1)) :=
    State.setCredits_Only _ _ _ (by decide) (.refl _ s)
  refine To_of_live (f := fun s => s.acceptAck b.toNat core.toNat) ha rfl ?_ ?_
  · rw [heq]
    exact honly.trans (State.landed_Only _ _)
  · rw [heq]
    refine ⟨hland.from_same rfl rfl, ?_⟩
    rw [State.creditsUsed, State.landed_rtr]
    exact hused

end Sys2Proof.Machine
end

section
namespace Sys2Proof.Machine

/-! ## The end of a drain (R215) -/

/-- The length of the drain is left to timing, and so is how long credits were withheld (log entry 61). -/
def State.drainTimed (s : State) (n : Nat) : State :=
  let t := s.draw.2.rset (Reg.coreInbDrain n) s.draw.1
  if (s.staged n).length = 2048 then t.countFree Reg.fabRtrStageWait else t

/-- The core's bucket no longer drains; its staging slot, the credits it owes and its ingress buffers are empty. -/
def State.drainEnded (s : State) (n : Nat) : State :=
  { s with rtr := { s.rtr with
    draining := s.rtr.draining.filter (· ≠ n), staging := Tab.set (fun _ => []) s.rtr.staging n []
    owed := s.rtr.owed.filter (fun x => x.1 ≠ n), ingress := s.rtr.ingress.filter (fun x => !decide (s.localOf x.2.1.dstCore = some n)) } }

/-- What waited in the staging slot joins the bucket, and the credits that the core owes return. -/
def State.slotJoined (s : State) (n : Nat) : State :=
  ((s.drainEnded n).forAll (s.staged n) fun s p => s.putRing n p.1 [p.2]).forAll (s.rtr.owed.filter (fun x => x.1 = n))
    fun s x => s.creditBack x.2 (s.sysOf n)

/-- The rest of a packet that waited in an ingress buffer is stored. -/
def State.restTaken (s : State) (n : Nat) (x : BitVec 6 × Packet × Nat) : State :=
  (s.putRing n (s.packetBucket n x.2.1) ((packetEvents x.2.1).drop x.2.2)).acceptPacket x.1 n x.2.1

theorem State.drainEnded_ingress (s : State) (n : Nat) :
    (s.drainEnded n).rtr.ingress = s.rtr.ingress.filter (fun x => !decide (s.localOf x.2.1.dstCore = some n)) := rfl

theorem State.drainTimed_Only (s : State) (n : Nat) : OnlyChanges [.reg, .free] s (s.drainTimed n) := by
  have hset : OnlyChanges [.reg, .free] s (s.draw.2.rset (Reg.coreInbDrain n) s.draw.1) :=
    State.rset_Only _ _ (by decide) (State.draw_Only _ (by decide) (.refl _ s))
  unfold State.drainTimed
  split
  · exact State.countFree_Only _ _ (by decide) (by decide) hset
  · exact hset

theorem State.stagingJoin_eq {s : State} {n : Nat} (h : n ∈ s.rtr.draining) : s.stagingJoin n =
    ((s.drainTimed n).slotJoined n).forAll ((s.drainTimed n).rtr.ingress.filter (fun x => (s.drainTimed n).localOf x.2.1.dstCore = some n))
      (fun s x => s.restTaken n x) := by
  have hrtr : (s.drainTimed n).rtr = s.rtr := (s.drainTimed_Only n).same .rtr (by decide)
  have hstaged : (s.drainTimed n).staged n = s.staged n := State.staged_congr (congrArg Router.staging hrtr) n
  unfold State.stagingJoin State.slotJoined
  rw [if_neg (not_not.mpr h), hstaged]
  rfl

/-- Credits for core `k` have returned to the devices of a list. -/
structure CreditsBack (k : Nat) (l : List (BitVec 6)) (s t : State) : Prop where
  only : OnlyChanges (.gov :: .rtr :: msgParts) s t
  acts : ActsOnly s t
  kept : t.rtr = { s.rtr with credits := t.rtr.credits }
  wf   : Tab.wf (fun _ => 0) t.rtr.credits
  used : t.creditsUsed k = s.creditsUsed k - (l.filter (· = s.sys.myDev)).length
  out  : s.out <+: t.out
  told : ∀ d ∈ l, d ≠ s.sys.myDev → Out.accept d (BitVec.ofNat 10 k) ∈ t.out

theorem CreditsBack.refl {s : State} (k : Nat) (h : Tab.wf (fun _ => 0) s.rtr.credits) : CreditsBack k [] s s :=
  ⟨.refl _ s, .refl s, rfl, h, rfl, List.prefix_refl _, fun _ hd => absurd hd List.not_mem_nil⟩

theorem CreditsBack.sys {k : Nat} {l : List (BitVec 6)} {s t : State} (h : CreditsBack k l s t) : t.sys = s.sys := h.only.same .sys (by decide)

theorem CreditsBack.trans {k : Nat} {l m : List (BitVec 6)} {s t u : State} (h : CreditsBack k l s t) (g : CreditsBack k m t u) :
    CreditsBack k (l ++ m) s u where
  only := h.only.trans g.only
  acts := h.acts.trans g.acts
  kept := by rw [g.kept, h.kept]
  wf := g.wf
  used := by rw [g.used, h.used, h.sys, List.filter_append, List.length_append, Nat.sub_sub]
  out := h.out.trans g.out
  told d hd hne := by
    rcases List.mem_append.mp hd with hd | hd
    · exact g.out.subset (h.told d hd hne)
    · exact g.told d hd (by rw [h.sys]; exact hne)

theorem State.creditBack_CreditsBack {s : State} (h : Tab.wf (fun _ => 0) s.rtr.credits) (src : BitVec 6) (k : Nat) :
    CreditsBack k [src] s (s.creditBack src k) := by
  by_cases hsrc : src = s.sys.myDev
  · have heq : s.creditBack src k = s.setCredits k (s.creditsUsed k - 1) := if_pos hsrc
    rw [heq]
    refine ⟨State.setCredits_Only _ _ _ (by decide) (.refl _ s), .refl s, rfl, Tab.wf_set h _ _, ?_, List.prefix_refl _, fun d hd hne => ?_⟩
    · rw [State.creditsUsed_setCredits_same h, List.filter_singleton, decide_eq_true hsrc]
      rfl
    · exact absurd ((List.mem_singleton.mp hd).trans hsrc) hne
  · have heq : s.creditBack src k = s.toDevice src.toNat 2 0 (.accept src (BitVec.ofNat 10 k)) := if_neg hsrc
    have hparts := s.toDevice_msgParts src.toNat 2 0 (.accept src (BitVec.ofNat 10 k))
    have hsent := s.toDevice_Sent src.toNat 2 0 (.accept src (BitVec.ofNat 10 k))
    have hrtr : (s.toDevice src.toNat 2 0 (.accept src (BitVec.ofNat 10 k))).rtr = s.rtr := hparts.same .rtr (by decide)
    rw [heq]
    refine ⟨hparts.mono (by decide), hsent.acts, by rw [hrtr], by rw [hrtr]; exact h, ?_, hsent.out, fun d hd _ => ?_⟩
    · rw [State.creditsUsed, hrtr, List.filter_singleton, decide_eq_false hsrc]
      rfl
    · rw [List.mem_singleton.mp hd]
      exact State.mem_toDevice_out _ _ _ _ _

/-- The credits owed return one by one. -/
theorem State.forAll_creditBack {s : State} (h : Tab.wf (fun _ => 0) s.rtr.credits) (n : Nat) (l : List (Nat × BitVec 6)) :
    CreditsBack (s.sysOf n) (l.map Prod.snd) s (s.forAll l fun s x => s.creditBack x.2 (s.sysOf n)) := by
  induction l generalizing s with
  | nil => exact .refl _ h
  | cons x r ih =>
    have hback := State.creditBack_CreditsBack h x.2 (s.sysOf n)
    have hrest := ih hback.wf
    rw [State.sysOf_congr hback.sys] at hrest
    exact hback.trans hrest

/-- The drain of core `n` has ended. -/
structure DrainJoined (n : Nat) (s u : State) : Prop where
  draining : u.rtr.draining = s.rtr.draining.filter (fun m => m ≠ n)
  staged   : u.staged n = []
  ingress  : u.rtr.ingress = s.rtr.ingress.filter (fun x => !decide (s.localOf x.2.1.dstCore = some n))
  own      : ∀ i, i < 64 → u.ring n i = s.ring n i ++ ((s.staged n).filter (fun x => x.1 = i)).map Prod.snd
  others   : ∀ m i, i < 64 → m ≠ n → u.ring m i = s.ring m i
  owed     : u.rtr.owed = s.rtr.owed.filter (fun x => x.1 ≠ n)
  used     : u.creditsUsed (s.sysOf n) = s.creditsUsed (s.sysOf n) - (s.rtr.owed.filter (fun x => x.1 = n && x.2 = s.sys.myDev)).length
  told     : ∀ x ∈ s.rtr.owed, x.1 = n → x.2 ≠ s.sys.myDev → Out.accept x.2 (BitVec.ofNat 10 (s.sysOf n)) ∈ u.out

/-- The state before may differ in what `DrainJoined` does not read. -/
theorem DrainJoined.from_same {n : Nat} {s t u : State} (h : DrainJoined n t u) (hrtr : t.rtr = s.rtr) (hsys : t.sys = s.sys) :
    DrainJoined n s u := by
  have hring := State.ring_congr (congrArg Router.rings hrtr)
  have hstaged := State.staged_congr (congrArg Router.staging hrtr)
  have hused := State.creditsUsed_congr (congrArg Router.credits hrtr)
  obtain ⟨hdraining, hnone, hingress, hown, hothers, howed, hcredits, htold⟩ := h
  simp only [hrtr, hsys, hring, hstaged, hused, State.localOf_congr hsys, State.sysOf_congr hsys]
    at hdraining hingress hown hothers howed hcredits htold
  exact ⟨hdraining, hnone, hingress, hown, hothers, howed, hcredits, htold⟩

section
variable {s : State} (hrings : Tab.wf (fun _ => []) s.rtr.rings) (hcredits : Tab.wf (fun _ => 0) s.rtr.credits)
  (hstaging : Tab.wf (fun _ => []) s.rtr.staging) {n : Nat} (hl : ∀ x ∈ s.staged n, x.1 < 64)
include hrings hcredits hl

/-- Between the two lists of a joined slot: records put into rings, then credits returned. -/
theorem State.slotJoined_parts : ∃ t, RingsPut n (s.staged n) (s.drainEnded n) t ∧
    CreditsBack (s.sysOf n) ((s.rtr.owed.filter (fun x => x.1 = n)).map Prod.snd) t (s.slotJoined n) := by
  have hput := State.forAll_putRing (s := s.drainEnded n) hrings n hl
  have hsys : ((s.drainEnded n).forAll (s.staged n) fun s p => s.putRing n p.1 [p.2]).sys = s.sys := hput.only.same .sys (by decide)
  have hback := State.forAll_creditBack (s := (s.drainEnded n).forAll (s.staged n) fun s p => s.putRing n p.1 [p.2])
    (by rw [hput.kept]; exact hcredits) n (s.rtr.owed.filter (fun x => x.1 = n))
  rw [State.sysOf_congr hsys] at hback
  exact ⟨_, hput, hback⟩

theorem State.slotJoined_Frame :
    Spec.Frame [.rtr, .reg, .mem, .fab, .out, .ptb, .free, .eth, .irq] s (s.slotJoined n) ∧ Spec.SameBytes s (s.slotJoined n) := by
  obtain ⟨t, hput, hback⟩ := State.slotJoined_parts hrings hcredits hl
  have hended : OnlyChanges [.rtr] s (s.drainEnded n) := OnlyChanges.rtr_upd _ (by decide) (.refl _ s)
  refine ⟨Frame_of_acts (((hended.mono (by decide)).trans (hput.only.mono (by decide))).trans (hback.only.mono (by decide)))
    (((ActsOnly.of_only hended (by decide)).trans hput.acts).trans hback.acts), ?_⟩
  exact SameBytes.trans (SameBytes.trans (SameBytes.of_mem (hended.same .mem (by decide))) hput.mem)
    (SameBytes.of_mem (hback.only.same .mem (by decide)))

include hstaging

theorem State.slotJoined_joined : DrainJoined n s (s.slotJoined n) := by
  obtain ⟨t, hput, hback⟩ := State.slotJoined_parts hrings hcredits hl
  have hsys : t.sys = s.sys := hput.only.same .sys (by decide)
  have hring : ∀ m i, (s.slotJoined n).ring m i = t.ring m i := fun m i => by rw [State.ring, hback.kept]; rfl
  have hkept : (s.slotJoined n).rtr = { (s.drainEnded n).rtr with
      rings := t.rtr.rings, pages := t.rtr.pages, credits := (s.slotJoined n).rtr.credits } := by
    rw [hback.kept, hput.kept]
  refine ⟨by rw [hkept]; rfl, ?_, by rw [hkept]; rfl, fun i hi => ?_, fun m i hi hm => ?_, by rw [hkept]; rfl, ?_, fun x hx hn hne => ?_⟩
  · rw [State.staged, hkept]
    exact Tab.get_set_same hstaging n []
  · rw [hring]
    exact hput.own i hi
  · rw [hring]
    exact hput.others m i hi hm
  · have hsame : t.creditsUsed (s.sysOf n) = s.creditsUsed (s.sysOf n) := by rw [State.creditsUsed, hput.kept]; rfl
    rw [hback.used, hsame, hsys, List.filter_map, List.length_map, List.filter_filter]
    simp only [Function.comp_def, Bool.and_comm]
  · exact hback.told x.2 (List.mem_map_of_mem (List.mem_filter.mpr ⟨hx, by simpa using hn⟩)) (by rw [hsys]; exact hne)

end

/-- The rest of a packet of this device has been stored, all but its first `m` records, and the packet is accepted. -/
structure RestTaken (n : Nat) (p : Packet) (m : Nat) (s u : State) : Prop where
  only    : OnlyChanges [.reg, .mem, .cmd, .rtr, .eth, .gov, .irq, .out] s u
  acts    : ActsOnly s u
  mem     : Spec.SameBytes s u
  ingress : u.rtr.ingress = s.rtr.ingress
  ring    : u.ring n (s.packetBucket n p) = s.ring n (s.packetBucket n p) ++ (packetEvents p).drop m
  landed  : Landed (s.senderBnd p) p s u
  used    : u.creditsUsed p.dstCore = s.creditsUsed p.dstCore - 1

theorem State.restTaken_own {s : State} (hrings : Tab.wf (fun _ => []) s.rtr.rings) (hcredits : Tab.wf (fun _ => 0) s.rtr.credits)
    (hbindings : Tab.wf (fun _ => Binding.empty) s.cmd.bindings) {n : Nat} (hroom : (s.staged n).length < 2048) (p : Packet) (m : Nat) :
    RestTaken n p m s (s.restTaken n (s.sys.myDev, p, m)) := by
  have hput := State.putRing_RingsPut hrings n (s.packetBucket_lt n p) ((packetEvents p).drop m)
  have hto : s.restTaken n (s.sys.myDev, p, m) =
      (s.putRing n (s.packetBucket n p) ((packetEvents p).drop m)).acceptPacket s.sys.myDev n p := rfl
  generalize s.putRing n (s.packetBucket n p) ((packetEvents p).drop m) = t at hput hto
  have hcmd : t.cmd = s.cmd := hput.only.same .cmd (by decide)
  have hcore : t.core = s.core := hput.only.same .core (by decide)
  have hsys : t.sys = s.sys := hput.only.same .sys (by decide)
  have hsame : t.rtr.credits = s.rtr.credits := by rw [hput.kept]
  have hown := State.acceptPacket_OwnAccepted (s := t) (by rw [hcmd]; exact hbindings) (by rw [hsame]; exact hcredits)
    (src := s.sys.myDev) (by rw [hsys]) n p
  rw [← hto] at hown
  obtain ⟨hused, -⟩ := hown.returned (by rw [State.staged_congr (s := s) (by rw [hput.kept])]; exact hroom)
  refine ⟨(hput.only.mono (by decide)).trans (hown.only.mono (by decide)), hput.acts.trans (.of_only hown.only (by decide)),
    SameBytes.trans hput.mem (SameBytes.of_mem (hown.only.same .mem (by decide))), by rw [hown.kept, hput.kept], ?_, ?_, ?_⟩
  · rw [State.ring_congr (s := t) (by rw [hown.kept]), hput.own _ (s.packetBucket_lt n p), records_of_bucket_same]
  · have hland := hown.landed
    rw [State.senderBnd_congr hcore hsys] at hland
    exact hland.from_same (by rw [hput.kept]) hcmd
  · rw [hused, State.creditsUsed_congr hsame]

/-! ## STAGING_JOIN (R215) -/

section
variable {s : State} (hs : Canon s) (ha : Alive s) {core : BitVec 10} (hd : core.toNat ∈ s.rtr.draining)
include hs ha hd

/-- Without a packet in the core's ingress buffers. -/
theorem slotJoins (hl : ∀ x ∈ s.staged core.toNat, x.1 < 64) (hno : ∀ x ∈ s.rtr.ingress, s.localOf x.2.1.dstCore ≠ some core.toNat) :
    Spec.Run (.stagingJoin core) s [.rtr, .reg, .mem, .fab, .out, .ptb, .free, .eth, .irq] (fun u =>
      Spec.SameBytes s u ∧ DrainJoined core.toNat s u ∧ u.rtr.ingress = s.rtr.ingress) := by
  have heq := State.stagingJoin_eq hd
  have honly := s.drainTimed_Only core.toNat
  generalize s.drainTimed core.toNat = t at heq honly
  have hrtr : t.rtr = s.rtr := honly.same .rtr (by decide)
  have hsys : t.sys = s.sys := honly.same .sys (by decide)
  have hwait : t.rtr.ingress.filter (fun x => t.localOf x.2.1.dstCore = some core.toNat) = [] := by
    rw [hrtr, List.filter_eq_nil_iff]
    intro x hx
    rw [State.localOf_congr hsys]
    simpa using hno x hx
  rw [hwait] at heq
  have hrings : Tab.wf (fun _ => []) t.rtr.rings := by rw [hrtr]; exact Canon_rings hs
  have hcredits : Tab.wf (fun _ => 0) t.rtr.credits := by rw [hrtr]; exact Canon_credits hs
  have hstaging : Tab.wf (fun _ => []) t.rtr.staging := by rw [hrtr]; exact Canon_staging hs
  have hl' : ∀ x ∈ t.staged core.toNat, x.1 < 64 := by
    rw [State.staged, hrtr]
    exact hl
  obtain ⟨hframe, hbytes⟩ := State.slotJoined_Frame hrings hcredits hl'
  have hjoined := (State.slotJoined_joined hrings hcredits hstaging hl').from_same hrtr hsys
  have hto : s.stagingJoin core.toNat = t.slotJoined core.toNat := heq
  rw [← hto] at hframe hbytes hjoined
  refine Run_of_live (f := fun s => s.stagingJoin core.toNat) ha rfl
    (Frame_trans (Frame_of_only (honly.mono (by decide)) (by decide)) hframe (by decide))
    ⟨SameBytes.trans (SameBytes.of_mem (honly.same .mem (by decide))) hbytes, hjoined, ?_⟩
  rw [hjoined.ingress, List.filter_eq_self]
  intro x hx
  simpa using hno x hx

end

/-- The drain has ended, and nothing waits in the staging slot or in ingress buffers. -/
structure DrainCleared (n : Nat) (s e : State) : Prop where
  only    : OnlyChanges [.reg, .free, .rtr] s e
  rings   : e.rtr.rings = s.rtr.rings
  credits : e.rtr.credits = s.rtr.credits
  flight  : e.rtr.inFlight = s.rtr.inFlight
  staged  : e.staged n = []
  ingress : e.rtr.ingress = []

section
variable {s : State} (hs : Canon s) {n : Nat} (hd : n ∈ s.rtr.draining) {p : Packet} {m : Nat} (hnone : s.staged n = [])
  (howed : s.rtr.owed = []) (hingress : s.rtr.ingress = [(s.sys.myDev, p, m)]) (hp : s.localOf p.dstCore = some n)
include hs hd hnone howed hingress hp

/-- Where one packet of this device waits in the core's ingress buffer and nothing in its staging slot, only that packet is stored. -/
theorem State.stagingJoin_rest : ∃ e, DrainCleared n s e ∧ s.stagingJoin n = e.restTaken n (s.sys.myDev, p, m) := by
  have heq := State.stagingJoin_eq hd
  have honly := s.drainTimed_Only n
  generalize s.drainTimed n = t at heq honly
  have hrtr : t.rtr = s.rtr := honly.same .rtr (by decide)
  have hmine : decide (t.localOf p.dstCore = some n) = true :=
    decide_eq_true ((State.localOf_congr (honly.same .sys (by decide)) _).trans hp)
  have hwait : t.rtr.ingress.filter (fun x => t.localOf x.2.1.dstCore = some n) = [(s.sys.myDev, p, m)] := by
    rw [hrtr, hingress, List.filter_singleton, hmine, cond_true]
  have hslot : t.slotJoined n = t.drainEnded n := by
    rw [State.slotJoined, State.staged_congr (congrArg Router.staging hrtr), hnone, hrtr, howed, List.filter_nil]
    rfl
  refine ⟨t.drainEnded n, ⟨OnlyChanges.rtr_upd _ (by decide) (honly.mono (by decide)), ?_, ?_, ?_, ?_, ?_⟩, ?_⟩
  · exact (congrArg Router.rings hrtr : t.rtr.rings = s.rtr.rings)
  · exact (congrArg Router.credits hrtr : t.rtr.credits = s.rtr.credits)
  · exact (congrArg Router.inFlight hrtr : t.rtr.inFlight = s.rtr.inFlight)
  · exact Tab.get_set_same (by rw [hrtr]; exact Canon_staging hs) n []
  · rw [State.drainEnded_ingress, hrtr, hingress, List.filter_singleton, hmine]
    rfl
  · rw [heq, hslot, hwait, State.forAll, List.foldl_cons, List.foldl_nil]

end

theorem restJoins {s : State} (hs : Canon s) (ha : Alive s) {core : BitVec 10} (hd : core.toNat ∈ s.rtr.draining) {p : Packet} {m : Nat}
    (hnone : s.staged core.toNat = []) (howed : s.rtr.owed = []) (hingress : s.rtr.ingress = [(s.sys.myDev, p, m)])
    (hp : s.localOf p.dstCore = some core.toNat) :
    Spec.Run (.stagingJoin core) s [.cmd, .rtr, .reg, .mem, .free, .irq, .eth, .out] (fun u =>
      Spec.SameBytes s u ∧ u.rtr.ingress = [] ∧
        u.ring core.toNat (s.packetBucket core.toNat p) = s.ring core.toNat (s.packetBucket core.toNat p) ++ (packetEvents p).drop m ∧
        Landed (s.senderBnd p) p s u ∧ u.creditsUsed p.dstCore = s.creditsUsed p.dstCore - 1) := by
  obtain ⟨e, hcleared, hto⟩ := State.stagingJoin_rest hs hd hnone howed hingress hp
  have hcmd : e.cmd = s.cmd := hcleared.only.same .cmd (by decide)
  have hcore : e.core = s.core := hcleared.only.same .core (by decide)
  have hsys : e.sys = s.sys := hcleared.only.same .sys (by decide)
  have hrest := State.restTaken_own (s := e) (by rw [hcleared.rings]; exact Canon_rings hs) (by rw [hcleared.credits]; exact Canon_credits hs)
    (by rw [hcmd]; exact Canon_bindings hs) (n := core.toNat) (by rw [hcleared.staged]; decide) p m
  rw [hsys, ← hto] at hrest
  obtain ⟨honly, hacts, hbytes, hkept, hring, hland, hused⟩ := hrest
  rw [State.packetBucket_congr hcore hcmd] at hring
  rw [State.senderBnd_congr hcore hsys] at hland
  refine Run_of_live (f := fun s => s.stagingJoin core.toNat) ha rfl
    (Frame_of_acts ((hcleared.only.mono (by decide)).trans (honly.mono (by decide))) ((ActsOnly.of_only hcleared.only (by decide)).trans hacts))
    ⟨SameBytes.trans (SameBytes.of_mem (hcleared.only.same .mem (by decide))) hbytes, hkept.trans hcleared.ingress, ?_,
      hland.from_same hcleared.flight hcmd, ?_⟩
  · rw [hring, State.ring_congr hcleared.rings]
  · rw [hused, State.creditsUsed_congr hcleared.credits]

/-! ## The obligation -/

/-- Settles O34: EVENT_PACKET_ACCEPT by who sent the packet and whether there is room for it, STAGING_JOIN by the lists that it empties. -/
theorem packetsAreAccepted : Obligations.PacketsAreAccepted := by
  intro s src b p n core sb cur k evs free drains room stored mine less j hs ha
  have hevs : evs p = packetEvents p := (packetEvents_eq p).symm
  have hstored : ∀ u, BucketTakes n p s u → stored u := by
    rintro u ⟨hring, hslot, hothers⟩
    rw [← hevs] at hring hslot
    exact ⟨hring, hslot, hothers⟩
  have hless : ∀ {b u}, Landed b p s u → less b u := fun ⟨hflight, hcount, hothers⟩ => ⟨hflight, hcount, hothers⟩
  refine ⟨fun hn _ hle => ⟨fun hsrc hmine hroom => ?_, fun hsrc hno => ?_, fun htake hfull => ?_, fun hsrc hsome hlen hroom => ?_⟩,
    fun hfar hp => ?_, fun hd hl hno => ?_, fun m hj _ hd hnone howed hingress hp => ?_⟩
  · obtain ⟨u, hu, hframe, hbytes, htakes, hland, hcredit⟩ := ownPacketTaken hs hn ha hsrc hmine hroom
    exact ⟨u, hu, hframe, hbytes, hstored u htakes, hless hland, hcredit⟩
  · exact (live_alive ha fun s => s.packetAccept src p).trans (by rw [State.packetAccept_ignored hn hsrc hno])
  · obtain ⟨u, hu, hframe, hstaged, hrest⟩ := packetPartlyTaken hs hn ha hle htake hfull
    exact ⟨u, hu, hframe, by rw [hevs]; exact hstaged, hrest⟩
  · obtain ⟨u, hu, hframe, hbytes, htakes, hcredit⟩ := farPacketTaken hs hn ha hsrc hsome hlen hroom
    exact ⟨u, hu, hframe, hbytes, hstored u htakes, hcredit⟩
  · obtain ⟨u, hu, honly, hland, hused⟩ := ackArrives hs ha hfar hp
    exact ⟨u, hu, honly, hless hland, hused⟩
  · obtain ⟨u, hu, hframe, hbytes, ⟨hdraining, hstaged, -, hown, hothers, howed, hused, htold⟩, hingress⟩ := slotJoins hs ha hd hl hno
    exact ⟨u, hu, hframe, hbytes, hdraining, hstaged, hingress, hown, hothers, howed, hused, htold⟩
  · subst hj
    obtain ⟨u, hu, hframe, hbytes, hempty, hring, hland, hused⟩ := restJoins hs ha hd hnone howed hingress hp
    exact ⟨u, hu, hframe, hbytes, hempty, by rw [hevs]; exact hring, hless hland, hused⟩

end Sys2Proof.Machine
end

section
namespace Sys2Proof.Machine

/-! ## Tables of the converters in a canonical state -/

section
variable {s : State} (h : Canon s)
include h

theorem Canon_insts : Tab.wf (fun _ => Inst.empty) s.cnv.insts := by
  obtain ⟨-, -, -, -, -, -, -, -, -, -, hinsts, -⟩ := h
  exact hinsts
theorem Canon_acts : Tab.wf (fun _ => ActFrame.empty) s.cnv.acts := by
  obtain ⟨-, -, -, -, -, -, -, -, -, -, -, hacts, -⟩ := h
  exact hacts
theorem Canon_tallies : Tab.wf (fun _ => 0) s.cnv.tallies := by
  obtain ⟨-, -, -, -, -, -, -, -, -, -, -, -, -, -, -, -, -, -, -, -, -, -, -, -, -, -, -, -, -, htallies, -⟩ := h
  exact htallies

end

/-! ## Instances (R232) -/

theorem State.inst_congr {s t : State} (h : t.cnv.insts = s.cnv.insts) (a b : Nat) : t.inst a b = s.inst a b :=
  congrArg (Tab.get (fun _ => Inst.empty) · (a * 2 ^ 18 + b)) h
theorem State.chan_congr {s t : State} (h : t.cnv = s.cnv) (a : Nat) : t.chan a = s.chan a := by rw [State.chan, h]; rfl

/-- Another instance stands at another key. -/
theorem instKey_ne {a b h k : Nat} (hb : b < 2 ^ 18) (hk : k < 2 ^ 18) (hne : (a, b) ≠ (h, k)) : a * 2 ^ 18 + b ≠ h * 2 ^ 18 + k := by
  intro he
  exact hne (Prod.ext (by simp only; omega) (by simp only; omega))

/-! ## Counts of the converter engine (R253-R255) -/

/-- The registers that the engine's count of operations may change. -/
def opsRegs : List Nat := [Reg.cnvOpsLo, Reg.cnvStatus] ++ sentRegs

theorem State.chanOps_Acts (s : State) (n : Nat) : ActsOnly s (s.chanOps n) := by
  unfold State.chanOps
  exact .ite (fun _ => (ActsOnly.unitActs s 2 6 n).trans (.trans (.of_gov rfl) (State.raise_Sent _ _).acts)) fun _ => .unitActs s 2 6 n
theorem State.chanOps_Regs (s : State) (n : Nat) : RegsOnly opsRegs s (s.chanOps n) := by
  have hcount : RegsOnly opsRegs s ((s.unitActs 2 6 n).longWrap Reg.cnvOpsLo n).1 :=
    .trans (.of_reg (t := s.unitActs 2 6 n) rfl) (.longWrap _ n (by simp [opsRegs]))
  unfold State.chanOps
  exact .ite (fun _ => hcount.trans ((RegsOnly.rsetBit _ 5 true (by simp [opsRegs])).trans
    ((State.raise_Sent _ _).regs.mono fun _ ha => List.mem_append_right _ ha))) fun _ => hcount
theorem State.chanOps_parts (s : State) (n : Nat) : OnlyChanges [.gov, .reg, .eth, .irq, .out] s (s.chanOps n) :=
  State.chanOps_Only s n (by decide) (by decide) (by decide) (by decide) (by decide) (.refl _ s)
theorem State.chanOps_cnv (s : State) (n : Nat) : (s.chanOps n).cnv = s.cnv := (s.chanOps_parts n).same .cnv (by decide)

/-! ## What the engine notes of a row (R239, R255) -/

theorem State.chanNote_regOnly (s : State) (ctr : Nat) (bit : Option Nat) (h k : Nat) : OnlyChanges [.reg] s (s.chanNote ctr bit h k) :=
  State.chanNote_Only s ctr bit h k (by decide) (.refl _ s)

section
variable {s : State} (hs : Tab.wf regReset s.reg.vals) {ctr : Nat} (hctr : ctr < Reg.cnvLast)
include hs

theorem State.chanNote_vals (ctr : Nat) (bit : Option Nat) (h k : Nat) : Tab.wf regReset (s.chanNote ctr bit h k).reg.vals := by
  have hlast : Tab.wf regReset ((s.count ctr 1).rset Reg.cnvLast (BitVec.ofNat 32 (h * 2 ^ 18 + k % 2 ^ 18))).reg.vals :=
    Tab.wf_set (Tab.wf_set hs _ _) _ _
  cases bit with
  | none => exact hlast
  | some i => exact Tab.wf_set hlast _ _

include hctr

/-- A note with a bit of CNV_CH_STAT: the count that saturates, the bit, and the instance in CNV_LAST. -/
theorem State.chanNote_reads {i : Nat} (hi : i < 32) (h : Nat) {k : Nat} (hk : k < 2 ^ 18) :
    (s.chanNote ctr (some i) h k).rfield ctr 0 32 = min (s.rfield ctr 0 32 + 1) (2 ^ 32 - 1) ∧
      (s.chanNote ctr (some i) h k).rbit (Reg.cnvChStat h) i = true ∧
      (s.chanNote ctr (some i) h k).rget Reg.cnvLast = BitVec.ofNat 32 (h * 2 ^ 18 + k) := by
  have hcount : Tab.wf regReset (s.count ctr 1).reg.vals := Tab.wf_set hs _ _
  have hlast : Tab.wf regReset ((s.count ctr 1).rset Reg.cnvLast (BitVec.ofNat 32 (h * 2 ^ 18 + k % 2 ^ 18))).reg.vals := Tab.wf_set hcount _ _
  have hreads : (s.chanNote ctr (some i) h k).rget ctr = (s.count ctr 1).rget ctr :=
    (State.rget_rset_other hlast _ (by simp only [Reg.cnvChStat, Reg.cnvLast] at *; omega)).trans (State.rget_rset_other hcount _ (by omega))
  refine ⟨?_, State.rbit_rsetBit_same hlast _ true hi, ?_⟩
  · rw [State.rfield, hreads]
    exact State.rfield_satAdd_same hs ctr 1 (by decide)
  · refine (State.rget_rset_other hlast _ (by simp only [Reg.cnvChStat, Reg.cnvLast]; omega)).trans ?_
    rw [State.rget_rset_same hcount, Nat.mod_eq_of_lt hk]

end

/-! ## Records of an encode go out (R208, R244) -/

/-- The registers that the emission of records at core `n` may change. -/
def emitRegs (n : Nat) : List Nat := [Reg.coreRteStall n, Reg.coreRteViol n] ++ opsRegs

theorem not_mem_emitRegs {a : Nat} (n : Nat) (h : Reg.cnvOpsLo < a) (hb : a < Reg.cnvLast) : a ∉ emitRegs n := by
  simp only [emitRegs, opsRegs, List.mem_append, List.mem_cons, List.not_mem_nil, or_false, mem_sentRegs, Reg.coreRteStall, Reg.coreRteViol,
    Reg.cnvOpsLo, Reg.cnvStatus, Reg.cnvLast] at *
  omega

/-- From `s` to `t` records of instance (h, k) went out at core `n`: of the instance only the records left may differ, of the registers
`emitRegs`, of the governor its counts of activity. -/
structure Emitted (n h k : Nat) (s t : State) : Prop where
  inst : Tab.wf (fun _ => Inst.empty) s.cnv.insts →
    Tab.wf (fun _ => Inst.empty) t.cnv.insts ∧ ∃ l, t.inst h k = { s.inst h k with left := l }
  regs : RegsOnly (emitRegs n) s t
  acts : ActsOnly s t

namespace Emitted
variable {n h k : Nat} {s t u : State}

theorem of_insts (hi : t.cnv.insts = s.cnv.insts) (hr : RegsOnly (emitRegs n) s t) (ha : ActsOnly s t) : Emitted n h k s t :=
  ⟨fun hw => ⟨hi ▸ hw, (s.inst h k).left, State.inst_congr hi h k⟩, hr, ha⟩
theorem refl (n h k : Nat) (s : State) : Emitted n h k s s := of_insts rfl (.refl _ s) (.refl s)
theorem trans (g : Emitted n h k s t) (e : Emitted n h k t u) : Emitted n h k s u :=
  ⟨fun hw => by
    obtain ⟨hwt, l, ht⟩ := g.inst hw
    obtain ⟨hwu, m, hu⟩ := e.inst hwt
    exact ⟨hwu, m, by rw [hu, ht]⟩, g.regs.trans e.regs, g.acts.trans e.acts⟩
theorem ite {c : Prop} [Decidable c] (ht : Emitted n h k s t) (hu : Emitted n h k s u) : Emitted n h k s (if c then t else u) := by
  split
  · exact ht
  · exact hu

theorem setLeft (n h k : Nat) (s : State) (l : List (Nat × Nat × Nat)) : Emitted n h k s (s.setInst h k { s.inst h k with left := l }) :=
  ⟨fun hw => ⟨Tab.wf_set hw _ _, l, State.inst_setInst_same hw h k _⟩, .of_reg rfl, .refl _⟩
theorem countFree (n h k : Nat) (s : State) {a : Nat} (ha : a ∈ emitRegs n) : Emitted n h k s (s.countFree a) :=
  of_insts rfl (.countFree s ha) (.of_gov rfl)
theorem count (n h k : Nat) (s : State) {a : Nat} (m : Nat) (ha : a ∈ emitRegs n) : Emitted n h k s (s.count a m) :=
  of_insts rfl (.count s m ha) (.of_gov rfl)
theorem addReplica (n h k : Nat) (s : State) (m dst mat delay cidx row cnt : Nat) (fixed : Bool) :
    Emitted n h k s (s.addReplica m dst mat delay cidx row cnt fixed) := by
  have honly : OnlyChanges [.cmd, .core, .rtr] s (s.addReplica m dst mat delay cidx row cnt fixed) :=
    State.addReplica_Only s m dst mat delay cidx row cnt fixed (by decide) (by decide) (by decide) (.refl _ s)
  exact of_insts (congrArg Converters.insts (honly.same .cnv (by decide))) (.of_reg (honly.same .reg (by decide)))
    (.of_only honly (by decide))
theorem chanOps (n h k : Nat) (s : State) (m : Nat) : Emitted n h k s (s.chanOps m) :=
  of_insts (congrArg Converters.insts (s.chanOps_cnv m)) ((s.chanOps_Regs m).mono fun _ ha => List.mem_append_right _ ha) (s.chanOps_Acts m)
theorem of_sent (hi : t.cnv.insts = s.cnv.insts) (hsent : Sent s t) : Emitted n h k s t :=
  of_insts hi (hsent.regs.mono fun _ ha => List.mem_append_right _ (List.mem_append_right _ ha)) hsent.acts

end Emitted

/-- The state in which channel `c` is frozen, before the device says so. -/
def State.chanStopped (s : State) (c : Nat) : State := s.setChan c { s.chan c with frozen := true }

theorem State.freezeChan_eq (s : State) (c : Nat) : s.freezeChan c = if (s.chan c).frozen then s else
    ((s.chanStopped c).raise 109).freezeNotice 3 (s.chan c).binding.toNat c St.notBound 0
      ((s.chanStopped c).bnd (s.chan c).binding.toNat).step.toNat := rfl

/-- The freeze of a channel changes no instance (R234). -/
theorem State.freezeChan_insts (s : State) (c : Nat) : (s.freezeChan c).cnv.insts = s.cnv.insts := by
  rw [State.freezeChan_eq]
  split
  · rfl
  · have hraise : ((s.chanStopped c).raise 109).cnv = (s.chanStopped c).cnv :=
      (State.raise_Only (L := [.reg, .eth, .irq, .out]) _ 109 (by decide) (by decide) (by decide) (by decide) (.refl _ _)).same .cnv (by decide)
    have hnotice := (State.freezeNotice_Only (L := [.eth, .out]) ((s.chanStopped c).raise 109) 3 (s.chan c).binding.toNat c St.notBound 0
      ((s.chanStopped c).bnd (s.chan c).binding.toNat).step.toNat (by decide) (by decide) (.refl _ _)).same .cnv (by decide)
    exact (congrArg Converters.insts (hnotice.trans hraise)).trans rfl

/-- It raises an interrupt and sends a notice (R298). -/
theorem State.freezeChan_Sent (s : State) (c : Nat) : Sent s (s.freezeChan c) := by
  have hstop : Sent s (s.chanStopped c) := .of_same rfl rfl (List.prefix_refl _) rfl
  rw [State.freezeChan_eq]
  exact .ite (fun _ => .refl s) fun _ => hstop.trans ((State.raise_Sent _ 109).trans (State.notice_Sent _ _ _))

theorem State.emitFrom_Emitted (h k n : Nat) (l : List (Nat × Nat × Nat)) (s : State) : Emitted n h k s (State.emitFrom h k n l s) := by
  induction l generalizing s with
  | nil => exact .setLeft n h k s []
  | cons r t ih =>
    unfold State.emitFrom
    exact .ite ((Emitted.setLeft n h k s (r :: t)).trans (.countFree n h k _ (by simp [emitRegs])))
      ((Emitted.addReplica n h k s _ _ _ _ _ _ _ _).trans (ih _))

/-- The core at whose assembler the records of channel `h` go out. -/
def State.homeOf (s : State) (h : Nat) : Nat := (s.localOf (s.chan h).hcore).getD 0

theorem State.emitLeft_Emitted (s : State) (h k : Nat) (l : List (Nat × Nat × Nat)) : Emitted (s.homeOf h) h k s (s.emitLeft h k l) := by
  unfold State.emitLeft
  refine .ite ?_ (State.emitFrom_Emitted h k _ l s)
  exact (Emitted.setLeft _ h k s []).trans ((Emitted.count _ h k _ l.length (by simp [emitRegs, State.homeOf])).trans
    (.of_sent (State.freezeChan_insts _ h) (State.freezeChan_Sent _ h)))

theorem State.emitRecs_Emitted (s : State) (h k : Nat) (recs : List (Nat × Nat)) : Emitted (s.homeOf h) h k s (s.emitRecs h k recs) := by
  unfold State.emitRecs
  have hleft := fun l => State.emitLeft_Emitted s h k l
  exact .ite (.refl _ h k s) (.ite (hleft _) ((hleft _).trans (.chanOps _ h k _ _)))

/-! ## The encode of a step (R240-R244) -/

/-- The instance (h, k) has encoded step `c` from the levels `u`: no row of the step or of one before it is left, and no wait. -/
structure DidEncode (h k : Nat) (c : BitVec 48) (u : List Nat) (t : State) : Prop where
  encoded : (t.inst h k).encoded = some c
  waiting : (t.inst h k).waiting = false
  levels  : (t.inst h k).lastU = u
  later   : ∀ e ∈ (t.inst h k).slots, c.toNat < e.2.1.toNat

section
variable (s : State) (h : Nat) (p : Nat × Ctx) (u : List Nat) (scales : Option (List Nat × List Nat))

/-- What the encoder makes of the levels: its state, and the records for every target. -/
def State.encodeOf : List Int × List (Nat × Nat) := (s.chan h).encode (s.bnd (s.chan h).binding.toNat).seed p.2.cstep p.2.cidx.toNat
  (s.inst h p.2.cidx.toNat).state u

/-- The instance once it has encoded. -/
def State.instEncoded : Inst := { s.inst h p.2.cidx.toNat with
  state := (s.encodeOf h p u).1, lastU := u, scales := scales, encoded := some p.2.cstep, waiting := false
  slots := (s.inst h p.2.cidx.toNat).slots.filter (fun e => p.2.cstep.toNat < e.2.1.toNat) }

theorem State.encodeWith_eq : s.encodeWith h p u scales =
    (s.setInst h p.2.cidx.toNat (s.instEncoded h p u scales)).emitRecs h p.2.cidx.toNat (s.encodeOf h p u).2 := rfl

/-- From the state in which the instance has encoded its records go out. -/
theorem State.encodeWith_Emitted : Emitted (s.homeOf h) h p.2.cidx.toNat (s.setInst h p.2.cidx.toNat (s.instEncoded h p u scales))
    (s.encodeWith h p u scales) := by
  rw [State.encodeWith_eq]
  generalize s.instEncoded h p u scales = y
  exact State.emitRecs_Emitted (s.setInst h p.2.cidx.toNat y) h _ _

theorem State.encodeWith_Regs : RegsOnly (emitRegs (s.homeOf h)) s (s.encodeWith h p u scales) :=
  .trans (t := s.setInst h p.2.cidx.toNat (s.instEncoded h p u scales)) (.of_reg rfl) (s.encodeWith_Emitted h p u scales).regs
theorem State.encodeWith_Acts : ActsOnly s (s.encodeWith h p u scales) :=
  .trans (t := s.setInst h p.2.cidx.toNat (s.instEncoded h p u scales)) (.of_gov rfl) (s.encodeWith_Emitted h p u scales).acts

variable {s} in
theorem State.encodeWith_DidEncode (hw : Tab.wf (fun _ => Inst.empty) s.cnv.insts) :
    DidEncode h p.2.cidx.toNat p.2.cstep u (s.encodeWith h p u scales) := by
  obtain ⟨-, l, hl⟩ := (s.encodeWith_Emitted h p u scales).inst (Tab.wf_set hw _ _)
  rw [State.inst_setInst_same hw] at hl
  refine ⟨by rw [hl]; rfl, by rw [hl]; rfl, by rw [hl]; rfl, fun e hmem => ?_⟩
  rw [hl] at hmem
  exact of_decide_eq_true (List.mem_filter.mp hmem).2

end

end Sys2Proof.Machine
end

section
namespace Sys2Proof.Machine

/-! ## ENCODE_INSTANCE and ENCODE_WAIT_TIMEOUT (R240-R244) -/

/-- The row that instance (h, k) holds for the running step of its context `p`. -/
def State.stepRow (s : State) (h k : Nat) (p : Nat × Ctx) : Option (Nat × BitVec 48 × BitVec 8 × List Byte) :=
  (s.inst h k).slots.find? (fun e => e.2.1 = p.2.cstep)

/-- The state in which the row `e` has become levels and the engine has counted them. -/
def State.rowLevelled (s : State) (h k : Nat) (e : Nat × BitVec 48 × BitVec 8 × List Byte) : State :=
  (s.levels h k (s.inst h k).scales (signed 8 e.2.2.1.toNat) e.2.2.2).2.2.chanOps
    (if (s.chan h).kind = 4 then (s.chan h).width * (s.chan h).npop else (s.chan h).width)

/-- An instance that the engine serves in this turn. -/
structure Serves (s : State) (h k : Nat) (p : Nat × Ctx) : Prop where
  ctx  : s.ctxByIdx (s.chan h).binding.toNat k = some p
  may  : s.mayEncode h p = true
  home : s.chanHome h = true

section
variable {s : State} {h k : Nat} {p : Nat × Ctx} (hp : Serves s h k p)
include hp

theorem Serves.cidx : p.2.cidx.toNat = k := (State.ctxByIdx_some hp.ctx).2

section
variable (hleft : (s.inst h k).left = []) (hbad : s.instBad h k = false)
include hleft hbad

/-- The three ways of an encode: within a window of TTFS, from a row, and where the row is missing. -/
theorem State.encodeInstance_eq : s.encodeInstance h k =
    if (s.chan h).kind = 2 ∧ p.2.cstep.toNat % (s.chan h).win ≠ 0 then s.encodeWith h p (s.heldLevels h k) (s.inst h k).scales
    else match s.stepRow h k p with
      | some e => (s.rowLevelled h k e).encodeWith h p (s.levels h k (s.inst h k).scales (signed 8 e.2.2.1.toNat) e.2.2.2).1
          (s.levels h k (s.inst h k).scales (signed 8 e.2.2.1.toNat) e.2.2.2).2.1
      | none =>
        if (s.chan h).hold then (s.chanNote Reg.cnvMiss (some 2) h k).encodeWith h p (s.heldLevels h k) (s.inst h k).scales
        else s.setInst h k { s.inst h k with waiting := true } := by
  unfold State.encodeInstance State.stepRow State.rowLevelled
  dsimp only
  rw [hp.ctx]
  simp only [hleft, hp.may, hp.home, hbad, ne_eq, not_true_eq_false, if_false, Bool.not_true, Bool.false_eq_true] <;> rfl

end

theorem State.encodeTimeout_eq (hwait : (s.inst h k).waiting = true) (hrow : s.stepRow h k p = none) :
    s.encodeTimeout h k = (s.chanNote Reg.cnvTmo (some 3) h k).encodeWith h p (s.heldLevels h k) (s.inst h k).scales := by
  have hnone : (s.inst h k).slots.any (fun e => e.2.1 = p.2.cstep) = false :=
    List.any_eq_false.mpr fun e he => List.find?_eq_none.mp hrow e he
  unfold State.encodeTimeout
  rw [hp.ctx]
  simp only [hp.may, hp.home, hwait, hnone, Bool.not_true, Bool.or_false, Bool.false_eq_true, if_false]

end

/-! ### What levels change of the state -/

theorem State.chanBads_Acts (s : State) (h k n : Nat) : ActsOnly s (s.chanBads h k n) := by
  unfold State.chanBads
  exact .ite (fun _ => .refl s) fun _ => .trans (.of_gov rfl) (State.raise_Sent _ 109).acts

theorem State.chanConv_Acts (s : State) (b : Nat) (carried : Bool) (c : Conv) : ActsOnly s (s.chanConv b carried c) := by
  unfold State.chanConv
  extract_lets s1 s2 s3 s4 s5
  have hunit : ActsOnly s s1 := .unitActs s _ _ _
  have hcounts : OnlyChanges [.reg] s1 s5 := State.rmod_Only _ _ _ (by decide) (State.longSat_Only _ _ _ (by decide)
    (State.longSat_Only _ _ _ (by decide) (State.longSat_Only _ _ _ (by decide) (.refl _ s1))))
  have hregs : ActsOnly s s5 := hunit.trans (.of_only hcounts (by decide))
  exact .ite (fun _ => hregs) fun _ => hregs.trans (.of_only (State.stepStatus_cmdOnly s5 b _) (by decide))

theorem State.levels_Acts (s : State) (h k : Nat) (scales : Option (List Nat × List Nat)) (zin : Int) (row : List Byte) :
    ActsOnly s (s.levels h k scales zin row).2.2 := by
  unfold State.levels
  dsimp only
  split
  · exact (State.chanBads_Acts s h k _).trans (State.chanConv_Acts _ _ _ _)
  · exact State.chanBads_Acts s h k _

/-- The units that the preparation of an encode changes. -/
abbrev levelParts : List Part := [.gov, .reg, .cmd, .eth, .irq, .out]

theorem State.rowLevelled_parts (s : State) (h k : Nat) (e : Nat × BitVec 48 × BitVec 8 × List Byte) :
    OnlyChanges levelParts s (s.rowLevelled h k e) :=
  State.chanOps_Only _ _ (by decide) (by decide) (by decide) (by decide) (by decide)
    (State.levels_Only s h k _ _ _ (by decide) (by decide) (by decide) (by decide) (by decide) (by decide) (.refl _ s))
theorem State.rowLevelled_Acts (s : State) (h k : Nat) (e : Nat × BitVec 48 × BitVec 8 × List Byte) : ActsOnly s (s.rowLevelled h k e) :=
  (State.levels_Acts s h k _ _ _).trans (State.chanOps_Acts _ _)

/-! ### What an encode shows -/

/-- The units that the encode of an instance changes. -/
abbrev encodeParts : List Part := [.reg, .cmd, .rtr, .cnv, .core, .irq, .eth, .out, .free]

/-- A command whose operation encodes from a prepared state has encoded the step. -/
theorem Run_of_encodeWith {c : Instr} {s X : State} {f : State → State} {h : Nat} {p : Nat × Ctx} {u : List Nat}
    {scales : Option (List Nat × List Nat)} (hs : Canon s) (ha : Alive s) (he : exec c s = live s f) (hf : f s = X.encodeWith h p u scales)
    (hX : OnlyChanges levelParts s X) (hacts : ActsOnly s X) {P : State → Prop}
    (hP : DidEncode h p.2.cidx.toNat p.2.cstep u (X.encodeWith h p u scales) → P (X.encodeWith h p u scales)) :
    Spec.Run c s encodeParts P := by
  have hw : Tab.wf (fun _ => Inst.empty) X.cnv.insts := by
    rw [hX.same .cnv (by decide)]
    exact Canon_insts hs
  have honly : OnlyChanges (.gov :: encodeParts) s (X.encodeWith h p u scales) :=
    State.encodeWith_Only X h p u scales (by decide) (by decide) (by decide) (by decide) (by decide) (by decide) (by decide) (by decide)
      (by decide) (by decide) (hX.mono (by decide))
  refine Run_of_live ha he ?_ ?_
  · rw [hf]
    exact Frame_of_acts honly (hacts.trans (X.encodeWith_Acts h p u scales))
  · rw [hf]
    exact hP (State.encodeWith_DidEncode h p u scales hw)

/-- An encode from a state in which the engine has noted a missing row: the note stands. -/
theorem Run_of_noted {c : Instr} {s : State} {f : State → State} {h k : Nat} {p : Nat × Ctx} {u : List Nat}
    {scales : Option (List Nat × List Nat)} (hs : Canon s) (ha : Alive s) (he : exec c s = live s f) {ctr i : Nat}
    (hlo : Reg.cnvOpsLo < ctr) (hctr : ctr < Reg.cnvLast) (hi : i < 32) (hk : k < 2 ^ 18)
    (hf : f s = (s.chanNote ctr (some i) h k).encodeWith h p u scales) :
    Spec.Run c s encodeParts (fun t => DidEncode h p.2.cidx.toNat p.2.cstep u t ∧
      t.rfield ctr 0 32 = min (s.rfield ctr 0 32 + 1) (2 ^ 32 - 1)) := by
  have hnote := State.chanNote_regOnly s ctr (some i) h k
  obtain ⟨hcount, -, -⟩ := State.chanNote_reads (Canon_vals hs) hctr hi h hk
  refine Run_of_encodeWith hs ha he hf (hnote.mono (by decide)) (.of_only hnote (by decide)) fun hdid => ⟨hdid, ?_⟩
  rw [← hcount, State.rfield, (State.encodeWith_Regs _ h p u scales).get (State.chanNote_vals (Canon_vals hs) _ _ h k)
    (not_mem_emitRegs _ hlo hctr)]
  rfl

/-- The encode of a step, by whether the step needs a row, has one, and by HOLD. -/
theorem encodeOnceAStep : Spec.EncodeOnceAStep := by
  intro s ch k p c x row held did parts due hs ha hctx hk hmay hhome hbad hleft
  have hp : Serves s ch.toNat k.toNat p := ⟨hctx, hmay, hhome⟩
  have heq := State.encodeInstance_eq hp hleft hbad
  have hexec : exec (.encodeInstance ch k) s = live s fun s => s.encodeInstance ch.toNat k.toNat := rfl
  have hdid : ∀ {u t}, DidEncode ch.toNat p.2.cidx.toNat p.2.cstep u t → did u t := fun {u t} ⟨he, hw, hu, hl⟩ => by
    rw [hp.cidx] at he hw hu hl
    exact ⟨he, hw, hu, hl⟩
  have hdue : due → ¬ ((s.chan ch.toNat).kind = 2 ∧ p.2.cstep.toNat % (s.chan ch.toNat).win ≠ 0) := fun hd hn =>
    hd.elim (fun h => h hn.1) (fun h => hn.2 h)
  have hnoted : ∀ {c f ctr i}, exec c s = live s f → Reg.cnvOpsLo < ctr → ctr < Reg.cnvLast → i < 32 →
      f s = (s.chanNote ctr (some i) ch.toNat k.toNat).encodeWith ch.toNat p held x.scales →
      Spec.Run c s parts (fun t => did held t ∧ t.rfield ctr 0 32 = min (s.rfield ctr 0 32 + 1) (2 ^ 32 - 1)) :=
    fun he hlo hctr hi hf => by
      obtain ⟨t, ht, hframe, hd, hcount⟩ := Run_of_noted hs ha he hlo hctr hi k.isLt hf
      exact ⟨t, ht, hframe, hdid hd, hcount⟩
  refine ⟨fun e hd hrow => ?_, fun hd => ?_, fun hd hrow hhold => ?_, fun hd hrow hhold => ?_, fun hrow hwait => ?_⟩
  · rw [if_neg (hdue hd), show s.stepRow ch.toNat k.toNat p = some e from hrow] at heq
    exact Run_of_encodeWith hs ha hexec heq (State.rowLevelled_parts s _ _ e) (State.rowLevelled_Acts s _ _ e) hdid
  · have hwithin : (s.chan ch.toNat).kind = 2 ∧ p.2.cstep.toNat % (s.chan ch.toNat).win ≠ 0 := by
      simpa [due, c] using hd
    rw [if_pos hwithin] at heq
    exact Run_of_encodeWith hs ha hexec heq (.refl _ s) (.refl s) hdid
  · rw [if_neg (hdue hd), show s.stepRow ch.toNat k.toNat p = none from hrow] at heq
    exact hnoted hexec (by decide) (by decide) (by decide) (heq.trans (if_pos hhold))
  · rw [if_neg (hdue hd), show s.stepRow ch.toNat k.toNat p = none from hrow] at heq
    have hset := heq.trans (if_neg (by rw [hhold]; exact Bool.false_ne_true))
    refine To_of_live ha hexec ?_ ?_
    · exact hset ▸ State.setInst_Only _ _ _ (by decide) (.refl _ s)
    · exact hset ▸ State.inst_setInst_same (Canon_insts hs) _ _ _
  · exact hnoted (f := fun s => s.encodeTimeout ch.toNat k.toNat) (ctr := Reg.cnvTmo) (i := 3) rfl (by decide) (by decide) (by decide) (State.encodeTimeout_eq hp hwait hrow)

end Sys2Proof.Machine
end

section
namespace Sys2Proof.Machine

/-! ## One row of observations (R238, R239) -/

section
variable {s : State} {h k : Nat} {p : Nat × Ctx} {n : Nat}

/-- How far above the step encoded next a TSTEP stands (R201). -/
def stepsAbove (tstep n : Nat) : Nat := (tstep + 2 ^ 20 - n % 2 ^ 20) % 2 ^ 20

/-- The engine takes rows for context index `k` of channel `h`: the context `p` that the channel covers, its area in banks of its binding, and the
step `n` encoded next. -/
structure TakesRows (s : State) (h k : Nat) (p : Nat × Ctx) (n : Nat) : Prop where
  ctx    : s.ctxByIdx (s.chan h).binding.toNat k = some p
  covers : (s.chan h).covers h p.2 = true
  home   : s.chanHome h = true
  next   : s.nextEnc h p.2 = n

/-- Whether it does rests on the converters, the contexts, the banks and the arbitration of the area's slice. -/
theorem TakesRows.congr {t : State} (hp : TakesRows s h k p n) (hcnv : t.cnv = s.cnv) (hctxs : t.cmd.ctxs = s.cmd.ctxs)
    (hbanks : t.cmd.banks = s.cmd.banks) (hcfg : t.rget (Reg.slcCfg (s.chan h).sslice) = s.rget (Reg.slcCfg (s.chan h).sslice)) :
    TakesRows t h k p n := by
  have hchan := State.chan_congr hcnv h
  have hinst := State.inst_congr (congrArg Converters.insts hcnv) h
  refine ⟨?_, ?_, ?_, ?_⟩
  · rw [hchan, State.ctxByIdx_congr hctxs]
    exact hp.ctx
  · rw [hchan]
    exact hp.covers
  · have howner : t.bankOwner = s.bankOwner := funext fun i => congrArg (Tab.get (fun _ => none) · i) hbanks
    have harb : t.rfield (Reg.slcCfg (s.chan h).sslice) 0 2 = s.rfield (Reg.slcCfg (s.chan h).sslice) 0 2 := congrArg (fieldOf · 0 2) hcfg
    refine Eq.trans ?_ hp.home
    unfold State.chanHome State.sliceOwned
    dsimp only
    rw [hchan, howner, harb]
  · refine Eq.trans ?_ hp.next
    simp only [State.nextEnc, hinst]

/-- Instance (h, k) with a row for step `t` in its slot. -/
def State.rowStored (s : State) (h k t : Nat) (zin : BitVec 8) (row : List Byte) : State :=
  s.setInst h k { s.inst h k with
    slots := (s.inst h k).slots.filter (fun e => e.1 ≠ t % 4) ++ [(t % 4, BitVec.ofNat 48 t, zin, row)] }

/-- The row of a covered context of an encoder, by how far its step lies above the one encoded next. -/
theorem State.takeRow_eq (hp : TakesRows s h k p n) (tstep : Nat) (zin : BitVec 8) (row : List Byte)
    (hwin : (s.chan h).kind ≠ 2 ∨ (n + stepsAbove tstep n) % (s.chan h).win = 0) :
    s.takeRow h k tstep zin row = if 2 ^ 19 ≤ stepsAbove tstep n then (s.chanNote Reg.cnvLate (some 1) h k, false)
      else if 3 < stepsAbove tstep n then (s.chanNote Reg.cnvEarly (some 0) h k, false)
      else (s.rowStored h k (n + stepsAbove tstep n) zin row, true) := by
  have hskip : ¬ ((s.chan h).kind = 2 ∧ (n + stepsAbove tstep n) % (s.chan h).win ≠ 0) := fun ⟨hk, ht⟩ => hwin.elim (fun hne => hne hk) ht
  have hfar : n + 3 < n + stepsAbove tstep n ↔ 3 < stepsAbove tstep n := by omega
  unfold State.takeRow
  dsimp only
  rw [hp.ctx]
  simp only [hp.covers, hp.home, hp.next, Bool.not_true, Bool.false_eq_true, if_false]
  rw [show (tstep + 2 ^ 20 - n % 2 ^ 20) % 2 ^ 20 = stepsAbove tstep n from rfl, if_neg hskip, if_congr hfar rfl rfl]
  rfl

theorem State.takeRows_one (s : State) (h k tstep : Nat) (zin : BitVec 8) {row : List Byte} (hrow : row.length = (s.chan h).rowBytes) :
    s.takeRows h k tstep zin [row] 0 = ((s.takeRow h k tstep zin row).1, if (s.takeRow h k tstep zin row).2 then 1 else 0) := by
  simp only [State.takeRows, ne_eq, hrow, not_true_eq_false, if_false]

/-- The record of one row that an OBS frame carries. -/
theorem State.obsRecs_one (s : State) (ch : BitVec 12) (k : BitVec 18) (tstep : BitVec 20) (zin : BitVec 8) {row : List Byte}
    (henc : s.isEncoder ch.toNat = true)
    (hrow : (frameRow (s.chan ch.toNat).ifmt (s.chan ch.toNat).width row).length = (s.chan ch.toNat).rowBytes) :
    s.obsRecs [⟨ch, k, tstep, zin, [row], false⟩] =
      (s.takeRow ch.toNat k.toNat tstep.toNat zin (frameRow (s.chan ch.toNat).ifmt (s.chan ch.toNat).width row)).1 := by
  simp only [State.obsRecs, henc, Bool.not_true, Bool.false_eq_true, if_false, List.map_cons, List.map_nil, State.takeRows_one s _ _ _ _ hrow]

/-- In `t` instance (h, k) holds what it held in `s` with a row for step `j` in its slot, and every other instance is as it was. -/
structure RowStored (s : State) (h k j : Nat) (zin : BitVec 8) (row : List Byte) (t : State) : Prop where
  same  : t.inst h k = { s.inst h k with
    slots := (s.inst h k).slots.filter (fun e => e.1 ≠ j % 4) ++ [(j % 4, BitVec.ofNat 48 j, zin, row)] }
  other : ∀ a b, b < 2 ^ 18 → (a, b) ≠ (h, k) → t.inst a b = s.inst a b

theorem State.rowStored_RowStored (hw : Tab.wf (fun _ => Inst.empty) s.cnv.insts) (hk : k < 2 ^ 18) (j : Nat) (zin : BitVec 8)
    (row : List Byte) : RowStored s h k j zin row (s.rowStored h k j zin row) :=
  ⟨State.inst_setInst_same hw h k _, fun _ _ hb hne => State.inst_setInst_other hw _ (instKey_ne hb hk hne)⟩

theorem RowStored.congr {s' t t' : State} {j : Nat} {zin : BitVec 8} {row : List Byte} (hr : RowStored s h k j zin row t)
    (hs : s.cnv = s'.cnv) (ht : t'.cnv = t.cnv) : RowStored s' h k j zin row t' := by
  have hsi := State.inst_congr (congrArg Converters.insts hs)
  have hti := State.inst_congr (congrArg Converters.insts ht)
  refine ⟨?_, fun a b hb hne => ?_⟩
  · rw [hti, hr.same, hsi]
  · rw [hti, hr.other a b hb hne, hsi]

end

/-! ## OBS_FRAME (R397-R401, R415) -/

/-- A frame that passes its port goes on. -/
theorem State.endsAtPort_none {s : State} {p : Nat} {hd : EthHead} (h : Spec.Passes s p hd) : s.endsAtPort p hd false = none := by
  obtain ⟨htakes, hsub, hsec, hreq, hqci, htransport⟩ := h
  have hs : ¬ (hd.sub ≠ 0 ∧ s.rfield (Reg.ethPortStat p) 0 4 ≠ 2) := fun ⟨h0, h2⟩ => hsub.elim h0 h2
  have hm : ¬ (hd.macsec = true ∧ (s.portSas p 1 = [] ∨ hd.secOk = false)) := fun ⟨hon, hno⟩ => by
    obtain ⟨hsas, hok⟩ := hsec hon
    exact hno.elim hsas (fun h0 => by rw [h0] at hok; exact Bool.false_ne_true hok)
  have hr : ¬ (s.rbit (Reg.ethPortCfg p) 31 = true ∧ hd.macsec = false) := fun ⟨hon, hno⟩ => by
    rw [hreq hon] at hno
    exact Bool.false_ne_true hno.symm
  unfold State.endsAtPort
  simp only [htakes, hqci, htransport, Bool.not_true, Bool.false_or, Bool.and_eq_true, Bool.or_eq_true, Bool.not_eq_true', decide_eq_true_eq,
    Bool.not_false, and_true, if_neg hs, if_neg hm, if_neg hr, Bool.false_eq_true, if_false]

/-- A frame without an R-TAG number, or at a port whose 802.1CB table is clear, is eliminated nowhere (log entry 72). -/
theorem State.obsRecover_passes {s : State} {p : Nat} {hd : EthHead} (h : hd.rtag = none ∨ s.tableClear p 0x610 4 = true) :
    s.obsRecover p hd = (s, true) := by
  unfold State.obsRecover
  rcases h with h | h
  · rw [h]
  · cases hd.rtag with
    | none => rfl
    | some q => simp only [h, Bool.true_or, if_true]

theorem State.obsFrame_passes {s : State} {p : Nat} {hd : EthHead} (h : Spec.Passes s p hd) (hsub : hd.sub = 0) (hready : s.isReady = true)
    (htag : hd.rtag = none ∨ s.tableClear p 0x610 4 = true) (recs : List ObsRec) :
    s.obsFrame p hd s.sys.myDev.toNat recs = s.obsRecs recs := by
  unfold State.obsFrame
  rw [State.endsAtPort_none h]
  simp only [hsub, hready, State.obsRecover_passes htag, ne_eq, not_true_eq_false, decide_false, Bool.not_true, Bool.or_false,
    Bool.false_eq_true, if_false, if_true]

end Sys2Proof.Machine
end

section
namespace Sys2Proof.Machine

/-! ## A command that issues as it arrives (R261, R266-R268) -/

/-- The state in which a command with header `h` has taken the next CSEQ of its stream. -/
def State.numbered (s : State) (h : Hdr) : State :=
  (s.setStrm h.stream.toNat { s.strm h.stream.toNat with cseq := (s.strm h.stream.toNat).cseq + 1 }).unitActs 2 7 (h.nw.toNat + 1)

/-- The state in which the engine issues it. -/
def State.issuing (s : State) (h : Hdr) : State :=
  { s.numbered h with cmd := { (s.numbered h).cmd with issues := s.cmd.issues + 1 } }

/-- The state in which the engine's next turn goes to the next stream. -/
def State.turned (s : State) (h : Hdr) : State := { s with cmd := { s.cmd with turn := (h.stream.toNat + 1) % 256 } }

section
variable {s : State} (hw : Tab.wf (fun _ => Stream.empty) s.cmd.streams) {h : Hdr}
include hw

theorem State.strm_numbered :
    (s.numbered h).strm h.stream.toNat = { s.strm h.stream.toNat with cseq := (s.strm h.stream.toNat).cseq + 1 } :=
  State.strm_setStrm_same hw _ _

variable {c : Instr} {op : Byte} (hc : cmdHdr c = some (h, op)) (hr : Spec.Ready s h c)
include hc hr

/-- Nothing keeps the command from its issue. -/
theorem State.tryIssue_Ready (cseq : Word64) : (s.numbered h).tryIssue c cseq = (s.issuing h).issueKind c h cseq := by
  obtain ⟨⟨-, -, hpower, hspace, -, -, hout, hword, hmaint⟩, hbound⟩ := hr
  have hblocks : ((s.numbered h).strm h.stream.toNat).blocks h = false := by
    rw [State.strm_numbered hw]
    simp [Stream.blocks, hout]
  have hbound' : ((s.numbered h).strm h.stream.toNat).bound = true := by
    rw [State.strm_numbered hw]
    exact hbound
  have hspace' : (s.numbered h).spaceFull h.stream.toNat = false := hspace
  have hmaint' : (s.numbered h).maintWaits c = false := hmaint
  have hpower' : (s.numbered h).ltn.power = .run := hpower
  unfold State.tryIssue
  rw [hc]
  simp only [hspace', hword, hblocks, hmaint', hpower', hbound', reduceCtorEq, ne_eq, not_true_eq_false, decide_false, Bool.false_and,
    Bool.or_false, Bool.not_true, Bool.false_eq_true, if_false]
  rfl

theorem State.command_Ready {t : State} (ht : (s.issuing h).issueKind c h (s.strm h.stream.toNat).cseq = some t) :
    s.command c = t.turned h := by
  have htry := (State.tryIssue_Ready hw hc hr (s.strm h.stream.toNat).cseq).trans ht
  obtain ⟨⟨-, hready, hpower, -, hfrozen, hheld, -⟩, -⟩ := hr
  have haccept : ¬ (!s.accepting) = true := by simp [State.accepting, hready, hpower]
  have hfrozen' : ¬ (s.strm h.stream.toNat).frozen = true := by simp [hfrozen]
  unfold State.numbered at htry
  unfold State.command
  rw [hc]
  dsimp only
  rw [if_neg haccept, if_neg hfrozen', if_neg (not_not.mpr hheld), htry]
  rfl

end

/-! ## A command that completes at its issue (R263) -/

section
variable {s u : State} (hw : Tab.wf (fun _ => Stream.empty) u.cmd.streams) {h : Hdr}
include hw

theorem State.strm_closedCmd (cseq : Word64) (op st : Byte) (res : Nat) : (u.closedCmd h cseq op st res).strm h.stream.toNat =
    { u.strm h.stream.toNat with
      outst := (u.strm h.stream.toNat).outst.filter (fun o => o.cseq ≠ cseq), lastStatus := st, lastOpcode := op } := by
  unfold State.closedCmd
  dsimp only
  split <;> exact State.strm_setStrm_same hw _ _

theorem State.complete_Done (hnum : u.strm h.stream.toNat = { s.strm h.stream.toNat with cseq := (s.strm h.stream.toNat).cseq + 1 })
    (hout : (s.strm h.stream.toNat).outst = []) (op st : Byte) (res : Nat) :
    Spec.Done s ((u.complete h (s.strm h.stream.toNat).cseq op st res).turned h) h op st res := by
  have hended := State.closedCmd_Ended hw (h := h) (cseq := (s.strm h.stream.toNat).cseq) op st res
  have hstrm := State.strm_closedCmd hw (h := h) (s.strm h.stream.toNat).cseq op st res
  have hcmd : (u.complete h (s.strm h.stream.toNat).cseq op st res).cmd = (u.closedCmd h (s.strm h.stream.toNat).cseq op st res).cmd := by
    rw [State.complete_eq]
    split
    · exact State.raise_cmd _ _
    · rfl
  have hlast : ((u.complete h (s.strm h.stream.toNat).cseq op st res).turned h).strm h.stream.toNat =
      { s.strm h.stream.toNat with cseq := (s.strm h.stream.toNat).cseq + 1, lastStatus := st, lastOpcode := op } := by
    change Tab.get (fun _ => Stream.empty) (State.complete _ _ _ _ _ _).cmd.streams _ = _
    rw [hcmd]
    refine hstrm.trans ?_
    rw [hnum, hout]
    simp only [List.filter_nil, hout]
  refine ⟨by rw [hlast], by rw [hlast], by rw [hlast], by rw [hlast]; exact hout, fun hshown => ?_, fun hirq => ?_⟩
  · change _ ∈ (State.complete _ _ _ _ _ _).cmd.cpls
    rw [hcmd]
    exact hended.record hshown
  · have hlt : h.stream.toNat < 256 := h.stream.isLt
    change (State.complete _ _ _ _ _ _).irq.raw.getLsbD _ = true
    rw [State.complete_eq, if_pos hirq]
    refine State.raise_raw _ ?_ (by omega)
    simp only [irqAssigned, Bool.or_eq_true, Bool.and_eq_true, decide_eq_true_eq]
    omega

end

/-- The units that a completion may change. -/
abbrev completeParts : List Part := [.reg, .cmd, .eth, .irq, .out]

/-- A command whose issue leads to the state `u` and completes there: its stream, its record and its interrupt show it, and what the converters
hold in `u` they hold in the end. -/
theorem Run_of_issued {c : Instr} {s u : State} {h : Hdr} {op st : Byte} {res : Nat} {l : List Part} {P : State → Prop} (hs : Canon s)
    (ha : Alive s) (hr : Spec.Ready s h c) (hc : cmdHdr c = some (h, op)) (he : exec c s = live s fun s => s.command c)
    (hissue : (s.issuing h).issueKind c h (s.strm h.stream.toNat).cseq = some (u.complete h (s.strm h.stream.toNat).cseq op st res))
    (hl : ∀ q ∈ completeParts, q ∈ l) (honly : OnlyChanges (.gov :: l) s u) (hacts : ActsOnly s u) (hcmd : u.cmd = (s.issuing h).cmd)
    (hP : ∀ t : State, t.cnv = u.cnv → P t) : Spec.Run c s l (fun t => Spec.Done s t h op st res ∧ P t) := by
  have hout : (s.strm h.stream.toNat).outst = [] := by
    obtain ⟨⟨-, -, -, -, -, -, hout, -⟩, -⟩ := hr
    exact hout
  have hw : Tab.wf (fun _ => Stream.empty) u.cmd.streams := by
    rw [hcmd]
    exact Tab.wf_set (Canon_streams hs) _ _
  have hnum : u.strm h.stream.toNat = { s.strm h.stream.toNat with cseq := (s.strm h.stream.toNat).cseq + 1 } :=
    (congrArg (fun x : CmdPlane => Tab.get (fun _ => Stream.empty) x.streams h.stream.toNat) hcmd).trans (State.strm_numbered (Canon_streams hs))
  have hcomplete := (u.complete_Completed h (s.strm h.stream.toNat).cseq op st res).only
  refine Run_of_live ha he ?_ ?_
  · rw [State.command_Ready (Canon_streams hs) hc hr hissue]
    refine Frame_of_acts (OnlyChanges.cmd_upd _ (List.mem_cons_of_mem _ (hl .cmd (by decide)))
      (honly.trans (hcomplete.mono fun q hq => List.mem_cons_of_mem _ (hl q hq)))) ?_
    exact hacts.trans (.trans (.of_only hcomplete (by decide)) (.of_gov rfl))
  · rw [State.command_Ready (Canon_streams hs) hc hr hissue]
    exact ⟨State.complete_Done hw hnum hout op st res, hP _ (hcomplete.same .cnv (by decide))⟩

/-! ## ENCODE of one row (R292) -/

theorem length_bytes (s : State) (a n : Nat) : (s.bytes a n).length = n := by
  induction n generalizing a with
  | zero => rfl
  | succ n ih => rw [State.bytes, List.length_cons, ih]

/-- A row is cut into one piece. -/
theorem cut_one {α : Type} {n : Nat} {l : List α} (hl : l.length = n) (hn : 0 < n) : cut n l = [l] := by
  have hpieces : (l.length + n - 1) / n = 1 := by rw [hl]; exact Nat.div_eq_of_lt_le (by omega) (by omega)
  rw [cut, hpieces, pieces, pieces, List.take_of_length_le (by omega)]

/-- What ENCODE asks of its row: a VALID encoder of the binding, and a source of local memory that may be read, holds no uncorrectable word and
no instance's state. -/
structure Encodes (s : State) (h : Hdr) (ch : Nat) (src : Word64) : Prop where
  owns    : s.owns (Spec.bind s h) 6 ch = true
  encoder : s.isEncoder ch = true
  check   : s.mrefCheck (Spec.bind s h) src (s.chan ch).rowBytes = St.ok
  home    : s.mrefLocal src = true
  present : s.sys.lost.contains s.sys.myDev.toNat = false
  memory  : mrSpace src ≠ 4
  sound   : s.badRange (s.mrefAddr src) (s.chan ch).rowBytes = false
  apart   : s.instsIn (s.mrefAddr src) (s.chan ch).rowBytes = []
  row     : 0 < (s.chan ch).rowBytes

section
variable {s : State} {h : Hdr} {ch : Nat} {src : Word64} (he : Encodes s h ch src)
include he

theorem State.getMref_Encodes (stream : BitVec 8) : s.getMref stream src (s.chan ch).rowBytes =
    (s.bytes (s.mrefAddr src) (s.chan ch).rowBytes, false, s.moved false (s.mrefAddr src) (s.chan ch).rowBytes) := by
  have hdev : s.mrefDev src = some s.sys.myDev.toNat := of_decide_eq_true he.home
  have hinsts : s.readInsts (s.mrefAddr src) (s.bytes (s.mrefAddr src) (s.chan ch).rowBytes) =
      (s.bytes (s.mrefAddr src) (s.chan ch).rowBytes, s) := by
    unfold State.readInsts
    rw [length_bytes, he.apart]
    rfl
  have hreport : s.reportUE (s.mrefAddr src) (s.chan ch).rowBytes = s := by
    have hnone := List.filter_eq_nil_iff.mpr (List.any_eq_false.mp he.sound)
    unfold State.reportUE
    rw [hnone]
    rfl
  unfold State.getMref
  rw [hdev]
  simp only [if_true, hinsts, hreport, he.sound]

theorem State.noRoute_Encodes : s.noRoute src = false := by
  have hdev : s.mrefDev src = some s.sys.myDev.toNat := of_decide_eq_true he.home
  unfold State.noRoute
  rw [hdev]
  simp only [he.present, ne_eq, not_true_eq_false, decide_false, Bool.false_and, Bool.or_false]

theorem State.issueEncode_Encodes (cseq : Word64) (k tstep : Nat) (zin : BitVec 8) :
    s.issueEncode h cseq k ch src 1 tstep zin =
      let t := (s.moved false (s.mrefAddr src) (s.chan ch).rowBytes).takeRows ch k tstep zin
        [s.bytes (s.mrefAddr src) (s.chan ch).rowBytes] 0
      some (t.1.complete h cseq 0x60 St.ok t.2) := by
  have hstatus : allOf [owned (s.owns (Spec.bind s h) 6 ch), need (!s.owns (Spec.bind s h) 6 ch || s.isEncoder ch),
      s.mrefCheck (Spec.bind s h) src (s.chan ch).rowBytes, if s.noRoute src then St.linkLost else St.ok] = St.ok := by
    rw [he.owns, he.encoder, he.check, State.noRoute_Encodes he]
    decide
  have hrow := cut_one (length_bytes s (s.mrefAddr src) (s.chan ch).rowBytes) he.row
  unfold Spec.bind at hstatus
  unfold State.issueEncode
  simp only [Nat.one_mul, hstatus, State.sourceReady, he.memory, State.getMref_Encodes he, hrow, ne_eq, not_true_eq_false, decide_true,
    not_false_eq_true, Bool.true_or, Bool.not_true, Bool.false_eq_true, if_false, List.take_succ_cons, List.take_zero, List.map_cons, List.map_nil]

end

end Sys2Proof.Machine
end

section
namespace Sys2Proof.Machine

/-! ## Rows that ENCODE and OBS frames bring (R238, R239, R292) -/

theorem TakesRows.of_encoder {s : State} {h k : Nat} {p : Nat × Ctx} {n : Nat} (he : Spec.Encoder s h k p n) : TakesRows s h k p n := by
  obtain ⟨-, -, hctx, hcovers, hhome, hn⟩ := he
  exact ⟨hctx, hcovers, hhome, hn.symm⟩

theorem State.isEncoder_of_encoder {s : State} {h k : Nat} {p : Nat × Ctx} {n : Nat} (he : Spec.Encoder s h k p n) : s.isEncoder h = true := by
  obtain ⟨hvalid, hdec, -⟩ := he
  rw [State.isEncoder, hvalid, hdec]
  rfl

/-- Counting HBM granules leaves the configuration of every slice. -/
theorem slcCfg_not_traffic {k : Nat} (hk : k < 32) : Reg.slcCfg k ∉ trafficRegs := by
  rw [mem_trafficRegs, mem_sentRegs]
  simp only [Reg.slcCfg, Reg.hbmGrLo, Reg.hbmStat]
  omega

/-- The area of a channel starts in one of 32 slices. -/
theorem Chan.sslice_lt (c : Chan) : c.sslice < 32 := Nat.mod_lt _ (by decide)

/-- The units that the issue of an ENCODE changes. -/
abbrev encodeCmdParts : List Part := [.cmd, .reg, .cnv, .eth, .irq, .out]

section
variable {s : State} (hs : Canon s) {h : Hdr} {ch : Nat} {src : Word64}
include hs

theorem Encodes.issuing (he : Encodes s h ch src) : Encodes (s.issuing h) h ch src := by
  have hbind : Spec.bind (s.issuing h) h = Spec.bind s h :=
    (congrArg (fun x : Stream => x.binding.toNat) (State.strm_numbered (Canon_streams hs) (h := h))).trans rfl
  refine ⟨?_, he.encoder, ?_, he.home, he.present, he.memory, he.sound, he.apart, he.row⟩
  · rw [hbind]
    exact he.owns
  · rw [hbind]
    exact he.check

/-! ### The state in which ENCODE has read its row -/

section
variable (s h) (src : Word64) (ch : Nat)

def State.encodeRead : State := (s.issuing h).moved false (s.mrefAddr src) (s.chan ch).rowBytes

omit hs
theorem State.encodeRead_parts : OnlyChanges [.gov, .cmd, .reg, .eth, .irq, .out] s (s.encodeRead h src ch) := by
  refine State.moved_Only _ false _ _ (by decide) (by decide) (by decide) (by decide) (by decide) ?_
  exact OnlyChanges.cmd_upd _ (by decide) (State.unitActs_Only _ _ _ _ (by decide) (State.setStrm_Only _ _ (by decide) (.refl _ s)))
theorem State.encodeRead_Acts : ActsOnly s (s.encodeRead h src ch) := .trans (t := s.issuing h) rfl (State.moved_Acts _ _ _ _)
theorem State.encodeRead_cmd : (s.encodeRead h src ch).cmd = (s.issuing h).cmd :=
  (State.moved_Only (L := [.reg, .eth, .gov, .irq, .out]) _ false _ _ (by decide) (by decide) (by decide) (by decide) (by decide)
    (.refl _ _)).same .cmd (by decide)
theorem State.encodeRead_cnv : (s.encodeRead h src ch).cnv = s.cnv := (s.encodeRead_parts h src ch).same .cnv (by decide)

end

theorem TakesRows.encodeRead {k : Nat} {p : Nat × Ctx} {n : Nat} (hp : TakesRows s ch k p n) :
    TakesRows (s.encodeRead h src ch) ch k p n := by
  have hcmd := s.encodeRead_cmd h src ch
  have hvals : Tab.wf regReset s.reg.vals := Canon_vals hs
  have hregs : RegsOnly trafficRegs (s.issuing h) (s.encodeRead h src ch) := State.moved_Regs _ _ _ _
  exact hp.congr (s.encodeRead_cnv h src ch) ((congrArg CmdPlane.ctxs hcmd).trans rfl) ((congrArg CmdPlane.banks hcmd).trans rfl)
    (hregs.get hvals (slcCfg_not_traffic (s.chan ch).sslice_lt))

/-- The issue of ENCODE for one of the four next steps: the row is stored and the command completes. -/
theorem State.issueEncode_stores {k : Nat} {p : Nat × Ctx} {n : Nat} (he : Encodes s h ch src) (hp : TakesRows s ch k p n) (cseq : Word64)
    (tstep : Nat) (zin : BitVec 8) (hwin : (s.chan ch).kind ≠ 2 ∨ (n + stepsAbove tstep n) % (s.chan ch).win = 0) (hd : stepsAbove tstep n ≤ 3) :
    (s.issuing h).issueEncode h cseq k ch src 1 tstep zin = some (((s.encodeRead h src ch).rowStored ch k (n + stepsAbove tstep n) zin
      (s.bytes (s.mrefAddr src) (s.chan ch).rowBytes)).complete h cseq 0x60 St.ok 1) := by
  have hissue : (s.issuing h).issueEncode h cseq k ch src 1 tstep zin =
      some (((s.encodeRead h src ch).takeRows ch k tstep zin [s.bytes (s.mrefAddr src) (s.chan ch).rowBytes] 0).1.complete h cseq 0x60 St.ok
        ((s.encodeRead h src ch).takeRows ch k tstep zin [s.bytes (s.mrefAddr src) (s.chan ch).rowBytes] 0).2) := by
    refine (State.issueEncode_Encodes (he.issuing hs) cseq k tstep zin).trans ?_
    rw [State.bytes_congr (t := s.issuing h) (s := s) rfl]
    rfl
  have hchan := State.chan_congr (s.encodeRead_cnv h src ch) ch
  have htaken := State.takeRow_eq (hp.encodeRead hs (h := h) (src := src)) tstep zin (s.bytes (s.mrefAddr src) (s.chan ch).rowBytes)
    (by rw [hchan]; exact hwin)
  rw [if_neg (by omega), if_neg (by omega)] at htaken
  rw [hissue, State.takeRows_one _ ch k tstep zin (by rw [length_bytes, hchan]), htaken]
  rfl

/-- ENCODE of a row for one of the four next steps stores it. -/
theorem encodeStores {k : Nat} {p : Nat × Ctx} {n : Nat} {c : Instr} (ha : Alive s) (hr : Spec.Ready s h c) (he : Encodes s h ch src)
    (hp : TakesRows s ch k p n) (hk : k < 2 ^ 18) {tstep : Nat} {zin : BitVec 8} (hc : cmdHdr c = some (h, 0x60))
    (hexec : exec c s = live s fun s => s.command c)
    (hkind : ∀ cseq, (s.issuing h).issueKind c h cseq = (s.issuing h).issueEncode h cseq k ch src 1 tstep zin)
    (hwin : (s.chan ch).kind ≠ 2 ∨ (n + stepsAbove tstep n) % (s.chan ch).win = 0) (hd : stepsAbove tstep n ≤ 3) :
    Spec.Run c s encodeCmdParts (fun t => Spec.Done s t h 0x60 St.ok 1 ∧ RowStored s ch k (n + stepsAbove tstep n) zin
      (s.bytes (s.mrefAddr src) (s.chan ch).rowBytes) t) := by
  have hcnv := s.encodeRead_cnv h src ch
  have hstored := State.rowStored_RowStored (s := s.encodeRead h src ch) (h := ch) (by rw [hcnv]; exact Canon_insts hs) hk (n + stepsAbove tstep n) zin
    (s.bytes (s.mrefAddr src) (s.chan ch).rowBytes)
  refine Run_of_issued hs ha hr hc hexec ((hkind _).trans (State.issueEncode_stores hs he hp _ tstep zin hwin hd)) (by decide)
    (State.setInst_Only _ _ _ (by decide) ((s.encodeRead_parts h src ch).mono (by decide))) ((s.encodeRead_Acts h src ch).trans (.of_gov rfl))
    (s.encodeRead_cmd h src ch) fun t ht => ?_
  exact hstored.congr hcnv ht

end

/-- A row stored as R238 says, whether ENCODE or an OBS frame brings it, and early and late rows counted. -/
theorem observationRows : Spec.ObservationRows := by
  intro s h k ch src tstep zin port hd row p n c d t new frame stored hs ha henc hwin
  have hp := TakesRows.of_encoder henc
  have hstored : ∀ {row u}, RowStored s ch.toNat k.toNat t zin row u → stored row u := fun ⟨hsame, hother⟩ => ⟨hsame, hother⟩
  refine ⟨fun hr hd hmem hinsts howns hcheck hlocal hgood hlost hpos => ?_, fun hpass hsub hready htag hlen => ?_⟩
  · obtain ⟨u, hu, hframe, hdone, hrow⟩ := encodeStores hs ha hr
      ⟨howns, State.isEncoder_of_encoder henc, hcheck, hlocal, hlost, hmem, hgood, hinsts, hpos⟩ hp k.isLt rfl rfl (fun _ => rfl) hwin hd
    exact ⟨u, hu, hframe, hdone, hstored hrow⟩
  · have hexec : exec frame s = live s fun s => s.obsFrame port.toNat hd s.sys.myDev.toNat [⟨ch, k, tstep, zin, [row], false⟩] := rfl
    have hframe := (State.obsFrame_passes hpass hsub hready htag [⟨ch, k, tstep, zin, [row], false⟩]).trans
      ((State.obsRecs_one s ch k tstep zin (State.isEncoder_of_encoder henc) hlen).trans
        (congrArg Prod.fst (State.takeRow_eq hp tstep.toNat zin _ hwin)))
    have hnote : ∀ {ctr i : Nat}, ctr < Reg.cnvLast → i < 32 →
        s.obsFrame port.toNat hd s.sys.myDev.toNat [⟨ch, k, tstep, zin, [row], false⟩] = s.chanNote ctr (some i) ch.toNat k.toNat →
        Spec.To frame s [.reg] (fun u => u.rfield ctr 0 32 = min (s.rfield ctr 0 32 + 1) (2 ^ 32 - 1) ∧
          u.rbit (Reg.cnvChStat ch.toNat) i = true ∧ u.rget Reg.cnvLast = BitVec.ofNat 32 (ch.toNat * 2 ^ 18 + k.toNat)) :=
      fun {ctr i} hctr hi hnoted => To_of_live ha hexec (hnoted ▸ State.chanNote_regOnly s ctr (some i) _ _)
        (hnoted ▸ State.chanNote_reads (Canon_vals hs) hctr hi _ k.isLt)
    refine ⟨fun hnear => ?_, fun hearly hnotlate => ?_, fun hlate => ?_⟩
    · have hnear' : stepsAbove tstep.toNat n ≤ 3 := hnear
      rw [if_neg (by omega), if_neg (by omega)] at hframe
      refine To_of_live ha hexec ?_ ?_
      · exact hframe ▸ State.setInst_Only _ _ _ (by decide) (.refl _ s)
      · exact hframe ▸ hstored (State.rowStored_RowStored (Canon_insts hs) k.isLt _ zin _)
    · have hearly' : 3 < stepsAbove tstep.toNat n := hearly
      have hnotlate' : ¬ 2 ^ 19 ≤ stepsAbove tstep.toNat n := Nat.not_le.mpr hnotlate
      rw [if_neg hnotlate', if_pos hearly'] at hframe
      exact hnote (by decide) (by decide) hframe
    · have hlate' : 2 ^ 19 ≤ stepsAbove tstep.toNat n := hlate
      rw [if_pos hlate'] at hframe
      exact hnote (by decide) (by decide) hframe

/-- Settles O24: a row by the distance of its step (`takeRow_eq`), under ENCODE and in an OBS frame; an encode by whether the step needs a row and
has one (`encodeInstance_eq`), and what its records leave of the instance (`encodeWith_DidEncode`). -/
theorem observationsEncode : Obligations.ObservationsEncode := ⟨observationRows, encodeOnceAStep⟩

end Sys2Proof.Machine
end

section
namespace Sys2Proof.Machine

/-! ## TAP_ACCEPT (R246) -/

/-- The state in which a full buffer has counted how long it was so. -/
def State.tapTimed (s : State) : State := if 16384 ≤ s.cnv.taps.length then s.countFree Reg.cnvTapwait else s

/-- The state in which the buffer has given a tap away. -/
def State.tapTaken (s : State) (x : Tap) : State :=
  { s.tapTimed with cnv := { s.tapTimed.cnv with taps := s.tapTimed.cnv.taps.erase x } }

theorem State.tapTimed_parts (s : State) : OnlyChanges [.reg, .free] s s.tapTimed := by
  unfold State.tapTimed
  split
  · exact State.countFree_Only _ _ (by decide) (by decide) (.refl _ s)
  · exact .refl _ s

theorem State.tapTaken_parts (s : State) (x : Tap) : OnlyChanges [.reg, .cnv, .free] s (s.tapTaken x) :=
  OnlyChanges.cnv_upd _ (by decide) (s.tapTimed_parts.mono (by decide))

theorem State.tapTaken_cnv (s : State) (x : Tap) : (s.tapTaken x).cnv = { s.cnv with taps := s.cnv.taps.erase x } := by
  have hcnv : s.tapTimed.cnv = s.cnv := s.tapTimed_parts.same .cnv (by decide)
  unfold State.tapTaken
  rw [hcnv]

theorem State.tally_congr {s t : State} (h : t.cnv.tallies = s.cnv.tallies) (a b c i : Nat) : t.tally a b c i = s.tally a b c i :=
  congrArg (Tab.get (fun _ => 0) · (tallyKey a b c i)) h

/-- A tap of the buffer, of an instance with context `p`, goes into the tally of the running step. -/
theorem State.tapAccept_eq {s : State} {x : Tap} {p : Nat × Ctx} (hx : x ∈ s.cnv.taps)
    (hp : s.ctxByIdx (s.chan x.channel.toNat).binding.toNat x.cidx.toNat = some p) :
    s.tapAccept x = ((s.tapTaken x).chanOps 1).setTally x.channel.toNat x.cidx.toNat p.2.cstep.toNat x.neuron
      (s.tally x.channel.toNat x.cidx.toNat p.2.cstep.toNat x.neuron + x.n) := by
  have hcnv := s.tapTaken_cnv x
  have hchan : (s.tapTaken x).chan x.channel.toNat = s.chan x.channel.toNat :=
    (congrArg (fun c : Converters => Tab.get (fun _ => Chan.empty) c.chans x.channel.toNat) hcnv).trans rfl
  have hctx : (s.tapTaken x).ctxByIdx ((s.tapTaken x).chan x.channel.toNat).binding.toNat x.cidx.toNat = some p := by
    rw [hchan, State.ctxByIdx_congr (congrArg CmdPlane.ctxs ((s.tapTaken_parts x).same .cmd (by decide)))]
    exact hp
  have htally := State.tally_congr (s := s) (t := s.tapTaken x) ((congrArg Converters.tallies hcnv).trans rfl)
  have hopen : s.tapAccept x = (match (s.tapTaken x).ctxByIdx ((s.tapTaken x).chan x.channel.toNat).binding.toNat x.cidx.toNat with
      | none => s.tapTaken x
      | some p => ((s.tapTaken x).chanOps 1).setTally x.channel.toNat x.cidx.toNat p.2.cstep.toNat x.neuron
        ((s.tapTaken x).tally x.channel.toNat x.cidx.toNat p.2.cstep.toNat x.neuron + x.n)) :=
    if_neg (by simp [hx])
  rw [hopen, hctx]
  dsimp only
  rw [htally]

theorem State.tally_setTally_same {s : State} (hw : Tab.wf (fun _ => 0) s.cnv.tallies) (a b c i v : Nat) :
    (s.setTally a b c i v).tally a b c i = v := Tab.get_set_same hw _ v

theorem tapAccepted {s : State} (hs : Canon s) (ha : Alive s) {ch : BitVec 12} {k : BitVec 18} {neuron : BitVec 6} {n : BitVec 3} {p : Nat × Ctx}
    (hp : s.ctxByIdx (s.chan ch.toNat).binding.toNat k.toNat = some p) (hx : (⟨ch, k, neuron.toNat, n.toNat⟩ : Tap) ∈ s.cnv.taps) :
    Spec.Run (.tapAccept ch k neuron n) s [.reg, .cnv, .irq, .eth, .out, .free] (fun t =>
      t.cnv.taps = s.cnv.taps.erase ⟨ch, k, neuron.toNat, n.toNat⟩ ∧ t.tally ch.toNat k.toNat p.2.cstep.toNat neuron.toNat =
        s.tally ch.toNat k.toNat p.2.cstep.toNat neuron.toNat + n.toNat) := by
  have hcnv : ((s.tapTaken ⟨ch, k, neuron.toNat, n.toNat⟩).chanOps 1).cnv =
      { s.cnv with taps := s.cnv.taps.erase ⟨ch, k, neuron.toNat, n.toNat⟩ } := (State.chanOps_cnv _ 1).trans (State.tapTaken_cnv s _)
  have hparts := (State.tapTaken_parts s ⟨ch, k, neuron.toNat, n.toNat⟩)
  refine Run_of_live (f := fun s => s.tapAccept ⟨ch, k, neuron.toNat, n.toNat⟩) ha rfl ?_ ?_
  · rw [State.tapAccept_eq hx hp]
    refine Frame_of_acts (State.setTally_Only _ _ _ _ _ _ (by decide) ((hparts.mono (by decide)).trans ((State.chanOps_parts _ 1).mono (by decide))))
      ?_
    exact (ActsOnly.of_only hparts (by decide)).trans ((State.chanOps_Acts _ 1).trans (.of_gov rfl))
  · rw [State.tapAccept_eq hx hp]
    refine ⟨congrArg Converters.taps hcnv, State.tally_setTally_same ?_ _ _ _ _ _⟩
    rw [hcnv]
    exact Canon_tallies hs

/-! ## The tallies of an ended step are cleared (R247) -/

/-- The state in which the tallies of step `d` of instance (h, k), of `w` neurons, are 0. -/
def State.talliesCleared (s : State) (h k d w : Nat) : State := s.forAll (List.range w) (fun s i => s.setTally h k d i 0)

theorem State.talliesCleared_eq (s : State) (h k d w : Nat) : s.talliesCleared h k d w = { s with cnv := { s.cnv with
    tallies := Tab.modAll (fun _ => 0) (tallyKey h k d) (fun _ _ => 0) s.cnv.tallies (List.range w) } } := by
  unfold State.talliesCleared
  generalize List.range w = l
  induction l generalizing s with
  | nil => rfl
  | cons i r ih => exact ih (s.setTally h k d i 0)

theorem State.tally_talliesCleared {s : State} (hw : Tab.wf (fun _ => 0) s.cnv.tallies) (h k d w : Nat) {i : Nat} (hi : i < w) :
    (s.talliesCleared h k d w).tally h k d i = 0 := by
  have hnodup : ((List.range w).map (tallyKey h k d)).Nodup :=
    List.Nodup.map (fun i j hij => by unfold tallyKey at hij; omega) List.nodup_range
  rw [State.talliesCleared_eq]
  exact Tab.get_modAll_mem (fun _ _ => 0) hw hnodup (List.mem_range.mpr hi)

/-! ## DECODE_INSTANCE (R247, R254) -/

section
variable {s : State} {h k : Nat} {d : BitVec 48}

/-- The counts of a step, neuron by neuron. -/
def State.counts (s : State) (h k d : Nat) : List Nat := (List.range (s.chan h).width).map (fun i => s.tally h k d i)

/-- What the window of instance (h, k) makes of the counts of step `d`, and y_raw. -/
def State.decodedStep (s : State) (h k d : Nat) : Inst × Option Int :=
  (s.chan h).decodeStep (s.prefsOf (s.chan h)) (s.instOf h k) d (s.counts h k d)

/-- The instance once its decode is made. -/
def State.instDecoded (s : State) (h k : Nat) (d : BitVec 48) : Inst := { (s.decodedStep h k d.toNat).1 with
  v := ((s.decodedStep h k d.toNat).2.map (s.chan h).value).getD (s.decodedStep h k d.toNat).1.v
  renewed := true, decodedAt := some d, due := none }

/-- The state in which it is made. -/
def State.decodedInst (s : State) (h k : Nat) (d : BitVec 48) : State :=
  ((s.talliesCleared h k d.toNat (s.chan h).width).chanOps 1).setInst h k (s.instDecoded h k d)

/-- An instance whose decode is due in the engine's order, in a channel that is in service. -/
structure Decodes (s : State) (h k : Nat) (d : BitVec 48) : Prop where
  due   : (s.instOf h k).due = some d
  awake : (s.chan h).frozen = false
  home  : s.chanHome h = true
  sound : s.instBad h k = false
  turn  : s.turnOf (s.chan h).binding.toNat true h k (fun d q => (s.inst d q.2.cidx.toNat).due = none) = true

theorem State.decodeInstance_eq (hd : Decodes s h k d) : s.decodeInstance h k =
    if (s.decodedInst h k d).noneDue (s.chan h).binding.toNat then ((s.decodedInst h k d).updateInstant (s.chan h).binding.toNat).serveDecodes
    else (s.decodedInst h k d).serveDecodes := by
  have hclear := s.talliesCleared_eq h k d.toNat (s.chan h).width
  have hhome : (s.talliesCleared h k d.toNat (s.chan h).width).chanHome h = true := by rw [hclear]; exact hd.home
  have hsound : (s.talliesCleared h k d.toNat (s.chan h).width).instBad h k = false := by rw [hclear]; exact hd.sound
  have hprefs : (s.talliesCleared h k d.toNat (s.chan h).width).prefsOf (s.chan h) = s.prefsOf (s.chan h) := by
    unfold State.prefsOf
    rw [State.bytes_congr (s := s) (by rw [hclear])]
  unfold State.talliesCleared at hhome hsound hprefs
  unfold State.decodeInstance
  dsimp only
  rw [hd.due]
  simp only [hd.turn, hd.awake, hhome, hsound, hprefs, Bool.not_true, Bool.false_eq_true, if_false]
  unfold State.decodedInst State.instDecoded State.decodedStep State.counts State.talliesCleared
  generalize (s.chan h).decodeStep (s.prefsOf (s.chan h)) (s.instOf h k) d.toNat _ = y
  obtain ⟨y, raw⟩ := y
  cases raw <;> rfl

end

/-! ### What a decode makes of an instance -/

/-- A decode moves the window of an instance; its computed and its emitted value stay. -/
theorem Chan.decodeStep_kept (c : Chan) (prefs : List Int) (x : Inst) (t : Nat) (n : List Nat) :
    (c.decodeStep prefs x t n).1.v = x.v ∧ (c.decodeStep prefs x t n).1.e = x.e := by
  unfold Chan.decodeStep
  extract_lets total put h1 f1 f2 h2 sums tot y x1 now x2
  have hx1 : x1.v = x.v ∧ x1.e = x.e := by simp only [x1]; split <;> exact ⟨rfl, rfl⟩
  have hx2 : x2.v = x1.v ∧ x2.e = x1.e := by simp only [x2]; split <;> exact ⟨rfl, rfl⟩
  split
  · exact ⟨rfl, rfl⟩
  split
  · exact ⟨rfl, rfl⟩
  split
  · exact ⟨rfl, rfl⟩
  · exact ⟨hx2.1.trans hx1.1, hx2.2.trans hx1.2⟩

/-- A rate decoder puts the count of the step into its window and gives the window's sum. -/
theorem Chan.decodeStep_rate {c : Chan} (hc : c.kind = 0) (prefs : List Int) (x : Inst) (t : Nat) (n : List Nat) :
    c.decodeStep prefs x t n = ({ x with hist := (x.hist ++ List.replicate (c.win - x.hist.length) []).set (t % c.win) [n.sum] },
      some ((((x.hist ++ List.replicate (c.win - x.hist.length) []).set (t % c.win) [n.sum]).map List.sum).sum : Int)) := by
  unfold Chan.decodeStep
  rw [if_pos hc, Nat.cast_list_sum, List.map_map]
  rfl

/-- The values of an instance once it is decoded: the emitted one stays, the computed one is that of y_raw where there is one. -/
theorem State.instDecoded_values (s : State) (h k : Nat) (d : BitVec 48) : (s.instDecoded h k d).e = (s.instOf h k).e ∧
    (s.instDecoded h k d).v = ((s.decodedStep h k d.toNat).2.map (s.chan h).value).getD (s.instOf h k).v := by
  obtain ⟨hv, he⟩ := (s.chan h).decodeStep_kept (s.prefsOf (s.chan h)) (s.instOf h k) d.toNat (s.counts h k d.toNat)
  refine ⟨he, ?_⟩
  change Option.getD _ (State.decodedStep _ _ _ _).1.v = _
  rw [show (s.decodedStep h k d.toNat).1.v = (s.instOf h k).v from hv]

/-- The window of a rate decoder and its value, the sum of the window. -/
theorem State.instDecoded_rate {s : State} {h : Nat} (hc : (s.chan h).kind = 0) (k : Nat) (d : BitVec 48) :
    let hist := ((s.instOf h k).hist ++ List.replicate ((s.chan h).win - (s.instOf h k).hist.length) []).set (d.toNat % (s.chan h).win)
      [(s.counts h k d.toNat).sum]
    (s.instDecoded h k d).hist = hist ∧ (s.instDecoded h k d).v = (s.chan h).value (hist.map List.sum).sum := by
  have hstep := Chan.decodeStep_rate hc (s.prefsOf (s.chan h)) (s.instOf h k) d.toNat (s.counts h k d.toNat)
  unfold State.instDecoded State.decodedStep
  rw [hstep]
  exact ⟨rfl, rfl⟩

/-! ### What a decode leaves of the state -/

section
variable (s : State) (h k : Nat) (d : BitVec 48)

theorem State.decodedInst_parts : OnlyChanges [.gov, .reg, .cnv, .irq, .eth, .out] s (s.decodedInst h k d) := by
  refine State.setInst_Only _ _ _ (by decide) (State.chanOps_Only _ _ (by decide) (by decide) (by decide) (by decide) (by decide) ?_)
  rw [State.talliesCleared_eq]
  exact OnlyChanges.cnv_upd _ (by decide) (.refl _ s)

theorem State.decodedInst_Acts : ActsOnly s (s.decodedInst h k d) := by
  refine .trans (t := s.talliesCleared h k d.toNat (s.chan h).width) ?_ ((State.chanOps_Acts _ 1).trans (.of_gov rfl))
  rw [State.talliesCleared_eq]
  exact .of_gov rfl

/-- Among the converters a decode changes the tallies and the instance. -/
theorem State.decodedInst_cnv : (s.decodedInst h k d).cnv =
    ((s.talliesCleared h k d.toNat (s.chan h).width).setInst h k (s.instDecoded h k d)).cnv := by
  have hcnv := State.chanOps_cnv (s.talliesCleared h k d.toNat (s.chan h).width) 1
  unfold State.decodedInst
  simp only [State.setInst, hcnv]

theorem State.decodedInst_decodes : (s.decodedInst h k d).cnv.decodes = s.cnv.decodes := by
  rw [State.decodedInst_cnv, State.talliesCleared_eq]
  rfl

/-- No DECODE waits that could take its values. -/
theorem State.serveDecodes_none {s : State} (hq : s.cnv.decodes = []) : s.serveDecodes = s := by
  unfold State.serveDecodes
  rw [hq]
  rfl

variable {s} in
theorem State.inst_decodedInst (hw : Tab.wf (fun _ => Inst.empty) s.cnv.insts) (hk : k < 2 ^ 18) :
    (s.decodedInst h k d).inst h k = s.instDecoded h k d ∧
      ∀ a b, b < 2 ^ 18 → (a, b) ≠ (h, k) → (s.decodedInst h k d).inst a b = s.inst a b := by
  have hinst := State.inst_congr (congrArg Converters.insts (s.decodedInst_cnv h k d))
  have hclear := s.talliesCleared_eq h k d.toNat (s.chan h).width
  have hw' : Tab.wf (fun _ => Inst.empty) (s.talliesCleared h k d.toNat (s.chan h).width).cnv.insts := by
    rw [hclear]
    exact hw
  refine ⟨(hinst h k).trans (State.inst_setInst_same hw' h k _), fun a b hb hne => (hinst a b).trans ?_⟩
  rw [State.inst_setInst_other hw' _ (instKey_ne hb hk hne), hclear]
  rfl

variable {s} in
theorem State.tally_decodedInst (hw : Tab.wf (fun _ => 0) s.cnv.tallies) {i : Nat} (hi : i < (s.chan h).width) :
    (s.decodedInst h k d).tally h k d.toNat i = 0 :=
  (State.tally_congr (congrArg Converters.tallies (s.decodedInst_cnv h k d)) h k d.toNat i).trans
    (State.tally_talliesCleared hw h k d.toNat _ hi)

/-- The decoders of a binding rest on the channels and the contexts. -/
theorem State.decoders_of_tables {s t : State} (hchans : t.cnv.chans = s.cnv.chans) (hctxs : t.cmd.ctxs = s.cmd.ctxs) (b : Nat) :
    t.decoders b = s.decoders b := by
  have hchan : t.chan = s.chan := funext fun h => congrArg (Tab.get (fun _ => Chan.empty) · h) hchans
  have hctxsOf : t.ctxsOf = s.ctxsOf := funext fun k => by unfold State.ctxsOf; rw [hctxs]
  have hchanCtxs : t.chanCtxs = s.chanCtxs := funext fun h => by unfold State.chanCtxs; rw [hchan, hctxsOf]
  unfold State.decoders State.chansOf
  rw [hchans, hchanCtxs]

theorem State.mem_decoders {s : State} {b : Nat} {q : Nat × Nat} :
    q ∈ s.decoders b ↔ ∃ a ∈ s.chansOf b true, ∃ p ∈ s.chanCtxs a, q = (a, p.2.cidx.toNat) := by
  simp only [State.decoders, List.mem_flatMap, List.mem_map, eq_comm]

theorem State.noneDue_iff {s : State} {b : Nat} : s.noneDue b = true ↔ ∀ q ∈ s.decoders b, (s.inst q.1 q.2).due = none := by
  simp only [State.noneDue, List.all_eq_true, decide_eq_true_eq, State.mem_decoders]
  exact ⟨fun hall q ⟨a, ha, p, hp, hq⟩ => hq ▸ hall a ha p hp, fun hall a ha p hp => hall (a, p.2.cidx.toNat) ⟨a, ha, p, hp, rfl⟩⟩

/-- The step's update instant waits while the decode of another instance is due (R249). -/
theorem State.noneDue_decodedInst {s : State} (hw : Tab.wf (fun _ => Inst.empty) s.cnv.insts) {h k : Nat} (hk : k < 2 ^ 18) (d : BitVec 48) {b : Nat}
    {q : Nat × Nat} (hq : q ∈ s.decoders b) (hne : q ≠ (h, k)) (hdue : (s.inst q.1 q.2).due ≠ none) : (s.decodedInst h k d).noneDue b = false := by
  rw [Bool.eq_false_iff, ne_eq, State.noneDue_iff]
  intro hall
  have hchans : (s.decodedInst h k d).cnv.chans = s.cnv.chans := by
    rw [State.decodedInst_cnv, State.talliesCleared_eq]
    rfl
  have hctxs : (s.decodedInst h k d).cmd.ctxs = s.cmd.ctxs := congrArg CmdPlane.ctxs ((s.decodedInst_parts h k d).same .cmd (by decide))
  have hlt : q.2 < 2 ^ 18 := by
    obtain ⟨a, -, p, -, rfl⟩ := State.mem_decoders.mp hq
    exact p.2.cidx.isLt
  have hnone := hall q (by rw [State.decoders_of_tables hchans hctxs]; exact hq)
  rw [(State.inst_decodedInst h k d hw hk).2 q.1 q.2 hlt hne] at hnone
  exact hdue hnone

end

/-- Taps are counted in the tally of the running step; the decode of a step while another one of the binding is still due. -/
theorem tapsAndDecode : Spec.TapsAndDecode := by
  intro s ch k neuron cnt p d c tap x n step hist hs ha hp
  refine ⟨tapAccepted hs ha hp, fun hdue hawake hhome hsound _ hturn hother hnone => ?_⟩
  obtain ⟨q, hq, hne, hqdue⟩ := hother
  have hinsts := Canon_insts hs
  have heq := State.decodeInstance_eq (d := d) ⟨hdue, hawake, hhome, hsound, hturn⟩
  rw [State.noneDue_decodedInst hinsts k.isLt d hq hne hqdue, if_neg Bool.false_ne_true,
    State.serveDecodes_none ((State.decodedInst_decodes s _ _ d).trans hnone)] at heq
  obtain ⟨he, hv⟩ := s.instDecoded_values ch.toNat k.toNat d
  have hexec : exec (.decodeInstance ch k) s = live s fun s => s.decodeInstance ch.toNat k.toNat := rfl
  refine Run_of_live ha hexec ?_ ?_
  · rw [heq]
    exact Frame_of_acts (State.decodedInst_parts s _ _ d) (State.decodedInst_Acts s _ _ d)
  · rw [heq, (State.inst_decodedInst ch.toNat k.toNat d hinsts k.isLt).1]
    exact ⟨fun hc => State.instDecoded_rate hc k.toNat d, hv, rfl, rfl, rfl, he, fun i hi => State.tally_decodedInst _ _ d (Canon_tallies hs) hi⟩

end Sys2Proof.Machine
end

section
namespace Sys2Proof.Machine

/-! ## ACT_SNAPSHOT (R248, R250) -/

/-- Values are updated in instances alone: no entry of the ACT frames changes. -/
theorem State.emitAll_acts (s : State) (b : Nat) (l : List Nat) : (s.emitAll b l).cnv.acts = s.cnv.acts := by
  have hinsts : ∀ (s : State) (h : Nat) (xs : List (Nat × Inst)), (s.forAll xs (fun s x => s.setInst h x.1 x.2)).cnv.acts = s.cnv.acts :=
    fun s h xs => by
      induction xs generalizing s with
      | nil => rfl
      | cons x r ih => exact ih (s.setInst h x.1 x.2)
  unfold State.emitAll
  dsimp only
  generalize s.rbit (Reg.cmdStepStatus b) 3 = ramped
  generalize ((s.bnd b).running && (s.bnd b).overran) = overran
  induction l generalizing s with
  | nil => rfl
  | cons h r ih => exact (ih _).trans (hinsts _ _ _)

theorem State.act_congr {s t : State} (h : t.cnv.acts = s.cnv.acts) (f : Nat) : t.act f = s.act f :=
  congrArg (Tab.get (fun _ => ActFrame.empty) · f) h

theorem snapshotTaken {s : State} (hs : Canon s) (ha : Alive s) {f : BitVec 8} (hp : s.actPending f.toNat = true) :
    Spec.To (.actSnapshot f) s [.reg, .cnv] (fun t => (t.act f.toNat).seq = (s.act f.toNat).seq ∧
      ((t.act f.toNat).frame = none ↔ s.frameChans f.toNat (fieldOf (s.rget (Reg.cnvActCfg f.toNat)) 24 6) = [])) := by
  have hexec : exec (.actSnapshot f) s = live s fun s => s.actSnapshot f.toNat := rfl
  refine To_of_live ha hexec (State.actSnapshot_Only s _ (by decide) (by decide) (.refl _ s)) ?_
  unfold State.actSnapshot
  rw [hp, Bool.not_true, if_neg Bool.false_ne_true]
  generalize fieldOf (s.rget (Reg.cnvActCfg f.toNat)) 24 6 = b
  have hacts := s.emitAll_acts b (s.frameChans f.toNat b)
  dsimp only
  generalize s.frameChans f.toNat b = l at *
  rw [State.act_setAct_same (by rw [hacts]; exact Canon_acts hs)]
  refine ⟨(congrArg ActFrame.seq (State.act_congr hacts f.toNat)).trans rfl, ?_⟩
  by_cases hl : l = [] <;> simp [hl]

/-! ## ACT_FRAME_TRANSMIT (R416) -/

/-- Whether a frame leaves at a port: its link is up, and where MACsec is required there is an SA to send with. -/
def State.actLeaves (s : State) (p : Nat) : Bool :=
  s.rbit (Reg.ethPortStat p) 31 && !(s.rbit (Reg.ethPortCfg p) 31 && s.portSas p 0 = [])

theorem State.actOut_eq (s : State) (f p : Nat) (seq : Word) (tag : Option (BitVec 16)) (l : List Byte) : s.actOut f p seq tag l =
    if s.actLeaves p then s.send (.act (BitVec.ofNat 1 p) (BitVec.ofNat 8 f) seq tag l) else s.count (Reg.ethPortActDrop p) 1 := by
  unfold State.actOut State.actLeaves
  cases s.rbit (Reg.ethPortStat p) 31 <;> cases s.rbit (Reg.ethPortCfg p) 31 && decide (s.portSas p 0 = []) <;> rfl

/-- The state in which the frame of entry `f` is taken out and, where it is replicated, the number of its R-TAG given. -/
def State.actGone (s : State) (f p : Nat) : State :=
  let t := s.setAct f { s.act f with seq := (s.act f).seq + 1, frame := none }
  { t with eth := { t.eth with rtag := if s.actReplicated p then s.eth.rtag + 1 else s.eth.rtag } }

/-- The frame goes out at its port, and where it is replicated at the other one. -/
def State.actSent (s : State) (f p : Nat) (l : List Byte) : State :=
  let tag := if s.actReplicated p then some s.eth.rtag else none
  let t := (s.actGone f p).actOut f p (s.act f).seq tag l
  if s.actReplicated p then t.actOut f (1 - p) (s.act f).seq tag l else t

theorem State.actTransmit_eq {s : State} {f : Nat} {v : BitVec 18 × List (BitVec 12) × List (List ActVal)} (hawake : s.awake = true)
    (hv : (s.act f).frame = some v) : s.actTransmit f =
      let t := s.actSent f (fieldOf (s.rget (Reg.cnvActCfg f)) 30 1) (framePayload f v.1.toNat v.2.1.length v.2.2)
      if t.actPending f then t.actForce f else t := by
  unfold State.actTransmit
  generalize fieldOf (s.rget (Reg.cnvActCfg f)) 30 1 = p
  dsimp only
  rw [hawake, Bool.not_true, if_neg Bool.false_ne_true, hv]
  have hrep : (s.setAct f { s.act f with seq := (s.act f).seq + 1, frame := none }).actReplicated p = s.actReplicated p := rfl
  unfold State.actSent State.actGone
  dsimp only
  rw [hrep]
  cases s.actReplicated p <;> rfl

/-! ### What a frame that goes out or is dropped changes -/

section
variable (s : State) (f p : Nat) (l : List Byte)

theorem State.actOut_parts (seq : Word) (tag : Option (BitVec 16)) : OnlyChanges [.reg, .out] s (s.actOut f p seq tag l) := by
  rw [State.actOut_eq]
  split
  · exact State.send_Only _ (by decide) (.refl _ s)
  · exact State.count_Only _ _ _ (by decide) (.refl _ s)
theorem State.actOut_FileOnly (seq : Word) (tag : Option (BitVec 16)) : FileOnly [Reg.ethPortActDrop p] s (s.actOut f p seq tag l) := by
  rw [State.actOut_eq]
  exact .ite (fun _ => .of_reg rfl) fun _ => .rset s _ (by simp)

theorem State.actSent_parts : OnlyChanges [.reg, .out] (s.actGone f p) (s.actSent f p l) := by
  unfold State.actSent
  dsimp only
  split
  · exact (State.actOut_parts _ _ _ _ _ _).trans (State.actOut_parts _ _ _ _ _ _)
  · exact State.actOut_parts _ _ _ _ _ _
theorem State.actSent_FileOnly : FileOnly [Reg.ethPortActDrop p, Reg.ethPortActDrop (1 - p)] s (s.actSent f p l) := by
  have hgone : FileOnly [Reg.ethPortActDrop p, Reg.ethPortActDrop (1 - p)] s (s.actGone f p) := .of_reg rfl
  have hown := fun seq tag => (State.actOut_FileOnly (s.actGone f p) f p l seq tag).mono
    (m := [Reg.ethPortActDrop p, Reg.ethPortActDrop (1 - p)]) (by simp)
  unfold State.actSent
  dsimp only
  exact .ite (fun _ => hgone.trans ((hown _ _).trans ((State.actOut_FileOnly _ f (1 - p) l _ _).mono (by simp)))) fun _ => hgone.trans (hown _ _)

theorem State.actSent_eth : (s.actSent f p l).eth = { s.eth with rtag := if s.actReplicated p then s.eth.rtag + 1 else s.eth.rtag } :=
  ((s.actSent_parts f p l).same .eth (by decide)).trans rfl
theorem State.actSent_cnv : (s.actSent f p l).cnv =
    (s.setAct f { s.act f with seq := (s.act f).seq + 1, frame := none }).cnv := ((s.actSent_parts f p l).same .cnv (by decide)).trans rfl

variable {s p} in
/-- Where its port sends it the frame is among the outputs, and where it is replicated at the other port too, if that sends it. -/
theorem State.actSent_out (h : s.actLeaves p = true) : (s.actSent f p l).out =
    s.out ++ [.act (BitVec.ofNat 1 p) (BitVec.ofNat 8 f) (s.act f).seq (if s.actReplicated p then some s.eth.rtag else none) l] ++
      (if s.actReplicated p && s.actLeaves (1 - p) then
        [.act (BitVec.ofNat 1 (1 - p)) (BitVec.ofNat 8 f) (s.act f).seq (if s.actReplicated p then some s.eth.rtag else none) l] else []) := by
  have hgone : (s.actGone f p).actLeaves p = true := h
  have hother : ∀ o, ((s.actGone f p).send o).actLeaves (1 - p) = s.actLeaves (1 - p) := fun _ => rfl
  unfold State.actSent
  dsimp only
  rw [State.actOut_eq (s.actGone f p) f p, if_pos hgone, State.actOut_eq _ f (1 - p), hother]
  cases hrep : s.actReplicated p with
  | false => exact (List.append_nil _).symm
  | true => cases hleaves : s.actLeaves (1 - p) with
    | false => exact (List.append_nil _).symm
    | true => rfl

variable {s p} in
/-- Where its port does not send it the frame counts as dropped there. -/
theorem State.actSent_dropped (hr : Tab.wf regReset s.reg.vals) (h : s.actLeaves p = false) :
    (s.actSent f p l).rfield (Reg.ethPortActDrop p) 0 32 = min (s.rfield (Reg.ethPortActDrop p) 0 32 + 1) (2 ^ 32 - 1) := by
  have hgone : (s.actGone f p).actLeaves p = false := h
  have hvals : Tab.wf regReset (s.actGone f p).reg.vals := hr
  have hcount := State.rfield_satAdd_same hvals (Reg.ethPortActDrop p) 1 (lo := 0) (w := 32) (by decide)
  have hother : ∀ seq tag, (((s.actGone f p).count (Reg.ethPortActDrop p) 1).actOut f (1 - p) seq tag l).rget (Reg.ethPortActDrop p) =
      ((s.actGone f p).count (Reg.ethPortActDrop p) 1).rget (Reg.ethPortActDrop p) := fun seq tag =>
    (State.actOut_FileOnly _ f (1 - p) l seq tag).regs.get (Tab.wf_set hvals _ _) (by simp only [Reg.ethPortActDrop, List.mem_singleton]; omega)
  unfold State.actSent
  dsimp only
  rw [State.actOut_eq (s.actGone f p) f p, hgone, if_neg Bool.false_ne_true]
  split
  · rw [State.rfield, hother]
    exact hcount
  · exact hcount

end

/-! ### The writes that waited come into force (R256) -/

section
variable {s : State} (hr : Tab.wf regReset s.reg.vals) (f : Nat)
include hr

theorem State.actForce_reads : (∀ w, (s.act f).cfgNext = some w → (s.actForce f).rget (Reg.cnvActCfg f) = w) ∧
    (∀ w, (s.act f).leadNext = some w → (s.actForce f).rget (Reg.cnvActLead f) = w) := by
  have hne : Reg.cnvActCfg f ≠ Reg.cnvActLead f := by simp only [Reg.cnvActCfg, Reg.cnvActLead]; omega
  have hset : Tab.wf regReset (s.setAct f { s.act f with cfgNext := none, leadNext := none }).reg.vals := hr
  unfold State.actForce
  dsimp only
  constructor
  · intro w hw
    rw [hw]
    cases (s.act f).leadNext with
    | none => exact State.rget_rset_same hset _ w
    | some v => exact (State.rget_rset_other (Tab.wf_set hset _ w) v hne).trans (State.rget_rset_same hset _ w)
  · intro w hw
    rw [hw]
    cases (s.act f).cfgNext with
    | none => exact State.rget_rset_same hset _ w
    | some v => exact State.rget_rset_same (Tab.wf_set hset _ v) _ w

omit hr in
theorem State.actForce_nothing (hcfg : (s.act f).cfgNext = none) (hlead : (s.act f).leadNext = none) : (s.actForce f).reg = s.reg := by
  unfold State.actForce
  dsimp only
  rw [hcfg, hlead]
  rfl

/-- Whether an opening of entry `f` is pending rests on registers that no dropped frame counts in. -/
theorem State.actPending_FileOnly {t : State} {p : Nat} (ht : FileOnly [Reg.ethPortActDrop p, Reg.ethPortActDrop (1 - p)] s t) :
    t.actPending f = s.actPending f := by
  have hget : ∀ {a}, a ∉ [Reg.ethPortActDrop p, Reg.ethPortActDrop (1 - p)] → t.rget a = s.rget a := fun ha => ht.regs.get hr ha
  have hdrop : ∀ {a}, a ∉ [Reg.ethPortActDrop p, Reg.ethPortActDrop (1 - p)] ↔ a ≠ 0x70001C + p * 0x100 ∧ a ≠ 0x70001C + (1 - p) * 0x100 := by
    intro a
    simp only [List.mem_cons, List.not_mem_nil, or_false, not_or, Reg.ethPortActDrop, ne_eq]
  have hcfg : t.rget (Reg.cnvActCfg f) = s.rget (Reg.cnvActCfg f) := hget (hdrop.mpr (by simp only [Reg.cnvActCfg]; omega))
  have hlead : t.rget (Reg.cnvActLead f) = s.rget (Reg.cnvActLead f) := hget (hdrop.mpr (by simp only [Reg.cnvActLead]; omega))
  have hlen : ∀ q, t.rget (Reg.ethGclLen q) = s.rget (Reg.ethGclLen q) := fun q => hget (hdrop.mpr (by simp only [Reg.ethGclLen]; omega))
  have hpcp : ∀ q, t.rget (Reg.ethPortPcp q) = s.rget (Reg.ethPortPcp q) := fun q => hget (hdrop.mpr (by simp only [Reg.ethPortPcp]; omega))
  have hgate : ∀ q, t.rget (Reg.ethGclGate q) = s.rget (Reg.ethGclGate q) := fun q => hget (hdrop.mpr (by simp only [Reg.ethGclGate]; omega))
  unfold State.actPending State.actTc State.rfield State.rbit
  simp only [hcfg, hlead, hlen, hpcp, hgate]

end

/-! ### What ACT_FRAME_TRANSMIT leaves -/

/-- From `u`, in which the frame of entry `f` is gone, the entry's waiting writes come into force where an opening is pending. -/
def State.actOpened (u : State) (f : Nat) : State := if u.actPending f then u.actForce f else u

theorem State.actOpened_parts (u : State) (f : Nat) : OnlyChanges [.reg, .cnv] u (u.actOpened f) := by
  unfold State.actOpened
  split
  · exact State.actForce_Only u f (by decide) (by decide) (.refl _ u)
  · exact .refl _ u

section
variable {u : State} (f : Nat)

/-- The entry afterwards: its frame and its SEQ as they were, and no write waiting where an opening is pending. -/
theorem State.act_actOpened (hw : Tab.wf (fun _ => ActFrame.empty) u.cnv.acts) : (u.actOpened f).act f =
    if u.actPending f then { u.act f with cfgNext := none, leadNext := none } else u.act f := by
  unfold State.actOpened
  split
  · exact (State.act_congr (congrArg Converters.acts (u.actForce_cnv f)) f).trans (State.act_setAct_same hw f _)
  · rfl

theorem State.actOpened_nothing (hcfg : (u.act f).cfgNext = none) (hlead : (u.act f).leadNext = none) : (u.actOpened f).reg = u.reg := by
  unfold State.actOpened
  split
  · exact State.actForce_nothing f hcfg hlead
  · rfl

end

section
variable {s : State} (hs : Canon s) (f p : Nat) (l : List Byte)
include hs

theorem State.act_actSent : (s.actSent f p l).act f = { s.act f with seq := (s.act f).seq + 1, frame := none } :=
  (State.act_congr (congrArg Converters.acts (s.actSent_cnv f p l)) f).trans (State.act_setAct_same (Canon_acts hs) f _)

theorem State.acts_actSent : Tab.wf (fun _ => ActFrame.empty) (s.actSent f p l).cnv.acts := by
  rw [State.actSent_cnv]
  exact Tab.wf_set (Canon_acts hs) _ _

/-- The frame of entry `f` at port `p`, and what its opening brings into force. -/
def State.actDone (s : State) (f p : Nat) (l : List Byte) : State := (s.actSent f p l).actOpened f

omit hs in
theorem State.actDone_parts : OnlyChanges [.reg, .cnv, .eth, .out] s (s.actDone f p l) := by
  have hgone : OnlyChanges [.reg, .cnv, .eth, .out] s (s.actGone f p) :=
    OnlyChanges.eth_upd _ (by decide) (State.setAct_Only _ _ (by decide) (.refl _ s))
  exact hgone.trans (((s.actSent_parts f p l).mono (by decide)).trans ((State.actOpened_parts _ f).mono (by decide)))

theorem State.act_actDone : (s.actDone f p l).act f =
    if s.actPending f then { s.act f with seq := (s.act f).seq + 1, frame := none, cfgNext := none, leadNext := none }
    else { s.act f with seq := (s.act f).seq + 1, frame := none } := by
  have h := State.act_actOpened f (State.acts_actSent hs f p l)
  rw [State.actPending_FileOnly (Canon_vals hs) f (s.actSent_FileOnly f p l), State.act_actSent hs] at h
  exact h

/-- At a pending opening the writes that waited are in force. -/
theorem State.actDone_reads (hpend : s.actPending f = true) :
    (∀ w, (s.act f).cfgNext = some w → (s.actDone f p l).rget (Reg.cnvActCfg f) = w) ∧
      (∀ w, (s.act f).leadNext = some w → (s.actDone f p l).rget (Reg.cnvActLead f) = w) := by
  have hfile := s.actSent_FileOnly f p l
  have hreads := State.actForce_reads (hfile.regs.wf (Canon_vals hs)) f
  have hpend' : (s.actSent f p l).actPending f = true := (State.actPending_FileOnly (Canon_vals hs) f hfile).trans hpend
  rw [State.act_actSent hs] at hreads
  unfold State.actDone State.actOpened
  rw [if_pos hpend']
  exact hreads

end

theorem State.actLeaves_iff {s : State} {p : Nat} : s.actLeaves p = true ↔
    s.rbit (Reg.ethPortStat p) 31 = true ∧ (s.rbit (Reg.ethPortCfg p) 31 = true → s.portSas p 0 ≠ []) := by
  simp only [State.actLeaves, Bool.and_eq_true, Bool.not_eq_true', Bool.and_eq_false_iff, decide_eq_false_iff_not, Classical.or_iff_not_imp_left,
    Bool.not_eq_false]

/-- The snapshot of a frame, and its transmission where the port sends it and where the port is down. -/
theorem actFrames : Spec.ActFrames := by
  intro s f v cfg b port x l tag other hs ha
  have hexec : exec (.actFrameTransmit f) s = live s fun s => s.actTransmit f.toNat := rfl
  have hf : BitVec.ofNat 8 f.toNat = f := BitVec.eq_of_toNat_eq (by simp)
  have hentry := State.act_actDone hs f.toNat port l
  refine ⟨snapshotTaken hs ha, fun hawake hv hup hsas => ?_, fun hawake hv hdown hcfg hlead => ?_⟩
  · have hdone : s.actTransmit f.toNat = s.actDone f.toNat port l := State.actTransmit_eq hawake hv
    have heth := ((s.actSent f.toNat port l).actOpened_parts f.toNat).same .eth (by decide)
    have hout := ((s.actSent f.toNat port l).actOpened_parts f.toNat).same .out (by decide)
    refine To_of_live ha hexec (hdone ▸ s.actDone_parts f.toNat port l) ?_
    rw [hdone]
    refine ⟨?_, ?_, ?_, heth.trans (s.actSent_eth f.toNat port l), fun hpend => ⟨?_, ?_, ?_, ?_⟩, fun hpend => ⟨?_, ?_⟩⟩
    · refine hout.trans ((State.actSent_out f.toNat l (State.actLeaves_iff.mpr ⟨hup, hsas⟩)).trans ?_)
      rw [hf]
      rfl
    · rw [hentry]; split <;> rfl
    · rw [hentry]; split <;> rfl
    · rw [hentry, if_pos hpend]
    · rw [hentry, if_pos hpend]
    · exact (State.actDone_reads hs f.toNat port l hpend).1
    · exact (State.actDone_reads hs f.toNat port l hpend).2
    · rw [hentry, hpend]; rfl
    · rw [hentry, hpend]; rfl
  · have hdone : s.actTransmit f.toNat = s.actDone f.toNat port l := State.actTransmit_eq hawake hv
    have hsent := State.act_actSent hs f.toNat port l
    have hreg : (s.actDone f.toNat port l).reg = (s.actSent f.toNat port l).reg :=
      State.actOpened_nothing f.toNat (by rw [hsent]; exact hcfg) (by rw [hsent]; exact hlead)
    have hfile : FileOnly [Reg.ethPortActDrop port, Reg.ethPortActDrop (1 - port)] s (s.actDone f.toNat port l) :=
      (s.actSent_FileOnly f.toNat port l).trans (.of_reg hreg)
    have hstays : s.actLeaves port = false := by
      unfold State.actLeaves
      rw [hdown]
      rfl
    refine To_of_live ha hexec (hdone ▸ s.actDone_parts f.toNat port l) ?_
    rw [hdone]
    refine ⟨?_, ?_, hfile.onlyRegs (Canon_vals hs) (Canon_live hs)⟩
    · rw [← State.actSent_dropped f.toNat l (Canon_vals hs) hstays]
      simp only [State.rfield, State.rget, hreg]
    · rw [hentry]; split <;> rfl

/-- Settles O25: a tap by what the buffer and the tally hold after it (`tapAccept_eq`); a decode by the instance that it makes
(`decodeInstance_eq`, `instDecoded_values`) while another one is due; a frame by the way it takes at each port (`actOut_eq`) and the writes that
come into force behind it (`act_actDone`). -/
theorem decodersAndActFrames : Obligations.DecodersAndActFrames := ⟨tapsAndDecode, actFrames⟩

end Sys2Proof.Machine
end
